-- ==== Sys2Proof/Word.lean ====
section
/-! DEFINITION. The word types of the PH5032: 32-bit registers, bytes. -/

namespace Sys2Proof

/-- A 32-bit register or table word (00_scope.md, Notation). -/
abbrev Word := BitVec 32

/-- One byte of a packet, a key buffer or a memory. -/
abbrev Byte := BitVec 8

end Sys2Proof
end

