-- ==== Sys2Proof/Machine/Tab.lean ====
section
/-! DEFINITION. Sparse tables in one canonical form: a list of (key, value) pairs, keys strictly rising, no entry
equal to what an unlisted key reads as. The value of an unlisted key is the argument `d` of every operation. -/

namespace Sys2Proof.Machine

set_option autoImplicit false

/-- A sparse table. -/
abbrev Tab (α : Type) := List (Nat × α)

/-- The entry listed for a key, if any. -/
def Tab.find {α : Type} : Tab α → Nat → Option α
  | [], _ => none
  | (k, v) :: t, i => if k = i then some v else Tab.find t i

/-- Read of a key: its listed value, or the value an unlisted key has. -/
def Tab.get {α : Type} (d : Nat → α) (t : Tab α) (i : Nat) : α :=
  match Tab.find t i with
  | some v => v
  | none => d i

/-- The table without a key. -/
def Tab.drop {α : Type} : Tab α → Nat → Tab α
  | [], _ => []
  | (k, v) :: t, i => if k = i then Tab.drop t i else (k, v) :: Tab.drop t i

/-- Insertion of a key that is not listed, before the first larger key. -/
def Tab.put {α : Type} : Tab α → Nat → α → Tab α
  | [], i, x => [(i, x)]
  | (k, v) :: t, i, x => if i < k then (i, x) :: (k, v) :: t else (k, v) :: Tab.put t i x

/-- Write of a key: writing the value an unlisted key has removes the entry. -/
def Tab.set {α : Type} [DecidableEq α] (d : Nat → α) (t : Tab α) (i : Nat) (x : α) : Tab α :=
  if x = d i then Tab.drop t i else Tab.put (Tab.drop t i) i x

/-- Update of one key by a function. -/
def Tab.mod {α : Type} [DecidableEq α] (d : Nat → α) (t : Tab α) (i : Nat) (f : α → α) : Tab α :=
  Tab.set d t i (f (Tab.get d t i))

/-- Strictly rising keys, all above a bound. -/
def Tab.rising {α : Type} : Option Nat → Tab α → Bool
  | _, [] => true
  | none, (k, _) :: t => Tab.rising (some k) t
  | some b, (k, _) :: t => decide (b < k) && Tab.rising (some k) t

/-- The canonical form of a table. -/
def Tab.wf {α : Type} [DecidableEq α] (d : Nat → α) (t : Tab α) : Bool :=
  Tab.rising none t && t.all (fun p => decide (p.2 ≠ d p.1))

end Sys2Proof.Machine
end

