-- ==== Sys2Proof/Machine/StLdg.lean ====
section
/-! DEFINITION. Ledger and exact-match entries, update jobs and sweeps: the state of 07_ledger_and_exact_match.md
besides words. -/

namespace Sys2Proof.Machine

set_option autoImplicit false

/-- A lookup result of four words (Table 7-1). -/
structure Quad where
  a : Word
  b : Word
  c : Word
  d : Word
deriving DecidableEq, Repr

/-- A result of zeros. -/
def Quad.zero : Quad := ⟨0, 0, 0, 0⟩

/-- Epoch fields of an entry: BORN, and DIED of a KILLED one (R241). -/
structure Life where
  born : Nat
  died : Option Nat
deriving DecidableEq, Repr

/-- A Ledger entry (R219, R220): value and care bits from the most significant bit of its first row, priority, epoch
fields, result. -/
structure LEnt where
  value : Nat
  care : Nat
  prio : Nat
  life : Life
  result : Quad
deriving DecidableEq, Repr

/-- An exact-match cell (R235). -/
structure Cell where
  key : List Byte
  table : Nat
  life : Life
  result : Quad
deriving DecidableEq, Repr

/-- An INSERT under way (R225, R226): port, the moves still to make, the entry and the index it is written at. -/
structure InsJob where
  port : Nat
  moves : List (Nat × Nat)
  ent : LEnt
  index : Nat
deriving DecidableEq, Repr

/-- What a command port executes over several commands: an INSERT's moves, or the sweep of a DISCARD. -/
inductive LdgJob where
  | insert (j : InsJob)
  | discard (port epoch : Nat)
deriving DecidableEq, Repr

/-- A lookup's answer (Tables 7-1 and 7-2): status 0 HIT, 1 MISS, 2 DEFAULT, 3 HIT with TIE. -/
structure LRes where
  status : Nat
  index : Nat
  epoch : Nat
  prio : Nat
  prof : Nat
  result : Quad
deriving DecidableEq, Repr

/-- What the reads of one command find (R233, R240): the Ledger row whose cells disagree with their shadow at the winning
entry, and the exact-match cells read with an error and whether it is uncorrectable. -/
structure Reads where
  upset : Option Nat
  ecc : List (Nat × Bool)
deriving DecidableEq, Repr

/-- Reads that find no error. -/
def Reads.clean : Reads := ⟨none, []⟩

/-- 07_ledger_and_exact_match.md besides words: entries by the index of their first row, cells by cell index, words of
each profile written since it was last invalid (R215), the command under way, the other port's command word with what its reads find, the
epoch a retirement sweep runs for, and the draining epochs already reported stuck (R250). -/
structure Ldg where
  rows : Tab (Option LEnt)
  cells : Tab (Option Cell)
  profs : Tab Nat
  job : Option LdgJob
  held : Option (Nat × Word × Reads)
  sweep : Option Nat
  stuck : List Nat
deriving DecidableEq, Repr

/-- Ledger and exact match at reset: no entry. -/
def Ldg.reset : Ldg := ⟨[], [], [], none, none, none, []⟩

end Sys2Proof.Machine
end

