-- ==== Sys2Proof/Machine/StPm.lean ====
section
/-! DEFINITION. Performance-monitoring records of 15_counters_and_observability.md and the Steward's provisioning state
of 16_startup_and_live_update.md (R526, R527). -/

namespace Sys2Proof.Machine

set_option autoImplicit false

/-- Events of the PM second under way for a record (R491): codewords, uncorrectable codewords, HEC errors, missed bursts
(or lost frames), a part of the second unmonitored (R496), a US_LOSS cause active in it. -/
structure PmAcc where
  cw : Nat
  unc : Nat
  hec : Nat
  miss : Nat
  unmon : Bool
  loss : Bool
deriving DecidableEq, Repr

/-- A second with no event. -/
def PmAcc.zero : PmAcc := ⟨0, 0, 0, 0, false, false⟩

/-- A PM record (Table 15-7). `run` counts consecutive SES, or non-SES while unavailable; `hist` holds the seconds of that run:
whether each was ES, and its number; `crossed` the thresholds reached in the current interval (R499). -/
structure PmRec where
  unavail : Bool
  monitored : Bool
  es : Nat
  ses : Nat
  uas : Nat
  curEs : Nat
  curSes : Nat
  curUas : Nat
  prevEs : Nat
  prevSes : Nat
  prevUas : Nat
  hist : List (Bool × Nat)
  crossed : List Nat
deriving DecidableEq, Repr

/-- An AVAILABLE record with zero counts. -/
def PmRec.clear : PmRec := ⟨false, false, 0, 0, 0, 0, 0, 0, 0, 0, 0, [], []⟩

/-- A PM event log entry (Table 15-8). -/
structure PmEvent where
  type_ : Nat
  rec_ : Nat
  t : Nat
  value : Nat
deriving DecidableEq, Repr

/-- A log entry never written. -/
def PmEvent.zero : PmEvent := ⟨0, 0, 0, 0⟩

/-- PM state: seconds under way and records by record index, serial number each ONU's records hold, log of 1,024
entries by place, places not yet read; first second of the current and of the previous interval, multiple of 900 s the
output time last lay in, whether the output time jumped in the current interval and whether the previous one is SUSPECT
(R497); downstream seconds monitored since the last request by slot, those of each request not yet reported (R492), the
records of a port side classified so far, with their ES and SES, by side and second (R493); number of the second under way. -/
structure Pm where
  acc : Tab PmAcc
  recs : Tab PmRec
  owner : Tab Nat
  log : Tab PmEvent
  unread : List Nat
  intStart : Nat
  prevStart : Nat
  at900 : Int
  jumped : Bool
  prevSuspect : Bool
  dsWait : Tab (List Nat)
  dsAsked : Tab (List (List Nat))
  dsPort : Tab (Option (Nat × Nat × Nat))
  second : Nat
deriving DecidableEq, Repr

/-- PM at reset. -/
def Pm.reset : Pm := ⟨[], [], [], [], [], 0, 0, 0, false, false, [], [], [], 0⟩

/-- A patch of a window record (Table 16-8). -/
structure Patch where
  word : Nat
  lsb : Nat
  pMul : Nat
  sMul : Nat
deriving DecidableEq, Repr

/-- A template record (Table 16-8): a window write (window 0 WHF allocation, 1 SCH queue, 2 SCH ONU node, 3 SCH bucket,
4 KEY context) or an OMCI message. -/
inductive TRec where
  | win (window base pStride sStride : Nat) (patches : List Patch) (data : List Word)
  | omci (bytes : List Byte)
deriving DecidableEq, Repr

/-- A provisioning template: its number, the HOST flag, its records. -/
structure Template where
  number : Nat
  host : Bool
  recs : List TRec
deriving DecidableEq, Repr

/-- Provisioning of a slot: entries enabled (window, index), OMCI messages still to send, one awaiting its response. -/
structure Prov where
  enabled : List (Nat × Nat)
  todo : List (List Byte)
  waiting : Bool
deriving DecidableEq, Repr

/-- A slot not provisioned. -/
def Prov.none : Prov := ⟨[], [], false⟩

/-- A message of an ONU that waits for the Steward while it does not run (R531): a Registration, a key report, the response to
an OMCI message. -/
inductive StwMsg where
  | registration (p slot : Nat) (regId : Nat)
  | keyReport (p slot : Nat) (dk sk : Nat)
  | omci (p slot : Nat) (good : Bool)
deriving DecidableEq, Repr

/-- Steward provisioning: templates of the image, slots under way, OMCI messages sent and not yet taken by an ONU (slot
key, content), slots whose Ranging_Time, and messages that, wait while the Steward does not run (R531), and this device's entries of the image's
LINKROOT section, still sealed (R331, R524). -/
structure Stw where
  templates : List Template
  prov : Tab Prov
  omci : List (Nat × List Byte)
  rtWait : List Nat
  inbox : List StwMsg
  paused : Bool
  links : List (List Byte)
deriving DecidableEq, Repr

/-- The Steward before an image. -/
def Stw.reset : Stw := ⟨[], [], [], [], [], false, []⟩

end Sys2Proof.Machine
end

