-- ==== Sys2Proof/Config.lean ====
section
/-! DEFINITION. What one device fixes (OTP and order code), and the free values: constants with no body, of which no
proof can see a value. -/

namespace Sys2Proof

/-- The two order codes of Table 0-1. -/
inductive OrderCode where
  | c | x
deriving DecidableEq, Repr, Inhabited

/-- Order code of the device, from OTP (R1, R536). -/
opaque Config.order : OrderCode

/-- PCI vendor ID of Nornuward Silicon; the spec does not give its number (R536). -/
opaque Config.vendorId : Nat

/-- Device serial number of GLB_SERIAL, below 2^64, from OTP (R536). -/
opaque Config.serial : Nat

/-- OTP floor of the security version number at manufacture (R519, R536). -/
opaque Config.svnFloor : Nat

/-- Capacity of the flash in bytes, from its SFDP table, at most 512 MiB (R518). -/
opaque Config.flashSize : Nat

/-- Start-time unit of the 50G side at rate row 0, 1 or 2, in bits at the ONU's rate: the unit G.9804.2 defines, whose
number the spec does not give (R105). -/
opaque Config.startUnit50 (row : Nat) : Nat

/-- The map an image algorithm gives a side: bursts as (start, ONU, profile index, structures (allocation index,
payload, DBRu, PLOAM)). The spec gives the code no instruction set, so its map is a free value (R529). -/
opaque Config.imageMap (free port side : Nat) : List (Nat × Nat × Nat × List (Nat × Nat × Bool × Bool))

/-- Whether a downstream PLOAM message of a type requires an acknowledgement: the standards' choice, which the spec does
not repeat (R66). Types: 0 Assign_ONU-ID, 1 Ranging_Time, 2 Deactivate_ONU-ID, 3 Disable_Serial_Number,
4 Request_Registration, 5 Burst_Profile, 6 Key_Control, 7 any other. -/
opaque Config.needsAck (mtype : Nat) : Bool

/-- Which of the free buffers of a pool Cooperage hands out: its free lists' order is not given (R257, R262). -/
opaque Config.pickBuffer (free : Nat) : Nat

/-- Which of the free slots the Steward gives an ONU with no fixed slot: the spec names none (R79, Table 3-2). -/
opaque Config.pickSlot (free : Nat) : Nat

/-- The n-th value the spec leaves open in a place of its own: used where a rule gives an effect and not the value. -/
opaque Config.freeValue (n : Nat) : Nat

/-- Which of the shortest displacement paths of an exact-match ADD is taken: the search's order is not given (R238). -/
opaque Config.pickPath (free : Nat) : Nat

/-- Byte the express parser takes at an offset it does not read: past byte 127 of the frame in an extract, past the
frame's end in the class bits. The spec gives it no value (R143, R146). -/
opaque Config.unreadByte (off : Nat) : BitVec 8

/-- Whether MIN and MAX compare as signed numbers: the spec does not say (Table 6-4). -/
opaque Config.minSigned : Bool

/-- Flags C and V after an ALU operation that is not an addition, subtraction or comparison: the spec does not say what
they become (Table 6-2). -/
opaque Config.aluC (op : Nat) (a b : BitVec 32) : Bool
opaque Config.aluV (op : Nat) (a b : BitVec 32) : Bool

/-- Result of an ALU operation the spec gives none for: a shift by 32 or more, a bit field of width 0 or beyond bit 31
(Table 6-4). -/
opaque Config.aluOpen (op : Nat) (a b : BitVec 32) : BitVec 32

/-- A special register number that names none, as MOVS reads it (Table 6-2). -/
opaque Config.noSpecial (n : Nat) : BitVec 32

/-- Content of the n-th byte an INS inserts: the spec gives it no value (R195). -/
opaque Config.insByte (n : Nat) : BitVec 8

/-- Fitted LPDDR4X: all 16 channels rather than channels 0 to 7, and 16 Gbit rather than 8 Gbit per channel (R581). -/
opaque Config.memAll : Bool
opaque Config.mem16 : Bool

/-- Fitted LPDDR4X in units of 64 MiB, the 7/8 that R299 addresses (R581). -/
def Config.memUnits : Nat := (if Config.memAll then 16 else 8) * (if Config.mem16 then 28 else 14)

/-- 256 bits of the device root in OTP (Table 9-1, R303). -/
opaque Config.otpRoot : Nat

/-- Fixed transmit delay of a port's PON lanes in 2^−48 ns (R382): a fixed delay the spec gives no number. -/
opaque Config.laneDelay (port : Nat) : Nat

/-- PSync of the 50G side, 64 bits: the value G.9804.2 defines, which the spec does not repeat (Table 2-2). -/
opaque Config.psync50 : Nat

/-- The payload of a twin message of a type other than HEARTBEAT: Table 10-3 names its content and no layout. -/
opaque Config.twinPayload (n type_ : Nat) : List (BitVec 8)

/-- The bytes of a downstream PLOAM message before its integrity code, by ONU-ID, message code, sequence number and two
operands: the standards' layout, which the spec does not repeat (R66, R310). -/
opaque Config.ploamContent (onu code seq a b : Nat) : List (BitVec 8)

end Sys2Proof
end

