-- ==== Sys2Proof/Machine/Kinds.lean ====
section
/-! DEFINITION. The fault kinds of Tables 14-5, 16-19 and 17-13, the fault sources of Table 14-2 and the reset
value of FLT_KIND[k] word 0. -/

namespace Sys2Proof.Machine

/-- A fault kind (14_faults_and_safe_state.md Table 14-5, 16_startup_and_live_update.md Table 16-19,
17_host_interface_and_register_map.md Table 17-13). -/
inductive Kind where
  | FLT_MSG_LOST
  | FLT_INTERNAL
  | HANDSHAKE_STALL
  | STATE_UNCORR
  | SRAM_ECC_CORR
  | PKT_ECC_UNCORR
  | ASSAYER_MISMATCH
  | CIPHER_MISMATCH
  | TEMP_WARN
  | TEMP_RANGE
  | SUPPLY_RANGE
  | VOLT_GLITCH
  | CLK_GLITCH
  | TAMPER
  | REF_CLK_LOSS
  | BOUNDARY_UNDERRUN
  | BOUNDARY_OVERRUN
  | PACE_IMPLAUSIBLE
  | PACE_LOW
  | STEWARD_WDOG
  | MAP_LATE
  | STRAY_LIGHT
  | US_LOSS
  | SYNC_LOST
  | ACT_RANGE_FAIL
  | DUP_SERIAL
  | UNAUTH_ONU
  | ONU_LOST
  | PLOAM_NO_ACK
  | ROGUE_ONU
  | ROGUE_UNRESOLVED
  | RAMP_TIMEOUT
  | MAP_REPAIRED
  | DBA_FALLBACK
  | DBA_STARVE
  | CAP_EXCEEDED
  | FSI_SWAP_REFUSED
  | ADM_DROP
  | CLASS_NO_GUILD
  | REORDER_FULL
  | REORDER_SKIP
  | ENGINE_WDOG
  | ENGINE_PARITY
  | ENGINE_TEST
  | ENGINE_TRAP
  | COST_OVER
  | CODE_ECC
  | CODE_UNCORR
  | CODE_REJECTED
  | CODE_CHECK_FAIL
  | DRAIN_STUCK
  | LDG_CELL_FIX
  | LDG_UNCORR
  | LDG_TEST_FAIL
  | EXM_ECC_CORR
  | EXM_UNCORR
  | EXM_STASH_HIGH
  | EPOCH_STUCK
  | DOUBLE_FREE
  | BAD_HANDLE
  | POOL_EMPTY
  | REPL_NOBUF
  | CELLAR_BUSY
  | CELLAR_FULL
  | CELLAR_UNCORR
  | BUCKET_MISUSE
  | BUF_LEAK
  | BUF_AUDIT
  | KEY_ROTATE_DUE
  | KEY_EXHAUSTED
  | MIC_FAIL
  | TAG_FAIL
  | CIPHER_LENGTH
  | KEY_ERASED
  | TWIN_TAKEOVER
  | TWIN_SPLIT
  | TWIN_LINK_DOWN
  | MIRROR_GAP
  | DELTA_RANGE
  | SFC_MISMATCH
  | RELEASE_FAIL
  | TIME_SRC_LOST
  | TIME_HOLDOVER
  | TIME_STEPPED
  | TIME_SWITCHED
  | PHASE_LARGE
  | PPS_MISSING
  | TOD_MSG_ERR
  | TS_OVERFLOW
  | SYNCE_SQUELCH
  | PON_REF_DRIFT
  | LANE_TRAIN_FAIL
  | LANE_DOWN
  | LANE_MISMATCH
  | LANE_REVERT
  | LINK_CRC
  | ULK_LINK_DOWN
  | EYE_MARGIN_LOW
  | FABRIC_ADDR_CONFLICT
  | FABRIC_NO_ADDR
  | FABRIC_NO_ROUTE
  | CASCADE_MASTER_LOST
  | MEM_ECC_CORR
  | MEM_UNCORR
  | WDN_LATE
  | SRAM_TEST_FAIL
  | STRAP_INVALID
  | FLASH_ERR
  | IMAGE_BANK_BAD
  | IMAGE_NONE
  | STAGE_LATE
  | TEMPLATE_FAIL
  | STW_FW_REJECTED
  | STW_FW_FALLBACK
  | HST_DENIED
  | HST_LINK_DOWN
  | HST_DMA_FAULT
  | HST_FLR
  | HST_RX_NOBUF
deriving DecidableEq, Repr

/-- KIND code of the message layout. -/
def Kind.code : Kind → Nat
  | .FLT_MSG_LOST => 0x01
  | .FLT_INTERNAL => 0x02
  | .HANDSHAKE_STALL => 0x03
  | .STATE_UNCORR => 0x04
  | .SRAM_ECC_CORR => 0x05
  | .PKT_ECC_UNCORR => 0x06
  | .ASSAYER_MISMATCH => 0x07
  | .CIPHER_MISMATCH => 0x08
  | .TEMP_WARN => 0x09
  | .TEMP_RANGE => 0x0A
  | .SUPPLY_RANGE => 0x0B
  | .VOLT_GLITCH => 0x0C
  | .CLK_GLITCH => 0x0D
  | .TAMPER => 0x0E
  | .REF_CLK_LOSS => 0x0F
  | .BOUNDARY_UNDERRUN => 0x10
  | .BOUNDARY_OVERRUN => 0x11
  | .PACE_IMPLAUSIBLE => 0x12
  | .PACE_LOW => 0x13
  | .STEWARD_WDOG => 0x14
  | .MAP_LATE => 0x20
  | .STRAY_LIGHT => 0x21
  | .US_LOSS => 0x22
  | .SYNC_LOST => 0x23
  | .ACT_RANGE_FAIL => 0x28
  | .DUP_SERIAL => 0x29
  | .UNAUTH_ONU => 0x2A
  | .ONU_LOST => 0x2B
  | .PLOAM_NO_ACK => 0x2C
  | .ROGUE_ONU => 0x2D
  | .ROGUE_UNRESOLVED => 0x2E
  | .RAMP_TIMEOUT => 0x2F
  | .MAP_REPAIRED => 0x30
  | .DBA_FALLBACK => 0x31
  | .DBA_STARVE => 0x32
  | .CAP_EXCEEDED => 0x33
  | .FSI_SWAP_REFUSED => 0x34
  | .ADM_DROP => 0x38
  | .CLASS_NO_GUILD => 0x39
  | .REORDER_FULL => 0x3A
  | .REORDER_SKIP => 0x3B
  | .ENGINE_WDOG => 0x40
  | .ENGINE_PARITY => 0x41
  | .ENGINE_TEST => 0x42
  | .ENGINE_TRAP => 0x43
  | .COST_OVER => 0x44
  | .CODE_ECC => 0x45
  | .CODE_UNCORR => 0x46
  | .CODE_REJECTED => 0x47
  | .CODE_CHECK_FAIL => 0x48
  | .DRAIN_STUCK => 0x49
  | .LDG_CELL_FIX => 0x50
  | .LDG_UNCORR => 0x51
  | .LDG_TEST_FAIL => 0x52
  | .EXM_ECC_CORR => 0x53
  | .EXM_UNCORR => 0x54
  | .EXM_STASH_HIGH => 0x55
  | .EPOCH_STUCK => 0x56
  | .DOUBLE_FREE => 0x58
  | .BAD_HANDLE => 0x59
  | .POOL_EMPTY => 0x5A
  | .REPL_NOBUF => 0x5B
  | .CELLAR_BUSY => 0x5C
  | .CELLAR_FULL => 0x5D
  | .CELLAR_UNCORR => 0x5E
  | .BUCKET_MISUSE => 0x5F
  | .BUF_LEAK => 0x60
  | .BUF_AUDIT => 0x61
  | .KEY_ROTATE_DUE => 0x68
  | .KEY_EXHAUSTED => 0x69
  | .MIC_FAIL => 0x6A
  | .TAG_FAIL => 0x6B
  | .CIPHER_LENGTH => 0x6C
  | .KEY_ERASED => 0x6D
  | .TWIN_TAKEOVER => 0x70
  | .TWIN_SPLIT => 0x71
  | .TWIN_LINK_DOWN => 0x72
  | .MIRROR_GAP => 0x73
  | .DELTA_RANGE => 0x74
  | .SFC_MISMATCH => 0x75
  | .RELEASE_FAIL => 0x76
  | .TIME_SRC_LOST => 0x78
  | .TIME_HOLDOVER => 0x79
  | .TIME_STEPPED => 0x7A
  | .TIME_SWITCHED => 0x7B
  | .PHASE_LARGE => 0x7C
  | .PPS_MISSING => 0x7D
  | .TOD_MSG_ERR => 0x7E
  | .TS_OVERFLOW => 0x7F
  | .SYNCE_SQUELCH => 0x80
  | .PON_REF_DRIFT => 0x81
  | .LANE_TRAIN_FAIL => 0x88
  | .LANE_DOWN => 0x89
  | .LANE_MISMATCH => 0x8A
  | .LANE_REVERT => 0x8B
  | .LINK_CRC => 0x8C
  | .ULK_LINK_DOWN => 0x8D
  | .EYE_MARGIN_LOW => 0x8E
  | .FABRIC_ADDR_CONFLICT => 0x90
  | .FABRIC_NO_ADDR => 0x91
  | .FABRIC_NO_ROUTE => 0x92
  | .CASCADE_MASTER_LOST => 0x93
  | .MEM_ECC_CORR => 0x98
  | .MEM_UNCORR => 0x99
  | .WDN_LATE => 0xA0
  | .SRAM_TEST_FAIL => 0xA1
  | .STRAP_INVALID => 0xB0
  | .FLASH_ERR => 0xB1
  | .IMAGE_BANK_BAD => 0xB2
  | .IMAGE_NONE => 0xB3
  | .STAGE_LATE => 0xB4
  | .TEMPLATE_FAIL => 0xB5
  | .STW_FW_REJECTED => 0xB6
  | .STW_FW_FALLBACK => 0xB7
  | .HST_DENIED => 0xC0
  | .HST_LINK_DOWN => 0xC1
  | .HST_DMA_FAULT => 0xC2
  | .HST_FLR => 0xC3
  | .HST_RX_NOBUF => 0xC4

/-! Default class (0 CORRECTED, 1 CONTAINED, 2 FATAL) and reaction bits (INT 4, ISO 2, FATAL 1) by kind code. -/

def kindDefaults0 : List (Nat × Nat × Nat) := [
  (0x01, 1, 4),
  (0x02, 2, 1),
  (0x03, 2, 1),
  (0x04, 2, 1),
  (0x05, 0, 0),
  (0x06, 1, 4),
  (0x07, 2, 1),
  (0x08, 2, 1),
  (0x09, 0, 0),
  (0x0A, 2, 1),
  (0x0B, 1, 4),
  (0x0C, 1, 4),
  (0x0D, 1, 4),
  (0x0E, 1, 4),
  (0x0F, 2, 1),
  (0x10, 1, 4),
  (0x11, 1, 4),
  (0x12, 1, 4),
  (0x13, 1, 4),
  (0x14, 1, 4),
  (0x20, 1, 4),
  (0x21, 0, 0),
  (0x22, 1, 4),
  (0x23, 0, 0),
  (0x28, 0, 0)]

def kindDefaults1 : List (Nat × Nat × Nat) := [
  (0x29, 1, 4),
  (0x2A, 0, 0),
  (0x2B, 0, 0),
  (0x2C, 0, 0),
  (0x2D, 1, 4),
  (0x2E, 1, 4),
  (0x2F, 1, 4),
  (0x30, 1, 4),
  (0x31, 1, 4),
  (0x32, 1, 4),
  (0x33, 1, 4),
  (0x34, 0, 0),
  (0x38, 0, 0),
  (0x39, 1, 4),
  (0x3A, 1, 4),
  (0x3B, 1, 4),
  (0x40, 1, 6),
  (0x41, 1, 6),
  (0x42, 1, 6),
  (0x43, 0, 0),
  (0x44, 0, 0),
  (0x45, 0, 0),
  (0x46, 1, 6),
  (0x47, 0, 0),
  (0x48, 1, 6)]

def kindDefaults2 : List (Nat × Nat × Nat) := [
  (0x49, 1, 4),
  (0x50, 0, 0),
  (0x51, 1, 4),
  (0x52, 1, 6),
  (0x53, 0, 0),
  (0x54, 1, 4),
  (0x55, 0, 0),
  (0x56, 1, 4),
  (0x58, 1, 4),
  (0x59, 1, 4),
  (0x5A, 1, 4),
  (0x5B, 0, 0),
  (0x5C, 0, 0),
  (0x5D, 0, 0),
  (0x5E, 1, 4),
  (0x5F, 0, 0),
  (0x60, 0, 0),
  (0x61, 1, 4),
  (0x68, 0, 0),
  (0x69, 1, 4),
  (0x6A, 0, 0),
  (0x6B, 1, 4),
  (0x6C, 1, 4),
  (0x6D, 1, 4),
  (0x70, 1, 4)]

def kindDefaults3 : List (Nat × Nat × Nat) := [
  (0x71, 1, 4),
  (0x72, 1, 4),
  (0x73, 0, 0),
  (0x74, 1, 4),
  (0x75, 1, 4),
  (0x76, 1, 4),
  (0x78, 0, 0),
  (0x79, 1, 4),
  (0x7A, 0, 0),
  (0x7B, 0, 0),
  (0x7C, 1, 4),
  (0x7D, 0, 0),
  (0x7E, 0, 0),
  (0x7F, 0, 0),
  (0x80, 0, 0),
  (0x81, 1, 4),
  (0x88, 0, 0),
  (0x89, 1, 4),
  (0x8A, 1, 4),
  (0x8B, 0, 0),
  (0x8C, 0, 0),
  (0x8D, 1, 4),
  (0x8E, 0, 0),
  (0x90, 1, 4),
  (0x91, 1, 4)]

def kindDefaults4 : List (Nat × Nat × Nat) := [
  (0x92, 0, 0),
  (0x93, 1, 4),
  (0x98, 0, 0),
  (0x99, 1, 4),
  (0xA0, 1, 4),
  (0xA1, 1, 4),
  (0xB0, 0, 0),
  (0xB1, 1, 4),
  (0xB2, 1, 4),
  (0xB3, 1, 4),
  (0xB4, 1, 4),
  (0xB5, 0, 0),
  (0xB6, 0, 0),
  (0xB7, 1, 4),
  (0xC0, 0, 0),
  (0xC1, 1, 4),
  (0xC2, 1, 4),
  (0xC3, 0, 0),
  (0xC4, 0, 0)]

/-- Tables 14-5, 16-19 and 17-13: code, class, reaction. -/
def kindDefaults : List (Nat × Nat × Nat) :=
  kindDefaults0 ++ kindDefaults1 ++ kindDefaults2 ++ kindDefaults3 ++ kindDefaults4

/-- Table 14-7: code, N, window in ms, SEV_REACT. -/
def filterDefaults : List (Nat × Nat × Nat × Nat) := [
  (0x21, 16, 100, 4),
  (0x05, 16, 1000, 4),
  (0x45, 4, 1000, 6),
  (0x50, 4, 1000, 6),
  (0x53, 16, 1000, 4),
  (0x98, 16, 1000, 4),
  (0x99, 4, 1000, 6),
  (0x8C, 16, 1000, 4),
  (0x8B, 4, 1000, 4)]

/-- Kinds marked "cond": their cause persists at a source (R454, R461). -/
def Kind.cond : Kind → Bool
  | .TEMP_WARN | .TEMP_RANGE | .SUPPLY_RANGE | .TAMPER | .REF_CLK_LOSS | .PACE_IMPLAUSIBLE | .PACE_LOW | .US_LOSS | .CLASS_NO_GUILD | .EXM_STASH_HIGH | .EPOCH_STUCK | .CELLAR_BUSY | .KEY_EXHAUSTED | .KEY_ERASED | .TWIN_SPLIT | .TWIN_LINK_DOWN | .DELTA_RANGE | .TIME_HOLDOVER | .PHASE_LARGE | .SYNCE_SQUELCH | .PON_REF_DRIFT | .ULK_LINK_DOWN | .FABRIC_NO_ADDR | .CASCADE_MASTER_LOST | .WDN_LATE | .IMAGE_NONE | .HST_LINK_DOWN => true
  | _ => false

/-- Reset value of FLT_KIND[k] word 0 (Table 14-18): class and reaction of Table 14-5, filter of Table 14-7; a kind
without a filter row has N = 0 and SEV_REACT its reaction with INT. The window fields of a kind with N = 0 and the
word of a code in no table are given by no table: DESIGN CHOICE, zero (log entry 3). -/
def resetKind (code : Nat) : Word :=
  let d := (kindDefaults.find? (fun r => r.1 == code)).getD (code, 0, 0)
  let cls := d.2.1
  let react := d.2.2
  match filterDefaults.find? (fun r => r.1 == code) with
  | some f => BitVec.ofNat 32 (cls * 2 ^ 30 + react * 2 ^ 27 + f.2.2.2 * 2 ^ 24 + f.2.1 * 2 ^ 16 + 2 ^ 15 + f.2.2.1)
  | none => BitVec.ofNat 32 (cls * 2 ^ 30 + react * 2 ^ 27 + (react ||| 4) * 2 ^ 24)

/-- A block that sends fault messages (Table 14-2). -/
inductive Blk where
  | GLB | FLT | TLY | HRL | BOOT | TWN | SHL | HST | KEY | CPG | SCH | SRT | XPR | LDG | EXM | WDN
  | PT | WHF | FSI | ULK | MEM | GLD | STW | ANA | LSIO
deriving DecidableEq, Repr

/-- Block code of Table 14-2. -/
def Blk.code : Blk → Nat
  | .GLB => 0x01
  | .FLT => 0x02
  | .TLY => 0x03
  | .HRL => 0x04
  | .BOOT => 0x05
  | .TWN => 0x06
  | .SHL => 0x07
  | .HST => 0x08
  | .KEY => 0x09
  | .CPG => 0x0A
  | .SCH => 0x0B
  | .SRT => 0x0C
  | .XPR => 0x0D
  | .LDG => 0x0E
  | .EXM => 0x0F
  | .WDN => 0x10
  | .PT => 0x11
  | .WHF => 0x12
  | .FSI => 0x13
  | .ULK => 0x14
  | .MEM => 0x15
  | .GLD => 0x16
  | .STW => 0x17
  | .ANA => 0x18
  | .LSIO => 0x19

/-- Fault source: block and instance (R444). -/
structure Source where
  blk : Blk
  inst : Nat
deriving DecidableEq, Repr

/-- The SOURCE field: block code in bits 11:6, instance in bits 5:0 of the 12-bit field. -/
def Source.code (x : Source) : Nat := x.blk.code * 64 + x.inst % 64

/-- The outbox a source's messages wait in: one per port block, uplink lane and guild, one for every other block.
DEDUCED (log entry 4). -/
def Source.box (x : Source) : Nat :=
  match x.blk with
  | .PT | .ULK | .GLD => x.code
  | b => b.code * 64

end Sys2Proof.Machine
end

