-- ==== Sys2Proof/Machine/Regs.lean ====
section
/-! DEFINITION. The register map of BAR0: one field name per row of the spec's register tables, each an address,
the lowest bit and the width. An instanced block's registers take the instance `n`, an array's take the index `k`
(00_scope.md Names and 17_host_interface_and_register_map.md Table 17-3). -/

namespace Sys2Proof.Machine

/-- A field of a register or table word: the word's key, the lowest bit, the width. -/
structure Fld where
  addr : Nat
  lo : Nat
  w : Nat
deriving DecidableEq, Repr

abbrev Reg.GLD_PACE.VALID (n : Nat) : Fld := ⟨0x400F00 + n * 0x10000, 31, 1⟩
abbrev Reg.GLD_PACE.RETIRED (n : Nat) : Fld := ⟨0x400F00 + n * 0x10000, 30, 1⟩
abbrev Reg.GLD_PACE.IMPLAUSIBLE (n : Nat) : Fld := ⟨0x400F00 + n * 0x10000, 29, 1⟩
abbrev Reg.GLD_PACE.FILTERED (n : Nat) : Fld := ⟨0x400F00 + n * 0x10000, 14, 14⟩
abbrev Reg.GLD_PACE.INSTANT (n : Nat) : Fld := ⟨0x400F00 + n * 0x10000, 0, 14⟩
/-- Address of GLD_PACE. -/
abbrev Reg.GLD_PACE.addr (n : Nat) : Nat := 0x400F00 + n * 0x10000
abbrev Reg.WHF_PACE_CFG.FLOOR : Fld := ⟨0x300100, 16, 14⟩
abbrev Reg.WHF_PACE_CFG.MARGIN : Fld := ⟨0x300100, 8, 8⟩
abbrev Reg.WHF_PACE_CFG.RISE_SHIFT : Fld := ⟨0x300100, 4, 4⟩
/-- Address of WHF_PACE_CFG. -/
abbrev Reg.WHF_PACE_CFG.addr : Nat := 0x300100
abbrev Reg.WHF_PACE_STATUS.FLOOR_SUBST : Fld := ⟨0x300104, 31, 1⟩
abbrev Reg.WHF_PACE_STATUS.BELOW_FLOOR : Fld := ⟨0x300104, 30, 1⟩
abbrev Reg.WHF_PACE_STATUS.HEALTHY_GUILDS : Fld := ⟨0x300104, 23, 7⟩
abbrev Reg.WHF_PACE_STATUS.MIN_FILTERED : Fld := ⟨0x300104, 0, 14⟩
/-- Address of WHF_PACE_STATUS. -/
abbrev Reg.WHF_PACE_STATUS.addr : Nat := 0x300104
abbrev Reg.WHF_CORE_RATE.SUSTAIN : Fld := ⟨0x300108, 0, 16⟩
/-- Address of WHF_CORE_RATE. -/
abbrev Reg.WHF_CORE_RATE.addr : Nat := 0x300108
abbrev Reg.PT_DS_CFG.EN50 (n : Nat) : Fld := ⟨0x100000 + n * 0x10000, 31, 1⟩
abbrev Reg.PT_DS_CFG.EN10 (n : Nat) : Fld := ⟨0x100000 + n * 0x10000, 30, 1⟩
abbrev Reg.PT_DS_CFG.SCR_OFF (n : Nat) : Fld := ⟨0x100000 + n * 0x10000, 29, 1⟩
abbrev Reg.PT_DS_CFG.FEC_OFF (n : Nat) : Fld := ⟨0x100000 + n * 0x10000, 28, 1⟩
/-- Address of PT_DS_CFG. -/
abbrev Reg.PT_DS_CFG.addr (n : Nat) : Nat := 0x100000 + n * 0x10000
abbrev Reg.PT_PHASE.OFFSET (n : Nat) : Fld := ⟨0x100004 + n * 0x10000, 0, 24⟩
/-- Address of PT_PHASE. -/
abbrev Reg.PT_PHASE.addr (n : Nat) : Nat := 0x100004 + n * 0x10000
abbrev Reg.PT_SFC_LO.SFC (n : Nat) : Fld := ⟨0x100008 + n * 0x10000, 0, 32⟩
/-- Address of PT_SFC_LO. -/
abbrev Reg.PT_SFC_LO.addr (n : Nat) : Nat := 0x100008 + n * 0x10000
abbrev Reg.PT_SFC_HI.SFC (n : Nat) : Fld := ⟨0x10000C + n * 0x10000, 0, 19⟩
/-- Address of PT_SFC_HI. -/
abbrev Reg.PT_SFC_HI.addr (n : Nat) : Nat := 0x10000C + n * 0x10000
abbrev Reg.PT_OCB_LO.OC (n : Nat) : Fld := ⟨0x100010 + n * 0x10000, 0, 32⟩
/-- Address of PT_OCB_LO. -/
abbrev Reg.PT_OCB_LO.addr (n : Nat) : Nat := 0x100010 + n * 0x10000
abbrev Reg.PT_OCB_HI.OC (n : Nat) : Fld := ⟨0x100014 + n * 0x10000, 0, 19⟩
/-- Address of PT_OCB_HI. -/
abbrev Reg.PT_OCB_HI.addr (n : Nat) : Nat := 0x100014 + n * 0x10000
abbrev Reg.PT_PID_LO.PID (n : Nat) : Fld := ⟨0x100018 + n * 0x10000, 0, 32⟩
/-- Address of PT_PID_LO. -/
abbrev Reg.PT_PID_LO.addr (n : Nat) : Nat := 0x100018 + n * 0x10000
abbrev Reg.PT_PID_HI.PID (n : Nat) : Fld := ⟨0x10001C + n * 0x10000, 0, 19⟩
/-- Address of PT_PID_HI. -/
abbrev Reg.PT_PID_HI.addr (n : Nat) : Nat := 0x10001C + n * 0x10000
abbrev Reg.PT_ALN_CFG.MODE50 (n : Nat) : Fld := ⟨0x100040 + n * 0x10000, 30, 2⟩
abbrev Reg.PT_ALN_CFG.MODE10 (n : Nat) : Fld := ⟨0x100040 + n * 0x10000, 28, 2⟩
abbrev Reg.PT_ALN_CFG.SYNC_TOL (n : Nat) : Fld := ⟨0x100040 + n * 0x10000, 24, 4⟩
/-- Address of PT_ALN_CFG. -/
abbrev Reg.PT_ALN_CFG.addr (n : Nat) : Nat := 0x100040 + n * 0x10000
abbrev Reg.PT_ALN_STATUS.STATE50 (n : Nat) : Fld := ⟨0x100044 + n * 0x10000, 30, 2⟩
abbrev Reg.PT_ALN_STATUS.STATE10 (n : Nat) : Fld := ⟨0x100044 + n * 0x10000, 28, 2⟩
abbrev Reg.PT_ALN_STATUS.LOST50 (n : Nat) : Fld := ⟨0x100044 + n * 0x10000, 27, 1⟩
abbrev Reg.PT_ALN_STATUS.LOST10 (n : Nat) : Fld := ⟨0x100044 + n * 0x10000, 26, 1⟩
/-- Address of PT_ALN_STATUS. -/
abbrev Reg.PT_ALN_STATUS.addr (n : Nat) : Nat := 0x100044 + n * 0x10000
abbrev Reg.PT_ALN_PHASE.VALID (n : Nat) : Fld := ⟨0x100048 + n * 0x10000, 31, 1⟩
abbrev Reg.PT_ALN_PHASE.SIDE (n : Nat) : Fld := ⟨0x100048 + n * 0x10000, 30, 1⟩
abbrev Reg.PT_ALN_PHASE.DIFF (n : Nat) : Fld := ⟨0x100048 + n * 0x10000, 0, 24⟩
/-- Address of PT_ALN_PHASE. -/
abbrev Reg.PT_ALN_PHASE.addr (n : Nat) : Nat := 0x100048 + n * 0x10000
abbrev Reg.PT_US_CFG.DELIM_TOL (n : Nat) : Fld := ⟨0x100080 + n * 0x10000, 28, 4⟩
abbrev Reg.PT_US_CFG.GUARD (n : Nat) : Fld := ⟨0x100080 + n * 0x10000, 16, 12⟩
abbrev Reg.PT_US_CFG.RANGE_WIN (n : Nat) : Fld := ⟨0x100080 + n * 0x10000, 8, 8⟩
abbrev Reg.PT_US_CFG.BRST_W (n : Nat) : Fld := ⟨0x100080 + n * 0x10000, 0, 5⟩
/-- Address of PT_US_CFG. -/
abbrev Reg.PT_US_CFG.addr (n : Nat) : Nat := 0x100080 + n * 0x10000
abbrev Reg.PT_PRESET_CFG.MAX_AGE (n : Nat) : Fld := ⟨0x100084 + n * 0x10000, 24, 8⟩
abbrev Reg.PT_PRESET_CFG.TEMP_DELTA (n : Nat) : Fld := ⟨0x100084 + n * 0x10000, 16, 8⟩
abbrev Reg.PT_PRESET_CFG.MARGIN_MIN (n : Nat) : Fld := ⟨0x100084 + n * 0x10000, 8, 8⟩
abbrev Reg.PT_PRESET_CFG.SHORT_EN (n : Nat) : Fld := ⟨0x100084 + n * 0x10000, 0, 1⟩
/-- Address of PT_PRESET_CFG. -/
abbrev Reg.PT_PRESET_CFG.addr (n : Nat) : Nat := 0x100084 + n * 0x10000
abbrev Reg.PT_US_STATUS.GUARD_CLAMPED (n : Nat) : Fld := ⟨0x100088 + n * 0x10000, 31, 1⟩
abbrev Reg.PT_US_STATUS.PHASE_REFUSED (n : Nat) : Fld := ⟨0x100088 + n * 0x10000, 30, 1⟩
abbrev Reg.PT_US_STATUS.US_LOSS50 (n : Nat) : Fld := ⟨0x100088 + n * 0x10000, 29, 1⟩
abbrev Reg.PT_US_STATUS.US_LOSS10 (n : Nat) : Fld := ⟨0x100088 + n * 0x10000, 28, 1⟩
/-- Address of PT_US_STATUS. -/
abbrev Reg.PT_US_STATUS.addr (n : Nat) : Nat := 0x100088 + n * 0x10000
abbrev Reg.PT_BPROF_W0.VALID (n k : Nat) : Fld := ⟨0x100100 + n * 0x10000 + k * 0x10, 31, 1⟩
abbrev Reg.PT_BPROF_W0.FEC (n k : Nat) : Fld := ⟨0x100100 + n * 0x10000 + k * 0x10, 30, 1⟩
abbrev Reg.PT_BPROF_W0.SHORT (n k : Nat) : Fld := ⟨0x100100 + n * 0x10000 + k * 0x10, 29, 1⟩
abbrev Reg.PT_BPROF_W0.PRE_LEN (n k : Nat) : Fld := ⟨0x100100 + n * 0x10000 + k * 0x10, 16, 12⟩
abbrev Reg.PT_BPROF_W0.DELIM_LEN (n k : Nat) : Fld := ⟨0x100100 + n * 0x10000 + k * 0x10, 8, 8⟩
/-- Address of PT_BPROF_W0. -/
abbrev Reg.PT_BPROF_W0.addr (n k : Nat) : Nat := 0x100100 + n * 0x10000 + k * 0x10
abbrev Reg.PT_BPROF_W1.PRE_PAT (n k : Nat) : Fld := ⟨0x100104 + n * 0x10000 + k * 0x10, 0, 32⟩
/-- Address of PT_BPROF_W1. -/
abbrev Reg.PT_BPROF_W1.addr (n k : Nat) : Nat := 0x100104 + n * 0x10000 + k * 0x10
abbrev Reg.PT_BPROF_W2.DELIM_HI (n k : Nat) : Fld := ⟨0x100108 + n * 0x10000 + k * 0x10, 0, 32⟩
/-- Address of PT_BPROF_W2. -/
abbrev Reg.PT_BPROF_W2.addr (n k : Nat) : Nat := 0x100108 + n * 0x10000 + k * 0x10
abbrev Reg.PT_BPROF_W3.DELIM_LO (n k : Nat) : Fld := ⟨0x10010C + n * 0x10000 + k * 0x10, 0, 32⟩
/-- Address of PT_BPROF_W3. -/
abbrev Reg.PT_BPROF_W3.addr (n k : Nat) : Nat := 0x10010C + n * 0x10000 + k * 0x10
abbrev Reg.PT_TEQD.TEQD (n : Nat) : Fld := ⟨0x100200 + n * 0x10000, 0, 26⟩
/-- Address of PT_TEQD. -/
abbrev Reg.PT_TEQD.addr (n : Nat) : Nat := 0x100200 + n * 0x10000
abbrev Reg.PT_REACH.MIN_KM (n : Nat) : Fld := ⟨0x100204 + n * 0x10000, 24, 8⟩
abbrev Reg.PT_REACH.MAX_KM (n : Nat) : Fld := ⟨0x100204 + n * 0x10000, 16, 8⟩
abbrev Reg.PT_REACH.NS_PER_KM (n : Nat) : Fld := ⟨0x100204 + n * 0x10000, 0, 16⟩
/-- Address of PT_REACH. -/
abbrev Reg.PT_REACH.addr (n : Nat) : Nat := 0x100204 + n * 0x10000
abbrev Reg.PT_DISC_CFG.EN50 (n : Nat) : Fld := ⟨0x100208 + n * 0x10000, 31, 1⟩
abbrev Reg.PT_DISC_CFG.EN10 (n : Nat) : Fld := ⟨0x100208 + n * 0x10000, 30, 1⟩
abbrev Reg.PT_DISC_CFG.ROWS50 (n : Nat) : Fld := ⟨0x100208 + n * 0x10000, 27, 3⟩
abbrev Reg.PT_DISC_CFG.RAMP_PERIOD (n : Nat) : Fld := ⟨0x100208 + n * 0x10000, 16, 8⟩
abbrev Reg.PT_DISC_CFG.PERIOD (n : Nat) : Fld := ⟨0x100208 + n * 0x10000, 0, 16⟩
/-- Address of PT_DISC_CFG. -/
abbrev Reg.PT_DISC_CFG.addr (n : Nat) : Nat := 0x100208 + n * 0x10000
abbrev Reg.PT_RAMP_CFG.ADMIT_MAX (n : Nat) : Fld := ⟨0x10020C + n * 0x10000, 24, 8⟩
abbrev Reg.PT_RAMP_CFG.RAMP_TRIG (n : Nat) : Fld := ⟨0x10020C + n * 0x10000, 16, 8⟩
abbrev Reg.PT_RAMP_CFG.RAMP_QUIET (n : Nat) : Fld := ⟨0x10020C + n * 0x10000, 8, 8⟩
abbrev Reg.PT_RAMP_CFG.RAMP_MAX (n : Nat) : Fld := ⟨0x10020C + n * 0x10000, 0, 8⟩
/-- Address of PT_RAMP_CFG. -/
abbrev Reg.PT_RAMP_CFG.addr (n : Nat) : Nat := 0x10020C + n * 0x10000
abbrev Reg.PT_TRACK_CFG.RERANGE_THR (n : Nat) : Fld := ⟨0x100210 + n * 0x10000, 24, 8⟩
abbrev Reg.PT_TRACK_CFG.TRIM_THR (n : Nat) : Fld := ⟨0x100210 + n * 0x10000, 16, 8⟩
abbrev Reg.PT_TRACK_CFG.LOB_BURSTS (n : Nat) : Fld := ⟨0x100210 + n * 0x10000, 8, 8⟩
abbrev Reg.PT_TRACK_CFG.AUTH_MODE (n : Nat) : Fld := ⟨0x100210 + n * 0x10000, 1, 1⟩
abbrev Reg.PT_TRACK_CFG.ROGUE_EN (n : Nat) : Fld := ⟨0x100210 + n * 0x10000, 0, 1⟩
/-- Address of PT_TRACK_CFG. -/
abbrev Reg.PT_TRACK_CFG.addr (n : Nat) : Nat := 0x100210 + n * 0x10000
abbrev Reg.PT_ACT_STATUS.RAMP (n : Nat) : Fld := ⟨0x100214 + n * 0x10000, 31, 1⟩
abbrev Reg.PT_ACT_STATUS.TEQD_SHORT (n : Nat) : Fld := ⟨0x100214 + n * 0x10000, 30, 1⟩
abbrev Reg.PT_ACT_STATUS.TEQD_REFUSED (n : Nat) : Fld := ⟨0x100214 + n * 0x10000, 29, 1⟩
abbrev Reg.PT_ACT_STATUS.REACH_CLAMPED (n : Nat) : Fld := ⟨0x100214 + n * 0x10000, 28, 1⟩
abbrev Reg.PT_ACT_STATUS.CMD_BUSY (n : Nat) : Fld := ⟨0x100214 + n * 0x10000, 27, 1⟩
abbrev Reg.PT_ACT_STATUS.HUNT (n : Nat) : Fld := ⟨0x100214 + n * 0x10000, 26, 1⟩
abbrev Reg.PT_ACT_STATUS.ACTIVE_SLOTS (n : Nat) : Fld := ⟨0x100214 + n * 0x10000, 16, 9⟩
abbrev Reg.PT_ACT_STATUS.ADMIT_COUNT (n : Nat) : Fld := ⟨0x100214 + n * 0x10000, 8, 8⟩
/-- Address of PT_ACT_STATUS. -/
abbrev Reg.PT_ACT_STATUS.addr (n : Nat) : Nat := 0x100214 + n * 0x10000
abbrev Reg.PT_ACT_CMD.OP (n : Nat) : Fld := ⟨0x100218 + n * 0x10000, 28, 4⟩
abbrev Reg.PT_ACT_CMD.SLOT (n : Nat) : Fld := ⟨0x100218 + n * 0x10000, 0, 8⟩
/-- Address of PT_ACT_CMD. -/
abbrev Reg.PT_ACT_CMD.addr (n : Nat) : Nat := 0x100218 + n * 0x10000
abbrev Reg.PT_ACT_TMR.RANGE_TRIES (n : Nat) : Fld := ⟨0x10021C + n * 0x10000, 28, 4⟩
abbrev Reg.PT_ACT_TMR.ACK_TRIES (n : Nat) : Fld := ⟨0x10021C + n * 0x10000, 24, 4⟩
abbrev Reg.PT_ACT_TMR.ACK_WAIT (n : Nat) : Fld := ⟨0x10021C + n * 0x10000, 16, 8⟩
abbrev Reg.PT_ACT_TMR.LOST_WAIT (n : Nat) : Fld := ⟨0x10021C + n * 0x10000, 0, 16⟩
/-- Address of PT_ACT_TMR. -/
abbrev Reg.PT_ACT_TMR.addr (n : Nat) : Nat := 0x10021C + n * 0x10000
abbrev Reg.WHF_CTRL.EN : Fld := ⟨0x300000, 31, 1⟩
abbrev Reg.WHF_CTRL.ALG : Fld := ⟨0x300000, 30, 1⟩
abbrev Reg.WHF_CTRL.FALLBACK : Fld := ⟨0x300000, 29, 1⟩
/-- Address of WHF_CTRL. -/
abbrev Reg.WHF_CTRL.addr : Nat := 0x300000
abbrev Reg.WHF_STATUS.LAST_ASSAY : Fld := ⟨0x300004, 16, 16⟩
abbrev Reg.WHF_STATUS.LAST_BUILD : Fld := ⟨0x300004, 0, 16⟩
/-- Address of WHF_STATUS. -/
abbrev Reg.WHF_STATUS.addr : Nat := 0x300004
abbrev Reg.WHF_CAP_CFG.UP_FRAC : Fld := ⟨0x30010C, 8, 8⟩
/-- Address of WHF_CAP_CFG. -/
abbrev Reg.WHF_CAP_CFG.addr : Nat := 0x30010C
abbrev Reg.WHF_CAP_STATUS.CUT : Fld := ⟨0x300110, 31, 1⟩
abbrev Reg.WHF_CAP_STATUS.ASSURED_CUT : Fld := ⟨0x300110, 30, 1⟩
abbrev Reg.WHF_CAP_STATUS.CAP : Fld := ⟨0x300110, 0, 21⟩
/-- Address of WHF_CAP_STATUS. -/
abbrev Reg.WHF_CAP_STATUS.addr : Nat := 0x300110
abbrev Reg.WHF_CTI_CFG.EN : Fld := ⟨0x300120, 31, 1⟩
abbrev Reg.WHF_CTI_CFG.CTI_MAX : Fld := ⟨0x300120, 16, 8⟩
/-- Address of WHF_CTI_CFG. -/
abbrev Reg.WHF_CTI_CFG.addr : Nat := 0x300120
abbrev Reg.WHF_ASY_CFG.BDEACT_UNLOCK : Fld := ⟨0x300200, 31, 1⟩
abbrev Reg.WHF_ASY_CFG.STARVE_EN : Fld := ⟨0x300200, 30, 1⟩
/-- Address of WHF_ASY_CFG. -/
abbrev Reg.WHF_ASY_CFG.addr : Nat := 0x300200
abbrev Reg.WHF_ASY_STATUS.LOG_WR : Fld := ⟨0x300204, 8, 12⟩
abbrev Reg.WHF_ASY_STATUS.LOG_WRAPPED : Fld := ⟨0x300204, 7, 1⟩
/-- Address of WHF_ASY_STATUS. -/
abbrev Reg.WHF_ASY_STATUS.addr : Nat := 0x300204
abbrev Reg.WHF_BUDGET50.LIMIT (k : Nat) : Fld := ⟨0x300400 + k * 0x8, 0, 20⟩
/-- Address of WHF_BUDGET50. -/
abbrev Reg.WHF_BUDGET50.addr (k : Nat) : Nat := 0x300400 + k * 0x8
abbrev Reg.WHF_BUDGET10.LIMIT (k : Nat) : Fld := ⟨0x300404 + k * 0x8, 0, 20⟩
/-- Address of WHF_BUDGET10. -/
abbrev Reg.WHF_BUDGET10.addr (k : Nat) : Nat := 0x300404 + k * 0x8
abbrev Reg.FSI_SWAP_REQ.REQ : Fld := ⟨0x310000, 0, 32⟩
/-- Address of FSI_SWAP_REQ. -/
abbrev Reg.FSI_SWAP_REQ.addr : Nat := 0x310000
abbrev Reg.FSI_ACTIVE.PAGE : Fld := ⟨0x310004, 0, 32⟩
/-- Address of FSI_ACTIVE. -/
abbrev Reg.FSI_ACTIVE.addr : Nat := 0x310004
abbrev Reg.FSI_PERIODIC.PER : Fld := ⟨0x310008, 0, 32⟩
/-- Address of FSI_PERIODIC. -/
abbrev Reg.FSI_PERIODIC.addr : Nat := 0x310008
abbrev Reg.FSI_SWAP_STATUS.RESULT (k : Nat) : Fld := ⟨0x310100 + k * 0x4, 30, 2⟩
abbrev Reg.FSI_SWAP_STATUS.REASON (k : Nat) : Fld := ⟨0x310100 + k * 0x4, 24, 6⟩
abbrev Reg.FSI_SWAP_STATUS.SFC (k : Nat) : Fld := ⟨0x310100 + k * 0x4, 0, 24⟩
/-- Address of FSI_SWAP_STATUS. -/
abbrev Reg.FSI_SWAP_STATUS.addr (k : Nat) : Nat := 0x310100 + k * 0x4
abbrev Reg.XPR_ADM_CFG.EN : Fld := ⟨0xC0000, 31, 1⟩
abbrev Reg.XPR_ADM_CFG.LOW_FRAC : Fld := ⟨0xC0000, 16, 8⟩
abbrev Reg.XPR_ADM_CFG.DOWN_WIN : Fld := ⟨0xC0000, 12, 4⟩
abbrev Reg.XPR_ADM_CFG.BURST : Fld := ⟨0xC0000, 0, 10⟩
/-- Address of XPR_ADM_CFG. -/
abbrev Reg.XPR_ADM_CFG.addr : Nat := 0xC0000
abbrev Reg.XPR_ADM_SRC.WEIGHT (k : Nat) : Fld := ⟨0xC0100 + k * 0x4, 0, 8⟩
/-- Address of XPR_ADM_SRC. -/
abbrev Reg.XPR_ADM_SRC.addr (k : Nat) : Nat := 0xC0100 + k * 0x4
abbrev Reg.XPR_ADM_STATUS.LEVEL (k : Nat) : Fld := ⟨0xC0200 + k * 0x4, 29, 3⟩
abbrev Reg.XPR_ADM_STATUS.DROPPING (k : Nat) : Fld := ⟨0xC0200 + k * 0x4, 28, 1⟩
abbrev Reg.XPR_ADM_STATUS.BUDGET (k : Nat) : Fld := ⟨0xC0200 + k * 0x4, 14, 14⟩
abbrev Reg.XPR_ADM_STATUS.METER (k : Nat) : Fld := ⟨0xC0200 + k * 0x4, 0, 14⟩
/-- Address of XPR_ADM_STATUS. -/
abbrev Reg.XPR_ADM_STATUS.addr (k : Nat) : Nat := 0xC0200 + k * 0x4
abbrev Reg.XPR_SRC_PROF_LANE.DEF_CLASS (k : Nat) : Fld := ⟨0xC0300 + k * 0x4, 4, 3⟩
abbrev Reg.XPR_SRC_PROF_LANE.FIRST (k : Nat) : Fld := ⟨0xC0300 + k * 0x4, 0, 4⟩
/-- Address of XPR_SRC_PROF_LANE. -/
abbrev Reg.XPR_SRC_PROF_LANE.addr (k : Nat) : Nat := 0xC0300 + k * 0x4
abbrev Reg.XPR_SRC_PROF_PON.DEF_CLASS (k : Nat) : Fld := ⟨0xC0380 + (k - 32) * 0x4, 4, 3⟩
abbrev Reg.XPR_SRC_PROF_PON.FIRST (k : Nat) : Fld := ⟨0xC0380 + (k - 32) * 0x4, 0, 4⟩
/-- Address of XPR_SRC_PROF_PON. -/
abbrev Reg.XPR_SRC_PROF_PON.addr (k : Nat) : Nat := 0xC0380 + (k - 32) * 0x4
abbrev Reg.XPR_STATUS.PROF_BAD : Fld := ⟨0xC0500, 0, 16⟩
/-- Address of XPR_STATUS. -/
abbrev Reg.XPR_STATUS.addr : Nat := 0xC0500
abbrev Reg.XPR_PROF_W0.VALID (k : Nat) : Fld := ⟨0xC1000 + k * 0x80, 31, 1⟩
abbrev Reg.XPR_PROF_W0.TARGET (k : Nat) : Fld := ⟨0xC1000 + k * 0x80, 29, 2⟩
abbrev Reg.XPR_PROF_W0.LDG_PROF (k : Nat) : Fld := ⟨0xC1000 + k * 0x80, 24, 5⟩
abbrev Reg.XPR_PROF_W0.NEXT (k : Nat) : Fld := ⟨0xC1000 + k * 0x80, 20, 4⟩
abbrev Reg.XPR_PROF_W0.NEXT_EN (k : Nat) : Fld := ⟨0xC1000 + k * 0x80, 19, 1⟩
abbrev Reg.XPR_PROF_W0.CLASS_SRC (k : Nat) : Fld := ⟨0xC1000 + k * 0x80, 17, 2⟩
abbrev Reg.XPR_PROF_W0.CLASS_OFF (k : Nat) : Fld := ⟨0xC1000 + k * 0x80, 7, 10⟩
/-- Address of XPR_PROF_W0. -/
abbrev Reg.XPR_PROF_W0.addr (k : Nat) : Nat := 0xC1000 + k * 0x80
abbrev Reg.XPR_PROF_GA0.EN (k : Nat) : Fld := ⟨0xC1004 + k * 0x80, 31, 1⟩
abbrev Reg.XPR_PROF_GA0.OFFSET (k : Nat) : Fld := ⟨0xC1004 + k * 0x80, 0, 7⟩
/-- Address of XPR_PROF_GA0. -/
abbrev Reg.XPR_PROF_GA0.addr (k : Nat) : Nat := 0xC1004 + k * 0x80
abbrev Reg.XPR_PROF_GB0.VALUE (k : Nat) : Fld := ⟨0xC1008 + k * 0x80, 16, 16⟩
abbrev Reg.XPR_PROF_GB0.MASK (k : Nat) : Fld := ⟨0xC1008 + k * 0x80, 0, 16⟩
/-- Address of XPR_PROF_GB0. -/
abbrev Reg.XPR_PROF_GB0.addr (k : Nat) : Nat := 0xC1008 + k * 0x80
abbrev Reg.XPR_PROF_GA1.EN (k : Nat) : Fld := ⟨0xC100C + k * 0x80, 31, 1⟩
abbrev Reg.XPR_PROF_GA1.OFFSET (k : Nat) : Fld := ⟨0xC100C + k * 0x80, 0, 7⟩
/-- Address of XPR_PROF_GA1. -/
abbrev Reg.XPR_PROF_GA1.addr (k : Nat) : Nat := 0xC100C + k * 0x80
abbrev Reg.XPR_PROF_GB1.VALUE (k : Nat) : Fld := ⟨0xC1010 + k * 0x80, 16, 16⟩
abbrev Reg.XPR_PROF_GB1.MASK (k : Nat) : Fld := ⟨0xC1010 + k * 0x80, 0, 16⟩
/-- Address of XPR_PROF_GB1. -/
abbrev Reg.XPR_PROF_GB1.addr (k : Nat) : Nat := 0xC1010 + k * 0x80
abbrev Reg.XPR_PROF_GA2.EN (k : Nat) : Fld := ⟨0xC1014 + k * 0x80, 31, 1⟩
abbrev Reg.XPR_PROF_GA2.OFFSET (k : Nat) : Fld := ⟨0xC1014 + k * 0x80, 0, 7⟩
/-- Address of XPR_PROF_GA2. -/
abbrev Reg.XPR_PROF_GA2.addr (k : Nat) : Nat := 0xC1014 + k * 0x80
abbrev Reg.XPR_PROF_GB2.VALUE (k : Nat) : Fld := ⟨0xC1018 + k * 0x80, 16, 16⟩
abbrev Reg.XPR_PROF_GB2.MASK (k : Nat) : Fld := ⟨0xC1018 + k * 0x80, 0, 16⟩
/-- Address of XPR_PROF_GB2. -/
abbrev Reg.XPR_PROF_GB2.addr (k : Nat) : Nat := 0xC1018 + k * 0x80
abbrev Reg.XPR_PROF_GA3.EN (k : Nat) : Fld := ⟨0xC101C + k * 0x80, 31, 1⟩
abbrev Reg.XPR_PROF_GA3.OFFSET (k : Nat) : Fld := ⟨0xC101C + k * 0x80, 0, 7⟩
/-- Address of XPR_PROF_GA3. -/
abbrev Reg.XPR_PROF_GA3.addr (k : Nat) : Nat := 0xC101C + k * 0x80
abbrev Reg.XPR_PROF_GB3.VALUE (k : Nat) : Fld := ⟨0xC1020 + k * 0x80, 16, 16⟩
abbrev Reg.XPR_PROF_GB3.MASK (k : Nat) : Fld := ⟨0xC1020 + k * 0x80, 0, 16⟩
/-- Address of XPR_PROF_GB3. -/
abbrev Reg.XPR_PROF_GB3.addr (k : Nat) : Nat := 0xC1020 + k * 0x80
abbrev Reg.XPR_PROF_X0.EN (k : Nat) : Fld := ⟨0xC1024 + k * 0x80, 31, 1⟩
abbrev Reg.XPR_PROF_X0.FLOW (k : Nat) : Fld := ⟨0xC1024 + k * 0x80, 30, 1⟩
abbrev Reg.XPR_PROF_X0.OFFSET (k : Nat) : Fld := ⟨0xC1024 + k * 0x80, 13, 7⟩
abbrev Reg.XPR_PROF_X0.LEN (k : Nat) : Fld := ⟨0xC1024 + k * 0x80, 8, 5⟩
/-- Address of XPR_PROF_X0. -/
abbrev Reg.XPR_PROF_X0.addr (k : Nat) : Nat := 0xC1024 + k * 0x80
abbrev Reg.XPR_PROF_X1.EN (k : Nat) : Fld := ⟨0xC1028 + k * 0x80, 31, 1⟩
abbrev Reg.XPR_PROF_X1.FLOW (k : Nat) : Fld := ⟨0xC1028 + k * 0x80, 30, 1⟩
abbrev Reg.XPR_PROF_X1.OFFSET (k : Nat) : Fld := ⟨0xC1028 + k * 0x80, 13, 7⟩
abbrev Reg.XPR_PROF_X1.LEN (k : Nat) : Fld := ⟨0xC1028 + k * 0x80, 8, 5⟩
/-- Address of XPR_PROF_X1. -/
abbrev Reg.XPR_PROF_X1.addr (k : Nat) : Nat := 0xC1028 + k * 0x80
abbrev Reg.XPR_PROF_X2.EN (k : Nat) : Fld := ⟨0xC102C + k * 0x80, 31, 1⟩
abbrev Reg.XPR_PROF_X2.FLOW (k : Nat) : Fld := ⟨0xC102C + k * 0x80, 30, 1⟩
abbrev Reg.XPR_PROF_X2.OFFSET (k : Nat) : Fld := ⟨0xC102C + k * 0x80, 13, 7⟩
abbrev Reg.XPR_PROF_X2.LEN (k : Nat) : Fld := ⟨0xC102C + k * 0x80, 8, 5⟩
/-- Address of XPR_PROF_X2. -/
abbrev Reg.XPR_PROF_X2.addr (k : Nat) : Nat := 0xC102C + k * 0x80
abbrev Reg.XPR_PROF_X3.EN (k : Nat) : Fld := ⟨0xC1030 + k * 0x80, 31, 1⟩
abbrev Reg.XPR_PROF_X3.FLOW (k : Nat) : Fld := ⟨0xC1030 + k * 0x80, 30, 1⟩
abbrev Reg.XPR_PROF_X3.OFFSET (k : Nat) : Fld := ⟨0xC1030 + k * 0x80, 13, 7⟩
abbrev Reg.XPR_PROF_X3.LEN (k : Nat) : Fld := ⟨0xC1030 + k * 0x80, 8, 5⟩
/-- Address of XPR_PROF_X3. -/
abbrev Reg.XPR_PROF_X3.addr (k : Nat) : Nat := 0xC1030 + k * 0x80
abbrev Reg.XPR_PROF_X4.EN (k : Nat) : Fld := ⟨0xC1034 + k * 0x80, 31, 1⟩
abbrev Reg.XPR_PROF_X4.FLOW (k : Nat) : Fld := ⟨0xC1034 + k * 0x80, 30, 1⟩
abbrev Reg.XPR_PROF_X4.OFFSET (k : Nat) : Fld := ⟨0xC1034 + k * 0x80, 13, 7⟩
abbrev Reg.XPR_PROF_X4.LEN (k : Nat) : Fld := ⟨0xC1034 + k * 0x80, 8, 5⟩
/-- Address of XPR_PROF_X4. -/
abbrev Reg.XPR_PROF_X4.addr (k : Nat) : Nat := 0xC1034 + k * 0x80
abbrev Reg.XPR_PROF_X5.EN (k : Nat) : Fld := ⟨0xC1038 + k * 0x80, 31, 1⟩
abbrev Reg.XPR_PROF_X5.FLOW (k : Nat) : Fld := ⟨0xC1038 + k * 0x80, 30, 1⟩
abbrev Reg.XPR_PROF_X5.OFFSET (k : Nat) : Fld := ⟨0xC1038 + k * 0x80, 13, 7⟩
abbrev Reg.XPR_PROF_X5.LEN (k : Nat) : Fld := ⟨0xC1038 + k * 0x80, 8, 5⟩
/-- Address of XPR_PROF_X5. -/
abbrev Reg.XPR_PROF_X5.addr (k : Nat) : Nat := 0xC1038 + k * 0x80
abbrev Reg.XPR_PROF_X6.EN (k : Nat) : Fld := ⟨0xC103C + k * 0x80, 31, 1⟩
abbrev Reg.XPR_PROF_X6.FLOW (k : Nat) : Fld := ⟨0xC103C + k * 0x80, 30, 1⟩
abbrev Reg.XPR_PROF_X6.OFFSET (k : Nat) : Fld := ⟨0xC103C + k * 0x80, 13, 7⟩
abbrev Reg.XPR_PROF_X6.LEN (k : Nat) : Fld := ⟨0xC103C + k * 0x80, 8, 5⟩
/-- Address of XPR_PROF_X6. -/
abbrev Reg.XPR_PROF_X6.addr (k : Nat) : Nat := 0xC103C + k * 0x80
abbrev Reg.XPR_PROF_X7.EN (k : Nat) : Fld := ⟨0xC1040 + k * 0x80, 31, 1⟩
abbrev Reg.XPR_PROF_X7.FLOW (k : Nat) : Fld := ⟨0xC1040 + k * 0x80, 30, 1⟩
abbrev Reg.XPR_PROF_X7.OFFSET (k : Nat) : Fld := ⟨0xC1040 + k * 0x80, 13, 7⟩
abbrev Reg.XPR_PROF_X7.LEN (k : Nat) : Fld := ⟨0xC1040 + k * 0x80, 8, 5⟩
/-- Address of XPR_PROF_X7. -/
abbrev Reg.XPR_PROF_X7.addr (k : Nat) : Nat := 0xC1040 + k * 0x80
abbrev Reg.XPR_PROF_X8.EN (k : Nat) : Fld := ⟨0xC1044 + k * 0x80, 31, 1⟩
abbrev Reg.XPR_PROF_X8.FLOW (k : Nat) : Fld := ⟨0xC1044 + k * 0x80, 30, 1⟩
abbrev Reg.XPR_PROF_X8.OFFSET (k : Nat) : Fld := ⟨0xC1044 + k * 0x80, 13, 7⟩
abbrev Reg.XPR_PROF_X8.LEN (k : Nat) : Fld := ⟨0xC1044 + k * 0x80, 8, 5⟩
/-- Address of XPR_PROF_X8. -/
abbrev Reg.XPR_PROF_X8.addr (k : Nat) : Nat := 0xC1044 + k * 0x80
abbrev Reg.XPR_PROF_X9.EN (k : Nat) : Fld := ⟨0xC1048 + k * 0x80, 31, 1⟩
abbrev Reg.XPR_PROF_X9.FLOW (k : Nat) : Fld := ⟨0xC1048 + k * 0x80, 30, 1⟩
abbrev Reg.XPR_PROF_X9.OFFSET (k : Nat) : Fld := ⟨0xC1048 + k * 0x80, 13, 7⟩
abbrev Reg.XPR_PROF_X9.LEN (k : Nat) : Fld := ⟨0xC1048 + k * 0x80, 8, 5⟩
/-- Address of XPR_PROF_X9. -/
abbrev Reg.XPR_PROF_X9.addr (k : Nat) : Nat := 0xC1048 + k * 0x80
abbrev Reg.XPR_PROF_X10.EN (k : Nat) : Fld := ⟨0xC104C + k * 0x80, 31, 1⟩
abbrev Reg.XPR_PROF_X10.FLOW (k : Nat) : Fld := ⟨0xC104C + k * 0x80, 30, 1⟩
abbrev Reg.XPR_PROF_X10.OFFSET (k : Nat) : Fld := ⟨0xC104C + k * 0x80, 13, 7⟩
abbrev Reg.XPR_PROF_X10.LEN (k : Nat) : Fld := ⟨0xC104C + k * 0x80, 8, 5⟩
/-- Address of XPR_PROF_X10. -/
abbrev Reg.XPR_PROF_X10.addr (k : Nat) : Nat := 0xC104C + k * 0x80
abbrev Reg.XPR_PROF_X11.EN (k : Nat) : Fld := ⟨0xC1050 + k * 0x80, 31, 1⟩
abbrev Reg.XPR_PROF_X11.FLOW (k : Nat) : Fld := ⟨0xC1050 + k * 0x80, 30, 1⟩
abbrev Reg.XPR_PROF_X11.OFFSET (k : Nat) : Fld := ⟨0xC1050 + k * 0x80, 13, 7⟩
abbrev Reg.XPR_PROF_X11.LEN (k : Nat) : Fld := ⟨0xC1050 + k * 0x80, 8, 5⟩
/-- Address of XPR_PROF_X11. -/
abbrev Reg.XPR_PROF_X11.addr (k : Nat) : Nat := 0xC1050 + k * 0x80
abbrev Reg.SRT_CLASS_GUILDS_LO.G (k : Nat) : Fld := ⟨0xB0100 + k * 0x8, 0, 32⟩
/-- Address of SRT_CLASS_GUILDS_LO. -/
abbrev Reg.SRT_CLASS_GUILDS_LO.addr (k : Nat) : Nat := 0xB0100 + k * 0x8
abbrev Reg.SRT_CLASS_GUILDS_HI.G (k : Nat) : Fld := ⟨0xB0104 + k * 0x8, 0, 32⟩
/-- Address of SRT_CLASS_GUILDS_HI. -/
abbrev Reg.SRT_CLASS_GUILDS_HI.addr (k : Nat) : Nat := 0xB0104 + k * 0x8
abbrev Reg.SRT_REORDER_CFG.TMO : Fld := ⟨0xB0200, 0, 10⟩
/-- Address of SRT_REORDER_CFG. -/
abbrev Reg.SRT_REORDER_CFG.addr : Nat := 0xB0200
abbrev Reg.SRT_STATUS.NO_GUILD : Fld := ⟨0xB0204, 24, 8⟩
abbrev Reg.SRT_STATUS.IN_FLIGHT : Fld := ⟨0xB0204, 0, 15⟩
/-- Address of SRT_STATUS. -/
abbrev Reg.SRT_STATUS.addr : Nat := 0xB0204
abbrev Reg.SRT_EXC_CFG.DEST (k : Nat) : Fld := ⟨0xB0404 + (k - 1) * 0x4, 30, 2⟩
abbrev Reg.SRT_EXC_CFG.BURST (k : Nat) : Fld := ⟨0xB0404 + (k - 1) * 0x4, 20, 10⟩
abbrev Reg.SRT_EXC_CFG.RATE (k : Nat) : Fld := ⟨0xB0404 + (k - 1) * 0x4, 0, 20⟩
/-- Address of SRT_EXC_CFG. -/
abbrev Reg.SRT_EXC_CFG.addr (k : Nat) : Nat := 0xB0404 + (k - 1) * 0x4
abbrev Reg.SRT_EXC_HOST.BURST : Fld := ⟨0xB0500, 20, 12⟩
abbrev Reg.SRT_EXC_HOST.RATE : Fld := ⟨0xB0500, 0, 20⟩
/-- Address of SRT_EXC_HOST. -/
abbrev Reg.SRT_EXC_HOST.addr : Nat := 0xB0500
abbrev Reg.SRT_EXC_STW.BURST : Fld := ⟨0xB0504, 20, 12⟩
abbrev Reg.SRT_EXC_STW.RATE : Fld := ⟨0xB0504, 0, 20⟩
/-- Address of SRT_EXC_STW. -/
abbrev Reg.SRT_EXC_STW.addr : Nat := 0xB0504
abbrev Reg.GLD_CTRL.CMD (n : Nat) : Fld := ⟨0x400000 + n * 0x10000, 28, 4⟩
abbrev Reg.GLD_CTRL.CHECK_EN (n : Nat) : Fld := ⟨0x400000 + n * 0x10000, 27, 1⟩
abbrev Reg.GLD_CTRL.ENG_EN (n : Nat) : Fld := ⟨0x400000 + n * 0x10000, 0, 16⟩
/-- Address of GLD_CTRL. -/
abbrev Reg.GLD_CTRL.addr (n : Nat) : Nat := 0x400000 + n * 0x10000
abbrev Reg.GLD_STATE.STATE (n : Nat) : Fld := ⟨0x400004 + n * 0x10000, 29, 3⟩
abbrev Reg.GLD_STATE.ACTIVE_BANK (n : Nat) : Fld := ⟨0x400004 + n * 0x10000, 28, 1⟩
abbrev Reg.GLD_STATE.IN_SERVICE (n : Nat) : Fld := ⟨0x400004 + n * 0x10000, 0, 16⟩
/-- Address of GLD_STATE. -/
abbrev Reg.GLD_STATE.addr (n : Nat) : Nat := 0x400004 + n * 0x10000
abbrev Reg.GLD_GEN.STBY_GEN (n : Nat) : Fld := ⟨0x400008 + n * 0x10000, 16, 16⟩
abbrev Reg.GLD_GEN.GEN (n : Nat) : Fld := ⟨0x400008 + n * 0x10000, 0, 16⟩
/-- Address of GLD_GEN. -/
abbrev Reg.GLD_GEN.addr (n : Nat) : Nat := 0x400008 + n * 0x10000
abbrev Reg.GLD_BUDGET.WDOG (n : Nat) : Fld := ⟨0x40000C + n * 0x10000, 24, 4⟩
abbrev Reg.GLD_BUDGET.INSN_MAX (n : Nat) : Fld := ⟨0x40000C + n * 0x10000, 0, 12⟩
/-- Address of GLD_BUDGET. -/
abbrev Reg.GLD_BUDGET.addr (n : Nat) : Nat := 0x40000C + n * 0x10000
abbrev Reg.GLD_COST.OVER (n : Nat) : Fld := ⟨0x400010 + n * 0x10000, 31, 1⟩
abbrev Reg.GLD_COST.LIMIT (n : Nat) : Fld := ⟨0x400010 + n * 0x10000, 16, 12⟩
abbrev Reg.GLD_COST.MEAN (n : Nat) : Fld := ⟨0x400010 + n * 0x10000, 0, 12⟩
/-- Address of GLD_COST. -/
abbrev Reg.GLD_COST.addr (n : Nat) : Nat := 0x400010 + n * 0x10000
abbrev Reg.GLD_BANK.VALIDATE (n : Nat) : Fld := ⟨0x400014 + n * 0x10000, 31, 1⟩
abbrev Reg.GLD_BANK.RESULT (n : Nat) : Fld := ⟨0x400014 + n * 0x10000, 29, 2⟩
abbrev Reg.GLD_BANK.REASON (n : Nat) : Fld := ⟨0x400014 + n * 0x10000, 25, 4⟩
/-- Address of GLD_BANK. -/
abbrev Reg.GLD_BANK.addr (n : Nat) : Nat := 0x400014 + n * 0x10000
abbrev Reg.GLD_TRAP_PTR.WRAPPED (n : Nat) : Fld := ⟨0x400018 + n * 0x10000, 4, 1⟩
abbrev Reg.GLD_TRAP_PTR.NEXT (n : Nat) : Fld := ⟨0x400018 + n * 0x10000, 0, 4⟩
/-- Address of GLD_TRAP_PTR. -/
abbrev Reg.GLD_TRAP_PTR.addr (n : Nat) : Nat := 0x400018 + n * 0x10000
abbrev Reg.GLD_TRAP_LOG_W0.ENGINE (n k : Nat) : Fld := ⟨0x400100 + n * 0x10000 + k * 0x10, 28, 4⟩
abbrev Reg.GLD_TRAP_LOG_W0.CONTEXT (n k : Nat) : Fld := ⟨0x400100 + n * 0x10000 + k * 0x10, 26, 2⟩
abbrev Reg.GLD_TRAP_LOG_W0.CODE (n k : Nat) : Fld := ⟨0x400100 + n * 0x10000 + k * 0x10, 22, 4⟩
abbrev Reg.GLD_TRAP_LOG_W0.USER (n k : Nat) : Fld := ⟨0x400100 + n * 0x10000 + k * 0x10, 14, 8⟩
abbrev Reg.GLD_TRAP_LOG_W0.PC (n k : Nat) : Fld := ⟨0x400100 + n * 0x10000 + k * 0x10, 0, 14⟩
/-- Address of GLD_TRAP_LOG_W0. -/
abbrev Reg.GLD_TRAP_LOG_W0.addr (n k : Nat) : Nat := 0x400100 + n * 0x10000 + k * 0x10
abbrev Reg.GLD_TRAP_LOG_W1.FLOW (n k : Nat) : Fld := ⟨0x400104 + n * 0x10000 + k * 0x10, 16, 16⟩
abbrev Reg.GLD_TRAP_LOG_W1.SEQ (n k : Nat) : Fld := ⟨0x400104 + n * 0x10000 + k * 0x10, 0, 16⟩
/-- Address of GLD_TRAP_LOG_W1. -/
abbrev Reg.GLD_TRAP_LOG_W1.addr (n k : Nat) : Nat := 0x400104 + n * 0x10000 + k * 0x10
abbrev Reg.GLD_TRAP_LOG_W2.HANDLE (n k : Nat) : Fld := ⟨0x400108 + n * 0x10000 + k * 0x10, 8, 24⟩
/-- Address of GLD_TRAP_LOG_W2. -/
abbrev Reg.GLD_TRAP_LOG_W2.addr (n k : Nat) : Nat := 0x400108 + n * 0x10000 + k * 0x10
abbrev Reg.GLD_TRAP_LOG_W3.T (n k : Nat) : Fld := ⟨0x40010C + n * 0x10000 + k * 0x10, 0, 32⟩
/-- Address of GLD_TRAP_LOG_W3. -/
abbrev Reg.GLD_TRAP_LOG_W3.addr (n k : Nat) : Nat := 0x40010C + n * 0x10000 + k * 0x10
abbrev Reg.SRT_RETIRE_CFG.LOOSE_COUNT : Fld := ⟨0xB0600, 16, 10⟩
abbrev Reg.SRT_RETIRE_CFG.LOOSE_MAX : Fld := ⟨0xB0600, 0, 5⟩
/-- Address of SRT_RETIRE_CFG. -/
abbrev Reg.SRT_RETIRE_CFG.addr : Nat := 0xB0600
abbrev Reg.LDG_CFG.SCRUB_EN : Fld := ⟨0xD0000, 31, 1⟩
abbrev Reg.LDG_CFG.RESPREAD : Fld := ⟨0xD0000, 30, 1⟩
abbrev Reg.LDG_CFG.HOLE_LOG2 : Fld := ⟨0xD0000, 24, 4⟩
/-- Address of LDG_CFG. -/
abbrev Reg.LDG_CFG.addr : Nat := 0xD0000
abbrev Reg.LDG_EPOCH.PUBLISHED : Fld := ⟨0xD0004, 28, 4⟩
abbrev Reg.LDG_EPOCH.STAGING : Fld := ⟨0xD0004, 24, 4⟩
abbrev Reg.LDG_EPOCH.STAGING_V : Fld := ⟨0xD0004, 23, 1⟩
abbrev Reg.LDG_EPOCH.SWEEP : Fld := ⟨0xD0004, 22, 1⟩
abbrev Reg.LDG_EPOCH.OLDEST : Fld := ⟨0xD0004, 16, 4⟩
abbrev Reg.LDG_EPOCH.LIVE : Fld := ⟨0xD0004, 0, 5⟩
/-- Address of LDG_EPOCH. -/
abbrev Reg.LDG_EPOCH.addr : Nat := 0xD0004
abbrev Reg.LDG_EPOCH_CFG.STUCK_MS : Fld := ⟨0xD0008, 0, 16⟩
/-- Address of LDG_EPOCH_CFG. -/
abbrev Reg.LDG_EPOCH_CFG.addr : Nat := 0xD0008
abbrev Reg.LDG_EPOCH_REF.COUNT (k : Nat) : Fld := ⟨0xD0280 + k * 0x4, 0, 20⟩
/-- Address of LDG_EPOCH_REF. -/
abbrev Reg.LDG_EPOCH_REF.addr (k : Nat) : Nat := 0xD0280 + k * 0x4
abbrev Reg.LDG_CMD.OP (k : Nat) : Fld := ⟨0xD0010 + k * 0x8, 28, 4⟩
abbrev Reg.LDG_CMD.TARGET (k : Nat) : Fld := ⟨0xD0010 + k * 0x8, 27, 1⟩
abbrev Reg.LDG_CMD.STAGED (k : Nat) : Fld := ⟨0xD0010 + k * 0x8, 26, 1⟩
abbrev Reg.LDG_CMD.TAIL (k : Nat) : Fld := ⟨0xD0010 + k * 0x8, 25, 1⟩
abbrev Reg.LDG_CMD.PROF (k : Nat) : Fld := ⟨0xD0010 + k * 0x8, 20, 5⟩
abbrev Reg.LDG_CMD.REGION (k : Nat) : Fld := ⟨0xD0010 + k * 0x8, 16, 4⟩
abbrev Reg.LDG_CMD.INDEX (k : Nat) : Fld := ⟨0xD0010 + k * 0x8, 0, 16⟩
/-- Address of LDG_CMD. -/
abbrev Reg.LDG_CMD.addr (k : Nat) : Nat := 0xD0010 + k * 0x8
abbrev Reg.LDG_CMD_STATUS.BUSY (k : Nat) : Fld := ⟨0xD0014 + k * 0x8, 31, 1⟩
abbrev Reg.LDG_CMD_STATUS.CODE (k : Nat) : Fld := ⟨0xD0014 + k * 0x8, 27, 4⟩
abbrev Reg.LDG_CMD_STATUS.INDEX (k : Nat) : Fld := ⟨0xD0014 + k * 0x8, 0, 20⟩
/-- Address of LDG_CMD_STATUS. -/
abbrev Reg.LDG_CMD_STATUS.addr (k : Nat) : Nat := 0xD0014 + k * 0x8
abbrev Reg.LDG_BANK.WIDTH (k : Nat) : Fld := ⟨0xD0100 + k * 0x4, 30, 2⟩
abbrev Reg.LDG_BANK.RETIRED (k : Nat) : Fld := ⟨0xD0100 + k * 0x4, 29, 1⟩
abbrev Reg.LDG_BANK.MANAGED (k : Nat) : Fld := ⟨0xD0100 + k * 0x4, 28, 1⟩
abbrev Reg.LDG_BANK.USED (k : Nat) : Fld := ⟨0xD0100 + k * 0x4, 0, 11⟩
/-- Address of LDG_BANK. -/
abbrev Reg.LDG_BANK.addr (k : Nat) : Nat := 0xD0100 + k * 0x4
abbrev Reg.LDG_REGION.VALID (k : Nat) : Fld := ⟨0xD0200 + k * 0x4, 31, 1⟩
abbrev Reg.LDG_REGION.LAST (k : Nat) : Fld := ⟨0xD0200 + k * 0x4, 8, 6⟩
abbrev Reg.LDG_REGION.FIRST (k : Nat) : Fld := ⟨0xD0200 + k * 0x4, 0, 6⟩
/-- Address of LDG_REGION. -/
abbrev Reg.LDG_REGION.addr (k : Nat) : Nat := 0xD0200 + k * 0x4
abbrev Reg.LDG_PROF_W0.VALID (k : Nat) : Fld := ⟨0xD1000 + k * 0x20, 31, 1⟩
abbrev Reg.LDG_PROF_W0.LDG_WIDTH (k : Nat) : Fld := ⟨0xD1000 + k * 0x20, 29, 2⟩
abbrev Reg.LDG_PROF_W0.DEF_EN (k : Nat) : Fld := ⟨0xD1000 + k * 0x20, 28, 1⟩
abbrev Reg.LDG_PROF_W0.EXM_LEN (k : Nat) : Fld := ⟨0xD1000 + k * 0x20, 16, 6⟩
abbrev Reg.LDG_PROF_W0.EXM_TABLE (k : Nat) : Fld := ⟨0xD1000 + k * 0x20, 8, 5⟩
abbrev Reg.LDG_PROF_W0.WIDTH_SKIP (k : Nat) : Fld := ⟨0xD1000 + k * 0x20, 0, 1⟩
/-- Address of LDG_PROF_W0. -/
abbrev Reg.LDG_PROF_W0.addr (k : Nat) : Nat := 0xD1000 + k * 0x20
abbrev Reg.LDG_PROF_BANKS_LO.BANKS (k : Nat) : Fld := ⟨0xD1004 + k * 0x20, 0, 32⟩
/-- Address of LDG_PROF_BANKS_LO. -/
abbrev Reg.LDG_PROF_BANKS_LO.addr (k : Nat) : Nat := 0xD1004 + k * 0x20
abbrev Reg.LDG_PROF_BANKS_HI.BANKS (k : Nat) : Fld := ⟨0xD1008 + k * 0x20, 0, 32⟩
/-- Address of LDG_PROF_BANKS_HI. -/
abbrev Reg.LDG_PROF_BANKS_HI.addr (k : Nat) : Nat := 0xD1008 + k * 0x20
abbrev Reg.LDG_PROF_DEF0.DEF_RESULT (k : Nat) : Fld := ⟨0xD1010 + k * 0x20, 0, 32⟩
/-- Address of LDG_PROF_DEF0. -/
abbrev Reg.LDG_PROF_DEF0.addr (k : Nat) : Nat := 0xD1010 + k * 0x20
abbrev Reg.LDG_PROF_DEF1.DEF_RESULT (k : Nat) : Fld := ⟨0xD1014 + k * 0x20, 0, 32⟩
/-- Address of LDG_PROF_DEF1. -/
abbrev Reg.LDG_PROF_DEF1.addr (k : Nat) : Nat := 0xD1014 + k * 0x20
abbrev Reg.LDG_PROF_DEF2.DEF_RESULT (k : Nat) : Fld := ⟨0xD1018 + k * 0x20, 0, 32⟩
/-- Address of LDG_PROF_DEF2. -/
abbrev Reg.LDG_PROF_DEF2.addr (k : Nat) : Nat := 0xD1018 + k * 0x20
abbrev Reg.LDG_PROF_DEF3.DEF_RESULT (k : Nat) : Fld := ⟨0xD101C + k * 0x20, 0, 32⟩
/-- Address of LDG_PROF_DEF3. -/
abbrev Reg.LDG_PROF_DEF3.addr (k : Nat) : Nat := 0xD101C + k * 0x20
abbrev Reg.LDG_CMD_DATA0.V (k : Nat) : Fld := ⟨0xD0400 + k * 0x4, 0, 32⟩
/-- Address of LDG_CMD_DATA0. -/
abbrev Reg.LDG_CMD_DATA0.addr (k : Nat) : Nat := 0xD0400 + k * 0x4
abbrev Reg.LDG_CMD_DATA1.V (k : Nat) : Fld := ⟨0xD0500 + k * 0x4, 0, 32⟩
/-- Address of LDG_CMD_DATA1. -/
abbrev Reg.LDG_CMD_DATA1.addr (k : Nat) : Nat := 0xD0500 + k * 0x4
abbrev Reg.EXM_SEED.SEED (k : Nat) : Fld := ⟨0xE0000 + k * 0x4, 0, 32⟩
/-- Address of EXM_SEED. -/
abbrev Reg.EXM_SEED.addr (k : Nat) : Nat := 0xE0000 + k * 0x4
abbrev Reg.EXM_CFG.STASH_DRAIN : Fld := ⟨0xE0010, 31, 1⟩
abbrev Reg.EXM_CFG.STASH_HIGH : Fld := ⟨0xE0010, 0, 14⟩
/-- Address of EXM_CFG. -/
abbrev Reg.EXM_CFG.addr : Nat := 0xE0010
abbrev Reg.EXM_STATUS.WAY_USED : Fld := ⟨0xE0014, 0, 20⟩
/-- Address of EXM_STATUS. -/
abbrev Reg.EXM_STATUS.addr : Nat := 0xE0014
abbrev Reg.EXM_STASH.STASH_USED : Fld := ⟨0xE0018, 0, 14⟩
/-- Address of EXM_STASH. -/
abbrev Reg.EXM_STASH.addr : Nat := 0xE0018
abbrev Reg.CPG_CTRL.EN : Fld := ⟨0x90000, 31, 1⟩
abbrev Reg.CPG_CTRL.CELLAR_EN : Fld := ⟨0x90000, 30, 1⟩
/-- Address of CPG_CTRL. -/
abbrev Reg.CPG_CTRL.addr : Nat := 0x90000
abbrev Reg.CPG_POOL_CFG.COUNT (k : Nat) : Fld := ⟨0x90010 + k * 0x4, 0, 16⟩
/-- Address of CPG_POOL_CFG. -/
abbrev Reg.CPG_POOL_CFG.addr (k : Nat) : Nat := 0x90010 + k * 0x4
abbrev Reg.CPG_POOL_STATUS.FREE (k : Nat) : Fld := ⟨0x90020 + k * 0x4, 0, 22⟩
/-- Address of CPG_POOL_STATUS. -/
abbrev Reg.CPG_POOL_STATUS.addr (k : Nat) : Nat := 0x90020 + k * 0x4
abbrev Reg.CPG_GUARD.GUARD7 : Fld := ⟨0x90030, 28, 4⟩
abbrev Reg.CPG_GUARD.GUARD6 : Fld := ⟨0x90030, 24, 4⟩
abbrev Reg.CPG_GUARD.GUARD5 : Fld := ⟨0x90030, 20, 4⟩
abbrev Reg.CPG_GUARD.GUARD4 : Fld := ⟨0x90030, 16, 4⟩
abbrev Reg.CPG_GUARD.GUARD3 : Fld := ⟨0x90030, 12, 4⟩
abbrev Reg.CPG_GUARD.GUARD2 : Fld := ⟨0x90030, 8, 4⟩
abbrev Reg.CPG_GUARD.GUARD1 : Fld := ⟨0x90030, 4, 4⟩
abbrev Reg.CPG_GUARD.GUARD0 : Fld := ⟨0x90030, 0, 4⟩
/-- Address of CPG_GUARD. -/
abbrev Reg.CPG_GUARD.addr : Nat := 0x90030
abbrev Reg.CPG_FREE_STW.GEN : Fld := ⟨0x90040, 28, 4⟩
abbrev Reg.CPG_FREE_STW.HANDLE : Fld := ⟨0x90040, 0, 24⟩
/-- Address of CPG_FREE_STW. -/
abbrev Reg.CPG_FREE_STW.addr : Nat := 0x90040
abbrev Reg.CPG_MIRROR.EN (k : Nat) : Fld := ⟨0x90104 + (k - 1) * 0x4, 31, 1⟩
abbrev Reg.CPG_MIRROR.HOST (k : Nat) : Fld := ⟨0x90104 + (k - 1) * 0x4, 30, 1⟩
abbrev Reg.CPG_MIRROR.QUEUE (k : Nat) : Fld := ⟨0x90104 + (k - 1) * 0x4, 0, 17⟩
/-- Address of CPG_MIRROR. -/
abbrev Reg.CPG_MIRROR.addr (k : Nat) : Nat := 0x90104 + (k - 1) * 0x4
abbrev Reg.CPG_CELLAR_REGION.SIZE : Fld := ⟨0x90200, 16, 9⟩
abbrev Reg.CPG_CELLAR_REGION.BASE : Fld := ⟨0x90200, 0, 9⟩
/-- Address of CPG_CELLAR_REGION. -/
abbrev Reg.CPG_CELLAR_REGION.addr : Nat := 0x90200
abbrev Reg.CPG_CELLAR_CFG.BUSY_CLASS : Fld := ⟨0x90204, 29, 3⟩
abbrev Reg.CPG_CELLAR_CFG.BUSY_MARK : Fld := ⟨0x90204, 0, 16⟩
/-- Address of CPG_CELLAR_CFG. -/
abbrev Reg.CPG_CELLAR_CFG.addr : Nat := 0x90204
abbrev Reg.CPG_CELLAR_STATUS.BUSY : Fld := ⟨0x90208, 31, 1⟩
abbrev Reg.CPG_CELLAR_STATUS.PAGES_FREE : Fld := ⟨0x90208, 0, 22⟩
/-- Address of CPG_CELLAR_STATUS. -/
abbrev Reg.CPG_CELLAR_STATUS.addr : Nat := 0x90208
abbrev Reg.SCH_CFG.QUANTUM : Fld := ⟨0xA0000, 0, 16⟩
/-- Address of SCH_CFG. -/
abbrev Reg.SCH_CFG.addr : Nat := 0xA0000
abbrev Reg.SCH_SGRP.EN (k : Nat) : Fld := ⟨0xA0100 + k * 0x4, 31, 1⟩
abbrev Reg.SCH_SGRP.K (k : Nat) : Fld := ⟨0xA0100 + k * 0x4, 21, 5⟩
abbrev Reg.SCH_SGRP.D_BASE (k : Nat) : Fld := ⟨0xA0100 + k * 0x4, 10, 6⟩
abbrev Reg.SCH_SGRP.T_BASE (k : Nat) : Fld := ⟨0xA0100 + k * 0x4, 5, 5⟩
/-- Address of SCH_SGRP. -/
abbrev Reg.SCH_SGRP.addr (k : Nat) : Nat := 0xA0100 + k * 0x4
abbrev Reg.SCH_SAMPLE_STATUS.STRETCH : Fld := ⟨0xA0180, 31, 1⟩
abbrev Reg.SCH_SAMPLE_STATUS.FACTOR : Fld := ⟨0xA0180, 0, 16⟩
/-- Address of SCH_SAMPLE_STATUS. -/
abbrev Reg.SCH_SAMPLE_STATUS.addr : Nat := 0xA0180
abbrev Reg.KEY_CTRL.MIRROR_KEYS : Fld := ⟨0x80000, 31, 1⟩
abbrev Reg.KEY_CTRL.REACTIVATE : Fld := ⟨0x80000, 30, 1⟩
abbrev Reg.KEY_CTRL.CT_LANES : Fld := ⟨0x80000, 0, 16⟩
/-- Address of KEY_CTRL. -/
abbrev Reg.KEY_CTRL.addr : Nat := 0x80000
abbrev Reg.KEY_STATUS.ERASED : Fld := ⟨0x80004, 31, 1⟩
abbrev Reg.KEY_STATUS.TAMPER : Fld := ⟨0x80004, 30, 1⟩
abbrev Reg.KEY_STATUS.VGLITCH : Fld := ⟨0x80004, 29, 1⟩
abbrev Reg.KEY_STATUS.CGLITCH : Fld := ⟨0x80004, 28, 1⟩
abbrev Reg.KEY_STATUS.TEMP : Fld := ⟨0x80004, 27, 1⟩
abbrev Reg.KEY_STATUS.OTP_LOADED : Fld := ⟨0x80004, 26, 1⟩
abbrev Reg.KEY_STATUS.CACHE_USED : Fld := ⟨0x80004, 0, 13⟩
/-- Address of KEY_STATUS. -/
abbrev Reg.KEY_STATUS.addr : Nat := 0x80004
abbrev Reg.KEY_LIMIT.HARD_LOG2 : Fld := ⟨0x80008, 16, 8⟩
abbrev Reg.KEY_LIMIT.SOFT_LOG2 : Fld := ⟨0x80008, 8, 8⟩
/-- Address of KEY_LIMIT. -/
abbrev Reg.KEY_LIMIT.addr : Nat := 0x80008
abbrev Reg.KEY_GCM_CFG.REKEY_LOG2 : Fld := ⟨0x8000C, 0, 8⟩
/-- Address of KEY_GCM_CFG. -/
abbrev Reg.KEY_GCM_CFG.addr : Nat := 0x8000C
abbrev Reg.KEY_CMD.OP : Fld := ⟨0x80010, 28, 4⟩
abbrev Reg.KEY_CMD.SLOT : Fld := ⟨0x80010, 0, 15⟩
/-- Address of KEY_CMD. -/
abbrev Reg.KEY_CMD.addr : Nat := 0x80010
abbrev Reg.KEY_CMD_STATUS.BUSY : Fld := ⟨0x80014, 31, 1⟩
abbrev Reg.KEY_CMD_STATUS.CODE : Fld := ⟨0x80014, 27, 4⟩
/-- Address of KEY_CMD_STATUS. -/
abbrev Reg.KEY_CMD_STATUS.addr : Nat := 0x80014
abbrev Reg.KEY_CMD_DATA.V (k : Nat) : Fld := ⟨0x80020 + k * 0x4, 0, 32⟩
/-- Address of KEY_CMD_DATA. -/
abbrev Reg.KEY_CMD_DATA.addr (k : Nat) : Nat := 0x80020 + k * 0x4
abbrev Reg.TWN_CFG.EN : Fld := ⟨0x50000, 31, 1⟩
abbrev Reg.TWN_CFG.HOLD : Fld := ⟨0x50000, 30, 1⟩
abbrev Reg.TWN_CFG.AUTO_PHASE : Fld := ⟨0x50000, 29, 1⟩
abbrev Reg.TWN_CFG.TRG_USLOSS : Fld := ⟨0x50000, 28, 1⟩
abbrev Reg.TWN_CFG.TRG_UAS : Fld := ⟨0x50000, 27, 1⟩
abbrev Reg.TWN_CFG.OFF_WAIT : Fld := ⟨0x50000, 20, 4⟩
abbrev Reg.TWN_CFG.HOLDOFF : Fld := ⟨0x50000, 0, 16⟩
/-- Address of TWN_CFG. -/
abbrev Reg.TWN_CFG.addr : Nat := 0x50000
abbrev Reg.TWN_STATUS.PRIMARY : Fld := ⟨0x50004, 31, 1⟩
abbrev Reg.TWN_STATUS.LINK : Fld := ⟨0x50004, 29, 2⟩
abbrev Reg.TWN_STATUS.DARK_IN : Fld := ⟨0x50004, 27, 2⟩
abbrev Reg.TWN_STATUS.SEALED : Fld := ⟨0x50004, 26, 1⟩
abbrev Reg.TWN_STATUS.SYNCED : Fld := ⟨0x50004, 25, 1⟩
abbrev Reg.TWN_STATUS.PARTNER_FATAL : Fld := ⟨0x50004, 24, 1⟩
abbrev Reg.TWN_STATUS.LANES_UP : Fld := ⟨0x50004, 0, 4⟩
/-- Address of TWN_STATUS. -/
abbrev Reg.TWN_STATUS.addr : Nat := 0x50004
abbrev Reg.TWN_OWN.OWN : Fld := ⟨0x50008, 0, 32⟩
/-- Address of TWN_OWN. -/
abbrev Reg.TWN_OWN.addr : Nat := 0x50008
abbrev Reg.TWN_READY.READY : Fld := ⟨0x5000C, 0, 32⟩
/-- Address of TWN_READY. -/
abbrev Reg.TWN_READY.addr : Nat := 0x5000C
abbrev Reg.TWN_CMD.OP : Fld := ⟨0x50010, 28, 4⟩
abbrev Reg.TWN_CMD.FORCE : Fld := ⟨0x50010, 27, 1⟩
/-- Address of TWN_CMD. -/
abbrev Reg.TWN_CMD.addr : Nat := 0x50010
abbrev Reg.TWN_CMD_TREES.TREES : Fld := ⟨0x50014, 0, 32⟩
/-- Address of TWN_CMD_TREES. -/
abbrev Reg.TWN_CMD_TREES.addr : Nat := 0x50014
abbrev Reg.TWN_CMD_STATUS.BUSY : Fld := ⟨0x50018, 31, 1⟩
abbrev Reg.TWN_CMD_STATUS.CODE : Fld := ⟨0x50018, 28, 3⟩
/-- Address of TWN_CMD_STATUS. -/
abbrev Reg.TWN_CMD_STATUS.addr : Nat := 0x50018
abbrev Reg.TWN_TAU.TAU : Fld := ⟨0x50020, 0, 32⟩
/-- Address of TWN_TAU. -/
abbrev Reg.TWN_TAU.addr : Nat := 0x50020
abbrev Reg.TWN_ASYM.ASYM : Fld := ⟨0x50024, 0, 16⟩
/-- Address of TWN_ASYM. -/
abbrev Reg.TWN_ASYM.addr : Nat := 0x50024
abbrev Reg.TWN_LAST_W0.TRIGGER : Fld := ⟨0x50030, 29, 3⟩
abbrev Reg.TWN_LAST_W0.COLD : Fld := ⟨0x50030, 28, 1⟩
/-- Address of TWN_LAST_W0. -/
abbrev Reg.TWN_LAST_W0.addr : Nat := 0x50030
abbrev Reg.TWN_PORT_W0.DELTA (k : Nat) : Fld := ⟨0x50100 + k * 0x10, 0, 32⟩
/-- Address of TWN_PORT_W0. -/
abbrev Reg.TWN_PORT_W0.addr (k : Nat) : Nat := 0x50100 + k * 0x10
abbrev Reg.TWN_LAST_W1.TREES : Fld := ⟨0x50034, 0, 32⟩
/-- Address of TWN_LAST_W1. -/
abbrev Reg.TWN_LAST_W1.addr : Nat := 0x50034
abbrev Reg.TWN_PORT_W1.DELTA_VALID (k : Nat) : Fld := ⟨0x50104 + k * 0x10, 31, 1⟩
abbrev Reg.TWN_PORT_W1.US_ADJ50 (k : Nat) : Fld := ⟨0x50104 + k * 0x10, 0, 24⟩
/-- Address of TWN_PORT_W1. -/
abbrev Reg.TWN_PORT_W1.addr (k : Nat) : Nat := 0x50104 + k * 0x10
abbrev Reg.TWN_LAST_W2.SFC_LOST : Fld := ⟨0x50038, 0, 32⟩
/-- Address of TWN_LAST_W2. -/
abbrev Reg.TWN_LAST_W2.addr : Nat := 0x50038
abbrev Reg.TWN_PORT_W2.US_ADJ10 (k : Nat) : Fld := ⟨0x50108 + k * 0x10, 0, 24⟩
/-- Address of TWN_PORT_W2. -/
abbrev Reg.TWN_PORT_W2.addr (k : Nat) : Nat := 0x50108 + k * 0x10
abbrev Reg.TWN_LAST_W3.T : Fld := ⟨0x5003C, 0, 32⟩
/-- Address of TWN_LAST_W3. -/
abbrev Reg.TWN_LAST_W3.addr : Nat := 0x5003C
abbrev Reg.TWN_PORT_W3.SAMPLES (k : Nat) : Fld := ⟨0x5010C + k * 0x10, 0, 16⟩
/-- Address of TWN_PORT_W3. -/
abbrev Reg.TWN_PORT_W3.addr (k : Nat) : Nat := 0x5010C + k * 0x10
abbrev Reg.HRL_CTRL.CMD : Fld := ⟨0x30000, 28, 4⟩
abbrev Reg.HRL_CTRL.OUT_SEL : Fld := ⟨0x30000, 27, 1⟩
abbrev Reg.HRL_CTRL.AUTO_SW : Fld := ⟨0x30000, 26, 1⟩
abbrev Reg.HRL_CTRL.REVERT : Fld := ⟨0x30000, 25, 1⟩
abbrev Reg.HRL_CTRL.PREF : Fld := ⟨0x30000, 24, 1⟩
abbrev Reg.HRL_CTRL.WTR : Fld := ⟨0x30000, 0, 16⟩
/-- Address of HRL_CTRL. -/
abbrev Reg.HRL_CTRL.addr : Nat := 0x30000
abbrev Reg.HRL_STATUS.SLEWING : Fld := ⟨0x30004, 31, 1⟩
abbrev Reg.HRL_STATUS.STATE_A : Fld := ⟨0x30004, 28, 3⟩
abbrev Reg.HRL_STATUS.STATE_B : Fld := ⟨0x30004, 25, 3⟩
/-- Address of HRL_STATUS. -/
abbrev Reg.HRL_STATUS.addr : Nat := 0x30004
abbrev Reg.HRL_FREE_LO.FREE : Fld := ⟨0x30008, 0, 32⟩
/-- Address of HRL_FREE_LO. -/
abbrev Reg.HRL_FREE_LO.addr : Nat := 0x30008
abbrev Reg.HRL_FREE_HI.FREE : Fld := ⟨0x3000C, 0, 32⟩
/-- Address of HRL_FREE_HI. -/
abbrev Reg.HRL_FREE_HI.addr : Nat := 0x3000C
abbrev Reg.HRL_OUT_FRAC.OUT_FRAC : Fld := ⟨0x30010, 0, 16⟩
/-- Address of HRL_OUT_FRAC. -/
abbrev Reg.HRL_OUT_FRAC.addr : Nat := 0x30010
abbrev Reg.HRL_OUT_NS.OUT_NS : Fld := ⟨0x30014, 0, 30⟩
/-- Address of HRL_OUT_NS. -/
abbrev Reg.HRL_OUT_NS.addr : Nat := 0x30014
abbrev Reg.HRL_OUT_SEC_LO.OUT_SEC : Fld := ⟨0x30018, 0, 32⟩
/-- Address of HRL_OUT_SEC_LO. -/
abbrev Reg.HRL_OUT_SEC_LO.addr : Nat := 0x30018
abbrev Reg.HRL_OUT_SEC_HI.OUT_SEC : Fld := ⟨0x3001C, 0, 32⟩
/-- Address of HRL_OUT_SEC_HI. -/
abbrev Reg.HRL_OUT_SEC_HI.addr : Nat := 0x3001C
abbrev Reg.HRL_OFS_LO.OFS : Fld := ⟨0x30020, 0, 32⟩
/-- Address of HRL_OFS_LO. -/
abbrev Reg.HRL_OFS_LO.addr : Nat := 0x30020
abbrev Reg.HRL_OFS_HI.OFS : Fld := ⟨0x30024, 0, 32⟩
/-- Address of HRL_OFS_HI. -/
abbrev Reg.HRL_OFS_HI.addr : Nat := 0x30024
abbrev Reg.HRL_UTC.UTC_OFS : Fld := ⟨0x30028, 16, 16⟩
abbrev Reg.HRL_UTC.LEAP : Fld := ⟨0x30028, 0, 2⟩
/-- Address of HRL_UTC. -/
abbrev Reg.HRL_UTC.addr : Nat := 0x30028
abbrev Reg.HRL_SLEW.SLEW : Fld := ⟨0x3002C, 0, 6⟩
/-- Address of HRL_SLEW. -/
abbrev Reg.HRL_SLEW.addr : Nat := 0x3002C
abbrev Reg.HRL_TOD_CFG.EN : Fld := ⟨0x30030, 31, 1⟩
abbrev Reg.HRL_TOD_CFG.ANN_LEAD : Fld := ⟨0x30030, 24, 7⟩
abbrev Reg.HRL_TOD_CFG.PERIOD : Fld := ⟨0x30030, 12, 12⟩
abbrev Reg.HRL_TOD_CFG.DRIFT_MAX : Fld := ⟨0x30030, 0, 12⟩
/-- Address of HRL_TOD_CFG. -/
abbrev Reg.HRL_TOD_CFG.addr : Nat := 0x30030
abbrev Reg.HRL_PON_FREQ.Y : Fld := ⟨0x30034, 0, 32⟩
/-- Address of HRL_PON_FREQ. -/
abbrev Reg.HRL_PON_FREQ.addr : Nat := 0x30034
abbrev Reg.HRL_PPS_CFG.OUT_EN : Fld := ⟨0x30040, 31, 1⟩
abbrev Reg.HRL_PPS_CFG.PPS_W : Fld := ⟨0x30040, 22, 9⟩
abbrev Reg.HRL_PPS_CFG.PPS_IN_DLY : Fld := ⟨0x30040, 11, 11⟩
abbrev Reg.HRL_PPS_CFG.PPS_OUT_DLY : Fld := ⟨0x30040, 0, 11⟩
/-- Address of HRL_PPS_CFG. -/
abbrev Reg.HRL_PPS_CFG.addr : Nat := 0x30040
abbrev Reg.HRL_SYNCE_CFG.EN0 : Fld := ⟨0x30044, 31, 1⟩
abbrev Reg.HRL_SYNCE_CFG.DIV0 : Fld := ⟨0x30044, 30, 1⟩
abbrev Reg.HRL_SYNCE_CFG.SQ_FORCE0 : Fld := ⟨0x30044, 29, 1⟩
abbrev Reg.HRL_SYNCE_CFG.LANE0 : Fld := ⟨0x30044, 24, 5⟩
abbrev Reg.HRL_SYNCE_CFG.EN1 : Fld := ⟨0x30044, 15, 1⟩
abbrev Reg.HRL_SYNCE_CFG.DIV1 : Fld := ⟨0x30044, 14, 1⟩
abbrev Reg.HRL_SYNCE_CFG.SQ_FORCE1 : Fld := ⟨0x30044, 13, 1⟩
abbrev Reg.HRL_SYNCE_CFG.LANE1 : Fld := ⟨0x30044, 8, 5⟩
/-- Address of HRL_SYNCE_CFG. -/
abbrev Reg.HRL_SYNCE_CFG.addr : Nat := 0x30044
abbrev Reg.HRL_PTP_CFG.DOMNUM_A : Fld := ⟨0x30048, 24, 8⟩
abbrev Reg.HRL_PTP_CFG.DOMNUM_B : Fld := ⟨0x30048, 16, 8⟩
/-- Address of HRL_PTP_CFG. -/
abbrev Reg.HRL_PTP_CFG.addr : Nat := 0x30048
abbrev Reg.HRL_DOM_CFG.EN (k : Nat) : Fld := ⟨0x30100 + k * 0x40, 31, 1⟩
abbrev Reg.HRL_DOM_CFG.SRC (k : Nat) : Fld := ⟨0x30100 + k * 0x40, 29, 2⟩
abbrev Reg.HRL_DOM_CFG.KP_SHIFT (k : Nat) : Fld := ⟨0x30100 + k * 0x40, 25, 4⟩
abbrev Reg.HRL_DOM_CFG.KI_SHIFT (k : Nat) : Fld := ⟨0x30100 + k * 0x40, 21, 4⟩
abbrev Reg.HRL_DOM_CFG.LOCK_CNT (k : Nat) : Fld := ⟨0x30100 + k * 0x40, 16, 5⟩
abbrev Reg.HRL_DOM_CFG.LOCK_THR (k : Nat) : Fld := ⟨0x30100 + k * 0x40, 0, 16⟩
/-- Address of HRL_DOM_CFG. -/
abbrev Reg.HRL_DOM_CFG.addr (k : Nat) : Nat := 0x30100 + k * 0x40
abbrev Reg.HRL_DOM_STATE.STATE (k : Nat) : Fld := ⟨0x30104 + k * 0x40, 29, 3⟩
abbrev Reg.HRL_DOM_STATE.STEPPED (k : Nat) : Fld := ⟨0x30104 + k * 0x40, 28, 1⟩
/-- Address of HRL_DOM_STATE. -/
abbrev Reg.HRL_DOM_STATE.addr (k : Nat) : Nat := 0x30104 + k * 0x40
abbrev Reg.HRL_DOM_FREQ_LO.FREQ (k : Nat) : Fld := ⟨0x30108 + k * 0x40, 0, 32⟩
/-- Address of HRL_DOM_FREQ_LO. -/
abbrev Reg.HRL_DOM_FREQ_LO.addr (k : Nat) : Nat := 0x30108 + k * 0x40
abbrev Reg.HRL_DOM_FREQ_HI.FREQ (k : Nat) : Fld := ⟨0x3010C + k * 0x40, 0, 8⟩
/-- Address of HRL_DOM_FREQ_HI. -/
abbrev Reg.HRL_DOM_FREQ_HI.addr (k : Nat) : Nat := 0x3010C + k * 0x40
abbrev Reg.HRL_DOM_S_FRAC.S_FRAC (k : Nat) : Fld := ⟨0x30120 + k * 0x40, 0, 16⟩
/-- Address of HRL_DOM_S_FRAC. -/
abbrev Reg.HRL_DOM_S_FRAC.addr (k : Nat) : Nat := 0x30120 + k * 0x40
abbrev Reg.HRL_DOM_S_NS.S_NS (k : Nat) : Fld := ⟨0x30124 + k * 0x40, 0, 32⟩
/-- Address of HRL_DOM_S_NS. -/
abbrev Reg.HRL_DOM_S_NS.addr (k : Nat) : Nat := 0x30124 + k * 0x40
abbrev Reg.HRL_DOM_S_SEC.S_SEC (k : Nat) : Fld := ⟨0x30128 + k * 0x40, 0, 32⟩
/-- Address of HRL_DOM_S_SEC. -/
abbrev Reg.HRL_DOM_S_SEC.addr (k : Nat) : Nat := 0x30128 + k * 0x40
abbrev Reg.HRL_DOM_TMO.HO_AVG (k : Nat) : Fld := ⟨0x3012C + k * 0x40, 24, 8⟩
abbrev Reg.HRL_DOM_TMO.SRC_TMO (k : Nat) : Fld := ⟨0x3012C + k * 0x40, 16, 8⟩
abbrev Reg.HRL_DOM_TMO.FREQ_MAX (k : Nat) : Fld := ⟨0x3012C + k * 0x40, 0, 16⟩
/-- Address of HRL_DOM_TMO. -/
abbrev Reg.HRL_DOM_TMO.addr (k : Nat) : Nat := 0x3012C + k * 0x40
abbrev Reg.HRL_DOM_CMD.CMD (k : Nat) : Fld := ⟨0x30130 + k * 0x40, 28, 4⟩
abbrev Reg.HRL_DOM_CMD.CODE (k : Nat) : Fld := ⟨0x30130 + k * 0x40, 24, 4⟩
abbrev Reg.HRL_DOM_CMD.PHASE_ALARM (k : Nat) : Fld := ⟨0x30130 + k * 0x40, 0, 24⟩
/-- Address of HRL_DOM_CMD. -/
abbrev Reg.HRL_DOM_CMD.addr (k : Nat) : Nat := 0x30130 + k * 0x40
abbrev Reg.HRL_DOM_LAST_E.LAST_E (k : Nat) : Fld := ⟨0x30134 + k * 0x40, 0, 32⟩
/-- Address of HRL_DOM_LAST_E. -/
abbrev Reg.HRL_DOM_LAST_E.addr (k : Nat) : Nat := 0x30134 + k * 0x40
abbrev Reg.HRL_DOM_TIME_FRAC.V (k : Nat) : Fld := ⟨0x30110 + k * 0x40, 0, 32⟩
/-- Address of HRL_DOM_TIME_FRAC. -/
abbrev Reg.HRL_DOM_TIME_FRAC.addr (k : Nat) : Nat := 0x30110 + k * 0x40
abbrev Reg.HRL_DOM_TIME_NS.V (k : Nat) : Fld := ⟨0x30114 + k * 0x40, 0, 32⟩
/-- Address of HRL_DOM_TIME_NS. -/
abbrev Reg.HRL_DOM_TIME_NS.addr (k : Nat) : Nat := 0x30114 + k * 0x40
abbrev Reg.HRL_DOM_TIME_SEC_LO.V (k : Nat) : Fld := ⟨0x30118 + k * 0x40, 0, 32⟩
/-- Address of HRL_DOM_TIME_SEC_LO. -/
abbrev Reg.HRL_DOM_TIME_SEC_LO.addr (k : Nat) : Nat := 0x30118 + k * 0x40
abbrev Reg.HRL_DOM_TIME_SEC_HI.V (k : Nat) : Fld := ⟨0x3011C + k * 0x40, 0, 32⟩
/-- Address of HRL_DOM_TIME_SEC_HI. -/
abbrev Reg.HRL_DOM_TIME_SEC_HI.addr (k : Nat) : Nat := 0x3011C + k * 0x40
abbrev Reg.HRL_ULK_DLY.DLY (k : Nat) : Fld := ⟨0x30200 + k * 0x4, 0, 16⟩
/-- Address of HRL_ULK_DLY. -/
abbrev Reg.HRL_ULK_DLY.addr (k : Nat) : Nat := 0x30200 + k * 0x4
abbrev Reg.HRL_PON_DLY.DLY (k : Nat) : Fld := ⟨0x30280 + k * 0x4, 0, 16⟩
/-- Address of HRL_PON_DLY. -/
abbrev Reg.HRL_PON_DLY.addr (k : Nat) : Nat := 0x30280 + k * 0x4
abbrev Reg.HRL_TS_RX_W0.VALID : Fld := ⟨0x30800, 31, 1⟩
abbrev Reg.HRL_TS_RX_W0.LANE : Fld := ⟨0x30800, 21, 5⟩
abbrev Reg.HRL_TS_RX_W0.MSGTYPE : Fld := ⟨0x30800, 17, 4⟩
abbrev Reg.HRL_TS_RX_W0.DOM : Fld := ⟨0x30800, 16, 1⟩
abbrev Reg.HRL_TS_RX_W0.SEQID : Fld := ⟨0x30800, 0, 16⟩
/-- Address of HRL_TS_RX_W0. -/
abbrev Reg.HRL_TS_RX_W0.addr : Nat := 0x30800
abbrev Reg.HRL_TS_RX_TIME.V (k : Nat) : Fld := ⟨0x30804 + k * 0x4, 0, 32⟩
/-- Address of HRL_TS_RX_TIME. -/
abbrev Reg.HRL_TS_RX_TIME.addr (k : Nat) : Nat := 0x30804 + k * 0x4
/-- Address of HRL_TS_RX_RSVD. -/
abbrev Reg.HRL_TS_RX_RSVD.addr (k : Nat) : Nat := 0x30814 + k * 0x4
abbrev Reg.HRL_TS_TX_W0.VALID : Fld := ⟨0x30820, 31, 1⟩
abbrev Reg.HRL_TS_TX_W0.LANE : Fld := ⟨0x30820, 21, 5⟩
abbrev Reg.HRL_TS_TX_W0.MSGTYPE : Fld := ⟨0x30820, 17, 4⟩
abbrev Reg.HRL_TS_TX_W0.DOM : Fld := ⟨0x30820, 16, 1⟩
abbrev Reg.HRL_TS_TX_W0.SEQID : Fld := ⟨0x30820, 0, 16⟩
/-- Address of HRL_TS_TX_W0. -/
abbrev Reg.HRL_TS_TX_W0.addr : Nat := 0x30820
abbrev Reg.HRL_TS_TX_TIME.V (k : Nat) : Fld := ⟨0x30824 + k * 0x4, 0, 32⟩
/-- Address of HRL_TS_TX_TIME. -/
abbrev Reg.HRL_TS_TX_TIME.addr (k : Nat) : Nat := 0x30824 + k * 0x4
/-- Address of HRL_TS_TX_RSVD. -/
abbrev Reg.HRL_TS_TX_RSVD.addr (k : Nat) : Nat := 0x30834 + k * 0x4
abbrev Reg.ULK_CFG.EN (n : Nat) : Fld := ⟨0x320000 + n * 0x1000, 31, 1⟩
abbrev Reg.ULK_CFG.WIDTH (n : Nat) : Fld := ⟨0x320000 + n * 0x1000, 28, 3⟩
abbrev Reg.ULK_CFG.PMD (n : Nat) : Fld := ⟨0x320000 + n * 0x1000, 26, 2⟩
abbrev Reg.ULK_CFG.AN_EN (n : Nat) : Fld := ⟨0x320000 + n * 0x1000, 25, 1⟩
abbrev Reg.ULK_CFG.LT_EN (n : Nat) : Fld := ⟨0x320000 + n * 0x1000, 24, 1⟩
abbrev Reg.ULK_CFG.RETRAIN (n : Nat) : Fld := ⟨0x320000 + n * 0x1000, 23, 1⟩
/-- Address of ULK_CFG. -/
abbrev Reg.ULK_CFG.addr (n : Nat) : Nat := 0x320000 + n * 0x1000
abbrev Reg.ULK_STATUS.LINK_UP (n : Nat) : Fld := ⟨0x320004 + n * 0x1000, 31, 1⟩
abbrev Reg.ULK_STATUS.AN_DONE (n : Nat) : Fld := ⟨0x320004 + n * 0x1000, 30, 1⟩
abbrev Reg.ULK_STATUS.LT_DONE (n : Nat) : Fld := ⟨0x320004 + n * 0x1000, 29, 1⟩
abbrev Reg.ULK_STATUS.LOCAL_FAULT (n : Nat) : Fld := ⟨0x320004 + n * 0x1000, 28, 1⟩
abbrev Reg.ULK_STATUS.REMOTE_FAULT (n : Nat) : Fld := ⟨0x320004 + n * 0x1000, 27, 1⟩
abbrev Reg.ULK_STATUS.LEADER (n : Nat) : Fld := ⟨0x320004 + n * 0x1000, 0, 5⟩
/-- Address of ULK_STATUS. -/
abbrev Reg.ULK_STATUS.addr (n : Nat) : Nat := 0x320004 + n * 0x1000
abbrev Reg.PT_LT_CTRL.GEN_EN (n k : Nat) : Fld := ⟨0x100C00 + n * 0x10000 + k * 0x40, 31, 1⟩
abbrev Reg.PT_LT_CTRL.CHK_EN (n k : Nat) : Fld := ⟨0x100C00 + n * 0x10000 + k * 0x40, 30, 1⟩
abbrev Reg.PT_LT_CTRL.PATTERN (n k : Nat) : Fld := ⟨0x100C00 + n * 0x10000 + k * 0x40, 27, 3⟩
abbrev Reg.PT_LT_CTRL.INVERT (n k : Nat) : Fld := ⟨0x100C00 + n * 0x10000 + k * 0x40, 26, 1⟩
abbrev Reg.PT_LT_CTRL.INJ_MODE (n k : Nat) : Fld := ⟨0x100C00 + n * 0x10000 + k * 0x40, 24, 2⟩
abbrev Reg.PT_LT_CTRL.INJ_GO (n k : Nat) : Fld := ⟨0x100C00 + n * 0x10000 + k * 0x40, 23, 1⟩
abbrev Reg.PT_LT_CTRL.INJ_RATE (n k : Nat) : Fld := ⟨0x100C00 + n * 0x10000 + k * 0x40, 16, 6⟩
abbrev Reg.PT_LT_CTRL.INJ_LEN (n k : Nat) : Fld := ⟨0x100C00 + n * 0x10000 + k * 0x40, 8, 8⟩
/-- Address of PT_LT_CTRL. -/
abbrev Reg.PT_LT_CTRL.addr (n k : Nat) : Nat := 0x100C00 + n * 0x10000 + k * 0x40
abbrev Reg.PT_LT_STATUS.CHK_LOCK (n k : Nat) : Fld := ⟨0x100C04 + n * 0x10000 + k * 0x40, 31, 1⟩
abbrev Reg.PT_LT_STATUS.LOCK_LOST (n k : Nat) : Fld := ⟨0x100C04 + n * 0x10000 + k * 0x40, 30, 1⟩
abbrev Reg.PT_LT_STATUS.INJ_BUSY (n k : Nat) : Fld := ⟨0x100C04 + n * 0x10000 + k * 0x40, 29, 1⟩
/-- Address of PT_LT_STATUS. -/
abbrev Reg.PT_LT_STATUS.addr (n k : Nat) : Nat := 0x100C04 + n * 0x10000 + k * 0x40
abbrev Reg.ULK_LT_CTRL.GEN_EN (n : Nat) : Fld := ⟨0x320800 + n * 0x1000, 31, 1⟩
abbrev Reg.ULK_LT_CTRL.CHK_EN (n : Nat) : Fld := ⟨0x320800 + n * 0x1000, 30, 1⟩
abbrev Reg.ULK_LT_CTRL.PATTERN (n : Nat) : Fld := ⟨0x320800 + n * 0x1000, 27, 3⟩
abbrev Reg.ULK_LT_CTRL.INVERT (n : Nat) : Fld := ⟨0x320800 + n * 0x1000, 26, 1⟩
abbrev Reg.ULK_LT_CTRL.INJ_MODE (n : Nat) : Fld := ⟨0x320800 + n * 0x1000, 24, 2⟩
abbrev Reg.ULK_LT_CTRL.INJ_GO (n : Nat) : Fld := ⟨0x320800 + n * 0x1000, 23, 1⟩
abbrev Reg.ULK_LT_CTRL.INJ_RATE (n : Nat) : Fld := ⟨0x320800 + n * 0x1000, 16, 6⟩
abbrev Reg.ULK_LT_CTRL.INJ_LEN (n : Nat) : Fld := ⟨0x320800 + n * 0x1000, 8, 8⟩
/-- Address of ULK_LT_CTRL. -/
abbrev Reg.ULK_LT_CTRL.addr (n : Nat) : Nat := 0x320800 + n * 0x1000
abbrev Reg.ULK_LT_STATUS.CHK_LOCK (n : Nat) : Fld := ⟨0x320804 + n * 0x1000, 31, 1⟩
abbrev Reg.ULK_LT_STATUS.LOCK_LOST (n : Nat) : Fld := ⟨0x320804 + n * 0x1000, 30, 1⟩
abbrev Reg.ULK_LT_STATUS.INJ_BUSY (n : Nat) : Fld := ⟨0x320804 + n * 0x1000, 29, 1⟩
/-- Address of ULK_LT_STATUS. -/
abbrev Reg.ULK_LT_STATUS.addr (n : Nat) : Nat := 0x320804 + n * 0x1000
abbrev Reg.SHL_LT_CTRL.GEN_EN (k : Nat) : Fld := ⟨0x62000 + k * 0x40, 31, 1⟩
abbrev Reg.SHL_LT_CTRL.CHK_EN (k : Nat) : Fld := ⟨0x62000 + k * 0x40, 30, 1⟩
abbrev Reg.SHL_LT_CTRL.PATTERN (k : Nat) : Fld := ⟨0x62000 + k * 0x40, 27, 3⟩
abbrev Reg.SHL_LT_CTRL.INVERT (k : Nat) : Fld := ⟨0x62000 + k * 0x40, 26, 1⟩
abbrev Reg.SHL_LT_CTRL.INJ_MODE (k : Nat) : Fld := ⟨0x62000 + k * 0x40, 24, 2⟩
abbrev Reg.SHL_LT_CTRL.INJ_GO (k : Nat) : Fld := ⟨0x62000 + k * 0x40, 23, 1⟩
abbrev Reg.SHL_LT_CTRL.INJ_RATE (k : Nat) : Fld := ⟨0x62000 + k * 0x40, 16, 6⟩
abbrev Reg.SHL_LT_CTRL.INJ_LEN (k : Nat) : Fld := ⟨0x62000 + k * 0x40, 8, 8⟩
/-- Address of SHL_LT_CTRL. -/
abbrev Reg.SHL_LT_CTRL.addr (k : Nat) : Nat := 0x62000 + k * 0x40
abbrev Reg.SHL_LT_STATUS.CHK_LOCK (k : Nat) : Fld := ⟨0x62004 + k * 0x40, 31, 1⟩
abbrev Reg.SHL_LT_STATUS.LOCK_LOST (k : Nat) : Fld := ⟨0x62004 + k * 0x40, 30, 1⟩
abbrev Reg.SHL_LT_STATUS.INJ_BUSY (k : Nat) : Fld := ⟨0x62004 + k * 0x40, 29, 1⟩
/-- Address of SHL_LT_STATUS. -/
abbrev Reg.SHL_LT_STATUS.addr (k : Nat) : Nat := 0x62004 + k * 0x40
abbrev Reg.HST_LT_CTRL.GEN_EN (k : Nat) : Fld := ⟨0x78000 + k * 0x40, 31, 1⟩
abbrev Reg.HST_LT_CTRL.CHK_EN (k : Nat) : Fld := ⟨0x78000 + k * 0x40, 30, 1⟩
abbrev Reg.HST_LT_CTRL.PATTERN (k : Nat) : Fld := ⟨0x78000 + k * 0x40, 27, 3⟩
abbrev Reg.HST_LT_CTRL.INVERT (k : Nat) : Fld := ⟨0x78000 + k * 0x40, 26, 1⟩
abbrev Reg.HST_LT_CTRL.INJ_MODE (k : Nat) : Fld := ⟨0x78000 + k * 0x40, 24, 2⟩
abbrev Reg.HST_LT_CTRL.INJ_GO (k : Nat) : Fld := ⟨0x78000 + k * 0x40, 23, 1⟩
abbrev Reg.HST_LT_CTRL.INJ_RATE (k : Nat) : Fld := ⟨0x78000 + k * 0x40, 16, 6⟩
abbrev Reg.HST_LT_CTRL.INJ_LEN (k : Nat) : Fld := ⟨0x78000 + k * 0x40, 8, 8⟩
/-- Address of HST_LT_CTRL. -/
abbrev Reg.HST_LT_CTRL.addr (k : Nat) : Nat := 0x78000 + k * 0x40
abbrev Reg.HST_LT_STATUS.CHK_LOCK (k : Nat) : Fld := ⟨0x78004 + k * 0x40, 31, 1⟩
abbrev Reg.HST_LT_STATUS.LOCK_LOST (k : Nat) : Fld := ⟨0x78004 + k * 0x40, 30, 1⟩
abbrev Reg.HST_LT_STATUS.INJ_BUSY (k : Nat) : Fld := ⟨0x78004 + k * 0x40, 29, 1⟩
/-- Address of HST_LT_STATUS. -/
abbrev Reg.HST_LT_STATUS.addr (k : Nat) : Nat := 0x78004 + k * 0x40
abbrev Reg.SHL_TMR.TRAIN_TMO : Fld := ⟨0x60010, 24, 8⟩
abbrev Reg.SHL_TMR.IDLE_RUN : Fld := ⟨0x60010, 16, 8⟩
abbrev Reg.SHL_TMR.MISMATCH_HOLD : Fld := ⟨0x60010, 8, 8⟩
/-- Address of SHL_TMR. -/
abbrev Reg.SHL_TMR.addr : Nat := 0x60010
abbrev Reg.SHL_LANE_CFG.EN (k : Nat) : Fld := ⟨0x60100 + k * 0x20, 31, 1⟩
abbrev Reg.SHL_LANE_CFG.SEAL (k : Nat) : Fld := ⟨0x60100 + k * 0x20, 29, 2⟩
abbrev Reg.SHL_LANE_CFG.RETRAIN (k : Nat) : Fld := ⟨0x60100 + k * 0x20, 28, 1⟩
abbrev Reg.SHL_LANE_CFG.SNAP_MARGIN (k : Nat) : Fld := ⟨0x60100 + k * 0x20, 8, 8⟩
abbrev Reg.SHL_LANE_CFG.REVERT_MARGIN (k : Nat) : Fld := ⟨0x60100 + k * 0x20, 0, 8⟩
/-- Address of SHL_LANE_CFG. -/
abbrev Reg.SHL_LANE_CFG.addr (k : Nat) : Nat := 0x60100 + k * 0x20
abbrev Reg.SHL_LANE_STATUS.STATE (k : Nat) : Fld := ⟨0x60104 + k * 0x20, 29, 3⟩
abbrev Reg.SHL_LANE_STATUS.SEALED (k : Nat) : Fld := ⟨0x60104 + k * 0x20, 28, 1⟩
abbrev Reg.SHL_LANE_STATUS.TX_PHASE (k : Nat) : Fld := ⟨0x60104 + k * 0x20, 27, 1⟩
abbrev Reg.SHL_LANE_STATUS.RX_PHASE (k : Nat) : Fld := ⟨0x60104 + k * 0x20, 26, 1⟩
abbrev Reg.SHL_LANE_STATUS.ROLE (k : Nat) : Fld := ⟨0x60104 + k * 0x20, 24, 2⟩
abbrev Reg.SHL_LANE_STATUS.PARTNER_ADDR (k : Nat) : Fld := ⟨0x60104 + k * 0x20, 16, 8⟩
abbrev Reg.SHL_LANE_STATUS.PARTNER_LANE (k : Nat) : Fld := ⟨0x60104 + k * 0x20, 12, 4⟩
abbrev Reg.SHL_LANE_STATUS.MARGIN (k : Nat) : Fld := ⟨0x60104 + k * 0x20, 0, 8⟩
/-- Address of SHL_LANE_STATUS. -/
abbrev Reg.SHL_LANE_STATUS.addr (k : Nat) : Nat := 0x60104 + k * 0x20
abbrev Reg.SHL_LANE_COEF.C_PRE (k : Nat) : Fld := ⟨0x60108 + k * 0x20, 16, 6⟩
abbrev Reg.SHL_LANE_COEF.C_MAIN (k : Nat) : Fld := ⟨0x60108 + k * 0x20, 8, 6⟩
abbrev Reg.SHL_LANE_COEF.C_POST (k : Nat) : Fld := ⟨0x60108 + k * 0x20, 0, 6⟩
/-- Address of SHL_LANE_COEF. -/
abbrev Reg.SHL_LANE_COEF.addr (k : Nat) : Nat := 0x60108 + k * 0x20
abbrev Reg.SHL_FAB_CFG.MODE : Fld := ⟨0x60000, 30, 2⟩
abbrev Reg.SHL_FAB_CFG.MASTER : Fld := ⟨0x60000, 29, 1⟩
abbrev Reg.SHL_FAB_CFG.ADDR_FIXED : Fld := ⟨0x60000, 28, 1⟩
abbrev Reg.SHL_FAB_CFG.ADDR_CFG : Fld := ⟨0x60000, 22, 6⟩
abbrev Reg.SHL_FAB_CFG.LANES : Fld := ⟨0x60000, 0, 16⟩
/-- Address of SHL_FAB_CFG. -/
abbrev Reg.SHL_FAB_CFG.addr : Nat := 0x60000
abbrev Reg.SHL_FAB_STATUS.ADDR_VALID : Fld := ⟨0x60004, 31, 1⟩
abbrev Reg.SHL_FAB_STATUS.CONFLICT : Fld := ⟨0x60004, 30, 1⟩
abbrev Reg.SHL_FAB_STATUS.ADDR : Fld := ⟨0x60004, 24, 6⟩
abbrev Reg.SHL_FAB_STATUS.DEVICES : Fld := ⟨0x60004, 17, 7⟩
abbrev Reg.SHL_FAB_STATUS.MASTER_SEEN : Fld := ⟨0x60004, 16, 1⟩
abbrev Reg.SHL_FAB_STATUS.NBR_LANES : Fld := ⟨0x60004, 0, 16⟩
/-- Address of SHL_FAB_STATUS. -/
abbrev Reg.SHL_FAB_STATUS.addr : Nat := 0x60004
abbrev Reg.SHL_FAB_TMR.HELLO_INT : Fld := ⟨0x60008, 24, 8⟩
abbrev Reg.SHL_FAB_TMR.HELLO_MISS : Fld := ⟨0x60008, 16, 8⟩
abbrev Reg.SHL_FAB_TMR.SETTLE : Fld := ⟨0x60008, 8, 8⟩
/-- Address of SHL_FAB_TMR. -/
abbrev Reg.SHL_FAB_TMR.addr : Nat := 0x60008
abbrev Reg.SHL_ROUTE.VALID (k : Nat) : Fld := ⟨0x60400 + k * 0x4, 31, 1⟩
abbrev Reg.SHL_ROUTE.LOCAL (k : Nat) : Fld := ⟨0x60400 + k * 0x4, 30, 1⟩
abbrev Reg.SHL_ROUTE.DIST (k : Nat) : Fld := ⟨0x60400 + k * 0x4, 24, 6⟩
abbrev Reg.SHL_ROUTE.LANES (k : Nat) : Fld := ⟨0x60400 + k * 0x4, 0, 16⟩
/-- Address of SHL_ROUTE. -/
abbrev Reg.SHL_ROUTE.addr (k : Nat) : Nat := 0x60400 + k * 0x4
abbrev Reg.FLT_CTRL.CMD : Fld := ⟨0x10000, 28, 4⟩
abbrev Reg.FLT_CTRL.AUTO_RESTART : Fld := ⟨0x10000, 27, 1⟩
abbrev Reg.FLT_CTRL.PROTECT_EN : Fld := ⟨0x10000, 26, 1⟩
abbrev Reg.FLT_CTRL.RESTART_MAX : Fld := ⟨0x10000, 16, 4⟩
abbrev Reg.FLT_CTRL.RESTART_HOLD : Fld := ⟨0x10000, 0, 16⟩
/-- Address of FLT_CTRL. -/
abbrev Reg.FLT_CTRL.addr : Nat := 0x10000
abbrev Reg.FLT_STATUS.SAFE : Fld := ⟨0x10004, 31, 1⟩
abbrev Reg.FLT_STATUS.PEND : Fld := ⟨0x10004, 28, 3⟩
abbrev Reg.FLT_STATUS.RESTART_LIMIT : Fld := ⟨0x10004, 27, 1⟩
abbrev Reg.FLT_STATUS.EXIT_REFUSED : Fld := ⟨0x10004, 26, 1⟩
abbrev Reg.FLT_STATUS.RESTARTS : Fld := ⟨0x10004, 20, 4⟩
/-- Address of FLT_STATUS. -/
abbrev Reg.FLT_STATUS.addr : Nat := 0x10004
abbrev Reg.FLT_QSTATUS.DEPTH : Fld := ⟨0x10008, 16, 8⟩
abbrev Reg.FLT_QSTATUS.OVERFLOW : Fld := ⟨0x10008, 0, 16⟩
/-- Address of FLT_QSTATUS. -/
abbrev Reg.FLT_QSTATUS.addr : Nat := 0x10008
abbrev Reg.FLT_ISO_CMD.OP : Fld := ⟨0x10010, 28, 4⟩
abbrev Reg.FLT_ISO_CMD.UNIT : Fld := ⟨0x10010, 24, 4⟩
abbrev Reg.FLT_ISO_CMD.NUMBER : Fld := ⟨0x10010, 0, 16⟩
/-- Address of FLT_ISO_CMD. -/
abbrev Reg.FLT_ISO_CMD.addr : Nat := 0x10010
abbrev Reg.FLT_ISO_STATUS.BUSY : Fld := ⟨0x10014, 31, 1⟩
abbrev Reg.FLT_ISO_STATUS.CODE : Fld := ⟨0x10014, 28, 3⟩
/-- Address of FLT_ISO_STATUS. -/
abbrev Reg.FLT_ISO_STATUS.addr : Nat := 0x10014
abbrev Reg.FLT_TEMP_CFG.WARN : Fld := ⟨0x10020, 16, 8⟩
abbrev Reg.FLT_TEMP_CFG.HIGH : Fld := ⟨0x10020, 8, 8⟩
abbrev Reg.FLT_TEMP_CFG.LOW : Fld := ⟨0x10020, 0, 8⟩
/-- Address of FLT_TEMP_CFG. -/
abbrev Reg.FLT_TEMP_CFG.addr : Nat := 0x10020
abbrev Reg.FLT_QUEUE_W0.VALID : Fld := ⟨0x10100, 31, 1⟩
abbrev Reg.FLT_QUEUE_W0.CLASS : Fld := ⟨0x10100, 29, 2⟩
abbrev Reg.FLT_QUEUE_W0.SEVERE : Fld := ⟨0x10100, 28, 1⟩
abbrev Reg.FLT_QUEUE_W0.KIND : Fld := ⟨0x10100, 20, 8⟩
abbrev Reg.FLT_QUEUE_W0.SOURCE : Fld := ⟨0x10100, 8, 12⟩
abbrev Reg.FLT_QUEUE_W0.ADDR_HI : Fld := ⟨0x10100, 0, 8⟩
/-- Address of FLT_QUEUE_W0. -/
abbrev Reg.FLT_QUEUE_W0.addr : Nat := 0x10100
abbrev Reg.FLT_FIRST_W0.VALID (k : Nat) : Fld := ⟨0x10200 + k * 0x10, 31, 1⟩
abbrev Reg.FLT_FIRST_W0.CLASS (k : Nat) : Fld := ⟨0x10200 + k * 0x10, 29, 2⟩
abbrev Reg.FLT_FIRST_W0.SEVERE (k : Nat) : Fld := ⟨0x10200 + k * 0x10, 28, 1⟩
abbrev Reg.FLT_FIRST_W0.KIND (k : Nat) : Fld := ⟨0x10200 + k * 0x10, 20, 8⟩
abbrev Reg.FLT_FIRST_W0.SOURCE (k : Nat) : Fld := ⟨0x10200 + k * 0x10, 8, 12⟩
abbrev Reg.FLT_FIRST_W0.ADDR_HI (k : Nat) : Fld := ⟨0x10200 + k * 0x10, 0, 8⟩
/-- Address of FLT_FIRST_W0. -/
abbrev Reg.FLT_FIRST_W0.addr (k : Nat) : Nat := 0x10200 + k * 0x10
abbrev Reg.FLT_QUEUE_W1.ADDR_LO : Fld := ⟨0x10104, 0, 32⟩
/-- Address of FLT_QUEUE_W1. -/
abbrev Reg.FLT_QUEUE_W1.addr : Nat := 0x10104
abbrev Reg.FLT_FIRST_W1.ADDR_LO (k : Nat) : Fld := ⟨0x10204 + k * 0x10, 0, 32⟩
/-- Address of FLT_FIRST_W1. -/
abbrev Reg.FLT_FIRST_W1.addr (k : Nat) : Nat := 0x10204 + k * 0x10
abbrev Reg.FLT_QUEUE_W2.TIME_LO : Fld := ⟨0x10108, 0, 32⟩
/-- Address of FLT_QUEUE_W2. -/
abbrev Reg.FLT_QUEUE_W2.addr : Nat := 0x10108
abbrev Reg.FLT_FIRST_W2.TIME_LO (k : Nat) : Fld := ⟨0x10208 + k * 0x10, 0, 32⟩
/-- Address of FLT_FIRST_W2. -/
abbrev Reg.FLT_FIRST_W2.addr (k : Nat) : Nat := 0x10208 + k * 0x10
abbrev Reg.FLT_QUEUE_W3.TIME_HI : Fld := ⟨0x1010C, 0, 24⟩
/-- Address of FLT_QUEUE_W3. -/
abbrev Reg.FLT_QUEUE_W3.addr : Nat := 0x1010C
abbrev Reg.FLT_FIRST_W3.TIME_HI (k : Nat) : Fld := ⟨0x1020C + k * 0x10, 0, 24⟩
/-- Address of FLT_FIRST_W3. -/
abbrev Reg.FLT_FIRST_W3.addr (k : Nat) : Nat := 0x1020C + k * 0x10
abbrev Reg.FLT_KIND_W0.CLASS (k : Nat) : Fld := ⟨0x11000 + k * 0x8, 30, 2⟩
abbrev Reg.FLT_KIND_W0.INT (k : Nat) : Fld := ⟨0x11000 + k * 0x8, 29, 1⟩
abbrev Reg.FLT_KIND_W0.ISO (k : Nat) : Fld := ⟨0x11000 + k * 0x8, 28, 1⟩
abbrev Reg.FLT_KIND_W0.FATAL (k : Nat) : Fld := ⟨0x11000 + k * 0x8, 27, 1⟩
abbrev Reg.FLT_KIND_W0.SEV_REACT (k : Nat) : Fld := ⟨0x11000 + k * 0x8, 24, 3⟩
abbrev Reg.FLT_KIND_W0.N (k : Nat) : Fld := ⟨0x11000 + k * 0x8, 16, 8⟩
abbrev Reg.FLT_KIND_W0.WIN_UNIT (k : Nat) : Fld := ⟨0x11000 + k * 0x8, 15, 1⟩
abbrev Reg.FLT_KIND_W0.WIN_VAL (k : Nat) : Fld := ⟨0x11000 + k * 0x8, 0, 10⟩
/-- Address of FLT_KIND_W0. -/
abbrev Reg.FLT_KIND_W0.addr (k : Nat) : Nat := 0x11000 + k * 0x8
abbrev Reg.FLT_KIND_W1.STATUS (k : Nat) : Fld := ⟨0x11004 + k * 0x8, 31, 1⟩
abbrev Reg.FLT_KIND_W1.CAUSE_ACTIVE (k : Nat) : Fld := ⟨0x11004 + k * 0x8, 30, 1⟩
abbrev Reg.FLT_KIND_W1.SEVERE (k : Nat) : Fld := ⟨0x11004 + k * 0x8, 29, 1⟩
abbrev Reg.FLT_KIND_W1.COUNT (k : Nat) : Fld := ⟨0x11004 + k * 0x8, 0, 16⟩
/-- Address of FLT_KIND_W1. -/
abbrev Reg.FLT_KIND_W1.addr (k : Nat) : Nat := 0x11004 + k * 0x8
abbrev Reg.WDN_CFG.EN : Fld := ⟨0xF0000, 31, 1⟩
abbrev Reg.WDN_CFG.GOLDEN_EN : Fld := ⟨0xF0000, 30, 1⟩
abbrev Reg.WDN_CFG.SRAM_EN : Fld := ⟨0xF0000, 29, 1⟩
abbrev Reg.WDN_CFG.TCAM_EN : Fld := ⟨0xF0000, 28, 1⟩
abbrev Reg.WDN_CFG.AUDIT_EN : Fld := ⟨0xF0000, 27, 1⟩
abbrev Reg.WDN_CFG.EYE_EN : Fld := ⟨0xF0000, 26, 1⟩
abbrev Reg.WDN_CFG.GOLDEN_SRC : Fld := ⟨0xF0000, 25, 1⟩
abbrev Reg.WDN_CFG.IDLE_FRAC : Fld := ⟨0xF0000, 16, 8⟩
abbrev Reg.WDN_CFG.FORCE_SHARE : Fld := ⟨0xF0000, 8, 8⟩
abbrev Reg.WDN_CFG.FORCE_AT : Fld := ⟨0xF0000, 0, 8⟩
/-- Address of WDN_CFG. -/
abbrev Reg.WDN_CFG.addr : Nat := 0xF0000
abbrev Reg.WDN_CYCLE.CYCLE_LIMIT : Fld := ⟨0xF0004, 16, 16⟩
abbrev Reg.WDN_CYCLE.EYE_MIN : Fld := ⟨0xF0004, 0, 8⟩
/-- Address of WDN_CYCLE. -/
abbrev Reg.WDN_CYCLE.addr : Nat := 0xF0004
abbrev Reg.WDN_STATUS.LATE : Fld := ⟨0xF0008, 31, 1⟩
abbrev Reg.WDN_STATUS.FORCED : Fld := ⟨0xF0008, 30, 1⟩
abbrev Reg.WDN_STATUS.PROGRESS : Fld := ⟨0xF0008, 16, 10⟩
abbrev Reg.WDN_STATUS.ELAPSED : Fld := ⟨0xF0008, 0, 16⟩
/-- Address of WDN_STATUS. -/
abbrev Reg.WDN_STATUS.addr : Nat := 0xF0008
abbrev Reg.WDN_LAST.DURATION : Fld := ⟨0xF000C, 0, 16⟩
/-- Address of WDN_LAST. -/
abbrev Reg.WDN_LAST.addr : Nat := 0xF000C
abbrev Reg.TLY_CTRL.CMD : Fld := ⟨0x20000, 28, 4⟩
abbrev Reg.TLY_CTRL.SNAP_PM : Fld := ⟨0x20000, 27, 1⟩
abbrev Reg.TLY_CTRL.PM_REC : Fld := ⟨0x20000, 16, 11⟩
abbrev Reg.TLY_CTRL.SNAP_MS : Fld := ⟨0x20000, 0, 16⟩
/-- Address of TLY_CTRL. -/
abbrev Reg.TLY_CTRL.addr : Nat := 0x20000
abbrev Reg.TLY_STATUS.BUSY : Fld := ⟨0x20004, 31, 1⟩
abbrev Reg.TLY_STATUS.BANK : Fld := ⟨0x20004, 30, 1⟩
abbrev Reg.TLY_STATUS.PM_EVENT : Fld := ⟨0x20004, 29, 1⟩
abbrev Reg.TLY_STATUS.LOG_NEXT : Fld := ⟨0x20004, 0, 10⟩
/-- Address of TLY_STATUS. -/
abbrev Reg.TLY_STATUS.addr : Nat := 0x20004
abbrev Reg.TLY_USER_LO.COUNTER_USER_EN : Fld := ⟨0x20010, 0, 32⟩
/-- Address of TLY_USER_LO. -/
abbrev Reg.TLY_USER_LO.addr : Nat := 0x20010
abbrev Reg.TLY_USER_HI.COUNTER_USER_EN : Fld := ⟨0x20014, 0, 1⟩
/-- Address of TLY_USER_HI. -/
abbrev Reg.TLY_USER_HI.addr : Nat := 0x20014
abbrev Reg.TLY_PM_CTRL.EN : Fld := ⟨0x20018, 31, 1⟩
abbrev Reg.TLY_PM_CTRL.PM_REC_HI : Fld := ⟨0x20018, 27, 4⟩
abbrev Reg.TLY_PM_CTRL.PORT_DS_FRAC : Fld := ⟨0x20018, 8, 8⟩
abbrev Reg.TLY_PM_CTRL.DS_PERIOD : Fld := ⟨0x20018, 0, 8⟩
/-- Address of TLY_PM_CTRL. -/
abbrev Reg.TLY_PM_CTRL.addr : Nat := 0x20018
abbrev Reg.TLY_PM_THR.UAS_THR : Fld := ⟨0x2001C, 20, 10⟩
abbrev Reg.TLY_PM_THR.SES_THR : Fld := ⟨0x2001C, 10, 10⟩
abbrev Reg.TLY_PM_THR.ES_THR : Fld := ⟨0x2001C, 0, 10⟩
/-- Address of TLY_PM_THR. -/
abbrev Reg.TLY_PM_THR.addr : Nat := 0x2001C
abbrev Reg.TLY_EXPORT.HOST_EN : Fld := ⟨0x20020, 31, 1⟩
abbrev Reg.TLY_EXPORT.NET_EN : Fld := ⟨0x20020, 30, 1⟩
abbrev Reg.TLY_EXPORT.CLASS : Fld := ⟨0x20020, 27, 3⟩
abbrev Reg.TLY_EXPORT.ENTRIES : Fld := ⟨0x20020, 13, 11⟩
abbrev Reg.TLY_EXPORT.QUEUE : Fld := ⟨0x20020, 0, 13⟩
/-- Address of TLY_EXPORT. -/
abbrev Reg.TLY_EXPORT.addr : Nat := 0x20020
abbrev Reg.TLY_TEMPLATE.V (k : Nat) : Fld := ⟨0x20100 + k * 0x4, 0, 32⟩
/-- Address of TLY_TEMPLATE. -/
abbrev Reg.TLY_TEMPLATE.addr (k : Nat) : Nat := 0x20100 + k * 0x4
abbrev Reg.TLY_TEMPLATE_CFG.IPV6 : Fld := ⟨0x20160, 8, 1⟩
abbrev Reg.TLY_TEMPLATE_CFG.TEMPLATE_LEN : Fld := ⟨0x20160, 0, 7⟩
/-- Address of TLY_TEMPLATE_CFG. -/
abbrev Reg.TLY_TEMPLATE_CFG.addr : Nat := 0x20160
abbrev Reg.GLB_STRAPS.MXP : Fld := ⟨0x10, 0, 16⟩
/-- Address of GLB_STRAPS. -/
abbrev Reg.GLB_STRAPS.addr : Nat := 0x10
abbrev Reg.GLB_RESET.WARM : Fld := ⟨0x14, 31, 1⟩
abbrev Reg.GLB_RESET.KEY : Fld := ⟨0x14, 0, 8⟩
/-- Address of GLB_RESET. -/
abbrev Reg.GLB_RESET.addr : Nat := 0x14
abbrev Reg.BOOT_STATUS.STAGE : Fld := ⟨0x40000, 30, 2⟩
abbrev Reg.BOOT_STATUS.BUSY : Fld := ⟨0x40000, 29, 1⟩
abbrev Reg.BOOT_STATUS.CODE : Fld := ⟨0x40000, 25, 4⟩
/-- Address of BOOT_STATUS. -/
abbrev Reg.BOOT_STATUS.addr : Nat := 0x40000
abbrev Reg.BOOT_CFG.S2_DEADLINE : Fld := ⟨0x40004, 20, 12⟩
abbrev Reg.BOOT_CFG.S2_MIN : Fld := ⟨0x40004, 12, 8⟩
abbrev Reg.BOOT_CFG.S2_CTL : Fld := ⟨0x40004, 0, 12⟩
/-- Address of BOOT_CFG. -/
abbrev Reg.BOOT_CFG.addr : Nat := 0x40004
abbrev Reg.BOOT_CMD.OP : Fld := ⟨0x40008, 28, 4⟩
abbrev Reg.BOOT_CMD.SECTOR : Fld := ⟨0x40008, 0, 17⟩
/-- Address of BOOT_CMD. -/
abbrev Reg.BOOT_CMD.addr : Nat := 0x40008
abbrev Reg.BOOT_IMAGE.BANK : Fld := ⟨0x4000C, 30, 2⟩
abbrev Reg.BOOT_IMAGE.SVN : Fld := ⟨0x4000C, 16, 8⟩
abbrev Reg.BOOT_IMAGE.FLOOR : Fld := ⟨0x4000C, 8, 8⟩
abbrev Reg.BOOT_IMAGE.GEN_LO : Fld := ⟨0x4000C, 0, 8⟩
/-- Address of BOOT_IMAGE. -/
abbrev Reg.BOOT_IMAGE.addr : Nat := 0x4000C
abbrev Reg.BOOT_LAST.BANK : Fld := ⟨0x40010, 30, 2⟩
abbrev Reg.BOOT_LAST.REACHED_S3 : Fld := ⟨0x40010, 29, 1⟩
/-- Address of BOOT_LAST. -/
abbrev Reg.BOOT_LAST.addr : Nat := 0x40010
abbrev Reg.BOOT_PRESENT_LO.TX : Fld := ⟨0x40014, 0, 32⟩
/-- Address of BOOT_PRESENT_LO. -/
abbrev Reg.BOOT_PRESENT_LO.addr : Nat := 0x40014
abbrev Reg.BOOT_PRESENT_HI.TX : Fld := ⟨0x40018, 0, 32⟩
/-- Address of BOOT_PRESENT_HI. -/
abbrev Reg.BOOT_PRESENT_HI.addr : Nat := 0x40018
abbrev Reg.BOOT_MXP_OUT.LED : Fld := ⟨0x4001C, 0, 8⟩
/-- Address of BOOT_MXP_OUT. -/
abbrev Reg.BOOT_MXP_OUT.addr : Nat := 0x4001C
abbrev Reg.STW_FW_CTRL.VALIDATE : Fld := ⟨0x40020, 31, 1⟩
abbrev Reg.STW_FW_CTRL.SWITCH : Fld := ⟨0x40020, 30, 1⟩
abbrev Reg.STW_FW_CTRL.COVER : Fld := ⟨0x40020, 29, 1⟩
/-- Address of STW_FW_CTRL. -/
abbrev Reg.STW_FW_CTRL.addr : Nat := 0x40020
abbrev Reg.STW_FW_STATUS.RUNNING : Fld := ⟨0x40024, 31, 1⟩
abbrev Reg.STW_FW_STATUS.RESULT : Fld := ⟨0x40024, 29, 2⟩
abbrev Reg.STW_FW_STATUS.READY : Fld := ⟨0x40024, 28, 1⟩
/-- Address of STW_FW_STATUS. -/
abbrev Reg.STW_FW_STATUS.addr : Nat := 0x40024
abbrev Reg.GLB_ID.VENDOR : Fld := ⟨0x0, 16, 16⟩
abbrev Reg.GLB_ID.DEVICE : Fld := ⟨0x0, 0, 16⟩
/-- Address of GLB_ID. -/
abbrev Reg.GLB_ID.addr : Nat := 0x0
abbrev Reg.GLB_REV.PART : Fld := ⟨0x4, 16, 16⟩
abbrev Reg.GLB_REV.ORDER : Fld := ⟨0x4, 8, 1⟩
abbrev Reg.GLB_REV.REV : Fld := ⟨0x4, 0, 8⟩
/-- Address of GLB_REV. -/
abbrev Reg.GLB_REV.addr : Nat := 0x4
abbrev Reg.GLB_SERIAL_LO.SERIAL : Fld := ⟨0x8, 0, 32⟩
/-- Address of GLB_SERIAL_LO. -/
abbrev Reg.GLB_SERIAL_LO.addr : Nat := 0x8
abbrev Reg.GLB_SERIAL_HI.SERIAL : Fld := ⟨0xC, 0, 32⟩
/-- Address of GLB_SERIAL_HI. -/
abbrev Reg.GLB_SERIAL_HI.addr : Nat := 0xC
abbrev Reg.WIN_INDEX.INDEX (w : Nat) : Fld := ⟨0x800000 + w * 0x1000, 0, 21⟩
/-- Address of WIN_INDEX. -/
abbrev Reg.WIN_INDEX.addr (w : Nat) : Nat := 0x800000 + w * 0x1000
abbrev Reg.WIN_CMD.OP (w : Nat) : Fld := ⟨0x800004 + w * 0x1000, 30, 2⟩
abbrev Reg.WIN_CMD.FIRST (w : Nat) : Fld := ⟨0x800004 + w * 0x1000, 8, 5⟩
abbrev Reg.WIN_CMD.COUNT (w : Nat) : Fld := ⟨0x800004 + w * 0x1000, 0, 6⟩
/-- Address of WIN_CMD. -/
abbrev Reg.WIN_CMD.addr (w : Nat) : Nat := 0x800004 + w * 0x1000
abbrev Reg.WIN_STATUS.BUSY (w : Nat) : Fld := ⟨0x800008 + w * 0x1000, 31, 1⟩
abbrev Reg.WIN_STATUS.CODE (w : Nat) : Fld := ⟨0x800008 + w * 0x1000, 28, 3⟩
/-- Address of WIN_STATUS. -/
abbrev Reg.WIN_STATUS.addr (w : Nat) : Nat := 0x800008 + w * 0x1000
abbrev Reg.WIN_DATA.V (w k : Nat) : Fld := ⟨0x800080 + w * 0x1000 + k * 4, 0, 32⟩
/-- Address of WIN_DATA. -/
abbrev Reg.WIN_DATA.addr (w k : Nat) : Nat := 0x800080 + w * 0x1000 + k * 4
abbrev Reg.RING_BASE_LO.BASE_LO (k : Nat) : Fld := ⟨0x71000 + k * 0x40, 0, 32⟩
/-- Address of RING_BASE_LO. -/
abbrev Reg.RING_BASE_LO.addr (k : Nat) : Nat := 0x71000 + k * 0x40
abbrev Reg.RING_BASE_HI.BASE_HI (k : Nat) : Fld := ⟨0x71004 + k * 0x40, 0, 32⟩
/-- Address of RING_BASE_HI. -/
abbrev Reg.RING_BASE_HI.addr (k : Nat) : Nat := 0x71004 + k * 0x40
abbrev Reg.RING_CFG.EN (k : Nat) : Fld := ⟨0x71008 + k * 0x40, 31, 1⟩
abbrev Reg.RING_CFG.SIZE (k : Nat) : Fld := ⟨0x71008 + k * 0x40, 27, 4⟩
abbrev Reg.RING_CFG.VEC (k : Nat) : Fld := ⟨0x71008 + k * 0x40, 21, 6⟩
abbrev Reg.RING_CFG.COAL_PKTS (k : Nat) : Fld := ⟨0x71008 + k * 0x40, 8, 8⟩
abbrev Reg.RING_CFG.COAL_US (k : Nat) : Fld := ⟨0x71008 + k * 0x40, 0, 8⟩
/-- Address of RING_CFG. -/
abbrev Reg.RING_CFG.addr (k : Nat) : Nat := 0x71008 + k * 0x40
abbrev Reg.RING_HEAD.HEAD (k : Nat) : Fld := ⟨0x7100C + k * 0x40, 0, 16⟩
/-- Address of RING_HEAD. -/
abbrev Reg.RING_HEAD.addr (k : Nat) : Nat := 0x7100C + k * 0x40
abbrev Reg.RING_TAIL.TAIL (k : Nat) : Fld := ⟨0x71010 + k * 0x40, 0, 16⟩
/-- Address of RING_TAIL. -/
abbrev Reg.RING_TAIL.addr (k : Nat) : Nat := 0x71010 + k * 0x40
abbrev Reg.RING_STATUS.STOPPED (k : Nat) : Fld := ⟨0x71014 + k * 0x40, 31, 1⟩
abbrev Reg.RING_STATUS.PHASE (k : Nat) : Fld := ⟨0x71014 + k * 0x40, 30, 1⟩
abbrev Reg.RING_STATUS.DMA_ERR (k : Nat) : Fld := ⟨0x71014 + k * 0x40, 29, 1⟩
/-- Address of RING_STATUS. -/
abbrev Reg.RING_STATUS.addr (k : Nat) : Nat := 0x71014 + k * 0x40
abbrev Reg.RING_HEADWB_LO.V (k : Nat) : Fld := ⟨0x71018 + k * 0x40, 0, 32⟩
/-- Address of RING_HEADWB_LO. -/
abbrev Reg.RING_HEADWB_LO.addr (k : Nat) : Nat := 0x71018 + k * 0x40
abbrev Reg.RING_HEADWB_HI.V (k : Nat) : Fld := ⟨0x7101C + k * 0x40, 0, 32⟩
/-- Address of RING_HEADWB_HI. -/
abbrev Reg.RING_HEADWB_HI.addr (k : Nat) : Nat := 0x7101C + k * 0x40
abbrev Reg.HST_LINK.UP : Fld := ⟨0x70000, 31, 1⟩
abbrev Reg.HST_LINK.FLIT : Fld := ⟨0x70000, 30, 1⟩
abbrev Reg.HST_LINK.RATE : Fld := ⟨0x70000, 27, 3⟩
abbrev Reg.HST_LINK.WIDTH : Fld := ⟨0x70000, 22, 5⟩
/-- Address of HST_LINK. -/
abbrev Reg.HST_LINK.addr : Nat := 0x70000
abbrev Reg.HST_PORT_CFG.DISABLE : Fld := ⟨0x70004, 31, 1⟩
abbrev Reg.HST_PORT_CFG.MAX_RATE : Fld := ⟨0x70004, 28, 3⟩
/-- Address of HST_PORT_CFG. -/
abbrev Reg.HST_PORT_CFG.addr : Nat := 0x70004
abbrev Reg.HST_WP.WP : Fld := ⟨0x70010, 1, 22⟩
/-- Address of HST_WP. -/
abbrev Reg.HST_WP.addr : Nat := 0x70010
abbrev Reg.HST_REARM.REARM : Fld := ⟨0x70014, 0, 32⟩
/-- Address of HST_REARM. -/
abbrev Reg.HST_REARM.addr : Nat := 0x70014
abbrev Reg.HST_VF_PORTS.PORTS (k : Nat) : Fld := ⟨0x70104 + (k - 1) * 0x4, 0, 32⟩
/-- Address of HST_VF_PORTS. -/
abbrev Reg.HST_VF_PORTS.addr (k : Nat) : Nat := 0x70104 + (k - 1) * 0x4
abbrev Reg.HST_EXC_MAP.V (k : Nat) : Fld := ⟨0x70200 + k * 0x4, 0, 32⟩
/-- Address of HST_EXC_MAP. -/
abbrev Reg.HST_EXC_MAP.addr (k : Nat) : Nat := 0x70200 + k * 0x4
abbrev Reg.HST_DENIED_LAST_W0.VALID : Fld := ⟨0x70020, 31, 1⟩
abbrev Reg.HST_DENIED_LAST_W0.REASON : Fld := ⟨0x70020, 28, 3⟩
abbrev Reg.HST_DENIED_LAST_W0.FUNCTION : Fld := ⟨0x70020, 22, 6⟩
/-- Address of HST_DENIED_LAST_W0. -/
abbrev Reg.HST_DENIED_LAST_W0.addr : Nat := 0x70020
abbrev Reg.HST_DENIED_LAST_W1.ADDR : Fld := ⟨0x70024, 0, 32⟩
/-- Address of HST_DENIED_LAST_W1. -/
abbrev Reg.HST_DENIED_LAST_W1.addr : Nat := 0x70024
abbrev Reg.HST_DENIED_LAST_W2.WINDOW : Fld := ⟨0x70028, 0, 24⟩
/-- Address of HST_DENIED_LAST_W2. -/
abbrev Reg.HST_DENIED_LAST_W2.addr : Nat := 0x70028
abbrev Reg.HST_BOOT_HWIN.PAGE : Fld := ⟨0x70040, 0, 2⟩
/-- Address of HST_BOOT_HWIN. -/
abbrev Reg.HST_BOOT_HWIN.addr : Nat := 0x70040
abbrev Reg.BLOCK_LOCK.OPEN (base : Nat) : Fld := ⟨base, 31, 1⟩
abbrev Reg.BLOCK_LOCK.SEALED (base : Nat) : Fld := ⟨base, 30, 1⟩
abbrev Reg.BLOCK_LOCK.OP (base : Nat) : Fld := ⟨base, 28, 2⟩
abbrev Reg.BLOCK_LOCK.KEY (base : Nat) : Fld := ⟨base, 0, 16⟩

/-! Addresses of the 48-bit counters in the format of R64 (low word; the high word lies 4 above). -/

abbrev Cnt.PT_DS_FRAMES (n sd : Nat) : Nat := 0x100000 + n * 0x10000 + 0x800 + sd * 0x100 + 0x0
abbrev Cnt.PT_DS_IDLE_XGEM (n sd : Nat) : Nat := 0x100000 + n * 0x10000 + 0x800 + sd * 0x100 + 0x8
abbrev Cnt.PT_MAP_LATE (n sd : Nat) : Nat := 0x100000 + n * 0x10000 + 0x800 + sd * 0x100 + 0x10
abbrev Cnt.PT_MAP_DISCARDED (n sd : Nat) : Nat := 0x100000 + n * 0x10000 + 0x800 + sd * 0x100 + 0x18
abbrev Cnt.PT_BURSTS_GRANTED (n sd : Nat) : Nat := 0x100000 + n * 0x10000 + 0x800 + sd * 0x100 + 0x20
abbrev Cnt.PT_BURSTS_RECEIVED (n sd : Nat) : Nat := 0x100000 + n * 0x10000 + 0x800 + sd * 0x100 + 0x28
abbrev Cnt.PT_BURSTS_MISSED (n sd : Nat) : Nat := 0x100000 + n * 0x10000 + 0x800 + sd * 0x100 + 0x30
abbrev Cnt.PT_FEC_CW (n sd : Nat) : Nat := 0x100000 + n * 0x10000 + 0x800 + sd * 0x100 + 0x38
abbrev Cnt.PT_FEC_CW_CORRECTED (n sd : Nat) : Nat := 0x100000 + n * 0x10000 + 0x800 + sd * 0x100 + 0x40
abbrev Cnt.PT_FEC_CW_UNCORR (n sd : Nat) : Nat := 0x100000 + n * 0x10000 + 0x800 + sd * 0x100 + 0x48
abbrev Cnt.PT_HDR_HEC_ERR (n sd : Nat) : Nat := 0x100000 + n * 0x10000 + 0x800 + sd * 0x100 + 0x50
abbrev Cnt.PT_XGEM_HEC_ERR (n sd : Nat) : Nat := 0x100000 + n * 0x10000 + 0x800 + sd * 0x100 + 0x58
abbrev Cnt.PT_BIP_ERR (n sd : Nat) : Nat := 0x100000 + n * 0x10000 + 0x800 + sd * 0x100 + 0x60
abbrev Cnt.PT_STRAY_WINDOW (n sd : Nat) : Nat := 0x100000 + n * 0x10000 + 0x800 + sd * 0x100 + 0x68
abbrev Cnt.PT_STRAY_UNSCHED (n sd : Nat) : Nat := 0x100000 + n * 0x10000 + 0x800 + sd * 0x100 + 0x70
abbrev Cnt.PT_PRESET_HIT (n sd : Nat) : Nat := 0x100000 + n * 0x10000 + 0x800 + sd * 0x100 + 0x78
abbrev Cnt.PT_PRESET_MISS (n sd : Nat) : Nat := 0x100000 + n * 0x10000 + 0x800 + sd * 0x100 + 0x80
abbrev Cnt.PT_PSYNC_FALSE (n sd : Nat) : Nat := 0x100000 + n * 0x10000 + 0x800 + sd * 0x100 + 0x88
abbrev Cnt.PT_PSYNC_OVERFLOW (n sd : Nat) : Nat := 0x100000 + n * 0x10000 + 0x800 + sd * 0x100 + 0x90
abbrev Cnt.PT_SYNC_LOST (n sd : Nat) : Nat := 0x100000 + n * 0x10000 + 0x800 + sd * 0x100 + 0x98
abbrev Cnt.ACT_DISC_WINDOWS (n sd : Nat) : Nat := 0x100000 + n * 0x10000 + 0xA00 + sd * 0x100 + 0x0
abbrev Cnt.ACT_SN_CLEAN (n sd : Nat) : Nat := 0x100000 + n * 0x10000 + 0xA00 + sd * 0x100 + 0x8
abbrev Cnt.ACT_SN_COLLIDED (n sd : Nat) : Nat := 0x100000 + n * 0x10000 + 0xA00 + sd * 0x100 + 0x10
abbrev Cnt.ACT_SN_DEFERRED (n sd : Nat) : Nat := 0x100000 + n * 0x10000 + 0xA00 + sd * 0x100 + 0x18
abbrev Cnt.ACT_SN_NO_SLOT (n sd : Nat) : Nat := 0x100000 + n * 0x10000 + 0xA00 + sd * 0x100 + 0x20
abbrev Cnt.ACT_SN_UNAUTH (n sd : Nat) : Nat := 0x100000 + n * 0x10000 + 0xA00 + sd * 0x100 + 0x28
abbrev Cnt.ACT_SN_DUP (n sd : Nat) : Nat := 0x100000 + n * 0x10000 + 0xA00 + sd * 0x100 + 0x30
abbrev Cnt.ACT_SN_OUTSIDE (n sd : Nat) : Nat := 0x100000 + n * 0x10000 + 0xA00 + sd * 0x100 + 0x38
abbrev Cnt.ACT_RANGE_OK (n sd : Nat) : Nat := 0x100000 + n * 0x10000 + 0xA00 + sd * 0x100 + 0x40
abbrev Cnt.ACT_RANGE_NO_RESP (n sd : Nat) : Nat := 0x100000 + n * 0x10000 + 0xA00 + sd * 0x100 + 0x48
abbrev Cnt.ACT_EQD_TRIMS (n sd : Nat) : Nat := 0x100000 + n * 0x10000 + 0xA00 + sd * 0x100 + 0x50
abbrev Cnt.ACT_LOB_EVENTS (n sd : Nat) : Nat := 0x100000 + n * 0x10000 + 0xA00 + sd * 0x100 + 0x58
abbrev Cnt.ACT_LOST_RECOVERED (n sd : Nat) : Nat := 0x100000 + n * 0x10000 + 0xA00 + sd * 0x100 + 0x60
abbrev Cnt.ACT_DEACTIVATIONS (n sd : Nat) : Nat := 0x100000 + n * 0x10000 + 0xA00 + sd * 0x100 + 0x68
abbrev Cnt.ACT_PLOAM_NO_ACK (n sd : Nat) : Nat := 0x100000 + n * 0x10000 + 0xA00 + sd * 0x100 + 0x70
abbrev Cnt.ACT_ROGUE_CANDIDATES (n sd : Nat) : Nat := 0x100000 + n * 0x10000 + 0xA00 + sd * 0x100 + 0x78
abbrev Cnt.WHF_MAPS_BUILT (n sd : Nat) : Nat := 0x301000 + n * 0x200 + sd * 0x100 + 0x0
abbrev Cnt.WHF_STRUCTS (n sd : Nat) : Nat := 0x301000 + n * 0x200 + sd * 0x100 + 0x8
abbrev Cnt.WHF_GRANT_BYTES (n sd : Nat) : Nat := 0x301000 + n * 0x200 + sd * 0x100 + 0x10
abbrev Cnt.WHF_CARRIED_BYTES (n sd : Nat) : Nat := 0x301000 + n * 0x200 + sd * 0x100 + 0x18
abbrev Cnt.WHF_STRUCT_FULL (n sd : Nat) : Nat := 0x301000 + n * 0x200 + sd * 0x100 + 0x20
abbrev Cnt.WHF_POLL_GRANTS (n sd : Nat) : Nat := 0x301000 + n * 0x200 + sd * 0x100 + 0x28
abbrev Cnt.WHF_SPLITS (n sd : Nat) : Nat := 0x301000 + n * 0x200 + sd * 0x100 + 0x30
abbrev Cnt.WHF_SHORTENED (n sd : Nat) : Nat := 0x301000 + n * 0x200 + sd * 0x100 + 0x38
abbrev Cnt.WHF_CTI_RECORDS (n sd : Nat) : Nat := 0x301000 + n * 0x200 + sd * 0x100 + 0x40
abbrev Cnt.WHF_CTI_LATE (n sd : Nat) : Nat := 0x301000 + n * 0x200 + sd * 0x100 + 0x48
abbrev Cnt.WHF_CTI_DROPPED (n sd : Nat) : Nat := 0x301000 + n * 0x200 + sd * 0x100 + 0x50
abbrev Cnt.WHF_CAP_CUT_BYTES (n sd : Nat) : Nat := 0x301000 + n * 0x200 + sd * 0x100 + 0xA8
abbrev Cnt.WHF_PKT_UNDER (n sd : Nat) : Nat := 0x301000 + n * 0x200 + sd * 0x100 + 0xB0
abbrev Cnt.WHF_REPAIR (n sd code : Nat) : Nat := 0x301000 + n * 0x200 + sd * 0x100 + 0x58 + (code - 1) * 8
abbrev Cnt.XPR_PKTS_IN (src : Nat) : Nat := 0xC4000 + src * 0x80 + 0x0
abbrev Cnt.XPR_EXPRESS (src : Nat) : Nat := 0xC4000 + src * 0x80 + 0x8
abbrev Cnt.XPR_ENGINE (src : Nat) : Nat := 0xC4000 + src * 0x80 + 0x10
abbrev Cnt.XPR_OVERSIZE (src : Nat) : Nat := 0xC4000 + src * 0x80 + 0x18
abbrev Cnt.XPR_ADM_DROP (src c : Nat) : Nat := 0xC4000 + src * 0x80 + 0x20 + c * 8
abbrev Cnt.SRT_DISPATCHED : Nat := 0xB0000 + 0x1000
abbrev Cnt.SRT_RECIRCULATED : Nat := 0xB0000 + 0x1008
abbrev Cnt.SRT_FULL_DROP : Nat := 0xB0000 + 0x1010
abbrev Cnt.SRT_SEQ_SKIP : Nat := 0xB0000 + 0x1018
abbrev Cnt.SRT_SEQ_LATE_DROP : Nat := 0xB0000 + 0x1020
abbrev Cnt.SRT_EXC_NO_HOST : Nat := 0xB0000 + 0x1028
abbrev Cnt.SRT_EXC_SENT (r : Nat) : Nat := 0xB1100 + r * 0x10
abbrev Cnt.SRT_EXC_DROPPED (r : Nat) : Nat := 0xB1108 + r * 0x10
abbrev Cnt.GLD_PASSES (g : Nat) : Nat := 0x400800 + g * 0x10000 + 0x0
abbrev Cnt.GLD_SLOTS (g : Nat) : Nat := 0x400800 + g * 0x10000 + 0x8
abbrev Cnt.GLD_LOOKUPS (g : Nat) : Nat := 0x400800 + g * 0x10000 + 0x10
abbrev Cnt.GLD_TRAPS (g : Nat) : Nat := 0x400800 + g * 0x10000 + 0x18
abbrev Cnt.GLD_REPLAYED (g : Nat) : Nat := 0x400800 + g * 0x10000 + 0x20
abbrev Cnt.GLD_REPLAY_DROP (g : Nat) : Nat := 0x400800 + g * 0x10000 + 0x28
abbrev Cnt.GLD_DEFERRED (g : Nat) : Nat := 0x400800 + g * 0x10000 + 0x30
abbrev Cnt.GLD_IMM_ATOMICS (g : Nat) : Nat := 0x400800 + g * 0x10000 + 0x38
abbrev Cnt.GLD_CODE_CORR (g : Nat) : Nat := 0x400800 + g * 0x10000 + 0x40
abbrev Cnt.LDG_LOOKUPS (p : Nat) : Nat := 0xD2000 + p * 0x40 + 0x0
abbrev Cnt.LDG_HITS (p : Nat) : Nat := 0xD2000 + p * 0x40 + 0x8
abbrev Cnt.LDG_MISSES (p : Nat) : Nat := 0xD2000 + p * 0x40 + 0x10
abbrev Cnt.LDG_DEFAULTS (p : Nat) : Nat := 0xD2000 + p * 0x40 + 0x18
abbrev Cnt.LDG_TIES (p : Nat) : Nat := 0xD2000 + p * 0x40 + 0x20
abbrev Cnt.LDG_BANKS_SEARCHED (p : Nat) : Nat := 0xD2000 + p * 0x40 + 0x28
abbrev Cnt.LDG_INSERTS : Nat := 0xD3000
abbrev Cnt.LDG_DELETES : Nat := 0xD3008
abbrev Cnt.LDG_MOVES : Nat := 0xD3010
abbrev Cnt.LDG_RESPREAD_MOVES : Nat := 0xD3018
abbrev Cnt.LDG_SCRUB_FIXES : Nat := 0xD3020
abbrev Cnt.LDG_CMD_REFUSED : Nat := 0xD3028
abbrev Cnt.LDG_SWEEPS : Nat := 0xD3030
abbrev Cnt.EXM_ADDS : Nat := 0xE3000
abbrev Cnt.EXM_DISPLACEMENTS : Nat := 0xE3008
abbrev Cnt.EXM_STASH_ADDS : Nat := 0xE3010
abbrev Cnt.EXM_STASH_DRAINED : Nat := 0xE3018
abbrev Cnt.EXM_ECC_CORR : Nat := 0xE3020
abbrev Cnt.CPG_REPL_COPIES : Nat := 0x91300
abbrev Cnt.CPG_REPL_NOBUF : Nat := 0x91308
abbrev Cnt.CPG_REPL_EMPTY : Nat := 0x91310
abbrev Cnt.CPG_SPILL_PKTS : Nat := 0x91318
abbrev Cnt.CPG_REFILL_PKTS : Nat := 0x91320
abbrev Cnt.CPG_REFILL_STALL : Nat := 0x91328
abbrev Cnt.CPG_CELLAR_BUSY_DROP : Nat := 0x91330
abbrev Cnt.CPG_CELLAR_FULL_DROP : Nat := 0x91338
abbrev Cnt.CPG_CELLAR_ERR_DROP : Nat := 0x91340
abbrev Cnt.CPG_SPILL_OFF_DROP : Nat := 0x91348
abbrev Cnt.SCH_ENQ_OVERSIZE : Nat := 0xA1000
abbrev Cnt.SCH_POLICE_DROP : Nat := 0xA1008
abbrev Cnt.SCH_NODE_DOWN : Nat := 0xA1010
abbrev Cnt.SCH_TAIL_DROP : Nat := 0xA1018
abbrev Cnt.SCH_YELLOW_DROP : Nat := 0xA1020
abbrev Cnt.SCH_FLUSHED : Nat := 0xA1028
abbrev Cnt.SCH_POLICE_YELLOW : Nat := 0xA1030
abbrev Cnt.SCH_POLICE_RED : Nat := 0xA1038
abbrev Cnt.SCH_BUCKET_MISUSE : Nat := 0xA1040
abbrev Cnt.FLT_MESSAGES : Nat := 0x13000
abbrev Cnt.FLT_MSGS_LOST : Nat := 0x13008
abbrev Cnt.FLT_CLEAR_REFUSED : Nat := 0x13010
abbrev Cnt.FLT_ISO_ACTIONS : Nat := 0x13018
abbrev Cnt.FLT_ISO_REPEAT : Nat := 0x13020
abbrev Cnt.FLT_SAFE_ENTRIES : Nat := 0x13028
abbrev Cnt.WDN_CYCLES : Nat := 0xF1000
abbrev Cnt.WDN_GOLDEN_PASSES : Nat := 0xF1008
abbrev Cnt.WDN_GOLDEN_INCONCLUSIVE : Nat := 0xF1010
abbrev Cnt.WDN_SRAM_WORDS : Nat := 0xF1018
abbrev Cnt.WDN_TCAM_ROWS : Nat := 0xF1020
abbrev Cnt.WDN_LEAKS : Nat := 0xF1028
abbrev Cnt.WDN_EYE_SCANS : Nat := 0xF1030
abbrev Cnt.CPG_ALLOCS (pool : Nat) : Nat := 0x91000 + pool * 0x40 + 0x0
abbrev Cnt.CPG_FALLBACK (pool : Nat) : Nat := 0x91000 + pool * 0x40 + 0x8
abbrev Cnt.CPG_DOUBLE_FREE (pool : Nat) : Nat := 0x91000 + pool * 0x40 + 0x10
abbrev Cnt.CPG_NOBUF_DROP (c : Nat) : Nat := 0x91200 + c * 8
abbrev Cnt.KEY_DS_BLOCKS : Nat := 0x81000 + 0x0
abbrev Cnt.KEY_US_BLOCKS : Nat := 0x81000 + 0x8
abbrev Cnt.KEY_KEY_MISSING : Nat := 0x81000 + 0x10
abbrev Cnt.KEY_KEY_HOLD_DROP : Nat := 0x81000 + 0x18
abbrev Cnt.KEY_MIC_FAIL_PLOAM : Nat := 0x81000 + 0x20
abbrev Cnt.KEY_MIC_FAIL_OMCI : Nat := 0x81000 + 0x28
abbrev Cnt.KEY_CACHE_HIT : Nat := 0x81000 + 0x30
abbrev Cnt.KEY_CACHE_MISS : Nat := 0x81000 + 0x38
abbrev Cnt.KEY_ROTATIONS : Nat := 0x81000 + 0x40
abbrev Cnt.KEY_GCM_SESSIONS : Nat := 0x81000 + 0x48
abbrev Cnt.KEY_TAG_FAIL : Nat := 0x81000 + 0x50
abbrev Cnt.KEY_TAG_FAIL_CT : Nat := 0x81000 + 0x58
abbrev Cnt.KEY_TAG_LATE_CT : Nat := 0x81000 + 0x60
abbrev Cnt.KEY_LEN_ERR : Nat := 0x81000 + 0x68
abbrev Cnt.KEY_ERASURES : Nat := 0x81000 + 0x70
abbrev Cnt.TWN_HB_RX : Nat := 0x51000 + 0x0
abbrev Cnt.TWN_HB_LOSS : Nat := 0x51000 + 0x8
abbrev Cnt.TWN_MIRROR_MSGS : Nat := 0x51000 + 0x10
abbrev Cnt.TWN_MIRROR_GAPS : Nat := 0x51000 + 0x18
abbrev Cnt.TWN_TAKEOVERS : Nat := 0x51000 + 0x20
abbrev Cnt.TWN_COLD_TAKEOVERS : Nat := 0x51000 + 0x28
abbrev Cnt.TWN_RELEASES : Nat := 0x51000 + 0x30
abbrev Cnt.TWN_PIN_TIMEOUTS : Nat := 0x51000 + 0x38
abbrev Cnt.TWN_HELD_TRIGGERS : Nat := 0x51000 + 0x40
abbrev Cnt.TWN_DELTA_REJECT : Nat := 0x51000 + 0x48
abbrev Cnt.TWN_WIDE_EMPTY : Nat := 0x51000 + 0x50
abbrev Cnt.TWN_LOST_FRAMES : Nat := 0x51000 + 0x58
abbrev Cnt.HRL_SAMPLES (d : Nat) : Nat := 0x31000 + d * 0x20 + 0x0
abbrev Cnt.HRL_REJECTED (d : Nat) : Nat := 0x31000 + d * 0x20 + 0x8
abbrev Cnt.HRL_HOLDOVERS (d : Nat) : Nat := 0x31000 + d * 0x20 + 0x10
abbrev Cnt.HRL_PPS_EDGES (i : Nat) : Nat := 0x31000 + i * 0x18 + 0x40
abbrev Cnt.HRL_PPS_MISSED (i : Nat) : Nat := 0x31000 + i * 0x18 + 0x48
abbrev Cnt.HRL_TOD_ERR (i : Nat) : Nat := 0x31000 + i * 0x18 + 0x50
abbrev Cnt.HRL_SWITCHES : Nat := 0x31000 + 0x70
abbrev Cnt.HRL_TS_RX : Nat := 0x31000 + 0x78
abbrev Cnt.HRL_TS_TX : Nat := 0x31000 + 0x80
abbrev Cnt.HRL_TS_OVF : Nat := 0x31000 + 0x88
abbrev Cnt.HRL_TS_NODOM : Nat := 0x31000 + 0x90
abbrev Cnt.HRL_ANNOUNCES : Nat := 0x31000 + 0x98
abbrev Cnt.HRL_SQUELCHES : Nat := 0x31000 + 0xA0
abbrev Cnt.ULK_FEC_CW (n : Nat) : Nat := 0x320000 + n * 0x1000 + 0x100
abbrev Cnt.ULK_FEC_CORR (n : Nat) : Nat := 0x320000 + n * 0x1000 + 0x108
abbrev Cnt.ULK_FEC_UNCORR (n : Nat) : Nat := 0x320000 + n * 0x1000 + 0x110
abbrev Cnt.ULK_LINK_DOWNS (n : Nat) : Nat := 0x320000 + n * 0x1000 + 0x118
abbrev Cnt.PT_LT_BITS_CHECKED (n k : Nat) : Nat := 0x100C00 + n * 0x10000 + k * 0x40 + 0x8
abbrev Cnt.PT_LT_BIT_ERRORS (n k : Nat) : Nat := 0x100C00 + n * 0x10000 + k * 0x40 + 0x10
abbrev Cnt.PT_LT_INJECTED (n k : Nat) : Nat := 0x100C00 + n * 0x10000 + k * 0x40 + 0x18
abbrev Cnt.ULK_LT_BITS_CHECKED (n : Nat) : Nat := 0x320800 + n * 0x1000 + 0x8
abbrev Cnt.ULK_LT_BIT_ERRORS (n : Nat) : Nat := 0x320800 + n * 0x1000 + 0x10
abbrev Cnt.ULK_LT_INJECTED (n : Nat) : Nat := 0x320800 + n * 0x1000 + 0x18
abbrev Cnt.SHL_LT_BITS_CHECKED (k : Nat) : Nat := 0x62000 + k * 0x40 + 0x8
abbrev Cnt.SHL_LT_BIT_ERRORS (k : Nat) : Nat := 0x62000 + k * 0x40 + 0x10
abbrev Cnt.SHL_LT_INJECTED (k : Nat) : Nat := 0x62000 + k * 0x40 + 0x18
abbrev Cnt.HST_LT_BITS_CHECKED (k : Nat) : Nat := 0x78000 + k * 0x40 + 0x8
abbrev Cnt.HST_LT_BIT_ERRORS (k : Nat) : Nat := 0x78000 + k * 0x40 + 0x10
abbrev Cnt.HST_LT_INJECTED (k : Nat) : Nat := 0x78000 + k * 0x40 + 0x18
abbrev Cnt.SHL_TILES_RX (k : Nat) : Nat := 0x61000 + k * 0x80 + 0x0
abbrev Cnt.SHL_COMMA_ERR (k : Nat) : Nat := 0x61000 + k * 0x80 + 0x8
abbrev Cnt.SHL_STUFF_ERR (k : Nat) : Nat := 0x61000 + k * 0x80 + 0x10
abbrev Cnt.SHL_STUFF_BITS (k : Nat) : Nat := 0x61000 + k * 0x80 + 0x18
abbrev Cnt.SHL_MSGS_TX (k : Nat) : Nat := 0x61000 + k * 0x80 + 0x20
abbrev Cnt.SHL_MSGS_RX (k : Nat) : Nat := 0x61000 + k * 0x80 + 0x28
abbrev Cnt.SHL_CRC_ERR (k : Nat) : Nat := 0x61000 + k * 0x80 + 0x30
abbrev Cnt.SHL_MSG_LOST (k : Nat) : Nat := 0x61000 + k * 0x80 + 0x38
abbrev Cnt.SHL_CHAN_DROP (k : Nat) : Nat := 0x61000 + k * 0x80 + 0x40
abbrev Cnt.SHL_SEAL_DROP (k : Nat) : Nat := 0x61000 + k * 0x80 + 0x48
abbrev Cnt.SHL_TRAIN_FAILS (k : Nat) : Nat := 0x61000 + k * 0x80 + 0x50
abbrev Cnt.SHL_LANE_DOWNS (k : Nat) : Nat := 0x61000 + k * 0x80 + 0x58
abbrev Cnt.SHL_REVERTS (k : Nat) : Nat := 0x61000 + k * 0x80 + 0x60
abbrev Cnt.FAB_ORIGINATED : Nat := 0x61800 + 0x0
abbrev Cnt.FAB_DELIVERED : Nat := 0x61800 + 0x8
abbrev Cnt.FAB_TRANSIT : Nat := 0x61800 + 0x10
abbrev Cnt.FAB_NO_ROUTE_DROP : Nat := 0x61800 + 0x18
abbrev Cnt.FAB_TTL_DROP : Nat := 0x61800 + 0x20
abbrev Cnt.FAB_BAD_DEST_DROP : Nat := 0x61800 + 0x28
abbrev Cnt.FAB_LANE_LOST_DROP : Nat := 0x61800 + 0x30
abbrev Cnt.FAB_LSA_SENT : Nat := 0x61800 + 0x38
abbrev Cnt.FAB_LSA_KEPT : Nat := 0x61800 + 0x40
abbrev Cnt.FAB_ROUTE_CHANGES : Nat := 0x61800 + 0x48
abbrev Cnt.TLY_SNAPSHOTS : Nat := 0x21000 + 0x0
abbrev Cnt.TLY_SNAP_SKIPPED : Nat := 0x21000 + 0x8
abbrev Cnt.TLY_PM_EVENTS : Nat := 0x21000 + 0x10
abbrev Cnt.TLY_PM_EVENT_LOST : Nat := 0x21000 + 0x18
abbrev Cnt.TLY_DS_REPORTS : Nat := 0x21000 + 0x20
abbrev Cnt.TLY_DS_REPORT_MISSING : Nat := 0x21000 + 0x28
abbrev Cnt.TLY_EXPORT_FRAMES : Nat := 0x21000 + 0x30
abbrev Cnt.TLY_EXPORT_DROPPED : Nat := 0x21000 + 0x38
abbrev Cnt.BOOT_STAGE_DROP : Nat := 0x41000 + 0x0
abbrev Cnt.BOOT_BANKS_TRIED : Nat := 0x41000 + 0x8
abbrev Cnt.BOOT_LINKROOT_BAD : Nat := 0x41000 + 0x10
abbrev Cnt.BOOT_TEMPLATES_APPLIED : Nat := 0x41000 + 0x18
abbrev Cnt.BOOT_TEMPLATE_FAILS : Nat := 0x41000 + 0x20
abbrev Cnt.BOOT_STW_RESTARTS : Nat := 0x41000 + 0x28
abbrev Cnt.RING_PKTS (r : Nat) : Nat := 0x71020 + r * 0x40
abbrev Cnt.RING_DROPS (r : Nat) : Nat := 0x71028 + r * 0x40
abbrev Cnt.HST_DENIED : Nat := 0x70030

/-- One row of the register map: `count` words from `off` in the block, `stride` apart, with the reset value of the
word of index `k` and the writable bits of each access type of Table 0-3. -/
structure RegRow where
  off : Nat
  count : Nat
  stride : Nat
  reset : Nat → Word
  rw : Word
  lck : Word
  w1c : Word
  w1s : Word
  wo : Word
  ros : Word

/-- Reset value of SRT_EXC_CFG[r]: destination, burst and rate of Table 5-3; a reserved reason (0x0D to 0x1F), for
which the table gives none, has zero: DESIGN CHOICE (log entry 3). -/
def resetExc (r : Nat) : Word :=
  let d : Nat × Nat × Nat :=
    match r with
    | 1 => (1, 64, 1000) | 2 => (1, 64, 1000) | 3 => (1, 256, 8000) | 4 => (1, 256, 8000)
    | 5 => (1, 64, 500) | 6 => (1, 16, 100) | 7 => (1, 64, 1000) | 8 => (2, 128, 1000)
    | 9 => (3, 128, 4000) | 10 => (3, 128, 2000) | 11 => (1, 128, 2000) | 12 => (2, 64, 500)
    | _ => if 0x20 ≤ r ∧ r ≤ 0x3F then (1, 16, 100) else (0, 0, 0)
  BitVec.ofNat 32 (d.1 * 2 ^ 30 + d.2.1 * 2 ^ 20 + d.2.2)

/-- Reset value of CPG_POOL_CFG[k] (Table 8-6). -/
def resetPool : Nat → Word
  | 0 => 0x0400#32 | 1 => 0x0100#32 | 2 => 0x0040#32 | 3 => 0x000A#32 | _ => 0#32

/-- Reset value of EXM_SEED[k] (Table 7-16). -/
def resetSeed : Nat → Word
  | 0 => 0x3D4A91C7#32 | 1 => 0x6E250F8B#32 | 2 => 0xA1C35D29#32 | 3 => 0xF072B4E6#32 | _ => 0#32

/-- Reset value of FLT_TEMP_CFG by order code (Table 14-17, R536). -/
def resetTemp : Word :=
  match Config.order with
  | .c => BitVec.ofNat 32 (164 * 65536 + 179 * 256 + 49)
  | .x => BitVec.ofNat 32 (169 * 65536 + 184 * 256 + 9)

/-- MSI-X vector of ring r at reset (Table 17-9). -/
def ringVec (r : Nat) : Nat := if r < 33 then r + 4 else r % 2

/-- Reset value of the CFG word of ring r: SIZE 8, VEC of Table 17-9, COAL_PKTS 1 (Table 17-7). -/
def resetRingCfg (r : Nat) : Word := BitVec.ofNat 32 (8 * 2 ^ 27 + ringVec r * 2 ^ 21 + 256)

def rowsGld : List RegRow := [
  ⟨0xF00, 1, 0x4, fun _ => 0x40000000#32, 0x00000000#32, 0x00000000#32, 0x00000000#32, 0x00000000#32, 0x00000000#32, 0x00000000#32⟩,
  ⟨0x0, 1, 0x4, fun _ => 0x0800FFFF#32, 0x08000000#32, 0x0000FFFF#32, 0x00000000#32, 0x00000000#32, 0xF0000000#32, 0x00000000#32⟩,
  ⟨0x4, 1, 0x4, fun _ => 0xA0000000#32, 0x00000000#32, 0x00000000#32, 0x00000000#32, 0x00000000#32, 0x00000000#32, 0x00000000#32⟩,
  ⟨0x8, 1, 0x4, fun _ => 0x00000000#32, 0x00000000#32, 0x00000000#32, 0x00000000#32, 0x00000000#32, 0x00000000#32, 0x00000000#32⟩,
  ⟨0xC, 1, 0x4, fun _ => 0x04000400#32, 0x00000FFF#32, 0x0F000000#32, 0x00000000#32, 0x00000000#32, 0x00000000#32, 0x00000000#32⟩,
  ⟨0x10, 1, 0x4, fun _ => 0x00CC0000#32, 0x00000000#32, 0x0FFF0000#32, 0x80000000#32, 0x00000000#32, 0x00000000#32, 0x00000000#32⟩,
  ⟨0x14, 1, 0x4, fun _ => 0x00000000#32, 0x00000000#32, 0x00000000#32, 0x00000000#32, 0x00000000#32, 0x80000000#32, 0x00000000#32⟩,
  ⟨0x18, 1, 0x4, fun _ => 0x00000000#32, 0x00000000#32, 0x00000000#32, 0x00000010#32, 0x00000000#32, 0x00000000#32, 0x00000000#32⟩,
  ⟨0x100, 16, 0x10, fun _ => 0x00000000#32, 0x00000000#32, 0x00000000#32, 0x00000000#32, 0x00000000#32, 0x00000000#32, 0x00000000#32⟩,
  ⟨0x104, 16, 0x10, fun _ => 0x00000000#32, 0x00000000#32, 0x00000000#32, 0x00000000#32, 0x00000000#32, 0x00000000#32, 0x00000000#32⟩,
  ⟨0x108, 16, 0x10, fun _ => 0x00000000#32, 0x00000000#32, 0x00000000#32, 0x00000000#32, 0x00000000#32, 0x00000000#32, 0x00000000#32⟩,
  ⟨0x10C, 16, 0x10, fun _ => 0x00000000#32, 0x00000000#32, 0x00000000#32, 0x00000000#32, 0x00000000#32, 0x00000000#32, 0x00000000#32⟩
]

def rowsWhf : List RegRow := [
  ⟨0x100, 1, 0x4, fun _ => 0x03E8E640#32, 0x000000F0#32, 0x3FFFFF00#32, 0x00000000#32, 0x00000000#32, 0x00000000#32, 0x00000000#32⟩,
  ⟨0x104, 1, 0x4, fun _ => 0x00000000#32, 0x00000000#32, 0x00000000#32, 0x00000000#32, 0x00000000#32, 0x00000000#32, 0x00000000#32⟩,
  ⟨0x108, 1, 0x4, fun _ => 0x00000000#32, 0x00000000#32, 0x00000000#32, 0x00000000#32, 0x00000000#32, 0x00000000#32, 0x00000000#32⟩,
  ⟨0x0, 1, 0x4, fun _ => 0x80000000#32, 0x80000000#32, 0x40000000#32, 0x20000000#32, 0x00000000#32, 0x00000000#32, 0x00000000#32⟩,
  ⟨0x4, 1, 0x4, fun _ => 0x00000000#32, 0x00000000#32, 0x00000000#32, 0x00000000#32, 0x00000000#32, 0x00000000#32, 0x00000000#32⟩,
  ⟨0x10C, 1, 0x4, fun _ => 0x00006800#32, 0x00000000#32, 0x0000FF00#32, 0x00000000#32, 0x00000000#32, 0x00000000#32, 0x00000000#32⟩,
  ⟨0x110, 1, 0x4, fun _ => 0x00000000#32, 0x00000000#32, 0x00000000#32, 0x00000000#32, 0x00000000#32, 0x00000000#32, 0x00000000#32⟩,
  ⟨0x120, 1, 0x4, fun _ => 0x00400000#32, 0x80FF0000#32, 0x00000000#32, 0x00000000#32, 0x00000000#32, 0x00000000#32, 0x00000000#32⟩,
  ⟨0x200, 1, 0x4, fun _ => 0x40000000#32, 0x40000000#32, 0x00000000#32, 0x00000000#32, 0x80000000#32, 0x00000000#32, 0x00000000#32⟩,
  ⟨0x204, 1, 0x4, fun _ => 0x00000000#32, 0x00000000#32, 0x00000000#32, 0x00000080#32, 0x00000000#32, 0x00000000#32, 0x00000000#32⟩,
  ⟨0x400, 32, 0x8, fun _ => 0x0007A120#32, 0x000FFFFF#32, 0x00000000#32, 0x00000000#32, 0x00000000#32, 0x00000000#32, 0x00000000#32⟩,
  ⟨0x404, 32, 0x8, fun _ => 0x0001ADB0#32, 0x000FFFFF#32, 0x00000000#32, 0x00000000#32, 0x00000000#32, 0x00000000#32, 0x00000000#32⟩
]

def rowsPt0 : List RegRow := [
  ⟨0x0, 1, 0x4, fun _ => 0x00000000#32, 0xF0000000#32, 0x00000000#32, 0x00000000#32, 0x00000000#32, 0x00000000#32, 0x00000000#32⟩,
  ⟨0x4, 1, 0x4, fun _ => 0x00000000#32, 0x00FFFFFF#32, 0x00000000#32, 0x00000000#32, 0x00000000#32, 0x00000000#32, 0x00000000#32⟩,
  ⟨0x8, 1, 0x4, fun _ => 0x00000000#32, 0x00000000#32, 0x00000000#32, 0x00000000#32, 0x00000000#32, 0x00000000#32, 0x00000000#32⟩,
  ⟨0xC, 1, 0x4, fun _ => 0x00000000#32, 0x00000000#32, 0x00000000#32, 0x00000000#32, 0x00000000#32, 0x00000000#32, 0x00000000#32⟩,
  ⟨0x10, 1, 0x4, fun _ => 0x00000000#32, 0xFFFFFFFF#32, 0x00000000#32, 0x00000000#32, 0x00000000#32, 0x00000000#32, 0x00000000#32⟩,
  ⟨0x14, 1, 0x4, fun _ => 0x00000000#32, 0x0007FFFF#32, 0x00000000#32, 0x00000000#32, 0x00000000#32, 0x00000000#32, 0x00000000#32⟩,
  ⟨0x18, 1, 0x4, fun _ => 0x00000000#32, 0xFFFFFFFF#32, 0x00000000#32, 0x00000000#32, 0x00000000#32, 0x00000000#32, 0x00000000#32⟩,
  ⟨0x1C, 1, 0x4, fun _ => 0x00000000#32, 0x0007FFFF#32, 0x00000000#32, 0x00000000#32, 0x00000000#32, 0x00000000#32, 0x00000000#32⟩,
  ⟨0x40, 1, 0x4, fun _ => 0x02000000#32, 0xFF000000#32, 0x00000000#32, 0x00000000#32, 0x00000000#32, 0x00000000#32, 0x00000000#32⟩,
  ⟨0x44, 1, 0x4, fun _ => 0xF0000000#32, 0x00000000#32, 0x00000000#32, 0x0C000000#32, 0x00000000#32, 0x00000000#32, 0x00000000#32⟩,
  ⟨0x48, 1, 0x4, fun _ => 0x00000000#32, 0x40000000#32, 0x00000000#32, 0x00000000#32, 0x00000000#32, 0x00000000#32, 0x00000000#32⟩,
  ⟨0x80, 1, 0x4, fun _ => 0x31001008#32, 0xFFFFFF1F#32, 0x00000000#32, 0x00000000#32, 0x00000000#32, 0x00000000#32, 0x00000000#32⟩,
  ⟨0x84, 1, 0x4, fun _ => 0x64081001#32, 0xFFFFFF01#32, 0x00000000#32, 0x00000000#32, 0x00000000#32, 0x00000000#32, 0x00000000#32⟩,
  ⟨0x88, 1, 0x4, fun _ => 0x00000000#32, 0x00000000#32, 0x00000000#32, 0x40000000#32, 0x00000000#32, 0x00000000#32, 0x00000000#32⟩,
  ⟨0x100, 16, 0x10, fun _ => 0x40000000#32, 0xEFFFFF00#32, 0x00000000#32, 0x00000000#32, 0x00000000#32, 0x00000000#32, 0x00000000#32⟩,
  ⟨0x104, 16, 0x10, fun _ => 0x00000000#32, 0xFFFFFFFF#32, 0x00000000#32, 0x00000000#32, 0x00000000#32, 0x00000000#32, 0x00000000#32⟩,
  ⟨0x108, 16, 0x10, fun _ => 0x00000000#32, 0xFFFFFFFF#32, 0x00000000#32, 0x00000000#32, 0x00000000#32, 0x00000000#32, 0x00000000#32⟩,
  ⟨0x10C, 16, 0x10, fun _ => 0x00000000#32, 0xFFFFFFFF#32, 0x00000000#32, 0x00000000#32, 0x00000000#32, 0x00000000#32, 0x00000000#32⟩,
  ⟨0x200, 1, 0x4, fun _ => 0x01ED9800#32, 0x03FFFFFF#32, 0x00000000#32, 0x00000000#32, 0x00000000#32, 0x00000000#32, 0x00000000#32⟩,
  ⟨0x204, 1, 0x4, fun _ => 0x00141324#32, 0xFFFFFFFF#32, 0x00000000#32, 0x00000000#32, 0x00000000#32, 0x00000000#32, 0x00000000#32⟩
]

def rowsPt1 : List RegRow := [
  ⟨0x208, 1, 0x4, fun _ => 0xE0100320#32, 0xF8FFFFFF#32, 0x00000000#32, 0x00000000#32, 0x00000000#32, 0x00000000#32, 0x00000000#32⟩,
  ⟨0x20C, 1, 0x4, fun _ => 0x1008080A#32, 0xFFFFFFFF#32, 0x00000000#32, 0x00000000#32, 0x00000000#32, 0x00000000#32, 0x00000000#32⟩,
  ⟨0x210, 1, 0x4, fun _ => 0x08040403#32, 0xFFFFFF01#32, 0x00000002#32, 0x00000000#32, 0x00000000#32, 0x00000000#32, 0x00000000#32⟩,
  ⟨0x214, 1, 0x4, fun _ => 0x00000000#32, 0x00000000#32, 0x00000000#32, 0x20000000#32, 0x00000000#32, 0x00000000#32, 0x00000000#32⟩,
  ⟨0x218, 1, 0x4, fun _ => 0x00000000#32, 0x00000000#32, 0x00000000#32, 0x00000000#32, 0x00000000#32, 0xF00000FF#32, 0x00000000#32⟩,
  ⟨0x21C, 1, 0x4, fun _ => 0x330800C8#32, 0xFFFFFFFF#32, 0x00000000#32, 0x00000000#32, 0x00000000#32, 0x00000000#32, 0x00000000#32⟩,
  ⟨0xC00, 4, 0x40, fun _ => 0x20140100#32, 0x7C3FFF00#32, 0x83000000#32, 0x00000000#32, 0x00000000#32, 0x00800000#32, 0x00000000#32⟩,
  ⟨0xC04, 4, 0x40, fun _ => 0x00000000#32, 0x00000000#32, 0x00000000#32, 0x40000000#32, 0x00000000#32, 0x00000000#32, 0x00000000#32⟩
]

def rowsPt : List RegRow := rowsPt0 ++ rowsPt1

def rowsFsi : List RegRow := [
  ⟨0x0, 1, 0x4, fun _ => 0x00000000#32, 0x00000000#32, 0x00000000#32, 0x00000000#32, 0xFFFFFFFF#32, 0x00000000#32, 0x00000000#32⟩,
  ⟨0x4, 1, 0x4, fun _ => 0x00000000#32, 0x00000000#32, 0x00000000#32, 0x00000000#32, 0x00000000#32, 0x00000000#32, 0x00000000#32⟩,
  ⟨0x8, 1, 0x4, fun _ => 0x00000000#32, 0x00000000#32, 0x00000000#32, 0x00000000#32, 0x00000000#32, 0x00000000#32, 0x00000000#32⟩,
  ⟨0x100, 32, 0x4, fun _ => 0x00000000#32, 0x00000000#32, 0x00000000#32, 0x00000000#32, 0x00000000#32, 0x00000000#32, 0x00000000#32⟩
]

def rowsXpr0 : List RegRow := [
  ⟨0x0, 1, 0x4, fun _ => 0x80E68040#32, 0x00FFF3FF#32, 0x80000000#32, 0x00000000#32, 0x00000000#32, 0x00000000#32, 0x00000000#32⟩,
  ⟨0x100, 25, 0x4, fun _ => 0x00000001#32, 0x000000FF#32, 0x00000000#32, 0x00000000#32, 0x00000000#32, 0x00000000#32, 0x00000000#32⟩,
  ⟨0x200, 25, 0x4, fun _ => 0x00000000#32, 0x00000000#32, 0x00000000#32, 0x00000000#32, 0x00000000#32, 0x00000000#32, 0x00000000#32⟩,
  ⟨0x300, 24, 0x4, fun _ => 0x00000000#32, 0x0000007F#32, 0x00000000#32, 0x00000000#32, 0x00000000#32, 0x00000000#32, 0x00000000#32⟩,
  ⟨0x380, 64, 0x4, fun _ => 0x00000000#32, 0x0000007F#32, 0x00000000#32, 0x00000000#32, 0x00000000#32, 0x00000000#32, 0x00000000#32⟩,
  ⟨0x500, 1, 0x4, fun _ => 0x00000000#32, 0x00000000#32, 0x00000000#32, 0x00000000#32, 0x00000000#32, 0x00000000#32, 0x00000000#32⟩,
  ⟨0x1000, 16, 0x80, fun _ => 0x40000000#32, 0xFFFFFF80#32, 0x00000000#32, 0x00000000#32, 0x00000000#32, 0x00000000#32, 0x00000000#32⟩,
  ⟨0x1004, 16, 0x80, fun _ => 0x00000000#32, 0x8000007F#32, 0x00000000#32, 0x00000000#32, 0x00000000#32, 0x00000000#32, 0x00000000#32⟩,
  ⟨0x1008, 16, 0x80, fun _ => 0x00000000#32, 0xFFFFFFFF#32, 0x00000000#32, 0x00000000#32, 0x00000000#32, 0x00000000#32, 0x00000000#32⟩,
  ⟨0x100C, 16, 0x80, fun _ => 0x00000000#32, 0x8000007F#32, 0x00000000#32, 0x00000000#32, 0x00000000#32, 0x00000000#32, 0x00000000#32⟩,
  ⟨0x1010, 16, 0x80, fun _ => 0x00000000#32, 0xFFFFFFFF#32, 0x00000000#32, 0x00000000#32, 0x00000000#32, 0x00000000#32, 0x00000000#32⟩,
  ⟨0x1014, 16, 0x80, fun _ => 0x00000000#32, 0x8000007F#32, 0x00000000#32, 0x00000000#32, 0x00000000#32, 0x00000000#32, 0x00000000#32⟩,
  ⟨0x1018, 16, 0x80, fun _ => 0x00000000#32, 0xFFFFFFFF#32, 0x00000000#32, 0x00000000#32, 0x00000000#32, 0x00000000#32, 0x00000000#32⟩,
  ⟨0x101C, 16, 0x80, fun _ => 0x00000000#32, 0x8000007F#32, 0x00000000#32, 0x00000000#32, 0x00000000#32, 0x00000000#32, 0x00000000#32⟩,
  ⟨0x1020, 16, 0x80, fun _ => 0x00000000#32, 0xFFFFFFFF#32, 0x00000000#32, 0x00000000#32, 0x00000000#32, 0x00000000#32, 0x00000000#32⟩,
  ⟨0x1024, 16, 0x80, fun _ => 0x00000000#32, 0xC00FFF00#32, 0x00000000#32, 0x00000000#32, 0x00000000#32, 0x00000000#32, 0x00000000#32⟩,
  ⟨0x1028, 16, 0x80, fun _ => 0x00000000#32, 0xC00FFF00#32, 0x00000000#32, 0x00000000#32, 0x00000000#32, 0x00000000#32, 0x00000000#32⟩,
  ⟨0x102C, 16, 0x80, fun _ => 0x00000000#32, 0xC00FFF00#32, 0x00000000#32, 0x00000000#32, 0x00000000#32, 0x00000000#32, 0x00000000#32⟩,
  ⟨0x1030, 16, 0x80, fun _ => 0x00000000#32, 0xC00FFF00#32, 0x00000000#32, 0x00000000#32, 0x00000000#32, 0x00000000#32, 0x00000000#32⟩,
  ⟨0x1034, 16, 0x80, fun _ => 0x00000000#32, 0xC00FFF00#32, 0x00000000#32, 0x00000000#32, 0x00000000#32, 0x00000000#32, 0x00000000#32⟩
]

def rowsXpr1 : List RegRow := [
  ⟨0x1038, 16, 0x80, fun _ => 0x00000000#32, 0xC00FFF00#32, 0x00000000#32, 0x00000000#32, 0x00000000#32, 0x00000000#32, 0x00000000#32⟩,
  ⟨0x103C, 16, 0x80, fun _ => 0x00000000#32, 0xC00FFF00#32, 0x00000000#32, 0x00000000#32, 0x00000000#32, 0x00000000#32, 0x00000000#32⟩,
  ⟨0x1040, 16, 0x80, fun _ => 0x00000000#32, 0xC00FFF00#32, 0x00000000#32, 0x00000000#32, 0x00000000#32, 0x00000000#32, 0x00000000#32⟩,
  ⟨0x1044, 16, 0x80, fun _ => 0x00000000#32, 0xC00FFF00#32, 0x00000000#32, 0x00000000#32, 0x00000000#32, 0x00000000#32, 0x00000000#32⟩,
  ⟨0x1048, 16, 0x80, fun _ => 0x00000000#32, 0xC00FFF00#32, 0x00000000#32, 0x00000000#32, 0x00000000#32, 0x00000000#32, 0x00000000#32⟩,
  ⟨0x104C, 16, 0x80, fun _ => 0x00000000#32, 0xC00FFF00#32, 0x00000000#32, 0x00000000#32, 0x00000000#32, 0x00000000#32, 0x00000000#32⟩,
  ⟨0x1050, 16, 0x80, fun _ => 0x00000000#32, 0xC00FFF00#32, 0x00000000#32, 0x00000000#32, 0x00000000#32, 0x00000000#32, 0x00000000#32⟩
]

def rowsXpr : List RegRow := rowsXpr0 ++ rowsXpr1

def rowsSrt : List RegRow := [
  ⟨0x100, 8, 0x8, fun _ => 0xFFFFFFFF#32, 0xFFFFFFFF#32, 0x00000000#32, 0x00000000#32, 0x00000000#32, 0x00000000#32, 0x00000000#32⟩,
  ⟨0x104, 8, 0x8, fun _ => 0xFFFFFFFF#32, 0xFFFFFFFF#32, 0x00000000#32, 0x00000000#32, 0x00000000#32, 0x00000000#32, 0x00000000#32⟩,
  ⟨0x200, 1, 0x4, fun _ => 0x00000040#32, 0x000003FF#32, 0x00000000#32, 0x00000000#32, 0x00000000#32, 0x00000000#32, 0x00000000#32⟩,
  ⟨0x204, 1, 0x4, fun _ => 0x00000000#32, 0x00000000#32, 0x00000000#32, 0x00000000#32, 0x00000000#32, 0x00000000#32, 0x00000000#32⟩,
  ⟨0x404, 63, 0x4, fun k => resetExc (k + 1), 0xFFFFFFFF#32, 0x00000000#32, 0x00000000#32, 0x00000000#32, 0x00000000#32, 0x00000000#32⟩,
  ⟨0x500, 1, 0x4, fun _ => 0x40004E20#32, 0xFFFFFFFF#32, 0x00000000#32, 0x00000000#32, 0x00000000#32, 0x00000000#32, 0x00000000#32⟩,
  ⟨0x504, 1, 0x4, fun _ => 0x400007D0#32, 0xFFFFFFFF#32, 0x00000000#32, 0x00000000#32, 0x00000000#32, 0x00000000#32, 0x00000000#32⟩,
  ⟨0x600, 1, 0x4, fun _ => 0x00000010#32, 0x00000000#32, 0x0000001F#32, 0x00000000#32, 0x00000000#32, 0x00000000#32, 0x00000000#32⟩
]

def rowsLdg : List RegRow := [
  ⟨0x0, 1, 0x4, fun _ => 0xC6000000#32, 0xC0000000#32, 0x0F000000#32, 0x00000000#32, 0x00000000#32, 0x00000000#32, 0x00000000#32⟩,
  ⟨0x4, 1, 0x4, fun _ => 0x00000001#32, 0x00000000#32, 0x00000000#32, 0x00000000#32, 0x00000000#32, 0x00000000#32, 0x00000000#32⟩,
  ⟨0x8, 1, 0x4, fun _ => 0x00000064#32, 0x0000FFFF#32, 0x00000000#32, 0x00000000#32, 0x00000000#32, 0x00000000#32, 0x00000000#32⟩,
  ⟨0x280, 16, 0x4, fun _ => 0x00000000#32, 0x00000000#32, 0x00000000#32, 0x00000000#32, 0x00000000#32, 0x00000000#32, 0x00000000#32⟩,
  ⟨0x10, 2, 0x8, fun _ => 0x00000000#32, 0x00000000#32, 0x00000000#32, 0x00000000#32, 0x00000000#32, 0xFFFFFFFF#32, 0x00000000#32⟩,
  ⟨0x14, 2, 0x8, fun _ => 0x00000000#32, 0x00000000#32, 0x00000000#32, 0x00000000#32, 0x00000000#32, 0x00000000#32, 0x00000000#32⟩,
  ⟨0x100, 64, 0x4, fun _ => 0x00000000#32, 0xC0000000#32, 0x00000000#32, 0x00000000#32, 0x00000000#32, 0x00000000#32, 0x00000000#32⟩,
  ⟨0x200, 16, 0x4, fun _ => 0x00000000#32, 0x80003F3F#32, 0x00000000#32, 0x00000000#32, 0x00000000#32, 0x00000000#32, 0x00000000#32⟩,
  ⟨0x1000, 32, 0x20, fun _ => 0x00000000#32, 0xF03F1F00#32, 0x00000000#32, 0x00000000#32, 0x00000000#32, 0x00000000#32, 0x00000000#32⟩,
  ⟨0x1004, 32, 0x20, fun _ => 0x00000000#32, 0xFFFFFFFF#32, 0x00000000#32, 0x00000000#32, 0x00000000#32, 0x00000000#32, 0x00000000#32⟩,
  ⟨0x1008, 32, 0x20, fun _ => 0x00000000#32, 0xFFFFFFFF#32, 0x00000000#32, 0x00000000#32, 0x00000000#32, 0x00000000#32, 0x00000000#32⟩,
  ⟨0x100C, 32, 0x20, fun _ => 0x00000000#32, 0x00000000#32, 0x00000000#32, 0x00000000#32, 0x00000000#32, 0x00000000#32, 0x00000000#32⟩,
  ⟨0x1010, 32, 0x20, fun _ => 0x00000000#32, 0xFFFFFFFF#32, 0x00000000#32, 0x00000000#32, 0x00000000#32, 0x00000000#32, 0x00000000#32⟩,
  ⟨0x1014, 32, 0x20, fun _ => 0x00000000#32, 0xFFFFFFFF#32, 0x00000000#32, 0x00000000#32, 0x00000000#32, 0x00000000#32, 0x00000000#32⟩,
  ⟨0x1018, 32, 0x20, fun _ => 0x00000000#32, 0xFFFFFFFF#32, 0x00000000#32, 0x00000000#32, 0x00000000#32, 0x00000000#32, 0x00000000#32⟩,
  ⟨0x101C, 32, 0x20, fun _ => 0x00000000#32, 0xFFFFFFFF#32, 0x00000000#32, 0x00000000#32, 0x00000000#32, 0x00000000#32, 0x00000000#32⟩,
  ⟨0x400, 48, 0x4, fun _ => 0x00000000#32, 0xFFFFFFFF#32, 0x00000000#32, 0x00000000#32, 0x00000000#32, 0x00000000#32, 0x00000000#32⟩,
  ⟨0x500, 48, 0x4, fun _ => 0x00000000#32, 0xFFFFFFFF#32, 0x00000000#32, 0x00000000#32, 0x00000000#32, 0x00000000#32, 0x00000000#32⟩
]

def rowsExm : List RegRow := [
  ⟨0x0, 4, 0x4, fun k => resetSeed k, 0x00000000#32, 0xFFFFFFFF#32, 0x00000000#32, 0x00000000#32, 0x00000000#32, 0x00000000#32⟩,
  ⟨0x10, 1, 0x4, fun _ => 0x80001800#32, 0x80003FFF#32, 0x00000000#32, 0x00000000#32, 0x00000000#32, 0x00000000#32, 0x00000000#32⟩,
  ⟨0x14, 1, 0x4, fun _ => 0x00000000#32, 0x00000000#32, 0x00000000#32, 0x00000000#32, 0x00000000#32, 0x00000000#32, 0x00000000#32⟩,
  ⟨0x18, 1, 0x4, fun _ => 0x00000000#32, 0x00000000#32, 0x00000000#32, 0x00000000#32, 0x00000000#32, 0x00000000#32, 0x00000000#32⟩
]

def rowsCpg : List RegRow := [
  ⟨0x0, 1, 0x4, fun _ => 0x00000000#32, 0xC0000000#32, 0x00000000#32, 0x00000000#32, 0x00000000#32, 0x00000000#32, 0x00000000#32⟩,
  ⟨0x10, 4, 0x4, fun k => resetPool k, 0x00000000#32, 0x0000FFFF#32, 0x00000000#32, 0x00000000#32, 0x00000000#32, 0x00000000#32⟩,
  ⟨0x20, 4, 0x4, fun k => 64 * resetPool k, 0x00000000#32, 0x00000000#32, 0x00000000#32, 0x00000000#32, 0x00000000#32, 0x00000000#32⟩,
  ⟨0x30, 1, 0x4, fun _ => 0x01234568#32, 0x00000000#32, 0xFFFFFFFF#32, 0x00000000#32, 0x00000000#32, 0x00000000#32, 0x00000000#32⟩,
  ⟨0x40, 1, 0x4, fun _ => 0x00000000#32, 0x00000000#32, 0x00000000#32, 0x00000000#32, 0x00000000#32, 0xF0FFFFFF#32, 0x00000000#32⟩,
  ⟨0x104, 15, 0x4, fun _ => 0x00000000#32, 0xC001FFFF#32, 0x00000000#32, 0x00000000#32, 0x00000000#32, 0x00000000#32, 0x00000000#32⟩,
  ⟨0x200, 1, 0x4, fun _ => 0x00000000#32, 0x00000000#32, 0x01FF01FF#32, 0x00000000#32, 0x00000000#32, 0x00000000#32, 0x00000000#32⟩,
  ⟨0x204, 1, 0x4, fun _ => 0x80000200#32, 0xE000FFFF#32, 0x00000000#32, 0x00000000#32, 0x00000000#32, 0x00000000#32, 0x00000000#32⟩,
  ⟨0x208, 1, 0x4, fun _ => 0x00000000#32, 0x00000000#32, 0x00000000#32, 0x00000000#32, 0x00000000#32, 0x00000000#32, 0x00000000#32⟩
]

def rowsSch : List RegRow := [
  ⟨0x0, 1, 0x4, fun _ => 0x00000400#32, 0x0000FFFF#32, 0x00000000#32, 0x00000000#32, 0x00000000#32, 0x00000000#32, 0x00000000#32⟩,
  ⟨0x100, 16, 0x4, fun _ => 0x01A02940#32, 0x83E0FFE0#32, 0x00000000#32, 0x00000000#32, 0x00000000#32, 0x00000000#32, 0x00000000#32⟩,
  ⟨0x180, 1, 0x4, fun _ => 0x00000100#32, 0x00000000#32, 0x00000000#32, 0x00000000#32, 0x00000000#32, 0x00000000#32, 0x00000000#32⟩
]

def rowsKey : List RegRow := [
  ⟨0x0, 1, 0x4, fun _ => 0xC0000000#32, 0x00000000#32, 0xC000FFFF#32, 0x00000000#32, 0x00000000#32, 0x00000000#32, 0x00000000#32⟩,
  ⟨0x4, 1, 0x4, fun _ => 0x00000000#32, 0x00000000#32, 0x00000000#32, 0x00000000#32, 0x00000000#32, 0x00000000#32, 0x00000000#32⟩,
  ⟨0x8, 1, 0x4, fun _ => 0x002C2A00#32, 0x0000FF00#32, 0x00FF0000#32, 0x00000000#32, 0x00000000#32, 0x00000000#32, 0x00000000#32⟩,
  ⟨0xC, 1, 0x4, fun _ => 0x0000002F#32, 0x000000FF#32, 0x00000000#32, 0x00000000#32, 0x00000000#32, 0x00000000#32, 0x00000000#32⟩,
  ⟨0x10, 1, 0x4, fun _ => 0x00000000#32, 0x00000000#32, 0x00000000#32, 0x00000000#32, 0x00000000#32, 0xF0007FFF#32, 0x00000000#32⟩,
  ⟨0x14, 1, 0x4, fun _ => 0x00000000#32, 0x00000000#32, 0x00000000#32, 0x00000000#32, 0x00000000#32, 0x00000000#32, 0x00000000#32⟩,
  ⟨0x20, 8, 0x4, fun _ => 0x00000000#32, 0x00000000#32, 0x00000000#32, 0x00000000#32, 0x00000000#32, 0xFFFFFFFF#32, 0x00000000#32⟩
]

def rowsTwn : List RegRow := [
  ⟨0x0, 1, 0x4, fun _ => 0x38A0000A#32, 0x78F0FFFF#32, 0x80000000#32, 0x00000000#32, 0x00000000#32, 0x00000000#32, 0x00000000#32⟩,
  ⟨0x4, 1, 0x4, fun _ => 0x00000000#32, 0x00000000#32, 0x00000000#32, 0x00000000#32, 0x00000000#32, 0x00000000#32, 0x00000000#32⟩,
  ⟨0x8, 1, 0x4, fun _ => 0x00000000#32, 0x00000000#32, 0x00000000#32, 0x00000000#32, 0x00000000#32, 0x00000000#32, 0x00000000#32⟩,
  ⟨0xC, 1, 0x4, fun _ => 0x00000000#32, 0x00000000#32, 0x00000000#32, 0x00000000#32, 0x00000000#32, 0x00000000#32, 0x00000000#32⟩,
  ⟨0x10, 1, 0x4, fun _ => 0x00000000#32, 0x00000000#32, 0x00000000#32, 0x00000000#32, 0x00000000#32, 0xF8000000#32, 0x00000000#32⟩,
  ⟨0x14, 1, 0x4, fun _ => 0x00000000#32, 0xFFFFFFFF#32, 0x00000000#32, 0x00000000#32, 0x00000000#32, 0x00000000#32, 0x00000000#32⟩,
  ⟨0x18, 1, 0x4, fun _ => 0x00000000#32, 0x00000000#32, 0x00000000#32, 0x00000000#32, 0x00000000#32, 0x00000000#32, 0x00000000#32⟩,
  ⟨0x20, 1, 0x4, fun _ => 0x00000000#32, 0x00000000#32, 0x00000000#32, 0x00000000#32, 0x00000000#32, 0x00000000#32, 0x00000000#32⟩,
  ⟨0x24, 1, 0x4, fun _ => 0x00000000#32, 0x00000000#32, 0x0000FFFF#32, 0x00000000#32, 0x00000000#32, 0x00000000#32, 0x00000000#32⟩,
  ⟨0x30, 1, 0x4, fun _ => 0x00000000#32, 0x00000000#32, 0x00000000#32, 0x00000000#32, 0x00000000#32, 0x00000000#32, 0xF0000000#32⟩,
  ⟨0x100, 32, 0x10, fun _ => 0x00000000#32, 0x00000000#32, 0x00000000#32, 0x00000000#32, 0x00000000#32, 0x00000000#32, 0x00000000#32⟩,
  ⟨0x34, 1, 0x4, fun _ => 0x00000000#32, 0x00000000#32, 0x00000000#32, 0x00000000#32, 0x00000000#32, 0x00000000#32, 0xFFFFFFFF#32⟩,
  ⟨0x104, 32, 0x10, fun _ => 0x00000000#32, 0x00000000#32, 0x00000000#32, 0x00000000#32, 0x00000000#32, 0x00000000#32, 0x00000000#32⟩,
  ⟨0x38, 1, 0x4, fun _ => 0x00000000#32, 0x00000000#32, 0x00000000#32, 0x00000000#32, 0x00000000#32, 0x00000000#32, 0xFFFFFFFF#32⟩,
  ⟨0x108, 32, 0x10, fun _ => 0x00000000#32, 0x00000000#32, 0x00000000#32, 0x00000000#32, 0x00000000#32, 0x00000000#32, 0x00000000#32⟩,
  ⟨0x3C, 1, 0x4, fun _ => 0x00000000#32, 0x00000000#32, 0x00000000#32, 0x00000000#32, 0x00000000#32, 0x00000000#32, 0xFFFFFFFF#32⟩,
  ⟨0x10C, 32, 0x10, fun _ => 0x00000000#32, 0x00000000#32, 0x00000000#32, 0x00000000#32, 0x00000000#32, 0x00000000#32, 0x00000000#32⟩
]

def rowsHrl0 : List RegRow := [
  ⟨0x0, 1, 0x4, fun _ => 0x0400012C#32, 0x0700FFFF#32, 0x00000000#32, 0x00000000#32, 0x00000000#32, 0xF0000000#32, 0x00000000#32⟩,
  ⟨0x4, 1, 0x4, fun _ => 0x00000000#32, 0x00000000#32, 0x00000000#32, 0x00000000#32, 0x00000000#32, 0x00000000#32, 0x00000000#32⟩,
  ⟨0x8, 1, 0x4, fun _ => 0x00000000#32, 0x00000000#32, 0x00000000#32, 0x00000000#32, 0x00000000#32, 0x00000000#32, 0x00000000#32⟩,
  ⟨0xC, 1, 0x4, fun _ => 0x00000000#32, 0x00000000#32, 0x00000000#32, 0x00000000#32, 0x00000000#32, 0x00000000#32, 0x00000000#32⟩,
  ⟨0x10, 1, 0x4, fun _ => 0x00000000#32, 0x00000000#32, 0x00000000#32, 0x00000000#32, 0x00000000#32, 0x00000000#32, 0x00000000#32⟩,
  ⟨0x14, 1, 0x4, fun _ => 0x00000000#32, 0x00000000#32, 0x00000000#32, 0x00000000#32, 0x00000000#32, 0x00000000#32, 0x00000000#32⟩,
  ⟨0x18, 1, 0x4, fun _ => 0x00000000#32, 0x00000000#32, 0x00000000#32, 0x00000000#32, 0x00000000#32, 0x00000000#32, 0x00000000#32⟩,
  ⟨0x1C, 1, 0x4, fun _ => 0x00000000#32, 0x00000000#32, 0x00000000#32, 0x00000000#32, 0x00000000#32, 0x00000000#32, 0x00000000#32⟩,
  ⟨0x20, 1, 0x4, fun _ => 0x00000000#32, 0x00000000#32, 0x00000000#32, 0x00000000#32, 0x00000000#32, 0x00000000#32, 0x00000000#32⟩,
  ⟨0x24, 1, 0x4, fun _ => 0x00000000#32, 0x00000000#32, 0x00000000#32, 0x00000000#32, 0x00000000#32, 0x00000000#32, 0x00000000#32⟩,
  ⟨0x28, 1, 0x4, fun _ => 0x00250000#32, 0xFFFF0003#32, 0x00000000#32, 0x00000000#32, 0x00000000#32, 0x00000000#32, 0x00000000#32⟩,
  ⟨0x2C, 1, 0x4, fun _ => 0x00000032#32, 0x0000003F#32, 0x00000000#32, 0x00000000#32, 0x00000000#32, 0x00000000#32, 0x00000000#32⟩,
  ⟨0x30, 1, 0x4, fun _ => 0x403E8064#32, 0xFFFFFFFF#32, 0x00000000#32, 0x00000000#32, 0x00000000#32, 0x00000000#32, 0x00000000#32⟩,
  ⟨0x34, 1, 0x4, fun _ => 0x00000000#32, 0x00000000#32, 0x00000000#32, 0x00000000#32, 0x00000000#32, 0x00000000#32, 0x00000000#32⟩,
  ⟨0x40, 1, 0x4, fun _ => 0x19000000#32, 0xFFFFFFFF#32, 0x00000000#32, 0x00000000#32, 0x00000000#32, 0x00000000#32, 0x00000000#32⟩,
  ⟨0x44, 1, 0x4, fun _ => 0x00000000#32, 0xFF00FF00#32, 0x00000000#32, 0x00000000#32, 0x00000000#32, 0x00000000#32, 0x00000000#32⟩,
  ⟨0x48, 1, 0x4, fun _ => 0x18190000#32, 0xFFFF0000#32, 0x00000000#32, 0x00000000#32, 0x00000000#32, 0x00000000#32, 0x00000000#32⟩,
  ⟨0x100, 2, 0x40, fun _ => 0x05100064#32, 0x1FFFFFFF#32, 0xE0000000#32, 0x00000000#32, 0x00000000#32, 0x00000000#32, 0x00000000#32⟩,
  ⟨0x104, 2, 0x40, fun _ => 0x00000000#32, 0x00000000#32, 0x00000000#32, 0x00000000#32, 0x00000000#32, 0x00000000#32, 0x00000000#32⟩,
  ⟨0x108, 2, 0x40, fun _ => 0x00000000#32, 0x00000000#32, 0x00000000#32, 0x00000000#32, 0x00000000#32, 0x00000000#32, 0x00000000#32⟩
]

def rowsHrl1 : List RegRow := [
  ⟨0x10C, 2, 0x40, fun _ => 0x00000000#32, 0x00000000#32, 0x00000000#32, 0x00000000#32, 0x00000000#32, 0x00000000#32, 0x00000000#32⟩,
  ⟨0x120, 2, 0x40, fun _ => 0x00000000#32, 0x00000000#32, 0x00000000#32, 0x00000000#32, 0x00000000#32, 0x0000FFFF#32, 0x00000000#32⟩,
  ⟨0x124, 2, 0x40, fun _ => 0x00000000#32, 0x00000000#32, 0x00000000#32, 0x00000000#32, 0x00000000#32, 0xFFFFFFFF#32, 0x00000000#32⟩,
  ⟨0x128, 2, 0x40, fun _ => 0x00000000#32, 0x00000000#32, 0x00000000#32, 0x00000000#32, 0x00000000#32, 0xFFFFFFFF#32, 0x00000000#32⟩,
  ⟨0x12C, 2, 0x40, fun _ => 0x4002C350#32, 0xFFFFFFFF#32, 0x00000000#32, 0x00000000#32, 0x00000000#32, 0x00000000#32, 0x00000000#32⟩,
  ⟨0x130, 2, 0x40, fun _ => 0x000F4240#32, 0x00FFFFFF#32, 0x00000000#32, 0x00000000#32, 0x00000000#32, 0xF0000000#32, 0x00000000#32⟩,
  ⟨0x134, 2, 0x40, fun _ => 0x00000000#32, 0x00000000#32, 0x00000000#32, 0x00000000#32, 0x00000000#32, 0x00000000#32, 0x00000000#32⟩,
  ⟨0x110, 2, 0x40, fun _ => 0x00000000#32, 0x00000000#32, 0x00000000#32, 0x00000000#32, 0x00000000#32, 0x00000000#32, 0x00000000#32⟩,
  ⟨0x114, 2, 0x40, fun _ => 0x00000000#32, 0x00000000#32, 0x00000000#32, 0x00000000#32, 0x00000000#32, 0x00000000#32, 0x00000000#32⟩,
  ⟨0x118, 2, 0x40, fun _ => 0x00000000#32, 0x00000000#32, 0x00000000#32, 0x00000000#32, 0x00000000#32, 0x00000000#32, 0x00000000#32⟩,
  ⟨0x11C, 2, 0x40, fun _ => 0x00000000#32, 0x00000000#32, 0x00000000#32, 0x00000000#32, 0x00000000#32, 0x00000000#32, 0x00000000#32⟩,
  ⟨0x200, 24, 0x4, fun _ => 0x00000000#32, 0x0000FFFF#32, 0x00000000#32, 0x00000000#32, 0x00000000#32, 0x00000000#32, 0x00000000#32⟩,
  ⟨0x280, 32, 0x4, fun _ => 0x00000000#32, 0x0000FFFF#32, 0x00000000#32, 0x00000000#32, 0x00000000#32, 0x00000000#32, 0x00000000#32⟩,
  ⟨0x800, 1, 0x4, fun _ => 0x00000000#32, 0x00000000#32, 0x00000000#32, 0x00000000#32, 0x00000000#32, 0x00000000#32, 0x00000000#32⟩,
  ⟨0x804, 4, 0x4, fun _ => 0x00000000#32, 0x00000000#32, 0x00000000#32, 0x00000000#32, 0x00000000#32, 0x00000000#32, 0x00000000#32⟩,
  ⟨0x814, 3, 0x4, fun _ => 0x00000000#32, 0x00000000#32, 0x00000000#32, 0x00000000#32, 0x00000000#32, 0x00000000#32, 0x00000000#32⟩,
  ⟨0x820, 1, 0x4, fun _ => 0x00000000#32, 0x00000000#32, 0x00000000#32, 0x00000000#32, 0x00000000#32, 0x00000000#32, 0x00000000#32⟩,
  ⟨0x824, 4, 0x4, fun _ => 0x00000000#32, 0x00000000#32, 0x00000000#32, 0x00000000#32, 0x00000000#32, 0x00000000#32, 0x00000000#32⟩,
  ⟨0x834, 3, 0x4, fun _ => 0x00000000#32, 0x00000000#32, 0x00000000#32, 0x00000000#32, 0x00000000#32, 0x00000000#32, 0x00000000#32⟩
]

def rowsHrl : List RegRow := rowsHrl0 ++ rowsHrl1

def rowsUlk : List RegRow := [
  ⟨0x0, 1, 0x4, fun _ => 0x03000000#32, 0x8F000000#32, 0x70000000#32, 0x00000000#32, 0x00000000#32, 0x00800000#32, 0x00000000#32⟩,
  ⟨0x4, 1, 0x4, fun k => BitVec.ofNat 32 k, 0x00000000#32, 0x00000000#32, 0x00000000#32, 0x00000000#32, 0x00000000#32, 0x00000000#32⟩,
  ⟨0x800, 1, 0x40, fun _ => 0x20140100#32, 0x7C3FFF00#32, 0x83000000#32, 0x00000000#32, 0x00000000#32, 0x00800000#32, 0x00000000#32⟩,
  ⟨0x804, 1, 0x40, fun _ => 0x00000000#32, 0x00000000#32, 0x00000000#32, 0x40000000#32, 0x00000000#32, 0x00000000#32, 0x00000000#32⟩
]

def rowsShl : List RegRow := [
  ⟨0x2000, 16, 0x40, fun _ => 0x20140100#32, 0x7C3FFF00#32, 0x83000000#32, 0x00000000#32, 0x00000000#32, 0x00800000#32, 0x00000000#32⟩,
  ⟨0x2004, 16, 0x40, fun _ => 0x00000000#32, 0x00000000#32, 0x00000000#32, 0x40000000#32, 0x00000000#32, 0x00000000#32, 0x00000000#32⟩,
  ⟨0x10, 1, 0x4, fun _ => 0x140A6400#32, 0xFFFFFF00#32, 0x00000000#32, 0x00000000#32, 0x00000000#32, 0x00000000#32, 0x00000000#32⟩,
  ⟨0x100, 16, 0x20, fun _ => 0xA000140C#32, 0x8000FFFF#32, 0x60000000#32, 0x00000000#32, 0x00000000#32, 0x10000000#32, 0x00000000#32⟩,
  ⟨0x104, 16, 0x20, fun _ => 0x20FF0000#32, 0x00000000#32, 0x00000000#32, 0x00000000#32, 0x00000000#32, 0x00000000#32, 0x00000000#32⟩,
  ⟨0x108, 16, 0x20, fun _ => 0x00023508#32, 0x00000000#32, 0x00000000#32, 0x00000000#32, 0x00000000#32, 0x00000000#32, 0x00000000#32⟩,
  ⟨0x0, 1, 0x4, fun _ => 0x0000FFF0#32, 0x00000000#32, 0xFFC0FFFF#32, 0x00000000#32, 0x00000000#32, 0x00000000#32, 0x00000000#32⟩,
  ⟨0x4, 1, 0x4, fun _ => 0x00000000#32, 0x00000000#32, 0x00000000#32, 0x00000000#32, 0x00000000#32, 0x00000000#32, 0x00000000#32⟩,
  ⟨0x8, 1, 0x4, fun _ => 0x0A030100#32, 0xFFFFFF00#32, 0x00000000#32, 0x00000000#32, 0x00000000#32, 0x00000000#32, 0x00000000#32⟩,
  ⟨0x400, 64, 0x4, fun _ => 0x00000000#32, 0x00000000#32, 0x00000000#32, 0x00000000#32, 0x00000000#32, 0x00000000#32, 0x00000000#32⟩
]

def rowsHst0 : List RegRow := [
  ⟨0x8000, 16, 0x40, fun _ => 0x20140100#32, 0x7C3FFF00#32, 0x83000000#32, 0x00000000#32, 0x00000000#32, 0x00800000#32, 0x00000000#32⟩,
  ⟨0x8004, 16, 0x40, fun _ => 0x00000000#32, 0x00000000#32, 0x00000000#32, 0x40000000#32, 0x00000000#32, 0x00000000#32, 0x00000000#32⟩,
  ⟨0x1000, 33, 0x40, fun _ => 0x00000000#32, 0xFFFFFFFF#32, 0x00000000#32, 0x00000000#32, 0x00000000#32, 0x00000000#32, 0x00000000#32⟩,
  ⟨0x2000, 64, 0x40, fun _ => 0x00000000#32, 0xFFFFFFFF#32, 0x00000000#32, 0x00000000#32, 0x00000000#32, 0x00000000#32, 0x00000000#32⟩,
  ⟨0x1004, 33, 0x40, fun _ => 0x00000000#32, 0xFFFFFFFF#32, 0x00000000#32, 0x00000000#32, 0x00000000#32, 0x00000000#32, 0x00000000#32⟩,
  ⟨0x2004, 64, 0x40, fun _ => 0x00000000#32, 0xFFFFFFFF#32, 0x00000000#32, 0x00000000#32, 0x00000000#32, 0x00000000#32, 0x00000000#32⟩,
  ⟨0x1008, 33, 0x40, fun k => resetRingCfg k, 0xFFE0FFFF#32, 0x00000000#32, 0x00000000#32, 0x00000000#32, 0x00000000#32, 0x00000000#32⟩,
  ⟨0x2008, 64, 0x40, fun k => resetRingCfg (k + 64), 0xFFE0FFFF#32, 0x00000000#32, 0x00000000#32, 0x00000000#32, 0x00000000#32, 0x00000000#32⟩,
  ⟨0x100C, 33, 0x40, fun _ => 0x00000000#32, 0x00000000#32, 0x00000000#32, 0x00000000#32, 0x00000000#32, 0x00000000#32, 0x00000000#32⟩,
  ⟨0x200C, 64, 0x40, fun _ => 0x00000000#32, 0x00000000#32, 0x00000000#32, 0x00000000#32, 0x00000000#32, 0x00000000#32, 0x00000000#32⟩,
  ⟨0x1010, 33, 0x40, fun _ => 0x00000000#32, 0x0000FFFF#32, 0x00000000#32, 0x00000000#32, 0x00000000#32, 0x00000000#32, 0x00000000#32⟩,
  ⟨0x2010, 64, 0x40, fun _ => 0x00000000#32, 0x0000FFFF#32, 0x00000000#32, 0x00000000#32, 0x00000000#32, 0x00000000#32, 0x00000000#32⟩,
  ⟨0x1014, 33, 0x40, fun _ => 0x80000000#32, 0x00000000#32, 0x00000000#32, 0x20000000#32, 0x00000000#32, 0x00000000#32, 0x00000000#32⟩,
  ⟨0x2014, 64, 0x40, fun _ => 0x80000000#32, 0x00000000#32, 0x00000000#32, 0x20000000#32, 0x00000000#32, 0x00000000#32, 0x00000000#32⟩,
  ⟨0x1018, 33, 0x40, fun _ => 0x00000000#32, 0xFFFFFFFF#32, 0x00000000#32, 0x00000000#32, 0x00000000#32, 0x00000000#32, 0x00000000#32⟩,
  ⟨0x2018, 64, 0x40, fun _ => 0x00000000#32, 0xFFFFFFFF#32, 0x00000000#32, 0x00000000#32, 0x00000000#32, 0x00000000#32, 0x00000000#32⟩,
  ⟨0x101C, 33, 0x40, fun _ => 0x00000000#32, 0xFFFFFFFF#32, 0x00000000#32, 0x00000000#32, 0x00000000#32, 0x00000000#32, 0x00000000#32⟩,
  ⟨0x201C, 64, 0x40, fun _ => 0x00000000#32, 0xFFFFFFFF#32, 0x00000000#32, 0x00000000#32, 0x00000000#32, 0x00000000#32, 0x00000000#32⟩,
  ⟨0x0, 1, 0x4, fun _ => 0x00000000#32, 0x00000000#32, 0x00000000#32, 0x00000000#32, 0x00000000#32, 0x00000000#32, 0x00000000#32⟩,
  ⟨0x4, 1, 0x4, fun _ => 0x60000000#32, 0x00000000#32, 0xF0000000#32, 0x00000000#32, 0x00000000#32, 0x00000000#32, 0x00000000#32⟩
]

def rowsHst1 : List RegRow := [
  ⟨0x10, 1, 0x4, fun _ => 0x00000000#32, 0x00000000#32, 0x007FFFFE#32, 0x00000000#32, 0x00000000#32, 0x00000000#32, 0x00000000#32⟩,
  ⟨0x14, 1, 0x4, fun _ => 0x00000000#32, 0x00000000#32, 0x00000000#32, 0x00000000#32, 0xFFFFFFFF#32, 0x00000000#32, 0x00000000#32⟩,
  ⟨0x104, 32, 0x4, fun _ => 0x00000000#32, 0xFFFFFFFF#32, 0x00000000#32, 0x00000000#32, 0x00000000#32, 0x00000000#32, 0x00000000#32⟩,
  ⟨0x200, 8, 0x4, fun _ => 0x00000000#32, 0xFFFFFFFF#32, 0x00000000#32, 0x00000000#32, 0x00000000#32, 0x00000000#32, 0x00000000#32⟩,
  ⟨0x20, 1, 0x4, fun _ => 0x00000000#32, 0x00000000#32, 0x00000000#32, 0x80000000#32, 0x00000000#32, 0x00000000#32, 0x00000000#32⟩,
  ⟨0x24, 1, 0x4, fun _ => 0x00000000#32, 0x00000000#32, 0x00000000#32, 0x00000000#32, 0x00000000#32, 0x00000000#32, 0x00000000#32⟩,
  ⟨0x28, 1, 0x4, fun _ => 0x00000000#32, 0x00000000#32, 0x00000000#32, 0x00000000#32, 0x00000000#32, 0x00000000#32, 0x00000000#32⟩,
  ⟨0x40, 1, 0x4, fun _ => 0x00000000#32, 0x00000003#32, 0x00000000#32, 0x00000000#32, 0x00000000#32, 0x00000000#32, 0x00000000#32⟩
]

def rowsHst : List RegRow := rowsHst0 ++ rowsHst1

def rowsFlt : List RegRow := [
  ⟨0x0, 1, 0x4, fun _ => 0x0C030064#32, 0x0000FFFF#32, 0x0C0F0000#32, 0x00000000#32, 0x00000000#32, 0xF0000000#32, 0x00000000#32⟩,
  ⟨0x4, 1, 0x4, fun _ => 0x00000000#32, 0x00000000#32, 0x00000000#32, 0x04000000#32, 0x00000000#32, 0x00000000#32, 0x00F00000#32⟩,
  ⟨0x8, 1, 0x4, fun _ => 0x00000000#32, 0x00000000#32, 0x00000000#32, 0x0000FFFF#32, 0x00000000#32, 0x00000000#32, 0x00000000#32⟩,
  ⟨0x10, 1, 0x4, fun _ => 0x00000000#32, 0x00000000#32, 0x00000000#32, 0x00000000#32, 0x00000000#32, 0xFF00FFFF#32, 0x00000000#32⟩,
  ⟨0x14, 1, 0x4, fun _ => 0x00000000#32, 0x00000000#32, 0x00000000#32, 0x00000000#32, 0x00000000#32, 0x00000000#32, 0x00000000#32⟩,
  ⟨0x20, 1, 0x4, fun _ => resetTemp, 0x00FF0000#32, 0x0000FFFF#32, 0x00000000#32, 0x00000000#32, 0x00000000#32, 0x00000000#32⟩,
  ⟨0x100, 1, 0x4, fun _ => 0x00000000#32, 0x00000000#32, 0x00000000#32, 0x00000000#32, 0x00000000#32, 0x00000000#32, 0x00000000#32⟩,
  ⟨0x200, 3, 0x10, fun _ => 0x00000000#32, 0x00000000#32, 0x00000000#32, 0x00000000#32, 0x00000000#32, 0x00000000#32, 0x00000000#32⟩,
  ⟨0x104, 1, 0x4, fun _ => 0x00000000#32, 0x00000000#32, 0x00000000#32, 0x00000000#32, 0x00000000#32, 0x00000000#32, 0x00000000#32⟩,
  ⟨0x204, 3, 0x10, fun _ => 0x00000000#32, 0x00000000#32, 0x00000000#32, 0x00000000#32, 0x00000000#32, 0x00000000#32, 0x00000000#32⟩,
  ⟨0x108, 1, 0x4, fun _ => 0x00000000#32, 0x00000000#32, 0x00000000#32, 0x00000000#32, 0x00000000#32, 0x00000000#32, 0x00000000#32⟩,
  ⟨0x208, 3, 0x10, fun _ => 0x00000000#32, 0x00000000#32, 0x00000000#32, 0x00000000#32, 0x00000000#32, 0x00000000#32, 0x00000000#32⟩,
  ⟨0x10C, 1, 0x4, fun _ => 0x00000000#32, 0x00000000#32, 0x00000000#32, 0x00000000#32, 0x00000000#32, 0x00000000#32, 0x00000000#32⟩,
  ⟨0x20C, 3, 0x10, fun _ => 0x00000000#32, 0x00000000#32, 0x00000000#32, 0x00000000#32, 0x00000000#32, 0x00000000#32, 0x00000000#32⟩,
  ⟨0x1000, 256, 0x8, fun k => resetKind k, 0x00FF83FF#32, 0xFF000000#32, 0x00000000#32, 0x00000000#32, 0x00000000#32, 0x00000000#32⟩,
  ⟨0x1004, 256, 0x8, fun _ => 0x00000000#32, 0x00000000#32, 0x00000000#32, 0x80000000#32, 0x00000000#32, 0x00000000#32, 0x00000000#32⟩
]

def rowsWdn : List RegRow := [
  ⟨0x0, 1, 0x4, fun _ => 0xFC8004C0#32, 0x7EFFFFFF#32, 0x80000000#32, 0x00000000#32, 0x00000000#32, 0x00000000#32, 0x00000000#32⟩,
  ⟨0x4, 1, 0x4, fun _ => 0x0E10000C#32, 0x000000FF#32, 0xFFFF0000#32, 0x00000000#32, 0x00000000#32, 0x00000000#32, 0x00000000#32⟩,
  ⟨0x8, 1, 0x4, fun _ => 0x00000000#32, 0x00000000#32, 0x00000000#32, 0x00000000#32, 0x00000000#32, 0x00000000#32, 0x00000000#32⟩,
  ⟨0xC, 1, 0x4, fun _ => 0x00000000#32, 0x00000000#32, 0x00000000#32, 0x00000000#32, 0x00000000#32, 0x00000000#32, 0x00000000#32⟩
]

def rowsTly : List RegRow := [
  ⟨0x0, 1, 0x4, fun _ => 0x00000000#32, 0x0800FFFF#32, 0x00000000#32, 0x00000000#32, 0x00000000#32, 0xF7FF0000#32, 0x00000000#32⟩,
  ⟨0x4, 1, 0x4, fun _ => 0x00000000#32, 0x00000000#32, 0x00000000#32, 0x20000000#32, 0x00000000#32, 0x00000000#32, 0x00000000#32⟩,
  ⟨0x10, 1, 0x4, fun _ => 0x00000000#32, 0xFFFFFFFF#32, 0x00000000#32, 0x00000000#32, 0x00000000#32, 0x00000000#32, 0x00000000#32⟩,
  ⟨0x14, 1, 0x4, fun _ => 0x00000000#32, 0x00000001#32, 0x00000000#32, 0x00000000#32, 0x00000000#32, 0x00000000#32, 0x00000000#32⟩,
  ⟨0x18, 1, 0x4, fun _ => 0x80008001#32, 0x7800FFFF#32, 0x80000000#32, 0x00000000#32, 0x00000000#32, 0x00000000#32, 0x00000000#32⟩,
  ⟨0x1C, 1, 0x4, fun _ => 0x00A03C32#32, 0x3FFFFFFF#32, 0x00000000#32, 0x00000000#32, 0x00000000#32, 0x00000000#32, 0x00000000#32⟩,
  ⟨0x20, 1, 0x4, fun _ => 0x30800000#32, 0xF8FFFFFF#32, 0x00000000#32, 0x00000000#32, 0x00000000#32, 0x00000000#32, 0x00000000#32⟩,
  ⟨0x100, 24, 0x4, fun _ => 0x00000000#32, 0xFFFFFFFF#32, 0x00000000#32, 0x00000000#32, 0x00000000#32, 0x00000000#32, 0x00000000#32⟩,
  ⟨0x160, 1, 0x4, fun _ => 0x00000000#32, 0x0000017F#32, 0x00000000#32, 0x00000000#32, 0x00000000#32, 0x00000000#32, 0x00000000#32⟩
]

def rowsGlb : List RegRow := [
  ⟨0x10, 1, 0x4, fun _ => 0x00000000#32, 0x00000000#32, 0x00000000#32, 0x00000000#32, 0x00000000#32, 0x00000000#32, 0x00000000#32⟩,
  ⟨0x14, 1, 0x4, fun _ => 0x00000000#32, 0x00000000#32, 0x00000000#32, 0x00000000#32, 0x00000000#32, 0x800000FF#32, 0x00000000#32⟩,
  ⟨0x0, 1, 0x4, fun _ => (BitVec.ofNat 16 Config.vendorId ++ 0x5032#16), 0x00000000#32, 0x00000000#32, 0x00000000#32, 0x00000000#32, 0x00000000#32, 0x00000000#32⟩,
  ⟨0x4, 1, 0x4, fun _ => 0x50320000#32 ||| (if Config.order = .x then 0x10A#32 else 0x0A#32), 0x00000000#32, 0x00000000#32, 0x00000000#32, 0x00000000#32, 0x00000000#32, 0x00000000#32⟩,
  ⟨0x8, 1, 0x4, fun _ => BitVec.ofNat 32 Config.serial, 0x00000000#32, 0x00000000#32, 0x00000000#32, 0x00000000#32, 0x00000000#32, 0x00000000#32⟩,
  ⟨0xC, 1, 0x4, fun _ => BitVec.ofNat 32 (Config.serial / 2 ^ 32), 0x00000000#32, 0x00000000#32, 0x00000000#32, 0x00000000#32, 0x00000000#32, 0x00000000#32⟩
]

def rowsBoot : List RegRow := [
  ⟨0x0, 1, 0x4, fun _ => 0x00000000#32, 0x00000000#32, 0x00000000#32, 0x00000000#32, 0x00000000#32, 0x00000000#32, 0x00000000#32⟩,
  ⟨0x4, 1, 0x4, fun _ => 0x0FA14064#32, 0xFFF00FFF#32, 0x000FF000#32, 0x00000000#32, 0x00000000#32, 0x00000000#32, 0x00000000#32⟩,
  ⟨0x8, 1, 0x4, fun _ => 0x00000000#32, 0x00000000#32, 0x00000000#32, 0x00000000#32, 0x00000000#32, 0xF001FFFF#32, 0x00000000#32⟩,
  ⟨0xC, 1, 0x4, fun _ => BitVec.ofNat 32 (Config.svnFloor % 256 * 256), 0x00000000#32, 0x00000000#32, 0x00000000#32, 0x00000000#32, 0x00000000#32, 0x00000000#32⟩,
  ⟨0x10, 1, 0x4, fun _ => 0x00000000#32, 0x00000000#32, 0x00000000#32, 0x00000000#32, 0x00000000#32, 0x00000000#32, 0xE0000000#32⟩,
  ⟨0x14, 1, 0x4, fun _ => 0x00000000#32, 0x00000000#32, 0x00000000#32, 0x00000000#32, 0x00000000#32, 0x00000000#32, 0x00000000#32⟩,
  ⟨0x18, 1, 0x4, fun _ => 0x00000000#32, 0x00000000#32, 0x00000000#32, 0x00000000#32, 0x00000000#32, 0x00000000#32, 0x00000000#32⟩,
  ⟨0x1C, 1, 0x4, fun _ => 0x00000000#32, 0x000000FF#32, 0x00000000#32, 0x00000000#32, 0x00000000#32, 0x00000000#32, 0x00000000#32⟩,
  ⟨0x20, 1, 0x4, fun _ => 0x20000000#32, 0x20000000#32, 0x00000000#32, 0x00000000#32, 0x00000000#32, 0xC0000000#32, 0x00000000#32⟩,
  ⟨0x24, 1, 0x4, fun _ => 0x00000000#32, 0x00000000#32, 0x00000000#32, 0x00000000#32, 0x00000000#32, 0x00000000#32, 0x00000000#32⟩
]

/-- The window port registers: WIN_INDEX, WIN_CMD, WIN_STATUS and WIN_DATA (Table 17-4). -/
def rowsWin : List RegRow := [
  ⟨0x0, 1, 0x4, fun _ => 0#32, 0x001FFFFF#32, 0#32, 0#32, 0#32, 0#32, 0#32⟩,
  ⟨0x4, 1, 0x4, fun _ => 0#32, 0#32, 0#32, 0#32, 0#32, 0xC0001F3F#32, 0#32⟩,
  ⟨0x8, 1, 0x4, fun _ => 0#32, 0#32, 0#32, 0#32, 0#32, 0#32, 0#32⟩,
  ⟨0x80, 32, 0x4, fun _ => 0#32, 0xFFFFFFFF#32, 0#32, 0#32, 0#32, 0#32, 0#32⟩]

/-- BLOCK_LOCK of a block whose lock lies at `off` (Table 17-6). -/
def rowLock (off : Nat) : RegRow :=
  ⟨off, 1, 0x4, fun _ => 0x80000000#32, 0#32, 0#32, 0#32, 0#32, 0x3000FFFF#32, 0#32⟩

/-- Where a BAR0 address lies: its block (or window port), instance, offset in the instance. -/
structure Place where
  rows : List RegRow
  blk : Blk
  inst : Nat
  off : Nat

/-- The block map of Table 17-3; `none` for an address in no range of it. -/
def place (a : Nat) : Option Place :=
  if a < 0x100000 then
    let off := a % 0x10000
    let p (rows : List RegRow) (b : Blk) : Option Place := some ⟨rowLock 0xFFFC :: rows, b, 0, off⟩
    match a / 0x10000 with
    | 0 => p rowsGlb .GLB | 1 => p rowsFlt .FLT | 2 => p rowsTly .TLY | 3 => p rowsHrl .HRL
    | 4 => p rowsBoot .BOOT | 5 => p rowsTwn .TWN | 6 => p rowsShl .SHL | 7 => p rowsHst .HST
    | 8 => p rowsKey .KEY | 9 => p rowsCpg .CPG | 10 => p rowsSch .SCH | 11 => p rowsSrt .SRT
    | 12 => p rowsXpr .XPR | 13 => p rowsLdg .LDG | 14 => p rowsExm .EXM | _ => p rowsWdn .WDN
  else if a < 0x300000 then
    some ⟨rowLock 0xFFFC :: rowsPt, .PT, (a - 0x100000) / 0x10000, a % 0x10000⟩
  else if a < 0x310000 then some ⟨rowLock 0xFFFC :: rowsWhf, .WHF, 0, a % 0x10000⟩
  else if a < 0x320000 then some ⟨rowLock 0xFFFC :: rowsFsi, .FSI, 0, a % 0x10000⟩
  else if a < 0x338000 then some ⟨rowLock 0xFFC :: rowsUlk, .ULK, (a - 0x320000) / 0x1000, a % 0x1000⟩
  else if 0x340000 ≤ a ∧ a < 0x350000 then some ⟨[rowLock 0xFFFC], .MEM, 0, a % 0x10000⟩
  else if 0x400000 ≤ a ∧ a < 0x800000 then
    some ⟨rowLock 0xFFFC :: rowsGld, .GLD, (a - 0x400000) / 0x10000, a % 0x10000⟩
  else if 0x800000 ≤ a ∧ a < 0x86A000 then some ⟨rowsWin, .HST, (a - 0x800000) / 0x1000, a % 0x1000⟩
  else none

/-- The row of the map an offset lies in. -/
def RegRow.holds (r : RegRow) (off : Nat) : Bool :=
  r.off ≤ off && (off - r.off) % r.stride == 0 && (off - r.off) / r.stride < r.count

/-- The register at a BAR0 address: its row and its index in the row. -/
def regAt (a : Nat) : Option (RegRow × Nat) :=
  match place a with
  | none => none
  | some p =>
    match p.rows.find? (fun r => r.holds p.off) with
    | some r => some (r, (p.off - r.off) / r.stride)
    | none => none

/-- Reset value of the word at an address; an address with no register reads as zero. ULK_STATUS resets with LEADER
the lane's own number (Table 12-4). -/
def regReset (a : Nat) : Word :=
  match place a with
  | none => 0#32
  | some p =>
    match p.rows.find? (fun r => r.holds p.off) with
    | some r =>
      if p.blk = .ULK ∧ p.off = 4 then BitVec.ofNat 32 p.inst else r.reset ((p.off - r.off) / r.stride)
    | none => 0#32

end Sys2Proof.Machine
end

