-- ==== Sys2Proof/Machine/StFlt.lean ====
section
/-! DEFINITION. State of Bellman, the outboxes of the blocks and the locks: what 14_faults_and_safe_state.md keeps
besides register words. -/

namespace Sys2Proof.Machine

set_option autoImplicit false

/-- A fault message (R443, Table 14-1). `cls` is the class: 0 CORRECTED, 1 CONTAINED, 2 FATAL. -/
structure Msg where
  kind : Kind
  src : Source
  addr : Nat
  time : Nat
  severe : Bool
  cls : Nat
deriving DecidableEq, Repr

/-- A counting filter of one kind and source (R456). `open_` is the opening time of the window, if one is open;
`severe` holds until the kind's STATUS is cleared; `queued` says the first SEVERE message was queued (R457). -/
structure FilterSt where
  open_ : Option Nat
  events : Nat
  severe : Bool
  queued : Bool
deriving DecidableEq, Repr

/-- A filter with no window open. -/
def FilterSt.idle : FilterSt := ⟨none, 0, false, false⟩

/-- A persisting cause of a kind marked "cond" (R452, R461); `sub` is the side of a kind whose address carries one. -/
structure Cause where
  kind : Kind
  src : Source
  sub : Nat
deriving DecidableEq, Repr

/-- Status word of a kind (R461). `fatal` says a FATAL message of it arrived since the clear (R462). -/
structure KindSt where
  status : Bool
  severe : Bool
  count : Nat
  fatal : Bool
deriving DecidableEq, Repr

/-- A kind with no message since its clear. -/
def KindSt.clear : KindSt := ⟨false, false, 0, false⟩

/-- Units Bellman isolates (Table 14-8), numbered as FLT_ISO_CMD.UNIT (Table 14-16). -/
inductive IsoUnit where
  | engine | guild | port | bank | memory | lane | uplink
deriving DecidableEq, Repr

/-- An isolated unit and the kinds that isolated it (R460). `testing` says Warden's test of a restored Ledger bank
runs (R460, R594). -/
structure Iso where
  unit : IsoUnit
  num : Nat
  kinds : List Kind
  testing : Bool
deriving DecidableEq, Repr

/-- Bellman's state. -/
structure Flt where
  boxes : Tab (List Msg)
  lost : Tab (Nat × Nat)
  filters : Tab FilterSt
  causes : List Cause
  queue : List Msg
  overflow : Nat
  first0 : Option Msg
  first1 : Option Msg
  first2 : Option Msg
  kinds : Tab KindSt
  iso : List Iso
  fatalLine : Bool
  safe : Bool
  mxpInv : Bool
  restartLimit : Bool
  exitRefused : Bool
  restarts : Nat
  limited : Tab Nat
deriving DecidableEq, Repr

/-- Bellman at power-on: nothing recorded (R587). -/
def Flt.reset : Flt :=
  ⟨[], [], [], [], [], 0, none, none, none, [], [], false, false, false, false, false, 0, []⟩

/-- A message's words as FLT_QUEUE and FLT_FIRST show them (Table 14-1). -/
def Msg.word (m : Msg) : Nat → Word
  | 0 => BitVec.ofNat 32 (2 ^ 31 + m.cls % 4 * 2 ^ 29 + (if m.severe then 2 ^ 28 else 0) + m.kind.code * 2 ^ 20
      + m.src.code * 256 + m.addr / 2 ^ 32 % 256)
  | 1 => BitVec.ofNat 32 m.addr
  | 2 => BitVec.ofNat 32 m.time
  | 3 => BitVec.ofNat 32 (m.time / 2 ^ 32 % 2 ^ 24)
  | _ => 0#32

/-- What FLT_KIND[k] word 0 configures (Table 14-18). -/
structure KindCfg where
  cls : Nat
  int : Bool
  iso : Bool
  fatal : Bool
  sevInt : Bool
  sevIso : Bool
  sevFatal : Bool
  n : Nat
  win : Nat
deriving DecidableEq, Repr

/-- Reading of FLT_KIND[k] word 0: class 3 acts as 2; WIN_VAL 0 acts as 1 and above 1,000 as 1,000; the window in
ns (Table 14-18). -/
def KindCfg.ofWord (w : Word) : KindCfg :=
  let v := (w.extractLsb' 0 10).toNat
  let v := if v = 0 then 1 else min v 1000
  { cls := min (w.extractLsb' 30 2).toNat 2
    int := w.getLsbD 29, iso := w.getLsbD 28, fatal := w.getLsbD 27
    sevInt := w.getLsbD 26, sevIso := w.getLsbD 25, sevFatal := w.getLsbD 24
    n := (w.extractLsb' 16 8).toNat
    win := v * (if w.getLsbD 15 then 1000000 else 1000) }

/-- The class of a message (R457): a SEVERE one of a CORRECTED kind is CONTAINED. -/
def KindCfg.classOf (c : KindCfg) (severe : Bool) : Nat := if severe ∧ c.cls = 0 then 1 else c.cls

/-- Key of the filter of a kind and source. -/
def filterKey (k : Kind) (src : Source) : Nat := k.code * 4096 + src.code

/-- The counting filter at an event (R456): the new filter state, and whether this event is the N-th of its
window. -/
def FilterSt.event (c : KindCfg) (now : Nat) (f : FilterSt) : FilterSt × Bool :=
  if c.n = 0 then (f, false)
  else
    let cont := match f.open_ with
      | some t => decide (now < t + c.win)
      | none => false
    let f1 : FilterSt := if cont then { f with events := f.events + 1 } else { f with open_ := some now, events := 1 }
    if f1.events = c.n then ({ f1 with severe := true }, true) else (f1, false)

/-- Entries an outbox holds (R445). -/
def outboxSize : Nat := 8

/-- The youngest message of a class below `c`, taken out of an outbox (oldest first), with that message's class. -/
def displace (c : Nat) (box : List Msg) : Option (List Msg × Nat) :=
  match box.reverse.findIdx? (fun m => decide (m.cls < c)) with
  | none => none
  | some i => some ((box.reverse.eraseIdx i).reverse, ((box.reverse[i]?).map (·.cls)).getD 0)

/-- A message placed in its outbox (R445): a full outbox displaces its youngest message of a lower class, or refuses
the new one; every message so lost is counted with the highest class lost. -/
def Flt.post (f : Flt) (m : Msg) : Flt :=
  let b := m.src.box
  let box := Tab.get (fun _ => []) f.boxes b
  if box.length < outboxSize then { f with boxes := Tab.set (fun _ => []) f.boxes b (box ++ [m]) }
  else
    let l := Tab.get (fun _ => (0, 0)) f.lost b
    match displace m.cls box with
    | some (rest, c) =>
      { f with boxes := Tab.set (fun _ => []) f.boxes b (rest ++ [m])
               lost := Tab.set (fun _ => (0, 0)) f.lost b (l.1 + 1, max l.2 c) }
    | none => { f with lost := Tab.set (fun _ => (0, 0)) f.lost b (l.1 + 1, max l.2 m.cls) }

/-- FAULT_RAISE (R443, R445, R446, R456): the filter is stepped, the message posted, and the fatal line driven when
the reaction that applies includes FATAL. -/
def Flt.raise (f : Flt) (cfg : Word) (now : Nat) (k : Kind) (src : Source) (addr : Nat) : Flt :=
  let c := KindCfg.ofWord cfg
  let key := filterKey k src
  let e := (Tab.get (fun _ => FilterSt.idle) f.filters key).event c now
  let m : Msg := ⟨k, src, addr % 2 ^ 40, now % 2 ^ 56, e.2, c.classOf e.2⟩
  let f1 := { f with filters := Tab.set (fun _ => FilterSt.idle) f.filters key e.1 }
  let f2 := f1.post m
  if (if e.2 then c.sevFatal else c.fatal) then { f2 with fatalLine := true } else f2

/-- A cause is active (R461). -/
def Flt.active (f : Flt) (k : Kind) (src : Source) (sub : Nat) : Bool := f.causes.contains (⟨k, src, sub⟩ : Cause)

/-- Bits CAUSE_ACTIVE of a kind: a cause of it persists at some source. -/
def Flt.causeOf (f : Flt) (k : Kind) : Bool := f.causes.any (fun c => c.kind = k)

/-- The onset of a cause: it is recorded and one message is sent; a cause already active sends none (R461). -/
def Flt.onset (f : Flt) (cfg : Word) (now : Nat) (k : Kind) (src : Source) (sub addr : Nat) : Flt :=
  if f.active k src sub then f
  else ({ f with causes := f.causes ++ [(⟨k, src, sub⟩ : Cause)] } : Flt).raise cfg now k src addr

/-- The end of a cause. -/
def Flt.endCause (f : Flt) (k : Kind) (src : Source) (sub : Nat) : Flt :=
  { f with causes := f.causes.filter (fun c => c ≠ (⟨k, src, sub⟩ : Cause)) }

/-- Every filter of a kind, by its code, restarted with no window open (R456, R461): `forget` also forgets that sources were
severe, which a clear of STATUS does (R457). -/
def Flt.restartFilters (f : Flt) (code : Nat) (forget : Bool) : Flt :=
  { f with filters := f.filters.filterMap (fun p =>
      if p.1 / 4096 = code then
        let x : FilterSt := if forget then FilterSt.idle else { p.2 with open_ := none, events := 0 }
        if x = FilterSt.idle then none else some (p.1, x)
      else some p) }

/-- A unit is isolated. -/
def Flt.isolated (f : Flt) (u : IsoUnit) (n : Nat) : Bool := f.iso.any (fun i => i.unit = u ∧ i.num = n)

end Sys2Proof.Machine
end

