-- ==== Sys2Proof/Machine/StPon.lean ====
section
/-! DEFINITION. State of the PON ports, of activation and of bandwidth assignment: what 02_pon_line_framing.md,
03_activation_and_ranging.md and 04_bandwidth_assignment.md keep besides register words. -/

namespace Sys2Proof.Machine

set_option autoImplicit false

/-- What a grant is for (R109, R112): data of an allocation, a fixed run, a CTI pre-grant, ranging, re-ranging, a
PLOAM-only grant (registration, LOST), or a discovery window. -/
inductive GrantKind where
  | ord | fixed | cti | range | rerange | ploam | disc
deriving DecidableEq, Repr

/-- One allocation structure (R107, R109): allocation index on the tree (1,024 and above: none), Alloc-ID, class,
payload G, the part of G made in the assured pass, the DBRu and PLOAM flags. -/
structure Grant where
  idx : Nat
  allocId : Nat
  cls : Nat
  g : Nat
  assured : Nat
  dbru : Bool
  ploam : Bool
deriving DecidableEq, Repr

/-- One burst of a map (R105 to R109): times in units of the side's time line. -/
structure Burst where
  kind : GrantKind
  onu : Nat
  row : Nat
  prof : Nat
  start : Nat
  len : Nat
  grants : List Grant
deriving DecidableEq, Repr

/-- A bandwidth map of one side for one frame, with the quiet spans that fall in it. -/
structure BwMap where
  sfc : Nat
  bursts : List Burst
  quiet : List (Int × Int)
deriving DecidableEq, Repr

/-- A downstream PLOAM message (Table 3-1). -/
inductive PloamBody where
  | assignOnuId (sn : Nat) (onu : Nat)
  | rangingTime (eqd : Int)
  | deactivate
  | disableSn (sn : Nat) (enable : Bool)
  | requestRegistration
  | burstProfile (entry : Nat)
  | keyControl (index : Nat) (confirm : Bool)
  | other (mtype : Nat)
deriving DecidableEq, Repr

/-- A queued message: the ONU-ID it is addressed to (1023 broadcast), its sequence number, and the tries left of it
as a retransmission. -/
structure Ploam where
  onu : Nat
  body : PloamBody
  seq : Nat
  retry : Nat
deriving DecidableEq, Repr

/-- An acknowledgement wait (R66): the message, and the frame K that carried it. -/
structure AckWait where
  msg : Ploam
  frame : Nat
deriving DecidableEq, Repr

/-- PLOAM queue of a side, its waits, and the next sequence number. -/
structure PloamQ where
  queue : List Ploam
  waits : List AckWait
  seq : Nat
deriving DecidableEq, Repr

/-- A burst expected by the receiver, with the profile entry copied at map lock (R46): preamble bits, delimiter
bits, SHORT mark and FEC, the pattern words PRE_PAT, DELIM_HI and DELIM_LO; the predicted first bit from the start of its
frame's PSBd, in bits at its rate. -/
structure Exp where
  sfc : Nat
  burst : Burst
  pre : Nat
  delim : Nat
  short : Bool
  fec : Bool
  pattern : List Word
  predicted : Int
  wide : Nat
deriving DecidableEq, Repr

/-- A granted span at the receiver, in units of the side's time line counted on from frame to frame: the ONU-ID (1024: a
quiet window), whether the burst is a fixed one, and the two ends (R60, R130). -/
structure RxSpan where
  onu : Nat
  fixed : Bool
  a : Int
  b : Int
deriving DecidableEq, Repr

/-- A frame taken at map lock (R26, R38): its SFC, the map to send, whether it is a fallback of R26, the partition; `acked`
are the copies in it that an Acknowledge answered after the lock (R66). -/
structure Locked where
  sfc : Nat
  map : BwMap
  late : Bool
  ploam : List Ploam
  exps : List Exp
  acked : List Ploam
deriving DecidableEq, Repr

/-- An alignment tracker (R41): bit position of the match, decoded SFC. -/
structure Tracker where
  pos : Nat
  sfc : Nat
deriving DecidableEq, Repr

/-- An XGEM frame sent (R38, R307): the word of the FS frame at which its payload starts, its context, key index, whether
it ends its packet, and the payload as sent. -/
structure XgemTx where
  word : Nat
  ctx : Nat
  keyIx : Nat
  last : Bool
  bytes : List Byte
deriving DecidableEq, Repr

/-- The last PSBd and FS frame a side sent (R36 to R38): SFC, third structure's body, map, PLOAM partition; the 192 bits of
the PSBd; its start after the frame tick in 50G bit periods (R32); FEC and scrambler on (R37); the PLOAM integrity codes
(R310); content bytes filled so far, those that are idle fill, and the XGEM frames. -/
structure DsFrame where
  sfc : Nat
  body : Nat
  map : BwMap
  ploam : List Ploam
  psbd : Nat
  start : Int
  fec : Bool
  scr : Bool
  mics : List Nat
  pos : Nat
  fill : Nat
  xgem : List XgemTx
deriving DecidableEq, Repr

/-- Receiver loop state of a burst lane (R50, R391 to R393): frozen between bursts, or adapting from the preset of
a slot or from the neutral setting; `quiet` over a quiet span, from the neutral setting with acquisition gains; `continuous`
in an alignment mode. -/
inductive RxLoop where
  | frozen
  | burst (slot : Option Nat)
  | quiet
  | continuous
deriving DecidableEq, Repr

/-- One side of a port: lasers' transmission, the map buffer, the locked frame and the frame of the last lock, the frame
last sent; the receiver's expected bursts (ordinary ones in order, ranging ones), the burst under way with the offset
found and whether it was missed, frames of wide windows left after a takeover and the first of them (R353), loop state, BRST pulses, the times the loops were set to neutral in quiet spans (R392), the
frames of R61 (SFC, bursts to come, one received) and their run; alignment trackers, expected SFC and misses; the
committed and the sent third structure (R62), the third frame of a loss run; the last frame that carried a broadcast deactivation (R593);
the packet costs of the maps of the last frames sent (R151);
the last four frames in whose time an ordinary burst was received (Table 10-4); granted spans and quiet windows of the last
frames (R60, R130); the burst last received, with whether its header let its content through (R44). -/
structure PonSide where
  sending : Bool
  buf : List BwMap
  locked : Option Locked
  lastLock : Option Nat
  sent : Option DsFrame
  rxq : List Exp
  rng : List Exp
  cur : Option Exp
  found : Option Int
  missed : Bool
  wide : Nat
  wideFrom : Option Nat
  rx : RxLoop
  brst : Nat
  neutral : Nat
  ordFrames : List (Nat × Nat × Bool)
  lossRun : Nat
  lossSfc : Nat
  trackers : List Tracker
  expSfc : Nat
  miss : Nat
  commit : Nat
  body : Nat
  bdeact : Option Nat
  costs : List (Nat × Nat)
  heard : List Nat
  spans : List RxSpan
  content : Option Exp
deriving DecidableEq, Repr

/-- A side at reset. -/
def PonSide.reset : PonSide :=
  ⟨false, [], none, none, none, [], [], none, none, false, 0, none, .frozen, 0, 0, [], 0, 0, [], 0, 0, 0, 0, none, [], [], [], none⟩

/-- What a port keeps for both sides: the SFC of the frame now being sent, whether a frame was started since reset
or loaded, an accepted phase offset waiting for the tick (R33, R34), and the output time at
the last tick (R382). -/
structure PonPort where
  sfc : Nat
  started : Bool
  phase : Option Nat
  align : Int × Int
  tick : Int
deriving DecidableEq, Repr

/-- A port at reset. -/
def PonPort.reset : PonPort := ⟨0, false, none, (0, 0), 0⟩

/-- A receiver preset (R48, R49, R63): VALID, learn time in ns of HRL_FREE, learn temperature in °C plus 64, margin,
settings (38:0). `known` says the slot has a stored preset at all (R50). -/
structure Preset where
  known : Bool
  valid : Bool
  learned : Nat
  temp : Nat
  margin : Nat
  settings : Nat
deriving DecidableEq, Repr

/-- No stored preset. -/
def Preset.none : Preset := ⟨false, false, 0, 0, 0, 0⟩

/-- 02_pon_line_framing.md besides words. `temps` are the 16 junction sensors in °C plus 64. -/
structure Pon where
  sides : Tab PonSide
  ports : Tab PonPort
  presets : Tab Preset
  temps : Tab Nat
deriving DecidableEq, Repr

/-- State of a slot (Table 3-4). -/
inductive SlotState where
  | free | assigned | ranged | active | lost | disabled
deriving DecidableEq, Repr

/-- STATE code of Table 3-16. -/
def SlotState.code : SlotState → Nat
  | .free => 0 | .assigned => 1 | .ranged => 2 | .active => 3 | .lost => 4 | .disabled => 5

/-- What a slot waits for from Wharfinger: nothing, a ranging grant due, or one outstanding in a map. -/
inductive RangeReq where
  | none | due | placed
deriving DecidableEq, Repr

/-- One ONU slot (Table 3-16 and the rules it serves): `hold` is HOLD of R93 or R95, `rtime` says a Ranging_Time is
waiting to leave under the hold, `wide` that the offset passed 64 bits (R93), `offs` the last recorded offsets
(R91), `regOk` the Registration matched, `keyOk` the first data key is in force, `keyWait` the frame that carried the
first Key_Control, `seen` that the monitor saw its delimiter outside the window and whether by more than 64 bits (R92, R93),
`respAt` the frame of the map whose re-ranging response asked for the hold (R89). -/
structure Slot where
  state : SlotState
  side : Nat
  row : Nat
  range : RangeReq
  hold : Bool
  tries : Nat
  missed : Nat
  authIdx : Nat
  sn : Option Nat
  offs : List Int
  eqd : Int
  rtdc : Int
  regOk : Bool
  keyOk : Bool
  keyWait : Option Nat
  seen : Option Bool
  newEqd : Option Int
  holdFrom : Nat
  respAt : Option Nat
deriving DecidableEq, Repr

/-- A FREE slot with no serial number. -/
def Slot.free : Slot :=
  ⟨.free, 0, 0, .none, false, 0, 0, 0xFFFF, none, [], 0, 0, false, false, none, none, none, 0, none⟩

/-- Discovery of a side (R73 to R75): LFSR, start of the next period, rotation index of the 50G rows, the windows
placed (frame of the grant, row), and the silent windows run (R99). -/
structure Disc where
  lfsr : Nat
  next : Option Nat
  rowIx : Nat
  wins : List (Nat × Nat)
  silent : Nat
deriving DecidableEq, Repr

/-- A rogue hunt (R96, R97): side, whether events of type WINDOW and of type UNSCHEDULED triggered it, candidates left and
candidate under test, each as slot and serial number at the start of the hunt; the frame that carried the disable message,
stray light seen in the watch, candidates tested. -/
structure Hunt where
  side : Nat
  byWindow : Bool
  byEnergy : Bool
  cands : List (Nat × Nat)
  test : Option (Nat × Nat)
  sentAt : Option Nat
  stray : Bool
  tested : Nat
deriving DecidableEq, Repr

/-- A STRAY_LIGHT event kept for a hunt (R96): side, ONU-IDs named (of type WINDOW) or ending within 2 µs before
(of type UNSCHEDULED). -/
structure StrayRec where
  side : Nat
  window : Bool
  onus : List Nat
deriving DecidableEq, Repr

/-- A CLEAN response the Steward has not answered (R76, R79): side, row of its window, serial number, RTD_c. -/
structure CleanResp where
  side : Nat
  row : Nat
  sn : Nat
  rtdc : Int
deriving DecidableEq, Repr

/-- What a tree keeps for activation: ramp, CLEAN responses in order, admissions and slots that left ACTIVE in the interval, hunt, stray events
of the filter window, the side of the message that turned the STRAY_LIGHT source severe (R96), a command the Steward has not
taken (R102). -/
structure Tree where
  ramp : Bool
  clean : List CleanResp
  admitted : Nat
  left : Nat
  hunt : Option Hunt
  huntDone : List Nat
  strays : List StrayRec
  severe : Option Nat
  cmd : Option (Nat × Nat)
deriving DecidableEq, Repr

/-- A tree at reset. -/
def Tree.reset : Tree := ⟨false, [], 0, 0, none, [], [], none, none⟩

/-- An authorization entry (Tables 3-2 and 16-7). -/
structure Auth where
  sn : Nat
  port : Nat
  side : Nat
  slot : Nat
  row : Nat
  regId : Option Nat
  template : Nat
deriving DecidableEq, Repr

/-- 03_activation_and_ranging.md besides words. -/
structure Act where
  slots : Tab Slot
  ploam : Tab PloamQ
  disc : Tab Disc
  trees : Tab Tree
  auth : List Auth
deriving DecidableEq, Repr

/-- Run-time state of an allocation (Table 4-1 words 5 to 7, R114, R126): peak and assured credit, last report and
its frame, POLL_CNT, payload granted by frame (INFLIGHT), frames left at PKT_EST 72, shortfall of R139. -/
structure AllocRt where
  pCred : Nat
  aCred : Nat
  report : Nat
  repFrame : Option Nat
  poll : Nat
  inflight : List (Nat × Nat × Nat)
  under : Nat
  short : Nat
deriving DecidableEq, Repr

/-- An allocation at reset. -/
def AllocRt.reset : AllocRt := ⟨0, 0, 0, none, 0, [], 0, 0⟩

/-- A CTI record in Wharfinger's queue (Table 4-2, R121): its allocation, the bytes still to grant, the frame it
targets and the position in time-line units of that frame; `left` the frame whose map left these bytes over, 0 for a record as
taken, and whether it has been counted in CTI_RECORDS. -/
structure CtiRec where
  tree : Nat
  index : Nat
  bytes : Nat
  frame : Nat
  pos : Nat
  left : Nat
  counted : Bool
deriving DecidableEq, Repr

/-- The maps of one build: by side key, with the CAP held for them, the tree pages, and the snapshot: slot states, reports,
burst profile and preset registers, presets with the sensors and the time they are judged at, the CTI records waiting (R46,
R51, R113, R134); the algorithm in use; the sides whose map the Assayer has checked, those it has released, those whose bytes
were carried at a lock (R115); and whether the second pass of R137 ran. -/
structure Build where
  maps : Tab BwMap
  cap : Nat
  pages : Tab Nat
  slots : Tab Slot
  rts : Tab AllocRt
  profs : List (Nat × Word)
  presets : Tab Preset
  temps : Tab Nat
  time : Nat
  cti : List CtiRec
  image : Bool
  done : List Nat
  released : List Nat
  carried : List Nat
  second : Bool
deriving DecidableEq, Repr

/-- Swap of a tree's page (R132, R133): validating, accepted, or waiting for the frame it takes effect at. -/
inductive Swap where
  | none
  | validating
  | accepted
  | building (frame : Nat)
deriving DecidableEq, Repr

/-- 04_bandwidth_assignment.md besides words: `alloc` run-time state, the builds under way, CTI records handed
off by engines (tree, index, WSTART, bytes), the CTI queue, swaps, the
repair log's 64-bit entries and the entries not yet read, and by tree the number of frames up to the last one built. -/
structure Whf where
  alloc : Tab AllocRt
  builds : List Build
  handoffs : List (Nat × Nat × Nat × Nat)
  cti : List CtiRec
  swap : Tab Swap
  log : Tab Nat
  logUnread : List Nat
  built : Tab Nat
deriving DecidableEq, Repr

/-- Bandwidth assignment at reset: every entry in reset state, the ROM algorithm in use. -/
def Whf.reset : Whf := ⟨[], [], [], [], [], [], [], []⟩

end Sys2Proof.Machine
end

