-- ==== Sys2Proof/Machine/StCpg.lean ====
section
/-! DEFINITION. Packets, buffers, queues, token buckets and statistics: the state of
08_buffers_queues_shaping.md besides words, and the packet descriptor of 05_forwarding_pipeline.md. -/

namespace Sys2Proof.Machine

set_option autoImplicit false

/-- The packet descriptor (R142, Table 5-1). `dir` and `express` are bits; `dir` true is upstream.
`carrier` is the carrier header of a packet bound for a Shasol lane (R433), empty for every other. -/
structure Desc where
  handle : Nat
  dir : Bool
  pass : Nat
  epoch : Nat
  express : Bool
  length : Nat
  cls : Nat
  source : Nat
  onu : Nat
  flow : Nat
  seq : Nat
  xprof : Nat
  ctxV : Bool
  reason : Nat
  xctx : Nat
  queue : Nat
  verdict : Nat
  bucket : Nat
  tIn : Nat
  repl : Nat
  mirror : Nat
  carrier : List Byte
deriving DecidableEq, Repr

/-- BUCKET value of a descriptor, queue or node that names none. -/
abbrev noBucket : Nat := 0x1FFFF

/-- A descriptor with nothing set. -/
def Desc.zero : Desc :=
  ⟨0, false, 0, 0, false, 60, 0, 0, 0, 0, 0, 0, false, 0, 0, 0, 0, noBucket, 0, 0, 0, []⟩

/-- A buffer's state (R261) and the frame bytes it holds. -/
structure Buf where
  held : Bool
  ref : Nat
  gen : Nat
  bytes : List Byte
deriving DecidableEq, Repr

/-- A free buffer that was never allocated. -/
def Buf.free : Buf := ⟨false, 0, 0, []⟩

/-- A queued packet: descriptor, enqueue time, yellow mark. -/
structure QPkt where
  d : Desc
  time : Nat
  yellow : Bool
deriving DecidableEq, Repr

/-- A queue (R277 to R279): on-chip part, packets waiting for their Cellar write, Cellar part with its frame bytes,
pages held, bytes used in them and bytes of the first one already read, spill mode, deficit, DROPS. -/
structure Queue where
  onchip : List QPkt
  writes : List QPkt
  cellar : List (QPkt × List Byte)
  pages : Nat
  used : Nat
  off : Nat
  spill : Bool
  deficit : Nat
  drops : Nat
  wrapped : Bool
deriving DecidableEq, Repr

/-- An empty queue. -/
def Queue.empty : Queue := ⟨[], [], [], 0, 0, 0, false, 0, 0, false⟩

/-- What a top node holds (R275, R281): buffers of each pool, Cellar pages, write backlog in bytes, dropping. -/
structure Top where
  h0 : Nat
  h1 : Nat
  h2 : Nat
  h3 : Nat
  pages : Nat
  backlog : Nat
  dropping : Bool
deriving DecidableEq, Repr

/-- A top node that holds nothing. -/
def Top.empty : Top := ⟨0, 0, 0, 0, 0, 0, false⟩

/-- Deficit round robin of a node: place in the round, whether that place has had its quantum, the node's own deficit
at its parent. -/
structure NodeRt where
  ptr : Nat
  fresh : Bool
  deficit : Nat
deriving DecidableEq, Repr

/-- A node whose round starts at its first member. DESIGN CHOICE (log entry 7). -/
def NodeRt.reset : NodeRt := ⟨0, true, 0⟩

/-- Configuration of a bucket in force (R290): mode, actions, signed overhead, rates and bursts. -/
structure BkCfg where
  mode : Nat
  yellow : Nat
  red : Nat
  ovh : Int
  cir : Nat
  pir : Nat
  cbs : Nat
  pbs : Nat
deriving DecidableEq, Repr

/-- A token bucket (R289, R290): levels in 1/32,768 byte, last refill in µs, configuration in force, pending one,
pending DEBT_CLEAR. -/
structure Bkt where
  c : Int
  p : Int
  last : Nat
  cfg : BkCfg
  pend : Option BkCfg
  debt : Bool
deriving DecidableEq, Repr

/-- A bucket at reset. -/
def Bkt.reset : Bkt := ⟨0, 0, 0, ⟨0, 0, 0, 0, 0, 0, 0, 0⟩, none, false⟩

/-- A statistics entry's values (R295). -/
structure Stat where
  start : Nat
  count : Nat
  dMin : Nat
  dMax : Nat
  dSum : Nat
  tMin : Nat
  tMax : Nat
  tSum : Nat
  dBins : List Nat
  tBins : List Nat
deriving DecidableEq, Repr

/-- An entry with no sample. -/
def Stat.reset : Stat := ⟨0, 0, 0, 0, 0, 0, 0, 0, [0, 0, 0, 0, 0, 0, 0, 0], [0, 0, 0, 0, 0, 0, 0, 0]⟩

/-- A packet on its way out: descriptor, frame bytes, bytes already sent, and whether its pieces are to be encrypted (R306). -/
structure Out where
  d : Desc
  bytes : List Byte
  sent : Nat
  enc : Bool
deriving DecidableEq, Repr

/-- 08_buffers_queues_shaping.md besides words. `cipher` holds packets selected for a PON side, by side key; `egress`
those ready for a framer (side key) or an uplink lane or Shasol lane (64 + egress node); `sweep` is the time of the last
background sweep of the buckets in µs. -/
structure Cpg where
  bufs : Tab Buf
  queues : Tab Queue
  tops : Tab Top
  onus : Tab NodeRt
  rounds : Tab NodeRt
  buckets : Tab Bkt
  stats : Tab Stat
  cipher : Tab (List Desc)
  egress : Tab (List Out)
  sweep : Nat
deriving DecidableEq, Repr

/-- Cooperage at reset: every buffer free, every queue empty. -/
def Cpg.reset : Cpg := ⟨[], [], [], [], [], [], [], [], [], 0⟩

end Sys2Proof.Machine
end

