-- ==== Sys2Proof/Machine/StEng.lean ====
section
/-! DEFINITION. Engines, guilds, Sorter and admission: the state of 05_forwarding_pipeline.md and
06_journeyman_engines.md besides words. -/

namespace Sys2Proof.Machine

set_option autoImplicit false

/-- A deferred effect of a pass (R192 to R194). -/
inductive Deferred where
  | store (addr size v : Nat)
  | dadd (addr v : Nat)
  | dor (addr v : Nat)
  | dinc (addr : Nat)
  | handoff (tree index wstart bytes : Nat)
deriving DecidableEq, Repr

/-- A result slot (R189, R190): idle, its lookup outstanding (not searched, or searched and not delivered), or holding
a result. -/
inductive LSlot where
  | idle
  | out (exm soft : Bool) (prof : Nat) (key : List Byte)
  | found (exm soft : Bool) (r : LRes)
  | held (r : LRes)
deriving DecidableEq, Repr

/-- The slot's lookup is outstanding. -/
def LSlot.busy : LSlot → Bool
  | .out _ _ _ _ => true | .found _ _ _ => true | _ => false

/-- FLAGS (Table 6-2). -/
structure Flags where
  z : Bool
  n : Bool
  c : Bool
  v : Bool
deriving DecidableEq, Repr

/-- What the parse assist stands on (R188, R166): header offset and type, the type SETHT named, layers counted, the
frame offset its outer headers leave to the next header, none while no length was walked. -/
structure Parse where
  hp : Nat
  ht : Nat
  set : Option Nat
  lc : Nat
  lim : Option Nat
deriving DecidableEq, Repr

/-- A context that holds a pass (R181, Table 6-2): the Sorter packet it serves (or Warden's test pass), the descriptor as
code changed it, whether the window load is outstanding, the slot it waits for, registers w1 to w31, key buffers, PC, flags, parse
assist, slots and lookups spent, window growth, call stack, scratch, window and the number of frame bytes loaded, result
slots, deferred effects, whether a SETV has issued. -/
structure Ctx where
  flight : Nat
  test : Bool
  d : Desc
  loading : Bool
  wait : Option Nat
  regs : Tab Word
  kb : Tab (List Byte)
  pc : Nat
  flags : Flags
  parse : Parse
  slots : Nat
  looks : Nat
  wdelta : Int
  calls : List Nat
  scratch : Tab Byte
  win : List Byte
  loaded : Nat
  res : Tab LSlot
  eff : List Deferred
  setv : Bool
deriving DecidableEq, Repr

/-- A context at the start of a pass (R185). -/
def Ctx.start (flight : Nat) (test : Bool) (d : Desc) (pc : Nat) : Ctx :=
  ⟨flight, test, d, true, none, [], [], pc, ⟨false, false, false, false⟩, ⟨0, 0, none, 0, none⟩, 0, 0, 0, [], [], [], 0, [], [], false⟩

/-- Result of a test pass (R472): descriptor, window, LENGTH, deferred effects, trap code. -/
structure TestOut where
  guild : Nat
  engine : Nat
  flight : Nat
  d : Desc
  win : List Byte
  eff : List Deferred
  trap : Option Nat
deriving DecidableEq, Repr

/-- A guild's memory and measures: words of banks A and B as segments (Table 6-7), shared data, slots issued and first
passes ended in the present 1 ms (R183), packets dispatched in the present pace window (R471), the engine it chose last
(R157), trap log entries not yet read (Table 6-17). -/
structure Guild where
  bankA : Tab Word
  bankB : Tab Word
  shared : Tab Byte
  slotSum : Nat
  packets : Nat
  dispatched : Nat
  last : Nat
  unread : List Nat
deriving DecidableEq, Repr

/-- A guild at reset: engine 0 is the first it will choose (DESIGN CHOICE, log entry 155). -/
def Guild.reset : Guild := ⟨[], [], [], 0, 0, 0, 15, []⟩

/-- 06_journeyman_engines.md besides words: contexts by guild × 64 + engine × 4 + context, guilds, test passes that
committed to Warden, the context each engine issued from last (R182), engines that failed and are not yet retired (R201). -/
structure Eng where
  ctxs : Tab (Option Ctx)
  guilds : Tab Guild
  tests : List TestOut
  turn : Tab Nat
  failed : List Nat
deriving DecidableEq, Repr

/-- Engines at reset: every context free. The round over an engine's contexts starts at context 0 (DESIGN CHOICE, log entry
155). -/
def Eng.reset : Eng := ⟨[], [], [], [], []⟩

/-- An engine-path packet Sorter holds (R159 to R164, R199, R200, R209): its number, descriptor, replays so far, code
generation of its first pass, the context it is on, whether its verdict is complete (and it was dropped by a limit),
whether it was skipped. -/
structure Flight where
  id : Nat
  d : Desc
  tries : Nat
  gen : Option Nat
  place : Option Nat
  done : Bool
  lost : Bool
  skipped : Bool
deriving DecidableEq, Repr

/-- A flow context (R160, R164): next-issue and next-release numbers. -/
structure Flow where
  issue : Nat
  release : Nat
deriving DecidableEq, Repr

/-- An entry of Sorter's input: a new descriptor, or a packet it holds that is to be dispatched again (a recirculation or
a replay). -/
inductive SrtIn where
  | new (d : Desc)
  | again (id : Nat) (replay : Bool)
deriving DecidableEq, Repr

/-- An exception bucket (R172, R178): tokens in 1/1,000,000 packet, none before
its first use, time of the last refill in ns. -/
structure ExcBkt where
  level : Option Nat
  last : Nat
deriving DecidableEq, Repr

/-- An express-path packet waiting for its lookup (R145, R216): lookup profile, whether it is exact match, key. -/
structure ExpIn where
  d : Desc
  exm : Bool
  prof : Nat
  key : List Byte
deriving DecidableEq, Repr

/-- A copy waiting for ENQUEUE (R161, R171, R266): `unref` is the epoch whose reference the packet releases with this
copy, its last; `yellow` is the colour of a policing already done (R267). -/
structure EnqIn where
  d : Desc
  unref : Option Nat
  yellow : Option Bool
deriving DecidableEq, Repr

/-- An exception or mirror copy delivered to the host or the Steward (R172, R269). -/
structure ExcOut where
  d : Desc
  mirror : Bool
  bytes : List Byte
deriving DecidableEq, Repr

/-- Admission state of a source (R152 to R155): packets offered and dropped in the present window by class, windows
counted toward a fall of the level, tokens of its meter. -/
structure AdmSrc where
  offered : List Nat
  dropped : Bool
  low : Nat
  tokens : Nat
deriving DecidableEq, Repr

/-- A source at reset. -/
def AdmSrc.reset : AdmSrc := ⟨[0, 0, 0, 0, 0, 0, 0, 0], false, 0, 0⟩

/-- 05_forwarding_pipeline.md besides words: admission by source; words written of each express profile in the
rewrite under way, and the words it had before (R176); packets waiting for an express lookup, for Sorter, for enqueue; packets in flight and their next
number; flow contexts; the round-robin pointer of each class; exception buckets by reason (64 host total, 65 Steward
total); what was delivered to the host's exception rings and to the Steward; Wharfinger's own
pace meter; boundary drops by source and underruns by lane (R14, R15). -/
structure Fwd where
  adm : Tab AdmSrc
  profs : Tab Nat
  oldProfs : Tab (Option (List Word))
  express : List ExpIn
  srtIn : List SrtIn
  enq : List EnqIn
  flights : List Flight
  nextId : Nat
  flows : Tab Flow
  ptr : Tab Nat
  exc : Tab ExcBkt
  toHost : List ExcOut
  toStw : List ExcOut
  whfPace : Option Nat
  bndDrops : Tab Nat
  underruns : Tab Nat
deriving DecidableEq, Repr

/-- The pipeline at reset: nothing in it. -/
def Fwd.reset : Fwd := ⟨[], [], [], [], [], [], [], 0, [], [], [], [], [], none, [], []⟩

end Sys2Proof.Machine
end

