-- ==== Sys2Proof/Machine/StWdn.lean ====
section
/-! DEFINITION. Warden: what 14_faults_and_safe_state.md R470 to R475 keep besides register words. -/

namespace Sys2Proof.Machine

set_option autoImplicit false

/-- A golden packet (R472): code generation it belongs to (an image set's), descriptor, first 256 bytes. -/
structure Golden where
  gen : Option Nat
  d : Desc
  bytes : List Byte
deriving DecidableEq, Repr

/-- A golden test under way (R472, R473): number of its passes, packet with its place in its set, engine under test and references
as guild × 16 + engine. -/
structure GoldenTest where
  id : Nat
  packet : Golden
  ix : Nat
  under : Nat
  refs : List Nat
deriving DecidableEq, Repr

/-- Warden besides words: captured ring (newest first), image set, dispatches since the last capture, tests under way and
their next number, golden passes of each engine in the present cycle, its start in ns, whether words, rows and buffers have
been gone through and which lanes scanned, buffers suspected by the last audit, rows of a restored bank tested. -/
structure Wdn where
  ring : List Golden
  image : List Golden
  dispatches : Nat
  tests : List GoldenTest
  nextId : Nat
  pick : Nat
  passes : Tab Nat
  start : Nat
  sram : Bool
  rows : Nat
  pools : List Nat
  eyes : List Nat
  suspects : List Nat
  banks : Tab Nat
deriving DecidableEq, Repr

/-- Warden at reset. -/
def Wdn.reset : Wdn := ⟨[], [], 0, [], 0, 0, [], 0, false, 0, [], [], [], []⟩

end Sys2Proof.Machine
end

