-- ==== Sys2Proof/Machine/StBoot.lean ====
section
/-! DEFINITION. Start-up: flash, staging, configuration images and Steward firmware, what 16_startup_and_live_update.md keeps
besides register words. -/

namespace Sys2Proof.Machine

set_option autoImplicit false

/-- A register write of a DEVICE section: address, value, mask (Table 16-6). -/
structure DevWr where
  addr : Nat
  value : Word
  mask : Word
deriving DecidableEq, Repr

/-- A window write of a TABLE section. -/
structure TabWr where
  window : Nat
  index : Nat
  words : List Word
deriving DecidableEq, Repr

/-- What the sections of an authentic bank hold, in order of application (Table 16-6): register and window writes, Ledger
rows and cells at fixed indexes, engine segments by guild, algorithm code chunks where the section is present, FSI standby
pages as (tree, index, word), authorization entries, templates, the entries of this device's link roots, still sealed, golden
packets; and the bank's GEN and SVN. Window writes stand section by section. -/
structure Image where
  gen : Nat
  svn : Nat
  device : List DevWr
  tables : List (List TabWr)
  ledger : List (Nat × LEnt)
  cells : List (Nat × Cell)
  segments : List (Nat × List Word)
  alg : Option (List (Nat × List Word))
  fsi : List (Nat × Nat × Word)
  auth : List Auth
  templates : List Template
  links : List (List Byte)
  golden : List Golden
deriving DecidableEq, Repr

/-- Sections whose layout the spec does not give byte by byte, as what they hold: window writes section by section, Ledger
rows, cells, FSI pages, golden packets. -/
structure ImageParts where
  tables : List (List TabWr)
  ledger : List (Nat × LEnt)
  cells : List (Nat × Cell)
  fsi : List (Nat × Nat × Word)
  golden : List Golden
deriving DecidableEq, Repr

/-- Start-up besides words: flash and staging bytes; the bank being fetched (2 the host image) and those still to try; an image
applied now, and one since power-on (R520); trees whose FSI section held a page; guilds its segments name; locks the DEVICE
section wrote; TXDIS sampled; reset released; time of S2 entry; the level MXP drives and when it last changed; of the Steward
firmware: the other bank has reached ready before, time of the last SWITCH, times of watchdog expiries of the running bank
(R532). -/
structure Boot where
  flash : Tab Byte
  stage : Tab Byte
  fetching : Option Nat
  todo : List Nat
  applied : Bool
  once : Bool
  pages : List Nat
  guilds : List Nat
  locks : Tab Nat
  sampled : Bool
  released : Bool
  s2At : Nat
  mxp : Nat
  mxpAt : Option Nat
  fwOther : Bool
  fwSwitch : Option Nat
  wdogs : List Nat
deriving DecidableEq, Repr

/-- Byte an address of the flash that was never programmed reads as: erased. DESIGN CHOICE (log entry 31). -/
abbrev flashErased : Nat → Byte := fun _ => 0xFF#8

/-- Byte of the staging area that nothing has written. DESIGN CHOICE (log entry 31). -/
abbrev stageEmpty : Nat → Byte := fun _ => 0#8

/-- Start-up at power-on. -/
def Boot.reset : Boot := ⟨[], [], none, [], false, false, [], [], [], false, false, 0, 0, none, false, none, []⟩

end Sys2Proof.Machine
end

