-- ==== Sys2Proof/Machine/StKey.lean ====
section
/-! DEFINITION. Root slots and the derived-key cache: the state of 09_encryption_and_keys.md besides words. -/

namespace Sys2Proof.Machine

set_option autoImplicit false

/-- State of an ONU root slot (Table 9-5). -/
inductive RootState where
  | empty | loaded | active | retiring
deriving DecidableEq, Repr

/-- STATE code of Table 9-11. -/
def RootState.code : RootState → Nat
  | .empty => 0 | .loaded => 1 | .active => 2 | .retiring => 3

/-- A root slot: data and session key (or the two halves of a device or link root), usage, HELD, pending frame A, last
frame A, the frame it retired in or was last used in since, and whether KEY_ROTATE_DUE was raised for it. -/
structure Root where
  state : RootState
  dk : Nat
  sk : Nat
  usage : Nat
  held : Bool
  pend : Option Nat
  actSfc : Nat
  quiet : Nat
  due : Bool
deriving DecidableEq, Repr

/-- An EMPTY slot (R303). -/
def Root.empty : Root := ⟨.empty, 0, 0, 0, false, none, 0, 0, false⟩

/-- 09_encryption_and_keys.md besides words: root slots 0 to 16,415; the cache, most recent first, as (slot, label,
context). -/
structure Keys where
  roots : Tab Root
  cache : List (Nat × Nat × Nat)
deriving DecidableEq, Repr

/-- Keys at reset: every slot EMPTY. -/
def Keys.reset : Keys := ⟨[], []⟩

end Sys2Proof.Machine
end

