-- ==== Sys2Proof/Machine/StOps.lean ====
section
/-! DEFINITION. Types of the operands of commands. -/

namespace Sys2Proof

set_option autoImplicit false

/-- The two sides of a tree (00_scope.md Table 0-4): the 50G side and the 10G side. -/
inductive Side where
  | g50 | g10
deriving DecidableEq, Repr

/-- Side number: 0 for the 50G side, 1 for the 10G side (R65). -/
def Side.n : Side → Nat
  | .g50 => 0
  | .g10 => 1

/-- Who makes an access: a function of the host port, the Steward, or the image loader (R541, R549, R550). -/
inductive Agent where
  | pf
  | vf (n : Fin 32)
  | steward
  | image
deriving DecidableEq, Repr

/-- Function code of HST_DENIED_LAST.FUNCTION: 0 PF, 1 to 32 VF, 63 Steward (Table 17-12). -/
def Agent.code : Agent → Nat
  | .pf => 0
  | .vf n => n.val + 1
  | .steward => 63
  | .image => 63

/-- MASTER of an accessor (Table 15-3): host register access, Steward core, Scrivener. -/
def Agent.master : Agent → Nat
  | .steward => 4
  | .image => 6
  | _ => 3

/-- A delimiter or an energy episode seen in a quiet span (R76): position of the delimiter's first bit, or start of the
energy, in bits at the window's rate from T_K + S × t_b; whether it is a delimiter; whether the FS header and FEC
decode with a well-formed Serial_Number_ONU message; the serial number and random delay (in bit periods of the 50G
line, 20.094 ps, on the 50G side and of the 10G line on the 10G side) it reports. -/
structure Episode where
  pos : Nat
  delim : Bool
  good : Bool
  sn : Nat
  rd : Nat
deriving DecidableEq, Repr

/-- What a burst under way showed at its end (R44, Table 2-6): the ONU-ID of the FS header, none when its HEC fails;
eye margin at the delimiter and receiver settings reached (R49); codewords decoded, corrected, uncorrectable; XGEM
header or PLI failures; BIP mismatch; the DBRu of each structure as (Alloc-ID, occupancy in 4-byte words, CRC-8); non-idle
XGEM frames as (Alloc-ID, number). -/
structure BurstRx where
  hdr : Option (Fin 1024)
  margin : BitVec 8
  settings : BitVec 39
  cw : Nat
  corr : Nat
  unc : Nat
  hec : Nat
  bip : Bool
  reports : List (Nat × BitVec 24 × BitVec 8)
  frames : List (Nat × Nat)
deriving DecidableEq, Repr

/-- ECC outcome of a Cellar read (R283, R449), with the memory channel. -/
inductive CellarRead where
  | clean
  | corrected (ch : Fin 16)
  | frameBad (ch : Fin 16)
  | linkBad (ch : Fin 16)
deriving DecidableEq, Repr

/-- A lane test block (Table 12-12): of a PON port, k = 0 and 1 its transmit lanes, 2 and 3 its receive lanes; of an uplink,
Shasol or PCIe lane. -/
inductive LaneBlock where
  | pon (p : Fin 32) (k : Fin 4)
  | ulk (n : Fin 24)
  | shl (n : Fin 16)
  | pcie (n : Fin 16)
deriving DecidableEq, Repr

/-- A message received on a Shasol lane (R396, R400, R403): its blocks from START on, up to END or to the last one before
another START, and whether a stuffing error fell in one of them. -/
structure LinkRx where
  blocks : List (BitVec 66)
  stuffErr : Bool
deriving DecidableEq, Repr

/-- What Scrivener's checks over a bank's bytes found (R519): its key hash is not in OTP or is revoked, its signature does not
verify, its body's hash differs, or the flash reported a read error. -/
inductive BankVerdict where
  | keyHash
  | signature
  | bodyHash
  | flashRead
deriving DecidableEq, Repr

/-- A cause of the analog monitor other than a temperature (Table 14-3), with its instance. -/
inductive AnalogCause where
  | supply (n : Fin 15)
  | voltGlitch
  | clkGlitch (island : Fin 12)
  | tamper (n : Fin 4)
  | refLoss (n : Fin 4)
deriving DecidableEq, Repr

/-- The address spaces of a PCIe function (Table 17-2). -/
inductive Bar where
  | regs | msix | counters
deriving DecidableEq, Repr

/-- A reset or change of the PCIe island (R538, R539): a fundamental, hot or link-down reset; D3hot or Bus Master Enable of
a function. -/
inductive PcieEvent where
  | fundamental | hot | linkDown
  | d3hot (fn : Fin 33) (on : Bool)
  | busMaster (fn : Fin 33) (on : Bool)
deriving DecidableEq, Repr

/-- A fault that a test of an on-chip memory slice found (R449, R470): memory and word; corrected, uncorrectable, or a free
word that failed its patterns. -/
inductive SliceFault where
  | corrected (mem : BitVec 8) (word : BitVec 32)
  | uncorrectable (mem : BitVec 8) (word : BitVec 32)
  | freeWord (mem : BitVec 8) (word : BitVec 32)
deriving DecidableEq, Repr

end Sys2Proof
end

