-- ==== Sys2Proof/Machine/StShl.lean ====
section
/-! DEFINITION. Shasol lanes, uplink lanes and the fabric: what 12_serial_lanes.md and 13_cascade_and_fabric.md keep besides
register words. -/

namespace Sys2Proof.Machine

set_option autoImplicit false

/-- A session's key as R312 derives it: link root, LINK_ID with bit 0 clear, the nonces of the lower and the higher end. -/
structure Sess where
  root : Nat
  linkId : Nat
  low : Nat
  high : Nat
deriving DecidableEq, Repr

/-- A CAP message (Table 12-8). -/
structure Cap where
  ack : Bool
  sealCap : Bool
  sealReq : Bool
  role : Nat
  addr : Nat
  lane : Nat
  serial : Nat
  nonce : Nat
deriving DecidableEq, Repr

/-- A channel 0 message waiting to be sent: CAP with its ACK bit and nonce, an offer with its nonce, or an answer with its own
nonce and that of the offer. -/
inductive LinkCtl where
  | cap (ack : Bool) (nonce : Nat)
  | offer (nonce : Nat)
  | answer (nonce theirs : Nat)
deriving DecidableEq, Repr

/-- A link-state advertisement (Table 13-1): serial number, address (255 none), MASTER, ADDR_FIXED, SEQ, neighbour entries
as serial, own lane, neighbour's lane. -/
structure Lsa where
  serial : Nat
  addr : Nat
  master : Bool
  fixed : Bool
  seq : Nat
  nbrs : List (Nat × Nat × Nat)
deriving DecidableEq, Repr

/-- A channel 3 message waiting to be sent. -/
inductive FabMsg where
  | hello
  | lsa (l : Lsa)
deriving DecidableEq, Repr

/-- A message as it left a lane: channel, SEALED, PHASE, DEST, SRC, payload and tag bytes as sent. -/
structure LinkMsg where
  chan : Nat
  sealed_ : Bool
  phase : Bool
  dest : Nat
  src : Nat
  bytes : List Byte
deriving DecidableEq, Repr

/-- A block of the line: 66 bits, sent from bit 65 down (R396). -/
abbrev Block := BitVec 66

/-- A Shasol lane: nonce of its present CAP, partner's latest CAP, own SEAL bits last sent, a CAP repeated until it is
acknowledged, an offer outstanding with its tries, sending key and counter, receiving key and the one awaited, channel 0
and channel 3 messages waiting, sealed messages awaiting their tag check (channel, new phase); training under way, last
trained taps, last coefficient word received, frames with RX_READY both ways, the coefficient word to send next; bit lock,
commas at spacing, commas missed, an incompatible CAP's hold, MARK tiles left; runs of the eye margin (below REVERT_MARGIN
since, at SNAP_MARGIN since, last snapshot, last revert); when a message last ended or the lane became ACTIVE (R415); the
last message sent; blocks waiting for a tile; the tile being sent, with
its comma's code and its blocks up to the FILL that ends it. -/
structure Lane where
  nonce : Nat
  peer : Option Cap
  mine : Bool × Bool
  capWait : Bool
  offer : Option (Nat × Nat)
  tx : Option Sess
  txCtr : Nat
  rx : Option Sess
  rxNew : Option Sess
  ctl : List LinkCtl
  fab : List FabMsg
  hold : List (Nat × Bool)
  training : Bool
  trained : Option (Nat × Nat)
  word : Option (BitVec 32)
  ready : Nat
  reply : BitVec 32
  bitLock : Bool
  commas : Nat
  miss : Nat
  mismatch : Bool
  marks : Nat
  below : Option Nat
  good : Option Nat
  snap : Option Nat
  revert : Option Nat
  heard : Nat
  sent : Option LinkMsg
  out : List Block
  tile : Option (BitVec 8 × List Block)
deriving DecidableEq, Repr

/-- A lane at reset. -/
def Lane.reset : Lane :=
  { nonce := 0, peer := none, mine := (false, false), capWait := false, offer := none, tx := none, txCtr := 0, rx := none
    rxNew := none, ctl := [], fab := [], hold := [], training := false, trained := none, word := none, ready := 0
    reply := 0#32, bitLock := false, commas := 0, miss := 0, mismatch := false, marks := 0, below := none
    good := none, snap := none, revert := none, heard := 0, sent := none, out := [], tile := none }

/-- The checker of a lane test block (R417): its register of past bits, first in bit 0, with how many it holds; the run of
bits predicted without error; the last 128 compared bits, newest first, true where in error. -/
structure Chk where
  reg : BitVec 31
  held : Nat
  run : Nat
  win : List Bool
deriving DecidableEq, Repr

/-- A checker not loaded yet. -/
def Chk.zero : Chk := ⟨0#31, 0, 0, []⟩

/-- A live neighbour on a lane (R424): serial number, its lane, its address. -/
structure Nbr where
  serial : Nat
  lane : Nat
  addr : Nat
deriving DecidableEq, Repr

/-- Lanes and fabric besides words: lanes by number; the strap window over; live neighbours by lane; LSAs held by serial
number, the device's own among them; last frame sent by uplink lane, with its check sequence; by Shasol lane the frame an
uplink has begun before its message's verdict, which its check sequence awaits (R328); by lane test block its checker, and
the time from which the bits of a RATE injection are not yet counted (R418). -/
structure Shl where
  lanes : Tab Lane
  latched : Bool
  nbrs : Tab (Option Nbr)
  lsas : Tab (Option Lsa)
  ulkSent : Tab (List Byte)
  cut : Tab (Option (Nat × List Byte))
  chk : Tab Chk
  inj : Tab (Option Nat)
deriving DecidableEq, Repr

/-- Lanes at reset. -/
def Shl.reset : Shl := ⟨[], false, [], [], [], [], [], []⟩

end Sys2Proof.Machine
end

