-- ==== Sys2Proof/Machine/StTwn.lean ====
section
/-! DEFINITION. State of twin protection: what 10_twin_protection.md keeps besides register words. -/

namespace Sys2Proof.Machine

set_option autoImplicit false

/-- The partner's last HEARTBEAT (Table 10-4 and the header's SEQ and SFC): masks over the trees. -/
structure Hb where
  seq : Nat
  role : Nat
  health : Nat
  own : Nat
  ready : Nat
  seen50 : Nat
  seen10 : Nat
  avail : Nat
  ahead : Nat
  sfc : Nat
deriving DecidableEq, Repr

/-- A twin message waiting to be sent: type of Table 10-3, SEQ, tree (0xFF none), side (0xFF none), SFC, the trees
or detail of its payload, and the lane it leaves on. The tables a message carries are read as they stand. -/
structure TwinMsg where
  type_ : Nat
  seq : Nat
  port : Nat
  side : Nat
  sfc : Nat
  arg : Nat
  lane : Nat
deriving DecidableEq, Repr

/-- A takeover waiting for its interlock (R350, R351): trigger and trees. -/
structure Trig where
  num : Nat
  trees : List (Fin 32)
deriving DecidableEq, Repr

/-- A release under way at the owner (R356): trigger, trees, whether RELEASE was sent, whether TWN_CMD waits on it. -/
structure Rel where
  num : Nat
  trees : List (Fin 32)
  sent : Bool
  cmd : Bool
deriving DecidableEq, Repr

/-- What a tree keeps: frames without a further mirror gap still to pass (R341), accepted samples of R345 as (ps, time),
time of the last switch by trigger 3 or 4 (R350), time a takeover lit it while no frame has been sent since (R354), the
bound of R323, the frame from which this device's own maps are sent (R353), the owner's PTn_PHASE.OFFSET (R346), and whether
the tree's SYNC has come since the twin link came up (R363). -/
structure TwinTree where
  gap : Nat
  samples : List (Int × Nat)
  lastSwitch : Option Nat
  lit : Option Nat
  seen : Option Nat
  ownFrom : Nat
  offO : Int
  synced : Bool
deriving DecidableEq, Repr

/-- A mirrored item of TABLE (Table 10-3): a register write, words of an entry behind a window, or a swap request. -/
inductive MirrorWr where
  | reg (addr : Nat) (v : Word)
  | win (w idx first : Nat) (vs : List Word)
  | swap
deriving DecidableEq, Repr

/-- The bulk copy of SYNC (R360): frame, registers and tables, slots, run-time state of allocations, both sides' PLOAM
queues and discovery LFSRs, ramp state and admissions, root slots over a sealed link. -/
structure SyncCopy where
  sfc : Nat
  items : List MirrorWr
  slots : List (Nat × Slot)
  allocs : List (Nat × AllocRt)
  ploam50 : PloamQ
  ploam10 : PloamQ
  lfsr50 : Nat
  lfsr10 : Nat
  ramp : Bool
  admitted : Nat
  roots : List (Nat × Root)
deriving DecidableEq, Repr

/-- A tree at reset. -/
def TwinTree.reset : TwinTree := ⟨0, [], none, none, none, 0, 0, false⟩

/-- Twin protection besides words. `alive` says heartbeats are received; `stuck20` that PARTNER_DARK_IN has read STUCK
for 20 µs; `adj` the last 64 offsets of R348 and `wideOffs` those of R353 by side key; `maps` and `parts` the mirrored
maps and PLOAM partitions by side key; `dark` trees a release holds dark; `dead` a lost liveness strobe; `asked` the
command of TWN_CMD awaiting the partner; `answered` the SEQ of RELEASE last answered; `cover` trees a Steward
switch gave away (R531); `mis` trees whose SFC the last heartbeat did not match, `unready` that it was the first not to match one (R363); `split` an undecided ownership of
Table 10-1; `force` FORCE of the command under way; `serial` the partner's serial number of its CAP (R338). -/
structure Twn where
  hb : Option Hb
  alive : Bool
  stuck20 : Bool
  txSeq : Tab Nat
  rxSeq : Tab Nat
  txq : List TwinMsg
  trees : Tab TwinTree
  tau : List Int
  adj : Tab (List Int)
  wideOffs : Tab (List Int)
  maps : Tab (List BwMap)
  parts : Tab (List (Nat × List Ploam))
  trigs : List Trig
  rels : List Rel
  dark : List (Fin 32)
  dead : Bool
  asked : List (Fin 32)
  answered : Option Nat
  cover : List (Fin 32)
  mis : List (Fin 32)
  unready : Bool
  split : Bool
  force : Bool
  serial : Option Nat
deriving DecidableEq, Repr

/-- Twin protection at reset. -/
def Twn.reset : Twn :=
  ⟨none, false, false, [], [], [], [], [], [], [], [], [], [], [], [], false, [], none, [], [], false, false, false, none⟩

end Sys2Proof.Machine
end

