-- ==== Sys2Proof/Syntax.lean ====
section
/-! DEFINITION. The commands of the PH5032: one constructor per row of the spec's table of operations and events, with
the operands that say what came about. -/

namespace Sys2Proof

set_option autoImplicit false

/-- A command: an operation or event of the part. -/
inductive Instr where
  /-- FRAME_TICK (R32). -/
  | frameTick (p : Fin 32) (idle50 idle10 : Nat)
  /-- PACE_WINDOW_END (R18). -/
  | paceWindowEnd (done : List (Fin 64 × Nat)) (whf : Nat)
  /-- MAP_BUILD_START (R113). -/
  | mapBuildStart
  /-- ASSAYER_CHECK (R135). -/
  | assayerCheck (buildTime assayTime : BitVec 16) (mismatch : List (Fin 32 × Side))
  /-- MAP_RELEASE (R25). -/
  | mapRelease (p : Fin 32) (sd : Side)
  /-- MAP_LOCK (R26). -/
  | mapLock (p : Fin 32) (sd : Side)
  /-- UPLINK_FRAME_RX (R155). -/
  | uplinkFrameRx (n : Fin 24) (bytes : List (BitVec 8)) (full : Bool) (fec : Nat × Nat × Nat)
  /-- UPLINK_FRAME_TX (R14). -/
  | uplinkFrameTx (n : Fin 24) (underrun : Option (BitVec 14)) (ct : Option (Fin 16 × BitVec 14)) (oneStep : Bool)
  /-- PHASE_OFFSET_WRITE (R33). -/
  | phaseOffsetWrite (ag : Agent) (p : Fin 32) (v : BitVec 32)
  /-- DS_ENABLE_WRITE (R40). -/
  | dsEnableWrite (ag : Agent) (p : Fin 32) (v : BitVec 32)
  /-- OCB_COMMIT (R62). -/
  | ocbCommit (ag : Agent) (p : Fin 32) (sd : Side) (v : BitVec 32)
  /-- ALIGN_MODE_WRITE (R41). -/
  | alignModeWrite (ag : Agent) (p : Fin 32) (v : BitVec 32)
  /-- PSYNC_MATCH (R41). -/
  | psyncMatch (p : Fin 32) (sd : Side) (pos : Nat) (sfc : Option (BitVec 51))
  /-- TRACKER_CHECK (R41). -/
  | trackerCheck (p : Fin 32) (sd : Side) (pos errs : Nat) (sfc : Option (BitVec 51))
  /-- SYNC_PSBD_CHECK (R41). -/
  | syncPsbdCheck (p : Fin 32) (sd : Side) (errs : Nat) (sfc : Option (BitVec 51)) (diff : Int)
  /-- BURST_START (R50). -/
  | burstStart (p : Fin 32) (sd : Side)
  /-- DELIM_WINDOW_CLOSE (R55). -/
  | delimWindowClose (p : Fin 32) (sd : Side) (cands : List (Int × Nat))
  /-- BURST_END (R44). -/
  | burstEnd (p : Fin 32) (sd : Side) (b : BurstRx)
  /-- UPSTREAM_XGEM_FRAME (R309). -/
  | upstreamXgemFrame (p : Fin 32) (sd : Side) (ctx : BitVec 16) (cls : Fin 8) (key : Fin 4) (word : BitVec 18) (bytes : List (BitVec 8)) (unc full : Bool) (bad : Option (Fin 16))
  /-- UPSTREAM_PLOAM_RX (R311). -/
  | upstreamPloamRx (p : Fin 32) (sd : Side) (onu : Fin 256) (omci : Bool) (msg : List (BitVec 8)) (code : BitVec 64) (ack : Option (Fin 256))
  /-- STRAY_DELIMITER (R59). -/
  | strayDelimiter (p : Fin 32) (sd : Side) (onu : Option (Fin 1024)) (off : Option Int) (isSn : Bool)
  /-- STRAY_ENERGY_EPISODE (R60). -/
  | strayEnergyEpisode (p : Fin 32) (sd : Side) (pos len : Nat)
  /-- US_LOSS_ONSET (R61). -/
  | usLossOnset (p : Fin 32) (sd : Side)
  /-- PRESET_WINDOW_WRITE (R63). -/
  | presetWindowWrite (ag : Agent) (p : Fin 32) (idx : Fin 512) (valid : Bool)
  /-- PRESET_AGE_EXPIRY (R49). -/
  | presetAgeExpiry (p : Fin 32) (sd : Side) (slot : Fin 256)
  /-- PLOAM_ACK_TIMEOUT (R66). -/
  | ploamAckTimeout (p : Fin 32) (sd : Side)
  /-- TEQD_WRITE (R70). -/
  | teqdWrite (ag : Agent) (p : Fin 32) (v : BitVec 32)
  /-- REACH_WRITE (R71). -/
  | reachWrite (ag : Agent) (p : Fin 32) (v : BitVec 32)
  /-- DISC_PERIOD_START (R74). -/
  | discPeriodStart (p : Fin 32) (sd : Side)
  /-- QUIET_SPAN_CLOSE (R76). -/
  | quietSpanClose (p : Fin 32) (sd : Side) (eps : List Episode)
  /-- SN_RESPONSE (R79). -/
  | snResponse (p : Fin 32)
  /-- RANGING_RESPONSE (R86). -/
  | rangingResponse (p : Fin 32) (slot : Fin 256) (d : Int)
  /-- RANGING_NO_RESPONSE (R87). -/
  | rangingNoResponse (p : Fin 32) (slot : Fin 256)
  /-- REGISTRATION_RX (R88). -/
  | registrationRx (p : Fin 32) (slot : Fin 256) (regId : Nat)
  /-- KEY_REPORT_RX (R88). -/
  | keyReportRx (p : Fin 32) (slot : Fin 256) (dk sk : BitVec 128)
  /-- KEY_EXCHANGE_TIMEOUT (R88). -/
  | keyExchangeTimeout (p : Fin 32) (slot : Fin 256)
  /-- REGISTRATION_TIMEOUT (R88). -/
  | registrationTimeout (p : Fin 32) (slot : Fin 256)
  /-- LOST_WAIT_EXPIRY (R88). -/
  | lostWaitExpiry (p : Fin 32) (slot : Fin 256)
  /-- RAMP_START (R102). -/
  | rampStart (ag : Agent) (p : Fin 32)
  /-- RAMP_STOP (R102). -/
  | rampStop (ag : Agent) (p : Fin 32)
  /-- DEACTIVATE (R102). -/
  | deactivate (ag : Agent) (p : Fin 32) (slot : Fin 256)
  /-- ENABLE (R102). -/
  | enable (ag : Agent) (p : Fin 32) (slot : Fin 256)
  /-- DISABLE (R102). -/
  | disable (ag : Agent) (p : Fin 32) (slot : Fin 256)
  /-- RAMP_TIMEOUT (R99). -/
  | rampTimeout (p : Fin 32)
  /-- ROGUE_HUNT_START (R96). -/
  | rogueHuntStart (p : Fin 32) (sd : Side)
  /-- ROGUE_WATCH_END (R97). -/
  | rogueWatchEnd (p : Fin 32)
  /-- ALLOC_WRITE (R110). -/
  | allocWrite (ag : Agent) (p : Fin 32) (i : Fin 1024) (w0 w1 w2 w3 w4 : BitVec 32)
  /-- CTI_RECORD_TAKE (R121). -/
  | ctiRecordTake
  /-- FSI_PAGE_WRITE (R131). -/
  | fsiPageWrite (ag : Agent) (idx : BitVec 18) (v : BitVec 32)
  /-- SWAP_REQUEST (R132). -/
  | swapRequest (ag : Agent) (v : BitVec 32)
  /-- SWAP_VALIDATION_DONE (R132). -/
  | swapValidationDone (p : Fin 32)
  /-- BDEACT_UNLOCK (R136). -/
  | bdeactUnlock (ag : Agent) (v : BitVec 32)
  /-- WHF_ALG_WRITE (R529). -/
  | whfAlgWrite (ag : Agent) (v : BitVec 32)
  /-- SORTER_DISPATCH (R157). -/
  | sorterDispatch
  /-- EXPRESS_LOOKUP (R216). -/
  | expressLookup (upset : Option (Fin 65536)) (ecc : List (Fin 532480 × Bool))
  /-- WINDOW_LOAD_DONE (R185). -/
  | windowLoadDone (g : Fin 64) (e : Fin 16) (c : Fin 4)
  /-- SORTER_RELEASE (R161). -/
  | sorterRelease (flow : BitVec 16)
  /-- REORDER_TIMEOUT (R164). -/
  | reorderTimeout (flow : BitVec 16)
  /-- ADD (R187). -/
  | add (g : Fin 64) (e : Fin 16) (c : Fin 4) (ecc : Option Bool)
  /-- SUB (R187). -/
  | sub (g : Fin 64) (e : Fin 16) (c : Fin 4) (ecc : Option Bool)
  /-- AND (R187). -/
  | and (g : Fin 64) (e : Fin 16) (c : Fin 4) (ecc : Option Bool)
  /-- OR (R187). -/
  | or (g : Fin 64) (e : Fin 16) (c : Fin 4) (ecc : Option Bool)
  /-- XOR (R187). -/
  | xor (g : Fin 64) (e : Fin 16) (c : Fin 4) (ecc : Option Bool)
  /-- SHL (R187). -/
  | shl (g : Fin 64) (e : Fin 16) (c : Fin 4) (ecc : Option Bool)
  /-- SHR (R187). -/
  | shr (g : Fin 64) (e : Fin 16) (c : Fin 4) (ecc : Option Bool)
  /-- SAR (R187). -/
  | sar (g : Fin 64) (e : Fin 16) (c : Fin 4) (ecc : Option Bool)
  /-- MIN (R187). -/
  | min (g : Fin 64) (e : Fin 16) (c : Fin 4) (ecc : Option Bool)
  /-- MAX (R187). -/
  | max (g : Fin 64) (e : Fin 16) (c : Fin 4) (ecc : Option Bool)
  /-- CMP (R187). -/
  | cmp (g : Fin 64) (e : Fin 16) (c : Fin 4) (ecc : Option Bool)
  /-- POPC (R187). -/
  | popc (g : Fin 64) (e : Fin 16) (c : Fin 4) (ecc : Option Bool)
  /-- BFX (R187). -/
  | bfx (g : Fin 64) (e : Fin 16) (c : Fin 4) (ecc : Option Bool)
  /-- BFI (R187). -/
  | bfi (g : Fin 64) (e : Fin 16) (c : Fin 4) (ecc : Option Bool)
  /-- MOVI (R187). -/
  | movi (g : Fin 64) (e : Fin 16) (c : Fin 4) (ecc : Option Bool)
  /-- BEQ (R187). -/
  | beq (g : Fin 64) (e : Fin 16) (c : Fin 4) (ecc : Option Bool)
  /-- BNE (R187). -/
  | bne (g : Fin 64) (e : Fin 16) (c : Fin 4) (ecc : Option Bool)
  /-- BLT (R187). -/
  | blt (g : Fin 64) (e : Fin 16) (c : Fin 4) (ecc : Option Bool)
  /-- BGE (R187). -/
  | bge (g : Fin 64) (e : Fin 16) (c : Fin 4) (ecc : Option Bool)
  /-- BLTU (R187). -/
  | bltu (g : Fin 64) (e : Fin 16) (c : Fin 4) (ecc : Option Bool)
  /-- BGEU (R187). -/
  | bgeu (g : Fin 64) (e : Fin 16) (c : Fin 4) (ecc : Option Bool)
  /-- JMP (R187). -/
  | jmp (g : Fin 64) (e : Fin 16) (c : Fin 4) (ecc : Option Bool)
  /-- CALL (R187). -/
  | call (g : Fin 64) (e : Fin 16) (c : Fin 4) (ecc : Option Bool)
  /-- RET (R187). -/
  | ret (g : Fin 64) (e : Fin 16) (c : Fin 4) (ecc : Option Bool)
  /-- LD (R184). -/
  | ld (g : Fin 64) (e : Fin 16) (c : Fin 4) (ecc : Option Bool) (mecc : Option Bool)
  /-- ST (R184). -/
  | st (g : Fin 64) (e : Fin 16) (c : Fin 4) (ecc : Option Bool)
  /-- DADD (R192). -/
  | dadd (g : Fin 64) (e : Fin 16) (c : Fin 4) (ecc : Option Bool)
  /-- DOR (R192). -/
  | dor (g : Fin 64) (e : Fin 16) (c : Fin 4) (ecc : Option Bool)
  /-- DINC (R192). -/
  | dinc (g : Fin 64) (e : Fin 16) (c : Fin 4) (ecc : Option Bool)
  /-- FADD (R194). -/
  | fadd (g : Fin 64) (e : Fin 16) (c : Fin 4) (ecc : Option Bool)
  /-- CAS (R194). -/
  | cas (g : Fin 64) (e : Fin 16) (c : Fin 4) (ecc : Option Bool)
  /-- PARSE_NEXT (R188). -/
  | parseNext (g : Fin 64) (e : Fin 16) (c : Fin 4) (ecc : Option Bool)
  /-- PARSE_SKIP (R188). -/
  | parseSkip (g : Fin 64) (e : Fin 16) (c : Fin 4) (ecc : Option Bool)
  /-- PARSE_SETHT (R188). -/
  | parseSetht (g : Fin 64) (e : Fin 16) (c : Fin 4) (ecc : Option Bool)
  /-- KCLR (R187). -/
  | kclr (g : Fin 64) (e : Fin 16) (c : Fin 4) (ecc : Option Bool)
  /-- KCAT (R187). -/
  | kcat (g : Fin 64) (e : Fin 16) (c : Fin 4) (ecc : Option Bool)
  /-- KREG (R187). -/
  | kreg (g : Fin 64) (e : Fin 16) (c : Fin 4) (ecc : Option Bool)
  /-- LOOKUP_LDG (R189). -/
  | lookupLdg (g : Fin 64) (e : Fin 16) (c : Fin 4) (ecc : Option Bool)
  /-- LOOKUP_EXM (R189). -/
  | lookupExm (g : Fin 64) (e : Fin 16) (c : Fin 4) (ecc : Option Bool)
  /-- LOOKUP_WAIT (R190). -/
  | lookupWait (g : Fin 64) (e : Fin 16) (c : Fin 4) (ecc : Option Bool)
  /-- INS (R195). -/
  | ins (g : Fin 64) (e : Fin 16) (c : Fin 4) (ecc : Option Bool)
  /-- DEL (R195). -/
  | del (g : Fin 64) (e : Fin 16) (c : Fin 4) (ecc : Option Bool)
  /-- CSUM (R187). -/
  | csum (g : Fin 64) (e : Fin 16) (c : Fin 4) (ecc : Option Bool)
  /-- SETV (R191). -/
  | setv (g : Fin 64) (e : Fin 16) (c : Fin 4) (ecc : Option Bool)
  /-- SETQ (R191). -/
  | setq (g : Fin 64) (e : Fin 16) (c : Fin 4) (ecc : Option Bool)
  /-- SETB (R191). -/
  | setb (g : Fin 64) (e : Fin 16) (c : Fin 4) (ecc : Option Bool)
  /-- SETR (R191). -/
  | setr (g : Fin 64) (e : Fin 16) (c : Fin 4) (ecc : Option Bool)
  /-- SETM (R191). -/
  | setm (g : Fin 64) (e : Fin 16) (c : Fin 4) (ecc : Option Bool)
  /-- SETX (R191). -/
  | setx (g : Fin 64) (e : Fin 16) (c : Fin 4) (ecc : Option Bool)
  /-- SETC (R191). -/
  | setc (g : Fin 64) (e : Fin 16) (c : Fin 4) (ecc : Option Bool)
  /-- END (R192). -/
  | endPass (g : Fin 64) (e : Fin 16) (c : Fin 4) (ecc : Option Bool)
  /-- NOP (R187). -/
  | nop (g : Fin 64) (e : Fin 16) (c : Fin 4) (ecc : Option Bool)
  /-- MOVS (R187). -/
  | movs (g : Fin 64) (e : Fin 16) (c : Fin 4) (ecc : Option Bool)
  /-- TRAP (R197). -/
  | trap (g : Fin 64) (e : Fin 16) (c : Fin 4) (ecc : Option Bool)
  /-- HANDOFF (R193). -/
  | handoff (g : Fin 64) (e : Fin 16) (c : Fin 4) (ecc : Option Bool)
  /-- LOOKUP_RESULT (R190). -/
  | lookupResult (g : Fin 64) (e : Fin 16) (c m : Fin 4)
  /-- ENGINE_WDOG (R198). -/
  | engineWdog (g : Fin 64) (e : Fin 16)
  /-- ENGINE_PARITY (R198). -/
  | engineParity (g : Fin 64) (e : Fin 16) (structure_ : Fin 4)
  /-- COST_WINDOW_END (R183). -/
  | costWindowEnd (g : Fin 64)
  /-- ENG_EN_WRITE (R199). -/
  | engEnWrite (ag : Agent) (g : Fin 64) (v : BitVec 32)
  /-- STANDBY_BANK_WRITE (R207). -/
  | standbyBankWrite (ag : Agent) (g : Fin 64) (idx : Fin 4097) (first : Fin 16) (ws : List (BitVec 32))
  /-- VALIDATE (R206). -/
  | validateBank (ag : Agent) (g : Fin 64)
  /-- VALIDATE_DONE (R206). -/
  | validateDone (g : Fin 64)
  /-- DRAIN (R208). -/
  | drain (ag : Agent) (g : Fin 64) (v : BitVec 32)
  /-- ABORT (R208). -/
  | abort (ag : Agent) (g : Fin 64) (v : BitVec 32)
  /-- GUILD_LOAD (R208). -/
  | guildLoad (ag : Agent) (g : Fin 64) (v : BitVec 32)
  /-- DRAIN_COMPLETE (R209). -/
  | drainComplete (g : Fin 64)
  /-- DRAIN_STUCK (R208). -/
  | drainStuck (g : Fin 64)
  /-- SWITCH_DONE (R208). -/
  | switchDone (g : Fin 64)
  /-- CHECK_DONE (R474). -/
  | checkDone (g : Fin 64) (res : List (List Nat × List Nat))
  /-- LEDGER_SEARCH (R222). -/
  | ledgerSearch (g : Fin 64) (e : Fin 16) (c m : Fin 4) (upset : Option (Fin 65536))
  /-- EXM_SEARCH (R237). -/
  | exmSearch (g : Fin 64) (e : Fin 16) (c m : Fin 4) (ecc : List (Fin 532480 × Bool))
  /-- WRITE (R230). -/
  | ldgWrite (ag : Agent) (k : Fin 2) (v : BitVec 32)
  /-- INSERT (R225). -/
  | ldgInsert (ag : Agent) (k : Fin 2) (v : BitVec 32)
  /-- LEDGER_MOVE (R226). -/
  | ledgerMove
  /-- DELETE (R244). -/
  | delete (ag : Agent) (k : Fin 2) (v : BitVec 32) (ecc : List (Fin 532480 × Bool))
  /-- MODIFY (R246). -/
  | modify (ag : Agent) (k : Fin 2) (v : BitVec 32) (ecc : List (Fin 532480 × Bool))
  /-- ADD_KEY (R238). -/
  | addKey (ag : Agent) (k : Fin 2) (v : BitVec 32) (ecc : List (Fin 532480 × Bool))
  /-- LOOKUP (R251). -/
  | lookup (ag : Agent) (k : Fin 2) (v : BitVec 32) (upset : Option (Fin 65536)) (ecc : List (Fin 532480 × Bool))
  /-- OPEN (R243). -/
  | openEpoch (ag : Agent) (k : Fin 2) (v : BitVec 32)
  /-- PUBLISH (R247). -/
  | publish (ag : Agent) (k : Fin 2) (v : BitVec 32)
  /-- DISCARD (R249). -/
  | discard (ag : Agent) (k : Fin 2) (v : BitVec 32)
  /-- RESPREAD_MOVE (R229). -/
  | respreadMove (r : Fin 16)
  /-- SCRUB_ROW (R232). -/
  | scrubRow (row : Fin 65536) (mismatch uncorr : Bool)
  /-- STASH_DRAIN_PASS (R239). -/
  | stashDrainPass (ecc : List (Fin 532480 × Bool))
  /-- EPOCH_RETIRE (R243). -/
  | epochRetire
  /-- SWEEP_DONE (R248). -/
  | sweepDone (discard : Bool) (ecc : List (Fin 532480 × Bool))
  /-- EPOCH_STUCK (R250). -/
  | epochStuck (e : Fin 16)
  /-- ENQUEUE (R271). -/
  | enqueue
  /-- BUFFER_RELEASE (R262). -/
  | bufferRelease (h : Fin 16777216)
  /-- FREE_STW (R264). -/
  | freeStw (ag : Agent) (v : BitVec 32)
  /-- CELLAR_WRITE_DONE (R278). -/
  | cellarWriteDone (q : Fin 73728)
  /-- CELLAR_REFILL (R279). -/
  | cellarRefill (q : Fin 73728) (r : CellarRead)
  /-- SCHED_SELECT (R286). -/
  | schedSelect (m : Fin 104) (ecc : Option Bool)
  /-- CIPHER_DOWNSTREAM (R306). -/
  | cipherDownstream (p : Fin 32) (sd : Side) (bad : Option (Fin 16))
  /-- BUCKET_SWEEP (R290). -/
  | bucketSweep
  /-- BUCKET_WORD0_WRITE (R300). -/
  | bucketWord0Write (ag : Agent) (b : Fin 98304) (v : BitVec 32)
  /-- DEBT_CLEAR (R290). -/
  | debtClear (ag : Agent) (b : Fin 98304) (v : BitVec 32)
  /-- STATS_SAMPLE (R295). -/
  | statsSample (g : Fin 16)
  /-- STATS_CLEAR (R297). -/
  | statsClear (ag : Agent) (e : Fin 8192) (v : BitVec 32)
  /-- POOL_CFG_WRITE (R256). -/
  | poolCfgWrite (ag : Agent) (n : Fin 4) (v : BitVec 32)
  /-- CELLAR_ENABLE (R299). -/
  | cellarEnable (ag : Agent) (v : BitVec 32)
  /-- KEY_LOAD (R315). -/
  | keyLoad (ag : Agent) (slot : BitVec 15)
  /-- KEY_ACTIVATE (R316). -/
  | keyActivate (ag : Agent) (slot : BitVec 15)
  /-- KEY_ERASE (R315). -/
  | keyErase (ag : Agent) (slot : BitVec 15)
  /-- KEY_RESTORE (R331). -/
  | keyRestore (ag : Agent)
  /-- RETIRING_TIMEOUT (R315). -/
  | retiringTimeout (slot : BitVec 14)
  /-- SHASOL_MESSAGE_RX (R403). -/
  | shasolMessageRx (n : Fin 16) (r : LinkRx)
  /-- TAG_CHECK_DONE (R327). -/
  | tagCheckDone (n : Fin 16) (good late : Bool)
  /-- SHASOL_MESSAGE_TX (R402). -/
  | shasolMessageTx (n : Fin 16) (chan : Fin 4)
  /-- HEARTBEAT_SEND (R341). -/
  | heartbeatSend
  /-- HEARTBEAT (R344). -/
  | heartbeat (h : Machine.Hb) (times : Option (Int × Int × Int × Int)) (later : Bool)
  /-- MAP (R349). -/
  | mapMsg (p : Fin 32) (sd : Side) (seq : BitVec 32) (m : Machine.BwMap)
  /-- DBA_STATE (R349). -/
  | dbaState (p : Fin 32) (seq : BitVec 32) (sfc : BitVec 51) (as : List (Fin 1024 × Machine.AllocRt))
  /-- PLOAM_Q (R355). -/
  | ploamQ (p : Fin 32) (sd : Side) (seq : BitVec 32) (sfc : BitVec 51) (enter leave : List Machine.Ploam) (waits : List Machine.AckWait)
  /-- SLOT (R528). -/
  | slotMsg (p : Fin 32) (seq : BitVec 32) (slot : Fin 256) (x : Machine.Slot) (ramp : Bool) (lfsr50 lfsr10 : BitVec 16) (admitted : Nat)
  /-- TABLE (R342). -/
  | tableMsg (p : Fin 32) (seq : BitVec 32) (w : Machine.MirrorWr)
  /-- KEY (R322). -/
  | keyMsg (p : Fin 32) (seq : BitVec 32) (k : Fin 512) (r : Machine.Root)
  /-- FAULT (R350). -/
  | faultMsg (fatal : Bool)
  /-- RELEASE (R356). -/
  | releaseMsg (seq : BitVec 32) (trees : BitVec 32) (num : Fin 3) (force : Bool)
  /-- TAKEN (R356). -/
  | takenMsg (trees : BitVec 32)
  /-- REQUEST (R356). -/
  | requestMsg (resend : Option (Fin 16 × Fin 32)) (trees : BitVec 32)
  /-- SYNC (R360). -/
  | syncMsg (p : Fin 32) (seq : BitVec 32) (c : Machine.SyncCopy)
  /-- HEARTBEAT_LOSS (R350). -/
  | heartbeatLoss
  /-- PARTNER_DARK_CHANGE (R351). -/
  | partnerDarkChange (d : Fin 3)
  /-- DARK_STUCK_TIMEOUT (R351). -/
  | darkStuckTimeout
  /-- LIVENESS_LOSS (R352). -/
  | livenessLoss
  /-- TAKEOVER_WARM (R353). -/
  | takeoverWarm
  /-- TAKE (R356). -/
  | take (ag : Agent) (v : BitVec 32)
  /-- GIVE (R356). -/
  | give (ag : Agent) (v : BitVec 32)
  /-- OFF_WAIT_EXPIRY (R356). -/
  | offWaitExpiry
  /-- RELEASE_FAIL (R356). -/
  | releaseFail
  /-- DOMAIN_EN_WRITE (R368). -/
  | domainEnWrite (ag : Agent) (d : Fin 2) (v : BitVec 32)
  /-- PHASE_SAMPLE_COMMIT (R370). -/
  | phaseSampleCommit (ag : Agent) (d : Fin 2) (v : BitVec 32)
  /-- PPS_IN_EDGE (R370). -/
  | ppsInEdge (i : Fin 2)
  /-- TOD_MESSAGE_RX (R380). -/
  | todMessageRx (i : Fin 2) (bytes : List (BitVec 8))
  /-- SOURCE_TIMEOUT (R368). -/
  | sourceTimeout (d : Fin 2)
  /-- WTR_EXPIRY (R375). -/
  | wtrExpiry
  /-- SWITCH (R373). -/
  | switchOutput (ag : Agent) (v : BitVec 32)
  /-- OUT_STEP (R374). -/
  | outStep (ag : Agent) (v : BitVec 32)
  /-- REACQUIRE (R368). -/
  | reacquire (ag : Agent) (d : Fin 2) (v : BitVec 32)
  /-- PPS_OUT_EDGE (R381). -/
  | ppsOutEdge
  /-- TOD_OUT_SEND (R381). -/
  | todOutSend
  /-- TS_RECORD_READ (R378). -/
  | tsRecordRead (ag : Agent) (tx : Bool)
  /-- TOD_ANNOUNCE (R383). -/
  | todAnnounce (p : Fin 32) (slot : Fin 256)
  /-- PON_FREQ_MEASURE (R384). -/
  | ponFreqMeasure (y : BitVec 32)
  /-- SYNCE_SQUELCH (R387). -/
  | synceSquelch (o : Fin 2)
  /-- SYNCE_RESUME (R387). -/
  | synceResume (o : Fin 2)
  /-- ULK_CFG_WRITE (R394). -/
  | ulkCfgWrite (ag : Agent) (n : Fin 24) (v : BitVec 32)
  /-- ULK_RETRAIN (R395). -/
  | ulkRetrain (ag : Agent) (n : Fin 24) (v : BitVec 32)
  /-- ULK_LINK_CHANGE (R395). -/
  | ulkLinkChange (n : Fin 24) (up : Bool) (cause : Fin 4) (anDone ltDone localFault remoteFault : Bool)
  /-- TILE_START (R397). -/
  | tileStart (n : Fin 16)
  /-- LANE_EN_WRITE (R411). -/
  | laneEnWrite (ag : Agent) (n : Fin 16) (v : BitVec 32)
  /-- RX_DETECT_PULSE (R411). -/
  | rxDetectPulse (n : Fin 16) (found : Bool)
  /-- RX_ENERGY (R411). -/
  | rxEnergy (n : Fin 16)
  /-- LANE_ENERGY_LOSS (R411). -/
  | laneEnergyLoss (n : Fin 16)
  /-- TRAINING_FRAME_RX (R410). -/
  | trainingFrameRx (n : Fin 16) (w : BitVec 32) (req : BitVec 5)
  /-- TRAIN_TIMEOUT (R411). -/
  | trainTimeout (n : Fin 16)
  /-- BIT_LOCK (R412). -/
  | bitLock (n : Fin 16)
  /-- BIT_LOCK_LOST (R412). -/
  | bitLockLost (n : Fin 16)
  /-- COMMA_RX (R413). -/
  | commaRx (n : Fin 16) (code : BitVec 8) (spaced : Bool) (stuffed errs : Nat)
  /-- COMMA_MISSING (R411). -/
  | commaMissing (n : Fin 16)
  /-- LOCK_TIMEOUT (R411). -/
  | lockTimeout (n : Fin 16)
  /-- CAP_RX (R414). -/
  | capRx (n : Fin 16) (c : Machine.Cap)
  /-- MISMATCH_HOLD_EXPIRY (R411). -/
  | mismatchHoldExpiry (n : Fin 16)
  /-- EXCHANGE_TIMEOUT (R411). -/
  | exchangeTimeout (n : Fin 16)
  /-- SHASOL_RETRAIN (R411). -/
  | shasolRetrain (ag : Agent) (n : Fin 16) (v : BitVec 32)
  /-- SESS_OFFER (R407). -/
  | sessOffer (n : Fin 16) (nonce : BitVec 64)
  /-- SESS_ANSWER (R407). -/
  | sessAnswer (n : Fin 16) (nonce : BitVec 64)
  /-- SESS_OFFER_TIMEOUT (R407). -/
  | sessOfferTimeout (n : Fin 16)
  /-- MARGIN_SAMPLE (R415). -/
  | marginSample (n : Fin 16) (m : BitVec 8) (fill : Bool)
  /-- STRAP_LATCH (R513). -/
  | strapLatch (mxp : BitVec 16)
  /-- GEN_EN_WRITE (R416). -/
  | genEnWrite (ag : Agent) (b : LaneBlock) (v : BitVec 32)
  /-- INJ_GO (R418). -/
  | injGo (ag : Agent) (b : LaneBlock) (v : BitVec 32)
  /-- CHECKER_LOCK (R417). -/
  | checkerLock (b : LaneBlock) (bits : List Bool)
  /-- CHECKER_LOCK_LOST (R417). -/
  | checkerLockLost (b : LaneBlock) (bits : List Bool)
  /-- HELLO_SEND (R424). -/
  | helloSend
  /-- HELLO (R424). -/
  | hello (n : Fin 16) (addr : BitVec 8) (lane : Fin 16) (serial : BitVec 64)
  /-- NEIGHBOUR_TIMEOUT (R424). -/
  | neighbourTimeout (n : Fin 16)
  /-- LSA (R425). -/
  | lsa (n : Fin 16) (l : Machine.Lsa)
  /-- LSA_REFRESH (R425). -/
  | lsaRefresh
  /-- LSA_EXPIRY (R425). -/
  | lsaExpiry (serial : BitVec 64)
  /-- ADDRESS_SETTLE (R426). -/
  | addressSettle
  /-- ROUTE_RECOMPUTE (R429). -/
  | routeRecompute
  /-- PACKET (R435). -/
  | packet (n : Fin 16) (bytes : List (BitVec 8)) (full : Bool)
  /-- MASTER_LOST_TIMEOUT (R438). -/
  | masterLostTimeout
  /-- FAB_CFG_WRITE (R421). -/
  | fabCfgWrite (ag : Agent) (v : BitVec 32)
  /-- BINDING_WRITE (R440). -/
  | bindingWrite (ag : Agent) (q : Fin 8192) (v : BitVec 32)
  /-- FILTER_WINDOW_END (R456). -/
  | filterWindowEnd (k : Machine.Kind) (src : Machine.Source)
  /-- FAULT_MESSAGE_RX (R458). -/
  | faultMessageRx (box : Nat) (differ : Option (BitVec 8 × Bool))
  /-- FLT_MSG_LOST (R445). -/
  | fltMsgLost (box : Nat)
  /-- SAFE_STATE_ENTRY (R467). -/
  | safeStateEntry
  /-- FAULT_QUEUE_READ (R464). -/
  | faultQueueRead (ag : Agent)
  /-- KIND_CFG_WRITE (R456). -/
  | kindCfgWrite (ag : Agent) (k : Fin 256) (v : BitVec 32)
  /-- KIND_STATUS_CLEAR (R461). -/
  | kindStatusClear (ag : Agent) (k : Fin 256) (v : BitVec 32)
  /-- ISO_RESTORE (R460). -/
  | isoRestore (ag : Agent) (v : BitVec 32)
  /-- SAFE_EXIT (R468). -/
  | safeExit (ag : Agent) (v : BitVec 32)
  /-- CAPTURE_CLR (R463). -/
  | captureClr (ag : Agent) (v : BitVec 32)
  /-- AUTO_RESTART (R469). -/
  | autoRestart
  /-- HANDSHAKE_STALL (R448). -/
  | handshakeStall (src : Machine.Source) (stage : BitVec 16)
  /-- ANALOG_CAUSE_ONSET (R452). -/
  | analogCauseOnset (c : AnalogCause)
  /-- ANALOG_CAUSE_END (R452). -/
  | analogCauseEnd (c : AnalogCause)
  /-- TEMP_SAMPLE (R452). -/
  | tempSample (i : Fin 16) (t : BitVec 8)
  /-- STEWARD_WDOG (R453). -/
  | stewardWdog (core : Fin 4) (pc : BitVec 32)
  /-- GOLDEN_PASS_DONE (R473). -/
  | goldenPassDone (id : Nat)
  /-- SRAM_SLICE_TEST (R470). -/
  | sramSliceTest (src : Machine.Source) (words : Nat) (bad : Option SliceFault) (whole : Bool)
  /-- LEDGER_SLICE_TEST (R470). -/
  | ledgerSliceTest (first : Fin 65536) (n : Nat) (bad : Option (Fin 65536))
  /-- BUFFER_AUDIT (R470). -/
  | bufferAudit (pool : Fin 4) (diff : BitVec 24)
  /-- EYE_SCAN (R470). -/
  | eyeScan (b : LaneBlock) (m : BitVec 8)
  /-- WARDEN_FORCE_START (R475). -/
  | wardenForceStart
  /-- WDN_LATE (R475). -/
  | wdnLate
  /-- TALLY_CONFIG_WRITE (R481). -/
  | tallyConfigWrite (ag : Agent) (i : Fin 4096) (v : BitVec 32)
  /-- SNAP (R486). -/
  | snap (ag : Agent) (v : BitVec 32)
  /-- SNAP_PERIODIC (R486). -/
  | snapPeriodic
  /-- SNAPSHOT_DONE (R487). -/
  | snapshotDone (skew : Fin 2001)
  /-- PM_SECOND_END (R490). -/
  | pmSecondEnd
  /-- DS_REPORT (R492). -/
  | dsReport (p : Fin 32) (slot : Fin 256) (cw unc hec lost : Nat)
  /-- DS_REPORT_REQUEST (R492). -/
  | dsReportRequest
  /-- DS_REPORT_MISSING (R492). -/
  | dsReportMissing (p : Fin 32) (slot : Fin 256)
  /-- PM_CLEAR (R496). -/
  | pmClear (ag : Agent) (v : BitVec 32)
  /-- PM_CLEAR_ALL (R496). -/
  | pmClearAll (ag : Agent) (v : BitVec 32)
  /-- POWER_ON_RESET (R503). -/
  | powerOnReset
  /-- RESET_RELEASE (R506). -/
  | resetRelease
  /-- WARM_RESET (R505). -/
  | warmReset (ag : Agent) (v : BitVec 32)
  /-- TXDIS_SAMPLE (R516). -/
  | txdisSample (present : BitVec 64)
  /-- ENTER_S1 (R507). -/
  | enterS1 (trained : BitVec 16)
  /-- BANK_FETCH_DONE (R519). -/
  | bankFetchDone (v : Option BankVerdict) (p : Machine.ImageParts)
  /-- ENTER_S2 (R509). -/
  | enterS2
  /-- ENTER_S3 (R511). -/
  | enterS3
  /-- STAGE_LATE (R512). -/
  | stageLate
  /-- HOST_IMAGE (R525). -/
  | hostImage (ag : Agent) (v : BitVec 32)
  /-- SVN_COMMIT (R533). -/
  | svnCommit (ag : Agent) (v : BitVec 32)
  /-- FLASH_ERASE (R533). -/
  | flashErase (ag : Agent) (v : BitVec 32) (err : Bool)
  /-- FLASH_PROGRAM (R533). -/
  | flashProgram (ag : Agent) (v : BitVec 32) (err : Bool)
  /-- MXP_STATUS_UPDATE (R514). -/
  | mxpStatusUpdate
  /-- MXP_FAULT_TOGGLE (R515). -/
  | mxpFaultToggle
  /-- OMCI_RESPONSE_RX (R526). -/
  | omciResponseRx (p : Fin 32) (slot : Fin 256) (good : Bool)
  /-- STW_FW_VALIDATE (R530). -/
  | stwFwValidate (ag : Agent) (v : BitVec 32) (bad : Option (Fin 10))
  /-- STW_FW_SWITCH (R531). -/
  | stwFwSwitch (ag : Agent) (v : BitVec 32)
  /-- STW_FW_READY (R531). -/
  | stwFwReady
  /-- STW_FW_FALLBACK (R532). -/
  | stwFwFallback
  /-- PCIE_RESET (R538). -/
  | pcieReset (e : PcieEvent)
  /-- FUNCTION_LEVEL_RESET (R538). -/
  | functionLevelReset (fn : Fin 33)
  /-- PCIE_LINK_DOWN (R539). -/
  | pcieLinkDown
  /-- UNASSIGNED_ACCESS (R542). -/
  | unassignedAccess (ag : Agent) (bar : Bar) (off : BitVec 26) (v : Option (BitVec 32))
  /-- WIN_READ (R543). -/
  | winRead (ag : Agent) (w : Fin 106) (v : BitVec 32)
  /-- WIN_WRITE (R543). -/
  | winWrite (ag : Agent) (w : Fin 106) (v : BitVec 32)
  /-- LOCK_OPEN (R548). -/
  | lockOpen (ag : Agent) (a : BitVec 26) (v : BitVec 32)
  /-- LOCK_CLOSE (R548). -/
  | lockClose (ag : Agent) (a : BitVec 26) (v : BitVec 32)
  /-- LOCK_SEAL (R548). -/
  | lockSeal (ag : Agent) (a : BitVec 26) (v : BitVec 32)
  /-- RING_EN_WRITE (R552). -/
  | ringEnWrite (ag : Agent) (r : Fin 128) (v : BitVec 32)
  /-- RING_TAIL_WRITE (R551). -/
  | ringTailWrite (ag : Agent) (r : Fin 128) (v : BitVec 32)
  /-- RX_RING_DELIVER (R554). -/
  | rxRingDeliver (telemetry : Bool) (bufLen : BitVec 16)
  /-- TX_ENTRY (R555). -/
  | txEntry (r : Fin 128) (e : List (BitVec 32)) (bytes : List (BitVec 8))
  /-- DMA_ERROR (R558). -/
  | dmaError (r : Fin 128) (code : Fin 5)
  /-- COAL_TIMER_EXPIRY (R559). -/
  | coalTimerExpiry (r : Fin 128)
  /-- REARM (R559). -/
  | rearm (ag : Agent) (v : BitVec 32)
  /-- VF_PORTS_WRITE (R541). -/
  | vfPortsWrite (ag : Agent) (vf : Fin 33) (v : BitVec 32)
  /-- REGISTER_WRITE (R6). -/
  | registerWrite (ag : Agent) (bar : Bar) (off : BitVec 26) (v : BitVec 32)
  /-- PPS_MISSED (R380). -/
  | ppsMissed (i : Fin 2)
  /-- PCIE_LINK_UP (R539). -/
  | pcieLinkUp (rate : Fin 7) (width : Fin 32) (flit : Bool)
  /-- REGISTER_READ (R10). -/
  | registerRead (ag : Agent) (bar : Bar) (off : BitVec 26)
  /-- RESTART_AGE_OUT (R469). -/
  | restartAgeOut
deriving DecidableEq, Repr

end Sys2Proof
end

