-- ==== Sys2Proof/Machine/StHrl.lean ====
section
/-! DEFINITION. The Horologer: what 11_time_and_synchronization.md keeps besides register words. Times are in units of
2^−48 ns, the resolution of FREQ. -/

namespace Sys2Proof.Machine

set_option autoImplicit false

/-- Domain states (Table 11-1). -/
inductive DomState where
  | freerun | acquiring | tracking | locked | holdover
deriving DecidableEq, Repr

/-- STATE code of Table 11-5. -/
def DomState.code : DomState → Nat
  | .freerun => 0 | .acquiring => 1 | .tracking => 2 | .locked => 3 | .holdover => 4

/-- A time domain (R366, R368, R371): its time stood at `base` when the free count stood at `since` and has advanced by
1 + FREQ a nanosecond from then on; the servo's I; the free count of the last accepted sample and of the last sample;
runs of samples toward LOCKED and out of it; past values of FREQ with the count they began at, newest first. -/
structure Dom where
  state : DomState
  stepped : Bool
  freq : Int
  i : Int
  base : Int
  since : Nat
  accepted : Option Nat
  sampled : Option Nat
  lockRun : Nat
  outRun : Nat
  hist : List (Nat × Int)
deriving DecidableEq, Repr

/-- A domain at reset: FREERUN from time 0. -/
def Dom.reset : Dom := ⟨.freerun, false, 0, 0, 0, 0, none, none, 0, 0, [(0, 0)]⟩

/-- A PPS input (R369, R380): free count of the last edge, seconds of the valid ToD message for the next edge, seconds of
the last edge, consecutive good edges. -/
structure PpsIn where
  edge : Option Nat
  tod : Option Nat
  sec : Option Nat
  run : Nat
deriving DecidableEq, Repr

/-- An input with no edge. -/
def PpsIn.reset : PpsIn := ⟨none, none, none, 0⟩

/-- A timestamp record entry (Table 11-12): lane, messageType, domain, sequenceId, time. -/
structure TsRec where
  lane : Nat
  mtype : Nat
  dom : Nat
  seq : Nat
  time : Int
deriving DecidableEq, Repr

/-- The Horologer besides words: domains, inputs, OFS as it stood at a count, receive and send records, the count of the
last rise of PPS_OUT, the last message of TOD_OUT, squelched SyncE outputs, last announcement by ONU node (frame it was computed in, frame it names,
T_send). -/
structure Hrl where
  domA : Dom
  domB : Dom
  in0 : PpsIn
  in1 : PpsIn
  ofs : Int
  ofsAt : Nat
  tsRx : List TsRec
  tsTx : List TsRec
  ppsOut : Option Nat
  todOut : List Byte
  squelch0 : Bool
  squelch1 : Bool
  ann : Tab (Nat × Nat × Int)
deriving DecidableEq, Repr

/-- The Horologer at reset. -/
def Hrl.reset : Hrl := ⟨Dom.reset, Dom.reset, PpsIn.reset, PpsIn.reset, 0, 0, [], [], none, [], false, false, []⟩

end Sys2Proof.Machine
end

