-- ==== Sys2Proof/Machine/StHst.lean ====
section
/-! DEFINITION. The host port: what 17_host_interface_and_register_map.md keeps besides register words. -/

namespace Sys2Proof.Machine

set_option autoImplicit false

/-- A PCIe function (R539): Bus Master Enable, D3hot, pending MSI-X vectors, messages sent by vector. -/
structure Fn where
  bme : Bool
  d3 : Bool
  pend : List Nat
  sent : Tab Nat
deriving DecidableEq, Repr

/-- A function at reset: Bus Master Enable 0, in D0, nothing pending. -/
def Fn.reset : Fn := ⟨false, false, [], []⟩

/-- A ring's run time (R554, R559): completions since its last message and the time of the first, the last entry the device
wrote as (index, words 2 and 4 to 7, data), the last head write-back as (address, HEAD). -/
structure RingRt where
  comp : Nat
  since : Option Nat
  last : Option (Nat × List Word × List Byte)
  wb : Option (Nat × Nat)
deriving DecidableEq, Repr

/-- A ring at reset. -/
def RingRt.reset : RingRt := ⟨0, none, none, none⟩

/-- The host port besides words: functions, rings, whether the link has been up since reset, the level of PF vector 0, and
the Uncorrectable Internal Errors reported (R466). -/
structure Hst where
  fns : Tab Fn
  rings : Tab RingRt
  seen : Bool
  level : Bool
  aer : Nat
deriving DecidableEq, Repr

/-- The host port at reset. -/
def Hst.reset : Hst := ⟨[], [], false, false, 0⟩

end Sys2Proof.Machine
end

