-- ==== Sys2Proof/Machine/StTly.lean ====
section
/-! DEFINITION. Tally counters and snapshots: what 15_counters_and_observability.md R479 to R489 keep besides register words. -/

namespace Sys2Proof.Machine

set_option autoImplicit false

/-- A 48-bit counter in the format of R64: count and WRAPPED flag. -/
structure Ctr where
  count : Nat
  wrapped : Bool
deriving DecidableEq, Repr

/-- A counter no event has counted in. -/
def Ctr.zero : Ctr := ⟨0, false⟩

/-- Addition to a counter: WRAPPED is set when the count passes 2^48 − 1 (R64). -/
def Ctr.add (c : Ctr) (n : Nat) : Ctr := ⟨(c.count + n) % 2 ^ 48, c.wrapped || decide (2 ^ 48 ≤ c.count + n)⟩

/-- A counter as a 64-bit number: WRAPPED in bit 63 (R64). -/
def Ctr.bits (c : Ctr) : Nat := c.count % 2 ^ 48 + (if c.wrapped then 2 ^ 63 else 0)

/-- Configuration of a tally counter in force (Table 15-3). -/
structure TlyCfg where
  en : Bool
  owner : Nat
  event : Nat
  qual : Nat
  qmask : Nat
  any : Bool
  func : Nat
  master : Nat
  mid : Nat
  access : Nat
  lo : Nat
  hi : Nat
deriving DecidableEq, Repr

/-- A counter at reset. -/
def TlyCfg.reset : TlyCfg := ⟨false, 0, 0, 0, 0, true, 0, 0, 0, 15, 0, 2 ^ 64 - 1⟩

/-- A snapshot bank or a snapshot being taken (Table 15-4): SEQ, TRIGGER, T_FIRST, SKEW, output time in 2^−48 ns, LOCKED,
entries as 64-bit numbers. -/
structure Snap where
  seq : Nat
  trigger : Nat
  first : Nat
  skew : Nat
  out : Int
  locked : Bool
  entries : Tab Nat
deriving DecidableEq, Repr

/-- A bank never filled. -/
def Snap.none : Snap := ⟨0, 0, 0, 0, 0, false, []⟩

/-- A record on its way to the telemetry ring (R557): TYPE and bytes. -/
structure TelRec where
  type_ : Nat
  bytes : List Byte
deriving DecidableEq, Repr

/-- Tallyman besides words: configurations, counts, the snapshot under way, the two banks, records waiting for the telemetry
ring. -/
structure Tly where
  cfg : Tab TlyCfg
  vals : Tab Ctr
  snap : Option Snap
  bank0 : Snap
  bank1 : Snap
  export_ : List TelRec
deriving DecidableEq, Repr

/-- Tallyman at reset. -/
def Tly.reset : Tly := ⟨[], [], none, Snap.none, Snap.none, []⟩

end Sys2Proof.Machine
end

