-- ==== Sys2Proof/Machine/Windows.lean ====
section
/-! DEFINITION. Keys, reset values and writable bits of the words that lie behind the window ports
(17_host_interface_and_register_map.md Tables 17-4 and 17-5), and the one table of all software-visible words. -/

namespace Sys2Proof.Machine

set_option autoImplicit false

/-- Windows by number (Table 17-5). -/
abbrev wWhf : Nat := 96
abbrev wFsi : Nat := 97
abbrev wLdg : Nat := 98
abbrev wExm : Nat := 99
abbrev wCpg : Nat := 100
abbrev wSch : Nat := 101
abbrev wKey : Nat := 102
abbrev wHrl : Nat := 103
abbrev wTly : Nat := 104
abbrev wShl : Nat := 105

/-- Key of word `j` of entry `idx` of window `w`, above every BAR0 address. -/
abbrev winKey (w idx j : Nat) : Nat := 2 ^ 40 + w * 2 ^ 32 + idx * 2 ^ 8 + j

/-- Reset value of a word of an entry: Tables 4-1, 8-13, 8-14, 15-3; every other table's words reset to 0. -/
def winReset (w idx j : Nat) : Word :=
  if w = wWhf ∧ idx < 32768 then
    match j with
    | 0 => 0x01000000#32 | 2 => 0x08000000#32 | 3 => 0x01800000#32 | 4 => 0x00000048#32 | _ => 0#32
  else if w = wSch ∧ idx < 0x12000 then
    match j with
    | 0 => 0x4021FFFF#32 | 2 => 0x000100C0#32 | 3 => 0x01000080#32 | _ => 0#32
  else if w = wSch ∧ 0x20000 ≤ idx ∧ idx < 0x22000 then
    match j with
    | 0 => 0x3009FFFF#32 | 1 => 0x80000000#32 | _ => 0#32
  else if w = wSch ∧ 0x24000 ≤ idx ∧ idx < 0x24068 then
    if j = 0 then
      let m := idx - 0x24000
      let quota := if m < 64 then (if m % 2 = 0 then 12 else 3) else if m < 88 then 16 else 4
      BitVec.ofNat 32 (2 ^ 31 + quota * 2 ^ 21 + 6 * 2 ^ 18 + 0x1FFFF)
    else 0#32
  else if w = wTly then
    match j with
    | 4 => 0x80003C00#32 | 7 => 0xFFFFFFFF#32 | 8 => 0xFFFFFFFF#32 | _ => 0#32
  else 0#32

/-- Key of word `off` / 4 of the MSI-X table of a function (Table 17-2), between the BAR0 addresses and the windows. -/
abbrev msixKey (fn off : Nat) : Nat := 2 ^ 39 + fn * 2 ^ 20 + off

/-- Reset value of every word the model keeps, by key: an MSI-X vector is masked (PRESUMED, log entry 32). -/
def wordReset (a : Nat) : Word :=
  if a < 2 ^ 39 then regReset a
  else if a < 2 ^ 40 then (if a % 16 = 12 ∧ a % 2 ^ 20 < 1024 then 1#32 else 0#32)
  else winReset ((a - 2 ^ 40) / 2 ^ 32) ((a - 2 ^ 40) % 2 ^ 32 / 2 ^ 8) (a % 2 ^ 8)

/-- Register and table words, sparse. -/
abbrev Words := Tab Word

/-- The word at a key. -/
def Words.word (t : Words) (a : Nat) : Word := Tab.get wordReset t a

/-- Store of a whole word. -/
def Words.put (t : Words) (a : Nat) (v : Word) : Words := Tab.set wordReset t a v

/-- The bits of a field. -/
def fieldMask (lo w : Nat) : Word := BitVec.ofNat 32 ((2 ^ w - 1) * 2 ^ lo)

/-- Value of a field. -/
def Words.rd (t : Words) (f : Fld) : Nat := (t.word f.addr).toNat / 2 ^ f.lo % 2 ^ f.w

/-- A word with a field replaced. -/
def putField (x : Word) (lo w v : Nat) : Word :=
  (x &&& ~~~ fieldMask lo w) ||| (BitVec.ofNat 32 (v % 2 ^ w * 2 ^ lo))

/-- Store of one field. -/
def Words.wr (t : Words) (f : Fld) (v : Nat) : Words := t.put f.addr (putField (t.word f.addr) f.lo f.w v)

/-- A field of a window entry. -/
abbrev winFld (w idx j lo n : Nat) : Fld := ⟨winKey w idx j, lo, n⟩

/-- Allocation entry fields (Table 4-1); `i` is tree × 1,024 + allocation index. -/
abbrev Win.ALLOC_EN (i : Nat) : Fld := winFld wWhf i 0 31 1
abbrev Win.ALLOC_SIDE (i : Nat) : Fld := winFld wWhf i 0 30 1
abbrev Win.ALLOC_TYPE (i : Nat) : Fld := winFld wWhf i 0 28 2
abbrev Win.ALLOC_CLASS (i : Nat) : Fld := winFld wWhf i 0 25 3
abbrev Win.ALLOC_DBRU (i : Nat) : Fld := winFld wWhf i 0 24 1
abbrev Win.ALLOC_ONU (i : Nat) : Fld := winFld wWhf i 0 14 8
abbrev Win.ALLOC_ID (i : Nat) : Fld := winFld wWhf i 0 0 14
abbrev Win.ALLOC_ASSURED (i : Nat) : Fld := winFld wWhf i 1 0 20
abbrev Win.ALLOC_PEAK_BURST (i : Nat) : Fld := winFld wWhf i 2 24 4
abbrev Win.ALLOC_PEAK (i : Nat) : Fld := winFld wWhf i 2 0 20
abbrev Win.ALLOC_WEIGHT (i : Nat) : Fld := winFld wWhf i 3 24 8
abbrev Win.ALLOC_POLL (i : Nat) : Fld := winFld wWhf i 3 20 4
abbrev Win.ALLOC_MAX_GRANT (i : Nat) : Fld := winFld wWhf i 3 0 20
abbrev Win.ALLOC_PKT_EST (i : Nat) : Fld := winFld wWhf i 4 0 16

/-- Connection memory entry fields (Table 4-4); index tree × 8,192 + page × 4,096 + side × 2,048 + frame × 256 + slot. -/
abbrev Win.FSI_UP_V (i : Nat) : Fld := winFld wFsi i 0 31 1
abbrev Win.FSI_UP_BRK (i : Nat) : Fld := winFld wFsi i 0 30 1
abbrev Win.FSI_ALLOC_IDX (i : Nat) : Fld := winFld wFsi i 0 20 10
abbrev Win.FSI_DN_V (i : Nat) : Fld := winFld wFsi i 0 19 1
abbrev Win.FSI_XGEM_CTX (i : Nat) : Fld := winFld wFsi i 0 0 16

/-- Queue entry fields (Table 8-13); uplink-side queue q at 65,536 + q. -/
abbrev Win.Q_EN (q : Nat) : Fld := winFld wSch q 0 31 1
abbrev Win.Q_CELLAR_EN (q : Nat) : Fld := winFld wSch q 0 30 1
abbrev Win.Q_FIXED (q : Nat) : Fld := winFld wSch q 0 29 1
abbrev Win.Q_WEIGHT (q : Nat) : Fld := winFld wSch q 0 21 8
abbrev Win.Q_BUCKET (q : Nat) : Fld := winFld wSch q 0 0 17
abbrev Win.Q_BIND_CTX (q : Nat) : Fld := winFld wSch q 1 16 16
abbrev Win.Q_NODE (q : Nat) : Fld := winFld wSch q 1 10 6
abbrev Win.Q_CLASS (q : Nat) : Fld := winFld wSch q 1 7 3
abbrev Win.Q_MAX (q : Nat) : Fld := winFld wSch q 2 8 24
abbrev Win.Q_YELLOW_MAX (q : Nat) : Fld := winFld wSch q 2 0 8
abbrev Win.Q_ONCHIP_MAX (q : Nat) : Fld := winFld wSch q 3 16 16
abbrev Win.Q_REFILL (q : Nat) : Fld := winFld wSch q 3 0 16
abbrev Win.Q_DN_CTX_V (q : Nat) : Fld := winFld wSch q 10 31 1
abbrev Win.Q_DN_CTX (q : Nat) : Fld := winFld wSch q 10 0 16

/-- ONU node and top node fields (Table 8-14). -/
abbrev Win.ONU_KIND (n : Nat) : Fld := winFld wSch (0x20000 + n) 0 31 1
abbrev Win.ONU_GROUP_SIDE (n : Nat) : Fld := winFld wSch (0x20000 + n) 0 30 1
abbrev Win.ONU_SP_MIN (n : Nat) : Fld := winFld wSch (0x20000 + n) 0 27 3
abbrev Win.ONU_WEIGHT (n : Nat) : Fld := winFld wSch (0x20000 + n) 0 19 8
abbrev Win.ONU_BUCKET (n : Nat) : Fld := winFld wSch (0x20000 + n) 0 0 17
abbrev Win.TOP_EN (m : Nat) : Fld := winFld wSch (0x24000 + m) 0 31 1
abbrev Win.TOP_QUOTA (m : Nat) : Fld := winFld wSch (0x24000 + m) 0 21 10
abbrev Win.TOP_SP_MIN (m : Nat) : Fld := winFld wSch (0x24000 + m) 0 18 3
abbrev Win.TOP_BUCKET (m : Nat) : Fld := winFld wSch (0x24000 + m) 0 0 17

/-- Token bucket fields (Table 8-15); bucket b lies at index 0x4_0000 + 8 b. -/
abbrev Win.BK_MODE (b : Nat) : Fld := winFld wSch (0x40000 + b * 8) 0 30 2
abbrev Win.BK_YELLOW_ACT (b : Nat) : Fld := winFld wSch (0x40000 + b * 8) 0 28 2
abbrev Win.BK_RED_ACT (b : Nat) : Fld := winFld wSch (0x40000 + b * 8) 0 27 1
abbrev Win.BK_OVERHEAD (b : Nat) : Fld := winFld wSch (0x40000 + b * 8) 0 0 8
abbrev Win.BK_CIR (b : Nat) : Fld := winFld wSch (0x40000 + b * 8) 1 0 32
abbrev Win.BK_PIR (b : Nat) : Fld := winFld wSch (0x40000 + b * 8) 2 0 32
abbrev Win.BK_CBS (b : Nat) : Fld := winFld wSch (0x40000 + b * 8) 3 0 24
abbrev Win.BK_PBS (b : Nat) : Fld := winFld wSch (0x40000 + b * 8) 4 0 24

/-- Replication head and member fields (Table 8-12). -/
abbrev Win.HEAD_EN (g : Nat) : Fld := winFld wCpg g 0 31 1
abbrev Win.HEAD_FIRST (g : Nat) : Fld := winFld wCpg g 0 12 17
abbrev Win.HEAD_COUNT (g : Nat) : Fld := winFld wCpg g 0 0 12
abbrev Win.MEM_QUEUE (m : Nat) : Fld := winFld wCpg (0x20000 + m) 0 0 17
abbrev Win.MEM_XGEM_CTX (m : Nat) : Fld := winFld wCpg (0x20000 + m) 1 0 16

/-- Context cipher entry (Table 9-12). -/
abbrev Win.CTX_ENC (c : Nat) : Fld := winFld wKey (0x10000 + c) 0 31 1
abbrev Win.CTX_NODE (c : Nat) : Fld := winFld wKey (0x10000 + c) 0 0 13

/-- Remote binding (Table 13-8). -/
abbrev Win.BIND_EN (q : Nat) : Fld := winFld wShl q 0 31 1
abbrev Win.BIND_DQ_DIR (q : Nat) : Fld := winFld wShl q 0 30 1
abbrev Win.BIND_DEST (q : Nat) : Fld := winFld wShl q 0 24 6
abbrev Win.BIND_DQ (q : Nat) : Fld := winFld wShl q 0 0 16

/-- Tally counter entry (Table 15-3). -/
abbrev Win.TLY_EN (i : Nat) : Fld := winFld wTly i 0 31 1
abbrev Win.TLY_OWNER (i : Nat) : Fld := winFld wTly i 0 25 6
abbrev Win.TLY_EVENT (i : Nat) : Fld := winFld wTly i 0 0 12
abbrev Win.TLY_QUAL (i : Nat) : Fld := winFld wTly i 1 0 20
abbrev Win.TLY_QMASK (i : Nat) : Fld := winFld wTly i 2 0 20

end Sys2Proof.Machine
end

