-- ==== Sys2Proof/Machine/State.lean ====
section
/-! DEFINITION. The state of the block, its state after reset, and the reasons a command can stop. -/

namespace Sys2Proof.Machine

set_option autoImplicit false

/-- Reasons a command faults. No command of the model faults: the type has one constructor, which no meaning answers
with (safe: a stop proves nothing false). -/
inductive Fault where
  /-- Raised by no command. Safe. -/
  | none
deriving DecidableEq, Repr

/-- Reasons a command is refused. -/
inductive Refusal where
  /-- The command of this mnemonic has no meaning yet: raised by exec's arm for it. Safe: the machine stops. -/
  | notModelled (mnemonic : String)
deriving DecidableEq, Repr

/-- The state of the block. -/
structure State where
  /-- Register words and window table words (R6, R543). -/
  words : Words
  /-- Latched higher words of wide values, by address (R10). -/
  latch : Words
  /-- 48-bit counters by address (R64). -/
  ctrs : Tab Ctr
  /-- Free-running count HRL_FREE in ns, 64 bits (R364). -/
  now : Nat
  /-- The model's own counter that free values are taken from. -/
  free : Nat
  /-- Commands waiting, first in, first out. -/
  pending : List Instr
  flt : Flt
  pon : Pon
  act : Act
  whf : Whf
  cpg : Cpg
  keys : Keys
  pm : Pm
  stw : Stw
  twn : Twn
  ldg : Ldg
  eng : Eng
  fwd : Fwd
  hrl : Hrl
  shl : Shl
  tly : Tly
  wdn : Wdn
  boot : Boot
  hst : Hst
  /-- Last word a read returned to each accessor, by agent code (R541). -/
  rdata : Words
deriving DecidableEq, Repr

/-- The state after power-on reset. -/
def State.reset : State :=
  { words := [], latch := [], ctrs := [], now := 0, free := 0, pending := []
    flt := Flt.reset
    pon := ⟨[], [], [], []⟩
    act := ⟨[], [], [], [], []⟩
    whf := Whf.reset
    cpg := Cpg.reset
    keys := Keys.reset
    pm := Pm.reset
    stw := Stw.reset
    twn := Twn.reset
    ldg := Ldg.reset
    eng := Eng.reset
    fwd := Fwd.reset
    hrl := Hrl.reset
    shl := Shl.reset
    tly := Tly.reset
    wdn := Wdn.reset
    boot := Boot.reset
    hst := Hst.reset
    rdata := [] }

end Sys2Proof.Machine
end

