-- ==== Sys2Proof/Machine/Ops.lean ====
section
/-! DEFINITION. The named operations over the state: words and fields, counters, fault messages, denied accesses,
free values. Every family writes through these. -/

namespace Sys2Proof.Machine

set_option autoImplicit false

/-- The next state of a command. -/
abbrev ok (s : State) : Host.Outcome State Fault Refusal := .next s

/-- The word at a key. -/
def State.word (s : State) (a : Nat) : Word := s.words.word a

/-- Value of a field. -/
def State.rd (s : State) (f : Fld) : Nat := s.words.rd f

/-- A one-bit field is 1. -/
def State.bit (s : State) (f : Fld) : Bool := s.words.rd f != 0

/-- Store of one field. -/
def State.wr (s : State) (f : Fld) (v : Nat) : State := { s with words := s.words.wr f v }

/-- Store of a whole word. -/
def State.putWord (s : State) (a : Nat) (v : Word) : State := { s with words := s.words.put a v }

/-- Reading of a field as a two's-complement number of its width. -/
def State.rdInt (s : State) (f : Fld) : Int :=
  let v := s.words.rd f
  if v < 2 ^ (f.w - 1) then (v : Int) else (v : Int) - 2 ^ f.w

/-- A number as the bits of a field of width `w`. -/
def intBits (w : Nat) (v : Int) : Nat := (v % 2 ^ w).toNat

/-- The counter at an address. -/
def State.ctr (s : State) (a : Nat) : Ctr := Tab.get (fun _ => Ctr.zero) s.ctrs a

/-- Event code and base qualifier of the counter at an address (Table 15-2): block code in bits 11:6, index below; the
instance, side, lane, class or pool that the address names. Addresses of counters that are no events answer none. -/
def eventOf (a : Nat) : Option (Nat × Nat) :=
  let ev := fun (blk i q : Nat) => some (blk * 64 + i, q)
  if 0x100000 ≤ a ∧ a < 0x300000 then
    let p := (a - 0x100000) / 0x10000
    let o := a % 0x10000
    if 0x800 ≤ o ∧ o < 0xA00 ∧ o % 0x100 < 0xA0 then ev 0x11 (o % 0x100 / 8) (p * 2 ^ 15 + (o - 0x800) / 0x100 * 2 ^ 14)
    else if 0xA00 ≤ o ∧ o < 0xC00 ∧ o % 0x100 < 0x80 then ev 0x11 (32 + o % 0x100 / 8) (p * 2 ^ 15 + (o - 0xA00) / 0x100 * 2 ^ 14)
    else none
  else if 0x301000 ≤ a ∧ a < 0x305000 ∧ a % 0x100 < 0xB8 then
    ev 0x12 (a % 0x100 / 8) ((a - 0x301000) / 0x200 * 2 ^ 15 + (a - 0x301000) / 0x100 % 2 * 2 ^ 14)
  else if 0xC4000 ≤ a ∧ a < 0xC4C80 ∧ a % 0x80 < 0x60 then
    let i := a % 0x80 / 8
    ev 0x0D i ((a - 0xC4000) / 0x80 * 2 ^ 8 + (if 4 ≤ i then i - 4 else 0))
  else if 0xB1000 ≤ a ∧ a < 0xB1030 then ev 0x0C (a % 0x100 / 8) 0
  else if 0xB1100 ≤ a ∧ a < 0xB1500 then ev 0x0C (6 + a % 0x10 / 8) ((a - 0xB1100) / 0x10 * 2 ^ 8)
  else if 0x400000 ≤ a ∧ a < 0x800000 ∧ 0x800 ≤ a % 0x10000 ∧ a % 0x10000 < 0x848 then ev 0x16 ((a % 0x10000 - 0x800) / 8) 0
  else if 0xD2000 ≤ a ∧ a < 0xD2800 ∧ a % 0x40 < 0x30 then ev 0x0E (a % 0x40 / 8) ((a - 0xD2000) / 0x40)
  else if 0xD3000 ≤ a ∧ a < 0xD3038 then ev 0x0E (8 + (a - 0xD3000) / 8) 0
  else if 0xE3000 ≤ a ∧ a < 0xE3028 then ev 0x0F ((a - 0xE3000) / 8) 0
  else if 0x91000 ≤ a ∧ a < 0x91100 ∧ a % 0x40 < 0x18 then ev 0x0A (a % 0x40 / 8) ((a - 0x91000) / 0x40)
  else if 0x91200 ≤ a ∧ a < 0x91240 then ev 0x0A 3 ((a - 0x91200) / 8 * 2 ^ 17)
  else if 0x91300 ≤ a ∧ a < 0x91350 then ev 0x0A (8 + (a - 0x91300) / 8) 0
  else if 0xA1000 ≤ a ∧ a < 0xA1048 then ev 0x0B ((a - 0xA1000) / 8) 0
  else if 0x81000 ≤ a ∧ a < 0x81078 then ev 0x09 ((a - 0x81000) / 8) (if 9 ≤ (a - 0x81000) / 8 ∧ (a - 0x81000) / 8 ≤ 12 then 2 ^ 15 else 0)
  else if 0x51000 ≤ a ∧ a < 0x51060 then ev 0x06 ((a - 0x51000) / 8) 0
  else if 0x31000 ≤ a ∧ a < 0x31040 ∧ a % 0x20 < 0x18 then ev 0x04 (a % 0x20 / 8) ((a - 0x31000) / 0x20)
  else if 0x31040 ≤ a ∧ a < 0x31070 then ev 0x04 (3 + (a - 0x31040) % 0x18 / 8) ((a - 0x31040) / 0x18)
  else if 0x31070 ≤ a ∧ a < 0x310A8 then ev 0x04 (6 + (a - 0x31070) / 8) 0
  else if 0x61000 ≤ a ∧ a < 0x61800 ∧ a % 0x80 < 0x68 then ev 0x07 (a % 0x80 / 8) ((a - 0x61000) / 0x80)
  else if 0x61800 ≤ a ∧ a < 0x61850 then ev 0x07 (16 + (a - 0x61800) / 8) 0
  else if 0x320000 ≤ a ∧ a < 0x338000 ∧ 0x100 ≤ a % 0x1000 ∧ a % 0x1000 < 0x120 then ev 0x14 ((a % 0x1000 - 0x100) / 8) ((a - 0x320000) / 0x1000)
  else if 0x13000 ≤ a ∧ a < 0x13030 then ev 0x02 ((a - 0x13000) / 8) 0
  else if 0xF1000 ≤ a ∧ a < 0xF1038 then ev 0x10 ((a - 0xF1000) / 8) 0
  else none

/-- Block code and instance that holds a tally counter (Table 15-1); instance none where the counter serves them all. -/
def tallyGroup (i : Nat) : List Nat × Option Nat :=
  if i < 1024 then ([0x11], some (i / 32))
  else if i < 1280 then ([0x12], none)
  else if i < 1536 then ([0x16], some ((i - 1280) / 4))
  else if i < 1664 then ([0x0D], none)
  else if i < 1792 then ([0x0C], none)
  else if i < 1920 then ([0x0E], none)
  else if i < 2048 then ([0x0F], none)
  else if i < 3104 then ([0x0B], none)
  else if i < 3360 then ([0x0A], none)
  else if i < 3616 then ([0x09], none)
  else if i < 3744 then ([0x07], none)
  else if i < 3840 then ([0x14], some ((i - 3744) / 4))
  else if i < 3904 then ([0x06], none)
  else if i < 3968 then ([0x04], none)
  else if i < 4032 then ([0x02, 0x10], none)
  else if i < 4064 then ([0x15], none)
  else if i < 4080 then ([0x08], none)
  else ([0x0A], none)

/-- Instance an event happened in, by the address of its counter. -/
def eventInst (a : Nat) : Nat :=
  if a < 0x300000 then (a - 0x100000) / 0x10000 else if a < 0x340000 then (a - 0x320000) / 0x1000 else (a - 0x400000) / 0x10000

/-- Who made a privileged access (R484): function, MASTER, MASTER_ID, ACCESS bits, address. -/
structure PrivAcc where
  func : Nat
  master : Nat
  mid : Nat
  access : Nat
  addr : Nat
deriving DecidableEq, Repr

/-- The filter of R484. -/
def TlyCfg.passes (c : TlyCfg) (x : PrivAcc) : Bool :=
  (c.any || c.func == x.func) && (c.master == 0 || (c.master == x.master && (c.master == 3 || 5 ≤ c.master || c.mid == x.mid)))
    && c.access &&& x.access != 0 && decide (c.lo ≤ x.addr ∧ x.addr ≤ c.hi)

/-- Tally counters that count an event (R479, R480, R484), each by `n`. -/
def State.tally (s : State) (code q inst n : Nat) (priv : Option PrivAcc) : State :=
  let hits := s.tly.cfg.filter (fun x =>
    let g := tallyGroup x.1
    x.2.en && x.2.event == code && ((q ^^^ x.2.qual) &&& x.2.qmask) == 0 && (g.2.isNone || g.2 == some inst) && g.1.contains (code / 64)
      && (match priv with | some a => decide (4032 ≤ x.1) && x.2.passes a | none => decide (x.1 < 4032)))
  { s with tly := { s.tly with vals := hits.foldl (fun t x => Tab.mod (fun _ => Ctr.zero) t x.1 (fun c => c.add n)) s.tly.vals } }

/-- `n` events counted at an address, with the qualifier bits the address does not give (R480). -/
def State.countQ (s : State) (a n q : Nat) : State :=
  let s1 : State := { s with ctrs := Tab.set (fun _ => Ctr.zero) s.ctrs a ((s.ctr a).add n) }
  match eventOf a with
  | some e => if n = 0 then s1 else s1.tally e.1 (e.2 ||| q) (eventInst a) n none
  | none => s1

/-- `n` events counted at an address. -/
def State.count (s : State) (a n : Nat) : State := s.countQ a n 0

/-- One event counted with qualifier bits. -/
def State.incQ (s : State) (a q : Nat) : State := s.countQ a 1 q

/-- One event counted. -/
def State.inc (s : State) (a : Nat) : State := s.count a 1

/-- FLT_KIND[k] word 0 of a kind. -/
def State.kindCfg (s : State) (k : Kind) : Word := s.word (Reg.FLT_KIND_W0.addr k.code)

/-- FAULT_RAISE (R443, R445): a message of a kind from a source. -/
def State.raise (s : State) (k : Kind) (src : Source) (addr : Nat) : State :=
  { s with flt := s.flt.raise (s.kindCfg k) s.now k src addr }

/-- Onset of a persisting cause with its message (R461). -/
def State.onset (s : State) (k : Kind) (src : Source) (sub addr : Nat) : State :=
  { s with flt := s.flt.onset (s.kindCfg k) s.now k src sub addr }

/-- End of a persisting cause. -/
def State.endCause (s : State) (k : Kind) (src : Source) (sub : Nat) : State :=
  { s with flt := s.flt.endCause k src sub }

/-- A message raised at most once in each span of `ns` nanoseconds per key (R172, R550, R554). -/
def State.raiseLimited (s : State) (k : Kind) (src : Source) (addr key ns : Nat) : State :=
  let t := Tab.get (fun _ => 0) s.flt.limited (k.code * 65536 + key)
  if t ≠ 0 ∧ s.now + 1 < t + ns then s
  else
    let s := { s with flt := { s.flt with limited := Tab.set (fun _ => 0) s.flt.limited (k.code * 65536 + key) (s.now + 1) } }
    s.raise k src addr

/-- Reasons of a denied access (R550). -/
inductive Deny where
  | locked | prot | scope | refused | badAddr | disabled
deriving DecidableEq, Repr

/-- REASON code. -/
def Deny.code : Deny → Nat
  | .locked => 1 | .prot => 2 | .scope => 3 | .refused => 4 | .badAddr => 5 | .disabled => 6

/-- An event of a privileged catalogue row (R483, R484), by `n`. -/
def State.priv (s : State) (code q n : Nat) (x : PrivAcc) : State := s.tally code q 0 n (some x)

/-- DENIED_ACCESS (R550): counted in HST_DENIED_CNT, captured in HST_DENIED_LAST while that holds nothing, and
raised as HST_DENIED at most once in each 1 ms. `addr` is the BAR offset or window index, `win` the window or
0xFF_FFFF; `rd` says the access was a read. -/
def State.denyAs (s : State) (rd : Bool) (ag : Agent) (r : Deny) (addr win : Nat) : State :=
  let s1 := (s.inc Cnt.HST_DENIED).priv 0x202 ag.code 1 ⟨ag.code, ag.master, 0, if rd then 1 else 2, addr⟩
  let s2 :=
    if s1.bit Reg.HST_DENIED_LAST_W0.VALID then s1
    else
      let w0 := BitVec.ofNat 32 (2 ^ 31 + r.code * 2 ^ 28 + ag.code * 2 ^ 22)
      ((s1.putWord Reg.HST_DENIED_LAST_W0.addr w0).putWord Reg.HST_DENIED_LAST_W1.addr (BitVec.ofNat 32 addr)).putWord
        Reg.HST_DENIED_LAST_W2.addr (BitVec.ofNat 32 (win % 2 ^ 24))
  s2.raiseLimited .HST_DENIED ⟨.HST, 0⟩ (r.code * 2 ^ 28 + ag.code * 2 ^ 22) 0 1000000

/-- A denied write. -/
def State.deny (s : State) (ag : Agent) (r : Deny) (addr win : Nat) : State := s.denyAs false ag r addr win

/-- TLPS and TLP_BYTES of an access through the host port (Table 15-2, R484). -/
def State.tlps (s : State) (n bytes : Nat) (x : PrivAcc) : State := (s.priv 0x200 x.func n x).priv 0x201 x.func bytes x

/-- The TLP of a host function's register access; its bytes are a free value (log entry 39). -/
def State.hostTlp (s : State) (rd : Bool) (ag : Agent) (addr : Nat) : State :=
  match ag with
  | .steward | .image => s
  | _ => ({ s with free := s.free + 1 } : State).tlps 1 (Config.freeValue s.free) ⟨ag.code, 3, 0, if rd then 1 else 2, addr⟩

/-- A word returned to an accessor. -/
def State.answer (s : State) (ag : Agent) (w : Word) : State := { s with rdata := Tab.set (fun _ => 0#32) s.rdata ag.code w }

/-- A latched word (R10): its reset value until the lowest word of its value has been read. -/
def State.latched (s : State) (a : Nat) : Word := s.latch.word a

/-- A word latched by a read of the lowest word of its value (R10). -/
def State.setLatch (s : State) (a : Nat) (w : Word) : State := { s with latch := s.latch.put a w }

/-- No window. -/
abbrev noWin : Nat := 0xFFFFFF

/-! MSI-X messages (R559). -/

/-- A function of the host port. -/
def State.fn (s : State) (f : Nat) : Fn := Tab.get (fun _ => Fn.reset) s.hst.fns f

/-- Update of a function. -/
def State.setFn (s : State) (f : Nat) (x : Fn) : State := { s with hst := { s.hst with fns := Tab.set (fun _ => Fn.reset) s.hst.fns f x } }

/-- A function may write to host memory (R539): the link up, Bus Master Enable 1, in D0. -/
def State.fnOn (s : State) (f : Nat) : Bool := s.bit Reg.HST_LINK.UP && (s.fn f).bme && !(s.fn f).d3

/-- A message on a vector: sent, or its pending bit set while the vector is masked or the function may not send. -/
def State.msi (s : State) (f v : Nat) : State :=
  let x := s.fn f
  if s.fnOn f && !(s.word (msixKey f (v * 16 + 12))).getLsbD 0 then
    s.setFn f { x with sent := Tab.mod (fun _ => 0) x.sent v (· + 1), pend := x.pend.filter (fun i => i ≠ v) }
  else if x.pend.contains v then s
  else s.setFn f { x with pend := x.pend ++ [v] }

/-- Function a ring belongs to (R541). -/
def ringFn (r : Nat) : Nat := if r < 64 then 0 else (r - 64) / 2 + 1

/-- A ring runs: enabled, and its function may reach host memory (R539, R552). -/
def State.ringOn (s : State) (r : Nat) : Bool := s.bit (Reg.RING_CFG.EN r) && s.fnOn (ringFn r)

/-- Pending vectors that may now be sent. -/
def State.msiFlush (s : State) (f : Nat) : State := (s.fn f).pend.foldl (fun s v => s.msi f v) s

/-- FLT_STATUS.PEND (R462): some kind of the class has STATUS 1 and a reaction with I, or a FATAL message was received. -/
def State.pend (s : State) (c : Nat) : Bool :=
  s.flt.kinds.any (fun x =>
    let k := KindCfg.ofWord (s.word (Reg.FLT_KIND_W0.addr x.1))
    x.2.status && ((k.cls == c && (k.int || (x.2.severe && k.sevInt))) || (c == 1 && k.cls == 0 && x.2.severe && k.sevInt) || (c == 2 && x.2.fatal)))

/-- The level of PF vector 0 follows PEND: a message at each rise (R462, R559). -/
def State.level (s : State) : State :=
  let on := s.pend 0 || s.pend 1 || s.pend 2
  if on = s.hst.level then s
  else
    let s1 : State := { s with hst := { s.hst with level := on } }
    if on then s1.msi 0 0 else s1

/-- A fresh free value: the counter advances. -/
def State.takeFree (s : State) : Nat × State := (s.free, { s with free := s.free + 1 })

/-- Rounding of a/b to the nearest whole number, a half going away from zero (R590). -/
def roundDiv (a b : Int) : Int :=
  if b = 0 then 0
  else if 0 ≤ a * b then (2 * a.natAbs + b.natAbs) / (2 * b.natAbs) else -((2 * a.natAbs + b.natAbs) / (2 * b.natAbs) : Int)

/-- A quotient rounded up. -/
def ceilDiv (a b : Nat) : Nat := (a + b - 1) / b

/-- Key of a side of a port. -/
abbrev psd (p : Fin 32) (sd : Side) : Nat := p.val * 2 + sd.n

/-- Key of a slot of a port. -/
abbrev slotKey (p : Fin 32) (slot : Nat) : Nat := p.val * 256 + slot

/-- ADDRESS of a port block's message: port in bits 39:35, side in bit 34, the rest below (R65). -/
def portAddr (p : Fin 32) (sd : Nat) (rest : Nat) : Nat := p.val * 2 ^ 35 + sd % 2 * 2 ^ 34 + rest % 2 ^ 34

/-- Start-up stage (Table 16-2): 0 to 3. -/
def State.stage (s : State) : Nat := s.rd Reg.BOOT_STATUS.STAGE

/-- This device owns a tree (R337): every tree while twin operation is off (DEDUCED, log entry 9). -/
def State.owned (s : State) (p : Nat) : Bool := !s.bit Reg.TWN_CFG.EN || (s.word Reg.TWN_OWN.addr).getLsbD p

/-- EN50 or EN10 of a side (R40). -/
def State.sideEn (s : State) (p : Fin 32) (sd : Nat) : Bool :=
  if sd = 0 then s.bit (Reg.PT_DS_CFG.EN50 p.val) else s.bit (Reg.PT_DS_CFG.EN10 p.val)

/-- A side may light its laser (R40, R337, R352, R356, R460, R467, R508). -/
def State.txAllowed (s : State) (p : Fin 32) (sd : Nat) : Bool :=
  s.sideEn p sd && s.owned p.val && decide (1 ≤ s.stage) && !s.flt.safe && !s.flt.fatalLine
    && !(s.stage == 1 && !s.boot.applied && (s.word Reg.GLB_STRAPS.addr).getLsbD 9) && !s.flt.isolated .port p.val
    && !s.twn.dark.contains p && !s.twn.dead

/-- A side's TXDIS is at laser-on: after a takeover not before its delay has passed (R353). -/
def State.txOn (s : State) (p : Fin 32) (sd : Nat) : Bool :=
  s.txAllowed p sd && (match (Tab.get (fun _ => TwinTree.reset) s.twn.trees p.val).lit with | some t => decide (t ≤ s.now) | none => true)

/-- Lanes 0 to 3 that are ACTIVE in the twin role (R336). -/
def State.twinUp (s : State) : List Nat := (List.range 4).filter (fun i => (s.rd Reg.TWN_STATUS.LANES_UP).testBit i)

/-- Lanes a twin message leaves on (R341): every ACTIVE lane for a HEARTBEAT and for FAULT, else one chosen by PORT. -/
def State.twinLanesFor (s : State) (type_ port : Nat) : List Nat :=
  let l := s.twinUp
  if type_ = 1 ∨ type_ = 8 then l else (l[port % l.length]?).toList

/-- A twin message queued for the link (R340, R341): nothing while twin operation is off or no lane is ACTIVE. -/
def State.twinSend (s : State) (type_ port side sfc arg : Nat) : State :=
  if !s.bit Reg.TWN_CFG.EN || s.twinUp.isEmpty then s
  else
    let k := type_ * 256 + port
    let seq := Tab.get (fun _ => 0) s.twn.txSeq k
    { s with twn := { s.twn with txq := s.twn.txq ++ (s.twinLanesFor type_ port).map (fun l => ⟨type_, seq, port, side, sfc, arg, l⟩)
                                 txSeq := Tab.set (fun _ => 0) s.twn.txSeq k ((seq + 1) % 2 ^ 32) } }

/-- A mirror message of an owned tree (Table 10-3); mirroring stops in safe state (Table 14-9). MAP and DBA_STATE concern the
frame `x`; every other type the frame now being sent, and `x` tells what of the tree it carries. -/
def State.mirror (s : State) (type_ : Nat) (p : Fin 32) (side x : Nat) : State :=
  if s.bit Reg.TWN_CFG.EN && s.owned p.val && !s.flt.safe then
    if type_ = 2 ∨ type_ = 3 then s.twinSend type_ p.val side x 0
    else s.twinSend type_ p.val side (Tab.get (fun _ => PonPort.reset) s.pon.ports p.val).sfc x
  else s

end Sys2Proof.Machine
end

