-- ==== Sys2Proof/Machine/Access.lean ====
section
/-! DEFINITION. Register access by type, block locks and write protection (00_scope.md R6 to R9,
17_host_interface_and_register_map.md R541, R548, R549). -/

namespace Sys2Proof.Machine

set_option autoImplicit false

/-- Fault block code of a BAR0 address (Tables 14-2 and 17-3); window ports take their window's block. -/
def blockCode (a : Nat) : Nat :=
  if a < 0x100000 then a / 0x10000 + 1
  else if a < 0x300000 then 0x11
  else if a < 0x310000 then 0x12
  else if a < 0x320000 then 0x13
  else if a < 0x338000 then 0x14
  else if a < 0x400000 then 0x15
  else if a < 0x800000 then 0x16
  else if a < 0x86A000 then
    let w := (a - 0x800000) / 0x1000
    if w < 32 then 0x11 else if w < 96 then 0x16
    else match w with
      | 96 => 0x12 | 97 => 0x13 | 98 => 0xE | 99 => 0xF | 100 => 0xA | 101 => 0xB | 102 => 9 | 103 => 4 | 104 => 3 | _ => 7
  else 5

/-- Address of the BLOCK_LOCK that governs an address (R548). -/
def lockOf (a : Nat) : Nat :=
  if 0x320000 ≤ a ∧ a < 0x338000 then a / 0x1000 * 0x1000 + 0xFFC else a / 0x10000 * 0x10000 + 0xFFFC

/-- The block's LCK fields are writable. -/
def State.lockOpen (s : State) (a : Nat) : Bool := s.bit (Reg.BLOCK_LOCK.OPEN (lockOf a))

/-- A PF write to a protected block (R549). -/
def State.protectedFor (s : State) (ag : Agent) (a : Nat) : Bool :=
  match ag with
  | .pf => (s.word Reg.HST_WP.addr).getLsbD (blockCode a)
  | _ => false

/-- A write to BAR0 reaches its register: a VF is denied with SCOPE (R541), a protected PF write with PROTECTED
(R549). -/
def State.gate (s : State) (ag : Agent) (a : Nat) (k : State → State) : State :=
  let s := s.hostTlp false ag a
  match ag with
  | .vf _ => s.deny ag .scope a noWin
  | _ => if s.protectedFor ag a then s.deny ag .prot a noWin else k s

/-- Store of a word by access type (R6, R9): RW fields and, under an open lock, LCK fields take the value; ones clear
W1C bits and set W1S bits; reserved, RO and WO bits keep what they hold. A closed lock refuses a change of an LCK
field, counted with LOCKED. -/
def State.storeWord (s : State) (ag : Agent) (a : Nat) (v : Word) : State :=
  match regAt a with
  | none => s.deny ag .badAddr a noWin
  | some (r, _) =>
    let old := s.word a
    let opened := s.lockOpen a
    let m := if opened then r.rw ||| r.lck else r.rw
    let s1 := s.putWord a ((((old &&& ~~~ m) ||| (v &&& m)) &&& ~~~ (v &&& r.w1c)) ||| (v &&& r.w1s))
    if opened = false ∧ v &&& r.lck ≠ old &&& r.lck then s1.deny ag .locked a noWin else s1

/-- Bits of a word as a field value. -/
def fldOf (v : Word) (f : Fld) : Nat := v.toNat / 2 ^ f.lo % 2 ^ f.w

/-- Bits of a word as a signed field value. -/
def fldInt (v : Word) (f : Fld) : Int :=
  let x := fldOf v f
  if x < 2 ^ (f.w - 1) then (x : Int) else (x : Int) - 2 ^ f.w

/-- A write through a window may touch the table (R546, R549): a VF's window is read only, a protected block drops PF
writes. -/
def State.winGate (s : State) (ag : Agent) (w idx : Nat) (k : State → State) : State :=
  match ag with
  | .vf _ => s.deny ag .refused idx w
  | _ => if s.protectedFor ag (0x800000 + w * 0x1000) then s.deny ag .prot idx w else k s

/-- Words of an entry as they stand. -/
def State.entry (s : State) (w idx n : Nat) : List Word := (List.range n).map (fun j => s.word (winKey w idx j))

/-- Words `first` onward of an entry replaced, the others kept (R543). -/
def State.putEntry (s : State) (w idx first : Nat) (vs : List Word) : State :=
  (vs.zipIdx first).foldl (fun s (x : Word × Nat) => s.putWord (winKey w idx x.2) x.1) s

end Sys2Proof.Machine
end

