-- ==== Sys2Proof/Machine/PonGeo.lean ====
section
/-! DEFINITION. Geometry of the upstream time line: rates, guard, burst lengths, gaps (04_bandwidth_assignment.md R105
to R107, R117, R119, R128; 02_pon_line_framing.md Table 2-5). -/

namespace Sys2Proof.Machine

set_option autoImplicit false

/-- Frame length in units of a side's time line (R105, Table 2-5). -/
def frameLen (sd : Nat) : Nat := if sd = 0 then 6220800 else 1244160

/-- Time-line units one bit of a rate row takes (R105). -/
def upb : Nat → Nat
  | 1 => 2
  | 2 => 4
  | _ => 1

/-- GUARD of `g` 10G bit periods in bits at a row's rate, rounded up (R106). -/
def guardBits (g row : Nat) : Nat :=
  match row with
  | 0 => 5 * g
  | 1 => ceilDiv (5 * g) 2
  | 2 => ceilDiv (5 * g) 4
  | _ => g

/-- GUARD of a port in time-line units at a row. -/
def State.guard (s : State) (p : Fin 32) (row : Nat) : Nat := guardBits (s.rd (Reg.PT_US_CFG.GUARD p.val)) row * upb row

/-- A burst profile entry (Tables 2-19 and 2-20); FEC is fixed at 1 for rows 0 to 2. -/
structure Prof where
  valid : Bool
  fec : Bool
  short : Bool
  pre : Nat
  delim : Nat
deriving DecidableEq, Repr

/-- Entry 4 × row + index of a port (R46): usable when VALID is 1 and the delimiter is 32 or 64 bits long. -/
def State.prof (s : State) (p : Fin 32) (row idx : Nat) : Prof :=
  let i := 4 * row + idx
  let d := s.rd (Reg.PT_BPROF_W0.DELIM_LEN p.val i)
  { valid := s.bit (Reg.PT_BPROF_W0.VALID p.val i) && (d == 32 || d == 64)
    fec := decide (i < 12) || s.bit (Reg.PT_BPROF_W0.FEC p.val i)
    short := s.bit (Reg.PT_BPROF_W0.SHORT p.val i)
    pre := s.rd (Reg.PT_BPROF_W0.PRE_LEN p.val i) * 32
    delim := d }

/-- Block and parity bytes of a side's upstream FEC (R107). -/
def fecBlock (sd : Nat) : Nat × Nat := if sd = 0 then (1824, 336) else (216, 32)

/-- Encoded length of `n` content bytes: parity for each started block (R107). -/
def encBytes (sd : Nat) (fec : Bool) (n : Nat) : Nat :=
  if fec then n + (fecBlock sd).2 * ceilDiv n (fecBlock sd).1 else n

/-- The most content bytes whose encoded length is at most `b`. -/
def maxContent (sd : Nat) (fec : Bool) (b : Nat) : Nat :=
  if fec then
    let blk := (fecBlock sd).1
    let par := (fecBlock sd).2
    b / (blk + par) * blk + (b % (blk + par) - par)
  else b

/-- Content bytes of a burst without its payload: FS header and trailer, PLOAMu and DBRu (R107). -/
def overheadBytes (gs : List Grant) : Nat :=
  8 + (gs.map (fun g => (if g.ploam then 48 else 0) + (if g.dbru then 4 else 0))).sum

/-- Payload of a burst. -/
def payload (gs : List Grant) : Nat := (gs.map (·.g)).sum

/-- Length of a burst in time-line units (R107). -/
def burstUnits (sd row : Nat) (f : Prof) (gs : List Grant) : Nat :=
  (f.pre + f.delim + 8 * encBytes sd f.fec (overheadBytes gs + payload gs)) * upb row

/-- Start-time unit in time-line units (R105): 32 bits on the 10G side, the standard's unit on the 50G side. -/
def startUnit (sd row : Nat) : Nat := if sd = 0 then max 1 (Config.startUnit50 row * upb row) else 32

/-- Rounding up to a multiple. -/
def roundUp (a u : Nat) : Nat := ceilDiv a u * u

/-- Nanoseconds in units of a side's time line: 49.7664 or 9.95328 bits each, rounded down or up. -/
def nsUnits (sd : Nat) (up : Bool) (ns : Int) : Int :=
  let q : Int := if sd = 0 then 10000 else 100000
  let n := ns * (if sd = 0 then 497664 else 995328)
  if up then -((-n) / q) else n / q

/-- TEQD, plus the twin's US_ADJ under twin operation, in time-line units of a side (R68, R348); US_ADJ counts 50G bit
periods. -/
def State.teqdUnits (s : State) (p : Fin 32) (sd : Nat) : Int :=
  let t : Int := s.rd (Reg.PT_TEQD.TEQD p.val)
  let a : Int := if !s.bit Reg.TWN_CFG.EN then 0
    else if sd = 0 then s.rdInt (Reg.TWN_PORT_W1.US_ADJ50 p.val) else s.rdInt (Reg.TWN_PORT_W2.US_ADJ10 p.val)
  if sd = 0 then t + a else roundDiv (t + a) 5

/-- Busy half-open spans, sorted by start. -/
def insertSpan (x : Nat × Nat) : List (Nat × Nat) → List (Nat × Nat)
  | [] => [x]
  | y :: t => if x.1 ≤ y.1 then x :: y :: t else y :: insertSpan x t

/-- Free spans of a frame between busy spans. -/
def gapsFrom (at_ : Nat) (len : Nat) : List (Nat × Nat) → List (Nat × Nat)
  | [] => if at_ < len then [(at_, len)] else []
  | (a, b) :: t =>
    if at_ < a then (at_, min a len) :: gapsFrom (max at_ b) len t else gapsFrom (max at_ b) len t

/-- Quiet spans as a burst of guard `g` must keep from them: its span is widened by half of GUARD at each end (R72).
The busy span starts `g − g/2` late, since every burst already keeps `g` free behind it. -/
def quietBusy (g : Nat) (q : List (Int × Int)) : List (Nat × Nat) :=
  q.map (fun (x : Int × Int) => ((x.1 + (g : Int) - ((g / 2 : Nat) : Int)).toNat, (x.2 + 1 + ((g / 2 : Nat) : Int)).toNat))

/-- The gaps a burst of guard `g` sees. -/
def gapsFor (sd g : Nat) (occ : List (Nat × Nat)) (quiet : List (Int × Int)) : List (Nat × Nat) :=
  gapsFrom 0 (frameLen sd) ((quietBusy g quiet).foldl (fun l x => insertSpan x l) occ)

/-- First position at or after `from_` where a burst of `len` units with guard `g` fits whole (R106). -/
def firstFit (u g len from_ : Nat) : List (Nat × Nat) → Option Nat
  | [] => none
  | (a, b) :: t =>
    let st := roundUp (max a from_) u
    if st + len + g ≤ b then some st else firstFit u g len from_ t

/-- Payload bytes, a multiple of 4, that a burst of these structures can carry between `st` and `b`; none when not
even its overhead fits. -/
def payloadIn (sd row g : Nat) (f : Prof) (ovh st b : Nat) : Option Nat :=
  let bits := (b - st - g) / upb row
  if b < st + g ∨ bits < f.pre + f.delim then none
  else
    let c := maxContent sd f.fec ((bits - f.pre - f.delim) / 8)
    if c < ovh then none else some ((c - ovh) / 4 * 4)

/-- Grants held to a total payload, reduced from the last backward (R119). -/
def takePayload : Nat → List Grant → List Grant
  | _, [] => []
  | n, g :: t => { g with g := min g.g n, assured := min g.assured (min g.g n) } :: takePayload (n - g.g) t

/-- What is left of grants after `takePayload`, as further structures with no PLOAMu and no DBRu. -/
def restPayload : Nat → List Grant → List Grant
  | _, [] => []
  | n, g :: t =>
    let r := g.g - n
    let tl := restPayload (n - g.g) t
    if r = 0 then tl
    else { g with g := r, assured := g.assured - min g.assured (min g.g n), dbru := false, ploam := false } :: tl

/-- Grants left with payload, a DBRu or a PLOAM flag (R119, R593). -/
def keepGrants (gs : List Grant) : List Grant := gs.filter (fun g => g.g != 0 || g.dbru || g.ploam)

/-- First part of a split burst, with what the second one carries (R119, R593): a grant left with nothing in either, no DBRu and
no PLOAM flag is removed. -/
def keepFirst (first second : List Grant) : List Grant :=
  first.filter (fun g => g.g != 0 || g.dbru || g.ploam || second.any (fun h => h.idx == g.idx))

/-- Result of placing one ONU's burst: the parts placed, whether it was split, how many grants were shortened. -/
structure Placed where
  parts : List (Nat × List Grant)
  split : Bool
  short : Nat
deriving DecidableEq, Repr

/-- Grants whose payload a reduction lowered. -/
def loweredCount (a b : List Grant) : Nat := ((a.zip b).filter (fun x => decide (x.2.g < x.1.g))).length

/-- A burst shortened into the last gap (R119): none when its overhead does not fit. -/
def placeShort (sd row g : Nat) (f : Prof) (gs : List Grant) (gap : Nat × Nat) : Option (Nat × List Grant × Nat) :=
  let st := roundUp gap.1 (startUnit sd row)
  match payloadIn sd row g f (overheadBytes gs) st gap.2 with
  | none => none
  | some n => some (st, keepGrants (takePayload n gs), loweredCount gs (takePayload n gs))

/-- The second part of a split burst: whole in the first later gap it fits, else shortened at the frame end. -/
def placeRest (sd row g : Nat) (f : Prof) (gs : List Grant) : List (Nat × Nat) → Option (Nat × List Grant × Nat)
  | [] => none
  | gap :: t =>
    let st := roundUp gap.1 (startUnit sd row)
    if st + burstUnits sd row f gs + g ≤ gap.2 then some (st, gs, 0)
    else if gap.2 = frameLen sd then placeShort sd row g f gs gap
    else placeRest sd row g f gs t

/-- Layout of one ONU's burst over the gaps in order (R119): whole where it fits; shortened at the frame end; split around the
reserved span that ends a gap (`res`) when the first part carries at least 1,024 payload bytes; else after what ends the
gap. -/
def placeBurst (sd row g : Nat) (f : Prof) (gs : List Grant) (res : Nat → Bool) : List (Nat × Nat) → Option Placed
  | [] => none
  | gap :: t =>
    let st := roundUp gap.1 (startUnit sd row)
    if st + burstUnits sd row f gs + g ≤ gap.2 then some ⟨[(st, gs)], false, 0⟩
    else if gap.2 = frameLen sd then
      match placeShort sd row g f gs gap with
      | none => none
      | some x => some ⟨[(x.1, x.2.1)], false, x.2.2⟩
    else if !res gap.2 then placeBurst sd row g f gs res t
    else
      match payloadIn sd row g f (overheadBytes gs) st gap.2 with
      | none => placeBurst sd row g f gs res t
      | some n =>
        if n < 1024 then placeBurst sd row g f gs res t
        else
          match placeRest sd row g f (restPayload n gs) t with
          | none => some ⟨[(st, keepFirst (takePayload n gs) [])], false, (restPayload n gs).length⟩
          | some x => some ⟨[(st, keepFirst (takePayload n gs) x.2.1), (x.1, x.2.1)], true, x.2.2⟩

/-- Payload G of a fixed burst in a run of units [a, b): the largest multiple of 4 for which the burst, with the long
profile, ends no later than the run's end minus GUARD (R128). -/
def fixedPayload (sd row g : Nat) (long : Prof) (a b : Nat) : Nat :=
  (payloadIn sd row g long 8 (roundUp a (startUnit sd row)) b).getD 0

/-- Bits of one slot at a side's line rate (Table 4-3). -/
def slotUnits (sd : Nat) : Nat := if sd = 0 then 24300 else 4860

/-- A run of consecutive slots of one frame (R127): its key (allocation index or context), first slot, length. -/
structure Run where
  key : Nat
  first : Nat
  len : Nat
deriving DecidableEq, Repr

/-- Runs of consecutive slots: `v i` the key of slot i when it is in a run, `brk i` that a new run starts. -/
def runsOf (v : Nat → Option Nat) (brk : Nat → Bool) : List Run :=
  ((List.range 256).foldl (fun (acc : List Run) i =>
    match v i with
    | none => acc
    | some k =>
      match acc with
      | r :: t => if r.key = k ∧ r.first + r.len = i ∧ brk i = false then { r with len := r.len + 1 } :: t else ⟨k, i, 1⟩ :: acc
      | [] => [⟨k, i, 1⟩]) []).reverse

/-- Connection memory index (Table 4-4). -/
def fsiIndex (tree page sd n slot : Nat) : Nat := tree * 8192 + page * 4096 + sd * 2048 + n % 8 * 256 + slot

/-- Upstream runs of a tree's page for a side and frame. -/
def State.upRuns (s : State) (p : Fin 32) (page sd n : Nat) : List Run :=
  runsOf (fun i => if s.bit (Win.FSI_UP_V (fsiIndex p page sd n i)) then some (s.rd (Win.FSI_ALLOC_IDX (fsiIndex p page sd n i)))
    else none) (fun i => s.bit (Win.FSI_UP_BRK (fsiIndex p page sd n i)))

/-- Downstream runs of a tree's page for a side and frame. -/
def State.dnRuns (s : State) (p : Fin 32) (page sd n : Nat) : List Run :=
  runsOf (fun i => if s.bit (Win.FSI_DN_V (fsiIndex p page sd n i)) then some (s.rd (Win.FSI_XGEM_CTX (fsiIndex p page sd n i)))
    else none) (fun _ => false)

/-- A slot of a port. -/
def State.slot (s : State) (p : Fin 32) (i : Nat) : Slot := Tab.get (fun _ => Slot.free) s.act.slots (slotKey p i)

/-- Rate row of a slot's ONU: row 3 on the 10G side; row 0 while the slot is FREE or DISABLED (R592). -/
def State.onuRow (s : State) (p : Fin 32) (sd i : Nat) : Nat :=
  if sd = 1 then 3
  else match (s.slot p i).state with
    | .free => 0
    | .disabled => 0
    | _ => (s.slot p i).row

/-- Allocation entry index of a tree. -/
abbrev allocIx (p : Fin 32) (i : Nat) : Nat := p.val * 1024 + i

/-- Run-time state of an allocation. -/
def State.alloc (s : State) (p : Fin 32) (i : Nat) : AllocRt := Tab.get (fun _ => AllocRt.reset) s.whf.alloc (allocIx p i)

/-- An allocation's entry is enabled on a side, of one of the types that are not FIXED. -/
def State.reportAlloc (s : State) (p : Fin 32) (sd i : Nat) : Bool :=
  s.bit (Win.ALLOC_EN (allocIx p i)) && (s.rd (Win.ALLOC_SIDE (allocIx p i)) == sd) && (s.rd (Win.ALLOC_TYPE (allocIx p i)) != 1)

/-- An allocation's entry is enabled on a side and FIXED. -/
def State.fixedAlloc (s : State) (p : Fin 32) (sd i : Nat) : Bool :=
  s.bit (Win.ALLOC_EN (allocIx p i)) && (s.rd (Win.ALLOC_SIDE (allocIx p i)) == sd) && (s.rd (Win.ALLOC_TYPE (allocIx p i)) == 1)

/-- A slot is served ordinary grants and fixed bursts: ACTIVE with no HOLD (R112). -/
def Slot.served (x : Slot) (sd : Nat) : Bool := x.state == .active && !x.hold && x.side == sd

/-- The stored preset of a slot's side. -/
def State.preset (s : State) (p : Fin 32) (sd slot : Nat) : Preset :=
  Tab.get (fun _ => Preset.none) s.pon.presets ((p.val * 2 + sd) * 256 + slot)

/-- Reading of a junction sensor, in °C plus 64. -/
def State.temp (s : State) (i : Nat) : Nat := Tab.get (fun _ => 0) s.pon.temps i

/-- A preset is valid (R49): VALID, learned within MAX_AGE, and its temperature within TEMP_DELTA. -/
def State.presetOk (s : State) (p : Fin 32) (sd slot : Nat) : Bool :=
  let x := s.preset p sd slot
  x.valid && decide (s.now < x.learned + max 1 (s.rd (Reg.PT_PRESET_CFG.MAX_AGE p.val)) * 1000000)
    && decide ((Int.natAbs ((s.temp (p.val / 4) : Int) - x.temp)) < s.rd (Reg.PT_PRESET_CFG.TEMP_DELTA p.val))

/-- Profile index Wharfinger selects (R51, R108): 1 when its entry is usable, SHORT_EN is 1 and the preset is valid; 0
otherwise. An entry with index 1 that is not marked SHORT is held to the same conditions (DESIGN CHOICE, log entry 160). -/
def State.profIndex (s : State) (p : Fin 32) (sd row slot : Nat) : Nat :=
  let f := s.prof p row 1
  if f.valid && s.bit (Reg.PT_PRESET_CFG.SHORT_EN p.val) && s.presetOk p sd slot then 1 else 0

/-- Packet cost of a payload (R125), at PKT_EST 72 while PKT_UNDER holds (R126). -/
def State.grantCost (s : State) (p : Fin 32) (i g : Nat) : Nat :=
  let e := if (s.alloc p i).under ≠ 0 then 72 else max 72 (s.rd (Win.ALLOC_PKT_EST (allocIx p i)))
  ceilDiv g e

end Sys2Proof.Machine
end

