-- ==== Sys2Proof/Machine/Wharf.lean ====
section
/-! DEFINITION. Wharfinger's map build: credits, demand, passes, layout (04_bandwidth_assignment.md R105 to R128) as
functions of the state; the commands that use them stand in Machine/Assign.lean. -/

namespace Sys2Proof.Machine

set_option autoImplicit false

/-- All ports. -/
abbrev ports : List (Fin 32) := List.finRange 32

/-- A side of a port. -/
def State.side (s : State) (p : Fin 32) (sd : Nat) : PonSide := Tab.get (fun _ => PonSide.reset) s.pon.sides (p.val * 2 + sd)

/-- Update of a side. -/
def State.setSide (s : State) (p : Fin 32) (sd : Nat) (x : PonSide) : State :=
  { s with pon := { s.pon with sides := Tab.set (fun _ => PonSide.reset) s.pon.sides (p.val * 2 + sd) x } }

/-- Both-side state of a port. -/
def State.port (s : State) (p : Fin 32) : PonPort := Tab.get (fun _ => PonPort.reset) s.pon.ports p.val

/-- Update of a port. -/
def State.setPort (s : State) (p : Fin 32) (x : PonPort) : State :=
  { s with pon := { s.pon with ports := Tab.set (fun _ => PonPort.reset) s.pon.ports p.val x } }

/-- A slot state in which the ONU's records are monitored (R496). -/
def SlotState.monitored : SlotState → Bool
  | .active | .lost => true
  | _ => false

/-- The second under way of a slot's two records counted as unmonitored (R496). -/
def State.unmonitor (s : State) (k : Nat) : State :=
  let z := fun (_ : Nat) => PmAcc.zero
  let t := Tab.mod z (Tab.mod z s.pm.acc (2 * k) (fun a => { a with unmon := true })) (2 * k + 1) (fun a => { a with unmon := true })
  { s with pm := { s.pm with acc := t } }

/-- Update of a slot; a changed entry is mirrored (R341, Table 10-3), and a change into or out of the monitored states
leaves the second unmonitored (R496). -/
def State.setSlot (s : State) (p : Fin 32) (i : Nat) (x : Slot) : State :=
  if s.slot p i = x then s
  else
    let s1 : State := { s with act := { s.act with slots := Tab.set (fun _ => Slot.free) s.act.slots (slotKey p i) x } }
    let s2 := if (s.slot p i).state.monitored && x.state.monitored then s1
      else if (s.slot p i).state = x.state then s1 else s1.unmonitor (slotKey p i)
    s2.mirror 5 p 0xFF i

/-- Update of an allocation's run-time state. -/
def State.setAlloc (s : State) (p : Fin 32) (i : Nat) (x : AllocRt) : State :=
  { s with whf := { s.whf with alloc := Tab.set (fun _ => AllocRt.reset) s.whf.alloc (allocIx p i) x } }

/-- Discovery state of a side; both LFSRs of a port reset to the seed of R74. -/
def discReset (k : Nat) : Disc :=
  let seed := ((k / 2 * 0x9E37) % 65536) ^^^ (Config.serial % 65536)
  ⟨if seed = 0 then 1 else seed, none, 0, [], 0⟩

/-- Discovery state of a side. -/
def State.disc (s : State) (p : Fin 32) (sd : Nat) : Disc := Tab.get discReset s.act.disc (p.val * 2 + sd)

/-- Update of a side's discovery state. -/
def State.setDisc (s : State) (p : Fin 32) (sd : Nat) (x : Disc) : State :=
  { s with act := { s.act with disc := Tab.set discReset s.act.disc (p.val * 2 + sd) x } }

/-- The second bound of R69 and the first: TEQD_SHORT. -/
def State.teqdShort (s : State) (p : Fin 32) : Bool :=
  let t := s.rd (Reg.PT_TEQD.TEQD p.val)
  let ns := 2 * s.rd (Reg.PT_REACH.MAX_KM p.val) * s.rd (Reg.PT_REACH.NS_PER_KM p.val) + 36000
  decide (t * 10000 < ns * 497664) || decide (34836480 < t)

/-- A side opens discovery windows (R99): it transmits, its enable bit is 1, TEQD_SHORT is 0; none before S2 (R508). -/
def State.opensWindows (s : State) (p : Fin 32) (sd : Nat) : Bool :=
  s.txOn p sd && decide (2 ≤ s.stage) && !s.teqdShort p
    && (if sd = 0 then s.bit (Reg.PT_DISC_CFG.EN50 p.val) else s.bit (Reg.PT_DISC_CFG.EN10 p.val))

/-- SFC being sent on a port, and the frame whose map the next build at this moment is for (R113): two frames on. -/
def State.sfc (s : State) (p : Fin 32) : Nat := (s.port p).sfc

/-- Frame a build that starts now is for: N with frame N − 2 beginning; frame 1 before the first frame. -/
def State.buildFrame (s : State) (p : Fin 32) : Nat := if (s.port p).started then s.sfc p + 2 else 1

/-- First frame whose build has not started. -/
def State.nextBuild (s : State) (p : Fin 32) : Nat :=
  max (Tab.get (fun _ => 0) s.whf.built p.val) (if (s.port p).started then s.sfc p + 1 else 0)

/-- Active page of a tree (Table 4-17). -/
def State.activePage (s : State) (p : Fin 32) : Nat := if (s.word Reg.FSI_ACTIVE.addr).getLsbD p.val then 1 else 0

/-- Swap state of a tree. -/
def State.swapOf (s : State) (p : Fin 32) : Swap := Tab.get (fun _ => Swap.none) s.whf.swap p.val

/-- Update of a swap. -/
def State.setSwap (s : State) (p : Fin 32) (x : Swap) : State :=
  { s with whf := { s.whf with swap := Tab.set (fun _ => Swap.none) s.whf.swap p.val x } }

/-- Page in force for frame `n` (R133). -/
def State.pageFor (s : State) (p : Fin 32) (n : Nat) : Nat :=
  match s.swapOf p with
  | .building f => if f ≤ n then 1 - s.activePage p else s.activePage p
  | _ => s.activePage p

/-- The grants of a side's discovery windows in the map of frame `n`; their start time S is 0 (DESIGN CHOICE, log entry 148). -/
def State.discGrants (s : State) (p : Fin 32) (sd n : Nat) : List Burst :=
  ((s.disc p sd).wins.filter (fun w => w.1 = n)).map (fun w => ⟨.disc, 1023, w.2, 0, 0, 0, [⟨2048, 1023, 7, 0, 0, false, true⟩]⟩)

/-- Quiet spans of a side in the coordinates of frame `n`'s time line (R68, R72), those that meet the frame. -/
def State.quietIn (s : State) (p : Fin 32) (sd n : Nat) : List (Int × Int) :=
  let km : Int := s.rd (Reg.PT_REACH.NS_PER_KM p.val)
  let lo := nsUnits sd false (2 * (s.rd (Reg.PT_REACH.MIN_KM p.val) : Int) * km + 34000)
  let hi := nsUnits sd true (2 * (s.rd (Reg.PT_REACH.MAX_KM p.val) : Int) * km + 85000)
  let fl : Int := frameLen sd
  ((s.disc p sd).wins.map (fun (w : Nat × Nat) =>
      let base := ((w.1 : Int) - n) * fl - s.teqdUnits p sd
      (base + lo, base + hi))).filter (fun (x : Int × Int) => decide (-fl ≤ x.2) && decide (x.1 < 2 * fl))

/-- The fixed bursts of a page for a side and frame (R128), in run order; an allocation that is not eligible has none. -/
def State.fixedBursts (s : State) (p : Fin 32) (page sd n : Nat) : List Burst :=
  (s.upRuns p page sd n).filterMap (fun (r : Run) =>
    let onu := s.rd (Win.ALLOC_ONU (allocIx p r.key))
    let row := s.onuRow p sd onu
    let a := r.first * slotUnits sd
    let b := (r.first + r.len) * slotUnits sd
    if s.fixedAlloc p sd r.key && (s.slot p onu).served sd then
      let g := fixedPayload sd row (s.guard p row) (s.prof p row 0) a b
      let ix := s.profIndex p sd row onu
      let gs : List Grant := [⟨r.key, s.rd (Win.ALLOC_ID (allocIx p r.key)), s.rd (Win.ALLOC_CLASS (allocIx p r.key)), g, 0, false, false⟩]
      some ⟨.fixed, onu, row, ix, roundUp a (startUnit sd row), burstUnits sd row (s.prof p row ix) gs, gs⟩
    else none)

/-- Spans the upstream runs of a page reserve (R128). -/
def State.runSpans (s : State) (p : Fin 32) (page sd n : Nat) : List (Nat × Nat) :=
  (s.upRuns p page sd n).map (fun r => (r.first * slotUnits sd, (r.first + r.len) * slotUnits sd))

/-- A side's layout under construction: busy spans (each placed burst with its guard), bursts in placement order,
structures left. -/
structure Lay where
  occ : List (Nat × Nat)
  bursts : List Burst
  left : Nat
deriving DecidableEq, Repr

/-- Placement of a burst known to fit. -/
def Lay.add (l : Lay) (g : Nat) (b : Burst) : Lay :=
  ⟨insertSpan (b.start, b.start + b.len + g) l.occ, l.bursts ++ [b], l.left - b.grants.length⟩

/-- A PLOAM-only burst at the first position that fits (R85, R88, R93): the layout is unchanged where none fits or no
structure is left. -/
def State.placePloam (s : State) (p : Fin 32) (sd : Nat) (quiet : List (Int × Int)) (kind : GrantKind) (onu row ix : Nat) (l : Lay) : Lay :=
  let g := s.guard p row
  let gs : List Grant := [⟨1024 + onu, onu, 7, 0, 0, false, true⟩]
  let len := burstUnits sd row (s.prof p row ix) gs
  if l.left = 0 then l
  else
    match firstFit (startUnit sd row) g len 0 (gapsFor sd g l.occ quiet) with
    | none => l
    | some st => l.add g ⟨kind, onu, row, ix, st, len, gs⟩

/-- Ranging, re-ranging, registration and LOST grants due in the map of frame `n` (R85, R88, R93, R112): one burst each,
slots in ascending order. A RANGED slot has one in every map (DESIGN CHOICE, log entry 6). -/
def State.placeDue (s : State) (p : Fin 32) (sd n : Nat) (quiet : List (Int × Int)) (l : Lay) : Lay :=
  (List.range 256).foldl (fun (l : Lay) i =>
    let x := s.slot p i
    if x.side ≠ sd then l
    else
      let row := s.onuRow p sd i
      match x.state with
      | .assigned => if x.range = .due then s.placePloam p sd quiet .range i row 0 l else l
      | .ranged => s.placePloam p sd quiet .ploam i row (s.profIndex p sd row i) l
      | .active => if x.range = .due then s.placePloam p sd quiet .rerange i row 0 l else l
      | .lost => if n % 8 = 0 then s.placePloam p sd quiet .ploam i row 0 l else l
      | _ => l) l

/-- An allocation in the passes of the ROM algorithm. `cti` is the pre-granted part of `g`, `pos` the position a CTI
burst may start from; `active` says it has not left the peak set. -/
structure Work where
  idx : Nat
  onu : Nat
  allocId : Nat
  cls : Nat
  weight : Nat
  maxG : Nat
  dem : Nat
  poll : Bool
  dbru : Bool
  aCred : Nat
  pCred : Nat
  g : Nat
  assured : Nat
  cti : Nat
  pos : Option Nat
  active : Bool
deriving DecidableEq, Repr

/-- Demand of an allocation for frame `n` (R114): the last report less what was granted since its frame. -/
def AllocRt.dem (x : AllocRt) (n : Nat) : Nat :=
  let f := x.repFrame
  x.report - ((x.inflight.filter (fun (e : Nat × Nat × Nat) => (match f with | some k => decide (k < e.1) | none => true) && decide (e.1 < n))).map
    (fun e => e.2.1)).sum

/-- Credits after the refill of a build (R113). -/
def State.refilled (s : State) (p : Fin 32) (i : Nat) (x : AllocRt) : AllocRt :=
  let a := s.rd (Win.ALLOC_ASSURED (allocIx p i))
  let k := s.rd (Win.ALLOC_PEAK (allocIx p i))
  let burst := max 1 (s.rd (Win.ALLOC_PEAK_BURST (allocIx p i)))
  { x with aCred := min (x.aCred + a) (2 * a), pCred := min (x.pCred + k) (burst * k) }

/-- Enabled REPORT and CTI allocations of a side. -/
def State.reportAllocs (s : State) (p : Fin 32) (sd : Nat) : List Nat := (List.range 1024).filter (fun i => s.reportAlloc p sd i)

/-- Refill of a side's credits. -/
def State.refill (s : State) (p : Fin 32) (sd : Nat) : State :=
  (s.reportAllocs p sd).foldl (fun s i => s.setAlloc p i (s.refilled p i (s.alloc p i))) s

/-- CTI amount taken from a record list by an allocation (R121): at most P_CRED and MAX_GRANT. -/
def ctiTake (recs : List CtiRec) (pCred maxG : Nat) : Nat :=
  (recs.foldl (fun x r => x + min r.bytes (min pCred maxG - x)) 0) / 4 * 4

/-- Working entries of a side for frame `n`: eligible allocations (R112) with demand and poll flags of the snapshot
`snap` and their CTI pre-grants (R116, R121). -/
def State.works (s : State) (p : Fin 32) (sd n : Nat) (snap : Tab AllocRt) : List Work :=
  ((s.reportAllocs p sd).filter (fun i => (s.slot p (s.rd (Win.ALLOC_ONU (allocIx p i)))).served sd)).map (fun i =>
    let k := allocIx p i
    let x := Tab.get (fun _ => AllocRt.reset) snap k
    let cur := s.alloc p i
    let recs := s.whf.cti.filter (fun (r : CtiRec) => r.tree = p.val ∧ r.index = i ∧ r.frame ≤ n)
    let mx := s.rd (Win.ALLOC_MAX_GRANT k)
    let poll := s.rd (Win.ALLOC_POLL k)
    let c := ctiTake recs cur.pCred mx
    { idx := i, onu := s.rd (Win.ALLOC_ONU k), allocId := s.rd (Win.ALLOC_ID k), cls := s.rd (Win.ALLOC_CLASS k)
      weight := max 1 (s.rd (Win.ALLOC_WEIGHT k)), maxG := mx, dem := x.dem n
      poll := s.bit (Win.ALLOC_DBRU k) && poll != 0 && decide (poll ≤ x.poll)
      dbru := s.bit (Win.ALLOC_DBRU k), aCred := cur.aCred, pCred := cur.pCred, g := c, assured := 0, cti := c
      pos := if c = 0 then none else some ((recs.map (·.pos)).foldl max 0), active := true })

/-- Time-line units free on a layout. -/
def freeUnits (sd : Nat) (occ : List (Nat × Nat)) (quiet : List (Int × Int)) : Nat :=
  ((gapsFrom 0 (frameLen sd) (quiet.foldl (fun l (x : Int × Int) => insertSpan (x.1.toNat, (x.2 + 1).toNat) l) occ)).map
    (fun (x : Nat × Nat) => x.2 - x.1)).sum

/-- The payload estimate of R117: its three steps, which take no account of CTI pre-grants (DEDUCED, log entry 161). -/
def State.estimate (s : State) (p : Fin 32) (sd : Nat) (quiet : List (Int × Int)) (occ : List (Nat × Nat)) (ws : List Work) : Nat :=
  let want := ws.filter (fun w => w.dem != 0 || w.poll)
  let onus := (want.map (·.onu)).dedup
  let ovh := (onus.map (fun o =>
    let row := s.onuRow p sd o
    let f := s.prof p row (s.profIndex p sd row o)
    let rep := (want.filter (fun w => w.onu = o ∧ w.dbru)).length
    (f.pre + f.delim + 64 + 32 * rep) * upb row + s.guard p row)).sum
  let bits := freeUnits sd occ quiet - ovh
  (if sd = 0 then bits * 1824 / (2160 * 8) else bits * 216 / (248 * 8)) / 4 * 4

/-- Assured pass over one class (R118's first pass): index order, words of 4 bytes. -/
def assuredClass (c : Nat) : Nat → List Work → List Work × Nat
  | budget, [] => ([], budget)
  | budget, w :: t =>
    let x := if w.cls = c then min (min w.dem w.aCred) (min (w.maxG - w.g) budget) / 4 * 4 else 0
    let r := assuredClass c (budget - x) t
    ({ w with g := w.g + x, assured := x } :: r.1, r.2)

/-- Classes from 7 down to 0. -/
abbrev classes : List Nat := [7, 6, 5, 4, 3, 2, 1, 0]

/-- The assured pass. -/
def assuredPass (ws : List Work) (budget : Nat) : List Work × Nat :=
  classes.foldl (fun (acc : List Work × Nat) c =>
    let r := assuredClass c acc.2 acc.1
    (r.1.zipWith (fun (a b : Work) => if a.cls = c then a else b) acc.1, r.2)) (ws, budget)

/-- Bound of an allocation in the peak pass (R118), in whole words. -/
def Work.bound (w : Work) : Nat := (min (min w.dem w.pCred) w.maxG - w.g) / 4 * 4

/-- Weighted sharing within one class (R118): while some allocation's bound is below its offer, every such allocation
takes its bound and leaves; when none does, each remaining one takes its offer. -/
def shareClass (c : Nat) : Nat → List Work → Nat → List Work × Nat
  | 0, ws, budget => (ws, budget)
  | fuel + 1, ws, budget =>
    let tot := ((ws.filter (fun w => w.cls = c ∧ w.active)).map (·.weight)).sum
    let offer := fun (w : Work) => budget * w.weight / tot / 4 * 4
    let leaves := fun (w : Work) => decide (w.cls = c) && w.active && decide (w.bound < offer w)
    if tot = 0 then (ws, budget)
    else if ws.any leaves then
      shareClass c fuel (ws.map (fun w => if leaves w then { w with g := w.g + w.bound, active := false } else w))
        (budget - ((ws.filter leaves).map Work.bound).sum)
    else
      (ws.map (fun w => if w.cls = c ∧ w.active then { w with g := w.g + offer w, active := false } else w),
        budget - ((ws.filter (fun w => w.cls = c ∧ w.active)).map offer).sum)

/-- The peak pass. -/
def peakPass (ws : List Work) (budget : Nat) : List Work × Nat :=
  classes.foldl (fun (acc : List Work × Nat) c => shareClass c (acc.1.length + 1) acc.1 acc.2) (ws, budget)

/-- Structure of an allocation in its ONU's burst (R116). -/
def Work.grant (w : Work) : Grant := ⟨w.idx, w.allocId, w.cls, w.g, w.assured, w.dbru, false⟩

/-- Insertion by position. -/
def insertPos (x : Nat × Nat) : List (Nat × Nat) → List (Nat × Nat)
  | [] => [x]
  | y :: t => if x.1 < y.1 then x :: y :: t else y :: insertPos x t

/-- Order of the ONUs at layout (R119): CTI bursts by position, then by highest class, then by slot. -/
def layoutOrder (ws : List Work) : List Nat :=
  let onus := (List.range 256).filter (fun o => ws.any (fun w => w.onu = o))
  let posOf := fun o => (ws.filter (fun w => w.onu = o)).foldl (fun (m : Option Nat) w => match w.pos, m with
    | some a, some b => some (max a b) | some a, none => some a | none, m => m) none
  let top := fun o => ((ws.filter (fun w => w.onu = o)).map (·.cls)).foldl max 0
  let cti := (onus.foldl (fun l o => match posOf o with | some q => insertPos (q, o) l | none => l) []).map Prod.snd
  cti ++ classes.flatMap (fun c => onus.filter (fun o => decide (top o = c) && (posOf o).isNone))

/-- Result of a side's build, before the Assayer. -/
structure SideBuild where
  map : BwMap
  full : Nat
  splits : Nat
  shortened : Nat
  polls : Nat
  ctiDone : Nat
  /-- CTI bytes by allocation that did not fit in the frame (R121). -/
  rest : List (Nat × Nat)
deriving DecidableEq, Repr

/-- Gaps from a position on (for a CTI burst). -/
def gapsAfter (from_ : Nat) (gaps : List (Nat × Nat)) : List (Nat × Nat) :=
  (gaps.filter (fun x => decide (from_ < x.2))).map (fun x => (max x.1 from_, x.2))

/-- A position is within a reserved span, a run's or a quiet one (R119, R128). -/
def inSpan (spans : List (Nat × Nat)) (t : Nat) : Bool := spans.any (fun x => decide (x.1 ≤ t) && decide (t < x.2))

/-- Layout of one ONU's burst (R119, R120); `runs` are the spans the fixed runs reserve. -/
def State.layOnu (s : State) (p : Fin 32) (sd : Nat) (quiet : List (Int × Int)) (runs : List (Nat × Nat)) (o : Nat) (ws : List Work)
    (l : Lay) (b : SideBuild) : Lay × SideBuild :=
  let mine := ws.filter (fun w => w.onu = o)
  let row := s.onuRow p sd o
  let ix := s.profIndex p sd row o
  let f := s.prof p row ix
  let g := s.guard p row
  let gs := (mine.take l.left).map Work.grant
  let b := { b with full := b.full + (mine.length - gs.length) }
  let pos := (mine.map (fun w => w.pos.getD 0)).foldl max 0
  let kind : GrantKind := if mine.any (fun w => w.cti != 0) then .cti else .ord
  if gs = [] then (l, b)
  else
    match placeBurst sd row g f gs (inSpan (runs ++ quietBusy g quiet)) (gapsAfter pos (gapsFor sd g l.occ quiet)) with
    | none => (l, { b with shortened := b.shortened + gs.length })
    | some r =>
      let l1 := r.parts.foldl (fun (l : Lay) (x : Nat × List Grant) =>
        let kept := x.2.take l.left
        if kept = [] then l else l.add g ⟨kind, o, row, ix, x.1, burstUnits sd row f kept, kept⟩) l
      (l1, { b with splits := b.splits + (if r.split then (match r.parts with | _ :: x :: _ => x.2.length | _ => 0) else 0)
                    shortened := b.shortened + r.short })

/-- Payload granted to an allocation by a map. -/
def BwMap.granted (m : BwMap) (i : Nat) : Nat :=
  ((m.bursts.flatMap (·.grants)).filter (fun g => g.idx = i)).foldl (fun n g => n + g.g) 0

/-- Payload of the assured pass granted to an allocation by a map. -/
def BwMap.assuredOf (m : BwMap) (i : Nat) : Nat :=
  ((m.bursts.flatMap (·.grants)).filter (fun g => g.idx = i)).foldl (fun n g => n + g.assured) 0

/-- Structures of a map. -/
def BwMap.structs (m : BwMap) : Nat := (m.bursts.map (fun b => b.grants.length)).sum

/-- An allocation has a structure in a map. -/
def BwMap.names (m : BwMap) (i : Nat) : Bool := m.bursts.any (fun b => b.grants.any (fun g => g.idx = i))

/-- Structure limit of a side given what the 10G side issued (R109). -/
def structLimit (sd used10 : Nat) : Nat := if sd = 1 then 256 else 512 - used10

/-- The ROM algorithm for one side and frame (build_map of 04_bandwidth_assignment.md): credits are those after the
refill, demand and polls those of `snap`. `ordinary` is false in stage S2 (R510) and `fixedOnly` true while WHF_CTRL.EN
is 0 or in stage S1 (R508). -/
def State.buildSide (s : State) (p : Fin 32) (sd n page used10 : Nat) (snap : Tab AllocRt) (ordinary fixedOnly : Bool) : SideBuild :=
  let quiet := s.quietIn p sd n
  let fx := s.fixedBursts p page sd n
  let occ := (s.runSpans p page sd n).foldl (fun l x => insertSpan x l) []
  let disc := s.discGrants p sd n
  let l0 : Lay := ⟨occ, fx, structLimit sd used10 - fx.length⟩
  if fixedOnly then ⟨⟨n, fx, quiet⟩, 0, 0, 0, 0, 0, []⟩
  else
    let l1 : Lay := { l0 with bursts := l0.bursts ++ disc, left := l0.left - disc.length }
    let l2 := s.placeDue p sd n quiet l1
    let ws0 := if ordinary then s.works p sd n snap else []
    let est := s.estimate p sd quiet l2.occ ws0
    let a := assuredPass ws0 est
    let ws := ((peakPass a.1 a.2).1).filter (fun w => w.g != 0 || w.poll)
    let r := (layoutOrder ws).foldl (fun (acc : Lay × SideBuild) o => s.layOnu p sd quiet (s.runSpans p page sd n) o ws acc.1 acc.2)
      (l2, ⟨⟨n, [], quiet⟩, 0, 0, 0, 0, 0, []⟩)
    let m : BwMap := ⟨n, r.1.bursts, quiet⟩
    { r.2 with
      map := m
      polls := (ws.filter (fun w => decide (w.poll ∧ w.g = 0) && m.names w.idx)).length
      ctiDone := (s.whf.cti.filter (fun (c : CtiRec) => decide (c.tree = p.val ∧ c.frame ≤ n ∧ c.counted = false) &&
        ws0.any (fun w => decide (w.idx = c.index ∧ w.cti ≠ 0 ∧ m.granted w.idx ≠ 0)))).length
      rest := (ws0.filter (fun w => w.cti != 0)).filterMap (fun w =>
        let miss := w.cti - m.granted w.idx
        if miss = 0 then none else some (w.idx, miss)) }

/-- Credits of a map's grants debited, or returned within the caps of R113 (R115). -/
def State.credit (s : State) (p : Fin 32) (i g assured : Nat) (back : Bool) : State :=
  let x := s.alloc p i
  let a := s.rd (Win.ALLOC_ASSURED (allocIx p i))
  let k := s.rd (Win.ALLOC_PEAK (allocIx p i))
  let burst := max 1 (s.rd (Win.ALLOC_PEAK_BURST (allocIx p i)))
  s.setAlloc p i
    (if back then { x with aCred := min (x.aCred + assured) (max x.aCred (2 * a)), pCred := min (x.pCred + g) (max x.pCred (burst * k)) }
     else { x with aCred := x.aCred - assured, pCred := x.pCred - g })

/-- Allocations other than FIXED that a map grants, once each. -/
def BwMap.allocs (m : BwMap) : List Nat :=
  (((m.bursts.filter (fun b => b.kind != .fixed)).flatMap (·.grants)).map (·.idx)).filter (fun i => decide (i < 1024)) |>.dedup

/-- Debit of a side's map (R113), poll counts, which follow those of the snapshot (Table 4-1), and grants requested by slots
marked placed. -/
def State.debit (s : State) (p : Fin 32) (sd : Nat) (snap : Tab AllocRt) (m : BwMap) : State :=
  let s1 := m.allocs.foldl (fun s i => s.credit p i (m.granted i) (m.assuredOf i) false) s
  let s2 := (s1.reportAllocs p sd).foldl (fun s i =>
    let x := Tab.get (fun _ => AllocRt.reset) snap (allocIx p i)
    s.setAlloc p i { s.alloc p i with poll := if m.names i then 0 else min 15 (x.poll + 1) }) s1
  m.bursts.foldl (fun s b =>
    match b.kind with
    | .range => s.setSlot p b.onu { s.slot p b.onu with range := .placed }
    | .rerange => s.setSlot p b.onu { s.slot p b.onu with range := .placed }
    | _ => s) s2

/-- CARRY (R115, R87): a map never sent returns its bytes to the credits, leaves INFLIGHT, and its ranging grants are
due again. -/
def State.carry (s : State) (p : Fin 32) (sd : Nat) (m : BwMap) : State :=
  let s1 := m.allocs.foldl (fun s i =>
    let s := s.credit p i (m.granted i) (m.assuredOf i) true
    let x := s.alloc p i
    (s.setAlloc p i { x with inflight := x.inflight.filter (fun e => e.1 ≠ m.sfc) }).count (Cnt.WHF_CARRIED_BYTES p.val sd) (m.granted i)) s
  m.bursts.foldl (fun s b =>
    let x := s.slot p b.onu
    if (b.kind = .range ∨ b.kind = .rerange) ∧ x.range = .placed then s.setSlot p b.onu { x with range := .due } else s) s1

/-- INFLIGHT takes a map that is complete in the framer's buffer (R114). -/
def State.inflight (s : State) (p : Fin 32) (m : BwMap) : State :=
  m.allocs.foldl (fun s i =>
    let x := s.alloc p i
    s.setAlloc p i { x with inflight := (x.inflight.filter (fun e => e.1 ≠ m.sfc)) ++ [(m.sfc, m.granted i, m.assuredOf i)] }) s

/-- Map an image algorithm gives (R529): a free value, read with the side's allocation entries. -/
def State.imageSide (s : State) (p : Fin 32) (sd n page : Nat) : BwMap :=
  let fx := s.fixedBursts p page sd n
  let l := Config.imageMap s.free p.val sd
  let bs := l.map (fun (x : Nat × Nat × Nat × List (Nat × Nat × Bool × Bool)) =>
    let row := s.onuRow p sd x.2.1
    let gs := x.2.2.2.map (fun (q : Nat × Nat × Bool × Bool) =>
      (⟨q.1, s.rd (Win.ALLOC_ID (allocIx p q.1)), s.rd (Win.ALLOC_CLASS (allocIx p q.1)), q.2.1 / 4 * 4,
        min (q.2.1 / 4 * 4) (s.alloc p q.1).aCred, q.2.2.1, q.2.2.2⟩ : Grant))
    let slot := s.slot p x.2.1
    let kind : GrantKind :=
      if gs.any (fun g => decide (g.idx < 1024)) then .ord
      else if slot.state = .assigned then .range
      else if slot.state = .active ∧ slot.range = .due then .rerange
      else .ploam
    (⟨kind, x.2.1, row, x.2.2.1, roundUp x.1 (startUnit sd row), burstUnits sd row (s.prof p row x.2.2.1) gs, gs⟩ : Burst))
  let disc := s.discGrants p sd n
  ⟨n, fx ++ disc ++ bs, s.quietIn p sd n⟩

/-- CAP of R124 for a SUSTAIN value. -/
def State.capOf (s : State) (sustain : Nat) : Nat := sustain * 125 * s.rd Reg.WHF_CAP_CFG.UP_FRAC / 256

/-- SUSTAIN with every guild at FLOOR. -/
def State.floorSustain (s : State) : Nat :=
  64 * s.rd Reg.WHF_PACE_CFG.FLOOR * 5 * s.rd Reg.WHF_PACE_CFG.MARGIN / (64 * 256)

/-- The floor cap of R111. -/
def State.floorCap (s : State) : Nat := s.capOf s.floorSustain

/-- CTI records after a side's build for frame `n`: those taken leave; what did not fit is granted from start time 0 of
the next frame. -/
def State.ctiAfter (s : State) (p : Fin 32) (sd n : Nat) (m : BwMap) (rest : List (Nat × Nat)) : State :=
  let keep := s.whf.cti.filter (fun (r : CtiRec) =>
    ¬ (r.tree = p.val ∧ r.frame ≤ n ∧ s.rd (Win.ALLOC_SIDE (allocIx p r.index)) = sd))
  { s with whf := { s.whf with cti := keep ++ rest.map (fun x => ⟨p.val, x.1, x.2, n + 1, 0, n, decide (m.granted x.1 ≠ 0)⟩) } }

/-- CTI records as a rebuild for frame `n` finds them (R134): those the replaced build took are back, each still counted if the
replaced maps granted it, but for what a map after frame `f` had left over, which that map's rebuild leaves anew. -/
def State.ctiBefore (s : State) (p : Fin 32) (f n : Nat) (took : List CtiRec) (ms : List BwMap) : State :=
  let back := (took.filter (fun (r : CtiRec) => decide (r.tree = p.val ∧ r.frame ≤ n ∧ r.left ≤ f))).map (fun r =>
    { r with counted := r.counted || ms.any (fun m => m.granted r.index != 0) })
  { s with whf := { s.whf with cti := back ++ s.whf.cti.filter (fun (r : CtiRec) => ¬ (r.tree = p.val ∧ r.left = n)) } }

/-- Fixed-grant payload of a side under a page (R592): the largest of the 8 frames' sums. -/
def State.fixedPayloadOf (s : State) (p : Fin 32) (page sd : Nat) : Nat :=
  ((List.range 8).map (fun n => ((s.upRuns p page sd n).map (fun (r : Run) =>
    let row := s.onuRow p sd (s.rd (Win.ALLOC_ONU (allocIx p r.key)))
    fixedPayload sd row (s.guard p row) (s.prof p row 0) (r.first * slotUnits sd) ((r.first + r.len) * slotUnits sd))).sum)).foldl max 0

/-- Packet cost of a side's fixed grants under a page, the largest of the 8 frames' sums (R592), each side by itself (DESIGN
CHOICE, log entry 162). -/
def State.fixedCostOf (s : State) (p : Fin 32) (page sd : Nat) : Nat :=
  ((List.range 8).map (fun n => ((s.upRuns p page sd n).map (fun (r : Run) =>
    let row := s.onuRow p sd (s.rd (Win.ALLOC_ONU (allocIx p r.key)))
    s.grantCost p r.key (fixedPayload sd row (s.guard p row) (s.prof p row 0) (r.first * slotUnits sd) ((r.first + r.len) * slotUnits sd)))).sum)).foldl max 0

/-- Pages R111 reckons with: the active one, and an accepted one that has not yet taken effect. -/
def State.pagesReckoned (s : State) (p : Fin 32) : List Nat :=
  match s.swapOf p with
  | .accepted | .building _ => [s.activePage p, 1 - s.activePage p]
  | _ => [s.activePage p]

/-- Assured bytes of a side's enabled allocations. -/
def State.assuredSum (s : State) (p : Fin 32) (sd : Nat) : Nat :=
  (((List.range 1024).filter (fun i => s.bit (Win.ALLOC_EN (allocIx p i)) && s.rd (Win.ALLOC_SIDE (allocIx p i)) == sd)).map
    (fun i => s.rd (Win.ALLOC_ASSURED (allocIx p i)))).sum

/-- LIMIT of a side (Table 4-16). -/
def State.budgetLimit (s : State) (p : Fin 32) (sd : Nat) : Nat :=
  if sd = 0 then s.rd (Reg.WHF_BUDGET50.LIMIT p.val) else s.rd (Reg.WHF_BUDGET10.LIMIT p.val)

/-- The first check of R111: a side's assured and fixed bytes stay within LIMIT, the fixed part reckoned on `pages`. -/
def State.budgetOk (s : State) (p : Fin 32) (sd : Nat) (pages : List Nat) : Bool :=
  decide (s.assuredSum p sd + (pages.map (fun g => s.fixedPayloadOf p g sd)).foldl max 0 ≤ s.budgetLimit p sd)

/-- The second check of R111: the device's packet cost of assured rates and fixed grants stays within the floor cap;
`pages` gives the pages reckoned for each tree. -/
def State.costOk (s : State) (pages : Fin 32 → List Nat) : Bool :=
  decide ((ports.map (fun p => ([0, 1].map (fun sd =>
    (((List.range 1024).filter (fun i => s.bit (Win.ALLOC_EN (allocIx p i)) && s.rd (Win.ALLOC_SIDE (allocIx p i)) == sd)).map
      (fun i => s.grantCost p i (s.rd (Win.ALLOC_ASSURED (allocIx p i))))).sum
    + ((pages p).map (fun g => s.fixedCostOf p g sd)).foldl max 0)).sum)).sum ≤ s.floorCap)

end Sys2Proof.Machine
end

