-- ==== Sys2Proof/Machine/Assay.lean ====
section
/-! DEFINITION. The Assayer's rules (04_bandwidth_assignment.md R135 to R139, R593). -/

namespace Sys2Proof.Machine

set_option autoImplicit false

/-- A burst with its length reckoned anew from its grants. -/
def State.relen (s : State) (p : Fin 32) (sd : Nat) (b : Burst) : Burst :=
  if b.kind = .disc then b else { b with len := burstUnits sd b.row (s.prof p b.row b.prof) b.grants }

/-- A map with each burst's grants rewritten; bursts left with no grant leave the map. -/
def State.regrant (s : State) (p : Fin 32) (sd : Nat) (m : BwMap) (f : Burst → List Grant) : BwMap :=
  { m with bursts := (m.bursts.map (fun b => s.relen p sd { b with grants := f b })).filter (fun b => b.grants ≠ []) }

/-- What a map gives an Alloc-ID: each structure with the start and profile of its burst. -/
def BwMap.given (m : BwMap) (id : Nat) : List (Nat × Nat × Grant) :=
  m.bursts.flatMap (fun b => (b.grants.filter (fun g => g.allocId = id)).map (fun g => (b.start, b.prof, g)))

/-- Alloc-IDs of a map, in order. -/
def BwMap.ids (m : BwMap) : List Nat := (m.bursts.flatMap (fun b => b.grants.map (·.allocId)))

/-- Allocations whose structures differ between two versions of a map, each once, as (Alloc-ID, bytes removed) (R138). -/
def repairsOf (a b : BwMap) : List (Nat × Nat) :=
  let bytes := fun (m : BwMap) (id : Nat) => ((m.given id).map (fun x => x.2.2.g)).sum
  (((a.ids ++ b.ids).dedup).filter (fun id => a.given id ≠ b.given id)).map (fun id => (id, bytes a id - bytes b id))

/-- Rule 1: a grant to an allocation not enabled, on the wrong side, or not permitted by R112, which goes by the slot of the
allocation's ONU. One whose ONU is not its burst's is not permitted either (DEDUCED, log entry 163). -/
def State.permits (s : State) (p : Fin 32) (sd n : Nat) (b : Burst) (g : Grant) : Bool :=
  let x := s.slot p b.onu
  let own := s.rd (Win.ALLOC_ONU (allocIx p g.idx)) == b.onu
  match b.kind with
  | .ord | .cti => if g.idx < 1024 then s.reportAlloc p sd g.idx && own && x.served sd else x.state != .free && x.state != .disabled
  | .fixed => s.fixedAlloc p sd g.idx && own && x.served sd
  | .range => x.state == .assigned && x.side == sd
  | .rerange => x.state == .active && x.side == sd
  | .ploam => x.side == sd && (x.state == .ranged || (x.state == .lost && n % 8 == 0))
  | .disc => true

/-- Rule 1 as a repair. -/
def State.rule1 (s : State) (p : Fin 32) (sd : Nat) (m : BwMap) : BwMap :=
  s.regrant p sd m (fun b => b.grants.filter (s.permits p sd m.sfc b))

/-- The structure an excess takes next, as burst and place (rule 2): lowest class first, then latest start, then last in its
burst; none of a fixed burst. -/
def victim (m : BwMap) : Option (Nat × Nat) :=
  let l := (m.bursts.mapIdx (fun i b => if b.kind = .fixed then [] else b.grants.mapIdx (fun j g => (i, j, g.cls, b.start)))).flatten
  (l.foldl (fun (best : Option (Nat × Nat × Nat × Nat)) x =>
    match best with
    | none => some x
    | some y => if x.2.2.1 < y.2.2.1 ∨ (x.2.2.1 = y.2.2.1 ∧ y.2.2.2 ≤ x.2.2.2) then some x else best) none).map (fun x => (x.1, x.2.1))

/-- Rule 2: structures above the limit removed one at a time. -/
def State.rule2 (s : State) (p : Fin 32) (sd limit : Nat) : Nat → BwMap → BwMap
  | 0, m => m
  | k + 1, m =>
    if m.structs ≤ limit then m
    else
      match victim m with
      | none => m
      | some v =>
        let bs := m.bursts.mapIdx (fun j b => if j = v.1 then s.relen p sd { b with grants := b.grants.eraseIdx v.2 } else b)
        s.rule2 p sd limit k { m with bursts := bs.filter (fun b => b.grants ≠ []) }

/-- A burst with its guard uses part of a span a run reserves. -/
def Burst.inRun (b : Burst) (g : Nat) (runs : List (Nat × Nat)) : Bool :=
  runs.any (fun r => decide (b.start < r.2) && decide (r.1 < b.start + b.len + g))

/-- Rule 3: the fixed bursts of the page in force, restored per R128; a burst in the span of a run is given to another
allocation and removed, whether or not the run sends. -/
def State.rule3 (s : State) (p : Fin 32) (page sd : Nat) (m : BwMap) : BwMap :=
  let want := s.fixedBursts p page sd m.sfc
  let runs := s.runSpans p page sd m.sfc
  let stays := fun (b : Burst) => b.kind == .disc || (b.kind != .fixed && !b.inRun (s.guard p b.row) runs)
  if m.bursts.filter (fun b => b.kind == .fixed) = want ∧ m.bursts.all (fun b => b.kind == .fixed || stays b) = true then m
  else { m with bursts := want ++ m.bursts.filter stays }

/-- Rule 4: a burst past the frame end under R106. -/
def State.rule4 (s : State) (p : Fin 32) (sd : Nat) (m : BwMap) : BwMap :=
  { m with bursts := m.bursts.filter (fun b => b.kind = .disc ∨ b.kind = .fixed ∨ b.start + b.len + s.guard p b.row ≤ frameLen sd) }

/-- A burst meets a quiet span (R72): the two share an instant once the burst is widened by half of GUARD at each
end. -/
def meets (g : Nat) (b : Burst) (q : Int × Int) : Bool :=
  decide ((b.start : Int) - (g / 2 : Nat) ≤ q.2) && decide (q.1 ≤ (b.start : Int) + b.len - 1 + (g / 2 : Nat))

/-- Rule 5: a burst that is neither fixed nor a discovery grant in a quiet span. -/
def State.rule5 (s : State) (p : Fin 32) (m : BwMap) : BwMap :=
  { m with bursts := m.bursts.filter (fun b => b.kind = .fixed ∨ b.kind = .disc ∨ ¬ m.quiet.any (meets (s.guard p b.row) b)) }

/-- Insertion of a burst by start. -/
def insertBurst (x : Burst) : List Burst → List Burst
  | [] => [x]
  | y :: t => if x.start < y.start then x :: y :: t else y :: insertBurst x t

/-- Rule 6 over bursts in start order, the kept ones in reverse: the later burst goes, or the earlier when the later
is fixed. -/
def State.overlap (s : State) (p : Fin 32) : List Burst → List Burst → List Burst
  | kept, [] => kept
  | [], b :: t => s.overlap p [b] t
  | a :: k, b :: t =>
    if a.start + a.len + s.guard p a.row ≤ b.start then s.overlap p (b :: a :: k) t
    else if b.kind = .fixed then s.overlap p (b :: k) t
    else s.overlap p (a :: k) t

/-- The bursts of a list that another keeps, each as often as it stands there. -/
def keepOnly : List Burst → List Burst → List Burst
  | _, [] => []
  | kept, b :: t => if kept.contains b then b :: keepOnly (kept.erase b) t else keepOnly kept t

/-- Rule 6: two bursts not separated under R106. -/
def State.rule6 (s : State) (p : Fin 32) (m : BwMap) : BwMap :=
  let disc := m.bursts.filter (fun b => b.kind = .disc)
  let kept := s.overlap p [] ((m.bursts.filter (fun b => b.kind ≠ .disc)).foldl (fun l b => insertBurst b l) [])
  { m with bursts := keepOnly (disc ++ kept) m.bursts }

/-- Payload an allocation has in the bursts of a map that start before burst `i`, ties in map order, fixed ones aside. -/
def BwMap.before (m : BwMap) (i idx : Nat) : Nat :=
  let at_ := (m.bursts[i]?.map (·.start)).getD 0
  ((m.bursts.mapIdx (fun k b =>
    if b.kind ≠ .fixed ∧ (b.start < at_ ∨ (b.start = at_ ∧ k < i)) then payload (b.grants.filter (fun g => g.idx = idx)) else 0))).sum

/-- Rule 7: an allocation's payload above MAX_GRANT is cut from its latest grant back, to whole words (R593 keeps a grant with
a report or PLOAM flag). -/
def State.rule7 (s : State) (p : Fin 32) (sd : Nat) (m : BwMap) : BwMap :=
  let cut := fun (i : Nat) (b : Burst) => b.grants.mapIdx (fun j g =>
    if 1024 ≤ g.idx then g
    else
      let used := m.before i g.idx + payload ((b.grants.take j).filter (fun h => h.idx = g.idx))
      let x := min g.g (s.rd (Win.ALLOC_MAX_GRANT (allocIx p g.idx)) / 4 * 4 - used)
      { g with g := x, assured := min g.assured x })
  { m with bursts := (m.bursts.mapIdx (fun i b =>
      if b.kind = .fixed ∨ cut i b = b.grants then b else s.relen p sd { b with grants := keepGrants (cut i b) })).filter (fun b => b.grants ≠ []) }

/-- Rule 8: more than 2 PLOAM grants to one ONU in the frame. -/
def State.rule8 (s : State) (p : Fin 32) (sd : Nat) (m : BwMap) : BwMap :=
  let r := m.bursts.foldl (fun (acc : List Burst × List (Nat × Nat)) b =>
    if b.kind = .disc then (acc.1 ++ [b], acc.2)
    else
      let q := b.grants.foldl (fun (a : List Grant × Nat) g =>
        if g.ploam then (if a.2 < 2 then (a.1 ++ [g], a.2 + 1) else (a.1 ++ (if g.g = 0 ∧ ¬ g.dbru then [] else [{ g with ploam := false }]), a.2))
        else (a.1 ++ [g], a.2)) ([], Tab.get (fun _ => 0) acc.2 b.onu)
      (acc.1 ++ [s.relen p sd { b with grants := q.1 }], Tab.set (fun _ => 0) acc.2 b.onu q.2)) ([], [])
  { m with bursts := r.1.filter (fun b => b.grants ≠ []) }

/-- A grant as rule 10 sees it: its map, burst and place, class, the part above min(G, 2 × ASSURED), the rest, and
the packet estimate. -/
structure CapG where
  key : Nat
  burst : Nat
  place : Nat
  cls : Nat
  above : Nat
  rest : Nat
  est : Nat
  fixed : Bool
deriving DecidableEq, Repr

/-- Packet cost of a grant (R125). -/
def CapG.cost (g : CapG) : Nat := ceilDiv (g.above + g.rest) g.est

/-- Part of a grant a pass of R137 cuts: the first pass the part above assured, the second the rest. -/
def CapG.part (first : Bool) (g : CapG) : Nat := if first then g.above else g.rest

/-- A grant with the part of a pass replaced. -/
def CapG.setPart (first : Bool) (v : Nat) (g : CapG) : CapG := if first then { g with above := v } else { g with rest := v }

/-- Grants one limit covers. -/
def capCost (inn : CapG → Bool) (gs : List CapG) : Nat := ((gs.filter inn).map CapG.cost).sum

/-- One class of one pass of R137. -/
def capClass (inn : CapG → Bool) (limit : Nat) (first : Bool) (c : Nat) (gs : List CapG) : List CapG :=
  let cost := capCost inn gs
  if cost ≤ limit then gs
  else
    let excess := cost - limit
    let sel := fun (g : CapG) => inn g && !g.fixed && decide (g.cls = c) && decide (0 < g.part first)
    let k := ((gs.filter sel).map (fun g => ceilDiv (g.part first) g.est)).sum
    gs.map (fun g =>
      if sel g then
        (if k ≤ excess then g.setPart first 0 else g.setPart first (g.part first * (k - excess) / k / 4 * 4))
      else g)

/-- One pass of R137 over the classes from 0 up. -/
def capPass (inn : CapG → Bool) (limit : Nat) (first : Bool) (gs : List CapG) : List CapG :=
  (List.range 8).foldl (fun gs c => capClass inn limit first c gs) gs

/-- Result of one limit: the grants, whether the second pass ran, the excess left. -/
structure CapRes where
  gs : List CapG
  second : Bool
  left : Nat
deriving DecidableEq, Repr

/-- Both passes of R137 for one limit. -/
def capLimit (inn : CapG → Bool) (limit : Nat) (gs : List CapG) : CapRes :=
  let a := capPass inn limit true gs
  if capCost inn a ≤ limit then ⟨a, false, 0⟩
  else
    let b := capPass inn limit false a
    ⟨b, true, capCost inn b - limit⟩

/-- Grants of one map for rule 10. -/
def State.capGrants (s : State) (p : Fin 32) (sd : Nat) (m : BwMap) : List CapG :=
  (m.bursts.mapIdx (fun i b => b.grants.mapIdx (fun j g =>
    let a := if g.idx < 1024 then 2 * s.rd (Win.ALLOC_ASSURED (allocIx p g.idx)) else 0
    let e := if (s.alloc p g.idx).under ≠ 0 then 72 else max 72 (s.rd (Win.ALLOC_PKT_EST (allocIx p g.idx)))
    (⟨p.val * 2 + sd, i, j, g.cls, g.g - min g.g a, min g.g a, e, b.kind == .fixed⟩ : CapG)))).flatten

/-- A map with the payloads rule 10 left. -/
def State.capApply (s : State) (p : Fin 32) (sd : Nat) (gs : List CapG) (m : BwMap) : BwMap :=
  let mine := gs.filter (fun c => c.key = p.val * 2 + sd)
  { m with bursts := (m.bursts.mapIdx (fun i b =>
      let q := b.grants.mapIdx (fun j g =>
        match mine.find? (fun c => c.burst = i ∧ c.place = j) with
        | some c => { g with g := c.above + c.rest, assured := min g.assured (c.above + c.rest) }
        | none => g)
      if q = b.grants then b else s.relen p sd { b with grants := keepGrants q })).filter (fun b => b.grants ≠ []) }

/-- Pipeline of a port (R16). -/
def pipeOf (key : Nat) : Nat := if key / 2 < 16 then 0 else 1

/-- Source of Wharfinger and the Assayer. -/
abbrev srcWhf : Source := ⟨.WHF, 0⟩

/-- REPAIR records (R138): each repaired allocation is logged and counted under its rule, and one MAP_REPAIRED is
raised for the map. -/
def State.repaired (s : State) (p : Fin 32) (sd rule n : Nat) (l : List (Nat × Nat)) : State :=
  match l with
  | [] => s
  | x :: t =>
    let s1 := l.foldl (fun s (y : Nat × Nat) =>
      let i := s.rd Reg.WHF_ASY_STATUS.LOG_WR
      let s := if s.whf.logUnread.contains i then s.wr Reg.WHF_ASY_STATUS.LOG_WRAPPED 1 else s
      let e := rule % 16 * 2 ^ 60 + p.val * 2 ^ 55 + sd * 2 ^ 54 + y.1 % 2 ^ 14 * 2 ^ 40 + min y.2 (2 ^ 20 - 1) * 2 ^ 20 + n % 2 ^ 20
      let s := { s with whf := { s.whf with log := Tab.set (fun _ => 0) s.whf.log i e, logUnread := i :: s.whf.logUnread.filter (fun j => j ≠ i) } }
      let s := s.wr Reg.WHF_ASY_STATUS.LOG_WR ((i + 1) % 4096)
      s.inc (Cnt.WHF_REPAIR p.val sd rule)) s
    s1.raise .MAP_REPAIRED srcWhf (portAddr p sd (rule * 2 ^ 30 + x.1 % 2 ^ 14 * 2 ^ 16 + min t.length 65535))

/-- Bytes the Assayer took from allocations returned under R115, and ranging grants it removed due again (R87). -/
def State.giveBack (s : State) (p : Fin 32) (sd : Nat) (a b : BwMap) : State :=
  let s1 := a.allocs.foldl (fun s i =>
    let d := a.granted i - b.granted i
    if d = 0 then s
    else (s.credit p i d (a.assuredOf i - b.assuredOf i) true).count (Cnt.WHF_CARRIED_BYTES p.val sd) d) s
  a.bursts.foldl (fun s x =>
    if (x.kind = .range ∨ x.kind = .rerange) ∧ ¬ b.bursts.any (fun y => y.kind = x.kind ∧ y.onu = x.onu)
      ∧ (s.slot p x.onu).range = .placed
    then s.setSlot p x.onu { s.slot p x.onu with range := .due } else s) s1

/-- A rule applied to one map: repairs recorded, bytes returned unless the map's bytes were carried before (`back`). -/
def State.applyRule (s : State) (p : Fin 32) (sd rule : Nat) (back : Bool) (a b : BwMap) : State :=
  (if back then s.giveBack p sd a b else s).repaired p sd rule a.sfc (repairsOf a b)

/-- Rules 1 to 8 on one map, in order; `v` is the state as the snapshot has it. -/
def State.checkMap (s v : State) (p : Fin 32) (sd page used10 : Nat) (back : Bool) (m : BwMap) : State × BwMap :=
  let m1 := v.rule1 p sd m
  let s := s.applyRule p sd 1 back m m1
  let m2 := v.rule2 p sd (structLimit sd used10) m1.structs m1
  let s := s.applyRule p sd 2 back m1 m2
  let m3 := v.rule3 p page sd m2
  let s := s.applyRule p sd 3 back m2 m3
  let m4 := v.rule4 p sd m3
  let s := s.applyRule p sd 4 back m3 m4
  let m5 := v.rule5 p m4
  let s := s.applyRule p sd 5 back m4 m5
  let m6 := v.rule6 p m5
  let s := s.applyRule p sd 6 back m5 m6
  let m7 := v.rule7 p sd m6
  let s := s.applyRule p sd 7 back m6 m7
  let m8 := v.rule8 p sd m7
  (s.applyRule p sd 8 back m7 m8, m8)

/-- The map of a build for a side. -/
def Build.map (b : Build) (k : Nat) : BwMap := Tab.get (fun _ => ⟨0, [], []⟩) b.maps k

/-- A build with the map of a side replaced. -/
def Build.setMap (b : Build) (k : Nat) (m : BwMap) : Build := { b with maps := Tab.set (fun _ => ⟨0, [], []⟩) b.maps k m }

/-- A build holds a map of a side. -/
def Build.has (b : Build) (k : Nat) : Bool := (Tab.find b.maps k).isSome

/-- All sides in the Assayer's order: by port, the 10G side first. -/
abbrev sides : List (Fin 32 × Nat) := ports.flatMap (fun p => [(p, 1), (p, 0)])

/-- The Assayer has checked every map of a build. -/
def Build.checked (b : Build) : Bool := b.maps.all (fun x => b.done.contains x.1)

/-- Sides of a build whose map is still to be checked, in the Assayer's order. -/
def Build.todo (b : Build) : List (Fin 32 × Nat) :=
  sides.filter (fun x => b.has (x.1.val * 2 + x.2) && !b.done.contains (x.1.val * 2 + x.2))

/-- Words of the burst profiles and preset registers (R46, R51). -/
def profWords (w : Words) : List (Nat × Word) :=
  w.filter (fun x => ports.any (fun p => decide (x.1 = Reg.PT_PRESET_CFG.addr p.val) ||
    (decide (Reg.PT_BPROF_W0.addr p.val 0 ≤ x.1) && decide (x.1 ≤ Reg.PT_BPROF_W3.addr p.val 15))))

/-- The state as a build's snapshot has it: slot states, profiles and presets (R46, R51, R113, R134). -/
def State.atSnap (s : State) (b : Build) : State :=
  let live := profWords s.words
  let rest : Words := s.words.filter (fun x => !live.any (fun y => y.1 == x.1))
  { s with words := b.profs.foldl (fun (w : Words) x => w.put x.1 x.2) rest, now := b.time
           act := { s.act with slots := b.slots }, pon := { s.pon with presets := b.presets, temps := b.temps } }

/-- Rules 1 to 8 over the maps of a build (R135). -/
def State.checkAll (s : State) (b : Build) : State × Build :=
  let v := s.atSnap b
  b.todo.foldl (fun (acc : State × Build) (x : Fin 32 × Nat) =>
    let k := x.1.val * 2 + x.2
    let used := (acc.2.map (x.1.val * 2 + 1)).structs
    let r := acc.1.checkMap v x.1 x.2 (Tab.get (fun _ => 0) b.pages x.1.val) used (!b.carried.contains k) (acc.2.map k)
    (r.1, acc.2.setMap k r.2)) (s, b)

/-- Rule 10 over the maps of a build (R124, R137): each pipeline's excess first, then the device total. Maps checked before, with
which a rebuilt one shares its frame (R134), count and are not cut. -/
def State.rule10 (s : State) (b : Build) : State × Build :=
  let g0 := sides.flatMap (fun (x : Fin 32 × Nat) =>
    let k := x.1.val * 2 + x.2
    if b.has k then (s.capGrants x.1 x.2 (b.map k)).map (fun g => { g with fixed := g.fixed || b.done.contains k }) else [])
  let a := capLimit (fun g => decide (pipeOf g.key = 0)) 150000 g0
  let c := capLimit (fun g => decide (pipeOf g.key = 1)) 150000 a.gs
  let d := capLimit (fun _ => true) b.cap c.gs
  let second := a.second || c.second || d.second
  let left := max a.left (max c.left d.left)
  let r := b.todo.foldl (fun (acc : State × Build) (x : Fin 32 × Nat) =>
    let k := x.1.val * 2 + x.2
    let m := acc.2.map k
    let m' := acc.1.capApply x.1 x.2 d.gs m
    let lost := (m.allocs.map (fun i => m.granted i - m'.granted i)).sum
    ((acc.1.applyRule x.1 x.2 10 (!b.carried.contains k) m m').count (Cnt.WHF_CAP_CUT_BYTES x.1.val x.2) lost, acc.2.setMap k m')) (s, b)
  let s1 := (r.1.wr Reg.WHF_CAP_STATUS.CUT (if d.gs = g0 then 0 else 1)).wr Reg.WHF_CAP_STATUS.ASSURED_CUT (if second ∨ left ≠ 0 then 1 else 0)
  (if left = 0 then s1 else s1.raise .CAP_EXCEEDED srcWhf (left % 2 ^ 21), { r.2 with second := second })

/-- SHORTFALL_CHECK of one allocation (R139): the new shortfall from what the map granted; the report is the snapshot's. -/
def State.shortfall (s : State) (p : Fin 32) (sd i : Nat) (m : BwMap) (snap : AllocRt) (image : Bool) : State :=
  let x := s.alloc p i
  let a := s.rd (Win.ALLOC_ASSURED (allocIx p i))
  let due := min a (({ snap with inflight := x.inflight } : AllocRt).dem m.sfc)
  let g := m.granted i
  let short := if g < due then x.short + (due - g) else 0
  let s1 := s.setAlloc p i { x with short := short }
  if 8 * a < short ∧ s.bit Reg.WHF_ASY_CFG.STARVE_EN then
    let addr := portAddr p sd (s.rd (Win.ALLOC_ID (allocIx p i)) * 2 ^ 16)
    if image then
      if s1.bit Reg.WHF_CTRL.FALLBACK then s1
      else (s1.wr Reg.WHF_CTRL.FALLBACK 1).raise .DBA_FALLBACK srcWhf addr
    else s1.raise .DBA_STARVE srcWhf addr
  else s1

/-- SHORTFALL_CHECK of a side, as its map is released in time: frames sent under R26 are skipped, and those in which the second
pass of R137 ran. -/
def State.shortfalls (s : State) (p : Fin 32) (sd : Nat) (b : Build) (m : BwMap) : State :=
  if b.second then s
  else (s.reportAllocs p sd).foldl (fun s i =>
    if s.rd (Win.ALLOC_ASSURED (allocIx p i)) = 0 then s
    else s.shortfall p sd i m (Tab.get (fun _ => AllocRt.reset) b.rts (allocIx p i)) b.image) s

end Sys2Proof.Machine
end

