-- ==== Sys2Proof/Machine/Assign.lean ====
section
/-! DEFINITION. The commands of bandwidth assignment (04_bandwidth_assignment.md): map build, Assayer check, release,
allocation and slot-plan writes, page swaps. -/

namespace Sys2Proof.Machine

set_option autoImplicit false

/-- Build of one side for the frame of a build (R113 to R120): credits are refilled, unless `rebuild`, which uses the
snapshot's reports with no second refill (R134). -/
def State.buildOne (s : State) (b : Build) (p : Fin 32) (sd n : Nat) (rebuild : Bool) : State × Build :=
  let k := p.val * 2 + sd
  let page := Tab.get (fun _ => 0) b.pages p.val
  let used10 := (b.map (p.val * 2 + 1)).structs
  let s1 := if rebuild then s else s.refill p sd
  let fixedOnly := !s.bit Reg.WHF_CTRL.EN || decide (s.stage ≤ 1)
  if b.image && !fixedOnly then
    let s2 := { s1 with free := s1.free + 1 }
    let m := (s1.atSnap b).imageSide p sd n page
    (s2.debit p sd b.rts m, b.setMap k m)
  else
    let v := s1.atSnap b
    let r := v.buildSide p sd n page used10 b.rts (decide (3 ≤ s.stage)) fixedOnly
    let s2 := (s1.debit p sd b.rts r.map).ctiAfter p sd n r.map r.rest
    let s3 := (((s2.count (Cnt.WHF_STRUCT_FULL p.val sd) r.full).count (Cnt.WHF_SPLITS p.val sd) r.splits).count
      (Cnt.WHF_SHORTENED p.val sd) r.shortened)
    ((s3.count (Cnt.WHF_POLL_GRANTS p.val sd) r.polls).count (Cnt.WHF_CTI_RECORDS p.val sd) r.ctiDone, b.setMap k r.map)

/-- An accepted swap becomes the page of a build for a frame with SFC[2:0] = 0 (R133). -/
def State.swapAtBuild (s : State) (p : Fin 32) : State :=
  match s.swapOf p with
  | .accepted => if s.buildFrame p % 8 = 0 then s.setSwap p (.building (s.buildFrame p)) else s
  | _ => s

/-- Windows of maps not yet built are dropped when their side no longer opens any (R69, R99). -/
def State.closeWindows (s : State) (x : Fin 32 × Nat) : State :=
  let d := s.disc x.1 x.2
  let keep := d.wins.filter (fun w => decide (w.1 < s.buildFrame x.1) || s.opensWindows x.1 x.2)
  if keep = d.wins then s else s.setDisc x.1 x.2 { d with wins := keep }

/-- The snapshot of a build, with no map built yet (R113, R134): slot states, credits, profiles, presets, CTI records and the page
of each tree. -/
def State.newBuild (s : State) (cap : Nat) (image : Bool) : Build :=
  { maps := [], cap := cap
    pages := ports.foldl (fun t (p : Fin 32) => Tab.set (fun _ => 0) t p.val (s.pageFor p (s.buildFrame p))) []
    slots := s.act.slots, rts := s.whf.alloc, profs := profWords s.words, presets := s.pon.presets, temps := s.pon.temps
    time := s.now, cti := s.whf.cti, image := image, done := [], released := [], carried := [], second := false }

/-- MAP_BUILD_START (R113): the snapshot is taken, CAP computed and held for these maps (R124, R23), credits refilled
and the maps of both sides of every tree built, the 10G side first. The algorithm in use is latched at this moment
(R529). -/
def execMapBuildStart (s : State) : Host.Outcome State Fault Refusal :=
  if s.flt.safe then ok s else
  let cap := s.capOf (s.rd Reg.WHF_CORE_RATE.SUSTAIN)
  let s1 := sides.foldl State.closeWindows (ports.foldl (fun s p => s.swapAtBuild p) (s.wr Reg.WHF_CAP_STATUS.CAP cap))
  let image := s.bit Reg.WHF_CTRL.ALG && !s.bit Reg.WHF_CTRL.FALLBACK
  let r := sides.foldl (fun (acc : State × Build) (x : Fin 32 × Nat) => acc.1.buildOne acc.2 x.1 x.2 (s1.buildFrame x.1) false) (s1, s1.newBuild cap image)
  let built := ports.foldl (fun t (p : Fin 32) => Tab.set (fun _ => 0) t p.val (s1.buildFrame p + 1)) r.1.whf.built
  let old := r.1.whf.builds.drop (r.1.whf.builds.length - 4)
  let s2 : State := { r.1 with whf := { r.1.whf with builds := old ++ [r.2], built := built } }
  ok (ports.foldl (fun s p => s.mirror 3 p 0xFF (s1.buildFrame p)) s2)

/-- Update of the first build that satisfies a test. -/
def modFirst (t : Build → Bool) (f : Build → Build) : List Build → List Build
  | [] => []
  | b :: l => if t b then f b :: l else b :: modFirst t f l

/-- ASSAYER_CHECK (R135 to R138): rules 1 to 8 on each unchecked map of the oldest build that has one, rule 10 on all, and the
times of WHF_STATUS. A map on which the two Assayer copies disagree is not released; R26 applies to its frame and its bytes
are carried (R451). -/
def execAssayerCheck (buildTime assayTime : BitVec 16) (mismatch : List (Fin 32 × Side)) (s : State) : Host.Outcome State Fault Refusal :=
  match s.whf.builds.find? (fun b => !b.checked) with
  | none => ok s
  | some b =>
    let r := s.checkAll b
    let c := r.1.rule10 r.2
    let d := mismatch.foldl (fun (acc : State × Build) (x : Fin 32 × Side) =>
      let k := x.1.val * 2 + x.2.n
      if acc.2.has k && !b.done.contains k then
        let m := acc.2.map k
        ((if acc.2.carried.contains k then acc.1 else acc.1.carry x.1 x.2.n m).raise .ASSAYER_MISMATCH srcWhf (portAddr x.1 x.2.n (m.sfc % 2 ^ 24)),
          { acc.2 with released := k :: acc.2.released, carried := k :: acc.2.carried })
      else acc) c
    let s2 := (d.1.wr Reg.WHF_STATUS.LAST_BUILD buildTime.toNat).wr Reg.WHF_STATUS.LAST_ASSAY assayTime.toNat
    ok { s2 with whf := { s2.whf with builds := modFirst (fun b => !b.checked) (fun _ => { d.2 with done := d.2.maps.map (·.1) }) s2.whf.builds } }

/-- MAP_RELEASE (R25, R27, R114, R115, R139): the oldest checked map of the side enters the framer's buffer, or, when its
frame's lock has passed, is discarded, its bytes carried unless they were at that lock. On a shadow tree the map is the
fallback map, in no INFLIGHT until it is sent. -/
def execMapRelease (p : Fin 32) (sd : Side) (s : State) : Host.Outcome State Fault Refusal :=
  let k := p.val * 2 + sd.n
  let ready := fun (b : Build) => b.done.contains k && b.has k && !b.released.contains k
  match s.whf.builds.find? ready with
  | none => ok s
  | some b =>
    let m := b.map k
    let s1 := { s with whf := { s.whf with builds := modFirst ready (fun b => { b with released := k :: b.released }) s.whf.builds } }
    let s2 := ((s1.inc (Cnt.WHF_MAPS_BUILT p.val sd.n)).count (Cnt.WHF_STRUCTS p.val sd.n) m.structs).count
      (Cnt.WHF_GRANT_BYTES p.val sd.n) ((m.bursts.map (fun x => payload x.grants)).sum)
    let x := s2.side p sd.n
    if (match x.lastLock with | some f => decide (m.sfc ≤ f) | none => false) then
      ok (let s3 := s2.inc (Cnt.PT_MAP_DISCARDED p.val sd.n)
        if b.carried.contains k then s3 else s3.carry p sd.n m)
    else
      let s3 := (s2.shortfalls p sd.n b m).setSide p sd.n { x with buf := x.buf ++ [m] }
      ok ((if s.owned p.val then s3.inflight p m else s3).mirror 2 p sd.n m.sfc)

/-- Writable bits of words 0 to 4 of an allocation entry (Table 4-1). -/
def allocMask : Nat → Word
  | 0 => 0xFF3FFFFF#32 | 1 => 0x000FFFFF#32 | 2 => 0x0F0FFFFF#32 | 3 => 0xFFFFFFFF#32 | 4 => 0x0000FFFF#32 | _ => 0#32

/-- An allocation entry stored; PKT_EST below 72 is stored as 72. -/
def State.allocStore (s : State) (p : Fin 32) (i : Nat) (ws : List Word) : State :=
  let k := allocIx p i
  let s1 := s.putEntry wWhf k 0 ((ws.take 5).mapIdx (fun j w => w &&& allocMask j))
  s1.wr (Win.ALLOC_PKT_EST k) (max 72 (s1.rd (Win.ALLOC_PKT_EST k)))

/-- An allocation entry stored by its owner, mirrored to the partner (Table 10-3). -/
def State.allocWrite (s : State) (p : Fin 32) (i : Nat) (ws : List Word) : State := (s.allocStore p i ws).mirror 6 p 0xFF (2 ^ 32 + i)

/-- A write of an allocation entry that R110 or R111 refuses; `ws` are words 0 to 4 as the write would leave them. A write that
leaves EN at 1 is held to R111 whichever of the words it carries (DESIGN CHOICE, log entry 164). -/
def State.allocRefused (s : State) (p : Fin 32) (i : Nat) (ws : List Word) : Bool :=
  let k := allocIx p i
  let w0 := ws.headD 0#32
  let en := w0.getLsbD 31
  let id := fldOf w0 (Win.ALLOC_ID k)
  let sd := fldOf w0 (Win.ALLOC_SIDE k)
  let onu := fldOf w0 (Win.ALLOC_ONU k)
  let oldEn := s.bit (Win.ALLOC_EN k)
  (decide (id < 256) && (decide (id ≠ s.rd (Win.ALLOC_ID k)) || en))
  || decide (fldOf w0 (Win.ALLOC_TYPE k) = 3)
  || (en && (List.range 1024).any (fun j => decide (j ≠ i) && s.bit (Win.ALLOC_EN (allocIx p j))
        && s.rd (Win.ALLOC_SIDE (allocIx p j)) == sd && s.rd (Win.ALLOC_ID (allocIx p j)) == id))
  || (oldEn && (decide (sd ≠ s.rd (Win.ALLOC_SIDE k)) || decide (onu ≠ s.rd (Win.ALLOC_ONU k)) || decide (id ≠ s.rd (Win.ALLOC_ID k))))
  || (en && (let t := s.allocStore p i ws
      !(t.budgetOk p sd (t.pagesReckoned p)) || !(t.costOk t.pagesReckoned)))

/-- ALLOC_WRITE (R110, R111): words 0 to 4 of an entry written through the WHF window in one update, or dropped and
counted as a denied access. -/
def execAllocWrite (ag : Agent) (p : Fin 32) (i : Fin 1024) (w0 w1 w2 w3 w4 : Word) (s : State) : Host.Outcome State Fault Refusal :=
  ok (s.winGate ag wWhf (allocIx p i.val) (fun s =>
    if s.allocRefused p i.val [w0, w1, w2, w3, w4] then s.deny ag .refused (allocIx p i.val) wWhf
    else s.allocWrite p i.val [w0, w1, w2, w3, w4]))

/-- A swap of a tree is pending. -/
def State.swapPending (s : State) (p : Fin 32) : Bool := s.swapOf p != .none

/-- A write of a connection memory entry that R131 refuses: the active page, or a page of a tree with a swap
pending. -/
def State.fsiRefused (s : State) (idx : Nat) : Bool :=
  let p : Fin 32 := Fin.ofNat 32 (idx / 8192)
  idx / 4096 % 2 == s.activePage p || s.swapPending p

/-- A connection memory entry stored, mirrored to the partner (Table 10-3). -/
def State.fsiStore (s : State) (idx : Nat) (v : Word) : State :=
  (s.putWord (winKey wFsi idx 0) (v &&& 0xFFF8FFFF#32)).mirror 6 (Fin.ofNat 32 (idx / 8192)) 0xFF (2 ^ 33 + idx % 8192)

/-- FSI_PAGE_WRITE (R131). -/
def execFsiPageWrite (ag : Agent) (idx : BitVec 18) (v : Word) (s : State) : Host.Outcome State Fault Refusal :=
  ok (s.winGate ag wFsi idx.toNat (fun s =>
    if s.fsiRefused idx.toNat then s.deny ag .refused idx.toNat wFsi
    else s.fsiStore idx.toNat v))

/-- Bit of a tree in a 32-bit register set to a value. -/
def setTree (w : Word) (p : Fin 32) (b : Bool) : Word := if b then w ||| (1#32 <<< p.val) else w &&& ~~~ (1#32 <<< p.val)

/-- Request of a swap of a tree (Table 4-6 step 1); a request while one is pending changes nothing. -/
def State.requestSwap (s : State) (p : Fin 32) : State :=
  if s.swapPending p then s
  else
    (((s.setSwap p .validating).putWord Reg.FSI_SWAP_REQ.addr (setTree (s.word Reg.FSI_SWAP_REQ.addr) p true)).wr
      (Reg.FSI_SWAP_STATUS.RESULT p.val) 1).mirror 6 p 0xFF (2 ^ 34)

/-- SWAP_REQUEST (R132): each bit written 1 requests a swap of its tree. -/
def execSwapRequest (ag : Agent) (v : Word) (s : State) : Host.Outcome State Fault Refusal :=
  ok (s.gate ag Reg.FSI_SWAP_REQ.addr (fun s =>
    ports.foldl (fun s p => if v.getLsbD p.val then s.requestSwap p else s) s))

/-- First refusal reason of Table 4-5 that applies to a page of a tree, 0 when none does. -/
def State.swapReason (s : State) (p : Fin 32) (page : Nat) : Nat :=
  let each := [0, 1].flatMap (fun sd => (List.range 8).map (fun n => (sd, n)))
  let ups := each.flatMap (fun x => (s.upRuns p page x.1 x.2).map (fun r => (x.1, r.key)))
  let ctxs := each.flatMap (fun x => (s.dnRuns p page x.1 x.2).map (·.key))
  if each.any (fun x => (List.range 8).any (fun i => s.bit (Win.FSI_DN_V (fsiIndex p.val page x.1 x.2 i)))) then 1
  else if ups.any (fun x => s.bit (Win.ALLOC_EN (allocIx p x.2)) &&
      (s.rd (Win.ALLOC_TYPE (allocIx p x.2)) != 1 || s.rd (Win.ALLOC_SIDE (allocIx p x.2)) != x.1)) then 2
  else if each.any (fun x => decide (128 < (s.upRuns p page x.1 x.2).length)) then 3
  else if !(s.budgetOk p 0 [page]) || !(s.budgetOk p 1 [page]) then 4
  else if !(s.costOk (fun q => if q = p then [page] else s.pagesReckoned q)) then 5
  else if ports.any (fun q => decide (q ≠ p) && (s.activePage q :: (if s.swapPending q then [1 - s.activePage q] else [])).any (fun g =>
      each.any (fun x => (s.dnRuns q g x.1 x.2).any (fun r => ctxs.contains r.key)))) then 6
  else 0

/-- SWAP_VALIDATION_DONE (R132): the standby page is accepted, or refused with its reason and FSI_SWAP_REFUSED. -/
def execSwapValidationDone (p : Fin 32) (s : State) : Host.Outcome State Fault Refusal :=
  match s.swapOf p with
  | .validating =>
    let r := s.swapReason p (1 - s.activePage p)
    if r = 0 then ok (s.setSwap p .accepted)
    else
      let s1 := (s.setSwap p .none).putWord Reg.FSI_SWAP_REQ.addr (setTree (s.word Reg.FSI_SWAP_REQ.addr) p false)
      let s2 := (s1.wr (Reg.FSI_SWAP_STATUS.RESULT p.val) 3).wr (Reg.FSI_SWAP_STATUS.REASON p.val) r
      ok (s2.raise .FSI_SWAP_REFUSED ⟨.FSI, 0⟩ (portAddr p 0 r))
  | _ => ok s

/-- Frame-periodicity of a page: all 8 frames alike on both sides (Table 4-17). -/
def State.periodic (s : State) (p : Fin 32) (page : Nat) : Bool :=
  [0, 1].all (fun sd => (List.range 8).all (fun n => (List.range 256).all (fun i =>
    s.word (winKey wFsi (fsiIndex p.val page sd n i) 0) == s.word (winKey wFsi (fsiIndex p.val page sd 0 i) 0))))

/-- SWAP_TAKE_EFFECT (R133): at the tick of frame N the page in force flips, RESULT becomes 2 and the SFC is
recorded. -/
def State.swapAtTick (s : State) (p : Fin 32) : State :=
  match s.swapOf p with
  | .building f =>
    if s.sfc p = f then
      let page := 1 - s.activePage p
      let s1 := (s.setSwap p .none).putWord Reg.FSI_SWAP_REQ.addr (setTree (s.word Reg.FSI_SWAP_REQ.addr) p false)
      let s2 := s1.putWord Reg.FSI_ACTIVE.addr (setTree (s1.word Reg.FSI_ACTIVE.addr) p (page == 1))
      let s3 := s2.putWord Reg.FSI_PERIODIC.addr (setTree (s2.word Reg.FSI_PERIODIC.addr) p (s2.periodic p page))
      (s3.wr (Reg.FSI_SWAP_STATUS.RESULT p.val) 2).wr (Reg.FSI_SWAP_STATUS.SFC p.val) f
    else s
  | _ => s

/-- A build whose maps of a tree are replaced, which the Assayer is to check anew and to release (R134). -/
def Build.redo (b : Build) (p : Fin 32) (maps : Tab BwMap) : Build :=
  let other := fun (k : Nat) => decide (k / 2 ≠ p.val)
  { b with maps := maps, done := b.done.filter other, released := b.released.filter other, carried := b.carried.filter other }

/-- A map of a build for frame `n` replaced on the old page (R134): its grants are returned, the CTI records it took are back,
and both sides are built from the same snapshot, with no second refill. -/
def State.rebuildTree (s : State) (p : Fin 32) (f : Nat) (b : Build) : State × Build :=
  let n := (b.map (p.val * 2 + 1)).sfc
  let back := [1, 0].foldl (fun (s : State) sd =>
    let x := s.side p sd
    let k := p.val * 2 + sd
    (if b.carried.contains k then s else s.carry p sd (b.map k)).setSide p sd { x with buf := x.buf.filter (fun m => m.sfc ≠ n) }) s
  let s1 := back.ctiBefore p f n b.cti [b.map (p.val * 2 + 1), b.map (p.val * 2)]
  let b1 := { b.redo p b.maps with pages := Tab.set (fun _ => 0) b.pages p.val (s1.activePage p) }
  [1, 0].foldl (fun (acc : State × Build) sd => acc.1.buildOne acc.2 p sd n true) (s1, b1)

/-- SWAP_DEFER (R28, R134): the swap goes back to wait for the next superframe; every map of the tree for a later frame
whose build started on the new page is replaced by one built on the old page from the same snapshot. -/
def State.deferSwap (s : State) (p : Fin 32) : State :=
  match s.swapOf p with
  | .building f =>
    let s0 := s.setSwap p .accepted
    let hit := fun (b : Build) => (b.has (p.val * 2) || b.has (p.val * 2 + 1)) && decide (f < (b.map (p.val * 2 + 1)).sfc)
    s0.whf.builds.foldl (fun s b =>
      if hit b then
        let r := s.rebuildTree p f b
        { r.1 with whf := { r.1.whf with builds := r.1.whf.builds.map (fun c => if c = b then r.2 else c) } }
      else s) s0
  | _ => s

/-- BDEACT_UNLOCK (R136): a write of WHF_ASY_CFG; a 1 in BDEACT_UNLOCK sets it. -/
def execBdeactUnlock (ag : Agent) (v : Word) (s : State) : Host.Outcome State Fault Refusal :=
  ok (s.gate ag Reg.WHF_ASY_CFG.addr (fun s => s.storeWord ag Reg.WHF_ASY_CFG.addr v))

/-- WHF_ALG_WRITE (R529): a write of WHF_CTRL stores EN and, under an open lock, ALG, and a 1 clears FALLBACK. The
next build latches the algorithm. -/
def execWhfAlgWrite (ag : Agent) (v : Word) (s : State) : Host.Outcome State Fault Refusal :=
  ok (s.gate ag Reg.WHF_CTRL.addr (fun s => s.storeWord ag Reg.WHF_CTRL.addr v))

end Sys2Proof.Machine
end

