-- ==== Sys2Proof/Machine/Cooper.lean ====
section
/-! DEFINITION. Buffers, token buckets, queues and the scheduler (08_buffers_queues_shaping.md R255 to R296) as
operations of the state. -/

namespace Sys2Proof.Machine

set_option autoImplicit false

/-- Source of Cooperage. -/
abbrev srcCpg : Source := ⟨.CPG, 0⟩

/-- Source of the scheduler. -/
abbrev srcSch : Source := ⟨.SCH, 0⟩

/-- Buffer size of a pool (Table 8-1). -/
def poolSize : Nat → Nat
  | 0 => 256 | 1 => 1024 | 2 => 4096 | _ => 16384

/-- Slot of a pool: its buffer size and 64 bytes of headroom (R255). -/
def poolSlot (n : Nat) : Nat := poolSize n + 64

/-- Buffers of a pool (R256). -/
def State.poolCount (s : State) (n : Nat) : Nat := s.rd (Reg.CPG_POOL_CFG.COUNT n) * 64

/-- Pool and index of a handle (R260). -/
def handlePool (h : Nat) : Nat := h / 2 ^ 22 % 4

/-- A buffer by handle. -/
def State.buf (s : State) (h : Nat) : Buf := Tab.get (fun _ => Buf.free) s.cpg.bufs h

/-- Update of a buffer. -/
def State.setBuf (s : State) (h : Nat) (b : Buf) : State :=
  { s with cpg := { s.cpg with bufs := Tab.set (fun _ => Buf.free) s.cpg.bufs h b } }

/-- A handle names a buffer of its pool (R260). -/
def State.handleOk (s : State) (h : Nat) : Bool := decide (h < 2 ^ 24) && decide (h % 2 ^ 22 < s.poolCount (handlePool h))

/-- Indexes of the held buffers of a pool, rising. -/
def State.heldOf (s : State) (n : Nat) : List Nat :=
  (s.cpg.bufs.filter (fun x => x.2.held && handlePool x.1 == n)).map (fun x => x.1 % 2 ^ 22)

/-- Free buffers of a pool (Table 8-6). -/
def State.freeOf (s : State) (n : Nat) : Nat := s.poolCount n - (s.heldOf n).length

/-- GUARD of a class (Table 8-7). -/
def State.guardClass (s : State) (c : Nat) : Nat := (s.word Reg.CPG_GUARD.addr).toNat / 2 ^ (4 * (c % 8)) % 16

/-- A pool is available to a class (R257). -/
def State.poolFor (s : State) (n c : Nat) : Bool := decide (s.poolCount n * s.guardClass c / 64 < s.freeOf n)

/-- The `k`-th index not in a rising list. -/
def nthFree : List Nat → Nat → Nat
  | [], k => k
  | h :: t, k => if h ≤ k then nthFree t (k + 1) else k

/-- BUFFER_ALLOCATE (R257, R261): from the smallest pool that holds `len` upward, counting FALLBACK on a pool that
passes the packet on; the buffer becomes HELD with REF 1 and the next GEN. Which free buffer is taken is a free
value. -/
def State.allocate (s : State) (c len : Nat) (bytes : List Byte) (ok : State → Nat → Bool) : Nat → Nat → State × Option Nat
  | 0, _ => (s, none)
  | fuel + 1, n =>
    if 4 ≤ n then (s, none)
    else if poolSize n < len then s.allocate c len bytes ok fuel (n + 1)
    else if s.poolFor n c && ok s n && s.bit Reg.CPG_CTRL.EN then
      let h := n * 2 ^ 22 + nthFree (s.heldOf n) (Config.pickBuffer s.free % s.freeOf n)
      let b : Buf := ⟨true, 1, ((s.buf h).gen + 1) % 16, bytes⟩
      (({ s with free := s.free + 1 }.setBuf h b).inc (Cnt.CPG_ALLOCS n), some h)
    else if n = 3 then (s, none)
    else (s.inc (Cnt.CPG_FALLBACK n)).allocate c len bytes ok fuel (n + 1)

/-- Allocation for a packet of a class. -/
def State.newBuf (s : State) (c len : Nat) (bytes : List Byte) : State × Option Nat :=
  s.allocate c len bytes (fun _ _ => true) 4 0

/-- The smallest pool whose buffers hold `len` bytes. -/
def poolOfLen (len : Nat) : Nat := if len ≤ 256 then 0 else if len ≤ 1024 then 1 else if len ≤ 4096 then 2 else 3

/-- NOBUF_DROP (R258). -/
def State.noBuf (s : State) (c len : Nat) : State :=
  let s1 := s.inc (Cnt.CPG_NOBUF_DROP c)
  if c = 7 then s1.raiseLimited .POOL_EMPTY srcCpg (poolOfLen len) 0 1000000 else s1

/-- One reference released (R262): exactly the decrement that reaches 0 frees the buffer. An invalid handle raises
BAD_HANDLE (R260); a FREE buffer is a double free (R263). -/
def State.unref (s : State) (h : Nat) : State :=
  let b := s.buf h
  if !s.handleOk h then s.raise .BAD_HANDLE srcCpg (h % 2 ^ 24)
  else if !b.held then (s.inc (Cnt.CPG_DOUBLE_FREE (handlePool h))).raise .DOUBLE_FREE srcCpg (h % 2 ^ 24)
  else if b.ref ≤ 1 then s.setBuf h { b with held := false, ref := 0, bytes := [] }
  else s.setBuf h { b with ref := b.ref - 1 }

/-- A queue: downstream q at q, uplink-side q at 65,536 + q. -/
def State.queue (s : State) (q : Nat) : Queue := Tab.get (fun _ => Queue.empty) s.cpg.queues q

/-- Update of a queue. -/
def State.setQueue (s : State) (q : Nat) (x : Queue) : State :=
  { s with cpg := { s.cpg with queues := Tab.set (fun _ => Queue.empty) s.cpg.queues q x } }

/-- A top node. -/
def State.top (s : State) (m : Nat) : Top := Tab.get (fun _ => Top.empty) s.cpg.tops m

/-- Update of a top node. -/
def State.setTop (s : State) (m : Nat) (x : Top) : State :=
  { s with cpg := { s.cpg with tops := Tab.set (fun _ => Top.empty) s.cpg.tops m x } }

/-- Node states of Table 8-3: 0 RUN, 1 PAUSED, 2 DOWN. -/
inductive NodeState where
  | run | paused | down
deriving DecidableEq, Repr

/-- State of an ONU node (R273, R349, R510): DOWN on a tree this device does not own; a GROUP node runs while its side
is enabled; a node that would run is held PAUSED in stage S2. -/
def State.nodeState (s : State) (n : Nat) : NodeState :=
  let p : Fin 32 := Fin.ofNat 32 (n / 256)
  let hold := fun (x : NodeState) => if x = .run ∧ s.stage ≤ 2 then NodeState.paused else x
  if !s.owned p.val then .down
  else if s.bit (Win.ONU_KIND n) then (if s.sideEn p (s.rd (Win.ONU_GROUP_SIDE n)) then hold .run else .down)
  else
    match (s.slot p (n % 256)).state with
    | .active => hold .run
    | .assigned | .ranged | .lost => .paused
    | .free | .disabled => .down

/-- Side an ONU node is on. -/
def State.nodeSide (s : State) (n : Nat) : Nat :=
  if s.bit (Win.ONU_KIND n) then s.rd (Win.ONU_GROUP_SIDE n) else (s.slot (Fin.ofNat 32 (n / 256)) (n % 256)).side

/-- Egress node of an uplink-side queue: fixed for the transit queues (R432). -/
def State.qNode (s : State) (q : Nat) : Nat := if 73600 ≤ q then 24 + (q - 73600) / 8 else s.rd (Win.Q_NODE q)

/-- Top node of a queue (Table 8-14). -/
def State.topOf (s : State) (q : Nat) : Nat :=
  if q < 65536 then q / 2048 * 2 + s.nodeSide (q / 8) else 64 + s.qNode q

/-- Class of a queue (R270, R432). -/
def State.queueClass (s : State) (q : Nat) : Nat := if q < 65536 ∨ 73600 ≤ q then q % 8 else s.rd (Win.Q_CLASS q)

/-- On-chip cost of a packet: the buffer size of its pool. -/
def QPkt.cost (x : QPkt) : Nat := poolSize (handlePool x.d.handle)

/-- On-chip occupancy of a queue in bytes. -/
def Queue.occ (x : Queue) : Nat := (x.onchip.map QPkt.cost).sum

/-- Frame bytes of a queue, on-chip and Cellar together. -/
def Queue.bytes (x : Queue) : Nat :=
  (x.onchip.map (·.d.length)).sum + (x.writes.map (·.d.length)).sum + (x.cellar.map (fun c => c.1.d.length)).sum

/-- Packets of a queue. -/
def Queue.count (x : Queue) : Nat := x.onchip.length + x.writes.length + x.cellar.length

/-- Buffers of a pool a top node holds. -/
def Top.held (x : Top) : Nat → Nat
  | 0 => x.h0 | 1 => x.h1 | 2 => x.h2 | _ => x.h3

/-- Buffers a top node holds, changed for one pool. -/
def Top.setHeld (x : Top) (n v : Nat) : Top :=
  match n with
  | 0 => { x with h0 := v } | 1 => { x with h1 := v } | 2 => { x with h2 := v } | _ => { x with h3 := v }

/-- Most buffers of a pool a top node may hold (R275). -/
def State.quotaOf (s : State) (m n : Nat) : Nat := s.poolCount n * s.rd (Win.TOP_QUOTA m) / 1024

/-- Pages of the Cellar (Table 8-10). -/
def State.cellarPages (s : State) : Nat := min 256 (s.rd Reg.CPG_CELLAR_REGION.SIZE) * 16384

/-- Pages in use. -/
def State.pagesUsed (s : State) : Nat := (s.cpg.tops.map (fun x => x.2.pages)).sum

/-- Total write backlog. -/
def State.backlog (s : State) : Nat := (s.cpg.tops.map (fun x => x.2.backlog)).sum

/-- BUSY_MARK in bytes (Table 8-10). -/
def State.busyMark (s : State) : Nat := min 2048 (s.rd Reg.CPG_CELLAR_CFG.BUSY_MARK) * 1024

/-- A token bucket. -/
def State.bkt (s : State) (b : Nat) : Bkt := Tab.get (fun _ => Bkt.reset) s.cpg.buckets b

/-- Update of a bucket. -/
def State.setBkt (s : State) (b : Nat) (x : Bkt) : State :=
  { s with cpg := { s.cpg with buckets := Tab.set (fun _ => Bkt.reset) s.cpg.buckets b x } }

/-- One byte in level units (R289). -/
abbrev byteUnit : Int := 32768

/-- Saturation of a level at −2^31 bytes (R289). -/
def satLevel (x : Int) : Int := max x (-(2 ^ 31 * byteUnit))

/-- A refill at microsecond `t` (R290): credit at the rates in force, the pending configuration, then DEBT_CLEAR. A
bucket that leaves MODE 0 takes full levels (R293). -/
def Bkt.refill (x : Bkt) (t : Nat) : Bkt :=
  let dt : Int := (t : Int) - x.last
  let c1 := min (x.c + x.cfg.cir * dt) (x.cfg.cbs * byteUnit)
  let p1 := min (x.p + x.cfg.pir * dt) (x.cfg.pbs * byteUnit)
  let y : Bkt := match x.pend with
    | none => { x with c := c1, p := p1, last := t }
    | some n =>
      if x.cfg.mode = 0 ∧ n.mode ≠ 0 then { x with c := n.cbs * byteUnit, p := n.pbs * byteUnit, last := t, cfg := n, pend := none }
      else { x with c := min c1 (n.cbs * byteUnit), p := min p1 (n.pbs * byteUnit), last := t, cfg := n, pend := none }
  if y.debt then { y with c := max y.c 0, p := max y.p 0, debt := false } else y

/-- Time in whole microseconds of the free-running count. -/
def State.us (s : State) : Nat := s.now / 1000

/-- BUCKET_REFILL by the background sweep (R290): every bucket refills. Of a bucket the table does not list, which has no
rate and no level, only LAST changes, kept as the time of the sweep. -/
def State.sweepBkts (s : State) : State :=
  { s with cpg := { s.cpg with buckets := s.cpg.buckets.map (fun x => (x.1, if x.2.last < s.us then x.2.refill s.us else x.2)), sweep := s.us } }

/-- LAST of a bucket (Table 8-15). -/
def State.bktLast (s : State) (b : Nat) : Nat := max (s.bkt b).last s.cpg.sweep

/-- An access to a bucket: it refills when at least 1 µs has passed (R290). -/
def State.access (s : State) (b : Nat) : State :=
  if s.bktLast b < s.us then s.setBkt b ({ s.bkt b with last := s.bktLast b }.refill s.us) else s

/-- Configuration of bucket `b` as its words 0 to 4 stand (Table 8-15). -/
def State.bkWritten (s : State) (b : Nat) : BkCfg :=
  let o := s.rd (Win.BK_OVERHEAD b)
  { mode := if s.rd (Win.BK_MODE b) = 3 then 0 else s.rd (Win.BK_MODE b)
    yellow := min 2 (s.rd (Win.BK_YELLOW_ACT b)), red := s.rd (Win.BK_RED_ACT b)
    ovh := if o < 128 then (o : Int) else (o : Int) - 256
    cir := s.rd (Win.BK_CIR b), pir := s.rd (Win.BK_PIR b), cbs := s.rd (Win.BK_CBS b), pbs := s.rd (Win.BK_PBS b) }

/-- A bucket named in a use it is not configured for (R293). -/
def State.misuse (s : State) (b : Nat) : State :=
  (s.inc Cnt.SCH_BUCKET_MISUSE).raiseLimited .BUCKET_MISUSE srcSch b 0 1000000

/-- A shaper named by a node or queue, after its access: none when no bucket is named or it is ignored as misused. -/
def State.shaper (s : State) (b : Nat) : State × Option Bkt :=
  if 98304 ≤ b then (s, none)
  else
    let s1 := s.access b
    if (s1.bkt b).cfg.mode = 1 then (s1, some (s1.bkt b)) else (s1.misuse b, none)

/-- Debit of a shaper by a packet's length (R287, R291). -/
def State.debitBkt (s : State) (b len : Nat) : State :=
  if 98304 ≤ b then s
  else
    let x := s.bkt b
    if x.cfg.mode ≠ 1 then s
    else
      let l := ((len : Int) + x.cfg.ovh) * byteUnit
      s.setBkt b { x with c := satLevel (x.c - l), p := satLevel (x.p - l) }

/-- Colours of R292. -/
inductive Color where
  | green | yellow | red
deriving DecidableEq, Repr

/-- POLICE (R292): the colour of a packet and the levels after it, in color-blind mode. -/
def State.police (s : State) (b len : Nat) : State × Color :=
  if 98304 ≤ b then (s, .green)
  else
    let s1 := s.access b
    let x := s1.bkt b
    if x.cfg.mode ≠ 2 then (s1.misuse b, .green)
    else
      let l := ((len : Int) + x.cfg.ovh) * byteUnit
      if x.p < l then (s1.inc Cnt.SCH_POLICE_RED, .red)
      else if x.c < l then ((s1.setBkt b { x with p := x.p - l }).inc Cnt.SCH_POLICE_YELLOW, .yellow)
      else (s1.setBkt b { x with p := x.p - l, c := x.c - l }, .green)

/-- Check 2 of Table 8-2: none when the policer drops the packet, else whether it goes on marked yellow. -/
def State.policed (s : State) (b len : Nat) : State × Option Bool :=
  let r := s.police b len
  let cfg := (r.1.bkt b).cfg
  match r.2 with
  | .green => (r.1, some false)
  | .yellow => if cfg.yellow = 2 then (r.1, none) else (r.1, some (cfg.yellow == 1))
  | .red => if cfg.red = 0 then (r.1, none) else (r.1, some true)

/-- DROPS of a queue counted (Table 8-13, R64). -/
def State.queueDrop (s : State) (q : Nat) : State :=
  let x := s.queue q
  s.setQueue q { x with drops := (x.drops + 1) % 2 ^ 48, wrapped := x.wrapped || x.drops == 2 ^ 48 - 1 }

/-- Pages a record of `len` frame bytes adds to a queue's list (R278). -/
def Queue.pagesFor (x : Queue) (len : Nat) : Nat := ceilDiv (x.used + 32 + len) 4096 - x.pages

/-- Address of a fault that names a queue: direction in bit 16, queue below. -/
def queueAddr (q : Nat) : Nat := q % 2 ^ 17

/-- Place of an accepted packet (check 6, R277 to R282): on-chip, or into the write backlog of the Cellar, or dropped
under the counter of the reason. -/
def State.place (s : State) (q : Nat) (x : QPkt) : State :=
  let qu := s.queue q
  let m := s.topOf q
  let tp := s.top m
  let pool := handlePool x.d.handle
  let lost := fun (s : State) (cnt : Nat) => ((s.inc cnt).queueDrop q).unref x.d.handle
  let spill := qu.spill || decide (s.rd (Win.Q_ONCHIP_MAX q) * 256 < qu.occ + x.cost) || decide (s.quotaOf m pool < tp.held pool + 1)
  if !spill then
    (s.setQueue q { qu with onchip := qu.onchip ++ [x] }).setTop m (tp.setHeld pool (tp.held pool + 1))
  else if !s.bit Reg.CPG_CTRL.CELLAR_EN || !s.bit (Win.Q_CELLAR_EN q) then lost s Cnt.CPG_SPILL_OFF_DROP
  else
    let low := decide (x.d.cls < s.rd Reg.CPG_CELLAR_CFG.BUSY_CLASS)
    let quota := s.rd (Win.TOP_QUOTA m)
    let starts := low && !tp.dropping && decide (s.busyMark < s.backlog) && decide (s.busyMark * quota / 1024 < tp.backlog)
    if starts then
      lost ((s.setTop m { tp with dropping := true }).raise .CELLAR_BUSY srcCpg (m * 2 ^ 16 + min (s.backlog / 1024) 65535)) Cnt.CPG_CELLAR_BUSY_DROP
    else if low && tp.dropping then lost s Cnt.CPG_CELLAR_BUSY_DROP
    else if 2097152 * quota / 1024 < tp.backlog + x.d.length then lost s Cnt.CPG_CELLAR_BUSY_DROP
    else
      let need := qu.pagesFor x.d.length
      let share := s.cellarPages * quota / 1024
      if s.cellarPages ≤ s.pagesUsed ∨ share ≤ tp.pages ∨ s.cellarPages < s.pagesUsed + need ∨ share < tp.pages + need then
        (lost s Cnt.CPG_CELLAR_FULL_DROP).raiseLimited .CELLAR_FULL srcCpg (queueAddr q) 0 1000000000
      else
        (s.setQueue q { qu with writes := qu.writes ++ [x], spill := true, used := qu.used + 32 + x.d.length, pages := qu.pages + need }).setTop m
          { tp with pages := tp.pages + need, backlog := tp.backlog + x.d.length }

/-- Checks 3 to 6 of Table 8-2 for a copy whose policing is done; the reference is released where a check refuses
(R271, R272). -/
def State.enqueueRest (s : State) (d : Desc) (yellow : Bool) : State :=
  let q := if d.dir then 65536 + d.queue else d.queue
  let lost := fun (s : State) (cnt : Nat) => ((s.inc cnt).queueDrop q).unref d.handle
  if d.dir ∧ 8192 ≤ d.queue then (s.inc Cnt.SCH_NODE_DOWN).unref d.handle
  else if !s.bit (Win.Q_EN q) || (!d.dir && s.nodeState (q / 8) == .down) || (d.dir && decide (40 ≤ s.qNode q))
      || (!d.dir && !d.ctxV && !s.bit (Win.Q_DN_CTX_V q)) then lost s Cnt.SCH_NODE_DOWN
  else
    let d1 : Desc := if !d.dir && !d.ctxV then { d with ctxV := true, xctx := s.rd (Win.Q_DN_CTX q) } else d
    let mx := s.rd (Win.Q_MAX q) * 1024
    let b := (s.queue q).bytes + d.length
    if mx < b then lost s Cnt.SCH_TAIL_DROP
    else if yellow ∧ mx * s.rd (Win.Q_YELLOW_MAX q) / 256 < b then lost s Cnt.SCH_YELLOW_DROP
    else s.place q ⟨d1, s.now, yellow⟩

/-- ENQUEUE (R271): the six checks in order. -/
def State.enqueue (s : State) (d : Desc) : State :=
  let q := if d.dir then 65536 + d.queue else d.queue
  if 16383 < d.length then ((s.inc Cnt.SCH_ENQ_OVERSIZE).queueDrop q).unref d.handle
  else
    let r := s.policed d.bucket d.length
    match r.2 with
    | none => ((r.1.inc Cnt.SCH_POLICE_DROP).queueDrop q).unref d.handle
    | some y => r.1.enqueueRest d y

/-- Pages of a queue given back to its top node. -/
def State.dropPages (s : State) (q n : Nat) : State :=
  let m := s.topOf q
  let tp := s.top m
  s.setTop m { tp with pages := tp.pages - n }

/-- An empty Cellar part with no write pending leaves spill mode and frees its pages (R277). -/
def State.settle (s : State) (q : Nat) : State :=
  let x := s.queue q
  if x.cellar = [] ∧ x.writes = [] then
    (s.dropPages q x.pages).setQueue q { x with pages := 0, used := 0, off := 0, spill := false }
  else s

/-- A top node's drops of the first kind stop (R281). -/
def State.busyEnd (s : State) (m : Nat) : State :=
  let tp := s.top m
  if tp.dropping && (decide (s.backlog < s.busyMark / 2) || decide (tp.backlog < s.busyMark * s.rd (Win.TOP_QUOTA m) / 1024 / 2)) then
    s.setTop m { tp with dropping := false }
  else s

/-- Drops of the first kind stop at every top node that meets R281's condition, after a backlog fell. -/
def State.busyEnds (s : State) : State := (s.cpg.tops.map (·.1)).foldl (fun s m => s.busyEnd m) s

/-- Packets dropped out of a queue: references released, top node's holdings lowered. -/
def State.flushQueue (s : State) (q : Nat) : State :=
  let x := s.queue q
  let m := s.topOf q
  if x.count = 0 then s
  else
    let s1 := x.onchip.foldl (fun s k =>
      let tp := s.top m
      let pool := handlePool k.d.handle
      (s.setTop m (tp.setHeld pool (tp.held pool - 1))).unref k.d.handle) s
    let s2 := x.writes.foldl (fun s k =>
      let tp := s.top m
      (s.setTop m { tp with backlog := tp.backlog - k.d.length }).unref k.d.handle) s1
    ((s2.dropPages q x.pages).setQueue q { x with onchip := [], writes := [], cellar := [], pages := 0, used := 0, off := 0, spill := false, deficit := 0 }).busyEnds

/-- NODE_FLUSH (R274): the eight queues of a node that enters DOWN. -/
def State.flushNode (s : State) (n : Nat) : State :=
  (List.range 8).foldl (fun s c =>
    let q := n * 8 + c
    (s.count Cnt.SCH_FLUSHED (s.queue q).count).flushQueue q) s

/-- The GROUP nodes of a side that is disabled enter DOWN and are flushed (R273, R274). -/
def State.flushGroups (s : State) (p : Fin 32) (sd : Nat) : State :=
  ((List.range 256).map (fun i => p.val * 256 + i)).foldl (fun s n =>
    if s.bit (Win.ONU_KIND n) ∧ s.rd (Win.ONU_GROUP_SIDE n) = sd then s.flushNode n else s) s

/-- Every buffer, page and byte of backlog of a queue moved from the top node `m` it was under to the one it is under now: what
a node holds is what its queues hold (R275; DEDUCED, log entry 167). -/
def State.rehome (s : State) (q m : Nat) : State :=
  let n := s.topOf q
  if n = m then s
  else
    let x := s.queue q
    let b := (x.writes.map (·.d.length)).sum
    let s1 := x.onchip.foldl (fun s k =>
      let pool := handlePool k.d.handle
      let s1 := s.setTop m ((s.top m).setHeld pool ((s.top m).held pool - 1))
      s1.setTop n ((s1.top n).setHeld pool ((s1.top n).held pool + 1))) s
    let s2 := s1.setTop m { s1.top m with pages := (s1.top m).pages - x.pages, backlog := (s1.top m).backlog - b }
    (s2.setTop n { s2.top n with pages := (s2.top n).pages + x.pages, backlog := (s2.top n).backlog + b }).busyEnds

/-- An access of the Cellar and of the memory behind it, as privileged events (R483, R484): bytes and ACCESS bits; where the
bytes lie is a free value. -/
def State.cellarAccess (s : State) (q len access : Nat) : State :=
  let f := s.takeFree
  let a : PrivAcc := ⟨63, 5, 0, access, Config.freeValue f.1⟩
  let q1 := q % 2 ^ 17
  let ch := Config.freeValue f.1 / 2 ^ 40 % 16
  (((f.2.priv 0x2A0 q1 1 a).priv 0x2A1 q1 len a).priv 0x540 ch 1 a).priv 0x541 ch len a

/-- CELLAR_WRITE_DONE (R278): the oldest packet waiting for its Cellar write is written and its reference released. -/
def State.writeDone (s : State) (q : Nat) : State :=
  let x := s.queue q
  match x.writes with
  | [] => s
  | k :: t =>
    let m := s.topOf q
    let tp := s.top m
    let s1 := s.setQueue q { x with writes := t, cellar := x.cellar ++ [(k, (s.buf k.d.handle).bytes)] }
    ((((s1.setTop m { tp with backlog := tp.backlog - k.d.length }).unref k.d.handle).inc Cnt.CPG_SPILL_PKTS).cellarAccess q k.d.length 2).busyEnds

/-- The first Cellar record of a queue taken off its pages. -/
def Queue.takeRecord (x : Queue) (rest : List (QPkt × List Byte)) (len : Nat) : Queue × Nat :=
  let off := x.off + 32 + len
  let n := off / 4096
  ({ x with cellar := rest, off := off % 4096, used := x.used - n * 4096, pages := x.pages - n }, n)

/-- Every record of a queue's Cellar part taken off its pages; those that hold packets still waiting for their write stay. -/
def Queue.takeAll (x : Queue) : Queue × Nat :=
  let off := x.off + (x.cellar.map (fun c => 32 + c.1.d.length)).sum
  let n := off / 4096
  ({ x with cellar := [], off := off % 4096, used := x.used - n * 4096, pages := x.pages - n }, n)

/-- The written Cellar part of a queue discarded (R283): its packets counted, its pages reclaimed. -/
def State.loseRecords (s : State) (q : Nat) : State :=
  let x := s.queue q
  let r := x.takeAll
  (((s.count Cnt.CPG_CELLAR_ERR_DROP x.cellar.length).setQueue q r.1).dropPages q r.2).settle q

/-- One packet read back from the Cellar (R279, R283): a buffer under the class-7 guard and the node quota, or a
stall; an uncorrectable read drops the packet or the rest of the Cellar part. -/
def State.refillQueue (s : State) (q : Nat) (bad link : Bool) : State :=
  let x := s.queue q
  match x.cellar with
  | [] => s
  | (k, bytes) :: rest =>
    if s.rd (Win.Q_REFILL q) * 256 < x.occ then s
    else if link then
      (s.loseRecords q).raise .CELLAR_UNCORR srcCpg (queueAddr q)
    else
      let r := x.takeRecord rest k.d.length
      if bad then
        let s1 := ((s.setQueue q r.1).dropPages q r.2).inc Cnt.CPG_CELLAR_ERR_DROP
        (s1.settle q).raise .CELLAR_UNCORR srcCpg (queueAddr q)
      else
        let m := s.topOf q
        let a := s.allocate 7 k.d.length bytes (fun s n => decide ((s.top m).held n < s.quotaOf m n)) 4 0
        match a.2 with
        | none => a.1.inc Cnt.CPG_REFILL_STALL
        | some h =>
          let pool := handlePool h
          let s1 := (a.1.setQueue q { r.1 with onchip := r.1.onchip ++ [{ k with d := { k.d with handle := h } }] }).dropPages q r.2
          let tp := s1.top m
          ((s1.setTop m (tp.setHeld pool (tp.held pool + 1))).inc Cnt.CPG_REFILL_PKTS).settle q

/-- A queue is eligible (R284): an on-chip packet, not FIXED, and a shaper in credit where it names one. -/
def State.eligible (s : State) (q : Nat) : Bool :=
  !(s.queue q).onchip.isEmpty && !s.bit (Win.Q_FIXED q) &&
    (match (s.shaper (s.rd (Win.Q_BUCKET q))).2 with | some b => decide (0 < b.p) | none => true)

/-- Cost of a queue's head packet in its round (R285). -/
def State.headCost (s : State) (q : Nat) : Nat :=
  match (s.queue q).onchip with
  | [] => 0
  | k :: _ => ((k.d.length : Int) + (match (s.shaper (s.rd (Win.Q_BUCKET q))).2 with | some b => b.cfg.ovh | none => 0)).toNat

/-- Quantum of SCH_CFG. -/
def State.quantum (s : State) : Nat := if s.rd Reg.SCH_CFG.QUANTUM = 0 then 64 else s.rd Reg.SCH_CFG.QUANTUM

/-- A member of a deficit round. -/
structure Member where
  key : Nat
  elig : Bool
  cost : Nat
  weight : Nat
  deficit : Nat
deriving DecidableEq, Repr

/-- Deficit round robin over members (R285): the place `ptr` gains its quantum once when the round reaches it, sends
while its deficit covers its head, and a member that is not eligible is passed over without quantum. The answer is
the chosen place, the members with their deficits, and the round. -/
def drr (quantum : Nat) : Nat → List Member → Nat → Bool → Option (Nat × List Member × Nat × Bool)
  | 0, _, _, _ => none
  | fuel + 1, ms, ptr, fresh =>
    match ms[ptr]? with
    | none => if ms = [] then none else drr quantum fuel ms 0 true
    | some m =>
      if !m.elig then drr quantum fuel ms (ptr + 1) true
      else
        let d := if fresh then m.deficit + max 1 m.weight * quantum else m.deficit
        if m.cost ≤ d then some (ptr, ms.set ptr { m with deficit := d - m.cost }, ptr, false)
        else drr quantum fuel (ms.set ptr { m with deficit := d }) (ptr + 1) true

/-- Fuel of a round: more than any round over the members can take. -/
abbrev drrFuel : Nat := 16777216

/-- A round run only when some member is eligible. -/
def drrRun (quantum : Nat) (ms : List Member) (r : NodeRt) : Option (Nat × List Member × Nat × Bool) :=
  if ms.any (·.elig) then drr quantum drrFuel ms r.ptr r.fresh else none

/-- Choice of an ONU node or egress node over its queues (R285): strict priority from SP_MIN up, else the round below.
Answers the queue, the queues' deficits to store, and the round. The round's place is kept as the queue it stands at: a queue
no longer among `qs` is passed over, and the next one is reached anew. -/
def State.pickQueue (s : State) (qs : List Nat) (spMin : Nat) (r : NodeRt) : Option (Nat × List Member × NodeRt) :=
  let strict := (List.range 8).reverse.findSome? (fun c =>
    if spMin ≤ c then qs.find? (fun q => s.queueClass q == c && s.eligible q) else none)
  match strict with
  | some q => some (q, [], r)
  | none =>
    let ms := (qs.filter (fun q => decide (s.queueClass q < spMin))).map (fun q =>
      (⟨q, s.eligible q, s.headCost q, s.rd (Win.Q_WEIGHT q), (s.queue q).deficit⟩ : Member))
    let i := ms.findIdx (fun m => decide (r.ptr ≤ m.key))
    let fresh := match ms[i]? with | some m => r.fresh || decide (m.key ≠ r.ptr) | none => true
    match drrRun s.quantum ms { r with ptr := i, fresh := fresh } with
    | none => none
    | some x => (x.2.1[x.1]?).map (fun m => (m.key, x.2.1, { r with ptr := m.key, fresh := x.2.2.2 }))

/-- Store of a round's deficits. -/
def State.storeDeficits (s : State) (ms : List Member) : State :=
  ms.foldl (fun s m => if (s.queue m.key).deficit = m.deficit then s else s.setQueue m.key { s.queue m.key with deficit := m.deficit }) s

/-- The head packet taken from a queue: its descriptor, the queue's deficit back to 0 when it empties, the top node's
holding lowered. -/
def State.takeHead (s : State) (q : Nat) : State × Option QPkt :=
  let x := s.queue q
  match x.onchip with
  | [] => (s, none)
  | k :: t =>
    let m := s.topOf q
    let tp := s.top m
    let pool := handlePool k.d.handle
    ((s.setQueue q { x with onchip := t, deficit := if t = [] then 0 else x.deficit }).setTop m (tp.setHeld pool (tp.held pool - 1)), some k)

/-- ONU node round state. -/
def State.onuRt (s : State) (n : Nat) : NodeRt := Tab.get (fun _ => NodeRt.reset) s.cpg.onus n

/-- Round state of a top node's phase: committed at 2m, peak at 2m + 1. -/
def State.roundRt (s : State) (k : Nat) : NodeRt := Tab.get (fun _ => NodeRt.reset) s.cpg.rounds k

/-- Buckets a top node's choice looks at are accessed: its own, and those of the nodes and queues under it that hold
packets. -/
def State.accessAll (s : State) (m : Nat) : State :=
  let qs := (s.cpg.queues.filter (fun x => !x.2.onchip.isEmpty && s.topOf x.1 == m)).map (·.1)
  let bs := s.rd (Win.TOP_BUCKET m) :: qs.flatMap (fun q => if q < 65536 then [s.rd (Win.ONU_BUCKET (q / 8)), s.rd (Win.Q_BUCKET q)] else [s.rd (Win.Q_BUCKET q)])
  bs.foldl (fun s b => (s.shaper b).1) s

/-- Queues under a top node that hold an on-chip packet. -/
def State.queuesOf (s : State) (m : Nat) : List Nat :=
  (s.cpg.queues.filter (fun x => !x.2.onchip.isEmpty && s.topOf x.1 == m)).map (·.1)

/-- The top node may send: in use, and its own shaper in credit where it has one. -/
def State.topOpen (s : State) (m : Nat) : Bool :=
  s.bit (Win.TOP_EN m) && (match (s.shaper (s.rd (Win.TOP_BUCKET m))).2 with | some b => decide (0 < b.p) | none => true)

/-- Choice of a port node (R286): its ONU nodes in RUN with an eligible queue, the committed phase before the peak
phase. Answers node, queue, and the state with the rounds moved. -/
def State.pickPort (s : State) (m : Nat) : Option (State × Nat) :=
  let nodes := (((s.queuesOf m).filter (fun q => decide (q < 65536) && s.eligible q)).map (· / 8)).dedup.filter (fun n => s.nodeState n == .run)
  let choice := fun (n : Nat) => s.pickQueue ((List.range 8).map (fun c => n * 8 + c)) (s.rd (Win.ONU_SP_MIN n)) (s.onuRt n)
  let committed := nodes.filter (fun n => match (s.shaper (s.rd (Win.ONU_BUCKET n))).2 with | some b => decide (0 < b.c) | none => true)
  let peak := nodes.filter (fun n => ¬ committed.contains n && (match (s.shaper (s.rd (Win.ONU_BUCKET n))).2 with | some b => decide (0 < b.p) | none => false))
  let phase := fun (l : List Nat) (k : Nat) =>
    let ms := ((List.range 256).map (fun i => m / 2 * 256 + i)).map (fun n =>
      (⟨n, l.contains n && (choice n).isSome, match choice n with | some x => s.headCost x.1 | none => 0, s.rd (Win.ONU_WEIGHT n), (s.onuRt n).deficit⟩ : Member))
    match drrRun s.quantum ms (s.roundRt k) with
    | none => none
    | some x =>
      match x.2.1[x.1]? with
      | none => none
      | some mb =>
        match choice mb.key with
        | none => none
        | some c =>
          let s1 := s.storeDeficits c.2.1
          let onus := (x.2.1.zip ms).foldl (fun t (y : Member × Member) =>
            if y.1.deficit = y.2.deficit then t else Tab.mod (fun _ => NodeRt.reset) t y.1.key (fun r => { r with deficit := y.1.deficit })) s1.cpg.onus
          let onus2 := Tab.mod (fun _ => NodeRt.reset) onus mb.key (fun r => { r with ptr := c.2.2.ptr, fresh := c.2.2.fresh })
          some ({ s1 with cpg := { s1.cpg with onus := onus2, rounds := Tab.set (fun _ => NodeRt.reset) s1.cpg.rounds k ⟨x.2.2.1, x.2.2.2, 0⟩ } }, c.1)
  if committed.isEmpty then phase peak (2 * m + 1) else phase committed (2 * m)

/-- Choice of an egress node over its queues (R285). -/
def State.pickEgress (s : State) (m : Nat) : Option (State × Nat) :=
  let qs := (List.range 8192).filterMap (fun q => if s.qNode (65536 + q) = m - 64 ∧ (s.queue (65536 + q)).onchip ≠ [] then some (65536 + q) else none)
  match s.pickQueue qs (s.rd (Win.TOP_SP_MIN m)) (s.roundRt (2 * m)) with
  | none => none
  | some x =>
    let s1 := s.storeDeficits x.2.1
    some ({ s1 with cpg := { s1.cpg with rounds := Tab.set (fun _ => NodeRt.reset) s1.cpg.rounds (2 * m) x.2.2 } }, x.1)

/-- Selection at a top node (R284 to R287): the packet leaves its queue and every bucket on its path is debited. -/
def State.select (s : State) (m : Nat) : State × Option QPkt :=
  let s0 := s.accessAll m
  if !s0.topOpen m then (s0, none)
  else
    match (if m < 64 then s0.pickPort m else s0.pickEgress m) with
    | none => (s0, none)
    | some x =>
      let r := x.1.takeHead x.2
      match r.2 with
      | none => (s0, none)
      | some k =>
        let q := x.2
        let s1 := r.1.debitBkt (s.rd (Win.Q_BUCKET q)) k.d.length
        let s2 := if q < 65536 then s1.debitBkt (s.rd (Win.ONU_BUCKET (q / 8))) k.d.length else s1
        (s2.debitBkt (s.rd (Win.TOP_BUCKET m)) k.d.length, some k)

/-- Packets waiting in a stage, appended. -/
def State.toCipher (s : State) (k : Nat) (d : Desc) : State :=
  { s with cpg := { s.cpg with cipher := Tab.mod (fun _ => []) s.cpg.cipher k (fun l => l ++ [d]) } }

/-- A packet ready for a framer or lane. -/
def State.toEgress (s : State) (k : Nat) (x : Out) : State :=
  { s with cpg := { s.cpg with egress := Tab.mod (fun _ => []) s.cpg.egress k (fun l => l ++ [x]) } }

/-- Packets ready for a framer or lane. -/
def State.egressOf (s : State) (k : Nat) : List Out := Tab.get (fun _ => []) s.cpg.egress k

end Sys2Proof.Machine
end

