-- ==== Sys2Proof/Machine/Crypto.lean ====
section
/-! DEFINITION. The cipher standards the spec names (Table 0-2): AES of FIPS 197, counter mode and CMAC of SP 800-38A and
SP 800-38B, Galois counter mode of SP 800-38D, and the counter-mode key derivation of SP 800-108 (R306, R310 to R313).
Keys, blocks and codes are numbers, first byte highest. PRESUMED: the standards' own text, which the spec names and does
not repeat (log entry 143). -/

namespace Sys2Proof.Machine

set_option autoImplicit false

/-- Product with x in the field of AES, modulus x^8 + x^4 + x^3 + x + 1. -/
def aesX (a : Nat) : Nat := if 128 ≤ a then (2 * a) ^^^ 0x11B else 2 * a

/-- Product in the field of AES: eight steps from the highest bit of `b`. -/
def aesMul (a b : Nat) : Nat := (List.range 8).foldl (fun r i => aesX r ^^^ (if b.testBit (7 - i) then a else 0)) 0

/-- Power in the field of AES by repeated squaring over eight bits of the exponent. -/
def aesPow (a e : Nat) : Nat := (List.range 8).foldl (fun r i => aesMul (aesMul r r) (if e.testBit (7 - i) then a else 1)) 1

/-- Left rotation of a byte. -/
def rotByte (a n : Nat) : Nat := a * 2 ^ n % 256 + a * 2 ^ n / 256

/-- SubBytes of one byte: the inverse in the field, 0 for 0, then the affine map. -/
def aesSub (a : Nat) : Nat :=
  let i := aesPow a 254
  i ^^^ rotByte i 1 ^^^ rotByte i 2 ^^^ rotByte i 3 ^^^ rotByte i 4 ^^^ 0x63

/-- Exclusive or of two byte strings. -/
def xorL (a b : List Nat) : List Nat := a.zipWith (· ^^^ ·) b

/-- Key schedule: words of four bytes, latest first, from `i` words on; `nk` words of key, `n` words to make. -/
def aesExpand (nk : Nat) : Nat → Nat → List (List Nat) → List (List Nat)
  | 0, _, ws => ws
  | n + 1, i, ws =>
    let t := ws.headD []
    let u :=
      if i % nk = 0 then xorL ((t.drop 1 ++ t.take 1).map aesSub) [aesPow 2 (i / nk - 1), 0, 0, 0]
      else if 6 < nk ∧ i % nk = 4 then t.map aesSub
      else t
    aesExpand nk n (i + 1) (xorL (ws.getD (nk - 1) []) u :: ws)

/-- ShiftRows on sixteen bytes, column by column. -/
def aesShift (st : List Nat) : List Nat := (List.range 16).map (fun i => st.getD ((i + 4 * (i % 4)) % 16) 0)

/-- MixColumns. -/
def aesMix (st : List Nat) : List Nat :=
  (List.range 16).map (fun i =>
    let c := i / 4 * 4
    let b := fun j => st.getD (c + (i + j) % 4) 0
    aesX (b 0) ^^^ (aesX (b 1) ^^^ b 1) ^^^ b 2 ^^^ b 3)

/-- A number as `n` byte values, first highest. -/
def natBytes (n v : Nat) : List Nat := (beBytes n v).map (·.toNat)

/-- Byte values as a number. -/
def bytesNat (l : List Nat) : Nat := l.foldl (fun a b => a * 256 + b) 0

/-- AES of a block under a key of `nk` words, 4 or 8 (FIPS 197). -/
def aesBlock (nk key block : Nat) : Nat :=
  let kb := natBytes (4 * nk) key
  let w0 := ((List.range nk).map (fun i => (kb.drop (4 * i)).take 4)).reverse
  let ws := (aesExpand nk (4 * (nk + 7) - nk) nk w0).reverse
  let rk := fun r => ((ws.drop (4 * r)).take 4).flatten
  let first := xorL (natBytes 16 block) (rk 0)
  let mid := (List.range (nk + 5)).foldl (fun st r => xorL (aesMix (aesShift (st.map aesSub))) (rk (r + 1))) first
  bytesNat (xorL (aesShift (mid.map aesSub)) (rk (nk + 6)))

/-- AES-128. -/
def aes128 (key block : Nat) : Nat := aesBlock 4 key block

/-- AES-256. -/
def aes256 (key block : Nat) : Nat := aesBlock 8 key block

/-- A 128-bit number doubled in the field of CMAC. -/
def cmacDouble (x : Nat) : Nat := if 2 ^ 127 ≤ x then (2 * x) % 2 ^ 128 ^^^ 0x87 else 2 * x

/-- CMAC chain over whole blocks, under a block cipher. -/
def cmacChain (e : Nat → Nat) : Nat → Nat → List Byte → Nat
  | 0, x, _ => x
  | n + 1, x, l => cmacChain e n (e (x ^^^ beNat (l.take 16))) (l.drop 16)

/-- CMAC of a message under a block cipher, 128 bits (SP 800-38B). -/
def cmacWith (e : Nat → Nat) (msg : List Byte) : Nat :=
  let k1 := cmacDouble (e 0)
  let n := (msg.length - 1) / 16
  let last := msg.drop (16 * n)
  let m := if last.length = 16 then beNat last ^^^ k1 else beNat (sliceZ (last ++ [0x80#8]) 0 16) ^^^ cmacDouble k1
  e (cmacChain e n 0 msg ^^^ m)

/-- AES-CMAC under a 128-bit key. -/
def cmac128 (key : Nat) (msg : List Byte) : Nat := cmacWith (aes128 key) msg

/-- AES-CMAC under a 256-bit key. -/
def cmac256 (key : Nat) (msg : List Byte) : Nat := cmacWith (aes256 key) msg

/-- A key of 256 bits derived from a root (R312, Table 9-4): two output blocks, each a CMAC over its counter, the label,
a zero byte, the context and the length. -/
def kdf256 (root : Nat) (label ctx : List Byte) : Nat :=
  let block := fun (i : Nat) => cmac256 root (BitVec.ofNat 8 i :: label ++ [0#8] ++ ctx ++ [1#8, 0#8])
  block 1 * 2 ^ 128 + block 2

/-- Product in the field of GHASH, bit 127 the coefficient of 1. -/
def ghashMul (x y : Nat) : Nat :=
  ((List.range 128).foldl (fun (zv : Nat × Nat) i =>
    let z := if x.testBit (127 - i) then zv.1 ^^^ zv.2 else zv.1
    (z, if zv.2.testBit 0 then zv.2 / 2 ^^^ 0xE1000000000000000000000000000000 else zv.2 / 2)) (0, y)).1

/-- GHASH over bytes padded with zeros to whole blocks. -/
def ghash (h y : Nat) (l : List Byte) : Nat :=
  (List.range ((l.length + 15) / 16)).foldl (fun a i => ghashMul (a ^^^ beNat (sliceZ l (16 * i) 16)) h) y

/-- Counter mode over bytes: block k of the keystream is the cipher of `ctr k`, the last one cut to what remains. -/
def ctrMode (e : Nat → Nat) (ctr : Nat → Nat) (l : List Byte) : List Byte :=
  ((List.range ((l.length + 15) / 16)).map (fun k =>
    (((l.drop (16 * k)).take 16).zipWith (· ^^^ ·) (beBytes 16 (e (ctr k)))))).flatten

/-- AES-256-GCM at a 96-bit nonce (SP 800-38D): ciphertext and 16-byte tag. -/
def gcmSeal (key nonce : Nat) (aad payload : List Byte) : List Byte :=
  let e := aes256 key
  let c := ctrMode e (fun k => nonce % 2 ^ 96 * 2 ^ 32 + (k + 2) % 2 ^ 32) payload
  let h := e 0
  let y := ghash h (ghash h 0 aad) c
  let t := ghashMul (y ^^^ (8 * aad.length * 2 ^ 64 + 8 * c.length)) h ^^^ e (nonce % 2 ^ 96 * 2 ^ 32 + 1)
  c ++ beBytes 16 t

end Sys2Proof.Machine
end

