-- ==== Sys2Proof/Machine/KeyOps.lean ====
section
/-! DEFINITION. Root slots, usage and the derived-key cache (09_encryption_and_keys.md R303 to R323), and the commands
KEY_LOAD, KEY_ACTIVATE, KEY_ERASE and RETIRING_TIMEOUT. -/

namespace Sys2Proof.Machine

set_option autoImplicit false

/-- Source of the cipher engines. -/
abbrev srcKey : Source := ⟨.KEY, 0⟩

/-- A root slot (Table 9-1). -/
def State.root (s : State) (k : Nat) : Root := Tab.get (fun _ => Root.empty) s.keys.roots k

/-- Cache entries derived from a slot invalidated (R314). -/
def State.uncache (s : State) (k : Nat) : State := { s with keys := { s.keys with cache := s.keys.cache.filter (fun e => e.1 ≠ k) } }

/-- A root slot's change mirrored to the standby over a sealed link (R322). -/
def State.mirrorKey (s : State) (k : Nat) : State :=
  if s.bit Reg.KEY_CTRL.MIRROR_KEYS && s.bit Reg.TWN_STATUS.SEALED && decide (k < 16384) then s.mirror 7 (Fin.ofNat 32 (k / 512)) 0xFF k else s

/-- Store of a root slot whose state or key changes: its cache entries go (R314), the change is mirrored (R322). -/
def State.setRoot (s : State) (k : Nat) (r : Root) : State :=
  (({ s with keys := { s.keys with roots := Tab.set (fun _ => Root.empty) s.keys.roots k r } }).uncache k).mirrorKey k

/-- Store of a root slot's usage, which is no change of state. -/
def State.setUsage (s : State) (k : Nat) (r : Root) : State :=
  { s with keys := { s.keys with roots := Tab.set (fun _ => Root.empty) s.keys.roots k r } }

/-- Entries the cache holds (R314). -/
abbrev cacheSize : Nat := 4096

/-- DERIVE (R314): a hit moves the entry to the front; a miss derives it and replaces the least recently used. Labels:
0 PLOAM_IK, 1 OMCI_IK, 2 KEK, 3 SHSL, 4 IMGK. -/
def State.derive (s : State) (k label ctx : Nat) : State :=
  let e := (k, label, ctx)
  if s.keys.cache.contains e then
    ({ s with keys := { s.keys with cache := e :: s.keys.cache.filter (fun x => x ≠ e) } }).inc Cnt.KEY_CACHE_HIT
  else ({ s with keys := { s.keys with cache := (e :: s.keys.cache).take cacheSize } }).inc Cnt.KEY_CACHE_MISS

/-- Root slot of a node and key index 1 or 2 (R305). -/
abbrev rootOf (node k : Nat) : Nat := 2 * node + k

/-- The ACTIVE slot of a node (R306). -/
def State.activeRoot (s : State) (node : Nat) : Option Nat :=
  if (s.root (rootOf node 0)).state = .active then some (rootOf node 0)
  else if (s.root (rootOf node 1)).state = .active then some (rootOf node 1)
  else none

/-- Slot whose SK gives a node's integrity keys (R305): the ACTIVE one's, else a slot that holds a key. -/
def State.integrityRoot (s : State) (node : Nat) : Option Nat :=
  match s.activeRoot node with
  | some k => some k
  | none =>
    if (s.root (rootOf node 1)).state ≠ .empty then some (rootOf node 1)
    else if (s.root (rootOf node 0)).state ≠ .empty then some (rootOf node 0)
    else none

/-- Address of a key fault on a node's slot (Table 9-14). -/
def State.keyAddr (s : State) (k : Nat) : Nat :=
  let node := k / 2
  portAddr (Fin.ofNat 32 (node / 256)) (s.slot (Fin.ofNat 32 (node / 256)) (node % 256)).side (node % 256 * 2 ^ 16 + k % 2)

/-- KEY_USAGE_LIMIT (R319): the count reached, with KEY_ROTATE_DUE once for the slot and HELD with KEY_EXHAUSTED in an
ACTIVE slot. -/
def State.limitKey (s : State) (k : Nat) : State :=
  let r := s.root k
  let s1 := if !r.due && decide (2 ^ s.rd Reg.KEY_LIMIT.SOFT_LOG2 ≤ r.usage) then
      (s.setUsage k { r with due := true }).raise .KEY_ROTATE_DUE srcKey (s.keyAddr k) else s
  let r := s1.root k
  if r.state = .active ∧ r.held = false ∧ 2 ^ s.rd Reg.KEY_LIMIT.HARD_LOG2 ≤ r.usage then
    (s1.setUsage k { r with held := true }).raise .KEY_EXHAUSTED srcKey (s.keyAddr k)
  else s1

/-- USAGE raised by a number of 16-byte blocks (R319). -/
def State.useKey (s : State) (k n : Nat) : State :=
  let r := s.root k
  (s.setUsage k { r with usage := (r.usage + n) % 2 ^ 48 }).limitKey k

/-- A slot emptied, its key zeroed (R315). -/
def State.eraseRoot (s : State) (k : Nat) : State := if s.root k = Root.empty then s else s.setRoot k Root.empty

/-- Both slots of a node EMPTY (R318). -/
def State.eraseNode (s : State) (node : Nat) : State := (s.eraseRoot (rootOf node 0)).eraseRoot (rootOf node 1)

/-- KEY_ACTIVATE_FRAME (R315 to R317, R320): at the tick of frame A of the slot's port the slot becomes ACTIVE and the other
slot of the pair, if ACTIVE, RETIRING: a hold of that slot ends. -/
def State.activateAtTick (s : State) (p : Fin 32) : State :=
  let due := s.keys.roots.filter (fun x => decide (x.1 / 512 = p.val) && (match x.2.pend with | some a => decide (a ≤ s.sfc p) | none => false))
  due.foldl (fun s x =>
    let r := s.root x.1
    let o := x.1 / 2 * 2 + (1 - x.1 % 2)
    let other := s.root o
    let s1 := if other.state = .active then s.setRoot o { other with state := .retiring, held := false, quiet := s.sfc p } else s
    (s1.setRoot x.1 { r with state := .active, pend := none, actSfc := r.pend.getD 0 }).inc Cnt.KEY_ROTATIONS) s

/-- CODE of KEY_CMD_STATUS; the completion is an event of PF vector 3 (Table 17-9). -/
def State.keyCode (s : State) (c : Nat) : State := (s.wr Reg.KEY_CMD_STATUS.CODE c).msi 0 3

/-- KEY_CMD reaches the cipher only from the Steward (R304). -/
def State.keyGate (s : State) (ag : Agent) (k : State → State) : State :=
  match ag with
  | .steward | .image => k s
  | _ => s.deny ag .scope Reg.KEY_CMD.addr noWin

/-- The words of KEY_CMD_DATA from `i` on, first word highest. -/
def State.keyData (s : State) (i n : Nat) : Nat :=
  (List.range n).foldl (fun a j => a * 2 ^ 32 + (s.word (Reg.KEY_CMD_DATA.addr (i + j))).toNat) 0

/-- First and last link root slots (Table 9-1). -/
abbrev linkRoot (lane : Nat) : Nat := 16385 + lane

/-- KEY_LOAD (R315, R318, R330): DK and SK of an ONU slot, or the 256 bits of a link root, written from KEY_CMD_DATA
into an EMPTY slot. -/
def execKeyLoad (ag : Agent) (slot : BitVec 15) (s : State) : Host.Outcome State Fault Refusal :=
  ok (s.keyGate ag (fun s =>
    let k := slot.toNat
    if k = 16384 ∨ 16401 ≤ k then s.keyCode 1
    else if s.bit Reg.KEY_STATUS.ERASED then s.keyCode 5
    else if (s.root k).state ≠ .empty then s.keyCode 2
    else (s.setRoot k { Root.empty with state := .loaded, dk := s.keyData 0 4, sk := s.keyData 4 4 }).keyCode 0))

/-- KEY_ACTIVATE (R316, R330): a LOADED slot is scheduled to become ACTIVE at frame A, a superframe boundary at least
16 frames ahead. A slot that is not a LOADED ONU slot is refused with BAD_SLOT (DEDUCED, log entry 8). -/
def execKeyActivate (ag : Agent) (slot : BitVec 15) (s : State) : Host.Outcome State Fault Refusal :=
  ok (s.keyGate ag (fun s =>
    let k := slot.toNat
    let a := (s.word (Reg.KEY_CMD_DATA.addr 0)).toNat + (s.word (Reg.KEY_CMD_DATA.addr 1)).toNat % 2 ^ 19 * 2 ^ 32
    let o := k / 2 * 2 + (1 - k % 2)
    if s.bit Reg.KEY_STATUS.ERASED then s.keyCode 5
    else if 16384 ≤ k ∨ (s.root k).state ≠ .loaded then s.keyCode 1
    else if a % 8 ≠ 0 ∨ a < s.sfc (Fin.ofNat 32 (k / 512)) + 16 then s.keyCode 3
    else if (s.root o).pend.isSome then s.keyCode 4
    else (s.setRoot k { s.root k with pend := some a }).keyCode 0))

/-- KEY_ERASE (R315): the slot becomes EMPTY with its key zeroed. -/
def execKeyErase (ag : Agent) (slot : BitVec 15) (s : State) : Host.Outcome State Fault Refusal :=
  ok (s.keyGate ag (fun s =>
    let k := slot.toNat
    if k = 16384 ∨ 16401 ≤ k then s.keyCode 1 else (s.eraseRoot k).keyCode 0))

/-- A slot is RETIRING and no upstream block was decrypted under it for 64 frames of its port (R315). -/
def State.retired (s : State) (k : Nat) : Bool :=
  decide ((s.root k).state = .retiring) && decide ((s.root k).quiet + 64 ≤ s.sfc (Fin.ofNat 32 (k / 512)))

/-- RETIRING_TIMEOUT (R315): a RETIRING slot under which no upstream block was decrypted for 64 frames is emptied. -/
def execRetiringTimeout (slot : BitVec 14) (s : State) : Host.Outcome State Fault Refusal :=
  ok (if s.retired slot.toNat then s.eraseRoot slot.toNat else s)

/-- The counter block of block `k` of a payload (R307, Table 9-2). -/
def counterBlock (sfc : Nat) (up : Bool) (ifc0 k : Nat) : Nat :=
  let d := if up then 1 else 0
  let ifc := (ifc0 + 4 * k) % 2 ^ 18
  sfc % 2 ^ 51 * 2 ^ 77 + d * 2 ^ 76 + ifc * 2 ^ 58 + sfc % 2 ^ 39 * 2 ^ 19 + d * 2 ^ 18 + ifc

/-- AES-128-CTR over a payload (R306, R307): block k takes the keystream of its counter block, the last block only the
bytes that remain. -/
def ctrCrypt (dk sfc : Nat) (up : Bool) (ifc0 : Nat) (bytes : List Byte) : List Byte :=
  ctrMode (aes128 dk) (counterBlock sfc up ifc0) bytes

/-- 16-byte blocks of a payload. -/
def blocks (n : Nat) : Nat := ceilDiv n 16

/-- Payload a cipher engine refuses (R326). -/
def State.lenErr (s : State) (p : Fin 32) (sd n : Nat) : State :=
  (s.inc Cnt.KEY_LEN_ERR).raise .CIPHER_LENGTH srcKey (portAddr p sd (min n (2 ^ 17 - 1)))

/-- Encryption is asked of a context (R306): ENC 1 on an ONU node; a broadcast or multicast context is sent plain. -/
def State.encrypts (s : State) (ctx : Nat) : Bool := s.bit (Win.CTX_ENC ctx) && !s.bit (Win.ONU_KIND (s.rd (Win.CTX_NODE ctx)))

/-- A packet at the cipher stage of a side (R306, R320, R321, R326, R330, R451): ready for the framer, to be sent plain or to be
encrypted in the frames that carry it, or dropped with its reference released. `bad` names the cipher engine whose datapaths
disagree. -/
def State.cipherPkt (s : State) (p : Fin 32) (sd : Nat) (d : Desc) (bad : Option (Fin 16)) : State × Option Out :=
  let bytes := (s.buf d.handle).bytes
  let gone := fun (s : State) => ((s.unref d.handle, none) : State × Option Out)
  if 16383 < bytes.length then gone (s.lenErr p sd bytes.length)
  else if !s.encrypts d.xctx then (s, some ⟨d, bytes, 0, false⟩)
  else
    match s.activeRoot (s.rd (Win.CTX_NODE d.xctx)) with
    | none => gone (s.inc Cnt.KEY_KEY_HOLD_DROP)
    | some k =>
      if (s.root k).held then gone (s.inc Cnt.KEY_KEY_HOLD_DROP)
      else
        match bad with
        | some e => gone (s.raise .CIPHER_MISMATCH srcKey e.val)
        | none => (s, some ⟨d, bytes, 0, true⟩)

/-- The piece of `n` payload bytes of a packet that frame `sfc` carries from word `word` on (R306 to R308, R316, R319 to R321):
as it is with key index 0, or encrypted as a payload of its own under the slot ACTIVE in that frame. None when the packet is
to be dropped: no slot ACTIVE, the slot HELD, or its limit reached by the packet's blocks, which are then used and no piece of
the packet sent. -/
def State.cipherPiece (s : State) (sfc word : Nat) (o : Out) (n : Nat) : State × Option (Nat × List Byte) :=
  let piece := (o.bytes.drop o.sent).take n
  if !o.enc then (s, some (0, piece))
  else
    match s.activeRoot (s.rd (Win.CTX_NODE o.d.xctx)) with
    | none => (s.inc Cnt.KEY_KEY_HOLD_DROP, none)
    | some k =>
      let r := s.root k
      let whole := blocks n + blocks (o.bytes.length - o.sent - n)
      let used := if o.sent = 0 ∧ 2 ^ s.rd Reg.KEY_LIMIT.HARD_LOG2 ≤ r.usage + whole then whole else blocks n
      if r.held then (s.inc Cnt.KEY_KEY_HOLD_DROP, none)
      else
        let s1 := (s.useKey k used).count Cnt.KEY_DS_BLOCKS used
        if (s1.root k).held then (s1.inc Cnt.KEY_KEY_HOLD_DROP, none)
        else (s1, some (k % 2 + 1, ctrCrypt r.dk sfc false word piece))

/-! Integrity codes (R310, R313). -/

/-- Constants of the keys derived from an ONU's SK: labels 0 PLOAM_IK, 1 OMCI_IK, 2 KEK. PRESUMED: the standards' (log entry
146). -/
def ikConst : Nat → List Byte
  | 0 => beBytes 16 0x504C4F414D496E7465677274794B6579
  | 1 => beBytes 16 0x4F4D4349496E746567726974794B6579
  | _ => beBytes 16 0x4B6579456E6372797074696F6E4B6579

/-- A key of R313: one AES-CMAC of SK over the key's constant. -/
def ikOf (sk label : Nat) : Nat := cmac128 sk (ikConst label)

/-- The default PLOAM integrity key (R310). PRESUMED: the standards' (log entry 146). -/
abbrev defaultIk : Nat := 0x55555555555555555555555555555555

/-- Integrity key of a message to or from an ONU (R305, R310, R313): derived from its SK; the default key for a broadcast
message and while both its slots are EMPTY. -/
def State.integrityKey (s : State) (p : Fin 32) (onu label : Nat) : Nat :=
  if 256 ≤ onu then defaultIk
  else match s.integrityRoot (slotKey p onu) with
    | some k => ikOf (s.root k).sk label
    | none => defaultIk

/-- The derivation that a message to or from an ONU asks of the cache (R314). -/
def State.micKey (s : State) (p : Fin 32) (onu label : Nat) : State :=
  if 256 ≤ onu then s
  else match s.integrityRoot (slotKey p onu) with
    | some k => s.derive k label 0
    | none => s

/-- Integrity code of a message (R310): the first 8 bytes, of OMCI (label 1) the first 4, of the AES-CMAC over the direction
byte and the message. PRESUMED: the direction byte is the standards' (log entry 146). -/
def State.mic (s : State) (p : Fin 32) (onu label : Nat) (up : Bool) (msg : List Byte) : Nat :=
  cmac128 (s.integrityKey p onu label) ((if up then 2#8 else 1#8) :: msg) / 2 ^ (if label = 1 then 96 else 64)

end Sys2Proof.Machine
end

