-- ==== Sys2Proof/Machine/Tables.lean ====
section
/-! DEFINITION. Writable bits and store rules of the tables behind the CPG, SCH and KEY windows (Tables 8-12 to 8-16,
9-12; 08_buffers_queues_shaping.md R275, R300). -/

namespace Sys2Proof.Machine

set_option autoImplicit false

/-- Words of an entry of the SCH window, none for an index that names no entry (Tables 8-13 to 8-16). -/
def schWords (idx : Nat) : Option Nat :=
  if idx < 0x12000 then some 16
  else if 0x20000 ≤ idx ∧ idx < 0x22000 then some 2
  else if 0x24000 ≤ idx ∧ idx < 0x24068 then some 2
  else if 0x40000 ≤ idx ∧ idx < 0x40000 + 98304 * 8 ∧ idx % 8 = 0 then some 8
  else if 0x100000 ≤ idx ∧ idx < 0x100000 + 8192 * 32 ∧ idx % 32 = 0 then some 32
  else none

/-- Writable bits of word `j` of an SCH entry. -/
def schMask (idx j : Nat) : Word :=
  if idx < 0x12000 then
    match j with
    | 0 => 0xFFE1FFFF#32
    | 1 => if 0x11F80 ≤ idx then 0xFFFF0000#32 else 0xFFFFFF80#32
    | 2 => 0xFFFFFFFF#32
    | 3 => 0xFFFFFFFF#32
    | 10 => 0x8000FFFF#32
    | _ => 0#32
  else if idx < 0x22000 then (if j = 0 then 0xFFF9FFFF#32 else 0#32)
  else if idx < 0x24068 then (if j = 0 then 0xFFFDFFFF#32 else 0#32)
  else if idx < 0x100000 then
    match j with
    | 0 => 0xF80000FF#32 | 1 => 0xFFFFFFFF#32 | 2 => 0xFFFFFFFF#32 | 3 => 0x00FFFFFF#32 | 4 => 0x00FFFFFF#32 | _ => 0#32
  else (if j = 0 then 0xBC01FFFF#32 else 0#32)

/-- A word with its writable bits replaced. -/
def maskInto (old v m : Word) : Word := (old &&& ~~~ m) ||| (v &&& m)

/-- Sum of QUOTA over the 104 top nodes (R275). -/
def State.quotaSum (s : State) : Nat := ((List.range 104).map (fun m => s.rd (Win.TOP_QUOTA m))).sum

/-- A statistics entry. -/
def State.stat (s : State) (e : Nat) : Stat := Tab.get (fun _ => Stat.reset) s.cpg.stats e

/-- Update of a statistics entry. -/
def State.setStat (s : State) (e : Nat) (x : Stat) : State :=
  { s with cpg := { s.cpg with stats := Tab.set (fun _ => Stat.reset) s.cpg.stats e x } }

/-- STATS_CLEAR (R297): statistics reset, START recorded. -/
def State.clearStat (s : State) (e : Nat) : State := s.setStat e { Stat.reset with start := s.now }

/-- BUCKET_WORD0_WRITE (R300): everything collected becomes the pending configuration; a 1 in DEBT_CLEAR is pending
until the next refill. -/
def State.pendBucket (s : State) (b : Nat) (debt : Bool) : State :=
  let x := s.bkt b
  s.setBkt b { x with pend := some (s.bkWritten b), debt := x.debt || debt }

/-- A write of SCH entry words that R275 refuses. -/
def State.schRefused (s : State) (idx first : Nat) (ws : List Word) : Bool :=
  if 0x24000 ≤ idx ∧ idx < 0x24068 ∧ first = 0 then
    match ws with
    | [] => false
    | w :: _ => decide (1024 < s.quotaSum - s.rd (Win.TOP_QUOTA (idx - 0x24000)) + fldOf w (Win.TOP_QUOTA (idx - 0x24000)))
  else false

/-- Queues whose top node the write of an SCH entry may change: an uplink-side queue's NODE, an ONU node's KIND and GROUP_SIDE. -/
def schMoved (idx first n : Nat) : List Nat :=
  if 0x10000 ≤ idx ∧ idx < 0x12000 then (if first ≤ 1 ∧ 1 < first + n then [idx] else [])
  else if 0x20000 ≤ idx ∧ idx < 0x22000 then (if first = 0 then (List.range 8).map (fun c => (idx - 0x20000) * 8 + c) else [])
  else []

/-- Words of an SCH entry stored: holdings follow their queues (R275), and an ONU node that enters DOWN by the write is flushed
(R273, R274). -/
def State.schPut (s : State) (idx first : Nat) (ws : List Word) : State :=
  let s1 := s.putEntry wSch idx first ((ws.zipIdx first).map (fun x => maskInto (s.word (winKey wSch idx x.2)) x.1 (schMask idx x.2)))
  let s2 := (schMoved idx first ws.length).foldl (fun t q => t.rehome q (s.topOf q)) s1
  if 0x20000 ≤ idx ∧ idx < 0x22000 ∧ s.nodeState (idx - 0x20000) ≠ .down ∧ s2.nodeState (idx - 0x20000) = .down then
    s2.flushNode (idx - 0x20000)
  else s2

/-- Store of words of an SCH entry in one update, word 0 applied after the others (R545). -/
def State.schStore (s : State) (idx first : Nat) (ws : List Word) : State :=
  let s1 := s.schPut idx first ws
  if first = 0 then
    match ws with
    | [] => s1
    | w :: _ =>
      if 0x40000 ≤ idx ∧ idx < 0x100000 then s1.pendBucket ((idx - 0x40000) / 8) (w.getLsbD 26)
      else if 0x100000 ≤ idx ∧ w.getLsbD 30 then s1.clearStat ((idx - 0x100000) / 32)
      else s1
  else s1

/-- Words of an entry of the CPG window (Table 8-12). -/
def cpgWords (idx : Nat) : Option Nat :=
  if idx < 65536 then some 1 else if 0x20000 ≤ idx ∧ idx < 0x40000 then some 2 else none

/-- Writable bits of a CPG entry. -/
def cpgMask (idx j : Nat) : Word :=
  if idx < 65536 then 0x9FFFFFFF#32 else if j = 0 then 0x0001FFFF#32 else 0x0000FFFF#32

/-- Store of words of a CPG entry (R268). -/
def State.cpgStore (s : State) (idx first : Nat) (ws : List Word) : State :=
  s.putEntry wCpg idx first ((ws.zipIdx first).map (fun x => maskInto (s.word (winKey wCpg idx x.2)) x.1 (cpgMask idx x.2)))

/-- Store of a context cipher entry (Table 9-12, R333). -/
def State.ctxStore (s : State) (c : Nat) (w : Word) : State := s.putWord (winKey wKey (0x10000 + c) 0) (w &&& 0x80001FFF#32)

end Sys2Proof.Machine
end

