-- ==== Sys2Proof/Machine/Activ.lean ====
section
/-! DEFINITION. Activation as operations of the state: PLOAM queues and acknowledgements, slots and their services, ramp,
provisioning (03_activation_and_ranging.md R66, R67, R81, R88 to R99, R588; 16_startup_and_live_update.md R526, R527). -/

namespace Sys2Proof.Machine

set_option autoImplicit false

/-- Source of a port block. -/
abbrev srcPt (p : Fin 32) : Source := ⟨.PT, p.val⟩

/-- PLOAM queue of a side. -/
def State.plq (s : State) (p : Fin 32) (sd : Nat) : PloamQ := Tab.get (fun _ => ⟨[], [], 0⟩) s.act.ploam (p.val * 2 + sd)

/-- Update of a PLOAM queue; every change is mirrored (Table 10-3). -/
def State.setPlq (s : State) (p : Fin 32) (sd : Nat) (q : PloamQ) : State :=
  if s.plq p sd = q then s
  else ({ s with act := { s.act with ploam := Tab.set (fun _ => ⟨[], [], 0⟩) s.act.ploam (p.val * 2 + sd) q } } : State).mirror 4 p sd 0

/-- A tree's activation state. -/
def State.tree (s : State) (p : Fin 32) : Tree := Tab.get (fun _ => Tree.reset) s.act.trees p.val

/-- Update of a tree's activation state. -/
def State.setTreeSt (s : State) (p : Fin 32) (x : Tree) : State :=
  { s with act := { s.act with trees := Tab.set (fun _ => Tree.reset) s.act.trees p.val x } }

/-- The broadcast ONU-ID. -/
abbrev bcast : Nat := 1023

/-- Message class of a body for `Config.needsAck`. -/
def PloamBody.cls : PloamBody → Nat
  | .assignOnuId _ _ => 0 | .rangingTime _ => 1 | .deactivate => 2 | .disableSn _ _ => 3
  | .requestRegistration => 4 | .burstProfile _ => 5 | .keyControl _ _ => 6 | .other _ => 7

/-- Message type code in PLOAM_NO_ACK's address: the standards' message type identifiers (PRESUMED, log entry 11). -/
def PloamBody.code : PloamBody → Nat
  | .burstProfile _ => 0x01 | .assignOnuId _ _ => 0x03 | .rangingTime _ => 0x04 | .deactivate => 0x05
  | .disableSn _ _ => 0x06 | .requestRegistration => 0x09 | .keyControl _ _ => 0x0D | .other t => t % 256

/-- A message put at the end of a side's queue, with the side's next 8-bit sequence number (R38, PRESUMED width). -/
def State.queuePloam (s : State) (p : Fin 32) (sd onu : Nat) (b : PloamBody) : State :=
  let q := s.plq p sd
  s.setPlq p sd { q with queue := q.queue ++ [⟨onu, b, q.seq, 0⟩], seq := (q.seq + 1) % 256 }

/-- Fields of Table 3-5, at their nearer bound when out of range (R589). -/
def State.ackWait (s : State) (p : Fin 32) : Nat := max 1 (s.rd (Reg.PT_ACT_TMR.ACK_WAIT p.val))
def State.ackTries (s : State) (p : Fin 32) : Nat := max 1 (s.rd (Reg.PT_ACT_TMR.ACK_TRIES p.val))
def State.rangeTries (s : State) (p : Fin 32) : Nat := max 1 (s.rd (Reg.PT_ACT_TMR.RANGE_TRIES p.val))
def State.lobBursts (s : State) (p : Fin 32) : Nat := max 1 (s.rd (Reg.PT_TRACK_CFG.LOB_BURSTS p.val))
def State.rerangeThr (s : State) (p : Fin 32) : Nat := max 1 (s.rd (Reg.PT_TRACK_CFG.RERANGE_THR p.val))
def State.trimThr (s : State) (p : Fin 32) : Nat := max 1 (s.rd (Reg.PT_TRACK_CFG.TRIM_THR p.val))

/-- ONU a message concerns: the one it assigns, else the one it is addressed to. -/
def Ploam.target (m : Ploam) : Nat :=
  match m.body with
  | .assignOnuId _ o => o
  | _ => m.onu

/-- A message sent, or lost after its lock, in frame `k`: it waits for its Acknowledge (R40, R66). -/
def State.awaitAck (s : State) (p : Fin 32) (sd k : Nat) (m : Ploam) : State :=
  if Config.needsAck m.body.cls then
    let q := s.plq p sd
    s.setPlq p sd { q with waits := q.waits ++ [⟨m, k⟩] }
  else s

/-- An Acknowledge of sequence number `seq` from an ONU (R66): its waits end, a retransmission still queued is withdrawn, and
one in a frame already locked is sent and starts no wait. -/
def State.ackRx (s : State) (p : Fin 32) (sd onu seq : Nat) : State :=
  let q := s.plq p sd
  let hit := fun (m : Ploam) => decide (m.seq = seq) && m.target == onu
  let x := s.side p sd
  let s1 := s.setSide p sd { x with locked := x.locked.map (fun l =>
    { l with acked := l.acked ++ l.ploam.filter (fun m => hit m && decide (m.retry ≠ 0)) }) }
  s1.setPlq p sd { q with waits := q.waits.filter (fun w => !hit w.msg), queue := q.queue.filter (fun m => !(hit m && decide (m.retry ≠ 0))) }

/-- Withdrawal of R588: messages to an ONU-ID leave the queue and their waits end. -/
def State.withdraw (s : State) (p : Fin 32) (sd onu : Nat) : State :=
  let q := s.plq p sd
  s.setPlq p sd { q with queue := q.queue.filter (fun m => m.onu ≠ onu), waits := q.waits.filter (fun w => w.msg.onu ≠ onu) }

/-- The quiet condition of R99 is met. -/
def State.rampQuiet (s : State) (p : Fin 32) : Bool :=
  [0, 1].all (fun sd => !s.opensWindows p sd || decide (s.rd (Reg.PT_RAMP_CFG.RAMP_QUIET p.val) ≤ (s.disc p sd).silent))

/-- Exit from ramp. -/
def State.leaveRamp (s : State) (p : Fin 32) : State := (s.setTreeSt p { s.tree p with ramp := false }).mirror 5 p 0xFF 0x100

/-- The quiet condition checked: an owned tree in ramp that meets it leaves at once (R99); a shadow follows its owner (R349). -/
def State.rampCheck (s : State) (p : Fin 32) : State := if (s.tree p).ramp && s.rampQuiet p && s.owned p.val then s.leaveRamp p else s

/-- Entry to ramp (R99): windows without light are counted from the entry (DEDUCED, log entry 12); a trigger in ramp changes
nothing of the count (it restarts the RAMP_MAX time, log entry 2); a tree none of whose sides opens windows leaves at
once. -/
def State.enterRamp (s : State) (p : Fin 32) : State :=
  if (s.tree p).ramp then s
  else
    let s1 := ((s.setDisc p 0 { s.disc p 0 with silent := 0 }).setDisc p 1 { s.disc p 1 with silent := 0 }).setTreeSt p { s.tree p with ramp := true }
    (s1.mirror 5 p 0xFF 0x100).rampCheck p

/-- A slot has left ACTIVE: RAMP_TRIG or more of them in one admission interval start the ramp (R99). -/
def State.leftActive (s : State) (p : Fin 32) : State :=
  let x := s.tree p
  let s1 := s.setTreeSt p { x with left := x.left + 1 }
  let n := s.rd (Reg.PT_RAMP_CFG.RAMP_TRIG p.val)
  if n ≠ 0 ∧ n ≤ x.left + 1 then s1.enterRamp p else s1

/-- Provisioning of a slot. -/
def State.provOf (s : State) (p : Fin 32) (i : Nat) : Prov := Tab.get (fun _ => Prov.none) s.stw.prov (slotKey p i)

/-- Update of a slot's provisioning. -/
def State.setProv (s : State) (p : Fin 32) (i : Nat) (x : Prov) : State :=
  { s with stw := { s.stw with prov := Tab.set (fun _ => Prov.none) s.stw.prov (slotKey p i) x } }

/-- Enable bit of an entry of a template's window, for the windows whose entries have one (Tables 4-1, 8-13). -/
def provEnable (win idx : Nat) : Option Fld :=
  match win with
  | 0 => some (Win.ALLOC_EN idx)
  | 1 => some (Win.Q_EN idx)
  | _ => none

/-- Roll-back of R526: EN := 0, in reverse order, in every entry the template enabled. -/
def State.unprovision (s : State) (p : Fin 32) (i : Nat) : State :=
  let x := s.provOf p i
  let s1 := x.enabled.reverse.foldl (fun (s : State) e => match provEnable e.1 e.2 with | some f => s.wr f 0 | none => s) s
  s1.setProv p i Prov.none

/-- Words of a window record after its patches (R526). -/
def patchWords (p i : Nat) (ps : List Patch) (ws : List Word) : List Word :=
  ps.foldl (fun ws (q : Patch) => ws.modify q.word (fun w => w + BitVec.ofNat 32 ((p * q.pMul + i * q.sMul) * 2 ^ q.lsb))) ws

/-- A window record applied: the state, and whether the write was refused. BASE counts entries of the window's own table
(DEDUCED, log entry 13). -/
def State.applyWin (s : State) (win idx : Nat) (ws : List Word) : State × Bool :=
  match win with
  | 0 =>
    let q : Fin 32 := Fin.ofNat 32 (idx / 1024)
    let j := idx % 1024
    let full := ws ++ (s.entry wWhf idx 5).drop ws.length
    if 32768 ≤ idx ∨ s.allocRefused q j full then (s, true) else (s.allocStore q j full, false)
  | 1 => if 0x12000 ≤ idx then (s, true) else (s.schStore idx 0 ws, false)
  | 2 => if 0x2000 ≤ idx then (s, true) else (s.schStore (0x20000 + idx) 0 ws, false)
  | 3 => if 98304 ≤ idx then (s, true) else (s.schStore (0x40000 + idx * 8) 0 ws, false)
  | 4 => if 0x10000 ≤ idx then (s, true) else (s.ctxStore idx (ws.headD 0#32), false)
  | _ => (s, true)

/-- A record enables its entry. -/
def State.winEnables (s : State) (win idx : Nat) : Bool := match provEnable win idx with | some f => s.bit f | none => false

/-- Window records in order: the first refusal stops them. `only` picks the windows applied (R528). -/
def State.applyRecs (s : State) (p : Fin 32) (i : Nat) (only : Nat → Bool) : List TRec → State × Bool
  | [] => (s, false)
  | .omci _ :: t => s.applyRecs p i only t
  | .win w base pS sS ps ws :: t =>
    if !only w then s.applyRecs p i only t
    else
      let idx := base + p.val * pS + i * sS
      let r := s.applyWin w idx (patchWords p.val i ps ws)
      if r.2 then (r.1, true)
      else
        let x := r.1.provOf p i
        let s1 := if r.1.winEnables w idx then r.1.setProv p i { x with enabled := x.enabled ++ [(w, idx)] } else r.1
        s1.applyRecs p i only t

/-- Template of an authorization index: template 0 where no entry applies (R83). -/
def State.templateOf (s : State) (authIdx : Nat) : Option Template :=
  let n := match s.act.auth[authIdx]? with | some a => a.template | none => 0
  s.stw.templates.find? (fun t => t.number = n)

/-- A serial number's entries: the first that holds it and admits the port and side (R83, Table 16-7). -/
def State.authOf (s : State) (p : Fin 32) (sd sn : Nat) : Option Nat :=
  s.act.auth.findIdx? (fun a => decide (a.sn = sn) && (a.port == 0xFF || a.port == p.val) && (a.side == 2 || a.side == sd))

/-- What every end of a service does (R588, R274, R318, R526): PLOAM messages withdrawn, queues flushed, keys erased,
entries the template enabled disabled. `erase` is false in the release of R81. -/
def State.endService (s : State) (p : Fin 32) (i : Nat) (erase : Bool) : State :=
  let x := s.slot p i
  let s1 := s.withdraw p x.side i
  let s2 := s1.flushNode (slotKey p i)
  let s3 := if erase then s2.eraseNode (slotKey p i) else s2
  let s4 := s3.unprovision p i
  if x.state = .active then s4.leftActive p else s4

/-- A slot in service becomes FREE; the ending message, if any, follows the withdrawal. -/
def State.freeSlot (s : State) (p : Fin 32) (i : Nat) (final : Option PloamBody) : State :=
  let sd := (s.slot p i).side
  let s1 := (s.endService p i true).setSlot p i Slot.free
  match final with
  | some b => s1.queuePloam p sd i b
  | none => s1

/-- A slot becomes DISABLED and keeps its serial number, to which the disable option is sent (Table 3-4). -/
def State.disableSlot (s : State) (p : Fin 32) (i : Nat) : State :=
  let x := s.slot p i
  let s1 := (if x.state = .free then s else s.endService p i true).setSlot p i
    { Slot.free with state := .disabled, side := x.side, sn := x.sn }
  match x.sn with
  | some n => s1.queuePloam p x.side bcast (.disableSn n false)
  | none => s1

/-- A slot with a service (Table 3-4). -/
def SlotState.inService : SlotState → Bool
  | .assigned | .ranged | .active | .lost => true
  | _ => false

/-- ADDRESS of an activation fault that names an ONU-ID. -/
def onuAddr (p : Fin 32) (sd onu rest : Nat) : Nat := portAddr p sd (onu % 1024 * 2 ^ 16 + rest)

/-- Entry to LOST (Table 3-4): a re-ranging or trim that is pending is cancelled (R89). -/
def State.toLost (s : State) (p : Fin 32) (i : Nat) : State :=
  let x := s.slot p i
  let s1 := s.setSlot p i { x with state := .lost, range := .none, hold := false, newEqd := none, offs := [], tries := 0, respAt := none }
  ((s1.inc (Cnt.ACT_LOB_EVENTS p.val x.side)).raise .ONU_LOST (srcPt p) (onuAddr p x.side i 0)).leftActive p

/-- Roll-back of R527: a refused write or a failed response frees the slot. -/
def State.templateFail (s : State) (p : Fin 32) (i : Nat) : State :=
  let n := match s.templateOf (s.slot p i).authIdx with | some t => t.number | none => 0
  ((s.freeSlot p i (some .deactivate)).inc Cnt.BOOT_TEMPLATE_FAILS).raise .TEMPLATE_FAIL ⟨.BOOT, 0⟩ (portAddr p 0 (i * 2 ^ 16 + n % 1024))

/-- Entry to RANGED: the template's window records (R526). A template marked HOST is left to the host. -/
def State.provisionRanged (s : State) (p : Fin 32) (i : Nat) : State :=
  match s.templateOf (s.slot p i).authIdx with
  | none => s
  | some t =>
    if t.host then s
    else
      let r := s.applyRecs p i (fun _ => true) t.recs
      if r.2 then r.1.templateFail p i else r.1

/-- The next OMCI record of a slot goes out, after the response to the one before; with none left the template is
complete (R526). -/
def State.nextOmci (s : State) (p : Fin 32) (i : Nat) : State :=
  let x := s.provOf p i
  match x.todo with
  | [] => (s.setProv p i { x with waiting := false }).inc Cnt.BOOT_TEMPLATES_APPLIED
  | m :: t =>
    let s1 := s.setProv p i { x with todo := t, waiting := true }
    { s1 with stw := { s1.stw with omci := s1.stw.omci ++ [(slotKey p i, m)] } }

/-- A node is due an announcement of the time of day (R383). -/
def State.dropAnn (s : State) (node : Nat) : State := { s with hrl := { s.hrl with ann := Tab.drop s.hrl.ann node } }

/-- Entry to ACTIVE (Table 3-4, R91, R383, R526): recording starts from empty, the OMCI records start. -/
def State.toActive (s : State) (p : Fin 32) (i : Nat) : State :=
  let x := s.slot p i
  let s1 := (s.setSlot p i { x with state := .active, offs := [], missed := 0, tries := 0, range := .none, hold := false }).dropAnn (slotKey p i)
  match s1.templateOf x.authIdx with
  | none => s1
  | some t =>
    if t.host then s1
    else
      let ms := t.recs.filterMap (fun r => match r with | .omci b => some b | _ => none)
      (s1.setProv p i { s1.provOf p i with todo := ms }).nextOmci p i

/-- A slot is RANGED with its Registration matched and its first data key in force: it becomes ACTIVE (Table 3-4). -/
def State.tryActive (s : State) (p : Fin 32) (i : Nat) : State :=
  let x := s.slot p i
  if x.state = .ranged ∧ x.regOk = true ∧ x.keyOk = true then s.toActive p i else s

/-- TEQD plus US_ADJ in bits at an ONU's rate (R68, R348). -/
def State.teqdBits (s : State) (p : Fin 32) (sd row : Nat) : Int := roundDiv (s.teqdUnits p sd) (if sd = 0 then upb row else 1)

/-- Request of a new EqD for an ACTIVE ONU (R93 to R95): Wharfinger holds its ordinary grants from the first map whose
build starts after the request. -/
def State.holdFor (s : State) (p : Fin 32) (i : Nat) (eqd : Int) : State :=
  let x := s.slot p i
  s.setSlot p i { x with range := .none, tries := 0, hold := true, newEqd := some eqd, holdFrom := s.nextBuild p, respAt := none }

/-- Active slots of a port. -/
def State.activeSlots (s : State) (p : Fin 32) : Nat := ((List.range 256).filter (fun i => (s.slot p i).state == .active)).length

/-- A broadcast Deactivate_ONU-ID on each enabled side of a tree (R100, R332, R357). -/
def State.broadcastDeactivate (s : State) (p : Fin 32) : State :=
  [0, 1].foldl (fun s sd => if s.sideEn p sd then s.queuePloam p sd bcast .deactivate else s) s

end Sys2Proof.Machine
end

