-- ==== Sys2Proof/Machine/ActCmd.lean ====
section
/-! DEFINITION. The commands of activation and ranging (03_activation_and_ranging.md). -/

namespace Sys2Proof.Machine

set_option autoImplicit false

/-- A slot's key exchange has failed, or no Registration came: it is freed with Deactivate_ONU-ID (Table 3-4). -/
def State.dropRanged (s : State) (p : Fin 32) (i : Nat) : State :=
  if (s.slot p i).state = .ranged then s.freeSlot p i (some .deactivate) else s

/-- PLOAM_ACK_TIMEOUT (R66): the oldest wait whose frame K + ACK_WAIT has begun ends; its message is queued again, or,
after the last retransmission, reported with PLOAM_NO_ACK, which names the ONU-ID the message was addressed to (0x3FF for a
broadcast message: DEDUCED, log entry 147). An unacknowledged Key_Control of a RANGED slot's first key fails its exchange
(R88), where the Steward runs to see it. On a shadow tree the owner's queue decides (R349). -/
def execPloamAckTimeout (p : Fin 32) (sd : Side) (s : State) : Host.Outcome State Fault Refusal :=
  let q := s.plq p sd.n
  if !s.owned p.val then ok s else
  match q.waits.find? (fun w => decide (w.frame + s.ackWait p ≤ s.sfc p)) with
  | none => ok s
  | some w =>
    let s1 := s.setPlq p sd.n { q with waits := q.waits.erase w }
    if w.msg.retry < s.ackTries p then
      let q1 := s1.plq p sd.n
      ok (s1.setPlq p sd.n { q1 with queue := q1.queue ++ [{ w.msg with retry := w.msg.retry + 1 }] })
    else
      let s2 := (s1.inc (Cnt.ACT_PLOAM_NO_ACK p.val sd.n)).raise .PLOAM_NO_ACK (srcPt p)
        (onuAddr p sd.n w.msg.onu w.msg.body.code)
      match w.msg.body with
      | .keyControl _ _ => if (s2.slot p w.msg.onu).keyOk = false ∧ s2.stw.paused = false then ok (s2.dropRanged p w.msg.onu) else ok s2
      | _ => ok s2

/-- TEQD_WRITE (R70): stored, or dropped with TEQD_REFUSED while a slot of the port is neither FREE nor DISABLED. -/
def execTeqdWrite (ag : Agent) (p : Fin 32) (v : Word) (s : State) : Host.Outcome State Fault Refusal :=
  ok (s.gate ag (Reg.PT_TEQD.addr p.val) (fun s =>
    if (List.range 256).any (fun i => (s.slot p i).state.inService) then s.wr (Reg.PT_ACT_STATUS.TEQD_REFUSED p.val) 1
    else ((s.storeWord ag (Reg.PT_TEQD.addr p.val) v).mirror 6 p 0xFF 0x200).rampCheck p))

/-- REACH_WRITE (R71): a write that breaks either limit is stored with MAX_KM = min(60, MIN_KM + 40); REACH_CLAMPED
shows the last write. -/
def execReachWrite (ag : Agent) (p : Fin 32) (v : Word) (s : State) : Host.Outcome State Fault Refusal :=
  ok (s.gate ag (Reg.PT_REACH.addr p.val) (fun s =>
    let s1 := s.storeWord ag (Reg.PT_REACH.addr p.val) v
    let lo := s1.rd (Reg.PT_REACH.MIN_KM p.val)
    let hi := s1.rd (Reg.PT_REACH.MAX_KM p.val)
    let bad := decide (60 < hi) || decide (lo + 40 < hi)
    let s2 := if bad then s1.wr (Reg.PT_REACH.MAX_KM p.val) (min 60 (lo + 40)) else s1
    ((s2.wr (Reg.PT_ACT_STATUS.REACH_CLAMPED p.val) (if bad then 1 else 0)).mirror 6 p 0xFF 0x204).rampCheck p))

/-- Discovery period of a side (R73, R589). -/
def State.discPeriod (s : State) (p : Fin 32) : Nat :=
  if (s.tree p).ramp then max 4 (s.rd (Reg.PT_DISC_CFG.RAMP_PERIOD p.val)) else max 16 (s.rd (Reg.PT_DISC_CFG.PERIOD p.val))

/-- One step of the LFSR (R74). -/
def lfsrStep (x : Nat) : Nat :=
  let b := fun (i : Nat) => x / 2 ^ i % 2
  (x * 2 + (b 15 + b 13 + b 12 + b 10) % 2) % 65536

/-- Windows whose grant lies in frame `n`, on the sides of one kind over the device (R75). -/
def State.windowsIn (s : State) (sd n : Nat) : Nat :=
  ((ports.map (fun p => ((s.disc p sd).wins.filter (fun w => w.1 = n)).length)).sum)

/-- First frame with room at or after `n` (R75). -/
def State.frameWithRoom (s : State) (sd : Nat) : Nat → Nat → Nat
  | 0, n => n
  | k + 1, n => if s.windowsIn sd n < 4 then n else s.frameWithRoom sd k (n + 1)

/-- Row of the next window of a 50G side: rotation over the enabled rows, 0 acting as row 2 alone (R73, Table 3-10). -/
def State.nextRow (s : State) (p : Fin 32) (sd ix : Nat) : Nat :=
  if sd = 1 then 3
  else
    let m := s.rd (Reg.PT_DISC_CFG.ROWS50 p.val)
    let rows := [0, 1, 2].filter (fun r => m / 2 ^ r % 2 = 1)
    if rows = [] then 2 else (rows[ix % rows.length]?).getD 2

/-- Frames by which a window's grant is planned ahead of the next build: the bursts of a map already built arrive TEQD after
their frame, and none of them may meet the quiet span (R72, log entry 148). -/
def State.discLead (s : State) (p : Fin 32) : Nat := ceilDiv (s.rd (Reg.PT_TEQD.TEQD p.val)) 6220800

/-- DISC_PERIOD_START (R72 to R75): the side steps its LFSR, draws the frame of the period's window, and takes the row
in rotation. The period starts where the last one ended, or, where that has passed, at the first frame whose quiet span no
built map's burst can meet; while the side opens no windows no period runs and the LFSR stands (DESIGN CHOICE, log
entry 148). -/
def execDiscPeriodStart (p : Fin 32) (sd : Side) (s : State) : Host.Outcome State Fault Refusal :=
  if !s.opensWindows p sd.n then ok s
  else
    let d := s.disc p sd.n
    let start := max (d.next.getD 0) (s.nextBuild p + s.discLead p)
    let per := s.discPeriod p
    let x := lfsrStep d.lfsr
    let used := s.frameWithRoom sd.n 64 (start + x % per)
    ok ((s.setDisc p sd.n { d with lfsr := x, next := some (max (start + per) (used + 1)), rowIx := d.rowIx + 1,
                                   wins := d.wins ++ [(used, s.nextRow p sd.n d.rowIx)] }).mirror 5 p sd.n 0x101)

/-- L_SN in bits at a row (R76): a long-profile response of 56 content bytes and the guard time. -/
def State.lSn (s : State) (p : Fin 32) (sd row : Nat) : Nat :=
  let f := s.prof p row 0
  f.pre + f.delim + 8 * encBytes sd f.fec 56 + guardBits (s.rd (Reg.PT_US_CFG.GUARD p.val)) row

/-- Insertion of an episode in order of position (R79). -/
def insertEp (e : Episode) : List Episode → List Episode
  | [] => [e]
  | x :: t => if e.pos < x.pos then e :: x :: t else x :: insertEp e t

/-- Episodes in order of position. -/
def sortEps (eps : List Episode) : List Episode := eps.foldl (fun l e => insertEp e l) []

/-- A response of `len` bits of `u` units, whose window's grant starts at receiver time `base`, overlaps a fixed burst of a
sent map (R130). -/
def PonSide.meetsFixed (x : PonSide) (base : Int) (u len pre : Nat) (e : Episode) : Bool :=
  let a : Int := base + ((e.pos : Int) - pre) * u
  x.spans.any (fun w => w.fixed && decide (w.a < a + len * u) && decide (a < w.b))

/-- An episode is CLEAN among those of its window (R76). -/
def cleanIn (lsn : Nat) (eps : List Episode) (i : Nat) (e : Episode) : Bool :=
  e.delim && e.good && (eps.zipIdx).all (fun x => decide (x.2 = i) || decide (lsn < e.pos - x.1.pos) || decide (lsn < x.1.pos - e.pos))

/-- QUIET_SPAN_CLOSE (R76, R78, R79, R99, R130, R392): the episodes of the side's oldest window are classified and counted;
CLEAN ones wait for the Steward in order of position with their RTD_c, an overlap with a fixed burst making one COLLIDED; a
window with neither delimiter nor energy counts toward the end of the ramp. The receiver's loops, set to neutral again after
each episode, are frozen. -/
def execQuietSpanClose (p : Fin 32) (sd : Side) (eps0 : List Episode) (s : State) : Host.Outcome State Fault Refusal :=
  let eps := sortEps eps0
  let d := s.disc p sd.n
  match d.wins.find? (fun w => decide (w.1 ≤ s.sfc p)) with
  | none => ok s
  | some w =>
    let row := w.2
    let lsn := s.lSn p sd.n row
    let pre := (s.prof p row 0).pre
    let u := if sd.n = 0 then upb row else 1
    let len := lsn - guardBits (s.rd (Reg.PT_US_CFG.GUARD p.val)) row
    let side := s.side p sd.n
    let marked := (eps.zipIdx).map (fun x =>
      (x.1, cleanIn lsn eps x.2 x.1 && !side.meetsFixed (w.1 * frameLen sd.n) u len pre x.1))
    let clean := (marked.filter (·.2)).map (·.1)
    let resp := clean.map (fun (e : Episode) =>
      (⟨sd.n, row, e.sn, (e.pos : Int) - pre - roundDiv e.rd u⟩ : CleanResp))
    let s0 := s.setSide p sd.n { side with rx := if side.rx = .quiet then .frozen else side.rx, neutral := side.neutral + eps.length }
    let s1 := s0.setDisc p sd.n { d with wins := d.wins.erase w, silent := if eps = [] then d.silent + 1 else 0 }
    let s2 := (s1.count (Cnt.ACT_SN_CLEAN p.val sd.n) clean.length).count (Cnt.ACT_SN_COLLIDED p.val sd.n) (eps.length - clean.length)
    let x := s2.tree p
    ok ((s2.setTreeSt p { x with clean := x.clean ++ resp }).rampCheck p)

/-- Slot of any other port that holds a serial number (check 1 of R79). -/
def State.boundElsewhere (s : State) (p : Fin 32) (sn : Nat) : Option (Nat × Nat) :=
  (s.act.slots.find? (fun x => decide (x.1 / 256 ≠ p.val) && x.2.sn == some sn)).map (fun x => (x.1 / 256, x.1 % 256))

/-- Slot of a port that holds a serial number. -/
def State.boundHere (s : State) (p : Fin 32) (sn : Nat) : Option Nat :=
  (s.act.slots.find? (fun x => decide (x.1 / 256 = p.val) && x.2.sn == some sn)).map (fun x => x.1 % 256)

/-- A slot may take a serial number: FREE, not the slot of a GROUP node (R273), and not the slot of a candidate under test with
another number (R97). -/
def State.slotFree (s : State) (p : Fin 32) (i sn : Nat) : Bool :=
  (s.slot p i).state == .free && !s.bit (Win.ONU_KIND (slotKey p i)) &&
    (match (s.tree p).hunt with
      | some h => (match h.test with | some t => decide (t.1 ≠ i) || decide (t.2 = sn) | none => true)
      | none => true)

/-- Slot an admission takes (checks 5 and 6 of R79, R81, R84): the restarted ONU's own, the entry's fixed one, or a free
one, which of them being a free value. -/
def State.slotFor (s : State) (p : Fin 32) (sn : Nat) (old : Option Nat) (auth : Option Auth) : Option Nat :=
  match old with
  | some i => some i
  | none =>
    let fixed := match auth with | some a => a.slot | none => 0xFF
    if fixed < 255 then (if s.slotFree p fixed sn then some fixed else none)
    else
      let l := (List.range 256).filter (fun i => s.slotFree p i sn)
      if l = [] then none else l[Config.pickSlot s.free % l.length]?

/-- A preset forgotten (R81). -/
def State.dropPreset (s : State) (p : Fin 32) (sd slot : Nat) : State :=
  { s with pon := { s.pon with presets := Tab.drop s.pon.presets ((p.val * 2 + sd) * 256 + slot) } }

/-- Both records of a slot cleared when it is admitted with another serial number than the one they hold (R496). -/
def State.pmAdmit (s : State) (k sn : Nat) : State :=
  if Tab.find s.pm.owner k = some sn then s
  else { s with pm := { s.pm with owner := Tab.put (Tab.drop s.pm.owner k) k sn, recs := Tab.drop (Tab.drop s.pm.recs (2 * k)) (2 * k + 1) } }

/-- Admission (R79 check 6, R80): the slot is ASSIGNED and Assign_ONU-ID queued. -/
def State.admitOnu (s : State) (p : Fin 32) (r : CleanResp) (i : Nat) (authIdx : Option Nat) : State :=
  let x := s.tree p
  let s1 := s.setSlot p i { Slot.free with
    state := .assigned, side := r.side, row := r.row, sn := some r.sn, rtdc := r.rtdc, authIdx := authIdx.getD 0xFFFF }
  let s2 := (s1.setTreeSt p { s1.tree p with admitted := x.admitted + 1 }).pmAdmit (slotKey p i) r.sn
  let s3 := s2.queuePloam p r.side bcast (.assignOnuId r.sn i)
  { s3 with free := s3.free + 1 }

/-- A restarted ONU's slot released (R81): EqD, preset and pending grants go, its service ends with no message; its keys
stay. The slot is FREE until the admission takes it again. -/
def State.releaseSlot (s : State) (p : Fin 32) (i : Nat) : State :=
  let x := s.slot p i
  ((s.endService p i false).dropPreset p x.side i).setSlot p i Slot.free

/-- Checks 2 to 6 of R79 for a response whose number is not bound elsewhere; `old` is the slot of a restarted ONU. -/
def State.actAnswer (s : State) (p : Fin 32) (r : CleanResp) (old : Option Nat) : State :=
  let ai := s.authOf p r.side r.sn
  let auth := match ai with | some k => s.act.auth[k]? | none => none
  let drop := fun (s : State) => match old with | some i => s.eraseNode (slotKey p i) | none => s
  if s.bit (Reg.PT_TRACK_CFG.AUTH_MODE p.val) && ai.isNone then
    (((drop s).queuePloam p r.side bcast (.disableSn r.sn false)).inc (Cnt.ACT_SN_UNAUTH p.val r.side)).raise .UNAUTH_ONU (srcPt p)
      (onuAddr p r.side (old.getD 0x3FF) 0)
  else if r.side = 0 ∧ r.row ≠ (match auth with | some a => a.row | none => 2) then (drop s).inc (Cnt.ACT_SN_DEFERRED p.val r.side)
  else if s.rd (Reg.PT_RAMP_CFG.ADMIT_MAX p.val) ≤ (s.tree p).admitted then (drop s).inc (Cnt.ACT_SN_DEFERRED p.val r.side)
  else
    match s.slotFor p r.sn old auth with
    | none => (drop s).inc (Cnt.ACT_SN_NO_SLOT p.val r.side)
    | some i => s.admitOnu p r i ai

/-- SN_RESPONSE (R79 to R84): the Steward takes the tree's oldest CLEAN response. While its firmware is being switched
the response goes unanswered (R531). -/
def execSnResponse (p : Fin 32) (s : State) : Host.Outcome State Fault Refusal :=
  match (s.tree p).clean with
  | [] => ok s
  | r :: t =>
    let s1 := s.setTreeSt p { s.tree p with clean := t }
    if s1.stw.paused then ok (s1.inc (Cnt.ACT_SN_DEFERRED p.val r.side))
    else if !s1.owned p.val then ok s1
    else
      match s1.boundElsewhere p r.sn with
      | some (q, i) => ok ((s1.inc (Cnt.ACT_SN_DUP p.val r.side)).raise .DUP_SERIAL (srcPt p) (onuAddr p r.side i q))
      | none =>
        match s1.boundHere p r.sn with
        | none => ok (s1.actAnswer p r none)
        | some i =>
          if (s1.slot p i).state = .disabled then
            ok ((s1.queuePloam p r.side bcast (.disableSn r.sn false)).inc (Cnt.ACT_SN_UNAUTH p.val r.side))
          else ok ((s1.releaseSlot p i).actAnswer p r (some i))

/-- The ranging burst expected of a slot. -/
def State.rngOf (s : State) (p : Fin 32) (sd slot : Nat) : Option Exp := (s.side p sd).rng.find? (fun e => e.burst.onu = slot)

/-- The ranging burst expected of a slot is over: it leaves the receiver's lists, the loop freezes, and BRST is pulsed after
it (R50, R53). -/
def State.takeRng (s : State) (p : Fin 32) (sd slot : Nat) : State :=
  let x := s.side p sd
  match s.rngOf p sd slot with
  | none => s
  | some e => s.setSide p sd { x with rng := x.rng.erase e, rxq := x.rxq.erase e, rx := if x.cur.isNone then .frozen else x.rx, brst := x.brst + 1 }

/-- The Steward sends Ranging_Time, with Request_Registration and the template's window records for a slot just RANGED (R86,
R526). -/
def State.answerRanging (s : State) (p : Fin 32) (sd slot : Nat) (eqd : Int) : State :=
  let s1 := s.queuePloam p sd slot (.rangingTime eqd)
  if (s.slot p slot).state = .ranged then (s1.queuePloam p sd slot .requestRegistration).provisionRanged p slot else s1

/-- Ranging_Time and what goes with it wait while the Steward's firmware is being switched (R531). -/
def State.sendRangingTime (s : State) (p : Fin 32) (sd slot : Nat) (eqd : Int) : State :=
  if s.stw.paused then { s with stw := { s.stw with rtWait := s.stw.rtWait ++ [slotKey p slot] } }
  else s.answerRanging p sd slot eqd

/-- RANGING_RESPONSE (R56, R86, R89, R93): the offset from P, within the window, gives RTD and EqD of an ASSIGNED ONU, which
becomes RANGED with Ranging_Time and Request_Registration queued; of an ACTIVE one it corrects EqD under the hold of R95,
and a burst of the same map is still counted when it is missed. A shadow takes no action on it (R349). -/
def execRangingResponse (p : Fin 32) (slot : Fin 256) (d : Int) (s : State) : Host.Outcome State Fault Refusal :=
  let i := slot.val
  let x := s.slot p i
  match s.rngOf p x.side i with
  | none => ok s
  | some e =>
    if x.range ≠ .placed ∨ e.wide < d.natAbs then ok s
    else
      let s1 := s.takeRng p x.side i
      if !s.owned p.val then ok s1 else
      match x.state with
      | .assigned =>
        let rtd := x.rtdc + d
        let eqd := s.teqdBits p x.side (s.onuRow p x.side i) - rtd
        let s2 := (s1.setSlot p i { x with state := .ranged, range := .none, tries := 1, eqd := eqd, rtdc := rtd }).inc (Cnt.ACT_RANGE_OK p.val x.side)
        ok (s2.sendRangingTime p x.side i eqd)
      | .active =>
        let s2 := (s1.inc (Cnt.ACT_RANGE_OK p.val x.side)).holdFor p i (x.eqd - d)
        ok (s2.setSlot p i { s2.slot p i with respAt := some e.sfc })
      | _ => ok s1

/-- RANGING_NO_RESPONSE (R87, R93, Table 3-4): counted; a further grant is due, or, with RANGE_TRIES used, an ASSIGNED
slot is freed with ACT_RANGE_FAIL and an ACTIVE one becomes LOST. A shadow takes no action on it (R349). -/
def execRangingNoResponse (p : Fin 32) (slot : Fin 256) (s : State) : Host.Outcome State Fault Refusal :=
  let i := slot.val
  let x := s.slot p i
  if x.range ≠ .placed then ok s
  else if !s.owned p.val then ok (s.takeRng p x.side i)
  else
    let s1 := (s.takeRng p x.side i).inc (Cnt.ACT_RANGE_NO_RESP p.val x.side)
    if x.tries + 1 < s.rangeTries p then ok (s1.setSlot p i { x with range := .due, tries := x.tries + 1 })
    else
      match x.state with
      | .assigned => ok ((s1.freeSlot p i (some .deactivate)).raise .ACT_RANGE_FAIL (srcPt p) (onuAddr p x.side i 0))
      | .active => ok (s1.toLost p i)
      | _ => ok (s1.setSlot p i { x with range := .none })

/-- A Registration taken by the Steward (R88, Table 3-4): of a RANGED slot one that matches its REG_ID, or finds none held,
starts the Key_Control exchange for the first data key, or, with that key in force already, makes the slot ACTIVE; one that
does not match disables the slot. -/
def State.takeRegistration (s : State) (p : Fin 32) (i regId : Nat) : State :=
  let x := s.slot p i
  if x.state ≠ .ranged ∨ x.regOk then s
  else
    let want := match s.act.auth[x.authIdx]? with | some a => a.regId | none => none
    if want.isSome ∧ want ≠ some regId then
      (s.disableSlot p i).raise .UNAUTH_ONU (srcPt p) (onuAddr p x.side i 1)
    else
      let s1 := s.setSlot p i { x with regOk := true }
      if x.keyOk then s1.tryActive p i else s1.queuePloam p x.side i (.keyControl 1 false)

/-- A message waits until the Steward runs (R531). -/
def State.forSteward (s : State) (m : StwMsg) : State := { s with stw := { s.stw with inbox := s.stw.inbox ++ [m] } }

/-- REGISTRATION_RX (R88, R349, R531): a Registration reaches the Steward, or waits while it does not run. -/
def execRegistrationRx (p : Fin 32) (slot : Fin 256) (regId : Nat) (s : State) : Host.Outcome State Fault Refusal :=
  ok (if !s.owned p.val then s
    else if s.stw.paused then s.forSteward (.registration p.val slot.val regId)
    else s.takeRegistration p slot.val regId)

/-- First superframe boundary at least 16 frames ahead (R316). -/
def State.nextActivation (s : State) (p : Fin 32) : Nat := roundUp (s.sfc p + 16) 8

/-- A key report taken by the Steward (R88, R313, R316, R317): it opens the report under KEK, where the ONU has a key it is
derived from (DEDUCED, log entry 146), loads the reported data key into the EMPTY slot of the pair and activates it at a
superframe boundary. While an activation of the pair is pending it takes no report (PAIR_BUSY, R316). -/
def State.takeKeyReport (s : State) (p : Fin 32) (i dk sk : Nat) : State :=
  let node := slotKey p i
  let st := (s.slot p i).state
  let free := [rootOf node 0, rootOf node 1].find? (fun k => (s.root k).state = .empty)
  let busy := (s.root (rootOf node 0)).pend.isSome || (s.root (rootOf node 1)).pend.isSome
  if s.bit Reg.KEY_STATUS.ERASED ∨ ¬ (st = .ranged ∨ st = .active) ∨ busy then s
  else
    match free with
    | none => s
    | some k =>
      let s0 := s.micKey p i 2
      let s1 := s0.setRoot k { Root.empty with state := .loaded, dk := dk, sk := sk, pend := some (s.nextActivation p) }
      s1.setSlot p i { s1.slot p i with keyWait := none }

/-- KEY_REPORT_RX (R88, R349, R531): a key report reaches the Steward, or waits while it does not run. -/
def execKeyReportRx (p : Fin 32) (slot : Fin 256) (dk sk : BitVec 128) (s : State) : Host.Outcome State Fault Refusal :=
  ok (if !s.owned p.val then s
    else if s.stw.paused then s.forSteward (.keyReport p.val slot.val dk.toNat sk.toNat)
    else s.takeKeyReport p slot.val dk.toNat sk.toNat)

/-- The Steward may act on a tree: it runs, and the device owns the tree (R349, R531). -/
def State.stewards (s : State) (p : Fin 32) : Bool := s.owned p.val && !s.stw.paused

/-- KEY_EXCHANGE_TIMEOUT (R88): no valid key report within ACK_WAIT × (ACK_TRIES + 1) frames of the first Key_Control
frees a RANGED slot, once the Steward runs (R531). -/
def execKeyExchangeTimeout (p : Fin 32) (slot : Fin 256) (s : State) : Host.Outcome State Fault Refusal :=
  match (s.slot p slot.val).keyWait with
  | none => ok s
  | some k => ok (if k + s.ackWait p * (s.ackTries p + 1) ≤ s.sfc p ∧ s.stewards p = true then s.dropRanged p slot.val else s)

/-- REGISTRATION_TIMEOUT (R88): a RANGED slot with no Registration is asked again, or, after ACK_TRIES requests, freed
with Deactivate_ONU-ID. -/
def execRegistrationTimeout (p : Fin 32) (slot : Fin 256) (s : State) : Host.Outcome State Fault Refusal :=
  let i := slot.val
  let x := s.slot p i
  if x.state ≠ .ranged ∨ x.regOk ∨ s.stewards p = false then ok s
  else if x.tries < s.ackTries p then
    ok ((s.setSlot p i { x with tries := x.tries + 1 }).queuePloam p x.side i .requestRegistration)
  else ok (s.dropRanged p i)

/-- LOST_WAIT_EXPIRY (Table 3-4). -/
def execLostWaitExpiry (p : Fin 32) (slot : Fin 256) (s : State) : Host.Outcome State Fault Refusal :=
  ok (if (s.slot p slot.val).state = .lost ∧ s.stewards p = true then s.freeSlot p slot.val (some .deactivate) else s)

/-- Effect of a PTn_ACT_CMD command once the Steward takes it (R102, Table 3-4): none on a shadow tree (R349). -/
def State.actCmd (s : State) (p : Fin 32) (op i : Nat) : State :=
  let x := s.slot p i
  if !s.owned p.val then s else
  match op with
  | 1 => s.enterRamp p
  | 2 => if (s.tree p).ramp then s.leaveRamp p else s
  | 3 => if x.state.inService then s.freeSlot p i (some .deactivate) else s
  | 4 =>
    if x.state = .disabled then
      let s1 := s.setSlot p i Slot.free
      match x.sn with
      | some n => s1.queuePloam p x.side bcast (.disableSn n true)
      | none => s1
    else s
  | 5 => if x.state = .disabled then s else s.disableSlot p i
  | _ => s

/-- A write of PTn_ACT_CMD (R102): dropped and denied while CMD_BUSY; else taken at once, or kept until the Steward
resumes. -/
def State.actWrite (s : State) (ag : Agent) (p : Fin 32) (op i : Nat) : State :=
  s.gate ag (Reg.PT_ACT_CMD.addr p.val) (fun s =>
    if (s.tree p).cmd.isSome then s.deny ag .refused (Reg.PT_ACT_CMD.addr p.val) noWin
    else if s.stw.paused then s.setTreeSt p { s.tree p with cmd := some (op, i) }
    else s.actCmd p op i)

/-- RAMP_START (R102, R99). -/
def execRampStart (ag : Agent) (p : Fin 32) (s : State) : Host.Outcome State Fault Refusal := ok (s.actWrite ag p 1 0)

/-- RAMP_STOP (R102, R99). -/
def execRampStop (ag : Agent) (p : Fin 32) (s : State) : Host.Outcome State Fault Refusal := ok (s.actWrite ag p 2 0)

/-- DEACTIVATE (R102): never acts on a FREE or DISABLED slot. -/
def execDeactivate (ag : Agent) (p : Fin 32) (slot : Fin 256) (s : State) : Host.Outcome State Fault Refusal :=
  ok (s.actWrite ag p 3 slot.val)

/-- ENABLE (R102): acts only on a DISABLED slot. -/
def execEnable (ag : Agent) (p : Fin 32) (slot : Fin 256) (s : State) : Host.Outcome State Fault Refusal :=
  ok (s.actWrite ag p 4 slot.val)

/-- DISABLE (R102). -/
def execDisable (ag : Agent) (p : Fin 32) (slot : Fin 256) (s : State) : Host.Outcome State Fault Refusal :=
  ok (s.actWrite ag p 5 slot.val)

/-- RAMP_TIMEOUT (R99): RAMP_MAX seconds in ramp end it with the fault, whose ADDRESS has side bit 0 (DESIGN CHOICE, log entry
172). -/
def execRampTimeout (p : Fin 32) (s : State) : Host.Outcome State Fault Refusal :=
  ok (if (s.tree p).ramp && s.owned p.val then (s.leaveRamp p).raise .RAMP_TIMEOUT (srcPt p) (portAddr p 0 ((256 - s.activeSlots p) * 2 ^ 16)) else s)

/-- Numbers of a list, most frequent first, ties in order of first appearance. -/
def byFrequency (l : List Nat) : List Nat :=
  let ins := fun (acc : List (Nat × Nat)) (x : Nat × Nat) => (acc.takeWhile (fun y => decide (x.1 ≤ y.1))) ++ [x] ++ (acc.dropWhile (fun y => decide (x.1 ≤ y.1)))
  ((l.eraseDups.map (fun o => (l.count o, o))).foldl ins []).map (·.2)

/-- The next candidate's test, to the serial number its slot held at the start of the hunt, or the end of the list (R97). -/
def State.huntNext (s : State) (p : Fin 32) (h : Hunt) : State :=
  match h.cands with
  | [] =>
    let x := s.tree p
    (s.setTreeSt p { x with hunt := none, huntDone := h.side :: x.huntDone }).raise .ROGUE_UNRESOLVED (srcPt p) (portAddr p h.side (h.tested % 256))
  | c :: t =>
    let s1 := s.setTreeSt p { s.tree p with hunt := some { h with cands := t, test := some c, sentAt := none, stray := false, tested := h.tested + 1 } }
    (s1.inc (Cnt.ACT_ROGUE_CANDIDATES p.val h.side)).queuePloam p h.side bcast (.disableSn c.2 false)

/-- The port's STRAY_LIGHT source is severe (R96, R457). -/
def State.straySevere (s : State) (p : Fin 32) : Bool :=
  (Tab.get (fun _ => FilterSt.idle) s.flt.filters (filterKey .STRAY_LIGHT (srcPt p))).severe

/-- ROGUE_HUNT_START (R96, R98): on a severe STRAY_LIGHT source the candidate list of the side its SEVERE message names is
built and the first candidate's test starts. A hunt on the tree, or one already run on the side since the source was cleared,
bars it. -/
def execRogueHuntStart (p : Fin 32) (sd : Side) (s : State) : Host.Outcome State Fault Refusal :=
  let x := s.tree p
  if !s.bit (Reg.PT_TRACK_CFG.ROGUE_EN p.val) || !s.straySevere p || x.severe ≠ some sd.n || x.hunt.isSome || x.huntDone.contains sd.n || s.stw.paused
      || !s.owned p.val then ok s
  else
    let rec_ := x.strays.filter (fun r => r.side = sd.n)
    let names := fun (w : Bool) => byFrequency ((rec_.filter (fun r => r.window == w)).flatMap (·.onus))
    let serves := fun (o : Nat) => decide (o < 256) && (s.slot p o).state.inService && decide ((s.slot p o).side = sd.n)
    let cands := ((((names true ++ names false).eraseDups).filter serves).take 8).map (fun o => (o, ((s.slot p o).sn).getD 0))
    ok (s.huntNext p ⟨sd.n, rec_.any (·.window), rec_.any (fun r => !r.window), cands, none, none, false, 0⟩)

/-- ROGUE_WATCH_END (R97): 16 frames watched. Without stray light the candidate is confirmed and its slot DISABLED;
otherwise it is enabled, its slot freed and the next one tested. A slot that another serial number took before the test began
is left to it (DEDUCED, log entry 149). -/
def execRogueWatchEnd (p : Fin 32) (s : State) : Host.Outcome State Fault Refusal :=
  let x := s.tree p
  match x.hunt with
  | none => ok s
  | some h =>
    match h.test, h.sentAt with
    | some (c, sn), some k =>
      if s.sfc p < k + 17 then ok s
      else if !h.stray then
        let s1 := if (s.slot p c).state = .disabled then s
          else if (s.slot p c).state = .free then s.setSlot p c { Slot.free with state := .disabled, side := h.side, sn := some sn }
          else if (s.slot p c).sn = some sn then s.disableSlot p c else s
        let y := s1.tree p
        ok ((s1.setTreeSt p { y with hunt := none, huntDone := h.side :: y.huntDone }).raise .ROGUE_ONU (srcPt p) (onuAddr p h.side c 0))
      else
        let s1 := s.queuePloam p h.side bcast (.disableSn sn true)
        let s2 := if (s1.slot p c).state.inService && (s1.slot p c).sn == some sn then s1.freeSlot p c none else s1
        ok (s2.huntNext p h)
    | _, _ => ok s

end Sys2Proof.Machine
end

