-- ==== Sys2Proof/Machine/Flags.lean ====
section
/-! DEFINITION. The arithmetic of the ALU classes and their FLAGS (06_journeyman_engines.md Tables 6-2 and 6-4). -/

namespace Sys2Proof.Machine

set_option autoImplicit false

/-- An operation of classes ALU-R and ALU-I, in the order of Table 6-4. -/
inductive AluOp where
  | add | sub | and | or | xor | shl | shr | sar | min | max | cmp | popc | bfx | bfi | movi
deriving DecidableEq, Repr

/-- OP of an ALU operation: its place in Table 6-4 (PRESUMED, log entry 26). -/
def AluOp.n : AluOp → Nat
  | .add => 0 | .sub => 1 | .and => 2 | .or => 3 | .xor => 4 | .shl => 5 | .shr => 6 | .sar => 7 | .min => 8 | .max => 9
  | .cmp => 10 | .popc => 11 | .bfx => 12 | .bfi => 13 | .movi => 14

/-- Position and width of a bit field in IMM[9:0] (PRESUMED: position in bits 4:0, width in bits 9:5, log entry 26). -/
def fieldPos (imm : Nat) : Nat := imm % 32
def fieldWidth (imm : Nat) : Nat := imm / 32 % 32

/-- A bit field is empty or reaches beyond bit 31. -/
def fieldOpen (imm : Nat) : Bool := fieldWidth imm == 0 || decide (32 < fieldPos imm + fieldWidth imm)

/-- Number of ones in a word. -/
def ones (a : Word) : Nat := ((List.range 32).filter (fun i => a.getLsbD i)).length

/-- Lesser and greater of two words under the comparison of Config.minSigned. -/
def lessWord (a b : Word) : Bool := if Config.minSigned then a.slt b else a.ult b

/-- Result of an ALU operation on A and its second operand (Table 6-4); `src` is register B for BFI. -/
def aluVal (op : AluOp) (a b src : Word) (imm : Nat) : Word :=
  match op with
  | .add => a + b
  | .sub | .cmp => a - b
  | .and => a &&& b
  | .or => a ||| b
  | .xor => a ^^^ b
  | .shl => if b.toNat < 32 then a <<< b.toNat else Config.aluOpen 5 a b
  | .shr => if b.toNat < 32 then a >>> b.toNat else Config.aluOpen 6 a b
  | .sar => if b.toNat < 32 then a.sshiftRight b.toNat else Config.aluOpen 7 a b
  | .min => if lessWord a b then a else b
  | .max => if lessWord a b then b else a
  | .popc => BitVec.ofNat 32 (ones a)
  | .bfx => if fieldOpen imm then Config.aluOpen 12 a b else BitVec.ofNat 32 (a.toNat / 2 ^ fieldPos imm % 2 ^ fieldWidth imm)
  | .bfi =>
    if fieldOpen imm then Config.aluOpen 13 a b
    else
      let m := BitVec.ofNat 32 ((2 ^ fieldWidth imm - 1) * 2 ^ fieldPos imm)
      (a &&& ~~~ m) ||| ((src <<< fieldPos imm) &&& m)
  | .movi => b

/-- FLAGS after an ALU operation: Z and N of the result; C the carry of ADD, or the borrow of SUB and CMP (PRESUMED, log
entry 26), V their signed overflow; C and V of the others are free values. -/
def aluFlags (op : AluOp) (a b v : Word) : Flags :=
  match op with
  | .add => ⟨v == 0#32, v.msb, decide (2 ^ 32 ≤ a.toNat + b.toNat), (a.msb == b.msb) && (v.msb != a.msb)⟩
  | .sub | .cmp => ⟨v == 0#32, v.msb, decide (a.toNat < b.toNat), (a.msb != b.msb) && (v.msb != a.msb)⟩
  | _ => ⟨v == 0#32, v.msb, Config.aluC op.n a b, Config.aluV op.n a b⟩

/-- A branch on FLAGS (Table 6-4). -/
inductive Cond where
  | eq | ne | lt | ge | ltu | geu
deriving DecidableEq, Repr

/-- A branch is taken: signed comparisons by N and V, unsigned ones by the borrow in C. -/
def Cond.holds : Cond → Flags → Bool
  | .eq, f => f.z
  | .ne, f => !f.z
  | .lt, f => f.n != f.v
  | .ge, f => f.n == f.v
  | .ltu, f => f.c
  | .geu, f => !f.c

/-- Incremental ones'-complement update of a 16-bit checksum field over the change of a word (Table 6-4). -/
def csumUpdate (old : Nat) (b d : Word) : Nat :=
  let fold := fun (x : Nat) => x % 65536 + x / 65536
  let half := fun (w : Word) => w.toNat % 65536 + w.toNat / 65536
  let x := (65535 - old % 65536) + half (~~~ b) + half d
  65535 - fold (fold (fold x))

end Sys2Proof.Machine
end

