-- ==== Sys2Proof/Machine/Ledger.lean ====
section
/-! DEFINITION. Ledger and exact-match search, entries and epochs (07_ledger_and_exact_match.md R213 to R250) as
operations of the state. -/

namespace Sys2Proof.Machine

set_option autoImplicit false

/-- Source of Ledger. -/
abbrev srcLdg : Source := ⟨.LDG, 0⟩

/-- Source of the exact-match table. -/
abbrev srcExm : Source := ⟨.EXM, 0⟩

/-- A value the spec leaves open, with the counter advanced. -/
def State.fresh (s : State) : Nat × State := (Config.freeValue s.free, { s with free := s.free + 1 })

/-- A Ledger entry by the index of its first row. -/
def State.row (s : State) (i : Nat) : Option LEnt := Tab.get (fun _ => none) s.ldg.rows i

/-- Store or removal of a Ledger entry. -/
def State.setRow (s : State) (i : Nat) (e : Option LEnt) : State :=
  { s with ldg := { s.ldg with rows := Tab.set (fun _ => none) s.ldg.rows i e } }

/-- An exact-match cell. -/
def State.cell (s : State) (i : Nat) : Option Cell := Tab.get (fun _ => none) s.ldg.cells i

/-- Store or removal of a cell. -/
def State.setCell (s : State) (i : Nat) (e : Option Cell) : State :=
  { s with ldg := { s.ldg with cells := Tab.set (fun _ => none) s.ldg.cells i e } }

/-- Width code of a two-bit width field: 3 acts as 0 (Tables 7-13 and 7-15). -/
def widthCode (v : Nat) : Nat := if v = 3 then 0 else v

/-- WIDTH of a bank. -/
def State.bankWidth (s : State) (b : Nat) : Nat := widthCode (s.rd (Reg.LDG_BANK.WIDTH b))

/-- Rows of an entry of a width (R219). -/
def widthRows (w : Nat) : Nat := 2 ^ w

/-- A bank retired by Bellman (R234). -/
def State.bankRetired (s : State) (b : Nat) : Bool := s.flt.isolated .bank b

/-- The valid region a bank belongs to (R223). -/
def State.regionOf (s : State) (b : Nat) : Option Nat :=
  (List.range 16).find? (fun r => s.bit (Reg.LDG_REGION.VALID r) && decide (s.rd (Reg.LDG_REGION.FIRST r) ≤ b)
    && decide (b ≤ s.rd (Reg.LDG_REGION.LAST r)))

/-- Published epoch. -/
def State.published (s : State) : Nat := s.rd Reg.LDG_EPOCH.PUBLISHED

/-- Oldest live epoch. -/
def State.oldest (s : State) : Nat := s.rd Reg.LDG_EPOCH.OLDEST

/-- age(x) (R241). -/
def State.age (s : State) (x : Nat) : Nat := (x + 16 - s.oldest) % 16

/-- Visibility of an entry in an epoch (R241). -/
def State.visible (s : State) (l : Life) (e : Nat) : Bool :=
  decide (s.age l.born ≤ s.age e) && (match l.died with | none => true | some d => decide (s.age e < s.age d))

/-- Staging epoch, if one is staged. -/
def State.staging (s : State) : Option Nat := if s.bit Reg.LDG_EPOCH.STAGING_V then some (s.rd Reg.LDG_EPOCH.STAGING) else none

/-- The last live epoch (R242). -/
def State.lastLive (s : State) : Nat := s.staging.getD s.published

/-- Live epochs (R242), counted. -/
def State.liveCount (s : State) : Nat := s.age s.lastLive + 1

/-- LIVE stored. -/
def State.storeLive (s : State) : State := s.wr Reg.LDG_EPOCH.LIVE s.liveCount

/-- An epoch is DRAINING: live, before the published one, and its retirement sweep not begun (Table 7-3). -/
def State.draining (s : State) (e : Nat) : Bool := decide (s.age e < s.age s.published) && decide (s.ldg.sweep ≠ some e)

/-- A reference taken on an epoch (R170). -/
def State.epochRef (s : State) (e : Nat) : State := s.wr (Reg.LDG_EPOCH_REF.COUNT e) (s.rd (Reg.LDG_EPOCH_REF.COUNT e) + 1)

/-- A reference released (R171). -/
def State.epochUnref (s : State) (e : Nat) : State := s.wr (Reg.LDG_EPOCH_REF.COUNT e) (s.rd (Reg.LDG_EPOCH_REF.COUNT e) - 1)

/-- A profile is VALID with all its words written (R215, log entry 17). -/
def State.profValid (s : State) (p : Nat) : Bool :=
  s.bit (Reg.LDG_PROF_W0.VALID p) && Tab.get (fun _ => 0) s.ldg.profs p == 255

/-- LDG_WIDTH of a profile. -/
def State.profWidth (s : State) (p : Nat) : Nat := widthCode (s.rd (Reg.LDG_PROF_W0.LDG_WIDTH p))

/-- The profile's mask names a bank. -/
def State.profBank (s : State) (p b : Nat) : Bool :=
  if b < 32 then (s.word (Reg.LDG_PROF_BANKS_LO.addr p)).getLsbD b else (s.word (Reg.LDG_PROF_BANKS_HI.addr p)).getLsbD (b - 32)

/-- Default result of a profile. -/
def State.profDefault (s : State) (p : Nat) : Quad :=
  ⟨s.word (Reg.LDG_PROF_DEF0.addr p), s.word (Reg.LDG_PROF_DEF1.addr p), s.word (Reg.LDG_PROF_DEF2.addr p), s.word (Reg.LDG_PROF_DEF3.addr p)⟩

/-- A lookup searches a bank (R221). -/
def State.searched (s : State) (p b : Nat) : Bool :=
  s.profBank p b && decide (s.bankWidth b = s.profWidth p) && !s.bankRetired b

/-- WIDTH_SKIP of a profile: its mask names a bank of another width (R221). -/
def State.widthSkip (s : State) (p : Nat) : Bool :=
  (List.range 64).any (fun b => s.profBank p b && decide (s.bankWidth b ≠ s.profWidth p))

/-- A key zero-padded or cut to a number of bytes (R214). -/
def padKey (n : Nat) (key : List Byte) : List Byte := sliceZ key 0 n

/-- An entry matches a key of its width (R220). -/
def LEnt.matchesKey (e : LEnt) (key : Nat) : Bool := decide ((key ^^^ e.value) &&& e.care = 0)

/-- Matching entries of a lookup, with their indexes rising. -/
def State.ldgMatches (s : State) (p : Nat) (key : List Byte) (epoch : Nat) : List (Nat × LEnt) :=
  let k := beNat (padKey (20 * widthRows (s.profWidth p)) key)
  s.ldg.rows.filterMap (fun x => match x.2 with
    | none => none
    | some e => if s.searched p (x.1 / 1024) && s.visible e.life epoch && e.matchesKey k then some (x.1, e) else none)

/-- The winner of R222: highest priority, lowest index on a tie, and whether two or more share that priority. -/
def winner (l : List (Nat × LEnt)) : Option (Nat × LEnt × Bool) :=
  let top := (l.map (·.2.prio)).foldl max 0
  match l.filter (fun x => decide (x.2.prio = top)) with
  | [] => none
  | [x] => some (x.1, x.2, false)
  | x :: _ :: _ => some (x.1, x.2, true)

/-- Index of an answer that names no entry. -/
abbrev noIndex : Nat := 0xFFFFF

/-- A miss. -/
def missRes (p epoch : Nat) : LRes := ⟨1, noIndex, epoch, 0, p, Quad.zero⟩

/-- What a lookup that finds no entry answers (R215, R218). -/
def State.noEntry (s : State) (p epoch : Nat) : LRes :=
  if s.profValid p && s.bit (Reg.LDG_PROF_W0.DEF_EN p) then ⟨2, noIndex, epoch, 0, p, s.profDefault p⟩ else missRes p epoch

/-- LEDGER_SEARCH (R215 to R222). -/
def State.ldgFind (s : State) (p : Nat) (key : List Byte) (epoch : Nat) : LRes :=
  if !s.profValid p then missRes p epoch
  else
    match winner (s.ldgMatches p key epoch) with
    | none => s.noEntry p epoch
    | some x => ⟨if x.2.2 then 3 else 0, x.1, epoch, x.2.1.prio, p, x.2.1.result⟩

/-- Banks a lookup in a profile searches. -/
def State.banksSearched (s : State) (p : Nat) : Nat :=
  if s.profValid p then ((List.range 64).filter (fun b => s.searched p b)).length else 0

/-- Counters of a lookup (Table 7-18). -/
def State.countLookup (s : State) (r : LRes) (banks : Nat) : State :=
  let s1 := (s.inc (Cnt.LDG_LOOKUPS r.prof)).count (Cnt.LDG_BANKS_SEARCHED r.prof) banks
  match r.status with
  | 0 => s1.inc (Cnt.LDG_HITS r.prof)
  | 1 => s1.inc (Cnt.LDG_MISSES r.prof)
  | 2 => s1.inc (Cnt.LDG_DEFAULTS r.prof)
  | _ => (s1.inc (Cnt.LDG_HITS r.prof)).inc (Cnt.LDG_TIES r.prof)

/-- A row rewritten from its shadow (R232, R233). -/
def State.fixRow (s : State) (row : Nat) : State := (s.inc Cnt.LDG_SCRUB_FIXES).raise .LDG_CELL_FIX srcLdg row

/-- A Ledger lookup with its counters; `upset` is the row whose cells disagreed with its shadow at a winning entry: it
is rewritten and the lookup repeated (R233). -/
def State.ldgLookup (s : State) (p : Nat) (key : List Byte) (epoch : Nat) (upset : Option Nat) : State × LRes :=
  let s1 := match upset with | none => s | some r => s.fixRow r
  let r := s1.ldgFind p key epoch
  (s1.countLookup r (s1.banksSearched p), r)

/-- First cell of the stash (R235). -/
abbrev stashBase : Nat := 524288

/-- Cells of the table. -/
abbrev cellCount : Nat := 532480

/-- Cell of a key in way w (R236). -/
def State.exmCell (s : State) (w table : Nat) (key : List Byte) : Nat :=
  w * 131072 + crc32 (leBytes 4 (s.word (Reg.EXM_SEED.addr w)).toNat ++ [BitVec.ofNat 8 table] ++ key) % 131072

/-- The four cells of a key. -/
def State.exmCells (s : State) (table : Nat) (key : List Byte) : List Nat := (List.range 4).map (fun w => s.exmCell w table key)

/-- EXM_LEN of a profile, none when out of range (Table 7-15). -/
def State.exmLen (s : State) (p : Nat) : Option Nat :=
  let n := s.rd (Reg.LDG_PROF_W0.EXM_LEN p)
  if n = 0 ∨ 32 < n then none else some n

/-- Cells that hold a key of a table, with their indexes rising. -/
def State.keyCells (s : State) (table : Nat) (key : List Byte) : List (Nat × Cell) :=
  s.ldg.cells.filterMap (fun x => match x.2 with
    | none => none
    | some c => if c.table = table ∧ c.key = key then some (x.1, c) else none)

/-- EXM_SEARCH (R215, R218, R237). -/
def State.exmFind (s : State) (p : Nat) (key : List Byte) (epoch : Nat) : LRes :=
  if !s.profValid p then missRes p epoch
  else
    match s.exmLen p with
    | none => missRes p epoch
    | some n =>
      match (s.keyCells (s.rd (Reg.LDG_PROF_W0.EXM_TABLE p)) (padKey n key)).find? (fun x => s.visible x.2.life epoch) with
      | none => s.noEntry p epoch
      | some x => ⟨0, x.1, epoch, 0, p, x.2.result⟩

/-- An ECC error of a cell that was read (R240): corrected, or the cell invalidated. -/
def State.cellEcc (s : State) (i : Nat) (uncorr : Bool) : State :=
  if cellCount ≤ i then s
  else if uncorr then (s.setCell i none).raise .EXM_UNCORR srcExm i
  else (s.inc Cnt.EXM_ECC_CORR).raise .EXM_ECC_CORR srcExm i

/-- Cells read with an error, and whether it is uncorrectable (R240). -/
def State.cellsEcc (s : State) (ecc : List (Nat × Bool)) : State := ecc.foldl (fun s x => s.cellEcc x.1 x.2) s

/-- An exact-match lookup with its counters; `ecc` lists the cells read with an error and whether it is uncorrectable. -/
def State.exmLookup (s : State) (p : Nat) (key : List Byte) (epoch : Nat) (ecc : List (Nat × Bool)) : State × LRes :=
  let s1 := s.cellsEcc ecc
  let r := s1.exmFind p key epoch
  (s1.countLookup r 0, r)

/-! Regions and moves (R223 to R230). -/

/-- Entry positions of a region. -/
def State.regionSize (s : State) (r : Nat) : Nat :=
  (s.rd (Reg.LDG_REGION.LAST r) + 1 - s.rd (Reg.LDG_REGION.FIRST r)) * (1024 / widthRows (s.bankWidth (s.rd (Reg.LDG_REGION.FIRST r))))

/-- Entry index of a position of a region. -/
def State.regionIndex (s : State) (r pos : Nat) : Nat :=
  s.rd (Reg.LDG_REGION.FIRST r) * 1024 + pos * widthRows (s.bankWidth (s.rd (Reg.LDG_REGION.FIRST r)))

/-- Position of an entry index of a region. -/
def State.regionPos (s : State) (r i : Nat) : Nat :=
  (i - s.rd (Reg.LDG_REGION.FIRST r) * 1024) / widthRows (s.bankWidth (s.rd (Reg.LDG_REGION.FIRST r)))

/-- Occupied positions of a region with their priorities, rising. -/
def State.regionUsed (s : State) (r : Nat) : List (Nat × Nat) :=
  s.ldg.rows.filterMap (fun x => match x.2 with
    | none => none
    | some e => if s.regionOf (x.1 / 1024) = some r then some (s.regionPos r x.1, e.prio) else none)

/-- HOLE (R224). -/
def State.hole (s : State) : Nat := 2 ^ max 4 (min 8 (s.rd Reg.LDG_CFG.HOLE_LOG2))

/-- A position is the reserve slot of its group (R224). -/
def State.reserve (s : State) (pos : Nat) : Bool := pos % s.hole == s.hole - 1

/-- Distance of two positions. -/
def posDist (a b : Nat) : Nat := if a ≤ b then b - a else a - b

/-- The nearest position to `i` in a rising list; the lower one on equal distance. -/
def nearest (i : Nat) : List Nat → Option Nat
  | [] => none
  | h :: t => match nearest i t with
    | none => some h
    | some x => if posDist h i ≤ posDist x i then some h else some x

/-- The insertion point of R225. -/
def insPoint (used : List (Nat × Nat)) (prio : Nat) (tail : Bool) : Nat :=
  match used.find? (fun x => if tail then decide (x.2 < prio) else decide (x.2 ≤ prio)) with
  | some x => x.1
  | none => match used.getLast? with | some x => x.1 + 1 | none => 0

/-- The free position an INSERT takes (R225). -/
def State.insHole (s : State) (size i : Nat) (used : List (Nat × Nat)) : Option Nat :=
  let free := (List.range size).filter (fun p => !(used.map (·.1)).contains p)
  match nearest i (free.filter (fun p => !s.reserve p && decide (posDist p i ≤ s.hole))) with
  | some h => some h
  | none => nearest i free

/-- Moves of an INSERT with insertion point `i` and hole `h`, and the position of the new entry (R225). -/
def insMoves (used : List (Nat × Nat)) (i h : Nat) : List (Nat × Nat) × Nat :=
  if i ≤ h then (((used.map (·.1)).filter (fun p => decide (i ≤ p) && decide (p < h))).reverse.map (fun p => (p, p + 1)), i)
  else (((used.map (·.1)).filter (fun p => decide (h < p) && decide (p < i))).map (fun p => (p, p - 1)), i - 1)

/-- One move of an entry: the new position written, the old one invalidated (R226). -/
def State.moveRow (s : State) (src dst : Nat) : State := (s.setRow dst (s.row src)).setRow src none

/-- The next move of the background mover in a region (R229): toward the lowest occupied reserve slot of a group with
no free position, from the free position nearest to it on the way to the nearest free position that is not a reserve
slot (DEDUCED, log entry 18). -/
def State.respread (s : State) (r : Nat) : Option (Nat × Nat) :=
  let used := (s.regionUsed r).map (·.1)
  let n := s.hole
  let free := (List.range (s.regionSize r)).filter (fun p => !used.contains p)
  match used.find? (fun p => s.reserve p && !free.any (fun f => f / n == p / n)) with
  | none => none
  | some p =>
    match nearest p (free.filter (fun f => !s.reserve f)) with
    | none => none
    | some f =>
      match nearest p (free.filter (fun x => if p < f then decide (p < x) && decide (x ≤ f) else decide (x < p) && decide (f ≤ x))) with
      | none => none
      | some h => some (if p < h then (h - 1, h) else (h + 1, h))

/-! Exact-match placement (R238, R239). -/

/-- Displacement paths of length `n` that start at a cell and end at a free one: each step moves the cell's entry to
another of its own rows (R238). A path lists its cells from the first to the free one. -/
def State.pathsFrom (s : State) : Nat → List Nat → List (List Nat)
  | 0, path => match path.getLast? with
    | none => []
    | some i => if (s.cell i).isNone then [path] else []
  | n + 1, path => match path.getLast? with
    | none => []
    | some i =>
      match s.cell i with
      | none => []
      | some c => ((s.exmCells c.table c.key).filter (fun j => !path.contains j)).flatMap (fun j => s.pathsFrom n (path ++ [j]))

/-- The shortest displacement paths of a key, to a depth of 4 rows of cells (R238; DEDUCED, log entry 19). -/
def State.paths (s : State) (table : Nat) (key : List Byte) : List (List Nat) :=
  let own := s.exmCells table key
  let at_ := fun n => own.flatMap (fun i => s.pathsFrom n [i])
  if at_ 0 ≠ [] then at_ 0 else if at_ 1 ≠ [] then at_ 1 else if at_ 2 ≠ [] then at_ 2 else at_ 3

/-- A path followed from its free end: each entry is written in its new cell and invalidated in the old one. -/
def State.displace (s : State) : List Nat → State
  | a :: b :: t =>
    let s1 := s.displace (b :: t)
    ((s1.setCell b (s1.cell a)).setCell a none).inc Cnt.EXM_DISPLACEMENTS
  | _ => s

/-- A place for a key in the ways (R238): the lowest way whose cell is free, else the first cell of a displacement path,
which is followed. -/
def State.wayPlace (s : State) (table : Nat) (key : List Byte) : State × Option Nat :=
  match (s.exmCells table key).find? (fun i => (s.cell i).isNone) with
  | some i => (s, some i)
  | none =>
    let ps := s.paths table key
    match ps[Config.pickPath s.free % ps.length]? with
    | none => (s, none)
    | some path => (({ s with free := s.free + 1 }.displace path), path.head?)

/-- The lowest free stash cell. -/
def State.freeStash (s : State) : Option Nat :=
  let used := (s.ldg.cells.map (·.1)).filter (fun i => decide (stashBase ≤ i))
  let i := nthFree0 (used.map (fun i => i - stashBase)) 0
  if i < 8192 then some (stashBase + i) else none
where
  /-- The first index from `k` on not in a rising list. -/
  nthFree0 : List Nat → Nat → Nat
  | [], k => k
  | h :: t, k => if h = k then nthFree0 t (k + 1) else k

/-- Occupied stash cells. -/
def State.stashUsed (s : State) : Nat := (s.ldg.cells.filter (fun x => decide (stashBase ≤ x.1))).length

/-- Occupied way cells. -/
def State.wayUsed (s : State) : Nat := (s.ldg.cells.filter (fun x => decide (x.1 < stashBase))).length

/-- EXM_STASH_HIGH at most once in each second (R239). -/
def State.stashHigh (s : State) : State :=
  if s.rd Reg.EXM_CFG.STASH_HIGH < s.stashUsed then s.raiseLimited .EXM_STASH_HIGH srcExm s.stashUsed 0 1000000000 else s

/-- One stash entry moved into the ways when a place exists (R239). -/
def State.drainStash (s : State) (i : Nat) : State :=
  match s.cell i with
  | none => s
  | some c =>
    let r := s.wayPlace c.table c.key
    match r.2 with
    | none => s
    | some j => ((r.1.setCell j (some c)).setCell i none).inc Cnt.EXM_STASH_DRAINED

/-! Update commands (R244 to R252). -/

/-- Result codes of Table 7-7. -/
inductive LCode where
  | ok | badArg | full | duplicate | notFound | noStaging | stagingOpen | exhausted | miss
deriving DecidableEq, Repr

/-- CODE of a result. -/
def LCode.n : LCode → Nat
  | .ok => 0 | .badArg => 1 | .full => 2 | .duplicate => 3 | .notFound => 4 | .noStaging => 5 | .stagingOpen => 6
  | .exhausted => 7 | .miss => 8

/-- Completion of a command (R251): CODE and INDEX written, BUSY cleared; the INDEX of a command that names none is a
free value. -/
def State.ldgDone (s : State) (k : Nat) (c : LCode) (i : Option Nat) : State :=
  let s1 := if c = .ok ∨ c = .miss then s else s.inc Cnt.LDG_CMD_REFUSED
  let s2 := (if k = 0 then s1.msi 0 3 else s1).wr (Reg.LDG_CMD_STATUS.CODE k) c.n |>.wr (Reg.LDG_CMD_STATUS.BUSY k) 0
  match i with
  | some i => s2.wr (Reg.LDG_CMD_STATUS.INDEX k) i
  | none => let r := s2.fresh; r.2.wr (Reg.LDG_CMD_STATUS.INDEX k) r.1

/-- A data word of a port (Table 7-6). -/
def State.ldgData (s : State) (k i : Nat) : Word := s.word (if k = 0 then Reg.LDG_CMD_DATA0.addr i else Reg.LDG_CMD_DATA1.addr i)

/-- Address of a data word of a port. -/
def ldgDataAddr (k i : Nat) : Nat := if k = 0 then Reg.LDG_CMD_DATA0.addr i else Reg.LDG_CMD_DATA1.addr i

/-- `n` data words from `i`, as a number, first word highest. -/
def State.ldgNat (s : State) (k i n : Nat) : Nat := (List.range n).foldl (fun a j => a * 2 ^ 32 + (s.ldgData k (i + j)).toNat) 0

/-- The result of the data words. -/
def State.ldgQuad (s : State) (k : Nat) : Quad := ⟨s.ldgData k 40, s.ldgData k 41, s.ldgData k 42, s.ldgData k 43⟩

/-- The first `n` key bytes of the data words. -/
def State.ldgKey (s : State) (k n : Nat) : List Byte := ((List.range 8).flatMap (fun i => beBytes 4 (s.ldgData k i).toNat)).take n

/-- The entry of the data words, of a width, born in an epoch. -/
def State.ldgEnt (s : State) (k w born : Nat) : LEnt :=
  ⟨s.ldgNat k 0 (5 * widthRows w), s.ldgNat k 20 (5 * widthRows w), (s.ldgData k 44).toNat % 65536, ⟨born, none⟩, s.ldgQuad k⟩

/-- Fields of a command word (Table 7-11). -/
abbrev cmdExm (v : Word) : Bool := v.getLsbD 27
abbrev cmdStaged (v : Word) : Bool := v.getLsbD 26
abbrev cmdTail (v : Word) : Bool := v.getLsbD 25
abbrev cmdProf (v : Word) : Nat := (v.extractLsb' 20 5).toNat
abbrev cmdRegion (v : Word) : Nat := (v.extractLsb' 16 4).toNat
abbrev cmdIndex (v : Word) : Nat := (v.extractLsb' 0 16).toNat

/-- Target epoch of a command (R244), none for a staged command with no epoch staged. -/
def State.target (s : State) (v : Word) : Option Nat := if cmdStaged v then s.staging else some s.published

/-- The entry that starts at an index of its bank, at an index aligned to the bank's width. -/
def State.entryAt (s : State) (i : Nat) : Option LEnt := if i % widthRows (s.bankWidth (i / 1024)) = 0 then s.row i else none

/-- WRITE (R230, R244). A retired bank accepts no command: BAD_ARG (DEDUCED, log entry 20). -/
def State.doWrite (s : State) (k : Nat) (v : Word) : State :=
  let i := cmdIndex v
  let b := i / 1024
  match s.target v with
  | none => s.ldgDone k .noStaging none
  | some e =>
    if i % widthRows (s.bankWidth b) ≠ 0 ∨ (s.regionOf b).isSome ∨ s.bankRetired b ∨ (s.row i).isSome then s.ldgDone k .badArg none
    else ((s.setRow i (some (s.ldgEnt k (s.bankWidth b) e))).inc Cnt.LDG_INSERTS).ldgDone k .ok (some i)

/-- An INSERT's end: the new entry written in one write (R226). -/
def State.insFinish (s : State) (j : InsJob) : State :=
  ((s.setRow j.index (some j.ent)).inc Cnt.LDG_INSERTS).ldgDone j.port .ok (some j.index)

/-- INSERT (R225, R234, R244): refused, done at once, or started when entries must move. -/
def State.doInsert (s : State) (k : Nat) (v : Word) : State :=
  let r := cmdRegion v
  match s.target v with
  | none => s.ldgDone k .noStaging none
  | some e =>
    if !s.bit (Reg.LDG_REGION.VALID r) then s.ldgDone k .badArg none
    else if (List.range 64).any (fun b => s.regionOf b == some r && s.bankRetired b) then s.ldgDone k .full none
    else
      let used := s.regionUsed r
      let ent := s.ldgEnt k (s.bankWidth (s.rd (Reg.LDG_REGION.FIRST r))) e
      let i := insPoint used ent.prio (cmdTail v)
      match s.insHole (s.regionSize r) i used with
      | none => s.ldgDone k .full none
      | some h =>
        let m := insMoves used i h
        let j : InsJob := ⟨k, m.1.map (fun x => (s.regionIndex r x.1, s.regionIndex r x.2)), ent, s.regionIndex r m.2⟩
        if j.moves = [] then s.insFinish j else { s with ldg := { s.ldg with job := some (.insert j) } }

/-- The end of an entry's visibility from an epoch on (R244): none when the entry is then visible in no epoch. -/
def State.kill (s : State) (l : Life) (e : Nat) : Option Life :=
  let d := match l.died with | none => e | some d => if s.age e < s.age d then e else d
  if s.age d ≤ s.age l.born then none else some { l with died := some d }

/-- The cell a command on a key names: the one visible in an epoch. -/
def State.keyCell (s : State) (k p e : Nat) : Option (Nat × Cell) :=
  match s.exmLen p with
  | none => none
  | some n => (s.keyCells (s.rd (Reg.LDG_PROF_W0.EXM_TABLE p)) (s.ldgKey k n)).find? (fun x => s.visible x.2.life e)

/-- DELETE (R244). -/
def State.doDelete (s : State) (k : Nat) (v : Word) : State :=
  match s.target v with
  | none => s.ldgDone k .noStaging none
  | some e =>
    if cmdExm v then
      if (s.exmLen (cmdProf v)).isNone then s.ldgDone k .badArg none
      else match s.keyCell k (cmdProf v) e with
        | none => s.ldgDone k .notFound none
        | some x => ((s.setCell x.1 ((s.kill x.2.life e).map (fun l => { x.2 with life := l }))).inc Cnt.LDG_DELETES).ldgDone k .ok (some x.1)
    else
      let i := cmdIndex v
      if i % widthRows (s.bankWidth (i / 1024)) ≠ 0 ∨ s.bankRetired (i / 1024) then s.ldgDone k .badArg none
      else match s.entryAt i with
        | none => s.ldgDone k .notFound none
        | some x =>
          if s.visible x.life e then
            ((s.setRow i ((s.kill x.life e).map (fun l => { x with life := l }))).inc Cnt.LDG_DELETES).ldgDone k .ok (some i)
          else s.ldgDone k .notFound none

/-- MODIFY (R246). -/
def State.doModify (s : State) (k : Nat) (v : Word) : State :=
  let e := s.published
  if cmdStaged v then s.ldgDone k .badArg none
  else if cmdExm v then
    if (s.exmLen (cmdProf v)).isNone then s.ldgDone k .badArg none
    else match s.keyCell k (cmdProf v) e with
      | none => s.ldgDone k .notFound none
      | some x => (s.setCell x.1 (some { x.2 with result := s.ldgQuad k })).ldgDone k .ok (some x.1)
  else
    let i := cmdIndex v
    if i % widthRows (s.bankWidth (i / 1024)) ≠ 0 ∨ s.bankRetired (i / 1024) then s.ldgDone k .badArg none
    else match s.entryAt i with
      | none => s.ldgDone k .notFound none
      | some x => if s.visible x.life e then (s.setRow i (some { x with result := s.ldgQuad k })).ldgDone k .ok (some i) else s.ldgDone k .notFound none

/-- A key is visible in an epoch or a later live one (R245). -/
def State.keyTaken (s : State) (table : Nat) (key : List Byte) (e : Nat) : Bool :=
  (s.keyCells table key).any (fun x => (List.range 16).any (fun y =>
    decide (s.age e ≤ s.age y) && decide (s.age y ≤ s.age s.lastLive) && s.visible x.2.life y))

/-- ADD (R238, R244, R245). -/
def State.doAdd (s : State) (k : Nat) (v : Word) : State :=
  let p := cmdProf v
  match s.target v, s.exmLen p with
  | none, _ => s.ldgDone k .noStaging none
  | _, none => s.ldgDone k .badArg none
  | some e, some n =>
    let table := s.rd (Reg.LDG_PROF_W0.EXM_TABLE p)
    let key := s.ldgKey k n
    let c : Cell := ⟨key, table, ⟨e, none⟩, s.ldgQuad k⟩
    if s.keyTaken table key e then s.ldgDone k .duplicate none
    else
      let r := s.wayPlace table key
      match r.2 with
      | some i => ((r.1.setCell i (some c)).inc Cnt.EXM_ADDS).ldgDone k .ok (some i)
      | none =>
        match s.freeStash with
        | none => s.ldgDone k .full none
        | some i => ((((s.setCell i (some c)).inc Cnt.EXM_ADDS).inc Cnt.EXM_STASH_ADDS).stashHigh).ldgDone k .ok (some i)

/-- The LOOKUP command (R251): a test lookup under the published epoch, its result in data words 40 to 43. Its winning entry
is checked against the shadow like any other's (R233). -/
def State.doLookup (s : State) (k : Nat) (v : Word) (rd : Reads) : State :=
  let p := cmdProf v
  let key := (List.range 20).flatMap (fun i => beBytes 4 (s.ldgData k i).toNat)
  let r := if cmdExm v then s.exmLookup p (key.take 32) s.published rd.ecc else s.ldgLookup p key s.published rd.upset
  if r.2.status = 1 then r.1.ldgDone k .miss (some r.2.index)
  else
    let q := r.2.result
    ((((r.1.putWord (ldgDataAddr k 40) q.a).putWord (ldgDataAddr k 41) q.b).putWord (ldgDataAddr k 42) q.c).putWord (ldgDataAddr k 43) q.d).ldgDone k .ok (some r.2.index)

/-- OPEN (Table 7-3). -/
def State.doOpen (s : State) (k : Nat) : State :=
  if s.bit Reg.LDG_EPOCH.STAGING_V then s.ldgDone k .stagingOpen none
  else if 15 ≤ s.liveCount then s.ldgDone k .exhausted none
  else (((s.wr Reg.LDG_EPOCH.STAGING ((s.published + 1) % 16)).wr Reg.LDG_EPOCH.STAGING_V 1).storeLive).ldgDone k .ok none

/-- PUBLISH (R247). -/
def State.doPublish (s : State) (k : Nat) : State :=
  match s.staging with
  | none => s.ldgDone k .noStaging none
  | some e =>
    let s1 := ((s.wr Reg.LDG_EPOCH.PUBLISHED e).wr Reg.LDG_EPOCH.STAGING_V 0).storeLive
    { s1 with ldg := { s1.ldg with stuck := s1.ldg.stuck.filter (fun x => x ≠ s.published) } }.ldgDone k .ok none

/-- DISCARD (R249): the discard sweep starts and the command stays BUSY. -/
def State.doDiscard (s : State) (k : Nat) : State :=
  match s.staging with
  | none => s.ldgDone k .noStaging none
  | some e =>
    let s1 := ((s.wr Reg.LDG_EPOCH.STAGING_V 0).wr Reg.LDG_EPOCH.SWEEP 1).storeLive
    { s1 with ldg := { s1.ldg with job := some (.discard k e) } }

/-- Operations of Table 7-5. -/
def ldgOp (n : Nat) : Bool := decide (1 ≤ n ∧ n ≤ 6) || decide (8 ≤ n ∧ n ≤ 10)

/-- Execution of a command word, by OP (Table 7-5), with what its reads find (R233, R240). -/
def State.ldgRun (s : State) (k : Nat) (v : Word) (rd : Reads) : State :=
  let t := if cmdExm v then s.cellsEcc rd.ecc else s
  match (v.extractLsb' 28 4).toNat with
  | 1 => s.doWrite k v
  | 2 => s.doInsert k v
  | 3 => t.doDelete k v
  | 4 => t.doModify k v
  | 5 => (s.cellsEcc rd.ecc).doAdd k v
  | 6 => s.doLookup k v rd
  | 8 => s.doOpen k
  | 9 => s.doPublish k
  | 10 => s.doDiscard k
  | _ => s

/-- The oldest epoch's retirement sweep starts when it is due: DRAINING with no reference, and no sweep or command of
several steps under way (R243, R248, R252). -/
def State.retireStart (s : State) : State :=
  let e := s.oldest
  if s.draining e && s.rd (Reg.LDG_EPOCH_REF.COUNT e) == 0 && s.ldg.sweep.isNone && s.ldg.job.isNone then
    let s1 := s.wr Reg.LDG_EPOCH.SWEEP 1
    { s1 with ldg := { s1.ldg with sweep := some e } }
  else s

/-- What follows a command of several steps: a retirement sweep that fell due meanwhile starts (R252), then the other port's
command, which waited, executes (R251). -/
def State.ldgNext (s : State) : State :=
  let s1 := s.retireStart
  match s1.ldg.held with
  | none => s1
  | some x => { s1 with ldg := { s1.ldg with held := none } }.ldgRun x.1 x.2.1 x.2.2

/-- A write of LDG_CMD[k] (R251): dropped while the port is BUSY; an OP outside Table 7-5 is ignored; else BUSY rises and the
command executes, or waits while another executes. -/
def State.ldgIssue (s : State) (ag : Agent) (k : Nat) (v : Word) (rd : Reads) : State :=
  if s.bit (Reg.LDG_CMD_STATUS.BUSY k) then s.deny ag .refused (Reg.LDG_CMD.addr k) noWin
  else if !ldgOp (v.extractLsb' 28 4).toNat then s
  else
    let s1 := s.wr (Reg.LDG_CMD_STATUS.BUSY k) 1
    match s1.ldg.job with
    | some _ => { s1 with ldg := { s1.ldg with held := some (k, v, rd) } }
    | none => s1.ldgRun k v rd

/-- A command row: its word carries the row's OP. -/
def State.ldgCmd (s : State) (ag : Agent) (k : Nat) (op : Nat) (v : Word) (rd : Reads) : State :=
  s.gate ag (Reg.LDG_CMD.addr k) (fun s => s.ldgIssue ag k (BitVec.ofNat 32 (op * 2 ^ 28 + v.toNat % 2 ^ 28)) rd)

/-- Every entry and cell changed by a sweep. -/
def State.sweepAll (s : State) (f : Life → Option Life) : State :=
  { s with ldg := { s.ldg with
      rows := s.ldg.rows.filterMap (fun x => match x.2 with
        | none => none
        | some e => (f e.life).map (fun l => (x.1, some { e with life := l })))
      cells := s.ldg.cells.filterMap (fun x => match x.2 with
        | none => none
        | some c => (f c.life).map (fun l => (x.1, some { c with life := l }))) } }

/-- The discard sweep's effect on an entry (R249). -/
def discardLife (e : Nat) (l : Life) : Option Life :=
  if l.born = e then none else if l.died = some e then some { l with died := none } else some l

/-- The retirement sweep's effect on an entry (R248); `n` is the next live number. -/
def retireLife (x n : Nat) (l : Life) : Option Life :=
  if l.died = some n then none else if l.born = x then some { l with born := n } else some l

end Sys2Proof.Machine
end

