-- ==== Sys2Proof/Machine/Clock.lean ====
section
/-! DEFINITION. Domain time, output time and timestamps (11_time_and_synchronization.md R364 to R378). Times are in units of
2^−48 ns. -/

namespace Sys2Proof.Machine

set_option autoImplicit false

/-- One nanosecond. -/
abbrev fracUnit : Int := 2 ^ 48

/-- A time domain: 0 A, 1 B. -/
def State.dom (s : State) (d : Nat) : Dom := if d = 0 then s.hrl.domA else s.hrl.domB

/-- Update of a domain. -/
def State.setDom (s : State) (d : Nat) (x : Dom) : State :=
  if d = 0 then { s with hrl := { s.hrl with domA := x } } else { s with hrl := { s.hrl with domB := x } }

/-- A PPS input. -/
def State.ppsIn (s : State) (i : Nat) : PpsIn := if i = 0 then s.hrl.in0 else s.hrl.in1

/-- Update of a PPS input. -/
def State.setPpsIn (s : State) (i : Nat) (x : PpsIn) : State :=
  if i = 0 then { s with hrl := { s.hrl with in0 := x } } else { s with hrl := { s.hrl with in1 := x } }

/-- Time of a domain: it advances by 1 + FREQ a nanosecond. -/
def State.domTime (s : State) (d : Nat) : Int := (s.dom d).base + ((s.now : Int) - (s.dom d).since) * (fracUnit + (s.dom d).freq)

/-- FREQ of a domain from the next tick on; the last 256 values and their counts are kept for R368's mean. -/
def State.setFreq (s : State) (d : Nat) (f : Int) : State :=
  let x := s.dom d
  s.setDom d { x with base := s.domTime d, since := s.now, freq := f, hist := (s.now, f) :: x.hist }

/-- Sum of FREQ × time over past values that lie after a count, newest first, and the time it covers. -/
def freqSum (from_ : Nat) : Nat → List (Nat × Int) → Int × Nat
  | _, [] => (0, 0)
  | until_, (t, f) :: l =>
    if until_ ≤ from_ then (0, 0)
    else
      let n := until_ - max t from_
      let r := freqSum from_ t l
      (f * n + r.1, n + r.2)

/-- Mean FREQ over the last HO_AVG seconds (R368). -/
def State.meanFreq (s : State) (d : Nat) : Int :=
  let w := max 1 (s.rd (Reg.HRL_DOM_TMO.HO_AVG d)) * 1000000000
  let r := freqSum (s.now - w) s.now (s.dom d).hist
  if r.2 = 0 then (s.dom d).freq else roundDiv r.1 r.2

/-- The output domain (R372). -/
def State.outSel (s : State) : Nat := s.rd Reg.HRL_CTRL.OUT_SEL

/-- SLEW in ppb (Table 11-6). -/
def State.slew (s : State) : Nat := max 1 (min 50 (s.rd Reg.HRL_SLEW.SLEW))

/-- OFS, which moves toward 0 at SLEW ppb of elapsed time (R373). -/
def State.ofsNow (s : State) : Int :=
  let moved : Int := ((s.now : Int) - s.hrl.ofsAt) * s.slew * fracUnit / 1000000000
  if 0 ≤ s.hrl.ofs then max 0 (s.hrl.ofs - moved) else min 0 (s.hrl.ofs + moved)

/-- The output time (R372). -/
def State.outTime (s : State) : Int := s.domTime s.outSel + s.ofsNow

/-- The four words of a time value (R366): FRAC, NS, SEC_LO, SEC_HI. -/
def timeWords (t : Int) : List Word :=
  let sec := t / (1000000000 * fracUnit)
  let rest := t % (1000000000 * fracUnit)
  [BitVec.ofInt 32 (rest % fracUnit / 2 ^ 32), BitVec.ofInt 32 (rest / fracUnit), BitVec.ofInt 32 sec, BitVec.ofInt 32 (sec / 2 ^ 32)]

/-- Entries of a timestamp record (R378). -/
abbrev tsSize : Nat := 2048

/-- A timestamp enters a record (R378). -/
def State.tsRecord (s : State) (tx : Bool) (r : TsRec) : State :=
  let l := if tx then s.hrl.tsTx else s.hrl.tsRx
  if tsSize ≤ l.length then
    (s.inc Cnt.HRL_TS_OVF).raiseLimited .TS_OVERFLOW ⟨.HRL, 0⟩ (if tx then 1 else 0) (if tx then 1 else 0) 1000000000
  else if tx then ({ s with hrl := { s.hrl with tsTx := l ++ [r] } } : State).inc Cnt.HRL_TS_TX
  else ({ s with hrl := { s.hrl with tsRx := l ++ [r] } } : State).inc Cnt.HRL_TS_RX

/-- A byte of a frame. -/
def frByte (fr : List Byte) (i : Nat) : Nat := (fr.getD i 0#8).toNat

/-- A PTP event message (R377): EtherType 0x88F7 with messageType Sync or Delay_Req. -/
def ptpEvent (fr : List Byte) : Bool := beNat (sliceZ fr 12 2) == 0x88F7 && decide (frByte fr 14 % 16 ≤ 1)

/-- Domain whose DOMNUM a message carries (R377). The header's fields lie as IEEE 1588 lays them out. -/
def State.ptpDom (s : State) (fr : List Byte) : Option Nat :=
  if frByte fr 18 = s.rd Reg.HRL_PTP_CFG.DOMNUM_A then some 0
  else if frByte fr 18 = s.rd Reg.HRL_PTP_CFG.DOMNUM_B then some 1 else none

/-- Timestamp of a message on a lane in a domain (R377): the crossing of the balls, with HRL_ULK_DLY taken out. -/
def State.ptpTime (s : State) (tx : Bool) (n d : Nat) : Int :=
  let dly := s.rdInt (Reg.HRL_ULK_DLY.DLY n) * 2 ^ 44
  if tx then s.domTime d + dly else s.domTime d - dly

/-- PTP_RX_TIMESTAMP and its sending counterpart (R377, R378): a one-step message makes no record. -/
def State.ptpStamp (s : State) (tx : Bool) (n : Nat) (fr : List Byte) (oneStep : Bool) : State :=
  if !ptpEvent fr then s
  else match s.ptpDom fr with
    | none => s.inc Cnt.HRL_TS_NODOM
    | some d => if oneStep then s
      else s.tsRecord tx ⟨n, frByte fr 14 % 16, d, beNat (sliceZ fr 44 2), s.ptpTime tx n d⟩

/-! The line bits of a lane test block's RATE injection (R418). -/

/-- Line bits in 100 µs of the lane whose test block lies at an address (Tables 12-1, 12-12). A PON receive lane is counted at
the rate of the row its ONUs nominally have, 49.7664 Gbit/s on lane 2p and 9.95328 Gbit/s on lane 2p+1 (DESIGN CHOICE, log
entry 140). -/
def lineRate (a : Nat) : Nat :=
  if 0x320000 ≤ a then 10625000
  else if 0x100000 ≤ a then (if a / 0x40 % 2 = 0 then 4976640 else 995328)
  else if 0x70000 ≤ a then 12800000
  else 3200000

/-- The bits a RATE injection has inverted since they were last counted go to INJECTED: one in every 2^INJ_RATE (R418). -/
def State.settleInj (s : State) (a : Nat) : State :=
  match Tab.get (fun _ => none) s.shl.inj a with
  | none => s
  | some t =>
    let step := 100000 * 2 ^ s.rd ⟨a, 16, 6⟩
    let n := (s.now - t) * lineRate a / step
    let s1 : State := { s with shl := { s.shl with inj := Tab.set (fun _ => none) s.shl.inj a (some (t + ceilDiv (n * step) (lineRate a))) } }
    if n = 0 then s else s1.count (a + 0x18) n

/-- A RATE injection counts from its mode's being set. -/
def State.rateFrom (s : State) (a : Nat) : State :=
  let on := s.rd ⟨a, 24, 2⟩ == 3
  let was := Tab.get (fun _ => none) s.shl.inj a
  { s with shl := { s.shl with inj := Tab.set (fun _ => none) s.shl.inj a (if on then some (was.getD s.now) else none) } }

/-- Base of the lane test block whose counters an address lies in. -/
def injBase (a : Nat) : Option Nat :=
  if (0x100000 ≤ a ∧ a < 0x300000 ∧ 0xC00 ≤ a % 0x10000 ∧ a % 0x10000 < 0xD00) ∨ (0x320000 ≤ a ∧ a < 0x338000 ∧ 0x800 ≤ a % 0x1000 ∧ a % 0x1000 < 0x840)
      ∨ (0x62000 ≤ a ∧ a < 0x62400) ∨ (0x78000 ≤ a ∧ a < 0x78400) then some (a - a % 0x40) else none

/-- A read of a lane test block settles its RATE injection. -/
def State.injSeen (s : State) (a : Nat) : State :=
  match injBase a with
  | some b => s.settleInj b
  | none => s

end Sys2Proof.Machine
end

