-- ==== Sys2Proof/Machine/Framing.lean ====
section
/-! DEFINITION. The downstream frame on the line (02_pon_line_framing.md R32, R36, R37; Table 2-1): the PSBd, the start of a
side's frame, and the content bytes between line bits. -/

namespace Sys2Proof.Machine

set_option autoImplicit false

/-- Remainder of a polynomial over two elements, given from its highest bit down, modulo x^12 + x^10 + x^8 + x^5 + x^4 + x^3
+ 1: `n` bits of `v` are left. -/
def hecRem (v : Nat) : Nat → Nat → Nat
  | 0, r => r
  | n + 1, r =>
    let r2 := 2 * r + (if v.testBit n then 1 else 0)
    hecRem v n (if 4096 ≤ r2 then r2 ^^^ 0x1539 else r2)

/-- One bits of a number below 2^`n`. -/
def oneBits (n v : Nat) : Nat := ((List.range n).filter (fun i => v.testBit i)).length

/-- The 13-bit HEC of a 51-bit body (R36): 12 bits of the BCH(63,12) code and a bit of even parity. PRESUMED: the code's
generator is the standards' (log entry 145). -/
def hec13 (body : Nat) : Nat :=
  let b := body % 2 ^ 51
  let w := b * 2 ^ 12 + hecRem (b * 2 ^ 12) 63 0
  w % 2 ^ 12 * 2 + oneBits 63 w % 2

/-- A 51-bit body with its HEC. -/
def withHec (body : Nat) : Nat := body % 2 ^ 51 * 2 ^ 13 + hec13 body

/-- PSync of a side (Table 2-2). -/
def psync (sd : Nat) : Nat := if sd = 0 then Config.psync50 % 2 ^ 64 else 0xC5E51840FD59BB49

/-- The PSBd of a side (R36, Table 2-2), bit 191 sent first. -/
def psbdOf (sd sfc body : Nat) : Nat := psync sd * 2 ^ 128 + withHec sfc * 2 ^ 64 + withHec body

/-- Start of a side's PSBd after the frame tick, in 50G bit periods: the 10G side's at the nearest multiple of 5 (R32). -/
def State.psbdStart (s : State) (p : Fin 32) (sd : Nat) : Int :=
  let o := s.rdInt (Reg.PT_PHASE.OFFSET p.val)
  if sd = 0 then o else 5 * roundDiv o 5

/-- A side is in internal or external loopback, the modes in which the test fields of R37 act. -/
def State.loopback (s : State) (p : Fin 32) (sd : Nat) : Bool :=
  let m := s.rd (if sd = 0 then Reg.PT_ALN_CFG.MODE50 p.val else Reg.PT_ALN_CFG.MODE10 p.val)
  m == 1 || m == 2

/-- Downstream FEC is on (R37). -/
def State.dsFec (s : State) (p : Fin 32) (sd : Nat) : Bool := !(s.loopback p sd && s.bit (Reg.PT_DS_CFG.FEC_OFF p.val))

/-- Downstream scrambling is on (R37). -/
def State.dsScr (s : State) (p : Fin 32) (sd : Nat) : Bool := !(s.loopback p sd && s.bit (Reg.PT_DS_CFG.SCR_OFF p.val))

/-- Frame content bytes of a side besides the PSBd and FEC parity (Table 2-1): 360 codewords of 1,824 bytes less the
PSBd's 24, or 627 of 216; with FEC off every byte of the line after the PSBd (DEDUCED, log entry 14). -/
def frameContent (sd : Nat) (fec : Bool) : Nat :=
  if fec then (if sd = 0 then 656616 else 135432) else (if sd = 0 then 777576 else 155496)

/-- Content bytes before a line bit counted from the start of the PSBd (R129), rounded up. -/
def contentAt (sd : Nat) (fec : Bool) (bit : Nat) : Nat :=
  if !fec then ceilDiv bit 8 - 24
  else if sd = 0 then bit / 17280 * 1824 + min (ceilDiv (bit % 17280) 8) 1824 - 24
  else (bit - 192) / 1984 * 216 + min (ceilDiv ((bit - 192) % 1984) 8) 216

/-- A frame of a side about to be filled: its PSBd and the header, map and PLOAM partition already in it (R36, R38). -/
def State.newFrame (s : State) (p : Fin 32) (sd sfc body : Nat) (m : BwMap) (part : List Ploam) (mics : List Nat) : DsFrame :=
  { sfc := sfc, body := body, map := m, ploam := part, psbd := psbdOf sd sfc body, start := s.psbdStart p sd
    fec := s.dsFec p sd, scr := s.dsScr p sd, mics := mics
    pos := 4 + 8 * m.structs + 48 * part.length, fill := 0, xgem := [] }

end Sys2Proof.Machine
end

