-- ==== Sys2Proof/Machine/Frame.lean ====
section
/-! DEFINITION. Map lock, frame ticks and the third PSBd structure (02_pon_line_framing.md R31 to R40, R46, R47, R62;
01_device_architecture.md R26 to R28; 04_bandwidth_assignment.md R129, R133). -/

namespace Sys2Proof.Machine

set_option autoImplicit false

/-- A tree's twin state. -/
def State.twinTree (s : State) (p : Fin 32) : TwinTree := Tab.get (fun _ => TwinTree.reset) s.twn.trees p.val

/-- Update of a tree's twin state. -/
def State.setTwinTree (s : State) (p : Fin 32) (x : TwinTree) : State :=
  { s with twn := { s.twn with trees := Tab.set (fun _ => TwinTree.reset) s.twn.trees p.val x } }

/-- Samples of R345 accepted in the last 100 ms. -/
def State.deltaCount (s : State) (p : Fin 32) : Nat := ((s.twinTree p).samples.filter (fun x => decide (s.now < x.2 + 100000000))).length

/-- DELTA_VALID (R345). -/
def State.deltaValid (s : State) (p : Fin 32) : Bool := decide (1024 ≤ s.deltaCount p)

/-- A device that shadows a tree (R349). -/
def State.shadow (s : State) (p : Fin 32) : Bool := !s.owned p.val

/-- Update of a record's second under way (R491). -/
def State.pmMod (s : State) (k : Nat) (f : PmAcc → PmAcc) : State :=
  { s with pm := { s.pm with acc := Tab.mod (fun _ => PmAcc.zero) s.pm.acc k f } }

/-- Upstream record of an ONU, and of a port side (Table 15-7). -/
abbrev onuRec (p : Fin 32) (slot : Nat) : Nat := 2 * slotKey p slot
abbrev portRec (p : Fin 32) (sd : Nat) : Nat := 16384 + 4 * p.val + 2 * sd

/-- A burst that is ordinary: every one but ranging, re-ranging and discovery grants (R54, R57). -/
def Burst.ordinary (b : Burst) : Bool :=
  match b.kind with
  | .range | .rerange | .disc => false
  | _ => true

/-- First frame a port sends next. -/
def State.nextFrame (s : State) (p : Fin 32) : Nat := if (s.port p).started then (s.sfc p + 1) % 2 ^ 51 else (s.port p).sfc

/-- Burst_Profile messages of R67 at the lock of frame `n`: each valid entry of the side, in every superframe of a ramp,
else in each whose first frame has SFC[5:0] = 0. None in stage S1 (R508). -/
def State.profileBroadcast (s : State) (p : Fin 32) (sd n : Nat) : State :=
  if n % 8 = 0 ∧ 2 ≤ s.stage ∧ ((s.tree p).ramp = true ∨ n % 64 = 0) then
    ((List.range 16).filter (fun i => decide ((12 ≤ i) = (sd = 1)) && (s.prof p (i / 4) (i % 4)).valid)).foldl
      (fun s i => s.queuePloam p sd bcast (.burstProfile i)) s
  else s

/-- A broadcast Deactivate_ONU-ID. -/
def Ploam.isBdeact (m : Ploam) : Bool := m.onu == bcast && m.body == .deactivate

/-- Frames of the window of rule 9 (Table 4-7, R593): 10 s. -/
abbrev bdeactFrames : Nat := 80000

/-- Rule 9 over a partition (R136, R593): a broadcast deactivation within 10 s of the last sent one goes, unless
BDEACT_UNLOCK admits one. `open_` says the window has expired. -/
def ruleBdeact : Bool → Bool → List Ploam → List Ploam
  | _, _, [] => []
  | open_, unlock, m :: t =>
    if !m.isBdeact then m :: ruleBdeact open_ unlock t
    else if open_ then m :: ruleBdeact false unlock t
    else if unlock then m :: ruleBdeact false false t
    else ruleBdeact open_ unlock t

/-- Rule 9's window of a side has expired at frame `n` (R593). -/
def State.bdeactOpen (s : State) (p : Fin 32) (sd n : Nat) : Bool :=
  match (s.side p sd).bdeact with | none => true | some k => decide (k + bdeactFrames ≤ n)

/-- BDEACT_UNLOCK still admits a message (R136): its bit is 1, and no partition taken and not yet sent holds one it admitted. -/
def State.unlockOpen (s : State) : Bool :=
  s.bit Reg.WHF_ASY_CFG.BDEACT_UNLOCK && !ports.any (fun p => [0, 1].any (fun sd =>
    match (s.side p sd).locked with
    | some l => l.ploam.any Ploam.isBdeact && !s.bdeactOpen p sd l.sfc
    | none => false))

/-- PLOAM_PARTITION_TAKE (R38): up to 8 messages in queue order, after rule 9 of the Assayer, whose repairs name Alloc-ID 0 (R141). -/
def State.takePartition (s : State) (p : Fin 32) (sd n : Nat) : State × List Ploam :=
  let q := s.plq p sd
  let part := ruleBdeact (s.bdeactOpen p sd n) s.unlockOpen (q.queue.take 8)
  let s1 := s.setPlq p sd { q with queue := q.queue.drop 8 }
  let gone := (q.queue.take 8).length - part.length
  (s1.repaired p sd 9 n (List.replicate gone (0, 0)), part)

/-- Half-width of a burst's delimiter window in bits (R54, R56). -/
def State.halfWidth (s : State) (p : Fin 32) (b : Burst) : Nat :=
  if b.ordinary then 16 else 16 * s.rd (Reg.PT_US_CFG.RANGE_WIN p.val)

/-- Predicted first bit of a burst from the start of its frame's PSBd, in bits at its rate (R68, R85). -/
def State.predicted (s : State) (p : Fin 32) (sd : Nat) (b : Burst) : Int :=
  let u : Int := if sd = 0 then upb b.row else 1
  match b.kind with
  | .range => (s.slot p b.onu).rtdc + roundDiv b.start u
  | _ => roundDiv (s.teqdUnits p sd + b.start) u

/-- The bursts of a locked map with their profile entries as they stand (R46, R47): those whose entry is invalid leave
the map. -/
def State.expect (s : State) (p : Fin 32) (sd : Nat) (m : BwMap) : List Exp :=
  (m.bursts.filter (fun b => b.kind != .disc)).map (fun b =>
    let f := s.prof p b.row b.prof
    let i := 4 * b.row + b.prof
    ⟨m.sfc, b, f.pre, f.delim, f.short, f.fec, [Reg.PT_BPROF_W1.addr p.val i, Reg.PT_BPROF_W2.addr p.val i, Reg.PT_BPROF_W3.addr p.val i].map s.word,
      s.predicted p sd b, s.halfWidth p b⟩)

/-- Map of frame `n` at its lock: a shadow, and a new owner until its own builds begin, take the mirrored map first
(R349, R353); then the released one. -/
def State.lockMap (s : State) (p : Fin 32) (sd n : Nat) : Option BwMap :=
  let mirrored := (Tab.get (fun _ => []) s.twn.maps (p.val * 2 + sd)).find? (fun m => m.sfc = n)
  let own := (s.side p sd).buf.find? (fun m => m.sfc = n)
  if s.shadow p || decide (n < (s.twinTree p).ownFrom) then mirrored.orElse (fun _ => own) else own

/-- The bytes of a map that is not in the buffer at its lock are carried at once (R26, R115); its later release finds that
done. -/
def State.carryLate (s : State) (p : Fin 32) (sd n : Nat) : State :=
  let k := p.val * 2 + sd
  s.whf.builds.foldl (fun s b =>
    if b.has k && (b.map k).sfc == n && !b.carried.contains k then
      let t := s.carry p sd (b.map k)
      { t with whf := { t.whf with builds := t.whf.builds.map (fun c => if c = b then { c with carried := k :: c.carried } else c) } }
    else s) s

/-- The map a side locks is its own fallback map (R349, R353), which INFLIGHT takes with its lock (R114). -/
def State.lockFallback (s : State) (p : Fin 32) (sd n : Nat) : Bool :=
  (s.shadow p || decide (n < (s.twinTree p).ownFrom)) &&
    ((Tab.get (fun _ => []) s.twn.maps (p.val * 2 + sd)).find? (fun m => m.sfc = n)).isNone

/-- MAP_LOCK of a side (R26, R38, R39, R47): the map and PLOAM partition of the next frame are taken; with no map in
the buffer only the fixed bursts of the last map sent go out and a pending page swap is deferred (R28). -/
def State.lock (s : State) (p : Fin 32) (sd : Nat) : State :=
  let n := s.nextFrame p
  let found := s.lockMap p sd n
  let s0 := if s.shadow p then s else s.profileBroadcast p sd n
  let sF := match found with | some m => if s.lockFallback p sd n then s0.inflight p m else s0 | none => s0
  let part : State × List Ploam :=
    if s.shadow p then
      (sF, ((Tab.get (fun _ => []) sF.twn.parts (p.val * 2 + sd)).find? (fun x => x.1 = n)).elim [] (fun x => x.2))
    else sF.takePartition p sd n
  let s1 := part.1
  let x := s1.side p sd
  let m0 : BwMap := match found with
    | some m => m
    | none => ⟨n, match x.sent with | some f => f.map.bursts.filter (fun b => b.kind == .fixed) | none => [], []⟩
  let good := fun (b : Burst) => (s1.prof p b.row b.prof).valid
  let m : BwMap := { m0 with bursts := m0.bursts.filter good }
  let late := found.isNone && !s.shadow p
  let s2 := s1.setSide p sd { x with buf := x.buf.filter (fun m => decide (n < m.sfc)), lastLock := some n,
                                     locked := some ⟨n, m, late, part.2, s1.expect p sd m, []⟩ }
  let s3 := { s2 with twn := { s2.twn with maps := Tab.mod (fun _ => []) s2.twn.maps (p.val * 2 + sd) (fun l => l.filter (fun m => decide (n < m.sfc)))
                                           parts := Tab.mod (fun _ => []) s2.twn.parts (p.val * 2 + sd) (fun l => l.filter (fun z => decide (n < z.1))) } }
  if s.shadow p then s3
  else
    let s4 := (s3.count (Cnt.PT_BURSTS_MISSED p.val sd) (m0.bursts.length - m.bursts.length)).count
      (Cnt.PT_BURSTS_GRANTED p.val sd) (m.bursts.filter Burst.ordinary).length
    if late then
      let s5 := (s4.carryLate p sd n).raise .MAP_LATE (srcPt p) (portAddr p sd n)
      if s5.swapOf p = .building n then s5.deferSwap p else s5
    else s4

/-- MAP_LOCK (R26): a side that transmits, or that shadows, locks the next frame, once. -/
def execMapLock (p : Fin 32) (sd : Side) (s : State) : Host.Outcome State Fault Refusal :=
  let done := match (s.side p sd.n).locked with | some l => decide (l.sfc = s.nextFrame p) | none => false
  ok (if done || !(s.txOn p sd.n || (s.shadow p && decide (1 ≤ s.stage))) then s else s.lock p sd.n)

/-- What the leaving of a message does: Deactivate_ONU-ID counted and rule 9's window started (R593, R136), the ranging
grant of R85 due, a new EqD in force and recording started afresh (R93 to R95), the key exchange's wait and a hunt's
watch begun (R88, R97). -/
def State.ploamSent (s : State) (p : Fin 32) (sd n : Nat) (m : Ploam) : State :=
  match m.body with
  | .deactivate =>
    let s1 := s.inc (Cnt.ACT_DEACTIVATIONS p.val sd)
    if m.isBdeact then
      let x := s1.side p sd
      let expired := match x.bdeact with | none => true | some k => decide (k + bdeactFrames ≤ n)
      let s2 := s1.setSide p sd { x with bdeact := some n }
      if expired then s2 else s2.wr Reg.WHF_ASY_CFG.BDEACT_UNLOCK 0
    else s1
  | .assignOnuId _ o =>
    let x := s.slot p o
    if x.state = .assigned ∧ x.range = .none then s.setSlot p o { x with range := .due } else s
  | .rangingTime e =>
    let x := s.slot p m.onu
    if x.state = .active ∧ x.newEqd = some e then s.setSlot p m.onu { x with eqd := e, newEqd := none, hold := false, offs := [] } else s
  | .keyControl _ _ =>
    let x := s.slot p m.onu
    if x.state = .ranged ∧ x.keyOk = false ∧ x.keyWait = none then s.setSlot p m.onu { x with keyWait := some n } else s
  | .disableSn sn false =>
    let t := s.tree p
    match t.hunt with
    | some h => if h.test.map (·.2) = some sn ∧ h.sentAt = none then s.setTreeSt p { t with hunt := some { h with sentAt := some n } } else s
    | none => s
  | _ => s

/-- Key of the packets a downstream fixed run is sending. -/
def runKey (p : Fin 32) (sd ctx : Nat) : Nat := 4096 + (p.val * 2 + sd) * 65536 + ctx

/-- Update of the frame a side is sending. -/
def State.modSent (s : State) (p : Fin 32) (sd : Nat) (f : DsFrame → DsFrame) : State :=
  let x := s.side p sd
  s.setSide p sd { x with sent := x.sent.map f }

/-- Idle XGEM fill up to a content byte (R13, R129). -/
def State.fillTo (s : State) (p : Fin 32) (sd stop : Nat) : State :=
  s.modSent p sd (fun f => { f with pos := max f.pos stop, fill := f.fill + (stop - f.pos) })

/-- One XGEM frame of `n` payload bytes of the packet at the front of a key, at content byte `pos` (R38, R307): sent, the
packet's reference released with its last piece; or the packet dropped at the cipher. -/
def State.sendPiece (s : State) (p : Fin 32) (sd key sfc pos n : Nat) (o : Out) (t : List Out) : State :=
  let put := fun (s : State) (l : List Out) => ({ s with cpg := { s.cpg with egress := Tab.set (fun _ => []) s.cpg.egress key l } } : State)
  let r := s.cipherPiece sfc ((pos + 8) / 4) o n
  match r.2 with
  | none => (put r.1 t).unref o.d.handle
  | some x =>
    let last := decide (o.bytes.length ≤ o.sent + n)
    let s1 := (put r.1 (if last then t else { o with sent := o.sent + n } :: t)).modSent p sd (fun f =>
      { f with pos := pos + 8 + roundUp n 4, xgem := f.xgem ++ [⟨(pos + 8) / 4, o.d.xctx, x.1, last, x.2⟩] })
    if last then s1.unref o.d.handle else s1

/-- XGEM service of a key's packets from where the frame stands: frames start before content byte `stop` and none passes
`fin`, at which a packet is fragmented; with no packet, or no room for a word of payload, idle fill (R13, R38). -/
def State.serveSpan (s : State) (p : Fin 32) (sd key sfc stop fin : Nat) : Nat → State
  | 0 => s
  | fuel + 1 =>
    match (s.side p sd).sent with
    | none => s
    | some f =>
      if stop ≤ f.pos then s
      else
        match s.egressOf key with
        | [] => s.fillTo p sd stop
        | o :: t =>
          let left := o.bytes.length - o.sent
          if f.pos + 8 + roundUp left 4 ≤ fin then (s.sendPiece p sd key sfc f.pos left o t).serveSpan p sd key sfc stop fin fuel
          else if fin < f.pos + 12 then s.fillTo p sd fin
          else (s.sendPiece p sd key sfc f.pos ((fin - f.pos - 8) / 4 * 4) o t).serveSpan p sd key sfc stop fin fuel

/-- Head packets of a queue taken to the cipher stage of a run until `n` bytes are ready or it is empty. -/
def State.drainQueue (s : State) (p : Fin 32) (sd q key : Nat) : Nat → Nat → State
  | 0, _ => s
  | fuel + 1, n =>
    if n = 0 then s
    else
      let r := s.takeHead q
      match r.2 with
      | none => s
      | some k =>
        let c := r.1.cipherPkt p sd k.d none
        match c.2 with
        | none => c.1.drainQueue p sd q key fuel n
        | some o => (c.1.toEgress key o).drainQueue p sd q key fuel (n - o.bytes.length)

/-- The FIXED queue of a tree bound to a run's context, in service unless its node is PAUSED or DOWN (R273). -/
def State.runQueue (s : State) (p : Fin 32) (ctx : Nat) : Option Nat :=
  ((List.range 2048).map (fun i => p.val * 2048 + i)).find? (fun q =>
    s.bit (Win.Q_FIXED q) && s.rd (Win.Q_BIND_CTX q) == ctx && s.nodeState (q / 8) == .run)

/-- Packets a key can send in one frame, and the fill. -/
def State.serveFuel (s : State) (key : Nat) : Nat := (s.egressOf key).length + 2

/-- FIXED_RUN_SERVE (R129): other frames are sent up to the first XGEM boundary at or after the run's first line bit; from there
to the end of its span the run sends only its context's queue, and idle fill. -/
def State.serveRun (s : State) (p : Fin 32) (sd sfc total : Nat) (fec : Bool) (r : Run) : State :=
  let a := min total (contentAt sd fec (r.first * slotUnits sd))
  let b := min total (contentAt sd fec ((r.first + r.len) * slotUnits sd))
  let base := p.val * 2 + sd
  let key := runKey p sd r.key
  let s1 := s.serveSpan p sd base sfc a total (s.serveFuel base)
  let s2 := match s1.runQueue p r.key with
    | none => s1
    | some q => s1.drainQueue p sd q key (s1.queue q).count ((b - a) - ((s1.egressOf key).map (fun (o : Out) => o.bytes.length - o.sent)).sum)
  s2.serveSpan p sd key sfc b b (s2.serveFuel key)

/-- XGEM service of the frame a side has begun (R38, R129): the runs of its page in the order of their slots, and the egress
buffer before, between and after them. No payload is sent up to SFC_SEEN + 1 after a takeover (R323). -/
def State.serveFrame (s : State) (p : Fin 32) (sd n : Nat) : State :=
  let fec := s.dsFec p sd
  let total := frameContent sd fec
  if (match (s.twinTree p).seen with | some k => decide (n ≤ k + 1) | none => false) then s.fillTo p sd total
  else
    let s1 := (s.dnRuns p (s.activePage p) sd n).foldl (fun s r => s.serveRun p sd n total fec r) s
    s1.serveSpan p sd (p.val * 2 + sd) n total total (s1.serveFuel (p.val * 2 + sd))

/-- Idle XGEM frames of a sent frame (R13): none when payload fills it, else at least one. -/
def State.idleSent (s : State) (p : Fin 32) (sd idle : Nat) : Nat :=
  match (s.side p sd).sent with
  | some f => if f.fill = 0 then 0 else max 1 idle
  | none => 0

/-- Arrival of a burst, in units of its side's time line counted on from frame to frame. -/
def Exp.arrival (e : Exp) (sd : Nat) : Int := e.sfc * frameLen sd + e.predicted * (if sd = 0 then upb e.burst.row else 1)

/-- Insertion of an expected burst in order of arrival (R50). -/
def insertExp (sd : Nat) (e : Exp) : List Exp → List Exp
  | [] => [e]
  | x :: t => if e.arrival sd < x.arrival sd then e :: x :: t else x :: insertExp sd e t

/-- Spans of a sent map at the receiver: each burst from its predicted start to its predicted last bit, and its quiet
windows (R60, R72); those of the last 16 frames are kept. -/
def PonSide.addSpans (x : PonSide) (sd : Nat) (teqd : Int) (m : BwMap) : List RxSpan :=
  let base : Int := m.sfc * frameLen sd + teqd
  let l := (m.bursts.filter (fun b => b.kind != .disc)).map (fun b => (⟨b.onu, b.kind == .fixed, base + b.start, base + b.start + b.len⟩ : RxSpan))
  let q := m.quiet.map (fun w => (⟨1024, false, base + w.1, base + w.2⟩ : RxSpan))
  x.spans.filter (fun w => decide (((m.sfc : Int) - 16) * frameLen sd < w.b)) ++ l ++ q

/-- Expected bursts handed to the receiver in order of arrival (R50), ordinary and ranging ones, with the frame of R61. -/
def PonSide.expectFrame (x : PonSide) (sd n : Nat) (es : List Exp) : PonSide :=
  let o := es.filter (fun e => e.burst.ordinary)
  { x with rxq := es.foldl (fun l e => insertExp sd e l) x.rxq, rng := x.rng ++ es.filter (fun e => !e.burst.ordinary),
           ordFrames := if o = [] then x.ordFrames else x.ordFrames ++ [(n, o.length, false)] }

/-- Content of a downstream PLOAM message, as the standards lay it out: the spec does not repeat the layout. -/
def Ploam.content (m : Ploam) : List Byte :=
  match m.body with
  | .assignOnuId sn o => Config.ploamContent m.onu m.body.code m.seq sn o
  | .rangingTime e => Config.ploamContent m.onu m.body.code m.seq (intBits 32 e) 0
  | .deactivate => Config.ploamContent m.onu m.body.code m.seq 0 0
  | .disableSn sn en => Config.ploamContent m.onu m.body.code m.seq sn (if en then 1 else 0)
  | .requestRegistration => Config.ploamContent m.onu m.body.code m.seq 0 0
  | .burstProfile i => Config.ploamContent m.onu m.body.code m.seq i 0
  | .keyControl i c => Config.ploamContent m.onu m.body.code m.seq i (if c then 1 else 0)
  | .other t => Config.ploamContent m.onu m.body.code m.seq t 0

/-- A quiet span of R72 opens in the frame being sent: the loops start from neutral (R392). The span opens with the frame's
tick, which begins it (DESIGN CHOICE, log entry 150). -/
def State.openQuiet (s : State) (p : Fin 32) (sd n : Nat) : State :=
  let fl : Int := frameLen sd
  let t := s.teqdUnits p sd
  let x := s.side p sd
  if x.rx ≠ .continuous ∧ (s.quietIn p sd n).any (fun w => decide (0 ≤ w.1 + t) && decide (w.1 + t < fl)) = true then
    s.setSide p sd { x with rx := .quiet, neutral := x.neutral + 1 }
  else s

/-- The wide windows of R353 begin with the first frame sent after the takeover; a frame with no ordinary burst is one in which
none was found. -/
def State.wideSent (s : State) (p : Fin 32) (sd n : Nat) (empty : Bool) : State :=
  let x := s.side p sd
  if x.wide = 0 then s
  else if empty then (s.setSide p sd { x with wide := x.wide - 1, wideFrom := some (x.wideFrom.getD n) }).inc Cnt.TWN_WIDE_EMPTY
  else s.setSide p sd { x with wideFrom := some (x.wideFrom.getD n) }

/-- A locked frame sent (R13, R32, R36 to R39, R66, R310, R353); a window whose grant the map does not carry does not open. -/
def State.sendFrame (s : State) (p : Fin 32) (sd idle : Nat) (l : Locked) : State :=
  let n := l.sfc
  let x := s.side p sd
  let y := x.expectFrame sd n l.exps
  let cost := ((l.map.bursts.map (fun b => (b.grants.map (fun g => s.grantCost p g.idx g.g)).sum))).sum
  let mics := l.ploam.map (fun m => s.mic p m.onu 0 false m.content)
  let s1 := s.setSide p sd { y with sending := true, locked := none, body := x.commit
                                    sent := some (s.newFrame p sd n x.commit l.map l.ploam mics)
                                    spans := x.addSpans sd (s.teqdUnits p sd) l.map, costs := ((n, cost) :: x.costs).take 16 }
  let s2 := s1.inc (Cnt.PT_DS_FRAMES p.val sd)
  let s3 := if l.late then s2.inc (Cnt.PT_MAP_LATE p.val sd) else s2
  let windows := (l.map.bursts.filter (fun b => b.kind == .disc)).length
  let d := s3.disc p sd
  let s4 := (if windows = 0 then s3.setDisc p sd { d with wins := d.wins.filter (fun w => w.1 ≠ n) } else s3).count
    (Cnt.ACT_DISC_WINDOWS p.val sd) windows
  let s5 := l.ploam.foldl (fun s m =>
    let t := (s.ploamSent p sd n m).micKey p m.onu 0
    if l.acked.contains m then t else t.awaitAck p sd n m) s4
  let s6 := ((s5.openQuiet p sd n).wideSent p sd n (!l.exps.any (fun e => e.burst.ordinary))).serveFrame p sd n
  s6.count (Cnt.PT_DS_IDLE_XGEM p.val sd) (s6.idleSent p sd idle)

/-- FRAME_NOT_SENT (R40, R115): the locked map is carried, its windows do not open, and its messages are lost, those
that want an Acknowledge being treated as sent in the frame. -/
def State.loseFrame (s : State) (p : Fin 32) (sd : Nat) (l : Locked) : State :=
  let x := s.side p sd
  let s1 := (s.setSide p sd { x with sending := false, locked := none }).carry p sd l.map
  let d := s1.disc p sd
  let s2 := s1.setDisc p sd { d with wins := d.wins.filter (fun w => w.1 ≠ l.sfc) }
  l.ploam.foldl (fun s m => if l.acked.contains m then s else s.awaitAck p sd l.sfc m) s2

/-- A map released for a frame the dark side does not send is carried (R115). -/
def State.dropUnsent (s : State) (p : Fin 32) (sd n : Nat) : State :=
  let x := s.side p sd
  let s1 := (x.buf.filter (fun m => decide (m.sfc ≤ n))).foldl (fun s m => s.carry p sd m) s
  let d := s1.disc p sd
  (s1.setSide p sd { s1.side p sd with sending := false, buf := x.buf.filter (fun m => decide (n < m.sfc)) }).setDisc p sd
    { d with wins := d.wins.filter (fun w => w.1 ≠ n) }

/-- A takeover has lit the tree less than 10 µs ago: the frame is lost (R354). -/
def State.tooEarly (s : State) (p : Fin 32) : Bool :=
  match (s.twinTree p).lit with
  | some t => decide (s.now < t + 10000)
  | none => false

/-- One side at the tick of frame `n`. A side that lights with no frame locked takes its map and partition at the tick
(R40); a shadow's receivers follow the mirrored map (R349). -/
def State.tickSide (s : State) (p : Fin 32) (sd n idle : Nat) : State :=
  let x := s.side p sd
  let here := match x.locked with | some l => decide (l.sfc = n) | none => false
  if s.shadow p then
    match x.locked with
    | some l => if l.sfc = n then
        s.setSide p sd { (x.expectFrame sd n l.exps) with
          sending := false, locked := none, sent := some (s.newFrame p sd n x.commit l.map l.ploam []), body := x.commit
          spans := x.addSpans sd (s.teqdUnits p sd) l.map }
      else s
    | none => s
  else if s.txAllowed p sd && s.tooEarly p then
    let s1 := (s.inc Cnt.TWN_LOST_FRAMES).putWord (Reg.TWN_LAST_W2.addr) (BitVec.ofNat 32 n)
    match x.locked with
    | some l => if here then s1.loseFrame p sd l else s1.dropUnsent p sd n
    | none => s1.dropUnsent p sd n
  else if s.txOn p sd then
    match (s.side p sd).locked with
    | some l => if l.sfc = n then s.sendFrame p sd idle l else s
    | none => s
  else
    match x.locked with
    | some l => if here then s.loseFrame p sd l else s.dropUnsent p sd n
    | none => s.dropUnsent p sd n

/-- A missing lock made good at the tick (R40). -/
def State.lockAtTick (s : State) (p : Fin 32) (sd n : Nat) : State :=
  if s.txOn p sd && !s.tooEarly p && (match (s.side p sd).locked with | some l => decide (l.sfc ≠ n) | none => true) then s.lock p sd else s

/-- Keys that become ACTIVE at the tick (R316), and the slots whose first data key is then in force (R88). -/
def State.keysAtTick (s : State) (p : Fin 32) : State :=
  let due := s.keys.roots.filter (fun x => decide (x.1 / 512 = p.val) && (match x.2.pend with | some a => decide (a ≤ s.sfc p) | none => false))
  due.foldl (fun s x =>
    let i := x.1 / 2 % 256
    let y := s.slot p i
    if y.state = .ranged ∧ y.keyOk = false ∧ s.owned p.val = true then (s.setSlot p i { y with keyOk := true }).tryActive p i else s) (s.activateAtTick p)

/-- Admission count and slots that left ACTIVE start again at frames whose SFC is a multiple of 80 (R80). -/
def State.intervalAtTick (s : State) (p : Fin 32) : State :=
  if s.sfc p % 80 = 0 then s.setTreeSt p { s.tree p with admitted := 0, left := 0 } else s

/-- R126's 64 frames and R341's 16 frames run down, ramp state and key usage are mirrored (R322), and RAMP's hold of R95 queues Ranging_Time
once the first held frame is locked. -/
def State.framesAtTick (s : State) (p : Fin 32) : State :=
  let s1 := s.whf.alloc.foldl (fun s x => if x.1 / 1024 = p.val ∧ x.2.under ≠ 0 then s.setAlloc p (x.1 % 1024) { x.2 with under := x.2.under - 1 } else s) s
  let t := s1.twinTree p
  let s2 := if t.gap = 0 then s1 else s1.setTwinTree p { t with gap := t.gap - 1 }
  let s3 := s2.mirror 5 p 0xFF 0x100
  (s3.keys.roots.filter (fun x => decide (x.1 / 512 = p.val))).foldl (fun s x => s.mirrorKey x.1) s3

/-- Ranging_Time of each held ACTIVE slot queued once the first held frame has been locked (R95). -/
def State.queueHeld (s : State) (p : Fin 32) (sd n : Nat) : State :=
  (List.range 256).foldl (fun s i =>
    let x := s.slot p i
    match x.newEqd with
    | some e =>
      if s.owned p.val ∧ x.state = .active ∧ x.side = sd ∧ x.hold ∧ x.holdFrom ≤ n ∧ ¬ (s.plq p sd).queue.any (fun m => m.onu = i ∧ m.body = .rangingTime e)
          ∧ ¬ s.stw.rtWait.contains (slotKey p i) ∧ x.holdFrom = n
      then s.sendRangingTime p sd i e else s
    | none => s) s

/-- Fixed transmit delay of a PON lane (R382), in 2^−48 ns. -/
abbrev laneDelay (p : Nat) : Int := (Config.laneDelay p : Int)

/-- T_send of frame `n` of a port (R382). -/
def State.tSend (s : State) (p : Fin 32) (n : Nat) : Int :=
  let x := s.port p
  let y := s.rdInt Reg.HRL_PON_FREQ.Y
  let frames : Int := n - x.sfc
  x.tick + frames * 125000 * fracUnit + roundDiv (frames * 125000 * fracUnit * y) (256 * 1000000000)
    + roundDiv (s.rdInt (Reg.PT_PHASE.OFFSET p.val) * 10000 * fracUnit) 497664 + s.rdInt (Reg.HRL_PON_DLY.DLY p.val) * 2 ^ 44 + laneDelay p.val

/-- An event that asks for announcements on some ports (R383): one whose frame has not begun is recomputed, a node whose last
one has gone out is due another. -/
def State.reannounce (s : State) (ps : List (Fin 32)) : State :=
  { s with hrl := { s.hrl with ann := s.hrl.ann.filterMap (fun x =>
      let p : Fin 32 := Fin.ofNat 32 (x.1 / 256)
      if !ps.contains p then some x
      else if s.sfc p < x.2.2.1 then some (x.1, x.2.1, x.2.2.1, s.tSend p x.2.2.1) else none) } }

/-- AUTO_PHASE_WRITE (R346): a shadow tree's phase follows DELTA and τ, when it differs by 2 or more. -/
def State.autoPhase (s : State) (p : Fin 32) : State :=
  if s.shadow p && s.bit Reg.TWN_CFG.AUTO_PHASE && s.deltaValid p then
    let d := s.rdInt (Reg.TWN_PORT_W0.DELTA p.val) + s.rdInt Reg.TWN_TAU.TAU
    let v := roundDiv ((s.twinTree p).offO * 10000000 - d * 497664) 10000000
    if 2 ≤ Int.natAbs (v - s.rdInt (Reg.PT_PHASE.OFFSET p.val)) then s.wr (Reg.PT_PHASE.OFFSET p.val) (intBits 24 v) else s
  else s

/-- A frame locked before safe state is lost (R40). -/
def State.loseLocked (s : State) (p : Fin 32) (sd : Nat) : State :=
  match (s.side p sd).locked with
  | some l => s.loseFrame p sd l
  | none => s

/-- FRAME_TICK (R32 to R40, R80, R99, R133, R315): the port's next frame begins on both sides. `idle50` and `idle10` are the
idle XGEM frames its fill is cut into. Before stage S1 a port sends none (R506); in safe state the framers are stopped
(Table 14-9), and a frame locked before is lost (R40). -/
def execFrameTick (p : Fin 32) (idle50 idle10 : Nat) (s : State) : Host.Outcome State Fault Refusal :=
  if s.stage = 0 then ok s
  else if s.flt.safe then ok ((s.loseLocked p 0).loseLocked p 1)
  else
    let n := s.nextFrame p
    let a := (s.lockAtTick p 0 n).lockAtTick p 1 n
    let b := (a.setPort p { a.port p with sfc := n, started := true, phase := none, tick := a.outTime }).autoPhase p
    let c := (b.swapAtTick p).keysAtTick p
    let d := (c.tickSide p 0 n idle50).tickSide p 1 n idle10
    let e := (d.intervalAtTick p).framesAtTick p
    let f := if e.txOn p 0 ∨ e.txOn p 1 then (if e.tooEarly p then e else e.setTwinTree p { e.twinTree p with lit := none }) else e
    ok (((f.queueHeld p 0 (n + 1)).queueHeld p 1 (n + 1)).rampCheck p)

/-- PHASE_OFFSET_WRITE (R33): with both lasers off the offset takes effect at the next tick; else the write is dropped
with PHASE_REFUSED. Announcements of the port follow (R383). -/
def execPhaseOffsetWrite (ag : Agent) (p : Fin 32) (v : Word) (s : State) : Host.Outcome State Fault Refusal :=
  ok (s.gate ag (Reg.PT_PHASE.addr p.val) (fun s =>
    if s.txOn p 0 || s.txOn p 1 then s.wr (Reg.PT_US_STATUS.PHASE_REFUSED p.val) 1
    else
      let s1 := s.storeWord ag (Reg.PT_PHASE.addr p.val) v
      ((s1.setPort p { s1.port p with phase := some (s1.rd (Reg.PT_PHASE.OFFSET p.val)) }).reannounce [p]).mirror 6 p 0xFF 4))

/-- DS_ENABLE_WRITE (R40): a side enabled transmits from the next tick; one disabled is dark at once, and its GROUP nodes are
flushed (R274). An isolated port keeps both bits at 0 (R460). -/
def execDsEnableWrite (ag : Agent) (p : Fin 32) (v : Word) (s : State) : Host.Outcome State Fault Refusal :=
  ok (s.gate ag (Reg.PT_DS_CFG.addr p.val) (fun s =>
    let s1 := s.storeWord ag (Reg.PT_DS_CFG.addr p.val) (if s.flt.isolated .port p.val then v &&& 0x3FFFFFFF#32 else v)
    let off := fun (s : State) (sd : Nat) => if s.txOn p sd then s else s.setSide p sd { s.side p sd with sending := false }
    let group := fun (t : State) (sd : Nat) => if s.sideEn p sd && !t.sideEn p sd then t.flushGroups p sd else t
    ((group (group (off (off s1 0) 1) 0) 1).mirror 6 p 0xFF 0).rampCheck p))

/-- OCB_COMMIT (R62): a write of the HI word commits the body with the LO word as last written; it is sent from the next
frame that starts. -/
def execOcbCommit (ag : Agent) (p : Fin 32) (sd : Side) (v : Word) (s : State) : Host.Outcome State Fault Refusal :=
  let a := if sd.n = 0 then Reg.PT_OCB_HI.addr p.val else Reg.PT_PID_HI.addr p.val
  ok (s.gate ag a (fun s =>
    let s1 := s.storeWord ag a v
    let body := if sd.n = 0 then s1.rd (Reg.PT_OCB_HI.OC p.val) * 2 ^ 32 + s1.rd (Reg.PT_OCB_LO.OC p.val)
      else s1.rd (Reg.PT_PID_HI.PID p.val) * 2 ^ 32 + s1.rd (Reg.PT_PID_LO.PID p.val)
    (s1.setSide p sd.n { s1.side p sd.n with commit := body }).mirror 6 p sd.n 0x10))

end Sys2Proof.Machine
end

