-- ==== Sys2Proof/Machine/Pace.lean ====
section
/-! DEFINITION. Pace meters, SUSTAIN and ingress admission (01_device_architecture.md R18 to R24,
05_forwarding_pipeline.md R150 to R156). -/

namespace Sys2Proof.Machine

set_option autoImplicit false

/-- Source of a guild. -/
abbrev srcGld (g : Nat) : Source := ⟨.GLD, g⟩

/-- Guild states of Table 6-9. -/
inductive GuildState where
  | run | drain | switch | check | off
deriving DecidableEq, Repr

/-- STATE code of Table 6-12. -/
def GuildState.code : GuildState → Nat
  | .run => 0 | .drain => 1 | .switch => 2 | .check => 3 | .off => 5

/-- State of a guild; a code of no state reads as OFF. -/
def State.guildState (s : State) (g : Nat) : GuildState :=
  match s.rd (Reg.GLD_STATE.STATE g) with
  | 0 => .run | 1 => .drain | 2 => .switch | 3 => .check | _ => .off

/-- A guild is healthy (R157, R208): in RUN. -/
def State.healthy (s : State) (g : Nat) : Bool := s.guildState g == .run

/-- The filtered reading after one window (R18), before substitution. -/
def filtered (valid : Bool) (old inst shift : Nat) : Nat :=
  if !valid then inst
  else if inst < old then inst
  else if old < inst then old + max 1 ((inst - old) / 2 ^ shift)
  else old

/-- A reading is plausible (R19). -/
def plausible (x : Nat) : Bool := decide (500 ≤ x) && decide (x ≤ 2500)

/-- Lowest of a list of readings. -/
def lowest : List Nat → Option Nat
  | [] => none
  | h :: t => match lowest t with | none => some h | some x => some (min h x)

/-- The cause of a meter's fault begins or ends (R19, R20, R461). -/
def State.paceCause (s : State) (k : Kind) (src : Source) (on : Bool) (filt inst : Nat) : State :=
  if on then s.onset k src 0 (filt % 2 ^ 14 * 2 ^ 14 + inst % 2 ^ 14) else s.endCause k src 0

/-- Readings of one window taken in (R18 to R20): each guild's meter and Wharfinger's. -/
def State.pace (s : State) (reads : List Nat) (whf : Nat) : State :=
  let shift := s.rd Reg.WHF_PACE_CFG.RISE_SHIFT
  let floor := s.rd Reg.WHF_PACE_CFG.FLOOR
  let inst := fun g => (reads.getD g 0) % 2 ^ 14
  let raw := fun g => filtered (s.bit (Reg.GLD_PACE.VALID g)) (s.rd (Reg.GLD_PACE.FILTERED g)) (inst g) shift
  let rawW := filtered s.fwd.whfPace.isSome (s.fwd.whfPace.getD 0) (whf % 2 ^ 14) shift
  let well := (List.range 64).filter (fun g => s.healthy g)
  let good := fun (not : Option Nat) => lowest ((if plausible rawW ∧ not ≠ some 64 then [rawW] else []) ++
    (well.filter (fun g => plausible (raw g) && decide (some g ≠ not))).map raw)
  let any := (good none).isSome
  let sub := fun (k x : Nat) => if !any then floor else if plausible x then x else (good (some k)).getD floor
  let s1 := (List.range 64).foldl (fun s g =>
    let s1 := ((s.wr (Reg.GLD_PACE.VALID g) 1).wr (Reg.GLD_PACE.INSTANT g) (inst g)).wr (Reg.GLD_PACE.IMPLAUSIBLE g) (if plausible (inst g) then 0 else 1)
    let s2 := s1.wr (Reg.GLD_PACE.FILTERED g) (sub g (raw g))
    let s3 := s2.paceCause .PACE_IMPLAUSIBLE (srcGld g) (!plausible (raw g)) (raw g) (inst g)
    s3.paceCause .PACE_LOW (srcGld g) (plausible (raw g) && decide (raw g < floor)) (raw g) (inst g)) s
  let s2 := (s1.paceCause .PACE_IMPLAUSIBLE ⟨.WHF, 0⟩ (!plausible rawW) rawW whf).paceCause .PACE_LOW ⟨.WHF, 0⟩
    (plausible rawW && decide (rawW < floor)) rawW whf
  let s3 := { s2 with fwd := { s2.fwd with whfPace := some (sub 64 rawW) } }
  let low := (plausible rawW && decide (rawW < floor)) || (List.range 64).any (fun g => plausible (raw g) && decide (raw g < floor))
  let minF := (lowest (sub 64 rawW :: well.map (fun g => sub g (raw g)))).getD 0
  (((s3.wr Reg.WHF_PACE_STATUS.FLOOR_SUBST (if any then 0 else 1)).wr Reg.WHF_PACE_STATUS.BELOW_FLOOR (if low then 1 else 0)).wr
    Reg.WHF_PACE_STATUS.HEALTHY_GUILDS well.length).wr Reg.WHF_PACE_STATUS.MIN_FILTERED minF

/-- SUSTAIN (R21, R24): the filtered readings of the guilds not retired, FLOOR for one not yet valid. -/
def State.sustain (s : State) : Nat :=
  let f := fun g => if s.bit (Reg.GLD_PACE.VALID g) then s.rd (Reg.GLD_PACE.FILTERED g) else s.rd Reg.WHF_PACE_CFG.FLOOR
  (((List.range 64).filter (fun g => s.healthy g)).map f).sum * 5 * s.rd Reg.WHF_PACE_CFG.MARGIN / (64 * 256)

/-- Packet cost of the maps of the frame now being received (R151): on each side the last sent frame whose upstream span
had begun at the present frame's start (DEDUCED, log entry 25). -/
def State.receivedCost (s : State) : Nat :=
  (sides.map (fun (x : Fin 32 × Nat) =>
    let lag := ceilDiv (s.rd (Reg.PT_TEQD.TEQD x.1.val)) 6220800
    match (s.side x.1 x.2).costs.find? (fun c => decide (c.1 + lag ≤ s.sfc x.1)) with
    | some c => c.2
    | none => 0)).sum

/-- D (R151): SUSTAIN less the upstream packet cost per microsecond, rounded up. -/
def State.engineBudget (s : State) : Nat := s.rd Reg.WHF_CORE_RATE.SUSTAIN - ceilDiv (s.receivedCost * 8) 1000

/-- Admission state of a source. -/
def State.adm (s : State) (n : Nat) : AdmSrc := Tab.get (fun _ => AdmSrc.reset) s.fwd.adm n

/-- Update of a source. -/
def State.setAdm (s : State) (n : Nat) (x : AdmSrc) : State :=
  { s with fwd := { s.fwd with adm := Tab.set (fun _ => AdmSrc.reset) s.fwd.adm n x } }

/-- A source in the water-filling: number, offered load, weight. -/
structure Taker where
  n : Nat
  load : Nat
  weight : Nat
deriving DecidableEq, Repr

/-- Water-filling (R153): sources whose load is within their share take it and leave; when none leaves, each remaining
source takes its share, rounded down (DESIGN CHOICE, log entry 23). -/
def waterFill : Nat → List Taker → Nat → List (Nat × Nat)
  | 0, _, _ => []
  | fuel + 1, l, left =>
    let w := (l.map (·.weight)).sum
    let leave := l.filter (fun t => decide (t.load * w ≤ left * t.weight))
    if leave = [] then l.map (fun t => (t.n, left * t.weight / w))
    else leave.map (fun t => (t.n, t.load)) ++
      waterFill fuel (l.filter (fun t => !decide (t.load * w ≤ left * t.weight))) (left - (leave.map (·.load)).sum)

/-- Sum of the offered load over classes from `c` up. -/
def offeredFrom (o : List Nat) (c : Nat) : Nat := (o.drop c).sum

/-- Target level T (R154). -/
def targetLevel (o : List Nat) (b : Nat) : Nat := ((List.range 8).find? (fun l => decide (offeredFrom o (l + 1) ≤ b))).getD 7

/-- Level and hold count after a window (R154). -/
def nextLevel (o : List Nat) (b lev low frac down : Nat) : Nat × Nat :=
  let t := targetLevel o b
  if lev < t then (t, 0)
  else if t < lev then
    if offeredFrom o lev * 256 ≤ b * frac then (if down ≤ low + 1 then (lev - 1, 0) else (lev, low + 1)) else (lev, 0)
  else (lev, 0)

/-- A register value that acts as 1 when 0. -/
def atLeast1 (v : Nat) : Nat := max 1 v

/-- Pipeline of an admission source (R16): uplink lanes 0 to 11 on pipeline 0, 12 to 23 on pipeline 1; the injection source
on pipeline 0 (DESIGN CHOICE, log entry 153). -/
def admPipe (n : Nat) : Nat := if n < 24 then n / 12 else 0

/-- Level, meter and tokens of a source for the next window (R154, R155), and ADM_DROP when DROPPING rises. The bucket, refilled
once per window, holds at most BURST packets. -/
def State.admitNext (s : State) (n b : Nat) : State :=
  let x := s.adm n
  let r := nextLevel x.offered b (s.rd (Reg.XPR_ADM_STATUS.LEVEL n)) x.low (atLeast1 (s.rd Reg.XPR_ADM_CFG.LOW_FRAC)) (atLeast1 (s.rd Reg.XPR_ADM_CFG.DOWN_WIN))
  let meter := b - offeredFrom x.offered (r.1 + 1)
  let was := s.bit (Reg.XPR_ADM_STATUS.DROPPING n)
  let s1 := (((s.wr (Reg.XPR_ADM_STATUS.LEVEL n) r.1).wr (Reg.XPR_ADM_STATUS.BUDGET n) (min b 16383)).wr (Reg.XPR_ADM_STATUS.METER n) (min meter 16383)).wr
    (Reg.XPR_ADM_STATUS.DROPPING n) (if x.dropped then 1 else 0)
  let s2 := if x.dropped && !was then s1.raise .ADM_DROP ⟨.XPR, admPipe n⟩ (n * 2 ^ 33 + r.1) else s1
  s2.setAdm n { AdmSrc.reset with low := r.2, tokens := min (atLeast1 (s.rd Reg.XPR_ADM_CFG.BURST)) (x.tokens + meter) }

/-- ADMISSION_BUDGET_UPDATE (R151 to R156). -/
def State.admission (s : State) : State :=
  let takers := (List.range 25).map (fun n => (⟨n, (s.adm n).offered.sum, atLeast1 (s.rd (Reg.XPR_ADM_SRC.WEIGHT n))⟩ : Taker))
  (waterFill 26 takers s.engineBudget).foldl (fun s x => s.admitNext x.1 x.2) s

/-- An engine-bound downstream packet of a source and class (R152, R155): counted as offered, admitted or dropped. -/
def State.admits (s : State) (n c : Nat) : State × Bool :=
  let x := s.adm n
  let y := { x with offered := x.offered.set c (x.offered.getD c 0 + 1) }
  let lev := s.rd (Reg.XPR_ADM_STATUS.LEVEL n)
  if !s.bit Reg.XPR_ADM_CFG.EN ∨ lev < c then (s.setAdm n y, true)
  else if c = lev ∧ 0 < x.tokens then (s.setAdm n { y with tokens := x.tokens - 1 }, true)
  else ((s.setAdm n { y with dropped := true }).inc (Cnt.XPR_ADM_DROP n c), false)

end Sys2Proof.Machine
end

