-- ==== Sys2Proof/Machine/Forward.lean ====
section
/-! DEFINITION. Express parser, descriptor creation, Sorter and the exception limiter (05_forwarding_pipeline.md) and
replication at release (08_buffers_queues_shaping.md R265 to R269) as operations of the state. -/

namespace Sys2Proof.Machine

set_option autoImplicit false

/-- Source of Sorter. -/
abbrev srcSrt : Source := ⟨.SRT, 0⟩

/-! The express parser (R143 to R149). -/

/-- Control word, guard words and extract words of a profile. -/
abbrev profWord (p j : Nat) : Nat := 0xC1000 + p * 0x80 + j * 4

/-- A word of a profile as a packet meets it (R176): while a rewrite of a profile in use is not whole, the old one. -/
def State.liveWord (s : State) (p j : Nat) : Word :=
  match Tab.get (fun _ => none) s.fwd.oldProfs p with
  | some l => l.getD j 0#32
  | none => s.word (profWord p j)

/-- A field of a profile's control word as a packet meets it (Table 5-12). -/
def State.ctl (s : State) (p : Nat) (f : Fld) : Nat := (s.liveWord p 0).toNat / 2 ^ f.lo % 2 ^ f.w

/-- A byte of a frame as the parser reads it: zero past the frame's end (R145), a free value past byte 127 within it. -/
def parserByte (fr : List Byte) (i : Nat) : Byte :=
  if 128 ≤ i ∧ i < fr.length then Config.unreadByte i else fr.getD i 0

/-- A guard's outcome (R143). -/
def State.guardOk (s : State) (p g : Nat) (fr : List Byte) : Bool :=
  let a := s.liveWord p (1 + 2 * g)
  let b := s.liveWord p (2 + 2 * g)
  if !a.getLsbD 31 then true
  else
    let off := (a.extractLsb' 0 7).toNat
    if 126 < off ∨ fr.length ≤ off + 1 then false
    else decide ((BitVec.ofNat 16 (beNat (sliceZ fr off 2)) ^^^ b.extractLsb' 16 16) &&& b.extractLsb' 0 16 = 0#16)

/-- An enabled extract: byte offset, length, whether it enters the flow hash (Table 5-14). -/
def State.extract (s : State) (p e : Nat) : Option (Nat × Nat × Bool) :=
  let x := s.liveWord p (9 + e)
  let n := (x.extractLsb' 8 5).toNat
  if x.getLsbD 31 ∧ n ≠ 0 ∧ n ≤ 16 then some ((x.extractLsb' 13 7).toNat, n, x.getLsbD 30) else none

/-- Enabled extracts of a profile in order. -/
def State.extracts (s : State) (p : Nat) : List (Nat × Nat × Bool) := (List.range 12).filterMap (fun e => s.extract p e)

/-- PROF_BAD (R147): more than 40 extracted bytes, or a NEXT that names the profile itself, in a profile that is in use or
enables NEXT (DEDUCED, log entry 21: PROF_BAD resets to 0, where NEXT of profile 0 is 0). -/
def State.profBad (s : State) (p : Nat) : Bool :=
  decide (40 < ((s.extracts p).map (·.2.1)).sum)
    || ((s.ctl p (Reg.XPR_PROF_W0.VALID p) != 0 || s.ctl p (Reg.XPR_PROF_W0.NEXT_EN p) != 0) && s.ctl p (Reg.XPR_PROF_W0.NEXT p) == p)

/-- A profile is VALID, in the register and as packets meet it (R176). -/
def State.xprValid (s : State) (p : Nat) : Bool :=
  s.bit (Reg.XPR_PROF_W0.VALID p) && s.ctl p (Reg.XPR_PROF_W0.VALID p) != 0

/-- A profile passes (R144). -/
def State.profPass (s : State) (p : Nat) (fr : List Byte) : Bool :=
  s.xprValid p && (List.range 4).all (fun g => s.guardOk p g fr)

/-- The profiles tried: the last one, and whether it passed (R144). -/
def State.tryProfiles (s : State) (fr : List Byte) : Nat → Nat → Nat × Bool
  | 0, p => (p, false)
  | n + 1, p =>
    if s.profPass p fr then (p, true)
    else if n = 0 ∨ s.ctl p (Reg.XPR_PROF_W0.NEXT_EN p) = 0 then (p, false)
    else s.tryProfiles fr n (s.ctl p (Reg.XPR_PROF_W0.NEXT p))

/-- Bytes of the enabled extracts a test accepts, in order. -/
def extractBytes (fr : List Byte) (xs : List (Nat × Nat × Bool)) : List Byte :=
  xs.flatMap (fun x => (List.range x.2.1).map (fun i => parserByte fr (x.1 + i)))

/-- Three bits at a bit offset of a frame, the most significant bit of byte 0 being bit 0 (R146). -/
def classBits (fr : List Byte) (off : Nat) : Nat :=
  let b := fun i => ((fr.getD i (Config.unreadByte i))).toNat
  (b (off / 8) * 256 + b (off / 8 + 1)) / 2 ^ (13 - off % 8) % 8

/-- Field base of a source's first profile and default class (Table 5-10). -/
abbrev srcProf (src : Nat) : Nat := 0xC0300 + src * 4

/-- What the parser decides of a frame. -/
structure Parsed where
  prof : Nat
  express : Bool
  exm : Bool
  ldg : Nat
  key : List Byte
  cls : Nat
  flow : Nat
deriving DecidableEq, Repr

/-- EXPRESS_PARSE (R143 to R149); `ctxCls` is the class of an upstream packet's XGEM port context. -/
def State.parse (s : State) (src : Nat) (fr : List Byte) (ctxCls : Option Nat) : Parsed :=
  let w := s.word (srcProf src)
  let r := s.tryProfiles fr 4 (w.extractLsb' 0 4).toNat
  let p := r.1
  let target := s.ctl p (Reg.XPR_PROF_W0.TARGET p)
  let express := r.2 && decide (target < 2) && !s.profBad p
  let xs := s.extracts p
  let def_ := (w.extractLsb' 4 3).toNat
  let cls := match s.ctl p (Reg.XPR_PROF_W0.CLASS_SRC p) with
    | 1 => classBits fr (s.ctl p (Reg.XPR_PROF_W0.CLASS_OFF p))
    | 2 => ctxCls.getD def_
    | _ => def_
  let flow := crc16 (BitVec.ofNat 8 src :: BitVec.ofNat 8 (p + (if express then 128 else 0)) :: extractBytes fr (xs.filter (·.2.2)))
  ⟨p, express, target == 1, s.ctl p (Reg.XPR_PROF_W0.LDG_PROF p), extractBytes fr xs, cls, flow⟩

/-! Creation of a descriptor. -/

/-- A packet that passed the boundary: its descriptor is created with a buffer, the published epoch's stamp and a
reference on it (R170, R257), and goes to the express lookup or to Sorter; with no buffer it is dropped (R258). -/
def State.create (s : State) (src : Nat) (up : Bool) (onu ctx : Nat) (fr : List Byte) (x : Parsed) : State :=
  let a := s.newBuf x.cls fr.length fr
  match a.2 with
  | none => a.1.noBuf x.cls fr.length
  | some h =>
    let e := a.1.published
    let d : Desc := { Desc.zero with handle := h, dir := up, epoch := e, express := x.express, length := fr.length, cls := x.cls
                                     source := src, onu := onu, flow := x.flow, xprof := x.prof, xctx := ctx, tIn := s.now % 2 ^ 32 }
    let s1 := a.1.epochRef e
    if x.express then { s1 with fwd := { s1.fwd with express := s1.fwd.express ++ [⟨d, x.exm, x.ldg, x.key⟩] } }
    else { s1 with fwd := { s1.fwd with srtIn := s1.fwd.srtIn ++ [.new d] } }

/-- BOUNDARY_OVERRUN (R15, R65), with what its address carries. -/
def State.overrun (s : State) (src : Source) (addr : Nat) : State :=
  ({ s with fwd := { s.fwd with bndDrops := Tab.mod (fun _ => 0) s.fwd.bndDrops src.code (fun n => (n + 1) % 2 ^ 48) } }).raise .BOUNDARY_OVERRUN src addr

/-- A downstream frame of an uplink lane or of the injection source from the MAC on (R148, R150, R155, R15): `full` says
that the boundary FIFO is full. -/
def State.intake (s : State) (n : Nat) (isl : Source) (fr : List Byte) (full : Bool) (x : Parsed) : State :=
  let s1 := s.inc (Cnt.XPR_PKTS_IN n)
  if 16383 < fr.length then s1.inc (Cnt.XPR_OVERSIZE n)
  else
    let s2 := s1.inc (if x.express then Cnt.XPR_EXPRESS n else Cnt.XPR_ENGINE n)
    let r := if x.express then (s2, true) else s2.admits n x.cls
    if !r.2 then r.1
    else if full then r.1.overrun isl 0
    else r.1.create n false 0 0 fr x

/-- An upstream frame at the parser (R148, R150): no admission. A port's side has one boundary FIFO, instance 0 (DESIGN CHOICE,
log entry 154). -/
def State.intakeUp (s : State) (p : Fin 32) (sd onu ctx ctxCls : Nat) (fr : List Byte) (full : Bool) : State :=
  if 16383 < fr.length then s
  else if full then s.overrun ⟨.PT, p.val⟩ (portAddr p sd 0)
  else
    let src := 32 + 2 * p.val + sd
    s.create src true onu ctx fr (s.parse src fr (some ctxCls))

/-! Sorter: dispatch (R157 to R160, R209). -/

/-- A flow context. -/
def State.flow (s : State) (f : Nat) : Flow := Tab.get (fun _ => ⟨0, 0⟩) s.fwd.flows f

/-- Update of a flow context. -/
def State.setFlow (s : State) (f : Nat) (x : Flow) : State :=
  { s with fwd := { s.fwd with flows := Tab.set (fun _ => ⟨0, 0⟩) s.fwd.flows f x } }

/-- A context of an engine. -/
def State.ctxOf (s : State) (k : Nat) : Option Ctx := Tab.get (fun _ => none) s.eng.ctxs k

/-- Store of a context. -/
def State.setCtx (s : State) (k : Nat) (x : Option Ctx) : State :=
  { s with eng := { s.eng with ctxs := Tab.set (fun _ => none) s.eng.ctxs k x } }

/-- Key of a context. -/
abbrev ctxKey (g e c : Nat) : Nat := g * 64 + e * 4 + c

/-- A guild's memory and measures. -/
def State.guild (s : State) (g : Nat) : Guild := Tab.get (fun _ => Guild.reset) s.eng.guilds g

/-- Update of a guild. -/
def State.setGuild (s : State) (g : Nat) (x : Guild) : State :=
  { s with eng := { s.eng with guilds := Tab.set (fun _ => Guild.reset) s.eng.guilds g x } }

/-- An engine is in service (R181, R199): enabled, not retired, in a guild that is not OFF. -/
def State.engineUp (s : State) (g e : Nat) : Bool :=
  (s.word (Reg.GLD_CTRL.addr g)).getLsbD e && !s.flt.isolated .engine (g * 16 + e) && !(s.guildState g == .off)

/-- A free context of an engine that can accept a packet (R181). -/
def State.freeCtx (s : State) (g e : Nat) : Option Nat :=
  if s.engineUp g e then (List.range 4).find? (fun c => (s.ctxOf (ctxKey g e c)).isNone) else none

/-- The next engine of a guild that can accept, from its last choice on (R157), with a free context. -/
def State.pickEngine (s : State) (g : Nat) : Option (Nat × Nat) :=
  (List.range 16).findSome? (fun i =>
    let e := ((s.guild g).last + 1 + i) % 16
    (s.freeCtx g e).map (fun c => (e, c)))

/-- SRT_CLASS_GUILDS names a guild for a class. -/
def State.classGuild (s : State) (c g : Nat) : Bool :=
  if g < 32 then (s.word (Reg.SRT_CLASS_GUILDS_LO.addr c)).getLsbD g else (s.word (Reg.SRT_CLASS_GUILDS_HI.addr c)).getLsbD (g - 32)

/-- A class's mask names no healthy guild (R158). -/
def State.noGuild (s : State) (c : Nat) : Bool := !(List.range 64).any (fun g => s.classGuild c g && s.healthy g)

/-- A guild runs a generation. -/
def State.guildGen (s : State) (g : Nat) : Nat := s.rd (Reg.GLD_GEN.GEN g)

/-- No guild but `g` runs its generation in RUN (R209). -/
def State.lastOfGen (s : State) (g : Nat) : Bool :=
  !(List.range 64).any (fun x => decide (x ≠ g) && s.healthy x && s.guildGen x == s.guildGen g)

/-- A guild may take a packet of a class whose first pass ran a generation, if it has run one (R157, R158, R209). -/
def State.mayTake (s : State) (c : Nat) (gen : Option Nat) (g : Nat) : Bool :=
  (s.classGuild c g || s.noGuild c) &&
  (match gen with
   | none => s.healthy g
   | some n => s.guildGen g == n && (s.healthy g || (s.guildState g == .drain && s.lastOfGen g)))

/-- The guild, engine and context that take the next packet of a class (R157). -/
def State.pickGuild (s : State) (c : Nat) (gen : Option Nat) : Option (Nat × Nat × Nat) :=
  (List.range 64).findSome? (fun i =>
    let g := (Tab.get (fun _ => 0) s.fwd.ptr c + i) % 64
    if s.mayTake c gen g then (s.pickEngine g).map (fun x => (g, x.1, x.2)) else none)

/-- A word of a guild's bank: the active one, or the standby one. -/
def State.bankWord (s : State) (g : Nat) (standby : Bool) (i : Nat) : Word :=
  let b := s.bit (Reg.GLD_STATE.ACTIVE_BANK g) != standby
  Tab.get (fun _ => 0) (if b then (s.guild g).bankB else (s.guild g).bankA) i

/-- ENTRY of a pass in the active bank (Table 6-7). -/
def State.entryOf (s : State) (g : Nat) (dir : Bool) (pass : Nat) : Nat :=
  let i := (if dir then 4 else 0) + pass
  ((s.bankWord g false (6 + i / 2)).toNat / 2 ^ (16 * (i % 2))) % 65536

/-- NO_GUILD of a class kept, with CLASS_NO_GUILD once per change of the bit (R158). -/
def State.markNoGuild (s : State) (c : Nat) : State :=
  let old := s.rd Reg.SRT_STATUS.NO_GUILD
  let was := old / 2 ^ c % 2 = 1
  if s.noGuild c ∧ !was then
    let new := old + 2 ^ c
    (s.wr Reg.SRT_STATUS.NO_GUILD new).raise .CLASS_NO_GUILD srcSrt new
  else if !s.noGuild c ∧ was then
    let new := old - 2 ^ c
    (s.wr Reg.SRT_STATUS.NO_GUILD new).raise .CLASS_NO_GUILD srcSrt new
  else s

/-- Any guild of the device is healthy. -/
def State.anyHealthy (s : State) : Bool := (List.range 64).any (fun g => s.healthy g)

/-- A packet dropped before release: its buffer and its epoch reference are freed. -/
def State.dropDesc (s : State) (d : Desc) : State := (s.unref d.handle).epochUnref d.epoch

/-- IN_FLIGHT stored (Table 5-16). -/
def State.storeInFlight (s : State) : State := s.wr Reg.SRT_STATUS.IN_FLIGHT s.fwd.flights.length

/-- Update of one flight. -/
def State.modFlight (s : State) (id : Nat) (f : Flight → Flight) : State :=
  { s with fwd := { s.fwd with flights := s.fwd.flights.map (fun x => if x.id = id then f x else x) } }

/-- A flight by number. -/
def State.flight? (s : State) (id : Nat) : Option Flight := s.fwd.flights.find? (fun x => x.id == id)

/-- Golden packets a captured ring holds (R472). -/
abbrev goldenRing : Nat := 64

/-- A dispatch seen by Warden (R472): one first-pass packet in 65,536 dispatches is copied, its first 256 bytes. -/
def State.seen (s : State) (d : Desc) : State :=
  if 65535 ≤ s.wdn.dispatches ∧ d.pass = 0 then
    { s with wdn := { s.wdn with dispatches := 0, ring := ((⟨none, d, (s.buf d.handle).bytes.take 256⟩ : Golden) :: s.wdn.ring).take goldenRing } }
  else { s with wdn := { s.wdn with dispatches := s.wdn.dispatches + 1 } }

/-- A pass starts on a context (R157, R181, R209). -/
def State.startPass (s : State) (id : Nat) (d : Desc) (at_ : Nat × Nat × Nat) : State :=
  let g := at_.1
  let k := ctxKey g at_.2.1 at_.2.2
  let x := s.guild g
  let first := d.pass == 0 && (match s.flight? id with | some f => f.tries == 0 | none => false)
  let s1 := (s.setCtx k (some (Ctx.start id false d (s.entryOf g d.dir d.pass % 2 ^ 14)))).setGuild g
    { x with last := at_.2.1, dispatched := x.dispatched + 1, packets := x.packets + (if first then 1 else 0) }
  let s2 : State := { s1.seen d with fwd := { s1.fwd with ptr := Tab.set (fun _ => 0) s1.fwd.ptr d.cls ((g + 1) % 64) } }
  s2.modFlight id (fun f => { f with place := some k, gen := some (f.gen.getD (s.guildGen g)) })

/-- A new engine-bound packet taken into Sorter (R159, R160). -/
def State.takeNew (s : State) (d : Desc) : State × Option (Nat × Desc) :=
  if !s.anyHealthy then ((s.inc Cnt.SRT_FULL_DROP).dropDesc d, none)
  else if 16384 ≤ s.fwd.flights.length then
    (((s.inc Cnt.SRT_FULL_DROP).raiseLimited .REORDER_FULL srcSrt s.fwd.flights.length 0 1000000).dropDesc d, none)
  else
    let f := s.flow d.flow
    let d1 : Desc := { d with seq := f.issue }
    let id := s.fwd.nextId
    let s1 := s.setFlow d.flow { f with issue := (f.issue + 1) % 2 ^ 16 }
    let s2 : State := { s1 with fwd := { s1.fwd with nextId := id + 1, flights := s1.fwd.flights ++ [⟨id, d1, 0, none, none, false, false, false⟩] } }
    (s2.storeInFlight, some (id, d1))

/-- A flight forgotten. -/
def State.forget (s : State) (id : Nat) : State :=
  { s with fwd := { s.fwd with flights := s.fwd.flights.filter (fun f => f.id ≠ id) } }

/-- A verdict complete (R161): a skipped packet that completes late is dropped (R164). -/
def State.complete (s : State) (id : Nat) (d : Desc) (lost : Bool) : State :=
  match s.flight? id with
  | none => s
  | some f =>
    if f.skipped then (((s.forget id).inc Cnt.SRT_SEQ_LATE_DROP).dropDesc f.d).storeInFlight
    else s.modFlight id (fun f => { f with d := d, done := true, lost := lost, place := none })

/-- SORTER_DISPATCH (R157 to R160, R168, R199): the first entry of Sorter's input is dispatched, or dropped; an entry no
engine can accept waits. With no healthy guild every packet is dropped, one already numbered completing as lost. -/
def State.dispatch (s : State) : List SrtIn → List SrtIn → State
  | _, [] => s
  | pre, .new d :: t =>
    let s1 := s.markNoGuild d.cls
    let rest := fun (s : State) => { s with fwd := { s.fwd with srtIn := pre ++ t } }
    if !s1.anyHealthy ∨ 16384 ≤ s1.fwd.flights.length then rest (s1.takeNew d).1
    else
      match s1.pickGuild d.cls none with
      | none => s1.dispatch (pre ++ [.new d]) t
      | some x =>
        let r := s1.takeNew d
        match r.2 with
        | none => rest r.1
        | some y => rest ((r.1.inc Cnt.SRT_DISPATCHED).startPass y.1 y.2 x)
  | pre, .again id replay :: t =>
    match s.flight? id with
    | none => { s with fwd := { s.fwd with srtIn := pre ++ t } }
    | some f =>
      let s1 := s.markNoGuild f.d.cls
      if !s1.anyHealthy then
        let s2 := (s1.inc Cnt.SRT_FULL_DROP).complete id f.d true
        { s2 with fwd := { s2.fwd with srtIn := pre ++ t } }
      else match s1.pickGuild f.d.cls f.gen with
      | none => s1.dispatch (pre ++ [.again id replay]) t
      | some x =>
        let s2 := if replay then s1 else s1.inc Cnt.SRT_RECIRCULATED
        let s3 := s2.startPass id f.d x
        { s3 with fwd := { s3.fwd with srtIn := pre ++ t } }

/-! Exceptions (R172 to R174). -/

/-- Refill of a bucket (R178): `rate` in kpkt/s is millionths of a packet per ns. A bucket starts full (DESIGN CHOICE, log
entry 24). -/
def ExcBkt.refill (x : ExcBkt) (rate burst now : Nat) : ExcBkt :=
  match x.level with
  | none => ⟨some (burst * 1000000), now⟩
  | some l => ⟨some (min (burst * 1000000) (l + rate * (now - x.last))), now⟩

/-- A bucket holds a token. -/
def ExcBkt.has (x : ExcBkt) : Bool := decide (1000000 ≤ x.level.getD 0)

/-- A token taken. -/
def ExcBkt.take (x : ExcBkt) : ExcBkt := { x with level := some (x.level.getD 0 - 1000000) }

/-- An exception bucket. -/
def State.excBkt (s : State) (k : Nat) : ExcBkt := Tab.get (fun _ => ⟨none, 0⟩) s.fwd.exc k

/-- Update of a bucket. -/
def State.setExc (s : State) (k : Nat) (x : ExcBkt) : State :=
  { s with fwd := { s.fwd with exc := Tab.set (fun _ => ⟨none, 0⟩) s.fwd.exc k x } }

/-- HST_EXC_MAP of a reason. -/
def State.excMap (s : State) (r : Nat) : Nat := (s.word (Reg.HST_EXC_MAP.addr (r / 8))).toNat / 2 ^ (4 * (r % 8)) % 16

/-- The RX ring an exception for the host enters (R553). -/
def State.excRing (s : State) (d : Desc) (mirror : Bool) : Nat :=
  let p := (d.source - 32) / 2
  let vf := (List.range 32).find? (fun v => (s.word (Reg.HST_VF_PORTS.addr (v + 1))).getLsbD p)
  match vf with
  | some v => if d.dir && !mirror then 64 + 2 * v else s.excMap d.reason
  | none => s.excMap d.reason

/-- Rate of a reason's bucket toward the Steward: in stage S2 that of UPLINK_CONTROL is at most S2_CTL (R510). -/
def State.stwRate (s : State) (r : Nat) : Nat :=
  if r = 8 ∧ s.stage = 2 then min (s.rd (Reg.SRT_EXC_CFG.RATE r)) (s.rd Reg.BOOT_CFG.S2_CTL) else s.rd (Reg.SRT_EXC_CFG.RATE r)

/-- An exception sent through its reason's bucket and a destination's total bucket (R172). -/
def State.excPass (s : State) (r total rate : Nat) (totalRate totalBurst : Nat) : State × Bool :=
  let a := (s.excBkt r).refill rate (s.rd (Reg.SRT_EXC_CFG.BURST r)) s.now
  let b := (s.excBkt total).refill totalRate totalBurst s.now
  if a.has && b.has then (((s.setExc r a.take).setExc total b.take).inc (Cnt.SRT_EXC_SENT r), true)
  else (((s.setExc r a).setExc total b).inc (Cnt.SRT_EXC_DROPPED r), false)

/-- A packet that passed its reason's bucket goes to the Steward under the Steward's total bucket (R173). -/
def State.toSteward (s : State) (o : ExcOut) : State :=
  let b := (s.excBkt 65).refill (s.rd Reg.SRT_EXC_STW.RATE) (s.rd Reg.SRT_EXC_STW.BURST) s.now
  if b.has then { s.setExc 65 b.take with fwd := { (s.setExc 65 b.take).fwd with toStw := (s.setExc 65 b.take).fwd.toStw ++ [o] } }
  else ((s.setExc 65 b).inc (Cnt.SRT_EXC_DROPPED o.d.reason)).unref o.d.handle

/-- EXCEPTION_LIMIT (R172, R173): to the host, to the Steward, or dropped with its buffer reference released. -/
def State.exception (s : State) (d : Desc) (mirror : Bool) : State :=
  let r := d.reason
  let out : ExcOut := ⟨d, mirror, (s.buf d.handle).bytes⟩
  let host := fun (s : State) =>
    let x := s.excPass r 64 (s.rd (Reg.SRT_EXC_CFG.RATE r)) (s.rd Reg.SRT_EXC_HOST.RATE) (s.rd Reg.SRT_EXC_HOST.BURST)
    if x.2 then { x.1 with fwd := { x.1.fwd with toHost := x.1.fwd.toHost ++ [out] } } else x.1.unref d.handle
  let stw := fun (s : State) =>
    let x := s.excPass r 65 (s.stwRate r) (s.rd Reg.SRT_EXC_STW.RATE) (s.rd Reg.SRT_EXC_STW.BURST)
    if x.2 then { x.1 with fwd := { x.1.fwd with toStw := x.1.fwd.toStw ++ [out] } } else x.1.unref d.handle
  match s.rd (Reg.SRT_EXC_CFG.DEST r) with
  | 0 => (s.inc (Cnt.SRT_EXC_DROPPED r)).unref d.handle
  | 1 => if s.ringOn (s.excRing d mirror) then host s else (s.inc Cnt.SRT_EXC_NO_HOST).unref d.handle
  | 2 => stw s
  | _ => if s.ringOn (s.excRing d mirror) then host s else stw s

/-! Release (R161, R171, R265 to R269). -/

/-- A copy handed to enqueue. -/
def State.toEnq (s : State) (x : EnqIn) : State := { s with fwd := { s.fwd with enq := s.fwd.enq ++ [x] } }

/-- Mirror session of a descriptor, when it is enabled (R269). -/
def State.mirrorOf (s : State) (d : Desc) : Option Nat :=
  if d.mirror ≠ 0 ∧ s.bit (Reg.CPG_MIRROR.EN d.mirror) then some d.mirror else none

/-- MIRROR_COPY (R269): to the exception limiter or to the session's queue. -/
def State.mirrorCopy (s0 : State) (d : Desc) (m : Nat) (yellow : Option Bool) : State :=
  let s := s0.inc Cnt.CPG_REPL_COPIES
  if s.bit (Reg.CPG_MIRROR.HOST m) then s.exception { d with reason := 0x0B } true
  else
    let q := s.rd (Reg.CPG_MIRROR.QUEUE m)
    s.toEnq ⟨{ d with queue := q % 65536, dir := decide (65536 ≤ q) }, none, yellow⟩

/-- REF of a buffer set before its first copy leaves (R262). -/
def State.setRef (s : State) (h n : Nat) : State := s.setBuf h { s.buf h with ref := n }

/-- The further buffers of a replication tree (R266): buffer `k` serves up to 63 of the references left. Answers the
handles, none for a buffer that could not be allocated. -/
def State.treeBufs (s : State) (d : Desc) (bytes : List Byte) : Nat → Nat → State × List (Option Nat)
  | 0, _ => (s, [])
  | n + 1, left =>
    let here := min 63 left
    let a := s.newBuf d.cls bytes.length bytes
    match a.2 with
    | some h =>
      let r := (a.1.setRef h here).treeBufs d bytes n (left - here)
      (r.1, some h :: r.2)
    | none =>
      let r := ((a.1.count Cnt.CPG_REPL_NOBUF here).raiseLimited .REPL_NOBUF srcCpg d.repl 0 1000000).treeBufs d bytes n (left - here)
      (r.1, none :: r.2)

/-- A copy of a replicated packet for member `i` of a head (R267). -/
def State.memberCopy (s : State) (d : Desc) (first i h : Nat) : Desc :=
  let q := s.rd (Win.MEM_QUEUE (first + i))
  { d with queue := q % 65536, dir := decide (65536 ≤ q), xctx := s.rd (Win.MEM_XGEM_CTX (first + i)), ctxV := true, handle := h }

/-- REPLICATE (R265 to R267); `ep` is the epoch reference the packet holds, released with the last copy. -/
def State.replicate (s : State) (d : Desc) (ep : Nat) : State :=
  let g := d.repl
  let n := s.rd (Win.HEAD_COUNT g)
  if !s.bit (Win.HEAD_EN g) ∨ n = 0 ∨ 131072 < s.rd (Win.HEAD_FIRST g) + n then ((s.inc Cnt.CPG_REPL_EMPTY).unref d.handle).epochUnref ep
  else
    let r := s.policed d.bucket d.length
    match r.2 with
    | none => ((r.1.inc Cnt.SCH_POLICE_DROP).unref d.handle).epochUnref ep
    | some y =>
      let mir := s.mirrorOf d
      let refs := n + (if mir.isSome then 1 else 0)
      let t := (r.1.setRef d.handle (min 63 refs)).treeBufs d (s.buf d.handle).bytes (ceilDiv refs 63 - 1) (refs - 63)
      let bufs := some d.handle :: t.2
      let first := s.rd (Win.HEAD_FIRST g)
      let copies := (List.range n).filterMap (fun i => ((bufs.getD (i / 63) none).map (fun h => s.memberCopy d first i h)))
      let last := copies.length - 1
      let s1 := (copies.zipIdx).foldl (fun s x => s.toEnq ⟨x.1, if x.2 = last then some ep else none, some y⟩) (t.1.count Cnt.CPG_REPL_COPIES copies.length)
      match mir, bufs.getD (n / 63) none with
      | some m, some h => s1.mirrorCopy { d with handle := h } m (some y)
      | _, _ => s1

/-- A packet whose verdict is complete leaves by it (R161, R171). Before stage S3 a forwarded or replicated packet and a
mirror copy are dropped and counted (R510). -/
def State.releaseDesc (s : State) (d : Desc) : State :=
  if s.stage < 3 ∧ (d.verdict = 0 ∨ d.verdict = 4) then (s.count Cnt.BOOT_STAGE_DROP (if (s.mirrorOf d).isSome then 2 else 1)).dropDesc d else
  match d.verdict with
  | 0 =>
    match s.mirrorOf d with
    | none => (s.toEnq ⟨d, none, none⟩).epochUnref d.epoch
    | some m => (((s.setRef d.handle 2).toEnq ⟨d, none, none⟩).mirrorCopy d m none).epochUnref d.epoch
  | 2 => (s.exception d false).epochUnref d.epoch
  | 4 => s.replicate d d.epoch
  | _ => s.dropDesc d

/-- A completed packet of Sorter released (R161). -/
def State.releasePkt (s : State) (f : Flight) : State := if f.lost then s.dropDesc f.d else s.releaseDesc f.d

/-- The packet of a flow context that holds a sequence number. -/
def State.flightAt (s : State) (flow seq : Nat) : Option Flight :=
  s.fwd.flights.find? (fun f => f.d.flow == flow && f.d.seq == seq && !f.skipped)

/-- SORTER_RELEASE (R161): the next packet of a context when it is complete, and every completed one that follows. -/
def State.releaseFlow (s : State) (flow : Nat) : Nat → State
  | 0 => s
  | n + 1 =>
    let x := s.flow flow
    match s.flightAt flow x.release with
    | none => s
    | some f =>
      if f.done then (((s.forget f.id).setFlow flow { x with release := (x.release + 1) % 2 ^ 16 }).releasePkt f).releaseFlow flow n
      else s

/-- Reason BAD_VERDICT for a reason engine code may not give (R174): 0x20 to 0x3F are free for it, and the codes below are the
hardware's (DEDUCED, log entry 151). -/
def codeReason (r : Nat) : Nat := if 0x20 ≤ r ∧ r ≤ 0x3F then r else 6

/-- Reason of a rule result on the express path (R174, R216): UPLINK_CONTROL, PUNT, SOURCE_LEARN and MCAST_CONTROL, which Table
5-3 has a rule result raise, and the free codes; BAD_VERDICT for every other (DEDUCED, log entry 151). -/
def ruleReason (r : Nat) : Nat := if [0x08, 0x09, 0x0A, 0x0C].contains r then r else codeReason r

/-- A result copied into an express-path descriptor (R216, R169, R142). -/
def resultDesc (d : Desc) (q : Quad) : Desc :=
  let v := q.a.toNat / 2 ^ 28
  let d1 : Desc := { d with queue := q.a.toNat % 65536, mirror := q.a.toNat / 2 ^ 16 % 16, bucket := q.b.toNat / 2 ^ 15, repl := q.c.toNat / 2 ^ 16 }
  if v = 3 then { d1 with verdict := 2, reason := 6 }
  else if v = 2 then { d1 with verdict := 2, reason := ruleReason (q.a.toNat / 2 ^ 20 % 256) }
  else if 5 ≤ v then { d1 with verdict := 1, reason := 6 }
  else { d1 with verdict := v }

end Sys2Proof.Machine
end

