-- ==== Sys2Proof/Machine/Operands.lean ====
section
/-! DEFINITION. What an engine's instruction names: its fields, registers, special registers, memory ranges and key
bytes (06_journeyman_engines.md Tables 6-1 to 6-4). -/

namespace Sys2Proof.Machine

set_option autoImplicit false

/-- Fields of an instruction word (Table 6-3). -/
structure Insn where
  cls : Nat
  op : Nat
  d : Nat
  a : Nat
  b : Nat
  mod : Nat
  imm : Nat
deriving DecidableEq, Repr

/-- Fields of the word of a low and a high half. -/
def Insn.ofWords (lo hi : Word) : Insn :=
  let h := hi.toNat
  ⟨h / 2 ^ 28, h / 2 ^ 22 % 64, h / 2 ^ 17 % 32, h / 2 ^ 12 % 32, h / 2 ^ 7 % 32, h % 128, lo.toNat⟩

/-- Operations a class defines, numbered in the order of Table 6-4 (PRESUMED, log entry 26). -/
def classOps : Nat → Nat
  | 0 => 14 | 1 => 15 | 2 => 9 | 3 => 1 | 4 => 1 | 5 => 5 | 6 => 3 | 7 => 3 | 8 => 3 | 9 => 3 | 10 => 8 | 11 => 4 | _ => 0

/-- The class and operation are defined (R187). -/
def Insn.defined (i : Insn) : Bool := decide (i.op < classOps i.cls)

/-- The instruction a context issues next, from the active bank's code store (R184). -/
def State.fetch (s : State) (g pc : Nat) : Insn := Insn.ofWords (s.bankWord g false (16 + 2 * pc)) (s.bankWord g false (17 + 2 * pc))

/-- A general register: w0 reads zero (Table 6-2). -/
def Ctx.reg (x : Ctx) (r : Nat) : Word := if r = 0 then 0#32 else Tab.get (fun _ => 0#32) x.regs r

/-- Write of a general register: w0 ignores it. -/
def Ctx.setReg (x : Ctx) (r : Nat) (v : Word) : Ctx := if r = 0 then x else { x with regs := Tab.set (fun _ => 0#32) x.regs r v }

/-- A key buffer. -/
def Ctx.kbuf (x : Ctx) (k : Nat) : List Byte := Tab.get (fun _ => []) x.kb k

/-- A result slot. -/
def Ctx.slot (x : Ctx) (m : Nat) : LSlot := Tab.get (fun _ => LSlot.idle) x.res m

/-- Store of a result slot. -/
def Ctx.setSlot (x : Ctx) (m : Nat) (v : LSlot) : Ctx := { x with res := Tab.set (fun _ => LSlot.idle) x.res m v }

/-- Special register `n` of MOVS: HP, HT, LC, SLOTS, LOOKS, WDELTA, ID as 0 to 6 (PRESUMED, log entry 26). -/
def Ctx.special (x : Ctx) (k n : Nat) : Word :=
  match n with
  | 0 => BitVec.ofNat 32 x.parse.hp
  | 1 => BitVec.ofNat 32 x.parse.ht
  | 2 => BitVec.ofNat 32 x.parse.lc
  | 3 => BitVec.ofNat 32 x.slots
  | 4 => BitVec.ofNat 32 x.looks
  | 5 => BitVec.ofInt 32 x.wdelta
  | 6 => BitVec.ofNat 32 (k / 64 * 1024 + k / 4 % 16 * 64 + k % 4 * 16 + x.d.pass)
  | n => Config.noSpecial n

/-- Trap codes of Table 6-5. -/
inductive TrapCode where
  | illegal | access | align | budget | lookups | window | stack | commitFull | noVerdict | user
deriving DecidableEq, Repr

/-- CODE of a trap. -/
def TrapCode.n : TrapCode → Nat
  | .illegal => 1 | .access => 2 | .align => 3 | .budget => 4 | .lookups => 5 | .window => 6 | .stack => 7
  | .commitFull => 8 | .noVerdict => 9 | .user => 10

/-- The ranges of Table 6-1. -/
inductive Range where
  | window | desc | scratch | result | shared | const
deriving DecidableEq, Repr

/-- The range that holds an access of `n` bytes, with the offset in it; none outside Table 6-1. -/
def rangeOf (addr n : Nat) : Option (Range × Nat) :=
  if addr + n ≤ 0x140 then some (.window, addr)
  else if 0x200 ≤ addr ∧ addr + n ≤ 0x220 then some (.desc, addr - 0x200)
  else if 0x400 ≤ addr ∧ addr + n ≤ 0x800 then some (.scratch, addr - 0x400)
  else if 0x800 ≤ addr ∧ addr + n ≤ 0x900 then some (.result, addr - 0x800)
  else if 0x10000 ≤ addr ∧ addr + n ≤ 0x20000 then some (.shared, addr - 0x10000)
  else if 0x20000 ≤ addr ∧ addr + n ≤ 0x30000 then some (.const, addr - 0x20000)
  else none

/-- Bytes of an access size code in MOD[1:0] (PRESUMED: 0, 1, 2 for 1, 2, 4 bytes, log entry 26). -/
def sizeOf (mod : Nat) : Option Nat :=
  match mod % 4 with
  | 0 => some 1 | 1 => some 2 | 2 => some 4 | _ => none

/-- The descriptor's eight words (Table 5-1). -/
def Desc.words (d : Desc) : List Nat :=
  let b := fun (x : Bool) => if x then 1 else 0
  [ d.handle * 2 ^ 8 + b d.dir * 2 ^ 7 + d.pass * 2 ^ 5 + d.epoch * 2 + b d.express,
    d.length * 2 ^ 18 + d.cls * 2 ^ 15 + d.source * 2 ^ 8 + d.onu,
    d.flow * 2 ^ 16 + d.seq,
    d.xprof * 2 ^ 28 + b d.ctxV * 2 ^ 24 + d.reason * 2 ^ 16 + d.xctx,
    d.queue * 2 ^ 16 + d.verdict * 2 ^ 12,
    d.bucket * 2 ^ 15,
    d.tIn,
    d.repl * 2 ^ 16 + d.mirror * 2 ^ 12 ]

/-- The descriptor's bytes in network order. -/
def Desc.bytes (d : Desc) : List Byte := d.words.flatMap (fun w => beBytes 4 w)

/-- The descriptor with the fields engine code may write taken from bytes (R142). -/
def Desc.withBytes (d : Desc) (l : List Byte) : Desc :=
  let w := fun i => beNat (sliceZ l (4 * i) 4)
  { d with reason := w 3 / 2 ^ 16 % 256, queue := w 4 / 2 ^ 16, verdict := w 4 / 2 ^ 12 % 16, bucket := w 5 / 2 ^ 15
           repl := w 7 / 2 ^ 16, mirror := w 7 / 2 ^ 12 % 16 }

/-- Bytes of a list replaced from an offset, within its length. -/
def overwrite (l : List Byte) (off : Nat) (v : List Byte) : List Byte :=
  l.mapIdx (fun i b => if off ≤ i then v.getD (i - off) b else b)

/-- Words of a result slot that holds a result (Table 7-2). -/
def LRes.words (r : LRes) : List Nat :=
  [ r.index * 2 ^ 12 + r.epoch * 2 ^ 8 + r.status, r.prio * 2 ^ 16 + r.prof,
    r.result.a.toNat, r.result.b.toNat, r.result.c.toNat, r.result.d.toNat ]

/-- Bytes of a result slot: zero while it holds no result. -/
def LSlot.bytes : LSlot → List Byte
  | .held r => sliceZ (r.words.flatMap (fun w => leBytes 4 w)) 0 64
  | _ => List.replicate 64 0

/-- A byte of a guild's shared data. -/
def State.sharedByte (s : State) (g a : Nat) : Byte := Tab.get (fun _ => 0) (s.guild g).shared a

/-- A write of shared data, first byte lowest. -/
def State.setShared (s : State) (g a : Nat) (v : List Byte) : State :=
  let x := s.guild g
  s.setGuild g { x with shared := (v.zipIdx a).foldl (fun t (y : Byte × Nat) => Tab.set (fun _ => 0) t y.2 y.1) x.shared }

/-- A shared word. -/
def State.sharedWord (s : State) (g a : Nat) : Nat := leNat ((List.range 4).map (fun i => s.sharedByte g (a + i)))

/-- A shared byte as a pass loads it: its own pending stores are forwarded (R193). -/
def State.sharedSeen (s : State) (g : Nat) (eff : List Deferred) (a : Nat) : Byte :=
  eff.foldl (fun b e => match e with
    | .store addr n v => if addr ≤ a ∧ a < addr + n then (leBytes n v).getD (a - addr) b else b
    | _ => b) (s.sharedByte g a)

/-- A byte of a bank's segment. -/
def State.bankByte (s : State) (g : Nat) (standby : Bool) (i : Nat) : Byte :=
  BitVec.ofNat 8 ((s.bankWord g standby (i / 4)).toNat / 2 ^ (8 * (i % 4)))

/-- A constant of the active bank: the bytes after the instructions, zero past CONST_LEN (R205). -/
def State.constByte (s : State) (g a : Nat) : Byte :=
  if a < (s.bankWord g false 3).toNat then s.bankByte g false (64 + (s.bankWord g false 2).toNat * 8 + a) else 0

/-- The value a load takes from a range, zero-extended (R184 to R186). -/
def State.load (s : State) (g : Nat) (x : Ctx) (r : Range) (off n : Nat) : Nat :=
  match r with
  | .window => beNat (sliceZ x.win off n)
  | .desc => beNat (sliceZ x.d.bytes off n)
  | .scratch => leNat ((List.range n).map (fun i => Tab.get (fun _ => 0) x.scratch (off + i)))
  | .result => leNat ((List.range n).map (fun i => (x.slot ((off + i) / 64)).bytes.getD ((off + i) % 64) 0))
  | .shared => leNat ((List.range n).map (fun i => s.sharedSeen g x.eff (off + i)))
  | .const => leNat ((List.range n).map (fun i => s.constByte g (off + i)))

/-- Bytes a KCAT takes from window or scratch. -/
def Ctx.keyBytes (x : Ctx) (r : Range) (off n : Nat) : List Byte :=
  match r with
  | .window => sliceZ x.win off n
  | _ => (List.range n).map (fun i => Tab.get (fun _ => 0) x.scratch (off + i))

/-- Key bytes appended, to at most 80 (DESIGN CHOICE, log entry 27). -/
def Ctx.append (x : Ctx) (k : Nat) (l : List Byte) : Ctx := { x with kb := Tab.set (fun _ => []) x.kb k ((x.kbuf k ++ l).take 80) }

/-! The parse assist (R165, R166, R188). Header types by the codes of log entry 26: 0 Ethernet, 1 VLAN, 2 MPLS, 3 IPv4,
4 IPv6, 5 hop-by-hop, 6 routing, 7 fragment, 8 destination options, 9 UDP, 10 TCP, 11 GRE, 12 VXLAN, 13 GENEVE. -/

/-- Type an EtherType names. -/
def etherType (v : Nat) : Nat :=
  if v = 0x8100 ∨ v = 0x88A8 ∨ v = 0x9100 then 1
  else if v = 0x8847 ∨ v = 0x8848 then 2
  else if v = 0x0800 then 3
  else if v = 0x86DD then 4
  else if v = 0x6558 then 0
  else 0xFF

/-- Type an IP protocol number names. -/
def ipProto (v : Nat) : Nat :=
  match v with
  | 0 => 5 | 4 => 3 | 6 => 10 | 17 => 9 | 41 => 4 | 43 => 6 | 44 => 7 | 47 => 11 | 60 => 8 | _ => 0xFF

/-- What the assist reads of a header: its length, the type it names next, the least its own length field may say, the
frame bytes its length field claims from its first byte on, none without one. -/
structure Hdr where
  len : Nat
  next : Nat
  bad : Bool
  claim : Option Nat
deriving DecidableEq, Repr

/-- The header at an offset of the window, none of unknown type. `l16` reads two bytes in network order. -/
def header (win : List Byte) (hp ht : Nat) : Option Hdr :=
  let b := fun i => (win.getD (hp + i) 0).toNat
  let l16 := fun i => b i * 256 + b (i + 1)
  match ht with
  | 0 => some ⟨14, etherType (l16 12), false, none⟩
  | 1 => some ⟨4, etherType (l16 2), false, none⟩
  | 2 => some ⟨4, if b 2 % 2 = 1 then 0xFF else 2, false, none⟩
  | 3 =>
    let n := b 0 % 16 * 4
    some ⟨n, ipProto (b 9), decide (n < 20) || decide (l16 2 < n), some (l16 2)⟩
  | 4 => some ⟨40, ipProto (b 6), false, some (40 + l16 4)⟩
  | 5 | 6 | 8 => some ⟨(b 1 + 1) * 8, ipProto (b 0), false, some ((b 1 + 1) * 8)⟩
  | 7 => some ⟨8, ipProto (b 0), false, none⟩
  | 9 => some ⟨8, if l16 2 = 4789 then 12 else if l16 2 = 6081 then 13 else 0xFF, decide (l16 4 < 8), some (l16 4)⟩
  | 10 =>
    let n := b 12 / 16 * 4
    some ⟨n, 0xFF, decide (n < 20), some n⟩
  | 11 =>
    let opt := fun (k : Nat) => if b 0 / 2 ^ k % 2 = 1 then 4 else 0
    some ⟨4 + opt 7 + opt 5 + opt 4, etherType (l16 2), false, none⟩
  | 12 => some ⟨8, 0, false, none⟩
  | 13 => some ⟨8 + b 0 % 64 * 4, etherType (l16 2), false, some (8 + b 0 % 64 * 4)⟩
  | _ => none

/-- A header's length field bounds what follows it: that of IPv4, IPv6 and UDP. -/
def bounds (ht : Nat) : Bool := ht == 3 || ht == 4 || ht == 9

/-- How a PARSE step ends: standing on the next header, with the program ended by R165 or R166, or trapped. -/
inductive ParseOut where
  | step (p : Parse)
  | depth
  | conflict
  | unknown
deriving DecidableEq, Repr

/-- PARSE NEXT (R165, R166, R188) in a frame of `len` bytes. -/
def Parse.next (p : Parse) (win : List Byte) (len : Nat) : ParseOut :=
  if 12 ≤ p.lc then .depth
  else
    match header win p.hp p.ht with
    | none => .unknown
    | some h =>
      let lim := p.lim.getD len
      if 256 < p.hp + h.len then .depth
      else if h.bad then .conflict
      else
        match h.claim with
        | none => .step { p with hp := p.hp + h.len, ht := h.next, lc := p.lc + 1 }
        | some c =>
          if lim < p.hp + c then .conflict
          else .step { p with hp := p.hp + h.len, ht := h.next, lc := p.lc + 1, lim := if bounds p.ht then some (p.hp + c) else p.lim }

/-- PARSE SKIP (R165, R188). -/
def Parse.skip (p : Parse) (n : Nat) : ParseOut :=
  if 12 ≤ p.lc ∨ 256 < p.hp + n then .depth
  else .step { p with hp := p.hp + n, ht := p.set.getD 0xFF, set := none, lc := p.lc + 1 }

end Sys2Proof.Machine
end

