-- ==== Sys2Proof/Machine/Engine.lean ====
section
/-! DEFINITION. How a context issues an instruction, how a pass ends, replay and retirement, and what each class of
instruction does (06_journeyman_engines.md R181 to R204). -/

namespace Sys2Proof.Machine

set_option autoImplicit false

/-- INSN_MAX of a guild (Table 6-14). -/
def State.insnMax (s : State) (g : Nat) : Nat := max 64 (s.rd (Reg.GLD_BUDGET.INSN_MAX g))

/-- Guild and engine of a context key. -/
abbrev keyGuild (k : Nat) : Nat := k / 64
abbrev keyEngine (k : Nat) : Nat := k / 4 % 16

/-- A test pass handed to Warden (R472). -/
def State.testOut (s : State) (k : Nat) (x : Ctx) (d : Desc) (trap : Option Nat) : State :=
  { s with eng := { s.eng with tests := s.eng.tests ++ [⟨keyGuild k, keyEngine k, x.flight, d, x.win, x.eff, trap⟩] } }

/-- A program ended with an exception of a reason, its edits, effects and descriptor writes discarded (R165, R166, R190,
R197). -/
def State.endException (s : State) (k : Nat) (x : Ctx) (reason : Nat) : State :=
  let s1 := s.setCtx k none
  if x.test then s1.testOut k x { x.d with verdict := 2, reason := reason } none
  else
    match s.flight? x.flight with
    | none => s1
    | some f => s1.complete x.flight { f.d with verdict := 2, reason := reason } false

/-- An entry of the trap log (Table 6-18); WRAPPED when it overwrites one not yet read (Table 6-17). -/
def State.logTrap (s : State) (k : Nat) (x : Ctx) (code : TrapCode) (user : Nat) : State :=
  let g := keyGuild k
  let i := s.rd (Reg.GLD_TRAP_PTR.NEXT g)
  let y := s.guild g
  let s0 := s.setGuild g { y with unread := i :: y.unread.filter (fun j => j ≠ i) }
  let s1 := if y.unread.contains i then s0.wr (Reg.GLD_TRAP_PTR.WRAPPED g) 1 else s0
  let w0 := keyEngine k * 2 ^ 28 + k % 4 * 2 ^ 26 + code.n * 2 ^ 22 + user % 256 * 2 ^ 14 + x.pc % 2 ^ 14
  ((((s1.putWord (Reg.GLD_TRAP_LOG_W0.addr g i) (BitVec.ofNat 32 w0)).putWord (Reg.GLD_TRAP_LOG_W1.addr g i)
    (BitVec.ofNat 32 (x.d.flow * 2 ^ 16 + x.d.seq))).putWord (Reg.GLD_TRAP_LOG_W2.addr g i) (BitVec.ofNat 32 (x.d.handle * 2 ^ 8))).putWord
    (Reg.GLD_TRAP_LOG_W3.addr g i) (BitVec.ofNat 32 s.now)).wr (Reg.GLD_TRAP_PTR.NEXT g) ((i + 1) % 16)

/-- PASS_TRAP (R197): the pass becomes EXCEPTION ENGINE_TRAP, logged and counted; a test pass ends with the trap code as its
result (R472). On an engine that has failed the pass is left to be replayed, and the trap is not logged (R201). -/
def State.trap (s : State) (k : Nat) (x : Ctx) (code : TrapCode) (user : Nat) : State :=
  let g := keyGuild k
  if x.test then (s.setCtx k none).testOut k x x.d (some code.n)
  else if s.eng.failed.contains (k / 4) then s
  else
    let s1 := ((s.logTrap k x code user).inc (Cnt.GLD_TRAPS g)).raiseLimited .ENGINE_TRAP (srcGld g)
      (code.n * 2 ^ 22 + keyEngine k * 2 ^ 18 + x.pc % 2 ^ 14) g 1000000
    s1.endException k x 7

/-- A packet on a failed engine taken off its context (R199, R200): replayed, or dropped on its third attempt. A first
pass is no longer bound to a generation (R209). -/
def State.replayCtx (s : State) (k : Nat) : State :=
  match s.ctxOf k with
  | none => s
  | some x =>
    let s1 := s.setCtx k none
    if x.test then s1
    else
      match s.flight? x.flight with
      | none => s1
      | some f =>
        if 2 ≤ f.tries then (s1.inc (Cnt.GLD_REPLAY_DROP (keyGuild k))).complete f.id f.d true
        else
          let s2 := (s1.inc (Cnt.GLD_REPLAYED (keyGuild k))).modFlight f.id (fun f =>
            { f with place := none, tries := f.tries + 1, gen := if f.d.pass = 0 then none else f.gen })
          { s2 with fwd := { s2.fwd with srtIn := .again f.id true :: s2.fwd.srtIn } }

/-- Engines marked failed and not yet retired (R201). -/
def State.setFailed (s : State) (l : List Nat) : State := { s with eng := { s.eng with failed := l } }

/-- Every context of an engine emptied by replay (R199). -/
def State.emptyEngine (s : State) (g e : Nat) : State :=
  let s1 := (List.range 4).reverse.foldl (fun s c => s.replayCtx (ctxKey g e c)) s
  s1.setFailed (s1.eng.failed.filter (fun x => x ≠ g * 16 + e))

/-- Every context of a guild emptied by replay. -/
def State.emptyGuild (s : State) (g : Nat) : State := (List.range 16).reverse.foldl (fun s e => s.emptyEngine g e) s

/-- A guild retired (R202, R204, R208): OFF, its packets replayed elsewhere. -/
def State.retireGuild (s : State) (g : Nat) : State := (s.wr (Reg.GLD_STATE.STATE g) GuildState.off.code).emptyGuild g

/-- Engines of a guild in service (R199). -/
def State.inService (s : State) (g : Nat) : Nat := ((List.range 16).filter (fun e => s.engineUp g e)).length

/-- LOOSE_COUNT (R202): engines retired in guilds that are not retired. -/
def State.loose (s : State) : Nat := (((List.range 64).filter (fun g => !(s.guildState g == .off))).map (fun g => 16 - s.inService g)).sum

/-- GUILD_RETIRE_LOOSE (R202): an engine of the guild has been retired; too many loose ones, or fewer than 13 in it, retire
the guild, isolated by the kinds that retired the engine. -/
def State.retireLoose (s : State) (g : Nat) (ks : List Kind) : State :=
  if !(s.guildState g == .off) && (decide (min 16 (s.rd Reg.SRT_RETIRE_CFG.LOOSE_MAX) < s.loose) || decide (s.inService g < 13)) then
    (({ s with flt := { s.flt with iso := s.flt.iso ++ [(⟨.guild, g, ks, false⟩ : Iso)] } } : State).retireGuild g).inc Cnt.FLT_ISO_ACTIONS
  else s

/-- A code-store word fetched with an error (R204): `uncorr` retires the guild. -/
def State.codeEcc (s : State) (g pc : Nat) (uncorr : Bool) : State :=
  let a := s.rd (Reg.GLD_STATE.ACTIVE_BANK g) * 2 ^ 14 + pc % 2 ^ 14
  if uncorr then (s.retireGuild g).raise .CODE_UNCORR (srcGld g) a
  else (s.inc (Cnt.GLD_CODE_CORR g)).raise .CODE_ECC (srcGld g) a

/-- A context is ready (R182): it holds a pass, its window is loaded, it waits for no result, its engine is in service. -/
def State.readyCtx (s : State) (k : Nat) : Option Ctx :=
  match s.ctxOf k with
  | none => none
  | some x => if x.loading || x.wait.isSome || !s.engineUp (keyGuild k) (keyEngine k) then none else some x

/-- Context an engine issued from last (R182). -/
def State.turn (s : State) (e : Nat) : Nat := Tab.get (fun _ => 3) s.eng.turn e

/-- The context whose turn it is at an engine: the first ready one after the one that issued last (R182). -/
def State.nextCtx (s : State) (e : Nat) : Option Nat :=
  ((List.range 4).map (fun i => (s.turn e + 1 + i) % 4)).find? (fun c => (s.readyCtx (e * 4 + c)).isSome)

/-- A context may issue (R182): it is ready and its turn has come. -/
def State.runnable (s : State) (k : Nat) : Option Ctx := if s.nextCtx (k / 4) = some (k % 4) then s.readyCtx k else none

/-- One slot spent by a context, after which the round goes on from it (R182, R183, R211). -/
def State.spend (s : State) (k : Nat) : State :=
  let g := keyGuild k
  let x := s.guild g
  let s1 := (s.setGuild g { x with slotSum := x.slotSum + 1 }).inc (Cnt.GLD_SLOTS g)
  { s1 with eng := { s1.eng with turn := Tab.set (fun _ => 3) s1.eng.turn (k / 4) (k % 4) } }

/-- Issue of the instruction at the context's PC (R182, R184, R187, R196, R204): nothing when the context is not ready or
the word is another instruction; `f` gives the effect on the state and context before the slot is spent. -/
def State.issue (s : State) (k : Nat) (ecc : Option Bool) (cls op : Nat) (f : State → Ctx → Insn → State) : State :=
  match s.runnable k with
  | none => s
  | some x =>
    let g := keyGuild k
    if s.insnMax g ≤ x.slots then s.trap k x .budget 0
    else
      let i := s.fetch g x.pc
      if ecc = some true then s.codeEcc g x.pc true
      else
        let s1 := if ecc = some false then s.codeEcc g x.pc false else s
        if !i.defined then (s1.spend k).trap k x .illegal 0
        else if i.cls = cls ∧ i.op = op then f s1 x i
        else s1

/-- The instruction done: its slot spent, the PC at the next instruction. -/
def State.retire (s : State) (k : Nat) (x : Ctx) : State :=
  (s.spend k).setCtx k (some { x with slots := x.slots + 1, pc := (x.pc + 1) % 2 ^ 14 })

/-- The instruction done: its slot spent, the PC at a target. -/
def State.jump (s : State) (k : Nat) (x : Ctx) (pc : Nat) : State :=
  (s.spend k).setCtx k (some { x with slots := x.slots + 1, pc := pc % 2 ^ 14 })

/-- The instruction trapped: its slot was spent. -/
def State.trapNow (s : State) (k : Nat) (x : Ctx) (code : TrapCode) (user : Nat) : State := (s.spend k).trap k x code user

/-- The context waits for a result slot, without spending a slot (R189, R190). -/
def State.waitFor (s : State) (k : Nat) (x : Ctx) (m : Nat) : State := s.setCtx k (some { x with wait := some m })

/-- An ALU operation (Table 6-4): `imm` says whether the second operand is IMM. -/
def State.alu (s : State) (k : Nat) (x : Ctx) (i : Insn) (op : AluOp) (imm : Bool) : State :=
  let a := x.reg i.a
  let b := if imm then BitVec.ofNat 32 i.imm else x.reg i.b
  let v := aluVal op a b (x.reg i.b) i.imm
  let y := { x with flags := aluFlags op a b v }
  s.retire k (if op = .cmp then y else y.setReg i.d v)

/-- An ALU row: the operation in class ALU-R or ALU-I. -/
def State.aluRow (s : State) (k : Nat) (ecc : Option Bool) (op : AluOp) : State :=
  match s.runnable k with
  | none => s
  | some x =>
    if (s.fetch (keyGuild k) x.pc).cls = 0 ∧ op ≠ .movi then s.issue k ecc 0 op.n (fun s x i => s.alu k x i op false)
    else s.issue k ecc 1 op.n (fun s x i => s.alu k x i op true)

/-- A conditional branch (Table 6-4). -/
def State.branch (s : State) (k : Nat) (x : Ctx) (i : Insn) (c : Cond) : State :=
  if c.holds x.flags then s.jump k x i.imm else s.retire k x

/-- A deferred effect added; the 33rd traps (R193). -/
def State.defer (s : State) (k : Nat) (x : Ctx) (e : Deferred) : State :=
  if 32 ≤ x.eff.length then s.trapNow k x .commitFull 0 else s.retire k { x with eff := x.eff ++ [e] }

/-- Address A + IMM. -/
def Insn.addr (i : Insn) (x : Ctx) : Nat := (x.reg i.a + BitVec.ofNat 32 i.imm).toNat

/-- A 4-byte access to shared data that is not aligned (R186). -/
def misaligned (r : Range) (off n : Nat) : Bool := r == .shared && n == 4 && decide (off % 4 ≠ 0)

/-- ECC of the guild's data memory on a load (R449): corrected and reported, or uncorrectable, when the value is free. The
memory's number within the block is not given. -/
def State.dataEcc (s : State) (g off : Nat) (uncorr : Bool) : State :=
  let r := s.fresh
  r.2.raise (if uncorr then .STATE_UNCORR else .SRAM_ECC_CORR) (srcGld g) (r.1 % 256 * 2 ^ 32 + off / 4)

/-- LD (R184 to R186, R190, R449). -/
def State.ld (s : State) (k : Nat) (x : Ctx) (i : Insn) (mecc : Option Bool) : State :=
  match sizeOf i.mod with
  | none => s.trapNow k x .access 0
  | some n =>
    match rangeOf (i.addr x) n with
    | none => s.trapNow k x .access 0
    | some (r, off) =>
      if misaligned r off n then s.trapNow k x .align 0
      else if r = .result ∧ (x.slot (off / 64)).busy then s.waitFor k x (off / 64)
      else if r = .result ∧ (x.slot ((off + n - 1) / 64)).busy then s.waitFor k x ((off + n - 1) / 64)
      else
        let g := keyGuild k
        match (if r = .shared ∨ r = .const then mecc else none) with
        | none => s.retire k (x.setReg i.d (BitVec.ofNat 32 (s.load g x r off n)))
        | some false => (s.dataEcc g off false).retire k (x.setReg i.d (BitVec.ofNat 32 (s.load g x r off n)))
        | some true =>
          let v := (s.dataEcc g off true).fresh
          v.2.retire k (x.setReg i.d (BitVec.ofNat 32 (v.1 % 2 ^ (8 * n))))

/-- ST (R184 to R186, R192, R193): window and descriptor in network order, the others little-endian; a store to shared
data is deferred. Window bytes beyond the window length are not stored (DESIGN CHOICE, log entry 28). -/
def State.st (s : State) (k : Nat) (x : Ctx) (i : Insn) : State :=
  match sizeOf i.mod with
  | none => s.trapNow k x .access 0
  | some n =>
    let v := (x.reg i.b).toNat % 2 ^ (8 * n)
    match rangeOf (i.addr x) n with
    | some (.window, off) => s.retire k { x with win := overwrite x.win off ((beBytes n v)) }
    | some (.desc, off) => s.retire k { x with d := x.d.withBytes (overwrite x.d.bytes off (beBytes n v)) }
    | some (.scratch, off) =>
      s.retire k { x with scratch := ((leBytes n v).zipIdx off).foldl (fun t (y : Byte × Nat) => Tab.set (fun _ => 0) t y.2 y.1) x.scratch }
    | some (.shared, off) => if misaligned .shared off n then s.trapNow k x .align 0 else s.defer k x (.store off n v)
    | _ => s.trapNow k x .access 0

/-- The shared word an atomic names: its offset, or a trap (R186). -/
def State.atomic (s : State) (k : Nat) (x : Ctx) (i : Insn) (f : Nat → State) : State :=
  match rangeOf (i.addr x) 4 with
  | some (.shared, off) => if off % 4 ≠ 0 then s.trapNow k x .align 0 else f off
  | _ => s.trapNow k x .access 0

/-- An immediate atomic (R194): the old word in D, the new one written unless the pass is a test (R472). -/
def State.atomicNow (s : State) (k : Nat) (x : Ctx) (i : Insn) (new : Nat → Nat) : State :=
  s.atomic k x i (fun off =>
    let g := keyGuild k
    let old := s.sharedWord g off
    let s1 := if x.test then s else (s.setShared g off (leBytes 4 (new old))).inc (Cnt.GLD_IMM_ATOMICS g)
    s1.retire k (x.setReg i.d (BitVec.ofNat 32 old)))

/-- Outcome of a PARSE step (R165, R166, R188). -/
def State.parseStep (s : State) (k : Nat) (x : Ctx) (o : ParseOut) : State :=
  match o with
  | .step p => s.retire k { x with parse := p }
  | .depth => (s.spend k).endException k x 1
  | .conflict => (s.spend k).endException k x 2
  | .unknown => s.trapNow k x .illegal 0

/-- Frame bytes of the pass, as its edits leave them. -/
def Ctx.frameLen (x : Ctx) : Nat := ((x.d.length : Int) + x.wdelta).toNat

/-- LOOKUP LDG or EXM (R189): issued, trapped at the 17th, or waiting while the slot's lookup is outstanding. -/
def State.lookup (s : State) (k : Nat) (x : Ctx) (i : Insn) (exm : Bool) : State :=
  let m := i.mod % 4
  if (x.slot m).busy then s.waitFor k x m
  else if 16 ≤ x.looks then s.trapNow k x .lookups 0
  else
    let y := { x with looks := x.looks + 1 }.setSlot m (.out exm (i.mod / 4 % 2 == 1) (i.imm % 32) (x.kbuf (i.d % 4)))
    (s.inc (Cnt.GLD_LOOKUPS (keyGuild k))).retire k y

/-- WAIT (R190): costs its slot, and makes the context not ready while the slot's lookup is outstanding. -/
def State.lookupWait (s : State) (k : Nat) (x : Ctx) (i : Insn) : State :=
  let m := i.mod % 4
  s.retire k (if (x.slot m).busy then { x with wait := some m } else x)

/-- INS (R195): bytes inserted at a window offset; their content is a free value. -/
def State.ins (s : State) (k : Nat) (x : Ctx) (i : Insn) : State :=
  let n := i.imm % 128
  let a := (x.reg i.a).toNat
  if 64 < x.wdelta + n ∨ x.win.length < a then s.trapNow k x .window 0
  else
    let bytes := (List.range n).map (fun j => Config.insByte (s.free + j))
    { s with free := s.free + n }.retire k { x with win := x.win.take a ++ bytes ++ x.win.drop a, wdelta := x.wdelta + n }

/-- DEL (R195). -/
def State.del (s : State) (k : Nat) (x : Ctx) (i : Insn) : State :=
  let n := i.imm % 128
  let a := (x.reg i.a).toNat
  if x.wdelta - n < -128 ∨ x.win.length < a + n then s.trapNow k x .window 0
  else s.retire k { x with win := x.win.take a ++ x.win.drop (a + n), wdelta := x.wdelta - n }

/-- CSUM (Table 6-4): the 16-bit field at window offset A updated over the change from register B to register D. A field
beyond the window traps with WINDOW (DEDUCED, log entry 28). -/
def State.csum (s : State) (k : Nat) (x : Ctx) (i : Insn) : State :=
  let a := (x.reg i.a).toNat
  if x.win.length < a + 2 then s.trapNow k x .window 0
  else s.retire k { x with win := overwrite x.win a (beBytes 2 (csumUpdate (beNat (sliceZ x.win a 2)) (x.reg i.b) (x.reg i.d))) }

/-- A change of the descriptor by an instruction of class VERDICT. -/
def State.setDesc (s : State) (k : Nat) (x : Ctx) (d : Desc) : State := s.retire k { x with d := d }

/-- A deferred effect applied at commit (R192). -/
def State.apply (s : State) (g : Nat) (e : Deferred) : State :=
  match e with
  | .store a n v => s.setShared g a (leBytes n v)
  | .dadd a v => s.setShared g a (leBytes 4 ((s.sharedWord g a + v) % 2 ^ 32))
  | .dor a v => s.setShared g a (leBytes 4 (s.sharedWord g a ||| v))
  | .dinc a => s.setShared g a (leBytes 4 ((s.sharedWord g a + 1) % 2 ^ 32))
  | .handoff t i w b => { s with whf := { s.whf with handoffs := s.whf.handoffs ++ [(t, i, w, b)] } }

/-- The verdict as the device takes it (R142, R168, R174). -/
def finalDesc (d : Desc) : Desc :=
  if d.verdict = 2 then { d with reason := codeReason d.reason }
  else if d.verdict = 3 then (if d.pass < 2 then { d with pass := d.pass + 1 } else { d with verdict := 2, reason := 5 })
  else if 5 ≤ d.verdict then { d with verdict := 1, reason := 6 }
  else d

/-- The frame a pass commits: the window in place of the bytes loaded, zero-padded to 60 (R192). -/
def commitBytes (x : Ctx) (old : List Byte) : List Byte :=
  let l := x.win ++ old.drop x.loaded
  l ++ List.replicate (60 - l.length) 0

/-- END (R168, R192): commit of the pass, to Sorter or, for a test, to Warden. -/
def State.commit (s : State) (k : Nat) (x : Ctx) : State :=
  let g := keyGuild k
  let s1 := (s.spend k).setCtx k none
  let len := max 60 x.frameLen
  if x.test then s1.testOut k x { x.d with length := len } none
  else
    let b := s.buf x.d.handle
    let s2 := (s1.setBuf x.d.handle { b with bytes := commitBytes x b.bytes }).inc (Cnt.GLD_PASSES g)
    let s3 := (x.eff.foldl (fun s e => s.apply g e) s2).count (Cnt.GLD_DEFERRED g) x.eff.length
    let d := finalDesc { x.d with length := len }
    if d.verdict = 3 then
      let s4 := s3.modFlight x.flight (fun f => { f with d := d, place := none })
      { s4 with fwd := { s4.fwd with srtIn := s4.fwd.srtIn ++ [.again x.flight false] } }
    else s3.complete x.flight d false

end Sys2Proof.Machine
end

