-- ==== Sys2Proof/Machine/EngCmd.lean ====
section
/-! DEFINITION. The commands of Sorter, the express lookup, lookups of engines, engine failures and live code replacement
(05_forwarding_pipeline.md, 06_journeyman_engines.md R198 to R210). -/

namespace Sys2Proof.Machine

set_option autoImplicit false

/-- SORTER_DISPATCH (R157 to R160). -/
def execSorterDispatch (s : State) : Host.Outcome State Fault Refusal := ok (s.dispatch [] s.fwd.srtIn)

/-- The descriptor of an express-path packet after its lookup (R216, R218). -/
def expressDesc (x : ExpIn) (r : LRes) : Desc :=
  if r.status = 1 then { x.d with verdict := 2, reason := if x.exm then 4 else 3 } else resultDesc x.d r.result

/-- EXPRESS_LOOKUP (R216, R218, R233, R240, R247): the oldest express-path packet's key is looked up and the packet leaves by
its verdict. -/
def execExpressLookup (upset : Option (Fin 65536)) (ecc : List (Fin 532480 × Bool)) (s : State) : Host.Outcome State Fault Refusal :=
  match s.fwd.express with
  | [] => ok s
  | x :: t =>
    let s1 := { s with fwd := { s.fwd with express := t } }
    let r := if x.exm then s1.exmLookup x.prof x.key x.d.epoch (ecc.map (fun y => (y.1.val, y.2)))
      else s1.ldgLookup x.prof x.key x.d.epoch (upset.map (·.val))
    ok (r.1.releaseDesc (expressDesc x r.2))

/-- WINDOW_LOAD_DONE (R185, R259): the first min(LENGTH, 256) bytes of the frame are in the window; a test pass keeps the
golden packet's bytes (R472). -/
def execWindowLoadDone (g : Fin 64) (e : Fin 16) (c : Fin 4) (s : State) : Host.Outcome State Fault Refusal :=
  let k := ctxKey g.val e.val c.val
  match s.ctxOf k with
  | none => ok s
  | some x =>
    if !x.loading then ok s
    else if x.test then ok (s.setCtx k (some { x with loading := false }))
    else
      let w := (s.buf x.d.handle).bytes.take (min x.d.length 256)
      ok (s.setCtx k (some { x with loading := false, win := w, loaded := w.length }))

/-- SORTER_RELEASE (R161). -/
def execSorterRelease (flow : BitVec 16) (s : State) : Host.Outcome State Fault Refusal :=
  ok (s.releaseFlow flow.toNat s.fwd.flights.length).storeInFlight

/-- REORDER_TIMEOUT (R164): the next-release packet of a context with a completed packet behind it is skipped. -/
def execReorderTimeout (flow : BitVec 16) (s : State) : Host.Outcome State Fault Refusal :=
  let x := s.flow flow.toNat
  match s.flightAt flow.toNat x.release with
  | none => ok s
  | some f =>
    if f.done || !s.fwd.flights.any (fun y => y.d.flow == flow.toNat && y.done) then ok s
    else
      let s1 := (s.modFlight f.id (fun y => { y with skipped := true })).setFlow flow.toNat { x with release := (x.release + 1) % 2 ^ 16 }
      let s2 := (s1.inc Cnt.SRT_SEQ_SKIP).raise .REORDER_SKIP srcSrt (flow.toNat * 2 ^ 16 + x.release)
      ok (s2.releaseFlow flow.toNat s2.fwd.flights.length).storeInFlight

/-- A result slot's search done. -/
def State.slotFound (s : State) (k m : Nat) (x : Ctx) (exm soft : Bool) (r : State × LRes) : State :=
  r.1.setCtx k (some (x.setSlot m (.found exm soft r.2)))

/-- LEDGER_SEARCH (R222, R233, R450): the outstanding Ledger lookup of a result slot searches its banks; `upset` is a row
found to differ from its shadow or parity. -/
def execLedgerSearch (g : Fin 64) (e : Fin 16) (c m : Fin 4) (upset : Option (Fin 65536)) (s : State) : Host.Outcome State Fault Refusal :=
  let k := ctxKey g.val e.val c.val
  match s.ctxOf k with
  | none => ok s
  | some x =>
    match x.slot m.val with
    | .out false soft p key => ok (s.slotFound k m.val x false soft (s.ldgLookup p key x.d.epoch (upset.map (·.val))))
    | _ => ok s

/-- EXM_SEARCH (R237, R240): the outstanding exact-match lookup of a result slot reads its rows and the stash; `ecc` lists the
cells read with an error and whether it is uncorrectable. -/
def execExmSearch (g : Fin 64) (e : Fin 16) (c m : Fin 4) (ecc : List (Fin 532480 × Bool)) (s : State) : Host.Outcome State Fault Refusal :=
  let k := ctxKey g.val e.val c.val
  match s.ctxOf k with
  | none => ok s
  | some x =>
    match x.slot m.val with
    | .out true soft p key => ok (s.slotFound k m.val x true soft (s.exmLookup p key x.d.epoch (ecc.map (fun y => (y.1.val, y.2)))))
    | _ => ok s

/-- LOOKUP_RESULT (R190): a searched result arrives in its slot and a context that waits for it becomes ready; a miss without
SOFTMISS ends the program. -/
def execLookupResult (g : Fin 64) (e : Fin 16) (c m : Fin 4) (s : State) : Host.Outcome State Fault Refusal :=
  let k := ctxKey g.val e.val c.val
  match s.ctxOf k with
  | none => ok s
  | some x =>
    match x.slot m.val with
    | .found exm soft r =>
      if r.status = 1 ∧ !soft then ok (s.endException k x (if exm then 4 else 3))
      else ok (s.setCtx k (some { x.setSlot m.val (.held r) with wait := if x.wait = some m.val then none else x.wait }))
    | _ => ok s

/-- An engine holds a packet. -/
def State.engineBusy (s : State) (g e : Nat) : Bool := (List.range 4).any (fun c => (s.ctxOf (ctxKey g e c)).isSome)

/-- An engine marked failed until it is retired (R201). -/
def State.markFailed (s : State) (g e : Nat) : State :=
  if s.eng.failed.contains (g * 16 + e) then s else s.setFailed (s.eng.failed ++ [g * 16 + e])

/-- ENGINE_WDOG (R198): a context that holds a packet has made no progress for WDOG µs. -/
def execEngineWdog (g : Fin 64) (e : Fin 16) (s : State) : Host.Outcome State Fault Refusal :=
  ok (if s.engineBusy g.val e.val && s.engineUp g.val e.val then (s.markFailed g.val e.val).raise .ENGINE_WDOG (srcGld g.val) e.val else s)

/-- ENGINE_PARITY (R198): a parity error in a structure of an engine (Table 6-21). -/
def execEngineParity (g : Fin 64) (e : Fin 16) (structure_ : Fin 4) (s : State) : Host.Outcome State Fault Refusal :=
  ok ((s.markFailed g.val e.val).raise .ENGINE_PARITY (srcGld g.val) (structure_.val * 16 + e.val))

/-- COST_WINDOW_END (R183): the mean slots per first-pass packet of the last 1 ms, saturating; 0 with no packet. -/
def execCostWindowEnd (g : Fin 64) (s : State) : Host.Outcome State Fault Refusal :=
  let x := s.guild g.val
  let mean := min 4095 (x.slotSum / x.packets)
  let s1 := (s.setGuild g.val { x with slotSum := 0, packets := 0 }).wr (Reg.GLD_COST.MEAN g.val) mean
  ok (if s.rd (Reg.GLD_COST.LIMIT g.val) < mean then (s1.wr (Reg.GLD_COST.OVER g.val) 1).raise .COST_OVER (srcGld g.val) mean else s1)

/-! Live code replacement (R205 to R210). -/

/-- GEN of the standby segment kept (Table 6-13). -/
def State.storeStbyGen (s : State) (g : Nat) : State := s.wr (Reg.GLD_GEN.STBY_GEN g) ((s.bankWord g true 1).toNat / 2 ^ 16)

/-- Banks exchanged: the standby one becomes active. -/
def State.swapBanks (s : State) (g : Nat) : State :=
  let gen := (s.bankWord g true 1).toNat / 2 ^ 16
  let s1 := s.wr (Reg.GLD_STATE.ACTIVE_BANK g) (1 - s.rd (Reg.GLD_STATE.ACTIVE_BANK g))
  ((s1.storeStbyGen g).wr (Reg.GLD_BANK.RESULT g) 0).wr (Reg.GLD_GEN.GEN g) gen

/-- Shared data initialised from the active segment (R205, R208). -/
def State.initShared (s : State) (g : Nat) : State :=
  let base := 64 + (s.bankWord g false 2).toNat * 8 + (s.bankWord g false 3).toNat
  let n := min 65536 (s.bankWord g false 4).toNat
  let x := s.guild g
  s.setGuild g { x with shared := (List.range n).foldl (fun t a => Tab.set (fun _ => 0) t a (s.bankByte g false (base + a))) [] }

/-- Generations in service (R206, R209): those of guilds not OFF. -/
def State.gensInService (s : State) : List Nat := (((List.range 64).filter (fun g => !(s.guildState g == .off))).map (fun g => s.guildGen g)).dedup

/-- The standby segment's generation may enter service: at most two are (R209). A LOAD or DRAIN that would bring a third is
ignored (DEDUCED, log entry 152). -/
def State.genFits (s : State) (g : Nat) : Bool :=
  let gens := s.gensInService
  gens.contains ((s.bankWord g true 1).toNat / 2 ^ 16) || decide (gens.length < 2)

/-- GLDg_CTRL commands (Table 6-9): DRAIN, ABORT, LOAD. -/
def State.gldCommand (s : State) (g cmd : Nat) : State :=
  match cmd, s.guildState g with
  | 1, .run => if s.rd (Reg.GLD_BANK.RESULT g) = 2 ∧ s.genFits g then s.wr (Reg.GLD_STATE.STATE g) GuildState.drain.code else s
  | 2, .drain => s.wr (Reg.GLD_STATE.STATE g) GuildState.run.code
  | 3, .off =>
    if s.rd (Reg.GLD_BANK.RESULT g) = 2 ∧ !s.flt.isolated .guild g ∧ s.genFits g then
      (((s.swapBanks g).initShared g)).wr (Reg.GLD_STATE.STATE g) GuildState.run.code
    else s
  | _, _ => s

/-- The test of a guild in CHECK passed, or is not asked for: RUN, and GEN takes the new generation (Table 6-9). -/
def State.checkPassed (s : State) (g : Nat) : State :=
  (s.wr (Reg.GLD_STATE.STATE g) GuildState.run.code).wr (Reg.GLD_GEN.GEN g) ((s.bankWord g false 1).toNat / 2 ^ 16)

/-- A write of GLDg_CTRL (R199, R202, R208): fields stored, engines whose ENG_EN bit is cleared retired through replay, a guild in
CHECK whose CHECK_EN becomes 0 back to RUN, the command taken. -/
def State.gldCtrl (s : State) (ag : Agent) (g : Nat) (v : Word) : State :=
  s.gate ag (Reg.GLD_CTRL.addr g) (fun s =>
    let old := s.word (Reg.GLD_CTRL.addr g)
    let s1 := s.storeWord ag (Reg.GLD_CTRL.addr g) v
    let s2 := (List.range 16).foldl (fun s e =>
      if old.getLsbD e && !(s.word (Reg.GLD_CTRL.addr g)).getLsbD e then s.emptyEngine g e else s) s1
    let s3 := if old.toNat % 65536 &&& (65535 ^^^ (s1.word (Reg.GLD_CTRL.addr g)).toNat % 65536) = 0 then s2 else s2.retireLoose g []
    let s4 := if s3.guildState g == .check && !s3.bit (Reg.GLD_CTRL.CHECK_EN g) then s3.checkPassed g else s3
    s4.gldCommand g (v.extractLsb' 28 4).toNat)

/-- A word of GLDg_CTRL with its CMD field set. -/
def withCmd (v : Word) (cmd : Nat) : Word := BitVec.ofNat 32 (cmd * 2 ^ 28 + v.toNat % 2 ^ 28)

/-- ENG_EN_WRITE (R199). -/
def execEngEnWrite (ag : Agent) (g : Fin 64) (v : BitVec 32) (s : State) : Host.Outcome State Fault Refusal := ok (s.gldCtrl ag g.val v)

/-- DRAIN (R208, R210). -/
def execDrain (ag : Agent) (g : Fin 64) (v : BitVec 32) (s : State) : Host.Outcome State Fault Refusal := ok (s.gldCtrl ag g.val (withCmd v 1))

/-- ABORT (R208). -/
def execAbort (ag : Agent) (g : Fin 64) (v : BitVec 32) (s : State) : Host.Outcome State Fault Refusal := ok (s.gldCtrl ag g.val (withCmd v 2))

/-- LOAD (R208). -/
def execGuildLoad (ag : Agent) (g : Fin 64) (v : BitVec 32) (s : State) : Host.Outcome State Fault Refusal := ok (s.gldCtrl ag g.val (withCmd v 3))

/-- A guild's contexts hold a pass. -/
def State.guildBusy (s : State) (g : Nat) : Bool := (List.range 16).any (fun e => s.engineBusy g e)

/-- Sorter holds a packet of a generation. -/
def State.holdsGen (s : State) (n : Nat) : Bool := s.fwd.flights.any (fun f => f.gen == some n)

/-- DRAIN_COMPLETE (R208, R209): a draining guild with no packet, and not the last holder of its generation while Sorter holds
a packet of it, goes to SWITCH. -/
def execDrainComplete (g : Fin 64) (s : State) : Host.Outcome State Fault Refusal :=
  ok (if s.guildState g.val == .drain && !s.guildBusy g.val && !(s.lastOfGen g.val && s.holdsGen (s.guildGen g.val)) then
      s.wr (Reg.GLD_STATE.STATE g.val) GuildState.switch.code
    else s)

/-- DRAIN_STUCK (R208): 1 ms in DRAIN replays the held packets in other guilds. -/
def execDrainStuck (g : Fin 64) (s : State) : Host.Outcome State Fault Refusal :=
  if s.guildState g.val == .drain then
    let held := ((List.range 16).map (fun e => if s.engineBusy g.val e && s.engineUp g.val e then 2 ^ e else 0)).sum
    ok ((((s.emptyGuild g.val).raise .DRAIN_STUCK (srcGld g.val) held)).wr (Reg.GLD_STATE.STATE g.val) GuildState.switch.code)
  else ok s

/-- SWITCH_DONE (R208): banks exchanged, shared data initialised unless KEEP_SHARED; the guild enters CHECK, and with CHECK_EN
0 returns to RUN. GEN takes the new generation only on RUN. -/
def execSwitchDone (g : Fin 64) (s : State) : Host.Outcome State Fault Refusal :=
  if s.guildState g.val == .switch then
    let old := s.guildGen g.val
    let s1 := s.swapBanks g.val
    let s2 := if (s1.bankWord g.val false 5).getLsbD 0 then s1 else s1.initShared g.val
    if s.bit (Reg.GLD_CTRL.CHECK_EN g.val) then ok ((s2.wr (Reg.GLD_GEN.GEN g.val) old).wr (Reg.GLD_STATE.STATE g.val) GuildState.check.code)
    else ok (s2.wr (Reg.GLD_STATE.STATE g.val) GuildState.run.code)
  else ok s

/-- Words of a chunk of the GLD window (Table 17-5). -/
def gldWords (idx : Nat) : Option Nat := if idx ≤ 4096 then some 16 else none

/-- A write of the standby bank is refused outside RUN (R207). -/
def State.gldRefused (s : State) (g : Nat) : Bool := !(s.guildState g == .run)

/-- Words of a chunk of the standby segment stored; RESULT cleared (R207, R210). -/
def State.gldStore (s : State) (g idx first : Nat) (ws : List Word) : State :=
  let x := s.guild g
  let put := fun (t : Tab Word) => (ws.zipIdx first).foldl (fun t (y : Word × Nat) => Tab.set (fun _ => 0) t (idx * 16 + y.2) y.1) t
  let y := if s.bit (Reg.GLD_STATE.ACTIVE_BANK g) then { x with bankA := put x.bankA } else { x with bankB := put x.bankB }
  ((s.setGuild g y).wr (Reg.GLD_BANK.RESULT g) 0).storeStbyGen g

/-- STANDBY_BANK_WRITE (R207, R210). -/
def execStandbyBankWrite (ag : Agent) (g : Fin 64) (idx : Fin 4097) (first : Fin 16) (ws : List (BitVec 32)) (s : State) :
    Host.Outcome State Fault Refusal :=
  ok (s.winGate ag (32 + g.val) idx.val (fun s =>
    if s.gldRefused g.val then s.deny ag .refused idx.val (32 + g.val) else s.gldStore g.val idx.val first.val (ws.take (16 - first.val))))

/-- VALIDATE (R206): the check of the standby segment starts. -/
def execValidateBank (ag : Agent) (g : Fin 64) (s : State) : Host.Outcome State Fault Refusal :=
  ok (s.gate ag (Reg.GLD_BANK.addr g.val) (fun s => s.wr (Reg.GLD_BANK.RESULT g.val) 1))

/-- The standby segment's instructions are of defined classes and their branch targets lie in it (Table 6-8 reason 5). -/
def State.codeOk (s : State) (g n : Nat) : Bool :=
  (List.range n).all (fun i =>
    let x := Insn.ofWords (s.bankWord g true (16 + 2 * i)) (s.bankWord g true (17 + 2 * i))
    decide (x.cls < 12) && !(x.cls == 2 && decide (x.op < 8) && decide (n ≤ x.imm % 2 ^ 14)))

/-- Why the standby segment is refused (R206, Table 6-8): the first reason that applies. -/
def State.segmentReason (s : State) (g : Nat) : Option Nat :=
  let w := fun i => (s.bankWord g true i).toNat
  let insns := w 2
  let consts := w 3
  let shared := w 4
  let gen := w 1 / 2 ^ 16
  let entry := fun i => w (6 + i / 2) / 2 ^ (16 * (i % 2)) % 65536
  let body := min (insns * 8 + consts + shared) (131072 + 65536 + 65536)
  let crcBytes := (List.range (60 + body)).map (fun i => s.bankByte g true (if i < 60 then i else i + 4))
  let mean := w 10 % 65536
  let most := w 10 / 65536
  let gens := s.gensInService
  if w 0 ≠ 0x494B4943 ∨ w 1 % 65536 ≠ 1 ∨ w 5 / 2 ≠ 0 ∨ w 13 ≠ 0 ∨ w 14 ≠ 0 then some 1
  else if crc32 crcBytes ≠ w 15 then some 2
  else if insns = 0 ∨ 16384 < insns ∨ 65536 < consts ∨ consts % 4 ≠ 0 ∨ 65536 < shared ∨ shared % 4 ≠ 0 ∨ gen = 0 then some 3
  else if !([0, 1, 2, 4, 5, 6].all (fun i => decide (entry i < insns))) ∨ entry 3 ≠ 0xFFFF ∨ entry 7 ≠ 0xFFFF then some 4
  else if !s.codeOk g insns then some 5
  else if s.rd (Reg.GLD_COST.LIMIT g) < mean then some 6
  else if most ≠ 0xFFFF ∧ s.insnMax g < most then some 7
  else if !gens.contains gen ∧ 2 ≤ gens.length then some 8
  else if !(s.bankWord g true (11 + g / 32)).getLsbD (g % 32) then some 9
  else none

/-- VALIDATE_DONE (R206). -/
def execValidateDone (g : Fin 64) (s : State) : Host.Outcome State Fault Refusal :=
  if s.rd (Reg.GLD_BANK.RESULT g.val) ≠ 1 then ok s
  else
    match s.segmentReason g.val with
    | none => ok (s.wr (Reg.GLD_BANK.RESULT g.val) 2)
    | some r => ok (((s.wr (Reg.GLD_BANK.RESULT g.val) 3).wr (Reg.GLD_BANK.REASON g.val) r).raise .CODE_REJECTED (srcGld g.val) r)

end Sys2Proof.Machine
end

