-- ==== Sys2Proof/Machine/Horolog.lean ====
section
/-! DEFINITION. The commands of time and synchronization (11_time_and_synchronization.md). -/

namespace Sys2Proof.Machine

set_option autoImplicit false

/-- Source of the Horologer. -/
abbrev srcHrl : Source := ⟨.HRL, 0⟩

/-- A value saturated to a signed field of `w` bits. -/
def satBits (w : Nat) (v : Int) : Nat := intBits w (max (-(2 ^ (w - 1) : Int)) (min v (2 ^ (w - 1) - 1)))

/-- A jump of the output time by `step` (R374): the PM interval is SUSPECT (R497), the ticks of the present frames are so much
later in it, and announcements follow (R383). -/
def State.outJump (s : State) (step : Int) : State :=
  let s1 : State := { s with pm := { s.pm with jumped := true } }
  (ports.foldl (fun s p => s.setPort p { s.port p with tick := (s.port p).tick + step }) s1).reannounce ports

/-- TIME_STEPPED of a domain's step or an output jump (R374). -/
def State.timeStepped (s : State) (jump : Bool) (d : Nat) (step : Int) : State :=
  let s1 := if jump then s.outJump step else s
  s1.raise .TIME_STEPPED srcHrl ((if jump then 2 ^ 33 else 0) + d * 2 ^ 32 + satBits 32 (roundDiv step (1000 * fracUnit)))

/-- A switch of the output domain (R373, R375, R383). -/
def State.switchOut (s : State) (d : Nat) : State :=
  let o := s.outTime - s.domTime d
  let s1 : State := { s with hrl := { s.hrl with ofs := o, ofsAt := s.now } }
  (((s1.wr Reg.HRL_CTRL.OUT_SEL d).reannounce ports).inc Cnt.HRL_SWITCHES).raise .TIME_SWITCHED srcHrl (d * 2 ^ 32 + satBits 32 (roundDiv o fracUnit))

/-- AUTO_SWITCH (R375): the output domain has entered HOLDOVER or FREERUN. -/
def State.autoSwitch (s : State) (d : Nat) : State :=
  if s.bit Reg.HRL_CTRL.AUTO_SW && s.outSel == d && (s.dom (1 - d)).state == .locked then s.switchOut (1 - d) else s

/-- A domain's change of state; leaving HOLDOVER ends TIME_HOLDOVER. -/
def State.setDomState (s : State) (d : Nat) (x : DomState) : State :=
  let s1 := s.setDom d { s.dom d with state := x, lockRun := 0, outRun := 0 }
  if x = .holdover then s1 else s1.endCause .TIME_HOLDOVER srcHrl d

/-- Source of a domain (Table 11-10): 0 PTP, 1 input 0, 2 input 1. -/
def State.domSrc (s : State) (d : Nat) : Nat := s.rd (Reg.HRL_DOM_CFG.SRC d) % 3

/-- FREQ_MAX in 2^−48. -/
def State.freqMax (s : State) (d : Nat) : Int := (s.rd (Reg.HRL_DOM_TMO.FREQ_MAX d) : Int) * fracUnit / 1000000000

/-- Clamp to ±FREQ_MAX. -/
def clampTo (m x : Int) : Int := max (-m) (min m x)

/-- SAMPLE_ACCEPT (R368, R371): an accepted sample e, in 2^−48 ns. -/
def State.acceptSample (s : State) (d : Nat) (e : Int) : State :=
  let x := s.dom d
  let s0 := (s.inc (Cnt.HRL_SAMPLES d)).wr (Reg.HRL_DOM_LAST_E.LAST_E d) (satBits 32 (roundDiv e fracUnit))
  let ts := match x.accepted with | some t => s.now - t | none => 0
  let thr := (s.rd (Reg.HRL_DOM_CFG.LOCK_THR d) : Int) * fracUnit
  let cnt := max 1 (s.rd (Reg.HRL_DOM_CFG.LOCK_CNT d))
  let mag : Int := e.natAbs
  let big := decide ((s.rd (Reg.HRL_DOM_CMD.PHASE_ALARM d) : Int) * fracUnit < mag)
  match x.state with
  | .freerun => s0.setDom d { x with accepted := some s.now }
  | .acquiring =>
    let s1 := (s0.setDom d { x with accepted := some s.now, stepped := true, base := s.domTime d - e, since := s.now }).setDomState d .tracking
    s1.timeStepped (s.outSel == d) d (-e)
  | _ =>
    let m := s.freqMax d
    let i := if ts = 0 then x.i else clampTo m (x.i - roundDiv e (2 ^ s.rd (Reg.HRL_DOM_CFG.KI_SHIFT d) * ts))
    let f := if ts = 0 then x.freq else clampTo m (i - roundDiv e (2 ^ s.rd (Reg.HRL_DOM_CFG.KP_SHIFT d) * ts))
    let s1 := (s0.setDom d { x with accepted := some s.now, i := i }).setFreq d f
    let s2 := if big then s1.onset .PHASE_LARGE srcHrl d (d * 2 ^ 32 + satBits 32 (roundDiv e fracUnit)) else s1.endCause .PHASE_LARGE srcHrl d
    let y := s2.dom d
    match x.state with
    | .tracking =>
      let run := if mag < thr then y.lockRun + 1 else 0
      if cnt ≤ run then s2.setDomState d .locked else s2.setDom d { y with lockRun := run }
    | .locked =>
      let run := if 4 * thr < mag then y.outRun + 1 else 0
      if 4 ≤ run then s2.setDomState d .tracking else s2.setDom d { y with outRun := run }
    | _ => s2.setDomState d .tracking

/-- A sample reaches a domain (R370): rejected, or accepted. -/
def State.domSample (s : State) (d : Nat) (e : Int) (far : Bool) : State :=
  let x := s.dom d
  let near := match x.sampled with | some t => decide (s.now < t + 10000000) | none => false
  let s1 := s.setDom d { x with sampled := some s.now }
  if (far && x.state != .acquiring) || near then s1.inc (Cnt.HRL_REJECTED d) else s1.acceptSample d e

/-- An enabled domain in FREERUN whose source is qualified acquires (R368, R369). -/
def State.acquire (s : State) (d : Nat) : State :=
  if s.bit (Reg.HRL_DOM_CFG.EN d) && (s.dom d).state == .freerun then s.setDomState d .acquiring else s

/-- PHASE_SAMPLE_COMMIT (R369, R370): a write of S_SEC commits the sample of the words written before it. -/
def execPhaseSampleCommit (ag : Agent) (d : Fin 2) (v : Word) (s : State) : Host.Outcome State Fault Refusal :=
  ok (s.gate ag (Reg.HRL_DOM_S_SEC.addr d.val) (fun s =>
    let n := d.val
    let ns := fldInt (s.word (Reg.HRL_DOM_S_NS.addr n)) (Reg.HRL_DOM_S_NS.S_NS n)
    let e := (v.toInt * 1000000000 + ns) * fracUnit + (s.rd (Reg.HRL_DOM_S_FRAC.S_FRAC n) : Int) * 2 ^ 32
    let far := decide (v ≠ 0#32) || decide (1000000000 ≤ ns.natAbs)
    let s1 := if s.domSrc n = 0 then s.acquire n else s
    s1.domSample n e far))

/-- DOMAIN_EN_WRITE (R368): EN := 0 takes the domain to FREERUN; EN := 1 acquires at once from a qualified pin source. -/
def execDomainEnWrite (ag : Agent) (d : Fin 2) (v : Word) (s : State) : Host.Outcome State Fault Refusal :=
  ok (s.gate ag (Reg.HRL_DOM_CFG.addr d.val) (fun s =>
    let n := d.val
    let s1 := s.storeWord ag (Reg.HRL_DOM_CFG.addr n) v
    if s1.bit (Reg.HRL_DOM_CFG.EN n) then
      (if s1.domSrc n ≠ 0 ∧ 3 ≤ (s1.ppsIn (s1.domSrc n - 1)).run then s1.acquire n else s1)
    else
      let was := (s1.dom n).state
      let s2 := (s1.setDomState n .freerun).setFreq n 0
      let s3 := s2.setDom n { s2.dom n with stepped := false }
      if was = .freerun then s3 else s3.autoSwitch n))

/-- SOURCE_TIMEOUT (R368, R375): no accepted sample for SRC_TMO. -/
def execSourceTimeout (d : Fin 2) (s : State) : Host.Outcome State Fault Refusal :=
  let n := d.val
  let lost := fun (s : State) => s.raise .TIME_SRC_LOST srcHrl (n * 2 ^ 32 + s.domSrc n)
  ok (match (s.dom n).state with
    | .acquiring => (lost (s.setDomState n .freerun)).autoSwitch n
    | .tracking | .locked =>
      let m := s.meanFreq n
      let s1 := s.setFreq n m
      let s2 := (s1.setDom n { s1.dom n with i := m }).setDomState n .holdover
      (((lost s2).inc (Cnt.HRL_HOLDOVERS n)).onset .TIME_HOLDOVER srcHrl n (n * 2 ^ 32)).autoSwitch n
    | _ => s)

/-- WTR_EXPIRY (R375): PREF has been LOCKED for WTR seconds while the output is on the other domain. -/
def execWtrExpiry (s : State) : Host.Outcome State Fault Refusal :=
  let p := s.rd Reg.HRL_CTRL.PREF
  ok (if s.bit Reg.HRL_CTRL.REVERT && s.outSel != p && (s.dom p).state == .locked then s.switchOut p else s)

/-- SWITCH (R373, Table 11-4): HRL_CTRL written with CMD 1. -/
def execSwitchOutput (ag : Agent) (v : Word) (s : State) : Host.Outcome State Fault Refusal :=
  ok (s.gate ag Reg.HRL_CTRL.addr (fun s => (s.storeWord ag Reg.HRL_CTRL.addr v).switchOut (1 - s.outSel)))

/-- OUT_STEP (R374): OFS := 0 at once, which is a jump unless OFS was 0. -/
def execOutStep (ag : Agent) (v : Word) (s : State) : Host.Outcome State Fault Refusal :=
  ok (s.gate ag Reg.HRL_CTRL.addr (fun s =>
    let o := s.ofsNow
    let s1 := s.storeWord ag Reg.HRL_CTRL.addr v
    let s2 : State := { s1 with hrl := { s1.hrl with ofs := 0, ofsAt := s1.now } }
    if o = 0 then s2 else s2.timeStepped true s2.outSel (-o)))

/-- REACQUIRE (R368, R374): refused with IN_USE for the output domain. -/
def execReacquire (ag : Agent) (d : Fin 2) (v : Word) (s : State) : Host.Outcome State Fault Refusal :=
  let n := d.val
  ok (s.gate ag (Reg.HRL_DOM_CMD.addr n) (fun s =>
    let s1 := s.storeWord ag (Reg.HRL_DOM_CMD.addr n) v
    if s1.outSel = n then s1.wr (Reg.HRL_DOM_CMD.CODE n) 1
    else
      let s2 := s1.wr (Reg.HRL_DOM_CMD.CODE n) 0
      if (s2.dom n).state = .freerun then s2
      else
        let s3 := s2.setDomState n .freerun
        s3.setDom n { s3.dom n with stepped := false }))

/-- PPS_IN_EDGE (R369, R370, R380): an edge named by a valid ToD message commits a sample to the domains of the input. -/
def execPpsInEdge (i : Fin 2) (s : State) : Host.Outcome State Fault Refusal :=
  let x := s.ppsIn i.val
  let s0 := s.inc (Cnt.HRL_PPS_EDGES i.val)
  let onTime := match x.edge with | some t => decide (t + 999900000 ≤ s.now) && decide (s.now ≤ t + 1000100000) | none => false
  match x.tod with
  | none => ok (((s0.setPpsIn i.val { x with edge := some s.now, run := 0, sec := none }).inc (Cnt.HRL_TOD_ERR i.val)).raise .TOD_MSG_ERR srcHrl (10 + i.val))
  | some sec =>
    let follows := match x.sec with | some n => decide (sec = n + 1) | none => false
    let run := if onTime then (if follows then x.run + 1 else 1) else 0
    let s1 := s0.setPpsIn i.val ⟨some s.now, none, some sec, run⟩
    ok ([0, 1].foldl (fun s d =>
      if s.domSrc d = i.val + 1 then
        let s2 := if 3 ≤ run then s.acquire d else s
        let e := s2.domTime d - ((s2.rd Reg.HRL_PPS_CFG.PPS_IN_DLY : Int) + (sec : Int) * 1000000000) * fracUnit
        s2.domSample d e (decide (1000000000 * fracUnit ≤ e.natAbs))
      else s) s1)

/-- PPS_MISSED (R380): an edge has not arrived within 1 s ± 100 µs of the one before. -/
def execPpsMissed (i : Fin 2) (s : State) : Host.Outcome State Fault Refusal :=
  ok (((s.setPpsIn i.val { s.ppsIn i.val with run := 0 }).inc (Cnt.HRL_PPS_MISSED i.val)).raise .PPS_MISSING srcHrl i.val)

/-- TOD_MESSAGE_RX (R380, Table 11-2): the 16 bytes received on an input, the last one now. -/
def execTodMessageRx (i : Fin 2) (bytes : List Byte) (s : State) : Host.Outcome State Fault Refusal :=
  let x := s.ppsIn i.val
  let gap := match x.edge with | some t => s.now - t | none => 0
  let err := fun (c : Nat) => ((s.setPpsIn i.val { x with tod := none }).inc (Cnt.HRL_TOD_ERR i.val)).raise .TOD_MSG_ERR srcHrl (c * 2 + i.val)
  ok (if beNat (sliceZ bytes 0 2) ≠ 0x4E57 then err 1
    else if crc16 (sliceZ bytes 0 14) ≠ beNat (sliceZ bytes 14 2) then err 2
    else if !(bytes.getD 3 0).getLsbD 0 then err 3
    else if x.edge.isNone ∨ gap < 10000000 ∨ 900000000 < gap then err 4
    else s.setPpsIn i.val { x with tod := some (beNat (sliceZ bytes 4 6)) })

/-- PPS_OUT_EDGE (R381). -/
def execPpsOutEdge (s : State) : Host.Outcome State Fault Refusal :=
  ok (if s.bit Reg.HRL_PPS_CFG.OUT_EN then { s with hrl := { s.hrl with ppsOut := some s.now } } else s)

/-- TOD_OUT_SEND (R381, Table 11-2): the message for the next edge; reserved bytes are zero. -/
def execTodOutSend (s : State) : Host.Outcome State Fault Refusal :=
  let lock := (s.dom s.outSel).state == .locked
  let sec := (s.outTime / (1000000000 * fracUnit)).toNat + 1
  let leap := s.rd Reg.HRL_UTC.LEAP
  let head := beBytes 2 0x4E57 ++ [1#8, BitVec.ofNat 8 ((if lock then 1 else 0) + leap * 2)] ++ beBytes 6 sec
    ++ beBytes 2 (s.rd Reg.HRL_UTC.UTC_OFS) ++ [0#8, 0#8]
  ok (if s.bit Reg.HRL_PPS_CFG.OUT_EN then { s with hrl := { s.hrl with todOut := head ++ beBytes 2 (crc16 head) } } else s)

/-- TS_RECORD_READ (R378): the oldest record taken; an empty one reads with VALID = 0. -/
def execTsRecordRead (ag : Agent) (tx : Bool) (s : State) : Host.Outcome State Fault Refusal :=
  let a := if tx then Reg.HRL_TS_TX_W0.addr else Reg.HRL_TS_RX_W0.addr
  let lat := fun (s : State) (l : List Word) => l.zipIdx.foldl (fun s x => s.setLatch (a + 4 + x.2 * 4) x.1) s
  match ag with
  | .vf _ => ok ((s.denyAs true ag .scope a noWin).answer ag 0#32)
  | _ => ok (match if tx then s.hrl.tsTx else s.hrl.tsRx with
    | [] => (lat s [0#32, 0#32, 0#32, 0#32]).answer ag 0#32
    | r :: t =>
      let s1 : State := if tx then { s with hrl := { s.hrl with tsTx := t } } else { s with hrl := { s.hrl with tsRx := t } }
      let w0 := BitVec.ofNat 32 (2 ^ 31 + r.lane * 2 ^ 21 + r.mtype * 2 ^ 17 + r.dom * 2 ^ 16 + r.seq)
      (lat s1 (timeWords r.time)).answer ag w0)

/-- A signed time in 2^−48 ns nearest to zero, of one known modulo 2^64 ns (R367). -/
def nearTime (x : Int) : Int :=
  let m : Int := 2 ^ 64 * fracUnit
  let y := x % m
  if m / 2 ≤ y then y - m else y

/-- Frame and position of a CTI record's WSTART in the upstream spans of an ONU (R121, R367): the span of frame K begins at the
output time T_K + TEQD − d_up, with T_K that of its PSBd's first bit (DEDUCED, log entry 159); a position between two units
counts as the later. -/
def State.ctiPlace (s : State) (p : Fin 32) (sd onu wstart : Nat) : Int × Nat :=
  let bits := fun (n : Int) => roundDiv (n * 10000 * fracUnit) 497664
  let m := s.sfc p
  let frame := s.tSend p (m + 1) - s.tSend p m
  let row := s.onuRow p sd onu
  let rtd := bits ((s.slot p onu).rtdc * (if row = 3 then 5 else upb row))
  let start := s.tSend p m + bits (s.rd (Reg.PT_TEQD.TEQD p.val)) - (rtd - 35000 * fracUnit) / 2
  let x := nearTime (wstart * fracUnit - start)
  (m + x / frame, (-(-(x % frame * frameLen sd) / frame)).toNat)

/-- CTI_RECORD_TAKE (R121, R123): the oldest record handed off enters the queue of 4,096 with the frame and position its WSTART
falls at; a late one goes to the first map whose build has not started, from start time 0. One that finds the queue full, or
that names an entry that is not of TYPE CTI, is dropped. -/
def execCtiRecordTake (s : State) : Host.Outcome State Fault Refusal :=
  match s.whf.handoffs with
  | [] => ok s
  | (tree, idx, wstart, bytes) :: rest =>
    let s1 := { s with whf := { s.whf with handoffs := rest } }
    let p : Fin 32 := Fin.ofNat 32 tree
    let sd := s.rd (Win.ALLOC_SIDE (allocIx p idx))
    if !s.bit Reg.WHF_CTI_CFG.EN || decide (4096 ≤ s.whf.cti.length) || s.rd (Win.ALLOC_TYPE (allocIx p idx)) != 2 then
      ok (s1.inc (Cnt.WHF_CTI_DROPPED p.val sd))
    else
      let k := s.ctiPlace p sd (s.rd (Win.ALLOC_ONU (allocIx p idx))) wstart
      let late := decide (k.1 < s.nextBuild p)
      let r : CtiRec := if late then ⟨tree, idx, bytes, s.nextBuild p, 0, 0, false⟩ else ⟨tree, idx, bytes, k.1.toNat, k.2, 0, false⟩
      let s2 := { s1 with whf := { s1.whf with cti := s1.whf.cti ++ [r] } }
      ok (if late then s2.inc (Cnt.WHF_CTI_LATE p.val sd) else s2)

/-- TOD_EN of a node (Table 11-7). -/
def State.todEn (s : State) (node : Nat) : Bool := s.bit (winFld wHrl (node / 32) 0 (node % 32) 1)

/-- An announcement to a node is due (R383): none stands since its ONU's entry to ACTIVE or the last event that asks for one, or
PERIOD superframes have passed. -/
def State.annDue (s : State) (p : Fin 32) (node : Nat) : Bool :=
  match Tab.find s.hrl.ann node with
  | none => true
  | some x => decide (x.1 + 8 * max 1 (s.rd Reg.HRL_TOD_CFG.PERIOD) ≤ s.sfc p)

/-- TOD_ANNOUNCE (R383): an ACTIVE ONU with TOD_EN to which an announcement is due is given the frame that starts a superframe
ANN_LEAD to ANN_LEAD + 7 frames ahead, and its T_send. -/
def execTodAnnounce (p : Fin 32) (slot : Fin 256) (s : State) : Host.Outcome State Fault Refusal :=
  let k := slotKey p slot.val
  let lead := max 16 (s.rd Reg.HRL_TOD_CFG.ANN_LEAD)
  let n := ((s.port p).sfc + lead + 7) / 8 * 8
  ok (if s.bit Reg.HRL_TOD_CFG.EN && s.todEn k && (s.slot p slot.val).state == .active && s.stewards p && s.annDue p k then
      ({ s with hrl := { s.hrl with ann := Tab.set (fun _ => (0, 0, 0)) s.hrl.ann k (s.sfc p, n, s.tSend p n) } } : State).inc Cnt.HRL_ANNOUNCES
    else s)

/-- PON_FREQ_MEASURE (R382, R384): y over the last second, in 1/256 ppb. -/
def execPonFreqMeasure (y : BitVec 32) (s : State) : Host.Outcome State Fault Refusal :=
  let s1 := s.wr Reg.HRL_PON_FREQ.Y y.toNat
  ok (if s.rd Reg.HRL_TOD_CFG.DRIFT_MAX * 256 < y.toInt.natAbs then s1.onset .PON_REF_DRIFT srcHrl 0 y.toNat else s1.endCause .PON_REF_DRIFT srcHrl 0)

/-- Enable, force and lane of a SyncE output (Table 11-9). -/
def synceFld (o : Nat) : Fld × Fld × Fld :=
  if o = 0 then (Reg.HRL_SYNCE_CFG.EN0, Reg.HRL_SYNCE_CFG.SQ_FORCE0, Reg.HRL_SYNCE_CFG.LANE0)
  else (Reg.HRL_SYNCE_CFG.EN1, Reg.HRL_SYNCE_CFG.SQ_FORCE1, Reg.HRL_SYNCE_CFG.LANE1)

/-- An output held low, or not. -/
def State.setSquelch (s : State) (o : Nat) (b : Bool) : State :=
  if o = 0 then { s with hrl := { s.hrl with squelch0 := b } } else { s with hrl := { s.hrl with squelch1 := b } }

/-- SYNCE_SQUELCH (R387): the output's lane has lost lock or begun a retrain, or SQ_FORCE is 1. -/
def execSynceSquelch (o : Fin 2) (s : State) : Host.Outcome State Fault Refusal :=
  let f := synceFld o.val
  ok (if !s.bit f.1 || (if o.val = 0 then s.hrl.squelch0 else s.hrl.squelch1) then s
    else ((s.setSquelch o.val true).inc Cnt.HRL_SQUELCHES).onset .SYNCE_SQUELCH srcHrl o.val (o.val * 256 + s.rd f.2.2))

/-- SYNCE_RESUME (R387): the lane has been locked again for 10 ms with SQ_FORCE at 0. -/
def execSynceResume (o : Fin 2) (s : State) : Host.Outcome State Fault Refusal :=
  ok (if s.bit (synceFld o.val).2.1 then s else (s.setSquelch o.val false).endCause .SYNCE_SQUELCH srcHrl o.val)

end Sys2Proof.Machine
end

