-- ==== Sys2Proof/Machine/LdgCmd.lean ====
section
/-! DEFINITION. The commands of Ledger and the exact-match table (07_ledger_and_exact_match.md): update commands by port,
moves, scrubbing, stash drain and epochs. -/

namespace Sys2Proof.Machine

set_option autoImplicit false

/-- Cells read with an error, by number. -/
def eccCells (l : List (Fin 532480 × Bool)) : List (Nat × Bool) := l.map (fun x => (x.1.val, x.2))

/-- WRITE (R230, R244, R251). -/
def execLdgWrite (ag : Agent) (k : Fin 2) (v : BitVec 32) (s : State) : Host.Outcome State Fault Refusal := ok (s.ldgCmd ag k.val 1 v Reads.clean)

/-- INSERT (R225, R251). -/
def execLdgInsert (ag : Agent) (k : Fin 2) (v : BitVec 32) (s : State) : Host.Outcome State Fault Refusal := ok (s.ldgCmd ag k.val 2 v Reads.clean)

/-- DELETE (R240, R244, R251); `ecc` names the cells it read with an error. -/
def execDelete (ag : Agent) (k : Fin 2) (v : BitVec 32) (ecc : List (Fin 532480 × Bool)) (s : State) : Host.Outcome State Fault Refusal :=
  ok (s.ldgCmd ag k.val 3 v ⟨none, eccCells ecc⟩)

/-- MODIFY (R240, R246, R251); `ecc` names the cells it read with an error. -/
def execModify (ag : Agent) (k : Fin 2) (v : BitVec 32) (ecc : List (Fin 532480 × Bool)) (s : State) : Host.Outcome State Fault Refusal :=
  ok (s.ldgCmd ag k.val 4 v ⟨none, eccCells ecc⟩)

/-- ADD (R238, R240, R245, R251); `ecc` names the cells it read with an error. -/
def execAddKey (ag : Agent) (k : Fin 2) (v : BitVec 32) (ecc : List (Fin 532480 × Bool)) (s : State) : Host.Outcome State Fault Refusal :=
  ok (s.ldgCmd ag k.val 5 v ⟨none, eccCells ecc⟩)

/-- LOOKUP (R233, R240, R251); `upset` is the row found to differ from its shadow at the winning entry, `ecc` names the cells
read with an error. -/
def execLookup (ag : Agent) (k : Fin 2) (v : BitVec 32) (upset : Option (Fin 65536)) (ecc : List (Fin 532480 × Bool)) (s : State) :
    Host.Outcome State Fault Refusal :=
  ok (s.ldgCmd ag k.val 6 v ⟨upset.map (·.val), eccCells ecc⟩)

/-- OPEN (R243, R251). -/
def execOpenEpoch (ag : Agent) (k : Fin 2) (v : BitVec 32) (s : State) : Host.Outcome State Fault Refusal := ok (s.ldgCmd ag k.val 8 v Reads.clean)

/-- PUBLISH (R247, R251). -/
def execPublish (ag : Agent) (k : Fin 2) (v : BitVec 32) (s : State) : Host.Outcome State Fault Refusal := ok (s.ldgCmd ag k.val 9 v Reads.clean)

/-- DISCARD (R249, R251). -/
def execDiscard (ag : Agent) (k : Fin 2) (v : BitVec 32) (s : State) : Host.Outcome State Fault Refusal := ok (s.ldgCmd ag k.val 10 v Reads.clean)

/-- LEDGER_MOVE (R226): the next move of the INSERT under way; after the last one the new entry is written and the next
command may start. -/
def execLedgerMove (s : State) : Host.Outcome State Fault Refusal :=
  match s.ldg.job with
  | some (.insert j) =>
    match j.moves with
    | [] => ok s
    | m :: t =>
      let s1 := (s.moveRow m.1 m.2).inc Cnt.LDG_MOVES
      if t = [] then ok ({ s1 with ldg := { s1.ldg with job := none } }.insFinish j).ldgNext
      else ok { s1 with ldg := { s1.ldg with job := some (.insert { j with moves := t }) } }
  | _ => ok s

/-- An INSERT is moving entries. -/
def State.inserting (s : State) : Bool := match s.ldg.job with | some (.insert _) => true | _ => false

/-- RESPREAD_MOVE (R229): one move of the background mover in a region; it waits while an INSERT moves entries (DEDUCED, log
entry 18), and interleaves with every other command (R252). -/
def execRespreadMove (r : Fin 16) (s : State) : Host.Outcome State Fault Refusal :=
  if !s.bit Reg.LDG_CFG.RESPREAD ∨ !s.bit (Reg.LDG_REGION.VALID r.val) ∨ s.inserting then ok s
  else
    match s.respread r.val with
    | none => ok s
    | some m => ok ((s.moveRow (s.regionIndex r.val m.1) (s.regionIndex r.val m.2)).inc Cnt.LDG_RESPREAD_MOVES)

/-- What comparing a row with its shadow finds (R232). -/
def State.scrub (s : State) (row : Nat) (mismatch uncorr : Bool) : State :=
  let i := row / widthRows (s.bankWidth (row / 1024)) * widthRows (s.bankWidth (row / 1024))
  if uncorr then (s.setRow i none).raise .LDG_UNCORR srcLdg i
  else if mismatch then s.fixRow row
  else s

/-- SCRUB_ROW (R232): `mismatch` says the row differs from its shadow, `uncorr` that the shadow word is uncorrectable. -/
def execScrubRow (row : Fin 65536) (mismatch uncorr : Bool) (s : State) : Host.Outcome State Fault Refusal :=
  ok (if s.bit Reg.LDG_CFG.SCRUB_EN then s.scrub row.val mismatch uncorr else s)

/-- STASH_DRAIN_PASS (R239, R240); `ecc` names the cells it read with an error. -/
def execStashDrainPass (ecc : List (Fin 532480 × Bool)) (s : State) : Host.Outcome State Fault Refusal :=
  let s0 := s.cellsEcc (eccCells ecc)
  let s1 := if s.bit Reg.EXM_CFG.STASH_DRAIN then
      ((s0.ldg.cells.map (·.1)).filter (fun i => decide (stashBase ≤ i))).foldl (fun s i => s.drainStash i) s0 else s
  ok s1.stashHigh

/-- EPOCH_RETIRE (R243, R248, R252): the oldest epoch, DRAINING with no reference, starts its retirement sweep; due while a
command of several steps runs, the sweep starts when that command completes. -/
def execEpochRetire (s : State) : Host.Outcome State Fault Refusal := ok s.retireStart

/-- SWEEP stored: a sweep is running (Table 7-9). -/
def State.storeSweep (s : State) : State :=
  let disc := match s.ldg.job with | some (.discard _ _) => true | _ => false
  s.wr Reg.LDG_EPOCH.SWEEP (if s.ldg.sweep.isSome || disc then 1 else 0)

/-- The end of a retirement sweep (R248). -/
def State.retireDone (s : State) (e : Nat) : State :=
  let n := (e + 1) % 16
  let s1 := ((s.sweepAll (retireLife e n)).wr Reg.LDG_EPOCH.OLDEST n).inc Cnt.LDG_SWEEPS
  { s1 with ldg := { s1.ldg with sweep := none } }.storeLive.storeSweep

/-- The end of a discard sweep and of its command (R249). -/
def State.discardDone (s : State) (k e : Nat) : State :=
  let s1 := (s.sweepAll (discardLife e)).inc Cnt.LDG_SWEEPS
  (({ s1 with ldg := { s1.ldg with job := none } }.storeSweep).ldgDone k .ok none).ldgNext

/-- SWEEP_DONE (R248, R249): of the discard sweep, or of the retirement sweep. The sweep changes every entry at its end (DESIGN
CHOICE, log entry 166); `ecc` names the cells it read with an error (R240). -/
def execSweepDone (discard : Bool) (ecc : List (Fin 532480 × Bool)) (s : State) : Host.Outcome State Fault Refusal :=
  if discard then
    match s.ldg.job with
    | some (.discard k e) => ok ((s.cellsEcc (eccCells ecc)).discardDone k e)
    | _ => ok s
  else
    match s.ldg.sweep with
    | some e => ok ((s.cellsEcc (eccCells ecc)).retireDone e)
    | none => ok s

/-- EPOCH_STUCK (R250): once for an epoch DRAINING longer than STUCK_MS. -/
def execEpochStuck (e : Fin 16) (s : State) : Host.Outcome State Fault Refusal :=
  if s.draining e.val && s.rd Reg.LDG_EPOCH_CFG.STUCK_MS != 0 && !s.ldg.stuck.contains e.val then
    let s1 := s.raise .EPOCH_STUCK srcLdg (e.val * 2 ^ 20 + s.rd (Reg.LDG_EPOCH_REF.COUNT e.val))
    ok { s1 with ldg := { s1.ldg with stuck := e.val :: s1.ldg.stuck } }
  else ok s

end Sys2Proof.Machine
end

