-- ==== Sys2Proof/Machine/Twin.lean ====
section
/-! DEFINITION. Twin protection (10_twin_protection.md R336 to R363) as operations of the state, and its commands. TABLE and
SYNC, which write registers, are in Mirror.lean. -/

namespace Sys2Proof.Machine

set_option autoImplicit false

/-- Source of the twin logic. -/
abbrev srcTwn : Source := ⟨.TWN, 0⟩

/-- Trees of a mask, rising. -/
def treesOf (m : Nat) : List (Fin 32) := ports.filter (fun p => m.testBit p.val)

/-- Mask of trees. -/
def maskOf (l : List (Fin 32)) : Nat := (l.dedup.map (fun p => 2 ^ p.val)).sum

/-- Lanes 0 to 3 that are ACTIVE. -/
def State.twinLanes (s : State) : Nat := ((List.range 4).filter (fun i => (s.rd Reg.TWN_STATUS.LANES_UP).testBit i)).length

/-- DARK_IN state: 0 DARK, 1 LIT, 2 STUCK (R351). -/
def State.darkIn (s : State) : Nat := s.rd Reg.TWN_STATUS.DARK_IN

/-- A shadow tree is READY (R339, R347); an SFC found not to match clears READY of every shadow tree until the next HEARTBEAT
shows that R339 holds again (R363, log entry 175). -/
def State.ready (s : State) (p : Fin 32) : Bool :=
  s.bit Reg.TWN_CFG.EN && !s.owned p.val && s.twn.alive && decide (2 ≤ s.twinLanes) && (s.twinTree p).gap == 0
    && s.deltaValid p && decide ((s.rdInt (Reg.TWN_PORT_W0.DELTA p.val)).natAbs ≤ 50000000)
    && !s.twn.mis.contains p && !s.twn.unready
    && [0, 1].all (fun sd => !(s.sideEn p sd && s.flt.active .US_LOSS (srcPt p) sd))

/-- TWN_READY. -/
def State.readyMask (s : State) : Nat := maskOf (ports.filter s.ready)

/-- Trees the partner owned in its last HEARTBEAT. -/
def State.partnerOwns (s : State) : List (Fin 32) := match s.twn.hb with | some h => treesOf h.own | none => []

/-- TWIN_SPLIT begins or ends (R338, R351). -/
def State.split (s : State) (on : Bool) : State :=
  if on then s.onset .TWIN_SPLIT srcTwn 0 s.darkIn else s.endCause .TWIN_SPLIT srcTwn 0

/-- Store of ownership. -/
def State.setOwn (s : State) (l : List (Fin 32)) : State := s.wr Reg.TWN_OWN.OWN (maskOf l)

/-- Trees owned by TWN_OWN. -/
def State.ownTrees (s : State) : List (Fin 32) := treesOf (s.rd Reg.TWN_OWN.OWN)

/-- PRIMARY strap (Table 16-3). -/
def State.strapPrimary (s : State) : Bool := (s.rd Reg.GLB_STRAPS.MXP).testBit 5

/-- The device acts as PRIMARY (R338): its strap, or, where both straps are the same, the lower serial number. -/
def State.primary (s : State) : Bool :=
  match s.twn.hb with
  | some h =>
    if h.role.testBit 7 == s.strapPrimary then
      (match s.twn.serial with | some n => decide (Config.serial < n) | none => s.strapPrimary)
    else s.strapPrimary
  | none => s.strapPrimary

/-- OWNERSHIP_TAKE (R338, Table 10-1): the role taken is shown in TWN_STATUS. -/
def State.takeOwnership (s0 : State) : State :=
  let s := s0.wr Reg.TWN_STATUS.PRIMARY (if s0.primary then 1 else 0)
  if !s0.bit Reg.TWN_CFG.EN then s0
  else
    let put := fun (l : List (Fin 32)) => (({ s with twn := { s.twn with split := false } }.setOwn l).split false)
    if s.twn.alive then
      let theirs := s.partnerOwns
      if theirs ≠ [] then put (if s.primary then ports.filter (fun p => !theirs.contains p) else [])
      else put (if s.primary then ports else [])
    else if s.darkIn = 0 then put ports
    else (({ s with twn := { s.twn with split := true } }.setOwn []).split true)

/-- An ownership left undecided is settled again when the link or the pin changes (R338). -/
def State.redecide (s : State) : State := if s.twn.split then s.takeOwnership else s

/-! Sequence numbers (R341). -/

/-- The trees a message of a port concerns. -/
def portOf? (port : Nat) : Option (Fin 32) := if h : port < 32 then some ⟨port, h⟩ else none

/-- A message of a type and port with its SEQ received (R341): a gap counts, raises MIRROR_GAP, holds the tree from READY for
16 frames and asks for a resend. -/
def State.seqRx (s : State) (type_ port side seq sfc : Nat) : State :=
  let k := type_ * 256 + port
  let want := Tab.get (fun _ => 0) s.twn.rxSeq k
  let s1 : State := { s with twn := { s.twn with rxSeq := Tab.set (fun _ => 0) s.twn.rxSeq k (seq % 2 ^ 32 + 1) } }
  match portOf? port with
  | none => s1
  | some p =>
    if want = 0 ∨ seq % 2 ^ 32 = want % 2 ^ 32 then s1
    else
      let s2 := ((s1.inc Cnt.TWN_MIRROR_GAPS).raise .MIRROR_GAP srcTwn (portAddr p (side % 2) (type_ * 2 ^ 26 + sfc % 2 ^ 24))).setTwinTree p
        { s.twinTree p with gap := 16 }
      s2.twinSend 11 port side sfc (256 + type_)

/-- A mirror message of a tree this device shadows, applied (R341, R353 step 1). -/
def State.mirrored (s : State) (type_ : Nat) (p : Fin 32) (side seq sfc : Nat) (k : State → State) : State :=
  let s1 := s.seqRx type_ p.val side seq sfc
  if !s.bit Reg.TWN_CFG.EN || s.owned p.val then s1 else (k s1).inc Cnt.TWN_MIRROR_MSGS

/-! Takeover (R350 to R357). -/

/-- SFC_SEEN of a tree (R343). -/
def State.sfcSeen (s : State) (p : Fin 32) : Nat :=
  match s.twn.hb with
  | some h => h.sfc + (if h.ahead.testBit p.val then 1 else 0)
  | none => s.sfc p

/-- R323: 2^20 added to the USAGE of every ONU root slot; an EMPTY one has no DK to count blocks under, and its USAGE starts at 0
with its next LOAD (R319, Table 9-5; DEDUCED, log entry 158). -/
def State.takeoverUsage (s : State) : State :=
  ((s.keys.roots.filter (fun x => decide (x.1 < 16384))).map (·.1)).foldl (fun s k => s.useKey k (2 ^ 20)) s

/-- Steps 1 to 3 and 5 of R353 for one tree: it is owned, lights its lasers once its delay is over, and expects the first
bursts in wide windows; the bound of R323 stands, and announcements follow (R383). -/
def State.takeTree (s : State) (p : Fin 32) (num : Nat) : State :=
  let d := s.rdInt (Reg.TWN_PORT_W0.DELTA p.val)
  let delay := if d < 0 then ceilDiv d.natAbs 1000 else 0
  let t := s.twinTree p
  let s1 := s.setOwn (s.ownTrees ++ [p])
  let s2 := s1.setTwinTree p { t with gap := 0, lit := some (s.now + delay), seen := some (s.sfcSeen p), ownFrom := s1.nextBuild p
                                      lastSwitch := if num = 3 ∨ num = 4 then some s.now else t.lastSwitch }
  ([0, 1].foldl (fun s sd => if s.sideEn p sd then s.setSide p sd { s.side p sd with wide := 8, wideFrom := none } else s) s2).reannounce [p]

/-- The re-ranging grant of a slot lies in a mirrored map still to be sent, or is awaited in a frame that has been. -/
def State.rangeAwaited (s : State) (p : Fin 32) (i : Nat) : Bool :=
  [0, 1].any (fun sd => (s.side p sd).rng.any (fun e => e.burst.onu == i)
    || (Tab.get (fun _ => []) s.twn.maps (p.val * 2 + sd)).any (fun m => m.bursts.any (fun b => b.kind == .rerange && b.onu == i)))

/-- R87 and R355, R90: waits of mirrored messages restart from the last frame before the takeover; a slot that was ASSIGNED or
RANGED is sent Deactivate_ONU-ID and freed; a re-ranging grant whose map is not sent is due again. -/
def State.takeSlots (s : State) (p : Fin 32) : State :=
  let s1 := [0, 1].foldl (fun s sd =>
    let q := s.plq p sd
    s.setPlq p sd { q with waits := q.waits.map (fun w => { w with frame := s.sfc p, msg := { w.msg with retry := 0 } }) }) s
  (List.range 256).foldl (fun s i =>
    match (s.slot p i).state with
    | .assigned => s.freeSlot p i (some .deactivate)
    | .ranged => s.freeSlot p i (some .deactivate)
    | .active =>
      if (s.slot p i).range = .placed ∧ s.rangeAwaited p i = false then s.setSlot p i { s.slot p i with range := .due } else s
    | _ => s) s1

/-- TWN_LAST and TWIN_TAKEOVER of a takeover (R353, R357). -/
def State.noteTakeover (s : State) (num : Nat) (cold : Bool) (trees : List (Fin 32)) : State :=
  let c := if cold then 1 else 0
  let s1 := (((s.putWord Reg.TWN_LAST_W0.addr (BitVec.ofNat 32 (num * 2 ^ 29 + c * 2 ^ 28))).putWord
    Reg.TWN_LAST_W1.addr (BitVec.ofNat 32 (maskOf trees))).putWord Reg.TWN_LAST_W2.addr 0xFFFFFFFF#32).putWord
    Reg.TWN_LAST_W3.addr (BitVec.ofNat 32 s.now)
  (s1.inc (if cold then Cnt.TWN_COLD_TAKEOVERS else Cnt.TWN_TAKEOVERS)).raise .TWIN_TAKEOVER srcTwn
    (num * 2 ^ 37 + c * 2 ^ 36 + maskOf trees)

/-- A broadcast Deactivate_ONU-ID on each enabled side, with BDEACT_UNLOCK set where rule 9 would suppress it (R332,
R357). -/
def State.deactivateAll (s : State) (p : Fin 32) : State :=
  let held := [0, 1].any (fun sd => s.sideEn p sd &&
    (match (s.side p sd).bdeact with | some k => decide (s.nextFrame p < k + bdeactFrames) | none => false))
  (if held then s.wr Reg.WHF_ASY_CFG.BDEACT_UNLOCK 1 else s).broadcastDeactivate p

/-- Re-admission of a tree's ONUs (R332): its ACTIVE slots are freed, broadcast deactivations go out, the tree enters ramp. -/
def State.reactivate (s : State) (p : Fin 32) : State :=
  let s1 := (List.range 256).foldl (fun s i => if (s.slot p i).state = .active then s.freeSlot p i none else s) s
  (s1.deactivateAll p).enterRamp p

/-- An ACTIVE slot of a tree holds no key: none was mirrored (R322). -/
def State.keyless (s : State) (p : Fin 32) : Bool :=
  (List.range 256).any (fun i => (s.slot p i).state == .active && (s.integrityRoot (slotKey p i)).isNone)

/-- TAKEOVER_WARM of a set of trees (R353, R355, R322, R323): the ONUs of a tree with an ACTIVE slot that holds no key are
re-admitted. -/
def State.takeWarm (s : State) (num : Nat) (trees : List (Fin 32)) : State :=
  if trees = [] then s
  else
    let s1 := trees.foldl (fun s p =>
      let t := (s.takeTree p num).takeSlots p
      if t.keyless p then t.reactivate p else t) s
    s1.takeoverUsage.noteTakeover num false trees

/-- One tree taken cold (R357). -/
def State.takeCold1 (s : State) (p : Fin 32) (num : Nat) : State :=
  let valid := (s.port p).started && !s.twn.mis.contains p
  let s1 := if valid then s else s.setPort p { s.port p with sfc := s.sfcSeen p + 2, started := false }
  let s2 := s1.takeTree p num
  let s3 := (List.range 256).foldl (fun s i => if (s.slot p i).state = .free then s else s.freeSlot p i none) s2
  (s3.deactivateAll p).enterRamp p

/-- TAKEOVER_COLD of a set of trees (R357, R323). -/
def State.takeCold (s : State) (num : Nat) (trees : List (Fin 32)) : State :=
  if trees = [] then s
  else (trees.foldl (fun s p => s.takeCold1 p num) s).takeoverUsage.noteTakeover num true trees

/-- The interlock of triggers 1 and 2 is met (R351). -/
def State.interlock (s : State) : Bool := s.darkIn == 0 || (s.darkIn == 2 && s.twn.stuck20)

/-- A device in safe state, or with its own FATAL pending, takes over nothing (R359). -/
def State.mayTakeOver (s : State) : Bool := !s.flt.safe && !s.flt.fatalLine

/-- Trees of a trigger not yet owned (R359). -/
def State.stillTheirs (s : State) (l : List (Fin 32)) : List (Fin 32) := l.filter (fun p => !s.owned p.val)

/-- The trees that are not READY are taken cold at once when the interlock of their trigger is met; READY ones stay for
TAKEOVER_WARM. -/
def State.coldPart (s : State) : State :=
  if !s.interlock || !s.mayTakeOver then s
  else
    let ts := s.twn.trigs
    let s1 : State := { s with twn := { s.twn with trigs := ts.filterMap (fun t =>
      let l := (s.stillTheirs t.trees).filter s.ready
      if l = [] then none else some { t with trees := l }) } }
    ts.foldl (fun s1 t => s1.takeCold t.num ((s1.stillTheirs t.trees).filter (fun p => !s.ready p))) s1

/-- Trigger 1 or 2 (R350, R351): the trees the partner owns wait for the interlock, its 20 µs of STUCK reckoned from now; a LIT
pin raises TWIN_SPLIT. -/
def State.trigger (s : State) (num : Nat) : State :=
  let l := s.stillTheirs (s.partnerOwns.filter (fun p => !(s.twn.trigs.any (fun t => t.trees.contains p))))
  if !s.bit Reg.TWN_CFG.EN || l.isEmpty || !s.mayTakeOver then s
  else
    let s1 : State := { s with twn := { s.twn with trigs := s.twn.trigs ++ [⟨num, l⟩], stuck20 := false } }
    if s.darkIn = 1 then s1.split true else s1.coldPart

/-- HEARTBEAT_LOSS (R350): eight intervals with no HEARTBEAT are trigger 1 unless the pin is LIT, which raises TWIN_SPLIT;
a pin that later leaves LIT brings the trigger. -/
def State.lossTrigger (s : State) : State :=
  if s.darkIn = 1 then s.split true else (s.inc Cnt.TWN_HB_LOSS).trigger 1

/-- CODE and BUSY of TWN_CMD_STATUS; the completion is an event of PF vector 3 (Table 17-9). -/
def State.twnDone (s : State) (code : Nat) : State :=
  let s1 : State := { s with twn := { s.twn with asked := [], force := false } }
  ((s1.wr Reg.TWN_CMD_STATUS.BUSY 0).wr Reg.TWN_CMD_STATUS.CODE code).msi 0 3

/-- A TAKE under way ends with UNREACHABLE when the partner is no longer heard (DESIGN CHOICE, log entry 176). -/
def State.unreachable (s : State) : State := if s.twn.asked = [] then s else s.twnDone 2

/-- HEARTBEAT_LOSS (R350, R338). -/
def execHeartbeatLoss (s : State) : Host.Outcome State Fault Refusal :=
  if !s.twn.alive then ok s
  else
    let s1 : State := { s with twn := { s.twn with alive := false } }
    ok (s1.unreachable.redecide.lossTrigger)

/-- TAKEOVER_WARM (R353, R357): a trigger whose interlock is met takes its READY trees warm, the others cold. -/
def execTakeoverWarm (s : State) : Host.Outcome State Fault Refusal :=
  ok (if !s.interlock || !s.mayTakeOver then s
    else
      let ts := s.twn.trigs
      let s2 : State := { s with twn := { s.twn with trigs := [] } }
      ts.foldl (fun a t =>
        let l := a.stillTheirs t.trees
        (a.takeWarm t.num (l.filter s.ready)).takeCold t.num (l.filter (fun p => !s.ready p))) s2)

/-- PARTNER_DARK_CHANGE (R351, R338): the pin reads DARK, LIT or STUCK. -/
def execPartnerDarkChange (d : Fin 3) (s : State) : Host.Outcome State Fault Refusal :=
  let s1 := s.wr Reg.TWN_STATUS.DARK_IN d.val
  let s2 : State := { s1 with twn := { s1.twn with stuck20 := false } }
  let s3 := s2.redecide
  let lost := s3.bit Reg.TWN_CFG.EN && !s3.twn.alive && s3.twn.hb.isSome
  ok (if d.val = 1 then (if s3.twn.trigs ≠ [] ∨ s3.twn.split then s3.split true else s3)
    else
      let s4 := if s3.twn.split then s3 else s3.split false
      if lost && s4.twn.trigs.isEmpty then s4.lossTrigger else s4.coldPart)

/-- DARK_STUCK_TIMEOUT (R351): STUCK for 20 µs from a trigger meets its interlock. -/
def execDarkStuckTimeout (s : State) : Host.Outcome State Fault Refusal :=
  ok (if s.darkIn = 2 ∧ s.twn.trigs ≠ [] ∧ s.twn.stuck20 = false then
      (({ s with twn := { s.twn with stuck20 := true } } : State).inc Cnt.TWN_PIN_TIMEOUTS).coldPart
    else s)

/-- LIVENESS_LOSS (R352): the low-speed I/O island drives every TXDIS to laser-off while the device owns trees under twin
operation. -/
def execLivenessLoss (s : State) : Host.Outcome State Fault Refusal :=
  ok (if s.bit Reg.TWN_CFG.EN && s.rd Reg.TWN_OWN.OWN != 0 then { s with twn := { s.twn with dead := true } } else s)

/-! Release and command (R350, R356, R359). -/

/-- A shadow tree leaves this device's hands: its nodes are flushed (R349, R274). -/
def State.leaveTree (s : State) (p : Fin 32) : State :=
  let s1 := s.setOwn (s.ownTrees.filter (fun q => q ≠ p))
  (List.range 256).foldl (fun s i => s.flushNode (slotKey p i)) s1

/-- The release sequence of R356 begins: lasers off; RELEASE follows at OFF_WAIT. -/
def State.release (s : State) (num : Nat) (trees : List (Fin 32)) (cmd : Bool) : State :=
  let l := trees.filter (fun p => s.owned p.val && !(s.twn.rels.any (fun r => r.trees.contains p)))
  if l = [] then s
  else
    { s with twn := { s.twn with dark := s.twn.dark ++ l, rels := s.twn.rels ++ [⟨num, l, false, cmd⟩] } }

/-- The partner's last HEARTBEAT has a bit set for a tree. -/
def State.hbBit (s : State) (f : Hb → Nat) (p : Fin 32) : Bool := match s.twn.hb with | some h => (f h).testBit p.val | none => false

/-- Trigger 3 or 4 on an owned tree (R350, R357): held by HOLD, ignored within HOLDOFF of the tree's last such switch, refused
where the partner does not hold the tree READY. -/
def State.ownerTrigger (s : State) (num : Nat) (p : Fin 32) : State :=
  let off := s.rd Reg.TWN_CFG.HOLDOFF * 1000000000
  let recent := match (s.twinTree p).lastSwitch with | some t => decide (s.now < t + off) | none => false
  if !s.bit Reg.TWN_CFG.EN || !s.owned p.val then s
  else if s.bit Reg.TWN_CFG.HOLD then s.inc Cnt.TWN_HELD_TRIGGERS
  else if recent || !s.hbBit Hb.ready p then s
  else s.release num [p] false

/-- US_LOSS_ONSET (R61, R350): three frames with an ordinary grant and no burst. -/
def execUsLossOnset (p : Fin 32) (sd : Side) (s : State) : Host.Outcome State Fault Refusal :=
  let x := s.side p sd.n
  let f := if sd.n = 0 then Reg.PT_US_STATUS.US_LOSS50 p.val else Reg.PT_US_STATUS.US_LOSS10 p.val
  if x.lossRun < 3 ∨ s.bit f then ok s
  else
    let s1 := ((s.wr f 1).onset .US_LOSS (srcPt p) sd.n (portAddr p sd.n x.lossSfc)).pmMod (portRec p sd.n) (fun a => { a with loss := true })
    let seen := s.hbBit (if sd.n = 0 then Hb.seen50 else Hb.seen10) p
    ok (if s1.bit Reg.TWN_CFG.TRG_USLOSS && s1.sideEn p sd.n && seen then s1.ownerTrigger 3 p else s1)

/-- TWN_CMD accepted (Table 10-13). -/
def State.twnCmd (s : State) (ag : Agent) (k : State → State) : State :=
  s.gate ag Reg.TWN_CMD.addr (fun s => if s.bit Reg.TWN_CMD_STATUS.BUSY then s.deny ag .refused Reg.TWN_CMD.addr noWin else k s)

/-- A TAKE accepted (R350, R356, R357): trees are asked of the owner; FORCE also takes trees that are not READY, and trees the
partner does not own at once. -/
def State.takeCmd (s : State) (force : Bool) : State :=
  let l := s.stillTheirs (treesOf (s.rd Reg.TWN_CMD_TREES.TREES))
  if !s.bit Reg.TWN_CFG.EN then s.twnDone 2
  else if s.bit Reg.TWN_CFG.HOLD then (s.inc Cnt.TWN_HELD_TRIGGERS).twnDone 3
  else if s.twinLanes = 0 ∨ !s.twn.alive then s.twnDone 2
  else if !force ∧ l.any (fun p => !s.ready p) then s.twnDone 1
  else
    let theirs := l.filter (fun p => s.partnerOwns.contains p)
    let free := l.filter (fun p => !s.partnerOwns.contains p)
    let s1 := if s.mayTakeOver then (s.takeWarm 5 (free.filter s.ready)).takeCold 5 (free.filter (fun p => !s.ready p)) else s
    if theirs = [] then s1.twnDone 0
    else
      let s2 : State := { s1 with twn := { s1.twn with asked := theirs, force := force } }
      (s2.wr Reg.TWN_CMD_STATUS.BUSY 1).twinSend 11 0xFF 0xFF 0 (maskOf theirs)

/-- TAKE (R350, R356, R357). -/
def execTake (ag : Agent) (v : Word) (s : State) : Host.Outcome State Fault Refusal :=
  ok (s.twnCmd ag (fun s => s.takeCmd (fldOf v Reg.TWN_CMD.FORCE == 1)))

/-- Trees that a Steward switch gave away for cover are taken back by TWN_CMD once they are READY here (R531). -/
def State.coverBack (s : State) : State :=
  let l := s.twn.cover.filter s.ready
  if s.stw.paused || l.isEmpty || s.bit Reg.TWN_CMD_STATUS.BUSY then s
  else
    let s1 : State := { s with twn := { s.twn with cover := s.twn.cover.filter (fun p => !l.contains p) } }
    (s1.wr Reg.TWN_CMD_TREES.TREES (maskOf l)).takeCmd false

/-- GIVE (R350, R356): the owner releases trees the partner holds READY. -/
def execGive (ag : Agent) (v : Word) (s : State) : Host.Outcome State Fault Refusal :=
  ok (s.twnCmd ag (fun s =>
    let l := treesOf (s.rd Reg.TWN_CMD_TREES.TREES)
    let force := fldOf v Reg.TWN_CMD.FORCE = 1
    if !s.bit Reg.TWN_CFG.EN then s.twnDone 2
    else if s.bit Reg.TWN_CFG.HOLD then (s.inc Cnt.TWN_HELD_TRIGGERS).twnDone 3
    else if l.any (fun p => !s.owned p.val) then s.twnDone 4
    else if s.twinLanes = 0 ∨ !s.twn.alive then s.twnDone 2
    else if !force ∧ l.any (fun p => !s.hbBit Hb.ready p) then s.twnDone 1
    else if l = [] then s.twnDone 0
    else (s.wr Reg.TWN_CMD_STATUS.BUSY 1).release 5 l true))

/-- OFF_WAIT_EXPIRY (R356, R351): RELEASE is sent for the trees gone dark, which the device then no longer owns. -/
def execOffWaitExpiry (s : State) : Host.Outcome State Fault Refusal :=
  let rs := s.twn.rels.filter (fun r => !r.sent)
  ok (rs.foldl (fun s r =>
    let s1 := ((r.trees.foldl (fun s p => s.leaveTree p) s).inc Cnt.TWN_RELEASES).twinSend 9 0xFF 0xFF
      ((r.trees.map (fun p => s.sfc p)).foldl max 0) (maskOf r.trees)
    s1) { s with twn := { s.twn with rels := s.twn.rels.map (fun r => { r with sent := true }) } })

/-- RELEASE (R356, R357, R359): the shadow takes the READY trees warm, and the others cold where the command of trigger 5 has
FORCE, its own TAKE or the owner's GIVE; TAKEN answers, once for each SEQ. `num` and `force` are the owner's trigger and its
FORCE (DESIGN CHOICE, log entry 177). -/
def execReleaseMsg (seq : BitVec 32) (trees : BitVec 32) (num : Fin 3) (force : Bool) (s : State) : Host.Outcome State Fault Refusal :=
  if !s.bit Reg.TWN_CFG.EN || s.twn.answered == some seq.toNat || !s.mayTakeOver then ok s
  else
    let s0 : State := { s with twn := { s.twn with answered := some seq.toNat } }
    let l := s.stillTheirs (treesOf trees.toNat)
    let n := num.val + 3
    let warm := l.filter s.ready
    let cold := l.filter (fun p => !s.ready p && decide (n = 5) && (force || (s.twn.force && s.twn.asked.contains p)))
    let s2 := (s0.takeWarm n warm).takeCold n cold
    let s3 := if warm ++ cold = [] then s2 else s2.twinSend 10 0xFF 0xFF 0 (maskOf (warm ++ cold))
    let left := s3.twn.asked.filter (fun p => !(warm ++ cold).contains p)
    ok (if s3.twn.asked = [] then s3
      else if left = [] then s3.twnDone 0
      else { s3 with twn := { s3.twn with asked := left } })

/-- A release is over: its trees are no longer held dark, and its command ends. -/
def State.endRelease (s : State) (r : Rel) (code : Nat) : State :=
  let s1 : State := { s with twn := { s.twn with rels := s.twn.rels.filter (fun x => x ≠ r), dark := s.twn.dark.filter (fun p => !r.trees.contains p) } }
  if r.cmd then s1.twnDone code else s1

/-- TAKEN (R356, R350): the partner owns the trees; a switch by trigger 3 or 4 is noted. -/
def execTakenMsg (trees : BitVec 32) (s : State) : Host.Outcome State Fault Refusal :=
  let l := treesOf trees.toNat
  ok ((s.twn.rels.filter (fun r => r.sent && r.trees.all (fun p => l.contains p))).foldl (fun s r =>
    (if r.num = 3 ∨ r.num = 4 then r.trees.foldl (fun s p => s.setTwinTree p { s.twinTree p with lastSwitch := some s.now }) s else s).endRelease r 0) s)

/-- RELEASE_FAIL (R356): no TAKEN within 100 µs of RELEASE; the trees are taken back. -/
def execReleaseFail (s : State) : Host.Outcome State Fault Refusal :=
  ok ((s.twn.rels.filter (fun r => r.sent)).foldl (fun s r =>
    ((s.setOwn (s.ownTrees ++ r.trees)).endRelease r 5).raise .RELEASE_FAIL srcTwn (maskOf r.trees)) s)

/-- REQUEST (R341, R356, R359): trees asked for are released unless a release of them is under way; a resend sends the type
and port again. -/
def execRequestMsg (resend : Option (Fin 16 × Fin 32)) (trees : BitVec 32) (s : State) : Host.Outcome State Fault Refusal :=
  ok (match resend with
    | some (t, p) => s.mirror t.val p 0xFF 0
    | none => s.release 5 (treesOf trees.toNat) false)

/-- FAULT (R350, R459): FATAL from the partner is trigger 2; PORT announces a tree it gives up. -/
def execFaultMsg (fatal : Bool) (s : State) : Host.Outcome State Fault Refusal :=
  ok (if fatal then (s.wr Reg.TWN_STATUS.PARTNER_FATAL 1).trigger 2 else s)

/-! Heartbeats (R341 to R346, R363). -/

/-- The lowest SFC most recently begun on an owned port, 0 with none (R343). -/
def State.lowSfc (s : State) : Nat :=
  match (ports.filter (fun p => s.owned p.val && (s.port p).started)).map (fun p => s.sfc p) with
  | [] => 0
  | x :: t => t.foldl min x

/-- HEARTBEAT_SEND (R341, R343, Table 10-3): a HEARTBEAT leaves on every ACTIVE lane of 0 to 3. -/
def execHeartbeatSend (s : State) : Host.Outcome State Fault Refusal := ok (s.twinSend 1 0xFF 0xFF s.lowSfc 0)

/-- This device's own HEARTBEAT (Table 10-4) under a header SFC. -/
def State.ownHb (s : State) (sfc : Nat) : Hb :=
  let mask := fun (f : Fin 32 → Bool) => maskOf (ports.filter f)
  let seen := fun (sd : Nat) => mask (fun p => [1, 2, 3].all (fun k => decide (k ≤ s.sfc p) && (s.side p sd).heard.contains (s.sfc p - k)))
  let clear := fun (r : Nat) => !(Tab.get (fun _ => PmRec.clear) s.pm.recs r).unavail
  { seq := 0, role := (if s.strapPrimary then 128 else 0) + s.stage
    health := (if s.flt.fatalLine then 1 else 0) + s.rd Reg.TWN_CFG.HOLD * 2 + s.rd Reg.TWN_STATUS.SEALED * 4
    own := maskOf (ports.filter (fun p => s.owned p.val)), ready := s.readyMask
    seen50 := seen 0, seen10 := seen 1
    avail := mask (fun p => [0, 1].all (fun sd => !s.sideEn p sd || clear (portRec p sd)))
    ahead := mask (fun p => (s.port p).started && decide (s.sfc p = sfc + 1)), sfc := sfc }

/-- Payload of a HEARTBEAT (Table 10-4) with the SEQ of the last one received; T_SEND and ECHO_RX, times within the frame, are
free values. -/
def Hb.bytes (h : Hb) (tSend seq rx : Nat) : List Byte :=
  [BitVec.ofNat 8 h.role, BitVec.ofNat 8 h.health, 0#8, 0#8] ++ beBytes 4 h.own ++ beBytes 4 h.ready ++ beBytes 4 h.seen50 ++ beBytes 4 h.seen10
    ++ beBytes 4 h.avail ++ beBytes 4 h.ahead ++ beBytes 4 (tSend % 125000000) ++ beBytes 4 seq ++ beBytes 4 (rx % 125000000)

/-- Representative of a time in ps modulo the 125 µs frame, nearest to zero. -/
def frameMod (x : Int) : Int :=
  let y := x % 125000000
  if 62500000 ≤ y then y - 125000000 else y

/-- TAU_UPDATE (R344): `t` holds the partner's a and b and the device's c and d in ps; TAU is the mean of the last 256. -/
def State.tauSample (s : State) (t : Int × Int × Int × Int) : State :=
  let v := frameMod (roundDiv ((t.2.2.2 - t.2.2.1) - (t.2.1 - t.1)) 2 + s.rdInt Reg.TWN_ASYM.ASYM)
  let l0 := s.twn.tau ++ [v]
  let l := l0.drop (l0.length - 256)
  let s1 : State := { s with twn := { s.twn with tau := l } }
  s1.wr Reg.TWN_TAU.TAU (intBits 32 (roundDiv (l.foldl (· + ·) 0) l.length))

/-- SFC of a tree for the frame tick a HEARTBEAT was sent after: the present one, or the one before when this device's tick
fell after the sending (DEDUCED, log entry 29). -/
def State.sfcAtTick (s : State) (p : Fin 32) (later : Bool) : Nat := if later then s.sfc p - 1 else s.sfc p

/-- HEARTBEAT (R343, R344, R363): `h` is its content, `times` the exchange in ps, `later` whether this device's frame tick
fell between its sending and its receipt. -/
def execHeartbeat (h : Hb) (times : Option (Int × Int × Int × Int)) (later : Bool) (s : State) : Host.Outcome State Fault Refusal :=
  let s0 := s.inc Cnt.TWN_HB_RX
  let was := s0.twn.alive
  let s1 : State := { s0 with twn := { s0.twn with hb := some h, alive := true } }
  let s2 := s1.wr Reg.TWN_STATUS.PARTNER_FATAL (h.health % 2)
  let s3 := match times with | some t => s2.tauSample t | none => s2
  let bad := (treesOf h.own).filter (fun p => s3.bit Reg.TWN_CFG.EN && !s3.owned p.val && (s3.port p).started
    && s3.sfcAtTick p later != (h.sfc + (if h.ahead.testBit p.val then 1 else 0)) % 2 ^ 51)
  let fresh := bad.any (fun p => !s3.twn.mis.contains p)
  let s4 : State := { s3 with twn := { s3.twn with mis := bad, unready := fresh } }
  let s5 := if fresh then s4.raise .SFC_MISMATCH srcTwn (h.sfc % 2 ^ 32) else s4
  let s6 := if s5.flt.active .TWIN_SPLIT srcTwn 0 ∧ s5.twn.trigs = [] ∧ !s5.twn.split then s5.split false else s5
  ok (if was then s6.coverBack else
    let s7 : State := { s6 with twn := { s6.twn with trigs := s6.twn.trigs.filter (fun t => t.num ≠ 1) } }
    s7.redecide.coverBack)

/-! Mirror messages (R341, R349, R355, R322). -/

/-- MAP (R114, R349): the owner's released map of a side, which INFLIGHT takes. -/
def execMapMsg (p : Fin 32) (sd : Side) (seq : BitVec 32) (m : BwMap) (s : State) : Host.Outcome State Fault Refusal :=
  ok (s.mirrored 2 p sd.n seq.toNat m.sfc (fun s =>
    ({ s with twn := { s.twn with maps := Tab.mod (fun _ => []) s.twn.maps (psd p sd) (fun l => l.filter (fun x => x.sfc ≠ m.sfc) ++ [m]) } } : State).inflight p m))

/-- DBA_STATE (R349): credits, report, poll count and report frame of the tree's enabled allocations. -/
def execDbaState (p : Fin 32) (seq : BitVec 32) (sfc : BitVec 51) (as : List (Fin 1024 × AllocRt)) (s : State) : Host.Outcome State Fault Refusal :=
  ok (s.mirrored 3 p 0xFF seq.toNat sfc.toNat (fun s => as.foldl (fun s (x : Fin 1024 × AllocRt) =>
    s.setAlloc p x.1.val { s.alloc p x.1.val with pCred := x.2.pCred, aCred := x.2.aCred, report := x.2.report
                                                  repFrame := x.2.repFrame, poll := x.2.poll }) s))

/-- PLOAM_Q (R349, R355): messages that entered and left a side's queue, those that left being frame `sfc`'s partition, and
the messages that await acknowledgement. -/
def execPloamQ (p : Fin 32) (sd : Side) (seq : BitVec 32) (sfc : BitVec 51) (enter leave : List Ploam) (waits : List AckWait) (s : State) : Host.Outcome State Fault Refusal :=
  ok (s.mirrored 4 p sd.n seq.toNat sfc.toNat (fun s =>
    let q := s.plq p sd.n
    let s1 := s.setPlq p sd.n { q with queue := (leave.foldl (fun l m => l.erase m) (q.queue ++ enter)), waits := waits }
    let ps := Tab.mod (fun _ => []) s1.twn.parts (psd p sd) (fun l => l.filter (fun x => x.1 ≠ sfc.toNat) ++ [(sfc.toNat, leave)])
    if leave = [] then s1 else { s1 with twn := { s1.twn with parts := ps } }))

/-- The Steward of a shadow applies the SCH and KEY records of a slot's template (R528). -/
def State.provisionShadow (s : State) (p : Fin 32) (i : Nat) : State :=
  match s.templateOf (s.slot p i).authIdx with
  | none => s
  | some t => (s.applyRecs p i (fun w => decide (w ≠ 0)) t.recs).1

/-- SLOT (Table 10-3): a changed slot entry, and the tree's ramp state, discovery LFSRs and admission count. The Steward of the
shadow applies or withdraws the SCH and KEY records of the slot (R528). -/
def execSlotMsg (p : Fin 32) (seq : BitVec 32) (slot : Fin 256) (x : Slot) (ramp : Bool) (lfsr50 lfsr10 : BitVec 16) (admitted : Nat) (s : State) : Host.Outcome State Fault Refusal :=
  ok (s.mirrored 5 p x.side seq.toNat 0 (fun s =>
    let i := slot.val
    let was := (s.slot p i).state
    let s0 := ((s.setTreeSt p { s.tree p with ramp := ramp, admitted := admitted }).setDisc p 0 { s.disc p 0 with lfsr := lfsr50.toNat }).setDisc p 1
      { s.disc p 1 with lfsr := lfsr10.toNat }
    let s1 := s0.setSlot p i x
    if x.state = .active ∧ was ≠ .active then s1.provisionShadow p i
    else if x.state ≠ .active ∧ was = .active then s1.unprovision p i
    else s1))

/-- KEY (R322): a root slot of the tree's ONUs over a sealed link. -/
def execKeyMsg (p : Fin 32) (seq : BitVec 32) (k : Fin 512) (r : Root) (s : State) : Host.Outcome State Fault Refusal :=
  ok (s.mirrored 7 p 0xFF seq.toNat 0 (fun s =>
    let key := p.val * 512 + k.val
    if !s.bit Reg.TWN_STATUS.SEALED then s
    else if (s.root key).state = r.state ∧ (s.root key).dk = r.dk ∧ (s.root key).sk = r.sk then s.setUsage key r
    else s.setRoot key r))

end Sys2Proof.Machine
end

