-- ==== Sys2Proof/Machine/LaneOps.lean ====
section
/-! DEFINITION. Shasol lanes as the fabric and the link logic see them: state, role, device address, LINK_ID, nonces
(12_serial_lanes.md R402 to R411, 13_cascade_and_fabric.md R421, R422). -/

namespace Sys2Proof.Machine

set_option autoImplicit false

/-- Source of a Shasol lane, and of the fabric logic (Table 14-2). -/
abbrev srcLane (n : Nat) : Source := ⟨.SHL, n⟩
abbrev srcFab : Source := ⟨.SHL, 63⟩

/-- ADDRESS of a lane's message: lane in bits 39:36 (R420). -/
def laneAddr (n rest : Nat) : Nat := n % 16 * 2 ^ 36 + rest % 2 ^ 36

/-- A Shasol lane. -/
def State.lane (s : State) (n : Nat) : Lane := Tab.get (fun _ => Lane.reset) s.shl.lanes n

/-- Update of a lane. -/
def State.setLane (s : State) (n : Nat) (x : Lane) : State :=
  { s with shl := { s.shl with lanes := Tab.set (fun _ => Lane.reset) s.shl.lanes n x } }

/-- Codes of Table 12-17. -/
abbrev lnOff : Nat := 0
abbrev lnDetect : Nat := 1
abbrev lnTrain : Nat := 2
abbrev lnLock : Nat := 3
abbrev lnExchange : Nat := 4
abbrev lnActive : Nat := 5
abbrev lnTest : Nat := 6

/-- STATE of a lane (Table 12-10). -/
def State.laneState (s : State) (n : Nat) : Nat := s.rd (Reg.SHL_LANE_STATUS.STATE n)

/-- A lane is ACTIVE. -/
def State.laneUp (s : State) (n : Nat) : Bool := s.laneState n == lnActive

/-- MODE in force: 1 cascade, 2 fabric, else 0 (Table 13-4). -/
def State.fabMode (s : State) : Nat := if s.rd Reg.SHL_FAB_CFG.MODE = 3 then 0 else s.rd Reg.SHL_FAB_CFG.MODE

/-- Role the configuration gives a lane (R422): 0 TWIN, 1 CASCADE, 2 FABRIC. -/
def State.roleFor (s : State) (n : Nat) : Option Nat :=
  if s.bit Reg.TWN_CFG.EN ∧ n < 4 then some 0
  else if s.fabMode ≠ 0 ∧ (s.rd Reg.SHL_FAB_CFG.LANES).testBit n then some s.fabMode
  else none

/-- ROLE a lane has taken. -/
def State.laneRole (s : State) (n : Nat) : Nat := s.rd (Reg.SHL_LANE_STATUS.ROLE n)

/-- ACTIVE with a cascade or fabric role. -/
def State.fabLane (s : State) (n : Nat) : Bool := s.laneUp n && decide (s.laneRole n ≠ 0)

/-- Such lanes, rising. -/
def State.fabLanes (s : State) : List Nat := (List.range 16).filter s.fabLane

/-- The device's address. -/
def State.ownAddr (s : State) : Option Nat := if s.bit Reg.SHL_FAB_STATUS.ADDR_VALID then some (s.rd Reg.SHL_FAB_STATUS.ADDR) else none

/-- Address byte of a message: 0xFF while none is held. -/
def State.addrByte (s : State) : Nat := s.ownAddr.getD 0xFF

/-- A fresh 64-bit NONCE of the entropy source: a free value. -/
def State.freshNonce (s : State) : Nat × State :=
  let f := s.takeFree
  (Config.freeValue f.1 % 2 ^ 64, f.2)

/-- This end is the lower one (R405). -/
def State.lowerEnd (s : State) (c : Cap) : Bool :=
  if s.addrByte = c.addr then decide (Config.serial < c.serial) else decide (s.addrByte < c.addr)

/-- LINK_ID of a lane with bit 0 clear (R405). -/
def State.linkId (s : State) (n : Nat) (c : Cap) : Nat :=
  if s.lowerEnd c then s.addrByte % 256 * 2 ^ 24 + c.addr % 256 * 2 ^ 16 + n % 16 * 2 ^ 12 + c.lane % 16 * 2 ^ 8
  else c.addr % 256 * 2 ^ 24 + s.addrByte % 256 * 2 ^ 16 + c.lane % 16 * 2 ^ 12 + n % 16 * 2 ^ 8

/-- SEAL of a lane: 3 acts as 2. -/
def State.sealCfg (s : State) (n : Nat) : Nat := min 2 (s.rd (Reg.SHL_LANE_CFG.SEAL n))

/-- SEAL_CAP and SEAL_REQ of this end (Table 12-8). -/
def State.sealBits (s : State) (n : Nat) : Bool × Bool :=
  (decide ((s.root (linkRoot n)).state ≠ .empty) && decide (1 ≤ s.sealCfg n), s.sealCfg n == 2)

/-- The 256 bits of a lane's link root. -/
def State.linkKey (s : State) (n : Nat) : Nat := (s.root (linkRoot n)).dk * 2 ^ 128 + (s.root (linkRoot n)).sk

/-- Session key of a lane from this end's and the other end's nonce (R312, R406). -/
def State.session (s : State) (n : Nat) (c : Cap) (mine theirs : Nat) : Sess :=
  if s.lowerEnd c then ⟨s.linkKey n, s.linkId n c, mine, theirs⟩ else ⟨s.linkKey n, s.linkId n c, theirs, mine⟩

/-- Context of a session's key (Table 9-4): LINK_ID, the lower end's nonce, the higher end's. -/
def Sess.context (k : Sess) : List Byte := beBytes 4 k.linkId ++ beBytes 8 k.low ++ beBytes 8 k.high

/-- Session key, 256 bits, derived from the link root under the label SHSL (R312). -/
def Sess.key (k : Sess) : Nat := kdf256 k.root [0x53#8, 0x48#8, 0x53#8, 0x4C#8] k.context

end Sys2Proof.Machine
end

