-- ==== Sys2Proof/Machine/Stores.lean ====
section
/-! DEFINITION. The commands of buffers, queues, buckets and statistics (08_buffers_queues_shaping.md) and of the XGEM
payload cipher (09_encryption_and_keys.md R306 to R321). -/

namespace Sys2Proof.Machine

set_option autoImplicit false

/-- BUFFER_RELEASE (R262, R263). -/
def execBufferRelease (h : Fin 16777216) (s : State) : Host.Outcome State Fault Refusal := ok (s.unref h.val)

/-- An exception packet the Steward holds, given back. -/
def State.stwForget (s : State) (h : Nat) : State :=
  { s with fwd := { s.fwd with toStw := s.fwd.toStw.eraseP (fun x => x.d.handle = h) } }

/-- FREE_STW (R264): a write of CPG_FREE_STW; a generation that is not the buffer's, or a FREE buffer, is a double free. -/
def execFreeStw (ag : Agent) (v : Word) (s : State) : Host.Outcome State Fault Refusal :=
  ok (s.gate ag Reg.CPG_FREE_STW.addr (fun s =>
    let h := fldOf v Reg.CPG_FREE_STW.HANDLE
    let b := s.buf h
    let stale := decide (b.gen ≠ fldOf v Reg.CPG_FREE_STW.GEN)
    if !s.handleOk h then s.raise .BAD_HANDLE srcCpg h
    else if stale || !b.held then
      (s.inc (Cnt.CPG_DOUBLE_FREE (handlePool h))).raise .DOUBLE_FREE srcCpg ((if stale then 2 ^ 31 else 0) + 2 ^ 30 + h)
    else (s.stwForget h).unref h))

/-- CELLAR_WRITE_DONE (R278). -/
def execCellarWriteDone (q : Fin 73728) (s : State) : Host.Outcome State Fault Refusal := ok (s.writeDone q.val)

/-- A queue whose Cellar part is due to be read (R279). -/
def State.refillDue (s : State) (q : Nat) : Bool :=
  !(s.queue q).cellar.isEmpty && decide ((s.queue q).occ ≤ s.rd (Win.Q_REFILL q) * 256)

/-- An ECC event of a memory channel (R449): the byte address lies in pages whose placing the spec does not give, a free
value. -/
def State.memEcc (s : State) (k : Kind) (ch : Fin 16) : State :=
  let f := s.takeFree
  f.2.raise k ⟨.MEM, ch.val⟩ (Config.freeValue f.1 % 2 ^ 35)

/-- The Cellar read of a refill as an event. -/
def State.refillRead (s : State) (q access : Nat) : State :=
  s.cellarAccess q (match (s.queue q).cellar with | x :: _ => x.1.d.length | [] => 0) access

/-- CELLAR_REFILL (R279, R283, R449). -/
def execCellarRefill (q : Fin 73728) (r : CellarRead) (s : State) : Host.Outcome State Fault Refusal :=
  ok (if !s.refillDue q.val then s
    else match r with
      | .clean => (s.refillRead q.val 1).refillQueue q.val false false
      | .corrected ch => ((s.memEcc .MEM_ECC_CORR ch).refillRead q.val 5).refillQueue q.val false false
      | .frameBad ch => ((s.memEcc .MEM_UNCORR ch).refillRead q.val 9).refillQueue q.val true false
      | .linkBad ch => ((s.memEcc .MEM_UNCORR ch).refillRead q.val 9).refillQueue q.val false true)

/-- SCHED_SELECT (R284 to R287, R432, R449, R466): the packet chosen at a top node goes to the cipher stage or to a lane. `ecc` is an
ECC event of the packet store: corrected, or (true) uncorrectable, which drops the packet. -/
def execSchedSelect (m : Fin 104) (ecc : Option Bool) (s : State) : Host.Outcome State Fault Refusal :=
  if s.flt.safe || (88 ≤ m.val && !s.fabLane (m.val - 88)) then ok s else
  let r := s.select m.val
  ok (match r.2 with
    | none => r.1
    | some k =>
      let go := fun (s : State) =>
        if m.val < 64 then s.toCipher m.val k.d else s.toEgress m.val ⟨k.d, (s.buf k.d.handle).bytes, 0, false⟩
      match ecc with
      | some true => (r.1.raise .PKT_ECC_UNCORR srcCpg k.d.handle).unref k.d.handle
      | some false =>
        let f := r.1.takeFree
        go (f.2.raise .SRAM_ECC_CORR srcCpg (Config.freeValue f.1 % 2 ^ 40))
      | none => go r.1)

/-- BUCKET_SWEEP (R290). -/
def execBucketSweep (s : State) : Host.Outcome State Fault Refusal := ok s.sweepBkts

/-- A write of word 0 of a bucket through the SCH window. -/
def State.bucketWord0 (s : State) (ag : Agent) (b : Nat) (v : Word) : State :=
  s.winGate ag wSch (0x40000 + b * 8) (fun s => s.schStore (0x40000 + b * 8) 0 [v])

/-- BUCKET_WORD0_WRITE (R300). -/
def execBucketWord0Write (ag : Agent) (b : Fin 98304) (v : Word) (s : State) : Host.Outcome State Fault Refusal :=
  ok (s.bucketWord0 ag b.val v)

/-- DEBT_CLEAR (R290): word 0 written with DEBT_CLEAR set. -/
def execDebtClear (ag : Agent) (b : Fin 98304) (v : Word) (s : State) : Host.Outcome State Fault Refusal :=
  ok (s.bucketWord0 ag b.val (v ||| 0x04000000#32))

/-! Sampling (R294 to R297). -/

/-- A field of word 0 of a statistics entry. -/
def State.statFld (s : State) (e lo w : Nat) : Nat := s.rd (winFld wSch (0x100000 + e * 32) 0 lo w)

/-- Statistics entries that are enabled in a group. -/
def State.statsOf (s : State) (g : Nat) : List Nat :=
  (List.range 8192).filter (fun e => s.statFld e 31 1 == 1 && s.statFld e 26 4 == g)

/-- Head packet of a queue. -/
def Queue.head (x : Queue) : Option QPkt := (x.onchip ++ x.cellar.map (·.1) ++ x.writes).head?

/-- Histogram bin of a value (R295). -/
def histBin (base v : Nat) : Nat := ((List.range 7).find? (fun i => decide (v < 2 ^ (base + i)))).getD 7

/-- A value counted in its bin. -/
def addBin (l : List Nat) (i : Nat) : List Nat := l.mapIdx (fun j n => if j = i then (n + 1) % 2 ^ 32 else n)

/-- An entry after a sample of depth and sojourn (R295): the first sample sets minimum and maximum. COUNT shows the samples'
number modulo 2^32 (log entry 110). -/
def Stat.sample (x : Stat) (dBase tBase depth soj : Nat) : Stat :=
  { x with count := x.count + 1
           dMin := if x.count = 0 then depth else min x.dMin depth, dMax := max x.dMax depth, dSum := (x.dSum + depth) % 2 ^ 48
           tMin := if x.count = 0 then soj else min x.tMin soj, tMax := max x.tMax soj, tSum := (x.tSum + soj) % 2 ^ 48
           dBins := addBin x.dBins (histBin dBase depth), tBins := addBin x.tBins (histBin tBase soj) }

/-- One entry sampled. -/
def State.sampleStat (s : State) (g e : Nat) : State :=
  let x := s.queue ((if s.statFld e 16 1 = 1 then 65536 else 0) + s.statFld e 0 16)
  let soj := match x.head with
    | some k => min (s.now - k.time) (2 ^ 32 - 1)
    | none => 0
  s.setStat e ((s.stat e).sample (s.rd (Reg.SCH_SGRP.D_BASE g)) (s.rd (Reg.SCH_SGRP.T_BASE g)) x.bytes soj)

/-- STATS_SAMPLE (R294, R295): a group whose interval has passed samples its entries. -/
def execStatsSample (g : Fin 16) (s : State) : Host.Outcome State Fault Refusal :=
  ok (if s.bit (Reg.SCH_SGRP.EN g.val) then (s.statsOf g.val).foldl (fun s e => s.sampleStat g.val e) s else s)

/-- Samples the groups ask for in 2^20 µs (R296). -/
def State.sampleDemand (s : State) : Nat :=
  ((List.range 16).map (fun g =>
    if s.bit (Reg.SCH_SGRP.EN g) then (s.statsOf g).length * 1000 * 2 ^ (20 - s.rd (Reg.SCH_SGRP.K g)) else 0)).sum

/-- STRETCH and FACTOR of SCH_SAMPLE_STATUS (R296). -/
def State.sampleStretch (s : State) : Bool × Nat :=
  if s.sampleDemand ≤ 1024 * 2 ^ 20 then (false, 256) else (true, (roundDiv (s.sampleDemand * 256) (1024 * 2 ^ 20)).toNat % 65536)

/-- STATS_CLEAR (R297): a write of 1 to an entry's CLEAR bit. -/
def execStatsClear (ag : Agent) (e : Fin 8192) (v : Word) (s : State) : Host.Outcome State Fault Refusal :=
  ok (s.winGate ag wSch (0x100000 + e.val * 32) (fun s => s.schStore (0x100000 + e.val * 32) 0 [v ||| 0x40000000#32]))

/-- Store bytes of the four pools with a pool's COUNT replaced (R256). -/
def State.storeBytes (s : State) (n count : Nat) : Nat :=
  ((List.range 4).map (fun i => (if i = n then count * 64 else s.poolCount i) * poolSlot i)).sum

/-- POOL_CFG_WRITE (R256). -/
def execPoolCfgWrite (ag : Agent) (n : Fin 4) (v : Word) (s : State) : Host.Outcome State Fault Refusal :=
  let a := Reg.CPG_POOL_CFG.addr n.val
  let c := fldOf v (Reg.CPG_POOL_CFG.COUNT n.val)
  ok (s.gate ag a (fun s =>
    if c = 0 ∨ 67108864 < s.storeBytes n.val c ∨ s.bit Reg.CPG_CTRL.EN then s.deny ag .refused a noWin
    else s.storeWord ag a v))

/-- CELLAR_ENABLE (R299): a write of CPG_CTRL; CELLAR_EN stays 0 while the region lies outside the fitted memory, and
while the memory is isolated (R460, R587). -/
def execCellarEnable (ag : Agent) (v : Word) (s : State) : Host.Outcome State Fault Refusal :=
  let a := Reg.CPG_CTRL.addr
  ok (s.gate ag a (fun s =>
    let fits := decide (s.rd Reg.CPG_CELLAR_REGION.BASE + min 256 (s.rd Reg.CPG_CELLAR_REGION.SIZE) ≤ Config.memUnits)
    if v.getLsbD 30 && !s.bit Reg.CPG_CTRL.CELLAR_EN && !fits then
      (s.storeWord ag a (v &&& 0xBFFFFFFF#32)).deny ag .refused a noWin
    else if s.flt.isolated .memory 0 then s.storeWord ag a (v &&& 0xBFFFFFFF#32)
    else s.storeWord ag a v))

/-- Packets of a queue still waiting for their Cellar write, lost with the Cellar part they were accepted into (R277, R283;
DEDUCED, log entry 168): each is counted like a written one, its reference released and its room given back with the part's. -/
def State.loseWrites (s : State) (q : Nat) : State :=
  let x := s.queue q
  x.writes.foldl (fun s k =>
    let m := s.topOf q
    let tp := s.top m
    ((s.setTop m { tp with backlog := tp.backlog - k.d.length }).unref k.d.handle).setQueue q
      { s.queue q with writes := (s.queue q).writes.tail, cellar := (s.queue q).cellar ++ [(k, [])] }) s |>.busyEnds

/-- The Cellar disabled by Bellman (R283): CELLAR_EN cleared, every Cellar part lost and counted. -/
def State.loseCellar (s : State) : State :=
  let s1 := s.wr Reg.CPG_CTRL.CELLAR_EN 0
  let s2 := (s1.cpg.queues.filter (fun x => !x.2.cellar.isEmpty || !x.2.writes.isEmpty)).foldl (fun s x => (s.loseWrites x.1).loseRecords x.1) s1
  s2.raise .CELLAR_UNCORR srcCpg 0x1FFFF

/-! The XGEM payload cipher (R306 to R321). -/

/-- Packets waiting at the cipher stage of a side. -/
def State.cipherOf (s : State) (k : Nat) : List Desc := Tab.get (fun _ => []) s.cpg.cipher k

/-- CIPHER_DOWNSTREAM (R306, R320, R321, R326, R330, R451): the packet at the front of a side's cipher stage goes to the framer,
to be encrypted piece by piece in the frames that carry it (R307, R308), or is dropped. -/
def execCipherDownstream (p : Fin 32) (sd : Side) (bad : Option (Fin 16)) (s : State) : Host.Outcome State Fault Refusal :=
  match s.cipherOf (psd p sd) with
  | [] => ok s
  | d :: t =>
    let s1 := { s with cpg := { s.cpg with cipher := Tab.set (fun _ => []) s.cpg.cipher (psd p sd) t } }
    let r := s1.cipherPkt p sd.n d bad
    ok (match r.2 with
      | none => r.1
      | some o => r.1.toEgress (psd p sd) o)

/-- IFC0 of an upstream payload that stands `word` content words into its burst (Table 9-3). -/
def Exp.ifc0 (e : Exp) (word : Nat) : Nat := (e.burst.start / upb e.burst.row + e.pre + e.delim) / 32 + word

/-- An XGEM frame of a received burst under a context and key index (R309, R317, R319 to R321, R326, R451). -/
def State.xgemUp (s : State) (p : Fin 32) (sd : Nat) (e : Exp) (ctx cls key word : Nat) (bytes : List Byte) (full : Bool)
    (bad : Option (Fin 16)) : State :=
  let up := fun (s : State) (b : List Byte) => s.intakeUp p sd e.burst.onu ctx cls b full
  let k := rootOf (slotKey p e.burst.onu) (key - 1)
  if key = 3 then s.inc Cnt.KEY_KEY_MISSING
  else if key = 0 then (if s.encrypts ctx then s.inc Cnt.KEY_KEY_MISSING else up s bytes)
  else if (s.root k).state = .empty ∨ (s.root k).held then s.inc Cnt.KEY_KEY_MISSING
  else if 16383 < bytes.length then s.lenErr p sd bytes.length
  else
    let n := blocks bytes.length
    let r := s.root k
    let s0 := if r.state = .retiring then s.setUsage k { r with quiet := s.sfc p } else s
    let s1 := (s0.useKey k n).count Cnt.KEY_US_BLOCKS n
    if (s1.root k).held then s1.inc Cnt.KEY_KEY_MISSING
    else match bad with
      | some x => s1.raise .CIPHER_MISMATCH srcKey x.val
      | none => up s1 (ctrCrypt r.dk e.sfc true (e.ifc0 word) bytes)

/-- UPSTREAM_XGEM_FRAME (R44, R307, R309, R15, R148): a frame of the burst a side last received. None reaches the device of a
burst whose header did not decode or named another ONU, nor one that lies in an uncorrectable codeword (`unc`, Table 2-6).
`word` counts the content words of the burst before its payload, `cls` is the class of its context, `full` a full boundary
FIFO, `bad` the cipher engine whose datapaths disagree. -/
def execUpstreamXgemFrame (p : Fin 32) (sd : Side) (ctx : BitVec 16) (cls : Fin 8) (key : Fin 4) (word : BitVec 18)
    (bytes : List Byte) (unc full : Bool) (bad : Option (Fin 16)) (s : State) : Host.Outcome State Fault Refusal :=
  match (s.side p sd.n).content with
  | some e => ok (if s.flt.safe || unc then s else s.xgemUp p sd.n e ctx.toNat cls.val key.val word.toNat bytes full bad)
  | none => ok s

end Sys2Proof.Machine
end

