-- ==== Sys2Proof/Machine/Coding.lean ====
section
/-! DEFINITION. The line coding of a Shasol lane (12_serial_lanes.md R396 to R403): blocks, tiles, scrambling and stuffing, and
what the blocks of a received message say. -/

namespace Sys2Proof.Machine

set_option autoImplicit false

/-! Blocks (R396, Table 12-5). -/

/-- Header of a block, bits 65:64. -/
def blkHead (b : Block) : Nat := b.toNat / 2 ^ 64

/-- Content bytes of a block, byte 0 in bits 63:56. -/
def blkBytes (b : Block) : List Byte := beBytes 8 (b.toNat % 2 ^ 64)

/-- Type of a control block. -/
def blkType (b : Block) : Nat := b.toNat / 2 ^ 56 % 256

/-- A data block of up to 8 message bytes, padded with zero bytes. -/
def dataBlk (l : List Byte) : Block := BitVec.ofNat 66 (2 ^ 64 + beNat (sliceZ l 0 8))

/-- A control block of a type and its 7 further bytes. -/
def ctlBlk (t : Nat) (l : List Byte) : Block := BitVec.ofNat 66 (2 * 2 ^ 64 + t * 2 ^ 56 + beNat (sliceZ l 0 7))

/-- FILL. -/
def fillBlk : Block := ctlBlk 0x00 []

/-- START with the link header. -/
def startBlk (head : List Byte) : Block := ctlBlk 0x1E head

/-- END with the CRC, lowest byte first as in the frame check sequence of the same standard (DEDUCED, log entry 169), and
ABORT. -/
def endBlk (crc : Nat) (abort : Bool) : Block := ctlBlk 0xE1 (leBytes 4 crc ++ [if abort then 1#8 else 0#8])

/-- A data block. -/
def isData (b : Block) : Bool := blkHead b == 1

/-- A control block of a type. -/
def isCtl (t : Nat) (b : Block) : Bool := blkHead b == 2 && blkType b == t

/-- An errored block: a header of 0b00 or 0b11, or a control type not in Table 12-5. -/
def blkErrored (b : Block) : Bool := !isData b && !isCtl 0x00 b && !isCtl 0x1E b && !isCtl 0xE1 b

/-- Bytes cut into data blocks. -/
def dataBlks (l : List Byte) : List Block := (List.range ((l.length + 7) / 8)).map (fun i => dataBlk (sliceZ l (8 * i) 8))

/-- The link header of a message (Table 12-7): CHAN, FLAGS, LENGTH, DEST, SRC. -/
def linkHead (chan : Nat) (sealed_ phase : Bool) (len dest src : Nat) : List Byte :=
  [BitVec.ofNat 8 chan, BitVec.ofNat 8 ((if sealed_ then 128 else 0) + (if phase then 64 else 0))] ++ beBytes 3 (len - 1)
    ++ [BitVec.ofNat 8 dest, BitVec.ofNat 8 src]

/-- The blocks of a message (R402): START, the payload's data blocks, those of the tag, END with the CRC-32 over the link header
and the bytes of every data block as sent. -/
def msgBlocks (head payload tag : List Byte) : List Block :=
  let body := dataBlks payload ++ dataBlks tag
  startBlk head :: body ++ [endBlk (crc32 (head ++ body.flatMap blkBytes)) false]

/-! Tiles (R397): of 4,096 blocks at least 2 are FILL. -/

/-- Blocks of a list up to and with its last END. -/
def wholeMsgs (l : List Block) : Nat := l.length - (l.reverse.takeWhile (fun b => !isCtl 0xE1 b)).length

/-- The blocks a tile sends from those that wait, and those that still wait. With no more than 4,094 waiting, FILL follows them
to the tile's end. Otherwise two FILL stand after the last message that ends in the tile, or before the first one when
that starts it; a tile that lies wholly within one message holds none, since R402 lets none stand there (DESIGN CHOICE,
log entry 170). -/
def fillTile (out : List Block) : List Block × List Block :=
  if out.length ≤ 4094 then (out, [])
  else
    let l := out.take 4094
    let n := wholeMsgs l
    if n ≠ 0 then (l.take n ++ [fillBlk, fillBlk] ++ l.drop n, out.drop 4094)
    else match out with
      | b :: _ => if isCtl 0x1E b then ([fillBlk, fillBlk] ++ l, out.drop 4094) else (out.take 4096, out.drop 4096)
      | [] => (out.take 4096, out.drop 4096)

/-- The 4,096 blocks of a tile. -/
def tileBlocks (l : List Block) : List Block := l ++ List.replicate (4096 - l.length) fillBlk

/-! Scrambling and stuffing (R398, R399). -/

/-- The bits of a number, highest of `n` first. -/
def bitsOf : Nat → Nat → List Bool
  | 0, _ => []
  | n + 1, v => v.testBit n :: bitsOf n v

/-- The additive scrambler x^31 + x^28 + 1 from a register value: each bit is sent with the sum of stages 31 and 28, which
enters stage 1 (DEDUCED, log entry 171). -/
def scramble : List Bool → BitVec 31 → List Bool
  | [], _ => []
  | b :: t, r =>
    let f := xor (r.getLsbD 30) (r.getLsbD 27)
    xor b f :: scramble t (r.shiftLeft 1 ||| (if f then 1#31 else 0#31))

/-- Stuffing from a run of `n` line bits of value `v`: after 8 identical bits one of the opposite value is sent, which begins a
new run. -/
def stuff : List Bool → Nat → Bool → List Bool
  | [], _, _ => []
  | b :: t, n, v =>
    if n = 8 then (!v) :: b :: stuff t (if b = !v then 2 else 1) b
    else b :: stuff t (if n ≠ 0 ∧ b = v then n + 1 else 1) b

/-- The receiver's side of stuffing (R400), from a run of `n` line bits of value `v`: after 8 identical bits an opposite one is
removed; one of the same value continues the run, which is counted as a stuffing error when it ends, and the count restarts
after it. The answer is the bits left and the errors. -/
def destuff : List Bool → Nat → Bool → List Bool × Nat
  | [], n, _ => ([], if 8 < n then 1 else 0)
  | b :: t, n, v =>
    if n = 8 ∧ b = !v then destuff t 1 b
    else if 8 ≤ n ∧ b = v then let r := destuff t 9 v; (b :: r.1, r.2)
    else if 8 < n then let r := destuff t 1 b; (b :: r.1, r.2 + 1)
    else let r := destuff t (if n ≠ 0 ∧ b = v then n + 1 else 1) b; (b :: r.1, r.2)

/-- The line bits of a tile (R397 to R401): the comma's run bits, then its code bits, the scrambled blocks and the guard bit of
the next comma, stuffed from the first code bit on. -/
def tileLine (code : Byte) (l : List Block) : List Bool :=
  List.replicate 12 true ++ List.replicate 12 false ++
    stuff (bitsOf 8 code.toNat ++ scramble ((tileBlocks l).flatMap (fun b => bitsOf 66 b.toNat)) (BitVec.allOnes 31) ++ [false]) 0 false

/-- The line bits of the tile a lane is sending. -/
def Lane.lineBits (x : Lane) : List Bool :=
  match x.tile with
  | some t => tileLine t.1 t.2
  | none => []

end Sys2Proof.Machine

namespace Sys2Proof

open Sys2Proof.Machine

/-! A message received (R400, R402, R403). -/

/-- Its blocks, the FILL ones among them discarded (R397). -/
def LinkRx.body (r : LinkRx) : List Block := r.blocks.filter (fun b => !isCtl 0x00 b)

/-- Its link header: bytes 1 to 7 of START. -/
def LinkRx.head (r : LinkRx) : List Byte :=
  match r.body with
  | b :: _ => if isCtl 0x1E b then (blkBytes b).drop 1 else []
  | [] => []

/-- Its END block. -/
def LinkRx.tail (r : LinkRx) : Option Block := r.body.getLast?.filter (isCtl 0xE1)

/-- Bytes of its data blocks. -/
def LinkRx.bytes (r : LinkRx) : List Byte := (r.body.filter isData).flatMap blkBytes

/-- CHAN. -/
def LinkRx.chan (r : LinkRx) : Byte := r.head.getD 0 0#8

/-- SEALED. -/
def LinkRx.sealed_ (r : LinkRx) : Bool := (r.head.getD 1 0#8).getLsbD 7

/-- PHASE. -/
def LinkRx.phase (r : LinkRx) : Bool := (r.head.getD 1 0#8).getLsbD 6

/-- Payload bytes by its LENGTH. -/
def LinkRx.len (r : LinkRx) : Nat := beNat (sliceZ r.head 2 3) + 1

/-- An errored block in it: by its header or type, or by a stuffing error. -/
def LinkRx.errored (r : LinkRx) : Bool := r.stuffErr || r.blocks.any blkErrored

/-- It has no START, or no END before the next one. -/
def LinkRx.cut (r : LinkRx) : Bool := r.head.isEmpty || r.tail.isNone || (r.body.drop 1).any (isCtl 0x1E)

/-- The CRC of its END, where it has one, is that of its link header and data blocks. -/
def LinkRx.crcOk (r : LinkRx) : Bool :=
  match r.tail with
  | some b => r.cut || leNat (((blkBytes b).drop 1).take 4) == crc32 (r.head ++ r.bytes)
  | none => true

/-- ABORT of its END. -/
def LinkRx.abort (r : LinkRx) : Bool :=
  match r.tail with
  | some b => b.getLsbD 16
  | none => false

/-- Its data blocks agree in number with LENGTH and SEALED (R402). -/
def LinkRx.countOk (r : LinkRx) : Bool := (r.body.filter isData).length == (r.len + 7) / 8 + (if r.sealed_ then 2 else 0)

end Sys2Proof
end

