-- ==== Sys2Proof/Machine/Fabric.lean ====
section
/-! DEFINITION. Cascade and fabric (13_cascade_and_fabric.md R421 to R442): link state, addresses, routes, PACKET messages,
and the commands of that chapter with ENQUEUE (08_buffers_queues_shaping.md R271). -/

namespace Sys2Proof.Machine

set_option autoImplicit false

/-! Link state (R424, R425). -/

/-- The live neighbour on a lane. -/
def State.nbr (s : State) (n : Nat) : Option Nbr := Tab.get (fun _ => none) s.shl.nbrs n

/-- LSAs held, by serial number. -/
def State.held (s : State) : List Lsa := s.shl.lsas.filterMap (·.2)

/-- DEVICES kept equal to the devices held. -/
def State.countDevices (s : State) : State := s.wr Reg.SHL_FAB_STATUS.DEVICES (min 64 s.held.length)

/-- Store or removal of the LSA of a serial number. -/
def State.setLsa (s : State) (serial : Nat) (l : Option Lsa) : State :=
  ({ s with shl := { s.shl with lsas := Tab.set (fun _ => none) s.shl.lsas serial l } }).countDevices

/-- The LSA held of a serial number. -/
def State.lsaOf (s : State) (serial : Nat) : Option Lsa := Tab.get (fun _ => none) s.shl.lsas serial

/-- A channel 3 message queued on lanes. -/
def State.flood (s : State) (lanes : List Nat) (m : FabMsg) : State :=
  lanes.foldl (fun s n => s.setLane n { s.lane n with fab := (s.lane n).fab ++ [m] }) s

/-- The device is the strapped or configured cascade master. -/
def State.isMaster (s : State) : Bool := s.fabMode == 1 && s.bit Reg.SHL_FAB_CFG.MASTER

/-- LSA_ORIGINATE (R425): an own LSA with SEQ increased by one, sent on every ACTIVE lane of the role. -/
def State.originate (s : State) : State :=
  if s.fabMode = 0 then s
  else
    let seq := match s.lsaOf Config.serial with | some l => (l.seq + 1) % 2 ^ 32 | none => 0
    let nbrs := (List.range 16).filterMap (fun n => (s.nbr n).map (fun b => (b.serial, n, b.lane)))
    let l : Lsa := ⟨Config.serial, s.addrByte, s.bit Reg.SHL_FAB_CFG.MASTER, s.bit Reg.SHL_FAB_CFG.ADDR_FIXED, seq, nbrs⟩
    ((s.setLsa Config.serial (some l)).flood s.fabLanes (.lsa l)).inc Cnt.FAB_LSA_SENT

/-- NBR_LANES bit of a lane. -/
def State.markNbr (s : State) (n : Nat) (on : Bool) : State :=
  let old := s.rd Reg.SHL_FAB_STATUS.NBR_LANES
  s.wr Reg.SHL_FAB_STATUS.NBR_LANES (if on then old ||| 2 ^ n else old &&& (0xFFFF ^^^ 2 ^ n))

/-- LANE_ROUTE_CLEAR (R430): a lane cleared from every routing entry; one left with no lane is not VALID. -/
def State.clearLane (s : State) (n : Nat) : State :=
  (List.range 64).foldl (fun s d =>
    let old := s.rd (Reg.SHL_ROUTE.LANES d)
    let new := old &&& (0xFFFF ^^^ 2 ^ n)
    if old = new then s
    else
      let s1 := s.wr (Reg.SHL_ROUTE.LANES d) new
      if new = 0 then s1.wr (Reg.SHL_ROUTE.VALID d) 0 else s1) s

/-- A neighbour stops being live (R424, R425, R430). -/
def State.loseNbr (s : State) (n : Nat) : State :=
  match s.nbr n with
  | none => s.clearLane n
  | some _ =>
    let s1 : State := { s with shl := { s.shl with nbrs := Tab.set (fun _ => none) s.shl.nbrs n none } }
    ((s1.markNbr n false).clearLane n).originate

/-! Addresses (R426 to R428). -/

/-- The device takes an address or gives it up; its LOCAL route follows. -/
def State.setAddr (s : State) (a : Option Nat) : State :=
  let s1 := match s.ownAddr with | some o => s.wr (Reg.SHL_ROUTE.LOCAL o) 0 | none => s
  match a with
  | some x =>
    (((((s1.wr Reg.SHL_FAB_STATUS.ADDR_VALID 1).wr Reg.SHL_FAB_STATUS.ADDR x).putWord (Reg.SHL_ROUTE.addr (x % 64)) 0).wr (Reg.SHL_ROUTE.LOCAL (x % 64)) 1).endCause
      .FABRIC_NO_ADDR srcFab 0)
  | none => (s1.wr Reg.SHL_FAB_STATUS.ADDR_VALID 0).wr Reg.SHL_FAB_STATUS.ADDR 0

/-- Addresses the mode admits (R428). -/
def State.addrLimit (s : State) : Nat := if s.fabMode = 1 then 4 else 64

/-- FABRIC_NO_ADDR (R428). -/
def State.noAddr (s : State) : State := s.onset .FABRIC_NO_ADDR srcFab 0 (s.rd Reg.SHL_FAB_STATUS.DEVICES)

/-- ADDR_CONFLICT (R427): a held LSA of a lower serial number claims this device's address. -/
def State.conflict (s : State) (l : Lsa) : State :=
  if s.ownAddr = some l.addr ∧ l.serial < Config.serial then
    let s1 := (s.setAddr none).raise .FABRIC_ADDR_CONFLICT srcFab (l.addr % 64 * 2 ^ 32 + l.serial % 2 ^ 32)
    let s2 := if s.isMaster || s.bit Reg.SHL_FAB_CFG.ADDR_FIXED then s1.wr Reg.SHL_FAB_STATUS.CONFLICT 1 else s1
    s2.originate
  else s

/-- A claim of a master or of a device with a fixed address, or none (R426, R428). -/
def State.claimOwn (s : State) : State :=
  let s0 := s.wr Reg.SHL_FAB_STATUS.CONFLICT 0
  if s.fabMode = 0 then s0.setAddr none
  else if s.isMaster then (s0.setAddr (some 0)).originate
  else if s.bit Reg.SHL_FAB_CFG.ADDR_FIXED then
    let a := s.rd Reg.SHL_FAB_CFG.ADDR_CFG
    if a < s.addrLimit then (s0.setAddr (some a)).originate else ((s0.setAddr none).noAddr).originate
  else (if s.ownAddr.isSome then (s0.setAddr none).originate else s0)

/-- A master or a device with a fixed address claims it (R426, R428), and gives it up when a held LSA of a lower serial number
claims it too (R427). -/
def State.claim (s : State) : State := s.held.foldl State.conflict s.claimOwn

/-! Routes (R429, R438). -/

/-- Lanes of a device that form an adjacency with another (R424): each lists the other on the lane pair. -/
def adjLanes (x y : Lsa) : List Nat :=
  (x.nbrs.filter (fun e => e.1 == y.serial && y.nbrs.contains (x.serial, e.2.2, e.2.1))).map (fun e => e.2.1)

/-- Devices by distance from a front: those not seen next to a front device that paths may pass through. -/
def hopLevels (through : Lsa → Bool) : Nat → List Lsa → List Lsa → List (List Lsa)
  | 0, _, _ => []
  | k + 1, front, rest =>
    if front = [] then []
    else
      let next := rest.filter (fun y => front.any (fun x => through x && !(adjLanes y x).isEmpty))
      front :: hopLevels through k next (rest.filter (fun y => !next.contains y))

/-- The device another device's LSA names as holder of an address: of two claims the lower serial number's (R427). -/
def State.holder (s : State) (d : Nat) : Option Lsa :=
  (s.held.filter (fun l => decide (l.addr = d ∧ l.serial ≠ Config.serial))).foldl (fun b l =>
    match b with
    | none => some l
    | some x => if l.serial < x.serial then some l else some x) none

/-- Routing entry to an address: hops and next-hop lanes, none when no path leads there (R429). In a cascade paths pass only
through the master. -/
def State.routeTo (s : State) (d : Nat) : Option (Nat × Nat) :=
  match s.holder d, s.lsaOf Config.serial with
  | some t, some own =>
    let through := fun (x : Lsa) => x.serial == t.serial || s.fabMode == 2 || (x.master && x.addr == 0)
    let ls := hopLevels through 64 [t] (s.held.filter (fun l => l.serial ≠ t.serial))
    match ls.findIdx? (fun l => l.any (fun x => x.serial == Config.serial)) with
    | none => none
    | some k =>
      let lanes := ((ls.getD (k - 1) []).filter through).flatMap (fun v => adjLanes own v)
      let up := (lanes.filter s.fabLane).dedup
      if k = 0 ∨ up = [] then none else some (k, (up.map (fun n => 2 ^ n)).sum)
  | _, _ => none

/-- Word of a routing entry (Table 13-7). -/
def routeWord : Option (Nat × Nat) → Word
  | none => 0
  | some (h, l) => BitVec.ofNat 32 (2 ^ 31 + h % 64 * 2 ^ 24 + l % 2 ^ 16)

/-- A route to address 0 exists. -/
def State.masterRoute (s : State) : Bool := s.bit (Reg.SHL_ROUTE.VALID 0)

/-- MASTER_SEEN rises with a route to the master (Table 13-5, R438). -/
def State.seeMaster (s : State) : State :=
  if s.masterRoute then (s.wr Reg.SHL_FAB_STATUS.MASTER_SEEN 1).endCause .CASCADE_MASTER_LOST srcFab 0
  else if s.fabMode = 1 ∧ !s.isMaster then s
  else s.wr Reg.SHL_FAB_STATUS.MASTER_SEEN 0

/-- ROUTE_RECOMPUTE (R429). -/
def State.recompute (s : State) : State :=
  let news := (List.range 64).map (fun d => (d, if s.ownAddr = some d then 0x40000000#32 else routeWord (s.routeTo d)))
  let s1 := news.foldl (fun s x => s.putWord (Reg.SHL_ROUTE.addr x.1) x.2) s
  (if news.any (fun x => s.word (Reg.SHL_ROUTE.addr x.1) != x.2) then s1.inc Cnt.FAB_ROUTE_CHANGES else s1).seeMaster

/-! Packets (R431 to R435). -/

/-- Lane a packet takes to an address (R431). -/
def State.routeLane (s : State) (d flow : Nat) : Option Nat :=
  if s.bit (Reg.SHL_ROUTE.VALID d) then
    let ls := (List.range 16).filter (fun n => (s.rd (Reg.SHL_ROUTE.LANES d)).testBit n)
    ls[flow * ls.length / 65536]?
  else none

/-- Transit queue of a lane and class (R432). -/
abbrev transitQ (lane cls : Nat) : Nat := 8064 + 8 * lane + cls

/-- A packet with its carrier header sent toward an address (R431, R433): into a transit queue, counted, or dropped. -/
def State.sendCarrier (s : State) (d : Desc) (hdr : List Byte) (dest : Nat) (yellow : Bool) (cnt : Nat) : State :=
  match s.routeLane dest d.flow with
  | none => ((s.inc Cnt.FAB_NO_ROUTE_DROP).raiseLimited .FABRIC_NO_ROUTE srcFab dest 0 1000000).unref d.handle
  | some n => (s.inc cnt).enqueueRest { d with queue := transitQ n d.cls, dir := true, bucket := noBucket, carrier := hdr } yellow

/-- Carrier header (Table 13-2). -/
def carrierHdr (ttl dest origin cls : Nat) (yellow dqDir dir ctxV : Bool) (dq xctx flow : Nat) : List Byte :=
  let b := fun (x : Bool) (v : Nat) => if x then v else 0
  [BitVec.ofNat 8 (64 + ttl % 64), BitVec.ofNat 8 (dest % 64), BitVec.ofNat 8 (origin % 64),
   BitVec.ofNat 8 (cls % 8 * 32 + b yellow 16 + b dqDir 8 + b dir 4 + b ctxV 1)]
    ++ beBytes 2 dq ++ beBytes 2 xctx ++ beBytes 2 flow ++ [0#8, 0#8]

/-- PROXY_SEND (R433): `q` is the proxy's uplink-side number. A device without an address originates nothing (R428). -/
def State.proxySend (s : State) (d : Desc) (q : Nat) (yellow : Bool) : State :=
  let dest := s.rd (Win.BIND_DEST q)
  let none_ := fun (s : State) => ((s.inc Cnt.FAB_NO_ROUTE_DROP).raiseLimited .FABRIC_NO_ROUTE srcFab dest 0 1000000).unref d.handle
  match s.ownAddr with
  | none => none_ s
  | some a =>
    if a = dest then none_ s
    else s.sendCarrier d (carrierHdr 63 dest a d.cls yellow (s.bit (Win.BIND_DQ_DIR q)) d.dir d.ctxV (s.rd (Win.BIND_DQ q)) d.xctx d.flow)
      dest yellow Cnt.FAB_ORIGINATED

/-- The queue a descriptor names is a proxy. -/
def State.isProxy (s : State) (d : Desc) : Bool := d.dir && decide (d.queue < 8064) && s.bit (Win.BIND_EN d.queue)

/-- A copy through checks 1 and 2 toward a proxy (R433). -/
def State.proxyChecks (s : State) (x : EnqIn) : State :=
  if 16383 < x.d.length then (s.inc Cnt.SCH_ENQ_OVERSIZE).unref x.d.handle
  else
    match x.yellow with
    | some y => s.proxySend x.d x.d.queue y
    | none =>
      let r := s.policed x.d.bucket x.d.length
      match r.2 with
      | none => (r.1.inc Cnt.SCH_POLICE_DROP).unref x.d.handle
      | some y => r.1.proxySend x.d x.d.queue y

/-- A copy whose policing is done, through check 1 and checks 3 to 6 (R267). -/
def State.enqueueColored (s : State) (d : Desc) (y : Bool) : State :=
  let q := if d.dir then 65536 + d.queue else d.queue
  if 16383 < d.length then ((s.inc Cnt.SCH_ENQ_OVERSIZE).queueDrop q).unref d.handle else s.enqueueRest d y

/-- ENQUEUE (R271, R433): the copy that waits first. -/
def execEnqueue (s : State) : Host.Outcome State Fault Refusal :=
  if s.flt.safe then ok s else
  match s.fwd.enq with
  | [] => ok s
  | x :: t =>
    let s1 : State := { s with fwd := { s.fwd with enq := t } }
    let s2 := if s1.isProxy x.d then s1.proxyChecks x
      else match x.yellow with
        | some y => s1.enqueueColored x.d y
        | none => s1.enqueue x.d
    ok (match x.unref with
      | some e => s2.epochUnref e
      | none => s2)

/-- A carrier packet for this device (R435): DELIVERED counts the one enqueued. -/
def State.deliver (s : State) (d : Desc) (yellow : Bool) : State :=
  if s.isProxy d || (d.dir && decide (8192 ≤ d.queue)) then (s.inc Cnt.FAB_BAD_DEST_DROP).unref d.handle
  else
    let q := if d.dir then 65536 + d.queue else d.queue
    let s1 := s.enqueueColored d yellow
    if (s1.queue q).count = (s.queue q).count + 1 then s1.inc Cnt.FAB_DELIVERED else s1

/-- PACKET (R434, R435, R15, R510): a channel 2 message from a lane; `full` is a full boundary FIFO. -/
def execPacket (n : Fin 16) (bytes : List Byte) (full : Bool) (s : State) : Host.Outcome State Fault Refusal :=
  let h := fun (i : Nat) => (bytes.getD i 0#8).toNat
  let fr := bytes.drop 12
  let dest := h 1 % 64
  let cls := h 3 / 32
  let yellow := h 3 / 16 % 2 = 1
  ok (if !s.fabLane n.val || s.flt.safe then s
    else if s.stage < 3 then s.inc Cnt.BOOT_STAGE_DROP
    else if h 0 / 64 ≠ 1 ∨ fr.length < 60 ∨ 16383 < fr.length then s.inc Cnt.FAB_BAD_DEST_DROP
    else if full then s.overrun (srcLane n.val) 0
    else
      let a := s.newBuf cls fr.length fr
      match a.2 with
      | none => a.1.noBuf cls fr.length
      | some b =>
        let e := a.1.published
        let d : Desc := { Desc.zero with handle := b, dir := h 3 / 4 % 2 = 1, epoch := e, express := true, length := fr.length, cls := cls
                                         source := 24, flow := beNat (sliceZ bytes 8 2), xctx := beNat (sliceZ bytes 6 2)
                                         ctxV := h 3 % 2 = 1, tIn := s.now % 2 ^ 32 }
        let s1 := a.1.epochRef e
        let s2 :=
          if s1.ownAddr = some dest then s1.deliver { d with queue := beNat (sliceZ bytes 4 2), dir := h 3 / 8 % 2 = 1 } yellow
          else if h 0 % 64 ≤ 1 then (s1.inc Cnt.FAB_TTL_DROP).unref b
          else s1.sendCarrier d (BitVec.ofNat 8 (64 + (h 0 % 64 - 1)) :: (bytes.take 12).drop 1) dest yellow Cnt.FAB_TRANSIT
        s2.epochUnref e)

/-! Commands. -/

/-- HELLO_SEND (R424); in safe state HELLO messages stop (Table 14-9). -/
def execHelloSend (s : State) : Host.Outcome State Fault Refusal := ok (if s.flt.safe then s else s.flood s.fabLanes .hello)

/-- HELLO (R424, R425): the neighbour on the lane is live; a change originates an LSA. -/
def execHello (n : Fin 16) (addr : BitVec 8) (lane : Fin 16) (serial : BitVec 64) (s : State) : Host.Outcome State Fault Refusal :=
  let b : Nbr := ⟨serial.toNat, lane.val, addr.toNat⟩
  ok (if !s.fabLane n.val then s
    else if s.nbr n.val = some b then s
    else (({ s with shl := { s.shl with nbrs := Tab.set (fun _ => none) s.shl.nbrs n.val (some b) } } : State).markNbr n.val true).originate)

/-- NEIGHBOUR_TIMEOUT (R424, R430). -/
def execNeighbourTimeout (n : Fin 16) (s : State) : Host.Outcome State Fault Refusal :=
  ok (if (s.nbr n.val).isSome then s.loseNbr n.val else s)

/-- LSA (R425, R427): kept when its SEQ is above the one held of its serial number, forwarded on every other ACTIVE lane of
the role, and checked for a claim to this device's address. -/
def execLsa (n : Fin 16) (l : Lsa) (s : State) : Host.Outcome State Fault Refusal :=
  let newer := match s.lsaOf l.serial with | some o => decide (o.seq < l.seq) | none => true
  ok (if !s.fabLane n.val || !newer then s
    else (((s.setLsa l.serial (some l)).inc Cnt.FAB_LSA_KEPT).flood (s.fabLanes.filter (fun m => m ≠ n.val)) (.lsa l)).conflict l)

/-- LSA_REFRESH (R425). -/
def execLsaRefresh (s : State) : Host.Outcome State Fault Refusal := ok s.originate

/-- LSA_EXPIRY (R425): an LSA not refreshed for 400 ms is removed. -/
def execLsaExpiry (serial : BitVec 64) (s : State) : Host.Outcome State Fault Refusal := ok (s.setLsa serial.toNat none)

/-- ADDRESS_SETTLE (R426, R428): the device of rank i among those without an address takes the (i + 1)-th lowest address no
held LSA claims. -/
def execAddressSettle (s : State) : Host.Outcome State Fault Refusal :=
  ok (if s.fabMode = 0 || s.ownAddr.isSome || s.isMaster || s.bit Reg.SHL_FAB_CFG.ADDR_FIXED then s
    else
      let others := s.held.filter (fun l => decide (l.serial ≠ Config.serial))
      let rank := (others.filter (fun l => decide (64 ≤ l.addr ∧ l.serial < Config.serial))).length
      let free := (List.range s.addrLimit).filter (fun a => !others.any (fun l => l.addr == a))
      match free[rank]? with
      | some a => (s.setAddr (some a)).originate
      | none => s.noAddr)

/-- ROUTE_RECOMPUTE (R429). -/
def execRouteRecompute (s : State) : Host.Outcome State Fault Refusal := ok s.recompute

/-- MASTER_LOST_TIMEOUT (R438): 1 ms without a VALID route to address 0. -/
def execMasterLostTimeout (s : State) : Host.Outcome State Fault Refusal :=
  ok (if s.fabMode = 1 ∧ !s.isMaster ∧ !s.masterRoute then
      (s.wr Reg.SHL_FAB_STATUS.MASTER_SEEN 0).onset .CASCADE_MASTER_LOST srcFab 0 (s.rd Reg.SHL_FAB_STATUS.NBR_LANES)
    else s)

/-- BINDING_WRITE (R440): a remote binding of an uplink-side queue below 8,064. -/
def execBindingWrite (ag : Agent) (q : Fin 8192) (v : Word) (s : State) : Host.Outcome State Fault Refusal :=
  ok (s.winGate ag wShl q.val (fun s =>
    if 8064 ≤ q.val then s.deny ag .refused q.val wShl
    else s.putWord (winKey wShl q.val 0) (v &&& 0xFF00FFFF#32)))

end Sys2Proof.Machine
end

