-- ==== Sys2Proof/Machine/Lanes.lean ====
section
/-! DEFINITION. Bring-up, sessions and messages of the Shasol lanes (12_serial_lanes.md R402 to R415), sealing
(09_encryption_and_keys.md R312, R324 to R332) and the commands of the Shasol link. -/

namespace Sys2Proof.Machine

set_option autoImplicit false

/-! States of a lane (Table 12-10). -/

/-- STATE stored. -/
def State.goLane (s : State) (n st : Nat) : State := s.wr (Reg.SHL_LANE_STATUS.STATE n) st

/-- TWN_STATUS.SEALED: every ACTIVE lane of the twin is sealed. -/
def State.twinSealed (s : State) : State :=
  s.wr Reg.TWN_STATUS.SEALED (if !s.twinUp.isEmpty && s.twinUp.all (fun n => s.bit (Reg.SHL_LANE_STATUS.SEALED n)) then 1 else 0)

/-- A lane of the twin joins or leaves LANES_UP: the first one starts a fresh SYNC of every owned tree and ends
TWIN_LINK_DOWN; the last one raises it (R363). Messages queued for a lane that left are lost. -/
def State.twinLane (s : State) (n : Nat) (up : Bool) : State :=
  let old := s.rd Reg.TWN_STATUS.LANES_UP
  if up then
    let s1 := s.wr Reg.TWN_STATUS.LANES_UP (old ||| 2 ^ n)
    let s2 := if old = 0 then ports.foldl (fun s p => (s.setTwinTree p { s.twinTree p with synced := false }).mirror 12 p 0xFF 0)
      (s1.endCause .TWIN_LINK_DOWN srcTwn 0) else s1
    s2.twinSealed
  else
    let new := old &&& (0xF ^^^ 2 ^ n)
    let s1 := s.wr Reg.TWN_STATUS.LANES_UP new
    let s2 : State := { s1 with twn := { s1.twn with txq := s1.twn.txq.filter (fun m => m.lane ≠ n) } }
    let s3 := if new = 0 ∧ old ≠ 0 then s2.onset .TWIN_LINK_DOWN srcTwn 0 (2 ^ n) else s2
    s3.twinSealed.redecide

/-- The transit queues of a lane flushed (R436). -/
def State.flushTransit (s : State) (n : Nat) : State :=
  (List.range 8).foldl (fun s c =>
    let q := 65536 + transitQ n c
    (s.count Cnt.FAB_LANE_LOST_DROP (s.queue q).count).flushQueue q) s

/-- A session's end: its keys, counters and offers are gone. -/
def Lane.endSession (x : Lane) : Lane :=
  { x with offer := none, tx := none, txCtr := 0, rx := none, rxNew := none, ctl := [], fab := [], hold := [], capWait := false, marks := 0, miss := 0 }

/-- A lane leaves ACTIVE (Table 12-10, R420, R430, R436): LANE_DOWN with its cause where the table names one. -/
def State.leaveActive (s : State) (n : Nat) (cause : Option Nat) (dst : Nat) : State :=
  let role := s.laneRole n
  let s1 := (s.setLane n (s.lane n).endSession).inc (Cnt.SHL_LANE_DOWNS n)
  let s2 := (((s1.goLane n dst).wr (Reg.SHL_LANE_STATUS.SEALED n) 0).wr (Reg.SHL_LANE_STATUS.TX_PHASE n) 0).wr (Reg.SHL_LANE_STATUS.RX_PHASE n) 0
  let s3 := match cause with | some c => s2.raise .LANE_DOWN (srcLane n) (laneAddr n c) | none => s2
  if role = 0 then s3.twinLane n false else (s3.loseNbr n).flushTransit n

/-- A lane moves to another state, leaving ACTIVE if it is there; where it carries no messages from then on, its blocks go. -/
def State.moveLane (s : State) (n : Nat) (cause : Option Nat) (dst : Nat) : State :=
  let s1 := if s.laneUp n then s.leaveActive n cause dst else s.goLane n dst
  if dst = lnExchange then s1 else s1.setLane n { s1.lane n with out := [], tile := none }

/-- DETECT: no termination is known yet. -/
def State.toDetect (s : State) (n : Nat) (cause : Option Nat) : State :=
  let s1 := s.moveLane n cause lnDetect
  s1.setLane n { s1.lane n with training := false, bitLock := false, commas := 0, mismatch := false }

/-- TRAIN. -/
def State.toTrain (s : State) (n : Nat) (cause : Option Nat) : State :=
  let s1 := s.moveLane n cause lnTrain
  s1.setLane n { s1.lane n with word := none, ready := 0, reply := 0#32, good := none, bitLock := false, commas := 0 }

/-- LOCK. -/
def State.toLock (s : State) (n : Nat) (cause : Option Nat) : State :=
  let s1 := s.moveLane n cause lnLock
  s1.setLane n { s1.lane n with bitLock := false, commas := 0 }

/-- A channel 0 message queued. -/
def State.linkCtl (s : State) (n : Nat) (m : LinkCtl) : State := s.setLane n { s.lane n with ctl := (s.lane n).ctl ++ [m] }

/-- A CAP queued: in EXCHANGE it carries the exchange's NONCE, in ACTIVE a fresh one (R408). -/
def State.linkCap (s : State) (n : Nat) (ack : Bool) : State :=
  if s.laneUp n then
    let f := s.freshNonce
    f.2.linkCtl n (.cap ack f.1)
  else s.linkCtl n (.cap ack (s.lane n).nonce)

/-- EXCHANGE: a fresh NONCE for its CAPs (Table 12-10). -/
def State.toExchange (s : State) (n : Nat) (cause : Option Nat) : State :=
  let f := (s.moveLane n cause lnExchange).freshNonce
  f.2.setLane n { (f.2.lane n).endSession with nonce := f.1, peer := none, mine := f.2.sealBits n, mismatch := false }

/-- The end of the strap window, or a change of the configuration, gives a lane its role or takes it (R411, R422). -/
def State.takeRole (s : State) (n : Nat) : State :=
  if !s.shl.latched then s
  else
    match s.roleFor n with
    | none => if s.laneState n = lnTest then s else s.moveLane n none lnOff
    | some r =>
      let same := s.laneRole n == r
      let s1 := if !same && s.laneUp n then s.toExchange n none else s
      let s2 := s1.wr (Reg.SHL_LANE_STATUS.ROLE n) r
      if s2.laneState n = lnOff ∧ s2.bit (Reg.SHL_LANE_CFG.EN n) then s2.toDetect n none
      else if s2.laneState n = lnLock ∧ 3 ≤ (s2.lane n).commas then s2.toExchange n none
      else s2

/-- Every lane's role settled. -/
def State.takeRoles (s : State) : State := (List.range 16).foldl State.takeRole s

/-! Sessions (R406 to R408, R325). -/

/-- A new session's keys: sent messages change at once, received ones with the partner's first message (R407). -/
def State.newSession (s : State) (n : Nat) (k : Sess) (first : Bool) : State :=
  let x := s.lane n
  let s1 := s.setLane n { x with tx := some k, txCtr := 0, offer := none, rx := if first then some k else x.rx, rxNew := if first then none else some k }
  let s2 := (s1.wr (Reg.SHL_LANE_STATUS.SEALED n) 1).inc Cnt.KEY_GCM_SESSIONS
  let s3 := if first then s2 else s2.wr (Reg.SHL_LANE_STATUS.TX_PHASE n) (1 - s2.rd (Reg.SHL_LANE_STATUS.TX_PHASE n))
  (s3.derive (linkRoot n) 3 (beNat k.context)).twinSealed

/-- SESS_OFFER sent with a fresh nonce (R407). -/
def State.offer (s : State) (n : Nat) : State :=
  if (s.lane n).offer.isSome then s
  else
    let f := s.freshNonce
    (f.2.setLane n { f.2.lane n with offer := some (f.1, 1) }).linkCtl n (.offer f.1)

/-- An unsealed session whose latest CAPs both show SEAL_CAP is offered a seal (R407). -/
def State.offerSeal (s : State) (n : Nat) : State :=
  match (s.lane n).peer with
  | some c => if s.laneUp n && !s.bit (Reg.SHL_LANE_STATUS.SEALED n) && c.sealCap && (s.lane n).mine.1 then s.offer n else s
  | none => s

/-- A change of this end's SEAL_CAP or SEAL_REQ within ACTIVE sends a new CAP until it is acknowledged (R408). -/
def State.sealChange (s : State) (n : Nat) : State :=
  if s.laneUp n && (s.lane n).mine != s.sealBits n then
    ((s.setLane n { s.lane n with mine := s.sealBits n, capWait := true }).linkCap n false).offerSeal n
  else s

/-- Entry to ACTIVE (R406): a session, sealed when both ends sent SEAL_CAP. -/
def State.enterActive (s : State) (n : Nat) (c : Cap) : State :=
  let x := s.lane n
  let s1 := (s.goLane n lnActive).setLane n { x with heard := s.now }
  let s2 := if c.sealCap && x.mine.1 then s1.newSession n (s1.session n c x.nonce c.nonce) true else s1
  let s3 := if s2.laneRole n = 0 then
      let t := s2.twinLane n true
      { t with twn := { t.twn with serial := some c.serial } }
    else s2
  s3.sealChange n

/-- Two CAPs are compatible (R414). -/
def State.compatible (s : State) (n : Nat) (c : Cap) : Bool :=
  let m := (s.lane n).mine
  c.role == s.laneRole n && (decide (c.role ≠ 0) || c.lane == n) && ((!c.sealReq && !m.2) || (c.sealCap && m.1))

/-- CAP_RX (R414, R408). -/
def execCapRx (n : Fin 16) (c : Cap) (s : State) : Host.Outcome State Fault Refusal :=
  let k := n.val
  let x := s.lane k
  ok (if s.laneState k = lnExchange then
      if x.mismatch then s
      else
        let s1 := ((s.setLane k { x with peer := some c }).wr (Reg.SHL_LANE_STATUS.PARTNER_ADDR k) c.addr).wr (Reg.SHL_LANE_STATUS.PARTNER_LANE k) c.lane
        if !s1.compatible k c then
          let refused := c.role == s1.laneRole k && (decide (c.role ≠ 0) || c.lane == k)
          (s1.setLane k { s1.lane k with mismatch := true, ctl := [], out := [] }).raise .LANE_MISMATCH (srcLane k)
            (laneAddr k (c.lane % 16 * 2 ^ 8 + (if refused then 16 else 0) + c.role % 4))
        else
          let s2 := s1.linkCap k true
          if c.ack then s2.enterActive k c else s2
    else if s.laneUp k then
      match x.peer with
      | none => s
      | some o =>
        if c.role ≠ o.role ∨ c.addr ≠ o.addr ∨ c.lane ≠ o.lane then s.toExchange k (some 5)
        else
          let s1 := s.setLane k { x with peer := some { o with sealCap := c.sealCap, sealReq := c.sealReq }, capWait := if c.ack then false else x.capWait }
          (if c.ack then s1 else s1.linkCap k true).offerSeal k
    else s)

/-- SESS_OFFER (R407): of two offers that cross the lower end's stands; an answer carries a fresh nonce, and once it
has left what follows it is sent under the new key. -/
def execSessOffer (n : Fin 16) (nonce : BitVec 64) (s : State) : Host.Outcome State Fault Refusal :=
  let k := n.val
  ok (match (s.lane k).peer with
    | none => s
    | some c =>
      if !s.laneUp k || !(s.sealBits k).1 || ((s.lane k).offer.isSome && s.lowerEnd c) then s
      else
        let f := s.freshNonce
        (f.2.setLane k { f.2.lane k with offer := none }).linkCtl k (.answer f.1 nonce.toNat))

/-- SESS_ANSWER (R407). -/
def execSessAnswer (n : Fin 16) (nonce : BitVec 64) (s : State) : Host.Outcome State Fault Refusal :=
  let k := n.val
  ok (match (s.lane k).peer, (s.lane k).offer with
    | some c, some o => if s.laneUp k then s.newSession k (s.session k c o.1 nonce.toNat) false else s
    | _, _ => s)

/-- SESS_OFFER_TIMEOUT (R407): the offer is sent again; after the third the lane returns to EXCHANGE. -/
def execSessOfferTimeout (n : Fin 16) (s : State) : Host.Outcome State Fault Refusal :=
  let k := n.val
  ok (match (s.lane k).offer with
    | none => s
    | some o =>
      if !s.laneUp k then s
      else if o.2 < 3 then (s.setLane k { s.lane k with offer := some (o.1, o.2 + 1) }).linkCtl k (.offer o.1)
      else s.toExchange k (some 5))

/-! Bring-up (R410 to R413). -/

/-- A write of SHL_LANE_CFG (Table 12-16): EN, RETRAIN, SEAL. An isolated lane keeps EN at 0 (R460). -/
def State.laneCfgWrite (s : State) (ag : Agent) (n : Nat) (v : Word) : State :=
  let a := Reg.SHL_LANE_CFG.addr n
  s.gate ag a (fun s =>
    let s1 := s.storeWord ag a (if s.flt.isolated .lane n then v &&& 0x7FFFFFFF#32 else v)
    let s2 :=
      if !s1.bit (Reg.SHL_LANE_CFG.EN n) then s1.moveLane n none lnOff
      else if s1.laneState n = lnOff ∧ !s.bit (Reg.SHL_LANE_CFG.EN n) ∧ (!s1.shl.latched ∨ (s1.roleFor n).isSome) then s1.toDetect n none
      else s1
    let s3 := if v.getLsbD 28 ∧ s2.laneUp n ∧ (s2.lane n).marks = 0 then s2.setLane n { s2.lane n with marks := 4 } else s2
    s3.sealChange n)

/-- LANE_EN_WRITE (R411). -/
def execLaneEnWrite (ag : Agent) (n : Fin 16) (v : Word) (s : State) : Host.Outcome State Fault Refusal := ok (s.laneCfgWrite ag n.val v)

/-- SHASOL_RETRAIN (R411): RETRAIN written; MARK leads the next 3 tiles. -/
def execShasolRetrain (ag : Agent) (n : Fin 16) (v : Word) (s : State) : Host.Outcome State Fault Refusal :=
  ok (s.laneCfgWrite ag n.val (v ||| 0x10000000#32))

/-- Transmit taps stored (R410). -/
def State.setTaps (s : State) (n pre post : Nat) : State :=
  ((s.wr (Reg.SHL_LANE_COEF.C_PRE n) pre).wr (Reg.SHL_LANE_COEF.C_POST n) post).wr (Reg.SHL_LANE_COEF.C_MAIN n) (63 - pre - post)

/-- RX_DETECT_PULSE (R411): a pulse that finds the termination starts training frames from the last trained taps or the
preset. -/
def execRxDetectPulse (n : Fin 16) (found : Bool) (s : State) : Host.Outcome State Fault Refusal :=
  let k := n.val
  ok (if s.laneState k = lnDetect ∧ found then
      let t := ((s.lane k).trained).getD (2, 8)
      (s.setLane k { s.lane k with training := true }).setTaps k t.1 t.2
    else s)

/-- RX_ENERGY (R411). -/
def execRxEnergy (n : Fin 16) (s : State) : Host.Outcome State Fault Refusal :=
  ok (if s.laneState n.val = lnDetect ∧ (s.lane n.val).training then s.toTrain n.val none else s)

/-- LANE_ENERGY_LOSS (R411). -/
def execLaneEnergyLoss (n : Fin 16) (s : State) : Host.Outcome State Fault Refusal :=
  let st := s.laneState n.val
  ok (if st = lnLock ∨ st = lnExchange ∨ st = lnActive then s.toDetect n.val (some 1) else s)

/-- A tap after a request (Table 12-9): its new value and its status. -/
def tapStep (req lim v : Nat) : Nat × Nat :=
  match req with
  | 1 => if lim ≤ v + 1 then (lim, 3) else (v + 1, 1)
  | 2 => if v ≤ 1 then (0, 2) else (v - 1, 1)
  | _ => (v, 0)

/-- A time at which a run began lies at least `ns` back. -/
def State.since (s : State) (o : Option Nat) (ns : Nat) : Bool :=
  match o with | some t => decide (t + ns ≤ s.now) | none => false

/-- The request bits 31:27 of a coefficient word ask for something (Table 12-9). -/
def asksTaps (req : BitVec 5) : Bool :=
  req.getLsbD 4 || (req.getLsbD 3 != req.getLsbD 2) || (req.getLsbD 1 != req.getLsbD 0)

/-- A coefficient word (Table 12-9): requests, RX_READY and statuses. -/
def coefWord (req : BitVec 5) (ready : Bool) (pre post : Nat) : BitVec 32 :=
  BitVec.ofNat 32 (req.toNat * 2 ^ 27 + (if ready then 2 ^ 15 else 0) + pre % 4 * 4 + post % 4)

/-- TRAINING_FRAME_RX (R410, R411): `w` is the coefficient word received, `req` the request bits that this end's receiver
makes of its partner in the frame it sends next, which the spec leaves to the receiver. A word is acted on when it came
twice in a row, and must come twice again (DESIGN CHOICE, log entry 30). RX_READY is set once the margin has stayed at
SNAP_MARGIN for 100 µs with no request outstanding, and stays set in TRAIN. -/
def execTrainingFrameRx (n : Fin 16) (w : BitVec 32) (req : BitVec 5) (s : State) : Host.Outcome State Fault Refusal :=
  let k := n.val
  let x := s.lane k
  ok (if s.laneState k ≠ lnTrain then s
    else
      let acts := x.word == some w
      let pre := s.rd (Reg.SHL_LANE_COEF.C_PRE k)
      let post := s.rd (Reg.SHL_LANE_COEF.C_POST k)
      let a := if w.getLsbD 31 then (2, 1) else tapStep (w.extractLsb' 29 2).toNat 12 pre
      let b := if w.getLsbD 31 then (8, 1) else tapStep (w.extractLsb' 27 2).toNat 24 post
      let s1 := if acts then s.setTaps k a.1 b.1 else s
      let good := if asksTaps req then none else x.good
      let ready := x.reply.getLsbD 15 || s.since good 100000
      let run := if x.reply.getLsbD 15 && w.getLsbD 15 then x.ready + 1 else 0
      let s2 := s1.setLane k { x with word := if acts then none else some w, ready := run, good := good
                                      reply := coefWord req ready (if acts then a.2 else 0) (if acts then b.2 else 0) }
      if run < 3 then s2
      else
        let s3 := s2.toLock k none
        s3.setLane k { s3.lane k with trained := some (s3.rd (Reg.SHL_LANE_COEF.C_PRE k), s3.rd (Reg.SHL_LANE_COEF.C_POST k)), snap := some s.now })

/-- TRAIN_TIMEOUT (R411). -/
def execTrainTimeout (n : Fin 16) (s : State) : Host.Outcome State Fault Refusal :=
  let k := n.val
  ok (if s.laneState k = lnTrain then
      ((s.toDetect k none).inc (Cnt.SHL_TRAIN_FAILS k)).raise .LANE_TRAIN_FAIL (srcLane k)
        (laneAddr k (s.rd (Reg.SHL_LANE_COEF.C_POST k) * 2 ^ 8 + s.rd (Reg.SHL_LANE_COEF.C_PRE k)))
    else s)

/-- BIT_LOCK (R412). -/
def execBitLock (n : Fin 16) (s : State) : Host.Outcome State Fault Refusal :=
  ok (if s.laneState n.val = lnLock then s.setLane n.val { s.lane n.val with bitLock := true } else s)

/-- BIT_LOCK_LOST (R412). -/
def execBitLockLost (n : Fin 16) (s : State) : Host.Outcome State Fault Refusal :=
  ok (s.setLane n.val { s.lane n.val with bitLock := false, commas := if s.laneState n.val = lnLock then 0 else (s.lane n.val).commas })

/-- A comma missing at its place (R411, R413): the second in a row takes an ACTIVE lane to LOCK. -/
def State.commaMissing (s : State) (n : Nat) : State :=
  if s.laneUp n then
    if (s.lane n).miss = 0 then s.setLane n { s.lane n with miss := 1 } else s.toLock n (some 0)
  else if s.laneState n = lnLock then s.setLane n { s.lane n with commas := 0 }
  else s

/-- COMMA_MISSING (R411). -/
def execCommaMissing (n : Fin 16) (s : State) : Host.Outcome State Fault Refusal := ok (s.commaMissing n.val)

/-- COMMA_RX (R400, R401, R413): `spaced` says it begins at tile spacing after the one before; `stuffed` and `errs` are the
stuffed bits removed and the stuffing errors since that one. -/
def execCommaRx (n : Fin 16) (code : BitVec 8) (spaced : Bool) (stuffed errs : Nat) (s : State) : Host.Outcome State Fault Refusal :=
  let k := n.val
  let s0 := (s.count (Cnt.SHL_STUFF_BITS k) stuffed).count (Cnt.SHL_STUFF_ERR k) errs
  let tile := code == 0xB2#8 || code == 0xCD#8
  ok (if !tile && code != 0x8E#8 then
      let s1 := s0.inc (Cnt.SHL_COMMA_ERR k)
      if spaced then s1.commaMissing k else s1
    else if s0.laneState k = lnLock then
      if !tile || !(s0.lane k).bitLock then s0
      else
        let c := if spaced then min 3 ((s0.lane k).commas + 1) else 1
        let s1 := s0.setLane k { s0.lane k with commas := c }
        let s2 := if spaced then s1.inc (Cnt.SHL_TILES_RX k) else s1
        if 3 ≤ c ∧ s2.shl.latched then s2.toExchange k none else s2
    else if s0.laneState k = lnExchange ∨ s0.laneUp k then
      if !spaced then s0.inc (Cnt.SHL_COMMA_ERR k)
      else if !tile then s0.commaMissing k
      else
        let s1 := (s0.setLane k { s0.lane k with miss := 0 }).inc (Cnt.SHL_TILES_RX k)
        if code = 0xCD#8 ∧ s1.laneUp k then s1.toTrain k (some 2) else s1
    else s0)

/-- LOCK_TIMEOUT (R411): suspended for a lane in comma lock before the straps are latched. -/
def execLockTimeout (n : Fin 16) (s : State) : Host.Outcome State Fault Refusal :=
  ok (if s.laneState n.val = lnLock ∧ (s.shl.latched ∨ (s.lane n.val).commas < 3) then s.toTrain n.val none else s)

/-- MISMATCH_HOLD_EXPIRY (R411). -/
def execMismatchHoldExpiry (n : Fin 16) (s : State) : Host.Outcome State Fault Refusal :=
  ok (if s.laneState n.val = lnExchange ∧ (s.lane n.val).mismatch then s.toDetect n.val none else s)

/-- EXCHANGE_TIMEOUT (R411); a lane that holds a mismatch waits for its MISMATCH_HOLD. -/
def execExchangeTimeout (n : Fin 16) (s : State) : Host.Outcome State Fault Refusal :=
  ok (if s.laneState n.val = lnExchange ∧ !(s.lane n.val).mismatch then s.toLock n.val none else s)

/-- A tile starts under a comma's code: it takes its blocks from those that wait, and FILL when none does (R13, R397). -/
def State.startTile (s : State) (k : Nat) (code : BitVec 8) : State :=
  let r := fillTile (s.lane k).out
  s.setLane k { s.lane k with tile := some (code, r.1), out := r.2 }

/-- A CAP that waits for an ACK. -/
def LinkCtl.asksAck : LinkCtl → Bool
  | .cap ack _ => !ack
  | _ => false

/-- TILE_START (R397, R401, R408, R411): a tile of what waits; from LOCK on every lane sends tiles. In EXCHANGE every tile carries
a CAP, in ACTIVE a CAP not yet acknowledged; after three tiles led by MARK the lane retrains. -/
def execTileStart (n : Fin 16) (s : State) : Host.Outcome State Fault Refusal :=
  let k := n.val
  let x := s.lane k
  ok (if s.laneState k = lnLock then s.startTile k 0xB2#8
    else if s.laneState k = lnExchange then
      (if x.mismatch ∨ x.ctl ≠ [] then s else s.linkCap k x.peer.isSome).startTile k 0xB2#8
    else if s.laneUp k then
      if x.marks = 1 then s.toTrain k (some 3)
      else
        let s1 := s.setLane k { x with marks := x.marks - 1 }
        (if x.capWait && !x.ctl.any LinkCtl.asksAck then s1.linkCap k false else s1).startTile k (if 1 < x.marks then 0xCD#8 else 0xB2#8)
    else s)

/-! Adaptation in service (R415). -/

/-- An idle run (R415): `fill` says that nothing but FILL came since the last message ended, which was IDLE_RUN ago or more. -/
def State.idleRun (s : State) (n : Nat) (fill : Bool) : Bool :=
  fill && decide ((s.lane n).heard + max 1 (s.rd Reg.SHL_TMR.IDLE_RUN) * 10000 ≤ s.now)

/-- MARGIN_SAMPLE (R410, R411, R415): an eye margin measured; `fill` says that nothing but FILL came since the last message. -/
def execMarginSample (n : Fin 16) (m : BitVec 8) (fill : Bool) (s : State) : Host.Outcome State Fault Refusal :=
  let k := n.val
  let s0 := s.wr (Reg.SHL_LANE_STATUS.MARGIN k) m.toNat
  let x := s0.lane k
  let since := fun (o : Option Nat) => some (o.getD s.now)
  let high := decide (s0.rd (Reg.SHL_LANE_CFG.SNAP_MARGIN k) ≤ m.toNat)
  let good := if high then since x.good else none
  ok (if !s0.laneUp k then s0.setLane k { x with good := good }
    else
      let low := decide (m.toNat < s0.rd (Reg.SHL_LANE_CFG.REVERT_MARGIN k))
      let idle := s0.idleRun k fill
      let long := s.since
      let snaps := long good 1000000 && (x.snap.isNone || long x.snap 1000000)
      let snap := if snaps then some s.now else x.snap
      if !low then s0.setLane k { x with good := good, snap := snap, below := none }
      else
        let reverted : Bool := match x.below, x.revert with | some b, some r => decide (b ≤ r) | _, _ => false
        if idle ∧ (x.revert.isNone ∨ long x.revert 1000000) then
          ((s0.setLane k { x with good := none, snap := snap, revert := some s.now, below := some s.now }).inc (Cnt.SHL_REVERTS k)).raise
            .LANE_REVERT (srcLane k) (laneAddr k m.toNat)
        else
          let below := if idle then (if reverted then x.below else none) else since x.below
          let s1 := s0.setLane k { x with good := none, snap := snap, below := below }
          if (reverted ∧ long x.revert 100000) ∨ (!idle ∧ long below 1000000) then s1.toTrain k (some 4) else s1)

/-! Messages (R402 to R404, R409). -/

/-- Check sequence of a frame, as it is or inverted (R14, R328, R379). -/
def frameCheck (fr : List Byte) (good : Bool) : List Byte := leBytes 4 (if good then crc32 fr else 2 ^ 32 - 1 - crc32 fr)

/-- A frame an uplink lane has sent. -/
def State.ulkOut (s : State) (n : Nat) (fr : List Byte) (good : Bool) : State :=
  { s with shl := { s.shl with ulkSent := Tab.set (fun _ => []) s.shl.ulkSent n (fr ++ frameCheck fr good) } }

/-- Frame begun under sealed cut-through from a lane (R328). -/
def State.cutOf (s : State) (k : Nat) : Option (Nat × List Byte) := Tab.get (fun _ => none) s.shl.cut k

/-- Such a frame noted, or none. -/
def State.setCut (s : State) (k : Nat) (x : Option (Nat × List Byte)) : State :=
  { s with shl := { s.shl with cut := Tab.set (fun _ => none) s.shl.cut k x } }

/-- The frame begun under sealed cut-through from a lane ends with its check sequence, inverted unless `good` (R328, R404). -/
def State.endCut (s : State) (k : Nat) (good : Bool) : State :=
  match s.cutOf k with
  | some x => (s.setCut k none).ulkOut x.1 x.2 good
  | none => s

/-- SHASOL_MESSAGE_RX (R403, R404, R407, R409): a message at its END. A sealed one waits for its tag check; the contents of a
delivered one arrive as a command of their own. A frame of it that an uplink has begun ends with the message when that is
dropped (R404). -/
def execShasolMessageRx (n : Fin 16) (r : LinkRx) (s0 : State) : Host.Outcome State Fault Refusal :=
  let k := n.val
  let x := { s0.lane k with heard := s0.now }
  let s := s0.setLane k x
  let newPhase := decide (s.bit (Reg.SHL_LANE_STATUS.RX_PHASE k) ≠ r.phase)
  let wantSealed := r.chan ≠ 0 ∧ (if newPhase then x.rxNew.isSome else x.rx.isSome)
  ok (if s.laneState k ≠ lnExchange ∧ !s.laneUp k then (s.endCut k false).inc (Cnt.SHL_MSG_LOST k)
    else if !r.crcOk ∨ r.errored then
      let s1 := (s.endCut k false).inc (Cnt.SHL_CRC_ERR k)
      s1.raiseLimited .LINK_CRC (srcLane k) (laneAddr k ((s1.ctr (Cnt.SHL_CRC_ERR k)).count % 2 ^ 32)) k 1000000
    else if r.abort ∨ !r.countOk ∨ r.cut then (s.endCut k false).inc (Cnt.SHL_MSG_LOST k)
    else if 3 < r.chan.toNat ∨ (r.sealed_ : Prop) ≠ wantSealed ∨ (r.chan ≠ 0 ∧ !s.laneUp k) then (s.endCut k false).inc (Cnt.SHL_CHAN_DROP k)
    else if r.sealed_ then s.setLane k { x with hold := x.hold ++ [(r.chan.toNat, newPhase)] }
    else s.inc (Cnt.SHL_MSGS_RX k))

/-- LINK_ID of messages the partner sends (R405). -/
def State.peerLinkId (s : State) (n : Nat) : Nat :=
  match (s.lane n).peer with
  | some c => s.linkId n c + (if s.lowerEnd c then 1 else 0)
  | none => 0

/-- TAG_CHECK_DONE (R325, R327, R328): the verdict on the sealed message received first; `late` says it was not ready when the
check sequence of a frame begun under sealed cut-through was due. That frame ends here, with an inverted check sequence unless
the verdict is good and in time. A verdict that is late and then bad counts in both counters (DESIGN CHOICE, log entry 156). -/
def execTagCheckDone (n : Fin 16) (good late : Bool) (s : State) : Host.Outcome State Fault Refusal :=
  let k := n.val
  let x := s.lane k
  let isCt := (s.cutOf k).isSome
  ok (match x.hold with
    | [] => s
    | (_, newPhase) :: t =>
      let s0 := (s.setLane k { x with hold := t }).endCut k (good && !late)
      let s1 := if isCt && late then s0.inc Cnt.KEY_TAG_LATE_CT else s0
      if !good then
        (s1.inc (if isCt then Cnt.KEY_TAG_FAIL_CT else Cnt.KEY_TAG_FAIL)).raise .TAG_FAIL srcKey
          (laneAddr k ((if isCt then 2 ^ 32 else 0) + s.peerLinkId k))
      else
        let s2 := if newPhase ∧ x.rxNew.isSome then
            (s1.setLane k { s1.lane k with rx := x.rxNew, rxNew := none }).wr (Reg.SHL_LANE_STATUS.RX_PHASE k) (1 - s1.rd (Reg.SHL_LANE_STATUS.RX_PHASE k))
          else s1
        s2.inc (Cnt.SHL_MSGS_RX k))

/-- Payload of a channel 0 message (Table 12-8). -/
def State.ctlBytes (s : State) (n : Nat) : LinkCtl → List Byte
  | .cap ack nonce =>
    let m := (s.lane n).mine
    let b := fun (x : Bool) (v : Nat) => if x then v else 0
    [1#8, BitVec.ofNat 8 (b ack 1 + b m.1 2 + b m.2 4), BitVec.ofNat 8 (s.laneRole n), BitVec.ofNat 8 s.addrByte, BitVec.ofNat 8 n, 0#8, 0#8, 0#8]
      ++ beBytes 8 Config.serial ++ beBytes 8 nonce
  | .offer v => 2#8 :: List.replicate 7 0#8 ++ beBytes 8 v
  | .answer v _ => 3#8 :: List.replicate 7 0#8 ++ beBytes 8 v

/-- Payload of a channel 3 message (Table 13-1). -/
def State.fabBytes (s : State) (n : Nat) : FabMsg → List Byte
  | .hello => [1#8, BitVec.ofNat 8 s.fabMode, BitVec.ofNat 8 s.addrByte,
      BitVec.ofNat 8 (s.rd Reg.SHL_FAB_CFG.MASTER + 2 * s.rd Reg.SHL_FAB_CFG.ADDR_FIXED)] ++ beBytes 4 (n * 2 ^ 28) ++ beBytes 8 Config.serial
  | .lsa l => [2#8, BitVec.ofNat 8 l.addr, BitVec.ofNat 8 ((if l.master then 1 else 0) + (if l.fixed then 2 else 0)), BitVec.ofNat 8 l.nbrs.length]
      ++ beBytes 4 l.seq ++ beBytes 8 l.serial
      ++ l.nbrs.flatMap (fun e => beBytes 8 e.1 ++ [BitVec.ofNat 8 e.2.1, BitVec.ofNat 8 e.2.2, 0#8, 0#8])

/-- A twin message (Table 10-2): its header and its payload. -/
def TwinMsg.bytes (m : TwinMsg) (pay : List Byte) : List Byte :=
  [BitVec.ofNat 8 m.type_, 1#8] ++ beBytes 2 pay.length ++ beBytes 4 m.seq ++ [BitVec.ofNat 8 m.port, BitVec.ofNat 8 m.side] ++ List.replicate 6 0#8
    ++ beBytes 8 m.sfc ++ pay

/-- A channel 0 message has left: after an answer the new key serves what is sent (R407). -/
def State.ctlSent (s : State) (n : Nat) (m : LinkCtl) : State :=
  match m with
  | .answer mine theirs =>
    match (s.lane n).peer with
    | some c => s.newSession n (s.session n c mine theirs) false
    | none => s
  | _ => s

/-- What a lane sends next on a channel: the state without it, destination and payload, and the buffer a packet gives back. -/
def State.nextMsg (s : State) (n : Nat) (chan : Nat) : Option (State × Nat × List Byte × Option Nat) :=
  let x := s.lane n
  match chan with
  | 0 => match x.ctl with
    | [] => none
    | m :: t => some ((s.setLane n { x with ctl := t }).ctlSent n m, 0xFF, s.ctlBytes n m, none)
  | 1 => match s.twn.txq.find? (fun m => m.lane == n) with
    | none => none
    | some m =>
      let s1 : State := { s with twn := { s.twn with txq := s.twn.txq.erase m } }
      let f := fun (i : Nat) => Config.freeValue (s.free + i)
      let echo := match s.twn.hb with | some h => h.seq | none => 0
      let pay := if m.type_ = 1 then (s.ownHb m.sfc).bytes (f 0) echo (f 1) else (Config.twinPayload (s.free + 2) m.type_).take 4072
      some ({ s1 with free := s.free + 3 }, 0xFF, m.bytes pay, none)
  | 2 => match s.egressOf (88 + n) with
    | [] => none
    | o :: t => some ({ s with cpg := { s.cpg with egress := Tab.set (fun _ => []) s.cpg.egress (88 + n) t } },
        (o.d.carrier.getD 1 0#8).toNat, o.d.carrier ++ o.bytes, some o.d.handle)
  | _ => match x.fab with
    | [] => none
    | m :: t => some (s.setLane n { x with fab := t }, 0xFF, s.fabBytes n m, none)

/-- A packet's buffer given back. -/
def State.doneWith (s : State) : Option Nat → State
  | some h => s.unref h
  | none => s

/-- A sender's counter after a sealed message (R325): at the rekey limit a new session is offered, at 2^48 KEY_EXHAUSTED. -/
def State.bumpCtr (s : State) (n : Nat) : State :=
  let x := s.lane n
  let s1 := s.setLane n { x with txCtr := x.txCtr + 1 }
  let s2 := if x.txCtr + 1 = 2 ^ 48 then
      s1.raise .KEY_EXHAUSTED srcKey (laneAddr n (2 ^ 35 + (match x.peer with | some c => s.linkId n c + (if s.lowerEnd c then 0 else 1) | none => 0)))
    else s1
  if 2 ^ s.rd Reg.KEY_GCM_CFG.REKEY_LOG2 ≤ x.txCtr + 1 then s2.offer n else s2

/-- A message leaves a lane (R402): its bytes as sent, the first `len` of them payload and the rest tag, in blocks that wait for
the tiles that follow. -/
def State.putMsg (s : State) (k : Nat) (m : LinkMsg) (head : List Byte) (len : Nat) : State :=
  (s.setLane k { s.lane k with
    sent := some m
    out := (s.lane k).out ++ msgBlocks head (m.bytes.take len) (m.bytes.drop len) }).inc (Cnt.SHL_MSGS_TX k)

/-- SHASOL_MESSAGE_TX (R324 to R326, R330, R402, R406, R409): the next message of a channel leaves a lane, its blocks for the
tiles that follow. A sealed lane whose
key has served 2^48 messages sends nothing sealed. -/
def execShasolMessageTx (n : Fin 16) (chan : Fin 4) (s : State) : Host.Outcome State Fault Refusal :=
  let k := n.val
  let x := s.lane k
  let sealed_ := s.bit (Reg.SHL_LANE_STATUS.SEALED k) && decide (chan.val ≠ 0)
  let required := decide (s.sealCfg k = 2) || (match x.peer with | some c => c.sealReq | none => false)
  let allowed := s.laneUp k || (decide (s.laneState k = lnExchange ∧ chan.val = 0) && !x.mismatch)
  if !allowed || (sealed_ && decide (2 ^ 48 ≤ x.txCtr)) then ok s
  else
    match s.nextMsg k chan.val with
    | none => ok s
    | some (s1, dest, pay, h) =>
      let phase := s.bit (Reg.SHL_LANE_STATUS.TX_PHASE k)
      let aad := linkHead chan.val sealed_ phase pay.length dest s.addrByte
      let send := fun (s : State) (b : List Byte) => (s.putMsg k ⟨chan.val, sealed_, phase, dest, s.addrByte, b⟩ aad pay.length).doneWith h
      ok (if sealed_ then
          match x.tx, x.peer with
          | some key, some c =>
            if 65536 < pay.length then ((s1.inc Cnt.KEY_LEN_ERR).raise .CIPHER_LENGTH srcKey (laneAddr k (min pay.length (2 ^ 17 - 1)))).doneWith h
            else
              let id := s.linkId k c + (if s.lowerEnd c then 0 else 1)
              ((send s1 (gcmSeal key.key (id * 2 ^ 64 + x.txCtr) aad pay)).derive (linkRoot k) 3 (beNat key.context)).bumpCtr k
          | _, _ => (s1.inc (Cnt.SHL_SEAL_DROP k)).doneWith h
        else if chan.val ≠ 0 ∧ required then (s1.inc (Cnt.SHL_SEAL_DROP k)).doneWith h
        else send s1 pay)

/-! Erasure and recovery of keys (R329 to R332). -/

/-- Alarm erasure (R329): every key is erased, the one a command was given in KEY_CMD_DATA too, and KEY_ERASED raised; while ERASED is 1 nothing more is. `causes` are the
cause bits of KEY_STATUS (TAMPER, VGLITCH, CGLITCH, TEMP from bit 3 down). -/
def State.eraseKeys (s : State) (causes : Nat) : State :=
  if s.bit Reg.KEY_STATUS.ERASED then s
  else
    let s0 : State := { s with keys := Keys.reset }
    let s1 := (List.range 8).foldl (fun s j => s.putWord (Reg.KEY_CMD_DATA.addr j) 0#32) s0
    let s2 := (List.range 16).foldl (fun s n =>
      (s.setLane n { s.lane n with tx := none, rx := none, rxNew := none }).sealChange n) s1
    (((s2.wr Reg.KEY_STATUS.ERASED 1).wr Reg.KEY_STATUS.OTP_LOADED 0).inc Cnt.KEY_ERASURES).onset .KEY_ERASED srcKey 0 causes

/-- The device root loaded from OTP (R303, R331). -/
def State.loadOtp (s : State) : State :=
  let r : Root := { Root.empty with state := .loaded, dk := Config.otpRoot / 2 ^ 128 % 2 ^ 128, sk := Config.otpRoot % 2 ^ 128 }
  (s.setRoot 16384 r).wr Reg.KEY_STATUS.OTP_LOADED 1

/-- A link root loaded by the Steward into an EMPTY slot (R315, R331); its lane's SEAL_CAP follows (R408). -/
def State.loadLink (s : State) (n v : Nat) : State :=
  if (s.root (linkRoot n)).state ≠ .empty then s
  else (s.setRoot (linkRoot n) { Root.empty with state := .loaded, dk := v / 2 ^ 128 % 2 ^ 128, sk := v % 2 ^ 128 }).sealChange n

/-- The image key IMGK, derived from the device root (Table 9-4). -/
def State.imgKey (s : State) : Nat :=
  let r := s.root 16384
  kdf256 (r.dk * 2 ^ 128 + r.sk) [0x49#8, 0x4D#8, 0x47#8, 0x4B#8] (beBytes 8 Config.serial)

/-- A LINKROOT entry opened (R523): its lane and the root, none where its tag fails. -/
def openLink (key : Nat) (x : List Byte) : Option (Nat × Nat) :=
  let nonce := beNat (sliceZ x 12 12)
  let aad := sliceZ x 0 9
  let root := (gcmSeal key nonce aad (sliceZ x 24 32)).take 32
  if gcmSeal key nonce aad root = sliceZ x 24 48 then some ((sliceZ x 8 1).foldl (fun _ b => b.toNat) 0, beNat root) else none

/-- The link roots the Steward keeps loaded (R331): their entries are opened under the image key IMGK of the device root,
which the cache is asked for when there is any entry (R312, R314); one whose tag fails is skipped and counted (R523). -/
def State.loadLinks (s : State) : State :=
  let s1 := if s.stw.links = [] then s else s.derive 16384 4 Config.serial
  s1.stw.links.foldl (fun s x =>
    match openLink s1.imgKey x with
    | some r => if r.1 < 16 then s.loadLink r.1 r.2 else s
    | none => s.inc Cnt.BOOT_LINKROOT_BAD) s1

/-- REACTIVATE_ALL (R332): broadcast deactivations and ramp on every owned tree. -/
def State.reactivateAll (s : State) : State :=
  (ports.filter (fun p => s.owned p.val)).foldl State.reactivate s

/-- KEY_RESTORE (R331, R332): refused while an alarm's cause is active. -/
def execKeyRestore (ag : Agent) (s : State) : Host.Outcome State Fault Refusal :=
  ok (s.keyGate ag (fun s =>
    if s.bit Reg.KEY_STATUS.TAMPER || s.bit Reg.KEY_STATUS.VGLITCH || s.bit Reg.KEY_STATUS.CGLITCH || s.bit Reg.KEY_STATUS.TEMP then s.keyCode 6
    else
      let s1 := ((s.wr Reg.KEY_STATUS.ERASED 0).loadOtp).endCause .KEY_ERASED srcKey 0
      let s2 := s1.loadLinks
      let s3 := (List.range 16).foldl (fun s n =>
        if s.laneUp n && s.bit (Reg.SHL_LANE_STATUS.SEALED n) && (s.sealBits n).1 then s.offer n else s) s2
      (if s3.bit Reg.KEY_CTRL.REACTIVATE then s3.reactivateAll else s3).keyCode 0))

/-! The fabric configuration (R421). -/

/-- FAB_CFG_WRITE (R421, R422, R426): dropped while a lane of LANES is ACTIVE; else the lanes take their roles and the
device claims its address. -/
def State.fabCfgWrite (s : State) (ag : Agent) (v : Word) : State :=
  let a := Reg.SHL_FAB_CFG.addr
  s.gate ag a (fun s =>
    if (List.range 16).any (fun n => s.fabLane n && (s.rd Reg.SHL_FAB_CFG.LANES).testBit n) then s.deny ag .refused a noWin
    else
      let s1 := s.storeWord ag a v
      if s1.word a = s.word a then s1
      else if s1.shl.latched then (s1.takeRoles.claim).recompute else s1)

/-- FAB_CFG_WRITE (R421). -/
def execFabCfgWrite (ag : Agent) (v : Word) (s : State) : Host.Outcome State Fault Refusal := ok (s.fabCfgWrite ag v)

end Sys2Proof.Machine
end

