-- ==== Sys2Proof/Machine/Uplink.lean ====
section
/-! DEFINITION. Uplink ports and frames (12_serial_lanes.md R394, R395; 01_device_architecture.md R14; R377, R379) and the lane
test blocks (R416 to R418). -/

namespace Sys2Proof.Machine

set_option autoImplicit false

/-- Source of an uplink lane. -/
abbrev srcUlk (n : Nat) : Source := ⟨.ULK, n⟩

/-- Lanes of a port by its WIDTH (Table 12-3). -/
def widthOf (w : Nat) : Nat := match w with | 1 => 2 | 2 => 4 | 3 => 8 | _ => 1

/-- A lane leads an enabled port: its lanes are `n` to `n` + width − 1 (R394). -/
def State.ulkPort (s : State) (n : Nat) : Option Nat :=
  let w := widthOf (s.rd (Reg.ULK_CFG.WIDTH n))
  if s.bit (Reg.ULK_CFG.EN n) ∧ n % w = 0 ∧ n + w ≤ 24 then some w else none

/-- Leader of the port that holds a lane; the lane itself where none does (Table 12-4). -/
def State.ulkLeader (s : State) (n : Nat) : Nat :=
  ((List.range 24).find? (fun l => match s.ulkPort l with | some w => decide (l ≤ n ∧ n < l + w) | none => false)).getD n

/-- What an uplink port sends in safe state (Table 14-9): each enabled one local fault. -/
def State.sendsLocalFault (s : State) (n : Nat) : Bool := s.flt.safe && (s.ulkPort n).isSome

/-- LEADER fields stored. -/
def State.setLeaders (s : State) : State :=
  (List.range 24).foldl (fun s n => s.wr (Reg.ULK_STATUS.LEADER n) (s.ulkLeader n)) s

/-- A lane of a port generates a test pattern (R416). -/
def State.ulkTesting (s : State) (n : Nat) : Bool :=
  (List.range 24).any (fun m => s.ulkLeader m == n && s.bit (Reg.ULK_LT_CTRL.GEN_EN m))

/-- A fall of LINK_UP on a leader (R395, R420): cause 0 signal, 1 negotiation or training, 2 local fault, 3 remote fault. -/
def State.ulkFall (s : State) (n cause : Nat) : State :=
  if s.bit (Reg.ULK_STATUS.LINK_UP n) then
    ((s.wr (Reg.ULK_STATUS.LINK_UP n) 0).inc (Cnt.ULK_LINK_DOWNS n)).onset .ULK_LINK_DOWN (srcUlk n) 0 (cause * 2 ^ 8 + n)
  else s

/-- The port of a leader negotiates and trains afresh (R395). -/
def State.ulkRestart (s : State) (n : Nat) : State :=
  let w := (s.ulkPort n).getD 1
  (List.range w).foldl (fun s i => s.wr (Reg.ULK_STATUS.LT_DONE (n + i)) 0) ((s.ulkFall n 1).wr (Reg.ULK_STATUS.AN_DONE n) 0)

/-- A write would make two enabled ports overlap (R394). -/
def State.ulkOverlap (s : State) (n : Nat) : Bool :=
  match s.ulkPort n with
  | none => false
  | some w => (List.range 24).any (fun m => decide (m ≠ n) &&
      (match s.ulkPort m with | some v => decide (m < n + w ∧ n < m + v) | none => false))

/-- A write of ULKn_CFG (R394, R395): dropped when ports would overlap. An isolated port keeps EN at 0 (R460). -/
def State.ulkWrite (s : State) (ag : Agent) (n : Nat) (v : Word) : State :=
  let a := Reg.ULK_CFG.addr n
  s.gate ag a (fun s =>
    let t := s.storeWord ag a (if s.flt.isolated .uplink n then v &&& 0x7FFFFFFF#32 else v)
    if t.ulkOverlap n then s.deny ag .refused a noWin
    else
      let s1 := t.setLeaders
      let s2 := if s1.ulkPort n = s.ulkPort n then s1
        else (if (s1.ulkPort n).isNone then s1.ulkFall n 0 else s1.ulkRestart n)
      if v.getLsbD 23 ∧ (s2.ulkPort n).isSome then s2.ulkRestart n else s2)

/-- ULK_CFG_WRITE (R394). -/
def execUlkCfgWrite (ag : Agent) (n : Fin 24) (v : Word) (s : State) : Host.Outcome State Fault Refusal := ok (s.ulkWrite ag n.val v)

/-- ULK_RETRAIN (R395): RETRAIN written. -/
def execUlkRetrain (ag : Agent) (n : Fin 24) (v : Word) (s : State) : Host.Outcome State Fault Refusal :=
  ok (s.ulkWrite ag n.val (v ||| 0x00800000#32))

/-- ULK_LINK_CHANGE (R395, R416): a port's link comes up, or falls with its cause; the lane's status bits follow. -/
def execUlkLinkChange (n : Fin 24) (up : Bool) (cause : Fin 4) (anDone ltDone local_ remote : Bool) (s : State) : Host.Outcome State Fault Refusal :=
  let b := fun (x : Bool) => if x then 1 else 0
  let k := n.val
  let s1 := (((s.wr (Reg.ULK_STATUS.AN_DONE k) (b anDone)).wr (Reg.ULK_STATUS.LT_DONE k) (b ltDone)).wr
    (Reg.ULK_STATUS.LOCAL_FAULT k) (b local_)).wr (Reg.ULK_STATUS.REMOTE_FAULT k) (b remote)
  ok (if up then
      if (s1.ulkPort k).isSome ∧ !s1.ulkTesting k ∧ !s1.flt.isolated .uplink k then (s1.wr (Reg.ULK_STATUS.LINK_UP k) 1).endCause .ULK_LINK_DOWN (srcUlk k) 0 else s1
    else s1.ulkFall k cause.val)

/-- The codewords a port's leader has decoded since the last frame, those corrected and those not (Table 12-4). -/
def State.ulkFec (s : State) (n : Nat) (f : Nat × Nat × Nat) : State :=
  ((s.count (Cnt.ULK_FEC_CW n) f.1).count (Cnt.ULK_FEC_CORR n) f.2.1).count (Cnt.ULK_FEC_UNCORR n) f.2.2

/-- UPLINK_FRAME_RX (R144 to R155, R15, R377, R394): a frame received whole on a port that carries frames, and the FEC counts
of the codewords up to its end, which belong to decoding by the standard. -/
def execUplinkFrameRx (n : Fin 24) (bytes : List Byte) (full : Bool) (fec : Nat × Nat × Nat) (s : State) : Host.Outcome State Fault Refusal :=
  let s1 := s.ulkFec n.val fec
  ok (if !s.bit (Reg.ULK_STATUS.LINK_UP n.val) || s.flt.safe then s1
    else (s1.ptpStamp false n.val bytes false).intake n.val (srcUlk n.val) bytes full (s.parse n.val bytes none))

/-- A one-step Sync leaves with its send time (R379): originTimestamp without the part below 1 ns, which correctionField
takes up, in 2^−16 ns. -/
def oneStepBytes (t : Int) (fr : List Byte) : List Byte :=
  let sec := t / (1000000000 * fracUnit)
  let ns := t % (1000000000 * fracUnit) / fracUnit
  let cor := (beNat (sliceZ fr 22 8) + (t % fracUnit / 2 ^ 32).toNat) % 2 ^ 64
  fr.take 22 ++ beBytes 8 cor ++ (sliceZ fr 30 18) ++ beBytes 6 (sec % 2 ^ 48).toNat ++ beBytes 4 ns.toNat ++ fr.drop 58

/-- Received bytes that let the MAC begin a frame of `len` bytes under sealed cut-through (R328): len × (1 − R_link / 106.25) +
512, at most `len`, with R_link the 32 Gbit/s of the one lane the message takes (DEDUCED, log entry 156). -/
def cutStart (len received : Nat) : Bool := decide (min len (ceilDiv (len * 297) 425 + 512) ≤ received)

/-- The MAC may begin a frame that arrives sealed over a lane before its tag is checked (R328): the lane is one of CT_LANES, no
other frame of it is under way, and enough of it has been received. -/
def State.mayCut (s : State) (k len received : Nat) : Bool :=
  (s.word Reg.KEY_CTRL.addr).getLsbD k && (s.cutOf k).isNone && cutStart len received

/-- UPLINK_FRAME_TX (R14, R328, R377, R379): the next frame of an egress node leaves with its check sequence. `underrun` gives
the bytes sent when the boundary FIFO ran empty in it, which happens only after the 512 the MAC starts with; the ADDRESS of
that fault is 0 (DESIGN CHOICE, log entry 157). `ct` says that it arrives sealed over a lane, its tag not yet checked, with the
bytes received so far: its check sequence then waits for the verdict. `oneStep` says that its send descriptor asks for a
one-step timestamp. -/
def execUplinkFrameTx (n : Fin 24) (underrun : Option (BitVec 14)) (ct : Option (Fin 16 × BitVec 14)) (oneStep : Bool) (s : State) : Host.Outcome State Fault Refusal :=
  let key := 64 + n.val
  ok (match s.egressOf key with
    | [] => s
    | o :: t =>
      let cut := match underrun with | some b => if 512 ≤ b.toNat ∧ b.toNat < o.bytes.length then some b.toNat else none | none => none
      let wait := match ct with | some c => !s.mayCut c.1.val o.bytes.length c.2.toNat | none => false
      if !s.bit (Reg.ULK_STATUS.LINK_UP n.val) || s.flt.safe || wait then s
      else
        let s1 : State := { s with cpg := { s.cpg with egress := Tab.set (fun _ => []) s.cpg.egress key t } }
        match cut with
        | some b =>
          ((({ s1 with fwd := { s1.fwd with underruns := Tab.mod (fun _ => 0) s1.fwd.underruns n.val (fun c => (c + 1) % 2 ^ 48) } } : State).ulkOut
            n.val (o.bytes.take b) false).raise .BOUNDARY_UNDERRUN (srcUlk n.val) 0).unref o.d.handle
        | none =>
          let step1 := oneStep && ptpEvent o.bytes && frByte o.bytes 14 % 16 == 0
          let fr := if step1 then (match s.ptpDom o.bytes with | some d => oneStepBytes (s.ptpTime true n.val d) o.bytes | none => o.bytes) else o.bytes
          let s2 := s1.ptpStamp true n.val o.bytes step1
          (match ct with
            | some c => s2.setCut c.1.val (some (n.val, fr))
            | none => s2.ulkOut n.val fr true).unref o.d.handle)

/-! Lane test (R416 to R418). -/

/-- LT_CTRL, LT_STATUS and the three counters of a block (Tables 12-12 to 12-14). -/
def laneBase : LaneBlock → Nat
  | .pon p k => Reg.PT_LT_CTRL.addr p.val k.val
  | .ulk n => Reg.ULK_LT_CTRL.addr n.val
  | .shl n => Reg.SHL_LT_CTRL.addr n.val
  | .pcie n => Reg.HST_LT_CTRL.addr n.val

/-- A field of a block's LT_CTRL or LT_STATUS. -/
abbrev laneFld (b : LaneBlock) (off lo w : Nat) : Fld := ⟨laneBase b + off, lo, w⟩

/-- Checker of a block. -/
def State.chk (s : State) (b : LaneBlock) : Chk := Tab.get (fun _ => Chk.zero) s.shl.chk (laneBase b)

/-- A checker stored. -/
def State.setChk (s : State) (b : LaneBlock) (x : Chk) : State :=
  { s with shl := { s.shl with chk := Tab.set (fun _ => Chk.zero) s.shl.chk (laneBase b) x } }

/-- GEN_EN changes on a lane (R416, Table 12-10). -/
def State.genChange (s : State) (b : LaneBlock) (on : Bool) : State :=
  match b with
  | .ulk n => if on then s.ulkFall (s.ulkLeader n.val) 0 else s
  | .shl n =>
    if on then (if s.laneState n.val = lnOff then s else s.moveLane n.val none lnTest)
    else if s.laneState n.val = lnTest then
      (if s.shl.latched ∧ (s.roleFor n.val).isNone then s.goLane n.val lnOff else s.toDetect n.val none)
    else s
  | _ => s

/-- Order and second tap of PATTERN (Table 12-13): the first tap is the order. -/
def prbsTaps (p : Nat) : Nat × Nat :=
  match p with | 0 => (7, 6) | 1 => (9, 5) | 2 => (15, 14) | 3 => (23, 18) | _ => (31, 28)

/-- The bit a pattern has after those of a register, the latest in bit 0. -/
def prbsNext (t : Nat × Nat) (r : BitVec 31) : Bool := xor (r.getLsbD (t.1 - 1)) (r.getLsbD (t.2 - 1))

/-- A register with a further bit. -/
def prbsShift (r : BitVec 31) (b : Bool) : BitVec 31 := r.shiftLeft 1 ||| (if b then 1#31 else 0#31)

/-- `n` bits of a generator from a register (R416), inverted or not. -/
def prbsBits (t : Nat × Nat) (inv : Bool) : Nat → BitVec 31 → List Bool
  | 0, _ => []
  | n + 1, r => xor inv (prbsNext t r) :: prbsBits t inv n (prbsShift r (prbsNext t r))

/-- Gray-coded PAM4 symbols of a pattern's bits, taken in pairs with the first bit the most significant (R416). -/
def pam4 : List Bool → List Nat
  | a :: b :: t => (match a, b with | false, false => 0 | false, true => 1 | true, true => 2 | true, false => 3) :: pam4 t
  | _ => []

/-- A lane sends its generator's pattern in place of its traffic (R416): a receive lane has no generator, a PCIe lane sends it
only while the host port is disabled. -/
def State.generating (s : State) (b : LaneBlock) : Bool :=
  s.bit (laneFld b 0 31 1) &&
  (match b with
   | .pon _ k => decide (k.val < 2)
   | .pcie _ => s.bit Reg.HST_PORT_CFG.DISABLE
   | _ => true)

/-- What a lane sends next while it generates, from the generator's register: the spec gives that no value to start from. -/
def State.genBits (s : State) (b : LaneBlock) (n : Nat) (r : BitVec 31) : List Bool :=
  if s.generating b then prbsBits (prbsTaps (s.rd (laneFld b 0 27 3))) (s.bit (laneFld b 0 26 1)) n r else []

/-- The downstream frame on a PON transmit lane: none while the lane sends a pattern in its place. -/
def State.onLine (s : State) (p : Fin 32) (sd : Nat) : Option DsFrame :=
  if s.bit (Reg.PT_LT_CTRL.GEN_EN p.val sd) then none else (s.side p sd).sent

/-- A write of LT_CTRL (Table 12-13): INJ_RATE held in 4 to 40; INJ_GO injects at once unless an injection runs. -/
def State.ltWrite (s : State) (ag : Agent) (b : LaneBlock) (v : Word) : State :=
  s.gate ag (laneBase b) (fun s =>
    let rate := max 4 (min 40 ((v.extractLsb' 16 6).toNat))
    let s1 := ((s.settleInj (laneBase b)).storeWord ag (laneBase b) (putField v 16 6 rate)).rateFrom (laneBase b)
    let was := s.bit (laneFld b 0 31 1)
    let on := s1.bit (laneFld b 0 31 1)
    let s2 := if was = on then s1 else s1.genChange b on
    let s3 := if s2.bit (laneFld b 0 30 1) then s2 else (s2.wr (laneFld b 4 31 1) 0).setChk b Chk.zero
    if v.getLsbD 23 ∧ !s3.bit (laneFld b 4 29 1) then
      match s3.rd (laneFld b 0 24 2) with
      | 1 => s3.inc (laneBase b + 0x18)
      | 2 => s3.count (laneBase b + 0x18) (max 1 (s3.rd (laneFld b 0 8 8)))
      | _ => s3
    else s3)

/-- GEN_EN_WRITE (R416). -/
def execGenEnWrite (ag : Agent) (b : LaneBlock) (v : Word) (s : State) : Host.Outcome State Fault Refusal := ok (s.ltWrite ag b v)

/-- INJ_GO (R418). -/
def execInjGo (ag : Agent) (b : LaneBlock) (v : Word) (s : State) : Host.Outcome State Fault Refusal := ok (s.ltWrite ag b (v ||| 0x00800000#32))

/-- A block's checker may compare (R417): CHK_EN, on a PON receive lane only in alignment mode 1 to 3. -/
def State.chkOn (s : State) (b : LaneBlock) : Bool :=
  s.bit (laneFld b 0 30 1) &&
  (match b with
   | .pon p k => if k.val = 2 then s.rd (Reg.PT_ALN_CFG.MODE50 p.val) != 0 else if k.val = 3 then s.rd (Reg.PT_ALN_CFG.MODE10 p.val) != 0 else false
   | _ => true)

/-- A bit at a checker (R417): the register it has after it, whether the checker is locked, whether the bit was compared and
whether it was in error. Loading, and until 64 bits in a row come as predicted, the register takes the received bits; locked
it goes on by its own, and with more than 32 of 128 bits in error it loads itself again. -/
def Chk.bit (t : Nat × Nat) (x : Chk) (locked b : Bool) : Chk × Bool × Bool × Bool :=
  let p := prbsNext t x.reg
  if locked then
    let w := ((p != b) :: x.win).take 128
    if 32 < w.count true then (Chk.zero, false, true, p != b) else ({ x with reg := prbsShift x.reg p, win := w }, true, true, p != b)
  else if x.held < t.1 then ({ x with reg := prbsShift x.reg b, held := x.held + 1 }, false, false, false)
  else
    let run := if p = b then x.run + 1 else 0
    if 64 ≤ run then (⟨prbsShift x.reg b, x.held, 0, []⟩, true, false, false)
    else ({ x with reg := prbsShift x.reg b, run := run }, false, false, false)

/-- Bits handed to a checker: its register, whether it is locked, bits compared, those in error, and losses of lock. -/
def Chk.bits (t : Nat × Nat) : List Bool → Chk → Bool → Chk × Bool × Nat × Nat × Nat
  | [], x, locked => (x, locked, 0, 0, 0)
  | b :: l, x, locked =>
    let r := x.bit t locked b
    let q := Chk.bits t l r.1 r.2.1
    (q.1, q.2.1, q.2.2.1 + (if r.2.2.1 then 1 else 0), q.2.2.2.1 + (if r.2.2.2 then 1 else 0), q.2.2.2.2 + (if locked && !r.2.1 then 1 else 0))

/-- Bits received at a block whose checker compares (R417). -/
def State.chkRun (s : State) (b : LaneBlock) (l : List Bool) : State :=
  if s.chkOn b then
    let r := Chk.bits (prbsTaps (s.rd (laneFld b 0 27 3))) (l.map (fun x => xor (s.bit (laneFld b 0 26 1)) x)) (s.chk b) (s.bit (laneFld b 4 31 1))
    let s1 := ((s.setChk b r.1).wr (laneFld b 4 31 1) (if r.2.1 then 1 else 0)).count (laneBase b + 8) r.2.2.1
    let s2 := s1.count (laneBase b + 0x10) r.2.2.2.1
    if r.2.2.2.2 = 0 then s2 else s2.wr (laneFld b 4 30 1) 1
  else s

/-- CHECKER_LOCK (R417): line bits reach a checker, injection of a receive lane included; it loads itself, locks and counts. -/
def execCheckerLock (b : LaneBlock) (bits : List Bool) (s : State) : Host.Outcome State Fault Refusal := ok (s.chkRun b bits)

/-- CHECKER_LOCK_LOST (R417): line bits reach a checker; those with more than 32 of 128 in error lose its lock. -/
def execCheckerLockLost (b : LaneBlock) (bits : List Bool) (s : State) : Host.Outcome State Fault Refusal := ok (s.chkRun b bits)

end Sys2Proof.Machine
end

