-- ==== Sys2Proof/Machine/Bellman.lean ====
section
/-! DEFINITION. Bellman: what it does with a message, isolation, safe state and the restart out of it, status and capture
commands, and the analog monitor (14_faults_and_safe_state.md R445 to R469, R587, R594). -/

namespace Sys2Proof.Machine

set_option autoImplicit false

/-! Causes (R461). -/

/-- A cause of a kind marked "cond" persists at some source (R461). Kinds whose cause is a standing condition of the state
are judged from it: NO_GUILD (R158), a root slot held or a lane's key spent (R319, R325), a DELTA beyond 50 µs (R347), the
stash above its mark (R239), an epoch reported stuck and still draining (R250), a top node dropping for the Cellar (R281). -/
def State.causeActive (s : State) (code : Nat) : Bool :=
  s.flt.causes.any (fun c => c.kind.code == code && c.kind.cond)
  || (code == Kind.CLASS_NO_GUILD.code && s.rd Reg.SRT_STATUS.NO_GUILD != 0)
  || (code == Kind.KEY_EXHAUSTED.code && (s.keys.roots.any (fun x => x.2.held) || s.shl.lanes.any (fun x => x.2.tx.isSome && decide (2 ^ 48 ≤ x.2.txCtr))))
  || (code == Kind.DELTA_RANGE.code && ports.any (fun p => s.shadow p && s.deltaValid p
        && decide (50000000 < (s.rdInt (Reg.TWN_PORT_W0.DELTA p.val)).natAbs)))
  || (code == Kind.EXM_STASH_HIGH.code && decide (s.rd Reg.EXM_CFG.STASH_HIGH < s.stashUsed))
  || (code == Kind.EPOCH_STUCK.code && s.ldg.stuck.any (fun e => s.draining e))
  || (code == Kind.CELLAR_BUSY.code && s.cpg.tops.any (fun x => x.2.dropping))

/-- Status word of a kind. -/
def State.kindSt (s : State) (code : Nat) : KindSt := Tab.get (fun _ => KindSt.clear) s.flt.kinds code

/-- Update of a kind's status word. -/
def State.setKindSt (s : State) (code : Nat) (x : KindSt) : State :=
  { s with flt := { s.flt with kinds := Tab.set (fun _ => KindSt.clear) s.flt.kinds code x } }

/-- What FLT_KIND[k] word 0 configures for a code. -/
def State.kindConf (s : State) (code : Nat) : KindCfg := KindCfg.ofWord (s.word (Reg.FLT_KIND_W0.addr code))

/-! Isolation (R458 to R460). -/

/-- The unit of Table 14-8 a message names. -/
def State.unitOf (s : State) (m : Msg) : Option (IsoUnit × Nat) :=
  match m.src.blk with
  | .GLD => if 0x40 ≤ m.kind.code ∧ m.kind.code ≤ 0x42 then some (.engine, m.src.inst * 16 + m.addr % 16) else some (.guild, m.src.inst)
  | .PT => some (.port, m.src.inst)
  | .LDG => some (.bank, m.addr / 1024 % 64)
  | .MEM => some (.memory, 0)
  | .SHL => if m.src.inst < 16 then some (.lane, m.src.inst) else none
  | .ULK => some (.uplink, s.ulkLeader m.src.inst)
  | _ => none

/-- A kind that only sources with no unit raise keeps ISO bits at 0 (R458): bit 28 and bit 25 of its word 0. The kinds that a
source with a unit raises are the generic ones of a block and those of ports, guilds, Ledger, memory, lanes and uplinks. -/
def hasUnit (code : Nat) : Bool :=
  [0x01, 0x03, 0x04, 0x05, 0x06, 0x10, 0x11, 0x12, 0x13].contains code || decide (0x20 ≤ code ∧ code ≤ 0x2F) || decide (0x40 ≤ code ∧ code ≤ 0x52)
    || [0x56, 0x98, 0x99, 0xA1].contains code || decide (0x88 ≤ code ∧ code ≤ 0x8E)

/-- A port given up to the partner as it is isolated (R459). -/
def State.handOver (s : State) (p : Fin 32) : State :=
  if s.bit Reg.TWN_CFG.EN && s.owned p.val && s.hbBit Hb.ready p then (s.twinSend 8 p.val 0xFF 0 0).release 5 [p] false else s

/-- What isolation does to a unit (Table 14-8). The unit is already in the list of isolated ones. -/
def State.stopUnit (s : State) (u : IsoUnit) (n : Nat) (ks : List Kind) : State :=
  match u with
  | .engine => (s.emptyEngine (n / 16) (n % 16)).retireLoose (n / 16) ks
  | .guild => s.retireGuild n
  | .port =>
    let p : Fin 32 := Fin.ofNat 32 n
    let s1 := (s.wr (Reg.PT_DS_CFG.EN50 n) 0).wr (Reg.PT_DS_CFG.EN10 n) 0
    let stop := fun (s : State) (sd : Nat) => s.setSide p sd { s.side p sd with sending := false, rxq := [], cur := none, found := none }
    (((stop (stop s1 0) 1).flushGroups p 0).flushGroups p 1).handOver p
  | .bank => s
  | .memory => s.loseCellar
  | .lane => (s.wr (Reg.SHL_LANE_CFG.EN n) 0).moveLane n none lnOff
  | .uplink => ((s.wr (Reg.ULK_CFG.EN n) 0).ulkFall n 0).setLeaders

/-- ISOLATE_UNIT (R458, R460): a unit already isolated, or an engine of an isolated guild, counts ISO_REPEAT. -/
def State.isolate (s : State) (u : IsoUnit) (n : Nat) (ks : List Kind) (q : Nat) : State :=
  if s.flt.isolated u n || (u == .engine && s.flt.isolated .guild (n / 16)) then s.incQ Cnt.FLT_ISO_REPEAT q
  else
    let s1 : State := { s with flt := { s.flt with iso := s.flt.iso ++ [(⟨u, n, ks, false⟩ : Iso)] } }
    (s1.stopUnit u n ks).incQ Cnt.FLT_ISO_ACTIONS q

/-! Safe state (R465 to R467). -/

/-- SAFE_STATE_ENTRY (R466, R467, Table 14-9). -/
def State.enterSafe (s : State) : State :=
  if s.flt.safe then s
  else
    let s1 : State := { s with flt := { s.flt with safe := true, fatalLine := true, mxpInv := false } }
    let s2 := (s1.inc Cnt.FLT_SAFE_ENTRIES).twinSend 8 0xFF 0xFF 0 1
    let stop := fun (s : State) (p : Fin 32) (sd : Nat) => s.setSide p sd { s.side p sd with sending := false, rxq := [], cur := none, found := none }
    let s3 := ports.foldl (fun s p => stop (stop s p 0) p 1) s2
    { s3 with hst := { s3.hst with aer := s3.hst.aer + 1 } }

/-! Messages (R458, R461 to R464). -/

/-- Entries FLT_QUEUE holds. -/
abbrev fltDepth : Nat := 64

/-- The queue with a message appended (R464); a source's first SEVERE message of a kind is remembered as such (R457). -/
def Flt.enqueue (f : Flt) (m : Msg) : Flt :=
  let k := filterKey m.kind m.src
  let x := Tab.get (fun _ => FilterSt.idle) f.filters k
  let f1 : Flt := if m.severe then { f with filters := Tab.set (fun _ => FilterSt.idle) f.filters k { x with queued := true } } else f
  if fltDepth ≤ f1.queue.length then { f1 with overflow := min 65535 (f1.overflow + 1) } else { f1 with queue := f1.queue ++ [m] }

/-- The first message of a class since CAPTURE_CLR kept (R463). -/
def Flt.capture (f : Flt) (m : Msg) : Flt :=
  match m.cls with
  | 0 => { f with first0 := some (f.first0.getD m) }
  | 1 => { f with first1 := some (f.first1.getD m) }
  | _ => { f with first2 := some (f.first2.getD m) }

/-- Status of a kind at a message (R461, R462). -/
def KindSt.event (x : KindSt) (m : Msg) : KindSt :=
  ⟨true, x.severe || m.severe, min 65535 (x.count + 1), x.fatal || m.cls == 2⟩

/-- A source's first SEVERE message of a kind has been handled since the clear of its STATUS (R457). -/
def Flt.wasSevere (f : Flt) (k : Kind) (src : Source) : Bool := (Tab.get (fun _ => FilterSt.idle) f.filters (filterKey k src)).queued

/-- Bellman's handling of one message (R457, R458, R461 to R465): class and reaction as FLT_KIND[k] says, recorded, captured,
queued, then isolation or safe state. In safe state nothing is isolated. A later SEVERE message of a source and kind
updates only STATUS and COUNT. -/
def State.bellman (s : State) (m0 : Msg) : State :=
  let c := s.kindConf m0.kind.code
  let m : Msg := { m0 with cls := c.classOf m0.severe }
  let q := m.kind.code + m.cls * 512
  let s1 := s.incQ Cnt.FLT_MESSAGES q
  let s2 := if m.kind = .FLT_MSG_LOST then s1.countQ Cnt.FLT_MSGS_LOST (m.addr % 65536) q else s1
  let s3 := s2.setKindSt m.kind.code ((s2.kindSt m.kind.code).event m)
  if m.severe && s3.flt.wasSevere m.kind m.src then s3.level else
  let s4 : State := { s3 with flt := (s3.flt.capture m).enqueue m }
  let fatal := if m.severe then c.sevFatal else c.fatal
  let iso := if m.severe then c.sevIso else c.iso
  let s5 := if fatal then s4.enterSafe
    else if iso && !s4.flt.safe then (match s4.unitOf m with | some u => s4.isolate u.1 u.2 [m.kind] q | none => s4)
    else s4
  s5.level

/-- Messages waiting in an outbox. -/
def State.box (s : State) (b : Nat) : List Msg := Tab.get (fun _ => []) s.flt.boxes b

/-- FAULT_MESSAGE_RX (R445, R447, R458): the oldest message of an outbox reaches both of Bellman's copies. `differ` says that
their decisions on it disagree, in which decision field, and whether the second copy's output is fatal: the disagreement
is FLT_INTERNAL, the decision carried out is the one FLT_KIND[k] gives, and either copy's fatal output drives safe
state. -/
def execFaultMessageRx (box : Nat) (differ : Option (BitVec 8 × Bool)) (s : State) : Host.Outcome State Fault Refusal :=
  match s.box box with
  | [] => ok s
  | m :: t =>
    let s1 := ({ s with flt := { s.flt with boxes := Tab.set (fun _ => []) s.flt.boxes box t } } : State).bellman m
    match differ with
    | none => ok s1
    | some d =>
      let s2 := s1.raise .FLT_INTERNAL ⟨.FLT, 0⟩ d.1.toNat
      ok (if d.2 then s2.enterSafe else s2)

/-- Blocks with outboxes. -/
def allBlks : List Blk :=
  [.GLB, .FLT, .TLY, .HRL, .BOOT, .TWN, .SHL, .HST, .KEY, .CPG, .SCH, .SRT, .XPR, .LDG, .EXM, .WDN, .PT, .WHF, .FSI, .ULK, .MEM, .GLD, .STW, .ANA, .LSIO]

/-- Source an outbox reports for itself; of the SHL block it is the fabric logic. DESIGN CHOICE (log entry 4). -/
def boxSource (b : Nat) : Option Source :=
  (allBlks.find? (fun x => x.code == b / 64)).map (fun x => ⟨x, if x = .SHL then 63 else b % 64⟩)

/-- FLT_MSG_LOST (R445): with an entry free, the block sends the count and highest class of the messages it lost. -/
def execFltMsgLost (box : Nat) (s : State) : Host.Outcome State Fault Refusal :=
  let l := Tab.get (fun _ => (0, 0)) s.flt.lost box
  match boxSource box with
  | none => ok s
  | some src =>
    ok (if l.1 = 0 ∨ outboxSize ≤ (s.box box).length then s
      else ({ s with flt := { s.flt with lost := Tab.set (fun _ => (0, 0)) s.flt.lost box (0, 0) } } : State).raise .FLT_MSG_LOST src (l.2 * 65536 + min 65535 l.1))

/-- SAFE_STATE_ENTRY (R446, R467): a driven fatal line takes the device to safe state. -/
def execSafeStateEntry (s : State) : Host.Outcome State Fault Refusal := ok (if s.flt.fatalLine then s.enterSafe else s)

/-- FILTER_WINDOW_END (R456): a window that ends before N events closes; the stray events kept with it go too. -/
def execFilterWindowEnd (k : Kind) (src : Source) (s : State) : Host.Outcome State Fault Refusal :=
  let key := filterKey k src
  let x := Tab.get (fun _ => FilterSt.idle) s.flt.filters key
  let s1 : State := { s with flt := { s.flt with filters := Tab.set (fun _ => FilterSt.idle) s.flt.filters key { x with open_ := none, events := 0 } } }
  ok (if k = .STRAY_LIGHT ∧ src.blk = .PT then
      let p : Fin 32 := Fin.ofNat 32 src.inst
      s1.setTreeSt p { s1.tree p with strays := [] }
    else s1)

/-- HANDSHAKE_STALL (R448). -/
def execHandshakeStall (src : Source) (stage : BitVec 16) (s : State) : Host.Outcome State Fault Refusal :=
  ok (s.raise .HANDSHAKE_STALL src stage.toNat)

/-! Commands of Bellman's registers. -/

/-- FAULT_QUEUE_READ (R464): the oldest entry is taken, its word 0 returned and the others latched (R10); an empty queue
reads with VALID 0. A virtual function does not reach it (R541). -/
def State.queueRead (s : State) (ag : Agent) : State :=
  let lat := fun (s : State) (w : Nat → Word) =>
    [Reg.FLT_QUEUE_W1.addr, Reg.FLT_QUEUE_W2.addr, Reg.FLT_QUEUE_W3.addr].zipIdx.foldl (fun (s : State) (x : Nat × Nat) =>
      s.setLatch x.1 (w (x.2 + 1))) s
  match s.flt.queue with
  | [] => (lat s (fun _ => 0#32)).answer ag 0#32
  | m :: t => (lat { s with flt := { s.flt with queue := t } } m.word).answer ag (m.word 0)

/-- FAULT_QUEUE_READ (R464). -/
def execFaultQueueRead (ag : Agent) (s : State) : Host.Outcome State Fault Refusal :=
  match ag with
  | .vf _ => ok ((s.denyAs true ag .scope Reg.FLT_QUEUE_W0.addr noWin).answer ag 0#32)
  | _ => ok (s.queueRead ag)

/-- A write of FLT_KIND[k] word 0 (R456, R458): stored, and every filter of the kind restarted. -/
def State.kindWrite (s : State) (ag : Agent) (code : Nat) (v : Word) : State :=
  let a := Reg.FLT_KIND_W0.addr code
  s.gate ag a (fun s =>
    let s1 := s.storeWord ag a (if hasUnit code then v else v &&& 0xEDFFFFFF#32)
    ({ s1 with flt := s1.flt.restartFilters code false } : State).level)

/-- KIND_CFG_WRITE (R456). -/
def execKindCfgWrite (ag : Agent) (k : Fin 256) (v : Word) (s : State) : Host.Outcome State Fault Refusal := ok (s.kindWrite ag k.val v)

/-- A kind's status cleared (R457, R461): STATUS, COUNT and SEVERE, and its filters; a cleared STRAY_LIGHT lets a hunt start
again. -/
def State.clearKind (s : State) (code : Nat) : State :=
  let s1 := s.setKindSt code KindSt.clear
  let s2 : State := { s1 with flt := s1.flt.restartFilters code true }
  if code = Kind.STRAY_LIGHT.code then ports.foldl (fun s p => s.setTreeSt p { s.tree p with huntDone := [], strays := [], severe := none }) s2 else s2

/-- A write of FLT_KIND[k] word 1 (R461): ignored and counted while the cause is active. -/
def State.kindClear (s : State) (ag : Agent) (code : Nat) (v : Word) : State :=
  s.gate ag (Reg.FLT_KIND_W1.addr code) (fun s =>
    if !v.getLsbD 31 then s
    else if s.causeActive code then s.incQ Cnt.FLT_CLEAR_REFUSED (code + (s.kindConf code).cls * 512)
    else (s.clearKind code).level)

/-- KIND_STATUS_CLEAR (R461). -/
def execKindStatusClear (ag : Agent) (k : Fin 256) (v : Word) (s : State) : Host.Outcome State Fault Refusal := ok (s.kindClear ag k.val v)

/-- Units by code of FLT_ISO_CMD.UNIT, with how many there are (Table 14-16). -/
def isoUnits : List (IsoUnit × Nat) :=
  [(.engine, 1024), (.guild, 64), (.port, 32), (.bank, 64), (.memory, 1), (.lane, 16), (.uplink, 24)]

/-- CODE of a RESTORE (R460, R594). -/
def State.restoreCode (s : State) (u : IsoUnit) (n : Nat) : Nat :=
  match s.flt.iso.find? (fun i => i.unit == u && i.num == n) with
  | none => 1
  | some i => if i.kinds.any (fun k => (s.kindSt k.code).status) then 2 else 0

/-- A RESTORE accepted (R460): the unit is no longer isolated; a Ledger bank stays so until Warden has tested every row of
it. -/
def State.restoreUnit (s : State) (u : IsoUnit) (n : Nat) : State :=
  if u = .bank then
    { s with flt := { s.flt with iso := s.flt.iso.map (fun i => if i.unit = u ∧ i.num = n then { i with testing := true } else i) }
             wdn := { s.wdn with banks := Tab.set (fun _ => 0) s.wdn.banks n 0 } }
  else { s with flt := { s.flt with iso := s.flt.iso.filter (fun i => !(i.unit == u && i.num == n)) } }

/-- A write of FLT_ISO_CMD (R460, R594); it completes at once. -/
def State.isoCmd (s : State) (ag : Agent) (v : Word) : State :=
  s.gate ag Reg.FLT_ISO_CMD.addr (fun s =>
    if fldOf v Reg.FLT_ISO_CMD.OP ≠ 1 then s
    else
      let n := fldOf v Reg.FLT_ISO_CMD.NUMBER
      let done := fun (s : State) (c : Nat) => (s.wr Reg.FLT_ISO_STATUS.CODE c).msi 0 3
      match isoUnits[fldOf v Reg.FLT_ISO_CMD.UNIT]? with
      | none => done s 3
      | some u =>
        if u.2 ≤ n then done s 3
        else
          let c := s.restoreCode u.1 n
          done (if c = 0 then s.restoreUnit u.1 n else s) c)

/-- ISO_RESTORE (R460, R594). -/
def execIsoRestore (ag : Agent) (v : Word) (s : State) : Host.Outcome State Fault Refusal := ok (s.isoCmd ag v)

/-! Restart (R468, R469, R503, R505, R587). -/

/-- A word a warm reset keeps (R503): TWN_LAST and BOOT_LAST, the OTP SVN floor, the PCIe link and the MSI-X configuration of its functions. -/
def warmKept (a : Nat) : Bool :=
  [Reg.TWN_LAST_W0.addr, Reg.TWN_LAST_W1.addr, Reg.TWN_LAST_W2.addr, Reg.TWN_LAST_W3.addr, Reg.BOOT_LAST.addr, Reg.HST_LINK.addr].contains a
    || decide (2 ^ 39 ≤ a ∧ a < 2 ^ 40)

/-- Bellman's record as a warm reset keeps it (R587): status words, queue, captures, RESTARTS, EXIT_REFUSED, isolations; each
cause is judged afresh, those of the analog monitor persisting, and every filter starts with no window open; a severe
source stays severe until the kind's STATUS is cleared (R457). -/
def Flt.warm (f : Flt) : Flt :=
  { Flt.reset with queue := f.queue, overflow := f.overflow, first0 := f.first0, first1 := f.first1, first2 := f.first2
                   kinds := f.kinds, iso := f.iso.map (fun i => { i with testing := false }), exitRefused := f.exitRefused
                   restarts := f.restarts, filters := f.filters.filterMap (fun x => if x.2.severe then some (x.1, { x.2 with open_ := none, events := 0 }) else none), causes := f.causes.filter (fun c => c.src.blk = .ANA) }

/-- WARM_RESET (R503, R505): what Table 16-1 names is kept, and the device waits for its release into stage S0. The commands
that wait, the model's counter of free values and the last words read are not the device's. -/
def State.warmReset (s : State) : State :=
  let s1 : State :=
    { State.reset with words := s.words.filter (fun x => warmKept x.1), now := s.now, free := s.free, pending := s.pending, flt := s.flt.warm
                       boot := { Boot.reset with flash := s.boot.flash, once := s.boot.once }
                       pon := { State.reset.pon with temps := s.pon.temps }
                       hst := { Hst.reset with fns := s.hst.fns, seen := s.bit Reg.HST_LINK.UP, level := s.hst.level, aer := s.hst.aer }
                       rdata := s.rdata }
  s1.wr Reg.BOOT_IMAGE.FLOOR (s.rd Reg.BOOT_IMAGE.FLOOR)

/-- Codes of the kinds whose class is FATAL. -/
def State.fatalKinds (s : State) : List Nat := (List.range 256).filter (fun k => (s.kindConf k).cls == 2)

/-- SAFE_EXIT (R468). -/
def State.safeExit (s : State) (ag : Agent) : State :=
  if !s.flt.safe then s
  else if s.fatalKinds.any (fun k => (s.kindSt k).status) then
    ({ s with flt := { s.flt with exitRefused := true } } : State).deny ag .refused Reg.FLT_CTRL.addr noWin
  else s.warmReset.level

/-- CAPTURE_CLR (R463). -/
def State.captureClr (s : State) : State := { s with flt := { s.flt with first0 := none, first1 := none, first2 := none } }

/-- A write of FLT_CTRL (Table 14-14). -/
def State.fltCtrl (s : State) (ag : Agent) (v : Word) : State :=
  s.gate ag Reg.FLT_CTRL.addr (fun s =>
    let s1 := s.storeWord ag Reg.FLT_CTRL.addr v
    match fldOf v Reg.FLT_CTRL.CMD with
    | 1 => s1.safeExit ag
    | 2 => s1.captureClr
    | _ => s1)

/-- SAFE_EXIT (R468): a write of FLT_CTRL with that command. -/
def execSafeExit (ag : Agent) (v : Word) (s : State) : Host.Outcome State Fault Refusal := ok (s.fltCtrl ag (withCmd v 1))

/-- CAPTURE_CLR (R463). -/
def execCaptureClr (ag : Agent) (v : Word) (s : State) : Host.Outcome State Fault Refusal := ok (s.fltCtrl ag (withCmd v 2))

/-- AUTO_RESTART (R469): RESTART_HOLD has passed with no cause of a FATAL-class kind active. -/
def execAutoRestart (s : State) : Host.Outcome State Fault Refusal :=
  ok (if !s.flt.safe || !s.bit Reg.FLT_CTRL.AUTO_RESTART || s.flt.restartLimit || s.fatalKinds.any (fun k => s.causeActive k) then s
    else if s.rd Reg.FLT_CTRL.RESTART_MAX < s.flt.restarts + 1 then { s with flt := { s.flt with restartLimit := true } }
    else
      let s1 := s.fatalKinds.foldl (fun s k => s.clearKind k) s
      ({ s1 with flt := { s1.flt with restarts := s1.flt.restarts + 1 } } : State).warmReset.level)

/-- RESTART_AGE_OUT (R469): a restart leaves the rolling hour. -/
def execRestartAgeOut (s : State) : Host.Outcome State Fault Refusal := ok { s with flt := { s.flt with restarts := s.flt.restarts - 1 } }

/-! The analog monitor (R452, R329). -/

/-- Kind and instance of a cause (Table 14-3). -/
def anaWhat : AnalogCause → Kind × Nat
  | .supply n => (.SUPPLY_RANGE, n.val)
  | .voltGlitch => (.VOLT_GLITCH, 0)
  | .clkGlitch i => (.CLK_GLITCH, i.val)
  | .tamper n => (.TAMPER, n.val)
  | .refLoss n => (.REF_CLK_LOSS, n.val)

/-- Source of an instance of the analog monitor. -/
abbrev srcAna (n : Nat) : Source := ⟨.ANA, n⟩

/-- The alarm bits of KEY_STATUS follow the causes that are active (R329). -/
def State.alarmBits (s : State) : State :=
  let b := fun (k : Kind) => if s.flt.causeOf k then 1 else 0
  (((s.wr Reg.KEY_STATUS.TAMPER (b .TAMPER)).wr Reg.KEY_STATUS.VGLITCH (b .VOLT_GLITCH)).wr Reg.KEY_STATUS.CGLITCH (b .CLK_GLITCH)).wr
    Reg.KEY_STATUS.TEMP (b .TEMP_RANGE)

/-- Causes of KEY_ERASED for an alarm kind: TAMPER, VGLITCH, CGLITCH, TEMP from bit 3 down; 0 for a kind that is no alarm. -/
def alarmCause : Kind → Nat
  | .TAMPER => 8
  | .VOLT_GLITCH => 4
  | .CLK_GLITCH => 2
  | .TEMP_RANGE => 1
  | _ => 0

/-- The onset of a cause of the analog monitor: one message, and the erasure of R329 for an alarm. -/
def State.anaOnset (s : State) (k : Kind) (n addr : Nat) : State :=
  if s.flt.active k (srcAna n) 0 then s
  else
    let s1 := (s.onset k (srcAna n) 0 addr).alarmBits
    if alarmCause k = 0 then s1 else s1.eraseKeys (alarmCause k)

/-- ANALOG_CAUSE_ONSET (R452, R329). -/
def execAnalogCauseOnset (c : AnalogCause) (s : State) : Host.Outcome State Fault Refusal := ok (s.anaOnset (anaWhat c).1 (anaWhat c).2 (anaWhat c).2)

/-- ANALOG_CAUSE_END (R452). -/
def execAnalogCauseEnd (c : AnalogCause) (s : State) : Host.Outcome State Fault Refusal :=
  ok ((s.endCause (anaWhat c).1 (srcAna (anaWhat c).2) 0).alarmBits)

/-- Presets of the ports a junction sensor serves whose learn temperature differs by TEMP_DELTA or more lose VALID (R49). -/
def State.coolPresets (s : State) (i t : Nat) : State :=
  let stale := s.pon.presets.filter (fun x => decide (x.1 / 512 / 4 = i) && x.2.valid &&
    decide (s.rd (Reg.PT_PRESET_CFG.TEMP_DELTA (x.1 / 512)) ≤ Int.natAbs ((t : Int) - x.2.temp)))
  { s with pon := { s.pon with presets := stale.foldl (fun l x => Tab.set (fun _ => Preset.none) l x.1 { x.2 with valid := false }) s.pon.presets } }

/-- TEMP_SAMPLE (R49, R452): a sensor read against WARN, HIGH and LOW; a cause ends 3 °C inside its threshold. -/
def execTempSample (i : Fin 16) (t : BitVec 8) (s : State) : Host.Outcome State Fault Refusal :=
  let s0 : State := { s with pon := { s.pon with temps := Tab.set (fun _ => 0) s.pon.temps i.val t.toNat } }
  let s1 := s0.coolPresets i.val t.toNat
  let x := t.toNat
  let warn := s1.rd Reg.FLT_TEMP_CFG.WARN
  let high := s1.rd Reg.FLT_TEMP_CFG.HIGH
  let low := s1.rd Reg.FLT_TEMP_CFG.LOW
  let s2 := if warn ≤ x then s1.anaOnset .TEMP_WARN i.val x
    else if x + 3 ≤ warn then s1.endCause .TEMP_WARN (srcAna i.val) 0 else s1
  ok (if high ≤ x then s2.anaOnset .TEMP_RANGE i.val x
    else if x ≤ low then s2.anaOnset .TEMP_RANGE i.val (256 + x)
    else if x + 3 ≤ high ∧ low + 3 ≤ x then (s2.endCause .TEMP_RANGE (srcAna i.val) 0).alarmBits else s2)

end Sys2Proof.Machine
end

