-- ==== Sys2Proof/Machine/Tally.lean ====
section
/-! DEFINITION. Tallyman: tally counters, snapshots, performance monitoring and telemetry export
(15_counters_and_observability.md R479 to R502). -/

namespace Sys2Proof.Machine

set_option autoImplicit false

/-! Tally counters (R480 to R484). -/

/-- A counter's configuration. -/
def State.tlyCfg (s : State) (i : Nat) : TlyCfg := Tab.get (fun _ => TlyCfg.reset) s.tly.cfg i

/-- A counter's value. -/
def State.tlyVal (s : State) (i : Nat) : Ctr := Tab.get (fun _ => Ctr.zero) s.tly.vals i

/-- Writable bits of a word of a counter entry (Table 15-3); words 4 to 8 of a counter below 4,032 ignore writes. -/
def tlyMask (i j : Nat) : Word :=
  match j with
  | 0 => 0xFE000FFF#32
  | 1 | 2 => 0x000FFFFF#32
  | 4 => if i < 4032 then 0#32 else 0xFFFFFC00#32
  | 5 | 6 | 7 | 8 => if i < 4032 then 0#32 else 0xFFFFFFFF#32
  | _ => 0#32

/-- Events of a privileged catalogue row (Table 15-2). -/
def privEvent (e : Nat) : Bool := e / 64 == 0x15 || e / 64 == 0x08 || e == 0x2A0 || e == 0x2A1

/-- The EVENT of a write of word 0 is one the counter may count (R482). -/
def eventFits (i e : Nat) : Bool := (tallyGroup i).1.contains (e / 64) && (decide (4032 ≤ i) || !privEvent e)

/-- A configuration as the words 0 to 8 of an entry stand. -/
def State.tlyWritten (s : State) (i : Nat) : TlyCfg :=
  let w := fun j => s.word (winKey wTly i j)
  let f := fun (j lo n : Nat) => ((w j).extractLsb' lo n).toNat
  { en := (w 0).getLsbD 31, owner := f 0 25 6, event := f 0 0 12, qual := f 1 0 20, qmask := f 2 0 20
    any := (w 4).getLsbD 31, func := f 4 25 6, master := f 4 22 3, mid := f 4 14 8, access := f 4 10 4
    lo := f 5 0 32 + f 6 0 32 * 2 ^ 32, hi := f 7 0 32 + f 8 0 32 * 2 ^ 32 }

/-- A word of a counter entry other than word 0 is stored. -/
def State.tlyStore (s : State) (i j : Nat) (v : Word) : State :=
  let k := winKey wTly i j
  s.putWord k ((s.word k &&& ~~~ tlyMask i j) ||| (v &&& tlyMask i j))

/-- The write of word 0 (R481, R482): refused whole, or applied with words 1 to 8, the count zeroed. -/
def State.tlyApply (s : State) (ag : Agent) (i : Nat) (v : Word) : State :=
  if !eventFits i (v.extractLsb' 0 12).toNat then s.deny ag .refused i wTly
  else
    let s1 := s.tlyStore i 0 v
    { s1 with tly := { s1.tly with cfg := Tab.set (fun _ => TlyCfg.reset) s1.tly.cfg i (s1.tlyWritten i)
                                   vals := Tab.set (fun _ => Ctr.zero) s1.tly.vals i Ctr.zero } }

/-- Only the physical function configures a counter (R484); the image's TABLE section writes as the loader. -/
def State.tlyGate (s : State) (ag : Agent) (i : Nat) (k : State → State) : State :=
  match ag with
  | .steward => s.deny ag .refused i wTly
  | _ => s.winGate ag wTly i k

/-- TALLY_CONFIG_WRITE (R481, R482). -/
def execTallyConfigWrite (ag : Agent) (i : Fin 4096) (v : Word) (s : State) : Host.Outcome State Fault Refusal :=
  ok (s.tlyGate ag i.val (fun s => s.tlyApply ag i.val v))

/-! Snapshots (R485 to R487). -/

/-- A snapshot bank. -/
def State.bank (s : State) (b : Nat) : Snap := if b = 0 then s.tly.bank0 else s.tly.bank1

/-- Entries as latched: an enabled counter's value with EN, a disabled one's zero (R487). -/
def State.latchAll (s : State) : Tab Nat :=
  s.tly.cfg.filterMap (fun x => if x.2.en then some (x.1, (s.tlyVal x.1).bits + 2 ^ 62) else none)

/-- The output domain is LOCKED. -/
def State.outLocked (s : State) : Bool := (s.dom s.outSel).state == .locked

/-- A snapshot starts (R486): 0 command, 1 periodic, 2 PM second. -/
def State.snapStart (s : State) (trigger : Nat) : State :=
  let x : Snap := ⟨0, trigger, s.now, 0, s.outTime, s.outLocked, s.latchAll⟩
  ({ s with tly := { s.tly with snap := some x } } : State).wr Reg.TLY_STATUS.BUSY 1

/-- A periodic or PM trigger (R486): skipped while a snapshot is in progress. -/
def State.snapTrigger (s : State) (trigger : Nat) : State :=
  if s.bit Reg.TLY_STATUS.BUSY then s.inc Cnt.TLY_SNAP_SKIPPED else s.snapStart trigger

/-- Words of a snapshot header (Table 15-4); `filling` says the bank is being filled. -/
def Snap.header (x : Snap) (filling : Bool) : List Word :=
  let t := timeWords x.out
  [BitVec.ofNat 32 (if filling then 0 else x.seq), BitVec.ofNat 32 (x.trigger * 2 ^ 30), BitVec.ofNat 32 x.first,
    BitVec.ofNat 32 (x.first / 2 ^ 32), BitVec.ofNat 32 x.skew, t.getD 1 0#32, t.getD 2 0#32, t.getD 3 0#32,
    (if x.locked then 0x80000000#32 else 0#32), 0#32, 0#32, 0#32, 0#32, 0#32, 0#32, BitVec.ofNat 32 x.seq]

/-- A snapshot's entry of a counter. -/
def Snap.entry (x : Snap) (i : Nat) : Nat := Tab.get (fun _ => 0) x.entries i

/-- Words as bytes, low byte first (DESIGN CHOICE, log entry 34). -/
def wordBytes (l : List Word) : List Byte := l.flatMap (fun w => leBytes 4 w.toNat)

/-- A record for the telemetry ring (R500). -/
def State.toTelemetry (s : State) (type_ : Nat) (bytes : List Byte) : State :=
  if s.bit Reg.TLY_EXPORT.HOST_EN then { s with tly := { s.tly with export_ := s.tly.export_ ++ [⟨type_, bytes⟩] } } else s

/-- One's-complement sum of bytes taken two at a time. -/
def onesSum : List Byte → Nat
  | [] => 0
  | [a] => a.toNat * 256
  | a :: b :: t => a.toNat * 256 + b.toNat + onesSum t

/-- The Internet checksum of a sum. -/
def inetSum (n : Nat) : Nat :=
  let f := fun (x : Nat) => x % 65536 + x / 65536
  65535 - f (f (f n))

/-- Bytes of a string replaced from an offset. -/
def putBytes (l : List Byte) (off : Nat) (x : List Byte) : List Byte := l.take off ++ x ++ l.drop (off + x.length)

/-- An export frame (R501): template, index of the first entry, header, entries; lengths and checksums filled in. The IP and UDP
headers are the template's last 28 or 48 bytes. -/
def exportFrame (tpl : List Byte) (v6 : Bool) (payload : List Byte) : List Byte :=
  let udp := tpl.length - 8
  let ip := tpl.length - (if v6 then 48 else 28)
  let ulen := 8 + payload.length
  let t1 := putBytes (putBytes tpl (udp + 4) (beBytes 2 ulen)) (udp + 6) [0#8, 0#8]
  if v6 then
    let t2 := putBytes t1 (ip + 4) (beBytes 2 ulen)
    let sum := onesSum (sliceZ t2 (ip + 8) 32) + ulen + 17 + onesSum (t2.drop udp ++ payload)
    let c := inetSum sum
    putBytes t2 (udp + 6) (beBytes 2 (if c = 0 then 65535 else c)) ++ payload
  else
    let t2 := putBytes (putBytes t1 (ip + 2) (beBytes 2 (20 + ulen))) (ip + 10) [0#8, 0#8]
    putBytes t2 (ip + 10) (beBytes 2 (inetSum (onesSum (sliceZ t2 ip 20)))) ++ payload

/-- Packets in all queues. -/
def State.queued (s : State) : Nat := (s.cpg.queues.map (fun x => x.2.count)).sum

/-- An export frame enqueued, or dropped (R501). -/
def State.sendExport (s : State) (fr : List Byte) : State :=
  let c := s.rd Reg.TLY_EXPORT.CLASS
  let a := s.newBuf c fr.length fr
  match a.2 with
  | none => (a.1.noBuf c fr.length).inc Cnt.TLY_EXPORT_DROPPED
  | some h =>
    let d : Desc := { Desc.zero with handle := h, dir := true, length := fr.length, cls := c, queue := s.rd Reg.TLY_EXPORT.QUEUE, tIn := s.now % 2 ^ 32 }
    let s1 := if a.1.isProxy d then a.1.proxyChecks ⟨d, none, none⟩ else a.1.enqueue d
    s1.inc (if s1.queued = a.1.queued + 1 then Cnt.TLY_EXPORT_FRAMES else Cnt.TLY_EXPORT_DROPPED)

/-- Frames of a snapshot, ENTRIES entries each, from an index on. -/
def State.sendSnapshot (s : State) (x : Snap) (tpl : List Byte) (n : Nat) : Nat → Nat → State
  | 0, _ => s
  | fuel + 1, i =>
    if 4096 ≤ i then s
    else
      let m := min n (4096 - i)
      let body := (List.range m).flatMap (fun j => leBytes 8 (x.entry (i + j)))
      (s.sendExport (exportFrame tpl (s.bit Reg.TLY_TEMPLATE_CFG.IPV6) (leBytes 4 i ++ wordBytes (x.header false) ++ body))).sendSnapshot x tpl n fuel (i + m)

/-- TLY_TEMPLATE as bytes in network order, TEMPLATE_LEN of them. -/
def State.exportTemplate (s : State) : List Byte :=
  ((List.range 24).flatMap (fun k => beBytes 4 (s.word (Reg.TLY_TEMPLATE.addr k)).toNat)).take (s.rd Reg.TLY_TEMPLATE_CFG.TEMPLATE_LEN)

/-- SNAPSHOT_DONE (R485 to R487, R500, R501): the bank not last completed is filled and becomes the last completed. -/
def execSnapshotDone (skew : Fin 2001) (s : State) : Host.Outcome State Fault Refusal :=
  match s.tly.snap with
  | none => ok s
  | some x0 =>
    let b := s.rd Reg.TLY_STATUS.BANK
    let n := ((s.bank b).seq + 1) % 2 ^ 32
    let x : Snap := { x0 with seq := if n = 0 then 1 else n, skew := skew.val }
    let s1 : State := { s with tly := if b = 1 then { s.tly with snap := none, bank0 := x } else { s.tly with snap := none, bank1 := x } }
    let s2 := ((((s1.wr Reg.TLY_STATUS.BUSY 0).wr Reg.TLY_STATUS.BANK (1 - b)).inc Cnt.TLY_SNAPSHOTS).msi 0 1).toTelemetry 0
      (wordBytes (x.header false) ++ (List.range 4096).flatMap (fun i => leBytes 8 (x.entry i)))
    ok (if s2.bit Reg.TLY_EXPORT.NET_EN then s2.sendSnapshot x s2.exportTemplate (max 1 (min 1024 (s2.rd Reg.TLY_EXPORT.ENTRIES))) 4096 0 else s2)

/-- SNAP_PERIODIC (R486): SNAP_MS has passed. -/
def execSnapPeriodic (s : State) : Host.Outcome State Fault Refusal :=
  ok (if s.rd Reg.TLY_CTRL.SNAP_MS = 0 then s else s.snapTrigger 1)

/-! Performance monitoring (R490 to R499). -/

/-- Records of Table 15-7. -/
abbrev pmRecs : Nat := 16512

/-- A record. -/
def State.pmRec (s : State) (r : Nat) : PmRec := Tab.get (fun _ => PmRec.clear) s.pm.recs r

/-- Update of a record. -/
def State.setPmRec (s : State) (r : Nat) (x : PmRec) : State :=
  { s with pm := { s.pm with recs := Tab.set (fun _ => PmRec.clear) s.pm.recs r x } }

/-- Counts added to a record: to the totals, and to the current (2) or previous (1) interval's bins (R497). -/
def PmRec.add (r : PmRec) (bin : Nat) (es ses uas : Int) : PmRec :=
  let a := fun (n : Nat) (d : Int) => ((n : Int) + d).toNat
  let r1 : PmRec := { r with es := a r.es es, ses := a r.ses ses, uas := a r.uas uas }
  match bin with
  | 2 => { r1 with curEs := a r.curEs es, curSes := a r.curSes ses, curUas := a r.curUas uas }
  | 1 => { r1 with prevEs := a r.prevEs es, prevSes := a r.prevSes ses, prevUas := a r.prevUas uas }
  | _ => r1

/-- A monitored second of a record (R495). `bin` says which interval holds a second. -/
def PmRec.classify (bin : Nat → Nat) (r : PmRec) (k : Nat) (es ses : Bool) : PmRec :=
  let one := fun (b : Bool) => if b then (1 : Int) else 0
  if !r.unavail then
    let r1 := r.add (bin k) (one es) (one ses) 0
    let h := r1.hist ++ [(true, k)]
    if !ses then { r1 with hist := [] }
    else if h.length < 10 then { r1 with hist := h }
    else h.foldl (fun r x => r.add (bin x.2) (-1) (-1) 1) { r1 with unavail := true, hist := [] }
  else
    let r1 := r.add (bin k) 0 0 1
    let h := r1.hist ++ [(es, k)]
    if ses then { r1 with hist := [] }
    else if h.length < 10 then { r1 with hist := h }
    else h.foldl (fun r x => r.add (bin x.2) (one x.1) 0 (-1)) { r1 with unavail := false, hist := [] }

/-- Interval that holds a second: 2 the current one, 1 the previous one, 0 an earlier one. -/
def Pm.binOf (m : Pm) (k : Nat) : Nat := if m.intStart ≤ k then 2 else if m.prevStart ≤ k then 1 else 0

/-- Entries of the PM event log. -/
abbrev pmLogSize : Nat := 1024

/-- Words of a log entry (Table 15-8). -/
def PmEvent.words (e : PmEvent) : List Word :=
  [BitVec.ofNat 32 (e.type_ * 2 ^ 29 + e.rec_), BitVec.ofNat 32 e.t, BitVec.ofNat 32 (e.t / 2 ^ 32), BitVec.ofNat 32 e.value]

/-- PM_EVENT_LOG (R499, R500): the place to be written next may hold an unread entry, which is then lost. -/
def State.pmLog (s : State) (e : PmEvent) : State :=
  let n := s.rd Reg.TLY_STATUS.LOG_NEXT
  let s1 := if s.pm.unread.contains n then s.inc Cnt.TLY_PM_EVENT_LOST else s
  let s2 : State := { s1 with pm := { s1.pm with log := Tab.set (fun _ => PmEvent.zero) s1.pm.log n e
                                                 unread := s1.pm.unread.filter (fun i => i ≠ n) ++ [n] } }
  let s3 := ((s2.wr Reg.TLY_STATUS.LOG_NEXT ((n + 1) % pmLogSize)).inc Cnt.TLY_PM_EVENTS).wr Reg.TLY_STATUS.PM_EVENT 1
  (s3.msi 0 1).toTelemetry 1 (wordBytes e.words)

/-- Time at the end of a second. -/
def secondEnd (k : Nat) : Nat := (k + 1) * 1000000000

/-- A record classifies a second (R494, R495, R499): a state change and each threshold of the current interval first reached are
logged. -/
def State.pmClassify (s : State) (r k : Nat) (es ses : Bool) : State :=
  let x := s.pmRec r
  let y : PmRec := { x.classify s.pm.binOf k es ses with monitored := true }
  let hits := [(2, y.curEs, s.rd Reg.TLY_PM_THR.ES_THR), (3, y.curSes, s.rd Reg.TLY_PM_THR.SES_THR), (4, y.curUas, s.rd Reg.TLY_PM_THR.UAS_THR)].filter
    (fun (c : Nat × Nat × Nat) => decide (c.2.2 ≠ 0 ∧ c.2.2 ≤ c.2.1) && !y.crossed.contains c.1)
  let s1 := s.setPmRec r { y with crossed := y.crossed ++ hits.map (·.1) }
  let s2 := if x.unavail = y.unavail then s1 else s1.pmLog ⟨if y.unavail then 0 else 1, r, secondEnd k, y.uas⟩
  hits.foldl (fun s c => s.pmLog ⟨c.1, r, secondEnd k, c.2.1⟩) s2

/-- A second's ES and SES from its counts (R494); `miss` counts missed bursts or lost frames, `n` the seconds they cover. -/
def pmJudge (cw unc hec miss n : Nat) : Bool × Bool :=
  let ses := decide (cw ≠ 0 ∧ cw ≤ 100 * unc) || decide (3 * n ≤ miss)
  (ses || decide (unc ≠ 0) || decide (hec ≠ 0) || decide (miss ≠ 0), ses)

/-- A record whose second was not monitored (R496). -/
def State.pmSkip (s : State) (r : Nat) : State := if (s.pmRec r).monitored then s.setPmRec r { s.pmRec r with monitored := false } else s

/-- The second under way of a record. -/
def State.pmAcc (s : State) (r : Nat) : PmAcc := Tab.get (fun _ => PmAcc.zero) s.pm.acc r

/-- Slots whose records are monitored in the second that ends (R496). -/
def State.pmSlots (s : State) : List (Fin 32 × Nat) :=
  s.act.slots.filterMap (fun x => if x.2.state.monitored && !(s.pmAcc (2 * x.1)).unmon then some (Fin.ofNat 32 (x.1 / 256), x.1 % 256) else none)

/-- Seconds of a slot that wait for a report, asked for or not (R492). -/
def State.dsPending (s : State) (k : Nat) : List Nat :=
  (Tab.get (fun _ => []) s.pm.dsAsked k).flatten ++ Tab.get (fun _ => []) s.pm.dsWait k

/-- Key of a port side's downstream second. -/
def dsKey (p : Fin 32) (sd k : Nat) : Nat := (p.val * 2 + sd) * 2 ^ 40 + k

/-- A port side's downstream second still waits for a record of the side (R493). -/
def State.dsWaits (s : State) (key : Nat) : Bool :=
  (s.pm.dsWait.map (·.1) ++ s.pm.dsAsked.map (·.1)).any (fun sl =>
    (s.dsPending sl).contains (key % 2 ^ 40) && decide (sl / 256 * 2 + (s.slot (Fin.ofNat 32 (sl / 256)) (sl % 256)).side = key / 2 ^ 40))

/-- Downstream seconds of ports whose records are all classified are classified in order (R493). -/
def State.dsSettle (s : State) : State :=
  (s.pm.dsPort.foldl (fun (a : State × List Nat) (x : Nat × Option (Nat × Nat × Nat)) =>
    let side := x.1 / 2 ^ 40
    if a.2.contains side || a.1.dsWaits x.1 then (a.1, side :: a.2)
    else
      let c := x.2.getD (0, 0, 0)
      let frac := max 1 (s.rd Reg.TLY_PM_CTRL.PORT_DS_FRAC)
      let ses := decide (1 ≤ c.1) && decide (ceilDiv (c.1 * frac) 256 ≤ c.2.2)
      let s1 := a.1.pmClassify (16384 + 2 * side + 1) (x.1 % 2 ^ 40) (decide (c.2.1 ≠ 0) || ses) ses
      ({ s1 with pm := { s1.pm with dsPort := Tab.set (fun _ => none) s1.pm.dsPort x.1 none } }, a.2)) (s, [])).1

/-- Downstream seconds of slots that are no longer monitored are dropped. -/
def State.dsForget (s : State) (keep : List Nat) : State :=
  { s with pm := { s.pm with dsWait := s.pm.dsWait.filter (fun x => keep.contains x.1), dsAsked := s.pm.dsAsked.filter (fun x => keep.contains x.1) } }

/-- Upstream records of ONUs at the end of a second. -/
def State.pmOnus (s : State) (k : Nat) (up : List (Fin 32 × Nat)) : State :=
  let s1 := up.foldl (fun s x =>
    let r := onuRec x.1 x.2
    let a := s.pmAcc r
    let j := pmJudge a.cw a.unc a.hec a.miss 1
    s.pmClassify r k j.1 j.2) s
  let on := up.map (fun x => onuRec x.1 x.2)
  (s.pm.recs.filter (fun x => decide (x.1 < 16384) && !on.contains (x.1 / 2 * 2))).foldl (fun s x => s.pmSkip x.1) s1

/-- The upstream record of a port side at the end of a second; its change to UNAVAILABLE is trigger 4 (R491, R498, Table 10-5). -/
def State.pmPortUp (s : State) (k : Nat) (p : Fin 32) (sd : Nat) : State :=
  let r := portRec p sd
  let a := s.pmAcc r
  let j := pmJudge a.cw a.unc a.hec a.miss 1
  let s1 := s.pmClassify r k (j.1 || a.loss) (j.2 || a.loss)
  if !(s.pmRec r).unavail && (s1.pmRec r).unavail && s1.sideEn p sd && s1.bit Reg.TWN_CFG.TRG_UAS && s1.hbBit Hb.avail p && s1.hbBit Hb.ready p then
    s1.ownerTrigger 4 p
  else s1

/-- Both sides of every port. -/
def allSides : List (Fin 32 × Nat) := ports.flatMap (fun p => [(p, 0), (p, 1)])

/-- The downstream seconds a port side and its monitored slots wait for; none on a shadow tree (R492). -/
def State.pmDown (s : State) (k : Nat) (up : List (Fin 32 × Nat)) : State :=
  let s0 := s.dsForget ((up.filter (fun x => s.owned x.1.val)).map (fun x => slotKey x.1 x.2))
  let s1 := (up.filter (fun x => s.owned x.1.val)).foldl (fun (s : State) x =>
    { s with pm := { s.pm with dsWait := Tab.mod (fun _ => []) s.pm.dsWait (slotKey x.1 x.2) (fun l => l ++ [k]) } }) s0
  let s2 := allSides.foldl (fun (s : State) x =>
    if s.owned x.1.val then { s with pm := { s.pm with dsPort := Tab.set (fun _ => none) s.pm.dsPort (dsKey x.1 x.2 k) (some (0, 0, 0)) } }
    else s.pmSkip (portRec x.1 x.2 + 1)) s1
  s2.dsSettle

/-- Events of the next second: a US_LOSS that persists is active in it too (R491). -/
def State.pmFresh (s : State) : State :=
  let t := allSides.foldl (fun t x =>
    if s.flt.active .US_LOSS (srcPt x.1) x.2 then Tab.set (fun _ => PmAcc.zero) t (portRec x.1 x.2) { PmAcc.zero with loss := true } else t) ([] : Tab PmAcc)
  { s with pm := { s.pm with acc := t, second := s.pm.second + 1 } }

/-- The 15-minute interval (R497): a new one starts at the first boundary after the output time crosses a multiple of 900 s. -/
def State.pmInterval (s : State) : State :=
  let q := s.outTime / (900 * 1000000000 * fracUnit)
  let m := s.pm
  if q = m.at900 then s
  else
    let next := fun (r : PmRec) =>
      ({ r with prevEs := r.curEs, prevSes := r.curSes, prevUas := r.curUas, curEs := 0, curSes := 0, curUas := 0, crossed := [] } : PmRec)
    { s with pm := { m with recs := m.recs.filterMap (fun x => if next x.2 = PmRec.clear then none else some (x.1, next x.2))
                            prevStart := m.intStart, intStart := m.second, at900 := q
                            prevSuspect := m.jumped || decide (m.second - m.intStart ≠ 900), jumped := false } }

/-- PM_SECOND_END (R490 to R499, R486): the second under way is classified and the next one begins. While TLY_PM_CTRL.EN is 0 no
record classifies. -/
def execPmSecondEnd (s : State) : Host.Outcome State Fault Refusal :=
  let k := s.pm.second
  let s1 := if s.bit Reg.TLY_PM_CTRL.EN then
      let up := s.pmSlots
      (allSides.foldl (fun s x => s.pmPortUp k x.1 x.2) (s.pmOnus k up)).pmDown k up
    else s.pm.recs.foldl (fun s x => s.pmSkip x.1) s
  let s2 := s1.pmFresh.pmInterval
  ok (if s2.bit Reg.TLY_CTRL.SNAP_PM then s2.snapTrigger 2 else s2)

/-- DS_REPORT_REQUEST (R492): the Steward asks each ACTIVE ONU; the period of every monitored slot ends. Nothing is asked while the
Steward does not run (R531). -/
def execDsReportRequest (s : State) : Host.Outcome State Fault Refusal :=
  ok (if s.stw.paused || decide (s.stage < 2) then s
    else
      { s with pm := { s.pm with dsAsked := s.pm.dsWait.foldl (fun t x => Tab.mod (fun _ => []) t x.1 (fun l => l ++ [x.2])) s.pm.dsAsked, dsWait := [] } })

/-- Seconds of a slot's record classified alike, also into its port's seconds (R492, R493). -/
def State.dsApply (s : State) (p : Fin 32) (slot : Nat) (ks : List Nat) (es ses : Bool) : State :=
  let sd := (s.slot p slot).side
  ks.foldl (fun s k =>
    let s1 := s.pmClassify (onuRec p slot + 1) k es ses
    let key := dsKey p sd k
    match Tab.get (fun _ => none) s1.pm.dsPort key with
    | none => s1
    | some c =>
      let c1 := (c.1 + 1, c.2.1 + (if es then 1 else 0), c.2.2 + (if ses then 1 else 0))
      { s1 with pm := { s1.pm with dsPort := Tab.set (fun _ => none) s1.pm.dsPort key (some c1) } }) s

/-- Requests of a slot not yet reported. -/
def State.setAsked (s : State) (k : Nat) (l : List (List Nat)) : State :=
  { s with pm := { s.pm with dsAsked := Tab.set (fun _ => []) s.pm.dsAsked k l } }

/-- DS_REPORT (R492): a report covers the seconds asked for since the ONU's previous one. -/
def execDsReport (p : Fin 32) (slot : Fin 256) (cw unc hec lost : Nat) (s : State) : Host.Outcome State Fault Refusal :=
  let k := slotKey p slot.val
  let ks := (Tab.get (fun _ => []) s.pm.dsAsked k).flatten
  let j := pmJudge cw unc hec lost ks.length
  ok (if ks = [] then s
    else (((s.setAsked k []).dsApply p slot.val ks j.1 j.2).inc Cnt.TLY_DS_REPORTS).dsSettle)

/-- DS_REPORT_MISSING (R492, R499): the oldest period asked for has no report 2 s after its end. The spec names no value for its
log entry: a free value. -/
def execDsReportMissing (p : Fin 32) (slot : Fin 256) (s : State) : Host.Outcome State Fault Refusal :=
  let k := slotKey p slot.val
  ok (match Tab.get (fun _ => []) s.pm.dsAsked k with
    | [] => s
    | ks :: t =>
      let s1 := (((s.setAsked k t).dsApply p slot.val ks true true).inc Cnt.TLY_DS_REPORT_MISSING).takeFree
      (s1.2.pmLog ⟨5, onuRec p slot.val + 1, secondEnd (ks.getLastD 0), Config.freeValue s1.1⟩).dsSettle)

/-! TLY_CTRL (Table 15-9). -/

/-- A record cleared to AVAILABLE with zero counts (R496). -/
def State.pmClear (s : State) (r : Nat) : State := s.setPmRec r PmRec.clear

/-- A write of TLY_CTRL. -/
def State.tlyCtrl (s : State) (ag : Agent) (v : Word) : State :=
  s.gate ag Reg.TLY_CTRL.addr (fun s =>
    let s1 := s.storeWord ag Reg.TLY_CTRL.addr v
    match fldOf v Reg.TLY_CTRL.CMD with
    | 1 => if s1.bit Reg.TLY_STATUS.BUSY then s1.deny ag .refused Reg.TLY_CTRL.addr noWin else s1.snapStart 0
    | 2 =>
      let r := fldOf v Reg.TLY_CTRL.PM_REC + s1.rd Reg.TLY_PM_CTRL.PM_REC_HI * 2 ^ 11
      if r < pmRecs then s1.pmClear r else s1
    | 3 => { s1 with pm := { s1.pm with recs := [] } }
    | _ => s1)

/-- SNAP (R486). -/
def execSnap (ag : Agent) (v : Word) (s : State) : Host.Outcome State Fault Refusal := ok (s.tlyCtrl ag (withCmd v 1))

/-- PM_CLEAR (R496). -/
def execPmClear (ag : Agent) (v : Word) (s : State) : Host.Outcome State Fault Refusal := ok (s.tlyCtrl ag (withCmd v 2))

/-- PM_CLEAR_ALL (R496). -/
def execPmClearAll (ag : Agent) (v : Word) (s : State) : Host.Outcome State Fault Refusal := ok (s.tlyCtrl ag (withCmd v 3))

end Sys2Proof.Machine
end

