-- ==== Sys2Proof/Machine/Boot.lean ====
section
/-! DEFINITION. Resets, straps and stages up to S1, the boot commands, Steward firmware and the MXP and ALERT# outputs
(16_startup_and_live_update.md R503 to R517, R525, R530 to R533). Applying an image is in Image.lean. -/

namespace Sys2Proof.Machine

set_option autoImplicit false

/-- Source of start-up. -/
abbrev srcBoot : Source := ⟨.BOOT, 0⟩

/-! Resets (R503 to R505). -/

/-- POWER_ON_RESET (R503): nothing is kept but OTP and the flash. -/
def execPowerOnReset (s : State) : Host.Outcome State Fault Refusal :=
  let s1 : State := { State.reset with pending := s.pending, free := s.free, rdata := s.rdata, boot := { Boot.reset with flash := s.boot.flash } }
  ok (s1.wr Reg.BOOT_IMAGE.FLOOR (s.rd Reg.BOOT_IMAGE.FLOOR))

/-- RESET_RELEASE (R506, R411, R303, R329): stage S0 begins: time starts, enabled lanes enter DETECT, the device root is loaded;
an alarm whose cause persists erases the keys. -/
def execResetRelease (s : State) : Host.Outcome State Fault Refusal :=
  ok (if s.boot.released then s
    else
      let s1 : State := { s with now := 0, boot := { s.boot with released := true } }
      let s2 := (List.range 16).foldl (fun s n => if s.bit (Reg.SHL_LANE_CFG.EN n) then s.toDetect n none else s) s1.loadOtp
      let m := ([Kind.TAMPER, .VOLT_GLITCH, .CLK_GLITCH, .TEMP_RANGE].map (fun k => if s2.flt.causeOf k then alarmCause k else 0)).sum
      if m = 0 then s2 else s2.alarmBits.eraseKeys m)

/-- A write of GLB_RESET (Table 16-11). -/
def State.glbReset (s : State) (ag : Agent) (v : Word) : State :=
  s.gate ag Reg.GLB_RESET.addr (fun s => if fldOf v Reg.GLB_RESET.WARM = 1 ∧ fldOf v Reg.GLB_RESET.KEY = 0xA5 then s.warmReset.level else s)

/-- WARM_RESET (R505). -/
def execWarmReset (ag : Agent) (v : Word) (s : State) : Host.Outcome State Fault Refusal := ok (s.glbReset ag v)

/-! Stages S0 and S1 (R506 to R513, R516). -/

/-- TXDIS_SAMPLE (R516): a pin read high is a module present; the sample is taken once. -/
def execTxdisSample (present : BitVec 64) (s : State) : Host.Outcome State Fault Refusal :=
  ok (if !s.boot.released || s.boot.sampled then s
    else
      let s1 := (s.putWord Reg.BOOT_PRESENT_LO.addr (present.setWidth 32)).putWord Reg.BOOT_PRESENT_HI.addr ((present >>> 32).setWidth 32)
      { s1 with boot := { s1.boot with sampled := true } })

/-- TXDIS of a side was sampled present; lane 2 × port + side. -/
def State.presentAt (s : State) (p : Fin 32) (sd : Nat) : Bool :=
  let n := 2 * p.val + sd
  if n < 32 then (s.word Reg.BOOT_PRESENT_LO.addr).getLsbD n else (s.word Reg.BOOT_PRESENT_HI.addr).getLsbD (n - 32)

/-- A byte of the flash. -/
def State.flashByte (s : State) (a : Nat) : Byte := Tab.get flashErased s.boot.flash a

/-- Capacity of the flash: at most 512 MiB (R518), and at least one sector of R533 (PRESUMED, log entry 31). -/
def flashCap : Nat := max 4096 (min (2 ^ 29) Config.flashSize)

/-- First byte of a bank (R518). -/
def bankBase (b : Nat) : Nat := if b = 0 then 0 else flashCap / 2

/-- GEN of a bank's header as the flash holds it (Table 16-5). -/
def State.bankGen (s : State) (b : Nat) : Nat := leNat ((List.range 4).map (fun i => s.flashByte (bankBase b + 8 + i)))

/-- Banks to try, in order (R520). -/
def State.bankOrder (s : State) : List Nat :=
  let m := s.rd Reg.GLB_STRAPS.MXP
  if m / 4 % 4 = 3 then []
  else match m % 4 with
    | 1 => [0]
    | 2 => [1]
    | 3 => []
    | _ =>
      let l := if s.bankGen 0 < s.bankGen 1 then [1, 0] else [0, 1]
      let bad := s.rd Reg.BOOT_LAST.BANK
      if s.boot.once && !s.bit Reg.BOOT_LAST.REACHED_S3 && decide (bad < 2) then l.filter (· ≠ bad) ++ [bad] else l

/-- Fetch of the next bank, or IMAGE_NONE with none left (R520). -/
def State.nextBank (s : State) : State :=
  match s.boot.todo with
  | b :: t => (({ s with boot := { s.boot with fetching := some b, todo := t } } : State).wr Reg.BOOT_STATUS.BUSY 1).inc Cnt.BOOT_BANKS_TRIED
  | [] => (({ s with boot := { s.boot with fetching := none } } : State).wr Reg.BOOT_STATUS.BUSY 0).onset .IMAGE_NONE srcBoot 0 0

/-- STRAP_LATCH (R513, R411, R422, R520): GLB_STRAPS and the reset values the straps give; lanes take their roles, the device
claims its address, the fetch starts. -/
def execStrapLatch (mxp : BitVec 16) (s : State) : Host.Outcome State Fault Refusal :=
  ok (if !s.boot.released || s.shl.latched then s
    else
      let m := mxp.toNat
      let b := fun (i : Nat) => m / 2 ^ i % 2
      let s1 := ((((s.wr Reg.GLB_STRAPS.MXP m).wr Reg.TWN_CFG.EN (b 4)).wr Reg.TWN_STATUS.PRIMARY (b 5)).wr Reg.SHL_FAB_CFG.MODE (m / 64 % 4)).wr
        Reg.SHL_FAB_CFG.MASTER (b 8)
      let s2 := if m / 1024 = 0 then s1 else s1.raise .STRAP_INVALID srcBoot m
      let s3 : State := { s2 with shl := { s2.shl with latched := true } }
      let s4 := s3.takeRoles.claim
      ({ s4 with boot := { s4.boot with todo := s4.bankOrder } } : State).nextBank)

/-- STAGE stored, an event of PF vector 2 (Table 17-9). -/
def State.setStage (s : State) (n : Nat) : State := (s.wr Reg.BOOT_STATUS.STAGE n).msi 0 2

/-- Enables of a port's sides that were sampled present (R508); an isolated port keeps its enables at 0 (R587). -/
def State.enablePort (s : State) (p : Fin 32) : State :=
  if s.flt.isolated .port p.val then s
  else
    let s1 := if s.presentAt p 0 then s.wr (Reg.PT_DS_CFG.EN50 p.val) 1 else s
    if s1.presentAt p 1 then s1.wr (Reg.PT_DS_CFG.EN10 p.val) 1 else s1

/-- ENTER_S1 (R507, R508): `trained` names the memory channels trained or not fitted; each other one is left out with
MEM_UNCORR, unless the memory is isolated (R587). -/
def execEnterS1 (trained : BitVec 16) (s : State) : Host.Outcome State Fault Refusal :=
  ok (if !s.boot.released || !s.shl.latched || s.stage != 0 || s.flt.safe then s
    else
      let s1 := (List.finRange 16).foldl (fun s c => if trained.getLsbD c.val || s.flt.isolated .memory 0 then s else s.memEcc .MEM_UNCORR c) (s.setStage 1)
      ports.foldl (fun s p => s.enablePort p) s1)

/-- STAGE_LATE (R512): S2 has not been entered by S2_DEADLINE. -/
def execStageLate (s : State) : Host.Outcome State Fault Refusal :=
  ok (if s.boot.released && decide (s.stage < 2) && decide (s.rd Reg.BOOT_CFG.S2_DEADLINE * 1000000 ≤ s.now) then s.raise .STAGE_LATE srcBoot s.stage else s)

/-- ENTER_S3 (R511): S2_MIN has passed and every guild that an image segment names runs, but one held isolated. -/
def execEnterS3 (s : State) : Host.Outcome State Fault Refusal :=
  ok (if s.stage = 2 ∧ s.boot.s2At + max 1 (s.rd Reg.BOOT_CFG.S2_MIN) * 1000000 ≤ s.now ∧ s.boot.guilds.all (fun g => s.healthy g || s.flt.isolated .guild g) then
      (s.setStage 3).wr Reg.BOOT_LAST.REACHED_S3 1
    else s)

/-! Pins (R466, R514 to R517). -/

/-- PEND bits of FLT_STATUS. -/
def State.pendBits (s : State) : Nat := ([0, 1, 2].map (fun c => if s.pend c then 2 ^ c else 0)).sum

/-- A laser is on. -/
def State.anyLaser (s : State) : Bool := ports.any (fun p => s.txOn p 0 || s.txOn p 1)

/-- PARTNER_DARK_OUT is driven as the square wave (R351): while a laser is on, and after lasers went off for a release until its
OFF_WAIT has passed, with the liveness strobe fresh; released otherwise (log entry 174). -/
def State.darkOut (s : State) : Bool := !s.twn.dead && (s.anyLaser || s.twn.rels.any (fun r => !r.sent))

/-- Status outputs (Table 16-4). -/
def State.mxpStatus (s : State) : Nat :=
  s.rd Reg.BOOT_MXP_OUT.LED * 2 ^ 8 + s.stage * 2 ^ 6 + (if s.anyLaser then 2 ^ 5 else 0)
    + s.rd Reg.GLB_STRAPS.MXP / 32 % 2 * 2 ^ 4 + s.pendBits * 2 + s.now / 500000000 % 2

/-- Fault code of safe state, from FLT_FIRST[2] (Table 14-9). -/
def State.faultCode (s : State) : Nat :=
  match s.flt.first2 with
  | some m => m.kind.code * 2 ^ 8 + m.src.blk.code % 64 * 4 + m.src.inst % 4
  | none => 0

/-- MXP[15:0]: inputs until the strap window has ended, even in safe state; then status, or in safe state the fault code and its
complement by turns (R513 to R515). -/
def State.mxpOut (s : State) : Option Nat :=
  if !s.shl.latched then none
  else if s.flt.safe then some (if s.flt.mxpInv then 0xFFFF - s.faultCode else s.faultCode)
  else some s.boot.mxp

/-- The level MXP drives changed in the last 10 ms (R514). -/
def State.mxpRecent (s : State) : Bool := match s.boot.mxpAt with | some t => decide (s.now < t + 10000000) | none => false

/-- MXP_STATUS_UPDATE (R514): the driven status is brought up to date, at most once in 10 ms. -/
def execMxpStatusUpdate (s : State) : Host.Outcome State Fault Refusal :=
  ok (if !s.shl.latched || s.flt.safe || s.mxpStatus = s.boot.mxp || s.mxpRecent then s
    else { s with boot := { s.boot with mxp := s.mxpStatus, mxpAt := some s.now } })

/-- MXP_FAULT_TOGGLE (R515): in safe state the code and its complement take turns. -/
def execMxpFaultToggle (s : State) : Host.Outcome State Fault Refusal :=
  ok (if s.flt.safe then { s with flt := { s.flt with mxpInv := !s.flt.mxpInv } } else s)

/-- ALERT# asserted (R462, R517): before S2 it signals the twin's pairing; it is released for 10 µs at S2 entry. -/
def State.alert (s : State) : Bool :=
  if s.stage < 2 then
    (s.rd Reg.GLB_STRAPS.MXP).testBit 4 && s.twn.alive
      && (match s.twn.hb with | some h => h.role.testBit 7 != s.strapPrimary | none => false)
  else decide (s.boot.s2At + 10000 ≤ s.now) && s.pendBits != 0

/-! Boot commands (R525, R533). -/

/-- A boot command ends with a code, an event of PF vector 2 (Table 17-9). -/
def State.bootDone (s : State) (code : Nat) : State := (s.wr Reg.BOOT_STATUS.CODE code).msi 0 2

/-- A sector lies within the flash. -/
def sectorIn (n : Nat) : Bool := decide ((n + 1) * 4096 ≤ flashCap)

/-- A sector lies in the bank in use (R533). -/
def State.sectorUsed (s : State) (n : Nat) : Bool :=
  s.boot.applied && (match s.rd Reg.BOOT_IMAGE.BANK with
    | 0 => decide (n * 4096 < flashCap / 2)
    | 1 => decide (flashCap / 2 < (n + 1) * 4096)
    | _ => false)

/-- Bytes of a flash sector written. -/
def State.putSector (s : State) (n : Nat) (f : Nat → Byte) : State :=
  { s with boot := { s.boot with flash := (List.range 4096).foldl (fun t i => Tab.set flashErased t (n * 4096 + i) (f i)) s.boot.flash } }

/-- Key of a byte of the flash data buffer (R547), beyond the staging area. -/
abbrev bufKey (x : Nat) : Nat := 2 ^ 32 + x

/-- A byte FLASH_PROGRAM takes: byte `i` of page 0 of the host window (R547). -/
def State.programByte (s : State) (i : Nat) : Byte := Tab.get stageEmpty s.boot.stage (if s.bit Reg.CPG_CTRL.EN then bufKey i else i)

/-- Erase or program of a sector; one the flash reports an error on raises FLASH_ERR and is left with free bytes. -/
def State.flashCmd (s : State) (n : Nat) (err : Bool) (f : Nat → Byte) : State :=
  if !sectorIn n then s.bootDone 4
  else if s.sectorUsed n then s.bootDone 3
  else if err then
    let x := s.takeFree
    ((x.2.putSector n (fun i => BitVec.ofNat 8 (Config.freeValue x.1 / 256 ^ i))).raise .FLASH_ERR srcBoot (n * 4096)).bootDone 0
  else (s.putSector n f).bootDone 0

/-- A write of BOOT_CMD (Table 16-14); `err` is a flash error in it. A command during a fetch ends with BUSY. -/
def State.bootCmd (s : State) (ag : Agent) (v : Word) (err : Bool) : State :=
  s.gate ag Reg.BOOT_CMD.addr (fun s =>
    let op := fldOf v Reg.BOOT_CMD.OP
    let n := fldOf v Reg.BOOT_CMD.SECTOR
    if op = 0 ∨ 4 < op then s
    else if s.boot.fetching.isSome then s.bootDone 2
    else match op with
      | 1 => if s.stage ≠ 1 then s.bootDone 1
        else (({ s with boot := { s.boot with todo := [2] } } : State).wr Reg.BOOT_STATUS.CODE 0).nextBank
      | 2 => if s.stage ≠ 3 then s.bootDone 1
        else (s.wr Reg.BOOT_IMAGE.FLOOR (max (s.rd Reg.BOOT_IMAGE.FLOOR) (s.rd Reg.BOOT_IMAGE.SVN))).bootDone 0
      | 3 => s.flashCmd n err (fun _ => 0xFF#8)
      | _ => s.flashCmd n err (fun i => s.programByte i))

/-- HOST_IMAGE (R525): the image in the host window is fetched as bank 2. -/
def execHostImage (ag : Agent) (v : Word) (s : State) : Host.Outcome State Fault Refusal := ok (s.bootCmd ag (withCmd v 1) false)

/-- SVN_COMMIT (R533). -/
def execSvnCommit (ag : Agent) (v : Word) (s : State) : Host.Outcome State Fault Refusal := ok (s.bootCmd ag (withCmd v 2) false)

/-- FLASH_ERASE (R533). -/
def execFlashErase (ag : Agent) (v : Word) (err : Bool) (s : State) : Host.Outcome State Fault Refusal := ok (s.bootCmd ag (withCmd v 3) err)

/-- FLASH_PROGRAM (R533, R547). -/
def execFlashProgram (ag : Agent) (v : Word) (err : Bool) (s : State) : Host.Outcome State Fault Refusal := ok (s.bootCmd ag (withCmd v 4) err)

/-! Provisioning and firmware of the Steward (R526, R527, R530 to R532, R453). -/

/-- The response to the OMCI record in hand taken by the Steward (R526, R527). -/
def State.takeOmci (s : State) (p : Fin 32) (i : Nat) (good : Bool) : State :=
  if !(s.provOf p i).waiting then s
  else if good then s.nextOmci p i else s.templateFail p i

/-- OMCI_RESPONSE_RX (R526, R527, R349, R531): the response reaches the Steward, or waits while it does not run. -/
def execOmciResponseRx (p : Fin 32) (slot : Fin 256) (good : Bool) (s : State) : Host.Outcome State Fault Refusal :=
  ok (if !s.owned p.val then s
    else if s.stw.paused then s.forSteward (.omci p.val slot.val good)
    else s.takeOmci p slot.val good)

/-- A message that waited reaches the Steward (R531). -/
def State.takeMsg (s : State) (m : StwMsg) : State :=
  match m with
  | .registration p i r => if s.owned p then s.takeRegistration (Fin.ofNat 32 p) i r else s
  | .keyReport p i dk sk => if s.owned p then s.takeKeyReport (Fin.ofNat 32 p) i dk sk else s
  | .omci p i good => if s.owned p then s.takeOmci (Fin.ofNat 32 p) i good else s

/-- VALIDATE (R530): `bad` is the reason the blob is not authentic. -/
def State.fwValidate (s : State) (bad : Option Nat) : State :=
  match bad with
  | none => s.wr Reg.STW_FW_STATUS.RESULT 2
  | some r => (s.wr Reg.STW_FW_STATUS.RESULT 3).raise .STW_FW_REJECTED srcBoot r

/-- The Steward's cores stop and the other bank starts (R531): hunts stop; what needs the Steward waits for its READY. -/
def State.fwStart (s : State) : State :=
  let s1 : State := { s with stw := { s.stw with paused := true }, boot := { s.boot with fwOther := s.bit Reg.STW_FW_STATUS.READY, wdogs := [] } }
  let s2 := ports.foldl (fun s p => s.setTreeSt p { s.tree p with hunt := none }) s1
  ((s2.wr Reg.STW_FW_STATUS.RUNNING (1 - s2.rd Reg.STW_FW_STATUS.RUNNING)).wr Reg.STW_FW_STATUS.READY 0).wr Reg.STW_FW_STATUS.RESULT 0

/-- SWITCH (R531): accepted while RESULT is 2; COVER gives the trees READY at the partner away first. -/
def State.fwSwitch (s : State) : State :=
  if s.rd Reg.STW_FW_STATUS.RESULT ≠ 2 then s
  else
    let l := if s.bit Reg.STW_FW_CTRL.COVER && s.bit Reg.TWN_CFG.EN then ports.filter (fun p => s.owned p.val && s.hbBit Hb.ready p) else []
    let s1 := s.release 5 l false
    let s2 := ({ s1 with twn := { s1.twn with cover := s1.twn.cover ++ l } } : State).fwStart
    { s2 with boot := { s2.boot with fwSwitch := some s2.now } }

/-- A write of STW_FW_CTRL (Table 16-17). -/
def State.fwCtrl (s : State) (ag : Agent) (v : Word) (bad : Option Nat) : State :=
  s.gate ag Reg.STW_FW_CTRL.addr (fun s =>
    let s1 := s.storeWord ag Reg.STW_FW_CTRL.addr v
    let s2 := if fldOf v Reg.STW_FW_CTRL.VALIDATE = 1 then s1.fwValidate bad else s1
    if fldOf v Reg.STW_FW_CTRL.SWITCH = 1 then s2.fwSwitch else s2)

/-- STW_FW_VALIDATE (R530). -/
def execStwFwValidate (ag : Agent) (v : Word) (bad : Option (Fin 10)) (s : State) : Host.Outcome State Fault Refusal :=
  ok (s.fwCtrl ag (v ||| 0x80000000#32) (bad.map (·.val)))

/-- STW_FW_SWITCH (R531). -/
def execStwFwSwitch (ag : Agent) (v : Word) (s : State) : Host.Outcome State Fault Refusal :=
  ok (s.fwCtrl ag ((v ||| 0x40000000#32) &&& 0x7FFFFFFF#32) none)

/-- STW_FW_READY (R531, R102): the running firmware, started anew or a core of it restarted (log entry 165), reports ready:
Ranging_Time messages that waited leave, messages that waited are taken, and a command the Steward had not taken; covered
trees are taken back. -/
def execStwFwReady (s : State) : Host.Outcome State Fault Refusal :=
  ok (if s.bit Reg.STW_FW_STATUS.READY && !s.stw.paused then s
    else
      let wait := s.stw.rtWait
      let s1 := ({ s with stw := { s.stw with paused := false, rtWait := [], inbox := [] } } : State).wr Reg.STW_FW_STATUS.READY 1
      let s2 := wait.foldl (fun s k =>
        let p : Fin 32 := Fin.ofNat 32 (k / 256)
        let x := s.slot p (k % 256)
        if x.state.inService && s.owned p.val then s.sendRangingTime p x.side (k % 256) (x.newEqd.getD x.eqd) else s) s1
      let s3 := ports.foldl (fun s p => match (s.tree p).cmd with
        | some c => (s.setTreeSt p { s.tree p with cmd := none }).actCmd p c.1 c.2
        | none => s) (s.stw.inbox.foldl State.takeMsg s2)
      s3.coverBack)

/-- The device returns to the previous bank (R532). -/
def State.fwFallback (s : State) : State :=
  let s1 := s.fwStart
  (({ s1 with boot := { s1.boot with fwSwitch := none } } : State).inc Cnt.BOOT_STW_RESTARTS).raise .STW_FW_FALLBACK srcBoot (s1.rd Reg.STW_FW_STATUS.RUNNING)

/-- STW_FW_FALLBACK (R532): no ready within 100 ms of SWITCH. -/
def execStwFwFallback (s : State) : Host.Outcome State Fault Refusal :=
  ok (if s.boot.fwSwitch.isSome && !s.bit Reg.STW_FW_STATUS.READY then s.fwFallback else s)

/-- STEWARD_WDOG (R453, R532, R102): within 1 s of SWITCH, or the third within 60 s with a bank to go back to, it returns to the
previous bank; else the core restarts, and until it reports ready the Steward does not run. -/
def execStewardWdog (core : Fin 4) (pc : BitVec 32) (s : State) : Host.Outcome State Fault Refusal :=
  let l := (s.boot.wdogs.filter (fun t => decide (s.now < t + 60000000000))) ++ [s.now]
  let s1 := ({ s with boot := { s.boot with wdogs := l } } : State).raise .STEWARD_WDOG ⟨.STW, core.val⟩ pc.toNat
  let soon := match s.boot.fwSwitch with | some t => decide (s.now ≤ t + 1000000000) | none => false
  ok (if soon || (decide (3 ≤ l.length) && s.boot.fwOther) then s1.fwFallback
    else ({ s1 with stw := { s1.stw with paused := true } } : State).inc Cnt.BOOT_STW_RESTARTS)

end Sys2Proof.Machine
end

