-- ==== Sys2Proof/Machine/Banks.lean ====
section
/-! DEFINITION. Banks of the configuration image as bytes: header, section table, and the sections whose layout the spec gives
byte by byte (16_startup_and_live_update.md R518 to R521, R524, Tables 16-5 to 16-8; 06_journeyman_engines.md Table 6-7). -/

namespace Sys2Proof.Machine

set_option autoImplicit false

/-- A byte of a bank: of the flash, or of the staging area that holds a host image (R518, R525). -/
def State.imgByte (s : State) (b off : Nat) : Byte :=
  if b = 2 then Tab.get stageEmpty s.boot.stage off else s.flashByte (bankBase b + off)

/-- Bytes of a bank. -/
def State.imgBytes (s : State) (b off n : Nat) : List Byte := (List.range n).map (fun i => s.imgByte b (off + i))

/-- An integer field of a bank, little-endian. -/
def State.imgNat (s : State) (b off n : Nat) : Nat := leNat (s.imgBytes b off n)

/-- BODY_LEN. -/
def State.bodyLen (s : State) (b : Nat) : Nat := s.imgNat b 0x010 4

/-- Header fields lie in the ranges of Table 16-5. -/
def State.headerOk (s : State) (b : Nat) : Bool :=
  s.imgNat b 0x000 4 == 0x464A4749 && s.imgNat b 0x004 2 == 1 && s.imgNat b 0x006 2 == 512 && s.imgNat b 0x008 4 != 0
    && decide (s.imgNat b 0x00C 4 < 256) && decide (16 ≤ s.bodyLen b) && decide (s.bodyLen b ≤ 62914048)
    && decide (1 ≤ s.imgNat b 0x014 4) && decide (s.imgNat b 0x014 4 ≤ 256) && s.imgNat b 0x0B9 7 == 0 && s.imgNat b 0x120 224 == 0

/-- PART, REV and SERIAL name this device. -/
def State.headerMine (s : State) (b : Nat) : Bool :=
  s.imgNat b 0x018 4 == 0x5032 && s.imgNat b 0x01C 4 == 0xA && (s.imgNat b 0x020 8 == 0 || s.imgNat b 0x020 8 == Config.serial)

/-! The section table. -/

/-- An entry of the section table. -/
structure Section_ where
  type_ : Nat
  required : Bool
  off : Nat
  len : Nat
deriving DecidableEq, Repr

/-- The section table of a bank's body. -/
def State.sections (s : State) (b : Nat) : List Section_ :=
  (List.range (s.imgNat b 0x014 4)).map (fun i =>
    let e := 512 + 16 * i
    ⟨(s.imgByte b e).toNat, (s.imgByte b (e + 1)).getLsbD 0, s.imgNat b (e + 4) 4, s.imgNat b (e + 8) 4⟩)

/-- A section after those before it keeps the rules of R521. -/
def sectionOk (body : Nat) (before : List Section_) (x : Section_) : Bool :=
  decide (x.off + x.len ≤ body)
    && !before.any (fun y => decide (x.off < y.off + y.len ∧ y.off < x.off + x.len))
    && (x.type_ == 2 || !before.any (fun y => y.type_ == x.type_))
    && (!x.required || (decide (1 ≤ x.type_) && decide (x.type_ ≤ 12)))
    && (x.type_ != 8 || (x.len % 56 == 0 && decide (x.len / 56 ≤ 16383)))

/-- The first section that breaks a rule of R521. -/
def badSection (body : Nat) (l : List Section_) : Option Nat :=
  l.zipIdx.findSome? (fun x => if sectionOk body (l.take x.2) x.1 then none else some x.2)

/-- Why a bank is refused before anything of it is applied, with the section index for reason 7 (R519, Table 16-20): the first
reason that holds, a flash read error before the others (DESIGN CHOICE, log entry 178). Hashes and the signature are checked
over bytes that only the flash holds: their outcomes are given (log entry 173). -/
def State.bankReason (s : State) (b : Nat) (v : Option BankVerdict) : Option (Nat × Nat) :=
  if v = some .flashRead then some (9, 0)
  else if !s.headerOk b then some (1, 0)
  else if !s.headerMine b then some (2, 0)
  else if v = some .keyHash then some (3, 0)
  else if v = some .signature then some (4, 0)
  else if s.imgNat b 0x00C 4 < s.rd Reg.BOOT_IMAGE.FLOOR then some (5, 0)
  else if v = some .bodyHash then some (6, 0)
  else (badSection (s.bodyLen b) (s.sections b)).map (fun i => (7, i))

/-! Sections as bytes. -/

/-- Index of the `n`-th section of a type. -/
def sectionIx (l : List Section_) (t n : Nat) : Nat := (((l.zipIdx).filter (fun x => x.1.type_ == t)).map (·.2)).getD n 0

/-- Bytes of the section of a type, none where the bank has none. -/
def State.sectionBytes (s : State) (b t : Nat) : Option (List Byte) :=
  ((s.sections b).find? (fun x => x.type_ == t)).map (fun x => s.imgBytes b (512 + x.off) x.len)

/-- Bytes in pieces of `n`. -/
def pieces (n : Nat) (l : List Byte) : List (List Byte) := (List.range (l.length / n)).map (fun i => sliceZ l (n * i) n)

/-- Little-endian words of bytes. -/
def bytesWords (l : List Byte) : List Word := (pieces 4 l).map (fun x => BitVec.ofNat 32 (leNat x))

/-- An integer field of a piece of bytes. -/
def fldAt (l : List Byte) (off n : Nat) : Nat := leNat (sliceZ l off n)

/-- Register writes of a DEVICE section. -/
def deviceOf (l : List Byte) : List DevWr :=
  (pieces 12 l).map (fun x => ⟨fldAt x 0 4, BitVec.ofNat 32 (fldAt x 4 4), BitVec.ofNat 32 (fldAt x 8 4)⟩)

/-- Segments of an ENGINE section, one after the other, each for every guild its header names (Table 6-7). -/
def segmentsOf : Nat → List Byte → List (Nat × List Word)
  | 0, _ => []
  | n + 1, l =>
    if l.length < 64 then []
    else
      let len := 64 + 8 * fldAt l 0x08 4 + fldAt l 0x0C 4 + fldAt l 0x10 4
      ((List.range 64).filter (fun g => (fldAt l 0x2C 8).testBit g)).map (fun g => (g, bytesWords (l.take len))) ++ segmentsOf n (l.drop len)

/-- Chunks of the algorithm code, 64 bytes to an index of the code store. -/
def algOf (l : List Byte) : List (Nat × List Word) := (List.range ((l.length + 63) / 64)).map (fun i => (i, bytesWords (sliceZ l (64 * i) 64)))

/-- Authorization entries (Table 16-7). -/
def authEntries (l : List Byte) : List Auth :=
  (pieces 56 l).map (fun x => ⟨beNat (sliceZ x 0 8), fldAt x 8 1, fldAt x 9 1, fldAt x 10 1, fldAt x 11 1,
    if fldAt x 12 1 = 0 then none else some (beNat (sliceZ x 16 36)), fldAt x 14 2⟩)

/-- A template record and the bytes after it (Table 16-8); one with another OP does nothing. -/
def recordOf (l : List Byte) : Option TRec × List Byte :=
  let np := fldAt l 3 1
  let data := 16 + 8 * np
  let len := 4 * fldAt l 2 1
  let ps := (List.range np).map (fun i => let o := 16 + 8 * i; (⟨fldAt l o 1, fldAt l (o + 1) 1, fldAt l (o + 2) 2, fldAt l (o + 4) 2⟩ : Patch))
  let r := match fldAt l 0 1 with
    | 1 => some (TRec.win (fldAt l 1 1) (fldAt l 4 4) (fldAt l 8 4) (fldAt l 12 4) ps (bytesWords (sliceZ l data len)))
    | 2 => some (TRec.omci (sliceZ l data len))
    | _ => none
  (r, l.drop (data + len))

/-- Records of a template and the bytes after them. -/
def recordsOf : Nat → List Byte → List TRec × List Byte
  | 0, l => ([], l)
  | n + 1, l =>
    let r := recordOf l
    let t := recordsOf n r.2
    (r.1.toList ++ t.1, t.2)

/-- Templates of a TEMPLATE section, one after the other. -/
def templatesOf : Nat → List Byte → List Template
  | 0, _ => []
  | n + 1, l =>
    if l.length < 8 then []
    else
      let r := recordsOf (fldAt l 4 2) (l.drop 8)
      ⟨fldAt l 0 2, (fldAt l 2 2).testBit 0, r.1⟩ :: templatesOf n r.2

/-- Entries of a LINKROOT section that carry this device's serial number, still sealed (R523, R524). -/
def linksOf (l : List Byte) : List (List Byte) := (pieces 72 l).filter (fun x => fldAt x 0 8 == Config.serial)

/-- What the sections of a bank hold: those whose layout the spec gives, from the bank's bytes; of the others, where the bank has
them, what `p` says (log entry 178). -/
def State.imageOf (s : State) (b : Nat) (p : ImageParts) : Image :=
  let sec := fun (t : Nat) => s.sectionBytes b t
  let bytes := fun (t : Nat) => (sec t).getD []
  let on := fun (t : Nat) => (sec t).isSome
  { gen := s.imgNat b 0x008 4, svn := s.imgNat b 0x00C 4
    device := deviceOf (bytes 1)
    tables := p.tables.take ((s.sections b).filter (fun x => x.type_ == 2)).length
    ledger := if on 3 then p.ledger else []
    cells := if on 4 then p.cells else []
    segments := segmentsOf (bytes 5).length (bytes 5)
    alg := (sec 6).map algOf
    fsi := if on 7 then p.fsi else []
    auth := authEntries (bytes 8)
    templates := templatesOf (bytes 9).length (bytes 9)
    links := linksOf (bytes 10)
    golden := if on 11 then p.golden else [] }

end Sys2Proof.Machine
end

