-- ==== Sys2Proof/Machine/Receive.lean ====
section
/-! DEFINITION. Burst reception, stray light, presets, alignment and upstream messages (02_pon_line_framing.md R41 to R63;
03_activation_and_ranging.md R82, R91 to R94; 10_twin_protection.md R345, R348, R353; 09_encryption_and_keys.md R311). -/

namespace Sys2Proof.Machine

set_option autoImplicit false

/-- Update of a preset (Table of R63). -/
def State.setPreset (s : State) (p : Fin 32) (sd slot : Nat) (x : Preset) : State :=
  { s with pon := { s.pon with presets := Tab.set (fun _ => Preset.none) s.pon.presets ((p.val * 2 + sd) * 256 + slot) x } }

/-- BURST_START (R50): the next burst in order of arrival begins, and the preset of its ONU is loaded, valid or not; with none
stored the receiver starts from the neutral setting. In a quiet span no preset is loaded (R392). A ranging burst is awaited in
its own window. -/
def execBurstStart (p : Fin 32) (sd : Side) (s : State) : Host.Outcome State Fault Refusal :=
  if s.flt.safe then ok s else
  let x := s.side p sd.n
  match x.rxq with
  | [] => ok s
  | e :: t =>
    let load := if x.rx = .quiet then RxLoop.quiet else if (s.preset p sd.n e.burst.onu).known then RxLoop.burst (some e.burst.onu) else RxLoop.burst none
    ok (s.setSide p sd.n { x with rxq := t, cur := if e.burst.ordinary then some e else none, found := none, missed := false, rx := load })

/-- Best of the candidate delimiters, as (offset, bit errors), within the half-width and tolerance: fewest errors, then
earliest (R54, R55). -/
def bestDelim (w tol : Nat) (cands : List (Int × Nat)) : Option Int :=
  ((cands.filter (fun c => decide (c.1.natAbs ≤ w) && decide (c.2 ≤ tol))).foldl (fun (best : Option (Int × Nat)) c =>
    match best with
    | none => some c
    | some b => if c.2 < b.2 ∨ (c.2 = b.2 ∧ c.1 < b.1) then some c else best) none).map (·.1)

/-- Insertion into a rising list. -/
def insertInt (x : Int) : List Int → List Int
  | [] => [x]
  | y :: t => if x ≤ y then x :: y :: t else y :: insertInt x t

/-- Median of a list: of an even number the mean of the middle two, rounded (R590). -/
def median (l : List Int) : Int :=
  let q := l.foldl (fun a x => insertInt x a) []
  let n := q.length
  if n % 2 = 1 then q[n / 2]?.getD 0 else roundDiv (q[n / 2 - 1]?.getD 0 + q[n / 2]?.getD 0) 2

/-- US_ADJ of a side in 50G bit periods (Table 10-16). -/
def State.usAdj (s : State) (p : Fin 32) (sd : Nat) : Int :=
  if sd = 0 then s.rdInt (Reg.TWN_PORT_W1.US_ADJ50 p.val) else s.rdInt (Reg.TWN_PORT_W2.US_ADJ10 p.val)

/-- Store of US_ADJ. -/
def State.setUsAdj (s : State) (p : Fin 32) (sd : Nat) (v : Int) : State :=
  if sd = 0 then s.wr (Reg.TWN_PORT_W1.US_ADJ50 p.val) (intBits 24 v) else s.wr (Reg.TWN_PORT_W2.US_ADJ10 p.val) (intBits 24 v)

/-- 50G bit periods of one bit at a rate row. -/
def periods (row : Nat) : Int := if row = 3 then 5 else upb row

/-- The bursts of frame `n` have wide windows (R353). -/
def PonSide.wideAt (x : PonSide) (n : Nat) : Bool := x.wide != 0 && (match x.wideFrom with | some k => decide (k ≤ n) | none => false)

/-- WIDE_WINDOW_ADJUST (R353): after the bursts of frame `n` in wide windows, US_ADJ takes the median of the offsets found,
or, with none found, the windows stay wide for a further frame, for at most 8. -/
def State.wideDone (s : State) (p : Fin 32) (sd n : Nat) : State :=
  let x := s.side p sd
  let k := p.val * 2 + sd
  let offs := Tab.get (fun _ => []) s.twn.wideOffs k
  if x.wideAt n = false then s
  else if offs = [] then (s.setSide p sd { x with wide := x.wide - 1 }).inc Cnt.TWN_WIDE_EMPTY
  else
    let s1 := (s.setSide p sd { x with wide := 0 }).setUsAdj p sd (s.usAdj p sd + median offs)
    { s1 with twn := { s1.twn with wideOffs := Tab.set (fun _ => []) s1.twn.wideOffs k [] } }

/-- A burst of a side was received: the loss run ends and the US_LOSS cause with it (R61). -/
def State.sideHeard (s : State) (p : Fin 32) (sd : Nat) : State :=
  let f := if sd = 0 then Reg.PT_US_STATUS.US_LOSS50 p.val else Reg.PT_US_STATUS.US_LOSS10 p.val
  ((s.setSide p sd { s.side p sd with lossRun := 0 }).wr f 0).endCause .US_LOSS (srcPt p) sd

/-- The frame now being sent noted as one in which a burst was received (SEEN50, SEEN10 of Table 10-4). -/
def State.markHeard (s : State) (p : Fin 32) (sd : Nat) : State :=
  let x := s.side p sd
  if x.heard.contains (s.sfc p) then s else s.setSide p sd { x with heard := (s.sfc p :: x.heard).take 4 }

/-- An ordinary burst of frame `n` is settled, received or missed (R61): a frame whose bursts are all settled with none
received lengthens the loss run. -/
def State.settleBurst (s : State) (p : Fin 32) (sd n : Nat) (got : Bool) : State :=
  let s0 := if got then (s.sideHeard p sd).markHeard p sd else s
  let x := s0.side p sd
  let fs := x.ordFrames.map (fun f => if f.1 = n then (f.1, f.2.1 - 1, f.2.2 || got) else f)
  let done := fs.find? (fun f => decide (f.1 = n) && decide (f.2.1 = 0))
  let rest := fs.filter (fun f => f.2.1 ≠ 0)
  match done with
  | none => s0.setSide p sd { x with ordFrames := fs }
  | some f =>
    let run := if f.2.2 then 0 else x.lossRun + 1
    (s0.setSide p sd { x with ordFrames := rest, lossRun := run, lossSfc := if run = 3 then n else x.lossSfc }).wideDone p sd n

/-- Request of a re-ranging grant (R91, R92): one at a time, and none while a new EqD is on its way; no shadow asks for
one (R349). -/
def State.requestRerange (s : State) (p : Fin 32) (i : Nat) (hold : Bool) : State :=
  let x := s.slot p i
  if s.owned p.val = true ∧ x.state = .active ∧ x.range = .none ∧ x.newEqd = none then s.setSlot p i { x with range := .due, hold := x.hold || hold, tries := 0 } else s

/-- BURST_MISSED (R52, R57, R61, R88, R89, R92, R93, R95, R491): counted, toward PM and LOST, and a missed SHORT burst
invalidates the preset. A burst of a map built before a hold is not counted, but for one of the map whose re-ranging response
asked for it. A shadow counts it and takes no activation action (R349). -/
def State.burstMissed (s : State) (p : Fin 32) (sd : Nat) (e : Exp) : State :=
  let i := e.burst.onu
  let x := s.slot p i
  let held := decide (e.sfc < x.holdFrom) && decide (x.respAt ≠ some e.sfc)
  let s1 := if held then s else
    let s1 := (s.inc (Cnt.PT_BURSTS_MISSED p.val sd)).pmMod (onuRec p i) (fun a => { a with miss := a.miss + 1 })
    if x.state = .active ∧ e.burst.kind ≠ .ploam then s1.pmMod (portRec p sd) (fun a => { a with miss := a.miss + 1 }) else s1
  let s2 := if e.short then
      (s1.setPreset p sd i { s1.preset p sd i with valid := false }).inc (Cnt.PT_PRESET_MISS p.val sd)
    else s1
  let s3 := s2.settleBurst p sd e.sfc false
  let x := s3.slot p i
  if held || s3.shadow p then s3
  else
    let s4 := s3.setSlot p i { x with missed := min 255 (x.missed + 1), seen := none }
    if x.state = .active then
      let s5 := if s4.lobBursts p ≤ x.missed + 1 then s4.toLost p i else s4
      match x.seen with
      | some wide => s5.requestRerange p i wide
      | none => s5
    else s4

/-- Window half-width at the close: wide after a takeover (Table 10-6). -/
def wideWidth (row : Nat) : Nat := match row with | 0 => 64 | 1 => 48 | _ => 32

/-- DELIM_WINDOW_CLOSE (R54 to R57): the best delimiter of the window is accepted, or the burst is missed. `cands` are
the delimiters correlated, as (position minus P, bit errors). -/
def execDelimWindowClose (p : Fin 32) (sd : Side) (cands : List (Int × Nat)) (s : State) : Host.Outcome State Fault Refusal :=
  let x := s.side p sd.n
  match x.cur with
  | none => ok s
  | some e =>
    if x.found.isSome || x.missed then ok s
    else
      let w := if x.wideAt e.sfc then wideWidth e.burst.row else e.wide
      match bestDelim w (min 8 (s.rd (Reg.PT_US_CFG.DELIM_TOL p.val))) cands with
      | some d => ok (s.setSide p sd.n { x with found := some d })
      | none => ok ((s.setSide p sd.n { x with missed := true }).burstMissed p sd.n e)

/-- Mean of the last 8 recorded offsets in eighths of a bit, none before 8 are recorded (R91, DEDUCED, log entry 16). -/
def Slot.sum8 (x : Slot) : Option Int := if x.offs.length < 8 then none else some (x.offs.foldl (· + ·) 0)

/-- ARRIVAL_TRACKING and EQD_TRIM (R91, R93, R94): the offset is recorded; one above RERANGE_THR asks for a re-ranging
grant, above 64 bits with the hold of R93; a mean at or above TRIM_THR trims EqD, which never occurs with TRIM_THR at or above
RERANGE_THR (Table 3-5). -/
def State.track (s : State) (p : Fin 32) (sd i : Nat) (d : Int) : State :=
  let x := s.slot p i
  let s1 := s.setSlot p i { x with offs := (x.offs ++ [d]).drop (x.offs.length + 1 - 8) }
  if s.rerangeThr p < d.natAbs then s1.requestRerange p i (decide (64 < d.natAbs))
  else
    let y := s1.slot p i
    match y.sum8 with
    | none => s1
    | some t =>
      if y.range = .none ∧ y.newEqd = none ∧ s.trimThr p < s.rerangeThr p ∧ 8 * s.trimThr p ≤ t.natAbs then
        (s1.inc (Cnt.ACT_EQD_TRIMS p.val sd)).holdFor p i (y.eqd - roundDiv t 8)
      else s1

/-- LOST_RECOVERED (Table 3-4): a burst of a LOST ONU received in its window returns it to ACTIVE with EqD unchanged. -/
def State.recover (s : State) (p : Fin 32) (i : Nat) : State :=
  let x := s.slot p i
  ((s.setSlot p i { x with state := .active, offs := [], missed := 0, tries := 0 }).dropAnn (slotKey p i)).inc (Cnt.ACT_LOST_RECOVERED p.val x.side)

/-- MEAN_O of an ONU in eighths of a bit at its rate: the owner's mean offset of the mirrored slot table, 0 with none. -/
def State.meanO (s : State) (p : Fin 32) (i : Nat) : Int := ((s.slot p i).sum8).getD 0

/-- The sample of R345 in ps, from the arrival offset `d` of an ordinary burst, reckoned from a position that holds US_ADJ
(R348). -/
def State.deltaSampleOf (s : State) (p : Fin 32) (sd : Nat) (e : Exp) (d : Int) : Int :=
  let phi := (s.twinTree p).offO - s.rdInt (Reg.PT_PHASE.OFFSET p.val)
  let eighths := 8 * s.usAdj p sd + (8 * d - s.meanO p e.burst.onu) * periods e.burst.row - 8 * phi
  roundDiv (eighths * 10000000) (8 * 497664) + s.rdInt Reg.TWN_TAU.TAU

/-- DELTA_SAMPLE (R345, R347): a sample within 5 ns of DELTA is accepted; DELTA is the mean of the last 1,024. The first sample has no DELTA to be held against (DEDUCED, log entry 15). -/
def State.deltaSample (s : State) (p : Fin 32) (v : Int) : State :=
  let t := s.twinTree p
  let old := s.rdInt (Reg.TWN_PORT_W0.DELTA p.val)
  if t.samples ≠ [] ∧ 5000 < (v - old).natAbs then s.inc Cnt.TWN_DELTA_REJECT
  else
    let l := (t.samples ++ [(v, s.now)]).drop (t.samples.length + 1 - 65535)
    let last := l.drop (l.length - 1024)
    let d := roundDiv (last.foldl (fun a x => a + x.1) 0) last.length
    let s1 := (s.setTwinTree p { t with samples := l }).wr (Reg.TWN_PORT_W0.DELTA p.val) (intBits 32 d)
    if 50000000 < d.natAbs ∧ old.natAbs ≤ 50000000 then
      s1.raise .DELTA_RANGE ⟨.TWN, 0⟩ (portAddr p 0 (intBits 32 (roundDiv d 1000))) else s1

/-- US_ADJ of a shadow tree (R348): the mean arrival offset of the side's last 64 ordinary bursts, less each ONU's mean. -/
def State.adjSample (s : State) (p : Fin 32) (sd : Nat) (e : Exp) (d : Int) : State :=
  let k := p.val * 2 + sd
  let v := s.usAdj p sd + (d - roundDiv (s.meanO p e.burst.onu) 8) * periods e.burst.row
  let l0 := Tab.get (fun _ => []) s.twn.adj k ++ [v]
  let l := l0.drop (l0.length - 64)
  let s1 : State := { s with twn := { s.twn with adj := Tab.set (fun _ => []) s.twn.adj k l } }
  s1.setUsAdj p sd (roundDiv (l.foldl (· + ·) 0) l.length)

/-- Allocation index of an Alloc-ID on a side. -/
def State.allocOfId (s : State) (p : Fin 32) (sd id : Nat) : Option Nat :=
  (List.range 1024).find? (fun i => s.bit (Win.ALLOC_EN (allocIx p i)) && s.rd (Win.ALLOC_SIDE (allocIx p i)) == sd && s.rd (Win.ALLOC_ID (allocIx p i)) == id)

/-- The CRC-8 of a DBRu holds over its occupancy (Table 2-6). -/
def dbruGood (occ : BitVec 24) (crc : BitVec 8) : Bool := crc8 (beBytes 3 occ.toNat) == crc

/-- Status reports stored with their frame (R114), in bytes; one whose CRC-8 fails is discarded (Table 2-6). -/
def State.storeReports (s : State) (p : Fin 32) (sd n : Nat) (l : List (Nat × BitVec 24 × BitVec 8)) : State :=
  l.foldl (fun s r => match s.allocOfId p sd r.1 with
    | some i => if dbruGood r.2.1 r.2.2 then s.setAlloc p i { s.alloc p i with report := 4 * r.2.1.toNat, repFrame := some n } else s
    | none => s) s

/-- PKT_UNDER (R126): an allocation that delivers more frames than the cost of its grant is reckoned at 72 bytes for the
next 64 frames. -/
def State.pktUnder (s : State) (p : Fin 32) (sd : Nat) (gs : List Grant) (l : List (Nat × Nat)) : State :=
  l.foldl (fun s r => match s.allocOfId p sd r.1 with
    | some i =>
      let g := ((gs.filter (fun g => g.idx = i)).map (·.g)).sum
      if s.grantCost p i g < r.2 then (s.setAlloc p i { s.alloc p i with under := 64 }).inc (Cnt.WHF_PKT_UNDER p.val sd) else s
    | none => s) s

/-- Counts of a received burst's codewords and headers (Table 2-6, R491). -/
def State.burstCounts (s : State) (p : Fin 32) (sd i : Nat) (b : BurstRx) : State :=
  let h := if b.hdr.isNone then 1 else 0
  let s1 := ((((s.count (Cnt.PT_FEC_CW p.val sd) b.cw).count (Cnt.PT_FEC_CW_CORRECTED p.val sd) b.corr).count
    (Cnt.PT_FEC_CW_UNCORR p.val sd) b.unc).count (Cnt.PT_HDR_HEC_ERR p.val sd) h).count (Cnt.PT_XGEM_HEC_ERR p.val sd) b.hec
  let s2 := if b.bip then s1.inc (Cnt.PT_BIP_ERR p.val sd) else s1
  let f := fun (a : PmAcc) => { a with cw := a.cw + b.cw, unc := a.unc + b.unc, hec := a.hec + b.hec + h }
  (s2.pmMod (onuRec p i) f).pmMod (portRec p sd) f

/-- A stray event seen in a hunt's watch (R97): one of the kinds that triggered the hunt, in the 16 frames that begin after
the one that carried the disable message. -/
def Hunt.watch (h : Hunt) (sfc : Nat) (r : StrayRec) : Hunt :=
  match h.sentAt with
  | some k =>
    if h.side = r.side ∧ k + 1 ≤ sfc ∧ sfc ≤ k + 16 ∧ (if r.window then h.byWindow else h.byEnergy) = true then { h with stray := true } else h
  | none => h

/-- A STRAY_LIGHT event, recorded for a hunt unless R82 leaves it out: events are kept from the opening of the port's filter
window (R96), which any event may open. -/
def State.strayRecord (s : State) (p : Fin 32) (r : Option StrayRec) : State :=
  let t := s.tree p
  let f := Tab.get (fun _ => FilterSt.idle) s.flt.filters (filterKey .STRAY_LIGHT (srcPt p))
  let c := KindCfg.ofWord (s.kindCfg .STRAY_LIGHT)
  let keep := f.severe || (match f.open_ with | some t0 => decide (s.now < t0 + c.win) | none => false)
  s.setTreeSt p { t with strays := (if keep then t.strays else []) ++ r.toList
                         hunt := match r with | some e => t.hunt.map (fun h => h.watch (s.sfc p) e) | none => t.hunt }

/-- STRAY_LIGHT raised on a side; the message that turns the port's source severe names the side of a hunt (R96). -/
def State.strayRaise (s : State) (p : Fin 32) (sd rest : Nat) : State :=
  let s1 := s.raise .STRAY_LIGHT (srcPt p) (portAddr p sd rest)
  if !s.straySevere p && s1.straySevere p then s1.setTreeSt p { s1.tree p with severe := some sd } else s1

/-- Stray light of type WINDOW (R59, R65). -/
def State.strayWindow (s : State) (p : Fin 32) (sd : Nat) (onu : Option Nat) (off : Option Int) (record : Bool) : State :=
  let o := match onu with | some x => x % 1024 | none => 0x3FF
  let v := match off with | some d => intBits 16 d | none => 0x8000
  let s1 := s.strayRecord p (if record then some ⟨sd, true, onu.toList⟩ else none)
  (s1.inc (Cnt.PT_STRAY_WINDOW p.val sd)).strayRaise p sd (o * 2 ^ 16 + v)

/-- A burst received (R44, R49, R50): counted, toward its map and its preset, which is relearned at a margin that allows it
unless a quiet span holds the loop; the slot's missed bursts start over where this device counts them (R349). -/
def State.burstTaken (s : State) (p : Fin 32) (sd : Nat) (e : Exp) (b : BurstRx) (learn : Bool) : State :=
  let i := e.burst.onu
  let s1 := (s.inc (Cnt.PT_BURSTS_RECEIVED p.val sd)).settleBurst p sd e.sfc true
  let s2 := if e.short then s1.inc (Cnt.PT_PRESET_HIT p.val sd) else s1
  let s3 := if s.rd (Reg.PT_PRESET_CFG.MARGIN_MIN p.val) ≤ b.margin.toNat ∧ learn = true then
      s2.setPreset p sd i ⟨true, true, s.now, s.temp (p.val / 4), b.margin.toNat, b.settings.toNat⟩ else s2
  if s3.shadow p then s3 else s3.setSlot p i { s3.slot p i with missed := 0, seen := none }

/-- The offset of a received burst (R88, R91, R94, R353): kept among those of a wide window after a takeover, else tracked; a LOST
ONU recovers. -/
def State.offsetSeen (s : State) (p : Fin 32) (sd : Nat) (e : Exp) (d : Int) (wide : Bool) : State :=
  let i := e.burst.onu
  let s1 := if wide then
      { s with twn := { s.twn with wideOffs := Tab.mod (fun _ => []) s.twn.wideOffs (p.val * 2 + sd) (fun l => l ++ [d * periods e.burst.row]) } } else s
  let y := s1.slot p i
  match y.state with
  | .lost => s1.recover p i
  | .active => if wide || decide (e.sfc < y.holdFrom) then s1 else s1.track p sd i d
  | _ => s1

/-- BURST_END (R44, R49, R50, R52, R53, Table 2-6): the checks of the burst under way; BRST is pulsed after it and the loop is
frozen, found or missed. A header that names another ONU makes it a missed burst and stray light; else it is received: preset
relearned, offset tracked, LOST recovered, reports and packet counts stored, and its XGEM frames follow where its header
decoded. A shadow discards the content and takes its Δ and US_ADJ samples (R345, R348, R349). -/
def execBurstEnd (p : Fin 32) (sd : Side) (b : BurstRx) (s : State) : Host.Outcome State Fault Refusal :=
  if s.flt.safe then ok s else
  let x := s.side p sd.n
  match x.cur, x.found with
  | some e, some d =>
    let i := e.burst.onu
    let foreign := match b.hdr with | some o => decide (o.val ≠ i) | none => false
    let s0 := (s.setSide p sd.n { x with cur := none, found := none, rx := if x.rx = .quiet then .quiet else .frozen, brst := x.brst + 1
                                         content := if b.hdr.isNone || foreign || s.shadow p then none else some e }).burstCounts p sd.n i b
    if foreign then
      ok ((s0.burstMissed p sd.n e).strayWindow p sd.n (b.hdr.map (·.val)) (some d) true)
    else
      let s1 := s0.burstTaken p sd.n e b (x.rx != .quiet)
      if s.shadow p then ok ((s1.deltaSample p (s1.deltaSampleOf p sd.n e d)).adjSample p sd.n e d)
      else
        let s2 := s1.offsetSeen p sd.n e d (x.wideAt e.sfc)
        if b.hdr.isNone then ok s2
        else ok ((s2.storeReports p sd.n e.sfc b.reports).pktUnder p sd.n e.burst.grants b.frames)
  | some _, none => ok (if x.missed ∧ x.rx ≠ .frozen ∧ x.rx ≠ .quiet then s.setSide p sd.n { x with rx := .frozen, brst := x.brst + 1 } else s)
  | none, _ => ok s

/-- STRAY_DELIMITER (R59, R82, R92): a delimiter outside every open window, with the ONU-ID it carries where known, its
offset from the P of a window open within 1 µs, and whether it decodes as a Serial_Number_ONU message. -/
def execStrayDelimiter (p : Fin 32) (sd : Side) (onu : Option (Fin 1024)) (off : Option Int) (isSn : Bool) (s : State) : Host.Outcome State Fault Refusal :=
  let s1 := if isSn then s.inc (Cnt.ACT_SN_OUTSIDE p.val sd.n) else s
  let s2 := s1.strayWindow p sd.n (onu.map (·.val)) off (!isSn)
  match onu with
  | none => ok s2
  | some o =>
    if 256 ≤ o.val then ok s2
    else
      let x := s2.side p sd.n
      let y := s2.slot p o.val
      let wide := match off with | some d => decide (64 < d.natAbs) | none => false
      if y.state ≠ .active ∨ y.side ≠ sd.n ∨ s2.shadow p = true then ok s2
      else if x.missed && (match x.cur with | some e => decide (e.burst.onu = o.val) | none => false) then ok (s2.requestRerange p o.val wide)
      else ok (s2.setSlot p o.val { y with seen := some wide })

/-- Span of a granted burst as R60 takes it: widened by half the guard time each way, a quiet window as it stands. -/
def RxSpan.wider (w : RxSpan) (h : Nat) : Int × Int := if w.onu = 1024 then (w.a, w.b) else (w.a - h, w.b + h)

/-- Half of GUARD in time-line units of a side (R60, R106). -/
def State.halfGuard (s : State) (p : Fin 32) (sd : Nat) : Nat :=
  s.rd (Reg.PT_US_CFG.GUARD p.val) * (if sd = 0 then 5 else 1) / 2

/-- ONU-IDs of the bursts that end within 2 µs before a time (R96). -/
def PonSide.endedBefore (x : PonSide) (sd : Nat) (t : Int) : List Nat :=
  (x.spans.filter (fun w => decide (w.onu < 1024) && decide (w.b ≤ t) && decide (t ≤ w.b + nsUnits sd false 2000))).map (·.onu)

/-- STRAY_ENERGY_EPISODE (R60, R96): energy that starts `pos` time-line units after the start of the frame now being sent and
lasts `len` units of 10 ns. It is stray when it lasts 50 ns or more and meets no granted span and no open quiet window. -/
def execStrayEnergyEpisode (p : Fin 32) (sd : Side) (pos len : Nat) (s : State) : Host.Outcome State Fault Refusal :=
  let x := s.side p sd.n
  let a : Int := s.sfc p * frameLen sd.n + pos
  let b := a + nsUnits sd.n false (10 * len)
  let h := s.halfGuard p sd.n
  let meets := x.spans.any (fun w => decide ((w.wider h).1 < b) && decide (a < (w.wider h).2))
  if len < 5 ∨ meets = true then ok s
  else
    let s1 := s.strayRecord p (some ⟨sd.n, false, x.endedBefore sd.n a⟩)
    ok ((s1.inc (Cnt.PT_STRAY_UNSCHED p.val sd.n)).strayRaise p sd.n (2 ^ 33 + 0x3FF * 2 ^ 16 + min len 65535))

/-- Store of bit 63 of a preset entry (R63): 0 clears VALID; 1 leaves a valid entry as it stands. -/
def State.presetStore (s : State) (p : Fin 32) (idx : Nat) (valid : Bool) : State :=
  let x := s.preset p (idx / 256) (idx % 256)
  if valid then s else s.setPreset p (idx / 256) (idx % 256) { x with valid := false }

/-- A write of a preset entry that R63 refuses: it would validate a preset. -/
def State.presetRefused (s : State) (p : Fin 32) (idx : Nat) (valid : Bool) : Bool :=
  valid && !(s.preset p (idx / 256) (idx % 256)).valid

/-- PRESET_WINDOW_WRITE (R63). -/
def execPresetWindowWrite (ag : Agent) (p : Fin 32) (idx : Fin 512) (valid : Bool) (s : State) : Host.Outcome State Fault Refusal :=
  ok (s.winGate ag p.val idx.val (fun s =>
    if s.presetRefused p idx.val valid then s.deny ag .refused idx.val p.val else s.presetStore p idx.val valid))

/-- PRESET_AGE_EXPIRY (R49). -/
def execPresetAgeExpiry (p : Fin 32) (sd : Side) (slot : Fin 256) (s : State) : Host.Outcome State Fault Refusal :=
  ok (s.setPreset p sd.n slot.val { s.preset p sd.n slot.val with valid := false })

/-- Fields of a side's alignment. -/
def alnMode (p : Fin 32) (sd : Nat) : Fld := if sd = 0 then Reg.PT_ALN_CFG.MODE50 p.val else Reg.PT_ALN_CFG.MODE10 p.val
def alnState (p : Fin 32) (sd : Nat) : Fld := if sd = 0 then Reg.PT_ALN_STATUS.STATE50 p.val else Reg.PT_ALN_STATUS.STATE10 p.val
def alnLost (p : Fin 32) (sd : Nat) : Fld := if sd = 0 then Reg.PT_ALN_STATUS.LOST50 p.val else Reg.PT_ALN_STATUS.LOST10 p.val

/-- PSync errors accepted (Table 2-13). -/
def State.syncTol (s : State) (p : Fin 32) : Nat := min 8 (s.rd (Reg.PT_ALN_CFG.SYNC_TOL p.val))

/-- ALIGN_MODE_WRITE (R41, Table 2-3): a mode set from OFF starts HUNT with no tracker; mode 0 is OFF. -/
def execAlignModeWrite (ag : Agent) (p : Fin 32) (v : Word) (s : State) : Host.Outcome State Fault Refusal :=
  ok (s.gate ag (Reg.PT_ALN_CFG.addr p.val) (fun s =>
    let s1 := s.storeWord ag (Reg.PT_ALN_CFG.addr p.val) v
    let upd := fun (t : State) (sd : Nat) =>
      let x := t.side p sd
      if t.rd (alnMode p sd) = 0 then (t.wr (alnState p sd) 3).setSide p sd { x with trackers := [], miss := 0, rx := .frozen }
      else if t.rd (alnState p sd) = 3 then (t.wr (alnState p sd) 0).setSide p sd { x with trackers := [], miss := 0, rx := .continuous }
      else t
    (upd (upd s1 0) 1).mirror 6 p 0xFF 0x40))

/-- PSYNC_MATCH (R41, R42): an exact match in HUNT or PRESYNC opens a tracker at its position with the decoded SFC, is
discarded when the SFC's HEC is not valid, or ignored with 4 trackers busy. -/
def execPsyncMatch (p : Fin 32) (sd : Side) (pos : Nat) (sfc : Option (BitVec 51)) (s : State) : Host.Outcome State Fault Refusal :=
  let x := s.side p sd.n
  if 2 ≤ s.rd (alnState p sd.n) then ok s
  else if 4 ≤ x.trackers.length then ok (s.inc (Cnt.PT_PSYNC_OVERFLOW p.val sd.n))
  else
    match sfc with
    | none => ok (s.inc (Cnt.PT_PSYNC_FALSE p.val sd.n))
    | some v => ok ((s.setSide p sd.n { x with trackers := x.trackers ++ [⟨pos, v.toNat⟩] }).wr (alnState p sd.n) 1)

/-- TRACKER_CHECK (R41): one frame after a candidate. PSync within SYNC_TOL errors with a valid HEC and the next SFC
takes the side to SYNC; anything else discards the tracker. -/
def execTrackerCheck (p : Fin 32) (sd : Side) (pos errs : Nat) (sfc : Option (BitVec 51)) (s : State) : Host.Outcome State Fault Refusal :=
  let x := s.side p sd.n
  match x.trackers.find? (fun t => t.pos = pos) with
  | none => ok s
  | some t =>
    if s.rd (alnState p sd.n) ≠ 1 then ok s
    else if errs ≤ s.syncTol p ∧ sfc.map (·.toNat) = some ((t.sfc + 1) % 2 ^ 51) then
      ok ((s.setSide p sd.n { x with trackers := [], expSfc := (t.sfc + 2) % 2 ^ 51, miss := 0 }).wr (alnState p sd.n) 2)
    else
      let rest := x.trackers.erase t
      ok (((s.setSide p sd.n { x with trackers := rest }).wr (alnState p sd.n) (if rest = [] then 0 else 1)).inc (Cnt.PT_PSYNC_FALSE p.val sd.n))

/-- SYNC_PSBD_CHECK (R41, R43): the expected PSBd of a side in SYNC, with its PSync errors, its SFC where the HEC is valid,
and the phase against the own tick. The second consecutive miss leaves SYNC. -/
def execSyncPsbdCheck (p : Fin 32) (sd : Side) (errs : Nat) (sfc : Option (BitVec 51)) (diff : Int) (s : State) : Host.Outcome State Fault Refusal :=
  let x := s.side p sd.n
  if s.rd (alnState p sd.n) ≠ 2 then ok s
  else
    let bad := decide (s.syncTol p < errs) || (match sfc with | some v => decide (v.toNat ≠ x.expSfc) | none => false)
    let next := (x.expSfc + 1) % 2 ^ 51
    let s1 := if sfc.isNone then s.inc (Cnt.PT_HDR_HEC_ERR p.val sd.n) else s
    let s2 := s1.setPort p { s1.port p with align := if sd.n = 0 then (diff, (s1.port p).align.2) else ((s1.port p).align.1, diff) }
    if !bad then ok (s2.setSide p sd.n { x with expSfc := next, miss := 0 })
    else if x.miss = 0 then ok (s2.setSide p sd.n { x with expSfc := next, miss := 1 })
    else
      let s3 := ((s2.setSide p sd.n { x with miss := 0, trackers := [] }).wr (alnState p sd.n) 0).wr (alnLost p sd.n) 1
      ok ((s3.inc (Cnt.PT_SYNC_LOST p.val sd.n)).raise .SYNC_LOST (srcPt p) (portAddr p sd.n (s.rd (alnMode p sd.n))))

/-- UPSTREAM_PLOAM_RX (R310, R311, R66): an upstream PLOAM or OMCI message `msg` with its integrity code; one whose code is
not the message's is discarded, counted, and raised at most once per ONU in each second; an Acknowledge ends its message's
waits. `ack` is the sequence number it acknowledges. A shadow discards it (R349). -/
def execUpstreamPloamRx (p : Fin 32) (sd : Side) (onu : Fin 256) (omci : Bool) (msg : List Byte) (code : BitVec 64) (ack : Option (Fin 256))
    (s : State) : Host.Outcome State Fault Refusal :=
  if s.shadow p then ok s
  else
    let label := if omci then 1 else 0
    let s1 := s.micKey p onu.val label
    if s.mic p onu.val label true msg ≠ code.toNat then
      ok ((s1.inc (if omci then Cnt.KEY_MIC_FAIL_OMCI else Cnt.KEY_MIC_FAIL_PLOAM)).raiseLimited .MIC_FAIL srcKey
        (onuAddr p sd.n onu.val (if omci then 1 else 0)) (slotKey p onu.val) 1000000000)
    else
      match ack with
      | some q => ok (s1.ackRx p sd.n onu.val q.val)
      | none => ok s1

end Sys2Proof.Machine
end

