-- ==== Sys2Proof/Machine/Rings.lean ====
section
/-! DEFINITION. The host port: PCIe events, locks, rings and MSI-X (17_host_interface_and_register_map.md R537 to R541, R548,
R551 to R560). -/

namespace Sys2Proof.Machine

set_option autoImplicit false

/-- Source of the host block. -/
abbrev srcHst : Source := ⟨.HST, 0⟩

/-- Functions: 0 the PF, v VF v. -/
abbrev allFns : List Nat := List.range 33

/-- Vectors of a function's MSI-X table (Table 17-9). -/
def vectorsOf (f : Nat) : Nat := if f = 0 then 64 else 2

/-- Vectors a ring may send on: the reserved ones are never sent (Table 17-9). -/
def vectorSent (f v : Nat) : Bool := if f = 0 then decide (v ≤ 36) else decide (v ≤ 1)

/-- Rings of Table 17-7: PF rings 0 to 31, the telemetry ring 32, VF rings from 64. -/
def ringExists (r : Nat) : Bool := decide (r ≤ 32) || decide (64 ≤ r ∧ r < 128)

/-- A TX ring. -/
def ringTx (r : Nat) : Bool := decide (16 ≤ r ∧ r < 32) || decide (64 ≤ r ∧ r % 2 = 1)

/-- Rings of a function. -/
def ringsOf (f : Nat) : List Nat := if f = 0 then List.range 33 else [62 + 2 * f, 63 + 2 * f]

/-- A ring's run time. -/
def State.ringRt (s : State) (r : Nat) : RingRt := Tab.get (fun _ => RingRt.reset) s.hst.rings r

/-- Update of a ring's run time. -/
def State.setRing (s : State) (r : Nat) (x : RingRt) : State :=
  { s with hst := { s.hst with rings := Tab.set (fun _ => RingRt.reset) s.hst.rings r x } }

/-- A ring stopped: EN 0, STOPPED 1 (R552). -/
def State.stopRing (s : State) (r : Nat) : State :=
  ((s.wr (Reg.RING_CFG.EN r) 0).wr (Reg.RING_STATUS.STOPPED r) 1).setRing r { s.ringRt r with comp := 0, since := none }

/-! PCIe events (R538 to R540, R560). -/

/-- PCIE_LINK_DOWN (R539, R560): the cause begins once the link has been up. -/
def State.linkDown (s : State) : State :=
  if !s.bit Reg.HST_LINK.UP then s
  else (s.wr Reg.HST_LINK.UP 0).onset .HST_LINK_DOWN srcHst 0 (s.rd Reg.HST_LINK.WIDTH)

/-- PCIE_LINK_DOWN (R539). -/
def execPcieLinkDown (s : State) : Host.Outcome State Fault Refusal := ok s.linkDown

/-- PCIE_LINK_UP (R539, R540): no link while DISABLE is 1, no rate above MAX_RATE; pending messages leave. -/
def execPcieLinkUp (rate : Fin 7) (width : Fin 32) (flit : Bool) (s : State) : Host.Outcome State Fault Refusal :=
  ok (if s.bit Reg.HST_PORT_CFG.DISABLE then s
    else
      let s1 := (((s.wr Reg.HST_LINK.UP 1).wr Reg.HST_LINK.FLIT (if flit then 1 else 0)).wr Reg.HST_LINK.RATE
        (min rate.val (s.rd Reg.HST_PORT_CFG.MAX_RATE))).wr Reg.HST_LINK.WIDTH width.val
      let s2 := ({ s1 with hst := { s1.hst with seen := true } } : State).endCause .HST_LINK_DOWN srcHst 0
      allFns.foldl (fun s f => s.msiFlush f) s2)

/-- MSI-X vectors of a function masked. -/
def State.maskVectors (s : State) (f : Nat) : State :=
  (List.range (vectorsOf f)).foldl (fun s v =>
    let k := msixKey f (v * 16 + 12)
    s.putWord k (s.word k ||| 1#32)) s

/-- A function and its rings at reset: rings off, vectors masked, in D0 with Bus Master Enable 0. -/
def State.fnReset (s : State) (f : Nat) : State :=
  let s1 := (ringsOf f).foldl (fun s r =>
    let s0 := (List.range 16).foldl (fun s j => s.putWord (0x71000 + r * 0x40 + j * 4) (regReset (0x71000 + r * 0x40 + j * 4))) s
    s0.setRing r RingRt.reset) s
  (s1.maskVectors f).setFn f Fn.reset

/-- PCIE_RESET (R538, R539): only the PCIe island and the host block change. A reset takes the link down and resets every
function; the block's configuration and its lock stay, as Table 17-6 keeps SEALED to the next warm or power-on reset (DEDUCED,
log entry 35). -/
def execPcieReset (e : PcieEvent) (s : State) : Host.Outcome State Fault Refusal :=
  ok (match e with
    | .fundamental | .hot | .linkDown => allFns.foldl (fun s f => s.fnReset f) s.linkDown
    | .d3hot f on => (s.setFn f.val { s.fn f.val with d3 := on }).msiFlush f.val
    | .busMaster f on => (s.setFn f.val { s.fn f.val with bme := on }).msiFlush f.val)

/-- FUNCTION_LEVEL_RESET (R538): the function's rings are disabled and its vectors masked. -/
def execFunctionLevelReset (fn : Fin 33) (s : State) : Host.Outcome State Fault Refusal :=
  ok ((((ringsOf fn.val).foldl (fun s r => s.stopRing r) s).maskVectors fn.val).raise .HST_FLR srcHst fn.val)

/-! Locks (R548). -/

/-- An address is that of a BLOCK_LOCK. -/
def isLock (a : Nat) : Bool := (regAt a).isSome && lockOf a == a && decide (a < 0x800000)

/-- A write of a BLOCK_LOCK (Table 17-6). The image's write takes effect at S2 entry (R521). -/
def State.lockWrite (s : State) (ag : Agent) (a : Nat) (v : Word) : State :=
  if !isLock a then s.deny ag .badAddr a noWin
  else if ag = .image then { s with boot := { s.boot with locks := Tab.set (fun _ => 0) s.boot.locks a (fldOf v (Reg.BLOCK_LOCK.OP a)) } }
  else s.gate ag a (fun s =>
    match fldOf v (Reg.BLOCK_LOCK.OP a) with
    | 1 => if s.bit (Reg.BLOCK_LOCK.SEALED a) ∨ fldOf v (Reg.BLOCK_LOCK.KEY a) ≠ 0x4F50 then s.deny ag .locked a noWin
        else s.wr (Reg.BLOCK_LOCK.OPEN a) 1
    | 2 => s.wr (Reg.BLOCK_LOCK.OPEN a) 0
    | 3 => (s.wr (Reg.BLOCK_LOCK.OPEN a) 0).wr (Reg.BLOCK_LOCK.SEALED a) 1
    | _ => s)

/-- A written word with the OP of a lock command. -/
def withLockOp (v : Word) (op : Nat) : Word := putField v 28 2 op

/-- LOCK_OPEN (R548). -/
def execLockOpen (ag : Agent) (a : BitVec 26) (v : Word) (s : State) : Host.Outcome State Fault Refusal := ok (s.lockWrite ag a.toNat (withLockOp v 1))

/-- LOCK_CLOSE (R548). -/
def execLockClose (ag : Agent) (a : BitVec 26) (v : Word) (s : State) : Host.Outcome State Fault Refusal := ok (s.lockWrite ag a.toNat (withLockOp v 2))

/-- LOCK_SEAL (R548). -/
def execLockSeal (ag : Agent) (a : BitVec 26) (v : Word) (s : State) : Host.Outcome State Fault Refusal := ok (s.lockWrite ag a.toNat (withLockOp v 3))

/-! VF ports (R541). -/

/-- A write of HST_VF_PORTS[v] (R541): refused where a port is another VF's. -/
def State.vfPorts (s : State) (ag : Agent) (vf : Nat) (v : Word) : State :=
  if vf = 0 then s.deny ag .badAddr 0x70100 noWin
  else s.gate ag (Reg.HST_VF_PORTS.addr vf) (fun s =>
    if (List.range 32).any (fun i => decide (i + 1 ≠ vf) && (s.word (Reg.HST_VF_PORTS.addr (i + 1)) &&& v) != 0#32) then
      s.deny ag .refused (Reg.HST_VF_PORTS.addr vf) noWin
    else s.putWord (Reg.HST_VF_PORTS.addr vf) v)

/-- VF_PORTS_WRITE (R541). -/
def execVfPortsWrite (ag : Agent) (vf : Fin 33) (v : Word) (s : State) : Host.Outcome State Fault Refusal := ok (s.vfPorts ag vf.val v)

/-! Rings (R551 to R558). -/

/-- A write of a ring register reaches it: a VF only its own rings, in its BAR0 (R541, Table 17-2). -/
def State.ringGate (s : State) (ag : Agent) (r a : Nat) (k : State → State) : State :=
  if !ringExists r then s.deny ag .badAddr a noWin
  else match ag with
    | .vf n => if ringFn r = n.val + 1 then k (s.hostTlp false ag a) else s.deny ag .scope a noWin
    | _ => s.gate ag a k

/-- A write of a ring's EN, SIZE, VEC and coalescing word (R552): a SIZE is held in 4 to 16 bounds of its field; a change of SIZE
while EN is 1 is dropped and denied. -/
def State.ringCfg (s : State) (ag : Agent) (r : Nat) (v : Word) : State :=
  let a := Reg.RING_CFG.addr r
  s.ringGate ag r a (fun s =>
    let was := s.bit (Reg.RING_CFG.EN r)
    let v1 := putField v 27 4 (max 4 (fldOf v (Reg.RING_CFG.SIZE r)))
    let v2 := if was then putField v1 27 4 (s.rd (Reg.RING_CFG.SIZE r)) else v1
    let s1 := s.putWord a (v2 &&& 0xFFE0FFFF#32)
    let s2 := if was && v1 != v2 then s1.deny ag .refused a noWin else s1
    let on := v.getLsbD 31
    if on && !was then
      (((s2.wr (Reg.RING_HEAD.HEAD r) (s2.rd (Reg.RING_TAIL.TAIL r))).wr (Reg.RING_STATUS.PHASE r) 1).wr (Reg.RING_STATUS.STOPPED r) 0).setRing r RingRt.reset
    else if was && !on then s2.stopRing r
    else s2)

/-- RING_EN_WRITE (R552). -/
def execRingEnWrite (ag : Agent) (r : Fin 128) (v : Word) (s : State) : Host.Outcome State Fault Refusal := ok (s.ringCfg ag r.val v)

/-- Entries of a ring. -/
def State.ringSize (s : State) (r : Nat) : Nat := 2 ^ s.rd (Reg.RING_CFG.SIZE r)

/-- A write of TAIL (R551). -/
def State.ringTail (s : State) (ag : Agent) (r : Nat) (v : Word) : State :=
  let a := Reg.RING_TAIL.addr r
  s.ringGate ag r a (fun s =>
    if s.ringSize r ≤ (v.extractLsb' 0 16).toNat then s.deny ag .refused a noWin else s.putWord a (v &&& 0xFFFF#32))

/-- RING_TAIL_WRITE (R551). -/
def execRingTailWrite (ag : Agent) (r : Fin 128) (v : Word) (s : State) : Host.Outcome State Fault Refusal := ok (s.ringTail ag r.val v)

/-- Another word of a ring: BASE and HEAD_WB are dropped and denied while EN is 1 (R552); the status word's DMA_ERR is W1C. -/
def State.ringOther (s : State) (ag : Agent) (r a : Nat) (v : Word) : State :=
  s.ringGate ag r a (fun s =>
    match (a - 0x71000) % 0x40 / 4 with
    | 0 => if s.bit (Reg.RING_CFG.EN r) then s.deny ag .refused a noWin else s.putWord a (v &&& 0xFFFFF000#32)
    | 6 => if s.bit (Reg.RING_CFG.EN r) then s.deny ag .refused a noWin else s.putWord a (v &&& 0xFFFFFFFC#32)
    | 1 | 7 => if s.bit (Reg.RING_CFG.EN r) then s.deny ag .refused a noWin else s.putWord a v
    | 5 => if v.getLsbD 29 then s.wr (Reg.RING_STATUS.DMA_ERR r) 0 else s
    | _ => s)

/-- A message of a ring, on a vector that is ever sent (R559). -/
def State.ringMsi (s : State) (r : Nat) : State :=
  let v := s.rd (Reg.RING_CFG.VEC r)
  if vectorSent (ringFn r) v then s.msi (ringFn r) v else s

/-- TLPs of an entry's DMA (Table 15-2): how many, their bytes and their address are free values (log entry 39). -/
def State.dmaTlps (s : State) (r : Nat) : State :=
  let v := fun i => Config.freeValue (s.free + i)
  ({ s with free := s.free + 3 } : State).tlps (v 0) (v 1) ⟨ringFn r, 2, r, if ringTx r then 1 else 2, v 2⟩

/-- HEAD advances past the entry in hand (R551, R552, R559): PHASE toggles at the wrap, HEAD is written back, completions are
coalesced. -/
def State.advance (s : State) (r : Nat) : State :=
  let h := (s.rd (Reg.RING_HEAD.HEAD r) + 1) % s.ringSize r
  let s1 := s.wr (Reg.RING_HEAD.HEAD r) h
  let s2 := (if h = 0 then s1.wr (Reg.RING_STATUS.PHASE r) (1 - s1.rd (Reg.RING_STATUS.PHASE r)) else s1).inc (Cnt.RING_PKTS r)
  let wb := s2.rd (Reg.RING_HEADWB_LO.V r) + s2.rd (Reg.RING_HEADWB_HI.V r) * 2 ^ 32
  let x := s2.ringRt r
  let y : RingRt := { x with comp := x.comp + 1, since := some (x.since.getD s2.now), wb := if wb = 0 then x.wb else some (wb, h) }
  let s3 := s2.dmaTlps r
  if max 1 (s3.rd (Reg.RING_CFG.COAL_PKTS r)) ≤ y.comp then (s3.setRing r { y with comp := 0, since := none }).ringMsi r
  else s3.setRing r y

/-- Nothing is handed over (R551). -/
def State.ringEmpty (s : State) (r : Nat) : Bool := s.rd (Reg.RING_HEAD.HEAD r) == s.rd (Reg.RING_TAIL.TAIL r)

/-- An RX or telemetry entry written and passed (R554, R557). -/
def State.fillEntry (s : State) (r : Nat) (ws : List Word) (data : List Byte) : State :=
  (s.setRing r { s.ringRt r with last := some (s.rd (Reg.RING_HEAD.HEAD r), ws, data) }).advance r

/-- Words 2 and 4 to 7 of an RX entry (Table 17-8). -/
def rxWords (phase : Nat) (trunc mirror : Bool) (d : Desc) : List Word :=
  let b := fun (x : Bool) => if x then 1 else 0
  [BitVec.ofNat 32 (phase * 2 ^ 31 + b trunc * 2 ^ 30 + b mirror * 2 ^ 29 + b d.dir * 2 ^ 28 + d.reason % 256 * 2 ^ 16 + d.length % 2 ^ 14),
    BitVec.ofNat 32 (d.flow % 65536 * 2 ^ 16 + d.source % 128 * 2 ^ 8 + d.onu % 256),
    BitVec.ofNat 32 (d.cls * 2 ^ 29 + d.xctx % 65536), BitVec.ofNat 32 d.tIn, 0#32]

/-- An exception or mirror copy reaches its ring (R553, R554, R173); `len` is the buffer's length. -/
def State.rxDeliver (s : State) (o : ExcOut) (len : Nat) : State :=
  let r := s.excRing o.d o.mirror
  if !s.ringOn r then
    if s.rd (Reg.SRT_EXC_CFG.DEST o.d.reason) = 3 then s.toSteward o else (s.inc Cnt.SRT_EXC_NO_HOST).unref o.d.handle
  else if s.ringEmpty r then ((s.inc (Cnt.RING_DROPS r)).raiseLimited .HST_RX_NOBUF srcHst r r 1000000).unref o.d.handle
  else (s.fillEntry r (rxWords (s.rd (Reg.RING_STATUS.PHASE r)) (decide (len < o.d.length)) o.mirror o.d) (o.bytes.take len)).unref o.d.handle

/-- A record reaches the telemetry ring (R500, R557). -/
def State.telDeliver (s : State) (x : TelRec) (len : Nat) : State :=
  if !s.ringOn 32 then s.inc Cnt.TLY_EXPORT_DROPPED
  else if s.ringEmpty 32 ∨ len < x.bytes.length then (s.inc (Cnt.RING_DROPS 32)).inc Cnt.TLY_EXPORT_DROPPED
  else s.fillEntry 32 [BitVec.ofNat 32 (s.rd (Reg.RING_STATUS.PHASE 32) * 2 ^ 31 + x.type_ * 2 ^ 28 + x.bytes.length % 2 ^ 16)] x.bytes

/-- RX_RING_DELIVER (R553, R554, R557): the oldest exception for the host, or the oldest telemetry record; `bufLen` is BUF_LEN of
the posted entry. -/
def execRxRingDeliver (telemetry : Bool) (bufLen : BitVec 16) (s : State) : Host.Outcome State Fault Refusal :=
  let len := if bufLen.toNat = 0 then 65536 else bufLen.toNat
  if telemetry then
    match s.tly.export_ with
    | [] => ok s
    | x :: t => ok (({ s with tly := { s.tly with export_ := t } } : State).telDeliver x len)
  else
    match s.fwd.toHost with
    | [] => ok s
    | o :: t => ok (({ s with fwd := { s.fwd with toHost := t } } : State).rxDeliver o len)

/-- A VF's TX entry that is DIRECT to a downstream queue of one of its ports (R556). -/
def State.vfMay (s : State) (r mode : Nat) (up : Bool) (queue : Nat) : Bool :=
  r < 64 || (mode == 0 && !up && (s.word (Reg.HST_VF_PORTS.addr (ringFn r))).getLsbD (queue / 2048))

/-- The parser's answer for an injected packet: engine path, the entry's class (R150, R555). -/
def State.parseInjected (s : State) (fr : List Byte) (cls : Nat) : Parsed :=
  let x := s.parse 24 fr none
  { x with express := false, exm := false, cls := cls
           flow := crc16 (24#8 :: BitVec.ofNat 8 x.prof :: extractBytes fr ((s.extracts x.prof).filter (·.2.2))) }

/-- A TX entry and its frame taken (R555, R556); ONE_STEP goes with UPLINK_FRAME_TX. A DIRECT packet's descriptor is stamped
and holds its epoch until it has been enqueued (R170, R171). -/
def State.txEntry (s : State) (r : Nat) (e : List Word) (fr : List Byte) : State :=
  let w := fun j => e.getD j 0#32
  let f := fun (j lo n : Nat) => ((w j).extractLsb' lo n).toNat
  let mode := f 2 30 2
  let up := (w 2).getLsbD 29
  let len := f 2 0 14
  let cls := f 4 29 3
  let lost := s.inc (Cnt.RING_DROPS r)
  if !s.vfMay r mode up (f 3 16 16) then lost.deny (if h : ringFn r - 1 < 32 then .vf ⟨ringFn r - 1, h⟩ else .pf) .scope (0x71000 + r * 0x40) noWin
  else if len < 60 ∨ 16383 < len ∨ 2 ≤ mode then lost
  else
    let bytes := sliceZ fr 0 len
    let a := s.newBuf cls len bytes
    match a.2 with
    | none => (a.1.noBuf cls len).inc (Cnt.RING_DROPS r)
    | some h =>
      if mode = 0 then
        let ep := a.1.published
        let s1 := a.1.epochRef ep
        let d : Desc := { Desc.zero with handle := h, dir := up, epoch := ep, length := len, cls := cls, source := 24, queue := f 3 16 16, ctxV := !up
                                         xctx := f 3 0 16, bucket := f 4 0 17, tIn := s.now % 2 ^ 32 }
        (if s1.isProxy d then s1.proxyChecks ⟨d, none, none⟩ else s1.enqueue d).epochUnref ep
      else s.intake 24 srcHst bytes false (s.parseInjected bytes cls)

/-- TX_ENTRY (R555, R556): the entry at HEAD of a TX ring that runs. In safe state nothing is enqueued (Table 14-9). -/
def execTxEntry (r : Fin 128) (e : List (BitVec 32)) (bytes : List (BitVec 8)) (s : State) : Host.Outcome State Fault Refusal :=
  ok (if !ringTx r.val || !s.ringOn r.val || s.ringEmpty r.val || s.flt.safe then s else (s.txEntry r.val e bytes).advance r.val)

/-- An RX packet or record in hand for a ring is dropped (R558). -/
def State.dropInHand (s : State) (r : Nat) : State :=
  if r = 32 then { s with tly := { s.tly with export_ := s.tly.export_.drop 1 } }
  else if ringTx r then s
  else
    match s.fwd.toHost.find? (fun o => s.excRing o.d o.mirror == r) with
    | none => s
    | some o => ({ s with fwd := { s.fwd with toHost := s.fwd.toHost.eraseP (fun o => s.excRing o.d o.mirror == r) } } : State).unref o.d.handle

/-- DMA_ERROR (R558): `code` 1 UR, 2 CA, 3 poisoned, 4 timeout. -/
def execDmaError (r : Fin 128) (code : Fin 5) (s : State) : Host.Outcome State Fault Refusal :=
  ok (if code.val = 0 || !ringExists r.val || !s.ringOn r.val then s
    else ((((s.dropInHand r.val).stopRing r.val).wr (Reg.RING_STATUS.DMA_ERR r.val) 1).raise .HST_DMA_FAULT srcHst (code.val * 2 ^ 8 + r.val)))

/-- COAL_TIMER_EXPIRY (R559): COAL_US has passed since the first completion not yet told. -/
def execCoalTimerExpiry (r : Fin 128) (s : State) : Host.Outcome State Fault Refusal :=
  let x := s.ringRt r.val
  ok (if s.rd (Reg.RING_CFG.COAL_US r.val) = 0 ∨ x.comp = 0 then s
    else (s.setRing r.val { x with comp := 0, since := none }).ringMsi r.val)

/-- REARM (R559): the bits written 1 are set (W1S; nothing but a reset clears them: the spec names no mechanism; DEDUCED, log entry 142), and
each write of 1 to bit 0 sends the level of PF vector 0 again while it holds. -/
def State.rearm (s : State) (ag : Agent) (v : Word) : State :=
  s.gate ag Reg.HST_REARM.addr (fun s =>
    let s1 := s.putWord Reg.HST_REARM.addr (s.word Reg.HST_REARM.addr ||| v)
    if v.getLsbD 0 && s1.hst.level then s1.msi 0 0 else s1)

/-- REARM (R559). -/
def execRearm (ag : Agent) (v : Word) (s : State) : Host.Outcome State Fault Refusal := ok (s.rearm ag v)

end Sys2Proof.Machine
end

