-- ==== Sys2Proof/Machine/Warden.lean ====
section
/-! DEFINITION. The end of a pace window (01_device_architecture.md R18 to R24) and Warden, which tests in what it leaves idle
(14_faults_and_safe_state.md R470 to R475). -/

namespace Sys2Proof.Machine

set_option autoImplicit false

/-- Source of Warden. -/
abbrev srcWdn : Source := ⟨.WDN, 0⟩

/-! Coverage cycles (R475). -/

/-- Engines in service, as guild × 16 + engine. -/
def State.enginesUp (s : State) : List Nat := (List.range 1024).filter (fun k => s.engineUp (k / 16) (k % 16))

/-- A lane is enabled (R470): a PON receive lane of an enabled side, a Shasol lane, an uplink lane of a port, a PCIe lane of the
link. -/
def State.laneOn (s : State) : LaneBlock → Bool
  | .pon p k => if k.val = 2 then s.sideEn p 0 else if k.val = 3 then s.sideEn p 1 else false
  | .ulk n => (s.ulkPort (s.ulkLeader n.val)).isSome
  | .shl n => s.bit (Reg.SHL_LANE_CFG.EN n.val)
  | .pcie n => s.bit Reg.HST_LINK.UP && decide (n.val < s.rd Reg.HST_LINK.WIDTH)

/-- Every lane. -/
def allLanes : List LaneBlock :=
  ports.flatMap (fun p => [.pon p 2, .pon p 3]) ++ (List.finRange 24).map .ulk ++ (List.finRange 16).map .shl ++ (List.finRange 16).map .pcie

/-- Every enabled test of Table 14-11 has gone over every unit. -/
def State.covered (s : State) : Bool :=
  (!s.bit Reg.WDN_CFG.GOLDEN_EN || s.enginesUp.all (fun k => decide (4 ≤ Tab.get (fun _ => 0) s.wdn.passes k)))
  && (!s.bit Reg.WDN_CFG.SRAM_EN || s.wdn.sram)
  && (!s.bit Reg.WDN_CFG.TCAM_EN || decide (65536 ≤ s.wdn.rows))
  && (!s.bit Reg.WDN_CFG.AUDIT_EN || [0, 1, 2, 3].all (fun p => s.wdn.pools.contains p))
  && (!s.bit Reg.WDN_CFG.EYE_EN || allLanes.all (fun b => !s.laneOn b || s.wdn.eyes.contains (laneBase b)))

/-- Seconds into the present cycle. -/
def State.cycleTime (s : State) : Nat := (s.now - s.wdn.start) / 1000000000

/-- The cycle ends when every test is through (R475): a new one starts, and the cause of WDN_LATE ends when it took no more than
CYCLE_LIMIT. -/
def State.cycleEnd (s : State) : State :=
  if !s.covered then s
  else
    let t := s.cycleTime
    let s1 := ((s.inc Cnt.WDN_CYCLES).wr Reg.WDN_LAST.DURATION (min 65535 t)).wr Reg.WDN_STATUS.FORCED 0
    let s2 := if t ≤ s.rd Reg.WDN_CYCLE.CYCLE_LIMIT then s1.endCause .WDN_LATE srcWdn 0 else s1
    { s2 with wdn := { s2.wdn with passes := [], sram := false, rows := 0, pools := [], eyes := [], start := s.now } }

/-- A test runs: WDN_CFG.EN and its own bit. -/
def State.testOn (s : State) (f : Fld) : Bool := s.bit Reg.WDN_CFG.EN && s.bit f

/-! Golden packets (R471 to R474). -/

/-- An engine runs a test pass. -/
def State.underTest (s : State) (k : Nat) : Bool :=
  (List.range 4).any (fun c => match s.ctxOf (k * 4 + c) with | some x => x.test | none => false)

/-- Engines of healthy guilds that may take a test pass (R471): in service, with a free context and no test pass. -/
def State.testable (s : State) (g : Nat) : List Nat :=
  if s.healthy g then ((List.range 16).map (fun e => g * 16 + e)).filter (fun k => (s.freeCtx g (k % 16)).isSome && !s.underTest k) else []

/-- Golden packets for a guild (R472): the captured ring, or the image's set of the guild's generation, with their places. -/
def State.goldens (s : State) (g : Nat) : List (Golden × Nat) :=
  if s.bit Reg.WDN_CFG.GOLDEN_SRC then s.wdn.image.zipIdx.filter (fun x => x.1.gen == some (s.guildGen g)) else s.wdn.ring.zipIdx

/-- A test pass started on an engine (R472): stamped and referenced as a packet, with the golden bytes as its window. -/
def State.startTest (s : State) (id : Nat) (p : Golden) (k : Nat) : State :=
  let g := k / 16
  match s.freeCtx g (k % 16) with
  | none => s
  | some c =>
    let w := p.bytes.take (min p.d.length 256)
    let x := Ctx.start id true p.d (s.entryOf g p.d.dir p.d.pass % 2 ^ 14)
    (s.setCtx (ctxKey g (k % 16) c) (some { x with win := w, loaded := w.length })).epochRef p.d.epoch

/-- A golden test begun on an engine and its references. -/
def State.beginTest (s : State) (p : Golden) (ix under : Nat) (refs : List Nat) : State :=
  let q : Golden := { p with d := { p.d with epoch := s.published, tIn := s.now % 2 ^ 32 } }
  let id := s.wdn.nextId
  let s1 : State := { s with wdn := { s.wdn with nextId := id + 1, tests := s.wdn.tests ++ [(⟨id, q, ix, under, refs⟩ : GoldenTest)] } }
  (under :: refs).foldl (fun s k => s.startTest id q k) s1

/-- A reference for an engine (R470): an engine of another guild of its generation that may take a pass. -/
def State.references (s : State) (g : Nat) (room : Nat → Bool) : List Nat :=
  (List.range 64).flatMap (fun h => if h ≠ g ∧ s.guildGen h = s.guildGen g ∧ room h then (s.testable h).take 1 else [])

/-- WARDEN_IDLE_DISPATCH (R471, R475): `room` gives the test passes each guild has left in the window. One engine of a guild is
tested in a window, in turn; which ones, and that no more are, is a DESIGN CHOICE (log entry 33). -/
def State.idleDispatch (s : State) (room : Nat → Nat) : State :=
  if !s.testOn Reg.WDN_CFG.GOLDEN_EN then s
  else
    let r := (List.range 64).foldl (fun (acc : State × List Nat) g =>
      let left := fun h => decide ((acc.2.filter (fun x => x == h)).length < room h)
      let es := acc.1.testable g
      let gs := acc.1.goldens g
      match (if left g then es[acc.1.wdn.pick % (max 1 es.length)]? else none), (acc.1.references g left).head?, gs[acc.1.wdn.pick % (max 1 gs.length)]? with
      | some e, some h, some p => (acc.1.beginTest p.1 p.2 e [h], acc.2 ++ [g, h / 16])
      | _, _, _ => acc) (s, [])
    { r.1 with wdn := { r.1.wdn with pick := r.1.wdn.pick + 1 } }

/-- PACE_WINDOW_END (R18 to R24, R153, R471): the readings of the guilds and of Wharfinger, SUSTAIN, admission, and the test passes that
idle time allows. -/
def execPaceWindowEnd (done : List (Fin 64 × Nat)) (whf : Nat) (s : State) : Host.Outcome State Fault Refusal :=
  let reads := (List.range 64).map (fun g => ((done.find? (fun x => x.1.val == g)).map (·.2)).getD 0)
  let s1 := s.pace reads whf
  let s2 := (s1.wr Reg.WHF_CORE_RATE.SUSTAIN (min 65535 s1.sustain)).admission
  let credit := fun g => s2.rd (Reg.GLD_PACE.FILTERED g) * 5
  let room := fun g => (credit g - 64 * (s2.guild g).dispatched) * s2.rd Reg.WDN_CFG.IDLE_FRAC / 16384
    + (if s2.bit Reg.WDN_STATUS.FORCED then credit g * s2.rd Reg.WDN_CFG.FORCE_SHARE / 16384 else 0)
  let rooms := (List.range 64).map room
  let s3 := (List.range 64).foldl (fun s g => if (s.guild g).dispatched = 0 then s else s.setGuild g { s.guild g with dispatched := 0 }) s2
  ok (s3.idleDispatch (fun g => rooms.getD g 0))

/-- What a test pass is compared by (R472): descriptor with LENGTH, CRC-32 of the window, deferred effects, trap code. -/
def TestOut.result (x : TestOut) : Desc × Nat × List Deferred × Option Nat := (x.d, crc32 x.win, x.eff, x.trap)

/-- Result of an engine's pass of a test. -/
def State.resultOf (s : State) (id k : Nat) : Option (Desc × Nat × List Deferred × Option Nat) :=
  (s.eng.tests.find? (fun x => x.flight == id && x.guild == k / 16 && x.engine == k % 16)).map TestOut.result

/-- A pass of a test is still on a context. -/
def State.testRuns (s : State) (id : Nat) : Bool :=
  s.eng.ctxs.any (fun x => match x.2 with | some c => c.test && c.flight == id | none => false)

/-- GOLDEN_PASS_DONE (R473): a test whose passes have all ended. On a difference it runs again with a second reference of a third
guild; the engine fails when both references agree and it differs. -/
def execGoldenPassDone (id : Nat) (s : State) : Host.Outcome State Fault Refusal :=
  match s.wdn.tests.find? (fun t => t.id == id) with
  | none => ok s
  | some t =>
    if s.testRuns id then ok s
    else
      let all := t.under :: t.refs
      let rs := all.map (fun k => s.resultOf id k)
      let s1 : State := { s with wdn := { s.wdn with tests := s.wdn.tests.filter (fun x => x.id ≠ id)
                                                     passes := all.foldl (fun p k => Tab.mod (fun _ => 0) p k (· + 1)) s.wdn.passes }
                                 eng := { s.eng with tests := s.eng.tests.filter (fun x => x.flight ≠ id) } }
      let s2 := all.foldl (fun s _ => s.epochUnref t.packet.d.epoch) (s1.count Cnt.WDN_GOLDEN_PASSES all.length)
      let inconclusive := s2.inc Cnt.WDN_GOLDEN_INCONCLUSIVE
      let s3 :=
        if rs.any (·.isNone) then inconclusive
        else match rs with
          | [a, b] =>
            if a = b then s2
            else
              match (s2.references (t.under / 16) (fun h => !(all.any (fun k => k / 16 == h)))).head? with
              | some r => s2.beginTest t.packet t.ix t.under (t.refs ++ [r])
              | none => inconclusive
          | [a, b, c] => if b = c ∧ a ≠ b then s2.raise .ENGINE_TEST (srcGld (t.under / 16)) (t.ix % 256 * 256 + t.under % 16) else inconclusive
          | _ => s2
      ok s3.cycleEnd

/-- The majority of some results: the one more than half of them have. -/
def majority (l : List Nat) : Option Nat := l.find? (fun r => decide (l.length < 2 * l.count r))

/-- A guild passes when for every golden packet each of its engines has the majority result (R474): `res` gives, packet by
packet, the results of the guild's engines and those of the engines that run the new generation elsewhere. -/
def checkGood (res : List (List Nat × List Nat)) : Bool :=
  res.all (fun r => match majority (r.1 ++ r.2) with | some m => r.1.all (fun x => x == m) | none => r.1.isEmpty)

/-- CHECK_DONE (R208, R474): the golden packets have run on every engine of a guild in CHECK, with the results of R472 that
`res` gives, equal results as equal numbers. -/
def execCheckDone (g : Fin 64) (res : List (List Nat × List Nat)) (s : State) : Host.Outcome State Fault Refusal :=
  let gen := (s.bankWord g.val false 1).toNat / 2 ^ 16
  ok (if s.guildState g.val ≠ .check then s
    else if checkGood res then s.checkPassed g.val
    else (s.retireGuild g.val).raise .CODE_CHECK_FAIL (srcGld g.val) gen)

/-! Memories, rows, buffers and lanes (R470). -/

/-- SRAM_SLICE_TEST (R470, R449): words of a block's memories read or patterned; `whole` says that every word of every memory has now
been gone through in the cycle. -/
def execSramSliceTest (src : Source) (words : Nat) (bad : Option SliceFault) (whole : Bool) (s : State) : Host.Outcome State Fault Refusal :=
  ok (if !s.testOn Reg.WDN_CFG.SRAM_EN then s
    else
      let s1 := s.count Cnt.WDN_SRAM_WORDS words
      let at_ := fun (m : BitVec 8) (w : BitVec 32) => m.toNat * 2 ^ 32 + w.toNat
      let s2 := match bad with
        | none => s1
        | some (.corrected m w) => s1.raise .SRAM_ECC_CORR src (at_ m w)
        | some (.uncorrectable m w) => s1.raise .STATE_UNCORR src (at_ m w)
        | some (.freeWord m w) => s1.raise .SRAM_TEST_FAIL src (at_ m w)
      (if whole then { s2 with wdn := { s2.wdn with sram := true } } else s2).cycleEnd)

/-- Rows of a bank among `n` rows from `first`. -/
def rowsIn (b first n : Nat) : Nat := min (first + n) ((b + 1) * 1024) - max first (b * 1024)

/-- Warden's test of restored Ledger banks (R460): one with every row tested returns; a failed row ends its test. -/
def State.bankRows (s : State) (first n : Nat) (bad : Option Nat) : State :=
  (s.flt.iso.filter (fun i => i.unit == .bank && i.testing)).foldl (fun s i =>
    if (match bad with | some r => decide (r / 1024 = i.num) | none => false) then
      { s with flt := { s.flt with iso := s.flt.iso.map (fun j => if j = i then { j with testing := false } else j) } }
    else
      let done := Tab.get (fun _ => 0) s.wdn.banks i.num + rowsIn i.num first n
      if 1024 ≤ done then
        { s with flt := { s.flt with iso := s.flt.iso.filter (fun j => j ≠ i) }, wdn := { s.wdn with banks := Tab.drop s.wdn.banks i.num } }
      else { s with wdn := { s.wdn with banks := Tab.set (fun _ => 0) s.wdn.banks i.num done } }) s

/-- LEDGER_SLICE_TEST (R470, R460): `n` rows from `first` searched or patterned, one of them bad or none. -/
def execLedgerSliceTest (first : Fin 65536) (n : Nat) (bad : Option (Fin 65536)) (s : State) : Host.Outcome State Fault Refusal :=
  ok (if !s.testOn Reg.WDN_CFG.TCAM_EN then s
    else
      let s1 := s.count Cnt.WDN_TCAM_ROWS n
      let s2 := match bad with | some r => s1.raise .LDG_TEST_FAIL srcLdg r.val | none => s1
      let s3 := s2.bankRows first.val n (bad.map (·.val))
      ({ s3 with wdn := { s3.wdn with rows := min 65536 (s3.wdn.rows + n) } } : State).cycleEnd)

/-- Handles named by a descriptor, a queue, the Cellar backlog, a ring or the Steward (R470). -/
def State.namedHandles (s : State) : List Nat :=
  s.cpg.queues.flatMap (fun x => (x.2.onchip ++ x.2.writes).map (fun k => k.d.handle))
    ++ s.cpg.cipher.flatMap (fun x => x.2.map (·.handle)) ++ s.cpg.egress.flatMap (fun x => x.2.map (fun o => o.d.handle))
    ++ s.fwd.express.map (fun x => x.d.handle) ++ s.fwd.srtIn.filterMap (fun x => match x with | .new d => some d.handle | .again _ _ => none)
    ++ s.fwd.enq.map (fun x => x.d.handle) ++ s.fwd.flights.map (fun f => f.d.handle)
    ++ s.fwd.toHost.map (fun x => x.d.handle) ++ s.fwd.toStw.map (fun x => x.d.handle)
    ++ s.eng.ctxs.filterMap (fun x => x.2.map (fun c => c.d.handle))

/-- A leaked buffer freed (R470): its last reference released. -/
def State.freeLeak (s : State) (h : Nat) : State :=
  (((s.raise .BUF_LEAK srcCpg h).inc Cnt.WDN_LEAKS).setBuf h { s.buf h with ref := 1 }).unref h

/-- BUFFER_AUDIT (R470): a pool's free list against its FREE bits, `diff` their signed difference; a HELD buffer named nowhere in two
consecutive audits is freed. -/
def execBufferAudit (pool : Fin 4) (diff : BitVec 24) (s : State) : Host.Outcome State Fault Refusal :=
  ok (if !s.testOn Reg.WDN_CFG.AUDIT_EN then s
    else
      let s1 := if diff.toNat = 0 then s else s.raise .BUF_AUDIT srcCpg (diff.toNat * 4 + pool.val)
      let named := s1.namedHandles
      let lone := (s1.heldOf pool.val).filter (fun h => !named.contains h)
      let leaked := lone.filter (fun h => s1.wdn.suspects.contains h)
      let s2 := leaked.foldl (fun s h => s.freeLeak h) s1
      let keep := s2.wdn.suspects.filter (fun h => handlePool h ≠ pool.val) ++ lone.filter (fun h => !leaked.contains h)
      ({ s2 with wdn := { s2.wdn with suspects := keep, pools := pool.val :: s2.wdn.pools.filter (fun p => p ≠ pool.val) } } : State).cycleEnd)

/-- Source and lane number of a lane's margin message (Table 14-6): PON lanes are numbered 2 × port + side. -/
def laneEye : LaneBlock → Source × Nat
  | .pon p k => (srcPt p, 2 * p.val + k.val % 2)
  | .ulk n => (srcUlk n.val, n.val)
  | .shl n => (srcLane n.val, n.val)
  | .pcie n => (⟨.HST, 0⟩, n.val)

/-- EYE_SCAN (R470): margin `m` of an enabled lane's eye, in 1/64 UI. -/
def execEyeScan (b : LaneBlock) (m : BitVec 8) (s : State) : Host.Outcome State Fault Refusal :=
  ok (if !s.testOn Reg.WDN_CFG.EYE_EN || !s.laneOn b then s
    else
      let s1 := s.inc Cnt.WDN_EYE_SCANS
      let s2 := if m.toNat < s.rd Reg.WDN_CYCLE.EYE_MIN then s1.raise .EYE_MARGIN_LOW (laneEye b).1 ((laneEye b).2 * 256 + m.toNat) else s1
      ({ s2 with wdn := { s2.wdn with eyes := laneBase b :: s2.wdn.eyes.filter (fun a => a ≠ laneBase b) } } : State).cycleEnd)

/-- WARDEN_FORCE_START (R475): the cycle has run FORCE_AT / 256 of CYCLE_LIMIT without completing. -/
def execWardenForceStart (s : State) : Host.Outcome State Fault Refusal :=
  ok (if s.bit Reg.WDN_CFG.EN then s.wr Reg.WDN_STATUS.FORCED 1 else s)

/-- WDN_LATE (R475): the cycle is incomplete at CYCLE_LIMIT. The PROGRESS its address carries has no rule: a free value. -/
def execWdnLate (s : State) : Host.Outcome State Fault Refusal :=
  ok (if s.bit Reg.WDN_CFG.EN then
      let f := s.fresh
      f.2.onset .WDN_LATE srcWdn 0 (f.1 % 1024)
    else s)

end Sys2Proof.Machine
end

