-- ==== Sys2Proof/Machine/View.lean ====
section
/-! DEFINITION. What a read of a word returns (00_scope.md R6, R7, R10; 15_counters_and_observability.md R64, Table 15-5; Table 17-3):
words kept as written, read-only fields that show other state, counters, and wide values whose higher words are latched. -/

namespace Sys2Proof.Machine

set_option autoImplicit false

/-- A word with a field showing a value. -/
def showFld (x : Word) (f : Fld) (v : Nat) : Word := putField x f.lo f.w v

/-- A truth value as a field value. -/
def b2n (b : Bool) : Nat := if b then 1 else 0

/-- A port side shown by PTn_ALN_PHASE. -/
def State.alnPhase (s : State) (p : Fin 32) : Word :=
  let w := s.word (Reg.PT_ALN_PHASE.addr p.val)
  let sd := s.rd (Reg.PT_ALN_PHASE.SIDE p.val)
  let d := if sd = 0 then (s.port p).align.1 else (s.port p).align.2
  showFld (showFld w (Reg.PT_ALN_PHASE.VALID p.val) (b2n (s.rd (alnState p sd) == 2))) (Reg.PT_ALN_PHASE.DIFF p.val) (intBits 24 d)

/-- PTn_ACT_STATUS (Table 3-13). -/
def State.actStatus (s : State) (p : Fin 32) : Word :=
  let w := s.word (Reg.PT_ACT_STATUS.addr p.val)
  let t := s.tree p
  let w1 := showFld w (Reg.PT_ACT_STATUS.RAMP p.val) (b2n t.ramp)
  let w2 := showFld w1 (Reg.PT_ACT_STATUS.TEQD_SHORT p.val) (b2n (s.teqdShort p))
  let w3 := showFld w2 (Reg.PT_ACT_STATUS.CMD_BUSY p.val) (b2n t.cmd.isSome)
  let w4 := showFld w3 (Reg.PT_ACT_STATUS.HUNT p.val) (b2n t.hunt.isSome)
  showFld (showFld w4 (Reg.PT_ACT_STATUS.ACTIVE_SLOTS p.val) (s.activeSlots p)) (Reg.PT_ACT_STATUS.ADMIT_COUNT p.val) t.admitted

/-- LDG_BANK[b] (Table 7-13). -/
def State.ldgBank (s : State) (b : Nat) : Word :=
  let w := s.word (Reg.LDG_BANK.addr b)
  let used := (s.ldg.rows.filter (fun x => decide (x.1 / 1024 = b))).length
  showFld (showFld (showFld w (Reg.LDG_BANK.RETIRED b) (b2n (s.bankRetired b))) (Reg.LDG_BANK.MANAGED b) (b2n (s.regionOf b).isSome))
    (Reg.LDG_BANK.USED b) used

/-- State of the twin link (Table 10-11): DOWN with no lane ACTIVE, PAIRING until heartbeats come, then UP (DEDUCED, log entry
36). -/
def State.twinLink (s : State) : Nat := if s.twinUp.isEmpty then 0 else if s.twn.alive then 2 else 1

/-- TWN_STATUS (Table 10-11): SYNCED while the SYNC of every shadow tree has come. -/
def State.twnStatus (s : State) : Word :=
  let sh := ports.filter (fun p => s.shadow p)
  let w := showFld (s.word Reg.TWN_STATUS.addr) Reg.TWN_STATUS.LINK s.twinLink
  showFld w Reg.TWN_STATUS.SYNCED (b2n (!sh.isEmpty && sh.all (fun p => (s.twinTree p).synced)))

/-- FLT_STATUS (Table 14-15). -/
def State.fltStatus (s : State) : Word :=
  let f := s.flt
  let w := showFld (showFld 0#32 Reg.FLT_STATUS.SAFE (b2n f.safe)) Reg.FLT_STATUS.PEND s.pendBits
  showFld (showFld (showFld w Reg.FLT_STATUS.RESTART_LIMIT (b2n f.restartLimit)) Reg.FLT_STATUS.EXIT_REFUSED (b2n f.exitRefused))
    Reg.FLT_STATUS.RESTARTS (min 15 f.restarts)

/-- FLT_KIND[k] word 1 (Table 14-18). -/
def State.kindStatus (s : State) (k : Nat) : Word :=
  let x := s.kindSt k
  let w := showFld (showFld 0#32 (Reg.FLT_KIND_W1.STATUS k) (b2n x.status)) (Reg.FLT_KIND_W1.CAUSE_ACTIVE k) (b2n (s.causeActive k))
  showFld (showFld w (Reg.FLT_KIND_W1.SEVERE k) (b2n x.severe)) (Reg.FLT_KIND_W1.COUNT k) (min 65535 x.count)

/-- A word of FLT_FIRST[c] (Table 14-1). -/
def State.firstWord (s : State) (c j : Nat) : Word :=
  match (if c = 0 then s.flt.first0 else if c = 1 then s.flt.first1 else s.flt.first2) with
  | some m => m.word j
  | none => 0#32

/-- WDN_STATUS (Table 14-20): PROGRESS, whose measure the spec does not give, is a free value. -/
def State.wdnStatus (s : State) : Word :=
  let w := showFld (s.word Reg.WDN_STATUS.addr) Reg.WDN_STATUS.LATE (b2n (s.causeActive Kind.WDN_LATE.code))
  showFld (showFld w Reg.WDN_STATUS.PROGRESS (Config.freeValue s.free)) Reg.WDN_STATUS.ELAPSED (min 65535 s.cycleTime)

/-- HRL_STATUS (Table 11-5). -/
def State.hrlStatus (s : State) : Word :=
  showFld (showFld (showFld 0#32 Reg.HRL_STATUS.SLEWING (b2n (s.ofsNow != 0))) Reg.HRL_STATUS.STATE_A (s.dom 0).state.code)
    Reg.HRL_STATUS.STATE_B (s.dom 1).state.code

/-- A word of a number, lowest first. -/
def natWord (v i : Nat) : Word := BitVec.ofNat 32 (v / 2 ^ (32 * i))

/-- Words of the Horologer that show times and states (Tables 11-5, 11-6, 11-11); others as kept. -/
def State.hrlView (s : State) (o : Nat) : Word :=
  let kept := s.word (0x30000 + o)
  if o = 0x04 then s.hrlStatus
  else if o = 0x08 ∨ o = 0x0C then natWord s.now ((o - 0x08) / 4)
  else if 0x10 ≤ o ∧ o < 0x20 then (timeWords s.outTime).getD ((o - 0x10) / 4) 0#32
  else if o = 0x20 ∨ o = 0x24 then natWord (intBits 64 (s.ofsNow / 2 ^ 32)) ((o - 0x20) / 4)
  else if 0x100 ≤ o ∧ o < 0x180 then
    let d := (o - 0x100) / 0x40
    let i := o % 0x40
    let x := s.dom d
    if i = 0x04 then showFld (showFld kept (Reg.HRL_DOM_STATE.STATE d) x.state.code) (Reg.HRL_DOM_STATE.STEPPED d) (b2n x.stepped)
    else if i = 0x08 ∨ i = 0x0C then natWord (intBits 40 x.freq) ((i - 0x08) / 4)
    else if 0x10 ≤ i ∧ i < 0x20 then (timeWords (s.domTime d)).getD ((i - 0x10) / 4) 0#32
    else kept
  else kept

/-- Words of a port that show other state; others as kept. -/
def State.ptView (s : State) (p : Fin 32) (o : Nat) : Word :=
  if o = 0x08 ∨ o = 0x0C then natWord (s.sfc p) ((o - 0x08) / 4)
  else if o = 0x48 then s.alnPhase p
  else if o = 0x214 then s.actStatus p
  else s.word (0x100000 + p.val * 0x10000 + o)

/-- Words of a guild that show other state; others as kept. -/
def State.gldView (s : State) (g o : Nat) : Word :=
  let w := s.word (0x400000 + g * 0x10000 + o)
  if o = 0x04 then showFld w (Reg.GLD_STATE.IN_SERVICE g) (((List.range 16).map (fun e => if s.engineUp g e then 2 ^ e else 0)).sum)
  else if o = 0xF00 then showFld w (Reg.GLD_PACE.RETIRED g) (b2n (!s.healthy g))
  else w

/-- Words of Bellman. -/
def State.fltView (s : State) (o : Nat) : Word :=
  if o = 0x04 then s.fltStatus
  else if o = 0x08 then
    showFld (showFld 0#32 Reg.FLT_QSTATUS.DEPTH s.flt.queue.length) Reg.FLT_QSTATUS.OVERFLOW (min 65535 s.flt.overflow)
  else if 0x200 ≤ o ∧ o < 0x230 then s.firstWord ((o - 0x200) / 0x10) (o % 0x10 / 4)
  else if 0x1000 ≤ o ∧ o < 0x1800 ∧ o % 8 = 4 then s.kindStatus ((o - 0x1000) / 8)
  else s.word (0x10000 + o)

/-- Words of Ledger. -/
def State.ldgView (s : State) (o : Nat) : Word :=
  if 0x100 ≤ o ∧ o < 0x200 then s.ldgBank ((o - 0x100) / 4)
  else
    let w := s.word (0xD0000 + o)
    if 0x1000 ≤ o ∧ o < 0x1400 ∧ o % 0x20 = 0 then
      showFld w (Reg.LDG_PROF_W0.WIDTH_SKIP ((o - 0x1000) / 0x20)) (b2n (s.widthSkip ((o - 0x1000) / 0x20)))
    else w

/-- Words of Cooperage. -/
def State.cpgView (s : State) (o : Nat) : Word :=
  if 0x20 ≤ o ∧ o < 0x30 then BitVec.ofNat 32 (s.freeOf ((o - 0x20) / 4))
  else if o = 0x208 then
    showFld (showFld 0#32 Reg.CPG_CELLAR_STATUS.BUSY (b2n (s.cpg.tops.any (fun x => x.2.dropping)))) Reg.CPG_CELLAR_STATUS.PAGES_FREE
      (s.cellarPages - s.pagesUsed)
  else s.word (0x90000 + o)

/-- Words of the twin logic: status, READY, and what of a tree's samples lies in the last 100 ms (Table 10-16). -/
def State.twnView (s : State) (o : Nat) : Word :=
  let w := s.word (0x50000 + o)
  if o = 0x04 then s.twnStatus
  else if o = 0x0C then BitVec.ofNat 32 s.readyMask
  else if 0x100 ≤ o ∧ o < 0x300 then
    let p : Fin 32 := Fin.ofNat 32 ((o - 0x100) / 0x10)
    match o % 0x10 / 4 with
    | 1 => showFld w (Reg.TWN_PORT_W1.DELTA_VALID p.val) (b2n (s.deltaValid p))
    | 3 => showFld w (Reg.TWN_PORT_W3.SAMPLES p.val) (min 65535 (s.deltaCount p))
    | _ => w
  else w

/-- What a register shows (R6): the words a block keeps, with its read-only fields; bits of WO fields read as 0. -/
def State.view (s : State) (a : Nat) : Word :=
  match regAt a, Sys2Proof.Machine.place a with
  | some (r, _), some pl =>
    let o := pl.off
    let w := match pl.blk with
      | .HRL => s.hrlView o
      | .FLT => s.fltView o
      | .LDG => s.ldgView o
      | .CPG => s.cpgView o
      | .PT => if h : pl.inst < 32 then s.ptView ⟨pl.inst, h⟩ o else 0#32
      | .GLD => s.gldView pl.inst o
      | .XPR => if o = 0x500 then BitVec.ofNat 32 (((List.range 16).map (fun p => if s.profBad p then 2 ^ p else 0)).sum) else s.word a
      | .SRT => if o = 0x600 then showFld (s.word a) Reg.SRT_RETIRE_CFG.LOOSE_COUNT s.loose else s.word a
      | .EXM => if o = 0x14 then BitVec.ofNat 32 s.wayUsed else if o = 0x18 then BitVec.ofNat 32 s.stashUsed else s.word a
      | .SCH =>
        if o = 0x180 then showFld (showFld 0#32 Reg.SCH_SAMPLE_STATUS.STRETCH (b2n s.sampleStretch.1)) Reg.SCH_SAMPLE_STATUS.FACTOR s.sampleStretch.2
        else s.word a
      | .KEY => if 0x20 ≤ o ∧ o < 0x80 then 0#32 else if o = 0x04 then showFld (s.word a) Reg.KEY_STATUS.CACHE_USED s.keys.cache.length else s.word a
      | .TWN => s.twnView o
      | .WDN => if o = 0x08 then s.wdnStatus else s.word a
      | _ => s.word a
    w &&& ~~~ r.wo
  | _, _ => 0#32

/-! Counters (R64). -/

/-- Low address of the counter an address lies in. -/
def ctrAt (a : Nat) : Option Nat :=
  let b := a - a % 8
  let lt := fun (o : Nat) => o = 8 ∨ o = 0x10 ∨ o = 0x18
  if a % 4 ≠ 0 then none
  else if (eventOf b).isSome then some b
  else if 0x100000 ≤ b ∧ b < 0x300000 ∧ 0xC00 ≤ b % 0x10000 ∧ b % 0x10000 < 0xD00 ∧ lt (b % 0x40) then some b
  else if 0x320000 ≤ b ∧ b < 0x338000 ∧ 0x800 ≤ b % 0x1000 ∧ b % 0x1000 < 0x840 ∧ lt (b % 0x40) then some b
  else if 0x62000 ≤ b ∧ b < 0x62400 ∧ lt (b % 0x40) then some b
  else if 0x78000 ≤ b ∧ b < 0x78400 ∧ lt (b % 0x40) then some b
  else if 0x21000 ≤ b ∧ b < 0x21040 then some b
  else if 0x41000 ≤ b ∧ b < 0x41030 then some b
  else if 0x71000 ≤ b ∧ b < 0x73000 ∧ (b % 0x40 = 0x20 ∨ b % 0x40 = 0x28) ∧ ringExists ((b - 0x71000) / 0x40) then some b
  else if b = 0x70030 then some b
  else none

/-- A word of a counter: the count's bits 31:0, then 47:32 with WRAPPED in bit 31. -/
def Ctr.word (c : Ctr) (hi : Bool) : Word := natWord c.bits (if hi then 1 else 0)

/-! Wide values (R10). -/

/-- First word and number of words of the wide value an address lies in, where its higher words are latched (DEDUCED, log entry
37). -/
def wideAt (a : Nat) : Option (Nat × Nat) :=
  let two := fun (b : Nat) => some (b, 2)
  match ctrAt a with
  | some b => two b
  | none =>
    if a = 0x08 ∨ a = 0x0C then two 0x08
    else if a = 0x20010 ∨ a = 0x20014 then two 0x20010
    else if a = 0x40014 ∨ a = 0x40018 then two 0x40014
    else if a = 0x30008 ∨ a = 0x3000C then two 0x30008
    else if 0x30010 ≤ a ∧ a < 0x30020 then some (0x30010, 4)
    else if a = 0x30020 ∨ a = 0x30024 then two 0x30020
    else if 0x30100 ≤ a ∧ a < 0x30180 then
      let b := a - a % 0x40
      if a = b + 0x08 ∨ a = b + 0x0C then two (b + 0x08) else if b + 0x10 ≤ a ∧ a < b + 0x20 then some (b + 0x10, 4) else none
    else if 0x30800 ≤ a ∧ a < 0x30814 then some (0x30800, 5)
    else if 0x30820 ≤ a ∧ a < 0x30834 then some (0x30820, 5)
    else if 0x10100 ≤ a ∧ a < 0x10110 then some (0x10100, 4)
    else if 0x10200 ≤ a ∧ a < 0x10230 then two (a - a % 8)
    else if 0xB0100 ≤ a ∧ a < 0xB0140 then two (a - a % 8)
    else if 0xD1000 ≤ a ∧ a < 0xD1400 then
      let b := a - a % 0x20
      if a = b + 4 ∨ a = b + 8 then two (b + 4) else if b + 0x10 ≤ a then some (b + 0x10, 4) else none
    else if 0x71000 ≤ a ∧ a < 0x73000 then
      let b := a - a % 0x40
      if a = b ∨ a = b + 4 then two b else if a = b + 0x18 ∨ a = b + 0x1C then two (b + 0x18) else none
    else if 0x100000 ≤ a ∧ a < 0x300000 then
      let b := a - a % 0x10000
      let o := a % 0x10000
      if 0x08 ≤ o ∧ o < 0x20 then two (a - a % 8)
      else if 0x100 ≤ o ∧ o < 0x200 ∧ 8 ≤ o % 0x10 then two (b + o - o % 8)
      else none
    else none

/-- A register or counter occupies an address of BAR0. -/
def occupied (a : Nat) : Bool := (regAt a).isSome || (ctrAt a).isSome

/-- Word a register or counter shows. -/
def State.show (s : State) (a : Nat) : Word :=
  match ctrAt a with
  | some b => (s.ctr b).word (a != b)
  | none => s.view a

/-- A read of a trap log entry (Table 6-17): it is no longer unread. -/
def State.trapSeen (s : State) (a : Nat) : State :=
  if 0x400000 ≤ a ∧ a < 0x800000 ∧ 0x100 ≤ a % 0x10000 ∧ a % 0x10000 < 0x200 then
    let g := (a - 0x400000) / 0x10000
    let x := s.guild g
    s.setGuild g { x with unread := x.unread.filter (fun i => i ≠ (a % 0x10000 - 0x100) / 16) }
  else s

/-- A read of a register or counter: the lowest word of a wide value latches the others, and a higher word is the latched one
(R10). -/
def State.readWord (s0 : State) (ag : Agent) (a : Nat) : State :=
  let s := (s0.trapSeen a).injSeen a
  match wideAt a with
  | some (b, n) =>
    if a = b then
      ((List.range (n - 1)).foldl (fun (x : State) i => x.setLatch (b + 4 * (i + 1)) (s.show (b + 4 * (i + 1)))) s).answer ag (s.show a)
    else s.answer ag (s.latched a)
  | none => s.answer ag (s.show a)

/-! The counter window of a function (R488, R489, Table 15-5). -/

/-- Key of a latched word of a function's counter window. -/
abbrev barKey (f off : Nat) : Nat := 2 ^ 38 + f * 2 ^ 20 + off

/-- The words of a PM record (Table 15-7). -/
def State.pmWords (s : State) (r : Nat) : List Word :=
  let x := s.pmRec r
  let pair := fun (ses es : Nat) => BitVec.ofNat 32 (ses % 1024 * 1024 + es % 1024)
  [BitVec.ofNat 32 (b2n x.unavail * 2 ^ 31 + b2n x.monitored * 2 ^ 30 + b2n s.pm.jumped * 2 ^ 29 + b2n s.pm.prevSuspect * 2 ^ 28
      + min 10 x.hist.length * 2 ^ 24),
   BitVec.ofNat 32 x.es, BitVec.ofNat 32 x.ses, BitVec.ofNat 32 x.uas, pair x.curSes x.curEs, BitVec.ofNat 32 (x.curUas % 1024),
   pair x.prevSes x.prevEs, BitVec.ofNat 32 (x.prevUas % 1024)]

/-- Whether a bank is being filled: the one that does not hold the last completed snapshot, while a snapshot is in progress. -/
def State.filling (s : State) (b : Nat) : Bool := s.bit Reg.TLY_STATUS.BUSY && s.rd Reg.TLY_STATUS.BANK != b

/-- A counter a function sees: the PF all of them, a VF those it owns (R488). -/
def State.tlySeen (s : State) (f i : Nat) : Bool := f == 0 || (s.tlyCfg i).owner == f

/-- What an offset of the counter window holds for a function: the whole value it lies in, as words, and the first offset of that
value; none outside Table 15-5. The values of several words are T_FIRST and OUT_SEC of a header, an entry, a live count, a PM
record and the T of an event log entry (R10, R488; that a PM record is one value is DEDUCED, log entry 37). -/
def State.windowAt (s : State) (f off : Nat) : Option (Nat × List Word) :=
  let pair := fun (v : Nat) => [natWord v 0, natWord v 1]
  if off < 0x80 then
    let ws := (s.bank (off / 0x40)).header (s.filling (off / 0x40))
    let j := off % 0x40 / 4
    if j / 2 = 1 ∨ j / 2 = 3 then some (off - off % 8, [ws.getD (j - j % 2) 0#32, ws.getD (j - j % 2 + 1) 0#32])
    else some (off, [ws.getD j 0#32])
  else if 0x1000 ≤ off ∧ off < 0x11000 then
    let i := (off - 0x1000) % 0x8000 / 8
    let v := if s.tlySeen f i then (s.bank ((off - 0x1000) / 0x8000)).entry i else 0
    some (off - off % 8, pair v)
  else if 0x11000 ≤ off ∧ off < 0x19000 then
    let i := (off - 0x11000) / 8
    some (off - off % 8, pair (if s.tlySeen f i then (s.tlyVal i).bits else 0))
  else if f = 0 ∧ 0x20000 ≤ off ∧ off < 0x20000 + pmRecs * 32 then some (off - off % 32, s.pmWords ((off - 0x20000) / 32))
  else if f = 0 ∧ 0xC0000 ≤ off ∧ off < 0xC4000 then
    let ws := (Tab.get (fun _ => PmEvent.zero) s.pm.log ((off - 0xC0000) / 16)).words
    let j := off % 16 / 4
    if j = 1 ∨ j = 2 then some (off - off % 16 + 4, [ws.getD 1 0#32, ws.getD 2 0#32]) else some (off, [ws.getD j 0#32])
  else none

/-- Function of an accessor: the Steward and the image have no counter window. -/
def fnOf : Agent → Option Nat
  | .pf => some 0
  | .vf n => some (n.val + 1)
  | _ => none

/-- COUNTER_USER_EN of a function (R489). -/
def State.userEn (s : State) (f : Nat) : Bool :=
  if f < 32 then (s.word Reg.TLY_USER_LO.addr).getLsbD f else (s.word Reg.TLY_USER_HI.addr).getLsbD 0

/-- A read of a function's counter window. -/
def State.readCounters (s : State) (ag : Agent) (off : Nat) : State :=
  match fnOf ag with
  | none => (s.denyAs true ag .badAddr off noWin).answer ag 0#32
  | some f =>
    if !s.userEn f then (s.denyAs true ag .disabled off noWin).answer ag 0#32
    else if off % 4 ≠ 0 then s.answer ag 0#32
    else match s.windowAt f off with
      | none => (s.denyAs true ag .badAddr off noWin).answer ag 0#32
      | some (b, ws) =>
        let s1 : State := if 0xC0000 ≤ off then { s with pm := { s.pm with unread := s.pm.unread.filter (fun i => i ≠ (off - 0xC0000) / 16) } } else s
        let j := (off - b) / 4
        if j = 0 then ((ws.zipIdx.drop 1).foldl (fun (x : State) y => x.setLatch (barKey f (b + 4 * y.2)) y.1) s1).answer ag (ws.getD 0 0#32)
        else s1.answer ag (s1.latched (barKey f off))

end Sys2Proof.Machine
end

