-- ==== Sys2Proof/Machine/Win.lean ====
section
/-! DEFINITION. The window ports (17_host_interface_and_register_map.md R543 to R546, Tables 17-4 and 17-5): the words each entry
shows, the writes each table takes or refuses, and the access of one port. -/

namespace Sys2Proof.Machine

set_option autoImplicit false

/-! What an entry shows. -/

/-- Words of a number, lowest first. -/
def natWords (v n : Nat) : List Word := (List.range n).map (natWord v)

/-- Words `first` to `n` − 1 of an entry as kept, as a list of `n`. -/
def State.kept (s : State) (w idx n : Nat) : List Word := (List.range n).map (fun j => s.word (winKey w idx j))

/-- A receiver preset (R63), low word first (log entry 38): VALID, age in ms saturating at 255, temperature, margin, settings. -/
def State.presetWords (s : State) (p : Fin 32) (idx : Nat) : List Word :=
  let x := s.preset p (idx / 256) (idx % 256)
  let age := if x.known then min 255 ((s.now - x.learned) / 1000000) else 0
  natWords (b2n x.valid * 2 ^ 63 + age * 2 ^ 55 + x.temp % 256 * 2 ^ 47 + x.margin % 256 * 2 ^ 39 + x.settings % 2 ^ 39) 2

/-- A slot table entry (Table 3-16): RERANGE_PEND is of an ACTIVE slot, and TRIES counts the grant that is out. MEAN shows 0 before 8 offsets are recorded (log entry 16). -/
def State.slotWords (s : State) (p : Fin 32) (i : Nat) : List Word :=
  let x := s.slot p i
  let sn := x.sn.getD 0
  let mean := match x.sum8 with | some v => roundDiv v 8 | none => 0
  let w0 := x.state.code * 2 ^ 29 + x.side % 2 * 2 ^ 28 + x.row % 4 * 2 ^ 26 + b2n (x.range != .none && x.state == .active) * 2 ^ 25 + b2n x.hold * 2 ^ 24
    + (x.tries + b2n (x.range == .placed)) % 16 * 2 ^ 20 + min 15 x.missed * 2 ^ 16 + x.authIdx % 65536
  [BitVec.ofNat 32 w0, natWord sn 0, natWord sn 1, BitVec.ofNat 32 (intBits 6 mean * 2 ^ 26 + intBits 26 x.eqd)]

/-- An allocation entry (Table 4-1). -/
def State.allocWords (s : State) (i : Nat) : List Word :=
  let x := Tab.get (fun _ => AllocRt.reset) s.whf.alloc i
  s.kept wWhf i 5 ++ [BitVec.ofNat 32 (x.pCred % 2 ^ 24), BitVec.ofNat 32 x.report,
    BitVec.ofNat 32 (min 15 x.poll * 2 ^ 28 + x.aCred % 2 ^ 21)]

/-- A repair log entry. -/
def State.repairWords (s : State) (i : Nat) : List Word := natWords (Tab.get (fun _ => 0) s.whf.log i) 2

/-- Epoch fields of word 0 of Table 7-17, of an occupied row or cell. -/
def Life.bits (l : Life) : Nat :=
  2 ^ 31 + (match l.died with | some d => 2 ^ 30 + d % 16 * 2 ^ 22 | none => 0) + l.born % 16 * 2 ^ 26

/-- A Ledger row (Table 7-17): a wide entry lies in 2 or 4 rows, the most significant bits in the first, the result in the
first alone. -/
def State.rowWords (s : State) (i : Nat) : List Word :=
  let n := widthRows (s.bankWidth (i / 1024))
  let j := i % n
  match s.row (i - j) with
  | none => List.replicate 16 0#32
  | some e =>
    let part := fun (v : Nat) => (natWords (v / 2 ^ (160 * (n - 1 - j)) % 2 ^ 160) 5).reverse
    [BitVec.ofNat 32 (e.life.bits + e.prio % 65536)] ++ part e.value ++ part e.care
      ++ (if j = 0 then [e.result.a, e.result.b, e.result.c, e.result.d] else List.replicate 4 0#32) ++ [0#32]

/-- An exact-match cell (Table 7-17): the first key byte is the highest of word 1. -/
def State.cellWords (s : State) (i : Nat) : List Word :=
  match s.cell i with
  | none => List.replicate 16 0#32
  | some c =>
    let k := sliceZ c.key 0 32
    [BitVec.ofNat 32 (c.life.bits + c.table % 32 * 2 ^ 16 + (c.key.length - 1) % 32)]
      ++ (List.range 8).map (fun j => BitVec.ofNat 32 (beNat (sliceZ k (4 * j) 4))) ++ [0#32, 0#32]
      ++ [c.result.a, c.result.b, c.result.c, c.result.d, 0#32]

/-- Whole bytes of a level (Table 8-15). -/
def levelWord (x : Int) : Word := BitVec.ofInt 32 (x.fdiv byteUnit)

/-- A statistics entry (Table 8-16): CLEAR reads as 0. -/
def State.statWords (s : State) (idx e : Nat) : List Word :=
  let x := s.stat e
  let n := fun (v : Nat) => BitVec.ofNat 32 v
  [s.word (winKey wSch idx 0) &&& 0xBFFFFFFF#32, n x.start, n x.count, n x.dMin, n x.dMax] ++ natWords x.dSum 2 ++ [n x.tMin, n x.tMax]
    ++ natWords x.tSum 2 ++ x.dBins.map n ++ x.tBins.map n ++ List.replicate 5 0#32

/-- An entry of the SCH window (Tables 8-13 to 8-16), of `n` words. -/
def State.schShow (s : State) (idx n : Nat) : List Word :=
  if idx < 0x12000 then
    let x := s.queue idx
    s.kept wSch idx 4 ++ [BitVec.ofNat 32 (x.onchip.length + x.writes.length + x.cellar.length), BitVec.ofNat 32 x.bytes,
      BitVec.ofNat 32 (b2n x.spill * 2 ^ 31 + x.bytes / 2 ^ 32 % 4 * 2 ^ 24 + ceilDiv x.occ 64 % 2 ^ 24), BitVec.ofNat 32 (x.pages % 2 ^ 22)]
      ++ natWords (Ctr.bits ⟨x.drops, x.wrapped⟩) 2 ++ [s.word (winKey wSch idx 10)] ++ List.replicate 5 0#32
  else if idx < 0x22000 then
    let st := match s.nodeState (idx - 0x20000) with | .run => 0 | .paused => 1 | .down => 2
    [s.word (winKey wSch idx 0), BitVec.ofNat 32 (st * 2 ^ 30)]
  else if idx < 0x24068 then s.kept wSch idx n
  else if idx < 0x100000 then
    let b := (idx - 0x40000) / 8
    let x := s.bkt b
    let w0 := (s.word (winKey wSch idx 0) &&& 0xF80000FF#32) ||| BitVec.ofNat 32 (b2n x.debt * 2 ^ 26 + b2n x.pend.isSome * 2 ^ 25)
    [w0] ++ (s.kept wSch idx 5).drop 1 ++ [levelWord x.c, levelWord x.p, BitVec.ofNat 32 (s.bktLast b)]
  else s.statWords idx ((idx - 0x100000) / 32)

/-- A root slot entry (Table 9-11). -/
def State.rootWords (s : State) (k : Nat) : List Word :=
  let r := s.root k
  [BitVec.ofNat 32 (r.state.code * 2 ^ 30 + b2n r.held * 2 ^ 29 + b2n r.pend.isSome * 2 ^ 28), natWord r.usage 0,
   BitVec.ofNat 32 (r.usage / 2 ^ 32 % 65536), natWord r.actSfc 0]

/-- Words of an entry as a read shows them; none where the index lies outside the window's table (Table 17-5). -/
def State.winShow (s : State) (w idx : Nat) : Option (List Word) :=
  if h : w < 32 then
    if idx < 512 then some (s.presetWords ⟨w, h⟩ idx)
    else if 0x1000 ≤ idx ∧ idx < 0x1100 then some (s.slotWords ⟨w, h⟩ (idx - 0x1000))
    else none
  else if w < 96 then
    (gldWords idx).map (fun n => (List.range n).map (fun j => s.bankWord (w - 32) true (idx * 16 + j)))
  else if w = wWhf then
    if idx < 32768 then some (s.allocWords idx)
    else if 0x10000 ≤ idx ∧ idx < 0x11000 then some (s.repairWords (idx - 0x10000))
    else if 0x20000 ≤ idx ∧ idx < 0x20400 then some (s.kept wWhf idx 16)
    else none
  else if w = wFsi then (if idx < 2 ^ 18 then some (s.kept wFsi idx 1) else none)
  else if w = wLdg then (if idx < 65536 then some (s.rowWords idx) else none)
  else if w = wExm then (if idx < cellCount then some (s.cellWords idx) else none)
  else if w = wCpg then (cpgWords idx).map (fun n => s.kept wCpg idx n)
  else if w = wSch then (schWords idx).map (fun n => s.schShow idx n)
  else if w = wKey then
    if idx < 16416 then some (s.rootWords idx) else if 0x10000 ≤ idx ∧ idx < 0x20000 then some (s.kept wKey idx 1) else none
  else if w = wHrl then (if idx < 256 then some (s.kept wHrl idx 1) else none)
  else if w = wTly then (if idx < 4096 then some (s.kept wTly idx 14 ++ natWords (s.tlyVal idx).bits 2) else none)
  else if w = wShl then (if idx < 8064 then some (s.kept wShl idx 1) else none)
  else none

/-- What a read of an entry changes: a repair log entry has been read (R137). -/
def State.winSeen (s : State) (w idx : Nat) : State :=
  if w = wWhf ∧ 0x10000 ≤ idx ∧ idx < 0x11000 then
    { s with whf := { s.whf with logUnread := s.whf.logUnread.filter (fun i => i ≠ idx - 0x10000) } }
  else s

/-! Writes. -/

/-- A read-only table (Table 17-5). -/
def winReadOnly (w idx : Nat) : Bool :=
  decide (w < 32 ∧ 0x1000 ≤ idx) || decide (w = wWhf ∧ 0x10000 ≤ idx ∧ idx < 0x11000) || decide (w = wLdg) || decide (w = wExm)
    || decide (w = wKey ∧ idx < 16416)

/-- Words 0 to `n` − 1 of an entry as a write from word `first` leaves them. -/
def State.merged (s : State) (w idx first : Nat) (ws : List Word) (n : Nat) : List Word :=
  (List.range n).map (fun j => if first ≤ j then ws.getD (j - first) (s.word (winKey w idx j)) else s.word (winKey w idx j))

/-- Bit 63 of a preset entry in a write from word `first`, where the write carries it. -/
def presetBit (first : Nat) (ws : List Word) : Option Bool := if first ≤ 1 then (ws[1 - first]?).map (fun w => w.getLsbD 31) else none

/-- A write that the table's own rules refuse (R544; R63, R110, R131, R207, R275, R440, R482, R484, R529). -/
def State.winRefused (s : State) (ag : Agent) (w idx first : Nat) (ws : List Word) : Bool :=
  if h : w < 32 then (match presetBit first ws with | some b => s.presetRefused ⟨w, h⟩ idx b | none => false)
  else if w < 96 then s.gldRefused (w - 32)
  else if w = wWhf then
    if idx < 32768 then s.allocRefused (Fin.ofNat 32 (idx / 1024)) (idx % 1024) (s.merged wWhf idx first ws 5)
    else s.bit Reg.WHF_CTRL.ALG
  else if w = wFsi then s.fsiRefused idx
  else if w = wSch then s.schRefused idx first ws
  else if w = wTly then
    decide (ag = .steward) || (first == 0 && (match ws with | [] => false | v :: _ => !eventFits idx (v.extractLsb' 0 12).toNat))
  else decide (w = wShl ∧ 8064 ≤ idx)

/-- A write applied: words 1 onward, then word 0 (R545). -/
def State.winStore (s : State) (ag : Agent) (w idx first : Nat) (ws : List Word) : State :=
  if h : w < 32 then (match presetBit first ws with | some b => s.presetStore ⟨w, h⟩ idx b | none => s)
  else if w < 96 then s.gldStore (w - 32) idx first ws
  else if w = wWhf then
    if idx < 32768 then s.allocWrite (Fin.ofNat 32 (idx / 1024)) (idx % 1024) (s.merged wWhf idx first ws 5)
    else s.putEntry wWhf idx first ws
  else if w = wFsi then s.fsiStore idx (ws.headD 0#32)
  else if w = wCpg then s.cpgStore idx first ws
  else if w = wSch then s.schStore idx first ws
  else if w = wKey then s.ctxStore (idx - 0x10000) (ws.headD 0#32)
  else if w = wTly then
    let s1 := (ws.zipIdx first).foldl (fun s (x : Word × Nat) => if x.2 = 0 then s else s.tlyStore idx x.2 x.1) s
    (match first, ws with | 0, v :: _ => s1.tlyApply ag idx v | _, _ => s1)
  else if w = wShl then s.putWord (winKey wShl idx 0) (ws.headD 0#32 &&& 0xFF00FFFF#32)
  else s.putEntry w idx first ws

/-! The port (Table 17-4). -/

/-- CODE of an access (Table 17-4). -/
inductive WinCode where
  | ok | badIndex | refused | locked | readOnly | scope
deriving DecidableEq, Repr

/-- Its number. -/
def WinCode.num : WinCode → Nat
  | .ok => 0 | .badIndex => 1 | .refused => 2 | .locked => 3 | .readOnly => 4 | .scope => 5

/-- Reason of the denied access a code counts as (R544). -/
def WinCode.deny : WinCode → Option Deny
  | .ok => none | .badIndex => some .badAddr | .refused => some .refused | .locked => some .prot | .readOnly => some .refused
  | .scope => some .scope

/-- Key of a register of the port an accessor has on a window: each window has a host and a Steward port (R545), a VF one port
for all it may read (R546). -/
def portKey (ag : Agent) (w off : Nat) : Nat :=
  match ag with
  | .vf n => 0x800000 + (n.val + 1) * 2 ^ 28 + off
  | _ => 0x800000 + w * 0x1000 + ag.code * 2 ^ 28 + off

/-- What a VF's port serves (R546): the windows of its ports, and the SCH entries of queues and ONU nodes on them. -/
def State.vfSees (s : State) (v : Fin 32) (w idx : Nat) : Bool :=
  let mask := s.word (Reg.HST_VF_PORTS.addr (v.val + 1))
  if w < 32 then mask.getLsbD w
  else if w = wSch then
    if idx < 65536 then mask.getLsbD (idx / 8 / 256) else decide (0x20000 ≤ idx ∧ idx < 0x22000) && mask.getLsbD ((idx - 0x20000) / 256)
  else false

/-- CODE of an access of `count` words from `first` of an entry (R544, R546, R549). -/
def State.winCode (s : State) (ag : Agent) (w idx first count : Nat) (wr : Option (List Word)) : WinCode :=
  let fits := match s.winShow w idx with
    | none => wr.isSome && w == wShl && decide (8064 ≤ idx ∧ first = 0 ∧ count = 1)
    | some l => decide (count ≠ 0 ∧ first + count ≤ l.length)
  match ag, wr with
  | .vf _, some _ => .readOnly
  | .vf v, none => if !s.vfSees v w idx then .scope else if fits then .ok else .badIndex
  | _, none => if fits then .ok else .badIndex
  | _, some ws =>
    if !fits then .badIndex
    else if winReadOnly w idx then .readOnly
    else if s.protectedFor ag (0x800000 + w * 0x1000) then .locked
    else if s.winRefused ag w idx first ws then .refused
    else .ok

/-- The end of an access: CODE written with BUSY 0 (it completes at once), a denied access counted, PF vector 3 for the host
(Table 17-9). -/
def State.winDone (s : State) (ag : Agent) (rd : Bool) (w idx : Nat) (c : WinCode) : State :=
  let s1 := s.putWord (portKey ag w 8) (BitVec.ofNat 32 (c.num * 2 ^ 28))
  let s2 := match c.deny with
    | none => s1
    | some r => s1.denyAs rd ag r idx w
  if ag = .pf then s2.msi 0 3 else s2

/-- A write of WIN_CMD (R543): OP 1 reads words into WIN_DATA, OP 2 writes them into the entry; 0 and 3 are ignored. -/
def State.winCmd (s : State) (ag : Agent) (w : Nat) (v : Word) : State :=
  let op := (v.extractLsb' 30 2).toNat
  let first := (v.extractLsb' 8 5).toNat
  let count := (v.extractLsb' 0 6).toNat
  let idx := (s.word (portKey ag w 0)).toNat
  if op = 1 then
    let c := s.winCode ag w idx first count none
    let s1 := if c = .ok then
        ((((s.winShow w idx).getD []).drop first).take count).zipIdx.foldl (fun s (x : Word × Nat) =>
          s.putWord (portKey ag w (0x80 + 4 * (first + x.2))) x.1) (s.winSeen w idx)
      else s
    s1.winDone ag true w idx c
  else if op = 2 then
    let ws := (List.range count).map (fun j => s.word (portKey ag w (0x80 + 4 * (first + j))))
    let c := s.winCode ag w idx first count (some ws)
    (if c = .ok then s.winStore ag w idx first ws else s).winDone ag false w idx c
  else s

/-- WIN_READ (R543 to R546): a write of WIN_CMD with OP READ. -/
def execWinRead (ag : Agent) (w : Fin 106) (v : Word) (s : State) : Host.Outcome State Fault Refusal := ok (s.winCmd ag w.val (putField v 30 2 1))

/-- WIN_WRITE (R543 to R546, R549): a write of WIN_CMD with OP WRITE. -/
def execWinWrite (ag : Agent) (w : Fin 106) (v : Word) (s : State) : Host.Outcome State Fault Refusal := ok (s.winCmd ag w.val (putField v 30 2 2))

end Sys2Proof.Machine
end

