-- ==== Sys2Proof/Machine/RegWrite.lean ====
section
/-! DEFINITION. Register access of the functions of the host port, the Steward and the image loader (00_scope.md R6 to R10,
17_host_interface_and_register_map.md R541, R542, R547, Tables 17-2 and 17-3): the register an address names, and what a write or
a read of it does. -/

namespace Sys2Proof.Machine

set_option autoImplicit false

/-- The state an outcome goes on with; a command that stops leaves the state as it was. -/
def nextOr (s : State) (o : Host.Outcome State Fault Refusal) : State :=
  match o with
  | .next t => t
  | _ => s

/-- A register whose fields do only what their access type says (R6). -/
def State.plainWrite (s : State) (ag : Agent) (a : Nat) (v : Word) : State := s.gate ag a (fun s => s.storeWord ag a v)

/-- A write that is dropped and counted as a denied access. -/
def State.drop (s : State) (ag : Agent) (a : Nat) : State := s.gate ag a (fun s => s.deny ag .refused a noWin)

/-- A number held in bounds. -/
def heldIn (lo hi x : Nat) : Nat := max lo (min hi x)

/-- A field of a written word held in bounds. -/
def heldField (v : Word) (lo w low high : Nat) : Word := putField v lo w (heldIn low high (v.toNat / 2 ^ lo % 2 ^ w))

/-! Registers with effects of their own, by block. -/

/-- A write of a counter's word (R64): WRAPPED is write-1-to-clear in bit 31 of the high word. -/
def State.ctrWrite (s : State) (ag : Agent) (a b : Nat) (v : Word) : State :=
  s.gate ag a (fun s =>
    if a ≠ b ∧ v.getLsbD 31 then { s with ctrs := Tab.mod (fun _ => Ctr.zero) s.ctrs b (fun c => { c with wrapped := false }) } else s)

/-- A write in Bellman's block (Tables 14-14 to 14-18). -/
def State.fltRegWrite (s : State) (ag : Agent) (a : Nat) (v : Word) : State :=
  let o := a % 0x10000
  if o = 0 then s.fltCtrl ag v
  else if o = 0x04 then s.gate ag a (fun s => if v.getLsbD 26 then { s with flt := { s.flt with exitRefused := false } } else s)
  else if o = 0x08 then s.gate ag a (fun s => ({ s with flt := { s.flt with overflow := s.flt.overflow &&& (65535 - v.toNat % 65536) } } : State))
  else if o = 0x10 then s.isoCmd ag v
  else if 0x1000 ≤ o ∧ o < 0x1800 then
    if o % 8 = 0 then s.kindWrite ag ((o - 0x1000) / 8) v else s.kindClear ag ((o - 0x1000) / 8) v
  else s.plainWrite ag a v

/-- A write in Tallyman's block: TLY_CTRL; TLY_USER only from the PF (R489); TLY_EXPORT (R501). -/
def State.tlyRegWrite (s : State) (ag : Agent) (a : Nat) (v : Word) : State :=
  let o := a % 0x10000
  if o = 0 then s.tlyCtrl ag v
  else if o = 0x10 ∨ o = 0x14 then (if ag = .steward then s.drop ag a else s.plainWrite ag a v)
  else if o = 0x20 then
    s.gate ag a (fun s =>
      let least := if s.bit Reg.TLY_TEMPLATE_CFG.IPV6 then 62 else 42
      if v.getLsbD 30 && !s.bit Reg.TLY_EXPORT.NET_EN && decide (s.rd Reg.TLY_TEMPLATE_CFG.TEMPLATE_LEN < least) then
        (s.storeWord ag a (v &&& 0xBFFFFFFF#32)).deny ag .refused a noWin
      else s.storeWord ag a v)
  else s.plainWrite ag a v

/-- A change of SLEW (R373): OFS as it stands moves on at the new rate. -/
def State.slewWrite (s : State) (ag : Agent) (a : Nat) (v : Word) : State :=
  s.gate ag a (fun s =>
    let o := s.ofsNow
    ({ s with hrl := { s.hrl with ofs := o, ofsAt := s.now } } : State).storeWord ag a v)

/-- A write in the Horologer's block (Tables 11-5 to 11-12). -/
def State.hrlRegWrite (s : State) (ag : Agent) (a : Nat) (v : Word) : State :=
  let o := a % 0x10000
  let d : Fin 2 := Fin.ofNat 2 ((o - 0x100) / 0x40)
  if o = 0 then
    match fldOf v Reg.HRL_CTRL.CMD with
    | 1 => nextOr s (execSwitchOutput ag v s)
    | 2 => nextOr s (execOutStep ag v s)
    | _ => s.plainWrite ag a v
  else if o = 0x2C then s.slewWrite ag a v
  else if 0x100 ≤ o ∧ o < 0x180 then
    match o % 0x40 with
    | 0x00 => nextOr s (execDomainEnWrite ag d v s)
    | 0x20 => s.gate ag a (fun s => s.putWord a (v &&& 0xFFFF#32))
    | 0x24 => s.gate ag a (fun s => s.putWord a v)
    | 0x28 => nextOr s (execPhaseSampleCommit ag d v s)
    | 0x30 => if fldOf v (Reg.HRL_DOM_CMD.CMD d.val) = 1 then nextOr s (execReacquire ag d v s) else s.plainWrite ag a v
    | _ => s.plainWrite ag a v
  else s.plainWrite ag a v

/-- US_ADJ of every side cleared (R348). -/
def State.clearAdj (s : State) : State :=
  ports.foldl (fun s p => (s.wr (Reg.TWN_PORT_W1.US_ADJ50 p.val) 0).wr (Reg.TWN_PORT_W2.US_ADJ10 p.val) 0) s

/-- A write of TWN_CFG (Table 10-10): a change of EN gives lanes 0 to 3 their roles anew (R336, R422); with EN at 0 US_ADJ is 0
(R348). -/
def State.twnCfgWrite (s : State) (ag : Agent) (v : Word) : State :=
  s.gate ag Reg.TWN_CFG.addr (fun s =>
    let s0 := s.storeWord ag Reg.TWN_CFG.addr v
    let s1 := if s0.bit Reg.TWN_CFG.EN then s0 else s0.clearAdj
    if s1.bit Reg.TWN_CFG.EN != s.bit Reg.TWN_CFG.EN && s1.shl.latched then (s1.takeRoles.claim).recompute else s1)

/-- A write in the twin block. -/
def State.twnRegWrite (s : State) (ag : Agent) (a : Nat) (v : Word) : State :=
  let o := a % 0x10000
  if o = 0 then s.twnCfgWrite ag v
  else if o = 0x10 then
    match fldOf v Reg.TWN_CMD.OP with
    | 1 => nextOr s (execTake ag v s)
    | 2 => nextOr s (execGive ag v s)
    | _ => s.gate ag a (fun s => s)
  else s.plainWrite ag a v

/-- A write in the Shasol and fabric block. -/
def State.shlRegWrite (s : State) (ag : Agent) (a : Nat) (v : Word) : State :=
  let o := a % 0x10000
  if o = 0 then s.fabCfgWrite ag v
  else if 0x100 ≤ o ∧ o < 0x300 ∧ o % 0x20 = 0 then s.laneCfgWrite ag ((o - 0x100) / 0x20) v
  else if 0x2000 ≤ o ∧ o < 0x2400 ∧ o % 0x40 = 0 then s.ltWrite ag (.shl (Fin.ofNat 16 ((o - 0x2000) / 0x40))) v
  else s.plainWrite ag a v

/-- A write in the host block (Tables 17-7 and 17-10 to 17-12); HST_PORT_CFG is not the host's (R540). -/
def State.hstRegWrite (s : State) (ag : Agent) (a : Nat) (v : Word) : State :=
  let o := a % 0x10000
  if o = 0x04 then (if ag = .pf then s.drop ag a else s.plainWrite ag a v)
  else if o = 0x14 then s.rearm ag v
  else if 0x104 ≤ o ∧ o < 0x184 then s.vfPorts ag ((o - 0x100) / 4) v
  else if 0x1000 ≤ o ∧ o < 0x3000 then
    let r := (o - 0x1000) / 0x40
    if o % 0x40 = 0x08 then s.ringCfg ag r v
    else if o % 0x40 = 0x10 then s.ringTail ag r v
    else s.ringOther ag r a v
  else if 0x8000 ≤ o ∧ o < 0x8400 ∧ o % 0x40 = 0 then s.ltWrite ag (.pcie (Fin.ofNat 16 ((o - 0x8000) / 0x40))) v
  else s.plainWrite ag a v

/-- The bounds of KEY_LIMIT (Table 9-9). -/
def keyLimitWord (v : Word) : Word :=
  let v1 := heldField v 8 8 20 46
  let soft := v1.toNat / 256 % 256
  putField v1 16 8 (max (soft + 1) (heldIn 21 47 (v1.toNat / 65536 % 256)))

/-- A write in the cipher block (R304, Tables 9-9 and 9-10). -/
def State.keyRegWrite (s : State) (ag : Agent) (a : Nat) (v : Word) : State :=
  let o := a % 0x10000
  let slot := v.setWidth 15
  if o = 0x08 then s.plainWrite ag a (keyLimitWord v)
  else if o = 0x0C then s.plainWrite ag a (heldField v 0 8 32 47)
  else if o = 0x10 then
    let t := s.hostTlp false ag a
    match fldOf v Reg.KEY_CMD.OP with
    | 1 => nextOr t (execKeyLoad ag slot t)
    | 2 => nextOr t (execKeyActivate ag slot t)
    | 3 => nextOr t (execKeyErase ag slot t)
    | 4 => nextOr t (execKeyRestore ag t)
    | _ => t.keyGate ag (fun s => s)
  else if 0x20 ≤ o ∧ o < 0x40 then
    match ag with
    | .steward | .image => s.putWord a v
    | _ => (s.hostTlp false ag a).deny ag .scope a noWin
  else s.plainWrite ag a v

/-- GUARD as it is stored (R298): from class 7 down, a value below that of the next higher class is stored as that one. -/
def guardWord (v : Word) : Word :=
  ((List.range 8).reverse.foldl (fun (x : Nat × Word) i =>
    let g := max x.1 (v.toNat / 2 ^ (4 * i) % 16)
    (g, putField x.2 (4 * i) 4 g)) (0, v)).2

/-- A write in Cooperage's block. -/
def State.cpgRegWrite (s : State) (ag : Agent) (a : Nat) (v : Word) : State :=
  let o := a % 0x10000
  if o = 0 then nextOr s (execCellarEnable ag v s)
  else if 0x10 ≤ o ∧ o < 0x20 then nextOr s (execPoolCfgWrite ag (Fin.ofNat 4 ((o - 0x10) / 4)) v s)
  else if o = 0x30 then s.plainWrite ag a (guardWord v)
  else if o = 0x40 then nextOr s (execFreeStw ag v s)
  else s.plainWrite ag a v

/-- A write of word `j` of a lookup profile counted (R215; log entry 17): the count starts again when word 0 is written with
VALID 0. -/
def noteWord (t : Tab Nat) (p j : Nat) (v : Word) : Tab Nat :=
  if j = 0 ∧ !v.getLsbD 31 then Tab.set (fun _ => 0) t p 0 else Tab.mod (fun _ => 0) t p (fun m => m ||| 2 ^ j)

/-- Profiles a packet can reach from a source's first one, by NEXT as it stands (R144, R176). -/
def State.profChain (s : State) : Nat → Nat → List Nat
  | 0, _ => []
  | n + 1, p => p :: (if s.ctl p (Reg.XPR_PROF_W0.NEXT_EN p) = 0 then [] else s.profChain n (s.ctl p (Reg.XPR_PROF_W0.NEXT p)))

/-- A profile is in use: some source's chain reaches it. -/
def State.profUsed (s : State) (p : Nat) : Bool :=
  (List.range 96).any (fun src => (s.profChain 4 ((s.word (srcProf src)).extractLsb' 0 4).toNat).contains p)

/-- Word `j` of a profile is about to be written (R176): a profile in use keeps its old words for packets until the last of its
21 words has been written in the same rewrite. -/
def State.keepProf (s : State) (p j : Nat) : State :=
  let none_ := fun (_ : Nat) => (none : Option (List Word))
  let m := Tab.get (fun _ => 0) s.fwd.profs p ||| 2 ^ j
  if !s.profUsed p ∨ m = 2 ^ 21 - 1 then
    { s with fwd := { s.fwd with profs := Tab.set (fun _ => 0) s.fwd.profs p 0, oldProfs := Tab.set none_ s.fwd.oldProfs p none } }
  else
    let old := (Tab.get none_ s.fwd.oldProfs p).getD ((List.range 21).map (fun i => s.word (profWord p i)))
    { s with fwd := { s.fwd with profs := Tab.set (fun _ => 0) s.fwd.profs p m, oldProfs := Tab.set none_ s.fwd.oldProfs p (some old) } }

/-- A write in the express block. -/
def State.xprRegWrite (s : State) (ag : Agent) (a : Nat) (v : Word) : State :=
  let o := a % 0x10000
  if 0x1000 ≤ o ∧ o < 0x1800 then
    let p := (o - 0x1000) / 0x80
    let j := o % 0x80 / 4
    s.gate ag a (fun s => (s.keepProf p j).storeWord ag a v)
  else s.plainWrite ag a v

/-- Banks a region word names. -/
def regionBanks (v : Word) : List Nat :=
  if v.getLsbD 31 then (List.range 64).filter (fun b => decide ((v.extractLsb' 0 6).toNat ≤ b ∧ b ≤ (v.extractLsb' 8 6).toNat)) else []

/-- Ledger holds an entry in a bank. -/
def State.bankHolds (s : State) (b : Nat) : Bool := s.ldg.rows.any (fun x => x.1 / 1024 == b)

/-- A write of LDG_REGION[r] that R231 refuses: one that breaks R223, or that names or drops a bank holding an entry. -/
def State.regionRefused (s : State) (r : Nat) (v : Word) : Bool :=
  let new := regionBanks v
  let old := regionBanks (s.word (Reg.LDG_REGION.addr r))
  let width := s.bankWidth (new.headD 0)
  (v.getLsbD 31 && new.isEmpty) || new.any (fun b => s.bankWidth b != width)
    || (List.range 16).any (fun q => decide (q ≠ r) && (regionBanks (s.word (Reg.LDG_REGION.addr q))).any (fun b => new.contains b))
    || (List.range 64).any (fun b => (new.contains b || old.contains b) && s.bankHolds b)

/-- A write in Ledger's block (R231, R251, Tables 7-10 to 7-15). -/
def State.ldgRegWrite (s : State) (ag : Agent) (a : Nat) (v : Word) : State :=
  let o := a % 0x10000
  if o = 0x10 ∨ o = 0x18 then
    s.gate ag a (fun s => s.ldgIssue ag ((o - 0x10) / 8) v Reads.clean)
  else if 0x100 ≤ o ∧ o < 0x200 then
    s.gate ag a (fun s => if s.bankHolds ((o - 0x100) / 4) then s.deny ag .refused a noWin else s.storeWord ag a v)
  else if 0x200 ≤ o ∧ o < 0x240 then
    s.gate ag a (fun s => if s.regionRefused ((o - 0x200) / 4) v then s.deny ag .refused a noWin else s.storeWord ag a v)
  else if 0x400 ≤ o ∧ o < 0x600 then
    s.gate ag a (fun s => if s.bit (Reg.LDG_CMD_STATUS.BUSY ((o - 0x400) / 0x100)) then s.deny ag .refused a noWin else s.storeWord ag a v)
  else if 0x1000 ≤ o ∧ o < 0x1400 then
    s.gate ag a (fun s =>
      let s1 := s.storeWord ag a v
      { s1 with ldg := { s1.ldg with profs := noteWord s1.ldg.profs ((o - 0x1000) / 0x20) (o % 0x20 / 4) v } })
  else s.plainWrite ag a v

/-- A write in the exact-match block (R236). -/
def State.exmRegWrite (s : State) (ag : Agent) (a : Nat) (v : Word) : State :=
  if a % 0x10000 < 0x10 then
    s.gate ag a (fun s => if s.ldg.cells.isEmpty then s.storeWord ag a v else s.deny ag .refused a noWin)
  else s.plainWrite ag a v

/-- A write of PTn_US_CFG (R53, Tables 2-11 and 2-12): GUARD below 200 is stored as 200 with GUARD_CLAMPED, BRST_W in 4 to 16. -/
def State.usCfgWrite (s : State) (ag : Agent) (p : Fin 32) (a : Nat) (v : Word) : State :=
  s.gate ag a (fun s =>
    let bad := decide (fldOf v (Reg.PT_US_CFG.GUARD p.val) < 200)
    let v1 := heldField (if bad then putField v 16 12 200 else v) 0 5 4 16
    ((s.storeWord ag a v1).wr (Reg.PT_US_STATUS.GUARD_CLAMPED p.val) (b2n bad)).mirror 6 p 0xFF 0x80)

/-- Offsets of the configuration registers of a port that have no other effect than their fields'. -/
def ptPlainCfg (o : Nat) : Bool :=
  o == 0x10 || o == 0x18 || o == 0x84 || (decide (0x100 ≤ o) && decide (o < 0x200)) || o == 0x208 || o == 0x20C || o == 0x210 || o == 0x21C

/-- A word as such a register stores it: FEC of the burst profile entries 0 to 11 is fixed at 1 (Table 2-19). -/
def ptFixed (o : Nat) (v : Word) : Word := if 0x100 ≤ o ∧ o < 0x1C0 ∧ o % 0x10 = 0 then v ||| 0x40000000#32 else v

/-- A write in a port's block (Tables 2-8 to 2-13, 3-11 to 3-15); a write that leaves no side opening discovery windows ends a
ramp (R99). -/
def State.ptRegWrite (s : State) (ag : Agent) (p : Fin 32) (a : Nat) (v : Word) : State :=
  let o := a % 0x10000
  if o = 0x00 then nextOr s (execDsEnableWrite ag p v s)
  else if o = 0x04 then nextOr s (execPhaseOffsetWrite ag p v s)
  else if o = 0x14 then nextOr s (execOcbCommit ag p .g50 v s)
  else if o = 0x1C then nextOr s (execOcbCommit ag p .g10 v s)
  else if o = 0x40 then nextOr s (execAlignModeWrite ag p v s)
  else if o = 0x80 then s.usCfgWrite ag p a v
  else if o = 0x200 then nextOr s (execTeqdWrite ag p v s)
  else if o = 0x204 then nextOr s (execReachWrite ag p v s)
  else if o = 0x218 then s.actWrite ag p (fldOf v (Reg.PT_ACT_CMD.OP p.val)) (fldOf v (Reg.PT_ACT_CMD.SLOT p.val))
  else if 0xC00 ≤ o ∧ o < 0xD00 ∧ o % 0x40 = 0 then s.ltWrite ag (.pon p (Fin.ofNat 4 ((o - 0xC00) / 0x40))) v
  else if ptPlainCfg o then s.gate ag a (fun s => ((s.storeWord ag a (ptFixed o v)).mirror 6 p 0xFF o).rampCheck p)
  else s.plainWrite ag a v

/-- A write in a guild's block. -/
def State.gldRegWrite (s : State) (ag : Agent) (g : Fin 64) (a : Nat) (v : Word) : State :=
  let o := a % 0x10000
  if o = 0 then s.gldCtrl ag g.val v
  else if o = 0x14 then (if v.getLsbD 31 then nextOr s (execValidateBank ag g s) else s.gate ag a (fun s => s))
  else s.plainWrite ag a v

/-- A write in the block of start-up. -/
def State.bootRegWrite (s : State) (ag : Agent) (a : Nat) (v : Word) : State :=
  let o := a % 0x10000
  if o = 0x08 then s.bootCmd ag v false
  else if o = 0x20 then s.fwCtrl ag v none
  else s.plainWrite ag a v

/-- A write of a register that exists, by its block (Table 17-3). -/
def State.blockWrite (s : State) (ag : Agent) (b : Blk) (inst a : Nat) (v : Word) : State :=
  if isLock a then s.lockWrite ag a v
  else match b with
    | .GLB => if a = Reg.GLB_RESET.addr then s.glbReset ag v else s.plainWrite ag a v
    | .FLT => s.fltRegWrite ag a v
    | .TLY => s.tlyRegWrite ag a v
    | .HRL => s.hrlRegWrite ag a v
    | .BOOT => s.bootRegWrite ag a v
    | .TWN => s.twnRegWrite ag a v
    | .SHL => s.shlRegWrite ag a v
    | .HST => s.hstRegWrite ag a v
    | .KEY => s.keyRegWrite ag a v
    | .CPG => s.cpgRegWrite ag a v
    | .XPR => s.xprRegWrite ag a v
    | .LDG => s.ldgRegWrite ag a v
    | .EXM => s.exmRegWrite ag a v
    | .SCH => if 0xA0100 ≤ a ∧ a < 0xA0140 then s.plainWrite ag a (heldField v 21 5 6 20) else s.plainWrite ag a v
    | .PT => s.ptRegWrite ag (Fin.ofNat 32 inst) a v
    | .FSI => if a = Reg.FSI_SWAP_REQ.addr then nextOr s (execSwapRequest ag v s) else s.plainWrite ag a v
    | .ULK => if a % 0x1000 = 0 then s.ulkWrite ag inst v else if a % 0x1000 = 0x800 then s.ltWrite ag (.ulk (Fin.ofNat 24 inst)) v else s.plainWrite ag a v
    | .GLD => s.gldRegWrite ag (Fin.ofNat 64 inst) a v
    | _ => s.plainWrite ag a v

/-! Window ports and the host window. -/

/-- A write of a register of a window port (Table 17-4). Protection of a block drops the writes of its table, not those of the
port's own registers (R549, log entry 40). -/
def State.portWrite (s : State) (ag : Agent) (w o : Nat) (v : Word) : State :=
  if o = 0 then s.putWord (portKey ag w 0) (v &&& 0x1FFFFF#32)
  else if o = 4 then s.winCmd ag w v
  else if o = 8 then s
  else s.putWord (portKey ag w o) v

/-- A read of a register of a window port: WIN_CMD is write-only. -/
def State.portRead (s : State) (ag : Agent) (w o : Nat) : State := s.answer ag (if o = 4 then 0#32 else s.word (portKey ag w o))

/-- Registers of a window port. -/
def isPort (o : Nat) : Bool := o == 0 || o == 4 || o == 8 || (decide (0x80 ≤ o) && decide (o < 0x100) && o % 4 == 0)

/-- Where a byte of the host window lies in the staging area, or the flash data buffer (R547); none where it is not mapped. -/
def State.hostByte (s : State) (x : Nat) : Option Nat :=
  if s.bit Reg.CPG_CTRL.EN then (if x < 4096 then some (bufKey x) else none) else some (s.rd Reg.HST_BOOT_HWIN.PAGE * 2 ^ 24 + x)

/-- A write through the host window (R547): four bytes, lowest first. -/
def State.hostWinWrite (s : State) (ag : Agent) (a x : Nat) (v : Word) : State :=
  match s.hostByte x with
  | none => s.deny ag .refused a noWin
  | some k =>
    { s with boot := { s.boot with stage := (leBytes 4 v.toNat).zipIdx.foldl (fun t (b : Byte × Nat) => Tab.set stageEmpty t (k + b.2) b.1) s.boot.stage } }

/-- A read through the host window. -/
def State.hostWinRead (s : State) (ag : Agent) (a x : Nat) : State :=
  match s.hostByte x with
  | none => (s.denyAs true ag .refused a noWin).answer ag 0#32
  | some k => s.answer ag (BitVec.ofNat 32 (leNat ((List.range 4).map (fun i => Tab.get stageEmpty s.boot.stage (k + i)))))

/-! BAR0 of the physical function, which the Steward and the image share (Table 17-2). -/

/-- The window port an address lies in, and the offset in it. -/
def portAt (a : Nat) : Option (Nat × Nat) :=
  if 0x800000 ≤ a ∧ a < 0x86A000 then some ((a - 0x800000) / 0x1000, a % 0x1000) else none

/-- An address lies in the host window. -/
def inHostWin (a : Nat) : Bool := decide (0x1000000 ≤ a) && decide (a < 0x2000000) && a % 4 == 0

/-- A write of BAR0; an address nothing occupies is ignored and denied (R542). -/
def State.pfWrite (s : State) (ag : Agent) (a : Nat) (v : Word) : State :=
  if inHostWin a then (s.hostTlp false ag a).hostWinWrite ag a (a - 0x1000000) v
  else match portAt a with
    | some (w, o) => if isPort o then (s.hostTlp false ag a).portWrite ag w o v else (s.hostTlp false ag a).deny ag .badAddr a noWin
    | none =>
      match ctrAt a, regAt a, Sys2Proof.Machine.place a with
      | some b, _, _ => s.ctrWrite ag a b v
      | none, some _, some pl => s.blockWrite ag pl.blk pl.inst a v
      | none, _, _ => (s.hostTlp false ag a).deny ag .badAddr a noWin

/-- A read of BAR0. -/
def State.pfRead (s0 : State) (ag : Agent) (a : Nat) : State :=
  let s := s0.hostTlp true ag a
  let bad := (s.denyAs true ag .badAddr a noWin).answer ag 0#32
  if inHostWin a then s.hostWinRead ag a (a - 0x1000000)
  else match portAt a with
    | some (w, o) => if isPort o then s.portRead ag w o else bad
    | none =>
      if a = Reg.FLT_QUEUE_W0.addr then nextOr s (execFaultQueueRead ag s)
      else if a = Reg.HRL_TS_RX_W0.addr then nextOr s (execTsRecordRead ag false s)
      else if a = Reg.HRL_TS_TX_W0.addr then nextOr s (execTsRecordRead ag true s)
      else if occupied a then s.readWord ag a
      else bad

/-! BAR0 of a virtual function (R541, R546, Table 17-2). -/

/-- The PF address of a ring register of a VF's BAR0. -/
def vfRingAddr (v : Fin 32) (off : Nat) : Nat := 0x71000 + (64 + 2 * v.val) * 0x40 + off

/-- A ring register, or a counter of the ring, exists at an offset of a VF's BAR0. -/
def vfRing (v : Fin 32) (off : Nat) : Bool := decide (off < 0x80) && occupied (vfRingAddr v off)

/-- A write of a VF's BAR0. Which window the VF's one port means by an index the spec does not say: the window is a free value (log
entry 41). -/
def State.vfWrite (s : State) (v : Fin 32) (off : Nat) (x : Word) : State :=
  let ag := Agent.vf v
  let s1 := s.hostTlp false ag off
  if vfRing v off then
    let a := vfRingAddr v off
    let r := 64 + 2 * v.val + off / 0x40
    match ctrAt a with
    | some b => if a ≠ b ∧ x.getLsbD 31 then { s1 with ctrs := Tab.mod (fun _ => Ctr.zero) s1.ctrs b (fun c => { c with wrapped := false }) } else s1
    | none => if off % 0x40 = 0x08 then s.ringCfg ag r x else if off % 0x40 = 0x10 then s.ringTail ag r x else s.ringOther ag r a x
  else if 0x1000 ≤ off ∧ off < 0x2000 ∧ isPort (off - 0x1000) then
    let f := s1.takeFree
    f.2.portWrite ag (Config.freeValue f.1 % 106) (off - 0x1000) x
  else s1.deny ag (if off < 0x10000 then .badAddr else .scope) off noWin

/-- A read of a VF's BAR0. -/
def State.vfRead (s0 : State) (v : Fin 32) (off : Nat) : State :=
  let ag := Agent.vf v
  let s := s0.hostTlp true ag off
  if vfRing v off then s.readWord ag (vfRingAddr v off)
  else if 0x1000 ≤ off ∧ off < 0x2000 ∧ isPort (off - 0x1000) then s.portRead ag 0 (off - 0x1000)
  else (s.denyAs true ag (if off < 0x10000 then .badAddr else .scope) off noWin).answer ag 0#32

/-! The MSI-X space (Table 17-2, log entry 32). -/

/-- First offset of the PBA of a function. -/
def pbaBase (f : Nat) : Nat := if f = 0 then 0x8000 else 0x800

/-- Number of 32-bit words of the PBA of a function, in whole quadwords. -/
def pbaWords (f : Nat) : Nat := (vectorsOf f + 63) / 64 * 2

/-- A write of the MSI-X space: an entry of the table; an unmasked vector's pending message leaves; the PBA is read-only. -/
def State.msixWrite (s : State) (ag : Agent) (off : Nat) (v : Word) : State :=
  match fnOf ag with
  | none => s.deny ag .badAddr off noWin
  | some f =>
    let s1 := s.hostTlp false ag off
    if off % 4 = 0 ∧ off < vectorsOf f * 16 then
      (s1.putWord (msixKey f off) (if off % 16 = 12 then v &&& 1#32 else if off % 16 = 0 then v &&& 0xFFFFFFFC#32 else v)).msiFlush f
    else if off % 4 = 0 ∧ pbaBase f ≤ off ∧ off < pbaBase f + 4 * pbaWords f then s1
    else s1.deny ag .badAddr off noWin

/-- A read of the MSI-X space. -/
def State.msixRead (s0 : State) (ag : Agent) (off : Nat) : State :=
  match fnOf ag with
  | none => (s0.denyAs true ag .badAddr off noWin).answer ag 0#32
  | some f =>
    let s := s0.hostTlp true ag off
    if off % 4 = 0 ∧ off < vectorsOf f * 16 then s.answer ag (s.word (msixKey f off))
    else if off % 4 = 0 ∧ pbaBase f ≤ off ∧ off < pbaBase f + 4 * pbaWords f then
      let i := (off - pbaBase f) * 8
      s.answer ag (BitVec.ofNat 32 (((List.range 32).map (fun b => if (s.fn f).pend.contains (i + b) then 2 ^ b else 0)).sum))
    else (s.denyAs true ag .badAddr off noWin).answer ag 0#32

/-! Accesses by address space. -/

/-- A write of an address space of a function; the Steward and the image reach BAR0 alone. The counter window is read-only. -/
def State.regWrite (s : State) (ag : Agent) (bar : Bar) (off : Nat) (v : Word) : State :=
  match bar with
  | .regs => match ag with
    | .vf n => s.vfWrite n off v
    | _ => s.pfWrite ag off v
  | .msix => s.msixWrite ag off v
  | .counters => (s.hostTlp false ag off).deny ag .refused off noWin

/-- A read of an address space of a function. -/
def State.regRead (s : State) (ag : Agent) (bar : Bar) (off : Nat) : State :=
  match bar with
  | .regs => match ag with
    | .vf n => s.vfRead n off
    | _ => s.pfRead ag off
  | .msix => s.msixRead ag off
  | .counters => (s.hostTlp true ag off).readCounters ag off

/-- REGISTER_WRITE (R6, R9, R541, R542, R549). -/
def execRegisterWrite (ag : Agent) (bar : Bar) (off : BitVec 26) (v : Word) (s : State) : Host.Outcome State Fault Refusal :=
  ok (s.regWrite ag bar off.toNat v)

/-- REGISTER_READ (R6, R10, R541, R542). -/
def execRegisterRead (ag : Agent) (bar : Bar) (off : BitVec 26) (s : State) : Host.Outcome State Fault Refusal := ok (s.regRead ag bar off.toNat)

/-- UNASSIGNED_ACCESS (R542): an access, a write with its word or a read. -/
def execUnassignedAccess (ag : Agent) (bar : Bar) (off : BitVec 26) (v : Option Word) (s : State) : Host.Outcome State Fault Refusal :=
  ok (match v with
    | some x => s.regWrite ag bar off.toNat x
    | none => s.regRead ag bar off.toNat)

end Sys2Proof.Machine
end

