-- ==== Sys2Proof/Machine/Image.lean ====
section
/-! DEFINITION. Applying a configuration image and the entry to stage S2 (16_startup_and_live_update.md R509, R518 to R525;
14_faults_and_safe_state.md R587; 09_encryption_and_keys.md R331). -/

namespace Sys2Proof.Machine

set_option autoImplicit false

/-! Sections, in order of application (Table 16-6). Each answers none where a write, command or LOAD is refused (R523). -/

/-- Every lock by address. -/
def allLocks : List Nat :=
  (List.range 16).map (fun b => b * 0x10000 + 0xFFFC) ++ (List.range 32).map (fun n => 0x100000 + n * 0x10000 + 0xFFFC)
    ++ [0x30FFFC, 0x31FFFC] ++ (List.range 24).map (fun n => 0x320000 + n * 0x1000 + 0xFFC) ++ [0x34FFFC]
    ++ (List.range 64).map (fun g => 0x400000 + g * 0x10000 + 0xFFFC)

/-- Every lock open while the image is applied (R521). -/
def State.openLocks (s : State) : State := allLocks.foldl (fun s a => s.wr (Reg.BLOCK_LOCK.OPEN a) 1) s

/-- Codes by which registers refuse a command that is no denied access: KEY_CMD, TWN_CMD, LDG_CMD, BOOT_CMD, HRL_DOM_CMD and
FLT_ISO_CMD. -/
def State.cmdRefused (s : State) (a : Nat) : Bool :=
  if a = Reg.KEY_CMD.addr then s.rd Reg.KEY_CMD_STATUS.CODE != 0
  else if a = Reg.TWN_CMD.addr then s.rd Reg.TWN_CMD_STATUS.CODE != 0
  else if a = Reg.LDG_CMD.addr 0 then s.rd (Reg.LDG_CMD_STATUS.CODE 0) != 0
  else if a = Reg.LDG_CMD.addr 1 then s.rd (Reg.LDG_CMD_STATUS.CODE 1) != 0
  else if a = Reg.BOOT_CMD.addr then s.rd Reg.BOOT_STATUS.CODE != 0
  else if a = Reg.HRL_DOM_CMD.addr 0 then s.rd (Reg.HRL_DOM_CMD.CODE 0) != 0
  else if a = Reg.HRL_DOM_CMD.addr 1 then s.rd (Reg.HRL_DOM_CMD.CODE 1) != 0
  else if a = Reg.FLT_ISO_CMD.addr then s.rd Reg.FLT_ISO_STATUS.CODE != 0
  else false

/-- A write of PTn_PHASE is dropped while a laser of the port is on (R33). -/
def State.phaseRefused (s : State) (a : Nat) : Bool := ports.any (fun p => a == Reg.PT_PHASE.addr p.val && (s.txOn p 0 || s.txOn p 1))

/-- An update that counts as a denied access is refused. -/
def State.unlessDenied (s t : State) : Option State := if t.ctr Cnt.HST_DENIED = s.ctr Cnt.HST_DENIED then some t else none

/-- A register write of the DEVICE section: bits outside the mask keep what they hold, and clear or set nothing. -/
def State.deviceWrite (s : State) (x : DevWr) : Option State :=
  match regAt x.addr with
  | none => none
  | some (r, _) =>
    let v := ((s.view x.addr &&& ~~~ (r.w1c ||| r.w1s ||| r.wo)) &&& ~~~ x.mask) ||| (x.value &&& x.mask)
    if s.phaseRefused x.addr then none
    else
      let t := s.regWrite .image .regs x.addr v
      if t.cmdRefused x.addr then none else s.unlessDenied t

/-- A window write of the TABLE section, from word 0. -/
def State.tableWrite (s : State) (x : TabWr) : Option State :=
  if s.winCode .image x.window x.index 0 x.words.length (some x.words) = .ok then
    s.unlessDenied (s.winStore .image x.window x.index 0 x.words)
  else none

/-- A row of the LEDGER section, with BORN 0 (R522): its index lies at an entry of its bank's width and is free. A row of an isolated
bank is left out (R587). -/
def State.rowImage (s : State) (i : Nat) (e : LEnt) : Option State :=
  let n := widthRows (s.bankWidth (i / 1024))
  if 65536 ≤ i ∨ i % n ≠ 0 ∨ 2 ^ (160 * n) ≤ e.value ∨ 2 ^ (160 * n) ≤ e.care then none
  else if s.bankRetired (i / 1024) then some s
  else some (s.setRow i (some { e with life := ⟨0, none⟩ }))

/-- A cell of the EXM section, with BORN 0 (R522): its key's own row in its way, or the stash. -/
def State.cellImage (s : State) (i : Nat) (c : Cell) : Option State :=
  if cellCount ≤ i ∨ c.key = [] ∨ 32 < c.key.length ∨ 32 ≤ c.table then none
  else if i < stashBase ∧ !(s.exmCells c.table c.key).contains i then none
  else some (s.setCell i (some { c with life := ⟨0, none⟩ }))

/-- A segment of the ENGINE section: checked (R206), and its guild loaded (Table 6-9). An isolated guild is left OFF (R587). -/
def State.segmentImage (s : State) (g : Nat) (ws : List Word) : Option State :=
  if 64 ≤ g ∨ 4097 * 16 < ws.length then none
  else if s.flt.isolated .guild g then some s
  else
    let s1 := s.gldStore g 0 0 ws
    match s1.segmentReason g, s1.guildState g with
    | none, .off => some ((s1.wr (Reg.GLD_BANK.RESULT g) 2).gldCommand g 3)
    | _, _ => none

/-- The WHF_ALG section: code chunks stored while ALG is 0 (R529), then ALG := 1. -/
def State.algImage (s : State) (chunks : List (Nat × List Word)) : Option State :=
  if s.bit Reg.WHF_CTRL.ALG || chunks.any (fun c => decide (0x400 ≤ c.1) || decide (16 < c.2.length)) then none
  else some ((chunks.foldl (fun s c => s.putEntry wWhf (0x20000 + c.1) 0 c.2) s).wr Reg.WHF_CTRL.ALG 1)

/-- A word of a tree's standby page in the FSI section. -/
def State.fsiImage (s : State) (x : Nat × Nat × Word) : Option State :=
  if 32 ≤ x.1 ∨ 4096 ≤ x.2.1 then none
  else
    let idx := x.1 * 8192 + (1 - s.activePage (Fin.ofNat 32 x.1)) * 4096 + x.2.1
    if s.fsiRefused idx then none else some (s.fsiStore idx x.2.2)

/-- Items of a section in order, until one is refused. -/
def applyAll {α : Type} (f : State → α → Option State) : List α → State → Option State
  | [], s => some s
  | x :: t, s => match f s x with
    | none => none
    | some s1 => applyAll f t s1

/-- The link roots of this device kept and loaded, but while the keys are ERASED (R315, R331). -/
def State.linkImage (s : State) (img : Image) : State :=
  let s1 : State := { s with stw := { s.stw with links := img.links } }
  if s1.bit Reg.KEY_STATUS.ERASED then s1 else s1.loadLinks

/-- The sections the Steward keeps (R524), and what S2 will need of the others (R509, R511). -/
def State.keepImage (s : State) (img : Image) : State :=
  let s1 : State :=
    { s with act := { s.act with auth := img.auth.take 16383 }
             stw := { s.stw with templates := img.templates }
             wdn := { s.wdn with image := img.golden }
             boot := { s.boot with pages := (img.fsi.map (·.1)).dedup, guilds := (img.segments.map (·.1)).dedup } }
  s1.linkImage img

/-- The sections of a bank applied, none where something is refused. -/
def State.applyImage (s : State) (img : Image) : Option State :=
  match applyAll State.deviceWrite img.device s.openLocks with
  | none => none
  | some s1 => match applyAll State.tableWrite img.tables.flatten s1 with
    | none => none
    | some s2 => match applyAll (fun s x => s.rowImage x.1 x.2) img.ledger s2 with
      | none => none
      | some s3 => match applyAll (fun s x => s.cellImage x.1 x.2) img.cells s3 with
        | none => none
        | some s4 => match applyAll (fun s x => s.segmentImage x.1 x.2) img.segments s4 with
          | none => none
          | some s5 => match (match img.alg with | some c => s5.algImage c | none => some s5) with
            | none => none
            | some s6 => (applyAll State.fsiImage img.fsi s6).map (fun s => s.keepImage img)

/-- TYPE of the section in which a bank's application was refused, and which of its type. -/
def State.failedAt (s : State) (img : Image) : Nat × Nat :=
  match applyAll State.deviceWrite img.device s.openLocks with
  | none => (1, 0)
  | some s1 => match applyAll State.tableWrite img.tables.flatten s1 with
    | none => (2, ((List.range img.tables.length).find? (fun i => (applyAll State.tableWrite (img.tables.take (i + 1)).flatten s1).isNone)).getD 0)
    | some s2 => match applyAll (fun s x => s.rowImage x.1 x.2) img.ledger s2 with
      | none => (3, 0)
      | some s3 => match applyAll (fun s x => s.cellImage x.1 x.2) img.cells s3 with
        | none => (4, 0)
        | some s4 => match applyAll (fun s x => s.segmentImage x.1 x.2) img.segments s4 with
          | none => (5, 0)
          | some s5 => if (match img.alg with | some c => s5.algImage c | none => some s5).isNone then (6, 0) else (7, 0)

/-! A bank that fails after it was begun (R523). -/

/-- Fault block codes of the blocks an image writes. -/
def Image.blocks (img : Image) : List Nat :=
  img.device.map (fun x => blockCode x.addr) ++ img.tables.flatten.map (fun x => blockCode (0x800000 + x.window * 0x1000))
    ++ (if img.ledger = [] then [] else [0x0E]) ++ (if img.cells = [] then [] else [0x0F]) ++ (if img.segments = [] then [] else [0x16])
    ++ (if img.alg.isSome then [0x12] else []) ++ (if img.fsi = [] then [] else [0x13])

/-- Block code a word belongs to: of a register, or of the table behind a window. -/
def codeOfWord (a : Nat) : Nat := if 2 ^ 40 ≤ a then blockCode (0x800000 + (a - 2 ^ 40) / 2 ^ 32 * 0x1000) else blockCode a

/-- A word that software sets: a table word, or a register with a writable field; locks and the rings of the host stand. -/
def setByImage (a : Nat) : Bool :=
  if 2 ^ 40 ≤ a then true
  else if isLock a || (decide (0x71000 ≤ a) && decide (a < 0x73000)) then false
  else match regAt a with
    | some (r, _) => r.rw ||| r.lck != 0#32
    | none => false

/-- Words of the blocks an image wrote back at their reset values: the enables that light S1's frames and the straps stand. -/
def State.unwriteWords (s : State) (cs : List Nat) : State :=
  let s1 : State := { s with words := s.words.filter (fun x => !(cs.contains (codeOfWord x.1) && setByImage x.1)) }
  let m := s.rd Reg.GLB_STRAPS.MXP
  let s2 := ports.foldl (fun t p => t.putWord (Reg.PT_DS_CFG.addr p.val) (s.word (Reg.PT_DS_CFG.addr p.val) &&& 0xC0000000#32)) s1
  ((s2.wr Reg.TWN_CFG.EN (m / 16 % 2)).wr Reg.SHL_FAB_CFG.MODE (m / 64 % 4)).wr Reg.SHL_FAB_CFG.MASTER (m / 256 % 2)

/-- The blocks an image wrote back at their reset state, with no restart and with the frames of S1 running on (R523). -/
def State.unwrite (s : State) (img : Image) : State :=
  let cs := img.blocks
  let has := fun (c : Nat) => cs.contains c
  let s1 := s.unwriteWords cs
  let s2 : State :=
    { s1 with ldg := if has 0x0E || has 0x0F then { s1.ldg with rows := if has 0x0E then [] else s1.ldg.rows
                                                                profs := if has 0x0E then [] else s1.ldg.profs
                                                                cells := if has 0x0F then [] else s1.ldg.cells } else s1.ldg
              fwd := if has 0x0D then { s1.fwd with profs := [] } else s1.fwd
              eng := if has 0x16 then { s1.eng with guilds := [] } else s1.eng
              cpg := if has 0x0B then { s1.cpg with buckets := [], stats := [] } else s1.cpg
              tly := if has 3 then { s1.tly with cfg := [], vals := [] } else s1.tly
              act := { s1.act with auth := [] }
              stw := { s1.stw with templates := [], links := [] }
              wdn := { s1.wdn with image := [] }
              boot := { s1.boot with pages := [], guilds := [], locks := [] } }
  let s3 := (List.range 16).foldl (fun t n => (t.eraseRoot (linkRoot n)).sealChange n) s2
  if (has 6 || has 7) && s3.shl.latched then (s3.takeRoles.claim).recompute else s3

/-! The end of a bank's fetch (R519, R520, R525). -/

/-- IMAGE_BANK_BAD (Table 16-19), and the next bank. -/
def State.bankBad (s : State) (bank sect reason : Nat) : State :=
  (s.raise .IMAGE_BANK_BAD srcBoot (bank * 2 ^ 32 + sect % 256 * 2 ^ 16 + reason)).nextBank

/-- A bank applied: recorded in BOOT_IMAGE and BOOT_LAST; IMAGE_NONE ends; a host image completes its command (Table 17-9). -/
def State.bankDone (s : State) (bank : Nat) (img : Image) : State :=
  let s1 := (((s.wr Reg.BOOT_IMAGE.BANK bank).wr Reg.BOOT_IMAGE.SVN img.svn).wr Reg.BOOT_IMAGE.GEN_LO img.gen).wr Reg.BOOT_LAST.BANK bank
  let s2 := (s1.wr Reg.BOOT_LAST.REACHED_S3 0).wr Reg.BOOT_STATUS.BUSY 0
  let s3 := ({ s2 with boot := { s2.boot with fetching := none, todo := [], applied := true, once := true } } : State).endCause .IMAGE_NONE srcBoot 0
  if bank = 2 then s3.bootDone 0 else s3

/-- BANK_FETCH_DONE (R519 to R525): `v` is what the checks over the bank's bytes found wrong, or none, and `p` what the sections hold
whose layout the spec does not give. What a refused write leaves is undone and the next bank tried. -/
def execBankFetchDone (v : Option BankVerdict) (p : ImageParts) (s : State) : Host.Outcome State Fault Refusal :=
  ok (match s.boot.fetching with
    | none => s
    | some bank =>
      match s.bankReason bank v with
      | some r => s.bankBad bank r.2 r.1
      | none =>
        let img := s.imageOf bank p
        match s.applyImage img with
        | some t => t.bankDone bank img
        | none =>
          let f := s.failedAt img
          (s.openLocks.unwrite img).bankBad bank (sectionIx (s.sections bank) f.1 f.2) 8)

/-! Entry to S2 (R509, R521). -/

/-- Each lock in the state the DEVICE section last wrote to it, closed where it wrote none. -/
def State.setLocks (s : State) : State :=
  allLocks.foldl (fun s a =>
    match Tab.get (fun _ => 0) s.boot.locks a with
    | 1 => s.wr (Reg.BLOCK_LOCK.OPEN a) 1
    | 3 => (s.wr (Reg.BLOCK_LOCK.OPEN a) 0).wr (Reg.BLOCK_LOCK.SEALED a) 1
    | _ => s.wr (Reg.BLOCK_LOCK.OPEN a) 0) s

/-- A tree at the entry to S2: a broadcast deactivation on an owned tree that a partner did not load (R100, R360), and ramp (R99). -/
def State.treeToS2 (s : State) (p : Fin 32) : State :=
  (if s.owned p.val && !(s.twinTree p).synced then s.broadcastDeactivate p else s).enterRamp p

/-- ENTER_S2 (R509, R521): the image applied and the Steward running its firmware, ownership is taken, swaps requested, trees
deactivated and put in ramp. -/
def execEnterS2 (s : State) : Host.Outcome State Fault Refusal :=
  ok (if !s.boot.applied || s.stage != 1 || s.flt.safe then s
    else
      let s1 := ((s.wr Reg.STW_FW_STATUS.READY 1).setLocks.setStage 2).takeOwnership
      let s2 := s1.boot.pages.foldl (fun s t => s.requestSwap (Fin.ofNat 32 t)) s1
      let s3 := ports.foldl (fun s p => s.treeToS2 p) s2
      { s3 with boot := { s3.boot with s2At := s3.now } })

end Sys2Proof.Machine
end

