-- ==== Sys2Proof/Machine/Mirror.lean ====
section
/-! DEFINITION. Mirrored provisioning and the bulk copy of a tree (10_twin_protection.md R341, R342, R346, R360, R363). -/

namespace Sys2Proof.Machine

set_option autoImplicit false

/-- A register of a tree's port block that a TABLE message may carry. -/
def ofTree (p : Fin 32) (a : Nat) : Bool := decide (0x100000 + p.val * 0x10000 ≤ a) && decide (a < 0x110000 + p.val * 0x10000)

/-- A register write as software would make it (R342). The owner's PTn_PHASE is kept for R346; the shadow's own one follows it only
while AUTO_PHASE is 0 (DESIGN CHOICE, log entry 42). -/
def State.mirrorReg (s : State) (p : Fin 32) (a : Nat) (v : Word) : State :=
  if !ofTree p a then s
  else if a = Reg.PT_PHASE.addr p.val then
    let s1 := s.setTwinTree p { s.twinTree p with offO := fldInt v (Reg.PT_PHASE.OFFSET p.val) }
    if s1.bit Reg.TWN_CFG.AUTO_PHASE then s1 else s1.regWrite .steward .regs a v
  else s.regWrite .steward .regs a v

/-- A write of an allocation entry or of a connection memory page of the tree, as software would make it. -/
def State.mirrorWin (s : State) (p : Fin 32) (w idx first : Nat) (ws : List Word) : State :=
  let mine := decide (w = wWhf ∧ idx / 1024 = p.val) || decide (w = wFsi ∧ idx / 8192 = p.val)
  if !mine then s
  else
    let c := s.winCode .steward w idx first ws.length (some ws)
    match c.deny with
    | none => s.winStore .steward w idx first ws
    | some r => s.deny .steward r idx w

/-- A mirrored item applied (R342). -/
def State.mirrorItem (s : State) (p : Fin 32) (w : MirrorWr) : State :=
  match w with
  | .reg a v => s.mirrorReg p a v
  | .win w idx first ws => s.mirrorWin p w idx first ws
  | .swap => s.requestSwap p

/-- TABLE (R341, R342). -/
def execTableMsg (p : Fin 32) (seq : BitVec 32) (w : MirrorWr) (s : State) : Host.Outcome State Fault Refusal :=
  ok (s.mirrored 6 p 0xFF seq.toNat 0 (fun s => s.mirrorItem p w))

/-- The owner's SFC loaded into a tree whose frames have not started, or whose SFC did not match (R34, R360, R363). -/
def State.loadSfc (s : State) (p : Fin 32) (n : Nat) : State :=
  if (s.port p).started && !s.twn.mis.contains p then s
  else { s with twn := { s.twn with mis := s.twn.mis.filter (fun q => q ≠ p) } }.setPort p { s.port p with sfc := n % 2 ^ 51, started := true }

/-- A slot loaded; one that is ACTIVE has its queues and contexts provisioned (R528). -/
def State.syncSlot (s : State) (p : Fin 32) (i : Nat) (x : Slot) : State :=
  let was := (s.slot p i).state
  let s1 := s.setSlot p i x
  if x.state = .active ∧ was ≠ .active then s1.provisionShadow p i
  else if x.state ≠ .active ∧ was = .active then s1.unprovision p i
  else s1

/-- The tables of a SYNC (R360, R363): registers and tables, slots, run-time state of allocations, PLOAM queues, discovery, ramp;
root slots over a sealed link only (R322). -/
def State.loadSync (s : State) (p : Fin 32) (c : SyncCopy) : State :=
  let s1 := c.items.foldl (fun s w => s.mirrorItem p w) (s.loadSfc p c.sfc)
  let s2 := (c.slots.filter (fun x => decide (x.1 < 256))).foldl (fun s x => s.syncSlot p x.1 x.2) s1
  let s3 := (c.allocs.filter (fun x => decide (x.1 < 1024))).foldl (fun s x => s.setAlloc p x.1 x.2) s2
  let s4 := (s3.setPlq p 0 c.ploam50).setPlq p 1 c.ploam10
  let s5 := (s4.setDisc p 0 { s4.disc p 0 with lfsr := c.lfsr50 }).setDisc p 1 { s4.disc p 1 with lfsr := c.lfsr10 }
  let s6 := s5.setTreeSt p { s5.tree p with ramp := c.ramp, admitted := c.admitted }
  let s7 := if s6.bit Reg.TWN_STATUS.SEALED then
      (c.roots.filter (fun x => decide (x.1 < 512))).foldl (fun s x => s.setRoot (p.val * 512 + x.1) x.2) s6
    else s6
  s7.setTwinTree p { s7.twinTree p with synced := true, gap := 0 }

/-- SYNC (R341, R360, R363). -/
def execSyncMsg (p : Fin 32) (seq : BitVec 32) (c : SyncCopy) (s : State) : Host.Outcome State Fault Refusal :=
  ok (s.mirrored 12 p 0xFF seq.toNat c.sfc (fun s => s.loadSync p c))

end Sys2Proof.Machine
end

