-- ==== Sys2Proof/Machine/Program.lean ====
section
/-! DEFINITION. The instructions of the Ikicon set, one command each (06_journeyman_engines.md Table 6-4): the context issues
the instruction at its PC when that instruction is this one; `ecc` is the outcome of the fetch (R204): an error corrected
(false) or uncorrectable (true). -/

namespace Sys2Proof.Machine

set_option autoImplicit false

/-- ADD: D := A + second operand. -/
def execAdd (g : Fin 64) (e : Fin 16) (c : Fin 4) (ecc : Option Bool) (s : State) : Host.Outcome State Fault Refusal :=
  ok (s.aluRow (ctxKey g.val e.val c.val) ecc .add)

/-- SUB: D := A − second operand. -/
def execSub (g : Fin 64) (e : Fin 16) (c : Fin 4) (ecc : Option Bool) (s : State) : Host.Outcome State Fault Refusal :=
  ok (s.aluRow (ctxKey g.val e.val c.val) ecc .sub)

/-- AND: bitwise and. -/
def execAnd (g : Fin 64) (e : Fin 16) (c : Fin 4) (ecc : Option Bool) (s : State) : Host.Outcome State Fault Refusal :=
  ok (s.aluRow (ctxKey g.val e.val c.val) ecc .and)

/-- OR: bitwise or. -/
def execOr (g : Fin 64) (e : Fin 16) (c : Fin 4) (ecc : Option Bool) (s : State) : Host.Outcome State Fault Refusal :=
  ok (s.aluRow (ctxKey g.val e.val c.val) ecc .or)

/-- XOR: bitwise exclusive or. -/
def execXor (g : Fin 64) (e : Fin 16) (c : Fin 4) (ecc : Option Bool) (s : State) : Host.Outcome State Fault Refusal :=
  ok (s.aluRow (ctxKey g.val e.val c.val) ecc .xor)

/-- SHL: shift left. -/
def execShl (g : Fin 64) (e : Fin 16) (c : Fin 4) (ecc : Option Bool) (s : State) : Host.Outcome State Fault Refusal :=
  ok (s.aluRow (ctxKey g.val e.val c.val) ecc .shl)

/-- SHR: logical shift right. -/
def execShr (g : Fin 64) (e : Fin 16) (c : Fin 4) (ecc : Option Bool) (s : State) : Host.Outcome State Fault Refusal :=
  ok (s.aluRow (ctxKey g.val e.val c.val) ecc .shr)

/-- SAR: arithmetic shift right. -/
def execSar (g : Fin 64) (e : Fin 16) (c : Fin 4) (ecc : Option Bool) (s : State) : Host.Outcome State Fault Refusal :=
  ok (s.aluRow (ctxKey g.val e.val c.val) ecc .sar)

/-- MIN: the lesser of A and the second operand. -/
def execMin (g : Fin 64) (e : Fin 16) (c : Fin 4) (ecc : Option Bool) (s : State) : Host.Outcome State Fault Refusal :=
  ok (s.aluRow (ctxKey g.val e.val c.val) ecc .min)

/-- MAX: the greater of A and the second operand. -/
def execMax (g : Fin 64) (e : Fin 16) (c : Fin 4) (ecc : Option Bool) (s : State) : Host.Outcome State Fault Refusal :=
  ok (s.aluRow (ctxKey g.val e.val c.val) ecc .max)

/-- CMP: FLAGS of A − second operand, D unchanged. -/
def execCmp (g : Fin 64) (e : Fin 16) (c : Fin 4) (ecc : Option Bool) (s : State) : Host.Outcome State Fault Refusal :=
  ok (s.aluRow (ctxKey g.val e.val c.val) ecc .cmp)

/-- POPC: number of ones of A. -/
def execPopc (g : Fin 64) (e : Fin 16) (c : Fin 4) (ecc : Option Bool) (s : State) : Host.Outcome State Fault Refusal :=
  ok (s.aluRow (ctxKey g.val e.val c.val) ecc .popc)

/-- BFX: bit field of A extracted. -/
def execBfx (g : Fin 64) (e : Fin 16) (c : Fin 4) (ecc : Option Bool) (s : State) : Host.Outcome State Fault Refusal :=
  ok (s.aluRow (ctxKey g.val e.val c.val) ecc .bfx)

/-- BFI: bit field of register B inserted into A. -/
def execBfi (g : Fin 64) (e : Fin 16) (c : Fin 4) (ecc : Option Bool) (s : State) : Host.Outcome State Fault Refusal :=
  ok (s.aluRow (ctxKey g.val e.val c.val) ecc .bfi)

/-- MOVI: D := IMM. -/
def execMovi (g : Fin 64) (e : Fin 16) (c : Fin 4) (ecc : Option Bool) (s : State) : Host.Outcome State Fault Refusal :=
  ok (s.aluRow (ctxKey g.val e.val c.val) ecc .movi)

/-- BEQ: a branch to IMM[13:0] on FLAGS. -/
def execBeq (g : Fin 64) (e : Fin 16) (c : Fin 4) (ecc : Option Bool) (s : State) : Host.Outcome State Fault Refusal :=
  ok (s.issue (ctxKey g.val e.val c.val) ecc 2 0 (fun s x i => s.branch (ctxKey g.val e.val c.val) x i .eq))

/-- BNE: a branch to IMM[13:0] on FLAGS. -/
def execBne (g : Fin 64) (e : Fin 16) (c : Fin 4) (ecc : Option Bool) (s : State) : Host.Outcome State Fault Refusal :=
  ok (s.issue (ctxKey g.val e.val c.val) ecc 2 1 (fun s x i => s.branch (ctxKey g.val e.val c.val) x i .ne))

/-- BLT: a branch to IMM[13:0] on FLAGS. -/
def execBlt (g : Fin 64) (e : Fin 16) (c : Fin 4) (ecc : Option Bool) (s : State) : Host.Outcome State Fault Refusal :=
  ok (s.issue (ctxKey g.val e.val c.val) ecc 2 2 (fun s x i => s.branch (ctxKey g.val e.val c.val) x i .lt))

/-- BGE: a branch to IMM[13:0] on FLAGS. -/
def execBge (g : Fin 64) (e : Fin 16) (c : Fin 4) (ecc : Option Bool) (s : State) : Host.Outcome State Fault Refusal :=
  ok (s.issue (ctxKey g.val e.val c.val) ecc 2 3 (fun s x i => s.branch (ctxKey g.val e.val c.val) x i .ge))

/-- BLTU: a branch to IMM[13:0] on FLAGS. -/
def execBltu (g : Fin 64) (e : Fin 16) (c : Fin 4) (ecc : Option Bool) (s : State) : Host.Outcome State Fault Refusal :=
  ok (s.issue (ctxKey g.val e.val c.val) ecc 2 4 (fun s x i => s.branch (ctxKey g.val e.val c.val) x i .ltu))

/-- BGEU: a branch to IMM[13:0] on FLAGS. -/
def execBgeu (g : Fin 64) (e : Fin 16) (c : Fin 4) (ecc : Option Bool) (s : State) : Host.Outcome State Fault Refusal :=
  ok (s.issue (ctxKey g.val e.val c.val) ecc 2 5 (fun s x i => s.branch (ctxKey g.val e.val c.val) x i .geu))

/-- JMP: jump to IMM[13:0]. -/
def execJmp (g : Fin 64) (e : Fin 16) (c : Fin 4) (ecc : Option Bool) (s : State) : Host.Outcome State Fault Refusal :=
  ok (s.issue (ctxKey g.val e.val c.val) ecc 2 6 (fun s x i => s.jump (ctxKey g.val e.val c.val) x i.imm))

/-- CALL: the return address pushed, or STACK with 8 held. -/
def execCall (g : Fin 64) (e : Fin 16) (c : Fin 4) (ecc : Option Bool) (s : State) : Host.Outcome State Fault Refusal :=
  ok (s.issue (ctxKey g.val e.val c.val) ecc 2 7 (fun s x i => if 8 ≤ x.calls.length then s.trapNow (ctxKey g.val e.val c.val) x .stack 0 else s.jump (ctxKey g.val e.val c.val) { x with calls := (x.pc + 1) % 2 ^ 14 :: x.calls } i.imm))

/-- RET: the last return address popped, or STACK with none. -/
def execRet (g : Fin 64) (e : Fin 16) (c : Fin 4) (ecc : Option Bool) (s : State) : Host.Outcome State Fault Refusal :=
  ok (s.issue (ctxKey g.val e.val c.val) ecc 2 8 (fun s x _ => match x.calls with | [] => s.trapNow (ctxKey g.val e.val c.val) x .stack 0 | a :: t => s.jump (ctxKey g.val e.val c.val) { x with calls := t } a))

/-- LD: R184 to R186, R190; `mecc` is the ECC outcome of the guild's data memory. -/
def execLd (g : Fin 64) (e : Fin 16) (c : Fin 4) (ecc : Option Bool) (mecc : Option Bool) (s : State) : Host.Outcome State Fault Refusal :=
  ok (s.issue (ctxKey g.val e.val c.val) ecc 3 0 (fun s x i => s.ld (ctxKey g.val e.val c.val) x i mecc))

/-- ST: R184 to R186, R192. -/
def execSt (g : Fin 64) (e : Fin 16) (c : Fin 4) (ecc : Option Bool) (s : State) : Host.Outcome State Fault Refusal :=
  ok (s.issue (ctxKey g.val e.val c.val) ecc 4 0 (fun s x i => s.st (ctxKey g.val e.val c.val) x i))

/-- DADD: a deferred addition of register B to a shared word (R192). -/
def execDadd (g : Fin 64) (e : Fin 16) (c : Fin 4) (ecc : Option Bool) (s : State) : Host.Outcome State Fault Refusal :=
  ok (s.issue (ctxKey g.val e.val c.val) ecc 5 0 (fun s x i => s.atomic (ctxKey g.val e.val c.val) x i (fun off => s.defer (ctxKey g.val e.val c.val) x (.dadd off (x.reg i.b).toNat))))

/-- DOR: a deferred or of register B into a shared word (R192). -/
def execDor (g : Fin 64) (e : Fin 16) (c : Fin 4) (ecc : Option Bool) (s : State) : Host.Outcome State Fault Refusal :=
  ok (s.issue (ctxKey g.val e.val c.val) ecc 5 1 (fun s x i => s.atomic (ctxKey g.val e.val c.val) x i (fun off => s.defer (ctxKey g.val e.val c.val) x (.dor off (x.reg i.b).toNat))))

/-- DINC: a deferred increment of a shared word (R192). -/
def execDinc (g : Fin 64) (e : Fin 16) (c : Fin 4) (ecc : Option Bool) (s : State) : Host.Outcome State Fault Refusal :=
  ok (s.issue (ctxKey g.val e.val c.val) ecc 5 2 (fun s x i => s.atomic (ctxKey g.val e.val c.val) x i (fun off => s.defer (ctxKey g.val e.val c.val) x (.dinc off))))

/-- FADD: an immediate fetch-and-add (R194). -/
def execFadd (g : Fin 64) (e : Fin 16) (c : Fin 4) (ecc : Option Bool) (s : State) : Host.Outcome State Fault Refusal :=
  ok (s.issue (ctxKey g.val e.val c.val) ecc 5 3 (fun s x i => s.atomicNow (ctxKey g.val e.val c.val) x i (fun old => (old + (x.reg i.b).toNat) % 2 ^ 32)))

/-- CAS: an immediate compare-and-swap: B is written when the word equals D (R194; PRESUMED, log entry 26). -/
def execCas (g : Fin 64) (e : Fin 16) (c : Fin 4) (ecc : Option Bool) (s : State) : Host.Outcome State Fault Refusal :=
  ok (s.issue (ctxKey g.val e.val c.val) ecc 5 4 (fun s x i => s.atomicNow (ctxKey g.val e.val c.val) x i (fun old => if old = (x.reg i.d).toNat then (x.reg i.b).toNat else old)))

/-- PARSE_NEXT: R165, R166, R188. -/
def execParseNext (g : Fin 64) (e : Fin 16) (c : Fin 4) (ecc : Option Bool) (s : State) : Host.Outcome State Fault Refusal :=
  ok (s.issue (ctxKey g.val e.val c.val) ecc 6 0 (fun s x _ => s.parseStep (ctxKey g.val e.val c.val) x (x.parse.next x.win x.frameLen)))

/-- PARSE_SKIP: R165, R188. -/
def execParseSkip (g : Fin 64) (e : Fin 16) (c : Fin 4) (ecc : Option Bool) (s : State) : Host.Outcome State Fault Refusal :=
  ok (s.issue (ctxKey g.val e.val c.val) ecc 6 1 (fun s x i => s.parseStep (ctxKey g.val e.val c.val) x (x.parse.skip (i.imm % 512))))

/-- PARSE_SETHT: the type a following SKIP gives: IMM[7:0] (R188). -/
def execParseSetht (g : Fin 64) (e : Fin 16) (c : Fin 4) (ecc : Option Bool) (s : State) : Host.Outcome State Fault Refusal :=
  ok (s.issue (ctxKey g.val e.val c.val) ecc 6 2 (fun s x i => s.retire (ctxKey g.val e.val c.val) { x with parse := { x.parse with set := some (i.imm % 256) } }))

/-- KCLR: the key buffer emptied (R187). -/
def execKclr (g : Fin 64) (e : Fin 16) (c : Fin 4) (ecc : Option Bool) (s : State) : Host.Outcome State Fault Refusal :=
  ok (s.issue (ctxKey g.val e.val c.val) ecc 7 0 (fun s x i => s.retire (ctxKey g.val e.val c.val) { x with kb := Tab.set (fun _ => []) x.kb (i.d % 4) [] }))

/-- KCAT: IMM[6:0] bytes of window or scratch at A + IMM[31:16] appended to the key buffer. -/
def execKcat (g : Fin 64) (e : Fin 16) (c : Fin 4) (ecc : Option Bool) (s : State) : Host.Outcome State Fault Refusal :=
  ok (s.issue (ctxKey g.val e.val c.val) ecc 7 1 (fun s x i => match rangeOf ((x.reg i.a + BitVec.ofNat 32 (i.imm / 2 ^ 16)).toNat) (i.imm % 128) with
      | some (.window, off) => s.retire (ctxKey g.val e.val c.val) (x.append (i.d % 4) (x.keyBytes .window off (i.imm % 128)))
      | some (.scratch, off) => s.retire (ctxKey g.val e.val c.val) (x.append (i.d % 4) (x.keyBytes .scratch off (i.imm % 128)))
      | _ => s.trapNow (ctxKey g.val e.val c.val) x .access 0))

/-- KREG: the low IMM[6:0] bytes of register B appended, highest first, four when IMM[6:0] is 0 or above 4 (PRESUMED, log entry 26). -/
def execKreg (g : Fin 64) (e : Fin 16) (c : Fin 4) (ecc : Option Bool) (s : State) : Host.Outcome State Fault Refusal :=
  ok (s.issue (ctxKey g.val e.val c.val) ecc 7 2 (fun s x i => let n := if i.imm % 128 = 0 ∨ 4 < i.imm % 128 then 4 else i.imm % 128
      s.retire (ctxKey g.val e.val c.val) (x.append (i.d % 4) (beBytes n (x.reg i.b).toNat))))

/-- LOOKUP_LDG: R189. -/
def execLookupLdg (g : Fin 64) (e : Fin 16) (c : Fin 4) (ecc : Option Bool) (s : State) : Host.Outcome State Fault Refusal :=
  ok (s.issue (ctxKey g.val e.val c.val) ecc 8 0 (fun s x i => s.lookup (ctxKey g.val e.val c.val) x i false))

/-- LOOKUP_EXM: R189. -/
def execLookupExm (g : Fin 64) (e : Fin 16) (c : Fin 4) (ecc : Option Bool) (s : State) : Host.Outcome State Fault Refusal :=
  ok (s.issue (ctxKey g.val e.val c.val) ecc 8 1 (fun s x i => s.lookup (ctxKey g.val e.val c.val) x i true))

/-- LOOKUP_WAIT: R190. -/
def execLookupWait (g : Fin 64) (e : Fin 16) (c : Fin 4) (ecc : Option Bool) (s : State) : Host.Outcome State Fault Refusal :=
  ok (s.issue (ctxKey g.val e.val c.val) ecc 8 2 (fun s x i => s.lookupWait (ctxKey g.val e.val c.val) x i))

/-- INS: R195. -/
def execIns (g : Fin 64) (e : Fin 16) (c : Fin 4) (ecc : Option Bool) (s : State) : Host.Outcome State Fault Refusal :=
  ok (s.issue (ctxKey g.val e.val c.val) ecc 9 0 (fun s x i => s.ins (ctxKey g.val e.val c.val) x i))

/-- DEL: R195. -/
def execDel (g : Fin 64) (e : Fin 16) (c : Fin 4) (ecc : Option Bool) (s : State) : Host.Outcome State Fault Refusal :=
  ok (s.issue (ctxKey g.val e.val c.val) ecc 9 1 (fun s x i => s.del (ctxKey g.val e.val c.val) x i))

/-- CSUM: Table 6-4. -/
def execCsum (g : Fin 64) (e : Fin 16) (c : Fin 4) (ecc : Option Bool) (s : State) : Host.Outcome State Fault Refusal :=
  ok (s.issue (ctxKey g.val e.val c.val) ecc 9 2 (fun s x i => s.csum (ctxKey g.val e.val c.val) x i))

/-- SETV: VERDICT := IMM[3:0] (R191). -/
def execSetv (g : Fin 64) (e : Fin 16) (c : Fin 4) (ecc : Option Bool) (s : State) : Host.Outcome State Fault Refusal :=
  ok (s.issue (ctxKey g.val e.val c.val) ecc 10 0 (fun s x i => s.retire (ctxKey g.val e.val c.val) { x with d := { x.d with verdict := i.imm % 16 }, setv := true }))

/-- SETQ: QUEUE := register A (R191). -/
def execSetq (g : Fin 64) (e : Fin 16) (c : Fin 4) (ecc : Option Bool) (s : State) : Host.Outcome State Fault Refusal :=
  ok (s.issue (ctxKey g.val e.val c.val) ecc 10 1 (fun s x i => s.setDesc (ctxKey g.val e.val c.val) x { x.d with queue := (x.reg i.a).toNat % 65536 }))

/-- SETB: BUCKET := register A (R191). -/
def execSetb (g : Fin 64) (e : Fin 16) (c : Fin 4) (ecc : Option Bool) (s : State) : Host.Outcome State Fault Refusal :=
  ok (s.issue (ctxKey g.val e.val c.val) ecc 10 2 (fun s x i => s.setDesc (ctxKey g.val e.val c.val) x { x.d with bucket := (x.reg i.a).toNat % 2 ^ 17 }))

/-- SETR: REPL := register A (R191). -/
def execSetr (g : Fin 64) (e : Fin 16) (c : Fin 4) (ecc : Option Bool) (s : State) : Host.Outcome State Fault Refusal :=
  ok (s.issue (ctxKey g.val e.val c.val) ecc 10 3 (fun s x i => s.setDesc (ctxKey g.val e.val c.val) x { x.d with repl := (x.reg i.a).toNat % 65536 }))

/-- SETM: MIRROR := register A (R191). -/
def execSetm (g : Fin 64) (e : Fin 16) (c : Fin 4) (ecc : Option Bool) (s : State) : Host.Outcome State Fault Refusal :=
  ok (s.issue (ctxKey g.val e.val c.val) ecc 10 4 (fun s x i => s.setDesc (ctxKey g.val e.val c.val) x { x.d with mirror := (x.reg i.a).toNat % 16 }))

/-- SETX: REASON := IMM[7:0], with R174 applied (R191). -/
def execSetx (g : Fin 64) (e : Fin 16) (c : Fin 4) (ecc : Option Bool) (s : State) : Host.Outcome State Fault Refusal :=
  ok (s.issue (ctxKey g.val e.val c.val) ecc 10 5 (fun s x i => s.setDesc (ctxKey g.val e.val c.val) x { x.d with reason := codeReason (i.imm % 256) }))

/-- SETC: XGEM_CTX := register A and CTX_V := 1 on a downstream descriptor (R191). -/
def execSetc (g : Fin 64) (e : Fin 16) (c : Fin 4) (ecc : Option Bool) (s : State) : Host.Outcome State Fault Refusal :=
  ok (s.issue (ctxKey g.val e.val c.val) ecc 10 6 (fun s x i => s.setDesc (ctxKey g.val e.val c.val) x (if x.d.dir then x.d else { x.d with xctx := (x.reg i.a).toNat % 65536, ctxV := true })))

/-- END: commit, or NO_VERDICT (R191, R192). -/
def execEndPass (g : Fin 64) (e : Fin 16) (c : Fin 4) (ecc : Option Bool) (s : State) : Host.Outcome State Fault Refusal :=
  ok (s.issue (ctxKey g.val e.val c.val) ecc 10 7 (fun s x _ => if x.setv then s.commit (ctxKey g.val e.val c.val) x else s.trapNow (ctxKey g.val e.val c.val) x .noVerdict 0))

/-- NOP: no operation. -/
def execNop (g : Fin 64) (e : Fin 16) (c : Fin 4) (ecc : Option Bool) (s : State) : Host.Outcome State Fault Refusal :=
  ok (s.issue (ctxKey g.val e.val c.val) ecc 11 0 (fun s x _ => s.retire (ctxKey g.val e.val c.val) x))

/-- MOVS: D := the special register IMM names. -/
def execMovs (g : Fin 64) (e : Fin 16) (c : Fin 4) (ecc : Option Bool) (s : State) : Host.Outcome State Fault Refusal :=
  ok (s.issue (ctxKey g.val e.val c.val) ecc 11 1 (fun s x i => s.retire (ctxKey g.val e.val c.val) (x.setReg i.d (x.special (ctxKey g.val e.val c.val) i.imm))))

/-- TRAP: a USER trap with IMM[7:0] (R197). -/
def execTrap (g : Fin 64) (e : Fin 16) (c : Fin 4) (ecc : Option Bool) (s : State) : Host.Outcome State Fault Refusal :=
  ok (s.issue (ctxKey g.val e.val c.val) ecc 11 2 (fun s x i => s.trapNow (ctxKey g.val e.val c.val) x .user (i.imm % 256)))

/-- HANDOFF: a CTI record of w8 to w11 for delivery at commit (R193). -/
def execHandoff (g : Fin 64) (e : Fin 16) (c : Fin 4) (ecc : Option Bool) (s : State) : Host.Outcome State Fault Refusal :=
  ok (s.issue (ctxKey g.val e.val c.val) ecc 11 3 (fun s x _ => s.defer (ctxKey g.val e.val c.val) x (.handoff ((x.reg 8).toNat % 32) ((x.reg 8).toNat / 2 ^ 16 % 1024)
      ((x.reg 9).toNat + (x.reg 10).toNat * 2 ^ 32) ((x.reg 11).toNat % 2 ^ 24))))

end Sys2Proof.Machine
end

