-- ==== Sys2Proof/Machine/Dispatch.lean ====
section
/-! DEFINITION. The dispatch of a command to its meaning: one arm per constructor. -/

namespace Sys2Proof.Machine

/-- The effect of a command on everything but the queue. -/
def exec (i : Instr) (s : State) : Host.Outcome State Fault Refusal :=
  match i with
  | .frameTick p idle50 idle10 => Sys2Proof.Machine.execFrameTick p idle50 idle10 s
  | .paceWindowEnd done whf => Sys2Proof.Machine.execPaceWindowEnd done whf s
  | .mapBuildStart => Sys2Proof.Machine.execMapBuildStart s
  | .assayerCheck buildTime assayTime mismatch => Sys2Proof.Machine.execAssayerCheck buildTime assayTime mismatch s
  | .mapRelease p sd => Sys2Proof.Machine.execMapRelease p sd s
  | .mapLock p sd => Sys2Proof.Machine.execMapLock p sd s
  | .uplinkFrameRx n bytes full fec => Sys2Proof.Machine.execUplinkFrameRx n bytes full fec s
  | .uplinkFrameTx n underrun ct oneStep => Sys2Proof.Machine.execUplinkFrameTx n underrun ct oneStep s
  | .phaseOffsetWrite ag p v => Sys2Proof.Machine.execPhaseOffsetWrite ag p v s
  | .dsEnableWrite ag p v => Sys2Proof.Machine.execDsEnableWrite ag p v s
  | .ocbCommit ag p sd v => Sys2Proof.Machine.execOcbCommit ag p sd v s
  | .alignModeWrite ag p v => Sys2Proof.Machine.execAlignModeWrite ag p v s
  | .psyncMatch p sd pos sfc => Sys2Proof.Machine.execPsyncMatch p sd pos sfc s
  | .trackerCheck p sd pos errs sfc => Sys2Proof.Machine.execTrackerCheck p sd pos errs sfc s
  | .syncPsbdCheck p sd errs sfc diff => Sys2Proof.Machine.execSyncPsbdCheck p sd errs sfc diff s
  | .burstStart p sd => Sys2Proof.Machine.execBurstStart p sd s
  | .delimWindowClose p sd cands => Sys2Proof.Machine.execDelimWindowClose p sd cands s
  | .burstEnd p sd b => Sys2Proof.Machine.execBurstEnd p sd b s
  | .upstreamXgemFrame p sd ctx cls key word bytes unc full bad => Sys2Proof.Machine.execUpstreamXgemFrame p sd ctx cls key word bytes unc full bad s
  | .upstreamPloamRx p sd onu omci msg code ack => Sys2Proof.Machine.execUpstreamPloamRx p sd onu omci msg code ack s
  | .strayDelimiter p sd onu off isSn => Sys2Proof.Machine.execStrayDelimiter p sd onu off isSn s
  | .strayEnergyEpisode p sd pos len => Sys2Proof.Machine.execStrayEnergyEpisode p sd pos len s
  | .usLossOnset p sd => Sys2Proof.Machine.execUsLossOnset p sd s
  | .presetWindowWrite ag p idx valid => Sys2Proof.Machine.execPresetWindowWrite ag p idx valid s
  | .presetAgeExpiry p sd slot => Sys2Proof.Machine.execPresetAgeExpiry p sd slot s
  | .ploamAckTimeout p sd => Sys2Proof.Machine.execPloamAckTimeout p sd s
  | .teqdWrite ag p v => Sys2Proof.Machine.execTeqdWrite ag p v s
  | .reachWrite ag p v => Sys2Proof.Machine.execReachWrite ag p v s
  | .discPeriodStart p sd => Sys2Proof.Machine.execDiscPeriodStart p sd s
  | .quietSpanClose p sd eps => Sys2Proof.Machine.execQuietSpanClose p sd eps s
  | .snResponse p => Sys2Proof.Machine.execSnResponse p s
  | .rangingResponse p slot d => Sys2Proof.Machine.execRangingResponse p slot d s
  | .rangingNoResponse p slot => Sys2Proof.Machine.execRangingNoResponse p slot s
  | .registrationRx p slot regId => Sys2Proof.Machine.execRegistrationRx p slot regId s
  | .keyReportRx p slot dk sk => Sys2Proof.Machine.execKeyReportRx p slot dk sk s
  | .keyExchangeTimeout p slot => Sys2Proof.Machine.execKeyExchangeTimeout p slot s
  | .registrationTimeout p slot => Sys2Proof.Machine.execRegistrationTimeout p slot s
  | .lostWaitExpiry p slot => Sys2Proof.Machine.execLostWaitExpiry p slot s
  | .rampStart ag p => Sys2Proof.Machine.execRampStart ag p s
  | .rampStop ag p => Sys2Proof.Machine.execRampStop ag p s
  | .deactivate ag p slot => Sys2Proof.Machine.execDeactivate ag p slot s
  | .enable ag p slot => Sys2Proof.Machine.execEnable ag p slot s
  | .disable ag p slot => Sys2Proof.Machine.execDisable ag p slot s
  | .rampTimeout p => Sys2Proof.Machine.execRampTimeout p s
  | .rogueHuntStart p sd => Sys2Proof.Machine.execRogueHuntStart p sd s
  | .rogueWatchEnd p => Sys2Proof.Machine.execRogueWatchEnd p s
  | .allocWrite ag p ix w0 w1 w2 w3 w4 => Sys2Proof.Machine.execAllocWrite ag p ix w0 w1 w2 w3 w4 s
  | .ctiRecordTake => Sys2Proof.Machine.execCtiRecordTake s
  | .fsiPageWrite ag idx v => Sys2Proof.Machine.execFsiPageWrite ag idx v s
  | .swapRequest ag v => Sys2Proof.Machine.execSwapRequest ag v s
  | .swapValidationDone p => Sys2Proof.Machine.execSwapValidationDone p s
  | .bdeactUnlock ag v => Sys2Proof.Machine.execBdeactUnlock ag v s
  | .whfAlgWrite ag v => Sys2Proof.Machine.execWhfAlgWrite ag v s
  | .sorterDispatch => Sys2Proof.Machine.execSorterDispatch s
  | .expressLookup upset ecc => Sys2Proof.Machine.execExpressLookup upset ecc s
  | .windowLoadDone g e c => Sys2Proof.Machine.execWindowLoadDone g e c s
  | .sorterRelease flow => Sys2Proof.Machine.execSorterRelease flow s
  | .reorderTimeout flow => Sys2Proof.Machine.execReorderTimeout flow s
  | .add g e c ecc => Sys2Proof.Machine.execAdd g e c ecc s
  | .sub g e c ecc => Sys2Proof.Machine.execSub g e c ecc s
  | .and g e c ecc => Sys2Proof.Machine.execAnd g e c ecc s
  | .or g e c ecc => Sys2Proof.Machine.execOr g e c ecc s
  | .xor g e c ecc => Sys2Proof.Machine.execXor g e c ecc s
  | .shl g e c ecc => Sys2Proof.Machine.execShl g e c ecc s
  | .shr g e c ecc => Sys2Proof.Machine.execShr g e c ecc s
  | .sar g e c ecc => Sys2Proof.Machine.execSar g e c ecc s
  | .min g e c ecc => Sys2Proof.Machine.execMin g e c ecc s
  | .max g e c ecc => Sys2Proof.Machine.execMax g e c ecc s
  | .cmp g e c ecc => Sys2Proof.Machine.execCmp g e c ecc s
  | .popc g e c ecc => Sys2Proof.Machine.execPopc g e c ecc s
  | .bfx g e c ecc => Sys2Proof.Machine.execBfx g e c ecc s
  | .bfi g e c ecc => Sys2Proof.Machine.execBfi g e c ecc s
  | .movi g e c ecc => Sys2Proof.Machine.execMovi g e c ecc s
  | .beq g e c ecc => Sys2Proof.Machine.execBeq g e c ecc s
  | .bne g e c ecc => Sys2Proof.Machine.execBne g e c ecc s
  | .blt g e c ecc => Sys2Proof.Machine.execBlt g e c ecc s
  | .bge g e c ecc => Sys2Proof.Machine.execBge g e c ecc s
  | .bltu g e c ecc => Sys2Proof.Machine.execBltu g e c ecc s
  | .bgeu g e c ecc => Sys2Proof.Machine.execBgeu g e c ecc s
  | .jmp g e c ecc => Sys2Proof.Machine.execJmp g e c ecc s
  | .call g e c ecc => Sys2Proof.Machine.execCall g e c ecc s
  | .ret g e c ecc => Sys2Proof.Machine.execRet g e c ecc s
  | .ld g e c ecc mecc => Sys2Proof.Machine.execLd g e c ecc mecc s
  | .st g e c ecc => Sys2Proof.Machine.execSt g e c ecc s
  | .dadd g e c ecc => Sys2Proof.Machine.execDadd g e c ecc s
  | .dor g e c ecc => Sys2Proof.Machine.execDor g e c ecc s
  | .dinc g e c ecc => Sys2Proof.Machine.execDinc g e c ecc s
  | .fadd g e c ecc => Sys2Proof.Machine.execFadd g e c ecc s
  | .cas g e c ecc => Sys2Proof.Machine.execCas g e c ecc s
  | .parseNext g e c ecc => Sys2Proof.Machine.execParseNext g e c ecc s
  | .parseSkip g e c ecc => Sys2Proof.Machine.execParseSkip g e c ecc s
  | .parseSetht g e c ecc => Sys2Proof.Machine.execParseSetht g e c ecc s
  | .kclr g e c ecc => Sys2Proof.Machine.execKclr g e c ecc s
  | .kcat g e c ecc => Sys2Proof.Machine.execKcat g e c ecc s
  | .kreg g e c ecc => Sys2Proof.Machine.execKreg g e c ecc s
  | .lookupLdg g e c ecc => Sys2Proof.Machine.execLookupLdg g e c ecc s
  | .lookupExm g e c ecc => Sys2Proof.Machine.execLookupExm g e c ecc s
  | .lookupWait g e c ecc => Sys2Proof.Machine.execLookupWait g e c ecc s
  | .ins g e c ecc => Sys2Proof.Machine.execIns g e c ecc s
  | .del g e c ecc => Sys2Proof.Machine.execDel g e c ecc s
  | .csum g e c ecc => Sys2Proof.Machine.execCsum g e c ecc s
  | .setv g e c ecc => Sys2Proof.Machine.execSetv g e c ecc s
  | .setq g e c ecc => Sys2Proof.Machine.execSetq g e c ecc s
  | .setb g e c ecc => Sys2Proof.Machine.execSetb g e c ecc s
  | .setr g e c ecc => Sys2Proof.Machine.execSetr g e c ecc s
  | .setm g e c ecc => Sys2Proof.Machine.execSetm g e c ecc s
  | .setx g e c ecc => Sys2Proof.Machine.execSetx g e c ecc s
  | .setc g e c ecc => Sys2Proof.Machine.execSetc g e c ecc s
  | .endPass g e c ecc => Sys2Proof.Machine.execEndPass g e c ecc s
  | .nop g e c ecc => Sys2Proof.Machine.execNop g e c ecc s
  | .movs g e c ecc => Sys2Proof.Machine.execMovs g e c ecc s
  | .trap g e c ecc => Sys2Proof.Machine.execTrap g e c ecc s
  | .handoff g e c ecc => Sys2Proof.Machine.execHandoff g e c ecc s
  | .lookupResult g e c m => Sys2Proof.Machine.execLookupResult g e c m s
  | .engineWdog g e => Sys2Proof.Machine.execEngineWdog g e s
  | .engineParity g e structure_ => Sys2Proof.Machine.execEngineParity g e structure_ s
  | .costWindowEnd g => Sys2Proof.Machine.execCostWindowEnd g s
  | .engEnWrite ag g v => Sys2Proof.Machine.execEngEnWrite ag g v s
  | .standbyBankWrite ag g idx first ws => Sys2Proof.Machine.execStandbyBankWrite ag g idx first ws s
  | .validateBank ag g => Sys2Proof.Machine.execValidateBank ag g s
  | .validateDone g => Sys2Proof.Machine.execValidateDone g s
  | .drain ag g v => Sys2Proof.Machine.execDrain ag g v s
  | .abort ag g v => Sys2Proof.Machine.execAbort ag g v s
  | .guildLoad ag g v => Sys2Proof.Machine.execGuildLoad ag g v s
  | .drainComplete g => Sys2Proof.Machine.execDrainComplete g s
  | .drainStuck g => Sys2Proof.Machine.execDrainStuck g s
  | .switchDone g => Sys2Proof.Machine.execSwitchDone g s
  | .checkDone g res => Sys2Proof.Machine.execCheckDone g res s
  | .ledgerSearch g e c m upset => Sys2Proof.Machine.execLedgerSearch g e c m upset s
  | .exmSearch g e c m ecc => Sys2Proof.Machine.execExmSearch g e c m ecc s
  | .ldgWrite ag k v => Sys2Proof.Machine.execLdgWrite ag k v s
  | .ldgInsert ag k v => Sys2Proof.Machine.execLdgInsert ag k v s
  | .ledgerMove => Sys2Proof.Machine.execLedgerMove s
  | .delete ag k v ecc => Sys2Proof.Machine.execDelete ag k v ecc s
  | .modify ag k v ecc => Sys2Proof.Machine.execModify ag k v ecc s
  | .addKey ag k v ecc => Sys2Proof.Machine.execAddKey ag k v ecc s
  | .lookup ag k v upset ecc => Sys2Proof.Machine.execLookup ag k v upset ecc s
  | .openEpoch ag k v => Sys2Proof.Machine.execOpenEpoch ag k v s
  | .publish ag k v => Sys2Proof.Machine.execPublish ag k v s
  | .discard ag k v => Sys2Proof.Machine.execDiscard ag k v s
  | .respreadMove r => Sys2Proof.Machine.execRespreadMove r s
  | .scrubRow row mismatch uncorr => Sys2Proof.Machine.execScrubRow row mismatch uncorr s
  | .stashDrainPass ecc => Sys2Proof.Machine.execStashDrainPass ecc s
  | .epochRetire => Sys2Proof.Machine.execEpochRetire s
  | .sweepDone discard ecc => Sys2Proof.Machine.execSweepDone discard ecc s
  | .epochStuck e => Sys2Proof.Machine.execEpochStuck e s
  | .enqueue => Sys2Proof.Machine.execEnqueue s
  | .bufferRelease h => Sys2Proof.Machine.execBufferRelease h s
  | .freeStw ag v => Sys2Proof.Machine.execFreeStw ag v s
  | .cellarWriteDone q => Sys2Proof.Machine.execCellarWriteDone q s
  | .cellarRefill q r => Sys2Proof.Machine.execCellarRefill q r s
  | .schedSelect m ecc => Sys2Proof.Machine.execSchedSelect m ecc s
  | .cipherDownstream p sd bad => Sys2Proof.Machine.execCipherDownstream p sd bad s
  | .bucketSweep => Sys2Proof.Machine.execBucketSweep s
  | .bucketWord0Write ag b v => Sys2Proof.Machine.execBucketWord0Write ag b v s
  | .debtClear ag b v => Sys2Proof.Machine.execDebtClear ag b v s
  | .statsSample g => Sys2Proof.Machine.execStatsSample g s
  | .statsClear ag e v => Sys2Proof.Machine.execStatsClear ag e v s
  | .poolCfgWrite ag n v => Sys2Proof.Machine.execPoolCfgWrite ag n v s
  | .cellarEnable ag v => Sys2Proof.Machine.execCellarEnable ag v s
  | .keyLoad ag slot => Sys2Proof.Machine.execKeyLoad ag slot s
  | .keyActivate ag slot => Sys2Proof.Machine.execKeyActivate ag slot s
  | .keyErase ag slot => Sys2Proof.Machine.execKeyErase ag slot s
  | .keyRestore ag => Sys2Proof.Machine.execKeyRestore ag s
  | .retiringTimeout slot => Sys2Proof.Machine.execRetiringTimeout slot s
  | .shasolMessageRx n r => Sys2Proof.Machine.execShasolMessageRx n r s
  | .tagCheckDone n good late => Sys2Proof.Machine.execTagCheckDone n good late s
  | .shasolMessageTx n chan => Sys2Proof.Machine.execShasolMessageTx n chan s
  | .heartbeatSend => Sys2Proof.Machine.execHeartbeatSend s
  | .heartbeat h times later => Sys2Proof.Machine.execHeartbeat h times later s
  | .mapMsg p sd seq m => Sys2Proof.Machine.execMapMsg p sd seq m s
  | .dbaState p seq sfc as => Sys2Proof.Machine.execDbaState p seq sfc as s
  | .ploamQ p sd seq sfc enter leave waits => Sys2Proof.Machine.execPloamQ p sd seq sfc enter leave waits s
  | .slotMsg p seq slot x ramp lfsr50 lfsr10 admitted => Sys2Proof.Machine.execSlotMsg p seq slot x ramp lfsr50 lfsr10 admitted s
  | .tableMsg p seq w => Sys2Proof.Machine.execTableMsg p seq w s
  | .keyMsg p seq k r => Sys2Proof.Machine.execKeyMsg p seq k r s
  | .faultMsg fatal => Sys2Proof.Machine.execFaultMsg fatal s
  | .releaseMsg seq trees num force => Sys2Proof.Machine.execReleaseMsg seq trees num force s
  | .takenMsg trees => Sys2Proof.Machine.execTakenMsg trees s
  | .requestMsg resend trees => Sys2Proof.Machine.execRequestMsg resend trees s
  | .syncMsg p seq c => Sys2Proof.Machine.execSyncMsg p seq c s
  | .heartbeatLoss => Sys2Proof.Machine.execHeartbeatLoss s
  | .partnerDarkChange d => Sys2Proof.Machine.execPartnerDarkChange d s
  | .darkStuckTimeout => Sys2Proof.Machine.execDarkStuckTimeout s
  | .livenessLoss => Sys2Proof.Machine.execLivenessLoss s
  | .takeoverWarm => Sys2Proof.Machine.execTakeoverWarm s
  | .take ag v => Sys2Proof.Machine.execTake ag v s
  | .give ag v => Sys2Proof.Machine.execGive ag v s
  | .offWaitExpiry => Sys2Proof.Machine.execOffWaitExpiry s
  | .releaseFail => Sys2Proof.Machine.execReleaseFail s
  | .domainEnWrite ag d v => Sys2Proof.Machine.execDomainEnWrite ag d v s
  | .phaseSampleCommit ag d v => Sys2Proof.Machine.execPhaseSampleCommit ag d v s
  | .ppsInEdge ix => Sys2Proof.Machine.execPpsInEdge ix s
  | .todMessageRx ix bytes => Sys2Proof.Machine.execTodMessageRx ix bytes s
  | .sourceTimeout d => Sys2Proof.Machine.execSourceTimeout d s
  | .wtrExpiry => Sys2Proof.Machine.execWtrExpiry s
  | .switchOutput ag v => Sys2Proof.Machine.execSwitchOutput ag v s
  | .outStep ag v => Sys2Proof.Machine.execOutStep ag v s
  | .reacquire ag d v => Sys2Proof.Machine.execReacquire ag d v s
  | .ppsOutEdge => Sys2Proof.Machine.execPpsOutEdge s
  | .todOutSend => Sys2Proof.Machine.execTodOutSend s
  | .tsRecordRead ag tx => Sys2Proof.Machine.execTsRecordRead ag tx s
  | .todAnnounce p slot => Sys2Proof.Machine.execTodAnnounce p slot s
  | .ponFreqMeasure y => Sys2Proof.Machine.execPonFreqMeasure y s
  | .synceSquelch o => Sys2Proof.Machine.execSynceSquelch o s
  | .synceResume o => Sys2Proof.Machine.execSynceResume o s
  | .ulkCfgWrite ag n v => Sys2Proof.Machine.execUlkCfgWrite ag n v s
  | .ulkRetrain ag n v => Sys2Proof.Machine.execUlkRetrain ag n v s
  | .ulkLinkChange n up cause anDone ltDone localFault remoteFault => Sys2Proof.Machine.execUlkLinkChange n up cause anDone ltDone localFault remoteFault s
  | .tileStart n => Sys2Proof.Machine.execTileStart n s
  | .laneEnWrite ag n v => Sys2Proof.Machine.execLaneEnWrite ag n v s
  | .rxDetectPulse n found => Sys2Proof.Machine.execRxDetectPulse n found s
  | .rxEnergy n => Sys2Proof.Machine.execRxEnergy n s
  | .laneEnergyLoss n => Sys2Proof.Machine.execLaneEnergyLoss n s
  | .trainingFrameRx n w req => Sys2Proof.Machine.execTrainingFrameRx n w req s
  | .trainTimeout n => Sys2Proof.Machine.execTrainTimeout n s
  | .bitLock n => Sys2Proof.Machine.execBitLock n s
  | .bitLockLost n => Sys2Proof.Machine.execBitLockLost n s
  | .commaRx n code spaced stuffed errs => Sys2Proof.Machine.execCommaRx n code spaced stuffed errs s
  | .commaMissing n => Sys2Proof.Machine.execCommaMissing n s
  | .lockTimeout n => Sys2Proof.Machine.execLockTimeout n s
  | .capRx n c => Sys2Proof.Machine.execCapRx n c s
  | .mismatchHoldExpiry n => Sys2Proof.Machine.execMismatchHoldExpiry n s
  | .exchangeTimeout n => Sys2Proof.Machine.execExchangeTimeout n s
  | .shasolRetrain ag n v => Sys2Proof.Machine.execShasolRetrain ag n v s
  | .sessOffer n nonce => Sys2Proof.Machine.execSessOffer n nonce s
  | .sessAnswer n nonce => Sys2Proof.Machine.execSessAnswer n nonce s
  | .sessOfferTimeout n => Sys2Proof.Machine.execSessOfferTimeout n s
  | .marginSample n m fill => Sys2Proof.Machine.execMarginSample n m fill s
  | .strapLatch mxp => Sys2Proof.Machine.execStrapLatch mxp s
  | .genEnWrite ag b v => Sys2Proof.Machine.execGenEnWrite ag b v s
  | .injGo ag b v => Sys2Proof.Machine.execInjGo ag b v s
  | .checkerLock b bits => Sys2Proof.Machine.execCheckerLock b bits s
  | .checkerLockLost b bits => Sys2Proof.Machine.execCheckerLockLost b bits s
  | .helloSend => Sys2Proof.Machine.execHelloSend s
  | .hello n addr lane serial => Sys2Proof.Machine.execHello n addr lane serial s
  | .neighbourTimeout n => Sys2Proof.Machine.execNeighbourTimeout n s
  | .lsa n l => Sys2Proof.Machine.execLsa n l s
  | .lsaRefresh => Sys2Proof.Machine.execLsaRefresh s
  | .lsaExpiry serial => Sys2Proof.Machine.execLsaExpiry serial s
  | .addressSettle => Sys2Proof.Machine.execAddressSettle s
  | .routeRecompute => Sys2Proof.Machine.execRouteRecompute s
  | .packet n bytes full => Sys2Proof.Machine.execPacket n bytes full s
  | .masterLostTimeout => Sys2Proof.Machine.execMasterLostTimeout s
  | .fabCfgWrite ag v => Sys2Proof.Machine.execFabCfgWrite ag v s
  | .bindingWrite ag q v => Sys2Proof.Machine.execBindingWrite ag q v s
  | .filterWindowEnd k src => Sys2Proof.Machine.execFilterWindowEnd k src s
  | .faultMessageRx box differ => Sys2Proof.Machine.execFaultMessageRx box differ s
  | .fltMsgLost box => Sys2Proof.Machine.execFltMsgLost box s
  | .safeStateEntry => Sys2Proof.Machine.execSafeStateEntry s
  | .faultQueueRead ag => Sys2Proof.Machine.execFaultQueueRead ag s
  | .kindCfgWrite ag k v => Sys2Proof.Machine.execKindCfgWrite ag k v s
  | .kindStatusClear ag k v => Sys2Proof.Machine.execKindStatusClear ag k v s
  | .isoRestore ag v => Sys2Proof.Machine.execIsoRestore ag v s
  | .safeExit ag v => Sys2Proof.Machine.execSafeExit ag v s
  | .captureClr ag v => Sys2Proof.Machine.execCaptureClr ag v s
  | .autoRestart => Sys2Proof.Machine.execAutoRestart s
  | .handshakeStall src stage => Sys2Proof.Machine.execHandshakeStall src stage s
  | .analogCauseOnset c => Sys2Proof.Machine.execAnalogCauseOnset c s
  | .analogCauseEnd c => Sys2Proof.Machine.execAnalogCauseEnd c s
  | .tempSample ix t => Sys2Proof.Machine.execTempSample ix t s
  | .stewardWdog core pc => Sys2Proof.Machine.execStewardWdog core pc s
  | .goldenPassDone id => Sys2Proof.Machine.execGoldenPassDone id s
  | .sramSliceTest src words bad whole => Sys2Proof.Machine.execSramSliceTest src words bad whole s
  | .ledgerSliceTest first n bad => Sys2Proof.Machine.execLedgerSliceTest first n bad s
  | .bufferAudit pool diff => Sys2Proof.Machine.execBufferAudit pool diff s
  | .eyeScan b m => Sys2Proof.Machine.execEyeScan b m s
  | .wardenForceStart => Sys2Proof.Machine.execWardenForceStart s
  | .wdnLate => Sys2Proof.Machine.execWdnLate s
  | .tallyConfigWrite ag ix v => Sys2Proof.Machine.execTallyConfigWrite ag ix v s
  | .snap ag v => Sys2Proof.Machine.execSnap ag v s
  | .snapPeriodic => Sys2Proof.Machine.execSnapPeriodic s
  | .snapshotDone skew => Sys2Proof.Machine.execSnapshotDone skew s
  | .pmSecondEnd => Sys2Proof.Machine.execPmSecondEnd s
  | .dsReport p slot cw unc hec lost => Sys2Proof.Machine.execDsReport p slot cw unc hec lost s
  | .dsReportRequest => Sys2Proof.Machine.execDsReportRequest s
  | .dsReportMissing p slot => Sys2Proof.Machine.execDsReportMissing p slot s
  | .pmClear ag v => Sys2Proof.Machine.execPmClear ag v s
  | .pmClearAll ag v => Sys2Proof.Machine.execPmClearAll ag v s
  | .powerOnReset => Sys2Proof.Machine.execPowerOnReset s
  | .resetRelease => Sys2Proof.Machine.execResetRelease s
  | .warmReset ag v => Sys2Proof.Machine.execWarmReset ag v s
  | .txdisSample present => Sys2Proof.Machine.execTxdisSample present s
  | .enterS1 trained => Sys2Proof.Machine.execEnterS1 trained s
  | .bankFetchDone v p => Sys2Proof.Machine.execBankFetchDone v p s
  | .enterS2 => Sys2Proof.Machine.execEnterS2 s
  | .enterS3 => Sys2Proof.Machine.execEnterS3 s
  | .stageLate => Sys2Proof.Machine.execStageLate s
  | .hostImage ag v => Sys2Proof.Machine.execHostImage ag v s
  | .svnCommit ag v => Sys2Proof.Machine.execSvnCommit ag v s
  | .flashErase ag v err => Sys2Proof.Machine.execFlashErase ag v err s
  | .flashProgram ag v err => Sys2Proof.Machine.execFlashProgram ag v err s
  | .mxpStatusUpdate => Sys2Proof.Machine.execMxpStatusUpdate s
  | .mxpFaultToggle => Sys2Proof.Machine.execMxpFaultToggle s
  | .omciResponseRx p slot good => Sys2Proof.Machine.execOmciResponseRx p slot good s
  | .stwFwValidate ag v bad => Sys2Proof.Machine.execStwFwValidate ag v bad s
  | .stwFwSwitch ag v => Sys2Proof.Machine.execStwFwSwitch ag v s
  | .stwFwReady => Sys2Proof.Machine.execStwFwReady s
  | .stwFwFallback => Sys2Proof.Machine.execStwFwFallback s
  | .pcieReset e => Sys2Proof.Machine.execPcieReset e s
  | .functionLevelReset fn => Sys2Proof.Machine.execFunctionLevelReset fn s
  | .pcieLinkDown => Sys2Proof.Machine.execPcieLinkDown s
  | .unassignedAccess ag bar off v => Sys2Proof.Machine.execUnassignedAccess ag bar off v s
  | .winRead ag w v => Sys2Proof.Machine.execWinRead ag w v s
  | .winWrite ag w v => Sys2Proof.Machine.execWinWrite ag w v s
  | .lockOpen ag a v => Sys2Proof.Machine.execLockOpen ag a v s
  | .lockClose ag a v => Sys2Proof.Machine.execLockClose ag a v s
  | .lockSeal ag a v => Sys2Proof.Machine.execLockSeal ag a v s
  | .ringEnWrite ag r v => Sys2Proof.Machine.execRingEnWrite ag r v s
  | .ringTailWrite ag r v => Sys2Proof.Machine.execRingTailWrite ag r v s
  | .rxRingDeliver telemetry bufLen => Sys2Proof.Machine.execRxRingDeliver telemetry bufLen s
  | .txEntry r e bytes => Sys2Proof.Machine.execTxEntry r e bytes s
  | .dmaError r code => Sys2Proof.Machine.execDmaError r code s
  | .coalTimerExpiry r => Sys2Proof.Machine.execCoalTimerExpiry r s
  | .rearm ag v => Sys2Proof.Machine.execRearm ag v s
  | .vfPortsWrite ag vf v => Sys2Proof.Machine.execVfPortsWrite ag vf v s
  | .registerWrite ag bar off v => Sys2Proof.Machine.execRegisterWrite ag bar off v s
  | .ppsMissed ix => Sys2Proof.Machine.execPpsMissed ix s
  | .pcieLinkUp rate width flit => Sys2Proof.Machine.execPcieLinkUp rate width flit s
  | .registerRead ag bar off => Sys2Proof.Machine.execRegisterRead ag bar off s
  | .restartAgeOut => Sys2Proof.Machine.execRestartAgeOut s

end Sys2Proof.Machine
end

