-- ==== Sys2Proof/Machine/Step.lean ====
section
/-! DEFINITION. One step: the command at the front of the queue, or an idle nanosecond on an empty queue. -/

namespace Sys2Proof.Machine

/-- An idle step: the free-running count advances by one nanosecond (DESIGN CHOICE, log entry 1). -/
def idle (s : State) : State := { s with now := (s.now + 1) % 2 ^ 64 }

/-- One step (log entry 1): the front command's effect with the queue's rest; on an empty queue the block idles. -/
def step (s : State) : Host.Outcome State Fault Refusal :=
  match s.pending with
  | [] => .next (idle s)
  | c :: rest => exec c { s with pending := rest }

/-- The state with the command a table word spells at the front of its queue. No row of the table gives bits, so no
word spells a command and the state stands. -/
def State.withFetchWord (s : State) (nbits w : Nat) : State :=
  match Sys2Proof.decodeTableWord nbits w with
  | some c => { s with pending := c :: s.pending }
  | none => s

end Sys2Proof.Machine
end

