-- ==== Sys2Proof/Safety.lean ====
section
/-! DEFINITION. What every state a step leaves must satisfy: tables in their one canonical form, counters and the free-running
count within their widths. -/

namespace Sys2Proof.Machine

set_option autoImplicit false

/-- The register and table words, latched words, words returned to accessors and counters are in canonical form, every
48-bit counter is below 2^48 (R64) and the free-running count below 2^64 (R364). -/
def Canon (words latch : Words) (ctrs : Tab Ctr) (now : Nat) (rdata : Words) : Prop :=
  Tab.wf wordReset words = true ∧ Tab.wf wordReset latch = true ∧ Tab.wf (fun _ => Ctr.zero) ctrs = true
    ∧ (∀ p ∈ ctrs, p.2.count < 2 ^ 48) ∧ now < 2 ^ 64 ∧ Tab.wf (fun _ => 0#32) rdata = true

/-- A state whose data are in canonical form. -/
def State.Sound (s : State) : Prop := Canon s.words s.latch s.ctrs s.now s.rdata

/-- A state whose queue of waiting commands is `Q` and which is sound where `P` holds. -/
structure State.Keeps (P : Prop) (Q : List Instr) (s : State) : Prop where
  queue : s.pending = Q
  sound : P → s.Sound

/-- An outcome that is a next state with a property: a command that completes. -/
def Completes (o : Host.Outcome State Fault Refusal) (P : State → Prop) : Prop := ∃ t, o = .next t ∧ P t

/-- The parts of the state a command can change. -/
inductive Part where
  | words | latch | ctrs | now | free | flt | pon | act | whf | cpg | keys | pm | stw | twn | ldg | eng | fwd | hrl | shl | tly | wdn | boot | hst | rdata
deriving DecidableEq, Repr

/-- `t` differs from `s` at most in the parts of `K`: every other part, and the queue, is as it was. -/
structure State.Within (K : Part → Prop) (t s : State) : Prop where
  pending : t.pending = s.pending
  words : K .words ∨ t.words = s.words
  latch : K .latch ∨ t.latch = s.latch
  ctrs : K .ctrs ∨ t.ctrs = s.ctrs
  now : K .now ∨ t.now = s.now
  free : K .free ∨ t.free = s.free
  flt : K .flt ∨ t.flt = s.flt
  pon : K .pon ∨ t.pon = s.pon
  act : K .act ∨ t.act = s.act
  whf : K .whf ∨ t.whf = s.whf
  cpg : K .cpg ∨ t.cpg = s.cpg
  keys : K .keys ∨ t.keys = s.keys
  pm : K .pm ∨ t.pm = s.pm
  stw : K .stw ∨ t.stw = s.stw
  twn : K .twn ∨ t.twn = s.twn
  ldg : K .ldg ∨ t.ldg = s.ldg
  eng : K .eng ∨ t.eng = s.eng
  fwd : K .fwd ∨ t.fwd = s.fwd
  hrl : K .hrl ∨ t.hrl = s.hrl
  shl : K .shl ∨ t.shl = s.shl
  tly : K .tly ∨ t.tly = s.tly
  wdn : K .wdn ∨ t.wdn = s.wdn
  boot : K .boot ∨ t.boot = s.boot
  hst : K .hst ∨ t.hst = s.hst
  rdata : K .rdata ∨ t.rdata = s.rdata

/-- A command completes and changes at most the parts listed. -/
def Changes (o : Host.Outcome State Fault Refusal) (s : State) (l : List Part) : Prop := Completes o (fun t => t.Within (· ∈ l) s)

/-- A write of `ag` to BAR0 address `a` reaches its register: not a VF's (R541), not one to a protected block (R549). -/
def State.reaches (s : State) (ag : Agent) (a : Nat) : Bool :=
  match ag with
  | .vf _ => false
  | _ => !s.protectedFor ag a

/-- A write of `ag` through window `w` reaches its table (R546, R549). -/
def State.reachesWin (s : State) (ag : Agent) (w : Nat) : Bool :=
  match ag with
  | .vf _ => false
  | _ => !s.protectedFor ag (0x800000 + w * 0x1000)

end Sys2Proof.Machine
end

