-- ==== Sys2Proof/Certificates/Slice0/Obligations.lean ====
section
/-! DEFINITION. The obligations: what the commands of each family do, what every command leaves alone, what a step keeps and what reset
leaves. A statement names the rules of the spec it rests on; a choice of the model names its log entry. -/

set_option autoImplicit false

namespace Sys2Proof.Machine

/-- The context at a key is about to issue an instruction of a class and operation (R182, R184, R187). -/
def State.Issues (s : State) (k : Nat) (x : Ctx) (i : Insn) (cls op : Nat) : Prop :=
  s.runnable k = some x ∧ x.slots < s.insnMax (keyGuild k) ∧ s.fetch (keyGuild k) x.pc = i ∧ i.defined = true ∧ i.cls = cls ∧ i.op = op

/-- A context after an instruction: one slot spent, the PC at a target. -/
def Ctx.after (x : Ctx) (pc : Nat) : Ctx := { x with slots := x.slots + 1, pc := pc % 2 ^ 14 }

/-- The second operand of an ALU instruction: IMM in class ALU-I, register B in class ALU-R. -/
def Ctx.op2 (x : Ctx) (i : Insn) (imm : Bool) : Word := if imm then BitVec.ofNat 32 i.imm else x.reg i.b

/-- A context after an ALU instruction with result `v` in register D. -/
def Ctx.wrote (x : Ctx) (i : Insn) (f : Flags) (v : Word) : Ctx := (({ x with flags := f } : Ctx).setReg i.d v).after (x.pc + 1)

/-- A command leaves the context at a key as `y` and every other as it was, counts one slot of the guild, and changes nothing
outside the engines and the counters. -/
def Runs (c : Instr) (s : State) (k : Nat) (y : Ctx) : Prop :=
  Completes (exec c s) (fun t => t.ctxOf k = some y ∧ (∀ j, j ≠ k → t.ctxOf j = s.ctxOf j) ∧
    t.ctr (Cnt.GLD_SLOTS (keyGuild k)) = (s.ctr (Cnt.GLD_SLOTS (keyGuild k))).add 1 ∧ t.Within (· ∈ [.eng, .ctrs, .tly]) s)

/-- A command traps the pass in a context: its slot is spent and the pass ends with a code of Table 6-5. -/
def Traps (c : Instr) (s : State) (k : Nat) (x : Ctx) (code : TrapCode) : Prop :=
  exec c s = .next ((s.spend (keyGuild k)).trap k x code 0)

end Sys2Proof.Machine

namespace Sys2Proof.Machine

/-- A port of Ledger takes a command of `ag` at once (R251): the write reaches it, it is not BUSY and no command of several steps
runs. -/
def State.LdgReady (s : State) (ag : Agent) (k : Fin 2) : Prop :=
  s.reaches ag (Reg.LDG_CMD.addr k.val) = true ∧ s.bit (Reg.LDG_CMD_STATUS.BUSY k.val) = false ∧ s.ldg.job = none

/-- A port's command is done with a result code. -/
def State.LdgDone (t : State) (k : Fin 2) (c : LCode) : Prop :=
  t.bit (Reg.LDG_CMD_STATUS.BUSY k.val) = false ∧ t.rd (Reg.LDG_CMD_STATUS.CODE k.val) = c.n

end Sys2Proof.Machine

namespace Sys2Proof.Machine

/-- A write of `ag` to a register of ring `r` reaches it: a VF only its own rings (R541), no protected PF write (R549). -/
def State.ringReaches (s : State) (ag : Agent) (r a : Nat) : Bool :=
  ringExists r && (match ag with | .vf n => ringFn r == n.val + 1 | _ => s.reaches ag a)

/-- The words of an access through a window port (Table 17-4): FIRST and COUNT of a written WIN_CMD. -/
def winFirst (v : Word) : Nat := (v.extractLsb' 8 5).toNat

/-- COUNT of a written WIN_CMD. -/
def winCount (v : Word) : Nat := (v.extractLsb' 0 6).toNat

end Sys2Proof.Machine

namespace Sys2Proof.Machine

/-- Every part of the state. -/
def Part.all : List Part :=
  [.words, .latch, .ctrs, .now, .free, .flt, .pon, .act, .whf, .cpg, .keys, .pm, .stw, .twn, .ldg, .eng, .fwd, .hrl, .shl, .tly, .wdn, .boot, .hst, .rdata]

/-- The parts of the state a command may write: its frame. Every other part is left as it was. -/
def frameOf (c : Instr) : List Part :=
  match c with
  | .frameTick _ _ _ => [.words, .ctrs, .free, .flt, .pon, .act, .whf, .cpg, .keys, .pm, .stw, .twn, .hrl, .tly]
  | .paceWindowEnd _ _ => [.words, .flt, .eng, .fwd, .wdn]
  | .mapBuildStart => [.words, .ctrs, .free, .act, .whf, .pm, .twn, .tly]
  | .assayerCheck _ _ _ => [.words, .ctrs, .flt, .act, .whf, .pm, .twn, .tly]
  | .mapRelease _ _ => [.words, .ctrs, .flt, .pon, .act, .whf, .pm, .twn, .tly]
  | .mapLock _ _ => [.words, .ctrs, .free, .flt, .pon, .act, .whf, .pm, .twn, .tly]
  | .uplinkFrameRx _ _ _ _ => [.words, .ctrs, .free, .flt, .cpg, .fwd, .hrl, .tly]
  | .uplinkFrameTx _ _ _ _ => [.ctrs, .flt, .cpg, .fwd, .hrl, .shl, .tly]
  | .phaseOffsetWrite _ _ _ => [.words, .ctrs, .free, .flt, .pon, .twn, .hrl, .tly]
  | .dsEnableWrite _ _ _ => [.words, .ctrs, .free, .flt, .pon, .act, .cpg, .twn, .tly]
  | .ocbCommit _ _ _ _ | .alignModeWrite _ _ _ => [.words, .ctrs, .free, .flt, .pon, .twn, .tly]
  | .psyncMatch _ _ _ _ | .trackerCheck _ _ _ _ _ => [.words, .ctrs, .pon, .tly]
  | .syncPsbdCheck _ _ _ _ _ | .presetWindowWrite _ _ _ _ => [.words, .ctrs, .flt, .pon, .tly]
  | .burstStart _ _ | .presetAgeExpiry _ _ _ => [.pon]
  | .delimWindowClose _ _ _ => [.words, .ctrs, .flt, .pon, .act, .pm, .twn, .tly]
  | .burstEnd _ _ _ => [.words, .ctrs, .flt, .pon, .act, .whf, .pm, .twn, .hrl, .tly]
  | .upstreamXgemFrame _ _ _ _ _ _ _ _ _ _ => [.words, .ctrs, .free, .flt, .cpg, .keys, .fwd, .tly]
  | .upstreamPloamRx _ _ _ _ _ _ _ => [.ctrs, .flt, .pon, .act, .keys, .twn, .tly]
  | .strayDelimiter _ _ _ _ _ => [.ctrs, .flt, .act, .pm, .twn, .tly]
  | .strayEnergyEpisode _ _ _ _ => [.ctrs, .flt, .act, .tly]
  | .usLossOnset _ _ => [.words, .ctrs, .flt, .pm, .twn, .tly]
  | .ploamAckTimeout _ _ | .keyExchangeTimeout _ _ | .registrationTimeout _ _ | .lostWaitExpiry _ _ | .rogueWatchEnd _ | .omciResponseRx _ _ _
    => [.words, .ctrs, .flt, .act, .cpg, .keys, .pm, .stw, .twn, .tly]
  | .teqdWrite _ _ _ | .reachWrite _ _ _ => [.words, .ctrs, .free, .flt, .act, .twn, .tly]
  | .discPeriodStart _ _ => [.act, .twn]
  | .quietSpanClose _ _ _ => [.ctrs, .pon, .act, .twn, .tly]
  | .snResponse _ => [.words, .ctrs, .free, .flt, .pon, .act, .cpg, .keys, .pm, .stw, .twn, .tly]
  | .rangingResponse _ _ _ | .rangingNoResponse _ _ => [.words, .ctrs, .flt, .pon, .act, .cpg, .keys, .pm, .stw, .twn, .tly]
  | .registrationRx _ _ _ => [.words, .ctrs, .flt, .act, .cpg, .keys, .pm, .stw, .twn, .hrl, .tly]
  | .keyReportRx _ _ _ _ => [.ctrs, .act, .keys, .pm, .stw, .twn, .tly]
  | .rampStart _ _ | .rampStop _ _ | .deactivate _ _ _ | .enable _ _ _ | .disable _ _ _
    => [.words, .ctrs, .free, .flt, .act, .cpg, .keys, .pm, .stw, .twn, .tly]
  | .rampTimeout _ => [.flt, .act, .twn]
  | .rogueHuntStart _ _ | .ploamQ _ _ _ _ _ _ _ => [.ctrs, .flt, .act, .twn, .tly]
  | .allocWrite _ _ _ _ _ _ _ _ | .fsiPageWrite _ _ _ => [.words, .ctrs, .flt, .twn, .tly]
  | .ctiRecordTake => [.ctrs, .whf, .tly]
  | .swapRequest _ _ => [.words, .ctrs, .free, .flt, .whf, .twn, .tly]
  | .swapValidationDone _ => [.words, .flt, .whf]
  | .bdeactUnlock _ _ | .whfAlgWrite _ _ | .validateBank _ _ | .poolCfgWrite _ _ _ | .cellarEnable _ _ | .ulkCfgWrite _ _ _ | .ulkRetrain _ _ _
    | .ringTailWrite _ _ _ | .vfPortsWrite _ _ _ => [.words, .ctrs, .free, .flt, .tly]
  | .sorterDispatch => [.words, .ctrs, .flt, .cpg, .eng, .fwd, .tly, .wdn]
  | .expressLookup _ _ => [.words, .ctrs, .free, .flt, .cpg, .ldg, .fwd, .tly]
  | .windowLoadDone _ _ _ => [.eng]
  | .sorterRelease _ | .reorderTimeout _ | .freeStw _ _ | .packet _ _ _ => [.words, .ctrs, .free, .flt, .cpg, .fwd, .tly]
  | .add _ _ _ _ | .sub _ _ _ _ | .and _ _ _ _ | .or _ _ _ _ | .xor _ _ _ _ | .shl _ _ _ _ | .shr _ _ _ _ | .sar _ _ _ _ | .min _ _ _ _
    | .max _ _ _ _ | .cmp _ _ _ _ | .popc _ _ _ _ | .bfx _ _ _ _ | .bfi _ _ _ _ | .movi _ _ _ _ | .beq _ _ _ _ | .bne _ _ _ _ | .blt _ _ _ _
    | .bge _ _ _ _ | .bltu _ _ _ _ | .bgeu _ _ _ _ | .jmp _ _ _ _ | .call _ _ _ _ | .ret _ _ _ _ | .st _ _ _ _ | .dadd _ _ _ _ | .dor _ _ _ _
    | .dinc _ _ _ _ | .fadd _ _ _ _ | .cas _ _ _ _ | .parseNext _ _ _ _ | .parseSkip _ _ _ _ | .parseSetht _ _ _ _ | .kclr _ _ _ _ | .kcat _ _ _ _
    | .kreg _ _ _ _ | .lookupLdg _ _ _ _ | .lookupExm _ _ _ _ | .lookupWait _ _ _ _ | .del _ _ _ _ | .csum _ _ _ _ | .setv _ _ _ _ | .setq _ _ _ _
    | .setb _ _ _ _ | .setr _ _ _ _ | .setm _ _ _ _ | .setx _ _ _ _ | .setc _ _ _ _ | .nop _ _ _ _ | .movs _ _ _ _ | .trap _ _ _ _
    | .handoff _ _ _ _ | .lookupResult _ _ _ _ | .drainStuck _ | .checkDone _ _ => [.words, .ctrs, .flt, .cpg, .eng, .fwd, .tly]
  | .ld _ _ _ _ _ | .ins _ _ _ _ | .engEnWrite _ _ _ | .drain _ _ _ | .abort _ _ _ | .guildLoad _ _ _
    => [.words, .ctrs, .free, .flt, .cpg, .eng, .fwd, .tly]
  | .endPass _ _ _ _ => [.words, .ctrs, .flt, .whf, .cpg, .eng, .fwd, .tly]
  | .engineWdog _ _ | .engineParity _ _ _ => [.flt, .eng]
  | .costWindowEnd _ => [.words, .flt, .eng]
  | .standbyBankWrite _ _ _ _ _ => [.words, .ctrs, .flt, .eng, .tly]
  | .validateDone _ | .ponFreqMeasure _ | .masterLostTimeout | .analogCauseEnd _ | .pcieLinkDown => [.words, .flt]
  | .drainComplete _ | .wardenForceStart => [.words]
  | .switchDone _ => [.words, .eng]
  | .ledgerSearch _ _ _ _ _ => [.ctrs, .flt, .eng, .tly]
  | .exmSearch _ _ _ _ _ => [.ctrs, .flt, .ldg, .eng, .tly]
  | .ldgWrite _ _ _ | .ldgInsert _ _ _ | .ledgerMove | .delete _ _ _ _ | .modify _ _ _ _ | .addKey _ _ _ _ | .lookup _ _ _ _ _ | .openEpoch _ _ _
    | .publish _ _ _ | .discard _ _ _ | .sweepDone _ _ => [.words, .ctrs, .free, .flt, .ldg, .tly, .hst]
  | .respreadMove _ => [.ctrs, .ldg, .tly]
  | .scrubRow _ _ _ => [.ctrs, .flt, .ldg, .tly]
  | .stashDrainPass _ => [.ctrs, .free, .flt, .ldg, .tly]
  | .epochRetire => [.words, .ldg]
  | .epochStuck _ => [.flt, .ldg]
  | .enqueue => [.words, .ctrs, .flt, .cpg, .fwd, .tly]
  | .bufferRelease _ | .cipherDownstream _ _ _ => [.ctrs, .flt, .cpg, .tly]
  | .cellarWriteDone _ | .cellarRefill _ _ | .schedSelect _ _ => [.ctrs, .free, .flt, .cpg, .tly]
  | .bucketSweep | .statsSample _ => [.cpg]
  | .bucketWord0Write _ _ _ | .debtClear _ _ _ | .statsClear _ _ _ => [.words, .ctrs, .flt, .cpg, .tly]
  | .keyLoad _ _ | .keyActivate _ _ | .keyErase _ _ => [.words, .ctrs, .flt, .keys, .twn, .tly, .hst]
  | .keyRestore _ => [.words, .ctrs, .free, .flt, .act, .cpg, .keys, .pm, .stw, .twn, .shl, .tly, .hst]
  | .retiringTimeout _ => [.keys, .twn]
  | .shasolMessageRx _ _ => [.ctrs, .flt, .shl, .tly]
  | .tagCheckDone _ _ _ | .lsa _ _ | .addressSettle => [.words, .ctrs, .flt, .shl, .tly]
  | .shasolMessageTx _ _ | .capRx _ _ => [.words, .ctrs, .free, .flt, .cpg, .keys, .twn, .shl, .tly]
  | .heartbeatSend | .requestMsg _ _ | .livenessLoss => [.twn]
  | .heartbeat _ _ _ | .releaseMsg _ _ _ _ | .heartbeatLoss | .stwFwReady
    => [.words, .ctrs, .flt, .pon, .act, .cpg, .keys, .pm, .stw, .twn, .hrl, .tly, .hst]
  | .mapMsg _ _ _ _ | .dbaState _ _ _ _ => [.ctrs, .flt, .whf, .twn, .tly]
  | .slotMsg _ _ _ _ _ _ _ _ => [.words, .ctrs, .flt, .act, .cpg, .pm, .stw, .twn, .tly]
  | .tableMsg _ _ _ | .syncMsg _ _ _ | .safeExit _ _ | .captureClr _ _ | .autoRestart | .powerOnReset | .warmReset _ _ | .bankFetchDone _ _
    | .unassignedAccess _ _ _ _ | .registerWrite _ _ _ _ => Part.all
  | .keyMsg _ _ _ _ => [.ctrs, .flt, .keys, .twn, .tly]
  | .faultMsg _ | .partnerDarkChange _ | .darkStuckTimeout | .takeoverWarm
    => [.words, .ctrs, .flt, .pon, .act, .cpg, .keys, .pm, .stw, .twn, .hrl, .tly]
  | .takenMsg _ => [.words, .twn, .hst]
  | .take _ _ => [.words, .ctrs, .free, .flt, .pon, .act, .cpg, .keys, .pm, .stw, .twn, .hrl, .tly, .hst]
  | .give _ _ => [.words, .ctrs, .free, .flt, .twn, .tly, .hst]
  | .offWaitExpiry => [.words, .ctrs, .flt, .cpg, .twn, .tly]
  | .releaseFail => [.words, .flt, .twn, .hst]
  | .domainEnWrite _ _ _ | .switchOutput _ _ | .reacquire _ _ _ => [.words, .ctrs, .free, .flt, .hrl, .tly]
  | .phaseSampleCommit _ _ _ | .outStep _ _ => [.words, .ctrs, .free, .flt, .pon, .pm, .hrl, .tly]
  | .ppsInEdge _ => [.words, .ctrs, .flt, .pon, .pm, .hrl, .tly]
  | .todMessageRx _ _ | .synceSquelch _ | .ppsMissed _ => [.ctrs, .flt, .hrl, .tly]
  | .sourceTimeout _ | .wtrExpiry => [.words, .ctrs, .flt, .hrl, .tly]
  | .ppsOutEdge | .todOutSend => [.hrl]
  | .tsRecordRead _ _ => [.words, .latch, .ctrs, .flt, .hrl, .tly, .rdata]
  | .todAnnounce _ _ => [.ctrs, .hrl, .tly]
  | .synceResume _ => [.flt, .hrl]
  | .ulkLinkChange _ _ _ _ _ _ _ | .routeRecompute | .bindingWrite _ _ _ | .tallyConfigWrite _ _ _ => [.words, .ctrs, .flt, .tly]
  | .tileStart _ | .laneEnWrite _ _ _ | .commaRx _ _ _ _ _ | .shasolRetrain _ _ _ | .sessOfferTimeout _ | .genEnWrite _ _ _ | .injGo _ _ _
    | .fabCfgWrite _ _ => [.words, .ctrs, .free, .flt, .cpg, .twn, .shl, .tly]
  | .rxDetectPulse _ _ | .lsaExpiry _ => [.words, .shl]
  | .rxEnergy _ | .laneEnergyLoss _ | .trainingFrameRx _ _ _ | .trainTimeout _ | .commaMissing _ | .lockTimeout _ | .mismatchHoldExpiry _
    | .exchangeTimeout _ | .marginSample _ _ _ => [.words, .ctrs, .flt, .cpg, .twn, .shl, .tly]
  | .bitLock _ | .bitLockLost _ | .helloSend => [.shl]
  | .sessOffer _ _ => [.free, .shl]
  | .sessAnswer _ _ => [.words, .ctrs, .keys, .shl, .tly]
  | .strapLatch _ => [.words, .ctrs, .free, .flt, .cpg, .twn, .shl, .tly, .boot]
  | .checkerLock _ _ | .checkerLockLost _ _ | .hello _ _ _ _ | .neighbourTimeout _ | .lsaRefresh => [.words, .ctrs, .shl, .tly]
  | .filterWindowEnd _ _ => [.flt, .act]
  | .faultMessageRx _ _ => [.words, .ctrs, .flt, .pon, .cpg, .twn, .eng, .fwd, .shl, .tly, .hst]
  | .fltMsgLost _ | .handshakeStall _ _ | .stageLate | .mxpFaultToggle | .restartAgeOut => [.flt]
  | .safeStateEntry => [.ctrs, .flt, .pon, .twn, .tly, .hst]
  | .faultQueueRead _ => [.words, .latch, .ctrs, .flt, .tly, .rdata]
  | .kindCfgWrite _ _ _ | .ringEnWrite _ _ _ | .rearm _ _ => [.words, .ctrs, .free, .flt, .tly, .hst]
  | .kindStatusClear _ _ _ => [.words, .ctrs, .free, .flt, .act, .tly, .hst]
  | .isoRestore _ _ => [.words, .ctrs, .free, .flt, .tly, .wdn, .hst]
  | .analogCauseOnset _ => [.words, .ctrs, .free, .flt, .keys, .shl, .tly]
  | .tempSample _ _ => [.words, .ctrs, .free, .flt, .pon, .keys, .shl, .tly]
  | .stewardWdog _ _ | .stwFwFallback => [.words, .ctrs, .flt, .act, .stw, .tly, .boot]
  | .goldenPassDone _ => [.words, .ctrs, .flt, .eng, .tly, .wdn]
  | .sramSliceTest _ _ _ _ | .ledgerSliceTest _ _ _ | .eyeScan _ _ => [.words, .ctrs, .flt, .tly, .wdn]
  | .bufferAudit _ _ => [.words, .ctrs, .flt, .cpg, .tly, .wdn]
  | .wdnLate => [.free, .flt]
  | .snap _ _ | .pmClear _ _ | .pmClearAll _ _ => [.words, .ctrs, .free, .flt, .pm, .tly]
  | .snapPeriodic => [.words, .ctrs, .tly]
  | .snapshotDone _ => [.words, .ctrs, .free, .flt, .cpg, .tly, .hst]
  | .pmSecondEnd => [.words, .ctrs, .pm, .twn, .tly, .hst]
  | .dsReport _ _ _ _ _ _ => [.words, .ctrs, .pm, .tly, .hst]
  | .dsReportRequest => [.pm]
  | .dsReportMissing _ _ => [.words, .ctrs, .free, .pm, .tly, .hst]
  | .resetRelease => [.words, .ctrs, .now, .free, .flt, .cpg, .keys, .twn, .shl, .tly, .boot]
  | .txdisSample _ => [.words, .boot]
  | .enterS1 _ => [.words, .free, .flt, .hst]
  | .enterS2 => [.words, .flt, .act, .whf, .twn, .boot, .hst]
  | .enterS3 => [.words, .hst]
  | .hostImage _ _ | .svnCommit _ _ | .flashErase _ _ _ | .flashProgram _ _ _ => [.words, .ctrs, .free, .flt, .tly, .boot, .hst]
  | .mxpStatusUpdate => [.boot]
  | .stwFwValidate _ _ _ | .stwFwSwitch _ _ => [.words, .ctrs, .free, .flt, .act, .stw, .twn, .tly, .boot]
  | .pcieReset _ | .functionLevelReset _ | .pcieLinkUp _ _ _ => [.words, .flt, .hst]
  | .winRead _ _ _ | .winWrite _ _ _ => [.words, .ctrs, .flt, .pon, .whf, .cpg, .twn, .eng, .tly, .hst]
  | .lockOpen _ _ _ | .lockClose _ _ _ | .lockSeal _ _ _ => [.words, .ctrs, .free, .flt, .tly, .boot]
  | .rxRingDeliver _ _ | .txEntry _ _ _ => [.words, .ctrs, .free, .flt, .cpg, .fwd, .tly, .hst]
  | .dmaError _ _ => [.words, .ctrs, .flt, .cpg, .fwd, .tly, .hst]
  | .coalTimerExpiry _ => [.hst]
  | .registerRead _ _ _ => [.words, .latch, .ctrs, .free, .flt, .pm, .eng, .hrl, .shl, .tly, .rdata]

end Sys2Proof.Machine

section

open Sys2Proof Sys2Proof.Machine

/-- The frame tick (R32, R506, Table 14-9): no frame before stage S1 or in safe state; else the port's next frame begins, its SFC one on, and a phase
offset has been taken. MAP_LOCK (R26, R38): a side that transmits, and has not locked its next frame, locks it, once; a dark side that does not
shadow locks nothing. -/
def Obligations.FrameTickAndMapLock : Prop :=
  ((∀ (p : Fin 32) (a b : Nat) (s : State), s.stage = 0 ∨ s.flt.safe = true → exec (.frameTick p a b) s = .next s) ∧
  (∀ (p : Fin 32) (a b : Nat) (s : State), s.stage ≠ 0 → s.flt.safe = false →
    Completes (exec (.frameTick p a b) s) (fun t =>
      (t.port p).sfc = s.nextFrame p ∧ (t.port p).started = true ∧ (t.port p).phase = none ∧
      (∀ q : Fin 32, q ≠ p → t.port q = s.port q) ∧ t.eng = s.eng ∧ t.ldg = s.ldg ∧ t.hrl = s.hrl ∧ t.shl = s.shl))) ∧
  ((∀ (p : Fin 32) (sd : Side) (s : State), s.txOn p sd.n = false → s.shadow p = false → exec (.mapLock p sd) s = .next s) ∧
  (∀ (p : Fin 32) (sd : Side) (s : State) (l : Locked), (s.side p sd.n).locked = some l → l.sfc = s.nextFrame p →
    exec (.mapLock p sd) s = .next s) ∧
  (∀ (p : Fin 32) (sd : Side) (s : State), s.txOn p sd.n = true → (s.side p sd.n).locked = none →
    exec (.mapLock p sd) s = .next (s.lock p sd.n)))

/-- Writes of the PON line's registers: PHASE_OFFSET_WRITE (R33), DS_ENABLE_WRITE (R40), OCB_COMMIT (R62). -/
def Obligations.PonLineWrites : Prop :=
  (∀ (ag : Agent) (p : Fin 32) (v : Word) (s : State), s.reaches ag (Reg.PT_PHASE.addr p.val) = true →
    Completes (exec (.phaseOffsetWrite ag p v) s) (fun t =>
      if s.txOn p 0 = true ∨ s.txOn p 1 = true then t.bit (Reg.PT_US_STATUS.PHASE_REFUSED p.val) = true ∧ t.port p = s.port p
        ∧ t.word (Reg.PT_PHASE.addr p.val) = s.word (Reg.PT_PHASE.addr p.val)
      else (t.port p).phase = some (t.rd (Reg.PT_PHASE.OFFSET p.val)) ∧ (t.port p).sfc = (s.port p).sfc)) ∧
  (∀ (ag : Agent) (p : Fin 32) (v : Word) (s : State), s.reaches ag (Reg.PT_DS_CFG.addr p.val) = true →
    Completes (exec (.dsEnableWrite ag p v) s) (fun t => ∀ sd, sd < 2 → t.sideEn p sd = false → (t.side p sd).sending = false ∧ t.txOn p sd = false)) ∧
  (∀ (ag : Agent) (p : Fin 32) (sd : Side) (v : Word) (s : State),
    s.reaches ag (if sd.n = 0 then Reg.PT_OCB_HI.addr p.val else Reg.PT_PID_HI.addr p.val) = true →
    Completes (exec (.ocbCommit ag p sd v) s) (fun t =>
      (t.side p sd.n).commit = (if sd.n = 0 then t.rd (Reg.PT_OCB_HI.OC p.val) * 2 ^ 32 + t.rd (Reg.PT_OCB_LO.OC p.val)
        else t.rd (Reg.PT_PID_HI.PID p.val) * 2 ^ 32 + t.rd (Reg.PT_PID_LO.PID p.val)) ∧
      (t.side p sd.n).body = (s.side p sd.n).body))

/-- Downstream alignment (R41 to R44): a PSync match opens a tracker, a fifth is counted and ignored, one whose header does not decode is false; a
matching next superframe enters SYNC; in SYNC a first bad header is borne and a second in a row loses synchronization and reports it; mode 0 stops
the aligner. -/
def Obligations.AlignmentStates : Prop :=
  (∀ (p : Fin 32) (sd : Side) (pos : Nat) (v : BitVec 51) (s : State), s.rd (alnState p sd.n) < 2 → (s.side p sd.n).trackers.length < 4 →
    Completes (exec (.psyncMatch p sd pos (some v)) s) (fun t => t.rd (alnState p sd.n) = 1 ∧
      (t.side p sd.n).trackers = (s.side p sd.n).trackers ++ [⟨pos, v.toNat⟩])) ∧
  (∀ (p : Fin 32) (sd : Side) (pos : Nat) (x : Option (BitVec 51)) (s : State), s.rd (alnState p sd.n) < 2 →
    4 ≤ (s.side p sd.n).trackers.length → exec (.psyncMatch p sd pos x) s = .next (s.inc (Cnt.PT_PSYNC_OVERFLOW p.val sd.n))) ∧
  (∀ (p : Fin 32) (sd : Side) (pos : Nat) (s : State), s.rd (alnState p sd.n) < 2 → (s.side p sd.n).trackers.length < 4 →
    exec (.psyncMatch p sd pos none) s = .next (s.inc (Cnt.PT_PSYNC_FALSE p.val sd.n))) ∧
  (∀ (p : Fin 32) (sd : Side) (pos errs : Nat) (v : BitVec 51) (r : List Tracker) (k : Nat) (s : State), s.rd (alnState p sd.n) = 1 →
    (s.side p sd.n).trackers = ⟨pos, k⟩ :: r → errs ≤ s.syncTol p → v.toNat = (k + 1) % 2 ^ 51 →
    Completes (exec (.trackerCheck p sd pos errs (some v)) s) (fun t => t.rd (alnState p sd.n) = 2 ∧
      (t.side p sd.n).trackers = [] ∧ (t.side p sd.n).expSfc = (k + 2) % 2 ^ 51)) ∧
  (∀ (p : Fin 32) (sd : Side) (pos errs : Nat) (x : Option (BitVec 51)) (k : Nat) (s : State), s.rd (alnState p sd.n) = 1 →
    (s.side p sd.n).trackers = [⟨pos, k⟩] → s.syncTol p < errs →
    Completes (exec (.trackerCheck p sd pos errs x) s) (fun t => t.rd (alnState p sd.n) = 0 ∧ (t.side p sd.n).trackers = [])) ∧
  (∀ (p : Fin 32) (sd : Side) (errs : Nat) (v : BitVec 51) (d : Int) (s : State), s.rd (alnState p sd.n) = 2 → errs ≤ s.syncTol p →
    v.toNat = (s.side p sd.n).expSfc →
    Completes (exec (.syncPsbdCheck p sd errs (some v) d) s) (fun t => t.words = s.words ∧ (t.side p sd.n).miss = 0 ∧
      (t.side p sd.n).expSfc = ((s.side p sd.n).expSfc + 1) % 2 ^ 51)) ∧
  (∀ (p : Fin 32) (sd : Side) (errs : Nat) (x : Option (BitVec 51)) (d : Int) (s : State), s.rd (alnState p sd.n) = 2 →
    s.syncTol p < errs → Completes (exec (.syncPsbdCheck p sd errs x d) s) (fun t =>
      if (s.side p sd.n).miss = 0 then t.words = s.words ∧ (t.side p sd.n).miss = 1
      else t.rd (alnState p sd.n) = 0 ∧ t.bit (alnLost p sd.n) = true ∧ (t.side p sd.n).miss = 0)) ∧
  (∀ (ag : Agent) (p : Fin 32) (v : Word) (s : State), s.reaches ag (Reg.PT_ALN_CFG.addr p.val) = true →
    Completes (exec (.alignModeWrite ag p v) s) (fun t => ∀ sd, sd < 2 → t.rd (alnMode p sd) = 0 → t.rd (alnState p sd) = 3))

/-- Burst reception (R50, R54 to R59, R49): the receiver starts on the next expected burst, not in safe state; the best delimiter of the window is
taken and nothing searches again after one; the receiver is pulsed once at a burst's end, found or missed; unscheduled light of 50 ns or more,
outside every granted span and quiet window, is counted and reported. -/
def Obligations.BurstReception : Prop :=
  (∀ (p : Fin 32) (sd : Side) (s : State), s.flt.safe = true → exec (.burstStart p sd) s = .next s) ∧
  (∀ (p : Fin 32) (sd : Side) (e : Exp) (r : List Exp) (s : State), s.flt.safe = false → (s.side p sd.n).rxq = e :: r →
    Completes (exec (.burstStart p sd) s) (fun t => (t.side p sd.n).rxq = r ∧
      (t.side p sd.n).cur = (if e.burst.ordinary then some e else none) ∧ (t.side p sd.n).found = none ∧ (t.side p sd.n).missed = false ∧
      (t.side p sd.n).brst = (s.side p sd.n).brst ∧
      (t.side p sd.n).rx = (if (s.side p sd.n).rx = .quiet then .quiet
        else .burst (if (s.preset p sd.n e.burst.onu).known then some e.burst.onu else none)))) ∧
  (∀ (p : Fin 32) (sd : Side) (l : List (Int × Nat)) (e : Exp) (d : Int) (s : State), (s.side p sd.n).cur = some e →
    (s.side p sd.n).found = none → (s.side p sd.n).missed = false →
    bestDelim (if (s.side p sd.n).wideAt e.sfc then wideWidth e.burst.row else e.wide) (min 8 (s.rd (Reg.PT_US_CFG.DELIM_TOL p.val))) l = some d →
    Completes (exec (.delimWindowClose p sd l) s) (fun t => (t.side p sd.n).found = some d ∧ t.ctrs = s.ctrs)) ∧
  (∀ (p : Fin 32) (sd : Side) (e : Exp) (s : State), (s.side p sd.n).cur = some e →
    (s.side p sd.n).found = none → (s.side p sd.n).missed = false →
    exec (.delimWindowClose p sd []) s = .next ((s.setSide p sd.n { s.side p sd.n with missed := true }).burstMissed p sd.n e)) ∧
  (∀ (p : Fin 32) (sd : Side) (b : BurstRx) (s : State), s.flt.safe = true ∨ (s.side p sd.n).cur = none ∨
    ((s.side p sd.n).found = none ∧ (s.side p sd.n).missed = false) → exec (.burstEnd p sd b) s = .next s) ∧
  (∀ (p : Fin 32) (sd : Side) (b : BurstRx) (e : Exp) (r : Option Nat) (s : State), s.flt.safe = false → (s.side p sd.n).cur = some e →
    (s.side p sd.n).found = none → (s.side p sd.n).missed = true → (s.side p sd.n).rx = .burst r →
    exec (.burstEnd p sd b) s = .next (s.setSide p sd.n { s.side p sd.n with rx := .frozen, brst := (s.side p sd.n).brst + 1 })) ∧
  (∀ (p : Fin 32) (sd : Side) (b : BurstRx) (e : Exp) (d : Int) (s : State), s.flt.safe = false → (s.side p sd.n).cur = some e →
    (s.side p sd.n).found = some d → Completes (exec (.burstEnd p sd b) s) (fun t =>
      (t.side p sd.n).cur = none ∧ (t.side p sd.n).found = none ∧ (t.side p sd.n).brst = (s.side p sd.n).brst + 1 ∧ t.eng = s.eng ∧
      t.ldg = s.ldg ∧ t.fwd = s.fwd ∧ t.cpg = s.cpg)) ∧
  (∀ (p : Fin 32) (sd : Side) (off : Option Int) (sn : Bool) (s : State), exec (.strayDelimiter p sd none off sn) s =
    .next ((if sn then s.inc (Cnt.ACT_SN_OUTSIDE p.val sd.n) else s).strayWindow p sd.n none off (!sn))) ∧
  (∀ (p : Fin 32) (sd : Side) (pos len : Nat) (s : State), len < 5 → exec (.strayEnergyEpisode p sd pos len) s = .next s) ∧
  (∀ (p : Fin 32) (sd : Side) (pos len : Nat) (w : RxSpan) (s : State), w ∈ (s.side p sd.n).spans →
    (w.wider (s.halfGuard p sd.n)).1 < s.sfc p * frameLen sd.n + pos + nsUnits sd.n false (10 * len) →
    s.sfc p * frameLen sd.n + pos < (w.wider (s.halfGuard p sd.n)).2 → exec (.strayEnergyEpisode p sd pos len) s = .next s) ∧
  (∀ (p : Fin 32) (sd : Side) (pos len : Nat) (s : State), 5 ≤ len → (s.side p sd.n).spans = [] →
    exec (.strayEnergyEpisode p sd pos len) s =
      .next (((s.strayRecord p (some ⟨sd.n, false, (s.side p sd.n).endedBefore sd.n (s.sfc p * frameLen sd.n + pos)⟩)).inc
        (Cnt.PT_STRAY_UNSCHED p.val sd.n)).strayRaise p sd.n (2 ^ 33 + 0x3FF * 2 ^ 16 + min len 65535)))

/-- Presets and upstream PLOAM (R49, R63, R66, R314): a preset may be invalidated through its window and by age, and never validated by a write; a
message whose MIC fails is counted and does nothing else to the queues; a good Acknowledge ends its wait. -/
def Obligations.PresetsAndUpstreamPloam : Prop :=
  (∀ (ag : Agent) (p : Fin 32) (i : Fin 512) (s : State), s.reachesWin ag p.val = true →
    Completes (exec (.presetWindowWrite ag p i false) s) (fun t =>
      t.preset p (i.val / 256) (i.val % 256) = { s.preset p (i.val / 256) (i.val % 256) with valid := false })) ∧
  (∀ (ag : Agent) (p : Fin 32) (i : Fin 512) (s : State), s.reachesWin ag p.val = true →
    (s.preset p (i.val / 256) (i.val % 256)).valid = false →
    exec (.presetWindowWrite ag p i true) s = .next (s.deny ag .refused i.val p.val)) ∧
  (∀ (p : Fin 32) (sd : Side) (k : Fin 256) (s : State), Completes (exec (.presetAgeExpiry p sd k) s) (fun t =>
    t.preset p sd.n k.val = { s.preset p sd.n k.val with valid := false } ∧ t.words = s.words ∧ t.act = s.act)) ∧
  (∀ (p : Fin 32) (sd : Side) (o : Fin 256) (omci : Bool) (m : List Byte) (c : BitVec 64) (a : Option (Fin 256)) (s : State),
    s.shadow p = true → exec (.upstreamPloamRx p sd o omci m c a) s = .next s) ∧
  (∀ (p : Fin 32) (sd : Side) (o : Fin 256) (omci : Bool) (m : List Byte) (c : BitVec 64) (a : Option (Fin 256)) (s : State),
    s.shadow p = false → s.mic p o.val (if omci then 1 else 0) true m ≠ c.toNat →
    Completes (exec (.upstreamPloamRx p sd o omci m c a) s) (fun t => t.act = s.act ∧ t.twn = s.twn)) ∧
  (∀ (p : Fin 32) (sd : Side) (o q : Fin 256) (omci : Bool) (m : List Byte) (c : BitVec 64) (s : State), s.shadow p = false →
    s.mic p o.val (if omci then 1 else 0) true m = c.toNat → exec (.upstreamPloamRx p sd o omci m c (some q)) s =
      .next ((s.micKey p o.val (if omci then 1 else 0)).ackRx p sd.n o.val q.val))

/-- Discovery (R73 to R76, R99): a side that opens no windows starts no period; one that does steps its LFSR and places one more window; the close of
a quiet span removes the window and counts clean and collided responses; the Steward answers the oldest response, or defers it while paused. -/
def Obligations.DiscoveryWindows : Prop :=
  (∀ (p : Fin 32) (sd : Side) (s : State), s.opensWindows p sd.n = false → exec (.discPeriodStart p sd) s = .next s) ∧
  (∀ (p : Fin 32) (sd : Side) (s : State), s.opensWindows p sd.n = true → Completes (exec (.discPeriodStart p sd) s) (fun t =>
    (t.disc p sd.n).lfsr = lfsrStep (s.disc p sd.n).lfsr ∧ (t.disc p sd.n).rowIx = (s.disc p sd.n).rowIx + 1 ∧
    (t.disc p sd.n).wins.length = (s.disc p sd.n).wins.length + 1 ∧ (∃ n, (t.disc p sd.n).next = some n ∧ s.nextBuild p < n) ∧
    t.words = s.words)) ∧
  (∀ (p : Fin 32) (sd : Side) (w : Nat × Nat) (r : List (Nat × Nat)) (s : State), (s.disc p sd.n).wins = w :: r → w.1 ≤ s.sfc p →
    (s.tree p).ramp = false →
    Completes (exec (.quietSpanClose p sd []) s) (fun t => (t.disc p sd.n).wins = r ∧
      (t.disc p sd.n).silent = (s.disc p sd.n).silent + 1 ∧ (t.tree p).clean = (s.tree p).clean)) ∧
  (∀ (p : Fin 32) (s : State), (s.tree p).clean = [] → exec (.snResponse p) s = .next s) ∧
  (∀ (p : Fin 32) (r : CleanResp) (l : List CleanResp) (s : State), (s.tree p).clean = r :: l → s.stw.paused = true →
    Completes (exec (.snResponse p) s) (fun t => (t.tree p).clean = l ∧
      t.ctr (Cnt.ACT_SN_DEFERRED p.val r.side) = (s.ctr (Cnt.ACT_SN_DEFERRED p.val r.side)).add 1)) ∧
  (∀ (p q : Fin 32) (r : CleanResp) (l : List CleanResp) (i : Nat) (s : State), (s.tree p).clean = r :: l → s.stw.paused = false →
    s.owned p.val = true → s.boundElsewhere p r.sn = some (q.val, i) →
    exec (.snResponse p) s = .next (((s.setTreeSt p { s.tree p with clean := l }).inc (Cnt.ACT_SN_DUP p.val r.side)).raise .DUP_SERIAL
      (srcPt p) (onuAddr p r.side i q.val)))

/-- Ranging (R56, R85 to R87, R93, R349): a shadow takes no action; the offset of a response within its window gives RTD and EqD and takes the slot
to RANGED, one outside it is no response; with none the grant is due again, until the tries are spent: an ASSIGNED slot is then freed and an ACTIVE
one is LOST. -/
def Obligations.RangingOutcome : Prop :=
  (∀ (p : Fin 32) (k : Fin 256) (d : Int) (s : State), (s.slot p k.val).range ≠ .placed →
    exec (.rangingResponse p k d) s = .next s ∧ exec (.rangingNoResponse p k) s = .next s) ∧
  (∀ (p : Fin 32) (k : Fin 256) (d : Int) (e : Exp) (s : State), s.rngOf p (s.slot p k.val).side k.val = some e →
    (e.wide : Int) < d ∨ d < -(e.wide : Int) → exec (.rangingResponse p k d) s = .next s) ∧
  (∀ (p : Fin 32) (k : Fin 256) (d : Int) (e : Exp) (s : State), s.rngOf p (s.slot p k.val).side k.val = some e →
    -(e.wide : Int) ≤ d → d ≤ e.wide → (s.slot p k.val).range = .placed → s.owned p.val = true → (s.slot p k.val).state = .assigned →
    exec (.rangingResponse p k d) s = .next ((((s.takeRng p (s.slot p k.val).side k.val).setSlot p k.val
      { s.slot p k.val with
          state := .ranged
          range := .none
          tries := 1
          eqd := s.teqdBits p (s.slot p k.val).side (s.onuRow p (s.slot p k.val).side k.val) - ((s.slot p k.val).rtdc + d)
          rtdc := (s.slot p k.val).rtdc + d }).inc
      (Cnt.ACT_RANGE_OK p.val (s.slot p k.val).side)).sendRangingTime p (s.slot p k.val).side k.val
        (s.teqdBits p (s.slot p k.val).side (s.onuRow p (s.slot p k.val).side k.val) - ((s.slot p k.val).rtdc + d)))) ∧
  (∀ (p : Fin 32) (k : Fin 256) (d : Int) (e : Exp) (s : State), s.rngOf p (s.slot p k.val).side k.val = some e →
    -(e.wide : Int) ≤ d → d ≤ e.wide → (s.slot p k.val).range = .placed → s.owned p.val = true → (s.slot p k.val).state = .active →
    Completes (exec (.rangingResponse p k d) s) (fun t => (t.slot p k.val).hold = true ∧
      (t.slot p k.val).newEqd = some ((s.slot p k.val).eqd - d) ∧ (t.slot p k.val).state = .active ∧ (t.slot p k.val).range = .none)) ∧
  (∀ (p : Fin 32) (k : Fin 256) (d : Int) (s : State), s.owned p.val = false →
    Completes (exec (.rangingResponse p k d) s) (fun t => t.act = s.act ∧ t.words = s.words) ∧
    Completes (exec (.rangingNoResponse p k) s) (fun t => t.act = s.act ∧ t.words = s.words)) ∧
  (∀ (p : Fin 32) (k : Fin 256) (s : State), (s.slot p k.val).range = .placed → s.owned p.val = true → (s.slot p k.val).tries + 1 < s.rangeTries p →
    Completes (exec (.rangingNoResponse p k) s) (fun t => (t.slot p k.val).range = .due ∧
      (t.slot p k.val).tries = (s.slot p k.val).tries + 1 ∧ (t.slot p k.val).state = (s.slot p k.val).state)) ∧
  (∀ (p : Fin 32) (k : Fin 256) (s : State), (s.slot p k.val).range = .placed → s.owned p.val = true →
    s.rangeTries p ≤ (s.slot p k.val).tries + 1 → (s.slot p k.val).state = .active → Completes (exec (.rangingNoResponse p k) s) (fun t => (t.slot p k.val).state = .lost ∧
      (t.slot p k.val).hold = false)) ∧
  (∀ (p : Fin 32) (k : Fin 256) (s : State), (s.slot p k.val).range = .placed → s.owned p.val = true →
    s.rangeTries p ≤ (s.slot p k.val).tries + 1 → (s.slot p k.val).state = .assigned → Completes (exec (.rangingNoResponse p k) s) (fun t => t.slot p k.val = Slot.free))

/-- Registration and keys of a RANGED slot (R83, R88, R89, R316): a Registration that does not match disables it, one that matches has Key_Control
queued or, with the first key in force, makes it ACTIVE; a reported key pair fills the first empty key slot; an exchange or a registration that times
out gives the slot up, and a slot LOST for the wait is freed. A shadow does none of it (R349), and what reaches a Steward that does not run waits for
it (R531). -/
def Obligations.RegistrationAndKeys : Prop :=
  (∀ (p : Fin 32) (k : Fin 256) (n : Nat) (d x : BitVec 128) (s : State), s.owned p.val = false →
    exec (.registrationRx p k n) s = .next s ∧ exec (.keyReportRx p k d x) s = .next s ∧ exec (.keyExchangeTimeout p k) s = .next s ∧
    exec (.registrationTimeout p k) s = .next s ∧ exec (.lostWaitExpiry p k) s = .next s) ∧
  (∀ (p : Fin 32) (k : Fin 256) (n : Nat) (d x : BitVec 128) (s : State), s.owned p.val = true → s.stw.paused = true →
    exec (.registrationRx p k n) s = .next (s.forSteward (.registration p.val k.val n)) ∧
    exec (.keyReportRx p k d x) s = .next (s.forSteward (.keyReport p.val k.val d.toNat x.toNat)) ∧
    exec (.keyExchangeTimeout p k) s = .next s ∧ exec (.registrationTimeout p k) s = .next s ∧ exec (.lostWaitExpiry p k) s = .next s) ∧
  (∀ (p : Fin 32) (k : Fin 256) (n : Nat) (s : State), s.stewards p = true → (s.slot p k.val).state ≠ .ranged ∨ (s.slot p k.val).regOk = true →
    exec (.registrationRx p k n) s = .next s) ∧
  (∀ (p : Fin 32) (k : Fin 256) (n : Nat) (s : State), s.stewards p = true → (s.slot p k.val).state = .ranged → (s.slot p k.val).regOk = false →
    (s.slot p k.val).keyOk = true → s.act.auth[(s.slot p k.val).authIdx]? = none →
    Completes (exec (.registrationRx p k n) s) (fun t => (t.slot p k.val).state = .active)) ∧
  (∀ (p : Fin 32) (k : Fin 256) (n : Nat) (s : State), s.stewards p = true → (s.slot p k.val).state = .ranged →
    (s.slot p k.val).regOk = false → (s.slot p k.val).keyOk = false → s.act.auth[(s.slot p k.val).authIdx]? = none →
    Completes (exec (.registrationRx p k n) s) (fun t => (t.slot p k.val).regOk = true ∧
      (t.slot p k.val).state = .ranged ∧ ∃ m, (t.plq p (s.slot p k.val).side).queue = (s.plq p (s.slot p k.val).side).queue ++ [m] ∧
        m.onu = k.val ∧ m.body = .keyControl 1 false)) ∧
  (∀ (p : Fin 32) (k : Fin 256) (n m : Nat) (a : Auth) (s : State), s.stewards p = true → (s.slot p k.val).state = .ranged → (s.slot p k.val).regOk = false →
    s.act.auth[(s.slot p k.val).authIdx]? = some a → a.regId = some m → m ≠ n →
    exec (.registrationRx p k n) s = .next ((s.disableSlot p k.val).raise .UNAUTH_ONU (srcPt p) (onuAddr p (s.slot p k.val).side k.val 1))) ∧
  (∀ (p : Fin 32) (k : Fin 256) (d x : BitVec 128) (s : State), s.stewards p = true → s.bit Reg.KEY_STATUS.ERASED = false →
    (s.slot p k.val).state = .ranged → (s.root (rootOf (slotKey p k.val) 0)).state = .empty →
    (s.root (rootOf (slotKey p k.val) 0)).pend = none → (s.root (rootOf (slotKey p k.val) 1)).pend = none →
    Completes (exec (.keyReportRx p k d x) s) (fun t => (t.root (rootOf (slotKey p k.val) 0)).state = .loaded ∧
      (t.root (rootOf (slotKey p k.val) 0)).dk = d.toNat ∧ (t.root (rootOf (slotKey p k.val) 0)).sk = x.toNat ∧
      (t.root (rootOf (slotKey p k.val) 0)).pend = some (s.nextActivation p) ∧ (t.slot p k.val).keyWait = none)) ∧
  (∀ (p : Fin 32) (k : Fin 256) (d x : BitVec 128) (f : Nat) (s : State), s.stewards p = true → (s.root (rootOf (slotKey p k.val) 0)).pend = some f ∨
    (s.root (rootOf (slotKey p k.val) 1)).pend = some f → exec (.keyReportRx p k d x) s = .next s) ∧
  (∀ (p : Fin 32) (k : Fin 256) (s : State), (s.slot p k.val).keyWait = none → exec (.keyExchangeTimeout p k) s = .next s) ∧
  (∀ (p : Fin 32) (k : Fin 256) (f : Nat) (s : State), s.stewards p = true → (s.slot p k.val).keyWait = some f →
    exec (.keyExchangeTimeout p k) s = .next (if f + s.ackWait p * (s.ackTries p + 1) ≤ s.sfc p then s.dropRanged p k.val else s)) ∧
  (∀ (p : Fin 32) (k : Fin 256) (s : State), s.stewards p = true → (s.slot p k.val).state = .ranged → (s.slot p k.val).regOk = false →
    exec (.registrationTimeout p k) s = .next (if (s.slot p k.val).tries < s.ackTries p then
      (s.setSlot p k.val { s.slot p k.val with tries := (s.slot p k.val).tries + 1 }).queuePloam p (s.slot p k.val).side k.val .requestRegistration
      else s.dropRanged p k.val)) ∧
  (∀ (p : Fin 32) (k : Fin 256) (s : State), s.stewards p = true → (s.slot p k.val).state = .lost → Completes (exec (.lostWaitExpiry p k) s) (fun t =>
    t.slot p k.val = Slot.free)) ∧
  (∀ (p : Fin 32) (k : Fin 256) (s : State), (s.slot p k.val).state ≠ .lost → exec (.lostWaitExpiry p k) s = .next s)

/-- Activation commands and timers (R66, R68, R71, R99, R102): the host's five commands act at once, or wait while the Steward is paused; a wait of
an Acknowledge that ends queues its message again; TEQD and the reach are held to their rules. -/
def Obligations.ActivationCommands : Prop :=
  (∀ (ag : Agent) (p : Fin 32) (k : Fin 256) (s : State), s.reaches ag (Reg.PT_ACT_CMD.addr p.val) = true → (s.tree p).cmd = none →
    s.stw.paused = false → s.owned p.val = true →
    exec (.rampStart ag p) s = .next ((s.hostTlp false ag (Reg.PT_ACT_CMD.addr p.val)).enterRamp p) ∧
    Completes (exec (.rampStop ag p) s) (fun t => (t.tree p).ramp = false) ∧
    Completes (exec (.deactivate ag p k) s) (fun t => (t.slot p k.val).state.inService = false) ∧
    Completes (exec (.enable ag p k) s) (fun t => (t.slot p k.val).state ≠ .disabled) ∧
    exec (.disable ag p k) s = .next ((s.hostTlp false ag (Reg.PT_ACT_CMD.addr p.val)).actCmd p 5 k.val)) ∧
  (∀ (ag : Agent) (p : Fin 32) (k : Fin 256) (s : State), s.reaches ag (Reg.PT_ACT_CMD.addr p.val) = true → (s.tree p).cmd = none →
    s.stw.paused = true →
    Completes (exec (.deactivate ag p k) s) (fun t => (t.tree p).cmd = some (3, k.val) ∧ t.slot p k.val = s.slot p k.val)) ∧
  (∀ (p : Fin 32) (s : State), (s.tree p).ramp = true → s.owned p.val = true → Completes (exec (.rampTimeout p) s) (fun t => (t.tree p).ramp = false)) ∧
  (∀ (p : Fin 32) (s : State), (s.tree p).ramp = false ∨ s.owned p.val = false → exec (.rampTimeout p) s = .next s) ∧
  (∀ (p : Fin 32) (sd : Side) (s : State), s.bit (Reg.PT_TRACK_CFG.ROGUE_EN p.val) = false ∨ s.stw.paused = true ∨
    (s.tree p).severe ≠ some sd.n →
    exec (.rogueHuntStart p sd) s = .next s) ∧
  (∀ (p : Fin 32) (sd : Side) (s : State), s.bit (Reg.PT_TRACK_CFG.ROGUE_EN p.val) = true → s.straySevere p = true →
    (s.tree p).severe = some sd.n → (s.tree p).hunt = none → (s.tree p).huntDone = [] → s.stw.paused = false → s.owned p.val = true → (s.tree p).strays = [] →
    exec (.rogueHuntStart p sd) s = .next (s.huntNext p ⟨sd.n, false, false, [], none, none, false, 0⟩)) ∧
  (∀ (p : Fin 32) (s : State), (s.tree p).hunt = none → exec (.rogueWatchEnd p) s = .next s) ∧
  (∀ (p : Fin 32) (h : Hunt) (c sn k : Nat) (s : State), (s.tree p).hunt = some h → h.test = some (c, sn) → h.sentAt = some k →
    k + 17 ≤ s.sfc p → h.stray = false → (s.slot p c).state = .disabled →
    Completes (exec (.rogueWatchEnd p) s) (fun t => (t.tree p).hunt = none ∧ (t.tree p).huntDone = h.side :: (s.tree p).huntDone)) ∧
  (∀ (p : Fin 32) (sd : Side) (w : AckWait) (r : List AckWait) (s : State), s.owned p.val = true → (s.plq p sd.n).waits = w :: r →
    w.frame + s.ackWait p ≤ s.sfc p → w.msg.retry < s.ackTries p →
    Completes (exec (.ploamAckTimeout p sd) s) (fun t => (t.plq p sd.n).waits = r ∧
      (t.plq p sd.n).queue = (s.plq p sd.n).queue ++ [{ w.msg with retry := w.msg.retry + 1 }])) ∧
  (∀ (p : Fin 32) (sd : Side) (s : State), (s.plq p sd.n).waits = [] ∨ s.owned p.val = false → exec (.ploamAckTimeout p sd) s = .next s) ∧
  (∀ (ag : Agent) (p : Fin 32) (v : Word) (s : State), s.reaches ag (Reg.PT_TEQD.addr p.val) = true →
    Completes (exec (.teqdWrite ag p v) s) (fun t => if (List.range 256).any (fun i => (s.slot p i).state.inService) = true then
      t.bit (Reg.PT_ACT_STATUS.TEQD_REFUSED p.val) = true ∧ t.word (Reg.PT_TEQD.addr p.val) = s.word (Reg.PT_TEQD.addr p.val)
      else t = (((s.hostTlp false ag (Reg.PT_TEQD.addr p.val)).storeWord ag (Reg.PT_TEQD.addr p.val) v).mirror 6 p 0xFF 0x200).rampCheck p)) ∧
  (∀ (ag : Agent) (p : Fin 32) (v : Word) (s : State), s.reaches ag (Reg.PT_REACH.addr p.val) = true →
    Completes (exec (.reachWrite ag p v) s) (fun t => t.rd (Reg.PT_REACH.MIN_KM p.val) = fldOf v (Reg.PT_REACH.MIN_KM p.val) ∧
      if 60 < fldOf v (Reg.PT_REACH.MAX_KM p.val) ∨ fldOf v (Reg.PT_REACH.MIN_KM p.val) + 40 < fldOf v (Reg.PT_REACH.MAX_KM p.val) then
        t.rd (Reg.PT_REACH.MAX_KM p.val) = min 60 (fldOf v (Reg.PT_REACH.MIN_KM p.val) + 40) ∧ t.bit (Reg.PT_ACT_STATUS.REACH_CLAMPED p.val) = true
      else t.rd (Reg.PT_REACH.MAX_KM p.val) = fldOf v (Reg.PT_REACH.MAX_KM p.val) ∧ t.bit (Reg.PT_ACT_STATUS.REACH_CLAMPED p.val) = false))

/-- MAP_BUILD_START, ASSAYER_CHECK and MAP_RELEASE (R113, R124, R135, R25, R27): a build takes CAP from the sustained rate and stands last among the
builds, not yet checked; the Assayer stores its two times; a released map enters its side's buffer. In safe state no map is built (Table 14-9). -/
def Obligations.MapPipeline : Prop :=
  (∀ s : State, s.flt.safe = true → exec .mapBuildStart s = .next s) ∧
  (∀ s : State, s.flt.safe = false → Completes (exec .mapBuildStart s) (fun t =>
    t.rd Reg.WHF_CAP_STATUS.CAP = s.capOf (s.rd Reg.WHF_CORE_RATE.SUSTAIN) % 2 ^ Reg.WHF_CAP_STATUS.CAP.w ∧
    ∃ b, t.whf.builds = s.whf.builds.drop (s.whf.builds.length - 4) ++ [b] ∧ b.done = [] ∧ b.released = [] ∧
      b.cap = s.capOf (s.rd Reg.WHF_CORE_RATE.SUSTAIN))) ∧
  (∀ (x y : BitVec 16) (l : List (Fin 32 × Side)) (s : State), s.whf.builds.all (fun b => b.checked) = true →
    exec (.assayerCheck x y l) s = .next s) ∧
  (∀ (x y : BitVec 16) (l : List (Fin 32 × Side)) (s : State), s.whf.builds.any (fun b => !b.checked) = true →
    Completes (exec (.assayerCheck x y l) s) (fun t => t.rd Reg.WHF_STATUS.LAST_BUILD = x.toNat ∧ t.rd Reg.WHF_STATUS.LAST_ASSAY = y.toNat)) ∧
  (∀ (p : Fin 32) (sd : Side) (b : Build) (r : List Build) (s : State), s.whf.builds = b :: r → b.done.contains (p.val * 2 + sd.n) = true →
    b.has (p.val * 2 + sd.n) = true → b.released = [] →
    Completes (exec (.mapRelease p sd) s) (fun t =>
      if (∃ f, (s.side p sd.n).lastLock = some f ∧ (b.map (p.val * 2 + sd.n)).sfc ≤ f) then t.pon = s.pon
      else (t.side p sd.n).buf = (s.side p sd.n).buf ++ [b.map (p.val * 2 + sd.n)]))

/-- ALLOC_WRITE, FSI_PAGE_WRITE, BDEACT_UNLOCK and WHF_ALG_WRITE (R110, R111, R131, R136, R529), where the access reaches the table or register: the
entry or word is stored, PKT_EST at least 72; a write R110, R111 or R131 refuses is a denied access. -/
def Obligations.WharfTableWrites : Prop :=
  (∀ (ag : Agent) (p : Fin 32) (i : Fin 1024) (w0 w1 w2 w3 w4 : Word) (s : State), s.reachesWin ag wWhf = true →
    Completes (exec (.allocWrite ag p i w0 w1 w2 w3 w4) s) (fun t =>
      if s.allocRefused p i.val [w0, w1, w2, w3, w4] = true then t = s.deny ag .refused (allocIx p i.val) wWhf
      else 72 ≤ t.rd (Win.ALLOC_PKT_EST (allocIx p i.val)) ∧ t.word (winKey wWhf (allocIx p i.val) 0) = w0 &&& 0xFF3FFFFF#32
        ∧ t.word (winKey wWhf (allocIx p i.val) 1) = w1 &&& 0x000FFFFF#32)) ∧
  (∀ (ag : Agent) (ix : BitVec 18) (v : Word) (s : State), s.reachesWin ag wFsi = true →
    Completes (exec (.fsiPageWrite ag ix v) s) (fun t =>
      if s.fsiRefused ix.toNat = true then t = s.deny ag .refused ix.toNat wFsi
      else t.word (winKey wFsi ix.toNat 0) = v &&& 0xFFF8FFFF#32 ∧ t.whf = s.whf)) ∧
  (∀ (ag : Agent) (v : Word) (s : State), s.reaches ag Reg.WHF_ASY_CFG.addr = true →
    exec (.bdeactUnlock ag v) s = .next ((s.hostTlp false ag Reg.WHF_ASY_CFG.addr).storeWord ag Reg.WHF_ASY_CFG.addr v)) ∧
  (∀ (ag : Agent) (v : Word) (s : State), s.reaches ag Reg.WHF_CTRL.addr = true →
    exec (.whfAlgWrite ag v) s = .next ((s.hostTlp false ag Reg.WHF_CTRL.addr).storeWord ag Reg.WHF_CTRL.addr v))

/-- Frame and position at which a handed off record's WSTART falls. -/
def Sys2Proof.ctiSpan (s : State) (tr ix st : Nat) : Int × Nat :=
  s.ctiPlace (Fin.ofNat 32 tr) (s.rd (Win.ALLOC_SIDE (allocIx (Fin.ofNat 32 tr) ix))) (s.rd (Win.ALLOC_ONU (allocIx (Fin.ofNat 32 tr) ix))) st

/-- SWAP_REQUEST, SWAP_VALIDATION_DONE and CTI_RECORD_TAKE (R132, R121, R123): a request puts the swaps of the trees named, and no others, into
validation; validation accepts, or refuses with RESULT 3; a record is queued at the frame and position of its WSTART, a late one at the next build,
or dropped, never both. -/
def Obligations.SwapAndCti : Prop :=
  (∀ (ag : Agent) (v : Word) (s : State), s.reaches ag Reg.FSI_SWAP_REQ.addr = true →
    Completes (exec (.swapRequest ag v) s) (fun t => ∀ p : Fin 32, t.swapOf p =
      if v.getLsbD p.val = true ∧ s.swapOf p = .none then .validating else s.swapOf p)) ∧
  (∀ (p : Fin 32) (s : State), s.swapOf p = .validating → Completes (exec (.swapValidationDone p) s) (fun t =>
    if s.swapReason p (1 - s.activePage p) = 0 then t.swapOf p = .accepted ∧ t.words = s.words
    else t.swapOf p = .none ∧ t.rd (Reg.FSI_SWAP_STATUS.RESULT p.val) = 3)) ∧
  (∀ (p : Fin 32) (s : State), s.swapOf p ≠ .validating → exec (.swapValidationDone p) s = .next s) ∧
  (∀ s : State, s.whf.handoffs = [] → exec .ctiRecordTake s = .next s) ∧
  (∀ (tr ix st n : Nat) (r : List (Nat × Nat × Nat × Nat)) (s : State), s.whf.handoffs = (tr, ix, st, n) :: r →
    Completes (exec .ctiRecordTake s) (fun t => t.whf.handoffs = r ∧
      if s.bit Reg.WHF_CTI_CFG.EN = true ∧ s.whf.cti.length < 4096 ∧ s.rd (Win.ALLOC_TYPE (allocIx (Fin.ofNat 32 tr) ix)) = 2 then
        t.whf.cti = s.whf.cti ++ [if (ctiSpan s tr ix st).1 < s.nextBuild (Fin.ofNat 32 tr) then ⟨tr, ix, n, s.nextBuild (Fin.ofNat 32 tr), 0, 0, false⟩
          else ⟨tr, ix, n, (ctiSpan s tr ix st).1.toNat, (ctiSpan s tr ix st).2, 0, false⟩]
      else t.whf.cti = s.whf.cti ∧ t = ({ s with whf := { s.whf with handoffs := r } } : State).inc
        (Cnt.WHF_CTI_DROPPED (Fin.ofNat 32 tr).val (s.rd (Win.ALLOC_SIDE (allocIx (Fin.ofNat 32 tr) ix))))))

/-- The ALU instructions (Table 6-4, R182): the result goes to register D, Z and N are those of the result; C and V are the carry or borrow and the
signed overflow of ADD, SUB and CMP (the sense of C is the model's, log entry 26), free values after the others; the order of the operations' codes
is the model's (log entry 26). -/
def Obligations.AluInstructions : Prop :=
  (∀ (g : Fin 64) (e : Fin 16) (c : Fin 4) (x : Ctx) (i : Insn) (s : State), ∀ (imm : Bool), s.Issues (ctxKey g.val e.val c.val) x i (if imm then 1 else 0) 0 → ∀ a b, a = x.reg i.a → b = x.op2 i imm →
    Runs (.add g e c none) s (ctxKey g.val e.val c.val) (x.wrote i ⟨a + b == 0#32, (a + b).msb, decide (2 ^ 32 ≤ a.toNat + b.toNat), (a.msb == b.msb) && ((a + b).msb != a.msb)⟩ (a + b))) ∧
  (∀ (g : Fin 64) (e : Fin 16) (c : Fin 4) (x : Ctx) (i : Insn) (s : State), ∀ (imm : Bool), s.Issues (ctxKey g.val e.val c.val) x i (if imm then 1 else 0) 1 → ∀ a b, a = x.reg i.a → b = x.op2 i imm →
    Runs (.sub g e c none) s (ctxKey g.val e.val c.val) (x.wrote i ⟨a - b == 0#32, (a - b).msb, decide (a.toNat < b.toNat), (a.msb != b.msb) && ((a - b).msb != a.msb)⟩ (a - b))) ∧
  (∀ (g : Fin 64) (e : Fin 16) (c : Fin 4) (x : Ctx) (i : Insn) (s : State), ∀ (imm : Bool), s.Issues (ctxKey g.val e.val c.val) x i (if imm then 1 else 0) 2 → ∀ a b, a = x.reg i.a → b = x.op2 i imm →
    Runs (.and g e c none) s (ctxKey g.val e.val c.val) (x.wrote i ⟨a &&& b == 0#32, (a &&& b).msb, Config.aluC 2 a b, Config.aluV 2 a b⟩ (a &&& b))) ∧
  (∀ (g : Fin 64) (e : Fin 16) (c : Fin 4) (x : Ctx) (i : Insn) (s : State), ∀ (imm : Bool), s.Issues (ctxKey g.val e.val c.val) x i (if imm then 1 else 0) 3 → ∀ a b, a = x.reg i.a → b = x.op2 i imm →
    Runs (.or g e c none) s (ctxKey g.val e.val c.val) (x.wrote i ⟨a ||| b == 0#32, (a ||| b).msb, Config.aluC 3 a b, Config.aluV 3 a b⟩ (a ||| b))) ∧
  (∀ (g : Fin 64) (e : Fin 16) (c : Fin 4) (x : Ctx) (i : Insn) (s : State), ∀ (imm : Bool), s.Issues (ctxKey g.val e.val c.val) x i (if imm then 1 else 0) 4 → ∀ a b, a = x.reg i.a → b = x.op2 i imm →
    Runs (.xor g e c none) s (ctxKey g.val e.val c.val) (x.wrote i ⟨a ^^^ b == 0#32, (a ^^^ b).msb, Config.aluC 4 a b, Config.aluV 4 a b⟩ (a ^^^ b))) ∧
  (∀ (g : Fin 64) (e : Fin 16) (c : Fin 4) (x : Ctx) (i : Insn) (s : State), ∀ (imm : Bool), s.Issues (ctxKey g.val e.val c.val) x i (if imm then 1 else 0) 8 → ∀ a b, a = x.reg i.a → b = x.op2 i imm →
    Runs (.min g e c none) s (ctxKey g.val e.val c.val) (x.wrote i ⟨(if lessWord a b then a else b) == 0#32, ((if lessWord a b then a else b)).msb, Config.aluC 8 a b, Config.aluV 8 a b⟩ ((if lessWord a b then a else b)))) ∧
  (∀ (g : Fin 64) (e : Fin 16) (c : Fin 4) (x : Ctx) (i : Insn) (s : State), ∀ (imm : Bool), s.Issues (ctxKey g.val e.val c.val) x i (if imm then 1 else 0) 9 → ∀ a b, a = x.reg i.a → b = x.op2 i imm →
    Runs (.max g e c none) s (ctxKey g.val e.val c.val) (x.wrote i ⟨(if lessWord a b then b else a) == 0#32, ((if lessWord a b then b else a)).msb, Config.aluC 9 a b, Config.aluV 9 a b⟩ ((if lessWord a b then b else a)))) ∧
  (∀ (g : Fin 64) (e : Fin 16) (c : Fin 4) (x : Ctx) (i : Insn) (s : State), ∀ (imm : Bool), s.Issues (ctxKey g.val e.val c.val) x i (if imm then 1 else 0) 10 → ∀ a b, a = x.reg i.a → b = x.op2 i imm →
    Runs (.cmp g e c none) s (ctxKey g.val e.val c.val) (({ x with flags := ⟨a - b == 0#32, (a - b).msb, decide (a.toNat < b.toNat), (a.msb != b.msb) && ((a - b).msb != a.msb)⟩ } : Ctx).after (x.pc + 1))) ∧
  (∀ (g : Fin 64) (e : Fin 16) (c : Fin 4) (x : Ctx) (i : Insn) (s : State), ∀ (imm : Bool), s.Issues (ctxKey g.val e.val c.val) x i (if imm then 1 else 0) 11 → ∀ a b, a = x.reg i.a → b = x.op2 i imm →
    Runs (.popc g e c none) s (ctxKey g.val e.val c.val) (x.wrote i ⟨BitVec.ofNat 32 (ones a) == 0#32, (BitVec.ofNat 32 (ones a)).msb, Config.aluC 11 a b, Config.aluV 11 a b⟩ (BitVec.ofNat 32 (ones a)))) ∧
  (∀ (g : Fin 64) (e : Fin 16) (c : Fin 4) (x : Ctx) (i : Insn) (s : State), s.Issues (ctxKey g.val e.val c.val) x i 1 14 → ∀ a b, a = x.reg i.a → b = BitVec.ofNat 32 i.imm →
    Runs (.movi g e c none) s (ctxKey g.val e.val c.val) (x.wrote i ⟨b == 0#32, (b).msb, Config.aluC 14 a b, Config.aluV 14 a b⟩ (b)))

/-- Shifts by less than 32 and bit fields that lie in the word (Table 6-4); what the others leave is a free value (log entry 10 names the free
values; the operations' codes and the place of a field in IMM are the model's, log entry 26). -/
def Obligations.ShiftsAndBitFields : Prop :=
  (∀ (g : Fin 64) (e : Fin 16) (c : Fin 4) (x : Ctx) (i : Insn) (s : State), ∀ (imm : Bool), s.Issues (ctxKey g.val e.val c.val) x i (if imm then 1 else 0) 5 → ∀ a b, a = x.reg i.a → b = x.op2 i imm → b.toNat < 32 →
    Runs (.shl g e c none) s (ctxKey g.val e.val c.val) (x.wrote i ⟨a <<< b.toNat == 0#32, (a <<< b.toNat).msb, Config.aluC 5 a b, Config.aluV 5 a b⟩ (a <<< b.toNat))) ∧
  (∀ (g : Fin 64) (e : Fin 16) (c : Fin 4) (x : Ctx) (i : Insn) (s : State), ∀ (imm : Bool), s.Issues (ctxKey g.val e.val c.val) x i (if imm then 1 else 0) 6 → ∀ a b, a = x.reg i.a → b = x.op2 i imm → b.toNat < 32 →
    Runs (.shr g e c none) s (ctxKey g.val e.val c.val) (x.wrote i ⟨a >>> b.toNat == 0#32, (a >>> b.toNat).msb, Config.aluC 6 a b, Config.aluV 6 a b⟩ (a >>> b.toNat))) ∧
  (∀ (g : Fin 64) (e : Fin 16) (c : Fin 4) (x : Ctx) (i : Insn) (s : State), ∀ (imm : Bool), s.Issues (ctxKey g.val e.val c.val) x i (if imm then 1 else 0) 7 → ∀ a b, a = x.reg i.a → b = x.op2 i imm → b.toNat < 32 →
    Runs (.sar g e c none) s (ctxKey g.val e.val c.val) (x.wrote i ⟨a.sshiftRight b.toNat == 0#32, (a.sshiftRight b.toNat).msb, Config.aluC 7 a b, Config.aluV 7 a b⟩ (a.sshiftRight b.toNat))) ∧
  (∀ (g : Fin 64) (e : Fin 16) (c : Fin 4) (x : Ctx) (i : Insn) (s : State), ∀ (imm : Bool), s.Issues (ctxKey g.val e.val c.val) x i (if imm then 1 else 0) 12 → ∀ a b, a = x.reg i.a → b = x.op2 i imm → fieldOpen i.imm = false →
    Runs (.bfx g e c none) s (ctxKey g.val e.val c.val) (x.wrote i ⟨BitVec.ofNat 32 (a.toNat / 2 ^ fieldPos i.imm % 2 ^ fieldWidth i.imm) == 0#32, (BitVec.ofNat 32 (a.toNat / 2 ^ fieldPos i.imm % 2 ^ fieldWidth i.imm)).msb, Config.aluC 12 a b, Config.aluV 12 a b⟩ (BitVec.ofNat 32 (a.toNat / 2 ^ fieldPos i.imm % 2 ^ fieldWidth i.imm)))) ∧
  (∀ (g : Fin 64) (e : Fin 16) (c : Fin 4) (x : Ctx) (i : Insn) (s : State), ∀ (imm : Bool), s.Issues (ctxKey g.val e.val c.val) x i (if imm then 1 else 0) 13 → ∀ a b, a = x.reg i.a → b = x.op2 i imm → fieldOpen i.imm = false →
    Runs (.bfi g e c none) s (ctxKey g.val e.val c.val) (x.wrote i ⟨((a &&& ~~~ BitVec.ofNat 32 ((2 ^ fieldWidth i.imm - 1) * 2 ^ fieldPos i.imm)) ||| ((x.reg i.b <<< fieldPos i.imm) &&& BitVec.ofNat 32 ((2 ^ fieldWidth i.imm - 1) * 2 ^ fieldPos i.imm))) == 0#32, (((a &&& ~~~ BitVec.ofNat 32 ((2 ^ fieldWidth i.imm - 1) * 2 ^ fieldPos i.imm)) ||| ((x.reg i.b <<< fieldPos i.imm) &&& BitVec.ofNat 32 ((2 ^ fieldWidth i.imm - 1) * 2 ^ fieldPos i.imm)))).msb, Config.aluC 13 a b, Config.aluV 13 a b⟩ (((a &&& ~~~ BitVec.ofNat 32 ((2 ^ fieldWidth i.imm - 1) * 2 ^ fieldPos i.imm)) ||| ((x.reg i.b <<< fieldPos i.imm) &&& BitVec.ofNat 32 ((2 ^ fieldWidth i.imm - 1) * 2 ^ fieldPos i.imm))))))

/-- Branches, jumps, calls and the simple instructions (Table 6-4, R197): taken by FLAGS, else the next instruction; the call stack holds 8 and traps
STACK when full or empty; MOVS reads the slots spent; TRAP ends the pass. -/
def Obligations.BranchesAndCalls : Prop :=
  (∀ (g : Fin 64) (e : Fin 16) (c : Fin 4) (x : Ctx) (i : Insn) (s : State), s.Issues (ctxKey g.val e.val c.val) x i 2 0 →
    Runs (.beq g e c none) s (ctxKey g.val e.val c.val) (x.after (if x.flags.z = true then i.imm else x.pc + 1))) ∧
  (∀ (g : Fin 64) (e : Fin 16) (c : Fin 4) (x : Ctx) (i : Insn) (s : State), s.Issues (ctxKey g.val e.val c.val) x i 2 1 →
    Runs (.bne g e c none) s (ctxKey g.val e.val c.val) (x.after (if x.flags.z = false then i.imm else x.pc + 1))) ∧
  (∀ (g : Fin 64) (e : Fin 16) (c : Fin 4) (x : Ctx) (i : Insn) (s : State), s.Issues (ctxKey g.val e.val c.val) x i 2 2 →
    Runs (.blt g e c none) s (ctxKey g.val e.val c.val) (x.after (if x.flags.n ≠ x.flags.v then i.imm else x.pc + 1))) ∧
  (∀ (g : Fin 64) (e : Fin 16) (c : Fin 4) (x : Ctx) (i : Insn) (s : State), s.Issues (ctxKey g.val e.val c.val) x i 2 3 →
    Runs (.bge g e c none) s (ctxKey g.val e.val c.val) (x.after (if x.flags.n = x.flags.v then i.imm else x.pc + 1))) ∧
  (∀ (g : Fin 64) (e : Fin 16) (c : Fin 4) (x : Ctx) (i : Insn) (s : State), s.Issues (ctxKey g.val e.val c.val) x i 2 4 →
    Runs (.bltu g e c none) s (ctxKey g.val e.val c.val) (x.after (if x.flags.c = true then i.imm else x.pc + 1))) ∧
  (∀ (g : Fin 64) (e : Fin 16) (c : Fin 4) (x : Ctx) (i : Insn) (s : State), s.Issues (ctxKey g.val e.val c.val) x i 2 5 →
    Runs (.bgeu g e c none) s (ctxKey g.val e.val c.val) (x.after (if x.flags.c = false then i.imm else x.pc + 1))) ∧
  (∀ (g : Fin 64) (e : Fin 16) (c : Fin 4) (x : Ctx) (i : Insn) (s : State), s.Issues (ctxKey g.val e.val c.val) x i 2 6 →
    Runs (.jmp g e c none) s (ctxKey g.val e.val c.val) (x.after i.imm)) ∧
  (∀ (g : Fin 64) (e : Fin 16) (c : Fin 4) (x : Ctx) (i : Insn) (s : State), s.Issues (ctxKey g.val e.val c.val) x i 2 7 →
    if x.calls.length < 8 then Runs (.call g e c none) s (ctxKey g.val e.val c.val) (({ x with calls := (x.pc + 1) % 2 ^ 14 :: x.calls } : Ctx).after i.imm)
    else Traps (.call g e c none) s (ctxKey g.val e.val c.val) x .stack) ∧
  (∀ (g : Fin 64) (e : Fin 16) (c : Fin 4) (x : Ctx) (i : Insn) (a : Nat) (l : List Nat) (s : State), s.Issues (ctxKey g.val e.val c.val) x i 2 8 →
    (x.calls = [] → Traps (.ret g e c none) s (ctxKey g.val e.val c.val) x .stack) ∧
    (x.calls = a :: l → Runs (.ret g e c none) s (ctxKey g.val e.val c.val) (({ x with calls := l } : Ctx).after a))) ∧
  (∀ (g : Fin 64) (e : Fin 16) (c : Fin 4) (x : Ctx) (i : Insn) (s : State), s.Issues (ctxKey g.val e.val c.val) x i 11 0 →
    Runs (.nop g e c none) s (ctxKey g.val e.val c.val) (x.after (x.pc + 1))) ∧
  (∀ (g : Fin 64) (e : Fin 16) (c : Fin 4) (x : Ctx) (i : Insn) (s : State), s.Issues (ctxKey g.val e.val c.val) x i 11 1 → i.imm = 3 →
    Runs (.movs g e c none) s (ctxKey g.val e.val c.val) ((x.setReg i.d (BitVec.ofNat 32 x.slots)).after (x.pc + 1))) ∧
  (∀ (g : Fin 64) (e : Fin 16) (c : Fin 4) (x : Ctx) (i : Insn) (s : State), s.Issues (ctxKey g.val e.val c.val) x i 11 2 →
    exec (.trap g e c none) s = .next ((s.spend g.val).trap (ctxKey g.val e.val c.val) x .user (i.imm % 256)))

/-- Loads, stores and atomics (R184 to R186, R192 to R194, Table 6-1): the window in network order; an undefined size, or a store to a constant,
traps ACCESS, a misaligned shared word ALIGN; stores and atomics to shared data are deferred, at most 32 of them; FADD and CAS act at once and give
the old word (the operations' codes and CAS's operands are the model's, log entry 26). -/
def Obligations.LoadsStoresAtomics : Prop :=
  (∀ (g : Fin 64) (e : Fin 16) (c : Fin 4) (x : Ctx) (i : Insn) (s : State), s.Issues (ctxKey g.val e.val c.val) x i 3 0 → i.addr x + 4 ≤ 0x140 → i.mod % 4 = 2 →
    Runs (.ld g e c none none) s (ctxKey g.val e.val c.val) ((x.setReg i.d (BitVec.ofNat 32 (beNat (sliceZ x.win (i.addr x) 4)))).after (x.pc + 1))) ∧
  (∀ (g : Fin 64) (e : Fin 16) (c : Fin 4) (x : Ctx) (i : Insn) (s : State), s.Issues (ctxKey g.val e.val c.val) x i 3 0 → i.mod % 4 = 3 →
    Traps (.ld g e c none none) s (ctxKey g.val e.val c.val) x .access) ∧
  (∀ (g : Fin 64) (e : Fin 16) (c : Fin 4) (x : Ctx) (i : Insn) (s : State), s.Issues (ctxKey g.val e.val c.val) x i 3 0 → i.mod % 4 = 2 → 0x10000 ≤ i.addr x → i.addr x + 4 ≤ 0x20000 → i.addr x % 4 ≠ 0 →
    Traps (.ld g e c none none) s (ctxKey g.val e.val c.val) x .align) ∧
  (∀ (g : Fin 64) (e : Fin 16) (c : Fin 4) (x : Ctx) (i : Insn) (s : State), s.Issues (ctxKey g.val e.val c.val) x i 4 0 → i.mod % 4 = 2 → i.addr x + 4 ≤ 0x140 →
    Runs (.st g e c none) s (ctxKey g.val e.val c.val) (({ x with win := overwrite x.win (i.addr x) (beBytes 4 (x.reg i.b).toNat) } : Ctx).after (x.pc + 1))) ∧
  (∀ (g : Fin 64) (e : Fin 16) (c : Fin 4) (x : Ctx) (i : Insn) (s : State), s.Issues (ctxKey g.val e.val c.val) x i 4 0 → i.mod % 4 = 2 → 0x20000 ≤ i.addr x →
    Traps (.st g e c none) s (ctxKey g.val e.val c.val) x .access) ∧
  (∀ (g : Fin 64) (e : Fin 16) (c : Fin 4) (x : Ctx) (i : Insn) (s : State), s.Issues (ctxKey g.val e.val c.val) x i 4 0 → i.mod % 4 = 2 → 0x10000 ≤ i.addr x → i.addr x + 4 ≤ 0x20000 → i.addr x % 4 = 0 →
    if x.eff.length < 32 then Runs (.st g e c none) s (ctxKey g.val e.val c.val) (({ x with eff := x.eff ++ [.store (i.addr x - 0x10000) 4 (x.reg i.b).toNat] } : Ctx).after (x.pc + 1))
    else Traps (.st g e c none) s (ctxKey g.val e.val c.val) x .commitFull) ∧
  (∀ (g : Fin 64) (e : Fin 16) (c : Fin 4) (x : Ctx) (i : Insn) (s : State), s.Issues (ctxKey g.val e.val c.val) x i 5 0 → 0x10000 ≤ i.addr x → i.addr x + 4 ≤ 0x20000 → i.addr x % 4 = 0 →
    if x.eff.length < 32 then Runs (.dadd g e c none) s (ctxKey g.val e.val c.val) (({ x with eff := x.eff ++ [.dadd (i.addr x - 0x10000) (x.reg i.b).toNat] } : Ctx).after (x.pc + 1))
    else Traps (.dadd g e c none) s (ctxKey g.val e.val c.val) x .commitFull) ∧
  (∀ (g : Fin 64) (e : Fin 16) (c : Fin 4) (x : Ctx) (i : Insn) (s : State), s.Issues (ctxKey g.val e.val c.val) x i 5 1 → 0x10000 ≤ i.addr x → i.addr x + 4 ≤ 0x20000 → i.addr x % 4 = 0 →
    if x.eff.length < 32 then Runs (.dor g e c none) s (ctxKey g.val e.val c.val) (({ x with eff := x.eff ++ [.dor (i.addr x - 0x10000) (x.reg i.b).toNat] } : Ctx).after (x.pc + 1))
    else Traps (.dor g e c none) s (ctxKey g.val e.val c.val) x .commitFull) ∧
  (∀ (g : Fin 64) (e : Fin 16) (c : Fin 4) (x : Ctx) (i : Insn) (s : State), s.Issues (ctxKey g.val e.val c.val) x i 5 2 → 0x10000 ≤ i.addr x → i.addr x + 4 ≤ 0x20000 → i.addr x % 4 = 0 →
    if x.eff.length < 32 then Runs (.dinc g e c none) s (ctxKey g.val e.val c.val) (({ x with eff := x.eff ++ [.dinc (i.addr x - 0x10000)] } : Ctx).after (x.pc + 1))
    else Traps (.dinc g e c none) s (ctxKey g.val e.val c.val) x .commitFull) ∧
  (∀ (g : Fin 64) (e : Fin 16) (c : Fin 4) (x : Ctx) (i : Insn) (s : State), s.Issues (ctxKey g.val e.val c.val) x i 5 3 → 0x10000 ≤ i.addr x → i.addr x + 4 ≤ 0x20000 → i.addr x % 4 = 0 → x.test = false → ∀ old, old = s.sharedWord g.val (i.addr x - 0x10000) →
    Runs (.fadd g e c none) s (ctxKey g.val e.val c.val) ((x.setReg i.d (BitVec.ofNat 32 old)).after (x.pc + 1)) ∧
    Completes (exec (.fadd g e c none) s) (fun t => t.sharedWord g.val (i.addr x - 0x10000) = ((old + (x.reg i.b).toNat) % 2 ^ 32) % 2 ^ 32)) ∧
  (∀ (g : Fin 64) (e : Fin 16) (c : Fin 4) (x : Ctx) (i : Insn) (s : State), s.Issues (ctxKey g.val e.val c.val) x i 5 4 → 0x10000 ≤ i.addr x → i.addr x + 4 ≤ 0x20000 → i.addr x % 4 = 0 → x.test = false → ∀ old, old = s.sharedWord g.val (i.addr x - 0x10000) →
    Runs (.cas g e c none) s (ctxKey g.val e.val c.val) ((x.setReg i.d (BitVec.ofNat 32 old)).after (x.pc + 1)) ∧
    Completes (exec (.cas g e c none) s) (fun t => t.sharedWord g.val (i.addr x - 0x10000) = (if old = (x.reg i.d).toNat then (x.reg i.b).toNat else old) % 2 ^ 32))

/-- The parse assist, keys and lookups (R165, R166, R187 to R190): the parser steps over a header or skips, and gives up past 12 headers or 256
bytes; keys are built of window bytes and registers, to at most 80 bytes (log entry 27); a lookup occupies its slot, the 17th traps, and WAIT holds
the context while its slot is out (codes of operations: log entry 26). -/
def Obligations.ParseKeysLookups : Prop :=
  (∀ (g : Fin 64) (e : Fin 16) (c : Fin 4) (x : Ctx) (i : Insn) (s : State), s.Issues (ctxKey g.val e.val c.val) x i 6 0 → x.parse.lc < 12 → ∀ h, header x.win x.parse.hp x.parse.ht = some h → x.parse.hp + h.len ≤ 256 → h.bad = false → h.claim = none →
    Runs (.parseNext g e c none) s (ctxKey g.val e.val c.val) (({ x with parse := { x.parse with hp := x.parse.hp + h.len, ht := h.next, lc := x.parse.lc + 1 } } : Ctx).after (x.pc + 1))) ∧
  (∀ (g : Fin 64) (e : Fin 16) (c : Fin 4) (x : Ctx) (i : Insn) (s : State), s.Issues (ctxKey g.val e.val c.val) x i 6 0 → 12 ≤ x.parse.lc →
    exec (.parseNext g e c none) s = .next ((s.spend g.val).endException (ctxKey g.val e.val c.val) x 1) ∧
    (∀ j, s.Issues (ctxKey g.val e.val c.val) x j 6 1 → exec (.parseSkip g e c none) s = .next ((s.spend g.val).endException (ctxKey g.val e.val c.val) x 1))) ∧
  (∀ (g : Fin 64) (e : Fin 16) (c : Fin 4) (x : Ctx) (i : Insn) (s : State), s.Issues (ctxKey g.val e.val c.val) x i 6 1 → x.parse.lc < 12 → x.parse.hp + i.imm % 512 ≤ 256 →
    Runs (.parseSkip g e c none) s (ctxKey g.val e.val c.val) (({ x with parse := { x.parse with hp := x.parse.hp + i.imm % 512, ht := x.parse.set.getD 0xFF, set := none, lc := x.parse.lc + 1 } } : Ctx).after (x.pc + 1))) ∧
  (∀ (g : Fin 64) (e : Fin 16) (c : Fin 4) (x : Ctx) (i : Insn) (s : State), s.Issues (ctxKey g.val e.val c.val) x i 6 2 →
    Runs (.parseSetht g e c none) s (ctxKey g.val e.val c.val) (({ x with parse := { x.parse with set := some (i.imm % 256) } } : Ctx).after (x.pc + 1))) ∧
  (∀ (g : Fin 64) (e : Fin 16) (c : Fin 4) (x : Ctx) (i : Insn) (s : State), s.Issues (ctxKey g.val e.val c.val) x i 7 0 →
    Completes (exec (.kclr g e c none) s) (fun t => ∃ y, t.ctxOf (ctxKey g.val e.val c.val) = some y ∧ y.kbuf (i.d % 4) = [] ∧ y.regs = x.regs ∧ y.pc = (x.pc + 1) % 2 ^ 14)) ∧
  (∀ (g : Fin 64) (e : Fin 16) (c : Fin 4) (x : Ctx) (i : Insn) (s : State), s.Issues (ctxKey g.val e.val c.val) x i 7 1 → (x.reg i.a + BitVec.ofNat 32 (i.imm / 2 ^ 16)).toNat + i.imm % 128 ≤ 0x140 →
    Completes (exec (.kcat g e c none) s) (fun t => ∃ y, t.ctxOf (ctxKey g.val e.val c.val) = some y ∧
      y.kbuf (i.d % 4) = (x.kbuf (i.d % 4) ++ sliceZ x.win (x.reg i.a + BitVec.ofNat 32 (i.imm / 2 ^ 16)).toNat (i.imm % 128)).take 80)) ∧
  (∀ (g : Fin 64) (e : Fin 16) (c : Fin 4) (x : Ctx) (i : Insn) (s : State), s.Issues (ctxKey g.val e.val c.val) x i 7 2 → i.imm % 128 = 2 →
    Completes (exec (.kreg g e c none) s) (fun t => ∃ y, t.ctxOf (ctxKey g.val e.val c.val) = some y ∧
      y.kbuf (i.d % 4) = (x.kbuf (i.d % 4) ++ beBytes 2 (x.reg i.b).toNat).take 80)) ∧
  (∀ (g : Fin 64) (e : Fin 16) (c : Fin 4) (x : Ctx) (i : Insn) (s : State), s.Issues (ctxKey g.val e.val c.val) x i 8 0 → (x.slot (i.mod % 4)).busy = false →
    if x.looks < 16 then Runs (.lookupLdg g e c none) s (ctxKey g.val e.val c.val) ((({ x with looks := x.looks + 1 } : Ctx).setSlot (i.mod % 4) (.out false (i.mod / 4 % 2 == 1) (i.imm % 32) (x.kbuf (i.d % 4)))).after (x.pc + 1))
    else Traps (.lookupLdg g e c none) s (ctxKey g.val e.val c.val) x .lookups) ∧
  (∀ (g : Fin 64) (e : Fin 16) (c : Fin 4) (x : Ctx) (i : Insn) (s : State), s.Issues (ctxKey g.val e.val c.val) x i 8 1 → (x.slot (i.mod % 4)).busy = false →
    if x.looks < 16 then Runs (.lookupExm g e c none) s (ctxKey g.val e.val c.val) ((({ x with looks := x.looks + 1 } : Ctx).setSlot (i.mod % 4) (.out true (i.mod / 4 % 2 == 1) (i.imm % 32) (x.kbuf (i.d % 4)))).after (x.pc + 1))
    else Traps (.lookupExm g e c none) s (ctxKey g.val e.val c.val) x .lookups) ∧
  (∀ (g : Fin 64) (e : Fin 16) (c : Fin 4) (x : Ctx) (i : Insn) (s : State), s.Issues (ctxKey g.val e.val c.val) x i 8 2 →
    Runs (.lookupWait g e c none) s (ctxKey g.val e.val c.val) ((if (x.slot (i.mod % 4)).busy then { x with wait := some (i.mod % 4) } else x).after (x.pc + 1)))

/-- Edits, verdict and end of a pass (R191 to R195): INS grows the window by at most 64 in all and DEL shrinks it by at most 128; the SET
instructions write the descriptor; END commits a pass that has a verdict and frees its context, and traps NO_VERDICT one that has none; HANDOFF is
deferred to the commit (codes of operations: log entry 26). -/
def Obligations.EditsVerdictEnd : Prop :=
  (∀ (g : Fin 64) (e : Fin 16) (c : Fin 4) (x : Ctx) (i : Insn) (s : State), s.Issues (ctxKey g.val e.val c.val) x i 9 0 → x.wdelta + (i.imm % 128 : Nat) ≤ 64 → (x.reg i.a).toNat ≤ x.win.length →
    Completes (exec (.ins g e c none) s) (fun t => ∃ y, t.ctxOf (ctxKey g.val e.val c.val) = some y ∧ y.win.length = x.win.length + i.imm % 128 ∧
      y.win.take (x.reg i.a).toNat = x.win.take (x.reg i.a).toNat ∧ y.wdelta = x.wdelta + (i.imm % 128 : Nat))) ∧
  (∀ (g : Fin 64) (e : Fin 16) (c : Fin 4) (x : Ctx) (i : Insn) (s : State), s.Issues (ctxKey g.val e.val c.val) x i 9 0 → 64 < x.wdelta + (i.imm % 128 : Nat) →
    Traps (.ins g e c none) s (ctxKey g.val e.val c.val) x .window) ∧
  (∀ (g : Fin 64) (e : Fin 16) (c : Fin 4) (x : Ctx) (i : Insn) (s : State), s.Issues (ctxKey g.val e.val c.val) x i 9 1 → -128 ≤ x.wdelta - (i.imm % 128 : Nat) → (x.reg i.a).toNat + i.imm % 128 ≤ x.win.length →
    Runs (.del g e c none) s (ctxKey g.val e.val c.val) (({ x with win := x.win.take (x.reg i.a).toNat ++ x.win.drop ((x.reg i.a).toNat + i.imm % 128), wdelta := x.wdelta - (i.imm % 128 : Nat) } : Ctx).after (x.pc + 1))) ∧
  (∀ (g : Fin 64) (e : Fin 16) (c : Fin 4) (x : Ctx) (i : Insn) (s : State), s.Issues (ctxKey g.val e.val c.val) x i 9 2 → (x.reg i.a).toNat + 2 ≤ x.win.length →
    Runs (.csum g e c none) s (ctxKey g.val e.val c.val) (({ x with win := overwrite x.win (x.reg i.a).toNat (beBytes 2 (csumUpdate (beNat (sliceZ x.win (x.reg i.a).toNat 2)) (x.reg i.b) (x.reg i.d))) } : Ctx).after (x.pc + 1))) ∧
  (∀ (g : Fin 64) (e : Fin 16) (c : Fin 4) (x : Ctx) (i : Insn) (s : State), s.Issues (ctxKey g.val e.val c.val) x i 10 0 →
    Runs (.setv g e c none) s (ctxKey g.val e.val c.val) (({ x with d := { x.d with verdict := i.imm % 16 }, setv := true } : Ctx).after (x.pc + 1))) ∧
  (∀ (g : Fin 64) (e : Fin 16) (c : Fin 4) (x : Ctx) (i : Insn) (s : State), s.Issues (ctxKey g.val e.val c.val) x i 10 1 →
    Runs (.setq g e c none) s (ctxKey g.val e.val c.val) (({ x with d := { x.d with queue := (x.reg i.a).toNat % 65536 } } : Ctx).after (x.pc + 1))) ∧
  (∀ (g : Fin 64) (e : Fin 16) (c : Fin 4) (x : Ctx) (i : Insn) (s : State), s.Issues (ctxKey g.val e.val c.val) x i 10 2 →
    Runs (.setb g e c none) s (ctxKey g.val e.val c.val) (({ x with d := { x.d with bucket := (x.reg i.a).toNat % 2 ^ 17 } } : Ctx).after (x.pc + 1))) ∧
  (∀ (g : Fin 64) (e : Fin 16) (c : Fin 4) (x : Ctx) (i : Insn) (s : State), s.Issues (ctxKey g.val e.val c.val) x i 10 3 →
    Runs (.setr g e c none) s (ctxKey g.val e.val c.val) (({ x with d := { x.d with repl := (x.reg i.a).toNat % 65536 } } : Ctx).after (x.pc + 1))) ∧
  (∀ (g : Fin 64) (e : Fin 16) (c : Fin 4) (x : Ctx) (i : Insn) (s : State), s.Issues (ctxKey g.val e.val c.val) x i 10 4 →
    Runs (.setm g e c none) s (ctxKey g.val e.val c.val) (({ x with d := { x.d with mirror := (x.reg i.a).toNat % 16 } } : Ctx).after (x.pc + 1))) ∧
  (∀ (g : Fin 64) (e : Fin 16) (c : Fin 4) (x : Ctx) (i : Insn) (s : State), s.Issues (ctxKey g.val e.val c.val) x i 10 5 →
    Runs (.setx g e c none) s (ctxKey g.val e.val c.val) (({ x with d := { x.d with reason := codeReason (i.imm % 256) } } : Ctx).after (x.pc + 1))) ∧
  (∀ (g : Fin 64) (e : Fin 16) (c : Fin 4) (x : Ctx) (i : Insn) (s : State), s.Issues (ctxKey g.val e.val c.val) x i 10 6 →
    Runs (.setc g e c none) s (ctxKey g.val e.val c.val) (({ x with d := if x.d.dir then x.d else { x.d with xctx := (x.reg i.a).toNat % 65536, ctxV := true } } : Ctx).after (x.pc + 1))) ∧
  (∀ (g : Fin 64) (e : Fin 16) (c : Fin 4) (x : Ctx) (i : Insn) (s : State), s.Issues (ctxKey g.val e.val c.val) x i 10 7 →
    (x.setv = false → Traps (.endPass g e c none) s (ctxKey g.val e.val c.val) x .noVerdict) ∧
    (x.setv = true → Completes (exec (.endPass g e c none) s) (fun t => t.ctxOf (ctxKey g.val e.val c.val) = none))) ∧
  (∀ (g : Fin 64) (e : Fin 16) (c : Fin 4) (x : Ctx) (i : Insn) (s : State), s.Issues (ctxKey g.val e.val c.val) x i 11 3 → x.eff.length < 32 →
    Runs (.handoff g e c none) s (ctxKey g.val e.val c.val) (({ x with eff := x.eff ++ [.handoff ((x.reg 8).toNat % 32) ((x.reg 8).toNat / 2 ^ 16 % 1024) ((x.reg 9).toNat + (x.reg 10).toNat * 2 ^ 32) ((x.reg 11).toNat % 2 ^ 24)] } : Ctx).after (x.pc + 1)))

/-- What Sorter does (R157, R161, R164): with nothing waiting a dispatch changes nothing; with no healthy guild it takes the oldest new entry and
dispatches nothing; a timeout skips a packet only while a later one of its context is complete, and counts it. -/
def Obligations.SorterOrder : Prop :=
  (∀ s : State, s.fwd.srtIn = [] → exec .sorterDispatch s = .next s) ∧
  (∀ (s : State) (d : Desc) (l : List SrtIn), s.fwd.srtIn = .new d :: l → s.anyHealthy = false →
    Completes (exec .sorterDispatch s) (fun t => t.fwd.srtIn = l ∧ t.eng = s.eng)) ∧
  (∀ (f : BitVec 16) (s : State), exec (.sorterRelease f) s = .next ((s.releaseFlow f.toNat s.fwd.flights.length).storeInFlight)) ∧
  (∀ (f : BitVec 16) (s : State), s.fwd.flights = [] → Completes (exec (.sorterRelease f) s) (fun t =>
    t.fwd = s.fwd ∧ t.rd Reg.SRT_STATUS.IN_FLIGHT = 0)) ∧
  (∀ (f : BitVec 16) (s : State), s.flightAt f.toNat (s.flow f.toNat).release = none → exec (.reorderTimeout f) s = .next s) ∧
  (∀ (f : BitVec 16) (y : Flight) (s : State), s.flightAt f.toNat (s.flow f.toNat).release = some y → y.done = true →
    exec (.reorderTimeout f) s = .next s) ∧
  (∀ (f : BitVec 16) (y : Flight) (s : State), s.flightAt f.toNat (s.flow f.toNat).release = some y → y.done = false →
    s.fwd.flights.any (fun z => z.d.flow == f.toNat && z.done) = true →
    exec (.reorderTimeout f) s = .next (((((s.modFlight y.id (fun z => { z with skipped := true })).setFlow f.toNat
      { s.flow f.toNat with release := ((s.flow f.toNat).release + 1) % 2 ^ 16 }).inc Cnt.SRT_SEQ_SKIP).raise .REORDER_SKIP srcSrt
        (f.toNat * 2 ^ 16 + (s.flow f.toNat).release)).releaseFlow f.toNat s.fwd.flights.length).storeInFlight)

/-- Windows, searches and results of a context (R184, R189, R190, R222): a load brings the first 256 bytes of the frame; a search fills its result
slot and no other command of the context; a delivered result is held and ends the wait for it; a search with nothing outstanding changes nothing; the
express path takes its oldest packet. -/
def Obligations.ContextResults : Prop :=
  (∀ (g : Fin 64) (e : Fin 16) (c : Fin 4) (s : State), s.ctxOf (ctxKey g.val e.val c.val) = none →
    exec (.windowLoadDone g e c) s = .next s ∧ (∀ m, exec (.lookupResult g e c m) s = .next s) ∧
    (∀ m u, exec (.ledgerSearch g e c m u) s = .next s) ∧ (∀ m l, exec (.exmSearch g e c m l) s = .next s)) ∧
  (∀ (g : Fin 64) (e : Fin 16) (c : Fin 4) (x : Ctx) (s : State), s.ctxOf (ctxKey g.val e.val c.val) = some x → x.loading = true →
    x.test = false → Completes (exec (.windowLoadDone g e c) s) (fun t =>
      t.ctxOf (ctxKey g.val e.val c.val) = some { x with
        loading := false
        win := (s.buf x.d.handle).bytes.take (min x.d.length 256)
        loaded := ((s.buf x.d.handle).bytes.take (min x.d.length 256)).length } ∧ t.Within (· ∈ [.eng]) s)) ∧
  (∀ (g : Fin 64) (e : Fin 16) (c m : Fin 4) (x : Ctx) (exm soft : Bool) (r : LRes) (s : State),
    s.ctxOf (ctxKey g.val e.val c.val) = some x → x.slot m.val = .found exm soft r → r.status ≠ 1 →
    Completes (exec (.lookupResult g e c m) s) (fun t => ∃ y, t.ctxOf (ctxKey g.val e.val c.val) = some y ∧ y.slot m.val = .held r ∧
      (x.wait = some m.val → y.wait = none) ∧ y.pc = x.pc ∧ y.regs = x.regs)) ∧
  (∀ (g : Fin 64) (e : Fin 16) (c m : Fin 4) (u : Option (Fin 65536)) (x : Ctx) (soft : Bool) (p : Nat) (k : List Byte) (s : State),
    s.ctxOf (ctxKey g.val e.val c.val) = some x → x.slot m.val = .out false soft p k →
    Completes (exec (.ledgerSearch g e c m u) s) (fun t => ∃ y, t.ctxOf (ctxKey g.val e.val c.val) = some y ∧
      y.slot m.val = .found false soft (s.ldgLookup p k x.d.epoch (u.map (·.val))).2)) ∧
  (∀ (g : Fin 64) (e : Fin 16) (c m : Fin 4) (l : List (Fin 532480 × Bool)) (x : Ctx) (soft : Bool) (p : Nat) (k : List Byte) (s : State),
    s.ctxOf (ctxKey g.val e.val c.val) = some x → x.slot m.val = .out true soft p k →
    Completes (exec (.exmSearch g e c m l) s) (fun t => ∃ y, t.ctxOf (ctxKey g.val e.val c.val) = some y ∧
      y.slot m.val = .found true soft (s.exmLookup p k x.d.epoch (l.map (fun y => (y.1.val, y.2)))).2)) ∧
  (∀ (u : Option (Fin 65536)) (l : List (Fin 532480 × Bool)) (s : State), s.fwd.express = [] → exec (.expressLookup u l) s = .next s) ∧
  (∀ (u : Option (Fin 65536)) (l : List (Fin 532480 × Bool)) (x : ExpIn) (r : List ExpIn) (s : State), s.fwd.express = x :: r →
    x.exm = false → ∀ q, q = ({ s with fwd := { s.fwd with express := r } } : State).ldgLookup x.prof x.key x.d.epoch (u.map (·.val)) →
    exec (.expressLookup u l) s = .next (q.1.releaseDesc (expressDesc x q.2)))

/-- A guild's states (R208, Table 6-9): DRAIN needs a validated bank, ABORT returns it to RUN, LOAD brings a retired one back, a drained guild goes
to SWITCH and a stuck one too, a switch exchanges the banks, a check that agrees lets the guild run and one that does not retires it. -/
def Obligations.GuildStates : Prop :=
  (∀ (ag : Agent) (g : Fin 64) (v : Word) (s : State), s.reaches ag (Reg.GLD_CTRL.addr g.val) = true → v.toNat % 65536 = 65535 →
    (s.guildState g.val = .run → s.rd (Reg.GLD_BANK.RESULT g.val) = 2 →
      Completes (exec (.drain ag g v) s) (fun t => t.guildState g.val = .drain)) ∧
    (s.guildState g.val = .drain → Completes (exec (.abort ag g v) s) (fun t => t.guildState g.val = .run)) ∧
    (s.guildState g.val = .off → s.rd (Reg.GLD_BANK.RESULT g.val) = 2 → s.flt.isolated .guild g.val = false →
      Completes (exec (.guildLoad ag g v) s) (fun t => t.guildState g.val = .run)) ∧
    Completes (exec (.engEnWrite ag g v) s) (fun t => (t.word (Reg.GLD_CTRL.addr g.val)).toNat % 65536 =
      if s.lockOpen (Reg.GLD_CTRL.addr g.val) = true then 65535 else (s.word (Reg.GLD_CTRL.addr g.val)).toNat % 65536)) ∧
  (∀ (g : Fin 64) (s : State), s.guildState g.val = .drain → s.guildBusy g.val = false → s.lastOfGen g.val = false →
    Completes (exec (.drainComplete g) s) (fun t => t.guildState g.val = .switch ∧ t.Within (· ∈ [.words]) s)) ∧
  (∀ (g : Fin 64) (s : State), s.guildState g.val ≠ .drain → exec (.drainComplete g) s = .next s ∧ exec (.drainStuck g) s = .next s) ∧
  (∀ (g : Fin 64) (s : State), s.guildState g.val = .drain → Completes (exec (.drainStuck g) s) (fun t => t.guildState g.val = .switch)) ∧
  (∀ (g : Fin 64) (s : State), s.guildState g.val = .switch → Completes (exec (.switchDone g) s) (fun t =>
    t.guildState g.val = (if s.bit (Reg.GLD_CTRL.CHECK_EN g.val) then .check else .run) ∧
    t.rd (Reg.GLD_STATE.ACTIVE_BANK g.val) = (1 - s.rd (Reg.GLD_STATE.ACTIVE_BANK g.val)) ∧ t.rd (Reg.GLD_BANK.RESULT g.val) = 0)) ∧
  (∀ (g : Fin 64) (b : List (List Nat × List Nat)) (s : State), s.guildState g.val ≠ .check → exec (.checkDone g b) s = .next s) ∧
  (∀ (g : Fin 64) (b : List (List Nat × List Nat)) (s : State), s.guildState g.val = .check →
    (∀ r ∈ b, ∃ m, (r.1 ++ r.2).length < 2 * (r.1 ++ r.2).count m ∧ ∀ x ∈ r.1, x = m) →
    Completes (exec (.checkDone g b) s) (fun t => t.guildState g.val = .run ∧ t.rd (Reg.GLD_GEN.GEN g.val) = (s.bankWord g.val false 1).toNat / 2 ^ 16)) ∧
  (∀ (g : Fin 64) (b : List (List Nat × List Nat)) (r : List Nat × List Nat) (x : Nat) (s : State), s.guildState g.val = .check → r ∈ b →
    x ∈ r.1 → 2 * (r.1 ++ r.2).count x ≤ (r.1 ++ r.2).length → Completes (exec (.checkDone g b) s) (fun t => t.guildState g.val = .off))

/-- Writes and validation of a standby bank, and an engine's alarms (R198, R205, R207, R183): validation is asked for, and ends with a result; its
reason is that of the first rule the segment breaks; a watchdog expires only on an engine that holds a packet. -/
def Obligations.BankValidationAndAlarms : Prop :=
  (∀ (ag : Agent) (g : Fin 64) (s : State), s.reaches ag (Reg.GLD_BANK.addr g.val) = true →
    Completes (exec (.validateBank ag g) s) (fun t => t.rd (Reg.GLD_BANK.RESULT g.val) = 1)) ∧
  (∀ (g : Fin 64) (s : State), s.rd (Reg.GLD_BANK.RESULT g.val) ≠ 1 → exec (.validateDone g) s = .next s) ∧
  (∀ (g : Fin 64) (s : State), s.rd (Reg.GLD_BANK.RESULT g.val) = 1 → Completes (exec (.validateDone g) s) (fun t =>
    match s.segmentReason g.val with
    | none => t.rd (Reg.GLD_BANK.RESULT g.val) = 2 ∧ t.flt = s.flt
    | some r => t.rd (Reg.GLD_BANK.RESULT g.val) = 3 ∧ t.rd (Reg.GLD_BANK.REASON g.val) = r % 2 ^ (Reg.GLD_BANK.REASON g.val).w)) ∧
  (∀ (ag : Agent) (g : Fin 64) (i : Fin 4097) (f : Fin 16) (l : List Word) (s : State), s.reachesWin ag (32 + g.val) = true →
    exec (.standbyBankWrite ag g i f l) s = .next (if s.gldRefused g.val then s.deny ag .refused i.val (32 + g.val)
      else s.gldStore g.val i.val f.val (l.take (16 - f.val)))) ∧
  (∀ (g : Fin 64) (e : Fin 16) (s : State), exec (.engineWdog g e) s =
    .next (if s.engineBusy g.val e.val = true ∧ s.engineUp g.val e.val = true then (s.markFailed g.val e.val).raise .ENGINE_WDOG (srcGld g.val) e.val else s)) ∧
  (∀ (g : Fin 64) (e : Fin 16) (q : Fin 4) (s : State), exec (.engineParity g e q) s =
    .next ((s.markFailed g.val e.val).raise .ENGINE_PARITY (srcGld g.val) (q.val * 16 + e.val))) ∧
  (∀ (g : Fin 64) (s : State), Completes (exec (.costWindowEnd g) s) (fun t =>
    t.rd (Reg.GLD_COST.MEAN g.val) = min 4095 ((s.guild g.val).slotSum / (s.guild g.val).packets) ∧
    (t.guild g.val).slotSum = 0 ∧ (t.guild g.val).packets = 0 ∧
    (s.rd (Reg.GLD_COST.LIMIT g.val) < min 4095 ((s.guild g.val).slotSum / (s.guild g.val).packets) → t.bit (Reg.GLD_COST.OVER g.val) = true))) ∧
  (∀ (ag : Agent) (g : Fin 64) (v : Word) (s : State),
    exec (.engEnWrite ag g v) s = .next (s.gldCtrl ag g.val v) ∧ exec (.drain ag g v) s = .next (s.gldCtrl ag g.val (withCmd v 1)) ∧
    exec (.abort ag g v) s = .next (s.gldCtrl ag g.val (withCmd v 2)) ∧ exec (.guildLoad ag g v) s = .next (s.gldCtrl ag g.val (withCmd v 3)))

/-- Update commands on entries (R225, R230, R244, R246, R251): each, on a free port, writes, moves, ends or changes exactly the entry it names, and
reports OK and the entry's index. -/
def Obligations.LedgerEntryCommands : Prop :=
  (∀ (ag : Agent) (k : Fin 2) (v : Word) (s : State), s.LdgReady ag k → cmdStaged v = false →
    cmdIndex v % widthRows (s.bankWidth (cmdIndex v / 1024)) = 0 → s.regionOf (cmdIndex v / 1024) = none →
    s.bankRetired (cmdIndex v / 1024) = false → s.row (cmdIndex v) = none →
    Completes (exec (.ldgWrite ag k v) s) (fun t => t.row (cmdIndex v) = some (s.ldgEnt k.val (s.bankWidth (cmdIndex v / 1024)) s.published) ∧
      t.LdgDone k .ok ∧ t.rd (Reg.LDG_CMD_STATUS.INDEX k.val) = cmdIndex v ∧ t.ldg.cells = s.ldg.cells ∧
      ∀ j, j ≠ cmdIndex v → t.row j = s.row j)) ∧
  (∀ (ag : Agent) (k : Fin 2) (v : Word) (h : Nat) (s : State), s.LdgReady ag k → cmdStaged v = false →
    s.bit (Reg.LDG_REGION.VALID (cmdRegion v)) = true →
    (List.range 64).any (fun b => s.regionOf b == some (cmdRegion v) && s.bankRetired b) = false →
    ∀ used e i, used = s.regionUsed (cmdRegion v) → e = s.ldgEnt k.val (s.bankWidth (s.rd (Reg.LDG_REGION.FIRST (cmdRegion v)))) s.published →
    i = insPoint used e.prio (cmdTail v) → s.insHole (s.regionSize (cmdRegion v)) i used = some h → (insMoves used i h).1 = [] →
    Completes (exec (.ldgInsert ag k v) s) (fun t => t.row (s.regionIndex (cmdRegion v) (insMoves used i h).2) = some e ∧ t.LdgDone k .ok)) ∧
  (∀ (ag : Agent) (k : Fin 2) (v : Word) (x : LEnt) (s : State), s.LdgReady ag k → cmdStaged v = false → cmdExm v = false →
    cmdIndex v % widthRows (s.bankWidth (cmdIndex v / 1024)) = 0 → s.bankRetired (cmdIndex v / 1024) = false →
    s.row (cmdIndex v) = some x → s.visible x.life s.published = true →
    Completes (exec (.delete ag k v []) s) (fun t => t.row (cmdIndex v) = (s.kill x.life s.published).map (fun l => { x with life := l }) ∧
      t.LdgDone k .ok ∧ t.ldg.cells = s.ldg.cells) ∧
    Completes (exec (.modify ag k v []) s) (fun t => t.row (cmdIndex v) = some { x with result := s.ldgQuad k.val } ∧ t.LdgDone k .ok ∧
      t.ldg.cells = s.ldg.cells)) ∧
  (∀ (ag : Agent) (k : Fin 2) (v : Word) (n i : Nat) (r : State) (s : State), s.LdgReady ag k → cmdStaged v = false →
    s.exmLen (cmdProf v) = some n →
    s.keyTaken (s.rd (Reg.LDG_PROF_W0.EXM_TABLE (cmdProf v))) (s.ldgKey k.val n) s.published = false →
    s.wayPlace (s.rd (Reg.LDG_PROF_W0.EXM_TABLE (cmdProf v))) (s.ldgKey k.val n) = (r, some i) →
    Completes (exec (.addKey ag k v []) s) (fun t => t.LdgDone k .ok ∧
      ∃ c, t.cell i = some c ∧ c.key = s.ldgKey k.val n ∧ c.life = ⟨s.published, none⟩ ∧ c.result = s.ldgQuad k.val)) ∧
  (∀ (ag : Agent) (k : Fin 2) (v : Word) (l : List (Fin 532480 × Bool)) (s : State), s.LdgReady ag k → cmdExm v = false →
    Completes (exec (.lookup ag k v none l) s) (fun t => t.ldg = s.ldg ∧ t.bit (Reg.LDG_CMD_STATUS.BUSY k.val) = false)) ∧
  (∀ (ag : Agent) (k : Fin 2) (v : Word) (s : State), s.reaches ag (Reg.LDG_CMD.addr k.val) = true →
    s.bit (Reg.LDG_CMD_STATUS.BUSY k.val) = true →
    exec (.ldgWrite ag k v) s = .next ((s.hostTlp false ag (Reg.LDG_CMD.addr k.val)).deny ag .refused (Reg.LDG_CMD.addr k.val) noWin) ∧
    exec (.delete ag k v []) s = exec (.ldgWrite ag k v) s ∧ exec (.publish ag k v) s = exec (.ldgWrite ag k v) s)

/-- Epochs (R242, R243, R247 to R249): OPEN stages the epoch after the published one, PUBLISH makes it the published one and touches no entry,
DISCARD starts its sweep and stays BUSY; the oldest draining epoch with no reference begins its retirement. -/
def Obligations.EpochCommands : Prop :=
  (∀ (ag : Agent) (k : Fin 2) (v : Word) (s : State), s.LdgReady ag k → s.staging = none → s.liveCount < 15 →
    Completes (exec (.openEpoch ag k v) s) (fun t => t.staging = some ((s.published + 1) % 16) ∧ t.published = s.published ∧ t.LdgDone k .ok ∧
      t.ldg = s.ldg)) ∧
  (∀ (ag : Agent) (k : Fin 2) (v : Word) (e : Nat) (s : State), s.LdgReady ag k → s.staging = some e →
    Completes (exec (.publish ag k v) s) (fun t => t.published = e ∧ t.staging = none ∧ t.LdgDone k .ok ∧
      t.ldg.rows = s.ldg.rows ∧ t.ldg.cells = s.ldg.cells ∧ t.oldest = s.oldest)) ∧
  (∀ (ag : Agent) (k : Fin 2) (v : Word) (e : Nat) (s : State), s.LdgReady ag k → s.staging = some e →
    Completes (exec (.discard ag k v) s) (fun t => t.staging = none ∧ t.ldg.job = some (.discard k.val e) ∧
      t.bit Reg.LDG_EPOCH.SWEEP = true ∧ t.bit (Reg.LDG_CMD_STATUS.BUSY k.val) = true)) ∧
  (∀ s : State, s.draining s.oldest = true → s.rd (Reg.LDG_EPOCH_REF.COUNT s.oldest) = 0 → s.ldg.sweep = none → s.ldg.job = none →
    Completes (exec .epochRetire s) (fun t => t.ldg.sweep = some s.oldest ∧ t.bit Reg.LDG_EPOCH.SWEEP = true ∧ t.ldg.rows = s.ldg.rows)) ∧
  (∀ s : State, s.draining s.oldest = false ∨ s.rd (Reg.LDG_EPOCH_REF.COUNT s.oldest) ≠ 0 → exec .epochRetire s = .next s) ∧
  (∀ (e : Nat) (s : State), s.ldg.sweep = some e → exec (.sweepDone false []) s = .next (s.retireDone e)) ∧
  (∀ (k e : Nat) (s : State), s.ldg.job = some (.discard k e) → exec (.sweepDone true []) s = .next (s.discardDone k e)) ∧
  (∀ (e : Fin 16) (s : State), s.draining e.val = true → s.rd Reg.LDG_EPOCH_CFG.STUCK_MS ≠ 0 → s.ldg.stuck.contains e.val = false →
    Completes (exec (.epochStuck e) s) (fun t => t.ldg.stuck = e.val :: s.ldg.stuck ∧ t.words = s.words)) ∧
  (∀ (e : Fin 16) (s : State), s.draining e.val = false → exec (.epochStuck e) s = .next s)

/-- Moves and scrubbing (R226, R229, R232, R239): each move writes the new position and empties the old one; the last one of an INSERT writes the new
entry; a row that differs is written again, one that cannot be corrected is emptied; draining moves nothing while it is off. -/
def Obligations.LedgerMovesAndScrub : Prop :=
  (∀ (j : InsJob) (m m2 : Nat × Nat) (l : List (Nat × Nat)) (s : State), s.ldg.job = some (.insert j) → j.moves = m :: m2 :: l → m.1 ≠ m.2 →
    Completes (exec .ledgerMove s) (fun t => t.row m.2 = s.row m.1 ∧ t.row m.1 = none ∧ t.ldg.job = some (.insert { j with moves := m2 :: l }) ∧
      t.ctr Cnt.LDG_MOVES = (s.ctr Cnt.LDG_MOVES).add 1)) ∧
  (∀ (j : InsJob) (m : Nat × Nat) (s : State), s.ldg.job = some (.insert j) → j.moves = [m] → s.ldg.held = none →
    Completes (exec .ledgerMove s) (fun t => t.row j.index = some j.ent ∧ t.ldg.job = none)) ∧
  (∀ s : State, s.ldg.job = none → exec .ledgerMove s = .next s) ∧
  (∀ (r : Fin 16) (s : State), s.bit Reg.LDG_CFG.RESPREAD = false ∨ s.bit (Reg.LDG_REGION.VALID r.val) = false ∨ s.inserting = true →
    exec (.respreadMove r) s = .next s) ∧
  (∀ (r : Fin 16) (m : Nat × Nat) (s : State), s.bit Reg.LDG_CFG.RESPREAD = true → s.bit (Reg.LDG_REGION.VALID r.val) = true →
    s.inserting = false → s.respread r.val = some m →
    exec (.respreadMove r) s = .next ((s.moveRow (s.regionIndex r.val m.1) (s.regionIndex r.val m.2)).inc Cnt.LDG_RESPREAD_MOVES)) ∧
  (∀ (w : Fin 65536) (a b : Bool) (s : State), s.bit Reg.LDG_CFG.SCRUB_EN = false → exec (.scrubRow w a b) s = .next s) ∧
  (∀ (w : Fin 65536) (s : State), s.bit Reg.LDG_CFG.SCRUB_EN = true → Completes (exec (.scrubRow w true false) s) (fun t =>
    t.ldg = s.ldg ∧ t.ctr Cnt.LDG_SCRUB_FIXES = (s.ctr Cnt.LDG_SCRUB_FIXES).add 1)) ∧
  (∀ (w : Fin 65536) (a : Bool) (s : State), s.bit Reg.LDG_CFG.SCRUB_EN = true → Completes (exec (.scrubRow w a true) s) (fun t =>
    t.row (w.val / widthRows (s.bankWidth (w.val / 1024)) * widthRows (s.bankWidth (w.val / 1024))) = none ∧ t.ctrs = s.ctrs)) ∧
  (∀ s : State, s.bit Reg.EXM_CFG.STASH_DRAIN = false → exec (.stashDrainPass []) s = .next s.stashHigh)

/-- UPLINK_FRAME_RX, UPLINK_FRAME_TX, PACE_WINDOW_END and US_LOSS_ONSET (R5, R6, R14, R15, R18, R21, R61): a frame on an uplink that is up enters at
the MAC and leaves the egress stage in order with its check sequence, one that the boundary FIFO runs empty in, after the first 512 bytes, being cut
and ended with an inverted one; SUSTAIN is stored after each window; the third frame without a burst sets US_LOSS of its side. -/
def Obligations.UplinkFramesPaceAndLoss : Prop :=
  (∀ (n : Fin 24) (fr : List Byte) (full : Bool) (f : Nat × Nat × Nat) (s : State), s.bit (Reg.ULK_STATUS.LINK_UP n.val) = false ∨
    s.flt.safe = true → exec (.uplinkFrameRx n fr full f) s = .next (s.ulkFec n.val f)) ∧
  (∀ (n : Fin 24) (fr : List Byte) (full : Bool) (f : Nat × Nat × Nat) (s : State), s.bit (Reg.ULK_STATUS.LINK_UP n.val) = true → s.flt.safe = false →
    16383 < fr.length → ptpEvent fr = false → Completes (exec (.uplinkFrameRx n fr full f) s) (fun t =>
      t.ctr (Cnt.XPR_PKTS_IN n.val) = (s.ctr (Cnt.XPR_PKTS_IN n.val)).add 1 ∧ t.ctr (Cnt.XPR_OVERSIZE n.val) = (s.ctr (Cnt.XPR_OVERSIZE n.val)).add 1 ∧
      t.fwd = s.fwd ∧ t.cpg = s.cpg)) ∧
  (∀ (n : Fin 24) (fr : List Byte) (full : Bool) (f : Nat × Nat × Nat) (s : State), s.bit (Reg.ULK_STATUS.LINK_UP n.val) = true → s.flt.safe = false →
    exec (.uplinkFrameRx n fr full f) s = .next (((s.ulkFec n.val f).ptpStamp false n.val fr false).intake n.val (srcUlk n.val) fr full (s.parse n.val fr none))) ∧
  (∀ (n : Fin 24) (u : Option (BitVec 14)) (c : Option (Fin 16 × BitVec 14)) (o : Bool) (s : State), s.egressOf (64 + n.val) = [] →
    exec (.uplinkFrameTx n u c o) s = .next s) ∧
  (∀ (n : Fin 24) (b : BitVec 14) (o : Bool) (x : Out) (r : List Out) (s : State), s.egressOf (64 + n.val) = x :: r →
    s.bit (Reg.ULK_STATUS.LINK_UP n.val) = true → s.flt.safe = false → 512 ≤ b.toNat → b.toNat < x.bytes.length →
    Completes (exec (.uplinkFrameTx n (some b) none o) s) (fun t => t.egressOf (64 + n.val) = r ∧
      Tab.get (fun _ => []) t.shl.ulkSent n.val = x.bytes.take b.toNat ++ leBytes 4 (2 ^ 32 - 1 - crc32 (x.bytes.take b.toNat)) ∧
      Tab.get (fun _ => 0) t.fwd.underruns n.val = (Tab.get (fun _ => 0) s.fwd.underruns n.val + 1) % 2 ^ 48)) ∧
  (∀ (n : Fin 24) (u : Option (BitVec 14)) (x : Out) (r : List Out) (s : State), s.egressOf (64 + n.val) = x :: r →
    s.bit (Reg.ULK_STATUS.LINK_UP n.val) = true → s.flt.safe = false → (∀ b, u = some b → b.toNat < 512 ∨ x.bytes.length ≤ b.toNat) →
    Completes (exec (.uplinkFrameTx n u none false) s) (fun t => t.egressOf (64 + n.val) = r ∧ t.fwd.underruns = s.fwd.underruns ∧
      Tab.get (fun _ => []) t.shl.ulkSent n.val = x.bytes ++ leBytes 4 (crc32 x.bytes))) ∧
  (∀ (n : Fin 24) (c : Fin 16) (g : BitVec 14) (x : Out) (r : List Out) (s : State), s.egressOf (64 + n.val) = x :: r →
    s.bit (Reg.ULK_STATUS.LINK_UP n.val) = true → s.flt.safe = false →
    Completes (exec (.uplinkFrameTx n none (some (c, g)) false) s) (fun t =>
      if (s.word Reg.KEY_CTRL.addr).getLsbD c.val = true ∧ s.cutOf c.val = none ∧ min x.bytes.length ((x.bytes.length * 297 + 424) / 425 + 512) ≤ g.toNat then
        t.egressOf (64 + n.val) = r ∧ t.cutOf c.val = some (n.val, x.bytes) ∧ t.shl.ulkSent = s.shl.ulkSent
      else t = s)) ∧
  (∀ (d : List (Fin 64 × Nat)) (w : Nat) (s : State), ∃ s1, s1 = s.pace ((List.range 64).map (fun g => ((d.find? (fun x => x.1.val == g)).map (·.2)).getD 0)) w ∧
    Completes (exec (.paceWindowEnd d w) s) (fun t => t.rd Reg.WHF_CORE_RATE.SUSTAIN = min 65535 s1.sustain ∧ t.fwd.whfPace = s1.fwd.whfPace)) ∧
  (∀ (p : Fin 32) (s : State), 3 ≤ (s.side p 0).lossRun → s.bit (Reg.PT_US_STATUS.US_LOSS50 p.val) = false → s.bit Reg.TWN_CFG.TRG_USLOSS = false →
    Completes (exec (.usLossOnset p .g50) s) (fun t => t.bit (Reg.PT_US_STATUS.US_LOSS50 p.val) = true ∧ t.twn = s.twn)) ∧
  (∀ (p : Fin 32) (s : State), (s.side p 1).lossRun < 3 ∨ s.bit (Reg.PT_US_STATUS.US_LOSS10 p.val) = true → exec (.usLossOnset p .g10) s = .next s)

/-- BUFFER_RELEASE, FREE_STW and ENQUEUE (R260, R262, R263, R264, R271, R272): exactly the release that takes the last reference frees the buffer; a
FREE buffer released is a double free; a copy leaves its stage and takes the checks in order. -/
def Obligations.BuffersAndEnqueue : Prop :=
  (∀ (h : Fin 16777216) (s : State), s.handleOk h.val = true → (s.buf h.val).held = true → 1 < (s.buf h.val).ref →
    Completes (exec (.bufferRelease h) s) (fun t => t.buf h.val = { s.buf h.val with ref := (s.buf h.val).ref - 1 } ∧ t.ctrs = s.ctrs ∧
      ∀ g, g ≠ h.val → t.buf g = s.buf g)) ∧
  (∀ (h : Fin 16777216) (s : State), s.handleOk h.val = true → (s.buf h.val).held = true → (s.buf h.val).ref ≤ 1 →
    Completes (exec (.bufferRelease h) s) (fun t => (t.buf h.val).held = false ∧ (t.buf h.val).ref = 0 ∧ (t.buf h.val).gen = (s.buf h.val).gen ∧
      t.ctrs = s.ctrs ∧ ∀ g, g ≠ h.val → t.buf g = s.buf g)) ∧
  (∀ (h : Fin 16777216) (s : State), s.handleOk h.val = true → (s.buf h.val).held = false →
    exec (.bufferRelease h) s = .next ((s.inc (Cnt.CPG_DOUBLE_FREE (handlePool h.val))).raise .DOUBLE_FREE srcCpg (h.val % 2 ^ 24)) ∧
    Completes (exec (.bufferRelease h) s) (fun t => t.ctr (Cnt.CPG_DOUBLE_FREE (handlePool h.val)) = (s.ctr (Cnt.CPG_DOUBLE_FREE (handlePool h.val))).add 1 ∧
      t.cpg = s.cpg)) ∧
  (∀ (h : Fin 16777216) (s : State), s.handleOk h.val = false → exec (.bufferRelease h) s = .next (s.raise .BAD_HANDLE srcCpg (h.val % 2 ^ 24))) ∧
  (∀ (ag : Agent) (v : Word) (s : State), s.reaches ag Reg.CPG_FREE_STW.addr = true → s.handleOk (fldOf v Reg.CPG_FREE_STW.HANDLE) = true →
    (s.buf (fldOf v Reg.CPG_FREE_STW.HANDLE)).held = true → (s.buf (fldOf v Reg.CPG_FREE_STW.HANDLE)).ref = 1 →
    Completes (exec (.freeStw ag v) s) (fun t =>
      if (s.buf (fldOf v Reg.CPG_FREE_STW.HANDLE)).gen = fldOf v Reg.CPG_FREE_STW.GEN then (t.buf (fldOf v Reg.CPG_FREE_STW.HANDLE)).held = false
      else t.cpg = s.cpg)) ∧
  (∀ s : State, s.flt.safe = true ∨ s.fwd.enq = [] → exec .enqueue s = .next s) ∧
  (∀ (x : EnqIn) (r : List EnqIn) (s : State), s.flt.safe = false → s.fwd.enq = x :: r → s.isProxy x.d = false → x.yellow = none → x.unref = none →
    exec .enqueue s = .next (({ s with fwd := { s.fwd with enq := r } } : State).enqueue x.d)) ∧
  (∀ (x : EnqIn) (r : List EnqIn) (s : State), s.flt.safe = false → s.fwd.enq = x :: r → s.isProxy x.d = false → x.yellow = none → x.unref = none →
    16383 < x.d.length → x.d.dir = false →
    Completes (exec .enqueue s) (fun t => t.fwd.enq = r ∧ t.ctr Cnt.SCH_ENQ_OVERSIZE = (s.ctr Cnt.SCH_ENQ_OVERSIZE).add 1 ∧
      (t.queue x.d.queue).drops = ((s.queue x.d.queue).drops + 1) % 2 ^ 48)) ∧
  (∀ (x : EnqIn) (r : List EnqIn) (s : State), s.flt.safe = false → s.fwd.enq = x :: r → s.isProxy x.d = true → x.unref = none →
    exec .enqueue s = .next (({ s with fwd := { s.fwd with enq := r } } : State).proxyChecks x))

/-- CELLAR_WRITE_DONE, CELLAR_REFILL, CELLAR_ENABLE and SCHED_SELECT (R278, R279, R283 to R287, R299, R449): the oldest waiting packet is in the
Cellar and its buffer given back; a queue is refilled only from its Cellar part at or below REFILL; the Cellar is not enabled in a region outside the
memory; a lane that is down and a top node that is closed send nothing. -/
def Obligations.CellarAndScheduling : Prop :=
  (∀ (q : Fin 73728) (s : State), (s.queue q.val).writes = [] → exec (.cellarWriteDone q) s = .next s) ∧
  (∀ (q : Fin 73728) (k : QPkt) (r : List QPkt) (s : State), (s.queue q.val).writes = k :: r → Completes (exec (.cellarWriteDone q) s) (fun t =>
    (t.queue q.val).writes = r ∧ (t.queue q.val).cellar = (s.queue q.val).cellar ++ [(k, (s.buf k.d.handle).bytes)] ∧
    (t.queue q.val).onchip = (s.queue q.val).onchip ∧ t.ctr Cnt.CPG_SPILL_PKTS = (s.ctr Cnt.CPG_SPILL_PKTS).add 1)) ∧
  (∀ (q : Fin 73728) (r : CellarRead) (s : State), s.refillDue q.val = false → exec (.cellarRefill q r) s = .next s) ∧
  (∀ (q : Fin 73728) (s : State), s.refillDue q.val = true →
    exec (.cellarRefill q .clean) s = .next ((s.refillRead q.val 1).refillQueue q.val false false)) ∧
  (∀ (q : Fin 73728) (ch : Fin 16) (s : State), s.refillDue q.val = true → Completes (exec (.cellarRefill q (.linkBad ch)) s) (fun t =>
    (t.queue q.val).cellar = [] ∧ (t.queue q.val).onchip = (s.queue q.val).onchip ∧
    t.ctr Cnt.CPG_CELLAR_ERR_DROP = (s.ctr Cnt.CPG_CELLAR_ERR_DROP).add (s.queue q.val).cellar.length)) ∧
  (∀ (ag : Agent) (v : Word) (s : State), s.reaches ag Reg.CPG_CTRL.addr = true → s.flt.isolated .memory 0 = false → v.getLsbD 30 = true →
    s.bit Reg.CPG_CTRL.CELLAR_EN = false → Config.memUnits < s.rd Reg.CPG_CELLAR_REGION.BASE + min 256 (s.rd Reg.CPG_CELLAR_REGION.SIZE) →
    Completes (exec (.cellarEnable ag v) s) (fun t => t.bit Reg.CPG_CTRL.CELLAR_EN = false ∧
      t = ((s.hostTlp false ag Reg.CPG_CTRL.addr).storeWord ag Reg.CPG_CTRL.addr (v &&& 0xBFFFFFFF#32)).deny ag .refused Reg.CPG_CTRL.addr noWin)) ∧
  (∀ (ag : Agent) (v : Word) (s : State), s.reaches ag Reg.CPG_CTRL.addr = true → s.flt.isolated .memory 0 = false →
    s.rd Reg.CPG_CELLAR_REGION.BASE + min 256 (s.rd Reg.CPG_CELLAR_REGION.SIZE) ≤ Config.memUnits →
    exec (.cellarEnable ag v) s = .next ((s.hostTlp false ag Reg.CPG_CTRL.addr).storeWord ag Reg.CPG_CTRL.addr v)) ∧
  (∀ (m : Fin 104) (e : Option Bool) (s : State), s.flt.safe = true ∨ (88 ≤ m.val ∧ s.laneUp (m.val - 88) = false) →
    exec (.schedSelect m e) s = .next s) ∧
  (∀ (m : Fin 104) (e : Option Bool) (s : State), s.flt.safe = false → m.val < 88 → (s.accessAll m.val).topOpen m.val = false →
    exec (.schedSelect m e) s = .next (s.accessAll m.val)) ∧
  (∀ (m : Fin 104) (k : QPkt) (s : State), s.flt.safe = false → m.val < 64 → (s.select m.val).2 = some k →
    exec (.schedSelect m none) s = .next ((s.select m.val).1.toCipher m.val k.d)) ∧
  (∀ (m : Fin 104) (k : QPkt) (s : State), s.flt.safe = false → m.val < 88 → (s.select m.val).2 = some k →
    exec (.schedSelect m (some true)) s = .next (((s.select m.val).1.raise .PKT_ECC_UNCORR srcCpg k.d.handle).unref k.d.handle))

/-- BUCKET_SWEEP, BUCKET_WORD0_WRITE, DEBT_CLEAR, STATS_SAMPLE, STATS_CLEAR and POOL_CFG_WRITE (R256, R290, R294, R295, R297, R300): a bucket that
lags refills at the sweep; writing word 0 makes what is collected pending; a group that is off samples nothing; a cleared entry starts again; a
pool's size is refused while the pools are in use, at 0, and past 64 MiB in all. -/
def Obligations.BucketsStatisticsPools : Prop :=
  (∀ s : State, Completes (exec .bucketSweep s) (fun t => t.cpg.sweep = s.us ∧
    t.cpg.buckets = s.cpg.buckets.map (fun x => (x.1, if x.2.last < s.us then x.2.refill s.us else x.2)) ∧ t.words = s.words ∧ t.ctrs = s.ctrs)) ∧
  (∀ (ag : Agent) (b : Fin 98304) (v : Word) (s : State), s.reachesWin ag wSch = true → Completes (exec (.bucketWord0Write ag b v) s) (fun t =>
    ((t.bkt b.val).pend.map BkCfg.cir = some (s.rd (Win.BK_CIR b.val))) ∧ ((t.bkt b.val).pend.map BkCfg.pir = some (s.rd (Win.BK_PIR b.val))) ∧
    (t.bkt b.val).debt = ((s.bkt b.val).debt || v.getLsbD 26) ∧ (t.bkt b.val).c = (s.bkt b.val).c ∧ (t.bkt b.val).cfg = (s.bkt b.val).cfg)) ∧
  (∀ (ag : Agent) (b : Fin 98304) (v : Word) (s : State), s.reachesWin ag wSch = true → Completes (exec (.debtClear ag b v) s) (fun t =>
    (t.bkt b.val).debt = true ∧ (t.bkt b.val).p = (s.bkt b.val).p ∧ t.ctrs = s.ctrs)) ∧
  (∀ (g : Fin 16) (s : State), s.bit (Reg.SCH_SGRP.EN g.val) = false → exec (.statsSample g) s = .next s) ∧
  (∀ (g : Fin 16) (s : State), s.bit (Reg.SCH_SGRP.EN g.val) = true → Completes (exec (.statsSample g) s) (fun t =>
    t.words = s.words ∧ t.cpg.queues = s.cpg.queues ∧
    ∀ e, (t.stat e).count = if e ∈ s.statsOf g.val then ((s.stat e).count + 1) % 2 ^ 32 else (s.stat e).count)) ∧
  (∀ (ag : Agent) (e : Fin 8192) (v : Word) (s : State), s.reachesWin ag wSch = true → Completes (exec (.statsClear ag e v) s) (fun t =>
    t.stat e.val = { Stat.reset with start := s.now } ∧ ∀ f, f ≠ e.val → t.stat f = s.stat f)) ∧
  (∀ (ag : Agent) (n : Fin 4) (v : Word) (s : State), s.reaches ag (Reg.CPG_POOL_CFG.addr n.val) = true →
    exec (.poolCfgWrite ag n v) s = .next (
      if fldOf v (Reg.CPG_POOL_CFG.COUNT n.val) = 0 ∨ 67108864 < s.storeBytes n.val (fldOf v (Reg.CPG_POOL_CFG.COUNT n.val)) ∨ s.bit Reg.CPG_CTRL.EN = true then
        (s.hostTlp false ag (Reg.CPG_POOL_CFG.addr n.val)).deny ag .refused (Reg.CPG_POOL_CFG.addr n.val) noWin
      else (s.hostTlp false ag (Reg.CPG_POOL_CFG.addr n.val)).storeWord ag (Reg.CPG_POOL_CFG.addr n.val) v))

/-- KEY_LOAD, KEY_ACTIVATE, KEY_ERASE, RETIRING_TIMEOUT and KEY_RESTORE (R304, R314 to R318, R331, R332): only the Steward commands keys; a load
fills an EMPTY slot, an activation is set for a superframe boundary at least 16 frames ahead, an erased slot and its cache entries are gone, a
restore is refused while a cause stands. A slot that is no LOADED ONU slot is refused by activation as BAD_SLOT (log entry 8). -/
def Obligations.KeyCommands : Prop :=
  (∀ (ag : Agent) (k : BitVec 15) (s : State), ag ≠ .steward → ag ≠ .image →
    exec (.keyLoad ag k) s = .next (s.deny ag .scope Reg.KEY_CMD.addr noWin) ∧ exec (.keyActivate ag k) s = exec (.keyLoad ag k) s ∧
    exec (.keyErase ag k) s = exec (.keyLoad ag k) s ∧ exec (.keyRestore ag) s = exec (.keyLoad ag k) s) ∧
  (∀ (k : BitVec 15) (s : State), k.toNat ≠ 16384 → k.toNat < 16401 → s.bit Reg.KEY_STATUS.ERASED = false → (s.root k.toNat).state = .empty →
    Completes (exec (.keyLoad .steward k) s) (fun t => (t.root k.toNat).state = .loaded ∧ (t.root k.toNat).dk = s.keyData 0 4 ∧
      (t.root k.toNat).sk = s.keyData 4 4 ∧ t.rd Reg.KEY_CMD_STATUS.CODE = 0 ∧ (∀ e ∈ t.keys.cache, e.1 ≠ k.toNat) ∧
      ∀ j, j ≠ k.toNat → t.root j = s.root j)) ∧
  (∀ (k : BitVec 15) (s : State), k.toNat ≠ 16384 → k.toNat < 16401 → s.bit Reg.KEY_STATUS.ERASED = false → (s.root k.toNat).state ≠ .empty →
    Completes (exec (.keyLoad .steward k) s) (fun t => t.keys = s.keys ∧ t.rd Reg.KEY_CMD_STATUS.CODE = 2)) ∧
  (∀ (k : BitVec 15) (a : Nat) (s : State), k.toNat < 16384 → (s.root k.toNat).state = .loaded → s.bit Reg.KEY_STATUS.ERASED = false →
    a = (s.word (Reg.KEY_CMD_DATA.addr 0)).toNat + (s.word (Reg.KEY_CMD_DATA.addr 1)).toNat % 2 ^ 19 * 2 ^ 32 →
    (s.root (k.toNat / 2 * 2 + (1 - k.toNat % 2))).pend = none →
    Completes (exec (.keyActivate .steward k) s) (fun t =>
      if a % 8 = 0 ∧ s.sfc (Fin.ofNat 32 (k.toNat / 512)) + 16 ≤ a then
        t.root k.toNat = { s.root k.toNat with pend := some a } ∧ t.rd Reg.KEY_CMD_STATUS.CODE = 0
      else t.keys = s.keys ∧ t.rd Reg.KEY_CMD_STATUS.CODE = 3)) ∧
  (∀ (k : BitVec 15) (s : State), (s.root k.toNat).state ≠ .loaded → s.bit Reg.KEY_STATUS.ERASED = false →
    Completes (exec (.keyActivate .steward k) s) (fun t => t.keys = s.keys ∧ t.rd Reg.KEY_CMD_STATUS.CODE = 1)) ∧
  (∀ (k : BitVec 15) (s : State), k.toNat ≠ 16384 → k.toNat < 16401 → Completes (exec (.keyErase .steward k) s) (fun t =>
    t.root k.toNat = Root.empty ∧ t.rd Reg.KEY_CMD_STATUS.CODE = 0 ∧ ∀ j, j ≠ k.toNat → t.root j = s.root j)) ∧
  (∀ (k : BitVec 14) (s : State), Completes (exec (.retiringTimeout k) s) (fun t =>
    if (s.root k.toNat).state = .retiring ∧ (s.root k.toNat).quiet + 64 ≤ s.sfc (Fin.ofNat 32 (k.toNat / 512)) then t.root k.toNat = Root.empty ∧ t.words = s.words else t = s)) ∧
  (∀ s : State, (s.bit Reg.KEY_STATUS.TAMPER || s.bit Reg.KEY_STATUS.VGLITCH || s.bit Reg.KEY_STATUS.CGLITCH || s.bit Reg.KEY_STATUS.TEMP) = true →
    Completes (exec (.keyRestore .steward) s) (fun t => t.keys = s.keys ∧ t.rd Reg.KEY_CMD_STATUS.CODE = 6)) ∧
  (∀ s : State, (s.bit Reg.KEY_STATUS.TAMPER || s.bit Reg.KEY_STATUS.VGLITCH || s.bit Reg.KEY_STATUS.CGLITCH || s.bit Reg.KEY_STATUS.TEMP) = false →
    s.bit Reg.KEY_CTRL.REACTIVATE = false → Completes (exec (.keyRestore .steward) s) (fun t =>
      t.bit Reg.KEY_STATUS.ERASED = false ∧ t.rd Reg.KEY_CMD_STATUS.CODE = 0 ∧ (t.root 16384).state = .loaded))

/-- CIPHER_DOWNSTREAM and UPSTREAM_XGEM_FRAME (R44, R306 to R309, R319 to R321): a context without ENC passes its payload as it is; with ENC and no
ACTIVE slot the packet is dropped; each piece is encrypted under the frame that carries it and the slot ACTIVE in it; an upstream frame of the burst
last received is decrypted under the slot its key index names, and counts the slot's usage. -/
def Obligations.PayloadCipher : Prop :=
  (∀ (p : Fin 32) (sd : Side) (b : Option (Fin 16)) (s : State), s.cipherOf (psd p sd) = [] → exec (.cipherDownstream p sd b) s = .next s) ∧
  (∀ (p : Fin 32) (sd : Side) (b : Option (Fin 16)) (d : Desc) (r : List Desc) (s : State),
    s.cipherOf (psd p sd) = d :: r → s.bit (Win.CTX_ENC d.xctx) = false ∨ s.bit (Win.ONU_KIND (s.rd (Win.CTX_NODE d.xctx))) = true →
    (s.buf d.handle).bytes.length ≤ 16383 →
    Completes (exec (.cipherDownstream p sd b) s) (fun t => t.cipherOf (psd p sd) = r ∧ t.keys = s.keys ∧
      t.egressOf (psd p sd) = s.egressOf (psd p sd) ++ [⟨d, (s.buf d.handle).bytes, 0, false⟩])) ∧
  (∀ (p : Fin 32) (sd : Side) (d : Desc) (r : List Desc) (k : Nat) (s : State),
    s.cipherOf (psd p sd) = d :: r → s.bit (Win.CTX_ENC d.xctx) = true → s.bit (Win.ONU_KIND (s.rd (Win.CTX_NODE d.xctx))) = false →
    (s.buf d.handle).bytes.length ≤ 16383 → s.activeRoot (s.rd (Win.CTX_NODE d.xctx)) = some k → (s.root k).held = false →
    Completes (exec (.cipherDownstream p sd none) s) (fun t => t.keys = s.keys ∧ t.cipherOf (psd p sd) = r ∧
      t.egressOf (psd p sd) = s.egressOf (psd p sd) ++ [⟨d, (s.buf d.handle).bytes, 0, true⟩])) ∧
  (∀ (p : Fin 32) (sd : Side) (b : Option (Fin 16)) (d : Desc) (r : List Desc) (s : State),
    s.cipherOf (psd p sd) = d :: r → s.bit (Win.CTX_ENC d.xctx) = true → s.bit (Win.ONU_KIND (s.rd (Win.CTX_NODE d.xctx))) = false →
    (s.buf d.handle).bytes.length ≤ 16383 → s.activeRoot (s.rd (Win.CTX_NODE d.xctx)) = none →
    Completes (exec (.cipherDownstream p sd b) s) (fun t => t.cipherOf (psd p sd) = r ∧ t.egressOf (psd p sd) = s.egressOf (psd p sd) ∧
      t.ctr Cnt.KEY_KEY_HOLD_DROP = (s.ctr Cnt.KEY_KEY_HOLD_DROP).add 1 ∧ t.keys = s.keys)) ∧
  (∀ (o : Out) (sfc w n k : Nat) (s : State), o.enc = true → n ≤ o.bytes.length - o.sent → s.activeRoot (s.rd (Win.CTX_NODE o.d.xctx)) = some k →
    (s.root k).held = false → (s.root k).usage + blocks n + blocks (o.bytes.length - o.sent - n) < 2 ^ s.rd Reg.KEY_LIMIT.HARD_LOG2 →
    (s.root k).usage + blocks n < 2 ^ 48 →
    (s.cipherPiece sfc w o n).2 = some (k % 2 + 1, ctrCrypt (s.root k).dk sfc false w ((o.bytes.drop o.sent).take n)) ∧
    ((s.cipherPiece sfc w o n).1.root k).usage = (s.root k).usage + blocks n) ∧
  (∀ (p : Fin 32) (sd : Side) (c : BitVec 16) (cl : Fin 8) (k : Fin 4) (w : BitVec 18) (fr : List Byte) (un fu : Bool) (b : Option (Fin 16)) (s : State),
    s.flt.safe = true ∨ un = true ∨ (s.side p sd.n).content = none → exec (.upstreamXgemFrame p sd c cl k w fr un fu b) s = .next s) ∧
  (∀ (p : Fin 32) (sd : Side) (e : Exp) (c : BitVec 16) (cl : Fin 8) (w : BitVec 18) (fr : List Byte) (fu : Bool) (b : Option (Fin 16)) (s : State),
    s.flt.safe = false → (s.side p sd.n).content = some e → exec (.upstreamXgemFrame p sd c cl 0 w fr false fu b) s =
      .next (if s.encrypts c.toNat = true then s.inc Cnt.KEY_KEY_MISSING else s.intakeUp p sd.n e.burst.onu c.toNat cl.val fr fu)) ∧
  (∀ (p : Fin 32) (sd : Side) (e : Exp) (c : BitVec 16) (cl : Fin 8) (k : Fin 4) (w : BitVec 18) (fr : List Byte) (fu : Bool) (b : Option (Fin 16))
    (s : State), s.flt.safe = false → (s.side p sd.n).content = some e → k.val = 1 ∨ k.val = 2 →
    (s.root (rootOf (slotKey p e.burst.onu) (k.val - 1))).state = .empty ∨ (s.root (rootOf (slotKey p e.burst.onu) (k.val - 1))).held = true →
    exec (.upstreamXgemFrame p sd c cl k w fr false fu b) s = .next (s.inc Cnt.KEY_KEY_MISSING)) ∧
  (∀ (p : Fin 32) (sd : Side) (e : Exp) (c : BitVec 16) (cl : Fin 8) (k : Fin 4) (w : BitVec 18) (fr : List Byte) (fu : Bool) (b : Option (Fin 16))
    (r : Nat) (s : State), s.flt.safe = false → (s.side p sd.n).content = some e → k.val = 1 ∨ k.val = 2 →
    r = rootOf (slotKey p e.burst.onu) (k.val - 1) → (s.root r).state ≠ .empty → (s.root r).held = false → fr.length ≤ 16383 →
    Completes (exec (.upstreamXgemFrame p sd c cl k w fr false fu b) s) (fun t => (t.root r).usage = ((s.root r).usage + blocks fr.length) % 2 ^ 48))

/-- SHASOL_MESSAGE_RX, TAG_CHECK_DONE and SHASOL_MESSAGE_TX (R325, R327, R328, R402 to R404): a message with a bad CRC or on a lane that is not up is
counted and lost, a sealed one waits for its tag check, a bad tag drops it; a frame begun under sealed cut-through ends with the message, well only
on a good verdict in time; what leaves a lane is the oldest message of its channel. -/
def Obligations.LinkMessages : Prop :=
  (∀ (n : Fin 16) (r : LinkRx) (s : State), s.laneUp n.val = false → s.laneState n.val ≠ lnExchange →
    s.cutOf n.val = none → exec (.shasolMessageRx n r) s = .next ((s.setLane n.val { s.lane n.val with heard := s.now }).inc (Cnt.SHL_MSG_LOST n.val))) ∧
  (∀ (n : Fin 16) (r : LinkRx) (s : State), s.laneUp n.val = true → s.cutOf n.val = none → r.crcOk = false ∨ r.errored = true →
    Completes (exec (.shasolMessageRx n r) s) (fun t => t.ctr (Cnt.SHL_CRC_ERR n.val) = (s.ctr (Cnt.SHL_CRC_ERR n.val)).add 1 ∧ t.shl = (s.setLane n.val { s.lane n.val with heard := s.now }).shl)) ∧
  (∀ (n : Fin 16) (r : LinkRx) (s : State), s.laneUp n.val = true → r.crcOk = true → r.errored = false → r.abort = false → r.countOk = true →
    r.cut = false → r.chan = 0 → r.sealed_ = false → exec (.shasolMessageRx n r) s =
      .next ((s.setLane n.val { s.lane n.val with heard := s.now }).inc (Cnt.SHL_MSGS_RX n.val))) ∧
  (∀ (n : Fin 16) (r : LinkRx) (s : State), s.laneUp n.val = true → r.crcOk = true → r.errored = false → r.abort = false → r.countOk = true →
    r.cut = false → 1 ≤ r.chan.toNat → r.chan.toNat ≤ 3 → r.sealed_ = true → r.phase = false → (s.lane n.val).rx.isSome = true →
    s.bit (Reg.SHL_LANE_STATUS.RX_PHASE n.val) = false →
    exec (.shasolMessageRx n r) s =
      .next ((s.setLane n.val { s.lane n.val with heard := s.now }).setLane n.val { s.lane n.val with
        heard := s.now
        hold := (s.lane n.val).hold ++ [(r.chan.toNat, false)] })) ∧
  (∀ (n : Fin 16) (r : LinkRx) (s : State) (x : Nat × List Byte), s.cutOf n.val = some x → s.laneUp n.val = true → r.crcOk = false ∨ r.errored = true →
    Completes (exec (.shasolMessageRx n r) s) (fun t => t.cutOf n.val = none ∧
      Tab.get (fun _ => []) t.shl.ulkSent x.1 = x.2 ++ leBytes 4 (2 ^ 32 - 1 - crc32 x.2))) ∧
  (∀ (n : Fin 16) (g l : Bool) (s : State), (s.lane n.val).hold = [] → exec (.tagCheckDone n g l) s = .next s) ∧
  (∀ (n : Fin 16) (l : Bool) (x : Nat × Bool) (r : List (Nat × Bool)) (s : State), (s.lane n.val).hold = x :: r → s.cutOf n.val = none →
    Completes (exec (.tagCheckDone n false l) s) (fun t => (t.lane n.val).hold = r ∧ t.ctr Cnt.KEY_TAG_FAIL = (s.ctr Cnt.KEY_TAG_FAIL).add 1 ∧
      t.words = s.words ∧ t.shl.ulkSent = s.shl.ulkSent)) ∧
  (∀ (n : Fin 16) (l : Bool) (c : Nat) (r : List (Nat × Bool)) (s : State), (s.lane n.val).hold = (c, false) :: r → s.cutOf n.val = none →
    exec (.tagCheckDone n true l) s = .next ((s.setLane n.val { s.lane n.val with hold := r }).inc (Cnt.SHL_MSGS_RX n.val))) ∧
  (∀ (n : Fin 16) (g l : Bool) (x : Nat × Bool) (c : Nat × List Byte) (r : List (Nat × Bool)) (s : State), (s.lane n.val).hold = x :: r →
    s.cutOf n.val = some c → Completes (exec (.tagCheckDone n g l) s) (fun t => t.cutOf n.val = none ∧
      Tab.get (fun _ => []) t.shl.ulkSent c.1 = c.2 ++ leBytes 4 (if g = true ∧ l = false then crc32 c.2 else 2 ^ 32 - 1 - crc32 c.2) ∧
      (g = false → t.ctr Cnt.KEY_TAG_FAIL_CT = (s.ctr Cnt.KEY_TAG_FAIL_CT).add 1))) ∧
  (∀ (n : Fin 16) (c : Fin 4) (s : State), s.laneUp n.val = false → s.laneState n.val ≠ lnExchange → exec (.shasolMessageTx n c) s = .next s) ∧
  (∀ (n : Fin 16) (c : Fin 4) (s : State), s.bit (Reg.SHL_LANE_STATUS.SEALED n.val) = true → c.val ≠ 0 → 2 ^ 48 ≤ (s.lane n.val).txCtr →
    exec (.shasolMessageTx n c) s = .next s) ∧
  (∀ (n : Fin 16) (m : LinkCtl) (r : List LinkCtl) (s : State), s.laneUp n.val = true → (s.lane n.val).ctl = m :: r →
    Completes (exec (.shasolMessageTx n 0) s) (fun t => (t.lane n.val).ctl = r ∧
      (t.lane n.val).sent = some ⟨0, false, s.bit (Reg.SHL_LANE_STATUS.TX_PHASE n.val), 0xFF, s.addrByte, s.ctlBytes n.val m⟩ ∧
      t.ctr (Cnt.SHL_MSGS_TX n.val) = (s.ctr (Cnt.SHL_MSGS_TX n.val)).add 1))

/-- MAP, DBA_STATE, PLOAM_Q, SLOT, TABLE and KEY (R322, R341, R342, R349, R355): a message of a tree this device owns is only checked for its
sequence, one of a tree it shadows also stores what it carries; a KEY comes into effect over a sealed link only; a gap in the sequence counts and
holds the tree from READY for 16 frames. HEARTBEAT_SEND, HEARTBEAT, HEARTBEAT_LOSS, LIVENESS_LOSS, PARTNER_DARK_CHANGE and DARK_STUCK_TIMEOUT (R343,
R344, R350 to R352): a heartbeat received is the partner's latest word and makes it alive; its loss, once, ends that; the pin's state stands in
TWN_STATUS. -/
def Obligations.TwinMirrorAndHeartbeats : Prop :=
  ((∀ (p : Fin 32) (sd : Side) (q : BitVec 32) (m : BwMap) (s : State), s.owned p.val = true →
    exec (.mapMsg p sd q m) s = .next (s.seqRx 2 p.val sd.n q.toNat m.sfc)) ∧
  (∀ (p : Fin 32) (sd : Side) (q : BitVec 32) (m : BwMap) (s : State), s.owned p.val = false → Completes (exec (.mapMsg p sd q m) s) (fun t =>
    Tab.get (fun _ => []) t.twn.maps (psd p sd) = (Tab.get (fun _ => []) s.twn.maps (psd p sd)).filter (fun x => x.sfc ≠ m.sfc) ++ [m] ∧
    t.ctr Cnt.TWN_MIRROR_MSGS = (s.ctr Cnt.TWN_MIRROR_MSGS).add 1)) ∧
  (∀ (p : Fin 32) (sd : Side) (q : BitVec 32) (m : BwMap) (n : Nat) (s : State), Tab.get (fun _ => 0) s.twn.rxSeq (2 * 256 + p.val) = n →
    n ≠ 0 → q.toNat ≠ n % 2 ^ 32 → s.owned p.val = true → Completes (exec (.mapMsg p sd q m) s) (fun t => (t.twinTree p).gap = 16 ∧
      t.ctr Cnt.TWN_MIRROR_GAPS = (s.ctr Cnt.TWN_MIRROR_GAPS).add 1)) ∧
  (∀ (p : Fin 32) (q : BitVec 32) (f : BitVec 51) (i : Fin 1024) (a : AllocRt) (s : State), s.owned p.val = false →
    Completes (exec (.dbaState p q f [(i, a)]) s) (fun t => (t.alloc p i.val).pCred = a.pCred ∧ (t.alloc p i.val).aCred = a.aCred ∧
      (t.alloc p i.val).report = a.report ∧ (t.alloc p i.val).poll = a.poll ∧ t.ctr Cnt.TWN_MIRROR_MSGS = (s.ctr Cnt.TWN_MIRROR_MSGS).add 1)) ∧
  (∀ (p : Fin 32) (sd : Side) (q : BitVec 32) (f : BitVec 51) (e l : List Ploam) (w : List AckWait) (s : State), s.owned p.val = false →
    Completes (exec (.ploamQ p sd q f e l w) s) (fun t => (t.plq p sd.n).queue = l.foldl (fun x m => x.erase m) ((s.plq p sd.n).queue ++ e) ∧
      (t.plq p sd.n).waits = w ∧ t.words = s.words)) ∧
  (∀ (p : Fin 32) (q : BitVec 32) (i : Fin 256) (x : Slot) (r : Bool) (a b : BitVec 16) (n : Nat) (s : State), s.owned p.val = false →
    (x.state = .active ↔ (s.slot p i.val).state = .active) → Completes (exec (.slotMsg p q i x r a b n) s) (fun t =>
      t.slot p i.val = x ∧ (t.tree p).ramp = r ∧ (t.tree p).admitted = n ∧ (t.disc p 0).lfsr = a.toNat ∧ (t.disc p 1).lfsr = b.toNat)) ∧
  (∀ (p : Fin 32) (q : BitVec 32) (w : MirrorWr) (s : State), s.owned p.val = true → exec (.tableMsg p q w) s = .next (s.seqRx 6 p.val 0xFF q.toNat 0)) ∧
  (∀ (p : Fin 32) (q : BitVec 32) (w : MirrorWr) (s : State), s.owned p.val = false → exec (.tableMsg p q w) s =
    .next (((s.seqRx 6 p.val 0xFF q.toNat 0).mirrorItem p w).inc Cnt.TWN_MIRROR_MSGS)) ∧
  (∀ (p : Fin 32) (q : BitVec 32) (k : Fin 512) (r : Root) (s : State), s.owned p.val = false → s.bit Reg.TWN_STATUS.SEALED = true →
    Completes (exec (.keyMsg p q k r) s) (fun t => t.root (p.val * 512 + k.val) = r)) ∧
  (∀ (p : Fin 32) (q : BitVec 32) (k : Fin 512) (r : Root) (s : State), s.bit Reg.TWN_STATUS.SEALED = false →
    Completes (exec (.keyMsg p q k r) s) (fun t => t.keys = s.keys)) ∧
  (∀ (p : Fin 32) (q : BitVec 32) (c : SyncCopy) (s : State), s.owned p.val = true → exec (.syncMsg p q c) s = .next (s.seqRx 12 p.val 0xFF q.toNat c.sfc)) ∧
  (∀ (p : Fin 32) (q : BitVec 32) (c : SyncCopy) (s : State), s.owned p.val = false → Completes (exec (.syncMsg p q c) s) (fun t =>
    (t.twinTree p).synced = true ∧ (t.twinTree p).gap = 0 ∧ (t.tree p).ramp = c.ramp ∧ (t.tree p).admitted = c.admitted ∧
    (t.disc p 0).lfsr = c.lfsr50 ∧ (t.disc p 1).lfsr = c.lfsr10))) ∧
  ((∀ s : State, exec .heartbeatSend s = .next (s.twinSend 1 0xFF 0xFF s.lowSfc 0)) ∧
  (∀ (h : Hb) (l : Bool) (s : State), Completes (exec (.heartbeat h none l) s) (fun t => t.twn.hb = some h ∧ t.twn.alive = true ∧
    t.bit Reg.TWN_STATUS.PARTNER_FATAL = (h.health % 2 != 0) ∧ t.ctr Cnt.TWN_HB_RX = (s.ctr Cnt.TWN_HB_RX).add 1 ∧ t.twn.tau = s.twn.tau)) ∧
  (∀ (h : Hb) (a b c d : Int) (l : Bool) (s : State), Completes (exec (.heartbeat h (some (a, b, c, d)) l) s) (fun t => t.twn.hb = some h ∧
    t.twn.tau = (s.twn.tau ++ [frameMod (roundDiv ((d - c) - (b - a)) 2 + s.rdInt Reg.TWN_ASYM.ASYM)]).drop (s.twn.tau.length - 255))) ∧
  (∀ s : State, s.twn.alive = false → exec .heartbeatLoss s = .next s) ∧
  (∀ s : State, s.twn.alive = true → Completes (exec .heartbeatLoss s) (fun t => t.twn.alive = false ∧ t.twn.hb = s.twn.hb ∧
    (s.darkIn ≠ 1 → t.ctr Cnt.TWN_HB_LOSS = (s.ctr Cnt.TWN_HB_LOSS).add 1))) ∧
  (∀ s : State, exec .livenessLoss s = .next (if s.bit Reg.TWN_CFG.EN = true ∧ s.rd Reg.TWN_OWN.OWN ≠ 0 then { s with twn := { s.twn with dead := true } } else s)) ∧
  (∀ (d : Fin 3) (s : State), Completes (exec (.partnerDarkChange d) s) (fun t => t.darkIn = d.val ∧ t.twn.stuck20 = false ∧ t.twn.alive = s.twn.alive)) ∧
  (∀ s : State, s.darkIn ≠ 2 ∨ s.twn.trigs = [] ∨ s.twn.stuck20 = true → exec .darkStuckTimeout s = .next s) ∧
  (∀ s : State, s.darkIn = 2 → s.twn.trigs ≠ [] → s.twn.stuck20 = false → Completes (exec .darkStuckTimeout s) (fun t => t.twn.stuck20 = true ∧ t.darkIn = 2)) ∧
  (∀ s : State, exec (.faultMsg false) s = .next s) ∧
  (∀ s : State, Completes (exec (.faultMsg true) s) (fun t => t.bit Reg.TWN_STATUS.PARTNER_FATAL = true)))

/-- TAKEOVER_WARM, TAKE, GIVE, REQUEST, OFF_WAIT_EXPIRY, RELEASE, TAKEN and RELEASE_FAIL (R350, R351, R353, R356, R357, R359): no takeover before its
interlock or in safe state; a READY tree released or triggered is owned; commands refused answer their code; a release sent is answered, or after 100
µs its trees are taken back. -/
def Obligations.TakeoverAndRelease : Prop :=
  (∀ s : State, s.interlock = false ∨ s.mayTakeOver = false → exec .takeoverWarm s = .next s) ∧
  (∀ (n : Nat) (p : Fin 32) (s : State), s.interlock = true → s.mayTakeOver = true → s.darkIn = 0 → s.twn.trigs = [⟨n, [p]⟩] →
    s.owned p.val = false → s.ready p = true → Completes (exec .takeoverWarm s) (fun t => p ∈ t.ownTrees ∧ t.twn.trigs = [] ∧
      t.ctr Cnt.TWN_TAKEOVERS = (s.ctr Cnt.TWN_TAKEOVERS).add 1 ∧ (t.port p).sfc = (s.port p).sfc)) ∧
  (∀ (ag : Agent) (v : Word) (s : State), s.reaches ag Reg.TWN_CMD.addr = true → s.bit Reg.TWN_CMD_STATUS.BUSY = true →
    exec (.take ag v) s = .next ((s.hostTlp false ag Reg.TWN_CMD.addr).deny ag .refused Reg.TWN_CMD.addr noWin) ∧ exec (.give ag v) s = exec (.take ag v) s) ∧
  (∀ (ag : Agent) (v : Word) (s : State), s.reaches ag Reg.TWN_CMD.addr = true → s.bit Reg.TWN_CMD_STATUS.BUSY = false → s.bit Reg.TWN_CFG.EN = true →
    s.bit Reg.TWN_CFG.HOLD = true → Completes (exec (.take ag v) s) (fun t => t.rd Reg.TWN_CMD_STATUS.CODE = 3 ∧
      t.ctr Cnt.TWN_HELD_TRIGGERS = (s.ctr Cnt.TWN_HELD_TRIGGERS).add 1 ∧ t.ownTrees = s.ownTrees)) ∧
  (∀ (ag : Agent) (v : Word) (p : Fin 32) (s : State), s.reaches ag Reg.TWN_CMD.addr = true → s.bit Reg.TWN_CMD_STATUS.BUSY = false →
    s.bit Reg.TWN_CFG.EN = true → s.bit Reg.TWN_CFG.HOLD = false → s.twinLanes ≠ 0 → s.twn.alive = true → s.owned p.val = false → s.ready p = true →
    treesOf (s.rd Reg.TWN_CMD_TREES.TREES) = [p] → s.partnerOwns = [p] → Completes (exec (.take ag v) s) (fun t =>
      t.bit Reg.TWN_CMD_STATUS.BUSY = true ∧ t.twn.asked = [p] ∧ t.ownTrees = s.ownTrees)) ∧
  (∀ (ag : Agent) (v : Word) (p : Fin 32) (s : State), s.reaches ag Reg.TWN_CMD.addr = true → s.bit Reg.TWN_CMD_STATUS.BUSY = false →
    s.bit Reg.TWN_CFG.EN = true → s.bit Reg.TWN_CFG.HOLD = false → s.twinLanes ≠ 0 → s.twn.alive = true → s.owned p.val = true → s.hbBit Hb.ready p = true →
    treesOf (s.rd Reg.TWN_CMD_TREES.TREES) = [p] → s.twn.rels = [] → Completes (exec (.give ag v) s) (fun t =>
      t.bit Reg.TWN_CMD_STATUS.BUSY = true ∧ t.twn.rels = [⟨5, [p], false, true⟩] ∧ p ∈ t.twn.dark)) ∧
  (∀ (ts : BitVec 32) (s : State), exec (.requestMsg none ts) s = .next (s.release 5 (treesOf ts.toNat) false)) ∧
  (∀ (y : Fin 16) (p : Fin 32) (ts : BitVec 32) (s : State), exec (.requestMsg (some (y, p)) ts) s = .next (s.mirror y.val p 0xFF 0)) ∧
  (∀ (r : Rel) (s : State), s.twn.rels = [r] → r.sent = false → Completes (exec .offWaitExpiry s) (fun t => t.twn.rels = [{ r with sent := true }] ∧
    (∀ p ∈ r.trees, p ∉ t.ownTrees) ∧ t.ctr Cnt.TWN_RELEASES = (s.ctr Cnt.TWN_RELEASES).add 1)) ∧
  (∀ (q ts : BitVec 32) (m : Fin 3) (f : Bool) (s : State), s.bit Reg.TWN_CFG.EN = false ∨ s.twn.answered = some q.toNat ∨ s.mayTakeOver = false →
    exec (.releaseMsg q ts m f) s = .next s) ∧
  (∀ (q ts : BitVec 32) (m : Fin 3) (f : Bool) (s : State), s.bit Reg.TWN_CFG.EN = true → s.twn.answered ≠ some q.toNat → s.mayTakeOver = true →
    Completes (exec (.releaseMsg q ts m f) s) (fun t => t.twn.answered = some q.toNat ∧
      ∀ p ∈ treesOf ts.toNat, s.owned p.val = false → (s.ready p = true ∨ (m = 2 ∧ f = true) ↔ p ∈ t.ownTrees) ∨ s.twn.force = true)) ∧
  (∀ (ts : BitVec 32) (r : Rel) (s : State), s.twn.rels = [r] → r.sent = true → (∀ p ∈ r.trees, p ∈ treesOf ts.toNat) →
    Completes (exec (.takenMsg ts) s) (fun t => t.twn.rels = [] ∧ (∀ p ∈ r.trees, p ∉ t.twn.dark) ∧ (r.cmd = true → t.rd Reg.TWN_CMD_STATUS.CODE = 0))) ∧
  (∀ (r : Rel) (s : State), s.twn.rels = [r] → r.sent = true → Completes (exec .releaseFail s) (fun t => t.twn.rels = [] ∧
    (∀ p ∈ r.trees, p ∈ t.ownTrees ∧ p ∉ t.twn.dark) ∧ (r.cmd = true → t.rd Reg.TWN_CMD_STATUS.CODE = 5)))

/-- DOMAIN_EN_WRITE, PHASE_SAMPLE_COMMIT, SOURCE_TIMEOUT, REACQUIRE, SWITCH, OUT_STEP and WTR_EXPIRY (R368, R370 to R375): an acquiring domain steps
to its first sample's time and tracks, a sample within 10 ms is rejected, a lost source holds the mean frequency, the output domain is not
reacquired, and a switch leaves the output time where it was. -/
def Obligations.TimeDomains : Prop :=
  (∀ (ag : Agent) (d : Fin 2) (v : Word) (s : State), s.reaches ag (Reg.HRL_DOM_CFG.addr d.val) = true →
    ∀ r, r = (s.hostTlp false ag (Reg.HRL_DOM_CFG.addr d.val)).storeWord ag (Reg.HRL_DOM_CFG.addr d.val) v →
    Completes (exec (.domainEnWrite ag d v) s) (fun t => if r.bit (Reg.HRL_DOM_CFG.EN d.val) = true ∧ r.domSrc d.val = 0 then t = r
      else r.bit (Reg.HRL_DOM_CFG.EN d.val) = false → (t.dom d.val).state = .freerun ∧ (t.dom d.val).freq = 0 ∧ (t.dom d.val).stepped = false)) ∧
  (∀ (ag : Agent) (d : Fin 2) (v : Word) (a : Nat) (s : State), s.reaches ag (Reg.HRL_DOM_S_SEC.addr d.val) = true → (s.dom d.val).sampled = some a →
    s.now < a + 10000000 → (s.dom d.val).state = .locked → Completes (exec (.phaseSampleCommit ag d v) s) (fun t =>
      t.ctr (Cnt.HRL_REJECTED d.val) = (s.ctr (Cnt.HRL_REJECTED d.val)).add 1 ∧ t.dom d.val = { s.dom d.val with sampled := some s.now })) ∧
  (∀ (ag : Agent) (d : Fin 2) (v : Word) (s : State), s.reaches ag (Reg.HRL_DOM_S_SEC.addr d.val) = true → (s.dom d.val).sampled = none →
    (s.dom d.val).state = .acquiring → Completes (exec (.phaseSampleCommit ag d v) s) (fun t =>
      t.ctr (Cnt.HRL_SAMPLES d.val) = (s.ctr (Cnt.HRL_SAMPLES d.val)).add 1 ∧ (t.dom d.val).state = .tracking ∧ (t.dom d.val).stepped = true ∧
      t.domTime d.val = s.domTime d.val - ((v.toInt * 1000000000 + fldInt (s.word (Reg.HRL_DOM_S_NS.addr d.val)) (Reg.HRL_DOM_S_NS.S_NS d.val)) * fracUnit
        + (s.rd (Reg.HRL_DOM_S_FRAC.S_FRAC d.val) : Int) * 2 ^ 32))) ∧
  (∀ (d : Fin 2) (s : State), (s.dom d.val).state = .tracking ∨ (s.dom d.val).state = .locked → Completes (exec (.sourceTimeout d) s) (fun t =>
    (t.dom d.val).state = .holdover ∧ (t.dom d.val).freq = s.meanFreq d.val ∧ t.domTime d.val = s.domTime d.val ∧
    t.ctr (Cnt.HRL_HOLDOVERS d.val) = (s.ctr (Cnt.HRL_HOLDOVERS d.val)).add 1)) ∧
  (∀ (d : Fin 2) (s : State), (s.dom d.val).state = .acquiring → Completes (exec (.sourceTimeout d) s) (fun t => (t.dom d.val).state = .freerun)) ∧
  (∀ (d : Fin 2) (s : State), (s.dom d.val).state = .holdover ∨ (s.dom d.val).state = .freerun → exec (.sourceTimeout d) s = .next s) ∧
  (∀ (ag : Agent) (d : Fin 2) (v : Word) (s : State), s.reaches ag (Reg.HRL_DOM_CMD.addr d.val) = true → Completes (exec (.reacquire ag d v) s) (fun t =>
    if s.outSel = d.val then t.rd (Reg.HRL_DOM_CMD.CODE d.val) = 1 ∧ t.dom d.val = s.dom d.val
    else t.rd (Reg.HRL_DOM_CMD.CODE d.val) = 0 ∧ (t.dom d.val).state = .freerun)) ∧
  (∀ (ag : Agent) (v : Word) (s : State), s.reaches ag Reg.HRL_CTRL.addr = true → ∀ r, r = (s.hostTlp false ag Reg.HRL_CTRL.addr).storeWord ag Reg.HRL_CTRL.addr v →
    Completes (exec (.switchOutput ag v) s) (fun t => t.outSel = 1 - r.outSel ∧ t.outTime = r.outTime ∧
      t.ctr Cnt.HRL_SWITCHES = (r.ctr Cnt.HRL_SWITCHES).add 1) ∧
    Completes (exec (.outStep ag v) s) (fun t => t.ofsNow = 0 ∧ t.hrl.domA = s.hrl.domA ∧ t.hrl.domB = s.hrl.domB ∧ t.words = r.words)) ∧
  (∀ s : State, s.bit Reg.HRL_CTRL.REVERT = true → s.outSel ≠ s.rd Reg.HRL_CTRL.PREF → (s.dom (s.rd Reg.HRL_CTRL.PREF)).state = .locked →
    Completes (exec .wtrExpiry s) (fun t => t.outSel = s.rd Reg.HRL_CTRL.PREF ∧ t.outTime = s.outTime)) ∧
  (∀ s : State, s.bit Reg.HRL_CTRL.REVERT = false ∨ s.outSel = s.rd Reg.HRL_CTRL.PREF → exec .wtrExpiry s = .next s)

/-- PPS_IN_EDGE, PPS_MISSED, TOD_MESSAGE_RX, PPS_OUT_EDGE, TOD_OUT_SEND, TS_RECORD_READ, TOD_ANNOUNCE, PON_FREQ_MEASURE, SYNCE_SQUELCH and
SYNCE_RESUME (R378, R380 to R384, R387): an edge takes the second its message named, a bad message names none, a record is read once, an ACTIVE node
is given the first frame of a superframe at least 16 frames ahead, a SyncE output is squelched once. -/
def Obligations.TimePinsAndRecords : Prop :=
  (∀ (i : Fin 2) (s : State), (s.ppsIn i.val).tod = none → Completes (exec (.ppsInEdge i) s) (fun t => (t.ppsIn i.val).edge = some s.now ∧
    (t.ppsIn i.val).run = 0 ∧ (t.ppsIn i.val).sec = none ∧ t.ctr (Cnt.HRL_TOD_ERR i.val) = (s.ctr (Cnt.HRL_TOD_ERR i.val)).add 1 ∧
    t.hrl.domA = s.hrl.domA ∧ t.hrl.domB = s.hrl.domB)) ∧
  (∀ (i : Fin 2) (n : Nat) (s : State), (s.ppsIn i.val).tod = some n → Completes (exec (.ppsInEdge i) s) (fun t => (t.ppsIn i.val).edge = some s.now ∧
    (t.ppsIn i.val).tod = none ∧ (t.ppsIn i.val).sec = some n ∧ t.ctr (Cnt.HRL_PPS_EDGES i.val) = (s.ctr (Cnt.HRL_PPS_EDGES i.val)).add 1)) ∧
  (∀ (i : Fin 2) (s : State), Completes (exec (.ppsMissed i) s) (fun t => t.ppsIn i.val = { s.ppsIn i.val with run := 0 } ∧
    t.ctr (Cnt.HRL_PPS_MISSED i.val) = (s.ctr (Cnt.HRL_PPS_MISSED i.val)).add 1 ∧ t.words = s.words)) ∧
  (∀ (i : Fin 2) (b : List Byte) (s : State), beNat (sliceZ b 0 2) ≠ 0x4E57 ∨ crc16 (sliceZ b 0 14) ≠ beNat (sliceZ b 14 2) →
    Completes (exec (.todMessageRx i b) s) (fun t => t.ppsIn i.val = { s.ppsIn i.val with tod := none } ∧
      t.ctr (Cnt.HRL_TOD_ERR i.val) = (s.ctr (Cnt.HRL_TOD_ERR i.val)).add 1)) ∧
  (∀ (i : Fin 2) (b : List Byte) (e : Nat) (s : State), beNat (sliceZ b 0 2) = 0x4E57 → crc16 (sliceZ b 0 14) = beNat (sliceZ b 14 2) →
    (b.getD 3 0).getLsbD 0 = true → (s.ppsIn i.val).edge = some e → e + 10000000 ≤ s.now → s.now ≤ e + 900000000 →
    exec (.todMessageRx i b) s = .next (s.setPpsIn i.val { s.ppsIn i.val with tod := some (beNat (sliceZ b 4 6)) })) ∧
  (∀ s : State, exec .ppsOutEdge s = .next (if s.bit Reg.HRL_PPS_CFG.OUT_EN = true then { s with hrl := { s.hrl with ppsOut := some s.now } } else s)) ∧
  (∀ s : State, s.bit Reg.HRL_PPS_CFG.OUT_EN = true → Completes (exec .todOutSend s) (fun t => t.hrl.todOut.length = 16 ∧
    beNat (sliceZ t.hrl.todOut 0 2) = 0x4E57 ∧ t.hrl.domA = s.hrl.domA ∧ t.words = s.words)) ∧
  (∀ s : State, s.bit Reg.HRL_PPS_CFG.OUT_EN = false → exec .todOutSend s = .next s) ∧
  (∀ (n : Fin 32) (x : Bool) (s : State), ∀ a, a = (if x = true then Reg.HRL_TS_TX_W0.addr else Reg.HRL_TS_RX_W0.addr) →
    exec (.tsRecordRead (.vf n) x) s = .next ((s.denyAs true (.vf n) .scope a noWin).answer (.vf n) 0#32)) ∧
  (∀ (r : TsRec) (l : List TsRec) (s : State), s.hrl.tsRx = r :: l → Completes (exec (.tsRecordRead .steward false) s) (fun t => t.hrl.tsRx = l ∧
    t.hrl.tsTx = s.hrl.tsTx ∧ Tab.get (fun _ => 0#32) t.rdata Agent.steward.code = BitVec.ofNat 32 (2 ^ 31 + r.lane * 2 ^ 21 + r.mtype * 2 ^ 17 + r.dom * 2 ^ 16 + r.seq))) ∧
  (∀ s : State, s.hrl.tsTx = [] → Completes (exec (.tsRecordRead .pf true) s) (fun t => t.hrl = s.hrl ∧ Tab.get (fun _ => 0#32) t.rdata Agent.pf.code = 0#32)) ∧
  (∀ (p : Fin 32) (i : Fin 256) (s : State), s.bit Reg.HRL_TOD_CFG.EN = true → s.todEn (slotKey p i.val) = true → (s.slot p i.val).state = .active →
    s.stewards p = true → s.annDue p (slotKey p i.val) = true → Completes (exec (.todAnnounce p i) s) (fun t => t.ctr Cnt.HRL_ANNOUNCES = (s.ctr Cnt.HRL_ANNOUNCES).add 1 ∧
      ∃ f, Tab.get (fun _ => (0, 0, 0)) t.hrl.ann (slotKey p i.val) = ((s.port p).sfc, f, s.tSend p f) ∧ f % 8 = 0 ∧ (s.port p).sfc + 16 ≤ f)) ∧
  (∀ (p : Fin 32) (i : Fin 256) (s : State), s.bit Reg.HRL_TOD_CFG.EN = false ∨ (s.slot p i.val).state ≠ .active ∨ s.annDue p (slotKey p i.val) = false → exec (.todAnnounce p i) s = .next s) ∧
  (∀ (y : BitVec 32) (s : State), Completes (exec (.ponFreqMeasure y) s) (fun t => t.rd Reg.HRL_PON_FREQ.Y = y.toNat ∧ t.hrl = s.hrl)) ∧
  (∀ s : State, s.bit Reg.HRL_SYNCE_CFG.EN0 = true → s.hrl.squelch0 = false → Completes (exec (.synceSquelch 0) s) (fun t => t.hrl = { s.hrl with squelch0 := true } ∧
    t.ctr Cnt.HRL_SQUELCHES = (s.ctr Cnt.HRL_SQUELCHES).add 1)) ∧
  (∀ s : State, s.bit Reg.HRL_SYNCE_CFG.EN1 = false ∨ s.hrl.squelch1 = true → exec (.synceSquelch 1) s = .next s) ∧
  (∀ s : State, Completes (exec (.synceResume 0) s) (fun t => if s.bit Reg.HRL_SYNCE_CFG.SQ_FORCE0 = true then t = s
    else t.hrl = { s.hrl with squelch0 := false } ∧ t.ctrs = s.ctrs))

/-- STRAP_LATCH, FAB_CFG_WRITE, LANE_EN_WRITE and the events that bring a lane up and down (R410 to R413, R421, R513): DETECT, TRAIN, LOCK and
EXCHANGE follow each other on the termination, energy, three frames ready and three commas; a lane that fails falls back. -/
def Obligations.LaneBringUp : Prop :=
  (∀ (m : BitVec 16) (s : State), s.boot.released = false ∨ s.shl.latched = true → exec (.strapLatch m) s = .next s) ∧
  (∀ (m : BitVec 16) (s : State), s.boot.released = true → s.shl.latched = false → Completes (exec (.strapLatch m) s) (fun t =>
    t.shl.latched = true ∧ t.rd Reg.GLB_STRAPS.MXP = m.toNat ∧ t.bit Reg.TWN_CFG.EN = m.getLsbD 4 ∧ t.bit Reg.TWN_STATUS.PRIMARY = m.getLsbD 5 ∧
    t.rd Reg.SHL_FAB_CFG.MODE = m.toNat / 64 % 4 ∧ t.bit Reg.SHL_FAB_CFG.MASTER = m.getLsbD 8)) ∧
  (∀ (ag : Agent) (v : Word) (s : State), s.reaches ag Reg.SHL_FAB_CFG.addr = true → Completes (exec (.fabCfgWrite ag v) s) (fun t =>
    if (List.range 16).any (fun n => s.fabLane n && (s.rd Reg.SHL_FAB_CFG.LANES).testBit n) = true then
      t = (s.hostTlp false ag Reg.SHL_FAB_CFG.addr).deny ag .refused Reg.SHL_FAB_CFG.addr noWin
    else t.word Reg.SHL_FAB_CFG.addr = ((s.hostTlp false ag Reg.SHL_FAB_CFG.addr).storeWord ag Reg.SHL_FAB_CFG.addr v).word Reg.SHL_FAB_CFG.addr)) ∧
  (∀ (ag : Agent) (n : Fin 16) (v : Word) (r s : State), s.reaches ag (Reg.SHL_LANE_CFG.addr n.val) = true → s.flt.isolated .lane n.val = false →
    r = (s.hostTlp false ag (Reg.SHL_LANE_CFG.addr n.val)).storeWord ag (Reg.SHL_LANE_CFG.addr n.val) v → Completes (exec (.laneEnWrite ag n v) s) (fun t =>
      if r.bit (Reg.SHL_LANE_CFG.EN n.val) = false then t.laneState n.val = lnOff
      else s.laneState n.val = lnOff → s.bit (Reg.SHL_LANE_CFG.EN n.val) = false → s.shl.latched = false → t.laneState n.val = lnDetect)) ∧
  (∀ (ag : Agent) (n : Fin 16) (v : Word) (r s : State), s.reaches ag (Reg.SHL_LANE_CFG.addr n.val) = true → s.flt.isolated .lane n.val = false →
    r = (s.hostTlp false ag (Reg.SHL_LANE_CFG.addr n.val)).storeWord ag (Reg.SHL_LANE_CFG.addr n.val) (v ||| 0x10000000#32) →
    r.bit (Reg.SHL_LANE_CFG.EN n.val) = true → s.laneUp n.val = true → (s.lane n.val).marks = 0 →
    Completes (exec (.shasolRetrain ag n v) s) (fun t => (t.lane n.val).marks = 4 ∧ t.laneUp n.val = true)) ∧
  (∀ (n : Fin 16) (f : Bool) (s : State), Completes (exec (.rxDetectPulse n f) s) (fun t => if s.laneState n.val = lnDetect ∧ f = true then
    (t.lane n.val).training = true ∧ t.rd (Reg.SHL_LANE_COEF.C_PRE n.val) = (((s.lane n.val).trained).getD (2, 8)).1 % 64 else t = s)) ∧
  (∀ (n : Fin 16) (s : State), Completes (exec (.rxEnergy n) s) (fun t =>
    if s.laneState n.val = lnDetect ∧ (s.lane n.val).training = true then t.laneState n.val = lnTrain else t = s)) ∧
  (∀ (n : Fin 16) (s : State), Completes (exec (.laneEnergyLoss n) s) (fun t =>
    if s.laneState n.val = lnLock ∨ s.laneState n.val = lnExchange ∨ s.laneState n.val = lnActive then t.laneState n.val = lnDetect else t = s)) ∧
  (∀ (n : Fin 16) (w : BitVec 32) (r : BitVec 5) (s : State), s.laneState n.val ≠ lnTrain → exec (.trainingFrameRx n w r) s = .next s) ∧
  (∀ (n : Fin 16) (w : BitVec 32) (r : BitVec 5) (s : State), s.laneState n.val = lnTrain → (s.lane n.val).word ≠ some w → w.getLsbD 15 = false →
    Completes (exec (.trainingFrameRx n w r) s) (fun t => (t.lane n.val).word = some w ∧ t.words = s.words)) ∧
  (∀ (n : Fin 16) (w : BitVec 32) (r : BitVec 5) (s : State), s.laneState n.val = lnTrain → (s.lane n.val).word = some w → w.getLsbD 31 = true →
    w.getLsbD 15 = false → Completes (exec (.trainingFrameRx n w r) s) (fun t => t.rd (Reg.SHL_LANE_COEF.C_PRE n.val) = 2 ∧
      t.rd (Reg.SHL_LANE_COEF.C_POST n.val) = 8 ∧ t.rd (Reg.SHL_LANE_COEF.C_MAIN n.val) = 53 ∧ t.laneState n.val = lnTrain)) ∧
  (∀ (n : Fin 16) (w : BitVec 32) (r : BitVec 5) (g : Nat) (s : State), s.laneState n.val = lnTrain → asksTaps r = false →
    (s.lane n.val).good = some g → g + 100000 ≤ s.now → w.getLsbD 15 = false →
    Completes (exec (.trainingFrameRx n w r) s) (fun t => (t.lane n.val).reply.getLsbD 15 = true ∧ t.laneState n.val = lnTrain)) ∧
  (∀ (n : Fin 16) (w : BitVec 32) (r : BitVec 5) (s : State), s.laneState n.val = lnTrain → (s.lane n.val).reply.getLsbD 15 = true →
    (s.lane n.val).ready = 2 → w.getLsbD 15 = true →
    Completes (exec (.trainingFrameRx n w r) s) (fun t => t.laneState n.val = lnLock)) ∧
  (∀ (n : Fin 16) (s : State), Completes (exec (.trainTimeout n) s) (fun t => if s.laneState n.val = lnTrain then t.laneState n.val = lnDetect ∧
    t.ctr (Cnt.SHL_TRAIN_FAILS n.val) = (s.ctr (Cnt.SHL_TRAIN_FAILS n.val)).add 1 else t = s)) ∧
  (∀ (n : Fin 16) (s : State), exec (.bitLock n) s = .next (if s.laneState n.val = lnLock then s.setLane n.val { s.lane n.val with bitLock := true } else s)) ∧
  (∀ (n : Fin 16) (s : State), Completes (exec (.bitLockLost n) s) (fun t => (t.lane n.val).bitLock = false ∧
    (s.laneState n.val = lnLock → (t.lane n.val).commas = 0) ∧ t.words = s.words)) ∧
  (∀ (n : Fin 16) (s : State), s.laneUp n.val = true → Completes (exec (.commaMissing n) s) (fun t =>
    if (s.lane n.val).miss = 0 then (t.lane n.val).miss = 1 ∧ t.laneUp n.val = true
    else t.laneState n.val = lnLock ∧ t.ctr (Cnt.SHL_LANE_DOWNS n.val) = (s.ctr (Cnt.SHL_LANE_DOWNS n.val)).add 1)) ∧
  (∀ (n : Fin 16) (a b : Nat) (s : State), s.laneState n.val = lnLock → (s.lane n.val).bitLock = true → (s.lane n.val).commas = 2 → s.shl.latched = true →
    Completes (exec (.commaRx n 0xB2#8 true a b) s) (fun t => t.laneState n.val = lnExchange ∧ (t.lane n.val).peer = none ∧
      t.ctr (Cnt.SHL_TILES_RX n.val) = (s.ctr (Cnt.SHL_TILES_RX n.val)).add 1 ∧ t.ctr (Cnt.SHL_STUFF_BITS n.val) = (s.ctr (Cnt.SHL_STUFF_BITS n.val)).add a)) ∧
  (∀ (n : Fin 16) (a b : Nat) (s : State), s.laneUp n.val = true → Completes (exec (.commaRx n 0xCD#8 true a b) s) (fun t => t.laneState n.val = lnTrain ∧
    t.ctr (Cnt.SHL_LANE_DOWNS n.val) = (s.ctr (Cnt.SHL_LANE_DOWNS n.val)).add 1)) ∧
  (∀ (n : Fin 16) (s : State), Completes (exec (.lockTimeout n) s) (fun t =>
    if s.laneState n.val = lnLock ∧ (s.shl.latched = true ∨ (s.lane n.val).commas < 3) then t.laneState n.val = lnTrain else t = s))

/-- CAP_RX, MISMATCH_HOLD_EXPIRY, EXCHANGE_TIMEOUT, TILE_START, SESS_OFFER, SESS_ANSWER, SESS_OFFER_TIMEOUT and MARGIN_SAMPLE (R397, R406 to R408,
R411, R414, R415): a compatible CAP acknowledged makes the lane ACTIVE, an incompatible one holds it; an offer answered seals the lane under a fresh
key with its counter at 0; the third offer unanswered returns it to EXCHANGE. -/
def Obligations.LaneSessions : Prop :=
  (∀ (n : Fin 16) (c : Cap) (s : State), s.laneState n.val = lnExchange → (s.lane n.val).mismatch = false → s.compatible n.val c = true →
    Completes (exec (.capRx n c) s) (fun t => t.laneState n.val = (if c.ack = true then lnActive else lnExchange) ∧ (t.lane n.val).peer = some c ∧
      t.rd (Reg.SHL_LANE_STATUS.PARTNER_LANE n.val) = c.lane % 16)) ∧
  (∀ (n : Fin 16) (c : Cap) (s : State), s.laneState n.val = lnExchange → (s.lane n.val).mismatch = false → s.compatible n.val c = false →
    Completes (exec (.capRx n c) s) (fun t => t.laneState n.val = lnExchange ∧ (t.lane n.val).mismatch = true ∧ t.ctrs = s.ctrs)) ∧
  (∀ (n : Fin 16) (c : Cap) (s : State), s.laneState n.val ≠ lnExchange → s.laneUp n.val = false → exec (.capRx n c) s = .next s) ∧
  (∀ (n : Fin 16) (s : State), Completes (exec (.mismatchHoldExpiry n) s) (fun t =>
    if s.laneState n.val = lnExchange ∧ (s.lane n.val).mismatch = true then t.laneState n.val = lnDetect else t = s)) ∧
  (∀ (n : Fin 16) (s : State), Completes (exec (.exchangeTimeout n) s) (fun t =>
    if s.laneState n.val = lnExchange ∧ (s.lane n.val).mismatch = false then t.laneState n.val = lnLock else t = s)) ∧
  (∀ (n : Fin 16) (s : State), s.laneState n.val = lnExchange → (s.lane n.val).mismatch = false → (s.lane n.val).ctl = [] →
    exec (.tileStart n) s = .next ((s.linkCtl n.val (.cap (s.lane n.val).peer.isSome (s.lane n.val).nonce)).startTile n.val 0xB2#8)) ∧
  (∀ (n : Fin 16) (s : State), s.laneState n.val = lnLock → Completes (exec (.tileStart n) s) (fun t =>
    (t.lane n.val).tile = some (0xB2#8, (fillTile (s.lane n.val).out).1) ∧ (t.lane n.val).out = (fillTile (s.lane n.val).out).2)) ∧
  (∀ (n : Fin 16) (s : State), s.laneUp n.val = true → 2 ≤ (s.lane n.val).marks → Completes (exec (.tileStart n) s) (fun t =>
    (t.lane n.val).tile = some (0xCD#8, (fillTile (s.lane n.val).out).1) ∧ (t.lane n.val).marks = (s.lane n.val).marks - 1)) ∧
  (∀ (n : Fin 16) (s : State), s.laneUp n.val = true → (s.lane n.val).marks = 1 → Completes (exec (.tileStart n) s) (fun t => t.laneState n.val = lnTrain)) ∧
  (∀ (n : Fin 16) (x : BitVec 64) (c : Cap) (s : State), s.laneUp n.val = true → (s.lane n.val).peer = some c → (s.sealBits n.val).1 = true →
    (s.lane n.val).offer = none → Completes (exec (.sessOffer n x) s) (fun t => t.words = s.words ∧ (t.lane n.val).tx = (s.lane n.val).tx ∧
      ∃ y, (t.lane n.val).ctl = (s.lane n.val).ctl ++ [.answer y x.toNat])) ∧
  (∀ (n : Fin 16) (y x : Nat) (l : List LinkCtl) (c : Cap) (s : State), s.laneUp n.val = true → (s.lane n.val).peer = some c →
    (s.lane n.val).ctl = .answer y x :: l → Completes (exec (.shasolMessageTx n 0) s) (fun t => t.bit (Reg.SHL_LANE_STATUS.SEALED n.val) = true ∧
      (t.lane n.val).ctl = l ∧ (t.lane n.val).tx = some (s.session n.val c y x) ∧ (t.lane n.val).txCtr = 0 ∧ (t.lane n.val).rxNew = (t.lane n.val).tx ∧ (t.lane n.val).rx = (s.lane n.val).rx ∧
      t.bit (Reg.SHL_LANE_STATUS.TX_PHASE n.val) = !s.bit (Reg.SHL_LANE_STATUS.TX_PHASE n.val))) ∧
  (∀ (n : Fin 16) (x : BitVec 64) (s : State), s.laneUp n.val = false → exec (.sessOffer n x) s = .next s ∧ exec (.sessAnswer n x) s = .next s ∧
    exec (.sessOfferTimeout n) s = .next s) ∧
  (∀ (n : Fin 16) (x : BitVec 64) (c : Cap) (o : Nat × Nat) (s : State), s.laneUp n.val = true → (s.lane n.val).peer = some c → (s.lane n.val).offer = some o →
    Completes (exec (.sessAnswer n x) s) (fun t => (t.lane n.val).tx = some (s.session n.val c o.1 x.toNat) ∧ (t.lane n.val).txCtr = 0 ∧
      (t.lane n.val).offer = none ∧ t.bit (Reg.SHL_LANE_STATUS.SEALED n.val) = true ∧ t.ctr Cnt.KEY_GCM_SESSIONS = (s.ctr Cnt.KEY_GCM_SESSIONS).add 1)) ∧
  (∀ (n : Fin 16) (o : Nat × Nat) (s : State), s.laneUp n.val = true → (s.lane n.val).offer = some o → Completes (exec (.sessOfferTimeout n) s) (fun t =>
    if o.2 < 3 then (t.lane n.val).offer = some (o.1, o.2 + 1) ∧ t.words = s.words
    else t.laneState n.val = lnExchange ∧ t.bit (Reg.SHL_LANE_STATUS.SEALED n.val) = false)) ∧
  (∀ (n : Fin 16) (m : BitVec 8) (i : Bool) (s : State), s.laneUp n.val = false →
    Completes (exec (.marginSample n m i) s) (fun t => t.rd (Reg.SHL_LANE_STATUS.MARGIN n.val) = m.toNat ∧ t.ctrs = s.ctrs ∧
      (t.lane n.val).good = if s.rd (Reg.SHL_LANE_CFG.SNAP_MARGIN n.val) ≤ m.toNat then some ((s.lane n.val).good.getD s.now) else none)) ∧
  (∀ (n : Fin 16) (m : BitVec 8) (i : Bool) (s : State), s.laneUp n.val = true → s.rd (Reg.SHL_LANE_CFG.REVERT_MARGIN n.val) ≤ m.toNat →
    Completes (exec (.marginSample n m i) s) (fun t => t.rd (Reg.SHL_LANE_STATUS.MARGIN n.val) = m.toNat ∧ t.laneUp n.val = true ∧ (t.lane n.val).below = none))

/-- ULK_CFG_WRITE, ULK_RETRAIN, ULK_LINK_CHANGE, GEN_EN_WRITE, INJ_GO, CHECKER_LOCK and CHECKER_LOCK_LOST (R394, R395, R416 to R418): ports that
would overlap are refused; a port that trains afresh is down; a pattern on a lane takes it out of service; a checker counts what it compares while it
is locked. -/
def Obligations.UplinkPortsAndLaneTest : Prop :=
  (∀ (ag : Agent) (n : Fin 24) (v : Word) (r s : State), s.reaches ag (Reg.ULK_CFG.addr n.val) = true → s.flt.isolated .uplink n.val = false →
    r = (s.hostTlp false ag (Reg.ULK_CFG.addr n.val)).storeWord ag (Reg.ULK_CFG.addr n.val) v → Completes (exec (.ulkCfgWrite ag n v) s) (fun t =>
      if r.ulkOverlap n.val = true then t = (s.hostTlp false ag (Reg.ULK_CFG.addr n.val)).deny ag .refused (Reg.ULK_CFG.addr n.val) noWin
      else t.ulkPort n.val = r.ulkPort n.val ∧ ∀ m : Fin 24, t.rd (Reg.ULK_STATUS.LEADER m.val) = r.ulkLeader m.val)) ∧
  (∀ (ag : Agent) (n : Fin 24) (v : Word) (r s : State), s.reaches ag (Reg.ULK_CFG.addr n.val) = true → s.flt.isolated .uplink n.val = false →
    r = (s.hostTlp false ag (Reg.ULK_CFG.addr n.val)).storeWord ag (Reg.ULK_CFG.addr n.val) (v ||| 0x00800000#32) → r.ulkOverlap n.val = false →
    (r.ulkPort n.val).isSome = true → Completes (exec (.ulkRetrain ag n v) s) (fun t => t.bit (Reg.ULK_STATUS.LINK_UP n.val) = false ∧
      t.bit (Reg.ULK_STATUS.AN_DONE n.val) = false ∧ t.bit (Reg.ULK_STATUS.LT_DONE n.val) = false)) ∧
  (∀ (n : Fin 24) (c : Fin 4) (a l x y : Bool) (s : State), (s.ulkPort n.val).isSome = true → s.ulkTesting n.val = false →
    s.flt.isolated .uplink n.val = false → Completes (exec (.ulkLinkChange n true c a l x y) s) (fun t => t.bit (Reg.ULK_STATUS.LINK_UP n.val) = true ∧
      t.bit (Reg.ULK_STATUS.AN_DONE n.val) = a ∧ t.bit (Reg.ULK_STATUS.REMOTE_FAULT n.val) = y ∧ t.ctrs = s.ctrs)) ∧
  (∀ (n : Fin 24) (c : Fin 4) (a l x y : Bool) (s : State), s.bit (Reg.ULK_STATUS.LINK_UP n.val) = true →
    Completes (exec (.ulkLinkChange n false c a l x y) s) (fun t => t.bit (Reg.ULK_STATUS.LINK_UP n.val) = false ∧
      t.ctr (Cnt.ULK_LINK_DOWNS n.val) = (s.ctr (Cnt.ULK_LINK_DOWNS n.val)).add 1)) ∧
  (∀ (ag : Agent) (n : Fin 16) (v : Word) (r s : State), s.reaches ag (laneBase (.shl n)) = true →
    r = (s.hostTlp false ag (laneBase (.shl n))).storeWord ag (laneBase (.shl n)) (putField v 16 6 (max 4 (min 40 ((v.extractLsb' 16 6).toNat)))) →
    s.bit (laneFld (.shl n) 0 31 1) = false → r.bit (laneFld (.shl n) 0 31 1) = true → s.laneState n.val ≠ lnOff →
    Completes (exec (.genEnWrite ag (.shl n) v) s) (fun t => t.laneState n.val = lnTest)) ∧
  (∀ (ag : Agent) (b : LaneBlock) (v w : Word) (r s : State), s.reaches ag (laneBase b) = true → w = v ||| 0x00800000#32 →
    r = ((s.hostTlp false ag (laneBase b)).settleInj (laneBase b)).storeWord ag (laneBase b) (putField w 16 6 (max 4 (min 40 ((w.extractLsb' 16 6).toNat)))) →
    s.bit (laneFld b 0 31 1) = r.bit (laneFld b 0 31 1) → r.bit (laneFld b 4 29 1) = false → r.rd (laneFld b 0 24 2) = 1 →
    Completes (exec (.injGo ag b v) s) (fun t => t.ctr (laneBase b + 0x18) = (r.ctr (laneBase b + 0x18)).add 1)) ∧
  (∀ (b : LaneBlock) (l : List Bool) (s : State), s.chkOn b = false → exec (.checkerLock b l) s = .next s ∧ exec (.checkerLockLost b l) s = .next s) ∧
  (∀ (b : LaneBlock) (k : Nat) (g : BitVec 31) (s : State), s.chkOn b = true → s.chk b = Chk.zero → s.bit (laneFld b 4 31 1) = false →
    Completes (exec (.checkerLock b (prbsBits (prbsTaps (s.rd (laneFld b 0 27 3))) (s.bit (laneFld b 0 26 1))
      ((prbsTaps (s.rd (laneFld b 0 27 3))).1 + 64 + k) g)) s) (fun t => t.bit (laneFld b 4 31 1) = true ∧
      t.ctr (laneBase b + 8) = (s.ctr (laneBase b + 8)).add k ∧ t.ctr (laneBase b + 0x10) = (s.ctr (laneBase b + 0x10)).add 0)) ∧
  (∀ (b : LaneBlock) (s : State), s.chkOn b = true → s.bit (laneFld b 4 31 1) = true → ((s.chk b).win.take 127).count true = 32 →
    Completes (exec (.checkerLockLost b [xor (s.bit (laneFld b 0 26 1)) (!prbsNext (prbsTaps (s.rd (laneFld b 0 27 3))) (s.chk b).reg)]) s) (fun t =>
      t.bit (laneFld b 4 31 1) = false ∧ t.bit (laneFld b 4 30 1) = true ∧ t.ctr (laneBase b + 0x10) = (s.ctr (laneBase b + 0x10)).add 1 ∧
      t.chk b = Chk.zero))

/-- The line coding of a lane (R396 to R400, R402, R403): destuffing gives back the bits that were stuffed and finds no error, descrambling those
that were scrambled, and no run of 9 equal bits is sent; a tile has 4,096 blocks, which are those that waited and FILL; the blocks a message is sent
as are received as that message, whole and without an error. -/
def Obligations.LineCoding : Prop :=
  (∀ (l : List Bool) (n : Nat) (v : Bool), n ≤ 8 → destuff (stuff l n v) n v = (l, 0)) ∧
  (∀ (l : List Bool) (r : BitVec 31), scramble (scramble l r) r = l) ∧
  (∀ (l a b : List Bool) (v : Bool), stuff l 0 false ≠ a ++ List.replicate 9 v ++ b) ∧
  (∀ l : List Block, fillBlk ∉ l → (tileBlocks (fillTile l).1).length = 4096 ∧
    (tileBlocks (fillTile l).1).filter (fun b => b != fillBlk) ++ (fillTile l).2 = l) ∧
  (∀ (c d a : BitVec 8) (e f : Bool) (pay tag : List Byte) (r : LinkRx), 1 ≤ pay.length → pay.length ≤ 65536 →
    tag.length = (if e = true then 16 else 0) → r = ⟨msgBlocks (linkHead c.toNat e f pay.length d.toNat a.toNat) pay tag, false⟩ →
    r.crcOk = true ∧ r.countOk = true ∧ r.errored = false ∧ r.cut = false ∧ r.abort = false ∧
    r.chan = c ∧ r.sealed_ = e ∧ r.phase = f ∧ r.len = pay.length ∧ r.bytes.take pay.length = pay)

/-- HELLO_SEND, HELLO, NEIGHBOUR_TIMEOUT, LSA, LSA_REFRESH, LSA_EXPIRY, ADDRESS_SETTLE, ROUTE_RECOMPUTE and MASTER_LOST_TIMEOUT (R424 to R430, R438):
a HELLO makes a neighbour live, a newer LSA replaces the one held, a device that knows it is first of those without an address takes the lowest free
one, a lost neighbour's lane leaves every route. PACKET and BINDING_WRITE (R15, R434, R435, R440, R510): a packet of another version, of a wrong
length or before stage S3 is dropped and counted, one whose TTL is spent leaves no copy; a transit queue has no remote binding. -/
def Obligations.FabricControlAndPackets : Prop :=
  ((∀ s : State, exec .helloSend s = .next (if s.flt.safe = true then s else s.flood s.fabLanes .hello)) ∧
  (∀ (n : Fin 16) (a : BitVec 8) (l : Fin 16) (x : BitVec 64) (s : State), s.fabLane n.val = false → exec (.hello n a l x) s = .next s) ∧
  (∀ (n : Fin 16) (a : BitVec 8) (l : Fin 16) (x : BitVec 64) (s : State), s.fabLane n.val = true → Completes (exec (.hello n a l x) s) (fun t =>
    t.nbr n.val = some ⟨x.toNat, l.val, a.toNat⟩ ∧ (∀ m, m ≠ n.val → t.nbr m = s.nbr m))) ∧
  (∀ (n : Fin 16) (s : State), s.nbr n.val = none → exec (.neighbourTimeout n) s = .next s) ∧
  (∀ (n : Fin 16) (b : Nbr) (s : State), s.nbr n.val = some b → Completes (exec (.neighbourTimeout n) s) (fun t => t.nbr n.val = none ∧
    (t.rd Reg.SHL_FAB_STATUS.NBR_LANES).testBit n.val = false ∧ ∀ d : Fin 64, (t.rd (Reg.SHL_ROUTE.LANES d.val)).testBit n.val = false)) ∧
  (∀ (n : Fin 16) (l : Lsa) (s : State), s.fabLane n.val = true → s.lsaOf l.serial = none → l.serial ≠ Config.serial → s.ownAddr ≠ some l.addr →
    Completes (exec (.lsa n l) s) (fun t => t.lsaOf l.serial = some l ∧ t.ctr Cnt.FAB_LSA_KEPT = (s.ctr Cnt.FAB_LSA_KEPT).add 1 ∧
      (t.lane n.val).fab = (s.lane n.val).fab)) ∧
  (∀ (n : Fin 16) (l o : Lsa) (s : State), s.lsaOf l.serial = some o → l.seq ≤ o.seq → exec (.lsa n l) s = .next s) ∧
  (∀ s : State, s.fabMode = 0 → exec .lsaRefresh s = .next s) ∧
  (∀ (o : Lsa) (s : State), s.fabMode ≠ 0 → s.lsaOf Config.serial = some o → Completes (exec .lsaRefresh s) (fun t =>
    (t.lsaOf Config.serial).map Lsa.seq = some ((o.seq + 1) % 2 ^ 32) ∧ t.ctr Cnt.FAB_LSA_SENT = (s.ctr Cnt.FAB_LSA_SENT).add 1)) ∧
  (∀ (x : BitVec 64) (s : State), Completes (exec (.lsaExpiry x) s) (fun t => t.lsaOf x.toNat = none ∧ (∀ y, y ≠ x.toNat → t.lsaOf y = s.lsaOf y) ∧
    t.ctrs = s.ctrs)) ∧
  (∀ s : State, s.fabMode = 0 ∨ s.ownAddr.isSome = true ∨ s.bit Reg.SHL_FAB_CFG.ADDR_FIXED = true → exec .addressSettle s = .next s) ∧
  (∀ s : State, s.fabMode = 2 → s.ownAddr = none → s.bit Reg.SHL_FAB_CFG.ADDR_FIXED = false → s.held = [] →
    Completes (exec .addressSettle s) (fun t => t.ownAddr = some 0)) ∧
  (∀ s : State, Completes (exec .routeRecompute s) (fun t => ∀ d : Fin 64,
    t.word (Reg.SHL_ROUTE.addr d.val) = if s.ownAddr = some d.val then 0x40000000#32 else routeWord (s.routeTo d.val))) ∧
  (∀ s : State, s.fabMode = 1 → s.bit Reg.SHL_FAB_CFG.MASTER = false → s.masterRoute = false → Completes (exec .masterLostTimeout s) (fun t =>
    t.bit Reg.SHL_FAB_STATUS.MASTER_SEEN = false ∧ t.ctrs = s.ctrs)) ∧
  (∀ s : State, s.fabMode ≠ 1 ∨ s.masterRoute = true → exec .masterLostTimeout s = .next s)) ∧
  ((∀ (n : Fin 16) (b : List Byte) (f : Bool) (s : State), s.fabLane n.val = false ∨ s.flt.safe = true → exec (.packet n b f) s = .next s) ∧
  (∀ (n : Fin 16) (b : List Byte) (f : Bool) (s : State), s.fabLane n.val = true → s.flt.safe = false → s.stage < 3 →
    exec (.packet n b f) s = .next (s.inc Cnt.BOOT_STAGE_DROP)) ∧
  (∀ (n : Fin 16) (b : List Byte) (f : Bool) (s : State), s.fabLane n.val = true → s.flt.safe = false → 3 ≤ s.stage →
    (b.getD 0 0#8).toNat / 64 ≠ 1 ∨ b.length < 72 ∨ 16395 < b.length → exec (.packet n b f) s = .next (s.inc Cnt.FAB_BAD_DEST_DROP)) ∧
  (∀ (n : Fin 16) (b : List Byte) (s : State), s.fabLane n.val = true → s.flt.safe = false → 3 ≤ s.stage → (b.getD 0 0#8).toNat / 64 = 1 →
    72 ≤ b.length → b.length ≤ 16395 → exec (.packet n b true) s = .next (s.overrun (srcLane n.val) 0)) ∧
  (∀ (n : Fin 16) (b : List Byte) (s : State), s.fabLane n.val = true → s.flt.safe = false → 3 ≤ s.stage → (b.getD 0 0#8).toNat / 64 = 1 →
    72 ≤ b.length → b.length ≤ 16395 → s.ownAddr ≠ some ((b.getD 1 0#8).toNat % 64) → (b.getD 0 0#8).toNat % 64 ≤ 1 →
    (s.newBuf ((b.getD 3 0#8).toNat / 32) (b.length - 12) (b.drop 12)).2.isSome = true →
    Completes (exec (.packet n b false) s) (fun t => t.ctr Cnt.FAB_TTL_DROP = (s.ctr Cnt.FAB_TTL_DROP).add 1 ∧ t.cpg.queues = s.cpg.queues ∧
      t.cpg.egress = s.cpg.egress)) ∧
  (∀ (ag : Agent) (q : Fin 8192) (v : Word) (s : State), s.reachesWin ag wShl = true → exec (.bindingWrite ag q v) s = .next (
    if 8064 ≤ q.val then s.deny ag .refused q.val wShl else s.putWord (winKey wShl q.val 0) (v &&& 0xFF00FFFF#32))))

/-- FAULT_MESSAGE_RX, FLT_MSG_LOST, SAFE_STATE_ENTRY, FILTER_WINDOW_END, HANDSHAKE_STALL and FAULT_QUEUE_READ (R445 to R448, R456, R457, R461, R463,
R464, R466): a message reaches Bellman in order and is recorded; copies that disagree raise FLT_INTERNAL, and a fatal output of either is safe state;
a driven fatal line is safe state; the queue is read oldest first. -/
def Obligations.FaultMessages : Prop :=
  (∀ (b : Nat) (d : Option (BitVec 8 × Bool)) (s : State), s.box b = [] → exec (.faultMessageRx b d) s = .next s) ∧
  (∀ (b : Nat) (m : Msg) (r : List Msg) (s : State), s.box b = m :: r → Completes (exec (.faultMessageRx b none) s) (fun t =>
    (t.kindSt m.kind.code).status = true ∧ (t.kindSt m.kind.code).count = min 65535 ((s.kindSt m.kind.code).count + 1))) ∧
  (∀ (b : Nat) (m : Msg) (r : List Msg) (s : State), s.box b = m :: r → m.severe = false → (s.kindConf m.kind.code).fatal = true →
    s.flt.queue.length < 64 → Completes (exec (.faultMessageRx b none) s) (fun t => t.flt.safe = true ∧ t.flt.queue.length = s.flt.queue.length + 1)) ∧
  (∀ (b : Nat) (f : BitVec 8) (m : Msg) (r : List Msg) (u s : State), s.box b = m :: r → exec (.faultMessageRx b none) s = .next u →
    exec (.faultMessageRx b (some (f, false))) s = .next (u.raise .FLT_INTERNAL ⟨.FLT, 0⟩ f.toNat)) ∧
  (∀ (b : Nat) (f : BitVec 8) (m : Msg) (r : List Msg) (s : State), s.box b = m :: r → Completes (exec (.faultMessageRx b (some (f, true))) s)
    (fun t => t.flt.safe = true)) ∧
  (∀ (b : Nat) (s : State), (Tab.get (fun _ => (0, 0)) s.flt.lost b).1 = 0 ∨ outboxSize ≤ (s.box b).length → exec (.fltMsgLost b) s = .next s) ∧
  (∀ (b n c : Nat) (x : Source) (s : State), boxSource b = some x → Tab.get (fun _ => (0, 0)) s.flt.lost b = (n, c) → n ≠ 0 → (s.box b).length < outboxSize →
    exec (.fltMsgLost b) s = .next (({ s with flt := { s.flt with lost := Tab.set (fun _ => (0, 0)) s.flt.lost b (0, 0) } } : State).raise .FLT_MSG_LOST x
      (c * 65536 + min 65535 n))) ∧
  (∀ s : State, Completes (exec .safeStateEntry s) (fun t => if s.flt.fatalLine = true then t.flt.safe = true ∧
    (s.flt.safe = false → t.ctr Cnt.FLT_SAFE_ENTRIES = (s.ctr Cnt.FLT_SAFE_ENTRIES).add 1 ∧ t.words = s.words ∧
      ∀ p : Fin 32, (t.side p 0).sending = false ∧ (t.side p 1).sending = false) else t = s)) ∧
  (∀ (k : Kind) (x : Source) (s : State), Completes (exec (.filterWindowEnd k x) s) (fun t =>
    (Tab.get (fun _ => FilterSt.idle) t.flt.filters (filterKey k x)).open_ = none ∧ t.words = s.words ∧ t.ctrs = s.ctrs)) ∧
  (∀ (x : Source) (g : BitVec 16) (s : State), exec (.handshakeStall x g) s = .next (s.raise .HANDSHAKE_STALL x g.toNat)) ∧
  (∀ (n : Fin 32) (s : State), exec (.faultQueueRead (.vf n)) s =
    .next ((s.denyAs true (.vf n) .scope Reg.FLT_QUEUE_W0.addr noWin).answer (.vf n) 0#32)) ∧
  (∀ (m : Msg) (r : List Msg) (s : State), s.flt.queue = m :: r → Completes (exec (.faultQueueRead .pf) s) (fun t => t.flt = { s.flt with queue := r } ∧
    Tab.get (fun _ => 0#32) t.rdata Agent.pf.code = m.word 0 ∧ t.latch.word Reg.FLT_QUEUE_W1.addr = m.word 1)) ∧
  (∀ s : State, s.flt.queue = [] → Completes (exec (.faultQueueRead .steward) s) (fun t => t.flt = s.flt ∧
    Tab.get (fun _ => 0#32) t.rdata Agent.steward.code = 0#32))

/-- KIND_CFG_WRITE, KIND_STATUS_CLEAR, ISO_RESTORE, SAFE_EXIT, CAPTURE_CLR, AUTO_RESTART and RESTART_AGE_OUT (R456, R460, R461, R463, R468, R469,
R503): a status whose cause stands is not cleared; a unit is restored only once the kinds that isolated it are clear; safe state is left by a warm
reset, and not while a FATAL kind's status is set. -/
def Obligations.FaultCommands : Prop :=
  (∀ (ag : Agent) (k : Fin 256) (v : Word) (s : State), s.reaches ag (Reg.FLT_KIND_W0.addr k.val) = true → Completes (exec (.kindCfgWrite ag k v) s) (fun t =>
    t.word (Reg.FLT_KIND_W0.addr k.val) = ((s.hostTlp false ag (Reg.FLT_KIND_W0.addr k.val)).storeWord ag (Reg.FLT_KIND_W0.addr k.val)
      (if hasUnit k.val then v else v &&& 0xEDFFFFFF#32)).word (Reg.FLT_KIND_W0.addr k.val) ∧ t.flt.kinds = s.flt.kinds)) ∧
  (∀ (ag : Agent) (k : Fin 256) (v : Word) (s : State), s.reaches ag (Reg.FLT_KIND_W1.addr k.val) = true → v.getLsbD 31 = true → s.causeActive k.val = true →
    Completes (exec (.kindStatusClear ag k v) s) (fun t => t.flt = s.flt ∧
      t.ctr Cnt.FLT_CLEAR_REFUSED = (s.ctr Cnt.FLT_CLEAR_REFUSED).add 1)) ∧
  (∀ (ag : Agent) (k : Fin 256) (v : Word) (s : State), s.reaches ag (Reg.FLT_KIND_W1.addr k.val) = true → v.getLsbD 31 = true → s.causeActive k.val = false →
    Completes (exec (.kindStatusClear ag k v) s) (fun t => t.kindSt k.val = KindSt.clear ∧ (∀ j, j ≠ k.val → t.kindSt j = s.kindSt j) ∧ t.ctrs = s.ctrs)) ∧
  (∀ (ag : Agent) (v : Word) (u : IsoUnit) (m : Nat) (s : State), s.reaches ag Reg.FLT_ISO_CMD.addr = true → fldOf v Reg.FLT_ISO_CMD.OP = 1 →
    isoUnits[fldOf v Reg.FLT_ISO_CMD.UNIT]? = some (u, m) → fldOf v Reg.FLT_ISO_CMD.NUMBER < m → u ≠ .bank → Completes (exec (.isoRestore ag v) s) (fun t =>
      t.rd Reg.FLT_ISO_STATUS.CODE = s.restoreCode u (fldOf v Reg.FLT_ISO_CMD.NUMBER) ∧
      if s.restoreCode u (fldOf v Reg.FLT_ISO_CMD.NUMBER) = 0 then t.flt.isolated u (fldOf v Reg.FLT_ISO_CMD.NUMBER) = false else t.flt = s.flt)) ∧
  (∀ (ag : Agent) (v : Word) (s : State), s.reaches ag Reg.FLT_ISO_CMD.addr = true → fldOf v Reg.FLT_ISO_CMD.OP ≠ 1 →
    exec (.isoRestore ag v) s = .next (s.hostTlp false ag Reg.FLT_ISO_CMD.addr)) ∧
  (∀ (ag : Agent) (v : Word) (s : State), s.reaches ag Reg.FLT_CTRL.addr = true → s.flt.safe = true → (∀ k, (s.kindSt k).status = false) →
    Completes (exec (.safeExit ag v) s) (fun t => t.flt.safe = false ∧ t.flt.queue = s.flt.queue ∧ t.flt.kinds = s.flt.kinds ∧ t.ldg = Ldg.reset ∧
      t.keys = Keys.reset ∧ t.act = State.reset.act ∧ t.now = s.now ∧ t.pending = s.pending)) ∧
  (∀ (ag : Agent) (v : Word) (s : State), s.reaches ag Reg.FLT_CTRL.addr = true → Completes (exec (.captureClr ag v) s) (fun t =>
    t.flt.first0 = none ∧ t.flt.first1 = none ∧ t.flt.first2 = none ∧ t.flt.queue = s.flt.queue ∧ t.flt.safe = s.flt.safe)) ∧
  (∀ s : State, s.flt.safe = false ∨ s.bit Reg.FLT_CTRL.AUTO_RESTART = false ∨ s.flt.restartLimit = true → exec .autoRestart s = .next s) ∧
  (∀ s : State, s.flt.safe = true → s.bit Reg.FLT_CTRL.AUTO_RESTART = true → s.flt.restartLimit = false →
    s.fatalKinds.any (fun k => s.causeActive k) = false → s.flt.restarts + 1 ≤ s.rd Reg.FLT_CTRL.RESTART_MAX →
    Completes (exec .autoRestart s) (fun t => t.flt.safe = false ∧ t.flt.restarts = s.flt.restarts + 1 ∧ t.now = s.now)) ∧
  (∀ s : State, exec .restartAgeOut s = .next { s with flt := { s.flt with restarts := s.flt.restarts - 1 } })

/-- ANALOG_CAUSE_ONSET, ANALOG_CAUSE_END and TEMP_SAMPLE (R329, R452, R461): an alarm's onset erases every key once; a cause seen again says nothing;
a temperature stands in its register, and its cause ends 3 degrees inside the threshold. -/
def Obligations.AnalogMonitor : Prop :=
  (∀ (c : AnalogCause) (s : State), s.flt.active (anaWhat c).1 (srcAna (anaWhat c).2) 0 = true → exec (.analogCauseOnset c) s = .next s) ∧
  (∀ (n : Fin 4) (s : State), s.flt.active .TAMPER (srcAna n.val) 0 = false → s.bit Reg.KEY_STATUS.ERASED = false →
    Completes (exec (.analogCauseOnset (.tamper n)) s) (fun t => t.bit Reg.KEY_STATUS.ERASED = true ∧ t.bit Reg.KEY_STATUS.TAMPER = true ∧
      (∀ k, t.root k = Root.empty) ∧ t.ctr Cnt.KEY_ERASURES = (s.ctr Cnt.KEY_ERASURES).add 1)) ∧
  (∀ (c : AnalogCause) (s : State), Completes (exec (.analogCauseEnd c) s) (fun t => t.flt.active (anaWhat c).1 (srcAna (anaWhat c).2) 0 = false ∧
    t.keys = s.keys ∧ t.ctrs = s.ctrs)) ∧
  (∀ (i : Fin 16) (x : BitVec 8) (s : State), Completes (exec (.tempSample i x) s) (fun t => Tab.get (fun _ => 0) t.pon.temps i.val = x.toNat ∧
    (x.toNat < s.rd Reg.FLT_TEMP_CFG.HIGH → s.rd Reg.FLT_TEMP_CFG.LOW < x.toNat → t.keys = s.keys)))

/-- STEWARD_WDOG and Warden's tests GOLDEN_PASS_DONE, SRAM_SLICE_TEST, LEDGER_SLICE_TEST, BUFFER_AUDIT, EYE_SCAN, WARDEN_FORCE_START and WDN_LATE
(R453, R470, R473, R475, R532): each counts what it went over only while it is enabled; a buffer named nowhere in two audits is freed. -/
def Obligations.WardenTests : Prop :=
  (∀ (c : Fin 4) (pc : BitVec 32) (s : State), s.boot.fwSwitch = none → s.boot.wdogs = [] → Completes (exec (.stewardWdog c pc) s) (fun t =>
    t.ctr Cnt.BOOT_STW_RESTARTS = (s.ctr Cnt.BOOT_STW_RESTARTS).add 1 ∧ t.boot.wdogs = [s.now] ∧ t.words = s.words ∧ t.stw.paused = true)) ∧
  (∀ (id : Nat) (s : State), s.wdn.tests.find? (fun t => t.id == id) = none → exec (.goldenPassDone id) s = .next s) ∧
  (∀ (id : Nat) (x : GoldenTest) (s : State), s.wdn.tests.find? (fun t => t.id == id) = some x → s.testRuns id = true → exec (.goldenPassDone id) s = .next s) ∧
  (∀ (id : Nat) (x : GoldenTest) (s : State), s.wdn.tests.find? (fun t => t.id == id) = some x → s.testRuns id = false → s.resultOf id x.under = none →
    Completes (exec (.goldenPassDone id) s) (fun t => (∀ y ∈ t.wdn.tests, y.id ≠ id) ∧
      t.ctr Cnt.WDN_GOLDEN_PASSES = (s.ctr Cnt.WDN_GOLDEN_PASSES).add (x.refs.length + 1) ∧
      t.ctr Cnt.WDN_GOLDEN_INCONCLUSIVE = (s.ctr Cnt.WDN_GOLDEN_INCONCLUSIVE).add 1)) ∧
  (∀ (x : Source) (n : Nat) (b : Option SliceFault) (w : Bool) (s : State), s.testOn Reg.WDN_CFG.SRAM_EN = false → exec (.sramSliceTest x n b w) s = .next s) ∧
  (∀ (x : Source) (n : Nat) (b : Option SliceFault) (w : Bool) (s : State), s.testOn Reg.WDN_CFG.SRAM_EN = true → Completes (exec (.sramSliceTest x n b w) s) (fun t =>
    t.ctr Cnt.WDN_SRAM_WORDS = (s.ctr Cnt.WDN_SRAM_WORDS).add n ∧ t.cpg = s.cpg ∧ t.ldg = s.ldg)) ∧
  (∀ (f : Fin 65536) (n : Nat) (b : Option (Fin 65536)) (s : State), s.testOn Reg.WDN_CFG.TCAM_EN = false → exec (.ledgerSliceTest f n b) s = .next s) ∧
  (∀ (f : Fin 65536) (n : Nat) (b : Option (Fin 65536)) (s : State), s.testOn Reg.WDN_CFG.TCAM_EN = true → Completes (exec (.ledgerSliceTest f n b) s) (fun t =>
    t.ctr Cnt.WDN_TCAM_ROWS = (s.ctr Cnt.WDN_TCAM_ROWS).add n ∧ t.ldg = s.ldg)) ∧
  (∀ (p : Fin 4) (d : BitVec 24) (s : State), s.testOn Reg.WDN_CFG.AUDIT_EN = false → exec (.bufferAudit p d) s = .next s) ∧
  (∀ (p : Fin 4) (d : BitVec 24) (h : Nat) (s : State), s.testOn Reg.WDN_CFG.AUDIT_EN = true → s.heldOf p.val = [h] → s.namedHandles.contains h = false →
    s.wdn.suspects.contains h = true → s.handleOk h = true → (s.buf h).held = true → Completes (exec (.bufferAudit p d) s) (fun t => (t.buf h).held = false ∧
      t.ctr Cnt.WDN_LEAKS = (s.ctr Cnt.WDN_LEAKS).add 1)) ∧
  (∀ (p : Fin 4) (d : BitVec 24) (s : State), s.testOn Reg.WDN_CFG.AUDIT_EN = true → s.heldOf p.val = [] → Completes (exec (.bufferAudit p d) s) (fun t =>
    t.cpg = s.cpg ∧ t.wdn.suspects = s.wdn.suspects.filter (fun h => handlePool h ≠ p.val))) ∧
  (∀ (b : LaneBlock) (m : BitVec 8) (s : State), s.testOn Reg.WDN_CFG.EYE_EN = false ∨ s.laneOn b = false → exec (.eyeScan b m) s = .next s) ∧
  (∀ (b : LaneBlock) (m : BitVec 8) (s : State), s.testOn Reg.WDN_CFG.EYE_EN = true → s.laneOn b = true → Completes (exec (.eyeScan b m) s) (fun t =>
    t.ctr Cnt.WDN_EYE_SCANS = (s.ctr Cnt.WDN_EYE_SCANS).add 1 ∧ t.shl = s.shl)) ∧
  (∀ s : State, exec .wardenForceStart s = .next (if s.bit Reg.WDN_CFG.EN = true then s.wr Reg.WDN_STATUS.FORCED 1 else s)) ∧
  (∀ s : State, Completes (exec .wdnLate s) (fun t => if s.bit Reg.WDN_CFG.EN = true then t.flt.active .WDN_LATE srcWdn 0 = true ∧ t.words = s.words else t = s))

/-- TALLY_CONFIG_WRITE, SNAP, SNAP_PERIODIC and SNAPSHOT_DONE (R481, R482, R484 to R487): the write of word 0 applies a counter's words and zeroes
it, or is refused whole; only the PF configures; a snapshot takes each enabled counter as it stood at its trigger, into the other bank.
PM_SECOND_END, DS_REPORT_REQUEST, DS_REPORT, DS_REPORT_MISSING, PM_CLEAR and PM_CLEAR_ALL (R490, R492, R496, R499): a report covers the seconds asked
for since the previous one; a missing one is logged and judged SES; a cleared record is AVAILABLE with zero counts. -/
def Obligations.TallyAndPerformance : Prop :=
  ((∀ (i : Fin 4096) (v : Word) (n : Fin 32) (s : State), exec (.tallyConfigWrite .steward i v) s = .next (s.deny .steward .refused i.val wTly) ∧
    exec (.tallyConfigWrite (.vf n) i v) s = .next (s.deny (.vf n) .refused i.val wTly)) ∧
  (∀ (i : Fin 4096) (v : Word) (s : State), s.reachesWin .pf wTly = true → Completes (exec (.tallyConfigWrite .pf i v) s) (fun t =>
    if eventFits i.val (v.extractLsb' 0 12).toNat = true then t.tlyVal i.val = Ctr.zero ∧ (t.tlyCfg i.val).en = v.getLsbD 31 ∧
      (t.tlyCfg i.val).event = (v.extractLsb' 0 12).toNat ∧ (∀ j, j ≠ i.val → t.tlyCfg j = s.tlyCfg j) ∧ t.ctrs = s.ctrs
    else t = s.deny .pf .refused i.val wTly)) ∧
  (∀ (ag : Agent) (v : Word) (r s : State), s.reaches ag Reg.TLY_CTRL.addr = true →
    r = (s.hostTlp false ag Reg.TLY_CTRL.addr).storeWord ag Reg.TLY_CTRL.addr (withCmd v 1) → Completes (exec (.snap ag v) s) (fun t =>
      if s.bit Reg.TLY_STATUS.BUSY = true then t = r.deny ag .refused Reg.TLY_CTRL.addr noWin
      else t.bit Reg.TLY_STATUS.BUSY = true ∧ t.tly.snap = some ⟨0, 0, s.now, 0, r.outTime, r.outLocked, r.latchAll⟩)) ∧
  (∀ s : State, s.rd Reg.TLY_CTRL.SNAP_MS = 0 → exec .snapPeriodic s = .next s) ∧
  (∀ s : State, s.rd Reg.TLY_CTRL.SNAP_MS ≠ 0 → Completes (exec .snapPeriodic s) (fun t =>
    if s.bit Reg.TLY_STATUS.BUSY = true then t = s.inc Cnt.TLY_SNAP_SKIPPED
    else t.bit Reg.TLY_STATUS.BUSY = true ∧ t.tly.snap = some ⟨0, 1, s.now, 0, s.outTime, s.outLocked, s.latchAll⟩ ∧ t.tly.vals = s.tly.vals)) ∧
  (∀ (k : Fin 2001) (s : State), s.tly.snap = none → exec (.snapshotDone k) s = .next s) ∧
  (∀ (k : Fin 2001) (x : Snap) (s : State), s.tly.snap = some x → s.bit Reg.TLY_EXPORT.NET_EN = false → Completes (exec (.snapshotDone k) s) (fun t =>
    t.tly.snap = none ∧ t.bit Reg.TLY_STATUS.BUSY = false ∧ t.rd Reg.TLY_STATUS.BANK = 1 - s.rd Reg.TLY_STATUS.BANK ∧
    (t.bank (1 - s.rd Reg.TLY_STATUS.BANK)).entries = x.entries ∧ (t.bank (1 - s.rd Reg.TLY_STATUS.BANK)).skew = k.val ∧
    t.bank (s.rd Reg.TLY_STATUS.BANK) = s.bank (s.rd Reg.TLY_STATUS.BANK) ∧ t.ctr Cnt.TLY_SNAPSHOTS = (s.ctr Cnt.TLY_SNAPSHOTS).add 1))) ∧
  ((∀ s : State, Completes (exec .pmSecondEnd s) (fun t => t.pm.second = s.pm.second + 1 ∧
    (s.bit Reg.TLY_PM_CTRL.EN = false → t.pm.log = s.pm.log ∧ t.pm.dsWait = s.pm.dsWait))) ∧
  (∀ s : State, s.stw.paused = true ∨ s.stage < 2 → exec .dsReportRequest s = .next s) ∧
  (∀ s : State, s.stw.paused = false → 2 ≤ s.stage → Completes (exec .dsReportRequest s) (fun t => t.pm.dsWait = [] ∧ t.pm.recs = s.pm.recs ∧
    t.words = s.words)) ∧
  (∀ (p : Fin 32) (i : Fin 256) (a b c d : Nat) (s : State), (Tab.get (fun _ => []) s.pm.dsAsked (slotKey p i.val)).flatten = [] →
    exec (.dsReport p i a b c d) s = .next s) ∧
  (∀ (p : Fin 32) (i : Fin 256) (a b c d : Nat) (s : State), (Tab.get (fun _ => []) s.pm.dsAsked (slotKey p i.val)).flatten ≠ [] →
    Completes (exec (.dsReport p i a b c d) s) (fun t => Tab.get (fun _ => []) t.pm.dsAsked (slotKey p i.val) = [] ∧
      t.ctr Cnt.TLY_DS_REPORTS = (s.ctr Cnt.TLY_DS_REPORTS).add 1)) ∧
  (∀ (p : Fin 32) (i : Fin 256) (l : List Nat) (r : List (List Nat)) (s : State), Tab.get (fun _ => []) s.pm.dsAsked (slotKey p i.val) = l :: r →
    Completes (exec (.dsReportMissing p i) s) (fun t => Tab.get (fun _ => []) t.pm.dsAsked (slotKey p i.val) = r ∧
      t.ctr Cnt.TLY_DS_REPORT_MISSING = (s.ctr Cnt.TLY_DS_REPORT_MISSING).add 1 ∧ t.bit Reg.TLY_STATUS.PM_EVENT = true)) ∧
  (∀ (p : Fin 32) (i : Fin 256) (s : State), Tab.get (fun _ => []) s.pm.dsAsked (slotKey p i.val) = [] → exec (.dsReportMissing p i) s = .next s) ∧
  (∀ (ag : Agent) (v : Word) (r : Nat) (s : State), s.reaches ag Reg.TLY_CTRL.addr = true →
    r = fldOf (withCmd v 2) Reg.TLY_CTRL.PM_REC + s.rd Reg.TLY_PM_CTRL.PM_REC_HI * 2 ^ 11 → r < 16512 →
    Completes (exec (.pmClear ag v) s) (fun t => t.pmRec r = PmRec.clear ∧ ∀ j, j ≠ r → t.pmRec j = s.pmRec j)) ∧
  (∀ (ag : Agent) (v : Word) (s : State), s.reaches ag Reg.TLY_CTRL.addr = true → Completes (exec (.pmClearAll ag v) s) (fun t => ∀ r, t.pmRec r = PmRec.clear)))

/-- POWER_ON_RESET, WARM_RESET and RESET_RELEASE (R303, R503, R505, R506): a power-on reset keeps the flash and the OTP floor alone, a warm reset
also the fault record and its isolations; the release starts time at 0, loads the device root and takes enabled lanes to DETECT. -/
def Obligations.Resets : Prop :=
  (∀ s : State, Completes (exec .powerOnReset s) (fun t => t.boot = { Boot.reset with flash := s.boot.flash } ∧ t.flt = State.reset.flt ∧ t.act = State.reset.act ∧
    t.keys = State.reset.keys ∧ t.ldg = State.reset.ldg ∧ t.eng = State.reset.eng ∧ t.cpg = State.reset.cpg ∧ t.ctrs = [] ∧
    t.rd Reg.BOOT_IMAGE.FLOOR = s.rd Reg.BOOT_IMAGE.FLOOR ∧ (∀ a, a ≠ Reg.BOOT_IMAGE.FLOOR.addr → t.word a = State.reset.word a) ∧ t.pending = s.pending)) ∧
  (∀ (ag : Agent) (v : Word) (s : State), s.reaches ag Reg.GLB_RESET.addr = true → fldOf v Reg.GLB_RESET.WARM = 1 → fldOf v Reg.GLB_RESET.KEY = 0xA5 →
    Completes (exec (.warmReset ag v) s) (fun t => t.flt.safe = false ∧ t.flt.queue = s.flt.queue ∧ t.flt.kinds = s.flt.kinds ∧
      t.boot = { Boot.reset with flash := s.boot.flash, once := s.boot.once } ∧ t.act = State.reset.act ∧ t.keys = State.reset.keys ∧ t.cpg = State.reset.cpg ∧
      t.ctrs = [] ∧ t.rd Reg.BOOT_IMAGE.FLOOR = s.rd Reg.BOOT_IMAGE.FLOOR ∧ t.now = s.now ∧ t.pending = s.pending)) ∧
  (∀ (ag : Agent) (v : Word) (s : State), s.reaches ag Reg.GLB_RESET.addr = true → fldOf v Reg.GLB_RESET.KEY ≠ 0xA5 →
    exec (.warmReset ag v) s = .next (s.hostTlp false ag Reg.GLB_RESET.addr)) ∧
  (∀ s : State, s.boot.released = true → exec .resetRelease s = .next s) ∧
  (∀ s : State, s.boot.released = false → s.flt.causes = [] → Completes (exec .resetRelease s) (fun t => t.boot.released = true ∧ t.now = 0 ∧
    (t.root 16384).state = .loaded ∧ t.bit Reg.KEY_STATUS.OTP_LOADED = true))

/-- TXDIS_SAMPLE, ENTER_S1, BANK_FETCH_DONE, ENTER_S2, ENTER_S3, STAGE_LATE, MXP_STATUS_UPDATE and MXP_FAULT_TOGGLE (R507 to R516, R519 to R523): the
stages are entered in order and never in safe state; a bank below the floor is refused; a bank applied is recorded. -/
def Obligations.StartupStages : Prop :=
  (∀ (b : BitVec 64) (s : State), s.boot.released = false ∨ s.boot.sampled = true → exec (.txdisSample b) s = .next s) ∧
  (∀ (b : BitVec 64) (s : State), s.boot.released = true → s.boot.sampled = false → Completes (exec (.txdisSample b) s) (fun t =>
    t.word Reg.BOOT_PRESENT_LO.addr = b.setWidth 32 ∧ t.word Reg.BOOT_PRESENT_HI.addr = (b >>> 32).setWidth 32 ∧ t.boot.sampled = true)) ∧
  (∀ (c : BitVec 16) (s : State), s.boot.released = false ∨ s.shl.latched = false ∨ s.stage ≠ 0 ∨ s.flt.safe = true → exec (.enterS1 c) s = .next s) ∧
  (∀ (c : BitVec 16) (s : State), s.boot.released = true → s.shl.latched = true → s.stage = 0 → s.flt.safe = false → Completes (exec (.enterS1 c) s) (fun t =>
    t.stage = 1 ∧ ∀ p : Fin 32, s.flt.isolated .port p.val = false → s.presentAt p 0 = true → t.bit (Reg.PT_DS_CFG.EN50 p.val) = true)) ∧
  (∀ (v : Option BankVerdict) (i : ImageParts) (s : State), s.boot.fetching = none → exec (.bankFetchDone v i) s = .next s) ∧
  (∀ (v : Option BankVerdict) (i : ImageParts) (k : Nat) (s : State), s.boot.fetching = some k → v ≠ some .flashRead →
    s.imgNat k 0 4 ≠ 0x464A4749 → exec (.bankFetchDone v i) s = .next (s.bankBad k 0 1)) ∧
  (∀ (i : ImageParts) (k : Nat) (s : State), s.boot.fetching = some k → s.headerOk k = true → s.headerMine k = true →
    s.imgNat k 0x00C 4 < s.rd Reg.BOOT_IMAGE.FLOOR → exec (.bankFetchDone none i) s = .next (s.bankBad k 0 5)) ∧
  (∀ (v : BankVerdict) (i : ImageParts) (k : Nat) (s : State), s.boot.fetching = some k → s.boot.todo = [] →
    Completes (exec (.bankFetchDone (some v) i) s) (fun t => t.boot.fetching = none ∧ t.bit Reg.BOOT_STATUS.BUSY = false ∧
      t.flt.active .IMAGE_NONE srcBoot 0 = true ∧ t.boot.applied = s.boot.applied)) ∧
  (∀ (i : ImageParts) (k : Nat) (a s : State), s.boot.fetching = some k → s.headerOk k = true → s.headerMine k = true →
    s.rd Reg.BOOT_IMAGE.FLOOR ≤ s.imgNat k 0x00C 4 → badSection (s.bodyLen k) (s.sections k) = none → s.applyImage (s.imageOf k i) = some a → k ≤ 2 →
    Completes (exec (.bankFetchDone none i) s) (fun t => t.boot.applied = true ∧ t.boot.fetching = none ∧ t.rd Reg.BOOT_IMAGE.BANK = k ∧
      t.rd Reg.BOOT_LAST.BANK = k ∧ t.bit Reg.BOOT_LAST.REACHED_S3 = false ∧ t.bit Reg.BOOT_STATUS.BUSY = false)) ∧
  (∀ s : State, s.boot.applied = false ∨ s.stage ≠ 1 ∨ s.flt.safe = true → exec .enterS2 s = .next s) ∧
  (∀ s : State, s.boot.applied = true → s.stage = 1 → s.flt.safe = false → Completes (exec .enterS2 s) (fun t => t.stage = 2 ∧
    t.bit Reg.STW_FW_STATUS.READY = true ∧ t.boot.s2At = s.now)) ∧
  (∀ s : State, Completes (exec .enterS3 s) (fun t => if s.stage = 2 ∧
    s.boot.s2At + max 1 (s.rd Reg.BOOT_CFG.S2_MIN) * 1000000 ≤ s.now ∧ s.boot.guilds.all (fun g => s.healthy g || s.flt.isolated .guild g) = true then
    t.stage = 3 ∧ t.bit Reg.BOOT_LAST.REACHED_S3 = true else t = s)) ∧
  (∀ s : State, exec .stageLate s = .next (if s.boot.released = true ∧ s.stage < 2 ∧
    s.rd Reg.BOOT_CFG.S2_DEADLINE * 1000000 ≤ s.now then s.raise .STAGE_LATE srcBoot s.stage else s)) ∧
  (∀ s : State, exec .mxpStatusUpdate s = .next (if s.shl.latched = true ∧ s.flt.safe = false ∧ s.mxpStatus ≠ s.boot.mxp ∧
    s.mxpRecent = false then { s with boot := { s.boot with mxp := s.mxpStatus, mxpAt := some s.now } } else s)) ∧
  (∀ s : State, exec .mxpFaultToggle s = .next (if s.flt.safe = true then { s with flt := { s.flt with mxpInv := !s.flt.mxpInv } } else s))

/-- HOST_IMAGE, SVN_COMMIT, FLASH_ERASE, FLASH_PROGRAM, OMCI_RESPONSE_RX and the Steward's firmware commands (R525 to R527, R530 to R533): each ends
with a code; a sector of the bank in use and one outside the flash are left as they are; a switch needs a validated blob. -/
def Obligations.BootAndFirmwareCommands : Prop :=
  (∀ (ag : Agent) (v : Word) (s : State), s.reaches ag Reg.BOOT_CMD.addr = true → s.boot.fetching = none → s.stage = 1 →
    Completes (exec (.hostImage ag v) s) (fun t => t.boot.fetching = some 2 ∧ t.boot.todo = [] ∧ t.bit Reg.BOOT_STATUS.BUSY = true)) ∧
  (∀ (ag : Agent) (v : Word) (s : State), s.reaches ag Reg.BOOT_CMD.addr = true → s.boot.fetching = none → s.stage ≠ 1 →
    Completes (exec (.hostImage ag v) s) (fun t => t.rd Reg.BOOT_STATUS.CODE = 1 ∧ t.boot = s.boot)) ∧
  (∀ (ag : Agent) (v : Word) (s : State), s.reaches ag Reg.BOOT_CMD.addr = true → s.boot.fetching = none → s.stage = 3 →
    Completes (exec (.svnCommit ag v) s) (fun t => t.rd Reg.BOOT_IMAGE.FLOOR = max (s.rd Reg.BOOT_IMAGE.FLOOR) (s.rd Reg.BOOT_IMAGE.SVN) ∧
      t.rd Reg.BOOT_STATUS.CODE = 0)) ∧
  (∀ (ag : Agent) (v : Word) (e : Bool) (n : Nat) (s : State), s.reaches ag Reg.BOOT_CMD.addr = true → s.boot.fetching = none →
    n = fldOf (withCmd v 3) Reg.BOOT_CMD.SECTOR → sectorIn n = true → s.sectorUsed n = false →
    Completes (exec (.flashErase ag v false) s) (fun t => (∀ i, i < 4096 → t.flashByte (n * 4096 + i) = 0xFF#8) ∧ t.rd Reg.BOOT_STATUS.CODE = 0 ∧
      ∀ a, a < n * 4096 ∨ (n + 1) * 4096 ≤ a → t.flashByte a = s.flashByte a) ∧
    Completes (exec (.flashErase ag v e) s) (fun t => t.rd Reg.BOOT_STATUS.CODE = 0 ∧
      ∀ a, a < n * 4096 ∨ (n + 1) * 4096 ≤ a → t.flashByte a = s.flashByte a)) ∧
  (∀ (ag : Agent) (v : Word) (e : Bool) (n : Nat) (s : State), s.reaches ag Reg.BOOT_CMD.addr = true → s.boot.fetching = none →
    n = fldOf (withCmd v 4) Reg.BOOT_CMD.SECTOR → sectorIn n = true → s.sectorUsed n = true →
    Completes (exec (.flashProgram ag v e) s) (fun t => t.boot = s.boot ∧ t.rd Reg.BOOT_STATUS.CODE = 3)) ∧
  (∀ (ag : Agent) (v : Word) (n : Nat) (s : State), s.reaches ag Reg.BOOT_CMD.addr = true → s.boot.fetching = none →
    n = fldOf (withCmd v 4) Reg.BOOT_CMD.SECTOR → sectorIn n = true → s.sectorUsed n = false →
    Completes (exec (.flashProgram ag v false) s) (fun t => ∀ i, i < 4096 → t.flashByte (n * 4096 + i) = s.programByte i)) ∧
  (∀ (p : Fin 32) (i : Fin 256) (g : Bool) (s : State), s.owned p.val = false ∨ ((s.provOf p i.val).waiting = false ∧ s.stw.paused = false) →
    exec (.omciResponseRx p i g) s = .next s) ∧
  (∀ (p : Fin 32) (i : Fin 256) (g : Bool) (s : State), s.owned p.val = true → s.stw.paused = true →
    exec (.omciResponseRx p i g) s = .next (s.forSteward (.omci p.val i.val g))) ∧
  (∀ (p : Fin 32) (i : Fin 256) (s : State), (s.provOf p i.val).waiting = true → s.stewards p = true →
    exec (.omciResponseRx p i true) s = .next (s.nextOmci p i.val) ∧ exec (.omciResponseRx p i false) s = .next (s.templateFail p i.val)) ∧
  (∀ (ag : Agent) (v : Word) (b : Option (Fin 10)) (s : State), s.reaches ag Reg.STW_FW_CTRL.addr = true → fldOf (v ||| 0x80000000#32) Reg.STW_FW_CTRL.SWITCH = 0 →
    Completes (exec (.stwFwValidate ag v b) s) (fun t => t.rd Reg.STW_FW_STATUS.RESULT = (if b.isSome = true then 3 else 2) ∧
      t.rd Reg.STW_FW_STATUS.RUNNING = s.rd Reg.STW_FW_STATUS.RUNNING)) ∧
  (∀ (ag : Agent) (v : Word) (s : State), s.reaches ag Reg.STW_FW_CTRL.addr = true → s.rd Reg.STW_FW_STATUS.RESULT = 2 →
    Completes (exec (.stwFwSwitch ag v) s) (fun t => t.rd Reg.STW_FW_STATUS.RUNNING = 1 - s.rd Reg.STW_FW_STATUS.RUNNING ∧ t.stw.paused = true ∧
      t.bit Reg.STW_FW_STATUS.READY = false ∧ t.rd Reg.STW_FW_STATUS.RESULT = 0 ∧ t.boot.fwSwitch = some s.now)) ∧
  (∀ s : State, s.bit Reg.STW_FW_STATUS.READY = true → s.stw.paused = false → exec .stwFwReady s = .next s) ∧
  (∀ s : State, s.bit Reg.STW_FW_STATUS.READY = false ∨ s.stw.paused = true → Completes (exec .stwFwReady s) (fun t => t.bit Reg.STW_FW_STATUS.READY = true ∧ t.stw.paused = false)) ∧
  (∀ (n : Nat) (s : State), s.boot.fwSwitch = some n → s.bit Reg.STW_FW_STATUS.READY = false → Completes (exec .stwFwFallback s) (fun t =>
    t.rd Reg.STW_FW_STATUS.RUNNING = 1 - s.rd Reg.STW_FW_STATUS.RUNNING ∧ t.boot.fwSwitch = none ∧
    t.ctr Cnt.BOOT_STW_RESTARTS = (s.ctr Cnt.BOOT_STW_RESTARTS).add 1)) ∧
  (∀ s : State, s.boot.fwSwitch = none ∨ s.bit Reg.STW_FW_STATUS.READY = true → exec .stwFwFallback s = .next s)

/-- PCIE_RESET, FUNCTION_LEVEL_RESET, PCIE_LINK_DOWN, PCIE_LINK_UP, DMA_ERROR, COAL_TIMER_EXPIRY, REARM, RING_EN_WRITE, RING_TAIL_WRITE,
RX_RING_DELIVER and TX_ENTRY (R538 to R540, R551 to R559): a reset or a DMA error stops the rings it names, no link comes up while DISABLE is 1,
enabling a ring sets HEAD to TAIL and PHASE to 1, what no ring takes is counted, and HEAD advances past every entry. -/
def Obligations.HostPortAndRings : Prop :=
  (∀ (e : PcieEvent) (s : State), e = .fundamental ∨ e = .hot ∨ e = .linkDown → Completes (exec (.pcieReset e) s) (fun t =>
    (∀ r, ringExists r = true → t.bit (Reg.RING_CFG.EN r) = false) ∧ (∀ f, f ≤ 32 → t.fn f = Fn.reset) ∧ t.Within (· ∈ [.flt, .hst, .words]) s)) ∧
  (∀ (f : Fin 33) (b : Bool) (s : State), Completes (exec (.pcieReset (.d3hot f b)) s) (fun t => (t.fn f.val).d3 = b ∧ t.Within (· ∈ [.hst]) s) ∧
    Completes (exec (.pcieReset (.busMaster f b)) s) (fun t => (t.fn f.val).bme = b ∧ t.Within (· ∈ [.hst]) s)) ∧
  (∀ (f : Fin 33) (s : State), Completes (exec (.functionLevelReset f) s) (fun t =>
    (∀ r, r ∈ ringsOf f.val → t.bit (Reg.RING_CFG.EN r) = false ∧ t.bit (Reg.RING_STATUS.STOPPED r) = true) ∧
    (∀ v, v < vectorsOf f.val → (t.word (msixKey f.val (v * 16 + 12))).getLsbD 0 = true) ∧ t.Within (· ∈ [.flt, .hst, .words]) s)) ∧
  (∀ s : State, Completes (exec .pcieLinkDown s) (fun t => if s.bit Reg.HST_LINK.UP = true then
    t.bit Reg.HST_LINK.UP = false ∧ t.flt.active .HST_LINK_DOWN srcHst 0 = true ∧ t.hst = s.hst else t = s)) ∧
  (∀ (n : Fin 7) (w : Fin 32) (b : Bool) (s : State), Completes (exec (.pcieLinkUp n w b) s) (fun t => if s.bit Reg.HST_PORT_CFG.DISABLE = true then t = s else
    t.bit Reg.HST_LINK.UP = true ∧ t.rd Reg.HST_LINK.RATE = min n.val (s.rd Reg.HST_PORT_CFG.MAX_RATE) ∧ t.rd Reg.HST_LINK.WIDTH = w.val ∧
    t.bit Reg.HST_LINK.FLIT = b ∧ t.flt.active .HST_LINK_DOWN srcHst 0 = false)) ∧
  (∀ (r : Fin 128) (code : Fin 5) (s : State), code.val ≠ 0 → ringExists r.val = true → s.ringOn r.val = true → Completes (exec (.dmaError r code) s) (fun t =>
    t.bit (Reg.RING_CFG.EN r.val) = false ∧ t.bit (Reg.RING_STATUS.STOPPED r.val) = true ∧ t.bit (Reg.RING_STATUS.DMA_ERR r.val) = true ∧
    ∀ q, q < 128 → q ≠ r.val → t.bit (Reg.RING_CFG.EN q) = s.bit (Reg.RING_CFG.EN q))) ∧
  (∀ (r : Fin 128) (s : State), exec (.coalTimerExpiry r) s = .next (if s.rd (Reg.RING_CFG.COAL_US r.val) = 0 ∨ (s.ringRt r.val).comp = 0 then s else
    (s.setRing r.val { s.ringRt r.val with comp := 0, since := none }).ringMsi r.val)) ∧
  (∀ (ag : Agent) (v : Word) (s : State), s.reaches ag Reg.HST_REARM.addr = true → exec (.rearm ag v) s =
    .next (if v.getLsbD 0 = true ∧ s.hst.level = true then
      ((s.hostTlp false ag Reg.HST_REARM.addr).putWord Reg.HST_REARM.addr (s.word Reg.HST_REARM.addr ||| v)).msi 0 0
      else (s.hostTlp false ag Reg.HST_REARM.addr).putWord Reg.HST_REARM.addr (s.word Reg.HST_REARM.addr ||| v))) ∧
  (∀ (ag : Agent) (r : Fin 128) (v : Word) (s : State), s.ringReaches ag r.val (Reg.RING_CFG.addr r.val) = true → Completes (exec (.ringEnWrite ag r v) s) (fun t =>
    t.bit (Reg.RING_CFG.EN r.val) = v.getLsbD 31 ∧
    (s.bit (Reg.RING_CFG.EN r.val) = false → v.getLsbD 31 = true → t.rd (Reg.RING_HEAD.HEAD r.val) = s.rd (Reg.RING_TAIL.TAIL r.val) ∧
      t.bit (Reg.RING_STATUS.PHASE r.val) = true ∧ t.bit (Reg.RING_STATUS.STOPPED r.val) = false) ∧
    (s.bit (Reg.RING_CFG.EN r.val) = true → t.rd (Reg.RING_CFG.SIZE r.val) = s.rd (Reg.RING_CFG.SIZE r.val) ∧
      (v.getLsbD 31 = false → t.bit (Reg.RING_STATUS.STOPPED r.val) = true)))) ∧
  (∀ (ag : Agent) (r : Fin 128) (v : Word) (s : State), s.ringReaches ag r.val (Reg.RING_TAIL.addr r.val) = true → Completes (exec (.ringTailWrite ag r v) s) (fun t =>
    t.rd (Reg.RING_TAIL.TAIL r.val) = (if (v.extractLsb' 0 16).toNat < s.ringSize r.val then (v.extractLsb' 0 16).toNat else s.rd (Reg.RING_TAIL.TAIL r.val)))) ∧
  (∀ (n : BitVec 16) (s : State), (s.fwd.toHost = [] → exec (.rxRingDeliver false n) s = .next s) ∧ (s.tly.export_ = [] → exec (.rxRingDeliver true n) s = .next s)) ∧
  (∀ (n : BitVec 16) (o : ExcOut) (l : List ExcOut) (s : State), s.fwd.toHost = o :: l →
    (s.ringOn (s.excRing o.d o.mirror) = false → exec (.rxRingDeliver false n) s =
      .next ((({ s with fwd := { s.fwd with toHost := l } } : State).inc Cnt.SRT_EXC_NO_HOST).unref o.d.handle)) ∧
    (s.ringOn (s.excRing o.d o.mirror) = true → s.ringEmpty (s.excRing o.d o.mirror) = true → Completes (exec (.rxRingDeliver false n) s) (fun t =>
      t.fwd.toHost = l ∧ t.ctr (Cnt.RING_DROPS (s.excRing o.d o.mirror)) = (s.ctr (Cnt.RING_DROPS (s.excRing o.d o.mirror))).add 1 ∧ t.words = s.words)) ∧
    (s.ringOn (s.excRing o.d o.mirror) = true → s.ringEmpty (s.excRing o.d o.mirror) = false → n ≠ 0#16 → Completes (exec (.rxRingDeliver false n) s) (fun t =>
      t.fwd.toHost = l ∧ t.rd (Reg.RING_HEAD.HEAD (s.excRing o.d o.mirror)) = (s.rd (Reg.RING_HEAD.HEAD (s.excRing o.d o.mirror)) + 1) % s.ringSize (s.excRing o.d o.mirror) % 65536 ∧
      (t.ringRt (s.excRing o.d o.mirror)).last = some (s.rd (Reg.RING_HEAD.HEAD (s.excRing o.d o.mirror)),
        rxWords (s.rd (Reg.RING_STATUS.PHASE (s.excRing o.d o.mirror))) (decide (n.toNat < o.d.length)) o.mirror o.d, o.bytes.take n.toNat)))) ∧
  (∀ (r : Fin 128) (e : List (BitVec 32)) (fr : List (BitVec 8)) (s : State),
    ringTx r.val = false ∨ s.ringOn r.val = false ∨ s.ringEmpty r.val = true ∨ s.flt.safe = true → exec (.txEntry r e fr) s = .next s) ∧
  (∀ (r : Fin 128) (e : List (BitVec 32)) (fr : List (BitVec 8)) (s : State),
    ringTx r.val = true → s.ringOn r.val = true → s.ringEmpty r.val = false → s.flt.safe = false →
    ((e.getD 2 0#32).extractLsb' 0 14).toNat < 60 ∨ 2 ≤ ((e.getD 2 0#32).extractLsb' 30 2).toNat → Completes (exec (.txEntry r e fr) s) (fun t =>
      t.ctr (Cnt.RING_DROPS r.val) = (s.ctr (Cnt.RING_DROPS r.val)).add 1 ∧ t.cpg = s.cpg ∧
      t.rd (Reg.RING_HEAD.HEAD r.val) = (s.rd (Reg.RING_HEAD.HEAD r.val) + 1) % s.ringSize r.val % 65536)) ∧
  (∀ (r : Fin 128) (e : List (BitVec 32)) (fr : List (BitVec 8)) (a : State) (h : Nat) (d : Desc) (s : State),
    ringTx r.val = true → r.val < 64 → s.ringOn r.val = true → s.ringEmpty r.val = false → s.flt.safe = false →
    60 ≤ ((e.getD 2 0#32).extractLsb' 0 14).toNat → ((e.getD 2 0#32).extractLsb' 30 2).toNat = 0 →
    s.newBuf ((e.getD 4 0#32).extractLsb' 29 3).toNat ((e.getD 2 0#32).extractLsb' 0 14).toNat (sliceZ fr 0 ((e.getD 2 0#32).extractLsb' 0 14).toNat) = (a, some h) →
    d = { Desc.zero with handle := h, dir := (e.getD 2 0#32).getLsbD 29, epoch := a.published, length := ((e.getD 2 0#32).extractLsb' 0 14).toNat, cls := ((e.getD 4 0#32).extractLsb' 29 3).toNat
                         source := 24, queue := ((e.getD 3 0#32).extractLsb' 16 16).toNat, ctxV := !(e.getD 2 0#32).getLsbD 29
                         xctx := ((e.getD 3 0#32).extractLsb' 0 16).toNat, bucket := ((e.getD 4 0#32).extractLsb' 0 17).toNat, tIn := s.now % 2 ^ 32 } →
    (a.epochRef a.published).isProxy d = false → exec (.txEntry r e fr) s =
      .next ((((a.epochRef a.published).enqueue d).epochUnref a.published).advance r.val))

/-- UNASSIGNED_ACCESS, REGISTER_WRITE, REGISTER_READ, WIN_READ, WIN_WRITE, LOCK_OPEN, LOCK_CLOSE, LOCK_SEAL and VF_PORTS_WRITE (R6, R541 to R546,
R548): an access that nothing occupies reads 0 and is denied; a plain register is stored by access type and read back; a window read captures the
entry's words; a VF never writes through a window; only KEY 0x4F50 opens a lock that is not sealed; no two VFs share a port. -/
def Obligations.HostAccess : Prop :=
  (∀ (ag : Agent) (off : BitVec 26) (v : Word) (s : State), (∀ n, ag ≠ .vf n) → inHostWin off.toNat = false → portAt off.toNat = none → occupied off.toNat = false →
    exec (.unassignedAccess ag .regs off (some v)) s = .next ((s.hostTlp false ag off.toNat).deny ag .badAddr off.toNat noWin) ∧
    exec (.unassignedAccess ag .regs off none) s = .next (((s.hostTlp true ag off.toNat).denyAs true ag .badAddr off.toNat noWin).answer ag 0#32)) ∧
  (∀ (n : Fin 32) (off : BitVec 26) (v : Word) (s : State), 0x2000 ≤ off.toNat →
    exec (.registerWrite (.vf n) .regs off v) s = .next ((s.hostTlp false (.vf n) off.toNat).deny (.vf n) (if off.toNat < 0x10000 then .badAddr else .scope) off.toNat noWin)) ∧
  (∀ (ag : Agent) (off : BitVec 26) (v : Word) (s : State), exec (.registerWrite ag .counters off v) s = .next ((s.hostTlp false ag off.toNat).deny ag .refused off.toNat noWin)) ∧
  (∀ (ag : Agent) (v : Word) (s : State), s.reaches ag Reg.SRT_EXC_STW.addr = true →
    exec (.registerWrite ag .regs (BitVec.ofNat 26 Reg.SRT_EXC_STW.addr) v) s = .next ((s.hostTlp false ag Reg.SRT_EXC_STW.addr).storeWord ag Reg.SRT_EXC_STW.addr v)) ∧
  (∀ (ag : Agent) (s : State), (∀ n, ag ≠ .vf n) →
    exec (.registerRead ag .regs (BitVec.ofNat 26 Reg.SRT_EXC_STW.addr)) s = .next ((s.hostTlp true ag Reg.SRT_EXC_STW.addr).answer ag (s.word Reg.SRT_EXC_STW.addr))) ∧
  (∀ (ag : Agent) (w : Fin 106) (v : Word) (idx : Nat) (l : List Word) (s : State), (∀ n, ag ≠ .vf n) →
    idx = (s.word (portKey ag w.val 0)).toNat → s.winShow w.val idx = some l → winCount v ≠ 0 → winFirst v + winCount v ≤ l.length → Completes (exec (.winRead ag w v) s) (fun t =>
      (∀ j, j < winCount v → t.word (portKey ag w.val (0x80 + 4 * (winFirst v + j))) = l.getD (winFirst v + j) 0#32) ∧
      t.word (portKey ag w.val 8) = 0#32 ∧ t.ctr Cnt.HST_DENIED = s.ctr Cnt.HST_DENIED)) ∧
  (∀ (ag : Agent) (w : Fin 106) (v : Word) (s : State), (∀ n, ag ≠ .vf n) →
    s.winShow w.val (s.word (portKey ag w.val 0)).toNat = none → Completes (exec (.winRead ag w v) s) (fun t =>
      t.word (portKey ag w.val 8) = 0x10000000#32 ∧ t.ctr Cnt.HST_DENIED = (s.ctr Cnt.HST_DENIED).add 1)) ∧
  (∀ (n : Fin 32) (w : Fin 106) (v : Word) (s : State), Completes (exec (.winWrite (.vf n) w v) s) (fun t =>
      t.word (portKey (.vf n) w.val 8) = 0x40000000#32 ∧ t.ctr Cnt.HST_DENIED = (s.ctr Cnt.HST_DENIED).add 1 ∧ t.Within (· ∈ [.words, .ctrs, .flt, .tly]) s)) ∧
  (∀ (ag : Agent) (w : Fin 106) (v : Word) (idx : Nat) (ws : List Word) (s : State), idx = (s.word (portKey ag w.val 0)).toNat →
    ws = (List.range (winCount v)).map (fun j => s.word (portKey ag w.val (0x80 + 4 * (winFirst v + j)))) →
    exec (.winWrite ag w v) s = .next ((if s.winCode ag w.val idx (winFirst v) (winCount v) (some ws) = .ok then s.winStore ag w.val idx (winFirst v) ws else s).winDone
      ag false w.val idx (s.winCode ag w.val idx (winFirst v) (winCount v) (some ws)))) ∧
  (∀ (ag : Agent) (a : BitVec 26) (v : Word) (s : State), isLock a.toNat = true → ag ≠ .image → s.reaches ag a.toNat = true →
    (s.bit (Reg.BLOCK_LOCK.SEALED a.toNat) = false → fldOf v (Reg.BLOCK_LOCK.KEY a.toNat) = 0x4F50 → Completes (exec (.lockOpen ag a v) s) (fun t =>
      t.bit (Reg.BLOCK_LOCK.OPEN a.toNat) = true ∧ t.bit (Reg.BLOCK_LOCK.SEALED a.toNat) = false)) ∧
    (s.bit (Reg.BLOCK_LOCK.SEALED a.toNat) = true ∨ fldOf v (Reg.BLOCK_LOCK.KEY a.toNat) ≠ 0x4F50 →
      exec (.lockOpen ag a v) s = .next ((s.hostTlp false ag a.toNat).deny ag .locked a.toNat noWin)) ∧
    Completes (exec (.lockClose ag a v) s) (fun t => t.bit (Reg.BLOCK_LOCK.OPEN a.toNat) = false ∧
      t.bit (Reg.BLOCK_LOCK.SEALED a.toNat) = s.bit (Reg.BLOCK_LOCK.SEALED a.toNat)) ∧
    Completes (exec (.lockSeal ag a v) s) (fun t => t.bit (Reg.BLOCK_LOCK.OPEN a.toNat) = false ∧ t.bit (Reg.BLOCK_LOCK.SEALED a.toNat) = true)) ∧
  (∀ (ag : Agent) (k : Fin 33) (v : Word) (s : State), k.val ≠ 0 → s.reaches ag (Reg.HST_VF_PORTS.addr k.val) = true →
    ((∃ i, 1 ≤ i ∧ i ≤ 32 ∧ i ≠ k.val ∧ s.word (Reg.HST_VF_PORTS.addr i) &&& v ≠ 0#32) →
      exec (.vfPortsWrite ag k v) s = .next ((s.hostTlp false ag (Reg.HST_VF_PORTS.addr k.val)).deny ag .refused (Reg.HST_VF_PORTS.addr k.val) noWin)) ∧
    ((∀ i, 1 ≤ i → i ≤ 32 → i ≠ k.val → s.word (Reg.HST_VF_PORTS.addr i) &&& v = 0#32) →
      Completes (exec (.vfPortsWrite ag k v) s) (fun t => t.word (Reg.HST_VF_PORTS.addr k.val) = v ∧
        ∀ i, 1 ≤ i → i ≤ 32 → i ≠ k.val → t.word (Reg.HST_VF_PORTS.addr i) = s.word (Reg.HST_VF_PORTS.addr i))))

/-- A step takes the command at the front of the queue: it is what that command does on the state with the queue's rest. -/
def Obligations.StepRunsFront : Prop :=
  ∀ (c : Instr) (q : List Instr) (s : State), s.pending = c :: q → step s = exec c { s with pending := q }

/-- A step on an empty queue idles (the model's choice, log entry 1): the free-running count advances by one, everything else stays. -/
def Obligations.IdleStep : Prop :=
  ∀ s : State, s.pending = [] → Completes (step s) (fun t => t.now = (s.now + 1) % 2 ^ 64 ∧ t.Within (· ∈ [.now]) s)

/-- Every command completes in every state, never a fault or a refusal, leaves the queue alone, and changes only the parts of the state its frame
names. -/
def Obligations.EveryCommandFrame : Prop :=
  ∀ (c : Instr) (s : State), Changes (exec c s) s (frameOf c)

/-- Every step keeps the state sound: the tables of registers, latched words, counters and answers in canonical form, every counter below 2^48 (R64)
and the free-running count below 2^64 (R364). -/
def Obligations.SoundKept : Prop :=
  ∀ s : State, s.Sound → Completes (step s) State.Sound

/-- The state after reset is sound and holds the reset value of every register and table word, no count, no command. -/
def Obligations.ResetSound : Prop :=
  State.reset.Sound ∧ (∀ a, State.reset.word a = wordReset a) ∧ (∀ b, State.reset.ctr b = Ctr.zero) ∧ State.reset.pending = [] ∧ State.reset.now = 0

/-- Reset values of the register tables of every chapter: what State.reset shows of them. -/
def Obligations.ResetValues : Prop :=
  State.reset.rd Reg.WHF_PACE_CFG.FLOOR = 0x3E8 ∧ State.reset.rd Reg.WHF_PACE_CFG.RISE_SHIFT = 4 ∧ State.reset.bit Reg.WHF_CTRL.EN = true ∧
  (∀ p : Fin 32, State.reset.rd (Reg.PT_US_CFG.GUARD p.val) = 0x100 ∧ State.reset.rd (Reg.PT_US_CFG.DELIM_TOL p.val) = 3 ∧
    State.reset.rd (Reg.PT_ALN_STATUS.STATE50 p.val) = 3 ∧ State.reset.rd (Reg.PT_REACH.MAX_KM p.val) = 0x14 ∧ State.reset.rd (Reg.PT_REACH.NS_PER_KM p.val) = 4900 ∧
    State.reset.bit (Reg.PT_DISC_CFG.EN50 p.val) = true) ∧
  (∀ g : Fin 64, State.reset.rd (Reg.GLD_STATE.STATE g.val) = 5 ∧ State.reset.rd (Reg.GLD_BUDGET.INSN_MAX g.val) = 0x400 ∧ State.reset.bit (Reg.GLD_PACE.RETIRED g.val) = true) ∧
  State.reset.rd Reg.SRT_RETIRE_CFG.LOOSE_MAX = 0x10 ∧ State.reset.rd Reg.LDG_CFG.HOLE_LOG2 = 6 ∧ State.reset.rd Reg.EXM_CFG.STASH_HIGH = 0x1800 ∧
  State.reset.rd Reg.KEY_LIMIT.HARD_LOG2 = 0x2C ∧ State.reset.rd Reg.KEY_LIMIT.SOFT_LOG2 = 0x2A ∧ State.reset.bit Reg.TWN_CFG.AUTO_PHASE = true ∧
  State.reset.rd Reg.HRL_SLEW.SLEW = 0x32 ∧ (∀ n : Fin 24, State.reset.bit (Reg.ULK_CFG.EN n.val) = false ∧ State.reset.rd (Reg.ULK_STATUS.LEADER n.val) = n.val) ∧
  (∀ n : Fin 16, State.reset.rd (Reg.SHL_LANE_STATUS.STATE n.val) = 1 ∧ State.reset.bit (Reg.SHL_LANE_CFG.EN n.val) = true) ∧
  State.reset.rd Reg.FLT_CTRL.RESTART_MAX = 3 ∧ State.reset.bit Reg.FLT_CTRL.PROTECT_EN = true ∧ State.reset.bit Reg.WDN_CFG.EN = true ∧
  State.reset.rd Reg.BOOT_CFG.S2_MIN = 0x14 ∧ State.reset.rd Reg.GLB_ID.DEVICE = 0x5032 ∧ State.reset.rd Reg.HST_PORT_CFG.MAX_RATE = 6 ∧
  (∀ r : Fin 128, ringExists r.val = true → State.reset.bit (Reg.RING_CFG.EN r.val) = false ∧ State.reset.rd (Reg.RING_CFG.SIZE r.val) = 8 ∧
    State.reset.bit (Reg.RING_STATUS.STOPPED r.val) = true)

/-- What the store of a written word leaves of a register with row `r` (R9): its RW fields take the value; its LCK fields take it while the lock is
open and keep theirs while it is closed; only a write that would change an LCK field under a closed lock is refused, counted and recorded as denied
with reason LOCKED; no other register changes but that record. -/
def Sys2Proof.StoredAs (s t : State) (a : Nat) (v : Word) (r : RegRow) : Prop :=
  t.word a &&& r.rw = v &&& r.rw ∧
  (s.lockOpen a = true → t.word a &&& r.lck = v &&& r.lck) ∧
  (s.lockOpen a = false → t.word a &&& r.lck = s.word a &&& r.lck) ∧
  t.ctr Cnt.HST_DENIED = (if s.lockOpen a = false ∧ v &&& r.lck ≠ s.word a &&& r.lck then (s.ctr Cnt.HST_DENIED).add 1 else s.ctr Cnt.HST_DENIED) ∧
  (s.lockOpen a = false → v &&& r.lck ≠ s.word a &&& r.lck → s.bit Reg.HST_DENIED_LAST_W0.VALID = false → t.rd Reg.HST_DENIED_LAST_W0.REASON = 1) ∧
  (∀ b, b ≠ a → b ≠ Reg.HST_DENIED_LAST_W0.addr → b ≠ Reg.HST_DENIED_LAST_W1.addr → b ≠ Reg.HST_DENIED_LAST_W2.addr → t.word b = s.word b)

/-- A write to a register that holds an LCK field (R9): of every register, the store keeps the LCK fields under a closed lock, stores the other
writable fields as usual, and refuses only a change of an LCK field, which is counted as a denied access with reason LOCKED. A write of a register of
the sorter's and Wharfinger's blocks, whose fields do no more than their access types say, is that store. -/
def Obligations.RegisterAccessTypes : Prop :=
  (∀ (ag : Agent) (a : Nat) (v : Word) (r : RegRow) (n : Nat) (s : State), regAt a = some (r, n) → r.lck ≠ 0#32 → StoredAs s (s.storeWord ag a v) a v r) ∧
  (∀ (ag : Agent) (a : BitVec 26) (v : Word) (r : RegRow) (n : Nat) (s : State),
    (0xB0000 ≤ a.toNat ∧ a.toNat < 0xC0000) ∨ (0x300000 ≤ a.toNat ∧ a.toNat < 0x310000) → regAt a.toNat = some (r, n) → isLock a.toNat = false → ctrAt a.toNat = none →
    s.reaches ag a.toNat = true → Completes (exec (.registerWrite ag .regs a v) s) (fun t => StoredAs s t a.toNat v r))

/-- Commands that write a register of BAR0, with the register's address. -/
def Sys2Proof.gatedRows (ag : Agent) (p : Fin 32) (g : Fin 64) (d k : Fin 2) (sl : Fin 256) (v : Word) : List (Instr × Nat) :=
  [(.phaseOffsetWrite ag p v, Reg.PT_PHASE.addr p.val), (.dsEnableWrite ag p v, Reg.PT_DS_CFG.addr p.val), (.alignModeWrite ag p v, Reg.PT_ALN_CFG.addr p.val),
   (.teqdWrite ag p v, Reg.PT_TEQD.addr p.val), (.reachWrite ag p v, Reg.PT_REACH.addr p.val), (.rampStart ag p, Reg.PT_ACT_CMD.addr p.val),
   (.deactivate ag p sl, Reg.PT_ACT_CMD.addr p.val), (.swapRequest ag v, Reg.FSI_SWAP_REQ.addr), (.bdeactUnlock ag v, Reg.WHF_ASY_CFG.addr),
   (.whfAlgWrite ag v, Reg.WHF_CTRL.addr), (.validateBank ag g, Reg.GLD_BANK.addr g.val), (.drain ag g v, Reg.GLD_CTRL.addr g.val),
   (.guildLoad ag g v, Reg.GLD_CTRL.addr g.val), (.ldgInsert ag k v, Reg.LDG_CMD.addr k.val), (.publish ag k v, Reg.LDG_CMD.addr k.val),
   (.freeStw ag v, Reg.CPG_FREE_STW.addr), (.cellarEnable ag v, Reg.CPG_CTRL.addr), (.domainEnWrite ag d v, Reg.HRL_DOM_CFG.addr d.val),
   (.switchOutput ag v, Reg.HRL_CTRL.addr), (.outStep ag v, Reg.HRL_CTRL.addr)]

/-- A write to BAR0 from a VF is denied with SCOPE and has no other effect (R541); a write of the PF to a block whose bit of HST_WP is 1 is denied
with PROTECTED and has no other effect (R549). -/
def Obligations.DeniedWrites : Prop :=
  (∀ (f p : Fin 32) (g : Fin 64) (d k : Fin 2) (sl : Fin 256) (v : Word) (s : State), ∀ x ∈ gatedRows (.vf f) p g d k sl v,
    exec x.1 s = .next ((s.hostTlp false (.vf f) x.2).deny (.vf f) .scope x.2 noWin)) ∧
  (∀ (p : Fin 32) (g : Fin 64) (d k : Fin 2) (sl : Fin 256) (v : Word) (s : State), ∀ x ∈ gatedRows .pf p g d k sl v,
    (s.word Reg.HST_WP.addr).getLsbD (blockCode x.2) = true → exec x.1 s = .next ((s.hostTlp false .pf x.2).deny .pf .prot x.2 noWin)) ∧
  (∀ (ag : Agent) (r : Deny) (a w : Nat) (s : State), (s.deny ag r a w).ctr Cnt.HST_DENIED = (s.ctr Cnt.HST_DENIED).add 1 ∧
    (s.deny ag r a w).Within (· ∈ [.words, .ctrs, .flt, .tly]) s ∧
    (s.bit Reg.HST_DENIED_LAST_W0.VALID = true → (s.deny ag r a w).words = s.words))

/-- An engine's row where no instruction of its kind issues (R182, R184, R187, R196): nothing happens while the context is not runnable, the pass
ends with the budget trap once its slots are spent, and with the illegal trap on a word that names no instruction. -/
def Obligations.InstructionIssue : Prop :=
  ∀ (g : Fin 64) (e : Fin 16) (c : Fin 4) (s : State),
    ∀ i ∈ ([.add g e c none, .sub g e c none, .and g e c none, .or g e c none, .xor g e c none, .shl g e c none, .shr g e c none, .sar g e c none,
      .min g e c none, .max g e c none, .cmp g e c none, .popc g e c none, .bfx g e c none, .bfi g e c none, .movi g e c none, .beq g e c none,
      .bne g e c none, .blt g e c none, .bge g e c none, .bltu g e c none, .bgeu g e c none, .jmp g e c none, .call g e c none, .ret g e c none,
      .ld g e c none none, .st g e c none, .dadd g e c none, .dor g e c none, .dinc g e c none, .fadd g e c none, .cas g e c none,
      .parseNext g e c none, .parseSkip g e c none, .parseSetht g e c none, .kclr g e c none, .kcat g e c none, .kreg g e c none,
      .lookupLdg g e c none, .lookupExm g e c none, .lookupWait g e c none, .ins g e c none, .del g e c none, .csum g e c none, .setv g e c none,
      .setq g e c none, .setb g e c none, .setr g e c none, .setm g e c none, .setx g e c none, .setc g e c none, .endPass g e c none, .nop g e c none,
      .movs g e c none, .trap g e c none, .handoff g e c none] : List Instr),
    (s.runnable (ctxKey g.val e.val c.val) = none → exec i s = .next s) ∧
    (∀ x, s.runnable (ctxKey g.val e.val c.val) = some x → s.insnMax (keyGuild (ctxKey g.val e.val c.val)) ≤ x.slots →
      exec i s = .next (s.trap (ctxKey g.val e.val c.val) x .budget 0)) ∧
    (∀ x, s.runnable (ctxKey g.val e.val c.val) = some x → x.slots < s.insnMax (keyGuild (ctxKey g.val e.val c.val)) →
      (s.fetch (keyGuild (ctxKey g.val e.val c.val)) x.pc).defined = false → Traps i s (ctxKey g.val e.val c.val) x .illegal)

end
end

