-- ==== Sys2Proof/Laws/Tab.lean ====
section
/-! SUPPORT. Sparse tables: what a read gives after a write, and that every operation keeps the canonical form. -/

namespace Sys2Proof.Machine

set_option autoImplicit false
set_option Elab.async false

variable {α : Type}

theorem Tab.drop_eq_filter (t : Tab α) (i : Nat) : Tab.drop t i = t.filter (fun p => p.1 ≠ i) := by
  induction t with
  | nil => rfl
  | cons p t ih =>
    obtain ⟨k, v⟩ := p
    by_cases h : k = i <;> simp [Tab.drop, h, ih]

theorem Tab.find_drop (t : Tab α) (i j : Nat) : Tab.find (Tab.drop t i) j = if j = i then none else Tab.find t j := by
  induction t with
  | nil => simp [Tab.drop, Tab.find]
  | cons p t ih =>
    obtain ⟨k, v⟩ := p
    by_cases h : k = i
    · by_cases hj : j = i
      · simp_all [Tab.drop]
      · have : ¬ i = j := fun e => hj e.symm
        simp_all [Tab.drop, Tab.find]
    · by_cases hj : k = j
      · subst hj
        simp [Tab.drop, Tab.find, h]
      · simp_all [Tab.drop, Tab.find]

theorem Tab.find_put (t : Tab α) (i j : Nat) (x : α) (h : Tab.find t i = none) :
    Tab.find (Tab.put t i x) j = if j = i then some x else Tab.find t j := by
  induction t with
  | nil =>
    by_cases hj : j = i
    · simp [Tab.put, Tab.find, hj]
    · have : ¬ i = j := fun e => hj e.symm
      simp [Tab.put, Tab.find, hj, this]
  | cons p t ih =>
    obtain ⟨k, v⟩ := p
    have hk : k ≠ i := by
      intro e
      simp [Tab.find, e] at h
    have ht : Tab.find t i = none := by simpa [Tab.find, hk] using h
    by_cases hlt : i < k
    · by_cases hj : j = i
      · simp [Tab.put, Tab.find, hlt, hj]
      · have : ¬ i = j := fun e => hj e.symm
        simp [Tab.put, Tab.find, hlt, hj, this]
    · by_cases hj : k = j
      · subst hj
        simp [Tab.put, Tab.find, hlt, hk]
      · simp [Tab.put, Tab.find, hlt, hj, ih ht]

/-- A read after a write gives the value written at that key and the old value at every other key. -/
theorem Tab.get_set [DecidableEq α] (d : Nat → α) (t : Tab α) (i j : Nat) (x : α) :
    Tab.get d (Tab.set d t i x) j = if j = i then x else Tab.get d t j := by
  unfold Tab.set
  split
  · next h =>
    unfold Tab.get
    rw [Tab.find_drop]
    by_cases hj : j = i
    · simp [hj, h]
    · simp [hj]
  · unfold Tab.get
    rw [Tab.find_put _ _ _ _ (by rw [Tab.find_drop]; simp), Tab.find_drop]
    by_cases hj : j = i <;> simp [hj]

@[simp] theorem Tab.get_set_same [DecidableEq α] (d : Nat → α) (t : Tab α) (i : Nat) (x : α) :
    Tab.get d (Tab.set d t i x) i = x := by simp [Tab.get_set]

theorem Tab.get_set_ne [DecidableEq α] (d : Nat → α) (t : Tab α) (i j : Nat) (x : α) (h : j ≠ i) :
    Tab.get d (Tab.set d t i x) j = Tab.get d t j := by simp [Tab.get_set, h]

@[simp] theorem Tab.get_nil (d : Nat → α) (i : Nat) : Tab.get d ([] : Tab α) i = d i := rfl

/-! The canonical form. -/

theorem Tab.rising_some (b : Nat) (t : Tab α) :
    Tab.rising (some b) t = true ↔ (∀ p ∈ t, b < p.1) ∧ t.Pairwise (fun p q => p.1 < q.1) := by
  induction t generalizing b with
  | nil => simp [Tab.rising]
  | cons p t ih =>
    obtain ⟨k, v⟩ := p
    simp only [Tab.rising, Bool.and_eq_true, decide_eq_true_eq, ih, List.mem_cons, forall_eq_or_imp, List.pairwise_cons]
    constructor
    · rintro ⟨h, h2, h3⟩
      exact ⟨⟨h, fun q hq => Nat.lt_trans h (h2 q hq)⟩, h2, h3⟩
    · rintro ⟨⟨h, -⟩, h2, h3⟩
      exact ⟨h, h2, h3⟩

theorem Tab.rising_none (t : Tab α) : Tab.rising none t = true ↔ t.Pairwise (fun p q => p.1 < q.1) := by
  cases t with
  | nil => simp [Tab.rising]
  | cons p t =>
    obtain ⟨k, v⟩ := p
    simp only [Tab.rising, Tab.rising_some, List.pairwise_cons]

theorem Tab.wf_iff [DecidableEq α] (d : Nat → α) (t : Tab α) :
    Tab.wf d t = true ↔ t.Pairwise (fun p q => p.1 < q.1) ∧ ∀ p ∈ t, p.2 ≠ d p.1 := by
  unfold Tab.wf
  rw [Bool.and_eq_true, Tab.rising_none, List.all_eq_true]
  simp only [decide_eq_true_eq]

@[simp] theorem Tab.wf_nil [DecidableEq α] (d : Nat → α) : Tab.wf d ([] : Tab α) = true := rfl

theorem Tab.wf_filter [DecidableEq α] (d : Nat → α) (t : Tab α) (f : Nat × α → Bool) (h : Tab.wf d t = true) :
    Tab.wf d (t.filter f) = true := by
  rw [Tab.wf_iff] at *
  exact ⟨h.1.filter f, fun p hp => h.2 p (List.mem_of_mem_filter hp)⟩

theorem Tab.wf_drop [DecidableEq α] (d : Nat → α) (t : Tab α) (i : Nat) (h : Tab.wf d t = true) :
    Tab.wf d (Tab.drop t i) = true := by
  rw [Tab.drop_eq_filter]
  exact Tab.wf_filter d t _ h

theorem Tab.mem_put (t : Tab α) (i : Nat) (x : α) (p : Nat × α) : p ∈ Tab.put t i x ↔ p = (i, x) ∨ p ∈ t := by
  induction t with
  | nil => simp [Tab.put]
  | cons q t ih =>
    obtain ⟨k, v⟩ := q
    by_cases h : i < k
    · simp [Tab.put, h]
    · simp only [Tab.put, h, if_false, List.mem_cons, ih]
      exact or_left_comm

theorem Tab.put_pairwise (t : Tab α) (i : Nat) (x : α) (h : t.Pairwise (fun p q => p.1 < q.1)) (hi : ∀ p ∈ t, p.1 ≠ i) :
    (Tab.put t i x).Pairwise (fun p q => p.1 < q.1) := by
  induction t with
  | nil => simp [Tab.put]
  | cons q t ih =>
    obtain ⟨k, v⟩ := q
    rw [List.pairwise_cons] at h
    by_cases hk : i < k
    · simp only [Tab.put, hk, if_true, List.pairwise_cons, List.mem_cons, forall_eq_or_imp, true_and]
      exact ⟨fun p hp => Nat.lt_trans hk (h.1 p hp), h.1, h.2⟩
    · simp only [Tab.put, hk, if_false, List.pairwise_cons]
      refine ⟨fun p hp => ?_, ih h.2 (fun p hp => hi p (List.mem_cons_of_mem _ hp))⟩
      rcases (Tab.mem_put t i x p).1 hp with e | hp
      · have : k ≠ i := hi (k, v) (List.mem_cons_self ..)
        simp only [e]
        omega
      · exact h.1 p hp

/-- A write keeps the canonical form. -/
theorem Tab.wf_set [DecidableEq α] (d : Nat → α) (t : Tab α) (i : Nat) (x : α) (h : Tab.wf d t = true) :
    Tab.wf d (Tab.set d t i x) = true := by
  unfold Tab.set
  split
  · exact Tab.wf_drop d t i h
  · next hx =>
    have hd := (Tab.wf_iff d _).1 (Tab.wf_drop d t i h)
    rw [Tab.wf_iff]
    refine ⟨Tab.put_pairwise _ _ _ hd.1 (fun p hp => ?_), fun p hp => ?_⟩
    · rw [Tab.drop_eq_filter] at hp
      simpa using (List.mem_filter.1 hp).2
    · rcases (Tab.mem_put _ i x p).1 hp with e | hp
      · simp [e, hx]
      · exact hd.2 p hp

theorem Tab.wf_mod [DecidableEq α] (d : Nat → α) (t : Tab α) (i : Nat) (f : α → α) (h : Tab.wf d t = true) :
    Tab.wf d (Tab.mod d t i f) = true := Tab.wf_set d t i _ h

/-- What a table holds after a write was written, or was there before. -/
theorem Tab.mem_set [DecidableEq α] (d : Nat → α) (t : Tab α) (i : Nat) (x : α) (p : Nat × α) (h : p ∈ Tab.set d t i x) :
    p = (i, x) ∨ p ∈ t := by
  unfold Tab.set at h
  split at h
  · rw [Tab.drop_eq_filter] at h
    exact .inr (List.mem_of_mem_filter h)
  · rcases (Tab.mem_put _ _ _ _).1 h with e | h
    · exact .inl e
    · rw [Tab.drop_eq_filter] at h
      exact .inr (List.mem_of_mem_filter h)

/-- A value read from a table is listed in it or is the value an unlisted key has. -/
theorem Tab.get_mem (d : Nat → α) (t : Tab α) (i : Nat) : Tab.get d t i = d i ∨ (i, Tab.get d t i) ∈ t := by
  have hf : ∀ v, Tab.find t i = some v → (i, v) ∈ t := by
    induction t with
    | nil => intro v h; simp [Tab.find] at h
    | cons q t ih =>
      obtain ⟨k, w⟩ := q
      intro v h
      by_cases hk : k = i
      · simp only [Tab.find, hk, if_true, Option.some.injEq] at h
        simp [hk, h]
      · simp only [Tab.find, hk, if_false] at h
        exact List.mem_cons_of_mem _ (ih v h)
  unfold Tab.get
  cases h : Tab.find t i with
  | none => exact .inl rfl
  | some v => exact .inr (hf v h)

end Sys2Proof.Machine
end

