-- ==== Sys2Proof/Laws/Keeps.lean ====
section
/-! SUPPORT. The shared moves of the proofs that a command leaves the queue and the canonical form of the state's data
alone: updates of the other fields, folds, choices. -/

namespace Sys2Proof.Machine

set_option autoImplicit false

variable {P : Prop} {Q : List Instr}

/-- A state that differs only in fields the property does not read. -/
theorem keeps_upd {s : State} (free : Nat) (flt : Flt) (pon : Pon) (act : Act) (whf : Whf) (cpg : Cpg) (keys : Keys)
    (pm : Pm) (stw : Stw) (twn : Twn) (ldg : Ldg) (eng : Eng) (fwd : Fwd) (hrl : Hrl) (shl : Shl) (tly : Tly) (wdn : Wdn)
    (boot : Boot) (hst : Hst) :
    (State.mk s.words s.latch s.ctrs s.now free s.pending flt pon act whf cpg keys pm stw twn ldg eng fwd hrl shl tly wdn boot hst
      s.rdata).Keeps P Q ↔ s.Keeps P Q := ⟨fun h => ⟨h.1, h.2⟩, fun h => ⟨h.1, h.2⟩⟩

theorem foldl_keeps {α : Type} {s : State} (l : List α) (f : State → α → State) (h : s.Keeps P Q)
    (hf : ∀ t x, t.Keeps P Q → (f t x).Keeps P Q) : (l.foldl f s).Keeps P Q := by
  induction l generalizing s with
  | nil => exact h
  | cons x l ih => exact ih (hf s x h)

theorem foldl_fst_keeps {α β : Type} {s : State} {b : β} (l : List α) (f : State × β → α → State × β) (h : s.Keeps P Q)
    (hf : ∀ (a : State × β) x, a.1.Keeps P Q → (f a x).1.Keeps P Q) : (l.foldl f (s, b)).1.Keeps P Q := by
  induction l generalizing s b with
  | nil => exact h
  | cons x l ih => exact ih (hf (s, b) x h)

/-- A command that answers a next state in canonical form with the queue as it was. -/
theorem completes_keeps (t : State) (h : t.Keeps P Q) : Completes (.next t) (State.Keeps P Q) := ⟨t, rfl, h⟩

theorem ite_keeps {c : Prop} [Decidable c] {a b : State} (ha : a.Keeps P Q) (hb : b.Keeps P Q) : (if c then a else b).Keeps P Q := by
  split
  · exact ha
  · exact hb

theorem completes_ite {c : Prop} [Decidable c] {a b : Host.Outcome State Fault Refusal} {p : State → Prop} (ha : Completes a p)
    (hb : Completes b p) : Completes (if c then a else b) p := by
  split
  · exact ha
  · exact hb

theorem fst_keeps {α : Type} {p : State × α} {t : State} {x : α} (e : p = (t, x)) (h : p.1.Keeps P Q) : t.Keeps P Q := by
  subst e
  exact h

theorem snd_keeps {α : Type} {p : α × State} {t : State} {x : α} (e : p = (x, t)) (h : p.2.Keeps P Q) : t.Keeps P Q := by
  subst e
  exact h

theorem Words.wf_put (w : Words) (a : Nat) (v : Word) (h : Tab.wf wordReset w = true) : Tab.wf wordReset (w.put a v) = true :=
  Tab.wf_set _ _ _ _ h

theorem State.wr_keeps {s : State} (h : s.Keeps P Q) (f : Fld) (v : Nat) : (s.wr f v).Keeps P Q :=
  ⟨h.1, fun w => ⟨Words.wf_put _ _ _ (h.2 w).1, (h.2 w).2⟩⟩

theorem State.putWord_keeps {s : State} (h : s.Keeps P Q) (a : Nat) (v : Word) : (s.putWord a v).Keeps P Q :=
  ⟨h.1, fun w => ⟨Words.wf_put _ _ _ (h.2 w).1, (h.2 w).2⟩⟩

theorem State.setLatch_keeps {s : State} (h : s.Keeps P Q) (a : Nat) (w : Word) : (s.setLatch a w).Keeps P Q :=
  ⟨h.1, fun p => ⟨(h.2 p).1, Words.wf_put _ _ _ (h.2 p).2.1, (h.2 p).2.2⟩⟩

theorem State.answer_keeps {s : State} (h : s.Keeps P Q) (ag : Agent) (w : Word) : (s.answer ag w).Keeps P Q :=
  ⟨h.1, fun p => ⟨(h.2 p).1, (h.2 p).2.1, (h.2 p).2.2.1, (h.2 p).2.2.2.1, (h.2 p).2.2.2.2.1, Tab.wf_set _ _ _ _ (h.2 p).2.2.2.2.2⟩⟩

/-- A counter put at an address, its count within 48 bits. -/
theorem ctrs_keeps {s : State} (h : s.Keeps P Q) (a : Nat) (c : Ctr) (hc : P → c.count < 2 ^ 48) :
    ({ s with ctrs := Tab.set (fun _ => Ctr.zero) s.ctrs a c } : State).Keeps P Q := by
  refine ⟨h.1, fun w => ⟨(h.2 w).1, (h.2 w).2.1, Tab.wf_set _ _ _ _ (h.2 w).2.2.1, fun p hp => ?_, (h.2 w).2.2.2.2⟩⟩
  have hp : p ∈ Tab.set (fun _ => Ctr.zero) s.ctrs a c := hp
  rcases Tab.mem_set _ _ _ _ _ hp with e | hp
  · rw [e]
    exact hc w
  · exact (h.2 w).2.2.2.1 p hp

theorem Ctr.add_lt (c : Ctr) (n : Nat) : (c.add n).count < 2 ^ 48 := Nat.mod_lt _ (by decide)

/-- Every counter of a sound state is below 2^48. -/
theorem State.ctr_lt {s : State} (h : s.Keeps P Q) (a : Nat) (w : P) : (s.ctr a).count < 2 ^ 48 := by
  rcases Tab.get_mem (fun _ => Ctr.zero) s.ctrs a with e | e
  · simp only [State.ctr, e]
    decide
  · exact (h.2 w).2.2.2.1 _ e

theorem State.tally_keeps {s : State} (h : s.Keeps P Q) (code qual inst n : Nat) (priv : Option PrivAcc) :
    (s.tally code qual inst n priv).Keeps P Q := (keeps_upd ..).2 h

theorem State.countQ_keeps {s : State} (h : s.Keeps P Q) (a n qual : Nat) : (s.countQ a n qual).Keeps P Q := by
  have h1 := ctrs_keeps h a ((s.ctr a).add n) (fun _ => Ctr.add_lt _ _)
  unfold State.countQ
  dsimp only
  split
  · split
    · exact h1
    · exact State.tally_keeps h1 ..
  · exact h1

end Sys2Proof.Machine
end

