-- ==== Sys2Proof/Laws/KeepsOps.lean ====
section
/-! SUPPORT. Generated: the operations of Machine/Ops.lean leave the queue and the canonical form alone. -/

namespace Sys2Proof.Machine

set_option autoImplicit false
set_option linter.unusedTactic false
set_option linter.unreachableTactic false
set_option linter.unusedSimpArgs false

variable {P : Prop} {Q : List Instr}

theorem State.count_keeps {s : State} (h : s.Keeps P Q) (a n : Nat) : (State.count s a n).Keeps P Q := by
  unfold State.count
  repeat' first
    | with_reducible exact h
    | with_reducible assumption
    | simp only [↓keeps_upd]
    | with_reducible apply State.countQ_keeps
    | intro _
    | refine fst_keeps (by assumption) ?_
    | refine snd_keeps (by assumption) ?_
    | split
    | dsimp only


theorem State.incQ_keeps {s : State} (h : s.Keeps P Q) (a q : Nat) : (State.incQ s a q).Keeps P Q := by
  unfold State.incQ
  repeat' first
    | with_reducible exact h
    | with_reducible assumption
    | simp only [↓keeps_upd]
    | with_reducible apply State.countQ_keeps
    | intro _
    | refine fst_keeps (by assumption) ?_
    | refine snd_keeps (by assumption) ?_
    | split
    | dsimp only


theorem State.inc_keeps {s : State} (h : s.Keeps P Q) (a : Nat) : (State.inc s a).Keeps P Q := by
  unfold State.inc
  repeat' first
    | with_reducible exact h
    | with_reducible assumption
    | simp only [↓keeps_upd]
    | with_reducible apply State.count_keeps
    | intro _
    | refine fst_keeps (by assumption) ?_
    | refine snd_keeps (by assumption) ?_
    | split
    | dsimp only


theorem State.raise_keeps {s : State} (h : s.Keeps P Q) (k : Kind) (src : Source) (addr : Nat) : (State.raise s k src addr).Keeps P Q := by
  unfold State.raise
  repeat' first
    | with_reducible exact h
    | with_reducible assumption
    | simp only [↓keeps_upd]
    | intro _
    | refine fst_keeps (by assumption) ?_
    | refine snd_keeps (by assumption) ?_
    | split
    | dsimp only


theorem State.onset_keeps {s : State} (h : s.Keeps P Q) (k : Kind) (src : Source) (sub addr : Nat) : (State.onset s k src sub addr).Keeps P Q := by
  unfold State.onset
  repeat' first
    | with_reducible exact h
    | with_reducible assumption
    | simp only [↓keeps_upd]
    | intro _
    | refine fst_keeps (by assumption) ?_
    | refine snd_keeps (by assumption) ?_
    | split
    | dsimp only


theorem State.endCause_keeps {s : State} (h : s.Keeps P Q) (k : Kind) (src : Source) (sub : Nat) : (State.endCause s k src sub).Keeps P Q := by
  unfold State.endCause
  repeat' first
    | with_reducible exact h
    | with_reducible assumption
    | simp only [↓keeps_upd]
    | intro _
    | refine fst_keeps (by assumption) ?_
    | refine snd_keeps (by assumption) ?_
    | split
    | dsimp only


theorem State.raiseLimited_keeps {s : State} (h : s.Keeps P Q) (k : Kind) (src : Source) (addr key ns : Nat) : (State.raiseLimited s k src addr key ns).Keeps P Q := by
  unfold State.raiseLimited
  repeat' first
    | with_reducible exact h
    | with_reducible assumption
    | simp only [↓keeps_upd]
    | with_reducible apply State.raise_keeps
    | intro _
    | refine fst_keeps (by assumption) ?_
    | refine snd_keeps (by assumption) ?_
    | split
    | dsimp only


theorem State.priv_keeps {s : State} (h : s.Keeps P Q) (code q n : Nat) (x : PrivAcc) : (State.priv s code q n x).Keeps P Q := by
  unfold State.priv
  repeat' first
    | with_reducible exact h
    | with_reducible assumption
    | simp only [↓keeps_upd]
    | with_reducible apply State.tally_keeps
    | intro _
    | refine fst_keeps (by assumption) ?_
    | refine snd_keeps (by assumption) ?_
    | split
    | dsimp only


theorem State.denyAs_keeps {s : State} (h : s.Keeps P Q) (rd : Bool) (ag : Agent) (r : Deny) (addr win : Nat) : (State.denyAs s rd ag r addr win).Keeps P Q := by
  unfold State.denyAs
  repeat' first
    | with_reducible exact h
    | with_reducible assumption
    | simp only [↓keeps_upd]
    | with_reducible apply State.inc_keeps
    | with_reducible apply State.priv_keeps
    | with_reducible apply State.putWord_keeps
    | with_reducible apply State.raiseLimited_keeps
    | intro _
    | refine fst_keeps (by assumption) ?_
    | refine snd_keeps (by assumption) ?_
    | split
    | dsimp only


theorem State.deny_keeps {s : State} (h : s.Keeps P Q) (ag : Agent) (r : Deny) (addr win : Nat) : (State.deny s ag r addr win).Keeps P Q := by
  unfold State.deny
  repeat' first
    | with_reducible exact h
    | with_reducible assumption
    | simp only [↓keeps_upd]
    | with_reducible apply State.denyAs_keeps
    | intro _
    | refine fst_keeps (by assumption) ?_
    | refine snd_keeps (by assumption) ?_
    | split
    | dsimp only


theorem State.tlps_keeps {s : State} (h : s.Keeps P Q) (n bytes : Nat) (x : PrivAcc) : (State.tlps s n bytes x).Keeps P Q := by
  unfold State.tlps
  repeat' first
    | with_reducible exact h
    | with_reducible assumption
    | simp only [↓keeps_upd]
    | with_reducible apply State.priv_keeps
    | intro _
    | refine fst_keeps (by assumption) ?_
    | refine snd_keeps (by assumption) ?_
    | split
    | dsimp only


theorem State.hostTlp_keeps {s : State} (h : s.Keeps P Q) (rd : Bool) (ag : Agent) (addr : Nat) : (State.hostTlp s rd ag addr).Keeps P Q := by
  unfold State.hostTlp
  repeat' first
    | with_reducible exact h
    | with_reducible assumption
    | simp only [↓keeps_upd]
    | with_reducible apply State.tlps_keeps
    | intro _
    | refine fst_keeps (by assumption) ?_
    | refine snd_keeps (by assumption) ?_
    | split
    | dsimp only


theorem State.setFn_keeps {s : State} (h : s.Keeps P Q) (f : Nat) (x : Fn) : (State.setFn s f x).Keeps P Q := by
  unfold State.setFn
  repeat' first
    | with_reducible exact h
    | with_reducible assumption
    | simp only [↓keeps_upd]
    | intro _
    | refine fst_keeps (by assumption) ?_
    | refine snd_keeps (by assumption) ?_
    | split
    | dsimp only


theorem State.msi_keeps {s : State} (h : s.Keeps P Q) (f v : Nat) : (State.msi s f v).Keeps P Q := by
  unfold State.msi
  repeat' first
    | with_reducible exact h
    | with_reducible assumption
    | simp only [↓keeps_upd]
    | with_reducible apply State.setFn_keeps
    | intro _
    | refine fst_keeps (by assumption) ?_
    | refine snd_keeps (by assumption) ?_
    | split
    | dsimp only


theorem State.msiFlush_keeps {s : State} (h : s.Keeps P Q) (f : Nat) : (State.msiFlush s f).Keeps P Q := by
  unfold State.msiFlush
  repeat' first
    | with_reducible exact h
    | with_reducible assumption
    | simp only [↓keeps_upd]
    | with_reducible apply State.msi_keeps
    | with_reducible apply foldl_keeps
    | intro _
    | refine fst_keeps (by assumption) ?_
    | refine snd_keeps (by assumption) ?_
    | split
    | dsimp only


theorem State.level_keeps {s : State} (h : s.Keeps P Q) : (State.level s).Keeps P Q := by
  unfold State.level
  repeat' first
    | with_reducible exact h
    | with_reducible assumption
    | simp only [↓keeps_upd]
    | with_reducible apply State.msi_keeps
    | intro _
    | refine fst_keeps (by assumption) ?_
    | refine snd_keeps (by assumption) ?_
    | split
    | dsimp only


theorem State.takeFree_keeps {s : State} (h : s.Keeps P Q) : (State.takeFree s).2.Keeps P Q := by
  unfold State.takeFree
  repeat' first
    | with_reducible exact h
    | with_reducible assumption
    | simp only [↓keeps_upd]
    | intro _
    | refine fst_keeps (by assumption) ?_
    | refine snd_keeps (by assumption) ?_
    | split
    | dsimp only


theorem State.twinSend_keeps {s : State} (h : s.Keeps P Q) (type_ port side sfc arg : Nat) : (State.twinSend s type_ port side sfc arg).Keeps P Q := by
  unfold State.twinSend
  repeat' first
    | with_reducible exact h
    | with_reducible assumption
    | simp only [↓keeps_upd]
    | intro _
    | refine fst_keeps (by assumption) ?_
    | refine snd_keeps (by assumption) ?_
    | split
    | dsimp only


theorem State.mirror_keeps {s : State} (h : s.Keeps P Q) (type_ : Nat) (p : Fin 32) (side x : Nat) : (State.mirror s type_ p side x).Keeps P Q := by
  unfold State.mirror
  repeat' first
    | with_reducible exact h
    | with_reducible assumption
    | simp only [↓keeps_upd]
    | with_reducible apply State.twinSend_keeps
    | intro _
    | refine fst_keeps (by assumption) ?_
    | refine snd_keeps (by assumption) ?_
    | split
    | dsimp only


end Sys2Proof.Machine
end

