-- ==== Sys2Proof/Laws/KeepsAccess.lean ====
section
/-! SUPPORT. Generated: the operations of Machine/Access.lean leave the queue and the canonical form alone. -/

namespace Sys2Proof.Machine

set_option autoImplicit false
set_option linter.unusedTactic false
set_option linter.unreachableTactic false
set_option linter.unusedSimpArgs false

variable {P : Prop} {Q : List Instr}

theorem State.gate_keeps {s : State} (h : s.Keeps P Q) (ag : Agent) (a : Nat) (k : State → State) (hk : ∀ t : State, t.Keeps P Q → (k t).Keeps P Q) : (State.gate s ag a k).Keeps P Q := by
  unfold State.gate
  repeat' first
    | with_reducible exact h
    | with_reducible assumption
    | simp only [↓keeps_upd]
    | with_reducible apply State.hostTlp_keeps
    | with_reducible apply State.deny_keeps
    | with_reducible apply hk
    | intro _
    | refine fst_keeps (by assumption) ?_
    | refine snd_keeps (by assumption) ?_
    | split
    | dsimp only


theorem State.storeWord_keeps {s : State} (h : s.Keeps P Q) (ag : Agent) (a : Nat) (v : Word) : (State.storeWord s ag a v).Keeps P Q := by
  unfold State.storeWord
  repeat' first
    | with_reducible exact h
    | with_reducible assumption
    | simp only [↓keeps_upd]
    | with_reducible apply State.deny_keeps
    | with_reducible apply State.putWord_keeps
    | intro _
    | refine fst_keeps (by assumption) ?_
    | refine snd_keeps (by assumption) ?_
    | split
    | dsimp only


theorem State.winGate_keeps {s : State} (h : s.Keeps P Q) (ag : Agent) (w idx : Nat) (k : State → State) (hk : ∀ t : State, t.Keeps P Q → (k t).Keeps P Q) : (State.winGate s ag w idx k).Keeps P Q := by
  unfold State.winGate
  repeat' first
    | with_reducible exact h
    | with_reducible assumption
    | simp only [↓keeps_upd]
    | with_reducible apply State.deny_keeps
    | with_reducible apply hk
    | intro _
    | refine fst_keeps (by assumption) ?_
    | refine snd_keeps (by assumption) ?_
    | split
    | dsimp only


theorem State.putEntry_keeps {s : State} (h : s.Keeps P Q) (w idx first : Nat) (vs : List Word) : (State.putEntry s w idx first vs).Keeps P Q := by
  unfold State.putEntry
  repeat' first
    | with_reducible exact h
    | with_reducible assumption
    | simp only [↓keeps_upd]
    | with_reducible apply State.putWord_keeps
    | with_reducible apply foldl_keeps
    | intro _
    | refine fst_keeps (by assumption) ?_
    | refine snd_keeps (by assumption) ?_
    | split
    | dsimp only


end Sys2Proof.Machine
end

