-- ==== Sys2Proof/Laws/KeepsWharf.lean ====
section
/-! SUPPORT. Generated: the operations of Machine/Wharf.lean leave the queue and the canonical form alone. -/

namespace Sys2Proof.Machine

set_option autoImplicit false
set_option linter.unusedTactic false
set_option linter.unreachableTactic false
set_option linter.unusedSimpArgs false

variable {P : Prop} {Q : List Instr}

theorem State.setSide_keeps {s : State} (h : s.Keeps P Q) (p : Fin 32) (sd : Nat) (x : PonSide) : (State.setSide s p sd x).Keeps P Q := by
  unfold State.setSide
  repeat' first
    | with_reducible exact h
    | with_reducible assumption
    | simp only [↓keeps_upd]
    | intro _
    | refine fst_keeps (by assumption) ?_
    | refine snd_keeps (by assumption) ?_
    | split
    | dsimp only


theorem State.setPort_keeps {s : State} (h : s.Keeps P Q) (p : Fin 32) (x : PonPort) : (State.setPort s p x).Keeps P Q := by
  unfold State.setPort
  repeat' first
    | with_reducible exact h
    | with_reducible assumption
    | simp only [↓keeps_upd]
    | intro _
    | refine fst_keeps (by assumption) ?_
    | refine snd_keeps (by assumption) ?_
    | split
    | dsimp only


theorem State.unmonitor_keeps {s : State} (h : s.Keeps P Q) (k : Nat) : (State.unmonitor s k).Keeps P Q := by
  unfold State.unmonitor
  repeat' first
    | with_reducible exact h
    | with_reducible assumption
    | simp only [↓keeps_upd]
    | intro _
    | refine fst_keeps (by assumption) ?_
    | refine snd_keeps (by assumption) ?_
    | split
    | dsimp only


theorem State.setSlot_keeps {s : State} (h : s.Keeps P Q) (p : Fin 32) (i : Nat) (x : Slot) : (State.setSlot s p i x).Keeps P Q := by
  unfold State.setSlot
  repeat' first
    | with_reducible exact h
    | with_reducible assumption
    | simp only [↓keeps_upd]
    | with_reducible apply State.unmonitor_keeps
    | with_reducible apply State.mirror_keeps
    | intro _
    | refine fst_keeps (by assumption) ?_
    | refine snd_keeps (by assumption) ?_
    | split
    | dsimp only


theorem State.setAlloc_keeps {s : State} (h : s.Keeps P Q) (p : Fin 32) (i : Nat) (x : AllocRt) : (State.setAlloc s p i x).Keeps P Q := by
  unfold State.setAlloc
  repeat' first
    | with_reducible exact h
    | with_reducible assumption
    | simp only [↓keeps_upd]
    | intro _
    | refine fst_keeps (by assumption) ?_
    | refine snd_keeps (by assumption) ?_
    | split
    | dsimp only


theorem State.setDisc_keeps {s : State} (h : s.Keeps P Q) (p : Fin 32) (sd : Nat) (x : Disc) : (State.setDisc s p sd x).Keeps P Q := by
  unfold State.setDisc
  repeat' first
    | with_reducible exact h
    | with_reducible assumption
    | simp only [↓keeps_upd]
    | intro _
    | refine fst_keeps (by assumption) ?_
    | refine snd_keeps (by assumption) ?_
    | split
    | dsimp only


theorem State.setSwap_keeps {s : State} (h : s.Keeps P Q) (p : Fin 32) (x : Swap) : (State.setSwap s p x).Keeps P Q := by
  unfold State.setSwap
  repeat' first
    | with_reducible exact h
    | with_reducible assumption
    | simp only [↓keeps_upd]
    | intro _
    | refine fst_keeps (by assumption) ?_
    | refine snd_keeps (by assumption) ?_
    | split
    | dsimp only


theorem State.refill_keeps {s : State} (h : s.Keeps P Q) (p : Fin 32) (sd : Nat) : (State.refill s p sd).Keeps P Q := by
  unfold State.refill
  repeat' first
    | with_reducible exact h
    | with_reducible assumption
    | simp only [↓keeps_upd]
    | with_reducible apply State.setAlloc_keeps
    | with_reducible apply foldl_keeps
    | intro _
    | refine fst_keeps (by assumption) ?_
    | refine snd_keeps (by assumption) ?_
    | split
    | dsimp only


theorem State.credit_keeps {s : State} (h : s.Keeps P Q) (p : Fin 32) (i g assured : Nat) (back : Bool) : (State.credit s p i g assured back).Keeps P Q := by
  unfold State.credit
  repeat' first
    | with_reducible exact h
    | with_reducible assumption
    | simp only [↓keeps_upd]
    | with_reducible apply State.setAlloc_keeps
    | intro _
    | refine fst_keeps (by assumption) ?_
    | refine snd_keeps (by assumption) ?_
    | split
    | dsimp only


theorem State.debit_keeps {s : State} (h : s.Keeps P Q) (p : Fin 32) (sd : Nat) (snap : Tab AllocRt) (m : BwMap) : (State.debit s p sd snap m).Keeps P Q := by
  unfold State.debit
  repeat' first
    | with_reducible exact h
    | with_reducible assumption
    | simp only [↓keeps_upd]
    | with_reducible apply State.credit_keeps
    | with_reducible apply State.setAlloc_keeps
    | with_reducible apply State.setSlot_keeps
    | with_reducible apply foldl_keeps
    | intro _
    | refine fst_keeps (by assumption) ?_
    | refine snd_keeps (by assumption) ?_
    | split
    | dsimp only


theorem State.carry_keeps {s : State} (h : s.Keeps P Q) (p : Fin 32) (sd : Nat) (m : BwMap) : (State.carry s p sd m).Keeps P Q := by
  unfold State.carry
  repeat' first
    | with_reducible exact h
    | with_reducible assumption
    | simp only [↓keeps_upd]
    | with_reducible apply State.credit_keeps
    | with_reducible apply State.setAlloc_keeps
    | with_reducible apply State.inflight_keeps
    | with_reducible apply State.count_keeps
    | with_reducible apply State.setSlot_keeps
    | with_reducible apply foldl_keeps
    | intro _
    | refine fst_keeps (by assumption) ?_
    | refine snd_keeps (by assumption) ?_
    | split
    | dsimp only


theorem State.inflight_keeps {s : State} (h : s.Keeps P Q) (p : Fin 32) (m : BwMap) : (State.inflight s p m).Keeps P Q := by
  unfold State.inflight
  repeat' first
    | with_reducible exact h
    | with_reducible assumption
    | simp only [↓keeps_upd]
    | with_reducible apply State.setAlloc_keeps
    | with_reducible apply foldl_keeps
    | intro _
    | refine fst_keeps (by assumption) ?_
    | refine snd_keeps (by assumption) ?_
    | split
    | dsimp only


theorem State.ctiAfter_keeps {s : State} (h : s.Keeps P Q) (p : Fin 32) (sd n : Nat) (m : BwMap) (rest : List (Nat × Nat)) : (State.ctiAfter s p sd n m rest).Keeps P Q := by
  unfold State.ctiAfter
  repeat' first
    | with_reducible exact h
    | with_reducible assumption
    | simp only [↓keeps_upd]
    | intro _
    | refine fst_keeps (by assumption) ?_
    | refine snd_keeps (by assumption) ?_
    | split
    | dsimp only


theorem State.ctiBefore_keeps {s : State} (h : s.Keeps P Q) (p : Fin 32) (f n : Nat) (took : List CtiRec) (ms : List BwMap) : (State.ctiBefore s p f n took ms).Keeps P Q := by
  unfold State.ctiBefore
  repeat' first
    | with_reducible exact h
    | with_reducible assumption
    | simp only [↓keeps_upd]
    | intro _
    | refine fst_keeps (by assumption) ?_
    | refine snd_keeps (by assumption) ?_
    | split
    | dsimp only


end Sys2Proof.Machine
end

