-- ==== Sys2Proof/Laws/KeepsAssay.lean ====
section
/-! SUPPORT. Generated: the operations of Machine/Assay.lean leave the queue and the canonical form alone. -/

namespace Sys2Proof.Machine

set_option autoImplicit false
set_option linter.unusedTactic false
set_option linter.unreachableTactic false
set_option linter.unusedSimpArgs false

variable {P : Prop} {Q : List Instr}

theorem State.repaired_keeps {s : State} (h : s.Keeps P Q) (p : Fin 32) (sd rule n : Nat) (l : List (Nat × Nat)) : (State.repaired s p sd rule n l).Keeps P Q := by
  unfold State.repaired
  repeat' first
    | with_reducible exact h
    | with_reducible assumption
    | simp only [↓keeps_upd]
    | with_reducible apply State.wr_keeps
    | with_reducible apply State.inc_keeps
    | with_reducible apply State.raise_keeps
    | with_reducible apply foldl_keeps
    | intro _
    | refine fst_keeps (by assumption) ?_
    | refine snd_keeps (by assumption) ?_
    | split
    | dsimp only


theorem State.giveBack_keeps {s : State} (h : s.Keeps P Q) (p : Fin 32) (sd : Nat) (a b : BwMap) : (State.giveBack s p sd a b).Keeps P Q := by
  unfold State.giveBack
  repeat' first
    | with_reducible exact h
    | with_reducible assumption
    | simp only [↓keeps_upd]
    | with_reducible apply State.credit_keeps
    | with_reducible apply State.count_keeps
    | with_reducible apply State.setSlot_keeps
    | with_reducible apply foldl_keeps
    | intro _
    | refine fst_keeps (by assumption) ?_
    | refine snd_keeps (by assumption) ?_
    | split
    | dsimp only


theorem State.applyRule_keeps {s : State} (h : s.Keeps P Q) (p : Fin 32) (sd rule : Nat) (back : Bool) (a b : BwMap) : (State.applyRule s p sd rule back a b).Keeps P Q := by
  unfold State.applyRule
  repeat' first
    | with_reducible exact h
    | with_reducible assumption
    | simp only [↓keeps_upd]
    | with_reducible apply State.giveBack_keeps
    | with_reducible apply State.repaired_keeps
    | intro _
    | refine fst_keeps (by assumption) ?_
    | refine snd_keeps (by assumption) ?_
    | split
    | dsimp only


theorem State.checkMap_keeps {s : State} (h : s.Keeps P Q) (v : State) (p : Fin 32) (sd page used10 : Nat) (back : Bool) (m : BwMap) : (State.checkMap s v p sd page used10 back m).1.Keeps P Q := by
  unfold State.checkMap
  repeat' first
    | with_reducible exact h
    | with_reducible assumption
    | simp only [↓keeps_upd]
    | with_reducible apply State.applyRule_keeps
    | intro _
    | refine fst_keeps (by assumption) ?_
    | refine snd_keeps (by assumption) ?_
    | split
    | dsimp only


theorem State.checkAll_keeps {s : State} (h : s.Keeps P Q) (b : Build) : (State.checkAll s b).1.Keeps P Q := by
  unfold State.checkAll
  extract_lets v
  refine foldl_fst_keeps _ _ h (fun a x ha => ?_)
  dsimp only
  with_reducible exact State.checkMap_keeps ha ..


theorem State.rule10_keeps {s : State} (h : s.Keeps P Q) (b : Build) : (State.rule10 s b).1.Keeps P Q := by
  unfold State.rule10
  extract_lets _ _ _ _ _ _ r s1
  have hr : r.1.Keeps P Q := by
    refine foldl_fst_keeps _ _ h (fun a x ha => ?_)
    exact State.count_keeps (State.applyRule_keeps ha ..) ..
  have h1 : s1.Keeps P Q := State.wr_keeps (State.wr_keeps hr ..) ..
  dsimp only
  split
  · exact h1
  · exact State.raise_keeps h1 ..


theorem State.shortfall_keeps {s : State} (h : s.Keeps P Q) (p : Fin 32) (sd i : Nat) (m : BwMap) (snap : AllocRt) (image : Bool) : (State.shortfall s p sd i m snap image).Keeps P Q := by
  unfold State.shortfall
  repeat' first
    | with_reducible exact h
    | with_reducible assumption
    | simp only [↓keeps_upd]
    | with_reducible apply State.inflight_keeps
    | with_reducible apply State.setAlloc_keeps
    | with_reducible apply State.wr_keeps
    | with_reducible apply State.raise_keeps
    | intro _
    | refine fst_keeps (by assumption) ?_
    | refine snd_keeps (by assumption) ?_
    | split
    | dsimp only


theorem State.shortfalls_keeps {s : State} (h : s.Keeps P Q) (p : Fin 32) (sd : Nat) (b : Build) (m : BwMap) : (State.shortfalls s p sd b m).Keeps P Q := by
  unfold State.shortfalls
  repeat' first
    | with_reducible exact h
    | with_reducible assumption
    | simp only [↓keeps_upd]
    | with_reducible apply State.shortfall_keeps
    | with_reducible apply foldl_keeps
    | intro _
    | refine fst_keeps (by assumption) ?_
    | refine snd_keeps (by assumption) ?_
    | split
    | dsimp only


end Sys2Proof.Machine
end

