-- ==== Sys2Proof/Laws/KeepsAssign.lean ====
section
/-! SUPPORT. Generated: the operations of Machine/Assign.lean leave the queue and the canonical form alone. -/

namespace Sys2Proof.Machine

set_option autoImplicit false
set_option linter.unusedTactic false
set_option linter.unreachableTactic false
set_option linter.unusedSimpArgs false

variable {P : Prop} {Q : List Instr}

theorem State.buildOne_keeps {s : State} (h : s.Keeps P Q) (b : Build) (p : Fin 32) (sd n : Nat) (rebuild : Bool) : (State.buildOne s b p sd n rebuild).1.Keeps P Q := by
  unfold State.buildOne
  repeat' first
    | with_reducible exact h
    | with_reducible assumption
    | simp only [↓keeps_upd]
    | with_reducible apply State.refill_keeps
    | with_reducible apply State.atSnap_keeps
    | with_reducible apply State.debit_keeps
    | with_reducible apply State.ctiAfter_keeps
    | with_reducible apply State.count_keeps
    | intro _
    | refine fst_keeps (by assumption) ?_
    | refine snd_keeps (by assumption) ?_
    | split
    | dsimp only


theorem State.swapAtBuild_keeps {s : State} (h : s.Keeps P Q) (p : Fin 32) : (State.swapAtBuild s p).Keeps P Q := by
  unfold State.swapAtBuild
  repeat' first
    | with_reducible exact h
    | with_reducible assumption
    | simp only [↓keeps_upd]
    | with_reducible apply State.setSwap_keeps
    | intro _
    | refine fst_keeps (by assumption) ?_
    | refine snd_keeps (by assumption) ?_
    | split
    | dsimp only


theorem State.closeWindows_keeps {s : State} (h : s.Keeps P Q) (x : Fin 32 × Nat) : (State.closeWindows s x).Keeps P Q := by
  unfold State.closeWindows
  repeat' first
    | with_reducible exact h
    | with_reducible assumption
    | simp only [↓keeps_upd]
    | with_reducible apply State.setDisc_keeps
    | intro _
    | refine fst_keeps (by assumption) ?_
    | refine snd_keeps (by assumption) ?_
    | split
    | dsimp only


theorem State.allocStore_keeps {s : State} (h : s.Keeps P Q) (p : Fin 32) (i : Nat) (ws : List Word) : (State.allocStore s p i ws).Keeps P Q := by
  unfold State.allocStore
  repeat' first
    | with_reducible exact h
    | with_reducible assumption
    | simp only [↓keeps_upd]
    | with_reducible apply State.putEntry_keeps
    | with_reducible apply State.wr_keeps
    | intro _
    | refine fst_keeps (by assumption) ?_
    | refine snd_keeps (by assumption) ?_
    | split
    | dsimp only


theorem State.allocWrite_keeps {s : State} (h : s.Keeps P Q) (p : Fin 32) (i : Nat) (ws : List Word) : (State.allocWrite s p i ws).Keeps P Q := by
  unfold State.allocWrite
  repeat' first
    | with_reducible exact h
    | with_reducible assumption
    | simp only [↓keeps_upd]
    | with_reducible apply State.allocStore_keeps
    | with_reducible apply State.mirror_keeps
    | intro _
    | refine fst_keeps (by assumption) ?_
    | refine snd_keeps (by assumption) ?_
    | split
    | dsimp only


theorem State.fsiStore_keeps {s : State} (h : s.Keeps P Q) (idx : Nat) (v : Word) : (State.fsiStore s idx v).Keeps P Q := by
  unfold State.fsiStore
  repeat' first
    | with_reducible exact h
    | with_reducible assumption
    | simp only [↓keeps_upd]
    | with_reducible apply State.putWord_keeps
    | with_reducible apply State.mirror_keeps
    | intro _
    | refine fst_keeps (by assumption) ?_
    | refine snd_keeps (by assumption) ?_
    | split
    | dsimp only


theorem State.requestSwap_keeps {s : State} (h : s.Keeps P Q) (p : Fin 32) : (State.requestSwap s p).Keeps P Q := by
  unfold State.requestSwap
  repeat' first
    | with_reducible exact h
    | with_reducible assumption
    | simp only [↓keeps_upd]
    | with_reducible apply State.setSwap_keeps
    | with_reducible apply State.putWord_keeps
    | with_reducible apply State.wr_keeps
    | with_reducible apply State.mirror_keeps
    | intro _
    | refine fst_keeps (by assumption) ?_
    | refine snd_keeps (by assumption) ?_
    | split
    | dsimp only


theorem execSwapRequest_keeps {s : State} (h : s.Keeps P Q) (ag : Agent) (v : Word) : Completes (execSwapRequest ag v s) (State.Keeps P Q) := by
  unfold execSwapRequest
  repeat' first
    | with_reducible refine completes_keeps _ ?_
    | with_reducible exact h
    | with_reducible assumption
    | simp only [↓keeps_upd]
    | with_reducible apply ok_keeps
    | with_reducible apply State.gate_keeps
    | with_reducible apply State.requestSwap_keeps
    | with_reducible apply foldl_keeps
    | intro _
    | refine fst_keeps (by assumption) ?_
    | refine snd_keeps (by assumption) ?_
    | split
    | dsimp only


theorem State.swapAtTick_keeps {s : State} (h : s.Keeps P Q) (p : Fin 32) : (State.swapAtTick s p).Keeps P Q := by
  unfold State.swapAtTick
  repeat' first
    | with_reducible exact h
    | with_reducible assumption
    | simp only [↓keeps_upd]
    | with_reducible apply State.setSwap_keeps
    | with_reducible apply State.putWord_keeps
    | with_reducible apply State.wr_keeps
    | intro _
    | refine fst_keeps (by assumption) ?_
    | refine snd_keeps (by assumption) ?_
    | split
    | dsimp only


theorem State.rebuildTree_keeps {s : State} (h : s.Keeps P Q) (p : Fin 32) (f : Nat) (b : Build) : (State.rebuildTree s p f b).1.Keeps P Q := by
  unfold State.rebuildTree
  extract_lets n back s1 b1
  have hb : back.Keeps P Q := foldl_keeps _ _ h (fun u sd hu => by
    dsimp only
    split
    · exact State.setSide_keeps hu ..
    · exact State.setSide_keeps (State.carry_keeps hu ..) ..)
  exact foldl_fst_keeps _ _ (State.ctiBefore_keeps hb ..) (fun a sd ha => State.buildOne_keeps ha ..)


theorem State.deferSwap_keeps {s : State} (h : s.Keeps P Q) (p : Fin 32) : (State.deferSwap s p).Keeps P Q := by
  unfold State.deferSwap
  split
  · refine foldl_keeps _ _ (State.setSwap_keeps h ..) (fun t b ht => ?_)
    split
    · simp only [↓keeps_upd]
      exact State.rebuildTree_keeps ht ..
    · exact ht
  · exact h


end Sys2Proof.Machine
end

