-- ==== Sys2Proof/Laws/KeepsCooper.lean ====
section
/-! SUPPORT. Generated: the operations of Machine/Cooper.lean leave the queue and the canonical form alone. -/

namespace Sys2Proof.Machine

set_option autoImplicit false
set_option linter.unusedTactic false
set_option linter.unreachableTactic false
set_option linter.unusedSimpArgs false

variable {P : Prop} {Q : List Instr}

theorem State.setBuf_keeps {s : State} (h : s.Keeps P Q) (h : Nat) (b : Buf) : (State.setBuf s h b).Keeps P Q := by
  unfold State.setBuf
  repeat' first
    | with_reducible exact h
    | with_reducible assumption
    | simp only [↓keeps_upd]
    | intro _
    | refine fst_keeps (by assumption) ?_
    | refine snd_keeps (by assumption) ?_
    | split
    | dsimp only


theorem State.allocate_keeps {s : State} (h : s.Keeps P Q) (c len : Nat) (bytes : List Byte) (ok : State → Nat → Bool) (fuel n : Nat) :
    (State.allocate s c len bytes ok fuel n).1.Keeps P Q := by
  induction fuel generalizing s n with
  | zero => exact h
  | succ fuel ih =>
    unfold State.allocate
    repeat' first
      | with_reducible exact h
      | with_reducible apply ih
      | with_reducible apply State.inc_keeps
      | with_reducible apply State.setBuf_keeps
      | simp only [↓keeps_upd]
      | split
      | dsimp only


theorem State.newBuf_keeps {s : State} (h : s.Keeps P Q) (c len : Nat) (bytes : List Byte) : (State.newBuf s c len bytes).1.Keeps P Q := by
  unfold State.newBuf
  repeat' first
    | with_reducible exact h
    | with_reducible assumption
    | simp only [↓keeps_upd]
    | with_reducible apply State.allocate_keeps
    | intro _
    | refine fst_keeps (by assumption) ?_
    | refine snd_keeps (by assumption) ?_
    | split
    | dsimp only


theorem State.noBuf_keeps {s : State} (h : s.Keeps P Q) (c len : Nat) : (State.noBuf s c len).Keeps P Q := by
  unfold State.noBuf
  repeat' first
    | with_reducible exact h
    | with_reducible assumption
    | simp only [↓keeps_upd]
    | with_reducible apply State.inc_keeps
    | with_reducible apply State.raiseLimited_keeps
    | intro _
    | refine fst_keeps (by assumption) ?_
    | refine snd_keeps (by assumption) ?_
    | split
    | dsimp only


theorem State.unref_keeps {s : State} (h : s.Keeps P Q) (h : Nat) : (State.unref s h).Keeps P Q := by
  unfold State.unref
  repeat' first
    | with_reducible exact h
    | with_reducible assumption
    | simp only [↓keeps_upd]
    | with_reducible apply State.raise_keeps
    | with_reducible apply State.inc_keeps
    | with_reducible apply State.setBuf_keeps
    | intro _
    | refine fst_keeps (by assumption) ?_
    | refine snd_keeps (by assumption) ?_
    | split
    | dsimp only


theorem State.setQueue_keeps {s : State} (h : s.Keeps P Q) (q : Nat) (x : Queue) : (State.setQueue s q x).Keeps P Q := by
  unfold State.setQueue
  repeat' first
    | with_reducible exact h
    | with_reducible assumption
    | simp only [↓keeps_upd]
    | intro _
    | refine fst_keeps (by assumption) ?_
    | refine snd_keeps (by assumption) ?_
    | split
    | dsimp only


theorem State.setTop_keeps {s : State} (h : s.Keeps P Q) (m : Nat) (x : Top) : (State.setTop s m x).Keeps P Q := by
  unfold State.setTop
  repeat' first
    | with_reducible exact h
    | with_reducible assumption
    | simp only [↓keeps_upd]
    | intro _
    | refine fst_keeps (by assumption) ?_
    | refine snd_keeps (by assumption) ?_
    | split
    | dsimp only


theorem State.setBkt_keeps {s : State} (h : s.Keeps P Q) (b : Nat) (x : Bkt) : (State.setBkt s b x).Keeps P Q := by
  unfold State.setBkt
  repeat' first
    | with_reducible exact h
    | with_reducible assumption
    | simp only [↓keeps_upd]
    | intro _
    | refine fst_keeps (by assumption) ?_
    | refine snd_keeps (by assumption) ?_
    | split
    | dsimp only


theorem State.sweepBkts_keeps {s : State} (h : s.Keeps P Q) : (State.sweepBkts s).Keeps P Q := by
  unfold State.sweepBkts
  repeat' first
    | with_reducible exact h
    | with_reducible assumption
    | simp only [↓keeps_upd]
    | with_reducible apply State.refill_keeps
    | intro _
    | refine fst_keeps (by assumption) ?_
    | refine snd_keeps (by assumption) ?_
    | split
    | dsimp only


theorem State.access_keeps {s : State} (h : s.Keeps P Q) (b : Nat) : (State.access s b).Keeps P Q := by
  unfold State.access
  repeat' first
    | with_reducible exact h
    | with_reducible assumption
    | simp only [↓keeps_upd]
    | with_reducible apply State.setBkt_keeps
    | with_reducible apply State.refill_keeps
    | intro _
    | refine fst_keeps (by assumption) ?_
    | refine snd_keeps (by assumption) ?_
    | split
    | dsimp only


theorem State.misuse_keeps {s : State} (h : s.Keeps P Q) (b : Nat) : (State.misuse s b).Keeps P Q := by
  unfold State.misuse
  repeat' first
    | with_reducible exact h
    | with_reducible assumption
    | simp only [↓keeps_upd]
    | with_reducible apply State.inc_keeps
    | with_reducible apply State.raiseLimited_keeps
    | intro _
    | refine fst_keeps (by assumption) ?_
    | refine snd_keeps (by assumption) ?_
    | split
    | dsimp only


theorem State.shaper_keeps {s : State} (h : s.Keeps P Q) (b : Nat) : (State.shaper s b).1.Keeps P Q := by
  unfold State.shaper
  repeat' first
    | with_reducible exact h
    | with_reducible assumption
    | simp only [↓keeps_upd]
    | with_reducible apply State.access_keeps
    | with_reducible apply State.misuse_keeps
    | intro _
    | refine fst_keeps (by assumption) ?_
    | refine snd_keeps (by assumption) ?_
    | split
    | dsimp only


theorem State.debitBkt_keeps {s : State} (h : s.Keeps P Q) (b len : Nat) : (State.debitBkt s b len).Keeps P Q := by
  unfold State.debitBkt
  repeat' first
    | with_reducible exact h
    | with_reducible assumption
    | simp only [↓keeps_upd]
    | with_reducible apply State.setBkt_keeps
    | intro _
    | refine fst_keeps (by assumption) ?_
    | refine snd_keeps (by assumption) ?_
    | split
    | dsimp only


theorem State.police_keeps {s : State} (h : s.Keeps P Q) (b len : Nat) : (State.police s b len).1.Keeps P Q := by
  unfold State.police
  repeat' first
    | with_reducible exact h
    | with_reducible assumption
    | simp only [↓keeps_upd]
    | with_reducible apply State.access_keeps
    | with_reducible apply State.misuse_keeps
    | with_reducible apply State.inc_keeps
    | with_reducible apply State.setBkt_keeps
    | intro _
    | refine fst_keeps (by assumption) ?_
    | refine snd_keeps (by assumption) ?_
    | split
    | dsimp only


theorem State.policed_keeps {s : State} (h : s.Keeps P Q) (b len : Nat) : (State.policed s b len).1.Keeps P Q := by
  unfold State.policed
  repeat' first
    | with_reducible exact h
    | with_reducible assumption
    | simp only [↓keeps_upd]
    | with_reducible apply State.police_keeps
    | intro _
    | refine fst_keeps (by assumption) ?_
    | refine snd_keeps (by assumption) ?_
    | split
    | dsimp only


theorem State.queueDrop_keeps {s : State} (h : s.Keeps P Q) (q : Nat) : (State.queueDrop s q).Keeps P Q := by
  unfold State.queueDrop
  repeat' first
    | with_reducible exact h
    | with_reducible assumption
    | simp only [↓keeps_upd]
    | with_reducible apply State.setQueue_keeps
    | intro _
    | refine fst_keeps (by assumption) ?_
    | refine snd_keeps (by assumption) ?_
    | split
    | dsimp only


theorem State.place_keeps {s : State} (h : s.Keeps P Q) (q : Nat) (x : QPkt) : (State.place s q x).Keeps P Q := by
  unfold State.place
  repeat' first
    | with_reducible exact h
    | with_reducible assumption
    | simp only [↓keeps_upd]
    | with_reducible apply State.inc_keeps
    | with_reducible apply State.queueDrop_keeps
    | with_reducible apply State.unref_keeps
    | with_reducible apply State.setQueue_keeps
    | with_reducible apply State.setTop_keeps
    | with_reducible apply State.raise_keeps
    | with_reducible apply State.raiseLimited_keeps
    | intro _
    | refine fst_keeps (by assumption) ?_
    | refine snd_keeps (by assumption) ?_
    | split
    | dsimp only


theorem State.enqueueRest_keeps {s : State} (h : s.Keeps P Q) (d : Desc) (yellow : Bool) : (State.enqueueRest s d yellow).Keeps P Q := by
  unfold State.enqueueRest
  repeat' first
    | with_reducible exact h
    | with_reducible assumption
    | simp only [↓keeps_upd]
    | with_reducible apply State.inc_keeps
    | with_reducible apply State.queueDrop_keeps
    | with_reducible apply State.unref_keeps
    | with_reducible apply State.place_keeps
    | intro _
    | refine fst_keeps (by assumption) ?_
    | refine snd_keeps (by assumption) ?_
    | split
    | dsimp only


theorem State.enqueue_keeps {s : State} (h : s.Keeps P Q) (d : Desc) : (State.enqueue s d).Keeps P Q := by
  unfold State.enqueue
  repeat' first
    | with_reducible exact h
    | with_reducible assumption
    | simp only [↓keeps_upd]
    | with_reducible apply State.inc_keeps
    | with_reducible apply State.queueDrop_keeps
    | with_reducible apply State.unref_keeps
    | with_reducible apply State.policed_keeps
    | with_reducible apply State.enqueueRest_keeps
    | intro _
    | refine fst_keeps (by assumption) ?_
    | refine snd_keeps (by assumption) ?_
    | split
    | dsimp only


theorem State.dropPages_keeps {s : State} (h : s.Keeps P Q) (q n : Nat) : (State.dropPages s q n).Keeps P Q := by
  unfold State.dropPages
  repeat' first
    | with_reducible exact h
    | with_reducible assumption
    | simp only [↓keeps_upd]
    | with_reducible apply State.setTop_keeps
    | intro _
    | refine fst_keeps (by assumption) ?_
    | refine snd_keeps (by assumption) ?_
    | split
    | dsimp only


theorem State.settle_keeps {s : State} (h : s.Keeps P Q) (q : Nat) : (State.settle s q).Keeps P Q := by
  unfold State.settle
  repeat' first
    | with_reducible exact h
    | with_reducible assumption
    | simp only [↓keeps_upd]
    | with_reducible apply State.dropPages_keeps
    | with_reducible apply State.setQueue_keeps
    | intro _
    | refine fst_keeps (by assumption) ?_
    | refine snd_keeps (by assumption) ?_
    | split
    | dsimp only


theorem State.busyEnd_keeps {s : State} (h : s.Keeps P Q) (m : Nat) : (State.busyEnd s m).Keeps P Q := by
  unfold State.busyEnd
  repeat' first
    | with_reducible exact h
    | with_reducible assumption
    | simp only [↓keeps_upd]
    | with_reducible apply State.setTop_keeps
    | intro _
    | refine fst_keeps (by assumption) ?_
    | refine snd_keeps (by assumption) ?_
    | split
    | dsimp only


theorem State.busyEnds_keeps {s : State} (h : s.Keeps P Q) : (State.busyEnds s).Keeps P Q := by
  unfold State.busyEnds
  repeat' first
    | with_reducible exact h
    | with_reducible assumption
    | simp only [↓keeps_upd]
    | with_reducible apply State.busyEnd_keeps
    | with_reducible apply foldl_keeps
    | intro _
    | refine fst_keeps (by assumption) ?_
    | refine snd_keeps (by assumption) ?_
    | split
    | dsimp only


theorem State.flushQueue_keeps {s : State} (h : s.Keeps P Q) (q : Nat) : (State.flushQueue s q).Keeps P Q := by
  unfold State.flushQueue
  repeat' first
    | with_reducible exact h
    | with_reducible assumption
    | simp only [↓keeps_upd]
    | with_reducible apply State.count_keeps
    | with_reducible apply State.setTop_keeps
    | with_reducible apply State.unref_keeps
    | with_reducible apply State.dropPages_keeps
    | with_reducible apply State.setQueue_keeps
    | with_reducible apply State.busyEnds_keeps
    | with_reducible apply foldl_keeps
    | intro _
    | refine fst_keeps (by assumption) ?_
    | refine snd_keeps (by assumption) ?_
    | split
    | dsimp only


theorem State.flushNode_keeps {s : State} (h : s.Keeps P Q) (n : Nat) : (State.flushNode s n).Keeps P Q := by
  unfold State.flushNode
  repeat' first
    | with_reducible exact h
    | with_reducible assumption
    | simp only [↓keeps_upd]
    | with_reducible apply State.count_keeps
    | with_reducible apply State.flushQueue_keeps
    | with_reducible apply foldl_keeps
    | intro _
    | refine fst_keeps (by assumption) ?_
    | refine snd_keeps (by assumption) ?_
    | split
    | dsimp only


theorem State.flushGroups_keeps {s : State} (h : s.Keeps P Q) (p : Fin 32) (sd : Nat) : (State.flushGroups s p sd).Keeps P Q := by
  unfold State.flushGroups
  repeat' first
    | with_reducible exact h
    | with_reducible assumption
    | simp only [↓keeps_upd]
    | with_reducible apply State.flushNode_keeps
    | with_reducible apply foldl_keeps
    | intro _
    | refine fst_keeps (by assumption) ?_
    | refine snd_keeps (by assumption) ?_
    | split
    | dsimp only


theorem State.rehome_keeps {s : State} (h : s.Keeps P Q) (q m : Nat) : (State.rehome s q m).Keeps P Q := by
  unfold State.rehome
  repeat' first
    | with_reducible exact h
    | with_reducible assumption
    | simp only [↓keeps_upd]
    | with_reducible apply State.setTop_keeps
    | with_reducible apply State.busyEnds_keeps
    | with_reducible apply foldl_keeps
    | intro _
    | refine fst_keeps (by assumption) ?_
    | refine snd_keeps (by assumption) ?_
    | split
    | dsimp only


theorem State.cellarAccess_keeps {s : State} (h : s.Keeps P Q) (q len access : Nat) : (State.cellarAccess s q len access).Keeps P Q := by
  unfold State.cellarAccess
  repeat' first
    | with_reducible exact h
    | with_reducible assumption
    | simp only [↓keeps_upd]
    | with_reducible apply State.takeFree_keeps
    | with_reducible apply State.access_keeps
    | with_reducible apply State.priv_keeps
    | intro _
    | refine fst_keeps (by assumption) ?_
    | refine snd_keeps (by assumption) ?_
    | split
    | dsimp only


theorem State.writeDone_keeps {s : State} (h : s.Keeps P Q) (q : Nat) : (State.writeDone s q).Keeps P Q := by
  unfold State.writeDone
  repeat' first
    | with_reducible exact h
    | with_reducible assumption
    | simp only [↓keeps_upd]
    | with_reducible apply State.setQueue_keeps
    | with_reducible apply State.setTop_keeps
    | with_reducible apply State.unref_keeps
    | with_reducible apply State.inc_keeps
    | with_reducible apply State.cellarAccess_keeps
    | with_reducible apply State.busyEnds_keeps
    | intro _
    | refine fst_keeps (by assumption) ?_
    | refine snd_keeps (by assumption) ?_
    | split
    | dsimp only


theorem State.loseRecords_keeps {s : State} (h : s.Keeps P Q) (q : Nat) : (State.loseRecords s q).Keeps P Q := by
  unfold State.loseRecords
  repeat' first
    | with_reducible exact h
    | with_reducible assumption
    | simp only [↓keeps_upd]
    | with_reducible apply State.count_keeps
    | with_reducible apply State.setQueue_keeps
    | with_reducible apply State.dropPages_keeps
    | with_reducible apply State.settle_keeps
    | intro _
    | refine fst_keeps (by assumption) ?_
    | refine snd_keeps (by assumption) ?_
    | split
    | dsimp only


theorem State.refillQueue_keeps {s : State} (h : s.Keeps P Q) (q : Nat) (bad link : Bool) : (State.refillQueue s q bad link).Keeps P Q := by
  unfold State.refillQueue
  repeat' first
    | with_reducible exact h
    | with_reducible assumption
    | simp only [↓keeps_upd]
    | with_reducible apply State.loseRecords_keeps
    | with_reducible apply State.raise_keeps
    | with_reducible apply State.setQueue_keeps
    | with_reducible apply State.dropPages_keeps
    | with_reducible apply State.inc_keeps
    | with_reducible apply State.settle_keeps
    | with_reducible apply State.allocate_keeps
    | with_reducible apply State.setTop_keeps
    | intro _
    | refine fst_keeps (by assumption) ?_
    | refine snd_keeps (by assumption) ?_
    | split
    | dsimp only


theorem State.storeDeficits_keeps {s : State} (h : s.Keeps P Q) (ms : List Member) : (State.storeDeficits s ms).Keeps P Q := by
  unfold State.storeDeficits
  repeat' first
    | with_reducible exact h
    | with_reducible assumption
    | simp only [↓keeps_upd]
    | with_reducible apply State.setQueue_keeps
    | with_reducible apply foldl_keeps
    | intro _
    | refine fst_keeps (by assumption) ?_
    | refine snd_keeps (by assumption) ?_
    | split
    | dsimp only


theorem State.takeHead_keeps {s : State} (h : s.Keeps P Q) (q : Nat) : (State.takeHead s q).1.Keeps P Q := by
  unfold State.takeHead
  repeat' first
    | with_reducible exact h
    | with_reducible assumption
    | simp only [↓keeps_upd]
    | with_reducible apply State.setQueue_keeps
    | with_reducible apply State.setTop_keeps
    | intro _
    | refine fst_keeps (by assumption) ?_
    | refine snd_keeps (by assumption) ?_
    | split
    | dsimp only


theorem State.accessAll_keeps {s : State} (h : s.Keeps P Q) (m : Nat) : (State.accessAll s m).Keeps P Q := by
  unfold State.accessAll
  repeat' first
    | with_reducible exact h
    | with_reducible assumption
    | simp only [↓keeps_upd]
    | with_reducible apply State.shaper_keeps
    | with_reducible apply foldl_keeps
    | intro _
    | refine fst_keeps (by assumption) ?_
    | refine snd_keeps (by assumption) ?_
    | split
    | dsimp only


theorem State.pickPort_keeps {s : State} (h : s.Keeps P Q) (m : Nat) (x : State × Nat) (e : State.pickPort s m = some x) : x.1.Keeps P Q := by
  unfold State.pickPort at e
  extract_lets _ choice _ _ phase at e
  have hp : ∀ l k y, phase l k = some y → y.1.Keeps P Q := by
    intro l k y ey
    dsimp only [phase] at ey
    split at ey
    · cases ey
    · split at ey
      · cases ey
      · split at ey
        · cases ey
        · cases ey
          simp only [↓keeps_upd]
          exact State.storeDeficits_keeps h ..
  split at e
  · exact hp _ _ _ e
  · exact hp _ _ _ e


theorem State.pickEgress_keeps {s : State} (h : s.Keeps P Q) (m : Nat) (x : State × Nat) (e : State.pickEgress s m = some x) : x.1.Keeps P Q := by
  unfold State.pickEgress at e
  dsimp only at e
  split at e
  · cases e
  · cases e
    simp only [↓keeps_upd]
    exact State.storeDeficits_keeps h ..


theorem State.select_keeps {s : State} (h : s.Keeps P Q) (m : Nat) : (State.select s m).1.Keeps P Q := by
  have h0 := State.accessAll_keeps h m
  unfold State.select
  dsimp only
  split
  · exact h0
  · split
    · exact h0
    · next x e =>
      have hx : x.1.Keeps P Q := by
        split at e
        · exact State.pickPort_keeps h0 _ _ e
        · exact State.pickEgress_keeps h0 _ _ e
      split
      · exact h0
      · dsimp only
        refine State.debitBkt_keeps ?_ ..
        split
        · exact State.debitBkt_keeps (State.debitBkt_keeps (State.takeHead_keeps hx ..) ..) ..
        · exact State.debitBkt_keeps (State.takeHead_keeps hx ..) ..


theorem State.toCipher_keeps {s : State} (h : s.Keeps P Q) (k : Nat) (d : Desc) : (State.toCipher s k d).Keeps P Q := by
  unfold State.toCipher
  repeat' first
    | with_reducible exact h
    | with_reducible assumption
    | simp only [↓keeps_upd]
    | intro _
    | refine fst_keeps (by assumption) ?_
    | refine snd_keeps (by assumption) ?_
    | split
    | dsimp only


theorem State.toEgress_keeps {s : State} (h : s.Keeps P Q) (k : Nat) (x : Out) : (State.toEgress s k x).Keeps P Q := by
  unfold State.toEgress
  repeat' first
    | with_reducible exact h
    | with_reducible assumption
    | simp only [↓keeps_upd]
    | intro _
    | refine fst_keeps (by assumption) ?_
    | refine snd_keeps (by assumption) ?_
    | split
    | dsimp only


end Sys2Proof.Machine
end

