-- ==== Sys2Proof/Laws/KeepsKeyOps.lean ====
section
/-! SUPPORT. Generated: the operations of Machine/KeyOps.lean leave the queue and the canonical form alone. -/

namespace Sys2Proof.Machine

set_option autoImplicit false
set_option linter.unusedTactic false
set_option linter.unreachableTactic false
set_option linter.unusedSimpArgs false

variable {P : Prop} {Q : List Instr}

theorem State.uncache_keeps {s : State} (h : s.Keeps P Q) (k : Nat) : (State.uncache s k).Keeps P Q := by
  unfold State.uncache
  repeat' first
    | with_reducible exact h
    | with_reducible assumption
    | simp only [↓keeps_upd]
    | intro _
    | refine fst_keeps (by assumption) ?_
    | refine snd_keeps (by assumption) ?_
    | split
    | dsimp only


theorem State.mirrorKey_keeps {s : State} (h : s.Keeps P Q) (k : Nat) : (State.mirrorKey s k).Keeps P Q := by
  unfold State.mirrorKey
  repeat' first
    | with_reducible exact h
    | with_reducible assumption
    | simp only [↓keeps_upd]
    | with_reducible apply State.mirror_keeps
    | intro _
    | refine fst_keeps (by assumption) ?_
    | refine snd_keeps (by assumption) ?_
    | split
    | dsimp only


theorem State.setRoot_keeps {s : State} (h : s.Keeps P Q) (k : Nat) (r : Root) : (State.setRoot s k r).Keeps P Q := by
  unfold State.setRoot
  repeat' first
    | with_reducible exact h
    | with_reducible assumption
    | simp only [↓keeps_upd]
    | with_reducible apply State.uncache_keeps
    | with_reducible apply State.mirrorKey_keeps
    | intro _
    | refine fst_keeps (by assumption) ?_
    | refine snd_keeps (by assumption) ?_
    | split
    | dsimp only


theorem State.setUsage_keeps {s : State} (h : s.Keeps P Q) (k : Nat) (r : Root) : (State.setUsage s k r).Keeps P Q := by
  unfold State.setUsage
  repeat' first
    | with_reducible exact h
    | with_reducible assumption
    | simp only [↓keeps_upd]
    | intro _
    | refine fst_keeps (by assumption) ?_
    | refine snd_keeps (by assumption) ?_
    | split
    | dsimp only


theorem State.derive_keeps {s : State} (h : s.Keeps P Q) (k label ctx : Nat) : (State.derive s k label ctx).Keeps P Q := by
  unfold State.derive
  repeat' first
    | with_reducible exact h
    | with_reducible assumption
    | simp only [↓keeps_upd]
    | with_reducible apply State.inc_keeps
    | intro _
    | refine fst_keeps (by assumption) ?_
    | refine snd_keeps (by assumption) ?_
    | split
    | dsimp only


theorem State.limitKey_keeps {s : State} (h : s.Keeps P Q) (k : Nat) : (State.limitKey s k).Keeps P Q := by
  unfold State.limitKey
  repeat' first
    | with_reducible exact h
    | with_reducible assumption
    | simp only [↓keeps_upd]
    | with_reducible apply State.setUsage_keeps
    | with_reducible apply State.raise_keeps
    | intro _
    | refine fst_keeps (by assumption) ?_
    | refine snd_keeps (by assumption) ?_
    | split
    | dsimp only


theorem State.useKey_keeps {s : State} (h : s.Keeps P Q) (k n : Nat) : (State.useKey s k n).Keeps P Q := by
  unfold State.useKey
  repeat' first
    | with_reducible exact h
    | with_reducible assumption
    | simp only [↓keeps_upd]
    | with_reducible apply State.setUsage_keeps
    | with_reducible apply State.limitKey_keeps
    | intro _
    | refine fst_keeps (by assumption) ?_
    | refine snd_keeps (by assumption) ?_
    | split
    | dsimp only


theorem State.eraseRoot_keeps {s : State} (h : s.Keeps P Q) (k : Nat) : (State.eraseRoot s k).Keeps P Q := by
  unfold State.eraseRoot
  repeat' first
    | with_reducible exact h
    | with_reducible assumption
    | simp only [↓keeps_upd]
    | with_reducible apply State.setRoot_keeps
    | intro _
    | refine fst_keeps (by assumption) ?_
    | refine snd_keeps (by assumption) ?_
    | split
    | dsimp only


theorem State.eraseNode_keeps {s : State} (h : s.Keeps P Q) (node : Nat) : (State.eraseNode s node).Keeps P Q := by
  unfold State.eraseNode
  repeat' first
    | with_reducible exact h
    | with_reducible assumption
    | simp only [↓keeps_upd]
    | with_reducible apply State.eraseRoot_keeps
    | intro _
    | refine fst_keeps (by assumption) ?_
    | refine snd_keeps (by assumption) ?_
    | split
    | dsimp only


theorem State.activateAtTick_keeps {s : State} (h : s.Keeps P Q) (p : Fin 32) : (State.activateAtTick s p).Keeps P Q := by
  unfold State.activateAtTick
  repeat' first
    | with_reducible exact h
    | with_reducible assumption
    | simp only [↓keeps_upd]
    | with_reducible apply State.setRoot_keeps
    | with_reducible apply State.inc_keeps
    | with_reducible apply foldl_keeps
    | intro _
    | refine fst_keeps (by assumption) ?_
    | refine snd_keeps (by assumption) ?_
    | split
    | dsimp only


theorem State.keyCode_keeps {s : State} (h : s.Keeps P Q) (c : Nat) : (State.keyCode s c).Keeps P Q := by
  unfold State.keyCode
  repeat' first
    | with_reducible exact h
    | with_reducible assumption
    | simp only [↓keeps_upd]
    | with_reducible apply State.wr_keeps
    | with_reducible apply State.msi_keeps
    | intro _
    | refine fst_keeps (by assumption) ?_
    | refine snd_keeps (by assumption) ?_
    | split
    | dsimp only


theorem State.keyGate_keeps {s : State} (h : s.Keeps P Q) (ag : Agent) (k : State → State) (hk : ∀ t : State, t.Keeps P Q → (k t).Keeps P Q) : (State.keyGate s ag k).Keeps P Q := by
  unfold State.keyGate
  repeat' first
    | with_reducible exact h
    | with_reducible assumption
    | simp only [↓keeps_upd]
    | with_reducible apply State.deny_keeps
    | with_reducible apply hk
    | intro _
    | refine fst_keeps (by assumption) ?_
    | refine snd_keeps (by assumption) ?_
    | split
    | dsimp only


theorem execKeyLoad_keeps {s : State} (h : s.Keeps P Q) (ag : Agent) (slot : BitVec 15) : Completes (execKeyLoad ag slot s) (State.Keeps P Q) := by
  unfold execKeyLoad
  repeat' first
    | with_reducible refine completes_keeps _ ?_
    | with_reducible exact h
    | with_reducible assumption
    | simp only [↓keeps_upd]
    | with_reducible apply ok_keeps
    | with_reducible apply State.keyGate_keeps
    | with_reducible apply State.keyCode_keeps
    | with_reducible apply State.setRoot_keeps
    | intro _
    | refine fst_keeps (by assumption) ?_
    | refine snd_keeps (by assumption) ?_
    | split
    | dsimp only


theorem execKeyActivate_keeps {s : State} (h : s.Keeps P Q) (ag : Agent) (slot : BitVec 15) : Completes (execKeyActivate ag slot s) (State.Keeps P Q) := by
  unfold execKeyActivate
  repeat' first
    | with_reducible refine completes_keeps _ ?_
    | with_reducible exact h
    | with_reducible assumption
    | simp only [↓keeps_upd]
    | with_reducible apply ok_keeps
    | with_reducible apply State.keyGate_keeps
    | with_reducible apply State.keyCode_keeps
    | with_reducible apply State.setRoot_keeps
    | intro _
    | refine fst_keeps (by assumption) ?_
    | refine snd_keeps (by assumption) ?_
    | split
    | dsimp only


theorem execKeyErase_keeps {s : State} (h : s.Keeps P Q) (ag : Agent) (slot : BitVec 15) : Completes (execKeyErase ag slot s) (State.Keeps P Q) := by
  unfold execKeyErase
  repeat' first
    | with_reducible refine completes_keeps _ ?_
    | with_reducible exact h
    | with_reducible assumption
    | simp only [↓keeps_upd]
    | with_reducible apply ok_keeps
    | with_reducible apply State.keyGate_keeps
    | with_reducible apply State.keyCode_keeps
    | with_reducible apply State.eraseRoot_keeps
    | intro _
    | refine fst_keeps (by assumption) ?_
    | refine snd_keeps (by assumption) ?_
    | split
    | dsimp only


theorem State.lenErr_keeps {s : State} (h : s.Keeps P Q) (p : Fin 32) (sd n : Nat) : (State.lenErr s p sd n).Keeps P Q := by
  unfold State.lenErr
  repeat' first
    | with_reducible exact h
    | with_reducible assumption
    | simp only [↓keeps_upd]
    | with_reducible apply State.inc_keeps
    | with_reducible apply State.raise_keeps
    | intro _
    | refine fst_keeps (by assumption) ?_
    | refine snd_keeps (by assumption) ?_
    | split
    | dsimp only


theorem State.cipherPkt_keeps {s : State} (h : s.Keeps P Q) (p : Fin 32) (sd : Nat) (d : Desc) (bad : Option (Fin 16)) : (State.cipherPkt s p sd d bad).1.Keeps P Q := by
  unfold State.cipherPkt
  repeat' first
    | with_reducible exact h
    | with_reducible assumption
    | simp only [↓keeps_upd]
    | with_reducible apply State.unref_keeps
    | with_reducible apply State.lenErr_keeps
    | with_reducible apply State.inc_keeps
    | with_reducible apply State.raise_keeps
    | intro _
    | refine fst_keeps (by assumption) ?_
    | refine snd_keeps (by assumption) ?_
    | split
    | dsimp only


theorem State.cipherPiece_keeps {s : State} (h : s.Keeps P Q) (sfc word : Nat) (o : Out) (n : Nat) : (State.cipherPiece s sfc word o n).1.Keeps P Q := by
  unfold State.cipherPiece
  repeat' first
    | with_reducible exact h
    | with_reducible assumption
    | simp only [↓keeps_upd]
    | with_reducible apply State.drop_keeps
    | with_reducible apply State.inc_keeps
    | with_reducible apply State.useKey_keeps
    | with_reducible apply State.count_keeps
    | intro _
    | refine fst_keeps (by assumption) ?_
    | refine snd_keeps (by assumption) ?_
    | split
    | dsimp only


theorem State.micKey_keeps {s : State} (h : s.Keeps P Q) (p : Fin 32) (onu label : Nat) : (State.micKey s p onu label).Keeps P Q := by
  unfold State.micKey
  repeat' first
    | with_reducible exact h
    | with_reducible assumption
    | simp only [↓keeps_upd]
    | with_reducible apply State.derive_keeps
    | intro _
    | refine fst_keeps (by assumption) ?_
    | refine snd_keeps (by assumption) ?_
    | split
    | dsimp only


end Sys2Proof.Machine
end

