-- ==== Sys2Proof/Laws/KeepsTables.lean ====
section
/-! SUPPORT. Generated: the operations of Machine/Tables.lean leave the queue and the canonical form alone. -/

namespace Sys2Proof.Machine

set_option autoImplicit false
set_option linter.unusedTactic false
set_option linter.unreachableTactic false
set_option linter.unusedSimpArgs false

variable {P : Prop} {Q : List Instr}

theorem State.setStat_keeps {s : State} (h : s.Keeps P Q) (e : Nat) (x : Stat) : (State.setStat s e x).Keeps P Q := by
  unfold State.setStat
  repeat' first
    | with_reducible exact h
    | with_reducible assumption
    | simp only [↓keeps_upd]
    | intro _
    | refine fst_keeps (by assumption) ?_
    | refine snd_keeps (by assumption) ?_
    | split
    | dsimp only


theorem State.clearStat_keeps {s : State} (h : s.Keeps P Q) (e : Nat) : (State.clearStat s e).Keeps P Q := by
  unfold State.clearStat
  repeat' first
    | with_reducible exact h
    | with_reducible assumption
    | simp only [↓keeps_upd]
    | with_reducible apply State.setStat_keeps
    | intro _
    | refine fst_keeps (by assumption) ?_
    | refine snd_keeps (by assumption) ?_
    | split
    | dsimp only


theorem State.pendBucket_keeps {s : State} (h : s.Keeps P Q) (b : Nat) (debt : Bool) : (State.pendBucket s b debt).Keeps P Q := by
  unfold State.pendBucket
  repeat' first
    | with_reducible exact h
    | with_reducible assumption
    | simp only [↓keeps_upd]
    | with_reducible apply State.setBkt_keeps
    | intro _
    | refine fst_keeps (by assumption) ?_
    | refine snd_keeps (by assumption) ?_
    | split
    | dsimp only


theorem State.schPut_keeps {s : State} (h : s.Keeps P Q) (idx first : Nat) (ws : List Word) : (State.schPut s idx first ws).Keeps P Q := by
  unfold State.schPut
  repeat' first
    | with_reducible exact h
    | with_reducible assumption
    | simp only [↓keeps_upd]
    | with_reducible apply State.putEntry_keeps
    | with_reducible apply State.rehome_keeps
    | with_reducible apply State.flushNode_keeps
    | with_reducible apply foldl_keeps
    | intro _
    | refine fst_keeps (by assumption) ?_
    | refine snd_keeps (by assumption) ?_
    | split
    | dsimp only


theorem State.schStore_keeps {s : State} (h : s.Keeps P Q) (idx first : Nat) (ws : List Word) : (State.schStore s idx first ws).Keeps P Q := by
  unfold State.schStore
  repeat' first
    | with_reducible exact h
    | with_reducible assumption
    | simp only [↓keeps_upd]
    | with_reducible apply State.schPut_keeps
    | with_reducible apply State.pendBucket_keeps
    | with_reducible apply State.clearStat_keeps
    | intro _
    | refine fst_keeps (by assumption) ?_
    | refine snd_keeps (by assumption) ?_
    | split
    | dsimp only


theorem State.cpgStore_keeps {s : State} (h : s.Keeps P Q) (idx first : Nat) (ws : List Word) : (State.cpgStore s idx first ws).Keeps P Q := by
  unfold State.cpgStore
  repeat' first
    | with_reducible exact h
    | with_reducible assumption
    | simp only [↓keeps_upd]
    | with_reducible apply State.putEntry_keeps
    | intro _
    | refine fst_keeps (by assumption) ?_
    | refine snd_keeps (by assumption) ?_
    | split
    | dsimp only


theorem State.ctxStore_keeps {s : State} (h : s.Keeps P Q) (c : Nat) (w : Word) : (State.ctxStore s c w).Keeps P Q := by
  unfold State.ctxStore
  repeat' first
    | with_reducible exact h
    | with_reducible assumption
    | simp only [↓keeps_upd]
    | with_reducible apply State.putWord_keeps
    | intro _
    | refine fst_keeps (by assumption) ?_
    | refine snd_keeps (by assumption) ?_
    | split
    | dsimp only


end Sys2Proof.Machine
end

