-- ==== Sys2Proof/Laws/KeepsActiv.lean ====
section
/-! SUPPORT. Generated: the operations of Machine/Activ.lean leave the queue and the canonical form alone. -/

namespace Sys2Proof.Machine

set_option autoImplicit false
set_option linter.unusedTactic false
set_option linter.unreachableTactic false
set_option linter.unusedSimpArgs false

variable {P : Prop} {Q : List Instr}

theorem State.setPlq_keeps {s : State} (h : s.Keeps P Q) (p : Fin 32) (sd : Nat) (q : PloamQ) : (State.setPlq s p sd q).Keeps P Q := by
  unfold State.setPlq
  repeat' first
    | with_reducible exact h
    | with_reducible assumption
    | simp only [↓keeps_upd]
    | with_reducible apply State.mirror_keeps
    | intro _
    | refine fst_keeps (by assumption) ?_
    | refine snd_keeps (by assumption) ?_
    | split
    | dsimp only


theorem State.setTreeSt_keeps {s : State} (h : s.Keeps P Q) (p : Fin 32) (x : Tree) : (State.setTreeSt s p x).Keeps P Q := by
  unfold State.setTreeSt
  repeat' first
    | with_reducible exact h
    | with_reducible assumption
    | simp only [↓keeps_upd]
    | intro _
    | refine fst_keeps (by assumption) ?_
    | refine snd_keeps (by assumption) ?_
    | split
    | dsimp only


theorem State.queuePloam_keeps {s : State} (h : s.Keeps P Q) (p : Fin 32) (sd onu : Nat) (b : PloamBody) : (State.queuePloam s p sd onu b).Keeps P Q := by
  unfold State.queuePloam
  repeat' first
    | with_reducible exact h
    | with_reducible assumption
    | simp only [↓keeps_upd]
    | with_reducible apply State.setPlq_keeps
    | intro _
    | refine fst_keeps (by assumption) ?_
    | refine snd_keeps (by assumption) ?_
    | split
    | dsimp only


theorem State.awaitAck_keeps {s : State} (h : s.Keeps P Q) (p : Fin 32) (sd k : Nat) (m : Ploam) : (State.awaitAck s p sd k m).Keeps P Q := by
  unfold State.awaitAck
  repeat' first
    | with_reducible exact h
    | with_reducible assumption
    | simp only [↓keeps_upd]
    | with_reducible apply State.setPlq_keeps
    | intro _
    | refine fst_keeps (by assumption) ?_
    | refine snd_keeps (by assumption) ?_
    | split
    | dsimp only


theorem State.ackRx_keeps {s : State} (h : s.Keeps P Q) (p : Fin 32) (sd onu seq : Nat) : (State.ackRx s p sd onu seq).Keeps P Q := by
  unfold State.ackRx
  repeat' first
    | with_reducible exact h
    | with_reducible assumption
    | simp only [↓keeps_upd]
    | with_reducible apply State.setSide_keeps
    | with_reducible apply State.setPlq_keeps
    | intro _
    | refine fst_keeps (by assumption) ?_
    | refine snd_keeps (by assumption) ?_
    | split
    | dsimp only


theorem State.withdraw_keeps {s : State} (h : s.Keeps P Q) (p : Fin 32) (sd onu : Nat) : (State.withdraw s p sd onu).Keeps P Q := by
  unfold State.withdraw
  repeat' first
    | with_reducible exact h
    | with_reducible assumption
    | simp only [↓keeps_upd]
    | with_reducible apply State.setPlq_keeps
    | intro _
    | refine fst_keeps (by assumption) ?_
    | refine snd_keeps (by assumption) ?_
    | split
    | dsimp only


theorem State.leaveRamp_keeps {s : State} (h : s.Keeps P Q) (p : Fin 32) : (State.leaveRamp s p).Keeps P Q := by
  unfold State.leaveRamp
  repeat' first
    | with_reducible exact h
    | with_reducible assumption
    | simp only [↓keeps_upd]
    | with_reducible apply State.setTreeSt_keeps
    | with_reducible apply State.mirror_keeps
    | intro _
    | refine fst_keeps (by assumption) ?_
    | refine snd_keeps (by assumption) ?_
    | split
    | dsimp only


theorem State.rampCheck_keeps {s : State} (h : s.Keeps P Q) (p : Fin 32) : (State.rampCheck s p).Keeps P Q := by
  unfold State.rampCheck
  repeat' first
    | with_reducible exact h
    | with_reducible assumption
    | simp only [↓keeps_upd]
    | with_reducible apply State.leaveRamp_keeps
    | intro _
    | refine fst_keeps (by assumption) ?_
    | refine snd_keeps (by assumption) ?_
    | split
    | dsimp only


theorem State.enterRamp_keeps {s : State} (h : s.Keeps P Q) (p : Fin 32) : (State.enterRamp s p).Keeps P Q := by
  unfold State.enterRamp
  repeat' first
    | with_reducible exact h
    | with_reducible assumption
    | simp only [↓keeps_upd]
    | with_reducible apply State.setDisc_keeps
    | with_reducible apply State.setTreeSt_keeps
    | with_reducible apply State.mirror_keeps
    | with_reducible apply State.rampCheck_keeps
    | intro _
    | refine fst_keeps (by assumption) ?_
    | refine snd_keeps (by assumption) ?_
    | split
    | dsimp only


theorem State.leftActive_keeps {s : State} (h : s.Keeps P Q) (p : Fin 32) : (State.leftActive s p).Keeps P Q := by
  unfold State.leftActive
  repeat' first
    | with_reducible exact h
    | with_reducible assumption
    | simp only [↓keeps_upd]
    | with_reducible apply State.setTreeSt_keeps
    | with_reducible apply State.enterRamp_keeps
    | intro _
    | refine fst_keeps (by assumption) ?_
    | refine snd_keeps (by assumption) ?_
    | split
    | dsimp only


theorem State.setProv_keeps {s : State} (h : s.Keeps P Q) (p : Fin 32) (i : Nat) (x : Prov) : (State.setProv s p i x).Keeps P Q := by
  unfold State.setProv
  repeat' first
    | with_reducible exact h
    | with_reducible assumption
    | simp only [↓keeps_upd]
    | intro _
    | refine fst_keeps (by assumption) ?_
    | refine snd_keeps (by assumption) ?_
    | split
    | dsimp only


theorem State.unprovision_keeps {s : State} (h : s.Keeps P Q) (p : Fin 32) (i : Nat) : (State.unprovision s p i).Keeps P Q := by
  unfold State.unprovision
  repeat' first
    | with_reducible exact h
    | with_reducible assumption
    | simp only [↓keeps_upd]
    | with_reducible apply State.wr_keeps
    | with_reducible apply State.setProv_keeps
    | with_reducible apply foldl_keeps
    | intro _
    | refine fst_keeps (by assumption) ?_
    | refine snd_keeps (by assumption) ?_
    | split
    | dsimp only


theorem State.applyWin_keeps {s : State} (h : s.Keeps P Q) (win idx : Nat) (ws : List Word) : (State.applyWin s win idx ws).1.Keeps P Q := by
  unfold State.applyWin
  repeat' first
    | with_reducible exact h
    | with_reducible assumption
    | simp only [↓keeps_upd]
    | with_reducible apply State.drop_keeps
    | with_reducible apply State.allocStore_keeps
    | with_reducible apply State.schStore_keeps
    | with_reducible apply State.ctxStore_keeps
    | intro _
    | refine fst_keeps (by assumption) ?_
    | refine snd_keeps (by assumption) ?_
    | split
    | dsimp only


theorem State.applyRecs_keeps {s : State} (h : s.Keeps P Q) (p : Fin 32) (i : Nat) (only : Nat → Bool) (l : List TRec) :
    (State.applyRecs s p i only l).1.Keeps P Q := by
  induction l generalizing s with
  | nil => exact h
  | cons r l ih =>
    cases r with
    | omci b => exact ih h
    | win w base pS sS ps ws =>
      unfold State.applyRecs
      repeat' first
        | with_reducible exact h
        | with_reducible apply ih
        | with_reducible apply State.applyWin_keeps
        | with_reducible apply State.setProv_keeps
        | split
        | dsimp only


theorem State.endService_keeps {s : State} (h : s.Keeps P Q) (p : Fin 32) (i : Nat) (erase : Bool) : (State.endService s p i erase).Keeps P Q := by
  unfold State.endService
  repeat' first
    | with_reducible exact h
    | with_reducible assumption
    | simp only [↓keeps_upd]
    | with_reducible apply State.withdraw_keeps
    | with_reducible apply State.flushNode_keeps
    | with_reducible apply State.eraseNode_keeps
    | with_reducible apply State.unprovision_keeps
    | with_reducible apply State.leftActive_keeps
    | intro _
    | refine fst_keeps (by assumption) ?_
    | refine snd_keeps (by assumption) ?_
    | split
    | dsimp only


theorem State.freeSlot_keeps {s : State} (h : s.Keeps P Q) (p : Fin 32) (i : Nat) (final : Option PloamBody) : (State.freeSlot s p i final).Keeps P Q := by
  unfold State.freeSlot
  repeat' first
    | with_reducible exact h
    | with_reducible assumption
    | simp only [↓keeps_upd]
    | with_reducible apply State.endService_keeps
    | with_reducible apply State.setSlot_keeps
    | with_reducible apply State.queuePloam_keeps
    | intro _
    | refine fst_keeps (by assumption) ?_
    | refine snd_keeps (by assumption) ?_
    | split
    | dsimp only


theorem State.disableSlot_keeps {s : State} (h : s.Keeps P Q) (p : Fin 32) (i : Nat) : (State.disableSlot s p i).Keeps P Q := by
  unfold State.disableSlot
  repeat' first
    | with_reducible exact h
    | with_reducible assumption
    | simp only [↓keeps_upd]
    | with_reducible apply State.endService_keeps
    | with_reducible apply State.setSlot_keeps
    | with_reducible apply State.queuePloam_keeps
    | intro _
    | refine fst_keeps (by assumption) ?_
    | refine snd_keeps (by assumption) ?_
    | split
    | dsimp only


theorem State.toLost_keeps {s : State} (h : s.Keeps P Q) (p : Fin 32) (i : Nat) : (State.toLost s p i).Keeps P Q := by
  unfold State.toLost
  repeat' first
    | with_reducible exact h
    | with_reducible assumption
    | simp only [↓keeps_upd]
    | with_reducible apply State.setSlot_keeps
    | with_reducible apply State.inc_keeps
    | with_reducible apply State.raise_keeps
    | with_reducible apply State.leftActive_keeps
    | intro _
    | refine fst_keeps (by assumption) ?_
    | refine snd_keeps (by assumption) ?_
    | split
    | dsimp only


theorem State.templateFail_keeps {s : State} (h : s.Keeps P Q) (p : Fin 32) (i : Nat) : (State.templateFail s p i).Keeps P Q := by
  unfold State.templateFail
  repeat' first
    | with_reducible exact h
    | with_reducible assumption
    | simp only [↓keeps_upd]
    | with_reducible apply State.freeSlot_keeps
    | with_reducible apply State.inc_keeps
    | with_reducible apply State.raise_keeps
    | intro _
    | refine fst_keeps (by assumption) ?_
    | refine snd_keeps (by assumption) ?_
    | split
    | dsimp only


theorem State.provisionRanged_keeps {s : State} (h : s.Keeps P Q) (p : Fin 32) (i : Nat) : (State.provisionRanged s p i).Keeps P Q := by
  unfold State.provisionRanged
  repeat' first
    | with_reducible exact h
    | with_reducible assumption
    | simp only [↓keeps_upd]
    | with_reducible apply State.applyRecs_keeps
    | with_reducible apply State.templateFail_keeps
    | intro _
    | refine fst_keeps (by assumption) ?_
    | refine snd_keeps (by assumption) ?_
    | split
    | dsimp only


theorem State.nextOmci_keeps {s : State} (h : s.Keeps P Q) (p : Fin 32) (i : Nat) : (State.nextOmci s p i).Keeps P Q := by
  unfold State.nextOmci
  repeat' first
    | with_reducible exact h
    | with_reducible assumption
    | simp only [↓keeps_upd]
    | with_reducible apply State.setProv_keeps
    | with_reducible apply State.inc_keeps
    | intro _
    | refine fst_keeps (by assumption) ?_
    | refine snd_keeps (by assumption) ?_
    | split
    | dsimp only


theorem State.dropAnn_keeps {s : State} (h : s.Keeps P Q) (node : Nat) : (State.dropAnn s node).Keeps P Q := by
  unfold State.dropAnn
  repeat' first
    | with_reducible exact h
    | with_reducible assumption
    | simp only [↓keeps_upd]
    | with_reducible apply State.drop_keeps
    | intro _
    | refine fst_keeps (by assumption) ?_
    | refine snd_keeps (by assumption) ?_
    | split
    | dsimp only


theorem State.toActive_keeps {s : State} (h : s.Keeps P Q) (p : Fin 32) (i : Nat) : (State.toActive s p i).Keeps P Q := by
  unfold State.toActive
  repeat' first
    | with_reducible exact h
    | with_reducible assumption
    | simp only [↓keeps_upd]
    | with_reducible apply State.setSlot_keeps
    | with_reducible apply State.dropAnn_keeps
    | with_reducible apply State.setProv_keeps
    | with_reducible apply State.nextOmci_keeps
    | intro _
    | refine fst_keeps (by assumption) ?_
    | refine snd_keeps (by assumption) ?_
    | split
    | dsimp only


theorem State.tryActive_keeps {s : State} (h : s.Keeps P Q) (p : Fin 32) (i : Nat) : (State.tryActive s p i).Keeps P Q := by
  unfold State.tryActive
  repeat' first
    | with_reducible exact h
    | with_reducible assumption
    | simp only [↓keeps_upd]
    | with_reducible apply State.toActive_keeps
    | intro _
    | refine fst_keeps (by assumption) ?_
    | refine snd_keeps (by assumption) ?_
    | split
    | dsimp only


theorem State.holdFor_keeps {s : State} (h : s.Keeps P Q) (p : Fin 32) (i : Nat) (eqd : Int) : (State.holdFor s p i eqd).Keeps P Q := by
  unfold State.holdFor
  repeat' first
    | with_reducible exact h
    | with_reducible assumption
    | simp only [↓keeps_upd]
    | with_reducible apply State.setSlot_keeps
    | intro _
    | refine fst_keeps (by assumption) ?_
    | refine snd_keeps (by assumption) ?_
    | split
    | dsimp only


theorem State.broadcastDeactivate_keeps {s : State} (h : s.Keeps P Q) (p : Fin 32) : (State.broadcastDeactivate s p).Keeps P Q := by
  unfold State.broadcastDeactivate
  repeat' first
    | with_reducible exact h
    | with_reducible assumption
    | simp only [↓keeps_upd]
    | with_reducible apply State.queuePloam_keeps
    | with_reducible apply foldl_keeps
    | intro _
    | refine fst_keeps (by assumption) ?_
    | refine snd_keeps (by assumption) ?_
    | split
    | dsimp only


end Sys2Proof.Machine
end

