-- ==== Sys2Proof/Laws/KeepsActCmd.lean ====
section
/-! SUPPORT. Generated: the operations of Machine/ActCmd.lean leave the queue and the canonical form alone. -/

namespace Sys2Proof.Machine

set_option autoImplicit false
set_option linter.unusedTactic false
set_option linter.unreachableTactic false
set_option linter.unusedSimpArgs false

variable {P : Prop} {Q : List Instr}

theorem State.dropRanged_keeps {s : State} (h : s.Keeps P Q) (p : Fin 32) (i : Nat) : (State.dropRanged s p i).Keeps P Q := by
  unfold State.dropRanged
  repeat' first
    | with_reducible exact h
    | with_reducible assumption
    | simp only [↓keeps_upd]
    | with_reducible apply State.freeSlot_keeps
    | intro _
    | refine fst_keeps (by assumption) ?_
    | refine snd_keeps (by assumption) ?_
    | split
    | dsimp only


theorem execTeqdWrite_keeps {s : State} (h : s.Keeps P Q) (ag : Agent) (p : Fin 32) (v : Word) : Completes (execTeqdWrite ag p v s) (State.Keeps P Q) := by
  unfold execTeqdWrite
  repeat' first
    | with_reducible refine completes_keeps _ ?_
    | with_reducible exact h
    | with_reducible assumption
    | simp only [↓keeps_upd]
    | with_reducible apply ok_keeps
    | with_reducible apply State.gate_keeps
    | with_reducible apply State.wr_keeps
    | with_reducible apply State.storeWord_keeps
    | with_reducible apply State.mirror_keeps
    | with_reducible apply State.rampCheck_keeps
    | intro _
    | refine fst_keeps (by assumption) ?_
    | refine snd_keeps (by assumption) ?_
    | split
    | dsimp only


theorem execReachWrite_keeps {s : State} (h : s.Keeps P Q) (ag : Agent) (p : Fin 32) (v : Word) : Completes (execReachWrite ag p v s) (State.Keeps P Q) := by
  unfold execReachWrite
  repeat' first
    | with_reducible refine completes_keeps _ ?_
    | with_reducible exact h
    | with_reducible assumption
    | simp only [↓keeps_upd]
    | with_reducible apply ok_keeps
    | with_reducible apply State.gate_keeps
    | with_reducible apply State.storeWord_keeps
    | with_reducible apply State.wr_keeps
    | with_reducible apply State.mirror_keeps
    | with_reducible apply State.rampCheck_keeps
    | intro _
    | refine fst_keeps (by assumption) ?_
    | refine snd_keeps (by assumption) ?_
    | split
    | dsimp only


theorem State.dropPreset_keeps {s : State} (h : s.Keeps P Q) (p : Fin 32) (sd slot : Nat) : (State.dropPreset s p sd slot).Keeps P Q := by
  unfold State.dropPreset
  repeat' first
    | with_reducible exact h
    | with_reducible assumption
    | simp only [↓keeps_upd]
    | with_reducible apply State.drop_keeps
    | intro _
    | refine fst_keeps (by assumption) ?_
    | refine snd_keeps (by assumption) ?_
    | split
    | dsimp only


theorem State.pmAdmit_keeps {s : State} (h : s.Keeps P Q) (k sn : Nat) : (State.pmAdmit s k sn).Keeps P Q := by
  unfold State.pmAdmit
  repeat' first
    | with_reducible exact h
    | with_reducible assumption
    | simp only [↓keeps_upd]
    | with_reducible apply State.drop_keeps
    | intro _
    | refine fst_keeps (by assumption) ?_
    | refine snd_keeps (by assumption) ?_
    | split
    | dsimp only


theorem State.admitOnu_keeps {s : State} (h : s.Keeps P Q) (p : Fin 32) (r : CleanResp) (i : Nat) (authIdx : Option Nat) : (State.admitOnu s p r i authIdx).Keeps P Q := by
  unfold State.admitOnu
  repeat' first
    | with_reducible exact h
    | with_reducible assumption
    | simp only [↓keeps_upd]
    | with_reducible apply State.setSlot_keeps
    | with_reducible apply State.setTreeSt_keeps
    | with_reducible apply State.pmAdmit_keeps
    | with_reducible apply State.queuePloam_keeps
    | intro _
    | refine fst_keeps (by assumption) ?_
    | refine snd_keeps (by assumption) ?_
    | split
    | dsimp only


theorem State.releaseSlot_keeps {s : State} (h : s.Keeps P Q) (p : Fin 32) (i : Nat) : (State.releaseSlot s p i).Keeps P Q := by
  unfold State.releaseSlot
  repeat' first
    | with_reducible exact h
    | with_reducible assumption
    | simp only [↓keeps_upd]
    | with_reducible apply State.endService_keeps
    | with_reducible apply State.dropPreset_keeps
    | with_reducible apply State.setSlot_keeps
    | intro _
    | refine fst_keeps (by assumption) ?_
    | refine snd_keeps (by assumption) ?_
    | split
    | dsimp only


theorem State.actAnswer_keeps {s : State} (h : s.Keeps P Q) (p : Fin 32) (r : CleanResp) (old : Option Nat) : (State.actAnswer s p r old).Keeps P Q := by
  unfold State.actAnswer
  repeat' first
    | with_reducible exact h
    | with_reducible assumption
    | simp only [↓keeps_upd]
    | with_reducible apply State.drop_keeps
    | with_reducible apply State.eraseNode_keeps
    | with_reducible apply State.queuePloam_keeps
    | with_reducible apply State.inc_keeps
    | with_reducible apply State.raise_keeps
    | with_reducible apply State.admitOnu_keeps
    | intro _
    | refine fst_keeps (by assumption) ?_
    | refine snd_keeps (by assumption) ?_
    | split
    | dsimp only


theorem State.takeRng_keeps {s : State} (h : s.Keeps P Q) (p : Fin 32) (sd slot : Nat) : (State.takeRng s p sd slot).Keeps P Q := by
  unfold State.takeRng
  repeat' first
    | with_reducible exact h
    | with_reducible assumption
    | simp only [↓keeps_upd]
    | with_reducible apply State.setSide_keeps
    | intro _
    | refine fst_keeps (by assumption) ?_
    | refine snd_keeps (by assumption) ?_
    | split
    | dsimp only


theorem State.answerRanging_keeps {s : State} (h : s.Keeps P Q) (p : Fin 32) (sd slot : Nat) (eqd : Int) : (State.answerRanging s p sd slot eqd).Keeps P Q := by
  unfold State.answerRanging
  repeat' first
    | with_reducible exact h
    | with_reducible assumption
    | simp only [↓keeps_upd]
    | with_reducible apply State.queuePloam_keeps
    | with_reducible apply State.provisionRanged_keeps
    | intro _
    | refine fst_keeps (by assumption) ?_
    | refine snd_keeps (by assumption) ?_
    | split
    | dsimp only


theorem State.sendRangingTime_keeps {s : State} (h : s.Keeps P Q) (p : Fin 32) (sd slot : Nat) (eqd : Int) : (State.sendRangingTime s p sd slot eqd).Keeps P Q := by
  unfold State.sendRangingTime
  repeat' first
    | with_reducible exact h
    | with_reducible assumption
    | simp only [↓keeps_upd]
    | with_reducible apply State.answerRanging_keeps
    | intro _
    | refine fst_keeps (by assumption) ?_
    | refine snd_keeps (by assumption) ?_
    | split
    | dsimp only


theorem State.takeRegistration_keeps {s : State} (h : s.Keeps P Q) (p : Fin 32) (i regId : Nat) : (State.takeRegistration s p i regId).Keeps P Q := by
  unfold State.takeRegistration
  repeat' first
    | with_reducible exact h
    | with_reducible assumption
    | simp only [↓keeps_upd]
    | with_reducible apply State.disableSlot_keeps
    | with_reducible apply State.raise_keeps
    | with_reducible apply State.setSlot_keeps
    | with_reducible apply State.tryActive_keeps
    | with_reducible apply State.queuePloam_keeps
    | intro _
    | refine fst_keeps (by assumption) ?_
    | refine snd_keeps (by assumption) ?_
    | split
    | dsimp only


theorem State.forSteward_keeps {s : State} (h : s.Keeps P Q) (m : StwMsg) : (State.forSteward s m).Keeps P Q := by
  unfold State.forSteward
  repeat' first
    | with_reducible exact h
    | with_reducible assumption
    | simp only [↓keeps_upd]
    | intro _
    | refine fst_keeps (by assumption) ?_
    | refine snd_keeps (by assumption) ?_
    | split
    | dsimp only


theorem State.takeKeyReport_keeps {s : State} (h : s.Keeps P Q) (p : Fin 32) (i dk sk : Nat) : (State.takeKeyReport s p i dk sk).Keeps P Q := by
  unfold State.takeKeyReport
  repeat' first
    | with_reducible exact h
    | with_reducible assumption
    | simp only [↓keeps_upd]
    | with_reducible apply State.st_keeps
    | with_reducible apply State.micKey_keeps
    | with_reducible apply State.setRoot_keeps
    | with_reducible apply State.setSlot_keeps
    | intro _
    | refine fst_keeps (by assumption) ?_
    | refine snd_keeps (by assumption) ?_
    | split
    | dsimp only


theorem State.actCmd_keeps {s : State} (h : s.Keeps P Q) (p : Fin 32) (op i : Nat) : (State.actCmd s p op i).Keeps P Q := by
  unfold State.actCmd
  repeat' first
    | with_reducible exact h
    | with_reducible assumption
    | simp only [↓keeps_upd]
    | with_reducible apply State.enterRamp_keeps
    | with_reducible apply State.leaveRamp_keeps
    | with_reducible apply State.freeSlot_keeps
    | with_reducible apply State.setSlot_keeps
    | with_reducible apply State.queuePloam_keeps
    | with_reducible apply State.disableSlot_keeps
    | intro _
    | refine fst_keeps (by assumption) ?_
    | refine snd_keeps (by assumption) ?_
    | split
    | dsimp only


theorem State.actWrite_keeps {s : State} (h : s.Keeps P Q) (ag : Agent) (p : Fin 32) (op i : Nat) : (State.actWrite s ag p op i).Keeps P Q := by
  unfold State.actWrite
  repeat' first
    | with_reducible exact h
    | with_reducible assumption
    | simp only [↓keeps_upd]
    | with_reducible apply State.gate_keeps
    | with_reducible apply State.deny_keeps
    | with_reducible apply State.setTreeSt_keeps
    | with_reducible apply State.actCmd_keeps
    | intro _
    | refine fst_keeps (by assumption) ?_
    | refine snd_keeps (by assumption) ?_
    | split
    | dsimp only


theorem State.huntNext_keeps {s : State} (h : s.Keeps P Q) (p : Fin 32) (h : Hunt) : (State.huntNext s p h).Keeps P Q := by
  unfold State.huntNext
  repeat' first
    | with_reducible exact h
    | with_reducible assumption
    | simp only [↓keeps_upd]
    | with_reducible apply State.setTreeSt_keeps
    | with_reducible apply State.raise_keeps
    | with_reducible apply State.inc_keeps
    | with_reducible apply State.queuePloam_keeps
    | intro _
    | refine fst_keeps (by assumption) ?_
    | refine snd_keeps (by assumption) ?_
    | split
    | dsimp only


end Sys2Proof.Machine
end

