-- ==== Sys2Proof/Laws/KeepsClock.lean ====
section
/-! SUPPORT. Generated: the operations of Machine/Clock.lean leave the queue and the canonical form alone. -/

namespace Sys2Proof.Machine

set_option autoImplicit false
set_option linter.unusedTactic false
set_option linter.unreachableTactic false
set_option linter.unusedSimpArgs false

variable {P : Prop} {Q : List Instr}

theorem State.setDom_keeps {s : State} (h : s.Keeps P Q) (d : Nat) (x : Dom) : (State.setDom s d x).Keeps P Q := by
  unfold State.setDom
  repeat' first
    | with_reducible exact h
    | with_reducible assumption
    | simp only [↓keeps_upd]
    | intro _
    | refine fst_keeps (by assumption) ?_
    | refine snd_keeps (by assumption) ?_
    | split
    | dsimp only


theorem State.setPpsIn_keeps {s : State} (h : s.Keeps P Q) (i : Nat) (x : PpsIn) : (State.setPpsIn s i x).Keeps P Q := by
  unfold State.setPpsIn
  repeat' first
    | with_reducible exact h
    | with_reducible assumption
    | simp only [↓keeps_upd]
    | intro _
    | refine fst_keeps (by assumption) ?_
    | refine snd_keeps (by assumption) ?_
    | split
    | dsimp only


theorem State.setFreq_keeps {s : State} (h : s.Keeps P Q) (d : Nat) (f : Int) : (State.setFreq s d f).Keeps P Q := by
  unfold State.setFreq
  repeat' first
    | with_reducible exact h
    | with_reducible assumption
    | simp only [↓keeps_upd]
    | with_reducible apply State.setDom_keeps
    | intro _
    | refine fst_keeps (by assumption) ?_
    | refine snd_keeps (by assumption) ?_
    | split
    | dsimp only


theorem State.tsRecord_keeps {s : State} (h : s.Keeps P Q) (tx : Bool) (r : TsRec) : (State.tsRecord s tx r).Keeps P Q := by
  unfold State.tsRecord
  repeat' first
    | with_reducible exact h
    | with_reducible assumption
    | simp only [↓keeps_upd]
    | with_reducible apply State.inc_keeps
    | with_reducible apply State.raiseLimited_keeps
    | intro _
    | refine fst_keeps (by assumption) ?_
    | refine snd_keeps (by assumption) ?_
    | split
    | dsimp only


theorem State.ptpStamp_keeps {s : State} (h : s.Keeps P Q) (tx : Bool) (n : Nat) (fr : List Byte) (oneStep : Bool) : (State.ptpStamp s tx n fr oneStep).Keeps P Q := by
  unfold State.ptpStamp
  repeat' first
    | with_reducible exact h
    | with_reducible assumption
    | simp only [↓keeps_upd]
    | with_reducible apply State.inc_keeps
    | with_reducible apply State.tsRecord_keeps
    | intro _
    | refine fst_keeps (by assumption) ?_
    | refine snd_keeps (by assumption) ?_
    | split
    | dsimp only


theorem State.settleInj_keeps {s : State} (h : s.Keeps P Q) (a : Nat) : (State.settleInj s a).Keeps P Q := by
  unfold State.settleInj
  repeat' first
    | with_reducible exact h
    | with_reducible assumption
    | simp only [↓keeps_upd]
    | with_reducible apply step_keeps
    | with_reducible apply State.count_keeps
    | intro _
    | refine fst_keeps (by assumption) ?_
    | refine snd_keeps (by assumption) ?_
    | split
    | dsimp only


theorem State.rateFrom_keeps {s : State} (h : s.Keeps P Q) (a : Nat) : (State.rateFrom s a).Keeps P Q := by
  unfold State.rateFrom
  repeat' first
    | with_reducible exact h
    | with_reducible assumption
    | simp only [↓keeps_upd]
    | intro _
    | refine fst_keeps (by assumption) ?_
    | refine snd_keeps (by assumption) ?_
    | split
    | dsimp only


theorem State.injSeen_keeps {s : State} (h : s.Keeps P Q) (a : Nat) : (State.injSeen s a).Keeps P Q := by
  unfold State.injSeen
  repeat' first
    | with_reducible exact h
    | with_reducible assumption
    | simp only [↓keeps_upd]
    | with_reducible apply State.settleInj_keeps
    | intro _
    | refine fst_keeps (by assumption) ?_
    | refine snd_keeps (by assumption) ?_
    | split
    | dsimp only


end Sys2Proof.Machine
end

