-- ==== Sys2Proof/Laws/KeepsFrame.lean ====
section
/-! SUPPORT. Generated: the operations of Machine/Frame.lean leave the queue and the canonical form alone. -/

namespace Sys2Proof.Machine

set_option autoImplicit false
set_option linter.unusedTactic false
set_option linter.unreachableTactic false
set_option linter.unusedSimpArgs false

variable {P : Prop} {Q : List Instr}

theorem State.setTwinTree_keeps {s : State} (h : s.Keeps P Q) (p : Fin 32) (x : TwinTree) : (State.setTwinTree s p x).Keeps P Q := by
  unfold State.setTwinTree
  repeat' first
    | with_reducible exact h
    | with_reducible assumption
    | simp only [↓keeps_upd]
    | intro _
    | refine fst_keeps (by assumption) ?_
    | refine snd_keeps (by assumption) ?_
    | split
    | dsimp only


theorem State.pmMod_keeps {s : State} (h : s.Keeps P Q) (k : Nat) (f : PmAcc → PmAcc) : (State.pmMod s k f).Keeps P Q := by
  unfold State.pmMod
  repeat' first
    | with_reducible exact h
    | with_reducible assumption
    | simp only [↓keeps_upd]
    | intro _
    | refine fst_keeps (by assumption) ?_
    | refine snd_keeps (by assumption) ?_
    | split
    | dsimp only


theorem State.profileBroadcast_keeps {s : State} (h : s.Keeps P Q) (p : Fin 32) (sd n : Nat) : (State.profileBroadcast s p sd n).Keeps P Q := by
  unfold State.profileBroadcast
  repeat' first
    | with_reducible exact h
    | with_reducible assumption
    | simp only [↓keeps_upd]
    | with_reducible apply State.queuePloam_keeps
    | with_reducible apply foldl_keeps
    | intro _
    | refine fst_keeps (by assumption) ?_
    | refine snd_keeps (by assumption) ?_
    | split
    | dsimp only


theorem State.takePartition_keeps {s : State} (h : s.Keeps P Q) (p : Fin 32) (sd n : Nat) : (State.takePartition s p sd n).1.Keeps P Q := by
  unfold State.takePartition
  repeat' first
    | with_reducible exact h
    | with_reducible assumption
    | simp only [↓keeps_upd]
    | with_reducible apply State.setPlq_keeps
    | with_reducible apply State.drop_keeps
    | with_reducible apply State.repaired_keeps
    | with_reducible apply State.replicate_keeps
    | intro _
    | refine fst_keeps (by assumption) ?_
    | refine snd_keeps (by assumption) ?_
    | split
    | dsimp only


theorem State.carryLate_keeps {s : State} (h : s.Keeps P Q) (p : Fin 32) (sd n : Nat) : (State.carryLate s p sd n).Keeps P Q := by
  unfold State.carryLate
  repeat' first
    | with_reducible exact h
    | with_reducible assumption
    | simp only [↓keeps_upd]
    | with_reducible apply State.carry_keeps
    | with_reducible apply foldl_keeps
    | intro _
    | refine fst_keeps (by assumption) ?_
    | refine snd_keeps (by assumption) ?_
    | split
    | dsimp only


theorem State.lock_keeps {s : State} (h : s.Keeps P Q) (p : Fin 32) (sd : Nat) : (State.lock s p sd).Keeps P Q := by
  unfold State.lock
  repeat' first
    | with_reducible exact h
    | with_reducible assumption
    | simp only [↓keeps_upd]
    | with_reducible apply State.profileBroadcast_keeps
    | with_reducible apply State.inflight_keeps
    | with_reducible apply State.takePartition_keeps
    | with_reducible apply State.setSide_keeps
    | with_reducible apply State.count_keeps
    | with_reducible apply State.carryLate_keeps
    | with_reducible apply State.raise_keeps
    | with_reducible apply State.deferSwap_keeps
    | intro _
    | refine fst_keeps (by assumption) ?_
    | refine snd_keeps (by assumption) ?_
    | split
    | dsimp only


theorem State.ploamSent_keeps {s : State} (h : s.Keeps P Q) (p : Fin 32) (sd n : Nat) (m : Ploam) : (State.ploamSent s p sd n m).Keeps P Q := by
  unfold State.ploamSent
  repeat' first
    | with_reducible exact h
    | with_reducible assumption
    | simp only [↓keeps_upd]
    | with_reducible apply State.inc_keeps
    | with_reducible apply State.setSide_keeps
    | with_reducible apply State.wr_keeps
    | with_reducible apply State.setSlot_keeps
    | with_reducible apply State.setTreeSt_keeps
    | intro _
    | refine fst_keeps (by assumption) ?_
    | refine snd_keeps (by assumption) ?_
    | split
    | dsimp only


theorem State.modSent_keeps {s : State} (h : s.Keeps P Q) (p : Fin 32) (sd : Nat) (f : DsFrame → DsFrame) : (State.modSent s p sd f).Keeps P Q := by
  unfold State.modSent
  repeat' first
    | with_reducible exact h
    | with_reducible assumption
    | simp only [↓keeps_upd]
    | with_reducible apply State.setSide_keeps
    | intro _
    | refine fst_keeps (by assumption) ?_
    | refine snd_keeps (by assumption) ?_
    | split
    | dsimp only


theorem State.fillTo_keeps {s : State} (h : s.Keeps P Q) (p : Fin 32) (sd stop : Nat) : (State.fillTo s p sd stop).Keeps P Q := by
  unfold State.fillTo
  repeat' first
    | with_reducible exact h
    | with_reducible assumption
    | simp only [↓keeps_upd]
    | with_reducible apply State.modSent_keeps
    | intro _
    | refine fst_keeps (by assumption) ?_
    | refine snd_keeps (by assumption) ?_
    | split
    | dsimp only


theorem State.sendPiece_keeps {s : State} (h : s.Keeps P Q) (p : Fin 32) (sd key sfc pos n : Nat) (o : Out) (t : List Out) : (State.sendPiece s p sd key sfc pos n o t).Keeps P Q := by
  unfold State.sendPiece
  repeat' first
    | with_reducible exact h
    | with_reducible assumption
    | simp only [↓keeps_upd]
    | with_reducible apply State.cipherPiece_keeps
    | with_reducible apply State.unref_keeps
    | with_reducible apply State.modSent_keeps
    | intro _
    | refine fst_keeps (by assumption) ?_
    | refine snd_keeps (by assumption) ?_
    | split
    | dsimp only


theorem State.serveSpan_keeps {s : State} (h : s.Keeps P Q) (p : Fin 32) (sd key sfc stop fin n : Nat) :
    (State.serveSpan s p sd key sfc stop fin n).Keeps P Q := by
  induction n generalizing s with
  | zero => exact h
  | succ n ih =>
    unfold State.serveSpan
    repeat' first
      | with_reducible exact h
      | with_reducible apply ih
      | with_reducible apply State.sendPiece_keeps
      | with_reducible apply State.fillTo_keeps
      | split
      | dsimp only


theorem State.drainQueue_keeps {s : State} (h : s.Keeps P Q) (p : Fin 32) (sd q key fuel n : Nat) :
    (State.drainQueue s p sd q key fuel n).Keeps P Q := by
  induction fuel generalizing s n with
  | zero => exact h
  | succ fuel ih =>
    unfold State.drainQueue
    repeat' first
      | with_reducible exact h
      | with_reducible apply ih
      | with_reducible apply State.toEgress_keeps
      | with_reducible apply State.cipherPkt_keeps
      | with_reducible apply State.takeHead_keeps
      | split
      | dsimp only


theorem State.serveRun_keeps {s : State} (h : s.Keeps P Q) (p : Fin 32) (sd sfc total : Nat) (fec : Bool) (r : Run) :
    (State.serveRun s p sd sfc total fec r).Keeps P Q := by
  unfold State.serveRun
  extract_lets a b base key s1 s2
  have h1 : s1.Keeps P Q := State.serveSpan_keeps h ..
  have h2 : s2.Keeps P Q := by
    dsimp only [s2]
    split
    · exact h1
    · exact State.drainQueue_keeps h1 ..
  exact State.serveSpan_keeps h2 ..


theorem State.serveFrame_keeps {s : State} (h : s.Keeps P Q) (p : Fin 32) (sd n : Nat) : (State.serveFrame s p sd n).Keeps P Q := by
  unfold State.serveFrame
  extract_lets fec total s1
  have h1 : s1.Keeps P Q := foldl_keeps _ _ h (fun t r ht => State.serveRun_keeps ht ..)
  have h2 := State.serveSpan_keeps h1 p sd (p.val * 2 + sd) n total total (s1.serveFuel (p.val * 2 + sd))
  refine ite_keeps (State.fillTo_keeps h ..) h2


theorem State.openQuiet_keeps {s : State} (h : s.Keeps P Q) (p : Fin 32) (sd n : Nat) : (State.openQuiet s p sd n).Keeps P Q := by
  unfold State.openQuiet
  repeat' first
    | with_reducible exact h
    | with_reducible assumption
    | simp only [↓keeps_upd]
    | with_reducible apply State.setSide_keeps
    | intro _
    | refine fst_keeps (by assumption) ?_
    | refine snd_keeps (by assumption) ?_
    | split
    | dsimp only


theorem State.wideSent_keeps {s : State} (h : s.Keeps P Q) (p : Fin 32) (sd n : Nat) (empty : Bool) : (State.wideSent s p sd n empty).Keeps P Q := by
  unfold State.wideSent
  repeat' first
    | with_reducible exact h
    | with_reducible assumption
    | simp only [↓keeps_upd]
    | with_reducible apply State.setSide_keeps
    | with_reducible apply State.inc_keeps
    | intro _
    | refine fst_keeps (by assumption) ?_
    | refine snd_keeps (by assumption) ?_
    | split
    | dsimp only


theorem State.sendFrame_keeps {s : State} (h : s.Keeps P Q) (p : Fin 32) (sd idle : Nat) (l : Locked) : (State.sendFrame s p sd idle l).Keeps P Q := by
  unfold State.sendFrame
  repeat' first
    | with_reducible exact h
    | with_reducible assumption
    | simp only [↓keeps_upd]
    | with_reducible apply State.setSide_keeps
    | with_reducible apply State.commit_keeps
    | with_reducible apply State.inc_keeps
    | with_reducible apply State.setDisc_keeps
    | with_reducible apply State.count_keeps
    | with_reducible apply State.ploamSent_keeps
    | with_reducible apply State.micKey_keeps
    | with_reducible apply State.awaitAck_keeps
    | with_reducible apply State.openQuiet_keeps
    | with_reducible apply State.wideSent_keeps
    | with_reducible apply State.serveFrame_keeps
    | with_reducible apply idle_keeps
    | with_reducible apply foldl_keeps
    | intro _
    | refine fst_keeps (by assumption) ?_
    | refine snd_keeps (by assumption) ?_
    | split
    | dsimp only


theorem State.loseFrame_keeps {s : State} (h : s.Keeps P Q) (p : Fin 32) (sd : Nat) (l : Locked) : (State.loseFrame s p sd l).Keeps P Q := by
  unfold State.loseFrame
  repeat' first
    | with_reducible exact h
    | with_reducible assumption
    | simp only [↓keeps_upd]
    | with_reducible apply State.setSide_keeps
    | with_reducible apply State.carry_keeps
    | with_reducible apply State.setDisc_keeps
    | with_reducible apply State.awaitAck_keeps
    | with_reducible apply foldl_keeps
    | intro _
    | refine fst_keeps (by assumption) ?_
    | refine snd_keeps (by assumption) ?_
    | split
    | dsimp only


theorem State.dropUnsent_keeps {s : State} (h : s.Keeps P Q) (p : Fin 32) (sd n : Nat) : (State.dropUnsent s p sd n).Keeps P Q := by
  unfold State.dropUnsent
  repeat' first
    | with_reducible exact h
    | with_reducible assumption
    | simp only [↓keeps_upd]
    | with_reducible apply State.carry_keeps
    | with_reducible apply State.setSide_keeps
    | with_reducible apply State.setDisc_keeps
    | with_reducible apply foldl_keeps
    | intro _
    | refine fst_keeps (by assumption) ?_
    | refine snd_keeps (by assumption) ?_
    | split
    | dsimp only


theorem State.tickSide_keeps {s : State} (h : s.Keeps P Q) (p : Fin 32) (sd n idle : Nat) : (State.tickSide s p sd n idle).Keeps P Q := by
  unfold State.tickSide
  repeat' first
    | with_reducible exact h
    | with_reducible assumption
    | simp only [↓keeps_upd]
    | with_reducible apply State.setSide_keeps
    | with_reducible apply State.commit_keeps
    | with_reducible apply State.inc_keeps
    | with_reducible apply State.putWord_keeps
    | with_reducible apply State.loseFrame_keeps
    | with_reducible apply State.dropUnsent_keeps
    | with_reducible apply State.sendFrame_keeps
    | with_reducible apply idle_keeps
    | intro _
    | refine fst_keeps (by assumption) ?_
    | refine snd_keeps (by assumption) ?_
    | split
    | dsimp only


theorem State.lockAtTick_keeps {s : State} (h : s.Keeps P Q) (p : Fin 32) (sd n : Nat) : (State.lockAtTick s p sd n).Keeps P Q := by
  unfold State.lockAtTick
  repeat' first
    | with_reducible exact h
    | with_reducible assumption
    | simp only [↓keeps_upd]
    | with_reducible apply State.lock_keeps
    | intro _
    | refine fst_keeps (by assumption) ?_
    | refine snd_keeps (by assumption) ?_
    | split
    | dsimp only


theorem State.keysAtTick_keeps {s : State} (h : s.Keeps P Q) (p : Fin 32) : (State.keysAtTick s p).Keeps P Q := by
  unfold State.keysAtTick
  repeat' first
    | with_reducible exact h
    | with_reducible assumption
    | simp only [↓keeps_upd]
    | with_reducible apply State.setSlot_keeps
    | with_reducible apply State.tryActive_keeps
    | with_reducible apply State.activateAtTick_keeps
    | with_reducible apply foldl_keeps
    | intro _
    | refine fst_keeps (by assumption) ?_
    | refine snd_keeps (by assumption) ?_
    | split
    | dsimp only


theorem State.intervalAtTick_keeps {s : State} (h : s.Keeps P Q) (p : Fin 32) : (State.intervalAtTick s p).Keeps P Q := by
  unfold State.intervalAtTick
  repeat' first
    | with_reducible exact h
    | with_reducible assumption
    | simp only [↓keeps_upd]
    | with_reducible apply State.setTreeSt_keeps
    | intro _
    | refine fst_keeps (by assumption) ?_
    | refine snd_keeps (by assumption) ?_
    | split
    | dsimp only


theorem State.framesAtTick_keeps {s : State} (h : s.Keeps P Q) (p : Fin 32) : (State.framesAtTick s p).Keeps P Q := by
  unfold State.framesAtTick
  repeat' first
    | with_reducible exact h
    | with_reducible assumption
    | simp only [↓keeps_upd]
    | with_reducible apply State.setAlloc_keeps
    | with_reducible apply State.setTwinTree_keeps
    | with_reducible apply State.mirror_keeps
    | with_reducible apply State.mirrorKey_keeps
    | with_reducible apply foldl_keeps
    | intro _
    | refine fst_keeps (by assumption) ?_
    | refine snd_keeps (by assumption) ?_
    | split
    | dsimp only


theorem State.queueHeld_keeps {s : State} (h : s.Keeps P Q) (p : Fin 32) (sd n : Nat) : (State.queueHeld s p sd n).Keeps P Q := by
  unfold State.queueHeld
  repeat' first
    | with_reducible exact h
    | with_reducible assumption
    | simp only [↓keeps_upd]
    | with_reducible apply State.sendRangingTime_keeps
    | with_reducible apply foldl_keeps
    | intro _
    | refine fst_keeps (by assumption) ?_
    | refine snd_keeps (by assumption) ?_
    | split
    | dsimp only


theorem State.reannounce_keeps {s : State} (h : s.Keeps P Q) (ps : List (Fin 32)) : (State.reannounce s ps).Keeps P Q := by
  unfold State.reannounce
  repeat' first
    | with_reducible exact h
    | with_reducible assumption
    | simp only [↓keeps_upd]
    | intro _
    | refine fst_keeps (by assumption) ?_
    | refine snd_keeps (by assumption) ?_
    | split
    | dsimp only


theorem State.autoPhase_keeps {s : State} (h : s.Keeps P Q) (p : Fin 32) : (State.autoPhase s p).Keeps P Q := by
  unfold State.autoPhase
  repeat' first
    | with_reducible exact h
    | with_reducible assumption
    | simp only [↓keeps_upd]
    | with_reducible apply State.wr_keeps
    | intro _
    | refine fst_keeps (by assumption) ?_
    | refine snd_keeps (by assumption) ?_
    | split
    | dsimp only


theorem State.loseLocked_keeps {s : State} (h : s.Keeps P Q) (p : Fin 32) (sd : Nat) : (State.loseLocked s p sd).Keeps P Q := by
  unfold State.loseLocked
  repeat' first
    | with_reducible exact h
    | with_reducible assumption
    | simp only [↓keeps_upd]
    | with_reducible apply State.loseFrame_keeps
    | intro _
    | refine fst_keeps (by assumption) ?_
    | refine snd_keeps (by assumption) ?_
    | split
    | dsimp only


theorem execPhaseOffsetWrite_keeps {s : State} (h : s.Keeps P Q) (ag : Agent) (p : Fin 32) (v : Word) : Completes (execPhaseOffsetWrite ag p v s) (State.Keeps P Q) := by
  unfold execPhaseOffsetWrite
  repeat' first
    | with_reducible refine completes_keeps _ ?_
    | with_reducible exact h
    | with_reducible assumption
    | simp only [↓keeps_upd]
    | with_reducible apply ok_keeps
    | with_reducible apply State.gate_keeps
    | with_reducible apply State.wr_keeps
    | with_reducible apply State.storeWord_keeps
    | with_reducible apply State.setPort_keeps
    | with_reducible apply State.reannounce_keeps
    | with_reducible apply State.mirror_keeps
    | intro _
    | refine fst_keeps (by assumption) ?_
    | refine snd_keeps (by assumption) ?_
    | split
    | dsimp only


theorem execDsEnableWrite_keeps {s : State} (h : s.Keeps P Q) (ag : Agent) (p : Fin 32) (v : Word) : Completes (execDsEnableWrite ag p v s) (State.Keeps P Q) := by
  unfold execDsEnableWrite
  repeat' first
    | with_reducible refine completes_keeps _ ?_
    | with_reducible exact h
    | with_reducible assumption
    | simp only [↓keeps_upd]
    | with_reducible apply ok_keeps
    | with_reducible apply State.gate_keeps
    | with_reducible apply State.storeWord_keeps
    | with_reducible apply State.setSide_keeps
    | with_reducible apply State.flushGroups_keeps
    | with_reducible apply State.mirror_keeps
    | with_reducible apply State.rampCheck_keeps
    | intro _
    | refine fst_keeps (by assumption) ?_
    | refine snd_keeps (by assumption) ?_
    | split
    | dsimp only


theorem execOcbCommit_keeps {s : State} (h : s.Keeps P Q) (ag : Agent) (p : Fin 32) (sd : Side) (v : Word) : Completes (execOcbCommit ag p sd v s) (State.Keeps P Q) := by
  unfold execOcbCommit
  repeat' first
    | with_reducible refine completes_keeps _ ?_
    | with_reducible exact h
    | with_reducible assumption
    | simp only [↓keeps_upd]
    | with_reducible apply ok_keeps
    | with_reducible apply State.gate_keeps
    | with_reducible apply State.storeWord_keeps
    | with_reducible apply State.setSide_keeps
    | with_reducible apply State.commit_keeps
    | with_reducible apply State.mirror_keeps
    | intro _
    | refine fst_keeps (by assumption) ?_
    | refine snd_keeps (by assumption) ?_
    | split
    | dsimp only


end Sys2Proof.Machine
end

