-- ==== Sys2Proof/Laws/KeepsTwin.lean ====
section
/-! SUPPORT. Generated: the operations of Machine/Twin.lean leave the queue and the canonical form alone. -/

namespace Sys2Proof.Machine

set_option autoImplicit false
set_option linter.unusedTactic false
set_option linter.unreachableTactic false
set_option linter.unusedSimpArgs false

variable {P : Prop} {Q : List Instr}

theorem State.split_keeps {s : State} (h : s.Keeps P Q) (on : Bool) : (State.split s on).Keeps P Q := by
  unfold State.split
  repeat' first
    | with_reducible exact h
    | with_reducible assumption
    | simp only [↓keeps_upd]
    | with_reducible apply State.onset_keeps
    | with_reducible apply State.endCause_keeps
    | intro _
    | refine fst_keeps (by assumption) ?_
    | refine snd_keeps (by assumption) ?_
    | split
    | dsimp only


theorem State.setOwn_keeps {s : State} (h : s.Keeps P Q) (l : List (Fin 32)) : (State.setOwn s l).Keeps P Q := by
  unfold State.setOwn
  repeat' first
    | with_reducible exact h
    | with_reducible assumption
    | simp only [↓keeps_upd]
    | with_reducible apply State.wr_keeps
    | intro _
    | refine fst_keeps (by assumption) ?_
    | refine snd_keeps (by assumption) ?_
    | split
    | dsimp only


theorem State.takeOwnership_keeps {s0 : State} (h : s0.Keeps P Q) : (State.takeOwnership s0).Keeps P Q := by
  unfold State.takeOwnership
  repeat' first
    | with_reducible exact h
    | with_reducible assumption
    | simp only [↓keeps_upd]
    | with_reducible apply State.wr_keeps
    | with_reducible apply State.split_keeps
    | with_reducible apply State.setOwn_keeps
    | intro _
    | refine fst_keeps (by assumption) ?_
    | refine snd_keeps (by assumption) ?_
    | split
    | dsimp only


theorem State.redecide_keeps {s : State} (h : s.Keeps P Q) : (State.redecide s).Keeps P Q := by
  unfold State.redecide
  repeat' first
    | with_reducible exact h
    | with_reducible assumption
    | simp only [↓keeps_upd]
    | with_reducible apply State.split_keeps
    | with_reducible apply State.takeOwnership_keeps
    | intro _
    | refine fst_keeps (by assumption) ?_
    | refine snd_keeps (by assumption) ?_
    | split
    | dsimp only


theorem State.seqRx_keeps {s : State} (h : s.Keeps P Q) (type_ port side seq sfc : Nat) : (State.seqRx s type_ port side seq sfc).Keeps P Q := by
  unfold State.seqRx
  repeat' first
    | with_reducible exact h
    | with_reducible assumption
    | simp only [↓keeps_upd]
    | with_reducible apply State.inc_keeps
    | with_reducible apply State.raise_keeps
    | with_reducible apply State.setTwinTree_keeps
    | with_reducible apply State.twinSend_keeps
    | intro _
    | refine fst_keeps (by assumption) ?_
    | refine snd_keeps (by assumption) ?_
    | split
    | dsimp only


theorem State.mirrored_keeps {s : State} (h : s.Keeps P Q) (type_ : Nat) (p : Fin 32) (side seq sfc : Nat) (k : State → State) (hk : ∀ t : State, t.Keeps P Q → (k t).Keeps P Q) : (State.mirrored s type_ p side seq sfc k).Keeps P Q := by
  unfold State.mirrored
  repeat' first
    | with_reducible exact h
    | with_reducible assumption
    | simp only [↓keeps_upd]
    | with_reducible apply State.seqRx_keeps
    | with_reducible apply State.inc_keeps
    | with_reducible apply hk
    | intro _
    | refine fst_keeps (by assumption) ?_
    | refine snd_keeps (by assumption) ?_
    | split
    | dsimp only


theorem State.takeoverUsage_keeps {s : State} (h : s.Keeps P Q) : (State.takeoverUsage s).Keeps P Q := by
  unfold State.takeoverUsage
  repeat' first
    | with_reducible exact h
    | with_reducible assumption
    | simp only [↓keeps_upd]
    | with_reducible apply State.useKey_keeps
    | with_reducible apply foldl_keeps
    | intro _
    | refine fst_keeps (by assumption) ?_
    | refine snd_keeps (by assumption) ?_
    | split
    | dsimp only


theorem State.takeTree_keeps {s : State} (h : s.Keeps P Q) (p : Fin 32) (num : Nat) : (State.takeTree s p num).Keeps P Q := by
  unfold State.takeTree
  repeat' first
    | with_reducible exact h
    | with_reducible assumption
    | simp only [↓keeps_upd]
    | with_reducible apply State.setOwn_keeps
    | with_reducible apply State.setTwinTree_keeps
    | with_reducible apply State.seen_keeps
    | with_reducible apply State.setSide_keeps
    | with_reducible apply State.reannounce_keeps
    | with_reducible apply foldl_keeps
    | intro _
    | refine fst_keeps (by assumption) ?_
    | refine snd_keeps (by assumption) ?_
    | split
    | dsimp only


theorem State.takeSlots_keeps {s : State} (h : s.Keeps P Q) (p : Fin 32) : (State.takeSlots s p).Keeps P Q := by
  unfold State.takeSlots
  repeat' first
    | with_reducible exact h
    | with_reducible assumption
    | simp only [↓keeps_upd]
    | with_reducible apply State.setPlq_keeps
    | with_reducible apply State.freeSlot_keeps
    | with_reducible apply State.setSlot_keeps
    | with_reducible apply foldl_keeps
    | intro _
    | refine fst_keeps (by assumption) ?_
    | refine snd_keeps (by assumption) ?_
    | split
    | dsimp only


theorem State.noteTakeover_keeps {s : State} (h : s.Keeps P Q) (num : Nat) (cold : Bool) (trees : List (Fin 32)) : (State.noteTakeover s num cold trees).Keeps P Q := by
  unfold State.noteTakeover
  repeat' first
    | with_reducible exact h
    | with_reducible assumption
    | simp only [↓keeps_upd]
    | with_reducible apply State.putWord_keeps
    | with_reducible apply State.inc_keeps
    | with_reducible apply State.raise_keeps
    | intro _
    | refine fst_keeps (by assumption) ?_
    | refine snd_keeps (by assumption) ?_
    | split
    | dsimp only


theorem State.deactivateAll_keeps {s : State} (h : s.Keeps P Q) (p : Fin 32) : (State.deactivateAll s p).Keeps P Q := by
  unfold State.deactivateAll
  repeat' first
    | with_reducible exact h
    | with_reducible assumption
    | simp only [↓keeps_upd]
    | with_reducible apply State.wr_keeps
    | with_reducible apply State.broadcastDeactivate_keeps
    | intro _
    | refine fst_keeps (by assumption) ?_
    | refine snd_keeps (by assumption) ?_
    | split
    | dsimp only


theorem State.reactivate_keeps {s : State} (h : s.Keeps P Q) (p : Fin 32) : (State.reactivate s p).Keeps P Q := by
  unfold State.reactivate
  repeat' first
    | with_reducible exact h
    | with_reducible assumption
    | simp only [↓keeps_upd]
    | with_reducible apply State.freeSlot_keeps
    | with_reducible apply State.deactivateAll_keeps
    | with_reducible apply State.enterRamp_keeps
    | with_reducible apply foldl_keeps
    | intro _
    | refine fst_keeps (by assumption) ?_
    | refine snd_keeps (by assumption) ?_
    | split
    | dsimp only


theorem State.takeWarm_keeps {s : State} (h : s.Keeps P Q) (num : Nat) (trees : List (Fin 32)) : (State.takeWarm s num trees).Keeps P Q := by
  unfold State.takeWarm
  repeat' first
    | with_reducible exact h
    | with_reducible assumption
    | simp only [↓keeps_upd]
    | with_reducible apply State.takeTree_keeps
    | with_reducible apply State.takeSlots_keeps
    | with_reducible apply State.reactivate_keeps
    | with_reducible apply State.noteTakeover_keeps
    | with_reducible apply State.takeoverUsage_keeps
    | with_reducible apply foldl_keeps
    | intro _
    | refine fst_keeps (by assumption) ?_
    | refine snd_keeps (by assumption) ?_
    | split
    | dsimp only


theorem State.takeCold1_keeps {s : State} (h : s.Keeps P Q) (p : Fin 32) (num : Nat) : (State.takeCold1 s p num).Keeps P Q := by
  unfold State.takeCold1
  repeat' first
    | with_reducible exact h
    | with_reducible assumption
    | simp only [↓keeps_upd]
    | with_reducible apply State.setPort_keeps
    | with_reducible apply State.takeTree_keeps
    | with_reducible apply State.freeSlot_keeps
    | with_reducible apply State.deactivateAll_keeps
    | with_reducible apply State.enterRamp_keeps
    | with_reducible apply foldl_keeps
    | intro _
    | refine fst_keeps (by assumption) ?_
    | refine snd_keeps (by assumption) ?_
    | split
    | dsimp only


theorem State.takeCold_keeps {s : State} (h : s.Keeps P Q) (num : Nat) (trees : List (Fin 32)) : (State.takeCold s num trees).Keeps P Q := by
  unfold State.takeCold
  repeat' first
    | with_reducible exact h
    | with_reducible assumption
    | simp only [↓keeps_upd]
    | with_reducible apply State.takeCold1_keeps
    | with_reducible apply State.noteTakeover_keeps
    | with_reducible apply State.takeoverUsage_keeps
    | with_reducible apply foldl_keeps
    | intro _
    | refine fst_keeps (by assumption) ?_
    | refine snd_keeps (by assumption) ?_
    | split
    | dsimp only


theorem State.coldPart_keeps {s : State} (h : s.Keeps P Q) : (State.coldPart s).Keeps P Q := by
  unfold State.coldPart
  repeat' first
    | with_reducible exact h
    | with_reducible assumption
    | simp only [↓keeps_upd]
    | with_reducible apply State.takeCold_keeps
    | with_reducible apply foldl_keeps
    | intro _
    | refine fst_keeps (by assumption) ?_
    | refine snd_keeps (by assumption) ?_
    | split
    | dsimp only


theorem State.trigger_keeps {s : State} (h : s.Keeps P Q) (num : Nat) : (State.trigger s num).Keeps P Q := by
  unfold State.trigger
  repeat' first
    | with_reducible exact h
    | with_reducible assumption
    | simp only [↓keeps_upd]
    | with_reducible apply State.split_keeps
    | with_reducible apply State.coldPart_keeps
    | intro _
    | refine fst_keeps (by assumption) ?_
    | refine snd_keeps (by assumption) ?_
    | split
    | dsimp only


theorem State.lossTrigger_keeps {s : State} (h : s.Keeps P Q) : (State.lossTrigger s).Keeps P Q := by
  unfold State.lossTrigger
  repeat' first
    | with_reducible exact h
    | with_reducible assumption
    | simp only [↓keeps_upd]
    | with_reducible apply State.split_keeps
    | with_reducible apply State.inc_keeps
    | with_reducible apply State.trigger_keeps
    | intro _
    | refine fst_keeps (by assumption) ?_
    | refine snd_keeps (by assumption) ?_
    | split
    | dsimp only


theorem State.twnDone_keeps {s : State} (h : s.Keeps P Q) (code : Nat) : (State.twnDone s code).Keeps P Q := by
  unfold State.twnDone
  repeat' first
    | with_reducible exact h
    | with_reducible assumption
    | simp only [↓keeps_upd]
    | with_reducible apply State.wr_keeps
    | with_reducible apply State.msi_keeps
    | intro _
    | refine fst_keeps (by assumption) ?_
    | refine snd_keeps (by assumption) ?_
    | split
    | dsimp only


theorem State.unreachable_keeps {s : State} (h : s.Keeps P Q) : (State.unreachable s).Keeps P Q := by
  unfold State.unreachable
  repeat' first
    | with_reducible exact h
    | with_reducible assumption
    | simp only [↓keeps_upd]
    | with_reducible apply State.twnDone_keeps
    | intro _
    | refine fst_keeps (by assumption) ?_
    | refine snd_keeps (by assumption) ?_
    | split
    | dsimp only


theorem State.leaveTree_keeps {s : State} (h : s.Keeps P Q) (p : Fin 32) : (State.leaveTree s p).Keeps P Q := by
  unfold State.leaveTree
  repeat' first
    | with_reducible exact h
    | with_reducible assumption
    | simp only [↓keeps_upd]
    | with_reducible apply State.setOwn_keeps
    | with_reducible apply State.flushNode_keeps
    | with_reducible apply foldl_keeps
    | intro _
    | refine fst_keeps (by assumption) ?_
    | refine snd_keeps (by assumption) ?_
    | split
    | dsimp only


theorem State.release_keeps {s : State} (h : s.Keeps P Q) (num : Nat) (trees : List (Fin 32)) (cmd : Bool) : (State.release s num trees cmd).Keeps P Q := by
  unfold State.release
  repeat' first
    | with_reducible exact h
    | with_reducible assumption
    | simp only [↓keeps_upd]
    | intro _
    | refine fst_keeps (by assumption) ?_
    | refine snd_keeps (by assumption) ?_
    | split
    | dsimp only


theorem State.ownerTrigger_keeps {s : State} (h : s.Keeps P Q) (num : Nat) (p : Fin 32) : (State.ownerTrigger s num p).Keeps P Q := by
  unfold State.ownerTrigger
  repeat' first
    | with_reducible exact h
    | with_reducible assumption
    | simp only [↓keeps_upd]
    | with_reducible apply State.inc_keeps
    | with_reducible apply State.release_keeps
    | intro _
    | refine fst_keeps (by assumption) ?_
    | refine snd_keeps (by assumption) ?_
    | split
    | dsimp only


theorem State.twnCmd_keeps {s : State} (h : s.Keeps P Q) (ag : Agent) (k : State → State) (hk : ∀ t : State, t.Keeps P Q → (k t).Keeps P Q) : (State.twnCmd s ag k).Keeps P Q := by
  unfold State.twnCmd
  repeat' first
    | with_reducible exact h
    | with_reducible assumption
    | simp only [↓keeps_upd]
    | with_reducible apply State.gate_keeps
    | with_reducible apply State.deny_keeps
    | with_reducible apply hk
    | intro _
    | refine fst_keeps (by assumption) ?_
    | refine snd_keeps (by assumption) ?_
    | split
    | dsimp only


theorem State.takeCmd_keeps {s : State} (h : s.Keeps P Q) (force : Bool) : (State.takeCmd s force).Keeps P Q := by
  unfold State.takeCmd
  repeat' first
    | with_reducible exact h
    | with_reducible assumption
    | simp only [↓keeps_upd]
    | with_reducible apply State.twnDone_keeps
    | with_reducible apply State.inc_keeps
    | with_reducible apply State.takeWarm_keeps
    | with_reducible apply State.takeCold_keeps
    | with_reducible apply State.wr_keeps
    | with_reducible apply State.twinSend_keeps
    | intro _
    | refine fst_keeps (by assumption) ?_
    | refine snd_keeps (by assumption) ?_
    | split
    | dsimp only


theorem execTake_keeps {s : State} (h : s.Keeps P Q) (ag : Agent) (v : Word) : Completes (execTake ag v s) (State.Keeps P Q) := by
  unfold execTake
  repeat' first
    | with_reducible refine completes_keeps _ ?_
    | with_reducible exact h
    | with_reducible assumption
    | simp only [↓keeps_upd]
    | with_reducible apply ok_keeps
    | with_reducible apply State.twnCmd_keeps
    | with_reducible apply State.takeCmd_keeps
    | intro _
    | refine fst_keeps (by assumption) ?_
    | refine snd_keeps (by assumption) ?_
    | split
    | dsimp only


theorem State.coverBack_keeps {s : State} (h : s.Keeps P Q) : (State.coverBack s).Keeps P Q := by
  unfold State.coverBack
  repeat' first
    | with_reducible exact h
    | with_reducible assumption
    | simp only [↓keeps_upd]
    | with_reducible apply State.wr_keeps
    | with_reducible apply State.takeCmd_keeps
    | intro _
    | refine fst_keeps (by assumption) ?_
    | refine snd_keeps (by assumption) ?_
    | split
    | dsimp only


theorem execGive_keeps {s : State} (h : s.Keeps P Q) (ag : Agent) (v : Word) : Completes (execGive ag v s) (State.Keeps P Q) := by
  unfold execGive
  repeat' first
    | with_reducible refine completes_keeps _ ?_
    | with_reducible exact h
    | with_reducible assumption
    | simp only [↓keeps_upd]
    | with_reducible apply ok_keeps
    | with_reducible apply State.twnCmd_keeps
    | with_reducible apply State.twnDone_keeps
    | with_reducible apply State.inc_keeps
    | with_reducible apply State.wr_keeps
    | with_reducible apply State.release_keeps
    | intro _
    | refine fst_keeps (by assumption) ?_
    | refine snd_keeps (by assumption) ?_
    | split
    | dsimp only


theorem State.endRelease_keeps {s : State} (h : s.Keeps P Q) (r : Rel) (code : Nat) : (State.endRelease s r code).Keeps P Q := by
  unfold State.endRelease
  repeat' first
    | with_reducible exact h
    | with_reducible assumption
    | simp only [↓keeps_upd]
    | with_reducible apply State.twnDone_keeps
    | intro _
    | refine fst_keeps (by assumption) ?_
    | refine snd_keeps (by assumption) ?_
    | split
    | dsimp only


theorem State.tauSample_keeps {s : State} (h : s.Keeps P Q) (t : Int × Int × Int × Int) : (State.tauSample s t).Keeps P Q := by
  unfold State.tauSample
  repeat' first
    | with_reducible exact h
    | with_reducible assumption
    | simp only [↓keeps_upd]
    | with_reducible apply State.drop_keeps
    | with_reducible apply State.wr_keeps
    | with_reducible apply foldl_keeps
    | intro _
    | refine fst_keeps (by assumption) ?_
    | refine snd_keeps (by assumption) ?_
    | split
    | dsimp only


theorem State.provisionShadow_keeps {s : State} (h : s.Keeps P Q) (p : Fin 32) (i : Nat) : (State.provisionShadow s p i).Keeps P Q := by
  unfold State.provisionShadow
  repeat' first
    | with_reducible exact h
    | with_reducible assumption
    | simp only [↓keeps_upd]
    | with_reducible apply State.applyRecs_keeps
    | intro _
    | refine fst_keeps (by assumption) ?_
    | refine snd_keeps (by assumption) ?_
    | split
    | dsimp only


end Sys2Proof.Machine
end

