-- ==== Sys2Proof/Laws/KeepsPace.lean ====
section
/-! SUPPORT. Generated: the operations of Machine/Pace.lean leave the queue and the canonical form alone. -/

namespace Sys2Proof.Machine

set_option autoImplicit false
set_option linter.unusedTactic false
set_option linter.unreachableTactic false
set_option linter.unusedSimpArgs false

variable {P : Prop} {Q : List Instr}

theorem State.paceCause_keeps {s : State} (h : s.Keeps P Q) (k : Kind) (src : Source) (on : Bool) (filt inst : Nat) : (State.paceCause s k src on filt inst).Keeps P Q := by
  unfold State.paceCause
  repeat' first
    | with_reducible exact h
    | with_reducible assumption
    | simp only [↓keeps_upd]
    | with_reducible apply State.onset_keeps
    | with_reducible apply State.endCause_keeps
    | intro _
    | refine fst_keeps (by assumption) ?_
    | refine snd_keeps (by assumption) ?_
    | split
    | dsimp only


theorem State.pace_keeps {s : State} (h : s.Keeps P Q) (reads : List Nat) (whf : Nat) : (State.pace s reads whf).Keeps P Q := by
  unfold State.pace
  repeat' first
    | with_reducible exact h
    | with_reducible assumption
    | simp only [↓keeps_upd]
    | with_reducible apply State.wr_keeps
    | with_reducible apply State.paceCause_keeps
    | with_reducible apply foldl_keeps
    | intro _
    | refine fst_keeps (by assumption) ?_
    | refine snd_keeps (by assumption) ?_
    | split
    | dsimp only


theorem State.setAdm_keeps {s : State} (h : s.Keeps P Q) (n : Nat) (x : AdmSrc) : (State.setAdm s n x).Keeps P Q := by
  unfold State.setAdm
  repeat' first
    | with_reducible exact h
    | with_reducible assumption
    | simp only [↓keeps_upd]
    | intro _
    | refine fst_keeps (by assumption) ?_
    | refine snd_keeps (by assumption) ?_
    | split
    | dsimp only


theorem State.admitNext_keeps {s : State} (h : s.Keeps P Q) (n b : Nat) : (State.admitNext s n b).Keeps P Q := by
  unfold State.admitNext
  repeat' first
    | with_reducible exact h
    | with_reducible assumption
    | simp only [↓keeps_upd]
    | with_reducible apply State.wr_keeps
    | with_reducible apply State.raise_keeps
    | with_reducible apply State.setAdm_keeps
    | intro _
    | refine fst_keeps (by assumption) ?_
    | refine snd_keeps (by assumption) ?_
    | split
    | dsimp only


theorem State.admission_keeps {s : State} (h : s.Keeps P Q) : (State.admission s).Keeps P Q := by
  unfold State.admission
  repeat' first
    | with_reducible exact h
    | with_reducible assumption
    | simp only [↓keeps_upd]
    | with_reducible apply State.admitNext_keeps
    | with_reducible apply foldl_keeps
    | intro _
    | refine fst_keeps (by assumption) ?_
    | refine snd_keeps (by assumption) ?_
    | split
    | dsimp only


theorem State.admits_keeps {s : State} (h : s.Keeps P Q) (n c : Nat) : (State.admits s n c).1.Keeps P Q := by
  unfold State.admits
  repeat' first
    | with_reducible exact h
    | with_reducible assumption
    | simp only [↓keeps_upd]
    | with_reducible apply State.setAdm_keeps
    | with_reducible apply State.inc_keeps
    | intro _
    | refine fst_keeps (by assumption) ?_
    | refine snd_keeps (by assumption) ?_
    | split
    | dsimp only


end Sys2Proof.Machine
end

