-- ==== Sys2Proof/Laws/KeepsLedger.lean ====
section
/-! SUPPORT. Generated: the operations of Machine/Ledger.lean leave the queue and the canonical form alone. -/

namespace Sys2Proof.Machine

set_option autoImplicit false
set_option linter.unusedTactic false
set_option linter.unreachableTactic false
set_option linter.unusedSimpArgs false

variable {P : Prop} {Q : List Instr}

theorem State.fresh_keeps {s : State} (h : s.Keeps P Q) : (State.fresh s).2.Keeps P Q := by
  unfold State.fresh
  repeat' first
    | with_reducible exact h
    | with_reducible assumption
    | simp only [↓keeps_upd]
    | intro _
    | refine fst_keeps (by assumption) ?_
    | refine snd_keeps (by assumption) ?_
    | split
    | dsimp only


theorem State.setRow_keeps {s : State} (h : s.Keeps P Q) (i : Nat) (e : Option LEnt) : (State.setRow s i e).Keeps P Q := by
  unfold State.setRow
  repeat' first
    | with_reducible exact h
    | with_reducible assumption
    | simp only [↓keeps_upd]
    | intro _
    | refine fst_keeps (by assumption) ?_
    | refine snd_keeps (by assumption) ?_
    | split
    | dsimp only


theorem State.setCell_keeps {s : State} (h : s.Keeps P Q) (i : Nat) (e : Option Cell) : (State.setCell s i e).Keeps P Q := by
  unfold State.setCell
  repeat' first
    | with_reducible exact h
    | with_reducible assumption
    | simp only [↓keeps_upd]
    | intro _
    | refine fst_keeps (by assumption) ?_
    | refine snd_keeps (by assumption) ?_
    | split
    | dsimp only


theorem State.storeLive_keeps {s : State} (h : s.Keeps P Q) : (State.storeLive s).Keeps P Q := by
  unfold State.storeLive
  repeat' first
    | with_reducible exact h
    | with_reducible assumption
    | simp only [↓keeps_upd]
    | with_reducible apply State.wr_keeps
    | intro _
    | refine fst_keeps (by assumption) ?_
    | refine snd_keeps (by assumption) ?_
    | split
    | dsimp only


theorem State.epochRef_keeps {s : State} (h : s.Keeps P Q) (e : Nat) : (State.epochRef s e).Keeps P Q := by
  unfold State.epochRef
  repeat' first
    | with_reducible exact h
    | with_reducible assumption
    | simp only [↓keeps_upd]
    | with_reducible apply State.wr_keeps
    | intro _
    | refine fst_keeps (by assumption) ?_
    | refine snd_keeps (by assumption) ?_
    | split
    | dsimp only


theorem State.epochUnref_keeps {s : State} (h : s.Keeps P Q) (e : Nat) : (State.epochUnref s e).Keeps P Q := by
  unfold State.epochUnref
  repeat' first
    | with_reducible exact h
    | with_reducible assumption
    | simp only [↓keeps_upd]
    | with_reducible apply State.wr_keeps
    | intro _
    | refine fst_keeps (by assumption) ?_
    | refine snd_keeps (by assumption) ?_
    | split
    | dsimp only


theorem State.countLookup_keeps {s : State} (h : s.Keeps P Q) (r : LRes) (banks : Nat) : (State.countLookup s r banks).Keeps P Q := by
  unfold State.countLookup
  repeat' first
    | with_reducible exact h
    | with_reducible assumption
    | simp only [↓keeps_upd]
    | with_reducible apply State.inc_keeps
    | with_reducible apply State.count_keeps
    | intro _
    | refine fst_keeps (by assumption) ?_
    | refine snd_keeps (by assumption) ?_
    | split
    | dsimp only


theorem State.fixRow_keeps {s : State} (h : s.Keeps P Q) (row : Nat) : (State.fixRow s row).Keeps P Q := by
  unfold State.fixRow
  repeat' first
    | with_reducible exact h
    | with_reducible assumption
    | simp only [↓keeps_upd]
    | with_reducible apply State.inc_keeps
    | with_reducible apply State.raise_keeps
    | intro _
    | refine fst_keeps (by assumption) ?_
    | refine snd_keeps (by assumption) ?_
    | split
    | dsimp only


theorem State.ldgLookup_keeps {s : State} (h : s.Keeps P Q) (p : Nat) (key : List Byte) (epoch : Nat) (upset : Option Nat) : (State.ldgLookup s p key epoch upset).1.Keeps P Q := by
  unfold State.ldgLookup
  repeat' first
    | with_reducible exact h
    | with_reducible assumption
    | simp only [↓keeps_upd]
    | with_reducible apply State.fixRow_keeps
    | with_reducible apply State.countLookup_keeps
    | intro _
    | refine fst_keeps (by assumption) ?_
    | refine snd_keeps (by assumption) ?_
    | split
    | dsimp only


theorem State.cellEcc_keeps {s : State} (h : s.Keeps P Q) (i : Nat) (uncorr : Bool) : (State.cellEcc s i uncorr).Keeps P Q := by
  unfold State.cellEcc
  repeat' first
    | with_reducible exact h
    | with_reducible assumption
    | simp only [↓keeps_upd]
    | with_reducible apply State.setCell_keeps
    | with_reducible apply State.raise_keeps
    | with_reducible apply State.inc_keeps
    | intro _
    | refine fst_keeps (by assumption) ?_
    | refine snd_keeps (by assumption) ?_
    | split
    | dsimp only


theorem State.cellsEcc_keeps {s : State} (h : s.Keeps P Q) (ecc : List (Nat × Bool)) : (State.cellsEcc s ecc).Keeps P Q := by
  unfold State.cellsEcc
  repeat' first
    | with_reducible exact h
    | with_reducible assumption
    | simp only [↓keeps_upd]
    | with_reducible apply State.cellEcc_keeps
    | with_reducible apply foldl_keeps
    | intro _
    | refine fst_keeps (by assumption) ?_
    | refine snd_keeps (by assumption) ?_
    | split
    | dsimp only


theorem State.exmLookup_keeps {s : State} (h : s.Keeps P Q) (p : Nat) (key : List Byte) (epoch : Nat) (ecc : List (Nat × Bool)) : (State.exmLookup s p key epoch ecc).1.Keeps P Q := by
  unfold State.exmLookup
  repeat' first
    | with_reducible exact h
    | with_reducible assumption
    | simp only [↓keeps_upd]
    | with_reducible apply State.cellsEcc_keeps
    | with_reducible apply State.countLookup_keeps
    | intro _
    | refine fst_keeps (by assumption) ?_
    | refine snd_keeps (by assumption) ?_
    | split
    | dsimp only


theorem State.moveRow_keeps {s : State} (h : s.Keeps P Q) (src dst : Nat) : (State.moveRow s src dst).Keeps P Q := by
  unfold State.moveRow
  repeat' first
    | with_reducible exact h
    | with_reducible assumption
    | simp only [↓keeps_upd]
    | with_reducible apply State.setRow_keeps
    | intro _
    | refine fst_keeps (by assumption) ?_
    | refine snd_keeps (by assumption) ?_
    | split
    | dsimp only


theorem State.displace_keeps {s : State} (h : s.Keeps P Q) (l : List Nat) : (State.displace s l).Keeps P Q := by
  induction l generalizing s with
  | nil => exact h
  | cons a l ih =>
    cases l with
    | nil => exact h
    | cons b t => exact State.inc_keeps (State.setCell_keeps (State.setCell_keeps (ih h) ..) ..) ..


theorem State.wayPlace_keeps {s : State} (h : s.Keeps P Q) (table : Nat) (key : List Byte) : (State.wayPlace s table key).1.Keeps P Q := by
  unfold State.wayPlace
  repeat' first
    | with_reducible exact h
    | with_reducible assumption
    | simp only [↓keeps_upd]
    | with_reducible apply State.displace_keeps
    | intro _
    | refine fst_keeps (by assumption) ?_
    | refine snd_keeps (by assumption) ?_
    | split
    | dsimp only


theorem State.stashHigh_keeps {s : State} (h : s.Keeps P Q) : (State.stashHigh s).Keeps P Q := by
  unfold State.stashHigh
  repeat' first
    | with_reducible exact h
    | with_reducible assumption
    | simp only [↓keeps_upd]
    | with_reducible apply State.raiseLimited_keeps
    | intro _
    | refine fst_keeps (by assumption) ?_
    | refine snd_keeps (by assumption) ?_
    | split
    | dsimp only


theorem State.drainStash_keeps {s : State} (h : s.Keeps P Q) (i : Nat) : (State.drainStash s i).Keeps P Q := by
  unfold State.drainStash
  repeat' first
    | with_reducible exact h
    | with_reducible assumption
    | simp only [↓keeps_upd]
    | with_reducible apply State.wayPlace_keeps
    | with_reducible apply State.setCell_keeps
    | with_reducible apply State.inc_keeps
    | intro _
    | refine fst_keeps (by assumption) ?_
    | refine snd_keeps (by assumption) ?_
    | split
    | dsimp only


theorem State.ldgDone_keeps {s : State} (h : s.Keeps P Q) (k : Nat) (c : LCode) (i : Option Nat) : (State.ldgDone s k c i).Keeps P Q := by
  unfold State.ldgDone
  repeat' first
    | with_reducible exact h
    | with_reducible assumption
    | simp only [↓keeps_upd]
    | with_reducible apply ok_keeps
    | with_reducible apply State.inc_keeps
    | with_reducible apply State.msi_keeps
    | with_reducible apply State.wr_keeps
    | with_reducible apply State.fresh_keeps
    | intro _
    | refine fst_keeps (by assumption) ?_
    | refine snd_keeps (by assumption) ?_
    | split
    | dsimp only


theorem State.doWrite_keeps {s : State} (h : s.Keeps P Q) (k : Nat) (v : Word) : (State.doWrite s k v).Keeps P Q := by
  unfold State.doWrite
  repeat' first
    | with_reducible exact h
    | with_reducible assumption
    | simp only [↓keeps_upd]
    | with_reducible apply State.ldgDone_keeps
    | with_reducible apply State.setRow_keeps
    | with_reducible apply State.inc_keeps
    | with_reducible apply ok_keeps
    | intro _
    | refine fst_keeps (by assumption) ?_
    | refine snd_keeps (by assumption) ?_
    | split
    | dsimp only


theorem State.insFinish_keeps {s : State} (h : s.Keeps P Q) (j : InsJob) : (State.insFinish s j).Keeps P Q := by
  unfold State.insFinish
  repeat' first
    | with_reducible exact h
    | with_reducible assumption
    | simp only [↓keeps_upd]
    | with_reducible apply State.setRow_keeps
    | with_reducible apply State.inc_keeps
    | with_reducible apply State.ldgDone_keeps
    | with_reducible apply ok_keeps
    | intro _
    | refine fst_keeps (by assumption) ?_
    | refine snd_keeps (by assumption) ?_
    | split
    | dsimp only


theorem State.doInsert_keeps {s : State} (h : s.Keeps P Q) (k : Nat) (v : Word) : (State.doInsert s k v).Keeps P Q := by
  unfold State.doInsert
  repeat' first
    | with_reducible exact h
    | with_reducible assumption
    | simp only [↓keeps_upd]
    | with_reducible apply State.ldgDone_keeps
    | with_reducible apply State.insFinish_keeps
    | intro _
    | refine fst_keeps (by assumption) ?_
    | refine snd_keeps (by assumption) ?_
    | split
    | dsimp only


theorem State.doDelete_keeps {s : State} (h : s.Keeps P Q) (k : Nat) (v : Word) : (State.doDelete s k v).Keeps P Q := by
  unfold State.doDelete
  repeat' first
    | with_reducible exact h
    | with_reducible assumption
    | simp only [↓keeps_upd]
    | with_reducible apply State.ldgDone_keeps
    | with_reducible apply State.setCell_keeps
    | with_reducible apply State.inc_keeps
    | with_reducible apply ok_keeps
    | with_reducible apply State.setRow_keeps
    | intro _
    | refine fst_keeps (by assumption) ?_
    | refine snd_keeps (by assumption) ?_
    | split
    | dsimp only


theorem State.doModify_keeps {s : State} (h : s.Keeps P Q) (k : Nat) (v : Word) : (State.doModify s k v).Keeps P Q := by
  unfold State.doModify
  repeat' first
    | with_reducible exact h
    | with_reducible assumption
    | simp only [↓keeps_upd]
    | with_reducible apply State.ldgDone_keeps
    | with_reducible apply State.setCell_keeps
    | with_reducible apply ok_keeps
    | with_reducible apply State.setRow_keeps
    | intro _
    | refine fst_keeps (by assumption) ?_
    | refine snd_keeps (by assumption) ?_
    | split
    | dsimp only


theorem State.doAdd_keeps {s : State} (h : s.Keeps P Q) (k : Nat) (v : Word) : (State.doAdd s k v).Keeps P Q := by
  unfold State.doAdd
  repeat' first
    | with_reducible exact h
    | with_reducible assumption
    | simp only [↓keeps_upd]
    | with_reducible apply State.ldgDone_keeps
    | with_reducible apply State.wayPlace_keeps
    | with_reducible apply State.setCell_keeps
    | with_reducible apply State.inc_keeps
    | with_reducible apply ok_keeps
    | with_reducible apply State.stashHigh_keeps
    | intro _
    | refine fst_keeps (by assumption) ?_
    | refine snd_keeps (by assumption) ?_
    | split
    | dsimp only


theorem State.doLookup_keeps {s : State} (h : s.Keeps P Q) (k : Nat) (v : Word) (rd : Reads) : (State.doLookup s k v rd).Keeps P Q := by
  unfold State.doLookup
  repeat' first
    | with_reducible exact h
    | with_reducible assumption
    | simp only [↓keeps_upd]
    | with_reducible apply State.exmLookup_keeps
    | with_reducible apply State.ldgLookup_keeps
    | with_reducible apply State.ldgDone_keeps
    | with_reducible apply State.putWord_keeps
    | with_reducible apply ok_keeps
    | intro _
    | refine fst_keeps (by assumption) ?_
    | refine snd_keeps (by assumption) ?_
    | split
    | dsimp only


theorem State.doOpen_keeps {s : State} (h : s.Keeps P Q) (k : Nat) : (State.doOpen s k).Keeps P Q := by
  unfold State.doOpen
  repeat' first
    | with_reducible exact h
    | with_reducible assumption
    | simp only [↓keeps_upd]
    | with_reducible apply State.ldgDone_keeps
    | with_reducible apply State.wr_keeps
    | with_reducible apply State.storeLive_keeps
    | with_reducible apply ok_keeps
    | intro _
    | refine fst_keeps (by assumption) ?_
    | refine snd_keeps (by assumption) ?_
    | split
    | dsimp only


theorem State.doPublish_keeps {s : State} (h : s.Keeps P Q) (k : Nat) : (State.doPublish s k).Keeps P Q := by
  unfold State.doPublish
  repeat' first
    | with_reducible exact h
    | with_reducible assumption
    | simp only [↓keeps_upd]
    | with_reducible apply State.ldgDone_keeps
    | with_reducible apply State.wr_keeps
    | with_reducible apply State.storeLive_keeps
    | with_reducible apply ok_keeps
    | intro _
    | refine fst_keeps (by assumption) ?_
    | refine snd_keeps (by assumption) ?_
    | split
    | dsimp only


theorem State.doDiscard_keeps {s : State} (h : s.Keeps P Q) (k : Nat) : (State.doDiscard s k).Keeps P Q := by
  unfold State.doDiscard
  repeat' first
    | with_reducible exact h
    | with_reducible assumption
    | simp only [↓keeps_upd]
    | with_reducible apply State.ldgDone_keeps
    | with_reducible apply State.wr_keeps
    | with_reducible apply State.storeLive_keeps
    | intro _
    | refine fst_keeps (by assumption) ?_
    | refine snd_keeps (by assumption) ?_
    | split
    | dsimp only


theorem State.ldgRun_keeps {s : State} (h : s.Keeps P Q) (k : Nat) (v : Word) (rd : Reads) : (State.ldgRun s k v rd).Keeps P Q := by
  unfold State.ldgRun
  repeat' first
    | with_reducible exact h
    | with_reducible assumption
    | simp only [↓keeps_upd]
    | with_reducible apply State.cellsEcc_keeps
    | with_reducible apply State.doWrite_keeps
    | with_reducible apply State.doInsert_keeps
    | with_reducible apply State.doDelete_keeps
    | with_reducible apply State.doModify_keeps
    | with_reducible apply State.doAdd_keeps
    | with_reducible apply State.doLookup_keeps
    | with_reducible apply State.doOpen_keeps
    | with_reducible apply State.doPublish_keeps
    | with_reducible apply State.doDiscard_keeps
    | intro _
    | refine fst_keeps (by assumption) ?_
    | refine snd_keeps (by assumption) ?_
    | split
    | dsimp only


theorem State.retireStart_keeps {s : State} (h : s.Keeps P Q) : (State.retireStart s).Keeps P Q := by
  unfold State.retireStart
  repeat' first
    | with_reducible exact h
    | with_reducible assumption
    | simp only [↓keeps_upd]
    | with_reducible apply State.wr_keeps
    | intro _
    | refine fst_keeps (by assumption) ?_
    | refine snd_keeps (by assumption) ?_
    | split
    | dsimp only


theorem State.ldgNext_keeps {s : State} (h : s.Keeps P Q) : (State.ldgNext s).Keeps P Q := by
  unfold State.ldgNext
  repeat' first
    | with_reducible exact h
    | with_reducible assumption
    | simp only [↓keeps_upd]
    | with_reducible apply State.retireStart_keeps
    | with_reducible apply State.ldgRun_keeps
    | intro _
    | refine fst_keeps (by assumption) ?_
    | refine snd_keeps (by assumption) ?_
    | split
    | dsimp only


theorem State.ldgIssue_keeps {s : State} (h : s.Keeps P Q) (ag : Agent) (k : Nat) (v : Word) (rd : Reads) : (State.ldgIssue s ag k v rd).Keeps P Q := by
  unfold State.ldgIssue
  repeat' first
    | with_reducible exact h
    | with_reducible assumption
    | simp only [↓keeps_upd]
    | with_reducible apply State.deny_keeps
    | with_reducible apply State.wr_keeps
    | with_reducible apply State.ldgRun_keeps
    | intro _
    | refine fst_keeps (by assumption) ?_
    | refine snd_keeps (by assumption) ?_
    | split
    | dsimp only


theorem State.ldgCmd_keeps {s : State} (h : s.Keeps P Q) (ag : Agent) (k : Nat) (op : Nat) (v : Word) (rd : Reads) : (State.ldgCmd s ag k op v rd).Keeps P Q := by
  unfold State.ldgCmd
  repeat' first
    | with_reducible exact h
    | with_reducible assumption
    | simp only [↓keeps_upd]
    | with_reducible apply State.gate_keeps
    | with_reducible apply State.ldgIssue_keeps
    | intro _
    | refine fst_keeps (by assumption) ?_
    | refine snd_keeps (by assumption) ?_
    | split
    | dsimp only


theorem State.sweepAll_keeps {s : State} (h : s.Keeps P Q) (f : Life → Option Life) : (State.sweepAll s f).Keeps P Q := by
  unfold State.sweepAll
  repeat' first
    | with_reducible exact h
    | with_reducible assumption
    | simp only [↓keeps_upd]
    | intro _
    | refine fst_keeps (by assumption) ?_
    | refine snd_keeps (by assumption) ?_
    | split
    | dsimp only


end Sys2Proof.Machine
end

