-- ==== Sys2Proof/Laws/KeepsForward.lean ====
section
/-! SUPPORT. Generated: the operations of Machine/Forward.lean leave the queue and the canonical form alone. -/

namespace Sys2Proof.Machine

set_option autoImplicit false
set_option linter.unusedTactic false
set_option linter.unreachableTactic false
set_option linter.unusedSimpArgs false

variable {P : Prop} {Q : List Instr}

theorem State.create_keeps {s : State} (h : s.Keeps P Q) (src : Nat) (up : Bool) (onu ctx : Nat) (fr : List Byte) (x : Parsed) : (State.create s src up onu ctx fr x).Keeps P Q := by
  unfold State.create
  repeat' first
    | with_reducible exact h
    | with_reducible assumption
    | simp only [↓keeps_upd]
    | with_reducible apply State.newBuf_keeps
    | with_reducible apply State.noBuf_keeps
    | with_reducible apply State.epochRef_keeps
    | intro _
    | refine fst_keeps (by assumption) ?_
    | refine snd_keeps (by assumption) ?_
    | split
    | dsimp only


theorem State.overrun_keeps {s : State} (h : s.Keeps P Q) (src : Source) (addr : Nat) : (State.overrun s src addr).Keeps P Q := by
  unfold State.overrun
  repeat' first
    | with_reducible exact h
    | with_reducible assumption
    | simp only [↓keeps_upd]
    | with_reducible apply State.raise_keeps
    | intro _
    | refine fst_keeps (by assumption) ?_
    | refine snd_keeps (by assumption) ?_
    | split
    | dsimp only


theorem State.intake_keeps {s : State} (h : s.Keeps P Q) (n : Nat) (isl : Source) (fr : List Byte) (full : Bool) (x : Parsed) : (State.intake s n isl fr full x).Keeps P Q := by
  unfold State.intake
  repeat' first
    | with_reducible exact h
    | with_reducible assumption
    | simp only [↓keeps_upd]
    | with_reducible apply State.inc_keeps
    | with_reducible apply State.admits_keeps
    | with_reducible apply State.overrun_keeps
    | with_reducible apply State.create_keeps
    | intro _
    | refine fst_keeps (by assumption) ?_
    | refine snd_keeps (by assumption) ?_
    | split
    | dsimp only


theorem State.intakeUp_keeps {s : State} (h : s.Keeps P Q) (p : Fin 32) (sd onu ctx ctxCls : Nat) (fr : List Byte) (full : Bool) : (State.intakeUp s p sd onu ctx ctxCls fr full).Keeps P Q := by
  unfold State.intakeUp
  repeat' first
    | with_reducible exact h
    | with_reducible assumption
    | simp only [↓keeps_upd]
    | with_reducible apply State.overrun_keeps
    | with_reducible apply State.create_keeps
    | intro _
    | refine fst_keeps (by assumption) ?_
    | refine snd_keeps (by assumption) ?_
    | split
    | dsimp only


theorem State.setFlow_keeps {s : State} (h : s.Keeps P Q) (f : Nat) (x : Flow) : (State.setFlow s f x).Keeps P Q := by
  unfold State.setFlow
  repeat' first
    | with_reducible exact h
    | with_reducible assumption
    | simp only [↓keeps_upd]
    | intro _
    | refine fst_keeps (by assumption) ?_
    | refine snd_keeps (by assumption) ?_
    | split
    | dsimp only


theorem State.setCtx_keeps {s : State} (h : s.Keeps P Q) (k : Nat) (x : Option Ctx) : (State.setCtx s k x).Keeps P Q := by
  unfold State.setCtx
  repeat' first
    | with_reducible exact h
    | with_reducible assumption
    | simp only [↓keeps_upd]
    | intro _
    | refine fst_keeps (by assumption) ?_
    | refine snd_keeps (by assumption) ?_
    | split
    | dsimp only


theorem State.setGuild_keeps {s : State} (h : s.Keeps P Q) (g : Nat) (x : Guild) : (State.setGuild s g x).Keeps P Q := by
  unfold State.setGuild
  repeat' first
    | with_reducible exact h
    | with_reducible assumption
    | simp only [↓keeps_upd]
    | intro _
    | refine fst_keeps (by assumption) ?_
    | refine snd_keeps (by assumption) ?_
    | split
    | dsimp only


theorem State.markNoGuild_keeps {s : State} (h : s.Keeps P Q) (c : Nat) : (State.markNoGuild s c).Keeps P Q := by
  unfold State.markNoGuild
  repeat' first
    | with_reducible exact h
    | with_reducible assumption
    | simp only [↓keeps_upd]
    | with_reducible apply State.wr_keeps
    | with_reducible apply State.raise_keeps
    | intro _
    | refine fst_keeps (by assumption) ?_
    | refine snd_keeps (by assumption) ?_
    | split
    | dsimp only


theorem State.dropDesc_keeps {s : State} (h : s.Keeps P Q) (d : Desc) : (State.dropDesc s d).Keeps P Q := by
  unfold State.dropDesc
  repeat' first
    | with_reducible exact h
    | with_reducible assumption
    | simp only [↓keeps_upd]
    | with_reducible apply State.unref_keeps
    | with_reducible apply State.epochUnref_keeps
    | intro _
    | refine fst_keeps (by assumption) ?_
    | refine snd_keeps (by assumption) ?_
    | split
    | dsimp only


theorem State.storeInFlight_keeps {s : State} (h : s.Keeps P Q) : (State.storeInFlight s).Keeps P Q := by
  unfold State.storeInFlight
  repeat' first
    | with_reducible exact h
    | with_reducible assumption
    | simp only [↓keeps_upd]
    | with_reducible apply State.wr_keeps
    | intro _
    | refine fst_keeps (by assumption) ?_
    | refine snd_keeps (by assumption) ?_
    | split
    | dsimp only


theorem State.modFlight_keeps {s : State} (h : s.Keeps P Q) (id : Nat) (f : Flight → Flight) : (State.modFlight s id f).Keeps P Q := by
  unfold State.modFlight
  repeat' first
    | with_reducible exact h
    | with_reducible assumption
    | simp only [↓keeps_upd]
    | intro _
    | refine fst_keeps (by assumption) ?_
    | refine snd_keeps (by assumption) ?_
    | split
    | dsimp only


theorem State.seen_keeps {s : State} (h : s.Keeps P Q) (d : Desc) : (State.seen s d).Keeps P Q := by
  unfold State.seen
  repeat' first
    | with_reducible exact h
    | with_reducible assumption
    | simp only [↓keeps_upd]
    | intro _
    | refine fst_keeps (by assumption) ?_
    | refine snd_keeps (by assumption) ?_
    | split
    | dsimp only


theorem State.startPass_keeps {s : State} (h : s.Keeps P Q) (id : Nat) (d : Desc) (at_ : Nat × Nat × Nat) : (State.startPass s id d at_).Keeps P Q := by
  unfold State.startPass
  repeat' first
    | with_reducible exact h
    | with_reducible assumption
    | simp only [↓keeps_upd]
    | with_reducible apply State.setCtx_keeps
    | with_reducible apply State.setGuild_keeps
    | with_reducible apply State.seen_keeps
    | with_reducible apply State.modFlight_keeps
    | with_reducible apply State.place_keeps
    | intro _
    | refine fst_keeps (by assumption) ?_
    | refine snd_keeps (by assumption) ?_
    | split
    | dsimp only


theorem State.takeNew_keeps {s : State} (h : s.Keeps P Q) (d : Desc) : (State.takeNew s d).1.Keeps P Q := by
  unfold State.takeNew
  repeat' first
    | with_reducible exact h
    | with_reducible assumption
    | simp only [↓keeps_upd]
    | with_reducible apply State.inc_keeps
    | with_reducible apply State.dropDesc_keeps
    | with_reducible apply State.raiseLimited_keeps
    | with_reducible apply State.issue_keeps
    | with_reducible apply State.setFlow_keeps
    | with_reducible apply State.storeInFlight_keeps
    | intro _
    | refine fst_keeps (by assumption) ?_
    | refine snd_keeps (by assumption) ?_
    | split
    | dsimp only


theorem State.forget_keeps {s : State} (h : s.Keeps P Q) (id : Nat) : (State.forget s id).Keeps P Q := by
  unfold State.forget
  repeat' first
    | with_reducible exact h
    | with_reducible assumption
    | simp only [↓keeps_upd]
    | intro _
    | refine fst_keeps (by assumption) ?_
    | refine snd_keeps (by assumption) ?_
    | split
    | dsimp only


theorem State.complete_keeps {s : State} (h : s.Keeps P Q) (id : Nat) (d : Desc) (lost : Bool) : (State.complete s id d lost).Keeps P Q := by
  unfold State.complete
  repeat' first
    | with_reducible exact h
    | with_reducible assumption
    | simp only [↓keeps_upd]
    | with_reducible apply State.forget_keeps
    | with_reducible apply State.inc_keeps
    | with_reducible apply State.dropDesc_keeps
    | with_reducible apply State.storeInFlight_keeps
    | with_reducible apply State.modFlight_keeps
    | with_reducible apply State.place_keeps
    | intro _
    | refine fst_keeps (by assumption) ?_
    | refine snd_keeps (by assumption) ?_
    | split
    | dsimp only


theorem State.dispatch_keeps {s : State} (h : s.Keeps P Q) (pre l : List SrtIn) : (State.dispatch s pre l).Keeps P Q := by
  induction l generalizing s pre with
  | nil => exact h
  | cons x l ih =>
    cases x <;> unfold State.dispatch
    all_goals
      repeat' first
        | with_reducible exact h
        | with_reducible apply ih
        | simp only [↓keeps_upd]
        | with_reducible apply State.startPass_keeps
        | with_reducible apply State.inc_keeps
        | with_reducible apply State.complete_keeps
        | with_reducible apply State.takeNew_keeps
        | with_reducible apply State.markNoGuild_keeps
        | split
        | dsimp only


theorem State.setExc_keeps {s : State} (h : s.Keeps P Q) (k : Nat) (x : ExcBkt) : (State.setExc s k x).Keeps P Q := by
  unfold State.setExc
  repeat' first
    | with_reducible exact h
    | with_reducible assumption
    | simp only [↓keeps_upd]
    | intro _
    | refine fst_keeps (by assumption) ?_
    | refine snd_keeps (by assumption) ?_
    | split
    | dsimp only


theorem State.excPass_keeps {s : State} (h : s.Keeps P Q) (r total rate : Nat) (totalRate totalBurst : Nat) : (State.excPass s r total rate totalRate totalBurst).1.Keeps P Q := by
  unfold State.excPass
  repeat' first
    | with_reducible exact h
    | with_reducible assumption
    | simp only [↓keeps_upd]
    | with_reducible apply State.refill_keeps
    | with_reducible apply State.setExc_keeps
    | with_reducible apply State.inc_keeps
    | intro _
    | refine fst_keeps (by assumption) ?_
    | refine snd_keeps (by assumption) ?_
    | split
    | dsimp only


theorem State.toSteward_keeps {s : State} (h : s.Keeps P Q) (o : ExcOut) : (State.toSteward s o).Keeps P Q := by
  unfold State.toSteward
  repeat' first
    | with_reducible exact h
    | with_reducible assumption
    | simp only [↓keeps_upd]
    | with_reducible apply State.refill_keeps
    | with_reducible apply State.setExc_keeps
    | with_reducible apply State.inc_keeps
    | with_reducible apply State.unref_keeps
    | intro _
    | refine fst_keeps (by assumption) ?_
    | refine snd_keeps (by assumption) ?_
    | split
    | dsimp only


theorem State.exception_keeps {s : State} (h : s.Keeps P Q) (d : Desc) (mirror : Bool) : (State.exception s d mirror).Keeps P Q := by
  unfold State.exception
  repeat' first
    | with_reducible exact h
    | with_reducible assumption
    | simp only [↓keeps_upd]
    | with_reducible apply State.mirror_keeps
    | with_reducible apply State.excPass_keeps
    | with_reducible apply State.unref_keeps
    | with_reducible apply State.inc_keeps
    | intro _
    | refine fst_keeps (by assumption) ?_
    | refine snd_keeps (by assumption) ?_
    | split
    | dsimp only


theorem State.toEnq_keeps {s : State} (h : s.Keeps P Q) (x : EnqIn) : (State.toEnq s x).Keeps P Q := by
  unfold State.toEnq
  repeat' first
    | with_reducible exact h
    | with_reducible assumption
    | simp only [↓keeps_upd]
    | intro _
    | refine fst_keeps (by assumption) ?_
    | refine snd_keeps (by assumption) ?_
    | split
    | dsimp only


theorem State.mirrorCopy_keeps {s0 : State} (h : s0.Keeps P Q) (d : Desc) (m : Nat) (yellow : Option Bool) : (State.mirrorCopy s0 d m yellow).Keeps P Q := by
  unfold State.mirrorCopy
  repeat' first
    | with_reducible exact h
    | with_reducible assumption
    | simp only [↓keeps_upd]
    | with_reducible apply State.inc_keeps
    | with_reducible apply State.exception_keeps
    | with_reducible apply State.toEnq_keeps
    | intro _
    | refine fst_keeps (by assumption) ?_
    | refine snd_keeps (by assumption) ?_
    | split
    | dsimp only


theorem State.setRef_keeps {s : State} (h : s.Keeps P Q) (h n : Nat) : (State.setRef s h n).Keeps P Q := by
  unfold State.setRef
  repeat' first
    | with_reducible exact h
    | with_reducible assumption
    | simp only [↓keeps_upd]
    | with_reducible apply State.setBuf_keeps
    | intro _
    | refine fst_keeps (by assumption) ?_
    | refine snd_keeps (by assumption) ?_
    | split
    | dsimp only


theorem State.treeBufs_keeps {s : State} (h : s.Keeps P Q) (d : Desc) (bytes : List Byte) (n left : Nat) :
    (State.treeBufs s d bytes n left).1.Keeps P Q := by
  induction n generalizing s left with
  | zero => exact h
  | succ n ih =>
    unfold State.treeBufs
    repeat' first
      | with_reducible exact h
      | with_reducible apply ih
      | with_reducible apply State.setRef_keeps
      | with_reducible apply State.newBuf_keeps
      | with_reducible apply State.raiseLimited_keeps
      | with_reducible apply State.count_keeps
      | split
      | dsimp only


theorem State.replicate_keeps {s : State} (h : s.Keeps P Q) (d : Desc) (ep : Nat) : (State.replicate s d ep).Keeps P Q := by
  unfold State.replicate
  repeat' first
    | with_reducible exact h
    | with_reducible assumption
    | simp only [↓keeps_upd]
    | with_reducible apply State.inc_keeps
    | with_reducible apply State.unref_keeps
    | with_reducible apply State.epochUnref_keeps
    | with_reducible apply State.policed_keeps
    | with_reducible apply State.setRef_keeps
    | with_reducible apply State.treeBufs_keeps
    | with_reducible apply State.toEnq_keeps
    | with_reducible apply State.count_keeps
    | with_reducible apply State.mirrorCopy_keeps
    | with_reducible apply foldl_keeps
    | intro _
    | refine fst_keeps (by assumption) ?_
    | refine snd_keeps (by assumption) ?_
    | split
    | dsimp only


theorem State.releaseDesc_keeps {s : State} (h : s.Keeps P Q) (d : Desc) : (State.releaseDesc s d).Keeps P Q := by
  unfold State.releaseDesc
  repeat' first
    | with_reducible exact h
    | with_reducible assumption
    | simp only [↓keeps_upd]
    | with_reducible apply State.count_keeps
    | with_reducible apply State.dropDesc_keeps
    | with_reducible apply State.toEnq_keeps
    | with_reducible apply State.epochUnref_keeps
    | with_reducible apply State.setRef_keeps
    | with_reducible apply State.mirrorCopy_keeps
    | with_reducible apply State.exception_keeps
    | with_reducible apply State.replicate_keeps
    | intro _
    | refine fst_keeps (by assumption) ?_
    | refine snd_keeps (by assumption) ?_
    | split
    | dsimp only


theorem State.releasePkt_keeps {s : State} (h : s.Keeps P Q) (f : Flight) : (State.releasePkt s f).Keeps P Q := by
  unfold State.releasePkt
  repeat' first
    | with_reducible exact h
    | with_reducible assumption
    | simp only [↓keeps_upd]
    | with_reducible apply State.dropDesc_keeps
    | with_reducible apply State.releaseDesc_keeps
    | intro _
    | refine fst_keeps (by assumption) ?_
    | refine snd_keeps (by assumption) ?_
    | split
    | dsimp only


theorem State.releaseFlow_keeps {s : State} (h : s.Keeps P Q) (flow n : Nat) : (State.releaseFlow s flow n).Keeps P Q := by
  induction n generalizing s with
  | zero => exact h
  | succ n ih =>
    unfold State.releaseFlow
    repeat' first
      | with_reducible exact h
      | with_reducible apply ih
      | with_reducible apply State.releasePkt_keeps
      | with_reducible apply State.setFlow_keeps
      | with_reducible apply State.forget_keeps
      | split
      | dsimp only


end Sys2Proof.Machine
end

