-- ==== Sys2Proof/Laws/KeepsFabric.lean ====
section
/-! SUPPORT. Generated: the operations of Machine/Fabric.lean leave the queue and the canonical form alone. -/

namespace Sys2Proof.Machine

set_option autoImplicit false
set_option linter.unusedTactic false
set_option linter.unreachableTactic false
set_option linter.unusedSimpArgs false

variable {P : Prop} {Q : List Instr}

theorem State.countDevices_keeps {s : State} (h : s.Keeps P Q) : (State.countDevices s).Keeps P Q := by
  unfold State.countDevices
  repeat' first
    | with_reducible exact h
    | with_reducible assumption
    | simp only [↓keeps_upd]
    | with_reducible apply State.wr_keeps
    | intro _
    | refine fst_keeps (by assumption) ?_
    | refine snd_keeps (by assumption) ?_
    | split
    | dsimp only


theorem State.setLsa_keeps {s : State} (h : s.Keeps P Q) (serial : Nat) (l : Option Lsa) : (State.setLsa s serial l).Keeps P Q := by
  unfold State.setLsa
  repeat' first
    | with_reducible exact h
    | with_reducible assumption
    | simp only [↓keeps_upd]
    | with_reducible apply State.countDevices_keeps
    | intro _
    | refine fst_keeps (by assumption) ?_
    | refine snd_keeps (by assumption) ?_
    | split
    | dsimp only


theorem State.flood_keeps {s : State} (h : s.Keeps P Q) (lanes : List Nat) (m : FabMsg) : (State.flood s lanes m).Keeps P Q := by
  unfold State.flood
  repeat' first
    | with_reducible exact h
    | with_reducible assumption
    | simp only [↓keeps_upd]
    | with_reducible apply State.setLane_keeps
    | with_reducible apply foldl_keeps
    | intro _
    | refine fst_keeps (by assumption) ?_
    | refine snd_keeps (by assumption) ?_
    | split
    | dsimp only


theorem State.originate_keeps {s : State} (h : s.Keeps P Q) : (State.originate s).Keeps P Q := by
  unfold State.originate
  repeat' first
    | with_reducible exact h
    | with_reducible assumption
    | simp only [↓keeps_upd]
    | with_reducible apply State.setLsa_keeps
    | with_reducible apply State.flood_keeps
    | with_reducible apply State.inc_keeps
    | intro _
    | refine fst_keeps (by assumption) ?_
    | refine snd_keeps (by assumption) ?_
    | split
    | dsimp only


theorem State.markNbr_keeps {s : State} (h : s.Keeps P Q) (n : Nat) (on : Bool) : (State.markNbr s n on).Keeps P Q := by
  unfold State.markNbr
  repeat' first
    | with_reducible exact h
    | with_reducible assumption
    | simp only [↓keeps_upd]
    | with_reducible apply State.wr_keeps
    | intro _
    | refine fst_keeps (by assumption) ?_
    | refine snd_keeps (by assumption) ?_
    | split
    | dsimp only


theorem State.clearLane_keeps {s : State} (h : s.Keeps P Q) (n : Nat) : (State.clearLane s n).Keeps P Q := by
  unfold State.clearLane
  repeat' first
    | with_reducible exact h
    | with_reducible assumption
    | simp only [↓keeps_upd]
    | with_reducible apply State.wr_keeps
    | with_reducible apply foldl_keeps
    | intro _
    | refine fst_keeps (by assumption) ?_
    | refine snd_keeps (by assumption) ?_
    | split
    | dsimp only


theorem State.loseNbr_keeps {s : State} (h : s.Keeps P Q) (n : Nat) : (State.loseNbr s n).Keeps P Q := by
  unfold State.loseNbr
  repeat' first
    | with_reducible exact h
    | with_reducible assumption
    | simp only [↓keeps_upd]
    | with_reducible apply State.clearLane_keeps
    | with_reducible apply State.markNbr_keeps
    | with_reducible apply State.originate_keeps
    | intro _
    | refine fst_keeps (by assumption) ?_
    | refine snd_keeps (by assumption) ?_
    | split
    | dsimp only


theorem State.setAddr_keeps {s : State} (h : s.Keeps P Q) (a : Option Nat) : (State.setAddr s a).Keeps P Q := by
  unfold State.setAddr
  repeat' first
    | with_reducible exact h
    | with_reducible assumption
    | simp only [↓keeps_upd]
    | with_reducible apply State.wr_keeps
    | with_reducible apply State.putWord_keeps
    | with_reducible apply State.endCause_keeps
    | intro _
    | refine fst_keeps (by assumption) ?_
    | refine snd_keeps (by assumption) ?_
    | split
    | dsimp only


theorem State.noAddr_keeps {s : State} (h : s.Keeps P Q) : (State.noAddr s).Keeps P Q := by
  unfold State.noAddr
  repeat' first
    | with_reducible exact h
    | with_reducible assumption
    | simp only [↓keeps_upd]
    | with_reducible apply State.onset_keeps
    | intro _
    | refine fst_keeps (by assumption) ?_
    | refine snd_keeps (by assumption) ?_
    | split
    | dsimp only


theorem State.conflict_keeps {s : State} (h : s.Keeps P Q) (l : Lsa) : (State.conflict s l).Keeps P Q := by
  unfold State.conflict
  repeat' first
    | with_reducible exact h
    | with_reducible assumption
    | simp only [↓keeps_upd]
    | with_reducible apply State.setAddr_keeps
    | with_reducible apply State.raise_keeps
    | with_reducible apply State.wr_keeps
    | with_reducible apply State.originate_keeps
    | intro _
    | refine fst_keeps (by assumption) ?_
    | refine snd_keeps (by assumption) ?_
    | split
    | dsimp only


theorem State.claimOwn_keeps {s : State} (h : s.Keeps P Q) : (State.claimOwn s).Keeps P Q := by
  unfold State.claimOwn
  repeat' first
    | with_reducible exact h
    | with_reducible assumption
    | simp only [↓keeps_upd]
    | with_reducible apply State.wr_keeps
    | with_reducible apply State.setAddr_keeps
    | with_reducible apply State.originate_keeps
    | with_reducible apply State.noAddr_keeps
    | intro _
    | refine fst_keeps (by assumption) ?_
    | refine snd_keeps (by assumption) ?_
    | split
    | dsimp only


theorem State.claim_keeps {s : State} (h : s.Keeps P Q) : (State.claim s).Keeps P Q := by
  unfold State.claim
  repeat' first
    | with_reducible exact h
    | with_reducible assumption
    | simp only [↓keeps_upd]
    | with_reducible apply State.conflict_keeps
    | with_reducible apply State.claimOwn_keeps
    | with_reducible apply foldl_keeps
    | intro _
    | refine fst_keeps (by assumption) ?_
    | refine snd_keeps (by assumption) ?_
    | split
    | dsimp only


theorem State.seeMaster_keeps {s : State} (h : s.Keeps P Q) : (State.seeMaster s).Keeps P Q := by
  unfold State.seeMaster
  repeat' first
    | with_reducible exact h
    | with_reducible assumption
    | simp only [↓keeps_upd]
    | with_reducible apply State.wr_keeps
    | with_reducible apply State.endCause_keeps
    | intro _
    | refine fst_keeps (by assumption) ?_
    | refine snd_keeps (by assumption) ?_
    | split
    | dsimp only


theorem State.recompute_keeps {s : State} (h : s.Keeps P Q) : (State.recompute s).Keeps P Q := by
  unfold State.recompute
  repeat' first
    | with_reducible exact h
    | with_reducible assumption
    | simp only [↓keeps_upd]
    | with_reducible apply State.putWord_keeps
    | with_reducible apply State.inc_keeps
    | with_reducible apply State.seeMaster_keeps
    | with_reducible apply foldl_keeps
    | intro _
    | refine fst_keeps (by assumption) ?_
    | refine snd_keeps (by assumption) ?_
    | split
    | dsimp only


theorem State.sendCarrier_keeps {s : State} (h : s.Keeps P Q) (d : Desc) (hdr : List Byte) (dest : Nat) (yellow : Bool) (cnt : Nat) : (State.sendCarrier s d hdr dest yellow cnt).Keeps P Q := by
  unfold State.sendCarrier
  repeat' first
    | with_reducible exact h
    | with_reducible assumption
    | simp only [↓keeps_upd]
    | with_reducible apply State.inc_keeps
    | with_reducible apply State.raiseLimited_keeps
    | with_reducible apply State.unref_keeps
    | with_reducible apply State.enqueueRest_keeps
    | intro _
    | refine fst_keeps (by assumption) ?_
    | refine snd_keeps (by assumption) ?_
    | split
    | dsimp only


theorem State.proxySend_keeps {s : State} (h : s.Keeps P Q) (d : Desc) (q : Nat) (yellow : Bool) : (State.proxySend s d q yellow).Keeps P Q := by
  unfold State.proxySend
  repeat' first
    | with_reducible exact h
    | with_reducible assumption
    | simp only [↓keeps_upd]
    | with_reducible apply State.inc_keeps
    | with_reducible apply State.raiseLimited_keeps
    | with_reducible apply State.unref_keeps
    | with_reducible apply State.sendCarrier_keeps
    | intro _
    | refine fst_keeps (by assumption) ?_
    | refine snd_keeps (by assumption) ?_
    | split
    | dsimp only


theorem State.proxyChecks_keeps {s : State} (h : s.Keeps P Q) (x : EnqIn) : (State.proxyChecks s x).Keeps P Q := by
  unfold State.proxyChecks
  repeat' first
    | with_reducible exact h
    | with_reducible assumption
    | simp only [↓keeps_upd]
    | with_reducible apply State.inc_keeps
    | with_reducible apply State.unref_keeps
    | with_reducible apply State.proxySend_keeps
    | with_reducible apply State.policed_keeps
    | intro _
    | refine fst_keeps (by assumption) ?_
    | refine snd_keeps (by assumption) ?_
    | split
    | dsimp only


theorem State.enqueueColored_keeps {s : State} (h : s.Keeps P Q) (d : Desc) (y : Bool) : (State.enqueueColored s d y).Keeps P Q := by
  unfold State.enqueueColored
  repeat' first
    | with_reducible exact h
    | with_reducible assumption
    | simp only [↓keeps_upd]
    | with_reducible apply State.inc_keeps
    | with_reducible apply State.queueDrop_keeps
    | with_reducible apply State.unref_keeps
    | with_reducible apply State.enqueueRest_keeps
    | intro _
    | refine fst_keeps (by assumption) ?_
    | refine snd_keeps (by assumption) ?_
    | split
    | dsimp only


theorem State.deliver_keeps {s : State} (h : s.Keeps P Q) (d : Desc) (yellow : Bool) : (State.deliver s d yellow).Keeps P Q := by
  unfold State.deliver
  repeat' first
    | with_reducible exact h
    | with_reducible assumption
    | simp only [↓keeps_upd]
    | with_reducible apply State.inc_keeps
    | with_reducible apply State.unref_keeps
    | with_reducible apply State.enqueueColored_keeps
    | with_reducible apply State.count_keeps
    | intro _
    | refine fst_keeps (by assumption) ?_
    | refine snd_keeps (by assumption) ?_
    | split
    | dsimp only


end Sys2Proof.Machine
end

