-- ==== Sys2Proof/Laws/KeepsLanes.lean ====
section
/-! SUPPORT. Generated: the operations of Machine/Lanes.lean leave the queue and the canonical form alone. -/

namespace Sys2Proof.Machine

set_option autoImplicit false
set_option linter.unusedTactic false
set_option linter.unreachableTactic false
set_option linter.unusedSimpArgs false

variable {P : Prop} {Q : List Instr}

theorem State.goLane_keeps {s : State} (h : s.Keeps P Q) (n st : Nat) : (State.goLane s n st).Keeps P Q := by
  unfold State.goLane
  repeat' first
    | with_reducible exact h
    | with_reducible assumption
    | simp only [↓keeps_upd]
    | with_reducible apply State.wr_keeps
    | with_reducible apply State.st_keeps
    | intro _
    | refine fst_keeps (by assumption) ?_
    | refine snd_keeps (by assumption) ?_
    | split
    | dsimp only


theorem State.twinSealed_keeps {s : State} (h : s.Keeps P Q) : (State.twinSealed s).Keeps P Q := by
  unfold State.twinSealed
  repeat' first
    | with_reducible exact h
    | with_reducible assumption
    | simp only [↓keeps_upd]
    | with_reducible apply State.wr_keeps
    | intro _
    | refine fst_keeps (by assumption) ?_
    | refine snd_keeps (by assumption) ?_
    | split
    | dsimp only


theorem State.twinLane_keeps {s : State} (h : s.Keeps P Q) (n : Nat) (up : Bool) : (State.twinLane s n up).Keeps P Q := by
  unfold State.twinLane
  repeat' first
    | with_reducible exact h
    | with_reducible assumption
    | simp only [↓keeps_upd]
    | with_reducible apply State.wr_keeps
    | with_reducible apply State.setTwinTree_keeps
    | with_reducible apply State.mirror_keeps
    | with_reducible apply State.endCause_keeps
    | with_reducible apply State.twinSealed_keeps
    | with_reducible apply State.onset_keeps
    | with_reducible apply State.redecide_keeps
    | with_reducible apply foldl_keeps
    | intro _
    | refine fst_keeps (by assumption) ?_
    | refine snd_keeps (by assumption) ?_
    | split
    | dsimp only


theorem State.flushTransit_keeps {s : State} (h : s.Keeps P Q) (n : Nat) : (State.flushTransit s n).Keeps P Q := by
  unfold State.flushTransit
  repeat' first
    | with_reducible exact h
    | with_reducible assumption
    | simp only [↓keeps_upd]
    | with_reducible apply State.count_keeps
    | with_reducible apply State.flushQueue_keeps
    | with_reducible apply foldl_keeps
    | intro _
    | refine fst_keeps (by assumption) ?_
    | refine snd_keeps (by assumption) ?_
    | split
    | dsimp only


theorem State.leaveActive_keeps {s : State} (h : s.Keeps P Q) (n : Nat) (cause : Option Nat) (dst : Nat) : (State.leaveActive s n cause dst).Keeps P Q := by
  unfold State.leaveActive
  repeat' first
    | with_reducible exact h
    | with_reducible assumption
    | simp only [↓keeps_upd]
    | with_reducible apply State.setLane_keeps
    | with_reducible apply State.inc_keeps
    | with_reducible apply State.goLane_keeps
    | with_reducible apply State.wr_keeps
    | with_reducible apply State.raise_keeps
    | with_reducible apply State.twinLane_keeps
    | with_reducible apply State.loseNbr_keeps
    | with_reducible apply State.flushTransit_keeps
    | intro _
    | refine fst_keeps (by assumption) ?_
    | refine snd_keeps (by assumption) ?_
    | split
    | dsimp only


theorem State.moveLane_keeps {s : State} (h : s.Keeps P Q) (n : Nat) (cause : Option Nat) (dst : Nat) : (State.moveLane s n cause dst).Keeps P Q := by
  unfold State.moveLane
  repeat' first
    | with_reducible exact h
    | with_reducible assumption
    | simp only [↓keeps_upd]
    | with_reducible apply State.leaveActive_keeps
    | with_reducible apply State.goLane_keeps
    | with_reducible apply State.setLane_keeps
    | intro _
    | refine fst_keeps (by assumption) ?_
    | refine snd_keeps (by assumption) ?_
    | split
    | dsimp only


theorem State.toDetect_keeps {s : State} (h : s.Keeps P Q) (n : Nat) (cause : Option Nat) : (State.toDetect s n cause).Keeps P Q := by
  unfold State.toDetect
  repeat' first
    | with_reducible exact h
    | with_reducible assumption
    | simp only [↓keeps_upd]
    | with_reducible apply State.moveLane_keeps
    | with_reducible apply State.setLane_keeps
    | intro _
    | refine fst_keeps (by assumption) ?_
    | refine snd_keeps (by assumption) ?_
    | split
    | dsimp only


theorem State.toTrain_keeps {s : State} (h : s.Keeps P Q) (n : Nat) (cause : Option Nat) : (State.toTrain s n cause).Keeps P Q := by
  unfold State.toTrain
  repeat' first
    | with_reducible exact h
    | with_reducible assumption
    | simp only [↓keeps_upd]
    | with_reducible apply State.moveLane_keeps
    | with_reducible apply State.setLane_keeps
    | intro _
    | refine fst_keeps (by assumption) ?_
    | refine snd_keeps (by assumption) ?_
    | split
    | dsimp only


theorem State.toLock_keeps {s : State} (h : s.Keeps P Q) (n : Nat) (cause : Option Nat) : (State.toLock s n cause).Keeps P Q := by
  unfold State.toLock
  repeat' first
    | with_reducible exact h
    | with_reducible assumption
    | simp only [↓keeps_upd]
    | with_reducible apply State.moveLane_keeps
    | with_reducible apply State.setLane_keeps
    | intro _
    | refine fst_keeps (by assumption) ?_
    | refine snd_keeps (by assumption) ?_
    | split
    | dsimp only


theorem State.linkCtl_keeps {s : State} (h : s.Keeps P Q) (n : Nat) (m : LinkCtl) : (State.linkCtl s n m).Keeps P Q := by
  unfold State.linkCtl
  repeat' first
    | with_reducible exact h
    | with_reducible assumption
    | simp only [↓keeps_upd]
    | with_reducible apply State.setLane_keeps
    | intro _
    | refine fst_keeps (by assumption) ?_
    | refine snd_keeps (by assumption) ?_
    | split
    | dsimp only


theorem State.linkCap_keeps {s : State} (h : s.Keeps P Q) (n : Nat) (ack : Bool) : (State.linkCap s n ack).Keeps P Q := by
  unfold State.linkCap
  repeat' first
    | with_reducible exact h
    | with_reducible assumption
    | simp only [↓keeps_upd]
    | with_reducible apply State.freshNonce_keeps
    | with_reducible apply State.linkCtl_keeps
    | intro _
    | refine fst_keeps (by assumption) ?_
    | refine snd_keeps (by assumption) ?_
    | split
    | dsimp only


theorem State.toExchange_keeps {s : State} (h : s.Keeps P Q) (n : Nat) (cause : Option Nat) : (State.toExchange s n cause).Keeps P Q := by
  unfold State.toExchange
  repeat' first
    | with_reducible exact h
    | with_reducible assumption
    | simp only [↓keeps_upd]
    | with_reducible apply State.moveLane_keeps
    | with_reducible apply State.freshNonce_keeps
    | with_reducible apply State.setLane_keeps
    | intro _
    | refine fst_keeps (by assumption) ?_
    | refine snd_keeps (by assumption) ?_
    | split
    | dsimp only


theorem State.takeRole_keeps {s : State} (h : s.Keeps P Q) (n : Nat) : (State.takeRole s n).Keeps P Q := by
  unfold State.takeRole
  repeat' first
    | with_reducible exact h
    | with_reducible assumption
    | simp only [↓keeps_upd]
    | with_reducible apply State.moveLane_keeps
    | with_reducible apply State.toExchange_keeps
    | with_reducible apply State.wr_keeps
    | with_reducible apply State.toDetect_keeps
    | intro _
    | refine fst_keeps (by assumption) ?_
    | refine snd_keeps (by assumption) ?_
    | split
    | dsimp only


theorem State.takeRoles_keeps {s : State} (h : s.Keeps P Q) : (State.takeRoles s).Keeps P Q := by
  unfold State.takeRoles
  repeat' first
    | with_reducible exact h
    | with_reducible assumption
    | simp only [↓keeps_upd]
    | with_reducible apply State.takeRole_keeps
    | with_reducible apply foldl_keeps
    | intro _
    | refine fst_keeps (by assumption) ?_
    | refine snd_keeps (by assumption) ?_
    | split
    | dsimp only


theorem State.newSession_keeps {s : State} (h : s.Keeps P Q) (n : Nat) (k : Sess) (first : Bool) : (State.newSession s n k first).Keeps P Q := by
  unfold State.newSession
  repeat' first
    | with_reducible exact h
    | with_reducible assumption
    | simp only [↓keeps_upd]
    | with_reducible apply State.setLane_keeps
    | with_reducible apply State.offer_keeps
    | with_reducible apply State.wr_keeps
    | with_reducible apply State.inc_keeps
    | with_reducible apply State.derive_keeps
    | with_reducible apply State.twinSealed_keeps
    | intro _
    | refine fst_keeps (by assumption) ?_
    | refine snd_keeps (by assumption) ?_
    | split
    | dsimp only


theorem State.offer_keeps {s : State} (h : s.Keeps P Q) (n : Nat) : (State.offer s n).Keeps P Q := by
  unfold State.offer
  repeat' first
    | with_reducible exact h
    | with_reducible assumption
    | simp only [↓keeps_upd]
    | with_reducible apply State.freshNonce_keeps
    | with_reducible apply State.setLane_keeps
    | with_reducible apply State.linkCtl_keeps
    | intro _
    | refine fst_keeps (by assumption) ?_
    | refine snd_keeps (by assumption) ?_
    | split
    | dsimp only


theorem State.offerSeal_keeps {s : State} (h : s.Keeps P Q) (n : Nat) : (State.offerSeal s n).Keeps P Q := by
  unfold State.offerSeal
  repeat' first
    | with_reducible exact h
    | with_reducible assumption
    | simp only [↓keeps_upd]
    | with_reducible apply State.offer_keeps
    | intro _
    | refine fst_keeps (by assumption) ?_
    | refine snd_keeps (by assumption) ?_
    | split
    | dsimp only


theorem State.sealChange_keeps {s : State} (h : s.Keeps P Q) (n : Nat) : (State.sealChange s n).Keeps P Q := by
  unfold State.sealChange
  repeat' first
    | with_reducible exact h
    | with_reducible assumption
    | simp only [↓keeps_upd]
    | with_reducible apply State.setLane_keeps
    | with_reducible apply State.linkCap_keeps
    | with_reducible apply State.offerSeal_keeps
    | intro _
    | refine fst_keeps (by assumption) ?_
    | refine snd_keeps (by assumption) ?_
    | split
    | dsimp only


theorem State.enterActive_keeps {s : State} (h : s.Keeps P Q) (n : Nat) (c : Cap) : (State.enterActive s n c).Keeps P Q := by
  unfold State.enterActive
  repeat' first
    | with_reducible exact h
    | with_reducible assumption
    | simp only [↓keeps_upd]
    | with_reducible apply State.goLane_keeps
    | with_reducible apply State.setLane_keeps
    | with_reducible apply State.newSession_keeps
    | with_reducible apply State.twinLane_keeps
    | with_reducible apply State.sealChange_keeps
    | intro _
    | refine fst_keeps (by assumption) ?_
    | refine snd_keeps (by assumption) ?_
    | split
    | dsimp only


theorem State.laneCfgWrite_keeps {s : State} (h : s.Keeps P Q) (ag : Agent) (n : Nat) (v : Word) : (State.laneCfgWrite s ag n v).Keeps P Q := by
  unfold State.laneCfgWrite
  repeat' first
    | with_reducible exact h
    | with_reducible assumption
    | simp only [↓keeps_upd]
    | with_reducible apply State.gate_keeps
    | with_reducible apply State.storeWord_keeps
    | with_reducible apply State.moveLane_keeps
    | with_reducible apply State.toDetect_keeps
    | with_reducible apply State.setLane_keeps
    | with_reducible apply State.sealChange_keeps
    | intro _
    | refine fst_keeps (by assumption) ?_
    | refine snd_keeps (by assumption) ?_
    | split
    | dsimp only


theorem State.setTaps_keeps {s : State} (h : s.Keeps P Q) (n pre post : Nat) : (State.setTaps s n pre post).Keeps P Q := by
  unfold State.setTaps
  repeat' first
    | with_reducible exact h
    | with_reducible assumption
    | simp only [↓keeps_upd]
    | with_reducible apply State.wr_keeps
    | intro _
    | refine fst_keeps (by assumption) ?_
    | refine snd_keeps (by assumption) ?_
    | split
    | dsimp only


theorem State.commaMissing_keeps {s : State} (h : s.Keeps P Q) (n : Nat) : (State.commaMissing s n).Keeps P Q := by
  unfold State.commaMissing
  repeat' first
    | with_reducible exact h
    | with_reducible assumption
    | simp only [↓keeps_upd]
    | with_reducible apply State.setLane_keeps
    | with_reducible apply State.toLock_keeps
    | intro _
    | refine fst_keeps (by assumption) ?_
    | refine snd_keeps (by assumption) ?_
    | split
    | dsimp only


theorem State.startTile_keeps {s : State} (h : s.Keeps P Q) (k : Nat) (code : BitVec 8) : (State.startTile s k code).Keeps P Q := by
  unfold State.startTile
  repeat' first
    | with_reducible exact h
    | with_reducible assumption
    | simp only [↓keeps_upd]
    | with_reducible apply State.setLane_keeps
    | intro _
    | refine fst_keeps (by assumption) ?_
    | refine snd_keeps (by assumption) ?_
    | split
    | dsimp only


theorem State.ulkOut_keeps {s : State} (h : s.Keeps P Q) (n : Nat) (fr : List Byte) (good : Bool) : (State.ulkOut s n fr good).Keeps P Q := by
  unfold State.ulkOut
  repeat' first
    | with_reducible exact h
    | with_reducible assumption
    | simp only [↓keeps_upd]
    | intro _
    | refine fst_keeps (by assumption) ?_
    | refine snd_keeps (by assumption) ?_
    | split
    | dsimp only


theorem State.setCut_keeps {s : State} (h : s.Keeps P Q) (k : Nat) (x : Option (Nat × List Byte)) : (State.setCut s k x).Keeps P Q := by
  unfold State.setCut
  repeat' first
    | with_reducible exact h
    | with_reducible assumption
    | simp only [↓keeps_upd]
    | intro _
    | refine fst_keeps (by assumption) ?_
    | refine snd_keeps (by assumption) ?_
    | split
    | dsimp only


theorem State.endCut_keeps {s : State} (h : s.Keeps P Q) (k : Nat) (good : Bool) : (State.endCut s k good).Keeps P Q := by
  unfold State.endCut
  repeat' first
    | with_reducible exact h
    | with_reducible assumption
    | simp only [↓keeps_upd]
    | with_reducible apply State.setCut_keeps
    | with_reducible apply State.ulkOut_keeps
    | intro _
    | refine fst_keeps (by assumption) ?_
    | refine snd_keeps (by assumption) ?_
    | split
    | dsimp only


theorem State.ctlSent_keeps {s : State} (h : s.Keeps P Q) (n : Nat) (m : LinkCtl) : (State.ctlSent s n m).Keeps P Q := by
  unfold State.ctlSent
  repeat' first
    | with_reducible exact h
    | with_reducible assumption
    | simp only [↓keeps_upd]
    | with_reducible apply State.answer_keeps
    | with_reducible apply State.newSession_keeps
    | intro _
    | refine fst_keeps (by assumption) ?_
    | refine snd_keeps (by assumption) ?_
    | split
    | dsimp only


theorem State.nextMsg_keeps {s : State} (h : s.Keeps P Q) (n chan : Nat) (x : State × Nat × List Byte × Option Nat)
    (e : State.nextMsg s n chan = some x) : x.1.Keeps P Q := by
  unfold State.nextMsg at e
  dsimp only at e
  split at e
  · split at e <;> cases e
    exact State.ctlSent_keeps (State.setLane_keeps h ..) ..
  · split at e <;> cases e
    simp only [↓keeps_upd]
    exact h
  · split at e <;> cases e
    simp only [↓keeps_upd]
    exact h
  · split at e <;> cases e
    exact State.setLane_keeps h ..


theorem State.doneWith_keeps {s : State} (h : s.Keeps P Q) (x : Option Nat) : (State.doneWith s x).Keeps P Q := by
  cases x with
  | none => exact h
  | some k => exact State.unref_keeps h ..


theorem State.bumpCtr_keeps {s : State} (h : s.Keeps P Q) (n : Nat) : (State.bumpCtr s n).Keeps P Q := by
  unfold State.bumpCtr
  repeat' first
    | with_reducible exact h
    | with_reducible assumption
    | simp only [↓keeps_upd]
    | with_reducible apply State.setLane_keeps
    | with_reducible apply State.raise_keeps
    | with_reducible apply State.offer_keeps
    | intro _
    | refine fst_keeps (by assumption) ?_
    | refine snd_keeps (by assumption) ?_
    | split
    | dsimp only


theorem State.putMsg_keeps {s : State} (h : s.Keeps P Q) (k : Nat) (m : LinkMsg) (head : List Byte) (len : Nat) : (State.putMsg s k m head len).Keeps P Q := by
  unfold State.putMsg
  repeat' first
    | with_reducible exact h
    | with_reducible assumption
    | simp only [↓keeps_upd]
    | with_reducible apply State.setLane_keeps
    | with_reducible apply State.drop_keeps
    | with_reducible apply State.inc_keeps
    | intro _
    | refine fst_keeps (by assumption) ?_
    | refine snd_keeps (by assumption) ?_
    | split
    | dsimp only


theorem State.eraseKeys_keeps {s : State} (h : s.Keeps P Q) (causes : Nat) : (State.eraseKeys s causes).Keeps P Q := by
  unfold State.eraseKeys
  repeat' first
    | with_reducible exact h
    | with_reducible assumption
    | simp only [↓keeps_upd]
    | with_reducible apply State.putWord_keeps
    | with_reducible apply State.setLane_keeps
    | with_reducible apply State.sealChange_keeps
    | with_reducible apply State.wr_keeps
    | with_reducible apply State.inc_keeps
    | with_reducible apply State.onset_keeps
    | with_reducible apply foldl_keeps
    | intro _
    | refine fst_keeps (by assumption) ?_
    | refine snd_keeps (by assumption) ?_
    | split
    | dsimp only


theorem State.loadOtp_keeps {s : State} (h : s.Keeps P Q) : (State.loadOtp s).Keeps P Q := by
  unfold State.loadOtp
  repeat' first
    | with_reducible exact h
    | with_reducible assumption
    | simp only [↓keeps_upd]
    | with_reducible apply State.setRoot_keeps
    | with_reducible apply State.wr_keeps
    | intro _
    | refine fst_keeps (by assumption) ?_
    | refine snd_keeps (by assumption) ?_
    | split
    | dsimp only


theorem State.loadLink_keeps {s : State} (h : s.Keeps P Q) (n v : Nat) : (State.loadLink s n v).Keeps P Q := by
  unfold State.loadLink
  repeat' first
    | with_reducible exact h
    | with_reducible assumption
    | simp only [↓keeps_upd]
    | with_reducible apply State.setRoot_keeps
    | with_reducible apply State.sealChange_keeps
    | intro _
    | refine fst_keeps (by assumption) ?_
    | refine snd_keeps (by assumption) ?_
    | split
    | dsimp only


theorem State.loadLinks_keeps {s : State} (h : s.Keeps P Q) : (State.loadLinks s).Keeps P Q := by
  unfold State.loadLinks
  repeat' first
    | with_reducible exact h
    | with_reducible assumption
    | simp only [↓keeps_upd]
    | with_reducible apply State.derive_keeps
    | with_reducible apply State.loadLink_keeps
    | with_reducible apply State.inc_keeps
    | with_reducible apply foldl_keeps
    | intro _
    | refine fst_keeps (by assumption) ?_
    | refine snd_keeps (by assumption) ?_
    | split
    | dsimp only


theorem State.reactivateAll_keeps {s : State} (h : s.Keeps P Q) : (State.reactivateAll s).Keeps P Q := by
  unfold State.reactivateAll
  repeat' first
    | with_reducible exact h
    | with_reducible assumption
    | simp only [↓keeps_upd]
    | with_reducible apply State.reactivate_keeps
    | with_reducible apply foldl_keeps
    | intro _
    | refine fst_keeps (by assumption) ?_
    | refine snd_keeps (by assumption) ?_
    | split
    | dsimp only


theorem execKeyRestore_keeps {s : State} (h : s.Keeps P Q) (ag : Agent) : Completes (execKeyRestore ag s) (State.Keeps P Q) := by
  unfold execKeyRestore
  repeat' first
    | with_reducible refine completes_keeps _ ?_
    | with_reducible exact h
    | with_reducible assumption
    | simp only [↓keeps_upd]
    | with_reducible apply ok_keeps
    | with_reducible apply State.keyGate_keeps
    | with_reducible apply State.keyCode_keeps
    | with_reducible apply State.wr_keeps
    | with_reducible apply State.loadOtp_keeps
    | with_reducible apply State.endCause_keeps
    | with_reducible apply State.loadLinks_keeps
    | with_reducible apply State.offer_keeps
    | with_reducible apply State.reactivateAll_keeps
    | with_reducible apply foldl_keeps
    | intro _
    | refine fst_keeps (by assumption) ?_
    | refine snd_keeps (by assumption) ?_
    | split
    | dsimp only


theorem State.fabCfgWrite_keeps {s : State} (h : s.Keeps P Q) (ag : Agent) (v : Word) : (State.fabCfgWrite s ag v).Keeps P Q := by
  unfold State.fabCfgWrite
  repeat' first
    | with_reducible exact h
    | with_reducible assumption
    | simp only [↓keeps_upd]
    | with_reducible apply State.gate_keeps
    | with_reducible apply State.deny_keeps
    | with_reducible apply State.storeWord_keeps
    | with_reducible apply State.claim_keeps
    | with_reducible apply State.recompute_keeps
    | with_reducible apply State.takeRoles_keeps
    | intro _
    | refine fst_keeps (by assumption) ?_
    | refine snd_keeps (by assumption) ?_
    | split
    | dsimp only


end Sys2Proof.Machine
end

