-- ==== Sys2Proof/Laws/KeepsUplink.lean ====
section
/-! SUPPORT. Generated: the operations of Machine/Uplink.lean leave the queue and the canonical form alone. -/

namespace Sys2Proof.Machine

set_option autoImplicit false
set_option linter.unusedTactic false
set_option linter.unreachableTactic false
set_option linter.unusedSimpArgs false

variable {P : Prop} {Q : List Instr}

theorem State.setLeaders_keeps {s : State} (h : s.Keeps P Q) : (State.setLeaders s).Keeps P Q := by
  unfold State.setLeaders
  repeat' first
    | with_reducible exact h
    | with_reducible assumption
    | simp only [↓keeps_upd]
    | with_reducible apply State.wr_keeps
    | with_reducible apply foldl_keeps
    | intro _
    | refine fst_keeps (by assumption) ?_
    | refine snd_keeps (by assumption) ?_
    | split
    | dsimp only


theorem State.ulkFall_keeps {s : State} (h : s.Keeps P Q) (n cause : Nat) : (State.ulkFall s n cause).Keeps P Q := by
  unfold State.ulkFall
  repeat' first
    | with_reducible exact h
    | with_reducible assumption
    | simp only [↓keeps_upd]
    | with_reducible apply State.wr_keeps
    | with_reducible apply State.inc_keeps
    | with_reducible apply State.onset_keeps
    | intro _
    | refine fst_keeps (by assumption) ?_
    | refine snd_keeps (by assumption) ?_
    | split
    | dsimp only


theorem State.ulkRestart_keeps {s : State} (h : s.Keeps P Q) (n : Nat) : (State.ulkRestart s n).Keeps P Q := by
  unfold State.ulkRestart
  repeat' first
    | with_reducible exact h
    | with_reducible assumption
    | simp only [↓keeps_upd]
    | with_reducible apply State.wr_keeps
    | with_reducible apply State.ulkFall_keeps
    | with_reducible apply foldl_keeps
    | intro _
    | refine fst_keeps (by assumption) ?_
    | refine snd_keeps (by assumption) ?_
    | split
    | dsimp only


theorem State.ulkWrite_keeps {s : State} (h : s.Keeps P Q) (ag : Agent) (n : Nat) (v : Word) : (State.ulkWrite s ag n v).Keeps P Q := by
  unfold State.ulkWrite
  repeat' first
    | with_reducible exact h
    | with_reducible assumption
    | simp only [↓keeps_upd]
    | with_reducible apply State.gate_keeps
    | with_reducible apply State.storeWord_keeps
    | with_reducible apply State.deny_keeps
    | with_reducible apply State.setLeaders_keeps
    | with_reducible apply State.ulkFall_keeps
    | with_reducible apply State.ulkRestart_keeps
    | intro _
    | refine fst_keeps (by assumption) ?_
    | refine snd_keeps (by assumption) ?_
    | split
    | dsimp only


theorem State.ulkFec_keeps {s : State} (h : s.Keeps P Q) (n : Nat) (f : Nat × Nat × Nat) : (State.ulkFec s n f).Keeps P Q := by
  unfold State.ulkFec
  repeat' first
    | with_reducible exact h
    | with_reducible assumption
    | simp only [↓keeps_upd]
    | with_reducible apply State.count_keeps
    | intro _
    | refine fst_keeps (by assumption) ?_
    | refine snd_keeps (by assumption) ?_
    | split
    | dsimp only


theorem State.setChk_keeps {s : State} (h : s.Keeps P Q) (b : LaneBlock) (x : Chk) : (State.setChk s b x).Keeps P Q := by
  unfold State.setChk
  repeat' first
    | with_reducible exact h
    | with_reducible assumption
    | simp only [↓keeps_upd]
    | intro _
    | refine fst_keeps (by assumption) ?_
    | refine snd_keeps (by assumption) ?_
    | split
    | dsimp only


theorem State.genChange_keeps {s : State} (h : s.Keeps P Q) (b : LaneBlock) (on : Bool) : (State.genChange s b on).Keeps P Q := by
  unfold State.genChange
  repeat' first
    | with_reducible exact h
    | with_reducible assumption
    | simp only [↓keeps_upd]
    | with_reducible apply State.ulkFall_keeps
    | with_reducible apply State.moveLane_keeps
    | with_reducible apply State.goLane_keeps
    | with_reducible apply State.toDetect_keeps
    | intro _
    | refine fst_keeps (by assumption) ?_
    | refine snd_keeps (by assumption) ?_
    | split
    | dsimp only


theorem State.ltWrite_keeps {s : State} (h : s.Keeps P Q) (ag : Agent) (b : LaneBlock) (v : Word) : (State.ltWrite s ag b v).Keeps P Q := by
  unfold State.ltWrite
  repeat' first
    | with_reducible exact h
    | with_reducible assumption
    | simp only [↓keeps_upd]
    | with_reducible apply State.gate_keeps
    | with_reducible apply State.settleInj_keeps
    | with_reducible apply State.storeWord_keeps
    | with_reducible apply State.rateFrom_keeps
    | with_reducible apply State.genChange_keeps
    | with_reducible apply State.wr_keeps
    | with_reducible apply State.setChk_keeps
    | with_reducible apply State.inc_keeps
    | with_reducible apply State.count_keeps
    | intro _
    | refine fst_keeps (by assumption) ?_
    | refine snd_keeps (by assumption) ?_
    | split
    | dsimp only


theorem State.chkRun_keeps {s : State} (h : s.Keeps P Q) (b : LaneBlock) (l : List Bool) : (State.chkRun s b l).Keeps P Q := by
  unfold State.chkRun
  repeat' first
    | with_reducible exact h
    | with_reducible assumption
    | simp only [↓keeps_upd]
    | with_reducible apply State.setChk_keeps
    | with_reducible apply State.wr_keeps
    | with_reducible apply State.count_keeps
    | intro _
    | refine fst_keeps (by assumption) ?_
    | refine snd_keeps (by assumption) ?_
    | split
    | dsimp only


end Sys2Proof.Machine
end

