-- ==== Sys2Proof/Laws/KeepsStores.lean ====
section
/-! SUPPORT. Generated: the operations of Machine/Stores.lean leave the queue and the canonical form alone. -/

namespace Sys2Proof.Machine

set_option autoImplicit false
set_option linter.unusedTactic false
set_option linter.unreachableTactic false
set_option linter.unusedSimpArgs false

variable {P : Prop} {Q : List Instr}

theorem State.stwForget_keeps {s : State} (h : s.Keeps P Q) (h : Nat) : (State.stwForget s h).Keeps P Q := by
  unfold State.stwForget
  repeat' first
    | with_reducible exact h
    | with_reducible assumption
    | simp only [↓keeps_upd]
    | intro _
    | refine fst_keeps (by assumption) ?_
    | refine snd_keeps (by assumption) ?_
    | split
    | dsimp only


theorem execFreeStw_keeps {s : State} (h : s.Keeps P Q) (ag : Agent) (v : Word) : Completes (execFreeStw ag v s) (State.Keeps P Q) := by
  unfold execFreeStw
  repeat' first
    | with_reducible refine completes_keeps _ ?_
    | with_reducible exact h
    | with_reducible assumption
    | simp only [↓keeps_upd]
    | with_reducible apply ok_keeps
    | with_reducible apply State.gate_keeps
    | with_reducible apply State.raise_keeps
    | with_reducible apply State.inc_keeps
    | with_reducible apply State.stwForget_keeps
    | with_reducible apply State.unref_keeps
    | intro _
    | refine fst_keeps (by assumption) ?_
    | refine snd_keeps (by assumption) ?_
    | split
    | dsimp only


theorem State.memEcc_keeps {s : State} (h : s.Keeps P Q) (k : Kind) (ch : Fin 16) : (State.memEcc s k ch).Keeps P Q := by
  unfold State.memEcc
  repeat' first
    | with_reducible exact h
    | with_reducible assumption
    | simp only [↓keeps_upd]
    | with_reducible apply State.takeFree_keeps
    | with_reducible apply State.raise_keeps
    | intro _
    | refine fst_keeps (by assumption) ?_
    | refine snd_keeps (by assumption) ?_
    | split
    | dsimp only


theorem State.refillRead_keeps {s : State} (h : s.Keeps P Q) (q access : Nat) : (State.refillRead s q access).Keeps P Q := by
  unfold State.refillRead
  repeat' first
    | with_reducible exact h
    | with_reducible assumption
    | simp only [↓keeps_upd]
    | with_reducible apply State.cellarAccess_keeps
    | with_reducible apply State.access_keeps
    | intro _
    | refine fst_keeps (by assumption) ?_
    | refine snd_keeps (by assumption) ?_
    | split
    | dsimp only


theorem State.bucketWord0_keeps {s : State} (h : s.Keeps P Q) (ag : Agent) (b : Nat) (v : Word) : (State.bucketWord0 s ag b v).Keeps P Q := by
  unfold State.bucketWord0
  repeat' first
    | with_reducible exact h
    | with_reducible assumption
    | simp only [↓keeps_upd]
    | with_reducible apply State.winGate_keeps
    | with_reducible apply State.schStore_keeps
    | intro _
    | refine fst_keeps (by assumption) ?_
    | refine snd_keeps (by assumption) ?_
    | split
    | dsimp only


theorem State.sampleStat_keeps {s : State} (h : s.Keeps P Q) (g e : Nat) : (State.sampleStat s g e).Keeps P Q := by
  unfold State.sampleStat
  repeat' first
    | with_reducible exact h
    | with_reducible assumption
    | simp only [↓keeps_upd]
    | with_reducible apply State.setStat_keeps
    | intro _
    | refine fst_keeps (by assumption) ?_
    | refine snd_keeps (by assumption) ?_
    | split
    | dsimp only


theorem execPoolCfgWrite_keeps {s : State} (h : s.Keeps P Q) (ag : Agent) (n : Fin 4) (v : Word) : Completes (execPoolCfgWrite ag n v s) (State.Keeps P Q) := by
  unfold execPoolCfgWrite
  repeat' first
    | with_reducible refine completes_keeps _ ?_
    | with_reducible exact h
    | with_reducible assumption
    | simp only [↓keeps_upd]
    | with_reducible apply ok_keeps
    | with_reducible apply State.gate_keeps
    | with_reducible apply State.deny_keeps
    | with_reducible apply State.storeWord_keeps
    | intro _
    | refine fst_keeps (by assumption) ?_
    | refine snd_keeps (by assumption) ?_
    | split
    | dsimp only


theorem execCellarEnable_keeps {s : State} (h : s.Keeps P Q) (ag : Agent) (v : Word) : Completes (execCellarEnable ag v s) (State.Keeps P Q) := by
  unfold execCellarEnable
  repeat' first
    | with_reducible refine completes_keeps _ ?_
    | with_reducible exact h
    | with_reducible assumption
    | simp only [↓keeps_upd]
    | with_reducible apply ok_keeps
    | with_reducible apply State.gate_keeps
    | with_reducible apply State.storeWord_keeps
    | with_reducible apply State.deny_keeps
    | intro _
    | refine fst_keeps (by assumption) ?_
    | refine snd_keeps (by assumption) ?_
    | split
    | dsimp only


theorem State.loseWrites_keeps {s : State} (h : s.Keeps P Q) (q : Nat) : (State.loseWrites s q).Keeps P Q := by
  unfold State.loseWrites
  repeat' first
    | with_reducible exact h
    | with_reducible assumption
    | simp only [↓keeps_upd]
    | with_reducible apply State.setTop_keeps
    | with_reducible apply State.unref_keeps
    | with_reducible apply State.setQueue_keeps
    | with_reducible apply State.busyEnds_keeps
    | with_reducible apply foldl_keeps
    | intro _
    | refine fst_keeps (by assumption) ?_
    | refine snd_keeps (by assumption) ?_
    | split
    | dsimp only


theorem State.loseCellar_keeps {s : State} (h : s.Keeps P Q) : (State.loseCellar s).Keeps P Q := by
  unfold State.loseCellar
  repeat' first
    | with_reducible exact h
    | with_reducible assumption
    | simp only [↓keeps_upd]
    | with_reducible apply State.wr_keeps
    | with_reducible apply State.loseWrites_keeps
    | with_reducible apply State.loseRecords_keeps
    | with_reducible apply State.raise_keeps
    | with_reducible apply foldl_keeps
    | intro _
    | refine fst_keeps (by assumption) ?_
    | refine snd_keeps (by assumption) ?_
    | split
    | dsimp only


theorem State.xgemUp_keeps {s : State} (h : s.Keeps P Q) (p : Fin 32) (sd : Nat) (e : Exp) (ctx cls key word : Nat) (bytes : List Byte) (full : Bool) (bad : Option (Fin 16)) : (State.xgemUp s p sd e ctx cls key word bytes full bad).Keeps P Q := by
  unfold State.xgemUp
  repeat' first
    | with_reducible exact h
    | with_reducible assumption
    | simp only [↓keeps_upd]
    | with_reducible apply State.intakeUp_keeps
    | with_reducible apply State.inc_keeps
    | with_reducible apply State.lenErr_keeps
    | with_reducible apply State.setUsage_keeps
    | with_reducible apply State.useKey_keeps
    | with_reducible apply State.count_keeps
    | with_reducible apply State.raise_keeps
    | intro _
    | refine fst_keeps (by assumption) ?_
    | refine snd_keeps (by assumption) ?_
    | split
    | dsimp only


end Sys2Proof.Machine
end

