-- ==== Sys2Proof/Laws/KeepsOperands.lean ====
section
/-! SUPPORT. Generated: the operations of Machine/Operands.lean leave the queue and the canonical form alone. -/

namespace Sys2Proof.Machine

set_option autoImplicit false
set_option linter.unusedTactic false
set_option linter.unreachableTactic false
set_option linter.unusedSimpArgs false

variable {P : Prop} {Q : List Instr}

theorem State.setShared_keeps {s : State} (h : s.Keeps P Q) (g a : Nat) (v : List Byte) : (State.setShared s g a v).Keeps P Q := by
  unfold State.setShared
  repeat' first
    | with_reducible exact h
    | with_reducible assumption
    | simp only [↓keeps_upd]
    | with_reducible apply State.setGuild_keeps
    | with_reducible apply foldl_keeps
    | intro _
    | refine fst_keeps (by assumption) ?_
    | refine snd_keeps (by assumption) ?_
    | split
    | dsimp only


end Sys2Proof.Machine
end

