-- ==== Sys2Proof/Laws/KeepsEngine.lean ====
section
/-! SUPPORT. Generated: the operations of Machine/Engine.lean leave the queue and the canonical form alone. -/

namespace Sys2Proof.Machine

set_option autoImplicit false
set_option linter.unusedTactic false
set_option linter.unreachableTactic false
set_option linter.unusedSimpArgs false

variable {P : Prop} {Q : List Instr}

theorem State.testOut_keeps {s : State} (h : s.Keeps P Q) (k : Nat) (x : Ctx) (d : Desc) (trap : Option Nat) : (State.testOut s k x d trap).Keeps P Q := by
  unfold State.testOut
  repeat' first
    | with_reducible exact h
    | with_reducible assumption
    | simp only [↓keeps_upd]
    | with_reducible apply State.trap_keeps
    | intro _
    | refine fst_keeps (by assumption) ?_
    | refine snd_keeps (by assumption) ?_
    | split
    | dsimp only


theorem State.endException_keeps {s : State} (h : s.Keeps P Q) (k : Nat) (x : Ctx) (reason : Nat) : (State.endException s k x reason).Keeps P Q := by
  unfold State.endException
  repeat' first
    | with_reducible exact h
    | with_reducible assumption
    | simp only [↓keeps_upd]
    | with_reducible apply State.setCtx_keeps
    | with_reducible apply State.testOut_keeps
    | with_reducible apply State.complete_keeps
    | intro _
    | refine fst_keeps (by assumption) ?_
    | refine snd_keeps (by assumption) ?_
    | split
    | dsimp only


theorem State.logTrap_keeps {s : State} (h : s.Keeps P Q) (k : Nat) (x : Ctx) (code : TrapCode) (user : Nat) : (State.logTrap s k x code user).Keeps P Q := by
  unfold State.logTrap
  repeat' first
    | with_reducible exact h
    | with_reducible assumption
    | simp only [↓keeps_upd]
    | with_reducible apply State.setGuild_keeps
    | with_reducible apply State.wr_keeps
    | with_reducible apply State.putWord_keeps
    | intro _
    | refine fst_keeps (by assumption) ?_
    | refine snd_keeps (by assumption) ?_
    | split
    | dsimp only


theorem State.trap_keeps {s : State} (h : s.Keeps P Q) (k : Nat) (x : Ctx) (code : TrapCode) (user : Nat) : (State.trap s k x code user).Keeps P Q := by
  unfold State.trap
  repeat' first
    | with_reducible exact h
    | with_reducible assumption
    | simp only [↓keeps_upd]
    | with_reducible apply State.setCtx_keeps
    | with_reducible apply State.testOut_keeps
    | with_reducible apply State.logTrap_keeps
    | with_reducible apply State.inc_keeps
    | with_reducible apply State.raiseLimited_keeps
    | with_reducible apply State.endException_keeps
    | intro _
    | refine fst_keeps (by assumption) ?_
    | refine snd_keeps (by assumption) ?_
    | split
    | dsimp only


theorem State.replayCtx_keeps {s : State} (h : s.Keeps P Q) (k : Nat) : (State.replayCtx s k).Keeps P Q := by
  unfold State.replayCtx
  repeat' first
    | with_reducible exact h
    | with_reducible assumption
    | simp only [↓keeps_upd]
    | with_reducible apply State.setCtx_keeps
    | with_reducible apply State.inc_keeps
    | with_reducible apply State.complete_keeps
    | with_reducible apply State.modFlight_keeps
    | with_reducible apply State.place_keeps
    | intro _
    | refine fst_keeps (by assumption) ?_
    | refine snd_keeps (by assumption) ?_
    | split
    | dsimp only


theorem State.setFailed_keeps {s : State} (h : s.Keeps P Q) (l : List Nat) : (State.setFailed s l).Keeps P Q := by
  unfold State.setFailed
  repeat' first
    | with_reducible exact h
    | with_reducible assumption
    | simp only [↓keeps_upd]
    | intro _
    | refine fst_keeps (by assumption) ?_
    | refine snd_keeps (by assumption) ?_
    | split
    | dsimp only


theorem State.emptyEngine_keeps {s : State} (h : s.Keeps P Q) (g e : Nat) : (State.emptyEngine s g e).Keeps P Q := by
  unfold State.emptyEngine
  repeat' first
    | with_reducible exact h
    | with_reducible assumption
    | simp only [↓keeps_upd]
    | with_reducible apply State.replayCtx_keeps
    | with_reducible apply State.setFailed_keeps
    | with_reducible apply foldl_keeps
    | intro _
    | refine fst_keeps (by assumption) ?_
    | refine snd_keeps (by assumption) ?_
    | split
    | dsimp only


theorem State.emptyGuild_keeps {s : State} (h : s.Keeps P Q) (g : Nat) : (State.emptyGuild s g).Keeps P Q := by
  unfold State.emptyGuild
  repeat' first
    | with_reducible exact h
    | with_reducible assumption
    | simp only [↓keeps_upd]
    | with_reducible apply State.emptyEngine_keeps
    | with_reducible apply foldl_keeps
    | intro _
    | refine fst_keeps (by assumption) ?_
    | refine snd_keeps (by assumption) ?_
    | split
    | dsimp only


theorem State.retireGuild_keeps {s : State} (h : s.Keeps P Q) (g : Nat) : (State.retireGuild s g).Keeps P Q := by
  unfold State.retireGuild
  repeat' first
    | with_reducible exact h
    | with_reducible assumption
    | simp only [↓keeps_upd]
    | with_reducible apply State.wr_keeps
    | with_reducible apply State.emptyGuild_keeps
    | intro _
    | refine fst_keeps (by assumption) ?_
    | refine snd_keeps (by assumption) ?_
    | split
    | dsimp only


theorem State.retireLoose_keeps {s : State} (h : s.Keeps P Q) (g : Nat) (ks : List Kind) : (State.retireLoose s g ks).Keeps P Q := by
  unfold State.retireLoose
  repeat' first
    | with_reducible exact h
    | with_reducible assumption
    | simp only [↓keeps_upd]
    | with_reducible apply State.retireGuild_keeps
    | with_reducible apply State.inc_keeps
    | intro _
    | refine fst_keeps (by assumption) ?_
    | refine snd_keeps (by assumption) ?_
    | split
    | dsimp only


theorem State.codeEcc_keeps {s : State} (h : s.Keeps P Q) (g pc : Nat) (uncorr : Bool) : (State.codeEcc s g pc uncorr).Keeps P Q := by
  unfold State.codeEcc
  repeat' first
    | with_reducible exact h
    | with_reducible assumption
    | simp only [↓keeps_upd]
    | with_reducible apply State.retireGuild_keeps
    | with_reducible apply State.raise_keeps
    | with_reducible apply State.inc_keeps
    | intro _
    | refine fst_keeps (by assumption) ?_
    | refine snd_keeps (by assumption) ?_
    | split
    | dsimp only


theorem State.spend_keeps {s : State} (h : s.Keeps P Q) (k : Nat) : (State.spend s k).Keeps P Q := by
  unfold State.spend
  repeat' first
    | with_reducible exact h
    | with_reducible assumption
    | simp only [↓keeps_upd]
    | with_reducible apply State.setGuild_keeps
    | with_reducible apply State.inc_keeps
    | intro _
    | refine fst_keeps (by assumption) ?_
    | refine snd_keeps (by assumption) ?_
    | split
    | dsimp only


theorem State.issue_keeps {s : State} (h : s.Keeps P Q) (k : Nat) (ecc : Option Bool) (cls op : Nat) (f : State → Ctx → Insn → State)
    (hf : ∀ (t : State) (x : Ctx) (i : Insn), t.Keeps P Q → (f t x i).Keeps P Q) : (State.issue s k ecc cls op f).Keeps P Q := by
  unfold State.issue
  repeat' first
    | with_reducible exact h
    | with_reducible assumption
    | simp only [↓keeps_upd]
    | with_reducible apply hf
    | with_reducible apply State.trap_keeps
    | with_reducible apply State.codeEcc_keeps
    | with_reducible apply State.spend_keeps
    | with_reducible apply foldl_keeps
    | intro _
    | refine fst_keeps (by assumption) ?_
    | refine snd_keeps (by assumption) ?_
    | split
    | dsimp only


theorem State.retire_keeps {s : State} (h : s.Keeps P Q) (k : Nat) (x : Ctx) : (State.retire s k x).Keeps P Q := by
  unfold State.retire
  repeat' first
    | with_reducible exact h
    | with_reducible assumption
    | simp only [↓keeps_upd]
    | with_reducible apply State.spend_keeps
    | with_reducible apply State.setCtx_keeps
    | intro _
    | refine fst_keeps (by assumption) ?_
    | refine snd_keeps (by assumption) ?_
    | split
    | dsimp only


theorem State.jump_keeps {s : State} (h : s.Keeps P Q) (k : Nat) (x : Ctx) (pc : Nat) : (State.jump s k x pc).Keeps P Q := by
  unfold State.jump
  repeat' first
    | with_reducible exact h
    | with_reducible assumption
    | simp only [↓keeps_upd]
    | with_reducible apply State.spend_keeps
    | with_reducible apply State.setCtx_keeps
    | intro _
    | refine fst_keeps (by assumption) ?_
    | refine snd_keeps (by assumption) ?_
    | split
    | dsimp only


theorem State.trapNow_keeps {s : State} (h : s.Keeps P Q) (k : Nat) (x : Ctx) (code : TrapCode) (user : Nat) : (State.trapNow s k x code user).Keeps P Q := by
  unfold State.trapNow
  repeat' first
    | with_reducible exact h
    | with_reducible assumption
    | simp only [↓keeps_upd]
    | with_reducible apply State.spend_keeps
    | with_reducible apply State.trap_keeps
    | intro _
    | refine fst_keeps (by assumption) ?_
    | refine snd_keeps (by assumption) ?_
    | split
    | dsimp only


theorem State.waitFor_keeps {s : State} (h : s.Keeps P Q) (k : Nat) (x : Ctx) (m : Nat) : (State.waitFor s k x m).Keeps P Q := by
  unfold State.waitFor
  repeat' first
    | with_reducible exact h
    | with_reducible assumption
    | simp only [↓keeps_upd]
    | with_reducible apply State.setCtx_keeps
    | intro _
    | refine fst_keeps (by assumption) ?_
    | refine snd_keeps (by assumption) ?_
    | split
    | dsimp only


theorem State.alu_keeps {s : State} (h : s.Keeps P Q) (k : Nat) (x : Ctx) (i : Insn) (op : AluOp) (imm : Bool) : (State.alu s k x i op imm).Keeps P Q := by
  unfold State.alu
  repeat' first
    | with_reducible exact h
    | with_reducible assumption
    | simp only [↓keeps_upd]
    | with_reducible apply State.retire_keeps
    | intro _
    | refine fst_keeps (by assumption) ?_
    | refine snd_keeps (by assumption) ?_
    | split
    | dsimp only


theorem State.aluRow_keeps {s : State} (h : s.Keeps P Q) (k : Nat) (ecc : Option Bool) (op : AluOp) : (State.aluRow s k ecc op).Keeps P Q := by
  unfold State.aluRow
  repeat' first
    | with_reducible exact h
    | with_reducible assumption
    | simp only [↓keeps_upd]
    | with_reducible apply State.issue_keeps
    | with_reducible apply State.alu_keeps
    | intro _
    | refine fst_keeps (by assumption) ?_
    | refine snd_keeps (by assumption) ?_
    | split
    | dsimp only


theorem State.branch_keeps {s : State} (h : s.Keeps P Q) (k : Nat) (x : Ctx) (i : Insn) (c : Cond) : (State.branch s k x i c).Keeps P Q := by
  unfold State.branch
  repeat' first
    | with_reducible exact h
    | with_reducible assumption
    | simp only [↓keeps_upd]
    | with_reducible apply State.jump_keeps
    | with_reducible apply State.retire_keeps
    | intro _
    | refine fst_keeps (by assumption) ?_
    | refine snd_keeps (by assumption) ?_
    | split
    | dsimp only


theorem State.defer_keeps {s : State} (h : s.Keeps P Q) (k : Nat) (x : Ctx) (e : Deferred) : (State.defer s k x e).Keeps P Q := by
  unfold State.defer
  repeat' first
    | with_reducible exact h
    | with_reducible assumption
    | simp only [↓keeps_upd]
    | with_reducible apply State.trapNow_keeps
    | with_reducible apply State.retire_keeps
    | intro _
    | refine fst_keeps (by assumption) ?_
    | refine snd_keeps (by assumption) ?_
    | split
    | dsimp only


theorem State.dataEcc_keeps {s : State} (h : s.Keeps P Q) (g off : Nat) (uncorr : Bool) : (State.dataEcc s g off uncorr).Keeps P Q := by
  unfold State.dataEcc
  repeat' first
    | with_reducible exact h
    | with_reducible assumption
    | simp only [↓keeps_upd]
    | with_reducible apply State.fresh_keeps
    | with_reducible apply State.raise_keeps
    | intro _
    | refine fst_keeps (by assumption) ?_
    | refine snd_keeps (by assumption) ?_
    | split
    | dsimp only


theorem State.ld_keeps {s : State} (h : s.Keeps P Q) (k : Nat) (x : Ctx) (i : Insn) (mecc : Option Bool) : (State.ld s k x i mecc).Keeps P Q := by
  unfold State.ld
  repeat' first
    | with_reducible exact h
    | with_reducible assumption
    | simp only [↓keeps_upd]
    | with_reducible apply State.trapNow_keeps
    | with_reducible apply State.access_keeps
    | with_reducible apply State.waitFor_keeps
    | with_reducible apply State.retire_keeps
    | with_reducible apply State.dataEcc_keeps
    | with_reducible apply State.fresh_keeps
    | intro _
    | refine fst_keeps (by assumption) ?_
    | refine snd_keeps (by assumption) ?_
    | split
    | dsimp only


theorem State.st_keeps {s : State} (h : s.Keeps P Q) (k : Nat) (x : Ctx) (i : Insn) : (State.st s k x i).Keeps P Q := by
  unfold State.st
  repeat' first
    | with_reducible exact h
    | with_reducible assumption
    | simp only [↓keeps_upd]
    | with_reducible apply State.trapNow_keeps
    | with_reducible apply State.access_keeps
    | with_reducible apply State.retire_keeps
    | with_reducible apply State.defer_keeps
    | with_reducible apply foldl_keeps
    | intro _
    | refine fst_keeps (by assumption) ?_
    | refine snd_keeps (by assumption) ?_
    | split
    | dsimp only


theorem State.atomic_keeps {s : State} (h : s.Keeps P Q) (k : Nat) (x : Ctx) (i : Insn) (f : Nat → State) (hf : ∀ n, (f n).Keeps P Q) :
    (State.atomic s k x i f).Keeps P Q := by
  unfold State.atomic
  repeat' first
    | with_reducible exact h
    | with_reducible assumption
    | simp only [↓keeps_upd]
    | with_reducible apply hf
    | with_reducible apply State.trapNow_keeps
    | with_reducible apply foldl_keeps
    | intro _
    | refine fst_keeps (by assumption) ?_
    | refine snd_keeps (by assumption) ?_
    | split
    | dsimp only


theorem State.atomicNow_keeps {s : State} (h : s.Keeps P Q) (k : Nat) (x : Ctx) (i : Insn) (new : Nat → Nat) : (State.atomicNow s k x i new).Keeps P Q := by
  unfold State.atomicNow
  repeat' first
    | with_reducible exact h
    | with_reducible assumption
    | simp only [↓keeps_upd]
    | with_reducible apply State.atomic_keeps
    | with_reducible apply State.setShared_keeps
    | with_reducible apply State.inc_keeps
    | with_reducible apply State.retire_keeps
    | intro _
    | refine fst_keeps (by assumption) ?_
    | refine snd_keeps (by assumption) ?_
    | split
    | dsimp only


theorem State.parseStep_keeps {s : State} (h : s.Keeps P Q) (k : Nat) (x : Ctx) (o : ParseOut) : (State.parseStep s k x o).Keeps P Q := by
  unfold State.parseStep
  repeat' first
    | with_reducible exact h
    | with_reducible assumption
    | simp only [↓keeps_upd]
    | with_reducible apply step_keeps
    | with_reducible apply State.retire_keeps
    | with_reducible apply State.spend_keeps
    | with_reducible apply State.endException_keeps
    | with_reducible apply State.conflict_keeps
    | with_reducible apply State.trapNow_keeps
    | intro _
    | refine fst_keeps (by assumption) ?_
    | refine snd_keeps (by assumption) ?_
    | split
    | dsimp only


theorem State.lookup_keeps {s : State} (h : s.Keeps P Q) (k : Nat) (x : Ctx) (i : Insn) (exm : Bool) : (State.lookup s k x i exm).Keeps P Q := by
  unfold State.lookup
  repeat' first
    | with_reducible exact h
    | with_reducible assumption
    | simp only [↓keeps_upd]
    | with_reducible apply State.waitFor_keeps
    | with_reducible apply State.trapNow_keeps
    | with_reducible apply State.setSlot_keeps
    | with_reducible apply State.inc_keeps
    | with_reducible apply State.retire_keeps
    | intro _
    | refine fst_keeps (by assumption) ?_
    | refine snd_keeps (by assumption) ?_
    | split
    | dsimp only


theorem State.lookupWait_keeps {s : State} (h : s.Keeps P Q) (k : Nat) (x : Ctx) (i : Insn) : (State.lookupWait s k x i).Keeps P Q := by
  unfold State.lookupWait
  repeat' first
    | with_reducible exact h
    | with_reducible assumption
    | simp only [↓keeps_upd]
    | with_reducible apply State.retire_keeps
    | intro _
    | refine fst_keeps (by assumption) ?_
    | refine snd_keeps (by assumption) ?_
    | split
    | dsimp only


theorem State.ins_keeps {s : State} (h : s.Keeps P Q) (k : Nat) (x : Ctx) (i : Insn) : (State.ins s k x i).Keeps P Q := by
  unfold State.ins
  repeat' first
    | with_reducible exact h
    | with_reducible assumption
    | simp only [↓keeps_upd]
    | with_reducible apply State.trapNow_keeps
    | with_reducible apply State.retire_keeps
    | with_reducible apply State.drop_keeps
    | intro _
    | refine fst_keeps (by assumption) ?_
    | refine snd_keeps (by assumption) ?_
    | split
    | dsimp only


theorem State.del_keeps {s : State} (h : s.Keeps P Q) (k : Nat) (x : Ctx) (i : Insn) : (State.del s k x i).Keeps P Q := by
  unfold State.del
  repeat' first
    | with_reducible exact h
    | with_reducible assumption
    | simp only [↓keeps_upd]
    | with_reducible apply State.trapNow_keeps
    | with_reducible apply State.retire_keeps
    | with_reducible apply State.drop_keeps
    | intro _
    | refine fst_keeps (by assumption) ?_
    | refine snd_keeps (by assumption) ?_
    | split
    | dsimp only


theorem State.csum_keeps {s : State} (h : s.Keeps P Q) (k : Nat) (x : Ctx) (i : Insn) : (State.csum s k x i).Keeps P Q := by
  unfold State.csum
  repeat' first
    | with_reducible exact h
    | with_reducible assumption
    | simp only [↓keeps_upd]
    | with_reducible apply State.trapNow_keeps
    | with_reducible apply State.retire_keeps
    | intro _
    | refine fst_keeps (by assumption) ?_
    | refine snd_keeps (by assumption) ?_
    | split
    | dsimp only


theorem State.setDesc_keeps {s : State} (h : s.Keeps P Q) (k : Nat) (x : Ctx) (d : Desc) : (State.setDesc s k x d).Keeps P Q := by
  unfold State.setDesc
  repeat' first
    | with_reducible exact h
    | with_reducible assumption
    | simp only [↓keeps_upd]
    | with_reducible apply State.retire_keeps
    | intro _
    | refine fst_keeps (by assumption) ?_
    | refine snd_keeps (by assumption) ?_
    | split
    | dsimp only


theorem State.apply_keeps {s : State} (h : s.Keeps P Q) (g : Nat) (e : Deferred) : (State.apply s g e).Keeps P Q := by
  unfold State.apply
  repeat' first
    | with_reducible exact h
    | with_reducible assumption
    | simp only [↓keeps_upd]
    | with_reducible apply State.setShared_keeps
    | intro _
    | refine fst_keeps (by assumption) ?_
    | refine snd_keeps (by assumption) ?_
    | split
    | dsimp only


theorem State.commit_keeps {s : State} (h : s.Keeps P Q) (k : Nat) (x : Ctx) : (State.commit s k x).Keeps P Q := by
  unfold State.commit
  repeat' first
    | with_reducible exact h
    | with_reducible assumption
    | simp only [↓keeps_upd]
    | with_reducible apply State.spend_keeps
    | with_reducible apply State.setCtx_keeps
    | with_reducible apply State.testOut_keeps
    | with_reducible apply State.setBuf_keeps
    | with_reducible apply State.inc_keeps
    | with_reducible apply State.apply_keeps
    | with_reducible apply State.count_keeps
    | with_reducible apply State.modFlight_keeps
    | with_reducible apply State.place_keeps
    | with_reducible apply State.complete_keeps
    | with_reducible apply foldl_keeps
    | intro _
    | refine fst_keeps (by assumption) ?_
    | refine snd_keeps (by assumption) ?_
    | split
    | dsimp only


end Sys2Proof.Machine
end

