-- ==== Sys2Proof/Laws/KeepsEngCmd.lean ====
section
/-! SUPPORT. Generated: the operations of Machine/EngCmd.lean leave the queue and the canonical form alone. -/

namespace Sys2Proof.Machine

set_option autoImplicit false
set_option linter.unusedTactic false
set_option linter.unreachableTactic false
set_option linter.unusedSimpArgs false

variable {P : Prop} {Q : List Instr}

theorem State.slotFound_keeps {s : State} (k m : Nat) (x : Ctx) (exm soft : Bool) (r : State × LRes) (h : r.1.Keeps P Q) :
    (State.slotFound s k m x exm soft r).Keeps P Q := State.setCtx_keeps h ..


theorem State.markFailed_keeps {s : State} (h : s.Keeps P Q) (g e : Nat) : (State.markFailed s g e).Keeps P Q := by
  unfold State.markFailed
  repeat' first
    | with_reducible exact h
    | with_reducible assumption
    | simp only [↓keeps_upd]
    | with_reducible apply State.setFailed_keeps
    | intro _
    | refine fst_keeps (by assumption) ?_
    | refine snd_keeps (by assumption) ?_
    | split
    | dsimp only


theorem State.storeStbyGen_keeps {s : State} (h : s.Keeps P Q) (g : Nat) : (State.storeStbyGen s g).Keeps P Q := by
  unfold State.storeStbyGen
  repeat' first
    | with_reducible exact h
    | with_reducible assumption
    | simp only [↓keeps_upd]
    | with_reducible apply State.wr_keeps
    | intro _
    | refine fst_keeps (by assumption) ?_
    | refine snd_keeps (by assumption) ?_
    | split
    | dsimp only


theorem State.swapBanks_keeps {s : State} (h : s.Keeps P Q) (g : Nat) : (State.swapBanks s g).Keeps P Q := by
  unfold State.swapBanks
  repeat' first
    | with_reducible exact h
    | with_reducible assumption
    | simp only [↓keeps_upd]
    | with_reducible apply State.wr_keeps
    | with_reducible apply State.storeStbyGen_keeps
    | intro _
    | refine fst_keeps (by assumption) ?_
    | refine snd_keeps (by assumption) ?_
    | split
    | dsimp only


theorem State.initShared_keeps {s : State} (h : s.Keeps P Q) (g : Nat) : (State.initShared s g).Keeps P Q := by
  unfold State.initShared
  repeat' first
    | with_reducible exact h
    | with_reducible assumption
    | simp only [↓keeps_upd]
    | with_reducible apply State.setGuild_keeps
    | with_reducible apply foldl_keeps
    | intro _
    | refine fst_keeps (by assumption) ?_
    | refine snd_keeps (by assumption) ?_
    | split
    | dsimp only


theorem State.gldCommand_keeps {s : State} (h : s.Keeps P Q) (g cmd : Nat) : (State.gldCommand s g cmd).Keeps P Q := by
  unfold State.gldCommand
  repeat' first
    | with_reducible exact h
    | with_reducible assumption
    | simp only [↓keeps_upd]
    | with_reducible apply State.wr_keeps
    | with_reducible apply State.swapBanks_keeps
    | with_reducible apply State.initShared_keeps
    | intro _
    | refine fst_keeps (by assumption) ?_
    | refine snd_keeps (by assumption) ?_
    | split
    | dsimp only


theorem State.checkPassed_keeps {s : State} (h : s.Keeps P Q) (g : Nat) : (State.checkPassed s g).Keeps P Q := by
  unfold State.checkPassed
  repeat' first
    | with_reducible exact h
    | with_reducible assumption
    | simp only [↓keeps_upd]
    | with_reducible apply State.wr_keeps
    | intro _
    | refine fst_keeps (by assumption) ?_
    | refine snd_keeps (by assumption) ?_
    | split
    | dsimp only


theorem State.gldCtrl_keeps {s : State} (h : s.Keeps P Q) (ag : Agent) (g : Nat) (v : Word) : (State.gldCtrl s ag g v).Keeps P Q := by
  unfold State.gldCtrl
  repeat' first
    | with_reducible exact h
    | with_reducible assumption
    | simp only [↓keeps_upd]
    | with_reducible apply State.gate_keeps
    | with_reducible apply State.storeWord_keeps
    | with_reducible apply State.emptyEngine_keeps
    | with_reducible apply State.retireLoose_keeps
    | with_reducible apply State.checkPassed_keeps
    | with_reducible apply State.gldCommand_keeps
    | with_reducible apply foldl_keeps
    | intro _
    | refine fst_keeps (by assumption) ?_
    | refine snd_keeps (by assumption) ?_
    | split
    | dsimp only


theorem State.gldStore_keeps {s : State} (h : s.Keeps P Q) (g idx first : Nat) (ws : List Word) : (State.gldStore s g idx first ws).Keeps P Q := by
  unfold State.gldStore
  repeat' first
    | with_reducible exact h
    | with_reducible assumption
    | simp only [↓keeps_upd]
    | with_reducible apply State.setGuild_keeps
    | with_reducible apply State.wr_keeps
    | with_reducible apply State.storeStbyGen_keeps
    | with_reducible apply foldl_keeps
    | intro _
    | refine fst_keeps (by assumption) ?_
    | refine snd_keeps (by assumption) ?_
    | split
    | dsimp only


theorem execValidateBank_keeps {s : State} (h : s.Keeps P Q) (ag : Agent) (g : Fin 64) : Completes (execValidateBank ag g s) (State.Keeps P Q) := by
  unfold execValidateBank
  repeat' first
    | with_reducible refine completes_keeps _ ?_
    | with_reducible exact h
    | with_reducible assumption
    | simp only [↓keeps_upd]
    | with_reducible apply ok_keeps
    | with_reducible apply State.gate_keeps
    | with_reducible apply State.wr_keeps
    | intro _
    | refine fst_keeps (by assumption) ?_
    | refine snd_keeps (by assumption) ?_
    | split
    | dsimp only


end Sys2Proof.Machine
end

