-- ==== Sys2Proof/Laws/KeepsLdgCmd.lean ====
section
/-! SUPPORT. Generated: the operations of Machine/LdgCmd.lean leave the queue and the canonical form alone. -/

namespace Sys2Proof.Machine

set_option autoImplicit false
set_option linter.unusedTactic false
set_option linter.unreachableTactic false
set_option linter.unusedSimpArgs false

variable {P : Prop} {Q : List Instr}

theorem State.scrub_keeps {s : State} (h : s.Keeps P Q) (row : Nat) (mismatch uncorr : Bool) : (State.scrub s row mismatch uncorr).Keeps P Q := by
  unfold State.scrub
  repeat' first
    | with_reducible exact h
    | with_reducible assumption
    | simp only [↓keeps_upd]
    | with_reducible apply State.setRow_keeps
    | with_reducible apply State.raise_keeps
    | with_reducible apply State.fixRow_keeps
    | intro _
    | refine fst_keeps (by assumption) ?_
    | refine snd_keeps (by assumption) ?_
    | split
    | dsimp only


theorem State.storeSweep_keeps {s : State} (h : s.Keeps P Q) : (State.storeSweep s).Keeps P Q := by
  unfold State.storeSweep
  repeat' first
    | with_reducible exact h
    | with_reducible assumption
    | simp only [↓keeps_upd]
    | with_reducible apply State.wr_keeps
    | intro _
    | refine fst_keeps (by assumption) ?_
    | refine snd_keeps (by assumption) ?_
    | split
    | dsimp only


theorem State.retireDone_keeps {s : State} (h : s.Keeps P Q) (e : Nat) : (State.retireDone s e).Keeps P Q := by
  unfold State.retireDone
  repeat' first
    | with_reducible exact h
    | with_reducible assumption
    | simp only [↓keeps_upd]
    | with_reducible apply State.sweepAll_keeps
    | with_reducible apply State.wr_keeps
    | with_reducible apply State.inc_keeps
    | with_reducible apply State.storeSweep_keeps
    | with_reducible apply State.storeLive_keeps
    | intro _
    | refine fst_keeps (by assumption) ?_
    | refine snd_keeps (by assumption) ?_
    | split
    | dsimp only


theorem State.discardDone_keeps {s : State} (h : s.Keeps P Q) (k e : Nat) : (State.discardDone s k e).Keeps P Q := by
  unfold State.discardDone
  repeat' first
    | with_reducible exact h
    | with_reducible assumption
    | simp only [↓keeps_upd]
    | with_reducible apply State.sweepAll_keeps
    | with_reducible apply State.inc_keeps
    | with_reducible apply State.storeSweep_keeps
    | with_reducible apply State.ldgDone_keeps
    | with_reducible apply ok_keeps
    | with_reducible apply State.ldgNext_keeps
    | intro _
    | refine fst_keeps (by assumption) ?_
    | refine snd_keeps (by assumption) ?_
    | split
    | dsimp only


end Sys2Proof.Machine
end

