-- ==== Sys2Proof/Laws/KeepsHorolog.lean ====
section
/-! SUPPORT. Generated: the operations of Machine/Horolog.lean leave the queue and the canonical form alone. -/

namespace Sys2Proof.Machine

set_option autoImplicit false
set_option linter.unusedTactic false
set_option linter.unreachableTactic false
set_option linter.unusedSimpArgs false

variable {P : Prop} {Q : List Instr}

theorem State.outJump_keeps {s : State} (h : s.Keeps P Q) (step : Int) : (State.outJump s step).Keeps P Q := by
  unfold State.outJump
  repeat' first
    | with_reducible exact h
    | with_reducible assumption
    | simp only [↓keeps_upd]
    | with_reducible apply State.setPort_keeps
    | with_reducible apply step_keeps
    | with_reducible apply State.reannounce_keeps
    | with_reducible apply foldl_keeps
    | intro _
    | refine fst_keeps (by assumption) ?_
    | refine snd_keeps (by assumption) ?_
    | split
    | dsimp only


theorem State.timeStepped_keeps {s : State} (h : s.Keeps P Q) (jump : Bool) (d : Nat) (step : Int) : (State.timeStepped s jump d step).Keeps P Q := by
  unfold State.timeStepped
  repeat' first
    | with_reducible exact h
    | with_reducible assumption
    | simp only [↓keeps_upd]
    | with_reducible apply State.jump_keeps
    | with_reducible apply State.outJump_keeps
    | with_reducible apply step_keeps
    | with_reducible apply State.raise_keeps
    | intro _
    | refine fst_keeps (by assumption) ?_
    | refine snd_keeps (by assumption) ?_
    | split
    | dsimp only


theorem State.switchOut_keeps {s : State} (h : s.Keeps P Q) (d : Nat) : (State.switchOut s d).Keeps P Q := by
  unfold State.switchOut
  repeat' first
    | with_reducible exact h
    | with_reducible assumption
    | simp only [↓keeps_upd]
    | with_reducible apply State.wr_keeps
    | with_reducible apply State.reannounce_keeps
    | with_reducible apply State.inc_keeps
    | with_reducible apply State.raise_keeps
    | intro _
    | refine fst_keeps (by assumption) ?_
    | refine snd_keeps (by assumption) ?_
    | split
    | dsimp only


theorem State.autoSwitch_keeps {s : State} (h : s.Keeps P Q) (d : Nat) : (State.autoSwitch s d).Keeps P Q := by
  unfold State.autoSwitch
  repeat' first
    | with_reducible exact h
    | with_reducible assumption
    | simp only [↓keeps_upd]
    | with_reducible apply State.switchOut_keeps
    | intro _
    | refine fst_keeps (by assumption) ?_
    | refine snd_keeps (by assumption) ?_
    | split
    | dsimp only


theorem State.setDomState_keeps {s : State} (h : s.Keeps P Q) (d : Nat) (x : DomState) : (State.setDomState s d x).Keeps P Q := by
  unfold State.setDomState
  repeat' first
    | with_reducible exact h
    | with_reducible assumption
    | simp only [↓keeps_upd]
    | with_reducible apply State.setDom_keeps
    | with_reducible apply State.endCause_keeps
    | intro _
    | refine fst_keeps (by assumption) ?_
    | refine snd_keeps (by assumption) ?_
    | split
    | dsimp only


theorem State.acceptSample_keeps {s : State} (h : s.Keeps P Q) (d : Nat) (e : Int) : (State.acceptSample s d e).Keeps P Q := by
  unfold State.acceptSample
  repeat' first
    | with_reducible exact h
    | with_reducible assumption
    | simp only [↓keeps_upd]
    | with_reducible apply State.inc_keeps
    | with_reducible apply State.wr_keeps
    | with_reducible apply State.setDom_keeps
    | with_reducible apply State.setDomState_keeps
    | with_reducible apply State.timeStepped_keeps
    | with_reducible apply State.setFreq_keeps
    | with_reducible apply State.onset_keeps
    | with_reducible apply State.endCause_keeps
    | intro _
    | refine fst_keeps (by assumption) ?_
    | refine snd_keeps (by assumption) ?_
    | split
    | dsimp only


theorem State.domSample_keeps {s : State} (h : s.Keeps P Q) (d : Nat) (e : Int) (far : Bool) : (State.domSample s d e far).Keeps P Q := by
  unfold State.domSample
  repeat' first
    | with_reducible exact h
    | with_reducible assumption
    | simp only [↓keeps_upd]
    | with_reducible apply State.setDom_keeps
    | with_reducible apply State.inc_keeps
    | with_reducible apply State.acceptSample_keeps
    | intro _
    | refine fst_keeps (by assumption) ?_
    | refine snd_keeps (by assumption) ?_
    | split
    | dsimp only


theorem State.acquire_keeps {s : State} (h : s.Keeps P Q) (d : Nat) : (State.acquire s d).Keeps P Q := by
  unfold State.acquire
  repeat' first
    | with_reducible exact h
    | with_reducible assumption
    | simp only [↓keeps_upd]
    | with_reducible apply State.setDomState_keeps
    | intro _
    | refine fst_keeps (by assumption) ?_
    | refine snd_keeps (by assumption) ?_
    | split
    | dsimp only


theorem execPhaseSampleCommit_keeps {s : State} (h : s.Keeps P Q) (ag : Agent) (d : Fin 2) (v : Word) : Completes (execPhaseSampleCommit ag d v s) (State.Keeps P Q) := by
  unfold execPhaseSampleCommit
  repeat' first
    | with_reducible refine completes_keeps _ ?_
    | with_reducible exact h
    | with_reducible assumption
    | simp only [↓keeps_upd]
    | with_reducible apply ok_keeps
    | with_reducible apply State.gate_keeps
    | with_reducible apply State.acquire_keeps
    | with_reducible apply State.domSample_keeps
    | intro _
    | refine fst_keeps (by assumption) ?_
    | refine snd_keeps (by assumption) ?_
    | split
    | dsimp only


theorem execDomainEnWrite_keeps {s : State} (h : s.Keeps P Q) (ag : Agent) (d : Fin 2) (v : Word) : Completes (execDomainEnWrite ag d v s) (State.Keeps P Q) := by
  unfold execDomainEnWrite
  repeat' first
    | with_reducible refine completes_keeps _ ?_
    | with_reducible exact h
    | with_reducible assumption
    | simp only [↓keeps_upd]
    | with_reducible apply ok_keeps
    | with_reducible apply State.gate_keeps
    | with_reducible apply State.storeWord_keeps
    | with_reducible apply State.acquire_keeps
    | with_reducible apply State.setDomState_keeps
    | with_reducible apply State.setFreq_keeps
    | with_reducible apply State.setDom_keeps
    | with_reducible apply State.autoSwitch_keeps
    | intro _
    | refine fst_keeps (by assumption) ?_
    | refine snd_keeps (by assumption) ?_
    | split
    | dsimp only


theorem execSwitchOutput_keeps {s : State} (h : s.Keeps P Q) (ag : Agent) (v : Word) : Completes (execSwitchOutput ag v s) (State.Keeps P Q) := by
  unfold execSwitchOutput
  repeat' first
    | with_reducible refine completes_keeps _ ?_
    | with_reducible exact h
    | with_reducible assumption
    | simp only [↓keeps_upd]
    | with_reducible apply ok_keeps
    | with_reducible apply State.gate_keeps
    | with_reducible apply State.storeWord_keeps
    | with_reducible apply State.switchOut_keeps
    | intro _
    | refine fst_keeps (by assumption) ?_
    | refine snd_keeps (by assumption) ?_
    | split
    | dsimp only


theorem execOutStep_keeps {s : State} (h : s.Keeps P Q) (ag : Agent) (v : Word) : Completes (execOutStep ag v s) (State.Keeps P Q) := by
  unfold execOutStep
  repeat' first
    | with_reducible refine completes_keeps _ ?_
    | with_reducible exact h
    | with_reducible assumption
    | simp only [↓keeps_upd]
    | with_reducible apply ok_keeps
    | with_reducible apply State.gate_keeps
    | with_reducible apply State.storeWord_keeps
    | with_reducible apply State.timeStepped_keeps
    | intro _
    | refine fst_keeps (by assumption) ?_
    | refine snd_keeps (by assumption) ?_
    | split
    | dsimp only


theorem execReacquire_keeps {s : State} (h : s.Keeps P Q) (ag : Agent) (d : Fin 2) (v : Word) : Completes (execReacquire ag d v s) (State.Keeps P Q) := by
  unfold execReacquire
  repeat' first
    | with_reducible refine completes_keeps _ ?_
    | with_reducible exact h
    | with_reducible assumption
    | simp only [↓keeps_upd]
    | with_reducible apply ok_keeps
    | with_reducible apply State.gate_keeps
    | with_reducible apply State.storeWord_keeps
    | with_reducible apply State.wr_keeps
    | with_reducible apply State.setDomState_keeps
    | with_reducible apply State.setDom_keeps
    | intro _
    | refine fst_keeps (by assumption) ?_
    | refine snd_keeps (by assumption) ?_
    | split
    | dsimp only


theorem execTsRecordRead_keeps {s : State} (h : s.Keeps P Q) (ag : Agent) (tx : Bool) : Completes (execTsRecordRead ag tx s) (State.Keeps P Q) := by
  unfold execTsRecordRead
  repeat' first
    | with_reducible refine completes_keeps _ ?_
    | with_reducible exact h
    | with_reducible assumption
    | simp only [↓keeps_upd]
    | with_reducible apply State.setLatch_keeps
    | with_reducible apply ok_keeps
    | with_reducible apply State.denyAs_keeps
    | with_reducible apply State.answer_keeps
    | with_reducible apply foldl_keeps
    | intro _
    | refine fst_keeps (by assumption) ?_
    | refine snd_keeps (by assumption) ?_
    | split
    | dsimp only


theorem State.setSquelch_keeps {s : State} (h : s.Keeps P Q) (o : Nat) (b : Bool) : (State.setSquelch s o b).Keeps P Q := by
  unfold State.setSquelch
  repeat' first
    | with_reducible exact h
    | with_reducible assumption
    | simp only [↓keeps_upd]
    | intro _
    | refine fst_keeps (by assumption) ?_
    | refine snd_keeps (by assumption) ?_
    | split
    | dsimp only


end Sys2Proof.Machine
end

