-- ==== Sys2Proof/Laws/KeepsBellman.lean ====
section
/-! SUPPORT. Generated: the operations of Machine/Bellman.lean leave the queue and the canonical form alone. -/

namespace Sys2Proof.Machine

set_option autoImplicit false
set_option linter.unusedTactic false
set_option linter.unreachableTactic false
set_option linter.unusedSimpArgs false

variable {P : Prop} {Q : List Instr}

theorem State.setKindSt_keeps {s : State} (h : s.Keeps P Q) (code : Nat) (x : KindSt) : (State.setKindSt s code x).Keeps P Q := by
  unfold State.setKindSt
  repeat' first
    | with_reducible exact h
    | with_reducible assumption
    | simp only [↓keeps_upd]
    | intro _
    | refine fst_keeps (by assumption) ?_
    | refine snd_keeps (by assumption) ?_
    | split
    | dsimp only


theorem State.handOver_keeps {s : State} (h : s.Keeps P Q) (p : Fin 32) : (State.handOver s p).Keeps P Q := by
  unfold State.handOver
  repeat' first
    | with_reducible exact h
    | with_reducible assumption
    | simp only [↓keeps_upd]
    | with_reducible apply State.twinSend_keeps
    | with_reducible apply State.release_keeps
    | intro _
    | refine fst_keeps (by assumption) ?_
    | refine snd_keeps (by assumption) ?_
    | split
    | dsimp only


theorem State.stopUnit_keeps {s : State} (h : s.Keeps P Q) (u : IsoUnit) (n : Nat) (ks : List Kind) : (State.stopUnit s u n ks).Keeps P Q := by
  unfold State.stopUnit
  repeat' first
    | with_reducible exact h
    | with_reducible assumption
    | simp only [↓keeps_upd]
    | with_reducible apply State.emptyEngine_keeps
    | with_reducible apply State.retireLoose_keeps
    | with_reducible apply State.retireGuild_keeps
    | with_reducible apply State.wr_keeps
    | with_reducible apply State.setSide_keeps
    | with_reducible apply State.flushGroups_keeps
    | with_reducible apply State.handOver_keeps
    | with_reducible apply State.loseCellar_keeps
    | with_reducible apply State.moveLane_keeps
    | with_reducible apply State.ulkFall_keeps
    | with_reducible apply State.setLeaders_keeps
    | intro _
    | refine fst_keeps (by assumption) ?_
    | refine snd_keeps (by assumption) ?_
    | split
    | dsimp only


theorem State.isolate_keeps {s : State} (h : s.Keeps P Q) (u : IsoUnit) (n : Nat) (ks : List Kind) (q : Nat) : (State.isolate s u n ks q).Keeps P Q := by
  unfold State.isolate
  repeat' first
    | with_reducible exact h
    | with_reducible assumption
    | simp only [↓keeps_upd]
    | with_reducible apply State.incQ_keeps
    | with_reducible apply State.stopUnit_keeps
    | intro _
    | refine fst_keeps (by assumption) ?_
    | refine snd_keeps (by assumption) ?_
    | split
    | dsimp only


theorem State.enterSafe_keeps {s : State} (h : s.Keeps P Q) : (State.enterSafe s).Keeps P Q := by
  unfold State.enterSafe
  repeat' first
    | with_reducible exact h
    | with_reducible assumption
    | simp only [↓keeps_upd]
    | with_reducible apply State.inc_keeps
    | with_reducible apply State.twinSend_keeps
    | with_reducible apply State.setSide_keeps
    | with_reducible apply foldl_keeps
    | intro _
    | refine fst_keeps (by assumption) ?_
    | refine snd_keeps (by assumption) ?_
    | split
    | dsimp only


theorem State.bellman_keeps {s : State} (h : s.Keeps P Q) (m0 : Msg) : (State.bellman s m0).Keeps P Q := by
  unfold State.bellman
  repeat' first
    | with_reducible exact h
    | with_reducible assumption
    | simp only [↓keeps_upd]
    | with_reducible apply State.incQ_keeps
    | with_reducible apply State.countQ_keeps
    | with_reducible apply State.setKindSt_keeps
    | with_reducible apply State.level_keeps
    | with_reducible apply State.enqueue_keeps
    | with_reducible apply State.enterSafe_keeps
    | with_reducible apply State.isolate_keeps
    | intro _
    | refine fst_keeps (by assumption) ?_
    | refine snd_keeps (by assumption) ?_
    | split
    | dsimp only


theorem State.queueRead_keeps {s : State} (h : s.Keeps P Q) (ag : Agent) : (State.queueRead s ag).Keeps P Q := by
  unfold State.queueRead
  repeat' first
    | with_reducible exact h
    | with_reducible assumption
    | simp only [↓keeps_upd]
    | with_reducible apply State.setLatch_keeps
    | with_reducible apply State.answer_keeps
    | with_reducible apply foldl_keeps
    | intro _
    | refine fst_keeps (by assumption) ?_
    | refine snd_keeps (by assumption) ?_
    | split
    | dsimp only


theorem execFaultQueueRead_keeps {s : State} (h : s.Keeps P Q) (ag : Agent) : Completes (execFaultQueueRead ag s) (State.Keeps P Q) := by
  unfold execFaultQueueRead
  repeat' first
    | with_reducible refine completes_keeps _ ?_
    | with_reducible exact h
    | with_reducible assumption
    | simp only [↓keeps_upd]
    | with_reducible apply ok_keeps
    | with_reducible apply State.denyAs_keeps
    | with_reducible apply State.answer_keeps
    | with_reducible apply State.queueRead_keeps
    | intro _
    | refine fst_keeps (by assumption) ?_
    | refine snd_keeps (by assumption) ?_
    | split
    | dsimp only


theorem State.kindWrite_keeps {s : State} (h : s.Keeps P Q) (ag : Agent) (code : Nat) (v : Word) : (State.kindWrite s ag code v).Keeps P Q := by
  unfold State.kindWrite
  repeat' first
    | with_reducible exact h
    | with_reducible assumption
    | simp only [↓keeps_upd]
    | with_reducible apply State.gate_keeps
    | with_reducible apply State.storeWord_keeps
    | with_reducible apply State.level_keeps
    | intro _
    | refine fst_keeps (by assumption) ?_
    | refine snd_keeps (by assumption) ?_
    | split
    | dsimp only


theorem State.clearKind_keeps {s : State} (h : s.Keeps P Q) (code : Nat) : (State.clearKind s code).Keeps P Q := by
  unfold State.clearKind
  repeat' first
    | with_reducible exact h
    | with_reducible assumption
    | simp only [↓keeps_upd]
    | with_reducible apply State.setKindSt_keeps
    | with_reducible apply State.setTreeSt_keeps
    | with_reducible apply foldl_keeps
    | intro _
    | refine fst_keeps (by assumption) ?_
    | refine snd_keeps (by assumption) ?_
    | split
    | dsimp only


theorem State.kindClear_keeps {s : State} (h : s.Keeps P Q) (ag : Agent) (code : Nat) (v : Word) : (State.kindClear s ag code v).Keeps P Q := by
  unfold State.kindClear
  repeat' first
    | with_reducible exact h
    | with_reducible assumption
    | simp only [↓keeps_upd]
    | with_reducible apply State.gate_keeps
    | with_reducible apply State.incQ_keeps
    | with_reducible apply State.clearKind_keeps
    | with_reducible apply State.level_keeps
    | intro _
    | refine fst_keeps (by assumption) ?_
    | refine snd_keeps (by assumption) ?_
    | split
    | dsimp only


theorem State.restoreUnit_keeps {s : State} (h : s.Keeps P Q) (u : IsoUnit) (n : Nat) : (State.restoreUnit s u n).Keeps P Q := by
  unfold State.restoreUnit
  repeat' first
    | with_reducible exact h
    | with_reducible assumption
    | simp only [↓keeps_upd]
    | intro _
    | refine fst_keeps (by assumption) ?_
    | refine snd_keeps (by assumption) ?_
    | split
    | dsimp only


theorem State.isoCmd_keeps {s : State} (h : s.Keeps P Q) (ag : Agent) (v : Word) : (State.isoCmd s ag v).Keeps P Q := by
  unfold State.isoCmd
  repeat' first
    | with_reducible exact h
    | with_reducible assumption
    | simp only [↓keeps_upd]
    | with_reducible apply State.gate_keeps
    | with_reducible apply State.wr_keeps
    | with_reducible apply State.msi_keeps
    | with_reducible apply State.restoreUnit_keeps
    | intro _
    | refine fst_keeps (by assumption) ?_
    | refine snd_keeps (by assumption) ?_
    | split
    | dsimp only


theorem State.warmReset_keeps {s : State} (h : s.Keeps P Q) : (State.warmReset s).Keeps P Q := by
  unfold State.warmReset
  extract_lets _ _ _ _ s1
  have h1 : s1.Keeps P Q := ⟨h.1, fun w => ⟨Tab.wf_filter _ _ _ (h.2 w).1, rfl, rfl, (fun p hp => by cases hp), (h.2 w).2.2.2.2.1, (h.2 w).2.2.2.2.2⟩⟩
  exact State.wr_keeps h1 ..


theorem State.safeExit_keeps {s : State} (h : s.Keeps P Q) (ag : Agent) : (State.safeExit s ag).Keeps P Q := by
  unfold State.safeExit
  repeat' first
    | with_reducible exact h
    | with_reducible assumption
    | simp only [↓keeps_upd]
    | with_reducible apply State.deny_keeps
    | with_reducible apply State.level_keeps
    | with_reducible apply State.warmReset_keeps
    | intro _
    | refine fst_keeps (by assumption) ?_
    | refine snd_keeps (by assumption) ?_
    | split
    | dsimp only


theorem State.captureClr_keeps {s : State} (h : s.Keeps P Q) : (State.captureClr s).Keeps P Q := by
  unfold State.captureClr
  repeat' first
    | with_reducible exact h
    | with_reducible assumption
    | simp only [↓keeps_upd]
    | intro _
    | refine fst_keeps (by assumption) ?_
    | refine snd_keeps (by assumption) ?_
    | split
    | dsimp only


theorem State.fltCtrl_keeps {s : State} (h : s.Keeps P Q) (ag : Agent) (v : Word) : (State.fltCtrl s ag v).Keeps P Q := by
  unfold State.fltCtrl
  repeat' first
    | with_reducible exact h
    | with_reducible assumption
    | simp only [↓keeps_upd]
    | with_reducible apply State.gate_keeps
    | with_reducible apply State.storeWord_keeps
    | with_reducible apply State.safeExit_keeps
    | with_reducible apply State.captureClr_keeps
    | intro _
    | refine fst_keeps (by assumption) ?_
    | refine snd_keeps (by assumption) ?_
    | split
    | dsimp only


theorem State.alarmBits_keeps {s : State} (h : s.Keeps P Q) : (State.alarmBits s).Keeps P Q := by
  unfold State.alarmBits
  repeat' first
    | with_reducible exact h
    | with_reducible assumption
    | simp only [↓keeps_upd]
    | with_reducible apply State.wr_keeps
    | intro _
    | refine fst_keeps (by assumption) ?_
    | refine snd_keeps (by assumption) ?_
    | split
    | dsimp only


theorem State.anaOnset_keeps {s : State} (h : s.Keeps P Q) (k : Kind) (n addr : Nat) : (State.anaOnset s k n addr).Keeps P Q := by
  unfold State.anaOnset
  repeat' first
    | with_reducible exact h
    | with_reducible assumption
    | simp only [↓keeps_upd]
    | with_reducible apply State.onset_keeps
    | with_reducible apply State.alarmBits_keeps
    | with_reducible apply State.eraseKeys_keeps
    | intro _
    | refine fst_keeps (by assumption) ?_
    | refine snd_keeps (by assumption) ?_
    | split
    | dsimp only


theorem State.coolPresets_keeps {s : State} (h : s.Keeps P Q) (i t : Nat) : (State.coolPresets s i t).Keeps P Q := by
  unfold State.coolPresets
  repeat' first
    | with_reducible exact h
    | with_reducible assumption
    | simp only [↓keeps_upd]
    | with_reducible apply foldl_keeps
    | intro _
    | refine fst_keeps (by assumption) ?_
    | refine snd_keeps (by assumption) ?_
    | split
    | dsimp only


end Sys2Proof.Machine
end

