-- ==== Sys2Proof/Laws/KeepsTally.lean ====
section
/-! SUPPORT. Generated: the operations of Machine/Tally.lean leave the queue and the canonical form alone. -/

namespace Sys2Proof.Machine

set_option autoImplicit false
set_option linter.unusedTactic false
set_option linter.unreachableTactic false
set_option linter.unusedSimpArgs false

variable {P : Prop} {Q : List Instr}

theorem State.tlyStore_keeps {s : State} (h : s.Keeps P Q) (i j : Nat) (v : Word) : (State.tlyStore s i j v).Keeps P Q := by
  unfold State.tlyStore
  repeat' first
    | with_reducible exact h
    | with_reducible assumption
    | simp only [↓keeps_upd]
    | with_reducible apply State.putWord_keeps
    | intro _
    | refine fst_keeps (by assumption) ?_
    | refine snd_keeps (by assumption) ?_
    | split
    | dsimp only


theorem State.tlyApply_keeps {s : State} (h : s.Keeps P Q) (ag : Agent) (i : Nat) (v : Word) : (State.tlyApply s ag i v).Keeps P Q := by
  unfold State.tlyApply
  repeat' first
    | with_reducible exact h
    | with_reducible assumption
    | simp only [↓keeps_upd]
    | with_reducible apply State.deny_keeps
    | with_reducible apply State.tlyStore_keeps
    | intro _
    | refine fst_keeps (by assumption) ?_
    | refine snd_keeps (by assumption) ?_
    | split
    | dsimp only


theorem State.tlyGate_keeps {s : State} (h : s.Keeps P Q) (ag : Agent) (i : Nat) (k : State → State) (hk : ∀ t : State, t.Keeps P Q → (k t).Keeps P Q) : (State.tlyGate s ag i k).Keeps P Q := by
  unfold State.tlyGate
  repeat' first
    | with_reducible exact h
    | with_reducible assumption
    | simp only [↓keeps_upd]
    | with_reducible apply State.deny_keeps
    | with_reducible apply State.winGate_keeps
    | with_reducible apply hk
    | intro _
    | refine fst_keeps (by assumption) ?_
    | refine snd_keeps (by assumption) ?_
    | split
    | dsimp only


theorem State.snapStart_keeps {s : State} (h : s.Keeps P Q) (trigger : Nat) : (State.snapStart s trigger).Keeps P Q := by
  unfold State.snapStart
  repeat' first
    | with_reducible exact h
    | with_reducible assumption
    | simp only [↓keeps_upd]
    | with_reducible apply State.trigger_keeps
    | with_reducible apply State.wr_keeps
    | intro _
    | refine fst_keeps (by assumption) ?_
    | refine snd_keeps (by assumption) ?_
    | split
    | dsimp only


theorem State.snapTrigger_keeps {s : State} (h : s.Keeps P Q) (trigger : Nat) : (State.snapTrigger s trigger).Keeps P Q := by
  unfold State.snapTrigger
  repeat' first
    | with_reducible exact h
    | with_reducible assumption
    | simp only [↓keeps_upd]
    | with_reducible apply State.inc_keeps
    | with_reducible apply State.snapStart_keeps
    | with_reducible apply State.trigger_keeps
    | intro _
    | refine fst_keeps (by assumption) ?_
    | refine snd_keeps (by assumption) ?_
    | split
    | dsimp only


theorem State.toTelemetry_keeps {s : State} (h : s.Keeps P Q) (type_ : Nat) (bytes : List Byte) : (State.toTelemetry s type_ bytes).Keeps P Q := by
  unfold State.toTelemetry
  repeat' first
    | with_reducible exact h
    | with_reducible assumption
    | simp only [↓keeps_upd]
    | intro _
    | refine fst_keeps (by assumption) ?_
    | refine snd_keeps (by assumption) ?_
    | split
    | dsimp only


theorem State.sendExport_keeps {s : State} (h : s.Keeps P Q) (fr : List Byte) : (State.sendExport s fr).Keeps P Q := by
  unfold State.sendExport
  repeat' first
    | with_reducible exact h
    | with_reducible assumption
    | simp only [↓keeps_upd]
    | with_reducible apply State.newBuf_keeps
    | with_reducible apply State.noBuf_keeps
    | with_reducible apply State.inc_keeps
    | with_reducible apply State.proxyChecks_keeps
    | with_reducible apply State.enqueue_keeps
    | intro _
    | refine fst_keeps (by assumption) ?_
    | refine snd_keeps (by assumption) ?_
    | split
    | dsimp only


theorem State.sendSnapshot_keeps {s : State} (h : s.Keeps P Q) (x : Snap) (tpl : List Byte) (n fuel i : Nat) :
    (State.sendSnapshot s x tpl n fuel i).Keeps P Q := by
  induction fuel generalizing s i with
  | zero => exact h
  | succ fuel ih =>
    unfold State.sendSnapshot
    dsimp only
    split
    · exact h
    · exact ih (State.sendExport_keeps h ..) ..


theorem State.setPmRec_keeps {s : State} (h : s.Keeps P Q) (r : Nat) (x : PmRec) : (State.setPmRec s r x).Keeps P Q := by
  unfold State.setPmRec
  repeat' first
    | with_reducible exact h
    | with_reducible assumption
    | simp only [↓keeps_upd]
    | intro _
    | refine fst_keeps (by assumption) ?_
    | refine snd_keeps (by assumption) ?_
    | split
    | dsimp only


theorem State.pmLog_keeps {s : State} (h : s.Keeps P Q) (e : PmEvent) : (State.pmLog s e).Keeps P Q := by
  unfold State.pmLog
  repeat' first
    | with_reducible exact h
    | with_reducible assumption
    | simp only [↓keeps_upd]
    | with_reducible apply State.inc_keeps
    | with_reducible apply State.wr_keeps
    | with_reducible apply State.msi_keeps
    | with_reducible apply State.toTelemetry_keeps
    | intro _
    | refine fst_keeps (by assumption) ?_
    | refine snd_keeps (by assumption) ?_
    | split
    | dsimp only


theorem State.pmClassify_keeps {s : State} (h : s.Keeps P Q) (r k : Nat) (es ses : Bool) : (State.pmClassify s r k es ses).Keeps P Q := by
  unfold State.pmClassify
  repeat' first
    | with_reducible exact h
    | with_reducible assumption
    | simp only [↓keeps_upd]
    | with_reducible apply State.setPmRec_keeps
    | with_reducible apply State.pmLog_keeps
    | with_reducible apply foldl_keeps
    | intro _
    | refine fst_keeps (by assumption) ?_
    | refine snd_keeps (by assumption) ?_
    | split
    | dsimp only


theorem State.pmSkip_keeps {s : State} (h : s.Keeps P Q) (r : Nat) : (State.pmSkip s r).Keeps P Q := by
  unfold State.pmSkip
  repeat' first
    | with_reducible exact h
    | with_reducible assumption
    | simp only [↓keeps_upd]
    | with_reducible apply State.setPmRec_keeps
    | intro _
    | refine fst_keeps (by assumption) ?_
    | refine snd_keeps (by assumption) ?_
    | split
    | dsimp only


theorem State.dsSettle_keeps {s : State} (h : s.Keeps P Q) : (State.dsSettle s).Keeps P Q := by
  unfold State.dsSettle
  refine foldl_fst_keeps _ _ h (fun a x ha => ?_)
  dsimp only
  split
  · exact ha
  · simp only [↓keeps_upd]
    exact State.pmClassify_keeps ha ..


theorem State.dsForget_keeps {s : State} (h : s.Keeps P Q) (keep : List Nat) : (State.dsForget s keep).Keeps P Q := by
  unfold State.dsForget
  repeat' first
    | with_reducible exact h
    | with_reducible assumption
    | simp only [↓keeps_upd]
    | intro _
    | refine fst_keeps (by assumption) ?_
    | refine snd_keeps (by assumption) ?_
    | split
    | dsimp only


theorem State.pmOnus_keeps {s : State} (h : s.Keeps P Q) (k : Nat) (up : List (Fin 32 × Nat)) : (State.pmOnus s k up).Keeps P Q := by
  unfold State.pmOnus
  repeat' first
    | with_reducible exact h
    | with_reducible assumption
    | simp only [↓keeps_upd]
    | with_reducible apply State.pmClassify_keeps
    | with_reducible apply State.pmSkip_keeps
    | with_reducible apply foldl_keeps
    | intro _
    | refine fst_keeps (by assumption) ?_
    | refine snd_keeps (by assumption) ?_
    | split
    | dsimp only


theorem State.pmPortUp_keeps {s : State} (h : s.Keeps P Q) (k : Nat) (p : Fin 32) (sd : Nat) : (State.pmPortUp s k p sd).Keeps P Q := by
  unfold State.pmPortUp
  repeat' first
    | with_reducible exact h
    | with_reducible assumption
    | simp only [↓keeps_upd]
    | with_reducible apply State.pmClassify_keeps
    | with_reducible apply State.ownerTrigger_keeps
    | intro _
    | refine fst_keeps (by assumption) ?_
    | refine snd_keeps (by assumption) ?_
    | split
    | dsimp only


theorem State.pmDown_keeps {s : State} (h : s.Keeps P Q) (k : Nat) (up : List (Fin 32 × Nat)) : (State.pmDown s k up).Keeps P Q := by
  unfold State.pmDown
  repeat' first
    | with_reducible exact h
    | with_reducible assumption
    | simp only [↓keeps_upd]
    | with_reducible apply State.dsForget_keeps
    | with_reducible apply State.pmSkip_keeps
    | with_reducible apply State.dsSettle_keeps
    | with_reducible apply foldl_keeps
    | intro _
    | refine fst_keeps (by assumption) ?_
    | refine snd_keeps (by assumption) ?_
    | split
    | dsimp only


theorem State.pmFresh_keeps {s : State} (h : s.Keeps P Q) : (State.pmFresh s).Keeps P Q := by
  unfold State.pmFresh
  repeat' first
    | with_reducible exact h
    | with_reducible assumption
    | simp only [↓keeps_upd]
    | with_reducible apply foldl_keeps
    | intro _
    | refine fst_keeps (by assumption) ?_
    | refine snd_keeps (by assumption) ?_
    | split
    | dsimp only


theorem State.pmInterval_keeps {s : State} (h : s.Keeps P Q) : (State.pmInterval s).Keeps P Q := by
  unfold State.pmInterval
  repeat' first
    | with_reducible exact h
    | with_reducible assumption
    | simp only [↓keeps_upd]
    | intro _
    | refine fst_keeps (by assumption) ?_
    | refine snd_keeps (by assumption) ?_
    | split
    | dsimp only


theorem State.dsApply_keeps {s : State} (h : s.Keeps P Q) (p : Fin 32) (slot : Nat) (ks : List Nat) (es ses : Bool) : (State.dsApply s p slot ks es ses).Keeps P Q := by
  unfold State.dsApply
  repeat' first
    | with_reducible exact h
    | with_reducible assumption
    | simp only [↓keeps_upd]
    | with_reducible apply State.pmClassify_keeps
    | with_reducible apply foldl_keeps
    | intro _
    | refine fst_keeps (by assumption) ?_
    | refine snd_keeps (by assumption) ?_
    | split
    | dsimp only


theorem State.setAsked_keeps {s : State} (h : s.Keeps P Q) (k : Nat) (l : List (List Nat)) : (State.setAsked s k l).Keeps P Q := by
  unfold State.setAsked
  repeat' first
    | with_reducible exact h
    | with_reducible assumption
    | simp only [↓keeps_upd]
    | intro _
    | refine fst_keeps (by assumption) ?_
    | refine snd_keeps (by assumption) ?_
    | split
    | dsimp only


theorem State.pmClear_keeps {s : State} (h : s.Keeps P Q) (r : Nat) : (State.pmClear s r).Keeps P Q := by
  unfold State.pmClear
  repeat' first
    | with_reducible exact h
    | with_reducible assumption
    | simp only [↓keeps_upd]
    | with_reducible apply State.setPmRec_keeps
    | intro _
    | refine fst_keeps (by assumption) ?_
    | refine snd_keeps (by assumption) ?_
    | split
    | dsimp only


theorem State.tlyCtrl_keeps {s : State} (h : s.Keeps P Q) (ag : Agent) (v : Word) : (State.tlyCtrl s ag v).Keeps P Q := by
  unfold State.tlyCtrl
  repeat' first
    | with_reducible exact h
    | with_reducible assumption
    | simp only [↓keeps_upd]
    | with_reducible apply State.gate_keeps
    | with_reducible apply State.storeWord_keeps
    | with_reducible apply State.deny_keeps
    | with_reducible apply State.snapStart_keeps
    | with_reducible apply State.pmClear_keeps
    | intro _
    | refine fst_keeps (by assumption) ?_
    | refine snd_keeps (by assumption) ?_
    | split
    | dsimp only


end Sys2Proof.Machine
end

