-- ==== Sys2Proof/Laws/KeepsBoot.lean ====
section
/-! SUPPORT. Generated: the operations of Machine/Boot.lean leave the queue and the canonical form alone. -/

namespace Sys2Proof.Machine

set_option autoImplicit false
set_option linter.unusedTactic false
set_option linter.unreachableTactic false
set_option linter.unusedSimpArgs false

variable {P : Prop} {Q : List Instr}

theorem State.glbReset_keeps {s : State} (h : s.Keeps P Q) (ag : Agent) (v : Word) : (State.glbReset s ag v).Keeps P Q := by
  unfold State.glbReset
  repeat' first
    | with_reducible exact h
    | with_reducible assumption
    | simp only [↓keeps_upd]
    | with_reducible apply State.gate_keeps
    | with_reducible apply State.level_keeps
    | with_reducible apply State.warmReset_keeps
    | intro _
    | refine fst_keeps (by assumption) ?_
    | refine snd_keeps (by assumption) ?_
    | split
    | dsimp only


theorem State.nextBank_keeps {s : State} (h : s.Keeps P Q) : (State.nextBank s).Keeps P Q := by
  unfold State.nextBank
  repeat' first
    | with_reducible exact h
    | with_reducible assumption
    | simp only [↓keeps_upd]
    | with_reducible apply State.wr_keeps
    | with_reducible apply State.inc_keeps
    | with_reducible apply State.onset_keeps
    | intro _
    | refine fst_keeps (by assumption) ?_
    | refine snd_keeps (by assumption) ?_
    | split
    | dsimp only


theorem State.setStage_keeps {s : State} (h : s.Keeps P Q) (n : Nat) : (State.setStage s n).Keeps P Q := by
  unfold State.setStage
  repeat' first
    | with_reducible exact h
    | with_reducible assumption
    | simp only [↓keeps_upd]
    | with_reducible apply State.wr_keeps
    | with_reducible apply State.msi_keeps
    | intro _
    | refine fst_keeps (by assumption) ?_
    | refine snd_keeps (by assumption) ?_
    | split
    | dsimp only


theorem State.enablePort_keeps {s : State} (h : s.Keeps P Q) (p : Fin 32) : (State.enablePort s p).Keeps P Q := by
  unfold State.enablePort
  repeat' first
    | with_reducible exact h
    | with_reducible assumption
    | simp only [↓keeps_upd]
    | with_reducible apply State.wr_keeps
    | intro _
    | refine fst_keeps (by assumption) ?_
    | refine snd_keeps (by assumption) ?_
    | split
    | dsimp only


theorem State.bootDone_keeps {s : State} (h : s.Keeps P Q) (code : Nat) : (State.bootDone s code).Keeps P Q := by
  unfold State.bootDone
  repeat' first
    | with_reducible exact h
    | with_reducible assumption
    | simp only [↓keeps_upd]
    | with_reducible apply State.wr_keeps
    | with_reducible apply State.msi_keeps
    | intro _
    | refine fst_keeps (by assumption) ?_
    | refine snd_keeps (by assumption) ?_
    | split
    | dsimp only


theorem State.putSector_keeps {s : State} (h : s.Keeps P Q) (n : Nat) (f : Nat → Byte) : (State.putSector s n f).Keeps P Q := by
  unfold State.putSector
  repeat' first
    | with_reducible exact h
    | with_reducible assumption
    | simp only [↓keeps_upd]
    | with_reducible apply foldl_keeps
    | intro _
    | refine fst_keeps (by assumption) ?_
    | refine snd_keeps (by assumption) ?_
    | split
    | dsimp only


theorem State.flashCmd_keeps {s : State} (h : s.Keeps P Q) (n : Nat) (err : Bool) (f : Nat → Byte) : (State.flashCmd s n err f).Keeps P Q := by
  unfold State.flashCmd
  repeat' first
    | with_reducible exact h
    | with_reducible assumption
    | simp only [↓keeps_upd]
    | with_reducible apply State.bootDone_keeps
    | with_reducible apply State.takeFree_keeps
    | with_reducible apply State.putSector_keeps
    | with_reducible apply State.raise_keeps
    | intro _
    | refine fst_keeps (by assumption) ?_
    | refine snd_keeps (by assumption) ?_
    | split
    | dsimp only


theorem State.bootCmd_keeps {s : State} (h : s.Keeps P Q) (ag : Agent) (v : Word) (err : Bool) : (State.bootCmd s ag v err).Keeps P Q := by
  unfold State.bootCmd
  repeat' first
    | with_reducible exact h
    | with_reducible assumption
    | simp only [↓keeps_upd]
    | with_reducible apply State.gate_keeps
    | with_reducible apply State.bootDone_keeps
    | with_reducible apply State.wr_keeps
    | with_reducible apply State.nextBank_keeps
    | with_reducible apply State.flashCmd_keeps
    | intro _
    | refine fst_keeps (by assumption) ?_
    | refine snd_keeps (by assumption) ?_
    | split
    | dsimp only


theorem State.takeOmci_keeps {s : State} (h : s.Keeps P Q) (p : Fin 32) (i : Nat) (good : Bool) : (State.takeOmci s p i good).Keeps P Q := by
  unfold State.takeOmci
  repeat' first
    | with_reducible exact h
    | with_reducible assumption
    | simp only [↓keeps_upd]
    | with_reducible apply State.nextOmci_keeps
    | with_reducible apply State.templateFail_keeps
    | intro _
    | refine fst_keeps (by assumption) ?_
    | refine snd_keeps (by assumption) ?_
    | split
    | dsimp only


theorem State.takeMsg_keeps {s : State} (h : s.Keeps P Q) (m : StwMsg) : (State.takeMsg s m).Keeps P Q := by
  unfold State.takeMsg
  repeat' first
    | with_reducible exact h
    | with_reducible assumption
    | simp only [↓keeps_upd]
    | with_reducible apply State.takeRegistration_keeps
    | with_reducible apply State.takeKeyReport_keeps
    | with_reducible apply State.takeOmci_keeps
    | intro _
    | refine fst_keeps (by assumption) ?_
    | refine snd_keeps (by assumption) ?_
    | split
    | dsimp only


theorem State.fwValidate_keeps {s : State} (h : s.Keeps P Q) (bad : Option Nat) : (State.fwValidate s bad).Keeps P Q := by
  unfold State.fwValidate
  repeat' first
    | with_reducible exact h
    | with_reducible assumption
    | simp only [↓keeps_upd]
    | with_reducible apply State.wr_keeps
    | with_reducible apply State.raise_keeps
    | intro _
    | refine fst_keeps (by assumption) ?_
    | refine snd_keeps (by assumption) ?_
    | split
    | dsimp only


theorem State.fwStart_keeps {s : State} (h : s.Keeps P Q) : (State.fwStart s).Keeps P Q := by
  unfold State.fwStart
  repeat' first
    | with_reducible exact h
    | with_reducible assumption
    | simp only [↓keeps_upd]
    | with_reducible apply State.setTreeSt_keeps
    | with_reducible apply State.wr_keeps
    | with_reducible apply foldl_keeps
    | intro _
    | refine fst_keeps (by assumption) ?_
    | refine snd_keeps (by assumption) ?_
    | split
    | dsimp only


theorem State.fwSwitch_keeps {s : State} (h : s.Keeps P Q) : (State.fwSwitch s).Keeps P Q := by
  unfold State.fwSwitch
  repeat' first
    | with_reducible exact h
    | with_reducible assumption
    | simp only [↓keeps_upd]
    | with_reducible apply State.release_keeps
    | with_reducible apply State.fwStart_keeps
    | intro _
    | refine fst_keeps (by assumption) ?_
    | refine snd_keeps (by assumption) ?_
    | split
    | dsimp only


theorem State.fwCtrl_keeps {s : State} (h : s.Keeps P Q) (ag : Agent) (v : Word) (bad : Option Nat) : (State.fwCtrl s ag v bad).Keeps P Q := by
  unfold State.fwCtrl
  repeat' first
    | with_reducible exact h
    | with_reducible assumption
    | simp only [↓keeps_upd]
    | with_reducible apply State.gate_keeps
    | with_reducible apply State.storeWord_keeps
    | with_reducible apply State.fwValidate_keeps
    | with_reducible apply State.fwSwitch_keeps
    | intro _
    | refine fst_keeps (by assumption) ?_
    | refine snd_keeps (by assumption) ?_
    | split
    | dsimp only


theorem State.fwFallback_keeps {s : State} (h : s.Keeps P Q) : (State.fwFallback s).Keeps P Q := by
  unfold State.fwFallback
  repeat' first
    | with_reducible exact h
    | with_reducible assumption
    | simp only [↓keeps_upd]
    | with_reducible apply State.fwStart_keeps
    | with_reducible apply State.fwSwitch_keeps
    | with_reducible apply State.inc_keeps
    | with_reducible apply State.raise_keeps
    | intro _
    | refine fst_keeps (by assumption) ?_
    | refine snd_keeps (by assumption) ?_
    | split
    | dsimp only


end Sys2Proof.Machine
end

