-- ==== Sys2Proof/Laws/KeepsRings.lean ====
section
/-! SUPPORT. Generated: the operations of Machine/Rings.lean leave the queue and the canonical form alone. -/

namespace Sys2Proof.Machine

set_option autoImplicit false
set_option linter.unusedTactic false
set_option linter.unreachableTactic false
set_option linter.unusedSimpArgs false

variable {P : Prop} {Q : List Instr}

theorem State.setRing_keeps {s : State} (h : s.Keeps P Q) (r : Nat) (x : RingRt) : (State.setRing s r x).Keeps P Q := by
  unfold State.setRing
  repeat' first
    | with_reducible exact h
    | with_reducible assumption
    | simp only [↓keeps_upd]
    | intro _
    | refine fst_keeps (by assumption) ?_
    | refine snd_keeps (by assumption) ?_
    | split
    | dsimp only


theorem State.stopRing_keeps {s : State} (h : s.Keeps P Q) (r : Nat) : (State.stopRing s r).Keeps P Q := by
  unfold State.stopRing
  repeat' first
    | with_reducible exact h
    | with_reducible assumption
    | simp only [↓keeps_upd]
    | with_reducible apply State.wr_keeps
    | with_reducible apply State.setRing_keeps
    | intro _
    | refine fst_keeps (by assumption) ?_
    | refine snd_keeps (by assumption) ?_
    | split
    | dsimp only


theorem State.linkDown_keeps {s : State} (h : s.Keeps P Q) : (State.linkDown s).Keeps P Q := by
  unfold State.linkDown
  repeat' first
    | with_reducible exact h
    | with_reducible assumption
    | simp only [↓keeps_upd]
    | with_reducible apply State.wr_keeps
    | with_reducible apply State.onset_keeps
    | intro _
    | refine fst_keeps (by assumption) ?_
    | refine snd_keeps (by assumption) ?_
    | split
    | dsimp only


theorem State.maskVectors_keeps {s : State} (h : s.Keeps P Q) (f : Nat) : (State.maskVectors s f).Keeps P Q := by
  unfold State.maskVectors
  repeat' first
    | with_reducible exact h
    | with_reducible assumption
    | simp only [↓keeps_upd]
    | with_reducible apply State.putWord_keeps
    | with_reducible apply foldl_keeps
    | intro _
    | refine fst_keeps (by assumption) ?_
    | refine snd_keeps (by assumption) ?_
    | split
    | dsimp only


theorem State.fnReset_keeps {s : State} (h : s.Keeps P Q) (f : Nat) : (State.fnReset s f).Keeps P Q := by
  unfold State.fnReset
  repeat' first
    | with_reducible exact h
    | with_reducible assumption
    | simp only [↓keeps_upd]
    | with_reducible apply State.putWord_keeps
    | with_reducible apply State.setRing_keeps
    | with_reducible apply State.maskVectors_keeps
    | with_reducible apply State.setFn_keeps
    | with_reducible apply foldl_keeps
    | intro _
    | refine fst_keeps (by assumption) ?_
    | refine snd_keeps (by assumption) ?_
    | split
    | dsimp only


theorem State.lockWrite_keeps {s : State} (h : s.Keeps P Q) (ag : Agent) (a : Nat) (v : Word) : (State.lockWrite s ag a v).Keeps P Q := by
  unfold State.lockWrite
  repeat' first
    | with_reducible exact h
    | with_reducible assumption
    | simp only [↓keeps_upd]
    | with_reducible apply State.deny_keeps
    | with_reducible apply State.gate_keeps
    | with_reducible apply State.wr_keeps
    | intro _
    | refine fst_keeps (by assumption) ?_
    | refine snd_keeps (by assumption) ?_
    | split
    | dsimp only


theorem State.vfPorts_keeps {s : State} (h : s.Keeps P Q) (ag : Agent) (vf : Nat) (v : Word) : (State.vfPorts s ag vf v).Keeps P Q := by
  unfold State.vfPorts
  repeat' first
    | with_reducible exact h
    | with_reducible assumption
    | simp only [↓keeps_upd]
    | with_reducible apply State.deny_keeps
    | with_reducible apply State.gate_keeps
    | with_reducible apply State.putWord_keeps
    | intro _
    | refine fst_keeps (by assumption) ?_
    | refine snd_keeps (by assumption) ?_
    | split
    | dsimp only


theorem State.ringGate_keeps {s : State} (h : s.Keeps P Q) (ag : Agent) (r a : Nat) (k : State → State) (hk : ∀ t : State, t.Keeps P Q → (k t).Keeps P Q) : (State.ringGate s ag r a k).Keeps P Q := by
  unfold State.ringGate
  repeat' first
    | with_reducible exact h
    | with_reducible assumption
    | simp only [↓keeps_upd]
    | with_reducible apply State.deny_keeps
    | with_reducible apply State.hostTlp_keeps
    | with_reducible apply State.gate_keeps
    | with_reducible apply hk
    | intro _
    | refine fst_keeps (by assumption) ?_
    | refine snd_keeps (by assumption) ?_
    | split
    | dsimp only


theorem State.ringCfg_keeps {s : State} (h : s.Keeps P Q) (ag : Agent) (r : Nat) (v : Word) : (State.ringCfg s ag r v).Keeps P Q := by
  unfold State.ringCfg
  repeat' first
    | with_reducible exact h
    | with_reducible assumption
    | simp only [↓keeps_upd]
    | with_reducible apply State.ringGate_keeps
    | with_reducible apply State.putWord_keeps
    | with_reducible apply State.deny_keeps
    | with_reducible apply State.wr_keeps
    | with_reducible apply State.setRing_keeps
    | with_reducible apply State.stopRing_keeps
    | intro _
    | refine fst_keeps (by assumption) ?_
    | refine snd_keeps (by assumption) ?_
    | split
    | dsimp only


theorem State.ringTail_keeps {s : State} (h : s.Keeps P Q) (ag : Agent) (r : Nat) (v : Word) : (State.ringTail s ag r v).Keeps P Q := by
  unfold State.ringTail
  repeat' first
    | with_reducible exact h
    | with_reducible assumption
    | simp only [↓keeps_upd]
    | with_reducible apply State.ringGate_keeps
    | with_reducible apply State.deny_keeps
    | with_reducible apply State.putWord_keeps
    | intro _
    | refine fst_keeps (by assumption) ?_
    | refine snd_keeps (by assumption) ?_
    | split
    | dsimp only


theorem State.ringOther_keeps {s : State} (h : s.Keeps P Q) (ag : Agent) (r a : Nat) (v : Word) : (State.ringOther s ag r a v).Keeps P Q := by
  unfold State.ringOther
  repeat' first
    | with_reducible exact h
    | with_reducible assumption
    | simp only [↓keeps_upd]
    | with_reducible apply State.ringGate_keeps
    | with_reducible apply State.deny_keeps
    | with_reducible apply State.putWord_keeps
    | with_reducible apply State.wr_keeps
    | intro _
    | refine fst_keeps (by assumption) ?_
    | refine snd_keeps (by assumption) ?_
    | split
    | dsimp only


theorem State.ringMsi_keeps {s : State} (h : s.Keeps P Q) (r : Nat) : (State.ringMsi s r).Keeps P Q := by
  unfold State.ringMsi
  repeat' first
    | with_reducible exact h
    | with_reducible assumption
    | simp only [↓keeps_upd]
    | with_reducible apply State.msi_keeps
    | intro _
    | refine fst_keeps (by assumption) ?_
    | refine snd_keeps (by assumption) ?_
    | split
    | dsimp only


theorem State.dmaTlps_keeps {s : State} (h : s.Keeps P Q) (r : Nat) : (State.dmaTlps s r).Keeps P Q := by
  unfold State.dmaTlps
  repeat' first
    | with_reducible exact h
    | with_reducible assumption
    | simp only [↓keeps_upd]
    | with_reducible apply State.tlps_keeps
    | intro _
    | refine fst_keeps (by assumption) ?_
    | refine snd_keeps (by assumption) ?_
    | split
    | dsimp only


theorem State.advance_keeps {s : State} (h : s.Keeps P Q) (r : Nat) : (State.advance s r).Keeps P Q := by
  unfold State.advance
  repeat' first
    | with_reducible exact h
    | with_reducible assumption
    | simp only [↓keeps_upd]
    | with_reducible apply State.wr_keeps
    | with_reducible apply State.inc_keeps
    | with_reducible apply State.dmaTlps_keeps
    | with_reducible apply State.setRing_keeps
    | with_reducible apply State.ringMsi_keeps
    | intro _
    | refine fst_keeps (by assumption) ?_
    | refine snd_keeps (by assumption) ?_
    | split
    | dsimp only


theorem State.fillEntry_keeps {s : State} (h : s.Keeps P Q) (r : Nat) (ws : List Word) (data : List Byte) : (State.fillEntry s r ws data).Keeps P Q := by
  unfold State.fillEntry
  repeat' first
    | with_reducible exact h
    | with_reducible assumption
    | simp only [↓keeps_upd]
    | with_reducible apply State.setRing_keeps
    | with_reducible apply State.advance_keeps
    | intro _
    | refine fst_keeps (by assumption) ?_
    | refine snd_keeps (by assumption) ?_
    | split
    | dsimp only


theorem State.rxDeliver_keeps {s : State} (h : s.Keeps P Q) (o : ExcOut) (len : Nat) : (State.rxDeliver s o len).Keeps P Q := by
  unfold State.rxDeliver
  repeat' first
    | with_reducible exact h
    | with_reducible assumption
    | simp only [↓keeps_upd]
    | with_reducible apply State.mirror_keeps
    | with_reducible apply State.toSteward_keeps
    | with_reducible apply State.inc_keeps
    | with_reducible apply State.unref_keeps
    | with_reducible apply State.raiseLimited_keeps
    | with_reducible apply State.fillEntry_keeps
    | intro _
    | refine fst_keeps (by assumption) ?_
    | refine snd_keeps (by assumption) ?_
    | split
    | dsimp only


theorem State.telDeliver_keeps {s : State} (h : s.Keeps P Q) (x : TelRec) (len : Nat) : (State.telDeliver s x len).Keeps P Q := by
  unfold State.telDeliver
  repeat' first
    | with_reducible exact h
    | with_reducible assumption
    | simp only [↓keeps_upd]
    | with_reducible apply State.inc_keeps
    | with_reducible apply State.fillEntry_keeps
    | intro _
    | refine fst_keeps (by assumption) ?_
    | refine snd_keeps (by assumption) ?_
    | split
    | dsimp only


theorem State.txEntry_keeps {s : State} (h : s.Keeps P Q) (r : Nat) (e : List Word) (fr : List Byte) : (State.txEntry s r e fr).Keeps P Q := by
  unfold State.txEntry
  repeat' first
    | with_reducible exact h
    | with_reducible assumption
    | simp only [↓keeps_upd]
    | with_reducible apply State.inc_keeps
    | with_reducible apply State.deny_keeps
    | with_reducible apply State.newBuf_keeps
    | with_reducible apply State.noBuf_keeps
    | with_reducible apply State.epochRef_keeps
    | with_reducible apply State.proxyChecks_keeps
    | with_reducible apply State.enqueue_keeps
    | with_reducible apply State.epochUnref_keeps
    | with_reducible apply State.intake_keeps
    | intro _
    | refine fst_keeps (by assumption) ?_
    | refine snd_keeps (by assumption) ?_
    | split
    | dsimp only


theorem State.dropInHand_keeps {s : State} (h : s.Keeps P Q) (r : Nat) : (State.dropInHand s r).Keeps P Q := by
  unfold State.dropInHand
  repeat' first
    | with_reducible exact h
    | with_reducible assumption
    | simp only [↓keeps_upd]
    | with_reducible apply State.drop_keeps
    | with_reducible apply State.mirror_keeps
    | with_reducible apply State.unref_keeps
    | intro _
    | refine fst_keeps (by assumption) ?_
    | refine snd_keeps (by assumption) ?_
    | split
    | dsimp only


theorem State.rearm_keeps {s : State} (h : s.Keeps P Q) (ag : Agent) (v : Word) : (State.rearm s ag v).Keeps P Q := by
  unfold State.rearm
  repeat' first
    | with_reducible exact h
    | with_reducible assumption
    | simp only [↓keeps_upd]
    | with_reducible apply State.gate_keeps
    | with_reducible apply State.putWord_keeps
    | with_reducible apply State.level_keeps
    | with_reducible apply State.msi_keeps
    | intro _
    | refine fst_keeps (by assumption) ?_
    | refine snd_keeps (by assumption) ?_
    | split
    | dsimp only


end Sys2Proof.Machine
end

