-- ==== Sys2Proof/Laws/KeepsWarden.lean ====
section
/-! SUPPORT. Generated: the operations of Machine/Warden.lean leave the queue and the canonical form alone. -/

namespace Sys2Proof.Machine

set_option autoImplicit false
set_option linter.unusedTactic false
set_option linter.unreachableTactic false
set_option linter.unusedSimpArgs false

variable {P : Prop} {Q : List Instr}

theorem State.cycleEnd_keeps {s : State} (h : s.Keeps P Q) : (State.cycleEnd s).Keeps P Q := by
  unfold State.cycleEnd
  repeat' first
    | with_reducible exact h
    | with_reducible assumption
    | simp only [↓keeps_upd]
    | with_reducible apply State.inc_keeps
    | with_reducible apply State.wr_keeps
    | with_reducible apply State.endCause_keeps
    | intro _
    | refine fst_keeps (by assumption) ?_
    | refine snd_keeps (by assumption) ?_
    | split
    | dsimp only


theorem State.startTest_keeps {s : State} (h : s.Keeps P Q) (id : Nat) (p : Golden) (k : Nat) : (State.startTest s id p k).Keeps P Q := by
  unfold State.startTest
  repeat' first
    | with_reducible exact h
    | with_reducible assumption
    | simp only [↓keeps_upd]
    | with_reducible apply State.setCtx_keeps
    | with_reducible apply State.epochRef_keeps
    | intro _
    | refine fst_keeps (by assumption) ?_
    | refine snd_keeps (by assumption) ?_
    | split
    | dsimp only


theorem State.beginTest_keeps {s : State} (h : s.Keeps P Q) (p : Golden) (ix under : Nat) (refs : List Nat) : (State.beginTest s p ix under refs).Keeps P Q := by
  unfold State.beginTest
  repeat' first
    | with_reducible exact h
    | with_reducible assumption
    | simp only [↓keeps_upd]
    | with_reducible apply State.startTest_keeps
    | with_reducible apply foldl_keeps
    | intro _
    | refine fst_keeps (by assumption) ?_
    | refine snd_keeps (by assumption) ?_
    | split
    | dsimp only


theorem State.idleDispatch_keeps {s : State} (h : s.Keeps P Q) (room : Nat → Nat) : (State.idleDispatch s room).Keeps P Q := by
  unfold State.idleDispatch
  split
  · exact h
  · extract_lets r
    have hr : r.1.Keeps P Q := by
      refine foldl_fst_keeps _ _ h (fun a x ha => ?_)
      dsimp only
      split
      · exact State.beginTest_keeps ha ..
      · exact ha
    simp only [↓keeps_upd]
    exact hr


theorem State.bankRows_keeps {s : State} (h : s.Keeps P Q) (first n : Nat) (bad : Option Nat) : (State.bankRows s first n bad).Keeps P Q := by
  unfold State.bankRows
  repeat' first
    | with_reducible exact h
    | with_reducible assumption
    | simp only [↓keeps_upd]
    | with_reducible apply State.drop_keeps
    | with_reducible apply foldl_keeps
    | intro _
    | refine fst_keeps (by assumption) ?_
    | refine snd_keeps (by assumption) ?_
    | split
    | dsimp only


theorem State.freeLeak_keeps {s : State} (h : s.Keeps P Q) (h : Nat) : (State.freeLeak s h).Keeps P Q := by
  unfold State.freeLeak
  repeat' first
    | with_reducible exact h
    | with_reducible assumption
    | simp only [↓keeps_upd]
    | with_reducible apply State.raise_keeps
    | with_reducible apply State.inc_keeps
    | with_reducible apply State.setBuf_keeps
    | with_reducible apply State.unref_keeps
    | intro _
    | refine fst_keeps (by assumption) ?_
    | refine snd_keeps (by assumption) ?_
    | split
    | dsimp only


end Sys2Proof.Machine
end

