-- ==== Sys2Proof/Laws/KeepsReceive.lean ====
section
/-! SUPPORT. Generated: the operations of Machine/Receive.lean leave the queue and the canonical form alone. -/

namespace Sys2Proof.Machine

set_option autoImplicit false
set_option linter.unusedTactic false
set_option linter.unreachableTactic false
set_option linter.unusedSimpArgs false

variable {P : Prop} {Q : List Instr}

theorem State.setPreset_keeps {s : State} (h : s.Keeps P Q) (p : Fin 32) (sd slot : Nat) (x : Preset) : (State.setPreset s p sd slot x).Keeps P Q := by
  unfold State.setPreset
  repeat' first
    | with_reducible exact h
    | with_reducible assumption
    | simp only [↓keeps_upd]
    | intro _
    | refine fst_keeps (by assumption) ?_
    | refine snd_keeps (by assumption) ?_
    | split
    | dsimp only


theorem State.setUsAdj_keeps {s : State} (h : s.Keeps P Q) (p : Fin 32) (sd : Nat) (v : Int) : (State.setUsAdj s p sd v).Keeps P Q := by
  unfold State.setUsAdj
  repeat' first
    | with_reducible exact h
    | with_reducible assumption
    | simp only [↓keeps_upd]
    | with_reducible apply State.wr_keeps
    | intro _
    | refine fst_keeps (by assumption) ?_
    | refine snd_keeps (by assumption) ?_
    | split
    | dsimp only


theorem State.wideDone_keeps {s : State} (h : s.Keeps P Q) (p : Fin 32) (sd n : Nat) : (State.wideDone s p sd n).Keeps P Q := by
  unfold State.wideDone
  repeat' first
    | with_reducible exact h
    | with_reducible assumption
    | simp only [↓keeps_upd]
    | with_reducible apply State.setSide_keeps
    | with_reducible apply State.inc_keeps
    | with_reducible apply State.setUsAdj_keeps
    | intro _
    | refine fst_keeps (by assumption) ?_
    | refine snd_keeps (by assumption) ?_
    | split
    | dsimp only


theorem State.sideHeard_keeps {s : State} (h : s.Keeps P Q) (p : Fin 32) (sd : Nat) : (State.sideHeard s p sd).Keeps P Q := by
  unfold State.sideHeard
  repeat' first
    | with_reducible exact h
    | with_reducible assumption
    | simp only [↓keeps_upd]
    | with_reducible apply State.setSide_keeps
    | with_reducible apply State.wr_keeps
    | with_reducible apply State.endCause_keeps
    | intro _
    | refine fst_keeps (by assumption) ?_
    | refine snd_keeps (by assumption) ?_
    | split
    | dsimp only


theorem State.markHeard_keeps {s : State} (h : s.Keeps P Q) (p : Fin 32) (sd : Nat) : (State.markHeard s p sd).Keeps P Q := by
  unfold State.markHeard
  repeat' first
    | with_reducible exact h
    | with_reducible assumption
    | simp only [↓keeps_upd]
    | with_reducible apply State.setSide_keeps
    | intro _
    | refine fst_keeps (by assumption) ?_
    | refine snd_keeps (by assumption) ?_
    | split
    | dsimp only


theorem State.settleBurst_keeps {s : State} (h : s.Keeps P Q) (p : Fin 32) (sd n : Nat) (got : Bool) : (State.settleBurst s p sd n got).Keeps P Q := by
  unfold State.settleBurst
  repeat' first
    | with_reducible exact h
    | with_reducible assumption
    | simp only [↓keeps_upd]
    | with_reducible apply State.sideHeard_keeps
    | with_reducible apply State.markHeard_keeps
    | with_reducible apply State.setSide_keeps
    | with_reducible apply State.wideDone_keeps
    | intro _
    | refine fst_keeps (by assumption) ?_
    | refine snd_keeps (by assumption) ?_
    | split
    | dsimp only


theorem State.requestRerange_keeps {s : State} (h : s.Keeps P Q) (p : Fin 32) (i : Nat) (hold : Bool) : (State.requestRerange s p i hold).Keeps P Q := by
  unfold State.requestRerange
  repeat' first
    | with_reducible exact h
    | with_reducible assumption
    | simp only [↓keeps_upd]
    | with_reducible apply State.setSlot_keeps
    | intro _
    | refine fst_keeps (by assumption) ?_
    | refine snd_keeps (by assumption) ?_
    | split
    | dsimp only


theorem State.burstMissed_keeps {s : State} (h : s.Keeps P Q) (p : Fin 32) (sd : Nat) (e : Exp) : (State.burstMissed s p sd e).Keeps P Q := by
  unfold State.burstMissed
  extract_lets i x held si s1 pre s2 s3 y s4 s5
  have h1 : s1.Keeps P Q := by
    dsimp only [s1]
    split
    · exact h
    · split
      · exact State.pmMod_keeps (State.pmMod_keeps (State.inc_keeps h ..) ..) ..
      · exact State.pmMod_keeps (State.inc_keeps h ..) ..
  have h2 : s2.Keeps P Q := by
    dsimp only [s2]
    split
    · exact State.inc_keeps (State.setPreset_keeps h1 ..) ..
    · exact h1
  have h3 : s3.Keeps P Q := State.settleBurst_keeps h2 ..
  have h4 : s4.Keeps P Q := State.setSlot_keeps h3 ..
  have h5 : s5.Keeps P Q := by
    dsimp only [s5]
    split
    · exact State.toLost_keeps h4 ..
    · exact h4
  split
  · exact h3
  · split
    · split
      · exact State.requestRerange_keeps h5 ..
      · exact h5
    · exact h4


theorem State.track_keeps {s : State} (h : s.Keeps P Q) (p : Fin 32) (sd i : Nat) (d : Int) : (State.track s p sd i d).Keeps P Q := by
  unfold State.track
  repeat' first
    | with_reducible exact h
    | with_reducible assumption
    | simp only [↓keeps_upd]
    | with_reducible apply State.setSlot_keeps
    | with_reducible apply State.drop_keeps
    | with_reducible apply State.requestRerange_keeps
    | with_reducible apply State.inc_keeps
    | with_reducible apply State.holdFor_keeps
    | intro _
    | refine fst_keeps (by assumption) ?_
    | refine snd_keeps (by assumption) ?_
    | split
    | dsimp only


theorem State.recover_keeps {s : State} (h : s.Keeps P Q) (p : Fin 32) (i : Nat) : (State.recover s p i).Keeps P Q := by
  unfold State.recover
  repeat' first
    | with_reducible exact h
    | with_reducible assumption
    | simp only [↓keeps_upd]
    | with_reducible apply State.setSlot_keeps
    | with_reducible apply State.dropAnn_keeps
    | with_reducible apply State.inc_keeps
    | intro _
    | refine fst_keeps (by assumption) ?_
    | refine snd_keeps (by assumption) ?_
    | split
    | dsimp only


theorem State.deltaSample_keeps {s : State} (h : s.Keeps P Q) (p : Fin 32) (v : Int) : (State.deltaSample s p v).Keeps P Q := by
  unfold State.deltaSample
  repeat' first
    | with_reducible exact h
    | with_reducible assumption
    | simp only [↓keeps_upd]
    | with_reducible apply State.inc_keeps
    | with_reducible apply State.drop_keeps
    | with_reducible apply State.setTwinTree_keeps
    | with_reducible apply State.wr_keeps
    | with_reducible apply State.raise_keeps
    | with_reducible apply foldl_keeps
    | intro _
    | refine fst_keeps (by assumption) ?_
    | refine snd_keeps (by assumption) ?_
    | split
    | dsimp only


theorem State.adjSample_keeps {s : State} (h : s.Keeps P Q) (p : Fin 32) (sd : Nat) (e : Exp) (d : Int) : (State.adjSample s p sd e d).Keeps P Q := by
  unfold State.adjSample
  repeat' first
    | with_reducible exact h
    | with_reducible assumption
    | simp only [↓keeps_upd]
    | with_reducible apply State.drop_keeps
    | with_reducible apply State.setUsAdj_keeps
    | with_reducible apply foldl_keeps
    | intro _
    | refine fst_keeps (by assumption) ?_
    | refine snd_keeps (by assumption) ?_
    | split
    | dsimp only


theorem State.storeReports_keeps {s : State} (h : s.Keeps P Q) (p : Fin 32) (sd n : Nat) (l : List (Nat × BitVec 24 × BitVec 8)) :
    (State.storeReports s p sd n l).Keeps P Q := by
  unfold State.storeReports
  refine foldl_keeps _ _ h (fun t r ht => ?_)
  generalize dbruGood r.2.1 r.2.2 = g
  split
  · cases g
    · exact ht
    · exact State.setAlloc_keeps ht ..
  · exact ht


theorem State.pktUnder_keeps {s : State} (h : s.Keeps P Q) (p : Fin 32) (sd : Nat) (gs : List Grant) (l : List (Nat × Nat)) :
    (State.pktUnder s p sd gs l).Keeps P Q := by
  unfold State.pktUnder
  refine foldl_keeps _ _ h (fun t r ht => ?_)
  split
  · extract_lets g
    split
    · exact State.inc_keeps (State.setAlloc_keeps ht ..) ..
    · exact ht
  · exact ht


theorem State.burstCounts_keeps {s : State} (h : s.Keeps P Q) (p : Fin 32) (sd i : Nat) (b : BurstRx) : (State.burstCounts s p sd i b).Keeps P Q := by
  unfold State.burstCounts
  repeat' first
    | with_reducible exact h
    | with_reducible assumption
    | simp only [↓keeps_upd]
    | with_reducible apply State.count_keeps
    | with_reducible apply State.inc_keeps
    | with_reducible apply State.pmMod_keeps
    | intro _
    | refine fst_keeps (by assumption) ?_
    | refine snd_keeps (by assumption) ?_
    | split
    | dsimp only


theorem State.strayRecord_keeps {s : State} (h : s.Keeps P Q) (p : Fin 32) (r : Option StrayRec) : (State.strayRecord s p r).Keeps P Q := by
  unfold State.strayRecord
  repeat' first
    | with_reducible exact h
    | with_reducible assumption
    | simp only [↓keeps_upd]
    | with_reducible apply idle_keeps
    | with_reducible apply State.setTreeSt_keeps
    | intro _
    | refine fst_keeps (by assumption) ?_
    | refine snd_keeps (by assumption) ?_
    | split
    | dsimp only


theorem State.strayRaise_keeps {s : State} (h : s.Keeps P Q) (p : Fin 32) (sd rest : Nat) : (State.strayRaise s p sd rest).Keeps P Q := by
  unfold State.strayRaise
  repeat' first
    | with_reducible exact h
    | with_reducible assumption
    | simp only [↓keeps_upd]
    | with_reducible apply State.raise_keeps
    | with_reducible apply State.setTreeSt_keeps
    | intro _
    | refine fst_keeps (by assumption) ?_
    | refine snd_keeps (by assumption) ?_
    | split
    | dsimp only


theorem State.strayWindow_keeps {s : State} (h : s.Keeps P Q) (p : Fin 32) (sd : Nat) (onu : Option Nat) (off : Option Int) (record : Bool) : (State.strayWindow s p sd onu off record).Keeps P Q := by
  unfold State.strayWindow
  repeat' first
    | with_reducible exact h
    | with_reducible assumption
    | simp only [↓keeps_upd]
    | with_reducible apply State.strayRecord_keeps
    | with_reducible apply State.inc_keeps
    | with_reducible apply State.strayRaise_keeps
    | intro _
    | refine fst_keeps (by assumption) ?_
    | refine snd_keeps (by assumption) ?_
    | split
    | dsimp only


theorem State.burstTaken_keeps {s : State} (h : s.Keeps P Q) (p : Fin 32) (sd : Nat) (e : Exp) (b : BurstRx) (learn : Bool) : (State.burstTaken s p sd e b learn).Keeps P Q := by
  unfold State.burstTaken
  repeat' first
    | with_reducible exact h
    | with_reducible assumption
    | simp only [↓keeps_upd]
    | with_reducible apply State.inc_keeps
    | with_reducible apply State.settleBurst_keeps
    | with_reducible apply State.setPreset_keeps
    | with_reducible apply State.setSlot_keeps
    | with_reducible apply State.seen_keeps
    | intro _
    | refine fst_keeps (by assumption) ?_
    | refine snd_keeps (by assumption) ?_
    | split
    | dsimp only


theorem State.offsetSeen_keeps {s : State} (h : s.Keeps P Q) (p : Fin 32) (sd : Nat) (e : Exp) (d : Int) (wide : Bool) : (State.offsetSeen s p sd e d wide).Keeps P Q := by
  unfold State.offsetSeen
  repeat' first
    | with_reducible exact h
    | with_reducible assumption
    | simp only [↓keeps_upd]
    | with_reducible apply State.recover_keeps
    | with_reducible apply State.track_keeps
    | intro _
    | refine fst_keeps (by assumption) ?_
    | refine snd_keeps (by assumption) ?_
    | split
    | dsimp only


theorem State.presetStore_keeps {s : State} (h : s.Keeps P Q) (p : Fin 32) (idx : Nat) (valid : Bool) : (State.presetStore s p idx valid).Keeps P Q := by
  unfold State.presetStore
  repeat' first
    | with_reducible exact h
    | with_reducible assumption
    | simp only [↓keeps_upd]
    | with_reducible apply State.setPreset_keeps
    | intro _
    | refine fst_keeps (by assumption) ?_
    | refine snd_keeps (by assumption) ?_
    | split
    | dsimp only


theorem execAlignModeWrite_keeps {s : State} (h : s.Keeps P Q) (ag : Agent) (p : Fin 32) (v : Word) : Completes (execAlignModeWrite ag p v s) (State.Keeps P Q) := by
  unfold execAlignModeWrite
  repeat' first
    | with_reducible refine completes_keeps _ ?_
    | with_reducible exact h
    | with_reducible assumption
    | simp only [↓keeps_upd]
    | with_reducible apply ok_keeps
    | with_reducible apply State.gate_keeps
    | with_reducible apply State.storeWord_keeps
    | with_reducible apply State.wr_keeps
    | with_reducible apply State.setSide_keeps
    | with_reducible apply State.mirror_keeps
    | intro _
    | refine fst_keeps (by assumption) ?_
    | refine snd_keeps (by assumption) ?_
    | split
    | dsimp only


end Sys2Proof.Machine
end

