-- ==== Sys2Proof/Laws/KeepsView.lean ====
section
/-! SUPPORT. Generated: the operations of Machine/View.lean leave the queue and the canonical form alone. -/

namespace Sys2Proof.Machine

set_option autoImplicit false
set_option linter.unusedTactic false
set_option linter.unreachableTactic false
set_option linter.unusedSimpArgs false

variable {P : Prop} {Q : List Instr}

theorem State.trapSeen_keeps {s : State} (h : s.Keeps P Q) (a : Nat) : (State.trapSeen s a).Keeps P Q := by
  unfold State.trapSeen
  repeat' first
    | with_reducible exact h
    | with_reducible assumption
    | simp only [↓keeps_upd]
    | with_reducible apply State.setGuild_keeps
    | intro _
    | refine fst_keeps (by assumption) ?_
    | refine snd_keeps (by assumption) ?_
    | split
    | dsimp only


theorem State.readWord_keeps {s0 : State} (h : s0.Keeps P Q) (ag : Agent) (a : Nat) : (State.readWord s0 ag a).Keeps P Q := by
  unfold State.readWord
  repeat' first
    | with_reducible exact h
    | with_reducible assumption
    | simp only [↓keeps_upd]
    | with_reducible apply State.trapSeen_keeps
    | with_reducible apply State.injSeen_keeps
    | with_reducible apply State.setLatch_keeps
    | with_reducible apply State.answer_keeps
    | with_reducible apply foldl_keeps
    | intro _
    | refine fst_keeps (by assumption) ?_
    | refine snd_keeps (by assumption) ?_
    | split
    | dsimp only


theorem State.readCounters_keeps {s : State} (h : s.Keeps P Q) (ag : Agent) (off : Nat) : (State.readCounters s ag off).Keeps P Q := by
  unfold State.readCounters
  repeat' first
    | with_reducible exact h
    | with_reducible assumption
    | simp only [↓keeps_upd]
    | with_reducible apply State.denyAs_keeps
    | with_reducible apply State.answer_keeps
    | with_reducible apply State.drop_keeps
    | with_reducible apply State.setLatch_keeps
    | with_reducible apply foldl_keeps
    | intro _
    | refine fst_keeps (by assumption) ?_
    | refine snd_keeps (by assumption) ?_
    | split
    | dsimp only


end Sys2Proof.Machine
end

