-- ==== Sys2Proof/Laws/KeepsWin.lean ====
section
/-! SUPPORT. Generated: the operations of Machine/Win.lean leave the queue and the canonical form alone. -/

namespace Sys2Proof.Machine

set_option autoImplicit false
set_option linter.unusedTactic false
set_option linter.unreachableTactic false
set_option linter.unusedSimpArgs false

variable {P : Prop} {Q : List Instr}

theorem State.winSeen_keeps {s : State} (h : s.Keeps P Q) (w idx : Nat) : (State.winSeen s w idx).Keeps P Q := by
  unfold State.winSeen
  repeat' first
    | with_reducible exact h
    | with_reducible assumption
    | simp only [↓keeps_upd]
    | intro _
    | refine fst_keeps (by assumption) ?_
    | refine snd_keeps (by assumption) ?_
    | split
    | dsimp only


theorem State.winStore_keeps {s : State} (h : s.Keeps P Q) (ag : Agent) (w idx first : Nat) (ws : List Word) : (State.winStore s ag w idx first ws).Keeps P Q := by
  unfold State.winStore
  repeat' first
    | with_reducible exact h
    | with_reducible assumption
    | simp only [↓keeps_upd]
    | with_reducible apply State.presetStore_keeps
    | with_reducible apply State.gldStore_keeps
    | with_reducible apply State.allocWrite_keeps
    | with_reducible apply State.putEntry_keeps
    | with_reducible apply State.fsiStore_keeps
    | with_reducible apply State.cpgStore_keeps
    | with_reducible apply State.schStore_keeps
    | with_reducible apply State.ctxStore_keeps
    | with_reducible apply State.tlyStore_keeps
    | with_reducible apply State.tlyApply_keeps
    | with_reducible apply State.putWord_keeps
    | with_reducible apply foldl_keeps
    | intro _
    | refine fst_keeps (by assumption) ?_
    | refine snd_keeps (by assumption) ?_
    | split
    | dsimp only


theorem State.winDone_keeps {s : State} (h : s.Keeps P Q) (ag : Agent) (rd : Bool) (w idx : Nat) (c : WinCode) : (State.winDone s ag rd w idx c).Keeps P Q := by
  unfold State.winDone
  repeat' first
    | with_reducible exact h
    | with_reducible assumption
    | simp only [↓keeps_upd]
    | with_reducible apply State.putWord_keeps
    | with_reducible apply State.deny_keeps
    | with_reducible apply State.denyAs_keeps
    | with_reducible apply State.msi_keeps
    | intro _
    | refine fst_keeps (by assumption) ?_
    | refine snd_keeps (by assumption) ?_
    | split
    | dsimp only


theorem State.winCmd_keeps {s : State} (h : s.Keeps P Q) (ag : Agent) (w : Nat) (v : Word) : (State.winCmd s ag w v).Keeps P Q := by
  unfold State.winCmd
  repeat' first
    | with_reducible exact h
    | with_reducible assumption
    | simp only [↓keeps_upd]
    | with_reducible apply State.count_keeps
    | with_reducible apply ok_keeps
    | with_reducible apply State.drop_keeps
    | with_reducible apply State.putWord_keeps
    | with_reducible apply State.winSeen_keeps
    | with_reducible apply State.winDone_keeps
    | with_reducible apply State.winStore_keeps
    | with_reducible apply foldl_keeps
    | intro _
    | refine fst_keeps (by assumption) ?_
    | refine snd_keeps (by assumption) ?_
    | split
    | dsimp only


end Sys2Proof.Machine
end

