-- ==== Sys2Proof/Laws/KeepsRegWrite.lean ====
section
/-! SUPPORT. Generated: the operations of Machine/RegWrite.lean leave the queue and the canonical form alone. -/

namespace Sys2Proof.Machine

set_option autoImplicit false
set_option linter.unusedTactic false
set_option linter.unreachableTactic false
set_option linter.unusedSimpArgs false

variable {P : Prop} {Q : List Instr}

theorem nextOr_keeps {s : State} (h : s.Keeps P Q) (o : Host.Outcome State Fault Refusal) (ho : Completes o (State.Keeps P Q)) :
    (nextOr s o).Keeps P Q := by
  obtain ⟨t, rfl, ht⟩ := ho
  exact ht


theorem State.plainWrite_keeps {s : State} (h : s.Keeps P Q) (ag : Agent) (a : Nat) (v : Word) : (State.plainWrite s ag a v).Keeps P Q := by
  unfold State.plainWrite
  repeat' first
    | with_reducible exact h
    | with_reducible assumption
    | simp only [↓keeps_upd]
    | with_reducible apply State.gate_keeps
    | with_reducible apply State.storeWord_keeps
    | intro _
    | refine fst_keeps (by assumption) ?_
    | refine snd_keeps (by assumption) ?_
    | split
    | dsimp only


theorem State.drop_keeps {s : State} (h : s.Keeps P Q) (ag : Agent) (a : Nat) : (State.drop s ag a).Keeps P Q := by
  unfold State.drop
  repeat' first
    | with_reducible exact h
    | with_reducible assumption
    | simp only [↓keeps_upd]
    | with_reducible apply State.gate_keeps
    | with_reducible apply State.deny_keeps
    | intro _
    | refine fst_keeps (by assumption) ?_
    | refine snd_keeps (by assumption) ?_
    | split
    | dsimp only


theorem State.ctrWrite_keeps {s : State} (h : s.Keeps P Q) (ag : Agent) (a b : Nat) (v : Word) : (State.ctrWrite s ag a b v).Keeps P Q := by
  unfold State.ctrWrite
  refine State.gate_keeps h _ _ _ (fun t ht => ?_)
  split
  · exact ctrs_keeps ht _ _ (State.ctr_lt ht b)
  · exact ht


theorem State.fltRegWrite_keeps {s : State} (h : s.Keeps P Q) (ag : Agent) (a : Nat) (v : Word) : (State.fltRegWrite s ag a v).Keeps P Q := by
  unfold State.fltRegWrite
  repeat' first
    | with_reducible exact h
    | with_reducible assumption
    | simp only [↓keeps_upd]
    | with_reducible apply State.fltCtrl_keeps
    | with_reducible apply State.gate_keeps
    | with_reducible apply State.isoCmd_keeps
    | with_reducible apply State.kindWrite_keeps
    | with_reducible apply State.kindClear_keeps
    | with_reducible apply State.plainWrite_keeps
    | intro _
    | refine fst_keeps (by assumption) ?_
    | refine snd_keeps (by assumption) ?_
    | split
    | dsimp only


theorem State.tlyRegWrite_keeps {s : State} (h : s.Keeps P Q) (ag : Agent) (a : Nat) (v : Word) : (State.tlyRegWrite s ag a v).Keeps P Q := by
  unfold State.tlyRegWrite
  repeat' first
    | with_reducible exact h
    | with_reducible assumption
    | simp only [↓keeps_upd]
    | with_reducible apply State.tlyCtrl_keeps
    | with_reducible apply State.drop_keeps
    | with_reducible apply State.plainWrite_keeps
    | with_reducible apply State.gate_keeps
    | with_reducible apply State.storeWord_keeps
    | with_reducible apply State.deny_keeps
    | intro _
    | refine fst_keeps (by assumption) ?_
    | refine snd_keeps (by assumption) ?_
    | split
    | dsimp only


theorem State.slewWrite_keeps {s : State} (h : s.Keeps P Q) (ag : Agent) (a : Nat) (v : Word) : (State.slewWrite s ag a v).Keeps P Q := by
  unfold State.slewWrite
  repeat' first
    | with_reducible exact h
    | with_reducible assumption
    | simp only [↓keeps_upd]
    | with_reducible apply State.gate_keeps
    | with_reducible apply State.storeWord_keeps
    | intro _
    | refine fst_keeps (by assumption) ?_
    | refine snd_keeps (by assumption) ?_
    | split
    | dsimp only


theorem State.hrlRegWrite_keeps {s : State} (h : s.Keeps P Q) (ag : Agent) (a : Nat) (v : Word) : (State.hrlRegWrite s ag a v).Keeps P Q := by
  unfold State.hrlRegWrite
  repeat' first
    | with_reducible apply nextOr_keeps
    | with_reducible exact h
    | with_reducible assumption
    | simp only [↓keeps_upd]
    | with_reducible apply execSwitchOutput_keeps
    | with_reducible apply execOutStep_keeps
    | with_reducible apply State.plainWrite_keeps
    | with_reducible apply State.slewWrite_keeps
    | with_reducible apply execDomainEnWrite_keeps
    | with_reducible apply State.gate_keeps
    | with_reducible apply State.putWord_keeps
    | with_reducible apply execPhaseSampleCommit_keeps
    | with_reducible apply execReacquire_keeps
    | intro _
    | refine fst_keeps (by assumption) ?_
    | refine snd_keeps (by assumption) ?_
    | split
    | dsimp only


theorem State.clearAdj_keeps {s : State} (h : s.Keeps P Q) : (State.clearAdj s).Keeps P Q := by
  unfold State.clearAdj
  repeat' first
    | with_reducible exact h
    | with_reducible assumption
    | simp only [↓keeps_upd]
    | with_reducible apply State.wr_keeps
    | with_reducible apply foldl_keeps
    | intro _
    | refine fst_keeps (by assumption) ?_
    | refine snd_keeps (by assumption) ?_
    | split
    | dsimp only


theorem State.twnCfgWrite_keeps {s : State} (h : s.Keeps P Q) (ag : Agent) (v : Word) : (State.twnCfgWrite s ag v).Keeps P Q := by
  unfold State.twnCfgWrite
  repeat' first
    | with_reducible exact h
    | with_reducible assumption
    | simp only [↓keeps_upd]
    | with_reducible apply State.gate_keeps
    | with_reducible apply State.storeWord_keeps
    | with_reducible apply State.clearAdj_keeps
    | with_reducible apply State.claim_keeps
    | with_reducible apply State.recompute_keeps
    | with_reducible apply State.takeRoles_keeps
    | intro _
    | refine fst_keeps (by assumption) ?_
    | refine snd_keeps (by assumption) ?_
    | split
    | dsimp only


theorem State.twnRegWrite_keeps {s : State} (h : s.Keeps P Q) (ag : Agent) (a : Nat) (v : Word) : (State.twnRegWrite s ag a v).Keeps P Q := by
  unfold State.twnRegWrite
  repeat' first
    | with_reducible apply nextOr_keeps
    | with_reducible exact h
    | with_reducible assumption
    | simp only [↓keeps_upd]
    | with_reducible apply State.twnCfgWrite_keeps
    | with_reducible apply execTake_keeps
    | with_reducible apply execGive_keeps
    | with_reducible apply State.gate_keeps
    | with_reducible apply State.plainWrite_keeps
    | intro _
    | refine fst_keeps (by assumption) ?_
    | refine snd_keeps (by assumption) ?_
    | split
    | dsimp only


theorem State.shlRegWrite_keeps {s : State} (h : s.Keeps P Q) (ag : Agent) (a : Nat) (v : Word) : (State.shlRegWrite s ag a v).Keeps P Q := by
  unfold State.shlRegWrite
  repeat' first
    | with_reducible exact h
    | with_reducible assumption
    | simp only [↓keeps_upd]
    | with_reducible apply State.fabCfgWrite_keeps
    | with_reducible apply State.laneCfgWrite_keeps
    | with_reducible apply State.ltWrite_keeps
    | with_reducible apply State.plainWrite_keeps
    | intro _
    | refine fst_keeps (by assumption) ?_
    | refine snd_keeps (by assumption) ?_
    | split
    | dsimp only


theorem State.hstRegWrite_keeps {s : State} (h : s.Keeps P Q) (ag : Agent) (a : Nat) (v : Word) : (State.hstRegWrite s ag a v).Keeps P Q := by
  unfold State.hstRegWrite
  repeat' first
    | with_reducible exact h
    | with_reducible assumption
    | simp only [↓keeps_upd]
    | with_reducible apply State.drop_keeps
    | with_reducible apply State.plainWrite_keeps
    | with_reducible apply State.rearm_keeps
    | with_reducible apply State.vfPorts_keeps
    | with_reducible apply State.ringCfg_keeps
    | with_reducible apply State.ringTail_keeps
    | with_reducible apply State.ringOther_keeps
    | with_reducible apply State.ltWrite_keeps
    | intro _
    | refine fst_keeps (by assumption) ?_
    | refine snd_keeps (by assumption) ?_
    | split
    | dsimp only


theorem State.keyRegWrite_keeps {s : State} (h : s.Keeps P Q) (ag : Agent) (a : Nat) (v : Word) : (State.keyRegWrite s ag a v).Keeps P Q := by
  unfold State.keyRegWrite
  repeat' first
    | with_reducible apply nextOr_keeps
    | with_reducible exact h
    | with_reducible assumption
    | simp only [↓keeps_upd]
    | with_reducible apply State.plainWrite_keeps
    | with_reducible apply State.hostTlp_keeps
    | with_reducible apply execKeyLoad_keeps
    | with_reducible apply execKeyActivate_keeps
    | with_reducible apply execKeyErase_keeps
    | with_reducible apply execKeyRestore_keeps
    | with_reducible apply State.keyGate_keeps
    | with_reducible apply State.putWord_keeps
    | with_reducible apply State.deny_keeps
    | intro _
    | refine fst_keeps (by assumption) ?_
    | refine snd_keeps (by assumption) ?_
    | split
    | dsimp only


theorem State.cpgRegWrite_keeps {s : State} (h : s.Keeps P Q) (ag : Agent) (a : Nat) (v : Word) : (State.cpgRegWrite s ag a v).Keeps P Q := by
  unfold State.cpgRegWrite
  repeat' first
    | with_reducible apply nextOr_keeps
    | with_reducible exact h
    | with_reducible assumption
    | simp only [↓keeps_upd]
    | with_reducible apply execCellarEnable_keeps
    | with_reducible apply execPoolCfgWrite_keeps
    | with_reducible apply State.plainWrite_keeps
    | with_reducible apply execFreeStw_keeps
    | intro _
    | refine fst_keeps (by assumption) ?_
    | refine snd_keeps (by assumption) ?_
    | split
    | dsimp only


theorem State.keepProf_keeps {s : State} (h : s.Keeps P Q) (p j : Nat) : (State.keepProf s p j).Keeps P Q := by
  unfold State.keepProf
  repeat' first
    | with_reducible exact h
    | with_reducible assumption
    | simp only [↓keeps_upd]
    | intro _
    | refine fst_keeps (by assumption) ?_
    | refine snd_keeps (by assumption) ?_
    | split
    | dsimp only


theorem State.xprRegWrite_keeps {s : State} (h : s.Keeps P Q) (ag : Agent) (a : Nat) (v : Word) : (State.xprRegWrite s ag a v).Keeps P Q := by
  unfold State.xprRegWrite
  repeat' first
    | with_reducible exact h
    | with_reducible assumption
    | simp only [↓keeps_upd]
    | with_reducible apply State.gate_keeps
    | with_reducible apply State.keepProf_keeps
    | with_reducible apply State.storeWord_keeps
    | with_reducible apply State.plainWrite_keeps
    | intro _
    | refine fst_keeps (by assumption) ?_
    | refine snd_keeps (by assumption) ?_
    | split
    | dsimp only


theorem State.ldgRegWrite_keeps {s : State} (h : s.Keeps P Q) (ag : Agent) (a : Nat) (v : Word) : (State.ldgRegWrite s ag a v).Keeps P Q := by
  unfold State.ldgRegWrite
  repeat' first
    | with_reducible exact h
    | with_reducible assumption
    | simp only [↓keeps_upd]
    | with_reducible apply State.gate_keeps
    | with_reducible apply State.ldgIssue_keeps
    | with_reducible apply State.deny_keeps
    | with_reducible apply State.storeWord_keeps
    | with_reducible apply State.plainWrite_keeps
    | intro _
    | refine fst_keeps (by assumption) ?_
    | refine snd_keeps (by assumption) ?_
    | split
    | dsimp only


theorem State.exmRegWrite_keeps {s : State} (h : s.Keeps P Q) (ag : Agent) (a : Nat) (v : Word) : (State.exmRegWrite s ag a v).Keeps P Q := by
  unfold State.exmRegWrite
  repeat' first
    | with_reducible exact h
    | with_reducible assumption
    | simp only [↓keeps_upd]
    | with_reducible apply State.gate_keeps
    | with_reducible apply State.storeWord_keeps
    | with_reducible apply State.deny_keeps
    | with_reducible apply State.plainWrite_keeps
    | intro _
    | refine fst_keeps (by assumption) ?_
    | refine snd_keeps (by assumption) ?_
    | split
    | dsimp only


theorem State.usCfgWrite_keeps {s : State} (h : s.Keeps P Q) (ag : Agent) (p : Fin 32) (a : Nat) (v : Word) : (State.usCfgWrite s ag p a v).Keeps P Q := by
  unfold State.usCfgWrite
  repeat' first
    | with_reducible exact h
    | with_reducible assumption
    | simp only [↓keeps_upd]
    | with_reducible apply State.gate_keeps
    | with_reducible apply State.storeWord_keeps
    | with_reducible apply State.wr_keeps
    | with_reducible apply State.mirror_keeps
    | intro _
    | refine fst_keeps (by assumption) ?_
    | refine snd_keeps (by assumption) ?_
    | split
    | dsimp only


theorem State.ptRegWrite_keeps {s : State} (h : s.Keeps P Q) (ag : Agent) (p : Fin 32) (a : Nat) (v : Word) :
    (State.ptRegWrite s ag p a v).Keeps P Q := by
  unfold State.ptRegWrite
  extract_lets o
  refine ite_keeps (nextOr_keeps h _ (execDsEnableWrite_keeps h ..)) ?_
  refine ite_keeps (nextOr_keeps h _ (execPhaseOffsetWrite_keeps h ..)) ?_
  refine ite_keeps (nextOr_keeps h _ (execOcbCommit_keeps h ..)) ?_
  refine ite_keeps (nextOr_keeps h _ (execOcbCommit_keeps h ..)) ?_
  refine ite_keeps (nextOr_keeps h _ (execAlignModeWrite_keeps h ..)) ?_
  refine ite_keeps (State.usCfgWrite_keeps h ..) ?_
  refine ite_keeps (nextOr_keeps h _ (execTeqdWrite_keeps h ..)) ?_
  refine ite_keeps (nextOr_keeps h _ (execReachWrite_keeps h ..)) ?_
  refine ite_keeps (State.actWrite_keeps h ..) ?_
  refine ite_keeps (State.ltWrite_keeps h ..) ?_
  refine ite_keeps (State.gate_keeps h _ _ _ (fun t ht => State.rampCheck_keeps (State.mirror_keeps (State.storeWord_keeps ht ..) ..) ..)) ?_
  exact State.plainWrite_keeps h ..


theorem State.gldRegWrite_keeps {s : State} (h : s.Keeps P Q) (ag : Agent) (g : Fin 64) (a : Nat) (v : Word) : (State.gldRegWrite s ag g a v).Keeps P Q := by
  unfold State.gldRegWrite
  repeat' first
    | with_reducible apply nextOr_keeps
    | with_reducible exact h
    | with_reducible assumption
    | simp only [↓keeps_upd]
    | with_reducible apply State.gldCtrl_keeps
    | with_reducible apply execValidateBank_keeps
    | with_reducible apply State.gate_keeps
    | with_reducible apply State.plainWrite_keeps
    | intro _
    | refine fst_keeps (by assumption) ?_
    | refine snd_keeps (by assumption) ?_
    | split
    | dsimp only


theorem State.bootRegWrite_keeps {s : State} (h : s.Keeps P Q) (ag : Agent) (a : Nat) (v : Word) : (State.bootRegWrite s ag a v).Keeps P Q := by
  unfold State.bootRegWrite
  repeat' first
    | with_reducible exact h
    | with_reducible assumption
    | simp only [↓keeps_upd]
    | with_reducible apply State.bootCmd_keeps
    | with_reducible apply State.fwCtrl_keeps
    | with_reducible apply State.plainWrite_keeps
    | intro _
    | refine fst_keeps (by assumption) ?_
    | refine snd_keeps (by assumption) ?_
    | split
    | dsimp only


theorem State.blockWrite_keeps {s : State} (h : s.Keeps P Q) (ag : Agent) (b : Blk) (inst a : Nat) (v : Word) : (State.blockWrite s ag b inst a v).Keeps P Q := by
  unfold State.blockWrite
  repeat' first
    | with_reducible apply nextOr_keeps
    | with_reducible exact h
    | with_reducible assumption
    | simp only [↓keeps_upd]
    | with_reducible apply State.lockWrite_keeps
    | with_reducible apply State.glbReset_keeps
    | with_reducible apply State.plainWrite_keeps
    | with_reducible apply State.fltRegWrite_keeps
    | with_reducible apply State.tlyRegWrite_keeps
    | with_reducible apply State.hrlRegWrite_keeps
    | with_reducible apply State.bootRegWrite_keeps
    | with_reducible apply State.twnRegWrite_keeps
    | with_reducible apply State.shlRegWrite_keeps
    | with_reducible apply State.hstRegWrite_keeps
    | with_reducible apply State.keyRegWrite_keeps
    | with_reducible apply State.cpgRegWrite_keeps
    | with_reducible apply State.xprRegWrite_keeps
    | with_reducible apply State.ldgRegWrite_keeps
    | with_reducible apply State.exmRegWrite_keeps
    | with_reducible apply State.ptRegWrite_keeps
    | with_reducible apply execSwapRequest_keeps
    | with_reducible apply State.ulkWrite_keeps
    | with_reducible apply State.ltWrite_keeps
    | with_reducible apply State.gldRegWrite_keeps
    | intro _
    | refine fst_keeps (by assumption) ?_
    | refine snd_keeps (by assumption) ?_
    | split
    | dsimp only


theorem State.portWrite_keeps {s : State} (h : s.Keeps P Q) (ag : Agent) (w o : Nat) (v : Word) : (State.portWrite s ag w o v).Keeps P Q := by
  unfold State.portWrite
  repeat' first
    | with_reducible exact h
    | with_reducible assumption
    | simp only [↓keeps_upd]
    | with_reducible apply State.putWord_keeps
    | with_reducible apply State.winCmd_keeps
    | intro _
    | refine fst_keeps (by assumption) ?_
    | refine snd_keeps (by assumption) ?_
    | split
    | dsimp only


theorem State.portRead_keeps {s : State} (h : s.Keeps P Q) (ag : Agent) (w o : Nat) : (State.portRead s ag w o).Keeps P Q := by
  unfold State.portRead
  repeat' first
    | with_reducible exact h
    | with_reducible assumption
    | simp only [↓keeps_upd]
    | with_reducible apply State.answer_keeps
    | intro _
    | refine fst_keeps (by assumption) ?_
    | refine snd_keeps (by assumption) ?_
    | split
    | dsimp only


theorem State.hostWinWrite_keeps {s : State} (h : s.Keeps P Q) (ag : Agent) (a x : Nat) (v : Word) : (State.hostWinWrite s ag a x v).Keeps P Q := by
  unfold State.hostWinWrite
  repeat' first
    | with_reducible exact h
    | with_reducible assumption
    | simp only [↓keeps_upd]
    | with_reducible apply State.deny_keeps
    | with_reducible apply foldl_keeps
    | intro _
    | refine fst_keeps (by assumption) ?_
    | refine snd_keeps (by assumption) ?_
    | split
    | dsimp only


theorem State.hostWinRead_keeps {s : State} (h : s.Keeps P Q) (ag : Agent) (a x : Nat) : (State.hostWinRead s ag a x).Keeps P Q := by
  unfold State.hostWinRead
  repeat' first
    | with_reducible exact h
    | with_reducible assumption
    | simp only [↓keeps_upd]
    | with_reducible apply State.denyAs_keeps
    | with_reducible apply State.answer_keeps
    | intro _
    | refine fst_keeps (by assumption) ?_
    | refine snd_keeps (by assumption) ?_
    | split
    | dsimp only


theorem State.pfWrite_keeps {s : State} (h : s.Keeps P Q) (ag : Agent) (a : Nat) (v : Word) : (State.pfWrite s ag a v).Keeps P Q := by
  unfold State.pfWrite
  repeat' first
    | with_reducible exact h
    | with_reducible assumption
    | simp only [↓keeps_upd]
    | with_reducible apply State.hostTlp_keeps
    | with_reducible apply State.hostWinWrite_keeps
    | with_reducible apply State.portWrite_keeps
    | with_reducible apply State.deny_keeps
    | with_reducible apply State.place_keeps
    | with_reducible apply State.ctrWrite_keeps
    | with_reducible apply State.blockWrite_keeps
    | intro _
    | refine fst_keeps (by assumption) ?_
    | refine snd_keeps (by assumption) ?_
    | split
    | dsimp only


theorem State.pfRead_keeps {s0 : State} (h : s0.Keeps P Q) (ag : Agent) (a : Nat) : (State.pfRead s0 ag a).Keeps P Q := by
  unfold State.pfRead
  repeat' first
    | with_reducible apply nextOr_keeps
    | with_reducible exact h
    | with_reducible assumption
    | simp only [↓keeps_upd]
    | with_reducible apply State.hostTlp_keeps
    | with_reducible apply State.denyAs_keeps
    | with_reducible apply State.answer_keeps
    | with_reducible apply State.hostWinRead_keeps
    | with_reducible apply State.portRead_keeps
    | with_reducible apply execFaultQueueRead_keeps
    | with_reducible apply execTsRecordRead_keeps
    | with_reducible apply State.readWord_keeps
    | intro _
    | refine fst_keeps (by assumption) ?_
    | refine snd_keeps (by assumption) ?_
    | split
    | dsimp only


theorem State.vfWrite_keeps {s : State} (h : s.Keeps P Q) (v : Fin 32) (off : Nat) (x : Word) : (State.vfWrite s v off x).Keeps P Q := by
  have h1 : (s.hostTlp false (.vf v) off).Keeps P Q := State.hostTlp_keeps h ..
  unfold State.vfWrite
  dsimp only
  split
  · split
    · split
      · exact ctrs_keeps h1 _ _ (State.ctr_lt h1 _)
      · exact h1
    · exact ite_keeps (State.ringCfg_keeps h ..) (ite_keeps (State.ringTail_keeps h ..) (State.ringOther_keeps h ..))
  · split
    · exact State.portWrite_keeps (State.takeFree_keeps h1) ..
    · exact State.deny_keeps h1 ..


theorem State.vfRead_keeps {s0 : State} (h : s0.Keeps P Q) (v : Fin 32) (off : Nat) : (State.vfRead s0 v off).Keeps P Q := by
  unfold State.vfRead
  repeat' first
    | with_reducible exact h
    | with_reducible assumption
    | simp only [↓keeps_upd]
    | with_reducible apply State.hostTlp_keeps
    | with_reducible apply State.readWord_keeps
    | with_reducible apply State.portRead_keeps
    | with_reducible apply State.denyAs_keeps
    | with_reducible apply State.answer_keeps
    | intro _
    | refine fst_keeps (by assumption) ?_
    | refine snd_keeps (by assumption) ?_
    | split
    | dsimp only


theorem State.msixWrite_keeps {s : State} (h : s.Keeps P Q) (ag : Agent) (off : Nat) (v : Word) : (State.msixWrite s ag off v).Keeps P Q := by
  unfold State.msixWrite
  repeat' first
    | with_reducible exact h
    | with_reducible assumption
    | simp only [↓keeps_upd]
    | with_reducible apply State.deny_keeps
    | with_reducible apply State.hostTlp_keeps
    | with_reducible apply State.putWord_keeps
    | with_reducible apply State.msiFlush_keeps
    | intro _
    | refine fst_keeps (by assumption) ?_
    | refine snd_keeps (by assumption) ?_
    | split
    | dsimp only


theorem State.msixRead_keeps {s0 : State} (h : s0.Keeps P Q) (ag : Agent) (off : Nat) : (State.msixRead s0 ag off).Keeps P Q := by
  unfold State.msixRead
  repeat' first
    | with_reducible exact h
    | with_reducible assumption
    | simp only [↓keeps_upd]
    | with_reducible apply State.denyAs_keeps
    | with_reducible apply State.answer_keeps
    | with_reducible apply State.hostTlp_keeps
    | intro _
    | refine fst_keeps (by assumption) ?_
    | refine snd_keeps (by assumption) ?_
    | split
    | dsimp only


theorem State.regWrite_keeps {s : State} (h : s.Keeps P Q) (ag : Agent) (bar : Bar) (off : Nat) (v : Word) : (State.regWrite s ag bar off v).Keeps P Q := by
  unfold State.regWrite
  repeat' first
    | with_reducible exact h
    | with_reducible assumption
    | simp only [↓keeps_upd]
    | with_reducible apply State.vfWrite_keeps
    | with_reducible apply State.pfWrite_keeps
    | with_reducible apply State.msixWrite_keeps
    | with_reducible apply State.hostTlp_keeps
    | with_reducible apply State.deny_keeps
    | intro _
    | refine fst_keeps (by assumption) ?_
    | refine snd_keeps (by assumption) ?_
    | split
    | dsimp only


theorem State.regRead_keeps {s : State} (h : s.Keeps P Q) (ag : Agent) (bar : Bar) (off : Nat) : (State.regRead s ag bar off).Keeps P Q := by
  unfold State.regRead
  repeat' first
    | with_reducible exact h
    | with_reducible assumption
    | simp only [↓keeps_upd]
    | with_reducible apply State.vfRead_keeps
    | with_reducible apply State.pfRead_keeps
    | with_reducible apply State.msixRead_keeps
    | with_reducible apply State.hostTlp_keeps
    | with_reducible apply State.readCounters_keeps
    | intro _
    | refine fst_keeps (by assumption) ?_
    | refine snd_keeps (by assumption) ?_
    | split
    | dsimp only


end Sys2Proof.Machine
end

