-- ==== Sys2Proof/Laws/KeepsImage.lean ====
section
/-! SUPPORT. Generated: the operations of Machine/Image.lean leave the queue and the canonical form alone. -/

namespace Sys2Proof.Machine

set_option autoImplicit false
set_option linter.unusedTactic false
set_option linter.unreachableTactic false
set_option linter.unusedSimpArgs false

variable {P : Prop} {Q : List Instr}

theorem State.openLocks_keeps {s : State} (h : s.Keeps P Q) : (State.openLocks s).Keeps P Q := by
  unfold State.openLocks
  repeat' first
    | with_reducible exact h
    | with_reducible assumption
    | simp only [↓keeps_upd]
    | with_reducible apply State.wr_keeps
    | with_reducible apply foldl_keeps
    | intro _
    | refine fst_keeps (by assumption) ?_
    | refine snd_keeps (by assumption) ?_
    | split
    | dsimp only


theorem applyAll_keeps {α : Type} (f : State → α → Option State) (hf : ∀ t x r, t.Keeps P Q → f t x = some r → r.Keeps P Q) (l : List α)
    {s : State} (h : s.Keeps P Q) (r : State) (e : applyAll f l s = some r) : r.Keeps P Q := by
  induction l generalizing s with
  | nil => cases e; exact h
  | cons x l ih =>
    unfold applyAll at e
    split at e
    · cases e
    · next s1 e1 => exact ih (hf _ _ _ h e1) e

theorem State.unlessDenied_keeps {s t : State} (ht : t.Keeps P Q) (r : State) (e : State.unlessDenied s t = some r) : r.Keeps P Q := by
  unfold State.unlessDenied at e
  split at e <;> cases e
  exact ht


theorem State.deviceWrite_keeps {s : State} (h : s.Keeps P Q) (x : DevWr) (r : State) (e : State.deviceWrite s x = some r) : r.Keeps P Q := by
  unfold State.deviceWrite at e
  split at e
  · cases e
  · dsimp only at e
    split at e
    · cases e
    · split at e
      · cases e
      · exact State.unlessDenied_keeps (State.regWrite_keeps h ..) _ e


theorem State.tableWrite_keeps {s : State} (h : s.Keeps P Q) (x : TabWr) (r : State) (e : State.tableWrite s x = some r) : r.Keeps P Q := by
  unfold State.tableWrite at e
  split at e
  · exact State.unlessDenied_keeps (State.winStore_keeps h ..) _ e
  · cases e


theorem State.rowImage_keeps {s : State} (h : s.Keeps P Q) (i : Nat) (x : LEnt) (r : State) (e : State.rowImage s i x = some r) : r.Keeps P Q := by
  unfold State.rowImage at e
  dsimp only at e
  split at e
  · cases e
  · split at e <;> cases e
    · exact h
    · exact State.setRow_keeps h ..


theorem State.cellImage_keeps {s : State} (h : s.Keeps P Q) (i : Nat) (c : Cell) (r : State) (e : State.cellImage s i c = some r) : r.Keeps P Q := by
  unfold State.cellImage at e
  split at e
  · cases e
  · split at e <;> cases e
    exact State.setCell_keeps h ..


theorem State.segmentImage_keeps {s : State} (h : s.Keeps P Q) (g : Nat) (ws : List Word) (r : State) (e : State.segmentImage s g ws = some r) :
    r.Keeps P Q := by
  unfold State.segmentImage at e
  split at e
  · cases e
  · split at e
    · cases e
      exact h
    · dsimp only at e
      split at e <;> cases e
      exact State.gldCommand_keeps (State.wr_keeps (State.gldStore_keeps h ..) ..) ..


theorem State.algImage_keeps {s : State} (h : s.Keeps P Q) (c : List (Nat × List Word)) (r : State) (e : State.algImage s c = some r) : r.Keeps P Q := by
  unfold State.algImage at e
  split at e <;> cases e
  exact State.wr_keeps (foldl_keeps _ _ h (fun t x ht => State.putEntry_keeps ht ..)) ..


theorem State.fsiImage_keeps {s : State} (h : s.Keeps P Q) (x : Nat × Nat × Word) (r : State) (e : State.fsiImage s x = some r) : r.Keeps P Q := by
  unfold State.fsiImage at e
  dsimp only at e
  split at e
  · cases e
  · split at e <;> cases e
    exact State.fsiStore_keeps h ..


theorem State.linkImage_keeps {s : State} (h : s.Keeps P Q) (img : Image) : (State.linkImage s img).Keeps P Q := by
  unfold State.linkImage
  repeat' first
    | with_reducible exact h
    | with_reducible assumption
    | simp only [↓keeps_upd]
    | with_reducible apply State.loadLinks_keeps
    | intro _
    | refine fst_keeps (by assumption) ?_
    | refine snd_keeps (by assumption) ?_
    | split
    | dsimp only


theorem State.keepImage_keeps {s : State} (h : s.Keeps P Q) (img : Image) : (State.keepImage s img).Keeps P Q := by
  unfold State.keepImage
  repeat' first
    | with_reducible exact h
    | with_reducible assumption
    | simp only [↓keeps_upd]
    | with_reducible apply State.linkImage_keeps
    | intro _
    | refine fst_keeps (by assumption) ?_
    | refine snd_keeps (by assumption) ?_
    | split
    | dsimp only


theorem State.applyImage_keeps {s : State} (h : s.Keeps P Q) (img : Image) (r : State) (e : State.applyImage s img = some r) : r.Keeps P Q := by
  unfold State.applyImage at e
  split at e
  · cases e
  · next s1 e1 =>
    have h1 := applyAll_keeps _ (fun t x r ht e => State.deviceWrite_keeps ht x r e) _ (State.openLocks_keeps h) _ e1
    split at e
    · cases e
    · next s2 e2 =>
      have h2 := applyAll_keeps _ (fun t x r ht e => State.tableWrite_keeps ht x r e) _ h1 _ e2
      split at e
      · cases e
      · next s3 e3 =>
        have h3 := applyAll_keeps _ (fun t x r ht e => State.rowImage_keeps ht _ _ r e) _ h2 _ e3
        split at e
        · cases e
        · next s4 e4 =>
          have h4 := applyAll_keeps _ (fun t x r ht e => State.cellImage_keeps ht _ _ r e) _ h3 _ e4
          split at e
          · cases e
          · next s5 e5 =>
            have h5 := applyAll_keeps _ (fun t x r ht e => State.segmentImage_keeps ht _ _ r e) _ h4 _ e5
            split at e
            · cases e
            · next s6 e6 =>
              have h6 : s6.Keeps P Q := by
                split at e6
                · exact State.algImage_keeps h5 _ _ e6
                · cases e6
                  exact h5
              cases hf : applyAll State.fsiImage img.fsi s6 with
              | none =>
                rw [hf] at e
                cases e
              | some t =>
                rw [hf] at e
                cases e
                exact State.keepImage_keeps (applyAll_keeps _ (fun t x r ht e => State.fsiImage_keeps ht _ r e) _ h6 _ hf) ..


theorem State.unwriteWords_keeps {s : State} (h : s.Keeps P Q) (cs : List Nat) : (State.unwriteWords s cs).Keeps P Q := by
  unfold State.unwriteWords
  extract_lets s1 m s2
  have h1 : s1.Keeps P Q := ⟨h.1, fun w => ⟨Tab.wf_filter _ _ _ (h.2 w).1, (h.2 w).2⟩⟩
  have h2 : s2.Keeps P Q := foldl_keeps _ _ h1 (fun t p ht => State.putWord_keeps ht ..)
  exact State.wr_keeps (State.wr_keeps (State.wr_keeps h2 ..) ..) ..


theorem State.unwrite_keeps {s : State} (h : s.Keeps P Q) (img : Image) : (State.unwrite s img).Keeps P Q := by
  unfold State.unwrite
  dsimp only
  refine ite_keeps (State.recompute_keeps (State.claim_keeps (State.takeRoles_keeps ?_))) ?_
  all_goals
    refine foldl_keeps _ _ ?_ (fun t n ht => State.sealChange_keeps (State.eraseRoot_keeps ht ..) ..)
    simp only [↓keeps_upd]
    exact State.unwriteWords_keeps h ..


theorem State.bankBad_keeps {s : State} (h : s.Keeps P Q) (bank sect reason : Nat) : (State.bankBad s bank sect reason).Keeps P Q := by
  unfold State.bankBad
  repeat' first
    | with_reducible exact h
    | with_reducible assumption
    | simp only [↓keeps_upd]
    | with_reducible apply State.raise_keeps
    | with_reducible apply State.nextBank_keeps
    | intro _
    | refine fst_keeps (by assumption) ?_
    | refine snd_keeps (by assumption) ?_
    | split
    | dsimp only


theorem State.bankDone_keeps {s : State} (h : s.Keeps P Q) (bank : Nat) (img : Image) : (State.bankDone s bank img).Keeps P Q := by
  unfold State.bankDone
  repeat' first
    | with_reducible exact h
    | with_reducible assumption
    | simp only [↓keeps_upd]
    | with_reducible apply State.wr_keeps
    | with_reducible apply State.endCause_keeps
    | with_reducible apply State.bootDone_keeps
    | intro _
    | refine fst_keeps (by assumption) ?_
    | refine snd_keeps (by assumption) ?_
    | split
    | dsimp only


theorem State.setLocks_keeps {s : State} (h : s.Keeps P Q) : (State.setLocks s).Keeps P Q := by
  unfold State.setLocks
  repeat' first
    | with_reducible exact h
    | with_reducible assumption
    | simp only [↓keeps_upd]
    | with_reducible apply State.wr_keeps
    | with_reducible apply foldl_keeps
    | intro _
    | refine fst_keeps (by assumption) ?_
    | refine snd_keeps (by assumption) ?_
    | split
    | dsimp only


theorem State.treeToS2_keeps {s : State} (h : s.Keeps P Q) (p : Fin 32) : (State.treeToS2 s p).Keeps P Q := by
  unfold State.treeToS2
  repeat' first
    | with_reducible exact h
    | with_reducible assumption
    | simp only [↓keeps_upd]
    | with_reducible apply State.broadcastDeactivate_keeps
    | with_reducible apply State.enterRamp_keeps
    | intro _
    | refine fst_keeps (by assumption) ?_
    | refine snd_keeps (by assumption) ?_
    | split
    | dsimp only


end Sys2Proof.Machine
end

