-- ==== Sys2Proof/Laws/KeepsMirror.lean ====
section
/-! SUPPORT. Generated: the operations of Machine/Mirror.lean leave the queue and the canonical form alone. -/

namespace Sys2Proof.Machine

set_option autoImplicit false
set_option linter.unusedTactic false
set_option linter.unreachableTactic false
set_option linter.unusedSimpArgs false

variable {P : Prop} {Q : List Instr}

theorem State.mirrorReg_keeps {s : State} (h : s.Keeps P Q) (p : Fin 32) (a : Nat) (v : Word) : (State.mirrorReg s p a v).Keeps P Q := by
  unfold State.mirrorReg
  repeat' first
    | with_reducible exact h
    | with_reducible assumption
    | simp only [↓keeps_upd]
    | with_reducible apply State.setTwinTree_keeps
    | with_reducible apply State.regWrite_keeps
    | intro _
    | refine fst_keeps (by assumption) ?_
    | refine snd_keeps (by assumption) ?_
    | split
    | dsimp only


theorem State.mirrorWin_keeps {s : State} (h : s.Keeps P Q) (p : Fin 32) (w idx first : Nat) (ws : List Word) : (State.mirrorWin s p w idx first ws).Keeps P Q := by
  unfold State.mirrorWin
  repeat' first
    | with_reducible exact h
    | with_reducible assumption
    | simp only [↓keeps_upd]
    | with_reducible apply State.deny_keeps
    | with_reducible apply State.winStore_keeps
    | intro _
    | refine fst_keeps (by assumption) ?_
    | refine snd_keeps (by assumption) ?_
    | split
    | dsimp only


theorem State.mirrorItem_keeps {s : State} (h : s.Keeps P Q) (p : Fin 32) (w : MirrorWr) : (State.mirrorItem s p w).Keeps P Q := by
  unfold State.mirrorItem
  repeat' first
    | with_reducible exact h
    | with_reducible assumption
    | simp only [↓keeps_upd]
    | with_reducible apply State.mirrorReg_keeps
    | with_reducible apply State.mirrorWin_keeps
    | with_reducible apply State.requestSwap_keeps
    | intro _
    | refine fst_keeps (by assumption) ?_
    | refine snd_keeps (by assumption) ?_
    | split
    | dsimp only


theorem State.loadSfc_keeps {s : State} (h : s.Keeps P Q) (p : Fin 32) (n : Nat) : (State.loadSfc s p n).Keeps P Q := by
  unfold State.loadSfc
  repeat' first
    | with_reducible exact h
    | with_reducible assumption
    | simp only [↓keeps_upd]
    | with_reducible apply State.setPort_keeps
    | intro _
    | refine fst_keeps (by assumption) ?_
    | refine snd_keeps (by assumption) ?_
    | split
    | dsimp only


theorem State.syncSlot_keeps {s : State} (h : s.Keeps P Q) (p : Fin 32) (i : Nat) (x : Slot) : (State.syncSlot s p i x).Keeps P Q := by
  unfold State.syncSlot
  repeat' first
    | with_reducible exact h
    | with_reducible assumption
    | simp only [↓keeps_upd]
    | with_reducible apply State.setSlot_keeps
    | with_reducible apply State.provisionShadow_keeps
    | with_reducible apply State.unprovision_keeps
    | intro _
    | refine fst_keeps (by assumption) ?_
    | refine snd_keeps (by assumption) ?_
    | split
    | dsimp only


theorem State.loadSync_keeps {s : State} (h : s.Keeps P Q) (p : Fin 32) (c : SyncCopy) : (State.loadSync s p c).Keeps P Q := by
  unfold State.loadSync
  repeat' first
    | with_reducible exact h
    | with_reducible assumption
    | simp only [↓keeps_upd]
    | with_reducible apply State.mirrorItem_keeps
    | with_reducible apply State.loadSfc_keeps
    | with_reducible apply State.syncSlot_keeps
    | with_reducible apply State.setAlloc_keeps
    | with_reducible apply State.setPlq_keeps
    | with_reducible apply State.setDisc_keeps
    | with_reducible apply State.setTreeSt_keeps
    | with_reducible apply State.setRoot_keeps
    | with_reducible apply State.setTwinTree_keeps
    | with_reducible apply foldl_keeps
    | intro _
    | refine fst_keeps (by assumption) ?_
    | refine snd_keeps (by assumption) ?_
    | split
    | dsimp only


end Sys2Proof.Machine
end

