-- ==== Sys2Proof/Laws/KeepsStep.lean ====
section
/-! SUPPORT. Generated: the operations of Machine/Step.lean leave the queue and the canonical form alone. -/

namespace Sys2Proof.Machine

set_option autoImplicit false
set_option linter.unusedTactic false
set_option linter.unreachableTactic false
set_option linter.unusedSimpArgs false

variable {P : Prop} {Q : List Instr}

theorem idle_keeps {s : State} (h : s.Keeps P Q) : (idle s).Keeps P Q :=
  ⟨h.1, fun w => ⟨(h.2 w).1, (h.2 w).2.1, (h.2 w).2.2.1, (h.2 w).2.2.2.1, Nat.mod_lt _ (by decide), (h.2 w).2.2.2.2.2⟩⟩


end Sys2Proof.Machine
end

