-- ==== Sys2Proof/Laws/Commands.lean ====
section
/-! SUPPORT. Generated: every command answers a next state, with the queue and the canonical form as they were. -/

namespace Sys2Proof.Machine

set_option autoImplicit false
set_option Elab.async false
set_option linter.unusedTactic false
set_option linter.unreachableTactic false
set_option linter.unusedSimpArgs false

variable {P : Prop} {Q : List Instr}

theorem ok_keeps {s : State} (h : s.Keeps P Q) : Completes (ok s) (State.Keeps P Q) := by
  unfold ok
  repeat' first
    | with_reducible refine completes_keeps _ ?_
    | with_reducible exact h
    | with_reducible assumption
    | simp only [↓keeps_upd]
    | intro _
    | refine fst_keeps (by assumption) ?_
    | refine snd_keeps (by assumption) ?_
    | split
    | dsimp only


theorem execMapBuildStart_keeps {s : State} (h : s.Keeps P Q) : Completes (execMapBuildStart s) (State.Keeps P Q) := by
  unfold execMapBuildStart
  extract_lets cap s1 image r built old src wsrc s2
  have h1 : s1.Keeps P Q := foldl_keeps _ _ (foldl_keeps _ _ (State.wr_keeps h ..) (fun t p ht => State.swapAtBuild_keeps ht ..))
    (fun t x ht => State.closeWindows_keeps ht ..)
  have hr : r.1.Keeps P Q := foldl_fst_keeps _ _ h1 (fun a x ha => State.buildOne_keeps ha ..)
  have h2 : s2.Keeps P Q := by
    simp only [s2, ↓keeps_upd]
    exact hr
  clear_value s2 s1
  refine completes_ite (completes_keeps _ h) (completes_keeps _ ?_)
  with_reducible refine foldl_keeps _ _ h2 (fun t p ht => ?_)
  with_reducible exact State.mirror_keeps ht ..


theorem execAssayerCheck_keeps {s : State} (h : s.Keeps P Q) (buildTime assayTime : BitVec 16) (mismatch : List (Fin 32 × Side)) :
    Completes (execAssayerCheck buildTime assayTime mismatch s) (State.Keeps P Q) := by
  unfold execAssayerCheck
  split
  · exact completes_keeps _ h
  · next b e =>
    extract_lets r c d s2
    have hr : r.1.Keeps P Q := State.checkAll_keeps h b
    clear_value r
    have hc : c.1.Keeps P Q := State.rule10_keeps hr r.2
    clear_value c
    have hd : d.1.Keeps P Q := by
      refine foldl_fst_keeps _ _ hc (fun a x ha => ?_)
      dsimp only
      split
      · with_reducible exact State.raise_keeps (ite_keeps ha (State.carry_keeps ha ..)) ..
      · exact ha
    clear_value d
    have h2 : s2.Keeps P Q := State.wr_keeps (State.wr_keeps hd ..) ..
    clear_value s2
    refine completes_keeps _ ?_
    simp only [↓keeps_upd]
    exact h2


theorem execMapRelease_keeps {s : State} (h : s.Keeps P Q) (p : Fin 32) (sd : Side) : Completes (execMapRelease p sd s) (State.Keeps P Q) := by
  unfold execMapRelease
  repeat' first
    | with_reducible refine completes_keeps _ ?_
    | with_reducible exact h
    | with_reducible assumption
    | simp only [↓keeps_upd]
    | with_reducible apply ok_keeps
    | with_reducible apply State.inc_keeps
    | with_reducible apply State.count_keeps
    | with_reducible apply State.carry_keeps
    | with_reducible apply State.shortfalls_keeps
    | with_reducible apply State.setSide_keeps
    | with_reducible apply State.inflight_keeps
    | with_reducible apply State.mirror_keeps
    | intro _
    | refine fst_keeps (by assumption) ?_
    | refine snd_keeps (by assumption) ?_
    | split
    | dsimp only


theorem execAllocWrite_keeps {s : State} (h : s.Keeps P Q) (ag : Agent) (p : Fin 32) (i : Fin 1024) (w0 w1 w2 w3 w4 : Word) : Completes (execAllocWrite ag p i w0 w1 w2 w3 w4 s) (State.Keeps P Q) := by
  unfold execAllocWrite
  repeat' first
    | with_reducible refine completes_keeps _ ?_
    | with_reducible exact h
    | with_reducible assumption
    | simp only [↓keeps_upd]
    | with_reducible apply ok_keeps
    | with_reducible apply State.winGate_keeps
    | with_reducible apply State.deny_keeps
    | with_reducible apply State.allocWrite_keeps
    | intro _
    | refine fst_keeps (by assumption) ?_
    | refine snd_keeps (by assumption) ?_
    | split
    | dsimp only


theorem execFsiPageWrite_keeps {s : State} (h : s.Keeps P Q) (ag : Agent) (idx : BitVec 18) (v : Word) : Completes (execFsiPageWrite ag idx v s) (State.Keeps P Q) := by
  unfold execFsiPageWrite
  repeat' first
    | with_reducible refine completes_keeps _ ?_
    | with_reducible exact h
    | with_reducible assumption
    | simp only [↓keeps_upd]
    | with_reducible apply ok_keeps
    | with_reducible apply State.winGate_keeps
    | with_reducible apply State.deny_keeps
    | with_reducible apply State.fsiStore_keeps
    | intro _
    | refine fst_keeps (by assumption) ?_
    | refine snd_keeps (by assumption) ?_
    | split
    | dsimp only


theorem execSwapValidationDone_keeps {s : State} (h : s.Keeps P Q) (p : Fin 32) : Completes (execSwapValidationDone p s) (State.Keeps P Q) := by
  unfold execSwapValidationDone
  repeat' first
    | with_reducible refine completes_keeps _ ?_
    | with_reducible exact h
    | with_reducible assumption
    | simp only [↓keeps_upd]
    | with_reducible apply ok_keeps
    | with_reducible apply State.setSwap_keeps
    | with_reducible apply State.putWord_keeps
    | with_reducible apply State.wr_keeps
    | with_reducible apply State.raise_keeps
    | intro _
    | refine fst_keeps (by assumption) ?_
    | refine snd_keeps (by assumption) ?_
    | split
    | dsimp only


theorem execBdeactUnlock_keeps {s : State} (h : s.Keeps P Q) (ag : Agent) (v : Word) : Completes (execBdeactUnlock ag v s) (State.Keeps P Q) := by
  unfold execBdeactUnlock
  repeat' first
    | with_reducible refine completes_keeps _ ?_
    | with_reducible exact h
    | with_reducible assumption
    | simp only [↓keeps_upd]
    | with_reducible apply ok_keeps
    | with_reducible apply State.gate_keeps
    | with_reducible apply State.storeWord_keeps
    | intro _
    | refine fst_keeps (by assumption) ?_
    | refine snd_keeps (by assumption) ?_
    | split
    | dsimp only


theorem execWhfAlgWrite_keeps {s : State} (h : s.Keeps P Q) (ag : Agent) (v : Word) : Completes (execWhfAlgWrite ag v s) (State.Keeps P Q) := by
  unfold execWhfAlgWrite
  repeat' first
    | with_reducible refine completes_keeps _ ?_
    | with_reducible exact h
    | with_reducible assumption
    | simp only [↓keeps_upd]
    | with_reducible apply ok_keeps
    | with_reducible apply State.gate_keeps
    | with_reducible apply State.storeWord_keeps
    | intro _
    | refine fst_keeps (by assumption) ?_
    | refine snd_keeps (by assumption) ?_
    | split
    | dsimp only


theorem execRetiringTimeout_keeps {s : State} (h : s.Keeps P Q) (slot : BitVec 14) : Completes (execRetiringTimeout slot s) (State.Keeps P Q) := by
  unfold execRetiringTimeout
  repeat' first
    | with_reducible refine completes_keeps _ ?_
    | with_reducible exact h
    | with_reducible assumption
    | simp only [↓keeps_upd]
    | with_reducible apply ok_keeps
    | with_reducible apply State.eraseRoot_keeps
    | intro _
    | refine fst_keeps (by assumption) ?_
    | refine snd_keeps (by assumption) ?_
    | split
    | dsimp only


theorem execPloamAckTimeout_keeps {s : State} (h : s.Keeps P Q) (p : Fin 32) (sd : Side) : Completes (execPloamAckTimeout p sd s) (State.Keeps P Q) := by
  unfold execPloamAckTimeout
  repeat' first
    | with_reducible refine completes_keeps _ ?_
    | with_reducible exact h
    | with_reducible assumption
    | simp only [↓keeps_upd]
    | with_reducible apply ok_keeps
    | with_reducible apply State.setPlq_keeps
    | with_reducible apply State.inc_keeps
    | with_reducible apply State.raise_keeps
    | with_reducible apply State.dropRanged_keeps
    | intro _
    | refine fst_keeps (by assumption) ?_
    | refine snd_keeps (by assumption) ?_
    | split
    | dsimp only


theorem execDiscPeriodStart_keeps {s : State} (h : s.Keeps P Q) (p : Fin 32) (sd : Side) : Completes (execDiscPeriodStart p sd s) (State.Keeps P Q) := by
  unfold execDiscPeriodStart
  repeat' first
    | with_reducible refine completes_keeps _ ?_
    | with_reducible exact h
    | with_reducible assumption
    | simp only [↓keeps_upd]
    | with_reducible apply ok_keeps
    | with_reducible apply State.setDisc_keeps
    | with_reducible apply State.mirror_keeps
    | intro _
    | refine fst_keeps (by assumption) ?_
    | refine snd_keeps (by assumption) ?_
    | split
    | dsimp only


theorem execQuietSpanClose_keeps {s : State} (h : s.Keeps P Q) (p : Fin 32) (sd : Side) (eps0 : List Episode) : Completes (execQuietSpanClose p sd eps0 s) (State.Keeps P Q) := by
  unfold execQuietSpanClose
  repeat' first
    | with_reducible refine completes_keeps _ ?_
    | with_reducible exact h
    | with_reducible assumption
    | simp only [↓keeps_upd]
    | with_reducible apply ok_keeps
    | with_reducible apply State.setSide_keeps
    | with_reducible apply State.setDisc_keeps
    | with_reducible apply State.count_keeps
    | with_reducible apply State.setTreeSt_keeps
    | with_reducible apply State.rampCheck_keeps
    | intro _
    | refine fst_keeps (by assumption) ?_
    | refine snd_keeps (by assumption) ?_
    | split
    | dsimp only


theorem execSnResponse_keeps {s : State} (h : s.Keeps P Q) (p : Fin 32) : Completes (execSnResponse p s) (State.Keeps P Q) := by
  unfold execSnResponse
  repeat' first
    | with_reducible refine completes_keeps _ ?_
    | with_reducible exact h
    | with_reducible assumption
    | simp only [↓keeps_upd]
    | with_reducible apply ok_keeps
    | with_reducible apply State.setTreeSt_keeps
    | with_reducible apply State.inc_keeps
    | with_reducible apply State.raise_keeps
    | with_reducible apply State.actAnswer_keeps
    | with_reducible apply State.queuePloam_keeps
    | with_reducible apply State.releaseSlot_keeps
    | intro _
    | refine fst_keeps (by assumption) ?_
    | refine snd_keeps (by assumption) ?_
    | split
    | dsimp only


theorem execRangingResponse_keeps {s : State} (h : s.Keeps P Q) (p : Fin 32) (slot : Fin 256) (d : Int) : Completes (execRangingResponse p slot d s) (State.Keeps P Q) := by
  unfold execRangingResponse
  repeat' first
    | with_reducible refine completes_keeps _ ?_
    | with_reducible exact h
    | with_reducible assumption
    | simp only [↓keeps_upd]
    | with_reducible apply ok_keeps
    | with_reducible apply State.takeRng_keeps
    | with_reducible apply State.setSlot_keeps
    | with_reducible apply State.inc_keeps
    | with_reducible apply State.sendRangingTime_keeps
    | with_reducible apply State.holdFor_keeps
    | intro _
    | refine fst_keeps (by assumption) ?_
    | refine snd_keeps (by assumption) ?_
    | split
    | dsimp only


theorem execRangingNoResponse_keeps {s : State} (h : s.Keeps P Q) (p : Fin 32) (slot : Fin 256) : Completes (execRangingNoResponse p slot s) (State.Keeps P Q) := by
  unfold execRangingNoResponse
  repeat' first
    | with_reducible refine completes_keeps _ ?_
    | with_reducible exact h
    | with_reducible assumption
    | simp only [↓keeps_upd]
    | with_reducible apply ok_keeps
    | with_reducible apply State.takeRng_keeps
    | with_reducible apply State.inc_keeps
    | with_reducible apply State.setSlot_keeps
    | with_reducible apply State.freeSlot_keeps
    | with_reducible apply State.raise_keeps
    | with_reducible apply State.toLost_keeps
    | intro _
    | refine fst_keeps (by assumption) ?_
    | refine snd_keeps (by assumption) ?_
    | split
    | dsimp only


theorem execRegistrationRx_keeps {s : State} (h : s.Keeps P Q) (p : Fin 32) (slot : Fin 256) (regId : Nat) : Completes (execRegistrationRx p slot regId s) (State.Keeps P Q) := by
  unfold execRegistrationRx
  repeat' first
    | with_reducible refine completes_keeps _ ?_
    | with_reducible exact h
    | with_reducible assumption
    | simp only [↓keeps_upd]
    | with_reducible apply ok_keeps
    | with_reducible apply State.forSteward_keeps
    | with_reducible apply State.takeRegistration_keeps
    | intro _
    | refine fst_keeps (by assumption) ?_
    | refine snd_keeps (by assumption) ?_
    | split
    | dsimp only


theorem execKeyReportRx_keeps {s : State} (h : s.Keeps P Q) (p : Fin 32) (slot : Fin 256) (dk sk : BitVec 128) : Completes (execKeyReportRx p slot dk sk s) (State.Keeps P Q) := by
  unfold execKeyReportRx
  repeat' first
    | with_reducible refine completes_keeps _ ?_
    | with_reducible exact h
    | with_reducible assumption
    | simp only [↓keeps_upd]
    | with_reducible apply ok_keeps
    | with_reducible apply State.forSteward_keeps
    | with_reducible apply State.takeKeyReport_keeps
    | intro _
    | refine fst_keeps (by assumption) ?_
    | refine snd_keeps (by assumption) ?_
    | split
    | dsimp only


theorem execKeyExchangeTimeout_keeps {s : State} (h : s.Keeps P Q) (p : Fin 32) (slot : Fin 256) : Completes (execKeyExchangeTimeout p slot s) (State.Keeps P Q) := by
  unfold execKeyExchangeTimeout
  repeat' first
    | with_reducible refine completes_keeps _ ?_
    | with_reducible exact h
    | with_reducible assumption
    | simp only [↓keeps_upd]
    | with_reducible apply ok_keeps
    | with_reducible apply State.dropRanged_keeps
    | intro _
    | refine fst_keeps (by assumption) ?_
    | refine snd_keeps (by assumption) ?_
    | split
    | dsimp only


theorem execRegistrationTimeout_keeps {s : State} (h : s.Keeps P Q) (p : Fin 32) (slot : Fin 256) : Completes (execRegistrationTimeout p slot s) (State.Keeps P Q) := by
  unfold execRegistrationTimeout
  repeat' first
    | with_reducible refine completes_keeps _ ?_
    | with_reducible exact h
    | with_reducible assumption
    | simp only [↓keeps_upd]
    | with_reducible apply ok_keeps
    | with_reducible apply State.setSlot_keeps
    | with_reducible apply State.queuePloam_keeps
    | with_reducible apply State.dropRanged_keeps
    | intro _
    | refine fst_keeps (by assumption) ?_
    | refine snd_keeps (by assumption) ?_
    | split
    | dsimp only


theorem execLostWaitExpiry_keeps {s : State} (h : s.Keeps P Q) (p : Fin 32) (slot : Fin 256) : Completes (execLostWaitExpiry p slot s) (State.Keeps P Q) := by
  unfold execLostWaitExpiry
  repeat' first
    | with_reducible refine completes_keeps _ ?_
    | with_reducible exact h
    | with_reducible assumption
    | simp only [↓keeps_upd]
    | with_reducible apply ok_keeps
    | with_reducible apply State.freeSlot_keeps
    | intro _
    | refine fst_keeps (by assumption) ?_
    | refine snd_keeps (by assumption) ?_
    | split
    | dsimp only


theorem execRampStart_keeps {s : State} (h : s.Keeps P Q) (ag : Agent) (p : Fin 32) : Completes (execRampStart ag p s) (State.Keeps P Q) := by
  unfold execRampStart
  repeat' first
    | with_reducible refine completes_keeps _ ?_
    | with_reducible exact h
    | with_reducible assumption
    | simp only [↓keeps_upd]
    | with_reducible apply ok_keeps
    | with_reducible apply State.actWrite_keeps
    | intro _
    | refine fst_keeps (by assumption) ?_
    | refine snd_keeps (by assumption) ?_
    | split
    | dsimp only


theorem execRampStop_keeps {s : State} (h : s.Keeps P Q) (ag : Agent) (p : Fin 32) : Completes (execRampStop ag p s) (State.Keeps P Q) := by
  unfold execRampStop
  repeat' first
    | with_reducible refine completes_keeps _ ?_
    | with_reducible exact h
    | with_reducible assumption
    | simp only [↓keeps_upd]
    | with_reducible apply ok_keeps
    | with_reducible apply State.actWrite_keeps
    | intro _
    | refine fst_keeps (by assumption) ?_
    | refine snd_keeps (by assumption) ?_
    | split
    | dsimp only


theorem execDeactivate_keeps {s : State} (h : s.Keeps P Q) (ag : Agent) (p : Fin 32) (slot : Fin 256) : Completes (execDeactivate ag p slot s) (State.Keeps P Q) := by
  unfold execDeactivate
  repeat' first
    | with_reducible refine completes_keeps _ ?_
    | with_reducible exact h
    | with_reducible assumption
    | simp only [↓keeps_upd]
    | with_reducible apply ok_keeps
    | with_reducible apply State.actWrite_keeps
    | intro _
    | refine fst_keeps (by assumption) ?_
    | refine snd_keeps (by assumption) ?_
    | split
    | dsimp only


theorem execEnable_keeps {s : State} (h : s.Keeps P Q) (ag : Agent) (p : Fin 32) (slot : Fin 256) : Completes (execEnable ag p slot s) (State.Keeps P Q) := by
  unfold execEnable
  repeat' first
    | with_reducible refine completes_keeps _ ?_
    | with_reducible exact h
    | with_reducible assumption
    | simp only [↓keeps_upd]
    | with_reducible apply ok_keeps
    | with_reducible apply State.actWrite_keeps
    | intro _
    | refine fst_keeps (by assumption) ?_
    | refine snd_keeps (by assumption) ?_
    | split
    | dsimp only


theorem execDisable_keeps {s : State} (h : s.Keeps P Q) (ag : Agent) (p : Fin 32) (slot : Fin 256) : Completes (execDisable ag p slot s) (State.Keeps P Q) := by
  unfold execDisable
  repeat' first
    | with_reducible refine completes_keeps _ ?_
    | with_reducible exact h
    | with_reducible assumption
    | simp only [↓keeps_upd]
    | with_reducible apply ok_keeps
    | with_reducible apply State.actWrite_keeps
    | intro _
    | refine fst_keeps (by assumption) ?_
    | refine snd_keeps (by assumption) ?_
    | split
    | dsimp only


theorem execRampTimeout_keeps {s : State} (h : s.Keeps P Q) (p : Fin 32) : Completes (execRampTimeout p s) (State.Keeps P Q) := by
  unfold execRampTimeout
  repeat' first
    | with_reducible refine completes_keeps _ ?_
    | with_reducible exact h
    | with_reducible assumption
    | simp only [↓keeps_upd]
    | with_reducible apply ok_keeps
    | with_reducible apply State.leaveRamp_keeps
    | with_reducible apply State.raise_keeps
    | intro _
    | refine fst_keeps (by assumption) ?_
    | refine snd_keeps (by assumption) ?_
    | split
    | dsimp only


theorem execRogueHuntStart_keeps {s : State} (h : s.Keeps P Q) (p : Fin 32) (sd : Side) : Completes (execRogueHuntStart p sd s) (State.Keeps P Q) := by
  unfold execRogueHuntStart
  repeat' first
    | with_reducible refine completes_keeps _ ?_
    | with_reducible exact h
    | with_reducible assumption
    | simp only [↓keeps_upd]
    | with_reducible apply ok_keeps
    | with_reducible apply State.huntNext_keeps
    | intro _
    | refine fst_keeps (by assumption) ?_
    | refine snd_keeps (by assumption) ?_
    | split
    | dsimp only


theorem execRogueWatchEnd_keeps {s : State} (h : s.Keeps P Q) (p : Fin 32) : Completes (execRogueWatchEnd p s) (State.Keeps P Q) := by
  unfold execRogueWatchEnd
  repeat' first
    | with_reducible refine completes_keeps _ ?_
    | with_reducible exact h
    | with_reducible assumption
    | simp only [↓keeps_upd]
    | with_reducible apply ok_keeps
    | with_reducible apply State.setSlot_keeps
    | with_reducible apply State.disableSlot_keeps
    | with_reducible apply State.setTreeSt_keeps
    | with_reducible apply State.raise_keeps
    | with_reducible apply State.queuePloam_keeps
    | with_reducible apply State.freeSlot_keeps
    | with_reducible apply State.huntNext_keeps
    | intro _
    | refine fst_keeps (by assumption) ?_
    | refine snd_keeps (by assumption) ?_
    | split
    | dsimp only


theorem execMapLock_keeps {s : State} (h : s.Keeps P Q) (p : Fin 32) (sd : Side) : Completes (execMapLock p sd s) (State.Keeps P Q) := by
  unfold execMapLock
  repeat' first
    | with_reducible refine completes_keeps _ ?_
    | with_reducible exact h
    | with_reducible assumption
    | simp only [↓keeps_upd]
    | with_reducible apply ok_keeps
    | with_reducible apply State.lock_keeps
    | intro _
    | refine fst_keeps (by assumption) ?_
    | refine snd_keeps (by assumption) ?_
    | split
    | dsimp only


theorem execFrameTick_keeps {s : State} (h : s.Keeps P Q) (p : Fin 32) (idle50 idle10 : Nat) : Completes (execFrameTick p idle50 idle10 s) (State.Keeps P Q) := by
  unfold execFrameTick
  repeat' first
    | with_reducible refine completes_keeps _ ?_
    | with_reducible exact h
    | with_reducible assumption
    | simp only [↓keeps_upd]
    | with_reducible apply ok_keeps
    | with_reducible apply State.loseLocked_keeps
    | with_reducible apply State.lockAtTick_keeps
    | with_reducible apply State.setPort_keeps
    | with_reducible apply State.autoPhase_keeps
    | with_reducible apply State.swapAtTick_keeps
    | with_reducible apply State.keysAtTick_keeps
    | with_reducible apply State.tickSide_keeps
    | with_reducible apply State.intervalAtTick_keeps
    | with_reducible apply State.framesAtTick_keeps
    | with_reducible apply State.setTwinTree_keeps
    | with_reducible apply State.queueHeld_keeps
    | with_reducible apply State.rampCheck_keeps
    | intro _
    | refine fst_keeps (by assumption) ?_
    | refine snd_keeps (by assumption) ?_
    | split
    | dsimp only


theorem execHeartbeatLoss_keeps {s : State} (h : s.Keeps P Q) : Completes (execHeartbeatLoss s) (State.Keeps P Q) := by
  unfold execHeartbeatLoss
  repeat' first
    | with_reducible refine completes_keeps _ ?_
    | with_reducible exact h
    | with_reducible assumption
    | simp only [↓keeps_upd]
    | with_reducible apply ok_keeps
    | with_reducible apply State.lossTrigger_keeps
    | with_reducible apply State.unreachable_keeps
    | with_reducible apply State.redecide_keeps
    | intro _
    | refine fst_keeps (by assumption) ?_
    | refine snd_keeps (by assumption) ?_
    | split
    | dsimp only


theorem execTakeoverWarm_keeps {s : State} (h : s.Keeps P Q) : Completes (execTakeoverWarm s) (State.Keeps P Q) := by
  unfold execTakeoverWarm
  repeat' first
    | with_reducible refine completes_keeps _ ?_
    | with_reducible exact h
    | with_reducible assumption
    | simp only [↓keeps_upd]
    | with_reducible apply ok_keeps
    | with_reducible apply State.takeWarm_keeps
    | with_reducible apply State.takeCold_keeps
    | with_reducible apply foldl_keeps
    | intro _
    | refine fst_keeps (by assumption) ?_
    | refine snd_keeps (by assumption) ?_
    | split
    | dsimp only


theorem execPartnerDarkChange_keeps {s : State} (h : s.Keeps P Q) (d : Fin 3) : Completes (execPartnerDarkChange d s) (State.Keeps P Q) := by
  unfold execPartnerDarkChange
  repeat' first
    | with_reducible refine completes_keeps _ ?_
    | with_reducible exact h
    | with_reducible assumption
    | simp only [↓keeps_upd]
    | with_reducible apply State.wr_keeps
    | with_reducible apply State.redecide_keeps
    | with_reducible apply ok_keeps
    | with_reducible apply State.split_keeps
    | with_reducible apply State.lossTrigger_keeps
    | with_reducible apply State.coldPart_keeps
    | intro _
    | refine fst_keeps (by assumption) ?_
    | refine snd_keeps (by assumption) ?_
    | split
    | dsimp only


theorem execDarkStuckTimeout_keeps {s : State} (h : s.Keeps P Q) : Completes (execDarkStuckTimeout s) (State.Keeps P Q) := by
  unfold execDarkStuckTimeout
  repeat' first
    | with_reducible refine completes_keeps _ ?_
    | with_reducible exact h
    | with_reducible assumption
    | simp only [↓keeps_upd]
    | with_reducible apply ok_keeps
    | with_reducible apply State.inc_keeps
    | with_reducible apply State.coldPart_keeps
    | intro _
    | refine fst_keeps (by assumption) ?_
    | refine snd_keeps (by assumption) ?_
    | split
    | dsimp only


theorem execLivenessLoss_keeps {s : State} (h : s.Keeps P Q) : Completes (execLivenessLoss s) (State.Keeps P Q) := by
  unfold execLivenessLoss
  repeat' first
    | with_reducible refine completes_keeps _ ?_
    | with_reducible exact h
    | with_reducible assumption
    | simp only [↓keeps_upd]
    | with_reducible apply ok_keeps
    | intro _
    | refine fst_keeps (by assumption) ?_
    | refine snd_keeps (by assumption) ?_
    | split
    | dsimp only


theorem execUsLossOnset_keeps {s : State} (h : s.Keeps P Q) (p : Fin 32) (sd : Side) : Completes (execUsLossOnset p sd s) (State.Keeps P Q) := by
  unfold execUsLossOnset
  repeat' first
    | with_reducible refine completes_keeps _ ?_
    | with_reducible exact h
    | with_reducible assumption
    | simp only [↓keeps_upd]
    | with_reducible apply ok_keeps
    | with_reducible apply State.wr_keeps
    | with_reducible apply State.onset_keeps
    | with_reducible apply State.pmMod_keeps
    | with_reducible apply State.seen_keeps
    | with_reducible apply State.ownerTrigger_keeps
    | intro _
    | refine fst_keeps (by assumption) ?_
    | refine snd_keeps (by assumption) ?_
    | split
    | dsimp only


theorem execOffWaitExpiry_keeps {s : State} (h : s.Keeps P Q) : Completes (execOffWaitExpiry s) (State.Keeps P Q) := by
  unfold execOffWaitExpiry
  repeat' first
    | with_reducible refine completes_keeps _ ?_
    | with_reducible exact h
    | with_reducible assumption
    | simp only [↓keeps_upd]
    | with_reducible apply ok_keeps
    | with_reducible apply State.leaveTree_keeps
    | with_reducible apply State.inc_keeps
    | with_reducible apply State.twinSend_keeps
    | with_reducible apply foldl_keeps
    | intro _
    | refine fst_keeps (by assumption) ?_
    | refine snd_keeps (by assumption) ?_
    | split
    | dsimp only


theorem execReleaseMsg_keeps {s : State} (h : s.Keeps P Q) (seq : BitVec 32) (trees : BitVec 32) (num : Fin 3) (force : Bool) : Completes (execReleaseMsg seq trees num force s) (State.Keeps P Q) := by
  unfold execReleaseMsg
  repeat' first
    | with_reducible refine completes_keeps _ ?_
    | with_reducible exact h
    | with_reducible assumption
    | simp only [↓keeps_upd]
    | with_reducible apply ok_keeps
    | with_reducible apply State.takeWarm_keeps
    | with_reducible apply State.takeCold_keeps
    | with_reducible apply State.twinSend_keeps
    | with_reducible apply State.twnDone_keeps
    | intro _
    | refine fst_keeps (by assumption) ?_
    | refine snd_keeps (by assumption) ?_
    | split
    | dsimp only


theorem execTakenMsg_keeps {s : State} (h : s.Keeps P Q) (trees : BitVec 32) : Completes (execTakenMsg trees s) (State.Keeps P Q) := by
  unfold execTakenMsg
  repeat' first
    | with_reducible refine completes_keeps _ ?_
    | with_reducible exact h
    | with_reducible assumption
    | simp only [↓keeps_upd]
    | with_reducible apply ok_keeps
    | with_reducible apply State.setTwinTree_keeps
    | with_reducible apply State.endRelease_keeps
    | with_reducible apply foldl_keeps
    | intro _
    | refine fst_keeps (by assumption) ?_
    | refine snd_keeps (by assumption) ?_
    | split
    | dsimp only


theorem execReleaseFail_keeps {s : State} (h : s.Keeps P Q) : Completes (execReleaseFail s) (State.Keeps P Q) := by
  unfold execReleaseFail
  repeat' first
    | with_reducible refine completes_keeps _ ?_
    | with_reducible exact h
    | with_reducible assumption
    | simp only [↓keeps_upd]
    | with_reducible apply ok_keeps
    | with_reducible apply State.setOwn_keeps
    | with_reducible apply State.endRelease_keeps
    | with_reducible apply State.raise_keeps
    | with_reducible apply foldl_keeps
    | intro _
    | refine fst_keeps (by assumption) ?_
    | refine snd_keeps (by assumption) ?_
    | split
    | dsimp only


theorem execRequestMsg_keeps {s : State} (h : s.Keeps P Q) (resend : Option (Fin 16 × Fin 32)) (trees : BitVec 32) : Completes (execRequestMsg resend trees s) (State.Keeps P Q) := by
  unfold execRequestMsg
  repeat' first
    | with_reducible refine completes_keeps _ ?_
    | with_reducible exact h
    | with_reducible assumption
    | simp only [↓keeps_upd]
    | with_reducible apply ok_keeps
    | with_reducible apply State.mirror_keeps
    | with_reducible apply State.release_keeps
    | intro _
    | refine fst_keeps (by assumption) ?_
    | refine snd_keeps (by assumption) ?_
    | split
    | dsimp only


theorem execFaultMsg_keeps {s : State} (h : s.Keeps P Q) (fatal : Bool) : Completes (execFaultMsg fatal s) (State.Keeps P Q) := by
  unfold execFaultMsg
  repeat' first
    | with_reducible refine completes_keeps _ ?_
    | with_reducible exact h
    | with_reducible assumption
    | simp only [↓keeps_upd]
    | with_reducible apply ok_keeps
    | with_reducible apply State.wr_keeps
    | with_reducible apply State.trigger_keeps
    | intro _
    | refine fst_keeps (by assumption) ?_
    | refine snd_keeps (by assumption) ?_
    | split
    | dsimp only


theorem execHeartbeatSend_keeps {s : State} (h : s.Keeps P Q) : Completes (execHeartbeatSend s) (State.Keeps P Q) := by
  unfold execHeartbeatSend
  repeat' first
    | with_reducible refine completes_keeps _ ?_
    | with_reducible exact h
    | with_reducible assumption
    | simp only [↓keeps_upd]
    | with_reducible apply ok_keeps
    | with_reducible apply State.twinSend_keeps
    | intro _
    | refine fst_keeps (by assumption) ?_
    | refine snd_keeps (by assumption) ?_
    | split
    | dsimp only


theorem execHeartbeat_keeps {s : State} (h : s.Keeps P Q) (h : Hb) (times : Option (Int × Int × Int × Int)) (later : Bool) : Completes (execHeartbeat h times later s) (State.Keeps P Q) := by
  unfold execHeartbeat
  repeat' first
    | with_reducible refine completes_keeps _ ?_
    | with_reducible exact h
    | with_reducible assumption
    | simp only [↓keeps_upd]
    | with_reducible apply State.inc_keeps
    | with_reducible apply State.wr_keeps
    | with_reducible apply State.tauSample_keeps
    | with_reducible apply State.fresh_keeps
    | with_reducible apply State.raise_keeps
    | with_reducible apply State.split_keeps
    | with_reducible apply ok_keeps
    | with_reducible apply State.coverBack_keeps
    | with_reducible apply State.redecide_keeps
    | intro _
    | refine fst_keeps (by assumption) ?_
    | refine snd_keeps (by assumption) ?_
    | split
    | dsimp only


theorem execMapMsg_keeps {s : State} (h : s.Keeps P Q) (p : Fin 32) (sd : Side) (seq : BitVec 32) (m : BwMap) : Completes (execMapMsg p sd seq m s) (State.Keeps P Q) := by
  unfold execMapMsg
  repeat' first
    | with_reducible refine completes_keeps _ ?_
    | with_reducible exact h
    | with_reducible assumption
    | simp only [↓keeps_upd]
    | with_reducible apply ok_keeps
    | with_reducible apply State.mirrored_keeps
    | with_reducible apply State.inflight_keeps
    | intro _
    | refine fst_keeps (by assumption) ?_
    | refine snd_keeps (by assumption) ?_
    | split
    | dsimp only


theorem execDbaState_keeps {s : State} (h : s.Keeps P Q) (p : Fin 32) (seq : BitVec 32) (sfc : BitVec 51) (as : List (Fin 1024 × AllocRt)) : Completes (execDbaState p seq sfc as s) (State.Keeps P Q) := by
  unfold execDbaState
  repeat' first
    | with_reducible refine completes_keeps _ ?_
    | with_reducible exact h
    | with_reducible assumption
    | simp only [↓keeps_upd]
    | with_reducible apply ok_keeps
    | with_reducible apply State.mirrored_keeps
    | with_reducible apply State.setAlloc_keeps
    | with_reducible apply foldl_keeps
    | intro _
    | refine fst_keeps (by assumption) ?_
    | refine snd_keeps (by assumption) ?_
    | split
    | dsimp only


theorem execPloamQ_keeps {s : State} (h : s.Keeps P Q) (p : Fin 32) (sd : Side) (seq : BitVec 32) (sfc : BitVec 51) (enter leave : List Ploam) (waits : List AckWait) : Completes (execPloamQ p sd seq sfc enter leave waits s) (State.Keeps P Q) := by
  unfold execPloamQ
  repeat' first
    | with_reducible refine completes_keeps _ ?_
    | with_reducible exact h
    | with_reducible assumption
    | simp only [↓keeps_upd]
    | with_reducible apply ok_keeps
    | with_reducible apply State.mirrored_keeps
    | with_reducible apply State.setPlq_keeps
    | with_reducible apply foldl_keeps
    | intro _
    | refine fst_keeps (by assumption) ?_
    | refine snd_keeps (by assumption) ?_
    | split
    | dsimp only


theorem execSlotMsg_keeps {s : State} (h : s.Keeps P Q) (p : Fin 32) (seq : BitVec 32) (slot : Fin 256) (x : Slot) (ramp : Bool) (lfsr50 lfsr10 : BitVec 16) (admitted : Nat) : Completes (execSlotMsg p seq slot x ramp lfsr50 lfsr10 admitted s) (State.Keeps P Q) := by
  unfold execSlotMsg
  repeat' first
    | with_reducible refine completes_keeps _ ?_
    | with_reducible exact h
    | with_reducible assumption
    | simp only [↓keeps_upd]
    | with_reducible apply ok_keeps
    | with_reducible apply State.mirrored_keeps
    | with_reducible apply State.setTreeSt_keeps
    | with_reducible apply State.setDisc_keeps
    | with_reducible apply State.setSlot_keeps
    | with_reducible apply State.provisionShadow_keeps
    | with_reducible apply State.unprovision_keeps
    | intro _
    | refine fst_keeps (by assumption) ?_
    | refine snd_keeps (by assumption) ?_
    | split
    | dsimp only


theorem execKeyMsg_keeps {s : State} (h : s.Keeps P Q) (p : Fin 32) (seq : BitVec 32) (k : Fin 512) (r : Root) : Completes (execKeyMsg p seq k r s) (State.Keeps P Q) := by
  unfold execKeyMsg
  repeat' first
    | with_reducible refine completes_keeps _ ?_
    | with_reducible exact h
    | with_reducible assumption
    | simp only [↓keeps_upd]
    | with_reducible apply ok_keeps
    | with_reducible apply State.mirrored_keeps
    | with_reducible apply State.setUsage_keeps
    | with_reducible apply State.setRoot_keeps
    | intro _
    | refine fst_keeps (by assumption) ?_
    | refine snd_keeps (by assumption) ?_
    | split
    | dsimp only


theorem execEnqueue_keeps {s : State} (h : s.Keeps P Q) : Completes (execEnqueue s) (State.Keeps P Q) := by
  unfold execEnqueue
  repeat' first
    | with_reducible refine completes_keeps _ ?_
    | with_reducible exact h
    | with_reducible assumption
    | simp only [↓keeps_upd]
    | with_reducible apply ok_keeps
    | with_reducible apply State.proxyChecks_keeps
    | with_reducible apply State.enqueueColored_keeps
    | with_reducible apply State.enqueue_keeps
    | with_reducible apply State.unref_keeps
    | with_reducible apply State.epochUnref_keeps
    | intro _
    | refine fst_keeps (by assumption) ?_
    | refine snd_keeps (by assumption) ?_
    | split
    | dsimp only


theorem execPacket_keeps {s : State} (h : s.Keeps P Q) (n : Fin 16) (bytes : List Byte) (full : Bool) : Completes (execPacket n bytes full s) (State.Keeps P Q) := by
  unfold execPacket
  repeat' first
    | with_reducible refine completes_keeps _ ?_
    | with_reducible exact h
    | with_reducible assumption
    | simp only [↓keeps_upd]
    | with_reducible apply State.drop_keeps
    | with_reducible apply ok_keeps
    | with_reducible apply State.inc_keeps
    | with_reducible apply State.overrun_keeps
    | with_reducible apply State.newBuf_keeps
    | with_reducible apply State.noBuf_keeps
    | with_reducible apply State.epochRef_keeps
    | with_reducible apply State.deliver_keeps
    | with_reducible apply State.unref_keeps
    | with_reducible apply State.sendCarrier_keeps
    | with_reducible apply State.epochUnref_keeps
    | intro _
    | refine fst_keeps (by assumption) ?_
    | refine snd_keeps (by assumption) ?_
    | split
    | dsimp only


theorem execHelloSend_keeps {s : State} (h : s.Keeps P Q) : Completes (execHelloSend s) (State.Keeps P Q) := by
  unfold execHelloSend
  repeat' first
    | with_reducible refine completes_keeps _ ?_
    | with_reducible exact h
    | with_reducible assumption
    | simp only [↓keeps_upd]
    | with_reducible apply ok_keeps
    | with_reducible apply State.flood_keeps
    | intro _
    | refine fst_keeps (by assumption) ?_
    | refine snd_keeps (by assumption) ?_
    | split
    | dsimp only


theorem execHello_keeps {s : State} (h : s.Keeps P Q) (n : Fin 16) (addr : BitVec 8) (lane : Fin 16) (serial : BitVec 64) : Completes (execHello n addr lane serial s) (State.Keeps P Q) := by
  unfold execHello
  repeat' first
    | with_reducible refine completes_keeps _ ?_
    | with_reducible exact h
    | with_reducible assumption
    | simp only [↓keeps_upd]
    | with_reducible apply ok_keeps
    | with_reducible apply State.markNbr_keeps
    | with_reducible apply State.originate_keeps
    | intro _
    | refine fst_keeps (by assumption) ?_
    | refine snd_keeps (by assumption) ?_
    | split
    | dsimp only


theorem execNeighbourTimeout_keeps {s : State} (h : s.Keeps P Q) (n : Fin 16) : Completes (execNeighbourTimeout n s) (State.Keeps P Q) := by
  unfold execNeighbourTimeout
  repeat' first
    | with_reducible refine completes_keeps _ ?_
    | with_reducible exact h
    | with_reducible assumption
    | simp only [↓keeps_upd]
    | with_reducible apply ok_keeps
    | with_reducible apply State.loseNbr_keeps
    | intro _
    | refine fst_keeps (by assumption) ?_
    | refine snd_keeps (by assumption) ?_
    | split
    | dsimp only


theorem execLsa_keeps {s : State} (h : s.Keeps P Q) (n : Fin 16) (l : Lsa) : Completes (execLsa n l s) (State.Keeps P Q) := by
  unfold execLsa
  repeat' first
    | with_reducible refine completes_keeps _ ?_
    | with_reducible exact h
    | with_reducible assumption
    | simp only [↓keeps_upd]
    | with_reducible apply ok_keeps
    | with_reducible apply State.setLsa_keeps
    | with_reducible apply State.inc_keeps
    | with_reducible apply State.flood_keeps
    | with_reducible apply State.conflict_keeps
    | intro _
    | refine fst_keeps (by assumption) ?_
    | refine snd_keeps (by assumption) ?_
    | split
    | dsimp only


theorem execLsaRefresh_keeps {s : State} (h : s.Keeps P Q) : Completes (execLsaRefresh s) (State.Keeps P Q) := by
  unfold execLsaRefresh
  repeat' first
    | with_reducible refine completes_keeps _ ?_
    | with_reducible exact h
    | with_reducible assumption
    | simp only [↓keeps_upd]
    | with_reducible apply ok_keeps
    | with_reducible apply State.originate_keeps
    | intro _
    | refine fst_keeps (by assumption) ?_
    | refine snd_keeps (by assumption) ?_
    | split
    | dsimp only


theorem execLsaExpiry_keeps {s : State} (h : s.Keeps P Q) (serial : BitVec 64) : Completes (execLsaExpiry serial s) (State.Keeps P Q) := by
  unfold execLsaExpiry
  repeat' first
    | with_reducible refine completes_keeps _ ?_
    | with_reducible exact h
    | with_reducible assumption
    | simp only [↓keeps_upd]
    | with_reducible apply ok_keeps
    | with_reducible apply State.setLsa_keeps
    | intro _
    | refine fst_keeps (by assumption) ?_
    | refine snd_keeps (by assumption) ?_
    | split
    | dsimp only


theorem execAddressSettle_keeps {s : State} (h : s.Keeps P Q) : Completes (execAddressSettle s) (State.Keeps P Q) := by
  unfold execAddressSettle
  repeat' first
    | with_reducible refine completes_keeps _ ?_
    | with_reducible exact h
    | with_reducible assumption
    | simp only [↓keeps_upd]
    | with_reducible apply ok_keeps
    | with_reducible apply State.setAddr_keeps
    | with_reducible apply State.originate_keeps
    | with_reducible apply State.noAddr_keeps
    | intro _
    | refine fst_keeps (by assumption) ?_
    | refine snd_keeps (by assumption) ?_
    | split
    | dsimp only


theorem execRouteRecompute_keeps {s : State} (h : s.Keeps P Q) : Completes (execRouteRecompute s) (State.Keeps P Q) := by
  unfold execRouteRecompute
  repeat' first
    | with_reducible refine completes_keeps _ ?_
    | with_reducible exact h
    | with_reducible assumption
    | simp only [↓keeps_upd]
    | with_reducible apply ok_keeps
    | with_reducible apply State.recompute_keeps
    | intro _
    | refine fst_keeps (by assumption) ?_
    | refine snd_keeps (by assumption) ?_
    | split
    | dsimp only


theorem execMasterLostTimeout_keeps {s : State} (h : s.Keeps P Q) : Completes (execMasterLostTimeout s) (State.Keeps P Q) := by
  unfold execMasterLostTimeout
  repeat' first
    | with_reducible refine completes_keeps _ ?_
    | with_reducible exact h
    | with_reducible assumption
    | simp only [↓keeps_upd]
    | with_reducible apply ok_keeps
    | with_reducible apply State.wr_keeps
    | with_reducible apply State.onset_keeps
    | intro _
    | refine fst_keeps (by assumption) ?_
    | refine snd_keeps (by assumption) ?_
    | split
    | dsimp only


theorem execBindingWrite_keeps {s : State} (h : s.Keeps P Q) (ag : Agent) (q : Fin 8192) (v : Word) : Completes (execBindingWrite ag q v s) (State.Keeps P Q) := by
  unfold execBindingWrite
  repeat' first
    | with_reducible refine completes_keeps _ ?_
    | with_reducible exact h
    | with_reducible assumption
    | simp only [↓keeps_upd]
    | with_reducible apply ok_keeps
    | with_reducible apply State.winGate_keeps
    | with_reducible apply State.deny_keeps
    | with_reducible apply State.putWord_keeps
    | intro _
    | refine fst_keeps (by assumption) ?_
    | refine snd_keeps (by assumption) ?_
    | split
    | dsimp only


theorem execCapRx_keeps {s : State} (h : s.Keeps P Q) (n : Fin 16) (c : Cap) : Completes (execCapRx n c s) (State.Keeps P Q) := by
  unfold execCapRx
  repeat' first
    | with_reducible refine completes_keeps _ ?_
    | with_reducible exact h
    | with_reducible assumption
    | simp only [↓keeps_upd]
    | with_reducible apply ok_keeps
    | with_reducible apply State.setLane_keeps
    | with_reducible apply State.wr_keeps
    | with_reducible apply State.raise_keeps
    | with_reducible apply State.linkCap_keeps
    | with_reducible apply State.enterActive_keeps
    | with_reducible apply State.toExchange_keeps
    | with_reducible apply State.offerSeal_keeps
    | intro _
    | refine fst_keeps (by assumption) ?_
    | refine snd_keeps (by assumption) ?_
    | split
    | dsimp only


theorem execSessOffer_keeps {s : State} (h : s.Keeps P Q) (n : Fin 16) (nonce : BitVec 64) : Completes (execSessOffer n nonce s) (State.Keeps P Q) := by
  unfold execSessOffer
  repeat' first
    | with_reducible refine completes_keeps _ ?_
    | with_reducible exact h
    | with_reducible assumption
    | simp only [↓keeps_upd]
    | with_reducible apply ok_keeps
    | with_reducible apply State.freshNonce_keeps
    | with_reducible apply State.setLane_keeps
    | with_reducible apply State.offer_keeps
    | with_reducible apply State.linkCtl_keeps
    | with_reducible apply State.answer_keeps
    | intro _
    | refine fst_keeps (by assumption) ?_
    | refine snd_keeps (by assumption) ?_
    | split
    | dsimp only


theorem execSessAnswer_keeps {s : State} (h : s.Keeps P Q) (n : Fin 16) (nonce : BitVec 64) : Completes (execSessAnswer n nonce s) (State.Keeps P Q) := by
  unfold execSessAnswer
  repeat' first
    | with_reducible refine completes_keeps _ ?_
    | with_reducible exact h
    | with_reducible assumption
    | simp only [↓keeps_upd]
    | with_reducible apply ok_keeps
    | with_reducible apply State.offer_keeps
    | with_reducible apply State.newSession_keeps
    | intro _
    | refine fst_keeps (by assumption) ?_
    | refine snd_keeps (by assumption) ?_
    | split
    | dsimp only


theorem execSessOfferTimeout_keeps {s : State} (h : s.Keeps P Q) (n : Fin 16) : Completes (execSessOfferTimeout n s) (State.Keeps P Q) := by
  unfold execSessOfferTimeout
  repeat' first
    | with_reducible refine completes_keeps _ ?_
    | with_reducible exact h
    | with_reducible assumption
    | simp only [↓keeps_upd]
    | with_reducible apply ok_keeps
    | with_reducible apply State.offer_keeps
    | with_reducible apply State.setLane_keeps
    | with_reducible apply State.linkCtl_keeps
    | with_reducible apply State.toExchange_keeps
    | intro _
    | refine fst_keeps (by assumption) ?_
    | refine snd_keeps (by assumption) ?_
    | split
    | dsimp only


theorem execLaneEnWrite_keeps {s : State} (h : s.Keeps P Q) (ag : Agent) (n : Fin 16) (v : Word) : Completes (execLaneEnWrite ag n v s) (State.Keeps P Q) := by
  unfold execLaneEnWrite
  repeat' first
    | with_reducible refine completes_keeps _ ?_
    | with_reducible exact h
    | with_reducible assumption
    | simp only [↓keeps_upd]
    | with_reducible apply ok_keeps
    | with_reducible apply State.laneCfgWrite_keeps
    | intro _
    | refine fst_keeps (by assumption) ?_
    | refine snd_keeps (by assumption) ?_
    | split
    | dsimp only


theorem execShasolRetrain_keeps {s : State} (h : s.Keeps P Q) (ag : Agent) (n : Fin 16) (v : Word) : Completes (execShasolRetrain ag n v s) (State.Keeps P Q) := by
  unfold execShasolRetrain
  repeat' first
    | with_reducible refine completes_keeps _ ?_
    | with_reducible exact h
    | with_reducible assumption
    | simp only [↓keeps_upd]
    | with_reducible apply ok_keeps
    | with_reducible apply State.laneCfgWrite_keeps
    | intro _
    | refine fst_keeps (by assumption) ?_
    | refine snd_keeps (by assumption) ?_
    | split
    | dsimp only


theorem execRxDetectPulse_keeps {s : State} (h : s.Keeps P Q) (n : Fin 16) (found : Bool) : Completes (execRxDetectPulse n found s) (State.Keeps P Q) := by
  unfold execRxDetectPulse
  repeat' first
    | with_reducible refine completes_keeps _ ?_
    | with_reducible exact h
    | with_reducible assumption
    | simp only [↓keeps_upd]
    | with_reducible apply ok_keeps
    | with_reducible apply State.setLane_keeps
    | with_reducible apply State.setTaps_keeps
    | intro _
    | refine fst_keeps (by assumption) ?_
    | refine snd_keeps (by assumption) ?_
    | split
    | dsimp only


theorem execRxEnergy_keeps {s : State} (h : s.Keeps P Q) (n : Fin 16) : Completes (execRxEnergy n s) (State.Keeps P Q) := by
  unfold execRxEnergy
  repeat' first
    | with_reducible refine completes_keeps _ ?_
    | with_reducible exact h
    | with_reducible assumption
    | simp only [↓keeps_upd]
    | with_reducible apply ok_keeps
    | with_reducible apply State.toTrain_keeps
    | intro _
    | refine fst_keeps (by assumption) ?_
    | refine snd_keeps (by assumption) ?_
    | split
    | dsimp only


theorem execLaneEnergyLoss_keeps {s : State} (h : s.Keeps P Q) (n : Fin 16) : Completes (execLaneEnergyLoss n s) (State.Keeps P Q) := by
  unfold execLaneEnergyLoss
  repeat' first
    | with_reducible refine completes_keeps _ ?_
    | with_reducible exact h
    | with_reducible assumption
    | simp only [↓keeps_upd]
    | with_reducible apply State.st_keeps
    | with_reducible apply ok_keeps
    | with_reducible apply State.toDetect_keeps
    | intro _
    | refine fst_keeps (by assumption) ?_
    | refine snd_keeps (by assumption) ?_
    | split
    | dsimp only


theorem execTrainingFrameRx_keeps {s : State} (h : s.Keeps P Q) (n : Fin 16) (w : BitVec 32) (req : BitVec 5) : Completes (execTrainingFrameRx n w req s) (State.Keeps P Q) := by
  unfold execTrainingFrameRx
  repeat' first
    | with_reducible refine completes_keeps _ ?_
    | with_reducible exact h
    | with_reducible assumption
    | simp only [↓keeps_upd]
    | with_reducible apply ok_keeps
    | with_reducible apply State.setTaps_keeps
    | with_reducible apply State.setLane_keeps
    | with_reducible apply State.toLock_keeps
    | intro _
    | refine fst_keeps (by assumption) ?_
    | refine snd_keeps (by assumption) ?_
    | split
    | dsimp only


theorem execTrainTimeout_keeps {s : State} (h : s.Keeps P Q) (n : Fin 16) : Completes (execTrainTimeout n s) (State.Keeps P Q) := by
  unfold execTrainTimeout
  repeat' first
    | with_reducible refine completes_keeps _ ?_
    | with_reducible exact h
    | with_reducible assumption
    | simp only [↓keeps_upd]
    | with_reducible apply ok_keeps
    | with_reducible apply State.toDetect_keeps
    | with_reducible apply State.inc_keeps
    | with_reducible apply State.raise_keeps
    | intro _
    | refine fst_keeps (by assumption) ?_
    | refine snd_keeps (by assumption) ?_
    | split
    | dsimp only


theorem execBitLock_keeps {s : State} (h : s.Keeps P Q) (n : Fin 16) : Completes (execBitLock n s) (State.Keeps P Q) := by
  unfold execBitLock
  repeat' first
    | with_reducible refine completes_keeps _ ?_
    | with_reducible exact h
    | with_reducible assumption
    | simp only [↓keeps_upd]
    | with_reducible apply ok_keeps
    | with_reducible apply State.setLane_keeps
    | intro _
    | refine fst_keeps (by assumption) ?_
    | refine snd_keeps (by assumption) ?_
    | split
    | dsimp only


theorem execBitLockLost_keeps {s : State} (h : s.Keeps P Q) (n : Fin 16) : Completes (execBitLockLost n s) (State.Keeps P Q) := by
  unfold execBitLockLost
  repeat' first
    | with_reducible refine completes_keeps _ ?_
    | with_reducible exact h
    | with_reducible assumption
    | simp only [↓keeps_upd]
    | with_reducible apply ok_keeps
    | with_reducible apply State.setLane_keeps
    | intro _
    | refine fst_keeps (by assumption) ?_
    | refine snd_keeps (by assumption) ?_
    | split
    | dsimp only


theorem execCommaMissing_keeps {s : State} (h : s.Keeps P Q) (n : Fin 16) : Completes (execCommaMissing n s) (State.Keeps P Q) := by
  unfold execCommaMissing
  repeat' first
    | with_reducible refine completes_keeps _ ?_
    | with_reducible exact h
    | with_reducible assumption
    | simp only [↓keeps_upd]
    | with_reducible apply ok_keeps
    | with_reducible apply State.commaMissing_keeps
    | intro _
    | refine fst_keeps (by assumption) ?_
    | refine snd_keeps (by assumption) ?_
    | split
    | dsimp only


theorem execCommaRx_keeps {s : State} (h : s.Keeps P Q) (n : Fin 16) (code : BitVec 8) (spaced : Bool) (stuffed errs : Nat) : Completes (execCommaRx n code spaced stuffed errs s) (State.Keeps P Q) := by
  unfold execCommaRx
  repeat' first
    | with_reducible refine completes_keeps _ ?_
    | with_reducible exact h
    | with_reducible assumption
    | simp only [↓keeps_upd]
    | with_reducible apply State.count_keeps
    | with_reducible apply ok_keeps
    | with_reducible apply State.inc_keeps
    | with_reducible apply State.commaMissing_keeps
    | with_reducible apply State.setLane_keeps
    | with_reducible apply State.toExchange_keeps
    | with_reducible apply State.toTrain_keeps
    | intro _
    | refine fst_keeps (by assumption) ?_
    | refine snd_keeps (by assumption) ?_
    | split
    | dsimp only


theorem execLockTimeout_keeps {s : State} (h : s.Keeps P Q) (n : Fin 16) : Completes (execLockTimeout n s) (State.Keeps P Q) := by
  unfold execLockTimeout
  repeat' first
    | with_reducible refine completes_keeps _ ?_
    | with_reducible exact h
    | with_reducible assumption
    | simp only [↓keeps_upd]
    | with_reducible apply ok_keeps
    | with_reducible apply State.toTrain_keeps
    | intro _
    | refine fst_keeps (by assumption) ?_
    | refine snd_keeps (by assumption) ?_
    | split
    | dsimp only


theorem execMismatchHoldExpiry_keeps {s : State} (h : s.Keeps P Q) (n : Fin 16) : Completes (execMismatchHoldExpiry n s) (State.Keeps P Q) := by
  unfold execMismatchHoldExpiry
  repeat' first
    | with_reducible refine completes_keeps _ ?_
    | with_reducible exact h
    | with_reducible assumption
    | simp only [↓keeps_upd]
    | with_reducible apply ok_keeps
    | with_reducible apply State.toDetect_keeps
    | intro _
    | refine fst_keeps (by assumption) ?_
    | refine snd_keeps (by assumption) ?_
    | split
    | dsimp only


theorem execExchangeTimeout_keeps {s : State} (h : s.Keeps P Q) (n : Fin 16) : Completes (execExchangeTimeout n s) (State.Keeps P Q) := by
  unfold execExchangeTimeout
  repeat' first
    | with_reducible refine completes_keeps _ ?_
    | with_reducible exact h
    | with_reducible assumption
    | simp only [↓keeps_upd]
    | with_reducible apply ok_keeps
    | with_reducible apply State.toLock_keeps
    | intro _
    | refine fst_keeps (by assumption) ?_
    | refine snd_keeps (by assumption) ?_
    | split
    | dsimp only


theorem execTileStart_keeps {s : State} (h : s.Keeps P Q) (n : Fin 16) : Completes (execTileStart n s) (State.Keeps P Q) := by
  unfold execTileStart
  repeat' first
    | with_reducible refine completes_keeps _ ?_
    | with_reducible exact h
    | with_reducible assumption
    | simp only [↓keeps_upd]
    | with_reducible apply ok_keeps
    | with_reducible apply State.startTile_keeps
    | with_reducible apply State.linkCap_keeps
    | with_reducible apply State.toTrain_keeps
    | with_reducible apply State.setLane_keeps
    | intro _
    | refine fst_keeps (by assumption) ?_
    | refine snd_keeps (by assumption) ?_
    | split
    | dsimp only


theorem execMarginSample_keeps {s : State} (h : s.Keeps P Q) (n : Fin 16) (m : BitVec 8) (fill : Bool) : Completes (execMarginSample n m fill s) (State.Keeps P Q) := by
  unfold execMarginSample
  repeat' first
    | with_reducible refine completes_keeps _ ?_
    | with_reducible exact h
    | with_reducible assumption
    | simp only [↓keeps_upd]
    | with_reducible apply State.wr_keeps
    | with_reducible apply ok_keeps
    | with_reducible apply State.setLane_keeps
    | with_reducible apply idle_keeps
    | with_reducible apply State.inc_keeps
    | with_reducible apply State.raise_keeps
    | with_reducible apply State.toTrain_keeps
    | intro _
    | refine fst_keeps (by assumption) ?_
    | refine snd_keeps (by assumption) ?_
    | split
    | dsimp only


theorem execShasolMessageRx_keeps {s0 : State} (h : s0.Keeps P Q) (n : Fin 16) (r : LinkRx) : Completes (execShasolMessageRx n r s0) (State.Keeps P Q) := by
  unfold execShasolMessageRx
  repeat' first
    | with_reducible refine completes_keeps _ ?_
    | with_reducible exact h
    | with_reducible assumption
    | simp only [↓keeps_upd]
    | with_reducible apply State.setLane_keeps
    | with_reducible apply ok_keeps
    | with_reducible apply State.endCut_keeps
    | with_reducible apply State.inc_keeps
    | with_reducible apply State.raiseLimited_keeps
    | with_reducible apply State.count_keeps
    | intro _
    | refine fst_keeps (by assumption) ?_
    | refine snd_keeps (by assumption) ?_
    | split
    | dsimp only


theorem execTagCheckDone_keeps {s : State} (h : s.Keeps P Q) (n : Fin 16) (good late : Bool) : Completes (execTagCheckDone n good late s) (State.Keeps P Q) := by
  unfold execTagCheckDone
  repeat' first
    | with_reducible refine completes_keeps _ ?_
    | with_reducible exact h
    | with_reducible assumption
    | simp only [↓keeps_upd]
    | with_reducible apply ok_keeps
    | with_reducible apply State.setLane_keeps
    | with_reducible apply State.endCut_keeps
    | with_reducible apply State.inc_keeps
    | with_reducible apply State.raise_keeps
    | with_reducible apply State.wr_keeps
    | intro _
    | refine fst_keeps (by assumption) ?_
    | refine snd_keeps (by assumption) ?_
    | split
    | dsimp only


theorem execShasolMessageTx_keeps {s : State} (h : s.Keeps P Q) (n : Fin 16) (chan : Fin 4) :
    Completes (execShasolMessageTx n chan s) (State.Keeps P Q) := by
  unfold execShasolMessageTx
  dsimp only
  refine completes_ite (completes_keeps _ h) ?_
  split
  · exact completes_keeps _ h
  · next s1 dest pay hd e =>
    have h1 : s1.Keeps P Q := State.nextMsg_keeps h _ _ _ e
    refine completes_keeps _ (ite_keeps ?_ (ite_keeps ?_ ?_))
    · split
      · refine ite_keeps ?_ ?_
        · with_reducible exact State.doneWith_keeps (State.raise_keeps (State.inc_keeps h1 ..) ..) ..
        · with_reducible exact State.bumpCtr_keeps (State.derive_keeps (State.doneWith_keeps (State.putMsg_keeps h1 ..) ..) ..) ..
      · with_reducible exact State.doneWith_keeps (State.inc_keeps h1 ..) ..
    · with_reducible exact State.doneWith_keeps (State.inc_keeps h1 ..) ..
    · with_reducible exact State.doneWith_keeps (State.putMsg_keeps h1 ..) ..


theorem execFabCfgWrite_keeps {s : State} (h : s.Keeps P Q) (ag : Agent) (v : Word) : Completes (execFabCfgWrite ag v s) (State.Keeps P Q) := by
  unfold execFabCfgWrite
  repeat' first
    | with_reducible refine completes_keeps _ ?_
    | with_reducible exact h
    | with_reducible assumption
    | simp only [↓keeps_upd]
    | with_reducible apply ok_keeps
    | with_reducible apply State.fabCfgWrite_keeps
    | intro _
    | refine fst_keeps (by assumption) ?_
    | refine snd_keeps (by assumption) ?_
    | split
    | dsimp only


theorem execUlkCfgWrite_keeps {s : State} (h : s.Keeps P Q) (ag : Agent) (n : Fin 24) (v : Word) : Completes (execUlkCfgWrite ag n v s) (State.Keeps P Q) := by
  unfold execUlkCfgWrite
  repeat' first
    | with_reducible refine completes_keeps _ ?_
    | with_reducible exact h
    | with_reducible assumption
    | simp only [↓keeps_upd]
    | with_reducible apply ok_keeps
    | with_reducible apply State.ulkWrite_keeps
    | intro _
    | refine fst_keeps (by assumption) ?_
    | refine snd_keeps (by assumption) ?_
    | split
    | dsimp only


theorem execUlkRetrain_keeps {s : State} (h : s.Keeps P Q) (ag : Agent) (n : Fin 24) (v : Word) : Completes (execUlkRetrain ag n v s) (State.Keeps P Q) := by
  unfold execUlkRetrain
  repeat' first
    | with_reducible refine completes_keeps _ ?_
    | with_reducible exact h
    | with_reducible assumption
    | simp only [↓keeps_upd]
    | with_reducible apply ok_keeps
    | with_reducible apply State.ulkWrite_keeps
    | intro _
    | refine fst_keeps (by assumption) ?_
    | refine snd_keeps (by assumption) ?_
    | split
    | dsimp only


theorem execUlkLinkChange_keeps {s : State} (h : s.Keeps P Q) (n : Fin 24) (up : Bool) (cause : Fin 4) (anDone ltDone local_ remote : Bool) : Completes (execUlkLinkChange n up cause anDone ltDone local_ remote s) (State.Keeps P Q) := by
  unfold execUlkLinkChange
  repeat' first
    | with_reducible refine completes_keeps _ ?_
    | with_reducible exact h
    | with_reducible assumption
    | simp only [↓keeps_upd]
    | with_reducible apply State.wr_keeps
    | with_reducible apply ok_keeps
    | with_reducible apply State.endCause_keeps
    | with_reducible apply State.ulkFall_keeps
    | intro _
    | refine fst_keeps (by assumption) ?_
    | refine snd_keeps (by assumption) ?_
    | split
    | dsimp only


theorem execUplinkFrameRx_keeps {s : State} (h : s.Keeps P Q) (n : Fin 24) (bytes : List Byte) (full : Bool) (fec : Nat × Nat × Nat) : Completes (execUplinkFrameRx n bytes full fec s) (State.Keeps P Q) := by
  unfold execUplinkFrameRx
  repeat' first
    | with_reducible refine completes_keeps _ ?_
    | with_reducible exact h
    | with_reducible assumption
    | simp only [↓keeps_upd]
    | with_reducible apply State.ulkFec_keeps
    | with_reducible apply ok_keeps
    | with_reducible apply State.ptpStamp_keeps
    | with_reducible apply State.intake_keeps
    | intro _
    | refine fst_keeps (by assumption) ?_
    | refine snd_keeps (by assumption) ?_
    | split
    | dsimp only


theorem execUplinkFrameTx_keeps {s : State} (h : s.Keeps P Q) (n : Fin 24) (underrun : Option (BitVec 14)) (ct : Option (Fin 16 × BitVec 14)) (oneStep : Bool) : Completes (execUplinkFrameTx n underrun ct oneStep s) (State.Keeps P Q) := by
  unfold execUplinkFrameTx
  repeat' first
    | with_reducible refine completes_keeps _ ?_
    | with_reducible exact h
    | with_reducible assumption
    | simp only [↓keeps_upd]
    | with_reducible apply ok_keeps
    | with_reducible apply State.ulkOut_keeps
    | with_reducible apply State.raise_keeps
    | with_reducible apply State.unref_keeps
    | with_reducible apply State.ptpStamp_keeps
    | with_reducible apply State.setCut_keeps
    | intro _
    | refine fst_keeps (by assumption) ?_
    | refine snd_keeps (by assumption) ?_
    | split
    | dsimp only


theorem execGenEnWrite_keeps {s : State} (h : s.Keeps P Q) (ag : Agent) (b : LaneBlock) (v : Word) : Completes (execGenEnWrite ag b v s) (State.Keeps P Q) := by
  unfold execGenEnWrite
  repeat' first
    | with_reducible refine completes_keeps _ ?_
    | with_reducible exact h
    | with_reducible assumption
    | simp only [↓keeps_upd]
    | with_reducible apply ok_keeps
    | with_reducible apply State.ltWrite_keeps
    | intro _
    | refine fst_keeps (by assumption) ?_
    | refine snd_keeps (by assumption) ?_
    | split
    | dsimp only


theorem execInjGo_keeps {s : State} (h : s.Keeps P Q) (ag : Agent) (b : LaneBlock) (v : Word) : Completes (execInjGo ag b v s) (State.Keeps P Q) := by
  unfold execInjGo
  repeat' first
    | with_reducible refine completes_keeps _ ?_
    | with_reducible exact h
    | with_reducible assumption
    | simp only [↓keeps_upd]
    | with_reducible apply ok_keeps
    | with_reducible apply State.ltWrite_keeps
    | intro _
    | refine fst_keeps (by assumption) ?_
    | refine snd_keeps (by assumption) ?_
    | split
    | dsimp only


theorem execCheckerLock_keeps {s : State} (h : s.Keeps P Q) (b : LaneBlock) (bits : List Bool) : Completes (execCheckerLock b bits s) (State.Keeps P Q) := by
  unfold execCheckerLock
  repeat' first
    | with_reducible refine completes_keeps _ ?_
    | with_reducible exact h
    | with_reducible assumption
    | simp only [↓keeps_upd]
    | with_reducible apply ok_keeps
    | with_reducible apply State.chkRun_keeps
    | intro _
    | refine fst_keeps (by assumption) ?_
    | refine snd_keeps (by assumption) ?_
    | split
    | dsimp only


theorem execCheckerLockLost_keeps {s : State} (h : s.Keeps P Q) (b : LaneBlock) (bits : List Bool) : Completes (execCheckerLockLost b bits s) (State.Keeps P Q) := by
  unfold execCheckerLockLost
  repeat' first
    | with_reducible refine completes_keeps _ ?_
    | with_reducible exact h
    | with_reducible assumption
    | simp only [↓keeps_upd]
    | with_reducible apply ok_keeps
    | with_reducible apply State.chkRun_keeps
    | intro _
    | refine fst_keeps (by assumption) ?_
    | refine snd_keeps (by assumption) ?_
    | split
    | dsimp only


theorem execBufferRelease_keeps {s : State} (h : s.Keeps P Q) (h : Fin 16777216) : Completes (execBufferRelease h s) (State.Keeps P Q) := by
  unfold execBufferRelease
  repeat' first
    | with_reducible refine completes_keeps _ ?_
    | with_reducible exact h
    | with_reducible assumption
    | simp only [↓keeps_upd]
    | with_reducible apply ok_keeps
    | with_reducible apply State.unref_keeps
    | intro _
    | refine fst_keeps (by assumption) ?_
    | refine snd_keeps (by assumption) ?_
    | split
    | dsimp only


theorem execCellarWriteDone_keeps {s : State} (h : s.Keeps P Q) (q : Fin 73728) : Completes (execCellarWriteDone q s) (State.Keeps P Q) := by
  unfold execCellarWriteDone
  repeat' first
    | with_reducible refine completes_keeps _ ?_
    | with_reducible exact h
    | with_reducible assumption
    | simp only [↓keeps_upd]
    | with_reducible apply ok_keeps
    | with_reducible apply State.writeDone_keeps
    | intro _
    | refine fst_keeps (by assumption) ?_
    | refine snd_keeps (by assumption) ?_
    | split
    | dsimp only


theorem execCellarRefill_keeps {s : State} (h : s.Keeps P Q) (q : Fin 73728) (r : CellarRead) : Completes (execCellarRefill q r s) (State.Keeps P Q) := by
  unfold execCellarRefill
  repeat' first
    | with_reducible refine completes_keeps _ ?_
    | with_reducible exact h
    | with_reducible assumption
    | simp only [↓keeps_upd]
    | with_reducible apply ok_keeps
    | with_reducible apply State.refillRead_keeps
    | with_reducible apply State.refillQueue_keeps
    | with_reducible apply State.memEcc_keeps
    | intro _
    | refine fst_keeps (by assumption) ?_
    | refine snd_keeps (by assumption) ?_
    | split
    | dsimp only


theorem execSchedSelect_keeps {s : State} (h : s.Keeps P Q) (m : Fin 104) (ecc : Option Bool) : Completes (execSchedSelect m ecc s) (State.Keeps P Q) := by
  unfold execSchedSelect
  repeat' first
    | with_reducible refine completes_keeps _ ?_
    | with_reducible exact h
    | with_reducible assumption
    | simp only [↓keeps_upd]
    | with_reducible apply ok_keeps
    | with_reducible apply State.select_keeps
    | with_reducible apply State.toCipher_keeps
    | with_reducible apply State.toEgress_keeps
    | with_reducible apply State.raise_keeps
    | with_reducible apply State.unref_keeps
    | with_reducible apply State.takeFree_keeps
    | intro _
    | refine fst_keeps (by assumption) ?_
    | refine snd_keeps (by assumption) ?_
    | split
    | dsimp only


theorem execBucketSweep_keeps {s : State} (h : s.Keeps P Q) : Completes (execBucketSweep s) (State.Keeps P Q) := by
  unfold execBucketSweep
  repeat' first
    | with_reducible refine completes_keeps _ ?_
    | with_reducible exact h
    | with_reducible assumption
    | simp only [↓keeps_upd]
    | with_reducible apply ok_keeps
    | with_reducible apply State.sweepBkts_keeps
    | intro _
    | refine fst_keeps (by assumption) ?_
    | refine snd_keeps (by assumption) ?_
    | split
    | dsimp only


theorem execBucketWord0Write_keeps {s : State} (h : s.Keeps P Q) (ag : Agent) (b : Fin 98304) (v : Word) : Completes (execBucketWord0Write ag b v s) (State.Keeps P Q) := by
  unfold execBucketWord0Write
  repeat' first
    | with_reducible refine completes_keeps _ ?_
    | with_reducible exact h
    | with_reducible assumption
    | simp only [↓keeps_upd]
    | with_reducible apply ok_keeps
    | with_reducible apply State.bucketWord0_keeps
    | intro _
    | refine fst_keeps (by assumption) ?_
    | refine snd_keeps (by assumption) ?_
    | split
    | dsimp only


theorem execDebtClear_keeps {s : State} (h : s.Keeps P Q) (ag : Agent) (b : Fin 98304) (v : Word) : Completes (execDebtClear ag b v s) (State.Keeps P Q) := by
  unfold execDebtClear
  repeat' first
    | with_reducible refine completes_keeps _ ?_
    | with_reducible exact h
    | with_reducible assumption
    | simp only [↓keeps_upd]
    | with_reducible apply ok_keeps
    | with_reducible apply State.bucketWord0_keeps
    | intro _
    | refine fst_keeps (by assumption) ?_
    | refine snd_keeps (by assumption) ?_
    | split
    | dsimp only


theorem execStatsSample_keeps {s : State} (h : s.Keeps P Q) (g : Fin 16) : Completes (execStatsSample g s) (State.Keeps P Q) := by
  unfold execStatsSample
  repeat' first
    | with_reducible refine completes_keeps _ ?_
    | with_reducible exact h
    | with_reducible assumption
    | simp only [↓keeps_upd]
    | with_reducible apply ok_keeps
    | with_reducible apply State.sampleStat_keeps
    | with_reducible apply foldl_keeps
    | intro _
    | refine fst_keeps (by assumption) ?_
    | refine snd_keeps (by assumption) ?_
    | split
    | dsimp only


theorem execStatsClear_keeps {s : State} (h : s.Keeps P Q) (ag : Agent) (e : Fin 8192) (v : Word) : Completes (execStatsClear ag e v s) (State.Keeps P Q) := by
  unfold execStatsClear
  repeat' first
    | with_reducible refine completes_keeps _ ?_
    | with_reducible exact h
    | with_reducible assumption
    | simp only [↓keeps_upd]
    | with_reducible apply ok_keeps
    | with_reducible apply State.winGate_keeps
    | with_reducible apply State.schStore_keeps
    | intro _
    | refine fst_keeps (by assumption) ?_
    | refine snd_keeps (by assumption) ?_
    | split
    | dsimp only


theorem execCipherDownstream_keeps {s : State} (h : s.Keeps P Q) (p : Fin 32) (sd : Side) (bad : Option (Fin 16)) : Completes (execCipherDownstream p sd bad s) (State.Keeps P Q) := by
  unfold execCipherDownstream
  repeat' first
    | with_reducible refine completes_keeps _ ?_
    | with_reducible exact h
    | with_reducible assumption
    | simp only [↓keeps_upd]
    | with_reducible apply ok_keeps
    | with_reducible apply State.cipherPkt_keeps
    | with_reducible apply State.toEgress_keeps
    | intro _
    | refine fst_keeps (by assumption) ?_
    | refine snd_keeps (by assumption) ?_
    | split
    | dsimp only


theorem execUpstreamXgemFrame_keeps {s : State} (h : s.Keeps P Q) (p : Fin 32) (sd : Side) (ctx : BitVec 16) (cls : Fin 8) (key : Fin 4) (word : BitVec 18) (bytes : List Byte) (unc full : Bool) (bad : Option (Fin 16)) : Completes (execUpstreamXgemFrame p sd ctx cls key word bytes unc full bad s) (State.Keeps P Q) := by
  unfold execUpstreamXgemFrame
  repeat' first
    | with_reducible refine completes_keeps _ ?_
    | with_reducible exact h
    | with_reducible assumption
    | simp only [↓keeps_upd]
    | with_reducible apply ok_keeps
    | with_reducible apply State.xgemUp_keeps
    | intro _
    | refine fst_keeps (by assumption) ?_
    | refine snd_keeps (by assumption) ?_
    | split
    | dsimp only


theorem execSorterDispatch_keeps {s : State} (h : s.Keeps P Q) : Completes (execSorterDispatch s) (State.Keeps P Q) := by
  unfold execSorterDispatch
  repeat' first
    | with_reducible refine completes_keeps _ ?_
    | with_reducible exact h
    | with_reducible assumption
    | simp only [↓keeps_upd]
    | with_reducible apply ok_keeps
    | with_reducible apply State.dispatch_keeps
    | intro _
    | refine fst_keeps (by assumption) ?_
    | refine snd_keeps (by assumption) ?_
    | split
    | dsimp only


theorem execExpressLookup_keeps {s : State} (h : s.Keeps P Q) (upset : Option (Fin 65536)) (ecc : List (Fin 532480 × Bool)) : Completes (execExpressLookup upset ecc s) (State.Keeps P Q) := by
  unfold execExpressLookup
  repeat' first
    | with_reducible refine completes_keeps _ ?_
    | with_reducible exact h
    | with_reducible assumption
    | simp only [↓keeps_upd]
    | with_reducible apply ok_keeps
    | with_reducible apply State.exmLookup_keeps
    | with_reducible apply State.ldgLookup_keeps
    | with_reducible apply State.releaseDesc_keeps
    | intro _
    | refine fst_keeps (by assumption) ?_
    | refine snd_keeps (by assumption) ?_
    | split
    | dsimp only


theorem execWindowLoadDone_keeps {s : State} (h : s.Keeps P Q) (g : Fin 64) (e : Fin 16) (c : Fin 4) : Completes (execWindowLoadDone g e c s) (State.Keeps P Q) := by
  unfold execWindowLoadDone
  repeat' first
    | with_reducible refine completes_keeps _ ?_
    | with_reducible exact h
    | with_reducible assumption
    | simp only [↓keeps_upd]
    | with_reducible apply ok_keeps
    | with_reducible apply State.setCtx_keeps
    | intro _
    | refine fst_keeps (by assumption) ?_
    | refine snd_keeps (by assumption) ?_
    | split
    | dsimp only


theorem execSorterRelease_keeps {s : State} (h : s.Keeps P Q) (flow : BitVec 16) : Completes (execSorterRelease flow s) (State.Keeps P Q) := by
  unfold execSorterRelease
  repeat' first
    | with_reducible refine completes_keeps _ ?_
    | with_reducible exact h
    | with_reducible assumption
    | simp only [↓keeps_upd]
    | with_reducible apply ok_keeps
    | with_reducible apply State.releaseFlow_keeps
    | with_reducible apply State.storeInFlight_keeps
    | intro _
    | refine fst_keeps (by assumption) ?_
    | refine snd_keeps (by assumption) ?_
    | split
    | dsimp only


theorem execReorderTimeout_keeps {s : State} (h : s.Keeps P Q) (flow : BitVec 16) : Completes (execReorderTimeout flow s) (State.Keeps P Q) := by
  unfold execReorderTimeout
  repeat' first
    | with_reducible refine completes_keeps _ ?_
    | with_reducible exact h
    | with_reducible assumption
    | simp only [↓keeps_upd]
    | with_reducible apply State.release_keeps
    | with_reducible apply ok_keeps
    | with_reducible apply State.modFlight_keeps
    | with_reducible apply State.setFlow_keeps
    | with_reducible apply State.inc_keeps
    | with_reducible apply State.raise_keeps
    | with_reducible apply State.releaseFlow_keeps
    | with_reducible apply State.storeInFlight_keeps
    | intro _
    | refine fst_keeps (by assumption) ?_
    | refine snd_keeps (by assumption) ?_
    | split
    | dsimp only


theorem execLedgerSearch_keeps {s : State} (h : s.Keeps P Q) (g : Fin 64) (e : Fin 16) (c m : Fin 4) (upset : Option (Fin 65536)) : Completes (execLedgerSearch g e c m upset s) (State.Keeps P Q) := by
  unfold execLedgerSearch
  repeat' first
    | with_reducible refine completes_keeps _ ?_
    | with_reducible exact h
    | with_reducible assumption
    | simp only [↓keeps_upd]
    | with_reducible apply ok_keeps
    | with_reducible apply State.slotFound_keeps
    | with_reducible apply State.ldgLookup_keeps
    | intro _
    | refine fst_keeps (by assumption) ?_
    | refine snd_keeps (by assumption) ?_
    | split
    | dsimp only


theorem execExmSearch_keeps {s : State} (h : s.Keeps P Q) (g : Fin 64) (e : Fin 16) (c m : Fin 4) (ecc : List (Fin 532480 × Bool)) : Completes (execExmSearch g e c m ecc s) (State.Keeps P Q) := by
  unfold execExmSearch
  repeat' first
    | with_reducible refine completes_keeps _ ?_
    | with_reducible exact h
    | with_reducible assumption
    | simp only [↓keeps_upd]
    | with_reducible apply ok_keeps
    | with_reducible apply State.slotFound_keeps
    | with_reducible apply State.exmLookup_keeps
    | intro _
    | refine fst_keeps (by assumption) ?_
    | refine snd_keeps (by assumption) ?_
    | split
    | dsimp only


theorem execLookupResult_keeps {s : State} (h : s.Keeps P Q) (g : Fin 64) (e : Fin 16) (c m : Fin 4) : Completes (execLookupResult g e c m s) (State.Keeps P Q) := by
  unfold execLookupResult
  repeat' first
    | with_reducible refine completes_keeps _ ?_
    | with_reducible exact h
    | with_reducible assumption
    | simp only [↓keeps_upd]
    | with_reducible apply ok_keeps
    | with_reducible apply State.endException_keeps
    | with_reducible apply State.setCtx_keeps
    | with_reducible apply State.setSlot_keeps
    | intro _
    | refine fst_keeps (by assumption) ?_
    | refine snd_keeps (by assumption) ?_
    | split
    | dsimp only


theorem execEngineWdog_keeps {s : State} (h : s.Keeps P Q) (g : Fin 64) (e : Fin 16) : Completes (execEngineWdog g e s) (State.Keeps P Q) := by
  unfold execEngineWdog
  repeat' first
    | with_reducible refine completes_keeps _ ?_
    | with_reducible exact h
    | with_reducible assumption
    | simp only [↓keeps_upd]
    | with_reducible apply ok_keeps
    | with_reducible apply State.markFailed_keeps
    | with_reducible apply State.raise_keeps
    | intro _
    | refine fst_keeps (by assumption) ?_
    | refine snd_keeps (by assumption) ?_
    | split
    | dsimp only


theorem execEngineParity_keeps {s : State} (h : s.Keeps P Q) (g : Fin 64) (e : Fin 16) (structure_ : Fin 4) : Completes (execEngineParity g e structure_ s) (State.Keeps P Q) := by
  unfold execEngineParity
  repeat' first
    | with_reducible refine completes_keeps _ ?_
    | with_reducible exact h
    | with_reducible assumption
    | simp only [↓keeps_upd]
    | with_reducible apply ok_keeps
    | with_reducible apply State.markFailed_keeps
    | with_reducible apply State.raise_keeps
    | intro _
    | refine fst_keeps (by assumption) ?_
    | refine snd_keeps (by assumption) ?_
    | split
    | dsimp only


theorem execCostWindowEnd_keeps {s : State} (h : s.Keeps P Q) (g : Fin 64) : Completes (execCostWindowEnd g s) (State.Keeps P Q) := by
  unfold execCostWindowEnd
  repeat' first
    | with_reducible refine completes_keeps _ ?_
    | with_reducible exact h
    | with_reducible assumption
    | simp only [↓keeps_upd]
    | with_reducible apply State.setGuild_keeps
    | with_reducible apply State.wr_keeps
    | with_reducible apply ok_keeps
    | with_reducible apply State.raise_keeps
    | intro _
    | refine fst_keeps (by assumption) ?_
    | refine snd_keeps (by assumption) ?_
    | split
    | dsimp only


theorem execEngEnWrite_keeps {s : State} (h : s.Keeps P Q) (ag : Agent) (g : Fin 64) (v : BitVec 32) : Completes (execEngEnWrite ag g v s) (State.Keeps P Q) := by
  unfold execEngEnWrite
  repeat' first
    | with_reducible refine completes_keeps _ ?_
    | with_reducible exact h
    | with_reducible assumption
    | simp only [↓keeps_upd]
    | with_reducible apply ok_keeps
    | with_reducible apply State.gldCtrl_keeps
    | intro _
    | refine fst_keeps (by assumption) ?_
    | refine snd_keeps (by assumption) ?_
    | split
    | dsimp only


theorem execDrain_keeps {s : State} (h : s.Keeps P Q) (ag : Agent) (g : Fin 64) (v : BitVec 32) : Completes (execDrain ag g v s) (State.Keeps P Q) := by
  unfold execDrain
  repeat' first
    | with_reducible refine completes_keeps _ ?_
    | with_reducible exact h
    | with_reducible assumption
    | simp only [↓keeps_upd]
    | with_reducible apply ok_keeps
    | with_reducible apply State.gldCtrl_keeps
    | intro _
    | refine fst_keeps (by assumption) ?_
    | refine snd_keeps (by assumption) ?_
    | split
    | dsimp only


theorem execAbort_keeps {s : State} (h : s.Keeps P Q) (ag : Agent) (g : Fin 64) (v : BitVec 32) : Completes (execAbort ag g v s) (State.Keeps P Q) := by
  unfold execAbort
  repeat' first
    | with_reducible refine completes_keeps _ ?_
    | with_reducible exact h
    | with_reducible assumption
    | simp only [↓keeps_upd]
    | with_reducible apply ok_keeps
    | with_reducible apply State.gldCtrl_keeps
    | intro _
    | refine fst_keeps (by assumption) ?_
    | refine snd_keeps (by assumption) ?_
    | split
    | dsimp only


theorem execGuildLoad_keeps {s : State} (h : s.Keeps P Q) (ag : Agent) (g : Fin 64) (v : BitVec 32) : Completes (execGuildLoad ag g v s) (State.Keeps P Q) := by
  unfold execGuildLoad
  repeat' first
    | with_reducible refine completes_keeps _ ?_
    | with_reducible exact h
    | with_reducible assumption
    | simp only [↓keeps_upd]
    | with_reducible apply ok_keeps
    | with_reducible apply State.gldCtrl_keeps
    | intro _
    | refine fst_keeps (by assumption) ?_
    | refine snd_keeps (by assumption) ?_
    | split
    | dsimp only


theorem execDrainComplete_keeps {s : State} (h : s.Keeps P Q) (g : Fin 64) : Completes (execDrainComplete g s) (State.Keeps P Q) := by
  unfold execDrainComplete
  repeat' first
    | with_reducible refine completes_keeps _ ?_
    | with_reducible exact h
    | with_reducible assumption
    | simp only [↓keeps_upd]
    | with_reducible apply ok_keeps
    | with_reducible apply State.wr_keeps
    | intro _
    | refine fst_keeps (by assumption) ?_
    | refine snd_keeps (by assumption) ?_
    | split
    | dsimp only


theorem execDrainStuck_keeps {s : State} (h : s.Keeps P Q) (g : Fin 64) : Completes (execDrainStuck g s) (State.Keeps P Q) := by
  unfold execDrainStuck
  repeat' first
    | with_reducible refine completes_keeps _ ?_
    | with_reducible exact h
    | with_reducible assumption
    | simp only [↓keeps_upd]
    | with_reducible apply ok_keeps
    | with_reducible apply State.emptyGuild_keeps
    | with_reducible apply State.raise_keeps
    | with_reducible apply State.wr_keeps
    | intro _
    | refine fst_keeps (by assumption) ?_
    | refine snd_keeps (by assumption) ?_
    | split
    | dsimp only


theorem execSwitchDone_keeps {s : State} (h : s.Keeps P Q) (g : Fin 64) : Completes (execSwitchDone g s) (State.Keeps P Q) := by
  unfold execSwitchDone
  repeat' first
    | with_reducible refine completes_keeps _ ?_
    | with_reducible exact h
    | with_reducible assumption
    | simp only [↓keeps_upd]
    | with_reducible apply State.swapBanks_keeps
    | with_reducible apply State.initShared_keeps
    | with_reducible apply ok_keeps
    | with_reducible apply State.wr_keeps
    | intro _
    | refine fst_keeps (by assumption) ?_
    | refine snd_keeps (by assumption) ?_
    | split
    | dsimp only


theorem execStandbyBankWrite_keeps {s : State} (h : s.Keeps P Q) (ag : Agent) (g : Fin 64) (idx : Fin 4097) (first : Fin 16) (ws : List (BitVec 32)) : Completes (execStandbyBankWrite ag g idx first ws s) (State.Keeps P Q) := by
  unfold execStandbyBankWrite
  repeat' first
    | with_reducible refine completes_keeps _ ?_
    | with_reducible exact h
    | with_reducible assumption
    | simp only [↓keeps_upd]
    | with_reducible apply ok_keeps
    | with_reducible apply State.winGate_keeps
    | with_reducible apply State.deny_keeps
    | with_reducible apply State.gldStore_keeps
    | intro _
    | refine fst_keeps (by assumption) ?_
    | refine snd_keeps (by assumption) ?_
    | split
    | dsimp only


theorem execValidateDone_keeps {s : State} (h : s.Keeps P Q) (g : Fin 64) : Completes (execValidateDone g s) (State.Keeps P Q) := by
  unfold execValidateDone
  repeat' first
    | with_reducible refine completes_keeps _ ?_
    | with_reducible exact h
    | with_reducible assumption
    | simp only [↓keeps_upd]
    | with_reducible apply ok_keeps
    | with_reducible apply State.wr_keeps
    | with_reducible apply State.raise_keeps
    | intro _
    | refine fst_keeps (by assumption) ?_
    | refine snd_keeps (by assumption) ?_
    | split
    | dsimp only


theorem execLdgWrite_keeps {s : State} (h : s.Keeps P Q) (ag : Agent) (k : Fin 2) (v : BitVec 32) : Completes (execLdgWrite ag k v s) (State.Keeps P Q) := by
  unfold execLdgWrite
  repeat' first
    | with_reducible refine completes_keeps _ ?_
    | with_reducible exact h
    | with_reducible assumption
    | simp only [↓keeps_upd]
    | with_reducible apply ok_keeps
    | with_reducible apply State.ldgCmd_keeps
    | intro _
    | refine fst_keeps (by assumption) ?_
    | refine snd_keeps (by assumption) ?_
    | split
    | dsimp only


theorem execLdgInsert_keeps {s : State} (h : s.Keeps P Q) (ag : Agent) (k : Fin 2) (v : BitVec 32) : Completes (execLdgInsert ag k v s) (State.Keeps P Q) := by
  unfold execLdgInsert
  repeat' first
    | with_reducible refine completes_keeps _ ?_
    | with_reducible exact h
    | with_reducible assumption
    | simp only [↓keeps_upd]
    | with_reducible apply ok_keeps
    | with_reducible apply State.ldgCmd_keeps
    | intro _
    | refine fst_keeps (by assumption) ?_
    | refine snd_keeps (by assumption) ?_
    | split
    | dsimp only


theorem execDelete_keeps {s : State} (h : s.Keeps P Q) (ag : Agent) (k : Fin 2) (v : BitVec 32) (ecc : List (Fin 532480 × Bool)) : Completes (execDelete ag k v ecc s) (State.Keeps P Q) := by
  unfold execDelete
  repeat' first
    | with_reducible refine completes_keeps _ ?_
    | with_reducible exact h
    | with_reducible assumption
    | simp only [↓keeps_upd]
    | with_reducible apply ok_keeps
    | with_reducible apply State.ldgCmd_keeps
    | intro _
    | refine fst_keeps (by assumption) ?_
    | refine snd_keeps (by assumption) ?_
    | split
    | dsimp only


theorem execModify_keeps {s : State} (h : s.Keeps P Q) (ag : Agent) (k : Fin 2) (v : BitVec 32) (ecc : List (Fin 532480 × Bool)) : Completes (execModify ag k v ecc s) (State.Keeps P Q) := by
  unfold execModify
  repeat' first
    | with_reducible refine completes_keeps _ ?_
    | with_reducible exact h
    | with_reducible assumption
    | simp only [↓keeps_upd]
    | with_reducible apply ok_keeps
    | with_reducible apply State.ldgCmd_keeps
    | intro _
    | refine fst_keeps (by assumption) ?_
    | refine snd_keeps (by assumption) ?_
    | split
    | dsimp only


theorem execAddKey_keeps {s : State} (h : s.Keeps P Q) (ag : Agent) (k : Fin 2) (v : BitVec 32) (ecc : List (Fin 532480 × Bool)) : Completes (execAddKey ag k v ecc s) (State.Keeps P Q) := by
  unfold execAddKey
  repeat' first
    | with_reducible refine completes_keeps _ ?_
    | with_reducible exact h
    | with_reducible assumption
    | simp only [↓keeps_upd]
    | with_reducible apply ok_keeps
    | with_reducible apply State.ldgCmd_keeps
    | intro _
    | refine fst_keeps (by assumption) ?_
    | refine snd_keeps (by assumption) ?_
    | split
    | dsimp only


theorem execLookup_keeps {s : State} (h : s.Keeps P Q) (ag : Agent) (k : Fin 2) (v : BitVec 32) (upset : Option (Fin 65536)) (ecc : List (Fin 532480 × Bool)) : Completes (execLookup ag k v upset ecc s) (State.Keeps P Q) := by
  unfold execLookup
  repeat' first
    | with_reducible refine completes_keeps _ ?_
    | with_reducible exact h
    | with_reducible assumption
    | simp only [↓keeps_upd]
    | with_reducible apply ok_keeps
    | with_reducible apply State.ldgCmd_keeps
    | intro _
    | refine fst_keeps (by assumption) ?_
    | refine snd_keeps (by assumption) ?_
    | split
    | dsimp only


theorem execOpenEpoch_keeps {s : State} (h : s.Keeps P Q) (ag : Agent) (k : Fin 2) (v : BitVec 32) : Completes (execOpenEpoch ag k v s) (State.Keeps P Q) := by
  unfold execOpenEpoch
  repeat' first
    | with_reducible refine completes_keeps _ ?_
    | with_reducible exact h
    | with_reducible assumption
    | simp only [↓keeps_upd]
    | with_reducible apply ok_keeps
    | with_reducible apply State.ldgCmd_keeps
    | intro _
    | refine fst_keeps (by assumption) ?_
    | refine snd_keeps (by assumption) ?_
    | split
    | dsimp only


theorem execPublish_keeps {s : State} (h : s.Keeps P Q) (ag : Agent) (k : Fin 2) (v : BitVec 32) : Completes (execPublish ag k v s) (State.Keeps P Q) := by
  unfold execPublish
  repeat' first
    | with_reducible refine completes_keeps _ ?_
    | with_reducible exact h
    | with_reducible assumption
    | simp only [↓keeps_upd]
    | with_reducible apply ok_keeps
    | with_reducible apply State.ldgCmd_keeps
    | intro _
    | refine fst_keeps (by assumption) ?_
    | refine snd_keeps (by assumption) ?_
    | split
    | dsimp only


theorem execDiscard_keeps {s : State} (h : s.Keeps P Q) (ag : Agent) (k : Fin 2) (v : BitVec 32) : Completes (execDiscard ag k v s) (State.Keeps P Q) := by
  unfold execDiscard
  repeat' first
    | with_reducible refine completes_keeps _ ?_
    | with_reducible exact h
    | with_reducible assumption
    | simp only [↓keeps_upd]
    | with_reducible apply ok_keeps
    | with_reducible apply State.ldgCmd_keeps
    | intro _
    | refine fst_keeps (by assumption) ?_
    | refine snd_keeps (by assumption) ?_
    | split
    | dsimp only


theorem execLedgerMove_keeps {s : State} (h : s.Keeps P Q) : Completes (execLedgerMove s) (State.Keeps P Q) := by
  unfold execLedgerMove
  repeat' first
    | with_reducible refine completes_keeps _ ?_
    | with_reducible exact h
    | with_reducible assumption
    | simp only [↓keeps_upd]
    | with_reducible apply ok_keeps
    | with_reducible apply State.moveRow_keeps
    | with_reducible apply State.inc_keeps
    | with_reducible apply State.insFinish_keeps
    | with_reducible apply State.ldgNext_keeps
    | intro _
    | refine fst_keeps (by assumption) ?_
    | refine snd_keeps (by assumption) ?_
    | split
    | dsimp only


theorem execRespreadMove_keeps {s : State} (h : s.Keeps P Q) (r : Fin 16) : Completes (execRespreadMove r s) (State.Keeps P Q) := by
  unfold execRespreadMove
  repeat' first
    | with_reducible refine completes_keeps _ ?_
    | with_reducible exact h
    | with_reducible assumption
    | simp only [↓keeps_upd]
    | with_reducible apply ok_keeps
    | with_reducible apply State.moveRow_keeps
    | with_reducible apply State.inc_keeps
    | intro _
    | refine fst_keeps (by assumption) ?_
    | refine snd_keeps (by assumption) ?_
    | split
    | dsimp only


theorem execScrubRow_keeps {s : State} (h : s.Keeps P Q) (row : Fin 65536) (mismatch uncorr : Bool) : Completes (execScrubRow row mismatch uncorr s) (State.Keeps P Q) := by
  unfold execScrubRow
  repeat' first
    | with_reducible refine completes_keeps _ ?_
    | with_reducible exact h
    | with_reducible assumption
    | simp only [↓keeps_upd]
    | with_reducible apply ok_keeps
    | with_reducible apply State.scrub_keeps
    | intro _
    | refine fst_keeps (by assumption) ?_
    | refine snd_keeps (by assumption) ?_
    | split
    | dsimp only


theorem execStashDrainPass_keeps {s : State} (h : s.Keeps P Q) (ecc : List (Fin 532480 × Bool)) : Completes (execStashDrainPass ecc s) (State.Keeps P Q) := by
  unfold execStashDrainPass
  repeat' first
    | with_reducible refine completes_keeps _ ?_
    | with_reducible exact h
    | with_reducible assumption
    | simp only [↓keeps_upd]
    | with_reducible apply State.cellsEcc_keeps
    | with_reducible apply State.drainStash_keeps
    | with_reducible apply ok_keeps
    | with_reducible apply State.stashHigh_keeps
    | with_reducible apply foldl_keeps
    | intro _
    | refine fst_keeps (by assumption) ?_
    | refine snd_keeps (by assumption) ?_
    | split
    | dsimp only


theorem execEpochRetire_keeps {s : State} (h : s.Keeps P Q) : Completes (execEpochRetire s) (State.Keeps P Q) := by
  unfold execEpochRetire
  repeat' first
    | with_reducible refine completes_keeps _ ?_
    | with_reducible exact h
    | with_reducible assumption
    | simp only [↓keeps_upd]
    | with_reducible apply ok_keeps
    | with_reducible apply State.retireStart_keeps
    | intro _
    | refine fst_keeps (by assumption) ?_
    | refine snd_keeps (by assumption) ?_
    | split
    | dsimp only


theorem execSweepDone_keeps {s : State} (h : s.Keeps P Q) (discard : Bool) (ecc : List (Fin 532480 × Bool)) : Completes (execSweepDone discard ecc s) (State.Keeps P Q) := by
  unfold execSweepDone
  repeat' first
    | with_reducible refine completes_keeps _ ?_
    | with_reducible exact h
    | with_reducible assumption
    | simp only [↓keeps_upd]
    | with_reducible apply ok_keeps
    | with_reducible apply State.cellsEcc_keeps
    | with_reducible apply State.discardDone_keeps
    | with_reducible apply State.retireDone_keeps
    | intro _
    | refine fst_keeps (by assumption) ?_
    | refine snd_keeps (by assumption) ?_
    | split
    | dsimp only


theorem execEpochStuck_keeps {s : State} (h : s.Keeps P Q) (e : Fin 16) : Completes (execEpochStuck e s) (State.Keeps P Q) := by
  unfold execEpochStuck
  repeat' first
    | with_reducible refine completes_keeps _ ?_
    | with_reducible exact h
    | with_reducible assumption
    | simp only [↓keeps_upd]
    | with_reducible apply State.raise_keeps
    | with_reducible apply ok_keeps
    | intro _
    | refine fst_keeps (by assumption) ?_
    | refine snd_keeps (by assumption) ?_
    | split
    | dsimp only


theorem execSourceTimeout_keeps {s : State} (h : s.Keeps P Q) (d : Fin 2) : Completes (execSourceTimeout d s) (State.Keeps P Q) := by
  unfold execSourceTimeout
  repeat' first
    | with_reducible refine completes_keeps _ ?_
    | with_reducible exact h
    | with_reducible assumption
    | simp only [↓keeps_upd]
    | with_reducible apply State.raise_keeps
    | with_reducible apply ok_keeps
    | with_reducible apply State.setDomState_keeps
    | with_reducible apply State.autoSwitch_keeps
    | with_reducible apply State.setFreq_keeps
    | with_reducible apply State.setDom_keeps
    | with_reducible apply State.inc_keeps
    | with_reducible apply State.onset_keeps
    | intro _
    | refine fst_keeps (by assumption) ?_
    | refine snd_keeps (by assumption) ?_
    | split
    | dsimp only


theorem execWtrExpiry_keeps {s : State} (h : s.Keeps P Q) : Completes (execWtrExpiry s) (State.Keeps P Q) := by
  unfold execWtrExpiry
  repeat' first
    | with_reducible refine completes_keeps _ ?_
    | with_reducible exact h
    | with_reducible assumption
    | simp only [↓keeps_upd]
    | with_reducible apply ok_keeps
    | with_reducible apply State.switchOut_keeps
    | intro _
    | refine fst_keeps (by assumption) ?_
    | refine snd_keeps (by assumption) ?_
    | split
    | dsimp only


theorem execPpsInEdge_keeps {s : State} (h : s.Keeps P Q) (i : Fin 2) : Completes (execPpsInEdge i s) (State.Keeps P Q) := by
  unfold execPpsInEdge
  repeat' first
    | with_reducible refine completes_keeps _ ?_
    | with_reducible exact h
    | with_reducible assumption
    | simp only [↓keeps_upd]
    | with_reducible apply State.inc_keeps
    | with_reducible apply ok_keeps
    | with_reducible apply State.setPpsIn_keeps
    | with_reducible apply State.raise_keeps
    | with_reducible apply State.acquire_keeps
    | with_reducible apply State.domSample_keeps
    | with_reducible apply foldl_keeps
    | intro _
    | refine fst_keeps (by assumption) ?_
    | refine snd_keeps (by assumption) ?_
    | split
    | dsimp only


theorem execPpsMissed_keeps {s : State} (h : s.Keeps P Q) (i : Fin 2) : Completes (execPpsMissed i s) (State.Keeps P Q) := by
  unfold execPpsMissed
  repeat' first
    | with_reducible refine completes_keeps _ ?_
    | with_reducible exact h
    | with_reducible assumption
    | simp only [↓keeps_upd]
    | with_reducible apply ok_keeps
    | with_reducible apply State.setPpsIn_keeps
    | with_reducible apply State.inc_keeps
    | with_reducible apply State.raise_keeps
    | intro _
    | refine fst_keeps (by assumption) ?_
    | refine snd_keeps (by assumption) ?_
    | split
    | dsimp only


theorem execTodMessageRx_keeps {s : State} (h : s.Keeps P Q) (i : Fin 2) (bytes : List Byte) : Completes (execTodMessageRx i bytes s) (State.Keeps P Q) := by
  unfold execTodMessageRx
  repeat' first
    | with_reducible refine completes_keeps _ ?_
    | with_reducible exact h
    | with_reducible assumption
    | simp only [↓keeps_upd]
    | with_reducible apply State.setPpsIn_keeps
    | with_reducible apply State.inc_keeps
    | with_reducible apply State.raise_keeps
    | with_reducible apply ok_keeps
    | intro _
    | refine fst_keeps (by assumption) ?_
    | refine snd_keeps (by assumption) ?_
    | split
    | dsimp only


theorem execPpsOutEdge_keeps {s : State} (h : s.Keeps P Q) : Completes (execPpsOutEdge s) (State.Keeps P Q) := by
  unfold execPpsOutEdge
  repeat' first
    | with_reducible refine completes_keeps _ ?_
    | with_reducible exact h
    | with_reducible assumption
    | simp only [↓keeps_upd]
    | with_reducible apply ok_keeps
    | intro _
    | refine fst_keeps (by assumption) ?_
    | refine snd_keeps (by assumption) ?_
    | split
    | dsimp only


theorem execTodOutSend_keeps {s : State} (h : s.Keeps P Q) : Completes (execTodOutSend s) (State.Keeps P Q) := by
  unfold execTodOutSend
  repeat' first
    | with_reducible refine completes_keeps _ ?_
    | with_reducible exact h
    | with_reducible assumption
    | simp only [↓keeps_upd]
    | with_reducible apply State.lock_keeps
    | with_reducible apply ok_keeps
    | intro _
    | refine fst_keeps (by assumption) ?_
    | refine snd_keeps (by assumption) ?_
    | split
    | dsimp only


theorem execCtiRecordTake_keeps {s : State} (h : s.Keeps P Q) : Completes (execCtiRecordTake s) (State.Keeps P Q) := by
  unfold execCtiRecordTake
  repeat' first
    | with_reducible refine completes_keeps _ ?_
    | with_reducible exact h
    | with_reducible assumption
    | simp only [↓keeps_upd]
    | with_reducible apply ok_keeps
    | with_reducible apply State.inc_keeps
    | intro _
    | refine fst_keeps (by assumption) ?_
    | refine snd_keeps (by assumption) ?_
    | split
    | dsimp only


theorem execTodAnnounce_keeps {s : State} (h : s.Keeps P Q) (p : Fin 32) (slot : Fin 256) : Completes (execTodAnnounce p slot s) (State.Keeps P Q) := by
  unfold execTodAnnounce
  repeat' first
    | with_reducible refine completes_keeps _ ?_
    | with_reducible exact h
    | with_reducible assumption
    | simp only [↓keeps_upd]
    | with_reducible apply ok_keeps
    | with_reducible apply State.inc_keeps
    | intro _
    | refine fst_keeps (by assumption) ?_
    | refine snd_keeps (by assumption) ?_
    | split
    | dsimp only


theorem execPonFreqMeasure_keeps {s : State} (h : s.Keeps P Q) (y : BitVec 32) : Completes (execPonFreqMeasure y s) (State.Keeps P Q) := by
  unfold execPonFreqMeasure
  repeat' first
    | with_reducible refine completes_keeps _ ?_
    | with_reducible exact h
    | with_reducible assumption
    | simp only [↓keeps_upd]
    | with_reducible apply State.wr_keeps
    | with_reducible apply ok_keeps
    | with_reducible apply State.onset_keeps
    | with_reducible apply State.endCause_keeps
    | intro _
    | refine fst_keeps (by assumption) ?_
    | refine snd_keeps (by assumption) ?_
    | split
    | dsimp only


theorem execSynceSquelch_keeps {s : State} (h : s.Keeps P Q) (o : Fin 2) : Completes (execSynceSquelch o s) (State.Keeps P Q) := by
  unfold execSynceSquelch
  repeat' first
    | with_reducible refine completes_keeps _ ?_
    | with_reducible exact h
    | with_reducible assumption
    | simp only [↓keeps_upd]
    | with_reducible apply ok_keeps
    | with_reducible apply State.setSquelch_keeps
    | with_reducible apply State.inc_keeps
    | with_reducible apply State.onset_keeps
    | intro _
    | refine fst_keeps (by assumption) ?_
    | refine snd_keeps (by assumption) ?_
    | split
    | dsimp only


theorem execSynceResume_keeps {s : State} (h : s.Keeps P Q) (o : Fin 2) : Completes (execSynceResume o s) (State.Keeps P Q) := by
  unfold execSynceResume
  repeat' first
    | with_reducible refine completes_keeps _ ?_
    | with_reducible exact h
    | with_reducible assumption
    | simp only [↓keeps_upd]
    | with_reducible apply ok_keeps
    | with_reducible apply State.setSquelch_keeps
    | with_reducible apply State.endCause_keeps
    | intro _
    | refine fst_keeps (by assumption) ?_
    | refine snd_keeps (by assumption) ?_
    | split
    | dsimp only


theorem execFaultMessageRx_keeps {s : State} (h : s.Keeps P Q) (box : Nat) (differ : Option (BitVec 8 × Bool)) : Completes (execFaultMessageRx box differ s) (State.Keeps P Q) := by
  unfold execFaultMessageRx
  repeat' first
    | with_reducible refine completes_keeps _ ?_
    | with_reducible exact h
    | with_reducible assumption
    | simp only [↓keeps_upd]
    | with_reducible apply ok_keeps
    | with_reducible apply State.bellman_keeps
    | with_reducible apply State.raise_keeps
    | with_reducible apply State.enterSafe_keeps
    | intro _
    | refine fst_keeps (by assumption) ?_
    | refine snd_keeps (by assumption) ?_
    | split
    | dsimp only


theorem execFltMsgLost_keeps {s : State} (h : s.Keeps P Q) (box : Nat) : Completes (execFltMsgLost box s) (State.Keeps P Q) := by
  unfold execFltMsgLost
  repeat' first
    | with_reducible refine completes_keeps _ ?_
    | with_reducible exact h
    | with_reducible assumption
    | simp only [↓keeps_upd]
    | with_reducible apply ok_keeps
    | with_reducible apply State.raise_keeps
    | intro _
    | refine fst_keeps (by assumption) ?_
    | refine snd_keeps (by assumption) ?_
    | split
    | dsimp only


theorem execSafeStateEntry_keeps {s : State} (h : s.Keeps P Q) : Completes (execSafeStateEntry s) (State.Keeps P Q) := by
  unfold execSafeStateEntry
  repeat' first
    | with_reducible refine completes_keeps _ ?_
    | with_reducible exact h
    | with_reducible assumption
    | simp only [↓keeps_upd]
    | with_reducible apply ok_keeps
    | with_reducible apply State.enterSafe_keeps
    | intro _
    | refine fst_keeps (by assumption) ?_
    | refine snd_keeps (by assumption) ?_
    | split
    | dsimp only


theorem execFilterWindowEnd_keeps {s : State} (h : s.Keeps P Q) (k : Kind) (src : Source) : Completes (execFilterWindowEnd k src s) (State.Keeps P Q) := by
  unfold execFilterWindowEnd
  repeat' first
    | with_reducible refine completes_keeps _ ?_
    | with_reducible exact h
    | with_reducible assumption
    | simp only [↓keeps_upd]
    | with_reducible apply idle_keeps
    | with_reducible apply ok_keeps
    | with_reducible apply State.setTreeSt_keeps
    | intro _
    | refine fst_keeps (by assumption) ?_
    | refine snd_keeps (by assumption) ?_
    | split
    | dsimp only


theorem execHandshakeStall_keeps {s : State} (h : s.Keeps P Q) (src : Source) (stage : BitVec 16) : Completes (execHandshakeStall src stage s) (State.Keeps P Q) := by
  unfold execHandshakeStall
  repeat' first
    | with_reducible refine completes_keeps _ ?_
    | with_reducible exact h
    | with_reducible assumption
    | simp only [↓keeps_upd]
    | with_reducible apply ok_keeps
    | with_reducible apply State.raise_keeps
    | intro _
    | refine fst_keeps (by assumption) ?_
    | refine snd_keeps (by assumption) ?_
    | split
    | dsimp only


theorem execKindCfgWrite_keeps {s : State} (h : s.Keeps P Q) (ag : Agent) (k : Fin 256) (v : Word) : Completes (execKindCfgWrite ag k v s) (State.Keeps P Q) := by
  unfold execKindCfgWrite
  repeat' first
    | with_reducible refine completes_keeps _ ?_
    | with_reducible exact h
    | with_reducible assumption
    | simp only [↓keeps_upd]
    | with_reducible apply ok_keeps
    | with_reducible apply State.kindWrite_keeps
    | intro _
    | refine fst_keeps (by assumption) ?_
    | refine snd_keeps (by assumption) ?_
    | split
    | dsimp only


theorem execKindStatusClear_keeps {s : State} (h : s.Keeps P Q) (ag : Agent) (k : Fin 256) (v : Word) : Completes (execKindStatusClear ag k v s) (State.Keeps P Q) := by
  unfold execKindStatusClear
  repeat' first
    | with_reducible refine completes_keeps _ ?_
    | with_reducible exact h
    | with_reducible assumption
    | simp only [↓keeps_upd]
    | with_reducible apply ok_keeps
    | with_reducible apply State.kindClear_keeps
    | intro _
    | refine fst_keeps (by assumption) ?_
    | refine snd_keeps (by assumption) ?_
    | split
    | dsimp only


theorem execIsoRestore_keeps {s : State} (h : s.Keeps P Q) (ag : Agent) (v : Word) : Completes (execIsoRestore ag v s) (State.Keeps P Q) := by
  unfold execIsoRestore
  repeat' first
    | with_reducible refine completes_keeps _ ?_
    | with_reducible exact h
    | with_reducible assumption
    | simp only [↓keeps_upd]
    | with_reducible apply ok_keeps
    | with_reducible apply State.isoCmd_keeps
    | intro _
    | refine fst_keeps (by assumption) ?_
    | refine snd_keeps (by assumption) ?_
    | split
    | dsimp only


theorem execSafeExit_keeps {s : State} (h : s.Keeps P Q) (ag : Agent) (v : Word) : Completes (execSafeExit ag v s) (State.Keeps P Q) := by
  unfold execSafeExit
  repeat' first
    | with_reducible refine completes_keeps _ ?_
    | with_reducible exact h
    | with_reducible assumption
    | simp only [↓keeps_upd]
    | with_reducible apply ok_keeps
    | with_reducible apply State.fltCtrl_keeps
    | intro _
    | refine fst_keeps (by assumption) ?_
    | refine snd_keeps (by assumption) ?_
    | split
    | dsimp only


theorem execCaptureClr_keeps {s : State} (h : s.Keeps P Q) (ag : Agent) (v : Word) : Completes (execCaptureClr ag v s) (State.Keeps P Q) := by
  unfold execCaptureClr
  repeat' first
    | with_reducible refine completes_keeps _ ?_
    | with_reducible exact h
    | with_reducible assumption
    | simp only [↓keeps_upd]
    | with_reducible apply ok_keeps
    | with_reducible apply State.fltCtrl_keeps
    | intro _
    | refine fst_keeps (by assumption) ?_
    | refine snd_keeps (by assumption) ?_
    | split
    | dsimp only


theorem execAutoRestart_keeps {s : State} (h : s.Keeps P Q) : Completes (execAutoRestart s) (State.Keeps P Q) := by
  unfold execAutoRestart
  repeat' first
    | with_reducible refine completes_keeps _ ?_
    | with_reducible exact h
    | with_reducible assumption
    | simp only [↓keeps_upd]
    | with_reducible apply ok_keeps
    | with_reducible apply State.clearKind_keeps
    | with_reducible apply State.level_keeps
    | with_reducible apply State.warmReset_keeps
    | with_reducible apply foldl_keeps
    | intro _
    | refine fst_keeps (by assumption) ?_
    | refine snd_keeps (by assumption) ?_
    | split
    | dsimp only


theorem execRestartAgeOut_keeps {s : State} (h : s.Keeps P Q) : Completes (execRestartAgeOut s) (State.Keeps P Q) := by
  unfold execRestartAgeOut
  repeat' first
    | with_reducible refine completes_keeps _ ?_
    | with_reducible exact h
    | with_reducible assumption
    | simp only [↓keeps_upd]
    | with_reducible apply ok_keeps
    | intro _
    | refine fst_keeps (by assumption) ?_
    | refine snd_keeps (by assumption) ?_
    | split
    | dsimp only


theorem execAnalogCauseOnset_keeps {s : State} (h : s.Keeps P Q) (c : AnalogCause) : Completes (execAnalogCauseOnset c s) (State.Keeps P Q) := by
  unfold execAnalogCauseOnset
  repeat' first
    | with_reducible refine completes_keeps _ ?_
    | with_reducible exact h
    | with_reducible assumption
    | simp only [↓keeps_upd]
    | with_reducible apply ok_keeps
    | with_reducible apply State.anaOnset_keeps
    | intro _
    | refine fst_keeps (by assumption) ?_
    | refine snd_keeps (by assumption) ?_
    | split
    | dsimp only


theorem execAnalogCauseEnd_keeps {s : State} (h : s.Keeps P Q) (c : AnalogCause) : Completes (execAnalogCauseEnd c s) (State.Keeps P Q) := by
  unfold execAnalogCauseEnd
  repeat' first
    | with_reducible refine completes_keeps _ ?_
    | with_reducible exact h
    | with_reducible assumption
    | simp only [↓keeps_upd]
    | with_reducible apply ok_keeps
    | with_reducible apply State.endCause_keeps
    | with_reducible apply State.alarmBits_keeps
    | intro _
    | refine fst_keeps (by assumption) ?_
    | refine snd_keeps (by assumption) ?_
    | split
    | dsimp only


theorem execTempSample_keeps {s : State} (h : s.Keeps P Q) (i : Fin 16) (t : BitVec 8) : Completes (execTempSample i t s) (State.Keeps P Q) := by
  unfold execTempSample
  repeat' first
    | with_reducible refine completes_keeps _ ?_
    | with_reducible exact h
    | with_reducible assumption
    | simp only [↓keeps_upd]
    | with_reducible apply State.coolPresets_keeps
    | with_reducible apply State.anaOnset_keeps
    | with_reducible apply State.endCause_keeps
    | with_reducible apply ok_keeps
    | with_reducible apply State.alarmBits_keeps
    | intro _
    | refine fst_keeps (by assumption) ?_
    | refine snd_keeps (by assumption) ?_
    | split
    | dsimp only


theorem execTallyConfigWrite_keeps {s : State} (h : s.Keeps P Q) (ag : Agent) (i : Fin 4096) (v : Word) : Completes (execTallyConfigWrite ag i v s) (State.Keeps P Q) := by
  unfold execTallyConfigWrite
  repeat' first
    | with_reducible refine completes_keeps _ ?_
    | with_reducible exact h
    | with_reducible assumption
    | simp only [↓keeps_upd]
    | with_reducible apply ok_keeps
    | with_reducible apply State.tlyGate_keeps
    | with_reducible apply State.tlyApply_keeps
    | intro _
    | refine fst_keeps (by assumption) ?_
    | refine snd_keeps (by assumption) ?_
    | split
    | dsimp only


theorem execSnapshotDone_keeps {s : State} (h : s.Keeps P Q) (skew : Fin 2001) : Completes (execSnapshotDone skew s) (State.Keeps P Q) := by
  unfold execSnapshotDone
  repeat' first
    | with_reducible refine completes_keeps _ ?_
    | with_reducible exact h
    | with_reducible assumption
    | simp only [↓keeps_upd]
    | with_reducible apply ok_keeps
    | with_reducible apply State.wr_keeps
    | with_reducible apply State.inc_keeps
    | with_reducible apply State.msi_keeps
    | with_reducible apply State.toTelemetry_keeps
    | with_reducible apply State.sendSnapshot_keeps
    | intro _
    | refine fst_keeps (by assumption) ?_
    | refine snd_keeps (by assumption) ?_
    | split
    | dsimp only


theorem execSnapPeriodic_keeps {s : State} (h : s.Keeps P Q) : Completes (execSnapPeriodic s) (State.Keeps P Q) := by
  unfold execSnapPeriodic
  repeat' first
    | with_reducible refine completes_keeps _ ?_
    | with_reducible exact h
    | with_reducible assumption
    | simp only [↓keeps_upd]
    | with_reducible apply ok_keeps
    | with_reducible apply State.snapTrigger_keeps
    | intro _
    | refine fst_keeps (by assumption) ?_
    | refine snd_keeps (by assumption) ?_
    | split
    | dsimp only


theorem execPmSecondEnd_keeps {s : State} (h : s.Keeps P Q) : Completes (execPmSecondEnd s) (State.Keeps P Q) := by
  unfold execPmSecondEnd
  repeat' first
    | with_reducible refine completes_keeps _ ?_
    | with_reducible exact h
    | with_reducible assumption
    | simp only [↓keeps_upd]
    | with_reducible apply State.pmPortUp_keeps
    | with_reducible apply State.pmOnus_keeps
    | with_reducible apply State.pmDown_keeps
    | with_reducible apply State.pmSkip_keeps
    | with_reducible apply State.pmInterval_keeps
    | with_reducible apply ok_keeps
    | with_reducible apply State.snapTrigger_keeps
    | with_reducible apply State.pmFresh_keeps
    | with_reducible apply foldl_keeps
    | intro _
    | refine fst_keeps (by assumption) ?_
    | refine snd_keeps (by assumption) ?_
    | split
    | dsimp only


theorem execDsReportRequest_keeps {s : State} (h : s.Keeps P Q) : Completes (execDsReportRequest s) (State.Keeps P Q) := by
  unfold execDsReportRequest
  repeat' first
    | with_reducible refine completes_keeps _ ?_
    | with_reducible exact h
    | with_reducible assumption
    | simp only [↓keeps_upd]
    | with_reducible apply ok_keeps
    | with_reducible apply foldl_keeps
    | intro _
    | refine fst_keeps (by assumption) ?_
    | refine snd_keeps (by assumption) ?_
    | split
    | dsimp only


theorem execDsReport_keeps {s : State} (h : s.Keeps P Q) (p : Fin 32) (slot : Fin 256) (cw unc hec lost : Nat) : Completes (execDsReport p slot cw unc hec lost s) (State.Keeps P Q) := by
  unfold execDsReport
  repeat' first
    | with_reducible refine completes_keeps _ ?_
    | with_reducible exact h
    | with_reducible assumption
    | simp only [↓keeps_upd]
    | with_reducible apply ok_keeps
    | with_reducible apply State.setAsked_keeps
    | with_reducible apply State.dsApply_keeps
    | with_reducible apply State.inc_keeps
    | with_reducible apply State.dsSettle_keeps
    | intro _
    | refine fst_keeps (by assumption) ?_
    | refine snd_keeps (by assumption) ?_
    | split
    | dsimp only


theorem execDsReportMissing_keeps {s : State} (h : s.Keeps P Q) (p : Fin 32) (slot : Fin 256) : Completes (execDsReportMissing p slot s) (State.Keeps P Q) := by
  unfold execDsReportMissing
  repeat' first
    | with_reducible refine completes_keeps _ ?_
    | with_reducible exact h
    | with_reducible assumption
    | simp only [↓keeps_upd]
    | with_reducible apply ok_keeps
    | with_reducible apply State.setAsked_keeps
    | with_reducible apply State.dsApply_keeps
    | with_reducible apply State.inc_keeps
    | with_reducible apply State.takeFree_keeps
    | with_reducible apply State.pmLog_keeps
    | with_reducible apply State.dsSettle_keeps
    | intro _
    | refine fst_keeps (by assumption) ?_
    | refine snd_keeps (by assumption) ?_
    | split
    | dsimp only


theorem execSnap_keeps {s : State} (h : s.Keeps P Q) (ag : Agent) (v : Word) : Completes (execSnap ag v s) (State.Keeps P Q) := by
  unfold execSnap
  repeat' first
    | with_reducible refine completes_keeps _ ?_
    | with_reducible exact h
    | with_reducible assumption
    | simp only [↓keeps_upd]
    | with_reducible apply ok_keeps
    | with_reducible apply State.tlyCtrl_keeps
    | intro _
    | refine fst_keeps (by assumption) ?_
    | refine snd_keeps (by assumption) ?_
    | split
    | dsimp only


theorem execPmClear_keeps {s : State} (h : s.Keeps P Q) (ag : Agent) (v : Word) : Completes (execPmClear ag v s) (State.Keeps P Q) := by
  unfold execPmClear
  repeat' first
    | with_reducible refine completes_keeps _ ?_
    | with_reducible exact h
    | with_reducible assumption
    | simp only [↓keeps_upd]
    | with_reducible apply ok_keeps
    | with_reducible apply State.tlyCtrl_keeps
    | intro _
    | refine fst_keeps (by assumption) ?_
    | refine snd_keeps (by assumption) ?_
    | split
    | dsimp only


theorem execPmClearAll_keeps {s : State} (h : s.Keeps P Q) (ag : Agent) (v : Word) : Completes (execPmClearAll ag v s) (State.Keeps P Q) := by
  unfold execPmClearAll
  repeat' first
    | with_reducible refine completes_keeps _ ?_
    | with_reducible exact h
    | with_reducible assumption
    | simp only [↓keeps_upd]
    | with_reducible apply ok_keeps
    | with_reducible apply State.tlyCtrl_keeps
    | intro _
    | refine fst_keeps (by assumption) ?_
    | refine snd_keeps (by assumption) ?_
    | split
    | dsimp only


theorem execPowerOnReset_keeps {s : State} (h : s.Keeps P Q) : Completes (execPowerOnReset s) (State.Keeps P Q) := by
  unfold execPowerOnReset
  extract_lets _ _ s1
  have h1 : s1.Keeps P Q := ⟨h.1, fun w => ⟨rfl, rfl, rfl, (fun p hp => by cases hp), Nat.two_pow_pos 64, (h.2 w).2.2.2.2.2⟩⟩
  exact completes_keeps _ (State.wr_keeps h1 ..)


theorem execResetRelease_keeps {s : State} (h : s.Keeps P Q) : Completes (execResetRelease s) (State.Keeps P Q) := by
  unfold execResetRelease
  refine completes_keeps _ (ite_keeps h ?_)
  extract_lets _ s1 s2 m
  have h1 : s1.Keeps P Q := ⟨h.1, fun w => ⟨(h.2 w).1, (h.2 w).2.1, (h.2 w).2.2.1, (h.2 w).2.2.2.1, Nat.two_pow_pos 64, (h.2 w).2.2.2.2.2⟩⟩
  have h2 : s2.Keeps P Q := foldl_keeps _ _ (State.loadOtp_keeps h1) (fun t n ht => ite_keeps (State.toDetect_keeps ht ..) ht)
  exact ite_keeps h2 (State.eraseKeys_keeps (State.alarmBits_keeps h2) ..)


theorem execWarmReset_keeps {s : State} (h : s.Keeps P Q) (ag : Agent) (v : Word) : Completes (execWarmReset ag v s) (State.Keeps P Q) := by
  unfold execWarmReset
  repeat' first
    | with_reducible refine completes_keeps _ ?_
    | with_reducible exact h
    | with_reducible assumption
    | simp only [↓keeps_upd]
    | with_reducible apply ok_keeps
    | with_reducible apply State.glbReset_keeps
    | intro _
    | refine fst_keeps (by assumption) ?_
    | refine snd_keeps (by assumption) ?_
    | split
    | dsimp only


theorem execTxdisSample_keeps {s : State} (h : s.Keeps P Q) (present : BitVec 64) : Completes (execTxdisSample present s) (State.Keeps P Q) := by
  unfold execTxdisSample
  repeat' first
    | with_reducible refine completes_keeps _ ?_
    | with_reducible exact h
    | with_reducible assumption
    | simp only [↓keeps_upd]
    | with_reducible apply ok_keeps
    | with_reducible apply State.putWord_keeps
    | intro _
    | refine fst_keeps (by assumption) ?_
    | refine snd_keeps (by assumption) ?_
    | split
    | dsimp only


theorem execStrapLatch_keeps {s : State} (h : s.Keeps P Q) (mxp : BitVec 16) : Completes (execStrapLatch mxp s) (State.Keeps P Q) := by
  unfold execStrapLatch
  repeat' first
    | with_reducible refine completes_keeps _ ?_
    | with_reducible exact h
    | with_reducible assumption
    | simp only [↓keeps_upd]
    | with_reducible apply ok_keeps
    | with_reducible apply State.wr_keeps
    | with_reducible apply State.raise_keeps
    | with_reducible apply State.claim_keeps
    | with_reducible apply State.nextBank_keeps
    | with_reducible apply State.takeRoles_keeps
    | intro _
    | refine fst_keeps (by assumption) ?_
    | refine snd_keeps (by assumption) ?_
    | split
    | dsimp only


theorem execEnterS1_keeps {s : State} (h : s.Keeps P Q) (trained : BitVec 16) : Completes (execEnterS1 trained s) (State.Keeps P Q) := by
  unfold execEnterS1
  repeat' first
    | with_reducible refine completes_keeps _ ?_
    | with_reducible exact h
    | with_reducible assumption
    | simp only [↓keeps_upd]
    | with_reducible apply ok_keeps
    | with_reducible apply State.memEcc_keeps
    | with_reducible apply State.setStage_keeps
    | with_reducible apply State.enablePort_keeps
    | with_reducible apply foldl_keeps
    | intro _
    | refine fst_keeps (by assumption) ?_
    | refine snd_keeps (by assumption) ?_
    | split
    | dsimp only


theorem execStageLate_keeps {s : State} (h : s.Keeps P Q) : Completes (execStageLate s) (State.Keeps P Q) := by
  unfold execStageLate
  repeat' first
    | with_reducible refine completes_keeps _ ?_
    | with_reducible exact h
    | with_reducible assumption
    | simp only [↓keeps_upd]
    | with_reducible apply ok_keeps
    | with_reducible apply State.raise_keeps
    | intro _
    | refine fst_keeps (by assumption) ?_
    | refine snd_keeps (by assumption) ?_
    | split
    | dsimp only


theorem execEnterS3_keeps {s : State} (h : s.Keeps P Q) : Completes (execEnterS3 s) (State.Keeps P Q) := by
  unfold execEnterS3
  repeat' first
    | with_reducible refine completes_keeps _ ?_
    | with_reducible exact h
    | with_reducible assumption
    | simp only [↓keeps_upd]
    | with_reducible apply ok_keeps
    | with_reducible apply State.setStage_keeps
    | with_reducible apply State.wr_keeps
    | intro _
    | refine fst_keeps (by assumption) ?_
    | refine snd_keeps (by assumption) ?_
    | split
    | dsimp only


theorem execMxpStatusUpdate_keeps {s : State} (h : s.Keeps P Q) : Completes (execMxpStatusUpdate s) (State.Keeps P Q) := by
  unfold execMxpStatusUpdate
  repeat' first
    | with_reducible refine completes_keeps _ ?_
    | with_reducible exact h
    | with_reducible assumption
    | simp only [↓keeps_upd]
    | with_reducible apply ok_keeps
    | intro _
    | refine fst_keeps (by assumption) ?_
    | refine snd_keeps (by assumption) ?_
    | split
    | dsimp only


theorem execMxpFaultToggle_keeps {s : State} (h : s.Keeps P Q) : Completes (execMxpFaultToggle s) (State.Keeps P Q) := by
  unfold execMxpFaultToggle
  repeat' first
    | with_reducible refine completes_keeps _ ?_
    | with_reducible exact h
    | with_reducible assumption
    | simp only [↓keeps_upd]
    | with_reducible apply ok_keeps
    | intro _
    | refine fst_keeps (by assumption) ?_
    | refine snd_keeps (by assumption) ?_
    | split
    | dsimp only


theorem execHostImage_keeps {s : State} (h : s.Keeps P Q) (ag : Agent) (v : Word) : Completes (execHostImage ag v s) (State.Keeps P Q) := by
  unfold execHostImage
  repeat' first
    | with_reducible refine completes_keeps _ ?_
    | with_reducible exact h
    | with_reducible assumption
    | simp only [↓keeps_upd]
    | with_reducible apply ok_keeps
    | with_reducible apply State.bootCmd_keeps
    | intro _
    | refine fst_keeps (by assumption) ?_
    | refine snd_keeps (by assumption) ?_
    | split
    | dsimp only


theorem execSvnCommit_keeps {s : State} (h : s.Keeps P Q) (ag : Agent) (v : Word) : Completes (execSvnCommit ag v s) (State.Keeps P Q) := by
  unfold execSvnCommit
  repeat' first
    | with_reducible refine completes_keeps _ ?_
    | with_reducible exact h
    | with_reducible assumption
    | simp only [↓keeps_upd]
    | with_reducible apply ok_keeps
    | with_reducible apply State.bootCmd_keeps
    | intro _
    | refine fst_keeps (by assumption) ?_
    | refine snd_keeps (by assumption) ?_
    | split
    | dsimp only


theorem execFlashErase_keeps {s : State} (h : s.Keeps P Q) (ag : Agent) (v : Word) (err : Bool) : Completes (execFlashErase ag v err s) (State.Keeps P Q) := by
  unfold execFlashErase
  repeat' first
    | with_reducible refine completes_keeps _ ?_
    | with_reducible exact h
    | with_reducible assumption
    | simp only [↓keeps_upd]
    | with_reducible apply ok_keeps
    | with_reducible apply State.bootCmd_keeps
    | intro _
    | refine fst_keeps (by assumption) ?_
    | refine snd_keeps (by assumption) ?_
    | split
    | dsimp only


theorem execFlashProgram_keeps {s : State} (h : s.Keeps P Q) (ag : Agent) (v : Word) (err : Bool) : Completes (execFlashProgram ag v err s) (State.Keeps P Q) := by
  unfold execFlashProgram
  repeat' first
    | with_reducible refine completes_keeps _ ?_
    | with_reducible exact h
    | with_reducible assumption
    | simp only [↓keeps_upd]
    | with_reducible apply ok_keeps
    | with_reducible apply State.bootCmd_keeps
    | intro _
    | refine fst_keeps (by assumption) ?_
    | refine snd_keeps (by assumption) ?_
    | split
    | dsimp only


theorem execOmciResponseRx_keeps {s : State} (h : s.Keeps P Q) (p : Fin 32) (slot : Fin 256) (good : Bool) : Completes (execOmciResponseRx p slot good s) (State.Keeps P Q) := by
  unfold execOmciResponseRx
  repeat' first
    | with_reducible refine completes_keeps _ ?_
    | with_reducible exact h
    | with_reducible assumption
    | simp only [↓keeps_upd]
    | with_reducible apply ok_keeps
    | with_reducible apply State.forSteward_keeps
    | with_reducible apply State.takeOmci_keeps
    | intro _
    | refine fst_keeps (by assumption) ?_
    | refine snd_keeps (by assumption) ?_
    | split
    | dsimp only


theorem execStwFwValidate_keeps {s : State} (h : s.Keeps P Q) (ag : Agent) (v : Word) (bad : Option (Fin 10)) : Completes (execStwFwValidate ag v bad s) (State.Keeps P Q) := by
  unfold execStwFwValidate
  repeat' first
    | with_reducible refine completes_keeps _ ?_
    | with_reducible exact h
    | with_reducible assumption
    | simp only [↓keeps_upd]
    | with_reducible apply ok_keeps
    | with_reducible apply State.fwCtrl_keeps
    | intro _
    | refine fst_keeps (by assumption) ?_
    | refine snd_keeps (by assumption) ?_
    | split
    | dsimp only


theorem execStwFwSwitch_keeps {s : State} (h : s.Keeps P Q) (ag : Agent) (v : Word) : Completes (execStwFwSwitch ag v s) (State.Keeps P Q) := by
  unfold execStwFwSwitch
  repeat' first
    | with_reducible refine completes_keeps _ ?_
    | with_reducible exact h
    | with_reducible assumption
    | simp only [↓keeps_upd]
    | with_reducible apply ok_keeps
    | with_reducible apply State.fwCtrl_keeps
    | intro _
    | refine fst_keeps (by assumption) ?_
    | refine snd_keeps (by assumption) ?_
    | split
    | dsimp only


theorem execStwFwReady_keeps {s : State} (h : s.Keeps P Q) : Completes (execStwFwReady s) (State.Keeps P Q) := by
  unfold execStwFwReady
  repeat' first
    | with_reducible refine completes_keeps _ ?_
    | with_reducible exact h
    | with_reducible assumption
    | simp only [↓keeps_upd]
    | with_reducible apply ok_keeps
    | with_reducible apply State.wr_keeps
    | with_reducible apply State.sendRangingTime_keeps
    | with_reducible apply State.setTreeSt_keeps
    | with_reducible apply State.actCmd_keeps
    | with_reducible apply State.takeMsg_keeps
    | with_reducible apply State.coverBack_keeps
    | with_reducible apply foldl_keeps
    | intro _
    | refine fst_keeps (by assumption) ?_
    | refine snd_keeps (by assumption) ?_
    | split
    | dsimp only


theorem execStwFwFallback_keeps {s : State} (h : s.Keeps P Q) : Completes (execStwFwFallback s) (State.Keeps P Q) := by
  unfold execStwFwFallback
  repeat' first
    | with_reducible refine completes_keeps _ ?_
    | with_reducible exact h
    | with_reducible assumption
    | simp only [↓keeps_upd]
    | with_reducible apply ok_keeps
    | with_reducible apply State.fwFallback_keeps
    | with_reducible apply State.fwSwitch_keeps
    | intro _
    | refine fst_keeps (by assumption) ?_
    | refine snd_keeps (by assumption) ?_
    | split
    | dsimp only


theorem execStewardWdog_keeps {s : State} (h : s.Keeps P Q) (core : Fin 4) (pc : BitVec 32) : Completes (execStewardWdog core pc s) (State.Keeps P Q) := by
  unfold execStewardWdog
  repeat' first
    | with_reducible refine completes_keeps _ ?_
    | with_reducible exact h
    | with_reducible assumption
    | simp only [↓keeps_upd]
    | with_reducible apply State.raise_keeps
    | with_reducible apply State.fwSwitch_keeps
    | with_reducible apply ok_keeps
    | with_reducible apply State.fwFallback_keeps
    | with_reducible apply State.inc_keeps
    | intro _
    | refine fst_keeps (by assumption) ?_
    | refine snd_keeps (by assumption) ?_
    | split
    | dsimp only


theorem execPcieLinkDown_keeps {s : State} (h : s.Keeps P Q) : Completes (execPcieLinkDown s) (State.Keeps P Q) := by
  unfold execPcieLinkDown
  repeat' first
    | with_reducible refine completes_keeps _ ?_
    | with_reducible exact h
    | with_reducible assumption
    | simp only [↓keeps_upd]
    | with_reducible apply ok_keeps
    | with_reducible apply State.linkDown_keeps
    | intro _
    | refine fst_keeps (by assumption) ?_
    | refine snd_keeps (by assumption) ?_
    | split
    | dsimp only


theorem execPcieLinkUp_keeps {s : State} (h : s.Keeps P Q) (rate : Fin 7) (width : Fin 32) (flit : Bool) : Completes (execPcieLinkUp rate width flit s) (State.Keeps P Q) := by
  unfold execPcieLinkUp
  repeat' first
    | with_reducible refine completes_keeps _ ?_
    | with_reducible exact h
    | with_reducible assumption
    | simp only [↓keeps_upd]
    | with_reducible apply ok_keeps
    | with_reducible apply State.wr_keeps
    | with_reducible apply State.seen_keeps
    | with_reducible apply State.endCause_keeps
    | with_reducible apply State.msiFlush_keeps
    | with_reducible apply foldl_keeps
    | intro _
    | refine fst_keeps (by assumption) ?_
    | refine snd_keeps (by assumption) ?_
    | split
    | dsimp only


theorem execPcieReset_keeps {s : State} (h : s.Keeps P Q) (e : PcieEvent) : Completes (execPcieReset e s) (State.Keeps P Q) := by
  unfold execPcieReset
  repeat' first
    | with_reducible refine completes_keeps _ ?_
    | with_reducible exact h
    | with_reducible assumption
    | simp only [↓keeps_upd]
    | with_reducible apply ok_keeps
    | with_reducible apply State.linkDown_keeps
    | with_reducible apply State.fnReset_keeps
    | with_reducible apply State.setFn_keeps
    | with_reducible apply State.msiFlush_keeps
    | with_reducible apply foldl_keeps
    | intro _
    | refine fst_keeps (by assumption) ?_
    | refine snd_keeps (by assumption) ?_
    | split
    | dsimp only


theorem execFunctionLevelReset_keeps {s : State} (h : s.Keeps P Q) (fn : Fin 33) : Completes (execFunctionLevelReset fn s) (State.Keeps P Q) := by
  unfold execFunctionLevelReset
  repeat' first
    | with_reducible refine completes_keeps _ ?_
    | with_reducible exact h
    | with_reducible assumption
    | simp only [↓keeps_upd]
    | with_reducible apply ok_keeps
    | with_reducible apply State.stopRing_keeps
    | with_reducible apply State.maskVectors_keeps
    | with_reducible apply State.raise_keeps
    | with_reducible apply foldl_keeps
    | intro _
    | refine fst_keeps (by assumption) ?_
    | refine snd_keeps (by assumption) ?_
    | split
    | dsimp only


theorem execLockOpen_keeps {s : State} (h : s.Keeps P Q) (ag : Agent) (a : BitVec 26) (v : Word) : Completes (execLockOpen ag a v s) (State.Keeps P Q) := by
  unfold execLockOpen
  repeat' first
    | with_reducible refine completes_keeps _ ?_
    | with_reducible exact h
    | with_reducible assumption
    | simp only [↓keeps_upd]
    | with_reducible apply ok_keeps
    | with_reducible apply State.lockWrite_keeps
    | intro _
    | refine fst_keeps (by assumption) ?_
    | refine snd_keeps (by assumption) ?_
    | split
    | dsimp only


theorem execLockClose_keeps {s : State} (h : s.Keeps P Q) (ag : Agent) (a : BitVec 26) (v : Word) : Completes (execLockClose ag a v s) (State.Keeps P Q) := by
  unfold execLockClose
  repeat' first
    | with_reducible refine completes_keeps _ ?_
    | with_reducible exact h
    | with_reducible assumption
    | simp only [↓keeps_upd]
    | with_reducible apply ok_keeps
    | with_reducible apply State.lockWrite_keeps
    | intro _
    | refine fst_keeps (by assumption) ?_
    | refine snd_keeps (by assumption) ?_
    | split
    | dsimp only


theorem execLockSeal_keeps {s : State} (h : s.Keeps P Q) (ag : Agent) (a : BitVec 26) (v : Word) : Completes (execLockSeal ag a v s) (State.Keeps P Q) := by
  unfold execLockSeal
  repeat' first
    | with_reducible refine completes_keeps _ ?_
    | with_reducible exact h
    | with_reducible assumption
    | simp only [↓keeps_upd]
    | with_reducible apply ok_keeps
    | with_reducible apply State.lockWrite_keeps
    | intro _
    | refine fst_keeps (by assumption) ?_
    | refine snd_keeps (by assumption) ?_
    | split
    | dsimp only


theorem execVfPortsWrite_keeps {s : State} (h : s.Keeps P Q) (ag : Agent) (vf : Fin 33) (v : Word) : Completes (execVfPortsWrite ag vf v s) (State.Keeps P Q) := by
  unfold execVfPortsWrite
  repeat' first
    | with_reducible refine completes_keeps _ ?_
    | with_reducible exact h
    | with_reducible assumption
    | simp only [↓keeps_upd]
    | with_reducible apply ok_keeps
    | with_reducible apply State.vfPorts_keeps
    | intro _
    | refine fst_keeps (by assumption) ?_
    | refine snd_keeps (by assumption) ?_
    | split
    | dsimp only


theorem execRingEnWrite_keeps {s : State} (h : s.Keeps P Q) (ag : Agent) (r : Fin 128) (v : Word) : Completes (execRingEnWrite ag r v s) (State.Keeps P Q) := by
  unfold execRingEnWrite
  repeat' first
    | with_reducible refine completes_keeps _ ?_
    | with_reducible exact h
    | with_reducible assumption
    | simp only [↓keeps_upd]
    | with_reducible apply ok_keeps
    | with_reducible apply State.ringCfg_keeps
    | intro _
    | refine fst_keeps (by assumption) ?_
    | refine snd_keeps (by assumption) ?_
    | split
    | dsimp only


theorem execRingTailWrite_keeps {s : State} (h : s.Keeps P Q) (ag : Agent) (r : Fin 128) (v : Word) : Completes (execRingTailWrite ag r v s) (State.Keeps P Q) := by
  unfold execRingTailWrite
  repeat' first
    | with_reducible refine completes_keeps _ ?_
    | with_reducible exact h
    | with_reducible assumption
    | simp only [↓keeps_upd]
    | with_reducible apply ok_keeps
    | with_reducible apply State.ringTail_keeps
    | intro _
    | refine fst_keeps (by assumption) ?_
    | refine snd_keeps (by assumption) ?_
    | split
    | dsimp only


theorem execRxRingDeliver_keeps {s : State} (h : s.Keeps P Q) (telemetry : Bool) (bufLen : BitVec 16) : Completes (execRxRingDeliver telemetry bufLen s) (State.Keeps P Q) := by
  unfold execRxRingDeliver
  repeat' first
    | with_reducible refine completes_keeps _ ?_
    | with_reducible exact h
    | with_reducible assumption
    | simp only [↓keeps_upd]
    | with_reducible apply ok_keeps
    | with_reducible apply State.telDeliver_keeps
    | with_reducible apply State.rxDeliver_keeps
    | intro _
    | refine fst_keeps (by assumption) ?_
    | refine snd_keeps (by assumption) ?_
    | split
    | dsimp only


theorem execTxEntry_keeps {s : State} (h : s.Keeps P Q) (r : Fin 128) (e : List (BitVec 32)) (bytes : List (BitVec 8)) : Completes (execTxEntry r e bytes s) (State.Keeps P Q) := by
  unfold execTxEntry
  repeat' first
    | with_reducible refine completes_keeps _ ?_
    | with_reducible exact h
    | with_reducible assumption
    | simp only [↓keeps_upd]
    | with_reducible apply ok_keeps
    | with_reducible apply State.txEntry_keeps
    | with_reducible apply State.advance_keeps
    | intro _
    | refine fst_keeps (by assumption) ?_
    | refine snd_keeps (by assumption) ?_
    | split
    | dsimp only


theorem execDmaError_keeps {s : State} (h : s.Keeps P Q) (r : Fin 128) (code : Fin 5) : Completes (execDmaError r code s) (State.Keeps P Q) := by
  unfold execDmaError
  repeat' first
    | with_reducible refine completes_keeps _ ?_
    | with_reducible exact h
    | with_reducible assumption
    | simp only [↓keeps_upd]
    | with_reducible apply ok_keeps
    | with_reducible apply State.dropInHand_keeps
    | with_reducible apply State.stopRing_keeps
    | with_reducible apply State.wr_keeps
    | with_reducible apply State.raise_keeps
    | intro _
    | refine fst_keeps (by assumption) ?_
    | refine snd_keeps (by assumption) ?_
    | split
    | dsimp only


theorem execCoalTimerExpiry_keeps {s : State} (h : s.Keeps P Q) (r : Fin 128) : Completes (execCoalTimerExpiry r s) (State.Keeps P Q) := by
  unfold execCoalTimerExpiry
  repeat' first
    | with_reducible refine completes_keeps _ ?_
    | with_reducible exact h
    | with_reducible assumption
    | simp only [↓keeps_upd]
    | with_reducible apply ok_keeps
    | with_reducible apply State.setRing_keeps
    | with_reducible apply State.ringMsi_keeps
    | intro _
    | refine fst_keeps (by assumption) ?_
    | refine snd_keeps (by assumption) ?_
    | split
    | dsimp only


theorem execRearm_keeps {s : State} (h : s.Keeps P Q) (ag : Agent) (v : Word) : Completes (execRearm ag v s) (State.Keeps P Q) := by
  unfold execRearm
  repeat' first
    | with_reducible refine completes_keeps _ ?_
    | with_reducible exact h
    | with_reducible assumption
    | simp only [↓keeps_upd]
    | with_reducible apply ok_keeps
    | with_reducible apply State.rearm_keeps
    | intro _
    | refine fst_keeps (by assumption) ?_
    | refine snd_keeps (by assumption) ?_
    | split
    | dsimp only


theorem execPaceWindowEnd_keeps {s : State} (h : s.Keeps P Q) (done : List (Fin 64 × Nat)) (whf : Nat) : Completes (execPaceWindowEnd done whf s) (State.Keeps P Q) := by
  unfold execPaceWindowEnd
  repeat' first
    | with_reducible refine completes_keeps _ ?_
    | with_reducible exact h
    | with_reducible assumption
    | simp only [↓keeps_upd]
    | with_reducible apply State.pace_keeps
    | with_reducible apply State.wr_keeps
    | with_reducible apply State.admission_keeps
    | with_reducible apply State.credit_keeps
    | with_reducible apply State.setGuild_keeps
    | with_reducible apply ok_keeps
    | with_reducible apply State.idleDispatch_keeps
    | with_reducible apply foldl_keeps
    | intro _
    | refine fst_keeps (by assumption) ?_
    | refine snd_keeps (by assumption) ?_
    | split
    | dsimp only


theorem execGoldenPassDone_keeps {s : State} (h : s.Keeps P Q) (id : Nat) : Completes (execGoldenPassDone id s) (State.Keeps P Q) := by
  unfold execGoldenPassDone
  repeat' first
    | with_reducible refine completes_keeps _ ?_
    | with_reducible exact h
    | with_reducible assumption
    | simp only [↓keeps_upd]
    | with_reducible apply ok_keeps
    | with_reducible apply State.epochUnref_keeps
    | with_reducible apply State.count_keeps
    | with_reducible apply State.inc_keeps
    | with_reducible apply State.beginTest_keeps
    | with_reducible apply State.raise_keeps
    | with_reducible apply State.cycleEnd_keeps
    | with_reducible apply foldl_keeps
    | intro _
    | refine fst_keeps (by assumption) ?_
    | refine snd_keeps (by assumption) ?_
    | split
    | dsimp only


theorem execCheckDone_keeps {s : State} (h : s.Keeps P Q) (g : Fin 64) (res : List (List Nat × List Nat)) : Completes (execCheckDone g res s) (State.Keeps P Q) := by
  unfold execCheckDone
  repeat' first
    | with_reducible refine completes_keeps _ ?_
    | with_reducible exact h
    | with_reducible assumption
    | simp only [↓keeps_upd]
    | with_reducible apply ok_keeps
    | with_reducible apply State.checkPassed_keeps
    | with_reducible apply State.retireGuild_keeps
    | with_reducible apply State.raise_keeps
    | intro _
    | refine fst_keeps (by assumption) ?_
    | refine snd_keeps (by assumption) ?_
    | split
    | dsimp only


theorem execSramSliceTest_keeps {s : State} (h : s.Keeps P Q) (src : Source) (words : Nat) (bad : Option SliceFault) (whole : Bool) : Completes (execSramSliceTest src words bad whole s) (State.Keeps P Q) := by
  unfold execSramSliceTest
  repeat' first
    | with_reducible refine completes_keeps _ ?_
    | with_reducible exact h
    | with_reducible assumption
    | simp only [↓keeps_upd]
    | with_reducible apply ok_keeps
    | with_reducible apply State.count_keeps
    | with_reducible apply State.raise_keeps
    | with_reducible apply State.cycleEnd_keeps
    | intro _
    | refine fst_keeps (by assumption) ?_
    | refine snd_keeps (by assumption) ?_
    | split
    | dsimp only


theorem execLedgerSliceTest_keeps {s : State} (h : s.Keeps P Q) (first : Fin 65536) (n : Nat) (bad : Option (Fin 65536)) : Completes (execLedgerSliceTest first n bad s) (State.Keeps P Q) := by
  unfold execLedgerSliceTest
  repeat' first
    | with_reducible refine completes_keeps _ ?_
    | with_reducible exact h
    | with_reducible assumption
    | simp only [↓keeps_upd]
    | with_reducible apply ok_keeps
    | with_reducible apply State.count_keeps
    | with_reducible apply State.raise_keeps
    | with_reducible apply State.bankRows_keeps
    | with_reducible apply State.cycleEnd_keeps
    | intro _
    | refine fst_keeps (by assumption) ?_
    | refine snd_keeps (by assumption) ?_
    | split
    | dsimp only


theorem execBufferAudit_keeps {s : State} (h : s.Keeps P Q) (pool : Fin 4) (diff : BitVec 24) : Completes (execBufferAudit pool diff s) (State.Keeps P Q) := by
  unfold execBufferAudit
  repeat' first
    | with_reducible refine completes_keeps _ ?_
    | with_reducible exact h
    | with_reducible assumption
    | simp only [↓keeps_upd]
    | with_reducible apply ok_keeps
    | with_reducible apply State.raise_keeps
    | with_reducible apply State.freeLeak_keeps
    | with_reducible apply State.cycleEnd_keeps
    | with_reducible apply foldl_keeps
    | intro _
    | refine fst_keeps (by assumption) ?_
    | refine snd_keeps (by assumption) ?_
    | split
    | dsimp only


theorem execEyeScan_keeps {s : State} (h : s.Keeps P Q) (b : LaneBlock) (m : BitVec 8) : Completes (execEyeScan b m s) (State.Keeps P Q) := by
  unfold execEyeScan
  repeat' first
    | with_reducible refine completes_keeps _ ?_
    | with_reducible exact h
    | with_reducible assumption
    | simp only [↓keeps_upd]
    | with_reducible apply ok_keeps
    | with_reducible apply State.inc_keeps
    | with_reducible apply State.raise_keeps
    | with_reducible apply State.cycleEnd_keeps
    | intro _
    | refine fst_keeps (by assumption) ?_
    | refine snd_keeps (by assumption) ?_
    | split
    | dsimp only


theorem execWardenForceStart_keeps {s : State} (h : s.Keeps P Q) : Completes (execWardenForceStart s) (State.Keeps P Q) := by
  unfold execWardenForceStart
  repeat' first
    | with_reducible refine completes_keeps _ ?_
    | with_reducible exact h
    | with_reducible assumption
    | simp only [↓keeps_upd]
    | with_reducible apply ok_keeps
    | with_reducible apply State.wr_keeps
    | intro _
    | refine fst_keeps (by assumption) ?_
    | refine snd_keeps (by assumption) ?_
    | split
    | dsimp only


theorem execWdnLate_keeps {s : State} (h : s.Keeps P Q) : Completes (execWdnLate s) (State.Keeps P Q) := by
  unfold execWdnLate
  repeat' first
    | with_reducible refine completes_keeps _ ?_
    | with_reducible exact h
    | with_reducible assumption
    | simp only [↓keeps_upd]
    | with_reducible apply ok_keeps
    | with_reducible apply State.fresh_keeps
    | with_reducible apply State.onset_keeps
    | intro _
    | refine fst_keeps (by assumption) ?_
    | refine snd_keeps (by assumption) ?_
    | split
    | dsimp only


theorem execBurstStart_keeps {s : State} (h : s.Keeps P Q) (p : Fin 32) (sd : Side) : Completes (execBurstStart p sd s) (State.Keeps P Q) := by
  unfold execBurstStart
  repeat' first
    | with_reducible refine completes_keeps _ ?_
    | with_reducible exact h
    | with_reducible assumption
    | simp only [↓keeps_upd]
    | with_reducible apply ok_keeps
    | with_reducible apply State.setSide_keeps
    | intro _
    | refine fst_keeps (by assumption) ?_
    | refine snd_keeps (by assumption) ?_
    | split
    | dsimp only


theorem execDelimWindowClose_keeps {s : State} (h : s.Keeps P Q) (p : Fin 32) (sd : Side) (cands : List (Int × Nat)) : Completes (execDelimWindowClose p sd cands s) (State.Keeps P Q) := by
  unfold execDelimWindowClose
  repeat' first
    | with_reducible refine completes_keeps _ ?_
    | with_reducible exact h
    | with_reducible assumption
    | simp only [↓keeps_upd]
    | with_reducible apply ok_keeps
    | with_reducible apply State.setSide_keeps
    | with_reducible apply State.burstMissed_keeps
    | intro _
    | refine fst_keeps (by assumption) ?_
    | refine snd_keeps (by assumption) ?_
    | split
    | dsimp only


theorem execBurstEnd_keeps {s : State} (h : s.Keeps P Q) (p : Fin 32) (sd : Side) (b : BurstRx) :
    Completes (execBurstEnd p sd b s) (State.Keeps P Q) := by
  unfold execBurstEnd
  refine completes_ite (completes_keeps _ h) ?_
  extract_lets x
  split
  · extract_lets i foreign s0 s1 s2
    have h0 : s0.Keeps P Q := State.burstCounts_keeps (State.setSide_keeps h ..) ..
    have h1 : s1.Keeps P Q := State.burstTaken_keeps h0 ..
    have h2 : s2.Keeps P Q := State.offsetSeen_keeps h1 ..
    clear_value s2 s1 s0
    refine completes_ite (completes_keeps _ ?_) (completes_ite (completes_keeps _ ?_) (completes_ite (completes_keeps _ h2) (completes_keeps _ ?_)))
    · with_reducible exact State.strayWindow_keeps (State.burstMissed_keeps h0 ..) ..
    · with_reducible exact State.adjSample_keeps (State.deltaSample_keeps h1 ..) ..
    · with_reducible exact State.pktUnder_keeps (State.storeReports_keeps h2 ..) ..
  · exact completes_keeps _ (ite_keeps (State.setSide_keeps h ..) h)
  · exact completes_keeps _ h


theorem execStrayDelimiter_keeps {s : State} (h : s.Keeps P Q) (p : Fin 32) (sd : Side) (onu : Option (Fin 1024)) (off : Option Int) (isSn : Bool) : Completes (execStrayDelimiter p sd onu off isSn s) (State.Keeps P Q) := by
  unfold execStrayDelimiter
  repeat' first
    | with_reducible refine completes_keeps _ ?_
    | with_reducible exact h
    | with_reducible assumption
    | simp only [↓keeps_upd]
    | with_reducible apply State.inc_keeps
    | with_reducible apply State.strayWindow_keeps
    | with_reducible apply ok_keeps
    | with_reducible apply State.requestRerange_keeps
    | with_reducible apply State.setSlot_keeps
    | with_reducible apply State.seen_keeps
    | intro _
    | refine fst_keeps (by assumption) ?_
    | refine snd_keeps (by assumption) ?_
    | split
    | dsimp only


theorem execStrayEnergyEpisode_keeps {s : State} (h : s.Keeps P Q) (p : Fin 32) (sd : Side) (pos len : Nat) : Completes (execStrayEnergyEpisode p sd pos len s) (State.Keeps P Q) := by
  unfold execStrayEnergyEpisode
  repeat' first
    | with_reducible refine completes_keeps _ ?_
    | with_reducible exact h
    | with_reducible assumption
    | simp only [↓keeps_upd]
    | with_reducible apply ok_keeps
    | with_reducible apply State.strayRecord_keeps
    | with_reducible apply State.inc_keeps
    | with_reducible apply State.strayRaise_keeps
    | intro _
    | refine fst_keeps (by assumption) ?_
    | refine snd_keeps (by assumption) ?_
    | split
    | dsimp only


theorem execPresetWindowWrite_keeps {s : State} (h : s.Keeps P Q) (ag : Agent) (p : Fin 32) (idx : Fin 512) (valid : Bool) : Completes (execPresetWindowWrite ag p idx valid s) (State.Keeps P Q) := by
  unfold execPresetWindowWrite
  repeat' first
    | with_reducible refine completes_keeps _ ?_
    | with_reducible exact h
    | with_reducible assumption
    | simp only [↓keeps_upd]
    | with_reducible apply ok_keeps
    | with_reducible apply State.winGate_keeps
    | with_reducible apply State.deny_keeps
    | with_reducible apply State.presetStore_keeps
    | intro _
    | refine fst_keeps (by assumption) ?_
    | refine snd_keeps (by assumption) ?_
    | split
    | dsimp only


theorem execPresetAgeExpiry_keeps {s : State} (h : s.Keeps P Q) (p : Fin 32) (sd : Side) (slot : Fin 256) : Completes (execPresetAgeExpiry p sd slot s) (State.Keeps P Q) := by
  unfold execPresetAgeExpiry
  repeat' first
    | with_reducible refine completes_keeps _ ?_
    | with_reducible exact h
    | with_reducible assumption
    | simp only [↓keeps_upd]
    | with_reducible apply ok_keeps
    | with_reducible apply State.setPreset_keeps
    | intro _
    | refine fst_keeps (by assumption) ?_
    | refine snd_keeps (by assumption) ?_
    | split
    | dsimp only


theorem execPsyncMatch_keeps {s : State} (h : s.Keeps P Q) (p : Fin 32) (sd : Side) (pos : Nat) (sfc : Option (BitVec 51)) : Completes (execPsyncMatch p sd pos sfc s) (State.Keeps P Q) := by
  unfold execPsyncMatch
  repeat' first
    | with_reducible refine completes_keeps _ ?_
    | with_reducible exact h
    | with_reducible assumption
    | simp only [↓keeps_upd]
    | with_reducible apply ok_keeps
    | with_reducible apply State.inc_keeps
    | with_reducible apply State.setSide_keeps
    | with_reducible apply State.wr_keeps
    | intro _
    | refine fst_keeps (by assumption) ?_
    | refine snd_keeps (by assumption) ?_
    | split
    | dsimp only


theorem execTrackerCheck_keeps {s : State} (h : s.Keeps P Q) (p : Fin 32) (sd : Side) (pos errs : Nat) (sfc : Option (BitVec 51)) : Completes (execTrackerCheck p sd pos errs sfc s) (State.Keeps P Q) := by
  unfold execTrackerCheck
  repeat' first
    | with_reducible refine completes_keeps _ ?_
    | with_reducible exact h
    | with_reducible assumption
    | simp only [↓keeps_upd]
    | with_reducible apply ok_keeps
    | with_reducible apply State.setSide_keeps
    | with_reducible apply State.wr_keeps
    | with_reducible apply State.inc_keeps
    | intro _
    | refine fst_keeps (by assumption) ?_
    | refine snd_keeps (by assumption) ?_
    | split
    | dsimp only


theorem execSyncPsbdCheck_keeps {s : State} (h : s.Keeps P Q) (p : Fin 32) (sd : Side) (errs : Nat) (sfc : Option (BitVec 51)) (diff : Int) : Completes (execSyncPsbdCheck p sd errs sfc diff s) (State.Keeps P Q) := by
  unfold execSyncPsbdCheck
  repeat' first
    | with_reducible refine completes_keeps _ ?_
    | with_reducible exact h
    | with_reducible assumption
    | simp only [↓keeps_upd]
    | with_reducible apply ok_keeps
    | with_reducible apply State.inc_keeps
    | with_reducible apply State.setPort_keeps
    | with_reducible apply State.setSide_keeps
    | with_reducible apply State.wr_keeps
    | with_reducible apply State.raise_keeps
    | intro _
    | refine fst_keeps (by assumption) ?_
    | refine snd_keeps (by assumption) ?_
    | split
    | dsimp only


theorem execUpstreamPloamRx_keeps {s : State} (h : s.Keeps P Q) (p : Fin 32) (sd : Side) (onu : Fin 256) (omci : Bool) (msg : List Byte) (code : BitVec 64) (ack : Option (Fin 256)) : Completes (execUpstreamPloamRx p sd onu omci msg code ack s) (State.Keeps P Q) := by
  unfold execUpstreamPloamRx
  repeat' first
    | with_reducible refine completes_keeps _ ?_
    | with_reducible exact h
    | with_reducible assumption
    | simp only [↓keeps_upd]
    | with_reducible apply ok_keeps
    | with_reducible apply State.micKey_keeps
    | with_reducible apply State.inc_keeps
    | with_reducible apply State.raiseLimited_keeps
    | with_reducible apply State.ackRx_keeps
    | intro _
    | refine fst_keeps (by assumption) ?_
    | refine snd_keeps (by assumption) ?_
    | split
    | dsimp only


theorem execWinRead_keeps {s : State} (h : s.Keeps P Q) (ag : Agent) (w : Fin 106) (v : Word) : Completes (execWinRead ag w v s) (State.Keeps P Q) := by
  unfold execWinRead
  repeat' first
    | with_reducible refine completes_keeps _ ?_
    | with_reducible exact h
    | with_reducible assumption
    | simp only [↓keeps_upd]
    | with_reducible apply ok_keeps
    | with_reducible apply State.winCmd_keeps
    | intro _
    | refine fst_keeps (by assumption) ?_
    | refine snd_keeps (by assumption) ?_
    | split
    | dsimp only


theorem execWinWrite_keeps {s : State} (h : s.Keeps P Q) (ag : Agent) (w : Fin 106) (v : Word) : Completes (execWinWrite ag w v s) (State.Keeps P Q) := by
  unfold execWinWrite
  repeat' first
    | with_reducible refine completes_keeps _ ?_
    | with_reducible exact h
    | with_reducible assumption
    | simp only [↓keeps_upd]
    | with_reducible apply ok_keeps
    | with_reducible apply State.winCmd_keeps
    | intro _
    | refine fst_keeps (by assumption) ?_
    | refine snd_keeps (by assumption) ?_
    | split
    | dsimp only


theorem execRegisterWrite_keeps {s : State} (h : s.Keeps P Q) (ag : Agent) (bar : Bar) (off : BitVec 26) (v : Word) : Completes (execRegisterWrite ag bar off v s) (State.Keeps P Q) := by
  unfold execRegisterWrite
  repeat' first
    | with_reducible refine completes_keeps _ ?_
    | with_reducible exact h
    | with_reducible assumption
    | simp only [↓keeps_upd]
    | with_reducible apply ok_keeps
    | with_reducible apply State.regWrite_keeps
    | intro _
    | refine fst_keeps (by assumption) ?_
    | refine snd_keeps (by assumption) ?_
    | split
    | dsimp only


theorem execRegisterRead_keeps {s : State} (h : s.Keeps P Q) (ag : Agent) (bar : Bar) (off : BitVec 26) : Completes (execRegisterRead ag bar off s) (State.Keeps P Q) := by
  unfold execRegisterRead
  repeat' first
    | with_reducible refine completes_keeps _ ?_
    | with_reducible exact h
    | with_reducible assumption
    | simp only [↓keeps_upd]
    | with_reducible apply ok_keeps
    | with_reducible apply State.regRead_keeps
    | intro _
    | refine fst_keeps (by assumption) ?_
    | refine snd_keeps (by assumption) ?_
    | split
    | dsimp only


theorem execUnassignedAccess_keeps {s : State} (h : s.Keeps P Q) (ag : Agent) (bar : Bar) (off : BitVec 26) (v : Option Word) : Completes (execUnassignedAccess ag bar off v s) (State.Keeps P Q) := by
  unfold execUnassignedAccess
  repeat' first
    | with_reducible refine completes_keeps _ ?_
    | with_reducible exact h
    | with_reducible assumption
    | simp only [↓keeps_upd]
    | with_reducible apply ok_keeps
    | with_reducible apply State.regWrite_keeps
    | with_reducible apply State.regRead_keeps
    | intro _
    | refine fst_keeps (by assumption) ?_
    | refine snd_keeps (by assumption) ?_
    | split
    | dsimp only


theorem execBankFetchDone_keeps {s : State} (h : s.Keeps P Q) (v : Option BankVerdict) (p : ImageParts) :
    Completes (execBankFetchDone v p s) (State.Keeps P Q) := by
  unfold execBankFetchDone
  refine completes_keeps _ ?_
  split
  · exact h
  · split
    · exact State.bankBad_keeps h ..
    · extract_lets img
      split
      · next t e => exact State.bankDone_keeps (State.applyImage_keeps h _ _ e) ..
      · exact State.bankBad_keeps (State.unwrite_keeps (State.openLocks_keeps h) ..) ..


theorem execEnterS2_keeps {s : State} (h : s.Keeps P Q) : Completes (execEnterS2 s) (State.Keeps P Q) := by
  unfold execEnterS2
  repeat' first
    | with_reducible refine completes_keeps _ ?_
    | with_reducible exact h
    | with_reducible assumption
    | simp only [↓keeps_upd]
    | with_reducible apply ok_keeps
    | with_reducible apply State.wr_keeps
    | with_reducible apply State.setStage_keeps
    | with_reducible apply State.takeOwnership_keeps
    | with_reducible apply State.requestSwap_keeps
    | with_reducible apply State.treeToS2_keeps
    | with_reducible apply State.setLocks_keeps
    | with_reducible apply foldl_keeps
    | intro _
    | refine fst_keeps (by assumption) ?_
    | refine snd_keeps (by assumption) ?_
    | split
    | dsimp only


theorem execTableMsg_keeps {s : State} (h : s.Keeps P Q) (p : Fin 32) (seq : BitVec 32) (w : MirrorWr) : Completes (execTableMsg p seq w s) (State.Keeps P Q) := by
  unfold execTableMsg
  repeat' first
    | with_reducible refine completes_keeps _ ?_
    | with_reducible exact h
    | with_reducible assumption
    | simp only [↓keeps_upd]
    | with_reducible apply ok_keeps
    | with_reducible apply State.mirrored_keeps
    | with_reducible apply State.mirrorItem_keeps
    | intro _
    | refine fst_keeps (by assumption) ?_
    | refine snd_keeps (by assumption) ?_
    | split
    | dsimp only


theorem execSyncMsg_keeps {s : State} (h : s.Keeps P Q) (p : Fin 32) (seq : BitVec 32) (c : SyncCopy) : Completes (execSyncMsg p seq c s) (State.Keeps P Q) := by
  unfold execSyncMsg
  repeat' first
    | with_reducible refine completes_keeps _ ?_
    | with_reducible exact h
    | with_reducible assumption
    | simp only [↓keeps_upd]
    | with_reducible apply ok_keeps
    | with_reducible apply State.mirrored_keeps
    | with_reducible apply State.loadSync_keeps
    | intro _
    | refine fst_keeps (by assumption) ?_
    | refine snd_keeps (by assumption) ?_
    | split
    | dsimp only


theorem execAdd_keeps {s : State} (h : s.Keeps P Q) (g : Fin 64) (e : Fin 16) (c : Fin 4) (ecc : Option Bool) : Completes (execAdd g e c ecc s) (State.Keeps P Q) := by
  unfold execAdd
  repeat' first
    | with_reducible refine completes_keeps _ ?_
    | with_reducible exact h
    | with_reducible assumption
    | simp only [↓keeps_upd]
    | with_reducible apply ok_keeps
    | with_reducible apply State.aluRow_keeps
    | intro _
    | refine fst_keeps (by assumption) ?_
    | refine snd_keeps (by assumption) ?_
    | split
    | dsimp only


theorem execSub_keeps {s : State} (h : s.Keeps P Q) (g : Fin 64) (e : Fin 16) (c : Fin 4) (ecc : Option Bool) : Completes (execSub g e c ecc s) (State.Keeps P Q) := by
  unfold execSub
  repeat' first
    | with_reducible refine completes_keeps _ ?_
    | with_reducible exact h
    | with_reducible assumption
    | simp only [↓keeps_upd]
    | with_reducible apply ok_keeps
    | with_reducible apply State.aluRow_keeps
    | intro _
    | refine fst_keeps (by assumption) ?_
    | refine snd_keeps (by assumption) ?_
    | split
    | dsimp only


theorem execAnd_keeps {s : State} (h : s.Keeps P Q) (g : Fin 64) (e : Fin 16) (c : Fin 4) (ecc : Option Bool) : Completes (execAnd g e c ecc s) (State.Keeps P Q) := by
  unfold execAnd
  repeat' first
    | with_reducible refine completes_keeps _ ?_
    | with_reducible exact h
    | with_reducible assumption
    | simp only [↓keeps_upd]
    | with_reducible apply ok_keeps
    | with_reducible apply State.aluRow_keeps
    | intro _
    | refine fst_keeps (by assumption) ?_
    | refine snd_keeps (by assumption) ?_
    | split
    | dsimp only


theorem execOr_keeps {s : State} (h : s.Keeps P Q) (g : Fin 64) (e : Fin 16) (c : Fin 4) (ecc : Option Bool) : Completes (execOr g e c ecc s) (State.Keeps P Q) := by
  unfold execOr
  repeat' first
    | with_reducible refine completes_keeps _ ?_
    | with_reducible exact h
    | with_reducible assumption
    | simp only [↓keeps_upd]
    | with_reducible apply ok_keeps
    | with_reducible apply State.aluRow_keeps
    | intro _
    | refine fst_keeps (by assumption) ?_
    | refine snd_keeps (by assumption) ?_
    | split
    | dsimp only


theorem execXor_keeps {s : State} (h : s.Keeps P Q) (g : Fin 64) (e : Fin 16) (c : Fin 4) (ecc : Option Bool) : Completes (execXor g e c ecc s) (State.Keeps P Q) := by
  unfold execXor
  repeat' first
    | with_reducible refine completes_keeps _ ?_
    | with_reducible exact h
    | with_reducible assumption
    | simp only [↓keeps_upd]
    | with_reducible apply ok_keeps
    | with_reducible apply State.aluRow_keeps
    | intro _
    | refine fst_keeps (by assumption) ?_
    | refine snd_keeps (by assumption) ?_
    | split
    | dsimp only


theorem execShl_keeps {s : State} (h : s.Keeps P Q) (g : Fin 64) (e : Fin 16) (c : Fin 4) (ecc : Option Bool) : Completes (execShl g e c ecc s) (State.Keeps P Q) := by
  unfold execShl
  repeat' first
    | with_reducible refine completes_keeps _ ?_
    | with_reducible exact h
    | with_reducible assumption
    | simp only [↓keeps_upd]
    | with_reducible apply ok_keeps
    | with_reducible apply State.aluRow_keeps
    | intro _
    | refine fst_keeps (by assumption) ?_
    | refine snd_keeps (by assumption) ?_
    | split
    | dsimp only


theorem execShr_keeps {s : State} (h : s.Keeps P Q) (g : Fin 64) (e : Fin 16) (c : Fin 4) (ecc : Option Bool) : Completes (execShr g e c ecc s) (State.Keeps P Q) := by
  unfold execShr
  repeat' first
    | with_reducible refine completes_keeps _ ?_
    | with_reducible exact h
    | with_reducible assumption
    | simp only [↓keeps_upd]
    | with_reducible apply ok_keeps
    | with_reducible apply State.aluRow_keeps
    | intro _
    | refine fst_keeps (by assumption) ?_
    | refine snd_keeps (by assumption) ?_
    | split
    | dsimp only


theorem execSar_keeps {s : State} (h : s.Keeps P Q) (g : Fin 64) (e : Fin 16) (c : Fin 4) (ecc : Option Bool) : Completes (execSar g e c ecc s) (State.Keeps P Q) := by
  unfold execSar
  repeat' first
    | with_reducible refine completes_keeps _ ?_
    | with_reducible exact h
    | with_reducible assumption
    | simp only [↓keeps_upd]
    | with_reducible apply ok_keeps
    | with_reducible apply State.aluRow_keeps
    | intro _
    | refine fst_keeps (by assumption) ?_
    | refine snd_keeps (by assumption) ?_
    | split
    | dsimp only


theorem execMin_keeps {s : State} (h : s.Keeps P Q) (g : Fin 64) (e : Fin 16) (c : Fin 4) (ecc : Option Bool) : Completes (execMin g e c ecc s) (State.Keeps P Q) := by
  unfold execMin
  repeat' first
    | with_reducible refine completes_keeps _ ?_
    | with_reducible exact h
    | with_reducible assumption
    | simp only [↓keeps_upd]
    | with_reducible apply ok_keeps
    | with_reducible apply State.aluRow_keeps
    | intro _
    | refine fst_keeps (by assumption) ?_
    | refine snd_keeps (by assumption) ?_
    | split
    | dsimp only


theorem execMax_keeps {s : State} (h : s.Keeps P Q) (g : Fin 64) (e : Fin 16) (c : Fin 4) (ecc : Option Bool) : Completes (execMax g e c ecc s) (State.Keeps P Q) := by
  unfold execMax
  repeat' first
    | with_reducible refine completes_keeps _ ?_
    | with_reducible exact h
    | with_reducible assumption
    | simp only [↓keeps_upd]
    | with_reducible apply ok_keeps
    | with_reducible apply State.aluRow_keeps
    | intro _
    | refine fst_keeps (by assumption) ?_
    | refine snd_keeps (by assumption) ?_
    | split
    | dsimp only


theorem execCmp_keeps {s : State} (h : s.Keeps P Q) (g : Fin 64) (e : Fin 16) (c : Fin 4) (ecc : Option Bool) : Completes (execCmp g e c ecc s) (State.Keeps P Q) := by
  unfold execCmp
  repeat' first
    | with_reducible refine completes_keeps _ ?_
    | with_reducible exact h
    | with_reducible assumption
    | simp only [↓keeps_upd]
    | with_reducible apply ok_keeps
    | with_reducible apply State.aluRow_keeps
    | intro _
    | refine fst_keeps (by assumption) ?_
    | refine snd_keeps (by assumption) ?_
    | split
    | dsimp only


theorem execPopc_keeps {s : State} (h : s.Keeps P Q) (g : Fin 64) (e : Fin 16) (c : Fin 4) (ecc : Option Bool) : Completes (execPopc g e c ecc s) (State.Keeps P Q) := by
  unfold execPopc
  repeat' first
    | with_reducible refine completes_keeps _ ?_
    | with_reducible exact h
    | with_reducible assumption
    | simp only [↓keeps_upd]
    | with_reducible apply ok_keeps
    | with_reducible apply State.aluRow_keeps
    | intro _
    | refine fst_keeps (by assumption) ?_
    | refine snd_keeps (by assumption) ?_
    | split
    | dsimp only


theorem execBfx_keeps {s : State} (h : s.Keeps P Q) (g : Fin 64) (e : Fin 16) (c : Fin 4) (ecc : Option Bool) : Completes (execBfx g e c ecc s) (State.Keeps P Q) := by
  unfold execBfx
  repeat' first
    | with_reducible refine completes_keeps _ ?_
    | with_reducible exact h
    | with_reducible assumption
    | simp only [↓keeps_upd]
    | with_reducible apply ok_keeps
    | with_reducible apply State.aluRow_keeps
    | intro _
    | refine fst_keeps (by assumption) ?_
    | refine snd_keeps (by assumption) ?_
    | split
    | dsimp only


theorem execBfi_keeps {s : State} (h : s.Keeps P Q) (g : Fin 64) (e : Fin 16) (c : Fin 4) (ecc : Option Bool) : Completes (execBfi g e c ecc s) (State.Keeps P Q) := by
  unfold execBfi
  repeat' first
    | with_reducible refine completes_keeps _ ?_
    | with_reducible exact h
    | with_reducible assumption
    | simp only [↓keeps_upd]
    | with_reducible apply ok_keeps
    | with_reducible apply State.aluRow_keeps
    | intro _
    | refine fst_keeps (by assumption) ?_
    | refine snd_keeps (by assumption) ?_
    | split
    | dsimp only


theorem execMovi_keeps {s : State} (h : s.Keeps P Q) (g : Fin 64) (e : Fin 16) (c : Fin 4) (ecc : Option Bool) : Completes (execMovi g e c ecc s) (State.Keeps P Q) := by
  unfold execMovi
  repeat' first
    | with_reducible refine completes_keeps _ ?_
    | with_reducible exact h
    | with_reducible assumption
    | simp only [↓keeps_upd]
    | with_reducible apply ok_keeps
    | with_reducible apply State.aluRow_keeps
    | intro _
    | refine fst_keeps (by assumption) ?_
    | refine snd_keeps (by assumption) ?_
    | split
    | dsimp only


theorem execBeq_keeps {s : State} (h : s.Keeps P Q) (g : Fin 64) (e : Fin 16) (c : Fin 4) (ecc : Option Bool) : Completes (execBeq g e c ecc s) (State.Keeps P Q) := by
  unfold execBeq
  repeat' first
    | with_reducible refine completes_keeps _ ?_
    | with_reducible exact h
    | with_reducible assumption
    | simp only [↓keeps_upd]
    | with_reducible apply ok_keeps
    | with_reducible apply State.issue_keeps
    | with_reducible apply State.branch_keeps
    | intro _
    | refine fst_keeps (by assumption) ?_
    | refine snd_keeps (by assumption) ?_
    | split
    | dsimp only


theorem execBne_keeps {s : State} (h : s.Keeps P Q) (g : Fin 64) (e : Fin 16) (c : Fin 4) (ecc : Option Bool) : Completes (execBne g e c ecc s) (State.Keeps P Q) := by
  unfold execBne
  repeat' first
    | with_reducible refine completes_keeps _ ?_
    | with_reducible exact h
    | with_reducible assumption
    | simp only [↓keeps_upd]
    | with_reducible apply ok_keeps
    | with_reducible apply State.issue_keeps
    | with_reducible apply State.branch_keeps
    | intro _
    | refine fst_keeps (by assumption) ?_
    | refine snd_keeps (by assumption) ?_
    | split
    | dsimp only


theorem execBlt_keeps {s : State} (h : s.Keeps P Q) (g : Fin 64) (e : Fin 16) (c : Fin 4) (ecc : Option Bool) : Completes (execBlt g e c ecc s) (State.Keeps P Q) := by
  unfold execBlt
  repeat' first
    | with_reducible refine completes_keeps _ ?_
    | with_reducible exact h
    | with_reducible assumption
    | simp only [↓keeps_upd]
    | with_reducible apply ok_keeps
    | with_reducible apply State.issue_keeps
    | with_reducible apply State.branch_keeps
    | intro _
    | refine fst_keeps (by assumption) ?_
    | refine snd_keeps (by assumption) ?_
    | split
    | dsimp only


theorem execBge_keeps {s : State} (h : s.Keeps P Q) (g : Fin 64) (e : Fin 16) (c : Fin 4) (ecc : Option Bool) : Completes (execBge g e c ecc s) (State.Keeps P Q) := by
  unfold execBge
  repeat' first
    | with_reducible refine completes_keeps _ ?_
    | with_reducible exact h
    | with_reducible assumption
    | simp only [↓keeps_upd]
    | with_reducible apply ok_keeps
    | with_reducible apply State.issue_keeps
    | with_reducible apply State.branch_keeps
    | intro _
    | refine fst_keeps (by assumption) ?_
    | refine snd_keeps (by assumption) ?_
    | split
    | dsimp only


theorem execBltu_keeps {s : State} (h : s.Keeps P Q) (g : Fin 64) (e : Fin 16) (c : Fin 4) (ecc : Option Bool) : Completes (execBltu g e c ecc s) (State.Keeps P Q) := by
  unfold execBltu
  repeat' first
    | with_reducible refine completes_keeps _ ?_
    | with_reducible exact h
    | with_reducible assumption
    | simp only [↓keeps_upd]
    | with_reducible apply ok_keeps
    | with_reducible apply State.issue_keeps
    | with_reducible apply State.branch_keeps
    | intro _
    | refine fst_keeps (by assumption) ?_
    | refine snd_keeps (by assumption) ?_
    | split
    | dsimp only


theorem execBgeu_keeps {s : State} (h : s.Keeps P Q) (g : Fin 64) (e : Fin 16) (c : Fin 4) (ecc : Option Bool) : Completes (execBgeu g e c ecc s) (State.Keeps P Q) := by
  unfold execBgeu
  repeat' first
    | with_reducible refine completes_keeps _ ?_
    | with_reducible exact h
    | with_reducible assumption
    | simp only [↓keeps_upd]
    | with_reducible apply ok_keeps
    | with_reducible apply State.issue_keeps
    | with_reducible apply State.branch_keeps
    | intro _
    | refine fst_keeps (by assumption) ?_
    | refine snd_keeps (by assumption) ?_
    | split
    | dsimp only


theorem execJmp_keeps {s : State} (h : s.Keeps P Q) (g : Fin 64) (e : Fin 16) (c : Fin 4) (ecc : Option Bool) : Completes (execJmp g e c ecc s) (State.Keeps P Q) := by
  unfold execJmp
  repeat' first
    | with_reducible refine completes_keeps _ ?_
    | with_reducible exact h
    | with_reducible assumption
    | simp only [↓keeps_upd]
    | with_reducible apply ok_keeps
    | with_reducible apply State.issue_keeps
    | with_reducible apply State.jump_keeps
    | intro _
    | refine fst_keeps (by assumption) ?_
    | refine snd_keeps (by assumption) ?_
    | split
    | dsimp only


theorem execCall_keeps {s : State} (h : s.Keeps P Q) (g : Fin 64) (e : Fin 16) (c : Fin 4) (ecc : Option Bool) : Completes (execCall g e c ecc s) (State.Keeps P Q) := by
  unfold execCall
  repeat' first
    | with_reducible refine completes_keeps _ ?_
    | with_reducible exact h
    | with_reducible assumption
    | simp only [↓keeps_upd]
    | with_reducible apply ok_keeps
    | with_reducible apply State.issue_keeps
    | with_reducible apply State.trapNow_keeps
    | with_reducible apply State.jump_keeps
    | intro _
    | refine fst_keeps (by assumption) ?_
    | refine snd_keeps (by assumption) ?_
    | split
    | dsimp only


theorem execRet_keeps {s : State} (h : s.Keeps P Q) (g : Fin 64) (e : Fin 16) (c : Fin 4) (ecc : Option Bool) : Completes (execRet g e c ecc s) (State.Keeps P Q) := by
  unfold execRet
  repeat' first
    | with_reducible refine completes_keeps _ ?_
    | with_reducible exact h
    | with_reducible assumption
    | simp only [↓keeps_upd]
    | with_reducible apply ok_keeps
    | with_reducible apply State.issue_keeps
    | with_reducible apply State.trapNow_keeps
    | with_reducible apply State.jump_keeps
    | intro _
    | refine fst_keeps (by assumption) ?_
    | refine snd_keeps (by assumption) ?_
    | split
    | dsimp only


theorem execLd_keeps {s : State} (h : s.Keeps P Q) (g : Fin 64) (e : Fin 16) (c : Fin 4) (ecc : Option Bool) (mecc : Option Bool) : Completes (execLd g e c ecc mecc s) (State.Keeps P Q) := by
  unfold execLd
  repeat' first
    | with_reducible refine completes_keeps _ ?_
    | with_reducible exact h
    | with_reducible assumption
    | simp only [↓keeps_upd]
    | with_reducible apply ok_keeps
    | with_reducible apply State.issue_keeps
    | with_reducible apply State.ld_keeps
    | intro _
    | refine fst_keeps (by assumption) ?_
    | refine snd_keeps (by assumption) ?_
    | split
    | dsimp only


theorem execSt_keeps {s : State} (h : s.Keeps P Q) (g : Fin 64) (e : Fin 16) (c : Fin 4) (ecc : Option Bool) : Completes (execSt g e c ecc s) (State.Keeps P Q) := by
  unfold execSt
  repeat' first
    | with_reducible refine completes_keeps _ ?_
    | with_reducible exact h
    | with_reducible assumption
    | simp only [↓keeps_upd]
    | with_reducible apply ok_keeps
    | with_reducible apply State.issue_keeps
    | with_reducible apply State.st_keeps
    | intro _
    | refine fst_keeps (by assumption) ?_
    | refine snd_keeps (by assumption) ?_
    | split
    | dsimp only


theorem execDadd_keeps {s : State} (h : s.Keeps P Q) (g : Fin 64) (e : Fin 16) (c : Fin 4) (ecc : Option Bool) : Completes (execDadd g e c ecc s) (State.Keeps P Q) := by
  unfold execDadd
  repeat' first
    | with_reducible refine completes_keeps _ ?_
    | with_reducible exact h
    | with_reducible assumption
    | simp only [↓keeps_upd]
    | with_reducible apply ok_keeps
    | with_reducible apply State.issue_keeps
    | with_reducible apply State.atomic_keeps
    | with_reducible apply State.defer_keeps
    | intro _
    | refine fst_keeps (by assumption) ?_
    | refine snd_keeps (by assumption) ?_
    | split
    | dsimp only


theorem execDor_keeps {s : State} (h : s.Keeps P Q) (g : Fin 64) (e : Fin 16) (c : Fin 4) (ecc : Option Bool) : Completes (execDor g e c ecc s) (State.Keeps P Q) := by
  unfold execDor
  repeat' first
    | with_reducible refine completes_keeps _ ?_
    | with_reducible exact h
    | with_reducible assumption
    | simp only [↓keeps_upd]
    | with_reducible apply ok_keeps
    | with_reducible apply State.issue_keeps
    | with_reducible apply State.atomic_keeps
    | with_reducible apply State.defer_keeps
    | intro _
    | refine fst_keeps (by assumption) ?_
    | refine snd_keeps (by assumption) ?_
    | split
    | dsimp only


theorem execDinc_keeps {s : State} (h : s.Keeps P Q) (g : Fin 64) (e : Fin 16) (c : Fin 4) (ecc : Option Bool) : Completes (execDinc g e c ecc s) (State.Keeps P Q) := by
  unfold execDinc
  repeat' first
    | with_reducible refine completes_keeps _ ?_
    | with_reducible exact h
    | with_reducible assumption
    | simp only [↓keeps_upd]
    | with_reducible apply ok_keeps
    | with_reducible apply State.issue_keeps
    | with_reducible apply State.atomic_keeps
    | with_reducible apply State.defer_keeps
    | intro _
    | refine fst_keeps (by assumption) ?_
    | refine snd_keeps (by assumption) ?_
    | split
    | dsimp only


theorem execFadd_keeps {s : State} (h : s.Keeps P Q) (g : Fin 64) (e : Fin 16) (c : Fin 4) (ecc : Option Bool) : Completes (execFadd g e c ecc s) (State.Keeps P Q) := by
  unfold execFadd
  repeat' first
    | with_reducible refine completes_keeps _ ?_
    | with_reducible exact h
    | with_reducible assumption
    | simp only [↓keeps_upd]
    | with_reducible apply ok_keeps
    | with_reducible apply State.issue_keeps
    | with_reducible apply State.atomicNow_keeps
    | intro _
    | refine fst_keeps (by assumption) ?_
    | refine snd_keeps (by assumption) ?_
    | split
    | dsimp only


theorem execCas_keeps {s : State} (h : s.Keeps P Q) (g : Fin 64) (e : Fin 16) (c : Fin 4) (ecc : Option Bool) : Completes (execCas g e c ecc s) (State.Keeps P Q) := by
  unfold execCas
  repeat' first
    | with_reducible refine completes_keeps _ ?_
    | with_reducible exact h
    | with_reducible assumption
    | simp only [↓keeps_upd]
    | with_reducible apply ok_keeps
    | with_reducible apply State.issue_keeps
    | with_reducible apply State.atomicNow_keeps
    | intro _
    | refine fst_keeps (by assumption) ?_
    | refine snd_keeps (by assumption) ?_
    | split
    | dsimp only


theorem execParseNext_keeps {s : State} (h : s.Keeps P Q) (g : Fin 64) (e : Fin 16) (c : Fin 4) (ecc : Option Bool) : Completes (execParseNext g e c ecc s) (State.Keeps P Q) := by
  unfold execParseNext
  repeat' first
    | with_reducible refine completes_keeps _ ?_
    | with_reducible exact h
    | with_reducible assumption
    | simp only [↓keeps_upd]
    | with_reducible apply ok_keeps
    | with_reducible apply State.issue_keeps
    | with_reducible apply State.parseStep_keeps
    | intro _
    | refine fst_keeps (by assumption) ?_
    | refine snd_keeps (by assumption) ?_
    | split
    | dsimp only


theorem execParseSkip_keeps {s : State} (h : s.Keeps P Q) (g : Fin 64) (e : Fin 16) (c : Fin 4) (ecc : Option Bool) : Completes (execParseSkip g e c ecc s) (State.Keeps P Q) := by
  unfold execParseSkip
  repeat' first
    | with_reducible refine completes_keeps _ ?_
    | with_reducible exact h
    | with_reducible assumption
    | simp only [↓keeps_upd]
    | with_reducible apply ok_keeps
    | with_reducible apply State.issue_keeps
    | with_reducible apply State.parseStep_keeps
    | intro _
    | refine fst_keeps (by assumption) ?_
    | refine snd_keeps (by assumption) ?_
    | split
    | dsimp only


theorem execParseSetht_keeps {s : State} (h : s.Keeps P Q) (g : Fin 64) (e : Fin 16) (c : Fin 4) (ecc : Option Bool) : Completes (execParseSetht g e c ecc s) (State.Keeps P Q) := by
  unfold execParseSetht
  repeat' first
    | with_reducible refine completes_keeps _ ?_
    | with_reducible exact h
    | with_reducible assumption
    | simp only [↓keeps_upd]
    | with_reducible apply ok_keeps
    | with_reducible apply State.issue_keeps
    | with_reducible apply State.retire_keeps
    | intro _
    | refine fst_keeps (by assumption) ?_
    | refine snd_keeps (by assumption) ?_
    | split
    | dsimp only


theorem execKclr_keeps {s : State} (h : s.Keeps P Q) (g : Fin 64) (e : Fin 16) (c : Fin 4) (ecc : Option Bool) : Completes (execKclr g e c ecc s) (State.Keeps P Q) := by
  unfold execKclr
  repeat' first
    | with_reducible refine completes_keeps _ ?_
    | with_reducible exact h
    | with_reducible assumption
    | simp only [↓keeps_upd]
    | with_reducible apply ok_keeps
    | with_reducible apply State.issue_keeps
    | with_reducible apply State.retire_keeps
    | intro _
    | refine fst_keeps (by assumption) ?_
    | refine snd_keeps (by assumption) ?_
    | split
    | dsimp only


theorem execKcat_keeps {s : State} (h : s.Keeps P Q) (g : Fin 64) (e : Fin 16) (c : Fin 4) (ecc : Option Bool) : Completes (execKcat g e c ecc s) (State.Keeps P Q) := by
  unfold execKcat
  repeat' first
    | with_reducible refine completes_keeps _ ?_
    | with_reducible exact h
    | with_reducible assumption
    | simp only [↓keeps_upd]
    | with_reducible apply ok_keeps
    | with_reducible apply State.issue_keeps
    | with_reducible apply State.retire_keeps
    | with_reducible apply State.trapNow_keeps
    | with_reducible apply State.access_keeps
    | intro _
    | refine fst_keeps (by assumption) ?_
    | refine snd_keeps (by assumption) ?_
    | split
    | dsimp only


theorem execKreg_keeps {s : State} (h : s.Keeps P Q) (g : Fin 64) (e : Fin 16) (c : Fin 4) (ecc : Option Bool) : Completes (execKreg g e c ecc s) (State.Keeps P Q) := by
  unfold execKreg
  repeat' first
    | with_reducible refine completes_keeps _ ?_
    | with_reducible exact h
    | with_reducible assumption
    | simp only [↓keeps_upd]
    | with_reducible apply ok_keeps
    | with_reducible apply State.issue_keeps
    | with_reducible apply State.retire_keeps
    | intro _
    | refine fst_keeps (by assumption) ?_
    | refine snd_keeps (by assumption) ?_
    | split
    | dsimp only


theorem execLookupLdg_keeps {s : State} (h : s.Keeps P Q) (g : Fin 64) (e : Fin 16) (c : Fin 4) (ecc : Option Bool) : Completes (execLookupLdg g e c ecc s) (State.Keeps P Q) := by
  unfold execLookupLdg
  repeat' first
    | with_reducible refine completes_keeps _ ?_
    | with_reducible exact h
    | with_reducible assumption
    | simp only [↓keeps_upd]
    | with_reducible apply ok_keeps
    | with_reducible apply State.issue_keeps
    | with_reducible apply State.lookup_keeps
    | intro _
    | refine fst_keeps (by assumption) ?_
    | refine snd_keeps (by assumption) ?_
    | split
    | dsimp only


theorem execLookupExm_keeps {s : State} (h : s.Keeps P Q) (g : Fin 64) (e : Fin 16) (c : Fin 4) (ecc : Option Bool) : Completes (execLookupExm g e c ecc s) (State.Keeps P Q) := by
  unfold execLookupExm
  repeat' first
    | with_reducible refine completes_keeps _ ?_
    | with_reducible exact h
    | with_reducible assumption
    | simp only [↓keeps_upd]
    | with_reducible apply ok_keeps
    | with_reducible apply State.issue_keeps
    | with_reducible apply State.lookup_keeps
    | intro _
    | refine fst_keeps (by assumption) ?_
    | refine snd_keeps (by assumption) ?_
    | split
    | dsimp only


theorem execLookupWait_keeps {s : State} (h : s.Keeps P Q) (g : Fin 64) (e : Fin 16) (c : Fin 4) (ecc : Option Bool) : Completes (execLookupWait g e c ecc s) (State.Keeps P Q) := by
  unfold execLookupWait
  repeat' first
    | with_reducible refine completes_keeps _ ?_
    | with_reducible exact h
    | with_reducible assumption
    | simp only [↓keeps_upd]
    | with_reducible apply ok_keeps
    | with_reducible apply State.issue_keeps
    | with_reducible apply State.lookupWait_keeps
    | intro _
    | refine fst_keeps (by assumption) ?_
    | refine snd_keeps (by assumption) ?_
    | split
    | dsimp only


theorem execIns_keeps {s : State} (h : s.Keeps P Q) (g : Fin 64) (e : Fin 16) (c : Fin 4) (ecc : Option Bool) : Completes (execIns g e c ecc s) (State.Keeps P Q) := by
  unfold execIns
  repeat' first
    | with_reducible refine completes_keeps _ ?_
    | with_reducible exact h
    | with_reducible assumption
    | simp only [↓keeps_upd]
    | with_reducible apply ok_keeps
    | with_reducible apply State.issue_keeps
    | with_reducible apply State.ins_keeps
    | intro _
    | refine fst_keeps (by assumption) ?_
    | refine snd_keeps (by assumption) ?_
    | split
    | dsimp only


theorem execDel_keeps {s : State} (h : s.Keeps P Q) (g : Fin 64) (e : Fin 16) (c : Fin 4) (ecc : Option Bool) : Completes (execDel g e c ecc s) (State.Keeps P Q) := by
  unfold execDel
  repeat' first
    | with_reducible refine completes_keeps _ ?_
    | with_reducible exact h
    | with_reducible assumption
    | simp only [↓keeps_upd]
    | with_reducible apply ok_keeps
    | with_reducible apply State.issue_keeps
    | with_reducible apply State.del_keeps
    | intro _
    | refine fst_keeps (by assumption) ?_
    | refine snd_keeps (by assumption) ?_
    | split
    | dsimp only


theorem execCsum_keeps {s : State} (h : s.Keeps P Q) (g : Fin 64) (e : Fin 16) (c : Fin 4) (ecc : Option Bool) : Completes (execCsum g e c ecc s) (State.Keeps P Q) := by
  unfold execCsum
  repeat' first
    | with_reducible refine completes_keeps _ ?_
    | with_reducible exact h
    | with_reducible assumption
    | simp only [↓keeps_upd]
    | with_reducible apply ok_keeps
    | with_reducible apply State.issue_keeps
    | with_reducible apply State.csum_keeps
    | intro _
    | refine fst_keeps (by assumption) ?_
    | refine snd_keeps (by assumption) ?_
    | split
    | dsimp only


theorem execSetv_keeps {s : State} (h : s.Keeps P Q) (g : Fin 64) (e : Fin 16) (c : Fin 4) (ecc : Option Bool) : Completes (execSetv g e c ecc s) (State.Keeps P Q) := by
  unfold execSetv
  repeat' first
    | with_reducible refine completes_keeps _ ?_
    | with_reducible exact h
    | with_reducible assumption
    | simp only [↓keeps_upd]
    | with_reducible apply ok_keeps
    | with_reducible apply State.issue_keeps
    | with_reducible apply State.retire_keeps
    | intro _
    | refine fst_keeps (by assumption) ?_
    | refine snd_keeps (by assumption) ?_
    | split
    | dsimp only


theorem execSetq_keeps {s : State} (h : s.Keeps P Q) (g : Fin 64) (e : Fin 16) (c : Fin 4) (ecc : Option Bool) : Completes (execSetq g e c ecc s) (State.Keeps P Q) := by
  unfold execSetq
  repeat' first
    | with_reducible refine completes_keeps _ ?_
    | with_reducible exact h
    | with_reducible assumption
    | simp only [↓keeps_upd]
    | with_reducible apply ok_keeps
    | with_reducible apply State.issue_keeps
    | with_reducible apply State.setDesc_keeps
    | intro _
    | refine fst_keeps (by assumption) ?_
    | refine snd_keeps (by assumption) ?_
    | split
    | dsimp only


theorem execSetb_keeps {s : State} (h : s.Keeps P Q) (g : Fin 64) (e : Fin 16) (c : Fin 4) (ecc : Option Bool) : Completes (execSetb g e c ecc s) (State.Keeps P Q) := by
  unfold execSetb
  repeat' first
    | with_reducible refine completes_keeps _ ?_
    | with_reducible exact h
    | with_reducible assumption
    | simp only [↓keeps_upd]
    | with_reducible apply ok_keeps
    | with_reducible apply State.issue_keeps
    | with_reducible apply State.setDesc_keeps
    | intro _
    | refine fst_keeps (by assumption) ?_
    | refine snd_keeps (by assumption) ?_
    | split
    | dsimp only


theorem execSetr_keeps {s : State} (h : s.Keeps P Q) (g : Fin 64) (e : Fin 16) (c : Fin 4) (ecc : Option Bool) : Completes (execSetr g e c ecc s) (State.Keeps P Q) := by
  unfold execSetr
  repeat' first
    | with_reducible refine completes_keeps _ ?_
    | with_reducible exact h
    | with_reducible assumption
    | simp only [↓keeps_upd]
    | with_reducible apply ok_keeps
    | with_reducible apply State.issue_keeps
    | with_reducible apply State.setDesc_keeps
    | intro _
    | refine fst_keeps (by assumption) ?_
    | refine snd_keeps (by assumption) ?_
    | split
    | dsimp only


theorem execSetm_keeps {s : State} (h : s.Keeps P Q) (g : Fin 64) (e : Fin 16) (c : Fin 4) (ecc : Option Bool) : Completes (execSetm g e c ecc s) (State.Keeps P Q) := by
  unfold execSetm
  repeat' first
    | with_reducible refine completes_keeps _ ?_
    | with_reducible exact h
    | with_reducible assumption
    | simp only [↓keeps_upd]
    | with_reducible apply ok_keeps
    | with_reducible apply State.issue_keeps
    | with_reducible apply State.setDesc_keeps
    | with_reducible apply State.mirror_keeps
    | intro _
    | refine fst_keeps (by assumption) ?_
    | refine snd_keeps (by assumption) ?_
    | split
    | dsimp only


theorem execSetx_keeps {s : State} (h : s.Keeps P Q) (g : Fin 64) (e : Fin 16) (c : Fin 4) (ecc : Option Bool) : Completes (execSetx g e c ecc s) (State.Keeps P Q) := by
  unfold execSetx
  repeat' first
    | with_reducible refine completes_keeps _ ?_
    | with_reducible exact h
    | with_reducible assumption
    | simp only [↓keeps_upd]
    | with_reducible apply ok_keeps
    | with_reducible apply State.issue_keeps
    | with_reducible apply State.setDesc_keeps
    | intro _
    | refine fst_keeps (by assumption) ?_
    | refine snd_keeps (by assumption) ?_
    | split
    | dsimp only


theorem execSetc_keeps {s : State} (h : s.Keeps P Q) (g : Fin 64) (e : Fin 16) (c : Fin 4) (ecc : Option Bool) : Completes (execSetc g e c ecc s) (State.Keeps P Q) := by
  unfold execSetc
  repeat' first
    | with_reducible refine completes_keeps _ ?_
    | with_reducible exact h
    | with_reducible assumption
    | simp only [↓keeps_upd]
    | with_reducible apply ok_keeps
    | with_reducible apply State.issue_keeps
    | with_reducible apply State.setDesc_keeps
    | intro _
    | refine fst_keeps (by assumption) ?_
    | refine snd_keeps (by assumption) ?_
    | split
    | dsimp only


theorem execEndPass_keeps {s : State} (h : s.Keeps P Q) (g : Fin 64) (e : Fin 16) (c : Fin 4) (ecc : Option Bool) : Completes (execEndPass g e c ecc s) (State.Keeps P Q) := by
  unfold execEndPass
  repeat' first
    | with_reducible refine completes_keeps _ ?_
    | with_reducible exact h
    | with_reducible assumption
    | simp only [↓keeps_upd]
    | with_reducible apply ok_keeps
    | with_reducible apply State.issue_keeps
    | with_reducible apply State.commit_keeps
    | with_reducible apply State.trapNow_keeps
    | intro _
    | refine fst_keeps (by assumption) ?_
    | refine snd_keeps (by assumption) ?_
    | split
    | dsimp only


theorem execNop_keeps {s : State} (h : s.Keeps P Q) (g : Fin 64) (e : Fin 16) (c : Fin 4) (ecc : Option Bool) : Completes (execNop g e c ecc s) (State.Keeps P Q) := by
  unfold execNop
  repeat' first
    | with_reducible refine completes_keeps _ ?_
    | with_reducible exact h
    | with_reducible assumption
    | simp only [↓keeps_upd]
    | with_reducible apply ok_keeps
    | with_reducible apply State.issue_keeps
    | with_reducible apply State.retire_keeps
    | intro _
    | refine fst_keeps (by assumption) ?_
    | refine snd_keeps (by assumption) ?_
    | split
    | dsimp only


theorem execMovs_keeps {s : State} (h : s.Keeps P Q) (g : Fin 64) (e : Fin 16) (c : Fin 4) (ecc : Option Bool) : Completes (execMovs g e c ecc s) (State.Keeps P Q) := by
  unfold execMovs
  repeat' first
    | with_reducible refine completes_keeps _ ?_
    | with_reducible exact h
    | with_reducible assumption
    | simp only [↓keeps_upd]
    | with_reducible apply ok_keeps
    | with_reducible apply State.issue_keeps
    | with_reducible apply State.retire_keeps
    | intro _
    | refine fst_keeps (by assumption) ?_
    | refine snd_keeps (by assumption) ?_
    | split
    | dsimp only


theorem execTrap_keeps {s : State} (h : s.Keeps P Q) (g : Fin 64) (e : Fin 16) (c : Fin 4) (ecc : Option Bool) : Completes (execTrap g e c ecc s) (State.Keeps P Q) := by
  unfold execTrap
  repeat' first
    | with_reducible refine completes_keeps _ ?_
    | with_reducible exact h
    | with_reducible assumption
    | simp only [↓keeps_upd]
    | with_reducible apply ok_keeps
    | with_reducible apply State.issue_keeps
    | with_reducible apply State.trapNow_keeps
    | intro _
    | refine fst_keeps (by assumption) ?_
    | refine snd_keeps (by assumption) ?_
    | split
    | dsimp only


theorem execHandoff_keeps {s : State} (h : s.Keeps P Q) (g : Fin 64) (e : Fin 16) (c : Fin 4) (ecc : Option Bool) : Completes (execHandoff g e c ecc s) (State.Keeps P Q) := by
  unfold execHandoff
  repeat' first
    | with_reducible refine completes_keeps _ ?_
    | with_reducible exact h
    | with_reducible assumption
    | simp only [↓keeps_upd]
    | with_reducible apply ok_keeps
    | with_reducible apply State.issue_keeps
    | with_reducible apply State.defer_keeps
    | intro _
    | refine fst_keeps (by assumption) ?_
    | refine snd_keeps (by assumption) ?_
    | split
    | dsimp only


end Sys2Proof.Machine
end

