-- ==== Sys2Proof/Laws/Within.lean ====
section
/-! SUPPORT. Updates of parts of the state keep every other part: the moves of the frame laws of the operations. -/

namespace Sys2Proof.Machine

set_option autoImplicit false
set_option Elab.async false

variable {K : Part → Prop} {sB : State}

/-- Every part is as it was. -/
theorem within_refl (s : State) : s.Within K s :=
  ⟨rfl, .inr rfl, .inr rfl, .inr rfl, .inr rfl, .inr rfl, .inr rfl, .inr rfl, .inr rfl, .inr rfl, .inr rfl, .inr rfl, .inr rfl, .inr rfl, .inr rfl, .inr rfl, .inr rfl, .inr rfl, .inr rfl, .inr rfl, .inr rfl, .inr rfl, .inr rfl, .inr rfl, .inr rfl⟩

theorem within_act (k_act : K .act) {s : State} (act : Act) :
    (State.mk s.words s.latch s.ctrs s.now s.free s.pending s.flt s.pon act s.whf s.cpg s.keys s.pm s.stw s.twn s.ldg s.eng s.fwd s.hrl s.shl s.tly s.wdn s.boot s.hst s.rdata).Within K sB ↔ s.Within K sB :=
  ⟨fun h => ⟨h.pending, h.words, h.latch, h.ctrs, h.now, h.free, h.flt, h.pon, .inl k_act, h.whf, h.cpg, h.keys, h.pm, h.stw, h.twn, h.ldg, h.eng, h.fwd, h.hrl, h.shl, h.tly, h.wdn, h.boot, h.hst, h.rdata⟩,
   fun h => ⟨h.pending, h.words, h.latch, h.ctrs, h.now, h.free, h.flt, h.pon, .inl k_act, h.whf, h.cpg, h.keys, h.pm, h.stw, h.twn, h.ldg, h.eng, h.fwd, h.hrl, h.shl, h.tly, h.wdn, h.boot, h.hst, h.rdata⟩⟩

theorem within_act_cpg_stw_ldg_eng_fwd_tly_wdn_boot (k_act : K .act) (k_cpg : K .cpg) (k_stw : K .stw) (k_ldg : K .ldg) (k_eng : K .eng) (k_fwd : K .fwd) (k_tly : K .tly) (k_wdn : K .wdn) (k_boot : K .boot) {s : State} (act : Act) (cpg : Cpg) (stw : Stw) (ldg : Ldg) (eng : Eng) (fwd : Fwd) (tly : Tly) (wdn : Wdn) (boot : Boot) :
    (State.mk s.words s.latch s.ctrs s.now s.free s.pending s.flt s.pon act s.whf cpg s.keys s.pm stw s.twn ldg eng fwd s.hrl s.shl tly wdn boot s.hst s.rdata).Within K sB ↔ s.Within K sB :=
  ⟨fun h => ⟨h.pending, h.words, h.latch, h.ctrs, h.now, h.free, h.flt, h.pon, .inl k_act, h.whf, .inl k_cpg, h.keys, h.pm, .inl k_stw, h.twn, .inl k_ldg, .inl k_eng, .inl k_fwd, h.hrl, h.shl, .inl k_tly, .inl k_wdn, .inl k_boot, h.hst, h.rdata⟩,
   fun h => ⟨h.pending, h.words, h.latch, h.ctrs, h.now, h.free, h.flt, h.pon, .inl k_act, h.whf, .inl k_cpg, h.keys, h.pm, .inl k_stw, h.twn, .inl k_ldg, .inl k_eng, .inl k_fwd, h.hrl, h.shl, .inl k_tly, .inl k_wdn, .inl k_boot, h.hst, h.rdata⟩⟩

theorem within_act_stw_wdn_boot (k_act : K .act) (k_stw : K .stw) (k_wdn : K .wdn) (k_boot : K .boot) {s : State} (act : Act) (stw : Stw) (wdn : Wdn) (boot : Boot) :
    (State.mk s.words s.latch s.ctrs s.now s.free s.pending s.flt s.pon act s.whf s.cpg s.keys s.pm stw s.twn s.ldg s.eng s.fwd s.hrl s.shl s.tly wdn boot s.hst s.rdata).Within K sB ↔ s.Within K sB :=
  ⟨fun h => ⟨h.pending, h.words, h.latch, h.ctrs, h.now, h.free, h.flt, h.pon, .inl k_act, h.whf, h.cpg, h.keys, h.pm, .inl k_stw, h.twn, h.ldg, h.eng, h.fwd, h.hrl, h.shl, h.tly, .inl k_wdn, .inl k_boot, h.hst, h.rdata⟩,
   fun h => ⟨h.pending, h.words, h.latch, h.ctrs, h.now, h.free, h.flt, h.pon, .inl k_act, h.whf, h.cpg, h.keys, h.pm, .inl k_stw, h.twn, h.ldg, h.eng, h.fwd, h.hrl, h.shl, h.tly, .inl k_wdn, .inl k_boot, h.hst, h.rdata⟩⟩

theorem within_boot (k_boot : K .boot) {s : State} (boot : Boot) :
    (State.mk s.words s.latch s.ctrs s.now s.free s.pending s.flt s.pon s.act s.whf s.cpg s.keys s.pm s.stw s.twn s.ldg s.eng s.fwd s.hrl s.shl s.tly s.wdn boot s.hst s.rdata).Within K sB ↔ s.Within K sB :=
  ⟨fun h => ⟨h.pending, h.words, h.latch, h.ctrs, h.now, h.free, h.flt, h.pon, h.act, h.whf, h.cpg, h.keys, h.pm, h.stw, h.twn, h.ldg, h.eng, h.fwd, h.hrl, h.shl, h.tly, h.wdn, .inl k_boot, h.hst, h.rdata⟩,
   fun h => ⟨h.pending, h.words, h.latch, h.ctrs, h.now, h.free, h.flt, h.pon, h.act, h.whf, h.cpg, h.keys, h.pm, h.stw, h.twn, h.ldg, h.eng, h.fwd, h.hrl, h.shl, h.tly, h.wdn, .inl k_boot, h.hst, h.rdata⟩⟩

theorem within_cpg (k_cpg : K .cpg) {s : State} (cpg : Cpg) :
    (State.mk s.words s.latch s.ctrs s.now s.free s.pending s.flt s.pon s.act s.whf cpg s.keys s.pm s.stw s.twn s.ldg s.eng s.fwd s.hrl s.shl s.tly s.wdn s.boot s.hst s.rdata).Within K sB ↔ s.Within K sB :=
  ⟨fun h => ⟨h.pending, h.words, h.latch, h.ctrs, h.now, h.free, h.flt, h.pon, h.act, h.whf, .inl k_cpg, h.keys, h.pm, h.stw, h.twn, h.ldg, h.eng, h.fwd, h.hrl, h.shl, h.tly, h.wdn, h.boot, h.hst, h.rdata⟩,
   fun h => ⟨h.pending, h.words, h.latch, h.ctrs, h.now, h.free, h.flt, h.pon, h.act, h.whf, .inl k_cpg, h.keys, h.pm, h.stw, h.twn, h.ldg, h.eng, h.fwd, h.hrl, h.shl, h.tly, h.wdn, h.boot, h.hst, h.rdata⟩⟩

theorem within_cpg_fwd (k_cpg : K .cpg) (k_fwd : K .fwd) {s : State} (cpg : Cpg) (fwd : Fwd) :
    (State.mk s.words s.latch s.ctrs s.now s.free s.pending s.flt s.pon s.act s.whf cpg s.keys s.pm s.stw s.twn s.ldg s.eng fwd s.hrl s.shl s.tly s.wdn s.boot s.hst s.rdata).Within K sB ↔ s.Within K sB :=
  ⟨fun h => ⟨h.pending, h.words, h.latch, h.ctrs, h.now, h.free, h.flt, h.pon, h.act, h.whf, .inl k_cpg, h.keys, h.pm, h.stw, h.twn, h.ldg, h.eng, .inl k_fwd, h.hrl, h.shl, h.tly, h.wdn, h.boot, h.hst, h.rdata⟩,
   fun h => ⟨h.pending, h.words, h.latch, h.ctrs, h.now, h.free, h.flt, h.pon, h.act, h.whf, .inl k_cpg, h.keys, h.pm, h.stw, h.twn, h.ldg, h.eng, .inl k_fwd, h.hrl, h.shl, h.tly, h.wdn, h.boot, h.hst, h.rdata⟩⟩

theorem within_ctrs (k_ctrs : K .ctrs) {s : State} (ctrs : Tab Ctr) :
    (State.mk s.words s.latch ctrs s.now s.free s.pending s.flt s.pon s.act s.whf s.cpg s.keys s.pm s.stw s.twn s.ldg s.eng s.fwd s.hrl s.shl s.tly s.wdn s.boot s.hst s.rdata).Within K sB ↔ s.Within K sB :=
  ⟨fun h => ⟨h.pending, h.words, h.latch, .inl k_ctrs, h.now, h.free, h.flt, h.pon, h.act, h.whf, h.cpg, h.keys, h.pm, h.stw, h.twn, h.ldg, h.eng, h.fwd, h.hrl, h.shl, h.tly, h.wdn, h.boot, h.hst, h.rdata⟩,
   fun h => ⟨h.pending, h.words, h.latch, .inl k_ctrs, h.now, h.free, h.flt, h.pon, h.act, h.whf, h.cpg, h.keys, h.pm, h.stw, h.twn, h.ldg, h.eng, h.fwd, h.hrl, h.shl, h.tly, h.wdn, h.boot, h.hst, h.rdata⟩⟩

theorem within_eng (k_eng : K .eng) {s : State} (eng : Eng) :
    (State.mk s.words s.latch s.ctrs s.now s.free s.pending s.flt s.pon s.act s.whf s.cpg s.keys s.pm s.stw s.twn s.ldg eng s.fwd s.hrl s.shl s.tly s.wdn s.boot s.hst s.rdata).Within K sB ↔ s.Within K sB :=
  ⟨fun h => ⟨h.pending, h.words, h.latch, h.ctrs, h.now, h.free, h.flt, h.pon, h.act, h.whf, h.cpg, h.keys, h.pm, h.stw, h.twn, h.ldg, .inl k_eng, h.fwd, h.hrl, h.shl, h.tly, h.wdn, h.boot, h.hst, h.rdata⟩,
   fun h => ⟨h.pending, h.words, h.latch, h.ctrs, h.now, h.free, h.flt, h.pon, h.act, h.whf, h.cpg, h.keys, h.pm, h.stw, h.twn, h.ldg, .inl k_eng, h.fwd, h.hrl, h.shl, h.tly, h.wdn, h.boot, h.hst, h.rdata⟩⟩

theorem within_eng_wdn (k_eng : K .eng) (k_wdn : K .wdn) {s : State} (eng : Eng) (wdn : Wdn) :
    (State.mk s.words s.latch s.ctrs s.now s.free s.pending s.flt s.pon s.act s.whf s.cpg s.keys s.pm s.stw s.twn s.ldg eng s.fwd s.hrl s.shl s.tly wdn s.boot s.hst s.rdata).Within K sB ↔ s.Within K sB :=
  ⟨fun h => ⟨h.pending, h.words, h.latch, h.ctrs, h.now, h.free, h.flt, h.pon, h.act, h.whf, h.cpg, h.keys, h.pm, h.stw, h.twn, h.ldg, .inl k_eng, h.fwd, h.hrl, h.shl, h.tly, .inl k_wdn, h.boot, h.hst, h.rdata⟩,
   fun h => ⟨h.pending, h.words, h.latch, h.ctrs, h.now, h.free, h.flt, h.pon, h.act, h.whf, h.cpg, h.keys, h.pm, h.stw, h.twn, h.ldg, .inl k_eng, h.fwd, h.hrl, h.shl, h.tly, .inl k_wdn, h.boot, h.hst, h.rdata⟩⟩

theorem within_flt (k_flt : K .flt) {s : State} (flt : Flt) :
    (State.mk s.words s.latch s.ctrs s.now s.free s.pending flt s.pon s.act s.whf s.cpg s.keys s.pm s.stw s.twn s.ldg s.eng s.fwd s.hrl s.shl s.tly s.wdn s.boot s.hst s.rdata).Within K sB ↔ s.Within K sB :=
  ⟨fun h => ⟨h.pending, h.words, h.latch, h.ctrs, h.now, h.free, .inl k_flt, h.pon, h.act, h.whf, h.cpg, h.keys, h.pm, h.stw, h.twn, h.ldg, h.eng, h.fwd, h.hrl, h.shl, h.tly, h.wdn, h.boot, h.hst, h.rdata⟩,
   fun h => ⟨h.pending, h.words, h.latch, h.ctrs, h.now, h.free, .inl k_flt, h.pon, h.act, h.whf, h.cpg, h.keys, h.pm, h.stw, h.twn, h.ldg, h.eng, h.fwd, h.hrl, h.shl, h.tly, h.wdn, h.boot, h.hst, h.rdata⟩⟩

theorem within_flt_wdn (k_flt : K .flt) (k_wdn : K .wdn) {s : State} (flt : Flt) (wdn : Wdn) :
    (State.mk s.words s.latch s.ctrs s.now s.free s.pending flt s.pon s.act s.whf s.cpg s.keys s.pm s.stw s.twn s.ldg s.eng s.fwd s.hrl s.shl s.tly wdn s.boot s.hst s.rdata).Within K sB ↔ s.Within K sB :=
  ⟨fun h => ⟨h.pending, h.words, h.latch, h.ctrs, h.now, h.free, .inl k_flt, h.pon, h.act, h.whf, h.cpg, h.keys, h.pm, h.stw, h.twn, h.ldg, h.eng, h.fwd, h.hrl, h.shl, h.tly, .inl k_wdn, h.boot, h.hst, h.rdata⟩,
   fun h => ⟨h.pending, h.words, h.latch, h.ctrs, h.now, h.free, .inl k_flt, h.pon, h.act, h.whf, h.cpg, h.keys, h.pm, h.stw, h.twn, h.ldg, h.eng, h.fwd, h.hrl, h.shl, h.tly, .inl k_wdn, h.boot, h.hst, h.rdata⟩⟩

theorem within_free (k_free : K .free) {s : State} (free : Nat) :
    (State.mk s.words s.latch s.ctrs s.now free s.pending s.flt s.pon s.act s.whf s.cpg s.keys s.pm s.stw s.twn s.ldg s.eng s.fwd s.hrl s.shl s.tly s.wdn s.boot s.hst s.rdata).Within K sB ↔ s.Within K sB :=
  ⟨fun h => ⟨h.pending, h.words, h.latch, h.ctrs, h.now, .inl k_free, h.flt, h.pon, h.act, h.whf, h.cpg, h.keys, h.pm, h.stw, h.twn, h.ldg, h.eng, h.fwd, h.hrl, h.shl, h.tly, h.wdn, h.boot, h.hst, h.rdata⟩,
   fun h => ⟨h.pending, h.words, h.latch, h.ctrs, h.now, .inl k_free, h.flt, h.pon, h.act, h.whf, h.cpg, h.keys, h.pm, h.stw, h.twn, h.ldg, h.eng, h.fwd, h.hrl, h.shl, h.tly, h.wdn, h.boot, h.hst, h.rdata⟩⟩

theorem within_free_twn (k_free : K .free) (k_twn : K .twn) {s : State} (free : Nat) (twn : Twn) :
    (State.mk s.words s.latch s.ctrs s.now free s.pending s.flt s.pon s.act s.whf s.cpg s.keys s.pm s.stw twn s.ldg s.eng s.fwd s.hrl s.shl s.tly s.wdn s.boot s.hst s.rdata).Within K sB ↔ s.Within K sB :=
  ⟨fun h => ⟨h.pending, h.words, h.latch, h.ctrs, h.now, .inl k_free, h.flt, h.pon, h.act, h.whf, h.cpg, h.keys, h.pm, h.stw, .inl k_twn, h.ldg, h.eng, h.fwd, h.hrl, h.shl, h.tly, h.wdn, h.boot, h.hst, h.rdata⟩,
   fun h => ⟨h.pending, h.words, h.latch, h.ctrs, h.now, .inl k_free, h.flt, h.pon, h.act, h.whf, h.cpg, h.keys, h.pm, h.stw, .inl k_twn, h.ldg, h.eng, h.fwd, h.hrl, h.shl, h.tly, h.wdn, h.boot, h.hst, h.rdata⟩⟩

theorem within_fwd (k_fwd : K .fwd) {s : State} (fwd : Fwd) :
    (State.mk s.words s.latch s.ctrs s.now s.free s.pending s.flt s.pon s.act s.whf s.cpg s.keys s.pm s.stw s.twn s.ldg s.eng fwd s.hrl s.shl s.tly s.wdn s.boot s.hst s.rdata).Within K sB ↔ s.Within K sB :=
  ⟨fun h => ⟨h.pending, h.words, h.latch, h.ctrs, h.now, h.free, h.flt, h.pon, h.act, h.whf, h.cpg, h.keys, h.pm, h.stw, h.twn, h.ldg, h.eng, .inl k_fwd, h.hrl, h.shl, h.tly, h.wdn, h.boot, h.hst, h.rdata⟩,
   fun h => ⟨h.pending, h.words, h.latch, h.ctrs, h.now, h.free, h.flt, h.pon, h.act, h.whf, h.cpg, h.keys, h.pm, h.stw, h.twn, h.ldg, h.eng, .inl k_fwd, h.hrl, h.shl, h.tly, h.wdn, h.boot, h.hst, h.rdata⟩⟩

theorem within_hrl (k_hrl : K .hrl) {s : State} (hrl : Hrl) :
    (State.mk s.words s.latch s.ctrs s.now s.free s.pending s.flt s.pon s.act s.whf s.cpg s.keys s.pm s.stw s.twn s.ldg s.eng s.fwd hrl s.shl s.tly s.wdn s.boot s.hst s.rdata).Within K sB ↔ s.Within K sB :=
  ⟨fun h => ⟨h.pending, h.words, h.latch, h.ctrs, h.now, h.free, h.flt, h.pon, h.act, h.whf, h.cpg, h.keys, h.pm, h.stw, h.twn, h.ldg, h.eng, h.fwd, .inl k_hrl, h.shl, h.tly, h.wdn, h.boot, h.hst, h.rdata⟩,
   fun h => ⟨h.pending, h.words, h.latch, h.ctrs, h.now, h.free, h.flt, h.pon, h.act, h.whf, h.cpg, h.keys, h.pm, h.stw, h.twn, h.ldg, h.eng, h.fwd, .inl k_hrl, h.shl, h.tly, h.wdn, h.boot, h.hst, h.rdata⟩⟩

theorem within_hst (k_hst : K .hst) {s : State} (hst : Hst) :
    (State.mk s.words s.latch s.ctrs s.now s.free s.pending s.flt s.pon s.act s.whf s.cpg s.keys s.pm s.stw s.twn s.ldg s.eng s.fwd s.hrl s.shl s.tly s.wdn s.boot hst s.rdata).Within K sB ↔ s.Within K sB :=
  ⟨fun h => ⟨h.pending, h.words, h.latch, h.ctrs, h.now, h.free, h.flt, h.pon, h.act, h.whf, h.cpg, h.keys, h.pm, h.stw, h.twn, h.ldg, h.eng, h.fwd, h.hrl, h.shl, h.tly, h.wdn, h.boot, .inl k_hst, h.rdata⟩,
   fun h => ⟨h.pending, h.words, h.latch, h.ctrs, h.now, h.free, h.flt, h.pon, h.act, h.whf, h.cpg, h.keys, h.pm, h.stw, h.twn, h.ldg, h.eng, h.fwd, h.hrl, h.shl, h.tly, h.wdn, h.boot, .inl k_hst, h.rdata⟩⟩

theorem within_keys (k_keys : K .keys) {s : State} (keys : Keys) :
    (State.mk s.words s.latch s.ctrs s.now s.free s.pending s.flt s.pon s.act s.whf s.cpg keys s.pm s.stw s.twn s.ldg s.eng s.fwd s.hrl s.shl s.tly s.wdn s.boot s.hst s.rdata).Within K sB ↔ s.Within K sB :=
  ⟨fun h => ⟨h.pending, h.words, h.latch, h.ctrs, h.now, h.free, h.flt, h.pon, h.act, h.whf, h.cpg, .inl k_keys, h.pm, h.stw, h.twn, h.ldg, h.eng, h.fwd, h.hrl, h.shl, h.tly, h.wdn, h.boot, h.hst, h.rdata⟩,
   fun h => ⟨h.pending, h.words, h.latch, h.ctrs, h.now, h.free, h.flt, h.pon, h.act, h.whf, h.cpg, .inl k_keys, h.pm, h.stw, h.twn, h.ldg, h.eng, h.fwd, h.hrl, h.shl, h.tly, h.wdn, h.boot, h.hst, h.rdata⟩⟩

theorem within_latch (k_latch : K .latch) {s : State} (latch : Words) :
    (State.mk s.words latch s.ctrs s.now s.free s.pending s.flt s.pon s.act s.whf s.cpg s.keys s.pm s.stw s.twn s.ldg s.eng s.fwd s.hrl s.shl s.tly s.wdn s.boot s.hst s.rdata).Within K sB ↔ s.Within K sB :=
  ⟨fun h => ⟨h.pending, h.words, .inl k_latch, h.ctrs, h.now, h.free, h.flt, h.pon, h.act, h.whf, h.cpg, h.keys, h.pm, h.stw, h.twn, h.ldg, h.eng, h.fwd, h.hrl, h.shl, h.tly, h.wdn, h.boot, h.hst, h.rdata⟩,
   fun h => ⟨h.pending, h.words, .inl k_latch, h.ctrs, h.now, h.free, h.flt, h.pon, h.act, h.whf, h.cpg, h.keys, h.pm, h.stw, h.twn, h.ldg, h.eng, h.fwd, h.hrl, h.shl, h.tly, h.wdn, h.boot, h.hst, h.rdata⟩⟩

theorem within_ldg (k_ldg : K .ldg) {s : State} (ldg : Ldg) :
    (State.mk s.words s.latch s.ctrs s.now s.free s.pending s.flt s.pon s.act s.whf s.cpg s.keys s.pm s.stw s.twn ldg s.eng s.fwd s.hrl s.shl s.tly s.wdn s.boot s.hst s.rdata).Within K sB ↔ s.Within K sB :=
  ⟨fun h => ⟨h.pending, h.words, h.latch, h.ctrs, h.now, h.free, h.flt, h.pon, h.act, h.whf, h.cpg, h.keys, h.pm, h.stw, h.twn, .inl k_ldg, h.eng, h.fwd, h.hrl, h.shl, h.tly, h.wdn, h.boot, h.hst, h.rdata⟩,
   fun h => ⟨h.pending, h.words, h.latch, h.ctrs, h.now, h.free, h.flt, h.pon, h.act, h.whf, h.cpg, h.keys, h.pm, h.stw, h.twn, .inl k_ldg, h.eng, h.fwd, h.hrl, h.shl, h.tly, h.wdn, h.boot, h.hst, h.rdata⟩⟩

theorem within_now (k_now : K .now) {s : State} (now : Nat) :
    (State.mk s.words s.latch s.ctrs now s.free s.pending s.flt s.pon s.act s.whf s.cpg s.keys s.pm s.stw s.twn s.ldg s.eng s.fwd s.hrl s.shl s.tly s.wdn s.boot s.hst s.rdata).Within K sB ↔ s.Within K sB :=
  ⟨fun h => ⟨h.pending, h.words, h.latch, h.ctrs, .inl k_now, h.free, h.flt, h.pon, h.act, h.whf, h.cpg, h.keys, h.pm, h.stw, h.twn, h.ldg, h.eng, h.fwd, h.hrl, h.shl, h.tly, h.wdn, h.boot, h.hst, h.rdata⟩,
   fun h => ⟨h.pending, h.words, h.latch, h.ctrs, .inl k_now, h.free, h.flt, h.pon, h.act, h.whf, h.cpg, h.keys, h.pm, h.stw, h.twn, h.ldg, h.eng, h.fwd, h.hrl, h.shl, h.tly, h.wdn, h.boot, h.hst, h.rdata⟩⟩

theorem within_now_boot (k_now : K .now) (k_boot : K .boot) {s : State} (now : Nat) (boot : Boot) :
    (State.mk s.words s.latch s.ctrs now s.free s.pending s.flt s.pon s.act s.whf s.cpg s.keys s.pm s.stw s.twn s.ldg s.eng s.fwd s.hrl s.shl s.tly s.wdn boot s.hst s.rdata).Within K sB ↔ s.Within K sB :=
  ⟨fun h => ⟨h.pending, h.words, h.latch, h.ctrs, .inl k_now, h.free, h.flt, h.pon, h.act, h.whf, h.cpg, h.keys, h.pm, h.stw, h.twn, h.ldg, h.eng, h.fwd, h.hrl, h.shl, h.tly, h.wdn, .inl k_boot, h.hst, h.rdata⟩,
   fun h => ⟨h.pending, h.words, h.latch, h.ctrs, .inl k_now, h.free, h.flt, h.pon, h.act, h.whf, h.cpg, h.keys, h.pm, h.stw, h.twn, h.ldg, h.eng, h.fwd, h.hrl, h.shl, h.tly, h.wdn, .inl k_boot, h.hst, h.rdata⟩⟩

theorem within_pm (k_pm : K .pm) {s : State} (pm : Pm) :
    (State.mk s.words s.latch s.ctrs s.now s.free s.pending s.flt s.pon s.act s.whf s.cpg s.keys pm s.stw s.twn s.ldg s.eng s.fwd s.hrl s.shl s.tly s.wdn s.boot s.hst s.rdata).Within K sB ↔ s.Within K sB :=
  ⟨fun h => ⟨h.pending, h.words, h.latch, h.ctrs, h.now, h.free, h.flt, h.pon, h.act, h.whf, h.cpg, h.keys, .inl k_pm, h.stw, h.twn, h.ldg, h.eng, h.fwd, h.hrl, h.shl, h.tly, h.wdn, h.boot, h.hst, h.rdata⟩,
   fun h => ⟨h.pending, h.words, h.latch, h.ctrs, h.now, h.free, h.flt, h.pon, h.act, h.whf, h.cpg, h.keys, .inl k_pm, h.stw, h.twn, h.ldg, h.eng, h.fwd, h.hrl, h.shl, h.tly, h.wdn, h.boot, h.hst, h.rdata⟩⟩

theorem within_pon (k_pon : K .pon) {s : State} (pon : Pon) :
    (State.mk s.words s.latch s.ctrs s.now s.free s.pending s.flt pon s.act s.whf s.cpg s.keys s.pm s.stw s.twn s.ldg s.eng s.fwd s.hrl s.shl s.tly s.wdn s.boot s.hst s.rdata).Within K sB ↔ s.Within K sB :=
  ⟨fun h => ⟨h.pending, h.words, h.latch, h.ctrs, h.now, h.free, h.flt, .inl k_pon, h.act, h.whf, h.cpg, h.keys, h.pm, h.stw, h.twn, h.ldg, h.eng, h.fwd, h.hrl, h.shl, h.tly, h.wdn, h.boot, h.hst, h.rdata⟩,
   fun h => ⟨h.pending, h.words, h.latch, h.ctrs, h.now, h.free, h.flt, .inl k_pon, h.act, h.whf, h.cpg, h.keys, h.pm, h.stw, h.twn, h.ldg, h.eng, h.fwd, h.hrl, h.shl, h.tly, h.wdn, h.boot, h.hst, h.rdata⟩⟩

theorem within_rdata (k_rdata : K .rdata) {s : State} (rdata : Words) :
    (State.mk s.words s.latch s.ctrs s.now s.free s.pending s.flt s.pon s.act s.whf s.cpg s.keys s.pm s.stw s.twn s.ldg s.eng s.fwd s.hrl s.shl s.tly s.wdn s.boot s.hst rdata).Within K sB ↔ s.Within K sB :=
  ⟨fun h => ⟨h.pending, h.words, h.latch, h.ctrs, h.now, h.free, h.flt, h.pon, h.act, h.whf, h.cpg, h.keys, h.pm, h.stw, h.twn, h.ldg, h.eng, h.fwd, h.hrl, h.shl, h.tly, h.wdn, h.boot, h.hst, .inl k_rdata⟩,
   fun h => ⟨h.pending, h.words, h.latch, h.ctrs, h.now, h.free, h.flt, h.pon, h.act, h.whf, h.cpg, h.keys, h.pm, h.stw, h.twn, h.ldg, h.eng, h.fwd, h.hrl, h.shl, h.tly, h.wdn, h.boot, h.hst, .inl k_rdata⟩⟩

theorem within_shl (k_shl : K .shl) {s : State} (shl : Shl) :
    (State.mk s.words s.latch s.ctrs s.now s.free s.pending s.flt s.pon s.act s.whf s.cpg s.keys s.pm s.stw s.twn s.ldg s.eng s.fwd s.hrl shl s.tly s.wdn s.boot s.hst s.rdata).Within K sB ↔ s.Within K sB :=
  ⟨fun h => ⟨h.pending, h.words, h.latch, h.ctrs, h.now, h.free, h.flt, h.pon, h.act, h.whf, h.cpg, h.keys, h.pm, h.stw, h.twn, h.ldg, h.eng, h.fwd, h.hrl, .inl k_shl, h.tly, h.wdn, h.boot, h.hst, h.rdata⟩,
   fun h => ⟨h.pending, h.words, h.latch, h.ctrs, h.now, h.free, h.flt, h.pon, h.act, h.whf, h.cpg, h.keys, h.pm, h.stw, h.twn, h.ldg, h.eng, h.fwd, h.hrl, .inl k_shl, h.tly, h.wdn, h.boot, h.hst, h.rdata⟩⟩

theorem within_stw (k_stw : K .stw) {s : State} (stw : Stw) :
    (State.mk s.words s.latch s.ctrs s.now s.free s.pending s.flt s.pon s.act s.whf s.cpg s.keys s.pm stw s.twn s.ldg s.eng s.fwd s.hrl s.shl s.tly s.wdn s.boot s.hst s.rdata).Within K sB ↔ s.Within K sB :=
  ⟨fun h => ⟨h.pending, h.words, h.latch, h.ctrs, h.now, h.free, h.flt, h.pon, h.act, h.whf, h.cpg, h.keys, h.pm, .inl k_stw, h.twn, h.ldg, h.eng, h.fwd, h.hrl, h.shl, h.tly, h.wdn, h.boot, h.hst, h.rdata⟩,
   fun h => ⟨h.pending, h.words, h.latch, h.ctrs, h.now, h.free, h.flt, h.pon, h.act, h.whf, h.cpg, h.keys, h.pm, .inl k_stw, h.twn, h.ldg, h.eng, h.fwd, h.hrl, h.shl, h.tly, h.wdn, h.boot, h.hst, h.rdata⟩⟩

theorem within_stw_boot (k_stw : K .stw) (k_boot : K .boot) {s : State} (stw : Stw) (boot : Boot) :
    (State.mk s.words s.latch s.ctrs s.now s.free s.pending s.flt s.pon s.act s.whf s.cpg s.keys s.pm stw s.twn s.ldg s.eng s.fwd s.hrl s.shl s.tly s.wdn boot s.hst s.rdata).Within K sB ↔ s.Within K sB :=
  ⟨fun h => ⟨h.pending, h.words, h.latch, h.ctrs, h.now, h.free, h.flt, h.pon, h.act, h.whf, h.cpg, h.keys, h.pm, .inl k_stw, h.twn, h.ldg, h.eng, h.fwd, h.hrl, h.shl, h.tly, h.wdn, .inl k_boot, h.hst, h.rdata⟩,
   fun h => ⟨h.pending, h.words, h.latch, h.ctrs, h.now, h.free, h.flt, h.pon, h.act, h.whf, h.cpg, h.keys, h.pm, .inl k_stw, h.twn, h.ldg, h.eng, h.fwd, h.hrl, h.shl, h.tly, h.wdn, .inl k_boot, h.hst, h.rdata⟩⟩

theorem within_tly (k_tly : K .tly) {s : State} (tly : Tly) :
    (State.mk s.words s.latch s.ctrs s.now s.free s.pending s.flt s.pon s.act s.whf s.cpg s.keys s.pm s.stw s.twn s.ldg s.eng s.fwd s.hrl s.shl tly s.wdn s.boot s.hst s.rdata).Within K sB ↔ s.Within K sB :=
  ⟨fun h => ⟨h.pending, h.words, h.latch, h.ctrs, h.now, h.free, h.flt, h.pon, h.act, h.whf, h.cpg, h.keys, h.pm, h.stw, h.twn, h.ldg, h.eng, h.fwd, h.hrl, h.shl, .inl k_tly, h.wdn, h.boot, h.hst, h.rdata⟩,
   fun h => ⟨h.pending, h.words, h.latch, h.ctrs, h.now, h.free, h.flt, h.pon, h.act, h.whf, h.cpg, h.keys, h.pm, h.stw, h.twn, h.ldg, h.eng, h.fwd, h.hrl, h.shl, .inl k_tly, h.wdn, h.boot, h.hst, h.rdata⟩⟩

theorem within_twn (k_twn : K .twn) {s : State} (twn : Twn) :
    (State.mk s.words s.latch s.ctrs s.now s.free s.pending s.flt s.pon s.act s.whf s.cpg s.keys s.pm s.stw twn s.ldg s.eng s.fwd s.hrl s.shl s.tly s.wdn s.boot s.hst s.rdata).Within K sB ↔ s.Within K sB :=
  ⟨fun h => ⟨h.pending, h.words, h.latch, h.ctrs, h.now, h.free, h.flt, h.pon, h.act, h.whf, h.cpg, h.keys, h.pm, h.stw, .inl k_twn, h.ldg, h.eng, h.fwd, h.hrl, h.shl, h.tly, h.wdn, h.boot, h.hst, h.rdata⟩,
   fun h => ⟨h.pending, h.words, h.latch, h.ctrs, h.now, h.free, h.flt, h.pon, h.act, h.whf, h.cpg, h.keys, h.pm, h.stw, .inl k_twn, h.ldg, h.eng, h.fwd, h.hrl, h.shl, h.tly, h.wdn, h.boot, h.hst, h.rdata⟩⟩

theorem within_wdn (k_wdn : K .wdn) {s : State} (wdn : Wdn) :
    (State.mk s.words s.latch s.ctrs s.now s.free s.pending s.flt s.pon s.act s.whf s.cpg s.keys s.pm s.stw s.twn s.ldg s.eng s.fwd s.hrl s.shl s.tly wdn s.boot s.hst s.rdata).Within K sB ↔ s.Within K sB :=
  ⟨fun h => ⟨h.pending, h.words, h.latch, h.ctrs, h.now, h.free, h.flt, h.pon, h.act, h.whf, h.cpg, h.keys, h.pm, h.stw, h.twn, h.ldg, h.eng, h.fwd, h.hrl, h.shl, h.tly, .inl k_wdn, h.boot, h.hst, h.rdata⟩,
   fun h => ⟨h.pending, h.words, h.latch, h.ctrs, h.now, h.free, h.flt, h.pon, h.act, h.whf, h.cpg, h.keys, h.pm, h.stw, h.twn, h.ldg, h.eng, h.fwd, h.hrl, h.shl, h.tly, .inl k_wdn, h.boot, h.hst, h.rdata⟩⟩

theorem within_whf (k_whf : K .whf) {s : State} (whf : Whf) :
    (State.mk s.words s.latch s.ctrs s.now s.free s.pending s.flt s.pon s.act whf s.cpg s.keys s.pm s.stw s.twn s.ldg s.eng s.fwd s.hrl s.shl s.tly s.wdn s.boot s.hst s.rdata).Within K sB ↔ s.Within K sB :=
  ⟨fun h => ⟨h.pending, h.words, h.latch, h.ctrs, h.now, h.free, h.flt, h.pon, h.act, .inl k_whf, h.cpg, h.keys, h.pm, h.stw, h.twn, h.ldg, h.eng, h.fwd, h.hrl, h.shl, h.tly, h.wdn, h.boot, h.hst, h.rdata⟩,
   fun h => ⟨h.pending, h.words, h.latch, h.ctrs, h.now, h.free, h.flt, h.pon, h.act, .inl k_whf, h.cpg, h.keys, h.pm, h.stw, h.twn, h.ldg, h.eng, h.fwd, h.hrl, h.shl, h.tly, h.wdn, h.boot, h.hst, h.rdata⟩⟩

theorem within_words (k_words : K .words) {s : State} (words : Words) :
    (State.mk words s.latch s.ctrs s.now s.free s.pending s.flt s.pon s.act s.whf s.cpg s.keys s.pm s.stw s.twn s.ldg s.eng s.fwd s.hrl s.shl s.tly s.wdn s.boot s.hst s.rdata).Within K sB ↔ s.Within K sB :=
  ⟨fun h => ⟨h.pending, .inl k_words, h.latch, h.ctrs, h.now, h.free, h.flt, h.pon, h.act, h.whf, h.cpg, h.keys, h.pm, h.stw, h.twn, h.ldg, h.eng, h.fwd, h.hrl, h.shl, h.tly, h.wdn, h.boot, h.hst, h.rdata⟩,
   fun h => ⟨h.pending, .inl k_words, h.latch, h.ctrs, h.now, h.free, h.flt, h.pon, h.act, h.whf, h.cpg, h.keys, h.pm, h.stw, h.twn, h.ldg, h.eng, h.fwd, h.hrl, h.shl, h.tly, h.wdn, h.boot, h.hst, h.rdata⟩⟩

theorem within_words_flt_pon_boot_hst (k_words : K .words) (k_flt : K .flt) (k_pon : K .pon) (k_boot : K .boot) (k_hst : K .hst) {s : State} (words : Words) (flt : Flt) (pon : Pon) (boot : Boot) (hst : Hst) :
    (State.mk words s.latch s.ctrs s.now s.free s.pending flt pon s.act s.whf s.cpg s.keys s.pm s.stw s.twn s.ldg s.eng s.fwd s.hrl s.shl s.tly s.wdn boot hst s.rdata).Within K sB ↔ s.Within K sB :=
  ⟨fun h => ⟨h.pending, .inl k_words, h.latch, h.ctrs, h.now, h.free, .inl k_flt, .inl k_pon, h.act, h.whf, h.cpg, h.keys, h.pm, h.stw, h.twn, h.ldg, h.eng, h.fwd, h.hrl, h.shl, h.tly, h.wdn, .inl k_boot, .inl k_hst, h.rdata⟩,
   fun h => ⟨h.pending, .inl k_words, h.latch, h.ctrs, h.now, h.free, .inl k_flt, .inl k_pon, h.act, h.whf, h.cpg, h.keys, h.pm, h.stw, h.twn, h.ldg, h.eng, h.fwd, h.hrl, h.shl, h.tly, h.wdn, .inl k_boot, .inl k_hst, h.rdata⟩⟩

theorem foldl_within {α : Type} {s : State} (l : List α) (f : State → α → State) (h : s.Within K sB)
    (hf : ∀ t x, t.Within K sB → (f t x).Within K sB) : (l.foldl f s).Within K sB := by
  induction l generalizing s with
  | nil => exact h
  | cons x l ih => exact ih (hf s x h)

theorem foldl_fst_within {α β : Type} {s : State} {b : β} (l : List α) (f : State × β → α → State × β) (h : s.Within K sB)
    (hf : ∀ (a : State × β) x, a.1.Within K sB → (f a x).1.Within K sB) : (l.foldl f (s, b)).1.Within K sB := by
  induction l generalizing s b with
  | nil => exact h
  | cons x l ih => exact ih (hf (s, b) x h)

theorem completes_within (t : State) (h : t.Within K sB) : Completes (.next t) (fun t => t.Within K sB) := ⟨t, rfl, h⟩

theorem completes_ite_within {c : Prop} [Decidable c] {a b : Host.Outcome State Fault Refusal} {p : State → Prop} (ha : Completes a p)
    (hb : Completes b p) : Completes (if c then a else b) p := by
  split
  · exact ha
  · exact hb

theorem ite_within {c : Prop} [Decidable c] {a b : State} (ha : a.Within K sB) (hb : b.Within K sB) : (if c then a else b).Within K sB := by
  split
  · exact ha
  · exact hb

theorem fst_within {α : Type} {p : State × α} {t : State} {x : α} (e : p = (t, x)) (h : p.1.Within K sB) : t.Within K sB := by
  subst e
  exact h

theorem snd_within {α : Type} {p : α × State} {t : State} {x : α} (e : p = (x, t)) (h : p.2.Within K sB) : t.Within K sB := by
  subst e
  exact h

theorem State.wr_within {s : State} (h : s.Within K sB) (f : Fld) (v : Nat) (k_words : K .words := by assumption) :
    (s.wr f v).Within K sB := (within_words k_words _).2 h

theorem State.putWord_within {s : State} (h : s.Within K sB) (a : Nat) (v : Word) (k_words : K .words := by assumption) :
    (s.putWord a v).Within K sB := (within_words k_words _).2 h

theorem State.setLatch_within {s : State} (h : s.Within K sB) (a : Nat) (w : Word) (k_latch : K .latch := by assumption) :
    (s.setLatch a w).Within K sB := (within_latch k_latch _).2 h

theorem State.answer_within {s : State} (h : s.Within K sB) (ag : Agent) (w : Word) (k_rdata : K .rdata := by assumption) :
    (s.answer ag w).Within K sB := (within_rdata k_rdata _).2 h

theorem ctrs_within {s : State} (h : s.Within K sB) (c : Tab Ctr) (k_ctrs : K .ctrs := by assumption) :
    ({ s with ctrs := c } : State).Within K sB := (within_ctrs k_ctrs _).2 h

theorem State.tally_within {s : State} (h : s.Within K sB) (code qual inst n : Nat) (priv : Option PrivAcc)
    (k_tly : K .tly := by assumption) : (s.tally code qual inst n priv).Within K sB := (within_tly k_tly _).2 h

theorem State.countQ_within {s : State} (h : s.Within K sB) (a n qual : Nat) (k_ctrs : K .ctrs := by assumption)
    (k_tly : K .tly := by assumption) : (s.countQ a n qual).Within K sB := by
  have h1 := ctrs_within h (Tab.set (fun _ => Ctr.zero) s.ctrs a ((s.ctr a).add n))
  unfold State.countQ
  dsimp only
  split
  · split
    · exact h1
    · exact State.tally_within h1 ..
  · exact h1

end Sys2Proof.Machine
end

