-- ==== Sys2Proof/Laws/WithinOps.lean ====
section
/-! SUPPORT. Generated: the parts of the state that the operations of Machine/Ops.lean leave alone. -/

namespace Sys2Proof.Machine

set_option autoImplicit false
set_option Elab.async false
set_option linter.unusedTactic false
set_option linter.unreachableTactic false
set_option linter.unusedSimpArgs false
set_option linter.unusedVariables false

variable {K : Part → Prop} {sB : State}

theorem State.count_within {s : State} (h : s.Within K sB) (a n : Nat) (k_ctrs : K .ctrs := by assumption) (k_tly : K .tly := by assumption) : (State.count s a n).Within K sB := by
  unfold State.count
  repeat' first
    | with_reducible exact h
    | with_reducible assumption
    | with_reducible apply State.countQ_within
    | intro _
    | refine fst_within (by assumption) ?_
    | refine snd_within (by assumption) ?_
    | split
    | dsimp only


theorem State.incQ_within {s : State} (h : s.Within K sB) (a q : Nat) (k_ctrs : K .ctrs := by assumption) (k_tly : K .tly := by assumption) : (State.incQ s a q).Within K sB := by
  unfold State.incQ
  repeat' first
    | with_reducible exact h
    | with_reducible assumption
    | with_reducible apply State.countQ_within
    | intro _
    | refine fst_within (by assumption) ?_
    | refine snd_within (by assumption) ?_
    | split
    | dsimp only


theorem State.inc_within {s : State} (h : s.Within K sB) (a : Nat) (k_ctrs : K .ctrs := by assumption) (k_tly : K .tly := by assumption) : (State.inc s a).Within K sB := by
  unfold State.inc
  repeat' first
    | with_reducible exact h
    | with_reducible assumption
    | with_reducible apply State.count_within
    | intro _
    | refine fst_within (by assumption) ?_
    | refine snd_within (by assumption) ?_
    | split
    | dsimp only


theorem State.raise_within {s : State} (h : s.Within K sB) (k : Kind) (src : Source) (addr : Nat) (k_flt : K .flt := by assumption) : (State.raise s k src addr).Within K sB := by
  unfold State.raise
  repeat' first
    | with_reducible exact h
    | with_reducible assumption
    | simp only [↓within_flt k_flt]
    | intro _
    | refine fst_within (by assumption) ?_
    | refine snd_within (by assumption) ?_
    | split
    | dsimp only


theorem State.onset_within {s : State} (h : s.Within K sB) (k : Kind) (src : Source) (sub addr : Nat) (k_flt : K .flt := by assumption) : (State.onset s k src sub addr).Within K sB := by
  unfold State.onset
  repeat' first
    | with_reducible exact h
    | with_reducible assumption
    | simp only [↓within_flt k_flt]
    | intro _
    | refine fst_within (by assumption) ?_
    | refine snd_within (by assumption) ?_
    | split
    | dsimp only


theorem State.endCause_within {s : State} (h : s.Within K sB) (k : Kind) (src : Source) (sub : Nat) (k_flt : K .flt := by assumption) : (State.endCause s k src sub).Within K sB := by
  unfold State.endCause
  repeat' first
    | with_reducible exact h
    | with_reducible assumption
    | simp only [↓within_flt k_flt]
    | intro _
    | refine fst_within (by assumption) ?_
    | refine snd_within (by assumption) ?_
    | split
    | dsimp only


theorem State.raiseLimited_within {s : State} (h : s.Within K sB) (k : Kind) (src : Source) (addr key ns : Nat) (k_flt : K .flt := by assumption) : (State.raiseLimited s k src addr key ns).Within K sB := by
  unfold State.raiseLimited
  repeat' first
    | with_reducible exact h
    | with_reducible assumption
    | simp only [↓within_flt k_flt]
    | with_reducible apply State.raise_within
    | intro _
    | refine fst_within (by assumption) ?_
    | refine snd_within (by assumption) ?_
    | split
    | dsimp only


theorem State.priv_within {s : State} (h : s.Within K sB) (code q n : Nat) (x : PrivAcc) (k_tly : K .tly := by assumption) : (State.priv s code q n x).Within K sB := by
  unfold State.priv
  repeat' first
    | with_reducible exact h
    | with_reducible assumption
    | with_reducible apply State.tally_within
    | intro _
    | refine fst_within (by assumption) ?_
    | refine snd_within (by assumption) ?_
    | split
    | dsimp only


theorem State.denyAs_within {s : State} (h : s.Within K sB) (rd : Bool) (ag : Agent) (r : Deny) (addr win : Nat) (k_words : K .words := by assumption) (k_ctrs : K .ctrs := by assumption) (k_flt : K .flt := by assumption) (k_tly : K .tly := by assumption) : (State.denyAs s rd ag r addr win).Within K sB := by
  unfold State.denyAs
  repeat' first
    | with_reducible exact h
    | with_reducible assumption
    | with_reducible apply State.inc_within
    | with_reducible apply State.priv_within
    | with_reducible apply State.putWord_within
    | with_reducible apply State.raiseLimited_within
    | intro _
    | refine fst_within (by assumption) ?_
    | refine snd_within (by assumption) ?_
    | split
    | dsimp only


theorem State.deny_within {s : State} (h : s.Within K sB) (ag : Agent) (r : Deny) (addr win : Nat) (k_words : K .words := by assumption) (k_ctrs : K .ctrs := by assumption) (k_flt : K .flt := by assumption) (k_tly : K .tly := by assumption) : (State.deny s ag r addr win).Within K sB := by
  unfold State.deny
  repeat' first
    | with_reducible exact h
    | with_reducible assumption
    | with_reducible apply State.denyAs_within
    | intro _
    | refine fst_within (by assumption) ?_
    | refine snd_within (by assumption) ?_
    | split
    | dsimp only


theorem State.tlps_within {s : State} (h : s.Within K sB) (n bytes : Nat) (x : PrivAcc) (k_tly : K .tly := by assumption) : (State.tlps s n bytes x).Within K sB := by
  unfold State.tlps
  repeat' first
    | with_reducible exact h
    | with_reducible assumption
    | with_reducible apply State.priv_within
    | intro _
    | refine fst_within (by assumption) ?_
    | refine snd_within (by assumption) ?_
    | split
    | dsimp only


theorem State.hostTlp_within {s : State} (h : s.Within K sB) (rd : Bool) (ag : Agent) (addr : Nat) (k_free : K .free := by assumption) (k_tly : K .tly := by assumption) : (State.hostTlp s rd ag addr).Within K sB := by
  unfold State.hostTlp
  repeat' first
    | with_reducible exact h
    | with_reducible assumption
    | simp only [↓within_free k_free]
    | with_reducible apply State.tlps_within
    | intro _
    | refine fst_within (by assumption) ?_
    | refine snd_within (by assumption) ?_
    | split
    | dsimp only


theorem State.setFn_within {s : State} (h : s.Within K sB) (f : Nat) (x : Fn) (k_hst : K .hst := by assumption) : (State.setFn s f x).Within K sB := by
  unfold State.setFn
  repeat' first
    | with_reducible exact h
    | with_reducible assumption
    | simp only [↓within_hst k_hst]
    | intro _
    | refine fst_within (by assumption) ?_
    | refine snd_within (by assumption) ?_
    | split
    | dsimp only


theorem State.msi_within {s : State} (h : s.Within K sB) (f v : Nat) (k_hst : K .hst := by assumption) : (State.msi s f v).Within K sB := by
  unfold State.msi
  repeat' first
    | with_reducible exact h
    | with_reducible assumption
    | with_reducible apply State.setFn_within
    | intro _
    | refine fst_within (by assumption) ?_
    | refine snd_within (by assumption) ?_
    | split
    | dsimp only


theorem State.msiFlush_within {s : State} (h : s.Within K sB) (f : Nat) (k_hst : K .hst := by assumption) : (State.msiFlush s f).Within K sB := by
  unfold State.msiFlush
  repeat' first
    | with_reducible exact h
    | with_reducible assumption
    | with_reducible apply State.msi_within
    | with_reducible apply foldl_within
    | intro _
    | refine fst_within (by assumption) ?_
    | refine snd_within (by assumption) ?_
    | split
    | dsimp only


theorem State.level_within {s : State} (h : s.Within K sB) (k_hst : K .hst := by assumption) : (State.level s).Within K sB := by
  unfold State.level
  repeat' first
    | with_reducible exact h
    | with_reducible assumption
    | simp only [↓within_hst k_hst]
    | with_reducible apply State.msi_within
    | intro _
    | refine fst_within (by assumption) ?_
    | refine snd_within (by assumption) ?_
    | split
    | dsimp only


theorem State.takeFree_within {s : State} (h : s.Within K sB) (k_free : K .free := by assumption) : (State.takeFree s).2.Within K sB := by
  unfold State.takeFree
  repeat' first
    | with_reducible exact h
    | with_reducible assumption
    | simp only [↓within_free k_free]
    | intro _
    | refine fst_within (by assumption) ?_
    | refine snd_within (by assumption) ?_
    | split
    | dsimp only


theorem State.twinSend_within {s : State} (h : s.Within K sB) (type_ port side sfc arg : Nat) (k_twn : K .twn := by assumption) : (State.twinSend s type_ port side sfc arg).Within K sB := by
  unfold State.twinSend
  repeat' first
    | with_reducible exact h
    | with_reducible assumption
    | simp only [↓within_twn k_twn]
    | intro _
    | refine fst_within (by assumption) ?_
    | refine snd_within (by assumption) ?_
    | split
    | dsimp only


theorem State.mirror_within {s : State} (h : s.Within K sB) (type_ : Nat) (p : Fin 32) (side x : Nat) (k_twn : K .twn := by assumption) : (State.mirror s type_ p side x).Within K sB := by
  unfold State.mirror
  repeat' first
    | with_reducible exact h
    | with_reducible assumption
    | with_reducible apply State.twinSend_within
    | intro _
    | refine fst_within (by assumption) ?_
    | refine snd_within (by assumption) ?_
    | split
    | dsimp only


end Sys2Proof.Machine
end

