-- ==== Sys2Proof/Laws/WithinAccess.lean ====
section
/-! SUPPORT. Generated: the parts of the state that the operations of Machine/Access.lean leave alone. -/

namespace Sys2Proof.Machine

set_option autoImplicit false
set_option Elab.async false
set_option linter.unusedTactic false
set_option linter.unreachableTactic false
set_option linter.unusedSimpArgs false
set_option linter.unusedVariables false

variable {K : Part → Prop} {sB : State}

theorem State.gate_within {s : State} (h : s.Within K sB) (ag : Agent) (a : Nat) (k : State → State) (hk : ∀ t : State, t.Within K sB → (k t).Within K sB) (k_words : K .words := by assumption) (k_ctrs : K .ctrs := by assumption) (k_free : K .free := by assumption) (k_flt : K .flt := by assumption) (k_tly : K .tly := by assumption) : (State.gate s ag a k).Within K sB := by
  unfold State.gate
  repeat' first
    | with_reducible exact h
    | with_reducible assumption
    | with_reducible apply State.hostTlp_within
    | with_reducible apply State.deny_within
    | with_reducible apply hk
    | intro _
    | refine fst_within (by assumption) ?_
    | refine snd_within (by assumption) ?_
    | split
    | dsimp only


theorem State.storeWord_within {s : State} (h : s.Within K sB) (ag : Agent) (a : Nat) (v : Word) (k_words : K .words := by assumption) (k_ctrs : K .ctrs := by assumption) (k_flt : K .flt := by assumption) (k_tly : K .tly := by assumption) : (State.storeWord s ag a v).Within K sB := by
  unfold State.storeWord
  repeat' first
    | with_reducible exact h
    | with_reducible assumption
    | with_reducible apply State.deny_within
    | with_reducible apply State.putWord_within
    | intro _
    | refine fst_within (by assumption) ?_
    | refine snd_within (by assumption) ?_
    | split
    | dsimp only


theorem State.winGate_within {s : State} (h : s.Within K sB) (ag : Agent) (w idx : Nat) (k : State → State) (hk : ∀ t : State, t.Within K sB → (k t).Within K sB) (k_words : K .words := by assumption) (k_ctrs : K .ctrs := by assumption) (k_flt : K .flt := by assumption) (k_tly : K .tly := by assumption) : (State.winGate s ag w idx k).Within K sB := by
  unfold State.winGate
  repeat' first
    | with_reducible exact h
    | with_reducible assumption
    | with_reducible apply State.deny_within
    | with_reducible apply hk
    | intro _
    | refine fst_within (by assumption) ?_
    | refine snd_within (by assumption) ?_
    | split
    | dsimp only


theorem State.putEntry_within {s : State} (h : s.Within K sB) (w idx first : Nat) (vs : List Word) (k_words : K .words := by assumption) : (State.putEntry s w idx first vs).Within K sB := by
  unfold State.putEntry
  repeat' first
    | with_reducible exact h
    | with_reducible assumption
    | with_reducible apply State.putWord_within
    | with_reducible apply foldl_within
    | intro _
    | refine fst_within (by assumption) ?_
    | refine snd_within (by assumption) ?_
    | split
    | dsimp only


end Sys2Proof.Machine
end

