-- ==== Sys2Proof/Laws/WithinWharf.lean ====
section
/-! SUPPORT. Generated: the parts of the state that the operations of Machine/Wharf.lean leave alone. -/

namespace Sys2Proof.Machine

set_option autoImplicit false
set_option Elab.async false
set_option linter.unusedTactic false
set_option linter.unreachableTactic false
set_option linter.unusedSimpArgs false
set_option linter.unusedVariables false

variable {K : Part → Prop} {sB : State}

theorem State.setSide_within {s : State} (h : s.Within K sB) (p : Fin 32) (sd : Nat) (x : PonSide) (k_pon : K .pon := by assumption) : (State.setSide s p sd x).Within K sB := by
  unfold State.setSide
  repeat' first
    | with_reducible exact h
    | with_reducible assumption
    | simp only [↓within_pon k_pon]
    | intro _
    | refine fst_within (by assumption) ?_
    | refine snd_within (by assumption) ?_
    | split
    | dsimp only


theorem State.setPort_within {s : State} (h : s.Within K sB) (p : Fin 32) (x : PonPort) (k_pon : K .pon := by assumption) : (State.setPort s p x).Within K sB := by
  unfold State.setPort
  repeat' first
    | with_reducible exact h
    | with_reducible assumption
    | simp only [↓within_pon k_pon]
    | intro _
    | refine fst_within (by assumption) ?_
    | refine snd_within (by assumption) ?_
    | split
    | dsimp only


theorem State.unmonitor_within {s : State} (h : s.Within K sB) (k : Nat) (k_pm : K .pm := by assumption) : (State.unmonitor s k).Within K sB := by
  unfold State.unmonitor
  repeat' first
    | with_reducible exact h
    | with_reducible assumption
    | simp only [↓within_pm k_pm]
    | intro _
    | refine fst_within (by assumption) ?_
    | refine snd_within (by assumption) ?_
    | split
    | dsimp only


theorem State.setSlot_within {s : State} (h : s.Within K sB) (p : Fin 32) (i : Nat) (x : Slot) (k_act : K .act := by assumption) (k_pm : K .pm := by assumption) (k_twn : K .twn := by assumption) : (State.setSlot s p i x).Within K sB := by
  unfold State.setSlot
  repeat' first
    | with_reducible exact h
    | with_reducible assumption
    | simp only [↓within_act k_act]
    | with_reducible apply State.unmonitor_within
    | with_reducible apply State.mirror_within
    | intro _
    | refine fst_within (by assumption) ?_
    | refine snd_within (by assumption) ?_
    | split
    | dsimp only


theorem State.setAlloc_within {s : State} (h : s.Within K sB) (p : Fin 32) (i : Nat) (x : AllocRt) (k_whf : K .whf := by assumption) : (State.setAlloc s p i x).Within K sB := by
  unfold State.setAlloc
  repeat' first
    | with_reducible exact h
    | with_reducible assumption
    | simp only [↓within_whf k_whf]
    | intro _
    | refine fst_within (by assumption) ?_
    | refine snd_within (by assumption) ?_
    | split
    | dsimp only


theorem State.setDisc_within {s : State} (h : s.Within K sB) (p : Fin 32) (sd : Nat) (x : Disc) (k_act : K .act := by assumption) : (State.setDisc s p sd x).Within K sB := by
  unfold State.setDisc
  repeat' first
    | with_reducible exact h
    | with_reducible assumption
    | simp only [↓within_act k_act]
    | intro _
    | refine fst_within (by assumption) ?_
    | refine snd_within (by assumption) ?_
    | split
    | dsimp only


theorem State.setSwap_within {s : State} (h : s.Within K sB) (p : Fin 32) (x : Swap) (k_whf : K .whf := by assumption) : (State.setSwap s p x).Within K sB := by
  unfold State.setSwap
  repeat' first
    | with_reducible exact h
    | with_reducible assumption
    | simp only [↓within_whf k_whf]
    | intro _
    | refine fst_within (by assumption) ?_
    | refine snd_within (by assumption) ?_
    | split
    | dsimp only


theorem State.refill_within {s : State} (h : s.Within K sB) (p : Fin 32) (sd : Nat) (k_whf : K .whf := by assumption) : (State.refill s p sd).Within K sB := by
  unfold State.refill
  repeat' first
    | with_reducible exact h
    | with_reducible assumption
    | with_reducible apply State.setAlloc_within
    | with_reducible apply foldl_within
    | intro _
    | refine fst_within (by assumption) ?_
    | refine snd_within (by assumption) ?_
    | split
    | dsimp only


theorem State.credit_within {s : State} (h : s.Within K sB) (p : Fin 32) (i g assured : Nat) (back : Bool) (k_whf : K .whf := by assumption) : (State.credit s p i g assured back).Within K sB := by
  unfold State.credit
  repeat' first
    | with_reducible exact h
    | with_reducible assumption
    | with_reducible apply State.setAlloc_within
    | intro _
    | refine fst_within (by assumption) ?_
    | refine snd_within (by assumption) ?_
    | split
    | dsimp only


theorem State.debit_within {s : State} (h : s.Within K sB) (p : Fin 32) (sd : Nat) (snap : Tab AllocRt) (m : BwMap) (k_act : K .act := by assumption) (k_whf : K .whf := by assumption) (k_pm : K .pm := by assumption) (k_twn : K .twn := by assumption) : (State.debit s p sd snap m).Within K sB := by
  unfold State.debit
  repeat' first
    | with_reducible exact h
    | with_reducible assumption
    | with_reducible apply State.credit_within
    | with_reducible apply State.setAlloc_within
    | with_reducible apply State.setSlot_within
    | with_reducible apply foldl_within
    | intro _
    | refine fst_within (by assumption) ?_
    | refine snd_within (by assumption) ?_
    | split
    | dsimp only


theorem State.carry_within {s : State} (h : s.Within K sB) (p : Fin 32) (sd : Nat) (m : BwMap) (k_ctrs : K .ctrs := by assumption) (k_act : K .act := by assumption) (k_whf : K .whf := by assumption) (k_pm : K .pm := by assumption) (k_twn : K .twn := by assumption) (k_tly : K .tly := by assumption) : (State.carry s p sd m).Within K sB := by
  unfold State.carry
  repeat' first
    | with_reducible exact h
    | with_reducible assumption
    | with_reducible apply State.credit_within
    | with_reducible apply State.setAlloc_within
    | with_reducible apply State.inflight_within
    | with_reducible apply State.count_within
    | with_reducible apply State.setSlot_within
    | with_reducible apply foldl_within
    | intro _
    | refine fst_within (by assumption) ?_
    | refine snd_within (by assumption) ?_
    | split
    | dsimp only


theorem State.inflight_within {s : State} (h : s.Within K sB) (p : Fin 32) (m : BwMap) (k_whf : K .whf := by assumption) : (State.inflight s p m).Within K sB := by
  unfold State.inflight
  repeat' first
    | with_reducible exact h
    | with_reducible assumption
    | with_reducible apply State.setAlloc_within
    | with_reducible apply foldl_within
    | intro _
    | refine fst_within (by assumption) ?_
    | refine snd_within (by assumption) ?_
    | split
    | dsimp only


theorem State.ctiAfter_within {s : State} (h : s.Within K sB) (p : Fin 32) (sd n : Nat) (m : BwMap) (rest : List (Nat × Nat)) (k_whf : K .whf := by assumption) : (State.ctiAfter s p sd n m rest).Within K sB := by
  unfold State.ctiAfter
  repeat' first
    | with_reducible exact h
    | with_reducible assumption
    | simp only [↓within_whf k_whf]
    | intro _
    | refine fst_within (by assumption) ?_
    | refine snd_within (by assumption) ?_
    | split
    | dsimp only


theorem State.ctiBefore_within {s : State} (h : s.Within K sB) (p : Fin 32) (f n : Nat) (took : List CtiRec) (ms : List BwMap) (k_whf : K .whf := by assumption) : (State.ctiBefore s p f n took ms).Within K sB := by
  unfold State.ctiBefore
  repeat' first
    | with_reducible exact h
    | with_reducible assumption
    | simp only [↓within_whf k_whf]
    | intro _
    | refine fst_within (by assumption) ?_
    | refine snd_within (by assumption) ?_
    | split
    | dsimp only


end Sys2Proof.Machine
end

