-- ==== Sys2Proof/Laws/WithinAssay.lean ====
section
/-! SUPPORT. Generated: the parts of the state that the operations of Machine/Assay.lean leave alone. -/

namespace Sys2Proof.Machine

set_option autoImplicit false
set_option Elab.async false
set_option linter.unusedTactic false
set_option linter.unreachableTactic false
set_option linter.unusedSimpArgs false
set_option linter.unusedVariables false

variable {K : Part → Prop} {sB : State}

theorem State.repaired_within {s : State} (h : s.Within K sB) (p : Fin 32) (sd rule n : Nat) (l : List (Nat × Nat)) (k_words : K .words := by assumption) (k_ctrs : K .ctrs := by assumption) (k_flt : K .flt := by assumption) (k_whf : K .whf := by assumption) (k_tly : K .tly := by assumption) : (State.repaired s p sd rule n l).Within K sB := by
  unfold State.repaired
  repeat' first
    | with_reducible exact h
    | with_reducible assumption
    | simp only [↓within_whf k_whf]
    | with_reducible apply State.wr_within
    | with_reducible apply State.inc_within
    | with_reducible apply State.raise_within
    | with_reducible apply foldl_within
    | intro _
    | refine fst_within (by assumption) ?_
    | refine snd_within (by assumption) ?_
    | split
    | dsimp only


theorem State.giveBack_within {s : State} (h : s.Within K sB) (p : Fin 32) (sd : Nat) (a b : BwMap) (k_ctrs : K .ctrs := by assumption) (k_act : K .act := by assumption) (k_whf : K .whf := by assumption) (k_pm : K .pm := by assumption) (k_twn : K .twn := by assumption) (k_tly : K .tly := by assumption) : (State.giveBack s p sd a b).Within K sB := by
  unfold State.giveBack
  repeat' first
    | with_reducible exact h
    | with_reducible assumption
    | with_reducible apply State.credit_within
    | with_reducible apply State.count_within
    | with_reducible apply State.setSlot_within
    | with_reducible apply foldl_within
    | intro _
    | refine fst_within (by assumption) ?_
    | refine snd_within (by assumption) ?_
    | split
    | dsimp only


theorem State.applyRule_within {s : State} (h : s.Within K sB) (p : Fin 32) (sd rule : Nat) (back : Bool) (a b : BwMap) (k_words : K .words := by assumption) (k_ctrs : K .ctrs := by assumption) (k_flt : K .flt := by assumption) (k_act : K .act := by assumption) (k_whf : K .whf := by assumption) (k_pm : K .pm := by assumption) (k_twn : K .twn := by assumption) (k_tly : K .tly := by assumption) : (State.applyRule s p sd rule back a b).Within K sB := by
  unfold State.applyRule
  repeat' first
    | with_reducible exact h
    | with_reducible assumption
    | with_reducible apply State.giveBack_within
    | with_reducible apply State.repaired_within
    | intro _
    | refine fst_within (by assumption) ?_
    | refine snd_within (by assumption) ?_
    | split
    | dsimp only


theorem State.checkMap_within {s : State} (h : s.Within K sB) (v : State) (p : Fin 32) (sd page used10 : Nat) (back : Bool) (m : BwMap) (k_words : K .words := by assumption) (k_ctrs : K .ctrs := by assumption) (k_flt : K .flt := by assumption) (k_act : K .act := by assumption) (k_whf : K .whf := by assumption) (k_pm : K .pm := by assumption) (k_twn : K .twn := by assumption) (k_tly : K .tly := by assumption) : (State.checkMap s v p sd page used10 back m).1.Within K sB := by
  unfold State.checkMap
  repeat' first
    | with_reducible exact h
    | with_reducible assumption
    | with_reducible apply State.applyRule_within
    | intro _
    | refine fst_within (by assumption) ?_
    | refine snd_within (by assumption) ?_
    | split
    | dsimp only


theorem State.checkAll_within {s : State} (h : s.Within K sB) (b : Build) (k_words : K .words := by assumption) (k_ctrs : K .ctrs := by assumption) (k_flt : K .flt := by assumption) (k_act : K .act := by assumption) (k_whf : K .whf := by assumption) (k_pm : K .pm := by assumption) (k_twn : K .twn := by assumption) (k_tly : K .tly := by assumption) : (State.checkAll s b).1.Within K sB := by
  unfold State.checkAll
  extract_lets v
  refine foldl_fst_within _ _ h (fun a x ha => ?_)
  dsimp only
  with_reducible exact State.checkMap_within ha ..


theorem State.rule10_within {s : State} (h : s.Within K sB) (b : Build) (k_words : K .words := by assumption) (k_ctrs : K .ctrs := by assumption) (k_flt : K .flt := by assumption) (k_act : K .act := by assumption) (k_whf : K .whf := by assumption) (k_pm : K .pm := by assumption) (k_twn : K .twn := by assumption) (k_tly : K .tly := by assumption) : (State.rule10 s b).1.Within K sB := by
  unfold State.rule10
  extract_lets _ _ _ _ _ _ r s1
  have hr : r.1.Within K sB := by
    refine foldl_fst_within _ _ h (fun a x ha => ?_)
    exact State.count_within (State.applyRule_within ha ..) ..
  have h1 : s1.Within K sB := State.wr_within (State.wr_within hr ..) ..
  dsimp only
  split
  · exact h1
  · exact State.raise_within h1 ..


theorem State.shortfall_within {s : State} (h : s.Within K sB) (p : Fin 32) (sd i : Nat) (m : BwMap) (snap : AllocRt) (image : Bool) (k_words : K .words := by assumption) (k_flt : K .flt := by assumption) (k_whf : K .whf := by assumption) : (State.shortfall s p sd i m snap image).Within K sB := by
  unfold State.shortfall
  repeat' first
    | with_reducible exact h
    | with_reducible assumption
    | with_reducible apply State.inflight_within
    | with_reducible apply State.setAlloc_within
    | with_reducible apply State.wr_within
    | with_reducible apply State.raise_within
    | intro _
    | refine fst_within (by assumption) ?_
    | refine snd_within (by assumption) ?_
    | split
    | dsimp only


theorem State.shortfalls_within {s : State} (h : s.Within K sB) (p : Fin 32) (sd : Nat) (b : Build) (m : BwMap) (k_words : K .words := by assumption) (k_flt : K .flt := by assumption) (k_whf : K .whf := by assumption) : (State.shortfalls s p sd b m).Within K sB := by
  unfold State.shortfalls
  repeat' first
    | with_reducible exact h
    | with_reducible assumption
    | with_reducible apply State.shortfall_within
    | with_reducible apply foldl_within
    | intro _
    | refine fst_within (by assumption) ?_
    | refine snd_within (by assumption) ?_
    | split
    | dsimp only


end Sys2Proof.Machine
end

