-- ==== Sys2Proof/Laws/WithinAssign.lean ====
section
/-! SUPPORT. Generated: the parts of the state that the operations of Machine/Assign.lean leave alone. -/

namespace Sys2Proof.Machine

set_option autoImplicit false
set_option Elab.async false
set_option linter.unusedTactic false
set_option linter.unreachableTactic false
set_option linter.unusedSimpArgs false
set_option linter.unusedVariables false

variable {K : Part → Prop} {sB : State}

theorem State.buildOne_within {s : State} (h : s.Within K sB) (b : Build) (p : Fin 32) (sd n : Nat) (rebuild : Bool) (k_ctrs : K .ctrs := by assumption) (k_free : K .free := by assumption) (k_act : K .act := by assumption) (k_whf : K .whf := by assumption) (k_pm : K .pm := by assumption) (k_twn : K .twn := by assumption) (k_tly : K .tly := by assumption) : (State.buildOne s b p sd n rebuild).1.Within K sB := by
  unfold State.buildOne
  repeat' first
    | with_reducible exact h
    | with_reducible assumption
    | simp only [↓within_free k_free]
    | with_reducible apply State.refill_within
    | with_reducible apply State.atSnap_within
    | with_reducible apply State.debit_within
    | with_reducible apply State.ctiAfter_within
    | with_reducible apply State.count_within
    | intro _
    | refine fst_within (by assumption) ?_
    | refine snd_within (by assumption) ?_
    | split
    | dsimp only


theorem State.swapAtBuild_within {s : State} (h : s.Within K sB) (p : Fin 32) (k_whf : K .whf := by assumption) : (State.swapAtBuild s p).Within K sB := by
  unfold State.swapAtBuild
  repeat' first
    | with_reducible exact h
    | with_reducible assumption
    | with_reducible apply State.setSwap_within
    | intro _
    | refine fst_within (by assumption) ?_
    | refine snd_within (by assumption) ?_
    | split
    | dsimp only


theorem State.closeWindows_within {s : State} (h : s.Within K sB) (x : Fin 32 × Nat) (k_act : K .act := by assumption) : (State.closeWindows s x).Within K sB := by
  unfold State.closeWindows
  repeat' first
    | with_reducible exact h
    | with_reducible assumption
    | with_reducible apply State.setDisc_within
    | intro _
    | refine fst_within (by assumption) ?_
    | refine snd_within (by assumption) ?_
    | split
    | dsimp only


theorem State.allocStore_within {s : State} (h : s.Within K sB) (p : Fin 32) (i : Nat) (ws : List Word) (k_words : K .words := by assumption) : (State.allocStore s p i ws).Within K sB := by
  unfold State.allocStore
  repeat' first
    | with_reducible exact h
    | with_reducible assumption
    | with_reducible apply State.putEntry_within
    | with_reducible apply State.wr_within
    | intro _
    | refine fst_within (by assumption) ?_
    | refine snd_within (by assumption) ?_
    | split
    | dsimp only


theorem State.allocWrite_within {s : State} (h : s.Within K sB) (p : Fin 32) (i : Nat) (ws : List Word) (k_words : K .words := by assumption) (k_twn : K .twn := by assumption) : (State.allocWrite s p i ws).Within K sB := by
  unfold State.allocWrite
  repeat' first
    | with_reducible exact h
    | with_reducible assumption
    | with_reducible apply State.allocStore_within
    | with_reducible apply State.mirror_within
    | intro _
    | refine fst_within (by assumption) ?_
    | refine snd_within (by assumption) ?_
    | split
    | dsimp only


theorem State.fsiStore_within {s : State} (h : s.Within K sB) (idx : Nat) (v : Word) (k_words : K .words := by assumption) (k_twn : K .twn := by assumption) : (State.fsiStore s idx v).Within K sB := by
  unfold State.fsiStore
  repeat' first
    | with_reducible exact h
    | with_reducible assumption
    | with_reducible apply State.putWord_within
    | with_reducible apply State.mirror_within
    | intro _
    | refine fst_within (by assumption) ?_
    | refine snd_within (by assumption) ?_
    | split
    | dsimp only


theorem State.requestSwap_within {s : State} (h : s.Within K sB) (p : Fin 32) (k_words : K .words := by assumption) (k_whf : K .whf := by assumption) (k_twn : K .twn := by assumption) : (State.requestSwap s p).Within K sB := by
  unfold State.requestSwap
  repeat' first
    | with_reducible exact h
    | with_reducible assumption
    | with_reducible apply State.setSwap_within
    | with_reducible apply State.putWord_within
    | with_reducible apply State.wr_within
    | with_reducible apply State.mirror_within
    | intro _
    | refine fst_within (by assumption) ?_
    | refine snd_within (by assumption) ?_
    | split
    | dsimp only


theorem execSwapRequest_within {s : State} (h : s.Within K sB) (ag : Agent) (v : Word) (k_words : K .words := by assumption) (k_ctrs : K .ctrs := by assumption) (k_free : K .free := by assumption) (k_flt : K .flt := by assumption) (k_whf : K .whf := by assumption) (k_twn : K .twn := by assumption) (k_tly : K .tly := by assumption) : Completes (execSwapRequest ag v s) (fun t => t.Within K sB) := by
  unfold execSwapRequest
  repeat' first
    | with_reducible refine completes_within _ ?_
    | with_reducible exact h
    | with_reducible assumption
    | with_reducible apply ok_within
    | with_reducible apply State.gate_within
    | with_reducible apply State.requestSwap_within
    | with_reducible apply foldl_within
    | intro _
    | refine fst_within (by assumption) ?_
    | refine snd_within (by assumption) ?_
    | split
    | dsimp only


theorem State.swapAtTick_within {s : State} (h : s.Within K sB) (p : Fin 32) (k_words : K .words := by assumption) (k_whf : K .whf := by assumption) : (State.swapAtTick s p).Within K sB := by
  unfold State.swapAtTick
  repeat' first
    | with_reducible exact h
    | with_reducible assumption
    | with_reducible apply State.setSwap_within
    | with_reducible apply State.putWord_within
    | with_reducible apply State.wr_within
    | intro _
    | refine fst_within (by assumption) ?_
    | refine snd_within (by assumption) ?_
    | split
    | dsimp only


theorem State.rebuildTree_within {s : State} (h : s.Within K sB) (p : Fin 32) (f : Nat) (b : Build) (k_ctrs : K .ctrs := by assumption) (k_free : K .free := by assumption) (k_pon : K .pon := by assumption) (k_act : K .act := by assumption) (k_whf : K .whf := by assumption) (k_pm : K .pm := by assumption) (k_twn : K .twn := by assumption) (k_tly : K .tly := by assumption) : (State.rebuildTree s p f b).1.Within K sB := by
  unfold State.rebuildTree
  extract_lets n back s1 b1
  have hb : back.Within K sB := foldl_within _ _ h (fun u sd hu => by
    dsimp only
    split
    · exact State.setSide_within hu ..
    · exact State.setSide_within (State.carry_within hu ..) ..)
  exact foldl_fst_within _ _ (State.ctiBefore_within hb ..) (fun a sd ha => State.buildOne_within ha ..)


theorem State.deferSwap_within {s : State} (h : s.Within K sB) (p : Fin 32) (k_ctrs : K .ctrs := by assumption) (k_free : K .free := by assumption) (k_pon : K .pon := by assumption) (k_act : K .act := by assumption) (k_whf : K .whf := by assumption) (k_pm : K .pm := by assumption) (k_twn : K .twn := by assumption) (k_tly : K .tly := by assumption) : (State.deferSwap s p).Within K sB := by
  unfold State.deferSwap
  split
  · refine foldl_within _ _ (State.setSwap_within h ..) (fun t b ht => ?_)
    split
    · simp only [↓within_whf k_whf]
      exact State.rebuildTree_within ht ..
    · exact ht
  · exact h


end Sys2Proof.Machine
end

