-- ==== Sys2Proof/Laws/WithinCooper.lean ====
section
/-! SUPPORT. Generated: the parts of the state that the operations of Machine/Cooper.lean leave alone. -/

namespace Sys2Proof.Machine

set_option autoImplicit false
set_option Elab.async false
set_option linter.unusedTactic false
set_option linter.unreachableTactic false
set_option linter.unusedSimpArgs false
set_option linter.unusedVariables false

variable {K : Part → Prop} {sB : State}

theorem State.setBuf_within {s : State} (h : s.Within K sB) (h : Nat) (b : Buf) (k_cpg : K .cpg := by assumption) : (State.setBuf s h b).Within K sB := by
  unfold State.setBuf
  repeat' first
    | with_reducible exact h
    | with_reducible assumption
    | simp only [↓within_cpg k_cpg]
    | intro _
    | refine fst_within (by assumption) ?_
    | refine snd_within (by assumption) ?_
    | split
    | dsimp only


theorem State.allocate_within {s : State} (h : s.Within K sB) (c len : Nat) (bytes : List Byte) (ok : State → Nat → Bool) (fuel n : Nat) (k_ctrs : K .ctrs := by assumption) (k_free : K .free := by assumption) (k_cpg : K .cpg := by assumption) (k_tly : K .tly := by assumption) :
    (State.allocate s c len bytes ok fuel n).1.Within K sB := by
  induction fuel generalizing s n with
  | zero => exact h
  | succ fuel ih =>
    unfold State.allocate
    repeat' first
      | with_reducible exact h
      | with_reducible assumption
      | with_reducible apply ih
      | with_reducible apply State.inc_within
      | with_reducible apply State.setBuf_within
      | simp only [↓within_free k_free]
      | split
      | dsimp only


theorem State.newBuf_within {s : State} (h : s.Within K sB) (c len : Nat) (bytes : List Byte) (k_ctrs : K .ctrs := by assumption) (k_free : K .free := by assumption) (k_cpg : K .cpg := by assumption) (k_tly : K .tly := by assumption) : (State.newBuf s c len bytes).1.Within K sB := by
  unfold State.newBuf
  repeat' first
    | with_reducible exact h
    | with_reducible assumption
    | with_reducible apply State.allocate_within
    | intro _
    | refine fst_within (by assumption) ?_
    | refine snd_within (by assumption) ?_
    | split
    | dsimp only


theorem State.noBuf_within {s : State} (h : s.Within K sB) (c len : Nat) (k_ctrs : K .ctrs := by assumption) (k_flt : K .flt := by assumption) (k_tly : K .tly := by assumption) : (State.noBuf s c len).Within K sB := by
  unfold State.noBuf
  repeat' first
    | with_reducible exact h
    | with_reducible assumption
    | with_reducible apply State.inc_within
    | with_reducible apply State.raiseLimited_within
    | intro _
    | refine fst_within (by assumption) ?_
    | refine snd_within (by assumption) ?_
    | split
    | dsimp only


theorem State.unref_within {s : State} (h : s.Within K sB) (h : Nat) (k_ctrs : K .ctrs := by assumption) (k_flt : K .flt := by assumption) (k_cpg : K .cpg := by assumption) (k_tly : K .tly := by assumption) : (State.unref s h).Within K sB := by
  unfold State.unref
  repeat' first
    | with_reducible exact h
    | with_reducible assumption
    | with_reducible apply State.raise_within
    | with_reducible apply State.inc_within
    | with_reducible apply State.setBuf_within
    | intro _
    | refine fst_within (by assumption) ?_
    | refine snd_within (by assumption) ?_
    | split
    | dsimp only


theorem State.setQueue_within {s : State} (h : s.Within K sB) (q : Nat) (x : Queue) (k_cpg : K .cpg := by assumption) : (State.setQueue s q x).Within K sB := by
  unfold State.setQueue
  repeat' first
    | with_reducible exact h
    | with_reducible assumption
    | simp only [↓within_cpg k_cpg]
    | intro _
    | refine fst_within (by assumption) ?_
    | refine snd_within (by assumption) ?_
    | split
    | dsimp only


theorem State.setTop_within {s : State} (h : s.Within K sB) (m : Nat) (x : Top) (k_cpg : K .cpg := by assumption) : (State.setTop s m x).Within K sB := by
  unfold State.setTop
  repeat' first
    | with_reducible exact h
    | with_reducible assumption
    | simp only [↓within_cpg k_cpg]
    | intro _
    | refine fst_within (by assumption) ?_
    | refine snd_within (by assumption) ?_
    | split
    | dsimp only


theorem State.setBkt_within {s : State} (h : s.Within K sB) (b : Nat) (x : Bkt) (k_cpg : K .cpg := by assumption) : (State.setBkt s b x).Within K sB := by
  unfold State.setBkt
  repeat' first
    | with_reducible exact h
    | with_reducible assumption
    | simp only [↓within_cpg k_cpg]
    | intro _
    | refine fst_within (by assumption) ?_
    | refine snd_within (by assumption) ?_
    | split
    | dsimp only


theorem State.sweepBkts_within {s : State} (h : s.Within K sB) (k_cpg : K .cpg := by assumption) : (State.sweepBkts s).Within K sB := by
  unfold State.sweepBkts
  repeat' first
    | with_reducible exact h
    | with_reducible assumption
    | simp only [↓within_cpg k_cpg]
    | with_reducible apply State.refill_within
    | intro _
    | refine fst_within (by assumption) ?_
    | refine snd_within (by assumption) ?_
    | split
    | dsimp only


theorem State.access_within {s : State} (h : s.Within K sB) (b : Nat) (k_cpg : K .cpg := by assumption) : (State.access s b).Within K sB := by
  unfold State.access
  repeat' first
    | with_reducible exact h
    | with_reducible assumption
    | with_reducible apply State.setBkt_within
    | with_reducible apply State.refill_within
    | intro _
    | refine fst_within (by assumption) ?_
    | refine snd_within (by assumption) ?_
    | split
    | dsimp only


theorem State.misuse_within {s : State} (h : s.Within K sB) (b : Nat) (k_ctrs : K .ctrs := by assumption) (k_flt : K .flt := by assumption) (k_tly : K .tly := by assumption) : (State.misuse s b).Within K sB := by
  unfold State.misuse
  repeat' first
    | with_reducible exact h
    | with_reducible assumption
    | with_reducible apply State.inc_within
    | with_reducible apply State.raiseLimited_within
    | intro _
    | refine fst_within (by assumption) ?_
    | refine snd_within (by assumption) ?_
    | split
    | dsimp only


theorem State.shaper_within {s : State} (h : s.Within K sB) (b : Nat) (k_ctrs : K .ctrs := by assumption) (k_flt : K .flt := by assumption) (k_cpg : K .cpg := by assumption) (k_tly : K .tly := by assumption) : (State.shaper s b).1.Within K sB := by
  unfold State.shaper
  repeat' first
    | with_reducible exact h
    | with_reducible assumption
    | with_reducible apply State.access_within
    | with_reducible apply State.misuse_within
    | intro _
    | refine fst_within (by assumption) ?_
    | refine snd_within (by assumption) ?_
    | split
    | dsimp only


theorem State.debitBkt_within {s : State} (h : s.Within K sB) (b len : Nat) (k_cpg : K .cpg := by assumption) : (State.debitBkt s b len).Within K sB := by
  unfold State.debitBkt
  repeat' first
    | with_reducible exact h
    | with_reducible assumption
    | with_reducible apply State.setBkt_within
    | intro _
    | refine fst_within (by assumption) ?_
    | refine snd_within (by assumption) ?_
    | split
    | dsimp only


theorem State.police_within {s : State} (h : s.Within K sB) (b len : Nat) (k_ctrs : K .ctrs := by assumption) (k_flt : K .flt := by assumption) (k_cpg : K .cpg := by assumption) (k_tly : K .tly := by assumption) : (State.police s b len).1.Within K sB := by
  unfold State.police
  repeat' first
    | with_reducible exact h
    | with_reducible assumption
    | with_reducible apply State.access_within
    | with_reducible apply State.misuse_within
    | with_reducible apply State.inc_within
    | with_reducible apply State.setBkt_within
    | intro _
    | refine fst_within (by assumption) ?_
    | refine snd_within (by assumption) ?_
    | split
    | dsimp only


theorem State.policed_within {s : State} (h : s.Within K sB) (b len : Nat) (k_ctrs : K .ctrs := by assumption) (k_flt : K .flt := by assumption) (k_cpg : K .cpg := by assumption) (k_tly : K .tly := by assumption) : (State.policed s b len).1.Within K sB := by
  unfold State.policed
  repeat' first
    | with_reducible exact h
    | with_reducible assumption
    | with_reducible apply State.police_within
    | intro _
    | refine fst_within (by assumption) ?_
    | refine snd_within (by assumption) ?_
    | split
    | dsimp only


theorem State.queueDrop_within {s : State} (h : s.Within K sB) (q : Nat) (k_cpg : K .cpg := by assumption) : (State.queueDrop s q).Within K sB := by
  unfold State.queueDrop
  repeat' first
    | with_reducible exact h
    | with_reducible assumption
    | with_reducible apply State.setQueue_within
    | intro _
    | refine fst_within (by assumption) ?_
    | refine snd_within (by assumption) ?_
    | split
    | dsimp only


theorem State.place_within {s : State} (h : s.Within K sB) (q : Nat) (x : QPkt) (k_ctrs : K .ctrs := by assumption) (k_flt : K .flt := by assumption) (k_cpg : K .cpg := by assumption) (k_tly : K .tly := by assumption) : (State.place s q x).Within K sB := by
  unfold State.place
  repeat' first
    | with_reducible exact h
    | with_reducible assumption
    | with_reducible apply State.inc_within
    | with_reducible apply State.queueDrop_within
    | with_reducible apply State.unref_within
    | with_reducible apply State.setQueue_within
    | with_reducible apply State.setTop_within
    | with_reducible apply State.raise_within
    | with_reducible apply State.raiseLimited_within
    | intro _
    | refine fst_within (by assumption) ?_
    | refine snd_within (by assumption) ?_
    | split
    | dsimp only


theorem State.enqueueRest_within {s : State} (h : s.Within K sB) (d : Desc) (yellow : Bool) (k_ctrs : K .ctrs := by assumption) (k_flt : K .flt := by assumption) (k_cpg : K .cpg := by assumption) (k_tly : K .tly := by assumption) : (State.enqueueRest s d yellow).Within K sB := by
  unfold State.enqueueRest
  repeat' first
    | with_reducible exact h
    | with_reducible assumption
    | with_reducible apply State.inc_within
    | with_reducible apply State.queueDrop_within
    | with_reducible apply State.unref_within
    | with_reducible apply State.place_within
    | intro _
    | refine fst_within (by assumption) ?_
    | refine snd_within (by assumption) ?_
    | split
    | dsimp only


theorem State.enqueue_within {s : State} (h : s.Within K sB) (d : Desc) (k_ctrs : K .ctrs := by assumption) (k_flt : K .flt := by assumption) (k_cpg : K .cpg := by assumption) (k_tly : K .tly := by assumption) : (State.enqueue s d).Within K sB := by
  unfold State.enqueue
  repeat' first
    | with_reducible exact h
    | with_reducible assumption
    | with_reducible apply State.inc_within
    | with_reducible apply State.queueDrop_within
    | with_reducible apply State.unref_within
    | with_reducible apply State.policed_within
    | with_reducible apply State.enqueueRest_within
    | intro _
    | refine fst_within (by assumption) ?_
    | refine snd_within (by assumption) ?_
    | split
    | dsimp only


theorem State.dropPages_within {s : State} (h : s.Within K sB) (q n : Nat) (k_cpg : K .cpg := by assumption) : (State.dropPages s q n).Within K sB := by
  unfold State.dropPages
  repeat' first
    | with_reducible exact h
    | with_reducible assumption
    | with_reducible apply State.setTop_within
    | intro _
    | refine fst_within (by assumption) ?_
    | refine snd_within (by assumption) ?_
    | split
    | dsimp only


theorem State.settle_within {s : State} (h : s.Within K sB) (q : Nat) (k_cpg : K .cpg := by assumption) : (State.settle s q).Within K sB := by
  unfold State.settle
  repeat' first
    | with_reducible exact h
    | with_reducible assumption
    | with_reducible apply State.dropPages_within
    | with_reducible apply State.setQueue_within
    | intro _
    | refine fst_within (by assumption) ?_
    | refine snd_within (by assumption) ?_
    | split
    | dsimp only


theorem State.busyEnd_within {s : State} (h : s.Within K sB) (m : Nat) (k_cpg : K .cpg := by assumption) : (State.busyEnd s m).Within K sB := by
  unfold State.busyEnd
  repeat' first
    | with_reducible exact h
    | with_reducible assumption
    | with_reducible apply State.setTop_within
    | intro _
    | refine fst_within (by assumption) ?_
    | refine snd_within (by assumption) ?_
    | split
    | dsimp only


theorem State.busyEnds_within {s : State} (h : s.Within K sB) (k_cpg : K .cpg := by assumption) : (State.busyEnds s).Within K sB := by
  unfold State.busyEnds
  repeat' first
    | with_reducible exact h
    | with_reducible assumption
    | with_reducible apply State.busyEnd_within
    | with_reducible apply foldl_within
    | intro _
    | refine fst_within (by assumption) ?_
    | refine snd_within (by assumption) ?_
    | split
    | dsimp only


theorem State.flushQueue_within {s : State} (h : s.Within K sB) (q : Nat) (k_ctrs : K .ctrs := by assumption) (k_flt : K .flt := by assumption) (k_cpg : K .cpg := by assumption) (k_tly : K .tly := by assumption) : (State.flushQueue s q).Within K sB := by
  unfold State.flushQueue
  repeat' first
    | with_reducible exact h
    | with_reducible assumption
    | with_reducible apply State.count_within
    | with_reducible apply State.setTop_within
    | with_reducible apply State.unref_within
    | with_reducible apply State.dropPages_within
    | with_reducible apply State.setQueue_within
    | with_reducible apply State.busyEnds_within
    | with_reducible apply foldl_within
    | intro _
    | refine fst_within (by assumption) ?_
    | refine snd_within (by assumption) ?_
    | split
    | dsimp only


theorem State.flushNode_within {s : State} (h : s.Within K sB) (n : Nat) (k_ctrs : K .ctrs := by assumption) (k_flt : K .flt := by assumption) (k_cpg : K .cpg := by assumption) (k_tly : K .tly := by assumption) : (State.flushNode s n).Within K sB := by
  unfold State.flushNode
  repeat' first
    | with_reducible exact h
    | with_reducible assumption
    | with_reducible apply State.count_within
    | with_reducible apply State.flushQueue_within
    | with_reducible apply foldl_within
    | intro _
    | refine fst_within (by assumption) ?_
    | refine snd_within (by assumption) ?_
    | split
    | dsimp only


theorem State.flushGroups_within {s : State} (h : s.Within K sB) (p : Fin 32) (sd : Nat) (k_ctrs : K .ctrs := by assumption) (k_flt : K .flt := by assumption) (k_cpg : K .cpg := by assumption) (k_tly : K .tly := by assumption) : (State.flushGroups s p sd).Within K sB := by
  unfold State.flushGroups
  repeat' first
    | with_reducible exact h
    | with_reducible assumption
    | with_reducible apply State.flushNode_within
    | with_reducible apply foldl_within
    | intro _
    | refine fst_within (by assumption) ?_
    | refine snd_within (by assumption) ?_
    | split
    | dsimp only


theorem State.rehome_within {s : State} (h : s.Within K sB) (q m : Nat) (k_cpg : K .cpg := by assumption) : (State.rehome s q m).Within K sB := by
  unfold State.rehome
  repeat' first
    | with_reducible exact h
    | with_reducible assumption
    | with_reducible apply State.setTop_within
    | with_reducible apply State.busyEnds_within
    | with_reducible apply foldl_within
    | intro _
    | refine fst_within (by assumption) ?_
    | refine snd_within (by assumption) ?_
    | split
    | dsimp only


theorem State.cellarAccess_within {s : State} (h : s.Within K sB) (q len access : Nat) (k_free : K .free := by assumption) (k_tly : K .tly := by assumption) : (State.cellarAccess s q len access).Within K sB := by
  unfold State.cellarAccess
  repeat' first
    | with_reducible exact h
    | with_reducible assumption
    | with_reducible apply State.takeFree_within
    | with_reducible apply State.access_within
    | with_reducible apply State.priv_within
    | intro _
    | refine fst_within (by assumption) ?_
    | refine snd_within (by assumption) ?_
    | split
    | dsimp only


theorem State.writeDone_within {s : State} (h : s.Within K sB) (q : Nat) (k_ctrs : K .ctrs := by assumption) (k_free : K .free := by assumption) (k_flt : K .flt := by assumption) (k_cpg : K .cpg := by assumption) (k_tly : K .tly := by assumption) : (State.writeDone s q).Within K sB := by
  unfold State.writeDone
  repeat' first
    | with_reducible exact h
    | with_reducible assumption
    | with_reducible apply State.setQueue_within
    | with_reducible apply State.setTop_within
    | with_reducible apply State.unref_within
    | with_reducible apply State.inc_within
    | with_reducible apply State.cellarAccess_within
    | with_reducible apply State.busyEnds_within
    | intro _
    | refine fst_within (by assumption) ?_
    | refine snd_within (by assumption) ?_
    | split
    | dsimp only


theorem State.loseRecords_within {s : State} (h : s.Within K sB) (q : Nat) (k_ctrs : K .ctrs := by assumption) (k_cpg : K .cpg := by assumption) (k_tly : K .tly := by assumption) : (State.loseRecords s q).Within K sB := by
  unfold State.loseRecords
  repeat' first
    | with_reducible exact h
    | with_reducible assumption
    | with_reducible apply State.count_within
    | with_reducible apply State.setQueue_within
    | with_reducible apply State.dropPages_within
    | with_reducible apply State.settle_within
    | intro _
    | refine fst_within (by assumption) ?_
    | refine snd_within (by assumption) ?_
    | split
    | dsimp only


theorem State.refillQueue_within {s : State} (h : s.Within K sB) (q : Nat) (bad link : Bool) (k_ctrs : K .ctrs := by assumption) (k_free : K .free := by assumption) (k_flt : K .flt := by assumption) (k_cpg : K .cpg := by assumption) (k_tly : K .tly := by assumption) : (State.refillQueue s q bad link).Within K sB := by
  unfold State.refillQueue
  repeat' first
    | with_reducible exact h
    | with_reducible assumption
    | with_reducible apply State.loseRecords_within
    | with_reducible apply State.raise_within
    | with_reducible apply State.setQueue_within
    | with_reducible apply State.dropPages_within
    | with_reducible apply State.inc_within
    | with_reducible apply State.settle_within
    | with_reducible apply State.allocate_within
    | with_reducible apply State.setTop_within
    | intro _
    | refine fst_within (by assumption) ?_
    | refine snd_within (by assumption) ?_
    | split
    | dsimp only


theorem State.storeDeficits_within {s : State} (h : s.Within K sB) (ms : List Member) (k_cpg : K .cpg := by assumption) : (State.storeDeficits s ms).Within K sB := by
  unfold State.storeDeficits
  repeat' first
    | with_reducible exact h
    | with_reducible assumption
    | with_reducible apply State.setQueue_within
    | with_reducible apply foldl_within
    | intro _
    | refine fst_within (by assumption) ?_
    | refine snd_within (by assumption) ?_
    | split
    | dsimp only


theorem State.takeHead_within {s : State} (h : s.Within K sB) (q : Nat) (k_cpg : K .cpg := by assumption) : (State.takeHead s q).1.Within K sB := by
  unfold State.takeHead
  repeat' first
    | with_reducible exact h
    | with_reducible assumption
    | with_reducible apply State.setQueue_within
    | with_reducible apply State.setTop_within
    | intro _
    | refine fst_within (by assumption) ?_
    | refine snd_within (by assumption) ?_
    | split
    | dsimp only


theorem State.accessAll_within {s : State} (h : s.Within K sB) (m : Nat) (k_ctrs : K .ctrs := by assumption) (k_flt : K .flt := by assumption) (k_cpg : K .cpg := by assumption) (k_tly : K .tly := by assumption) : (State.accessAll s m).Within K sB := by
  unfold State.accessAll
  repeat' first
    | with_reducible exact h
    | with_reducible assumption
    | with_reducible apply State.shaper_within
    | with_reducible apply foldl_within
    | intro _
    | refine fst_within (by assumption) ?_
    | refine snd_within (by assumption) ?_
    | split
    | dsimp only


theorem State.pickPort_within {s : State} (h : s.Within K sB) (m : Nat) (x : State × Nat) (e : State.pickPort s m = some x) (k_ctrs : K .ctrs := by assumption) (k_flt : K .flt := by assumption) (k_cpg : K .cpg := by assumption) (k_tly : K .tly := by assumption) : x.1.Within K sB := by
  unfold State.pickPort at e
  extract_lets _ choice _ _ phase at e
  have hp : ∀ l k y, phase l k = some y → y.1.Within K sB := by
    intro l k y ey
    dsimp only [phase] at ey
    split at ey
    · cases ey
    · split at ey
      · cases ey
      · split at ey
        · cases ey
        · cases ey
          simp only [↓within_cpg k_cpg]
          exact State.storeDeficits_within h ..
  split at e
  · exact hp _ _ _ e
  · exact hp _ _ _ e


theorem State.pickEgress_within {s : State} (h : s.Within K sB) (m : Nat) (x : State × Nat) (e : State.pickEgress s m = some x) (k_ctrs : K .ctrs := by assumption) (k_flt : K .flt := by assumption) (k_cpg : K .cpg := by assumption) (k_tly : K .tly := by assumption) : x.1.Within K sB := by
  unfold State.pickEgress at e
  dsimp only at e
  split at e
  · cases e
  · cases e
    simp only [↓within_cpg k_cpg]
    exact State.storeDeficits_within h ..


theorem State.select_within {s : State} (h : s.Within K sB) (m : Nat) (k_ctrs : K .ctrs := by assumption) (k_flt : K .flt := by assumption) (k_cpg : K .cpg := by assumption) (k_tly : K .tly := by assumption) : (State.select s m).1.Within K sB := by
  have h0 := State.accessAll_within h m
  unfold State.select
  dsimp only
  split
  · exact h0
  · split
    · exact h0
    · next x e =>
      have hx : x.1.Within K sB := by
        split at e
        · exact State.pickPort_within h0 _ _ e
        · exact State.pickEgress_within h0 _ _ e
      split
      · exact h0
      · dsimp only
        refine State.debitBkt_within ?_ ..
        split
        · exact State.debitBkt_within (State.debitBkt_within (State.takeHead_within hx ..) ..) ..
        · exact State.debitBkt_within (State.takeHead_within hx ..) ..


theorem State.toCipher_within {s : State} (h : s.Within K sB) (k : Nat) (d : Desc) (k_cpg : K .cpg := by assumption) : (State.toCipher s k d).Within K sB := by
  unfold State.toCipher
  repeat' first
    | with_reducible exact h
    | with_reducible assumption
    | simp only [↓within_cpg k_cpg]
    | intro _
    | refine fst_within (by assumption) ?_
    | refine snd_within (by assumption) ?_
    | split
    | dsimp only


theorem State.toEgress_within {s : State} (h : s.Within K sB) (k : Nat) (x : Out) (k_cpg : K .cpg := by assumption) : (State.toEgress s k x).Within K sB := by
  unfold State.toEgress
  repeat' first
    | with_reducible exact h
    | with_reducible assumption
    | simp only [↓within_cpg k_cpg]
    | intro _
    | refine fst_within (by assumption) ?_
    | refine snd_within (by assumption) ?_
    | split
    | dsimp only


end Sys2Proof.Machine
end

