-- ==== Sys2Proof/Laws/WithinKeyOps.lean ====
section
/-! SUPPORT. Generated: the parts of the state that the operations of Machine/KeyOps.lean leave alone. -/

namespace Sys2Proof.Machine

set_option autoImplicit false
set_option Elab.async false
set_option linter.unusedTactic false
set_option linter.unreachableTactic false
set_option linter.unusedSimpArgs false
set_option linter.unusedVariables false

variable {K : Part → Prop} {sB : State}

theorem State.uncache_within {s : State} (h : s.Within K sB) (k : Nat) (k_keys : K .keys := by assumption) : (State.uncache s k).Within K sB := by
  unfold State.uncache
  repeat' first
    | with_reducible exact h
    | with_reducible assumption
    | simp only [↓within_keys k_keys]
    | intro _
    | refine fst_within (by assumption) ?_
    | refine snd_within (by assumption) ?_
    | split
    | dsimp only


theorem State.mirrorKey_within {s : State} (h : s.Within K sB) (k : Nat) (k_twn : K .twn := by assumption) : (State.mirrorKey s k).Within K sB := by
  unfold State.mirrorKey
  repeat' first
    | with_reducible exact h
    | with_reducible assumption
    | with_reducible apply State.mirror_within
    | intro _
    | refine fst_within (by assumption) ?_
    | refine snd_within (by assumption) ?_
    | split
    | dsimp only


theorem State.setRoot_within {s : State} (h : s.Within K sB) (k : Nat) (r : Root) (k_keys : K .keys := by assumption) (k_twn : K .twn := by assumption) : (State.setRoot s k r).Within K sB := by
  unfold State.setRoot
  repeat' first
    | with_reducible exact h
    | with_reducible assumption
    | simp only [↓within_keys k_keys]
    | with_reducible apply State.uncache_within
    | with_reducible apply State.mirrorKey_within
    | intro _
    | refine fst_within (by assumption) ?_
    | refine snd_within (by assumption) ?_
    | split
    | dsimp only


theorem State.setUsage_within {s : State} (h : s.Within K sB) (k : Nat) (r : Root) (k_keys : K .keys := by assumption) : (State.setUsage s k r).Within K sB := by
  unfold State.setUsage
  repeat' first
    | with_reducible exact h
    | with_reducible assumption
    | simp only [↓within_keys k_keys]
    | intro _
    | refine fst_within (by assumption) ?_
    | refine snd_within (by assumption) ?_
    | split
    | dsimp only


theorem State.derive_within {s : State} (h : s.Within K sB) (k label ctx : Nat) (k_ctrs : K .ctrs := by assumption) (k_keys : K .keys := by assumption) (k_tly : K .tly := by assumption) : (State.derive s k label ctx).Within K sB := by
  unfold State.derive
  repeat' first
    | with_reducible exact h
    | with_reducible assumption
    | simp only [↓within_keys k_keys]
    | with_reducible apply State.inc_within
    | intro _
    | refine fst_within (by assumption) ?_
    | refine snd_within (by assumption) ?_
    | split
    | dsimp only


theorem State.limitKey_within {s : State} (h : s.Within K sB) (k : Nat) (k_flt : K .flt := by assumption) (k_keys : K .keys := by assumption) : (State.limitKey s k).Within K sB := by
  unfold State.limitKey
  repeat' first
    | with_reducible exact h
    | with_reducible assumption
    | with_reducible apply State.setUsage_within
    | with_reducible apply State.raise_within
    | intro _
    | refine fst_within (by assumption) ?_
    | refine snd_within (by assumption) ?_
    | split
    | dsimp only


theorem State.useKey_within {s : State} (h : s.Within K sB) (k n : Nat) (k_flt : K .flt := by assumption) (k_keys : K .keys := by assumption) : (State.useKey s k n).Within K sB := by
  unfold State.useKey
  repeat' first
    | with_reducible exact h
    | with_reducible assumption
    | with_reducible apply State.setUsage_within
    | with_reducible apply State.limitKey_within
    | intro _
    | refine fst_within (by assumption) ?_
    | refine snd_within (by assumption) ?_
    | split
    | dsimp only


theorem State.eraseRoot_within {s : State} (h : s.Within K sB) (k : Nat) (k_keys : K .keys := by assumption) (k_twn : K .twn := by assumption) : (State.eraseRoot s k).Within K sB := by
  unfold State.eraseRoot
  repeat' first
    | with_reducible exact h
    | with_reducible assumption
    | with_reducible apply State.setRoot_within
    | intro _
    | refine fst_within (by assumption) ?_
    | refine snd_within (by assumption) ?_
    | split
    | dsimp only


theorem State.eraseNode_within {s : State} (h : s.Within K sB) (node : Nat) (k_keys : K .keys := by assumption) (k_twn : K .twn := by assumption) : (State.eraseNode s node).Within K sB := by
  unfold State.eraseNode
  repeat' first
    | with_reducible exact h
    | with_reducible assumption
    | with_reducible apply State.eraseRoot_within
    | intro _
    | refine fst_within (by assumption) ?_
    | refine snd_within (by assumption) ?_
    | split
    | dsimp only


theorem State.activateAtTick_within {s : State} (h : s.Within K sB) (p : Fin 32) (k_ctrs : K .ctrs := by assumption) (k_keys : K .keys := by assumption) (k_twn : K .twn := by assumption) (k_tly : K .tly := by assumption) : (State.activateAtTick s p).Within K sB := by
  unfold State.activateAtTick
  repeat' first
    | with_reducible exact h
    | with_reducible assumption
    | with_reducible apply State.setRoot_within
    | with_reducible apply State.inc_within
    | with_reducible apply foldl_within
    | intro _
    | refine fst_within (by assumption) ?_
    | refine snd_within (by assumption) ?_
    | split
    | dsimp only


theorem State.keyCode_within {s : State} (h : s.Within K sB) (c : Nat) (k_words : K .words := by assumption) (k_hst : K .hst := by assumption) : (State.keyCode s c).Within K sB := by
  unfold State.keyCode
  repeat' first
    | with_reducible exact h
    | with_reducible assumption
    | with_reducible apply State.wr_within
    | with_reducible apply State.msi_within
    | intro _
    | refine fst_within (by assumption) ?_
    | refine snd_within (by assumption) ?_
    | split
    | dsimp only


theorem State.keyGate_within {s : State} (h : s.Within K sB) (ag : Agent) (k : State → State) (hk : ∀ t : State, t.Within K sB → (k t).Within K sB) (k_words : K .words := by assumption) (k_ctrs : K .ctrs := by assumption) (k_flt : K .flt := by assumption) (k_tly : K .tly := by assumption) : (State.keyGate s ag k).Within K sB := by
  unfold State.keyGate
  repeat' first
    | with_reducible exact h
    | with_reducible assumption
    | with_reducible apply State.deny_within
    | with_reducible apply hk
    | intro _
    | refine fst_within (by assumption) ?_
    | refine snd_within (by assumption) ?_
    | split
    | dsimp only


theorem execKeyLoad_within {s : State} (h : s.Within K sB) (ag : Agent) (slot : BitVec 15) (k_words : K .words := by assumption) (k_ctrs : K .ctrs := by assumption) (k_flt : K .flt := by assumption) (k_keys : K .keys := by assumption) (k_twn : K .twn := by assumption) (k_tly : K .tly := by assumption) (k_hst : K .hst := by assumption) : Completes (execKeyLoad ag slot s) (fun t => t.Within K sB) := by
  unfold execKeyLoad
  repeat' first
    | with_reducible refine completes_within _ ?_
    | with_reducible exact h
    | with_reducible assumption
    | with_reducible apply ok_within
    | with_reducible apply State.keyGate_within
    | with_reducible apply State.keyCode_within
    | with_reducible apply State.setRoot_within
    | intro _
    | refine fst_within (by assumption) ?_
    | refine snd_within (by assumption) ?_
    | split
    | dsimp only


theorem execKeyActivate_within {s : State} (h : s.Within K sB) (ag : Agent) (slot : BitVec 15) (k_words : K .words := by assumption) (k_ctrs : K .ctrs := by assumption) (k_flt : K .flt := by assumption) (k_keys : K .keys := by assumption) (k_twn : K .twn := by assumption) (k_tly : K .tly := by assumption) (k_hst : K .hst := by assumption) : Completes (execKeyActivate ag slot s) (fun t => t.Within K sB) := by
  unfold execKeyActivate
  repeat' first
    | with_reducible refine completes_within _ ?_
    | with_reducible exact h
    | with_reducible assumption
    | with_reducible apply ok_within
    | with_reducible apply State.keyGate_within
    | with_reducible apply State.keyCode_within
    | with_reducible apply State.setRoot_within
    | intro _
    | refine fst_within (by assumption) ?_
    | refine snd_within (by assumption) ?_
    | split
    | dsimp only


theorem execKeyErase_within {s : State} (h : s.Within K sB) (ag : Agent) (slot : BitVec 15) (k_words : K .words := by assumption) (k_ctrs : K .ctrs := by assumption) (k_flt : K .flt := by assumption) (k_keys : K .keys := by assumption) (k_twn : K .twn := by assumption) (k_tly : K .tly := by assumption) (k_hst : K .hst := by assumption) : Completes (execKeyErase ag slot s) (fun t => t.Within K sB) := by
  unfold execKeyErase
  repeat' first
    | with_reducible refine completes_within _ ?_
    | with_reducible exact h
    | with_reducible assumption
    | with_reducible apply ok_within
    | with_reducible apply State.keyGate_within
    | with_reducible apply State.keyCode_within
    | with_reducible apply State.eraseRoot_within
    | intro _
    | refine fst_within (by assumption) ?_
    | refine snd_within (by assumption) ?_
    | split
    | dsimp only


theorem State.lenErr_within {s : State} (h : s.Within K sB) (p : Fin 32) (sd n : Nat) (k_ctrs : K .ctrs := by assumption) (k_flt : K .flt := by assumption) (k_tly : K .tly := by assumption) : (State.lenErr s p sd n).Within K sB := by
  unfold State.lenErr
  repeat' first
    | with_reducible exact h
    | with_reducible assumption
    | with_reducible apply State.inc_within
    | with_reducible apply State.raise_within
    | intro _
    | refine fst_within (by assumption) ?_
    | refine snd_within (by assumption) ?_
    | split
    | dsimp only


theorem State.cipherPkt_within {s : State} (h : s.Within K sB) (p : Fin 32) (sd : Nat) (d : Desc) (bad : Option (Fin 16)) (k_ctrs : K .ctrs := by assumption) (k_flt : K .flt := by assumption) (k_cpg : K .cpg := by assumption) (k_tly : K .tly := by assumption) : (State.cipherPkt s p sd d bad).1.Within K sB := by
  unfold State.cipherPkt
  repeat' first
    | with_reducible exact h
    | with_reducible assumption
    | with_reducible apply State.unref_within
    | with_reducible apply State.lenErr_within
    | with_reducible apply State.inc_within
    | with_reducible apply State.raise_within
    | intro _
    | refine fst_within (by assumption) ?_
    | refine snd_within (by assumption) ?_
    | split
    | dsimp only


theorem State.cipherPiece_within {s : State} (h : s.Within K sB) (sfc word : Nat) (o : Out) (n : Nat) (k_ctrs : K .ctrs := by assumption) (k_flt : K .flt := by assumption) (k_keys : K .keys := by assumption) (k_tly : K .tly := by assumption) : (State.cipherPiece s sfc word o n).1.Within K sB := by
  unfold State.cipherPiece
  repeat' first
    | with_reducible exact h
    | with_reducible assumption
    | with_reducible apply State.drop_within
    | with_reducible apply State.inc_within
    | with_reducible apply State.useKey_within
    | with_reducible apply State.count_within
    | intro _
    | refine fst_within (by assumption) ?_
    | refine snd_within (by assumption) ?_
    | split
    | dsimp only


theorem State.micKey_within {s : State} (h : s.Within K sB) (p : Fin 32) (onu label : Nat) (k_ctrs : K .ctrs := by assumption) (k_keys : K .keys := by assumption) (k_tly : K .tly := by assumption) : (State.micKey s p onu label).Within K sB := by
  unfold State.micKey
  repeat' first
    | with_reducible exact h
    | with_reducible assumption
    | with_reducible apply State.derive_within
    | intro _
    | refine fst_within (by assumption) ?_
    | refine snd_within (by assumption) ?_
    | split
    | dsimp only


end Sys2Proof.Machine
end

