-- ==== Sys2Proof/Laws/WithinTables.lean ====
section
/-! SUPPORT. Generated: the parts of the state that the operations of Machine/Tables.lean leave alone. -/

namespace Sys2Proof.Machine

set_option autoImplicit false
set_option Elab.async false
set_option linter.unusedTactic false
set_option linter.unreachableTactic false
set_option linter.unusedSimpArgs false
set_option linter.unusedVariables false

variable {K : Part → Prop} {sB : State}

theorem State.setStat_within {s : State} (h : s.Within K sB) (e : Nat) (x : Stat) (k_cpg : K .cpg := by assumption) : (State.setStat s e x).Within K sB := by
  unfold State.setStat
  repeat' first
    | with_reducible exact h
    | with_reducible assumption
    | simp only [↓within_cpg k_cpg]
    | intro _
    | refine fst_within (by assumption) ?_
    | refine snd_within (by assumption) ?_
    | split
    | dsimp only


theorem State.clearStat_within {s : State} (h : s.Within K sB) (e : Nat) (k_cpg : K .cpg := by assumption) : (State.clearStat s e).Within K sB := by
  unfold State.clearStat
  repeat' first
    | with_reducible exact h
    | with_reducible assumption
    | with_reducible apply State.setStat_within
    | intro _
    | refine fst_within (by assumption) ?_
    | refine snd_within (by assumption) ?_
    | split
    | dsimp only


theorem State.pendBucket_within {s : State} (h : s.Within K sB) (b : Nat) (debt : Bool) (k_cpg : K .cpg := by assumption) : (State.pendBucket s b debt).Within K sB := by
  unfold State.pendBucket
  repeat' first
    | with_reducible exact h
    | with_reducible assumption
    | with_reducible apply State.setBkt_within
    | intro _
    | refine fst_within (by assumption) ?_
    | refine snd_within (by assumption) ?_
    | split
    | dsimp only


theorem State.schPut_within {s : State} (h : s.Within K sB) (idx first : Nat) (ws : List Word) (k_words : K .words := by assumption) (k_ctrs : K .ctrs := by assumption) (k_flt : K .flt := by assumption) (k_cpg : K .cpg := by assumption) (k_tly : K .tly := by assumption) : (State.schPut s idx first ws).Within K sB := by
  unfold State.schPut
  repeat' first
    | with_reducible exact h
    | with_reducible assumption
    | with_reducible apply State.putEntry_within
    | with_reducible apply State.rehome_within
    | with_reducible apply State.flushNode_within
    | with_reducible apply foldl_within
    | intro _
    | refine fst_within (by assumption) ?_
    | refine snd_within (by assumption) ?_
    | split
    | dsimp only


theorem State.schStore_within {s : State} (h : s.Within K sB) (idx first : Nat) (ws : List Word) (k_words : K .words := by assumption) (k_ctrs : K .ctrs := by assumption) (k_flt : K .flt := by assumption) (k_cpg : K .cpg := by assumption) (k_tly : K .tly := by assumption) : (State.schStore s idx first ws).Within K sB := by
  unfold State.schStore
  repeat' first
    | with_reducible exact h
    | with_reducible assumption
    | with_reducible apply State.schPut_within
    | with_reducible apply State.pendBucket_within
    | with_reducible apply State.clearStat_within
    | intro _
    | refine fst_within (by assumption) ?_
    | refine snd_within (by assumption) ?_
    | split
    | dsimp only


theorem State.cpgStore_within {s : State} (h : s.Within K sB) (idx first : Nat) (ws : List Word) (k_words : K .words := by assumption) : (State.cpgStore s idx first ws).Within K sB := by
  unfold State.cpgStore
  repeat' first
    | with_reducible exact h
    | with_reducible assumption
    | with_reducible apply State.putEntry_within
    | intro _
    | refine fst_within (by assumption) ?_
    | refine snd_within (by assumption) ?_
    | split
    | dsimp only


theorem State.ctxStore_within {s : State} (h : s.Within K sB) (c : Nat) (w : Word) (k_words : K .words := by assumption) : (State.ctxStore s c w).Within K sB := by
  unfold State.ctxStore
  repeat' first
    | with_reducible exact h
    | with_reducible assumption
    | with_reducible apply State.putWord_within
    | intro _
    | refine fst_within (by assumption) ?_
    | refine snd_within (by assumption) ?_
    | split
    | dsimp only


end Sys2Proof.Machine
end

