-- ==== Sys2Proof/Laws/WithinActiv.lean ====
section
/-! SUPPORT. Generated: the parts of the state that the operations of Machine/Activ.lean leave alone. -/

namespace Sys2Proof.Machine

set_option autoImplicit false
set_option Elab.async false
set_option linter.unusedTactic false
set_option linter.unreachableTactic false
set_option linter.unusedSimpArgs false
set_option linter.unusedVariables false

variable {K : Part → Prop} {sB : State}

theorem State.setPlq_within {s : State} (h : s.Within K sB) (p : Fin 32) (sd : Nat) (q : PloamQ) (k_act : K .act := by assumption) (k_twn : K .twn := by assumption) : (State.setPlq s p sd q).Within K sB := by
  unfold State.setPlq
  repeat' first
    | with_reducible exact h
    | with_reducible assumption
    | simp only [↓within_act k_act]
    | with_reducible apply State.mirror_within
    | intro _
    | refine fst_within (by assumption) ?_
    | refine snd_within (by assumption) ?_
    | split
    | dsimp only


theorem State.setTreeSt_within {s : State} (h : s.Within K sB) (p : Fin 32) (x : Tree) (k_act : K .act := by assumption) : (State.setTreeSt s p x).Within K sB := by
  unfold State.setTreeSt
  repeat' first
    | with_reducible exact h
    | with_reducible assumption
    | simp only [↓within_act k_act]
    | intro _
    | refine fst_within (by assumption) ?_
    | refine snd_within (by assumption) ?_
    | split
    | dsimp only


theorem State.queuePloam_within {s : State} (h : s.Within K sB) (p : Fin 32) (sd onu : Nat) (b : PloamBody) (k_act : K .act := by assumption) (k_twn : K .twn := by assumption) : (State.queuePloam s p sd onu b).Within K sB := by
  unfold State.queuePloam
  repeat' first
    | with_reducible exact h
    | with_reducible assumption
    | with_reducible apply State.setPlq_within
    | intro _
    | refine fst_within (by assumption) ?_
    | refine snd_within (by assumption) ?_
    | split
    | dsimp only


theorem State.awaitAck_within {s : State} (h : s.Within K sB) (p : Fin 32) (sd k : Nat) (m : Ploam) (k_act : K .act := by assumption) (k_twn : K .twn := by assumption) : (State.awaitAck s p sd k m).Within K sB := by
  unfold State.awaitAck
  repeat' first
    | with_reducible exact h
    | with_reducible assumption
    | with_reducible apply State.setPlq_within
    | intro _
    | refine fst_within (by assumption) ?_
    | refine snd_within (by assumption) ?_
    | split
    | dsimp only


theorem State.ackRx_within {s : State} (h : s.Within K sB) (p : Fin 32) (sd onu seq : Nat) (k_pon : K .pon := by assumption) (k_act : K .act := by assumption) (k_twn : K .twn := by assumption) : (State.ackRx s p sd onu seq).Within K sB := by
  unfold State.ackRx
  repeat' first
    | with_reducible exact h
    | with_reducible assumption
    | with_reducible apply State.setSide_within
    | with_reducible apply State.setPlq_within
    | intro _
    | refine fst_within (by assumption) ?_
    | refine snd_within (by assumption) ?_
    | split
    | dsimp only


theorem State.withdraw_within {s : State} (h : s.Within K sB) (p : Fin 32) (sd onu : Nat) (k_act : K .act := by assumption) (k_twn : K .twn := by assumption) : (State.withdraw s p sd onu).Within K sB := by
  unfold State.withdraw
  repeat' first
    | with_reducible exact h
    | with_reducible assumption
    | with_reducible apply State.setPlq_within
    | intro _
    | refine fst_within (by assumption) ?_
    | refine snd_within (by assumption) ?_
    | split
    | dsimp only


theorem State.leaveRamp_within {s : State} (h : s.Within K sB) (p : Fin 32) (k_act : K .act := by assumption) (k_twn : K .twn := by assumption) : (State.leaveRamp s p).Within K sB := by
  unfold State.leaveRamp
  repeat' first
    | with_reducible exact h
    | with_reducible assumption
    | with_reducible apply State.setTreeSt_within
    | with_reducible apply State.mirror_within
    | intro _
    | refine fst_within (by assumption) ?_
    | refine snd_within (by assumption) ?_
    | split
    | dsimp only


theorem State.rampCheck_within {s : State} (h : s.Within K sB) (p : Fin 32) (k_act : K .act := by assumption) (k_twn : K .twn := by assumption) : (State.rampCheck s p).Within K sB := by
  unfold State.rampCheck
  repeat' first
    | with_reducible exact h
    | with_reducible assumption
    | with_reducible apply State.leaveRamp_within
    | intro _
    | refine fst_within (by assumption) ?_
    | refine snd_within (by assumption) ?_
    | split
    | dsimp only


theorem State.enterRamp_within {s : State} (h : s.Within K sB) (p : Fin 32) (k_act : K .act := by assumption) (k_twn : K .twn := by assumption) : (State.enterRamp s p).Within K sB := by
  unfold State.enterRamp
  repeat' first
    | with_reducible exact h
    | with_reducible assumption
    | with_reducible apply State.setDisc_within
    | with_reducible apply State.setTreeSt_within
    | with_reducible apply State.mirror_within
    | with_reducible apply State.rampCheck_within
    | intro _
    | refine fst_within (by assumption) ?_
    | refine snd_within (by assumption) ?_
    | split
    | dsimp only


theorem State.leftActive_within {s : State} (h : s.Within K sB) (p : Fin 32) (k_act : K .act := by assumption) (k_twn : K .twn := by assumption) : (State.leftActive s p).Within K sB := by
  unfold State.leftActive
  repeat' first
    | with_reducible exact h
    | with_reducible assumption
    | with_reducible apply State.setTreeSt_within
    | with_reducible apply State.enterRamp_within
    | intro _
    | refine fst_within (by assumption) ?_
    | refine snd_within (by assumption) ?_
    | split
    | dsimp only


theorem State.setProv_within {s : State} (h : s.Within K sB) (p : Fin 32) (i : Nat) (x : Prov) (k_stw : K .stw := by assumption) : (State.setProv s p i x).Within K sB := by
  unfold State.setProv
  repeat' first
    | with_reducible exact h
    | with_reducible assumption
    | simp only [↓within_stw k_stw]
    | intro _
    | refine fst_within (by assumption) ?_
    | refine snd_within (by assumption) ?_
    | split
    | dsimp only


theorem State.unprovision_within {s : State} (h : s.Within K sB) (p : Fin 32) (i : Nat) (k_words : K .words := by assumption) (k_stw : K .stw := by assumption) : (State.unprovision s p i).Within K sB := by
  unfold State.unprovision
  repeat' first
    | with_reducible exact h
    | with_reducible assumption
    | with_reducible apply State.wr_within
    | with_reducible apply State.setProv_within
    | with_reducible apply foldl_within
    | intro _
    | refine fst_within (by assumption) ?_
    | refine snd_within (by assumption) ?_
    | split
    | dsimp only


theorem State.applyWin_within {s : State} (h : s.Within K sB) (win idx : Nat) (ws : List Word) (k_words : K .words := by assumption) (k_ctrs : K .ctrs := by assumption) (k_flt : K .flt := by assumption) (k_cpg : K .cpg := by assumption) (k_tly : K .tly := by assumption) : (State.applyWin s win idx ws).1.Within K sB := by
  unfold State.applyWin
  repeat' first
    | with_reducible exact h
    | with_reducible assumption
    | with_reducible apply State.drop_within
    | with_reducible apply State.allocStore_within
    | with_reducible apply State.schStore_within
    | with_reducible apply State.ctxStore_within
    | intro _
    | refine fst_within (by assumption) ?_
    | refine snd_within (by assumption) ?_
    | split
    | dsimp only


theorem State.applyRecs_within {s : State} (h : s.Within K sB) (p : Fin 32) (i : Nat) (only : Nat → Bool) (l : List TRec) (k_words : K .words := by assumption) (k_ctrs : K .ctrs := by assumption) (k_flt : K .flt := by assumption) (k_cpg : K .cpg := by assumption) (k_stw : K .stw := by assumption) (k_tly : K .tly := by assumption) :
    (State.applyRecs s p i only l).1.Within K sB := by
  induction l generalizing s with
  | nil => exact h
  | cons r l ih =>
    cases r with
    | omci b => exact ih h
    | win w base pS sS ps ws =>
      unfold State.applyRecs
      repeat' first
        | with_reducible exact h
        | with_reducible assumption
        | with_reducible apply ih
        | with_reducible apply State.applyWin_within
        | with_reducible apply State.setProv_within
        | split
        | dsimp only


theorem State.endService_within {s : State} (h : s.Within K sB) (p : Fin 32) (i : Nat) (erase : Bool) (k_words : K .words := by assumption) (k_ctrs : K .ctrs := by assumption) (k_flt : K .flt := by assumption) (k_act : K .act := by assumption) (k_cpg : K .cpg := by assumption) (k_keys : K .keys := by assumption) (k_stw : K .stw := by assumption) (k_twn : K .twn := by assumption) (k_tly : K .tly := by assumption) : (State.endService s p i erase).Within K sB := by
  unfold State.endService
  repeat' first
    | with_reducible exact h
    | with_reducible assumption
    | with_reducible apply State.withdraw_within
    | with_reducible apply State.flushNode_within
    | with_reducible apply State.eraseNode_within
    | with_reducible apply State.unprovision_within
    | with_reducible apply State.leftActive_within
    | intro _
    | refine fst_within (by assumption) ?_
    | refine snd_within (by assumption) ?_
    | split
    | dsimp only


theorem State.freeSlot_within {s : State} (h : s.Within K sB) (p : Fin 32) (i : Nat) (final : Option PloamBody) (k_words : K .words := by assumption) (k_ctrs : K .ctrs := by assumption) (k_flt : K .flt := by assumption) (k_act : K .act := by assumption) (k_cpg : K .cpg := by assumption) (k_keys : K .keys := by assumption) (k_pm : K .pm := by assumption) (k_stw : K .stw := by assumption) (k_twn : K .twn := by assumption) (k_tly : K .tly := by assumption) : (State.freeSlot s p i final).Within K sB := by
  unfold State.freeSlot
  repeat' first
    | with_reducible exact h
    | with_reducible assumption
    | with_reducible apply State.endService_within
    | with_reducible apply State.setSlot_within
    | with_reducible apply State.queuePloam_within
    | intro _
    | refine fst_within (by assumption) ?_
    | refine snd_within (by assumption) ?_
    | split
    | dsimp only


theorem State.disableSlot_within {s : State} (h : s.Within K sB) (p : Fin 32) (i : Nat) (k_words : K .words := by assumption) (k_ctrs : K .ctrs := by assumption) (k_flt : K .flt := by assumption) (k_act : K .act := by assumption) (k_cpg : K .cpg := by assumption) (k_keys : K .keys := by assumption) (k_pm : K .pm := by assumption) (k_stw : K .stw := by assumption) (k_twn : K .twn := by assumption) (k_tly : K .tly := by assumption) : (State.disableSlot s p i).Within K sB := by
  unfold State.disableSlot
  repeat' first
    | with_reducible exact h
    | with_reducible assumption
    | with_reducible apply State.endService_within
    | with_reducible apply State.setSlot_within
    | with_reducible apply State.queuePloam_within
    | intro _
    | refine fst_within (by assumption) ?_
    | refine snd_within (by assumption) ?_
    | split
    | dsimp only


theorem State.toLost_within {s : State} (h : s.Within K sB) (p : Fin 32) (i : Nat) (k_ctrs : K .ctrs := by assumption) (k_flt : K .flt := by assumption) (k_act : K .act := by assumption) (k_pm : K .pm := by assumption) (k_twn : K .twn := by assumption) (k_tly : K .tly := by assumption) : (State.toLost s p i).Within K sB := by
  unfold State.toLost
  repeat' first
    | with_reducible exact h
    | with_reducible assumption
    | with_reducible apply State.setSlot_within
    | with_reducible apply State.inc_within
    | with_reducible apply State.raise_within
    | with_reducible apply State.leftActive_within
    | intro _
    | refine fst_within (by assumption) ?_
    | refine snd_within (by assumption) ?_
    | split
    | dsimp only


theorem State.templateFail_within {s : State} (h : s.Within K sB) (p : Fin 32) (i : Nat) (k_words : K .words := by assumption) (k_ctrs : K .ctrs := by assumption) (k_flt : K .flt := by assumption) (k_act : K .act := by assumption) (k_cpg : K .cpg := by assumption) (k_keys : K .keys := by assumption) (k_pm : K .pm := by assumption) (k_stw : K .stw := by assumption) (k_twn : K .twn := by assumption) (k_tly : K .tly := by assumption) : (State.templateFail s p i).Within K sB := by
  unfold State.templateFail
  repeat' first
    | with_reducible exact h
    | with_reducible assumption
    | with_reducible apply State.freeSlot_within
    | with_reducible apply State.inc_within
    | with_reducible apply State.raise_within
    | intro _
    | refine fst_within (by assumption) ?_
    | refine snd_within (by assumption) ?_
    | split
    | dsimp only


theorem State.provisionRanged_within {s : State} (h : s.Within K sB) (p : Fin 32) (i : Nat) (k_words : K .words := by assumption) (k_ctrs : K .ctrs := by assumption) (k_flt : K .flt := by assumption) (k_act : K .act := by assumption) (k_cpg : K .cpg := by assumption) (k_keys : K .keys := by assumption) (k_pm : K .pm := by assumption) (k_stw : K .stw := by assumption) (k_twn : K .twn := by assumption) (k_tly : K .tly := by assumption) : (State.provisionRanged s p i).Within K sB := by
  unfold State.provisionRanged
  repeat' first
    | with_reducible exact h
    | with_reducible assumption
    | with_reducible apply State.applyRecs_within
    | with_reducible apply State.templateFail_within
    | intro _
    | refine fst_within (by assumption) ?_
    | refine snd_within (by assumption) ?_
    | split
    | dsimp only


theorem State.nextOmci_within {s : State} (h : s.Within K sB) (p : Fin 32) (i : Nat) (k_ctrs : K .ctrs := by assumption) (k_stw : K .stw := by assumption) (k_tly : K .tly := by assumption) : (State.nextOmci s p i).Within K sB := by
  unfold State.nextOmci
  repeat' first
    | with_reducible exact h
    | with_reducible assumption
    | simp only [↓within_stw k_stw]
    | with_reducible apply State.setProv_within
    | with_reducible apply State.inc_within
    | intro _
    | refine fst_within (by assumption) ?_
    | refine snd_within (by assumption) ?_
    | split
    | dsimp only


theorem State.dropAnn_within {s : State} (h : s.Within K sB) (node : Nat) (k_hrl : K .hrl := by assumption) : (State.dropAnn s node).Within K sB := by
  unfold State.dropAnn
  repeat' first
    | with_reducible exact h
    | with_reducible assumption
    | simp only [↓within_hrl k_hrl]
    | with_reducible apply State.drop_within
    | intro _
    | refine fst_within (by assumption) ?_
    | refine snd_within (by assumption) ?_
    | split
    | dsimp only


theorem State.toActive_within {s : State} (h : s.Within K sB) (p : Fin 32) (i : Nat) (k_ctrs : K .ctrs := by assumption) (k_act : K .act := by assumption) (k_pm : K .pm := by assumption) (k_stw : K .stw := by assumption) (k_twn : K .twn := by assumption) (k_hrl : K .hrl := by assumption) (k_tly : K .tly := by assumption) : (State.toActive s p i).Within K sB := by
  unfold State.toActive
  repeat' first
    | with_reducible exact h
    | with_reducible assumption
    | with_reducible apply State.setSlot_within
    | with_reducible apply State.dropAnn_within
    | with_reducible apply State.setProv_within
    | with_reducible apply State.nextOmci_within
    | intro _
    | refine fst_within (by assumption) ?_
    | refine snd_within (by assumption) ?_
    | split
    | dsimp only


theorem State.tryActive_within {s : State} (h : s.Within K sB) (p : Fin 32) (i : Nat) (k_ctrs : K .ctrs := by assumption) (k_act : K .act := by assumption) (k_pm : K .pm := by assumption) (k_stw : K .stw := by assumption) (k_twn : K .twn := by assumption) (k_hrl : K .hrl := by assumption) (k_tly : K .tly := by assumption) : (State.tryActive s p i).Within K sB := by
  unfold State.tryActive
  repeat' first
    | with_reducible exact h
    | with_reducible assumption
    | with_reducible apply State.toActive_within
    | intro _
    | refine fst_within (by assumption) ?_
    | refine snd_within (by assumption) ?_
    | split
    | dsimp only


theorem State.holdFor_within {s : State} (h : s.Within K sB) (p : Fin 32) (i : Nat) (eqd : Int) (k_act : K .act := by assumption) (k_pm : K .pm := by assumption) (k_twn : K .twn := by assumption) : (State.holdFor s p i eqd).Within K sB := by
  unfold State.holdFor
  repeat' first
    | with_reducible exact h
    | with_reducible assumption
    | with_reducible apply State.setSlot_within
    | intro _
    | refine fst_within (by assumption) ?_
    | refine snd_within (by assumption) ?_
    | split
    | dsimp only


theorem State.broadcastDeactivate_within {s : State} (h : s.Within K sB) (p : Fin 32) (k_act : K .act := by assumption) (k_twn : K .twn := by assumption) : (State.broadcastDeactivate s p).Within K sB := by
  unfold State.broadcastDeactivate
  repeat' first
    | with_reducible exact h
    | with_reducible assumption
    | with_reducible apply State.queuePloam_within
    | with_reducible apply foldl_within
    | intro _
    | refine fst_within (by assumption) ?_
    | refine snd_within (by assumption) ?_
    | split
    | dsimp only


end Sys2Proof.Machine
end

