-- ==== Sys2Proof/Laws/WithinActCmd.lean ====
section
/-! SUPPORT. Generated: the parts of the state that the operations of Machine/ActCmd.lean leave alone. -/

namespace Sys2Proof.Machine

set_option autoImplicit false
set_option Elab.async false
set_option linter.unusedTactic false
set_option linter.unreachableTactic false
set_option linter.unusedSimpArgs false
set_option linter.unusedVariables false

variable {K : Part → Prop} {sB : State}

theorem State.dropRanged_within {s : State} (h : s.Within K sB) (p : Fin 32) (i : Nat) (k_words : K .words := by assumption) (k_ctrs : K .ctrs := by assumption) (k_flt : K .flt := by assumption) (k_act : K .act := by assumption) (k_cpg : K .cpg := by assumption) (k_keys : K .keys := by assumption) (k_pm : K .pm := by assumption) (k_stw : K .stw := by assumption) (k_twn : K .twn := by assumption) (k_tly : K .tly := by assumption) : (State.dropRanged s p i).Within K sB := by
  unfold State.dropRanged
  repeat' first
    | with_reducible exact h
    | with_reducible assumption
    | with_reducible apply State.freeSlot_within
    | intro _
    | refine fst_within (by assumption) ?_
    | refine snd_within (by assumption) ?_
    | split
    | dsimp only


theorem execTeqdWrite_within {s : State} (h : s.Within K sB) (ag : Agent) (p : Fin 32) (v : Word) (k_words : K .words := by assumption) (k_ctrs : K .ctrs := by assumption) (k_free : K .free := by assumption) (k_flt : K .flt := by assumption) (k_act : K .act := by assumption) (k_twn : K .twn := by assumption) (k_tly : K .tly := by assumption) : Completes (execTeqdWrite ag p v s) (fun t => t.Within K sB) := by
  unfold execTeqdWrite
  repeat' first
    | with_reducible refine completes_within _ ?_
    | with_reducible exact h
    | with_reducible assumption
    | with_reducible apply ok_within
    | with_reducible apply State.gate_within
    | with_reducible apply State.wr_within
    | with_reducible apply State.storeWord_within
    | with_reducible apply State.mirror_within
    | with_reducible apply State.rampCheck_within
    | intro _
    | refine fst_within (by assumption) ?_
    | refine snd_within (by assumption) ?_
    | split
    | dsimp only


theorem execReachWrite_within {s : State} (h : s.Within K sB) (ag : Agent) (p : Fin 32) (v : Word) (k_words : K .words := by assumption) (k_ctrs : K .ctrs := by assumption) (k_free : K .free := by assumption) (k_flt : K .flt := by assumption) (k_act : K .act := by assumption) (k_twn : K .twn := by assumption) (k_tly : K .tly := by assumption) : Completes (execReachWrite ag p v s) (fun t => t.Within K sB) := by
  unfold execReachWrite
  repeat' first
    | with_reducible refine completes_within _ ?_
    | with_reducible exact h
    | with_reducible assumption
    | with_reducible apply ok_within
    | with_reducible apply State.gate_within
    | with_reducible apply State.storeWord_within
    | with_reducible apply State.wr_within
    | with_reducible apply State.mirror_within
    | with_reducible apply State.rampCheck_within
    | intro _
    | refine fst_within (by assumption) ?_
    | refine snd_within (by assumption) ?_
    | split
    | dsimp only


theorem State.dropPreset_within {s : State} (h : s.Within K sB) (p : Fin 32) (sd slot : Nat) (k_pon : K .pon := by assumption) : (State.dropPreset s p sd slot).Within K sB := by
  unfold State.dropPreset
  repeat' first
    | with_reducible exact h
    | with_reducible assumption
    | simp only [↓within_pon k_pon]
    | with_reducible apply State.drop_within
    | intro _
    | refine fst_within (by assumption) ?_
    | refine snd_within (by assumption) ?_
    | split
    | dsimp only


theorem State.pmAdmit_within {s : State} (h : s.Within K sB) (k sn : Nat) (k_pm : K .pm := by assumption) : (State.pmAdmit s k sn).Within K sB := by
  unfold State.pmAdmit
  repeat' first
    | with_reducible exact h
    | with_reducible assumption
    | simp only [↓within_pm k_pm]
    | with_reducible apply State.drop_within
    | intro _
    | refine fst_within (by assumption) ?_
    | refine snd_within (by assumption) ?_
    | split
    | dsimp only


theorem State.admitOnu_within {s : State} (h : s.Within K sB) (p : Fin 32) (r : CleanResp) (i : Nat) (authIdx : Option Nat) (k_free : K .free := by assumption) (k_act : K .act := by assumption) (k_pm : K .pm := by assumption) (k_twn : K .twn := by assumption) : (State.admitOnu s p r i authIdx).Within K sB := by
  unfold State.admitOnu
  repeat' first
    | with_reducible exact h
    | with_reducible assumption
    | simp only [↓within_free k_free]
    | with_reducible apply State.setSlot_within
    | with_reducible apply State.setTreeSt_within
    | with_reducible apply State.pmAdmit_within
    | with_reducible apply State.queuePloam_within
    | intro _
    | refine fst_within (by assumption) ?_
    | refine snd_within (by assumption) ?_
    | split
    | dsimp only


theorem State.releaseSlot_within {s : State} (h : s.Within K sB) (p : Fin 32) (i : Nat) (k_words : K .words := by assumption) (k_ctrs : K .ctrs := by assumption) (k_flt : K .flt := by assumption) (k_pon : K .pon := by assumption) (k_act : K .act := by assumption) (k_cpg : K .cpg := by assumption) (k_keys : K .keys := by assumption) (k_pm : K .pm := by assumption) (k_stw : K .stw := by assumption) (k_twn : K .twn := by assumption) (k_tly : K .tly := by assumption) : (State.releaseSlot s p i).Within K sB := by
  unfold State.releaseSlot
  repeat' first
    | with_reducible exact h
    | with_reducible assumption
    | with_reducible apply State.endService_within
    | with_reducible apply State.dropPreset_within
    | with_reducible apply State.setSlot_within
    | intro _
    | refine fst_within (by assumption) ?_
    | refine snd_within (by assumption) ?_
    | split
    | dsimp only


theorem State.actAnswer_within {s : State} (h : s.Within K sB) (p : Fin 32) (r : CleanResp) (old : Option Nat) (k_ctrs : K .ctrs := by assumption) (k_free : K .free := by assumption) (k_flt : K .flt := by assumption) (k_act : K .act := by assumption) (k_keys : K .keys := by assumption) (k_pm : K .pm := by assumption) (k_twn : K .twn := by assumption) (k_tly : K .tly := by assumption) : (State.actAnswer s p r old).Within K sB := by
  unfold State.actAnswer
  repeat' first
    | with_reducible exact h
    | with_reducible assumption
    | with_reducible apply State.drop_within
    | with_reducible apply State.eraseNode_within
    | with_reducible apply State.queuePloam_within
    | with_reducible apply State.inc_within
    | with_reducible apply State.raise_within
    | with_reducible apply State.admitOnu_within
    | intro _
    | refine fst_within (by assumption) ?_
    | refine snd_within (by assumption) ?_
    | split
    | dsimp only


theorem State.takeRng_within {s : State} (h : s.Within K sB) (p : Fin 32) (sd slot : Nat) (k_pon : K .pon := by assumption) : (State.takeRng s p sd slot).Within K sB := by
  unfold State.takeRng
  repeat' first
    | with_reducible exact h
    | with_reducible assumption
    | with_reducible apply State.setSide_within
    | intro _
    | refine fst_within (by assumption) ?_
    | refine snd_within (by assumption) ?_
    | split
    | dsimp only


theorem State.answerRanging_within {s : State} (h : s.Within K sB) (p : Fin 32) (sd slot : Nat) (eqd : Int) (k_words : K .words := by assumption) (k_ctrs : K .ctrs := by assumption) (k_flt : K .flt := by assumption) (k_act : K .act := by assumption) (k_cpg : K .cpg := by assumption) (k_keys : K .keys := by assumption) (k_pm : K .pm := by assumption) (k_stw : K .stw := by assumption) (k_twn : K .twn := by assumption) (k_tly : K .tly := by assumption) : (State.answerRanging s p sd slot eqd).Within K sB := by
  unfold State.answerRanging
  repeat' first
    | with_reducible exact h
    | with_reducible assumption
    | with_reducible apply State.queuePloam_within
    | with_reducible apply State.provisionRanged_within
    | intro _
    | refine fst_within (by assumption) ?_
    | refine snd_within (by assumption) ?_
    | split
    | dsimp only


theorem State.sendRangingTime_within {s : State} (h : s.Within K sB) (p : Fin 32) (sd slot : Nat) (eqd : Int) (k_words : K .words := by assumption) (k_ctrs : K .ctrs := by assumption) (k_flt : K .flt := by assumption) (k_act : K .act := by assumption) (k_cpg : K .cpg := by assumption) (k_keys : K .keys := by assumption) (k_pm : K .pm := by assumption) (k_stw : K .stw := by assumption) (k_twn : K .twn := by assumption) (k_tly : K .tly := by assumption) : (State.sendRangingTime s p sd slot eqd).Within K sB := by
  unfold State.sendRangingTime
  repeat' first
    | with_reducible exact h
    | with_reducible assumption
    | simp only [↓within_stw k_stw]
    | with_reducible apply State.answerRanging_within
    | intro _
    | refine fst_within (by assumption) ?_
    | refine snd_within (by assumption) ?_
    | split
    | dsimp only


theorem State.takeRegistration_within {s : State} (h : s.Within K sB) (p : Fin 32) (i regId : Nat) (k_words : K .words := by assumption) (k_ctrs : K .ctrs := by assumption) (k_flt : K .flt := by assumption) (k_act : K .act := by assumption) (k_cpg : K .cpg := by assumption) (k_keys : K .keys := by assumption) (k_pm : K .pm := by assumption) (k_stw : K .stw := by assumption) (k_twn : K .twn := by assumption) (k_hrl : K .hrl := by assumption) (k_tly : K .tly := by assumption) : (State.takeRegistration s p i regId).Within K sB := by
  unfold State.takeRegistration
  repeat' first
    | with_reducible exact h
    | with_reducible assumption
    | with_reducible apply State.disableSlot_within
    | with_reducible apply State.raise_within
    | with_reducible apply State.setSlot_within
    | with_reducible apply State.tryActive_within
    | with_reducible apply State.queuePloam_within
    | intro _
    | refine fst_within (by assumption) ?_
    | refine snd_within (by assumption) ?_
    | split
    | dsimp only


theorem State.forSteward_within {s : State} (h : s.Within K sB) (m : StwMsg) (k_stw : K .stw := by assumption) : (State.forSteward s m).Within K sB := by
  unfold State.forSteward
  repeat' first
    | with_reducible exact h
    | with_reducible assumption
    | simp only [↓within_stw k_stw]
    | intro _
    | refine fst_within (by assumption) ?_
    | refine snd_within (by assumption) ?_
    | split
    | dsimp only


theorem State.takeKeyReport_within {s : State} (h : s.Within K sB) (p : Fin 32) (i dk sk : Nat) (k_ctrs : K .ctrs := by assumption) (k_act : K .act := by assumption) (k_keys : K .keys := by assumption) (k_pm : K .pm := by assumption) (k_twn : K .twn := by assumption) (k_tly : K .tly := by assumption) : (State.takeKeyReport s p i dk sk).Within K sB := by
  unfold State.takeKeyReport
  repeat' first
    | with_reducible exact h
    | with_reducible assumption
    | with_reducible apply State.st_within
    | with_reducible apply State.micKey_within
    | with_reducible apply State.setRoot_within
    | with_reducible apply State.setSlot_within
    | intro _
    | refine fst_within (by assumption) ?_
    | refine snd_within (by assumption) ?_
    | split
    | dsimp only


theorem State.actCmd_within {s : State} (h : s.Within K sB) (p : Fin 32) (op i : Nat) (k_words : K .words := by assumption) (k_ctrs : K .ctrs := by assumption) (k_flt : K .flt := by assumption) (k_act : K .act := by assumption) (k_cpg : K .cpg := by assumption) (k_keys : K .keys := by assumption) (k_pm : K .pm := by assumption) (k_stw : K .stw := by assumption) (k_twn : K .twn := by assumption) (k_tly : K .tly := by assumption) : (State.actCmd s p op i).Within K sB := by
  unfold State.actCmd
  repeat' first
    | with_reducible exact h
    | with_reducible assumption
    | with_reducible apply State.enterRamp_within
    | with_reducible apply State.leaveRamp_within
    | with_reducible apply State.freeSlot_within
    | with_reducible apply State.setSlot_within
    | with_reducible apply State.queuePloam_within
    | with_reducible apply State.disableSlot_within
    | intro _
    | refine fst_within (by assumption) ?_
    | refine snd_within (by assumption) ?_
    | split
    | dsimp only


theorem State.actWrite_within {s : State} (h : s.Within K sB) (ag : Agent) (p : Fin 32) (op i : Nat) (k_words : K .words := by assumption) (k_ctrs : K .ctrs := by assumption) (k_free : K .free := by assumption) (k_flt : K .flt := by assumption) (k_act : K .act := by assumption) (k_cpg : K .cpg := by assumption) (k_keys : K .keys := by assumption) (k_pm : K .pm := by assumption) (k_stw : K .stw := by assumption) (k_twn : K .twn := by assumption) (k_tly : K .tly := by assumption) : (State.actWrite s ag p op i).Within K sB := by
  unfold State.actWrite
  repeat' first
    | with_reducible exact h
    | with_reducible assumption
    | with_reducible apply State.gate_within
    | with_reducible apply State.deny_within
    | with_reducible apply State.setTreeSt_within
    | with_reducible apply State.actCmd_within
    | intro _
    | refine fst_within (by assumption) ?_
    | refine snd_within (by assumption) ?_
    | split
    | dsimp only


theorem State.huntNext_within {s : State} (h : s.Within K sB) (p : Fin 32) (h : Hunt) (k_ctrs : K .ctrs := by assumption) (k_flt : K .flt := by assumption) (k_act : K .act := by assumption) (k_twn : K .twn := by assumption) (k_tly : K .tly := by assumption) : (State.huntNext s p h).Within K sB := by
  unfold State.huntNext
  repeat' first
    | with_reducible exact h
    | with_reducible assumption
    | with_reducible apply State.setTreeSt_within
    | with_reducible apply State.raise_within
    | with_reducible apply State.inc_within
    | with_reducible apply State.queuePloam_within
    | intro _
    | refine fst_within (by assumption) ?_
    | refine snd_within (by assumption) ?_
    | split
    | dsimp only


end Sys2Proof.Machine
end

