-- ==== Sys2Proof/Laws/WithinClock.lean ====
section
/-! SUPPORT. Generated: the parts of the state that the operations of Machine/Clock.lean leave alone. -/

namespace Sys2Proof.Machine

set_option autoImplicit false
set_option Elab.async false
set_option linter.unusedTactic false
set_option linter.unreachableTactic false
set_option linter.unusedSimpArgs false
set_option linter.unusedVariables false

variable {K : Part → Prop} {sB : State}

theorem State.setDom_within {s : State} (h : s.Within K sB) (d : Nat) (x : Dom) (k_hrl : K .hrl := by assumption) : (State.setDom s d x).Within K sB := by
  unfold State.setDom
  repeat' first
    | with_reducible exact h
    | with_reducible assumption
    | simp only [↓within_hrl k_hrl]
    | intro _
    | refine fst_within (by assumption) ?_
    | refine snd_within (by assumption) ?_
    | split
    | dsimp only


theorem State.setPpsIn_within {s : State} (h : s.Within K sB) (i : Nat) (x : PpsIn) (k_hrl : K .hrl := by assumption) : (State.setPpsIn s i x).Within K sB := by
  unfold State.setPpsIn
  repeat' first
    | with_reducible exact h
    | with_reducible assumption
    | simp only [↓within_hrl k_hrl]
    | intro _
    | refine fst_within (by assumption) ?_
    | refine snd_within (by assumption) ?_
    | split
    | dsimp only


theorem State.setFreq_within {s : State} (h : s.Within K sB) (d : Nat) (f : Int) (k_hrl : K .hrl := by assumption) : (State.setFreq s d f).Within K sB := by
  unfold State.setFreq
  repeat' first
    | with_reducible exact h
    | with_reducible assumption
    | with_reducible apply State.setDom_within
    | intro _
    | refine fst_within (by assumption) ?_
    | refine snd_within (by assumption) ?_
    | split
    | dsimp only


theorem State.tsRecord_within {s : State} (h : s.Within K sB) (tx : Bool) (r : TsRec) (k_ctrs : K .ctrs := by assumption) (k_flt : K .flt := by assumption) (k_hrl : K .hrl := by assumption) (k_tly : K .tly := by assumption) : (State.tsRecord s tx r).Within K sB := by
  unfold State.tsRecord
  repeat' first
    | with_reducible exact h
    | with_reducible assumption
    | simp only [↓within_hrl k_hrl]
    | with_reducible apply State.inc_within
    | with_reducible apply State.raiseLimited_within
    | intro _
    | refine fst_within (by assumption) ?_
    | refine snd_within (by assumption) ?_
    | split
    | dsimp only


theorem State.ptpStamp_within {s : State} (h : s.Within K sB) (tx : Bool) (n : Nat) (fr : List Byte) (oneStep : Bool) (k_ctrs : K .ctrs := by assumption) (k_flt : K .flt := by assumption) (k_hrl : K .hrl := by assumption) (k_tly : K .tly := by assumption) : (State.ptpStamp s tx n fr oneStep).Within K sB := by
  unfold State.ptpStamp
  repeat' first
    | with_reducible exact h
    | with_reducible assumption
    | with_reducible apply State.inc_within
    | with_reducible apply State.tsRecord_within
    | intro _
    | refine fst_within (by assumption) ?_
    | refine snd_within (by assumption) ?_
    | split
    | dsimp only


theorem State.settleInj_within {s : State} (h : s.Within K sB) (a : Nat) (k_ctrs : K .ctrs := by assumption) (k_shl : K .shl := by assumption) (k_tly : K .tly := by assumption) : (State.settleInj s a).Within K sB := by
  unfold State.settleInj
  repeat' first
    | with_reducible exact h
    | with_reducible assumption
    | simp only [↓within_shl k_shl]
    | with_reducible apply State.count_within
    | intro _
    | refine fst_within (by assumption) ?_
    | refine snd_within (by assumption) ?_
    | split
    | dsimp only


theorem State.rateFrom_within {s : State} (h : s.Within K sB) (a : Nat) (k_shl : K .shl := by assumption) : (State.rateFrom s a).Within K sB := by
  unfold State.rateFrom
  repeat' first
    | with_reducible exact h
    | with_reducible assumption
    | simp only [↓within_shl k_shl]
    | intro _
    | refine fst_within (by assumption) ?_
    | refine snd_within (by assumption) ?_
    | split
    | dsimp only


theorem State.injSeen_within {s : State} (h : s.Within K sB) (a : Nat) (k_ctrs : K .ctrs := by assumption) (k_shl : K .shl := by assumption) (k_tly : K .tly := by assumption) : (State.injSeen s a).Within K sB := by
  unfold State.injSeen
  repeat' first
    | with_reducible exact h
    | with_reducible assumption
    | with_reducible apply State.settleInj_within
    | intro _
    | refine fst_within (by assumption) ?_
    | refine snd_within (by assumption) ?_
    | split
    | dsimp only


end Sys2Proof.Machine
end

