-- ==== Sys2Proof/Laws/WithinFrame.lean ====
section
/-! SUPPORT. Generated: the parts of the state that the operations of Machine/Frame.lean leave alone. -/

namespace Sys2Proof.Machine

set_option autoImplicit false
set_option Elab.async false
set_option linter.unusedTactic false
set_option linter.unreachableTactic false
set_option linter.unusedSimpArgs false
set_option linter.unusedVariables false

variable {K : Part → Prop} {sB : State}

theorem State.setTwinTree_within {s : State} (h : s.Within K sB) (p : Fin 32) (x : TwinTree) (k_twn : K .twn := by assumption) : (State.setTwinTree s p x).Within K sB := by
  unfold State.setTwinTree
  repeat' first
    | with_reducible exact h
    | with_reducible assumption
    | simp only [↓within_twn k_twn]
    | intro _
    | refine fst_within (by assumption) ?_
    | refine snd_within (by assumption) ?_
    | split
    | dsimp only


theorem State.pmMod_within {s : State} (h : s.Within K sB) (k : Nat) (f : PmAcc → PmAcc) (k_pm : K .pm := by assumption) : (State.pmMod s k f).Within K sB := by
  unfold State.pmMod
  repeat' first
    | with_reducible exact h
    | with_reducible assumption
    | simp only [↓within_pm k_pm]
    | intro _
    | refine fst_within (by assumption) ?_
    | refine snd_within (by assumption) ?_
    | split
    | dsimp only


theorem State.profileBroadcast_within {s : State} (h : s.Within K sB) (p : Fin 32) (sd n : Nat) (k_act : K .act := by assumption) (k_twn : K .twn := by assumption) : (State.profileBroadcast s p sd n).Within K sB := by
  unfold State.profileBroadcast
  repeat' first
    | with_reducible exact h
    | with_reducible assumption
    | with_reducible apply State.queuePloam_within
    | with_reducible apply foldl_within
    | intro _
    | refine fst_within (by assumption) ?_
    | refine snd_within (by assumption) ?_
    | split
    | dsimp only


theorem State.takePartition_within {s : State} (h : s.Within K sB) (p : Fin 32) (sd n : Nat) (k_words : K .words := by assumption) (k_ctrs : K .ctrs := by assumption) (k_flt : K .flt := by assumption) (k_act : K .act := by assumption) (k_whf : K .whf := by assumption) (k_twn : K .twn := by assumption) (k_tly : K .tly := by assumption) : (State.takePartition s p sd n).1.Within K sB := by
  unfold State.takePartition
  repeat' first
    | with_reducible exact h
    | with_reducible assumption
    | with_reducible apply State.setPlq_within
    | with_reducible apply State.drop_within
    | with_reducible apply State.repaired_within
    | with_reducible apply State.replicate_within
    | intro _
    | refine fst_within (by assumption) ?_
    | refine snd_within (by assumption) ?_
    | split
    | dsimp only


theorem State.carryLate_within {s : State} (h : s.Within K sB) (p : Fin 32) (sd n : Nat) (k_ctrs : K .ctrs := by assumption) (k_act : K .act := by assumption) (k_whf : K .whf := by assumption) (k_pm : K .pm := by assumption) (k_twn : K .twn := by assumption) (k_tly : K .tly := by assumption) : (State.carryLate s p sd n).Within K sB := by
  unfold State.carryLate
  repeat' first
    | with_reducible exact h
    | with_reducible assumption
    | simp only [↓within_whf k_whf]
    | with_reducible apply State.carry_within
    | with_reducible apply foldl_within
    | intro _
    | refine fst_within (by assumption) ?_
    | refine snd_within (by assumption) ?_
    | split
    | dsimp only


theorem State.lock_within {s : State} (h : s.Within K sB) (p : Fin 32) (sd : Nat) (k_words : K .words := by assumption) (k_ctrs : K .ctrs := by assumption) (k_free : K .free := by assumption) (k_flt : K .flt := by assumption) (k_pon : K .pon := by assumption) (k_act : K .act := by assumption) (k_whf : K .whf := by assumption) (k_pm : K .pm := by assumption) (k_twn : K .twn := by assumption) (k_tly : K .tly := by assumption) : (State.lock s p sd).Within K sB := by
  unfold State.lock
  repeat' first
    | with_reducible exact h
    | with_reducible assumption
    | simp only [↓within_twn k_twn]
    | with_reducible apply State.profileBroadcast_within
    | with_reducible apply State.inflight_within
    | with_reducible apply State.takePartition_within
    | with_reducible apply State.setSide_within
    | with_reducible apply State.count_within
    | with_reducible apply State.carryLate_within
    | with_reducible apply State.raise_within
    | with_reducible apply State.deferSwap_within
    | intro _
    | refine fst_within (by assumption) ?_
    | refine snd_within (by assumption) ?_
    | split
    | dsimp only


theorem State.ploamSent_within {s : State} (h : s.Within K sB) (p : Fin 32) (sd n : Nat) (m : Ploam) (k_words : K .words := by assumption) (k_ctrs : K .ctrs := by assumption) (k_pon : K .pon := by assumption) (k_act : K .act := by assumption) (k_pm : K .pm := by assumption) (k_twn : K .twn := by assumption) (k_tly : K .tly := by assumption) : (State.ploamSent s p sd n m).Within K sB := by
  unfold State.ploamSent
  repeat' first
    | with_reducible exact h
    | with_reducible assumption
    | with_reducible apply State.inc_within
    | with_reducible apply State.setSide_within
    | with_reducible apply State.wr_within
    | with_reducible apply State.setSlot_within
    | with_reducible apply State.setTreeSt_within
    | intro _
    | refine fst_within (by assumption) ?_
    | refine snd_within (by assumption) ?_
    | split
    | dsimp only


theorem State.modSent_within {s : State} (h : s.Within K sB) (p : Fin 32) (sd : Nat) (f : DsFrame → DsFrame) (k_pon : K .pon := by assumption) : (State.modSent s p sd f).Within K sB := by
  unfold State.modSent
  repeat' first
    | with_reducible exact h
    | with_reducible assumption
    | with_reducible apply State.setSide_within
    | intro _
    | refine fst_within (by assumption) ?_
    | refine snd_within (by assumption) ?_
    | split
    | dsimp only


theorem State.fillTo_within {s : State} (h : s.Within K sB) (p : Fin 32) (sd stop : Nat) (k_pon : K .pon := by assumption) : (State.fillTo s p sd stop).Within K sB := by
  unfold State.fillTo
  repeat' first
    | with_reducible exact h
    | with_reducible assumption
    | with_reducible apply State.modSent_within
    | intro _
    | refine fst_within (by assumption) ?_
    | refine snd_within (by assumption) ?_
    | split
    | dsimp only


theorem State.sendPiece_within {s : State} (h : s.Within K sB) (p : Fin 32) (sd key sfc pos n : Nat) (o : Out) (t : List Out) (k_ctrs : K .ctrs := by assumption) (k_flt : K .flt := by assumption) (k_pon : K .pon := by assumption) (k_cpg : K .cpg := by assumption) (k_keys : K .keys := by assumption) (k_tly : K .tly := by assumption) : (State.sendPiece s p sd key sfc pos n o t).Within K sB := by
  unfold State.sendPiece
  repeat' first
    | with_reducible exact h
    | with_reducible assumption
    | simp only [↓within_cpg k_cpg]
    | with_reducible apply State.cipherPiece_within
    | with_reducible apply State.unref_within
    | with_reducible apply State.modSent_within
    | intro _
    | refine fst_within (by assumption) ?_
    | refine snd_within (by assumption) ?_
    | split
    | dsimp only


theorem State.serveSpan_within {s : State} (h : s.Within K sB) (p : Fin 32) (sd key sfc stop fin n : Nat) (k_ctrs : K .ctrs := by assumption) (k_flt : K .flt := by assumption) (k_pon : K .pon := by assumption) (k_cpg : K .cpg := by assumption) (k_keys : K .keys := by assumption) (k_tly : K .tly := by assumption) :
    (State.serveSpan s p sd key sfc stop fin n).Within K sB := by
  induction n generalizing s with
  | zero => exact h
  | succ n ih =>
    unfold State.serveSpan
    repeat' first
      | with_reducible exact h
      | with_reducible assumption
      | with_reducible apply ih
      | with_reducible apply State.sendPiece_within
      | with_reducible apply State.fillTo_within
      | split
      | dsimp only


theorem State.drainQueue_within {s : State} (h : s.Within K sB) (p : Fin 32) (sd q key fuel n : Nat) (k_ctrs : K .ctrs := by assumption) (k_flt : K .flt := by assumption) (k_cpg : K .cpg := by assumption) (k_tly : K .tly := by assumption) :
    (State.drainQueue s p sd q key fuel n).Within K sB := by
  induction fuel generalizing s n with
  | zero => exact h
  | succ fuel ih =>
    unfold State.drainQueue
    repeat' first
      | with_reducible exact h
      | with_reducible assumption
      | with_reducible apply ih
      | with_reducible apply State.toEgress_within
      | with_reducible apply State.cipherPkt_within
      | with_reducible apply State.takeHead_within
      | split
      | dsimp only


theorem State.serveRun_within {s : State} (h : s.Within K sB) (p : Fin 32) (sd sfc total : Nat) (fec : Bool) (r : Run) (k_ctrs : K .ctrs := by assumption) (k_flt : K .flt := by assumption) (k_pon : K .pon := by assumption) (k_cpg : K .cpg := by assumption) (k_keys : K .keys := by assumption) (k_tly : K .tly := by assumption) :
    (State.serveRun s p sd sfc total fec r).Within K sB := by
  unfold State.serveRun
  extract_lets a b base key s1 s2
  have h1 : s1.Within K sB := State.serveSpan_within h ..
  have h2 : s2.Within K sB := by
    dsimp only [s2]
    split
    · exact h1
    · exact State.drainQueue_within h1 ..
  exact State.serveSpan_within h2 ..


theorem State.serveFrame_within {s : State} (h : s.Within K sB) (p : Fin 32) (sd n : Nat) (k_ctrs : K .ctrs := by assumption) (k_flt : K .flt := by assumption) (k_pon : K .pon := by assumption) (k_cpg : K .cpg := by assumption) (k_keys : K .keys := by assumption) (k_tly : K .tly := by assumption) : (State.serveFrame s p sd n).Within K sB := by
  unfold State.serveFrame
  extract_lets fec total s1
  have h1 : s1.Within K sB := foldl_within _ _ h (fun t r ht => State.serveRun_within ht ..)
  have h2 := State.serveSpan_within h1 p sd (p.val * 2 + sd) n total total (s1.serveFuel (p.val * 2 + sd))
  refine ite_within (State.fillTo_within h ..) h2


theorem State.openQuiet_within {s : State} (h : s.Within K sB) (p : Fin 32) (sd n : Nat) (k_pon : K .pon := by assumption) : (State.openQuiet s p sd n).Within K sB := by
  unfold State.openQuiet
  repeat' first
    | with_reducible exact h
    | with_reducible assumption
    | with_reducible apply State.setSide_within
    | intro _
    | refine fst_within (by assumption) ?_
    | refine snd_within (by assumption) ?_
    | split
    | dsimp only


theorem State.wideSent_within {s : State} (h : s.Within K sB) (p : Fin 32) (sd n : Nat) (empty : Bool) (k_ctrs : K .ctrs := by assumption) (k_pon : K .pon := by assumption) (k_tly : K .tly := by assumption) : (State.wideSent s p sd n empty).Within K sB := by
  unfold State.wideSent
  repeat' first
    | with_reducible exact h
    | with_reducible assumption
    | with_reducible apply State.setSide_within
    | with_reducible apply State.inc_within
    | intro _
    | refine fst_within (by assumption) ?_
    | refine snd_within (by assumption) ?_
    | split
    | dsimp only


theorem State.sendFrame_within {s : State} (h : s.Within K sB) (p : Fin 32) (sd idle : Nat) (l : Locked) (k_words : K .words := by assumption) (k_ctrs : K .ctrs := by assumption) (k_flt : K .flt := by assumption) (k_pon : K .pon := by assumption) (k_act : K .act := by assumption) (k_cpg : K .cpg := by assumption) (k_keys : K .keys := by assumption) (k_pm : K .pm := by assumption) (k_twn : K .twn := by assumption) (k_tly : K .tly := by assumption) : (State.sendFrame s p sd idle l).Within K sB := by
  unfold State.sendFrame
  repeat' first
    | with_reducible exact h
    | with_reducible assumption
    | with_reducible apply State.setSide_within
    | with_reducible apply State.commit_within
    | with_reducible apply State.inc_within
    | with_reducible apply State.setDisc_within
    | with_reducible apply State.count_within
    | with_reducible apply State.ploamSent_within
    | with_reducible apply State.micKey_within
    | with_reducible apply State.awaitAck_within
    | with_reducible apply State.openQuiet_within
    | with_reducible apply State.wideSent_within
    | with_reducible apply State.serveFrame_within
    | with_reducible apply idle_within
    | with_reducible apply foldl_within
    | intro _
    | refine fst_within (by assumption) ?_
    | refine snd_within (by assumption) ?_
    | split
    | dsimp only


theorem State.loseFrame_within {s : State} (h : s.Within K sB) (p : Fin 32) (sd : Nat) (l : Locked) (k_ctrs : K .ctrs := by assumption) (k_pon : K .pon := by assumption) (k_act : K .act := by assumption) (k_whf : K .whf := by assumption) (k_pm : K .pm := by assumption) (k_twn : K .twn := by assumption) (k_tly : K .tly := by assumption) : (State.loseFrame s p sd l).Within K sB := by
  unfold State.loseFrame
  repeat' first
    | with_reducible exact h
    | with_reducible assumption
    | with_reducible apply State.setSide_within
    | with_reducible apply State.carry_within
    | with_reducible apply State.setDisc_within
    | with_reducible apply State.awaitAck_within
    | with_reducible apply foldl_within
    | intro _
    | refine fst_within (by assumption) ?_
    | refine snd_within (by assumption) ?_
    | split
    | dsimp only


theorem State.dropUnsent_within {s : State} (h : s.Within K sB) (p : Fin 32) (sd n : Nat) (k_ctrs : K .ctrs := by assumption) (k_pon : K .pon := by assumption) (k_act : K .act := by assumption) (k_whf : K .whf := by assumption) (k_pm : K .pm := by assumption) (k_twn : K .twn := by assumption) (k_tly : K .tly := by assumption) : (State.dropUnsent s p sd n).Within K sB := by
  unfold State.dropUnsent
  repeat' first
    | with_reducible exact h
    | with_reducible assumption
    | with_reducible apply State.carry_within
    | with_reducible apply State.setSide_within
    | with_reducible apply State.setDisc_within
    | with_reducible apply foldl_within
    | intro _
    | refine fst_within (by assumption) ?_
    | refine snd_within (by assumption) ?_
    | split
    | dsimp only


theorem State.tickSide_within {s : State} (h : s.Within K sB) (p : Fin 32) (sd n idle : Nat) (k_words : K .words := by assumption) (k_ctrs : K .ctrs := by assumption) (k_flt : K .flt := by assumption) (k_pon : K .pon := by assumption) (k_act : K .act := by assumption) (k_whf : K .whf := by assumption) (k_cpg : K .cpg := by assumption) (k_keys : K .keys := by assumption) (k_pm : K .pm := by assumption) (k_twn : K .twn := by assumption) (k_tly : K .tly := by assumption) : (State.tickSide s p sd n idle).Within K sB := by
  unfold State.tickSide
  repeat' first
    | with_reducible exact h
    | with_reducible assumption
    | with_reducible apply State.setSide_within
    | with_reducible apply State.commit_within
    | with_reducible apply State.inc_within
    | with_reducible apply State.putWord_within
    | with_reducible apply State.loseFrame_within
    | with_reducible apply State.dropUnsent_within
    | with_reducible apply State.sendFrame_within
    | with_reducible apply idle_within
    | intro _
    | refine fst_within (by assumption) ?_
    | refine snd_within (by assumption) ?_
    | split
    | dsimp only


theorem State.lockAtTick_within {s : State} (h : s.Within K sB) (p : Fin 32) (sd n : Nat) (k_words : K .words := by assumption) (k_ctrs : K .ctrs := by assumption) (k_free : K .free := by assumption) (k_flt : K .flt := by assumption) (k_pon : K .pon := by assumption) (k_act : K .act := by assumption) (k_whf : K .whf := by assumption) (k_pm : K .pm := by assumption) (k_twn : K .twn := by assumption) (k_tly : K .tly := by assumption) : (State.lockAtTick s p sd n).Within K sB := by
  unfold State.lockAtTick
  repeat' first
    | with_reducible exact h
    | with_reducible assumption
    | with_reducible apply State.lock_within
    | intro _
    | refine fst_within (by assumption) ?_
    | refine snd_within (by assumption) ?_
    | split
    | dsimp only


theorem State.keysAtTick_within {s : State} (h : s.Within K sB) (p : Fin 32) (k_ctrs : K .ctrs := by assumption) (k_act : K .act := by assumption) (k_keys : K .keys := by assumption) (k_pm : K .pm := by assumption) (k_stw : K .stw := by assumption) (k_twn : K .twn := by assumption) (k_hrl : K .hrl := by assumption) (k_tly : K .tly := by assumption) : (State.keysAtTick s p).Within K sB := by
  unfold State.keysAtTick
  repeat' first
    | with_reducible exact h
    | with_reducible assumption
    | with_reducible apply State.setSlot_within
    | with_reducible apply State.tryActive_within
    | with_reducible apply State.activateAtTick_within
    | with_reducible apply foldl_within
    | intro _
    | refine fst_within (by assumption) ?_
    | refine snd_within (by assumption) ?_
    | split
    | dsimp only


theorem State.intervalAtTick_within {s : State} (h : s.Within K sB) (p : Fin 32) (k_act : K .act := by assumption) : (State.intervalAtTick s p).Within K sB := by
  unfold State.intervalAtTick
  repeat' first
    | with_reducible exact h
    | with_reducible assumption
    | with_reducible apply State.setTreeSt_within
    | intro _
    | refine fst_within (by assumption) ?_
    | refine snd_within (by assumption) ?_
    | split
    | dsimp only


theorem State.framesAtTick_within {s : State} (h : s.Within K sB) (p : Fin 32) (k_whf : K .whf := by assumption) (k_twn : K .twn := by assumption) : (State.framesAtTick s p).Within K sB := by
  unfold State.framesAtTick
  repeat' first
    | with_reducible exact h
    | with_reducible assumption
    | with_reducible apply State.setAlloc_within
    | with_reducible apply State.setTwinTree_within
    | with_reducible apply State.mirror_within
    | with_reducible apply State.mirrorKey_within
    | with_reducible apply foldl_within
    | intro _
    | refine fst_within (by assumption) ?_
    | refine snd_within (by assumption) ?_
    | split
    | dsimp only


theorem State.queueHeld_within {s : State} (h : s.Within K sB) (p : Fin 32) (sd n : Nat) (k_words : K .words := by assumption) (k_ctrs : K .ctrs := by assumption) (k_flt : K .flt := by assumption) (k_act : K .act := by assumption) (k_cpg : K .cpg := by assumption) (k_keys : K .keys := by assumption) (k_pm : K .pm := by assumption) (k_stw : K .stw := by assumption) (k_twn : K .twn := by assumption) (k_tly : K .tly := by assumption) : (State.queueHeld s p sd n).Within K sB := by
  unfold State.queueHeld
  repeat' first
    | with_reducible exact h
    | with_reducible assumption
    | with_reducible apply State.sendRangingTime_within
    | with_reducible apply foldl_within
    | intro _
    | refine fst_within (by assumption) ?_
    | refine snd_within (by assumption) ?_
    | split
    | dsimp only


theorem State.reannounce_within {s : State} (h : s.Within K sB) (ps : List (Fin 32)) (k_hrl : K .hrl := by assumption) : (State.reannounce s ps).Within K sB := by
  unfold State.reannounce
  repeat' first
    | with_reducible exact h
    | with_reducible assumption
    | simp only [↓within_hrl k_hrl]
    | intro _
    | refine fst_within (by assumption) ?_
    | refine snd_within (by assumption) ?_
    | split
    | dsimp only


theorem State.autoPhase_within {s : State} (h : s.Within K sB) (p : Fin 32) (k_words : K .words := by assumption) : (State.autoPhase s p).Within K sB := by
  unfold State.autoPhase
  repeat' first
    | with_reducible exact h
    | with_reducible assumption
    | with_reducible apply State.wr_within
    | intro _
    | refine fst_within (by assumption) ?_
    | refine snd_within (by assumption) ?_
    | split
    | dsimp only


theorem State.loseLocked_within {s : State} (h : s.Within K sB) (p : Fin 32) (sd : Nat) (k_ctrs : K .ctrs := by assumption) (k_pon : K .pon := by assumption) (k_act : K .act := by assumption) (k_whf : K .whf := by assumption) (k_pm : K .pm := by assumption) (k_twn : K .twn := by assumption) (k_tly : K .tly := by assumption) : (State.loseLocked s p sd).Within K sB := by
  unfold State.loseLocked
  repeat' first
    | with_reducible exact h
    | with_reducible assumption
    | with_reducible apply State.loseFrame_within
    | intro _
    | refine fst_within (by assumption) ?_
    | refine snd_within (by assumption) ?_
    | split
    | dsimp only


theorem execPhaseOffsetWrite_within {s : State} (h : s.Within K sB) (ag : Agent) (p : Fin 32) (v : Word) (k_words : K .words := by assumption) (k_ctrs : K .ctrs := by assumption) (k_free : K .free := by assumption) (k_flt : K .flt := by assumption) (k_pon : K .pon := by assumption) (k_twn : K .twn := by assumption) (k_hrl : K .hrl := by assumption) (k_tly : K .tly := by assumption) : Completes (execPhaseOffsetWrite ag p v s) (fun t => t.Within K sB) := by
  unfold execPhaseOffsetWrite
  repeat' first
    | with_reducible refine completes_within _ ?_
    | with_reducible exact h
    | with_reducible assumption
    | with_reducible apply ok_within
    | with_reducible apply State.gate_within
    | with_reducible apply State.wr_within
    | with_reducible apply State.storeWord_within
    | with_reducible apply State.setPort_within
    | with_reducible apply State.reannounce_within
    | with_reducible apply State.mirror_within
    | intro _
    | refine fst_within (by assumption) ?_
    | refine snd_within (by assumption) ?_
    | split
    | dsimp only


theorem execDsEnableWrite_within {s : State} (h : s.Within K sB) (ag : Agent) (p : Fin 32) (v : Word) (k_words : K .words := by assumption) (k_ctrs : K .ctrs := by assumption) (k_free : K .free := by assumption) (k_flt : K .flt := by assumption) (k_pon : K .pon := by assumption) (k_act : K .act := by assumption) (k_cpg : K .cpg := by assumption) (k_twn : K .twn := by assumption) (k_tly : K .tly := by assumption) : Completes (execDsEnableWrite ag p v s) (fun t => t.Within K sB) := by
  unfold execDsEnableWrite
  repeat' first
    | with_reducible refine completes_within _ ?_
    | with_reducible exact h
    | with_reducible assumption
    | with_reducible apply ok_within
    | with_reducible apply State.gate_within
    | with_reducible apply State.storeWord_within
    | with_reducible apply State.setSide_within
    | with_reducible apply State.flushGroups_within
    | with_reducible apply State.mirror_within
    | with_reducible apply State.rampCheck_within
    | intro _
    | refine fst_within (by assumption) ?_
    | refine snd_within (by assumption) ?_
    | split
    | dsimp only


theorem execOcbCommit_within {s : State} (h : s.Within K sB) (ag : Agent) (p : Fin 32) (sd : Side) (v : Word) (k_words : K .words := by assumption) (k_ctrs : K .ctrs := by assumption) (k_free : K .free := by assumption) (k_flt : K .flt := by assumption) (k_pon : K .pon := by assumption) (k_twn : K .twn := by assumption) (k_tly : K .tly := by assumption) : Completes (execOcbCommit ag p sd v s) (fun t => t.Within K sB) := by
  unfold execOcbCommit
  repeat' first
    | with_reducible refine completes_within _ ?_
    | with_reducible exact h
    | with_reducible assumption
    | with_reducible apply ok_within
    | with_reducible apply State.gate_within
    | with_reducible apply State.storeWord_within
    | with_reducible apply State.setSide_within
    | with_reducible apply State.commit_within
    | with_reducible apply State.mirror_within
    | intro _
    | refine fst_within (by assumption) ?_
    | refine snd_within (by assumption) ?_
    | split
    | dsimp only


end Sys2Proof.Machine
end

