-- ==== Sys2Proof/Laws/WithinTwin.lean ====
section
/-! SUPPORT. Generated: the parts of the state that the operations of Machine/Twin.lean leave alone. -/

namespace Sys2Proof.Machine

set_option autoImplicit false
set_option Elab.async false
set_option linter.unusedTactic false
set_option linter.unreachableTactic false
set_option linter.unusedSimpArgs false
set_option linter.unusedVariables false

variable {K : Part → Prop} {sB : State}

theorem State.split_within {s : State} (h : s.Within K sB) (on : Bool) (k_flt : K .flt := by assumption) : (State.split s on).Within K sB := by
  unfold State.split
  repeat' first
    | with_reducible exact h
    | with_reducible assumption
    | with_reducible apply State.onset_within
    | with_reducible apply State.endCause_within
    | intro _
    | refine fst_within (by assumption) ?_
    | refine snd_within (by assumption) ?_
    | split
    | dsimp only


theorem State.setOwn_within {s : State} (h : s.Within K sB) (l : List (Fin 32)) (k_words : K .words := by assumption) : (State.setOwn s l).Within K sB := by
  unfold State.setOwn
  repeat' first
    | with_reducible exact h
    | with_reducible assumption
    | with_reducible apply State.wr_within
    | intro _
    | refine fst_within (by assumption) ?_
    | refine snd_within (by assumption) ?_
    | split
    | dsimp only


theorem State.takeOwnership_within {s0 : State} (h : s0.Within K sB) (k_words : K .words := by assumption) (k_flt : K .flt := by assumption) (k_twn : K .twn := by assumption) : (State.takeOwnership s0).Within K sB := by
  unfold State.takeOwnership
  repeat' first
    | with_reducible exact h
    | with_reducible assumption
    | simp only [↓within_twn k_twn]
    | with_reducible apply State.wr_within
    | with_reducible apply State.split_within
    | with_reducible apply State.setOwn_within
    | intro _
    | refine fst_within (by assumption) ?_
    | refine snd_within (by assumption) ?_
    | split
    | dsimp only


theorem State.redecide_within {s : State} (h : s.Within K sB) (k_words : K .words := by assumption) (k_flt : K .flt := by assumption) (k_twn : K .twn := by assumption) : (State.redecide s).Within K sB := by
  unfold State.redecide
  repeat' first
    | with_reducible exact h
    | with_reducible assumption
    | with_reducible apply State.split_within
    | with_reducible apply State.takeOwnership_within
    | intro _
    | refine fst_within (by assumption) ?_
    | refine snd_within (by assumption) ?_
    | split
    | dsimp only


theorem State.seqRx_within {s : State} (h : s.Within K sB) (type_ port side seq sfc : Nat) (k_ctrs : K .ctrs := by assumption) (k_flt : K .flt := by assumption) (k_twn : K .twn := by assumption) (k_tly : K .tly := by assumption) : (State.seqRx s type_ port side seq sfc).Within K sB := by
  unfold State.seqRx
  repeat' first
    | with_reducible exact h
    | with_reducible assumption
    | simp only [↓within_twn k_twn]
    | with_reducible apply State.inc_within
    | with_reducible apply State.raise_within
    | with_reducible apply State.setTwinTree_within
    | with_reducible apply State.twinSend_within
    | intro _
    | refine fst_within (by assumption) ?_
    | refine snd_within (by assumption) ?_
    | split
    | dsimp only


theorem State.mirrored_within {s : State} (h : s.Within K sB) (type_ : Nat) (p : Fin 32) (side seq sfc : Nat) (k : State → State) (hk : ∀ t : State, t.Within K sB → (k t).Within K sB) (k_ctrs : K .ctrs := by assumption) (k_flt : K .flt := by assumption) (k_twn : K .twn := by assumption) (k_tly : K .tly := by assumption) : (State.mirrored s type_ p side seq sfc k).Within K sB := by
  unfold State.mirrored
  repeat' first
    | with_reducible exact h
    | with_reducible assumption
    | with_reducible apply State.seqRx_within
    | with_reducible apply State.inc_within
    | with_reducible apply hk
    | intro _
    | refine fst_within (by assumption) ?_
    | refine snd_within (by assumption) ?_
    | split
    | dsimp only


theorem State.takeoverUsage_within {s : State} (h : s.Within K sB) (k_flt : K .flt := by assumption) (k_keys : K .keys := by assumption) : (State.takeoverUsage s).Within K sB := by
  unfold State.takeoverUsage
  repeat' first
    | with_reducible exact h
    | with_reducible assumption
    | with_reducible apply State.useKey_within
    | with_reducible apply foldl_within
    | intro _
    | refine fst_within (by assumption) ?_
    | refine snd_within (by assumption) ?_
    | split
    | dsimp only


theorem State.takeTree_within {s : State} (h : s.Within K sB) (p : Fin 32) (num : Nat) (k_words : K .words := by assumption) (k_pon : K .pon := by assumption) (k_twn : K .twn := by assumption) (k_hrl : K .hrl := by assumption) : (State.takeTree s p num).Within K sB := by
  unfold State.takeTree
  repeat' first
    | with_reducible exact h
    | with_reducible assumption
    | with_reducible apply State.setOwn_within
    | with_reducible apply State.setTwinTree_within
    | with_reducible apply State.seen_within
    | with_reducible apply State.setSide_within
    | with_reducible apply State.reannounce_within
    | with_reducible apply foldl_within
    | intro _
    | refine fst_within (by assumption) ?_
    | refine snd_within (by assumption) ?_
    | split
    | dsimp only


theorem State.takeSlots_within {s : State} (h : s.Within K sB) (p : Fin 32) (k_words : K .words := by assumption) (k_ctrs : K .ctrs := by assumption) (k_flt : K .flt := by assumption) (k_act : K .act := by assumption) (k_cpg : K .cpg := by assumption) (k_keys : K .keys := by assumption) (k_pm : K .pm := by assumption) (k_stw : K .stw := by assumption) (k_twn : K .twn := by assumption) (k_tly : K .tly := by assumption) : (State.takeSlots s p).Within K sB := by
  unfold State.takeSlots
  repeat' first
    | with_reducible exact h
    | with_reducible assumption
    | with_reducible apply State.setPlq_within
    | with_reducible apply State.freeSlot_within
    | with_reducible apply State.setSlot_within
    | with_reducible apply foldl_within
    | intro _
    | refine fst_within (by assumption) ?_
    | refine snd_within (by assumption) ?_
    | split
    | dsimp only


theorem State.noteTakeover_within {s : State} (h : s.Within K sB) (num : Nat) (cold : Bool) (trees : List (Fin 32)) (k_words : K .words := by assumption) (k_ctrs : K .ctrs := by assumption) (k_flt : K .flt := by assumption) (k_tly : K .tly := by assumption) : (State.noteTakeover s num cold trees).Within K sB := by
  unfold State.noteTakeover
  repeat' first
    | with_reducible exact h
    | with_reducible assumption
    | with_reducible apply State.putWord_within
    | with_reducible apply State.inc_within
    | with_reducible apply State.raise_within
    | intro _
    | refine fst_within (by assumption) ?_
    | refine snd_within (by assumption) ?_
    | split
    | dsimp only


theorem State.deactivateAll_within {s : State} (h : s.Within K sB) (p : Fin 32) (k_words : K .words := by assumption) (k_act : K .act := by assumption) (k_twn : K .twn := by assumption) : (State.deactivateAll s p).Within K sB := by
  unfold State.deactivateAll
  repeat' first
    | with_reducible exact h
    | with_reducible assumption
    | with_reducible apply State.wr_within
    | with_reducible apply State.broadcastDeactivate_within
    | intro _
    | refine fst_within (by assumption) ?_
    | refine snd_within (by assumption) ?_
    | split
    | dsimp only


theorem State.reactivate_within {s : State} (h : s.Within K sB) (p : Fin 32) (k_words : K .words := by assumption) (k_ctrs : K .ctrs := by assumption) (k_flt : K .flt := by assumption) (k_act : K .act := by assumption) (k_cpg : K .cpg := by assumption) (k_keys : K .keys := by assumption) (k_pm : K .pm := by assumption) (k_stw : K .stw := by assumption) (k_twn : K .twn := by assumption) (k_tly : K .tly := by assumption) : (State.reactivate s p).Within K sB := by
  unfold State.reactivate
  repeat' first
    | with_reducible exact h
    | with_reducible assumption
    | with_reducible apply State.freeSlot_within
    | with_reducible apply State.deactivateAll_within
    | with_reducible apply State.enterRamp_within
    | with_reducible apply foldl_within
    | intro _
    | refine fst_within (by assumption) ?_
    | refine snd_within (by assumption) ?_
    | split
    | dsimp only


theorem State.takeWarm_within {s : State} (h : s.Within K sB) (num : Nat) (trees : List (Fin 32)) (k_words : K .words := by assumption) (k_ctrs : K .ctrs := by assumption) (k_flt : K .flt := by assumption) (k_pon : K .pon := by assumption) (k_act : K .act := by assumption) (k_cpg : K .cpg := by assumption) (k_keys : K .keys := by assumption) (k_pm : K .pm := by assumption) (k_stw : K .stw := by assumption) (k_twn : K .twn := by assumption) (k_hrl : K .hrl := by assumption) (k_tly : K .tly := by assumption) : (State.takeWarm s num trees).Within K sB := by
  unfold State.takeWarm
  repeat' first
    | with_reducible exact h
    | with_reducible assumption
    | with_reducible apply State.takeTree_within
    | with_reducible apply State.takeSlots_within
    | with_reducible apply State.reactivate_within
    | with_reducible apply State.noteTakeover_within
    | with_reducible apply State.takeoverUsage_within
    | with_reducible apply foldl_within
    | intro _
    | refine fst_within (by assumption) ?_
    | refine snd_within (by assumption) ?_
    | split
    | dsimp only


theorem State.takeCold1_within {s : State} (h : s.Within K sB) (p : Fin 32) (num : Nat) (k_words : K .words := by assumption) (k_ctrs : K .ctrs := by assumption) (k_flt : K .flt := by assumption) (k_pon : K .pon := by assumption) (k_act : K .act := by assumption) (k_cpg : K .cpg := by assumption) (k_keys : K .keys := by assumption) (k_pm : K .pm := by assumption) (k_stw : K .stw := by assumption) (k_twn : K .twn := by assumption) (k_hrl : K .hrl := by assumption) (k_tly : K .tly := by assumption) : (State.takeCold1 s p num).Within K sB := by
  unfold State.takeCold1
  repeat' first
    | with_reducible exact h
    | with_reducible assumption
    | with_reducible apply State.setPort_within
    | with_reducible apply State.takeTree_within
    | with_reducible apply State.freeSlot_within
    | with_reducible apply State.deactivateAll_within
    | with_reducible apply State.enterRamp_within
    | with_reducible apply foldl_within
    | intro _
    | refine fst_within (by assumption) ?_
    | refine snd_within (by assumption) ?_
    | split
    | dsimp only


theorem State.takeCold_within {s : State} (h : s.Within K sB) (num : Nat) (trees : List (Fin 32)) (k_words : K .words := by assumption) (k_ctrs : K .ctrs := by assumption) (k_flt : K .flt := by assumption) (k_pon : K .pon := by assumption) (k_act : K .act := by assumption) (k_cpg : K .cpg := by assumption) (k_keys : K .keys := by assumption) (k_pm : K .pm := by assumption) (k_stw : K .stw := by assumption) (k_twn : K .twn := by assumption) (k_hrl : K .hrl := by assumption) (k_tly : K .tly := by assumption) : (State.takeCold s num trees).Within K sB := by
  unfold State.takeCold
  repeat' first
    | with_reducible exact h
    | with_reducible assumption
    | with_reducible apply State.takeCold1_within
    | with_reducible apply State.noteTakeover_within
    | with_reducible apply State.takeoverUsage_within
    | with_reducible apply foldl_within
    | intro _
    | refine fst_within (by assumption) ?_
    | refine snd_within (by assumption) ?_
    | split
    | dsimp only


theorem State.coldPart_within {s : State} (h : s.Within K sB) (k_words : K .words := by assumption) (k_ctrs : K .ctrs := by assumption) (k_flt : K .flt := by assumption) (k_pon : K .pon := by assumption) (k_act : K .act := by assumption) (k_cpg : K .cpg := by assumption) (k_keys : K .keys := by assumption) (k_pm : K .pm := by assumption) (k_stw : K .stw := by assumption) (k_twn : K .twn := by assumption) (k_hrl : K .hrl := by assumption) (k_tly : K .tly := by assumption) : (State.coldPart s).Within K sB := by
  unfold State.coldPart
  repeat' first
    | with_reducible exact h
    | with_reducible assumption
    | simp only [↓within_twn k_twn]
    | with_reducible apply State.takeCold_within
    | with_reducible apply foldl_within
    | intro _
    | refine fst_within (by assumption) ?_
    | refine snd_within (by assumption) ?_
    | split
    | dsimp only


theorem State.trigger_within {s : State} (h : s.Within K sB) (num : Nat) (k_words : K .words := by assumption) (k_ctrs : K .ctrs := by assumption) (k_flt : K .flt := by assumption) (k_pon : K .pon := by assumption) (k_act : K .act := by assumption) (k_cpg : K .cpg := by assumption) (k_keys : K .keys := by assumption) (k_pm : K .pm := by assumption) (k_stw : K .stw := by assumption) (k_twn : K .twn := by assumption) (k_hrl : K .hrl := by assumption) (k_tly : K .tly := by assumption) : (State.trigger s num).Within K sB := by
  unfold State.trigger
  repeat' first
    | with_reducible exact h
    | with_reducible assumption
    | simp only [↓within_twn k_twn]
    | with_reducible apply State.split_within
    | with_reducible apply State.coldPart_within
    | intro _
    | refine fst_within (by assumption) ?_
    | refine snd_within (by assumption) ?_
    | split
    | dsimp only


theorem State.lossTrigger_within {s : State} (h : s.Within K sB) (k_words : K .words := by assumption) (k_ctrs : K .ctrs := by assumption) (k_flt : K .flt := by assumption) (k_pon : K .pon := by assumption) (k_act : K .act := by assumption) (k_cpg : K .cpg := by assumption) (k_keys : K .keys := by assumption) (k_pm : K .pm := by assumption) (k_stw : K .stw := by assumption) (k_twn : K .twn := by assumption) (k_hrl : K .hrl := by assumption) (k_tly : K .tly := by assumption) : (State.lossTrigger s).Within K sB := by
  unfold State.lossTrigger
  repeat' first
    | with_reducible exact h
    | with_reducible assumption
    | with_reducible apply State.split_within
    | with_reducible apply State.inc_within
    | with_reducible apply State.trigger_within
    | intro _
    | refine fst_within (by assumption) ?_
    | refine snd_within (by assumption) ?_
    | split
    | dsimp only


theorem State.twnDone_within {s : State} (h : s.Within K sB) (code : Nat) (k_words : K .words := by assumption) (k_twn : K .twn := by assumption) (k_hst : K .hst := by assumption) : (State.twnDone s code).Within K sB := by
  unfold State.twnDone
  repeat' first
    | with_reducible exact h
    | with_reducible assumption
    | simp only [↓within_twn k_twn]
    | with_reducible apply State.wr_within
    | with_reducible apply State.msi_within
    | intro _
    | refine fst_within (by assumption) ?_
    | refine snd_within (by assumption) ?_
    | split
    | dsimp only


theorem State.unreachable_within {s : State} (h : s.Within K sB) (k_words : K .words := by assumption) (k_twn : K .twn := by assumption) (k_hst : K .hst := by assumption) : (State.unreachable s).Within K sB := by
  unfold State.unreachable
  repeat' first
    | with_reducible exact h
    | with_reducible assumption
    | with_reducible apply State.twnDone_within
    | intro _
    | refine fst_within (by assumption) ?_
    | refine snd_within (by assumption) ?_
    | split
    | dsimp only


theorem State.leaveTree_within {s : State} (h : s.Within K sB) (p : Fin 32) (k_words : K .words := by assumption) (k_ctrs : K .ctrs := by assumption) (k_flt : K .flt := by assumption) (k_cpg : K .cpg := by assumption) (k_tly : K .tly := by assumption) : (State.leaveTree s p).Within K sB := by
  unfold State.leaveTree
  repeat' first
    | with_reducible exact h
    | with_reducible assumption
    | with_reducible apply State.setOwn_within
    | with_reducible apply State.flushNode_within
    | with_reducible apply foldl_within
    | intro _
    | refine fst_within (by assumption) ?_
    | refine snd_within (by assumption) ?_
    | split
    | dsimp only


theorem State.release_within {s : State} (h : s.Within K sB) (num : Nat) (trees : List (Fin 32)) (cmd : Bool) (k_twn : K .twn := by assumption) : (State.release s num trees cmd).Within K sB := by
  unfold State.release
  repeat' first
    | with_reducible exact h
    | with_reducible assumption
    | simp only [↓within_twn k_twn]
    | intro _
    | refine fst_within (by assumption) ?_
    | refine snd_within (by assumption) ?_
    | split
    | dsimp only


theorem State.ownerTrigger_within {s : State} (h : s.Within K sB) (num : Nat) (p : Fin 32) (k_ctrs : K .ctrs := by assumption) (k_twn : K .twn := by assumption) (k_tly : K .tly := by assumption) : (State.ownerTrigger s num p).Within K sB := by
  unfold State.ownerTrigger
  repeat' first
    | with_reducible exact h
    | with_reducible assumption
    | with_reducible apply State.inc_within
    | with_reducible apply State.release_within
    | intro _
    | refine fst_within (by assumption) ?_
    | refine snd_within (by assumption) ?_
    | split
    | dsimp only


theorem State.twnCmd_within {s : State} (h : s.Within K sB) (ag : Agent) (k : State → State) (hk : ∀ t : State, t.Within K sB → (k t).Within K sB) (k_words : K .words := by assumption) (k_ctrs : K .ctrs := by assumption) (k_free : K .free := by assumption) (k_flt : K .flt := by assumption) (k_tly : K .tly := by assumption) : (State.twnCmd s ag k).Within K sB := by
  unfold State.twnCmd
  repeat' first
    | with_reducible exact h
    | with_reducible assumption
    | with_reducible apply State.gate_within
    | with_reducible apply State.deny_within
    | with_reducible apply hk
    | intro _
    | refine fst_within (by assumption) ?_
    | refine snd_within (by assumption) ?_
    | split
    | dsimp only


theorem State.takeCmd_within {s : State} (h : s.Within K sB) (force : Bool) (k_words : K .words := by assumption) (k_ctrs : K .ctrs := by assumption) (k_flt : K .flt := by assumption) (k_pon : K .pon := by assumption) (k_act : K .act := by assumption) (k_cpg : K .cpg := by assumption) (k_keys : K .keys := by assumption) (k_pm : K .pm := by assumption) (k_stw : K .stw := by assumption) (k_twn : K .twn := by assumption) (k_hrl : K .hrl := by assumption) (k_tly : K .tly := by assumption) (k_hst : K .hst := by assumption) : (State.takeCmd s force).Within K sB := by
  unfold State.takeCmd
  repeat' first
    | with_reducible exact h
    | with_reducible assumption
    | simp only [↓within_twn k_twn]
    | with_reducible apply State.twnDone_within
    | with_reducible apply State.inc_within
    | with_reducible apply State.takeWarm_within
    | with_reducible apply State.takeCold_within
    | with_reducible apply State.wr_within
    | with_reducible apply State.twinSend_within
    | intro _
    | refine fst_within (by assumption) ?_
    | refine snd_within (by assumption) ?_
    | split
    | dsimp only


theorem execTake_within {s : State} (h : s.Within K sB) (ag : Agent) (v : Word) (k_words : K .words := by assumption) (k_ctrs : K .ctrs := by assumption) (k_free : K .free := by assumption) (k_flt : K .flt := by assumption) (k_pon : K .pon := by assumption) (k_act : K .act := by assumption) (k_cpg : K .cpg := by assumption) (k_keys : K .keys := by assumption) (k_pm : K .pm := by assumption) (k_stw : K .stw := by assumption) (k_twn : K .twn := by assumption) (k_hrl : K .hrl := by assumption) (k_tly : K .tly := by assumption) (k_hst : K .hst := by assumption) : Completes (execTake ag v s) (fun t => t.Within K sB) := by
  unfold execTake
  repeat' first
    | with_reducible refine completes_within _ ?_
    | with_reducible exact h
    | with_reducible assumption
    | with_reducible apply ok_within
    | with_reducible apply State.twnCmd_within
    | with_reducible apply State.takeCmd_within
    | intro _
    | refine fst_within (by assumption) ?_
    | refine snd_within (by assumption) ?_
    | split
    | dsimp only


theorem State.coverBack_within {s : State} (h : s.Within K sB) (k_words : K .words := by assumption) (k_ctrs : K .ctrs := by assumption) (k_flt : K .flt := by assumption) (k_pon : K .pon := by assumption) (k_act : K .act := by assumption) (k_cpg : K .cpg := by assumption) (k_keys : K .keys := by assumption) (k_pm : K .pm := by assumption) (k_stw : K .stw := by assumption) (k_twn : K .twn := by assumption) (k_hrl : K .hrl := by assumption) (k_tly : K .tly := by assumption) (k_hst : K .hst := by assumption) : (State.coverBack s).Within K sB := by
  unfold State.coverBack
  repeat' first
    | with_reducible exact h
    | with_reducible assumption
    | simp only [↓within_twn k_twn]
    | with_reducible apply State.wr_within
    | with_reducible apply State.takeCmd_within
    | intro _
    | refine fst_within (by assumption) ?_
    | refine snd_within (by assumption) ?_
    | split
    | dsimp only


theorem execGive_within {s : State} (h : s.Within K sB) (ag : Agent) (v : Word) (k_words : K .words := by assumption) (k_ctrs : K .ctrs := by assumption) (k_free : K .free := by assumption) (k_flt : K .flt := by assumption) (k_twn : K .twn := by assumption) (k_tly : K .tly := by assumption) (k_hst : K .hst := by assumption) : Completes (execGive ag v s) (fun t => t.Within K sB) := by
  unfold execGive
  repeat' first
    | with_reducible refine completes_within _ ?_
    | with_reducible exact h
    | with_reducible assumption
    | with_reducible apply ok_within
    | with_reducible apply State.twnCmd_within
    | with_reducible apply State.twnDone_within
    | with_reducible apply State.inc_within
    | with_reducible apply State.wr_within
    | with_reducible apply State.release_within
    | intro _
    | refine fst_within (by assumption) ?_
    | refine snd_within (by assumption) ?_
    | split
    | dsimp only


theorem State.endRelease_within {s : State} (h : s.Within K sB) (r : Rel) (code : Nat) (k_words : K .words := by assumption) (k_twn : K .twn := by assumption) (k_hst : K .hst := by assumption) : (State.endRelease s r code).Within K sB := by
  unfold State.endRelease
  repeat' first
    | with_reducible exact h
    | with_reducible assumption
    | simp only [↓within_twn k_twn]
    | with_reducible apply State.twnDone_within
    | intro _
    | refine fst_within (by assumption) ?_
    | refine snd_within (by assumption) ?_
    | split
    | dsimp only


theorem State.tauSample_within {s : State} (h : s.Within K sB) (t : Int × Int × Int × Int) (k_words : K .words := by assumption) (k_twn : K .twn := by assumption) : (State.tauSample s t).Within K sB := by
  unfold State.tauSample
  repeat' first
    | with_reducible exact h
    | with_reducible assumption
    | simp only [↓within_twn k_twn]
    | with_reducible apply State.drop_within
    | with_reducible apply State.wr_within
    | with_reducible apply foldl_within
    | intro _
    | refine fst_within (by assumption) ?_
    | refine snd_within (by assumption) ?_
    | split
    | dsimp only


theorem State.provisionShadow_within {s : State} (h : s.Within K sB) (p : Fin 32) (i : Nat) (k_words : K .words := by assumption) (k_ctrs : K .ctrs := by assumption) (k_flt : K .flt := by assumption) (k_cpg : K .cpg := by assumption) (k_stw : K .stw := by assumption) (k_tly : K .tly := by assumption) : (State.provisionShadow s p i).Within K sB := by
  unfold State.provisionShadow
  repeat' first
    | with_reducible exact h
    | with_reducible assumption
    | with_reducible apply State.applyRecs_within
    | intro _
    | refine fst_within (by assumption) ?_
    | refine snd_within (by assumption) ?_
    | split
    | dsimp only


end Sys2Proof.Machine
end

