-- ==== Sys2Proof/Laws/WithinLaneOps.lean ====
section
/-! SUPPORT. Generated: the parts of the state that the operations of Machine/LaneOps.lean leave alone. -/

namespace Sys2Proof.Machine

set_option autoImplicit false
set_option Elab.async false
set_option linter.unusedTactic false
set_option linter.unreachableTactic false
set_option linter.unusedSimpArgs false
set_option linter.unusedVariables false

variable {K : Part → Prop} {sB : State}

theorem State.setLane_within {s : State} (h : s.Within K sB) (n : Nat) (x : Lane) (k_shl : K .shl := by assumption) : (State.setLane s n x).Within K sB := by
  unfold State.setLane
  repeat' first
    | with_reducible exact h
    | with_reducible assumption
    | simp only [↓within_shl k_shl]
    | intro _
    | refine fst_within (by assumption) ?_
    | refine snd_within (by assumption) ?_
    | split
    | dsimp only


theorem State.freshNonce_within {s : State} (h : s.Within K sB) (k_free : K .free := by assumption) : (State.freshNonce s).2.Within K sB := by
  unfold State.freshNonce
  repeat' first
    | with_reducible exact h
    | with_reducible assumption
    | with_reducible apply State.takeFree_within
    | intro _
    | refine fst_within (by assumption) ?_
    | refine snd_within (by assumption) ?_
    | split
    | dsimp only


end Sys2Proof.Machine
end

