-- ==== Sys2Proof/Laws/WithinPace.lean ====
section
/-! SUPPORT. Generated: the parts of the state that the operations of Machine/Pace.lean leave alone. -/

namespace Sys2Proof.Machine

set_option autoImplicit false
set_option Elab.async false
set_option linter.unusedTactic false
set_option linter.unreachableTactic false
set_option linter.unusedSimpArgs false
set_option linter.unusedVariables false

variable {K : Part → Prop} {sB : State}

theorem State.paceCause_within {s : State} (h : s.Within K sB) (k : Kind) (src : Source) (on : Bool) (filt inst : Nat) (k_flt : K .flt := by assumption) : (State.paceCause s k src on filt inst).Within K sB := by
  unfold State.paceCause
  repeat' first
    | with_reducible exact h
    | with_reducible assumption
    | with_reducible apply State.onset_within
    | with_reducible apply State.endCause_within
    | intro _
    | refine fst_within (by assumption) ?_
    | refine snd_within (by assumption) ?_
    | split
    | dsimp only


theorem State.pace_within {s : State} (h : s.Within K sB) (reads : List Nat) (whf : Nat) (k_words : K .words := by assumption) (k_flt : K .flt := by assumption) (k_fwd : K .fwd := by assumption) : (State.pace s reads whf).Within K sB := by
  unfold State.pace
  repeat' first
    | with_reducible exact h
    | with_reducible assumption
    | simp only [↓within_fwd k_fwd]
    | with_reducible apply State.wr_within
    | with_reducible apply State.paceCause_within
    | with_reducible apply foldl_within
    | intro _
    | refine fst_within (by assumption) ?_
    | refine snd_within (by assumption) ?_
    | split
    | dsimp only


theorem State.setAdm_within {s : State} (h : s.Within K sB) (n : Nat) (x : AdmSrc) (k_fwd : K .fwd := by assumption) : (State.setAdm s n x).Within K sB := by
  unfold State.setAdm
  repeat' first
    | with_reducible exact h
    | with_reducible assumption
    | simp only [↓within_fwd k_fwd]
    | intro _
    | refine fst_within (by assumption) ?_
    | refine snd_within (by assumption) ?_
    | split
    | dsimp only


theorem State.admitNext_within {s : State} (h : s.Within K sB) (n b : Nat) (k_words : K .words := by assumption) (k_flt : K .flt := by assumption) (k_fwd : K .fwd := by assumption) : (State.admitNext s n b).Within K sB := by
  unfold State.admitNext
  repeat' first
    | with_reducible exact h
    | with_reducible assumption
    | with_reducible apply State.wr_within
    | with_reducible apply State.raise_within
    | with_reducible apply State.setAdm_within
    | intro _
    | refine fst_within (by assumption) ?_
    | refine snd_within (by assumption) ?_
    | split
    | dsimp only


theorem State.admission_within {s : State} (h : s.Within K sB) (k_words : K .words := by assumption) (k_flt : K .flt := by assumption) (k_fwd : K .fwd := by assumption) : (State.admission s).Within K sB := by
  unfold State.admission
  repeat' first
    | with_reducible exact h
    | with_reducible assumption
    | with_reducible apply State.admitNext_within
    | with_reducible apply foldl_within
    | intro _
    | refine fst_within (by assumption) ?_
    | refine snd_within (by assumption) ?_
    | split
    | dsimp only


theorem State.admits_within {s : State} (h : s.Within K sB) (n c : Nat) (k_ctrs : K .ctrs := by assumption) (k_fwd : K .fwd := by assumption) (k_tly : K .tly := by assumption) : (State.admits s n c).1.Within K sB := by
  unfold State.admits
  repeat' first
    | with_reducible exact h
    | with_reducible assumption
    | with_reducible apply State.setAdm_within
    | with_reducible apply State.inc_within
    | intro _
    | refine fst_within (by assumption) ?_
    | refine snd_within (by assumption) ?_
    | split
    | dsimp only


end Sys2Proof.Machine
end

