-- ==== Sys2Proof/Laws/WithinLedger.lean ====
section
/-! SUPPORT. Generated: the parts of the state that the operations of Machine/Ledger.lean leave alone. -/

namespace Sys2Proof.Machine

set_option autoImplicit false
set_option Elab.async false
set_option linter.unusedTactic false
set_option linter.unreachableTactic false
set_option linter.unusedSimpArgs false
set_option linter.unusedVariables false

variable {K : Part → Prop} {sB : State}

theorem State.fresh_within {s : State} (h : s.Within K sB) (k_free : K .free := by assumption) : (State.fresh s).2.Within K sB := by
  unfold State.fresh
  repeat' first
    | with_reducible exact h
    | with_reducible assumption
    | simp only [↓within_free k_free]
    | intro _
    | refine fst_within (by assumption) ?_
    | refine snd_within (by assumption) ?_
    | split
    | dsimp only


theorem State.setRow_within {s : State} (h : s.Within K sB) (i : Nat) (e : Option LEnt) (k_ldg : K .ldg := by assumption) : (State.setRow s i e).Within K sB := by
  unfold State.setRow
  repeat' first
    | with_reducible exact h
    | with_reducible assumption
    | simp only [↓within_ldg k_ldg]
    | intro _
    | refine fst_within (by assumption) ?_
    | refine snd_within (by assumption) ?_
    | split
    | dsimp only


theorem State.setCell_within {s : State} (h : s.Within K sB) (i : Nat) (e : Option Cell) (k_ldg : K .ldg := by assumption) : (State.setCell s i e).Within K sB := by
  unfold State.setCell
  repeat' first
    | with_reducible exact h
    | with_reducible assumption
    | simp only [↓within_ldg k_ldg]
    | intro _
    | refine fst_within (by assumption) ?_
    | refine snd_within (by assumption) ?_
    | split
    | dsimp only


theorem State.storeLive_within {s : State} (h : s.Within K sB) (k_words : K .words := by assumption) : (State.storeLive s).Within K sB := by
  unfold State.storeLive
  repeat' first
    | with_reducible exact h
    | with_reducible assumption
    | with_reducible apply State.wr_within
    | intro _
    | refine fst_within (by assumption) ?_
    | refine snd_within (by assumption) ?_
    | split
    | dsimp only


theorem State.epochRef_within {s : State} (h : s.Within K sB) (e : Nat) (k_words : K .words := by assumption) : (State.epochRef s e).Within K sB := by
  unfold State.epochRef
  repeat' first
    | with_reducible exact h
    | with_reducible assumption
    | with_reducible apply State.wr_within
    | intro _
    | refine fst_within (by assumption) ?_
    | refine snd_within (by assumption) ?_
    | split
    | dsimp only


theorem State.epochUnref_within {s : State} (h : s.Within K sB) (e : Nat) (k_words : K .words := by assumption) : (State.epochUnref s e).Within K sB := by
  unfold State.epochUnref
  repeat' first
    | with_reducible exact h
    | with_reducible assumption
    | with_reducible apply State.wr_within
    | intro _
    | refine fst_within (by assumption) ?_
    | refine snd_within (by assumption) ?_
    | split
    | dsimp only


theorem State.countLookup_within {s : State} (h : s.Within K sB) (r : LRes) (banks : Nat) (k_ctrs : K .ctrs := by assumption) (k_tly : K .tly := by assumption) : (State.countLookup s r banks).Within K sB := by
  unfold State.countLookup
  repeat' first
    | with_reducible exact h
    | with_reducible assumption
    | with_reducible apply State.inc_within
    | with_reducible apply State.count_within
    | intro _
    | refine fst_within (by assumption) ?_
    | refine snd_within (by assumption) ?_
    | split
    | dsimp only


theorem State.fixRow_within {s : State} (h : s.Within K sB) (row : Nat) (k_ctrs : K .ctrs := by assumption) (k_flt : K .flt := by assumption) (k_tly : K .tly := by assumption) : (State.fixRow s row).Within K sB := by
  unfold State.fixRow
  repeat' first
    | with_reducible exact h
    | with_reducible assumption
    | with_reducible apply State.inc_within
    | with_reducible apply State.raise_within
    | intro _
    | refine fst_within (by assumption) ?_
    | refine snd_within (by assumption) ?_
    | split
    | dsimp only


theorem State.ldgLookup_within {s : State} (h : s.Within K sB) (p : Nat) (key : List Byte) (epoch : Nat) (upset : Option Nat) (k_ctrs : K .ctrs := by assumption) (k_flt : K .flt := by assumption) (k_tly : K .tly := by assumption) : (State.ldgLookup s p key epoch upset).1.Within K sB := by
  unfold State.ldgLookup
  repeat' first
    | with_reducible exact h
    | with_reducible assumption
    | with_reducible apply State.fixRow_within
    | with_reducible apply State.countLookup_within
    | intro _
    | refine fst_within (by assumption) ?_
    | refine snd_within (by assumption) ?_
    | split
    | dsimp only


theorem State.cellEcc_within {s : State} (h : s.Within K sB) (i : Nat) (uncorr : Bool) (k_ctrs : K .ctrs := by assumption) (k_flt : K .flt := by assumption) (k_ldg : K .ldg := by assumption) (k_tly : K .tly := by assumption) : (State.cellEcc s i uncorr).Within K sB := by
  unfold State.cellEcc
  repeat' first
    | with_reducible exact h
    | with_reducible assumption
    | with_reducible apply State.setCell_within
    | with_reducible apply State.raise_within
    | with_reducible apply State.inc_within
    | intro _
    | refine fst_within (by assumption) ?_
    | refine snd_within (by assumption) ?_
    | split
    | dsimp only


theorem State.cellsEcc_within {s : State} (h : s.Within K sB) (ecc : List (Nat × Bool)) (k_ctrs : K .ctrs := by assumption) (k_flt : K .flt := by assumption) (k_ldg : K .ldg := by assumption) (k_tly : K .tly := by assumption) : (State.cellsEcc s ecc).Within K sB := by
  unfold State.cellsEcc
  repeat' first
    | with_reducible exact h
    | with_reducible assumption
    | with_reducible apply State.cellEcc_within
    | with_reducible apply foldl_within
    | intro _
    | refine fst_within (by assumption) ?_
    | refine snd_within (by assumption) ?_
    | split
    | dsimp only


theorem State.exmLookup_within {s : State} (h : s.Within K sB) (p : Nat) (key : List Byte) (epoch : Nat) (ecc : List (Nat × Bool)) (k_ctrs : K .ctrs := by assumption) (k_flt : K .flt := by assumption) (k_ldg : K .ldg := by assumption) (k_tly : K .tly := by assumption) : (State.exmLookup s p key epoch ecc).1.Within K sB := by
  unfold State.exmLookup
  repeat' first
    | with_reducible exact h
    | with_reducible assumption
    | with_reducible apply State.cellsEcc_within
    | with_reducible apply State.countLookup_within
    | intro _
    | refine fst_within (by assumption) ?_
    | refine snd_within (by assumption) ?_
    | split
    | dsimp only


theorem State.moveRow_within {s : State} (h : s.Within K sB) (src dst : Nat) (k_ldg : K .ldg := by assumption) : (State.moveRow s src dst).Within K sB := by
  unfold State.moveRow
  repeat' first
    | with_reducible exact h
    | with_reducible assumption
    | with_reducible apply State.setRow_within
    | intro _
    | refine fst_within (by assumption) ?_
    | refine snd_within (by assumption) ?_
    | split
    | dsimp only


theorem State.displace_within {s : State} (h : s.Within K sB) (l : List Nat) (k_ctrs : K .ctrs := by assumption) (k_ldg : K .ldg := by assumption) (k_tly : K .tly := by assumption) : (State.displace s l).Within K sB := by
  induction l generalizing s with
  | nil => exact h
  | cons a l ih =>
    cases l with
    | nil => exact h
    | cons b t => exact State.inc_within (State.setCell_within (State.setCell_within (ih h) ..) ..) ..


theorem State.wayPlace_within {s : State} (h : s.Within K sB) (table : Nat) (key : List Byte) (k_ctrs : K .ctrs := by assumption) (k_free : K .free := by assumption) (k_ldg : K .ldg := by assumption) (k_tly : K .tly := by assumption) : (State.wayPlace s table key).1.Within K sB := by
  unfold State.wayPlace
  repeat' first
    | with_reducible exact h
    | with_reducible assumption
    | simp only [↓within_free k_free]
    | with_reducible apply State.displace_within
    | intro _
    | refine fst_within (by assumption) ?_
    | refine snd_within (by assumption) ?_
    | split
    | dsimp only


theorem State.stashHigh_within {s : State} (h : s.Within K sB) (k_flt : K .flt := by assumption) : (State.stashHigh s).Within K sB := by
  unfold State.stashHigh
  repeat' first
    | with_reducible exact h
    | with_reducible assumption
    | with_reducible apply State.raiseLimited_within
    | intro _
    | refine fst_within (by assumption) ?_
    | refine snd_within (by assumption) ?_
    | split
    | dsimp only


theorem State.drainStash_within {s : State} (h : s.Within K sB) (i : Nat) (k_ctrs : K .ctrs := by assumption) (k_free : K .free := by assumption) (k_ldg : K .ldg := by assumption) (k_tly : K .tly := by assumption) : (State.drainStash s i).Within K sB := by
  unfold State.drainStash
  repeat' first
    | with_reducible exact h
    | with_reducible assumption
    | with_reducible apply State.wayPlace_within
    | with_reducible apply State.setCell_within
    | with_reducible apply State.inc_within
    | intro _
    | refine fst_within (by assumption) ?_
    | refine snd_within (by assumption) ?_
    | split
    | dsimp only


theorem State.ldgDone_within {s : State} (h : s.Within K sB) (k : Nat) (c : LCode) (i : Option Nat) (k_words : K .words := by assumption) (k_ctrs : K .ctrs := by assumption) (k_free : K .free := by assumption) (k_tly : K .tly := by assumption) (k_hst : K .hst := by assumption) : (State.ldgDone s k c i).Within K sB := by
  unfold State.ldgDone
  repeat' first
    | with_reducible exact h
    | with_reducible assumption
    | with_reducible apply ok_within
    | with_reducible apply State.inc_within
    | with_reducible apply State.msi_within
    | with_reducible apply State.wr_within
    | with_reducible apply State.fresh_within
    | intro _
    | refine fst_within (by assumption) ?_
    | refine snd_within (by assumption) ?_
    | split
    | dsimp only


theorem State.doWrite_within {s : State} (h : s.Within K sB) (k : Nat) (v : Word) (k_words : K .words := by assumption) (k_ctrs : K .ctrs := by assumption) (k_free : K .free := by assumption) (k_ldg : K .ldg := by assumption) (k_tly : K .tly := by assumption) (k_hst : K .hst := by assumption) : (State.doWrite s k v).Within K sB := by
  unfold State.doWrite
  repeat' first
    | with_reducible exact h
    | with_reducible assumption
    | with_reducible apply State.ldgDone_within
    | with_reducible apply State.setRow_within
    | with_reducible apply State.inc_within
    | with_reducible apply ok_within
    | intro _
    | refine fst_within (by assumption) ?_
    | refine snd_within (by assumption) ?_
    | split
    | dsimp only


theorem State.insFinish_within {s : State} (h : s.Within K sB) (j : InsJob) (k_words : K .words := by assumption) (k_ctrs : K .ctrs := by assumption) (k_free : K .free := by assumption) (k_ldg : K .ldg := by assumption) (k_tly : K .tly := by assumption) (k_hst : K .hst := by assumption) : (State.insFinish s j).Within K sB := by
  unfold State.insFinish
  repeat' first
    | with_reducible exact h
    | with_reducible assumption
    | with_reducible apply State.setRow_within
    | with_reducible apply State.inc_within
    | with_reducible apply State.ldgDone_within
    | with_reducible apply ok_within
    | intro _
    | refine fst_within (by assumption) ?_
    | refine snd_within (by assumption) ?_
    | split
    | dsimp only


theorem State.doInsert_within {s : State} (h : s.Within K sB) (k : Nat) (v : Word) (k_words : K .words := by assumption) (k_ctrs : K .ctrs := by assumption) (k_free : K .free := by assumption) (k_ldg : K .ldg := by assumption) (k_tly : K .tly := by assumption) (k_hst : K .hst := by assumption) : (State.doInsert s k v).Within K sB := by
  unfold State.doInsert
  repeat' first
    | with_reducible exact h
    | with_reducible assumption
    | simp only [↓within_ldg k_ldg]
    | with_reducible apply State.ldgDone_within
    | with_reducible apply State.insFinish_within
    | intro _
    | refine fst_within (by assumption) ?_
    | refine snd_within (by assumption) ?_
    | split
    | dsimp only


theorem State.doDelete_within {s : State} (h : s.Within K sB) (k : Nat) (v : Word) (k_words : K .words := by assumption) (k_ctrs : K .ctrs := by assumption) (k_free : K .free := by assumption) (k_ldg : K .ldg := by assumption) (k_tly : K .tly := by assumption) (k_hst : K .hst := by assumption) : (State.doDelete s k v).Within K sB := by
  unfold State.doDelete
  repeat' first
    | with_reducible exact h
    | with_reducible assumption
    | with_reducible apply State.ldgDone_within
    | with_reducible apply State.setCell_within
    | with_reducible apply State.inc_within
    | with_reducible apply ok_within
    | with_reducible apply State.setRow_within
    | intro _
    | refine fst_within (by assumption) ?_
    | refine snd_within (by assumption) ?_
    | split
    | dsimp only


theorem State.doModify_within {s : State} (h : s.Within K sB) (k : Nat) (v : Word) (k_words : K .words := by assumption) (k_ctrs : K .ctrs := by assumption) (k_free : K .free := by assumption) (k_ldg : K .ldg := by assumption) (k_tly : K .tly := by assumption) (k_hst : K .hst := by assumption) : (State.doModify s k v).Within K sB := by
  unfold State.doModify
  repeat' first
    | with_reducible exact h
    | with_reducible assumption
    | with_reducible apply State.ldgDone_within
    | with_reducible apply State.setCell_within
    | with_reducible apply ok_within
    | with_reducible apply State.setRow_within
    | intro _
    | refine fst_within (by assumption) ?_
    | refine snd_within (by assumption) ?_
    | split
    | dsimp only


theorem State.doAdd_within {s : State} (h : s.Within K sB) (k : Nat) (v : Word) (k_words : K .words := by assumption) (k_ctrs : K .ctrs := by assumption) (k_free : K .free := by assumption) (k_flt : K .flt := by assumption) (k_ldg : K .ldg := by assumption) (k_tly : K .tly := by assumption) (k_hst : K .hst := by assumption) : (State.doAdd s k v).Within K sB := by
  unfold State.doAdd
  repeat' first
    | with_reducible exact h
    | with_reducible assumption
    | with_reducible apply State.ldgDone_within
    | with_reducible apply State.wayPlace_within
    | with_reducible apply State.setCell_within
    | with_reducible apply State.inc_within
    | with_reducible apply ok_within
    | with_reducible apply State.stashHigh_within
    | intro _
    | refine fst_within (by assumption) ?_
    | refine snd_within (by assumption) ?_
    | split
    | dsimp only


theorem State.doLookup_within {s : State} (h : s.Within K sB) (k : Nat) (v : Word) (rd : Reads) (k_words : K .words := by assumption) (k_ctrs : K .ctrs := by assumption) (k_free : K .free := by assumption) (k_flt : K .flt := by assumption) (k_ldg : K .ldg := by assumption) (k_tly : K .tly := by assumption) (k_hst : K .hst := by assumption) : (State.doLookup s k v rd).Within K sB := by
  unfold State.doLookup
  repeat' first
    | with_reducible exact h
    | with_reducible assumption
    | with_reducible apply State.exmLookup_within
    | with_reducible apply State.ldgLookup_within
    | with_reducible apply State.ldgDone_within
    | with_reducible apply State.putWord_within
    | with_reducible apply ok_within
    | intro _
    | refine fst_within (by assumption) ?_
    | refine snd_within (by assumption) ?_
    | split
    | dsimp only


theorem State.doOpen_within {s : State} (h : s.Within K sB) (k : Nat) (k_words : K .words := by assumption) (k_ctrs : K .ctrs := by assumption) (k_free : K .free := by assumption) (k_tly : K .tly := by assumption) (k_hst : K .hst := by assumption) : (State.doOpen s k).Within K sB := by
  unfold State.doOpen
  repeat' first
    | with_reducible exact h
    | with_reducible assumption
    | with_reducible apply State.ldgDone_within
    | with_reducible apply State.wr_within
    | with_reducible apply State.storeLive_within
    | with_reducible apply ok_within
    | intro _
    | refine fst_within (by assumption) ?_
    | refine snd_within (by assumption) ?_
    | split
    | dsimp only


theorem State.doPublish_within {s : State} (h : s.Within K sB) (k : Nat) (k_words : K .words := by assumption) (k_ctrs : K .ctrs := by assumption) (k_free : K .free := by assumption) (k_ldg : K .ldg := by assumption) (k_tly : K .tly := by assumption) (k_hst : K .hst := by assumption) : (State.doPublish s k).Within K sB := by
  unfold State.doPublish
  repeat' first
    | with_reducible exact h
    | with_reducible assumption
    | simp only [↓within_ldg k_ldg]
    | with_reducible apply State.ldgDone_within
    | with_reducible apply State.wr_within
    | with_reducible apply State.storeLive_within
    | with_reducible apply ok_within
    | intro _
    | refine fst_within (by assumption) ?_
    | refine snd_within (by assumption) ?_
    | split
    | dsimp only


theorem State.doDiscard_within {s : State} (h : s.Within K sB) (k : Nat) (k_words : K .words := by assumption) (k_ctrs : K .ctrs := by assumption) (k_free : K .free := by assumption) (k_ldg : K .ldg := by assumption) (k_tly : K .tly := by assumption) (k_hst : K .hst := by assumption) : (State.doDiscard s k).Within K sB := by
  unfold State.doDiscard
  repeat' first
    | with_reducible exact h
    | with_reducible assumption
    | simp only [↓within_ldg k_ldg]
    | with_reducible apply State.ldgDone_within
    | with_reducible apply State.wr_within
    | with_reducible apply State.storeLive_within
    | intro _
    | refine fst_within (by assumption) ?_
    | refine snd_within (by assumption) ?_
    | split
    | dsimp only


theorem State.ldgRun_within {s : State} (h : s.Within K sB) (k : Nat) (v : Word) (rd : Reads) (k_words : K .words := by assumption) (k_ctrs : K .ctrs := by assumption) (k_free : K .free := by assumption) (k_flt : K .flt := by assumption) (k_ldg : K .ldg := by assumption) (k_tly : K .tly := by assumption) (k_hst : K .hst := by assumption) : (State.ldgRun s k v rd).Within K sB := by
  unfold State.ldgRun
  repeat' first
    | with_reducible exact h
    | with_reducible assumption
    | with_reducible apply State.cellsEcc_within
    | with_reducible apply State.doWrite_within
    | with_reducible apply State.doInsert_within
    | with_reducible apply State.doDelete_within
    | with_reducible apply State.doModify_within
    | with_reducible apply State.doAdd_within
    | with_reducible apply State.doLookup_within
    | with_reducible apply State.doOpen_within
    | with_reducible apply State.doPublish_within
    | with_reducible apply State.doDiscard_within
    | intro _
    | refine fst_within (by assumption) ?_
    | refine snd_within (by assumption) ?_
    | split
    | dsimp only


theorem State.retireStart_within {s : State} (h : s.Within K sB) (k_words : K .words := by assumption) (k_ldg : K .ldg := by assumption) : (State.retireStart s).Within K sB := by
  unfold State.retireStart
  repeat' first
    | with_reducible exact h
    | with_reducible assumption
    | simp only [↓within_ldg k_ldg]
    | with_reducible apply State.wr_within
    | intro _
    | refine fst_within (by assumption) ?_
    | refine snd_within (by assumption) ?_
    | split
    | dsimp only


theorem State.ldgNext_within {s : State} (h : s.Within K sB) (k_words : K .words := by assumption) (k_ctrs : K .ctrs := by assumption) (k_free : K .free := by assumption) (k_flt : K .flt := by assumption) (k_ldg : K .ldg := by assumption) (k_tly : K .tly := by assumption) (k_hst : K .hst := by assumption) : (State.ldgNext s).Within K sB := by
  unfold State.ldgNext
  repeat' first
    | with_reducible exact h
    | with_reducible assumption
    | simp only [↓within_ldg k_ldg]
    | with_reducible apply State.retireStart_within
    | with_reducible apply State.ldgRun_within
    | intro _
    | refine fst_within (by assumption) ?_
    | refine snd_within (by assumption) ?_
    | split
    | dsimp only


theorem State.ldgIssue_within {s : State} (h : s.Within K sB) (ag : Agent) (k : Nat) (v : Word) (rd : Reads) (k_words : K .words := by assumption) (k_ctrs : K .ctrs := by assumption) (k_free : K .free := by assumption) (k_flt : K .flt := by assumption) (k_ldg : K .ldg := by assumption) (k_tly : K .tly := by assumption) (k_hst : K .hst := by assumption) : (State.ldgIssue s ag k v rd).Within K sB := by
  unfold State.ldgIssue
  repeat' first
    | with_reducible exact h
    | with_reducible assumption
    | simp only [↓within_ldg k_ldg]
    | with_reducible apply State.deny_within
    | with_reducible apply State.wr_within
    | with_reducible apply State.ldgRun_within
    | intro _
    | refine fst_within (by assumption) ?_
    | refine snd_within (by assumption) ?_
    | split
    | dsimp only


theorem State.ldgCmd_within {s : State} (h : s.Within K sB) (ag : Agent) (k : Nat) (op : Nat) (v : Word) (rd : Reads) (k_words : K .words := by assumption) (k_ctrs : K .ctrs := by assumption) (k_free : K .free := by assumption) (k_flt : K .flt := by assumption) (k_ldg : K .ldg := by assumption) (k_tly : K .tly := by assumption) (k_hst : K .hst := by assumption) : (State.ldgCmd s ag k op v rd).Within K sB := by
  unfold State.ldgCmd
  repeat' first
    | with_reducible exact h
    | with_reducible assumption
    | with_reducible apply State.gate_within
    | with_reducible apply State.ldgIssue_within
    | intro _
    | refine fst_within (by assumption) ?_
    | refine snd_within (by assumption) ?_
    | split
    | dsimp only


theorem State.sweepAll_within {s : State} (h : s.Within K sB) (f : Life → Option Life) (k_ldg : K .ldg := by assumption) : (State.sweepAll s f).Within K sB := by
  unfold State.sweepAll
  repeat' first
    | with_reducible exact h
    | with_reducible assumption
    | simp only [↓within_ldg k_ldg]
    | intro _
    | refine fst_within (by assumption) ?_
    | refine snd_within (by assumption) ?_
    | split
    | dsimp only


end Sys2Proof.Machine
end

