-- ==== Sys2Proof/Laws/WithinForward.lean ====
section
/-! SUPPORT. Generated: the parts of the state that the operations of Machine/Forward.lean leave alone. -/

namespace Sys2Proof.Machine

set_option autoImplicit false
set_option Elab.async false
set_option linter.unusedTactic false
set_option linter.unreachableTactic false
set_option linter.unusedSimpArgs false
set_option linter.unusedVariables false

variable {K : Part → Prop} {sB : State}

theorem State.create_within {s : State} (h : s.Within K sB) (src : Nat) (up : Bool) (onu ctx : Nat) (fr : List Byte) (x : Parsed) (k_words : K .words := by assumption) (k_ctrs : K .ctrs := by assumption) (k_free : K .free := by assumption) (k_flt : K .flt := by assumption) (k_cpg : K .cpg := by assumption) (k_fwd : K .fwd := by assumption) (k_tly : K .tly := by assumption) : (State.create s src up onu ctx fr x).Within K sB := by
  unfold State.create
  repeat' first
    | with_reducible exact h
    | with_reducible assumption
    | simp only [↓within_fwd k_fwd]
    | with_reducible apply State.newBuf_within
    | with_reducible apply State.noBuf_within
    | with_reducible apply State.epochRef_within
    | intro _
    | refine fst_within (by assumption) ?_
    | refine snd_within (by assumption) ?_
    | split
    | dsimp only


theorem State.overrun_within {s : State} (h : s.Within K sB) (src : Source) (addr : Nat) (k_flt : K .flt := by assumption) (k_fwd : K .fwd := by assumption) : (State.overrun s src addr).Within K sB := by
  unfold State.overrun
  repeat' first
    | with_reducible exact h
    | with_reducible assumption
    | simp only [↓within_fwd k_fwd]
    | with_reducible apply State.raise_within
    | intro _
    | refine fst_within (by assumption) ?_
    | refine snd_within (by assumption) ?_
    | split
    | dsimp only


theorem State.intake_within {s : State} (h : s.Within K sB) (n : Nat) (isl : Source) (fr : List Byte) (full : Bool) (x : Parsed) (k_words : K .words := by assumption) (k_ctrs : K .ctrs := by assumption) (k_free : K .free := by assumption) (k_flt : K .flt := by assumption) (k_cpg : K .cpg := by assumption) (k_fwd : K .fwd := by assumption) (k_tly : K .tly := by assumption) : (State.intake s n isl fr full x).Within K sB := by
  unfold State.intake
  repeat' first
    | with_reducible exact h
    | with_reducible assumption
    | with_reducible apply State.inc_within
    | with_reducible apply State.admits_within
    | with_reducible apply State.overrun_within
    | with_reducible apply State.create_within
    | intro _
    | refine fst_within (by assumption) ?_
    | refine snd_within (by assumption) ?_
    | split
    | dsimp only


theorem State.intakeUp_within {s : State} (h : s.Within K sB) (p : Fin 32) (sd onu ctx ctxCls : Nat) (fr : List Byte) (full : Bool) (k_words : K .words := by assumption) (k_ctrs : K .ctrs := by assumption) (k_free : K .free := by assumption) (k_flt : K .flt := by assumption) (k_cpg : K .cpg := by assumption) (k_fwd : K .fwd := by assumption) (k_tly : K .tly := by assumption) : (State.intakeUp s p sd onu ctx ctxCls fr full).Within K sB := by
  unfold State.intakeUp
  repeat' first
    | with_reducible exact h
    | with_reducible assumption
    | with_reducible apply State.overrun_within
    | with_reducible apply State.create_within
    | intro _
    | refine fst_within (by assumption) ?_
    | refine snd_within (by assumption) ?_
    | split
    | dsimp only


theorem State.setFlow_within {s : State} (h : s.Within K sB) (f : Nat) (x : Flow) (k_fwd : K .fwd := by assumption) : (State.setFlow s f x).Within K sB := by
  unfold State.setFlow
  repeat' first
    | with_reducible exact h
    | with_reducible assumption
    | simp only [↓within_fwd k_fwd]
    | intro _
    | refine fst_within (by assumption) ?_
    | refine snd_within (by assumption) ?_
    | split
    | dsimp only


theorem State.setCtx_within {s : State} (h : s.Within K sB) (k : Nat) (x : Option Ctx) (k_eng : K .eng := by assumption) : (State.setCtx s k x).Within K sB := by
  unfold State.setCtx
  repeat' first
    | with_reducible exact h
    | with_reducible assumption
    | simp only [↓within_eng k_eng]
    | intro _
    | refine fst_within (by assumption) ?_
    | refine snd_within (by assumption) ?_
    | split
    | dsimp only


theorem State.setGuild_within {s : State} (h : s.Within K sB) (g : Nat) (x : Guild) (k_eng : K .eng := by assumption) : (State.setGuild s g x).Within K sB := by
  unfold State.setGuild
  repeat' first
    | with_reducible exact h
    | with_reducible assumption
    | simp only [↓within_eng k_eng]
    | intro _
    | refine fst_within (by assumption) ?_
    | refine snd_within (by assumption) ?_
    | split
    | dsimp only


theorem State.markNoGuild_within {s : State} (h : s.Within K sB) (c : Nat) (k_words : K .words := by assumption) (k_flt : K .flt := by assumption) : (State.markNoGuild s c).Within K sB := by
  unfold State.markNoGuild
  repeat' first
    | with_reducible exact h
    | with_reducible assumption
    | with_reducible apply State.wr_within
    | with_reducible apply State.raise_within
    | intro _
    | refine fst_within (by assumption) ?_
    | refine snd_within (by assumption) ?_
    | split
    | dsimp only


theorem State.dropDesc_within {s : State} (h : s.Within K sB) (d : Desc) (k_words : K .words := by assumption) (k_ctrs : K .ctrs := by assumption) (k_flt : K .flt := by assumption) (k_cpg : K .cpg := by assumption) (k_tly : K .tly := by assumption) : (State.dropDesc s d).Within K sB := by
  unfold State.dropDesc
  repeat' first
    | with_reducible exact h
    | with_reducible assumption
    | with_reducible apply State.unref_within
    | with_reducible apply State.epochUnref_within
    | intro _
    | refine fst_within (by assumption) ?_
    | refine snd_within (by assumption) ?_
    | split
    | dsimp only


theorem State.storeInFlight_within {s : State} (h : s.Within K sB) (k_words : K .words := by assumption) : (State.storeInFlight s).Within K sB := by
  unfold State.storeInFlight
  repeat' first
    | with_reducible exact h
    | with_reducible assumption
    | with_reducible apply State.wr_within
    | intro _
    | refine fst_within (by assumption) ?_
    | refine snd_within (by assumption) ?_
    | split
    | dsimp only


theorem State.modFlight_within {s : State} (h : s.Within K sB) (id : Nat) (f : Flight → Flight) (k_fwd : K .fwd := by assumption) : (State.modFlight s id f).Within K sB := by
  unfold State.modFlight
  repeat' first
    | with_reducible exact h
    | with_reducible assumption
    | simp only [↓within_fwd k_fwd]
    | intro _
    | refine fst_within (by assumption) ?_
    | refine snd_within (by assumption) ?_
    | split
    | dsimp only


theorem State.seen_within {s : State} (h : s.Within K sB) (d : Desc) (k_wdn : K .wdn := by assumption) : (State.seen s d).Within K sB := by
  unfold State.seen
  repeat' first
    | with_reducible exact h
    | with_reducible assumption
    | simp only [↓within_wdn k_wdn]
    | intro _
    | refine fst_within (by assumption) ?_
    | refine snd_within (by assumption) ?_
    | split
    | dsimp only


theorem State.startPass_within {s : State} (h : s.Within K sB) (id : Nat) (d : Desc) (at_ : Nat × Nat × Nat) (k_eng : K .eng := by assumption) (k_fwd : K .fwd := by assumption) (k_wdn : K .wdn := by assumption) : (State.startPass s id d at_).Within K sB := by
  unfold State.startPass
  repeat' first
    | with_reducible exact h
    | with_reducible assumption
    | simp only [↓within_fwd k_fwd]
    | with_reducible apply State.setCtx_within
    | with_reducible apply State.setGuild_within
    | with_reducible apply State.seen_within
    | with_reducible apply State.modFlight_within
    | with_reducible apply State.place_within
    | intro _
    | refine fst_within (by assumption) ?_
    | refine snd_within (by assumption) ?_
    | split
    | dsimp only


theorem State.takeNew_within {s : State} (h : s.Within K sB) (d : Desc) (k_words : K .words := by assumption) (k_ctrs : K .ctrs := by assumption) (k_flt : K .flt := by assumption) (k_cpg : K .cpg := by assumption) (k_fwd : K .fwd := by assumption) (k_tly : K .tly := by assumption) : (State.takeNew s d).1.Within K sB := by
  unfold State.takeNew
  repeat' first
    | with_reducible exact h
    | with_reducible assumption
    | simp only [↓within_fwd k_fwd]
    | with_reducible apply State.inc_within
    | with_reducible apply State.dropDesc_within
    | with_reducible apply State.raiseLimited_within
    | with_reducible apply State.issue_within
    | with_reducible apply State.setFlow_within
    | with_reducible apply State.storeInFlight_within
    | intro _
    | refine fst_within (by assumption) ?_
    | refine snd_within (by assumption) ?_
    | split
    | dsimp only


theorem State.forget_within {s : State} (h : s.Within K sB) (id : Nat) (k_fwd : K .fwd := by assumption) : (State.forget s id).Within K sB := by
  unfold State.forget
  repeat' first
    | with_reducible exact h
    | with_reducible assumption
    | simp only [↓within_fwd k_fwd]
    | intro _
    | refine fst_within (by assumption) ?_
    | refine snd_within (by assumption) ?_
    | split
    | dsimp only


theorem State.complete_within {s : State} (h : s.Within K sB) (id : Nat) (d : Desc) (lost : Bool) (k_words : K .words := by assumption) (k_ctrs : K .ctrs := by assumption) (k_flt : K .flt := by assumption) (k_cpg : K .cpg := by assumption) (k_fwd : K .fwd := by assumption) (k_tly : K .tly := by assumption) : (State.complete s id d lost).Within K sB := by
  unfold State.complete
  repeat' first
    | with_reducible exact h
    | with_reducible assumption
    | with_reducible apply State.forget_within
    | with_reducible apply State.inc_within
    | with_reducible apply State.dropDesc_within
    | with_reducible apply State.storeInFlight_within
    | with_reducible apply State.modFlight_within
    | with_reducible apply State.place_within
    | intro _
    | refine fst_within (by assumption) ?_
    | refine snd_within (by assumption) ?_
    | split
    | dsimp only


theorem State.dispatch_within {s : State} (h : s.Within K sB) (pre l : List SrtIn) (k_words : K .words := by assumption) (k_ctrs : K .ctrs := by assumption) (k_flt : K .flt := by assumption) (k_cpg : K .cpg := by assumption) (k_eng : K .eng := by assumption) (k_fwd : K .fwd := by assumption) (k_tly : K .tly := by assumption) (k_wdn : K .wdn := by assumption) : (State.dispatch s pre l).Within K sB := by
  induction l generalizing s pre with
  | nil => exact h
  | cons x l ih =>
    cases x <;> unfold State.dispatch
    all_goals
      repeat' first
        | with_reducible exact h
        | with_reducible assumption
        | with_reducible apply ih
        | simp only [↓within_fwd k_fwd]
        | with_reducible apply State.startPass_within
        | with_reducible apply State.inc_within
        | with_reducible apply State.complete_within
        | with_reducible apply State.takeNew_within
        | with_reducible apply State.markNoGuild_within
        | split
        | dsimp only


theorem State.setExc_within {s : State} (h : s.Within K sB) (k : Nat) (x : ExcBkt) (k_fwd : K .fwd := by assumption) : (State.setExc s k x).Within K sB := by
  unfold State.setExc
  repeat' first
    | with_reducible exact h
    | with_reducible assumption
    | simp only [↓within_fwd k_fwd]
    | intro _
    | refine fst_within (by assumption) ?_
    | refine snd_within (by assumption) ?_
    | split
    | dsimp only


theorem State.excPass_within {s : State} (h : s.Within K sB) (r total rate : Nat) (totalRate totalBurst : Nat) (k_ctrs : K .ctrs := by assumption) (k_fwd : K .fwd := by assumption) (k_tly : K .tly := by assumption) : (State.excPass s r total rate totalRate totalBurst).1.Within K sB := by
  unfold State.excPass
  repeat' first
    | with_reducible exact h
    | with_reducible assumption
    | with_reducible apply State.refill_within
    | with_reducible apply State.setExc_within
    | with_reducible apply State.inc_within
    | intro _
    | refine fst_within (by assumption) ?_
    | refine snd_within (by assumption) ?_
    | split
    | dsimp only


theorem State.toSteward_within {s : State} (h : s.Within K sB) (o : ExcOut) (k_ctrs : K .ctrs := by assumption) (k_flt : K .flt := by assumption) (k_cpg : K .cpg := by assumption) (k_fwd : K .fwd := by assumption) (k_tly : K .tly := by assumption) : (State.toSteward s o).Within K sB := by
  unfold State.toSteward
  repeat' first
    | with_reducible exact h
    | with_reducible assumption
    | simp only [↓within_fwd k_fwd]
    | with_reducible apply State.refill_within
    | with_reducible apply State.setExc_within
    | with_reducible apply State.inc_within
    | with_reducible apply State.unref_within
    | intro _
    | refine fst_within (by assumption) ?_
    | refine snd_within (by assumption) ?_
    | split
    | dsimp only


theorem State.exception_within {s : State} (h : s.Within K sB) (d : Desc) (mirror : Bool) (k_ctrs : K .ctrs := by assumption) (k_flt : K .flt := by assumption) (k_cpg : K .cpg := by assumption) (k_fwd : K .fwd := by assumption) (k_tly : K .tly := by assumption) : (State.exception s d mirror).Within K sB := by
  unfold State.exception
  repeat' first
    | with_reducible exact h
    | with_reducible assumption
    | simp only [↓within_fwd k_fwd]
    | with_reducible apply State.mirror_within
    | with_reducible apply State.excPass_within
    | with_reducible apply State.unref_within
    | with_reducible apply State.inc_within
    | intro _
    | refine fst_within (by assumption) ?_
    | refine snd_within (by assumption) ?_
    | split
    | dsimp only


theorem State.toEnq_within {s : State} (h : s.Within K sB) (x : EnqIn) (k_fwd : K .fwd := by assumption) : (State.toEnq s x).Within K sB := by
  unfold State.toEnq
  repeat' first
    | with_reducible exact h
    | with_reducible assumption
    | simp only [↓within_fwd k_fwd]
    | intro _
    | refine fst_within (by assumption) ?_
    | refine snd_within (by assumption) ?_
    | split
    | dsimp only


theorem State.mirrorCopy_within {s0 : State} (h : s0.Within K sB) (d : Desc) (m : Nat) (yellow : Option Bool) (k_ctrs : K .ctrs := by assumption) (k_flt : K .flt := by assumption) (k_cpg : K .cpg := by assumption) (k_fwd : K .fwd := by assumption) (k_tly : K .tly := by assumption) : (State.mirrorCopy s0 d m yellow).Within K sB := by
  unfold State.mirrorCopy
  repeat' first
    | with_reducible exact h
    | with_reducible assumption
    | with_reducible apply State.inc_within
    | with_reducible apply State.exception_within
    | with_reducible apply State.toEnq_within
    | intro _
    | refine fst_within (by assumption) ?_
    | refine snd_within (by assumption) ?_
    | split
    | dsimp only


theorem State.setRef_within {s : State} (h : s.Within K sB) (h n : Nat) (k_cpg : K .cpg := by assumption) : (State.setRef s h n).Within K sB := by
  unfold State.setRef
  repeat' first
    | with_reducible exact h
    | with_reducible assumption
    | with_reducible apply State.setBuf_within
    | intro _
    | refine fst_within (by assumption) ?_
    | refine snd_within (by assumption) ?_
    | split
    | dsimp only


theorem State.treeBufs_within {s : State} (h : s.Within K sB) (d : Desc) (bytes : List Byte) (n left : Nat) (k_ctrs : K .ctrs := by assumption) (k_free : K .free := by assumption) (k_flt : K .flt := by assumption) (k_cpg : K .cpg := by assumption) (k_tly : K .tly := by assumption) :
    (State.treeBufs s d bytes n left).1.Within K sB := by
  induction n generalizing s left with
  | zero => exact h
  | succ n ih =>
    unfold State.treeBufs
    repeat' first
      | with_reducible exact h
      | with_reducible assumption
      | with_reducible apply ih
      | with_reducible apply State.setRef_within
      | with_reducible apply State.newBuf_within
      | with_reducible apply State.raiseLimited_within
      | with_reducible apply State.count_within
      | split
      | dsimp only


theorem State.replicate_within {s : State} (h : s.Within K sB) (d : Desc) (ep : Nat) (k_words : K .words := by assumption) (k_ctrs : K .ctrs := by assumption) (k_free : K .free := by assumption) (k_flt : K .flt := by assumption) (k_cpg : K .cpg := by assumption) (k_fwd : K .fwd := by assumption) (k_tly : K .tly := by assumption) : (State.replicate s d ep).Within K sB := by
  unfold State.replicate
  repeat' first
    | with_reducible exact h
    | with_reducible assumption
    | with_reducible apply State.inc_within
    | with_reducible apply State.unref_within
    | with_reducible apply State.epochUnref_within
    | with_reducible apply State.policed_within
    | with_reducible apply State.setRef_within
    | with_reducible apply State.treeBufs_within
    | with_reducible apply State.toEnq_within
    | with_reducible apply State.count_within
    | with_reducible apply State.mirrorCopy_within
    | with_reducible apply foldl_within
    | intro _
    | refine fst_within (by assumption) ?_
    | refine snd_within (by assumption) ?_
    | split
    | dsimp only


theorem State.releaseDesc_within {s : State} (h : s.Within K sB) (d : Desc) (k_words : K .words := by assumption) (k_ctrs : K .ctrs := by assumption) (k_free : K .free := by assumption) (k_flt : K .flt := by assumption) (k_cpg : K .cpg := by assumption) (k_fwd : K .fwd := by assumption) (k_tly : K .tly := by assumption) : (State.releaseDesc s d).Within K sB := by
  unfold State.releaseDesc
  repeat' first
    | with_reducible exact h
    | with_reducible assumption
    | with_reducible apply State.count_within
    | with_reducible apply State.dropDesc_within
    | with_reducible apply State.toEnq_within
    | with_reducible apply State.epochUnref_within
    | with_reducible apply State.setRef_within
    | with_reducible apply State.mirrorCopy_within
    | with_reducible apply State.exception_within
    | with_reducible apply State.replicate_within
    | intro _
    | refine fst_within (by assumption) ?_
    | refine snd_within (by assumption) ?_
    | split
    | dsimp only


theorem State.releasePkt_within {s : State} (h : s.Within K sB) (f : Flight) (k_words : K .words := by assumption) (k_ctrs : K .ctrs := by assumption) (k_free : K .free := by assumption) (k_flt : K .flt := by assumption) (k_cpg : K .cpg := by assumption) (k_fwd : K .fwd := by assumption) (k_tly : K .tly := by assumption) : (State.releasePkt s f).Within K sB := by
  unfold State.releasePkt
  repeat' first
    | with_reducible exact h
    | with_reducible assumption
    | with_reducible apply State.dropDesc_within
    | with_reducible apply State.releaseDesc_within
    | intro _
    | refine fst_within (by assumption) ?_
    | refine snd_within (by assumption) ?_
    | split
    | dsimp only


theorem State.releaseFlow_within {s : State} (h : s.Within K sB) (flow n : Nat) (k_words : K .words := by assumption) (k_ctrs : K .ctrs := by assumption) (k_free : K .free := by assumption) (k_flt : K .flt := by assumption) (k_cpg : K .cpg := by assumption) (k_fwd : K .fwd := by assumption) (k_tly : K .tly := by assumption) : (State.releaseFlow s flow n).Within K sB := by
  induction n generalizing s with
  | zero => exact h
  | succ n ih =>
    unfold State.releaseFlow
    repeat' first
      | with_reducible exact h
      | with_reducible assumption
      | with_reducible apply ih
      | with_reducible apply State.releasePkt_within
      | with_reducible apply State.setFlow_within
      | with_reducible apply State.forget_within
      | split
      | dsimp only


end Sys2Proof.Machine
end

