-- ==== Sys2Proof/Laws/WithinFabric.lean ====
section
/-! SUPPORT. Generated: the parts of the state that the operations of Machine/Fabric.lean leave alone. -/

namespace Sys2Proof.Machine

set_option autoImplicit false
set_option Elab.async false
set_option linter.unusedTactic false
set_option linter.unreachableTactic false
set_option linter.unusedSimpArgs false
set_option linter.unusedVariables false

variable {K : Part → Prop} {sB : State}

theorem State.countDevices_within {s : State} (h : s.Within K sB) (k_words : K .words := by assumption) : (State.countDevices s).Within K sB := by
  unfold State.countDevices
  repeat' first
    | with_reducible exact h
    | with_reducible assumption
    | with_reducible apply State.wr_within
    | intro _
    | refine fst_within (by assumption) ?_
    | refine snd_within (by assumption) ?_
    | split
    | dsimp only


theorem State.setLsa_within {s : State} (h : s.Within K sB) (serial : Nat) (l : Option Lsa) (k_words : K .words := by assumption) (k_shl : K .shl := by assumption) : (State.setLsa s serial l).Within K sB := by
  unfold State.setLsa
  repeat' first
    | with_reducible exact h
    | with_reducible assumption
    | simp only [↓within_shl k_shl]
    | with_reducible apply State.countDevices_within
    | intro _
    | refine fst_within (by assumption) ?_
    | refine snd_within (by assumption) ?_
    | split
    | dsimp only


theorem State.flood_within {s : State} (h : s.Within K sB) (lanes : List Nat) (m : FabMsg) (k_shl : K .shl := by assumption) : (State.flood s lanes m).Within K sB := by
  unfold State.flood
  repeat' first
    | with_reducible exact h
    | with_reducible assumption
    | with_reducible apply State.setLane_within
    | with_reducible apply foldl_within
    | intro _
    | refine fst_within (by assumption) ?_
    | refine snd_within (by assumption) ?_
    | split
    | dsimp only


theorem State.originate_within {s : State} (h : s.Within K sB) (k_words : K .words := by assumption) (k_ctrs : K .ctrs := by assumption) (k_shl : K .shl := by assumption) (k_tly : K .tly := by assumption) : (State.originate s).Within K sB := by
  unfold State.originate
  repeat' first
    | with_reducible exact h
    | with_reducible assumption
    | with_reducible apply State.setLsa_within
    | with_reducible apply State.flood_within
    | with_reducible apply State.inc_within
    | intro _
    | refine fst_within (by assumption) ?_
    | refine snd_within (by assumption) ?_
    | split
    | dsimp only


theorem State.markNbr_within {s : State} (h : s.Within K sB) (n : Nat) (on : Bool) (k_words : K .words := by assumption) : (State.markNbr s n on).Within K sB := by
  unfold State.markNbr
  repeat' first
    | with_reducible exact h
    | with_reducible assumption
    | with_reducible apply State.wr_within
    | intro _
    | refine fst_within (by assumption) ?_
    | refine snd_within (by assumption) ?_
    | split
    | dsimp only


theorem State.clearLane_within {s : State} (h : s.Within K sB) (n : Nat) (k_words : K .words := by assumption) : (State.clearLane s n).Within K sB := by
  unfold State.clearLane
  repeat' first
    | with_reducible exact h
    | with_reducible assumption
    | with_reducible apply State.wr_within
    | with_reducible apply foldl_within
    | intro _
    | refine fst_within (by assumption) ?_
    | refine snd_within (by assumption) ?_
    | split
    | dsimp only


theorem State.loseNbr_within {s : State} (h : s.Within K sB) (n : Nat) (k_words : K .words := by assumption) (k_ctrs : K .ctrs := by assumption) (k_shl : K .shl := by assumption) (k_tly : K .tly := by assumption) : (State.loseNbr s n).Within K sB := by
  unfold State.loseNbr
  repeat' first
    | with_reducible exact h
    | with_reducible assumption
    | simp only [↓within_shl k_shl]
    | with_reducible apply State.clearLane_within
    | with_reducible apply State.markNbr_within
    | with_reducible apply State.originate_within
    | intro _
    | refine fst_within (by assumption) ?_
    | refine snd_within (by assumption) ?_
    | split
    | dsimp only


theorem State.setAddr_within {s : State} (h : s.Within K sB) (a : Option Nat) (k_words : K .words := by assumption) (k_flt : K .flt := by assumption) : (State.setAddr s a).Within K sB := by
  unfold State.setAddr
  repeat' first
    | with_reducible exact h
    | with_reducible assumption
    | with_reducible apply State.wr_within
    | with_reducible apply State.putWord_within
    | with_reducible apply State.endCause_within
    | intro _
    | refine fst_within (by assumption) ?_
    | refine snd_within (by assumption) ?_
    | split
    | dsimp only


theorem State.noAddr_within {s : State} (h : s.Within K sB) (k_flt : K .flt := by assumption) : (State.noAddr s).Within K sB := by
  unfold State.noAddr
  repeat' first
    | with_reducible exact h
    | with_reducible assumption
    | with_reducible apply State.onset_within
    | intro _
    | refine fst_within (by assumption) ?_
    | refine snd_within (by assumption) ?_
    | split
    | dsimp only


theorem State.conflict_within {s : State} (h : s.Within K sB) (l : Lsa) (k_words : K .words := by assumption) (k_ctrs : K .ctrs := by assumption) (k_flt : K .flt := by assumption) (k_shl : K .shl := by assumption) (k_tly : K .tly := by assumption) : (State.conflict s l).Within K sB := by
  unfold State.conflict
  repeat' first
    | with_reducible exact h
    | with_reducible assumption
    | with_reducible apply State.setAddr_within
    | with_reducible apply State.raise_within
    | with_reducible apply State.wr_within
    | with_reducible apply State.originate_within
    | intro _
    | refine fst_within (by assumption) ?_
    | refine snd_within (by assumption) ?_
    | split
    | dsimp only


theorem State.claimOwn_within {s : State} (h : s.Within K sB) (k_words : K .words := by assumption) (k_ctrs : K .ctrs := by assumption) (k_flt : K .flt := by assumption) (k_shl : K .shl := by assumption) (k_tly : K .tly := by assumption) : (State.claimOwn s).Within K sB := by
  unfold State.claimOwn
  repeat' first
    | with_reducible exact h
    | with_reducible assumption
    | with_reducible apply State.wr_within
    | with_reducible apply State.setAddr_within
    | with_reducible apply State.originate_within
    | with_reducible apply State.noAddr_within
    | intro _
    | refine fst_within (by assumption) ?_
    | refine snd_within (by assumption) ?_
    | split
    | dsimp only


theorem State.claim_within {s : State} (h : s.Within K sB) (k_words : K .words := by assumption) (k_ctrs : K .ctrs := by assumption) (k_flt : K .flt := by assumption) (k_shl : K .shl := by assumption) (k_tly : K .tly := by assumption) : (State.claim s).Within K sB := by
  unfold State.claim
  repeat' first
    | with_reducible exact h
    | with_reducible assumption
    | with_reducible apply State.conflict_within
    | with_reducible apply State.claimOwn_within
    | with_reducible apply foldl_within
    | intro _
    | refine fst_within (by assumption) ?_
    | refine snd_within (by assumption) ?_
    | split
    | dsimp only


theorem State.seeMaster_within {s : State} (h : s.Within K sB) (k_words : K .words := by assumption) (k_flt : K .flt := by assumption) : (State.seeMaster s).Within K sB := by
  unfold State.seeMaster
  repeat' first
    | with_reducible exact h
    | with_reducible assumption
    | with_reducible apply State.wr_within
    | with_reducible apply State.endCause_within
    | intro _
    | refine fst_within (by assumption) ?_
    | refine snd_within (by assumption) ?_
    | split
    | dsimp only


theorem State.recompute_within {s : State} (h : s.Within K sB) (k_words : K .words := by assumption) (k_ctrs : K .ctrs := by assumption) (k_flt : K .flt := by assumption) (k_tly : K .tly := by assumption) : (State.recompute s).Within K sB := by
  unfold State.recompute
  repeat' first
    | with_reducible exact h
    | with_reducible assumption
    | with_reducible apply State.putWord_within
    | with_reducible apply State.inc_within
    | with_reducible apply State.seeMaster_within
    | with_reducible apply foldl_within
    | intro _
    | refine fst_within (by assumption) ?_
    | refine snd_within (by assumption) ?_
    | split
    | dsimp only


theorem State.sendCarrier_within {s : State} (h : s.Within K sB) (d : Desc) (hdr : List Byte) (dest : Nat) (yellow : Bool) (cnt : Nat) (k_ctrs : K .ctrs := by assumption) (k_flt : K .flt := by assumption) (k_cpg : K .cpg := by assumption) (k_tly : K .tly := by assumption) : (State.sendCarrier s d hdr dest yellow cnt).Within K sB := by
  unfold State.sendCarrier
  repeat' first
    | with_reducible exact h
    | with_reducible assumption
    | with_reducible apply State.inc_within
    | with_reducible apply State.raiseLimited_within
    | with_reducible apply State.unref_within
    | with_reducible apply State.enqueueRest_within
    | intro _
    | refine fst_within (by assumption) ?_
    | refine snd_within (by assumption) ?_
    | split
    | dsimp only


theorem State.proxySend_within {s : State} (h : s.Within K sB) (d : Desc) (q : Nat) (yellow : Bool) (k_ctrs : K .ctrs := by assumption) (k_flt : K .flt := by assumption) (k_cpg : K .cpg := by assumption) (k_tly : K .tly := by assumption) : (State.proxySend s d q yellow).Within K sB := by
  unfold State.proxySend
  repeat' first
    | with_reducible exact h
    | with_reducible assumption
    | with_reducible apply State.inc_within
    | with_reducible apply State.raiseLimited_within
    | with_reducible apply State.unref_within
    | with_reducible apply State.sendCarrier_within
    | intro _
    | refine fst_within (by assumption) ?_
    | refine snd_within (by assumption) ?_
    | split
    | dsimp only


theorem State.proxyChecks_within {s : State} (h : s.Within K sB) (x : EnqIn) (k_ctrs : K .ctrs := by assumption) (k_flt : K .flt := by assumption) (k_cpg : K .cpg := by assumption) (k_tly : K .tly := by assumption) : (State.proxyChecks s x).Within K sB := by
  unfold State.proxyChecks
  repeat' first
    | with_reducible exact h
    | with_reducible assumption
    | with_reducible apply State.inc_within
    | with_reducible apply State.unref_within
    | with_reducible apply State.proxySend_within
    | with_reducible apply State.policed_within
    | intro _
    | refine fst_within (by assumption) ?_
    | refine snd_within (by assumption) ?_
    | split
    | dsimp only


theorem State.enqueueColored_within {s : State} (h : s.Within K sB) (d : Desc) (y : Bool) (k_ctrs : K .ctrs := by assumption) (k_flt : K .flt := by assumption) (k_cpg : K .cpg := by assumption) (k_tly : K .tly := by assumption) : (State.enqueueColored s d y).Within K sB := by
  unfold State.enqueueColored
  repeat' first
    | with_reducible exact h
    | with_reducible assumption
    | with_reducible apply State.inc_within
    | with_reducible apply State.queueDrop_within
    | with_reducible apply State.unref_within
    | with_reducible apply State.enqueueRest_within
    | intro _
    | refine fst_within (by assumption) ?_
    | refine snd_within (by assumption) ?_
    | split
    | dsimp only


theorem State.deliver_within {s : State} (h : s.Within K sB) (d : Desc) (yellow : Bool) (k_ctrs : K .ctrs := by assumption) (k_flt : K .flt := by assumption) (k_cpg : K .cpg := by assumption) (k_tly : K .tly := by assumption) : (State.deliver s d yellow).Within K sB := by
  unfold State.deliver
  repeat' first
    | with_reducible exact h
    | with_reducible assumption
    | with_reducible apply State.inc_within
    | with_reducible apply State.unref_within
    | with_reducible apply State.enqueueColored_within
    | with_reducible apply State.count_within
    | intro _
    | refine fst_within (by assumption) ?_
    | refine snd_within (by assumption) ?_
    | split
    | dsimp only


end Sys2Proof.Machine
end

