-- ==== Sys2Proof/Laws/WithinLanes.lean ====
section
/-! SUPPORT. Generated: the parts of the state that the operations of Machine/Lanes.lean leave alone. -/

namespace Sys2Proof.Machine

set_option autoImplicit false
set_option Elab.async false
set_option linter.unusedTactic false
set_option linter.unreachableTactic false
set_option linter.unusedSimpArgs false
set_option linter.unusedVariables false

variable {K : Part → Prop} {sB : State}

theorem State.goLane_within {s : State} (h : s.Within K sB) (n st : Nat) (k_words : K .words := by assumption) : (State.goLane s n st).Within K sB := by
  unfold State.goLane
  repeat' first
    | with_reducible exact h
    | with_reducible assumption
    | with_reducible apply State.wr_within
    | with_reducible apply State.st_within
    | intro _
    | refine fst_within (by assumption) ?_
    | refine snd_within (by assumption) ?_
    | split
    | dsimp only


theorem State.twinSealed_within {s : State} (h : s.Within K sB) (k_words : K .words := by assumption) : (State.twinSealed s).Within K sB := by
  unfold State.twinSealed
  repeat' first
    | with_reducible exact h
    | with_reducible assumption
    | with_reducible apply State.wr_within
    | intro _
    | refine fst_within (by assumption) ?_
    | refine snd_within (by assumption) ?_
    | split
    | dsimp only


theorem State.twinLane_within {s : State} (h : s.Within K sB) (n : Nat) (up : Bool) (k_words : K .words := by assumption) (k_flt : K .flt := by assumption) (k_twn : K .twn := by assumption) : (State.twinLane s n up).Within K sB := by
  unfold State.twinLane
  repeat' first
    | with_reducible exact h
    | with_reducible assumption
    | simp only [↓within_twn k_twn]
    | with_reducible apply State.wr_within
    | with_reducible apply State.setTwinTree_within
    | with_reducible apply State.mirror_within
    | with_reducible apply State.endCause_within
    | with_reducible apply State.twinSealed_within
    | with_reducible apply State.onset_within
    | with_reducible apply State.redecide_within
    | with_reducible apply foldl_within
    | intro _
    | refine fst_within (by assumption) ?_
    | refine snd_within (by assumption) ?_
    | split
    | dsimp only


theorem State.flushTransit_within {s : State} (h : s.Within K sB) (n : Nat) (k_ctrs : K .ctrs := by assumption) (k_flt : K .flt := by assumption) (k_cpg : K .cpg := by assumption) (k_tly : K .tly := by assumption) : (State.flushTransit s n).Within K sB := by
  unfold State.flushTransit
  repeat' first
    | with_reducible exact h
    | with_reducible assumption
    | with_reducible apply State.count_within
    | with_reducible apply State.flushQueue_within
    | with_reducible apply foldl_within
    | intro _
    | refine fst_within (by assumption) ?_
    | refine snd_within (by assumption) ?_
    | split
    | dsimp only


theorem State.leaveActive_within {s : State} (h : s.Within K sB) (n : Nat) (cause : Option Nat) (dst : Nat) (k_words : K .words := by assumption) (k_ctrs : K .ctrs := by assumption) (k_flt : K .flt := by assumption) (k_cpg : K .cpg := by assumption) (k_twn : K .twn := by assumption) (k_shl : K .shl := by assumption) (k_tly : K .tly := by assumption) : (State.leaveActive s n cause dst).Within K sB := by
  unfold State.leaveActive
  repeat' first
    | with_reducible exact h
    | with_reducible assumption
    | with_reducible apply State.setLane_within
    | with_reducible apply State.inc_within
    | with_reducible apply State.goLane_within
    | with_reducible apply State.wr_within
    | with_reducible apply State.raise_within
    | with_reducible apply State.twinLane_within
    | with_reducible apply State.loseNbr_within
    | with_reducible apply State.flushTransit_within
    | intro _
    | refine fst_within (by assumption) ?_
    | refine snd_within (by assumption) ?_
    | split
    | dsimp only


theorem State.moveLane_within {s : State} (h : s.Within K sB) (n : Nat) (cause : Option Nat) (dst : Nat) (k_words : K .words := by assumption) (k_ctrs : K .ctrs := by assumption) (k_flt : K .flt := by assumption) (k_cpg : K .cpg := by assumption) (k_twn : K .twn := by assumption) (k_shl : K .shl := by assumption) (k_tly : K .tly := by assumption) : (State.moveLane s n cause dst).Within K sB := by
  unfold State.moveLane
  repeat' first
    | with_reducible exact h
    | with_reducible assumption
    | with_reducible apply State.leaveActive_within
    | with_reducible apply State.goLane_within
    | with_reducible apply State.setLane_within
    | intro _
    | refine fst_within (by assumption) ?_
    | refine snd_within (by assumption) ?_
    | split
    | dsimp only


theorem State.toDetect_within {s : State} (h : s.Within K sB) (n : Nat) (cause : Option Nat) (k_words : K .words := by assumption) (k_ctrs : K .ctrs := by assumption) (k_flt : K .flt := by assumption) (k_cpg : K .cpg := by assumption) (k_twn : K .twn := by assumption) (k_shl : K .shl := by assumption) (k_tly : K .tly := by assumption) : (State.toDetect s n cause).Within K sB := by
  unfold State.toDetect
  repeat' first
    | with_reducible exact h
    | with_reducible assumption
    | with_reducible apply State.moveLane_within
    | with_reducible apply State.setLane_within
    | intro _
    | refine fst_within (by assumption) ?_
    | refine snd_within (by assumption) ?_
    | split
    | dsimp only


theorem State.toTrain_within {s : State} (h : s.Within K sB) (n : Nat) (cause : Option Nat) (k_words : K .words := by assumption) (k_ctrs : K .ctrs := by assumption) (k_flt : K .flt := by assumption) (k_cpg : K .cpg := by assumption) (k_twn : K .twn := by assumption) (k_shl : K .shl := by assumption) (k_tly : K .tly := by assumption) : (State.toTrain s n cause).Within K sB := by
  unfold State.toTrain
  repeat' first
    | with_reducible exact h
    | with_reducible assumption
    | with_reducible apply State.moveLane_within
    | with_reducible apply State.setLane_within
    | intro _
    | refine fst_within (by assumption) ?_
    | refine snd_within (by assumption) ?_
    | split
    | dsimp only


theorem State.toLock_within {s : State} (h : s.Within K sB) (n : Nat) (cause : Option Nat) (k_words : K .words := by assumption) (k_ctrs : K .ctrs := by assumption) (k_flt : K .flt := by assumption) (k_cpg : K .cpg := by assumption) (k_twn : K .twn := by assumption) (k_shl : K .shl := by assumption) (k_tly : K .tly := by assumption) : (State.toLock s n cause).Within K sB := by
  unfold State.toLock
  repeat' first
    | with_reducible exact h
    | with_reducible assumption
    | with_reducible apply State.moveLane_within
    | with_reducible apply State.setLane_within
    | intro _
    | refine fst_within (by assumption) ?_
    | refine snd_within (by assumption) ?_
    | split
    | dsimp only


theorem State.linkCtl_within {s : State} (h : s.Within K sB) (n : Nat) (m : LinkCtl) (k_shl : K .shl := by assumption) : (State.linkCtl s n m).Within K sB := by
  unfold State.linkCtl
  repeat' first
    | with_reducible exact h
    | with_reducible assumption
    | with_reducible apply State.setLane_within
    | intro _
    | refine fst_within (by assumption) ?_
    | refine snd_within (by assumption) ?_
    | split
    | dsimp only


theorem State.linkCap_within {s : State} (h : s.Within K sB) (n : Nat) (ack : Bool) (k_free : K .free := by assumption) (k_shl : K .shl := by assumption) : (State.linkCap s n ack).Within K sB := by
  unfold State.linkCap
  repeat' first
    | with_reducible exact h
    | with_reducible assumption
    | with_reducible apply State.freshNonce_within
    | with_reducible apply State.linkCtl_within
    | intro _
    | refine fst_within (by assumption) ?_
    | refine snd_within (by assumption) ?_
    | split
    | dsimp only


theorem State.toExchange_within {s : State} (h : s.Within K sB) (n : Nat) (cause : Option Nat) (k_words : K .words := by assumption) (k_ctrs : K .ctrs := by assumption) (k_free : K .free := by assumption) (k_flt : K .flt := by assumption) (k_cpg : K .cpg := by assumption) (k_twn : K .twn := by assumption) (k_shl : K .shl := by assumption) (k_tly : K .tly := by assumption) : (State.toExchange s n cause).Within K sB := by
  unfold State.toExchange
  repeat' first
    | with_reducible exact h
    | with_reducible assumption
    | with_reducible apply State.moveLane_within
    | with_reducible apply State.freshNonce_within
    | with_reducible apply State.setLane_within
    | intro _
    | refine fst_within (by assumption) ?_
    | refine snd_within (by assumption) ?_
    | split
    | dsimp only


theorem State.takeRole_within {s : State} (h : s.Within K sB) (n : Nat) (k_words : K .words := by assumption) (k_ctrs : K .ctrs := by assumption) (k_free : K .free := by assumption) (k_flt : K .flt := by assumption) (k_cpg : K .cpg := by assumption) (k_twn : K .twn := by assumption) (k_shl : K .shl := by assumption) (k_tly : K .tly := by assumption) : (State.takeRole s n).Within K sB := by
  unfold State.takeRole
  repeat' first
    | with_reducible exact h
    | with_reducible assumption
    | with_reducible apply State.moveLane_within
    | with_reducible apply State.toExchange_within
    | with_reducible apply State.wr_within
    | with_reducible apply State.toDetect_within
    | intro _
    | refine fst_within (by assumption) ?_
    | refine snd_within (by assumption) ?_
    | split
    | dsimp only


theorem State.takeRoles_within {s : State} (h : s.Within K sB) (k_words : K .words := by assumption) (k_ctrs : K .ctrs := by assumption) (k_free : K .free := by assumption) (k_flt : K .flt := by assumption) (k_cpg : K .cpg := by assumption) (k_twn : K .twn := by assumption) (k_shl : K .shl := by assumption) (k_tly : K .tly := by assumption) : (State.takeRoles s).Within K sB := by
  unfold State.takeRoles
  repeat' first
    | with_reducible exact h
    | with_reducible assumption
    | with_reducible apply State.takeRole_within
    | with_reducible apply foldl_within
    | intro _
    | refine fst_within (by assumption) ?_
    | refine snd_within (by assumption) ?_
    | split
    | dsimp only


theorem State.newSession_within {s : State} (h : s.Within K sB) (n : Nat) (k : Sess) (first : Bool) (k_words : K .words := by assumption) (k_ctrs : K .ctrs := by assumption) (k_keys : K .keys := by assumption) (k_shl : K .shl := by assumption) (k_tly : K .tly := by assumption) : (State.newSession s n k first).Within K sB := by
  unfold State.newSession
  repeat' first
    | with_reducible exact h
    | with_reducible assumption
    | with_reducible apply State.setLane_within
    | with_reducible apply State.offer_within
    | with_reducible apply State.wr_within
    | with_reducible apply State.inc_within
    | with_reducible apply State.derive_within
    | with_reducible apply State.twinSealed_within
    | intro _
    | refine fst_within (by assumption) ?_
    | refine snd_within (by assumption) ?_
    | split
    | dsimp only


theorem State.offer_within {s : State} (h : s.Within K sB) (n : Nat) (k_free : K .free := by assumption) (k_shl : K .shl := by assumption) : (State.offer s n).Within K sB := by
  unfold State.offer
  repeat' first
    | with_reducible exact h
    | with_reducible assumption
    | with_reducible apply State.freshNonce_within
    | with_reducible apply State.setLane_within
    | with_reducible apply State.linkCtl_within
    | intro _
    | refine fst_within (by assumption) ?_
    | refine snd_within (by assumption) ?_
    | split
    | dsimp only


theorem State.offerSeal_within {s : State} (h : s.Within K sB) (n : Nat) (k_free : K .free := by assumption) (k_shl : K .shl := by assumption) : (State.offerSeal s n).Within K sB := by
  unfold State.offerSeal
  repeat' first
    | with_reducible exact h
    | with_reducible assumption
    | with_reducible apply State.offer_within
    | intro _
    | refine fst_within (by assumption) ?_
    | refine snd_within (by assumption) ?_
    | split
    | dsimp only


theorem State.sealChange_within {s : State} (h : s.Within K sB) (n : Nat) (k_free : K .free := by assumption) (k_shl : K .shl := by assumption) : (State.sealChange s n).Within K sB := by
  unfold State.sealChange
  repeat' first
    | with_reducible exact h
    | with_reducible assumption
    | with_reducible apply State.setLane_within
    | with_reducible apply State.linkCap_within
    | with_reducible apply State.offerSeal_within
    | intro _
    | refine fst_within (by assumption) ?_
    | refine snd_within (by assumption) ?_
    | split
    | dsimp only


theorem State.enterActive_within {s : State} (h : s.Within K sB) (n : Nat) (c : Cap) (k_words : K .words := by assumption) (k_ctrs : K .ctrs := by assumption) (k_free : K .free := by assumption) (k_flt : K .flt := by assumption) (k_keys : K .keys := by assumption) (k_twn : K .twn := by assumption) (k_shl : K .shl := by assumption) (k_tly : K .tly := by assumption) : (State.enterActive s n c).Within K sB := by
  unfold State.enterActive
  repeat' first
    | with_reducible exact h
    | with_reducible assumption
    | simp only [↓within_twn k_twn]
    | with_reducible apply State.goLane_within
    | with_reducible apply State.setLane_within
    | with_reducible apply State.newSession_within
    | with_reducible apply State.twinLane_within
    | with_reducible apply State.sealChange_within
    | intro _
    | refine fst_within (by assumption) ?_
    | refine snd_within (by assumption) ?_
    | split
    | dsimp only


theorem State.laneCfgWrite_within {s : State} (h : s.Within K sB) (ag : Agent) (n : Nat) (v : Word) (k_words : K .words := by assumption) (k_ctrs : K .ctrs := by assumption) (k_free : K .free := by assumption) (k_flt : K .flt := by assumption) (k_cpg : K .cpg := by assumption) (k_twn : K .twn := by assumption) (k_shl : K .shl := by assumption) (k_tly : K .tly := by assumption) : (State.laneCfgWrite s ag n v).Within K sB := by
  unfold State.laneCfgWrite
  repeat' first
    | with_reducible exact h
    | with_reducible assumption
    | with_reducible apply State.gate_within
    | with_reducible apply State.storeWord_within
    | with_reducible apply State.moveLane_within
    | with_reducible apply State.toDetect_within
    | with_reducible apply State.setLane_within
    | with_reducible apply State.sealChange_within
    | intro _
    | refine fst_within (by assumption) ?_
    | refine snd_within (by assumption) ?_
    | split
    | dsimp only


theorem State.setTaps_within {s : State} (h : s.Within K sB) (n pre post : Nat) (k_words : K .words := by assumption) : (State.setTaps s n pre post).Within K sB := by
  unfold State.setTaps
  repeat' first
    | with_reducible exact h
    | with_reducible assumption
    | with_reducible apply State.wr_within
    | intro _
    | refine fst_within (by assumption) ?_
    | refine snd_within (by assumption) ?_
    | split
    | dsimp only


theorem State.commaMissing_within {s : State} (h : s.Within K sB) (n : Nat) (k_words : K .words := by assumption) (k_ctrs : K .ctrs := by assumption) (k_flt : K .flt := by assumption) (k_cpg : K .cpg := by assumption) (k_twn : K .twn := by assumption) (k_shl : K .shl := by assumption) (k_tly : K .tly := by assumption) : (State.commaMissing s n).Within K sB := by
  unfold State.commaMissing
  repeat' first
    | with_reducible exact h
    | with_reducible assumption
    | with_reducible apply State.setLane_within
    | with_reducible apply State.toLock_within
    | intro _
    | refine fst_within (by assumption) ?_
    | refine snd_within (by assumption) ?_
    | split
    | dsimp only


theorem State.startTile_within {s : State} (h : s.Within K sB) (k : Nat) (code : BitVec 8) (k_shl : K .shl := by assumption) : (State.startTile s k code).Within K sB := by
  unfold State.startTile
  repeat' first
    | with_reducible exact h
    | with_reducible assumption
    | with_reducible apply State.setLane_within
    | intro _
    | refine fst_within (by assumption) ?_
    | refine snd_within (by assumption) ?_
    | split
    | dsimp only


theorem State.ulkOut_within {s : State} (h : s.Within K sB) (n : Nat) (fr : List Byte) (good : Bool) (k_shl : K .shl := by assumption) : (State.ulkOut s n fr good).Within K sB := by
  unfold State.ulkOut
  repeat' first
    | with_reducible exact h
    | with_reducible assumption
    | simp only [↓within_shl k_shl]
    | intro _
    | refine fst_within (by assumption) ?_
    | refine snd_within (by assumption) ?_
    | split
    | dsimp only


theorem State.setCut_within {s : State} (h : s.Within K sB) (k : Nat) (x : Option (Nat × List Byte)) (k_shl : K .shl := by assumption) : (State.setCut s k x).Within K sB := by
  unfold State.setCut
  repeat' first
    | with_reducible exact h
    | with_reducible assumption
    | simp only [↓within_shl k_shl]
    | intro _
    | refine fst_within (by assumption) ?_
    | refine snd_within (by assumption) ?_
    | split
    | dsimp only


theorem State.endCut_within {s : State} (h : s.Within K sB) (k : Nat) (good : Bool) (k_shl : K .shl := by assumption) : (State.endCut s k good).Within K sB := by
  unfold State.endCut
  repeat' first
    | with_reducible exact h
    | with_reducible assumption
    | with_reducible apply State.setCut_within
    | with_reducible apply State.ulkOut_within
    | intro _
    | refine fst_within (by assumption) ?_
    | refine snd_within (by assumption) ?_
    | split
    | dsimp only


theorem State.ctlSent_within {s : State} (h : s.Within K sB) (n : Nat) (m : LinkCtl) (k_words : K .words := by assumption) (k_ctrs : K .ctrs := by assumption) (k_keys : K .keys := by assumption) (k_shl : K .shl := by assumption) (k_tly : K .tly := by assumption) : (State.ctlSent s n m).Within K sB := by
  unfold State.ctlSent
  repeat' first
    | with_reducible exact h
    | with_reducible assumption
    | with_reducible apply State.answer_within
    | with_reducible apply State.newSession_within
    | intro _
    | refine fst_within (by assumption) ?_
    | refine snd_within (by assumption) ?_
    | split
    | dsimp only


theorem State.nextMsg_within {s : State} (h : s.Within K sB) (n chan : Nat) (x : State × Nat × List Byte × Option Nat)
    (e : State.nextMsg s n chan = some x) (k_words : K .words := by assumption) (k_ctrs : K .ctrs := by assumption) (k_free : K .free := by assumption) (k_cpg : K .cpg := by assumption) (k_keys : K .keys := by assumption) (k_twn : K .twn := by assumption) (k_shl : K .shl := by assumption) (k_tly : K .tly := by assumption) : x.1.Within K sB := by
  unfold State.nextMsg at e
  dsimp only at e
  split at e
  · split at e <;> cases e
    exact State.ctlSent_within (State.setLane_within h ..) ..
  · split at e <;> cases e
    simp only [↓within_free_twn k_free k_twn, ↓within_twn k_twn, ↓within_free k_free, ↓within_cpg k_cpg]
    exact h
  · split at e <;> cases e
    simp only [↓within_twn k_twn, ↓within_free k_free, ↓within_cpg k_cpg]
    exact h
  · split at e <;> cases e
    exact State.setLane_within h ..


theorem State.doneWith_within {s : State} (h : s.Within K sB) (x : Option Nat) (k_ctrs : K .ctrs := by assumption) (k_flt : K .flt := by assumption) (k_cpg : K .cpg := by assumption) (k_tly : K .tly := by assumption) : (State.doneWith s x).Within K sB := by
  cases x with
  | none => exact h
  | some k => exact State.unref_within h ..


theorem State.bumpCtr_within {s : State} (h : s.Within K sB) (n : Nat) (k_free : K .free := by assumption) (k_flt : K .flt := by assumption) (k_shl : K .shl := by assumption) : (State.bumpCtr s n).Within K sB := by
  unfold State.bumpCtr
  repeat' first
    | with_reducible exact h
    | with_reducible assumption
    | with_reducible apply State.setLane_within
    | with_reducible apply State.raise_within
    | with_reducible apply State.offer_within
    | intro _
    | refine fst_within (by assumption) ?_
    | refine snd_within (by assumption) ?_
    | split
    | dsimp only


theorem State.putMsg_within {s : State} (h : s.Within K sB) (k : Nat) (m : LinkMsg) (head : List Byte) (len : Nat) (k_ctrs : K .ctrs := by assumption) (k_shl : K .shl := by assumption) (k_tly : K .tly := by assumption) : (State.putMsg s k m head len).Within K sB := by
  unfold State.putMsg
  repeat' first
    | with_reducible exact h
    | with_reducible assumption
    | with_reducible apply State.setLane_within
    | with_reducible apply State.drop_within
    | with_reducible apply State.inc_within
    | intro _
    | refine fst_within (by assumption) ?_
    | refine snd_within (by assumption) ?_
    | split
    | dsimp only


theorem State.eraseKeys_within {s : State} (h : s.Within K sB) (causes : Nat) (k_words : K .words := by assumption) (k_ctrs : K .ctrs := by assumption) (k_free : K .free := by assumption) (k_flt : K .flt := by assumption) (k_keys : K .keys := by assumption) (k_shl : K .shl := by assumption) (k_tly : K .tly := by assumption) : (State.eraseKeys s causes).Within K sB := by
  unfold State.eraseKeys
  repeat' first
    | with_reducible exact h
    | with_reducible assumption
    | simp only [↓within_keys k_keys]
    | with_reducible apply State.putWord_within
    | with_reducible apply State.setLane_within
    | with_reducible apply State.sealChange_within
    | with_reducible apply State.wr_within
    | with_reducible apply State.inc_within
    | with_reducible apply State.onset_within
    | with_reducible apply foldl_within
    | intro _
    | refine fst_within (by assumption) ?_
    | refine snd_within (by assumption) ?_
    | split
    | dsimp only


theorem State.loadOtp_within {s : State} (h : s.Within K sB) (k_words : K .words := by assumption) (k_keys : K .keys := by assumption) (k_twn : K .twn := by assumption) : (State.loadOtp s).Within K sB := by
  unfold State.loadOtp
  repeat' first
    | with_reducible exact h
    | with_reducible assumption
    | with_reducible apply State.setRoot_within
    | with_reducible apply State.wr_within
    | intro _
    | refine fst_within (by assumption) ?_
    | refine snd_within (by assumption) ?_
    | split
    | dsimp only


theorem State.loadLink_within {s : State} (h : s.Within K sB) (n v : Nat) (k_free : K .free := by assumption) (k_keys : K .keys := by assumption) (k_twn : K .twn := by assumption) (k_shl : K .shl := by assumption) : (State.loadLink s n v).Within K sB := by
  unfold State.loadLink
  repeat' first
    | with_reducible exact h
    | with_reducible assumption
    | with_reducible apply State.setRoot_within
    | with_reducible apply State.sealChange_within
    | intro _
    | refine fst_within (by assumption) ?_
    | refine snd_within (by assumption) ?_
    | split
    | dsimp only


theorem State.loadLinks_within {s : State} (h : s.Within K sB) (k_ctrs : K .ctrs := by assumption) (k_free : K .free := by assumption) (k_keys : K .keys := by assumption) (k_twn : K .twn := by assumption) (k_shl : K .shl := by assumption) (k_tly : K .tly := by assumption) : (State.loadLinks s).Within K sB := by
  unfold State.loadLinks
  repeat' first
    | with_reducible exact h
    | with_reducible assumption
    | with_reducible apply State.derive_within
    | with_reducible apply State.loadLink_within
    | with_reducible apply State.inc_within
    | with_reducible apply foldl_within
    | intro _
    | refine fst_within (by assumption) ?_
    | refine snd_within (by assumption) ?_
    | split
    | dsimp only


theorem State.reactivateAll_within {s : State} (h : s.Within K sB) (k_words : K .words := by assumption) (k_ctrs : K .ctrs := by assumption) (k_flt : K .flt := by assumption) (k_act : K .act := by assumption) (k_cpg : K .cpg := by assumption) (k_keys : K .keys := by assumption) (k_pm : K .pm := by assumption) (k_stw : K .stw := by assumption) (k_twn : K .twn := by assumption) (k_tly : K .tly := by assumption) : (State.reactivateAll s).Within K sB := by
  unfold State.reactivateAll
  repeat' first
    | with_reducible exact h
    | with_reducible assumption
    | with_reducible apply State.reactivate_within
    | with_reducible apply foldl_within
    | intro _
    | refine fst_within (by assumption) ?_
    | refine snd_within (by assumption) ?_
    | split
    | dsimp only


theorem execKeyRestore_within {s : State} (h : s.Within K sB) (ag : Agent) (k_words : K .words := by assumption) (k_ctrs : K .ctrs := by assumption) (k_free : K .free := by assumption) (k_flt : K .flt := by assumption) (k_act : K .act := by assumption) (k_cpg : K .cpg := by assumption) (k_keys : K .keys := by assumption) (k_pm : K .pm := by assumption) (k_stw : K .stw := by assumption) (k_twn : K .twn := by assumption) (k_shl : K .shl := by assumption) (k_tly : K .tly := by assumption) (k_hst : K .hst := by assumption) : Completes (execKeyRestore ag s) (fun t => t.Within K sB) := by
  unfold execKeyRestore
  repeat' first
    | with_reducible refine completes_within _ ?_
    | with_reducible exact h
    | with_reducible assumption
    | with_reducible apply ok_within
    | with_reducible apply State.keyGate_within
    | with_reducible apply State.keyCode_within
    | with_reducible apply State.wr_within
    | with_reducible apply State.loadOtp_within
    | with_reducible apply State.endCause_within
    | with_reducible apply State.loadLinks_within
    | with_reducible apply State.offer_within
    | with_reducible apply State.reactivateAll_within
    | with_reducible apply foldl_within
    | intro _
    | refine fst_within (by assumption) ?_
    | refine snd_within (by assumption) ?_
    | split
    | dsimp only


theorem State.fabCfgWrite_within {s : State} (h : s.Within K sB) (ag : Agent) (v : Word) (k_words : K .words := by assumption) (k_ctrs : K .ctrs := by assumption) (k_free : K .free := by assumption) (k_flt : K .flt := by assumption) (k_cpg : K .cpg := by assumption) (k_twn : K .twn := by assumption) (k_shl : K .shl := by assumption) (k_tly : K .tly := by assumption) : (State.fabCfgWrite s ag v).Within K sB := by
  unfold State.fabCfgWrite
  repeat' first
    | with_reducible exact h
    | with_reducible assumption
    | with_reducible apply State.gate_within
    | with_reducible apply State.deny_within
    | with_reducible apply State.storeWord_within
    | with_reducible apply State.claim_within
    | with_reducible apply State.recompute_within
    | with_reducible apply State.takeRoles_within
    | intro _
    | refine fst_within (by assumption) ?_
    | refine snd_within (by assumption) ?_
    | split
    | dsimp only


end Sys2Proof.Machine
end

