-- ==== Sys2Proof/Laws/WithinUplink.lean ====
section
/-! SUPPORT. Generated: the parts of the state that the operations of Machine/Uplink.lean leave alone. -/

namespace Sys2Proof.Machine

set_option autoImplicit false
set_option Elab.async false
set_option linter.unusedTactic false
set_option linter.unreachableTactic false
set_option linter.unusedSimpArgs false
set_option linter.unusedVariables false

variable {K : Part → Prop} {sB : State}

theorem State.setLeaders_within {s : State} (h : s.Within K sB) (k_words : K .words := by assumption) : (State.setLeaders s).Within K sB := by
  unfold State.setLeaders
  repeat' first
    | with_reducible exact h
    | with_reducible assumption
    | with_reducible apply State.wr_within
    | with_reducible apply foldl_within
    | intro _
    | refine fst_within (by assumption) ?_
    | refine snd_within (by assumption) ?_
    | split
    | dsimp only


theorem State.ulkFall_within {s : State} (h : s.Within K sB) (n cause : Nat) (k_words : K .words := by assumption) (k_ctrs : K .ctrs := by assumption) (k_flt : K .flt := by assumption) (k_tly : K .tly := by assumption) : (State.ulkFall s n cause).Within K sB := by
  unfold State.ulkFall
  repeat' first
    | with_reducible exact h
    | with_reducible assumption
    | with_reducible apply State.wr_within
    | with_reducible apply State.inc_within
    | with_reducible apply State.onset_within
    | intro _
    | refine fst_within (by assumption) ?_
    | refine snd_within (by assumption) ?_
    | split
    | dsimp only


theorem State.ulkRestart_within {s : State} (h : s.Within K sB) (n : Nat) (k_words : K .words := by assumption) (k_ctrs : K .ctrs := by assumption) (k_flt : K .flt := by assumption) (k_tly : K .tly := by assumption) : (State.ulkRestart s n).Within K sB := by
  unfold State.ulkRestart
  repeat' first
    | with_reducible exact h
    | with_reducible assumption
    | with_reducible apply State.wr_within
    | with_reducible apply State.ulkFall_within
    | with_reducible apply foldl_within
    | intro _
    | refine fst_within (by assumption) ?_
    | refine snd_within (by assumption) ?_
    | split
    | dsimp only


theorem State.ulkWrite_within {s : State} (h : s.Within K sB) (ag : Agent) (n : Nat) (v : Word) (k_words : K .words := by assumption) (k_ctrs : K .ctrs := by assumption) (k_free : K .free := by assumption) (k_flt : K .flt := by assumption) (k_tly : K .tly := by assumption) : (State.ulkWrite s ag n v).Within K sB := by
  unfold State.ulkWrite
  repeat' first
    | with_reducible exact h
    | with_reducible assumption
    | with_reducible apply State.gate_within
    | with_reducible apply State.storeWord_within
    | with_reducible apply State.deny_within
    | with_reducible apply State.setLeaders_within
    | with_reducible apply State.ulkFall_within
    | with_reducible apply State.ulkRestart_within
    | intro _
    | refine fst_within (by assumption) ?_
    | refine snd_within (by assumption) ?_
    | split
    | dsimp only


theorem State.ulkFec_within {s : State} (h : s.Within K sB) (n : Nat) (f : Nat × Nat × Nat) (k_ctrs : K .ctrs := by assumption) (k_tly : K .tly := by assumption) : (State.ulkFec s n f).Within K sB := by
  unfold State.ulkFec
  repeat' first
    | with_reducible exact h
    | with_reducible assumption
    | with_reducible apply State.count_within
    | intro _
    | refine fst_within (by assumption) ?_
    | refine snd_within (by assumption) ?_
    | split
    | dsimp only


theorem State.setChk_within {s : State} (h : s.Within K sB) (b : LaneBlock) (x : Chk) (k_shl : K .shl := by assumption) : (State.setChk s b x).Within K sB := by
  unfold State.setChk
  repeat' first
    | with_reducible exact h
    | with_reducible assumption
    | simp only [↓within_shl k_shl]
    | intro _
    | refine fst_within (by assumption) ?_
    | refine snd_within (by assumption) ?_
    | split
    | dsimp only


theorem State.genChange_within {s : State} (h : s.Within K sB) (b : LaneBlock) (on : Bool) (k_words : K .words := by assumption) (k_ctrs : K .ctrs := by assumption) (k_flt : K .flt := by assumption) (k_cpg : K .cpg := by assumption) (k_twn : K .twn := by assumption) (k_shl : K .shl := by assumption) (k_tly : K .tly := by assumption) : (State.genChange s b on).Within K sB := by
  unfold State.genChange
  repeat' first
    | with_reducible exact h
    | with_reducible assumption
    | with_reducible apply State.ulkFall_within
    | with_reducible apply State.moveLane_within
    | with_reducible apply State.goLane_within
    | with_reducible apply State.toDetect_within
    | intro _
    | refine fst_within (by assumption) ?_
    | refine snd_within (by assumption) ?_
    | split
    | dsimp only


theorem State.ltWrite_within {s : State} (h : s.Within K sB) (ag : Agent) (b : LaneBlock) (v : Word) (k_words : K .words := by assumption) (k_ctrs : K .ctrs := by assumption) (k_free : K .free := by assumption) (k_flt : K .flt := by assumption) (k_cpg : K .cpg := by assumption) (k_twn : K .twn := by assumption) (k_shl : K .shl := by assumption) (k_tly : K .tly := by assumption) : (State.ltWrite s ag b v).Within K sB := by
  unfold State.ltWrite
  repeat' first
    | with_reducible exact h
    | with_reducible assumption
    | with_reducible apply State.gate_within
    | with_reducible apply State.settleInj_within
    | with_reducible apply State.storeWord_within
    | with_reducible apply State.rateFrom_within
    | with_reducible apply State.genChange_within
    | with_reducible apply State.wr_within
    | with_reducible apply State.setChk_within
    | with_reducible apply State.inc_within
    | with_reducible apply State.count_within
    | intro _
    | refine fst_within (by assumption) ?_
    | refine snd_within (by assumption) ?_
    | split
    | dsimp only


theorem State.chkRun_within {s : State} (h : s.Within K sB) (b : LaneBlock) (l : List Bool) (k_words : K .words := by assumption) (k_ctrs : K .ctrs := by assumption) (k_shl : K .shl := by assumption) (k_tly : K .tly := by assumption) : (State.chkRun s b l).Within K sB := by
  unfold State.chkRun
  repeat' first
    | with_reducible exact h
    | with_reducible assumption
    | with_reducible apply State.setChk_within
    | with_reducible apply State.wr_within
    | with_reducible apply State.count_within
    | intro _
    | refine fst_within (by assumption) ?_
    | refine snd_within (by assumption) ?_
    | split
    | dsimp only


end Sys2Proof.Machine
end

