-- ==== Sys2Proof/Laws/WithinStores.lean ====
section
/-! SUPPORT. Generated: the parts of the state that the operations of Machine/Stores.lean leave alone. -/

namespace Sys2Proof.Machine

set_option autoImplicit false
set_option Elab.async false
set_option linter.unusedTactic false
set_option linter.unreachableTactic false
set_option linter.unusedSimpArgs false
set_option linter.unusedVariables false

variable {K : Part → Prop} {sB : State}

theorem State.stwForget_within {s : State} (h : s.Within K sB) (h : Nat) (k_fwd : K .fwd := by assumption) : (State.stwForget s h).Within K sB := by
  unfold State.stwForget
  repeat' first
    | with_reducible exact h
    | with_reducible assumption
    | simp only [↓within_fwd k_fwd]
    | intro _
    | refine fst_within (by assumption) ?_
    | refine snd_within (by assumption) ?_
    | split
    | dsimp only


theorem execFreeStw_within {s : State} (h : s.Within K sB) (ag : Agent) (v : Word) (k_words : K .words := by assumption) (k_ctrs : K .ctrs := by assumption) (k_free : K .free := by assumption) (k_flt : K .flt := by assumption) (k_cpg : K .cpg := by assumption) (k_fwd : K .fwd := by assumption) (k_tly : K .tly := by assumption) : Completes (execFreeStw ag v s) (fun t => t.Within K sB) := by
  unfold execFreeStw
  repeat' first
    | with_reducible refine completes_within _ ?_
    | with_reducible exact h
    | with_reducible assumption
    | with_reducible apply ok_within
    | with_reducible apply State.gate_within
    | with_reducible apply State.raise_within
    | with_reducible apply State.inc_within
    | with_reducible apply State.stwForget_within
    | with_reducible apply State.unref_within
    | intro _
    | refine fst_within (by assumption) ?_
    | refine snd_within (by assumption) ?_
    | split
    | dsimp only


theorem State.memEcc_within {s : State} (h : s.Within K sB) (k : Kind) (ch : Fin 16) (k_free : K .free := by assumption) (k_flt : K .flt := by assumption) : (State.memEcc s k ch).Within K sB := by
  unfold State.memEcc
  repeat' first
    | with_reducible exact h
    | with_reducible assumption
    | with_reducible apply State.takeFree_within
    | with_reducible apply State.raise_within
    | intro _
    | refine fst_within (by assumption) ?_
    | refine snd_within (by assumption) ?_
    | split
    | dsimp only


theorem State.refillRead_within {s : State} (h : s.Within K sB) (q access : Nat) (k_free : K .free := by assumption) (k_tly : K .tly := by assumption) : (State.refillRead s q access).Within K sB := by
  unfold State.refillRead
  repeat' first
    | with_reducible exact h
    | with_reducible assumption
    | with_reducible apply State.cellarAccess_within
    | with_reducible apply State.access_within
    | intro _
    | refine fst_within (by assumption) ?_
    | refine snd_within (by assumption) ?_
    | split
    | dsimp only


theorem State.bucketWord0_within {s : State} (h : s.Within K sB) (ag : Agent) (b : Nat) (v : Word) (k_words : K .words := by assumption) (k_ctrs : K .ctrs := by assumption) (k_flt : K .flt := by assumption) (k_cpg : K .cpg := by assumption) (k_tly : K .tly := by assumption) : (State.bucketWord0 s ag b v).Within K sB := by
  unfold State.bucketWord0
  repeat' first
    | with_reducible exact h
    | with_reducible assumption
    | with_reducible apply State.winGate_within
    | with_reducible apply State.schStore_within
    | intro _
    | refine fst_within (by assumption) ?_
    | refine snd_within (by assumption) ?_
    | split
    | dsimp only


theorem State.sampleStat_within {s : State} (h : s.Within K sB) (g e : Nat) (k_cpg : K .cpg := by assumption) : (State.sampleStat s g e).Within K sB := by
  unfold State.sampleStat
  repeat' first
    | with_reducible exact h
    | with_reducible assumption
    | with_reducible apply State.setStat_within
    | intro _
    | refine fst_within (by assumption) ?_
    | refine snd_within (by assumption) ?_
    | split
    | dsimp only


theorem execPoolCfgWrite_within {s : State} (h : s.Within K sB) (ag : Agent) (n : Fin 4) (v : Word) (k_words : K .words := by assumption) (k_ctrs : K .ctrs := by assumption) (k_free : K .free := by assumption) (k_flt : K .flt := by assumption) (k_tly : K .tly := by assumption) : Completes (execPoolCfgWrite ag n v s) (fun t => t.Within K sB) := by
  unfold execPoolCfgWrite
  repeat' first
    | with_reducible refine completes_within _ ?_
    | with_reducible exact h
    | with_reducible assumption
    | with_reducible apply ok_within
    | with_reducible apply State.gate_within
    | with_reducible apply State.deny_within
    | with_reducible apply State.storeWord_within
    | intro _
    | refine fst_within (by assumption) ?_
    | refine snd_within (by assumption) ?_
    | split
    | dsimp only


theorem execCellarEnable_within {s : State} (h : s.Within K sB) (ag : Agent) (v : Word) (k_words : K .words := by assumption) (k_ctrs : K .ctrs := by assumption) (k_free : K .free := by assumption) (k_flt : K .flt := by assumption) (k_tly : K .tly := by assumption) : Completes (execCellarEnable ag v s) (fun t => t.Within K sB) := by
  unfold execCellarEnable
  repeat' first
    | with_reducible refine completes_within _ ?_
    | with_reducible exact h
    | with_reducible assumption
    | with_reducible apply ok_within
    | with_reducible apply State.gate_within
    | with_reducible apply State.storeWord_within
    | with_reducible apply State.deny_within
    | intro _
    | refine fst_within (by assumption) ?_
    | refine snd_within (by assumption) ?_
    | split
    | dsimp only


theorem State.loseWrites_within {s : State} (h : s.Within K sB) (q : Nat) (k_ctrs : K .ctrs := by assumption) (k_flt : K .flt := by assumption) (k_cpg : K .cpg := by assumption) (k_tly : K .tly := by assumption) : (State.loseWrites s q).Within K sB := by
  unfold State.loseWrites
  repeat' first
    | with_reducible exact h
    | with_reducible assumption
    | with_reducible apply State.setTop_within
    | with_reducible apply State.unref_within
    | with_reducible apply State.setQueue_within
    | with_reducible apply State.busyEnds_within
    | with_reducible apply foldl_within
    | intro _
    | refine fst_within (by assumption) ?_
    | refine snd_within (by assumption) ?_
    | split
    | dsimp only


theorem State.loseCellar_within {s : State} (h : s.Within K sB) (k_words : K .words := by assumption) (k_ctrs : K .ctrs := by assumption) (k_flt : K .flt := by assumption) (k_cpg : K .cpg := by assumption) (k_tly : K .tly := by assumption) : (State.loseCellar s).Within K sB := by
  unfold State.loseCellar
  repeat' first
    | with_reducible exact h
    | with_reducible assumption
    | with_reducible apply State.wr_within
    | with_reducible apply State.loseWrites_within
    | with_reducible apply State.loseRecords_within
    | with_reducible apply State.raise_within
    | with_reducible apply foldl_within
    | intro _
    | refine fst_within (by assumption) ?_
    | refine snd_within (by assumption) ?_
    | split
    | dsimp only


theorem State.xgemUp_within {s : State} (h : s.Within K sB) (p : Fin 32) (sd : Nat) (e : Exp) (ctx cls key word : Nat) (bytes : List Byte) (full : Bool) (bad : Option (Fin 16)) (k_words : K .words := by assumption) (k_ctrs : K .ctrs := by assumption) (k_free : K .free := by assumption) (k_flt : K .flt := by assumption) (k_cpg : K .cpg := by assumption) (k_keys : K .keys := by assumption) (k_fwd : K .fwd := by assumption) (k_tly : K .tly := by assumption) : (State.xgemUp s p sd e ctx cls key word bytes full bad).Within K sB := by
  unfold State.xgemUp
  repeat' first
    | with_reducible exact h
    | with_reducible assumption
    | with_reducible apply State.intakeUp_within
    | with_reducible apply State.inc_within
    | with_reducible apply State.lenErr_within
    | with_reducible apply State.setUsage_within
    | with_reducible apply State.useKey_within
    | with_reducible apply State.count_within
    | with_reducible apply State.raise_within
    | intro _
    | refine fst_within (by assumption) ?_
    | refine snd_within (by assumption) ?_
    | split
    | dsimp only


end Sys2Proof.Machine
end

