-- ==== Sys2Proof/Laws/WithinOperands.lean ====
section
/-! SUPPORT. Generated: the parts of the state that the operations of Machine/Operands.lean leave alone. -/

namespace Sys2Proof.Machine

set_option autoImplicit false
set_option Elab.async false
set_option linter.unusedTactic false
set_option linter.unreachableTactic false
set_option linter.unusedSimpArgs false
set_option linter.unusedVariables false

variable {K : Part → Prop} {sB : State}

theorem State.setShared_within {s : State} (h : s.Within K sB) (g a : Nat) (v : List Byte) (k_eng : K .eng := by assumption) : (State.setShared s g a v).Within K sB := by
  unfold State.setShared
  repeat' first
    | with_reducible exact h
    | with_reducible assumption
    | with_reducible apply State.setGuild_within
    | with_reducible apply foldl_within
    | intro _
    | refine fst_within (by assumption) ?_
    | refine snd_within (by assumption) ?_
    | split
    | dsimp only


end Sys2Proof.Machine
end

