-- ==== Sys2Proof/Laws/WithinEngine.lean ====
section
/-! SUPPORT. Generated: the parts of the state that the operations of Machine/Engine.lean leave alone. -/

namespace Sys2Proof.Machine

set_option autoImplicit false
set_option Elab.async false
set_option linter.unusedTactic false
set_option linter.unreachableTactic false
set_option linter.unusedSimpArgs false
set_option linter.unusedVariables false

variable {K : Part → Prop} {sB : State}

theorem State.testOut_within {s : State} (h : s.Within K sB) (k : Nat) (x : Ctx) (d : Desc) (trap : Option Nat) (k_eng : K .eng := by assumption) : (State.testOut s k x d trap).Within K sB := by
  unfold State.testOut
  repeat' first
    | with_reducible exact h
    | with_reducible assumption
    | simp only [↓within_eng k_eng]
    | with_reducible apply State.trap_within
    | intro _
    | refine fst_within (by assumption) ?_
    | refine snd_within (by assumption) ?_
    | split
    | dsimp only


theorem State.endException_within {s : State} (h : s.Within K sB) (k : Nat) (x : Ctx) (reason : Nat) (k_words : K .words := by assumption) (k_ctrs : K .ctrs := by assumption) (k_flt : K .flt := by assumption) (k_cpg : K .cpg := by assumption) (k_eng : K .eng := by assumption) (k_fwd : K .fwd := by assumption) (k_tly : K .tly := by assumption) : (State.endException s k x reason).Within K sB := by
  unfold State.endException
  repeat' first
    | with_reducible exact h
    | with_reducible assumption
    | with_reducible apply State.setCtx_within
    | with_reducible apply State.testOut_within
    | with_reducible apply State.complete_within
    | intro _
    | refine fst_within (by assumption) ?_
    | refine snd_within (by assumption) ?_
    | split
    | dsimp only


theorem State.logTrap_within {s : State} (h : s.Within K sB) (k : Nat) (x : Ctx) (code : TrapCode) (user : Nat) (k_words : K .words := by assumption) (k_eng : K .eng := by assumption) : (State.logTrap s k x code user).Within K sB := by
  unfold State.logTrap
  repeat' first
    | with_reducible exact h
    | with_reducible assumption
    | with_reducible apply State.setGuild_within
    | with_reducible apply State.wr_within
    | with_reducible apply State.putWord_within
    | intro _
    | refine fst_within (by assumption) ?_
    | refine snd_within (by assumption) ?_
    | split
    | dsimp only


theorem State.trap_within {s : State} (h : s.Within K sB) (k : Nat) (x : Ctx) (code : TrapCode) (user : Nat) (k_words : K .words := by assumption) (k_ctrs : K .ctrs := by assumption) (k_flt : K .flt := by assumption) (k_cpg : K .cpg := by assumption) (k_eng : K .eng := by assumption) (k_fwd : K .fwd := by assumption) (k_tly : K .tly := by assumption) : (State.trap s k x code user).Within K sB := by
  unfold State.trap
  repeat' first
    | with_reducible exact h
    | with_reducible assumption
    | with_reducible apply State.setCtx_within
    | with_reducible apply State.testOut_within
    | with_reducible apply State.logTrap_within
    | with_reducible apply State.inc_within
    | with_reducible apply State.raiseLimited_within
    | with_reducible apply State.endException_within
    | intro _
    | refine fst_within (by assumption) ?_
    | refine snd_within (by assumption) ?_
    | split
    | dsimp only


theorem State.replayCtx_within {s : State} (h : s.Within K sB) (k : Nat) (k_words : K .words := by assumption) (k_ctrs : K .ctrs := by assumption) (k_flt : K .flt := by assumption) (k_cpg : K .cpg := by assumption) (k_eng : K .eng := by assumption) (k_fwd : K .fwd := by assumption) (k_tly : K .tly := by assumption) : (State.replayCtx s k).Within K sB := by
  unfold State.replayCtx
  repeat' first
    | with_reducible exact h
    | with_reducible assumption
    | simp only [↓within_fwd k_fwd]
    | with_reducible apply State.setCtx_within
    | with_reducible apply State.inc_within
    | with_reducible apply State.complete_within
    | with_reducible apply State.modFlight_within
    | with_reducible apply State.place_within
    | intro _
    | refine fst_within (by assumption) ?_
    | refine snd_within (by assumption) ?_
    | split
    | dsimp only


theorem State.setFailed_within {s : State} (h : s.Within K sB) (l : List Nat) (k_eng : K .eng := by assumption) : (State.setFailed s l).Within K sB := by
  unfold State.setFailed
  repeat' first
    | with_reducible exact h
    | with_reducible assumption
    | simp only [↓within_eng k_eng]
    | intro _
    | refine fst_within (by assumption) ?_
    | refine snd_within (by assumption) ?_
    | split
    | dsimp only


theorem State.emptyEngine_within {s : State} (h : s.Within K sB) (g e : Nat) (k_words : K .words := by assumption) (k_ctrs : K .ctrs := by assumption) (k_flt : K .flt := by assumption) (k_cpg : K .cpg := by assumption) (k_eng : K .eng := by assumption) (k_fwd : K .fwd := by assumption) (k_tly : K .tly := by assumption) : (State.emptyEngine s g e).Within K sB := by
  unfold State.emptyEngine
  repeat' first
    | with_reducible exact h
    | with_reducible assumption
    | with_reducible apply State.replayCtx_within
    | with_reducible apply State.setFailed_within
    | with_reducible apply foldl_within
    | intro _
    | refine fst_within (by assumption) ?_
    | refine snd_within (by assumption) ?_
    | split
    | dsimp only


theorem State.emptyGuild_within {s : State} (h : s.Within K sB) (g : Nat) (k_words : K .words := by assumption) (k_ctrs : K .ctrs := by assumption) (k_flt : K .flt := by assumption) (k_cpg : K .cpg := by assumption) (k_eng : K .eng := by assumption) (k_fwd : K .fwd := by assumption) (k_tly : K .tly := by assumption) : (State.emptyGuild s g).Within K sB := by
  unfold State.emptyGuild
  repeat' first
    | with_reducible exact h
    | with_reducible assumption
    | with_reducible apply State.emptyEngine_within
    | with_reducible apply foldl_within
    | intro _
    | refine fst_within (by assumption) ?_
    | refine snd_within (by assumption) ?_
    | split
    | dsimp only


theorem State.retireGuild_within {s : State} (h : s.Within K sB) (g : Nat) (k_words : K .words := by assumption) (k_ctrs : K .ctrs := by assumption) (k_flt : K .flt := by assumption) (k_cpg : K .cpg := by assumption) (k_eng : K .eng := by assumption) (k_fwd : K .fwd := by assumption) (k_tly : K .tly := by assumption) : (State.retireGuild s g).Within K sB := by
  unfold State.retireGuild
  repeat' first
    | with_reducible exact h
    | with_reducible assumption
    | with_reducible apply State.wr_within
    | with_reducible apply State.emptyGuild_within
    | intro _
    | refine fst_within (by assumption) ?_
    | refine snd_within (by assumption) ?_
    | split
    | dsimp only


theorem State.retireLoose_within {s : State} (h : s.Within K sB) (g : Nat) (ks : List Kind) (k_words : K .words := by assumption) (k_ctrs : K .ctrs := by assumption) (k_flt : K .flt := by assumption) (k_cpg : K .cpg := by assumption) (k_eng : K .eng := by assumption) (k_fwd : K .fwd := by assumption) (k_tly : K .tly := by assumption) : (State.retireLoose s g ks).Within K sB := by
  unfold State.retireLoose
  repeat' first
    | with_reducible exact h
    | with_reducible assumption
    | simp only [↓within_flt k_flt]
    | with_reducible apply State.retireGuild_within
    | with_reducible apply State.inc_within
    | intro _
    | refine fst_within (by assumption) ?_
    | refine snd_within (by assumption) ?_
    | split
    | dsimp only


theorem State.codeEcc_within {s : State} (h : s.Within K sB) (g pc : Nat) (uncorr : Bool) (k_words : K .words := by assumption) (k_ctrs : K .ctrs := by assumption) (k_flt : K .flt := by assumption) (k_cpg : K .cpg := by assumption) (k_eng : K .eng := by assumption) (k_fwd : K .fwd := by assumption) (k_tly : K .tly := by assumption) : (State.codeEcc s g pc uncorr).Within K sB := by
  unfold State.codeEcc
  repeat' first
    | with_reducible exact h
    | with_reducible assumption
    | with_reducible apply State.retireGuild_within
    | with_reducible apply State.raise_within
    | with_reducible apply State.inc_within
    | intro _
    | refine fst_within (by assumption) ?_
    | refine snd_within (by assumption) ?_
    | split
    | dsimp only


theorem State.spend_within {s : State} (h : s.Within K sB) (k : Nat) (k_ctrs : K .ctrs := by assumption) (k_eng : K .eng := by assumption) (k_tly : K .tly := by assumption) : (State.spend s k).Within K sB := by
  unfold State.spend
  repeat' first
    | with_reducible exact h
    | with_reducible assumption
    | simp only [↓within_eng k_eng]
    | with_reducible apply State.setGuild_within
    | with_reducible apply State.inc_within
    | intro _
    | refine fst_within (by assumption) ?_
    | refine snd_within (by assumption) ?_
    | split
    | dsimp only


theorem State.issue_within {s : State} (h : s.Within K sB) (k : Nat) (ecc : Option Bool) (cls op : Nat) (f : State → Ctx → Insn → State)
    (hf : ∀ (t : State) (x : Ctx) (i : Insn), t.Within K sB → (f t x i).Within K sB) (k_words : K .words := by assumption) (k_ctrs : K .ctrs := by assumption) (k_flt : K .flt := by assumption) (k_cpg : K .cpg := by assumption) (k_eng : K .eng := by assumption) (k_fwd : K .fwd := by assumption) (k_tly : K .tly := by assumption) : (State.issue s k ecc cls op f).Within K sB := by
  unfold State.issue
  repeat' first
    | with_reducible exact h
    | with_reducible assumption
    | with_reducible assumption
    | dsimp only
    | with_reducible apply hf
    | with_reducible apply State.trap_within
    | with_reducible apply State.codeEcc_within
    | with_reducible apply State.spend_within
    | with_reducible apply foldl_within
    | intro _
    | refine fst_within (by assumption) ?_
    | refine snd_within (by assumption) ?_
    | split
    | dsimp only


theorem State.retire_within {s : State} (h : s.Within K sB) (k : Nat) (x : Ctx) (k_ctrs : K .ctrs := by assumption) (k_eng : K .eng := by assumption) (k_tly : K .tly := by assumption) : (State.retire s k x).Within K sB := by
  unfold State.retire
  repeat' first
    | with_reducible exact h
    | with_reducible assumption
    | with_reducible apply State.spend_within
    | with_reducible apply State.setCtx_within
    | intro _
    | refine fst_within (by assumption) ?_
    | refine snd_within (by assumption) ?_
    | split
    | dsimp only


theorem State.jump_within {s : State} (h : s.Within K sB) (k : Nat) (x : Ctx) (pc : Nat) (k_ctrs : K .ctrs := by assumption) (k_eng : K .eng := by assumption) (k_tly : K .tly := by assumption) : (State.jump s k x pc).Within K sB := by
  unfold State.jump
  repeat' first
    | with_reducible exact h
    | with_reducible assumption
    | with_reducible apply State.spend_within
    | with_reducible apply State.setCtx_within
    | intro _
    | refine fst_within (by assumption) ?_
    | refine snd_within (by assumption) ?_
    | split
    | dsimp only


theorem State.trapNow_within {s : State} (h : s.Within K sB) (k : Nat) (x : Ctx) (code : TrapCode) (user : Nat) (k_words : K .words := by assumption) (k_ctrs : K .ctrs := by assumption) (k_flt : K .flt := by assumption) (k_cpg : K .cpg := by assumption) (k_eng : K .eng := by assumption) (k_fwd : K .fwd := by assumption) (k_tly : K .tly := by assumption) : (State.trapNow s k x code user).Within K sB := by
  unfold State.trapNow
  repeat' first
    | with_reducible exact h
    | with_reducible assumption
    | with_reducible apply State.spend_within
    | with_reducible apply State.trap_within
    | intro _
    | refine fst_within (by assumption) ?_
    | refine snd_within (by assumption) ?_
    | split
    | dsimp only


theorem State.waitFor_within {s : State} (h : s.Within K sB) (k : Nat) (x : Ctx) (m : Nat) (k_eng : K .eng := by assumption) : (State.waitFor s k x m).Within K sB := by
  unfold State.waitFor
  repeat' first
    | with_reducible exact h
    | with_reducible assumption
    | with_reducible apply State.setCtx_within
    | intro _
    | refine fst_within (by assumption) ?_
    | refine snd_within (by assumption) ?_
    | split
    | dsimp only


theorem State.alu_within {s : State} (h : s.Within K sB) (k : Nat) (x : Ctx) (i : Insn) (op : AluOp) (imm : Bool) (k_ctrs : K .ctrs := by assumption) (k_eng : K .eng := by assumption) (k_tly : K .tly := by assumption) : (State.alu s k x i op imm).Within K sB := by
  unfold State.alu
  repeat' first
    | with_reducible exact h
    | with_reducible assumption
    | with_reducible apply State.retire_within
    | intro _
    | refine fst_within (by assumption) ?_
    | refine snd_within (by assumption) ?_
    | split
    | dsimp only


theorem State.aluRow_within {s : State} (h : s.Within K sB) (k : Nat) (ecc : Option Bool) (op : AluOp) (k_words : K .words := by assumption) (k_ctrs : K .ctrs := by assumption) (k_flt : K .flt := by assumption) (k_cpg : K .cpg := by assumption) (k_eng : K .eng := by assumption) (k_fwd : K .fwd := by assumption) (k_tly : K .tly := by assumption) : (State.aluRow s k ecc op).Within K sB := by
  unfold State.aluRow
  repeat' first
    | with_reducible exact h
    | with_reducible assumption
    | with_reducible apply State.issue_within
    | with_reducible apply State.alu_within
    | intro _
    | refine fst_within (by assumption) ?_
    | refine snd_within (by assumption) ?_
    | split
    | dsimp only


theorem State.branch_within {s : State} (h : s.Within K sB) (k : Nat) (x : Ctx) (i : Insn) (c : Cond) (k_ctrs : K .ctrs := by assumption) (k_eng : K .eng := by assumption) (k_tly : K .tly := by assumption) : (State.branch s k x i c).Within K sB := by
  unfold State.branch
  repeat' first
    | with_reducible exact h
    | with_reducible assumption
    | with_reducible apply State.jump_within
    | with_reducible apply State.retire_within
    | intro _
    | refine fst_within (by assumption) ?_
    | refine snd_within (by assumption) ?_
    | split
    | dsimp only


theorem State.defer_within {s : State} (h : s.Within K sB) (k : Nat) (x : Ctx) (e : Deferred) (k_words : K .words := by assumption) (k_ctrs : K .ctrs := by assumption) (k_flt : K .flt := by assumption) (k_cpg : K .cpg := by assumption) (k_eng : K .eng := by assumption) (k_fwd : K .fwd := by assumption) (k_tly : K .tly := by assumption) : (State.defer s k x e).Within K sB := by
  unfold State.defer
  repeat' first
    | with_reducible exact h
    | with_reducible assumption
    | with_reducible apply State.trapNow_within
    | with_reducible apply State.retire_within
    | intro _
    | refine fst_within (by assumption) ?_
    | refine snd_within (by assumption) ?_
    | split
    | dsimp only


theorem State.dataEcc_within {s : State} (h : s.Within K sB) (g off : Nat) (uncorr : Bool) (k_free : K .free := by assumption) (k_flt : K .flt := by assumption) : (State.dataEcc s g off uncorr).Within K sB := by
  unfold State.dataEcc
  repeat' first
    | with_reducible exact h
    | with_reducible assumption
    | with_reducible apply State.fresh_within
    | with_reducible apply State.raise_within
    | intro _
    | refine fst_within (by assumption) ?_
    | refine snd_within (by assumption) ?_
    | split
    | dsimp only


theorem State.ld_within {s : State} (h : s.Within K sB) (k : Nat) (x : Ctx) (i : Insn) (mecc : Option Bool) (k_words : K .words := by assumption) (k_ctrs : K .ctrs := by assumption) (k_free : K .free := by assumption) (k_flt : K .flt := by assumption) (k_cpg : K .cpg := by assumption) (k_eng : K .eng := by assumption) (k_fwd : K .fwd := by assumption) (k_tly : K .tly := by assumption) : (State.ld s k x i mecc).Within K sB := by
  unfold State.ld
  repeat' first
    | with_reducible exact h
    | with_reducible assumption
    | with_reducible apply State.trapNow_within
    | with_reducible apply State.access_within
    | with_reducible apply State.waitFor_within
    | with_reducible apply State.retire_within
    | with_reducible apply State.dataEcc_within
    | with_reducible apply State.fresh_within
    | intro _
    | refine fst_within (by assumption) ?_
    | refine snd_within (by assumption) ?_
    | split
    | dsimp only


theorem State.st_within {s : State} (h : s.Within K sB) (k : Nat) (x : Ctx) (i : Insn) (k_words : K .words := by assumption) (k_ctrs : K .ctrs := by assumption) (k_flt : K .flt := by assumption) (k_cpg : K .cpg := by assumption) (k_eng : K .eng := by assumption) (k_fwd : K .fwd := by assumption) (k_tly : K .tly := by assumption) : (State.st s k x i).Within K sB := by
  unfold State.st
  repeat' first
    | with_reducible exact h
    | with_reducible assumption
    | with_reducible apply State.trapNow_within
    | with_reducible apply State.access_within
    | with_reducible apply State.retire_within
    | with_reducible apply State.defer_within
    | with_reducible apply foldl_within
    | intro _
    | refine fst_within (by assumption) ?_
    | refine snd_within (by assumption) ?_
    | split
    | dsimp only


theorem State.atomic_within {s : State} (h : s.Within K sB) (k : Nat) (x : Ctx) (i : Insn) (f : Nat → State) (hf : ∀ n, (f n).Within K sB) (k_words : K .words := by assumption) (k_ctrs : K .ctrs := by assumption) (k_flt : K .flt := by assumption) (k_cpg : K .cpg := by assumption) (k_eng : K .eng := by assumption) (k_fwd : K .fwd := by assumption) (k_tly : K .tly := by assumption) :
    (State.atomic s k x i f).Within K sB := by
  unfold State.atomic
  repeat' first
    | with_reducible exact h
    | with_reducible assumption
    | with_reducible assumption
    | dsimp only
    | with_reducible apply hf
    | with_reducible apply State.trapNow_within
    | with_reducible apply foldl_within
    | intro _
    | refine fst_within (by assumption) ?_
    | refine snd_within (by assumption) ?_
    | split
    | dsimp only


theorem State.atomicNow_within {s : State} (h : s.Within K sB) (k : Nat) (x : Ctx) (i : Insn) (new : Nat → Nat) (k_words : K .words := by assumption) (k_ctrs : K .ctrs := by assumption) (k_flt : K .flt := by assumption) (k_cpg : K .cpg := by assumption) (k_eng : K .eng := by assumption) (k_fwd : K .fwd := by assumption) (k_tly : K .tly := by assumption) : (State.atomicNow s k x i new).Within K sB := by
  unfold State.atomicNow
  repeat' first
    | with_reducible exact h
    | with_reducible assumption
    | with_reducible apply State.atomic_within
    | with_reducible apply State.setShared_within
    | with_reducible apply State.inc_within
    | with_reducible apply State.retire_within
    | intro _
    | refine fst_within (by assumption) ?_
    | refine snd_within (by assumption) ?_
    | split
    | dsimp only


theorem State.parseStep_within {s : State} (h : s.Within K sB) (k : Nat) (x : Ctx) (o : ParseOut) (k_words : K .words := by assumption) (k_ctrs : K .ctrs := by assumption) (k_flt : K .flt := by assumption) (k_cpg : K .cpg := by assumption) (k_eng : K .eng := by assumption) (k_fwd : K .fwd := by assumption) (k_tly : K .tly := by assumption) : (State.parseStep s k x o).Within K sB := by
  unfold State.parseStep
  repeat' first
    | with_reducible exact h
    | with_reducible assumption
    | with_reducible apply State.retire_within
    | with_reducible apply State.spend_within
    | with_reducible apply State.endException_within
    | with_reducible apply State.conflict_within
    | with_reducible apply State.trapNow_within
    | intro _
    | refine fst_within (by assumption) ?_
    | refine snd_within (by assumption) ?_
    | split
    | dsimp only


theorem State.lookup_within {s : State} (h : s.Within K sB) (k : Nat) (x : Ctx) (i : Insn) (exm : Bool) (k_words : K .words := by assumption) (k_ctrs : K .ctrs := by assumption) (k_flt : K .flt := by assumption) (k_cpg : K .cpg := by assumption) (k_eng : K .eng := by assumption) (k_fwd : K .fwd := by assumption) (k_tly : K .tly := by assumption) : (State.lookup s k x i exm).Within K sB := by
  unfold State.lookup
  repeat' first
    | with_reducible exact h
    | with_reducible assumption
    | with_reducible apply State.waitFor_within
    | with_reducible apply State.trapNow_within
    | with_reducible apply State.setSlot_within
    | with_reducible apply State.inc_within
    | with_reducible apply State.retire_within
    | intro _
    | refine fst_within (by assumption) ?_
    | refine snd_within (by assumption) ?_
    | split
    | dsimp only


theorem State.lookupWait_within {s : State} (h : s.Within K sB) (k : Nat) (x : Ctx) (i : Insn) (k_ctrs : K .ctrs := by assumption) (k_eng : K .eng := by assumption) (k_tly : K .tly := by assumption) : (State.lookupWait s k x i).Within K sB := by
  unfold State.lookupWait
  repeat' first
    | with_reducible exact h
    | with_reducible assumption
    | with_reducible apply State.retire_within
    | intro _
    | refine fst_within (by assumption) ?_
    | refine snd_within (by assumption) ?_
    | split
    | dsimp only


theorem State.ins_within {s : State} (h : s.Within K sB) (k : Nat) (x : Ctx) (i : Insn) (k_words : K .words := by assumption) (k_ctrs : K .ctrs := by assumption) (k_free : K .free := by assumption) (k_flt : K .flt := by assumption) (k_cpg : K .cpg := by assumption) (k_eng : K .eng := by assumption) (k_fwd : K .fwd := by assumption) (k_tly : K .tly := by assumption) : (State.ins s k x i).Within K sB := by
  unfold State.ins
  repeat' first
    | with_reducible exact h
    | with_reducible assumption
    | simp only [↓within_free k_free]
    | with_reducible apply State.trapNow_within
    | with_reducible apply State.retire_within
    | with_reducible apply State.drop_within
    | intro _
    | refine fst_within (by assumption) ?_
    | refine snd_within (by assumption) ?_
    | split
    | dsimp only


theorem State.del_within {s : State} (h : s.Within K sB) (k : Nat) (x : Ctx) (i : Insn) (k_words : K .words := by assumption) (k_ctrs : K .ctrs := by assumption) (k_flt : K .flt := by assumption) (k_cpg : K .cpg := by assumption) (k_eng : K .eng := by assumption) (k_fwd : K .fwd := by assumption) (k_tly : K .tly := by assumption) : (State.del s k x i).Within K sB := by
  unfold State.del
  repeat' first
    | with_reducible exact h
    | with_reducible assumption
    | with_reducible apply State.trapNow_within
    | with_reducible apply State.retire_within
    | with_reducible apply State.drop_within
    | intro _
    | refine fst_within (by assumption) ?_
    | refine snd_within (by assumption) ?_
    | split
    | dsimp only


theorem State.csum_within {s : State} (h : s.Within K sB) (k : Nat) (x : Ctx) (i : Insn) (k_words : K .words := by assumption) (k_ctrs : K .ctrs := by assumption) (k_flt : K .flt := by assumption) (k_cpg : K .cpg := by assumption) (k_eng : K .eng := by assumption) (k_fwd : K .fwd := by assumption) (k_tly : K .tly := by assumption) : (State.csum s k x i).Within K sB := by
  unfold State.csum
  repeat' first
    | with_reducible exact h
    | with_reducible assumption
    | with_reducible apply State.trapNow_within
    | with_reducible apply State.retire_within
    | intro _
    | refine fst_within (by assumption) ?_
    | refine snd_within (by assumption) ?_
    | split
    | dsimp only


theorem State.setDesc_within {s : State} (h : s.Within K sB) (k : Nat) (x : Ctx) (d : Desc) (k_ctrs : K .ctrs := by assumption) (k_eng : K .eng := by assumption) (k_tly : K .tly := by assumption) : (State.setDesc s k x d).Within K sB := by
  unfold State.setDesc
  repeat' first
    | with_reducible exact h
    | with_reducible assumption
    | with_reducible apply State.retire_within
    | intro _
    | refine fst_within (by assumption) ?_
    | refine snd_within (by assumption) ?_
    | split
    | dsimp only


theorem State.apply_within {s : State} (h : s.Within K sB) (g : Nat) (e : Deferred) (k_whf : K .whf := by assumption) (k_eng : K .eng := by assumption) : (State.apply s g e).Within K sB := by
  unfold State.apply
  repeat' first
    | with_reducible exact h
    | with_reducible assumption
    | simp only [↓within_whf k_whf]
    | with_reducible apply State.setShared_within
    | intro _
    | refine fst_within (by assumption) ?_
    | refine snd_within (by assumption) ?_
    | split
    | dsimp only


theorem State.commit_within {s : State} (h : s.Within K sB) (k : Nat) (x : Ctx) (k_words : K .words := by assumption) (k_ctrs : K .ctrs := by assumption) (k_flt : K .flt := by assumption) (k_whf : K .whf := by assumption) (k_cpg : K .cpg := by assumption) (k_eng : K .eng := by assumption) (k_fwd : K .fwd := by assumption) (k_tly : K .tly := by assumption) : (State.commit s k x).Within K sB := by
  unfold State.commit
  repeat' first
    | with_reducible exact h
    | with_reducible assumption
    | simp only [↓within_fwd k_fwd]
    | with_reducible apply State.spend_within
    | with_reducible apply State.setCtx_within
    | with_reducible apply State.testOut_within
    | with_reducible apply State.setBuf_within
    | with_reducible apply State.inc_within
    | with_reducible apply State.apply_within
    | with_reducible apply State.count_within
    | with_reducible apply State.modFlight_within
    | with_reducible apply State.place_within
    | with_reducible apply State.complete_within
    | with_reducible apply foldl_within
    | intro _
    | refine fst_within (by assumption) ?_
    | refine snd_within (by assumption) ?_
    | split
    | dsimp only


end Sys2Proof.Machine
end

