-- ==== Sys2Proof/Laws/WithinEngCmd.lean ====
section
/-! SUPPORT. Generated: the parts of the state that the operations of Machine/EngCmd.lean leave alone. -/

namespace Sys2Proof.Machine

set_option autoImplicit false
set_option Elab.async false
set_option linter.unusedTactic false
set_option linter.unreachableTactic false
set_option linter.unusedSimpArgs false
set_option linter.unusedVariables false

variable {K : Part → Prop} {sB : State}

theorem State.slotFound_within {s : State} (k m : Nat) (x : Ctx) (exm soft : Bool) (r : State × LRes) (h : r.1.Within K sB) (k_eng : K .eng := by assumption) :
    (State.slotFound s k m x exm soft r).Within K sB := State.setCtx_within h ..


theorem State.markFailed_within {s : State} (h : s.Within K sB) (g e : Nat) (k_eng : K .eng := by assumption) : (State.markFailed s g e).Within K sB := by
  unfold State.markFailed
  repeat' first
    | with_reducible exact h
    | with_reducible assumption
    | with_reducible apply State.setFailed_within
    | intro _
    | refine fst_within (by assumption) ?_
    | refine snd_within (by assumption) ?_
    | split
    | dsimp only


theorem State.storeStbyGen_within {s : State} (h : s.Within K sB) (g : Nat) (k_words : K .words := by assumption) : (State.storeStbyGen s g).Within K sB := by
  unfold State.storeStbyGen
  repeat' first
    | with_reducible exact h
    | with_reducible assumption
    | with_reducible apply State.wr_within
    | intro _
    | refine fst_within (by assumption) ?_
    | refine snd_within (by assumption) ?_
    | split
    | dsimp only


theorem State.swapBanks_within {s : State} (h : s.Within K sB) (g : Nat) (k_words : K .words := by assumption) : (State.swapBanks s g).Within K sB := by
  unfold State.swapBanks
  repeat' first
    | with_reducible exact h
    | with_reducible assumption
    | with_reducible apply State.wr_within
    | with_reducible apply State.storeStbyGen_within
    | intro _
    | refine fst_within (by assumption) ?_
    | refine snd_within (by assumption) ?_
    | split
    | dsimp only


theorem State.initShared_within {s : State} (h : s.Within K sB) (g : Nat) (k_eng : K .eng := by assumption) : (State.initShared s g).Within K sB := by
  unfold State.initShared
  repeat' first
    | with_reducible exact h
    | with_reducible assumption
    | with_reducible apply State.setGuild_within
    | with_reducible apply foldl_within
    | intro _
    | refine fst_within (by assumption) ?_
    | refine snd_within (by assumption) ?_
    | split
    | dsimp only


theorem State.gldCommand_within {s : State} (h : s.Within K sB) (g cmd : Nat) (k_words : K .words := by assumption) (k_eng : K .eng := by assumption) : (State.gldCommand s g cmd).Within K sB := by
  unfold State.gldCommand
  repeat' first
    | with_reducible exact h
    | with_reducible assumption
    | with_reducible apply State.wr_within
    | with_reducible apply State.swapBanks_within
    | with_reducible apply State.initShared_within
    | intro _
    | refine fst_within (by assumption) ?_
    | refine snd_within (by assumption) ?_
    | split
    | dsimp only


theorem State.checkPassed_within {s : State} (h : s.Within K sB) (g : Nat) (k_words : K .words := by assumption) : (State.checkPassed s g).Within K sB := by
  unfold State.checkPassed
  repeat' first
    | with_reducible exact h
    | with_reducible assumption
    | with_reducible apply State.wr_within
    | intro _
    | refine fst_within (by assumption) ?_
    | refine snd_within (by assumption) ?_
    | split
    | dsimp only


theorem State.gldCtrl_within {s : State} (h : s.Within K sB) (ag : Agent) (g : Nat) (v : Word) (k_words : K .words := by assumption) (k_ctrs : K .ctrs := by assumption) (k_free : K .free := by assumption) (k_flt : K .flt := by assumption) (k_cpg : K .cpg := by assumption) (k_eng : K .eng := by assumption) (k_fwd : K .fwd := by assumption) (k_tly : K .tly := by assumption) : (State.gldCtrl s ag g v).Within K sB := by
  unfold State.gldCtrl
  repeat' first
    | with_reducible exact h
    | with_reducible assumption
    | with_reducible apply State.gate_within
    | with_reducible apply State.storeWord_within
    | with_reducible apply State.emptyEngine_within
    | with_reducible apply State.retireLoose_within
    | with_reducible apply State.checkPassed_within
    | with_reducible apply State.gldCommand_within
    | with_reducible apply foldl_within
    | intro _
    | refine fst_within (by assumption) ?_
    | refine snd_within (by assumption) ?_
    | split
    | dsimp only


theorem State.gldStore_within {s : State} (h : s.Within K sB) (g idx first : Nat) (ws : List Word) (k_words : K .words := by assumption) (k_eng : K .eng := by assumption) : (State.gldStore s g idx first ws).Within K sB := by
  unfold State.gldStore
  repeat' first
    | with_reducible exact h
    | with_reducible assumption
    | with_reducible apply State.setGuild_within
    | with_reducible apply State.wr_within
    | with_reducible apply State.storeStbyGen_within
    | with_reducible apply foldl_within
    | intro _
    | refine fst_within (by assumption) ?_
    | refine snd_within (by assumption) ?_
    | split
    | dsimp only


theorem execValidateBank_within {s : State} (h : s.Within K sB) (ag : Agent) (g : Fin 64) (k_words : K .words := by assumption) (k_ctrs : K .ctrs := by assumption) (k_free : K .free := by assumption) (k_flt : K .flt := by assumption) (k_tly : K .tly := by assumption) : Completes (execValidateBank ag g s) (fun t => t.Within K sB) := by
  unfold execValidateBank
  repeat' first
    | with_reducible refine completes_within _ ?_
    | with_reducible exact h
    | with_reducible assumption
    | with_reducible apply ok_within
    | with_reducible apply State.gate_within
    | with_reducible apply State.wr_within
    | intro _
    | refine fst_within (by assumption) ?_
    | refine snd_within (by assumption) ?_
    | split
    | dsimp only


end Sys2Proof.Machine
end

