-- ==== Sys2Proof/Laws/WithinLdgCmd.lean ====
section
/-! SUPPORT. Generated: the parts of the state that the operations of Machine/LdgCmd.lean leave alone. -/

namespace Sys2Proof.Machine

set_option autoImplicit false
set_option Elab.async false
set_option linter.unusedTactic false
set_option linter.unreachableTactic false
set_option linter.unusedSimpArgs false
set_option linter.unusedVariables false

variable {K : Part → Prop} {sB : State}

theorem State.scrub_within {s : State} (h : s.Within K sB) (row : Nat) (mismatch uncorr : Bool) (k_ctrs : K .ctrs := by assumption) (k_flt : K .flt := by assumption) (k_ldg : K .ldg := by assumption) (k_tly : K .tly := by assumption) : (State.scrub s row mismatch uncorr).Within K sB := by
  unfold State.scrub
  repeat' first
    | with_reducible exact h
    | with_reducible assumption
    | with_reducible apply State.setRow_within
    | with_reducible apply State.raise_within
    | with_reducible apply State.fixRow_within
    | intro _
    | refine fst_within (by assumption) ?_
    | refine snd_within (by assumption) ?_
    | split
    | dsimp only


theorem State.storeSweep_within {s : State} (h : s.Within K sB) (k_words : K .words := by assumption) : (State.storeSweep s).Within K sB := by
  unfold State.storeSweep
  repeat' first
    | with_reducible exact h
    | with_reducible assumption
    | with_reducible apply State.wr_within
    | intro _
    | refine fst_within (by assumption) ?_
    | refine snd_within (by assumption) ?_
    | split
    | dsimp only


theorem State.retireDone_within {s : State} (h : s.Within K sB) (e : Nat) (k_words : K .words := by assumption) (k_ctrs : K .ctrs := by assumption) (k_ldg : K .ldg := by assumption) (k_tly : K .tly := by assumption) : (State.retireDone s e).Within K sB := by
  unfold State.retireDone
  repeat' first
    | with_reducible exact h
    | with_reducible assumption
    | simp only [↓within_ldg k_ldg]
    | with_reducible apply State.sweepAll_within
    | with_reducible apply State.wr_within
    | with_reducible apply State.inc_within
    | with_reducible apply State.storeSweep_within
    | with_reducible apply State.storeLive_within
    | intro _
    | refine fst_within (by assumption) ?_
    | refine snd_within (by assumption) ?_
    | split
    | dsimp only


theorem State.discardDone_within {s : State} (h : s.Within K sB) (k e : Nat) (k_words : K .words := by assumption) (k_ctrs : K .ctrs := by assumption) (k_free : K .free := by assumption) (k_flt : K .flt := by assumption) (k_ldg : K .ldg := by assumption) (k_tly : K .tly := by assumption) (k_hst : K .hst := by assumption) : (State.discardDone s k e).Within K sB := by
  unfold State.discardDone
  repeat' first
    | with_reducible exact h
    | with_reducible assumption
    | simp only [↓within_ldg k_ldg]
    | with_reducible apply State.sweepAll_within
    | with_reducible apply State.inc_within
    | with_reducible apply State.storeSweep_within
    | with_reducible apply State.ldgDone_within
    | with_reducible apply ok_within
    | with_reducible apply State.ldgNext_within
    | intro _
    | refine fst_within (by assumption) ?_
    | refine snd_within (by assumption) ?_
    | split
    | dsimp only


end Sys2Proof.Machine
end

