-- ==== Sys2Proof/Laws/WithinHorolog.lean ====
section
/-! SUPPORT. Generated: the parts of the state that the operations of Machine/Horolog.lean leave alone. -/

namespace Sys2Proof.Machine

set_option autoImplicit false
set_option Elab.async false
set_option linter.unusedTactic false
set_option linter.unreachableTactic false
set_option linter.unusedSimpArgs false
set_option linter.unusedVariables false

variable {K : Part → Prop} {sB : State}

theorem State.outJump_within {s : State} (h : s.Within K sB) (step : Int) (k_pon : K .pon := by assumption) (k_pm : K .pm := by assumption) (k_hrl : K .hrl := by assumption) : (State.outJump s step).Within K sB := by
  have h1 : ∀ (l : List (Fin 32)) (t : State), t.Within K sB → (l.foldl (fun s p => s.setPort p { s.port p with tick := (s.port p).tick + step }) t).Within K sB :=
    fun l t ht => foldl_within l _ ht (fun u p hu => State.setPort_within hu ..)
  unfold State.outJump
  exact State.reannounce_within (h1 _ _ ((within_pm k_pm _).2 h)) _


theorem State.timeStepped_within {s : State} (h : s.Within K sB) (jump : Bool) (d : Nat) (step : Int) (k_flt : K .flt := by assumption) (k_pon : K .pon := by assumption) (k_pm : K .pm := by assumption) (k_hrl : K .hrl := by assumption) : (State.timeStepped s jump d step).Within K sB := by
  unfold State.timeStepped
  repeat' first
    | with_reducible exact h
    | with_reducible assumption
    | with_reducible apply State.jump_within
    | with_reducible apply State.outJump_within
    | with_reducible apply State.raise_within
    | intro _
    | refine fst_within (by assumption) ?_
    | refine snd_within (by assumption) ?_
    | split
    | dsimp only


theorem State.switchOut_within {s : State} (h : s.Within K sB) (d : Nat) (k_words : K .words := by assumption) (k_ctrs : K .ctrs := by assumption) (k_flt : K .flt := by assumption) (k_hrl : K .hrl := by assumption) (k_tly : K .tly := by assumption) : (State.switchOut s d).Within K sB := by
  unfold State.switchOut
  repeat' first
    | with_reducible exact h
    | with_reducible assumption
    | simp only [↓within_hrl k_hrl]
    | with_reducible apply State.wr_within
    | with_reducible apply State.reannounce_within
    | with_reducible apply State.inc_within
    | with_reducible apply State.raise_within
    | intro _
    | refine fst_within (by assumption) ?_
    | refine snd_within (by assumption) ?_
    | split
    | dsimp only


theorem State.autoSwitch_within {s : State} (h : s.Within K sB) (d : Nat) (k_words : K .words := by assumption) (k_ctrs : K .ctrs := by assumption) (k_flt : K .flt := by assumption) (k_hrl : K .hrl := by assumption) (k_tly : K .tly := by assumption) : (State.autoSwitch s d).Within K sB := by
  unfold State.autoSwitch
  repeat' first
    | with_reducible exact h
    | with_reducible assumption
    | with_reducible apply State.switchOut_within
    | intro _
    | refine fst_within (by assumption) ?_
    | refine snd_within (by assumption) ?_
    | split
    | dsimp only


theorem State.setDomState_within {s : State} (h : s.Within K sB) (d : Nat) (x : DomState) (k_flt : K .flt := by assumption) (k_hrl : K .hrl := by assumption) : (State.setDomState s d x).Within K sB := by
  unfold State.setDomState
  repeat' first
    | with_reducible exact h
    | with_reducible assumption
    | with_reducible apply State.setDom_within
    | with_reducible apply State.endCause_within
    | intro _
    | refine fst_within (by assumption) ?_
    | refine snd_within (by assumption) ?_
    | split
    | dsimp only


theorem State.acceptSample_within {s : State} (h : s.Within K sB) (d : Nat) (e : Int) (k_words : K .words := by assumption) (k_ctrs : K .ctrs := by assumption) (k_flt : K .flt := by assumption) (k_pon : K .pon := by assumption) (k_pm : K .pm := by assumption) (k_hrl : K .hrl := by assumption) (k_tly : K .tly := by assumption) : (State.acceptSample s d e).Within K sB := by
  unfold State.acceptSample
  repeat' first
    | with_reducible exact h
    | with_reducible assumption
    | with_reducible apply State.inc_within
    | with_reducible apply State.wr_within
    | with_reducible apply State.setDom_within
    | with_reducible apply State.setDomState_within
    | with_reducible apply State.timeStepped_within
    | with_reducible apply State.setFreq_within
    | with_reducible apply State.onset_within
    | with_reducible apply State.endCause_within
    | intro _
    | refine fst_within (by assumption) ?_
    | refine snd_within (by assumption) ?_
    | split
    | dsimp only


theorem State.domSample_within {s : State} (h : s.Within K sB) (d : Nat) (e : Int) (far : Bool) (k_words : K .words := by assumption) (k_ctrs : K .ctrs := by assumption) (k_flt : K .flt := by assumption) (k_pon : K .pon := by assumption) (k_pm : K .pm := by assumption) (k_hrl : K .hrl := by assumption) (k_tly : K .tly := by assumption) : (State.domSample s d e far).Within K sB := by
  unfold State.domSample
  repeat' first
    | with_reducible exact h
    | with_reducible assumption
    | with_reducible apply State.setDom_within
    | with_reducible apply State.inc_within
    | with_reducible apply State.acceptSample_within
    | intro _
    | refine fst_within (by assumption) ?_
    | refine snd_within (by assumption) ?_
    | split
    | dsimp only


theorem State.acquire_within {s : State} (h : s.Within K sB) (d : Nat) (k_flt : K .flt := by assumption) (k_hrl : K .hrl := by assumption) : (State.acquire s d).Within K sB := by
  unfold State.acquire
  repeat' first
    | with_reducible exact h
    | with_reducible assumption
    | with_reducible apply State.setDomState_within
    | intro _
    | refine fst_within (by assumption) ?_
    | refine snd_within (by assumption) ?_
    | split
    | dsimp only


theorem execPhaseSampleCommit_within {s : State} (h : s.Within K sB) (ag : Agent) (d : Fin 2) (v : Word) (k_words : K .words := by assumption) (k_ctrs : K .ctrs := by assumption) (k_free : K .free := by assumption) (k_flt : K .flt := by assumption) (k_pon : K .pon := by assumption) (k_pm : K .pm := by assumption) (k_hrl : K .hrl := by assumption) (k_tly : K .tly := by assumption) : Completes (execPhaseSampleCommit ag d v s) (fun t => t.Within K sB) := by
  unfold execPhaseSampleCommit
  repeat' first
    | with_reducible refine completes_within _ ?_
    | with_reducible exact h
    | with_reducible assumption
    | with_reducible apply ok_within
    | with_reducible apply State.gate_within
    | with_reducible apply State.acquire_within
    | with_reducible apply State.domSample_within
    | intro _
    | refine fst_within (by assumption) ?_
    | refine snd_within (by assumption) ?_
    | split
    | dsimp only


theorem execDomainEnWrite_within {s : State} (h : s.Within K sB) (ag : Agent) (d : Fin 2) (v : Word) (k_words : K .words := by assumption) (k_ctrs : K .ctrs := by assumption) (k_free : K .free := by assumption) (k_flt : K .flt := by assumption) (k_hrl : K .hrl := by assumption) (k_tly : K .tly := by assumption) : Completes (execDomainEnWrite ag d v s) (fun t => t.Within K sB) := by
  unfold execDomainEnWrite
  repeat' first
    | with_reducible refine completes_within _ ?_
    | with_reducible exact h
    | with_reducible assumption
    | with_reducible apply ok_within
    | with_reducible apply State.gate_within
    | with_reducible apply State.storeWord_within
    | with_reducible apply State.acquire_within
    | with_reducible apply State.setDomState_within
    | with_reducible apply State.setFreq_within
    | with_reducible apply State.setDom_within
    | with_reducible apply State.autoSwitch_within
    | intro _
    | refine fst_within (by assumption) ?_
    | refine snd_within (by assumption) ?_
    | split
    | dsimp only


theorem execSwitchOutput_within {s : State} (h : s.Within K sB) (ag : Agent) (v : Word) (k_words : K .words := by assumption) (k_ctrs : K .ctrs := by assumption) (k_free : K .free := by assumption) (k_flt : K .flt := by assumption) (k_hrl : K .hrl := by assumption) (k_tly : K .tly := by assumption) : Completes (execSwitchOutput ag v s) (fun t => t.Within K sB) := by
  unfold execSwitchOutput
  repeat' first
    | with_reducible refine completes_within _ ?_
    | with_reducible exact h
    | with_reducible assumption
    | with_reducible apply ok_within
    | with_reducible apply State.gate_within
    | with_reducible apply State.storeWord_within
    | with_reducible apply State.switchOut_within
    | intro _
    | refine fst_within (by assumption) ?_
    | refine snd_within (by assumption) ?_
    | split
    | dsimp only


theorem execOutStep_within {s : State} (h : s.Within K sB) (ag : Agent) (v : Word) (k_words : K .words := by assumption) (k_ctrs : K .ctrs := by assumption) (k_free : K .free := by assumption) (k_flt : K .flt := by assumption) (k_pon : K .pon := by assumption) (k_pm : K .pm := by assumption) (k_hrl : K .hrl := by assumption) (k_tly : K .tly := by assumption) : Completes (execOutStep ag v s) (fun t => t.Within K sB) := by
  unfold execOutStep
  repeat' first
    | with_reducible refine completes_within _ ?_
    | with_reducible exact h
    | with_reducible assumption
    | simp only [↓within_hrl k_hrl]
    | with_reducible apply ok_within
    | with_reducible apply State.gate_within
    | with_reducible apply State.storeWord_within
    | with_reducible apply State.timeStepped_within
    | intro _
    | refine fst_within (by assumption) ?_
    | refine snd_within (by assumption) ?_
    | split
    | dsimp only


theorem execReacquire_within {s : State} (h : s.Within K sB) (ag : Agent) (d : Fin 2) (v : Word) (k_words : K .words := by assumption) (k_ctrs : K .ctrs := by assumption) (k_free : K .free := by assumption) (k_flt : K .flt := by assumption) (k_hrl : K .hrl := by assumption) (k_tly : K .tly := by assumption) : Completes (execReacquire ag d v s) (fun t => t.Within K sB) := by
  unfold execReacquire
  repeat' first
    | with_reducible refine completes_within _ ?_
    | with_reducible exact h
    | with_reducible assumption
    | with_reducible apply ok_within
    | with_reducible apply State.gate_within
    | with_reducible apply State.storeWord_within
    | with_reducible apply State.wr_within
    | with_reducible apply State.setDomState_within
    | with_reducible apply State.setDom_within
    | intro _
    | refine fst_within (by assumption) ?_
    | refine snd_within (by assumption) ?_
    | split
    | dsimp only


theorem execTsRecordRead_within {s : State} (h : s.Within K sB) (ag : Agent) (tx : Bool) (k_words : K .words := by assumption) (k_latch : K .latch := by assumption) (k_ctrs : K .ctrs := by assumption) (k_flt : K .flt := by assumption) (k_hrl : K .hrl := by assumption) (k_tly : K .tly := by assumption) (k_rdata : K .rdata := by assumption) : Completes (execTsRecordRead ag tx s) (fun t => t.Within K sB) := by
  unfold execTsRecordRead
  repeat' first
    | with_reducible refine completes_within _ ?_
    | with_reducible exact h
    | with_reducible assumption
    | simp only [↓within_hrl k_hrl]
    | with_reducible apply State.setLatch_within
    | with_reducible apply ok_within
    | with_reducible apply State.denyAs_within
    | with_reducible apply State.answer_within
    | with_reducible apply foldl_within
    | intro _
    | refine fst_within (by assumption) ?_
    | refine snd_within (by assumption) ?_
    | split
    | dsimp only


theorem State.setSquelch_within {s : State} (h : s.Within K sB) (o : Nat) (b : Bool) (k_hrl : K .hrl := by assumption) : (State.setSquelch s o b).Within K sB := by
  unfold State.setSquelch
  repeat' first
    | with_reducible exact h
    | with_reducible assumption
    | simp only [↓within_hrl k_hrl]
    | intro _
    | refine fst_within (by assumption) ?_
    | refine snd_within (by assumption) ?_
    | split
    | dsimp only


end Sys2Proof.Machine
end

