-- ==== Sys2Proof/Laws/WithinBellman.lean ====
section
/-! SUPPORT. Generated: the parts of the state that the operations of Machine/Bellman.lean leave alone. -/

namespace Sys2Proof.Machine

set_option autoImplicit false
set_option Elab.async false
set_option linter.unusedTactic false
set_option linter.unreachableTactic false
set_option linter.unusedSimpArgs false
set_option linter.unusedVariables false

variable {K : Part → Prop} {sB : State}

theorem State.setKindSt_within {s : State} (h : s.Within K sB) (code : Nat) (x : KindSt) (k_flt : K .flt := by assumption) : (State.setKindSt s code x).Within K sB := by
  unfold State.setKindSt
  repeat' first
    | with_reducible exact h
    | with_reducible assumption
    | simp only [↓within_flt k_flt]
    | intro _
    | refine fst_within (by assumption) ?_
    | refine snd_within (by assumption) ?_
    | split
    | dsimp only


theorem State.handOver_within {s : State} (h : s.Within K sB) (p : Fin 32) (k_twn : K .twn := by assumption) : (State.handOver s p).Within K sB := by
  unfold State.handOver
  repeat' first
    | with_reducible exact h
    | with_reducible assumption
    | with_reducible apply State.twinSend_within
    | with_reducible apply State.release_within
    | intro _
    | refine fst_within (by assumption) ?_
    | refine snd_within (by assumption) ?_
    | split
    | dsimp only


theorem State.stopUnit_within {s : State} (h : s.Within K sB) (u : IsoUnit) (n : Nat) (ks : List Kind) (k_words : K .words := by assumption) (k_ctrs : K .ctrs := by assumption) (k_flt : K .flt := by assumption) (k_pon : K .pon := by assumption) (k_cpg : K .cpg := by assumption) (k_twn : K .twn := by assumption) (k_eng : K .eng := by assumption) (k_fwd : K .fwd := by assumption) (k_shl : K .shl := by assumption) (k_tly : K .tly := by assumption) : (State.stopUnit s u n ks).Within K sB := by
  unfold State.stopUnit
  repeat' first
    | with_reducible exact h
    | with_reducible assumption
    | with_reducible apply State.emptyEngine_within
    | with_reducible apply State.retireLoose_within
    | with_reducible apply State.retireGuild_within
    | with_reducible apply State.wr_within
    | with_reducible apply State.setSide_within
    | with_reducible apply State.flushGroups_within
    | with_reducible apply State.handOver_within
    | with_reducible apply State.loseCellar_within
    | with_reducible apply State.moveLane_within
    | with_reducible apply State.ulkFall_within
    | with_reducible apply State.setLeaders_within
    | intro _
    | refine fst_within (by assumption) ?_
    | refine snd_within (by assumption) ?_
    | split
    | dsimp only


theorem State.isolate_within {s : State} (h : s.Within K sB) (u : IsoUnit) (n : Nat) (ks : List Kind) (q : Nat) (k_words : K .words := by assumption) (k_ctrs : K .ctrs := by assumption) (k_flt : K .flt := by assumption) (k_pon : K .pon := by assumption) (k_cpg : K .cpg := by assumption) (k_twn : K .twn := by assumption) (k_eng : K .eng := by assumption) (k_fwd : K .fwd := by assumption) (k_shl : K .shl := by assumption) (k_tly : K .tly := by assumption) : (State.isolate s u n ks q).Within K sB := by
  unfold State.isolate
  repeat' first
    | with_reducible exact h
    | with_reducible assumption
    | simp only [↓within_flt k_flt]
    | with_reducible apply State.incQ_within
    | with_reducible apply State.stopUnit_within
    | intro _
    | refine fst_within (by assumption) ?_
    | refine snd_within (by assumption) ?_
    | split
    | dsimp only


theorem State.enterSafe_within {s : State} (h : s.Within K sB) (k_ctrs : K .ctrs := by assumption) (k_flt : K .flt := by assumption) (k_pon : K .pon := by assumption) (k_twn : K .twn := by assumption) (k_tly : K .tly := by assumption) (k_hst : K .hst := by assumption) : (State.enterSafe s).Within K sB := by
  unfold State.enterSafe
  repeat' first
    | with_reducible exact h
    | with_reducible assumption
    | simp only [↓within_hst k_hst, ↓within_flt k_flt]
    | with_reducible apply State.inc_within
    | with_reducible apply State.twinSend_within
    | with_reducible apply State.setSide_within
    | with_reducible apply foldl_within
    | intro _
    | refine fst_within (by assumption) ?_
    | refine snd_within (by assumption) ?_
    | split
    | dsimp only


theorem State.bellman_within {s : State} (h : s.Within K sB) (m0 : Msg) (k_words : K .words := by assumption) (k_ctrs : K .ctrs := by assumption) (k_flt : K .flt := by assumption) (k_pon : K .pon := by assumption) (k_cpg : K .cpg := by assumption) (k_twn : K .twn := by assumption) (k_eng : K .eng := by assumption) (k_fwd : K .fwd := by assumption) (k_shl : K .shl := by assumption) (k_tly : K .tly := by assumption) (k_hst : K .hst := by assumption) : (State.bellman s m0).Within K sB := by
  unfold State.bellman
  repeat' first
    | with_reducible exact h
    | with_reducible assumption
    | simp only [↓within_flt k_flt]
    | with_reducible apply State.incQ_within
    | with_reducible apply State.countQ_within
    | with_reducible apply State.setKindSt_within
    | with_reducible apply State.level_within
    | with_reducible apply State.enqueue_within
    | with_reducible apply State.enterSafe_within
    | with_reducible apply State.isolate_within
    | intro _
    | refine fst_within (by assumption) ?_
    | refine snd_within (by assumption) ?_
    | split
    | dsimp only


theorem State.queueRead_within {s : State} (h : s.Within K sB) (ag : Agent) (k_latch : K .latch := by assumption) (k_flt : K .flt := by assumption) (k_rdata : K .rdata := by assumption) : (State.queueRead s ag).Within K sB := by
  unfold State.queueRead
  repeat' first
    | with_reducible exact h
    | with_reducible assumption
    | simp only [↓within_flt k_flt]
    | with_reducible apply State.setLatch_within
    | with_reducible apply State.answer_within
    | with_reducible apply foldl_within
    | intro _
    | refine fst_within (by assumption) ?_
    | refine snd_within (by assumption) ?_
    | split
    | dsimp only


theorem execFaultQueueRead_within {s : State} (h : s.Within K sB) (ag : Agent) (k_words : K .words := by assumption) (k_latch : K .latch := by assumption) (k_ctrs : K .ctrs := by assumption) (k_flt : K .flt := by assumption) (k_tly : K .tly := by assumption) (k_rdata : K .rdata := by assumption) : Completes (execFaultQueueRead ag s) (fun t => t.Within K sB) := by
  unfold execFaultQueueRead
  repeat' first
    | with_reducible refine completes_within _ ?_
    | with_reducible exact h
    | with_reducible assumption
    | with_reducible apply ok_within
    | with_reducible apply State.denyAs_within
    | with_reducible apply State.answer_within
    | with_reducible apply State.queueRead_within
    | intro _
    | refine fst_within (by assumption) ?_
    | refine snd_within (by assumption) ?_
    | split
    | dsimp only


theorem State.kindWrite_within {s : State} (h : s.Within K sB) (ag : Agent) (code : Nat) (v : Word) (k_words : K .words := by assumption) (k_ctrs : K .ctrs := by assumption) (k_free : K .free := by assumption) (k_flt : K .flt := by assumption) (k_tly : K .tly := by assumption) (k_hst : K .hst := by assumption) : (State.kindWrite s ag code v).Within K sB := by
  unfold State.kindWrite
  repeat' first
    | with_reducible exact h
    | with_reducible assumption
    | simp only [↓within_flt k_flt]
    | with_reducible apply State.gate_within
    | with_reducible apply State.storeWord_within
    | with_reducible apply State.level_within
    | intro _
    | refine fst_within (by assumption) ?_
    | refine snd_within (by assumption) ?_
    | split
    | dsimp only


theorem State.clearKind_within {s : State} (h : s.Within K sB) (code : Nat) (k_flt : K .flt := by assumption) (k_act : K .act := by assumption) : (State.clearKind s code).Within K sB := by
  unfold State.clearKind
  repeat' first
    | with_reducible exact h
    | with_reducible assumption
    | simp only [↓within_flt k_flt]
    | with_reducible apply State.setKindSt_within
    | with_reducible apply State.setTreeSt_within
    | with_reducible apply foldl_within
    | intro _
    | refine fst_within (by assumption) ?_
    | refine snd_within (by assumption) ?_
    | split
    | dsimp only


theorem State.kindClear_within {s : State} (h : s.Within K sB) (ag : Agent) (code : Nat) (v : Word) (k_words : K .words := by assumption) (k_ctrs : K .ctrs := by assumption) (k_free : K .free := by assumption) (k_flt : K .flt := by assumption) (k_act : K .act := by assumption) (k_tly : K .tly := by assumption) (k_hst : K .hst := by assumption) : (State.kindClear s ag code v).Within K sB := by
  unfold State.kindClear
  repeat' first
    | with_reducible exact h
    | with_reducible assumption
    | with_reducible apply State.gate_within
    | with_reducible apply State.incQ_within
    | with_reducible apply State.clearKind_within
    | with_reducible apply State.level_within
    | intro _
    | refine fst_within (by assumption) ?_
    | refine snd_within (by assumption) ?_
    | split
    | dsimp only


theorem State.restoreUnit_within {s : State} (h : s.Within K sB) (u : IsoUnit) (n : Nat) (k_flt : K .flt := by assumption) (k_wdn : K .wdn := by assumption) : (State.restoreUnit s u n).Within K sB := by
  unfold State.restoreUnit
  repeat' first
    | with_reducible exact h
    | with_reducible assumption
    | simp only [↓within_flt_wdn k_flt k_wdn, ↓within_flt k_flt]
    | intro _
    | refine fst_within (by assumption) ?_
    | refine snd_within (by assumption) ?_
    | split
    | dsimp only


theorem State.isoCmd_within {s : State} (h : s.Within K sB) (ag : Agent) (v : Word) (k_words : K .words := by assumption) (k_ctrs : K .ctrs := by assumption) (k_free : K .free := by assumption) (k_flt : K .flt := by assumption) (k_tly : K .tly := by assumption) (k_wdn : K .wdn := by assumption) (k_hst : K .hst := by assumption) : (State.isoCmd s ag v).Within K sB := by
  unfold State.isoCmd
  repeat' first
    | with_reducible exact h
    | with_reducible assumption
    | with_reducible apply State.gate_within
    | with_reducible apply State.wr_within
    | with_reducible apply State.msi_within
    | with_reducible apply State.restoreUnit_within
    | intro _
    | refine fst_within (by assumption) ?_
    | refine snd_within (by assumption) ?_
    | split
    | dsimp only


theorem State.captureClr_within {s : State} (h : s.Within K sB) (k_flt : K .flt := by assumption) : (State.captureClr s).Within K sB := by
  unfold State.captureClr
  repeat' first
    | with_reducible exact h
    | with_reducible assumption
    | simp only [↓within_flt k_flt]
    | intro _
    | refine fst_within (by assumption) ?_
    | refine snd_within (by assumption) ?_
    | split
    | dsimp only


theorem State.alarmBits_within {s : State} (h : s.Within K sB) (k_words : K .words := by assumption) : (State.alarmBits s).Within K sB := by
  unfold State.alarmBits
  repeat' first
    | with_reducible exact h
    | with_reducible assumption
    | with_reducible apply State.wr_within
    | intro _
    | refine fst_within (by assumption) ?_
    | refine snd_within (by assumption) ?_
    | split
    | dsimp only


theorem State.anaOnset_within {s : State} (h : s.Within K sB) (k : Kind) (n addr : Nat) (k_words : K .words := by assumption) (k_ctrs : K .ctrs := by assumption) (k_free : K .free := by assumption) (k_flt : K .flt := by assumption) (k_keys : K .keys := by assumption) (k_shl : K .shl := by assumption) (k_tly : K .tly := by assumption) : (State.anaOnset s k n addr).Within K sB := by
  unfold State.anaOnset
  repeat' first
    | with_reducible exact h
    | with_reducible assumption
    | with_reducible apply State.onset_within
    | with_reducible apply State.alarmBits_within
    | with_reducible apply State.eraseKeys_within
    | intro _
    | refine fst_within (by assumption) ?_
    | refine snd_within (by assumption) ?_
    | split
    | dsimp only


theorem State.coolPresets_within {s : State} (h : s.Within K sB) (i t : Nat) (k_pon : K .pon := by assumption) : (State.coolPresets s i t).Within K sB := by
  unfold State.coolPresets
  repeat' first
    | with_reducible exact h
    | with_reducible assumption
    | simp only [↓within_pon k_pon]
    | with_reducible apply foldl_within
    | intro _
    | refine fst_within (by assumption) ?_
    | refine snd_within (by assumption) ?_
    | split
    | dsimp only


end Sys2Proof.Machine
end

