-- ==== Sys2Proof/Laws/WithinTally.lean ====
section
/-! SUPPORT. Generated: the parts of the state that the operations of Machine/Tally.lean leave alone. -/

namespace Sys2Proof.Machine

set_option autoImplicit false
set_option Elab.async false
set_option linter.unusedTactic false
set_option linter.unreachableTactic false
set_option linter.unusedSimpArgs false
set_option linter.unusedVariables false

variable {K : Part → Prop} {sB : State}

theorem State.tlyStore_within {s : State} (h : s.Within K sB) (i j : Nat) (v : Word) (k_words : K .words := by assumption) : (State.tlyStore s i j v).Within K sB := by
  unfold State.tlyStore
  repeat' first
    | with_reducible exact h
    | with_reducible assumption
    | with_reducible apply State.putWord_within
    | intro _
    | refine fst_within (by assumption) ?_
    | refine snd_within (by assumption) ?_
    | split
    | dsimp only


theorem State.tlyApply_within {s : State} (h : s.Within K sB) (ag : Agent) (i : Nat) (v : Word) (k_words : K .words := by assumption) (k_ctrs : K .ctrs := by assumption) (k_flt : K .flt := by assumption) (k_tly : K .tly := by assumption) : (State.tlyApply s ag i v).Within K sB := by
  unfold State.tlyApply
  repeat' first
    | with_reducible exact h
    | with_reducible assumption
    | simp only [↓within_tly k_tly]
    | with_reducible apply State.deny_within
    | with_reducible apply State.tlyStore_within
    | intro _
    | refine fst_within (by assumption) ?_
    | refine snd_within (by assumption) ?_
    | split
    | dsimp only


theorem State.tlyGate_within {s : State} (h : s.Within K sB) (ag : Agent) (i : Nat) (k : State → State) (hk : ∀ t : State, t.Within K sB → (k t).Within K sB) (k_words : K .words := by assumption) (k_ctrs : K .ctrs := by assumption) (k_flt : K .flt := by assumption) (k_tly : K .tly := by assumption) : (State.tlyGate s ag i k).Within K sB := by
  unfold State.tlyGate
  repeat' first
    | with_reducible exact h
    | with_reducible assumption
    | with_reducible apply State.deny_within
    | with_reducible apply State.winGate_within
    | with_reducible apply hk
    | intro _
    | refine fst_within (by assumption) ?_
    | refine snd_within (by assumption) ?_
    | split
    | dsimp only


theorem State.snapStart_within {s : State} (h : s.Within K sB) (trigger : Nat) (k_words : K .words := by assumption) (k_tly : K .tly := by assumption) : (State.snapStart s trigger).Within K sB := by
  unfold State.snapStart
  repeat' first
    | with_reducible exact h
    | with_reducible assumption
    | simp only [↓within_tly k_tly]
    | with_reducible apply State.trigger_within
    | with_reducible apply State.wr_within
    | intro _
    | refine fst_within (by assumption) ?_
    | refine snd_within (by assumption) ?_
    | split
    | dsimp only


theorem State.snapTrigger_within {s : State} (h : s.Within K sB) (trigger : Nat) (k_words : K .words := by assumption) (k_ctrs : K .ctrs := by assumption) (k_tly : K .tly := by assumption) : (State.snapTrigger s trigger).Within K sB := by
  unfold State.snapTrigger
  repeat' first
    | with_reducible exact h
    | with_reducible assumption
    | with_reducible apply State.inc_within
    | with_reducible apply State.snapStart_within
    | with_reducible apply State.trigger_within
    | intro _
    | refine fst_within (by assumption) ?_
    | refine snd_within (by assumption) ?_
    | split
    | dsimp only


theorem State.toTelemetry_within {s : State} (h : s.Within K sB) (type_ : Nat) (bytes : List Byte) (k_tly : K .tly := by assumption) : (State.toTelemetry s type_ bytes).Within K sB := by
  unfold State.toTelemetry
  repeat' first
    | with_reducible exact h
    | with_reducible assumption
    | simp only [↓within_tly k_tly]
    | intro _
    | refine fst_within (by assumption) ?_
    | refine snd_within (by assumption) ?_
    | split
    | dsimp only


theorem State.sendExport_within {s : State} (h : s.Within K sB) (fr : List Byte) (k_ctrs : K .ctrs := by assumption) (k_free : K .free := by assumption) (k_flt : K .flt := by assumption) (k_cpg : K .cpg := by assumption) (k_tly : K .tly := by assumption) : (State.sendExport s fr).Within K sB := by
  unfold State.sendExport
  repeat' first
    | with_reducible exact h
    | with_reducible assumption
    | with_reducible apply State.newBuf_within
    | with_reducible apply State.noBuf_within
    | with_reducible apply State.inc_within
    | with_reducible apply State.proxyChecks_within
    | with_reducible apply State.enqueue_within
    | intro _
    | refine fst_within (by assumption) ?_
    | refine snd_within (by assumption) ?_
    | split
    | dsimp only


theorem State.sendSnapshot_within {s : State} (h : s.Within K sB) (x : Snap) (tpl : List Byte) (n fuel i : Nat) (k_ctrs : K .ctrs := by assumption) (k_free : K .free := by assumption) (k_flt : K .flt := by assumption) (k_cpg : K .cpg := by assumption) (k_tly : K .tly := by assumption) :
    (State.sendSnapshot s x tpl n fuel i).Within K sB := by
  induction fuel generalizing s i with
  | zero => exact h
  | succ fuel ih =>
    unfold State.sendSnapshot
    dsimp only
    split
    · exact h
    · exact ih (State.sendExport_within h ..) ..


theorem State.setPmRec_within {s : State} (h : s.Within K sB) (r : Nat) (x : PmRec) (k_pm : K .pm := by assumption) : (State.setPmRec s r x).Within K sB := by
  unfold State.setPmRec
  repeat' first
    | with_reducible exact h
    | with_reducible assumption
    | simp only [↓within_pm k_pm]
    | intro _
    | refine fst_within (by assumption) ?_
    | refine snd_within (by assumption) ?_
    | split
    | dsimp only


theorem State.pmLog_within {s : State} (h : s.Within K sB) (e : PmEvent) (k_words : K .words := by assumption) (k_ctrs : K .ctrs := by assumption) (k_pm : K .pm := by assumption) (k_tly : K .tly := by assumption) (k_hst : K .hst := by assumption) : (State.pmLog s e).Within K sB := by
  unfold State.pmLog
  repeat' first
    | with_reducible exact h
    | with_reducible assumption
    | simp only [↓within_pm k_pm]
    | with_reducible apply State.inc_within
    | with_reducible apply State.wr_within
    | with_reducible apply State.msi_within
    | with_reducible apply State.toTelemetry_within
    | intro _
    | refine fst_within (by assumption) ?_
    | refine snd_within (by assumption) ?_
    | split
    | dsimp only


theorem State.pmClassify_within {s : State} (h : s.Within K sB) (r k : Nat) (es ses : Bool) (k_words : K .words := by assumption) (k_ctrs : K .ctrs := by assumption) (k_pm : K .pm := by assumption) (k_tly : K .tly := by assumption) (k_hst : K .hst := by assumption) : (State.pmClassify s r k es ses).Within K sB := by
  unfold State.pmClassify
  repeat' first
    | with_reducible exact h
    | with_reducible assumption
    | with_reducible apply State.setPmRec_within
    | with_reducible apply State.pmLog_within
    | with_reducible apply foldl_within
    | intro _
    | refine fst_within (by assumption) ?_
    | refine snd_within (by assumption) ?_
    | split
    | dsimp only


theorem State.pmSkip_within {s : State} (h : s.Within K sB) (r : Nat) (k_pm : K .pm := by assumption) : (State.pmSkip s r).Within K sB := by
  unfold State.pmSkip
  repeat' first
    | with_reducible exact h
    | with_reducible assumption
    | with_reducible apply State.setPmRec_within
    | intro _
    | refine fst_within (by assumption) ?_
    | refine snd_within (by assumption) ?_
    | split
    | dsimp only


theorem State.dsSettle_within {s : State} (h : s.Within K sB) (k_words : K .words := by assumption) (k_ctrs : K .ctrs := by assumption) (k_pm : K .pm := by assumption) (k_tly : K .tly := by assumption) (k_hst : K .hst := by assumption) : (State.dsSettle s).Within K sB := by
  unfold State.dsSettle
  refine foldl_fst_within _ _ h (fun a x ha => ?_)
  dsimp only
  split
  · exact ha
  · simp only [↓within_pm k_pm]
    exact State.pmClassify_within ha ..


theorem State.dsForget_within {s : State} (h : s.Within K sB) (keep : List Nat) (k_pm : K .pm := by assumption) : (State.dsForget s keep).Within K sB := by
  unfold State.dsForget
  repeat' first
    | with_reducible exact h
    | with_reducible assumption
    | simp only [↓within_pm k_pm]
    | intro _
    | refine fst_within (by assumption) ?_
    | refine snd_within (by assumption) ?_
    | split
    | dsimp only


theorem State.pmOnus_within {s : State} (h : s.Within K sB) (k : Nat) (up : List (Fin 32 × Nat)) (k_words : K .words := by assumption) (k_ctrs : K .ctrs := by assumption) (k_pm : K .pm := by assumption) (k_tly : K .tly := by assumption) (k_hst : K .hst := by assumption) : (State.pmOnus s k up).Within K sB := by
  unfold State.pmOnus
  repeat' first
    | with_reducible exact h
    | with_reducible assumption
    | with_reducible apply State.pmClassify_within
    | with_reducible apply State.pmSkip_within
    | with_reducible apply foldl_within
    | intro _
    | refine fst_within (by assumption) ?_
    | refine snd_within (by assumption) ?_
    | split
    | dsimp only


theorem State.pmPortUp_within {s : State} (h : s.Within K sB) (k : Nat) (p : Fin 32) (sd : Nat) (k_words : K .words := by assumption) (k_ctrs : K .ctrs := by assumption) (k_pm : K .pm := by assumption) (k_twn : K .twn := by assumption) (k_tly : K .tly := by assumption) (k_hst : K .hst := by assumption) : (State.pmPortUp s k p sd).Within K sB := by
  unfold State.pmPortUp
  repeat' first
    | with_reducible exact h
    | with_reducible assumption
    | with_reducible apply State.pmClassify_within
    | with_reducible apply State.ownerTrigger_within
    | intro _
    | refine fst_within (by assumption) ?_
    | refine snd_within (by assumption) ?_
    | split
    | dsimp only


theorem State.pmDown_within {s : State} (h : s.Within K sB) (k : Nat) (up : List (Fin 32 × Nat)) (k_words : K .words := by assumption) (k_ctrs : K .ctrs := by assumption) (k_pm : K .pm := by assumption) (k_tly : K .tly := by assumption) (k_hst : K .hst := by assumption) : (State.pmDown s k up).Within K sB := by
  unfold State.pmDown
  repeat' first
    | with_reducible exact h
    | with_reducible assumption
    | simp only [↓within_pm k_pm]
    | with_reducible apply State.dsForget_within
    | with_reducible apply State.pmSkip_within
    | with_reducible apply State.dsSettle_within
    | with_reducible apply foldl_within
    | intro _
    | refine fst_within (by assumption) ?_
    | refine snd_within (by assumption) ?_
    | split
    | dsimp only


theorem State.pmFresh_within {s : State} (h : s.Within K sB) (k_pm : K .pm := by assumption) : (State.pmFresh s).Within K sB := by
  unfold State.pmFresh
  repeat' first
    | with_reducible exact h
    | with_reducible assumption
    | simp only [↓within_pm k_pm]
    | with_reducible apply foldl_within
    | intro _
    | refine fst_within (by assumption) ?_
    | refine snd_within (by assumption) ?_
    | split
    | dsimp only


theorem State.pmInterval_within {s : State} (h : s.Within K sB) (k_pm : K .pm := by assumption) : (State.pmInterval s).Within K sB := by
  unfold State.pmInterval
  repeat' first
    | with_reducible exact h
    | with_reducible assumption
    | simp only [↓within_pm k_pm]
    | intro _
    | refine fst_within (by assumption) ?_
    | refine snd_within (by assumption) ?_
    | split
    | dsimp only


theorem State.dsApply_within {s : State} (h : s.Within K sB) (p : Fin 32) (slot : Nat) (ks : List Nat) (es ses : Bool) (k_words : K .words := by assumption) (k_ctrs : K .ctrs := by assumption) (k_pm : K .pm := by assumption) (k_tly : K .tly := by assumption) (k_hst : K .hst := by assumption) : (State.dsApply s p slot ks es ses).Within K sB := by
  unfold State.dsApply
  repeat' first
    | with_reducible exact h
    | with_reducible assumption
    | simp only [↓within_pm k_pm]
    | with_reducible apply State.pmClassify_within
    | with_reducible apply foldl_within
    | intro _
    | refine fst_within (by assumption) ?_
    | refine snd_within (by assumption) ?_
    | split
    | dsimp only


theorem State.setAsked_within {s : State} (h : s.Within K sB) (k : Nat) (l : List (List Nat)) (k_pm : K .pm := by assumption) : (State.setAsked s k l).Within K sB := by
  unfold State.setAsked
  repeat' first
    | with_reducible exact h
    | with_reducible assumption
    | simp only [↓within_pm k_pm]
    | intro _
    | refine fst_within (by assumption) ?_
    | refine snd_within (by assumption) ?_
    | split
    | dsimp only


theorem State.pmClear_within {s : State} (h : s.Within K sB) (r : Nat) (k_pm : K .pm := by assumption) : (State.pmClear s r).Within K sB := by
  unfold State.pmClear
  repeat' first
    | with_reducible exact h
    | with_reducible assumption
    | with_reducible apply State.setPmRec_within
    | intro _
    | refine fst_within (by assumption) ?_
    | refine snd_within (by assumption) ?_
    | split
    | dsimp only


theorem State.tlyCtrl_within {s : State} (h : s.Within K sB) (ag : Agent) (v : Word) (k_words : K .words := by assumption) (k_ctrs : K .ctrs := by assumption) (k_free : K .free := by assumption) (k_flt : K .flt := by assumption) (k_pm : K .pm := by assumption) (k_tly : K .tly := by assumption) : (State.tlyCtrl s ag v).Within K sB := by
  unfold State.tlyCtrl
  repeat' first
    | with_reducible exact h
    | with_reducible assumption
    | simp only [↓within_pm k_pm]
    | with_reducible apply State.gate_within
    | with_reducible apply State.storeWord_within
    | with_reducible apply State.deny_within
    | with_reducible apply State.snapStart_within
    | with_reducible apply State.pmClear_within
    | intro _
    | refine fst_within (by assumption) ?_
    | refine snd_within (by assumption) ?_
    | split
    | dsimp only


end Sys2Proof.Machine
end

