-- ==== Sys2Proof/Laws/WithinBoot.lean ====
section
/-! SUPPORT. Generated: the parts of the state that the operations of Machine/Boot.lean leave alone. -/

namespace Sys2Proof.Machine

set_option autoImplicit false
set_option Elab.async false
set_option linter.unusedTactic false
set_option linter.unreachableTactic false
set_option linter.unusedSimpArgs false
set_option linter.unusedVariables false

variable {K : Part → Prop} {sB : State}

theorem State.nextBank_within {s : State} (h : s.Within K sB) (k_words : K .words := by assumption) (k_ctrs : K .ctrs := by assumption) (k_flt : K .flt := by assumption) (k_tly : K .tly := by assumption) (k_boot : K .boot := by assumption) : (State.nextBank s).Within K sB := by
  unfold State.nextBank
  repeat' first
    | with_reducible exact h
    | with_reducible assumption
    | simp only [↓within_boot k_boot]
    | with_reducible apply State.wr_within
    | with_reducible apply State.inc_within
    | with_reducible apply State.onset_within
    | intro _
    | refine fst_within (by assumption) ?_
    | refine snd_within (by assumption) ?_
    | split
    | dsimp only


theorem State.setStage_within {s : State} (h : s.Within K sB) (n : Nat) (k_words : K .words := by assumption) (k_hst : K .hst := by assumption) : (State.setStage s n).Within K sB := by
  unfold State.setStage
  repeat' first
    | with_reducible exact h
    | with_reducible assumption
    | with_reducible apply State.wr_within
    | with_reducible apply State.msi_within
    | intro _
    | refine fst_within (by assumption) ?_
    | refine snd_within (by assumption) ?_
    | split
    | dsimp only


theorem State.enablePort_within {s : State} (h : s.Within K sB) (p : Fin 32) (k_words : K .words := by assumption) : (State.enablePort s p).Within K sB := by
  unfold State.enablePort
  repeat' first
    | with_reducible exact h
    | with_reducible assumption
    | with_reducible apply State.wr_within
    | intro _
    | refine fst_within (by assumption) ?_
    | refine snd_within (by assumption) ?_
    | split
    | dsimp only


theorem State.bootDone_within {s : State} (h : s.Within K sB) (code : Nat) (k_words : K .words := by assumption) (k_hst : K .hst := by assumption) : (State.bootDone s code).Within K sB := by
  unfold State.bootDone
  repeat' first
    | with_reducible exact h
    | with_reducible assumption
    | with_reducible apply State.wr_within
    | with_reducible apply State.msi_within
    | intro _
    | refine fst_within (by assumption) ?_
    | refine snd_within (by assumption) ?_
    | split
    | dsimp only


theorem State.putSector_within {s : State} (h : s.Within K sB) (n : Nat) (f : Nat → Byte) (k_boot : K .boot := by assumption) : (State.putSector s n f).Within K sB := by
  unfold State.putSector
  repeat' first
    | with_reducible exact h
    | with_reducible assumption
    | simp only [↓within_boot k_boot]
    | with_reducible apply foldl_within
    | intro _
    | refine fst_within (by assumption) ?_
    | refine snd_within (by assumption) ?_
    | split
    | dsimp only


theorem State.flashCmd_within {s : State} (h : s.Within K sB) (n : Nat) (err : Bool) (f : Nat → Byte) (k_words : K .words := by assumption) (k_free : K .free := by assumption) (k_flt : K .flt := by assumption) (k_boot : K .boot := by assumption) (k_hst : K .hst := by assumption) : (State.flashCmd s n err f).Within K sB := by
  unfold State.flashCmd
  repeat' first
    | with_reducible exact h
    | with_reducible assumption
    | with_reducible apply State.bootDone_within
    | with_reducible apply State.takeFree_within
    | with_reducible apply State.putSector_within
    | with_reducible apply State.raise_within
    | intro _
    | refine fst_within (by assumption) ?_
    | refine snd_within (by assumption) ?_
    | split
    | dsimp only


theorem State.bootCmd_within {s : State} (h : s.Within K sB) (ag : Agent) (v : Word) (err : Bool) (k_words : K .words := by assumption) (k_ctrs : K .ctrs := by assumption) (k_free : K .free := by assumption) (k_flt : K .flt := by assumption) (k_tly : K .tly := by assumption) (k_boot : K .boot := by assumption) (k_hst : K .hst := by assumption) : (State.bootCmd s ag v err).Within K sB := by
  unfold State.bootCmd
  repeat' first
    | with_reducible exact h
    | with_reducible assumption
    | simp only [↓within_boot k_boot]
    | with_reducible apply State.gate_within
    | with_reducible apply State.bootDone_within
    | with_reducible apply State.wr_within
    | with_reducible apply State.nextBank_within
    | with_reducible apply State.flashCmd_within
    | intro _
    | refine fst_within (by assumption) ?_
    | refine snd_within (by assumption) ?_
    | split
    | dsimp only


theorem State.takeOmci_within {s : State} (h : s.Within K sB) (p : Fin 32) (i : Nat) (good : Bool) (k_words : K .words := by assumption) (k_ctrs : K .ctrs := by assumption) (k_flt : K .flt := by assumption) (k_act : K .act := by assumption) (k_cpg : K .cpg := by assumption) (k_keys : K .keys := by assumption) (k_pm : K .pm := by assumption) (k_stw : K .stw := by assumption) (k_twn : K .twn := by assumption) (k_tly : K .tly := by assumption) : (State.takeOmci s p i good).Within K sB := by
  unfold State.takeOmci
  repeat' first
    | with_reducible exact h
    | with_reducible assumption
    | with_reducible apply State.nextOmci_within
    | with_reducible apply State.templateFail_within
    | intro _
    | refine fst_within (by assumption) ?_
    | refine snd_within (by assumption) ?_
    | split
    | dsimp only


theorem State.takeMsg_within {s : State} (h : s.Within K sB) (m : StwMsg) (k_words : K .words := by assumption) (k_ctrs : K .ctrs := by assumption) (k_flt : K .flt := by assumption) (k_act : K .act := by assumption) (k_cpg : K .cpg := by assumption) (k_keys : K .keys := by assumption) (k_pm : K .pm := by assumption) (k_stw : K .stw := by assumption) (k_twn : K .twn := by assumption) (k_hrl : K .hrl := by assumption) (k_tly : K .tly := by assumption) : (State.takeMsg s m).Within K sB := by
  unfold State.takeMsg
  repeat' first
    | with_reducible exact h
    | with_reducible assumption
    | with_reducible apply State.takeRegistration_within
    | with_reducible apply State.takeKeyReport_within
    | with_reducible apply State.takeOmci_within
    | intro _
    | refine fst_within (by assumption) ?_
    | refine snd_within (by assumption) ?_
    | split
    | dsimp only


theorem State.fwValidate_within {s : State} (h : s.Within K sB) (bad : Option Nat) (k_words : K .words := by assumption) (k_flt : K .flt := by assumption) : (State.fwValidate s bad).Within K sB := by
  unfold State.fwValidate
  repeat' first
    | with_reducible exact h
    | with_reducible assumption
    | with_reducible apply State.wr_within
    | with_reducible apply State.raise_within
    | intro _
    | refine fst_within (by assumption) ?_
    | refine snd_within (by assumption) ?_
    | split
    | dsimp only


theorem State.fwStart_within {s : State} (h : s.Within K sB) (k_words : K .words := by assumption) (k_act : K .act := by assumption) (k_stw : K .stw := by assumption) (k_boot : K .boot := by assumption) : (State.fwStart s).Within K sB := by
  have h1 : ∀ (l : List (Fin 32)) (t : State), t.Within K sB → (l.foldl (fun s p => s.setTreeSt p { s.tree p with hunt := none }) t).Within K sB :=
    fun l t ht => foldl_within l _ ht (fun u p hu => State.setTreeSt_within hu ..)
  unfold State.fwStart
  dsimp only
  with_reducible apply State.wr_within
  with_reducible apply State.wr_within
  with_reducible apply State.wr_within
  with_reducible apply h1
  all_goals first | with_reducible assumption | skip
  simp only [↓within_stw_boot k_stw k_boot]
  exact h


theorem State.fwSwitch_within {s : State} (h : s.Within K sB) (k_words : K .words := by assumption) (k_act : K .act := by assumption) (k_stw : K .stw := by assumption) (k_twn : K .twn := by assumption) (k_boot : K .boot := by assumption) : (State.fwSwitch s).Within K sB := by
  unfold State.fwSwitch
  repeat' first
    | with_reducible exact h
    | with_reducible assumption
    | simp only [↓within_twn k_twn, ↓within_boot k_boot]
    | with_reducible apply State.release_within
    | with_reducible apply State.fwStart_within
    | intro _
    | refine fst_within (by assumption) ?_
    | refine snd_within (by assumption) ?_
    | split
    | dsimp only


theorem State.fwCtrl_within {s : State} (h : s.Within K sB) (ag : Agent) (v : Word) (bad : Option Nat) (k_words : K .words := by assumption) (k_ctrs : K .ctrs := by assumption) (k_free : K .free := by assumption) (k_flt : K .flt := by assumption) (k_act : K .act := by assumption) (k_stw : K .stw := by assumption) (k_twn : K .twn := by assumption) (k_tly : K .tly := by assumption) (k_boot : K .boot := by assumption) : (State.fwCtrl s ag v bad).Within K sB := by
  unfold State.fwCtrl
  repeat' first
    | with_reducible exact h
    | with_reducible assumption
    | with_reducible apply State.gate_within
    | with_reducible apply State.storeWord_within
    | with_reducible apply State.fwValidate_within
    | with_reducible apply State.fwSwitch_within
    | intro _
    | refine fst_within (by assumption) ?_
    | refine snd_within (by assumption) ?_
    | split
    | dsimp only


theorem State.fwFallback_within {s : State} (h : s.Within K sB) (k_words : K .words := by assumption) (k_ctrs : K .ctrs := by assumption) (k_flt : K .flt := by assumption) (k_act : K .act := by assumption) (k_stw : K .stw := by assumption) (k_tly : K .tly := by assumption) (k_boot : K .boot := by assumption) : (State.fwFallback s).Within K sB := by
  unfold State.fwFallback
  repeat' first
    | with_reducible exact h
    | with_reducible assumption
    | simp only [↓within_boot k_boot]
    | with_reducible apply State.fwStart_within
    | with_reducible apply State.fwSwitch_within
    | with_reducible apply State.inc_within
    | with_reducible apply State.raise_within
    | intro _
    | refine fst_within (by assumption) ?_
    | refine snd_within (by assumption) ?_
    | split
    | dsimp only


end Sys2Proof.Machine
end

