-- ==== Sys2Proof/Laws/WithinRings.lean ====
section
/-! SUPPORT. Generated: the parts of the state that the operations of Machine/Rings.lean leave alone. -/

namespace Sys2Proof.Machine

set_option autoImplicit false
set_option Elab.async false
set_option linter.unusedTactic false
set_option linter.unreachableTactic false
set_option linter.unusedSimpArgs false
set_option linter.unusedVariables false

variable {K : Part → Prop} {sB : State}

theorem State.setRing_within {s : State} (h : s.Within K sB) (r : Nat) (x : RingRt) (k_hst : K .hst := by assumption) : (State.setRing s r x).Within K sB := by
  unfold State.setRing
  repeat' first
    | with_reducible exact h
    | with_reducible assumption
    | simp only [↓within_hst k_hst]
    | intro _
    | refine fst_within (by assumption) ?_
    | refine snd_within (by assumption) ?_
    | split
    | dsimp only


theorem State.stopRing_within {s : State} (h : s.Within K sB) (r : Nat) (k_words : K .words := by assumption) (k_hst : K .hst := by assumption) : (State.stopRing s r).Within K sB := by
  unfold State.stopRing
  repeat' first
    | with_reducible exact h
    | with_reducible assumption
    | with_reducible apply State.wr_within
    | with_reducible apply State.setRing_within
    | intro _
    | refine fst_within (by assumption) ?_
    | refine snd_within (by assumption) ?_
    | split
    | dsimp only


theorem State.linkDown_within {s : State} (h : s.Within K sB) (k_words : K .words := by assumption) (k_flt : K .flt := by assumption) : (State.linkDown s).Within K sB := by
  unfold State.linkDown
  repeat' first
    | with_reducible exact h
    | with_reducible assumption
    | with_reducible apply State.wr_within
    | with_reducible apply State.onset_within
    | intro _
    | refine fst_within (by assumption) ?_
    | refine snd_within (by assumption) ?_
    | split
    | dsimp only


theorem State.maskVectors_within {s : State} (h : s.Within K sB) (f : Nat) (k_words : K .words := by assumption) : (State.maskVectors s f).Within K sB := by
  unfold State.maskVectors
  repeat' first
    | with_reducible exact h
    | with_reducible assumption
    | with_reducible apply State.putWord_within
    | with_reducible apply foldl_within
    | intro _
    | refine fst_within (by assumption) ?_
    | refine snd_within (by assumption) ?_
    | split
    | dsimp only


theorem State.fnReset_within {s : State} (h : s.Within K sB) (f : Nat) (k_words : K .words := by assumption) (k_hst : K .hst := by assumption) : (State.fnReset s f).Within K sB := by
  unfold State.fnReset
  repeat' first
    | with_reducible exact h
    | with_reducible assumption
    | with_reducible apply State.putWord_within
    | with_reducible apply State.setRing_within
    | with_reducible apply State.maskVectors_within
    | with_reducible apply State.setFn_within
    | with_reducible apply foldl_within
    | intro _
    | refine fst_within (by assumption) ?_
    | refine snd_within (by assumption) ?_
    | split
    | dsimp only


theorem State.lockWrite_within {s : State} (h : s.Within K sB) (ag : Agent) (a : Nat) (v : Word) (k_words : K .words := by assumption) (k_ctrs : K .ctrs := by assumption) (k_free : K .free := by assumption) (k_flt : K .flt := by assumption) (k_tly : K .tly := by assumption) (k_boot : K .boot := by assumption) : (State.lockWrite s ag a v).Within K sB := by
  unfold State.lockWrite
  repeat' first
    | with_reducible exact h
    | with_reducible assumption
    | simp only [↓within_boot k_boot]
    | with_reducible apply State.deny_within
    | with_reducible apply State.gate_within
    | with_reducible apply State.wr_within
    | intro _
    | refine fst_within (by assumption) ?_
    | refine snd_within (by assumption) ?_
    | split
    | dsimp only


theorem State.vfPorts_within {s : State} (h : s.Within K sB) (ag : Agent) (vf : Nat) (v : Word) (k_words : K .words := by assumption) (k_ctrs : K .ctrs := by assumption) (k_free : K .free := by assumption) (k_flt : K .flt := by assumption) (k_tly : K .tly := by assumption) : (State.vfPorts s ag vf v).Within K sB := by
  unfold State.vfPorts
  repeat' first
    | with_reducible exact h
    | with_reducible assumption
    | with_reducible apply State.deny_within
    | with_reducible apply State.gate_within
    | with_reducible apply State.putWord_within
    | intro _
    | refine fst_within (by assumption) ?_
    | refine snd_within (by assumption) ?_
    | split
    | dsimp only


theorem State.ringGate_within {s : State} (h : s.Within K sB) (ag : Agent) (r a : Nat) (k : State → State) (hk : ∀ t : State, t.Within K sB → (k t).Within K sB) (k_words : K .words := by assumption) (k_ctrs : K .ctrs := by assumption) (k_free : K .free := by assumption) (k_flt : K .flt := by assumption) (k_tly : K .tly := by assumption) : (State.ringGate s ag r a k).Within K sB := by
  unfold State.ringGate
  repeat' first
    | with_reducible exact h
    | with_reducible assumption
    | with_reducible apply State.deny_within
    | with_reducible apply State.hostTlp_within
    | with_reducible apply State.gate_within
    | with_reducible apply hk
    | intro _
    | refine fst_within (by assumption) ?_
    | refine snd_within (by assumption) ?_
    | split
    | dsimp only


theorem State.ringCfg_within {s : State} (h : s.Within K sB) (ag : Agent) (r : Nat) (v : Word) (k_words : K .words := by assumption) (k_ctrs : K .ctrs := by assumption) (k_free : K .free := by assumption) (k_flt : K .flt := by assumption) (k_tly : K .tly := by assumption) (k_hst : K .hst := by assumption) : (State.ringCfg s ag r v).Within K sB := by
  unfold State.ringCfg
  repeat' first
    | with_reducible exact h
    | with_reducible assumption
    | with_reducible apply State.ringGate_within
    | with_reducible apply State.putWord_within
    | with_reducible apply State.deny_within
    | with_reducible apply State.wr_within
    | with_reducible apply State.setRing_within
    | with_reducible apply State.stopRing_within
    | intro _
    | refine fst_within (by assumption) ?_
    | refine snd_within (by assumption) ?_
    | split
    | dsimp only


theorem State.ringTail_within {s : State} (h : s.Within K sB) (ag : Agent) (r : Nat) (v : Word) (k_words : K .words := by assumption) (k_ctrs : K .ctrs := by assumption) (k_free : K .free := by assumption) (k_flt : K .flt := by assumption) (k_tly : K .tly := by assumption) : (State.ringTail s ag r v).Within K sB := by
  unfold State.ringTail
  repeat' first
    | with_reducible exact h
    | with_reducible assumption
    | with_reducible apply State.ringGate_within
    | with_reducible apply State.deny_within
    | with_reducible apply State.putWord_within
    | intro _
    | refine fst_within (by assumption) ?_
    | refine snd_within (by assumption) ?_
    | split
    | dsimp only


theorem State.ringOther_within {s : State} (h : s.Within K sB) (ag : Agent) (r a : Nat) (v : Word) (k_words : K .words := by assumption) (k_ctrs : K .ctrs := by assumption) (k_free : K .free := by assumption) (k_flt : K .flt := by assumption) (k_tly : K .tly := by assumption) : (State.ringOther s ag r a v).Within K sB := by
  unfold State.ringOther
  repeat' first
    | with_reducible exact h
    | with_reducible assumption
    | with_reducible apply State.ringGate_within
    | with_reducible apply State.deny_within
    | with_reducible apply State.putWord_within
    | with_reducible apply State.wr_within
    | intro _
    | refine fst_within (by assumption) ?_
    | refine snd_within (by assumption) ?_
    | split
    | dsimp only


theorem State.ringMsi_within {s : State} (h : s.Within K sB) (r : Nat) (k_hst : K .hst := by assumption) : (State.ringMsi s r).Within K sB := by
  unfold State.ringMsi
  repeat' first
    | with_reducible exact h
    | with_reducible assumption
    | with_reducible apply State.msi_within
    | intro _
    | refine fst_within (by assumption) ?_
    | refine snd_within (by assumption) ?_
    | split
    | dsimp only


theorem State.dmaTlps_within {s : State} (h : s.Within K sB) (r : Nat) (k_free : K .free := by assumption) (k_tly : K .tly := by assumption) : (State.dmaTlps s r).Within K sB := by
  unfold State.dmaTlps
  repeat' first
    | with_reducible exact h
    | with_reducible assumption
    | simp only [↓within_free k_free]
    | with_reducible apply State.tlps_within
    | intro _
    | refine fst_within (by assumption) ?_
    | refine snd_within (by assumption) ?_
    | split
    | dsimp only


theorem State.advance_within {s : State} (h : s.Within K sB) (r : Nat) (k_words : K .words := by assumption) (k_ctrs : K .ctrs := by assumption) (k_free : K .free := by assumption) (k_tly : K .tly := by assumption) (k_hst : K .hst := by assumption) : (State.advance s r).Within K sB := by
  unfold State.advance
  repeat' first
    | with_reducible exact h
    | with_reducible assumption
    | with_reducible apply State.wr_within
    | with_reducible apply State.inc_within
    | with_reducible apply State.dmaTlps_within
    | with_reducible apply State.setRing_within
    | with_reducible apply State.ringMsi_within
    | intro _
    | refine fst_within (by assumption) ?_
    | refine snd_within (by assumption) ?_
    | split
    | dsimp only


theorem State.fillEntry_within {s : State} (h : s.Within K sB) (r : Nat) (ws : List Word) (data : List Byte) (k_words : K .words := by assumption) (k_ctrs : K .ctrs := by assumption) (k_free : K .free := by assumption) (k_tly : K .tly := by assumption) (k_hst : K .hst := by assumption) : (State.fillEntry s r ws data).Within K sB := by
  unfold State.fillEntry
  repeat' first
    | with_reducible exact h
    | with_reducible assumption
    | with_reducible apply State.setRing_within
    | with_reducible apply State.advance_within
    | intro _
    | refine fst_within (by assumption) ?_
    | refine snd_within (by assumption) ?_
    | split
    | dsimp only


theorem State.rxDeliver_within {s : State} (h : s.Within K sB) (o : ExcOut) (len : Nat) (k_words : K .words := by assumption) (k_ctrs : K .ctrs := by assumption) (k_free : K .free := by assumption) (k_flt : K .flt := by assumption) (k_cpg : K .cpg := by assumption) (k_fwd : K .fwd := by assumption) (k_tly : K .tly := by assumption) (k_hst : K .hst := by assumption) : (State.rxDeliver s o len).Within K sB := by
  unfold State.rxDeliver
  repeat' first
    | with_reducible exact h
    | with_reducible assumption
    | with_reducible apply State.mirror_within
    | with_reducible apply State.toSteward_within
    | with_reducible apply State.inc_within
    | with_reducible apply State.unref_within
    | with_reducible apply State.raiseLimited_within
    | with_reducible apply State.fillEntry_within
    | intro _
    | refine fst_within (by assumption) ?_
    | refine snd_within (by assumption) ?_
    | split
    | dsimp only


theorem State.telDeliver_within {s : State} (h : s.Within K sB) (x : TelRec) (len : Nat) (k_words : K .words := by assumption) (k_ctrs : K .ctrs := by assumption) (k_free : K .free := by assumption) (k_tly : K .tly := by assumption) (k_hst : K .hst := by assumption) : (State.telDeliver s x len).Within K sB := by
  unfold State.telDeliver
  repeat' first
    | with_reducible exact h
    | with_reducible assumption
    | with_reducible apply State.inc_within
    | with_reducible apply State.fillEntry_within
    | intro _
    | refine fst_within (by assumption) ?_
    | refine snd_within (by assumption) ?_
    | split
    | dsimp only


theorem State.txEntry_within {s : State} (h : s.Within K sB) (r : Nat) (e : List Word) (fr : List Byte) (k_words : K .words := by assumption) (k_ctrs : K .ctrs := by assumption) (k_free : K .free := by assumption) (k_flt : K .flt := by assumption) (k_cpg : K .cpg := by assumption) (k_fwd : K .fwd := by assumption) (k_tly : K .tly := by assumption) : (State.txEntry s r e fr).Within K sB := by
  unfold State.txEntry
  repeat' first
    | with_reducible exact h
    | with_reducible assumption
    | with_reducible apply State.inc_within
    | with_reducible apply State.deny_within
    | with_reducible apply State.newBuf_within
    | with_reducible apply State.noBuf_within
    | with_reducible apply State.epochRef_within
    | with_reducible apply State.proxyChecks_within
    | with_reducible apply State.enqueue_within
    | with_reducible apply State.epochUnref_within
    | with_reducible apply State.intake_within
    | intro _
    | refine fst_within (by assumption) ?_
    | refine snd_within (by assumption) ?_
    | split
    | dsimp only


theorem State.dropInHand_within {s : State} (h : s.Within K sB) (r : Nat) (k_ctrs : K .ctrs := by assumption) (k_flt : K .flt := by assumption) (k_cpg : K .cpg := by assumption) (k_fwd : K .fwd := by assumption) (k_tly : K .tly := by assumption) : (State.dropInHand s r).Within K sB := by
  unfold State.dropInHand
  repeat' first
    | with_reducible exact h
    | with_reducible assumption
    | simp only [↓within_tly k_tly, ↓within_fwd k_fwd]
    | with_reducible apply State.drop_within
    | with_reducible apply State.mirror_within
    | with_reducible apply State.unref_within
    | intro _
    | refine fst_within (by assumption) ?_
    | refine snd_within (by assumption) ?_
    | split
    | dsimp only


theorem State.rearm_within {s : State} (h : s.Within K sB) (ag : Agent) (v : Word) (k_words : K .words := by assumption) (k_ctrs : K .ctrs := by assumption) (k_free : K .free := by assumption) (k_flt : K .flt := by assumption) (k_tly : K .tly := by assumption) (k_hst : K .hst := by assumption) : (State.rearm s ag v).Within K sB := by
  unfold State.rearm
  repeat' first
    | with_reducible exact h
    | with_reducible assumption
    | with_reducible apply State.gate_within
    | with_reducible apply State.putWord_within
    | with_reducible apply State.level_within
    | with_reducible apply State.msi_within
    | intro _
    | refine fst_within (by assumption) ?_
    | refine snd_within (by assumption) ?_
    | split
    | dsimp only


end Sys2Proof.Machine
end

