-- ==== Sys2Proof/Laws/WithinWarden.lean ====
section
/-! SUPPORT. Generated: the parts of the state that the operations of Machine/Warden.lean leave alone. -/

namespace Sys2Proof.Machine

set_option autoImplicit false
set_option Elab.async false
set_option linter.unusedTactic false
set_option linter.unreachableTactic false
set_option linter.unusedSimpArgs false
set_option linter.unusedVariables false

variable {K : Part → Prop} {sB : State}

theorem State.cycleEnd_within {s : State} (h : s.Within K sB) (k_words : K .words := by assumption) (k_ctrs : K .ctrs := by assumption) (k_flt : K .flt := by assumption) (k_tly : K .tly := by assumption) (k_wdn : K .wdn := by assumption) : (State.cycleEnd s).Within K sB := by
  unfold State.cycleEnd
  repeat' first
    | with_reducible exact h
    | with_reducible assumption
    | simp only [↓within_wdn k_wdn]
    | with_reducible apply State.inc_within
    | with_reducible apply State.wr_within
    | with_reducible apply State.endCause_within
    | intro _
    | refine fst_within (by assumption) ?_
    | refine snd_within (by assumption) ?_
    | split
    | dsimp only


theorem State.startTest_within {s : State} (h : s.Within K sB) (id : Nat) (p : Golden) (k : Nat) (k_words : K .words := by assumption) (k_eng : K .eng := by assumption) : (State.startTest s id p k).Within K sB := by
  unfold State.startTest
  repeat' first
    | with_reducible exact h
    | with_reducible assumption
    | with_reducible apply State.setCtx_within
    | with_reducible apply State.epochRef_within
    | intro _
    | refine fst_within (by assumption) ?_
    | refine snd_within (by assumption) ?_
    | split
    | dsimp only


theorem State.beginTest_within {s : State} (h : s.Within K sB) (p : Golden) (ix under : Nat) (refs : List Nat) (k_words : K .words := by assumption) (k_eng : K .eng := by assumption) (k_wdn : K .wdn := by assumption) : (State.beginTest s p ix under refs).Within K sB := by
  unfold State.beginTest
  repeat' first
    | with_reducible exact h
    | with_reducible assumption
    | simp only [↓within_wdn k_wdn]
    | with_reducible apply State.startTest_within
    | with_reducible apply foldl_within
    | intro _
    | refine fst_within (by assumption) ?_
    | refine snd_within (by assumption) ?_
    | split
    | dsimp only


theorem State.idleDispatch_within {s : State} (h : s.Within K sB) (room : Nat → Nat) (k_words : K .words := by assumption) (k_eng : K .eng := by assumption) (k_wdn : K .wdn := by assumption) : (State.idleDispatch s room).Within K sB := by
  unfold State.idleDispatch
  split
  · exact h
  · extract_lets r
    have hr : r.1.Within K sB := by
      refine foldl_fst_within _ _ h (fun a x ha => ?_)
      dsimp only
      split
      · exact State.beginTest_within ha ..
      · exact ha
    simp only [↓within_wdn k_wdn]
    exact hr


theorem State.bankRows_within {s : State} (h : s.Within K sB) (first n : Nat) (bad : Option Nat) (k_flt : K .flt := by assumption) (k_wdn : K .wdn := by assumption) : (State.bankRows s first n bad).Within K sB := by
  unfold State.bankRows
  repeat' first
    | with_reducible exact h
    | with_reducible assumption
    | simp only [↓within_flt_wdn k_flt k_wdn, ↓within_wdn k_wdn, ↓within_flt k_flt]
    | with_reducible apply State.drop_within
    | with_reducible apply foldl_within
    | intro _
    | refine fst_within (by assumption) ?_
    | refine snd_within (by assumption) ?_
    | split
    | dsimp only


theorem State.freeLeak_within {s : State} (h : s.Within K sB) (h : Nat) (k_ctrs : K .ctrs := by assumption) (k_flt : K .flt := by assumption) (k_cpg : K .cpg := by assumption) (k_tly : K .tly := by assumption) : (State.freeLeak s h).Within K sB := by
  unfold State.freeLeak
  repeat' first
    | with_reducible exact h
    | with_reducible assumption
    | with_reducible apply State.raise_within
    | with_reducible apply State.inc_within
    | with_reducible apply State.setBuf_within
    | with_reducible apply State.unref_within
    | intro _
    | refine fst_within (by assumption) ?_
    | refine snd_within (by assumption) ?_
    | split
    | dsimp only


end Sys2Proof.Machine
end

