-- ==== Sys2Proof/Laws/WithinReceive.lean ====
section
/-! SUPPORT. Generated: the parts of the state that the operations of Machine/Receive.lean leave alone. -/

namespace Sys2Proof.Machine

set_option autoImplicit false
set_option Elab.async false
set_option linter.unusedTactic false
set_option linter.unreachableTactic false
set_option linter.unusedSimpArgs false
set_option linter.unusedVariables false

variable {K : Part → Prop} {sB : State}

theorem State.setPreset_within {s : State} (h : s.Within K sB) (p : Fin 32) (sd slot : Nat) (x : Preset) (k_pon : K .pon := by assumption) : (State.setPreset s p sd slot x).Within K sB := by
  unfold State.setPreset
  repeat' first
    | with_reducible exact h
    | with_reducible assumption
    | simp only [↓within_pon k_pon]
    | intro _
    | refine fst_within (by assumption) ?_
    | refine snd_within (by assumption) ?_
    | split
    | dsimp only


theorem State.setUsAdj_within {s : State} (h : s.Within K sB) (p : Fin 32) (sd : Nat) (v : Int) (k_words : K .words := by assumption) : (State.setUsAdj s p sd v).Within K sB := by
  unfold State.setUsAdj
  repeat' first
    | with_reducible exact h
    | with_reducible assumption
    | with_reducible apply State.wr_within
    | intro _
    | refine fst_within (by assumption) ?_
    | refine snd_within (by assumption) ?_
    | split
    | dsimp only


theorem State.wideDone_within {s : State} (h : s.Within K sB) (p : Fin 32) (sd n : Nat) (k_words : K .words := by assumption) (k_ctrs : K .ctrs := by assumption) (k_pon : K .pon := by assumption) (k_twn : K .twn := by assumption) (k_tly : K .tly := by assumption) : (State.wideDone s p sd n).Within K sB := by
  unfold State.wideDone
  repeat' first
    | with_reducible exact h
    | with_reducible assumption
    | simp only [↓within_twn k_twn]
    | with_reducible apply State.setSide_within
    | with_reducible apply State.inc_within
    | with_reducible apply State.setUsAdj_within
    | intro _
    | refine fst_within (by assumption) ?_
    | refine snd_within (by assumption) ?_
    | split
    | dsimp only


theorem State.sideHeard_within {s : State} (h : s.Within K sB) (p : Fin 32) (sd : Nat) (k_words : K .words := by assumption) (k_flt : K .flt := by assumption) (k_pon : K .pon := by assumption) : (State.sideHeard s p sd).Within K sB := by
  unfold State.sideHeard
  repeat' first
    | with_reducible exact h
    | with_reducible assumption
    | with_reducible apply State.setSide_within
    | with_reducible apply State.wr_within
    | with_reducible apply State.endCause_within
    | intro _
    | refine fst_within (by assumption) ?_
    | refine snd_within (by assumption) ?_
    | split
    | dsimp only


theorem State.markHeard_within {s : State} (h : s.Within K sB) (p : Fin 32) (sd : Nat) (k_pon : K .pon := by assumption) : (State.markHeard s p sd).Within K sB := by
  unfold State.markHeard
  repeat' first
    | with_reducible exact h
    | with_reducible assumption
    | with_reducible apply State.setSide_within
    | intro _
    | refine fst_within (by assumption) ?_
    | refine snd_within (by assumption) ?_
    | split
    | dsimp only


theorem State.settleBurst_within {s : State} (h : s.Within K sB) (p : Fin 32) (sd n : Nat) (got : Bool) (k_words : K .words := by assumption) (k_ctrs : K .ctrs := by assumption) (k_flt : K .flt := by assumption) (k_pon : K .pon := by assumption) (k_twn : K .twn := by assumption) (k_tly : K .tly := by assumption) : (State.settleBurst s p sd n got).Within K sB := by
  unfold State.settleBurst
  repeat' first
    | with_reducible exact h
    | with_reducible assumption
    | with_reducible apply State.sideHeard_within
    | with_reducible apply State.markHeard_within
    | with_reducible apply State.setSide_within
    | with_reducible apply State.wideDone_within
    | intro _
    | refine fst_within (by assumption) ?_
    | refine snd_within (by assumption) ?_
    | split
    | dsimp only


theorem State.requestRerange_within {s : State} (h : s.Within K sB) (p : Fin 32) (i : Nat) (hold : Bool) (k_act : K .act := by assumption) (k_pm : K .pm := by assumption) (k_twn : K .twn := by assumption) : (State.requestRerange s p i hold).Within K sB := by
  unfold State.requestRerange
  repeat' first
    | with_reducible exact h
    | with_reducible assumption
    | with_reducible apply State.setSlot_within
    | intro _
    | refine fst_within (by assumption) ?_
    | refine snd_within (by assumption) ?_
    | split
    | dsimp only


theorem State.burstMissed_within {s : State} (h : s.Within K sB) (p : Fin 32) (sd : Nat) (e : Exp) (k_words : K .words := by assumption) (k_ctrs : K .ctrs := by assumption) (k_flt : K .flt := by assumption) (k_pon : K .pon := by assumption) (k_act : K .act := by assumption) (k_pm : K .pm := by assumption) (k_twn : K .twn := by assumption) (k_tly : K .tly := by assumption) : (State.burstMissed s p sd e).Within K sB := by
  unfold State.burstMissed
  extract_lets i x held si s1 pre s2 s3 y s4 s5
  have h1 : s1.Within K sB := by
    dsimp only [s1]
    split
    · exact h
    · split
      · exact State.pmMod_within (State.pmMod_within (State.inc_within h ..) ..) ..
      · exact State.pmMod_within (State.inc_within h ..) ..
  have h2 : s2.Within K sB := by
    dsimp only [s2]
    split
    · exact State.inc_within (State.setPreset_within h1 ..) ..
    · exact h1
  have h3 : s3.Within K sB := State.settleBurst_within h2 ..
  have h4 : s4.Within K sB := State.setSlot_within h3 ..
  have h5 : s5.Within K sB := by
    dsimp only [s5]
    split
    · exact State.toLost_within h4 ..
    · exact h4
  split
  · exact h3
  · split
    · split
      · exact State.requestRerange_within h5 ..
      · exact h5
    · exact h4


theorem State.track_within {s : State} (h : s.Within K sB) (p : Fin 32) (sd i : Nat) (d : Int) (k_ctrs : K .ctrs := by assumption) (k_act : K .act := by assumption) (k_pm : K .pm := by assumption) (k_twn : K .twn := by assumption) (k_tly : K .tly := by assumption) : (State.track s p sd i d).Within K sB := by
  unfold State.track
  repeat' first
    | with_reducible exact h
    | with_reducible assumption
    | with_reducible apply State.setSlot_within
    | with_reducible apply State.drop_within
    | with_reducible apply State.requestRerange_within
    | with_reducible apply State.inc_within
    | with_reducible apply State.holdFor_within
    | intro _
    | refine fst_within (by assumption) ?_
    | refine snd_within (by assumption) ?_
    | split
    | dsimp only


theorem State.recover_within {s : State} (h : s.Within K sB) (p : Fin 32) (i : Nat) (k_ctrs : K .ctrs := by assumption) (k_act : K .act := by assumption) (k_pm : K .pm := by assumption) (k_twn : K .twn := by assumption) (k_hrl : K .hrl := by assumption) (k_tly : K .tly := by assumption) : (State.recover s p i).Within K sB := by
  unfold State.recover
  repeat' first
    | with_reducible exact h
    | with_reducible assumption
    | with_reducible apply State.setSlot_within
    | with_reducible apply State.dropAnn_within
    | with_reducible apply State.inc_within
    | intro _
    | refine fst_within (by assumption) ?_
    | refine snd_within (by assumption) ?_
    | split
    | dsimp only


theorem State.deltaSample_within {s : State} (h : s.Within K sB) (p : Fin 32) (v : Int) (k_words : K .words := by assumption) (k_ctrs : K .ctrs := by assumption) (k_flt : K .flt := by assumption) (k_twn : K .twn := by assumption) (k_tly : K .tly := by assumption) : (State.deltaSample s p v).Within K sB := by
  unfold State.deltaSample
  repeat' first
    | with_reducible exact h
    | with_reducible assumption
    | with_reducible apply State.inc_within
    | with_reducible apply State.drop_within
    | with_reducible apply State.setTwinTree_within
    | with_reducible apply State.wr_within
    | with_reducible apply State.raise_within
    | with_reducible apply foldl_within
    | intro _
    | refine fst_within (by assumption) ?_
    | refine snd_within (by assumption) ?_
    | split
    | dsimp only


theorem State.adjSample_within {s : State} (h : s.Within K sB) (p : Fin 32) (sd : Nat) (e : Exp) (d : Int) (k_words : K .words := by assumption) (k_twn : K .twn := by assumption) : (State.adjSample s p sd e d).Within K sB := by
  unfold State.adjSample
  repeat' first
    | with_reducible exact h
    | with_reducible assumption
    | simp only [↓within_twn k_twn]
    | with_reducible apply State.drop_within
    | with_reducible apply State.setUsAdj_within
    | with_reducible apply foldl_within
    | intro _
    | refine fst_within (by assumption) ?_
    | refine snd_within (by assumption) ?_
    | split
    | dsimp only


theorem State.storeReports_within {s : State} (h : s.Within K sB) (p : Fin 32) (sd n : Nat) (l : List (Nat × BitVec 24 × BitVec 8)) (k_whf : K .whf := by assumption) :
    (State.storeReports s p sd n l).Within K sB := by
  unfold State.storeReports
  refine foldl_within _ _ h (fun t r ht => ?_)
  generalize dbruGood r.2.1 r.2.2 = g
  split
  · cases g
    · exact ht
    · exact State.setAlloc_within ht ..
  · exact ht


theorem State.pktUnder_within {s : State} (h : s.Within K sB) (p : Fin 32) (sd : Nat) (gs : List Grant) (l : List (Nat × Nat)) (k_ctrs : K .ctrs := by assumption) (k_whf : K .whf := by assumption) (k_tly : K .tly := by assumption) :
    (State.pktUnder s p sd gs l).Within K sB := by
  unfold State.pktUnder
  refine foldl_within _ _ h (fun t r ht => ?_)
  split
  · extract_lets g
    split
    · exact State.inc_within (State.setAlloc_within ht ..) ..
    · exact ht
  · exact ht


theorem State.burstCounts_within {s : State} (h : s.Within K sB) (p : Fin 32) (sd i : Nat) (b : BurstRx) (k_ctrs : K .ctrs := by assumption) (k_pm : K .pm := by assumption) (k_tly : K .tly := by assumption) : (State.burstCounts s p sd i b).Within K sB := by
  unfold State.burstCounts
  repeat' first
    | with_reducible exact h
    | with_reducible assumption
    | with_reducible apply State.count_within
    | with_reducible apply State.inc_within
    | with_reducible apply State.pmMod_within
    | intro _
    | refine fst_within (by assumption) ?_
    | refine snd_within (by assumption) ?_
    | split
    | dsimp only


theorem State.strayRecord_within {s : State} (h : s.Within K sB) (p : Fin 32) (r : Option StrayRec) (k_act : K .act := by assumption) : (State.strayRecord s p r).Within K sB := by
  unfold State.strayRecord
  repeat' first
    | with_reducible exact h
    | with_reducible assumption
    | with_reducible apply idle_within
    | with_reducible apply State.setTreeSt_within
    | intro _
    | refine fst_within (by assumption) ?_
    | refine snd_within (by assumption) ?_
    | split
    | dsimp only


theorem State.strayRaise_within {s : State} (h : s.Within K sB) (p : Fin 32) (sd rest : Nat) (k_flt : K .flt := by assumption) (k_act : K .act := by assumption) : (State.strayRaise s p sd rest).Within K sB := by
  unfold State.strayRaise
  repeat' first
    | with_reducible exact h
    | with_reducible assumption
    | with_reducible apply State.raise_within
    | with_reducible apply State.setTreeSt_within
    | intro _
    | refine fst_within (by assumption) ?_
    | refine snd_within (by assumption) ?_
    | split
    | dsimp only


theorem State.strayWindow_within {s : State} (h : s.Within K sB) (p : Fin 32) (sd : Nat) (onu : Option Nat) (off : Option Int) (record : Bool) (k_ctrs : K .ctrs := by assumption) (k_flt : K .flt := by assumption) (k_act : K .act := by assumption) (k_tly : K .tly := by assumption) : (State.strayWindow s p sd onu off record).Within K sB := by
  unfold State.strayWindow
  repeat' first
    | with_reducible exact h
    | with_reducible assumption
    | with_reducible apply State.strayRecord_within
    | with_reducible apply State.inc_within
    | with_reducible apply State.strayRaise_within
    | intro _
    | refine fst_within (by assumption) ?_
    | refine snd_within (by assumption) ?_
    | split
    | dsimp only


theorem State.burstTaken_within {s : State} (h : s.Within K sB) (p : Fin 32) (sd : Nat) (e : Exp) (b : BurstRx) (learn : Bool) (k_words : K .words := by assumption) (k_ctrs : K .ctrs := by assumption) (k_flt : K .flt := by assumption) (k_pon : K .pon := by assumption) (k_act : K .act := by assumption) (k_pm : K .pm := by assumption) (k_twn : K .twn := by assumption) (k_tly : K .tly := by assumption) : (State.burstTaken s p sd e b learn).Within K sB := by
  unfold State.burstTaken
  repeat' first
    | with_reducible exact h
    | with_reducible assumption
    | with_reducible apply State.inc_within
    | with_reducible apply State.settleBurst_within
    | with_reducible apply State.setPreset_within
    | with_reducible apply State.setSlot_within
    | with_reducible apply State.seen_within
    | intro _
    | refine fst_within (by assumption) ?_
    | refine snd_within (by assumption) ?_
    | split
    | dsimp only


theorem State.offsetSeen_within {s : State} (h : s.Within K sB) (p : Fin 32) (sd : Nat) (e : Exp) (d : Int) (wide : Bool) (k_ctrs : K .ctrs := by assumption) (k_act : K .act := by assumption) (k_pm : K .pm := by assumption) (k_twn : K .twn := by assumption) (k_hrl : K .hrl := by assumption) (k_tly : K .tly := by assumption) : (State.offsetSeen s p sd e d wide).Within K sB := by
  unfold State.offsetSeen
  repeat' first
    | with_reducible exact h
    | with_reducible assumption
    | simp only [↓within_twn k_twn]
    | with_reducible apply State.recover_within
    | with_reducible apply State.track_within
    | intro _
    | refine fst_within (by assumption) ?_
    | refine snd_within (by assumption) ?_
    | split
    | dsimp only


theorem State.presetStore_within {s : State} (h : s.Within K sB) (p : Fin 32) (idx : Nat) (valid : Bool) (k_pon : K .pon := by assumption) : (State.presetStore s p idx valid).Within K sB := by
  unfold State.presetStore
  repeat' first
    | with_reducible exact h
    | with_reducible assumption
    | with_reducible apply State.setPreset_within
    | intro _
    | refine fst_within (by assumption) ?_
    | refine snd_within (by assumption) ?_
    | split
    | dsimp only


theorem execAlignModeWrite_within {s : State} (h : s.Within K sB) (ag : Agent) (p : Fin 32) (v : Word) (k_words : K .words := by assumption) (k_ctrs : K .ctrs := by assumption) (k_free : K .free := by assumption) (k_flt : K .flt := by assumption) (k_pon : K .pon := by assumption) (k_twn : K .twn := by assumption) (k_tly : K .tly := by assumption) : Completes (execAlignModeWrite ag p v s) (fun t => t.Within K sB) := by
  unfold execAlignModeWrite
  repeat' first
    | with_reducible refine completes_within _ ?_
    | with_reducible exact h
    | with_reducible assumption
    | with_reducible apply ok_within
    | with_reducible apply State.gate_within
    | with_reducible apply State.storeWord_within
    | with_reducible apply State.wr_within
    | with_reducible apply State.setSide_within
    | with_reducible apply State.mirror_within
    | intro _
    | refine fst_within (by assumption) ?_
    | refine snd_within (by assumption) ?_
    | split
    | dsimp only


end Sys2Proof.Machine
end

