-- ==== Sys2Proof/Laws/WithinView.lean ====
section
/-! SUPPORT. Generated: the parts of the state that the operations of Machine/View.lean leave alone. -/

namespace Sys2Proof.Machine

set_option autoImplicit false
set_option Elab.async false
set_option linter.unusedTactic false
set_option linter.unreachableTactic false
set_option linter.unusedSimpArgs false
set_option linter.unusedVariables false

variable {K : Part → Prop} {sB : State}

theorem State.trapSeen_within {s : State} (h : s.Within K sB) (a : Nat) (k_eng : K .eng := by assumption) : (State.trapSeen s a).Within K sB := by
  unfold State.trapSeen
  repeat' first
    | with_reducible exact h
    | with_reducible assumption
    | with_reducible apply State.setGuild_within
    | intro _
    | refine fst_within (by assumption) ?_
    | refine snd_within (by assumption) ?_
    | split
    | dsimp only


theorem State.readWord_within {s0 : State} (h : s0.Within K sB) (ag : Agent) (a : Nat) (k_latch : K .latch := by assumption) (k_ctrs : K .ctrs := by assumption) (k_eng : K .eng := by assumption) (k_shl : K .shl := by assumption) (k_tly : K .tly := by assumption) (k_rdata : K .rdata := by assumption) : (State.readWord s0 ag a).Within K sB := by
  unfold State.readWord
  repeat' first
    | with_reducible exact h
    | with_reducible assumption
    | with_reducible apply State.trapSeen_within
    | with_reducible apply State.injSeen_within
    | with_reducible apply State.setLatch_within
    | with_reducible apply State.answer_within
    | with_reducible apply foldl_within
    | intro _
    | refine fst_within (by assumption) ?_
    | refine snd_within (by assumption) ?_
    | split
    | dsimp only


theorem State.readCounters_within {s : State} (h : s.Within K sB) (ag : Agent) (off : Nat) (k_words : K .words := by assumption) (k_latch : K .latch := by assumption) (k_ctrs : K .ctrs := by assumption) (k_flt : K .flt := by assumption) (k_pm : K .pm := by assumption) (k_tly : K .tly := by assumption) (k_rdata : K .rdata := by assumption) : (State.readCounters s ag off).Within K sB := by
  unfold State.readCounters
  repeat' first
    | with_reducible exact h
    | with_reducible assumption
    | simp only [↓within_pm k_pm]
    | with_reducible apply State.denyAs_within
    | with_reducible apply State.answer_within
    | with_reducible apply State.drop_within
    | with_reducible apply State.setLatch_within
    | with_reducible apply foldl_within
    | intro _
    | refine fst_within (by assumption) ?_
    | refine snd_within (by assumption) ?_
    | split
    | dsimp only


end Sys2Proof.Machine
end

