-- ==== Sys2Proof/Laws/WithinWin.lean ====
section
/-! SUPPORT. Generated: the parts of the state that the operations of Machine/Win.lean leave alone. -/

namespace Sys2Proof.Machine

set_option autoImplicit false
set_option Elab.async false
set_option linter.unusedTactic false
set_option linter.unreachableTactic false
set_option linter.unusedSimpArgs false
set_option linter.unusedVariables false

variable {K : Part → Prop} {sB : State}

theorem State.winSeen_within {s : State} (h : s.Within K sB) (w idx : Nat) (k_whf : K .whf := by assumption) : (State.winSeen s w idx).Within K sB := by
  unfold State.winSeen
  repeat' first
    | with_reducible exact h
    | with_reducible assumption
    | simp only [↓within_whf k_whf]
    | intro _
    | refine fst_within (by assumption) ?_
    | refine snd_within (by assumption) ?_
    | split
    | dsimp only


theorem State.winStore_within {s : State} (h : s.Within K sB) (ag : Agent) (w idx first : Nat) (ws : List Word) (k_words : K .words := by assumption) (k_ctrs : K .ctrs := by assumption) (k_flt : K .flt := by assumption) (k_pon : K .pon := by assumption) (k_cpg : K .cpg := by assumption) (k_twn : K .twn := by assumption) (k_eng : K .eng := by assumption) (k_tly : K .tly := by assumption) : (State.winStore s ag w idx first ws).Within K sB := by
  unfold State.winStore
  repeat' first
    | with_reducible exact h
    | with_reducible assumption
    | with_reducible apply State.presetStore_within
    | with_reducible apply State.gldStore_within
    | with_reducible apply State.allocWrite_within
    | with_reducible apply State.putEntry_within
    | with_reducible apply State.fsiStore_within
    | with_reducible apply State.cpgStore_within
    | with_reducible apply State.schStore_within
    | with_reducible apply State.ctxStore_within
    | with_reducible apply State.tlyStore_within
    | with_reducible apply State.tlyApply_within
    | with_reducible apply State.putWord_within
    | with_reducible apply foldl_within
    | intro _
    | refine fst_within (by assumption) ?_
    | refine snd_within (by assumption) ?_
    | split
    | dsimp only


theorem State.winDone_within {s : State} (h : s.Within K sB) (ag : Agent) (rd : Bool) (w idx : Nat) (c : WinCode) (k_words : K .words := by assumption) (k_ctrs : K .ctrs := by assumption) (k_flt : K .flt := by assumption) (k_tly : K .tly := by assumption) (k_hst : K .hst := by assumption) : (State.winDone s ag rd w idx c).Within K sB := by
  unfold State.winDone
  repeat' first
    | with_reducible exact h
    | with_reducible assumption
    | with_reducible apply State.putWord_within
    | with_reducible apply State.deny_within
    | with_reducible apply State.denyAs_within
    | with_reducible apply State.msi_within
    | intro _
    | refine fst_within (by assumption) ?_
    | refine snd_within (by assumption) ?_
    | split
    | dsimp only


theorem State.winCmd_within {s : State} (h : s.Within K sB) (ag : Agent) (w : Nat) (v : Word) (k_words : K .words := by assumption) (k_ctrs : K .ctrs := by assumption) (k_flt : K .flt := by assumption) (k_pon : K .pon := by assumption) (k_whf : K .whf := by assumption) (k_cpg : K .cpg := by assumption) (k_twn : K .twn := by assumption) (k_eng : K .eng := by assumption) (k_tly : K .tly := by assumption) (k_hst : K .hst := by assumption) : (State.winCmd s ag w v).Within K sB := by
  unfold State.winCmd
  repeat' first
    | with_reducible exact h
    | with_reducible assumption
    | with_reducible apply State.count_within
    | with_reducible apply ok_within
    | with_reducible apply State.drop_within
    | with_reducible apply State.putWord_within
    | with_reducible apply State.winSeen_within
    | with_reducible apply State.winDone_within
    | with_reducible apply State.winStore_within
    | with_reducible apply foldl_within
    | intro _
    | refine fst_within (by assumption) ?_
    | refine snd_within (by assumption) ?_
    | split
    | dsimp only


end Sys2Proof.Machine
end

