-- ==== Sys2Proof/Laws/WithinRegWrite.lean ====
section
/-! SUPPORT. Generated: the parts of the state that the operations of Machine/RegWrite.lean leave alone. -/

namespace Sys2Proof.Machine

set_option autoImplicit false
set_option Elab.async false
set_option linter.unusedTactic false
set_option linter.unreachableTactic false
set_option linter.unusedSimpArgs false
set_option linter.unusedVariables false

variable {K : Part → Prop} {sB : State}

theorem nextOr_within {s : State} (h : s.Within K sB) (o : Host.Outcome State Fault Refusal) (ho : Completes o (fun t => t.Within K sB))  :
    (nextOr s o).Within K sB := by
  obtain ⟨t, rfl, ht⟩ := ho
  exact ht


theorem State.plainWrite_within {s : State} (h : s.Within K sB) (ag : Agent) (a : Nat) (v : Word) (k_words : K .words := by assumption) (k_ctrs : K .ctrs := by assumption) (k_free : K .free := by assumption) (k_flt : K .flt := by assumption) (k_tly : K .tly := by assumption) : (State.plainWrite s ag a v).Within K sB := by
  unfold State.plainWrite
  repeat' first
    | with_reducible exact h
    | with_reducible assumption
    | with_reducible apply State.gate_within
    | with_reducible apply State.storeWord_within
    | intro _
    | refine fst_within (by assumption) ?_
    | refine snd_within (by assumption) ?_
    | split
    | dsimp only


theorem State.drop_within {s : State} (h : s.Within K sB) (ag : Agent) (a : Nat) (k_words : K .words := by assumption) (k_ctrs : K .ctrs := by assumption) (k_free : K .free := by assumption) (k_flt : K .flt := by assumption) (k_tly : K .tly := by assumption) : (State.drop s ag a).Within K sB := by
  unfold State.drop
  repeat' first
    | with_reducible exact h
    | with_reducible assumption
    | with_reducible apply State.gate_within
    | with_reducible apply State.deny_within
    | intro _
    | refine fst_within (by assumption) ?_
    | refine snd_within (by assumption) ?_
    | split
    | dsimp only


theorem State.ctrWrite_within {s : State} (h : s.Within K sB) (ag : Agent) (a b : Nat) (v : Word) (k_words : K .words := by assumption) (k_ctrs : K .ctrs := by assumption) (k_free : K .free := by assumption) (k_flt : K .flt := by assumption) (k_tly : K .tly := by assumption) : (State.ctrWrite s ag a b v).Within K sB := by
  unfold State.ctrWrite
  refine State.gate_within h _ _ _ (fun t ht => ?_)
  split
  · exact ctrs_within ht _
  · exact ht


theorem State.tlyRegWrite_within {s : State} (h : s.Within K sB) (ag : Agent) (a : Nat) (v : Word) (k_words : K .words := by assumption) (k_ctrs : K .ctrs := by assumption) (k_free : K .free := by assumption) (k_flt : K .flt := by assumption) (k_pm : K .pm := by assumption) (k_tly : K .tly := by assumption) : (State.tlyRegWrite s ag a v).Within K sB := by
  unfold State.tlyRegWrite
  repeat' first
    | with_reducible exact h
    | with_reducible assumption
    | with_reducible apply State.tlyCtrl_within
    | with_reducible apply State.drop_within
    | with_reducible apply State.plainWrite_within
    | with_reducible apply State.gate_within
    | with_reducible apply State.storeWord_within
    | with_reducible apply State.deny_within
    | intro _
    | refine fst_within (by assumption) ?_
    | refine snd_within (by assumption) ?_
    | split
    | dsimp only


theorem State.slewWrite_within {s : State} (h : s.Within K sB) (ag : Agent) (a : Nat) (v : Word) (k_words : K .words := by assumption) (k_ctrs : K .ctrs := by assumption) (k_free : K .free := by assumption) (k_flt : K .flt := by assumption) (k_hrl : K .hrl := by assumption) (k_tly : K .tly := by assumption) : (State.slewWrite s ag a v).Within K sB := by
  unfold State.slewWrite
  repeat' first
    | with_reducible exact h
    | with_reducible assumption
    | simp only [↓within_hrl k_hrl]
    | with_reducible apply State.gate_within
    | with_reducible apply State.storeWord_within
    | intro _
    | refine fst_within (by assumption) ?_
    | refine snd_within (by assumption) ?_
    | split
    | dsimp only


theorem State.hrlRegWrite_within {s : State} (h : s.Within K sB) (ag : Agent) (a : Nat) (v : Word) (k_words : K .words := by assumption) (k_ctrs : K .ctrs := by assumption) (k_free : K .free := by assumption) (k_flt : K .flt := by assumption) (k_pon : K .pon := by assumption) (k_pm : K .pm := by assumption) (k_hrl : K .hrl := by assumption) (k_tly : K .tly := by assumption) : (State.hrlRegWrite s ag a v).Within K sB := by
  unfold State.hrlRegWrite
  repeat' first
    | with_reducible apply nextOr_within
    | with_reducible exact h
    | with_reducible assumption
    | with_reducible apply execSwitchOutput_within
    | with_reducible apply execOutStep_within
    | with_reducible apply State.plainWrite_within
    | with_reducible apply State.slewWrite_within
    | with_reducible apply execDomainEnWrite_within
    | with_reducible apply State.gate_within
    | with_reducible apply State.putWord_within
    | with_reducible apply execPhaseSampleCommit_within
    | with_reducible apply execReacquire_within
    | intro _
    | refine fst_within (by assumption) ?_
    | refine snd_within (by assumption) ?_
    | split
    | dsimp only


theorem State.clearAdj_within {s : State} (h : s.Within K sB) (k_words : K .words := by assumption) : (State.clearAdj s).Within K sB := by
  unfold State.clearAdj
  repeat' first
    | with_reducible exact h
    | with_reducible assumption
    | with_reducible apply State.wr_within
    | with_reducible apply foldl_within
    | intro _
    | refine fst_within (by assumption) ?_
    | refine snd_within (by assumption) ?_
    | split
    | dsimp only


theorem State.twnCfgWrite_within {s : State} (h : s.Within K sB) (ag : Agent) (v : Word) (k_words : K .words := by assumption) (k_ctrs : K .ctrs := by assumption) (k_free : K .free := by assumption) (k_flt : K .flt := by assumption) (k_cpg : K .cpg := by assumption) (k_twn : K .twn := by assumption) (k_shl : K .shl := by assumption) (k_tly : K .tly := by assumption) : (State.twnCfgWrite s ag v).Within K sB := by
  unfold State.twnCfgWrite
  repeat' first
    | with_reducible exact h
    | with_reducible assumption
    | with_reducible apply State.gate_within
    | with_reducible apply State.storeWord_within
    | with_reducible apply State.clearAdj_within
    | with_reducible apply State.claim_within
    | with_reducible apply State.recompute_within
    | with_reducible apply State.takeRoles_within
    | intro _
    | refine fst_within (by assumption) ?_
    | refine snd_within (by assumption) ?_
    | split
    | dsimp only


theorem State.twnRegWrite_within {s : State} (h : s.Within K sB) (ag : Agent) (a : Nat) (v : Word) (k_words : K .words := by assumption) (k_ctrs : K .ctrs := by assumption) (k_free : K .free := by assumption) (k_flt : K .flt := by assumption) (k_pon : K .pon := by assumption) (k_act : K .act := by assumption) (k_cpg : K .cpg := by assumption) (k_keys : K .keys := by assumption) (k_pm : K .pm := by assumption) (k_stw : K .stw := by assumption) (k_twn : K .twn := by assumption) (k_hrl : K .hrl := by assumption) (k_shl : K .shl := by assumption) (k_tly : K .tly := by assumption) (k_hst : K .hst := by assumption) : (State.twnRegWrite s ag a v).Within K sB := by
  unfold State.twnRegWrite
  repeat' first
    | with_reducible apply nextOr_within
    | with_reducible exact h
    | with_reducible assumption
    | with_reducible apply State.twnCfgWrite_within
    | with_reducible apply execTake_within
    | with_reducible apply execGive_within
    | with_reducible apply State.gate_within
    | with_reducible apply State.plainWrite_within
    | intro _
    | refine fst_within (by assumption) ?_
    | refine snd_within (by assumption) ?_
    | split
    | dsimp only


theorem State.shlRegWrite_within {s : State} (h : s.Within K sB) (ag : Agent) (a : Nat) (v : Word) (k_words : K .words := by assumption) (k_ctrs : K .ctrs := by assumption) (k_free : K .free := by assumption) (k_flt : K .flt := by assumption) (k_cpg : K .cpg := by assumption) (k_twn : K .twn := by assumption) (k_shl : K .shl := by assumption) (k_tly : K .tly := by assumption) : (State.shlRegWrite s ag a v).Within K sB := by
  unfold State.shlRegWrite
  repeat' first
    | with_reducible exact h
    | with_reducible assumption
    | with_reducible apply State.fabCfgWrite_within
    | with_reducible apply State.laneCfgWrite_within
    | with_reducible apply State.ltWrite_within
    | with_reducible apply State.plainWrite_within
    | intro _
    | refine fst_within (by assumption) ?_
    | refine snd_within (by assumption) ?_
    | split
    | dsimp only


theorem State.hstRegWrite_within {s : State} (h : s.Within K sB) (ag : Agent) (a : Nat) (v : Word) (k_words : K .words := by assumption) (k_ctrs : K .ctrs := by assumption) (k_free : K .free := by assumption) (k_flt : K .flt := by assumption) (k_cpg : K .cpg := by assumption) (k_twn : K .twn := by assumption) (k_shl : K .shl := by assumption) (k_tly : K .tly := by assumption) (k_hst : K .hst := by assumption) : (State.hstRegWrite s ag a v).Within K sB := by
  unfold State.hstRegWrite
  repeat' first
    | with_reducible exact h
    | with_reducible assumption
    | with_reducible apply State.drop_within
    | with_reducible apply State.plainWrite_within
    | with_reducible apply State.rearm_within
    | with_reducible apply State.vfPorts_within
    | with_reducible apply State.ringCfg_within
    | with_reducible apply State.ringTail_within
    | with_reducible apply State.ringOther_within
    | with_reducible apply State.ltWrite_within
    | intro _
    | refine fst_within (by assumption) ?_
    | refine snd_within (by assumption) ?_
    | split
    | dsimp only


theorem State.keyRegWrite_within {s : State} (h : s.Within K sB) (ag : Agent) (a : Nat) (v : Word) (k_words : K .words := by assumption) (k_ctrs : K .ctrs := by assumption) (k_free : K .free := by assumption) (k_flt : K .flt := by assumption) (k_act : K .act := by assumption) (k_cpg : K .cpg := by assumption) (k_keys : K .keys := by assumption) (k_pm : K .pm := by assumption) (k_stw : K .stw := by assumption) (k_twn : K .twn := by assumption) (k_shl : K .shl := by assumption) (k_tly : K .tly := by assumption) (k_hst : K .hst := by assumption) : (State.keyRegWrite s ag a v).Within K sB := by
  unfold State.keyRegWrite
  repeat' first
    | with_reducible apply nextOr_within
    | with_reducible exact h
    | with_reducible assumption
    | with_reducible apply State.plainWrite_within
    | with_reducible apply State.hostTlp_within
    | with_reducible apply execKeyLoad_within
    | with_reducible apply execKeyActivate_within
    | with_reducible apply execKeyErase_within
    | with_reducible apply execKeyRestore_within
    | with_reducible apply State.keyGate_within
    | with_reducible apply State.putWord_within
    | with_reducible apply State.deny_within
    | intro _
    | refine fst_within (by assumption) ?_
    | refine snd_within (by assumption) ?_
    | split
    | dsimp only


theorem State.cpgRegWrite_within {s : State} (h : s.Within K sB) (ag : Agent) (a : Nat) (v : Word) (k_words : K .words := by assumption) (k_ctrs : K .ctrs := by assumption) (k_free : K .free := by assumption) (k_flt : K .flt := by assumption) (k_cpg : K .cpg := by assumption) (k_fwd : K .fwd := by assumption) (k_tly : K .tly := by assumption) : (State.cpgRegWrite s ag a v).Within K sB := by
  unfold State.cpgRegWrite
  repeat' first
    | with_reducible apply nextOr_within
    | with_reducible exact h
    | with_reducible assumption
    | with_reducible apply execCellarEnable_within
    | with_reducible apply execPoolCfgWrite_within
    | with_reducible apply State.plainWrite_within
    | with_reducible apply execFreeStw_within
    | intro _
    | refine fst_within (by assumption) ?_
    | refine snd_within (by assumption) ?_
    | split
    | dsimp only


theorem State.keepProf_within {s : State} (h : s.Within K sB) (p j : Nat) (k_fwd : K .fwd := by assumption) : (State.keepProf s p j).Within K sB := by
  unfold State.keepProf
  repeat' first
    | with_reducible exact h
    | with_reducible assumption
    | simp only [↓within_fwd k_fwd]
    | intro _
    | refine fst_within (by assumption) ?_
    | refine snd_within (by assumption) ?_
    | split
    | dsimp only


theorem State.xprRegWrite_within {s : State} (h : s.Within K sB) (ag : Agent) (a : Nat) (v : Word) (k_words : K .words := by assumption) (k_ctrs : K .ctrs := by assumption) (k_free : K .free := by assumption) (k_flt : K .flt := by assumption) (k_fwd : K .fwd := by assumption) (k_tly : K .tly := by assumption) : (State.xprRegWrite s ag a v).Within K sB := by
  unfold State.xprRegWrite
  repeat' first
    | with_reducible exact h
    | with_reducible assumption
    | with_reducible apply State.gate_within
    | with_reducible apply State.keepProf_within
    | with_reducible apply State.storeWord_within
    | with_reducible apply State.plainWrite_within
    | intro _
    | refine fst_within (by assumption) ?_
    | refine snd_within (by assumption) ?_
    | split
    | dsimp only


theorem State.ldgRegWrite_within {s : State} (h : s.Within K sB) (ag : Agent) (a : Nat) (v : Word) (k_words : K .words := by assumption) (k_ctrs : K .ctrs := by assumption) (k_free : K .free := by assumption) (k_flt : K .flt := by assumption) (k_ldg : K .ldg := by assumption) (k_tly : K .tly := by assumption) (k_hst : K .hst := by assumption) : (State.ldgRegWrite s ag a v).Within K sB := by
  unfold State.ldgRegWrite
  repeat' first
    | with_reducible exact h
    | with_reducible assumption
    | simp only [↓within_ldg k_ldg]
    | with_reducible apply State.gate_within
    | with_reducible apply State.ldgIssue_within
    | with_reducible apply State.deny_within
    | with_reducible apply State.storeWord_within
    | with_reducible apply State.plainWrite_within
    | intro _
    | refine fst_within (by assumption) ?_
    | refine snd_within (by assumption) ?_
    | split
    | dsimp only


theorem State.exmRegWrite_within {s : State} (h : s.Within K sB) (ag : Agent) (a : Nat) (v : Word) (k_words : K .words := by assumption) (k_ctrs : K .ctrs := by assumption) (k_free : K .free := by assumption) (k_flt : K .flt := by assumption) (k_tly : K .tly := by assumption) : (State.exmRegWrite s ag a v).Within K sB := by
  unfold State.exmRegWrite
  repeat' first
    | with_reducible exact h
    | with_reducible assumption
    | with_reducible apply State.gate_within
    | with_reducible apply State.storeWord_within
    | with_reducible apply State.deny_within
    | with_reducible apply State.plainWrite_within
    | intro _
    | refine fst_within (by assumption) ?_
    | refine snd_within (by assumption) ?_
    | split
    | dsimp only


theorem State.usCfgWrite_within {s : State} (h : s.Within K sB) (ag : Agent) (p : Fin 32) (a : Nat) (v : Word) (k_words : K .words := by assumption) (k_ctrs : K .ctrs := by assumption) (k_free : K .free := by assumption) (k_flt : K .flt := by assumption) (k_twn : K .twn := by assumption) (k_tly : K .tly := by assumption) : (State.usCfgWrite s ag p a v).Within K sB := by
  unfold State.usCfgWrite
  repeat' first
    | with_reducible exact h
    | with_reducible assumption
    | with_reducible apply State.gate_within
    | with_reducible apply State.storeWord_within
    | with_reducible apply State.wr_within
    | with_reducible apply State.mirror_within
    | intro _
    | refine fst_within (by assumption) ?_
    | refine snd_within (by assumption) ?_
    | split
    | dsimp only


theorem State.ptRegWrite_within {s : State} (h : s.Within K sB) (ag : Agent) (p : Fin 32) (a : Nat) (v : Word) (k_words : K .words := by assumption) (k_ctrs : K .ctrs := by assumption) (k_free : K .free := by assumption) (k_flt : K .flt := by assumption) (k_pon : K .pon := by assumption) (k_act : K .act := by assumption) (k_cpg : K .cpg := by assumption) (k_keys : K .keys := by assumption) (k_pm : K .pm := by assumption) (k_stw : K .stw := by assumption) (k_twn : K .twn := by assumption) (k_hrl : K .hrl := by assumption) (k_shl : K .shl := by assumption) (k_tly : K .tly := by assumption) :
    (State.ptRegWrite s ag p a v).Within K sB := by
  unfold State.ptRegWrite
  extract_lets o
  refine ite_within (nextOr_within h _ (execDsEnableWrite_within h ..)) ?_
  refine ite_within (nextOr_within h _ (execPhaseOffsetWrite_within h ..)) ?_
  refine ite_within (nextOr_within h _ (execOcbCommit_within h ..)) ?_
  refine ite_within (nextOr_within h _ (execOcbCommit_within h ..)) ?_
  refine ite_within (nextOr_within h _ (execAlignModeWrite_within h ..)) ?_
  refine ite_within (State.usCfgWrite_within h ..) ?_
  refine ite_within (nextOr_within h _ (execTeqdWrite_within h ..)) ?_
  refine ite_within (nextOr_within h _ (execReachWrite_within h ..)) ?_
  refine ite_within (State.actWrite_within h ..) ?_
  refine ite_within (State.ltWrite_within h ..) ?_
  refine ite_within (State.gate_within h _ _ _ (fun t ht => State.rampCheck_within (State.mirror_within (State.storeWord_within ht ..) ..) ..)) ?_
  exact State.plainWrite_within h ..


theorem State.gldRegWrite_within {s : State} (h : s.Within K sB) (ag : Agent) (g : Fin 64) (a : Nat) (v : Word) (k_words : K .words := by assumption) (k_ctrs : K .ctrs := by assumption) (k_free : K .free := by assumption) (k_flt : K .flt := by assumption) (k_cpg : K .cpg := by assumption) (k_eng : K .eng := by assumption) (k_fwd : K .fwd := by assumption) (k_tly : K .tly := by assumption) : (State.gldRegWrite s ag g a v).Within K sB := by
  unfold State.gldRegWrite
  repeat' first
    | with_reducible apply nextOr_within
    | with_reducible exact h
    | with_reducible assumption
    | with_reducible apply State.gldCtrl_within
    | with_reducible apply execValidateBank_within
    | with_reducible apply State.gate_within
    | with_reducible apply State.plainWrite_within
    | intro _
    | refine fst_within (by assumption) ?_
    | refine snd_within (by assumption) ?_
    | split
    | dsimp only


theorem State.bootRegWrite_within {s : State} (h : s.Within K sB) (ag : Agent) (a : Nat) (v : Word) (k_words : K .words := by assumption) (k_ctrs : K .ctrs := by assumption) (k_free : K .free := by assumption) (k_flt : K .flt := by assumption) (k_act : K .act := by assumption) (k_stw : K .stw := by assumption) (k_twn : K .twn := by assumption) (k_tly : K .tly := by assumption) (k_boot : K .boot := by assumption) (k_hst : K .hst := by assumption) : (State.bootRegWrite s ag a v).Within K sB := by
  unfold State.bootRegWrite
  repeat' first
    | with_reducible exact h
    | with_reducible assumption
    | with_reducible apply State.bootCmd_within
    | with_reducible apply State.fwCtrl_within
    | with_reducible apply State.plainWrite_within
    | intro _
    | refine fst_within (by assumption) ?_
    | refine snd_within (by assumption) ?_
    | split
    | dsimp only


theorem State.portWrite_within {s : State} (h : s.Within K sB) (ag : Agent) (w o : Nat) (v : Word) (k_words : K .words := by assumption) (k_ctrs : K .ctrs := by assumption) (k_flt : K .flt := by assumption) (k_pon : K .pon := by assumption) (k_whf : K .whf := by assumption) (k_cpg : K .cpg := by assumption) (k_twn : K .twn := by assumption) (k_eng : K .eng := by assumption) (k_tly : K .tly := by assumption) (k_hst : K .hst := by assumption) : (State.portWrite s ag w o v).Within K sB := by
  unfold State.portWrite
  repeat' first
    | with_reducible exact h
    | with_reducible assumption
    | with_reducible apply State.putWord_within
    | with_reducible apply State.winCmd_within
    | intro _
    | refine fst_within (by assumption) ?_
    | refine snd_within (by assumption) ?_
    | split
    | dsimp only


theorem State.portRead_within {s : State} (h : s.Within K sB) (ag : Agent) (w o : Nat) (k_rdata : K .rdata := by assumption) : (State.portRead s ag w o).Within K sB := by
  unfold State.portRead
  repeat' first
    | with_reducible exact h
    | with_reducible assumption
    | with_reducible apply State.answer_within
    | intro _
    | refine fst_within (by assumption) ?_
    | refine snd_within (by assumption) ?_
    | split
    | dsimp only


theorem State.hostWinWrite_within {s : State} (h : s.Within K sB) (ag : Agent) (a x : Nat) (v : Word) (k_words : K .words := by assumption) (k_ctrs : K .ctrs := by assumption) (k_flt : K .flt := by assumption) (k_tly : K .tly := by assumption) (k_boot : K .boot := by assumption) : (State.hostWinWrite s ag a x v).Within K sB := by
  unfold State.hostWinWrite
  repeat' first
    | with_reducible exact h
    | with_reducible assumption
    | simp only [↓within_boot k_boot]
    | with_reducible apply State.deny_within
    | with_reducible apply foldl_within
    | intro _
    | refine fst_within (by assumption) ?_
    | refine snd_within (by assumption) ?_
    | split
    | dsimp only


theorem State.hostWinRead_within {s : State} (h : s.Within K sB) (ag : Agent) (a x : Nat) (k_words : K .words := by assumption) (k_ctrs : K .ctrs := by assumption) (k_flt : K .flt := by assumption) (k_tly : K .tly := by assumption) (k_rdata : K .rdata := by assumption) : (State.hostWinRead s ag a x).Within K sB := by
  unfold State.hostWinRead
  repeat' first
    | with_reducible exact h
    | with_reducible assumption
    | with_reducible apply State.denyAs_within
    | with_reducible apply State.answer_within
    | intro _
    | refine fst_within (by assumption) ?_
    | refine snd_within (by assumption) ?_
    | split
    | dsimp only


theorem State.pfRead_within {s0 : State} (h : s0.Within K sB) (ag : Agent) (a : Nat) (k_words : K .words := by assumption) (k_latch : K .latch := by assumption) (k_ctrs : K .ctrs := by assumption) (k_free : K .free := by assumption) (k_flt : K .flt := by assumption) (k_eng : K .eng := by assumption) (k_hrl : K .hrl := by assumption) (k_shl : K .shl := by assumption) (k_tly : K .tly := by assumption) (k_rdata : K .rdata := by assumption) : (State.pfRead s0 ag a).Within K sB := by
  unfold State.pfRead
  repeat' first
    | with_reducible apply nextOr_within
    | with_reducible exact h
    | with_reducible assumption
    | with_reducible apply State.hostTlp_within
    | with_reducible apply State.denyAs_within
    | with_reducible apply State.answer_within
    | with_reducible apply State.hostWinRead_within
    | with_reducible apply State.portRead_within
    | with_reducible apply execFaultQueueRead_within
    | with_reducible apply execTsRecordRead_within
    | with_reducible apply State.readWord_within
    | intro _
    | refine fst_within (by assumption) ?_
    | refine snd_within (by assumption) ?_
    | split
    | dsimp only


theorem State.vfWrite_within {s : State} (h : s.Within K sB) (v : Fin 32) (off : Nat) (x : Word) (k_words : K .words := by assumption) (k_ctrs : K .ctrs := by assumption) (k_free : K .free := by assumption) (k_flt : K .flt := by assumption) (k_pon : K .pon := by assumption) (k_whf : K .whf := by assumption) (k_cpg : K .cpg := by assumption) (k_twn : K .twn := by assumption) (k_eng : K .eng := by assumption) (k_tly : K .tly := by assumption) (k_hst : K .hst := by assumption) : (State.vfWrite s v off x).Within K sB := by
  have h1 : (s.hostTlp false (.vf v) off).Within K sB := State.hostTlp_within h ..
  unfold State.vfWrite
  dsimp only
  split
  · split
    · split
      · exact ctrs_within h1 _
      · exact h1
    · exact ite_within (State.ringCfg_within h ..) (ite_within (State.ringTail_within h ..) (State.ringOther_within h ..))
  · split
    · exact State.portWrite_within (State.takeFree_within h1) ..
    · exact State.deny_within h1 ..


theorem State.vfRead_within {s0 : State} (h : s0.Within K sB) (v : Fin 32) (off : Nat) (k_words : K .words := by assumption) (k_latch : K .latch := by assumption) (k_ctrs : K .ctrs := by assumption) (k_free : K .free := by assumption) (k_flt : K .flt := by assumption) (k_eng : K .eng := by assumption) (k_shl : K .shl := by assumption) (k_tly : K .tly := by assumption) (k_rdata : K .rdata := by assumption) : (State.vfRead s0 v off).Within K sB := by
  unfold State.vfRead
  repeat' first
    | with_reducible exact h
    | with_reducible assumption
    | with_reducible apply State.hostTlp_within
    | with_reducible apply State.readWord_within
    | with_reducible apply State.portRead_within
    | with_reducible apply State.denyAs_within
    | with_reducible apply State.answer_within
    | intro _
    | refine fst_within (by assumption) ?_
    | refine snd_within (by assumption) ?_
    | split
    | dsimp only


theorem State.msixWrite_within {s : State} (h : s.Within K sB) (ag : Agent) (off : Nat) (v : Word) (k_words : K .words := by assumption) (k_ctrs : K .ctrs := by assumption) (k_free : K .free := by assumption) (k_flt : K .flt := by assumption) (k_tly : K .tly := by assumption) (k_hst : K .hst := by assumption) : (State.msixWrite s ag off v).Within K sB := by
  unfold State.msixWrite
  repeat' first
    | with_reducible exact h
    | with_reducible assumption
    | with_reducible apply State.deny_within
    | with_reducible apply State.hostTlp_within
    | with_reducible apply State.putWord_within
    | with_reducible apply State.msiFlush_within
    | intro _
    | refine fst_within (by assumption) ?_
    | refine snd_within (by assumption) ?_
    | split
    | dsimp only


theorem State.msixRead_within {s0 : State} (h : s0.Within K sB) (ag : Agent) (off : Nat) (k_words : K .words := by assumption) (k_ctrs : K .ctrs := by assumption) (k_free : K .free := by assumption) (k_flt : K .flt := by assumption) (k_tly : K .tly := by assumption) (k_rdata : K .rdata := by assumption) : (State.msixRead s0 ag off).Within K sB := by
  unfold State.msixRead
  repeat' first
    | with_reducible exact h
    | with_reducible assumption
    | with_reducible apply State.denyAs_within
    | with_reducible apply State.answer_within
    | with_reducible apply State.hostTlp_within
    | intro _
    | refine fst_within (by assumption) ?_
    | refine snd_within (by assumption) ?_
    | split
    | dsimp only


theorem State.regRead_within {s : State} (h : s.Within K sB) (ag : Agent) (bar : Bar) (off : Nat) (k_words : K .words := by assumption) (k_latch : K .latch := by assumption) (k_ctrs : K .ctrs := by assumption) (k_free : K .free := by assumption) (k_flt : K .flt := by assumption) (k_pm : K .pm := by assumption) (k_eng : K .eng := by assumption) (k_hrl : K .hrl := by assumption) (k_shl : K .shl := by assumption) (k_tly : K .tly := by assumption) (k_rdata : K .rdata := by assumption) : (State.regRead s ag bar off).Within K sB := by
  unfold State.regRead
  repeat' first
    | with_reducible exact h
    | with_reducible assumption
    | with_reducible apply State.vfRead_within
    | with_reducible apply State.pfRead_within
    | with_reducible apply State.msixRead_within
    | with_reducible apply State.hostTlp_within
    | with_reducible apply State.readCounters_within
    | intro _
    | refine fst_within (by assumption) ?_
    | refine snd_within (by assumption) ?_
    | split
    | dsimp only


end Sys2Proof.Machine
end

