-- ==== Sys2Proof/Laws/WithinImage.lean ====
section
/-! SUPPORT. Generated: the parts of the state that the operations of Machine/Image.lean leave alone. -/

namespace Sys2Proof.Machine

set_option autoImplicit false
set_option Elab.async false
set_option linter.unusedTactic false
set_option linter.unreachableTactic false
set_option linter.unusedSimpArgs false
set_option linter.unusedVariables false

variable {K : Part → Prop} {sB : State}

theorem State.openLocks_within {s : State} (h : s.Within K sB) (k_words : K .words := by assumption) : (State.openLocks s).Within K sB := by
  unfold State.openLocks
  repeat' first
    | with_reducible exact h
    | with_reducible assumption
    | with_reducible apply State.wr_within
    | with_reducible apply foldl_within
    | intro _
    | refine fst_within (by assumption) ?_
    | refine snd_within (by assumption) ?_
    | split
    | dsimp only


theorem applyAll_within {α : Type} (f : State → α → Option State) (hf : ∀ t x r, t.Within K sB → f t x = some r → r.Within K sB) (l : List α)
    {s : State} (h : s.Within K sB) (r : State) (e : applyAll f l s = some r)  : r.Within K sB := by
  induction l generalizing s with
  | nil => cases e; exact h
  | cons x l ih =>
    unfold applyAll at e
    split at e
    · cases e
    · next s1 e1 => exact ih (hf _ _ _ h e1) e

theorem State.unlessDenied_within {s t : State} (ht : t.Within K sB) (r : State) (e : State.unlessDenied s t = some r) : r.Within K sB := by
  unfold State.unlessDenied at e
  split at e <;> cases e
  exact ht


theorem State.tableWrite_within {s : State} (h : s.Within K sB) (x : TabWr) (r : State) (e : State.tableWrite s x = some r) (k_words : K .words := by assumption) (k_ctrs : K .ctrs := by assumption) (k_flt : K .flt := by assumption) (k_pon : K .pon := by assumption) (k_cpg : K .cpg := by assumption) (k_twn : K .twn := by assumption) (k_eng : K .eng := by assumption) (k_tly : K .tly := by assumption) : r.Within K sB := by
  unfold State.tableWrite at e
  split at e
  · exact State.unlessDenied_within (State.winStore_within h ..) _ e
  · cases e


theorem State.rowImage_within {s : State} (h : s.Within K sB) (i : Nat) (x : LEnt) (r : State) (e : State.rowImage s i x = some r) (k_ldg : K .ldg := by assumption) : r.Within K sB := by
  unfold State.rowImage at e
  dsimp only at e
  split at e
  · cases e
  · split at e <;> cases e
    · exact h
    · exact State.setRow_within h ..


theorem State.cellImage_within {s : State} (h : s.Within K sB) (i : Nat) (c : Cell) (r : State) (e : State.cellImage s i c = some r) (k_ldg : K .ldg := by assumption) : r.Within K sB := by
  unfold State.cellImage at e
  split at e
  · cases e
  · split at e <;> cases e
    exact State.setCell_within h ..


theorem State.segmentImage_within {s : State} (h : s.Within K sB) (g : Nat) (ws : List Word) (r : State) (e : State.segmentImage s g ws = some r) (k_words : K .words := by assumption) (k_eng : K .eng := by assumption) :
    r.Within K sB := by
  unfold State.segmentImage at e
  split at e
  · cases e
  · split at e
    · cases e
      exact h
    · dsimp only at e
      split at e <;> cases e
      exact State.gldCommand_within (State.wr_within (State.gldStore_within h ..) ..) ..


theorem State.algImage_within {s : State} (h : s.Within K sB) (c : List (Nat × List Word)) (r : State) (e : State.algImage s c = some r) (k_words : K .words := by assumption) : r.Within K sB := by
  unfold State.algImage at e
  split at e <;> cases e
  exact State.wr_within (foldl_within _ _ h (fun t x ht => State.putEntry_within ht ..)) ..


theorem State.fsiImage_within {s : State} (h : s.Within K sB) (x : Nat × Nat × Word) (r : State) (e : State.fsiImage s x = some r) (k_words : K .words := by assumption) (k_twn : K .twn := by assumption) : r.Within K sB := by
  unfold State.fsiImage at e
  dsimp only at e
  split at e
  · cases e
  · split at e <;> cases e
    exact State.fsiStore_within h ..


theorem State.linkImage_within {s : State} (h : s.Within K sB) (img : Image) (k_ctrs : K .ctrs := by assumption) (k_free : K .free := by assumption) (k_keys : K .keys := by assumption) (k_stw : K .stw := by assumption) (k_twn : K .twn := by assumption) (k_shl : K .shl := by assumption) (k_tly : K .tly := by assumption) : (State.linkImage s img).Within K sB := by
  unfold State.linkImage
  repeat' first
    | with_reducible exact h
    | with_reducible assumption
    | simp only [↓within_stw k_stw]
    | with_reducible apply State.loadLinks_within
    | intro _
    | refine fst_within (by assumption) ?_
    | refine snd_within (by assumption) ?_
    | split
    | dsimp only


theorem State.keepImage_within {s : State} (h : s.Within K sB) (img : Image) (k_ctrs : K .ctrs := by assumption) (k_free : K .free := by assumption) (k_act : K .act := by assumption) (k_keys : K .keys := by assumption) (k_stw : K .stw := by assumption) (k_twn : K .twn := by assumption) (k_shl : K .shl := by assumption) (k_tly : K .tly := by assumption) (k_wdn : K .wdn := by assumption) (k_boot : K .boot := by assumption) : (State.keepImage s img).Within K sB := by
  unfold State.keepImage
  repeat' first
    | with_reducible exact h
    | with_reducible assumption
    | simp only [↓within_act_stw_wdn_boot k_act k_stw k_wdn k_boot]
    | with_reducible apply State.linkImage_within
    | intro _
    | refine fst_within (by assumption) ?_
    | refine snd_within (by assumption) ?_
    | split
    | dsimp only


theorem State.unwriteWords_within {s : State} (h : s.Within K sB) (cs : List Nat) (k_words : K .words := by assumption) : (State.unwriteWords s cs).Within K sB := by
  unfold State.unwriteWords
  extract_lets s1 m s2
  have h1 : s1.Within K sB := (within_words k_words _).2 h
  have h2 : s2.Within K sB := foldl_within _ _ h1 (fun t p ht => State.putWord_within ht ..)
  exact State.wr_within (State.wr_within (State.wr_within h2 ..) ..) ..


theorem State.unwrite_within {s : State} (h : s.Within K sB) (img : Image) (k_words : K .words := by assumption) (k_ctrs : K .ctrs := by assumption) (k_free : K .free := by assumption) (k_flt : K .flt := by assumption) (k_act : K .act := by assumption) (k_cpg : K .cpg := by assumption) (k_keys : K .keys := by assumption) (k_stw : K .stw := by assumption) (k_twn : K .twn := by assumption) (k_ldg : K .ldg := by assumption) (k_eng : K .eng := by assumption) (k_fwd : K .fwd := by assumption) (k_shl : K .shl := by assumption) (k_tly : K .tly := by assumption) (k_wdn : K .wdn := by assumption) (k_boot : K .boot := by assumption) : (State.unwrite s img).Within K sB := by
  unfold State.unwrite
  dsimp only
  refine ite_within (State.recompute_within (State.claim_within (State.takeRoles_within ?_))) ?_
  all_goals
    refine foldl_within _ _ ?_ (fun t n ht => State.sealChange_within (State.eraseRoot_within ht ..) ..)
    simp only [↓within_act_cpg_stw_ldg_eng_fwd_tly_wdn_boot k_act k_cpg k_stw k_ldg k_eng k_fwd k_tly k_wdn k_boot]
    exact State.unwriteWords_within h ..


theorem State.bankBad_within {s : State} (h : s.Within K sB) (bank sect reason : Nat) (k_words : K .words := by assumption) (k_ctrs : K .ctrs := by assumption) (k_flt : K .flt := by assumption) (k_tly : K .tly := by assumption) (k_boot : K .boot := by assumption) : (State.bankBad s bank sect reason).Within K sB := by
  unfold State.bankBad
  repeat' first
    | with_reducible exact h
    | with_reducible assumption
    | with_reducible apply State.raise_within
    | with_reducible apply State.nextBank_within
    | intro _
    | refine fst_within (by assumption) ?_
    | refine snd_within (by assumption) ?_
    | split
    | dsimp only


theorem State.bankDone_within {s : State} (h : s.Within K sB) (bank : Nat) (img : Image) (k_words : K .words := by assumption) (k_flt : K .flt := by assumption) (k_boot : K .boot := by assumption) (k_hst : K .hst := by assumption) : (State.bankDone s bank img).Within K sB := by
  unfold State.bankDone
  repeat' first
    | with_reducible exact h
    | with_reducible assumption
    | simp only [↓within_boot k_boot]
    | with_reducible apply State.wr_within
    | with_reducible apply State.endCause_within
    | with_reducible apply State.bootDone_within
    | intro _
    | refine fst_within (by assumption) ?_
    | refine snd_within (by assumption) ?_
    | split
    | dsimp only


theorem State.setLocks_within {s : State} (h : s.Within K sB) (k_words : K .words := by assumption) : (State.setLocks s).Within K sB := by
  unfold State.setLocks
  repeat' first
    | with_reducible exact h
    | with_reducible assumption
    | with_reducible apply State.wr_within
    | with_reducible apply foldl_within
    | intro _
    | refine fst_within (by assumption) ?_
    | refine snd_within (by assumption) ?_
    | split
    | dsimp only


theorem State.treeToS2_within {s : State} (h : s.Within K sB) (p : Fin 32) (k_act : K .act := by assumption) (k_twn : K .twn := by assumption) : (State.treeToS2 s p).Within K sB := by
  unfold State.treeToS2
  repeat' first
    | with_reducible exact h
    | with_reducible assumption
    | with_reducible apply State.broadcastDeactivate_within
    | with_reducible apply State.enterRamp_within
    | intro _
    | refine fst_within (by assumption) ?_
    | refine snd_within (by assumption) ?_
    | split
    | dsimp only


end Sys2Proof.Machine
end

