-- ==== Sys2Proof/Laws/WithinMirror.lean ====
section
/-! SUPPORT. Generated: the parts of the state that the operations of Machine/Mirror.lean leave alone. -/

namespace Sys2Proof.Machine

set_option autoImplicit false
set_option Elab.async false
set_option linter.unusedTactic false
set_option linter.unreachableTactic false
set_option linter.unusedSimpArgs false
set_option linter.unusedVariables false

variable {K : Part → Prop} {sB : State}

theorem State.mirrorWin_within {s : State} (h : s.Within K sB) (p : Fin 32) (w idx first : Nat) (ws : List Word) (k_words : K .words := by assumption) (k_ctrs : K .ctrs := by assumption) (k_flt : K .flt := by assumption) (k_pon : K .pon := by assumption) (k_cpg : K .cpg := by assumption) (k_twn : K .twn := by assumption) (k_eng : K .eng := by assumption) (k_tly : K .tly := by assumption) : (State.mirrorWin s p w idx first ws).Within K sB := by
  unfold State.mirrorWin
  repeat' first
    | with_reducible exact h
    | with_reducible assumption
    | with_reducible apply State.deny_within
    | with_reducible apply State.winStore_within
    | intro _
    | refine fst_within (by assumption) ?_
    | refine snd_within (by assumption) ?_
    | split
    | dsimp only


theorem State.loadSfc_within {s : State} (h : s.Within K sB) (p : Fin 32) (n : Nat) (k_pon : K .pon := by assumption) (k_twn : K .twn := by assumption) : (State.loadSfc s p n).Within K sB := by
  unfold State.loadSfc
  repeat' first
    | with_reducible exact h
    | with_reducible assumption
    | simp only [↓within_twn k_twn]
    | with_reducible apply State.setPort_within
    | intro _
    | refine fst_within (by assumption) ?_
    | refine snd_within (by assumption) ?_
    | split
    | dsimp only


theorem State.syncSlot_within {s : State} (h : s.Within K sB) (p : Fin 32) (i : Nat) (x : Slot) (k_words : K .words := by assumption) (k_ctrs : K .ctrs := by assumption) (k_flt : K .flt := by assumption) (k_act : K .act := by assumption) (k_cpg : K .cpg := by assumption) (k_pm : K .pm := by assumption) (k_stw : K .stw := by assumption) (k_twn : K .twn := by assumption) (k_tly : K .tly := by assumption) : (State.syncSlot s p i x).Within K sB := by
  unfold State.syncSlot
  repeat' first
    | with_reducible exact h
    | with_reducible assumption
    | with_reducible apply State.setSlot_within
    | with_reducible apply State.provisionShadow_within
    | with_reducible apply State.unprovision_within
    | intro _
    | refine fst_within (by assumption) ?_
    | refine snd_within (by assumption) ?_
    | split
    | dsimp only


end Sys2Proof.Machine
end

