-- ==== Sys2Proof/Laws/WithinStep.lean ====
section
/-! SUPPORT. Generated: the parts of the state that the operations of Machine/Step.lean leave alone. -/

namespace Sys2Proof.Machine

set_option autoImplicit false
set_option Elab.async false
set_option linter.unusedTactic false
set_option linter.unreachableTactic false
set_option linter.unusedSimpArgs false
set_option linter.unusedVariables false

variable {K : Part → Prop} {sB : State}

theorem idle_within {s : State} (h : s.Within K sB) (k_now : K .now := by assumption) : (idle s).Within K sB := (within_now k_now _).2 h


end Sys2Proof.Machine
end

