-- ==== Sys2Proof/Laws/Frames.lean ====
section
/-! SUPPORT. Generated: the parts of the state each command leaves alone. -/

namespace Sys2Proof.Machine

set_option autoImplicit false
set_option Elab.async false
set_option linter.unusedTactic false
set_option linter.unreachableTactic false
set_option linter.unusedSimpArgs false
set_option linter.unusedVariables false

variable {K : Part → Prop} {sB : State}

theorem ok_within {s : State} (h : s.Within K sB)  : Completes (ok s) (fun t => t.Within K sB) := by
  unfold ok
  repeat' first
    | with_reducible refine completes_within _ ?_
    | with_reducible exact h
    | with_reducible assumption
    | intro _
    | refine fst_within (by assumption) ?_
    | refine snd_within (by assumption) ?_
    | split
    | dsimp only


theorem execMapBuildStart_within {s : State} (h : s.Within K sB) (k_words : K .words := by assumption) (k_ctrs : K .ctrs := by assumption) (k_free : K .free := by assumption) (k_act : K .act := by assumption) (k_whf : K .whf := by assumption) (k_pm : K .pm := by assumption) (k_twn : K .twn := by assumption) (k_tly : K .tly := by assumption) : Completes (execMapBuildStart s) (fun t => t.Within K sB) := by
  unfold execMapBuildStart
  extract_lets cap s1 image r built old src wsrc s2
  have h1 : s1.Within K sB := foldl_within _ _ (foldl_within _ _ (State.wr_within h ..) (fun t p ht => State.swapAtBuild_within ht ..))
    (fun t x ht => State.closeWindows_within ht ..)
  have hr : r.1.Within K sB := foldl_fst_within _ _ h1 (fun a x ha => State.buildOne_within ha ..)
  have h2 : s2.Within K sB := by
    simp only [s2, ↓within_whf k_whf]
    exact hr
  clear_value s2 s1
  refine completes_ite_within (completes_within _ h) (completes_within _ ?_)
  with_reducible refine foldl_within _ _ h2 (fun t p ht => ?_)
  with_reducible exact State.mirror_within ht ..


theorem execAssayerCheck_within {s : State} (h : s.Within K sB) (buildTime assayTime : BitVec 16) (mismatch : List (Fin 32 × Side)) (k_words : K .words := by assumption) (k_ctrs : K .ctrs := by assumption) (k_flt : K .flt := by assumption) (k_act : K .act := by assumption) (k_whf : K .whf := by assumption) (k_pm : K .pm := by assumption) (k_twn : K .twn := by assumption) (k_tly : K .tly := by assumption) :
    Completes (execAssayerCheck buildTime assayTime mismatch s) (fun t => t.Within K sB) := by
  unfold execAssayerCheck
  split
  · exact completes_within _ h
  · next b e =>
    extract_lets r c d s2
    have hr : r.1.Within K sB := State.checkAll_within h b
    clear_value r
    have hc : c.1.Within K sB := State.rule10_within hr r.2
    clear_value c
    have hd : d.1.Within K sB := by
      refine foldl_fst_within _ _ hc (fun a x ha => ?_)
      dsimp only
      split
      · with_reducible exact State.raise_within (ite_within ha (State.carry_within ha ..)) ..
      · exact ha
    clear_value d
    have h2 : s2.Within K sB := State.wr_within (State.wr_within hd ..) ..
    clear_value s2
    refine completes_within _ ?_
    simp only [↓within_whf k_whf]
    exact h2


theorem execMapRelease_within {s : State} (h : s.Within K sB) (p : Fin 32) (sd : Side) (k_words : K .words := by assumption) (k_ctrs : K .ctrs := by assumption) (k_flt : K .flt := by assumption) (k_pon : K .pon := by assumption) (k_act : K .act := by assumption) (k_whf : K .whf := by assumption) (k_pm : K .pm := by assumption) (k_twn : K .twn := by assumption) (k_tly : K .tly := by assumption) : Completes (execMapRelease p sd s) (fun t => t.Within K sB) := by
  unfold execMapRelease
  repeat' first
    | with_reducible refine completes_within _ ?_
    | with_reducible exact h
    | with_reducible assumption
    | simp only [↓within_whf k_whf]
    | with_reducible apply ok_within
    | with_reducible apply State.inc_within
    | with_reducible apply State.count_within
    | with_reducible apply State.carry_within
    | with_reducible apply State.shortfalls_within
    | with_reducible apply State.setSide_within
    | with_reducible apply State.inflight_within
    | with_reducible apply State.mirror_within
    | intro _
    | refine fst_within (by assumption) ?_
    | refine snd_within (by assumption) ?_
    | split
    | dsimp only


theorem execAllocWrite_within {s : State} (h : s.Within K sB) (ag : Agent) (p : Fin 32) (i : Fin 1024) (w0 w1 w2 w3 w4 : Word) (k_words : K .words := by assumption) (k_ctrs : K .ctrs := by assumption) (k_flt : K .flt := by assumption) (k_twn : K .twn := by assumption) (k_tly : K .tly := by assumption) : Completes (execAllocWrite ag p i w0 w1 w2 w3 w4 s) (fun t => t.Within K sB) := by
  unfold execAllocWrite
  repeat' first
    | with_reducible refine completes_within _ ?_
    | with_reducible exact h
    | with_reducible assumption
    | with_reducible apply ok_within
    | with_reducible apply State.winGate_within
    | with_reducible apply State.deny_within
    | with_reducible apply State.allocWrite_within
    | intro _
    | refine fst_within (by assumption) ?_
    | refine snd_within (by assumption) ?_
    | split
    | dsimp only


theorem execFsiPageWrite_within {s : State} (h : s.Within K sB) (ag : Agent) (idx : BitVec 18) (v : Word) (k_words : K .words := by assumption) (k_ctrs : K .ctrs := by assumption) (k_flt : K .flt := by assumption) (k_twn : K .twn := by assumption) (k_tly : K .tly := by assumption) : Completes (execFsiPageWrite ag idx v s) (fun t => t.Within K sB) := by
  unfold execFsiPageWrite
  repeat' first
    | with_reducible refine completes_within _ ?_
    | with_reducible exact h
    | with_reducible assumption
    | with_reducible apply ok_within
    | with_reducible apply State.winGate_within
    | with_reducible apply State.deny_within
    | with_reducible apply State.fsiStore_within
    | intro _
    | refine fst_within (by assumption) ?_
    | refine snd_within (by assumption) ?_
    | split
    | dsimp only


theorem execSwapValidationDone_within {s : State} (h : s.Within K sB) (p : Fin 32) (k_words : K .words := by assumption) (k_flt : K .flt := by assumption) (k_whf : K .whf := by assumption) : Completes (execSwapValidationDone p s) (fun t => t.Within K sB) := by
  unfold execSwapValidationDone
  repeat' first
    | with_reducible refine completes_within _ ?_
    | with_reducible exact h
    | with_reducible assumption
    | with_reducible apply ok_within
    | with_reducible apply State.setSwap_within
    | with_reducible apply State.putWord_within
    | with_reducible apply State.wr_within
    | with_reducible apply State.raise_within
    | intro _
    | refine fst_within (by assumption) ?_
    | refine snd_within (by assumption) ?_
    | split
    | dsimp only


theorem execBdeactUnlock_within {s : State} (h : s.Within K sB) (ag : Agent) (v : Word) (k_words : K .words := by assumption) (k_ctrs : K .ctrs := by assumption) (k_free : K .free := by assumption) (k_flt : K .flt := by assumption) (k_tly : K .tly := by assumption) : Completes (execBdeactUnlock ag v s) (fun t => t.Within K sB) := by
  unfold execBdeactUnlock
  repeat' first
    | with_reducible refine completes_within _ ?_
    | with_reducible exact h
    | with_reducible assumption
    | with_reducible apply ok_within
    | with_reducible apply State.gate_within
    | with_reducible apply State.storeWord_within
    | intro _
    | refine fst_within (by assumption) ?_
    | refine snd_within (by assumption) ?_
    | split
    | dsimp only


theorem execWhfAlgWrite_within {s : State} (h : s.Within K sB) (ag : Agent) (v : Word) (k_words : K .words := by assumption) (k_ctrs : K .ctrs := by assumption) (k_free : K .free := by assumption) (k_flt : K .flt := by assumption) (k_tly : K .tly := by assumption) : Completes (execWhfAlgWrite ag v s) (fun t => t.Within K sB) := by
  unfold execWhfAlgWrite
  repeat' first
    | with_reducible refine completes_within _ ?_
    | with_reducible exact h
    | with_reducible assumption
    | with_reducible apply ok_within
    | with_reducible apply State.gate_within
    | with_reducible apply State.storeWord_within
    | intro _
    | refine fst_within (by assumption) ?_
    | refine snd_within (by assumption) ?_
    | split
    | dsimp only


theorem execRetiringTimeout_within {s : State} (h : s.Within K sB) (slot : BitVec 14) (k_keys : K .keys := by assumption) (k_twn : K .twn := by assumption) : Completes (execRetiringTimeout slot s) (fun t => t.Within K sB) := by
  unfold execRetiringTimeout
  repeat' first
    | with_reducible refine completes_within _ ?_
    | with_reducible exact h
    | with_reducible assumption
    | with_reducible apply ok_within
    | with_reducible apply State.eraseRoot_within
    | intro _
    | refine fst_within (by assumption) ?_
    | refine snd_within (by assumption) ?_
    | split
    | dsimp only


theorem execPloamAckTimeout_within {s : State} (h : s.Within K sB) (p : Fin 32) (sd : Side) (k_words : K .words := by assumption) (k_ctrs : K .ctrs := by assumption) (k_flt : K .flt := by assumption) (k_act : K .act := by assumption) (k_cpg : K .cpg := by assumption) (k_keys : K .keys := by assumption) (k_pm : K .pm := by assumption) (k_stw : K .stw := by assumption) (k_twn : K .twn := by assumption) (k_tly : K .tly := by assumption) : Completes (execPloamAckTimeout p sd s) (fun t => t.Within K sB) := by
  unfold execPloamAckTimeout
  repeat' first
    | with_reducible refine completes_within _ ?_
    | with_reducible exact h
    | with_reducible assumption
    | with_reducible apply ok_within
    | with_reducible apply State.setPlq_within
    | with_reducible apply State.inc_within
    | with_reducible apply State.raise_within
    | with_reducible apply State.dropRanged_within
    | intro _
    | refine fst_within (by assumption) ?_
    | refine snd_within (by assumption) ?_
    | split
    | dsimp only


theorem execDiscPeriodStart_within {s : State} (h : s.Within K sB) (p : Fin 32) (sd : Side) (k_act : K .act := by assumption) (k_twn : K .twn := by assumption) : Completes (execDiscPeriodStart p sd s) (fun t => t.Within K sB) := by
  unfold execDiscPeriodStart
  repeat' first
    | with_reducible refine completes_within _ ?_
    | with_reducible exact h
    | with_reducible assumption
    | with_reducible apply ok_within
    | with_reducible apply State.setDisc_within
    | with_reducible apply State.mirror_within
    | intro _
    | refine fst_within (by assumption) ?_
    | refine snd_within (by assumption) ?_
    | split
    | dsimp only


theorem execQuietSpanClose_within {s : State} (h : s.Within K sB) (p : Fin 32) (sd : Side) (eps0 : List Episode) (k_ctrs : K .ctrs := by assumption) (k_pon : K .pon := by assumption) (k_act : K .act := by assumption) (k_twn : K .twn := by assumption) (k_tly : K .tly := by assumption) : Completes (execQuietSpanClose p sd eps0 s) (fun t => t.Within K sB) := by
  unfold execQuietSpanClose
  repeat' first
    | with_reducible refine completes_within _ ?_
    | with_reducible exact h
    | with_reducible assumption
    | with_reducible apply ok_within
    | with_reducible apply State.setSide_within
    | with_reducible apply State.setDisc_within
    | with_reducible apply State.count_within
    | with_reducible apply State.setTreeSt_within
    | with_reducible apply State.rampCheck_within
    | intro _
    | refine fst_within (by assumption) ?_
    | refine snd_within (by assumption) ?_
    | split
    | dsimp only


theorem execSnResponse_within {s : State} (h : s.Within K sB) (p : Fin 32) (k_words : K .words := by assumption) (k_ctrs : K .ctrs := by assumption) (k_free : K .free := by assumption) (k_flt : K .flt := by assumption) (k_pon : K .pon := by assumption) (k_act : K .act := by assumption) (k_cpg : K .cpg := by assumption) (k_keys : K .keys := by assumption) (k_pm : K .pm := by assumption) (k_stw : K .stw := by assumption) (k_twn : K .twn := by assumption) (k_tly : K .tly := by assumption) : Completes (execSnResponse p s) (fun t => t.Within K sB) := by
  unfold execSnResponse
  repeat' first
    | with_reducible refine completes_within _ ?_
    | with_reducible exact h
    | with_reducible assumption
    | with_reducible apply ok_within
    | with_reducible apply State.setTreeSt_within
    | with_reducible apply State.inc_within
    | with_reducible apply State.raise_within
    | with_reducible apply State.actAnswer_within
    | with_reducible apply State.queuePloam_within
    | with_reducible apply State.releaseSlot_within
    | intro _
    | refine fst_within (by assumption) ?_
    | refine snd_within (by assumption) ?_
    | split
    | dsimp only


theorem execRangingResponse_within {s : State} (h : s.Within K sB) (p : Fin 32) (slot : Fin 256) (d : Int) (k_words : K .words := by assumption) (k_ctrs : K .ctrs := by assumption) (k_flt : K .flt := by assumption) (k_pon : K .pon := by assumption) (k_act : K .act := by assumption) (k_cpg : K .cpg := by assumption) (k_keys : K .keys := by assumption) (k_pm : K .pm := by assumption) (k_stw : K .stw := by assumption) (k_twn : K .twn := by assumption) (k_tly : K .tly := by assumption) : Completes (execRangingResponse p slot d s) (fun t => t.Within K sB) := by
  unfold execRangingResponse
  repeat' first
    | with_reducible refine completes_within _ ?_
    | with_reducible exact h
    | with_reducible assumption
    | with_reducible apply ok_within
    | with_reducible apply State.takeRng_within
    | with_reducible apply State.setSlot_within
    | with_reducible apply State.inc_within
    | with_reducible apply State.sendRangingTime_within
    | with_reducible apply State.holdFor_within
    | intro _
    | refine fst_within (by assumption) ?_
    | refine snd_within (by assumption) ?_
    | split
    | dsimp only


theorem execRangingNoResponse_within {s : State} (h : s.Within K sB) (p : Fin 32) (slot : Fin 256) (k_words : K .words := by assumption) (k_ctrs : K .ctrs := by assumption) (k_flt : K .flt := by assumption) (k_pon : K .pon := by assumption) (k_act : K .act := by assumption) (k_cpg : K .cpg := by assumption) (k_keys : K .keys := by assumption) (k_pm : K .pm := by assumption) (k_stw : K .stw := by assumption) (k_twn : K .twn := by assumption) (k_tly : K .tly := by assumption) : Completes (execRangingNoResponse p slot s) (fun t => t.Within K sB) := by
  unfold execRangingNoResponse
  repeat' first
    | with_reducible refine completes_within _ ?_
    | with_reducible exact h
    | with_reducible assumption
    | with_reducible apply ok_within
    | with_reducible apply State.takeRng_within
    | with_reducible apply State.inc_within
    | with_reducible apply State.setSlot_within
    | with_reducible apply State.freeSlot_within
    | with_reducible apply State.raise_within
    | with_reducible apply State.toLost_within
    | intro _
    | refine fst_within (by assumption) ?_
    | refine snd_within (by assumption) ?_
    | split
    | dsimp only


theorem execRegistrationRx_within {s : State} (h : s.Within K sB) (p : Fin 32) (slot : Fin 256) (regId : Nat) (k_words : K .words := by assumption) (k_ctrs : K .ctrs := by assumption) (k_flt : K .flt := by assumption) (k_act : K .act := by assumption) (k_cpg : K .cpg := by assumption) (k_keys : K .keys := by assumption) (k_pm : K .pm := by assumption) (k_stw : K .stw := by assumption) (k_twn : K .twn := by assumption) (k_hrl : K .hrl := by assumption) (k_tly : K .tly := by assumption) : Completes (execRegistrationRx p slot regId s) (fun t => t.Within K sB) := by
  unfold execRegistrationRx
  repeat' first
    | with_reducible refine completes_within _ ?_
    | with_reducible exact h
    | with_reducible assumption
    | with_reducible apply ok_within
    | with_reducible apply State.forSteward_within
    | with_reducible apply State.takeRegistration_within
    | intro _
    | refine fst_within (by assumption) ?_
    | refine snd_within (by assumption) ?_
    | split
    | dsimp only


theorem execKeyReportRx_within {s : State} (h : s.Within K sB) (p : Fin 32) (slot : Fin 256) (dk sk : BitVec 128) (k_ctrs : K .ctrs := by assumption) (k_act : K .act := by assumption) (k_keys : K .keys := by assumption) (k_pm : K .pm := by assumption) (k_stw : K .stw := by assumption) (k_twn : K .twn := by assumption) (k_tly : K .tly := by assumption) : Completes (execKeyReportRx p slot dk sk s) (fun t => t.Within K sB) := by
  unfold execKeyReportRx
  repeat' first
    | with_reducible refine completes_within _ ?_
    | with_reducible exact h
    | with_reducible assumption
    | with_reducible apply ok_within
    | with_reducible apply State.forSteward_within
    | with_reducible apply State.takeKeyReport_within
    | intro _
    | refine fst_within (by assumption) ?_
    | refine snd_within (by assumption) ?_
    | split
    | dsimp only


theorem execKeyExchangeTimeout_within {s : State} (h : s.Within K sB) (p : Fin 32) (slot : Fin 256) (k_words : K .words := by assumption) (k_ctrs : K .ctrs := by assumption) (k_flt : K .flt := by assumption) (k_act : K .act := by assumption) (k_cpg : K .cpg := by assumption) (k_keys : K .keys := by assumption) (k_pm : K .pm := by assumption) (k_stw : K .stw := by assumption) (k_twn : K .twn := by assumption) (k_tly : K .tly := by assumption) : Completes (execKeyExchangeTimeout p slot s) (fun t => t.Within K sB) := by
  unfold execKeyExchangeTimeout
  repeat' first
    | with_reducible refine completes_within _ ?_
    | with_reducible exact h
    | with_reducible assumption
    | with_reducible apply ok_within
    | with_reducible apply State.dropRanged_within
    | intro _
    | refine fst_within (by assumption) ?_
    | refine snd_within (by assumption) ?_
    | split
    | dsimp only


theorem execRegistrationTimeout_within {s : State} (h : s.Within K sB) (p : Fin 32) (slot : Fin 256) (k_words : K .words := by assumption) (k_ctrs : K .ctrs := by assumption) (k_flt : K .flt := by assumption) (k_act : K .act := by assumption) (k_cpg : K .cpg := by assumption) (k_keys : K .keys := by assumption) (k_pm : K .pm := by assumption) (k_stw : K .stw := by assumption) (k_twn : K .twn := by assumption) (k_tly : K .tly := by assumption) : Completes (execRegistrationTimeout p slot s) (fun t => t.Within K sB) := by
  unfold execRegistrationTimeout
  repeat' first
    | with_reducible refine completes_within _ ?_
    | with_reducible exact h
    | with_reducible assumption
    | with_reducible apply ok_within
    | with_reducible apply State.setSlot_within
    | with_reducible apply State.queuePloam_within
    | with_reducible apply State.dropRanged_within
    | intro _
    | refine fst_within (by assumption) ?_
    | refine snd_within (by assumption) ?_
    | split
    | dsimp only


theorem execLostWaitExpiry_within {s : State} (h : s.Within K sB) (p : Fin 32) (slot : Fin 256) (k_words : K .words := by assumption) (k_ctrs : K .ctrs := by assumption) (k_flt : K .flt := by assumption) (k_act : K .act := by assumption) (k_cpg : K .cpg := by assumption) (k_keys : K .keys := by assumption) (k_pm : K .pm := by assumption) (k_stw : K .stw := by assumption) (k_twn : K .twn := by assumption) (k_tly : K .tly := by assumption) : Completes (execLostWaitExpiry p slot s) (fun t => t.Within K sB) := by
  unfold execLostWaitExpiry
  repeat' first
    | with_reducible refine completes_within _ ?_
    | with_reducible exact h
    | with_reducible assumption
    | with_reducible apply ok_within
    | with_reducible apply State.freeSlot_within
    | intro _
    | refine fst_within (by assumption) ?_
    | refine snd_within (by assumption) ?_
    | split
    | dsimp only


theorem execRampStart_within {s : State} (h : s.Within K sB) (ag : Agent) (p : Fin 32) (k_words : K .words := by assumption) (k_ctrs : K .ctrs := by assumption) (k_free : K .free := by assumption) (k_flt : K .flt := by assumption) (k_act : K .act := by assumption) (k_cpg : K .cpg := by assumption) (k_keys : K .keys := by assumption) (k_pm : K .pm := by assumption) (k_stw : K .stw := by assumption) (k_twn : K .twn := by assumption) (k_tly : K .tly := by assumption) : Completes (execRampStart ag p s) (fun t => t.Within K sB) := by
  unfold execRampStart
  repeat' first
    | with_reducible refine completes_within _ ?_
    | with_reducible exact h
    | with_reducible assumption
    | with_reducible apply ok_within
    | with_reducible apply State.actWrite_within
    | intro _
    | refine fst_within (by assumption) ?_
    | refine snd_within (by assumption) ?_
    | split
    | dsimp only


theorem execRampStop_within {s : State} (h : s.Within K sB) (ag : Agent) (p : Fin 32) (k_words : K .words := by assumption) (k_ctrs : K .ctrs := by assumption) (k_free : K .free := by assumption) (k_flt : K .flt := by assumption) (k_act : K .act := by assumption) (k_cpg : K .cpg := by assumption) (k_keys : K .keys := by assumption) (k_pm : K .pm := by assumption) (k_stw : K .stw := by assumption) (k_twn : K .twn := by assumption) (k_tly : K .tly := by assumption) : Completes (execRampStop ag p s) (fun t => t.Within K sB) := by
  unfold execRampStop
  repeat' first
    | with_reducible refine completes_within _ ?_
    | with_reducible exact h
    | with_reducible assumption
    | with_reducible apply ok_within
    | with_reducible apply State.actWrite_within
    | intro _
    | refine fst_within (by assumption) ?_
    | refine snd_within (by assumption) ?_
    | split
    | dsimp only


theorem execDeactivate_within {s : State} (h : s.Within K sB) (ag : Agent) (p : Fin 32) (slot : Fin 256) (k_words : K .words := by assumption) (k_ctrs : K .ctrs := by assumption) (k_free : K .free := by assumption) (k_flt : K .flt := by assumption) (k_act : K .act := by assumption) (k_cpg : K .cpg := by assumption) (k_keys : K .keys := by assumption) (k_pm : K .pm := by assumption) (k_stw : K .stw := by assumption) (k_twn : K .twn := by assumption) (k_tly : K .tly := by assumption) : Completes (execDeactivate ag p slot s) (fun t => t.Within K sB) := by
  unfold execDeactivate
  repeat' first
    | with_reducible refine completes_within _ ?_
    | with_reducible exact h
    | with_reducible assumption
    | with_reducible apply ok_within
    | with_reducible apply State.actWrite_within
    | intro _
    | refine fst_within (by assumption) ?_
    | refine snd_within (by assumption) ?_
    | split
    | dsimp only


theorem execEnable_within {s : State} (h : s.Within K sB) (ag : Agent) (p : Fin 32) (slot : Fin 256) (k_words : K .words := by assumption) (k_ctrs : K .ctrs := by assumption) (k_free : K .free := by assumption) (k_flt : K .flt := by assumption) (k_act : K .act := by assumption) (k_cpg : K .cpg := by assumption) (k_keys : K .keys := by assumption) (k_pm : K .pm := by assumption) (k_stw : K .stw := by assumption) (k_twn : K .twn := by assumption) (k_tly : K .tly := by assumption) : Completes (execEnable ag p slot s) (fun t => t.Within K sB) := by
  unfold execEnable
  repeat' first
    | with_reducible refine completes_within _ ?_
    | with_reducible exact h
    | with_reducible assumption
    | with_reducible apply ok_within
    | with_reducible apply State.actWrite_within
    | intro _
    | refine fst_within (by assumption) ?_
    | refine snd_within (by assumption) ?_
    | split
    | dsimp only


theorem execDisable_within {s : State} (h : s.Within K sB) (ag : Agent) (p : Fin 32) (slot : Fin 256) (k_words : K .words := by assumption) (k_ctrs : K .ctrs := by assumption) (k_free : K .free := by assumption) (k_flt : K .flt := by assumption) (k_act : K .act := by assumption) (k_cpg : K .cpg := by assumption) (k_keys : K .keys := by assumption) (k_pm : K .pm := by assumption) (k_stw : K .stw := by assumption) (k_twn : K .twn := by assumption) (k_tly : K .tly := by assumption) : Completes (execDisable ag p slot s) (fun t => t.Within K sB) := by
  unfold execDisable
  repeat' first
    | with_reducible refine completes_within _ ?_
    | with_reducible exact h
    | with_reducible assumption
    | with_reducible apply ok_within
    | with_reducible apply State.actWrite_within
    | intro _
    | refine fst_within (by assumption) ?_
    | refine snd_within (by assumption) ?_
    | split
    | dsimp only


theorem execRampTimeout_within {s : State} (h : s.Within K sB) (p : Fin 32) (k_flt : K .flt := by assumption) (k_act : K .act := by assumption) (k_twn : K .twn := by assumption) : Completes (execRampTimeout p s) (fun t => t.Within K sB) := by
  unfold execRampTimeout
  repeat' first
    | with_reducible refine completes_within _ ?_
    | with_reducible exact h
    | with_reducible assumption
    | with_reducible apply ok_within
    | with_reducible apply State.leaveRamp_within
    | with_reducible apply State.raise_within
    | intro _
    | refine fst_within (by assumption) ?_
    | refine snd_within (by assumption) ?_
    | split
    | dsimp only


theorem execRogueHuntStart_within {s : State} (h : s.Within K sB) (p : Fin 32) (sd : Side) (k_ctrs : K .ctrs := by assumption) (k_flt : K .flt := by assumption) (k_act : K .act := by assumption) (k_twn : K .twn := by assumption) (k_tly : K .tly := by assumption) : Completes (execRogueHuntStart p sd s) (fun t => t.Within K sB) := by
  unfold execRogueHuntStart
  repeat' first
    | with_reducible refine completes_within _ ?_
    | with_reducible exact h
    | with_reducible assumption
    | with_reducible apply ok_within
    | with_reducible apply State.huntNext_within
    | intro _
    | refine fst_within (by assumption) ?_
    | refine snd_within (by assumption) ?_
    | split
    | dsimp only


theorem execRogueWatchEnd_within {s : State} (h : s.Within K sB) (p : Fin 32) (k_words : K .words := by assumption) (k_ctrs : K .ctrs := by assumption) (k_flt : K .flt := by assumption) (k_act : K .act := by assumption) (k_cpg : K .cpg := by assumption) (k_keys : K .keys := by assumption) (k_pm : K .pm := by assumption) (k_stw : K .stw := by assumption) (k_twn : K .twn := by assumption) (k_tly : K .tly := by assumption) : Completes (execRogueWatchEnd p s) (fun t => t.Within K sB) := by
  unfold execRogueWatchEnd
  repeat' first
    | with_reducible refine completes_within _ ?_
    | with_reducible exact h
    | with_reducible assumption
    | with_reducible apply ok_within
    | with_reducible apply State.setSlot_within
    | with_reducible apply State.disableSlot_within
    | with_reducible apply State.setTreeSt_within
    | with_reducible apply State.raise_within
    | with_reducible apply State.queuePloam_within
    | with_reducible apply State.freeSlot_within
    | with_reducible apply State.huntNext_within
    | intro _
    | refine fst_within (by assumption) ?_
    | refine snd_within (by assumption) ?_
    | split
    | dsimp only


theorem execMapLock_within {s : State} (h : s.Within K sB) (p : Fin 32) (sd : Side) (k_words : K .words := by assumption) (k_ctrs : K .ctrs := by assumption) (k_free : K .free := by assumption) (k_flt : K .flt := by assumption) (k_pon : K .pon := by assumption) (k_act : K .act := by assumption) (k_whf : K .whf := by assumption) (k_pm : K .pm := by assumption) (k_twn : K .twn := by assumption) (k_tly : K .tly := by assumption) : Completes (execMapLock p sd s) (fun t => t.Within K sB) := by
  unfold execMapLock
  repeat' first
    | with_reducible refine completes_within _ ?_
    | with_reducible exact h
    | with_reducible assumption
    | with_reducible apply ok_within
    | with_reducible apply State.lock_within
    | intro _
    | refine fst_within (by assumption) ?_
    | refine snd_within (by assumption) ?_
    | split
    | dsimp only


theorem execFrameTick_within {s : State} (h : s.Within K sB) (p : Fin 32) (idle50 idle10 : Nat) (k_words : K .words := by assumption) (k_ctrs : K .ctrs := by assumption) (k_free : K .free := by assumption) (k_flt : K .flt := by assumption) (k_pon : K .pon := by assumption) (k_act : K .act := by assumption) (k_whf : K .whf := by assumption) (k_cpg : K .cpg := by assumption) (k_keys : K .keys := by assumption) (k_pm : K .pm := by assumption) (k_stw : K .stw := by assumption) (k_twn : K .twn := by assumption) (k_hrl : K .hrl := by assumption) (k_tly : K .tly := by assumption) : Completes (execFrameTick p idle50 idle10 s) (fun t => t.Within K sB) := by
  unfold execFrameTick
  repeat' first
    | with_reducible refine completes_within _ ?_
    | with_reducible exact h
    | with_reducible assumption
    | with_reducible apply ok_within
    | with_reducible apply State.loseLocked_within
    | with_reducible apply State.lockAtTick_within
    | with_reducible apply State.setPort_within
    | with_reducible apply State.autoPhase_within
    | with_reducible apply State.swapAtTick_within
    | with_reducible apply State.keysAtTick_within
    | with_reducible apply State.tickSide_within
    | with_reducible apply State.intervalAtTick_within
    | with_reducible apply State.framesAtTick_within
    | with_reducible apply State.setTwinTree_within
    | with_reducible apply State.queueHeld_within
    | with_reducible apply State.rampCheck_within
    | intro _
    | refine fst_within (by assumption) ?_
    | refine snd_within (by assumption) ?_
    | split
    | dsimp only


theorem execHeartbeatLoss_within {s : State} (h : s.Within K sB) (k_words : K .words := by assumption) (k_ctrs : K .ctrs := by assumption) (k_flt : K .flt := by assumption) (k_pon : K .pon := by assumption) (k_act : K .act := by assumption) (k_cpg : K .cpg := by assumption) (k_keys : K .keys := by assumption) (k_pm : K .pm := by assumption) (k_stw : K .stw := by assumption) (k_twn : K .twn := by assumption) (k_hrl : K .hrl := by assumption) (k_tly : K .tly := by assumption) (k_hst : K .hst := by assumption) : Completes (execHeartbeatLoss s) (fun t => t.Within K sB) := by
  unfold execHeartbeatLoss
  repeat' first
    | with_reducible refine completes_within _ ?_
    | with_reducible exact h
    | with_reducible assumption
    | simp only [↓within_twn k_twn]
    | with_reducible apply ok_within
    | with_reducible apply State.lossTrigger_within
    | with_reducible apply State.unreachable_within
    | with_reducible apply State.redecide_within
    | intro _
    | refine fst_within (by assumption) ?_
    | refine snd_within (by assumption) ?_
    | split
    | dsimp only


theorem execTakeoverWarm_within {s : State} (h : s.Within K sB) (k_words : K .words := by assumption) (k_ctrs : K .ctrs := by assumption) (k_flt : K .flt := by assumption) (k_pon : K .pon := by assumption) (k_act : K .act := by assumption) (k_cpg : K .cpg := by assumption) (k_keys : K .keys := by assumption) (k_pm : K .pm := by assumption) (k_stw : K .stw := by assumption) (k_twn : K .twn := by assumption) (k_hrl : K .hrl := by assumption) (k_tly : K .tly := by assumption) : Completes (execTakeoverWarm s) (fun t => t.Within K sB) := by
  unfold execTakeoverWarm
  repeat' first
    | with_reducible refine completes_within _ ?_
    | with_reducible exact h
    | with_reducible assumption
    | simp only [↓within_twn k_twn]
    | with_reducible apply ok_within
    | with_reducible apply State.takeWarm_within
    | with_reducible apply State.takeCold_within
    | with_reducible apply foldl_within
    | intro _
    | refine fst_within (by assumption) ?_
    | refine snd_within (by assumption) ?_
    | split
    | dsimp only


theorem execPartnerDarkChange_within {s : State} (h : s.Within K sB) (d : Fin 3) (k_words : K .words := by assumption) (k_ctrs : K .ctrs := by assumption) (k_flt : K .flt := by assumption) (k_pon : K .pon := by assumption) (k_act : K .act := by assumption) (k_cpg : K .cpg := by assumption) (k_keys : K .keys := by assumption) (k_pm : K .pm := by assumption) (k_stw : K .stw := by assumption) (k_twn : K .twn := by assumption) (k_hrl : K .hrl := by assumption) (k_tly : K .tly := by assumption) : Completes (execPartnerDarkChange d s) (fun t => t.Within K sB) := by
  unfold execPartnerDarkChange
  repeat' first
    | with_reducible refine completes_within _ ?_
    | with_reducible exact h
    | with_reducible assumption
    | simp only [↓within_twn k_twn]
    | with_reducible apply State.wr_within
    | with_reducible apply State.redecide_within
    | with_reducible apply ok_within
    | with_reducible apply State.split_within
    | with_reducible apply State.lossTrigger_within
    | with_reducible apply State.coldPart_within
    | intro _
    | refine fst_within (by assumption) ?_
    | refine snd_within (by assumption) ?_
    | split
    | dsimp only


theorem execDarkStuckTimeout_within {s : State} (h : s.Within K sB) (k_words : K .words := by assumption) (k_ctrs : K .ctrs := by assumption) (k_flt : K .flt := by assumption) (k_pon : K .pon := by assumption) (k_act : K .act := by assumption) (k_cpg : K .cpg := by assumption) (k_keys : K .keys := by assumption) (k_pm : K .pm := by assumption) (k_stw : K .stw := by assumption) (k_twn : K .twn := by assumption) (k_hrl : K .hrl := by assumption) (k_tly : K .tly := by assumption) : Completes (execDarkStuckTimeout s) (fun t => t.Within K sB) := by
  unfold execDarkStuckTimeout
  repeat' first
    | with_reducible refine completes_within _ ?_
    | with_reducible exact h
    | with_reducible assumption
    | simp only [↓within_twn k_twn]
    | with_reducible apply ok_within
    | with_reducible apply State.inc_within
    | with_reducible apply State.coldPart_within
    | intro _
    | refine fst_within (by assumption) ?_
    | refine snd_within (by assumption) ?_
    | split
    | dsimp only


theorem execLivenessLoss_within {s : State} (h : s.Within K sB) (k_twn : K .twn := by assumption) : Completes (execLivenessLoss s) (fun t => t.Within K sB) := by
  unfold execLivenessLoss
  repeat' first
    | with_reducible refine completes_within _ ?_
    | with_reducible exact h
    | with_reducible assumption
    | simp only [↓within_twn k_twn]
    | with_reducible apply ok_within
    | intro _
    | refine fst_within (by assumption) ?_
    | refine snd_within (by assumption) ?_
    | split
    | dsimp only


theorem execUsLossOnset_within {s : State} (h : s.Within K sB) (p : Fin 32) (sd : Side) (k_words : K .words := by assumption) (k_ctrs : K .ctrs := by assumption) (k_flt : K .flt := by assumption) (k_pm : K .pm := by assumption) (k_twn : K .twn := by assumption) (k_tly : K .tly := by assumption) : Completes (execUsLossOnset p sd s) (fun t => t.Within K sB) := by
  unfold execUsLossOnset
  repeat' first
    | with_reducible refine completes_within _ ?_
    | with_reducible exact h
    | with_reducible assumption
    | with_reducible apply ok_within
    | with_reducible apply State.wr_within
    | with_reducible apply State.onset_within
    | with_reducible apply State.pmMod_within
    | with_reducible apply State.seen_within
    | with_reducible apply State.ownerTrigger_within
    | intro _
    | refine fst_within (by assumption) ?_
    | refine snd_within (by assumption) ?_
    | split
    | dsimp only


theorem execOffWaitExpiry_within {s : State} (h : s.Within K sB) (k_words : K .words := by assumption) (k_ctrs : K .ctrs := by assumption) (k_flt : K .flt := by assumption) (k_cpg : K .cpg := by assumption) (k_twn : K .twn := by assumption) (k_tly : K .tly := by assumption) : Completes (execOffWaitExpiry s) (fun t => t.Within K sB) := by
  unfold execOffWaitExpiry
  repeat' first
    | with_reducible refine completes_within _ ?_
    | with_reducible exact h
    | with_reducible assumption
    | simp only [↓within_twn k_twn]
    | with_reducible apply ok_within
    | with_reducible apply State.leaveTree_within
    | with_reducible apply State.inc_within
    | with_reducible apply State.twinSend_within
    | with_reducible apply foldl_within
    | intro _
    | refine fst_within (by assumption) ?_
    | refine snd_within (by assumption) ?_
    | split
    | dsimp only


theorem execReleaseMsg_within {s : State} (h : s.Within K sB) (seq : BitVec 32) (trees : BitVec 32) (num : Fin 3) (force : Bool) (k_words : K .words := by assumption) (k_ctrs : K .ctrs := by assumption) (k_flt : K .flt := by assumption) (k_pon : K .pon := by assumption) (k_act : K .act := by assumption) (k_cpg : K .cpg := by assumption) (k_keys : K .keys := by assumption) (k_pm : K .pm := by assumption) (k_stw : K .stw := by assumption) (k_twn : K .twn := by assumption) (k_hrl : K .hrl := by assumption) (k_tly : K .tly := by assumption) (k_hst : K .hst := by assumption) : Completes (execReleaseMsg seq trees num force s) (fun t => t.Within K sB) := by
  unfold execReleaseMsg
  repeat' first
    | with_reducible refine completes_within _ ?_
    | with_reducible exact h
    | with_reducible assumption
    | simp only [↓within_twn k_twn]
    | with_reducible apply ok_within
    | with_reducible apply State.takeWarm_within
    | with_reducible apply State.takeCold_within
    | with_reducible apply State.twinSend_within
    | with_reducible apply State.twnDone_within
    | intro _
    | refine fst_within (by assumption) ?_
    | refine snd_within (by assumption) ?_
    | split
    | dsimp only


theorem execTakenMsg_within {s : State} (h : s.Within K sB) (trees : BitVec 32) (k_words : K .words := by assumption) (k_twn : K .twn := by assumption) (k_hst : K .hst := by assumption) : Completes (execTakenMsg trees s) (fun t => t.Within K sB) := by
  unfold execTakenMsg
  repeat' first
    | with_reducible refine completes_within _ ?_
    | with_reducible exact h
    | with_reducible assumption
    | with_reducible apply ok_within
    | with_reducible apply State.setTwinTree_within
    | with_reducible apply State.endRelease_within
    | with_reducible apply foldl_within
    | intro _
    | refine fst_within (by assumption) ?_
    | refine snd_within (by assumption) ?_
    | split
    | dsimp only


theorem execReleaseFail_within {s : State} (h : s.Within K sB) (k_words : K .words := by assumption) (k_flt : K .flt := by assumption) (k_twn : K .twn := by assumption) (k_hst : K .hst := by assumption) : Completes (execReleaseFail s) (fun t => t.Within K sB) := by
  unfold execReleaseFail
  repeat' first
    | with_reducible refine completes_within _ ?_
    | with_reducible exact h
    | with_reducible assumption
    | with_reducible apply ok_within
    | with_reducible apply State.setOwn_within
    | with_reducible apply State.endRelease_within
    | with_reducible apply State.raise_within
    | with_reducible apply foldl_within
    | intro _
    | refine fst_within (by assumption) ?_
    | refine snd_within (by assumption) ?_
    | split
    | dsimp only


theorem execRequestMsg_within {s : State} (h : s.Within K sB) (resend : Option (Fin 16 × Fin 32)) (trees : BitVec 32) (k_twn : K .twn := by assumption) : Completes (execRequestMsg resend trees s) (fun t => t.Within K sB) := by
  unfold execRequestMsg
  repeat' first
    | with_reducible refine completes_within _ ?_
    | with_reducible exact h
    | with_reducible assumption
    | with_reducible apply ok_within
    | with_reducible apply State.mirror_within
    | with_reducible apply State.release_within
    | intro _
    | refine fst_within (by assumption) ?_
    | refine snd_within (by assumption) ?_
    | split
    | dsimp only


theorem execFaultMsg_within {s : State} (h : s.Within K sB) (fatal : Bool) (k_words : K .words := by assumption) (k_ctrs : K .ctrs := by assumption) (k_flt : K .flt := by assumption) (k_pon : K .pon := by assumption) (k_act : K .act := by assumption) (k_cpg : K .cpg := by assumption) (k_keys : K .keys := by assumption) (k_pm : K .pm := by assumption) (k_stw : K .stw := by assumption) (k_twn : K .twn := by assumption) (k_hrl : K .hrl := by assumption) (k_tly : K .tly := by assumption) : Completes (execFaultMsg fatal s) (fun t => t.Within K sB) := by
  unfold execFaultMsg
  repeat' first
    | with_reducible refine completes_within _ ?_
    | with_reducible exact h
    | with_reducible assumption
    | with_reducible apply ok_within
    | with_reducible apply State.wr_within
    | with_reducible apply State.trigger_within
    | intro _
    | refine fst_within (by assumption) ?_
    | refine snd_within (by assumption) ?_
    | split
    | dsimp only


theorem execHeartbeatSend_within {s : State} (h : s.Within K sB) (k_twn : K .twn := by assumption) : Completes (execHeartbeatSend s) (fun t => t.Within K sB) := by
  unfold execHeartbeatSend
  repeat' first
    | with_reducible refine completes_within _ ?_
    | with_reducible exact h
    | with_reducible assumption
    | with_reducible apply ok_within
    | with_reducible apply State.twinSend_within
    | intro _
    | refine fst_within (by assumption) ?_
    | refine snd_within (by assumption) ?_
    | split
    | dsimp only


theorem execHeartbeat_within {s : State} (h : s.Within K sB) (h : Hb) (times : Option (Int × Int × Int × Int)) (later : Bool) (k_words : K .words := by assumption) (k_ctrs : K .ctrs := by assumption) (k_flt : K .flt := by assumption) (k_pon : K .pon := by assumption) (k_act : K .act := by assumption) (k_cpg : K .cpg := by assumption) (k_keys : K .keys := by assumption) (k_pm : K .pm := by assumption) (k_stw : K .stw := by assumption) (k_twn : K .twn := by assumption) (k_hrl : K .hrl := by assumption) (k_tly : K .tly := by assumption) (k_hst : K .hst := by assumption) : Completes (execHeartbeat h times later s) (fun t => t.Within K sB) := by
  unfold execHeartbeat
  repeat' first
    | with_reducible refine completes_within _ ?_
    | with_reducible exact h
    | with_reducible assumption
    | simp only [↓within_twn k_twn]
    | with_reducible apply State.inc_within
    | with_reducible apply State.wr_within
    | with_reducible apply State.tauSample_within
    | with_reducible apply State.fresh_within
    | with_reducible apply State.raise_within
    | with_reducible apply State.split_within
    | with_reducible apply ok_within
    | with_reducible apply State.coverBack_within
    | with_reducible apply State.redecide_within
    | intro _
    | refine fst_within (by assumption) ?_
    | refine snd_within (by assumption) ?_
    | split
    | dsimp only


theorem execMapMsg_within {s : State} (h : s.Within K sB) (p : Fin 32) (sd : Side) (seq : BitVec 32) (m : BwMap) (k_ctrs : K .ctrs := by assumption) (k_flt : K .flt := by assumption) (k_whf : K .whf := by assumption) (k_twn : K .twn := by assumption) (k_tly : K .tly := by assumption) : Completes (execMapMsg p sd seq m s) (fun t => t.Within K sB) := by
  unfold execMapMsg
  repeat' first
    | with_reducible refine completes_within _ ?_
    | with_reducible exact h
    | with_reducible assumption
    | simp only [↓within_twn k_twn]
    | with_reducible apply ok_within
    | with_reducible apply State.mirrored_within
    | with_reducible apply State.inflight_within
    | intro _
    | refine fst_within (by assumption) ?_
    | refine snd_within (by assumption) ?_
    | split
    | dsimp only


theorem execDbaState_within {s : State} (h : s.Within K sB) (p : Fin 32) (seq : BitVec 32) (sfc : BitVec 51) (as : List (Fin 1024 × AllocRt)) (k_ctrs : K .ctrs := by assumption) (k_flt : K .flt := by assumption) (k_whf : K .whf := by assumption) (k_twn : K .twn := by assumption) (k_tly : K .tly := by assumption) : Completes (execDbaState p seq sfc as s) (fun t => t.Within K sB) := by
  unfold execDbaState
  repeat' first
    | with_reducible refine completes_within _ ?_
    | with_reducible exact h
    | with_reducible assumption
    | with_reducible apply ok_within
    | with_reducible apply State.mirrored_within
    | with_reducible apply State.setAlloc_within
    | with_reducible apply foldl_within
    | intro _
    | refine fst_within (by assumption) ?_
    | refine snd_within (by assumption) ?_
    | split
    | dsimp only


theorem execPloamQ_within {s : State} (h : s.Within K sB) (p : Fin 32) (sd : Side) (seq : BitVec 32) (sfc : BitVec 51) (enter leave : List Ploam) (waits : List AckWait) (k_ctrs : K .ctrs := by assumption) (k_flt : K .flt := by assumption) (k_act : K .act := by assumption) (k_twn : K .twn := by assumption) (k_tly : K .tly := by assumption) : Completes (execPloamQ p sd seq sfc enter leave waits s) (fun t => t.Within K sB) := by
  unfold execPloamQ
  repeat' first
    | with_reducible refine completes_within _ ?_
    | with_reducible exact h
    | with_reducible assumption
    | simp only [↓within_twn k_twn]
    | with_reducible apply ok_within
    | with_reducible apply State.mirrored_within
    | with_reducible apply State.setPlq_within
    | with_reducible apply foldl_within
    | intro _
    | refine fst_within (by assumption) ?_
    | refine snd_within (by assumption) ?_
    | split
    | dsimp only


theorem execSlotMsg_within {s : State} (h : s.Within K sB) (p : Fin 32) (seq : BitVec 32) (slot : Fin 256) (x : Slot) (ramp : Bool) (lfsr50 lfsr10 : BitVec 16) (admitted : Nat) (k_words : K .words := by assumption) (k_ctrs : K .ctrs := by assumption) (k_flt : K .flt := by assumption) (k_act : K .act := by assumption) (k_cpg : K .cpg := by assumption) (k_pm : K .pm := by assumption) (k_stw : K .stw := by assumption) (k_twn : K .twn := by assumption) (k_tly : K .tly := by assumption) : Completes (execSlotMsg p seq slot x ramp lfsr50 lfsr10 admitted s) (fun t => t.Within K sB) := by
  unfold execSlotMsg
  repeat' first
    | with_reducible refine completes_within _ ?_
    | with_reducible exact h
    | with_reducible assumption
    | with_reducible apply ok_within
    | with_reducible apply State.mirrored_within
    | with_reducible apply State.setTreeSt_within
    | with_reducible apply State.setDisc_within
    | with_reducible apply State.setSlot_within
    | with_reducible apply State.provisionShadow_within
    | with_reducible apply State.unprovision_within
    | intro _
    | refine fst_within (by assumption) ?_
    | refine snd_within (by assumption) ?_
    | split
    | dsimp only


theorem execKeyMsg_within {s : State} (h : s.Within K sB) (p : Fin 32) (seq : BitVec 32) (k : Fin 512) (r : Root) (k_ctrs : K .ctrs := by assumption) (k_flt : K .flt := by assumption) (k_keys : K .keys := by assumption) (k_twn : K .twn := by assumption) (k_tly : K .tly := by assumption) : Completes (execKeyMsg p seq k r s) (fun t => t.Within K sB) := by
  unfold execKeyMsg
  repeat' first
    | with_reducible refine completes_within _ ?_
    | with_reducible exact h
    | with_reducible assumption
    | with_reducible apply ok_within
    | with_reducible apply State.mirrored_within
    | with_reducible apply State.setUsage_within
    | with_reducible apply State.setRoot_within
    | intro _
    | refine fst_within (by assumption) ?_
    | refine snd_within (by assumption) ?_
    | split
    | dsimp only


theorem execEnqueue_within {s : State} (h : s.Within K sB) (k_words : K .words := by assumption) (k_ctrs : K .ctrs := by assumption) (k_flt : K .flt := by assumption) (k_cpg : K .cpg := by assumption) (k_fwd : K .fwd := by assumption) (k_tly : K .tly := by assumption) : Completes (execEnqueue s) (fun t => t.Within K sB) := by
  unfold execEnqueue
  repeat' first
    | with_reducible refine completes_within _ ?_
    | with_reducible exact h
    | with_reducible assumption
    | simp only [↓within_fwd k_fwd]
    | with_reducible apply ok_within
    | with_reducible apply State.proxyChecks_within
    | with_reducible apply State.enqueueColored_within
    | with_reducible apply State.enqueue_within
    | with_reducible apply State.unref_within
    | with_reducible apply State.epochUnref_within
    | intro _
    | refine fst_within (by assumption) ?_
    | refine snd_within (by assumption) ?_
    | split
    | dsimp only


theorem execPacket_within {s : State} (h : s.Within K sB) (n : Fin 16) (bytes : List Byte) (full : Bool) (k_words : K .words := by assumption) (k_ctrs : K .ctrs := by assumption) (k_free : K .free := by assumption) (k_flt : K .flt := by assumption) (k_cpg : K .cpg := by assumption) (k_fwd : K .fwd := by assumption) (k_tly : K .tly := by assumption) : Completes (execPacket n bytes full s) (fun t => t.Within K sB) := by
  unfold execPacket
  repeat' first
    | with_reducible refine completes_within _ ?_
    | with_reducible exact h
    | with_reducible assumption
    | with_reducible apply State.drop_within
    | with_reducible apply ok_within
    | with_reducible apply State.inc_within
    | with_reducible apply State.overrun_within
    | with_reducible apply State.newBuf_within
    | with_reducible apply State.noBuf_within
    | with_reducible apply State.epochRef_within
    | with_reducible apply State.deliver_within
    | with_reducible apply State.unref_within
    | with_reducible apply State.sendCarrier_within
    | with_reducible apply State.epochUnref_within
    | intro _
    | refine fst_within (by assumption) ?_
    | refine snd_within (by assumption) ?_
    | split
    | dsimp only


theorem execHelloSend_within {s : State} (h : s.Within K sB) (k_shl : K .shl := by assumption) : Completes (execHelloSend s) (fun t => t.Within K sB) := by
  unfold execHelloSend
  repeat' first
    | with_reducible refine completes_within _ ?_
    | with_reducible exact h
    | with_reducible assumption
    | with_reducible apply ok_within
    | with_reducible apply State.flood_within
    | intro _
    | refine fst_within (by assumption) ?_
    | refine snd_within (by assumption) ?_
    | split
    | dsimp only


theorem execHello_within {s : State} (h : s.Within K sB) (n : Fin 16) (addr : BitVec 8) (lane : Fin 16) (serial : BitVec 64) (k_words : K .words := by assumption) (k_ctrs : K .ctrs := by assumption) (k_shl : K .shl := by assumption) (k_tly : K .tly := by assumption) : Completes (execHello n addr lane serial s) (fun t => t.Within K sB) := by
  unfold execHello
  repeat' first
    | with_reducible refine completes_within _ ?_
    | with_reducible exact h
    | with_reducible assumption
    | simp only [↓within_shl k_shl]
    | with_reducible apply ok_within
    | with_reducible apply State.markNbr_within
    | with_reducible apply State.originate_within
    | intro _
    | refine fst_within (by assumption) ?_
    | refine snd_within (by assumption) ?_
    | split
    | dsimp only


theorem execNeighbourTimeout_within {s : State} (h : s.Within K sB) (n : Fin 16) (k_words : K .words := by assumption) (k_ctrs : K .ctrs := by assumption) (k_shl : K .shl := by assumption) (k_tly : K .tly := by assumption) : Completes (execNeighbourTimeout n s) (fun t => t.Within K sB) := by
  unfold execNeighbourTimeout
  repeat' first
    | with_reducible refine completes_within _ ?_
    | with_reducible exact h
    | with_reducible assumption
    | with_reducible apply ok_within
    | with_reducible apply State.loseNbr_within
    | intro _
    | refine fst_within (by assumption) ?_
    | refine snd_within (by assumption) ?_
    | split
    | dsimp only


theorem execLsa_within {s : State} (h : s.Within K sB) (n : Fin 16) (l : Lsa) (k_words : K .words := by assumption) (k_ctrs : K .ctrs := by assumption) (k_flt : K .flt := by assumption) (k_shl : K .shl := by assumption) (k_tly : K .tly := by assumption) : Completes (execLsa n l s) (fun t => t.Within K sB) := by
  unfold execLsa
  repeat' first
    | with_reducible refine completes_within _ ?_
    | with_reducible exact h
    | with_reducible assumption
    | with_reducible apply ok_within
    | with_reducible apply State.setLsa_within
    | with_reducible apply State.inc_within
    | with_reducible apply State.flood_within
    | with_reducible apply State.conflict_within
    | intro _
    | refine fst_within (by assumption) ?_
    | refine snd_within (by assumption) ?_
    | split
    | dsimp only


theorem execLsaRefresh_within {s : State} (h : s.Within K sB) (k_words : K .words := by assumption) (k_ctrs : K .ctrs := by assumption) (k_shl : K .shl := by assumption) (k_tly : K .tly := by assumption) : Completes (execLsaRefresh s) (fun t => t.Within K sB) := by
  unfold execLsaRefresh
  repeat' first
    | with_reducible refine completes_within _ ?_
    | with_reducible exact h
    | with_reducible assumption
    | with_reducible apply ok_within
    | with_reducible apply State.originate_within
    | intro _
    | refine fst_within (by assumption) ?_
    | refine snd_within (by assumption) ?_
    | split
    | dsimp only


theorem execLsaExpiry_within {s : State} (h : s.Within K sB) (serial : BitVec 64) (k_words : K .words := by assumption) (k_shl : K .shl := by assumption) : Completes (execLsaExpiry serial s) (fun t => t.Within K sB) := by
  unfold execLsaExpiry
  repeat' first
    | with_reducible refine completes_within _ ?_
    | with_reducible exact h
    | with_reducible assumption
    | with_reducible apply ok_within
    | with_reducible apply State.setLsa_within
    | intro _
    | refine fst_within (by assumption) ?_
    | refine snd_within (by assumption) ?_
    | split
    | dsimp only


theorem execAddressSettle_within {s : State} (h : s.Within K sB) (k_words : K .words := by assumption) (k_ctrs : K .ctrs := by assumption) (k_flt : K .flt := by assumption) (k_shl : K .shl := by assumption) (k_tly : K .tly := by assumption) : Completes (execAddressSettle s) (fun t => t.Within K sB) := by
  unfold execAddressSettle
  repeat' first
    | with_reducible refine completes_within _ ?_
    | with_reducible exact h
    | with_reducible assumption
    | with_reducible apply ok_within
    | with_reducible apply State.setAddr_within
    | with_reducible apply State.originate_within
    | with_reducible apply State.noAddr_within
    | intro _
    | refine fst_within (by assumption) ?_
    | refine snd_within (by assumption) ?_
    | split
    | dsimp only


theorem execRouteRecompute_within {s : State} (h : s.Within K sB) (k_words : K .words := by assumption) (k_ctrs : K .ctrs := by assumption) (k_flt : K .flt := by assumption) (k_tly : K .tly := by assumption) : Completes (execRouteRecompute s) (fun t => t.Within K sB) := by
  unfold execRouteRecompute
  repeat' first
    | with_reducible refine completes_within _ ?_
    | with_reducible exact h
    | with_reducible assumption
    | with_reducible apply ok_within
    | with_reducible apply State.recompute_within
    | intro _
    | refine fst_within (by assumption) ?_
    | refine snd_within (by assumption) ?_
    | split
    | dsimp only


theorem execMasterLostTimeout_within {s : State} (h : s.Within K sB) (k_words : K .words := by assumption) (k_flt : K .flt := by assumption) : Completes (execMasterLostTimeout s) (fun t => t.Within K sB) := by
  unfold execMasterLostTimeout
  repeat' first
    | with_reducible refine completes_within _ ?_
    | with_reducible exact h
    | with_reducible assumption
    | with_reducible apply ok_within
    | with_reducible apply State.wr_within
    | with_reducible apply State.onset_within
    | intro _
    | refine fst_within (by assumption) ?_
    | refine snd_within (by assumption) ?_
    | split
    | dsimp only


theorem execBindingWrite_within {s : State} (h : s.Within K sB) (ag : Agent) (q : Fin 8192) (v : Word) (k_words : K .words := by assumption) (k_ctrs : K .ctrs := by assumption) (k_flt : K .flt := by assumption) (k_tly : K .tly := by assumption) : Completes (execBindingWrite ag q v s) (fun t => t.Within K sB) := by
  unfold execBindingWrite
  repeat' first
    | with_reducible refine completes_within _ ?_
    | with_reducible exact h
    | with_reducible assumption
    | with_reducible apply ok_within
    | with_reducible apply State.winGate_within
    | with_reducible apply State.deny_within
    | with_reducible apply State.putWord_within
    | intro _
    | refine fst_within (by assumption) ?_
    | refine snd_within (by assumption) ?_
    | split
    | dsimp only


theorem execCapRx_within {s : State} (h : s.Within K sB) (n : Fin 16) (c : Cap) (k_words : K .words := by assumption) (k_ctrs : K .ctrs := by assumption) (k_free : K .free := by assumption) (k_flt : K .flt := by assumption) (k_cpg : K .cpg := by assumption) (k_keys : K .keys := by assumption) (k_twn : K .twn := by assumption) (k_shl : K .shl := by assumption) (k_tly : K .tly := by assumption) : Completes (execCapRx n c s) (fun t => t.Within K sB) := by
  unfold execCapRx
  repeat' first
    | with_reducible refine completes_within _ ?_
    | with_reducible exact h
    | with_reducible assumption
    | with_reducible apply ok_within
    | with_reducible apply State.setLane_within
    | with_reducible apply State.wr_within
    | with_reducible apply State.raise_within
    | with_reducible apply State.linkCap_within
    | with_reducible apply State.enterActive_within
    | with_reducible apply State.toExchange_within
    | with_reducible apply State.offerSeal_within
    | intro _
    | refine fst_within (by assumption) ?_
    | refine snd_within (by assumption) ?_
    | split
    | dsimp only


theorem execSessOffer_within {s : State} (h : s.Within K sB) (n : Fin 16) (nonce : BitVec 64) (k_free : K .free := by assumption) (k_shl : K .shl := by assumption) : Completes (execSessOffer n nonce s) (fun t => t.Within K sB) := by
  unfold execSessOffer
  repeat' first
    | with_reducible refine completes_within _ ?_
    | with_reducible exact h
    | with_reducible assumption
    | with_reducible apply ok_within
    | with_reducible apply State.freshNonce_within
    | with_reducible apply State.setLane_within
    | with_reducible apply State.offer_within
    | with_reducible apply State.linkCtl_within
    | with_reducible apply State.answer_within
    | intro _
    | refine fst_within (by assumption) ?_
    | refine snd_within (by assumption) ?_
    | split
    | dsimp only


theorem execSessAnswer_within {s : State} (h : s.Within K sB) (n : Fin 16) (nonce : BitVec 64) (k_words : K .words := by assumption) (k_ctrs : K .ctrs := by assumption) (k_keys : K .keys := by assumption) (k_shl : K .shl := by assumption) (k_tly : K .tly := by assumption) : Completes (execSessAnswer n nonce s) (fun t => t.Within K sB) := by
  unfold execSessAnswer
  repeat' first
    | with_reducible refine completes_within _ ?_
    | with_reducible exact h
    | with_reducible assumption
    | with_reducible apply ok_within
    | with_reducible apply State.offer_within
    | with_reducible apply State.newSession_within
    | intro _
    | refine fst_within (by assumption) ?_
    | refine snd_within (by assumption) ?_
    | split
    | dsimp only


theorem execSessOfferTimeout_within {s : State} (h : s.Within K sB) (n : Fin 16) (k_words : K .words := by assumption) (k_ctrs : K .ctrs := by assumption) (k_free : K .free := by assumption) (k_flt : K .flt := by assumption) (k_cpg : K .cpg := by assumption) (k_twn : K .twn := by assumption) (k_shl : K .shl := by assumption) (k_tly : K .tly := by assumption) : Completes (execSessOfferTimeout n s) (fun t => t.Within K sB) := by
  unfold execSessOfferTimeout
  repeat' first
    | with_reducible refine completes_within _ ?_
    | with_reducible exact h
    | with_reducible assumption
    | with_reducible apply ok_within
    | with_reducible apply State.offer_within
    | with_reducible apply State.setLane_within
    | with_reducible apply State.linkCtl_within
    | with_reducible apply State.toExchange_within
    | intro _
    | refine fst_within (by assumption) ?_
    | refine snd_within (by assumption) ?_
    | split
    | dsimp only


theorem execLaneEnWrite_within {s : State} (h : s.Within K sB) (ag : Agent) (n : Fin 16) (v : Word) (k_words : K .words := by assumption) (k_ctrs : K .ctrs := by assumption) (k_free : K .free := by assumption) (k_flt : K .flt := by assumption) (k_cpg : K .cpg := by assumption) (k_twn : K .twn := by assumption) (k_shl : K .shl := by assumption) (k_tly : K .tly := by assumption) : Completes (execLaneEnWrite ag n v s) (fun t => t.Within K sB) := by
  unfold execLaneEnWrite
  repeat' first
    | with_reducible refine completes_within _ ?_
    | with_reducible exact h
    | with_reducible assumption
    | with_reducible apply ok_within
    | with_reducible apply State.laneCfgWrite_within
    | intro _
    | refine fst_within (by assumption) ?_
    | refine snd_within (by assumption) ?_
    | split
    | dsimp only


theorem execShasolRetrain_within {s : State} (h : s.Within K sB) (ag : Agent) (n : Fin 16) (v : Word) (k_words : K .words := by assumption) (k_ctrs : K .ctrs := by assumption) (k_free : K .free := by assumption) (k_flt : K .flt := by assumption) (k_cpg : K .cpg := by assumption) (k_twn : K .twn := by assumption) (k_shl : K .shl := by assumption) (k_tly : K .tly := by assumption) : Completes (execShasolRetrain ag n v s) (fun t => t.Within K sB) := by
  unfold execShasolRetrain
  repeat' first
    | with_reducible refine completes_within _ ?_
    | with_reducible exact h
    | with_reducible assumption
    | with_reducible apply ok_within
    | with_reducible apply State.laneCfgWrite_within
    | intro _
    | refine fst_within (by assumption) ?_
    | refine snd_within (by assumption) ?_
    | split
    | dsimp only


theorem execRxDetectPulse_within {s : State} (h : s.Within K sB) (n : Fin 16) (found : Bool) (k_words : K .words := by assumption) (k_shl : K .shl := by assumption) : Completes (execRxDetectPulse n found s) (fun t => t.Within K sB) := by
  unfold execRxDetectPulse
  repeat' first
    | with_reducible refine completes_within _ ?_
    | with_reducible exact h
    | with_reducible assumption
    | with_reducible apply ok_within
    | with_reducible apply State.setLane_within
    | with_reducible apply State.setTaps_within
    | intro _
    | refine fst_within (by assumption) ?_
    | refine snd_within (by assumption) ?_
    | split
    | dsimp only


theorem execRxEnergy_within {s : State} (h : s.Within K sB) (n : Fin 16) (k_words : K .words := by assumption) (k_ctrs : K .ctrs := by assumption) (k_flt : K .flt := by assumption) (k_cpg : K .cpg := by assumption) (k_twn : K .twn := by assumption) (k_shl : K .shl := by assumption) (k_tly : K .tly := by assumption) : Completes (execRxEnergy n s) (fun t => t.Within K sB) := by
  unfold execRxEnergy
  repeat' first
    | with_reducible refine completes_within _ ?_
    | with_reducible exact h
    | with_reducible assumption
    | with_reducible apply ok_within
    | with_reducible apply State.toTrain_within
    | intro _
    | refine fst_within (by assumption) ?_
    | refine snd_within (by assumption) ?_
    | split
    | dsimp only


theorem execLaneEnergyLoss_within {s : State} (h : s.Within K sB) (n : Fin 16) (k_words : K .words := by assumption) (k_ctrs : K .ctrs := by assumption) (k_flt : K .flt := by assumption) (k_cpg : K .cpg := by assumption) (k_twn : K .twn := by assumption) (k_shl : K .shl := by assumption) (k_tly : K .tly := by assumption) : Completes (execLaneEnergyLoss n s) (fun t => t.Within K sB) := by
  unfold execLaneEnergyLoss
  repeat' first
    | with_reducible refine completes_within _ ?_
    | with_reducible exact h
    | with_reducible assumption
    | with_reducible apply State.st_within
    | with_reducible apply ok_within
    | with_reducible apply State.toDetect_within
    | intro _
    | refine fst_within (by assumption) ?_
    | refine snd_within (by assumption) ?_
    | split
    | dsimp only


theorem execTrainingFrameRx_within {s : State} (h : s.Within K sB) (n : Fin 16) (w : BitVec 32) (req : BitVec 5) (k_words : K .words := by assumption) (k_ctrs : K .ctrs := by assumption) (k_flt : K .flt := by assumption) (k_cpg : K .cpg := by assumption) (k_twn : K .twn := by assumption) (k_shl : K .shl := by assumption) (k_tly : K .tly := by assumption) : Completes (execTrainingFrameRx n w req s) (fun t => t.Within K sB) := by
  unfold execTrainingFrameRx
  repeat' first
    | with_reducible refine completes_within _ ?_
    | with_reducible exact h
    | with_reducible assumption
    | with_reducible apply ok_within
    | with_reducible apply State.setTaps_within
    | with_reducible apply State.setLane_within
    | with_reducible apply State.toLock_within
    | intro _
    | refine fst_within (by assumption) ?_
    | refine snd_within (by assumption) ?_
    | split
    | dsimp only


theorem execTrainTimeout_within {s : State} (h : s.Within K sB) (n : Fin 16) (k_words : K .words := by assumption) (k_ctrs : K .ctrs := by assumption) (k_flt : K .flt := by assumption) (k_cpg : K .cpg := by assumption) (k_twn : K .twn := by assumption) (k_shl : K .shl := by assumption) (k_tly : K .tly := by assumption) : Completes (execTrainTimeout n s) (fun t => t.Within K sB) := by
  unfold execTrainTimeout
  repeat' first
    | with_reducible refine completes_within _ ?_
    | with_reducible exact h
    | with_reducible assumption
    | with_reducible apply ok_within
    | with_reducible apply State.toDetect_within
    | with_reducible apply State.inc_within
    | with_reducible apply State.raise_within
    | intro _
    | refine fst_within (by assumption) ?_
    | refine snd_within (by assumption) ?_
    | split
    | dsimp only


theorem execBitLock_within {s : State} (h : s.Within K sB) (n : Fin 16) (k_shl : K .shl := by assumption) : Completes (execBitLock n s) (fun t => t.Within K sB) := by
  unfold execBitLock
  repeat' first
    | with_reducible refine completes_within _ ?_
    | with_reducible exact h
    | with_reducible assumption
    | with_reducible apply ok_within
    | with_reducible apply State.setLane_within
    | intro _
    | refine fst_within (by assumption) ?_
    | refine snd_within (by assumption) ?_
    | split
    | dsimp only


theorem execBitLockLost_within {s : State} (h : s.Within K sB) (n : Fin 16) (k_shl : K .shl := by assumption) : Completes (execBitLockLost n s) (fun t => t.Within K sB) := by
  unfold execBitLockLost
  repeat' first
    | with_reducible refine completes_within _ ?_
    | with_reducible exact h
    | with_reducible assumption
    | with_reducible apply ok_within
    | with_reducible apply State.setLane_within
    | intro _
    | refine fst_within (by assumption) ?_
    | refine snd_within (by assumption) ?_
    | split
    | dsimp only


theorem execCommaMissing_within {s : State} (h : s.Within K sB) (n : Fin 16) (k_words : K .words := by assumption) (k_ctrs : K .ctrs := by assumption) (k_flt : K .flt := by assumption) (k_cpg : K .cpg := by assumption) (k_twn : K .twn := by assumption) (k_shl : K .shl := by assumption) (k_tly : K .tly := by assumption) : Completes (execCommaMissing n s) (fun t => t.Within K sB) := by
  unfold execCommaMissing
  repeat' first
    | with_reducible refine completes_within _ ?_
    | with_reducible exact h
    | with_reducible assumption
    | with_reducible apply ok_within
    | with_reducible apply State.commaMissing_within
    | intro _
    | refine fst_within (by assumption) ?_
    | refine snd_within (by assumption) ?_
    | split
    | dsimp only


theorem execCommaRx_within {s : State} (h : s.Within K sB) (n : Fin 16) (code : BitVec 8) (spaced : Bool) (stuffed errs : Nat) (k_words : K .words := by assumption) (k_ctrs : K .ctrs := by assumption) (k_free : K .free := by assumption) (k_flt : K .flt := by assumption) (k_cpg : K .cpg := by assumption) (k_twn : K .twn := by assumption) (k_shl : K .shl := by assumption) (k_tly : K .tly := by assumption) : Completes (execCommaRx n code spaced stuffed errs s) (fun t => t.Within K sB) := by
  unfold execCommaRx
  repeat' first
    | with_reducible refine completes_within _ ?_
    | with_reducible exact h
    | with_reducible assumption
    | with_reducible apply State.count_within
    | with_reducible apply ok_within
    | with_reducible apply State.inc_within
    | with_reducible apply State.commaMissing_within
    | with_reducible apply State.setLane_within
    | with_reducible apply State.toExchange_within
    | with_reducible apply State.toTrain_within
    | intro _
    | refine fst_within (by assumption) ?_
    | refine snd_within (by assumption) ?_
    | split
    | dsimp only


theorem execLockTimeout_within {s : State} (h : s.Within K sB) (n : Fin 16) (k_words : K .words := by assumption) (k_ctrs : K .ctrs := by assumption) (k_flt : K .flt := by assumption) (k_cpg : K .cpg := by assumption) (k_twn : K .twn := by assumption) (k_shl : K .shl := by assumption) (k_tly : K .tly := by assumption) : Completes (execLockTimeout n s) (fun t => t.Within K sB) := by
  unfold execLockTimeout
  repeat' first
    | with_reducible refine completes_within _ ?_
    | with_reducible exact h
    | with_reducible assumption
    | with_reducible apply ok_within
    | with_reducible apply State.toTrain_within
    | intro _
    | refine fst_within (by assumption) ?_
    | refine snd_within (by assumption) ?_
    | split
    | dsimp only


theorem execMismatchHoldExpiry_within {s : State} (h : s.Within K sB) (n : Fin 16) (k_words : K .words := by assumption) (k_ctrs : K .ctrs := by assumption) (k_flt : K .flt := by assumption) (k_cpg : K .cpg := by assumption) (k_twn : K .twn := by assumption) (k_shl : K .shl := by assumption) (k_tly : K .tly := by assumption) : Completes (execMismatchHoldExpiry n s) (fun t => t.Within K sB) := by
  unfold execMismatchHoldExpiry
  repeat' first
    | with_reducible refine completes_within _ ?_
    | with_reducible exact h
    | with_reducible assumption
    | with_reducible apply ok_within
    | with_reducible apply State.toDetect_within
    | intro _
    | refine fst_within (by assumption) ?_
    | refine snd_within (by assumption) ?_
    | split
    | dsimp only


theorem execExchangeTimeout_within {s : State} (h : s.Within K sB) (n : Fin 16) (k_words : K .words := by assumption) (k_ctrs : K .ctrs := by assumption) (k_flt : K .flt := by assumption) (k_cpg : K .cpg := by assumption) (k_twn : K .twn := by assumption) (k_shl : K .shl := by assumption) (k_tly : K .tly := by assumption) : Completes (execExchangeTimeout n s) (fun t => t.Within K sB) := by
  unfold execExchangeTimeout
  repeat' first
    | with_reducible refine completes_within _ ?_
    | with_reducible exact h
    | with_reducible assumption
    | with_reducible apply ok_within
    | with_reducible apply State.toLock_within
    | intro _
    | refine fst_within (by assumption) ?_
    | refine snd_within (by assumption) ?_
    | split
    | dsimp only


theorem execTileStart_within {s : State} (h : s.Within K sB) (n : Fin 16) (k_words : K .words := by assumption) (k_ctrs : K .ctrs := by assumption) (k_free : K .free := by assumption) (k_flt : K .flt := by assumption) (k_cpg : K .cpg := by assumption) (k_twn : K .twn := by assumption) (k_shl : K .shl := by assumption) (k_tly : K .tly := by assumption) : Completes (execTileStart n s) (fun t => t.Within K sB) := by
  unfold execTileStart
  repeat' first
    | with_reducible refine completes_within _ ?_
    | with_reducible exact h
    | with_reducible assumption
    | with_reducible apply ok_within
    | with_reducible apply State.startTile_within
    | with_reducible apply State.linkCap_within
    | with_reducible apply State.toTrain_within
    | with_reducible apply State.setLane_within
    | intro _
    | refine fst_within (by assumption) ?_
    | refine snd_within (by assumption) ?_
    | split
    | dsimp only


theorem execMarginSample_within {s : State} (h : s.Within K sB) (n : Fin 16) (m : BitVec 8) (fill : Bool) (k_words : K .words := by assumption) (k_ctrs : K .ctrs := by assumption) (k_flt : K .flt := by assumption) (k_cpg : K .cpg := by assumption) (k_twn : K .twn := by assumption) (k_shl : K .shl := by assumption) (k_tly : K .tly := by assumption) : Completes (execMarginSample n m fill s) (fun t => t.Within K sB) := by
  unfold execMarginSample
  repeat' first
    | with_reducible refine completes_within _ ?_
    | with_reducible exact h
    | with_reducible assumption
    | with_reducible apply State.wr_within
    | with_reducible apply ok_within
    | with_reducible apply State.setLane_within
    | with_reducible apply idle_within
    | with_reducible apply State.inc_within
    | with_reducible apply State.raise_within
    | with_reducible apply State.toTrain_within
    | intro _
    | refine fst_within (by assumption) ?_
    | refine snd_within (by assumption) ?_
    | split
    | dsimp only


theorem execShasolMessageRx_within {s0 : State} (h : s0.Within K sB) (n : Fin 16) (r : LinkRx) (k_ctrs : K .ctrs := by assumption) (k_flt : K .flt := by assumption) (k_shl : K .shl := by assumption) (k_tly : K .tly := by assumption) : Completes (execShasolMessageRx n r s0) (fun t => t.Within K sB) := by
  unfold execShasolMessageRx
  repeat' first
    | with_reducible refine completes_within _ ?_
    | with_reducible exact h
    | with_reducible assumption
    | with_reducible apply State.setLane_within
    | with_reducible apply ok_within
    | with_reducible apply State.endCut_within
    | with_reducible apply State.inc_within
    | with_reducible apply State.raiseLimited_within
    | with_reducible apply State.count_within
    | intro _
    | refine fst_within (by assumption) ?_
    | refine snd_within (by assumption) ?_
    | split
    | dsimp only


theorem execTagCheckDone_within {s : State} (h : s.Within K sB) (n : Fin 16) (good late : Bool) (k_words : K .words := by assumption) (k_ctrs : K .ctrs := by assumption) (k_flt : K .flt := by assumption) (k_shl : K .shl := by assumption) (k_tly : K .tly := by assumption) : Completes (execTagCheckDone n good late s) (fun t => t.Within K sB) := by
  unfold execTagCheckDone
  repeat' first
    | with_reducible refine completes_within _ ?_
    | with_reducible exact h
    | with_reducible assumption
    | with_reducible apply ok_within
    | with_reducible apply State.setLane_within
    | with_reducible apply State.endCut_within
    | with_reducible apply State.inc_within
    | with_reducible apply State.raise_within
    | with_reducible apply State.wr_within
    | intro _
    | refine fst_within (by assumption) ?_
    | refine snd_within (by assumption) ?_
    | split
    | dsimp only


theorem execShasolMessageTx_within {s : State} (h : s.Within K sB) (n : Fin 16) (chan : Fin 4) (k_words : K .words := by assumption) (k_ctrs : K .ctrs := by assumption) (k_free : K .free := by assumption) (k_flt : K .flt := by assumption) (k_cpg : K .cpg := by assumption) (k_keys : K .keys := by assumption) (k_twn : K .twn := by assumption) (k_shl : K .shl := by assumption) (k_tly : K .tly := by assumption) :
    Completes (execShasolMessageTx n chan s) (fun t => t.Within K sB) := by
  unfold execShasolMessageTx
  dsimp only
  refine completes_ite_within (completes_within _ h) ?_
  split
  · exact completes_within _ h
  · next s1 dest pay hd e =>
    have h1 : s1.Within K sB := State.nextMsg_within h _ _ _ e
    refine completes_within _ (ite_within ?_ (ite_within ?_ ?_))
    · split
      · refine ite_within ?_ ?_
        · with_reducible exact State.doneWith_within (State.raise_within (State.inc_within h1 ..) ..) ..
        · with_reducible exact State.bumpCtr_within (State.derive_within (State.doneWith_within (State.putMsg_within h1 ..) ..) ..) ..
      · with_reducible exact State.doneWith_within (State.inc_within h1 ..) ..
    · with_reducible exact State.doneWith_within (State.inc_within h1 ..) ..
    · with_reducible exact State.doneWith_within (State.putMsg_within h1 ..) ..


theorem execFabCfgWrite_within {s : State} (h : s.Within K sB) (ag : Agent) (v : Word) (k_words : K .words := by assumption) (k_ctrs : K .ctrs := by assumption) (k_free : K .free := by assumption) (k_flt : K .flt := by assumption) (k_cpg : K .cpg := by assumption) (k_twn : K .twn := by assumption) (k_shl : K .shl := by assumption) (k_tly : K .tly := by assumption) : Completes (execFabCfgWrite ag v s) (fun t => t.Within K sB) := by
  unfold execFabCfgWrite
  repeat' first
    | with_reducible refine completes_within _ ?_
    | with_reducible exact h
    | with_reducible assumption
    | with_reducible apply ok_within
    | with_reducible apply State.fabCfgWrite_within
    | intro _
    | refine fst_within (by assumption) ?_
    | refine snd_within (by assumption) ?_
    | split
    | dsimp only


theorem execUlkCfgWrite_within {s : State} (h : s.Within K sB) (ag : Agent) (n : Fin 24) (v : Word) (k_words : K .words := by assumption) (k_ctrs : K .ctrs := by assumption) (k_free : K .free := by assumption) (k_flt : K .flt := by assumption) (k_tly : K .tly := by assumption) : Completes (execUlkCfgWrite ag n v s) (fun t => t.Within K sB) := by
  unfold execUlkCfgWrite
  repeat' first
    | with_reducible refine completes_within _ ?_
    | with_reducible exact h
    | with_reducible assumption
    | with_reducible apply ok_within
    | with_reducible apply State.ulkWrite_within
    | intro _
    | refine fst_within (by assumption) ?_
    | refine snd_within (by assumption) ?_
    | split
    | dsimp only


theorem execUlkRetrain_within {s : State} (h : s.Within K sB) (ag : Agent) (n : Fin 24) (v : Word) (k_words : K .words := by assumption) (k_ctrs : K .ctrs := by assumption) (k_free : K .free := by assumption) (k_flt : K .flt := by assumption) (k_tly : K .tly := by assumption) : Completes (execUlkRetrain ag n v s) (fun t => t.Within K sB) := by
  unfold execUlkRetrain
  repeat' first
    | with_reducible refine completes_within _ ?_
    | with_reducible exact h
    | with_reducible assumption
    | with_reducible apply ok_within
    | with_reducible apply State.ulkWrite_within
    | intro _
    | refine fst_within (by assumption) ?_
    | refine snd_within (by assumption) ?_
    | split
    | dsimp only


theorem execUlkLinkChange_within {s : State} (h : s.Within K sB) (n : Fin 24) (up : Bool) (cause : Fin 4) (anDone ltDone local_ remote : Bool) (k_words : K .words := by assumption) (k_ctrs : K .ctrs := by assumption) (k_flt : K .flt := by assumption) (k_tly : K .tly := by assumption) : Completes (execUlkLinkChange n up cause anDone ltDone local_ remote s) (fun t => t.Within K sB) := by
  unfold execUlkLinkChange
  repeat' first
    | with_reducible refine completes_within _ ?_
    | with_reducible exact h
    | with_reducible assumption
    | with_reducible apply State.wr_within
    | with_reducible apply ok_within
    | with_reducible apply State.endCause_within
    | with_reducible apply State.ulkFall_within
    | intro _
    | refine fst_within (by assumption) ?_
    | refine snd_within (by assumption) ?_
    | split
    | dsimp only


theorem execUplinkFrameRx_within {s : State} (h : s.Within K sB) (n : Fin 24) (bytes : List Byte) (full : Bool) (fec : Nat × Nat × Nat) (k_words : K .words := by assumption) (k_ctrs : K .ctrs := by assumption) (k_free : K .free := by assumption) (k_flt : K .flt := by assumption) (k_cpg : K .cpg := by assumption) (k_fwd : K .fwd := by assumption) (k_hrl : K .hrl := by assumption) (k_tly : K .tly := by assumption) : Completes (execUplinkFrameRx n bytes full fec s) (fun t => t.Within K sB) := by
  unfold execUplinkFrameRx
  repeat' first
    | with_reducible refine completes_within _ ?_
    | with_reducible exact h
    | with_reducible assumption
    | with_reducible apply State.ulkFec_within
    | with_reducible apply ok_within
    | with_reducible apply State.ptpStamp_within
    | with_reducible apply State.intake_within
    | intro _
    | refine fst_within (by assumption) ?_
    | refine snd_within (by assumption) ?_
    | split
    | dsimp only


theorem execUplinkFrameTx_within {s : State} (h : s.Within K sB) (n : Fin 24) (underrun : Option (BitVec 14)) (ct : Option (Fin 16 × BitVec 14)) (oneStep : Bool) (k_ctrs : K .ctrs := by assumption) (k_flt : K .flt := by assumption) (k_cpg : K .cpg := by assumption) (k_fwd : K .fwd := by assumption) (k_hrl : K .hrl := by assumption) (k_shl : K .shl := by assumption) (k_tly : K .tly := by assumption) : Completes (execUplinkFrameTx n underrun ct oneStep s) (fun t => t.Within K sB) := by
  unfold execUplinkFrameTx
  repeat' first
    | with_reducible refine completes_within _ ?_
    | with_reducible exact h
    | with_reducible assumption
    | simp only [↓within_cpg k_cpg, ↓within_fwd k_fwd, ↓within_cpg_fwd k_cpg k_fwd]
    | with_reducible apply ok_within
    | with_reducible apply State.ulkOut_within
    | with_reducible apply State.raise_within
    | with_reducible apply State.unref_within
    | with_reducible apply State.ptpStamp_within
    | with_reducible apply State.setCut_within
    | intro _
    | refine fst_within (by assumption) ?_
    | refine snd_within (by assumption) ?_
    | split
    | dsimp only


theorem execGenEnWrite_within {s : State} (h : s.Within K sB) (ag : Agent) (b : LaneBlock) (v : Word) (k_words : K .words := by assumption) (k_ctrs : K .ctrs := by assumption) (k_free : K .free := by assumption) (k_flt : K .flt := by assumption) (k_cpg : K .cpg := by assumption) (k_twn : K .twn := by assumption) (k_shl : K .shl := by assumption) (k_tly : K .tly := by assumption) : Completes (execGenEnWrite ag b v s) (fun t => t.Within K sB) := by
  unfold execGenEnWrite
  repeat' first
    | with_reducible refine completes_within _ ?_
    | with_reducible exact h
    | with_reducible assumption
    | with_reducible apply ok_within
    | with_reducible apply State.ltWrite_within
    | intro _
    | refine fst_within (by assumption) ?_
    | refine snd_within (by assumption) ?_
    | split
    | dsimp only


theorem execInjGo_within {s : State} (h : s.Within K sB) (ag : Agent) (b : LaneBlock) (v : Word) (k_words : K .words := by assumption) (k_ctrs : K .ctrs := by assumption) (k_free : K .free := by assumption) (k_flt : K .flt := by assumption) (k_cpg : K .cpg := by assumption) (k_twn : K .twn := by assumption) (k_shl : K .shl := by assumption) (k_tly : K .tly := by assumption) : Completes (execInjGo ag b v s) (fun t => t.Within K sB) := by
  unfold execInjGo
  repeat' first
    | with_reducible refine completes_within _ ?_
    | with_reducible exact h
    | with_reducible assumption
    | with_reducible apply ok_within
    | with_reducible apply State.ltWrite_within
    | intro _
    | refine fst_within (by assumption) ?_
    | refine snd_within (by assumption) ?_
    | split
    | dsimp only


theorem execCheckerLock_within {s : State} (h : s.Within K sB) (b : LaneBlock) (bits : List Bool) (k_words : K .words := by assumption) (k_ctrs : K .ctrs := by assumption) (k_shl : K .shl := by assumption) (k_tly : K .tly := by assumption) : Completes (execCheckerLock b bits s) (fun t => t.Within K sB) := by
  unfold execCheckerLock
  repeat' first
    | with_reducible refine completes_within _ ?_
    | with_reducible exact h
    | with_reducible assumption
    | with_reducible apply ok_within
    | with_reducible apply State.chkRun_within
    | intro _
    | refine fst_within (by assumption) ?_
    | refine snd_within (by assumption) ?_
    | split
    | dsimp only


theorem execCheckerLockLost_within {s : State} (h : s.Within K sB) (b : LaneBlock) (bits : List Bool) (k_words : K .words := by assumption) (k_ctrs : K .ctrs := by assumption) (k_shl : K .shl := by assumption) (k_tly : K .tly := by assumption) : Completes (execCheckerLockLost b bits s) (fun t => t.Within K sB) := by
  unfold execCheckerLockLost
  repeat' first
    | with_reducible refine completes_within _ ?_
    | with_reducible exact h
    | with_reducible assumption
    | with_reducible apply ok_within
    | with_reducible apply State.chkRun_within
    | intro _
    | refine fst_within (by assumption) ?_
    | refine snd_within (by assumption) ?_
    | split
    | dsimp only


theorem execBufferRelease_within {s : State} (h : s.Within K sB) (h : Fin 16777216) (k_ctrs : K .ctrs := by assumption) (k_flt : K .flt := by assumption) (k_cpg : K .cpg := by assumption) (k_tly : K .tly := by assumption) : Completes (execBufferRelease h s) (fun t => t.Within K sB) := by
  unfold execBufferRelease
  repeat' first
    | with_reducible refine completes_within _ ?_
    | with_reducible exact h
    | with_reducible assumption
    | with_reducible apply ok_within
    | with_reducible apply State.unref_within
    | intro _
    | refine fst_within (by assumption) ?_
    | refine snd_within (by assumption) ?_
    | split
    | dsimp only


theorem execCellarWriteDone_within {s : State} (h : s.Within K sB) (q : Fin 73728) (k_ctrs : K .ctrs := by assumption) (k_free : K .free := by assumption) (k_flt : K .flt := by assumption) (k_cpg : K .cpg := by assumption) (k_tly : K .tly := by assumption) : Completes (execCellarWriteDone q s) (fun t => t.Within K sB) := by
  unfold execCellarWriteDone
  repeat' first
    | with_reducible refine completes_within _ ?_
    | with_reducible exact h
    | with_reducible assumption
    | with_reducible apply ok_within
    | with_reducible apply State.writeDone_within
    | intro _
    | refine fst_within (by assumption) ?_
    | refine snd_within (by assumption) ?_
    | split
    | dsimp only


theorem execCellarRefill_within {s : State} (h : s.Within K sB) (q : Fin 73728) (r : CellarRead) (k_ctrs : K .ctrs := by assumption) (k_free : K .free := by assumption) (k_flt : K .flt := by assumption) (k_cpg : K .cpg := by assumption) (k_tly : K .tly := by assumption) : Completes (execCellarRefill q r s) (fun t => t.Within K sB) := by
  unfold execCellarRefill
  repeat' first
    | with_reducible refine completes_within _ ?_
    | with_reducible exact h
    | with_reducible assumption
    | with_reducible apply ok_within
    | with_reducible apply State.refillRead_within
    | with_reducible apply State.refillQueue_within
    | with_reducible apply State.memEcc_within
    | intro _
    | refine fst_within (by assumption) ?_
    | refine snd_within (by assumption) ?_
    | split
    | dsimp only


theorem execSchedSelect_within {s : State} (h : s.Within K sB) (m : Fin 104) (ecc : Option Bool) (k_ctrs : K .ctrs := by assumption) (k_free : K .free := by assumption) (k_flt : K .flt := by assumption) (k_cpg : K .cpg := by assumption) (k_tly : K .tly := by assumption) : Completes (execSchedSelect m ecc s) (fun t => t.Within K sB) := by
  unfold execSchedSelect
  repeat' first
    | with_reducible refine completes_within _ ?_
    | with_reducible exact h
    | with_reducible assumption
    | with_reducible apply ok_within
    | with_reducible apply State.select_within
    | with_reducible apply State.toCipher_within
    | with_reducible apply State.toEgress_within
    | with_reducible apply State.raise_within
    | with_reducible apply State.unref_within
    | with_reducible apply State.takeFree_within
    | intro _
    | refine fst_within (by assumption) ?_
    | refine snd_within (by assumption) ?_
    | split
    | dsimp only


theorem execBucketSweep_within {s : State} (h : s.Within K sB) (k_cpg : K .cpg := by assumption) : Completes (execBucketSweep s) (fun t => t.Within K sB) := by
  unfold execBucketSweep
  repeat' first
    | with_reducible refine completes_within _ ?_
    | with_reducible exact h
    | with_reducible assumption
    | with_reducible apply ok_within
    | with_reducible apply State.sweepBkts_within
    | intro _
    | refine fst_within (by assumption) ?_
    | refine snd_within (by assumption) ?_
    | split
    | dsimp only


theorem execBucketWord0Write_within {s : State} (h : s.Within K sB) (ag : Agent) (b : Fin 98304) (v : Word) (k_words : K .words := by assumption) (k_ctrs : K .ctrs := by assumption) (k_flt : K .flt := by assumption) (k_cpg : K .cpg := by assumption) (k_tly : K .tly := by assumption) : Completes (execBucketWord0Write ag b v s) (fun t => t.Within K sB) := by
  unfold execBucketWord0Write
  repeat' first
    | with_reducible refine completes_within _ ?_
    | with_reducible exact h
    | with_reducible assumption
    | with_reducible apply ok_within
    | with_reducible apply State.bucketWord0_within
    | intro _
    | refine fst_within (by assumption) ?_
    | refine snd_within (by assumption) ?_
    | split
    | dsimp only


theorem execDebtClear_within {s : State} (h : s.Within K sB) (ag : Agent) (b : Fin 98304) (v : Word) (k_words : K .words := by assumption) (k_ctrs : K .ctrs := by assumption) (k_flt : K .flt := by assumption) (k_cpg : K .cpg := by assumption) (k_tly : K .tly := by assumption) : Completes (execDebtClear ag b v s) (fun t => t.Within K sB) := by
  unfold execDebtClear
  repeat' first
    | with_reducible refine completes_within _ ?_
    | with_reducible exact h
    | with_reducible assumption
    | with_reducible apply ok_within
    | with_reducible apply State.bucketWord0_within
    | intro _
    | refine fst_within (by assumption) ?_
    | refine snd_within (by assumption) ?_
    | split
    | dsimp only


theorem execStatsSample_within {s : State} (h : s.Within K sB) (g : Fin 16) (k_cpg : K .cpg := by assumption) : Completes (execStatsSample g s) (fun t => t.Within K sB) := by
  unfold execStatsSample
  repeat' first
    | with_reducible refine completes_within _ ?_
    | with_reducible exact h
    | with_reducible assumption
    | with_reducible apply ok_within
    | with_reducible apply State.sampleStat_within
    | with_reducible apply foldl_within
    | intro _
    | refine fst_within (by assumption) ?_
    | refine snd_within (by assumption) ?_
    | split
    | dsimp only


theorem execStatsClear_within {s : State} (h : s.Within K sB) (ag : Agent) (e : Fin 8192) (v : Word) (k_words : K .words := by assumption) (k_ctrs : K .ctrs := by assumption) (k_flt : K .flt := by assumption) (k_cpg : K .cpg := by assumption) (k_tly : K .tly := by assumption) : Completes (execStatsClear ag e v s) (fun t => t.Within K sB) := by
  unfold execStatsClear
  repeat' first
    | with_reducible refine completes_within _ ?_
    | with_reducible exact h
    | with_reducible assumption
    | with_reducible apply ok_within
    | with_reducible apply State.winGate_within
    | with_reducible apply State.schStore_within
    | intro _
    | refine fst_within (by assumption) ?_
    | refine snd_within (by assumption) ?_
    | split
    | dsimp only


theorem execCipherDownstream_within {s : State} (h : s.Within K sB) (p : Fin 32) (sd : Side) (bad : Option (Fin 16)) (k_ctrs : K .ctrs := by assumption) (k_flt : K .flt := by assumption) (k_cpg : K .cpg := by assumption) (k_tly : K .tly := by assumption) : Completes (execCipherDownstream p sd bad s) (fun t => t.Within K sB) := by
  unfold execCipherDownstream
  repeat' first
    | with_reducible refine completes_within _ ?_
    | with_reducible exact h
    | with_reducible assumption
    | simp only [↓within_cpg k_cpg]
    | with_reducible apply ok_within
    | with_reducible apply State.cipherPkt_within
    | with_reducible apply State.toEgress_within
    | intro _
    | refine fst_within (by assumption) ?_
    | refine snd_within (by assumption) ?_
    | split
    | dsimp only


theorem execUpstreamXgemFrame_within {s : State} (h : s.Within K sB) (p : Fin 32) (sd : Side) (ctx : BitVec 16) (cls : Fin 8) (key : Fin 4) (word : BitVec 18) (bytes : List Byte) (unc full : Bool) (bad : Option (Fin 16)) (k_words : K .words := by assumption) (k_ctrs : K .ctrs := by assumption) (k_free : K .free := by assumption) (k_flt : K .flt := by assumption) (k_cpg : K .cpg := by assumption) (k_keys : K .keys := by assumption) (k_fwd : K .fwd := by assumption) (k_tly : K .tly := by assumption) : Completes (execUpstreamXgemFrame p sd ctx cls key word bytes unc full bad s) (fun t => t.Within K sB) := by
  unfold execUpstreamXgemFrame
  repeat' first
    | with_reducible refine completes_within _ ?_
    | with_reducible exact h
    | with_reducible assumption
    | with_reducible apply ok_within
    | with_reducible apply State.xgemUp_within
    | intro _
    | refine fst_within (by assumption) ?_
    | refine snd_within (by assumption) ?_
    | split
    | dsimp only


theorem execSorterDispatch_within {s : State} (h : s.Within K sB) (k_words : K .words := by assumption) (k_ctrs : K .ctrs := by assumption) (k_flt : K .flt := by assumption) (k_cpg : K .cpg := by assumption) (k_eng : K .eng := by assumption) (k_fwd : K .fwd := by assumption) (k_tly : K .tly := by assumption) (k_wdn : K .wdn := by assumption) : Completes (execSorterDispatch s) (fun t => t.Within K sB) := by
  unfold execSorterDispatch
  repeat' first
    | with_reducible refine completes_within _ ?_
    | with_reducible exact h
    | with_reducible assumption
    | with_reducible apply ok_within
    | with_reducible apply State.dispatch_within
    | intro _
    | refine fst_within (by assumption) ?_
    | refine snd_within (by assumption) ?_
    | split
    | dsimp only


theorem execExpressLookup_within {s : State} (h : s.Within K sB) (upset : Option (Fin 65536)) (ecc : List (Fin 532480 × Bool)) (k_words : K .words := by assumption) (k_ctrs : K .ctrs := by assumption) (k_free : K .free := by assumption) (k_flt : K .flt := by assumption) (k_cpg : K .cpg := by assumption) (k_ldg : K .ldg := by assumption) (k_fwd : K .fwd := by assumption) (k_tly : K .tly := by assumption) : Completes (execExpressLookup upset ecc s) (fun t => t.Within K sB) := by
  unfold execExpressLookup
  repeat' first
    | with_reducible refine completes_within _ ?_
    | with_reducible exact h
    | with_reducible assumption
    | simp only [↓within_fwd k_fwd]
    | with_reducible apply ok_within
    | with_reducible apply State.exmLookup_within
    | with_reducible apply State.ldgLookup_within
    | with_reducible apply State.releaseDesc_within
    | intro _
    | refine fst_within (by assumption) ?_
    | refine snd_within (by assumption) ?_
    | split
    | dsimp only


theorem execWindowLoadDone_within {s : State} (h : s.Within K sB) (g : Fin 64) (e : Fin 16) (c : Fin 4) (k_eng : K .eng := by assumption) : Completes (execWindowLoadDone g e c s) (fun t => t.Within K sB) := by
  unfold execWindowLoadDone
  repeat' first
    | with_reducible refine completes_within _ ?_
    | with_reducible exact h
    | with_reducible assumption
    | with_reducible apply ok_within
    | with_reducible apply State.setCtx_within
    | intro _
    | refine fst_within (by assumption) ?_
    | refine snd_within (by assumption) ?_
    | split
    | dsimp only


theorem execSorterRelease_within {s : State} (h : s.Within K sB) (flow : BitVec 16) (k_words : K .words := by assumption) (k_ctrs : K .ctrs := by assumption) (k_free : K .free := by assumption) (k_flt : K .flt := by assumption) (k_cpg : K .cpg := by assumption) (k_fwd : K .fwd := by assumption) (k_tly : K .tly := by assumption) : Completes (execSorterRelease flow s) (fun t => t.Within K sB) := by
  unfold execSorterRelease
  repeat' first
    | with_reducible refine completes_within _ ?_
    | with_reducible exact h
    | with_reducible assumption
    | with_reducible apply ok_within
    | with_reducible apply State.releaseFlow_within
    | with_reducible apply State.storeInFlight_within
    | intro _
    | refine fst_within (by assumption) ?_
    | refine snd_within (by assumption) ?_
    | split
    | dsimp only


theorem execReorderTimeout_within {s : State} (h : s.Within K sB) (flow : BitVec 16) (k_words : K .words := by assumption) (k_ctrs : K .ctrs := by assumption) (k_free : K .free := by assumption) (k_flt : K .flt := by assumption) (k_cpg : K .cpg := by assumption) (k_fwd : K .fwd := by assumption) (k_tly : K .tly := by assumption) : Completes (execReorderTimeout flow s) (fun t => t.Within K sB) := by
  unfold execReorderTimeout
  repeat' first
    | with_reducible refine completes_within _ ?_
    | with_reducible exact h
    | with_reducible assumption
    | with_reducible apply State.release_within
    | with_reducible apply ok_within
    | with_reducible apply State.modFlight_within
    | with_reducible apply State.setFlow_within
    | with_reducible apply State.inc_within
    | with_reducible apply State.raise_within
    | with_reducible apply State.releaseFlow_within
    | with_reducible apply State.storeInFlight_within
    | intro _
    | refine fst_within (by assumption) ?_
    | refine snd_within (by assumption) ?_
    | split
    | dsimp only


theorem execLedgerSearch_within {s : State} (h : s.Within K sB) (g : Fin 64) (e : Fin 16) (c m : Fin 4) (upset : Option (Fin 65536)) (k_ctrs : K .ctrs := by assumption) (k_flt : K .flt := by assumption) (k_eng : K .eng := by assumption) (k_tly : K .tly := by assumption) : Completes (execLedgerSearch g e c m upset s) (fun t => t.Within K sB) := by
  unfold execLedgerSearch
  repeat' first
    | with_reducible refine completes_within _ ?_
    | with_reducible exact h
    | with_reducible assumption
    | with_reducible apply ok_within
    | with_reducible apply State.slotFound_within
    | with_reducible apply State.ldgLookup_within
    | intro _
    | refine fst_within (by assumption) ?_
    | refine snd_within (by assumption) ?_
    | split
    | dsimp only


theorem execExmSearch_within {s : State} (h : s.Within K sB) (g : Fin 64) (e : Fin 16) (c m : Fin 4) (ecc : List (Fin 532480 × Bool)) (k_ctrs : K .ctrs := by assumption) (k_flt : K .flt := by assumption) (k_ldg : K .ldg := by assumption) (k_eng : K .eng := by assumption) (k_tly : K .tly := by assumption) : Completes (execExmSearch g e c m ecc s) (fun t => t.Within K sB) := by
  unfold execExmSearch
  repeat' first
    | with_reducible refine completes_within _ ?_
    | with_reducible exact h
    | with_reducible assumption
    | with_reducible apply ok_within
    | with_reducible apply State.slotFound_within
    | with_reducible apply State.exmLookup_within
    | intro _
    | refine fst_within (by assumption) ?_
    | refine snd_within (by assumption) ?_
    | split
    | dsimp only


theorem execLookupResult_within {s : State} (h : s.Within K sB) (g : Fin 64) (e : Fin 16) (c m : Fin 4) (k_words : K .words := by assumption) (k_ctrs : K .ctrs := by assumption) (k_flt : K .flt := by assumption) (k_cpg : K .cpg := by assumption) (k_eng : K .eng := by assumption) (k_fwd : K .fwd := by assumption) (k_tly : K .tly := by assumption) : Completes (execLookupResult g e c m s) (fun t => t.Within K sB) := by
  unfold execLookupResult
  repeat' first
    | with_reducible refine completes_within _ ?_
    | with_reducible exact h
    | with_reducible assumption
    | with_reducible apply ok_within
    | with_reducible apply State.endException_within
    | with_reducible apply State.setCtx_within
    | with_reducible apply State.setSlot_within
    | intro _
    | refine fst_within (by assumption) ?_
    | refine snd_within (by assumption) ?_
    | split
    | dsimp only


theorem execEngineWdog_within {s : State} (h : s.Within K sB) (g : Fin 64) (e : Fin 16) (k_flt : K .flt := by assumption) (k_eng : K .eng := by assumption) : Completes (execEngineWdog g e s) (fun t => t.Within K sB) := by
  unfold execEngineWdog
  repeat' first
    | with_reducible refine completes_within _ ?_
    | with_reducible exact h
    | with_reducible assumption
    | with_reducible apply ok_within
    | with_reducible apply State.markFailed_within
    | with_reducible apply State.raise_within
    | intro _
    | refine fst_within (by assumption) ?_
    | refine snd_within (by assumption) ?_
    | split
    | dsimp only


theorem execEngineParity_within {s : State} (h : s.Within K sB) (g : Fin 64) (e : Fin 16) (structure_ : Fin 4) (k_flt : K .flt := by assumption) (k_eng : K .eng := by assumption) : Completes (execEngineParity g e structure_ s) (fun t => t.Within K sB) := by
  unfold execEngineParity
  repeat' first
    | with_reducible refine completes_within _ ?_
    | with_reducible exact h
    | with_reducible assumption
    | with_reducible apply ok_within
    | with_reducible apply State.markFailed_within
    | with_reducible apply State.raise_within
    | intro _
    | refine fst_within (by assumption) ?_
    | refine snd_within (by assumption) ?_
    | split
    | dsimp only


theorem execCostWindowEnd_within {s : State} (h : s.Within K sB) (g : Fin 64) (k_words : K .words := by assumption) (k_flt : K .flt := by assumption) (k_eng : K .eng := by assumption) : Completes (execCostWindowEnd g s) (fun t => t.Within K sB) := by
  unfold execCostWindowEnd
  repeat' first
    | with_reducible refine completes_within _ ?_
    | with_reducible exact h
    | with_reducible assumption
    | with_reducible apply State.setGuild_within
    | with_reducible apply State.wr_within
    | with_reducible apply ok_within
    | with_reducible apply State.raise_within
    | intro _
    | refine fst_within (by assumption) ?_
    | refine snd_within (by assumption) ?_
    | split
    | dsimp only


theorem execEngEnWrite_within {s : State} (h : s.Within K sB) (ag : Agent) (g : Fin 64) (v : BitVec 32) (k_words : K .words := by assumption) (k_ctrs : K .ctrs := by assumption) (k_free : K .free := by assumption) (k_flt : K .flt := by assumption) (k_cpg : K .cpg := by assumption) (k_eng : K .eng := by assumption) (k_fwd : K .fwd := by assumption) (k_tly : K .tly := by assumption) : Completes (execEngEnWrite ag g v s) (fun t => t.Within K sB) := by
  unfold execEngEnWrite
  repeat' first
    | with_reducible refine completes_within _ ?_
    | with_reducible exact h
    | with_reducible assumption
    | with_reducible apply ok_within
    | with_reducible apply State.gldCtrl_within
    | intro _
    | refine fst_within (by assumption) ?_
    | refine snd_within (by assumption) ?_
    | split
    | dsimp only


theorem execDrain_within {s : State} (h : s.Within K sB) (ag : Agent) (g : Fin 64) (v : BitVec 32) (k_words : K .words := by assumption) (k_ctrs : K .ctrs := by assumption) (k_free : K .free := by assumption) (k_flt : K .flt := by assumption) (k_cpg : K .cpg := by assumption) (k_eng : K .eng := by assumption) (k_fwd : K .fwd := by assumption) (k_tly : K .tly := by assumption) : Completes (execDrain ag g v s) (fun t => t.Within K sB) := by
  unfold execDrain
  repeat' first
    | with_reducible refine completes_within _ ?_
    | with_reducible exact h
    | with_reducible assumption
    | with_reducible apply ok_within
    | with_reducible apply State.gldCtrl_within
    | intro _
    | refine fst_within (by assumption) ?_
    | refine snd_within (by assumption) ?_
    | split
    | dsimp only


theorem execAbort_within {s : State} (h : s.Within K sB) (ag : Agent) (g : Fin 64) (v : BitVec 32) (k_words : K .words := by assumption) (k_ctrs : K .ctrs := by assumption) (k_free : K .free := by assumption) (k_flt : K .flt := by assumption) (k_cpg : K .cpg := by assumption) (k_eng : K .eng := by assumption) (k_fwd : K .fwd := by assumption) (k_tly : K .tly := by assumption) : Completes (execAbort ag g v s) (fun t => t.Within K sB) := by
  unfold execAbort
  repeat' first
    | with_reducible refine completes_within _ ?_
    | with_reducible exact h
    | with_reducible assumption
    | with_reducible apply ok_within
    | with_reducible apply State.gldCtrl_within
    | intro _
    | refine fst_within (by assumption) ?_
    | refine snd_within (by assumption) ?_
    | split
    | dsimp only


theorem execGuildLoad_within {s : State} (h : s.Within K sB) (ag : Agent) (g : Fin 64) (v : BitVec 32) (k_words : K .words := by assumption) (k_ctrs : K .ctrs := by assumption) (k_free : K .free := by assumption) (k_flt : K .flt := by assumption) (k_cpg : K .cpg := by assumption) (k_eng : K .eng := by assumption) (k_fwd : K .fwd := by assumption) (k_tly : K .tly := by assumption) : Completes (execGuildLoad ag g v s) (fun t => t.Within K sB) := by
  unfold execGuildLoad
  repeat' first
    | with_reducible refine completes_within _ ?_
    | with_reducible exact h
    | with_reducible assumption
    | with_reducible apply ok_within
    | with_reducible apply State.gldCtrl_within
    | intro _
    | refine fst_within (by assumption) ?_
    | refine snd_within (by assumption) ?_
    | split
    | dsimp only


theorem execDrainComplete_within {s : State} (h : s.Within K sB) (g : Fin 64) (k_words : K .words := by assumption) : Completes (execDrainComplete g s) (fun t => t.Within K sB) := by
  unfold execDrainComplete
  repeat' first
    | with_reducible refine completes_within _ ?_
    | with_reducible exact h
    | with_reducible assumption
    | with_reducible apply ok_within
    | with_reducible apply State.wr_within
    | intro _
    | refine fst_within (by assumption) ?_
    | refine snd_within (by assumption) ?_
    | split
    | dsimp only


theorem execDrainStuck_within {s : State} (h : s.Within K sB) (g : Fin 64) (k_words : K .words := by assumption) (k_ctrs : K .ctrs := by assumption) (k_flt : K .flt := by assumption) (k_cpg : K .cpg := by assumption) (k_eng : K .eng := by assumption) (k_fwd : K .fwd := by assumption) (k_tly : K .tly := by assumption) : Completes (execDrainStuck g s) (fun t => t.Within K sB) := by
  unfold execDrainStuck
  repeat' first
    | with_reducible refine completes_within _ ?_
    | with_reducible exact h
    | with_reducible assumption
    | with_reducible apply ok_within
    | with_reducible apply State.emptyGuild_within
    | with_reducible apply State.raise_within
    | with_reducible apply State.wr_within
    | intro _
    | refine fst_within (by assumption) ?_
    | refine snd_within (by assumption) ?_
    | split
    | dsimp only


theorem execSwitchDone_within {s : State} (h : s.Within K sB) (g : Fin 64) (k_words : K .words := by assumption) (k_eng : K .eng := by assumption) : Completes (execSwitchDone g s) (fun t => t.Within K sB) := by
  unfold execSwitchDone
  repeat' first
    | with_reducible refine completes_within _ ?_
    | with_reducible exact h
    | with_reducible assumption
    | with_reducible apply State.swapBanks_within
    | with_reducible apply State.initShared_within
    | with_reducible apply ok_within
    | with_reducible apply State.wr_within
    | intro _
    | refine fst_within (by assumption) ?_
    | refine snd_within (by assumption) ?_
    | split
    | dsimp only


theorem execStandbyBankWrite_within {s : State} (h : s.Within K sB) (ag : Agent) (g : Fin 64) (idx : Fin 4097) (first : Fin 16) (ws : List (BitVec 32)) (k_words : K .words := by assumption) (k_ctrs : K .ctrs := by assumption) (k_flt : K .flt := by assumption) (k_eng : K .eng := by assumption) (k_tly : K .tly := by assumption) : Completes (execStandbyBankWrite ag g idx first ws s) (fun t => t.Within K sB) := by
  unfold execStandbyBankWrite
  repeat' first
    | with_reducible refine completes_within _ ?_
    | with_reducible exact h
    | with_reducible assumption
    | with_reducible apply ok_within
    | with_reducible apply State.winGate_within
    | with_reducible apply State.deny_within
    | with_reducible apply State.gldStore_within
    | intro _
    | refine fst_within (by assumption) ?_
    | refine snd_within (by assumption) ?_
    | split
    | dsimp only


theorem execValidateDone_within {s : State} (h : s.Within K sB) (g : Fin 64) (k_words : K .words := by assumption) (k_flt : K .flt := by assumption) : Completes (execValidateDone g s) (fun t => t.Within K sB) := by
  unfold execValidateDone
  repeat' first
    | with_reducible refine completes_within _ ?_
    | with_reducible exact h
    | with_reducible assumption
    | with_reducible apply ok_within
    | with_reducible apply State.wr_within
    | with_reducible apply State.raise_within
    | intro _
    | refine fst_within (by assumption) ?_
    | refine snd_within (by assumption) ?_
    | split
    | dsimp only


theorem execLdgWrite_within {s : State} (h : s.Within K sB) (ag : Agent) (k : Fin 2) (v : BitVec 32) (k_words : K .words := by assumption) (k_ctrs : K .ctrs := by assumption) (k_free : K .free := by assumption) (k_flt : K .flt := by assumption) (k_ldg : K .ldg := by assumption) (k_tly : K .tly := by assumption) (k_hst : K .hst := by assumption) : Completes (execLdgWrite ag k v s) (fun t => t.Within K sB) := by
  unfold execLdgWrite
  repeat' first
    | with_reducible refine completes_within _ ?_
    | with_reducible exact h
    | with_reducible assumption
    | with_reducible apply ok_within
    | with_reducible apply State.ldgCmd_within
    | intro _
    | refine fst_within (by assumption) ?_
    | refine snd_within (by assumption) ?_
    | split
    | dsimp only


theorem execLdgInsert_within {s : State} (h : s.Within K sB) (ag : Agent) (k : Fin 2) (v : BitVec 32) (k_words : K .words := by assumption) (k_ctrs : K .ctrs := by assumption) (k_free : K .free := by assumption) (k_flt : K .flt := by assumption) (k_ldg : K .ldg := by assumption) (k_tly : K .tly := by assumption) (k_hst : K .hst := by assumption) : Completes (execLdgInsert ag k v s) (fun t => t.Within K sB) := by
  unfold execLdgInsert
  repeat' first
    | with_reducible refine completes_within _ ?_
    | with_reducible exact h
    | with_reducible assumption
    | with_reducible apply ok_within
    | with_reducible apply State.ldgCmd_within
    | intro _
    | refine fst_within (by assumption) ?_
    | refine snd_within (by assumption) ?_
    | split
    | dsimp only


theorem execDelete_within {s : State} (h : s.Within K sB) (ag : Agent) (k : Fin 2) (v : BitVec 32) (ecc : List (Fin 532480 × Bool)) (k_words : K .words := by assumption) (k_ctrs : K .ctrs := by assumption) (k_free : K .free := by assumption) (k_flt : K .flt := by assumption) (k_ldg : K .ldg := by assumption) (k_tly : K .tly := by assumption) (k_hst : K .hst := by assumption) : Completes (execDelete ag k v ecc s) (fun t => t.Within K sB) := by
  unfold execDelete
  repeat' first
    | with_reducible refine completes_within _ ?_
    | with_reducible exact h
    | with_reducible assumption
    | with_reducible apply ok_within
    | with_reducible apply State.ldgCmd_within
    | intro _
    | refine fst_within (by assumption) ?_
    | refine snd_within (by assumption) ?_
    | split
    | dsimp only


theorem execModify_within {s : State} (h : s.Within K sB) (ag : Agent) (k : Fin 2) (v : BitVec 32) (ecc : List (Fin 532480 × Bool)) (k_words : K .words := by assumption) (k_ctrs : K .ctrs := by assumption) (k_free : K .free := by assumption) (k_flt : K .flt := by assumption) (k_ldg : K .ldg := by assumption) (k_tly : K .tly := by assumption) (k_hst : K .hst := by assumption) : Completes (execModify ag k v ecc s) (fun t => t.Within K sB) := by
  unfold execModify
  repeat' first
    | with_reducible refine completes_within _ ?_
    | with_reducible exact h
    | with_reducible assumption
    | with_reducible apply ok_within
    | with_reducible apply State.ldgCmd_within
    | intro _
    | refine fst_within (by assumption) ?_
    | refine snd_within (by assumption) ?_
    | split
    | dsimp only


theorem execAddKey_within {s : State} (h : s.Within K sB) (ag : Agent) (k : Fin 2) (v : BitVec 32) (ecc : List (Fin 532480 × Bool)) (k_words : K .words := by assumption) (k_ctrs : K .ctrs := by assumption) (k_free : K .free := by assumption) (k_flt : K .flt := by assumption) (k_ldg : K .ldg := by assumption) (k_tly : K .tly := by assumption) (k_hst : K .hst := by assumption) : Completes (execAddKey ag k v ecc s) (fun t => t.Within K sB) := by
  unfold execAddKey
  repeat' first
    | with_reducible refine completes_within _ ?_
    | with_reducible exact h
    | with_reducible assumption
    | with_reducible apply ok_within
    | with_reducible apply State.ldgCmd_within
    | intro _
    | refine fst_within (by assumption) ?_
    | refine snd_within (by assumption) ?_
    | split
    | dsimp only


theorem execLookup_within {s : State} (h : s.Within K sB) (ag : Agent) (k : Fin 2) (v : BitVec 32) (upset : Option (Fin 65536)) (ecc : List (Fin 532480 × Bool)) (k_words : K .words := by assumption) (k_ctrs : K .ctrs := by assumption) (k_free : K .free := by assumption) (k_flt : K .flt := by assumption) (k_ldg : K .ldg := by assumption) (k_tly : K .tly := by assumption) (k_hst : K .hst := by assumption) : Completes (execLookup ag k v upset ecc s) (fun t => t.Within K sB) := by
  unfold execLookup
  repeat' first
    | with_reducible refine completes_within _ ?_
    | with_reducible exact h
    | with_reducible assumption
    | with_reducible apply ok_within
    | with_reducible apply State.ldgCmd_within
    | intro _
    | refine fst_within (by assumption) ?_
    | refine snd_within (by assumption) ?_
    | split
    | dsimp only


theorem execOpenEpoch_within {s : State} (h : s.Within K sB) (ag : Agent) (k : Fin 2) (v : BitVec 32) (k_words : K .words := by assumption) (k_ctrs : K .ctrs := by assumption) (k_free : K .free := by assumption) (k_flt : K .flt := by assumption) (k_ldg : K .ldg := by assumption) (k_tly : K .tly := by assumption) (k_hst : K .hst := by assumption) : Completes (execOpenEpoch ag k v s) (fun t => t.Within K sB) := by
  unfold execOpenEpoch
  repeat' first
    | with_reducible refine completes_within _ ?_
    | with_reducible exact h
    | with_reducible assumption
    | with_reducible apply ok_within
    | with_reducible apply State.ldgCmd_within
    | intro _
    | refine fst_within (by assumption) ?_
    | refine snd_within (by assumption) ?_
    | split
    | dsimp only


theorem execPublish_within {s : State} (h : s.Within K sB) (ag : Agent) (k : Fin 2) (v : BitVec 32) (k_words : K .words := by assumption) (k_ctrs : K .ctrs := by assumption) (k_free : K .free := by assumption) (k_flt : K .flt := by assumption) (k_ldg : K .ldg := by assumption) (k_tly : K .tly := by assumption) (k_hst : K .hst := by assumption) : Completes (execPublish ag k v s) (fun t => t.Within K sB) := by
  unfold execPublish
  repeat' first
    | with_reducible refine completes_within _ ?_
    | with_reducible exact h
    | with_reducible assumption
    | with_reducible apply ok_within
    | with_reducible apply State.ldgCmd_within
    | intro _
    | refine fst_within (by assumption) ?_
    | refine snd_within (by assumption) ?_
    | split
    | dsimp only


theorem execDiscard_within {s : State} (h : s.Within K sB) (ag : Agent) (k : Fin 2) (v : BitVec 32) (k_words : K .words := by assumption) (k_ctrs : K .ctrs := by assumption) (k_free : K .free := by assumption) (k_flt : K .flt := by assumption) (k_ldg : K .ldg := by assumption) (k_tly : K .tly := by assumption) (k_hst : K .hst := by assumption) : Completes (execDiscard ag k v s) (fun t => t.Within K sB) := by
  unfold execDiscard
  repeat' first
    | with_reducible refine completes_within _ ?_
    | with_reducible exact h
    | with_reducible assumption
    | with_reducible apply ok_within
    | with_reducible apply State.ldgCmd_within
    | intro _
    | refine fst_within (by assumption) ?_
    | refine snd_within (by assumption) ?_
    | split
    | dsimp only


theorem execLedgerMove_within {s : State} (h : s.Within K sB) (k_words : K .words := by assumption) (k_ctrs : K .ctrs := by assumption) (k_free : K .free := by assumption) (k_flt : K .flt := by assumption) (k_ldg : K .ldg := by assumption) (k_tly : K .tly := by assumption) (k_hst : K .hst := by assumption) : Completes (execLedgerMove s) (fun t => t.Within K sB) := by
  unfold execLedgerMove
  repeat' first
    | with_reducible refine completes_within _ ?_
    | with_reducible exact h
    | with_reducible assumption
    | simp only [↓within_ldg k_ldg]
    | with_reducible apply ok_within
    | with_reducible apply State.moveRow_within
    | with_reducible apply State.inc_within
    | with_reducible apply State.insFinish_within
    | with_reducible apply State.ldgNext_within
    | intro _
    | refine fst_within (by assumption) ?_
    | refine snd_within (by assumption) ?_
    | split
    | dsimp only


theorem execRespreadMove_within {s : State} (h : s.Within K sB) (r : Fin 16) (k_ctrs : K .ctrs := by assumption) (k_ldg : K .ldg := by assumption) (k_tly : K .tly := by assumption) : Completes (execRespreadMove r s) (fun t => t.Within K sB) := by
  unfold execRespreadMove
  repeat' first
    | with_reducible refine completes_within _ ?_
    | with_reducible exact h
    | with_reducible assumption
    | with_reducible apply ok_within
    | with_reducible apply State.moveRow_within
    | with_reducible apply State.inc_within
    | intro _
    | refine fst_within (by assumption) ?_
    | refine snd_within (by assumption) ?_
    | split
    | dsimp only


theorem execScrubRow_within {s : State} (h : s.Within K sB) (row : Fin 65536) (mismatch uncorr : Bool) (k_ctrs : K .ctrs := by assumption) (k_flt : K .flt := by assumption) (k_ldg : K .ldg := by assumption) (k_tly : K .tly := by assumption) : Completes (execScrubRow row mismatch uncorr s) (fun t => t.Within K sB) := by
  unfold execScrubRow
  repeat' first
    | with_reducible refine completes_within _ ?_
    | with_reducible exact h
    | with_reducible assumption
    | with_reducible apply ok_within
    | with_reducible apply State.scrub_within
    | intro _
    | refine fst_within (by assumption) ?_
    | refine snd_within (by assumption) ?_
    | split
    | dsimp only


theorem execStashDrainPass_within {s : State} (h : s.Within K sB) (ecc : List (Fin 532480 × Bool)) (k_ctrs : K .ctrs := by assumption) (k_free : K .free := by assumption) (k_flt : K .flt := by assumption) (k_ldg : K .ldg := by assumption) (k_tly : K .tly := by assumption) : Completes (execStashDrainPass ecc s) (fun t => t.Within K sB) := by
  unfold execStashDrainPass
  repeat' first
    | with_reducible refine completes_within _ ?_
    | with_reducible exact h
    | with_reducible assumption
    | with_reducible apply State.cellsEcc_within
    | with_reducible apply State.drainStash_within
    | with_reducible apply ok_within
    | with_reducible apply State.stashHigh_within
    | with_reducible apply foldl_within
    | intro _
    | refine fst_within (by assumption) ?_
    | refine snd_within (by assumption) ?_
    | split
    | dsimp only


theorem execEpochRetire_within {s : State} (h : s.Within K sB) (k_words : K .words := by assumption) (k_ldg : K .ldg := by assumption) : Completes (execEpochRetire s) (fun t => t.Within K sB) := by
  unfold execEpochRetire
  repeat' first
    | with_reducible refine completes_within _ ?_
    | with_reducible exact h
    | with_reducible assumption
    | with_reducible apply ok_within
    | with_reducible apply State.retireStart_within
    | intro _
    | refine fst_within (by assumption) ?_
    | refine snd_within (by assumption) ?_
    | split
    | dsimp only


theorem execSweepDone_within {s : State} (h : s.Within K sB) (discard : Bool) (ecc : List (Fin 532480 × Bool)) (k_words : K .words := by assumption) (k_ctrs : K .ctrs := by assumption) (k_free : K .free := by assumption) (k_flt : K .flt := by assumption) (k_ldg : K .ldg := by assumption) (k_tly : K .tly := by assumption) (k_hst : K .hst := by assumption) : Completes (execSweepDone discard ecc s) (fun t => t.Within K sB) := by
  unfold execSweepDone
  repeat' first
    | with_reducible refine completes_within _ ?_
    | with_reducible exact h
    | with_reducible assumption
    | with_reducible apply ok_within
    | with_reducible apply State.cellsEcc_within
    | with_reducible apply State.discardDone_within
    | with_reducible apply State.retireDone_within
    | intro _
    | refine fst_within (by assumption) ?_
    | refine snd_within (by assumption) ?_
    | split
    | dsimp only


theorem execEpochStuck_within {s : State} (h : s.Within K sB) (e : Fin 16) (k_flt : K .flt := by assumption) (k_ldg : K .ldg := by assumption) : Completes (execEpochStuck e s) (fun t => t.Within K sB) := by
  unfold execEpochStuck
  repeat' first
    | with_reducible refine completes_within _ ?_
    | with_reducible exact h
    | with_reducible assumption
    | simp only [↓within_ldg k_ldg]
    | with_reducible apply State.raise_within
    | with_reducible apply ok_within
    | intro _
    | refine fst_within (by assumption) ?_
    | refine snd_within (by assumption) ?_
    | split
    | dsimp only


theorem execSourceTimeout_within {s : State} (h : s.Within K sB) (d : Fin 2) (k_words : K .words := by assumption) (k_ctrs : K .ctrs := by assumption) (k_flt : K .flt := by assumption) (k_hrl : K .hrl := by assumption) (k_tly : K .tly := by assumption) : Completes (execSourceTimeout d s) (fun t => t.Within K sB) := by
  unfold execSourceTimeout
  repeat' first
    | with_reducible refine completes_within _ ?_
    | with_reducible exact h
    | with_reducible assumption
    | with_reducible apply State.raise_within
    | with_reducible apply ok_within
    | with_reducible apply State.setDomState_within
    | with_reducible apply State.autoSwitch_within
    | with_reducible apply State.setFreq_within
    | with_reducible apply State.setDom_within
    | with_reducible apply State.inc_within
    | with_reducible apply State.onset_within
    | intro _
    | refine fst_within (by assumption) ?_
    | refine snd_within (by assumption) ?_
    | split
    | dsimp only


theorem execWtrExpiry_within {s : State} (h : s.Within K sB) (k_words : K .words := by assumption) (k_ctrs : K .ctrs := by assumption) (k_flt : K .flt := by assumption) (k_hrl : K .hrl := by assumption) (k_tly : K .tly := by assumption) : Completes (execWtrExpiry s) (fun t => t.Within K sB) := by
  unfold execWtrExpiry
  repeat' first
    | with_reducible refine completes_within _ ?_
    | with_reducible exact h
    | with_reducible assumption
    | with_reducible apply ok_within
    | with_reducible apply State.switchOut_within
    | intro _
    | refine fst_within (by assumption) ?_
    | refine snd_within (by assumption) ?_
    | split
    | dsimp only


theorem execPpsInEdge_within {s : State} (h : s.Within K sB) (i : Fin 2) (k_words : K .words := by assumption) (k_ctrs : K .ctrs := by assumption) (k_flt : K .flt := by assumption) (k_pon : K .pon := by assumption) (k_pm : K .pm := by assumption) (k_hrl : K .hrl := by assumption) (k_tly : K .tly := by assumption) : Completes (execPpsInEdge i s) (fun t => t.Within K sB) := by
  unfold execPpsInEdge
  repeat' first
    | with_reducible refine completes_within _ ?_
    | with_reducible exact h
    | with_reducible assumption
    | with_reducible apply State.inc_within
    | with_reducible apply ok_within
    | with_reducible apply State.setPpsIn_within
    | with_reducible apply State.raise_within
    | with_reducible apply State.acquire_within
    | with_reducible apply State.domSample_within
    | with_reducible apply foldl_within
    | intro _
    | refine fst_within (by assumption) ?_
    | refine snd_within (by assumption) ?_
    | split
    | dsimp only


theorem execPpsMissed_within {s : State} (h : s.Within K sB) (i : Fin 2) (k_ctrs : K .ctrs := by assumption) (k_flt : K .flt := by assumption) (k_hrl : K .hrl := by assumption) (k_tly : K .tly := by assumption) : Completes (execPpsMissed i s) (fun t => t.Within K sB) := by
  unfold execPpsMissed
  repeat' first
    | with_reducible refine completes_within _ ?_
    | with_reducible exact h
    | with_reducible assumption
    | with_reducible apply ok_within
    | with_reducible apply State.setPpsIn_within
    | with_reducible apply State.inc_within
    | with_reducible apply State.raise_within
    | intro _
    | refine fst_within (by assumption) ?_
    | refine snd_within (by assumption) ?_
    | split
    | dsimp only


theorem execTodMessageRx_within {s : State} (h : s.Within K sB) (i : Fin 2) (bytes : List Byte) (k_ctrs : K .ctrs := by assumption) (k_flt : K .flt := by assumption) (k_hrl : K .hrl := by assumption) (k_tly : K .tly := by assumption) : Completes (execTodMessageRx i bytes s) (fun t => t.Within K sB) := by
  unfold execTodMessageRx
  repeat' first
    | with_reducible refine completes_within _ ?_
    | with_reducible exact h
    | with_reducible assumption
    | with_reducible apply State.setPpsIn_within
    | with_reducible apply State.inc_within
    | with_reducible apply State.raise_within
    | with_reducible apply ok_within
    | intro _
    | refine fst_within (by assumption) ?_
    | refine snd_within (by assumption) ?_
    | split
    | dsimp only


theorem execPpsOutEdge_within {s : State} (h : s.Within K sB) (k_hrl : K .hrl := by assumption) : Completes (execPpsOutEdge s) (fun t => t.Within K sB) := by
  unfold execPpsOutEdge
  repeat' first
    | with_reducible refine completes_within _ ?_
    | with_reducible exact h
    | with_reducible assumption
    | simp only [↓within_hrl k_hrl]
    | with_reducible apply ok_within
    | intro _
    | refine fst_within (by assumption) ?_
    | refine snd_within (by assumption) ?_
    | split
    | dsimp only


theorem execTodOutSend_within {s : State} (h : s.Within K sB) (k_hrl : K .hrl := by assumption) : Completes (execTodOutSend s) (fun t => t.Within K sB) := by
  unfold execTodOutSend
  repeat' first
    | with_reducible refine completes_within _ ?_
    | with_reducible exact h
    | with_reducible assumption
    | simp only [↓within_hrl k_hrl]
    | with_reducible apply State.lock_within
    | with_reducible apply ok_within
    | intro _
    | refine fst_within (by assumption) ?_
    | refine snd_within (by assumption) ?_
    | split
    | dsimp only


theorem execCtiRecordTake_within {s : State} (h : s.Within K sB) (k_ctrs : K .ctrs := by assumption) (k_whf : K .whf := by assumption) (k_tly : K .tly := by assumption) : Completes (execCtiRecordTake s) (fun t => t.Within K sB) := by
  unfold execCtiRecordTake
  repeat' first
    | with_reducible refine completes_within _ ?_
    | with_reducible exact h
    | with_reducible assumption
    | simp only [↓within_whf k_whf]
    | with_reducible apply ok_within
    | with_reducible apply State.inc_within
    | intro _
    | refine fst_within (by assumption) ?_
    | refine snd_within (by assumption) ?_
    | split
    | dsimp only


theorem execTodAnnounce_within {s : State} (h : s.Within K sB) (p : Fin 32) (slot : Fin 256) (k_ctrs : K .ctrs := by assumption) (k_hrl : K .hrl := by assumption) (k_tly : K .tly := by assumption) : Completes (execTodAnnounce p slot s) (fun t => t.Within K sB) := by
  unfold execTodAnnounce
  repeat' first
    | with_reducible refine completes_within _ ?_
    | with_reducible exact h
    | with_reducible assumption
    | simp only [↓within_hrl k_hrl]
    | with_reducible apply ok_within
    | with_reducible apply State.inc_within
    | intro _
    | refine fst_within (by assumption) ?_
    | refine snd_within (by assumption) ?_
    | split
    | dsimp only


theorem execPonFreqMeasure_within {s : State} (h : s.Within K sB) (y : BitVec 32) (k_words : K .words := by assumption) (k_flt : K .flt := by assumption) : Completes (execPonFreqMeasure y s) (fun t => t.Within K sB) := by
  unfold execPonFreqMeasure
  repeat' first
    | with_reducible refine completes_within _ ?_
    | with_reducible exact h
    | with_reducible assumption
    | with_reducible apply State.wr_within
    | with_reducible apply ok_within
    | with_reducible apply State.onset_within
    | with_reducible apply State.endCause_within
    | intro _
    | refine fst_within (by assumption) ?_
    | refine snd_within (by assumption) ?_
    | split
    | dsimp only


theorem execSynceSquelch_within {s : State} (h : s.Within K sB) (o : Fin 2) (k_ctrs : K .ctrs := by assumption) (k_flt : K .flt := by assumption) (k_hrl : K .hrl := by assumption) (k_tly : K .tly := by assumption) : Completes (execSynceSquelch o s) (fun t => t.Within K sB) := by
  unfold execSynceSquelch
  repeat' first
    | with_reducible refine completes_within _ ?_
    | with_reducible exact h
    | with_reducible assumption
    | with_reducible apply ok_within
    | with_reducible apply State.setSquelch_within
    | with_reducible apply State.inc_within
    | with_reducible apply State.onset_within
    | intro _
    | refine fst_within (by assumption) ?_
    | refine snd_within (by assumption) ?_
    | split
    | dsimp only


theorem execSynceResume_within {s : State} (h : s.Within K sB) (o : Fin 2) (k_flt : K .flt := by assumption) (k_hrl : K .hrl := by assumption) : Completes (execSynceResume o s) (fun t => t.Within K sB) := by
  unfold execSynceResume
  repeat' first
    | with_reducible refine completes_within _ ?_
    | with_reducible exact h
    | with_reducible assumption
    | with_reducible apply ok_within
    | with_reducible apply State.setSquelch_within
    | with_reducible apply State.endCause_within
    | intro _
    | refine fst_within (by assumption) ?_
    | refine snd_within (by assumption) ?_
    | split
    | dsimp only


theorem execFaultMessageRx_within {s : State} (h : s.Within K sB) (box : Nat) (differ : Option (BitVec 8 × Bool)) (k_words : K .words := by assumption) (k_ctrs : K .ctrs := by assumption) (k_flt : K .flt := by assumption) (k_pon : K .pon := by assumption) (k_cpg : K .cpg := by assumption) (k_twn : K .twn := by assumption) (k_eng : K .eng := by assumption) (k_fwd : K .fwd := by assumption) (k_shl : K .shl := by assumption) (k_tly : K .tly := by assumption) (k_hst : K .hst := by assumption) : Completes (execFaultMessageRx box differ s) (fun t => t.Within K sB) := by
  unfold execFaultMessageRx
  repeat' first
    | with_reducible refine completes_within _ ?_
    | with_reducible exact h
    | with_reducible assumption
    | simp only [↓within_flt k_flt]
    | with_reducible apply ok_within
    | with_reducible apply State.bellman_within
    | with_reducible apply State.raise_within
    | with_reducible apply State.enterSafe_within
    | intro _
    | refine fst_within (by assumption) ?_
    | refine snd_within (by assumption) ?_
    | split
    | dsimp only


theorem execFltMsgLost_within {s : State} (h : s.Within K sB) (box : Nat) (k_flt : K .flt := by assumption) : Completes (execFltMsgLost box s) (fun t => t.Within K sB) := by
  unfold execFltMsgLost
  repeat' first
    | with_reducible refine completes_within _ ?_
    | with_reducible exact h
    | with_reducible assumption
    | simp only [↓within_flt k_flt]
    | with_reducible apply ok_within
    | with_reducible apply State.raise_within
    | intro _
    | refine fst_within (by assumption) ?_
    | refine snd_within (by assumption) ?_
    | split
    | dsimp only


theorem execSafeStateEntry_within {s : State} (h : s.Within K sB) (k_ctrs : K .ctrs := by assumption) (k_flt : K .flt := by assumption) (k_pon : K .pon := by assumption) (k_twn : K .twn := by assumption) (k_tly : K .tly := by assumption) (k_hst : K .hst := by assumption) : Completes (execSafeStateEntry s) (fun t => t.Within K sB) := by
  unfold execSafeStateEntry
  repeat' first
    | with_reducible refine completes_within _ ?_
    | with_reducible exact h
    | with_reducible assumption
    | with_reducible apply ok_within
    | with_reducible apply State.enterSafe_within
    | intro _
    | refine fst_within (by assumption) ?_
    | refine snd_within (by assumption) ?_
    | split
    | dsimp only


theorem execFilterWindowEnd_within {s : State} (h : s.Within K sB) (k : Kind) (src : Source) (k_flt : K .flt := by assumption) (k_act : K .act := by assumption) : Completes (execFilterWindowEnd k src s) (fun t => t.Within K sB) := by
  unfold execFilterWindowEnd
  repeat' first
    | with_reducible refine completes_within _ ?_
    | with_reducible exact h
    | with_reducible assumption
    | simp only [↓within_flt k_flt]
    | with_reducible apply idle_within
    | with_reducible apply ok_within
    | with_reducible apply State.setTreeSt_within
    | intro _
    | refine fst_within (by assumption) ?_
    | refine snd_within (by assumption) ?_
    | split
    | dsimp only


theorem execHandshakeStall_within {s : State} (h : s.Within K sB) (src : Source) (stage : BitVec 16) (k_flt : K .flt := by assumption) : Completes (execHandshakeStall src stage s) (fun t => t.Within K sB) := by
  unfold execHandshakeStall
  repeat' first
    | with_reducible refine completes_within _ ?_
    | with_reducible exact h
    | with_reducible assumption
    | with_reducible apply ok_within
    | with_reducible apply State.raise_within
    | intro _
    | refine fst_within (by assumption) ?_
    | refine snd_within (by assumption) ?_
    | split
    | dsimp only


theorem execKindCfgWrite_within {s : State} (h : s.Within K sB) (ag : Agent) (k : Fin 256) (v : Word) (k_words : K .words := by assumption) (k_ctrs : K .ctrs := by assumption) (k_free : K .free := by assumption) (k_flt : K .flt := by assumption) (k_tly : K .tly := by assumption) (k_hst : K .hst := by assumption) : Completes (execKindCfgWrite ag k v s) (fun t => t.Within K sB) := by
  unfold execKindCfgWrite
  repeat' first
    | with_reducible refine completes_within _ ?_
    | with_reducible exact h
    | with_reducible assumption
    | with_reducible apply ok_within
    | with_reducible apply State.kindWrite_within
    | intro _
    | refine fst_within (by assumption) ?_
    | refine snd_within (by assumption) ?_
    | split
    | dsimp only


theorem execKindStatusClear_within {s : State} (h : s.Within K sB) (ag : Agent) (k : Fin 256) (v : Word) (k_words : K .words := by assumption) (k_ctrs : K .ctrs := by assumption) (k_free : K .free := by assumption) (k_flt : K .flt := by assumption) (k_act : K .act := by assumption) (k_tly : K .tly := by assumption) (k_hst : K .hst := by assumption) : Completes (execKindStatusClear ag k v s) (fun t => t.Within K sB) := by
  unfold execKindStatusClear
  repeat' first
    | with_reducible refine completes_within _ ?_
    | with_reducible exact h
    | with_reducible assumption
    | with_reducible apply ok_within
    | with_reducible apply State.kindClear_within
    | intro _
    | refine fst_within (by assumption) ?_
    | refine snd_within (by assumption) ?_
    | split
    | dsimp only


theorem execIsoRestore_within {s : State} (h : s.Within K sB) (ag : Agent) (v : Word) (k_words : K .words := by assumption) (k_ctrs : K .ctrs := by assumption) (k_free : K .free := by assumption) (k_flt : K .flt := by assumption) (k_tly : K .tly := by assumption) (k_wdn : K .wdn := by assumption) (k_hst : K .hst := by assumption) : Completes (execIsoRestore ag v s) (fun t => t.Within K sB) := by
  unfold execIsoRestore
  repeat' first
    | with_reducible refine completes_within _ ?_
    | with_reducible exact h
    | with_reducible assumption
    | with_reducible apply ok_within
    | with_reducible apply State.isoCmd_within
    | intro _
    | refine fst_within (by assumption) ?_
    | refine snd_within (by assumption) ?_
    | split
    | dsimp only


theorem execRestartAgeOut_within {s : State} (h : s.Within K sB) (k_flt : K .flt := by assumption) : Completes (execRestartAgeOut s) (fun t => t.Within K sB) := by
  unfold execRestartAgeOut
  repeat' first
    | with_reducible refine completes_within _ ?_
    | with_reducible exact h
    | with_reducible assumption
    | simp only [↓within_flt k_flt]
    | with_reducible apply ok_within
    | intro _
    | refine fst_within (by assumption) ?_
    | refine snd_within (by assumption) ?_
    | split
    | dsimp only


theorem execAnalogCauseOnset_within {s : State} (h : s.Within K sB) (c : AnalogCause) (k_words : K .words := by assumption) (k_ctrs : K .ctrs := by assumption) (k_free : K .free := by assumption) (k_flt : K .flt := by assumption) (k_keys : K .keys := by assumption) (k_shl : K .shl := by assumption) (k_tly : K .tly := by assumption) : Completes (execAnalogCauseOnset c s) (fun t => t.Within K sB) := by
  unfold execAnalogCauseOnset
  repeat' first
    | with_reducible refine completes_within _ ?_
    | with_reducible exact h
    | with_reducible assumption
    | with_reducible apply ok_within
    | with_reducible apply State.anaOnset_within
    | intro _
    | refine fst_within (by assumption) ?_
    | refine snd_within (by assumption) ?_
    | split
    | dsimp only


theorem execAnalogCauseEnd_within {s : State} (h : s.Within K sB) (c : AnalogCause) (k_words : K .words := by assumption) (k_flt : K .flt := by assumption) : Completes (execAnalogCauseEnd c s) (fun t => t.Within K sB) := by
  unfold execAnalogCauseEnd
  repeat' first
    | with_reducible refine completes_within _ ?_
    | with_reducible exact h
    | with_reducible assumption
    | with_reducible apply ok_within
    | with_reducible apply State.endCause_within
    | with_reducible apply State.alarmBits_within
    | intro _
    | refine fst_within (by assumption) ?_
    | refine snd_within (by assumption) ?_
    | split
    | dsimp only


theorem execTempSample_within {s : State} (h : s.Within K sB) (i : Fin 16) (t : BitVec 8) (k_words : K .words := by assumption) (k_ctrs : K .ctrs := by assumption) (k_free : K .free := by assumption) (k_flt : K .flt := by assumption) (k_pon : K .pon := by assumption) (k_keys : K .keys := by assumption) (k_shl : K .shl := by assumption) (k_tly : K .tly := by assumption) : Completes (execTempSample i t s) (fun t => t.Within K sB) := by
  unfold execTempSample
  repeat' first
    | with_reducible refine completes_within _ ?_
    | with_reducible exact h
    | with_reducible assumption
    | simp only [↓within_pon k_pon]
    | with_reducible apply State.coolPresets_within
    | with_reducible apply State.anaOnset_within
    | with_reducible apply State.endCause_within
    | with_reducible apply ok_within
    | with_reducible apply State.alarmBits_within
    | intro _
    | refine fst_within (by assumption) ?_
    | refine snd_within (by assumption) ?_
    | split
    | dsimp only


theorem execTallyConfigWrite_within {s : State} (h : s.Within K sB) (ag : Agent) (i : Fin 4096) (v : Word) (k_words : K .words := by assumption) (k_ctrs : K .ctrs := by assumption) (k_flt : K .flt := by assumption) (k_tly : K .tly := by assumption) : Completes (execTallyConfigWrite ag i v s) (fun t => t.Within K sB) := by
  unfold execTallyConfigWrite
  repeat' first
    | with_reducible refine completes_within _ ?_
    | with_reducible exact h
    | with_reducible assumption
    | with_reducible apply ok_within
    | with_reducible apply State.tlyGate_within
    | with_reducible apply State.tlyApply_within
    | intro _
    | refine fst_within (by assumption) ?_
    | refine snd_within (by assumption) ?_
    | split
    | dsimp only


theorem execSnapshotDone_within {s : State} (h : s.Within K sB) (skew : Fin 2001) (k_words : K .words := by assumption) (k_ctrs : K .ctrs := by assumption) (k_free : K .free := by assumption) (k_flt : K .flt := by assumption) (k_cpg : K .cpg := by assumption) (k_tly : K .tly := by assumption) (k_hst : K .hst := by assumption) : Completes (execSnapshotDone skew s) (fun t => t.Within K sB) := by
  unfold execSnapshotDone
  repeat' first
    | with_reducible refine completes_within _ ?_
    | with_reducible exact h
    | with_reducible assumption
    | simp only [↓within_tly k_tly]
    | with_reducible apply ok_within
    | with_reducible apply State.wr_within
    | with_reducible apply State.inc_within
    | with_reducible apply State.msi_within
    | with_reducible apply State.toTelemetry_within
    | with_reducible apply State.sendSnapshot_within
    | intro _
    | refine fst_within (by assumption) ?_
    | refine snd_within (by assumption) ?_
    | split
    | dsimp only


theorem execSnapPeriodic_within {s : State} (h : s.Within K sB) (k_words : K .words := by assumption) (k_ctrs : K .ctrs := by assumption) (k_tly : K .tly := by assumption) : Completes (execSnapPeriodic s) (fun t => t.Within K sB) := by
  unfold execSnapPeriodic
  repeat' first
    | with_reducible refine completes_within _ ?_
    | with_reducible exact h
    | with_reducible assumption
    | with_reducible apply ok_within
    | with_reducible apply State.snapTrigger_within
    | intro _
    | refine fst_within (by assumption) ?_
    | refine snd_within (by assumption) ?_
    | split
    | dsimp only


theorem execPmSecondEnd_within {s : State} (h : s.Within K sB) (k_words : K .words := by assumption) (k_ctrs : K .ctrs := by assumption) (k_pm : K .pm := by assumption) (k_twn : K .twn := by assumption) (k_tly : K .tly := by assumption) (k_hst : K .hst := by assumption) : Completes (execPmSecondEnd s) (fun t => t.Within K sB) := by
  unfold execPmSecondEnd
  repeat' first
    | with_reducible refine completes_within _ ?_
    | with_reducible exact h
    | with_reducible assumption
    | with_reducible apply State.pmPortUp_within
    | with_reducible apply State.pmOnus_within
    | with_reducible apply State.pmDown_within
    | with_reducible apply State.pmSkip_within
    | with_reducible apply State.pmInterval_within
    | with_reducible apply ok_within
    | with_reducible apply State.snapTrigger_within
    | with_reducible apply State.pmFresh_within
    | with_reducible apply foldl_within
    | intro _
    | refine fst_within (by assumption) ?_
    | refine snd_within (by assumption) ?_
    | split
    | dsimp only


theorem execDsReportRequest_within {s : State} (h : s.Within K sB) (k_pm : K .pm := by assumption) : Completes (execDsReportRequest s) (fun t => t.Within K sB) := by
  unfold execDsReportRequest
  repeat' first
    | with_reducible refine completes_within _ ?_
    | with_reducible exact h
    | with_reducible assumption
    | simp only [↓within_pm k_pm]
    | with_reducible apply ok_within
    | with_reducible apply foldl_within
    | intro _
    | refine fst_within (by assumption) ?_
    | refine snd_within (by assumption) ?_
    | split
    | dsimp only


theorem execDsReport_within {s : State} (h : s.Within K sB) (p : Fin 32) (slot : Fin 256) (cw unc hec lost : Nat) (k_words : K .words := by assumption) (k_ctrs : K .ctrs := by assumption) (k_pm : K .pm := by assumption) (k_tly : K .tly := by assumption) (k_hst : K .hst := by assumption) : Completes (execDsReport p slot cw unc hec lost s) (fun t => t.Within K sB) := by
  unfold execDsReport
  repeat' first
    | with_reducible refine completes_within _ ?_
    | with_reducible exact h
    | with_reducible assumption
    | with_reducible apply ok_within
    | with_reducible apply State.setAsked_within
    | with_reducible apply State.dsApply_within
    | with_reducible apply State.inc_within
    | with_reducible apply State.dsSettle_within
    | intro _
    | refine fst_within (by assumption) ?_
    | refine snd_within (by assumption) ?_
    | split
    | dsimp only


theorem execDsReportMissing_within {s : State} (h : s.Within K sB) (p : Fin 32) (slot : Fin 256) (k_words : K .words := by assumption) (k_ctrs : K .ctrs := by assumption) (k_free : K .free := by assumption) (k_pm : K .pm := by assumption) (k_tly : K .tly := by assumption) (k_hst : K .hst := by assumption) : Completes (execDsReportMissing p slot s) (fun t => t.Within K sB) := by
  unfold execDsReportMissing
  repeat' first
    | with_reducible refine completes_within _ ?_
    | with_reducible exact h
    | with_reducible assumption
    | with_reducible apply ok_within
    | with_reducible apply State.setAsked_within
    | with_reducible apply State.dsApply_within
    | with_reducible apply State.inc_within
    | with_reducible apply State.takeFree_within
    | with_reducible apply State.pmLog_within
    | with_reducible apply State.dsSettle_within
    | intro _
    | refine fst_within (by assumption) ?_
    | refine snd_within (by assumption) ?_
    | split
    | dsimp only


theorem execSnap_within {s : State} (h : s.Within K sB) (ag : Agent) (v : Word) (k_words : K .words := by assumption) (k_ctrs : K .ctrs := by assumption) (k_free : K .free := by assumption) (k_flt : K .flt := by assumption) (k_pm : K .pm := by assumption) (k_tly : K .tly := by assumption) : Completes (execSnap ag v s) (fun t => t.Within K sB) := by
  unfold execSnap
  repeat' first
    | with_reducible refine completes_within _ ?_
    | with_reducible exact h
    | with_reducible assumption
    | with_reducible apply ok_within
    | with_reducible apply State.tlyCtrl_within
    | intro _
    | refine fst_within (by assumption) ?_
    | refine snd_within (by assumption) ?_
    | split
    | dsimp only


theorem execPmClear_within {s : State} (h : s.Within K sB) (ag : Agent) (v : Word) (k_words : K .words := by assumption) (k_ctrs : K .ctrs := by assumption) (k_free : K .free := by assumption) (k_flt : K .flt := by assumption) (k_pm : K .pm := by assumption) (k_tly : K .tly := by assumption) : Completes (execPmClear ag v s) (fun t => t.Within K sB) := by
  unfold execPmClear
  repeat' first
    | with_reducible refine completes_within _ ?_
    | with_reducible exact h
    | with_reducible assumption
    | with_reducible apply ok_within
    | with_reducible apply State.tlyCtrl_within
    | intro _
    | refine fst_within (by assumption) ?_
    | refine snd_within (by assumption) ?_
    | split
    | dsimp only


theorem execPmClearAll_within {s : State} (h : s.Within K sB) (ag : Agent) (v : Word) (k_words : K .words := by assumption) (k_ctrs : K .ctrs := by assumption) (k_free : K .free := by assumption) (k_flt : K .flt := by assumption) (k_pm : K .pm := by assumption) (k_tly : K .tly := by assumption) : Completes (execPmClearAll ag v s) (fun t => t.Within K sB) := by
  unfold execPmClearAll
  repeat' first
    | with_reducible refine completes_within _ ?_
    | with_reducible exact h
    | with_reducible assumption
    | with_reducible apply ok_within
    | with_reducible apply State.tlyCtrl_within
    | intro _
    | refine fst_within (by assumption) ?_
    | refine snd_within (by assumption) ?_
    | split
    | dsimp only


theorem execResetRelease_within {s : State} (h : s.Within K sB) (k_words : K .words := by assumption) (k_ctrs : K .ctrs := by assumption) (k_now : K .now := by assumption) (k_free : K .free := by assumption) (k_flt : K .flt := by assumption) (k_cpg : K .cpg := by assumption) (k_keys : K .keys := by assumption) (k_twn : K .twn := by assumption) (k_shl : K .shl := by assumption) (k_tly : K .tly := by assumption) (k_boot : K .boot := by assumption) : Completes (execResetRelease s) (fun t => t.Within K sB) := by
  unfold execResetRelease
  refine completes_within _ (ite_within h ?_)
  extract_lets _ s1 s2 m
  have h1 : s1.Within K sB := (within_now_boot k_now k_boot _ _).2 h
  have h2 : s2.Within K sB := foldl_within _ _ (State.loadOtp_within h1) (fun t n ht => ite_within (State.toDetect_within ht ..) ht)
  exact ite_within h2 (State.eraseKeys_within (State.alarmBits_within h2) ..)


theorem execTxdisSample_within {s : State} (h : s.Within K sB) (present : BitVec 64) (k_words : K .words := by assumption) (k_boot : K .boot := by assumption) : Completes (execTxdisSample present s) (fun t => t.Within K sB) := by
  unfold execTxdisSample
  repeat' first
    | with_reducible refine completes_within _ ?_
    | with_reducible exact h
    | with_reducible assumption
    | simp only [↓within_boot k_boot]
    | with_reducible apply ok_within
    | with_reducible apply State.putWord_within
    | intro _
    | refine fst_within (by assumption) ?_
    | refine snd_within (by assumption) ?_
    | split
    | dsimp only


theorem execStrapLatch_within {s : State} (h : s.Within K sB) (mxp : BitVec 16) (k_words : K .words := by assumption) (k_ctrs : K .ctrs := by assumption) (k_free : K .free := by assumption) (k_flt : K .flt := by assumption) (k_cpg : K .cpg := by assumption) (k_twn : K .twn := by assumption) (k_shl : K .shl := by assumption) (k_tly : K .tly := by assumption) (k_boot : K .boot := by assumption) : Completes (execStrapLatch mxp s) (fun t => t.Within K sB) := by
  unfold execStrapLatch
  repeat' first
    | with_reducible refine completes_within _ ?_
    | with_reducible exact h
    | with_reducible assumption
    | simp only [↓within_shl k_shl, ↓within_boot k_boot]
    | with_reducible apply ok_within
    | with_reducible apply State.wr_within
    | with_reducible apply State.raise_within
    | with_reducible apply State.claim_within
    | with_reducible apply State.nextBank_within
    | with_reducible apply State.takeRoles_within
    | intro _
    | refine fst_within (by assumption) ?_
    | refine snd_within (by assumption) ?_
    | split
    | dsimp only


theorem execEnterS1_within {s : State} (h : s.Within K sB) (trained : BitVec 16) (k_words : K .words := by assumption) (k_free : K .free := by assumption) (k_flt : K .flt := by assumption) (k_hst : K .hst := by assumption) : Completes (execEnterS1 trained s) (fun t => t.Within K sB) := by
  unfold execEnterS1
  repeat' first
    | with_reducible refine completes_within _ ?_
    | with_reducible exact h
    | with_reducible assumption
    | with_reducible apply ok_within
    | with_reducible apply State.memEcc_within
    | with_reducible apply State.setStage_within
    | with_reducible apply State.enablePort_within
    | with_reducible apply foldl_within
    | intro _
    | refine fst_within (by assumption) ?_
    | refine snd_within (by assumption) ?_
    | split
    | dsimp only


theorem execStageLate_within {s : State} (h : s.Within K sB) (k_flt : K .flt := by assumption) : Completes (execStageLate s) (fun t => t.Within K sB) := by
  unfold execStageLate
  repeat' first
    | with_reducible refine completes_within _ ?_
    | with_reducible exact h
    | with_reducible assumption
    | with_reducible apply ok_within
    | with_reducible apply State.raise_within
    | intro _
    | refine fst_within (by assumption) ?_
    | refine snd_within (by assumption) ?_
    | split
    | dsimp only


theorem execEnterS3_within {s : State} (h : s.Within K sB) (k_words : K .words := by assumption) (k_hst : K .hst := by assumption) : Completes (execEnterS3 s) (fun t => t.Within K sB) := by
  unfold execEnterS3
  repeat' first
    | with_reducible refine completes_within _ ?_
    | with_reducible exact h
    | with_reducible assumption
    | with_reducible apply ok_within
    | with_reducible apply State.setStage_within
    | with_reducible apply State.wr_within
    | intro _
    | refine fst_within (by assumption) ?_
    | refine snd_within (by assumption) ?_
    | split
    | dsimp only


theorem execMxpStatusUpdate_within {s : State} (h : s.Within K sB) (k_boot : K .boot := by assumption) : Completes (execMxpStatusUpdate s) (fun t => t.Within K sB) := by
  unfold execMxpStatusUpdate
  repeat' first
    | with_reducible refine completes_within _ ?_
    | with_reducible exact h
    | with_reducible assumption
    | simp only [↓within_boot k_boot]
    | with_reducible apply ok_within
    | intro _
    | refine fst_within (by assumption) ?_
    | refine snd_within (by assumption) ?_
    | split
    | dsimp only


theorem execMxpFaultToggle_within {s : State} (h : s.Within K sB) (k_flt : K .flt := by assumption) : Completes (execMxpFaultToggle s) (fun t => t.Within K sB) := by
  unfold execMxpFaultToggle
  repeat' first
    | with_reducible refine completes_within _ ?_
    | with_reducible exact h
    | with_reducible assumption
    | simp only [↓within_flt k_flt]
    | with_reducible apply ok_within
    | intro _
    | refine fst_within (by assumption) ?_
    | refine snd_within (by assumption) ?_
    | split
    | dsimp only


theorem execHostImage_within {s : State} (h : s.Within K sB) (ag : Agent) (v : Word) (k_words : K .words := by assumption) (k_ctrs : K .ctrs := by assumption) (k_free : K .free := by assumption) (k_flt : K .flt := by assumption) (k_tly : K .tly := by assumption) (k_boot : K .boot := by assumption) (k_hst : K .hst := by assumption) : Completes (execHostImage ag v s) (fun t => t.Within K sB) := by
  unfold execHostImage
  repeat' first
    | with_reducible refine completes_within _ ?_
    | with_reducible exact h
    | with_reducible assumption
    | with_reducible apply ok_within
    | with_reducible apply State.bootCmd_within
    | intro _
    | refine fst_within (by assumption) ?_
    | refine snd_within (by assumption) ?_
    | split
    | dsimp only


theorem execSvnCommit_within {s : State} (h : s.Within K sB) (ag : Agent) (v : Word) (k_words : K .words := by assumption) (k_ctrs : K .ctrs := by assumption) (k_free : K .free := by assumption) (k_flt : K .flt := by assumption) (k_tly : K .tly := by assumption) (k_boot : K .boot := by assumption) (k_hst : K .hst := by assumption) : Completes (execSvnCommit ag v s) (fun t => t.Within K sB) := by
  unfold execSvnCommit
  repeat' first
    | with_reducible refine completes_within _ ?_
    | with_reducible exact h
    | with_reducible assumption
    | with_reducible apply ok_within
    | with_reducible apply State.bootCmd_within
    | intro _
    | refine fst_within (by assumption) ?_
    | refine snd_within (by assumption) ?_
    | split
    | dsimp only


theorem execFlashErase_within {s : State} (h : s.Within K sB) (ag : Agent) (v : Word) (err : Bool) (k_words : K .words := by assumption) (k_ctrs : K .ctrs := by assumption) (k_free : K .free := by assumption) (k_flt : K .flt := by assumption) (k_tly : K .tly := by assumption) (k_boot : K .boot := by assumption) (k_hst : K .hst := by assumption) : Completes (execFlashErase ag v err s) (fun t => t.Within K sB) := by
  unfold execFlashErase
  repeat' first
    | with_reducible refine completes_within _ ?_
    | with_reducible exact h
    | with_reducible assumption
    | with_reducible apply ok_within
    | with_reducible apply State.bootCmd_within
    | intro _
    | refine fst_within (by assumption) ?_
    | refine snd_within (by assumption) ?_
    | split
    | dsimp only


theorem execFlashProgram_within {s : State} (h : s.Within K sB) (ag : Agent) (v : Word) (err : Bool) (k_words : K .words := by assumption) (k_ctrs : K .ctrs := by assumption) (k_free : K .free := by assumption) (k_flt : K .flt := by assumption) (k_tly : K .tly := by assumption) (k_boot : K .boot := by assumption) (k_hst : K .hst := by assumption) : Completes (execFlashProgram ag v err s) (fun t => t.Within K sB) := by
  unfold execFlashProgram
  repeat' first
    | with_reducible refine completes_within _ ?_
    | with_reducible exact h
    | with_reducible assumption
    | with_reducible apply ok_within
    | with_reducible apply State.bootCmd_within
    | intro _
    | refine fst_within (by assumption) ?_
    | refine snd_within (by assumption) ?_
    | split
    | dsimp only


theorem execOmciResponseRx_within {s : State} (h : s.Within K sB) (p : Fin 32) (slot : Fin 256) (good : Bool) (k_words : K .words := by assumption) (k_ctrs : K .ctrs := by assumption) (k_flt : K .flt := by assumption) (k_act : K .act := by assumption) (k_cpg : K .cpg := by assumption) (k_keys : K .keys := by assumption) (k_pm : K .pm := by assumption) (k_stw : K .stw := by assumption) (k_twn : K .twn := by assumption) (k_tly : K .tly := by assumption) : Completes (execOmciResponseRx p slot good s) (fun t => t.Within K sB) := by
  unfold execOmciResponseRx
  repeat' first
    | with_reducible refine completes_within _ ?_
    | with_reducible exact h
    | with_reducible assumption
    | with_reducible apply ok_within
    | with_reducible apply State.forSteward_within
    | with_reducible apply State.takeOmci_within
    | intro _
    | refine fst_within (by assumption) ?_
    | refine snd_within (by assumption) ?_
    | split
    | dsimp only


theorem execStwFwValidate_within {s : State} (h : s.Within K sB) (ag : Agent) (v : Word) (bad : Option (Fin 10)) (k_words : K .words := by assumption) (k_ctrs : K .ctrs := by assumption) (k_free : K .free := by assumption) (k_flt : K .flt := by assumption) (k_act : K .act := by assumption) (k_stw : K .stw := by assumption) (k_twn : K .twn := by assumption) (k_tly : K .tly := by assumption) (k_boot : K .boot := by assumption) : Completes (execStwFwValidate ag v bad s) (fun t => t.Within K sB) := by
  unfold execStwFwValidate
  repeat' first
    | with_reducible refine completes_within _ ?_
    | with_reducible exact h
    | with_reducible assumption
    | with_reducible apply ok_within
    | with_reducible apply State.fwCtrl_within
    | intro _
    | refine fst_within (by assumption) ?_
    | refine snd_within (by assumption) ?_
    | split
    | dsimp only


theorem execStwFwSwitch_within {s : State} (h : s.Within K sB) (ag : Agent) (v : Word) (k_words : K .words := by assumption) (k_ctrs : K .ctrs := by assumption) (k_free : K .free := by assumption) (k_flt : K .flt := by assumption) (k_act : K .act := by assumption) (k_stw : K .stw := by assumption) (k_twn : K .twn := by assumption) (k_tly : K .tly := by assumption) (k_boot : K .boot := by assumption) : Completes (execStwFwSwitch ag v s) (fun t => t.Within K sB) := by
  unfold execStwFwSwitch
  repeat' first
    | with_reducible refine completes_within _ ?_
    | with_reducible exact h
    | with_reducible assumption
    | with_reducible apply ok_within
    | with_reducible apply State.fwCtrl_within
    | intro _
    | refine fst_within (by assumption) ?_
    | refine snd_within (by assumption) ?_
    | split
    | dsimp only


theorem execStwFwReady_within {s : State} (h : s.Within K sB) (k_words : K .words := by assumption) (k_ctrs : K .ctrs := by assumption) (k_flt : K .flt := by assumption) (k_pon : K .pon := by assumption) (k_act : K .act := by assumption) (k_cpg : K .cpg := by assumption) (k_keys : K .keys := by assumption) (k_pm : K .pm := by assumption) (k_stw : K .stw := by assumption) (k_twn : K .twn := by assumption) (k_hrl : K .hrl := by assumption) (k_tly : K .tly := by assumption) (k_hst : K .hst := by assumption) : Completes (execStwFwReady s) (fun t => t.Within K sB) := by
  unfold execStwFwReady
  repeat' first
    | with_reducible refine completes_within _ ?_
    | with_reducible exact h
    | with_reducible assumption
    | simp only [↓within_stw k_stw]
    | with_reducible apply ok_within
    | with_reducible apply State.wr_within
    | with_reducible apply State.sendRangingTime_within
    | with_reducible apply State.setTreeSt_within
    | with_reducible apply State.actCmd_within
    | with_reducible apply State.takeMsg_within
    | with_reducible apply State.coverBack_within
    | with_reducible apply foldl_within
    | intro _
    | refine fst_within (by assumption) ?_
    | refine snd_within (by assumption) ?_
    | split
    | dsimp only


theorem execStwFwFallback_within {s : State} (h : s.Within K sB) (k_words : K .words := by assumption) (k_ctrs : K .ctrs := by assumption) (k_flt : K .flt := by assumption) (k_act : K .act := by assumption) (k_stw : K .stw := by assumption) (k_tly : K .tly := by assumption) (k_boot : K .boot := by assumption) : Completes (execStwFwFallback s) (fun t => t.Within K sB) := by
  unfold execStwFwFallback
  repeat' first
    | with_reducible refine completes_within _ ?_
    | with_reducible exact h
    | with_reducible assumption
    | with_reducible apply ok_within
    | with_reducible apply State.fwFallback_within
    | with_reducible apply State.fwSwitch_within
    | intro _
    | refine fst_within (by assumption) ?_
    | refine snd_within (by assumption) ?_
    | split
    | dsimp only


theorem execStewardWdog_within {s : State} (h : s.Within K sB) (core : Fin 4) (pc : BitVec 32) (k_words : K .words := by assumption) (k_ctrs : K .ctrs := by assumption) (k_flt : K .flt := by assumption) (k_act : K .act := by assumption) (k_stw : K .stw := by assumption) (k_tly : K .tly := by assumption) (k_boot : K .boot := by assumption) : Completes (execStewardWdog core pc s) (fun t => t.Within K sB) := by
  unfold execStewardWdog
  repeat' first
    | with_reducible refine completes_within _ ?_
    | with_reducible exact h
    | with_reducible assumption
    | simp only [↓within_boot k_boot, ↓within_stw k_stw]
    | with_reducible apply State.raise_within
    | with_reducible apply State.fwSwitch_within
    | with_reducible apply ok_within
    | with_reducible apply State.fwFallback_within
    | with_reducible apply State.inc_within
    | intro _
    | refine fst_within (by assumption) ?_
    | refine snd_within (by assumption) ?_
    | split
    | dsimp only


theorem execPcieLinkDown_within {s : State} (h : s.Within K sB) (k_words : K .words := by assumption) (k_flt : K .flt := by assumption) : Completes (execPcieLinkDown s) (fun t => t.Within K sB) := by
  unfold execPcieLinkDown
  repeat' first
    | with_reducible refine completes_within _ ?_
    | with_reducible exact h
    | with_reducible assumption
    | with_reducible apply ok_within
    | with_reducible apply State.linkDown_within
    | intro _
    | refine fst_within (by assumption) ?_
    | refine snd_within (by assumption) ?_
    | split
    | dsimp only


theorem execPcieLinkUp_within {s : State} (h : s.Within K sB) (rate : Fin 7) (width : Fin 32) (flit : Bool) (k_words : K .words := by assumption) (k_flt : K .flt := by assumption) (k_hst : K .hst := by assumption) : Completes (execPcieLinkUp rate width flit s) (fun t => t.Within K sB) := by
  unfold execPcieLinkUp
  repeat' first
    | with_reducible refine completes_within _ ?_
    | with_reducible exact h
    | with_reducible assumption
    | simp only [↓within_hst k_hst]
    | with_reducible apply ok_within
    | with_reducible apply State.wr_within
    | with_reducible apply State.seen_within
    | with_reducible apply State.endCause_within
    | with_reducible apply State.msiFlush_within
    | with_reducible apply foldl_within
    | intro _
    | refine fst_within (by assumption) ?_
    | refine snd_within (by assumption) ?_
    | split
    | dsimp only


theorem execPcieReset_within {s : State} (h : s.Within K sB) (e : PcieEvent) (k_words : K .words := by assumption) (k_flt : K .flt := by assumption) (k_hst : K .hst := by assumption) : Completes (execPcieReset e s) (fun t => t.Within K sB) := by
  unfold execPcieReset
  repeat' first
    | with_reducible refine completes_within _ ?_
    | with_reducible exact h
    | with_reducible assumption
    | with_reducible apply ok_within
    | with_reducible apply State.linkDown_within
    | with_reducible apply State.fnReset_within
    | with_reducible apply State.setFn_within
    | with_reducible apply State.msiFlush_within
    | with_reducible apply foldl_within
    | intro _
    | refine fst_within (by assumption) ?_
    | refine snd_within (by assumption) ?_
    | split
    | dsimp only


theorem execFunctionLevelReset_within {s : State} (h : s.Within K sB) (fn : Fin 33) (k_words : K .words := by assumption) (k_flt : K .flt := by assumption) (k_hst : K .hst := by assumption) : Completes (execFunctionLevelReset fn s) (fun t => t.Within K sB) := by
  unfold execFunctionLevelReset
  repeat' first
    | with_reducible refine completes_within _ ?_
    | with_reducible exact h
    | with_reducible assumption
    | with_reducible apply ok_within
    | with_reducible apply State.stopRing_within
    | with_reducible apply State.maskVectors_within
    | with_reducible apply State.raise_within
    | with_reducible apply foldl_within
    | intro _
    | refine fst_within (by assumption) ?_
    | refine snd_within (by assumption) ?_
    | split
    | dsimp only


theorem execLockOpen_within {s : State} (h : s.Within K sB) (ag : Agent) (a : BitVec 26) (v : Word) (k_words : K .words := by assumption) (k_ctrs : K .ctrs := by assumption) (k_free : K .free := by assumption) (k_flt : K .flt := by assumption) (k_tly : K .tly := by assumption) (k_boot : K .boot := by assumption) : Completes (execLockOpen ag a v s) (fun t => t.Within K sB) := by
  unfold execLockOpen
  repeat' first
    | with_reducible refine completes_within _ ?_
    | with_reducible exact h
    | with_reducible assumption
    | with_reducible apply ok_within
    | with_reducible apply State.lockWrite_within
    | intro _
    | refine fst_within (by assumption) ?_
    | refine snd_within (by assumption) ?_
    | split
    | dsimp only


theorem execLockClose_within {s : State} (h : s.Within K sB) (ag : Agent) (a : BitVec 26) (v : Word) (k_words : K .words := by assumption) (k_ctrs : K .ctrs := by assumption) (k_free : K .free := by assumption) (k_flt : K .flt := by assumption) (k_tly : K .tly := by assumption) (k_boot : K .boot := by assumption) : Completes (execLockClose ag a v s) (fun t => t.Within K sB) := by
  unfold execLockClose
  repeat' first
    | with_reducible refine completes_within _ ?_
    | with_reducible exact h
    | with_reducible assumption
    | with_reducible apply ok_within
    | with_reducible apply State.lockWrite_within
    | intro _
    | refine fst_within (by assumption) ?_
    | refine snd_within (by assumption) ?_
    | split
    | dsimp only


theorem execLockSeal_within {s : State} (h : s.Within K sB) (ag : Agent) (a : BitVec 26) (v : Word) (k_words : K .words := by assumption) (k_ctrs : K .ctrs := by assumption) (k_free : K .free := by assumption) (k_flt : K .flt := by assumption) (k_tly : K .tly := by assumption) (k_boot : K .boot := by assumption) : Completes (execLockSeal ag a v s) (fun t => t.Within K sB) := by
  unfold execLockSeal
  repeat' first
    | with_reducible refine completes_within _ ?_
    | with_reducible exact h
    | with_reducible assumption
    | with_reducible apply ok_within
    | with_reducible apply State.lockWrite_within
    | intro _
    | refine fst_within (by assumption) ?_
    | refine snd_within (by assumption) ?_
    | split
    | dsimp only


theorem execVfPortsWrite_within {s : State} (h : s.Within K sB) (ag : Agent) (vf : Fin 33) (v : Word) (k_words : K .words := by assumption) (k_ctrs : K .ctrs := by assumption) (k_free : K .free := by assumption) (k_flt : K .flt := by assumption) (k_tly : K .tly := by assumption) : Completes (execVfPortsWrite ag vf v s) (fun t => t.Within K sB) := by
  unfold execVfPortsWrite
  repeat' first
    | with_reducible refine completes_within _ ?_
    | with_reducible exact h
    | with_reducible assumption
    | with_reducible apply ok_within
    | with_reducible apply State.vfPorts_within
    | intro _
    | refine fst_within (by assumption) ?_
    | refine snd_within (by assumption) ?_
    | split
    | dsimp only


theorem execRingEnWrite_within {s : State} (h : s.Within K sB) (ag : Agent) (r : Fin 128) (v : Word) (k_words : K .words := by assumption) (k_ctrs : K .ctrs := by assumption) (k_free : K .free := by assumption) (k_flt : K .flt := by assumption) (k_tly : K .tly := by assumption) (k_hst : K .hst := by assumption) : Completes (execRingEnWrite ag r v s) (fun t => t.Within K sB) := by
  unfold execRingEnWrite
  repeat' first
    | with_reducible refine completes_within _ ?_
    | with_reducible exact h
    | with_reducible assumption
    | with_reducible apply ok_within
    | with_reducible apply State.ringCfg_within
    | intro _
    | refine fst_within (by assumption) ?_
    | refine snd_within (by assumption) ?_
    | split
    | dsimp only


theorem execRingTailWrite_within {s : State} (h : s.Within K sB) (ag : Agent) (r : Fin 128) (v : Word) (k_words : K .words := by assumption) (k_ctrs : K .ctrs := by assumption) (k_free : K .free := by assumption) (k_flt : K .flt := by assumption) (k_tly : K .tly := by assumption) : Completes (execRingTailWrite ag r v s) (fun t => t.Within K sB) := by
  unfold execRingTailWrite
  repeat' first
    | with_reducible refine completes_within _ ?_
    | with_reducible exact h
    | with_reducible assumption
    | with_reducible apply ok_within
    | with_reducible apply State.ringTail_within
    | intro _
    | refine fst_within (by assumption) ?_
    | refine snd_within (by assumption) ?_
    | split
    | dsimp only


theorem execRxRingDeliver_within {s : State} (h : s.Within K sB) (telemetry : Bool) (bufLen : BitVec 16) (k_words : K .words := by assumption) (k_ctrs : K .ctrs := by assumption) (k_free : K .free := by assumption) (k_flt : K .flt := by assumption) (k_cpg : K .cpg := by assumption) (k_fwd : K .fwd := by assumption) (k_tly : K .tly := by assumption) (k_hst : K .hst := by assumption) : Completes (execRxRingDeliver telemetry bufLen s) (fun t => t.Within K sB) := by
  unfold execRxRingDeliver
  repeat' first
    | with_reducible refine completes_within _ ?_
    | with_reducible exact h
    | with_reducible assumption
    | simp only [↓within_tly k_tly, ↓within_fwd k_fwd]
    | with_reducible apply ok_within
    | with_reducible apply State.telDeliver_within
    | with_reducible apply State.rxDeliver_within
    | intro _
    | refine fst_within (by assumption) ?_
    | refine snd_within (by assumption) ?_
    | split
    | dsimp only


theorem execTxEntry_within {s : State} (h : s.Within K sB) (r : Fin 128) (e : List (BitVec 32)) (bytes : List (BitVec 8)) (k_words : K .words := by assumption) (k_ctrs : K .ctrs := by assumption) (k_free : K .free := by assumption) (k_flt : K .flt := by assumption) (k_cpg : K .cpg := by assumption) (k_fwd : K .fwd := by assumption) (k_tly : K .tly := by assumption) (k_hst : K .hst := by assumption) : Completes (execTxEntry r e bytes s) (fun t => t.Within K sB) := by
  unfold execTxEntry
  repeat' first
    | with_reducible refine completes_within _ ?_
    | with_reducible exact h
    | with_reducible assumption
    | with_reducible apply ok_within
    | with_reducible apply State.txEntry_within
    | with_reducible apply State.advance_within
    | intro _
    | refine fst_within (by assumption) ?_
    | refine snd_within (by assumption) ?_
    | split
    | dsimp only


theorem execDmaError_within {s : State} (h : s.Within K sB) (r : Fin 128) (code : Fin 5) (k_words : K .words := by assumption) (k_ctrs : K .ctrs := by assumption) (k_flt : K .flt := by assumption) (k_cpg : K .cpg := by assumption) (k_fwd : K .fwd := by assumption) (k_tly : K .tly := by assumption) (k_hst : K .hst := by assumption) : Completes (execDmaError r code s) (fun t => t.Within K sB) := by
  unfold execDmaError
  repeat' first
    | with_reducible refine completes_within _ ?_
    | with_reducible exact h
    | with_reducible assumption
    | with_reducible apply ok_within
    | with_reducible apply State.dropInHand_within
    | with_reducible apply State.stopRing_within
    | with_reducible apply State.wr_within
    | with_reducible apply State.raise_within
    | intro _
    | refine fst_within (by assumption) ?_
    | refine snd_within (by assumption) ?_
    | split
    | dsimp only


theorem execCoalTimerExpiry_within {s : State} (h : s.Within K sB) (r : Fin 128) (k_hst : K .hst := by assumption) : Completes (execCoalTimerExpiry r s) (fun t => t.Within K sB) := by
  unfold execCoalTimerExpiry
  repeat' first
    | with_reducible refine completes_within _ ?_
    | with_reducible exact h
    | with_reducible assumption
    | with_reducible apply ok_within
    | with_reducible apply State.setRing_within
    | with_reducible apply State.ringMsi_within
    | intro _
    | refine fst_within (by assumption) ?_
    | refine snd_within (by assumption) ?_
    | split
    | dsimp only


theorem execRearm_within {s : State} (h : s.Within K sB) (ag : Agent) (v : Word) (k_words : K .words := by assumption) (k_ctrs : K .ctrs := by assumption) (k_free : K .free := by assumption) (k_flt : K .flt := by assumption) (k_tly : K .tly := by assumption) (k_hst : K .hst := by assumption) : Completes (execRearm ag v s) (fun t => t.Within K sB) := by
  unfold execRearm
  repeat' first
    | with_reducible refine completes_within _ ?_
    | with_reducible exact h
    | with_reducible assumption
    | with_reducible apply ok_within
    | with_reducible apply State.rearm_within
    | intro _
    | refine fst_within (by assumption) ?_
    | refine snd_within (by assumption) ?_
    | split
    | dsimp only


theorem execPaceWindowEnd_within {s : State} (h : s.Within K sB) (done : List (Fin 64 × Nat)) (whf : Nat) (k_words : K .words := by assumption) (k_flt : K .flt := by assumption) (k_eng : K .eng := by assumption) (k_fwd : K .fwd := by assumption) (k_wdn : K .wdn := by assumption) : Completes (execPaceWindowEnd done whf s) (fun t => t.Within K sB) := by
  unfold execPaceWindowEnd
  repeat' first
    | with_reducible refine completes_within _ ?_
    | with_reducible exact h
    | with_reducible assumption
    | with_reducible apply State.pace_within
    | with_reducible apply State.wr_within
    | with_reducible apply State.admission_within
    | with_reducible apply State.credit_within
    | with_reducible apply State.setGuild_within
    | with_reducible apply ok_within
    | with_reducible apply State.idleDispatch_within
    | with_reducible apply foldl_within
    | intro _
    | refine fst_within (by assumption) ?_
    | refine snd_within (by assumption) ?_
    | split
    | dsimp only


theorem execGoldenPassDone_within {s : State} (h : s.Within K sB) (id : Nat) (k_words : K .words := by assumption) (k_ctrs : K .ctrs := by assumption) (k_flt : K .flt := by assumption) (k_eng : K .eng := by assumption) (k_tly : K .tly := by assumption) (k_wdn : K .wdn := by assumption) : Completes (execGoldenPassDone id s) (fun t => t.Within K sB) := by
  unfold execGoldenPassDone
  repeat' first
    | with_reducible refine completes_within _ ?_
    | with_reducible exact h
    | with_reducible assumption
    | simp only [↓within_eng_wdn k_eng k_wdn]
    | with_reducible apply ok_within
    | with_reducible apply State.epochUnref_within
    | with_reducible apply State.count_within
    | with_reducible apply State.inc_within
    | with_reducible apply State.beginTest_within
    | with_reducible apply State.raise_within
    | with_reducible apply State.cycleEnd_within
    | with_reducible apply foldl_within
    | intro _
    | refine fst_within (by assumption) ?_
    | refine snd_within (by assumption) ?_
    | split
    | dsimp only


theorem execCheckDone_within {s : State} (h : s.Within K sB) (g : Fin 64) (res : List (List Nat × List Nat)) (k_words : K .words := by assumption) (k_ctrs : K .ctrs := by assumption) (k_flt : K .flt := by assumption) (k_cpg : K .cpg := by assumption) (k_eng : K .eng := by assumption) (k_fwd : K .fwd := by assumption) (k_tly : K .tly := by assumption) : Completes (execCheckDone g res s) (fun t => t.Within K sB) := by
  unfold execCheckDone
  repeat' first
    | with_reducible refine completes_within _ ?_
    | with_reducible exact h
    | with_reducible assumption
    | with_reducible apply ok_within
    | with_reducible apply State.checkPassed_within
    | with_reducible apply State.retireGuild_within
    | with_reducible apply State.raise_within
    | intro _
    | refine fst_within (by assumption) ?_
    | refine snd_within (by assumption) ?_
    | split
    | dsimp only


theorem execSramSliceTest_within {s : State} (h : s.Within K sB) (src : Source) (words : Nat) (bad : Option SliceFault) (whole : Bool) (k_words : K .words := by assumption) (k_ctrs : K .ctrs := by assumption) (k_flt : K .flt := by assumption) (k_tly : K .tly := by assumption) (k_wdn : K .wdn := by assumption) : Completes (execSramSliceTest src words bad whole s) (fun t => t.Within K sB) := by
  unfold execSramSliceTest
  repeat' first
    | with_reducible refine completes_within _ ?_
    | with_reducible exact h
    | with_reducible assumption
    | simp only [↓within_wdn k_wdn]
    | with_reducible apply ok_within
    | with_reducible apply State.count_within
    | with_reducible apply State.raise_within
    | with_reducible apply State.cycleEnd_within
    | intro _
    | refine fst_within (by assumption) ?_
    | refine snd_within (by assumption) ?_
    | split
    | dsimp only


theorem execLedgerSliceTest_within {s : State} (h : s.Within K sB) (first : Fin 65536) (n : Nat) (bad : Option (Fin 65536)) (k_words : K .words := by assumption) (k_ctrs : K .ctrs := by assumption) (k_flt : K .flt := by assumption) (k_tly : K .tly := by assumption) (k_wdn : K .wdn := by assumption) : Completes (execLedgerSliceTest first n bad s) (fun t => t.Within K sB) := by
  unfold execLedgerSliceTest
  repeat' first
    | with_reducible refine completes_within _ ?_
    | with_reducible exact h
    | with_reducible assumption
    | simp only [↓within_wdn k_wdn]
    | with_reducible apply ok_within
    | with_reducible apply State.count_within
    | with_reducible apply State.raise_within
    | with_reducible apply State.bankRows_within
    | with_reducible apply State.cycleEnd_within
    | intro _
    | refine fst_within (by assumption) ?_
    | refine snd_within (by assumption) ?_
    | split
    | dsimp only


theorem execBufferAudit_within {s : State} (h : s.Within K sB) (pool : Fin 4) (diff : BitVec 24) (k_words : K .words := by assumption) (k_ctrs : K .ctrs := by assumption) (k_flt : K .flt := by assumption) (k_cpg : K .cpg := by assumption) (k_tly : K .tly := by assumption) (k_wdn : K .wdn := by assumption) : Completes (execBufferAudit pool diff s) (fun t => t.Within K sB) := by
  unfold execBufferAudit
  repeat' first
    | with_reducible refine completes_within _ ?_
    | with_reducible exact h
    | with_reducible assumption
    | simp only [↓within_wdn k_wdn]
    | with_reducible apply ok_within
    | with_reducible apply State.raise_within
    | with_reducible apply State.freeLeak_within
    | with_reducible apply State.cycleEnd_within
    | with_reducible apply foldl_within
    | intro _
    | refine fst_within (by assumption) ?_
    | refine snd_within (by assumption) ?_
    | split
    | dsimp only


theorem execEyeScan_within {s : State} (h : s.Within K sB) (b : LaneBlock) (m : BitVec 8) (k_words : K .words := by assumption) (k_ctrs : K .ctrs := by assumption) (k_flt : K .flt := by assumption) (k_tly : K .tly := by assumption) (k_wdn : K .wdn := by assumption) : Completes (execEyeScan b m s) (fun t => t.Within K sB) := by
  unfold execEyeScan
  repeat' first
    | with_reducible refine completes_within _ ?_
    | with_reducible exact h
    | with_reducible assumption
    | simp only [↓within_wdn k_wdn]
    | with_reducible apply ok_within
    | with_reducible apply State.inc_within
    | with_reducible apply State.raise_within
    | with_reducible apply State.cycleEnd_within
    | intro _
    | refine fst_within (by assumption) ?_
    | refine snd_within (by assumption) ?_
    | split
    | dsimp only


theorem execWardenForceStart_within {s : State} (h : s.Within K sB) (k_words : K .words := by assumption) : Completes (execWardenForceStart s) (fun t => t.Within K sB) := by
  unfold execWardenForceStart
  repeat' first
    | with_reducible refine completes_within _ ?_
    | with_reducible exact h
    | with_reducible assumption
    | with_reducible apply ok_within
    | with_reducible apply State.wr_within
    | intro _
    | refine fst_within (by assumption) ?_
    | refine snd_within (by assumption) ?_
    | split
    | dsimp only


theorem execWdnLate_within {s : State} (h : s.Within K sB) (k_free : K .free := by assumption) (k_flt : K .flt := by assumption) : Completes (execWdnLate s) (fun t => t.Within K sB) := by
  unfold execWdnLate
  repeat' first
    | with_reducible refine completes_within _ ?_
    | with_reducible exact h
    | with_reducible assumption
    | with_reducible apply ok_within
    | with_reducible apply State.fresh_within
    | with_reducible apply State.onset_within
    | intro _
    | refine fst_within (by assumption) ?_
    | refine snd_within (by assumption) ?_
    | split
    | dsimp only


theorem execBurstStart_within {s : State} (h : s.Within K sB) (p : Fin 32) (sd : Side) (k_pon : K .pon := by assumption) : Completes (execBurstStart p sd s) (fun t => t.Within K sB) := by
  unfold execBurstStart
  repeat' first
    | with_reducible refine completes_within _ ?_
    | with_reducible exact h
    | with_reducible assumption
    | with_reducible apply ok_within
    | with_reducible apply State.setSide_within
    | intro _
    | refine fst_within (by assumption) ?_
    | refine snd_within (by assumption) ?_
    | split
    | dsimp only


theorem execDelimWindowClose_within {s : State} (h : s.Within K sB) (p : Fin 32) (sd : Side) (cands : List (Int × Nat)) (k_words : K .words := by assumption) (k_ctrs : K .ctrs := by assumption) (k_flt : K .flt := by assumption) (k_pon : K .pon := by assumption) (k_act : K .act := by assumption) (k_pm : K .pm := by assumption) (k_twn : K .twn := by assumption) (k_tly : K .tly := by assumption) : Completes (execDelimWindowClose p sd cands s) (fun t => t.Within K sB) := by
  unfold execDelimWindowClose
  repeat' first
    | with_reducible refine completes_within _ ?_
    | with_reducible exact h
    | with_reducible assumption
    | with_reducible apply ok_within
    | with_reducible apply State.setSide_within
    | with_reducible apply State.burstMissed_within
    | intro _
    | refine fst_within (by assumption) ?_
    | refine snd_within (by assumption) ?_
    | split
    | dsimp only


theorem execBurstEnd_within {s : State} (h : s.Within K sB) (p : Fin 32) (sd : Side) (b : BurstRx) (k_words : K .words := by assumption) (k_ctrs : K .ctrs := by assumption) (k_flt : K .flt := by assumption) (k_pon : K .pon := by assumption) (k_act : K .act := by assumption) (k_whf : K .whf := by assumption) (k_pm : K .pm := by assumption) (k_twn : K .twn := by assumption) (k_hrl : K .hrl := by assumption) (k_tly : K .tly := by assumption) :
    Completes (execBurstEnd p sd b s) (fun t => t.Within K sB) := by
  unfold execBurstEnd
  refine completes_ite_within (completes_within _ h) ?_
  extract_lets x
  split
  · extract_lets i foreign s0 s1 s2
    have h0 : s0.Within K sB := State.burstCounts_within (State.setSide_within h ..) ..
    have h1 : s1.Within K sB := State.burstTaken_within h0 ..
    have h2 : s2.Within K sB := State.offsetSeen_within h1 ..
    clear_value s2 s1 s0
    refine completes_ite_within (completes_within _ ?_) (completes_ite_within (completes_within _ ?_) (completes_ite_within (completes_within _ h2) (completes_within _ ?_)))
    · with_reducible exact State.strayWindow_within (State.burstMissed_within h0 ..) ..
    · with_reducible exact State.adjSample_within (State.deltaSample_within h1 ..) ..
    · with_reducible exact State.pktUnder_within (State.storeReports_within h2 ..) ..
  · exact completes_within _ (ite_within (State.setSide_within h ..) h)
  · exact completes_within _ h


theorem execStrayDelimiter_within {s : State} (h : s.Within K sB) (p : Fin 32) (sd : Side) (onu : Option (Fin 1024)) (off : Option Int) (isSn : Bool) (k_ctrs : K .ctrs := by assumption) (k_flt : K .flt := by assumption) (k_act : K .act := by assumption) (k_pm : K .pm := by assumption) (k_twn : K .twn := by assumption) (k_tly : K .tly := by assumption) : Completes (execStrayDelimiter p sd onu off isSn s) (fun t => t.Within K sB) := by
  unfold execStrayDelimiter
  repeat' first
    | with_reducible refine completes_within _ ?_
    | with_reducible exact h
    | with_reducible assumption
    | with_reducible apply State.inc_within
    | with_reducible apply State.strayWindow_within
    | with_reducible apply ok_within
    | with_reducible apply State.requestRerange_within
    | with_reducible apply State.setSlot_within
    | with_reducible apply State.seen_within
    | intro _
    | refine fst_within (by assumption) ?_
    | refine snd_within (by assumption) ?_
    | split
    | dsimp only


theorem execStrayEnergyEpisode_within {s : State} (h : s.Within K sB) (p : Fin 32) (sd : Side) (pos len : Nat) (k_ctrs : K .ctrs := by assumption) (k_flt : K .flt := by assumption) (k_act : K .act := by assumption) (k_tly : K .tly := by assumption) : Completes (execStrayEnergyEpisode p sd pos len s) (fun t => t.Within K sB) := by
  unfold execStrayEnergyEpisode
  repeat' first
    | with_reducible refine completes_within _ ?_
    | with_reducible exact h
    | with_reducible assumption
    | with_reducible apply ok_within
    | with_reducible apply State.strayRecord_within
    | with_reducible apply State.inc_within
    | with_reducible apply State.strayRaise_within
    | intro _
    | refine fst_within (by assumption) ?_
    | refine snd_within (by assumption) ?_
    | split
    | dsimp only


theorem execPresetWindowWrite_within {s : State} (h : s.Within K sB) (ag : Agent) (p : Fin 32) (idx : Fin 512) (valid : Bool) (k_words : K .words := by assumption) (k_ctrs : K .ctrs := by assumption) (k_flt : K .flt := by assumption) (k_pon : K .pon := by assumption) (k_tly : K .tly := by assumption) : Completes (execPresetWindowWrite ag p idx valid s) (fun t => t.Within K sB) := by
  unfold execPresetWindowWrite
  repeat' first
    | with_reducible refine completes_within _ ?_
    | with_reducible exact h
    | with_reducible assumption
    | with_reducible apply ok_within
    | with_reducible apply State.winGate_within
    | with_reducible apply State.deny_within
    | with_reducible apply State.presetStore_within
    | intro _
    | refine fst_within (by assumption) ?_
    | refine snd_within (by assumption) ?_
    | split
    | dsimp only


theorem execPresetAgeExpiry_within {s : State} (h : s.Within K sB) (p : Fin 32) (sd : Side) (slot : Fin 256) (k_pon : K .pon := by assumption) : Completes (execPresetAgeExpiry p sd slot s) (fun t => t.Within K sB) := by
  unfold execPresetAgeExpiry
  repeat' first
    | with_reducible refine completes_within _ ?_
    | with_reducible exact h
    | with_reducible assumption
    | with_reducible apply ok_within
    | with_reducible apply State.setPreset_within
    | intro _
    | refine fst_within (by assumption) ?_
    | refine snd_within (by assumption) ?_
    | split
    | dsimp only


theorem execPsyncMatch_within {s : State} (h : s.Within K sB) (p : Fin 32) (sd : Side) (pos : Nat) (sfc : Option (BitVec 51)) (k_words : K .words := by assumption) (k_ctrs : K .ctrs := by assumption) (k_pon : K .pon := by assumption) (k_tly : K .tly := by assumption) : Completes (execPsyncMatch p sd pos sfc s) (fun t => t.Within K sB) := by
  unfold execPsyncMatch
  repeat' first
    | with_reducible refine completes_within _ ?_
    | with_reducible exact h
    | with_reducible assumption
    | with_reducible apply ok_within
    | with_reducible apply State.inc_within
    | with_reducible apply State.setSide_within
    | with_reducible apply State.wr_within
    | intro _
    | refine fst_within (by assumption) ?_
    | refine snd_within (by assumption) ?_
    | split
    | dsimp only


theorem execTrackerCheck_within {s : State} (h : s.Within K sB) (p : Fin 32) (sd : Side) (pos errs : Nat) (sfc : Option (BitVec 51)) (k_words : K .words := by assumption) (k_ctrs : K .ctrs := by assumption) (k_pon : K .pon := by assumption) (k_tly : K .tly := by assumption) : Completes (execTrackerCheck p sd pos errs sfc s) (fun t => t.Within K sB) := by
  unfold execTrackerCheck
  repeat' first
    | with_reducible refine completes_within _ ?_
    | with_reducible exact h
    | with_reducible assumption
    | with_reducible apply ok_within
    | with_reducible apply State.setSide_within
    | with_reducible apply State.wr_within
    | with_reducible apply State.inc_within
    | intro _
    | refine fst_within (by assumption) ?_
    | refine snd_within (by assumption) ?_
    | split
    | dsimp only


theorem execSyncPsbdCheck_within {s : State} (h : s.Within K sB) (p : Fin 32) (sd : Side) (errs : Nat) (sfc : Option (BitVec 51)) (diff : Int) (k_words : K .words := by assumption) (k_ctrs : K .ctrs := by assumption) (k_flt : K .flt := by assumption) (k_pon : K .pon := by assumption) (k_tly : K .tly := by assumption) : Completes (execSyncPsbdCheck p sd errs sfc diff s) (fun t => t.Within K sB) := by
  unfold execSyncPsbdCheck
  repeat' first
    | with_reducible refine completes_within _ ?_
    | with_reducible exact h
    | with_reducible assumption
    | with_reducible apply ok_within
    | with_reducible apply State.inc_within
    | with_reducible apply State.setPort_within
    | with_reducible apply State.setSide_within
    | with_reducible apply State.wr_within
    | with_reducible apply State.raise_within
    | intro _
    | refine fst_within (by assumption) ?_
    | refine snd_within (by assumption) ?_
    | split
    | dsimp only


theorem execUpstreamPloamRx_within {s : State} (h : s.Within K sB) (p : Fin 32) (sd : Side) (onu : Fin 256) (omci : Bool) (msg : List Byte) (code : BitVec 64) (ack : Option (Fin 256)) (k_ctrs : K .ctrs := by assumption) (k_flt : K .flt := by assumption) (k_pon : K .pon := by assumption) (k_act : K .act := by assumption) (k_keys : K .keys := by assumption) (k_twn : K .twn := by assumption) (k_tly : K .tly := by assumption) : Completes (execUpstreamPloamRx p sd onu omci msg code ack s) (fun t => t.Within K sB) := by
  unfold execUpstreamPloamRx
  repeat' first
    | with_reducible refine completes_within _ ?_
    | with_reducible exact h
    | with_reducible assumption
    | with_reducible apply ok_within
    | with_reducible apply State.micKey_within
    | with_reducible apply State.inc_within
    | with_reducible apply State.raiseLimited_within
    | with_reducible apply State.ackRx_within
    | intro _
    | refine fst_within (by assumption) ?_
    | refine snd_within (by assumption) ?_
    | split
    | dsimp only


theorem execWinRead_within {s : State} (h : s.Within K sB) (ag : Agent) (w : Fin 106) (v : Word) (k_words : K .words := by assumption) (k_ctrs : K .ctrs := by assumption) (k_flt : K .flt := by assumption) (k_pon : K .pon := by assumption) (k_whf : K .whf := by assumption) (k_cpg : K .cpg := by assumption) (k_twn : K .twn := by assumption) (k_eng : K .eng := by assumption) (k_tly : K .tly := by assumption) (k_hst : K .hst := by assumption) : Completes (execWinRead ag w v s) (fun t => t.Within K sB) := by
  unfold execWinRead
  repeat' first
    | with_reducible refine completes_within _ ?_
    | with_reducible exact h
    | with_reducible assumption
    | with_reducible apply ok_within
    | with_reducible apply State.winCmd_within
    | intro _
    | refine fst_within (by assumption) ?_
    | refine snd_within (by assumption) ?_
    | split
    | dsimp only


theorem execWinWrite_within {s : State} (h : s.Within K sB) (ag : Agent) (w : Fin 106) (v : Word) (k_words : K .words := by assumption) (k_ctrs : K .ctrs := by assumption) (k_flt : K .flt := by assumption) (k_pon : K .pon := by assumption) (k_whf : K .whf := by assumption) (k_cpg : K .cpg := by assumption) (k_twn : K .twn := by assumption) (k_eng : K .eng := by assumption) (k_tly : K .tly := by assumption) (k_hst : K .hst := by assumption) : Completes (execWinWrite ag w v s) (fun t => t.Within K sB) := by
  unfold execWinWrite
  repeat' first
    | with_reducible refine completes_within _ ?_
    | with_reducible exact h
    | with_reducible assumption
    | with_reducible apply ok_within
    | with_reducible apply State.winCmd_within
    | intro _
    | refine fst_within (by assumption) ?_
    | refine snd_within (by assumption) ?_
    | split
    | dsimp only


theorem execRegisterRead_within {s : State} (h : s.Within K sB) (ag : Agent) (bar : Bar) (off : BitVec 26) (k_words : K .words := by assumption) (k_latch : K .latch := by assumption) (k_ctrs : K .ctrs := by assumption) (k_free : K .free := by assumption) (k_flt : K .flt := by assumption) (k_pm : K .pm := by assumption) (k_eng : K .eng := by assumption) (k_hrl : K .hrl := by assumption) (k_shl : K .shl := by assumption) (k_tly : K .tly := by assumption) (k_rdata : K .rdata := by assumption) : Completes (execRegisterRead ag bar off s) (fun t => t.Within K sB) := by
  unfold execRegisterRead
  repeat' first
    | with_reducible refine completes_within _ ?_
    | with_reducible exact h
    | with_reducible assumption
    | with_reducible apply ok_within
    | with_reducible apply State.regRead_within
    | intro _
    | refine fst_within (by assumption) ?_
    | refine snd_within (by assumption) ?_
    | split
    | dsimp only


theorem execEnterS2_within {s : State} (h : s.Within K sB) (k_words : K .words := by assumption) (k_flt : K .flt := by assumption) (k_act : K .act := by assumption) (k_whf : K .whf := by assumption) (k_twn : K .twn := by assumption) (k_boot : K .boot := by assumption) (k_hst : K .hst := by assumption) : Completes (execEnterS2 s) (fun t => t.Within K sB) := by
  unfold execEnterS2
  repeat' first
    | with_reducible refine completes_within _ ?_
    | with_reducible exact h
    | with_reducible assumption
    | simp only [↓within_boot k_boot]
    | with_reducible apply ok_within
    | with_reducible apply State.wr_within
    | with_reducible apply State.setStage_within
    | with_reducible apply State.takeOwnership_within
    | with_reducible apply State.requestSwap_within
    | with_reducible apply State.treeToS2_within
    | with_reducible apply State.setLocks_within
    | with_reducible apply foldl_within
    | intro _
    | refine fst_within (by assumption) ?_
    | refine snd_within (by assumption) ?_
    | split
    | dsimp only


theorem execAdd_within {s : State} (h : s.Within K sB) (g : Fin 64) (e : Fin 16) (c : Fin 4) (ecc : Option Bool) (k_words : K .words := by assumption) (k_ctrs : K .ctrs := by assumption) (k_flt : K .flt := by assumption) (k_cpg : K .cpg := by assumption) (k_eng : K .eng := by assumption) (k_fwd : K .fwd := by assumption) (k_tly : K .tly := by assumption) : Completes (execAdd g e c ecc s) (fun t => t.Within K sB) := by
  unfold execAdd
  repeat' first
    | with_reducible refine completes_within _ ?_
    | with_reducible exact h
    | with_reducible assumption
    | with_reducible apply ok_within
    | with_reducible apply State.aluRow_within
    | intro _
    | refine fst_within (by assumption) ?_
    | refine snd_within (by assumption) ?_
    | split
    | dsimp only


theorem execSub_within {s : State} (h : s.Within K sB) (g : Fin 64) (e : Fin 16) (c : Fin 4) (ecc : Option Bool) (k_words : K .words := by assumption) (k_ctrs : K .ctrs := by assumption) (k_flt : K .flt := by assumption) (k_cpg : K .cpg := by assumption) (k_eng : K .eng := by assumption) (k_fwd : K .fwd := by assumption) (k_tly : K .tly := by assumption) : Completes (execSub g e c ecc s) (fun t => t.Within K sB) := by
  unfold execSub
  repeat' first
    | with_reducible refine completes_within _ ?_
    | with_reducible exact h
    | with_reducible assumption
    | with_reducible apply ok_within
    | with_reducible apply State.aluRow_within
    | intro _
    | refine fst_within (by assumption) ?_
    | refine snd_within (by assumption) ?_
    | split
    | dsimp only


theorem execAnd_within {s : State} (h : s.Within K sB) (g : Fin 64) (e : Fin 16) (c : Fin 4) (ecc : Option Bool) (k_words : K .words := by assumption) (k_ctrs : K .ctrs := by assumption) (k_flt : K .flt := by assumption) (k_cpg : K .cpg := by assumption) (k_eng : K .eng := by assumption) (k_fwd : K .fwd := by assumption) (k_tly : K .tly := by assumption) : Completes (execAnd g e c ecc s) (fun t => t.Within K sB) := by
  unfold execAnd
  repeat' first
    | with_reducible refine completes_within _ ?_
    | with_reducible exact h
    | with_reducible assumption
    | with_reducible apply ok_within
    | with_reducible apply State.aluRow_within
    | intro _
    | refine fst_within (by assumption) ?_
    | refine snd_within (by assumption) ?_
    | split
    | dsimp only


theorem execOr_within {s : State} (h : s.Within K sB) (g : Fin 64) (e : Fin 16) (c : Fin 4) (ecc : Option Bool) (k_words : K .words := by assumption) (k_ctrs : K .ctrs := by assumption) (k_flt : K .flt := by assumption) (k_cpg : K .cpg := by assumption) (k_eng : K .eng := by assumption) (k_fwd : K .fwd := by assumption) (k_tly : K .tly := by assumption) : Completes (execOr g e c ecc s) (fun t => t.Within K sB) := by
  unfold execOr
  repeat' first
    | with_reducible refine completes_within _ ?_
    | with_reducible exact h
    | with_reducible assumption
    | with_reducible apply ok_within
    | with_reducible apply State.aluRow_within
    | intro _
    | refine fst_within (by assumption) ?_
    | refine snd_within (by assumption) ?_
    | split
    | dsimp only


theorem execXor_within {s : State} (h : s.Within K sB) (g : Fin 64) (e : Fin 16) (c : Fin 4) (ecc : Option Bool) (k_words : K .words := by assumption) (k_ctrs : K .ctrs := by assumption) (k_flt : K .flt := by assumption) (k_cpg : K .cpg := by assumption) (k_eng : K .eng := by assumption) (k_fwd : K .fwd := by assumption) (k_tly : K .tly := by assumption) : Completes (execXor g e c ecc s) (fun t => t.Within K sB) := by
  unfold execXor
  repeat' first
    | with_reducible refine completes_within _ ?_
    | with_reducible exact h
    | with_reducible assumption
    | with_reducible apply ok_within
    | with_reducible apply State.aluRow_within
    | intro _
    | refine fst_within (by assumption) ?_
    | refine snd_within (by assumption) ?_
    | split
    | dsimp only


theorem execShl_within {s : State} (h : s.Within K sB) (g : Fin 64) (e : Fin 16) (c : Fin 4) (ecc : Option Bool) (k_words : K .words := by assumption) (k_ctrs : K .ctrs := by assumption) (k_flt : K .flt := by assumption) (k_cpg : K .cpg := by assumption) (k_eng : K .eng := by assumption) (k_fwd : K .fwd := by assumption) (k_tly : K .tly := by assumption) : Completes (execShl g e c ecc s) (fun t => t.Within K sB) := by
  unfold execShl
  repeat' first
    | with_reducible refine completes_within _ ?_
    | with_reducible exact h
    | with_reducible assumption
    | with_reducible apply ok_within
    | with_reducible apply State.aluRow_within
    | intro _
    | refine fst_within (by assumption) ?_
    | refine snd_within (by assumption) ?_
    | split
    | dsimp only


theorem execShr_within {s : State} (h : s.Within K sB) (g : Fin 64) (e : Fin 16) (c : Fin 4) (ecc : Option Bool) (k_words : K .words := by assumption) (k_ctrs : K .ctrs := by assumption) (k_flt : K .flt := by assumption) (k_cpg : K .cpg := by assumption) (k_eng : K .eng := by assumption) (k_fwd : K .fwd := by assumption) (k_tly : K .tly := by assumption) : Completes (execShr g e c ecc s) (fun t => t.Within K sB) := by
  unfold execShr
  repeat' first
    | with_reducible refine completes_within _ ?_
    | with_reducible exact h
    | with_reducible assumption
    | with_reducible apply ok_within
    | with_reducible apply State.aluRow_within
    | intro _
    | refine fst_within (by assumption) ?_
    | refine snd_within (by assumption) ?_
    | split
    | dsimp only


theorem execSar_within {s : State} (h : s.Within K sB) (g : Fin 64) (e : Fin 16) (c : Fin 4) (ecc : Option Bool) (k_words : K .words := by assumption) (k_ctrs : K .ctrs := by assumption) (k_flt : K .flt := by assumption) (k_cpg : K .cpg := by assumption) (k_eng : K .eng := by assumption) (k_fwd : K .fwd := by assumption) (k_tly : K .tly := by assumption) : Completes (execSar g e c ecc s) (fun t => t.Within K sB) := by
  unfold execSar
  repeat' first
    | with_reducible refine completes_within _ ?_
    | with_reducible exact h
    | with_reducible assumption
    | with_reducible apply ok_within
    | with_reducible apply State.aluRow_within
    | intro _
    | refine fst_within (by assumption) ?_
    | refine snd_within (by assumption) ?_
    | split
    | dsimp only


theorem execMin_within {s : State} (h : s.Within K sB) (g : Fin 64) (e : Fin 16) (c : Fin 4) (ecc : Option Bool) (k_words : K .words := by assumption) (k_ctrs : K .ctrs := by assumption) (k_flt : K .flt := by assumption) (k_cpg : K .cpg := by assumption) (k_eng : K .eng := by assumption) (k_fwd : K .fwd := by assumption) (k_tly : K .tly := by assumption) : Completes (execMin g e c ecc s) (fun t => t.Within K sB) := by
  unfold execMin
  repeat' first
    | with_reducible refine completes_within _ ?_
    | with_reducible exact h
    | with_reducible assumption
    | with_reducible apply ok_within
    | with_reducible apply State.aluRow_within
    | intro _
    | refine fst_within (by assumption) ?_
    | refine snd_within (by assumption) ?_
    | split
    | dsimp only


theorem execMax_within {s : State} (h : s.Within K sB) (g : Fin 64) (e : Fin 16) (c : Fin 4) (ecc : Option Bool) (k_words : K .words := by assumption) (k_ctrs : K .ctrs := by assumption) (k_flt : K .flt := by assumption) (k_cpg : K .cpg := by assumption) (k_eng : K .eng := by assumption) (k_fwd : K .fwd := by assumption) (k_tly : K .tly := by assumption) : Completes (execMax g e c ecc s) (fun t => t.Within K sB) := by
  unfold execMax
  repeat' first
    | with_reducible refine completes_within _ ?_
    | with_reducible exact h
    | with_reducible assumption
    | with_reducible apply ok_within
    | with_reducible apply State.aluRow_within
    | intro _
    | refine fst_within (by assumption) ?_
    | refine snd_within (by assumption) ?_
    | split
    | dsimp only


theorem execCmp_within {s : State} (h : s.Within K sB) (g : Fin 64) (e : Fin 16) (c : Fin 4) (ecc : Option Bool) (k_words : K .words := by assumption) (k_ctrs : K .ctrs := by assumption) (k_flt : K .flt := by assumption) (k_cpg : K .cpg := by assumption) (k_eng : K .eng := by assumption) (k_fwd : K .fwd := by assumption) (k_tly : K .tly := by assumption) : Completes (execCmp g e c ecc s) (fun t => t.Within K sB) := by
  unfold execCmp
  repeat' first
    | with_reducible refine completes_within _ ?_
    | with_reducible exact h
    | with_reducible assumption
    | with_reducible apply ok_within
    | with_reducible apply State.aluRow_within
    | intro _
    | refine fst_within (by assumption) ?_
    | refine snd_within (by assumption) ?_
    | split
    | dsimp only


theorem execPopc_within {s : State} (h : s.Within K sB) (g : Fin 64) (e : Fin 16) (c : Fin 4) (ecc : Option Bool) (k_words : K .words := by assumption) (k_ctrs : K .ctrs := by assumption) (k_flt : K .flt := by assumption) (k_cpg : K .cpg := by assumption) (k_eng : K .eng := by assumption) (k_fwd : K .fwd := by assumption) (k_tly : K .tly := by assumption) : Completes (execPopc g e c ecc s) (fun t => t.Within K sB) := by
  unfold execPopc
  repeat' first
    | with_reducible refine completes_within _ ?_
    | with_reducible exact h
    | with_reducible assumption
    | with_reducible apply ok_within
    | with_reducible apply State.aluRow_within
    | intro _
    | refine fst_within (by assumption) ?_
    | refine snd_within (by assumption) ?_
    | split
    | dsimp only


theorem execBfx_within {s : State} (h : s.Within K sB) (g : Fin 64) (e : Fin 16) (c : Fin 4) (ecc : Option Bool) (k_words : K .words := by assumption) (k_ctrs : K .ctrs := by assumption) (k_flt : K .flt := by assumption) (k_cpg : K .cpg := by assumption) (k_eng : K .eng := by assumption) (k_fwd : K .fwd := by assumption) (k_tly : K .tly := by assumption) : Completes (execBfx g e c ecc s) (fun t => t.Within K sB) := by
  unfold execBfx
  repeat' first
    | with_reducible refine completes_within _ ?_
    | with_reducible exact h
    | with_reducible assumption
    | with_reducible apply ok_within
    | with_reducible apply State.aluRow_within
    | intro _
    | refine fst_within (by assumption) ?_
    | refine snd_within (by assumption) ?_
    | split
    | dsimp only


theorem execBfi_within {s : State} (h : s.Within K sB) (g : Fin 64) (e : Fin 16) (c : Fin 4) (ecc : Option Bool) (k_words : K .words := by assumption) (k_ctrs : K .ctrs := by assumption) (k_flt : K .flt := by assumption) (k_cpg : K .cpg := by assumption) (k_eng : K .eng := by assumption) (k_fwd : K .fwd := by assumption) (k_tly : K .tly := by assumption) : Completes (execBfi g e c ecc s) (fun t => t.Within K sB) := by
  unfold execBfi
  repeat' first
    | with_reducible refine completes_within _ ?_
    | with_reducible exact h
    | with_reducible assumption
    | with_reducible apply ok_within
    | with_reducible apply State.aluRow_within
    | intro _
    | refine fst_within (by assumption) ?_
    | refine snd_within (by assumption) ?_
    | split
    | dsimp only


theorem execMovi_within {s : State} (h : s.Within K sB) (g : Fin 64) (e : Fin 16) (c : Fin 4) (ecc : Option Bool) (k_words : K .words := by assumption) (k_ctrs : K .ctrs := by assumption) (k_flt : K .flt := by assumption) (k_cpg : K .cpg := by assumption) (k_eng : K .eng := by assumption) (k_fwd : K .fwd := by assumption) (k_tly : K .tly := by assumption) : Completes (execMovi g e c ecc s) (fun t => t.Within K sB) := by
  unfold execMovi
  repeat' first
    | with_reducible refine completes_within _ ?_
    | with_reducible exact h
    | with_reducible assumption
    | with_reducible apply ok_within
    | with_reducible apply State.aluRow_within
    | intro _
    | refine fst_within (by assumption) ?_
    | refine snd_within (by assumption) ?_
    | split
    | dsimp only


theorem execBeq_within {s : State} (h : s.Within K sB) (g : Fin 64) (e : Fin 16) (c : Fin 4) (ecc : Option Bool) (k_words : K .words := by assumption) (k_ctrs : K .ctrs := by assumption) (k_flt : K .flt := by assumption) (k_cpg : K .cpg := by assumption) (k_eng : K .eng := by assumption) (k_fwd : K .fwd := by assumption) (k_tly : K .tly := by assumption) : Completes (execBeq g e c ecc s) (fun t => t.Within K sB) := by
  unfold execBeq
  repeat' first
    | with_reducible refine completes_within _ ?_
    | with_reducible exact h
    | with_reducible assumption
    | with_reducible apply ok_within
    | with_reducible apply State.issue_within
    | with_reducible apply State.branch_within
    | intro _
    | refine fst_within (by assumption) ?_
    | refine snd_within (by assumption) ?_
    | split
    | dsimp only


theorem execBne_within {s : State} (h : s.Within K sB) (g : Fin 64) (e : Fin 16) (c : Fin 4) (ecc : Option Bool) (k_words : K .words := by assumption) (k_ctrs : K .ctrs := by assumption) (k_flt : K .flt := by assumption) (k_cpg : K .cpg := by assumption) (k_eng : K .eng := by assumption) (k_fwd : K .fwd := by assumption) (k_tly : K .tly := by assumption) : Completes (execBne g e c ecc s) (fun t => t.Within K sB) := by
  unfold execBne
  repeat' first
    | with_reducible refine completes_within _ ?_
    | with_reducible exact h
    | with_reducible assumption
    | with_reducible apply ok_within
    | with_reducible apply State.issue_within
    | with_reducible apply State.branch_within
    | intro _
    | refine fst_within (by assumption) ?_
    | refine snd_within (by assumption) ?_
    | split
    | dsimp only


theorem execBlt_within {s : State} (h : s.Within K sB) (g : Fin 64) (e : Fin 16) (c : Fin 4) (ecc : Option Bool) (k_words : K .words := by assumption) (k_ctrs : K .ctrs := by assumption) (k_flt : K .flt := by assumption) (k_cpg : K .cpg := by assumption) (k_eng : K .eng := by assumption) (k_fwd : K .fwd := by assumption) (k_tly : K .tly := by assumption) : Completes (execBlt g e c ecc s) (fun t => t.Within K sB) := by
  unfold execBlt
  repeat' first
    | with_reducible refine completes_within _ ?_
    | with_reducible exact h
    | with_reducible assumption
    | with_reducible apply ok_within
    | with_reducible apply State.issue_within
    | with_reducible apply State.branch_within
    | intro _
    | refine fst_within (by assumption) ?_
    | refine snd_within (by assumption) ?_
    | split
    | dsimp only


theorem execBge_within {s : State} (h : s.Within K sB) (g : Fin 64) (e : Fin 16) (c : Fin 4) (ecc : Option Bool) (k_words : K .words := by assumption) (k_ctrs : K .ctrs := by assumption) (k_flt : K .flt := by assumption) (k_cpg : K .cpg := by assumption) (k_eng : K .eng := by assumption) (k_fwd : K .fwd := by assumption) (k_tly : K .tly := by assumption) : Completes (execBge g e c ecc s) (fun t => t.Within K sB) := by
  unfold execBge
  repeat' first
    | with_reducible refine completes_within _ ?_
    | with_reducible exact h
    | with_reducible assumption
    | with_reducible apply ok_within
    | with_reducible apply State.issue_within
    | with_reducible apply State.branch_within
    | intro _
    | refine fst_within (by assumption) ?_
    | refine snd_within (by assumption) ?_
    | split
    | dsimp only


theorem execBltu_within {s : State} (h : s.Within K sB) (g : Fin 64) (e : Fin 16) (c : Fin 4) (ecc : Option Bool) (k_words : K .words := by assumption) (k_ctrs : K .ctrs := by assumption) (k_flt : K .flt := by assumption) (k_cpg : K .cpg := by assumption) (k_eng : K .eng := by assumption) (k_fwd : K .fwd := by assumption) (k_tly : K .tly := by assumption) : Completes (execBltu g e c ecc s) (fun t => t.Within K sB) := by
  unfold execBltu
  repeat' first
    | with_reducible refine completes_within _ ?_
    | with_reducible exact h
    | with_reducible assumption
    | with_reducible apply ok_within
    | with_reducible apply State.issue_within
    | with_reducible apply State.branch_within
    | intro _
    | refine fst_within (by assumption) ?_
    | refine snd_within (by assumption) ?_
    | split
    | dsimp only


theorem execBgeu_within {s : State} (h : s.Within K sB) (g : Fin 64) (e : Fin 16) (c : Fin 4) (ecc : Option Bool) (k_words : K .words := by assumption) (k_ctrs : K .ctrs := by assumption) (k_flt : K .flt := by assumption) (k_cpg : K .cpg := by assumption) (k_eng : K .eng := by assumption) (k_fwd : K .fwd := by assumption) (k_tly : K .tly := by assumption) : Completes (execBgeu g e c ecc s) (fun t => t.Within K sB) := by
  unfold execBgeu
  repeat' first
    | with_reducible refine completes_within _ ?_
    | with_reducible exact h
    | with_reducible assumption
    | with_reducible apply ok_within
    | with_reducible apply State.issue_within
    | with_reducible apply State.branch_within
    | intro _
    | refine fst_within (by assumption) ?_
    | refine snd_within (by assumption) ?_
    | split
    | dsimp only


theorem execJmp_within {s : State} (h : s.Within K sB) (g : Fin 64) (e : Fin 16) (c : Fin 4) (ecc : Option Bool) (k_words : K .words := by assumption) (k_ctrs : K .ctrs := by assumption) (k_flt : K .flt := by assumption) (k_cpg : K .cpg := by assumption) (k_eng : K .eng := by assumption) (k_fwd : K .fwd := by assumption) (k_tly : K .tly := by assumption) : Completes (execJmp g e c ecc s) (fun t => t.Within K sB) := by
  unfold execJmp
  repeat' first
    | with_reducible refine completes_within _ ?_
    | with_reducible exact h
    | with_reducible assumption
    | with_reducible apply ok_within
    | with_reducible apply State.issue_within
    | with_reducible apply State.jump_within
    | intro _
    | refine fst_within (by assumption) ?_
    | refine snd_within (by assumption) ?_
    | split
    | dsimp only


theorem execCall_within {s : State} (h : s.Within K sB) (g : Fin 64) (e : Fin 16) (c : Fin 4) (ecc : Option Bool) (k_words : K .words := by assumption) (k_ctrs : K .ctrs := by assumption) (k_flt : K .flt := by assumption) (k_cpg : K .cpg := by assumption) (k_eng : K .eng := by assumption) (k_fwd : K .fwd := by assumption) (k_tly : K .tly := by assumption) : Completes (execCall g e c ecc s) (fun t => t.Within K sB) := by
  unfold execCall
  repeat' first
    | with_reducible refine completes_within _ ?_
    | with_reducible exact h
    | with_reducible assumption
    | with_reducible apply ok_within
    | with_reducible apply State.issue_within
    | with_reducible apply State.trapNow_within
    | with_reducible apply State.jump_within
    | intro _
    | refine fst_within (by assumption) ?_
    | refine snd_within (by assumption) ?_
    | split
    | dsimp only


theorem execRet_within {s : State} (h : s.Within K sB) (g : Fin 64) (e : Fin 16) (c : Fin 4) (ecc : Option Bool) (k_words : K .words := by assumption) (k_ctrs : K .ctrs := by assumption) (k_flt : K .flt := by assumption) (k_cpg : K .cpg := by assumption) (k_eng : K .eng := by assumption) (k_fwd : K .fwd := by assumption) (k_tly : K .tly := by assumption) : Completes (execRet g e c ecc s) (fun t => t.Within K sB) := by
  unfold execRet
  repeat' first
    | with_reducible refine completes_within _ ?_
    | with_reducible exact h
    | with_reducible assumption
    | with_reducible apply ok_within
    | with_reducible apply State.issue_within
    | with_reducible apply State.trapNow_within
    | with_reducible apply State.jump_within
    | intro _
    | refine fst_within (by assumption) ?_
    | refine snd_within (by assumption) ?_
    | split
    | dsimp only


theorem execLd_within {s : State} (h : s.Within K sB) (g : Fin 64) (e : Fin 16) (c : Fin 4) (ecc : Option Bool) (mecc : Option Bool) (k_words : K .words := by assumption) (k_ctrs : K .ctrs := by assumption) (k_free : K .free := by assumption) (k_flt : K .flt := by assumption) (k_cpg : K .cpg := by assumption) (k_eng : K .eng := by assumption) (k_fwd : K .fwd := by assumption) (k_tly : K .tly := by assumption) : Completes (execLd g e c ecc mecc s) (fun t => t.Within K sB) := by
  unfold execLd
  repeat' first
    | with_reducible refine completes_within _ ?_
    | with_reducible exact h
    | with_reducible assumption
    | with_reducible apply ok_within
    | with_reducible apply State.issue_within
    | with_reducible apply State.ld_within
    | intro _
    | refine fst_within (by assumption) ?_
    | refine snd_within (by assumption) ?_
    | split
    | dsimp only


theorem execSt_within {s : State} (h : s.Within K sB) (g : Fin 64) (e : Fin 16) (c : Fin 4) (ecc : Option Bool) (k_words : K .words := by assumption) (k_ctrs : K .ctrs := by assumption) (k_flt : K .flt := by assumption) (k_cpg : K .cpg := by assumption) (k_eng : K .eng := by assumption) (k_fwd : K .fwd := by assumption) (k_tly : K .tly := by assumption) : Completes (execSt g e c ecc s) (fun t => t.Within K sB) := by
  unfold execSt
  repeat' first
    | with_reducible refine completes_within _ ?_
    | with_reducible exact h
    | with_reducible assumption
    | with_reducible apply ok_within
    | with_reducible apply State.issue_within
    | with_reducible apply State.st_within
    | intro _
    | refine fst_within (by assumption) ?_
    | refine snd_within (by assumption) ?_
    | split
    | dsimp only


theorem execDadd_within {s : State} (h : s.Within K sB) (g : Fin 64) (e : Fin 16) (c : Fin 4) (ecc : Option Bool) (k_words : K .words := by assumption) (k_ctrs : K .ctrs := by assumption) (k_flt : K .flt := by assumption) (k_cpg : K .cpg := by assumption) (k_eng : K .eng := by assumption) (k_fwd : K .fwd := by assumption) (k_tly : K .tly := by assumption) : Completes (execDadd g e c ecc s) (fun t => t.Within K sB) := by
  unfold execDadd
  repeat' first
    | with_reducible refine completes_within _ ?_
    | with_reducible exact h
    | with_reducible assumption
    | with_reducible apply ok_within
    | with_reducible apply State.issue_within
    | with_reducible apply State.atomic_within
    | with_reducible apply State.defer_within
    | intro _
    | refine fst_within (by assumption) ?_
    | refine snd_within (by assumption) ?_
    | split
    | dsimp only


theorem execDor_within {s : State} (h : s.Within K sB) (g : Fin 64) (e : Fin 16) (c : Fin 4) (ecc : Option Bool) (k_words : K .words := by assumption) (k_ctrs : K .ctrs := by assumption) (k_flt : K .flt := by assumption) (k_cpg : K .cpg := by assumption) (k_eng : K .eng := by assumption) (k_fwd : K .fwd := by assumption) (k_tly : K .tly := by assumption) : Completes (execDor g e c ecc s) (fun t => t.Within K sB) := by
  unfold execDor
  repeat' first
    | with_reducible refine completes_within _ ?_
    | with_reducible exact h
    | with_reducible assumption
    | with_reducible apply ok_within
    | with_reducible apply State.issue_within
    | with_reducible apply State.atomic_within
    | with_reducible apply State.defer_within
    | intro _
    | refine fst_within (by assumption) ?_
    | refine snd_within (by assumption) ?_
    | split
    | dsimp only


theorem execDinc_within {s : State} (h : s.Within K sB) (g : Fin 64) (e : Fin 16) (c : Fin 4) (ecc : Option Bool) (k_words : K .words := by assumption) (k_ctrs : K .ctrs := by assumption) (k_flt : K .flt := by assumption) (k_cpg : K .cpg := by assumption) (k_eng : K .eng := by assumption) (k_fwd : K .fwd := by assumption) (k_tly : K .tly := by assumption) : Completes (execDinc g e c ecc s) (fun t => t.Within K sB) := by
  unfold execDinc
  repeat' first
    | with_reducible refine completes_within _ ?_
    | with_reducible exact h
    | with_reducible assumption
    | with_reducible apply ok_within
    | with_reducible apply State.issue_within
    | with_reducible apply State.atomic_within
    | with_reducible apply State.defer_within
    | intro _
    | refine fst_within (by assumption) ?_
    | refine snd_within (by assumption) ?_
    | split
    | dsimp only


theorem execFadd_within {s : State} (h : s.Within K sB) (g : Fin 64) (e : Fin 16) (c : Fin 4) (ecc : Option Bool) (k_words : K .words := by assumption) (k_ctrs : K .ctrs := by assumption) (k_flt : K .flt := by assumption) (k_cpg : K .cpg := by assumption) (k_eng : K .eng := by assumption) (k_fwd : K .fwd := by assumption) (k_tly : K .tly := by assumption) : Completes (execFadd g e c ecc s) (fun t => t.Within K sB) := by
  unfold execFadd
  repeat' first
    | with_reducible refine completes_within _ ?_
    | with_reducible exact h
    | with_reducible assumption
    | with_reducible apply ok_within
    | with_reducible apply State.issue_within
    | with_reducible apply State.atomicNow_within
    | intro _
    | refine fst_within (by assumption) ?_
    | refine snd_within (by assumption) ?_
    | split
    | dsimp only


theorem execCas_within {s : State} (h : s.Within K sB) (g : Fin 64) (e : Fin 16) (c : Fin 4) (ecc : Option Bool) (k_words : K .words := by assumption) (k_ctrs : K .ctrs := by assumption) (k_flt : K .flt := by assumption) (k_cpg : K .cpg := by assumption) (k_eng : K .eng := by assumption) (k_fwd : K .fwd := by assumption) (k_tly : K .tly := by assumption) : Completes (execCas g e c ecc s) (fun t => t.Within K sB) := by
  unfold execCas
  repeat' first
    | with_reducible refine completes_within _ ?_
    | with_reducible exact h
    | with_reducible assumption
    | with_reducible apply ok_within
    | with_reducible apply State.issue_within
    | with_reducible apply State.atomicNow_within
    | intro _
    | refine fst_within (by assumption) ?_
    | refine snd_within (by assumption) ?_
    | split
    | dsimp only


theorem execParseNext_within {s : State} (h : s.Within K sB) (g : Fin 64) (e : Fin 16) (c : Fin 4) (ecc : Option Bool) (k_words : K .words := by assumption) (k_ctrs : K .ctrs := by assumption) (k_flt : K .flt := by assumption) (k_cpg : K .cpg := by assumption) (k_eng : K .eng := by assumption) (k_fwd : K .fwd := by assumption) (k_tly : K .tly := by assumption) : Completes (execParseNext g e c ecc s) (fun t => t.Within K sB) := by
  unfold execParseNext
  repeat' first
    | with_reducible refine completes_within _ ?_
    | with_reducible exact h
    | with_reducible assumption
    | with_reducible apply ok_within
    | with_reducible apply State.issue_within
    | with_reducible apply State.parseStep_within
    | intro _
    | refine fst_within (by assumption) ?_
    | refine snd_within (by assumption) ?_
    | split
    | dsimp only


theorem execParseSkip_within {s : State} (h : s.Within K sB) (g : Fin 64) (e : Fin 16) (c : Fin 4) (ecc : Option Bool) (k_words : K .words := by assumption) (k_ctrs : K .ctrs := by assumption) (k_flt : K .flt := by assumption) (k_cpg : K .cpg := by assumption) (k_eng : K .eng := by assumption) (k_fwd : K .fwd := by assumption) (k_tly : K .tly := by assumption) : Completes (execParseSkip g e c ecc s) (fun t => t.Within K sB) := by
  unfold execParseSkip
  repeat' first
    | with_reducible refine completes_within _ ?_
    | with_reducible exact h
    | with_reducible assumption
    | with_reducible apply ok_within
    | with_reducible apply State.issue_within
    | with_reducible apply State.parseStep_within
    | intro _
    | refine fst_within (by assumption) ?_
    | refine snd_within (by assumption) ?_
    | split
    | dsimp only


theorem execParseSetht_within {s : State} (h : s.Within K sB) (g : Fin 64) (e : Fin 16) (c : Fin 4) (ecc : Option Bool) (k_words : K .words := by assumption) (k_ctrs : K .ctrs := by assumption) (k_flt : K .flt := by assumption) (k_cpg : K .cpg := by assumption) (k_eng : K .eng := by assumption) (k_fwd : K .fwd := by assumption) (k_tly : K .tly := by assumption) : Completes (execParseSetht g e c ecc s) (fun t => t.Within K sB) := by
  unfold execParseSetht
  repeat' first
    | with_reducible refine completes_within _ ?_
    | with_reducible exact h
    | with_reducible assumption
    | with_reducible apply ok_within
    | with_reducible apply State.issue_within
    | with_reducible apply State.retire_within
    | intro _
    | refine fst_within (by assumption) ?_
    | refine snd_within (by assumption) ?_
    | split
    | dsimp only


theorem execKclr_within {s : State} (h : s.Within K sB) (g : Fin 64) (e : Fin 16) (c : Fin 4) (ecc : Option Bool) (k_words : K .words := by assumption) (k_ctrs : K .ctrs := by assumption) (k_flt : K .flt := by assumption) (k_cpg : K .cpg := by assumption) (k_eng : K .eng := by assumption) (k_fwd : K .fwd := by assumption) (k_tly : K .tly := by assumption) : Completes (execKclr g e c ecc s) (fun t => t.Within K sB) := by
  unfold execKclr
  repeat' first
    | with_reducible refine completes_within _ ?_
    | with_reducible exact h
    | with_reducible assumption
    | with_reducible apply ok_within
    | with_reducible apply State.issue_within
    | with_reducible apply State.retire_within
    | intro _
    | refine fst_within (by assumption) ?_
    | refine snd_within (by assumption) ?_
    | split
    | dsimp only


theorem execKcat_within {s : State} (h : s.Within K sB) (g : Fin 64) (e : Fin 16) (c : Fin 4) (ecc : Option Bool) (k_words : K .words := by assumption) (k_ctrs : K .ctrs := by assumption) (k_flt : K .flt := by assumption) (k_cpg : K .cpg := by assumption) (k_eng : K .eng := by assumption) (k_fwd : K .fwd := by assumption) (k_tly : K .tly := by assumption) : Completes (execKcat g e c ecc s) (fun t => t.Within K sB) := by
  unfold execKcat
  repeat' first
    | with_reducible refine completes_within _ ?_
    | with_reducible exact h
    | with_reducible assumption
    | with_reducible apply ok_within
    | with_reducible apply State.issue_within
    | with_reducible apply State.retire_within
    | with_reducible apply State.trapNow_within
    | with_reducible apply State.access_within
    | intro _
    | refine fst_within (by assumption) ?_
    | refine snd_within (by assumption) ?_
    | split
    | dsimp only


theorem execKreg_within {s : State} (h : s.Within K sB) (g : Fin 64) (e : Fin 16) (c : Fin 4) (ecc : Option Bool) (k_words : K .words := by assumption) (k_ctrs : K .ctrs := by assumption) (k_flt : K .flt := by assumption) (k_cpg : K .cpg := by assumption) (k_eng : K .eng := by assumption) (k_fwd : K .fwd := by assumption) (k_tly : K .tly := by assumption) : Completes (execKreg g e c ecc s) (fun t => t.Within K sB) := by
  unfold execKreg
  repeat' first
    | with_reducible refine completes_within _ ?_
    | with_reducible exact h
    | with_reducible assumption
    | with_reducible apply ok_within
    | with_reducible apply State.issue_within
    | with_reducible apply State.retire_within
    | intro _
    | refine fst_within (by assumption) ?_
    | refine snd_within (by assumption) ?_
    | split
    | dsimp only


theorem execLookupLdg_within {s : State} (h : s.Within K sB) (g : Fin 64) (e : Fin 16) (c : Fin 4) (ecc : Option Bool) (k_words : K .words := by assumption) (k_ctrs : K .ctrs := by assumption) (k_flt : K .flt := by assumption) (k_cpg : K .cpg := by assumption) (k_eng : K .eng := by assumption) (k_fwd : K .fwd := by assumption) (k_tly : K .tly := by assumption) : Completes (execLookupLdg g e c ecc s) (fun t => t.Within K sB) := by
  unfold execLookupLdg
  repeat' first
    | with_reducible refine completes_within _ ?_
    | with_reducible exact h
    | with_reducible assumption
    | with_reducible apply ok_within
    | with_reducible apply State.issue_within
    | with_reducible apply State.lookup_within
    | intro _
    | refine fst_within (by assumption) ?_
    | refine snd_within (by assumption) ?_
    | split
    | dsimp only


theorem execLookupExm_within {s : State} (h : s.Within K sB) (g : Fin 64) (e : Fin 16) (c : Fin 4) (ecc : Option Bool) (k_words : K .words := by assumption) (k_ctrs : K .ctrs := by assumption) (k_flt : K .flt := by assumption) (k_cpg : K .cpg := by assumption) (k_eng : K .eng := by assumption) (k_fwd : K .fwd := by assumption) (k_tly : K .tly := by assumption) : Completes (execLookupExm g e c ecc s) (fun t => t.Within K sB) := by
  unfold execLookupExm
  repeat' first
    | with_reducible refine completes_within _ ?_
    | with_reducible exact h
    | with_reducible assumption
    | with_reducible apply ok_within
    | with_reducible apply State.issue_within
    | with_reducible apply State.lookup_within
    | intro _
    | refine fst_within (by assumption) ?_
    | refine snd_within (by assumption) ?_
    | split
    | dsimp only


theorem execLookupWait_within {s : State} (h : s.Within K sB) (g : Fin 64) (e : Fin 16) (c : Fin 4) (ecc : Option Bool) (k_words : K .words := by assumption) (k_ctrs : K .ctrs := by assumption) (k_flt : K .flt := by assumption) (k_cpg : K .cpg := by assumption) (k_eng : K .eng := by assumption) (k_fwd : K .fwd := by assumption) (k_tly : K .tly := by assumption) : Completes (execLookupWait g e c ecc s) (fun t => t.Within K sB) := by
  unfold execLookupWait
  repeat' first
    | with_reducible refine completes_within _ ?_
    | with_reducible exact h
    | with_reducible assumption
    | with_reducible apply ok_within
    | with_reducible apply State.issue_within
    | with_reducible apply State.lookupWait_within
    | intro _
    | refine fst_within (by assumption) ?_
    | refine snd_within (by assumption) ?_
    | split
    | dsimp only


theorem execIns_within {s : State} (h : s.Within K sB) (g : Fin 64) (e : Fin 16) (c : Fin 4) (ecc : Option Bool) (k_words : K .words := by assumption) (k_ctrs : K .ctrs := by assumption) (k_free : K .free := by assumption) (k_flt : K .flt := by assumption) (k_cpg : K .cpg := by assumption) (k_eng : K .eng := by assumption) (k_fwd : K .fwd := by assumption) (k_tly : K .tly := by assumption) : Completes (execIns g e c ecc s) (fun t => t.Within K sB) := by
  unfold execIns
  repeat' first
    | with_reducible refine completes_within _ ?_
    | with_reducible exact h
    | with_reducible assumption
    | with_reducible apply ok_within
    | with_reducible apply State.issue_within
    | with_reducible apply State.ins_within
    | intro _
    | refine fst_within (by assumption) ?_
    | refine snd_within (by assumption) ?_
    | split
    | dsimp only


theorem execDel_within {s : State} (h : s.Within K sB) (g : Fin 64) (e : Fin 16) (c : Fin 4) (ecc : Option Bool) (k_words : K .words := by assumption) (k_ctrs : K .ctrs := by assumption) (k_flt : K .flt := by assumption) (k_cpg : K .cpg := by assumption) (k_eng : K .eng := by assumption) (k_fwd : K .fwd := by assumption) (k_tly : K .tly := by assumption) : Completes (execDel g e c ecc s) (fun t => t.Within K sB) := by
  unfold execDel
  repeat' first
    | with_reducible refine completes_within _ ?_
    | with_reducible exact h
    | with_reducible assumption
    | with_reducible apply ok_within
    | with_reducible apply State.issue_within
    | with_reducible apply State.del_within
    | intro _
    | refine fst_within (by assumption) ?_
    | refine snd_within (by assumption) ?_
    | split
    | dsimp only


theorem execCsum_within {s : State} (h : s.Within K sB) (g : Fin 64) (e : Fin 16) (c : Fin 4) (ecc : Option Bool) (k_words : K .words := by assumption) (k_ctrs : K .ctrs := by assumption) (k_flt : K .flt := by assumption) (k_cpg : K .cpg := by assumption) (k_eng : K .eng := by assumption) (k_fwd : K .fwd := by assumption) (k_tly : K .tly := by assumption) : Completes (execCsum g e c ecc s) (fun t => t.Within K sB) := by
  unfold execCsum
  repeat' first
    | with_reducible refine completes_within _ ?_
    | with_reducible exact h
    | with_reducible assumption
    | with_reducible apply ok_within
    | with_reducible apply State.issue_within
    | with_reducible apply State.csum_within
    | intro _
    | refine fst_within (by assumption) ?_
    | refine snd_within (by assumption) ?_
    | split
    | dsimp only


theorem execSetv_within {s : State} (h : s.Within K sB) (g : Fin 64) (e : Fin 16) (c : Fin 4) (ecc : Option Bool) (k_words : K .words := by assumption) (k_ctrs : K .ctrs := by assumption) (k_flt : K .flt := by assumption) (k_cpg : K .cpg := by assumption) (k_eng : K .eng := by assumption) (k_fwd : K .fwd := by assumption) (k_tly : K .tly := by assumption) : Completes (execSetv g e c ecc s) (fun t => t.Within K sB) := by
  unfold execSetv
  repeat' first
    | with_reducible refine completes_within _ ?_
    | with_reducible exact h
    | with_reducible assumption
    | with_reducible apply ok_within
    | with_reducible apply State.issue_within
    | with_reducible apply State.retire_within
    | intro _
    | refine fst_within (by assumption) ?_
    | refine snd_within (by assumption) ?_
    | split
    | dsimp only


theorem execSetq_within {s : State} (h : s.Within K sB) (g : Fin 64) (e : Fin 16) (c : Fin 4) (ecc : Option Bool) (k_words : K .words := by assumption) (k_ctrs : K .ctrs := by assumption) (k_flt : K .flt := by assumption) (k_cpg : K .cpg := by assumption) (k_eng : K .eng := by assumption) (k_fwd : K .fwd := by assumption) (k_tly : K .tly := by assumption) : Completes (execSetq g e c ecc s) (fun t => t.Within K sB) := by
  unfold execSetq
  repeat' first
    | with_reducible refine completes_within _ ?_
    | with_reducible exact h
    | with_reducible assumption
    | with_reducible apply ok_within
    | with_reducible apply State.issue_within
    | with_reducible apply State.setDesc_within
    | intro _
    | refine fst_within (by assumption) ?_
    | refine snd_within (by assumption) ?_
    | split
    | dsimp only


theorem execSetb_within {s : State} (h : s.Within K sB) (g : Fin 64) (e : Fin 16) (c : Fin 4) (ecc : Option Bool) (k_words : K .words := by assumption) (k_ctrs : K .ctrs := by assumption) (k_flt : K .flt := by assumption) (k_cpg : K .cpg := by assumption) (k_eng : K .eng := by assumption) (k_fwd : K .fwd := by assumption) (k_tly : K .tly := by assumption) : Completes (execSetb g e c ecc s) (fun t => t.Within K sB) := by
  unfold execSetb
  repeat' first
    | with_reducible refine completes_within _ ?_
    | with_reducible exact h
    | with_reducible assumption
    | with_reducible apply ok_within
    | with_reducible apply State.issue_within
    | with_reducible apply State.setDesc_within
    | intro _
    | refine fst_within (by assumption) ?_
    | refine snd_within (by assumption) ?_
    | split
    | dsimp only


theorem execSetr_within {s : State} (h : s.Within K sB) (g : Fin 64) (e : Fin 16) (c : Fin 4) (ecc : Option Bool) (k_words : K .words := by assumption) (k_ctrs : K .ctrs := by assumption) (k_flt : K .flt := by assumption) (k_cpg : K .cpg := by assumption) (k_eng : K .eng := by assumption) (k_fwd : K .fwd := by assumption) (k_tly : K .tly := by assumption) : Completes (execSetr g e c ecc s) (fun t => t.Within K sB) := by
  unfold execSetr
  repeat' first
    | with_reducible refine completes_within _ ?_
    | with_reducible exact h
    | with_reducible assumption
    | with_reducible apply ok_within
    | with_reducible apply State.issue_within
    | with_reducible apply State.setDesc_within
    | intro _
    | refine fst_within (by assumption) ?_
    | refine snd_within (by assumption) ?_
    | split
    | dsimp only


theorem execSetm_within {s : State} (h : s.Within K sB) (g : Fin 64) (e : Fin 16) (c : Fin 4) (ecc : Option Bool) (k_words : K .words := by assumption) (k_ctrs : K .ctrs := by assumption) (k_flt : K .flt := by assumption) (k_cpg : K .cpg := by assumption) (k_eng : K .eng := by assumption) (k_fwd : K .fwd := by assumption) (k_tly : K .tly := by assumption) : Completes (execSetm g e c ecc s) (fun t => t.Within K sB) := by
  unfold execSetm
  repeat' first
    | with_reducible refine completes_within _ ?_
    | with_reducible exact h
    | with_reducible assumption
    | with_reducible apply ok_within
    | with_reducible apply State.issue_within
    | with_reducible apply State.setDesc_within
    | with_reducible apply State.mirror_within
    | intro _
    | refine fst_within (by assumption) ?_
    | refine snd_within (by assumption) ?_
    | split
    | dsimp only


theorem execSetx_within {s : State} (h : s.Within K sB) (g : Fin 64) (e : Fin 16) (c : Fin 4) (ecc : Option Bool) (k_words : K .words := by assumption) (k_ctrs : K .ctrs := by assumption) (k_flt : K .flt := by assumption) (k_cpg : K .cpg := by assumption) (k_eng : K .eng := by assumption) (k_fwd : K .fwd := by assumption) (k_tly : K .tly := by assumption) : Completes (execSetx g e c ecc s) (fun t => t.Within K sB) := by
  unfold execSetx
  repeat' first
    | with_reducible refine completes_within _ ?_
    | with_reducible exact h
    | with_reducible assumption
    | with_reducible apply ok_within
    | with_reducible apply State.issue_within
    | with_reducible apply State.setDesc_within
    | intro _
    | refine fst_within (by assumption) ?_
    | refine snd_within (by assumption) ?_
    | split
    | dsimp only


theorem execSetc_within {s : State} (h : s.Within K sB) (g : Fin 64) (e : Fin 16) (c : Fin 4) (ecc : Option Bool) (k_words : K .words := by assumption) (k_ctrs : K .ctrs := by assumption) (k_flt : K .flt := by assumption) (k_cpg : K .cpg := by assumption) (k_eng : K .eng := by assumption) (k_fwd : K .fwd := by assumption) (k_tly : K .tly := by assumption) : Completes (execSetc g e c ecc s) (fun t => t.Within K sB) := by
  unfold execSetc
  repeat' first
    | with_reducible refine completes_within _ ?_
    | with_reducible exact h
    | with_reducible assumption
    | with_reducible apply ok_within
    | with_reducible apply State.issue_within
    | with_reducible apply State.setDesc_within
    | intro _
    | refine fst_within (by assumption) ?_
    | refine snd_within (by assumption) ?_
    | split
    | dsimp only


theorem execEndPass_within {s : State} (h : s.Within K sB) (g : Fin 64) (e : Fin 16) (c : Fin 4) (ecc : Option Bool) (k_words : K .words := by assumption) (k_ctrs : K .ctrs := by assumption) (k_flt : K .flt := by assumption) (k_whf : K .whf := by assumption) (k_cpg : K .cpg := by assumption) (k_eng : K .eng := by assumption) (k_fwd : K .fwd := by assumption) (k_tly : K .tly := by assumption) : Completes (execEndPass g e c ecc s) (fun t => t.Within K sB) := by
  unfold execEndPass
  repeat' first
    | with_reducible refine completes_within _ ?_
    | with_reducible exact h
    | with_reducible assumption
    | with_reducible apply ok_within
    | with_reducible apply State.issue_within
    | with_reducible apply State.commit_within
    | with_reducible apply State.trapNow_within
    | intro _
    | refine fst_within (by assumption) ?_
    | refine snd_within (by assumption) ?_
    | split
    | dsimp only


theorem execNop_within {s : State} (h : s.Within K sB) (g : Fin 64) (e : Fin 16) (c : Fin 4) (ecc : Option Bool) (k_words : K .words := by assumption) (k_ctrs : K .ctrs := by assumption) (k_flt : K .flt := by assumption) (k_cpg : K .cpg := by assumption) (k_eng : K .eng := by assumption) (k_fwd : K .fwd := by assumption) (k_tly : K .tly := by assumption) : Completes (execNop g e c ecc s) (fun t => t.Within K sB) := by
  unfold execNop
  repeat' first
    | with_reducible refine completes_within _ ?_
    | with_reducible exact h
    | with_reducible assumption
    | with_reducible apply ok_within
    | with_reducible apply State.issue_within
    | with_reducible apply State.retire_within
    | intro _
    | refine fst_within (by assumption) ?_
    | refine snd_within (by assumption) ?_
    | split
    | dsimp only


theorem execMovs_within {s : State} (h : s.Within K sB) (g : Fin 64) (e : Fin 16) (c : Fin 4) (ecc : Option Bool) (k_words : K .words := by assumption) (k_ctrs : K .ctrs := by assumption) (k_flt : K .flt := by assumption) (k_cpg : K .cpg := by assumption) (k_eng : K .eng := by assumption) (k_fwd : K .fwd := by assumption) (k_tly : K .tly := by assumption) : Completes (execMovs g e c ecc s) (fun t => t.Within K sB) := by
  unfold execMovs
  repeat' first
    | with_reducible refine completes_within _ ?_
    | with_reducible exact h
    | with_reducible assumption
    | with_reducible apply ok_within
    | with_reducible apply State.issue_within
    | with_reducible apply State.retire_within
    | intro _
    | refine fst_within (by assumption) ?_
    | refine snd_within (by assumption) ?_
    | split
    | dsimp only


theorem execTrap_within {s : State} (h : s.Within K sB) (g : Fin 64) (e : Fin 16) (c : Fin 4) (ecc : Option Bool) (k_words : K .words := by assumption) (k_ctrs : K .ctrs := by assumption) (k_flt : K .flt := by assumption) (k_cpg : K .cpg := by assumption) (k_eng : K .eng := by assumption) (k_fwd : K .fwd := by assumption) (k_tly : K .tly := by assumption) : Completes (execTrap g e c ecc s) (fun t => t.Within K sB) := by
  unfold execTrap
  repeat' first
    | with_reducible refine completes_within _ ?_
    | with_reducible exact h
    | with_reducible assumption
    | with_reducible apply ok_within
    | with_reducible apply State.issue_within
    | with_reducible apply State.trapNow_within
    | intro _
    | refine fst_within (by assumption) ?_
    | refine snd_within (by assumption) ?_
    | split
    | dsimp only


theorem execHandoff_within {s : State} (h : s.Within K sB) (g : Fin 64) (e : Fin 16) (c : Fin 4) (ecc : Option Bool) (k_words : K .words := by assumption) (k_ctrs : K .ctrs := by assumption) (k_flt : K .flt := by assumption) (k_cpg : K .cpg := by assumption) (k_eng : K .eng := by assumption) (k_fwd : K .fwd := by assumption) (k_tly : K .tly := by assumption) : Completes (execHandoff g e c ecc s) (fun t => t.Within K sB) := by
  unfold execHandoff
  repeat' first
    | with_reducible refine completes_within _ ?_
    | with_reducible exact h
    | with_reducible assumption
    | with_reducible apply ok_within
    | with_reducible apply State.issue_within
    | with_reducible apply State.defer_within
    | intro _
    | refine fst_within (by assumption) ?_
    | refine snd_within (by assumption) ?_
    | split
    | dsimp only


end Sys2Proof.Machine
end

