-- ==== Sys2Proof/Laws/State.lean ====
section
/-! SUPPORT. The named updates of the state, field by field: what each leaves, and what a register field, a word or a
counter reads after one. -/

namespace Sys2Proof.Machine

set_option autoImplicit false
set_option Elab.async false

/-- Bits of a field mask. -/
theorem fieldMask_testBit (lo w i : Nat) (h : lo + w ≤ 32) :
    (fieldMask lo w).toNat.testBit i = decide (lo ≤ i ∧ i < lo + w) := by
  have hlt : (2 ^ w - 1) * 2 ^ lo < 2 ^ 32 := by
    calc (2 ^ w - 1) * 2 ^ lo < 2 ^ w * 2 ^ lo := by
          apply Nat.mul_lt_mul_of_pos_right _ (Nat.two_pow_pos lo)
          have := Nat.two_pow_pos w
          omega
      _ = 2 ^ (w + lo) := by rw [Nat.pow_add]
      _ ≤ 2 ^ 32 := Nat.pow_le_pow_right (by decide) (by omega)
  rw [fieldMask, BitVec.toNat_ofNat, Nat.mod_eq_of_lt hlt, Nat.testBit_mul_two_pow, Nat.testBit_two_pow_sub_one]
  by_cases h1 : lo ≤ i <;> by_cases h2 : i < lo + w <;> simp [h1, h2] <;> omega

theorem putField_testBit (x : Word) (lo w v i : Nat) (h : lo + w ≤ 32) (hi : i < 32) :
    (putField x lo w v).toNat.testBit i = if lo ≤ i ∧ i < lo + w then v.testBit (i - lo) else x.toNat.testBit i := by
  have hv : v % 2 ^ w * 2 ^ lo < 2 ^ 32 := by
    calc v % 2 ^ w * 2 ^ lo < 2 ^ w * 2 ^ lo :=
          Nat.mul_lt_mul_of_pos_right (Nat.mod_lt _ (Nat.two_pow_pos w)) (Nat.two_pow_pos lo)
      _ = 2 ^ (w + lo) := by rw [Nat.pow_add]
      _ ≤ 2 ^ 32 := Nat.pow_le_pow_right (by decide) (by omega)
  rw [putField, BitVec.toNat_or, BitVec.toNat_and, Nat.testBit_or, Nat.testBit_and, BitVec.toNat_ofNat, Nat.mod_eq_of_lt hv,
    Nat.testBit_mul_two_pow, Nat.testBit_mod_two_pow]
  have hn : (~~~ fieldMask lo w).toNat.testBit i = !(fieldMask lo w).toNat.testBit i := by
    have := BitVec.getLsbD_not (x := fieldMask lo w) (i := i)
    simpa [BitVec.getLsbD, hi] using this
  rw [hn, fieldMask_testBit lo w i h]
  by_cases h1 : lo ≤ i <;> by_cases h2 : i < lo + w
  · have h3 : i - lo < w := by omega
    simp [h1, h2, h3]
  · have h3 : ¬ i - lo < w := by omega
    simp [h1, h2, h3]
  · simp [h1]
  · simp [h1]

theorem testBit_field (n lo w i : Nat) : (n / 2 ^ lo % 2 ^ w).testBit i = (decide (i < w) && n.testBit (lo + i)) := by
  rw [Nat.testBit_mod_two_pow, Nat.testBit_div_two_pow]
  rw [Nat.add_comm]

theorem field_putField (x : Word) (lo w v : Nat) (h : lo + w ≤ 32) : (putField x lo w v).toNat / 2 ^ lo % 2 ^ w = v % 2 ^ w := by
  apply Nat.eq_of_testBit_eq
  intro i
  rw [testBit_field, Nat.testBit_mod_two_pow]
  by_cases hi : i < w
  · rw [putField_testBit x lo w v (lo + i) h (by omega)]
    simp [hi]
  · simp [hi]

theorem field_putField_disjoint (x : Word) (lo w v lo' w' : Nat) (h : lo + w ≤ 32) (h' : lo' + w' ≤ 32) (hd : lo + w ≤ lo' ∨ lo' + w' ≤ lo) :
    (putField x lo w v).toNat / 2 ^ lo' % 2 ^ w' = x.toNat / 2 ^ lo' % 2 ^ w' := by
  apply Nat.eq_of_testBit_eq
  intro i
  rw [testBit_field, testBit_field]
  by_cases hi : i < w'
  · rw [putField_testBit x lo w v (lo' + i) h (by omega)]
    have : ¬ (lo ≤ lo' + i ∧ lo' + i < lo + w) := by omega
    simp [this]
  · simp [hi]


/-! Words and fields. -/

theorem State.word_putWord (s : State) (a b : Nat) (v : Word) : (s.putWord a v).word b = if b = a then v else s.word b :=
  Tab.get_set _ _ _ _ _

@[simp] theorem State.word_putWord_same (s : State) (a : Nat) (v : Word) : (s.putWord a v).word a = v := by
  simp [State.word_putWord]

theorem State.word_wr (s : State) (f : Fld) (v b : Nat) :
    (s.wr f v).word b = if b = f.addr then putField (s.word f.addr) f.lo f.w v else s.word b := Tab.get_set _ _ _ _ _

/-- A field reads as it was last written, within its width. -/
theorem State.rd_wr (s : State) (f : Fld) (v : Nat) (h : f.lo + f.w ≤ 32) : (s.wr f v).rd f = v % 2 ^ f.w := by
  have : (s.wr f v).word f.addr = putField (s.word f.addr) f.lo f.w v := by simp [State.word_wr]
  simp only [State.rd, Words.rd]
  exact (congrArg (fun x : Word => x.toNat / 2 ^ f.lo % 2 ^ f.w) this).trans (field_putField _ _ _ _ h)

/-- A field at another address keeps its value. -/
theorem State.rd_wr_addr (s : State) (f g : Fld) (v : Nat) (h : g.addr ≠ f.addr) : (s.wr f v).rd g = s.rd g := by
  have : (s.wr f v).word g.addr = s.word g.addr := by simp [State.word_wr, h]
  exact congrArg (fun x : Word => x.toNat / 2 ^ g.lo % 2 ^ g.w) this

/-- A field of other bits of the same word keeps its value. -/
theorem State.rd_wr_bits (s : State) (f g : Fld) (v : Nat) (h : f.lo + f.w ≤ 32) (hg : g.lo + g.w ≤ 32)
    (hd : f.lo + f.w ≤ g.lo ∨ g.lo + g.w ≤ f.lo) : (s.wr f v).rd g = s.rd g := by
  by_cases ha : g.addr = f.addr
  · have : (s.wr f v).word g.addr = putField (s.word g.addr) f.lo f.w v := by simp [State.word_wr, ha]
    exact (congrArg (fun x : Word => x.toNat / 2 ^ g.lo % 2 ^ g.w) this).trans (field_putField_disjoint _ _ _ _ _ _ h hg hd)
  · exact State.rd_wr_addr s f g v ha

theorem State.bit_wr (s : State) (f : Fld) (v : Nat) (h : f.lo + f.w ≤ 32) : (s.wr f v).bit f = (v % 2 ^ f.w != 0) := by
  rw [State.bit]
  exact congrArg (· != 0) (State.rd_wr s f v h)

theorem State.rd_putWord (s : State) (a : Nat) (v : Word) (f : Fld) :
    (s.putWord a v).rd f = if f.addr = a then v.toNat / 2 ^ f.lo % 2 ^ f.w else s.rd f := by
  have := State.word_putWord s a f.addr v
  simp only [State.rd, Words.rd]
  by_cases h : f.addr = a
  · rw [if_pos h] at this ⊢
    exact congrArg (fun x : Word => x.toNat / 2 ^ f.lo % 2 ^ f.w) this
  · rw [if_neg h] at this ⊢
    exact congrArg (fun x : Word => x.toNat / 2 ^ f.lo % 2 ^ f.w) this

/-! Counters. -/

/-- A counter after `n` events at an address: that one has counted them, every other stands. -/
theorem State.ctr_countQ (s : State) (a n qual b : Nat) :
    (s.countQ a n qual).ctr b = if b = a then (s.ctr a).add n else s.ctr b := by
  have h : (s.countQ a n qual).ctrs = Tab.set (fun _ => Ctr.zero) s.ctrs a ((s.ctr a).add n) := by
    unfold State.countQ
    dsimp only
    split
    · split <;> rfl
    · rfl
  unfold State.ctr
  rw [h]
  exact Tab.get_set _ _ _ _ _

theorem State.ctr_count (s : State) (a n b : Nat) : (s.count a n).ctr b = if b = a then (s.ctr a).add n else s.ctr b :=
  State.ctr_countQ s a n 0 b

theorem State.ctr_inc (s : State) (a b : Nat) : (s.inc a).ctr b = if b = a then (s.ctr a).add 1 else s.ctr b :=
  State.ctr_countQ s a 1 0 b

/-! Every field under every named update. -/

@[simp] theorem State.wr_latch (s : State) (f : Fld) (v : Nat) : (s.wr f v).latch = s.latch := rfl
@[simp] theorem State.wr_ctrs (s : State) (f : Fld) (v : Nat) : (s.wr f v).ctrs = s.ctrs := rfl
@[simp] theorem State.wr_now (s : State) (f : Fld) (v : Nat) : (s.wr f v).now = s.now := rfl
@[simp] theorem State.wr_free (s : State) (f : Fld) (v : Nat) : (s.wr f v).free = s.free := rfl
@[simp] theorem State.wr_pending (s : State) (f : Fld) (v : Nat) : (s.wr f v).pending = s.pending := rfl
@[simp] theorem State.wr_flt (s : State) (f : Fld) (v : Nat) : (s.wr f v).flt = s.flt := rfl
@[simp] theorem State.wr_pon (s : State) (f : Fld) (v : Nat) : (s.wr f v).pon = s.pon := rfl
@[simp] theorem State.wr_act (s : State) (f : Fld) (v : Nat) : (s.wr f v).act = s.act := rfl
@[simp] theorem State.wr_whf (s : State) (f : Fld) (v : Nat) : (s.wr f v).whf = s.whf := rfl
@[simp] theorem State.wr_cpg (s : State) (f : Fld) (v : Nat) : (s.wr f v).cpg = s.cpg := rfl
@[simp] theorem State.wr_keys (s : State) (f : Fld) (v : Nat) : (s.wr f v).keys = s.keys := rfl
@[simp] theorem State.wr_pm (s : State) (f : Fld) (v : Nat) : (s.wr f v).pm = s.pm := rfl
@[simp] theorem State.wr_stw (s : State) (f : Fld) (v : Nat) : (s.wr f v).stw = s.stw := rfl
@[simp] theorem State.wr_twn (s : State) (f : Fld) (v : Nat) : (s.wr f v).twn = s.twn := rfl
@[simp] theorem State.wr_ldg (s : State) (f : Fld) (v : Nat) : (s.wr f v).ldg = s.ldg := rfl
@[simp] theorem State.wr_eng (s : State) (f : Fld) (v : Nat) : (s.wr f v).eng = s.eng := rfl
@[simp] theorem State.wr_fwd (s : State) (f : Fld) (v : Nat) : (s.wr f v).fwd = s.fwd := rfl
@[simp] theorem State.wr_hrl (s : State) (f : Fld) (v : Nat) : (s.wr f v).hrl = s.hrl := rfl
@[simp] theorem State.wr_shl (s : State) (f : Fld) (v : Nat) : (s.wr f v).shl = s.shl := rfl
@[simp] theorem State.wr_tly (s : State) (f : Fld) (v : Nat) : (s.wr f v).tly = s.tly := rfl
@[simp] theorem State.wr_wdn (s : State) (f : Fld) (v : Nat) : (s.wr f v).wdn = s.wdn := rfl
@[simp] theorem State.wr_boot (s : State) (f : Fld) (v : Nat) : (s.wr f v).boot = s.boot := rfl
@[simp] theorem State.wr_hst (s : State) (f : Fld) (v : Nat) : (s.wr f v).hst = s.hst := rfl
@[simp] theorem State.wr_rdata (s : State) (f : Fld) (v : Nat) : (s.wr f v).rdata = s.rdata := rfl

@[simp] theorem State.putWord_latch (s : State) (a : Nat) (v : Word) : (s.putWord a v).latch = s.latch := rfl
@[simp] theorem State.putWord_ctrs (s : State) (a : Nat) (v : Word) : (s.putWord a v).ctrs = s.ctrs := rfl
@[simp] theorem State.putWord_now (s : State) (a : Nat) (v : Word) : (s.putWord a v).now = s.now := rfl
@[simp] theorem State.putWord_free (s : State) (a : Nat) (v : Word) : (s.putWord a v).free = s.free := rfl
@[simp] theorem State.putWord_pending (s : State) (a : Nat) (v : Word) : (s.putWord a v).pending = s.pending := rfl
@[simp] theorem State.putWord_flt (s : State) (a : Nat) (v : Word) : (s.putWord a v).flt = s.flt := rfl
@[simp] theorem State.putWord_pon (s : State) (a : Nat) (v : Word) : (s.putWord a v).pon = s.pon := rfl
@[simp] theorem State.putWord_act (s : State) (a : Nat) (v : Word) : (s.putWord a v).act = s.act := rfl
@[simp] theorem State.putWord_whf (s : State) (a : Nat) (v : Word) : (s.putWord a v).whf = s.whf := rfl
@[simp] theorem State.putWord_cpg (s : State) (a : Nat) (v : Word) : (s.putWord a v).cpg = s.cpg := rfl
@[simp] theorem State.putWord_keys (s : State) (a : Nat) (v : Word) : (s.putWord a v).keys = s.keys := rfl
@[simp] theorem State.putWord_pm (s : State) (a : Nat) (v : Word) : (s.putWord a v).pm = s.pm := rfl
@[simp] theorem State.putWord_stw (s : State) (a : Nat) (v : Word) : (s.putWord a v).stw = s.stw := rfl
@[simp] theorem State.putWord_twn (s : State) (a : Nat) (v : Word) : (s.putWord a v).twn = s.twn := rfl
@[simp] theorem State.putWord_ldg (s : State) (a : Nat) (v : Word) : (s.putWord a v).ldg = s.ldg := rfl
@[simp] theorem State.putWord_eng (s : State) (a : Nat) (v : Word) : (s.putWord a v).eng = s.eng := rfl
@[simp] theorem State.putWord_fwd (s : State) (a : Nat) (v : Word) : (s.putWord a v).fwd = s.fwd := rfl
@[simp] theorem State.putWord_hrl (s : State) (a : Nat) (v : Word) : (s.putWord a v).hrl = s.hrl := rfl
@[simp] theorem State.putWord_shl (s : State) (a : Nat) (v : Word) : (s.putWord a v).shl = s.shl := rfl
@[simp] theorem State.putWord_tly (s : State) (a : Nat) (v : Word) : (s.putWord a v).tly = s.tly := rfl
@[simp] theorem State.putWord_wdn (s : State) (a : Nat) (v : Word) : (s.putWord a v).wdn = s.wdn := rfl
@[simp] theorem State.putWord_boot (s : State) (a : Nat) (v : Word) : (s.putWord a v).boot = s.boot := rfl
@[simp] theorem State.putWord_hst (s : State) (a : Nat) (v : Word) : (s.putWord a v).hst = s.hst := rfl
@[simp] theorem State.putWord_rdata (s : State) (a : Nat) (v : Word) : (s.putWord a v).rdata = s.rdata := rfl

@[simp] theorem State.setLatch_words (s : State) (a : Nat) (w : Word) : (s.setLatch a w).words = s.words := rfl
@[simp] theorem State.setLatch_ctrs (s : State) (a : Nat) (w : Word) : (s.setLatch a w).ctrs = s.ctrs := rfl
@[simp] theorem State.setLatch_now (s : State) (a : Nat) (w : Word) : (s.setLatch a w).now = s.now := rfl
@[simp] theorem State.setLatch_free (s : State) (a : Nat) (w : Word) : (s.setLatch a w).free = s.free := rfl
@[simp] theorem State.setLatch_pending (s : State) (a : Nat) (w : Word) : (s.setLatch a w).pending = s.pending := rfl
@[simp] theorem State.setLatch_flt (s : State) (a : Nat) (w : Word) : (s.setLatch a w).flt = s.flt := rfl
@[simp] theorem State.setLatch_pon (s : State) (a : Nat) (w : Word) : (s.setLatch a w).pon = s.pon := rfl
@[simp] theorem State.setLatch_act (s : State) (a : Nat) (w : Word) : (s.setLatch a w).act = s.act := rfl
@[simp] theorem State.setLatch_whf (s : State) (a : Nat) (w : Word) : (s.setLatch a w).whf = s.whf := rfl
@[simp] theorem State.setLatch_cpg (s : State) (a : Nat) (w : Word) : (s.setLatch a w).cpg = s.cpg := rfl
@[simp] theorem State.setLatch_keys (s : State) (a : Nat) (w : Word) : (s.setLatch a w).keys = s.keys := rfl
@[simp] theorem State.setLatch_pm (s : State) (a : Nat) (w : Word) : (s.setLatch a w).pm = s.pm := rfl
@[simp] theorem State.setLatch_stw (s : State) (a : Nat) (w : Word) : (s.setLatch a w).stw = s.stw := rfl
@[simp] theorem State.setLatch_twn (s : State) (a : Nat) (w : Word) : (s.setLatch a w).twn = s.twn := rfl
@[simp] theorem State.setLatch_ldg (s : State) (a : Nat) (w : Word) : (s.setLatch a w).ldg = s.ldg := rfl
@[simp] theorem State.setLatch_eng (s : State) (a : Nat) (w : Word) : (s.setLatch a w).eng = s.eng := rfl
@[simp] theorem State.setLatch_fwd (s : State) (a : Nat) (w : Word) : (s.setLatch a w).fwd = s.fwd := rfl
@[simp] theorem State.setLatch_hrl (s : State) (a : Nat) (w : Word) : (s.setLatch a w).hrl = s.hrl := rfl
@[simp] theorem State.setLatch_shl (s : State) (a : Nat) (w : Word) : (s.setLatch a w).shl = s.shl := rfl
@[simp] theorem State.setLatch_tly (s : State) (a : Nat) (w : Word) : (s.setLatch a w).tly = s.tly := rfl
@[simp] theorem State.setLatch_wdn (s : State) (a : Nat) (w : Word) : (s.setLatch a w).wdn = s.wdn := rfl
@[simp] theorem State.setLatch_boot (s : State) (a : Nat) (w : Word) : (s.setLatch a w).boot = s.boot := rfl
@[simp] theorem State.setLatch_hst (s : State) (a : Nat) (w : Word) : (s.setLatch a w).hst = s.hst := rfl
@[simp] theorem State.setLatch_rdata (s : State) (a : Nat) (w : Word) : (s.setLatch a w).rdata = s.rdata := rfl

@[simp] theorem State.answer_words (s : State) (ag : Agent) (w : Word) : (s.answer ag w).words = s.words := rfl
@[simp] theorem State.answer_latch (s : State) (ag : Agent) (w : Word) : (s.answer ag w).latch = s.latch := rfl
@[simp] theorem State.answer_ctrs (s : State) (ag : Agent) (w : Word) : (s.answer ag w).ctrs = s.ctrs := rfl
@[simp] theorem State.answer_now (s : State) (ag : Agent) (w : Word) : (s.answer ag w).now = s.now := rfl
@[simp] theorem State.answer_free (s : State) (ag : Agent) (w : Word) : (s.answer ag w).free = s.free := rfl
@[simp] theorem State.answer_pending (s : State) (ag : Agent) (w : Word) : (s.answer ag w).pending = s.pending := rfl
@[simp] theorem State.answer_flt (s : State) (ag : Agent) (w : Word) : (s.answer ag w).flt = s.flt := rfl
@[simp] theorem State.answer_pon (s : State) (ag : Agent) (w : Word) : (s.answer ag w).pon = s.pon := rfl
@[simp] theorem State.answer_act (s : State) (ag : Agent) (w : Word) : (s.answer ag w).act = s.act := rfl
@[simp] theorem State.answer_whf (s : State) (ag : Agent) (w : Word) : (s.answer ag w).whf = s.whf := rfl
@[simp] theorem State.answer_cpg (s : State) (ag : Agent) (w : Word) : (s.answer ag w).cpg = s.cpg := rfl
@[simp] theorem State.answer_keys (s : State) (ag : Agent) (w : Word) : (s.answer ag w).keys = s.keys := rfl
@[simp] theorem State.answer_pm (s : State) (ag : Agent) (w : Word) : (s.answer ag w).pm = s.pm := rfl
@[simp] theorem State.answer_stw (s : State) (ag : Agent) (w : Word) : (s.answer ag w).stw = s.stw := rfl
@[simp] theorem State.answer_twn (s : State) (ag : Agent) (w : Word) : (s.answer ag w).twn = s.twn := rfl
@[simp] theorem State.answer_ldg (s : State) (ag : Agent) (w : Word) : (s.answer ag w).ldg = s.ldg := rfl
@[simp] theorem State.answer_eng (s : State) (ag : Agent) (w : Word) : (s.answer ag w).eng = s.eng := rfl
@[simp] theorem State.answer_fwd (s : State) (ag : Agent) (w : Word) : (s.answer ag w).fwd = s.fwd := rfl
@[simp] theorem State.answer_hrl (s : State) (ag : Agent) (w : Word) : (s.answer ag w).hrl = s.hrl := rfl
@[simp] theorem State.answer_shl (s : State) (ag : Agent) (w : Word) : (s.answer ag w).shl = s.shl := rfl
@[simp] theorem State.answer_tly (s : State) (ag : Agent) (w : Word) : (s.answer ag w).tly = s.tly := rfl
@[simp] theorem State.answer_wdn (s : State) (ag : Agent) (w : Word) : (s.answer ag w).wdn = s.wdn := rfl
@[simp] theorem State.answer_boot (s : State) (ag : Agent) (w : Word) : (s.answer ag w).boot = s.boot := rfl
@[simp] theorem State.answer_hst (s : State) (ag : Agent) (w : Word) : (s.answer ag w).hst = s.hst := rfl

@[simp] theorem State.tally_words (s : State) (code qual inst n : Nat) (x : Option PrivAcc) : (s.tally code qual inst n x).words = s.words := rfl
@[simp] theorem State.tally_latch (s : State) (code qual inst n : Nat) (x : Option PrivAcc) : (s.tally code qual inst n x).latch = s.latch := rfl
@[simp] theorem State.tally_ctrs (s : State) (code qual inst n : Nat) (x : Option PrivAcc) : (s.tally code qual inst n x).ctrs = s.ctrs := rfl
@[simp] theorem State.tally_now (s : State) (code qual inst n : Nat) (x : Option PrivAcc) : (s.tally code qual inst n x).now = s.now := rfl
@[simp] theorem State.tally_free (s : State) (code qual inst n : Nat) (x : Option PrivAcc) : (s.tally code qual inst n x).free = s.free := rfl
@[simp] theorem State.tally_pending (s : State) (code qual inst n : Nat) (x : Option PrivAcc) : (s.tally code qual inst n x).pending = s.pending := rfl
@[simp] theorem State.tally_flt (s : State) (code qual inst n : Nat) (x : Option PrivAcc) : (s.tally code qual inst n x).flt = s.flt := rfl
@[simp] theorem State.tally_pon (s : State) (code qual inst n : Nat) (x : Option PrivAcc) : (s.tally code qual inst n x).pon = s.pon := rfl
@[simp] theorem State.tally_act (s : State) (code qual inst n : Nat) (x : Option PrivAcc) : (s.tally code qual inst n x).act = s.act := rfl
@[simp] theorem State.tally_whf (s : State) (code qual inst n : Nat) (x : Option PrivAcc) : (s.tally code qual inst n x).whf = s.whf := rfl
@[simp] theorem State.tally_cpg (s : State) (code qual inst n : Nat) (x : Option PrivAcc) : (s.tally code qual inst n x).cpg = s.cpg := rfl
@[simp] theorem State.tally_keys (s : State) (code qual inst n : Nat) (x : Option PrivAcc) : (s.tally code qual inst n x).keys = s.keys := rfl
@[simp] theorem State.tally_pm (s : State) (code qual inst n : Nat) (x : Option PrivAcc) : (s.tally code qual inst n x).pm = s.pm := rfl
@[simp] theorem State.tally_stw (s : State) (code qual inst n : Nat) (x : Option PrivAcc) : (s.tally code qual inst n x).stw = s.stw := rfl
@[simp] theorem State.tally_twn (s : State) (code qual inst n : Nat) (x : Option PrivAcc) : (s.tally code qual inst n x).twn = s.twn := rfl
@[simp] theorem State.tally_ldg (s : State) (code qual inst n : Nat) (x : Option PrivAcc) : (s.tally code qual inst n x).ldg = s.ldg := rfl
@[simp] theorem State.tally_eng (s : State) (code qual inst n : Nat) (x : Option PrivAcc) : (s.tally code qual inst n x).eng = s.eng := rfl
@[simp] theorem State.tally_fwd (s : State) (code qual inst n : Nat) (x : Option PrivAcc) : (s.tally code qual inst n x).fwd = s.fwd := rfl
@[simp] theorem State.tally_hrl (s : State) (code qual inst n : Nat) (x : Option PrivAcc) : (s.tally code qual inst n x).hrl = s.hrl := rfl
@[simp] theorem State.tally_shl (s : State) (code qual inst n : Nat) (x : Option PrivAcc) : (s.tally code qual inst n x).shl = s.shl := rfl
@[simp] theorem State.tally_wdn (s : State) (code qual inst n : Nat) (x : Option PrivAcc) : (s.tally code qual inst n x).wdn = s.wdn := rfl
@[simp] theorem State.tally_boot (s : State) (code qual inst n : Nat) (x : Option PrivAcc) : (s.tally code qual inst n x).boot = s.boot := rfl
@[simp] theorem State.tally_hst (s : State) (code qual inst n : Nat) (x : Option PrivAcc) : (s.tally code qual inst n x).hst = s.hst := rfl
@[simp] theorem State.tally_rdata (s : State) (code qual inst n : Nat) (x : Option PrivAcc) : (s.tally code qual inst n x).rdata = s.rdata := rfl

@[simp] theorem State.raise_words (s : State) (k : Kind) (src : Source) (addr : Nat) : (s.raise k src addr).words = s.words := rfl
@[simp] theorem State.raise_latch (s : State) (k : Kind) (src : Source) (addr : Nat) : (s.raise k src addr).latch = s.latch := rfl
@[simp] theorem State.raise_ctrs (s : State) (k : Kind) (src : Source) (addr : Nat) : (s.raise k src addr).ctrs = s.ctrs := rfl
@[simp] theorem State.raise_now (s : State) (k : Kind) (src : Source) (addr : Nat) : (s.raise k src addr).now = s.now := rfl
@[simp] theorem State.raise_free (s : State) (k : Kind) (src : Source) (addr : Nat) : (s.raise k src addr).free = s.free := rfl
@[simp] theorem State.raise_pending (s : State) (k : Kind) (src : Source) (addr : Nat) : (s.raise k src addr).pending = s.pending := rfl
@[simp] theorem State.raise_pon (s : State) (k : Kind) (src : Source) (addr : Nat) : (s.raise k src addr).pon = s.pon := rfl
@[simp] theorem State.raise_act (s : State) (k : Kind) (src : Source) (addr : Nat) : (s.raise k src addr).act = s.act := rfl
@[simp] theorem State.raise_whf (s : State) (k : Kind) (src : Source) (addr : Nat) : (s.raise k src addr).whf = s.whf := rfl
@[simp] theorem State.raise_cpg (s : State) (k : Kind) (src : Source) (addr : Nat) : (s.raise k src addr).cpg = s.cpg := rfl
@[simp] theorem State.raise_keys (s : State) (k : Kind) (src : Source) (addr : Nat) : (s.raise k src addr).keys = s.keys := rfl
@[simp] theorem State.raise_pm (s : State) (k : Kind) (src : Source) (addr : Nat) : (s.raise k src addr).pm = s.pm := rfl
@[simp] theorem State.raise_stw (s : State) (k : Kind) (src : Source) (addr : Nat) : (s.raise k src addr).stw = s.stw := rfl
@[simp] theorem State.raise_twn (s : State) (k : Kind) (src : Source) (addr : Nat) : (s.raise k src addr).twn = s.twn := rfl
@[simp] theorem State.raise_ldg (s : State) (k : Kind) (src : Source) (addr : Nat) : (s.raise k src addr).ldg = s.ldg := rfl
@[simp] theorem State.raise_eng (s : State) (k : Kind) (src : Source) (addr : Nat) : (s.raise k src addr).eng = s.eng := rfl
@[simp] theorem State.raise_fwd (s : State) (k : Kind) (src : Source) (addr : Nat) : (s.raise k src addr).fwd = s.fwd := rfl
@[simp] theorem State.raise_hrl (s : State) (k : Kind) (src : Source) (addr : Nat) : (s.raise k src addr).hrl = s.hrl := rfl
@[simp] theorem State.raise_shl (s : State) (k : Kind) (src : Source) (addr : Nat) : (s.raise k src addr).shl = s.shl := rfl
@[simp] theorem State.raise_tly (s : State) (k : Kind) (src : Source) (addr : Nat) : (s.raise k src addr).tly = s.tly := rfl
@[simp] theorem State.raise_wdn (s : State) (k : Kind) (src : Source) (addr : Nat) : (s.raise k src addr).wdn = s.wdn := rfl
@[simp] theorem State.raise_boot (s : State) (k : Kind) (src : Source) (addr : Nat) : (s.raise k src addr).boot = s.boot := rfl
@[simp] theorem State.raise_hst (s : State) (k : Kind) (src : Source) (addr : Nat) : (s.raise k src addr).hst = s.hst := rfl
@[simp] theorem State.raise_rdata (s : State) (k : Kind) (src : Source) (addr : Nat) : (s.raise k src addr).rdata = s.rdata := rfl

@[simp] theorem State.endCause_words (s : State) (k : Kind) (src : Source) (sub : Nat) : (s.endCause k src sub).words = s.words := rfl
@[simp] theorem State.endCause_latch (s : State) (k : Kind) (src : Source) (sub : Nat) : (s.endCause k src sub).latch = s.latch := rfl
@[simp] theorem State.endCause_ctrs (s : State) (k : Kind) (src : Source) (sub : Nat) : (s.endCause k src sub).ctrs = s.ctrs := rfl
@[simp] theorem State.endCause_now (s : State) (k : Kind) (src : Source) (sub : Nat) : (s.endCause k src sub).now = s.now := rfl
@[simp] theorem State.endCause_free (s : State) (k : Kind) (src : Source) (sub : Nat) : (s.endCause k src sub).free = s.free := rfl
@[simp] theorem State.endCause_pending (s : State) (k : Kind) (src : Source) (sub : Nat) : (s.endCause k src sub).pending = s.pending := rfl
@[simp] theorem State.endCause_pon (s : State) (k : Kind) (src : Source) (sub : Nat) : (s.endCause k src sub).pon = s.pon := rfl
@[simp] theorem State.endCause_act (s : State) (k : Kind) (src : Source) (sub : Nat) : (s.endCause k src sub).act = s.act := rfl
@[simp] theorem State.endCause_whf (s : State) (k : Kind) (src : Source) (sub : Nat) : (s.endCause k src sub).whf = s.whf := rfl
@[simp] theorem State.endCause_cpg (s : State) (k : Kind) (src : Source) (sub : Nat) : (s.endCause k src sub).cpg = s.cpg := rfl
@[simp] theorem State.endCause_keys (s : State) (k : Kind) (src : Source) (sub : Nat) : (s.endCause k src sub).keys = s.keys := rfl
@[simp] theorem State.endCause_pm (s : State) (k : Kind) (src : Source) (sub : Nat) : (s.endCause k src sub).pm = s.pm := rfl
@[simp] theorem State.endCause_stw (s : State) (k : Kind) (src : Source) (sub : Nat) : (s.endCause k src sub).stw = s.stw := rfl
@[simp] theorem State.endCause_twn (s : State) (k : Kind) (src : Source) (sub : Nat) : (s.endCause k src sub).twn = s.twn := rfl
@[simp] theorem State.endCause_ldg (s : State) (k : Kind) (src : Source) (sub : Nat) : (s.endCause k src sub).ldg = s.ldg := rfl
@[simp] theorem State.endCause_eng (s : State) (k : Kind) (src : Source) (sub : Nat) : (s.endCause k src sub).eng = s.eng := rfl
@[simp] theorem State.endCause_fwd (s : State) (k : Kind) (src : Source) (sub : Nat) : (s.endCause k src sub).fwd = s.fwd := rfl
@[simp] theorem State.endCause_hrl (s : State) (k : Kind) (src : Source) (sub : Nat) : (s.endCause k src sub).hrl = s.hrl := rfl
@[simp] theorem State.endCause_shl (s : State) (k : Kind) (src : Source) (sub : Nat) : (s.endCause k src sub).shl = s.shl := rfl
@[simp] theorem State.endCause_tly (s : State) (k : Kind) (src : Source) (sub : Nat) : (s.endCause k src sub).tly = s.tly := rfl
@[simp] theorem State.endCause_wdn (s : State) (k : Kind) (src : Source) (sub : Nat) : (s.endCause k src sub).wdn = s.wdn := rfl
@[simp] theorem State.endCause_boot (s : State) (k : Kind) (src : Source) (sub : Nat) : (s.endCause k src sub).boot = s.boot := rfl
@[simp] theorem State.endCause_hst (s : State) (k : Kind) (src : Source) (sub : Nat) : (s.endCause k src sub).hst = s.hst := rfl
@[simp] theorem State.endCause_rdata (s : State) (k : Kind) (src : Source) (sub : Nat) : (s.endCause k src sub).rdata = s.rdata := rfl

@[simp] theorem State.onset_words (s : State) (k : Kind) (src : Source) (sub addr : Nat) : (s.onset k src sub addr).words = s.words := rfl
@[simp] theorem State.onset_latch (s : State) (k : Kind) (src : Source) (sub addr : Nat) : (s.onset k src sub addr).latch = s.latch := rfl
@[simp] theorem State.onset_ctrs (s : State) (k : Kind) (src : Source) (sub addr : Nat) : (s.onset k src sub addr).ctrs = s.ctrs := rfl
@[simp] theorem State.onset_now (s : State) (k : Kind) (src : Source) (sub addr : Nat) : (s.onset k src sub addr).now = s.now := rfl
@[simp] theorem State.onset_free (s : State) (k : Kind) (src : Source) (sub addr : Nat) : (s.onset k src sub addr).free = s.free := rfl
@[simp] theorem State.onset_pending (s : State) (k : Kind) (src : Source) (sub addr : Nat) : (s.onset k src sub addr).pending = s.pending := rfl
@[simp] theorem State.onset_pon (s : State) (k : Kind) (src : Source) (sub addr : Nat) : (s.onset k src sub addr).pon = s.pon := rfl
@[simp] theorem State.onset_act (s : State) (k : Kind) (src : Source) (sub addr : Nat) : (s.onset k src sub addr).act = s.act := rfl
@[simp] theorem State.onset_whf (s : State) (k : Kind) (src : Source) (sub addr : Nat) : (s.onset k src sub addr).whf = s.whf := rfl
@[simp] theorem State.onset_cpg (s : State) (k : Kind) (src : Source) (sub addr : Nat) : (s.onset k src sub addr).cpg = s.cpg := rfl
@[simp] theorem State.onset_keys (s : State) (k : Kind) (src : Source) (sub addr : Nat) : (s.onset k src sub addr).keys = s.keys := rfl
@[simp] theorem State.onset_pm (s : State) (k : Kind) (src : Source) (sub addr : Nat) : (s.onset k src sub addr).pm = s.pm := rfl
@[simp] theorem State.onset_stw (s : State) (k : Kind) (src : Source) (sub addr : Nat) : (s.onset k src sub addr).stw = s.stw := rfl
@[simp] theorem State.onset_twn (s : State) (k : Kind) (src : Source) (sub addr : Nat) : (s.onset k src sub addr).twn = s.twn := rfl
@[simp] theorem State.onset_ldg (s : State) (k : Kind) (src : Source) (sub addr : Nat) : (s.onset k src sub addr).ldg = s.ldg := rfl
@[simp] theorem State.onset_eng (s : State) (k : Kind) (src : Source) (sub addr : Nat) : (s.onset k src sub addr).eng = s.eng := rfl
@[simp] theorem State.onset_fwd (s : State) (k : Kind) (src : Source) (sub addr : Nat) : (s.onset k src sub addr).fwd = s.fwd := rfl
@[simp] theorem State.onset_hrl (s : State) (k : Kind) (src : Source) (sub addr : Nat) : (s.onset k src sub addr).hrl = s.hrl := rfl
@[simp] theorem State.onset_shl (s : State) (k : Kind) (src : Source) (sub addr : Nat) : (s.onset k src sub addr).shl = s.shl := rfl
@[simp] theorem State.onset_tly (s : State) (k : Kind) (src : Source) (sub addr : Nat) : (s.onset k src sub addr).tly = s.tly := rfl
@[simp] theorem State.onset_wdn (s : State) (k : Kind) (src : Source) (sub addr : Nat) : (s.onset k src sub addr).wdn = s.wdn := rfl
@[simp] theorem State.onset_boot (s : State) (k : Kind) (src : Source) (sub addr : Nat) : (s.onset k src sub addr).boot = s.boot := rfl
@[simp] theorem State.onset_hst (s : State) (k : Kind) (src : Source) (sub addr : Nat) : (s.onset k src sub addr).hst = s.hst := rfl
@[simp] theorem State.onset_rdata (s : State) (k : Kind) (src : Source) (sub addr : Nat) : (s.onset k src sub addr).rdata = s.rdata := rfl

@[simp] theorem State.countQ_words (s : State) (a n qual : Nat) : (s.countQ a n qual).words = s.words := by
  unfold State.countQ
  dsimp only
  split
  · split <;> rfl
  · rfl
@[simp] theorem State.countQ_latch (s : State) (a n qual : Nat) : (s.countQ a n qual).latch = s.latch := by
  unfold State.countQ
  dsimp only
  split
  · split <;> rfl
  · rfl
@[simp] theorem State.countQ_now (s : State) (a n qual : Nat) : (s.countQ a n qual).now = s.now := by
  unfold State.countQ
  dsimp only
  split
  · split <;> rfl
  · rfl
@[simp] theorem State.countQ_free (s : State) (a n qual : Nat) : (s.countQ a n qual).free = s.free := by
  unfold State.countQ
  dsimp only
  split
  · split <;> rfl
  · rfl
@[simp] theorem State.countQ_pending (s : State) (a n qual : Nat) : (s.countQ a n qual).pending = s.pending := by
  unfold State.countQ
  dsimp only
  split
  · split <;> rfl
  · rfl
@[simp] theorem State.countQ_flt (s : State) (a n qual : Nat) : (s.countQ a n qual).flt = s.flt := by
  unfold State.countQ
  dsimp only
  split
  · split <;> rfl
  · rfl
@[simp] theorem State.countQ_pon (s : State) (a n qual : Nat) : (s.countQ a n qual).pon = s.pon := by
  unfold State.countQ
  dsimp only
  split
  · split <;> rfl
  · rfl
@[simp] theorem State.countQ_act (s : State) (a n qual : Nat) : (s.countQ a n qual).act = s.act := by
  unfold State.countQ
  dsimp only
  split
  · split <;> rfl
  · rfl
@[simp] theorem State.countQ_whf (s : State) (a n qual : Nat) : (s.countQ a n qual).whf = s.whf := by
  unfold State.countQ
  dsimp only
  split
  · split <;> rfl
  · rfl
@[simp] theorem State.countQ_cpg (s : State) (a n qual : Nat) : (s.countQ a n qual).cpg = s.cpg := by
  unfold State.countQ
  dsimp only
  split
  · split <;> rfl
  · rfl
@[simp] theorem State.countQ_keys (s : State) (a n qual : Nat) : (s.countQ a n qual).keys = s.keys := by
  unfold State.countQ
  dsimp only
  split
  · split <;> rfl
  · rfl
@[simp] theorem State.countQ_pm (s : State) (a n qual : Nat) : (s.countQ a n qual).pm = s.pm := by
  unfold State.countQ
  dsimp only
  split
  · split <;> rfl
  · rfl
@[simp] theorem State.countQ_stw (s : State) (a n qual : Nat) : (s.countQ a n qual).stw = s.stw := by
  unfold State.countQ
  dsimp only
  split
  · split <;> rfl
  · rfl
@[simp] theorem State.countQ_twn (s : State) (a n qual : Nat) : (s.countQ a n qual).twn = s.twn := by
  unfold State.countQ
  dsimp only
  split
  · split <;> rfl
  · rfl
@[simp] theorem State.countQ_ldg (s : State) (a n qual : Nat) : (s.countQ a n qual).ldg = s.ldg := by
  unfold State.countQ
  dsimp only
  split
  · split <;> rfl
  · rfl
@[simp] theorem State.countQ_eng (s : State) (a n qual : Nat) : (s.countQ a n qual).eng = s.eng := by
  unfold State.countQ
  dsimp only
  split
  · split <;> rfl
  · rfl
@[simp] theorem State.countQ_fwd (s : State) (a n qual : Nat) : (s.countQ a n qual).fwd = s.fwd := by
  unfold State.countQ
  dsimp only
  split
  · split <;> rfl
  · rfl
@[simp] theorem State.countQ_hrl (s : State) (a n qual : Nat) : (s.countQ a n qual).hrl = s.hrl := by
  unfold State.countQ
  dsimp only
  split
  · split <;> rfl
  · rfl
@[simp] theorem State.countQ_shl (s : State) (a n qual : Nat) : (s.countQ a n qual).shl = s.shl := by
  unfold State.countQ
  dsimp only
  split
  · split <;> rfl
  · rfl
@[simp] theorem State.countQ_wdn (s : State) (a n qual : Nat) : (s.countQ a n qual).wdn = s.wdn := by
  unfold State.countQ
  dsimp only
  split
  · split <;> rfl
  · rfl
@[simp] theorem State.countQ_boot (s : State) (a n qual : Nat) : (s.countQ a n qual).boot = s.boot := by
  unfold State.countQ
  dsimp only
  split
  · split <;> rfl
  · rfl
@[simp] theorem State.countQ_hst (s : State) (a n qual : Nat) : (s.countQ a n qual).hst = s.hst := by
  unfold State.countQ
  dsimp only
  split
  · split <;> rfl
  · rfl
@[simp] theorem State.countQ_rdata (s : State) (a n qual : Nat) : (s.countQ a n qual).rdata = s.rdata := by
  unfold State.countQ
  dsimp only
  split
  · split <;> rfl
  · rfl
@[simp] theorem State.count_words (s : State) (a n : Nat) : (s.count a n).words = s.words := State.countQ_words s a n 0
@[simp] theorem State.count_latch (s : State) (a n : Nat) : (s.count a n).latch = s.latch := State.countQ_latch s a n 0
@[simp] theorem State.count_now (s : State) (a n : Nat) : (s.count a n).now = s.now := State.countQ_now s a n 0
@[simp] theorem State.count_free (s : State) (a n : Nat) : (s.count a n).free = s.free := State.countQ_free s a n 0
@[simp] theorem State.count_pending (s : State) (a n : Nat) : (s.count a n).pending = s.pending := State.countQ_pending s a n 0
@[simp] theorem State.count_flt (s : State) (a n : Nat) : (s.count a n).flt = s.flt := State.countQ_flt s a n 0
@[simp] theorem State.count_pon (s : State) (a n : Nat) : (s.count a n).pon = s.pon := State.countQ_pon s a n 0
@[simp] theorem State.count_act (s : State) (a n : Nat) : (s.count a n).act = s.act := State.countQ_act s a n 0
@[simp] theorem State.count_whf (s : State) (a n : Nat) : (s.count a n).whf = s.whf := State.countQ_whf s a n 0
@[simp] theorem State.count_cpg (s : State) (a n : Nat) : (s.count a n).cpg = s.cpg := State.countQ_cpg s a n 0
@[simp] theorem State.count_keys (s : State) (a n : Nat) : (s.count a n).keys = s.keys := State.countQ_keys s a n 0
@[simp] theorem State.count_pm (s : State) (a n : Nat) : (s.count a n).pm = s.pm := State.countQ_pm s a n 0
@[simp] theorem State.count_stw (s : State) (a n : Nat) : (s.count a n).stw = s.stw := State.countQ_stw s a n 0
@[simp] theorem State.count_twn (s : State) (a n : Nat) : (s.count a n).twn = s.twn := State.countQ_twn s a n 0
@[simp] theorem State.count_ldg (s : State) (a n : Nat) : (s.count a n).ldg = s.ldg := State.countQ_ldg s a n 0
@[simp] theorem State.count_eng (s : State) (a n : Nat) : (s.count a n).eng = s.eng := State.countQ_eng s a n 0
@[simp] theorem State.count_fwd (s : State) (a n : Nat) : (s.count a n).fwd = s.fwd := State.countQ_fwd s a n 0
@[simp] theorem State.count_hrl (s : State) (a n : Nat) : (s.count a n).hrl = s.hrl := State.countQ_hrl s a n 0
@[simp] theorem State.count_shl (s : State) (a n : Nat) : (s.count a n).shl = s.shl := State.countQ_shl s a n 0
@[simp] theorem State.count_wdn (s : State) (a n : Nat) : (s.count a n).wdn = s.wdn := State.countQ_wdn s a n 0
@[simp] theorem State.count_boot (s : State) (a n : Nat) : (s.count a n).boot = s.boot := State.countQ_boot s a n 0
@[simp] theorem State.count_hst (s : State) (a n : Nat) : (s.count a n).hst = s.hst := State.countQ_hst s a n 0
@[simp] theorem State.count_rdata (s : State) (a n : Nat) : (s.count a n).rdata = s.rdata := State.countQ_rdata s a n 0

@[simp] theorem State.inc_words (s : State) (a : Nat) : (s.inc a).words = s.words := State.countQ_words s a 1 0
@[simp] theorem State.inc_latch (s : State) (a : Nat) : (s.inc a).latch = s.latch := State.countQ_latch s a 1 0
@[simp] theorem State.inc_now (s : State) (a : Nat) : (s.inc a).now = s.now := State.countQ_now s a 1 0
@[simp] theorem State.inc_free (s : State) (a : Nat) : (s.inc a).free = s.free := State.countQ_free s a 1 0
@[simp] theorem State.inc_pending (s : State) (a : Nat) : (s.inc a).pending = s.pending := State.countQ_pending s a 1 0
@[simp] theorem State.inc_flt (s : State) (a : Nat) : (s.inc a).flt = s.flt := State.countQ_flt s a 1 0
@[simp] theorem State.inc_pon (s : State) (a : Nat) : (s.inc a).pon = s.pon := State.countQ_pon s a 1 0
@[simp] theorem State.inc_act (s : State) (a : Nat) : (s.inc a).act = s.act := State.countQ_act s a 1 0
@[simp] theorem State.inc_whf (s : State) (a : Nat) : (s.inc a).whf = s.whf := State.countQ_whf s a 1 0
@[simp] theorem State.inc_cpg (s : State) (a : Nat) : (s.inc a).cpg = s.cpg := State.countQ_cpg s a 1 0
@[simp] theorem State.inc_keys (s : State) (a : Nat) : (s.inc a).keys = s.keys := State.countQ_keys s a 1 0
@[simp] theorem State.inc_pm (s : State) (a : Nat) : (s.inc a).pm = s.pm := State.countQ_pm s a 1 0
@[simp] theorem State.inc_stw (s : State) (a : Nat) : (s.inc a).stw = s.stw := State.countQ_stw s a 1 0
@[simp] theorem State.inc_twn (s : State) (a : Nat) : (s.inc a).twn = s.twn := State.countQ_twn s a 1 0
@[simp] theorem State.inc_ldg (s : State) (a : Nat) : (s.inc a).ldg = s.ldg := State.countQ_ldg s a 1 0
@[simp] theorem State.inc_eng (s : State) (a : Nat) : (s.inc a).eng = s.eng := State.countQ_eng s a 1 0
@[simp] theorem State.inc_fwd (s : State) (a : Nat) : (s.inc a).fwd = s.fwd := State.countQ_fwd s a 1 0
@[simp] theorem State.inc_hrl (s : State) (a : Nat) : (s.inc a).hrl = s.hrl := State.countQ_hrl s a 1 0
@[simp] theorem State.inc_shl (s : State) (a : Nat) : (s.inc a).shl = s.shl := State.countQ_shl s a 1 0
@[simp] theorem State.inc_wdn (s : State) (a : Nat) : (s.inc a).wdn = s.wdn := State.countQ_wdn s a 1 0
@[simp] theorem State.inc_boot (s : State) (a : Nat) : (s.inc a).boot = s.boot := State.countQ_boot s a 1 0
@[simp] theorem State.inc_hst (s : State) (a : Nat) : (s.inc a).hst = s.hst := State.countQ_hst s a 1 0
@[simp] theorem State.inc_rdata (s : State) (a : Nat) : (s.inc a).rdata = s.rdata := State.countQ_rdata s a 1 0

@[simp] theorem State.incQ_words (s : State) (a qual : Nat) : (s.incQ a qual).words = s.words := State.countQ_words s a 1 qual
@[simp] theorem State.incQ_latch (s : State) (a qual : Nat) : (s.incQ a qual).latch = s.latch := State.countQ_latch s a 1 qual
@[simp] theorem State.incQ_now (s : State) (a qual : Nat) : (s.incQ a qual).now = s.now := State.countQ_now s a 1 qual
@[simp] theorem State.incQ_free (s : State) (a qual : Nat) : (s.incQ a qual).free = s.free := State.countQ_free s a 1 qual
@[simp] theorem State.incQ_pending (s : State) (a qual : Nat) : (s.incQ a qual).pending = s.pending := State.countQ_pending s a 1 qual
@[simp] theorem State.incQ_flt (s : State) (a qual : Nat) : (s.incQ a qual).flt = s.flt := State.countQ_flt s a 1 qual
@[simp] theorem State.incQ_pon (s : State) (a qual : Nat) : (s.incQ a qual).pon = s.pon := State.countQ_pon s a 1 qual
@[simp] theorem State.incQ_act (s : State) (a qual : Nat) : (s.incQ a qual).act = s.act := State.countQ_act s a 1 qual
@[simp] theorem State.incQ_whf (s : State) (a qual : Nat) : (s.incQ a qual).whf = s.whf := State.countQ_whf s a 1 qual
@[simp] theorem State.incQ_cpg (s : State) (a qual : Nat) : (s.incQ a qual).cpg = s.cpg := State.countQ_cpg s a 1 qual
@[simp] theorem State.incQ_keys (s : State) (a qual : Nat) : (s.incQ a qual).keys = s.keys := State.countQ_keys s a 1 qual
@[simp] theorem State.incQ_pm (s : State) (a qual : Nat) : (s.incQ a qual).pm = s.pm := State.countQ_pm s a 1 qual
@[simp] theorem State.incQ_stw (s : State) (a qual : Nat) : (s.incQ a qual).stw = s.stw := State.countQ_stw s a 1 qual
@[simp] theorem State.incQ_twn (s : State) (a qual : Nat) : (s.incQ a qual).twn = s.twn := State.countQ_twn s a 1 qual
@[simp] theorem State.incQ_ldg (s : State) (a qual : Nat) : (s.incQ a qual).ldg = s.ldg := State.countQ_ldg s a 1 qual
@[simp] theorem State.incQ_eng (s : State) (a qual : Nat) : (s.incQ a qual).eng = s.eng := State.countQ_eng s a 1 qual
@[simp] theorem State.incQ_fwd (s : State) (a qual : Nat) : (s.incQ a qual).fwd = s.fwd := State.countQ_fwd s a 1 qual
@[simp] theorem State.incQ_hrl (s : State) (a qual : Nat) : (s.incQ a qual).hrl = s.hrl := State.countQ_hrl s a 1 qual
@[simp] theorem State.incQ_shl (s : State) (a qual : Nat) : (s.incQ a qual).shl = s.shl := State.countQ_shl s a 1 qual
@[simp] theorem State.incQ_wdn (s : State) (a qual : Nat) : (s.incQ a qual).wdn = s.wdn := State.countQ_wdn s a 1 qual
@[simp] theorem State.incQ_boot (s : State) (a qual : Nat) : (s.incQ a qual).boot = s.boot := State.countQ_boot s a 1 qual
@[simp] theorem State.incQ_hst (s : State) (a qual : Nat) : (s.incQ a qual).hst = s.hst := State.countQ_hst s a 1 qual
@[simp] theorem State.incQ_rdata (s : State) (a qual : Nat) : (s.incQ a qual).rdata = s.rdata := State.countQ_rdata s a 1 qual

@[simp] theorem State.raiseLimited_words (s : State) (k : Kind) (src : Source) (addr key ns : Nat) : (s.raiseLimited k src addr key ns).words = s.words := by
  unfold State.raiseLimited
  dsimp only
  split <;> rfl
@[simp] theorem State.raiseLimited_latch (s : State) (k : Kind) (src : Source) (addr key ns : Nat) : (s.raiseLimited k src addr key ns).latch = s.latch := by
  unfold State.raiseLimited
  dsimp only
  split <;> rfl
@[simp] theorem State.raiseLimited_ctrs (s : State) (k : Kind) (src : Source) (addr key ns : Nat) : (s.raiseLimited k src addr key ns).ctrs = s.ctrs := by
  unfold State.raiseLimited
  dsimp only
  split <;> rfl
@[simp] theorem State.raiseLimited_now (s : State) (k : Kind) (src : Source) (addr key ns : Nat) : (s.raiseLimited k src addr key ns).now = s.now := by
  unfold State.raiseLimited
  dsimp only
  split <;> rfl
@[simp] theorem State.raiseLimited_free (s : State) (k : Kind) (src : Source) (addr key ns : Nat) : (s.raiseLimited k src addr key ns).free = s.free := by
  unfold State.raiseLimited
  dsimp only
  split <;> rfl
@[simp] theorem State.raiseLimited_pending (s : State) (k : Kind) (src : Source) (addr key ns : Nat) : (s.raiseLimited k src addr key ns).pending = s.pending := by
  unfold State.raiseLimited
  dsimp only
  split <;> rfl
@[simp] theorem State.raiseLimited_pon (s : State) (k : Kind) (src : Source) (addr key ns : Nat) : (s.raiseLimited k src addr key ns).pon = s.pon := by
  unfold State.raiseLimited
  dsimp only
  split <;> rfl
@[simp] theorem State.raiseLimited_act (s : State) (k : Kind) (src : Source) (addr key ns : Nat) : (s.raiseLimited k src addr key ns).act = s.act := by
  unfold State.raiseLimited
  dsimp only
  split <;> rfl
@[simp] theorem State.raiseLimited_whf (s : State) (k : Kind) (src : Source) (addr key ns : Nat) : (s.raiseLimited k src addr key ns).whf = s.whf := by
  unfold State.raiseLimited
  dsimp only
  split <;> rfl
@[simp] theorem State.raiseLimited_cpg (s : State) (k : Kind) (src : Source) (addr key ns : Nat) : (s.raiseLimited k src addr key ns).cpg = s.cpg := by
  unfold State.raiseLimited
  dsimp only
  split <;> rfl
@[simp] theorem State.raiseLimited_keys (s : State) (k : Kind) (src : Source) (addr key ns : Nat) : (s.raiseLimited k src addr key ns).keys = s.keys := by
  unfold State.raiseLimited
  dsimp only
  split <;> rfl
@[simp] theorem State.raiseLimited_pm (s : State) (k : Kind) (src : Source) (addr key ns : Nat) : (s.raiseLimited k src addr key ns).pm = s.pm := by
  unfold State.raiseLimited
  dsimp only
  split <;> rfl
@[simp] theorem State.raiseLimited_stw (s : State) (k : Kind) (src : Source) (addr key ns : Nat) : (s.raiseLimited k src addr key ns).stw = s.stw := by
  unfold State.raiseLimited
  dsimp only
  split <;> rfl
@[simp] theorem State.raiseLimited_twn (s : State) (k : Kind) (src : Source) (addr key ns : Nat) : (s.raiseLimited k src addr key ns).twn = s.twn := by
  unfold State.raiseLimited
  dsimp only
  split <;> rfl
@[simp] theorem State.raiseLimited_ldg (s : State) (k : Kind) (src : Source) (addr key ns : Nat) : (s.raiseLimited k src addr key ns).ldg = s.ldg := by
  unfold State.raiseLimited
  dsimp only
  split <;> rfl
@[simp] theorem State.raiseLimited_eng (s : State) (k : Kind) (src : Source) (addr key ns : Nat) : (s.raiseLimited k src addr key ns).eng = s.eng := by
  unfold State.raiseLimited
  dsimp only
  split <;> rfl
@[simp] theorem State.raiseLimited_fwd (s : State) (k : Kind) (src : Source) (addr key ns : Nat) : (s.raiseLimited k src addr key ns).fwd = s.fwd := by
  unfold State.raiseLimited
  dsimp only
  split <;> rfl
@[simp] theorem State.raiseLimited_hrl (s : State) (k : Kind) (src : Source) (addr key ns : Nat) : (s.raiseLimited k src addr key ns).hrl = s.hrl := by
  unfold State.raiseLimited
  dsimp only
  split <;> rfl
@[simp] theorem State.raiseLimited_shl (s : State) (k : Kind) (src : Source) (addr key ns : Nat) : (s.raiseLimited k src addr key ns).shl = s.shl := by
  unfold State.raiseLimited
  dsimp only
  split <;> rfl
@[simp] theorem State.raiseLimited_tly (s : State) (k : Kind) (src : Source) (addr key ns : Nat) : (s.raiseLimited k src addr key ns).tly = s.tly := by
  unfold State.raiseLimited
  dsimp only
  split <;> rfl
@[simp] theorem State.raiseLimited_wdn (s : State) (k : Kind) (src : Source) (addr key ns : Nat) : (s.raiseLimited k src addr key ns).wdn = s.wdn := by
  unfold State.raiseLimited
  dsimp only
  split <;> rfl
@[simp] theorem State.raiseLimited_boot (s : State) (k : Kind) (src : Source) (addr key ns : Nat) : (s.raiseLimited k src addr key ns).boot = s.boot := by
  unfold State.raiseLimited
  dsimp only
  split <;> rfl
@[simp] theorem State.raiseLimited_hst (s : State) (k : Kind) (src : Source) (addr key ns : Nat) : (s.raiseLimited k src addr key ns).hst = s.hst := by
  unfold State.raiseLimited
  dsimp only
  split <;> rfl
@[simp] theorem State.raiseLimited_rdata (s : State) (k : Kind) (src : Source) (addr key ns : Nat) : (s.raiseLimited k src addr key ns).rdata = s.rdata := by
  unfold State.raiseLimited
  dsimp only
  split <;> rfl

/-! Reads of registers through updates of other fields. -/

@[simp] theorem State.setLatch_rd (s : State) (a : Nat) (w : Word) (g : Fld) : (s.setLatch a w).rd g = s.rd g := by
  simp [State.rd]
@[simp] theorem State.setLatch_word (s : State) (a : Nat) (w : Word) (k : Nat) : (s.setLatch a w).word k = s.word k := by
  simp [State.word]
@[simp] theorem State.answer_rd (s : State) (ag : Agent) (w : Word) (g : Fld) : (s.answer ag w).rd g = s.rd g := by
  simp [State.rd]
@[simp] theorem State.answer_word (s : State) (ag : Agent) (w : Word) (k : Nat) : (s.answer ag w).word k = s.word k := by
  simp [State.word]
@[simp] theorem State.tally_rd (s : State) (code qual inst n : Nat) (x : Option PrivAcc) (g : Fld) : (s.tally code qual inst n x).rd g = s.rd g := by
  simp [State.rd]
@[simp] theorem State.tally_word (s : State) (code qual inst n : Nat) (x : Option PrivAcc) (k : Nat) : (s.tally code qual inst n x).word k = s.word k := by
  simp [State.word]
@[simp] theorem State.raise_rd (s : State) (k : Kind) (src : Source) (addr : Nat) (g : Fld) : (s.raise k src addr).rd g = s.rd g := by
  simp [State.rd]
@[simp] theorem State.raise_word (s : State) (kk : Kind) (src : Source) (addr : Nat) (k : Nat) : (s.raise kk src addr).word k = s.word k := by
  simp [State.word]
@[simp] theorem State.endCause_rd (s : State) (k : Kind) (src : Source) (sub : Nat) (g : Fld) : (s.endCause k src sub).rd g = s.rd g := by
  simp [State.rd]
@[simp] theorem State.endCause_word (s : State) (kk : Kind) (src : Source) (sub : Nat) (k : Nat) : (s.endCause kk src sub).word k = s.word k := by
  simp [State.word]
@[simp] theorem State.onset_rd (s : State) (k : Kind) (src : Source) (sub addr : Nat) (g : Fld) : (s.onset k src sub addr).rd g = s.rd g := by
  simp [State.rd]
@[simp] theorem State.onset_word (s : State) (kk : Kind) (src : Source) (sub addr : Nat) (k : Nat) : (s.onset kk src sub addr).word k = s.word k := by
  simp [State.word]
@[simp] theorem State.countQ_rd (s : State) (a n qual : Nat) (g : Fld) : (s.countQ a n qual).rd g = s.rd g := by
  simp [State.rd]
@[simp] theorem State.countQ_word (s : State) (a n qual : Nat) (k : Nat) : (s.countQ a n qual).word k = s.word k := by
  simp [State.word]
@[simp] theorem State.count_rd (s : State) (a n : Nat) (g : Fld) : (s.count a n).rd g = s.rd g := by
  simp [State.rd]
@[simp] theorem State.count_word (s : State) (a n : Nat) (k : Nat) : (s.count a n).word k = s.word k := by
  simp [State.word]
@[simp] theorem State.inc_rd (s : State) (a : Nat) (g : Fld) : (s.inc a).rd g = s.rd g := by
  simp [State.rd]
@[simp] theorem State.inc_word (s : State) (a : Nat) (k : Nat) : (s.inc a).word k = s.word k := by
  simp [State.word]

end Sys2Proof.Machine
end

