-- ==== Sys2Proof/Laws/Setters.lean ====
section
/-! SUPPORT. Generated: the setters of the parts of the state change no other field. -/

namespace Sys2Proof.Machine

set_option autoImplicit false
set_option Elab.async false

@[simp] theorem State.setFn_words (s : State) (f : Nat) (x : Fn) : (State.setFn s f x).words = s.words := rfl
@[simp] theorem State.setFn_latch (s : State) (f : Nat) (x : Fn) : (State.setFn s f x).latch = s.latch := rfl
@[simp] theorem State.setFn_ctrs (s : State) (f : Nat) (x : Fn) : (State.setFn s f x).ctrs = s.ctrs := rfl
@[simp] theorem State.setFn_now (s : State) (f : Nat) (x : Fn) : (State.setFn s f x).now = s.now := rfl
@[simp] theorem State.setFn_free (s : State) (f : Nat) (x : Fn) : (State.setFn s f x).free = s.free := rfl
@[simp] theorem State.setFn_pending (s : State) (f : Nat) (x : Fn) : (State.setFn s f x).pending = s.pending := rfl
@[simp] theorem State.setFn_flt (s : State) (f : Nat) (x : Fn) : (State.setFn s f x).flt = s.flt := rfl
@[simp] theorem State.setFn_pon (s : State) (f : Nat) (x : Fn) : (State.setFn s f x).pon = s.pon := rfl
@[simp] theorem State.setFn_act (s : State) (f : Nat) (x : Fn) : (State.setFn s f x).act = s.act := rfl
@[simp] theorem State.setFn_whf (s : State) (f : Nat) (x : Fn) : (State.setFn s f x).whf = s.whf := rfl
@[simp] theorem State.setFn_cpg (s : State) (f : Nat) (x : Fn) : (State.setFn s f x).cpg = s.cpg := rfl
@[simp] theorem State.setFn_keys (s : State) (f : Nat) (x : Fn) : (State.setFn s f x).keys = s.keys := rfl
@[simp] theorem State.setFn_pm (s : State) (f : Nat) (x : Fn) : (State.setFn s f x).pm = s.pm := rfl
@[simp] theorem State.setFn_stw (s : State) (f : Nat) (x : Fn) : (State.setFn s f x).stw = s.stw := rfl
@[simp] theorem State.setFn_twn (s : State) (f : Nat) (x : Fn) : (State.setFn s f x).twn = s.twn := rfl
@[simp] theorem State.setFn_ldg (s : State) (f : Nat) (x : Fn) : (State.setFn s f x).ldg = s.ldg := rfl
@[simp] theorem State.setFn_eng (s : State) (f : Nat) (x : Fn) : (State.setFn s f x).eng = s.eng := rfl
@[simp] theorem State.setFn_fwd (s : State) (f : Nat) (x : Fn) : (State.setFn s f x).fwd = s.fwd := rfl
@[simp] theorem State.setFn_hrl (s : State) (f : Nat) (x : Fn) : (State.setFn s f x).hrl = s.hrl := rfl
@[simp] theorem State.setFn_shl (s : State) (f : Nat) (x : Fn) : (State.setFn s f x).shl = s.shl := rfl
@[simp] theorem State.setFn_tly (s : State) (f : Nat) (x : Fn) : (State.setFn s f x).tly = s.tly := rfl
@[simp] theorem State.setFn_wdn (s : State) (f : Nat) (x : Fn) : (State.setFn s f x).wdn = s.wdn := rfl
@[simp] theorem State.setFn_boot (s : State) (f : Nat) (x : Fn) : (State.setFn s f x).boot = s.boot := rfl
@[simp] theorem State.setFn_rdata (s : State) (f : Nat) (x : Fn) : (State.setFn s f x).rdata = s.rdata := rfl
@[simp] theorem State.setFn_rd (s : State) (f : Nat) (x : Fn) (fld : Fld) : (State.setFn s f x).rd fld = s.rd fld := rfl
@[simp] theorem State.setFn_word (s : State) (f : Nat) (x : Fn) (adr : Nat) : (State.setFn s f x).word adr = s.word adr := rfl

@[simp] theorem State.setSide_words (s : State) (p : Fin 32) (sd : Nat) (x : PonSide) : (State.setSide s p sd x).words = s.words := rfl
@[simp] theorem State.setSide_latch (s : State) (p : Fin 32) (sd : Nat) (x : PonSide) : (State.setSide s p sd x).latch = s.latch := rfl
@[simp] theorem State.setSide_ctrs (s : State) (p : Fin 32) (sd : Nat) (x : PonSide) : (State.setSide s p sd x).ctrs = s.ctrs := rfl
@[simp] theorem State.setSide_now (s : State) (p : Fin 32) (sd : Nat) (x : PonSide) : (State.setSide s p sd x).now = s.now := rfl
@[simp] theorem State.setSide_free (s : State) (p : Fin 32) (sd : Nat) (x : PonSide) : (State.setSide s p sd x).free = s.free := rfl
@[simp] theorem State.setSide_pending (s : State) (p : Fin 32) (sd : Nat) (x : PonSide) : (State.setSide s p sd x).pending = s.pending := rfl
@[simp] theorem State.setSide_flt (s : State) (p : Fin 32) (sd : Nat) (x : PonSide) : (State.setSide s p sd x).flt = s.flt := rfl
@[simp] theorem State.setSide_act (s : State) (p : Fin 32) (sd : Nat) (x : PonSide) : (State.setSide s p sd x).act = s.act := rfl
@[simp] theorem State.setSide_whf (s : State) (p : Fin 32) (sd : Nat) (x : PonSide) : (State.setSide s p sd x).whf = s.whf := rfl
@[simp] theorem State.setSide_cpg (s : State) (p : Fin 32) (sd : Nat) (x : PonSide) : (State.setSide s p sd x).cpg = s.cpg := rfl
@[simp] theorem State.setSide_keys (s : State) (p : Fin 32) (sd : Nat) (x : PonSide) : (State.setSide s p sd x).keys = s.keys := rfl
@[simp] theorem State.setSide_pm (s : State) (p : Fin 32) (sd : Nat) (x : PonSide) : (State.setSide s p sd x).pm = s.pm := rfl
@[simp] theorem State.setSide_stw (s : State) (p : Fin 32) (sd : Nat) (x : PonSide) : (State.setSide s p sd x).stw = s.stw := rfl
@[simp] theorem State.setSide_twn (s : State) (p : Fin 32) (sd : Nat) (x : PonSide) : (State.setSide s p sd x).twn = s.twn := rfl
@[simp] theorem State.setSide_ldg (s : State) (p : Fin 32) (sd : Nat) (x : PonSide) : (State.setSide s p sd x).ldg = s.ldg := rfl
@[simp] theorem State.setSide_eng (s : State) (p : Fin 32) (sd : Nat) (x : PonSide) : (State.setSide s p sd x).eng = s.eng := rfl
@[simp] theorem State.setSide_fwd (s : State) (p : Fin 32) (sd : Nat) (x : PonSide) : (State.setSide s p sd x).fwd = s.fwd := rfl
@[simp] theorem State.setSide_hrl (s : State) (p : Fin 32) (sd : Nat) (x : PonSide) : (State.setSide s p sd x).hrl = s.hrl := rfl
@[simp] theorem State.setSide_shl (s : State) (p : Fin 32) (sd : Nat) (x : PonSide) : (State.setSide s p sd x).shl = s.shl := rfl
@[simp] theorem State.setSide_tly (s : State) (p : Fin 32) (sd : Nat) (x : PonSide) : (State.setSide s p sd x).tly = s.tly := rfl
@[simp] theorem State.setSide_wdn (s : State) (p : Fin 32) (sd : Nat) (x : PonSide) : (State.setSide s p sd x).wdn = s.wdn := rfl
@[simp] theorem State.setSide_boot (s : State) (p : Fin 32) (sd : Nat) (x : PonSide) : (State.setSide s p sd x).boot = s.boot := rfl
@[simp] theorem State.setSide_hst (s : State) (p : Fin 32) (sd : Nat) (x : PonSide) : (State.setSide s p sd x).hst = s.hst := rfl
@[simp] theorem State.setSide_rdata (s : State) (p : Fin 32) (sd : Nat) (x : PonSide) : (State.setSide s p sd x).rdata = s.rdata := rfl
@[simp] theorem State.setSide_rd (s : State) (p : Fin 32) (sd : Nat) (x : PonSide) (fld : Fld) : (State.setSide s p sd x).rd fld = s.rd fld := rfl
@[simp] theorem State.setSide_word (s : State) (p : Fin 32) (sd : Nat) (x : PonSide) (adr : Nat) : (State.setSide s p sd x).word adr = s.word adr := rfl

@[simp] theorem State.setPort_words (s : State) (p : Fin 32) (x : PonPort) : (State.setPort s p x).words = s.words := rfl
@[simp] theorem State.setPort_latch (s : State) (p : Fin 32) (x : PonPort) : (State.setPort s p x).latch = s.latch := rfl
@[simp] theorem State.setPort_ctrs (s : State) (p : Fin 32) (x : PonPort) : (State.setPort s p x).ctrs = s.ctrs := rfl
@[simp] theorem State.setPort_now (s : State) (p : Fin 32) (x : PonPort) : (State.setPort s p x).now = s.now := rfl
@[simp] theorem State.setPort_free (s : State) (p : Fin 32) (x : PonPort) : (State.setPort s p x).free = s.free := rfl
@[simp] theorem State.setPort_pending (s : State) (p : Fin 32) (x : PonPort) : (State.setPort s p x).pending = s.pending := rfl
@[simp] theorem State.setPort_flt (s : State) (p : Fin 32) (x : PonPort) : (State.setPort s p x).flt = s.flt := rfl
@[simp] theorem State.setPort_act (s : State) (p : Fin 32) (x : PonPort) : (State.setPort s p x).act = s.act := rfl
@[simp] theorem State.setPort_whf (s : State) (p : Fin 32) (x : PonPort) : (State.setPort s p x).whf = s.whf := rfl
@[simp] theorem State.setPort_cpg (s : State) (p : Fin 32) (x : PonPort) : (State.setPort s p x).cpg = s.cpg := rfl
@[simp] theorem State.setPort_keys (s : State) (p : Fin 32) (x : PonPort) : (State.setPort s p x).keys = s.keys := rfl
@[simp] theorem State.setPort_pm (s : State) (p : Fin 32) (x : PonPort) : (State.setPort s p x).pm = s.pm := rfl
@[simp] theorem State.setPort_stw (s : State) (p : Fin 32) (x : PonPort) : (State.setPort s p x).stw = s.stw := rfl
@[simp] theorem State.setPort_twn (s : State) (p : Fin 32) (x : PonPort) : (State.setPort s p x).twn = s.twn := rfl
@[simp] theorem State.setPort_ldg (s : State) (p : Fin 32) (x : PonPort) : (State.setPort s p x).ldg = s.ldg := rfl
@[simp] theorem State.setPort_eng (s : State) (p : Fin 32) (x : PonPort) : (State.setPort s p x).eng = s.eng := rfl
@[simp] theorem State.setPort_fwd (s : State) (p : Fin 32) (x : PonPort) : (State.setPort s p x).fwd = s.fwd := rfl
@[simp] theorem State.setPort_hrl (s : State) (p : Fin 32) (x : PonPort) : (State.setPort s p x).hrl = s.hrl := rfl
@[simp] theorem State.setPort_shl (s : State) (p : Fin 32) (x : PonPort) : (State.setPort s p x).shl = s.shl := rfl
@[simp] theorem State.setPort_tly (s : State) (p : Fin 32) (x : PonPort) : (State.setPort s p x).tly = s.tly := rfl
@[simp] theorem State.setPort_wdn (s : State) (p : Fin 32) (x : PonPort) : (State.setPort s p x).wdn = s.wdn := rfl
@[simp] theorem State.setPort_boot (s : State) (p : Fin 32) (x : PonPort) : (State.setPort s p x).boot = s.boot := rfl
@[simp] theorem State.setPort_hst (s : State) (p : Fin 32) (x : PonPort) : (State.setPort s p x).hst = s.hst := rfl
@[simp] theorem State.setPort_rdata (s : State) (p : Fin 32) (x : PonPort) : (State.setPort s p x).rdata = s.rdata := rfl
@[simp] theorem State.setPort_rd (s : State) (p : Fin 32) (x : PonPort) (fld : Fld) : (State.setPort s p x).rd fld = s.rd fld := rfl
@[simp] theorem State.setPort_word (s : State) (p : Fin 32) (x : PonPort) (adr : Nat) : (State.setPort s p x).word adr = s.word adr := rfl

@[simp] theorem State.setAlloc_words (s : State) (p : Fin 32) (i : Nat) (x : AllocRt) : (State.setAlloc s p i x).words = s.words := rfl
@[simp] theorem State.setAlloc_latch (s : State) (p : Fin 32) (i : Nat) (x : AllocRt) : (State.setAlloc s p i x).latch = s.latch := rfl
@[simp] theorem State.setAlloc_ctrs (s : State) (p : Fin 32) (i : Nat) (x : AllocRt) : (State.setAlloc s p i x).ctrs = s.ctrs := rfl
@[simp] theorem State.setAlloc_now (s : State) (p : Fin 32) (i : Nat) (x : AllocRt) : (State.setAlloc s p i x).now = s.now := rfl
@[simp] theorem State.setAlloc_free (s : State) (p : Fin 32) (i : Nat) (x : AllocRt) : (State.setAlloc s p i x).free = s.free := rfl
@[simp] theorem State.setAlloc_pending (s : State) (p : Fin 32) (i : Nat) (x : AllocRt) : (State.setAlloc s p i x).pending = s.pending := rfl
@[simp] theorem State.setAlloc_flt (s : State) (p : Fin 32) (i : Nat) (x : AllocRt) : (State.setAlloc s p i x).flt = s.flt := rfl
@[simp] theorem State.setAlloc_pon (s : State) (p : Fin 32) (i : Nat) (x : AllocRt) : (State.setAlloc s p i x).pon = s.pon := rfl
@[simp] theorem State.setAlloc_act (s : State) (p : Fin 32) (i : Nat) (x : AllocRt) : (State.setAlloc s p i x).act = s.act := rfl
@[simp] theorem State.setAlloc_cpg (s : State) (p : Fin 32) (i : Nat) (x : AllocRt) : (State.setAlloc s p i x).cpg = s.cpg := rfl
@[simp] theorem State.setAlloc_keys (s : State) (p : Fin 32) (i : Nat) (x : AllocRt) : (State.setAlloc s p i x).keys = s.keys := rfl
@[simp] theorem State.setAlloc_pm (s : State) (p : Fin 32) (i : Nat) (x : AllocRt) : (State.setAlloc s p i x).pm = s.pm := rfl
@[simp] theorem State.setAlloc_stw (s : State) (p : Fin 32) (i : Nat) (x : AllocRt) : (State.setAlloc s p i x).stw = s.stw := rfl
@[simp] theorem State.setAlloc_twn (s : State) (p : Fin 32) (i : Nat) (x : AllocRt) : (State.setAlloc s p i x).twn = s.twn := rfl
@[simp] theorem State.setAlloc_ldg (s : State) (p : Fin 32) (i : Nat) (x : AllocRt) : (State.setAlloc s p i x).ldg = s.ldg := rfl
@[simp] theorem State.setAlloc_eng (s : State) (p : Fin 32) (i : Nat) (x : AllocRt) : (State.setAlloc s p i x).eng = s.eng := rfl
@[simp] theorem State.setAlloc_fwd (s : State) (p : Fin 32) (i : Nat) (x : AllocRt) : (State.setAlloc s p i x).fwd = s.fwd := rfl
@[simp] theorem State.setAlloc_hrl (s : State) (p : Fin 32) (i : Nat) (x : AllocRt) : (State.setAlloc s p i x).hrl = s.hrl := rfl
@[simp] theorem State.setAlloc_shl (s : State) (p : Fin 32) (i : Nat) (x : AllocRt) : (State.setAlloc s p i x).shl = s.shl := rfl
@[simp] theorem State.setAlloc_tly (s : State) (p : Fin 32) (i : Nat) (x : AllocRt) : (State.setAlloc s p i x).tly = s.tly := rfl
@[simp] theorem State.setAlloc_wdn (s : State) (p : Fin 32) (i : Nat) (x : AllocRt) : (State.setAlloc s p i x).wdn = s.wdn := rfl
@[simp] theorem State.setAlloc_boot (s : State) (p : Fin 32) (i : Nat) (x : AllocRt) : (State.setAlloc s p i x).boot = s.boot := rfl
@[simp] theorem State.setAlloc_hst (s : State) (p : Fin 32) (i : Nat) (x : AllocRt) : (State.setAlloc s p i x).hst = s.hst := rfl
@[simp] theorem State.setAlloc_rdata (s : State) (p : Fin 32) (i : Nat) (x : AllocRt) : (State.setAlloc s p i x).rdata = s.rdata := rfl
@[simp] theorem State.setAlloc_rd (s : State) (p : Fin 32) (i : Nat) (x : AllocRt) (fld : Fld) : (State.setAlloc s p i x).rd fld = s.rd fld := rfl
@[simp] theorem State.setAlloc_word (s : State) (p : Fin 32) (i : Nat) (x : AllocRt) (adr : Nat) : (State.setAlloc s p i x).word adr = s.word adr := rfl

@[simp] theorem State.setDisc_words (s : State) (p : Fin 32) (sd : Nat) (x : Disc) : (State.setDisc s p sd x).words = s.words := rfl
@[simp] theorem State.setDisc_latch (s : State) (p : Fin 32) (sd : Nat) (x : Disc) : (State.setDisc s p sd x).latch = s.latch := rfl
@[simp] theorem State.setDisc_ctrs (s : State) (p : Fin 32) (sd : Nat) (x : Disc) : (State.setDisc s p sd x).ctrs = s.ctrs := rfl
@[simp] theorem State.setDisc_now (s : State) (p : Fin 32) (sd : Nat) (x : Disc) : (State.setDisc s p sd x).now = s.now := rfl
@[simp] theorem State.setDisc_free (s : State) (p : Fin 32) (sd : Nat) (x : Disc) : (State.setDisc s p sd x).free = s.free := rfl
@[simp] theorem State.setDisc_pending (s : State) (p : Fin 32) (sd : Nat) (x : Disc) : (State.setDisc s p sd x).pending = s.pending := rfl
@[simp] theorem State.setDisc_flt (s : State) (p : Fin 32) (sd : Nat) (x : Disc) : (State.setDisc s p sd x).flt = s.flt := rfl
@[simp] theorem State.setDisc_pon (s : State) (p : Fin 32) (sd : Nat) (x : Disc) : (State.setDisc s p sd x).pon = s.pon := rfl
@[simp] theorem State.setDisc_whf (s : State) (p : Fin 32) (sd : Nat) (x : Disc) : (State.setDisc s p sd x).whf = s.whf := rfl
@[simp] theorem State.setDisc_cpg (s : State) (p : Fin 32) (sd : Nat) (x : Disc) : (State.setDisc s p sd x).cpg = s.cpg := rfl
@[simp] theorem State.setDisc_keys (s : State) (p : Fin 32) (sd : Nat) (x : Disc) : (State.setDisc s p sd x).keys = s.keys := rfl
@[simp] theorem State.setDisc_pm (s : State) (p : Fin 32) (sd : Nat) (x : Disc) : (State.setDisc s p sd x).pm = s.pm := rfl
@[simp] theorem State.setDisc_stw (s : State) (p : Fin 32) (sd : Nat) (x : Disc) : (State.setDisc s p sd x).stw = s.stw := rfl
@[simp] theorem State.setDisc_twn (s : State) (p : Fin 32) (sd : Nat) (x : Disc) : (State.setDisc s p sd x).twn = s.twn := rfl
@[simp] theorem State.setDisc_ldg (s : State) (p : Fin 32) (sd : Nat) (x : Disc) : (State.setDisc s p sd x).ldg = s.ldg := rfl
@[simp] theorem State.setDisc_eng (s : State) (p : Fin 32) (sd : Nat) (x : Disc) : (State.setDisc s p sd x).eng = s.eng := rfl
@[simp] theorem State.setDisc_fwd (s : State) (p : Fin 32) (sd : Nat) (x : Disc) : (State.setDisc s p sd x).fwd = s.fwd := rfl
@[simp] theorem State.setDisc_hrl (s : State) (p : Fin 32) (sd : Nat) (x : Disc) : (State.setDisc s p sd x).hrl = s.hrl := rfl
@[simp] theorem State.setDisc_shl (s : State) (p : Fin 32) (sd : Nat) (x : Disc) : (State.setDisc s p sd x).shl = s.shl := rfl
@[simp] theorem State.setDisc_tly (s : State) (p : Fin 32) (sd : Nat) (x : Disc) : (State.setDisc s p sd x).tly = s.tly := rfl
@[simp] theorem State.setDisc_wdn (s : State) (p : Fin 32) (sd : Nat) (x : Disc) : (State.setDisc s p sd x).wdn = s.wdn := rfl
@[simp] theorem State.setDisc_boot (s : State) (p : Fin 32) (sd : Nat) (x : Disc) : (State.setDisc s p sd x).boot = s.boot := rfl
@[simp] theorem State.setDisc_hst (s : State) (p : Fin 32) (sd : Nat) (x : Disc) : (State.setDisc s p sd x).hst = s.hst := rfl
@[simp] theorem State.setDisc_rdata (s : State) (p : Fin 32) (sd : Nat) (x : Disc) : (State.setDisc s p sd x).rdata = s.rdata := rfl
@[simp] theorem State.setDisc_rd (s : State) (p : Fin 32) (sd : Nat) (x : Disc) (fld : Fld) : (State.setDisc s p sd x).rd fld = s.rd fld := rfl
@[simp] theorem State.setDisc_word (s : State) (p : Fin 32) (sd : Nat) (x : Disc) (adr : Nat) : (State.setDisc s p sd x).word adr = s.word adr := rfl

@[simp] theorem State.setSwap_words (s : State) (p : Fin 32) (x : Swap) : (State.setSwap s p x).words = s.words := rfl
@[simp] theorem State.setSwap_latch (s : State) (p : Fin 32) (x : Swap) : (State.setSwap s p x).latch = s.latch := rfl
@[simp] theorem State.setSwap_ctrs (s : State) (p : Fin 32) (x : Swap) : (State.setSwap s p x).ctrs = s.ctrs := rfl
@[simp] theorem State.setSwap_now (s : State) (p : Fin 32) (x : Swap) : (State.setSwap s p x).now = s.now := rfl
@[simp] theorem State.setSwap_free (s : State) (p : Fin 32) (x : Swap) : (State.setSwap s p x).free = s.free := rfl
@[simp] theorem State.setSwap_pending (s : State) (p : Fin 32) (x : Swap) : (State.setSwap s p x).pending = s.pending := rfl
@[simp] theorem State.setSwap_flt (s : State) (p : Fin 32) (x : Swap) : (State.setSwap s p x).flt = s.flt := rfl
@[simp] theorem State.setSwap_pon (s : State) (p : Fin 32) (x : Swap) : (State.setSwap s p x).pon = s.pon := rfl
@[simp] theorem State.setSwap_act (s : State) (p : Fin 32) (x : Swap) : (State.setSwap s p x).act = s.act := rfl
@[simp] theorem State.setSwap_cpg (s : State) (p : Fin 32) (x : Swap) : (State.setSwap s p x).cpg = s.cpg := rfl
@[simp] theorem State.setSwap_keys (s : State) (p : Fin 32) (x : Swap) : (State.setSwap s p x).keys = s.keys := rfl
@[simp] theorem State.setSwap_pm (s : State) (p : Fin 32) (x : Swap) : (State.setSwap s p x).pm = s.pm := rfl
@[simp] theorem State.setSwap_stw (s : State) (p : Fin 32) (x : Swap) : (State.setSwap s p x).stw = s.stw := rfl
@[simp] theorem State.setSwap_twn (s : State) (p : Fin 32) (x : Swap) : (State.setSwap s p x).twn = s.twn := rfl
@[simp] theorem State.setSwap_ldg (s : State) (p : Fin 32) (x : Swap) : (State.setSwap s p x).ldg = s.ldg := rfl
@[simp] theorem State.setSwap_eng (s : State) (p : Fin 32) (x : Swap) : (State.setSwap s p x).eng = s.eng := rfl
@[simp] theorem State.setSwap_fwd (s : State) (p : Fin 32) (x : Swap) : (State.setSwap s p x).fwd = s.fwd := rfl
@[simp] theorem State.setSwap_hrl (s : State) (p : Fin 32) (x : Swap) : (State.setSwap s p x).hrl = s.hrl := rfl
@[simp] theorem State.setSwap_shl (s : State) (p : Fin 32) (x : Swap) : (State.setSwap s p x).shl = s.shl := rfl
@[simp] theorem State.setSwap_tly (s : State) (p : Fin 32) (x : Swap) : (State.setSwap s p x).tly = s.tly := rfl
@[simp] theorem State.setSwap_wdn (s : State) (p : Fin 32) (x : Swap) : (State.setSwap s p x).wdn = s.wdn := rfl
@[simp] theorem State.setSwap_boot (s : State) (p : Fin 32) (x : Swap) : (State.setSwap s p x).boot = s.boot := rfl
@[simp] theorem State.setSwap_hst (s : State) (p : Fin 32) (x : Swap) : (State.setSwap s p x).hst = s.hst := rfl
@[simp] theorem State.setSwap_rdata (s : State) (p : Fin 32) (x : Swap) : (State.setSwap s p x).rdata = s.rdata := rfl
@[simp] theorem State.setSwap_rd (s : State) (p : Fin 32) (x : Swap) (fld : Fld) : (State.setSwap s p x).rd fld = s.rd fld := rfl
@[simp] theorem State.setSwap_word (s : State) (p : Fin 32) (x : Swap) (adr : Nat) : (State.setSwap s p x).word adr = s.word adr := rfl

@[simp] theorem State.setBuf_words (s : State) (h : Nat) (b : Buf) : (State.setBuf s h b).words = s.words := rfl
@[simp] theorem State.setBuf_latch (s : State) (h : Nat) (b : Buf) : (State.setBuf s h b).latch = s.latch := rfl
@[simp] theorem State.setBuf_ctrs (s : State) (h : Nat) (b : Buf) : (State.setBuf s h b).ctrs = s.ctrs := rfl
@[simp] theorem State.setBuf_now (s : State) (h : Nat) (b : Buf) : (State.setBuf s h b).now = s.now := rfl
@[simp] theorem State.setBuf_free (s : State) (h : Nat) (b : Buf) : (State.setBuf s h b).free = s.free := rfl
@[simp] theorem State.setBuf_pending (s : State) (h : Nat) (b : Buf) : (State.setBuf s h b).pending = s.pending := rfl
@[simp] theorem State.setBuf_flt (s : State) (h : Nat) (b : Buf) : (State.setBuf s h b).flt = s.flt := rfl
@[simp] theorem State.setBuf_pon (s : State) (h : Nat) (b : Buf) : (State.setBuf s h b).pon = s.pon := rfl
@[simp] theorem State.setBuf_act (s : State) (h : Nat) (b : Buf) : (State.setBuf s h b).act = s.act := rfl
@[simp] theorem State.setBuf_whf (s : State) (h : Nat) (b : Buf) : (State.setBuf s h b).whf = s.whf := rfl
@[simp] theorem State.setBuf_keys (s : State) (h : Nat) (b : Buf) : (State.setBuf s h b).keys = s.keys := rfl
@[simp] theorem State.setBuf_pm (s : State) (h : Nat) (b : Buf) : (State.setBuf s h b).pm = s.pm := rfl
@[simp] theorem State.setBuf_stw (s : State) (h : Nat) (b : Buf) : (State.setBuf s h b).stw = s.stw := rfl
@[simp] theorem State.setBuf_twn (s : State) (h : Nat) (b : Buf) : (State.setBuf s h b).twn = s.twn := rfl
@[simp] theorem State.setBuf_ldg (s : State) (h : Nat) (b : Buf) : (State.setBuf s h b).ldg = s.ldg := rfl
@[simp] theorem State.setBuf_eng (s : State) (h : Nat) (b : Buf) : (State.setBuf s h b).eng = s.eng := rfl
@[simp] theorem State.setBuf_fwd (s : State) (h : Nat) (b : Buf) : (State.setBuf s h b).fwd = s.fwd := rfl
@[simp] theorem State.setBuf_hrl (s : State) (h : Nat) (b : Buf) : (State.setBuf s h b).hrl = s.hrl := rfl
@[simp] theorem State.setBuf_shl (s : State) (h : Nat) (b : Buf) : (State.setBuf s h b).shl = s.shl := rfl
@[simp] theorem State.setBuf_tly (s : State) (h : Nat) (b : Buf) : (State.setBuf s h b).tly = s.tly := rfl
@[simp] theorem State.setBuf_wdn (s : State) (h : Nat) (b : Buf) : (State.setBuf s h b).wdn = s.wdn := rfl
@[simp] theorem State.setBuf_boot (s : State) (h : Nat) (b : Buf) : (State.setBuf s h b).boot = s.boot := rfl
@[simp] theorem State.setBuf_hst (s : State) (h : Nat) (b : Buf) : (State.setBuf s h b).hst = s.hst := rfl
@[simp] theorem State.setBuf_rdata (s : State) (h : Nat) (b : Buf) : (State.setBuf s h b).rdata = s.rdata := rfl
@[simp] theorem State.setBuf_rd (s : State) (h : Nat) (b : Buf) (fld : Fld) : (State.setBuf s h b).rd fld = s.rd fld := rfl
@[simp] theorem State.setBuf_word (s : State) (h : Nat) (b : Buf) (adr : Nat) : (State.setBuf s h b).word adr = s.word adr := rfl

@[simp] theorem State.setQueue_words (s : State) (q : Nat) (x : Queue) : (State.setQueue s q x).words = s.words := rfl
@[simp] theorem State.setQueue_latch (s : State) (q : Nat) (x : Queue) : (State.setQueue s q x).latch = s.latch := rfl
@[simp] theorem State.setQueue_ctrs (s : State) (q : Nat) (x : Queue) : (State.setQueue s q x).ctrs = s.ctrs := rfl
@[simp] theorem State.setQueue_now (s : State) (q : Nat) (x : Queue) : (State.setQueue s q x).now = s.now := rfl
@[simp] theorem State.setQueue_free (s : State) (q : Nat) (x : Queue) : (State.setQueue s q x).free = s.free := rfl
@[simp] theorem State.setQueue_pending (s : State) (q : Nat) (x : Queue) : (State.setQueue s q x).pending = s.pending := rfl
@[simp] theorem State.setQueue_flt (s : State) (q : Nat) (x : Queue) : (State.setQueue s q x).flt = s.flt := rfl
@[simp] theorem State.setQueue_pon (s : State) (q : Nat) (x : Queue) : (State.setQueue s q x).pon = s.pon := rfl
@[simp] theorem State.setQueue_act (s : State) (q : Nat) (x : Queue) : (State.setQueue s q x).act = s.act := rfl
@[simp] theorem State.setQueue_whf (s : State) (q : Nat) (x : Queue) : (State.setQueue s q x).whf = s.whf := rfl
@[simp] theorem State.setQueue_keys (s : State) (q : Nat) (x : Queue) : (State.setQueue s q x).keys = s.keys := rfl
@[simp] theorem State.setQueue_pm (s : State) (q : Nat) (x : Queue) : (State.setQueue s q x).pm = s.pm := rfl
@[simp] theorem State.setQueue_stw (s : State) (q : Nat) (x : Queue) : (State.setQueue s q x).stw = s.stw := rfl
@[simp] theorem State.setQueue_twn (s : State) (q : Nat) (x : Queue) : (State.setQueue s q x).twn = s.twn := rfl
@[simp] theorem State.setQueue_ldg (s : State) (q : Nat) (x : Queue) : (State.setQueue s q x).ldg = s.ldg := rfl
@[simp] theorem State.setQueue_eng (s : State) (q : Nat) (x : Queue) : (State.setQueue s q x).eng = s.eng := rfl
@[simp] theorem State.setQueue_fwd (s : State) (q : Nat) (x : Queue) : (State.setQueue s q x).fwd = s.fwd := rfl
@[simp] theorem State.setQueue_hrl (s : State) (q : Nat) (x : Queue) : (State.setQueue s q x).hrl = s.hrl := rfl
@[simp] theorem State.setQueue_shl (s : State) (q : Nat) (x : Queue) : (State.setQueue s q x).shl = s.shl := rfl
@[simp] theorem State.setQueue_tly (s : State) (q : Nat) (x : Queue) : (State.setQueue s q x).tly = s.tly := rfl
@[simp] theorem State.setQueue_wdn (s : State) (q : Nat) (x : Queue) : (State.setQueue s q x).wdn = s.wdn := rfl
@[simp] theorem State.setQueue_boot (s : State) (q : Nat) (x : Queue) : (State.setQueue s q x).boot = s.boot := rfl
@[simp] theorem State.setQueue_hst (s : State) (q : Nat) (x : Queue) : (State.setQueue s q x).hst = s.hst := rfl
@[simp] theorem State.setQueue_rdata (s : State) (q : Nat) (x : Queue) : (State.setQueue s q x).rdata = s.rdata := rfl
@[simp] theorem State.setQueue_rd (s : State) (q : Nat) (x : Queue) (fld : Fld) : (State.setQueue s q x).rd fld = s.rd fld := rfl
@[simp] theorem State.setQueue_word (s : State) (q : Nat) (x : Queue) (adr : Nat) : (State.setQueue s q x).word adr = s.word adr := rfl

@[simp] theorem State.setTop_words (s : State) (m : Nat) (x : Top) : (State.setTop s m x).words = s.words := rfl
@[simp] theorem State.setTop_latch (s : State) (m : Nat) (x : Top) : (State.setTop s m x).latch = s.latch := rfl
@[simp] theorem State.setTop_ctrs (s : State) (m : Nat) (x : Top) : (State.setTop s m x).ctrs = s.ctrs := rfl
@[simp] theorem State.setTop_now (s : State) (m : Nat) (x : Top) : (State.setTop s m x).now = s.now := rfl
@[simp] theorem State.setTop_free (s : State) (m : Nat) (x : Top) : (State.setTop s m x).free = s.free := rfl
@[simp] theorem State.setTop_pending (s : State) (m : Nat) (x : Top) : (State.setTop s m x).pending = s.pending := rfl
@[simp] theorem State.setTop_flt (s : State) (m : Nat) (x : Top) : (State.setTop s m x).flt = s.flt := rfl
@[simp] theorem State.setTop_pon (s : State) (m : Nat) (x : Top) : (State.setTop s m x).pon = s.pon := rfl
@[simp] theorem State.setTop_act (s : State) (m : Nat) (x : Top) : (State.setTop s m x).act = s.act := rfl
@[simp] theorem State.setTop_whf (s : State) (m : Nat) (x : Top) : (State.setTop s m x).whf = s.whf := rfl
@[simp] theorem State.setTop_keys (s : State) (m : Nat) (x : Top) : (State.setTop s m x).keys = s.keys := rfl
@[simp] theorem State.setTop_pm (s : State) (m : Nat) (x : Top) : (State.setTop s m x).pm = s.pm := rfl
@[simp] theorem State.setTop_stw (s : State) (m : Nat) (x : Top) : (State.setTop s m x).stw = s.stw := rfl
@[simp] theorem State.setTop_twn (s : State) (m : Nat) (x : Top) : (State.setTop s m x).twn = s.twn := rfl
@[simp] theorem State.setTop_ldg (s : State) (m : Nat) (x : Top) : (State.setTop s m x).ldg = s.ldg := rfl
@[simp] theorem State.setTop_eng (s : State) (m : Nat) (x : Top) : (State.setTop s m x).eng = s.eng := rfl
@[simp] theorem State.setTop_fwd (s : State) (m : Nat) (x : Top) : (State.setTop s m x).fwd = s.fwd := rfl
@[simp] theorem State.setTop_hrl (s : State) (m : Nat) (x : Top) : (State.setTop s m x).hrl = s.hrl := rfl
@[simp] theorem State.setTop_shl (s : State) (m : Nat) (x : Top) : (State.setTop s m x).shl = s.shl := rfl
@[simp] theorem State.setTop_tly (s : State) (m : Nat) (x : Top) : (State.setTop s m x).tly = s.tly := rfl
@[simp] theorem State.setTop_wdn (s : State) (m : Nat) (x : Top) : (State.setTop s m x).wdn = s.wdn := rfl
@[simp] theorem State.setTop_boot (s : State) (m : Nat) (x : Top) : (State.setTop s m x).boot = s.boot := rfl
@[simp] theorem State.setTop_hst (s : State) (m : Nat) (x : Top) : (State.setTop s m x).hst = s.hst := rfl
@[simp] theorem State.setTop_rdata (s : State) (m : Nat) (x : Top) : (State.setTop s m x).rdata = s.rdata := rfl
@[simp] theorem State.setTop_rd (s : State) (m : Nat) (x : Top) (fld : Fld) : (State.setTop s m x).rd fld = s.rd fld := rfl
@[simp] theorem State.setTop_word (s : State) (m : Nat) (x : Top) (adr : Nat) : (State.setTop s m x).word adr = s.word adr := rfl

@[simp] theorem State.setBkt_words (s : State) (b : Nat) (x : Bkt) : (State.setBkt s b x).words = s.words := rfl
@[simp] theorem State.setBkt_latch (s : State) (b : Nat) (x : Bkt) : (State.setBkt s b x).latch = s.latch := rfl
@[simp] theorem State.setBkt_ctrs (s : State) (b : Nat) (x : Bkt) : (State.setBkt s b x).ctrs = s.ctrs := rfl
@[simp] theorem State.setBkt_now (s : State) (b : Nat) (x : Bkt) : (State.setBkt s b x).now = s.now := rfl
@[simp] theorem State.setBkt_free (s : State) (b : Nat) (x : Bkt) : (State.setBkt s b x).free = s.free := rfl
@[simp] theorem State.setBkt_pending (s : State) (b : Nat) (x : Bkt) : (State.setBkt s b x).pending = s.pending := rfl
@[simp] theorem State.setBkt_flt (s : State) (b : Nat) (x : Bkt) : (State.setBkt s b x).flt = s.flt := rfl
@[simp] theorem State.setBkt_pon (s : State) (b : Nat) (x : Bkt) : (State.setBkt s b x).pon = s.pon := rfl
@[simp] theorem State.setBkt_act (s : State) (b : Nat) (x : Bkt) : (State.setBkt s b x).act = s.act := rfl
@[simp] theorem State.setBkt_whf (s : State) (b : Nat) (x : Bkt) : (State.setBkt s b x).whf = s.whf := rfl
@[simp] theorem State.setBkt_keys (s : State) (b : Nat) (x : Bkt) : (State.setBkt s b x).keys = s.keys := rfl
@[simp] theorem State.setBkt_pm (s : State) (b : Nat) (x : Bkt) : (State.setBkt s b x).pm = s.pm := rfl
@[simp] theorem State.setBkt_stw (s : State) (b : Nat) (x : Bkt) : (State.setBkt s b x).stw = s.stw := rfl
@[simp] theorem State.setBkt_twn (s : State) (b : Nat) (x : Bkt) : (State.setBkt s b x).twn = s.twn := rfl
@[simp] theorem State.setBkt_ldg (s : State) (b : Nat) (x : Bkt) : (State.setBkt s b x).ldg = s.ldg := rfl
@[simp] theorem State.setBkt_eng (s : State) (b : Nat) (x : Bkt) : (State.setBkt s b x).eng = s.eng := rfl
@[simp] theorem State.setBkt_fwd (s : State) (b : Nat) (x : Bkt) : (State.setBkt s b x).fwd = s.fwd := rfl
@[simp] theorem State.setBkt_hrl (s : State) (b : Nat) (x : Bkt) : (State.setBkt s b x).hrl = s.hrl := rfl
@[simp] theorem State.setBkt_shl (s : State) (b : Nat) (x : Bkt) : (State.setBkt s b x).shl = s.shl := rfl
@[simp] theorem State.setBkt_tly (s : State) (b : Nat) (x : Bkt) : (State.setBkt s b x).tly = s.tly := rfl
@[simp] theorem State.setBkt_wdn (s : State) (b : Nat) (x : Bkt) : (State.setBkt s b x).wdn = s.wdn := rfl
@[simp] theorem State.setBkt_boot (s : State) (b : Nat) (x : Bkt) : (State.setBkt s b x).boot = s.boot := rfl
@[simp] theorem State.setBkt_hst (s : State) (b : Nat) (x : Bkt) : (State.setBkt s b x).hst = s.hst := rfl
@[simp] theorem State.setBkt_rdata (s : State) (b : Nat) (x : Bkt) : (State.setBkt s b x).rdata = s.rdata := rfl
@[simp] theorem State.setBkt_rd (s : State) (b : Nat) (x : Bkt) (fld : Fld) : (State.setBkt s b x).rd fld = s.rd fld := rfl
@[simp] theorem State.setBkt_word (s : State) (b : Nat) (x : Bkt) (adr : Nat) : (State.setBkt s b x).word adr = s.word adr := rfl

@[simp] theorem State.setUsage_words (s : State) (k : Nat) (r : Root) : (State.setUsage s k r).words = s.words := rfl
@[simp] theorem State.setUsage_latch (s : State) (k : Nat) (r : Root) : (State.setUsage s k r).latch = s.latch := rfl
@[simp] theorem State.setUsage_ctrs (s : State) (k : Nat) (r : Root) : (State.setUsage s k r).ctrs = s.ctrs := rfl
@[simp] theorem State.setUsage_now (s : State) (k : Nat) (r : Root) : (State.setUsage s k r).now = s.now := rfl
@[simp] theorem State.setUsage_free (s : State) (k : Nat) (r : Root) : (State.setUsage s k r).free = s.free := rfl
@[simp] theorem State.setUsage_pending (s : State) (k : Nat) (r : Root) : (State.setUsage s k r).pending = s.pending := rfl
@[simp] theorem State.setUsage_flt (s : State) (k : Nat) (r : Root) : (State.setUsage s k r).flt = s.flt := rfl
@[simp] theorem State.setUsage_pon (s : State) (k : Nat) (r : Root) : (State.setUsage s k r).pon = s.pon := rfl
@[simp] theorem State.setUsage_act (s : State) (k : Nat) (r : Root) : (State.setUsage s k r).act = s.act := rfl
@[simp] theorem State.setUsage_whf (s : State) (k : Nat) (r : Root) : (State.setUsage s k r).whf = s.whf := rfl
@[simp] theorem State.setUsage_cpg (s : State) (k : Nat) (r : Root) : (State.setUsage s k r).cpg = s.cpg := rfl
@[simp] theorem State.setUsage_pm (s : State) (k : Nat) (r : Root) : (State.setUsage s k r).pm = s.pm := rfl
@[simp] theorem State.setUsage_stw (s : State) (k : Nat) (r : Root) : (State.setUsage s k r).stw = s.stw := rfl
@[simp] theorem State.setUsage_twn (s : State) (k : Nat) (r : Root) : (State.setUsage s k r).twn = s.twn := rfl
@[simp] theorem State.setUsage_ldg (s : State) (k : Nat) (r : Root) : (State.setUsage s k r).ldg = s.ldg := rfl
@[simp] theorem State.setUsage_eng (s : State) (k : Nat) (r : Root) : (State.setUsage s k r).eng = s.eng := rfl
@[simp] theorem State.setUsage_fwd (s : State) (k : Nat) (r : Root) : (State.setUsage s k r).fwd = s.fwd := rfl
@[simp] theorem State.setUsage_hrl (s : State) (k : Nat) (r : Root) : (State.setUsage s k r).hrl = s.hrl := rfl
@[simp] theorem State.setUsage_shl (s : State) (k : Nat) (r : Root) : (State.setUsage s k r).shl = s.shl := rfl
@[simp] theorem State.setUsage_tly (s : State) (k : Nat) (r : Root) : (State.setUsage s k r).tly = s.tly := rfl
@[simp] theorem State.setUsage_wdn (s : State) (k : Nat) (r : Root) : (State.setUsage s k r).wdn = s.wdn := rfl
@[simp] theorem State.setUsage_boot (s : State) (k : Nat) (r : Root) : (State.setUsage s k r).boot = s.boot := rfl
@[simp] theorem State.setUsage_hst (s : State) (k : Nat) (r : Root) : (State.setUsage s k r).hst = s.hst := rfl
@[simp] theorem State.setUsage_rdata (s : State) (k : Nat) (r : Root) : (State.setUsage s k r).rdata = s.rdata := rfl
@[simp] theorem State.setUsage_rd (s : State) (k : Nat) (r : Root) (fld : Fld) : (State.setUsage s k r).rd fld = s.rd fld := rfl
@[simp] theorem State.setUsage_word (s : State) (k : Nat) (r : Root) (adr : Nat) : (State.setUsage s k r).word adr = s.word adr := rfl

@[simp] theorem State.setStat_words (s : State) (e : Nat) (x : Stat) : (State.setStat s e x).words = s.words := rfl
@[simp] theorem State.setStat_latch (s : State) (e : Nat) (x : Stat) : (State.setStat s e x).latch = s.latch := rfl
@[simp] theorem State.setStat_ctrs (s : State) (e : Nat) (x : Stat) : (State.setStat s e x).ctrs = s.ctrs := rfl
@[simp] theorem State.setStat_now (s : State) (e : Nat) (x : Stat) : (State.setStat s e x).now = s.now := rfl
@[simp] theorem State.setStat_free (s : State) (e : Nat) (x : Stat) : (State.setStat s e x).free = s.free := rfl
@[simp] theorem State.setStat_pending (s : State) (e : Nat) (x : Stat) : (State.setStat s e x).pending = s.pending := rfl
@[simp] theorem State.setStat_flt (s : State) (e : Nat) (x : Stat) : (State.setStat s e x).flt = s.flt := rfl
@[simp] theorem State.setStat_pon (s : State) (e : Nat) (x : Stat) : (State.setStat s e x).pon = s.pon := rfl
@[simp] theorem State.setStat_act (s : State) (e : Nat) (x : Stat) : (State.setStat s e x).act = s.act := rfl
@[simp] theorem State.setStat_whf (s : State) (e : Nat) (x : Stat) : (State.setStat s e x).whf = s.whf := rfl
@[simp] theorem State.setStat_keys (s : State) (e : Nat) (x : Stat) : (State.setStat s e x).keys = s.keys := rfl
@[simp] theorem State.setStat_pm (s : State) (e : Nat) (x : Stat) : (State.setStat s e x).pm = s.pm := rfl
@[simp] theorem State.setStat_stw (s : State) (e : Nat) (x : Stat) : (State.setStat s e x).stw = s.stw := rfl
@[simp] theorem State.setStat_twn (s : State) (e : Nat) (x : Stat) : (State.setStat s e x).twn = s.twn := rfl
@[simp] theorem State.setStat_ldg (s : State) (e : Nat) (x : Stat) : (State.setStat s e x).ldg = s.ldg := rfl
@[simp] theorem State.setStat_eng (s : State) (e : Nat) (x : Stat) : (State.setStat s e x).eng = s.eng := rfl
@[simp] theorem State.setStat_fwd (s : State) (e : Nat) (x : Stat) : (State.setStat s e x).fwd = s.fwd := rfl
@[simp] theorem State.setStat_hrl (s : State) (e : Nat) (x : Stat) : (State.setStat s e x).hrl = s.hrl := rfl
@[simp] theorem State.setStat_shl (s : State) (e : Nat) (x : Stat) : (State.setStat s e x).shl = s.shl := rfl
@[simp] theorem State.setStat_tly (s : State) (e : Nat) (x : Stat) : (State.setStat s e x).tly = s.tly := rfl
@[simp] theorem State.setStat_wdn (s : State) (e : Nat) (x : Stat) : (State.setStat s e x).wdn = s.wdn := rfl
@[simp] theorem State.setStat_boot (s : State) (e : Nat) (x : Stat) : (State.setStat s e x).boot = s.boot := rfl
@[simp] theorem State.setStat_hst (s : State) (e : Nat) (x : Stat) : (State.setStat s e x).hst = s.hst := rfl
@[simp] theorem State.setStat_rdata (s : State) (e : Nat) (x : Stat) : (State.setStat s e x).rdata = s.rdata := rfl
@[simp] theorem State.setStat_rd (s : State) (e : Nat) (x : Stat) (fld : Fld) : (State.setStat s e x).rd fld = s.rd fld := rfl
@[simp] theorem State.setStat_word (s : State) (e : Nat) (x : Stat) (adr : Nat) : (State.setStat s e x).word adr = s.word adr := rfl

@[simp] theorem State.setTreeSt_words (s : State) (p : Fin 32) (x : Tree) : (State.setTreeSt s p x).words = s.words := rfl
@[simp] theorem State.setTreeSt_latch (s : State) (p : Fin 32) (x : Tree) : (State.setTreeSt s p x).latch = s.latch := rfl
@[simp] theorem State.setTreeSt_ctrs (s : State) (p : Fin 32) (x : Tree) : (State.setTreeSt s p x).ctrs = s.ctrs := rfl
@[simp] theorem State.setTreeSt_now (s : State) (p : Fin 32) (x : Tree) : (State.setTreeSt s p x).now = s.now := rfl
@[simp] theorem State.setTreeSt_free (s : State) (p : Fin 32) (x : Tree) : (State.setTreeSt s p x).free = s.free := rfl
@[simp] theorem State.setTreeSt_pending (s : State) (p : Fin 32) (x : Tree) : (State.setTreeSt s p x).pending = s.pending := rfl
@[simp] theorem State.setTreeSt_flt (s : State) (p : Fin 32) (x : Tree) : (State.setTreeSt s p x).flt = s.flt := rfl
@[simp] theorem State.setTreeSt_pon (s : State) (p : Fin 32) (x : Tree) : (State.setTreeSt s p x).pon = s.pon := rfl
@[simp] theorem State.setTreeSt_whf (s : State) (p : Fin 32) (x : Tree) : (State.setTreeSt s p x).whf = s.whf := rfl
@[simp] theorem State.setTreeSt_cpg (s : State) (p : Fin 32) (x : Tree) : (State.setTreeSt s p x).cpg = s.cpg := rfl
@[simp] theorem State.setTreeSt_keys (s : State) (p : Fin 32) (x : Tree) : (State.setTreeSt s p x).keys = s.keys := rfl
@[simp] theorem State.setTreeSt_pm (s : State) (p : Fin 32) (x : Tree) : (State.setTreeSt s p x).pm = s.pm := rfl
@[simp] theorem State.setTreeSt_stw (s : State) (p : Fin 32) (x : Tree) : (State.setTreeSt s p x).stw = s.stw := rfl
@[simp] theorem State.setTreeSt_twn (s : State) (p : Fin 32) (x : Tree) : (State.setTreeSt s p x).twn = s.twn := rfl
@[simp] theorem State.setTreeSt_ldg (s : State) (p : Fin 32) (x : Tree) : (State.setTreeSt s p x).ldg = s.ldg := rfl
@[simp] theorem State.setTreeSt_eng (s : State) (p : Fin 32) (x : Tree) : (State.setTreeSt s p x).eng = s.eng := rfl
@[simp] theorem State.setTreeSt_fwd (s : State) (p : Fin 32) (x : Tree) : (State.setTreeSt s p x).fwd = s.fwd := rfl
@[simp] theorem State.setTreeSt_hrl (s : State) (p : Fin 32) (x : Tree) : (State.setTreeSt s p x).hrl = s.hrl := rfl
@[simp] theorem State.setTreeSt_shl (s : State) (p : Fin 32) (x : Tree) : (State.setTreeSt s p x).shl = s.shl := rfl
@[simp] theorem State.setTreeSt_tly (s : State) (p : Fin 32) (x : Tree) : (State.setTreeSt s p x).tly = s.tly := rfl
@[simp] theorem State.setTreeSt_wdn (s : State) (p : Fin 32) (x : Tree) : (State.setTreeSt s p x).wdn = s.wdn := rfl
@[simp] theorem State.setTreeSt_boot (s : State) (p : Fin 32) (x : Tree) : (State.setTreeSt s p x).boot = s.boot := rfl
@[simp] theorem State.setTreeSt_hst (s : State) (p : Fin 32) (x : Tree) : (State.setTreeSt s p x).hst = s.hst := rfl
@[simp] theorem State.setTreeSt_rdata (s : State) (p : Fin 32) (x : Tree) : (State.setTreeSt s p x).rdata = s.rdata := rfl
@[simp] theorem State.setTreeSt_rd (s : State) (p : Fin 32) (x : Tree) (fld : Fld) : (State.setTreeSt s p x).rd fld = s.rd fld := rfl
@[simp] theorem State.setTreeSt_word (s : State) (p : Fin 32) (x : Tree) (adr : Nat) : (State.setTreeSt s p x).word adr = s.word adr := rfl

@[simp] theorem State.setProv_words (s : State) (p : Fin 32) (i : Nat) (x : Prov) : (State.setProv s p i x).words = s.words := rfl
@[simp] theorem State.setProv_latch (s : State) (p : Fin 32) (i : Nat) (x : Prov) : (State.setProv s p i x).latch = s.latch := rfl
@[simp] theorem State.setProv_ctrs (s : State) (p : Fin 32) (i : Nat) (x : Prov) : (State.setProv s p i x).ctrs = s.ctrs := rfl
@[simp] theorem State.setProv_now (s : State) (p : Fin 32) (i : Nat) (x : Prov) : (State.setProv s p i x).now = s.now := rfl
@[simp] theorem State.setProv_free (s : State) (p : Fin 32) (i : Nat) (x : Prov) : (State.setProv s p i x).free = s.free := rfl
@[simp] theorem State.setProv_pending (s : State) (p : Fin 32) (i : Nat) (x : Prov) : (State.setProv s p i x).pending = s.pending := rfl
@[simp] theorem State.setProv_flt (s : State) (p : Fin 32) (i : Nat) (x : Prov) : (State.setProv s p i x).flt = s.flt := rfl
@[simp] theorem State.setProv_pon (s : State) (p : Fin 32) (i : Nat) (x : Prov) : (State.setProv s p i x).pon = s.pon := rfl
@[simp] theorem State.setProv_act (s : State) (p : Fin 32) (i : Nat) (x : Prov) : (State.setProv s p i x).act = s.act := rfl
@[simp] theorem State.setProv_whf (s : State) (p : Fin 32) (i : Nat) (x : Prov) : (State.setProv s p i x).whf = s.whf := rfl
@[simp] theorem State.setProv_cpg (s : State) (p : Fin 32) (i : Nat) (x : Prov) : (State.setProv s p i x).cpg = s.cpg := rfl
@[simp] theorem State.setProv_keys (s : State) (p : Fin 32) (i : Nat) (x : Prov) : (State.setProv s p i x).keys = s.keys := rfl
@[simp] theorem State.setProv_pm (s : State) (p : Fin 32) (i : Nat) (x : Prov) : (State.setProv s p i x).pm = s.pm := rfl
@[simp] theorem State.setProv_twn (s : State) (p : Fin 32) (i : Nat) (x : Prov) : (State.setProv s p i x).twn = s.twn := rfl
@[simp] theorem State.setProv_ldg (s : State) (p : Fin 32) (i : Nat) (x : Prov) : (State.setProv s p i x).ldg = s.ldg := rfl
@[simp] theorem State.setProv_eng (s : State) (p : Fin 32) (i : Nat) (x : Prov) : (State.setProv s p i x).eng = s.eng := rfl
@[simp] theorem State.setProv_fwd (s : State) (p : Fin 32) (i : Nat) (x : Prov) : (State.setProv s p i x).fwd = s.fwd := rfl
@[simp] theorem State.setProv_hrl (s : State) (p : Fin 32) (i : Nat) (x : Prov) : (State.setProv s p i x).hrl = s.hrl := rfl
@[simp] theorem State.setProv_shl (s : State) (p : Fin 32) (i : Nat) (x : Prov) : (State.setProv s p i x).shl = s.shl := rfl
@[simp] theorem State.setProv_tly (s : State) (p : Fin 32) (i : Nat) (x : Prov) : (State.setProv s p i x).tly = s.tly := rfl
@[simp] theorem State.setProv_wdn (s : State) (p : Fin 32) (i : Nat) (x : Prov) : (State.setProv s p i x).wdn = s.wdn := rfl
@[simp] theorem State.setProv_boot (s : State) (p : Fin 32) (i : Nat) (x : Prov) : (State.setProv s p i x).boot = s.boot := rfl
@[simp] theorem State.setProv_hst (s : State) (p : Fin 32) (i : Nat) (x : Prov) : (State.setProv s p i x).hst = s.hst := rfl
@[simp] theorem State.setProv_rdata (s : State) (p : Fin 32) (i : Nat) (x : Prov) : (State.setProv s p i x).rdata = s.rdata := rfl
@[simp] theorem State.setProv_rd (s : State) (p : Fin 32) (i : Nat) (x : Prov) (fld : Fld) : (State.setProv s p i x).rd fld = s.rd fld := rfl
@[simp] theorem State.setProv_word (s : State) (p : Fin 32) (i : Nat) (x : Prov) (adr : Nat) : (State.setProv s p i x).word adr = s.word adr := rfl

@[simp] theorem State.setDom_words (s : State) (d : Nat) (x : Dom) : (State.setDom s d x).words = s.words := by unfold State.setDom; split <;> rfl
@[simp] theorem State.setDom_latch (s : State) (d : Nat) (x : Dom) : (State.setDom s d x).latch = s.latch := by unfold State.setDom; split <;> rfl
@[simp] theorem State.setDom_ctrs (s : State) (d : Nat) (x : Dom) : (State.setDom s d x).ctrs = s.ctrs := by unfold State.setDom; split <;> rfl
@[simp] theorem State.setDom_now (s : State) (d : Nat) (x : Dom) : (State.setDom s d x).now = s.now := by unfold State.setDom; split <;> rfl
@[simp] theorem State.setDom_free (s : State) (d : Nat) (x : Dom) : (State.setDom s d x).free = s.free := by unfold State.setDom; split <;> rfl
@[simp] theorem State.setDom_pending (s : State) (d : Nat) (x : Dom) : (State.setDom s d x).pending = s.pending := by unfold State.setDom; split <;> rfl
@[simp] theorem State.setDom_flt (s : State) (d : Nat) (x : Dom) : (State.setDom s d x).flt = s.flt := by unfold State.setDom; split <;> rfl
@[simp] theorem State.setDom_pon (s : State) (d : Nat) (x : Dom) : (State.setDom s d x).pon = s.pon := by unfold State.setDom; split <;> rfl
@[simp] theorem State.setDom_act (s : State) (d : Nat) (x : Dom) : (State.setDom s d x).act = s.act := by unfold State.setDom; split <;> rfl
@[simp] theorem State.setDom_whf (s : State) (d : Nat) (x : Dom) : (State.setDom s d x).whf = s.whf := by unfold State.setDom; split <;> rfl
@[simp] theorem State.setDom_cpg (s : State) (d : Nat) (x : Dom) : (State.setDom s d x).cpg = s.cpg := by unfold State.setDom; split <;> rfl
@[simp] theorem State.setDom_keys (s : State) (d : Nat) (x : Dom) : (State.setDom s d x).keys = s.keys := by unfold State.setDom; split <;> rfl
@[simp] theorem State.setDom_pm (s : State) (d : Nat) (x : Dom) : (State.setDom s d x).pm = s.pm := by unfold State.setDom; split <;> rfl
@[simp] theorem State.setDom_stw (s : State) (d : Nat) (x : Dom) : (State.setDom s d x).stw = s.stw := by unfold State.setDom; split <;> rfl
@[simp] theorem State.setDom_twn (s : State) (d : Nat) (x : Dom) : (State.setDom s d x).twn = s.twn := by unfold State.setDom; split <;> rfl
@[simp] theorem State.setDom_ldg (s : State) (d : Nat) (x : Dom) : (State.setDom s d x).ldg = s.ldg := by unfold State.setDom; split <;> rfl
@[simp] theorem State.setDom_eng (s : State) (d : Nat) (x : Dom) : (State.setDom s d x).eng = s.eng := by unfold State.setDom; split <;> rfl
@[simp] theorem State.setDom_fwd (s : State) (d : Nat) (x : Dom) : (State.setDom s d x).fwd = s.fwd := by unfold State.setDom; split <;> rfl
@[simp] theorem State.setDom_shl (s : State) (d : Nat) (x : Dom) : (State.setDom s d x).shl = s.shl := by unfold State.setDom; split <;> rfl
@[simp] theorem State.setDom_tly (s : State) (d : Nat) (x : Dom) : (State.setDom s d x).tly = s.tly := by unfold State.setDom; split <;> rfl
@[simp] theorem State.setDom_wdn (s : State) (d : Nat) (x : Dom) : (State.setDom s d x).wdn = s.wdn := by unfold State.setDom; split <;> rfl
@[simp] theorem State.setDom_boot (s : State) (d : Nat) (x : Dom) : (State.setDom s d x).boot = s.boot := by unfold State.setDom; split <;> rfl
@[simp] theorem State.setDom_hst (s : State) (d : Nat) (x : Dom) : (State.setDom s d x).hst = s.hst := by unfold State.setDom; split <;> rfl
@[simp] theorem State.setDom_rdata (s : State) (d : Nat) (x : Dom) : (State.setDom s d x).rdata = s.rdata := by unfold State.setDom; split <;> rfl
@[simp] theorem State.setDom_rd (s : State) (d : Nat) (x : Dom) (fld : Fld) : (State.setDom s d x).rd fld = s.rd fld := by unfold State.setDom; split <;> rfl
@[simp] theorem State.setDom_word (s : State) (d : Nat) (x : Dom) (adr : Nat) : (State.setDom s d x).word adr = s.word adr := by unfold State.setDom; split <;> rfl

@[simp] theorem State.setPpsIn_words (s : State) (i : Nat) (x : PpsIn) : (State.setPpsIn s i x).words = s.words := by unfold State.setPpsIn; split <;> rfl
@[simp] theorem State.setPpsIn_latch (s : State) (i : Nat) (x : PpsIn) : (State.setPpsIn s i x).latch = s.latch := by unfold State.setPpsIn; split <;> rfl
@[simp] theorem State.setPpsIn_ctrs (s : State) (i : Nat) (x : PpsIn) : (State.setPpsIn s i x).ctrs = s.ctrs := by unfold State.setPpsIn; split <;> rfl
@[simp] theorem State.setPpsIn_now (s : State) (i : Nat) (x : PpsIn) : (State.setPpsIn s i x).now = s.now := by unfold State.setPpsIn; split <;> rfl
@[simp] theorem State.setPpsIn_free (s : State) (i : Nat) (x : PpsIn) : (State.setPpsIn s i x).free = s.free := by unfold State.setPpsIn; split <;> rfl
@[simp] theorem State.setPpsIn_pending (s : State) (i : Nat) (x : PpsIn) : (State.setPpsIn s i x).pending = s.pending := by unfold State.setPpsIn; split <;> rfl
@[simp] theorem State.setPpsIn_flt (s : State) (i : Nat) (x : PpsIn) : (State.setPpsIn s i x).flt = s.flt := by unfold State.setPpsIn; split <;> rfl
@[simp] theorem State.setPpsIn_pon (s : State) (i : Nat) (x : PpsIn) : (State.setPpsIn s i x).pon = s.pon := by unfold State.setPpsIn; split <;> rfl
@[simp] theorem State.setPpsIn_act (s : State) (i : Nat) (x : PpsIn) : (State.setPpsIn s i x).act = s.act := by unfold State.setPpsIn; split <;> rfl
@[simp] theorem State.setPpsIn_whf (s : State) (i : Nat) (x : PpsIn) : (State.setPpsIn s i x).whf = s.whf := by unfold State.setPpsIn; split <;> rfl
@[simp] theorem State.setPpsIn_cpg (s : State) (i : Nat) (x : PpsIn) : (State.setPpsIn s i x).cpg = s.cpg := by unfold State.setPpsIn; split <;> rfl
@[simp] theorem State.setPpsIn_keys (s : State) (i : Nat) (x : PpsIn) : (State.setPpsIn s i x).keys = s.keys := by unfold State.setPpsIn; split <;> rfl
@[simp] theorem State.setPpsIn_pm (s : State) (i : Nat) (x : PpsIn) : (State.setPpsIn s i x).pm = s.pm := by unfold State.setPpsIn; split <;> rfl
@[simp] theorem State.setPpsIn_stw (s : State) (i : Nat) (x : PpsIn) : (State.setPpsIn s i x).stw = s.stw := by unfold State.setPpsIn; split <;> rfl
@[simp] theorem State.setPpsIn_twn (s : State) (i : Nat) (x : PpsIn) : (State.setPpsIn s i x).twn = s.twn := by unfold State.setPpsIn; split <;> rfl
@[simp] theorem State.setPpsIn_ldg (s : State) (i : Nat) (x : PpsIn) : (State.setPpsIn s i x).ldg = s.ldg := by unfold State.setPpsIn; split <;> rfl
@[simp] theorem State.setPpsIn_eng (s : State) (i : Nat) (x : PpsIn) : (State.setPpsIn s i x).eng = s.eng := by unfold State.setPpsIn; split <;> rfl
@[simp] theorem State.setPpsIn_fwd (s : State) (i : Nat) (x : PpsIn) : (State.setPpsIn s i x).fwd = s.fwd := by unfold State.setPpsIn; split <;> rfl
@[simp] theorem State.setPpsIn_shl (s : State) (i : Nat) (x : PpsIn) : (State.setPpsIn s i x).shl = s.shl := by unfold State.setPpsIn; split <;> rfl
@[simp] theorem State.setPpsIn_tly (s : State) (i : Nat) (x : PpsIn) : (State.setPpsIn s i x).tly = s.tly := by unfold State.setPpsIn; split <;> rfl
@[simp] theorem State.setPpsIn_wdn (s : State) (i : Nat) (x : PpsIn) : (State.setPpsIn s i x).wdn = s.wdn := by unfold State.setPpsIn; split <;> rfl
@[simp] theorem State.setPpsIn_boot (s : State) (i : Nat) (x : PpsIn) : (State.setPpsIn s i x).boot = s.boot := by unfold State.setPpsIn; split <;> rfl
@[simp] theorem State.setPpsIn_hst (s : State) (i : Nat) (x : PpsIn) : (State.setPpsIn s i x).hst = s.hst := by unfold State.setPpsIn; split <;> rfl
@[simp] theorem State.setPpsIn_rdata (s : State) (i : Nat) (x : PpsIn) : (State.setPpsIn s i x).rdata = s.rdata := by unfold State.setPpsIn; split <;> rfl
@[simp] theorem State.setPpsIn_rd (s : State) (i : Nat) (x : PpsIn) (fld : Fld) : (State.setPpsIn s i x).rd fld = s.rd fld := by unfold State.setPpsIn; split <;> rfl
@[simp] theorem State.setPpsIn_word (s : State) (i : Nat) (x : PpsIn) (adr : Nat) : (State.setPpsIn s i x).word adr = s.word adr := by unfold State.setPpsIn; split <;> rfl

@[simp] theorem State.setTwinTree_words (s : State) (p : Fin 32) (x : TwinTree) : (State.setTwinTree s p x).words = s.words := rfl
@[simp] theorem State.setTwinTree_latch (s : State) (p : Fin 32) (x : TwinTree) : (State.setTwinTree s p x).latch = s.latch := rfl
@[simp] theorem State.setTwinTree_ctrs (s : State) (p : Fin 32) (x : TwinTree) : (State.setTwinTree s p x).ctrs = s.ctrs := rfl
@[simp] theorem State.setTwinTree_now (s : State) (p : Fin 32) (x : TwinTree) : (State.setTwinTree s p x).now = s.now := rfl
@[simp] theorem State.setTwinTree_free (s : State) (p : Fin 32) (x : TwinTree) : (State.setTwinTree s p x).free = s.free := rfl
@[simp] theorem State.setTwinTree_pending (s : State) (p : Fin 32) (x : TwinTree) : (State.setTwinTree s p x).pending = s.pending := rfl
@[simp] theorem State.setTwinTree_flt (s : State) (p : Fin 32) (x : TwinTree) : (State.setTwinTree s p x).flt = s.flt := rfl
@[simp] theorem State.setTwinTree_pon (s : State) (p : Fin 32) (x : TwinTree) : (State.setTwinTree s p x).pon = s.pon := rfl
@[simp] theorem State.setTwinTree_act (s : State) (p : Fin 32) (x : TwinTree) : (State.setTwinTree s p x).act = s.act := rfl
@[simp] theorem State.setTwinTree_whf (s : State) (p : Fin 32) (x : TwinTree) : (State.setTwinTree s p x).whf = s.whf := rfl
@[simp] theorem State.setTwinTree_cpg (s : State) (p : Fin 32) (x : TwinTree) : (State.setTwinTree s p x).cpg = s.cpg := rfl
@[simp] theorem State.setTwinTree_keys (s : State) (p : Fin 32) (x : TwinTree) : (State.setTwinTree s p x).keys = s.keys := rfl
@[simp] theorem State.setTwinTree_pm (s : State) (p : Fin 32) (x : TwinTree) : (State.setTwinTree s p x).pm = s.pm := rfl
@[simp] theorem State.setTwinTree_stw (s : State) (p : Fin 32) (x : TwinTree) : (State.setTwinTree s p x).stw = s.stw := rfl
@[simp] theorem State.setTwinTree_ldg (s : State) (p : Fin 32) (x : TwinTree) : (State.setTwinTree s p x).ldg = s.ldg := rfl
@[simp] theorem State.setTwinTree_eng (s : State) (p : Fin 32) (x : TwinTree) : (State.setTwinTree s p x).eng = s.eng := rfl
@[simp] theorem State.setTwinTree_fwd (s : State) (p : Fin 32) (x : TwinTree) : (State.setTwinTree s p x).fwd = s.fwd := rfl
@[simp] theorem State.setTwinTree_hrl (s : State) (p : Fin 32) (x : TwinTree) : (State.setTwinTree s p x).hrl = s.hrl := rfl
@[simp] theorem State.setTwinTree_shl (s : State) (p : Fin 32) (x : TwinTree) : (State.setTwinTree s p x).shl = s.shl := rfl
@[simp] theorem State.setTwinTree_tly (s : State) (p : Fin 32) (x : TwinTree) : (State.setTwinTree s p x).tly = s.tly := rfl
@[simp] theorem State.setTwinTree_wdn (s : State) (p : Fin 32) (x : TwinTree) : (State.setTwinTree s p x).wdn = s.wdn := rfl
@[simp] theorem State.setTwinTree_boot (s : State) (p : Fin 32) (x : TwinTree) : (State.setTwinTree s p x).boot = s.boot := rfl
@[simp] theorem State.setTwinTree_hst (s : State) (p : Fin 32) (x : TwinTree) : (State.setTwinTree s p x).hst = s.hst := rfl
@[simp] theorem State.setTwinTree_rdata (s : State) (p : Fin 32) (x : TwinTree) : (State.setTwinTree s p x).rdata = s.rdata := rfl
@[simp] theorem State.setTwinTree_rd (s : State) (p : Fin 32) (x : TwinTree) (fld : Fld) : (State.setTwinTree s p x).rd fld = s.rd fld := rfl
@[simp] theorem State.setTwinTree_word (s : State) (p : Fin 32) (x : TwinTree) (adr : Nat) : (State.setTwinTree s p x).word adr = s.word adr := rfl

@[simp] theorem State.setLane_words (s : State) (n : Nat) (x : Lane) : (State.setLane s n x).words = s.words := rfl
@[simp] theorem State.setLane_latch (s : State) (n : Nat) (x : Lane) : (State.setLane s n x).latch = s.latch := rfl
@[simp] theorem State.setLane_ctrs (s : State) (n : Nat) (x : Lane) : (State.setLane s n x).ctrs = s.ctrs := rfl
@[simp] theorem State.setLane_now (s : State) (n : Nat) (x : Lane) : (State.setLane s n x).now = s.now := rfl
@[simp] theorem State.setLane_free (s : State) (n : Nat) (x : Lane) : (State.setLane s n x).free = s.free := rfl
@[simp] theorem State.setLane_pending (s : State) (n : Nat) (x : Lane) : (State.setLane s n x).pending = s.pending := rfl
@[simp] theorem State.setLane_flt (s : State) (n : Nat) (x : Lane) : (State.setLane s n x).flt = s.flt := rfl
@[simp] theorem State.setLane_pon (s : State) (n : Nat) (x : Lane) : (State.setLane s n x).pon = s.pon := rfl
@[simp] theorem State.setLane_act (s : State) (n : Nat) (x : Lane) : (State.setLane s n x).act = s.act := rfl
@[simp] theorem State.setLane_whf (s : State) (n : Nat) (x : Lane) : (State.setLane s n x).whf = s.whf := rfl
@[simp] theorem State.setLane_cpg (s : State) (n : Nat) (x : Lane) : (State.setLane s n x).cpg = s.cpg := rfl
@[simp] theorem State.setLane_keys (s : State) (n : Nat) (x : Lane) : (State.setLane s n x).keys = s.keys := rfl
@[simp] theorem State.setLane_pm (s : State) (n : Nat) (x : Lane) : (State.setLane s n x).pm = s.pm := rfl
@[simp] theorem State.setLane_stw (s : State) (n : Nat) (x : Lane) : (State.setLane s n x).stw = s.stw := rfl
@[simp] theorem State.setLane_twn (s : State) (n : Nat) (x : Lane) : (State.setLane s n x).twn = s.twn := rfl
@[simp] theorem State.setLane_ldg (s : State) (n : Nat) (x : Lane) : (State.setLane s n x).ldg = s.ldg := rfl
@[simp] theorem State.setLane_eng (s : State) (n : Nat) (x : Lane) : (State.setLane s n x).eng = s.eng := rfl
@[simp] theorem State.setLane_fwd (s : State) (n : Nat) (x : Lane) : (State.setLane s n x).fwd = s.fwd := rfl
@[simp] theorem State.setLane_hrl (s : State) (n : Nat) (x : Lane) : (State.setLane s n x).hrl = s.hrl := rfl
@[simp] theorem State.setLane_tly (s : State) (n : Nat) (x : Lane) : (State.setLane s n x).tly = s.tly := rfl
@[simp] theorem State.setLane_wdn (s : State) (n : Nat) (x : Lane) : (State.setLane s n x).wdn = s.wdn := rfl
@[simp] theorem State.setLane_boot (s : State) (n : Nat) (x : Lane) : (State.setLane s n x).boot = s.boot := rfl
@[simp] theorem State.setLane_hst (s : State) (n : Nat) (x : Lane) : (State.setLane s n x).hst = s.hst := rfl
@[simp] theorem State.setLane_rdata (s : State) (n : Nat) (x : Lane) : (State.setLane s n x).rdata = s.rdata := rfl
@[simp] theorem State.setLane_rd (s : State) (n : Nat) (x : Lane) (fld : Fld) : (State.setLane s n x).rd fld = s.rd fld := rfl
@[simp] theorem State.setLane_word (s : State) (n : Nat) (x : Lane) (adr : Nat) : (State.setLane s n x).word adr = s.word adr := rfl

@[simp] theorem State.setAdm_words (s : State) (n : Nat) (x : AdmSrc) : (State.setAdm s n x).words = s.words := rfl
@[simp] theorem State.setAdm_latch (s : State) (n : Nat) (x : AdmSrc) : (State.setAdm s n x).latch = s.latch := rfl
@[simp] theorem State.setAdm_ctrs (s : State) (n : Nat) (x : AdmSrc) : (State.setAdm s n x).ctrs = s.ctrs := rfl
@[simp] theorem State.setAdm_now (s : State) (n : Nat) (x : AdmSrc) : (State.setAdm s n x).now = s.now := rfl
@[simp] theorem State.setAdm_free (s : State) (n : Nat) (x : AdmSrc) : (State.setAdm s n x).free = s.free := rfl
@[simp] theorem State.setAdm_pending (s : State) (n : Nat) (x : AdmSrc) : (State.setAdm s n x).pending = s.pending := rfl
@[simp] theorem State.setAdm_flt (s : State) (n : Nat) (x : AdmSrc) : (State.setAdm s n x).flt = s.flt := rfl
@[simp] theorem State.setAdm_pon (s : State) (n : Nat) (x : AdmSrc) : (State.setAdm s n x).pon = s.pon := rfl
@[simp] theorem State.setAdm_act (s : State) (n : Nat) (x : AdmSrc) : (State.setAdm s n x).act = s.act := rfl
@[simp] theorem State.setAdm_whf (s : State) (n : Nat) (x : AdmSrc) : (State.setAdm s n x).whf = s.whf := rfl
@[simp] theorem State.setAdm_cpg (s : State) (n : Nat) (x : AdmSrc) : (State.setAdm s n x).cpg = s.cpg := rfl
@[simp] theorem State.setAdm_keys (s : State) (n : Nat) (x : AdmSrc) : (State.setAdm s n x).keys = s.keys := rfl
@[simp] theorem State.setAdm_pm (s : State) (n : Nat) (x : AdmSrc) : (State.setAdm s n x).pm = s.pm := rfl
@[simp] theorem State.setAdm_stw (s : State) (n : Nat) (x : AdmSrc) : (State.setAdm s n x).stw = s.stw := rfl
@[simp] theorem State.setAdm_twn (s : State) (n : Nat) (x : AdmSrc) : (State.setAdm s n x).twn = s.twn := rfl
@[simp] theorem State.setAdm_ldg (s : State) (n : Nat) (x : AdmSrc) : (State.setAdm s n x).ldg = s.ldg := rfl
@[simp] theorem State.setAdm_eng (s : State) (n : Nat) (x : AdmSrc) : (State.setAdm s n x).eng = s.eng := rfl
@[simp] theorem State.setAdm_hrl (s : State) (n : Nat) (x : AdmSrc) : (State.setAdm s n x).hrl = s.hrl := rfl
@[simp] theorem State.setAdm_shl (s : State) (n : Nat) (x : AdmSrc) : (State.setAdm s n x).shl = s.shl := rfl
@[simp] theorem State.setAdm_tly (s : State) (n : Nat) (x : AdmSrc) : (State.setAdm s n x).tly = s.tly := rfl
@[simp] theorem State.setAdm_wdn (s : State) (n : Nat) (x : AdmSrc) : (State.setAdm s n x).wdn = s.wdn := rfl
@[simp] theorem State.setAdm_boot (s : State) (n : Nat) (x : AdmSrc) : (State.setAdm s n x).boot = s.boot := rfl
@[simp] theorem State.setAdm_hst (s : State) (n : Nat) (x : AdmSrc) : (State.setAdm s n x).hst = s.hst := rfl
@[simp] theorem State.setAdm_rdata (s : State) (n : Nat) (x : AdmSrc) : (State.setAdm s n x).rdata = s.rdata := rfl
@[simp] theorem State.setAdm_rd (s : State) (n : Nat) (x : AdmSrc) (fld : Fld) : (State.setAdm s n x).rd fld = s.rd fld := rfl
@[simp] theorem State.setAdm_word (s : State) (n : Nat) (x : AdmSrc) (adr : Nat) : (State.setAdm s n x).word adr = s.word adr := rfl

@[simp] theorem State.setRow_words (s : State) (i : Nat) (e : Option LEnt) : (State.setRow s i e).words = s.words := rfl
@[simp] theorem State.setRow_latch (s : State) (i : Nat) (e : Option LEnt) : (State.setRow s i e).latch = s.latch := rfl
@[simp] theorem State.setRow_ctrs (s : State) (i : Nat) (e : Option LEnt) : (State.setRow s i e).ctrs = s.ctrs := rfl
@[simp] theorem State.setRow_now (s : State) (i : Nat) (e : Option LEnt) : (State.setRow s i e).now = s.now := rfl
@[simp] theorem State.setRow_free (s : State) (i : Nat) (e : Option LEnt) : (State.setRow s i e).free = s.free := rfl
@[simp] theorem State.setRow_pending (s : State) (i : Nat) (e : Option LEnt) : (State.setRow s i e).pending = s.pending := rfl
@[simp] theorem State.setRow_flt (s : State) (i : Nat) (e : Option LEnt) : (State.setRow s i e).flt = s.flt := rfl
@[simp] theorem State.setRow_pon (s : State) (i : Nat) (e : Option LEnt) : (State.setRow s i e).pon = s.pon := rfl
@[simp] theorem State.setRow_act (s : State) (i : Nat) (e : Option LEnt) : (State.setRow s i e).act = s.act := rfl
@[simp] theorem State.setRow_whf (s : State) (i : Nat) (e : Option LEnt) : (State.setRow s i e).whf = s.whf := rfl
@[simp] theorem State.setRow_cpg (s : State) (i : Nat) (e : Option LEnt) : (State.setRow s i e).cpg = s.cpg := rfl
@[simp] theorem State.setRow_keys (s : State) (i : Nat) (e : Option LEnt) : (State.setRow s i e).keys = s.keys := rfl
@[simp] theorem State.setRow_pm (s : State) (i : Nat) (e : Option LEnt) : (State.setRow s i e).pm = s.pm := rfl
@[simp] theorem State.setRow_stw (s : State) (i : Nat) (e : Option LEnt) : (State.setRow s i e).stw = s.stw := rfl
@[simp] theorem State.setRow_twn (s : State) (i : Nat) (e : Option LEnt) : (State.setRow s i e).twn = s.twn := rfl
@[simp] theorem State.setRow_eng (s : State) (i : Nat) (e : Option LEnt) : (State.setRow s i e).eng = s.eng := rfl
@[simp] theorem State.setRow_fwd (s : State) (i : Nat) (e : Option LEnt) : (State.setRow s i e).fwd = s.fwd := rfl
@[simp] theorem State.setRow_hrl (s : State) (i : Nat) (e : Option LEnt) : (State.setRow s i e).hrl = s.hrl := rfl
@[simp] theorem State.setRow_shl (s : State) (i : Nat) (e : Option LEnt) : (State.setRow s i e).shl = s.shl := rfl
@[simp] theorem State.setRow_tly (s : State) (i : Nat) (e : Option LEnt) : (State.setRow s i e).tly = s.tly := rfl
@[simp] theorem State.setRow_wdn (s : State) (i : Nat) (e : Option LEnt) : (State.setRow s i e).wdn = s.wdn := rfl
@[simp] theorem State.setRow_boot (s : State) (i : Nat) (e : Option LEnt) : (State.setRow s i e).boot = s.boot := rfl
@[simp] theorem State.setRow_hst (s : State) (i : Nat) (e : Option LEnt) : (State.setRow s i e).hst = s.hst := rfl
@[simp] theorem State.setRow_rdata (s : State) (i : Nat) (e : Option LEnt) : (State.setRow s i e).rdata = s.rdata := rfl
@[simp] theorem State.setRow_rd (s : State) (i : Nat) (e : Option LEnt) (fld : Fld) : (State.setRow s i e).rd fld = s.rd fld := rfl
@[simp] theorem State.setRow_word (s : State) (i : Nat) (e : Option LEnt) (adr : Nat) : (State.setRow s i e).word adr = s.word adr := rfl

@[simp] theorem State.setCell_words (s : State) (i : Nat) (e : Option Cell) : (State.setCell s i e).words = s.words := rfl
@[simp] theorem State.setCell_latch (s : State) (i : Nat) (e : Option Cell) : (State.setCell s i e).latch = s.latch := rfl
@[simp] theorem State.setCell_ctrs (s : State) (i : Nat) (e : Option Cell) : (State.setCell s i e).ctrs = s.ctrs := rfl
@[simp] theorem State.setCell_now (s : State) (i : Nat) (e : Option Cell) : (State.setCell s i e).now = s.now := rfl
@[simp] theorem State.setCell_free (s : State) (i : Nat) (e : Option Cell) : (State.setCell s i e).free = s.free := rfl
@[simp] theorem State.setCell_pending (s : State) (i : Nat) (e : Option Cell) : (State.setCell s i e).pending = s.pending := rfl
@[simp] theorem State.setCell_flt (s : State) (i : Nat) (e : Option Cell) : (State.setCell s i e).flt = s.flt := rfl
@[simp] theorem State.setCell_pon (s : State) (i : Nat) (e : Option Cell) : (State.setCell s i e).pon = s.pon := rfl
@[simp] theorem State.setCell_act (s : State) (i : Nat) (e : Option Cell) : (State.setCell s i e).act = s.act := rfl
@[simp] theorem State.setCell_whf (s : State) (i : Nat) (e : Option Cell) : (State.setCell s i e).whf = s.whf := rfl
@[simp] theorem State.setCell_cpg (s : State) (i : Nat) (e : Option Cell) : (State.setCell s i e).cpg = s.cpg := rfl
@[simp] theorem State.setCell_keys (s : State) (i : Nat) (e : Option Cell) : (State.setCell s i e).keys = s.keys := rfl
@[simp] theorem State.setCell_pm (s : State) (i : Nat) (e : Option Cell) : (State.setCell s i e).pm = s.pm := rfl
@[simp] theorem State.setCell_stw (s : State) (i : Nat) (e : Option Cell) : (State.setCell s i e).stw = s.stw := rfl
@[simp] theorem State.setCell_twn (s : State) (i : Nat) (e : Option Cell) : (State.setCell s i e).twn = s.twn := rfl
@[simp] theorem State.setCell_eng (s : State) (i : Nat) (e : Option Cell) : (State.setCell s i e).eng = s.eng := rfl
@[simp] theorem State.setCell_fwd (s : State) (i : Nat) (e : Option Cell) : (State.setCell s i e).fwd = s.fwd := rfl
@[simp] theorem State.setCell_hrl (s : State) (i : Nat) (e : Option Cell) : (State.setCell s i e).hrl = s.hrl := rfl
@[simp] theorem State.setCell_shl (s : State) (i : Nat) (e : Option Cell) : (State.setCell s i e).shl = s.shl := rfl
@[simp] theorem State.setCell_tly (s : State) (i : Nat) (e : Option Cell) : (State.setCell s i e).tly = s.tly := rfl
@[simp] theorem State.setCell_wdn (s : State) (i : Nat) (e : Option Cell) : (State.setCell s i e).wdn = s.wdn := rfl
@[simp] theorem State.setCell_boot (s : State) (i : Nat) (e : Option Cell) : (State.setCell s i e).boot = s.boot := rfl
@[simp] theorem State.setCell_hst (s : State) (i : Nat) (e : Option Cell) : (State.setCell s i e).hst = s.hst := rfl
@[simp] theorem State.setCell_rdata (s : State) (i : Nat) (e : Option Cell) : (State.setCell s i e).rdata = s.rdata := rfl
@[simp] theorem State.setCell_rd (s : State) (i : Nat) (e : Option Cell) (fld : Fld) : (State.setCell s i e).rd fld = s.rd fld := rfl
@[simp] theorem State.setCell_word (s : State) (i : Nat) (e : Option Cell) (adr : Nat) : (State.setCell s i e).word adr = s.word adr := rfl

@[simp] theorem State.setFlow_words (s : State) (f : Nat) (x : Flow) : (State.setFlow s f x).words = s.words := rfl
@[simp] theorem State.setFlow_latch (s : State) (f : Nat) (x : Flow) : (State.setFlow s f x).latch = s.latch := rfl
@[simp] theorem State.setFlow_ctrs (s : State) (f : Nat) (x : Flow) : (State.setFlow s f x).ctrs = s.ctrs := rfl
@[simp] theorem State.setFlow_now (s : State) (f : Nat) (x : Flow) : (State.setFlow s f x).now = s.now := rfl
@[simp] theorem State.setFlow_free (s : State) (f : Nat) (x : Flow) : (State.setFlow s f x).free = s.free := rfl
@[simp] theorem State.setFlow_pending (s : State) (f : Nat) (x : Flow) : (State.setFlow s f x).pending = s.pending := rfl
@[simp] theorem State.setFlow_flt (s : State) (f : Nat) (x : Flow) : (State.setFlow s f x).flt = s.flt := rfl
@[simp] theorem State.setFlow_pon (s : State) (f : Nat) (x : Flow) : (State.setFlow s f x).pon = s.pon := rfl
@[simp] theorem State.setFlow_act (s : State) (f : Nat) (x : Flow) : (State.setFlow s f x).act = s.act := rfl
@[simp] theorem State.setFlow_whf (s : State) (f : Nat) (x : Flow) : (State.setFlow s f x).whf = s.whf := rfl
@[simp] theorem State.setFlow_cpg (s : State) (f : Nat) (x : Flow) : (State.setFlow s f x).cpg = s.cpg := rfl
@[simp] theorem State.setFlow_keys (s : State) (f : Nat) (x : Flow) : (State.setFlow s f x).keys = s.keys := rfl
@[simp] theorem State.setFlow_pm (s : State) (f : Nat) (x : Flow) : (State.setFlow s f x).pm = s.pm := rfl
@[simp] theorem State.setFlow_stw (s : State) (f : Nat) (x : Flow) : (State.setFlow s f x).stw = s.stw := rfl
@[simp] theorem State.setFlow_twn (s : State) (f : Nat) (x : Flow) : (State.setFlow s f x).twn = s.twn := rfl
@[simp] theorem State.setFlow_ldg (s : State) (f : Nat) (x : Flow) : (State.setFlow s f x).ldg = s.ldg := rfl
@[simp] theorem State.setFlow_eng (s : State) (f : Nat) (x : Flow) : (State.setFlow s f x).eng = s.eng := rfl
@[simp] theorem State.setFlow_hrl (s : State) (f : Nat) (x : Flow) : (State.setFlow s f x).hrl = s.hrl := rfl
@[simp] theorem State.setFlow_shl (s : State) (f : Nat) (x : Flow) : (State.setFlow s f x).shl = s.shl := rfl
@[simp] theorem State.setFlow_tly (s : State) (f : Nat) (x : Flow) : (State.setFlow s f x).tly = s.tly := rfl
@[simp] theorem State.setFlow_wdn (s : State) (f : Nat) (x : Flow) : (State.setFlow s f x).wdn = s.wdn := rfl
@[simp] theorem State.setFlow_boot (s : State) (f : Nat) (x : Flow) : (State.setFlow s f x).boot = s.boot := rfl
@[simp] theorem State.setFlow_hst (s : State) (f : Nat) (x : Flow) : (State.setFlow s f x).hst = s.hst := rfl
@[simp] theorem State.setFlow_rdata (s : State) (f : Nat) (x : Flow) : (State.setFlow s f x).rdata = s.rdata := rfl
@[simp] theorem State.setFlow_rd (s : State) (f : Nat) (x : Flow) (fld : Fld) : (State.setFlow s f x).rd fld = s.rd fld := rfl
@[simp] theorem State.setFlow_word (s : State) (f : Nat) (x : Flow) (adr : Nat) : (State.setFlow s f x).word adr = s.word adr := rfl

@[simp] theorem State.setCtx_words (s : State) (k : Nat) (x : Option Ctx) : (State.setCtx s k x).words = s.words := rfl
@[simp] theorem State.setCtx_latch (s : State) (k : Nat) (x : Option Ctx) : (State.setCtx s k x).latch = s.latch := rfl
@[simp] theorem State.setCtx_ctrs (s : State) (k : Nat) (x : Option Ctx) : (State.setCtx s k x).ctrs = s.ctrs := rfl
@[simp] theorem State.setCtx_now (s : State) (k : Nat) (x : Option Ctx) : (State.setCtx s k x).now = s.now := rfl
@[simp] theorem State.setCtx_free (s : State) (k : Nat) (x : Option Ctx) : (State.setCtx s k x).free = s.free := rfl
@[simp] theorem State.setCtx_pending (s : State) (k : Nat) (x : Option Ctx) : (State.setCtx s k x).pending = s.pending := rfl
@[simp] theorem State.setCtx_flt (s : State) (k : Nat) (x : Option Ctx) : (State.setCtx s k x).flt = s.flt := rfl
@[simp] theorem State.setCtx_pon (s : State) (k : Nat) (x : Option Ctx) : (State.setCtx s k x).pon = s.pon := rfl
@[simp] theorem State.setCtx_act (s : State) (k : Nat) (x : Option Ctx) : (State.setCtx s k x).act = s.act := rfl
@[simp] theorem State.setCtx_whf (s : State) (k : Nat) (x : Option Ctx) : (State.setCtx s k x).whf = s.whf := rfl
@[simp] theorem State.setCtx_cpg (s : State) (k : Nat) (x : Option Ctx) : (State.setCtx s k x).cpg = s.cpg := rfl
@[simp] theorem State.setCtx_keys (s : State) (k : Nat) (x : Option Ctx) : (State.setCtx s k x).keys = s.keys := rfl
@[simp] theorem State.setCtx_pm (s : State) (k : Nat) (x : Option Ctx) : (State.setCtx s k x).pm = s.pm := rfl
@[simp] theorem State.setCtx_stw (s : State) (k : Nat) (x : Option Ctx) : (State.setCtx s k x).stw = s.stw := rfl
@[simp] theorem State.setCtx_twn (s : State) (k : Nat) (x : Option Ctx) : (State.setCtx s k x).twn = s.twn := rfl
@[simp] theorem State.setCtx_ldg (s : State) (k : Nat) (x : Option Ctx) : (State.setCtx s k x).ldg = s.ldg := rfl
@[simp] theorem State.setCtx_fwd (s : State) (k : Nat) (x : Option Ctx) : (State.setCtx s k x).fwd = s.fwd := rfl
@[simp] theorem State.setCtx_hrl (s : State) (k : Nat) (x : Option Ctx) : (State.setCtx s k x).hrl = s.hrl := rfl
@[simp] theorem State.setCtx_shl (s : State) (k : Nat) (x : Option Ctx) : (State.setCtx s k x).shl = s.shl := rfl
@[simp] theorem State.setCtx_tly (s : State) (k : Nat) (x : Option Ctx) : (State.setCtx s k x).tly = s.tly := rfl
@[simp] theorem State.setCtx_wdn (s : State) (k : Nat) (x : Option Ctx) : (State.setCtx s k x).wdn = s.wdn := rfl
@[simp] theorem State.setCtx_boot (s : State) (k : Nat) (x : Option Ctx) : (State.setCtx s k x).boot = s.boot := rfl
@[simp] theorem State.setCtx_hst (s : State) (k : Nat) (x : Option Ctx) : (State.setCtx s k x).hst = s.hst := rfl
@[simp] theorem State.setCtx_rdata (s : State) (k : Nat) (x : Option Ctx) : (State.setCtx s k x).rdata = s.rdata := rfl
@[simp] theorem State.setCtx_rd (s : State) (k : Nat) (x : Option Ctx) (fld : Fld) : (State.setCtx s k x).rd fld = s.rd fld := rfl
@[simp] theorem State.setCtx_word (s : State) (k : Nat) (x : Option Ctx) (adr : Nat) : (State.setCtx s k x).word adr = s.word adr := rfl

@[simp] theorem State.setGuild_words (s : State) (g : Nat) (x : Guild) : (State.setGuild s g x).words = s.words := rfl
@[simp] theorem State.setGuild_latch (s : State) (g : Nat) (x : Guild) : (State.setGuild s g x).latch = s.latch := rfl
@[simp] theorem State.setGuild_ctrs (s : State) (g : Nat) (x : Guild) : (State.setGuild s g x).ctrs = s.ctrs := rfl
@[simp] theorem State.setGuild_now (s : State) (g : Nat) (x : Guild) : (State.setGuild s g x).now = s.now := rfl
@[simp] theorem State.setGuild_free (s : State) (g : Nat) (x : Guild) : (State.setGuild s g x).free = s.free := rfl
@[simp] theorem State.setGuild_pending (s : State) (g : Nat) (x : Guild) : (State.setGuild s g x).pending = s.pending := rfl
@[simp] theorem State.setGuild_flt (s : State) (g : Nat) (x : Guild) : (State.setGuild s g x).flt = s.flt := rfl
@[simp] theorem State.setGuild_pon (s : State) (g : Nat) (x : Guild) : (State.setGuild s g x).pon = s.pon := rfl
@[simp] theorem State.setGuild_act (s : State) (g : Nat) (x : Guild) : (State.setGuild s g x).act = s.act := rfl
@[simp] theorem State.setGuild_whf (s : State) (g : Nat) (x : Guild) : (State.setGuild s g x).whf = s.whf := rfl
@[simp] theorem State.setGuild_cpg (s : State) (g : Nat) (x : Guild) : (State.setGuild s g x).cpg = s.cpg := rfl
@[simp] theorem State.setGuild_keys (s : State) (g : Nat) (x : Guild) : (State.setGuild s g x).keys = s.keys := rfl
@[simp] theorem State.setGuild_pm (s : State) (g : Nat) (x : Guild) : (State.setGuild s g x).pm = s.pm := rfl
@[simp] theorem State.setGuild_stw (s : State) (g : Nat) (x : Guild) : (State.setGuild s g x).stw = s.stw := rfl
@[simp] theorem State.setGuild_twn (s : State) (g : Nat) (x : Guild) : (State.setGuild s g x).twn = s.twn := rfl
@[simp] theorem State.setGuild_ldg (s : State) (g : Nat) (x : Guild) : (State.setGuild s g x).ldg = s.ldg := rfl
@[simp] theorem State.setGuild_fwd (s : State) (g : Nat) (x : Guild) : (State.setGuild s g x).fwd = s.fwd := rfl
@[simp] theorem State.setGuild_hrl (s : State) (g : Nat) (x : Guild) : (State.setGuild s g x).hrl = s.hrl := rfl
@[simp] theorem State.setGuild_shl (s : State) (g : Nat) (x : Guild) : (State.setGuild s g x).shl = s.shl := rfl
@[simp] theorem State.setGuild_tly (s : State) (g : Nat) (x : Guild) : (State.setGuild s g x).tly = s.tly := rfl
@[simp] theorem State.setGuild_wdn (s : State) (g : Nat) (x : Guild) : (State.setGuild s g x).wdn = s.wdn := rfl
@[simp] theorem State.setGuild_boot (s : State) (g : Nat) (x : Guild) : (State.setGuild s g x).boot = s.boot := rfl
@[simp] theorem State.setGuild_hst (s : State) (g : Nat) (x : Guild) : (State.setGuild s g x).hst = s.hst := rfl
@[simp] theorem State.setGuild_rdata (s : State) (g : Nat) (x : Guild) : (State.setGuild s g x).rdata = s.rdata := rfl
@[simp] theorem State.setGuild_rd (s : State) (g : Nat) (x : Guild) (fld : Fld) : (State.setGuild s g x).rd fld = s.rd fld := rfl
@[simp] theorem State.setGuild_word (s : State) (g : Nat) (x : Guild) (adr : Nat) : (State.setGuild s g x).word adr = s.word adr := rfl

@[simp] theorem State.setExc_words (s : State) (k : Nat) (x : ExcBkt) : (State.setExc s k x).words = s.words := rfl
@[simp] theorem State.setExc_latch (s : State) (k : Nat) (x : ExcBkt) : (State.setExc s k x).latch = s.latch := rfl
@[simp] theorem State.setExc_ctrs (s : State) (k : Nat) (x : ExcBkt) : (State.setExc s k x).ctrs = s.ctrs := rfl
@[simp] theorem State.setExc_now (s : State) (k : Nat) (x : ExcBkt) : (State.setExc s k x).now = s.now := rfl
@[simp] theorem State.setExc_free (s : State) (k : Nat) (x : ExcBkt) : (State.setExc s k x).free = s.free := rfl
@[simp] theorem State.setExc_pending (s : State) (k : Nat) (x : ExcBkt) : (State.setExc s k x).pending = s.pending := rfl
@[simp] theorem State.setExc_flt (s : State) (k : Nat) (x : ExcBkt) : (State.setExc s k x).flt = s.flt := rfl
@[simp] theorem State.setExc_pon (s : State) (k : Nat) (x : ExcBkt) : (State.setExc s k x).pon = s.pon := rfl
@[simp] theorem State.setExc_act (s : State) (k : Nat) (x : ExcBkt) : (State.setExc s k x).act = s.act := rfl
@[simp] theorem State.setExc_whf (s : State) (k : Nat) (x : ExcBkt) : (State.setExc s k x).whf = s.whf := rfl
@[simp] theorem State.setExc_cpg (s : State) (k : Nat) (x : ExcBkt) : (State.setExc s k x).cpg = s.cpg := rfl
@[simp] theorem State.setExc_keys (s : State) (k : Nat) (x : ExcBkt) : (State.setExc s k x).keys = s.keys := rfl
@[simp] theorem State.setExc_pm (s : State) (k : Nat) (x : ExcBkt) : (State.setExc s k x).pm = s.pm := rfl
@[simp] theorem State.setExc_stw (s : State) (k : Nat) (x : ExcBkt) : (State.setExc s k x).stw = s.stw := rfl
@[simp] theorem State.setExc_twn (s : State) (k : Nat) (x : ExcBkt) : (State.setExc s k x).twn = s.twn := rfl
@[simp] theorem State.setExc_ldg (s : State) (k : Nat) (x : ExcBkt) : (State.setExc s k x).ldg = s.ldg := rfl
@[simp] theorem State.setExc_eng (s : State) (k : Nat) (x : ExcBkt) : (State.setExc s k x).eng = s.eng := rfl
@[simp] theorem State.setExc_hrl (s : State) (k : Nat) (x : ExcBkt) : (State.setExc s k x).hrl = s.hrl := rfl
@[simp] theorem State.setExc_shl (s : State) (k : Nat) (x : ExcBkt) : (State.setExc s k x).shl = s.shl := rfl
@[simp] theorem State.setExc_tly (s : State) (k : Nat) (x : ExcBkt) : (State.setExc s k x).tly = s.tly := rfl
@[simp] theorem State.setExc_wdn (s : State) (k : Nat) (x : ExcBkt) : (State.setExc s k x).wdn = s.wdn := rfl
@[simp] theorem State.setExc_boot (s : State) (k : Nat) (x : ExcBkt) : (State.setExc s k x).boot = s.boot := rfl
@[simp] theorem State.setExc_hst (s : State) (k : Nat) (x : ExcBkt) : (State.setExc s k x).hst = s.hst := rfl
@[simp] theorem State.setExc_rdata (s : State) (k : Nat) (x : ExcBkt) : (State.setExc s k x).rdata = s.rdata := rfl
@[simp] theorem State.setExc_rd (s : State) (k : Nat) (x : ExcBkt) (fld : Fld) : (State.setExc s k x).rd fld = s.rd fld := rfl
@[simp] theorem State.setExc_word (s : State) (k : Nat) (x : ExcBkt) (adr : Nat) : (State.setExc s k x).word adr = s.word adr := rfl

@[simp] theorem State.setCut_words (s : State) (k : Nat) (x : Option (Nat × List Byte)) : (State.setCut s k x).words = s.words := rfl
@[simp] theorem State.setCut_latch (s : State) (k : Nat) (x : Option (Nat × List Byte)) : (State.setCut s k x).latch = s.latch := rfl
@[simp] theorem State.setCut_ctrs (s : State) (k : Nat) (x : Option (Nat × List Byte)) : (State.setCut s k x).ctrs = s.ctrs := rfl
@[simp] theorem State.setCut_now (s : State) (k : Nat) (x : Option (Nat × List Byte)) : (State.setCut s k x).now = s.now := rfl
@[simp] theorem State.setCut_free (s : State) (k : Nat) (x : Option (Nat × List Byte)) : (State.setCut s k x).free = s.free := rfl
@[simp] theorem State.setCut_pending (s : State) (k : Nat) (x : Option (Nat × List Byte)) : (State.setCut s k x).pending = s.pending := rfl
@[simp] theorem State.setCut_flt (s : State) (k : Nat) (x : Option (Nat × List Byte)) : (State.setCut s k x).flt = s.flt := rfl
@[simp] theorem State.setCut_pon (s : State) (k : Nat) (x : Option (Nat × List Byte)) : (State.setCut s k x).pon = s.pon := rfl
@[simp] theorem State.setCut_act (s : State) (k : Nat) (x : Option (Nat × List Byte)) : (State.setCut s k x).act = s.act := rfl
@[simp] theorem State.setCut_whf (s : State) (k : Nat) (x : Option (Nat × List Byte)) : (State.setCut s k x).whf = s.whf := rfl
@[simp] theorem State.setCut_cpg (s : State) (k : Nat) (x : Option (Nat × List Byte)) : (State.setCut s k x).cpg = s.cpg := rfl
@[simp] theorem State.setCut_keys (s : State) (k : Nat) (x : Option (Nat × List Byte)) : (State.setCut s k x).keys = s.keys := rfl
@[simp] theorem State.setCut_pm (s : State) (k : Nat) (x : Option (Nat × List Byte)) : (State.setCut s k x).pm = s.pm := rfl
@[simp] theorem State.setCut_stw (s : State) (k : Nat) (x : Option (Nat × List Byte)) : (State.setCut s k x).stw = s.stw := rfl
@[simp] theorem State.setCut_twn (s : State) (k : Nat) (x : Option (Nat × List Byte)) : (State.setCut s k x).twn = s.twn := rfl
@[simp] theorem State.setCut_ldg (s : State) (k : Nat) (x : Option (Nat × List Byte)) : (State.setCut s k x).ldg = s.ldg := rfl
@[simp] theorem State.setCut_eng (s : State) (k : Nat) (x : Option (Nat × List Byte)) : (State.setCut s k x).eng = s.eng := rfl
@[simp] theorem State.setCut_fwd (s : State) (k : Nat) (x : Option (Nat × List Byte)) : (State.setCut s k x).fwd = s.fwd := rfl
@[simp] theorem State.setCut_hrl (s : State) (k : Nat) (x : Option (Nat × List Byte)) : (State.setCut s k x).hrl = s.hrl := rfl
@[simp] theorem State.setCut_tly (s : State) (k : Nat) (x : Option (Nat × List Byte)) : (State.setCut s k x).tly = s.tly := rfl
@[simp] theorem State.setCut_wdn (s : State) (k : Nat) (x : Option (Nat × List Byte)) : (State.setCut s k x).wdn = s.wdn := rfl
@[simp] theorem State.setCut_boot (s : State) (k : Nat) (x : Option (Nat × List Byte)) : (State.setCut s k x).boot = s.boot := rfl
@[simp] theorem State.setCut_hst (s : State) (k : Nat) (x : Option (Nat × List Byte)) : (State.setCut s k x).hst = s.hst := rfl
@[simp] theorem State.setCut_rdata (s : State) (k : Nat) (x : Option (Nat × List Byte)) : (State.setCut s k x).rdata = s.rdata := rfl
@[simp] theorem State.setCut_rd (s : State) (k : Nat) (x : Option (Nat × List Byte)) (fld : Fld) : (State.setCut s k x).rd fld = s.rd fld := rfl
@[simp] theorem State.setCut_word (s : State) (k : Nat) (x : Option (Nat × List Byte)) (adr : Nat) : (State.setCut s k x).word adr = s.word adr := rfl

@[simp] theorem State.setChk_words (s : State) (b : LaneBlock) (x : Chk) : (State.setChk s b x).words = s.words := rfl
@[simp] theorem State.setChk_latch (s : State) (b : LaneBlock) (x : Chk) : (State.setChk s b x).latch = s.latch := rfl
@[simp] theorem State.setChk_ctrs (s : State) (b : LaneBlock) (x : Chk) : (State.setChk s b x).ctrs = s.ctrs := rfl
@[simp] theorem State.setChk_now (s : State) (b : LaneBlock) (x : Chk) : (State.setChk s b x).now = s.now := rfl
@[simp] theorem State.setChk_free (s : State) (b : LaneBlock) (x : Chk) : (State.setChk s b x).free = s.free := rfl
@[simp] theorem State.setChk_pending (s : State) (b : LaneBlock) (x : Chk) : (State.setChk s b x).pending = s.pending := rfl
@[simp] theorem State.setChk_flt (s : State) (b : LaneBlock) (x : Chk) : (State.setChk s b x).flt = s.flt := rfl
@[simp] theorem State.setChk_pon (s : State) (b : LaneBlock) (x : Chk) : (State.setChk s b x).pon = s.pon := rfl
@[simp] theorem State.setChk_act (s : State) (b : LaneBlock) (x : Chk) : (State.setChk s b x).act = s.act := rfl
@[simp] theorem State.setChk_whf (s : State) (b : LaneBlock) (x : Chk) : (State.setChk s b x).whf = s.whf := rfl
@[simp] theorem State.setChk_cpg (s : State) (b : LaneBlock) (x : Chk) : (State.setChk s b x).cpg = s.cpg := rfl
@[simp] theorem State.setChk_keys (s : State) (b : LaneBlock) (x : Chk) : (State.setChk s b x).keys = s.keys := rfl
@[simp] theorem State.setChk_pm (s : State) (b : LaneBlock) (x : Chk) : (State.setChk s b x).pm = s.pm := rfl
@[simp] theorem State.setChk_stw (s : State) (b : LaneBlock) (x : Chk) : (State.setChk s b x).stw = s.stw := rfl
@[simp] theorem State.setChk_twn (s : State) (b : LaneBlock) (x : Chk) : (State.setChk s b x).twn = s.twn := rfl
@[simp] theorem State.setChk_ldg (s : State) (b : LaneBlock) (x : Chk) : (State.setChk s b x).ldg = s.ldg := rfl
@[simp] theorem State.setChk_eng (s : State) (b : LaneBlock) (x : Chk) : (State.setChk s b x).eng = s.eng := rfl
@[simp] theorem State.setChk_fwd (s : State) (b : LaneBlock) (x : Chk) : (State.setChk s b x).fwd = s.fwd := rfl
@[simp] theorem State.setChk_hrl (s : State) (b : LaneBlock) (x : Chk) : (State.setChk s b x).hrl = s.hrl := rfl
@[simp] theorem State.setChk_tly (s : State) (b : LaneBlock) (x : Chk) : (State.setChk s b x).tly = s.tly := rfl
@[simp] theorem State.setChk_wdn (s : State) (b : LaneBlock) (x : Chk) : (State.setChk s b x).wdn = s.wdn := rfl
@[simp] theorem State.setChk_boot (s : State) (b : LaneBlock) (x : Chk) : (State.setChk s b x).boot = s.boot := rfl
@[simp] theorem State.setChk_hst (s : State) (b : LaneBlock) (x : Chk) : (State.setChk s b x).hst = s.hst := rfl
@[simp] theorem State.setChk_rdata (s : State) (b : LaneBlock) (x : Chk) : (State.setChk s b x).rdata = s.rdata := rfl
@[simp] theorem State.setChk_rd (s : State) (b : LaneBlock) (x : Chk) (fld : Fld) : (State.setChk s b x).rd fld = s.rd fld := rfl
@[simp] theorem State.setChk_word (s : State) (b : LaneBlock) (x : Chk) (adr : Nat) : (State.setChk s b x).word adr = s.word adr := rfl

@[simp] theorem State.setFailed_words (s : State) (l : List Nat) : (State.setFailed s l).words = s.words := rfl
@[simp] theorem State.setFailed_latch (s : State) (l : List Nat) : (State.setFailed s l).latch = s.latch := rfl
@[simp] theorem State.setFailed_ctrs (s : State) (l : List Nat) : (State.setFailed s l).ctrs = s.ctrs := rfl
@[simp] theorem State.setFailed_now (s : State) (l : List Nat) : (State.setFailed s l).now = s.now := rfl
@[simp] theorem State.setFailed_free (s : State) (l : List Nat) : (State.setFailed s l).free = s.free := rfl
@[simp] theorem State.setFailed_pending (s : State) (l : List Nat) : (State.setFailed s l).pending = s.pending := rfl
@[simp] theorem State.setFailed_flt (s : State) (l : List Nat) : (State.setFailed s l).flt = s.flt := rfl
@[simp] theorem State.setFailed_pon (s : State) (l : List Nat) : (State.setFailed s l).pon = s.pon := rfl
@[simp] theorem State.setFailed_act (s : State) (l : List Nat) : (State.setFailed s l).act = s.act := rfl
@[simp] theorem State.setFailed_whf (s : State) (l : List Nat) : (State.setFailed s l).whf = s.whf := rfl
@[simp] theorem State.setFailed_cpg (s : State) (l : List Nat) : (State.setFailed s l).cpg = s.cpg := rfl
@[simp] theorem State.setFailed_keys (s : State) (l : List Nat) : (State.setFailed s l).keys = s.keys := rfl
@[simp] theorem State.setFailed_pm (s : State) (l : List Nat) : (State.setFailed s l).pm = s.pm := rfl
@[simp] theorem State.setFailed_stw (s : State) (l : List Nat) : (State.setFailed s l).stw = s.stw := rfl
@[simp] theorem State.setFailed_twn (s : State) (l : List Nat) : (State.setFailed s l).twn = s.twn := rfl
@[simp] theorem State.setFailed_ldg (s : State) (l : List Nat) : (State.setFailed s l).ldg = s.ldg := rfl
@[simp] theorem State.setFailed_fwd (s : State) (l : List Nat) : (State.setFailed s l).fwd = s.fwd := rfl
@[simp] theorem State.setFailed_hrl (s : State) (l : List Nat) : (State.setFailed s l).hrl = s.hrl := rfl
@[simp] theorem State.setFailed_shl (s : State) (l : List Nat) : (State.setFailed s l).shl = s.shl := rfl
@[simp] theorem State.setFailed_tly (s : State) (l : List Nat) : (State.setFailed s l).tly = s.tly := rfl
@[simp] theorem State.setFailed_wdn (s : State) (l : List Nat) : (State.setFailed s l).wdn = s.wdn := rfl
@[simp] theorem State.setFailed_boot (s : State) (l : List Nat) : (State.setFailed s l).boot = s.boot := rfl
@[simp] theorem State.setFailed_hst (s : State) (l : List Nat) : (State.setFailed s l).hst = s.hst := rfl
@[simp] theorem State.setFailed_rdata (s : State) (l : List Nat) : (State.setFailed s l).rdata = s.rdata := rfl
@[simp] theorem State.setFailed_rd (s : State) (l : List Nat) (fld : Fld) : (State.setFailed s l).rd fld = s.rd fld := rfl
@[simp] theorem State.setFailed_word (s : State) (l : List Nat) (adr : Nat) : (State.setFailed s l).word adr = s.word adr := rfl

@[simp] theorem State.setSquelch_words (s : State) (o : Nat) (b : Bool) : (State.setSquelch s o b).words = s.words := by unfold State.setSquelch; split <;> rfl
@[simp] theorem State.setSquelch_latch (s : State) (o : Nat) (b : Bool) : (State.setSquelch s o b).latch = s.latch := by unfold State.setSquelch; split <;> rfl
@[simp] theorem State.setSquelch_ctrs (s : State) (o : Nat) (b : Bool) : (State.setSquelch s o b).ctrs = s.ctrs := by unfold State.setSquelch; split <;> rfl
@[simp] theorem State.setSquelch_now (s : State) (o : Nat) (b : Bool) : (State.setSquelch s o b).now = s.now := by unfold State.setSquelch; split <;> rfl
@[simp] theorem State.setSquelch_free (s : State) (o : Nat) (b : Bool) : (State.setSquelch s o b).free = s.free := by unfold State.setSquelch; split <;> rfl
@[simp] theorem State.setSquelch_pending (s : State) (o : Nat) (b : Bool) : (State.setSquelch s o b).pending = s.pending := by unfold State.setSquelch; split <;> rfl
@[simp] theorem State.setSquelch_flt (s : State) (o : Nat) (b : Bool) : (State.setSquelch s o b).flt = s.flt := by unfold State.setSquelch; split <;> rfl
@[simp] theorem State.setSquelch_pon (s : State) (o : Nat) (b : Bool) : (State.setSquelch s o b).pon = s.pon := by unfold State.setSquelch; split <;> rfl
@[simp] theorem State.setSquelch_act (s : State) (o : Nat) (b : Bool) : (State.setSquelch s o b).act = s.act := by unfold State.setSquelch; split <;> rfl
@[simp] theorem State.setSquelch_whf (s : State) (o : Nat) (b : Bool) : (State.setSquelch s o b).whf = s.whf := by unfold State.setSquelch; split <;> rfl
@[simp] theorem State.setSquelch_cpg (s : State) (o : Nat) (b : Bool) : (State.setSquelch s o b).cpg = s.cpg := by unfold State.setSquelch; split <;> rfl
@[simp] theorem State.setSquelch_keys (s : State) (o : Nat) (b : Bool) : (State.setSquelch s o b).keys = s.keys := by unfold State.setSquelch; split <;> rfl
@[simp] theorem State.setSquelch_pm (s : State) (o : Nat) (b : Bool) : (State.setSquelch s o b).pm = s.pm := by unfold State.setSquelch; split <;> rfl
@[simp] theorem State.setSquelch_stw (s : State) (o : Nat) (b : Bool) : (State.setSquelch s o b).stw = s.stw := by unfold State.setSquelch; split <;> rfl
@[simp] theorem State.setSquelch_twn (s : State) (o : Nat) (b : Bool) : (State.setSquelch s o b).twn = s.twn := by unfold State.setSquelch; split <;> rfl
@[simp] theorem State.setSquelch_ldg (s : State) (o : Nat) (b : Bool) : (State.setSquelch s o b).ldg = s.ldg := by unfold State.setSquelch; split <;> rfl
@[simp] theorem State.setSquelch_eng (s : State) (o : Nat) (b : Bool) : (State.setSquelch s o b).eng = s.eng := by unfold State.setSquelch; split <;> rfl
@[simp] theorem State.setSquelch_fwd (s : State) (o : Nat) (b : Bool) : (State.setSquelch s o b).fwd = s.fwd := by unfold State.setSquelch; split <;> rfl
@[simp] theorem State.setSquelch_shl (s : State) (o : Nat) (b : Bool) : (State.setSquelch s o b).shl = s.shl := by unfold State.setSquelch; split <;> rfl
@[simp] theorem State.setSquelch_tly (s : State) (o : Nat) (b : Bool) : (State.setSquelch s o b).tly = s.tly := by unfold State.setSquelch; split <;> rfl
@[simp] theorem State.setSquelch_wdn (s : State) (o : Nat) (b : Bool) : (State.setSquelch s o b).wdn = s.wdn := by unfold State.setSquelch; split <;> rfl
@[simp] theorem State.setSquelch_boot (s : State) (o : Nat) (b : Bool) : (State.setSquelch s o b).boot = s.boot := by unfold State.setSquelch; split <;> rfl
@[simp] theorem State.setSquelch_hst (s : State) (o : Nat) (b : Bool) : (State.setSquelch s o b).hst = s.hst := by unfold State.setSquelch; split <;> rfl
@[simp] theorem State.setSquelch_rdata (s : State) (o : Nat) (b : Bool) : (State.setSquelch s o b).rdata = s.rdata := by unfold State.setSquelch; split <;> rfl
@[simp] theorem State.setSquelch_rd (s : State) (o : Nat) (b : Bool) (fld : Fld) : (State.setSquelch s o b).rd fld = s.rd fld := by unfold State.setSquelch; split <;> rfl
@[simp] theorem State.setSquelch_word (s : State) (o : Nat) (b : Bool) (adr : Nat) : (State.setSquelch s o b).word adr = s.word adr := by unfold State.setSquelch; split <;> rfl

@[simp] theorem State.setKindSt_words (s : State) (code : Nat) (x : KindSt) : (State.setKindSt s code x).words = s.words := rfl
@[simp] theorem State.setKindSt_latch (s : State) (code : Nat) (x : KindSt) : (State.setKindSt s code x).latch = s.latch := rfl
@[simp] theorem State.setKindSt_ctrs (s : State) (code : Nat) (x : KindSt) : (State.setKindSt s code x).ctrs = s.ctrs := rfl
@[simp] theorem State.setKindSt_now (s : State) (code : Nat) (x : KindSt) : (State.setKindSt s code x).now = s.now := rfl
@[simp] theorem State.setKindSt_free (s : State) (code : Nat) (x : KindSt) : (State.setKindSt s code x).free = s.free := rfl
@[simp] theorem State.setKindSt_pending (s : State) (code : Nat) (x : KindSt) : (State.setKindSt s code x).pending = s.pending := rfl
@[simp] theorem State.setKindSt_pon (s : State) (code : Nat) (x : KindSt) : (State.setKindSt s code x).pon = s.pon := rfl
@[simp] theorem State.setKindSt_act (s : State) (code : Nat) (x : KindSt) : (State.setKindSt s code x).act = s.act := rfl
@[simp] theorem State.setKindSt_whf (s : State) (code : Nat) (x : KindSt) : (State.setKindSt s code x).whf = s.whf := rfl
@[simp] theorem State.setKindSt_cpg (s : State) (code : Nat) (x : KindSt) : (State.setKindSt s code x).cpg = s.cpg := rfl
@[simp] theorem State.setKindSt_keys (s : State) (code : Nat) (x : KindSt) : (State.setKindSt s code x).keys = s.keys := rfl
@[simp] theorem State.setKindSt_pm (s : State) (code : Nat) (x : KindSt) : (State.setKindSt s code x).pm = s.pm := rfl
@[simp] theorem State.setKindSt_stw (s : State) (code : Nat) (x : KindSt) : (State.setKindSt s code x).stw = s.stw := rfl
@[simp] theorem State.setKindSt_twn (s : State) (code : Nat) (x : KindSt) : (State.setKindSt s code x).twn = s.twn := rfl
@[simp] theorem State.setKindSt_ldg (s : State) (code : Nat) (x : KindSt) : (State.setKindSt s code x).ldg = s.ldg := rfl
@[simp] theorem State.setKindSt_eng (s : State) (code : Nat) (x : KindSt) : (State.setKindSt s code x).eng = s.eng := rfl
@[simp] theorem State.setKindSt_fwd (s : State) (code : Nat) (x : KindSt) : (State.setKindSt s code x).fwd = s.fwd := rfl
@[simp] theorem State.setKindSt_hrl (s : State) (code : Nat) (x : KindSt) : (State.setKindSt s code x).hrl = s.hrl := rfl
@[simp] theorem State.setKindSt_shl (s : State) (code : Nat) (x : KindSt) : (State.setKindSt s code x).shl = s.shl := rfl
@[simp] theorem State.setKindSt_tly (s : State) (code : Nat) (x : KindSt) : (State.setKindSt s code x).tly = s.tly := rfl
@[simp] theorem State.setKindSt_wdn (s : State) (code : Nat) (x : KindSt) : (State.setKindSt s code x).wdn = s.wdn := rfl
@[simp] theorem State.setKindSt_boot (s : State) (code : Nat) (x : KindSt) : (State.setKindSt s code x).boot = s.boot := rfl
@[simp] theorem State.setKindSt_hst (s : State) (code : Nat) (x : KindSt) : (State.setKindSt s code x).hst = s.hst := rfl
@[simp] theorem State.setKindSt_rdata (s : State) (code : Nat) (x : KindSt) : (State.setKindSt s code x).rdata = s.rdata := rfl
@[simp] theorem State.setKindSt_rd (s : State) (code : Nat) (x : KindSt) (fld : Fld) : (State.setKindSt s code x).rd fld = s.rd fld := rfl
@[simp] theorem State.setKindSt_word (s : State) (code : Nat) (x : KindSt) (adr : Nat) : (State.setKindSt s code x).word adr = s.word adr := rfl

@[simp] theorem State.setPmRec_words (s : State) (r : Nat) (x : PmRec) : (State.setPmRec s r x).words = s.words := rfl
@[simp] theorem State.setPmRec_latch (s : State) (r : Nat) (x : PmRec) : (State.setPmRec s r x).latch = s.latch := rfl
@[simp] theorem State.setPmRec_ctrs (s : State) (r : Nat) (x : PmRec) : (State.setPmRec s r x).ctrs = s.ctrs := rfl
@[simp] theorem State.setPmRec_now (s : State) (r : Nat) (x : PmRec) : (State.setPmRec s r x).now = s.now := rfl
@[simp] theorem State.setPmRec_free (s : State) (r : Nat) (x : PmRec) : (State.setPmRec s r x).free = s.free := rfl
@[simp] theorem State.setPmRec_pending (s : State) (r : Nat) (x : PmRec) : (State.setPmRec s r x).pending = s.pending := rfl
@[simp] theorem State.setPmRec_flt (s : State) (r : Nat) (x : PmRec) : (State.setPmRec s r x).flt = s.flt := rfl
@[simp] theorem State.setPmRec_pon (s : State) (r : Nat) (x : PmRec) : (State.setPmRec s r x).pon = s.pon := rfl
@[simp] theorem State.setPmRec_act (s : State) (r : Nat) (x : PmRec) : (State.setPmRec s r x).act = s.act := rfl
@[simp] theorem State.setPmRec_whf (s : State) (r : Nat) (x : PmRec) : (State.setPmRec s r x).whf = s.whf := rfl
@[simp] theorem State.setPmRec_cpg (s : State) (r : Nat) (x : PmRec) : (State.setPmRec s r x).cpg = s.cpg := rfl
@[simp] theorem State.setPmRec_keys (s : State) (r : Nat) (x : PmRec) : (State.setPmRec s r x).keys = s.keys := rfl
@[simp] theorem State.setPmRec_stw (s : State) (r : Nat) (x : PmRec) : (State.setPmRec s r x).stw = s.stw := rfl
@[simp] theorem State.setPmRec_twn (s : State) (r : Nat) (x : PmRec) : (State.setPmRec s r x).twn = s.twn := rfl
@[simp] theorem State.setPmRec_ldg (s : State) (r : Nat) (x : PmRec) : (State.setPmRec s r x).ldg = s.ldg := rfl
@[simp] theorem State.setPmRec_eng (s : State) (r : Nat) (x : PmRec) : (State.setPmRec s r x).eng = s.eng := rfl
@[simp] theorem State.setPmRec_fwd (s : State) (r : Nat) (x : PmRec) : (State.setPmRec s r x).fwd = s.fwd := rfl
@[simp] theorem State.setPmRec_hrl (s : State) (r : Nat) (x : PmRec) : (State.setPmRec s r x).hrl = s.hrl := rfl
@[simp] theorem State.setPmRec_shl (s : State) (r : Nat) (x : PmRec) : (State.setPmRec s r x).shl = s.shl := rfl
@[simp] theorem State.setPmRec_tly (s : State) (r : Nat) (x : PmRec) : (State.setPmRec s r x).tly = s.tly := rfl
@[simp] theorem State.setPmRec_wdn (s : State) (r : Nat) (x : PmRec) : (State.setPmRec s r x).wdn = s.wdn := rfl
@[simp] theorem State.setPmRec_boot (s : State) (r : Nat) (x : PmRec) : (State.setPmRec s r x).boot = s.boot := rfl
@[simp] theorem State.setPmRec_hst (s : State) (r : Nat) (x : PmRec) : (State.setPmRec s r x).hst = s.hst := rfl
@[simp] theorem State.setPmRec_rdata (s : State) (r : Nat) (x : PmRec) : (State.setPmRec s r x).rdata = s.rdata := rfl
@[simp] theorem State.setPmRec_rd (s : State) (r : Nat) (x : PmRec) (fld : Fld) : (State.setPmRec s r x).rd fld = s.rd fld := rfl
@[simp] theorem State.setPmRec_word (s : State) (r : Nat) (x : PmRec) (adr : Nat) : (State.setPmRec s r x).word adr = s.word adr := rfl

@[simp] theorem State.setAsked_words (s : State) (k : Nat) (l : List (List Nat)) : (State.setAsked s k l).words = s.words := rfl
@[simp] theorem State.setAsked_latch (s : State) (k : Nat) (l : List (List Nat)) : (State.setAsked s k l).latch = s.latch := rfl
@[simp] theorem State.setAsked_ctrs (s : State) (k : Nat) (l : List (List Nat)) : (State.setAsked s k l).ctrs = s.ctrs := rfl
@[simp] theorem State.setAsked_now (s : State) (k : Nat) (l : List (List Nat)) : (State.setAsked s k l).now = s.now := rfl
@[simp] theorem State.setAsked_free (s : State) (k : Nat) (l : List (List Nat)) : (State.setAsked s k l).free = s.free := rfl
@[simp] theorem State.setAsked_pending (s : State) (k : Nat) (l : List (List Nat)) : (State.setAsked s k l).pending = s.pending := rfl
@[simp] theorem State.setAsked_flt (s : State) (k : Nat) (l : List (List Nat)) : (State.setAsked s k l).flt = s.flt := rfl
@[simp] theorem State.setAsked_pon (s : State) (k : Nat) (l : List (List Nat)) : (State.setAsked s k l).pon = s.pon := rfl
@[simp] theorem State.setAsked_act (s : State) (k : Nat) (l : List (List Nat)) : (State.setAsked s k l).act = s.act := rfl
@[simp] theorem State.setAsked_whf (s : State) (k : Nat) (l : List (List Nat)) : (State.setAsked s k l).whf = s.whf := rfl
@[simp] theorem State.setAsked_cpg (s : State) (k : Nat) (l : List (List Nat)) : (State.setAsked s k l).cpg = s.cpg := rfl
@[simp] theorem State.setAsked_keys (s : State) (k : Nat) (l : List (List Nat)) : (State.setAsked s k l).keys = s.keys := rfl
@[simp] theorem State.setAsked_stw (s : State) (k : Nat) (l : List (List Nat)) : (State.setAsked s k l).stw = s.stw := rfl
@[simp] theorem State.setAsked_twn (s : State) (k : Nat) (l : List (List Nat)) : (State.setAsked s k l).twn = s.twn := rfl
@[simp] theorem State.setAsked_ldg (s : State) (k : Nat) (l : List (List Nat)) : (State.setAsked s k l).ldg = s.ldg := rfl
@[simp] theorem State.setAsked_eng (s : State) (k : Nat) (l : List (List Nat)) : (State.setAsked s k l).eng = s.eng := rfl
@[simp] theorem State.setAsked_fwd (s : State) (k : Nat) (l : List (List Nat)) : (State.setAsked s k l).fwd = s.fwd := rfl
@[simp] theorem State.setAsked_hrl (s : State) (k : Nat) (l : List (List Nat)) : (State.setAsked s k l).hrl = s.hrl := rfl
@[simp] theorem State.setAsked_shl (s : State) (k : Nat) (l : List (List Nat)) : (State.setAsked s k l).shl = s.shl := rfl
@[simp] theorem State.setAsked_tly (s : State) (k : Nat) (l : List (List Nat)) : (State.setAsked s k l).tly = s.tly := rfl
@[simp] theorem State.setAsked_wdn (s : State) (k : Nat) (l : List (List Nat)) : (State.setAsked s k l).wdn = s.wdn := rfl
@[simp] theorem State.setAsked_boot (s : State) (k : Nat) (l : List (List Nat)) : (State.setAsked s k l).boot = s.boot := rfl
@[simp] theorem State.setAsked_hst (s : State) (k : Nat) (l : List (List Nat)) : (State.setAsked s k l).hst = s.hst := rfl
@[simp] theorem State.setAsked_rdata (s : State) (k : Nat) (l : List (List Nat)) : (State.setAsked s k l).rdata = s.rdata := rfl
@[simp] theorem State.setAsked_rd (s : State) (k : Nat) (l : List (List Nat)) (fld : Fld) : (State.setAsked s k l).rd fld = s.rd fld := rfl
@[simp] theorem State.setAsked_word (s : State) (k : Nat) (l : List (List Nat)) (adr : Nat) : (State.setAsked s k l).word adr = s.word adr := rfl

@[simp] theorem State.setRing_words (s : State) (r : Nat) (x : RingRt) : (State.setRing s r x).words = s.words := rfl
@[simp] theorem State.setRing_latch (s : State) (r : Nat) (x : RingRt) : (State.setRing s r x).latch = s.latch := rfl
@[simp] theorem State.setRing_ctrs (s : State) (r : Nat) (x : RingRt) : (State.setRing s r x).ctrs = s.ctrs := rfl
@[simp] theorem State.setRing_now (s : State) (r : Nat) (x : RingRt) : (State.setRing s r x).now = s.now := rfl
@[simp] theorem State.setRing_free (s : State) (r : Nat) (x : RingRt) : (State.setRing s r x).free = s.free := rfl
@[simp] theorem State.setRing_pending (s : State) (r : Nat) (x : RingRt) : (State.setRing s r x).pending = s.pending := rfl
@[simp] theorem State.setRing_flt (s : State) (r : Nat) (x : RingRt) : (State.setRing s r x).flt = s.flt := rfl
@[simp] theorem State.setRing_pon (s : State) (r : Nat) (x : RingRt) : (State.setRing s r x).pon = s.pon := rfl
@[simp] theorem State.setRing_act (s : State) (r : Nat) (x : RingRt) : (State.setRing s r x).act = s.act := rfl
@[simp] theorem State.setRing_whf (s : State) (r : Nat) (x : RingRt) : (State.setRing s r x).whf = s.whf := rfl
@[simp] theorem State.setRing_cpg (s : State) (r : Nat) (x : RingRt) : (State.setRing s r x).cpg = s.cpg := rfl
@[simp] theorem State.setRing_keys (s : State) (r : Nat) (x : RingRt) : (State.setRing s r x).keys = s.keys := rfl
@[simp] theorem State.setRing_pm (s : State) (r : Nat) (x : RingRt) : (State.setRing s r x).pm = s.pm := rfl
@[simp] theorem State.setRing_stw (s : State) (r : Nat) (x : RingRt) : (State.setRing s r x).stw = s.stw := rfl
@[simp] theorem State.setRing_twn (s : State) (r : Nat) (x : RingRt) : (State.setRing s r x).twn = s.twn := rfl
@[simp] theorem State.setRing_ldg (s : State) (r : Nat) (x : RingRt) : (State.setRing s r x).ldg = s.ldg := rfl
@[simp] theorem State.setRing_eng (s : State) (r : Nat) (x : RingRt) : (State.setRing s r x).eng = s.eng := rfl
@[simp] theorem State.setRing_fwd (s : State) (r : Nat) (x : RingRt) : (State.setRing s r x).fwd = s.fwd := rfl
@[simp] theorem State.setRing_hrl (s : State) (r : Nat) (x : RingRt) : (State.setRing s r x).hrl = s.hrl := rfl
@[simp] theorem State.setRing_shl (s : State) (r : Nat) (x : RingRt) : (State.setRing s r x).shl = s.shl := rfl
@[simp] theorem State.setRing_tly (s : State) (r : Nat) (x : RingRt) : (State.setRing s r x).tly = s.tly := rfl
@[simp] theorem State.setRing_wdn (s : State) (r : Nat) (x : RingRt) : (State.setRing s r x).wdn = s.wdn := rfl
@[simp] theorem State.setRing_boot (s : State) (r : Nat) (x : RingRt) : (State.setRing s r x).boot = s.boot := rfl
@[simp] theorem State.setRing_rdata (s : State) (r : Nat) (x : RingRt) : (State.setRing s r x).rdata = s.rdata := rfl
@[simp] theorem State.setRing_rd (s : State) (r : Nat) (x : RingRt) (fld : Fld) : (State.setRing s r x).rd fld = s.rd fld := rfl
@[simp] theorem State.setRing_word (s : State) (r : Nat) (x : RingRt) (adr : Nat) : (State.setRing s r x).word adr = s.word adr := rfl

@[simp] theorem State.setPreset_words (s : State) (p : Fin 32) (sd slot : Nat) (x : Preset) : (State.setPreset s p sd slot x).words = s.words := rfl
@[simp] theorem State.setPreset_latch (s : State) (p : Fin 32) (sd slot : Nat) (x : Preset) : (State.setPreset s p sd slot x).latch = s.latch := rfl
@[simp] theorem State.setPreset_ctrs (s : State) (p : Fin 32) (sd slot : Nat) (x : Preset) : (State.setPreset s p sd slot x).ctrs = s.ctrs := rfl
@[simp] theorem State.setPreset_now (s : State) (p : Fin 32) (sd slot : Nat) (x : Preset) : (State.setPreset s p sd slot x).now = s.now := rfl
@[simp] theorem State.setPreset_free (s : State) (p : Fin 32) (sd slot : Nat) (x : Preset) : (State.setPreset s p sd slot x).free = s.free := rfl
@[simp] theorem State.setPreset_pending (s : State) (p : Fin 32) (sd slot : Nat) (x : Preset) : (State.setPreset s p sd slot x).pending = s.pending := rfl
@[simp] theorem State.setPreset_flt (s : State) (p : Fin 32) (sd slot : Nat) (x : Preset) : (State.setPreset s p sd slot x).flt = s.flt := rfl
@[simp] theorem State.setPreset_act (s : State) (p : Fin 32) (sd slot : Nat) (x : Preset) : (State.setPreset s p sd slot x).act = s.act := rfl
@[simp] theorem State.setPreset_whf (s : State) (p : Fin 32) (sd slot : Nat) (x : Preset) : (State.setPreset s p sd slot x).whf = s.whf := rfl
@[simp] theorem State.setPreset_cpg (s : State) (p : Fin 32) (sd slot : Nat) (x : Preset) : (State.setPreset s p sd slot x).cpg = s.cpg := rfl
@[simp] theorem State.setPreset_keys (s : State) (p : Fin 32) (sd slot : Nat) (x : Preset) : (State.setPreset s p sd slot x).keys = s.keys := rfl
@[simp] theorem State.setPreset_pm (s : State) (p : Fin 32) (sd slot : Nat) (x : Preset) : (State.setPreset s p sd slot x).pm = s.pm := rfl
@[simp] theorem State.setPreset_stw (s : State) (p : Fin 32) (sd slot : Nat) (x : Preset) : (State.setPreset s p sd slot x).stw = s.stw := rfl
@[simp] theorem State.setPreset_twn (s : State) (p : Fin 32) (sd slot : Nat) (x : Preset) : (State.setPreset s p sd slot x).twn = s.twn := rfl
@[simp] theorem State.setPreset_ldg (s : State) (p : Fin 32) (sd slot : Nat) (x : Preset) : (State.setPreset s p sd slot x).ldg = s.ldg := rfl
@[simp] theorem State.setPreset_eng (s : State) (p : Fin 32) (sd slot : Nat) (x : Preset) : (State.setPreset s p sd slot x).eng = s.eng := rfl
@[simp] theorem State.setPreset_fwd (s : State) (p : Fin 32) (sd slot : Nat) (x : Preset) : (State.setPreset s p sd slot x).fwd = s.fwd := rfl
@[simp] theorem State.setPreset_hrl (s : State) (p : Fin 32) (sd slot : Nat) (x : Preset) : (State.setPreset s p sd slot x).hrl = s.hrl := rfl
@[simp] theorem State.setPreset_shl (s : State) (p : Fin 32) (sd slot : Nat) (x : Preset) : (State.setPreset s p sd slot x).shl = s.shl := rfl
@[simp] theorem State.setPreset_tly (s : State) (p : Fin 32) (sd slot : Nat) (x : Preset) : (State.setPreset s p sd slot x).tly = s.tly := rfl
@[simp] theorem State.setPreset_wdn (s : State) (p : Fin 32) (sd slot : Nat) (x : Preset) : (State.setPreset s p sd slot x).wdn = s.wdn := rfl
@[simp] theorem State.setPreset_boot (s : State) (p : Fin 32) (sd slot : Nat) (x : Preset) : (State.setPreset s p sd slot x).boot = s.boot := rfl
@[simp] theorem State.setPreset_hst (s : State) (p : Fin 32) (sd slot : Nat) (x : Preset) : (State.setPreset s p sd slot x).hst = s.hst := rfl
@[simp] theorem State.setPreset_rdata (s : State) (p : Fin 32) (sd slot : Nat) (x : Preset) : (State.setPreset s p sd slot x).rdata = s.rdata := rfl
@[simp] theorem State.setPreset_rd (s : State) (p : Fin 32) (sd slot : Nat) (x : Preset) (fld : Fld) : (State.setPreset s p sd slot x).rd fld = s.rd fld := rfl
@[simp] theorem State.setPreset_word (s : State) (p : Fin 32) (sd slot : Nat) (x : Preset) (adr : Nat) : (State.setPreset s p sd slot x).word adr = s.word adr := rfl

@[simp] theorem State.side_setSide_same (s : State) (p : Fin 32) (sd : Nat) (x : PonSide) : (s.setSide p sd x).side p sd = x := Tab.get_set_same _ _ _ _
@[simp] theorem State.port_setPort_same (s : State) (p : Fin 32) (x : PonPort) : (s.setPort p x).port p = x := Tab.get_set_same _ _ _ _
@[simp] theorem State.alloc_setAlloc_same (s : State) (p : Fin 32) (i : Nat) (x : AllocRt) : (s.setAlloc p i x).alloc p i = x := Tab.get_set_same _ _ _ _
@[simp] theorem State.disc_setDisc_same (s : State) (p : Fin 32) (sd : Nat) (x : Disc) : (s.setDisc p sd x).disc p sd = x := Tab.get_set_same _ _ _ _
@[simp] theorem State.tree_setTreeSt_same (s : State) (p : Fin 32) (x : Tree) : (s.setTreeSt p x).tree p = x := Tab.get_set_same _ _ _ _
@[simp] theorem State.buf_setBuf_same (s : State) (h : Nat) (x : Buf) : (s.setBuf h x).buf h = x := Tab.get_set_same _ _ _ _
@[simp] theorem State.queue_setQueue_same (s : State) (q : Nat) (x : Queue) : (s.setQueue q x).queue q = x := Tab.get_set_same _ _ _ _
@[simp] theorem State.top_setTop_same (s : State) (m : Nat) (x : Top) : (s.setTop m x).top m = x := Tab.get_set_same _ _ _ _
@[simp] theorem State.twinTree_setTwinTree_same (s : State) (p : Fin 32) (x : TwinTree) : (s.setTwinTree p x).twinTree p = x := Tab.get_set_same _ _ _ _
@[simp] theorem State.lane_setLane_same (s : State) (n : Nat) (x : Lane) : (s.setLane n x).lane n = x := Tab.get_set_same _ _ _ _
@[simp] theorem State.adm_setAdm_same (s : State) (n : Nat) (x : AdmSrc) : (s.setAdm n x).adm n = x := Tab.get_set_same _ _ _ _
@[simp] theorem State.row_setRow_same (s : State) (i : Nat) (x : (Option LEnt)) : (s.setRow i x).row i = x := Tab.get_set_same _ _ _ _
@[simp] theorem State.cell_setCell_same (s : State) (i : Nat) (x : (Option Cell)) : (s.setCell i x).cell i = x := Tab.get_set_same _ _ _ _
@[simp] theorem State.flow_setFlow_same (s : State) (f : Nat) (x : Flow) : (s.setFlow f x).flow f = x := Tab.get_set_same _ _ _ _
@[simp] theorem State.guild_setGuild_same (s : State) (g : Nat) (x : Guild) : (s.setGuild g x).guild g = x := Tab.get_set_same _ _ _ _
@[simp] theorem State.preset_setPreset_same (s : State) (p : Fin 32) (sd slot : Nat) (x : Preset) : (s.setPreset p sd slot x).preset p sd slot = x := Tab.get_set_same _ _ _ _
@[simp] theorem State.fn_setFn_same (s : State) (f : Nat) (x : Fn) : (s.setFn f x).fn f = x := Tab.get_set_same _ _ _ _

end Sys2Proof.Machine
end

