-- ==== Sys2Proof/Laws/Gates.lean ====
section
/-! SUPPORT. What passes the gates of a register write: scope and write protection. -/

namespace Sys2Proof.Machine

set_option autoImplicit false
set_option Elab.async false

theorem State.protectedFor_hostTlp (s : State) (rd : Bool) (ag ag' : Agent) (a b : Nat) :
    (s.hostTlp rd ag' b).protectedFor ag a = s.protectedFor ag a := by
  cases ag <;> simp only [State.protectedFor]
  cases ag' <;> rfl

/-- A write that reaches its register is what its meaning says, after the access's TLP. -/
theorem State.gate_reaches {s : State} {ag : Agent} {a : Nat} (h : s.reaches ag a = true) (k : State → State) :
    s.gate ag a k = k (s.hostTlp false ag a) := by
  unfold State.gate
  cases ag <;> simp_all [State.reaches, State.protectedFor_hostTlp]

/-- A VF's write to BAR0 is denied with SCOPE. -/
theorem State.gate_vf (s : State) (f : Fin 32) (a : Nat) (k : State → State) :
    s.gate (.vf f) a k = (s.hostTlp false (.vf f) a).deny (.vf f) .scope a noWin := rfl

/-- A PF write to a protected block is denied with PROTECTED. -/
theorem State.gate_protected {s : State} {a : Nat} (h : s.protectedFor .pf a = true) (k : State → State) :
    s.gate .pf a k = (s.hostTlp false .pf a).deny .pf .prot a noWin := by
  unfold State.gate
  simp [State.protectedFor_hostTlp, h]

/-- A write through a window that reaches its table is what its meaning says. -/
theorem State.winGate_reaches {s : State} {ag : Agent} {w : Nat} (h : s.reachesWin ag w = true) (idx : Nat) (k : State → State) :
    s.winGate ag w idx k = k s := by
  unfold State.winGate
  cases ag <;> simp_all [State.reachesWin]

end Sys2Proof.Machine
end

