-- ==== Sys2Proof/Laws/Parts.lean ====
section
/-! SUPPORT. Generated: what each shared operation leaves unchanged, as equations. -/

namespace Sys2Proof.Machine

set_option autoImplicit false
set_option Elab.async false

@[simp] theorem State.priv_parts (s : State) (code q n : Nat) (x : PrivAcc) :
    (s.priv code q n x).pending = s.pending ∧ (s.priv code q n x).words = s.words ∧ (s.priv code q n x).latch = s.latch ∧ (s.priv code q n x).ctrs = s.ctrs ∧ (s.priv code q n x).now = s.now ∧ (s.priv code q n x).free = s.free ∧ (s.priv code q n x).flt = s.flt ∧ (s.priv code q n x).pon = s.pon ∧ (s.priv code q n x).act = s.act ∧ (s.priv code q n x).whf = s.whf ∧ (s.priv code q n x).cpg = s.cpg ∧ (s.priv code q n x).keys = s.keys ∧ (s.priv code q n x).pm = s.pm ∧ (s.priv code q n x).stw = s.stw ∧ (s.priv code q n x).twn = s.twn ∧ (s.priv code q n x).ldg = s.ldg ∧ (s.priv code q n x).eng = s.eng ∧ (s.priv code q n x).fwd = s.fwd ∧ (s.priv code q n x).hrl = s.hrl ∧ (s.priv code q n x).shl = s.shl ∧ (s.priv code q n x).wdn = s.wdn ∧ (s.priv code q n x).boot = s.boot ∧ (s.priv code q n x).hst = s.hst ∧ (s.priv code q n x).rdata = s.rdata := by
  have h := State.priv_within (K := (· ∈ ([.tly] : List Part))) (within_refl s) code q n x (by simp)
  exact ⟨h.pending, h.words.resolve_left (by simp), h.latch.resolve_left (by simp), h.ctrs.resolve_left (by simp), h.now.resolve_left (by simp), h.free.resolve_left (by simp), h.flt.resolve_left (by simp), h.pon.resolve_left (by simp), h.act.resolve_left (by simp), h.whf.resolve_left (by simp), h.cpg.resolve_left (by simp), h.keys.resolve_left (by simp), h.pm.resolve_left (by simp), h.stw.resolve_left (by simp), h.twn.resolve_left (by simp), h.ldg.resolve_left (by simp), h.eng.resolve_left (by simp), h.fwd.resolve_left (by simp), h.hrl.resolve_left (by simp), h.shl.resolve_left (by simp), h.wdn.resolve_left (by simp), h.boot.resolve_left (by simp), h.hst.resolve_left (by simp), h.rdata.resolve_left (by simp)⟩

@[simp] theorem State.priv_rd (s : State) (code q n : Nat) (x : PrivAcc) (fld : Fld) : (s.priv code q n x).rd fld = s.rd fld :=
  congrArg (fun w : Words => w.rd fld) (State.priv_parts s code q n x).2.1

@[simp] theorem State.denyAs_parts (s : State) (rd : Bool) (ag : Agent) (r : Deny) (addr win : Nat) :
    (s.denyAs rd ag r addr win).pending = s.pending ∧ (s.denyAs rd ag r addr win).latch = s.latch ∧ (s.denyAs rd ag r addr win).now = s.now ∧ (s.denyAs rd ag r addr win).free = s.free ∧ (s.denyAs rd ag r addr win).pon = s.pon ∧ (s.denyAs rd ag r addr win).act = s.act ∧ (s.denyAs rd ag r addr win).whf = s.whf ∧ (s.denyAs rd ag r addr win).cpg = s.cpg ∧ (s.denyAs rd ag r addr win).keys = s.keys ∧ (s.denyAs rd ag r addr win).pm = s.pm ∧ (s.denyAs rd ag r addr win).stw = s.stw ∧ (s.denyAs rd ag r addr win).twn = s.twn ∧ (s.denyAs rd ag r addr win).ldg = s.ldg ∧ (s.denyAs rd ag r addr win).eng = s.eng ∧ (s.denyAs rd ag r addr win).fwd = s.fwd ∧ (s.denyAs rd ag r addr win).hrl = s.hrl ∧ (s.denyAs rd ag r addr win).shl = s.shl ∧ (s.denyAs rd ag r addr win).wdn = s.wdn ∧ (s.denyAs rd ag r addr win).boot = s.boot ∧ (s.denyAs rd ag r addr win).hst = s.hst ∧ (s.denyAs rd ag r addr win).rdata = s.rdata := by
  have h := State.denyAs_within (K := (· ∈ ([.words, .ctrs, .flt, .tly] : List Part))) (within_refl s) rd ag r addr win (by simp) (by simp) (by simp) (by simp)
  exact ⟨h.pending, h.latch.resolve_left (by simp), h.now.resolve_left (by simp), h.free.resolve_left (by simp), h.pon.resolve_left (by simp), h.act.resolve_left (by simp), h.whf.resolve_left (by simp), h.cpg.resolve_left (by simp), h.keys.resolve_left (by simp), h.pm.resolve_left (by simp), h.stw.resolve_left (by simp), h.twn.resolve_left (by simp), h.ldg.resolve_left (by simp), h.eng.resolve_left (by simp), h.fwd.resolve_left (by simp), h.hrl.resolve_left (by simp), h.shl.resolve_left (by simp), h.wdn.resolve_left (by simp), h.boot.resolve_left (by simp), h.hst.resolve_left (by simp), h.rdata.resolve_left (by simp)⟩

@[simp] theorem State.deny_parts (s : State) (ag : Agent) (r : Deny) (addr win : Nat) :
    (s.deny ag r addr win).pending = s.pending ∧ (s.deny ag r addr win).latch = s.latch ∧ (s.deny ag r addr win).now = s.now ∧ (s.deny ag r addr win).free = s.free ∧ (s.deny ag r addr win).pon = s.pon ∧ (s.deny ag r addr win).act = s.act ∧ (s.deny ag r addr win).whf = s.whf ∧ (s.deny ag r addr win).cpg = s.cpg ∧ (s.deny ag r addr win).keys = s.keys ∧ (s.deny ag r addr win).pm = s.pm ∧ (s.deny ag r addr win).stw = s.stw ∧ (s.deny ag r addr win).twn = s.twn ∧ (s.deny ag r addr win).ldg = s.ldg ∧ (s.deny ag r addr win).eng = s.eng ∧ (s.deny ag r addr win).fwd = s.fwd ∧ (s.deny ag r addr win).hrl = s.hrl ∧ (s.deny ag r addr win).shl = s.shl ∧ (s.deny ag r addr win).wdn = s.wdn ∧ (s.deny ag r addr win).boot = s.boot ∧ (s.deny ag r addr win).hst = s.hst ∧ (s.deny ag r addr win).rdata = s.rdata := by
  have h := State.deny_within (K := (· ∈ ([.words, .ctrs, .flt, .tly] : List Part))) (within_refl s) ag r addr win (by simp) (by simp) (by simp) (by simp)
  exact ⟨h.pending, h.latch.resolve_left (by simp), h.now.resolve_left (by simp), h.free.resolve_left (by simp), h.pon.resolve_left (by simp), h.act.resolve_left (by simp), h.whf.resolve_left (by simp), h.cpg.resolve_left (by simp), h.keys.resolve_left (by simp), h.pm.resolve_left (by simp), h.stw.resolve_left (by simp), h.twn.resolve_left (by simp), h.ldg.resolve_left (by simp), h.eng.resolve_left (by simp), h.fwd.resolve_left (by simp), h.hrl.resolve_left (by simp), h.shl.resolve_left (by simp), h.wdn.resolve_left (by simp), h.boot.resolve_left (by simp), h.hst.resolve_left (by simp), h.rdata.resolve_left (by simp)⟩

@[simp] theorem State.hostTlp_parts (s : State) (rd : Bool) (ag : Agent) (addr : Nat) :
    (s.hostTlp rd ag addr).pending = s.pending ∧ (s.hostTlp rd ag addr).words = s.words ∧ (s.hostTlp rd ag addr).latch = s.latch ∧ (s.hostTlp rd ag addr).ctrs = s.ctrs ∧ (s.hostTlp rd ag addr).now = s.now ∧ (s.hostTlp rd ag addr).flt = s.flt ∧ (s.hostTlp rd ag addr).pon = s.pon ∧ (s.hostTlp rd ag addr).act = s.act ∧ (s.hostTlp rd ag addr).whf = s.whf ∧ (s.hostTlp rd ag addr).cpg = s.cpg ∧ (s.hostTlp rd ag addr).keys = s.keys ∧ (s.hostTlp rd ag addr).pm = s.pm ∧ (s.hostTlp rd ag addr).stw = s.stw ∧ (s.hostTlp rd ag addr).twn = s.twn ∧ (s.hostTlp rd ag addr).ldg = s.ldg ∧ (s.hostTlp rd ag addr).eng = s.eng ∧ (s.hostTlp rd ag addr).fwd = s.fwd ∧ (s.hostTlp rd ag addr).hrl = s.hrl ∧ (s.hostTlp rd ag addr).shl = s.shl ∧ (s.hostTlp rd ag addr).wdn = s.wdn ∧ (s.hostTlp rd ag addr).boot = s.boot ∧ (s.hostTlp rd ag addr).hst = s.hst ∧ (s.hostTlp rd ag addr).rdata = s.rdata := by
  have h := State.hostTlp_within (K := (· ∈ ([.free, .tly] : List Part))) (within_refl s) rd ag addr (by simp) (by simp)
  exact ⟨h.pending, h.words.resolve_left (by simp), h.latch.resolve_left (by simp), h.ctrs.resolve_left (by simp), h.now.resolve_left (by simp), h.flt.resolve_left (by simp), h.pon.resolve_left (by simp), h.act.resolve_left (by simp), h.whf.resolve_left (by simp), h.cpg.resolve_left (by simp), h.keys.resolve_left (by simp), h.pm.resolve_left (by simp), h.stw.resolve_left (by simp), h.twn.resolve_left (by simp), h.ldg.resolve_left (by simp), h.eng.resolve_left (by simp), h.fwd.resolve_left (by simp), h.hrl.resolve_left (by simp), h.shl.resolve_left (by simp), h.wdn.resolve_left (by simp), h.boot.resolve_left (by simp), h.hst.resolve_left (by simp), h.rdata.resolve_left (by simp)⟩

@[simp] theorem State.hostTlp_rd (s : State) (rd : Bool) (ag : Agent) (addr : Nat) (fld : Fld) : (s.hostTlp rd ag addr).rd fld = s.rd fld :=
  congrArg (fun w : Words => w.rd fld) (State.hostTlp_parts s rd ag addr).2.1

@[simp] theorem State.msi_parts (s : State) (f v : Nat) :
    (s.msi f v).pending = s.pending ∧ (s.msi f v).words = s.words ∧ (s.msi f v).latch = s.latch ∧ (s.msi f v).ctrs = s.ctrs ∧ (s.msi f v).now = s.now ∧ (s.msi f v).free = s.free ∧ (s.msi f v).flt = s.flt ∧ (s.msi f v).pon = s.pon ∧ (s.msi f v).act = s.act ∧ (s.msi f v).whf = s.whf ∧ (s.msi f v).cpg = s.cpg ∧ (s.msi f v).keys = s.keys ∧ (s.msi f v).pm = s.pm ∧ (s.msi f v).stw = s.stw ∧ (s.msi f v).twn = s.twn ∧ (s.msi f v).ldg = s.ldg ∧ (s.msi f v).eng = s.eng ∧ (s.msi f v).fwd = s.fwd ∧ (s.msi f v).hrl = s.hrl ∧ (s.msi f v).shl = s.shl ∧ (s.msi f v).tly = s.tly ∧ (s.msi f v).wdn = s.wdn ∧ (s.msi f v).boot = s.boot ∧ (s.msi f v).rdata = s.rdata := by
  have h := State.msi_within (K := (· ∈ ([.hst] : List Part))) (within_refl s) f v (by simp)
  exact ⟨h.pending, h.words.resolve_left (by simp), h.latch.resolve_left (by simp), h.ctrs.resolve_left (by simp), h.now.resolve_left (by simp), h.free.resolve_left (by simp), h.flt.resolve_left (by simp), h.pon.resolve_left (by simp), h.act.resolve_left (by simp), h.whf.resolve_left (by simp), h.cpg.resolve_left (by simp), h.keys.resolve_left (by simp), h.pm.resolve_left (by simp), h.stw.resolve_left (by simp), h.twn.resolve_left (by simp), h.ldg.resolve_left (by simp), h.eng.resolve_left (by simp), h.fwd.resolve_left (by simp), h.hrl.resolve_left (by simp), h.shl.resolve_left (by simp), h.tly.resolve_left (by simp), h.wdn.resolve_left (by simp), h.boot.resolve_left (by simp), h.rdata.resolve_left (by simp)⟩

@[simp] theorem State.msi_rd (s : State) (f v : Nat) (fld : Fld) : (s.msi f v).rd fld = s.rd fld :=
  congrArg (fun w : Words => w.rd fld) (State.msi_parts s f v).2.1

@[simp] theorem State.msiFlush_parts (s : State) (f : Nat) :
    (s.msiFlush f).pending = s.pending ∧ (s.msiFlush f).words = s.words ∧ (s.msiFlush f).latch = s.latch ∧ (s.msiFlush f).ctrs = s.ctrs ∧ (s.msiFlush f).now = s.now ∧ (s.msiFlush f).free = s.free ∧ (s.msiFlush f).flt = s.flt ∧ (s.msiFlush f).pon = s.pon ∧ (s.msiFlush f).act = s.act ∧ (s.msiFlush f).whf = s.whf ∧ (s.msiFlush f).cpg = s.cpg ∧ (s.msiFlush f).keys = s.keys ∧ (s.msiFlush f).pm = s.pm ∧ (s.msiFlush f).stw = s.stw ∧ (s.msiFlush f).twn = s.twn ∧ (s.msiFlush f).ldg = s.ldg ∧ (s.msiFlush f).eng = s.eng ∧ (s.msiFlush f).fwd = s.fwd ∧ (s.msiFlush f).hrl = s.hrl ∧ (s.msiFlush f).shl = s.shl ∧ (s.msiFlush f).tly = s.tly ∧ (s.msiFlush f).wdn = s.wdn ∧ (s.msiFlush f).boot = s.boot ∧ (s.msiFlush f).rdata = s.rdata := by
  have h := State.msiFlush_within (K := (· ∈ ([.hst] : List Part))) (within_refl s) f (by simp)
  exact ⟨h.pending, h.words.resolve_left (by simp), h.latch.resolve_left (by simp), h.ctrs.resolve_left (by simp), h.now.resolve_left (by simp), h.free.resolve_left (by simp), h.flt.resolve_left (by simp), h.pon.resolve_left (by simp), h.act.resolve_left (by simp), h.whf.resolve_left (by simp), h.cpg.resolve_left (by simp), h.keys.resolve_left (by simp), h.pm.resolve_left (by simp), h.stw.resolve_left (by simp), h.twn.resolve_left (by simp), h.ldg.resolve_left (by simp), h.eng.resolve_left (by simp), h.fwd.resolve_left (by simp), h.hrl.resolve_left (by simp), h.shl.resolve_left (by simp), h.tly.resolve_left (by simp), h.wdn.resolve_left (by simp), h.boot.resolve_left (by simp), h.rdata.resolve_left (by simp)⟩

@[simp] theorem State.msiFlush_rd (s : State) (f : Nat) (fld : Fld) : (s.msiFlush f).rd fld = s.rd fld :=
  congrArg (fun w : Words => w.rd fld) (State.msiFlush_parts s f).2.1

@[simp] theorem State.level_parts (s : State) :
    (s.level).pending = s.pending ∧ (s.level).words = s.words ∧ (s.level).latch = s.latch ∧ (s.level).ctrs = s.ctrs ∧ (s.level).now = s.now ∧ (s.level).free = s.free ∧ (s.level).flt = s.flt ∧ (s.level).pon = s.pon ∧ (s.level).act = s.act ∧ (s.level).whf = s.whf ∧ (s.level).cpg = s.cpg ∧ (s.level).keys = s.keys ∧ (s.level).pm = s.pm ∧ (s.level).stw = s.stw ∧ (s.level).twn = s.twn ∧ (s.level).ldg = s.ldg ∧ (s.level).eng = s.eng ∧ (s.level).fwd = s.fwd ∧ (s.level).hrl = s.hrl ∧ (s.level).shl = s.shl ∧ (s.level).tly = s.tly ∧ (s.level).wdn = s.wdn ∧ (s.level).boot = s.boot ∧ (s.level).rdata = s.rdata := by
  have h := State.level_within (K := (· ∈ ([.hst] : List Part))) (within_refl s)  (by simp)
  exact ⟨h.pending, h.words.resolve_left (by simp), h.latch.resolve_left (by simp), h.ctrs.resolve_left (by simp), h.now.resolve_left (by simp), h.free.resolve_left (by simp), h.flt.resolve_left (by simp), h.pon.resolve_left (by simp), h.act.resolve_left (by simp), h.whf.resolve_left (by simp), h.cpg.resolve_left (by simp), h.keys.resolve_left (by simp), h.pm.resolve_left (by simp), h.stw.resolve_left (by simp), h.twn.resolve_left (by simp), h.ldg.resolve_left (by simp), h.eng.resolve_left (by simp), h.fwd.resolve_left (by simp), h.hrl.resolve_left (by simp), h.shl.resolve_left (by simp), h.tly.resolve_left (by simp), h.wdn.resolve_left (by simp), h.boot.resolve_left (by simp), h.rdata.resolve_left (by simp)⟩

@[simp] theorem State.level_rd (s : State) (fld : Fld) : (s.level).rd fld = s.rd fld :=
  congrArg (fun w : Words => w.rd fld) (State.level_parts s).2.1

@[simp] theorem State.twinSend_parts (s : State) (type_ port side sfc arg : Nat) :
    (s.twinSend type_ port side sfc arg).pending = s.pending ∧ (s.twinSend type_ port side sfc arg).words = s.words ∧ (s.twinSend type_ port side sfc arg).latch = s.latch ∧ (s.twinSend type_ port side sfc arg).ctrs = s.ctrs ∧ (s.twinSend type_ port side sfc arg).now = s.now ∧ (s.twinSend type_ port side sfc arg).free = s.free ∧ (s.twinSend type_ port side sfc arg).flt = s.flt ∧ (s.twinSend type_ port side sfc arg).pon = s.pon ∧ (s.twinSend type_ port side sfc arg).act = s.act ∧ (s.twinSend type_ port side sfc arg).whf = s.whf ∧ (s.twinSend type_ port side sfc arg).cpg = s.cpg ∧ (s.twinSend type_ port side sfc arg).keys = s.keys ∧ (s.twinSend type_ port side sfc arg).pm = s.pm ∧ (s.twinSend type_ port side sfc arg).stw = s.stw ∧ (s.twinSend type_ port side sfc arg).ldg = s.ldg ∧ (s.twinSend type_ port side sfc arg).eng = s.eng ∧ (s.twinSend type_ port side sfc arg).fwd = s.fwd ∧ (s.twinSend type_ port side sfc arg).hrl = s.hrl ∧ (s.twinSend type_ port side sfc arg).shl = s.shl ∧ (s.twinSend type_ port side sfc arg).tly = s.tly ∧ (s.twinSend type_ port side sfc arg).wdn = s.wdn ∧ (s.twinSend type_ port side sfc arg).boot = s.boot ∧ (s.twinSend type_ port side sfc arg).hst = s.hst ∧ (s.twinSend type_ port side sfc arg).rdata = s.rdata := by
  have h := State.twinSend_within (K := (· ∈ ([.twn] : List Part))) (within_refl s) type_ port side sfc arg (by simp)
  exact ⟨h.pending, h.words.resolve_left (by simp), h.latch.resolve_left (by simp), h.ctrs.resolve_left (by simp), h.now.resolve_left (by simp), h.free.resolve_left (by simp), h.flt.resolve_left (by simp), h.pon.resolve_left (by simp), h.act.resolve_left (by simp), h.whf.resolve_left (by simp), h.cpg.resolve_left (by simp), h.keys.resolve_left (by simp), h.pm.resolve_left (by simp), h.stw.resolve_left (by simp), h.ldg.resolve_left (by simp), h.eng.resolve_left (by simp), h.fwd.resolve_left (by simp), h.hrl.resolve_left (by simp), h.shl.resolve_left (by simp), h.tly.resolve_left (by simp), h.wdn.resolve_left (by simp), h.boot.resolve_left (by simp), h.hst.resolve_left (by simp), h.rdata.resolve_left (by simp)⟩

@[simp] theorem State.twinSend_rd (s : State) (type_ port side sfc arg : Nat) (fld : Fld) : (s.twinSend type_ port side sfc arg).rd fld = s.rd fld :=
  congrArg (fun w : Words => w.rd fld) (State.twinSend_parts s type_ port side sfc arg).2.1

@[simp] theorem State.mirror_parts (s : State) (type_ : Nat) (p : Fin 32) (side x : Nat) :
    (s.mirror type_ p side x).pending = s.pending ∧ (s.mirror type_ p side x).words = s.words ∧ (s.mirror type_ p side x).latch = s.latch ∧ (s.mirror type_ p side x).ctrs = s.ctrs ∧ (s.mirror type_ p side x).now = s.now ∧ (s.mirror type_ p side x).free = s.free ∧ (s.mirror type_ p side x).flt = s.flt ∧ (s.mirror type_ p side x).pon = s.pon ∧ (s.mirror type_ p side x).act = s.act ∧ (s.mirror type_ p side x).whf = s.whf ∧ (s.mirror type_ p side x).cpg = s.cpg ∧ (s.mirror type_ p side x).keys = s.keys ∧ (s.mirror type_ p side x).pm = s.pm ∧ (s.mirror type_ p side x).stw = s.stw ∧ (s.mirror type_ p side x).ldg = s.ldg ∧ (s.mirror type_ p side x).eng = s.eng ∧ (s.mirror type_ p side x).fwd = s.fwd ∧ (s.mirror type_ p side x).hrl = s.hrl ∧ (s.mirror type_ p side x).shl = s.shl ∧ (s.mirror type_ p side x).tly = s.tly ∧ (s.mirror type_ p side x).wdn = s.wdn ∧ (s.mirror type_ p side x).boot = s.boot ∧ (s.mirror type_ p side x).hst = s.hst ∧ (s.mirror type_ p side x).rdata = s.rdata := by
  have h := State.mirror_within (K := (· ∈ ([.twn] : List Part))) (within_refl s) type_ p side x (by simp)
  exact ⟨h.pending, h.words.resolve_left (by simp), h.latch.resolve_left (by simp), h.ctrs.resolve_left (by simp), h.now.resolve_left (by simp), h.free.resolve_left (by simp), h.flt.resolve_left (by simp), h.pon.resolve_left (by simp), h.act.resolve_left (by simp), h.whf.resolve_left (by simp), h.cpg.resolve_left (by simp), h.keys.resolve_left (by simp), h.pm.resolve_left (by simp), h.stw.resolve_left (by simp), h.ldg.resolve_left (by simp), h.eng.resolve_left (by simp), h.fwd.resolve_left (by simp), h.hrl.resolve_left (by simp), h.shl.resolve_left (by simp), h.tly.resolve_left (by simp), h.wdn.resolve_left (by simp), h.boot.resolve_left (by simp), h.hst.resolve_left (by simp), h.rdata.resolve_left (by simp)⟩

@[simp] theorem State.mirror_rd (s : State) (type_ : Nat) (p : Fin 32) (side x : Nat) (fld : Fld) : (s.mirror type_ p side x).rd fld = s.rd fld :=
  congrArg (fun w : Words => w.rd fld) (State.mirror_parts s type_ p side x).2.1

@[simp] theorem State.storeWord_parts (s : State) (ag : Agent) (a : Nat) (v : Word) :
    (s.storeWord ag a v).pending = s.pending ∧ (s.storeWord ag a v).latch = s.latch ∧ (s.storeWord ag a v).now = s.now ∧ (s.storeWord ag a v).free = s.free ∧ (s.storeWord ag a v).pon = s.pon ∧ (s.storeWord ag a v).act = s.act ∧ (s.storeWord ag a v).whf = s.whf ∧ (s.storeWord ag a v).cpg = s.cpg ∧ (s.storeWord ag a v).keys = s.keys ∧ (s.storeWord ag a v).pm = s.pm ∧ (s.storeWord ag a v).stw = s.stw ∧ (s.storeWord ag a v).twn = s.twn ∧ (s.storeWord ag a v).ldg = s.ldg ∧ (s.storeWord ag a v).eng = s.eng ∧ (s.storeWord ag a v).fwd = s.fwd ∧ (s.storeWord ag a v).hrl = s.hrl ∧ (s.storeWord ag a v).shl = s.shl ∧ (s.storeWord ag a v).wdn = s.wdn ∧ (s.storeWord ag a v).boot = s.boot ∧ (s.storeWord ag a v).hst = s.hst ∧ (s.storeWord ag a v).rdata = s.rdata := by
  have h := State.storeWord_within (K := (· ∈ ([.words, .ctrs, .flt, .tly] : List Part))) (within_refl s) ag a v (by simp) (by simp) (by simp) (by simp)
  exact ⟨h.pending, h.latch.resolve_left (by simp), h.now.resolve_left (by simp), h.free.resolve_left (by simp), h.pon.resolve_left (by simp), h.act.resolve_left (by simp), h.whf.resolve_left (by simp), h.cpg.resolve_left (by simp), h.keys.resolve_left (by simp), h.pm.resolve_left (by simp), h.stw.resolve_left (by simp), h.twn.resolve_left (by simp), h.ldg.resolve_left (by simp), h.eng.resolve_left (by simp), h.fwd.resolve_left (by simp), h.hrl.resolve_left (by simp), h.shl.resolve_left (by simp), h.wdn.resolve_left (by simp), h.boot.resolve_left (by simp), h.hst.resolve_left (by simp), h.rdata.resolve_left (by simp)⟩

@[simp] theorem State.putEntry_parts (s : State) (w idx first : Nat) (vs : List Word) :
    (s.putEntry w idx first vs).pending = s.pending ∧ (s.putEntry w idx first vs).latch = s.latch ∧ (s.putEntry w idx first vs).ctrs = s.ctrs ∧ (s.putEntry w idx first vs).now = s.now ∧ (s.putEntry w idx first vs).free = s.free ∧ (s.putEntry w idx first vs).flt = s.flt ∧ (s.putEntry w idx first vs).pon = s.pon ∧ (s.putEntry w idx first vs).act = s.act ∧ (s.putEntry w idx first vs).whf = s.whf ∧ (s.putEntry w idx first vs).cpg = s.cpg ∧ (s.putEntry w idx first vs).keys = s.keys ∧ (s.putEntry w idx first vs).pm = s.pm ∧ (s.putEntry w idx first vs).stw = s.stw ∧ (s.putEntry w idx first vs).twn = s.twn ∧ (s.putEntry w idx first vs).ldg = s.ldg ∧ (s.putEntry w idx first vs).eng = s.eng ∧ (s.putEntry w idx first vs).fwd = s.fwd ∧ (s.putEntry w idx first vs).hrl = s.hrl ∧ (s.putEntry w idx first vs).shl = s.shl ∧ (s.putEntry w idx first vs).tly = s.tly ∧ (s.putEntry w idx first vs).wdn = s.wdn ∧ (s.putEntry w idx first vs).boot = s.boot ∧ (s.putEntry w idx first vs).hst = s.hst ∧ (s.putEntry w idx first vs).rdata = s.rdata := by
  have h := State.putEntry_within (K := (· ∈ ([.words] : List Part))) (within_refl s) w idx first vs (by simp)
  exact ⟨h.pending, h.latch.resolve_left (by simp), h.ctrs.resolve_left (by simp), h.now.resolve_left (by simp), h.free.resolve_left (by simp), h.flt.resolve_left (by simp), h.pon.resolve_left (by simp), h.act.resolve_left (by simp), h.whf.resolve_left (by simp), h.cpg.resolve_left (by simp), h.keys.resolve_left (by simp), h.pm.resolve_left (by simp), h.stw.resolve_left (by simp), h.twn.resolve_left (by simp), h.ldg.resolve_left (by simp), h.eng.resolve_left (by simp), h.fwd.resolve_left (by simp), h.hrl.resolve_left (by simp), h.shl.resolve_left (by simp), h.tly.resolve_left (by simp), h.wdn.resolve_left (by simp), h.boot.resolve_left (by simp), h.hst.resolve_left (by simp), h.rdata.resolve_left (by simp)⟩

@[simp] theorem State.setSlot_parts (s : State) (p : Fin 32) (i : Nat) (x : Slot) :
    (s.setSlot p i x).pending = s.pending ∧ (s.setSlot p i x).words = s.words ∧ (s.setSlot p i x).latch = s.latch ∧ (s.setSlot p i x).ctrs = s.ctrs ∧ (s.setSlot p i x).now = s.now ∧ (s.setSlot p i x).free = s.free ∧ (s.setSlot p i x).flt = s.flt ∧ (s.setSlot p i x).pon = s.pon ∧ (s.setSlot p i x).whf = s.whf ∧ (s.setSlot p i x).cpg = s.cpg ∧ (s.setSlot p i x).keys = s.keys ∧ (s.setSlot p i x).stw = s.stw ∧ (s.setSlot p i x).ldg = s.ldg ∧ (s.setSlot p i x).eng = s.eng ∧ (s.setSlot p i x).fwd = s.fwd ∧ (s.setSlot p i x).hrl = s.hrl ∧ (s.setSlot p i x).shl = s.shl ∧ (s.setSlot p i x).tly = s.tly ∧ (s.setSlot p i x).wdn = s.wdn ∧ (s.setSlot p i x).boot = s.boot ∧ (s.setSlot p i x).hst = s.hst ∧ (s.setSlot p i x).rdata = s.rdata := by
  have h := State.setSlot_within (K := (· ∈ ([.act, .pm, .twn] : List Part))) (within_refl s) p i x (by simp) (by simp) (by simp)
  exact ⟨h.pending, h.words.resolve_left (by simp), h.latch.resolve_left (by simp), h.ctrs.resolve_left (by simp), h.now.resolve_left (by simp), h.free.resolve_left (by simp), h.flt.resolve_left (by simp), h.pon.resolve_left (by simp), h.whf.resolve_left (by simp), h.cpg.resolve_left (by simp), h.keys.resolve_left (by simp), h.stw.resolve_left (by simp), h.ldg.resolve_left (by simp), h.eng.resolve_left (by simp), h.fwd.resolve_left (by simp), h.hrl.resolve_left (by simp), h.shl.resolve_left (by simp), h.tly.resolve_left (by simp), h.wdn.resolve_left (by simp), h.boot.resolve_left (by simp), h.hst.resolve_left (by simp), h.rdata.resolve_left (by simp)⟩

@[simp] theorem State.setSlot_rd (s : State) (p : Fin 32) (i : Nat) (x : Slot) (fld : Fld) : (s.setSlot p i x).rd fld = s.rd fld :=
  congrArg (fun w : Words => w.rd fld) (State.setSlot_parts s p i x).2.1

@[simp] theorem State.credit_parts (s : State) (p : Fin 32) (i g assured : Nat) (back : Bool) :
    (s.credit p i g assured back).pending = s.pending ∧ (s.credit p i g assured back).words = s.words ∧ (s.credit p i g assured back).latch = s.latch ∧ (s.credit p i g assured back).ctrs = s.ctrs ∧ (s.credit p i g assured back).now = s.now ∧ (s.credit p i g assured back).free = s.free ∧ (s.credit p i g assured back).flt = s.flt ∧ (s.credit p i g assured back).pon = s.pon ∧ (s.credit p i g assured back).act = s.act ∧ (s.credit p i g assured back).cpg = s.cpg ∧ (s.credit p i g assured back).keys = s.keys ∧ (s.credit p i g assured back).pm = s.pm ∧ (s.credit p i g assured back).stw = s.stw ∧ (s.credit p i g assured back).twn = s.twn ∧ (s.credit p i g assured back).ldg = s.ldg ∧ (s.credit p i g assured back).eng = s.eng ∧ (s.credit p i g assured back).fwd = s.fwd ∧ (s.credit p i g assured back).hrl = s.hrl ∧ (s.credit p i g assured back).shl = s.shl ∧ (s.credit p i g assured back).tly = s.tly ∧ (s.credit p i g assured back).wdn = s.wdn ∧ (s.credit p i g assured back).boot = s.boot ∧ (s.credit p i g assured back).hst = s.hst ∧ (s.credit p i g assured back).rdata = s.rdata := by
  have h := State.credit_within (K := (· ∈ ([.whf] : List Part))) (within_refl s) p i g assured back (by simp)
  exact ⟨h.pending, h.words.resolve_left (by simp), h.latch.resolve_left (by simp), h.ctrs.resolve_left (by simp), h.now.resolve_left (by simp), h.free.resolve_left (by simp), h.flt.resolve_left (by simp), h.pon.resolve_left (by simp), h.act.resolve_left (by simp), h.cpg.resolve_left (by simp), h.keys.resolve_left (by simp), h.pm.resolve_left (by simp), h.stw.resolve_left (by simp), h.twn.resolve_left (by simp), h.ldg.resolve_left (by simp), h.eng.resolve_left (by simp), h.fwd.resolve_left (by simp), h.hrl.resolve_left (by simp), h.shl.resolve_left (by simp), h.tly.resolve_left (by simp), h.wdn.resolve_left (by simp), h.boot.resolve_left (by simp), h.hst.resolve_left (by simp), h.rdata.resolve_left (by simp)⟩

@[simp] theorem State.credit_rd (s : State) (p : Fin 32) (i g assured : Nat) (back : Bool) (fld : Fld) : (s.credit p i g assured back).rd fld = s.rd fld :=
  congrArg (fun w : Words => w.rd fld) (State.credit_parts s p i g assured back).2.1

@[simp] theorem State.inflight_parts (s : State) (p : Fin 32) (m : BwMap) :
    (s.inflight p m).pending = s.pending ∧ (s.inflight p m).words = s.words ∧ (s.inflight p m).latch = s.latch ∧ (s.inflight p m).ctrs = s.ctrs ∧ (s.inflight p m).now = s.now ∧ (s.inflight p m).free = s.free ∧ (s.inflight p m).flt = s.flt ∧ (s.inflight p m).pon = s.pon ∧ (s.inflight p m).act = s.act ∧ (s.inflight p m).cpg = s.cpg ∧ (s.inflight p m).keys = s.keys ∧ (s.inflight p m).pm = s.pm ∧ (s.inflight p m).stw = s.stw ∧ (s.inflight p m).twn = s.twn ∧ (s.inflight p m).ldg = s.ldg ∧ (s.inflight p m).eng = s.eng ∧ (s.inflight p m).fwd = s.fwd ∧ (s.inflight p m).hrl = s.hrl ∧ (s.inflight p m).shl = s.shl ∧ (s.inflight p m).tly = s.tly ∧ (s.inflight p m).wdn = s.wdn ∧ (s.inflight p m).boot = s.boot ∧ (s.inflight p m).hst = s.hst ∧ (s.inflight p m).rdata = s.rdata := by
  have h := State.inflight_within (K := (· ∈ ([.whf] : List Part))) (within_refl s) p m (by simp)
  exact ⟨h.pending, h.words.resolve_left (by simp), h.latch.resolve_left (by simp), h.ctrs.resolve_left (by simp), h.now.resolve_left (by simp), h.free.resolve_left (by simp), h.flt.resolve_left (by simp), h.pon.resolve_left (by simp), h.act.resolve_left (by simp), h.cpg.resolve_left (by simp), h.keys.resolve_left (by simp), h.pm.resolve_left (by simp), h.stw.resolve_left (by simp), h.twn.resolve_left (by simp), h.ldg.resolve_left (by simp), h.eng.resolve_left (by simp), h.fwd.resolve_left (by simp), h.hrl.resolve_left (by simp), h.shl.resolve_left (by simp), h.tly.resolve_left (by simp), h.wdn.resolve_left (by simp), h.boot.resolve_left (by simp), h.hst.resolve_left (by simp), h.rdata.resolve_left (by simp)⟩

@[simp] theorem State.inflight_rd (s : State) (p : Fin 32) (m : BwMap) (fld : Fld) : (s.inflight p m).rd fld = s.rd fld :=
  congrArg (fun w : Words => w.rd fld) (State.inflight_parts s p m).2.1

@[simp] theorem State.allocStore_parts (s : State) (p : Fin 32) (i : Nat) (ws : List Word) :
    (s.allocStore p i ws).pending = s.pending ∧ (s.allocStore p i ws).latch = s.latch ∧ (s.allocStore p i ws).ctrs = s.ctrs ∧ (s.allocStore p i ws).now = s.now ∧ (s.allocStore p i ws).free = s.free ∧ (s.allocStore p i ws).flt = s.flt ∧ (s.allocStore p i ws).pon = s.pon ∧ (s.allocStore p i ws).act = s.act ∧ (s.allocStore p i ws).whf = s.whf ∧ (s.allocStore p i ws).cpg = s.cpg ∧ (s.allocStore p i ws).keys = s.keys ∧ (s.allocStore p i ws).pm = s.pm ∧ (s.allocStore p i ws).stw = s.stw ∧ (s.allocStore p i ws).twn = s.twn ∧ (s.allocStore p i ws).ldg = s.ldg ∧ (s.allocStore p i ws).eng = s.eng ∧ (s.allocStore p i ws).fwd = s.fwd ∧ (s.allocStore p i ws).hrl = s.hrl ∧ (s.allocStore p i ws).shl = s.shl ∧ (s.allocStore p i ws).tly = s.tly ∧ (s.allocStore p i ws).wdn = s.wdn ∧ (s.allocStore p i ws).boot = s.boot ∧ (s.allocStore p i ws).hst = s.hst ∧ (s.allocStore p i ws).rdata = s.rdata := by
  have h := State.allocStore_within (K := (· ∈ ([.words] : List Part))) (within_refl s) p i ws (by simp)
  exact ⟨h.pending, h.latch.resolve_left (by simp), h.ctrs.resolve_left (by simp), h.now.resolve_left (by simp), h.free.resolve_left (by simp), h.flt.resolve_left (by simp), h.pon.resolve_left (by simp), h.act.resolve_left (by simp), h.whf.resolve_left (by simp), h.cpg.resolve_left (by simp), h.keys.resolve_left (by simp), h.pm.resolve_left (by simp), h.stw.resolve_left (by simp), h.twn.resolve_left (by simp), h.ldg.resolve_left (by simp), h.eng.resolve_left (by simp), h.fwd.resolve_left (by simp), h.hrl.resolve_left (by simp), h.shl.resolve_left (by simp), h.tly.resolve_left (by simp), h.wdn.resolve_left (by simp), h.boot.resolve_left (by simp), h.hst.resolve_left (by simp), h.rdata.resolve_left (by simp)⟩

@[simp] theorem State.fsiStore_parts (s : State) (idx : Nat) (v : Word) :
    (s.fsiStore idx v).pending = s.pending ∧ (s.fsiStore idx v).latch = s.latch ∧ (s.fsiStore idx v).ctrs = s.ctrs ∧ (s.fsiStore idx v).now = s.now ∧ (s.fsiStore idx v).free = s.free ∧ (s.fsiStore idx v).flt = s.flt ∧ (s.fsiStore idx v).pon = s.pon ∧ (s.fsiStore idx v).act = s.act ∧ (s.fsiStore idx v).whf = s.whf ∧ (s.fsiStore idx v).cpg = s.cpg ∧ (s.fsiStore idx v).keys = s.keys ∧ (s.fsiStore idx v).pm = s.pm ∧ (s.fsiStore idx v).stw = s.stw ∧ (s.fsiStore idx v).ldg = s.ldg ∧ (s.fsiStore idx v).eng = s.eng ∧ (s.fsiStore idx v).fwd = s.fwd ∧ (s.fsiStore idx v).hrl = s.hrl ∧ (s.fsiStore idx v).shl = s.shl ∧ (s.fsiStore idx v).tly = s.tly ∧ (s.fsiStore idx v).wdn = s.wdn ∧ (s.fsiStore idx v).boot = s.boot ∧ (s.fsiStore idx v).hst = s.hst ∧ (s.fsiStore idx v).rdata = s.rdata := by
  have h := State.fsiStore_within (K := (· ∈ ([.words, .twn] : List Part))) (within_refl s) idx v (by simp) (by simp)
  exact ⟨h.pending, h.latch.resolve_left (by simp), h.ctrs.resolve_left (by simp), h.now.resolve_left (by simp), h.free.resolve_left (by simp), h.flt.resolve_left (by simp), h.pon.resolve_left (by simp), h.act.resolve_left (by simp), h.whf.resolve_left (by simp), h.cpg.resolve_left (by simp), h.keys.resolve_left (by simp), h.pm.resolve_left (by simp), h.stw.resolve_left (by simp), h.ldg.resolve_left (by simp), h.eng.resolve_left (by simp), h.fwd.resolve_left (by simp), h.hrl.resolve_left (by simp), h.shl.resolve_left (by simp), h.tly.resolve_left (by simp), h.wdn.resolve_left (by simp), h.boot.resolve_left (by simp), h.hst.resolve_left (by simp), h.rdata.resolve_left (by simp)⟩

@[simp] theorem State.requestSwap_parts (s : State) (p : Fin 32) :
    (s.requestSwap p).pending = s.pending ∧ (s.requestSwap p).latch = s.latch ∧ (s.requestSwap p).ctrs = s.ctrs ∧ (s.requestSwap p).now = s.now ∧ (s.requestSwap p).free = s.free ∧ (s.requestSwap p).flt = s.flt ∧ (s.requestSwap p).pon = s.pon ∧ (s.requestSwap p).act = s.act ∧ (s.requestSwap p).cpg = s.cpg ∧ (s.requestSwap p).keys = s.keys ∧ (s.requestSwap p).pm = s.pm ∧ (s.requestSwap p).stw = s.stw ∧ (s.requestSwap p).ldg = s.ldg ∧ (s.requestSwap p).eng = s.eng ∧ (s.requestSwap p).fwd = s.fwd ∧ (s.requestSwap p).hrl = s.hrl ∧ (s.requestSwap p).shl = s.shl ∧ (s.requestSwap p).tly = s.tly ∧ (s.requestSwap p).wdn = s.wdn ∧ (s.requestSwap p).boot = s.boot ∧ (s.requestSwap p).hst = s.hst ∧ (s.requestSwap p).rdata = s.rdata := by
  have h := State.requestSwap_within (K := (· ∈ ([.words, .whf, .twn] : List Part))) (within_refl s) p (by simp) (by simp) (by simp)
  exact ⟨h.pending, h.latch.resolve_left (by simp), h.ctrs.resolve_left (by simp), h.now.resolve_left (by simp), h.free.resolve_left (by simp), h.flt.resolve_left (by simp), h.pon.resolve_left (by simp), h.act.resolve_left (by simp), h.cpg.resolve_left (by simp), h.keys.resolve_left (by simp), h.pm.resolve_left (by simp), h.stw.resolve_left (by simp), h.ldg.resolve_left (by simp), h.eng.resolve_left (by simp), h.fwd.resolve_left (by simp), h.hrl.resolve_left (by simp), h.shl.resolve_left (by simp), h.tly.resolve_left (by simp), h.wdn.resolve_left (by simp), h.boot.resolve_left (by simp), h.hst.resolve_left (by simp), h.rdata.resolve_left (by simp)⟩

@[simp] theorem State.noBuf_parts (s : State) (c len : Nat) :
    (s.noBuf c len).pending = s.pending ∧ (s.noBuf c len).words = s.words ∧ (s.noBuf c len).latch = s.latch ∧ (s.noBuf c len).now = s.now ∧ (s.noBuf c len).free = s.free ∧ (s.noBuf c len).pon = s.pon ∧ (s.noBuf c len).act = s.act ∧ (s.noBuf c len).whf = s.whf ∧ (s.noBuf c len).cpg = s.cpg ∧ (s.noBuf c len).keys = s.keys ∧ (s.noBuf c len).pm = s.pm ∧ (s.noBuf c len).stw = s.stw ∧ (s.noBuf c len).twn = s.twn ∧ (s.noBuf c len).ldg = s.ldg ∧ (s.noBuf c len).eng = s.eng ∧ (s.noBuf c len).fwd = s.fwd ∧ (s.noBuf c len).hrl = s.hrl ∧ (s.noBuf c len).shl = s.shl ∧ (s.noBuf c len).wdn = s.wdn ∧ (s.noBuf c len).boot = s.boot ∧ (s.noBuf c len).hst = s.hst ∧ (s.noBuf c len).rdata = s.rdata := by
  have h := State.noBuf_within (K := (· ∈ ([.ctrs, .flt, .tly] : List Part))) (within_refl s) c len (by simp) (by simp) (by simp)
  exact ⟨h.pending, h.words.resolve_left (by simp), h.latch.resolve_left (by simp), h.now.resolve_left (by simp), h.free.resolve_left (by simp), h.pon.resolve_left (by simp), h.act.resolve_left (by simp), h.whf.resolve_left (by simp), h.cpg.resolve_left (by simp), h.keys.resolve_left (by simp), h.pm.resolve_left (by simp), h.stw.resolve_left (by simp), h.twn.resolve_left (by simp), h.ldg.resolve_left (by simp), h.eng.resolve_left (by simp), h.fwd.resolve_left (by simp), h.hrl.resolve_left (by simp), h.shl.resolve_left (by simp), h.wdn.resolve_left (by simp), h.boot.resolve_left (by simp), h.hst.resolve_left (by simp), h.rdata.resolve_left (by simp)⟩

@[simp] theorem State.noBuf_rd (s : State) (c len : Nat) (fld : Fld) : (s.noBuf c len).rd fld = s.rd fld :=
  congrArg (fun w : Words => w.rd fld) (State.noBuf_parts s c len).2.1

@[simp] theorem State.unref_parts (s : State) (h : Nat) :
    (s.unref h).pending = s.pending ∧ (s.unref h).words = s.words ∧ (s.unref h).latch = s.latch ∧ (s.unref h).now = s.now ∧ (s.unref h).free = s.free ∧ (s.unref h).pon = s.pon ∧ (s.unref h).act = s.act ∧ (s.unref h).whf = s.whf ∧ (s.unref h).keys = s.keys ∧ (s.unref h).pm = s.pm ∧ (s.unref h).stw = s.stw ∧ (s.unref h).twn = s.twn ∧ (s.unref h).ldg = s.ldg ∧ (s.unref h).eng = s.eng ∧ (s.unref h).fwd = s.fwd ∧ (s.unref h).hrl = s.hrl ∧ (s.unref h).shl = s.shl ∧ (s.unref h).wdn = s.wdn ∧ (s.unref h).boot = s.boot ∧ (s.unref h).hst = s.hst ∧ (s.unref h).rdata = s.rdata := by
  have h := State.unref_within (K := (· ∈ ([.ctrs, .flt, .cpg, .tly] : List Part))) (within_refl s) h (by simp) (by simp) (by simp) (by simp)
  exact ⟨h.pending, h.words.resolve_left (by simp), h.latch.resolve_left (by simp), h.now.resolve_left (by simp), h.free.resolve_left (by simp), h.pon.resolve_left (by simp), h.act.resolve_left (by simp), h.whf.resolve_left (by simp), h.keys.resolve_left (by simp), h.pm.resolve_left (by simp), h.stw.resolve_left (by simp), h.twn.resolve_left (by simp), h.ldg.resolve_left (by simp), h.eng.resolve_left (by simp), h.fwd.resolve_left (by simp), h.hrl.resolve_left (by simp), h.shl.resolve_left (by simp), h.wdn.resolve_left (by simp), h.boot.resolve_left (by simp), h.hst.resolve_left (by simp), h.rdata.resolve_left (by simp)⟩

@[simp] theorem State.unref_rd (s : State) (h : Nat) (fld : Fld) : (s.unref h).rd fld = s.rd fld :=
  congrArg (fun w : Words => w.rd fld) (State.unref_parts s h).2.1

@[simp] theorem State.queueDrop_parts (s : State) (q : Nat) :
    (s.queueDrop q).pending = s.pending ∧ (s.queueDrop q).words = s.words ∧ (s.queueDrop q).latch = s.latch ∧ (s.queueDrop q).ctrs = s.ctrs ∧ (s.queueDrop q).now = s.now ∧ (s.queueDrop q).free = s.free ∧ (s.queueDrop q).flt = s.flt ∧ (s.queueDrop q).pon = s.pon ∧ (s.queueDrop q).act = s.act ∧ (s.queueDrop q).whf = s.whf ∧ (s.queueDrop q).keys = s.keys ∧ (s.queueDrop q).pm = s.pm ∧ (s.queueDrop q).stw = s.stw ∧ (s.queueDrop q).twn = s.twn ∧ (s.queueDrop q).ldg = s.ldg ∧ (s.queueDrop q).eng = s.eng ∧ (s.queueDrop q).fwd = s.fwd ∧ (s.queueDrop q).hrl = s.hrl ∧ (s.queueDrop q).shl = s.shl ∧ (s.queueDrop q).tly = s.tly ∧ (s.queueDrop q).wdn = s.wdn ∧ (s.queueDrop q).boot = s.boot ∧ (s.queueDrop q).hst = s.hst ∧ (s.queueDrop q).rdata = s.rdata := by
  have h := State.queueDrop_within (K := (· ∈ ([.cpg] : List Part))) (within_refl s) q (by simp)
  exact ⟨h.pending, h.words.resolve_left (by simp), h.latch.resolve_left (by simp), h.ctrs.resolve_left (by simp), h.now.resolve_left (by simp), h.free.resolve_left (by simp), h.flt.resolve_left (by simp), h.pon.resolve_left (by simp), h.act.resolve_left (by simp), h.whf.resolve_left (by simp), h.keys.resolve_left (by simp), h.pm.resolve_left (by simp), h.stw.resolve_left (by simp), h.twn.resolve_left (by simp), h.ldg.resolve_left (by simp), h.eng.resolve_left (by simp), h.fwd.resolve_left (by simp), h.hrl.resolve_left (by simp), h.shl.resolve_left (by simp), h.tly.resolve_left (by simp), h.wdn.resolve_left (by simp), h.boot.resolve_left (by simp), h.hst.resolve_left (by simp), h.rdata.resolve_left (by simp)⟩

@[simp] theorem State.queueDrop_rd (s : State) (q : Nat) (fld : Fld) : (s.queueDrop q).rd fld = s.rd fld :=
  congrArg (fun w : Words => w.rd fld) (State.queueDrop_parts s q).2.1

@[simp] theorem State.enqueueRest_parts (s : State) (d : Desc) (yellow : Bool) :
    (s.enqueueRest d yellow).pending = s.pending ∧ (s.enqueueRest d yellow).words = s.words ∧ (s.enqueueRest d yellow).latch = s.latch ∧ (s.enqueueRest d yellow).now = s.now ∧ (s.enqueueRest d yellow).free = s.free ∧ (s.enqueueRest d yellow).pon = s.pon ∧ (s.enqueueRest d yellow).act = s.act ∧ (s.enqueueRest d yellow).whf = s.whf ∧ (s.enqueueRest d yellow).keys = s.keys ∧ (s.enqueueRest d yellow).pm = s.pm ∧ (s.enqueueRest d yellow).stw = s.stw ∧ (s.enqueueRest d yellow).twn = s.twn ∧ (s.enqueueRest d yellow).ldg = s.ldg ∧ (s.enqueueRest d yellow).eng = s.eng ∧ (s.enqueueRest d yellow).fwd = s.fwd ∧ (s.enqueueRest d yellow).hrl = s.hrl ∧ (s.enqueueRest d yellow).shl = s.shl ∧ (s.enqueueRest d yellow).wdn = s.wdn ∧ (s.enqueueRest d yellow).boot = s.boot ∧ (s.enqueueRest d yellow).hst = s.hst ∧ (s.enqueueRest d yellow).rdata = s.rdata := by
  have h := State.enqueueRest_within (K := (· ∈ ([.ctrs, .flt, .cpg, .tly] : List Part))) (within_refl s) d yellow (by simp) (by simp) (by simp) (by simp)
  exact ⟨h.pending, h.words.resolve_left (by simp), h.latch.resolve_left (by simp), h.now.resolve_left (by simp), h.free.resolve_left (by simp), h.pon.resolve_left (by simp), h.act.resolve_left (by simp), h.whf.resolve_left (by simp), h.keys.resolve_left (by simp), h.pm.resolve_left (by simp), h.stw.resolve_left (by simp), h.twn.resolve_left (by simp), h.ldg.resolve_left (by simp), h.eng.resolve_left (by simp), h.fwd.resolve_left (by simp), h.hrl.resolve_left (by simp), h.shl.resolve_left (by simp), h.wdn.resolve_left (by simp), h.boot.resolve_left (by simp), h.hst.resolve_left (by simp), h.rdata.resolve_left (by simp)⟩

@[simp] theorem State.enqueueRest_rd (s : State) (d : Desc) (yellow : Bool) (fld : Fld) : (s.enqueueRest d yellow).rd fld = s.rd fld :=
  congrArg (fun w : Words => w.rd fld) (State.enqueueRest_parts s d yellow).2.1

@[simp] theorem State.enqueue_parts (s : State) (d : Desc) :
    (s.enqueue d).pending = s.pending ∧ (s.enqueue d).words = s.words ∧ (s.enqueue d).latch = s.latch ∧ (s.enqueue d).now = s.now ∧ (s.enqueue d).free = s.free ∧ (s.enqueue d).pon = s.pon ∧ (s.enqueue d).act = s.act ∧ (s.enqueue d).whf = s.whf ∧ (s.enqueue d).keys = s.keys ∧ (s.enqueue d).pm = s.pm ∧ (s.enqueue d).stw = s.stw ∧ (s.enqueue d).twn = s.twn ∧ (s.enqueue d).ldg = s.ldg ∧ (s.enqueue d).eng = s.eng ∧ (s.enqueue d).fwd = s.fwd ∧ (s.enqueue d).hrl = s.hrl ∧ (s.enqueue d).shl = s.shl ∧ (s.enqueue d).wdn = s.wdn ∧ (s.enqueue d).boot = s.boot ∧ (s.enqueue d).hst = s.hst ∧ (s.enqueue d).rdata = s.rdata := by
  have h := State.enqueue_within (K := (· ∈ ([.ctrs, .flt, .cpg, .tly] : List Part))) (within_refl s) d (by simp) (by simp) (by simp) (by simp)
  exact ⟨h.pending, h.words.resolve_left (by simp), h.latch.resolve_left (by simp), h.now.resolve_left (by simp), h.free.resolve_left (by simp), h.pon.resolve_left (by simp), h.act.resolve_left (by simp), h.whf.resolve_left (by simp), h.keys.resolve_left (by simp), h.pm.resolve_left (by simp), h.stw.resolve_left (by simp), h.twn.resolve_left (by simp), h.ldg.resolve_left (by simp), h.eng.resolve_left (by simp), h.fwd.resolve_left (by simp), h.hrl.resolve_left (by simp), h.shl.resolve_left (by simp), h.wdn.resolve_left (by simp), h.boot.resolve_left (by simp), h.hst.resolve_left (by simp), h.rdata.resolve_left (by simp)⟩

@[simp] theorem State.enqueue_rd (s : State) (d : Desc) (fld : Fld) : (s.enqueue d).rd fld = s.rd fld :=
  congrArg (fun w : Words => w.rd fld) (State.enqueue_parts s d).2.1

@[simp] theorem State.dropPages_parts (s : State) (q n : Nat) :
    (s.dropPages q n).pending = s.pending ∧ (s.dropPages q n).words = s.words ∧ (s.dropPages q n).latch = s.latch ∧ (s.dropPages q n).ctrs = s.ctrs ∧ (s.dropPages q n).now = s.now ∧ (s.dropPages q n).free = s.free ∧ (s.dropPages q n).flt = s.flt ∧ (s.dropPages q n).pon = s.pon ∧ (s.dropPages q n).act = s.act ∧ (s.dropPages q n).whf = s.whf ∧ (s.dropPages q n).keys = s.keys ∧ (s.dropPages q n).pm = s.pm ∧ (s.dropPages q n).stw = s.stw ∧ (s.dropPages q n).twn = s.twn ∧ (s.dropPages q n).ldg = s.ldg ∧ (s.dropPages q n).eng = s.eng ∧ (s.dropPages q n).fwd = s.fwd ∧ (s.dropPages q n).hrl = s.hrl ∧ (s.dropPages q n).shl = s.shl ∧ (s.dropPages q n).tly = s.tly ∧ (s.dropPages q n).wdn = s.wdn ∧ (s.dropPages q n).boot = s.boot ∧ (s.dropPages q n).hst = s.hst ∧ (s.dropPages q n).rdata = s.rdata := by
  have h := State.dropPages_within (K := (· ∈ ([.cpg] : List Part))) (within_refl s) q n (by simp)
  exact ⟨h.pending, h.words.resolve_left (by simp), h.latch.resolve_left (by simp), h.ctrs.resolve_left (by simp), h.now.resolve_left (by simp), h.free.resolve_left (by simp), h.flt.resolve_left (by simp), h.pon.resolve_left (by simp), h.act.resolve_left (by simp), h.whf.resolve_left (by simp), h.keys.resolve_left (by simp), h.pm.resolve_left (by simp), h.stw.resolve_left (by simp), h.twn.resolve_left (by simp), h.ldg.resolve_left (by simp), h.eng.resolve_left (by simp), h.fwd.resolve_left (by simp), h.hrl.resolve_left (by simp), h.shl.resolve_left (by simp), h.tly.resolve_left (by simp), h.wdn.resolve_left (by simp), h.boot.resolve_left (by simp), h.hst.resolve_left (by simp), h.rdata.resolve_left (by simp)⟩

@[simp] theorem State.dropPages_rd (s : State) (q n : Nat) (fld : Fld) : (s.dropPages q n).rd fld = s.rd fld :=
  congrArg (fun w : Words => w.rd fld) (State.dropPages_parts s q n).2.1

@[simp] theorem State.busyEnds_parts (s : State) :
    (s.busyEnds).pending = s.pending ∧ (s.busyEnds).words = s.words ∧ (s.busyEnds).latch = s.latch ∧ (s.busyEnds).ctrs = s.ctrs ∧ (s.busyEnds).now = s.now ∧ (s.busyEnds).free = s.free ∧ (s.busyEnds).flt = s.flt ∧ (s.busyEnds).pon = s.pon ∧ (s.busyEnds).act = s.act ∧ (s.busyEnds).whf = s.whf ∧ (s.busyEnds).keys = s.keys ∧ (s.busyEnds).pm = s.pm ∧ (s.busyEnds).stw = s.stw ∧ (s.busyEnds).twn = s.twn ∧ (s.busyEnds).ldg = s.ldg ∧ (s.busyEnds).eng = s.eng ∧ (s.busyEnds).fwd = s.fwd ∧ (s.busyEnds).hrl = s.hrl ∧ (s.busyEnds).shl = s.shl ∧ (s.busyEnds).tly = s.tly ∧ (s.busyEnds).wdn = s.wdn ∧ (s.busyEnds).boot = s.boot ∧ (s.busyEnds).hst = s.hst ∧ (s.busyEnds).rdata = s.rdata := by
  have h := State.busyEnds_within (K := (· ∈ ([.cpg] : List Part))) (within_refl s)  (by simp)
  exact ⟨h.pending, h.words.resolve_left (by simp), h.latch.resolve_left (by simp), h.ctrs.resolve_left (by simp), h.now.resolve_left (by simp), h.free.resolve_left (by simp), h.flt.resolve_left (by simp), h.pon.resolve_left (by simp), h.act.resolve_left (by simp), h.whf.resolve_left (by simp), h.keys.resolve_left (by simp), h.pm.resolve_left (by simp), h.stw.resolve_left (by simp), h.twn.resolve_left (by simp), h.ldg.resolve_left (by simp), h.eng.resolve_left (by simp), h.fwd.resolve_left (by simp), h.hrl.resolve_left (by simp), h.shl.resolve_left (by simp), h.tly.resolve_left (by simp), h.wdn.resolve_left (by simp), h.boot.resolve_left (by simp), h.hst.resolve_left (by simp), h.rdata.resolve_left (by simp)⟩

@[simp] theorem State.busyEnds_rd (s : State) (fld : Fld) : (s.busyEnds).rd fld = s.rd fld :=
  congrArg (fun w : Words => w.rd fld) (State.busyEnds_parts s).2.1

@[simp] theorem State.flushNode_parts (s : State) (n : Nat) :
    (s.flushNode n).pending = s.pending ∧ (s.flushNode n).words = s.words ∧ (s.flushNode n).latch = s.latch ∧ (s.flushNode n).now = s.now ∧ (s.flushNode n).free = s.free ∧ (s.flushNode n).pon = s.pon ∧ (s.flushNode n).act = s.act ∧ (s.flushNode n).whf = s.whf ∧ (s.flushNode n).keys = s.keys ∧ (s.flushNode n).pm = s.pm ∧ (s.flushNode n).stw = s.stw ∧ (s.flushNode n).twn = s.twn ∧ (s.flushNode n).ldg = s.ldg ∧ (s.flushNode n).eng = s.eng ∧ (s.flushNode n).fwd = s.fwd ∧ (s.flushNode n).hrl = s.hrl ∧ (s.flushNode n).shl = s.shl ∧ (s.flushNode n).wdn = s.wdn ∧ (s.flushNode n).boot = s.boot ∧ (s.flushNode n).hst = s.hst ∧ (s.flushNode n).rdata = s.rdata := by
  have h := State.flushNode_within (K := (· ∈ ([.ctrs, .flt, .cpg, .tly] : List Part))) (within_refl s) n (by simp) (by simp) (by simp) (by simp)
  exact ⟨h.pending, h.words.resolve_left (by simp), h.latch.resolve_left (by simp), h.now.resolve_left (by simp), h.free.resolve_left (by simp), h.pon.resolve_left (by simp), h.act.resolve_left (by simp), h.whf.resolve_left (by simp), h.keys.resolve_left (by simp), h.pm.resolve_left (by simp), h.stw.resolve_left (by simp), h.twn.resolve_left (by simp), h.ldg.resolve_left (by simp), h.eng.resolve_left (by simp), h.fwd.resolve_left (by simp), h.hrl.resolve_left (by simp), h.shl.resolve_left (by simp), h.wdn.resolve_left (by simp), h.boot.resolve_left (by simp), h.hst.resolve_left (by simp), h.rdata.resolve_left (by simp)⟩

@[simp] theorem State.flushNode_rd (s : State) (n : Nat) (fld : Fld) : (s.flushNode n).rd fld = s.rd fld :=
  congrArg (fun w : Words => w.rd fld) (State.flushNode_parts s n).2.1

@[simp] theorem State.toEgress_parts (s : State) (k : Nat) (x : Out) :
    (s.toEgress k x).pending = s.pending ∧ (s.toEgress k x).words = s.words ∧ (s.toEgress k x).latch = s.latch ∧ (s.toEgress k x).ctrs = s.ctrs ∧ (s.toEgress k x).now = s.now ∧ (s.toEgress k x).free = s.free ∧ (s.toEgress k x).flt = s.flt ∧ (s.toEgress k x).pon = s.pon ∧ (s.toEgress k x).act = s.act ∧ (s.toEgress k x).whf = s.whf ∧ (s.toEgress k x).keys = s.keys ∧ (s.toEgress k x).pm = s.pm ∧ (s.toEgress k x).stw = s.stw ∧ (s.toEgress k x).twn = s.twn ∧ (s.toEgress k x).ldg = s.ldg ∧ (s.toEgress k x).eng = s.eng ∧ (s.toEgress k x).fwd = s.fwd ∧ (s.toEgress k x).hrl = s.hrl ∧ (s.toEgress k x).shl = s.shl ∧ (s.toEgress k x).tly = s.tly ∧ (s.toEgress k x).wdn = s.wdn ∧ (s.toEgress k x).boot = s.boot ∧ (s.toEgress k x).hst = s.hst ∧ (s.toEgress k x).rdata = s.rdata := by
  have h := State.toEgress_within (K := (· ∈ ([.cpg] : List Part))) (within_refl s) k x (by simp)
  exact ⟨h.pending, h.words.resolve_left (by simp), h.latch.resolve_left (by simp), h.ctrs.resolve_left (by simp), h.now.resolve_left (by simp), h.free.resolve_left (by simp), h.flt.resolve_left (by simp), h.pon.resolve_left (by simp), h.act.resolve_left (by simp), h.whf.resolve_left (by simp), h.keys.resolve_left (by simp), h.pm.resolve_left (by simp), h.stw.resolve_left (by simp), h.twn.resolve_left (by simp), h.ldg.resolve_left (by simp), h.eng.resolve_left (by simp), h.fwd.resolve_left (by simp), h.hrl.resolve_left (by simp), h.shl.resolve_left (by simp), h.tly.resolve_left (by simp), h.wdn.resolve_left (by simp), h.boot.resolve_left (by simp), h.hst.resolve_left (by simp), h.rdata.resolve_left (by simp)⟩

@[simp] theorem State.toEgress_rd (s : State) (k : Nat) (x : Out) (fld : Fld) : (s.toEgress k x).rd fld = s.rd fld :=
  congrArg (fun w : Words => w.rd fld) (State.toEgress_parts s k x).2.1

@[simp] theorem State.setRoot_parts (s : State) (k : Nat) (r : Root) :
    (s.setRoot k r).pending = s.pending ∧ (s.setRoot k r).words = s.words ∧ (s.setRoot k r).latch = s.latch ∧ (s.setRoot k r).ctrs = s.ctrs ∧ (s.setRoot k r).now = s.now ∧ (s.setRoot k r).free = s.free ∧ (s.setRoot k r).flt = s.flt ∧ (s.setRoot k r).pon = s.pon ∧ (s.setRoot k r).act = s.act ∧ (s.setRoot k r).whf = s.whf ∧ (s.setRoot k r).cpg = s.cpg ∧ (s.setRoot k r).pm = s.pm ∧ (s.setRoot k r).stw = s.stw ∧ (s.setRoot k r).ldg = s.ldg ∧ (s.setRoot k r).eng = s.eng ∧ (s.setRoot k r).fwd = s.fwd ∧ (s.setRoot k r).hrl = s.hrl ∧ (s.setRoot k r).shl = s.shl ∧ (s.setRoot k r).tly = s.tly ∧ (s.setRoot k r).wdn = s.wdn ∧ (s.setRoot k r).boot = s.boot ∧ (s.setRoot k r).hst = s.hst ∧ (s.setRoot k r).rdata = s.rdata := by
  have h := State.setRoot_within (K := (· ∈ ([.keys, .twn] : List Part))) (within_refl s) k r (by simp) (by simp)
  exact ⟨h.pending, h.words.resolve_left (by simp), h.latch.resolve_left (by simp), h.ctrs.resolve_left (by simp), h.now.resolve_left (by simp), h.free.resolve_left (by simp), h.flt.resolve_left (by simp), h.pon.resolve_left (by simp), h.act.resolve_left (by simp), h.whf.resolve_left (by simp), h.cpg.resolve_left (by simp), h.pm.resolve_left (by simp), h.stw.resolve_left (by simp), h.ldg.resolve_left (by simp), h.eng.resolve_left (by simp), h.fwd.resolve_left (by simp), h.hrl.resolve_left (by simp), h.shl.resolve_left (by simp), h.tly.resolve_left (by simp), h.wdn.resolve_left (by simp), h.boot.resolve_left (by simp), h.hst.resolve_left (by simp), h.rdata.resolve_left (by simp)⟩

@[simp] theorem State.setRoot_rd (s : State) (k : Nat) (r : Root) (fld : Fld) : (s.setRoot k r).rd fld = s.rd fld :=
  congrArg (fun w : Words => w.rd fld) (State.setRoot_parts s k r).2.1

@[simp] theorem State.derive_parts (s : State) (k label ctx : Nat) :
    (s.derive k label ctx).pending = s.pending ∧ (s.derive k label ctx).words = s.words ∧ (s.derive k label ctx).latch = s.latch ∧ (s.derive k label ctx).now = s.now ∧ (s.derive k label ctx).free = s.free ∧ (s.derive k label ctx).flt = s.flt ∧ (s.derive k label ctx).pon = s.pon ∧ (s.derive k label ctx).act = s.act ∧ (s.derive k label ctx).whf = s.whf ∧ (s.derive k label ctx).cpg = s.cpg ∧ (s.derive k label ctx).pm = s.pm ∧ (s.derive k label ctx).stw = s.stw ∧ (s.derive k label ctx).twn = s.twn ∧ (s.derive k label ctx).ldg = s.ldg ∧ (s.derive k label ctx).eng = s.eng ∧ (s.derive k label ctx).fwd = s.fwd ∧ (s.derive k label ctx).hrl = s.hrl ∧ (s.derive k label ctx).shl = s.shl ∧ (s.derive k label ctx).wdn = s.wdn ∧ (s.derive k label ctx).boot = s.boot ∧ (s.derive k label ctx).hst = s.hst ∧ (s.derive k label ctx).rdata = s.rdata := by
  have h := State.derive_within (K := (· ∈ ([.ctrs, .keys, .tly] : List Part))) (within_refl s) k label ctx (by simp) (by simp) (by simp)
  exact ⟨h.pending, h.words.resolve_left (by simp), h.latch.resolve_left (by simp), h.now.resolve_left (by simp), h.free.resolve_left (by simp), h.flt.resolve_left (by simp), h.pon.resolve_left (by simp), h.act.resolve_left (by simp), h.whf.resolve_left (by simp), h.cpg.resolve_left (by simp), h.pm.resolve_left (by simp), h.stw.resolve_left (by simp), h.twn.resolve_left (by simp), h.ldg.resolve_left (by simp), h.eng.resolve_left (by simp), h.fwd.resolve_left (by simp), h.hrl.resolve_left (by simp), h.shl.resolve_left (by simp), h.wdn.resolve_left (by simp), h.boot.resolve_left (by simp), h.hst.resolve_left (by simp), h.rdata.resolve_left (by simp)⟩

@[simp] theorem State.derive_rd (s : State) (k label ctx : Nat) (fld : Fld) : (s.derive k label ctx).rd fld = s.rd fld :=
  congrArg (fun w : Words => w.rd fld) (State.derive_parts s k label ctx).2.1

@[simp] theorem State.useKey_parts (s : State) (k n : Nat) :
    (s.useKey k n).pending = s.pending ∧ (s.useKey k n).words = s.words ∧ (s.useKey k n).latch = s.latch ∧ (s.useKey k n).ctrs = s.ctrs ∧ (s.useKey k n).now = s.now ∧ (s.useKey k n).free = s.free ∧ (s.useKey k n).pon = s.pon ∧ (s.useKey k n).act = s.act ∧ (s.useKey k n).whf = s.whf ∧ (s.useKey k n).cpg = s.cpg ∧ (s.useKey k n).pm = s.pm ∧ (s.useKey k n).stw = s.stw ∧ (s.useKey k n).twn = s.twn ∧ (s.useKey k n).ldg = s.ldg ∧ (s.useKey k n).eng = s.eng ∧ (s.useKey k n).fwd = s.fwd ∧ (s.useKey k n).hrl = s.hrl ∧ (s.useKey k n).shl = s.shl ∧ (s.useKey k n).tly = s.tly ∧ (s.useKey k n).wdn = s.wdn ∧ (s.useKey k n).boot = s.boot ∧ (s.useKey k n).hst = s.hst ∧ (s.useKey k n).rdata = s.rdata := by
  have h := State.useKey_within (K := (· ∈ ([.flt, .keys] : List Part))) (within_refl s) k n (by simp) (by simp)
  exact ⟨h.pending, h.words.resolve_left (by simp), h.latch.resolve_left (by simp), h.ctrs.resolve_left (by simp), h.now.resolve_left (by simp), h.free.resolve_left (by simp), h.pon.resolve_left (by simp), h.act.resolve_left (by simp), h.whf.resolve_left (by simp), h.cpg.resolve_left (by simp), h.pm.resolve_left (by simp), h.stw.resolve_left (by simp), h.twn.resolve_left (by simp), h.ldg.resolve_left (by simp), h.eng.resolve_left (by simp), h.fwd.resolve_left (by simp), h.hrl.resolve_left (by simp), h.shl.resolve_left (by simp), h.tly.resolve_left (by simp), h.wdn.resolve_left (by simp), h.boot.resolve_left (by simp), h.hst.resolve_left (by simp), h.rdata.resolve_left (by simp)⟩

@[simp] theorem State.useKey_rd (s : State) (k n : Nat) (fld : Fld) : (s.useKey k n).rd fld = s.rd fld :=
  congrArg (fun w : Words => w.rd fld) (State.useKey_parts s k n).2.1

@[simp] theorem State.eraseRoot_parts (s : State) (k : Nat) :
    (s.eraseRoot k).pending = s.pending ∧ (s.eraseRoot k).words = s.words ∧ (s.eraseRoot k).latch = s.latch ∧ (s.eraseRoot k).ctrs = s.ctrs ∧ (s.eraseRoot k).now = s.now ∧ (s.eraseRoot k).free = s.free ∧ (s.eraseRoot k).flt = s.flt ∧ (s.eraseRoot k).pon = s.pon ∧ (s.eraseRoot k).act = s.act ∧ (s.eraseRoot k).whf = s.whf ∧ (s.eraseRoot k).cpg = s.cpg ∧ (s.eraseRoot k).pm = s.pm ∧ (s.eraseRoot k).stw = s.stw ∧ (s.eraseRoot k).ldg = s.ldg ∧ (s.eraseRoot k).eng = s.eng ∧ (s.eraseRoot k).fwd = s.fwd ∧ (s.eraseRoot k).hrl = s.hrl ∧ (s.eraseRoot k).shl = s.shl ∧ (s.eraseRoot k).tly = s.tly ∧ (s.eraseRoot k).wdn = s.wdn ∧ (s.eraseRoot k).boot = s.boot ∧ (s.eraseRoot k).hst = s.hst ∧ (s.eraseRoot k).rdata = s.rdata := by
  have h := State.eraseRoot_within (K := (· ∈ ([.keys, .twn] : List Part))) (within_refl s) k (by simp) (by simp)
  exact ⟨h.pending, h.words.resolve_left (by simp), h.latch.resolve_left (by simp), h.ctrs.resolve_left (by simp), h.now.resolve_left (by simp), h.free.resolve_left (by simp), h.flt.resolve_left (by simp), h.pon.resolve_left (by simp), h.act.resolve_left (by simp), h.whf.resolve_left (by simp), h.cpg.resolve_left (by simp), h.pm.resolve_left (by simp), h.stw.resolve_left (by simp), h.ldg.resolve_left (by simp), h.eng.resolve_left (by simp), h.fwd.resolve_left (by simp), h.hrl.resolve_left (by simp), h.shl.resolve_left (by simp), h.tly.resolve_left (by simp), h.wdn.resolve_left (by simp), h.boot.resolve_left (by simp), h.hst.resolve_left (by simp), h.rdata.resolve_left (by simp)⟩

@[simp] theorem State.eraseRoot_rd (s : State) (k : Nat) (fld : Fld) : (s.eraseRoot k).rd fld = s.rd fld :=
  congrArg (fun w : Words => w.rd fld) (State.eraseRoot_parts s k).2.1

@[simp] theorem State.keyCode_parts (s : State) (c : Nat) :
    (s.keyCode c).pending = s.pending ∧ (s.keyCode c).latch = s.latch ∧ (s.keyCode c).ctrs = s.ctrs ∧ (s.keyCode c).now = s.now ∧ (s.keyCode c).free = s.free ∧ (s.keyCode c).flt = s.flt ∧ (s.keyCode c).pon = s.pon ∧ (s.keyCode c).act = s.act ∧ (s.keyCode c).whf = s.whf ∧ (s.keyCode c).cpg = s.cpg ∧ (s.keyCode c).keys = s.keys ∧ (s.keyCode c).pm = s.pm ∧ (s.keyCode c).stw = s.stw ∧ (s.keyCode c).twn = s.twn ∧ (s.keyCode c).ldg = s.ldg ∧ (s.keyCode c).eng = s.eng ∧ (s.keyCode c).fwd = s.fwd ∧ (s.keyCode c).hrl = s.hrl ∧ (s.keyCode c).shl = s.shl ∧ (s.keyCode c).tly = s.tly ∧ (s.keyCode c).wdn = s.wdn ∧ (s.keyCode c).boot = s.boot ∧ (s.keyCode c).rdata = s.rdata := by
  have h := State.keyCode_within (K := (· ∈ ([.words, .hst] : List Part))) (within_refl s) c (by simp) (by simp)
  exact ⟨h.pending, h.latch.resolve_left (by simp), h.ctrs.resolve_left (by simp), h.now.resolve_left (by simp), h.free.resolve_left (by simp), h.flt.resolve_left (by simp), h.pon.resolve_left (by simp), h.act.resolve_left (by simp), h.whf.resolve_left (by simp), h.cpg.resolve_left (by simp), h.keys.resolve_left (by simp), h.pm.resolve_left (by simp), h.stw.resolve_left (by simp), h.twn.resolve_left (by simp), h.ldg.resolve_left (by simp), h.eng.resolve_left (by simp), h.fwd.resolve_left (by simp), h.hrl.resolve_left (by simp), h.shl.resolve_left (by simp), h.tly.resolve_left (by simp), h.wdn.resolve_left (by simp), h.boot.resolve_left (by simp), h.rdata.resolve_left (by simp)⟩

@[simp] theorem State.micKey_parts (s : State) (p : Fin 32) (onu label : Nat) :
    (s.micKey p onu label).pending = s.pending ∧ (s.micKey p onu label).words = s.words ∧ (s.micKey p onu label).latch = s.latch ∧ (s.micKey p onu label).now = s.now ∧ (s.micKey p onu label).free = s.free ∧ (s.micKey p onu label).flt = s.flt ∧ (s.micKey p onu label).pon = s.pon ∧ (s.micKey p onu label).act = s.act ∧ (s.micKey p onu label).whf = s.whf ∧ (s.micKey p onu label).cpg = s.cpg ∧ (s.micKey p onu label).pm = s.pm ∧ (s.micKey p onu label).stw = s.stw ∧ (s.micKey p onu label).twn = s.twn ∧ (s.micKey p onu label).ldg = s.ldg ∧ (s.micKey p onu label).eng = s.eng ∧ (s.micKey p onu label).fwd = s.fwd ∧ (s.micKey p onu label).hrl = s.hrl ∧ (s.micKey p onu label).shl = s.shl ∧ (s.micKey p onu label).wdn = s.wdn ∧ (s.micKey p onu label).boot = s.boot ∧ (s.micKey p onu label).hst = s.hst ∧ (s.micKey p onu label).rdata = s.rdata := by
  have h := State.micKey_within (K := (· ∈ ([.ctrs, .keys, .tly] : List Part))) (within_refl s) p onu label (by simp) (by simp) (by simp)
  exact ⟨h.pending, h.words.resolve_left (by simp), h.latch.resolve_left (by simp), h.now.resolve_left (by simp), h.free.resolve_left (by simp), h.flt.resolve_left (by simp), h.pon.resolve_left (by simp), h.act.resolve_left (by simp), h.whf.resolve_left (by simp), h.cpg.resolve_left (by simp), h.pm.resolve_left (by simp), h.stw.resolve_left (by simp), h.twn.resolve_left (by simp), h.ldg.resolve_left (by simp), h.eng.resolve_left (by simp), h.fwd.resolve_left (by simp), h.hrl.resolve_left (by simp), h.shl.resolve_left (by simp), h.wdn.resolve_left (by simp), h.boot.resolve_left (by simp), h.hst.resolve_left (by simp), h.rdata.resolve_left (by simp)⟩

@[simp] theorem State.micKey_rd (s : State) (p : Fin 32) (onu label : Nat) (fld : Fld) : (s.micKey p onu label).rd fld = s.rd fld :=
  congrArg (fun w : Words => w.rd fld) (State.micKey_parts s p onu label).2.1

@[simp] theorem State.schStore_parts (s : State) (idx first : Nat) (ws : List Word) :
    (s.schStore idx first ws).pending = s.pending ∧ (s.schStore idx first ws).latch = s.latch ∧ (s.schStore idx first ws).now = s.now ∧ (s.schStore idx first ws).free = s.free ∧ (s.schStore idx first ws).pon = s.pon ∧ (s.schStore idx first ws).act = s.act ∧ (s.schStore idx first ws).whf = s.whf ∧ (s.schStore idx first ws).keys = s.keys ∧ (s.schStore idx first ws).pm = s.pm ∧ (s.schStore idx first ws).stw = s.stw ∧ (s.schStore idx first ws).twn = s.twn ∧ (s.schStore idx first ws).ldg = s.ldg ∧ (s.schStore idx first ws).eng = s.eng ∧ (s.schStore idx first ws).fwd = s.fwd ∧ (s.schStore idx first ws).hrl = s.hrl ∧ (s.schStore idx first ws).shl = s.shl ∧ (s.schStore idx first ws).wdn = s.wdn ∧ (s.schStore idx first ws).boot = s.boot ∧ (s.schStore idx first ws).hst = s.hst ∧ (s.schStore idx first ws).rdata = s.rdata := by
  have h := State.schStore_within (K := (· ∈ ([.words, .ctrs, .flt, .cpg, .tly] : List Part))) (within_refl s) idx first ws (by simp) (by simp) (by simp) (by simp) (by simp)
  exact ⟨h.pending, h.latch.resolve_left (by simp), h.now.resolve_left (by simp), h.free.resolve_left (by simp), h.pon.resolve_left (by simp), h.act.resolve_left (by simp), h.whf.resolve_left (by simp), h.keys.resolve_left (by simp), h.pm.resolve_left (by simp), h.stw.resolve_left (by simp), h.twn.resolve_left (by simp), h.ldg.resolve_left (by simp), h.eng.resolve_left (by simp), h.fwd.resolve_left (by simp), h.hrl.resolve_left (by simp), h.shl.resolve_left (by simp), h.wdn.resolve_left (by simp), h.boot.resolve_left (by simp), h.hst.resolve_left (by simp), h.rdata.resolve_left (by simp)⟩

@[simp] theorem State.setPlq_parts (s : State) (p : Fin 32) (sd : Nat) (q : PloamQ) :
    (s.setPlq p sd q).pending = s.pending ∧ (s.setPlq p sd q).words = s.words ∧ (s.setPlq p sd q).latch = s.latch ∧ (s.setPlq p sd q).ctrs = s.ctrs ∧ (s.setPlq p sd q).now = s.now ∧ (s.setPlq p sd q).free = s.free ∧ (s.setPlq p sd q).flt = s.flt ∧ (s.setPlq p sd q).pon = s.pon ∧ (s.setPlq p sd q).whf = s.whf ∧ (s.setPlq p sd q).cpg = s.cpg ∧ (s.setPlq p sd q).keys = s.keys ∧ (s.setPlq p sd q).pm = s.pm ∧ (s.setPlq p sd q).stw = s.stw ∧ (s.setPlq p sd q).ldg = s.ldg ∧ (s.setPlq p sd q).eng = s.eng ∧ (s.setPlq p sd q).fwd = s.fwd ∧ (s.setPlq p sd q).hrl = s.hrl ∧ (s.setPlq p sd q).shl = s.shl ∧ (s.setPlq p sd q).tly = s.tly ∧ (s.setPlq p sd q).wdn = s.wdn ∧ (s.setPlq p sd q).boot = s.boot ∧ (s.setPlq p sd q).hst = s.hst ∧ (s.setPlq p sd q).rdata = s.rdata := by
  have h := State.setPlq_within (K := (· ∈ ([.act, .twn] : List Part))) (within_refl s) p sd q (by simp) (by simp)
  exact ⟨h.pending, h.words.resolve_left (by simp), h.latch.resolve_left (by simp), h.ctrs.resolve_left (by simp), h.now.resolve_left (by simp), h.free.resolve_left (by simp), h.flt.resolve_left (by simp), h.pon.resolve_left (by simp), h.whf.resolve_left (by simp), h.cpg.resolve_left (by simp), h.keys.resolve_left (by simp), h.pm.resolve_left (by simp), h.stw.resolve_left (by simp), h.ldg.resolve_left (by simp), h.eng.resolve_left (by simp), h.fwd.resolve_left (by simp), h.hrl.resolve_left (by simp), h.shl.resolve_left (by simp), h.tly.resolve_left (by simp), h.wdn.resolve_left (by simp), h.boot.resolve_left (by simp), h.hst.resolve_left (by simp), h.rdata.resolve_left (by simp)⟩

@[simp] theorem State.setPlq_rd (s : State) (p : Fin 32) (sd : Nat) (q : PloamQ) (fld : Fld) : (s.setPlq p sd q).rd fld = s.rd fld :=
  congrArg (fun w : Words => w.rd fld) (State.setPlq_parts s p sd q).2.1

@[simp] theorem State.queuePloam_parts (s : State) (p : Fin 32) (sd onu : Nat) (b : PloamBody) :
    (s.queuePloam p sd onu b).pending = s.pending ∧ (s.queuePloam p sd onu b).words = s.words ∧ (s.queuePloam p sd onu b).latch = s.latch ∧ (s.queuePloam p sd onu b).ctrs = s.ctrs ∧ (s.queuePloam p sd onu b).now = s.now ∧ (s.queuePloam p sd onu b).free = s.free ∧ (s.queuePloam p sd onu b).flt = s.flt ∧ (s.queuePloam p sd onu b).pon = s.pon ∧ (s.queuePloam p sd onu b).whf = s.whf ∧ (s.queuePloam p sd onu b).cpg = s.cpg ∧ (s.queuePloam p sd onu b).keys = s.keys ∧ (s.queuePloam p sd onu b).pm = s.pm ∧ (s.queuePloam p sd onu b).stw = s.stw ∧ (s.queuePloam p sd onu b).ldg = s.ldg ∧ (s.queuePloam p sd onu b).eng = s.eng ∧ (s.queuePloam p sd onu b).fwd = s.fwd ∧ (s.queuePloam p sd onu b).hrl = s.hrl ∧ (s.queuePloam p sd onu b).shl = s.shl ∧ (s.queuePloam p sd onu b).tly = s.tly ∧ (s.queuePloam p sd onu b).wdn = s.wdn ∧ (s.queuePloam p sd onu b).boot = s.boot ∧ (s.queuePloam p sd onu b).hst = s.hst ∧ (s.queuePloam p sd onu b).rdata = s.rdata := by
  have h := State.queuePloam_within (K := (· ∈ ([.act, .twn] : List Part))) (within_refl s) p sd onu b (by simp) (by simp)
  exact ⟨h.pending, h.words.resolve_left (by simp), h.latch.resolve_left (by simp), h.ctrs.resolve_left (by simp), h.now.resolve_left (by simp), h.free.resolve_left (by simp), h.flt.resolve_left (by simp), h.pon.resolve_left (by simp), h.whf.resolve_left (by simp), h.cpg.resolve_left (by simp), h.keys.resolve_left (by simp), h.pm.resolve_left (by simp), h.stw.resolve_left (by simp), h.ldg.resolve_left (by simp), h.eng.resolve_left (by simp), h.fwd.resolve_left (by simp), h.hrl.resolve_left (by simp), h.shl.resolve_left (by simp), h.tly.resolve_left (by simp), h.wdn.resolve_left (by simp), h.boot.resolve_left (by simp), h.hst.resolve_left (by simp), h.rdata.resolve_left (by simp)⟩

@[simp] theorem State.queuePloam_rd (s : State) (p : Fin 32) (sd onu : Nat) (b : PloamBody) (fld : Fld) : (s.queuePloam p sd onu b).rd fld = s.rd fld :=
  congrArg (fun w : Words => w.rd fld) (State.queuePloam_parts s p sd onu b).2.1

@[simp] theorem State.leaveRamp_parts (s : State) (p : Fin 32) :
    (s.leaveRamp p).pending = s.pending ∧ (s.leaveRamp p).words = s.words ∧ (s.leaveRamp p).latch = s.latch ∧ (s.leaveRamp p).ctrs = s.ctrs ∧ (s.leaveRamp p).now = s.now ∧ (s.leaveRamp p).free = s.free ∧ (s.leaveRamp p).flt = s.flt ∧ (s.leaveRamp p).pon = s.pon ∧ (s.leaveRamp p).whf = s.whf ∧ (s.leaveRamp p).cpg = s.cpg ∧ (s.leaveRamp p).keys = s.keys ∧ (s.leaveRamp p).pm = s.pm ∧ (s.leaveRamp p).stw = s.stw ∧ (s.leaveRamp p).ldg = s.ldg ∧ (s.leaveRamp p).eng = s.eng ∧ (s.leaveRamp p).fwd = s.fwd ∧ (s.leaveRamp p).hrl = s.hrl ∧ (s.leaveRamp p).shl = s.shl ∧ (s.leaveRamp p).tly = s.tly ∧ (s.leaveRamp p).wdn = s.wdn ∧ (s.leaveRamp p).boot = s.boot ∧ (s.leaveRamp p).hst = s.hst ∧ (s.leaveRamp p).rdata = s.rdata := by
  have h := State.leaveRamp_within (K := (· ∈ ([.act, .twn] : List Part))) (within_refl s) p (by simp) (by simp)
  exact ⟨h.pending, h.words.resolve_left (by simp), h.latch.resolve_left (by simp), h.ctrs.resolve_left (by simp), h.now.resolve_left (by simp), h.free.resolve_left (by simp), h.flt.resolve_left (by simp), h.pon.resolve_left (by simp), h.whf.resolve_left (by simp), h.cpg.resolve_left (by simp), h.keys.resolve_left (by simp), h.pm.resolve_left (by simp), h.stw.resolve_left (by simp), h.ldg.resolve_left (by simp), h.eng.resolve_left (by simp), h.fwd.resolve_left (by simp), h.hrl.resolve_left (by simp), h.shl.resolve_left (by simp), h.tly.resolve_left (by simp), h.wdn.resolve_left (by simp), h.boot.resolve_left (by simp), h.hst.resolve_left (by simp), h.rdata.resolve_left (by simp)⟩

@[simp] theorem State.leaveRamp_rd (s : State) (p : Fin 32) (fld : Fld) : (s.leaveRamp p).rd fld = s.rd fld :=
  congrArg (fun w : Words => w.rd fld) (State.leaveRamp_parts s p).2.1

@[simp] theorem State.rampCheck_parts (s : State) (p : Fin 32) :
    (s.rampCheck p).pending = s.pending ∧ (s.rampCheck p).words = s.words ∧ (s.rampCheck p).latch = s.latch ∧ (s.rampCheck p).ctrs = s.ctrs ∧ (s.rampCheck p).now = s.now ∧ (s.rampCheck p).free = s.free ∧ (s.rampCheck p).flt = s.flt ∧ (s.rampCheck p).pon = s.pon ∧ (s.rampCheck p).whf = s.whf ∧ (s.rampCheck p).cpg = s.cpg ∧ (s.rampCheck p).keys = s.keys ∧ (s.rampCheck p).pm = s.pm ∧ (s.rampCheck p).stw = s.stw ∧ (s.rampCheck p).ldg = s.ldg ∧ (s.rampCheck p).eng = s.eng ∧ (s.rampCheck p).fwd = s.fwd ∧ (s.rampCheck p).hrl = s.hrl ∧ (s.rampCheck p).shl = s.shl ∧ (s.rampCheck p).tly = s.tly ∧ (s.rampCheck p).wdn = s.wdn ∧ (s.rampCheck p).boot = s.boot ∧ (s.rampCheck p).hst = s.hst ∧ (s.rampCheck p).rdata = s.rdata := by
  have h := State.rampCheck_within (K := (· ∈ ([.act, .twn] : List Part))) (within_refl s) p (by simp) (by simp)
  exact ⟨h.pending, h.words.resolve_left (by simp), h.latch.resolve_left (by simp), h.ctrs.resolve_left (by simp), h.now.resolve_left (by simp), h.free.resolve_left (by simp), h.flt.resolve_left (by simp), h.pon.resolve_left (by simp), h.whf.resolve_left (by simp), h.cpg.resolve_left (by simp), h.keys.resolve_left (by simp), h.pm.resolve_left (by simp), h.stw.resolve_left (by simp), h.ldg.resolve_left (by simp), h.eng.resolve_left (by simp), h.fwd.resolve_left (by simp), h.hrl.resolve_left (by simp), h.shl.resolve_left (by simp), h.tly.resolve_left (by simp), h.wdn.resolve_left (by simp), h.boot.resolve_left (by simp), h.hst.resolve_left (by simp), h.rdata.resolve_left (by simp)⟩

@[simp] theorem State.rampCheck_rd (s : State) (p : Fin 32) (fld : Fld) : (s.rampCheck p).rd fld = s.rd fld :=
  congrArg (fun w : Words => w.rd fld) (State.rampCheck_parts s p).2.1

@[simp] theorem State.enterRamp_parts (s : State) (p : Fin 32) :
    (s.enterRamp p).pending = s.pending ∧ (s.enterRamp p).words = s.words ∧ (s.enterRamp p).latch = s.latch ∧ (s.enterRamp p).ctrs = s.ctrs ∧ (s.enterRamp p).now = s.now ∧ (s.enterRamp p).free = s.free ∧ (s.enterRamp p).flt = s.flt ∧ (s.enterRamp p).pon = s.pon ∧ (s.enterRamp p).whf = s.whf ∧ (s.enterRamp p).cpg = s.cpg ∧ (s.enterRamp p).keys = s.keys ∧ (s.enterRamp p).pm = s.pm ∧ (s.enterRamp p).stw = s.stw ∧ (s.enterRamp p).ldg = s.ldg ∧ (s.enterRamp p).eng = s.eng ∧ (s.enterRamp p).fwd = s.fwd ∧ (s.enterRamp p).hrl = s.hrl ∧ (s.enterRamp p).shl = s.shl ∧ (s.enterRamp p).tly = s.tly ∧ (s.enterRamp p).wdn = s.wdn ∧ (s.enterRamp p).boot = s.boot ∧ (s.enterRamp p).hst = s.hst ∧ (s.enterRamp p).rdata = s.rdata := by
  have h := State.enterRamp_within (K := (· ∈ ([.act, .twn] : List Part))) (within_refl s) p (by simp) (by simp)
  exact ⟨h.pending, h.words.resolve_left (by simp), h.latch.resolve_left (by simp), h.ctrs.resolve_left (by simp), h.now.resolve_left (by simp), h.free.resolve_left (by simp), h.flt.resolve_left (by simp), h.pon.resolve_left (by simp), h.whf.resolve_left (by simp), h.cpg.resolve_left (by simp), h.keys.resolve_left (by simp), h.pm.resolve_left (by simp), h.stw.resolve_left (by simp), h.ldg.resolve_left (by simp), h.eng.resolve_left (by simp), h.fwd.resolve_left (by simp), h.hrl.resolve_left (by simp), h.shl.resolve_left (by simp), h.tly.resolve_left (by simp), h.wdn.resolve_left (by simp), h.boot.resolve_left (by simp), h.hst.resolve_left (by simp), h.rdata.resolve_left (by simp)⟩

@[simp] theorem State.enterRamp_rd (s : State) (p : Fin 32) (fld : Fld) : (s.enterRamp p).rd fld = s.rd fld :=
  congrArg (fun w : Words => w.rd fld) (State.enterRamp_parts s p).2.1

@[simp] theorem State.unprovision_parts (s : State) (p : Fin 32) (i : Nat) :
    (s.unprovision p i).pending = s.pending ∧ (s.unprovision p i).latch = s.latch ∧ (s.unprovision p i).ctrs = s.ctrs ∧ (s.unprovision p i).now = s.now ∧ (s.unprovision p i).free = s.free ∧ (s.unprovision p i).flt = s.flt ∧ (s.unprovision p i).pon = s.pon ∧ (s.unprovision p i).act = s.act ∧ (s.unprovision p i).whf = s.whf ∧ (s.unprovision p i).cpg = s.cpg ∧ (s.unprovision p i).keys = s.keys ∧ (s.unprovision p i).pm = s.pm ∧ (s.unprovision p i).twn = s.twn ∧ (s.unprovision p i).ldg = s.ldg ∧ (s.unprovision p i).eng = s.eng ∧ (s.unprovision p i).fwd = s.fwd ∧ (s.unprovision p i).hrl = s.hrl ∧ (s.unprovision p i).shl = s.shl ∧ (s.unprovision p i).tly = s.tly ∧ (s.unprovision p i).wdn = s.wdn ∧ (s.unprovision p i).boot = s.boot ∧ (s.unprovision p i).hst = s.hst ∧ (s.unprovision p i).rdata = s.rdata := by
  have h := State.unprovision_within (K := (· ∈ ([.words, .stw] : List Part))) (within_refl s) p i (by simp) (by simp)
  exact ⟨h.pending, h.latch.resolve_left (by simp), h.ctrs.resolve_left (by simp), h.now.resolve_left (by simp), h.free.resolve_left (by simp), h.flt.resolve_left (by simp), h.pon.resolve_left (by simp), h.act.resolve_left (by simp), h.whf.resolve_left (by simp), h.cpg.resolve_left (by simp), h.keys.resolve_left (by simp), h.pm.resolve_left (by simp), h.twn.resolve_left (by simp), h.ldg.resolve_left (by simp), h.eng.resolve_left (by simp), h.fwd.resolve_left (by simp), h.hrl.resolve_left (by simp), h.shl.resolve_left (by simp), h.tly.resolve_left (by simp), h.wdn.resolve_left (by simp), h.boot.resolve_left (by simp), h.hst.resolve_left (by simp), h.rdata.resolve_left (by simp)⟩

@[simp] theorem State.forSteward_parts (s : State) (m : StwMsg) :
    (s.forSteward m).pending = s.pending ∧ (s.forSteward m).words = s.words ∧ (s.forSteward m).latch = s.latch ∧ (s.forSteward m).ctrs = s.ctrs ∧ (s.forSteward m).now = s.now ∧ (s.forSteward m).free = s.free ∧ (s.forSteward m).flt = s.flt ∧ (s.forSteward m).pon = s.pon ∧ (s.forSteward m).act = s.act ∧ (s.forSteward m).whf = s.whf ∧ (s.forSteward m).cpg = s.cpg ∧ (s.forSteward m).keys = s.keys ∧ (s.forSteward m).pm = s.pm ∧ (s.forSteward m).twn = s.twn ∧ (s.forSteward m).ldg = s.ldg ∧ (s.forSteward m).eng = s.eng ∧ (s.forSteward m).fwd = s.fwd ∧ (s.forSteward m).hrl = s.hrl ∧ (s.forSteward m).shl = s.shl ∧ (s.forSteward m).tly = s.tly ∧ (s.forSteward m).wdn = s.wdn ∧ (s.forSteward m).boot = s.boot ∧ (s.forSteward m).hst = s.hst ∧ (s.forSteward m).rdata = s.rdata := by
  have h := State.forSteward_within (K := (· ∈ ([.stw] : List Part))) (within_refl s) m (by simp)
  exact ⟨h.pending, h.words.resolve_left (by simp), h.latch.resolve_left (by simp), h.ctrs.resolve_left (by simp), h.now.resolve_left (by simp), h.free.resolve_left (by simp), h.flt.resolve_left (by simp), h.pon.resolve_left (by simp), h.act.resolve_left (by simp), h.whf.resolve_left (by simp), h.cpg.resolve_left (by simp), h.keys.resolve_left (by simp), h.pm.resolve_left (by simp), h.twn.resolve_left (by simp), h.ldg.resolve_left (by simp), h.eng.resolve_left (by simp), h.fwd.resolve_left (by simp), h.hrl.resolve_left (by simp), h.shl.resolve_left (by simp), h.tly.resolve_left (by simp), h.wdn.resolve_left (by simp), h.boot.resolve_left (by simp), h.hst.resolve_left (by simp), h.rdata.resolve_left (by simp)⟩

@[simp] theorem State.forSteward_rd (s : State) (m : StwMsg) (fld : Fld) : (s.forSteward m).rd fld = s.rd fld :=
  congrArg (fun w : Words => w.rd fld) (State.forSteward_parts s m).2.1

@[simp] theorem State.setFreq_parts (s : State) (d : Nat) (f : Int) :
    (s.setFreq d f).pending = s.pending ∧ (s.setFreq d f).words = s.words ∧ (s.setFreq d f).latch = s.latch ∧ (s.setFreq d f).ctrs = s.ctrs ∧ (s.setFreq d f).now = s.now ∧ (s.setFreq d f).free = s.free ∧ (s.setFreq d f).flt = s.flt ∧ (s.setFreq d f).pon = s.pon ∧ (s.setFreq d f).act = s.act ∧ (s.setFreq d f).whf = s.whf ∧ (s.setFreq d f).cpg = s.cpg ∧ (s.setFreq d f).keys = s.keys ∧ (s.setFreq d f).pm = s.pm ∧ (s.setFreq d f).stw = s.stw ∧ (s.setFreq d f).twn = s.twn ∧ (s.setFreq d f).ldg = s.ldg ∧ (s.setFreq d f).eng = s.eng ∧ (s.setFreq d f).fwd = s.fwd ∧ (s.setFreq d f).shl = s.shl ∧ (s.setFreq d f).tly = s.tly ∧ (s.setFreq d f).wdn = s.wdn ∧ (s.setFreq d f).boot = s.boot ∧ (s.setFreq d f).hst = s.hst ∧ (s.setFreq d f).rdata = s.rdata := by
  have h := State.setFreq_within (K := (· ∈ ([.hrl] : List Part))) (within_refl s) d f (by simp)
  exact ⟨h.pending, h.words.resolve_left (by simp), h.latch.resolve_left (by simp), h.ctrs.resolve_left (by simp), h.now.resolve_left (by simp), h.free.resolve_left (by simp), h.flt.resolve_left (by simp), h.pon.resolve_left (by simp), h.act.resolve_left (by simp), h.whf.resolve_left (by simp), h.cpg.resolve_left (by simp), h.keys.resolve_left (by simp), h.pm.resolve_left (by simp), h.stw.resolve_left (by simp), h.twn.resolve_left (by simp), h.ldg.resolve_left (by simp), h.eng.resolve_left (by simp), h.fwd.resolve_left (by simp), h.shl.resolve_left (by simp), h.tly.resolve_left (by simp), h.wdn.resolve_left (by simp), h.boot.resolve_left (by simp), h.hst.resolve_left (by simp), h.rdata.resolve_left (by simp)⟩

@[simp] theorem State.setFreq_rd (s : State) (d : Nat) (f : Int) (fld : Fld) : (s.setFreq d f).rd fld = s.rd fld :=
  congrArg (fun w : Words => w.rd fld) (State.setFreq_parts s d f).2.1

@[simp] theorem State.pmMod_parts (s : State) (k : Nat) (f : PmAcc → PmAcc) :
    (s.pmMod k f).pending = s.pending ∧ (s.pmMod k f).words = s.words ∧ (s.pmMod k f).latch = s.latch ∧ (s.pmMod k f).ctrs = s.ctrs ∧ (s.pmMod k f).now = s.now ∧ (s.pmMod k f).free = s.free ∧ (s.pmMod k f).flt = s.flt ∧ (s.pmMod k f).pon = s.pon ∧ (s.pmMod k f).act = s.act ∧ (s.pmMod k f).whf = s.whf ∧ (s.pmMod k f).cpg = s.cpg ∧ (s.pmMod k f).keys = s.keys ∧ (s.pmMod k f).stw = s.stw ∧ (s.pmMod k f).twn = s.twn ∧ (s.pmMod k f).ldg = s.ldg ∧ (s.pmMod k f).eng = s.eng ∧ (s.pmMod k f).fwd = s.fwd ∧ (s.pmMod k f).hrl = s.hrl ∧ (s.pmMod k f).shl = s.shl ∧ (s.pmMod k f).tly = s.tly ∧ (s.pmMod k f).wdn = s.wdn ∧ (s.pmMod k f).boot = s.boot ∧ (s.pmMod k f).hst = s.hst ∧ (s.pmMod k f).rdata = s.rdata := by
  have h := State.pmMod_within (K := (· ∈ ([.pm] : List Part))) (within_refl s) k f (by simp)
  exact ⟨h.pending, h.words.resolve_left (by simp), h.latch.resolve_left (by simp), h.ctrs.resolve_left (by simp), h.now.resolve_left (by simp), h.free.resolve_left (by simp), h.flt.resolve_left (by simp), h.pon.resolve_left (by simp), h.act.resolve_left (by simp), h.whf.resolve_left (by simp), h.cpg.resolve_left (by simp), h.keys.resolve_left (by simp), h.stw.resolve_left (by simp), h.twn.resolve_left (by simp), h.ldg.resolve_left (by simp), h.eng.resolve_left (by simp), h.fwd.resolve_left (by simp), h.hrl.resolve_left (by simp), h.shl.resolve_left (by simp), h.tly.resolve_left (by simp), h.wdn.resolve_left (by simp), h.boot.resolve_left (by simp), h.hst.resolve_left (by simp), h.rdata.resolve_left (by simp)⟩

@[simp] theorem State.pmMod_rd (s : State) (k : Nat) (f : PmAcc → PmAcc) (fld : Fld) : (s.pmMod k f).rd fld = s.rd fld :=
  congrArg (fun w : Words => w.rd fld) (State.pmMod_parts s k f).2.1

@[simp] theorem State.fillTo_parts (s : State) (p : Fin 32) (sd stop : Nat) :
    (s.fillTo p sd stop).pending = s.pending ∧ (s.fillTo p sd stop).words = s.words ∧ (s.fillTo p sd stop).latch = s.latch ∧ (s.fillTo p sd stop).ctrs = s.ctrs ∧ (s.fillTo p sd stop).now = s.now ∧ (s.fillTo p sd stop).free = s.free ∧ (s.fillTo p sd stop).flt = s.flt ∧ (s.fillTo p sd stop).act = s.act ∧ (s.fillTo p sd stop).whf = s.whf ∧ (s.fillTo p sd stop).cpg = s.cpg ∧ (s.fillTo p sd stop).keys = s.keys ∧ (s.fillTo p sd stop).pm = s.pm ∧ (s.fillTo p sd stop).stw = s.stw ∧ (s.fillTo p sd stop).twn = s.twn ∧ (s.fillTo p sd stop).ldg = s.ldg ∧ (s.fillTo p sd stop).eng = s.eng ∧ (s.fillTo p sd stop).fwd = s.fwd ∧ (s.fillTo p sd stop).hrl = s.hrl ∧ (s.fillTo p sd stop).shl = s.shl ∧ (s.fillTo p sd stop).tly = s.tly ∧ (s.fillTo p sd stop).wdn = s.wdn ∧ (s.fillTo p sd stop).boot = s.boot ∧ (s.fillTo p sd stop).hst = s.hst ∧ (s.fillTo p sd stop).rdata = s.rdata := by
  have h := State.fillTo_within (K := (· ∈ ([.pon] : List Part))) (within_refl s) p sd stop (by simp)
  exact ⟨h.pending, h.words.resolve_left (by simp), h.latch.resolve_left (by simp), h.ctrs.resolve_left (by simp), h.now.resolve_left (by simp), h.free.resolve_left (by simp), h.flt.resolve_left (by simp), h.act.resolve_left (by simp), h.whf.resolve_left (by simp), h.cpg.resolve_left (by simp), h.keys.resolve_left (by simp), h.pm.resolve_left (by simp), h.stw.resolve_left (by simp), h.twn.resolve_left (by simp), h.ldg.resolve_left (by simp), h.eng.resolve_left (by simp), h.fwd.resolve_left (by simp), h.hrl.resolve_left (by simp), h.shl.resolve_left (by simp), h.tly.resolve_left (by simp), h.wdn.resolve_left (by simp), h.boot.resolve_left (by simp), h.hst.resolve_left (by simp), h.rdata.resolve_left (by simp)⟩

@[simp] theorem State.fillTo_rd (s : State) (p : Fin 32) (sd stop : Nat) (fld : Fld) : (s.fillTo p sd stop).rd fld = s.rd fld :=
  congrArg (fun w : Words => w.rd fld) (State.fillTo_parts s p sd stop).2.1

@[simp] theorem State.reannounce_parts (s : State) (ps : List (Fin 32)) :
    (s.reannounce ps).pending = s.pending ∧ (s.reannounce ps).words = s.words ∧ (s.reannounce ps).latch = s.latch ∧ (s.reannounce ps).ctrs = s.ctrs ∧ (s.reannounce ps).now = s.now ∧ (s.reannounce ps).free = s.free ∧ (s.reannounce ps).flt = s.flt ∧ (s.reannounce ps).pon = s.pon ∧ (s.reannounce ps).act = s.act ∧ (s.reannounce ps).whf = s.whf ∧ (s.reannounce ps).cpg = s.cpg ∧ (s.reannounce ps).keys = s.keys ∧ (s.reannounce ps).pm = s.pm ∧ (s.reannounce ps).stw = s.stw ∧ (s.reannounce ps).twn = s.twn ∧ (s.reannounce ps).ldg = s.ldg ∧ (s.reannounce ps).eng = s.eng ∧ (s.reannounce ps).fwd = s.fwd ∧ (s.reannounce ps).shl = s.shl ∧ (s.reannounce ps).tly = s.tly ∧ (s.reannounce ps).wdn = s.wdn ∧ (s.reannounce ps).boot = s.boot ∧ (s.reannounce ps).hst = s.hst ∧ (s.reannounce ps).rdata = s.rdata := by
  have h := State.reannounce_within (K := (· ∈ ([.hrl] : List Part))) (within_refl s) ps (by simp)
  exact ⟨h.pending, h.words.resolve_left (by simp), h.latch.resolve_left (by simp), h.ctrs.resolve_left (by simp), h.now.resolve_left (by simp), h.free.resolve_left (by simp), h.flt.resolve_left (by simp), h.pon.resolve_left (by simp), h.act.resolve_left (by simp), h.whf.resolve_left (by simp), h.cpg.resolve_left (by simp), h.keys.resolve_left (by simp), h.pm.resolve_left (by simp), h.stw.resolve_left (by simp), h.twn.resolve_left (by simp), h.ldg.resolve_left (by simp), h.eng.resolve_left (by simp), h.fwd.resolve_left (by simp), h.shl.resolve_left (by simp), h.tly.resolve_left (by simp), h.wdn.resolve_left (by simp), h.boot.resolve_left (by simp), h.hst.resolve_left (by simp), h.rdata.resolve_left (by simp)⟩

@[simp] theorem State.reannounce_rd (s : State) (ps : List (Fin 32)) (fld : Fld) : (s.reannounce ps).rd fld = s.rd fld :=
  congrArg (fun w : Words => w.rd fld) (State.reannounce_parts s ps).2.1

@[simp] theorem State.split_parts (s : State) (on : Bool) :
    (s.split on).pending = s.pending ∧ (s.split on).words = s.words ∧ (s.split on).latch = s.latch ∧ (s.split on).ctrs = s.ctrs ∧ (s.split on).now = s.now ∧ (s.split on).free = s.free ∧ (s.split on).pon = s.pon ∧ (s.split on).act = s.act ∧ (s.split on).whf = s.whf ∧ (s.split on).cpg = s.cpg ∧ (s.split on).keys = s.keys ∧ (s.split on).pm = s.pm ∧ (s.split on).stw = s.stw ∧ (s.split on).twn = s.twn ∧ (s.split on).ldg = s.ldg ∧ (s.split on).eng = s.eng ∧ (s.split on).fwd = s.fwd ∧ (s.split on).hrl = s.hrl ∧ (s.split on).shl = s.shl ∧ (s.split on).tly = s.tly ∧ (s.split on).wdn = s.wdn ∧ (s.split on).boot = s.boot ∧ (s.split on).hst = s.hst ∧ (s.split on).rdata = s.rdata := by
  have h := State.split_within (K := (· ∈ ([.flt] : List Part))) (within_refl s) on (by simp)
  exact ⟨h.pending, h.words.resolve_left (by simp), h.latch.resolve_left (by simp), h.ctrs.resolve_left (by simp), h.now.resolve_left (by simp), h.free.resolve_left (by simp), h.pon.resolve_left (by simp), h.act.resolve_left (by simp), h.whf.resolve_left (by simp), h.cpg.resolve_left (by simp), h.keys.resolve_left (by simp), h.pm.resolve_left (by simp), h.stw.resolve_left (by simp), h.twn.resolve_left (by simp), h.ldg.resolve_left (by simp), h.eng.resolve_left (by simp), h.fwd.resolve_left (by simp), h.hrl.resolve_left (by simp), h.shl.resolve_left (by simp), h.tly.resolve_left (by simp), h.wdn.resolve_left (by simp), h.boot.resolve_left (by simp), h.hst.resolve_left (by simp), h.rdata.resolve_left (by simp)⟩

@[simp] theorem State.split_rd (s : State) (on : Bool) (fld : Fld) : (s.split on).rd fld = s.rd fld :=
  congrArg (fun w : Words => w.rd fld) (State.split_parts s on).2.1

@[simp] theorem State.setOwn_parts (s : State) (l : List (Fin 32)) :
    (s.setOwn l).pending = s.pending ∧ (s.setOwn l).latch = s.latch ∧ (s.setOwn l).ctrs = s.ctrs ∧ (s.setOwn l).now = s.now ∧ (s.setOwn l).free = s.free ∧ (s.setOwn l).flt = s.flt ∧ (s.setOwn l).pon = s.pon ∧ (s.setOwn l).act = s.act ∧ (s.setOwn l).whf = s.whf ∧ (s.setOwn l).cpg = s.cpg ∧ (s.setOwn l).keys = s.keys ∧ (s.setOwn l).pm = s.pm ∧ (s.setOwn l).stw = s.stw ∧ (s.setOwn l).twn = s.twn ∧ (s.setOwn l).ldg = s.ldg ∧ (s.setOwn l).eng = s.eng ∧ (s.setOwn l).fwd = s.fwd ∧ (s.setOwn l).hrl = s.hrl ∧ (s.setOwn l).shl = s.shl ∧ (s.setOwn l).tly = s.tly ∧ (s.setOwn l).wdn = s.wdn ∧ (s.setOwn l).boot = s.boot ∧ (s.setOwn l).hst = s.hst ∧ (s.setOwn l).rdata = s.rdata := by
  have h := State.setOwn_within (K := (· ∈ ([.words] : List Part))) (within_refl s) l (by simp)
  exact ⟨h.pending, h.latch.resolve_left (by simp), h.ctrs.resolve_left (by simp), h.now.resolve_left (by simp), h.free.resolve_left (by simp), h.flt.resolve_left (by simp), h.pon.resolve_left (by simp), h.act.resolve_left (by simp), h.whf.resolve_left (by simp), h.cpg.resolve_left (by simp), h.keys.resolve_left (by simp), h.pm.resolve_left (by simp), h.stw.resolve_left (by simp), h.twn.resolve_left (by simp), h.ldg.resolve_left (by simp), h.eng.resolve_left (by simp), h.fwd.resolve_left (by simp), h.hrl.resolve_left (by simp), h.shl.resolve_left (by simp), h.tly.resolve_left (by simp), h.wdn.resolve_left (by simp), h.boot.resolve_left (by simp), h.hst.resolve_left (by simp), h.rdata.resolve_left (by simp)⟩

@[simp] theorem State.redecide_parts (s : State) :
    (s.redecide).pending = s.pending ∧ (s.redecide).latch = s.latch ∧ (s.redecide).ctrs = s.ctrs ∧ (s.redecide).now = s.now ∧ (s.redecide).free = s.free ∧ (s.redecide).pon = s.pon ∧ (s.redecide).act = s.act ∧ (s.redecide).whf = s.whf ∧ (s.redecide).cpg = s.cpg ∧ (s.redecide).keys = s.keys ∧ (s.redecide).pm = s.pm ∧ (s.redecide).stw = s.stw ∧ (s.redecide).ldg = s.ldg ∧ (s.redecide).eng = s.eng ∧ (s.redecide).fwd = s.fwd ∧ (s.redecide).hrl = s.hrl ∧ (s.redecide).shl = s.shl ∧ (s.redecide).tly = s.tly ∧ (s.redecide).wdn = s.wdn ∧ (s.redecide).boot = s.boot ∧ (s.redecide).hst = s.hst ∧ (s.redecide).rdata = s.rdata := by
  have h := State.redecide_within (K := (· ∈ ([.words, .flt, .twn] : List Part))) (within_refl s)  (by simp) (by simp) (by simp)
  exact ⟨h.pending, h.latch.resolve_left (by simp), h.ctrs.resolve_left (by simp), h.now.resolve_left (by simp), h.free.resolve_left (by simp), h.pon.resolve_left (by simp), h.act.resolve_left (by simp), h.whf.resolve_left (by simp), h.cpg.resolve_left (by simp), h.keys.resolve_left (by simp), h.pm.resolve_left (by simp), h.stw.resolve_left (by simp), h.ldg.resolve_left (by simp), h.eng.resolve_left (by simp), h.fwd.resolve_left (by simp), h.hrl.resolve_left (by simp), h.shl.resolve_left (by simp), h.tly.resolve_left (by simp), h.wdn.resolve_left (by simp), h.boot.resolve_left (by simp), h.hst.resolve_left (by simp), h.rdata.resolve_left (by simp)⟩

@[simp] theorem State.twnDone_parts (s : State) (code : Nat) :
    (s.twnDone code).pending = s.pending ∧ (s.twnDone code).latch = s.latch ∧ (s.twnDone code).ctrs = s.ctrs ∧ (s.twnDone code).now = s.now ∧ (s.twnDone code).free = s.free ∧ (s.twnDone code).flt = s.flt ∧ (s.twnDone code).pon = s.pon ∧ (s.twnDone code).act = s.act ∧ (s.twnDone code).whf = s.whf ∧ (s.twnDone code).cpg = s.cpg ∧ (s.twnDone code).keys = s.keys ∧ (s.twnDone code).pm = s.pm ∧ (s.twnDone code).stw = s.stw ∧ (s.twnDone code).ldg = s.ldg ∧ (s.twnDone code).eng = s.eng ∧ (s.twnDone code).fwd = s.fwd ∧ (s.twnDone code).hrl = s.hrl ∧ (s.twnDone code).shl = s.shl ∧ (s.twnDone code).tly = s.tly ∧ (s.twnDone code).wdn = s.wdn ∧ (s.twnDone code).boot = s.boot ∧ (s.twnDone code).rdata = s.rdata := by
  have h := State.twnDone_within (K := (· ∈ ([.words, .twn, .hst] : List Part))) (within_refl s) code (by simp) (by simp) (by simp)
  exact ⟨h.pending, h.latch.resolve_left (by simp), h.ctrs.resolve_left (by simp), h.now.resolve_left (by simp), h.free.resolve_left (by simp), h.flt.resolve_left (by simp), h.pon.resolve_left (by simp), h.act.resolve_left (by simp), h.whf.resolve_left (by simp), h.cpg.resolve_left (by simp), h.keys.resolve_left (by simp), h.pm.resolve_left (by simp), h.stw.resolve_left (by simp), h.ldg.resolve_left (by simp), h.eng.resolve_left (by simp), h.fwd.resolve_left (by simp), h.hrl.resolve_left (by simp), h.shl.resolve_left (by simp), h.tly.resolve_left (by simp), h.wdn.resolve_left (by simp), h.boot.resolve_left (by simp), h.rdata.resolve_left (by simp)⟩

@[simp] theorem State.release_parts (s : State) (num : Nat) (trees : List (Fin 32)) (cmd : Bool) :
    (s.release num trees cmd).pending = s.pending ∧ (s.release num trees cmd).words = s.words ∧ (s.release num trees cmd).latch = s.latch ∧ (s.release num trees cmd).ctrs = s.ctrs ∧ (s.release num trees cmd).now = s.now ∧ (s.release num trees cmd).free = s.free ∧ (s.release num trees cmd).flt = s.flt ∧ (s.release num trees cmd).pon = s.pon ∧ (s.release num trees cmd).act = s.act ∧ (s.release num trees cmd).whf = s.whf ∧ (s.release num trees cmd).cpg = s.cpg ∧ (s.release num trees cmd).keys = s.keys ∧ (s.release num trees cmd).pm = s.pm ∧ (s.release num trees cmd).stw = s.stw ∧ (s.release num trees cmd).ldg = s.ldg ∧ (s.release num trees cmd).eng = s.eng ∧ (s.release num trees cmd).fwd = s.fwd ∧ (s.release num trees cmd).hrl = s.hrl ∧ (s.release num trees cmd).shl = s.shl ∧ (s.release num trees cmd).tly = s.tly ∧ (s.release num trees cmd).wdn = s.wdn ∧ (s.release num trees cmd).boot = s.boot ∧ (s.release num trees cmd).hst = s.hst ∧ (s.release num trees cmd).rdata = s.rdata := by
  have h := State.release_within (K := (· ∈ ([.twn] : List Part))) (within_refl s) num trees cmd (by simp)
  exact ⟨h.pending, h.words.resolve_left (by simp), h.latch.resolve_left (by simp), h.ctrs.resolve_left (by simp), h.now.resolve_left (by simp), h.free.resolve_left (by simp), h.flt.resolve_left (by simp), h.pon.resolve_left (by simp), h.act.resolve_left (by simp), h.whf.resolve_left (by simp), h.cpg.resolve_left (by simp), h.keys.resolve_left (by simp), h.pm.resolve_left (by simp), h.stw.resolve_left (by simp), h.ldg.resolve_left (by simp), h.eng.resolve_left (by simp), h.fwd.resolve_left (by simp), h.hrl.resolve_left (by simp), h.shl.resolve_left (by simp), h.tly.resolve_left (by simp), h.wdn.resolve_left (by simp), h.boot.resolve_left (by simp), h.hst.resolve_left (by simp), h.rdata.resolve_left (by simp)⟩

@[simp] theorem State.release_rd (s : State) (num : Nat) (trees : List (Fin 32)) (cmd : Bool) (fld : Fld) : (s.release num trees cmd).rd fld = s.rd fld :=
  congrArg (fun w : Words => w.rd fld) (State.release_parts s num trees cmd).2.1

@[simp] theorem State.storeLive_parts (s : State) :
    (s.storeLive).pending = s.pending ∧ (s.storeLive).latch = s.latch ∧ (s.storeLive).ctrs = s.ctrs ∧ (s.storeLive).now = s.now ∧ (s.storeLive).free = s.free ∧ (s.storeLive).flt = s.flt ∧ (s.storeLive).pon = s.pon ∧ (s.storeLive).act = s.act ∧ (s.storeLive).whf = s.whf ∧ (s.storeLive).cpg = s.cpg ∧ (s.storeLive).keys = s.keys ∧ (s.storeLive).pm = s.pm ∧ (s.storeLive).stw = s.stw ∧ (s.storeLive).twn = s.twn ∧ (s.storeLive).ldg = s.ldg ∧ (s.storeLive).eng = s.eng ∧ (s.storeLive).fwd = s.fwd ∧ (s.storeLive).hrl = s.hrl ∧ (s.storeLive).shl = s.shl ∧ (s.storeLive).tly = s.tly ∧ (s.storeLive).wdn = s.wdn ∧ (s.storeLive).boot = s.boot ∧ (s.storeLive).hst = s.hst ∧ (s.storeLive).rdata = s.rdata := by
  have h := State.storeLive_within (K := (· ∈ ([.words] : List Part))) (within_refl s)  (by simp)
  exact ⟨h.pending, h.latch.resolve_left (by simp), h.ctrs.resolve_left (by simp), h.now.resolve_left (by simp), h.free.resolve_left (by simp), h.flt.resolve_left (by simp), h.pon.resolve_left (by simp), h.act.resolve_left (by simp), h.whf.resolve_left (by simp), h.cpg.resolve_left (by simp), h.keys.resolve_left (by simp), h.pm.resolve_left (by simp), h.stw.resolve_left (by simp), h.twn.resolve_left (by simp), h.ldg.resolve_left (by simp), h.eng.resolve_left (by simp), h.fwd.resolve_left (by simp), h.hrl.resolve_left (by simp), h.shl.resolve_left (by simp), h.tly.resolve_left (by simp), h.wdn.resolve_left (by simp), h.boot.resolve_left (by simp), h.hst.resolve_left (by simp), h.rdata.resolve_left (by simp)⟩

@[simp] theorem State.epochRef_parts (s : State) (e : Nat) :
    (s.epochRef e).pending = s.pending ∧ (s.epochRef e).latch = s.latch ∧ (s.epochRef e).ctrs = s.ctrs ∧ (s.epochRef e).now = s.now ∧ (s.epochRef e).free = s.free ∧ (s.epochRef e).flt = s.flt ∧ (s.epochRef e).pon = s.pon ∧ (s.epochRef e).act = s.act ∧ (s.epochRef e).whf = s.whf ∧ (s.epochRef e).cpg = s.cpg ∧ (s.epochRef e).keys = s.keys ∧ (s.epochRef e).pm = s.pm ∧ (s.epochRef e).stw = s.stw ∧ (s.epochRef e).twn = s.twn ∧ (s.epochRef e).ldg = s.ldg ∧ (s.epochRef e).eng = s.eng ∧ (s.epochRef e).fwd = s.fwd ∧ (s.epochRef e).hrl = s.hrl ∧ (s.epochRef e).shl = s.shl ∧ (s.epochRef e).tly = s.tly ∧ (s.epochRef e).wdn = s.wdn ∧ (s.epochRef e).boot = s.boot ∧ (s.epochRef e).hst = s.hst ∧ (s.epochRef e).rdata = s.rdata := by
  have h := State.epochRef_within (K := (· ∈ ([.words] : List Part))) (within_refl s) e (by simp)
  exact ⟨h.pending, h.latch.resolve_left (by simp), h.ctrs.resolve_left (by simp), h.now.resolve_left (by simp), h.free.resolve_left (by simp), h.flt.resolve_left (by simp), h.pon.resolve_left (by simp), h.act.resolve_left (by simp), h.whf.resolve_left (by simp), h.cpg.resolve_left (by simp), h.keys.resolve_left (by simp), h.pm.resolve_left (by simp), h.stw.resolve_left (by simp), h.twn.resolve_left (by simp), h.ldg.resolve_left (by simp), h.eng.resolve_left (by simp), h.fwd.resolve_left (by simp), h.hrl.resolve_left (by simp), h.shl.resolve_left (by simp), h.tly.resolve_left (by simp), h.wdn.resolve_left (by simp), h.boot.resolve_left (by simp), h.hst.resolve_left (by simp), h.rdata.resolve_left (by simp)⟩

@[simp] theorem State.epochUnref_parts (s : State) (e : Nat) :
    (s.epochUnref e).pending = s.pending ∧ (s.epochUnref e).latch = s.latch ∧ (s.epochUnref e).ctrs = s.ctrs ∧ (s.epochUnref e).now = s.now ∧ (s.epochUnref e).free = s.free ∧ (s.epochUnref e).flt = s.flt ∧ (s.epochUnref e).pon = s.pon ∧ (s.epochUnref e).act = s.act ∧ (s.epochUnref e).whf = s.whf ∧ (s.epochUnref e).cpg = s.cpg ∧ (s.epochUnref e).keys = s.keys ∧ (s.epochUnref e).pm = s.pm ∧ (s.epochUnref e).stw = s.stw ∧ (s.epochUnref e).twn = s.twn ∧ (s.epochUnref e).ldg = s.ldg ∧ (s.epochUnref e).eng = s.eng ∧ (s.epochUnref e).fwd = s.fwd ∧ (s.epochUnref e).hrl = s.hrl ∧ (s.epochUnref e).shl = s.shl ∧ (s.epochUnref e).tly = s.tly ∧ (s.epochUnref e).wdn = s.wdn ∧ (s.epochUnref e).boot = s.boot ∧ (s.epochUnref e).hst = s.hst ∧ (s.epochUnref e).rdata = s.rdata := by
  have h := State.epochUnref_within (K := (· ∈ ([.words] : List Part))) (within_refl s) e (by simp)
  exact ⟨h.pending, h.latch.resolve_left (by simp), h.ctrs.resolve_left (by simp), h.now.resolve_left (by simp), h.free.resolve_left (by simp), h.flt.resolve_left (by simp), h.pon.resolve_left (by simp), h.act.resolve_left (by simp), h.whf.resolve_left (by simp), h.cpg.resolve_left (by simp), h.keys.resolve_left (by simp), h.pm.resolve_left (by simp), h.stw.resolve_left (by simp), h.twn.resolve_left (by simp), h.ldg.resolve_left (by simp), h.eng.resolve_left (by simp), h.fwd.resolve_left (by simp), h.hrl.resolve_left (by simp), h.shl.resolve_left (by simp), h.tly.resolve_left (by simp), h.wdn.resolve_left (by simp), h.boot.resolve_left (by simp), h.hst.resolve_left (by simp), h.rdata.resolve_left (by simp)⟩

@[simp] theorem State.cellsEcc_parts (s : State) (ecc : List (Nat × Bool)) :
    (s.cellsEcc ecc).pending = s.pending ∧ (s.cellsEcc ecc).words = s.words ∧ (s.cellsEcc ecc).latch = s.latch ∧ (s.cellsEcc ecc).now = s.now ∧ (s.cellsEcc ecc).free = s.free ∧ (s.cellsEcc ecc).pon = s.pon ∧ (s.cellsEcc ecc).act = s.act ∧ (s.cellsEcc ecc).whf = s.whf ∧ (s.cellsEcc ecc).cpg = s.cpg ∧ (s.cellsEcc ecc).keys = s.keys ∧ (s.cellsEcc ecc).pm = s.pm ∧ (s.cellsEcc ecc).stw = s.stw ∧ (s.cellsEcc ecc).twn = s.twn ∧ (s.cellsEcc ecc).eng = s.eng ∧ (s.cellsEcc ecc).fwd = s.fwd ∧ (s.cellsEcc ecc).hrl = s.hrl ∧ (s.cellsEcc ecc).shl = s.shl ∧ (s.cellsEcc ecc).wdn = s.wdn ∧ (s.cellsEcc ecc).boot = s.boot ∧ (s.cellsEcc ecc).hst = s.hst ∧ (s.cellsEcc ecc).rdata = s.rdata := by
  have h := State.cellsEcc_within (K := (· ∈ ([.ctrs, .flt, .ldg, .tly] : List Part))) (within_refl s) ecc (by simp) (by simp) (by simp) (by simp)
  exact ⟨h.pending, h.words.resolve_left (by simp), h.latch.resolve_left (by simp), h.now.resolve_left (by simp), h.free.resolve_left (by simp), h.pon.resolve_left (by simp), h.act.resolve_left (by simp), h.whf.resolve_left (by simp), h.cpg.resolve_left (by simp), h.keys.resolve_left (by simp), h.pm.resolve_left (by simp), h.stw.resolve_left (by simp), h.twn.resolve_left (by simp), h.eng.resolve_left (by simp), h.fwd.resolve_left (by simp), h.hrl.resolve_left (by simp), h.shl.resolve_left (by simp), h.wdn.resolve_left (by simp), h.boot.resolve_left (by simp), h.hst.resolve_left (by simp), h.rdata.resolve_left (by simp)⟩

@[simp] theorem State.cellsEcc_rd (s : State) (ecc : List (Nat × Bool)) (fld : Fld) : (s.cellsEcc ecc).rd fld = s.rd fld :=
  congrArg (fun w : Words => w.rd fld) (State.cellsEcc_parts s ecc).2.1

@[simp] theorem State.ldgDone_parts (s : State) (k : Nat) (c : LCode) (i : Option Nat) :
    (s.ldgDone k c i).pending = s.pending ∧ (s.ldgDone k c i).latch = s.latch ∧ (s.ldgDone k c i).now = s.now ∧ (s.ldgDone k c i).flt = s.flt ∧ (s.ldgDone k c i).pon = s.pon ∧ (s.ldgDone k c i).act = s.act ∧ (s.ldgDone k c i).whf = s.whf ∧ (s.ldgDone k c i).cpg = s.cpg ∧ (s.ldgDone k c i).keys = s.keys ∧ (s.ldgDone k c i).pm = s.pm ∧ (s.ldgDone k c i).stw = s.stw ∧ (s.ldgDone k c i).twn = s.twn ∧ (s.ldgDone k c i).ldg = s.ldg ∧ (s.ldgDone k c i).eng = s.eng ∧ (s.ldgDone k c i).fwd = s.fwd ∧ (s.ldgDone k c i).hrl = s.hrl ∧ (s.ldgDone k c i).shl = s.shl ∧ (s.ldgDone k c i).wdn = s.wdn ∧ (s.ldgDone k c i).boot = s.boot ∧ (s.ldgDone k c i).rdata = s.rdata := by
  have h := State.ldgDone_within (K := (· ∈ ([.words, .ctrs, .free, .tly, .hst] : List Part))) (within_refl s) k c i (by simp) (by simp) (by simp) (by simp) (by simp)
  exact ⟨h.pending, h.latch.resolve_left (by simp), h.now.resolve_left (by simp), h.flt.resolve_left (by simp), h.pon.resolve_left (by simp), h.act.resolve_left (by simp), h.whf.resolve_left (by simp), h.cpg.resolve_left (by simp), h.keys.resolve_left (by simp), h.pm.resolve_left (by simp), h.stw.resolve_left (by simp), h.twn.resolve_left (by simp), h.ldg.resolve_left (by simp), h.eng.resolve_left (by simp), h.fwd.resolve_left (by simp), h.hrl.resolve_left (by simp), h.shl.resolve_left (by simp), h.wdn.resolve_left (by simp), h.boot.resolve_left (by simp), h.rdata.resolve_left (by simp)⟩

@[simp] theorem State.overrun_parts (s : State) (src : Source) (addr : Nat) :
    (s.overrun src addr).pending = s.pending ∧ (s.overrun src addr).words = s.words ∧ (s.overrun src addr).latch = s.latch ∧ (s.overrun src addr).ctrs = s.ctrs ∧ (s.overrun src addr).now = s.now ∧ (s.overrun src addr).free = s.free ∧ (s.overrun src addr).pon = s.pon ∧ (s.overrun src addr).act = s.act ∧ (s.overrun src addr).whf = s.whf ∧ (s.overrun src addr).cpg = s.cpg ∧ (s.overrun src addr).keys = s.keys ∧ (s.overrun src addr).pm = s.pm ∧ (s.overrun src addr).stw = s.stw ∧ (s.overrun src addr).twn = s.twn ∧ (s.overrun src addr).ldg = s.ldg ∧ (s.overrun src addr).eng = s.eng ∧ (s.overrun src addr).hrl = s.hrl ∧ (s.overrun src addr).shl = s.shl ∧ (s.overrun src addr).tly = s.tly ∧ (s.overrun src addr).wdn = s.wdn ∧ (s.overrun src addr).boot = s.boot ∧ (s.overrun src addr).hst = s.hst ∧ (s.overrun src addr).rdata = s.rdata := by
  have h := State.overrun_within (K := (· ∈ ([.flt, .fwd] : List Part))) (within_refl s) src addr (by simp) (by simp)
  exact ⟨h.pending, h.words.resolve_left (by simp), h.latch.resolve_left (by simp), h.ctrs.resolve_left (by simp), h.now.resolve_left (by simp), h.free.resolve_left (by simp), h.pon.resolve_left (by simp), h.act.resolve_left (by simp), h.whf.resolve_left (by simp), h.cpg.resolve_left (by simp), h.keys.resolve_left (by simp), h.pm.resolve_left (by simp), h.stw.resolve_left (by simp), h.twn.resolve_left (by simp), h.ldg.resolve_left (by simp), h.eng.resolve_left (by simp), h.hrl.resolve_left (by simp), h.shl.resolve_left (by simp), h.tly.resolve_left (by simp), h.wdn.resolve_left (by simp), h.boot.resolve_left (by simp), h.hst.resolve_left (by simp), h.rdata.resolve_left (by simp)⟩

@[simp] theorem State.overrun_rd (s : State) (src : Source) (addr : Nat) (fld : Fld) : (s.overrun src addr).rd fld = s.rd fld :=
  congrArg (fun w : Words => w.rd fld) (State.overrun_parts s src addr).2.1

@[simp] theorem State.markNoGuild_parts (s : State) (c : Nat) :
    (s.markNoGuild c).pending = s.pending ∧ (s.markNoGuild c).latch = s.latch ∧ (s.markNoGuild c).ctrs = s.ctrs ∧ (s.markNoGuild c).now = s.now ∧ (s.markNoGuild c).free = s.free ∧ (s.markNoGuild c).pon = s.pon ∧ (s.markNoGuild c).act = s.act ∧ (s.markNoGuild c).whf = s.whf ∧ (s.markNoGuild c).cpg = s.cpg ∧ (s.markNoGuild c).keys = s.keys ∧ (s.markNoGuild c).pm = s.pm ∧ (s.markNoGuild c).stw = s.stw ∧ (s.markNoGuild c).twn = s.twn ∧ (s.markNoGuild c).ldg = s.ldg ∧ (s.markNoGuild c).eng = s.eng ∧ (s.markNoGuild c).fwd = s.fwd ∧ (s.markNoGuild c).hrl = s.hrl ∧ (s.markNoGuild c).shl = s.shl ∧ (s.markNoGuild c).tly = s.tly ∧ (s.markNoGuild c).wdn = s.wdn ∧ (s.markNoGuild c).boot = s.boot ∧ (s.markNoGuild c).hst = s.hst ∧ (s.markNoGuild c).rdata = s.rdata := by
  have h := State.markNoGuild_within (K := (· ∈ ([.words, .flt] : List Part))) (within_refl s) c (by simp) (by simp)
  exact ⟨h.pending, h.latch.resolve_left (by simp), h.ctrs.resolve_left (by simp), h.now.resolve_left (by simp), h.free.resolve_left (by simp), h.pon.resolve_left (by simp), h.act.resolve_left (by simp), h.whf.resolve_left (by simp), h.cpg.resolve_left (by simp), h.keys.resolve_left (by simp), h.pm.resolve_left (by simp), h.stw.resolve_left (by simp), h.twn.resolve_left (by simp), h.ldg.resolve_left (by simp), h.eng.resolve_left (by simp), h.fwd.resolve_left (by simp), h.hrl.resolve_left (by simp), h.shl.resolve_left (by simp), h.tly.resolve_left (by simp), h.wdn.resolve_left (by simp), h.boot.resolve_left (by simp), h.hst.resolve_left (by simp), h.rdata.resolve_left (by simp)⟩

@[simp] theorem State.dropDesc_parts (s : State) (d : Desc) :
    (s.dropDesc d).pending = s.pending ∧ (s.dropDesc d).latch = s.latch ∧ (s.dropDesc d).now = s.now ∧ (s.dropDesc d).free = s.free ∧ (s.dropDesc d).pon = s.pon ∧ (s.dropDesc d).act = s.act ∧ (s.dropDesc d).whf = s.whf ∧ (s.dropDesc d).keys = s.keys ∧ (s.dropDesc d).pm = s.pm ∧ (s.dropDesc d).stw = s.stw ∧ (s.dropDesc d).twn = s.twn ∧ (s.dropDesc d).ldg = s.ldg ∧ (s.dropDesc d).eng = s.eng ∧ (s.dropDesc d).fwd = s.fwd ∧ (s.dropDesc d).hrl = s.hrl ∧ (s.dropDesc d).shl = s.shl ∧ (s.dropDesc d).wdn = s.wdn ∧ (s.dropDesc d).boot = s.boot ∧ (s.dropDesc d).hst = s.hst ∧ (s.dropDesc d).rdata = s.rdata := by
  have h := State.dropDesc_within (K := (· ∈ ([.words, .ctrs, .flt, .cpg, .tly] : List Part))) (within_refl s) d (by simp) (by simp) (by simp) (by simp) (by simp)
  exact ⟨h.pending, h.latch.resolve_left (by simp), h.now.resolve_left (by simp), h.free.resolve_left (by simp), h.pon.resolve_left (by simp), h.act.resolve_left (by simp), h.whf.resolve_left (by simp), h.keys.resolve_left (by simp), h.pm.resolve_left (by simp), h.stw.resolve_left (by simp), h.twn.resolve_left (by simp), h.ldg.resolve_left (by simp), h.eng.resolve_left (by simp), h.fwd.resolve_left (by simp), h.hrl.resolve_left (by simp), h.shl.resolve_left (by simp), h.wdn.resolve_left (by simp), h.boot.resolve_left (by simp), h.hst.resolve_left (by simp), h.rdata.resolve_left (by simp)⟩

@[simp] theorem State.storeInFlight_parts (s : State) :
    (s.storeInFlight).pending = s.pending ∧ (s.storeInFlight).latch = s.latch ∧ (s.storeInFlight).ctrs = s.ctrs ∧ (s.storeInFlight).now = s.now ∧ (s.storeInFlight).free = s.free ∧ (s.storeInFlight).flt = s.flt ∧ (s.storeInFlight).pon = s.pon ∧ (s.storeInFlight).act = s.act ∧ (s.storeInFlight).whf = s.whf ∧ (s.storeInFlight).cpg = s.cpg ∧ (s.storeInFlight).keys = s.keys ∧ (s.storeInFlight).pm = s.pm ∧ (s.storeInFlight).stw = s.stw ∧ (s.storeInFlight).twn = s.twn ∧ (s.storeInFlight).ldg = s.ldg ∧ (s.storeInFlight).eng = s.eng ∧ (s.storeInFlight).fwd = s.fwd ∧ (s.storeInFlight).hrl = s.hrl ∧ (s.storeInFlight).shl = s.shl ∧ (s.storeInFlight).tly = s.tly ∧ (s.storeInFlight).wdn = s.wdn ∧ (s.storeInFlight).boot = s.boot ∧ (s.storeInFlight).hst = s.hst ∧ (s.storeInFlight).rdata = s.rdata := by
  have h := State.storeInFlight_within (K := (· ∈ ([.words] : List Part))) (within_refl s)  (by simp)
  exact ⟨h.pending, h.latch.resolve_left (by simp), h.ctrs.resolve_left (by simp), h.now.resolve_left (by simp), h.free.resolve_left (by simp), h.flt.resolve_left (by simp), h.pon.resolve_left (by simp), h.act.resolve_left (by simp), h.whf.resolve_left (by simp), h.cpg.resolve_left (by simp), h.keys.resolve_left (by simp), h.pm.resolve_left (by simp), h.stw.resolve_left (by simp), h.twn.resolve_left (by simp), h.ldg.resolve_left (by simp), h.eng.resolve_left (by simp), h.fwd.resolve_left (by simp), h.hrl.resolve_left (by simp), h.shl.resolve_left (by simp), h.tly.resolve_left (by simp), h.wdn.resolve_left (by simp), h.boot.resolve_left (by simp), h.hst.resolve_left (by simp), h.rdata.resolve_left (by simp)⟩

@[simp] theorem State.modFlight_parts (s : State) (id : Nat) (f : Flight → Flight) :
    (s.modFlight id f).pending = s.pending ∧ (s.modFlight id f).words = s.words ∧ (s.modFlight id f).latch = s.latch ∧ (s.modFlight id f).ctrs = s.ctrs ∧ (s.modFlight id f).now = s.now ∧ (s.modFlight id f).free = s.free ∧ (s.modFlight id f).flt = s.flt ∧ (s.modFlight id f).pon = s.pon ∧ (s.modFlight id f).act = s.act ∧ (s.modFlight id f).whf = s.whf ∧ (s.modFlight id f).cpg = s.cpg ∧ (s.modFlight id f).keys = s.keys ∧ (s.modFlight id f).pm = s.pm ∧ (s.modFlight id f).stw = s.stw ∧ (s.modFlight id f).twn = s.twn ∧ (s.modFlight id f).ldg = s.ldg ∧ (s.modFlight id f).eng = s.eng ∧ (s.modFlight id f).hrl = s.hrl ∧ (s.modFlight id f).shl = s.shl ∧ (s.modFlight id f).tly = s.tly ∧ (s.modFlight id f).wdn = s.wdn ∧ (s.modFlight id f).boot = s.boot ∧ (s.modFlight id f).hst = s.hst ∧ (s.modFlight id f).rdata = s.rdata := by
  have h := State.modFlight_within (K := (· ∈ ([.fwd] : List Part))) (within_refl s) id f (by simp)
  exact ⟨h.pending, h.words.resolve_left (by simp), h.latch.resolve_left (by simp), h.ctrs.resolve_left (by simp), h.now.resolve_left (by simp), h.free.resolve_left (by simp), h.flt.resolve_left (by simp), h.pon.resolve_left (by simp), h.act.resolve_left (by simp), h.whf.resolve_left (by simp), h.cpg.resolve_left (by simp), h.keys.resolve_left (by simp), h.pm.resolve_left (by simp), h.stw.resolve_left (by simp), h.twn.resolve_left (by simp), h.ldg.resolve_left (by simp), h.eng.resolve_left (by simp), h.hrl.resolve_left (by simp), h.shl.resolve_left (by simp), h.tly.resolve_left (by simp), h.wdn.resolve_left (by simp), h.boot.resolve_left (by simp), h.hst.resolve_left (by simp), h.rdata.resolve_left (by simp)⟩

@[simp] theorem State.modFlight_rd (s : State) (id : Nat) (f : Flight → Flight) (fld : Fld) : (s.modFlight id f).rd fld = s.rd fld :=
  congrArg (fun w : Words => w.rd fld) (State.modFlight_parts s id f).2.1

@[simp] theorem State.startPass_parts (s : State) (id : Nat) (d : Desc) (at_ : Nat × Nat × Nat) :
    (s.startPass id d at_).pending = s.pending ∧ (s.startPass id d at_).words = s.words ∧ (s.startPass id d at_).latch = s.latch ∧ (s.startPass id d at_).ctrs = s.ctrs ∧ (s.startPass id d at_).now = s.now ∧ (s.startPass id d at_).free = s.free ∧ (s.startPass id d at_).flt = s.flt ∧ (s.startPass id d at_).pon = s.pon ∧ (s.startPass id d at_).act = s.act ∧ (s.startPass id d at_).whf = s.whf ∧ (s.startPass id d at_).cpg = s.cpg ∧ (s.startPass id d at_).keys = s.keys ∧ (s.startPass id d at_).pm = s.pm ∧ (s.startPass id d at_).stw = s.stw ∧ (s.startPass id d at_).twn = s.twn ∧ (s.startPass id d at_).ldg = s.ldg ∧ (s.startPass id d at_).hrl = s.hrl ∧ (s.startPass id d at_).shl = s.shl ∧ (s.startPass id d at_).tly = s.tly ∧ (s.startPass id d at_).boot = s.boot ∧ (s.startPass id d at_).hst = s.hst ∧ (s.startPass id d at_).rdata = s.rdata := by
  have h := State.startPass_within (K := (· ∈ ([.eng, .fwd, .wdn] : List Part))) (within_refl s) id d at_ (by simp) (by simp) (by simp)
  exact ⟨h.pending, h.words.resolve_left (by simp), h.latch.resolve_left (by simp), h.ctrs.resolve_left (by simp), h.now.resolve_left (by simp), h.free.resolve_left (by simp), h.flt.resolve_left (by simp), h.pon.resolve_left (by simp), h.act.resolve_left (by simp), h.whf.resolve_left (by simp), h.cpg.resolve_left (by simp), h.keys.resolve_left (by simp), h.pm.resolve_left (by simp), h.stw.resolve_left (by simp), h.twn.resolve_left (by simp), h.ldg.resolve_left (by simp), h.hrl.resolve_left (by simp), h.shl.resolve_left (by simp), h.tly.resolve_left (by simp), h.boot.resolve_left (by simp), h.hst.resolve_left (by simp), h.rdata.resolve_left (by simp)⟩

@[simp] theorem State.startPass_rd (s : State) (id : Nat) (d : Desc) (at_ : Nat × Nat × Nat) (fld : Fld) : (s.startPass id d at_).rd fld = s.rd fld :=
  congrArg (fun w : Words => w.rd fld) (State.startPass_parts s id d at_).2.1

@[simp] theorem State.forget_parts (s : State) (id : Nat) :
    (s.forget id).pending = s.pending ∧ (s.forget id).words = s.words ∧ (s.forget id).latch = s.latch ∧ (s.forget id).ctrs = s.ctrs ∧ (s.forget id).now = s.now ∧ (s.forget id).free = s.free ∧ (s.forget id).flt = s.flt ∧ (s.forget id).pon = s.pon ∧ (s.forget id).act = s.act ∧ (s.forget id).whf = s.whf ∧ (s.forget id).cpg = s.cpg ∧ (s.forget id).keys = s.keys ∧ (s.forget id).pm = s.pm ∧ (s.forget id).stw = s.stw ∧ (s.forget id).twn = s.twn ∧ (s.forget id).ldg = s.ldg ∧ (s.forget id).eng = s.eng ∧ (s.forget id).hrl = s.hrl ∧ (s.forget id).shl = s.shl ∧ (s.forget id).tly = s.tly ∧ (s.forget id).wdn = s.wdn ∧ (s.forget id).boot = s.boot ∧ (s.forget id).hst = s.hst ∧ (s.forget id).rdata = s.rdata := by
  have h := State.forget_within (K := (· ∈ ([.fwd] : List Part))) (within_refl s) id (by simp)
  exact ⟨h.pending, h.words.resolve_left (by simp), h.latch.resolve_left (by simp), h.ctrs.resolve_left (by simp), h.now.resolve_left (by simp), h.free.resolve_left (by simp), h.flt.resolve_left (by simp), h.pon.resolve_left (by simp), h.act.resolve_left (by simp), h.whf.resolve_left (by simp), h.cpg.resolve_left (by simp), h.keys.resolve_left (by simp), h.pm.resolve_left (by simp), h.stw.resolve_left (by simp), h.twn.resolve_left (by simp), h.ldg.resolve_left (by simp), h.eng.resolve_left (by simp), h.hrl.resolve_left (by simp), h.shl.resolve_left (by simp), h.tly.resolve_left (by simp), h.wdn.resolve_left (by simp), h.boot.resolve_left (by simp), h.hst.resolve_left (by simp), h.rdata.resolve_left (by simp)⟩

@[simp] theorem State.forget_rd (s : State) (id : Nat) (fld : Fld) : (s.forget id).rd fld = s.rd fld :=
  congrArg (fun w : Words => w.rd fld) (State.forget_parts s id).2.1

@[simp] theorem State.toEnq_parts (s : State) (x : EnqIn) :
    (s.toEnq x).pending = s.pending ∧ (s.toEnq x).words = s.words ∧ (s.toEnq x).latch = s.latch ∧ (s.toEnq x).ctrs = s.ctrs ∧ (s.toEnq x).now = s.now ∧ (s.toEnq x).free = s.free ∧ (s.toEnq x).flt = s.flt ∧ (s.toEnq x).pon = s.pon ∧ (s.toEnq x).act = s.act ∧ (s.toEnq x).whf = s.whf ∧ (s.toEnq x).cpg = s.cpg ∧ (s.toEnq x).keys = s.keys ∧ (s.toEnq x).pm = s.pm ∧ (s.toEnq x).stw = s.stw ∧ (s.toEnq x).twn = s.twn ∧ (s.toEnq x).ldg = s.ldg ∧ (s.toEnq x).eng = s.eng ∧ (s.toEnq x).hrl = s.hrl ∧ (s.toEnq x).shl = s.shl ∧ (s.toEnq x).tly = s.tly ∧ (s.toEnq x).wdn = s.wdn ∧ (s.toEnq x).boot = s.boot ∧ (s.toEnq x).hst = s.hst ∧ (s.toEnq x).rdata = s.rdata := by
  have h := State.toEnq_within (K := (· ∈ ([.fwd] : List Part))) (within_refl s) x (by simp)
  exact ⟨h.pending, h.words.resolve_left (by simp), h.latch.resolve_left (by simp), h.ctrs.resolve_left (by simp), h.now.resolve_left (by simp), h.free.resolve_left (by simp), h.flt.resolve_left (by simp), h.pon.resolve_left (by simp), h.act.resolve_left (by simp), h.whf.resolve_left (by simp), h.cpg.resolve_left (by simp), h.keys.resolve_left (by simp), h.pm.resolve_left (by simp), h.stw.resolve_left (by simp), h.twn.resolve_left (by simp), h.ldg.resolve_left (by simp), h.eng.resolve_left (by simp), h.hrl.resolve_left (by simp), h.shl.resolve_left (by simp), h.tly.resolve_left (by simp), h.wdn.resolve_left (by simp), h.boot.resolve_left (by simp), h.hst.resolve_left (by simp), h.rdata.resolve_left (by simp)⟩

@[simp] theorem State.toEnq_rd (s : State) (x : EnqIn) (fld : Fld) : (s.toEnq x).rd fld = s.rd fld :=
  congrArg (fun w : Words => w.rd fld) (State.toEnq_parts s x).2.1

@[simp] theorem State.setRef_parts (s : State) (h n : Nat) :
    (s.setRef h n).pending = s.pending ∧ (s.setRef h n).words = s.words ∧ (s.setRef h n).latch = s.latch ∧ (s.setRef h n).ctrs = s.ctrs ∧ (s.setRef h n).now = s.now ∧ (s.setRef h n).free = s.free ∧ (s.setRef h n).flt = s.flt ∧ (s.setRef h n).pon = s.pon ∧ (s.setRef h n).act = s.act ∧ (s.setRef h n).whf = s.whf ∧ (s.setRef h n).keys = s.keys ∧ (s.setRef h n).pm = s.pm ∧ (s.setRef h n).stw = s.stw ∧ (s.setRef h n).twn = s.twn ∧ (s.setRef h n).ldg = s.ldg ∧ (s.setRef h n).eng = s.eng ∧ (s.setRef h n).fwd = s.fwd ∧ (s.setRef h n).hrl = s.hrl ∧ (s.setRef h n).shl = s.shl ∧ (s.setRef h n).tly = s.tly ∧ (s.setRef h n).wdn = s.wdn ∧ (s.setRef h n).boot = s.boot ∧ (s.setRef h n).hst = s.hst ∧ (s.setRef h n).rdata = s.rdata := by
  have h := State.setRef_within (K := (· ∈ ([.cpg] : List Part))) (within_refl s) h n (by simp)
  exact ⟨h.pending, h.words.resolve_left (by simp), h.latch.resolve_left (by simp), h.ctrs.resolve_left (by simp), h.now.resolve_left (by simp), h.free.resolve_left (by simp), h.flt.resolve_left (by simp), h.pon.resolve_left (by simp), h.act.resolve_left (by simp), h.whf.resolve_left (by simp), h.keys.resolve_left (by simp), h.pm.resolve_left (by simp), h.stw.resolve_left (by simp), h.twn.resolve_left (by simp), h.ldg.resolve_left (by simp), h.eng.resolve_left (by simp), h.fwd.resolve_left (by simp), h.hrl.resolve_left (by simp), h.shl.resolve_left (by simp), h.tly.resolve_left (by simp), h.wdn.resolve_left (by simp), h.boot.resolve_left (by simp), h.hst.resolve_left (by simp), h.rdata.resolve_left (by simp)⟩

@[simp] theorem State.setRef_rd (s : State) (h n : Nat) (fld : Fld) : (s.setRef h n).rd fld = s.rd fld :=
  congrArg (fun w : Words => w.rd fld) (State.setRef_parts s h n).2.1

@[simp] theorem State.setLsa_parts (s : State) (serial : Nat) (l : Option Lsa) :
    (s.setLsa serial l).pending = s.pending ∧ (s.setLsa serial l).latch = s.latch ∧ (s.setLsa serial l).ctrs = s.ctrs ∧ (s.setLsa serial l).now = s.now ∧ (s.setLsa serial l).free = s.free ∧ (s.setLsa serial l).flt = s.flt ∧ (s.setLsa serial l).pon = s.pon ∧ (s.setLsa serial l).act = s.act ∧ (s.setLsa serial l).whf = s.whf ∧ (s.setLsa serial l).cpg = s.cpg ∧ (s.setLsa serial l).keys = s.keys ∧ (s.setLsa serial l).pm = s.pm ∧ (s.setLsa serial l).stw = s.stw ∧ (s.setLsa serial l).twn = s.twn ∧ (s.setLsa serial l).ldg = s.ldg ∧ (s.setLsa serial l).eng = s.eng ∧ (s.setLsa serial l).fwd = s.fwd ∧ (s.setLsa serial l).hrl = s.hrl ∧ (s.setLsa serial l).tly = s.tly ∧ (s.setLsa serial l).wdn = s.wdn ∧ (s.setLsa serial l).boot = s.boot ∧ (s.setLsa serial l).hst = s.hst ∧ (s.setLsa serial l).rdata = s.rdata := by
  have h := State.setLsa_within (K := (· ∈ ([.words, .shl] : List Part))) (within_refl s) serial l (by simp) (by simp)
  exact ⟨h.pending, h.latch.resolve_left (by simp), h.ctrs.resolve_left (by simp), h.now.resolve_left (by simp), h.free.resolve_left (by simp), h.flt.resolve_left (by simp), h.pon.resolve_left (by simp), h.act.resolve_left (by simp), h.whf.resolve_left (by simp), h.cpg.resolve_left (by simp), h.keys.resolve_left (by simp), h.pm.resolve_left (by simp), h.stw.resolve_left (by simp), h.twn.resolve_left (by simp), h.ldg.resolve_left (by simp), h.eng.resolve_left (by simp), h.fwd.resolve_left (by simp), h.hrl.resolve_left (by simp), h.tly.resolve_left (by simp), h.wdn.resolve_left (by simp), h.boot.resolve_left (by simp), h.hst.resolve_left (by simp), h.rdata.resolve_left (by simp)⟩

@[simp] theorem State.flood_parts (s : State) (lanes : List Nat) (m : FabMsg) :
    (s.flood lanes m).pending = s.pending ∧ (s.flood lanes m).words = s.words ∧ (s.flood lanes m).latch = s.latch ∧ (s.flood lanes m).ctrs = s.ctrs ∧ (s.flood lanes m).now = s.now ∧ (s.flood lanes m).free = s.free ∧ (s.flood lanes m).flt = s.flt ∧ (s.flood lanes m).pon = s.pon ∧ (s.flood lanes m).act = s.act ∧ (s.flood lanes m).whf = s.whf ∧ (s.flood lanes m).cpg = s.cpg ∧ (s.flood lanes m).keys = s.keys ∧ (s.flood lanes m).pm = s.pm ∧ (s.flood lanes m).stw = s.stw ∧ (s.flood lanes m).twn = s.twn ∧ (s.flood lanes m).ldg = s.ldg ∧ (s.flood lanes m).eng = s.eng ∧ (s.flood lanes m).fwd = s.fwd ∧ (s.flood lanes m).hrl = s.hrl ∧ (s.flood lanes m).tly = s.tly ∧ (s.flood lanes m).wdn = s.wdn ∧ (s.flood lanes m).boot = s.boot ∧ (s.flood lanes m).hst = s.hst ∧ (s.flood lanes m).rdata = s.rdata := by
  have h := State.flood_within (K := (· ∈ ([.shl] : List Part))) (within_refl s) lanes m (by simp)
  exact ⟨h.pending, h.words.resolve_left (by simp), h.latch.resolve_left (by simp), h.ctrs.resolve_left (by simp), h.now.resolve_left (by simp), h.free.resolve_left (by simp), h.flt.resolve_left (by simp), h.pon.resolve_left (by simp), h.act.resolve_left (by simp), h.whf.resolve_left (by simp), h.cpg.resolve_left (by simp), h.keys.resolve_left (by simp), h.pm.resolve_left (by simp), h.stw.resolve_left (by simp), h.twn.resolve_left (by simp), h.ldg.resolve_left (by simp), h.eng.resolve_left (by simp), h.fwd.resolve_left (by simp), h.hrl.resolve_left (by simp), h.tly.resolve_left (by simp), h.wdn.resolve_left (by simp), h.boot.resolve_left (by simp), h.hst.resolve_left (by simp), h.rdata.resolve_left (by simp)⟩

@[simp] theorem State.flood_rd (s : State) (lanes : List Nat) (m : FabMsg) (fld : Fld) : (s.flood lanes m).rd fld = s.rd fld :=
  congrArg (fun w : Words => w.rd fld) (State.flood_parts s lanes m).2.1

@[simp] theorem State.originate_parts (s : State) :
    (s.originate).pending = s.pending ∧ (s.originate).latch = s.latch ∧ (s.originate).now = s.now ∧ (s.originate).free = s.free ∧ (s.originate).flt = s.flt ∧ (s.originate).pon = s.pon ∧ (s.originate).act = s.act ∧ (s.originate).whf = s.whf ∧ (s.originate).cpg = s.cpg ∧ (s.originate).keys = s.keys ∧ (s.originate).pm = s.pm ∧ (s.originate).stw = s.stw ∧ (s.originate).twn = s.twn ∧ (s.originate).ldg = s.ldg ∧ (s.originate).eng = s.eng ∧ (s.originate).fwd = s.fwd ∧ (s.originate).hrl = s.hrl ∧ (s.originate).wdn = s.wdn ∧ (s.originate).boot = s.boot ∧ (s.originate).hst = s.hst ∧ (s.originate).rdata = s.rdata := by
  have h := State.originate_within (K := (· ∈ ([.words, .ctrs, .shl, .tly] : List Part))) (within_refl s)  (by simp) (by simp) (by simp) (by simp)
  exact ⟨h.pending, h.latch.resolve_left (by simp), h.now.resolve_left (by simp), h.free.resolve_left (by simp), h.flt.resolve_left (by simp), h.pon.resolve_left (by simp), h.act.resolve_left (by simp), h.whf.resolve_left (by simp), h.cpg.resolve_left (by simp), h.keys.resolve_left (by simp), h.pm.resolve_left (by simp), h.stw.resolve_left (by simp), h.twn.resolve_left (by simp), h.ldg.resolve_left (by simp), h.eng.resolve_left (by simp), h.fwd.resolve_left (by simp), h.hrl.resolve_left (by simp), h.wdn.resolve_left (by simp), h.boot.resolve_left (by simp), h.hst.resolve_left (by simp), h.rdata.resolve_left (by simp)⟩

@[simp] theorem State.setAddr_parts (s : State) (a : Option Nat) :
    (s.setAddr a).pending = s.pending ∧ (s.setAddr a).latch = s.latch ∧ (s.setAddr a).ctrs = s.ctrs ∧ (s.setAddr a).now = s.now ∧ (s.setAddr a).free = s.free ∧ (s.setAddr a).pon = s.pon ∧ (s.setAddr a).act = s.act ∧ (s.setAddr a).whf = s.whf ∧ (s.setAddr a).cpg = s.cpg ∧ (s.setAddr a).keys = s.keys ∧ (s.setAddr a).pm = s.pm ∧ (s.setAddr a).stw = s.stw ∧ (s.setAddr a).twn = s.twn ∧ (s.setAddr a).ldg = s.ldg ∧ (s.setAddr a).eng = s.eng ∧ (s.setAddr a).fwd = s.fwd ∧ (s.setAddr a).hrl = s.hrl ∧ (s.setAddr a).shl = s.shl ∧ (s.setAddr a).tly = s.tly ∧ (s.setAddr a).wdn = s.wdn ∧ (s.setAddr a).boot = s.boot ∧ (s.setAddr a).hst = s.hst ∧ (s.setAddr a).rdata = s.rdata := by
  have h := State.setAddr_within (K := (· ∈ ([.words, .flt] : List Part))) (within_refl s) a (by simp) (by simp)
  exact ⟨h.pending, h.latch.resolve_left (by simp), h.ctrs.resolve_left (by simp), h.now.resolve_left (by simp), h.free.resolve_left (by simp), h.pon.resolve_left (by simp), h.act.resolve_left (by simp), h.whf.resolve_left (by simp), h.cpg.resolve_left (by simp), h.keys.resolve_left (by simp), h.pm.resolve_left (by simp), h.stw.resolve_left (by simp), h.twn.resolve_left (by simp), h.ldg.resolve_left (by simp), h.eng.resolve_left (by simp), h.fwd.resolve_left (by simp), h.hrl.resolve_left (by simp), h.shl.resolve_left (by simp), h.tly.resolve_left (by simp), h.wdn.resolve_left (by simp), h.boot.resolve_left (by simp), h.hst.resolve_left (by simp), h.rdata.resolve_left (by simp)⟩

@[simp] theorem State.claim_parts (s : State) :
    (s.claim).pending = s.pending ∧ (s.claim).latch = s.latch ∧ (s.claim).now = s.now ∧ (s.claim).free = s.free ∧ (s.claim).pon = s.pon ∧ (s.claim).act = s.act ∧ (s.claim).whf = s.whf ∧ (s.claim).cpg = s.cpg ∧ (s.claim).keys = s.keys ∧ (s.claim).pm = s.pm ∧ (s.claim).stw = s.stw ∧ (s.claim).twn = s.twn ∧ (s.claim).ldg = s.ldg ∧ (s.claim).eng = s.eng ∧ (s.claim).fwd = s.fwd ∧ (s.claim).hrl = s.hrl ∧ (s.claim).wdn = s.wdn ∧ (s.claim).boot = s.boot ∧ (s.claim).hst = s.hst ∧ (s.claim).rdata = s.rdata := by
  have h := State.claim_within (K := (· ∈ ([.words, .ctrs, .flt, .shl, .tly] : List Part))) (within_refl s)  (by simp) (by simp) (by simp) (by simp) (by simp)
  exact ⟨h.pending, h.latch.resolve_left (by simp), h.now.resolve_left (by simp), h.free.resolve_left (by simp), h.pon.resolve_left (by simp), h.act.resolve_left (by simp), h.whf.resolve_left (by simp), h.cpg.resolve_left (by simp), h.keys.resolve_left (by simp), h.pm.resolve_left (by simp), h.stw.resolve_left (by simp), h.twn.resolve_left (by simp), h.ldg.resolve_left (by simp), h.eng.resolve_left (by simp), h.fwd.resolve_left (by simp), h.hrl.resolve_left (by simp), h.wdn.resolve_left (by simp), h.boot.resolve_left (by simp), h.hst.resolve_left (by simp), h.rdata.resolve_left (by simp)⟩

@[simp] theorem State.recompute_parts (s : State) :
    (s.recompute).pending = s.pending ∧ (s.recompute).latch = s.latch ∧ (s.recompute).now = s.now ∧ (s.recompute).free = s.free ∧ (s.recompute).pon = s.pon ∧ (s.recompute).act = s.act ∧ (s.recompute).whf = s.whf ∧ (s.recompute).cpg = s.cpg ∧ (s.recompute).keys = s.keys ∧ (s.recompute).pm = s.pm ∧ (s.recompute).stw = s.stw ∧ (s.recompute).twn = s.twn ∧ (s.recompute).ldg = s.ldg ∧ (s.recompute).eng = s.eng ∧ (s.recompute).fwd = s.fwd ∧ (s.recompute).hrl = s.hrl ∧ (s.recompute).shl = s.shl ∧ (s.recompute).wdn = s.wdn ∧ (s.recompute).boot = s.boot ∧ (s.recompute).hst = s.hst ∧ (s.recompute).rdata = s.rdata := by
  have h := State.recompute_within (K := (· ∈ ([.words, .ctrs, .flt, .tly] : List Part))) (within_refl s)  (by simp) (by simp) (by simp) (by simp)
  exact ⟨h.pending, h.latch.resolve_left (by simp), h.now.resolve_left (by simp), h.free.resolve_left (by simp), h.pon.resolve_left (by simp), h.act.resolve_left (by simp), h.whf.resolve_left (by simp), h.cpg.resolve_left (by simp), h.keys.resolve_left (by simp), h.pm.resolve_left (by simp), h.stw.resolve_left (by simp), h.twn.resolve_left (by simp), h.ldg.resolve_left (by simp), h.eng.resolve_left (by simp), h.fwd.resolve_left (by simp), h.hrl.resolve_left (by simp), h.shl.resolve_left (by simp), h.wdn.resolve_left (by simp), h.boot.resolve_left (by simp), h.hst.resolve_left (by simp), h.rdata.resolve_left (by simp)⟩

@[simp] theorem State.proxyChecks_parts (s : State) (x : EnqIn) :
    (s.proxyChecks x).pending = s.pending ∧ (s.proxyChecks x).words = s.words ∧ (s.proxyChecks x).latch = s.latch ∧ (s.proxyChecks x).now = s.now ∧ (s.proxyChecks x).free = s.free ∧ (s.proxyChecks x).pon = s.pon ∧ (s.proxyChecks x).act = s.act ∧ (s.proxyChecks x).whf = s.whf ∧ (s.proxyChecks x).keys = s.keys ∧ (s.proxyChecks x).pm = s.pm ∧ (s.proxyChecks x).stw = s.stw ∧ (s.proxyChecks x).twn = s.twn ∧ (s.proxyChecks x).ldg = s.ldg ∧ (s.proxyChecks x).eng = s.eng ∧ (s.proxyChecks x).fwd = s.fwd ∧ (s.proxyChecks x).hrl = s.hrl ∧ (s.proxyChecks x).shl = s.shl ∧ (s.proxyChecks x).wdn = s.wdn ∧ (s.proxyChecks x).boot = s.boot ∧ (s.proxyChecks x).hst = s.hst ∧ (s.proxyChecks x).rdata = s.rdata := by
  have h := State.proxyChecks_within (K := (· ∈ ([.ctrs, .flt, .cpg, .tly] : List Part))) (within_refl s) x (by simp) (by simp) (by simp) (by simp)
  exact ⟨h.pending, h.words.resolve_left (by simp), h.latch.resolve_left (by simp), h.now.resolve_left (by simp), h.free.resolve_left (by simp), h.pon.resolve_left (by simp), h.act.resolve_left (by simp), h.whf.resolve_left (by simp), h.keys.resolve_left (by simp), h.pm.resolve_left (by simp), h.stw.resolve_left (by simp), h.twn.resolve_left (by simp), h.ldg.resolve_left (by simp), h.eng.resolve_left (by simp), h.fwd.resolve_left (by simp), h.hrl.resolve_left (by simp), h.shl.resolve_left (by simp), h.wdn.resolve_left (by simp), h.boot.resolve_left (by simp), h.hst.resolve_left (by simp), h.rdata.resolve_left (by simp)⟩

@[simp] theorem State.proxyChecks_rd (s : State) (x : EnqIn) (fld : Fld) : (s.proxyChecks x).rd fld = s.rd fld :=
  congrArg (fun w : Words => w.rd fld) (State.proxyChecks_parts s x).2.1

@[simp] theorem State.goLane_parts (s : State) (n st : Nat) :
    (s.goLane n st).pending = s.pending ∧ (s.goLane n st).latch = s.latch ∧ (s.goLane n st).ctrs = s.ctrs ∧ (s.goLane n st).now = s.now ∧ (s.goLane n st).free = s.free ∧ (s.goLane n st).flt = s.flt ∧ (s.goLane n st).pon = s.pon ∧ (s.goLane n st).act = s.act ∧ (s.goLane n st).whf = s.whf ∧ (s.goLane n st).cpg = s.cpg ∧ (s.goLane n st).keys = s.keys ∧ (s.goLane n st).pm = s.pm ∧ (s.goLane n st).stw = s.stw ∧ (s.goLane n st).twn = s.twn ∧ (s.goLane n st).ldg = s.ldg ∧ (s.goLane n st).eng = s.eng ∧ (s.goLane n st).fwd = s.fwd ∧ (s.goLane n st).hrl = s.hrl ∧ (s.goLane n st).shl = s.shl ∧ (s.goLane n st).tly = s.tly ∧ (s.goLane n st).wdn = s.wdn ∧ (s.goLane n st).boot = s.boot ∧ (s.goLane n st).hst = s.hst ∧ (s.goLane n st).rdata = s.rdata := by
  have h := State.goLane_within (K := (· ∈ ([.words] : List Part))) (within_refl s) n st (by simp)
  exact ⟨h.pending, h.latch.resolve_left (by simp), h.ctrs.resolve_left (by simp), h.now.resolve_left (by simp), h.free.resolve_left (by simp), h.flt.resolve_left (by simp), h.pon.resolve_left (by simp), h.act.resolve_left (by simp), h.whf.resolve_left (by simp), h.cpg.resolve_left (by simp), h.keys.resolve_left (by simp), h.pm.resolve_left (by simp), h.stw.resolve_left (by simp), h.twn.resolve_left (by simp), h.ldg.resolve_left (by simp), h.eng.resolve_left (by simp), h.fwd.resolve_left (by simp), h.hrl.resolve_left (by simp), h.shl.resolve_left (by simp), h.tly.resolve_left (by simp), h.wdn.resolve_left (by simp), h.boot.resolve_left (by simp), h.hst.resolve_left (by simp), h.rdata.resolve_left (by simp)⟩

@[simp] theorem State.linkCtl_parts (s : State) (n : Nat) (m : LinkCtl) :
    (s.linkCtl n m).pending = s.pending ∧ (s.linkCtl n m).words = s.words ∧ (s.linkCtl n m).latch = s.latch ∧ (s.linkCtl n m).ctrs = s.ctrs ∧ (s.linkCtl n m).now = s.now ∧ (s.linkCtl n m).free = s.free ∧ (s.linkCtl n m).flt = s.flt ∧ (s.linkCtl n m).pon = s.pon ∧ (s.linkCtl n m).act = s.act ∧ (s.linkCtl n m).whf = s.whf ∧ (s.linkCtl n m).cpg = s.cpg ∧ (s.linkCtl n m).keys = s.keys ∧ (s.linkCtl n m).pm = s.pm ∧ (s.linkCtl n m).stw = s.stw ∧ (s.linkCtl n m).twn = s.twn ∧ (s.linkCtl n m).ldg = s.ldg ∧ (s.linkCtl n m).eng = s.eng ∧ (s.linkCtl n m).fwd = s.fwd ∧ (s.linkCtl n m).hrl = s.hrl ∧ (s.linkCtl n m).tly = s.tly ∧ (s.linkCtl n m).wdn = s.wdn ∧ (s.linkCtl n m).boot = s.boot ∧ (s.linkCtl n m).hst = s.hst ∧ (s.linkCtl n m).rdata = s.rdata := by
  have h := State.linkCtl_within (K := (· ∈ ([.shl] : List Part))) (within_refl s) n m (by simp)
  exact ⟨h.pending, h.words.resolve_left (by simp), h.latch.resolve_left (by simp), h.ctrs.resolve_left (by simp), h.now.resolve_left (by simp), h.free.resolve_left (by simp), h.flt.resolve_left (by simp), h.pon.resolve_left (by simp), h.act.resolve_left (by simp), h.whf.resolve_left (by simp), h.cpg.resolve_left (by simp), h.keys.resolve_left (by simp), h.pm.resolve_left (by simp), h.stw.resolve_left (by simp), h.twn.resolve_left (by simp), h.ldg.resolve_left (by simp), h.eng.resolve_left (by simp), h.fwd.resolve_left (by simp), h.hrl.resolve_left (by simp), h.tly.resolve_left (by simp), h.wdn.resolve_left (by simp), h.boot.resolve_left (by simp), h.hst.resolve_left (by simp), h.rdata.resolve_left (by simp)⟩

@[simp] theorem State.linkCtl_rd (s : State) (n : Nat) (m : LinkCtl) (fld : Fld) : (s.linkCtl n m).rd fld = s.rd fld :=
  congrArg (fun w : Words => w.rd fld) (State.linkCtl_parts s n m).2.1

@[simp] theorem State.linkCap_parts (s : State) (n : Nat) (ack : Bool) :
    (s.linkCap n ack).pending = s.pending ∧ (s.linkCap n ack).words = s.words ∧ (s.linkCap n ack).latch = s.latch ∧ (s.linkCap n ack).ctrs = s.ctrs ∧ (s.linkCap n ack).now = s.now ∧ (s.linkCap n ack).flt = s.flt ∧ (s.linkCap n ack).pon = s.pon ∧ (s.linkCap n ack).act = s.act ∧ (s.linkCap n ack).whf = s.whf ∧ (s.linkCap n ack).cpg = s.cpg ∧ (s.linkCap n ack).keys = s.keys ∧ (s.linkCap n ack).pm = s.pm ∧ (s.linkCap n ack).stw = s.stw ∧ (s.linkCap n ack).twn = s.twn ∧ (s.linkCap n ack).ldg = s.ldg ∧ (s.linkCap n ack).eng = s.eng ∧ (s.linkCap n ack).fwd = s.fwd ∧ (s.linkCap n ack).hrl = s.hrl ∧ (s.linkCap n ack).tly = s.tly ∧ (s.linkCap n ack).wdn = s.wdn ∧ (s.linkCap n ack).boot = s.boot ∧ (s.linkCap n ack).hst = s.hst ∧ (s.linkCap n ack).rdata = s.rdata := by
  have h := State.linkCap_within (K := (· ∈ ([.free, .shl] : List Part))) (within_refl s) n ack (by simp) (by simp)
  exact ⟨h.pending, h.words.resolve_left (by simp), h.latch.resolve_left (by simp), h.ctrs.resolve_left (by simp), h.now.resolve_left (by simp), h.flt.resolve_left (by simp), h.pon.resolve_left (by simp), h.act.resolve_left (by simp), h.whf.resolve_left (by simp), h.cpg.resolve_left (by simp), h.keys.resolve_left (by simp), h.pm.resolve_left (by simp), h.stw.resolve_left (by simp), h.twn.resolve_left (by simp), h.ldg.resolve_left (by simp), h.eng.resolve_left (by simp), h.fwd.resolve_left (by simp), h.hrl.resolve_left (by simp), h.tly.resolve_left (by simp), h.wdn.resolve_left (by simp), h.boot.resolve_left (by simp), h.hst.resolve_left (by simp), h.rdata.resolve_left (by simp)⟩

@[simp] theorem State.linkCap_rd (s : State) (n : Nat) (ack : Bool) (fld : Fld) : (s.linkCap n ack).rd fld = s.rd fld :=
  congrArg (fun w : Words => w.rd fld) (State.linkCap_parts s n ack).2.1

@[simp] theorem State.newSession_parts (s : State) (n : Nat) (k : Sess) (first : Bool) :
    (s.newSession n k first).pending = s.pending ∧ (s.newSession n k first).latch = s.latch ∧ (s.newSession n k first).now = s.now ∧ (s.newSession n k first).free = s.free ∧ (s.newSession n k first).flt = s.flt ∧ (s.newSession n k first).pon = s.pon ∧ (s.newSession n k first).act = s.act ∧ (s.newSession n k first).whf = s.whf ∧ (s.newSession n k first).cpg = s.cpg ∧ (s.newSession n k first).pm = s.pm ∧ (s.newSession n k first).stw = s.stw ∧ (s.newSession n k first).twn = s.twn ∧ (s.newSession n k first).ldg = s.ldg ∧ (s.newSession n k first).eng = s.eng ∧ (s.newSession n k first).fwd = s.fwd ∧ (s.newSession n k first).hrl = s.hrl ∧ (s.newSession n k first).wdn = s.wdn ∧ (s.newSession n k first).boot = s.boot ∧ (s.newSession n k first).hst = s.hst ∧ (s.newSession n k first).rdata = s.rdata := by
  have h := State.newSession_within (K := (· ∈ ([.words, .ctrs, .keys, .shl, .tly] : List Part))) (within_refl s) n k first (by simp) (by simp) (by simp) (by simp) (by simp)
  exact ⟨h.pending, h.latch.resolve_left (by simp), h.now.resolve_left (by simp), h.free.resolve_left (by simp), h.flt.resolve_left (by simp), h.pon.resolve_left (by simp), h.act.resolve_left (by simp), h.whf.resolve_left (by simp), h.cpg.resolve_left (by simp), h.pm.resolve_left (by simp), h.stw.resolve_left (by simp), h.twn.resolve_left (by simp), h.ldg.resolve_left (by simp), h.eng.resolve_left (by simp), h.fwd.resolve_left (by simp), h.hrl.resolve_left (by simp), h.wdn.resolve_left (by simp), h.boot.resolve_left (by simp), h.hst.resolve_left (by simp), h.rdata.resolve_left (by simp)⟩

@[simp] theorem State.offer_parts (s : State) (n : Nat) :
    (s.offer n).pending = s.pending ∧ (s.offer n).words = s.words ∧ (s.offer n).latch = s.latch ∧ (s.offer n).ctrs = s.ctrs ∧ (s.offer n).now = s.now ∧ (s.offer n).flt = s.flt ∧ (s.offer n).pon = s.pon ∧ (s.offer n).act = s.act ∧ (s.offer n).whf = s.whf ∧ (s.offer n).cpg = s.cpg ∧ (s.offer n).keys = s.keys ∧ (s.offer n).pm = s.pm ∧ (s.offer n).stw = s.stw ∧ (s.offer n).twn = s.twn ∧ (s.offer n).ldg = s.ldg ∧ (s.offer n).eng = s.eng ∧ (s.offer n).fwd = s.fwd ∧ (s.offer n).hrl = s.hrl ∧ (s.offer n).tly = s.tly ∧ (s.offer n).wdn = s.wdn ∧ (s.offer n).boot = s.boot ∧ (s.offer n).hst = s.hst ∧ (s.offer n).rdata = s.rdata := by
  have h := State.offer_within (K := (· ∈ ([.free, .shl] : List Part))) (within_refl s) n (by simp) (by simp)
  exact ⟨h.pending, h.words.resolve_left (by simp), h.latch.resolve_left (by simp), h.ctrs.resolve_left (by simp), h.now.resolve_left (by simp), h.flt.resolve_left (by simp), h.pon.resolve_left (by simp), h.act.resolve_left (by simp), h.whf.resolve_left (by simp), h.cpg.resolve_left (by simp), h.keys.resolve_left (by simp), h.pm.resolve_left (by simp), h.stw.resolve_left (by simp), h.twn.resolve_left (by simp), h.ldg.resolve_left (by simp), h.eng.resolve_left (by simp), h.fwd.resolve_left (by simp), h.hrl.resolve_left (by simp), h.tly.resolve_left (by simp), h.wdn.resolve_left (by simp), h.boot.resolve_left (by simp), h.hst.resolve_left (by simp), h.rdata.resolve_left (by simp)⟩

@[simp] theorem State.offer_rd (s : State) (n : Nat) (fld : Fld) : (s.offer n).rd fld = s.rd fld :=
  congrArg (fun w : Words => w.rd fld) (State.offer_parts s n).2.1

@[simp] theorem State.sealChange_parts (s : State) (n : Nat) :
    (s.sealChange n).pending = s.pending ∧ (s.sealChange n).words = s.words ∧ (s.sealChange n).latch = s.latch ∧ (s.sealChange n).ctrs = s.ctrs ∧ (s.sealChange n).now = s.now ∧ (s.sealChange n).flt = s.flt ∧ (s.sealChange n).pon = s.pon ∧ (s.sealChange n).act = s.act ∧ (s.sealChange n).whf = s.whf ∧ (s.sealChange n).cpg = s.cpg ∧ (s.sealChange n).keys = s.keys ∧ (s.sealChange n).pm = s.pm ∧ (s.sealChange n).stw = s.stw ∧ (s.sealChange n).twn = s.twn ∧ (s.sealChange n).ldg = s.ldg ∧ (s.sealChange n).eng = s.eng ∧ (s.sealChange n).fwd = s.fwd ∧ (s.sealChange n).hrl = s.hrl ∧ (s.sealChange n).tly = s.tly ∧ (s.sealChange n).wdn = s.wdn ∧ (s.sealChange n).boot = s.boot ∧ (s.sealChange n).hst = s.hst ∧ (s.sealChange n).rdata = s.rdata := by
  have h := State.sealChange_within (K := (· ∈ ([.free, .shl] : List Part))) (within_refl s) n (by simp) (by simp)
  exact ⟨h.pending, h.words.resolve_left (by simp), h.latch.resolve_left (by simp), h.ctrs.resolve_left (by simp), h.now.resolve_left (by simp), h.flt.resolve_left (by simp), h.pon.resolve_left (by simp), h.act.resolve_left (by simp), h.whf.resolve_left (by simp), h.cpg.resolve_left (by simp), h.keys.resolve_left (by simp), h.pm.resolve_left (by simp), h.stw.resolve_left (by simp), h.twn.resolve_left (by simp), h.ldg.resolve_left (by simp), h.eng.resolve_left (by simp), h.fwd.resolve_left (by simp), h.hrl.resolve_left (by simp), h.tly.resolve_left (by simp), h.wdn.resolve_left (by simp), h.boot.resolve_left (by simp), h.hst.resolve_left (by simp), h.rdata.resolve_left (by simp)⟩

@[simp] theorem State.sealChange_rd (s : State) (n : Nat) (fld : Fld) : (s.sealChange n).rd fld = s.rd fld :=
  congrArg (fun w : Words => w.rd fld) (State.sealChange_parts s n).2.1

@[simp] theorem State.ulkFall_parts (s : State) (n cause : Nat) :
    (s.ulkFall n cause).pending = s.pending ∧ (s.ulkFall n cause).latch = s.latch ∧ (s.ulkFall n cause).now = s.now ∧ (s.ulkFall n cause).free = s.free ∧ (s.ulkFall n cause).pon = s.pon ∧ (s.ulkFall n cause).act = s.act ∧ (s.ulkFall n cause).whf = s.whf ∧ (s.ulkFall n cause).cpg = s.cpg ∧ (s.ulkFall n cause).keys = s.keys ∧ (s.ulkFall n cause).pm = s.pm ∧ (s.ulkFall n cause).stw = s.stw ∧ (s.ulkFall n cause).twn = s.twn ∧ (s.ulkFall n cause).ldg = s.ldg ∧ (s.ulkFall n cause).eng = s.eng ∧ (s.ulkFall n cause).fwd = s.fwd ∧ (s.ulkFall n cause).hrl = s.hrl ∧ (s.ulkFall n cause).shl = s.shl ∧ (s.ulkFall n cause).wdn = s.wdn ∧ (s.ulkFall n cause).boot = s.boot ∧ (s.ulkFall n cause).hst = s.hst ∧ (s.ulkFall n cause).rdata = s.rdata := by
  have h := State.ulkFall_within (K := (· ∈ ([.words, .ctrs, .flt, .tly] : List Part))) (within_refl s) n cause (by simp) (by simp) (by simp) (by simp)
  exact ⟨h.pending, h.latch.resolve_left (by simp), h.now.resolve_left (by simp), h.free.resolve_left (by simp), h.pon.resolve_left (by simp), h.act.resolve_left (by simp), h.whf.resolve_left (by simp), h.cpg.resolve_left (by simp), h.keys.resolve_left (by simp), h.pm.resolve_left (by simp), h.stw.resolve_left (by simp), h.twn.resolve_left (by simp), h.ldg.resolve_left (by simp), h.eng.resolve_left (by simp), h.fwd.resolve_left (by simp), h.hrl.resolve_left (by simp), h.shl.resolve_left (by simp), h.wdn.resolve_left (by simp), h.boot.resolve_left (by simp), h.hst.resolve_left (by simp), h.rdata.resolve_left (by simp)⟩

@[simp] theorem State.ulkWrite_parts (s : State) (ag : Agent) (n : Nat) (v : Word) :
    (s.ulkWrite ag n v).pending = s.pending ∧ (s.ulkWrite ag n v).latch = s.latch ∧ (s.ulkWrite ag n v).now = s.now ∧ (s.ulkWrite ag n v).pon = s.pon ∧ (s.ulkWrite ag n v).act = s.act ∧ (s.ulkWrite ag n v).whf = s.whf ∧ (s.ulkWrite ag n v).cpg = s.cpg ∧ (s.ulkWrite ag n v).keys = s.keys ∧ (s.ulkWrite ag n v).pm = s.pm ∧ (s.ulkWrite ag n v).stw = s.stw ∧ (s.ulkWrite ag n v).twn = s.twn ∧ (s.ulkWrite ag n v).ldg = s.ldg ∧ (s.ulkWrite ag n v).eng = s.eng ∧ (s.ulkWrite ag n v).fwd = s.fwd ∧ (s.ulkWrite ag n v).hrl = s.hrl ∧ (s.ulkWrite ag n v).shl = s.shl ∧ (s.ulkWrite ag n v).wdn = s.wdn ∧ (s.ulkWrite ag n v).boot = s.boot ∧ (s.ulkWrite ag n v).hst = s.hst ∧ (s.ulkWrite ag n v).rdata = s.rdata := by
  have h := State.ulkWrite_within (K := (· ∈ ([.words, .ctrs, .free, .flt, .tly] : List Part))) (within_refl s) ag n v (by simp) (by simp) (by simp) (by simp) (by simp)
  exact ⟨h.pending, h.latch.resolve_left (by simp), h.now.resolve_left (by simp), h.pon.resolve_left (by simp), h.act.resolve_left (by simp), h.whf.resolve_left (by simp), h.cpg.resolve_left (by simp), h.keys.resolve_left (by simp), h.pm.resolve_left (by simp), h.stw.resolve_left (by simp), h.twn.resolve_left (by simp), h.ldg.resolve_left (by simp), h.eng.resolve_left (by simp), h.fwd.resolve_left (by simp), h.hrl.resolve_left (by simp), h.shl.resolve_left (by simp), h.wdn.resolve_left (by simp), h.boot.resolve_left (by simp), h.hst.resolve_left (by simp), h.rdata.resolve_left (by simp)⟩

@[simp] theorem State.testOut_parts (s : State) (k : Nat) (x : Ctx) (d : Desc) (trap : Option Nat) :
    (s.testOut k x d trap).pending = s.pending ∧ (s.testOut k x d trap).words = s.words ∧ (s.testOut k x d trap).latch = s.latch ∧ (s.testOut k x d trap).ctrs = s.ctrs ∧ (s.testOut k x d trap).now = s.now ∧ (s.testOut k x d trap).free = s.free ∧ (s.testOut k x d trap).flt = s.flt ∧ (s.testOut k x d trap).pon = s.pon ∧ (s.testOut k x d trap).act = s.act ∧ (s.testOut k x d trap).whf = s.whf ∧ (s.testOut k x d trap).cpg = s.cpg ∧ (s.testOut k x d trap).keys = s.keys ∧ (s.testOut k x d trap).pm = s.pm ∧ (s.testOut k x d trap).stw = s.stw ∧ (s.testOut k x d trap).twn = s.twn ∧ (s.testOut k x d trap).ldg = s.ldg ∧ (s.testOut k x d trap).fwd = s.fwd ∧ (s.testOut k x d trap).hrl = s.hrl ∧ (s.testOut k x d trap).shl = s.shl ∧ (s.testOut k x d trap).tly = s.tly ∧ (s.testOut k x d trap).wdn = s.wdn ∧ (s.testOut k x d trap).boot = s.boot ∧ (s.testOut k x d trap).hst = s.hst ∧ (s.testOut k x d trap).rdata = s.rdata := by
  have h := State.testOut_within (K := (· ∈ ([.eng] : List Part))) (within_refl s) k x d trap (by simp)
  exact ⟨h.pending, h.words.resolve_left (by simp), h.latch.resolve_left (by simp), h.ctrs.resolve_left (by simp), h.now.resolve_left (by simp), h.free.resolve_left (by simp), h.flt.resolve_left (by simp), h.pon.resolve_left (by simp), h.act.resolve_left (by simp), h.whf.resolve_left (by simp), h.cpg.resolve_left (by simp), h.keys.resolve_left (by simp), h.pm.resolve_left (by simp), h.stw.resolve_left (by simp), h.twn.resolve_left (by simp), h.ldg.resolve_left (by simp), h.fwd.resolve_left (by simp), h.hrl.resolve_left (by simp), h.shl.resolve_left (by simp), h.tly.resolve_left (by simp), h.wdn.resolve_left (by simp), h.boot.resolve_left (by simp), h.hst.resolve_left (by simp), h.rdata.resolve_left (by simp)⟩

@[simp] theorem State.testOut_rd (s : State) (k : Nat) (x : Ctx) (d : Desc) (trap : Option Nat) (fld : Fld) : (s.testOut k x d trap).rd fld = s.rd fld :=
  congrArg (fun w : Words => w.rd fld) (State.testOut_parts s k x d trap).2.1

@[simp] theorem State.spend_parts (s : State) (k : Nat) :
    (s.spend k).pending = s.pending ∧ (s.spend k).words = s.words ∧ (s.spend k).latch = s.latch ∧ (s.spend k).now = s.now ∧ (s.spend k).free = s.free ∧ (s.spend k).flt = s.flt ∧ (s.spend k).pon = s.pon ∧ (s.spend k).act = s.act ∧ (s.spend k).whf = s.whf ∧ (s.spend k).cpg = s.cpg ∧ (s.spend k).keys = s.keys ∧ (s.spend k).pm = s.pm ∧ (s.spend k).stw = s.stw ∧ (s.spend k).twn = s.twn ∧ (s.spend k).ldg = s.ldg ∧ (s.spend k).fwd = s.fwd ∧ (s.spend k).hrl = s.hrl ∧ (s.spend k).shl = s.shl ∧ (s.spend k).wdn = s.wdn ∧ (s.spend k).boot = s.boot ∧ (s.spend k).hst = s.hst ∧ (s.spend k).rdata = s.rdata := by
  have h := State.spend_within (K := (· ∈ ([.ctrs, .eng, .tly] : List Part))) (within_refl s) k (by simp) (by simp) (by simp)
  exact ⟨h.pending, h.words.resolve_left (by simp), h.latch.resolve_left (by simp), h.now.resolve_left (by simp), h.free.resolve_left (by simp), h.flt.resolve_left (by simp), h.pon.resolve_left (by simp), h.act.resolve_left (by simp), h.whf.resolve_left (by simp), h.cpg.resolve_left (by simp), h.keys.resolve_left (by simp), h.pm.resolve_left (by simp), h.stw.resolve_left (by simp), h.twn.resolve_left (by simp), h.ldg.resolve_left (by simp), h.fwd.resolve_left (by simp), h.hrl.resolve_left (by simp), h.shl.resolve_left (by simp), h.wdn.resolve_left (by simp), h.boot.resolve_left (by simp), h.hst.resolve_left (by simp), h.rdata.resolve_left (by simp)⟩

@[simp] theorem State.spend_rd (s : State) (k : Nat) (fld : Fld) : (s.spend k).rd fld = s.rd fld :=
  congrArg (fun w : Words => w.rd fld) (State.spend_parts s k).2.1

@[simp] theorem State.retire_parts (s : State) (k : Nat) (x : Ctx) :
    (s.retire k x).pending = s.pending ∧ (s.retire k x).words = s.words ∧ (s.retire k x).latch = s.latch ∧ (s.retire k x).now = s.now ∧ (s.retire k x).free = s.free ∧ (s.retire k x).flt = s.flt ∧ (s.retire k x).pon = s.pon ∧ (s.retire k x).act = s.act ∧ (s.retire k x).whf = s.whf ∧ (s.retire k x).cpg = s.cpg ∧ (s.retire k x).keys = s.keys ∧ (s.retire k x).pm = s.pm ∧ (s.retire k x).stw = s.stw ∧ (s.retire k x).twn = s.twn ∧ (s.retire k x).ldg = s.ldg ∧ (s.retire k x).fwd = s.fwd ∧ (s.retire k x).hrl = s.hrl ∧ (s.retire k x).shl = s.shl ∧ (s.retire k x).wdn = s.wdn ∧ (s.retire k x).boot = s.boot ∧ (s.retire k x).hst = s.hst ∧ (s.retire k x).rdata = s.rdata := by
  have h := State.retire_within (K := (· ∈ ([.ctrs, .eng, .tly] : List Part))) (within_refl s) k x (by simp) (by simp) (by simp)
  exact ⟨h.pending, h.words.resolve_left (by simp), h.latch.resolve_left (by simp), h.now.resolve_left (by simp), h.free.resolve_left (by simp), h.flt.resolve_left (by simp), h.pon.resolve_left (by simp), h.act.resolve_left (by simp), h.whf.resolve_left (by simp), h.cpg.resolve_left (by simp), h.keys.resolve_left (by simp), h.pm.resolve_left (by simp), h.stw.resolve_left (by simp), h.twn.resolve_left (by simp), h.ldg.resolve_left (by simp), h.fwd.resolve_left (by simp), h.hrl.resolve_left (by simp), h.shl.resolve_left (by simp), h.wdn.resolve_left (by simp), h.boot.resolve_left (by simp), h.hst.resolve_left (by simp), h.rdata.resolve_left (by simp)⟩

@[simp] theorem State.retire_rd (s : State) (k : Nat) (x : Ctx) (fld : Fld) : (s.retire k x).rd fld = s.rd fld :=
  congrArg (fun w : Words => w.rd fld) (State.retire_parts s k x).2.1

@[simp] theorem State.jump_parts (s : State) (k : Nat) (x : Ctx) (pc : Nat) :
    (s.jump k x pc).pending = s.pending ∧ (s.jump k x pc).words = s.words ∧ (s.jump k x pc).latch = s.latch ∧ (s.jump k x pc).now = s.now ∧ (s.jump k x pc).free = s.free ∧ (s.jump k x pc).flt = s.flt ∧ (s.jump k x pc).pon = s.pon ∧ (s.jump k x pc).act = s.act ∧ (s.jump k x pc).whf = s.whf ∧ (s.jump k x pc).cpg = s.cpg ∧ (s.jump k x pc).keys = s.keys ∧ (s.jump k x pc).pm = s.pm ∧ (s.jump k x pc).stw = s.stw ∧ (s.jump k x pc).twn = s.twn ∧ (s.jump k x pc).ldg = s.ldg ∧ (s.jump k x pc).fwd = s.fwd ∧ (s.jump k x pc).hrl = s.hrl ∧ (s.jump k x pc).shl = s.shl ∧ (s.jump k x pc).wdn = s.wdn ∧ (s.jump k x pc).boot = s.boot ∧ (s.jump k x pc).hst = s.hst ∧ (s.jump k x pc).rdata = s.rdata := by
  have h := State.jump_within (K := (· ∈ ([.ctrs, .eng, .tly] : List Part))) (within_refl s) k x pc (by simp) (by simp) (by simp)
  exact ⟨h.pending, h.words.resolve_left (by simp), h.latch.resolve_left (by simp), h.now.resolve_left (by simp), h.free.resolve_left (by simp), h.flt.resolve_left (by simp), h.pon.resolve_left (by simp), h.act.resolve_left (by simp), h.whf.resolve_left (by simp), h.cpg.resolve_left (by simp), h.keys.resolve_left (by simp), h.pm.resolve_left (by simp), h.stw.resolve_left (by simp), h.twn.resolve_left (by simp), h.ldg.resolve_left (by simp), h.fwd.resolve_left (by simp), h.hrl.resolve_left (by simp), h.shl.resolve_left (by simp), h.wdn.resolve_left (by simp), h.boot.resolve_left (by simp), h.hst.resolve_left (by simp), h.rdata.resolve_left (by simp)⟩

@[simp] theorem State.jump_rd (s : State) (k : Nat) (x : Ctx) (pc : Nat) (fld : Fld) : (s.jump k x pc).rd fld = s.rd fld :=
  congrArg (fun w : Words => w.rd fld) (State.jump_parts s k x pc).2.1

@[simp] theorem State.branch_parts (s : State) (k : Nat) (x : Ctx) (i : Insn) (c : Cond) :
    (s.branch k x i c).pending = s.pending ∧ (s.branch k x i c).words = s.words ∧ (s.branch k x i c).latch = s.latch ∧ (s.branch k x i c).now = s.now ∧ (s.branch k x i c).free = s.free ∧ (s.branch k x i c).flt = s.flt ∧ (s.branch k x i c).pon = s.pon ∧ (s.branch k x i c).act = s.act ∧ (s.branch k x i c).whf = s.whf ∧ (s.branch k x i c).cpg = s.cpg ∧ (s.branch k x i c).keys = s.keys ∧ (s.branch k x i c).pm = s.pm ∧ (s.branch k x i c).stw = s.stw ∧ (s.branch k x i c).twn = s.twn ∧ (s.branch k x i c).ldg = s.ldg ∧ (s.branch k x i c).fwd = s.fwd ∧ (s.branch k x i c).hrl = s.hrl ∧ (s.branch k x i c).shl = s.shl ∧ (s.branch k x i c).wdn = s.wdn ∧ (s.branch k x i c).boot = s.boot ∧ (s.branch k x i c).hst = s.hst ∧ (s.branch k x i c).rdata = s.rdata := by
  have h := State.branch_within (K := (· ∈ ([.ctrs, .eng, .tly] : List Part))) (within_refl s) k x i c (by simp) (by simp) (by simp)
  exact ⟨h.pending, h.words.resolve_left (by simp), h.latch.resolve_left (by simp), h.now.resolve_left (by simp), h.free.resolve_left (by simp), h.flt.resolve_left (by simp), h.pon.resolve_left (by simp), h.act.resolve_left (by simp), h.whf.resolve_left (by simp), h.cpg.resolve_left (by simp), h.keys.resolve_left (by simp), h.pm.resolve_left (by simp), h.stw.resolve_left (by simp), h.twn.resolve_left (by simp), h.ldg.resolve_left (by simp), h.fwd.resolve_left (by simp), h.hrl.resolve_left (by simp), h.shl.resolve_left (by simp), h.wdn.resolve_left (by simp), h.boot.resolve_left (by simp), h.hst.resolve_left (by simp), h.rdata.resolve_left (by simp)⟩

@[simp] theorem State.branch_rd (s : State) (k : Nat) (x : Ctx) (i : Insn) (c : Cond) (fld : Fld) : (s.branch k x i c).rd fld = s.rd fld :=
  congrArg (fun w : Words => w.rd fld) (State.branch_parts s k x i c).2.1

@[simp] theorem State.setDesc_parts (s : State) (k : Nat) (x : Ctx) (d : Desc) :
    (s.setDesc k x d).pending = s.pending ∧ (s.setDesc k x d).words = s.words ∧ (s.setDesc k x d).latch = s.latch ∧ (s.setDesc k x d).now = s.now ∧ (s.setDesc k x d).free = s.free ∧ (s.setDesc k x d).flt = s.flt ∧ (s.setDesc k x d).pon = s.pon ∧ (s.setDesc k x d).act = s.act ∧ (s.setDesc k x d).whf = s.whf ∧ (s.setDesc k x d).cpg = s.cpg ∧ (s.setDesc k x d).keys = s.keys ∧ (s.setDesc k x d).pm = s.pm ∧ (s.setDesc k x d).stw = s.stw ∧ (s.setDesc k x d).twn = s.twn ∧ (s.setDesc k x d).ldg = s.ldg ∧ (s.setDesc k x d).fwd = s.fwd ∧ (s.setDesc k x d).hrl = s.hrl ∧ (s.setDesc k x d).shl = s.shl ∧ (s.setDesc k x d).wdn = s.wdn ∧ (s.setDesc k x d).boot = s.boot ∧ (s.setDesc k x d).hst = s.hst ∧ (s.setDesc k x d).rdata = s.rdata := by
  have h := State.setDesc_within (K := (· ∈ ([.ctrs, .eng, .tly] : List Part))) (within_refl s) k x d (by simp) (by simp) (by simp)
  exact ⟨h.pending, h.words.resolve_left (by simp), h.latch.resolve_left (by simp), h.now.resolve_left (by simp), h.free.resolve_left (by simp), h.flt.resolve_left (by simp), h.pon.resolve_left (by simp), h.act.resolve_left (by simp), h.whf.resolve_left (by simp), h.cpg.resolve_left (by simp), h.keys.resolve_left (by simp), h.pm.resolve_left (by simp), h.stw.resolve_left (by simp), h.twn.resolve_left (by simp), h.ldg.resolve_left (by simp), h.fwd.resolve_left (by simp), h.hrl.resolve_left (by simp), h.shl.resolve_left (by simp), h.wdn.resolve_left (by simp), h.boot.resolve_left (by simp), h.hst.resolve_left (by simp), h.rdata.resolve_left (by simp)⟩

@[simp] theorem State.setDesc_rd (s : State) (k : Nat) (x : Ctx) (d : Desc) (fld : Fld) : (s.setDesc k x d).rd fld = s.rd fld :=
  congrArg (fun w : Words => w.rd fld) (State.setDesc_parts s k x d).2.1

@[simp] theorem State.gldStore_parts (s : State) (g idx first : Nat) (ws : List Word) :
    (s.gldStore g idx first ws).pending = s.pending ∧ (s.gldStore g idx first ws).latch = s.latch ∧ (s.gldStore g idx first ws).ctrs = s.ctrs ∧ (s.gldStore g idx first ws).now = s.now ∧ (s.gldStore g idx first ws).free = s.free ∧ (s.gldStore g idx first ws).flt = s.flt ∧ (s.gldStore g idx first ws).pon = s.pon ∧ (s.gldStore g idx first ws).act = s.act ∧ (s.gldStore g idx first ws).whf = s.whf ∧ (s.gldStore g idx first ws).cpg = s.cpg ∧ (s.gldStore g idx first ws).keys = s.keys ∧ (s.gldStore g idx first ws).pm = s.pm ∧ (s.gldStore g idx first ws).stw = s.stw ∧ (s.gldStore g idx first ws).twn = s.twn ∧ (s.gldStore g idx first ws).ldg = s.ldg ∧ (s.gldStore g idx first ws).fwd = s.fwd ∧ (s.gldStore g idx first ws).hrl = s.hrl ∧ (s.gldStore g idx first ws).shl = s.shl ∧ (s.gldStore g idx first ws).tly = s.tly ∧ (s.gldStore g idx first ws).wdn = s.wdn ∧ (s.gldStore g idx first ws).boot = s.boot ∧ (s.gldStore g idx first ws).hst = s.hst ∧ (s.gldStore g idx first ws).rdata = s.rdata := by
  have h := State.gldStore_within (K := (· ∈ ([.words, .eng] : List Part))) (within_refl s) g idx first ws (by simp) (by simp)
  exact ⟨h.pending, h.latch.resolve_left (by simp), h.ctrs.resolve_left (by simp), h.now.resolve_left (by simp), h.free.resolve_left (by simp), h.flt.resolve_left (by simp), h.pon.resolve_left (by simp), h.act.resolve_left (by simp), h.whf.resolve_left (by simp), h.cpg.resolve_left (by simp), h.keys.resolve_left (by simp), h.pm.resolve_left (by simp), h.stw.resolve_left (by simp), h.twn.resolve_left (by simp), h.ldg.resolve_left (by simp), h.fwd.resolve_left (by simp), h.hrl.resolve_left (by simp), h.shl.resolve_left (by simp), h.tly.resolve_left (by simp), h.wdn.resolve_left (by simp), h.boot.resolve_left (by simp), h.hst.resolve_left (by simp), h.rdata.resolve_left (by simp)⟩

@[simp] theorem State.switchOut_parts (s : State) (d : Nat) :
    (s.switchOut d).pending = s.pending ∧ (s.switchOut d).latch = s.latch ∧ (s.switchOut d).now = s.now ∧ (s.switchOut d).free = s.free ∧ (s.switchOut d).pon = s.pon ∧ (s.switchOut d).act = s.act ∧ (s.switchOut d).whf = s.whf ∧ (s.switchOut d).cpg = s.cpg ∧ (s.switchOut d).keys = s.keys ∧ (s.switchOut d).pm = s.pm ∧ (s.switchOut d).stw = s.stw ∧ (s.switchOut d).twn = s.twn ∧ (s.switchOut d).ldg = s.ldg ∧ (s.switchOut d).eng = s.eng ∧ (s.switchOut d).fwd = s.fwd ∧ (s.switchOut d).shl = s.shl ∧ (s.switchOut d).wdn = s.wdn ∧ (s.switchOut d).boot = s.boot ∧ (s.switchOut d).hst = s.hst ∧ (s.switchOut d).rdata = s.rdata := by
  have h := State.switchOut_within (K := (· ∈ ([.words, .ctrs, .flt, .hrl, .tly] : List Part))) (within_refl s) d (by simp) (by simp) (by simp) (by simp) (by simp)
  exact ⟨h.pending, h.latch.resolve_left (by simp), h.now.resolve_left (by simp), h.free.resolve_left (by simp), h.pon.resolve_left (by simp), h.act.resolve_left (by simp), h.whf.resolve_left (by simp), h.cpg.resolve_left (by simp), h.keys.resolve_left (by simp), h.pm.resolve_left (by simp), h.stw.resolve_left (by simp), h.twn.resolve_left (by simp), h.ldg.resolve_left (by simp), h.eng.resolve_left (by simp), h.fwd.resolve_left (by simp), h.shl.resolve_left (by simp), h.wdn.resolve_left (by simp), h.boot.resolve_left (by simp), h.hst.resolve_left (by simp), h.rdata.resolve_left (by simp)⟩

@[simp] theorem State.setDomState_parts (s : State) (d : Nat) (x : DomState) :
    (s.setDomState d x).pending = s.pending ∧ (s.setDomState d x).words = s.words ∧ (s.setDomState d x).latch = s.latch ∧ (s.setDomState d x).ctrs = s.ctrs ∧ (s.setDomState d x).now = s.now ∧ (s.setDomState d x).free = s.free ∧ (s.setDomState d x).pon = s.pon ∧ (s.setDomState d x).act = s.act ∧ (s.setDomState d x).whf = s.whf ∧ (s.setDomState d x).cpg = s.cpg ∧ (s.setDomState d x).keys = s.keys ∧ (s.setDomState d x).pm = s.pm ∧ (s.setDomState d x).stw = s.stw ∧ (s.setDomState d x).twn = s.twn ∧ (s.setDomState d x).ldg = s.ldg ∧ (s.setDomState d x).eng = s.eng ∧ (s.setDomState d x).fwd = s.fwd ∧ (s.setDomState d x).shl = s.shl ∧ (s.setDomState d x).tly = s.tly ∧ (s.setDomState d x).wdn = s.wdn ∧ (s.setDomState d x).boot = s.boot ∧ (s.setDomState d x).hst = s.hst ∧ (s.setDomState d x).rdata = s.rdata := by
  have h := State.setDomState_within (K := (· ∈ ([.flt, .hrl] : List Part))) (within_refl s) d x (by simp) (by simp)
  exact ⟨h.pending, h.words.resolve_left (by simp), h.latch.resolve_left (by simp), h.ctrs.resolve_left (by simp), h.now.resolve_left (by simp), h.free.resolve_left (by simp), h.pon.resolve_left (by simp), h.act.resolve_left (by simp), h.whf.resolve_left (by simp), h.cpg.resolve_left (by simp), h.keys.resolve_left (by simp), h.pm.resolve_left (by simp), h.stw.resolve_left (by simp), h.twn.resolve_left (by simp), h.ldg.resolve_left (by simp), h.eng.resolve_left (by simp), h.fwd.resolve_left (by simp), h.shl.resolve_left (by simp), h.tly.resolve_left (by simp), h.wdn.resolve_left (by simp), h.boot.resolve_left (by simp), h.hst.resolve_left (by simp), h.rdata.resolve_left (by simp)⟩

@[simp] theorem State.setDomState_rd (s : State) (d : Nat) (x : DomState) (fld : Fld) : (s.setDomState d x).rd fld = s.rd fld :=
  congrArg (fun w : Words => w.rd fld) (State.setDomState_parts s d x).2.1

@[simp] theorem State.acquire_parts (s : State) (d : Nat) :
    (s.acquire d).pending = s.pending ∧ (s.acquire d).words = s.words ∧ (s.acquire d).latch = s.latch ∧ (s.acquire d).ctrs = s.ctrs ∧ (s.acquire d).now = s.now ∧ (s.acquire d).free = s.free ∧ (s.acquire d).pon = s.pon ∧ (s.acquire d).act = s.act ∧ (s.acquire d).whf = s.whf ∧ (s.acquire d).cpg = s.cpg ∧ (s.acquire d).keys = s.keys ∧ (s.acquire d).pm = s.pm ∧ (s.acquire d).stw = s.stw ∧ (s.acquire d).twn = s.twn ∧ (s.acquire d).ldg = s.ldg ∧ (s.acquire d).eng = s.eng ∧ (s.acquire d).fwd = s.fwd ∧ (s.acquire d).shl = s.shl ∧ (s.acquire d).tly = s.tly ∧ (s.acquire d).wdn = s.wdn ∧ (s.acquire d).boot = s.boot ∧ (s.acquire d).hst = s.hst ∧ (s.acquire d).rdata = s.rdata := by
  have h := State.acquire_within (K := (· ∈ ([.flt, .hrl] : List Part))) (within_refl s) d (by simp) (by simp)
  exact ⟨h.pending, h.words.resolve_left (by simp), h.latch.resolve_left (by simp), h.ctrs.resolve_left (by simp), h.now.resolve_left (by simp), h.free.resolve_left (by simp), h.pon.resolve_left (by simp), h.act.resolve_left (by simp), h.whf.resolve_left (by simp), h.cpg.resolve_left (by simp), h.keys.resolve_left (by simp), h.pm.resolve_left (by simp), h.stw.resolve_left (by simp), h.twn.resolve_left (by simp), h.ldg.resolve_left (by simp), h.eng.resolve_left (by simp), h.fwd.resolve_left (by simp), h.shl.resolve_left (by simp), h.tly.resolve_left (by simp), h.wdn.resolve_left (by simp), h.boot.resolve_left (by simp), h.hst.resolve_left (by simp), h.rdata.resolve_left (by simp)⟩

@[simp] theorem State.acquire_rd (s : State) (d : Nat) (fld : Fld) : (s.acquire d).rd fld = s.rd fld :=
  congrArg (fun w : Words => w.rd fld) (State.acquire_parts s d).2.1

@[simp] theorem State.alarmBits_parts (s : State) :
    (s.alarmBits).pending = s.pending ∧ (s.alarmBits).latch = s.latch ∧ (s.alarmBits).ctrs = s.ctrs ∧ (s.alarmBits).now = s.now ∧ (s.alarmBits).free = s.free ∧ (s.alarmBits).flt = s.flt ∧ (s.alarmBits).pon = s.pon ∧ (s.alarmBits).act = s.act ∧ (s.alarmBits).whf = s.whf ∧ (s.alarmBits).cpg = s.cpg ∧ (s.alarmBits).keys = s.keys ∧ (s.alarmBits).pm = s.pm ∧ (s.alarmBits).stw = s.stw ∧ (s.alarmBits).twn = s.twn ∧ (s.alarmBits).ldg = s.ldg ∧ (s.alarmBits).eng = s.eng ∧ (s.alarmBits).fwd = s.fwd ∧ (s.alarmBits).hrl = s.hrl ∧ (s.alarmBits).shl = s.shl ∧ (s.alarmBits).tly = s.tly ∧ (s.alarmBits).wdn = s.wdn ∧ (s.alarmBits).boot = s.boot ∧ (s.alarmBits).hst = s.hst ∧ (s.alarmBits).rdata = s.rdata := by
  have h := State.alarmBits_within (K := (· ∈ ([.words] : List Part))) (within_refl s)  (by simp)
  exact ⟨h.pending, h.latch.resolve_left (by simp), h.ctrs.resolve_left (by simp), h.now.resolve_left (by simp), h.free.resolve_left (by simp), h.flt.resolve_left (by simp), h.pon.resolve_left (by simp), h.act.resolve_left (by simp), h.whf.resolve_left (by simp), h.cpg.resolve_left (by simp), h.keys.resolve_left (by simp), h.pm.resolve_left (by simp), h.stw.resolve_left (by simp), h.twn.resolve_left (by simp), h.ldg.resolve_left (by simp), h.eng.resolve_left (by simp), h.fwd.resolve_left (by simp), h.hrl.resolve_left (by simp), h.shl.resolve_left (by simp), h.tly.resolve_left (by simp), h.wdn.resolve_left (by simp), h.boot.resolve_left (by simp), h.hst.resolve_left (by simp), h.rdata.resolve_left (by simp)⟩

@[simp] theorem State.sendExport_parts (s : State) (fr : List Byte) :
    (s.sendExport fr).pending = s.pending ∧ (s.sendExport fr).words = s.words ∧ (s.sendExport fr).latch = s.latch ∧ (s.sendExport fr).now = s.now ∧ (s.sendExport fr).pon = s.pon ∧ (s.sendExport fr).act = s.act ∧ (s.sendExport fr).whf = s.whf ∧ (s.sendExport fr).keys = s.keys ∧ (s.sendExport fr).pm = s.pm ∧ (s.sendExport fr).stw = s.stw ∧ (s.sendExport fr).twn = s.twn ∧ (s.sendExport fr).ldg = s.ldg ∧ (s.sendExport fr).eng = s.eng ∧ (s.sendExport fr).fwd = s.fwd ∧ (s.sendExport fr).hrl = s.hrl ∧ (s.sendExport fr).shl = s.shl ∧ (s.sendExport fr).wdn = s.wdn ∧ (s.sendExport fr).boot = s.boot ∧ (s.sendExport fr).hst = s.hst ∧ (s.sendExport fr).rdata = s.rdata := by
  have h := State.sendExport_within (K := (· ∈ ([.ctrs, .free, .flt, .cpg, .tly] : List Part))) (within_refl s) fr (by simp) (by simp) (by simp) (by simp) (by simp)
  exact ⟨h.pending, h.words.resolve_left (by simp), h.latch.resolve_left (by simp), h.now.resolve_left (by simp), h.pon.resolve_left (by simp), h.act.resolve_left (by simp), h.whf.resolve_left (by simp), h.keys.resolve_left (by simp), h.pm.resolve_left (by simp), h.stw.resolve_left (by simp), h.twn.resolve_left (by simp), h.ldg.resolve_left (by simp), h.eng.resolve_left (by simp), h.fwd.resolve_left (by simp), h.hrl.resolve_left (by simp), h.shl.resolve_left (by simp), h.wdn.resolve_left (by simp), h.boot.resolve_left (by simp), h.hst.resolve_left (by simp), h.rdata.resolve_left (by simp)⟩

@[simp] theorem State.sendExport_rd (s : State) (fr : List Byte) (fld : Fld) : (s.sendExport fr).rd fld = s.rd fld :=
  congrArg (fun w : Words => w.rd fld) (State.sendExport_parts s fr).2.1

@[simp] theorem State.pmClassify_parts (s : State) (r k : Nat) (es ses : Bool) :
    (s.pmClassify r k es ses).pending = s.pending ∧ (s.pmClassify r k es ses).latch = s.latch ∧ (s.pmClassify r k es ses).now = s.now ∧ (s.pmClassify r k es ses).free = s.free ∧ (s.pmClassify r k es ses).flt = s.flt ∧ (s.pmClassify r k es ses).pon = s.pon ∧ (s.pmClassify r k es ses).act = s.act ∧ (s.pmClassify r k es ses).whf = s.whf ∧ (s.pmClassify r k es ses).cpg = s.cpg ∧ (s.pmClassify r k es ses).keys = s.keys ∧ (s.pmClassify r k es ses).stw = s.stw ∧ (s.pmClassify r k es ses).twn = s.twn ∧ (s.pmClassify r k es ses).ldg = s.ldg ∧ (s.pmClassify r k es ses).eng = s.eng ∧ (s.pmClassify r k es ses).fwd = s.fwd ∧ (s.pmClassify r k es ses).hrl = s.hrl ∧ (s.pmClassify r k es ses).shl = s.shl ∧ (s.pmClassify r k es ses).wdn = s.wdn ∧ (s.pmClassify r k es ses).boot = s.boot ∧ (s.pmClassify r k es ses).rdata = s.rdata := by
  have h := State.pmClassify_within (K := (· ∈ ([.words, .ctrs, .pm, .tly, .hst] : List Part))) (within_refl s) r k es ses (by simp) (by simp) (by simp) (by simp) (by simp)
  exact ⟨h.pending, h.latch.resolve_left (by simp), h.now.resolve_left (by simp), h.free.resolve_left (by simp), h.flt.resolve_left (by simp), h.pon.resolve_left (by simp), h.act.resolve_left (by simp), h.whf.resolve_left (by simp), h.cpg.resolve_left (by simp), h.keys.resolve_left (by simp), h.stw.resolve_left (by simp), h.twn.resolve_left (by simp), h.ldg.resolve_left (by simp), h.eng.resolve_left (by simp), h.fwd.resolve_left (by simp), h.hrl.resolve_left (by simp), h.shl.resolve_left (by simp), h.wdn.resolve_left (by simp), h.boot.resolve_left (by simp), h.rdata.resolve_left (by simp)⟩

@[simp] theorem State.pmSkip_parts (s : State) (r : Nat) :
    (s.pmSkip r).pending = s.pending ∧ (s.pmSkip r).words = s.words ∧ (s.pmSkip r).latch = s.latch ∧ (s.pmSkip r).ctrs = s.ctrs ∧ (s.pmSkip r).now = s.now ∧ (s.pmSkip r).free = s.free ∧ (s.pmSkip r).flt = s.flt ∧ (s.pmSkip r).pon = s.pon ∧ (s.pmSkip r).act = s.act ∧ (s.pmSkip r).whf = s.whf ∧ (s.pmSkip r).cpg = s.cpg ∧ (s.pmSkip r).keys = s.keys ∧ (s.pmSkip r).stw = s.stw ∧ (s.pmSkip r).twn = s.twn ∧ (s.pmSkip r).ldg = s.ldg ∧ (s.pmSkip r).eng = s.eng ∧ (s.pmSkip r).fwd = s.fwd ∧ (s.pmSkip r).hrl = s.hrl ∧ (s.pmSkip r).shl = s.shl ∧ (s.pmSkip r).tly = s.tly ∧ (s.pmSkip r).wdn = s.wdn ∧ (s.pmSkip r).boot = s.boot ∧ (s.pmSkip r).hst = s.hst ∧ (s.pmSkip r).rdata = s.rdata := by
  have h := State.pmSkip_within (K := (· ∈ ([.pm] : List Part))) (within_refl s) r (by simp)
  exact ⟨h.pending, h.words.resolve_left (by simp), h.latch.resolve_left (by simp), h.ctrs.resolve_left (by simp), h.now.resolve_left (by simp), h.free.resolve_left (by simp), h.flt.resolve_left (by simp), h.pon.resolve_left (by simp), h.act.resolve_left (by simp), h.whf.resolve_left (by simp), h.cpg.resolve_left (by simp), h.keys.resolve_left (by simp), h.stw.resolve_left (by simp), h.twn.resolve_left (by simp), h.ldg.resolve_left (by simp), h.eng.resolve_left (by simp), h.fwd.resolve_left (by simp), h.hrl.resolve_left (by simp), h.shl.resolve_left (by simp), h.tly.resolve_left (by simp), h.wdn.resolve_left (by simp), h.boot.resolve_left (by simp), h.hst.resolve_left (by simp), h.rdata.resolve_left (by simp)⟩

@[simp] theorem State.pmSkip_rd (s : State) (r : Nat) (fld : Fld) : (s.pmSkip r).rd fld = s.rd fld :=
  congrArg (fun w : Words => w.rd fld) (State.pmSkip_parts s r).2.1

@[simp] theorem State.dsSettle_parts (s : State) :
    (s.dsSettle).pending = s.pending ∧ (s.dsSettle).latch = s.latch ∧ (s.dsSettle).now = s.now ∧ (s.dsSettle).free = s.free ∧ (s.dsSettle).flt = s.flt ∧ (s.dsSettle).pon = s.pon ∧ (s.dsSettle).act = s.act ∧ (s.dsSettle).whf = s.whf ∧ (s.dsSettle).cpg = s.cpg ∧ (s.dsSettle).keys = s.keys ∧ (s.dsSettle).stw = s.stw ∧ (s.dsSettle).twn = s.twn ∧ (s.dsSettle).ldg = s.ldg ∧ (s.dsSettle).eng = s.eng ∧ (s.dsSettle).fwd = s.fwd ∧ (s.dsSettle).hrl = s.hrl ∧ (s.dsSettle).shl = s.shl ∧ (s.dsSettle).wdn = s.wdn ∧ (s.dsSettle).boot = s.boot ∧ (s.dsSettle).rdata = s.rdata := by
  have h := State.dsSettle_within (K := (· ∈ ([.words, .ctrs, .pm, .tly, .hst] : List Part))) (within_refl s)  (by simp) (by simp) (by simp) (by simp) (by simp)
  exact ⟨h.pending, h.latch.resolve_left (by simp), h.now.resolve_left (by simp), h.free.resolve_left (by simp), h.flt.resolve_left (by simp), h.pon.resolve_left (by simp), h.act.resolve_left (by simp), h.whf.resolve_left (by simp), h.cpg.resolve_left (by simp), h.keys.resolve_left (by simp), h.stw.resolve_left (by simp), h.twn.resolve_left (by simp), h.ldg.resolve_left (by simp), h.eng.resolve_left (by simp), h.fwd.resolve_left (by simp), h.hrl.resolve_left (by simp), h.shl.resolve_left (by simp), h.wdn.resolve_left (by simp), h.boot.resolve_left (by simp), h.rdata.resolve_left (by simp)⟩

@[simp] theorem State.nextBank_parts (s : State) :
    (s.nextBank).pending = s.pending ∧ (s.nextBank).latch = s.latch ∧ (s.nextBank).now = s.now ∧ (s.nextBank).free = s.free ∧ (s.nextBank).pon = s.pon ∧ (s.nextBank).act = s.act ∧ (s.nextBank).whf = s.whf ∧ (s.nextBank).cpg = s.cpg ∧ (s.nextBank).keys = s.keys ∧ (s.nextBank).pm = s.pm ∧ (s.nextBank).stw = s.stw ∧ (s.nextBank).twn = s.twn ∧ (s.nextBank).ldg = s.ldg ∧ (s.nextBank).eng = s.eng ∧ (s.nextBank).fwd = s.fwd ∧ (s.nextBank).hrl = s.hrl ∧ (s.nextBank).shl = s.shl ∧ (s.nextBank).wdn = s.wdn ∧ (s.nextBank).hst = s.hst ∧ (s.nextBank).rdata = s.rdata := by
  have h := State.nextBank_within (K := (· ∈ ([.words, .ctrs, .flt, .tly, .boot] : List Part))) (within_refl s)  (by simp) (by simp) (by simp) (by simp) (by simp)
  exact ⟨h.pending, h.latch.resolve_left (by simp), h.now.resolve_left (by simp), h.free.resolve_left (by simp), h.pon.resolve_left (by simp), h.act.resolve_left (by simp), h.whf.resolve_left (by simp), h.cpg.resolve_left (by simp), h.keys.resolve_left (by simp), h.pm.resolve_left (by simp), h.stw.resolve_left (by simp), h.twn.resolve_left (by simp), h.ldg.resolve_left (by simp), h.eng.resolve_left (by simp), h.fwd.resolve_left (by simp), h.hrl.resolve_left (by simp), h.shl.resolve_left (by simp), h.wdn.resolve_left (by simp), h.hst.resolve_left (by simp), h.rdata.resolve_left (by simp)⟩

@[simp] theorem State.setStage_parts (s : State) (n : Nat) :
    (s.setStage n).pending = s.pending ∧ (s.setStage n).latch = s.latch ∧ (s.setStage n).ctrs = s.ctrs ∧ (s.setStage n).now = s.now ∧ (s.setStage n).free = s.free ∧ (s.setStage n).flt = s.flt ∧ (s.setStage n).pon = s.pon ∧ (s.setStage n).act = s.act ∧ (s.setStage n).whf = s.whf ∧ (s.setStage n).cpg = s.cpg ∧ (s.setStage n).keys = s.keys ∧ (s.setStage n).pm = s.pm ∧ (s.setStage n).stw = s.stw ∧ (s.setStage n).twn = s.twn ∧ (s.setStage n).ldg = s.ldg ∧ (s.setStage n).eng = s.eng ∧ (s.setStage n).fwd = s.fwd ∧ (s.setStage n).hrl = s.hrl ∧ (s.setStage n).shl = s.shl ∧ (s.setStage n).tly = s.tly ∧ (s.setStage n).wdn = s.wdn ∧ (s.setStage n).boot = s.boot ∧ (s.setStage n).rdata = s.rdata := by
  have h := State.setStage_within (K := (· ∈ ([.words, .hst] : List Part))) (within_refl s) n (by simp) (by simp)
  exact ⟨h.pending, h.latch.resolve_left (by simp), h.ctrs.resolve_left (by simp), h.now.resolve_left (by simp), h.free.resolve_left (by simp), h.flt.resolve_left (by simp), h.pon.resolve_left (by simp), h.act.resolve_left (by simp), h.whf.resolve_left (by simp), h.cpg.resolve_left (by simp), h.keys.resolve_left (by simp), h.pm.resolve_left (by simp), h.stw.resolve_left (by simp), h.twn.resolve_left (by simp), h.ldg.resolve_left (by simp), h.eng.resolve_left (by simp), h.fwd.resolve_left (by simp), h.hrl.resolve_left (by simp), h.shl.resolve_left (by simp), h.tly.resolve_left (by simp), h.wdn.resolve_left (by simp), h.boot.resolve_left (by simp), h.rdata.resolve_left (by simp)⟩

@[simp] theorem State.bootDone_parts (s : State) (code : Nat) :
    (s.bootDone code).pending = s.pending ∧ (s.bootDone code).latch = s.latch ∧ (s.bootDone code).ctrs = s.ctrs ∧ (s.bootDone code).now = s.now ∧ (s.bootDone code).free = s.free ∧ (s.bootDone code).flt = s.flt ∧ (s.bootDone code).pon = s.pon ∧ (s.bootDone code).act = s.act ∧ (s.bootDone code).whf = s.whf ∧ (s.bootDone code).cpg = s.cpg ∧ (s.bootDone code).keys = s.keys ∧ (s.bootDone code).pm = s.pm ∧ (s.bootDone code).stw = s.stw ∧ (s.bootDone code).twn = s.twn ∧ (s.bootDone code).ldg = s.ldg ∧ (s.bootDone code).eng = s.eng ∧ (s.bootDone code).fwd = s.fwd ∧ (s.bootDone code).hrl = s.hrl ∧ (s.bootDone code).shl = s.shl ∧ (s.bootDone code).tly = s.tly ∧ (s.bootDone code).wdn = s.wdn ∧ (s.bootDone code).boot = s.boot ∧ (s.bootDone code).rdata = s.rdata := by
  have h := State.bootDone_within (K := (· ∈ ([.words, .hst] : List Part))) (within_refl s) code (by simp) (by simp)
  exact ⟨h.pending, h.latch.resolve_left (by simp), h.ctrs.resolve_left (by simp), h.now.resolve_left (by simp), h.free.resolve_left (by simp), h.flt.resolve_left (by simp), h.pon.resolve_left (by simp), h.act.resolve_left (by simp), h.whf.resolve_left (by simp), h.cpg.resolve_left (by simp), h.keys.resolve_left (by simp), h.pm.resolve_left (by simp), h.stw.resolve_left (by simp), h.twn.resolve_left (by simp), h.ldg.resolve_left (by simp), h.eng.resolve_left (by simp), h.fwd.resolve_left (by simp), h.hrl.resolve_left (by simp), h.shl.resolve_left (by simp), h.tly.resolve_left (by simp), h.wdn.resolve_left (by simp), h.boot.resolve_left (by simp), h.rdata.resolve_left (by simp)⟩

@[simp] theorem State.stopRing_parts (s : State) (r : Nat) :
    (s.stopRing r).pending = s.pending ∧ (s.stopRing r).latch = s.latch ∧ (s.stopRing r).ctrs = s.ctrs ∧ (s.stopRing r).now = s.now ∧ (s.stopRing r).free = s.free ∧ (s.stopRing r).flt = s.flt ∧ (s.stopRing r).pon = s.pon ∧ (s.stopRing r).act = s.act ∧ (s.stopRing r).whf = s.whf ∧ (s.stopRing r).cpg = s.cpg ∧ (s.stopRing r).keys = s.keys ∧ (s.stopRing r).pm = s.pm ∧ (s.stopRing r).stw = s.stw ∧ (s.stopRing r).twn = s.twn ∧ (s.stopRing r).ldg = s.ldg ∧ (s.stopRing r).eng = s.eng ∧ (s.stopRing r).fwd = s.fwd ∧ (s.stopRing r).hrl = s.hrl ∧ (s.stopRing r).shl = s.shl ∧ (s.stopRing r).tly = s.tly ∧ (s.stopRing r).wdn = s.wdn ∧ (s.stopRing r).boot = s.boot ∧ (s.stopRing r).rdata = s.rdata := by
  have h := State.stopRing_within (K := (· ∈ ([.words, .hst] : List Part))) (within_refl s) r (by simp) (by simp)
  exact ⟨h.pending, h.latch.resolve_left (by simp), h.ctrs.resolve_left (by simp), h.now.resolve_left (by simp), h.free.resolve_left (by simp), h.flt.resolve_left (by simp), h.pon.resolve_left (by simp), h.act.resolve_left (by simp), h.whf.resolve_left (by simp), h.cpg.resolve_left (by simp), h.keys.resolve_left (by simp), h.pm.resolve_left (by simp), h.stw.resolve_left (by simp), h.twn.resolve_left (by simp), h.ldg.resolve_left (by simp), h.eng.resolve_left (by simp), h.fwd.resolve_left (by simp), h.hrl.resolve_left (by simp), h.shl.resolve_left (by simp), h.tly.resolve_left (by simp), h.wdn.resolve_left (by simp), h.boot.resolve_left (by simp), h.rdata.resolve_left (by simp)⟩

@[simp] theorem State.ringTail_parts (s : State) (ag : Agent) (r : Nat) (v : Word) :
    (s.ringTail ag r v).pending = s.pending ∧ (s.ringTail ag r v).latch = s.latch ∧ (s.ringTail ag r v).now = s.now ∧ (s.ringTail ag r v).pon = s.pon ∧ (s.ringTail ag r v).act = s.act ∧ (s.ringTail ag r v).whf = s.whf ∧ (s.ringTail ag r v).cpg = s.cpg ∧ (s.ringTail ag r v).keys = s.keys ∧ (s.ringTail ag r v).pm = s.pm ∧ (s.ringTail ag r v).stw = s.stw ∧ (s.ringTail ag r v).twn = s.twn ∧ (s.ringTail ag r v).ldg = s.ldg ∧ (s.ringTail ag r v).eng = s.eng ∧ (s.ringTail ag r v).fwd = s.fwd ∧ (s.ringTail ag r v).hrl = s.hrl ∧ (s.ringTail ag r v).shl = s.shl ∧ (s.ringTail ag r v).wdn = s.wdn ∧ (s.ringTail ag r v).boot = s.boot ∧ (s.ringTail ag r v).hst = s.hst ∧ (s.ringTail ag r v).rdata = s.rdata := by
  have h := State.ringTail_within (K := (· ∈ ([.words, .ctrs, .free, .flt, .tly] : List Part))) (within_refl s) ag r v (by simp) (by simp) (by simp) (by simp) (by simp)
  exact ⟨h.pending, h.latch.resolve_left (by simp), h.now.resolve_left (by simp), h.pon.resolve_left (by simp), h.act.resolve_left (by simp), h.whf.resolve_left (by simp), h.cpg.resolve_left (by simp), h.keys.resolve_left (by simp), h.pm.resolve_left (by simp), h.stw.resolve_left (by simp), h.twn.resolve_left (by simp), h.ldg.resolve_left (by simp), h.eng.resolve_left (by simp), h.fwd.resolve_left (by simp), h.hrl.resolve_left (by simp), h.shl.resolve_left (by simp), h.wdn.resolve_left (by simp), h.boot.resolve_left (by simp), h.hst.resolve_left (by simp), h.rdata.resolve_left (by simp)⟩

@[simp] theorem State.cycleEnd_parts (s : State) :
    (s.cycleEnd).pending = s.pending ∧ (s.cycleEnd).latch = s.latch ∧ (s.cycleEnd).now = s.now ∧ (s.cycleEnd).free = s.free ∧ (s.cycleEnd).pon = s.pon ∧ (s.cycleEnd).act = s.act ∧ (s.cycleEnd).whf = s.whf ∧ (s.cycleEnd).cpg = s.cpg ∧ (s.cycleEnd).keys = s.keys ∧ (s.cycleEnd).pm = s.pm ∧ (s.cycleEnd).stw = s.stw ∧ (s.cycleEnd).twn = s.twn ∧ (s.cycleEnd).ldg = s.ldg ∧ (s.cycleEnd).eng = s.eng ∧ (s.cycleEnd).fwd = s.fwd ∧ (s.cycleEnd).hrl = s.hrl ∧ (s.cycleEnd).shl = s.shl ∧ (s.cycleEnd).boot = s.boot ∧ (s.cycleEnd).hst = s.hst ∧ (s.cycleEnd).rdata = s.rdata := by
  have h := State.cycleEnd_within (K := (· ∈ ([.words, .ctrs, .flt, .tly, .wdn] : List Part))) (within_refl s)  (by simp) (by simp) (by simp) (by simp) (by simp)
  exact ⟨h.pending, h.latch.resolve_left (by simp), h.now.resolve_left (by simp), h.free.resolve_left (by simp), h.pon.resolve_left (by simp), h.act.resolve_left (by simp), h.whf.resolve_left (by simp), h.cpg.resolve_left (by simp), h.keys.resolve_left (by simp), h.pm.resolve_left (by simp), h.stw.resolve_left (by simp), h.twn.resolve_left (by simp), h.ldg.resolve_left (by simp), h.eng.resolve_left (by simp), h.fwd.resolve_left (by simp), h.hrl.resolve_left (by simp), h.shl.resolve_left (by simp), h.boot.resolve_left (by simp), h.hst.resolve_left (by simp), h.rdata.resolve_left (by simp)⟩

@[simp] theorem State.requestRerange_parts (s : State) (p : Fin 32) (i : Nat) (hold : Bool) :
    (s.requestRerange p i hold).pending = s.pending ∧ (s.requestRerange p i hold).words = s.words ∧ (s.requestRerange p i hold).latch = s.latch ∧ (s.requestRerange p i hold).ctrs = s.ctrs ∧ (s.requestRerange p i hold).now = s.now ∧ (s.requestRerange p i hold).free = s.free ∧ (s.requestRerange p i hold).flt = s.flt ∧ (s.requestRerange p i hold).pon = s.pon ∧ (s.requestRerange p i hold).whf = s.whf ∧ (s.requestRerange p i hold).cpg = s.cpg ∧ (s.requestRerange p i hold).keys = s.keys ∧ (s.requestRerange p i hold).stw = s.stw ∧ (s.requestRerange p i hold).ldg = s.ldg ∧ (s.requestRerange p i hold).eng = s.eng ∧ (s.requestRerange p i hold).fwd = s.fwd ∧ (s.requestRerange p i hold).hrl = s.hrl ∧ (s.requestRerange p i hold).shl = s.shl ∧ (s.requestRerange p i hold).tly = s.tly ∧ (s.requestRerange p i hold).wdn = s.wdn ∧ (s.requestRerange p i hold).boot = s.boot ∧ (s.requestRerange p i hold).hst = s.hst ∧ (s.requestRerange p i hold).rdata = s.rdata := by
  have h := State.requestRerange_within (K := (· ∈ ([.act, .pm, .twn] : List Part))) (within_refl s) p i hold (by simp) (by simp) (by simp)
  exact ⟨h.pending, h.words.resolve_left (by simp), h.latch.resolve_left (by simp), h.ctrs.resolve_left (by simp), h.now.resolve_left (by simp), h.free.resolve_left (by simp), h.flt.resolve_left (by simp), h.pon.resolve_left (by simp), h.whf.resolve_left (by simp), h.cpg.resolve_left (by simp), h.keys.resolve_left (by simp), h.stw.resolve_left (by simp), h.ldg.resolve_left (by simp), h.eng.resolve_left (by simp), h.fwd.resolve_left (by simp), h.hrl.resolve_left (by simp), h.shl.resolve_left (by simp), h.tly.resolve_left (by simp), h.wdn.resolve_left (by simp), h.boot.resolve_left (by simp), h.hst.resolve_left (by simp), h.rdata.resolve_left (by simp)⟩

@[simp] theorem State.requestRerange_rd (s : State) (p : Fin 32) (i : Nat) (hold : Bool) (fld : Fld) : (s.requestRerange p i hold).rd fld = s.rd fld :=
  congrArg (fun w : Words => w.rd fld) (State.requestRerange_parts s p i hold).2.1

@[simp] theorem State.plainWrite_parts (s : State) (ag : Agent) (a : Nat) (v : Word) :
    (s.plainWrite ag a v).pending = s.pending ∧ (s.plainWrite ag a v).latch = s.latch ∧ (s.plainWrite ag a v).now = s.now ∧ (s.plainWrite ag a v).pon = s.pon ∧ (s.plainWrite ag a v).act = s.act ∧ (s.plainWrite ag a v).whf = s.whf ∧ (s.plainWrite ag a v).cpg = s.cpg ∧ (s.plainWrite ag a v).keys = s.keys ∧ (s.plainWrite ag a v).pm = s.pm ∧ (s.plainWrite ag a v).stw = s.stw ∧ (s.plainWrite ag a v).twn = s.twn ∧ (s.plainWrite ag a v).ldg = s.ldg ∧ (s.plainWrite ag a v).eng = s.eng ∧ (s.plainWrite ag a v).fwd = s.fwd ∧ (s.plainWrite ag a v).hrl = s.hrl ∧ (s.plainWrite ag a v).shl = s.shl ∧ (s.plainWrite ag a v).wdn = s.wdn ∧ (s.plainWrite ag a v).boot = s.boot ∧ (s.plainWrite ag a v).hst = s.hst ∧ (s.plainWrite ag a v).rdata = s.rdata := by
  have h := State.plainWrite_within (K := (· ∈ ([.words, .ctrs, .free, .flt, .tly] : List Part))) (within_refl s) ag a v (by simp) (by simp) (by simp) (by simp) (by simp)
  exact ⟨h.pending, h.latch.resolve_left (by simp), h.now.resolve_left (by simp), h.pon.resolve_left (by simp), h.act.resolve_left (by simp), h.whf.resolve_left (by simp), h.cpg.resolve_left (by simp), h.keys.resolve_left (by simp), h.pm.resolve_left (by simp), h.stw.resolve_left (by simp), h.twn.resolve_left (by simp), h.ldg.resolve_left (by simp), h.eng.resolve_left (by simp), h.fwd.resolve_left (by simp), h.hrl.resolve_left (by simp), h.shl.resolve_left (by simp), h.wdn.resolve_left (by simp), h.boot.resolve_left (by simp), h.hst.resolve_left (by simp), h.rdata.resolve_left (by simp)⟩

@[simp] theorem State.openLocks_parts (s : State) :
    (s.openLocks).pending = s.pending ∧ (s.openLocks).latch = s.latch ∧ (s.openLocks).ctrs = s.ctrs ∧ (s.openLocks).now = s.now ∧ (s.openLocks).free = s.free ∧ (s.openLocks).flt = s.flt ∧ (s.openLocks).pon = s.pon ∧ (s.openLocks).act = s.act ∧ (s.openLocks).whf = s.whf ∧ (s.openLocks).cpg = s.cpg ∧ (s.openLocks).keys = s.keys ∧ (s.openLocks).pm = s.pm ∧ (s.openLocks).stw = s.stw ∧ (s.openLocks).twn = s.twn ∧ (s.openLocks).ldg = s.ldg ∧ (s.openLocks).eng = s.eng ∧ (s.openLocks).fwd = s.fwd ∧ (s.openLocks).hrl = s.hrl ∧ (s.openLocks).shl = s.shl ∧ (s.openLocks).tly = s.tly ∧ (s.openLocks).wdn = s.wdn ∧ (s.openLocks).boot = s.boot ∧ (s.openLocks).hst = s.hst ∧ (s.openLocks).rdata = s.rdata := by
  have h := State.openLocks_within (K := (· ∈ ([.words] : List Part))) (within_refl s)  (by simp)
  exact ⟨h.pending, h.latch.resolve_left (by simp), h.ctrs.resolve_left (by simp), h.now.resolve_left (by simp), h.free.resolve_left (by simp), h.flt.resolve_left (by simp), h.pon.resolve_left (by simp), h.act.resolve_left (by simp), h.whf.resolve_left (by simp), h.cpg.resolve_left (by simp), h.keys.resolve_left (by simp), h.pm.resolve_left (by simp), h.stw.resolve_left (by simp), h.twn.resolve_left (by simp), h.ldg.resolve_left (by simp), h.eng.resolve_left (by simp), h.fwd.resolve_left (by simp), h.hrl.resolve_left (by simp), h.shl.resolve_left (by simp), h.tly.resolve_left (by simp), h.wdn.resolve_left (by simp), h.boot.resolve_left (by simp), h.hst.resolve_left (by simp), h.rdata.resolve_left (by simp)⟩

end Sys2Proof.Machine
end

