-- ==== Sys2Proof/Laws/Congr.lean ====
section
/-! SUPPORT. Readings that depend on one part of the state, and are the same where that part is. -/

namespace Sys2Proof.Machine

set_option autoImplicit false
set_option Elab.async false

theorem State.port_congr {t s : State} (h : t.pon = s.pon) (p : Fin 32) : t.port p = s.port p := by
  simp only [State.port, h]

theorem State.side_congr {t s : State} (h : t.pon = s.pon) (p : Fin 32) (sd : Nat) : t.side p sd = s.side p sd := by
  simp only [State.side, h]

theorem State.word_congr {t s : State} (h : t.words = s.words) (a : Nat) : t.word a = s.word a := by
  simp only [State.word, h]

theorem State.rd_congr {t s : State} (h : t.words = s.words) (f : Fld) : t.rd f = s.rd f := by
  simp only [State.rd, h]

theorem State.bit_congr {t s : State} (h : t.words = s.words) (f : Fld) : t.bit f = s.bit f := by
  simp only [State.bit, h]

theorem State.slot_congr {t s : State} (h : t.act = s.act) (p : Fin 32) (i : Nat) : t.slot p i = s.slot p i := by
  simp only [State.slot, h]

theorem State.tree_congr {t s : State} (h : t.act = s.act) (p : Fin 32) : t.tree p = s.tree p := by
  simp only [State.tree, h]

theorem State.ctr_congr {t s : State} (h : t.ctrs = s.ctrs) (a : Nat) : t.ctr a = s.ctr a := by
  simp only [State.ctr, h]

/-- Laser-on depends on the words, the faults, the boot state, twin state and the time alone. -/
theorem State.txOn_congr {t s : State} (hw : t.words = s.words) (hf : t.flt = s.flt) (hb : t.boot = s.boot) (ht : t.twn = s.twn)
    (hn : t.now = s.now) (p : Fin 32) (sd : Nat) : t.txOn p sd = s.txOn p sd := by
  simp only [State.txOn, State.txAllowed, State.sideEn, State.bit, State.rd, State.word, State.stage, State.owned, hw, hf, hb, ht, hn]
  rfl

end Sys2Proof.Machine
end

