-- ==== Sys2Proof/Laws/Mem.lean ====
section
/-! SUPPORT. The addressed memories (a guild's shared data and code banks, the flash, the staging area): every operation that
writes one keeps its canonical form. -/

namespace Sys2Proof.Machine

set_option autoImplicit false

/-- Writes one after another keep the canonical form. -/
theorem Tab.wf_foldl_set {α β : Type} [DecidableEq α] (d : Nat → α) (k : β → Nat) (x : β → α) (l : List β) (t : Tab α)
    (h : Tab.wf d t = true) : Tab.wf d (l.foldl (fun t y => Tab.set d t (k y) (x y)) t) = true := by
  induction l generalizing t with
  | nil => exact h
  | cons y l ih => exact ih _ (Tab.wf_set d t _ _ h)

/-- A guild's record after it is set. -/
theorem State.guild_setGuild (s : State) (g : Nat) (x : Guild) : (s.setGuild g x).guild g = x := by
  simp [State.guild, State.setGuild]

theorem State.setShared_wf (s : State) (g a : Nat) (v : List Byte) (h : Tab.wf (fun _ => 0) (s.guild g).shared = true) :
    Tab.wf (fun _ => 0) ((s.setShared g a v).guild g).shared = true := by
  unfold State.setShared
  rw [State.guild_setGuild]
  exact Tab.wf_foldl_set _ (fun y : Byte × Nat => y.2) (fun y => y.1) _ _ h

theorem State.initShared_wf (s : State) (g : Nat) : Tab.wf (fun _ => 0) ((s.initShared g).guild g).shared = true := by
  unfold State.initShared
  rw [State.guild_setGuild]
  exact Tab.wf_foldl_set _ (fun a : Nat => a) _ _ [] rfl

/-- A write of the standby bank keeps both banks' form. -/
theorem State.gldStore_wf (s : State) (g idx first : Nat) (ws : List Word) (ha : Tab.wf (fun _ => 0) (s.guild g).bankA = true)
    (hb : Tab.wf (fun _ => 0) (s.guild g).bankB = true) :
    Tab.wf (fun _ => 0) ((s.gldStore g idx first ws).guild g).bankA = true ∧
    Tab.wf (fun _ => 0) ((s.gldStore g idx first ws).guild g).bankB = true := by
  have e : ∀ y : Guild, ((((s.setGuild g y).wr (Reg.GLD_BANK.RESULT g) 0).storeStbyGen g).guild g) = y := by
    intro y
    have h : ((((s.setGuild g y).wr (Reg.GLD_BANK.RESULT g) 0).storeStbyGen g).eng) = (s.setGuild g y).eng := by
      simp [State.storeStbyGen]
    rw [State.guild, h]
    exact State.guild_setGuild s g y
  unfold State.gldStore
  dsimp only
  rw [e]
  split
  · exact ⟨Tab.wf_foldl_set _ (fun y : Word × Nat => idx * 16 + y.2) (fun y => y.1) _ _ ha, hb⟩
  · exact ⟨ha, Tab.wf_foldl_set _ (fun y : Word × Nat => idx * 16 + y.2) (fun y => y.1) _ _ hb⟩

theorem State.putSector_wf (s : State) (n : Nat) (f : Nat → Byte) (h : Tab.wf flashErased s.boot.flash = true) :
    Tab.wf flashErased (s.putSector n f).boot.flash = true := by
  unfold State.putSector
  generalize List.range 4096 = l
  exact Tab.wf_foldl_set flashErased (fun i : Nat => n * 4096 + i) f l _ h

theorem State.hostWinWrite_wf (s : State) (ag : Agent) (a x : Nat) (v : Word) (h : Tab.wf stageEmpty s.boot.stage = true) :
    Tab.wf stageEmpty (s.hostWinWrite ag a x v).boot.stage = true := by
  unfold State.hostWinWrite
  split
  · simp only [State.deny, State.denyAs_parts]
    exact h
  · rename_i k _
    generalize (leBytes 4 v.toNat).zipIdx = l
    exact Tab.wf_foldl_set stageEmpty (fun b : Byte × Nat => k + b.2) (fun b => b.1) l _ h

end Sys2Proof.Machine
end

