-- ==== Sys2Proof/Laws/Ports.lean ====
section
/-! SUPPORT. A port's frame count and phase are changed by the frame tick itself alone: locking, sending and losing a frame keep
every port's (02_pon_line_framing.md R32 to R40). -/

namespace Sys2Proof.Machine

set_option autoImplicit false
set_option Elab.async false

/-- A part that is not the PON line's. -/
def offPon (k : Part) : Prop := k ≠ .pon

/-- Every part but the PON line's. -/
theorem offPon_all : offPon .words ∧ offPon .latch ∧ offPon .ctrs ∧ offPon .now ∧ offPon .free ∧ offPon .flt ∧ offPon .act ∧ offPon .whf ∧ offPon .cpg ∧ offPon .keys ∧ offPon .pm ∧ offPon .stw ∧ offPon .twn ∧ offPon .ldg ∧ offPon .eng ∧ offPon .fwd ∧ offPon .hrl ∧ offPon .shl ∧ offPon .tly ∧ offPon .wdn ∧ offPon .boot ∧ offPon .hst ∧ offPon .rdata :=
  ⟨nofun, nofun, nofun, nofun, nofun, nofun, nofun, nofun, nofun, nofun, nofun, nofun, nofun, nofun, nofun, nofun, nofun, nofun, nofun, nofun, nofun, nofun, nofun⟩

theorem ports_within {t s : State} (h : t.Within offPon s) : t.pon.ports = s.pon.ports :=
  congrArg Pon.ports (h.pon.resolve_left (fun e => e rfl))

/-- A fold of steps each of which keeps the ports keeps them. -/
theorem foldl_ports {α : Type} (l : List α) (f : State → α → State) (hf : ∀ t x, (f t x).pon.ports = t.pon.ports) (s : State) :
    (l.foldl f s).pon.ports = s.pon.ports := by
  induction l generalizing s with
  | nil => rfl
  | cons x t ih => rw [List.foldl_cons, ih, hf]

theorem foldl_fst_ports {α β : Type} (l : List α) (f : State × β → α → State × β) (hf : ∀ t x, (f t x).1.pon.ports = t.1.pon.ports)
    (r : State × β) : (l.foldl f r).1.pon.ports = r.1.pon.ports := by
  induction l generalizing r with
  | nil => rfl
  | cons x t ih => rw [List.foldl_cons, ih, hf]

theorem State.setSide_ports (s : State) (p : Fin 32) (sd : Nat) (x : PonSide) : (s.setSide p sd x).pon.ports = s.pon.ports := rfl

theorem State.carry_ports (s : State) (p : Fin 32) (sd : Nat) (m : BwMap) : (s.carry p sd m).pon.ports = s.pon.ports :=
  ports_within (State.carry_within (within_refl s) p sd m nofun nofun nofun nofun nofun nofun)

theorem State.buildOne_ports (s : State) (b : Build) (p : Fin 32) (sd n : Nat) (r : Bool) :
    (s.buildOne b p sd n r).1.pon.ports = s.pon.ports :=
  ports_within (by obtain ⟨_, _, _, _, _, _, _, _, _, _, _, _, _, _, _, _, _, _, _, _, _, _, _⟩ := offPon_all; exact State.buildOne_within (within_refl s) ..)

theorem State.ctiBefore_ports (s : State) (p : Fin 32) (f n : Nat) (l : List CtiRec) (ms : List BwMap) :
    (s.ctiBefore p f n l ms).pon.ports = s.pon.ports := rfl

theorem State.awaitAck_ports (s : State) (p : Fin 32) (sd n : Nat) (m : Ploam) : (s.awaitAck p sd n m).pon.ports = s.pon.ports :=
  ports_within (by obtain ⟨_, _, _, _, _, _, _, _, _, _, _, _, _, _, _, _, _, _, _, _, _, _, _⟩ := offPon_all; exact State.awaitAck_within (within_refl s) ..)

theorem State.micKey_ports (s : State) (p : Fin 32) (onu label : Nat) : (s.micKey p onu label).pon.ports = s.pon.ports :=
  ports_within (by obtain ⟨_, _, _, _, _, _, _, _, _, _, _, _, _, _, _, _, _, _, _, _, _, _, _⟩ := offPon_all; exact State.micKey_within (within_refl s) ..)

theorem State.drainQueue_ports (s : State) (p : Fin 32) (sd q key fuel n : Nat) : (s.drainQueue p sd q key fuel n).pon.ports = s.pon.ports :=
  ports_within (by obtain ⟨_, _, _, _, _, _, _, _, _, _, _, _, _, _, _, _, _, _, _, _, _, _, _⟩ := offPon_all; exact State.drainQueue_within (within_refl s) ..)

theorem State.cipherPiece_ports (s : State) (sfc pos : Nat) (o : Out) (n : Nat) : (s.cipherPiece sfc pos o n).1.pon.ports = s.pon.ports :=
  ports_within (by obtain ⟨_, _, _, _, _, _, _, _, _, _, _, _, _, _, _, _, _, _, _, _, _, _, _⟩ := offPon_all; exact State.cipherPiece_within (within_refl s) ..)

theorem State.unref_ports (s : State) (h : Nat) : (s.unref h).pon.ports = s.pon.ports :=
  ports_within (by obtain ⟨_, _, _, _, _, _, _, _, _, _, _, _, _, _, _, _, _, _, _, _, _, _, _⟩ := offPon_all; exact State.unref_within (within_refl s) ..)

theorem State.fillTo_ports (s : State) (p : Fin 32) (sd stop : Nat) : (s.fillTo p sd stop).pon.ports = s.pon.ports := rfl

theorem State.sendPiece_ports (s : State) (p : Fin 32) (sd key sfc pos n : Nat) (o : Out) (t : List Out) :
    (s.sendPiece p sd key sfc pos n o t).pon.ports = s.pon.ports := by
  unfold State.sendPiece
  extract_lets put r
  have hp : ∀ (u : State) l, (put u l).pon.ports = u.pon.ports := fun u l => rfl
  have hr : r.1.pon.ports = s.pon.ports := State.cipherPiece_ports ..
  split
  · exact (State.unref_ports ..).trans ((hp ..).trans hr)
  · split
    · exact (State.unref_ports ..).trans ((hp ..).trans hr)
    · exact (hp ..).trans hr

theorem State.serveSpan_ports (s : State) (p : Fin 32) (sd key sfc stop fin n : Nat) :
    (s.serveSpan p sd key sfc stop fin n).pon.ports = s.pon.ports := by
  induction n generalizing s with
  | zero => rfl
  | succ n ih =>
    unfold State.serveSpan
    repeat' first
      | with_reducible rfl
      | exact (ih ..).trans (State.sendPiece_ports ..)
      | exact State.fillTo_ports ..
      | split
      | dsimp only

theorem State.serveRun_ports (s : State) (p : Fin 32) (sd sfc total : Nat) (fec : Bool) (r : Run) :
    (s.serveRun p sd sfc total fec r).pon.ports = s.pon.ports := by
  unfold State.serveRun
  extract_lets a b base key s1 s2
  have h1 : s1.pon.ports = s.pon.ports := State.serveSpan_ports ..
  have h2 : s2.pon.ports = s.pon.ports := by
    dsimp only [s2]
    split
    · exact h1
    · exact (State.drainQueue_ports ..).trans h1
  exact (State.serveSpan_ports ..).trans h2

theorem State.serveFrame_ports (s : State) (p : Fin 32) (sd n : Nat) : (s.serveFrame p sd n).pon.ports = s.pon.ports := by
  unfold State.serveFrame
  extract_lets fec total s1
  have h1 : s1.pon.ports = s.pon.ports := foldl_ports _ _ (fun t r => State.serveRun_ports ..) s
  have h2 := (State.serveSpan_ports s1 p sd (p.val * 2 + sd) n total total (s1.serveFuel (p.val * 2 + sd))).trans h1
  clear_value s1 fec total
  have h3 : (s.fillTo p sd total).pon.ports = s.pon.ports := rfl
  generalize s.fillTo p sd total = u at h3
  generalize s1.serveSpan p sd (p.val * 2 + sd) n total total (s1.serveFuel (p.val * 2 + sd)) = v at h2
  split
  · split
    · exact h3
    · exact h2
  · exact h2

theorem State.openQuiet_ports (s : State) (p : Fin 32) (sd n : Nat) : (s.openQuiet p sd n).pon.ports = s.pon.ports := by
  unfold State.openQuiet
  dsimp only
  split <;> rfl

theorem State.setDisc_ports (s : State) (p : Fin 32) (sd : Nat) (x : Disc) : (s.setDisc p sd x).pon.ports = s.pon.ports := rfl

theorem State.setSlot_ports (s : State) (p : Fin 32) (i : Nat) (x : Slot) : (s.setSlot p i x).pon.ports = s.pon.ports :=
  ports_within (by obtain ⟨_, _, _, _, _, _, _, _, _, _, _, _, _, _, _, _, _, _, _, _, _, _, _⟩ := offPon_all; exact State.setSlot_within (within_refl s) ..)

theorem State.profileBroadcast_ports (s : State) (p : Fin 32) (sd n : Nat) : (s.profileBroadcast p sd n).pon.ports = s.pon.ports :=
  ports_within (by obtain ⟨_, _, _, _, _, _, _, _, _, _, _, _, _, _, _, _, _, _, _, _, _, _, _⟩ := offPon_all; exact State.profileBroadcast_within (within_refl s) ..)

theorem State.takePartition_ports (s : State) (p : Fin 32) (sd n : Nat) : (s.takePartition p sd n).1.pon.ports = s.pon.ports :=
  ports_within (by obtain ⟨_, _, _, _, _, _, _, _, _, _, _, _, _, _, _, _, _, _, _, _, _, _, _⟩ := offPon_all; exact State.takePartition_within (within_refl s) ..)

theorem State.count_ports (s : State) (a n : Nat) : (s.count a n).pon.ports = s.pon.ports := by simp

theorem State.inc_ports (s : State) (a : Nat) : (s.inc a).pon.ports = s.pon.ports := by simp

theorem State.rebuildTree_ports (s : State) (p : Fin 32) (f : Nat) (b : Build) : (s.rebuildTree p f b).1.pon.ports = s.pon.ports := by
  unfold State.rebuildTree
  extract_lets n back s1 b1
  have hb : back.pon.ports = s.pon.ports := by
    refine foldl_ports _ _ (fun u sd => ?_) s
    dsimp only
    split
    · rfl
    · exact (State.setSide_ports ..).trans (State.carry_ports ..)
  exact (foldl_fst_ports _ _ (fun a sd => State.buildOne_ports ..) _).trans ((State.ctiBefore_ports ..).trans hb)

theorem State.deferSwap_ports (s : State) (p : Fin 32) : (s.deferSwap p).pon.ports = s.pon.ports := by
  unfold State.deferSwap
  split
  · refine (foldl_ports _ _ (fun t b => ?_) _).trans rfl
    split
    · exact State.rebuildTree_ports ..
    · rfl
  · rfl

theorem State.inflight_ports (s : State) (p : Fin 32) (m : BwMap) : (s.inflight p m).pon.ports = s.pon.ports :=
  ports_within (by obtain ⟨_, _, _, _, _, _, _, _, _, _, _, _, _, _, _, _, _, _, _, _, _, _, _⟩ := offPon_all; exact State.inflight_within (within_refl s) ..)

theorem State.carryLate_ports (s : State) (p : Fin 32) (sd n : Nat) : (s.carryLate p sd n).pon.ports = s.pon.ports := by
  unfold State.carryLate
  refine foldl_ports _ _ (fun t b => ?_) s
  split
  · exact State.carry_ports ..
  · rfl

theorem State.lock_ports (s : State) (p : Fin 32) (sd : Nat) : (s.lock p sd).pon.ports = s.pon.ports := by
  have hp : ∀ t : State, (if s.shadow p = true then t else t.profileBroadcast p sd (s.nextFrame p)).pon.ports = t.pon.ports := by
    intro t; split
    · rfl
    · exact State.profileBroadcast_ports ..
  have hf : ∀ (f : Option BwMap) (c : Bool) (t : State),
      (match f with | some m => if c then t.inflight p m else t | none => t).pon.ports = t.pon.ports := by
    intro f c t
    cases f with
    | none => rfl
    | some m => cases c with
      | false => rfl
      | true => exact State.inflight_ports ..
  unfold State.lock
  extract_lets n found s0 sF part s1 x m0 good m late s2 tw s3 s4 s5
  have h0 : s0.pon.ports = s.pon.ports := hp s
  have hF : sF.pon.ports = s.pon.ports := (hf found (s.lockFallback p sd n) s0).trans h0
  have h1 : s1.pon.ports = s.pon.ports := by
    refine Eq.trans ?_ hF
    show part.1.pon.ports = sF.pon.ports
    simp only [part]
    split
    · rfl
    · exact State.takePartition_ports ..
  have h3 : s3.pon.ports = s.pon.ports := h1
  have h4 : s4.pon.ports = s.pon.ports := ((State.count_ports ..).trans (State.count_ports ..)).trans h3
  have h5 : s5.pon.ports = s.pon.ports := (State.carryLate_ports s4 p sd n).trans h4
  split
  · exact h3
  · split
    · split
      · exact (State.deferSwap_ports ..).trans h5
      · exact h5
    · exact h4

theorem State.lockAtTick_ports (s : State) (p : Fin 32) (sd n : Nat) : (s.lockAtTick p sd n).pon.ports = s.pon.ports := by
  unfold State.lockAtTick
  repeat' first
    | with_reducible exact State.lock_ports ..
    | with_reducible rfl
    | split

theorem State.ploamSent_ports (s : State) (p : Fin 32) (sd n : Nat) (m : Ploam) : (s.ploamSent p sd n m).pon.ports = s.pon.ports := by
  have hs : ∀ x y, ((s.inc x).setSide p sd y).pon.ports = s.pon.ports := fun x y => (State.setSide_ports ..).trans (State.inc_ports ..)
  have hw : ∀ x y f v, (((s.inc x).setSide p sd y).wr f v).pon.ports = s.pon.ports := fun x y f v => hs x y
  have ht : ∀ x, (s.setTreeSt p x).pon.ports = s.pon.ports := fun x => rfl
  unfold State.ploamSent
  repeat' first
    | with_reducible exact State.setSlot_ports ..
    | with_reducible rfl
    | with_reducible exact State.inc_ports ..
    | with_reducible exact hs ..
    | with_reducible exact hw ..
    | with_reducible exact ht ..
    | split
    | dsimp only

theorem State.wideSent_ports (s : State) (p : Fin 32) (sd n : Nat) (e : Bool) : (s.wideSent p sd n e).pon.ports = s.pon.ports := by
  unfold State.wideSent
  dsimp only
  split
  · rfl
  · split
    · exact (State.inc_ports ..).trans (State.setSide_ports ..)
    · exact State.setSide_ports ..

theorem State.sendFrame_ports (s : State) (p : Fin 32) (sd idle : Nat) (l : Locked) : (s.sendFrame p sd idle l).pon.ports = s.pon.ports := by
  unfold State.sendFrame
  extract_lets n x y cost mics s1 s2 s3 windows dd s4 s5 s6
  have h2 : s2.pon.ports = s.pon.ports := State.inc_ports ..
  have h3 : s3.pon.ports = s.pon.ports := by
    dsimp only [s3]
    split
    · exact (State.inc_ports ..).trans h2
    · exact h2
  have h4 : s4.pon.ports = s.pon.ports := by
    refine (State.count_ports ..).trans ?_
    split
    · exact h3
    · exact h3
  have h5 : s5.pon.ports = s.pon.ports := by
    refine (foldl_ports _ _ (fun t m => ?_) _).trans h4
    have hm := (State.micKey_ports (t.ploamSent p sd n m) p m.onu 0).trans (State.ploamSent_ports t p sd n m)
    dsimp only
    split
    · exact hm
    · exact (State.awaitAck_ports ..).trans hm
  exact (State.count_ports ..).trans ((State.serveFrame_ports ..).trans ((State.wideSent_ports ..).trans ((State.openQuiet_ports ..).trans h5)))

theorem State.loseFrame_ports (s : State) (p : Fin 32) (sd : Nat) (l : Locked) : (s.loseFrame p sd l).pon.ports = s.pon.ports := by
  unfold State.loseFrame
  refine (foldl_ports _ _ (fun t m => ?_) _).trans ((State.setDisc_ports ..).trans (State.carry_ports ..))
  split
  · rfl
  · exact State.awaitAck_ports ..

theorem State.dropUnsent_ports (s : State) (p : Fin 32) (sd n : Nat) : (s.dropUnsent p sd n).pon.ports = s.pon.ports := by
  unfold State.dropUnsent
  exact (State.setDisc_ports ..).trans ((State.setSide_ports ..).trans (foldl_ports _ _ (fun t m => State.carry_ports ..) _))

theorem State.tickSide_ports (s : State) (p : Fin 32) (sd n idle : Nat) : (s.tickSide p sd n idle).pon.ports = s.pon.ports := by
  have hl : ∀ a w, ((s.inc Cnt.TWN_LOST_FRAMES).putWord a w).pon.ports = s.pon.ports := fun a w => State.inc_ports ..
  unfold State.tickSide
  repeat' first
    | with_reducible exact (State.loseFrame_ports ..).trans (hl ..)
    | with_reducible exact (State.dropUnsent_ports ..).trans (hl ..)
    | with_reducible exact State.loseFrame_ports ..
    | with_reducible exact State.dropUnsent_ports ..
    | with_reducible exact State.sendFrame_ports ..
    | with_reducible exact State.setSide_ports ..
    | with_reducible rfl
    | split
    | dsimp only

/-- After a frame tick the port's count is that of the frame it began, and a phase offset has been taken. -/
theorem State.port_setPort (s : State) (p q : Fin 32) (x : PonPort) : (s.setPort p x).port q = if q = p then x else s.port q := by
  unfold State.port State.setPort
  rw [Tab.get_set]
  by_cases h : q = p
  · simp [h]
  · rw [if_neg h, if_neg (fun e => h (Fin.ext e))]

end Sys2Proof.Machine
end

