-- ==== Sys2Proof/WellFormed.lean ====
section
/-! DEFINITION. Well-formed commands: operands whose type is wider than what the spec gives the row. A command that is not
well formed still has a meaning; no statement rests on one. -/

namespace Sys2Proof

set_option autoImplicit false

/-- The operands of a command fit the fields the spec gives them. -/
def Instr.wf : Instr → Bool
  | .frameTick _ _ _ => true
  -- one count a guild
  | .paceWindowEnd done _ => done.all (fun x => decide ((done.filter (fun y => y.1 == x.1)).length = 1))
  | .mapBuildStart => true
  | .assayerCheck _ _ _ => true
  | .mapRelease _ _ => true
  | .mapLock _ _ => true
  -- a length has 16 bits
  | .uplinkFrameRx _ bytes _ _ => decide (bytes.length < 65536)
  | .uplinkFrameTx _ _ _ _ => true
  | .phaseOffsetWrite _ _ _ => true
  | .dsEnableWrite _ _ _ => true
  | .ocbCommit _ _ _ _ => true
  | .alignModeWrite _ _ _ => true
  | .psyncMatch _ _ _ _ => true
  | .trackerCheck _ _ _ _ _ => true
  | .syncPsbdCheck _ _ _ _ _ => true
  | .burstStart _ _ => true
  -- a delimiter has at most 64 bits to differ in (R43)
  | .delimWindowClose _ _ cands => cands.all (fun c => decide (c.2 ≤ 64))
  -- codewords corrected or lost are codewords; an Alloc-ID has 14 bits
  | .burstEnd _ _ b => decide (b.corr + b.unc ≤ b.cw) && b.reports.all (fun r => decide (r.1 < 2 ^ 14)) && b.frames.all (fun r => decide (r.1 < 2 ^ 14))
  -- PLI has 14 bits
  | .upstreamXgemFrame _ _ _ _ _ _ bytes _ _ _ => decide (bytes.length ≤ 16383)
  | .upstreamPloamRx _ _ _ _ _ _ _ => true
  | .strayDelimiter _ _ _ _ _ => true
  | .strayEnergyEpisode _ _ _ _ => true
  | .usLossOnset _ _ => true
  | .presetWindowWrite _ _ _ _ => true
  | .presetAgeExpiry _ _ _ => true
  | .ploamAckTimeout _ _ => true
  | .teqdWrite _ _ _ => true
  | .reachWrite _ _ _ => true
  | .discPeriodStart _ _ => true
  -- a serial number has 64 bits
  | .quietSpanClose _ _ eps => eps.all (fun x => decide (x.sn < 2 ^ 64))
  | .snResponse _ => true
  | .rangingResponse _ _ _ => true
  | .rangingNoResponse _ _ => true
  -- a Registration_ID has 36 bytes
  | .registrationRx _ _ regId => decide (regId / 2 ^ 144 < 2 ^ 144)
  | .keyReportRx _ _ _ _ => true
  | .keyExchangeTimeout _ _ => true
  | .registrationTimeout _ _ => true
  | .lostWaitExpiry _ _ => true
  | .rampStart _ _ => true
  | .rampStop _ _ => true
  | .deactivate _ _ _ => true
  | .enable _ _ _ => true
  | .disable _ _ _ => true
  | .rampTimeout _ => true
  | .rogueHuntStart _ _ => true
  | .rogueWatchEnd _ => true
  | .allocWrite _ _ _ _ _ _ _ _ => true
  | .ctiRecordTake => true
  | .fsiPageWrite _ _ _ => true
  | .swapRequest _ _ => true
  | .swapValidationDone _ => true
  | .bdeactUnlock _ _ => true
  | .whfAlgWrite _ _ => true
  | .sorterDispatch => true
  | .expressLookup _ _ => true
  | .windowLoadDone _ _ _ => true
  | .sorterRelease _ => true
  | .reorderTimeout _ => true
  | .add _ _ _ _ => true
  | .sub _ _ _ _ => true
  | .and _ _ _ _ => true
  | .or _ _ _ _ => true
  | .xor _ _ _ _ => true
  | .shl _ _ _ _ => true
  | .shr _ _ _ _ => true
  | .sar _ _ _ _ => true
  | .min _ _ _ _ => true
  | .max _ _ _ _ => true
  | .cmp _ _ _ _ => true
  | .popc _ _ _ _ => true
  | .bfx _ _ _ _ => true
  | .bfi _ _ _ _ => true
  | .movi _ _ _ _ => true
  | .beq _ _ _ _ => true
  | .bne _ _ _ _ => true
  | .blt _ _ _ _ => true
  | .bge _ _ _ _ => true
  | .bltu _ _ _ _ => true
  | .bgeu _ _ _ _ => true
  | .jmp _ _ _ _ => true
  | .call _ _ _ _ => true
  | .ret _ _ _ _ => true
  | .ld _ _ _ _ _ => true
  | .st _ _ _ _ => true
  | .dadd _ _ _ _ => true
  | .dor _ _ _ _ => true
  | .dinc _ _ _ _ => true
  | .fadd _ _ _ _ => true
  | .cas _ _ _ _ => true
  | .parseNext _ _ _ _ => true
  | .parseSkip _ _ _ _ => true
  | .parseSetht _ _ _ _ => true
  | .kclr _ _ _ _ => true
  | .kcat _ _ _ _ => true
  | .kreg _ _ _ _ => true
  | .lookupLdg _ _ _ _ => true
  | .lookupExm _ _ _ _ => true
  | .lookupWait _ _ _ _ => true
  | .ins _ _ _ _ => true
  | .del _ _ _ _ => true
  | .csum _ _ _ _ => true
  | .setv _ _ _ _ => true
  | .setq _ _ _ _ => true
  | .setb _ _ _ _ => true
  | .setr _ _ _ _ => true
  | .setm _ _ _ _ => true
  | .setx _ _ _ _ => true
  | .setc _ _ _ _ => true
  | .endPass _ _ _ _ => true
  | .nop _ _ _ _ => true
  | .movs _ _ _ _ => true
  | .trap _ _ _ _ => true
  | .handoff _ _ _ _ => true
  | .lookupResult _ _ _ _ => true
  | .engineWdog _ _ => true
  | .engineParity _ _ _ => true
  | .costWindowEnd _ => true
  | .engEnWrite _ _ _ => true
  -- an entry has 16 words
  | .standbyBankWrite _ _ _ first ws => decide (first.val + ws.length ≤ 16)
  | .validateBank _ _ => true
  | .validateDone _ => true
  | .drain _ _ _ => true
  | .abort _ _ _ => true
  | .guildLoad _ _ _ => true
  | .drainComplete _ => true
  | .drainStuck _ => true
  | .switchDone _ => true
  | .checkDone _ _ => true
  | .ledgerSearch _ _ _ _ _ => true
  | .exmSearch _ _ _ _ _ => true
  | .ldgWrite _ _ _ => true
  | .ldgInsert _ _ _ => true
  | .ledgerMove => true
  | .delete _ _ _ _ => true
  | .modify _ _ _ _ => true
  | .addKey _ _ _ _ => true
  | .lookup _ _ _ _ _ => true
  | .openEpoch _ _ _ => true
  | .publish _ _ _ => true
  | .discard _ _ _ => true
  | .respreadMove _ => true
  | .scrubRow _ _ _ => true
  | .stashDrainPass _ => true
  | .epochRetire => true
  | .sweepDone _ _ => true
  | .epochStuck _ => true
  | .enqueue => true
  | .bufferRelease _ => true
  | .freeStw _ _ => true
  | .cellarWriteDone _ => true
  | .cellarRefill _ _ => true
  | .schedSelect _ _ => true
  -- PLI has 14 bits
  | .cipherDownstream _ _ _ => true
  | .bucketSweep => true
  | .bucketWord0Write _ _ _ => true
  | .debtClear _ _ _ => true
  | .statsSample _ => true
  | .statsClear _ _ _ => true
  | .poolCfgWrite _ _ _ => true
  | .cellarEnable _ _ => true
  | .keyLoad _ _ => true
  | .keyActivate _ _ => true
  | .keyErase _ _ => true
  | .keyRestore _ => true
  | .retiringTimeout _ => true
  | .shasolMessageRx _ _ => true
  | .tagCheckDone _ _ _ => true
  | .shasolMessageTx _ _ => true
  | .heartbeatSend => true
  -- masks over 32 trees; an SFC
  | .heartbeat h _ _ => [h.own, h.ready, h.seen50, h.seen10, h.avail].all (fun m => decide (m < 2 ^ 32)) && decide (h.seq < 2 ^ 32) && decide (h.sfc < 2 ^ 51)
  -- an SFC has 51 bits
  | .mapMsg _ _ _ m => decide (m.sfc < 2 ^ 51)
  | .dbaState _ _ _ _ => true
  -- an ONU-ID has 10 bits, a sequence number 8
  | .ploamQ _ _ _ _ enter leave waits => (enter ++ leave ++ waits.map (·.msg)).all (fun x => decide (x.onu < 1024) && decide (x.seq < 256))
  -- a tree has 256 slots; a serial number has 64 bits
  | .slotMsg _ _ _ x _ _ _ admitted => decide (admitted ≤ 256) && (match x.sn with | some n => decide (n < 2 ^ 64) | none => true)
  -- a word of BAR0; an entry has at most 32 words
  | .tableMsg _ _ w => (match w with | .reg a _ => decide (a % 4 = 0 ∧ a < 0x1000000) | .win _ _ first vs => decide (first + vs.length ≤ 32) | .swap => true)
  | .keyMsg _ _ _ _ => true
  | .faultMsg _ => true
  | .releaseMsg _ _ _ _ => true
  | .takenMsg _ => true
  | .requestMsg _ _ => true
  -- an SFC; slots and allocations of one tree
  | .syncMsg _ _ c => decide (c.sfc < 2 ^ 51) && c.slots.all (fun x => decide (x.1 < 256)) && c.allocs.all (fun x => decide (x.1 < 1024))
  | .heartbeatLoss => true
  | .partnerDarkChange _ => true
  | .darkStuckTimeout => true
  | .livenessLoss => true
  | .takeoverWarm => true
  | .take _ _ => true
  | .give _ _ => true
  | .offWaitExpiry => true
  | .releaseFail => true
  | .domainEnWrite _ _ _ => true
  | .phaseSampleCommit _ _ _ => true
  | .ppsInEdge _ => true
  -- the message of R591 has 16 bytes
  | .todMessageRx _ bytes => decide (bytes.length = 16)
  | .sourceTimeout _ => true
  | .wtrExpiry => true
  | .switchOutput _ _ => true
  | .outStep _ _ => true
  | .reacquire _ _ _ => true
  | .ppsOutEdge => true
  | .todOutSend => true
  | .tsRecordRead _ _ => true
  | .todAnnounce _ _ => true
  | .ponFreqMeasure _ => true
  | .synceSquelch _ => true
  | .synceResume _ => true
  | .ulkCfgWrite _ _ _ => true
  | .ulkRetrain _ _ _ => true
  | .ulkLinkChange _ _ _ _ _ _ _ => true
  | .tileStart _ => true
  | .laneEnWrite _ _ _ => true
  | .rxDetectPulse _ _ => true
  | .rxEnergy _ => true
  | .laneEnergyLoss _ => true
  | .trainingFrameRx _ _ _ => true
  | .trainTimeout _ => true
  | .bitLock _ => true
  | .bitLockLost _ => true
  | .commaRx _ _ _ _ _ => true
  | .commaMissing _ => true
  | .lockTimeout _ => true
  -- fields of CAP (Table 12-8)
  | .capRx _ c => decide (c.role < 4) && decide (c.addr < 256) && decide (c.lane < 16) && decide (c.serial < 2 ^ 64) && decide (c.nonce < 2 ^ 64)
  | .mismatchHoldExpiry _ => true
  | .exchangeTimeout _ => true
  | .shasolRetrain _ _ _ => true
  | .sessOffer _ _ => true
  | .sessAnswer _ _ => true
  | .sessOfferTimeout _ => true
  | .marginSample _ _ _ => true
  | .strapLatch _ => true
  | .genEnWrite _ _ _ => true
  | .injGo _ _ _ => true
  | .checkerLock _ _ => true
  | .checkerLockLost _ _ => true
  | .helloSend => true
  | .hello _ _ _ _ => true
  | .neighbourTimeout _ => true
  -- fields of an LSA (Table 13-1)
  | .lsa _ l => decide (l.addr < 256) && decide (l.serial < 2 ^ 64) && decide (l.seq < 2 ^ 32) && decide (l.nbrs.length ≤ 16)
  | .lsaRefresh => true
  | .lsaExpiry _ => true
  | .addressSettle => true
  | .routeRecompute => true
  -- a length has 16 bits
  | .packet _ bytes _ => decide (bytes.length < 65536)
  | .masterLostTimeout => true
  | .fabCfgWrite _ _ => true
  | .bindingWrite _ _ _ => true
  | .filterWindowEnd _ _ => true
  -- 64 outboxes a block code
  | .faultMessageRx box _ => decide (box < 2048)
  -- 64 outboxes a block code
  | .fltMsgLost box => decide (box < 2048)
  | .safeStateEntry => true
  | .faultQueueRead _ => true
  | .kindCfgWrite _ _ _ => true
  | .kindStatusClear _ _ _ => true
  | .isoRestore _ _ => true
  | .safeExit _ _ => true
  | .captureClr _ _ => true
  | .autoRestart => true
  | .handshakeStall _ _ => true
  | .analogCauseOnset _ => true
  | .analogCauseEnd _ => true
  | .tempSample _ _ => true
  | .stewardWdog _ _ => true
  | .goldenPassDone _ => true
  | .sramSliceTest _ _ _ _ => true
  -- the rows exist
  | .ledgerSliceTest first n _ => decide (first.val + n ≤ 65536)
  | .bufferAudit _ _ => true
  | .eyeScan _ _ => true
  | .wardenForceStart => true
  | .wdnLate => true
  | .tallyConfigWrite _ _ _ => true
  | .snap _ _ => true
  | .snapPeriodic => true
  | .snapshotDone _ => true
  | .pmSecondEnd => true
  -- codewords lost are codewords
  | .dsReport _ _ cw unc _ _ => decide (unc ≤ cw)
  | .dsReportRequest => true
  | .dsReportMissing _ _ => true
  | .pmClear _ _ => true
  | .pmClearAll _ _ => true
  | .powerOnReset => true
  | .resetRelease => true
  | .warmReset _ _ => true
  | .txdisSample _ => true
  | .enterS1 _ => true
  -- GEN and SVN of a header (Table 16-5)
  | .bankFetchDone _ p => decide (p.tables.length ≤ 256)
  | .enterS2 => true
  | .enterS3 => true
  | .stageLate => true
  | .hostImage _ _ => true
  | .svnCommit _ _ => true
  | .flashErase _ _ _ => true
  | .flashProgram _ _ _ => true
  | .mxpStatusUpdate => true
  | .mxpFaultToggle => true
  | .omciResponseRx _ _ _ => true
  | .stwFwValidate _ _ _ => true
  | .stwFwSwitch _ _ => true
  | .stwFwReady => true
  | .stwFwFallback => true
  | .pcieReset _ => true
  | .functionLevelReset _ => true
  | .pcieLinkDown => true
  | .unassignedAccess _ _ _ _ => true
  | .winRead _ _ _ => true
  | .winWrite _ _ _ => true
  | .lockOpen _ _ _ => true
  | .lockClose _ _ _ => true
  | .lockSeal _ _ _ => true
  | .ringEnWrite _ _ _ => true
  | .ringTailWrite _ _ _ => true
  | .rxRingDeliver _ _ => true
  -- a ring entry has eight words (R551)
  | .txEntry _ e _ => decide (e.length = 8)
  | .dmaError _ _ => true
  | .coalTimerExpiry _ => true
  | .rearm _ _ => true
  | .vfPortsWrite _ _ _ => true
  | .registerWrite _ _ _ _ => true
  | .ppsMissed _ => true
  | .pcieLinkUp _ _ _ => true
  | .registerRead _ _ _ => true
  | .restartAgeOut => true

end Sys2Proof
end

