-- ==== Sys2Proof/Tests/Slice0.lean ====
section
/-! SUPPORT. Tests of the model: states and operands that meet the hypotheses of every statement, ill-formed commands that
Instr.wf refuses, worked examples of the spec and single steps. -/

namespace Sys2Proof.Tests

set_option autoImplicit false
set_option Elab.async false
set_option maxRecDepth 4000

open Sys2Proof.Machine


/-- A state in service: stage S3, the image applied, port 0 sending on both sides. -/
def tOn : State :=
  let s := ((State.reset.wr Reg.BOOT_STATUS.STAGE 3).wr (Reg.PT_DS_CFG.EN50 0) 1).wr (Reg.PT_DS_CFG.EN10 0) 1
  { s with boot := { s.boot with released := true, sampled := true, applied := true }, shl := { s.shl with latched := true } }

/-- In safe state. -/
def tSafe : State := { State.reset with flt := { State.reset.flt with safe := true } }

/-- A twin that owns no tree. -/
def tShadow : State := tOn.wr Reg.TWN_CFG.EN 1

/-- The Steward is paused. -/
def tPaused : State := { tOn with stw := { tOn.stw with paused := true } }

/-- Lanes 0 and 4 in a state of Table 12-8. -/
def tLane (n : Nat) : State := (tOn.wr (Reg.SHL_LANE_STATUS.STATE 0) n).wr (Reg.SHL_LANE_STATUS.STATE 4) n

/-- A context's pass at its start, the window loaded. -/
def tCtx : Ctx := { Ctx.start 0 false Desc.zero 0 with loading := false }

/-- An instruction word's high half. -/
def tHi (cls op d a b m : Nat) : Word := BitVec.ofNat 32 (cls * 2 ^ 28 + op * 2 ^ 22 + d * 2 ^ 17 + a * 2 ^ 12 + b * 2 ^ 7 + m)

/-- Guild 0 in RUN with engine 0 in service, an instruction at PC 0 and a pass in context 0. -/
def tEng (x : Ctx) (hi lo : Word) : State :=
  let s := (State.reset.wr (Reg.GLD_STATE.STATE 0) 0).putWord (Reg.GLD_CTRL.addr 0) 1#32
  (s.setGuild 0 { Guild.reset with bankA := [(16, lo), (17, hi)] }).setCtx 0 (some x)

/-- A burst of slot 0. -/
def tBurst : Burst := ⟨.ord, 0, 0, 0, 0, 100, []⟩

/-- Every guild is off. -/
def tAllOff : State := (List.range 64).foldl (fun s g => s.wr (Reg.GLD_STATE.STATE g) 4) State.reset

/-- Pool 0 has 64 buffers. -/
def tPool : State := State.reset.wr (Reg.CPG_POOL_CFG.COUNT 0) 1

/-- A time of day message with a good CRC (R591). -/
def tTod : List Byte := [0x4E#8, 0x57#8, 0#8, 1#8, 0#8, 0#8, 0#8, 0#8, 0#8, 0#8, 0#8, 0#8, 0#8, 0#8, 0x3C#8, 0xFC#8]

/-! Ill-formed commands. -/

theorem test_ill_formed_delimWindowClose : Instr.wf (.delimWindowClose 0 .g50 [(0, 65)]) = false := by decide

theorem test_ill_formed_burstEnd : Instr.wf (.burstEnd 0 .g50 ⟨none, 0, 0, 1, 2, 0, 0, false, [], []⟩) = false := by decide

theorem test_ill_formed_upstreamXgemFrame : Instr.wf (.upstreamXgemFrame 0 .g50 0 0 0 0 (List.replicate 16384 0#8) false false none) = false := by simp only [Instr.wf, List.length_replicate]; decide

theorem test_ill_formed_quietSpanClose : Instr.wf (.quietSpanClose 0 .g50 [⟨0, true, true, 2 ^ 64, 0⟩]) = false := by decide

theorem test_ill_formed_registrationRx : Instr.wf (.registrationRx 0 0 (2 ^ 144 * 2 ^ 144)) = false := by decide

theorem test_ill_formed_standbyBankWrite : Instr.wf (.standbyBankWrite .pf 0 0 15 [0#32, 0#32]) = false := by decide

theorem test_ill_formed_heartbeat : Instr.wf (.heartbeat ⟨0, 0, 0, 2 ^ 32, 0, 0, 0, 0, 0, 0⟩ none false) = false := by decide

theorem test_ill_formed_mapMsg : Instr.wf (.mapMsg 0 .g50 0 ⟨2 ^ 51, [], []⟩) = false := by decide

theorem test_ill_formed_ploamQ : Instr.wf (.ploamQ 0 .g50 0 0 [⟨1024, .deactivate, 0, 0⟩] [] []) = false := by decide

theorem test_ill_formed_slotMsg : Instr.wf (.slotMsg 0 0 0 Slot.free false 0 0 257) = false := by decide

theorem test_ill_formed_tableMsg : Instr.wf (.tableMsg 0 0 (.reg 2 0#32)) = false := by decide

theorem test_ill_formed_syncMsg : Instr.wf (.syncMsg 0 0 ⟨0, [], [(256, Slot.free)], [], ⟨[], [], 0⟩, ⟨[], [], 0⟩, 0, 0, false, 0, []⟩) = false := by decide

theorem test_ill_formed_todMessageRx : Instr.wf (.todMessageRx 0 []) = false := by decide

theorem test_ill_formed_capRx : Instr.wf (.capRx 0 ⟨false, false, false, 4, 0, 0, 0, 0⟩) = false := by decide

theorem test_ill_formed_lsa : Instr.wf (.lsa 0 ⟨0, 256, false, false, 0, []⟩) = false := by decide

theorem test_ill_formed_uplinkFrameRx : Instr.wf (.uplinkFrameRx 0 (List.replicate 65536 0#8) false (0, 0, 0)) = false := by simp only [Instr.wf, List.length_replicate]; decide

theorem test_ill_formed_packet : Instr.wf (.packet 0 (List.replicate 65536 0#8) false) = false := by simp only [Instr.wf, List.length_replicate]; decide

theorem test_ill_formed_faultMessageRx : Instr.wf (.faultMessageRx 2048 none) = false := by decide

theorem test_ill_formed_fltMsgLost : Instr.wf (.fltMsgLost 2048) = false := by decide

theorem test_ill_formed_dsReport : Instr.wf (.dsReport 0 0 1 2 0 0) = false := by decide

theorem test_ill_formed_bankFetchDone : Instr.wf (.bankFetchDone none ⟨List.replicate 257 [], [], [], [], []⟩) = false := by decide

theorem test_ill_formed_txEntry : Instr.wf (.txEntry 16 [] []) = false := by decide

theorem test_ill_formed_ledgerSliceTest : Instr.wf (.ledgerSliceTest 65535 2 none) = false := by decide

theorem test_ill_formed_paceWindowEnd : Instr.wf (.paceWindowEnd [(1, 5), (1, 6)] 0) = false := by decide

/-! Worked examples and tables of the spec. -/

/-- 09_encryption_and_keys.md, worked example: the counter block of block 0. -/
theorem test_counterBlock : counterBlock 0x12345678 false 0xA04 0 = 0x000002468ACF0028100091A2B3C00A04 := by decide

/-- 09_encryption_and_keys.md, worked example: the last of the 94 blocks of 1,500 bytes uses IFC 2,936. -/
theorem test_lastBlock : blocks 1500 = 94 ∧ counterBlock 0x12345678 false 2564 93 % 2 ^ 18 = 2936 := by decide

/-- 04_bandwidth_assignment.md, worked example: content and encoded bytes of bursts F, A, B and C. -/
theorem test_encBytes : encBytes 1 true 788 = 916 ∧ encBytes 1 true 1812 = 2100 ∧ encBytes 1 true 80012 = 91884 ∧
    encBytes 1 true 52328 = 60104 := by decide

/-- 04_bandwidth_assignment.md, worked example: C's burst with the short profile takes 481,152 bits. -/
theorem test_burstUnits : burstUnits 1 3 ⟨true, true, true, 256, 64⟩ [⟨0, 1131, 2, 52316, 0, true, false⟩] = 481152 := by decide

/-- 03_activation_and_ranging.md, worked example: TEQD at reset is 6,469,632 bits of the 10G side. -/
theorem test_teqd10 : State.reset.teqdUnits 12 1 = 6469632 := by decide

/-- 07_ledger_and_exact_match.md, worked example: 41 moves down, the new entry at position 1,064 of the region. -/
theorem test_insMoves : (insMoves ((List.range 64).map (fun i => (1024 + i, 500))) 1065 1023).1.length = 41 ∧
    (insMoves ((List.range 64).map (fun i => (1024 + i, 500))) 1065 1023).2 = 1064 := by decide

/-- 17_host_interface_and_register_map.md, worked example: words 2 and 4 of packet 1's entry. -/
theorem test_rxWords : (rxWords 0 false false { Desc.zero with dir := true, reason := 3, length := 1514, flow := 0x3A10, source := 42, onu := 37 }).take 2
    = [0x100305EA#32, 0x3A102A25#32] := by decide

/-- R64: a counter that passes 2^48 − 1 wraps to 0 and says so. -/
theorem test_counterWraps : Ctr.add ⟨2 ^ 48 - 1, false⟩ 1 = ⟨0, true⟩ := by decide

/-- Readings of 01_device_architecture.md's worked example: guild 9 retired, guild 40's meter failed. -/
def tReads : List Nat := (List.range 64).map (fun g => if g = 40 then 180 else if g < 42 then 1320 else 1300)

/-- Every guild but 9 in RUN. -/
def tGuilds : State := (List.range 64).foldl (fun s g => s.wr (Reg.GLD_STATE.STATE g) (if g = 9 then 4 else 0)) State.reset

/-- 01_device_architecture.md, worked example: 40 readings of 1,320 and 22 of 1,300, with guild 40's substituted by 1,300, give
SUSTAIN 5,804; 63 guilds are healthy and the lowest reading is 1,300. -/
theorem test_sustain : (tGuilds.pace tReads 1410).sustain = 5804 ∧ (tGuilds.pace tReads 1410).rd Reg.WHF_PACE_STATUS.HEALTHY_GUILDS = 63 ∧
    (tGuilds.pace tReads 1410).rd Reg.WHF_PACE_STATUS.MIN_FILTERED = 1300 := by decide +kernel

/-- R417: a checker takes 7 bits of PRBS7, locks on 64 it predicts and compares the 9 that follow. -/
theorem test_prbs7 : (Chk.bits (prbsTaps 0) (prbsBits (prbsTaps 0) false 80 1#31) Chk.zero false).2 = (true, 9, 0, 0) := by decide

/-! Single steps. -/

/-- An outcome is a next state with a property. -/
def goes (o : Host.Outcome State Fault Refusal) (f : State → Bool) : Bool :=
  match o with
  | .next t => f t
  | .fault _ => false
  | .refused _ => false

/-- R41: a PSync match starts a tracker and enters state 1. -/
theorem test_psyncMatch : goes (exec (.psyncMatch 0 .g50 5 (some 7#51)) (State.reset.wr (Reg.PT_ALN_STATUS.STATE50 0) 0))
    (fun t => t.rd (Reg.PT_ALN_STATUS.STATE50 0) == 1) = true := by decide

/-- Tables 6-2 and 6-4: 0xFFFFFFFF + 1 is 0 with Z and C set, N and V clear. -/
theorem test_addWraps : goes (exec (.add 0 0 0 none) (tEng { tCtx with regs := [(2, 0xFFFFFFFF#32), (3, 1#32)] } (tHi 0 0 1 2 3 0) 0#32))
    (fun t => (t.ctxOf 0).map (fun x => (x.reg 1, x.flags)) == some (0#32, ⟨true, false, true, false⟩)) = true := by decide

/-- Table 6-2: w0 ignores writes. -/
theorem test_addW0 : goes (exec (.add 0 0 0 none) (tEng { tCtx with regs := [(2, 5#32), (3, 1#32)] } (tHi 0 0 0 2 3 0) 0#32))
    (fun t => (t.ctxOf 0).map (fun x => x.reg 0) == some 0#32) = true := by decide

/-- R303, R304: ERASE empties a root slot, its key with it. -/
theorem test_keyErase : goes (exec (.keyErase .steward 0) (State.reset.setRoot 0 { Root.empty with state := .loaded, dk := 5 }))
    (fun t => t.root 0 == Root.empty) = true := by decide

/-- R10, 00_scope.md, worked example: the high word reads as it stood when the low word was read. -/
theorem test_latchedRead : goes (exec (.registerRead .steward .regs (BitVec.ofNat 26 (Cnt.BOOT_STAGE_DROP + 4)))
      { State.reset with latch := [(Cnt.BOOT_STAGE_DROP + 4, 3#32)], ctrs := [(Cnt.BOOT_STAGE_DROP, ⟨2 ^ 32 * 9, false⟩)] })
    (fun t => Tab.get (fun _ => 0#32) t.rdata Agent.steward.code == 3#32) = true := by decide

/-- R400, worked example: ten ones, nine zeros and a one go on the line as 22 bits, two of them stuffed. -/
theorem test_stuff : stuff (List.replicate 10 true ++ List.replicate 9 false ++ [true]) 0 false =
    List.replicate 8 true ++ [false] ++ List.replicate 2 true ++ List.replicate 8 false ++ [true, false, true] := by decide

/-- FIPS 197, appendix C.1 (R2). -/
theorem test_aes128 : aes128 0x000102030405060708090A0B0C0D0E0F 0x00112233445566778899AABBCCDDEEFF = 0x69C4E0D86A7B0430D8CDB78070B4C55A := by
  decide +kernel

/-- No row of the table has bits: no word spells a command. -/
theorem test_decodeTableWord : decodeTableWord 32 0 = none ∧ State.reset.withFetchWord 32 0 = State.reset := ⟨rfl, rfl⟩

/-! Witnesses: for each clause of a statement that has hypotheses, operands and a state that meet them. -/

theorem witness_FrameTickAndMapLock :
    (∃ (s : State), (s.stage = 0 ∨ s.flt.safe = true)) ∧
    (∃ (s : State), s.stage ≠ 0 ∧ s.flt.safe = false) ∧
    (∃ (p : Fin 32) (sd : Side) (s : State), s.txOn p sd.n = false ∧ s.shadow p = false) ∧
    (∃ (p : Fin 32) (sd : Side) (s : State) (l : Locked), (s.side p sd.n).locked = some l ∧ l.sfc = s.nextFrame p) ∧
    (∃ (p : Fin 32) (sd : Side) (s : State), s.txOn p sd.n = true ∧ (s.side p sd.n).locked = none) :=
  ⟨⟨State.reset, by decide⟩,
    ⟨tOn, by decide⟩,
    ⟨0, .g50, State.reset, by decide⟩,
    ⟨0, .g50, (State.reset.setSide 0 0 { PonSide.reset with locked := some ⟨0, ⟨0, [], []⟩, false, [], [], []⟩ }), ⟨0, ⟨0, [], []⟩, false, [], [], []⟩, by decide⟩,
    ⟨0, .g50, tOn, by decide⟩⟩

theorem witness_PonLineWrites :
    (∃ (ag : Agent) (p : Fin 32) (s : State), s.reaches ag (Reg.PT_PHASE.addr p.val) = true) ∧
    (∃ (ag : Agent) (p : Fin 32) (s : State), s.reaches ag (Reg.PT_DS_CFG.addr p.val) = true) ∧
    (∃ (ag : Agent) (p : Fin 32) (sd : Side) (s : State), s.reaches ag (if sd.n = 0 then Reg.PT_OCB_HI.addr p.val else Reg.PT_PID_HI.addr p.val) =
    true) :=
  ⟨⟨.steward, 0, State.reset, by decide⟩,
    ⟨.steward, 0, State.reset, by decide⟩,
    ⟨.steward, 0, .g50, State.reset, by decide⟩⟩

theorem witness_AlignmentStates :
    (∃ (p : Fin 32) (sd : Side) (s : State), s.rd (alnState p sd.n) < 2 ∧ (s.side p sd.n).trackers.length < 4) ∧
    (∃ (p : Fin 32) (sd : Side) (s : State), s.rd (alnState p sd.n) < 2 ∧ 4 ≤ (s.side p sd.n).trackers.length) ∧
    (∃ (p : Fin 32) (sd : Side) (pos : Nat) (errs : Nat) (v : BitVec 51) (r : List Tracker) (k : Nat) (s : State), s.rd (alnState p sd.n) = 1 ∧
    (s.side p sd.n).trackers = ⟨pos, k⟩ :: r ∧ errs ≤ s.syncTol p ∧ v.toNat = (k + 1) % 2 ^ 51) ∧
    (∃ (p : Fin 32) (sd : Side) (pos : Nat) (errs : Nat) (k : Nat) (s : State), s.rd (alnState p sd.n) = 1 ∧ (s.side p sd.n).trackers = [⟨pos, k⟩] ∧
    s.syncTol p < errs) ∧
    (∃ (p : Fin 32) (sd : Side) (errs : Nat) (v : BitVec 51) (s : State), s.rd (alnState p sd.n) = 2 ∧ errs ≤ s.syncTol p ∧ v.toNat = (s.side p
    sd.n).expSfc) ∧
    (∃ (p : Fin 32) (sd : Side) (errs : Nat) (s : State), s.rd (alnState p sd.n) = 2 ∧ s.syncTol p < errs) ∧
    (∃ (ag : Agent) (p : Fin 32) (s : State), s.reaches ag (Reg.PT_ALN_CFG.addr p.val) = true) :=
  ⟨⟨0, .g50, ((State.reset.wr (Reg.PT_ALN_STATUS.STATE50 0) 0).setSide 0 0 { PonSide.reset with trackers := [] }), by decide⟩,
    ⟨0, .g50, ((State.reset.wr (Reg.PT_ALN_STATUS.STATE50 0) 1).setSide 0 0 { PonSide.reset with trackers := [⟨0, 0⟩, ⟨0, 0⟩, ⟨0, 0⟩, ⟨0, 0⟩] }), by decide⟩,
    ⟨0, .g50, 5, 0, 7#51, [], 6, ((State.reset.wr (Reg.PT_ALN_STATUS.STATE50 0) 1).setSide 0 0 { PonSide.reset with trackers := [⟨5, 6⟩] }), by decide⟩,
    ⟨0, .g50, 5, 9, 6, ((State.reset.wr (Reg.PT_ALN_STATUS.STATE50 0) 1).setSide 0 0 { PonSide.reset with trackers := [⟨5, 6⟩] }), by decide⟩,
    ⟨0, .g50, 0, 7#51, ((State.reset.wr (Reg.PT_ALN_STATUS.STATE50 0) 2).setSide 0 0 { PonSide.reset with expSfc := 7 }), by decide⟩,
    ⟨0, .g50, 9, ((State.reset.wr (Reg.PT_ALN_STATUS.STATE50 0) 2).setSide 0 0 { PonSide.reset with expSfc := 7 }), by decide⟩,
    ⟨.steward, 0, State.reset, by decide⟩⟩

theorem witness_BurstReception :
    (∃ (s : State), s.flt.safe = true) ∧
    (∃ (p : Fin 32) (sd : Side) (e : Exp) (r : List Exp) (s : State), s.flt.safe = false ∧ (s.side p sd.n).rxq = e :: r) ∧
    (∃ (p : Fin 32) (sd : Side) (l : List (Int × Nat)) (e : Exp) (d : Int) (s : State), (s.side p sd.n).cur = some e ∧ (s.side p sd.n).found = none ∧
    (s.side p sd.n).missed = false ∧ bestDelim (if (s.side p sd.n).wideAt e.sfc then wideWidth e.burst.row else e.wide) (min 8 (s.rd
    (Reg.PT_US_CFG.DELIM_TOL p.val))) l = some d) ∧
    (∃ (p : Fin 32) (sd : Side) (e : Exp) (s : State), (s.side p sd.n).cur = some e ∧ (s.side p sd.n).found = none ∧ (s.side p sd.n).missed = false) ∧
    (∃ (p : Fin 32) (sd : Side) (s : State), (s.flt.safe = true ∨ (s.side p sd.n).cur = none ∨ ((s.side p sd.n).found = none ∧ (s.side p sd.n).missed
    = false))) ∧
    (∃ (p : Fin 32) (sd : Side) (e : Exp) (r : Option Nat) (s : State), s.flt.safe = false ∧ (s.side p sd.n).cur = some e ∧ (s.side p sd.n).found =
    none ∧ (s.side p sd.n).missed = true ∧ (s.side p sd.n).rx = .burst r) ∧
    (∃ (p : Fin 32) (sd : Side) (e : Exp) (d : Int) (s : State), s.flt.safe = false ∧ (s.side p sd.n).cur = some e ∧ (s.side p sd.n).found = some d) ∧
    (∃ (len : Nat), len < 5) ∧
    (∃ (p : Fin 32) (sd : Side) (pos : Nat) (len : Nat) (w : RxSpan) (s : State), w ∈ (s.side p sd.n).spans ∧ (w.wider (s.halfGuard p sd.n)).1 <
    s.sfc p * frameLen sd.n + pos + nsUnits sd.n false (10 * len) ∧ s.sfc p * frameLen sd.n + pos < (w.wider (s.halfGuard p sd.n)).2) ∧
    (∃ (p : Fin 32) (sd : Side) (len : Nat) (s : State), 5 ≤ len ∧ (s.side p sd.n).spans = []) :=
  ⟨⟨tSafe, by decide⟩,
    ⟨0, .g50, ⟨0, tBurst, 0, 0, false, false, [], 0, 9⟩, [], (State.reset.setSide 0 0 { PonSide.reset with rxq := [⟨0, tBurst, 0, 0, false, false, [], 0, 9⟩] }), by decide⟩,
    ⟨0, .g50, [(0, 0)], ⟨0, tBurst, 0, 0, false, false, [], 0, 9⟩, 0, (State.reset.setSide 0 0 { PonSide.reset with cur := some ⟨0, tBurst, 0, 0, false, false, [], 0, 9⟩ }), by decide⟩,
    ⟨0, .g50, ⟨0, tBurst, 0, 0, false, false, [], 0, 9⟩, (State.reset.setSide 0 0 { PonSide.reset with cur := some ⟨0, tBurst, 0, 0, false, false, [], 0, 9⟩ }), by decide⟩,
    ⟨0, .g50, State.reset, by decide⟩,
    ⟨0, .g50, ⟨0, tBurst, 0, 0, false, false, [], 0, 9⟩, none, (State.reset.setSide 0 0 { PonSide.reset with cur := some ⟨0, tBurst, 0, 0, false, false, [], 0, 9⟩, missed := true, rx := .burst none }), by decide⟩,
    ⟨0, .g50, ⟨0, tBurst, 0, 0, false, false, [], 0, 9⟩, 0, (State.reset.setSide 0 0 { PonSide.reset with cur := some ⟨0, tBurst, 0, 0, false, false, [], 0, 9⟩, found := some 0 }), by decide⟩,
    ⟨0, by decide⟩,
    ⟨0, .g50, 50, 6, ⟨0, false, 0, 100⟩, (State.reset.setSide 0 0 { PonSide.reset with spans := [⟨0, false, 0, 100⟩] }), by decide⟩,
    ⟨0, .g50, 5, (State.reset.setSide 0 0 { PonSide.reset with spans := [] }), by decide⟩⟩

theorem witness_PresetsAndUpstreamPloam :
    (∃ (ag : Agent) (p : Fin 32) (s : State), s.reachesWin ag p.val = true) ∧
    (∃ (ag : Agent) (p : Fin 32) (i : Fin 512) (s : State), s.reachesWin ag p.val = true ∧ (s.preset p (i.val / 256) (i.val % 256)).valid = false) ∧
    (∃ (p : Fin 32) (s : State), s.shadow p = true) ∧
    (∃ (p : Fin 32) (o : Fin 256) (omci : Bool) (m : List Byte) (c : BitVec 64) (s : State), s.shadow p = false ∧ s.mic p o.val (if omci then 1 else
    0) true m ≠ c.toNat) ∧
    (∃ (p : Fin 32) (o : Fin 256) (omci : Bool) (m : List Byte) (c : BitVec 64) (s : State), s.shadow p = false ∧ s.mic p o.val (if omci then 1 else
    0) true m = c.toNat) :=
  ⟨⟨.steward, 0, State.reset, by decide⟩,
    ⟨.steward, 0, 0, State.reset, by decide⟩,
    ⟨0, tShadow, by decide⟩,
    ⟨0, 0, false, [], 0#64, State.reset, ⟨by decide, by decide +kernel⟩⟩,
    ⟨0, 0, false, [], 7610125200386098784#64, State.reset, ⟨by decide, by decide +kernel⟩⟩⟩

theorem witness_DiscoveryWindows :
    (∃ (p : Fin 32) (sd : Side) (s : State), s.opensWindows p sd.n = false) ∧
    (∃ (p : Fin 32) (sd : Side) (s : State), s.opensWindows p sd.n = true) ∧
    (∃ (p : Fin 32) (sd : Side) (w : Nat × Nat) (r : List (Nat × Nat)) (s : State), (s.disc p sd.n).wins = w :: r ∧ w.1 ≤ s.sfc p ∧ (s.tree p).ramp =
    false) ∧
    (∃ (p : Fin 32) (s : State), (s.tree p).clean = []) ∧
    (∃ (p : Fin 32) (r : CleanResp) (l : List CleanResp) (s : State), (s.tree p).clean = r :: l ∧ s.stw.paused = true) ∧
    (∃ (p : Fin 32) (q : Fin 32) (r : CleanResp) (l : List CleanResp) (i : Nat) (s : State), (s.tree p).clean = r :: l ∧ s.stw.paused = false ∧
    s.owned p.val = true ∧ s.boundElsewhere p r.sn = some (q.val, i)) :=
  ⟨⟨0, .g50, State.reset, by decide⟩,
    ⟨0, .g50, tOn, by decide⟩,
    ⟨0, .g50, (0, 0), [], ({ State.reset with act := { (State.reset).act with disc := [(0, ⟨1, none, 0, [(0, 0)], 0⟩)] } }), by decide⟩,
    ⟨0, State.reset, by decide⟩,
    ⟨0, ⟨0, 0, 5, 0⟩, [], (tPaused.setTreeSt 0 { Tree.reset with clean := [⟨0, 0, 5, 0⟩] }), by decide⟩,
    ⟨0, 1, ⟨0, 0, 5, 0⟩, [], 0, ((State.reset.setSlot 1 0 { Slot.free with sn := some 5 }).setTreeSt 0 { Tree.reset with clean := [⟨0, 0, 5, 0⟩] }), by decide⟩⟩

theorem witness_RangingOutcome :
    (∃ (p : Fin 32) (k : Fin 256) (s : State), (s.slot p k.val).range ≠ .placed) ∧
    (∃ (p : Fin 32) (k : Fin 256) (d : Int) (e : Exp) (s : State), s.rngOf p (s.slot p k.val).side k.val = some e ∧ ((e.wide : Int) < d ∨ d <
    -(e.wide : Int))) ∧
    (∃ (p : Fin 32) (k : Fin 256) (d : Int) (e : Exp) (s : State), s.rngOf p (s.slot p k.val).side k.val = some e ∧ -(e.wide : Int) ≤ d ∧ d ≤ e.wide
    ∧ (s.slot p k.val).range = .placed ∧ s.owned p.val = true ∧ (s.slot p k.val).state = .assigned) ∧
    (∃ (p : Fin 32) (k : Fin 256) (d : Int) (e : Exp) (s : State), s.rngOf p (s.slot p k.val).side k.val = some e ∧ -(e.wide : Int) ≤ d ∧ d ≤ e.wide
    ∧ (s.slot p k.val).range = .placed ∧ s.owned p.val = true ∧ (s.slot p k.val).state = .active) ∧
    (∃ (p : Fin 32) (s : State), s.owned p.val = false) ∧
    (∃ (p : Fin 32) (k : Fin 256) (s : State), (s.slot p k.val).range = .placed ∧ s.owned p.val = true ∧ (s.slot p k.val).tries + 1 < s.rangeTries p)
    ∧
    (∃ (p : Fin 32) (k : Fin 256) (s : State), (s.slot p k.val).range = .placed ∧ s.owned p.val = true ∧ s.rangeTries p ≤ (s.slot p k.val).tries + 1
    ∧ (s.slot p k.val).state = .active) ∧
    (∃ (p : Fin 32) (k : Fin 256) (s : State), (s.slot p k.val).range = .placed ∧ s.owned p.val = true ∧ s.rangeTries p ≤ (s.slot p k.val).tries + 1
    ∧ (s.slot p k.val).state = .assigned) :=
  ⟨⟨0, 0, State.reset, by decide⟩,
    ⟨0, 0, 10, ⟨0, tBurst, 0, 0, false, false, [], 0, 9⟩, ((State.reset.setSide 0 0 { PonSide.reset with rng := [⟨0, tBurst, 0, 0, false, false, [], 0, 9⟩] }).setSlot 0 0 { Slot.free with range := .placed, state := .active }), by decide⟩,
    ⟨0, 0, 3, ⟨0, tBurst, 0, 0, false, false, [], 0, 9⟩, ((State.reset.setSide 0 0 { PonSide.reset with rng := [⟨0, tBurst, 0, 0, false, false, [], 0, 9⟩] }).setSlot 0 0 { Slot.free with range := .placed, state := .assigned }), by decide⟩,
    ⟨0, 0, -9, ⟨0, tBurst, 0, 0, false, false, [], 0, 9⟩, ((State.reset.setSide 0 0 { PonSide.reset with rng := [⟨0, tBurst, 0, 0, false, false, [], 0, 9⟩] }).setSlot 0 0 { Slot.free with range := .placed, state := .active }), by decide⟩,
    ⟨0, tShadow, by decide⟩,
    ⟨0, 0, ((State.reset.wr (Reg.PT_ACT_TMR.RANGE_TRIES 0) 3).setSlot 0 0 { Slot.free with range := .placed, state := .assigned, tries := 1 }), by decide⟩,
    ⟨0, 0, ((State.reset.wr (Reg.PT_ACT_TMR.RANGE_TRIES 0) 3).setSlot 0 0 { Slot.free with range := .placed, state := .active, tries := 2 }), by decide⟩,
    ⟨0, 0, ((State.reset.wr (Reg.PT_ACT_TMR.RANGE_TRIES 0) 3).setSlot 0 0 { Slot.free with range := .placed, state := .assigned, tries := 2 }), by decide⟩⟩

theorem witness_RegistrationAndKeys :
    (∃ (p : Fin 32) (s : State), s.owned p.val = false) ∧
    (∃ (p : Fin 32) (s : State), s.owned p.val = true ∧ s.stw.paused = true) ∧
    (∃ (p : Fin 32) (k : Fin 256) (s : State), s.stewards p = true ∧ ((s.slot p k.val).state ≠ .ranged ∨ (s.slot p k.val).regOk = true)) ∧
    (∃ (p : Fin 32) (k : Fin 256) (s : State), s.stewards p = true ∧ (s.slot p k.val).state = .ranged ∧ (s.slot p k.val).regOk = false ∧ (s.slot p
    k.val).keyOk = true ∧ s.act.auth[(s.slot p k.val).authIdx]? = none) ∧
    (∃ (p : Fin 32) (k : Fin 256) (s : State), s.stewards p = true ∧ (s.slot p k.val).state = .ranged ∧ (s.slot p k.val).regOk = false ∧ (s.slot p
    k.val).keyOk = false ∧ s.act.auth[(s.slot p k.val).authIdx]? = none) ∧
    (∃ (p : Fin 32) (k : Fin 256) (n : Nat) (m : Nat) (a : Auth) (s : State), s.stewards p = true ∧ (s.slot p k.val).state = .ranged ∧ (s.slot p
    k.val).regOk = false ∧ s.act.auth[(s.slot p k.val).authIdx]? = some a ∧ a.regId = some m ∧ m ≠ n) ∧
    (∃ (p : Fin 32) (k : Fin 256) (s : State), s.stewards p = true ∧ s.bit Reg.KEY_STATUS.ERASED = false ∧ (s.slot p k.val).state = .ranged ∧ (s.root
    (rootOf (slotKey p k.val) 0)).state = .empty ∧ (s.root (rootOf (slotKey p k.val) 0)).pend = none ∧ (s.root (rootOf (slotKey p k.val) 1)).pend =
    none) ∧
    (∃ (p : Fin 32) (k : Fin 256) (f : Nat) (s : State), s.stewards p = true ∧ ((s.root (rootOf (slotKey p k.val) 0)).pend = some f ∨ (s.root (rootOf
    (slotKey p k.val) 1)).pend = some f)) ∧
    (∃ (p : Fin 32) (k : Fin 256) (s : State), (s.slot p k.val).keyWait = none) ∧
    (∃ (p : Fin 32) (k : Fin 256) (f : Nat) (s : State), s.stewards p = true ∧ (s.slot p k.val).keyWait = some f) ∧
    (∃ (p : Fin 32) (k : Fin 256) (s : State), s.stewards p = true ∧ (s.slot p k.val).state = .ranged ∧ (s.slot p k.val).regOk = false) ∧
    (∃ (p : Fin 32) (k : Fin 256) (s : State), s.stewards p = true ∧ (s.slot p k.val).state = .lost) ∧
    (∃ (p : Fin 32) (k : Fin 256) (s : State), (s.slot p k.val).state ≠ .lost) :=
  ⟨⟨0, tShadow, by decide⟩,
    ⟨0, tPaused, by decide⟩,
    ⟨0, 0, State.reset, by decide⟩,
    ⟨0, 0, (State.reset.setSlot 0 0 { Slot.free with state := .ranged, keyOk := true }), by decide⟩,
    ⟨0, 0, (State.reset.setSlot 0 0 { Slot.free with state := .ranged }), by decide⟩,
    ⟨0, 0, 4, 3, ⟨5, 0, 0, 0, 0, some 3, 0⟩, ({ State.reset with act := { State.reset.act with auth := [⟨5, 0, 0, 0, 0, some 3, 0⟩] } }.setSlot 0 0 { Slot.free with state := .ranged, authIdx := 0 }), by decide⟩,
    ⟨0, 0, (State.reset.setSlot 0 0 { Slot.free with state := .ranged }), by decide⟩,
    ⟨0, 0, 8, (State.reset.setRoot 1 { Root.empty with state := .loaded, pend := some 8 }), by decide⟩,
    ⟨0, 0, State.reset, by decide⟩,
    ⟨0, 0, 7, (State.reset.setSlot 0 0 { Slot.free with keyWait := some 7 }), by decide⟩,
    ⟨0, 0, (State.reset.setSlot 0 0 { Slot.free with state := .ranged }), by decide⟩,
    ⟨0, 0, (State.reset.setSlot 0 0 { Slot.free with state := .lost }), by decide⟩,
    ⟨0, 0, State.reset, by decide⟩⟩

theorem witness_ActivationCommands :
    (∃ (ag : Agent) (p : Fin 32) (s : State), s.reaches ag (Reg.PT_ACT_CMD.addr p.val) = true ∧ (s.tree p).cmd = none ∧ s.stw.paused = false ∧
    s.owned p.val = true) ∧
    (∃ (ag : Agent) (p : Fin 32) (s : State), s.reaches ag (Reg.PT_ACT_CMD.addr p.val) = true ∧ (s.tree p).cmd = none ∧ s.stw.paused = true) ∧
    (∃ (p : Fin 32) (s : State), (s.tree p).ramp = true ∧ s.owned p.val = true) ∧
    (∃ (p : Fin 32) (s : State), ((s.tree p).ramp = false ∨ s.owned p.val = false)) ∧
    (∃ (p : Fin 32) (sd : Side) (s : State), (s.bit (Reg.PT_TRACK_CFG.ROGUE_EN p.val) = false ∨ s.stw.paused = true ∨ (s.tree p).severe ≠ some sd.n))
    ∧
    (∃ (p : Fin 32) (sd : Side) (s : State), s.bit (Reg.PT_TRACK_CFG.ROGUE_EN p.val) = true ∧ s.straySevere p = true ∧ (s.tree p).severe = some sd.n
    ∧ (s.tree p).hunt = none ∧ (s.tree p).huntDone = [] ∧ s.stw.paused = false ∧ s.owned p.val = true ∧ (s.tree p).strays = []) ∧
    (∃ (p : Fin 32) (s : State), (s.tree p).hunt = none) ∧
    (∃ (p : Fin 32) (h : Hunt) (c : Nat) (sn : Nat) (k : Nat) (s : State), (s.tree p).hunt = some h ∧ h.test = some (c, sn) ∧ h.sentAt = some k ∧ k +
    17 ≤ s.sfc p ∧ h.stray = false ∧ (s.slot p c).state = .disabled) ∧
    (∃ (p : Fin 32) (sd : Side) (w : AckWait) (r : List AckWait) (s : State), s.owned p.val = true ∧ (s.plq p sd.n).waits = w :: r ∧ w.frame +
    s.ackWait p ≤ s.sfc p ∧ w.msg.retry < s.ackTries p) ∧
    (∃ (p : Fin 32) (sd : Side) (s : State), ((s.plq p sd.n).waits = [] ∨ s.owned p.val = false)) ∧
    (∃ (ag : Agent) (p : Fin 32) (s : State), s.reaches ag (Reg.PT_TEQD.addr p.val) = true) ∧
    (∃ (ag : Agent) (p : Fin 32) (s : State), s.reaches ag (Reg.PT_REACH.addr p.val) = true) :=
  ⟨⟨.steward, 0, State.reset, by decide⟩,
    ⟨.steward, 0, tPaused, by decide⟩,
    ⟨0, (State.reset.setTreeSt 0 { Tree.reset with ramp := true }), by decide⟩,
    ⟨0, State.reset, by decide⟩,
    ⟨0, .g50, State.reset, by decide⟩,
    ⟨0, .g50, (({ (State.reset.wr (Reg.PT_TRACK_CFG.ROGUE_EN 0) 1) with flt := { State.reset.flt with filters := [(filterKey .STRAY_LIGHT (srcPt 0), { FilterSt.idle with severe := true })] } } : State).setTreeSt 0 { Tree.reset with severe := some 0 }), by decide⟩,
    ⟨0, State.reset, by decide⟩,
    ⟨0, ⟨0, true, false, [], some (0, 5), some 3, false, 0⟩, 0, 5, 3, (((State.reset.setTreeSt 0 { Tree.reset with hunt := some ⟨0, true, false, [], some (0, 5), some 3, false, 0⟩ }).setSlot 0 0 { Slot.free with state := .disabled }).setPort 0 { PonPort.reset with sfc := 20 }), by decide⟩,
    ⟨0, .g50, ⟨⟨0, .deactivate, 1, 0⟩, 2⟩, [], (((State.reset.wr (Reg.PT_ACT_TMR.ACK_TRIES 0) 3).setPlq 0 0 ⟨[], [⟨⟨0, .deactivate, 1, 0⟩, 2⟩], 0⟩).setPort 0 { PonPort.reset with sfc := 2000 }), by decide⟩,
    ⟨0, .g50, State.reset, by decide⟩,
    ⟨.steward, 0, State.reset, by decide⟩,
    ⟨.steward, 0, State.reset, by decide⟩⟩

theorem witness_MapPipeline :
    (∃ (s : State), s.flt.safe = true) ∧
    (∃ (s : State), s.flt.safe = false) ∧
    (∃ (s : State), s.whf.builds.all (fun b => b.checked) = true) ∧
    (∃ (s : State), s.whf.builds.any (fun b => !b.checked) = true) ∧
    (∃ (p : Fin 32) (sd : Side) (b : Build) (r : List Build) (s : State), s.whf.builds = b :: r ∧ b.done.contains (p.val * 2 + sd.n) = true ∧ b.has
    (p.val * 2 + sd.n) = true ∧ b.released = []) :=
  ⟨⟨tSafe, by decide⟩,
    ⟨State.reset, by decide⟩,
    ⟨State.reset, by decide⟩,
    ⟨({ State.reset with whf := { (State.reset).whf with builds := [⟨[(0, ⟨0, [], []⟩)], 0, [], [], [], [], [], [], 0, [], false, [], [], [], false⟩] } }), by decide⟩,
    ⟨0, .g50, ⟨[(0, ⟨0, [], []⟩)], 0, [], [], [], [], [], [], 0, [], false, [0], [], [], false⟩, [], ({ State.reset with whf := { (State.reset).whf with builds := [⟨[(0, ⟨0, [], []⟩)], 0, [], [], [], [], [], [], 0, [], false, [0], [], [], false⟩] } }), by decide⟩⟩

theorem witness_WharfTableWrites :
    (∃ (ag : Agent) (s : State), s.reachesWin ag wWhf = true) ∧
    (∃ (ag : Agent) (s : State), s.reachesWin ag wFsi = true) ∧
    (∃ (ag : Agent) (s : State), s.reaches ag Reg.WHF_ASY_CFG.addr = true) ∧
    (∃ (ag : Agent) (s : State), s.reaches ag Reg.WHF_CTRL.addr = true) :=
  ⟨⟨.steward, State.reset, by decide⟩,
    ⟨.steward, State.reset, by decide⟩,
    ⟨.steward, State.reset, by decide⟩,
    ⟨.steward, State.reset, by decide⟩⟩

theorem witness_SwapAndCti :
    (∃ (ag : Agent) (s : State), s.reaches ag Reg.FSI_SWAP_REQ.addr = true) ∧
    (∃ (p : Fin 32) (s : State), s.swapOf p = .validating) ∧
    (∃ (p : Fin 32) (s : State), s.swapOf p ≠ .validating) ∧
    (∃ (s : State), s.whf.handoffs = []) ∧
    (∃ (tr : Nat) (ix : Nat) (st : Nat) (n : Nat) (r : List (Nat × Nat × Nat × Nat)) (s : State), s.whf.handoffs = (tr, ix, st, n) :: r) :=
  ⟨⟨.steward, State.reset, by decide⟩,
    ⟨0, (State.reset.setSwap 0 .validating), by decide⟩,
    ⟨0, State.reset, by decide⟩,
    ⟨State.reset, by decide⟩,
    ⟨1, 2, 3, 4, [], ({ State.reset with whf := { (State.reset).whf with handoffs := [(1, 2, 3, 4)] } }), by decide⟩⟩

theorem witness_AluInstructions :
    (∃ (g : Fin 64) (e : Fin 16) (c : Fin 4) (x : Ctx) (i : Insn) (s : State) (imm : Bool), s.Issues (ctxKey g.val e.val c.val) x i (if imm then 1
    else 0) 0) ∧
    (∃ (g : Fin 64) (e : Fin 16) (c : Fin 4) (x : Ctx) (i : Insn) (s : State) (imm : Bool), s.Issues (ctxKey g.val e.val c.val) x i (if imm then 1
    else 0) 1) ∧
    (∃ (g : Fin 64) (e : Fin 16) (c : Fin 4) (x : Ctx) (i : Insn) (s : State) (imm : Bool), s.Issues (ctxKey g.val e.val c.val) x i (if imm then 1
    else 0) 2) ∧
    (∃ (g : Fin 64) (e : Fin 16) (c : Fin 4) (x : Ctx) (i : Insn) (s : State) (imm : Bool), s.Issues (ctxKey g.val e.val c.val) x i (if imm then 1
    else 0) 3) ∧
    (∃ (g : Fin 64) (e : Fin 16) (c : Fin 4) (x : Ctx) (i : Insn) (s : State) (imm : Bool), s.Issues (ctxKey g.val e.val c.val) x i (if imm then 1
    else 0) 4) ∧
    (∃ (g : Fin 64) (e : Fin 16) (c : Fin 4) (x : Ctx) (i : Insn) (s : State) (imm : Bool), s.Issues (ctxKey g.val e.val c.val) x i (if imm then 1
    else 0) 8) ∧
    (∃ (g : Fin 64) (e : Fin 16) (c : Fin 4) (x : Ctx) (i : Insn) (s : State) (imm : Bool), s.Issues (ctxKey g.val e.val c.val) x i (if imm then 1
    else 0) 9) ∧
    (∃ (g : Fin 64) (e : Fin 16) (c : Fin 4) (x : Ctx) (i : Insn) (s : State) (imm : Bool), s.Issues (ctxKey g.val e.val c.val) x i (if imm then 1
    else 0) 10) ∧
    (∃ (g : Fin 64) (e : Fin 16) (c : Fin 4) (x : Ctx) (i : Insn) (s : State) (imm : Bool), s.Issues (ctxKey g.val e.val c.val) x i (if imm then 1
    else 0) 11) ∧
    (∃ (g : Fin 64) (e : Fin 16) (c : Fin 4) (x : Ctx) (i : Insn) (s : State), s.Issues (ctxKey g.val e.val c.val) x i 1 14) :=
  ⟨⟨0, 0, 0, tCtx, ⟨0, 0, 1, 0, 0, 0, 0⟩, (tEng (tCtx) (tHi 0 0 1 0 0 0) 0#32), false, by unfold State.Issues; decide⟩,
    ⟨0, 0, 0, tCtx, ⟨0, 1, 1, 0, 0, 0, 0⟩, (tEng (tCtx) (tHi 0 1 1 0 0 0) 0#32), false, by unfold State.Issues; decide⟩,
    ⟨0, 0, 0, tCtx, ⟨0, 2, 1, 0, 0, 0, 0⟩, (tEng (tCtx) (tHi 0 2 1 0 0 0) 0#32), false, by unfold State.Issues; decide⟩,
    ⟨0, 0, 0, tCtx, ⟨0, 3, 1, 0, 0, 0, 0⟩, (tEng (tCtx) (tHi 0 3 1 0 0 0) 0#32), false, by unfold State.Issues; decide⟩,
    ⟨0, 0, 0, tCtx, ⟨0, 4, 1, 0, 0, 0, 0⟩, (tEng (tCtx) (tHi 0 4 1 0 0 0) 0#32), false, by unfold State.Issues; decide⟩,
    ⟨0, 0, 0, tCtx, ⟨0, 8, 1, 0, 0, 0, 0⟩, (tEng (tCtx) (tHi 0 8 1 0 0 0) 0#32), false, by unfold State.Issues; decide⟩,
    ⟨0, 0, 0, tCtx, ⟨0, 9, 1, 0, 0, 0, 0⟩, (tEng (tCtx) (tHi 0 9 1 0 0 0) 0#32), false, by unfold State.Issues; decide⟩,
    ⟨0, 0, 0, tCtx, ⟨0, 10, 1, 0, 0, 0, 0⟩, (tEng (tCtx) (tHi 0 10 1 0 0 0) 0#32), false, by unfold State.Issues; decide⟩,
    ⟨0, 0, 0, tCtx, ⟨0, 11, 1, 0, 0, 0, 0⟩, (tEng (tCtx) (tHi 0 11 1 0 0 0) 0#32), false, by unfold State.Issues; decide⟩,
    ⟨0, 0, 0, tCtx, ⟨1, 14, 1, 0, 0, 0, 0⟩, (tEng (tCtx) (tHi 1 14 1 0 0 0) 0#32), by unfold State.Issues; decide⟩⟩

theorem witness_ShiftsAndBitFields :
    (∃ (g : Fin 64) (e : Fin 16) (c : Fin 4) (x : Ctx) (i : Insn) (s : State) (imm : Bool), s.Issues (ctxKey g.val e.val c.val) x i (if imm then 1
    else 0) 5 ∧ (x.op2 i imm).toNat < 32) ∧
    (∃ (g : Fin 64) (e : Fin 16) (c : Fin 4) (x : Ctx) (i : Insn) (s : State) (imm : Bool), s.Issues (ctxKey g.val e.val c.val) x i (if imm then 1
    else 0) 6 ∧ (x.op2 i imm).toNat < 32) ∧
    (∃ (g : Fin 64) (e : Fin 16) (c : Fin 4) (x : Ctx) (i : Insn) (s : State) (imm : Bool), s.Issues (ctxKey g.val e.val c.val) x i (if imm then 1
    else 0) 7 ∧ (x.op2 i imm).toNat < 32) ∧
    (∃ (g : Fin 64) (e : Fin 16) (c : Fin 4) (x : Ctx) (i : Insn) (s : State) (imm : Bool), s.Issues (ctxKey g.val e.val c.val) x i (if imm then 1
    else 0) 12 ∧ fieldOpen i.imm = false) ∧
    (∃ (g : Fin 64) (e : Fin 16) (c : Fin 4) (x : Ctx) (i : Insn) (s : State) (imm : Bool), s.Issues (ctxKey g.val e.val c.val) x i (if imm then 1
    else 0) 13 ∧ fieldOpen i.imm = false) :=
  ⟨⟨0, 0, 0, tCtx, ⟨0, 5, 1, 0, 0, 0, 0⟩, (tEng (tCtx) (tHi 0 5 1 0 0 0) 0#32), false, by unfold State.Issues; decide⟩,
    ⟨0, 0, 0, tCtx, ⟨0, 6, 1, 0, 0, 0, 0⟩, (tEng (tCtx) (tHi 0 6 1 0 0 0) 0#32), false, by unfold State.Issues; decide⟩,
    ⟨0, 0, 0, tCtx, ⟨0, 7, 1, 0, 0, 0, 0⟩, (tEng (tCtx) (tHi 0 7 1 0 0 0) 0#32), false, by unfold State.Issues; decide⟩,
    ⟨0, 0, 0, tCtx, ⟨0, 12, 1, 0, 0, 0, 33⟩, (tEng (tCtx) (tHi 0 12 1 0 0 0) 33#32), false, by unfold State.Issues; decide⟩,
    ⟨0, 0, 0, tCtx, ⟨0, 13, 1, 0, 0, 0, 33⟩, (tEng (tCtx) (tHi 0 13 1 0 0 0) 33#32), false, by unfold State.Issues; decide⟩⟩

theorem witness_BranchesAndCalls :
    (∃ (g : Fin 64) (e : Fin 16) (c : Fin 4) (x : Ctx) (i : Insn) (s : State), s.Issues (ctxKey g.val e.val c.val) x i 2 0) ∧
    (∃ (g : Fin 64) (e : Fin 16) (c : Fin 4) (x : Ctx) (i : Insn) (s : State), s.Issues (ctxKey g.val e.val c.val) x i 2 1) ∧
    (∃ (g : Fin 64) (e : Fin 16) (c : Fin 4) (x : Ctx) (i : Insn) (s : State), s.Issues (ctxKey g.val e.val c.val) x i 2 2) ∧
    (∃ (g : Fin 64) (e : Fin 16) (c : Fin 4) (x : Ctx) (i : Insn) (s : State), s.Issues (ctxKey g.val e.val c.val) x i 2 3) ∧
    (∃ (g : Fin 64) (e : Fin 16) (c : Fin 4) (x : Ctx) (i : Insn) (s : State), s.Issues (ctxKey g.val e.val c.val) x i 2 4) ∧
    (∃ (g : Fin 64) (e : Fin 16) (c : Fin 4) (x : Ctx) (i : Insn) (s : State), s.Issues (ctxKey g.val e.val c.val) x i 2 5) ∧
    (∃ (g : Fin 64) (e : Fin 16) (c : Fin 4) (x : Ctx) (i : Insn) (s : State), s.Issues (ctxKey g.val e.val c.val) x i 2 6) ∧
    (∃ (g : Fin 64) (e : Fin 16) (c : Fin 4) (x : Ctx) (i : Insn) (s : State), s.Issues (ctxKey g.val e.val c.val) x i 2 7) ∧
    (∃ (g : Fin 64) (e : Fin 16) (c : Fin 4) (x : Ctx) (i : Insn) (s : State), s.Issues (ctxKey g.val e.val c.val) x i 2 8) ∧
    (∃ (g : Fin 64) (e : Fin 16) (c : Fin 4) (x : Ctx) (i : Insn) (s : State), s.Issues (ctxKey g.val e.val c.val) x i 11 0) ∧
    (∃ (g : Fin 64) (e : Fin 16) (c : Fin 4) (x : Ctx) (i : Insn) (s : State), s.Issues (ctxKey g.val e.val c.val) x i 11 1 ∧ i.imm = 3) ∧
    (∃ (g : Fin 64) (e : Fin 16) (c : Fin 4) (x : Ctx) (i : Insn) (s : State), s.Issues (ctxKey g.val e.val c.val) x i 11 2) ∧
    (∃ (x : Ctx) (i : Insn) (s : State), s.Issues (ctxKey 0 0 0) x i 2 8 ∧ x.calls = []) ∧
    (∃ (x : Ctx) (i : Insn) (s : State), s.Issues (ctxKey 0 0 0) x i 2 8 ∧ x.calls = [5]) :=
  ⟨⟨0, 0, 0, tCtx, ⟨2, 0, 1, 0, 0, 0, 0⟩, (tEng (tCtx) (tHi 2 0 1 0 0 0) 0#32), by unfold State.Issues; decide⟩,
    ⟨0, 0, 0, tCtx, ⟨2, 1, 1, 0, 0, 0, 0⟩, (tEng (tCtx) (tHi 2 1 1 0 0 0) 0#32), by unfold State.Issues; decide⟩,
    ⟨0, 0, 0, tCtx, ⟨2, 2, 1, 0, 0, 0, 0⟩, (tEng (tCtx) (tHi 2 2 1 0 0 0) 0#32), by unfold State.Issues; decide⟩,
    ⟨0, 0, 0, tCtx, ⟨2, 3, 1, 0, 0, 0, 0⟩, (tEng (tCtx) (tHi 2 3 1 0 0 0) 0#32), by unfold State.Issues; decide⟩,
    ⟨0, 0, 0, tCtx, ⟨2, 4, 1, 0, 0, 0, 0⟩, (tEng (tCtx) (tHi 2 4 1 0 0 0) 0#32), by unfold State.Issues; decide⟩,
    ⟨0, 0, 0, tCtx, ⟨2, 5, 1, 0, 0, 0, 0⟩, (tEng (tCtx) (tHi 2 5 1 0 0 0) 0#32), by unfold State.Issues; decide⟩,
    ⟨0, 0, 0, tCtx, ⟨2, 6, 1, 0, 0, 0, 0⟩, (tEng (tCtx) (tHi 2 6 1 0 0 0) 0#32), by unfold State.Issues; decide⟩,
    ⟨0, 0, 0, tCtx, ⟨2, 7, 1, 0, 0, 0, 0⟩, (tEng (tCtx) (tHi 2 7 1 0 0 0) 0#32), by unfold State.Issues; decide⟩,
    ⟨0, 0, 0, tCtx, ⟨2, 8, 1, 0, 0, 0, 0⟩, (tEng (tCtx) (tHi 2 8 1 0 0 0) 0#32), by unfold State.Issues; decide⟩,
    ⟨0, 0, 0, tCtx, ⟨11, 0, 1, 0, 0, 0, 0⟩, (tEng (tCtx) (tHi 11 0 1 0 0 0) 0#32), by unfold State.Issues; decide⟩,
    ⟨0, 0, 0, tCtx, ⟨11, 1, 1, 0, 0, 0, 3⟩, (tEng (tCtx) (tHi 11 1 1 0 0 0) 3#32), by unfold State.Issues; decide⟩,
    ⟨0, 0, 0, tCtx, ⟨11, 2, 1, 0, 0, 0, 0⟩, (tEng (tCtx) (tHi 11 2 1 0 0 0) 0#32), by unfold State.Issues; decide⟩,
    ⟨tCtx, ⟨2, 8, 1, 0, 0, 0, 0⟩, tEng tCtx (tHi 2 8 1 0 0 0) 0#32, by unfold State.Issues; decide⟩,
    ⟨{ tCtx with calls := [5] }, ⟨2, 8, 1, 0, 0, 0, 0⟩, tEng { tCtx with calls := [5] } (tHi 2 8 1 0 0 0) 0#32, by unfold State.Issues; decide⟩⟩

theorem witness_LoadsStoresAtomics :
    (∃ (g : Fin 64) (e : Fin 16) (c : Fin 4) (x : Ctx) (i : Insn) (s : State), s.Issues (ctxKey g.val e.val c.val) x i 3 0 ∧ i.addr x + 4 ≤ 0x140 ∧
    i.mod % 4 = 2) ∧
    (∃ (g : Fin 64) (e : Fin 16) (c : Fin 4) (x : Ctx) (i : Insn) (s : State), s.Issues (ctxKey g.val e.val c.val) x i 3 0 ∧ i.mod % 4 = 3) ∧
    (∃ (g : Fin 64) (e : Fin 16) (c : Fin 4) (x : Ctx) (i : Insn) (s : State), s.Issues (ctxKey g.val e.val c.val) x i 3 0 ∧ i.mod % 4 = 2 ∧ 0x10000
    ≤ i.addr x ∧ i.addr x + 4 ≤ 0x20000 ∧ i.addr x % 4 ≠ 0) ∧
    (∃ (g : Fin 64) (e : Fin 16) (c : Fin 4) (x : Ctx) (i : Insn) (s : State), s.Issues (ctxKey g.val e.val c.val) x i 4 0 ∧ i.mod % 4 = 2 ∧ i.addr x
    + 4 ≤ 0x140) ∧
    (∃ (g : Fin 64) (e : Fin 16) (c : Fin 4) (x : Ctx) (i : Insn) (s : State), s.Issues (ctxKey g.val e.val c.val) x i 4 0 ∧ i.mod % 4 = 2 ∧ 0x20000
    ≤ i.addr x) ∧
    (∃ (g : Fin 64) (e : Fin 16) (c : Fin 4) (x : Ctx) (i : Insn) (s : State), s.Issues (ctxKey g.val e.val c.val) x i 4 0 ∧ i.mod % 4 = 2 ∧ 0x10000
    ≤ i.addr x ∧ i.addr x + 4 ≤ 0x20000 ∧ i.addr x % 4 = 0) ∧
    (∃ (g : Fin 64) (e : Fin 16) (c : Fin 4) (x : Ctx) (i : Insn) (s : State), s.Issues (ctxKey g.val e.val c.val) x i 5 0 ∧ 0x10000 ≤ i.addr x ∧
    i.addr x + 4 ≤ 0x20000 ∧ i.addr x % 4 = 0) ∧
    (∃ (g : Fin 64) (e : Fin 16) (c : Fin 4) (x : Ctx) (i : Insn) (s : State), s.Issues (ctxKey g.val e.val c.val) x i 5 1 ∧ 0x10000 ≤ i.addr x ∧
    i.addr x + 4 ≤ 0x20000 ∧ i.addr x % 4 = 0) ∧
    (∃ (g : Fin 64) (e : Fin 16) (c : Fin 4) (x : Ctx) (i : Insn) (s : State), s.Issues (ctxKey g.val e.val c.val) x i 5 2 ∧ 0x10000 ≤ i.addr x ∧
    i.addr x + 4 ≤ 0x20000 ∧ i.addr x % 4 = 0) ∧
    (∃ (g : Fin 64) (e : Fin 16) (c : Fin 4) (x : Ctx) (i : Insn) (s : State), s.Issues (ctxKey g.val e.val c.val) x i 5 3 ∧ 0x10000 ≤ i.addr x ∧
    i.addr x + 4 ≤ 0x20000 ∧ i.addr x % 4 = 0 ∧ x.test = false) ∧
    (∃ (g : Fin 64) (e : Fin 16) (c : Fin 4) (x : Ctx) (i : Insn) (s : State), s.Issues (ctxKey g.val e.val c.val) x i 5 4 ∧ 0x10000 ≤ i.addr x ∧
    i.addr x + 4 ≤ 0x20000 ∧ i.addr x % 4 = 0 ∧ x.test = false) :=
  ⟨⟨0, 0, 0, tCtx, ⟨3, 0, 1, 0, 0, 2, 0⟩, (tEng (tCtx) (tHi 3 0 1 0 0 2) 0#32), by unfold State.Issues; decide⟩,
    ⟨0, 0, 0, tCtx, ⟨3, 0, 1, 0, 0, 3, 0⟩, (tEng (tCtx) (tHi 3 0 1 0 0 3) 0#32), by unfold State.Issues; decide⟩,
    ⟨0, 0, 0, tCtx, ⟨3, 0, 1, 0, 0, 2, 65537⟩, (tEng (tCtx) (tHi 3 0 1 0 0 2) 65537#32), by unfold State.Issues; decide⟩,
    ⟨0, 0, 0, tCtx, ⟨4, 0, 1, 0, 0, 2, 0⟩, (tEng (tCtx) (tHi 4 0 1 0 0 2) 0#32), by unfold State.Issues; decide⟩,
    ⟨0, 0, 0, tCtx, ⟨4, 0, 1, 0, 0, 2, 131072⟩, (tEng (tCtx) (tHi 4 0 1 0 0 2) 131072#32), by unfold State.Issues; decide⟩,
    ⟨0, 0, 0, tCtx, ⟨4, 0, 1, 0, 0, 2, 65536⟩, (tEng (tCtx) (tHi 4 0 1 0 0 2) 65536#32), by unfold State.Issues; decide⟩,
    ⟨0, 0, 0, tCtx, ⟨5, 0, 1, 0, 0, 0, 65536⟩, (tEng (tCtx) (tHi 5 0 1 0 0 0) 65536#32), by unfold State.Issues; decide⟩,
    ⟨0, 0, 0, tCtx, ⟨5, 1, 1, 0, 0, 0, 65536⟩, (tEng (tCtx) (tHi 5 1 1 0 0 0) 65536#32), by unfold State.Issues; decide⟩,
    ⟨0, 0, 0, tCtx, ⟨5, 2, 1, 0, 0, 0, 65536⟩, (tEng (tCtx) (tHi 5 2 1 0 0 0) 65536#32), by unfold State.Issues; decide⟩,
    ⟨0, 0, 0, tCtx, ⟨5, 3, 1, 0, 0, 0, 65536⟩, (tEng (tCtx) (tHi 5 3 1 0 0 0) 65536#32), by unfold State.Issues; decide⟩,
    ⟨0, 0, 0, tCtx, ⟨5, 4, 1, 0, 0, 0, 65536⟩, (tEng (tCtx) (tHi 5 4 1 0 0 0) 65536#32), by unfold State.Issues; decide⟩⟩

theorem witness_ParseKeysLookups :
    (∃ (g : Fin 64) (e : Fin 16) (c : Fin 4) (x : Ctx) (i : Insn) (s : State) (h : _), s.Issues (ctxKey g.val e.val c.val) x i 6 0 ∧ x.parse.lc < 12
    ∧ header x.win x.parse.hp x.parse.ht = some h ∧ x.parse.hp + h.len ≤ 256 ∧ h.bad = false ∧ h.claim = none) ∧
    (∃ (g : Fin 64) (e : Fin 16) (c : Fin 4) (x : Ctx) (i : Insn) (s : State), s.Issues (ctxKey g.val e.val c.val) x i 6 0 ∧ 12 ≤ x.parse.lc) ∧
    (∃ (g : Fin 64) (e : Fin 16) (c : Fin 4) (x : Ctx) (i : Insn) (s : State), s.Issues (ctxKey g.val e.val c.val) x i 6 1 ∧ x.parse.lc < 12 ∧
    x.parse.hp + i.imm % 512 ≤ 256) ∧
    (∃ (g : Fin 64) (e : Fin 16) (c : Fin 4) (x : Ctx) (i : Insn) (s : State), s.Issues (ctxKey g.val e.val c.val) x i 6 2) ∧
    (∃ (g : Fin 64) (e : Fin 16) (c : Fin 4) (x : Ctx) (i : Insn) (s : State), s.Issues (ctxKey g.val e.val c.val) x i 7 0) ∧
    (∃ (g : Fin 64) (e : Fin 16) (c : Fin 4) (x : Ctx) (i : Insn) (s : State), s.Issues (ctxKey g.val e.val c.val) x i 7 1 ∧ (x.reg i.a +
    BitVec.ofNat 32 (i.imm / 2 ^ 16)).toNat + i.imm % 128 ≤ 0x140) ∧
    (∃ (g : Fin 64) (e : Fin 16) (c : Fin 4) (x : Ctx) (i : Insn) (s : State), s.Issues (ctxKey g.val e.val c.val) x i 7 2 ∧ i.imm % 128 = 2) ∧
    (∃ (g : Fin 64) (e : Fin 16) (c : Fin 4) (x : Ctx) (i : Insn) (s : State), s.Issues (ctxKey g.val e.val c.val) x i 8 0 ∧ (x.slot (i.mod %
    4)).busy = false) ∧
    (∃ (g : Fin 64) (e : Fin 16) (c : Fin 4) (x : Ctx) (i : Insn) (s : State), s.Issues (ctxKey g.val e.val c.val) x i 8 1 ∧ (x.slot (i.mod %
    4)).busy = false) ∧
    (∃ (g : Fin 64) (e : Fin 16) (c : Fin 4) (x : Ctx) (i : Insn) (s : State), s.Issues (ctxKey g.val e.val c.val) x i 8 2) ∧
    (∃ (x : Ctx) (i : Insn) (s : State), s.Issues (ctxKey 0 0 0) x i 6 1 ∧ 12 ≤ x.parse.lc) :=
  ⟨⟨0, 0, 0, tCtx, ⟨6, 0, 1, 0, 0, 0, 0⟩, (tEng (tCtx) (tHi 6 0 1 0 0 0) 0#32), ⟨14, etherType 0, false, none⟩, by unfold State.Issues; decide⟩,
    ⟨0, 0, 0, { tCtx with parse := { tCtx.parse with lc := 12 } }, ⟨6, 0, 1, 0, 0, 0, 0⟩, (tEng ({ tCtx with parse := { tCtx.parse with lc := 12 } }) (tHi 6 0 1 0 0 0) 0#32), by unfold State.Issues; decide⟩,
    ⟨0, 0, 0, tCtx, ⟨6, 1, 1, 0, 0, 0, 0⟩, (tEng (tCtx) (tHi 6 1 1 0 0 0) 0#32), by unfold State.Issues; decide⟩,
    ⟨0, 0, 0, tCtx, ⟨6, 2, 1, 0, 0, 0, 0⟩, (tEng (tCtx) (tHi 6 2 1 0 0 0) 0#32), by unfold State.Issues; decide⟩,
    ⟨0, 0, 0, tCtx, ⟨7, 0, 1, 0, 0, 0, 0⟩, (tEng (tCtx) (tHi 7 0 1 0 0 0) 0#32), by unfold State.Issues; decide⟩,
    ⟨0, 0, 0, tCtx, ⟨7, 1, 1, 0, 0, 0, 0⟩, (tEng (tCtx) (tHi 7 1 1 0 0 0) 0#32), by unfold State.Issues; decide⟩,
    ⟨0, 0, 0, tCtx, ⟨7, 2, 1, 0, 0, 0, 2⟩, (tEng (tCtx) (tHi 7 2 1 0 0 0) 2#32), by unfold State.Issues; decide⟩,
    ⟨0, 0, 0, tCtx, ⟨8, 0, 1, 0, 0, 0, 0⟩, (tEng (tCtx) (tHi 8 0 1 0 0 0) 0#32), by unfold State.Issues; decide⟩,
    ⟨0, 0, 0, tCtx, ⟨8, 1, 1, 0, 0, 0, 0⟩, (tEng (tCtx) (tHi 8 1 1 0 0 0) 0#32), by unfold State.Issues; decide⟩,
    ⟨0, 0, 0, tCtx, ⟨8, 2, 1, 0, 0, 0, 0⟩, (tEng (tCtx) (tHi 8 2 1 0 0 0) 0#32), by unfold State.Issues; decide⟩,
    ⟨{ tCtx with parse := { tCtx.parse with lc := 12 } }, ⟨6, 1, 1, 0, 0, 0, 0⟩, tEng { tCtx with parse := { tCtx.parse with lc := 12 } } (tHi 6 1 1 0 0 0) 0#32, by unfold State.Issues; decide⟩⟩

theorem witness_EditsVerdictEnd :
    (∃ (g : Fin 64) (e : Fin 16) (c : Fin 4) (x : Ctx) (i : Insn) (s : State), s.Issues (ctxKey g.val e.val c.val) x i 9 0 ∧ x.wdelta + (i.imm % 128
    : Nat) ≤ 64 ∧ (x.reg i.a).toNat ≤ x.win.length) ∧
    (∃ (g : Fin 64) (e : Fin 16) (c : Fin 4) (x : Ctx) (i : Insn) (s : State), s.Issues (ctxKey g.val e.val c.val) x i 9 0 ∧ 64 < x.wdelta + (i.imm %
    128 : Nat)) ∧
    (∃ (g : Fin 64) (e : Fin 16) (c : Fin 4) (x : Ctx) (i : Insn) (s : State), s.Issues (ctxKey g.val e.val c.val) x i 9 1 ∧ -128 ≤ x.wdelta - (i.imm
    % 128 : Nat) ∧ (x.reg i.a).toNat + i.imm % 128 ≤ x.win.length) ∧
    (∃ (g : Fin 64) (e : Fin 16) (c : Fin 4) (x : Ctx) (i : Insn) (s : State), s.Issues (ctxKey g.val e.val c.val) x i 9 2 ∧ (x.reg i.a).toNat + 2 ≤
    x.win.length) ∧
    (∃ (g : Fin 64) (e : Fin 16) (c : Fin 4) (x : Ctx) (i : Insn) (s : State), s.Issues (ctxKey g.val e.val c.val) x i 10 0) ∧
    (∃ (g : Fin 64) (e : Fin 16) (c : Fin 4) (x : Ctx) (i : Insn) (s : State), s.Issues (ctxKey g.val e.val c.val) x i 10 1) ∧
    (∃ (g : Fin 64) (e : Fin 16) (c : Fin 4) (x : Ctx) (i : Insn) (s : State), s.Issues (ctxKey g.val e.val c.val) x i 10 2) ∧
    (∃ (g : Fin 64) (e : Fin 16) (c : Fin 4) (x : Ctx) (i : Insn) (s : State), s.Issues (ctxKey g.val e.val c.val) x i 10 3) ∧
    (∃ (g : Fin 64) (e : Fin 16) (c : Fin 4) (x : Ctx) (i : Insn) (s : State), s.Issues (ctxKey g.val e.val c.val) x i 10 4) ∧
    (∃ (g : Fin 64) (e : Fin 16) (c : Fin 4) (x : Ctx) (i : Insn) (s : State), s.Issues (ctxKey g.val e.val c.val) x i 10 5) ∧
    (∃ (g : Fin 64) (e : Fin 16) (c : Fin 4) (x : Ctx) (i : Insn) (s : State), s.Issues (ctxKey g.val e.val c.val) x i 10 6) ∧
    (∃ (g : Fin 64) (e : Fin 16) (c : Fin 4) (x : Ctx) (i : Insn) (s : State), s.Issues (ctxKey g.val e.val c.val) x i 10 7) ∧
    (∃ (g : Fin 64) (e : Fin 16) (c : Fin 4) (x : Ctx) (i : Insn) (s : State), s.Issues (ctxKey g.val e.val c.val) x i 11 3 ∧ x.eff.length < 32) ∧
    (∃ (x : Ctx) (i : Insn) (s : State), s.Issues (ctxKey 0 0 0) x i 10 7 ∧ x.setv = false) ∧
    (∃ (x : Ctx) (i : Insn) (s : State), s.Issues (ctxKey 0 0 0) x i 10 7 ∧ x.setv = true) :=
  ⟨⟨0, 0, 0, tCtx, ⟨9, 0, 1, 0, 0, 0, 0⟩, (tEng (tCtx) (tHi 9 0 1 0 0 0) 0#32), by unfold State.Issues; decide⟩,
    ⟨0, 0, 0, tCtx, ⟨9, 0, 1, 0, 0, 0, 65⟩, (tEng (tCtx) (tHi 9 0 1 0 0 0) 65#32), by unfold State.Issues; decide⟩,
    ⟨0, 0, 0, tCtx, ⟨9, 1, 1, 0, 0, 0, 0⟩, (tEng (tCtx) (tHi 9 1 1 0 0 0) 0#32), by unfold State.Issues; decide⟩,
    ⟨0, 0, 0, { tCtx with win := [0#8, 0#8] }, ⟨9, 2, 1, 0, 0, 0, 0⟩, (tEng ({ tCtx with win := [0#8, 0#8] }) (tHi 9 2 1 0 0 0) 0#32), by unfold State.Issues; decide⟩,
    ⟨0, 0, 0, tCtx, ⟨10, 0, 1, 0, 0, 0, 0⟩, (tEng (tCtx) (tHi 10 0 1 0 0 0) 0#32), by unfold State.Issues; decide⟩,
    ⟨0, 0, 0, tCtx, ⟨10, 1, 1, 0, 0, 0, 0⟩, (tEng (tCtx) (tHi 10 1 1 0 0 0) 0#32), by unfold State.Issues; decide⟩,
    ⟨0, 0, 0, tCtx, ⟨10, 2, 1, 0, 0, 0, 0⟩, (tEng (tCtx) (tHi 10 2 1 0 0 0) 0#32), by unfold State.Issues; decide⟩,
    ⟨0, 0, 0, tCtx, ⟨10, 3, 1, 0, 0, 0, 0⟩, (tEng (tCtx) (tHi 10 3 1 0 0 0) 0#32), by unfold State.Issues; decide⟩,
    ⟨0, 0, 0, tCtx, ⟨10, 4, 1, 0, 0, 0, 0⟩, (tEng (tCtx) (tHi 10 4 1 0 0 0) 0#32), by unfold State.Issues; decide⟩,
    ⟨0, 0, 0, tCtx, ⟨10, 5, 1, 0, 0, 0, 0⟩, (tEng (tCtx) (tHi 10 5 1 0 0 0) 0#32), by unfold State.Issues; decide⟩,
    ⟨0, 0, 0, tCtx, ⟨10, 6, 1, 0, 0, 0, 0⟩, (tEng (tCtx) (tHi 10 6 1 0 0 0) 0#32), by unfold State.Issues; decide⟩,
    ⟨0, 0, 0, tCtx, ⟨10, 7, 1, 0, 0, 0, 0⟩, (tEng (tCtx) (tHi 10 7 1 0 0 0) 0#32), by unfold State.Issues; decide⟩,
    ⟨0, 0, 0, tCtx, ⟨11, 3, 1, 0, 0, 0, 0⟩, (tEng (tCtx) (tHi 11 3 1 0 0 0) 0#32), by unfold State.Issues; decide⟩,
    ⟨tCtx, ⟨10, 7, 1, 0, 0, 0, 0⟩, tEng tCtx (tHi 10 7 1 0 0 0) 0#32, by unfold State.Issues; decide⟩,
    ⟨{ tCtx with setv := true }, ⟨10, 7, 1, 0, 0, 0, 0⟩, tEng { tCtx with setv := true } (tHi 10 7 1 0 0 0) 0#32, by unfold State.Issues; decide⟩⟩

theorem witness_SorterOrder :
    (∃ (s : State), s.fwd.srtIn = []) ∧
    (∃ (s : State) (d : Desc) (l : List SrtIn), s.fwd.srtIn = .new d :: l ∧ s.anyHealthy = false) ∧
    (∃ (s : State), s.fwd.flights = []) ∧
    (∃ (f : BitVec 16) (s : State), s.flightAt f.toNat (s.flow f.toNat).release = none) ∧
    (∃ (f : BitVec 16) (y : Flight) (s : State), s.flightAt f.toNat (s.flow f.toNat).release = some y ∧ y.done = true) ∧
    (∃ (f : BitVec 16) (y : Flight) (s : State), s.flightAt f.toNat (s.flow f.toNat).release = some y ∧ y.done = false ∧ s.fwd.flights.any (fun z =>
    z.d.flow == f.toNat && z.done) = true) :=
  ⟨⟨State.reset, by decide⟩,
    ⟨({ tAllOff with fwd := { (tAllOff).fwd with srtIn := [.new Desc.zero] } }), Desc.zero, [], by decide⟩,
    ⟨State.reset, by decide⟩,
    ⟨0#16, State.reset, by decide⟩,
    ⟨0#16, ⟨0, Desc.zero, 0, none, none, true, false, false⟩, ({ State.reset with fwd := { (State.reset).fwd with flights := [⟨0, Desc.zero, 0, none, none, true, false, false⟩] } }), by decide⟩,
    ⟨0#16, ⟨0, Desc.zero, 0, none, none, false, false, false⟩, ({ State.reset with fwd := { (State.reset).fwd with flights := [⟨0, Desc.zero, 0, none, none, false, false, false⟩, ⟨1, { Desc.zero with seq := 1 }, 0, none, none, true, false, false⟩] } }), by decide⟩⟩

theorem witness_ContextResults :
    (∃ (g : Fin 64) (e : Fin 16) (c : Fin 4) (s : State), s.ctxOf (ctxKey g.val e.val c.val) = none) ∧
    (∃ (g : Fin 64) (e : Fin 16) (c : Fin 4) (x : Ctx) (s : State), s.ctxOf (ctxKey g.val e.val c.val) = some x ∧ x.loading = true ∧ x.test = false) ∧
    (∃ (g : Fin 64) (e : Fin 16) (c : Fin 4) (m : Fin 4) (x : Ctx) (exm : Bool) (soft : Bool) (r : LRes) (s : State), s.ctxOf (ctxKey g.val e.val
    c.val) = some x ∧ x.slot m.val = .found exm soft r ∧ r.status ≠ 1) ∧
    (∃ (g : Fin 64) (e : Fin 16) (c : Fin 4) (m : Fin 4) (x : Ctx) (soft : Bool) (p : Nat) (k : List Byte) (s : State), s.ctxOf (ctxKey g.val e.val
    c.val) = some x ∧ x.slot m.val = .out false soft p k) ∧
    (∃ (g : Fin 64) (e : Fin 16) (c : Fin 4) (m : Fin 4) (x : Ctx) (soft : Bool) (p : Nat) (k : List Byte) (s : State), s.ctxOf (ctxKey g.val e.val
    c.val) = some x ∧ x.slot m.val = .out true soft p k) ∧
    (∃ (s : State), s.fwd.express = []) ∧
    (∃ (x : ExpIn) (r : List ExpIn) (s : State), s.fwd.express = x :: r ∧ x.exm = false) :=
  ⟨⟨0, 0, 0, State.reset, by decide⟩,
    ⟨0, 0, 0, (Ctx.start 0 false Desc.zero 0), (State.reset.setCtx 0 (some (Ctx.start 0 false Desc.zero 0))), by decide⟩,
    ⟨0, 0, 0, 0, ({ tCtx with res := [(0, .found false false ⟨0, 0, 0, 0, 0, Quad.zero⟩)] } : Ctx), false, false, ⟨0, 0, 0, 0, 0, Quad.zero⟩, (State.reset.setCtx 0 (some ({ tCtx with res := [(0, .found false false ⟨0, 0, 0, 0, 0, Quad.zero⟩)] } : Ctx))), by decide⟩,
    ⟨0, 0, 0, 0, ({ tCtx with res := [(0, .out false false 0 [])] } : Ctx), false, 0, [], (State.reset.setCtx 0 (some ({ tCtx with res := [(0, .out false false 0 [])] } : Ctx))), by decide⟩,
    ⟨0, 0, 0, 0, ({ tCtx with res := [(0, .out true false 0 [])] } : Ctx), false, 0, [], (State.reset.setCtx 0 (some ({ tCtx with res := [(0, .out true false 0 [])] } : Ctx))), by decide⟩,
    ⟨State.reset, by decide⟩,
    ⟨⟨Desc.zero, false, 0, []⟩, [], ({ State.reset with fwd := { (State.reset).fwd with express := [⟨Desc.zero, false, 0, []⟩] } }), by decide⟩⟩

theorem witness_GuildStates :
    (∃ (ag : Agent) (g : Fin 64) (v : Word) (s : State), s.reaches ag (Reg.GLD_CTRL.addr g.val) = true ∧ v.toNat % 65536 = 65535) ∧
    (∃ (g : Fin 64) (s : State), s.guildState g.val = .drain ∧ s.guildBusy g.val = false ∧ s.lastOfGen g.val = false) ∧
    (∃ (g : Fin 64) (s : State), s.guildState g.val ≠ .drain) ∧
    (∃ (g : Fin 64) (s : State), s.guildState g.val = .drain) ∧
    (∃ (g : Fin 64) (s : State), s.guildState g.val = .switch) ∧
    (∃ (g : Fin 64) (s : State), s.guildState g.val ≠ .check) ∧
    (∃ (g : Fin 64) (b : List (List Nat × List Nat)) (s : State), s.guildState g.val = .check ∧ ((∀ r ∈ b, ∃ m, (r.1 ++ r.2).length < 2 * (r.1 ++
    r.2).count m ∧ ∀ x ∈ r.1, x = m))) ∧
    (∃ (g : Fin 64) (b : List (List Nat × List Nat)) (r : List Nat × List Nat) (x : Nat) (s : State), s.guildState g.val = .check ∧ r ∈ b ∧ x ∈ r.1 ∧
    2 * (r.1 ++ r.2).count x ≤ (r.1 ++ r.2).length) ∧
    (∃ (v : Word) (s : State), s.reaches .steward (Reg.GLD_CTRL.addr 0) = true ∧ v.toNat % 65536 = 65535 ∧ s.guildState 0 = .run ∧ s.rd
    (Reg.GLD_BANK.RESULT 0) = 2) ∧
    (∃ (v : Word) (s : State), s.reaches .steward (Reg.GLD_CTRL.addr 0) = true ∧ v.toNat % 65536 = 65535 ∧ s.guildState 0 = .drain) ∧
    (∃ (v : Word) (s : State), s.reaches .steward (Reg.GLD_CTRL.addr 0) = true ∧ v.toNat % 65536 = 65535 ∧ s.guildState 0 = .off ∧ s.rd
    (Reg.GLD_BANK.RESULT 0) = 2 ∧ s.flt.isolated .guild 0 = false) :=
  ⟨⟨.steward, 0, 0xFFFF#32, State.reset, by decide⟩,
    ⟨0, (((State.reset.wr (Reg.GLD_STATE.STATE 1) 0).wr (Reg.GLD_GEN.GEN 0) 0).wr (Reg.GLD_STATE.STATE 0) 1), by decide⟩,
    ⟨0, State.reset, by decide⟩,
    ⟨0, (State.reset.wr (Reg.GLD_STATE.STATE 0) 1), by decide⟩,
    ⟨0, (State.reset.wr (Reg.GLD_STATE.STATE 0) 2), by decide⟩,
    ⟨0, State.reset, by decide⟩,
    ⟨0, [([1], [1])], (State.reset.wr (Reg.GLD_STATE.STATE 0) 3), ⟨by decide, fun r h => List.mem_singleton.mp h ▸ ⟨1, by decide, by decide⟩⟩⟩,
    ⟨0, [([1], [2, 2])], ([1], [2, 2]), 1, (State.reset.wr (Reg.GLD_STATE.STATE 0) 3), by decide⟩,
    ⟨0xFFFF#32, (State.reset.wr (Reg.GLD_STATE.STATE 0) 0).wr (Reg.GLD_BANK.RESULT 0) 2, by decide⟩,
    ⟨0xFFFF#32, State.reset.wr (Reg.GLD_STATE.STATE 0) 1, by decide⟩,
    ⟨0xFFFF#32, (State.reset.wr (Reg.GLD_STATE.STATE 0) 4).wr (Reg.GLD_BANK.RESULT 0) 2, by decide⟩⟩

theorem witness_BankValidationAndAlarms :
    (∃ (ag : Agent) (g : Fin 64) (s : State), s.reaches ag (Reg.GLD_BANK.addr g.val) = true) ∧
    (∃ (g : Fin 64) (s : State), s.rd (Reg.GLD_BANK.RESULT g.val) ≠ 1) ∧
    (∃ (g : Fin 64) (s : State), s.rd (Reg.GLD_BANK.RESULT g.val) = 1) ∧
    (∃ (ag : Agent) (g : Fin 64) (s : State), s.reachesWin ag (32 + g.val) = true) :=
  ⟨⟨.steward, 0, State.reset, by decide⟩,
    ⟨0, State.reset, by decide⟩,
    ⟨0, (State.reset.wr (Reg.GLD_BANK.RESULT 0) 1), by decide⟩,
    ⟨.steward, 0, State.reset, by decide⟩⟩

theorem witness_LedgerEntryCommands :
    (∃ (ag : Agent) (k : Fin 2) (v : Word) (s : State), s.LdgReady ag k ∧ cmdStaged v = false ∧ cmdIndex v % widthRows (s.bankWidth (cmdIndex v /
    1024)) = 0 ∧ s.regionOf (cmdIndex v / 1024) = none ∧ s.bankRetired (cmdIndex v / 1024) = false ∧ s.row (cmdIndex v) = none) ∧
    (∃ (ag : Agent) (k : Fin 2) (v : Word) (h : Nat) (s : State), s.LdgReady ag k ∧ cmdStaged v = false ∧ s.bit (Reg.LDG_REGION.VALID (cmdRegion v))
    = true ∧ (List.range 64).any (fun b => s.regionOf b == some (cmdRegion v) && s.bankRetired b) = false ∧ s.insHole (s.regionSize (cmdRegion v))
    (insPoint (s.regionUsed (cmdRegion v)) (s.ldgEnt k.val (s.bankWidth (s.rd (Reg.LDG_REGION.FIRST (cmdRegion v)))) s.published).prio (cmdTail v))
    (s.regionUsed (cmdRegion v)) = some h ∧ (insMoves (s.regionUsed (cmdRegion v)) (insPoint (s.regionUsed (cmdRegion v)) (s.ldgEnt k.val
    (s.bankWidth (s.rd (Reg.LDG_REGION.FIRST (cmdRegion v)))) s.published).prio (cmdTail v)) h).1 = []) ∧
    (∃ (ag : Agent) (k : Fin 2) (v : Word) (x : LEnt) (s : State), s.LdgReady ag k ∧ cmdStaged v = false ∧ cmdExm v = false ∧ cmdIndex v % widthRows
    (s.bankWidth (cmdIndex v / 1024)) = 0 ∧ s.bankRetired (cmdIndex v / 1024) = false ∧ s.row (cmdIndex v) = some x ∧ s.visible x.life s.published =
    true) ∧
    (∃ (ag : Agent) (k : Fin 2) (v : Word) (n : Nat) (i : Nat) (r : State) (s : State), s.LdgReady ag k ∧ cmdStaged v = false ∧ s.exmLen (cmdProf v)
    = some n ∧ s.keyTaken (s.rd (Reg.LDG_PROF_W0.EXM_TABLE (cmdProf v))) (s.ldgKey k.val n) s.published = false ∧ s.wayPlace (s.rd
    (Reg.LDG_PROF_W0.EXM_TABLE (cmdProf v))) (s.ldgKey k.val n) = (r, some i)) ∧
    (∃ (ag : Agent) (k : Fin 2) (v : Word) (s : State), s.LdgReady ag k ∧ cmdExm v = false) ∧
    (∃ (ag : Agent) (k : Fin 2) (s : State), s.reaches ag (Reg.LDG_CMD.addr k.val) = true ∧ s.bit (Reg.LDG_CMD_STATUS.BUSY k.val) = true) :=
  ⟨⟨.steward, 0, 0#32, State.reset, by unfold State.LdgReady; decide⟩,
    ⟨.steward, 0, 0#32, 0, (State.reset.wr (Reg.LDG_REGION.VALID 0) 1), by unfold State.LdgReady; decide⟩,
    ⟨.steward, 0, 0#32, ⟨0, 0, 0, ⟨0, none⟩, Quad.zero⟩, ({ State.reset with ldg := { (State.reset).ldg with rows := [(0, some ⟨0, 0, 0, ⟨0, none⟩, Quad.zero⟩)] } }), by unfold State.LdgReady; decide⟩,
    ⟨.steward, 0, 0#32, 8, _, _, (State.reset.wr (Reg.LDG_PROF_W0.EXM_LEN 0) 8), ⟨by decide, by decide, by decide⟩, by decide, by decide, by decide, rfl⟩,
    ⟨.steward, 0, 0#32, State.reset, by unfold State.LdgReady; decide⟩,
    ⟨.steward, 0, (State.reset.wr (Reg.LDG_CMD_STATUS.BUSY 0) 1), by decide⟩⟩

theorem witness_EpochCommands :
    (∃ (ag : Agent) (k : Fin 2) (s : State), s.LdgReady ag k ∧ s.staging = none ∧ s.liveCount < 15) ∧
    (∃ (ag : Agent) (k : Fin 2) (e : Nat) (s : State), s.LdgReady ag k ∧ s.staging = some e) ∧
    (∃ (s : State), s.draining s.oldest = true ∧ s.rd (Reg.LDG_EPOCH_REF.COUNT s.oldest) = 0 ∧ s.ldg.sweep = none ∧ s.ldg.job = none) ∧
    (∃ (s : State), (s.draining s.oldest = false ∨ s.rd (Reg.LDG_EPOCH_REF.COUNT s.oldest) ≠ 0)) ∧
    (∃ (e : Nat) (s : State), s.ldg.sweep = some e) ∧
    (∃ (k : Nat) (e : Nat) (s : State), s.ldg.job = some (.discard k e)) ∧
    (∃ (e : Fin 16) (s : State), s.draining e.val = true ∧ s.rd Reg.LDG_EPOCH_CFG.STUCK_MS ≠ 0 ∧ s.ldg.stuck.contains e.val = false) ∧
    (∃ (e : Fin 16) (s : State), s.draining e.val = false) :=
  ⟨⟨.steward, 0, State.reset, by unfold State.LdgReady; decide⟩,
    ⟨.steward, 0, 1, ((State.reset.wr Reg.LDG_EPOCH.STAGING_V 1).wr Reg.LDG_EPOCH.STAGING 1), by unfold State.LdgReady; decide⟩,
    ⟨((State.reset.wr Reg.LDG_EPOCH.PUBLISHED 1)), by decide⟩,
    ⟨State.reset, by decide⟩,
    ⟨0, ({ State.reset with ldg := { (State.reset).ldg with sweep := some 0 } }), by decide⟩,
    ⟨0, 1, ({ State.reset with ldg := { (State.reset).ldg with job := some (.discard 0 1) } }), by decide⟩,
    ⟨0, ((State.reset.wr Reg.LDG_EPOCH.PUBLISHED 1).wr Reg.LDG_EPOCH_CFG.STUCK_MS 5), by decide⟩,
    ⟨0, State.reset, by decide⟩⟩

theorem witness_LedgerMovesAndScrub :
    (∃ (j : InsJob) (m : Nat × Nat) (m2 : Nat × Nat) (l : List (Nat × Nat)) (s : State), s.ldg.job = some (.insert j) ∧ j.moves = m :: m2 :: l ∧ m.1
    ≠ m.2) ∧
    (∃ (j : InsJob) (m : Nat × Nat) (s : State), s.ldg.job = some (.insert j) ∧ j.moves = [m] ∧ s.ldg.held = none) ∧
    (∃ (s : State), s.ldg.job = none) ∧
    (∃ (r : Fin 16) (s : State), (s.bit Reg.LDG_CFG.RESPREAD = false ∨ s.bit (Reg.LDG_REGION.VALID r.val) = false ∨ s.inserting = true)) ∧
    (∃ (r : Fin 16) (m : Nat × Nat) (s : State), s.bit Reg.LDG_CFG.RESPREAD = true ∧ s.bit (Reg.LDG_REGION.VALID r.val) = true ∧ s.inserting = false
    ∧ s.respread r.val = some m) ∧
    (∃ (s : State), s.bit Reg.LDG_CFG.SCRUB_EN = false) ∧
    (∃ (s : State), s.bit Reg.LDG_CFG.SCRUB_EN = true) ∧
    (∃ (s : State), s.bit Reg.EXM_CFG.STASH_DRAIN = false) :=
  ⟨⟨⟨0, [(1, 2), (0, 1)], ⟨0, 0, 0, ⟨0, none⟩, Quad.zero⟩, 0⟩, (1, 2), (0, 1), [], ({ State.reset with ldg := { (State.reset).ldg with job := some (.insert ⟨0, [(1, 2), (0, 1)], ⟨0, 0, 0, ⟨0, none⟩, Quad.zero⟩, 0⟩) } }), by decide⟩,
    ⟨⟨0, [(1, 2)], ⟨0, 0, 0, ⟨0, none⟩, Quad.zero⟩, 0⟩, (1, 2), ({ State.reset with ldg := { (State.reset).ldg with job := some (.insert ⟨0, [(1, 2)], ⟨0, 0, 0, ⟨0, none⟩, Quad.zero⟩, 0⟩) } }), by decide⟩,
    ⟨State.reset, by decide⟩,
    ⟨0, State.reset, by decide⟩,
    ⟨0, (15, 16), ({ (((State.reset.wr Reg.LDG_CFG.RESPREAD 1).wr Reg.LDG_CFG.HOLE_LOG2 4).wr (Reg.LDG_REGION.VALID 0) 1) with ldg := { Ldg.reset with rows := (List.range 16).map (fun i => (i, some ⟨0, 0, 0, ⟨0, none⟩, Quad.zero⟩)) } }), by decide⟩,
    ⟨(State.reset.wr Reg.LDG_CFG.SCRUB_EN 0), by decide⟩,
    ⟨State.reset, by decide⟩,
    ⟨(State.reset.wr Reg.EXM_CFG.STASH_DRAIN 0), by decide⟩⟩

theorem witness_UplinkFramesPaceAndLoss :
    (∃ (n : Fin 24) (s : State), (s.bit (Reg.ULK_STATUS.LINK_UP n.val) = false ∨ s.flt.safe = true)) ∧
    (∃ (n : Fin 24) (fr : List Byte) (s : State), s.bit (Reg.ULK_STATUS.LINK_UP n.val) = true ∧ s.flt.safe = false ∧ 16383 < fr.length ∧ ptpEvent fr
    = false) ∧
    (∃ (n : Fin 24) (s : State), s.bit (Reg.ULK_STATUS.LINK_UP n.val) = true ∧ s.flt.safe = false) ∧
    (∃ (n : Fin 24) (s : State), s.egressOf (64 + n.val) = []) ∧
    (∃ (n : Fin 24) (b : BitVec 14) (x : Out) (r : List Out) (s : State), s.egressOf (64 + n.val) = x :: r ∧ s.bit (Reg.ULK_STATUS.LINK_UP n.val) =
    true ∧ s.flt.safe = false ∧ 512 ≤ b.toNat ∧ b.toNat < x.bytes.length) ∧
    (∃ (n : Fin 24) (u : Option (BitVec 14)) (x : Out) (r : List Out) (s : State), s.egressOf (64 + n.val) = x :: r ∧ s.bit (Reg.ULK_STATUS.LINK_UP
    n.val) = true ∧ s.flt.safe = false ∧ ((∀ b, u = some b → b.toNat < 512 ∨ x.bytes.length ≤ b.toNat))) ∧
    (∃ (n : Fin 24) (x : Out) (r : List Out) (s : State), s.egressOf (64 + n.val) = x :: r ∧ s.bit (Reg.ULK_STATUS.LINK_UP n.val) = true ∧ s.flt.safe
    = false) ∧
    (∃ (p : Fin 32) (s : State), 3 ≤ (s.side p 0).lossRun ∧ s.bit (Reg.PT_US_STATUS.US_LOSS50 p.val) = false ∧ s.bit Reg.TWN_CFG.TRG_USLOSS = false) ∧
    (∃ (p : Fin 32) (s : State), ((s.side p 1).lossRun < 3 ∨ s.bit (Reg.PT_US_STATUS.US_LOSS10 p.val) = true)) :=
  ⟨⟨0, State.reset, by decide⟩,
    ⟨0, (List.replicate 16384 0#8), ((State.reset.wr (Reg.ULK_STATUS.LINK_UP 0) 1)), by refine ⟨by decide, by decide, ?_, by decide⟩; rw [List.length_replicate]; decide⟩,
    ⟨0, ((State.reset.wr (Reg.ULK_STATUS.LINK_UP 0) 1)), by decide⟩,
    ⟨0, State.reset, by decide⟩,
    ⟨0, 512#14, ⟨Desc.zero, List.replicate 600 0#8, 0, false⟩, [], ({ (State.reset.wr (Reg.ULK_STATUS.LINK_UP 0) 1) with cpg := { ((State.reset.wr (Reg.ULK_STATUS.LINK_UP 0) 1)).cpg with egress := [(64, [⟨Desc.zero, List.replicate 600 0#8, 0, false⟩])] } }), by refine ⟨by decide, by decide, by decide, by decide, ?_⟩; rw [List.length_replicate]; decide⟩,
    ⟨0, none, ⟨Desc.zero, [], 0, false⟩, [], ({ (State.reset.wr (Reg.ULK_STATUS.LINK_UP 0) 1) with cpg := { ((State.reset.wr (Reg.ULK_STATUS.LINK_UP 0) 1)).cpg with egress := [(64, [⟨Desc.zero, [], 0, false⟩])] } }), ⟨by decide, by decide, by decide, fun _ => nofun⟩⟩,
    ⟨0, ⟨Desc.zero, [], 0, false⟩, [], ({ (State.reset.wr (Reg.ULK_STATUS.LINK_UP 0) 1) with cpg := { ((State.reset.wr (Reg.ULK_STATUS.LINK_UP 0) 1)).cpg with egress := [(64, [⟨Desc.zero, [], 0, false⟩])] } }), by decide⟩,
    ⟨0, ((State.reset.wr (Reg.TWN_CFG.TRG_USLOSS) 0).setSide 0 0 { PonSide.reset with lossRun := 3 }), by decide⟩,
    ⟨0, State.reset, by decide⟩⟩

theorem witness_BuffersAndEnqueue :
    (∃ (h : Fin 16777216) (s : State), s.handleOk h.val = true ∧ (s.buf h.val).held = true ∧ 1 < (s.buf h.val).ref) ∧
    (∃ (h : Fin 16777216) (s : State), s.handleOk h.val = true ∧ (s.buf h.val).held = true ∧ (s.buf h.val).ref ≤ 1) ∧
    (∃ (h : Fin 16777216) (s : State), s.handleOk h.val = true ∧ (s.buf h.val).held = false) ∧
    (∃ (h : Fin 16777216) (s : State), s.handleOk h.val = false) ∧
    (∃ (ag : Agent) (v : Word) (s : State), s.reaches ag Reg.CPG_FREE_STW.addr = true ∧ s.handleOk (fldOf v Reg.CPG_FREE_STW.HANDLE) = true ∧ (s.buf
    (fldOf v Reg.CPG_FREE_STW.HANDLE)).held = true ∧ (s.buf (fldOf v Reg.CPG_FREE_STW.HANDLE)).ref = 1) ∧
    (∃ (s : State), (s.flt.safe = true ∨ s.fwd.enq = [])) ∧
    (∃ (x : EnqIn) (r : List EnqIn) (s : State), s.flt.safe = false ∧ s.fwd.enq = x :: r ∧ s.isProxy x.d = false ∧ x.yellow = none ∧ x.unref = none) ∧
    (∃ (x : EnqIn) (r : List EnqIn) (s : State), s.flt.safe = false ∧ s.fwd.enq = x :: r ∧ s.isProxy x.d = false ∧ x.yellow = none ∧ x.unref = none ∧
    16383 < x.d.length ∧ x.d.dir = false) ∧
    (∃ (x : EnqIn) (r : List EnqIn) (s : State), s.flt.safe = false ∧ s.fwd.enq = x :: r ∧ s.isProxy x.d = true ∧ x.unref = none) :=
  ⟨⟨0, (tPool.setBuf 0 ⟨true, 2, 0, []⟩), by decide⟩,
    ⟨0, (tPool.setBuf 0 ⟨true, 1, 0, []⟩), by decide⟩,
    ⟨0, State.reset, by decide⟩,
    ⟨16777215, State.reset, by decide⟩,
    ⟨.steward, 0#32, (tPool.setBuf 0 ⟨true, 1, 0, []⟩), by decide⟩,
    ⟨State.reset, by decide⟩,
    ⟨⟨Desc.zero, none, none⟩, [], ({ State.reset with fwd := { (State.reset).fwd with enq := [⟨Desc.zero, none, none⟩] } }), by decide⟩,
    ⟨⟨{ Desc.zero with length := 16384 }, none, none⟩, [], ({ State.reset with fwd := { (State.reset).fwd with enq := [⟨{ Desc.zero with length := 16384 }, none, none⟩] } }), by decide⟩,
    ⟨⟨{ Desc.zero with dir := true }, none, none⟩, [], ({ (State.reset.wr (Win.BIND_EN 0) 1) with fwd := { ((State.reset.wr (Win.BIND_EN 0) 1)).fwd with enq := [⟨{ Desc.zero with dir := true }, none, none⟩] } }), by decide⟩⟩

theorem witness_CellarAndScheduling :
    (∃ (q : Fin 73728) (s : State), (s.queue q.val).writes = []) ∧
    (∃ (q : Fin 73728) (k : QPkt) (r : List QPkt) (s : State), (s.queue q.val).writes = k :: r) ∧
    (∃ (q : Fin 73728) (s : State), s.refillDue q.val = false) ∧
    (∃ (q : Fin 73728) (s : State), s.refillDue q.val = true) ∧
    (∃ (ag : Agent) (v : Word) (s : State), s.reaches ag Reg.CPG_CTRL.addr = true ∧ s.flt.isolated .memory 0 = false ∧ v.getLsbD 30 = true ∧ s.bit
    Reg.CPG_CTRL.CELLAR_EN = false ∧ Config.memUnits < s.rd Reg.CPG_CELLAR_REGION.BASE + min 256 (s.rd Reg.CPG_CELLAR_REGION.SIZE)) ∧
    (∃ (ag : Agent) (s : State), s.reaches ag Reg.CPG_CTRL.addr = true ∧ s.flt.isolated .memory 0 = false ∧ s.rd Reg.CPG_CELLAR_REGION.BASE + min 256
    (s.rd Reg.CPG_CELLAR_REGION.SIZE) ≤ Config.memUnits) ∧
    (∃ (m : Fin 104) (s : State), (s.flt.safe = true ∨ (88 ≤ m.val ∧ s.laneUp (m.val - 88) = false))) ∧
    (∃ (m : Fin 104) (s : State), s.flt.safe = false ∧ m.val < 88 ∧ (s.accessAll m.val).topOpen m.val = false) ∧
    (∃ (m : Fin 104) (k : QPkt) (s : State), s.flt.safe = false ∧ m.val < 64 ∧ (s.select m.val).2 = some k) ∧
    (∃ (m : Fin 104) (k : QPkt) (s : State), s.flt.safe = false ∧ m.val < 88 ∧ (s.select m.val).2 = some k) :=
  ⟨⟨0, State.reset, by decide⟩,
    ⟨0, ⟨Desc.zero, 0, false⟩, [], (State.reset.setQueue 0 { Queue.empty with writes := [⟨Desc.zero, 0, false⟩] }), by decide⟩,
    ⟨0, State.reset, by decide⟩,
    ⟨0, (State.reset.setQueue 0 { Queue.empty with cellar := [(⟨Desc.zero, 0, false⟩, [])] }), by decide⟩,
    ⟨.steward, 0x40000000#32, ((State.reset.wr Reg.CPG_CELLAR_REGION.BASE 511).wr Reg.CPG_CELLAR_REGION.SIZE 1), by refine ⟨by decide, by decide, by decide, by decide, ?_⟩; cases h : Config.memAll <;> cases h2 : Config.mem16 <;> simp only [Config.memUnits, h, h2] <;> decide⟩,
    ⟨.steward, State.reset, by decide⟩,
    ⟨0, tSafe, by decide⟩,
    ⟨0, (State.reset.wr (Win.TOP_EN 0) 0), by decide⟩,
    ⟨0, ⟨Desc.zero, 0, false⟩, (((((tOn.setSlot 0 0 { Slot.free with state := .active }).setQueue 0 { Queue.empty with onchip := [⟨Desc.zero, 0, false⟩] }).wr (Win.TOP_EN 0) 1).wr (Win.Q_WEIGHT 0) 1)), by decide⟩,
    ⟨0, ⟨Desc.zero, 0, false⟩, (((((tOn.setSlot 0 0 { Slot.free with state := .active }).setQueue 0 { Queue.empty with onchip := [⟨Desc.zero, 0, false⟩] }).wr (Win.TOP_EN 0) 1).wr (Win.Q_WEIGHT 0) 1)), by decide⟩⟩

theorem witness_BucketsStatisticsPools :
    (∃ (ag : Agent) (s : State), s.reachesWin ag wSch = true) ∧
    (∃ (g : Fin 16) (s : State), s.bit (Reg.SCH_SGRP.EN g.val) = false) ∧
    (∃ (g : Fin 16) (s : State), s.bit (Reg.SCH_SGRP.EN g.val) = true) ∧
    (∃ (ag : Agent) (n : Fin 4) (s : State), s.reaches ag (Reg.CPG_POOL_CFG.addr n.val) = true) :=
  ⟨⟨.steward, State.reset, by decide⟩,
    ⟨0, State.reset, by decide⟩,
    ⟨0, (State.reset.wr (Reg.SCH_SGRP.EN 0) 1), by decide⟩,
    ⟨.steward, 0, State.reset, by decide⟩⟩

theorem witness_KeyCommands :
    (∃ (ag : Agent), ag ≠ .steward ∧ ag ≠ .image) ∧
    (∃ (k : BitVec 15) (s : State), k.toNat ≠ 16384 ∧ k.toNat < 16401 ∧ s.bit Reg.KEY_STATUS.ERASED = false ∧ (s.root k.toNat).state = .empty) ∧
    (∃ (k : BitVec 15) (s : State), k.toNat ≠ 16384 ∧ k.toNat < 16401 ∧ s.bit Reg.KEY_STATUS.ERASED = false ∧ (s.root k.toNat).state ≠ .empty) ∧
    (∃ (k : BitVec 15) (s : State), k.toNat < 16384 ∧ (s.root k.toNat).state = .loaded ∧ s.bit Reg.KEY_STATUS.ERASED = false ∧ (s.root (k.toNat / 2 *
    2 + (1 - k.toNat % 2))).pend = none) ∧
    (∃ (k : BitVec 15) (s : State), (s.root k.toNat).state ≠ .loaded ∧ s.bit Reg.KEY_STATUS.ERASED = false) ∧
    (∃ (k : BitVec 15), k.toNat ≠ 16384 ∧ k.toNat < 16401) ∧
    (∃ (s : State), (s.bit Reg.KEY_STATUS.TAMPER || s.bit Reg.KEY_STATUS.VGLITCH || s.bit Reg.KEY_STATUS.CGLITCH || s.bit Reg.KEY_STATUS.TEMP) =
    true) ∧
    (∃ (s : State), (s.bit Reg.KEY_STATUS.TAMPER || s.bit Reg.KEY_STATUS.VGLITCH || s.bit Reg.KEY_STATUS.CGLITCH || s.bit Reg.KEY_STATUS.TEMP) =
    false ∧ s.bit Reg.KEY_CTRL.REACTIVATE = false) :=
  ⟨⟨.pf, by decide⟩,
    ⟨0#15, State.reset, by decide⟩,
    ⟨0#15, ((State.reset.setRoot 0 { Root.empty with state := .loaded })), by decide⟩,
    ⟨0#15, ((State.reset.setRoot 0 { Root.empty with state := .loaded })), by decide⟩,
    ⟨0#15, State.reset, by decide⟩,
    ⟨0#15, by decide⟩,
    ⟨(State.reset.wr Reg.KEY_STATUS.TAMPER 1), by decide⟩,
    ⟨(State.reset.wr Reg.KEY_CTRL.REACTIVATE 0), by decide⟩⟩

theorem witness_PayloadCipher :
    (∃ (p : Fin 32) (sd : Side) (s : State), s.cipherOf (psd p sd) = []) ∧
    (∃ (p : Fin 32) (sd : Side) (d : Desc) (r : List Desc) (s : State), s.cipherOf (psd p sd) = d :: r ∧ (s.bit (Win.CTX_ENC d.xctx) = false ∨ s.bit
    (Win.ONU_KIND (s.rd (Win.CTX_NODE d.xctx))) = true) ∧ (s.buf d.handle).bytes.length ≤ 16383) ∧
    (∃ (p : Fin 32) (sd : Side) (d : Desc) (r : List Desc) (k : Nat) (s : State), s.cipherOf (psd p sd) = d :: r ∧ s.bit (Win.CTX_ENC d.xctx) = true
    ∧ s.bit (Win.ONU_KIND (s.rd (Win.CTX_NODE d.xctx))) = false ∧ (s.buf d.handle).bytes.length ≤ 16383 ∧ s.activeRoot (s.rd (Win.CTX_NODE d.xctx)) =
    some k ∧ (s.root k).held = false) ∧
    (∃ (p : Fin 32) (sd : Side) (d : Desc) (r : List Desc) (s : State), s.cipherOf (psd p sd) = d :: r ∧ s.bit (Win.CTX_ENC d.xctx) = true ∧ s.bit
    (Win.ONU_KIND (s.rd (Win.CTX_NODE d.xctx))) = false ∧ (s.buf d.handle).bytes.length ≤ 16383 ∧ s.activeRoot (s.rd (Win.CTX_NODE d.xctx)) = none) ∧
    (∃ (o : Out) (n : Nat) (k : Nat) (s : State), o.enc = true ∧ n ≤ o.bytes.length - o.sent ∧ s.activeRoot (s.rd (Win.CTX_NODE o.d.xctx)) = some k ∧
    (s.root k).held = false ∧ (s.root k).usage + blocks n + blocks (o.bytes.length - o.sent - n) < 2 ^ s.rd Reg.KEY_LIMIT.HARD_LOG2 ∧ (s.root
    k).usage + blocks n < 2 ^ 48) ∧
    (∃ (p : Fin 32) (sd : Side) (un : Bool) (s : State), (s.flt.safe = true ∨ un = true ∨ (s.side p sd.n).content = none)) ∧
    (∃ (p : Fin 32) (sd : Side) (e : Exp) (s : State), s.flt.safe = false ∧ (s.side p sd.n).content = some e) ∧
    (∃ (p : Fin 32) (sd : Side) (e : Exp) (k : Fin 4) (s : State), s.flt.safe = false ∧ (s.side p sd.n).content = some e ∧ (k.val = 1 ∨ k.val = 2) ∧
    ((s.root (rootOf (slotKey p e.burst.onu) (k.val - 1))).state = .empty ∨ (s.root (rootOf (slotKey p e.burst.onu) (k.val - 1))).held = true)) ∧
    (∃ (p : Fin 32) (sd : Side) (e : Exp) (k : Fin 4) (fr : List Byte) (s : State), s.flt.safe = false ∧ (s.side p sd.n).content = some e ∧ (k.val =
    1 ∨ k.val = 2) ∧ (s.root (rootOf (slotKey p e.burst.onu) (k.val - 1))).state ≠ .empty ∧ (s.root (rootOf (slotKey p e.burst.onu) (k.val -
    1))).held = false ∧ fr.length ≤ 16383) :=
  ⟨⟨0, .g50, State.reset, by decide⟩,
    ⟨0, .g50, Desc.zero, [], ({ (State.reset.wr (Win.CTX_ENC 0) 0) with cpg := { ((State.reset.wr (Win.CTX_ENC 0) 0)).cpg with cipher := [(0, [Desc.zero])] } }), by decide⟩,
    ⟨0, .g50, Desc.zero, [], 0, ({ ((((State.reset.wr (Win.CTX_ENC 0) 1)).wr Reg.KEY_LIMIT.HARD_LOG2 20).setRoot 0 { Root.empty with state := .active }) with cpg := { (((((State.reset.wr (Win.CTX_ENC 0) 1)).wr Reg.KEY_LIMIT.HARD_LOG2 20).setRoot 0 { Root.empty with state := .active })).cpg with cipher := [(0, [Desc.zero])] } }), by decide⟩,
    ⟨0, .g50, Desc.zero, [], ({ (State.reset.wr (Win.CTX_ENC 0) 1) with cpg := { ((State.reset.wr (Win.CTX_ENC 0) 1)).cpg with cipher := [(0, [Desc.zero])] } }), by decide⟩,
    ⟨⟨Desc.zero, [1#8, 2#8], 0, true⟩, 1, 0, (((State.reset.wr Reg.KEY_LIMIT.HARD_LOG2 20).setRoot 0 { Root.empty with state := .active })), by decide⟩,
    ⟨0, .g50, false, State.reset, by decide⟩,
    ⟨0, .g50, ⟨0, tBurst, 0, 0, false, false, [], 0, 9⟩, (State.reset.setSide 0 0 { PonSide.reset with content := some ⟨0, tBurst, 0, 0, false, false, [], 0, 9⟩ }), by decide⟩,
    ⟨0, .g50, ⟨0, tBurst, 0, 0, false, false, [], 0, 9⟩, 1, (State.reset.setSide 0 0 { PonSide.reset with content := some ⟨0, tBurst, 0, 0, false, false, [], 0, 9⟩ }), by decide⟩,
    ⟨0, .g50, ⟨0, tBurst, 0, 0, false, false, [], 0, 9⟩, 1, [], ((State.reset.setRoot 0 { Root.empty with state := .active }).setSide 0 0 { PonSide.reset with content := some ⟨0, tBurst, 0, 0, false, false, [], 0, 9⟩ }), by decide⟩⟩

theorem witness_LinkMessages :
    (∃ (n : Fin 16) (s : State), s.laneUp n.val = false ∧ s.laneState n.val ≠ lnExchange ∧ s.cutOf n.val = none) ∧
    (∃ (n : Fin 16) (r : LinkRx) (s : State), s.laneUp n.val = true ∧ s.cutOf n.val = none ∧ (r.crcOk = false ∨ r.errored = true)) ∧
    (∃ (n : Fin 16) (r : LinkRx) (s : State), s.laneUp n.val = true ∧ r.crcOk = true ∧ r.errored = false ∧ r.abort = false ∧ r.countOk = true ∧ r.cut
    = false ∧ r.chan = 0 ∧ r.sealed_ = false) ∧
    (∃ (n : Fin 16) (r : LinkRx) (s : State), s.laneUp n.val = true ∧ r.crcOk = true ∧ r.errored = false ∧ r.abort = false ∧ r.countOk = true ∧ r.cut
    = false ∧ 1 ≤ r.chan.toNat ∧ r.chan.toNat ≤ 3 ∧ r.sealed_ = true ∧ r.phase = false ∧ (s.lane n.val).rx.isSome = true ∧ s.bit
    (Reg.SHL_LANE_STATUS.RX_PHASE n.val) = false) ∧
    (∃ (n : Fin 16) (r : LinkRx) (s : State) (x : Nat × List Byte), s.cutOf n.val = some x ∧ s.laneUp n.val = true ∧ (r.crcOk = false ∨ r.errored =
    true)) ∧
    (∃ (n : Fin 16) (s : State), (s.lane n.val).hold = []) ∧
    (∃ (n : Fin 16) (x : Nat × Bool) (r : List (Nat × Bool)) (s : State), (s.lane n.val).hold = x :: r ∧ s.cutOf n.val = none) ∧
    (∃ (n : Fin 16) (c : Nat) (r : List (Nat × Bool)) (s : State), (s.lane n.val).hold = (c, false) :: r ∧ s.cutOf n.val = none) ∧
    (∃ (n : Fin 16) (x : Nat × Bool) (c : Nat × List Byte) (r : List (Nat × Bool)) (s : State), (s.lane n.val).hold = x :: r ∧ s.cutOf n.val = some
    c) ∧
    (∃ (n : Fin 16) (s : State), s.laneUp n.val = false ∧ s.laneState n.val ≠ lnExchange) ∧
    (∃ (n : Fin 16) (c : Fin 4) (s : State), s.bit (Reg.SHL_LANE_STATUS.SEALED n.val) = true ∧ c.val ≠ 0 ∧ 2 ^ 48 ≤ (s.lane n.val).txCtr) ∧
    (∃ (n : Fin 16) (m : LinkCtl) (r : List LinkCtl) (s : State), s.laneUp n.val = true ∧ (s.lane n.val).ctl = m :: r) :=
  ⟨⟨0, State.reset, by decide⟩,
    ⟨0, ⟨msgBlocks (linkHead 0 false false 1 255 255) [5#8] [], true⟩, ((tLane lnActive)), by decide +kernel⟩,
    ⟨0, ⟨msgBlocks (linkHead 0 false false 1 255 255) [5#8] [], false⟩, ((tLane lnActive)), by decide +kernel⟩,
    ⟨0, ⟨msgBlocks (linkHead 1 true false 1 255 255) [5#8] (List.replicate 16 0#8), false⟩, ((tLane lnActive).setLane 0 { Lane.reset with rx := some ⟨0, 0, 0, 0⟩ }), by decide +kernel⟩,
    ⟨0, ⟨msgBlocks (linkHead 0 false false 1 255 255) [5#8] [], true⟩, (((tLane lnActive)).setCut 0 (some (3, [7#8]))), (3, [7#8]), ⟨rfl, by decide, by decide +kernel⟩⟩,
    ⟨0, State.reset, by decide⟩,
    ⟨0, (1, true), [], ((tLane lnActive).setLane 0 { Lane.reset with hold := [(1, true)] }), by decide⟩,
    ⟨0, 1, [], ((tLane lnActive).setLane 0 { Lane.reset with hold := [(1, false)] }), by decide⟩,
    ⟨0, (1, false), (3, [7#8]), [], (((tLane lnActive).setLane 0 { Lane.reset with hold := [(1, false)] }).setCut 0 (some (3, [7#8]))), by decide⟩,
    ⟨0, State.reset, by decide⟩,
    ⟨0, 1, ((State.reset.wr (Reg.SHL_LANE_STATUS.SEALED 0) 1).setLane 0 { Lane.reset with txCtr := 2 ^ 48 }), by decide⟩,
    ⟨0, (.cap false 0), [], ((tLane lnActive).setLane 0 { Lane.reset with ctl := [.cap false 0] }), by decide⟩⟩

theorem witness_TwinMirrorAndHeartbeats :
    (∃ (p : Fin 32) (s : State), s.owned p.val = true) ∧
    (∃ (p : Fin 32) (s : State), s.owned p.val = false) ∧
    (∃ (p : Fin 32) (q : BitVec 32) (n : Nat) (s : State), Tab.get (fun _ => 0) s.twn.rxSeq (2 * 256 + p.val) = n ∧ n ≠ 0 ∧ q.toNat ≠ n % 2 ^ 32 ∧
    s.owned p.val = true) ∧
    (∃ (p : Fin 32) (i : Fin 256) (x : Slot) (s : State), s.owned p.val = false ∧ (x.state = .active ↔ (s.slot p i.val).state = .active)) ∧
    (∃ (p : Fin 32) (s : State), s.owned p.val = false ∧ s.bit Reg.TWN_STATUS.SEALED = true) ∧
    (∃ (s : State), s.bit Reg.TWN_STATUS.SEALED = false) ∧
    (∃ (s : State), s.twn.alive = false) ∧
    (∃ (s : State), s.twn.alive = true) ∧
    (∃ (s : State), (s.darkIn ≠ 2 ∨ s.twn.trigs = [] ∨ s.twn.stuck20 = true)) ∧
    (∃ (s : State), s.darkIn = 2 ∧ s.twn.trigs ≠ [] ∧ s.twn.stuck20 = false) :=
  ⟨⟨0, State.reset, by decide⟩,
    ⟨0, tShadow, by decide⟩,
    ⟨0, 0#32, 5, ({ (tShadow.wr Reg.TWN_OWN.OWN 1) with twn := { tShadow.twn with rxSeq := [(512, 5)] } }), by decide⟩,
    ⟨0, 0, Slot.free, (tShadow), by decide⟩,
    ⟨0, (tShadow.wr Reg.TWN_STATUS.SEALED 1), by decide⟩,
    ⟨State.reset, by decide⟩,
    ⟨State.reset, by decide⟩,
    ⟨({ tShadow with twn := { tShadow.twn with alive := true } }), by decide⟩,
    ⟨State.reset, by decide⟩,
    ⟨({ (State.reset.wr Reg.TWN_STATUS.DARK_IN 2) with twn := { Twn.reset with trigs := [⟨1, [0]⟩] } }), by decide⟩⟩

theorem witness_TakeoverAndRelease :
    (∃ (s : State), (s.interlock = false ∨ s.mayTakeOver = false)) ∧
    (∃ (n : Nat) (p : Fin 32) (s : State), s.interlock = true ∧ s.mayTakeOver = true ∧ s.darkIn = 0 ∧ s.twn.trigs = [⟨n, [p]⟩] ∧ s.owned p.val =
    false ∧ s.ready p = true) ∧
    (∃ (ag : Agent) (s : State), s.reaches ag Reg.TWN_CMD.addr = true ∧ s.bit Reg.TWN_CMD_STATUS.BUSY = true) ∧
    (∃ (ag : Agent) (s : State), s.reaches ag Reg.TWN_CMD.addr = true ∧ s.bit Reg.TWN_CMD_STATUS.BUSY = false ∧ s.bit Reg.TWN_CFG.EN = true ∧ s.bit
    Reg.TWN_CFG.HOLD = true) ∧
    (∃ (ag : Agent) (p : Fin 32) (s : State), s.reaches ag Reg.TWN_CMD.addr = true ∧ s.bit Reg.TWN_CMD_STATUS.BUSY = false ∧ s.bit Reg.TWN_CFG.EN =
    true ∧ s.bit Reg.TWN_CFG.HOLD = false ∧ s.twinLanes ≠ 0 ∧ s.twn.alive = true ∧ s.owned p.val = false ∧ s.ready p = true ∧ treesOf (s.rd
    Reg.TWN_CMD_TREES.TREES) = [p] ∧ s.partnerOwns = [p]) ∧
    (∃ (ag : Agent) (p : Fin 32) (s : State), s.reaches ag Reg.TWN_CMD.addr = true ∧ s.bit Reg.TWN_CMD_STATUS.BUSY = false ∧ s.bit Reg.TWN_CFG.EN =
    true ∧ s.bit Reg.TWN_CFG.HOLD = false ∧ s.twinLanes ≠ 0 ∧ s.twn.alive = true ∧ s.owned p.val = true ∧ s.hbBit Hb.ready p = true ∧ treesOf (s.rd
    Reg.TWN_CMD_TREES.TREES) = [p] ∧ s.twn.rels = []) ∧
    (∃ (r : Rel) (s : State), s.twn.rels = [r] ∧ r.sent = false) ∧
    (∃ (q : BitVec 32) (s : State), (s.bit Reg.TWN_CFG.EN = false ∨ s.twn.answered = some q.toNat ∨ s.mayTakeOver = false)) ∧
    (∃ (q : BitVec 32) (s : State), s.bit Reg.TWN_CFG.EN = true ∧ s.twn.answered ≠ some q.toNat ∧ s.mayTakeOver = true) ∧
    (∃ (ts : BitVec 32) (r : Rel) (s : State), s.twn.rels = [r] ∧ r.sent = true ∧ ((∀ p ∈ r.trees, p ∈ treesOf ts.toNat))) ∧
    (∃ (r : Rel) (s : State), s.twn.rels = [r] ∧ r.sent = true) :=
  ⟨⟨tSafe, by decide⟩,
    ⟨3, 0, ({ (((tShadow.wr Reg.TWN_STATUS.LANES_UP 3).wr Reg.TWN_STATUS.DARK_IN 0).setTwinTree 0 { TwinTree.reset with samples := List.replicate 1024 (0, 0) }) with twn := { ((((tShadow.wr Reg.TWN_STATUS.LANES_UP 3).wr Reg.TWN_STATUS.DARK_IN 0).setTwinTree 0 { TwinTree.reset with samples := List.replicate 1024 (0, 0) })).twn with alive := true, trigs := [⟨3, [0]⟩] } }), by decide +kernel⟩,
    ⟨.steward, (State.reset.wr Reg.TWN_CMD_STATUS.BUSY 1), by decide⟩,
    ⟨.steward, (tShadow.wr Reg.TWN_CFG.HOLD 1), by decide⟩,
    ⟨.steward, 0, ({ ((((tShadow.wr Reg.TWN_STATUS.LANES_UP 3).wr Reg.TWN_STATUS.DARK_IN 0).setTwinTree 0 { TwinTree.reset with samples := List.replicate 1024 (0, 0) }).wr Reg.TWN_CMD_TREES.TREES 1) with twn := { (((((tShadow.wr Reg.TWN_STATUS.LANES_UP 3).wr Reg.TWN_STATUS.DARK_IN 0).setTwinTree 0 { TwinTree.reset with samples := List.replicate 1024 (0, 0) }).wr Reg.TWN_CMD_TREES.TREES 1)).twn with alive := true, hb := some ⟨0, 0, 0, 1, 0, 0, 0, 0, 0, 0⟩ } }), by decide +kernel⟩,
    ⟨.steward, 0, ({ (((((tShadow.wr Reg.TWN_STATUS.LANES_UP 3).wr Reg.TWN_STATUS.DARK_IN 0).setTwinTree 0 { TwinTree.reset with samples := List.replicate 1024 (0, 0) }).wr Reg.TWN_CMD_TREES.TREES 1).wr Reg.TWN_OWN.OWN 1) with twn := { ((((((tShadow.wr Reg.TWN_STATUS.LANES_UP 3).wr Reg.TWN_STATUS.DARK_IN 0).setTwinTree 0 { TwinTree.reset with samples := List.replicate 1024 (0, 0) }).wr Reg.TWN_CMD_TREES.TREES 1).wr Reg.TWN_OWN.OWN 1)).twn with alive := true, hb := some ⟨0, 0, 0, 0, 1, 0, 0, 0, 0, 0⟩ } }), by decide⟩,
    ⟨⟨3, [0], false, false⟩, ({ tShadow with twn := { (tShadow).twn with rels := [⟨3, [0], false, false⟩] } }), by decide⟩,
    ⟨0#32, State.reset, by decide⟩,
    ⟨0#32, tShadow, by decide⟩,
    ⟨1#32, ⟨3, [0], true, false⟩, ({ tShadow with twn := { (tShadow).twn with rels := [⟨3, [0], true, false⟩] } }), by decide⟩,
    ⟨⟨3, [0], true, false⟩, ({ tShadow with twn := { (tShadow).twn with rels := [⟨3, [0], true, false⟩] } }), by decide⟩⟩

theorem witness_TimeDomains :
    (∃ (ag : Agent) (d : Fin 2) (s : State), s.reaches ag (Reg.HRL_DOM_CFG.addr d.val) = true) ∧
    (∃ (ag : Agent) (d : Fin 2) (a : Nat) (s : State), s.reaches ag (Reg.HRL_DOM_S_SEC.addr d.val) = true ∧ (s.dom d.val).sampled = some a ∧ s.now <
    a + 10000000 ∧ (s.dom d.val).state = .locked) ∧
    (∃ (ag : Agent) (d : Fin 2) (s : State), s.reaches ag (Reg.HRL_DOM_S_SEC.addr d.val) = true ∧ (s.dom d.val).sampled = none ∧ (s.dom d.val).state
    = .acquiring) ∧
    (∃ (d : Fin 2) (s : State), ((s.dom d.val).state = .tracking ∨ (s.dom d.val).state = .locked)) ∧
    (∃ (d : Fin 2) (s : State), (s.dom d.val).state = .acquiring) ∧
    (∃ (d : Fin 2) (s : State), ((s.dom d.val).state = .holdover ∨ (s.dom d.val).state = .freerun)) ∧
    (∃ (ag : Agent) (d : Fin 2) (s : State), s.reaches ag (Reg.HRL_DOM_CMD.addr d.val) = true) ∧
    (∃ (ag : Agent) (s : State), s.reaches ag Reg.HRL_CTRL.addr = true) ∧
    (∃ (s : State), s.bit Reg.HRL_CTRL.REVERT = true ∧ s.outSel ≠ s.rd Reg.HRL_CTRL.PREF ∧ (s.dom (s.rd Reg.HRL_CTRL.PREF)).state = .locked) ∧
    (∃ (s : State), (s.bit Reg.HRL_CTRL.REVERT = false ∨ s.outSel = s.rd Reg.HRL_CTRL.PREF)) :=
  ⟨⟨.steward, 0, State.reset, by decide⟩,
    ⟨.steward, 0, 0, ({ State.reset with hrl := { (State.reset).hrl with domA := { Dom.reset with state := .locked, sampled := some 0 } } }), by decide⟩,
    ⟨.steward, 0, ({ State.reset with hrl := { (State.reset).hrl with domA := { Dom.reset with state := .acquiring } } }), by decide⟩,
    ⟨0, ({ State.reset with hrl := { (State.reset).hrl with domA := { Dom.reset with state := .locked } } }), by decide⟩,
    ⟨0, ({ State.reset with hrl := { (State.reset).hrl with domA := { Dom.reset with state := .acquiring } } }), by decide⟩,
    ⟨0, State.reset, by decide⟩,
    ⟨.steward, 0, State.reset, by decide⟩,
    ⟨.steward, State.reset, by decide⟩,
    ⟨({ (((State.reset.wr Reg.HRL_CTRL.REVERT 1).wr Reg.HRL_CTRL.OUT_SEL 1).wr Reg.HRL_CTRL.PREF 0) with hrl := { ((((State.reset.wr Reg.HRL_CTRL.REVERT 1).wr Reg.HRL_CTRL.OUT_SEL 1).wr Reg.HRL_CTRL.PREF 0)).hrl with domA := { Dom.reset with state := .locked } } }), by decide⟩,
    ⟨State.reset, by decide⟩⟩

theorem witness_TimePinsAndRecords :
    (∃ (i : Fin 2) (s : State), (s.ppsIn i.val).tod = none) ∧
    (∃ (i : Fin 2) (n : Nat) (s : State), (s.ppsIn i.val).tod = some n) ∧
    (∃ (b : List Byte), (beNat (sliceZ b 0 2) ≠ 0x4E57 ∨ crc16 (sliceZ b 0 14) ≠ beNat (sliceZ b 14 2))) ∧
    (∃ (i : Fin 2) (b : List Byte) (e : Nat) (s : State), beNat (sliceZ b 0 2) = 0x4E57 ∧ crc16 (sliceZ b 0 14) = beNat (sliceZ b 14 2) ∧ (b.getD 3
    0).getLsbD 0 = true ∧ (s.ppsIn i.val).edge = some e ∧ e + 10000000 ≤ s.now ∧ s.now ≤ e + 900000000) ∧
    (∃ (s : State), s.bit Reg.HRL_PPS_CFG.OUT_EN = true) ∧
    (∃ (s : State), s.bit Reg.HRL_PPS_CFG.OUT_EN = false) ∧
    (∃ (r : TsRec) (l : List TsRec) (s : State), s.hrl.tsRx = r :: l) ∧
    (∃ (s : State), s.hrl.tsTx = []) ∧
    (∃ (p : Fin 32) (i : Fin 256) (s : State), s.bit Reg.HRL_TOD_CFG.EN = true ∧ s.todEn (slotKey p i.val) = true ∧ (s.slot p i.val).state = .active
    ∧ s.stewards p = true ∧ s.annDue p (slotKey p i.val) = true) ∧
    (∃ (p : Fin 32) (i : Fin 256) (s : State), (s.bit Reg.HRL_TOD_CFG.EN = false ∨ (s.slot p i.val).state ≠ .active ∨ s.annDue p (slotKey p i.val) =
    false)) ∧
    (∃ (s : State), s.bit Reg.HRL_SYNCE_CFG.EN0 = true ∧ s.hrl.squelch0 = false) ∧
    (∃ (s : State), (s.bit Reg.HRL_SYNCE_CFG.EN1 = false ∨ s.hrl.squelch1 = true)) :=
  ⟨⟨0, State.reset, by decide⟩,
    ⟨0, 5, ({ State.reset with hrl := { (State.reset).hrl with in0 := { PpsIn.reset with tod := some 5 } } }), by decide⟩,
    ⟨[], by decide⟩,
    ⟨0, tTod, 0, ({ { State.reset with now := 10000000 } with hrl := { ({ State.reset with now := 10000000 }).hrl with in0 := { PpsIn.reset with edge := some 0 } } }), ⟨by decide, by decide +kernel, by decide, by decide, by decide, by decide⟩⟩,
    ⟨(State.reset.wr Reg.HRL_PPS_CFG.OUT_EN 1), by decide⟩,
    ⟨State.reset, by decide⟩,
    ⟨⟨0, 0, 0, 0, 0⟩, [], ({ State.reset with hrl := { (State.reset).hrl with tsRx := [⟨0, 0, 0, 0, 0⟩] } }), by decide⟩,
    ⟨State.reset, by decide⟩,
    ⟨0, 0, ((((State.reset.wr Reg.HRL_TOD_CFG.EN 1).wr (winFld wHrl 0 0 0 1) 1).setSlot 0 0 { Slot.free with state := .active })), by decide⟩,
    ⟨0, 0, State.reset, by decide⟩,
    ⟨(State.reset.wr Reg.HRL_SYNCE_CFG.EN0 1), by decide⟩,
    ⟨State.reset, by decide⟩⟩

theorem witness_LaneBringUp :
    (∃ (s : State), (s.boot.released = false ∨ s.shl.latched = true)) ∧
    (∃ (s : State), s.boot.released = true ∧ s.shl.latched = false) ∧
    (∃ (ag : Agent) (s : State), s.reaches ag Reg.SHL_FAB_CFG.addr = true) ∧
    (∃ (ag : Agent) (n : Fin 16) (s : State), s.reaches ag (Reg.SHL_LANE_CFG.addr n.val) = true ∧ s.flt.isolated .lane n.val = false) ∧
    (∃ (ag : Agent) (n : Fin 16) (v : Word) (s : State), s.reaches ag (Reg.SHL_LANE_CFG.addr n.val) = true ∧ s.flt.isolated .lane n.val = false ∧
    ((s.hostTlp false ag (Reg.SHL_LANE_CFG.addr n.val)).storeWord ag (Reg.SHL_LANE_CFG.addr n.val) (v ||| 0x10000000#32)).bit (Reg.SHL_LANE_CFG.EN
    n.val) = true ∧ s.laneUp n.val = true ∧ (s.lane n.val).marks = 0) ∧
    (∃ (n : Fin 16) (s : State), s.laneState n.val ≠ lnTrain) ∧
    (∃ (n : Fin 16) (w : BitVec 32) (s : State), s.laneState n.val = lnTrain ∧ (s.lane n.val).word ≠ some w ∧ w.getLsbD 15 = false) ∧
    (∃ (n : Fin 16) (w : BitVec 32) (s : State), s.laneState n.val = lnTrain ∧ (s.lane n.val).word = some w ∧ w.getLsbD 31 = true ∧ w.getLsbD 15 =
    false) ∧
    (∃ (n : Fin 16) (w : BitVec 32) (r : BitVec 5) (g : Nat) (s : State), s.laneState n.val = lnTrain ∧ asksTaps r = false ∧ (s.lane n.val).good =
    some g ∧ g + 100000 ≤ s.now ∧ w.getLsbD 15 = false) ∧
    (∃ (n : Fin 16) (w : BitVec 32) (s : State), s.laneState n.val = lnTrain ∧ (s.lane n.val).reply.getLsbD 15 = true ∧ (s.lane n.val).ready = 2 ∧
    w.getLsbD 15 = true) ∧
    (∃ (n : Fin 16) (s : State), s.laneUp n.val = true) ∧
    (∃ (n : Fin 16) (s : State), s.laneState n.val = lnLock ∧ (s.lane n.val).bitLock = true ∧ (s.lane n.val).commas = 2 ∧ s.shl.latched = true) :=
  ⟨⟨State.reset, by decide⟩,
    ⟨({ State.reset with boot := { Boot.reset with released := true } }), by decide⟩,
    ⟨.steward, State.reset, by decide⟩,
    ⟨.steward, 0, State.reset, by decide⟩,
    ⟨.steward, 0, 0xC0000000#32, ((tLane lnActive)), by decide⟩,
    ⟨0, State.reset, by decide⟩,
    ⟨0, 0#32, (tLane lnTrain), by decide⟩,
    ⟨0, 0x80000000#32, ((tLane lnTrain).setLane 0 { Lane.reset with word := some 0x80000000#32 }), by decide⟩,
    ⟨0, 0#32, 0#5, 0, ({ (tLane lnTrain).setLane 0 { Lane.reset with good := some 0 } with now := 100000 }), by decide⟩,
    ⟨0, 0x8000#32, ((tLane lnTrain).setLane 0 { Lane.reset with ready := 2, reply := 0x8000#32 }), by decide⟩,
    ⟨0, ((tLane lnActive)), by decide⟩,
    ⟨0, ((tLane lnLock).setLane 0 { Lane.reset with bitLock := true, commas := 2 }), by decide⟩⟩

theorem witness_LaneSessions :
    (∃ (n : Fin 16) (c : Cap) (s : State), s.laneState n.val = lnExchange ∧ (s.lane n.val).mismatch = false ∧ s.compatible n.val c = true) ∧
    (∃ (n : Fin 16) (c : Cap) (s : State), s.laneState n.val = lnExchange ∧ (s.lane n.val).mismatch = false ∧ s.compatible n.val c = false) ∧
    (∃ (n : Fin 16) (s : State), s.laneState n.val ≠ lnExchange ∧ s.laneUp n.val = false) ∧
    (∃ (n : Fin 16) (s : State), s.laneState n.val = lnExchange ∧ (s.lane n.val).mismatch = false ∧ (s.lane n.val).ctl = []) ∧
    (∃ (n : Fin 16) (s : State), s.laneState n.val = lnLock) ∧
    (∃ (n : Fin 16) (s : State), s.laneUp n.val = true ∧ 2 ≤ (s.lane n.val).marks) ∧
    (∃ (n : Fin 16) (s : State), s.laneUp n.val = true ∧ (s.lane n.val).marks = 1) ∧
    (∃ (n : Fin 16) (c : Cap) (s : State), s.laneUp n.val = true ∧ (s.lane n.val).peer = some c ∧ (s.sealBits n.val).1 = true ∧ (s.lane n.val).offer
    = none) ∧
    (∃ (n : Fin 16) (y : Nat) (x : Nat) (l : List LinkCtl) (c : Cap) (s : State), s.laneUp n.val = true ∧ (s.lane n.val).peer = some c ∧ (s.lane
    n.val).ctl = .answer y x :: l) ∧
    (∃ (n : Fin 16) (s : State), s.laneUp n.val = false) ∧
    (∃ (n : Fin 16) (c : Cap) (o : Nat × Nat) (s : State), s.laneUp n.val = true ∧ (s.lane n.val).peer = some c ∧ (s.lane n.val).offer = some o) ∧
    (∃ (n : Fin 16) (o : Nat × Nat) (s : State), s.laneUp n.val = true ∧ (s.lane n.val).offer = some o) ∧
    (∃ (n : Fin 16) (m : BitVec 8) (s : State), s.laneUp n.val = true ∧ s.rd (Reg.SHL_LANE_CFG.REVERT_MARGIN n.val) ≤ m.toNat) :=
  ⟨⟨4, ⟨false, false, false, (tLane lnExchange).laneRole 4, 0, 4, 5, 6⟩, (tLane lnExchange), by decide⟩,
    ⟨4, ⟨false, false, false, ((tLane lnExchange).laneRole 4 + 1), 0, 0, 5, 6⟩, (tLane lnExchange), by decide⟩,
    ⟨0, State.reset, by decide⟩,
    ⟨4, (tLane lnExchange), by decide⟩,
    ⟨0, (tLane lnLock), by decide⟩,
    ⟨0, ((tLane lnActive).setLane 0 { Lane.reset with marks := 2 }), by decide⟩,
    ⟨0, ((tLane lnActive).setLane 0 { Lane.reset with marks := 1 }), by decide⟩,
    ⟨0, ⟨false, false, false, 0, 0, 0, 5, 6⟩, ((((tLane lnActive).wr (Reg.SHL_LANE_CFG.SEAL 0) 1).setRoot (linkRoot 0) { Root.empty with state := .active }).setLane 0 { Lane.reset with peer := some ⟨false, false, false, 0, 0, 0, 5, 6⟩ }), by decide⟩,
    ⟨0, 1, 2, [], ⟨false, false, false, 0, 0, 0, 5, 6⟩, ((tLane lnActive).setLane 0 { Lane.reset with peer := some ⟨false, false, false, 0, 0, 0, 5, 6⟩, ctl := [.answer 1 2] }), by decide⟩,
    ⟨0, State.reset, by decide⟩,
    ⟨0, ⟨false, false, false, 0, 0, 0, 5, 6⟩, (1, 2), ((tLane lnActive).setLane 0 { Lane.reset with peer := some ⟨false, false, false, 0, 0, 0, 5, 6⟩, offer := some (1, 2) }), by decide⟩,
    ⟨0, (1, 2), ((tLane lnActive).setLane 0 { Lane.reset with offer := some (1, 2) }), by decide⟩,
    ⟨0, 255#8, ((tLane lnActive)), by decide⟩⟩

theorem witness_UplinkPortsAndLaneTest :
    (∃ (ag : Agent) (n : Fin 24) (s : State), s.reaches ag (Reg.ULK_CFG.addr n.val) = true ∧ s.flt.isolated .uplink n.val = false) ∧
    (∃ (ag : Agent) (n : Fin 24) (v : Word) (s : State), s.reaches ag (Reg.ULK_CFG.addr n.val) = true ∧ s.flt.isolated .uplink n.val = false ∧
    ((s.hostTlp false ag (Reg.ULK_CFG.addr n.val)).storeWord ag (Reg.ULK_CFG.addr n.val) (v ||| 0x00800000#32)).ulkOverlap n.val = false ∧
    (((s.hostTlp false ag (Reg.ULK_CFG.addr n.val)).storeWord ag (Reg.ULK_CFG.addr n.val) (v ||| 0x00800000#32)).ulkPort n.val).isSome = true) ∧
    (∃ (n : Fin 24) (s : State), (s.ulkPort n.val).isSome = true ∧ s.ulkTesting n.val = false ∧ s.flt.isolated .uplink n.val = false) ∧
    (∃ (n : Fin 24) (s : State), s.bit (Reg.ULK_STATUS.LINK_UP n.val) = true) ∧
    (∃ (ag : Agent) (n : Fin 16) (v : Word) (s : State), s.reaches ag (laneBase (.shl n)) = true ∧ s.bit (laneFld (.shl n) 0 31 1) = false ∧
    ((s.hostTlp false ag (laneBase (.shl n))).storeWord ag (laneBase (.shl n)) (putField v 16 6 (max 4 (min 40 ((v.extractLsb' 16 6).toNat))))).bit
    (laneFld (.shl n) 0 31 1) = true ∧ s.laneState n.val ≠ lnOff) ∧
    (∃ (ag : Agent) (b : LaneBlock) (v : Word) (s : State), s.reaches ag (laneBase b) = true ∧ s.bit (laneFld b 0 31 1) = (((s.hostTlp false ag
    (laneBase b)).settleInj (laneBase b)).storeWord ag (laneBase b) (putField (v ||| 0x00800000#32) 16 6 (max 4 (min 40 (((v |||
    0x00800000#32).extractLsb' 16 6).toNat))))).bit (laneFld b 0 31 1) ∧ (((s.hostTlp false ag (laneBase b)).settleInj (laneBase b)).storeWord ag
    (laneBase b) (putField (v ||| 0x00800000#32) 16 6 (max 4 (min 40 (((v ||| 0x00800000#32).extractLsb' 16 6).toNat))))).bit (laneFld b 4 29 1) =
    false ∧ (((s.hostTlp false ag (laneBase b)).settleInj (laneBase b)).storeWord ag (laneBase b) (putField (v ||| 0x00800000#32) 16 6 (max 4 (min 40
    (((v ||| 0x00800000#32).extractLsb' 16 6).toNat))))).rd (laneFld b 0 24 2) = 1) ∧
    (∃ (b : LaneBlock) (s : State), s.chkOn b = false) ∧
    (∃ (b : LaneBlock) (s : State), s.chkOn b = true ∧ s.chk b = Chk.zero ∧ s.bit (laneFld b 4 31 1) = false) ∧
    (∃ (b : LaneBlock) (s : State), s.chkOn b = true ∧ s.bit (laneFld b 4 31 1) = true ∧ ((s.chk b).win.take 127).count true = 32) :=
  ⟨⟨.steward, 0, State.reset, by decide⟩,
    ⟨.steward, 0, 0x80000000#32, State.reset, by decide⟩,
    ⟨0, (State.reset.wr (Reg.ULK_CFG.EN 0) 1), by decide⟩,
    ⟨0, (State.reset.wr (Reg.ULK_STATUS.LINK_UP 0) 1), by decide⟩,
    ⟨.steward, 0, 0x80000000#32, (tLane lnTrain), by decide⟩,
    ⟨.steward, .shl 0, 0x01000000#32, State.reset, by decide⟩,
    ⟨.shl 0, State.reset, by decide⟩,
    ⟨.shl 0, (State.reset.wr (laneFld (.shl 0) 0 30 1) 1), by decide⟩,
    ⟨.shl 0, ((((State.reset.wr (laneFld (.shl 0) 0 30 1) 1).wr (laneFld (.shl 0) 4 31 1) 1).setChk (.shl 0) { Chk.zero with win := List.replicate 32 true })), by decide⟩⟩

theorem witness_LineCoding :
    (∃ (n : Nat), n ≤ 8) ∧
    (∃ (l : List Block), fillBlk ∉ l) ∧
    (∃ (e : Bool) (pay : List Byte) (tag : List Byte), 1 ≤ pay.length ∧ pay.length ≤ 65536 ∧ tag.length = (if e = true then 16 else 0)) :=
  ⟨⟨0, by decide⟩,
    ⟨[], by decide⟩,
    ⟨false, [5#8], [], ⟨by decide, by decide, rfl⟩⟩⟩

theorem witness_FabricControlAndPackets :
    (∃ (n : Fin 16) (s : State), s.fabLane n.val = false) ∧
    (∃ (n : Fin 16) (s : State), s.fabLane n.val = true) ∧
    (∃ (n : Fin 16) (s : State), s.nbr n.val = none) ∧
    (∃ (n : Fin 16) (b : Nbr) (s : State), s.nbr n.val = some b) ∧
    (∃ (n : Fin 16) (l : Lsa) (s : State), s.fabLane n.val = true ∧ s.lsaOf l.serial = none ∧ l.serial ≠ Config.serial ∧ s.ownAddr ≠ some l.addr) ∧
    (∃ (l : Lsa) (o : Lsa) (s : State), s.lsaOf l.serial = some o ∧ l.seq ≤ o.seq) ∧
    (∃ (s : State), s.fabMode = 0) ∧
    (∃ (o : Lsa) (s : State), s.fabMode ≠ 0 ∧ s.lsaOf Config.serial = some o) ∧
    (∃ (s : State), (s.fabMode = 0 ∨ s.ownAddr.isSome = true ∨ s.bit Reg.SHL_FAB_CFG.ADDR_FIXED = true)) ∧
    (∃ (s : State), s.fabMode = 2 ∧ s.ownAddr = none ∧ s.bit Reg.SHL_FAB_CFG.ADDR_FIXED = false ∧ s.held = []) ∧
    (∃ (s : State), s.fabMode = 1 ∧ s.bit Reg.SHL_FAB_CFG.MASTER = false ∧ s.masterRoute = false) ∧
    (∃ (s : State), (s.fabMode ≠ 1 ∨ s.masterRoute = true)) ∧
    (∃ (n : Fin 16) (s : State), (s.fabLane n.val = false ∨ s.flt.safe = true)) ∧
    (∃ (n : Fin 16) (s : State), s.fabLane n.val = true ∧ s.flt.safe = false ∧ s.stage < 3) ∧
    (∃ (n : Fin 16) (b : List Byte) (s : State), s.fabLane n.val = true ∧ s.flt.safe = false ∧ 3 ≤ s.stage ∧ ((b.getD 0 0#8).toNat / 64 ≠ 1 ∨
    b.length < 72 ∨ 16395 < b.length)) ∧
    (∃ (n : Fin 16) (b : List Byte) (s : State), s.fabLane n.val = true ∧ s.flt.safe = false ∧ 3 ≤ s.stage ∧ (b.getD 0 0#8).toNat / 64 = 1 ∧ 72 ≤
    b.length ∧ b.length ≤ 16395) ∧
    (∃ (n : Fin 16) (b : List Byte) (s : State), s.fabLane n.val = true ∧ s.flt.safe = false ∧ 3 ≤ s.stage ∧ (b.getD 0 0#8).toNat / 64 = 1 ∧ 72 ≤
    b.length ∧ b.length ≤ 16395 ∧ s.ownAddr ≠ some ((b.getD 1 0#8).toNat % 64) ∧ (b.getD 0 0#8).toNat % 64 ≤ 1 ∧ (s.newBuf ((b.getD 3 0#8).toNat /
    32) (b.length - 12) (b.drop 12)).2.isSome = true) ∧
    (∃ (ag : Agent) (s : State), s.reachesWin ag wShl = true) :=
  ⟨⟨0, State.reset, by decide⟩,
    ⟨0, ((((tLane lnActive).wr (Reg.SHL_LANE_STATUS.ROLE 0) 1).wr (Reg.SHL_LANE_STATUS.ROLE 4) 1)), by decide⟩,
    ⟨0, State.reset, by decide⟩,
    ⟨0, ⟨1, 2, 3⟩, ({ State.reset with shl := { (State.reset).shl with nbrs := [(0, some ⟨1, 2, 3⟩)] } }), by decide⟩,
    ⟨0, ⟨Config.serial + 1, 0, false, false, 0, []⟩, (((tLane lnActive).wr (Reg.SHL_LANE_STATUS.ROLE 0) 1).wr (Reg.SHL_LANE_STATUS.ROLE 4) 1), ⟨by decide, rfl, by show Config.serial + 1 ≠ Config.serial; omega, by decide⟩⟩,
    ⟨⟨7, 0, false, false, 2, []⟩, ⟨7, 0, false, false, 3, []⟩, ({ State.reset with shl := { (State.reset).shl with lsas := [(7, some ⟨7, 0, false, false, 3, []⟩)] } }), by decide⟩,
    ⟨State.reset, by decide⟩,
    ⟨⟨0, 0, false, false, 0, []⟩, ({ (State.reset.wr Reg.SHL_FAB_CFG.MODE 1) with shl := { ((State.reset.wr Reg.SHL_FAB_CFG.MODE 1)).shl with lsas := [(Config.serial, some ⟨0, 0, false, false, 0, []⟩)] } }), ⟨by decide, by simp [State.lsaOf, Tab.get, Tab.find]⟩⟩,
    ⟨State.reset, by decide⟩,
    ⟨((State.reset.wr Reg.SHL_FAB_CFG.MODE 2)), by decide⟩,
    ⟨((State.reset.wr Reg.SHL_FAB_CFG.MODE 1)), by decide⟩,
    ⟨State.reset, by decide⟩,
    ⟨0, State.reset, by decide⟩,
    ⟨0, (((((tLane lnActive).wr (Reg.SHL_LANE_STATUS.ROLE 0) 1).wr (Reg.SHL_LANE_STATUS.ROLE 4) 1).wr Reg.BOOT_STATUS.STAGE 0)), by decide⟩,
    ⟨0, [], ((((tLane lnActive).wr (Reg.SHL_LANE_STATUS.ROLE 0) 1).wr (Reg.SHL_LANE_STATUS.ROLE 4) 1)), by decide⟩,
    ⟨0, (0x40#8 :: List.replicate 71 0#8), ((((tLane lnActive).wr (Reg.SHL_LANE_STATUS.ROLE 0) 1).wr (Reg.SHL_LANE_STATUS.ROLE 4) 1)), by decide⟩,
    ⟨0, (0x40#8 :: List.replicate 71 0#8), ((((tLane lnActive).wr (Reg.SHL_LANE_STATUS.ROLE 0) 1).wr (Reg.SHL_LANE_STATUS.ROLE 4) 1).wr Reg.CPG_CTRL.EN 1), ⟨by decide, by decide, by decide, by decide, by decide, by decide, by decide, by decide, rfl⟩⟩,
    ⟨.steward, State.reset, by decide⟩⟩

theorem witness_FaultMessages :
    (∃ (b : Nat) (s : State), s.box b = []) ∧
    (∃ (b : Nat) (m : Msg) (r : List Msg) (s : State), s.box b = m :: r) ∧
    (∃ (b : Nat) (m : Msg) (r : List Msg) (s : State), s.box b = m :: r ∧ m.severe = false ∧ (s.kindConf m.kind.code).fatal = true ∧
    s.flt.queue.length < 64) ∧
    (∃ (b : Nat) (s : State), ((Tab.get (fun _ => (0, 0)) s.flt.lost b).1 = 0 ∨ outboxSize ≤ (s.box b).length)) ∧
    (∃ (b : Nat) (n : Nat) (c : Nat) (x : Source) (s : State), boxSource b = some x ∧ Tab.get (fun _ => (0, 0)) s.flt.lost b = (n, c) ∧ n ≠ 0 ∧
    (s.box b).length < outboxSize) ∧
    (∃ (m : Msg) (r : List Msg) (s : State), s.flt.queue = m :: r) ∧
    (∃ (s : State), s.flt.queue = []) :=
  ⟨⟨0, State.reset, by decide⟩,
    ⟨0, ⟨.CLASS_NO_GUILD, srcPt 0, 0, 0, false, 0⟩, [], ({ State.reset with flt := { (State.reset).flt with boxes := [(0, [⟨.CLASS_NO_GUILD, srcPt 0, 0, 0, false, 0⟩])] } }), by decide⟩,
    ⟨0, ⟨.CLASS_NO_GUILD, srcPt 0, 0, 0, false, 0⟩, [], ({ (State.reset.putWord (Reg.FLT_KIND_W0.addr Kind.CLASS_NO_GUILD.code) 0x08000000#32) with flt := { ((State.reset.putWord (Reg.FLT_KIND_W0.addr Kind.CLASS_NO_GUILD.code) 0x08000000#32)).flt with boxes := [(0, [⟨.CLASS_NO_GUILD, srcPt 0, 0, 0, false, 0⟩])] } }), by decide⟩,
    ⟨0, State.reset, by decide⟩,
    ⟨(srcPt 0).box, 1, 2, (srcPt 0), ({ State.reset with flt := { (State.reset).flt with lost := [((srcPt 0).box, (1, 2))] } }), by decide⟩,
    ⟨⟨.CLASS_NO_GUILD, srcPt 0, 0, 0, false, 0⟩, [], ({ State.reset with flt := { (State.reset).flt with queue := [⟨.CLASS_NO_GUILD, srcPt 0, 0, 0, false, 0⟩] } }), by decide⟩,
    ⟨State.reset, by decide⟩⟩

theorem witness_FaultCommands :
    (∃ (ag : Agent) (k : Fin 256) (s : State), s.reaches ag (Reg.FLT_KIND_W0.addr k.val) = true) ∧
    (∃ (ag : Agent) (k : Fin 256) (v : Word) (s : State), s.reaches ag (Reg.FLT_KIND_W1.addr k.val) = true ∧ v.getLsbD 31 = true ∧ s.causeActive
    k.val = true) ∧
    (∃ (ag : Agent) (k : Fin 256) (v : Word) (s : State), s.reaches ag (Reg.FLT_KIND_W1.addr k.val) = true ∧ v.getLsbD 31 = true ∧ s.causeActive
    k.val = false) ∧
    (∃ (ag : Agent) (v : Word) (u : IsoUnit) (m : Nat) (s : State), s.reaches ag Reg.FLT_ISO_CMD.addr = true ∧ fldOf v Reg.FLT_ISO_CMD.OP = 1 ∧
    isoUnits[fldOf v Reg.FLT_ISO_CMD.UNIT]? = some (u, m) ∧ fldOf v Reg.FLT_ISO_CMD.NUMBER < m ∧ u ≠ .bank) ∧
    (∃ (ag : Agent) (v : Word) (s : State), s.reaches ag Reg.FLT_ISO_CMD.addr = true ∧ fldOf v Reg.FLT_ISO_CMD.OP ≠ 1) ∧
    (∃ (ag : Agent) (s : State), s.reaches ag Reg.FLT_CTRL.addr = true ∧ s.flt.safe = true ∧ ((∀ k, (s.kindSt k).status = false))) ∧
    (∃ (ag : Agent) (s : State), s.reaches ag Reg.FLT_CTRL.addr = true) ∧
    (∃ (s : State), (s.flt.safe = false ∨ s.bit Reg.FLT_CTRL.AUTO_RESTART = false ∨ s.flt.restartLimit = true)) ∧
    (∃ (s : State), s.flt.safe = true ∧ s.bit Reg.FLT_CTRL.AUTO_RESTART = true ∧ s.flt.restartLimit = false ∧ s.fatalKinds.any (fun k =>
    s.causeActive k) = false ∧ s.flt.restarts + 1 ≤ s.rd Reg.FLT_CTRL.RESTART_MAX) :=
  ⟨⟨.steward, 0, State.reset, by decide⟩,
    ⟨.steward, ⟨Kind.US_LOSS.code, by decide⟩, 0x80000000#32, ({ State.reset with flt := { (State.reset).flt with causes := [⟨.US_LOSS, srcPt 0, 0⟩] } }), by decide⟩,
    ⟨.steward, ⟨Kind.US_LOSS.code, by decide⟩, 0x80000000#32, (State.reset), by decide⟩,
    ⟨.steward, (BitVec.ofNat 32 (2 ^ Reg.FLT_ISO_CMD.OP.lo)), .engine, 1024, (State.reset), by decide⟩,
    ⟨.steward, 0#32, State.reset, by decide⟩,
    ⟨.steward, tSafe, ⟨by decide, by decide, fun _ => rfl⟩⟩,
    ⟨.steward, State.reset, by decide⟩,
    ⟨State.reset, by decide⟩,
    ⟨tSafe, by decide⟩⟩

theorem witness_AnalogMonitor :
    (∃ (c : AnalogCause) (s : State), s.flt.active (anaWhat c).1 (srcAna (anaWhat c).2) 0 = true) ∧
    (∃ (n : Fin 4) (s : State), s.flt.active .TAMPER (srcAna n.val) 0 = false ∧ s.bit Reg.KEY_STATUS.ERASED = false) :=
  ⟨⟨(.tamper 0), ({ State.reset with flt := { (State.reset).flt with causes := [⟨.TAMPER, srcAna 0, 0⟩] } }), by decide⟩,
    ⟨0, State.reset, by decide⟩⟩

theorem witness_WardenTests :
    (∃ (s : State), s.boot.fwSwitch = none ∧ s.boot.wdogs = []) ∧
    (∃ (id : Nat) (s : State), s.wdn.tests.find? (fun t => t.id == id) = none) ∧
    (∃ (id : Nat) (x : GoldenTest) (s : State), s.wdn.tests.find? (fun t => t.id == id) = some x ∧ s.testRuns id = true) ∧
    (∃ (id : Nat) (x : GoldenTest) (s : State), s.wdn.tests.find? (fun t => t.id == id) = some x ∧ s.testRuns id = false ∧ s.resultOf id x.under =
    none) ∧
    (∃ (s : State), s.testOn Reg.WDN_CFG.SRAM_EN = false) ∧
    (∃ (s : State), s.testOn Reg.WDN_CFG.SRAM_EN = true) ∧
    (∃ (s : State), s.testOn Reg.WDN_CFG.TCAM_EN = false) ∧
    (∃ (s : State), s.testOn Reg.WDN_CFG.TCAM_EN = true) ∧
    (∃ (s : State), s.testOn Reg.WDN_CFG.AUDIT_EN = false) ∧
    (∃ (p : Fin 4) (h : Nat) (s : State), s.testOn Reg.WDN_CFG.AUDIT_EN = true ∧ s.heldOf p.val = [h] ∧ s.namedHandles.contains h = false ∧
    s.wdn.suspects.contains h = true ∧ s.handleOk h = true ∧ (s.buf h).held = true) ∧
    (∃ (p : Fin 4) (s : State), s.testOn Reg.WDN_CFG.AUDIT_EN = true ∧ s.heldOf p.val = []) ∧
    (∃ (b : LaneBlock) (s : State), (s.testOn Reg.WDN_CFG.EYE_EN = false ∨ s.laneOn b = false)) ∧
    (∃ (b : LaneBlock) (s : State), s.testOn Reg.WDN_CFG.EYE_EN = true ∧ s.laneOn b = true) :=
  ⟨⟨State.reset, by decide⟩,
    ⟨0, State.reset, by decide⟩,
    ⟨0, ⟨0, ⟨none, Desc.zero, []⟩, 0, 0, []⟩, ({ (State.reset.setCtx 0 (some (Ctx.start 0 true Desc.zero 0))) with wdn := { ((State.reset.setCtx 0 (some (Ctx.start 0 true Desc.zero 0)))).wdn with tests := [⟨0, ⟨none, Desc.zero, []⟩, 0, 0, []⟩] } }), by decide⟩,
    ⟨0, ⟨0, ⟨none, Desc.zero, []⟩, 0, 0, []⟩, ({ State.reset with wdn := { (State.reset).wdn with tests := [⟨0, ⟨none, Desc.zero, []⟩, 0, 0, []⟩] } }), by decide⟩,
    ⟨(State.reset.wr Reg.WDN_CFG.EN 0), by decide⟩,
    ⟨State.reset, by decide⟩,
    ⟨(State.reset.wr Reg.WDN_CFG.EN 0), by decide⟩,
    ⟨State.reset, by decide⟩,
    ⟨(State.reset.wr Reg.WDN_CFG.EN 0), by decide⟩,
    ⟨0, 0, ({ (tPool.setBuf 0 ⟨true, 1, 0, []⟩) with wdn := { ((tPool.setBuf 0 ⟨true, 1, 0, []⟩)).wdn with suspects := [0] } }), by decide⟩,
    ⟨0, State.reset, by decide⟩,
    ⟨.shl 0, (State.reset.wr Reg.WDN_CFG.EN 0), by decide⟩,
    ⟨.shl 0, State.reset, by decide⟩⟩

theorem witness_TallyAndPerformance :
    (∃ (s : State), s.reachesWin .pf wTly = true) ∧
    (∃ (ag : Agent) (s : State), s.reaches ag Reg.TLY_CTRL.addr = true) ∧
    (∃ (s : State), s.rd Reg.TLY_CTRL.SNAP_MS = 0) ∧
    (∃ (s : State), s.rd Reg.TLY_CTRL.SNAP_MS ≠ 0) ∧
    (∃ (s : State), s.tly.snap = none) ∧
    (∃ (x : Snap) (s : State), s.tly.snap = some x ∧ s.bit Reg.TLY_EXPORT.NET_EN = false) ∧
    (∃ (s : State), (s.stw.paused = true ∨ s.stage < 2)) ∧
    (∃ (s : State), s.stw.paused = false ∧ 2 ≤ s.stage) ∧
    (∃ (p : Fin 32) (i : Fin 256) (s : State), (Tab.get (fun _ => []) s.pm.dsAsked (slotKey p i.val)).flatten = []) ∧
    (∃ (p : Fin 32) (i : Fin 256) (s : State), (Tab.get (fun _ => []) s.pm.dsAsked (slotKey p i.val)).flatten ≠ []) ∧
    (∃ (p : Fin 32) (i : Fin 256) (l : List Nat) (r : List (List Nat)) (s : State), Tab.get (fun _ => []) s.pm.dsAsked (slotKey p i.val) = l :: r) ∧
    (∃ (p : Fin 32) (i : Fin 256) (s : State), Tab.get (fun _ => []) s.pm.dsAsked (slotKey p i.val) = []) ∧
    (∃ (ag : Agent) (v : Word) (s : State), s.reaches ag Reg.TLY_CTRL.addr = true ∧ (fldOf (withCmd v 2) Reg.TLY_CTRL.PM_REC + s.rd
    Reg.TLY_PM_CTRL.PM_REC_HI * 2 ^ 11) < 16512) :=
  ⟨⟨State.reset, by decide⟩,
    ⟨.steward, State.reset, by decide⟩,
    ⟨State.reset, by decide⟩,
    ⟨(State.reset.wr Reg.TLY_CTRL.SNAP_MS 1), by decide⟩,
    ⟨State.reset, by decide⟩,
    ⟨Snap.none, ({ State.reset with tly := { Tly.reset with snap := some Snap.none } }), by decide⟩,
    ⟨State.reset, by decide⟩,
    ⟨tOn, by decide⟩,
    ⟨0, 0, State.reset, by decide⟩,
    ⟨0, 0, ({ State.reset with pm := { Pm.reset with dsAsked := [(0, [[1]])] } }), by decide⟩,
    ⟨0, 0, [1], [], ({ State.reset with pm := { Pm.reset with dsAsked := [(0, [[1]])] } }), by decide⟩,
    ⟨0, 0, State.reset, by decide⟩,
    ⟨.steward, 0#32, State.reset, by decide⟩⟩

theorem witness_Resets :
    (∃ (ag : Agent) (v : Word) (s : State), s.reaches ag Reg.GLB_RESET.addr = true ∧ fldOf v Reg.GLB_RESET.WARM = 1 ∧ fldOf v Reg.GLB_RESET.KEY =
    0xA5) ∧
    (∃ (ag : Agent) (v : Word) (s : State), s.reaches ag Reg.GLB_RESET.addr = true ∧ fldOf v Reg.GLB_RESET.KEY ≠ 0xA5) ∧
    (∃ (s : State), s.boot.released = true) ∧
    (∃ (s : State), s.boot.released = false ∧ s.flt.causes = []) :=
  ⟨⟨.steward, (BitVec.ofNat 32 (0xA5 * 2 ^ Reg.GLB_RESET.KEY.lo + 2 ^ Reg.GLB_RESET.WARM.lo)), (State.reset), by decide⟩,
    ⟨.steward, 0#32, State.reset, by decide⟩,
    ⟨tOn, by decide⟩,
    ⟨State.reset, by decide⟩⟩

theorem witness_StartupStages :
    (∃ (s : State), (s.boot.released = false ∨ s.boot.sampled = true)) ∧
    (∃ (s : State), s.boot.released = true ∧ s.boot.sampled = false) ∧
    (∃ (s : State), (s.boot.released = false ∨ s.shl.latched = false ∨ s.stage ≠ 0 ∨ s.flt.safe = true)) ∧
    (∃ (s : State), s.boot.released = true ∧ s.shl.latched = true ∧ s.stage = 0 ∧ s.flt.safe = false) ∧
    (∃ (s : State), s.boot.fetching = none) ∧
    (∃ (v : Option BankVerdict) (k : Nat) (s : State), s.boot.fetching = some k ∧ v ≠ some .flashRead ∧ s.imgNat k 0 4 ≠ 0x464A4749) ∧
    (∃ (k : Nat) (s : State), s.boot.fetching = some k ∧ s.headerOk k = true ∧ s.headerMine k = true ∧ s.imgNat k 0x00C 4 < s.rd
    Reg.BOOT_IMAGE.FLOOR) ∧
    (∃ (k : Nat) (s : State), s.boot.fetching = some k ∧ s.boot.todo = []) ∧
    (∃ (i : ImageParts) (k : Nat) (a : State) (s : State), s.boot.fetching = some k ∧ s.headerOk k = true ∧ s.headerMine k = true ∧ s.rd
    Reg.BOOT_IMAGE.FLOOR ≤ s.imgNat k 0x00C 4 ∧ badSection (s.bodyLen k) (s.sections k) = none ∧ s.applyImage (s.imageOf k i) = some a ∧ k ≤ 2) ∧
    (∃ (s : State), (s.boot.applied = false ∨ s.stage ≠ 1 ∨ s.flt.safe = true)) ∧
    (∃ (s : State), s.boot.applied = true ∧ s.stage = 1 ∧ s.flt.safe = false) :=
  ⟨⟨State.reset, by decide⟩,
    ⟨({ State.reset with boot := { (State.reset).boot with released := true } }), by decide⟩,
    ⟨State.reset, by decide⟩,
    ⟨({ State.reset with boot := { Boot.reset with released := true }, shl := { Shl.reset with latched := true } }), by decide⟩,
    ⟨State.reset, by decide⟩,
    ⟨none, 2, ({ State.reset with boot := { (State.reset).boot with fetching := some 2 } }), ⟨by decide, by decide, by decide⟩⟩,
    ⟨2, ({ ({ State.reset with words := [(0x4000C, 256#32)] } : State) with boot := { (({ State.reset with words := [(0x4000C, 256#32)] } : State)).boot with fetching := some 2, stage := [(0, 0x49#8), (1, 0x47#8), (2, 0x4A#8), (3, 0x46#8), (4, 1#8), (7, 2#8), (8, 1#8), (16, 16#8), (20, 1#8), (24, 0x32#8), (25, 0x50#8), (28, 0x0A#8)] } }), ⟨by decide, by decide +kernel, by decide +kernel, by decide +kernel⟩⟩,
    ⟨2, ({ State.reset with boot := { (State.reset).boot with fetching := some 2 } }), by decide⟩,
    ⟨⟨[], [], [], [], []⟩, 2, _, ({ ({ State.reset with words := [(0x4000C, 0#32)] } : State) with boot := { (({ State.reset with words := [(0x4000C, 0#32)] } : State)).boot with fetching := some 2, stage := [(0, 0x49#8), (1, 0x47#8), (2, 0x4A#8), (3, 0x46#8), (4, 1#8), (7, 2#8), (8, 1#8), (16, 16#8), (20, 1#8), (24, 0x32#8), (25, 0x50#8), (28, 0x0A#8)] } }), ⟨by decide, by decide +kernel, by decide +kernel, by decide +kernel, by decide +kernel, rfl, by decide⟩⟩,
    ⟨State.reset, by decide⟩,
    ⟨({ (State.reset.wr Reg.BOOT_STATUS.STAGE 1) with boot := { ((State.reset.wr Reg.BOOT_STATUS.STAGE 1)).boot with applied := true } }), by decide⟩⟩

theorem witness_BootAndFirmwareCommands :
    (∃ (ag : Agent) (s : State), s.reaches ag Reg.BOOT_CMD.addr = true ∧ s.boot.fetching = none ∧ s.stage = 1) ∧
    (∃ (ag : Agent) (s : State), s.reaches ag Reg.BOOT_CMD.addr = true ∧ s.boot.fetching = none ∧ s.stage ≠ 1) ∧
    (∃ (ag : Agent) (s : State), s.reaches ag Reg.BOOT_CMD.addr = true ∧ s.boot.fetching = none ∧ s.stage = 3) ∧
    (∃ (ag : Agent) (v : Word) (s : State), s.reaches ag Reg.BOOT_CMD.addr = true ∧ s.boot.fetching = none ∧ sectorIn (fldOf (withCmd v 3)
    Reg.BOOT_CMD.SECTOR) = true ∧ s.sectorUsed (fldOf (withCmd v 3) Reg.BOOT_CMD.SECTOR) = false) ∧
    (∃ (ag : Agent) (v : Word) (s : State), s.reaches ag Reg.BOOT_CMD.addr = true ∧ s.boot.fetching = none ∧ sectorIn (fldOf (withCmd v 4)
    Reg.BOOT_CMD.SECTOR) = true ∧ s.sectorUsed (fldOf (withCmd v 4) Reg.BOOT_CMD.SECTOR) = true) ∧
    (∃ (ag : Agent) (v : Word) (s : State), s.reaches ag Reg.BOOT_CMD.addr = true ∧ s.boot.fetching = none ∧ sectorIn (fldOf (withCmd v 4)
    Reg.BOOT_CMD.SECTOR) = true ∧ s.sectorUsed (fldOf (withCmd v 4) Reg.BOOT_CMD.SECTOR) = false) ∧
    (∃ (p : Fin 32) (i : Fin 256) (s : State), (s.owned p.val = false ∨ ((s.provOf p i.val).waiting = false ∧ s.stw.paused = false))) ∧
    (∃ (p : Fin 32) (s : State), s.owned p.val = true ∧ s.stw.paused = true) ∧
    (∃ (p : Fin 32) (i : Fin 256) (s : State), (s.provOf p i.val).waiting = true ∧ s.stewards p = true) ∧
    (∃ (ag : Agent) (v : Word) (s : State), s.reaches ag Reg.STW_FW_CTRL.addr = true ∧ fldOf (v ||| 0x80000000#32) Reg.STW_FW_CTRL.SWITCH = 0) ∧
    (∃ (ag : Agent) (s : State), s.reaches ag Reg.STW_FW_CTRL.addr = true ∧ s.rd Reg.STW_FW_STATUS.RESULT = 2) ∧
    (∃ (s : State), s.bit Reg.STW_FW_STATUS.READY = true ∧ s.stw.paused = false) ∧
    (∃ (s : State), (s.bit Reg.STW_FW_STATUS.READY = false ∨ s.stw.paused = true)) ∧
    (∃ (n : Nat) (s : State), s.boot.fwSwitch = some n ∧ s.bit Reg.STW_FW_STATUS.READY = false) ∧
    (∃ (s : State), (s.boot.fwSwitch = none ∨ s.bit Reg.STW_FW_STATUS.READY = true)) :=
  ⟨⟨.steward, (State.reset.wr Reg.BOOT_STATUS.STAGE 1), by decide⟩,
    ⟨.steward, State.reset, by decide⟩,
    ⟨.steward, tOn, by decide⟩,
    ⟨.steward, 0#32, (State.reset), ⟨by decide, by decide, by unfold sectorIn flashCap; exact decide_eq_true (Nat.le_max_left _ _), by decide⟩⟩,
    ⟨.steward, 0#32, ({ ({ State.reset with words := [(0x4000C, 0#32)] } : State) with boot := { (({ State.reset with words := [(0x4000C, 0#32)] } : State)).boot with applied := true } }), ⟨by decide, by decide, by unfold sectorIn flashCap; exact decide_eq_true (Nat.le_max_left _ _), by show (true && decide (0 < flashCap / 2)) = true; unfold flashCap; simp⟩⟩,
    ⟨.steward, 0#32, (State.reset), ⟨by decide, by decide, by unfold sectorIn flashCap; exact decide_eq_true (Nat.le_max_left _ _), by decide⟩⟩,
    ⟨0, 0, tShadow, by decide⟩,
    ⟨0, tPaused, by decide⟩,
    ⟨0, 0, (State.reset.setProv 0 0 { Prov.none with waiting := true }), by decide⟩,
    ⟨.steward, 0#32, State.reset, by decide⟩,
    ⟨.steward, (State.reset.wr Reg.STW_FW_STATUS.RESULT 2), by decide⟩,
    ⟨(State.reset.wr Reg.STW_FW_STATUS.READY 1), by decide⟩,
    ⟨State.reset, by decide⟩,
    ⟨0, ({ State.reset with boot := { (State.reset).boot with fwSwitch := some 0 } }), by decide⟩,
    ⟨State.reset, by decide⟩⟩

theorem witness_HostPortAndRings :
    (∃ (e : PcieEvent), (e = .fundamental ∨ e = .hot ∨ e = .linkDown)) ∧
    (∃ (r : Fin 128) (code : Fin 5) (s : State), code.val ≠ 0 ∧ ringExists r.val = true ∧ s.ringOn r.val = true) ∧
    (∃ (ag : Agent) (s : State), s.reaches ag Reg.HST_REARM.addr = true) ∧
    (∃ (ag : Agent) (r : Fin 128) (s : State), s.ringReaches ag r.val (Reg.RING_CFG.addr r.val) = true) ∧
    (∃ (ag : Agent) (r : Fin 128) (s : State), s.ringReaches ag r.val (Reg.RING_TAIL.addr r.val) = true) ∧
    (∃ (o : ExcOut) (l : List ExcOut) (s : State), s.fwd.toHost = o :: l) ∧
    (∃ (r : Fin 128) (s : State), (ringTx r.val = false ∨ s.ringOn r.val = false ∨ s.ringEmpty r.val = true ∨ s.flt.safe = true)) ∧
    (∃ (r : Fin 128) (e : List (BitVec 32)) (s : State), ringTx r.val = true ∧ s.ringOn r.val = true ∧ s.ringEmpty r.val = false ∧ s.flt.safe = false
    ∧ (((e.getD 2 0#32).extractLsb' 0 14).toNat < 60 ∨ 2 ≤ ((e.getD 2 0#32).extractLsb' 30 2).toNat)) ∧
    (∃ (r : Fin 128) (e : List (BitVec 32)) (fr : List (BitVec 8)) (a : State) (h : Nat) (s : State), (ringTx r.val = true ∧ r.val < 64 ∧ s.ringOn
    r.val = true ∧ s.ringEmpty r.val = false ∧ s.flt.safe = false ∧ 60 ≤ ((e.getD 2 0#32).extractLsb' 0 14).toNat ∧ ((e.getD 2 0#32).extractLsb' 30
    2).toNat = 0) ∧ s.newBuf ((e.getD 4 0#32).extractLsb' 29 3).toNat ((e.getD 2 0#32).extractLsb' 0 14).toNat (sliceZ fr 0 ((e.getD 2
    0#32).extractLsb' 0 14).toNat) = (a, some h) ∧ (a.epochRef a.published).isProxy { Desc.zero with handle := h } = false) ∧
    (∃ s : State, s.fwd.toHost = [] ∧ s.tly.export_ = []) ∧
    (∃ (o : ExcOut) (l : List ExcOut) (s : State), s.fwd.toHost = o :: l ∧ s.ringOn (s.excRing o.d o.mirror) = false) ∧
    (∃ (o : ExcOut) (l : List ExcOut) (s : State), s.fwd.toHost = o :: l ∧ s.ringOn (s.excRing o.d o.mirror) = true ∧ s.ringEmpty (s.excRing o.d
    o.mirror) = true) ∧
    (∃ (o : ExcOut) (l : List ExcOut) (s : State), s.fwd.toHost = o :: l ∧ s.ringOn (s.excRing o.d o.mirror) = true ∧ s.ringEmpty (s.excRing o.d
    o.mirror) = false) :=
  ⟨⟨.hot, by decide⟩,
    ⟨0, 1, ((((State.reset.wr Reg.HST_LINK.UP 1).setFn 0 { Fn.reset with bme := true }).wr (Reg.RING_CFG.EN 0) 1)), by decide⟩,
    ⟨.steward, State.reset, by decide⟩,
    ⟨.steward, 0, State.reset, by decide⟩,
    ⟨.steward, 0, State.reset, by decide⟩,
    ⟨⟨Desc.zero, false, []⟩, [], ({ State.reset with fwd := { (State.reset).fwd with toHost := [⟨Desc.zero, false, []⟩] } }), by decide⟩,
    ⟨0, State.reset, by decide⟩,
    ⟨16, [], ((((State.reset.wr Reg.HST_LINK.UP 1).setFn 0 { Fn.reset with bme := true }).wr (Reg.RING_CFG.EN 16) 1).wr (Reg.RING_TAIL.TAIL 16) 1), by decide⟩,
    ⟨16, [0#32, 0#32, 60#32, 0#32, 0#32], [], _, _,
    (((((tOn.wr Reg.CPG_CTRL.EN 1).wr Reg.HST_LINK.UP 1).setFn 0 { Fn.reset with bme := true }).wr (Reg.RING_CFG.EN 16) 1).wr (Reg.RING_TAIL.TAIL 16) 1),
    by decide, rfl, by decide⟩,
    ⟨State.reset, by decide⟩,
    ⟨⟨Desc.zero, false, []⟩, [], { State.reset with fwd := { (State.reset).fwd with toHost := [⟨Desc.zero, false, []⟩] } }, by decide⟩,
    ⟨⟨Desc.zero, false, []⟩, [], { (((State.reset.wr Reg.HST_LINK.UP 1).setFn 0 { Fn.reset with bme := true }).wr (Reg.RING_CFG.EN 0) 1) with fwd := { ((((State.reset.wr Reg.HST_LINK.UP 1).setFn 0 { Fn.reset with bme := true }).wr (Reg.RING_CFG.EN 0) 1)).fwd with toHost := [⟨Desc.zero, false, []⟩] } }, by decide⟩,
    ⟨⟨Desc.zero, false, []⟩, [], { ((((State.reset.wr Reg.HST_LINK.UP 1).setFn 0 { Fn.reset with bme := true }).wr (Reg.RING_CFG.EN 0) 1).wr (Reg.RING_TAIL.TAIL 0) 1) with fwd := { (((((State.reset.wr Reg.HST_LINK.UP 1).setFn 0 { Fn.reset with bme := true }).wr (Reg.RING_CFG.EN 0) 1).wr (Reg.RING_TAIL.TAIL 0) 1)).fwd with toHost := [⟨Desc.zero, false, []⟩] } }, by decide⟩⟩

theorem witness_HostAccess :
    (∃ (ag : Agent) (off : BitVec 26), ((∀ n, ag ≠ .vf n)) ∧ inHostWin off.toNat = false ∧ portAt off.toNat = none ∧ occupied off.toNat = false) ∧
    (∃ (off : BitVec 26), 0x2000 ≤ off.toNat) ∧
    (∃ (ag : Agent) (s : State), s.reaches ag Reg.SRT_EXC_STW.addr = true) ∧
    (∃ (ag : Agent), ((∀ n, ag ≠ .vf n))) ∧
    (∃ (ag : Agent) (w : Fin 106) (v : Word) (l : List Word) (s : State), ((∀ n, ag ≠ .vf n)) ∧ s.winShow w.val ((s.word (portKey ag w.val 0)).toNat)
    = some l ∧ winCount v ≠ 0 ∧ winFirst v + winCount v ≤ l.length) ∧
    (∃ (ag : Agent) (w : Fin 106) (s : State), ((∀ n, ag ≠ .vf n)) ∧ s.winShow w.val (s.word (portKey ag w.val 0)).toNat = none) ∧
    (∃ (ag : Agent) (a : BitVec 26) (s : State), isLock a.toNat = true ∧ ag ≠ .image ∧ s.reaches ag a.toNat = true) ∧
    (∃ (ag : Agent) (k : Fin 33) (s : State), k.val ≠ 0 ∧ s.reaches ag (Reg.HST_VF_PORTS.addr k.val) = true) ∧
    (∃ (a : BitVec 26) (v : Word) (s : State), isLock a.toNat = true ∧ s.reaches .pf a.toNat = true ∧ s.bit (Reg.BLOCK_LOCK.SEALED a.toNat) = false ∧
    fldOf v (Reg.BLOCK_LOCK.KEY a.toNat) = 0x4F50) ∧
    (∃ (a : BitVec 26) (s : State), isLock a.toNat = true ∧ s.reaches .pf a.toNat = true ∧ s.bit (Reg.BLOCK_LOCK.SEALED a.toNat) = true) ∧
    (∃ (v : Word) (s : State), s.reaches .pf (Reg.HST_VF_PORTS.addr 1) = true ∧ s.word (Reg.HST_VF_PORTS.addr 2) &&& v ≠ 0#32) ∧
    (∃ (v : Word) (s : State), s.reaches .pf (Reg.HST_VF_PORTS.addr 1) = true ∧ ∀ i, 1 ≤ i → i ≤ 32 → i ≠ 1 → s.word (Reg.HST_VF_PORTS.addr i) &&& v
    = 0#32) :=
  ⟨⟨.pf, 0x3FFF000#26, ⟨fun _ => nofun, by decide, by decide, by decide⟩⟩,
    ⟨0x2000#26, by decide⟩,
    ⟨.steward, State.reset, by decide⟩,
    ⟨.steward, by decide⟩,
    ⟨.pf, 97, 1#32, _, State.reset, ⟨fun _ => nofun, rfl, by decide, by decide⟩⟩,
    ⟨.pf, 97, (State.reset.putWord (portKey .pf 97 0) 0x1FFFFF#32), ⟨fun _ => nofun, rfl⟩⟩,
    ⟨.pf, 0xFFFC#26, State.reset, by decide⟩,
    ⟨.pf, 1, State.reset, by decide⟩,
    ⟨0xFFFC#26, 0x4F50#32, State.reset, by decide⟩,
    ⟨0xFFFC#26, State.reset.wr (Reg.BLOCK_LOCK.SEALED 0xFFFC) 1, by decide⟩,
    ⟨1#32, State.reset.putWord (Reg.HST_VF_PORTS.addr 2) 1#32, by decide⟩,
    ⟨0#32, State.reset, by decide, fun _ _ _ _ => BitVec.and_zero⟩⟩

theorem witness_StepRunsFront :
    ∃ (c : Instr) (q : List Instr) (s : State), s.pending = c :: q :=
  ⟨.helloSend, [], { State.reset with pending := [.helloSend] }, by decide⟩

theorem witness_IdleStep :
    ∃ (s : State), s.pending = [] :=
  ⟨State.reset, by decide⟩

theorem witness_SoundKept :
    ∃ (s : State), s.Sound :=
  ⟨tPool, by unfold State.Sound Canon; decide⟩

theorem witness_ResetValues :
    ∃ (r : Fin 128), ringExists r.val = true :=
  ⟨0, by decide⟩

theorem witness_RegisterAccessTypes :
    (∃ (a : Nat) (r : RegRow) (n : Nat), regAt a = some (r, n) ∧ r.lck ≠ 0#32) ∧
    (∃ (ag : Agent) (a : BitVec 26) (r : RegRow) (n : Nat) (s : State), ((0xB0000 ≤ a.toNat ∧ a.toNat < 0xC0000) ∨ (0x300000 ≤ a.toNat ∧ a.toNat <
    0x310000)) ∧ regAt a.toNat = some (r, n) ∧ isLock a.toNat = false ∧ ctrAt a.toNat = none ∧ s.reaches ag a.toNat = true) :=
  ⟨⟨(Reg.GLD_CTRL.addr 0), _, _, ⟨rfl, by decide⟩⟩,
    ⟨.steward, (BitVec.ofNat 26 Reg.SRT_EXC_STW.addr), _, _, State.reset, ⟨by decide, rfl, by decide, by decide, by decide⟩⟩⟩

theorem witness_DeniedWrites :
    (∃ (f : Fin 32) (p : Fin 32) (g : Fin 64) (d : Fin 2) (k : Fin 2) (sl : Fin 256) (v : Word) (x : _), x ∈ gatedRows (.vf f) p g d k sl v) ∧
    (∃ (p : Fin 32) (g : Fin 64) (d : Fin 2) (k : Fin 2) (sl : Fin 256) (v : Word) (s : State) (x : _), x ∈ gatedRows .pf p g d k sl v ∧ (s.word
    Reg.HST_WP.addr).getLsbD (blockCode x.2) = true) :=
  ⟨⟨0, 0, 0, 0, 0, 0, 0#32, _, List.mem_cons_self⟩,
    ⟨0, 0, 0, 0, 0, 0#32, (State.reset.putWord Reg.HST_WP.addr 0xFFFFFFFF#32), _, ⟨List.mem_cons_self, by decide⟩⟩⟩

theorem witness_InstructionIssue :
    (∃ (g : Fin 64) (e : Fin 16) (c : Fin 4) (i : _), i ∈ ([.add g e c none, .sub g e c none, .and g e c none, .or g e c none, .xor g e c none, .shl
    g e c none, .shr g e c none, .sar g e c none, .min g e c none, .max g e c none, .cmp g e c none, .popc g e c none, .bfx g e c none, .bfi g e c
    none, .movi g e c none, .beq g e c none, .bne g e c none, .blt g e c none, .bge g e c none, .bltu g e c none, .bgeu g e c none, .jmp g e c none,
    .call g e c none, .ret g e c none, .ld g e c none none, .st g e c none, .dadd g e c none, .dor g e c none, .dinc g e c none, .fadd g e c none,
    .cas g e c none, .parseNext g e c none, .parseSkip g e c none, .parseSetht g e c none, .kclr g e c none, .kcat g e c none, .kreg g e c none,
    .lookupLdg g e c none, .lookupExm g e c none, .lookupWait g e c none, .ins g e c none, .del g e c none, .csum g e c none, .setv g e c none, .setq
    g e c none, .setb g e c none, .setr g e c none, .setm g e c none, .setx g e c none, .setc g e c none, .endPass g e c none, .nop g e c none, .movs
    g e c none, .trap g e c none, .handoff g e c none] : List Instr)) ∧
    (∃ (g : Fin 64) (e : Fin 16) (c : Fin 4) (x : Ctx) (s : State), s.runnable (ctxKey g.val e.val c.val) = some x ∧ s.insnMax (keyGuild (ctxKey
    g.val e.val c.val)) ≤ x.slots) ∧
    (∃ (g : Fin 64) (e : Fin 16) (c : Fin 4) (x : Ctx) (s : State), s.runnable (ctxKey g.val e.val c.val) = some x ∧ x.slots < s.insnMax (keyGuild
    (ctxKey g.val e.val c.val)) ∧ (s.fetch (keyGuild (ctxKey g.val e.val c.val)) x.pc).defined = false) ∧
    (∃ s : State, s.runnable (ctxKey 0 0 0) = none) :=
  ⟨⟨0, 0, 0, _, List.mem_cons_self⟩,
    ⟨0, 0, 0, { tCtx with slots := 65535 }, tEng { tCtx with slots := 65535 } 0#32 0#32, by decide⟩,
    ⟨0, 0, 0, tCtx, tEng tCtx (tHi 12 0 0 0 0 0) 0#32, by decide⟩,
    ⟨State.reset, by decide⟩⟩

end Sys2Proof.Tests
end

/-! SUPPORT. The store of a written word by access type (00_scope.md R6, R9): which bits of a register take the value and which keep
theirs, what a refused change of an LCK field leaves behind, and that a plain register's write is that store. -/

namespace Sys2Proof.Machine

set_option autoImplicit false

/-! Access masks of the register map: a bit of a word has one access type of Table 0-3. -/

/-- The RW, LCK and self-clearing bits of a row lie apart. -/
def RegRow.disjoint (r : RegRow) : Bool :=
  decide (r.rw &&& r.lck = 0#32 ∧ r.rw &&& (r.w1c ||| r.w1s) = 0#32 ∧ r.lck &&& (r.w1c ||| r.w1s) = 0#32)

/-- The rows of every kind of block in the map of Table 17-3. -/
def blockRows : List (List RegRow) :=
  [rowsGlb, rowsFlt, rowsTly, rowsHrl, rowsBoot, rowsTwn, rowsShl, rowsHst, rowsKey, rowsCpg, rowsSch, rowsSrt, rowsXpr, rowsLdg, rowsExm,
    rowsWdn, rowsPt, rowsWhf, rowsFsi, [], rowsGld].map (rowLock 0xFFFC :: ·) ++ [rowLock 0xFFC :: rowsUlk, rowsWin]

theorem place_rows_mem {a : Nat} {p : Place} (h : place a = some p) : p.rows ∈ blockRows := by
  unfold place at h
  repeat' split at h
  all_goals cases h
  all_goals simp [blockRows]

theorem blockRows_disjoint : ∀ l ∈ blockRows, l.all RegRow.disjoint = true := by decide

theorem regAt_disjoint {a n : Nat} {r : RegRow} (h : regAt a = some (r, n)) : r.disjoint = true := by
  unfold regAt at h
  split at h
  · cases h
  · next p hp =>
    split at h
    · next q hq =>
      cases h
      exact List.all_eq_true.1 (blockRows_disjoint _ (place_rows_mem hp)) _ (List.mem_of_find?_eq_some hq)
    · cases h

/-- HST_DENIED_LAST has no LCK field, so a write it records is of another register. -/
theorem regAt_ne_deniedLast {a n : Nat} {r : RegRow} (h : regAt a = some (r, n)) (hl : r.lck ≠ 0#32) :
    a ≠ Reg.HST_DENIED_LAST_W0.addr ∧ a ≠ Reg.HST_DENIED_LAST_W1.addr ∧ a ≠ Reg.HST_DENIED_LAST_W2.addr := by
  have hall : ∀ b ∈ [Reg.HST_DENIED_LAST_W0.addr, Reg.HST_DENIED_LAST_W1.addr, Reg.HST_DENIED_LAST_W2.addr],
      (regAt b).all (fun x => x.1.lck == 0#32) = true := by decide
  have hne : ∀ b ∈ [Reg.HST_DENIED_LAST_W0.addr, Reg.HST_DENIED_LAST_W1.addr, Reg.HST_DENIED_LAST_W2.addr], a ≠ b := by
    rintro b hb rfl
    have := hall a hb
    simp [h, hl] at this
  simpa using hne

/-! The word a store leaves. -/

/-- The word a store of `v` leaves of `old`: `m` are the bits that take the value, `c` the W1C and `w` the W1S bits. -/
def storedWord (m c w old v : Word) : Word := (((old &&& ~~~ m) ||| (v &&& m)) &&& ~~~ (v &&& c)) ||| (v &&& w)

/-- A bit that is neither W1C nor W1S is the value's where the store writes it, and the old word's elsewhere. -/
theorem storedWord_getElem {m c w k : Word} (hk : k &&& (c ||| w) = 0#32) (old v : Word) {i : Nat} (hi : i < 32) (hki : k[i] = true) :
    (storedWord m c w old v)[i] = if m[i] then v[i] else old[i] := by
  have hcw := congrArg (·[i]) hk
  simp only [BitVec.getElem_and, BitVec.getElem_or, BitVec.getElem_zero, hki, Bool.true_and, Bool.or_eq_false_iff] at hcw
  obtain ⟨hc, hw⟩ := hcw
  cases hm : m[i] <;> simp [storedWord, hm, hc, hw]

theorem storedWord_and_taken {m c w k : Word} (hm : k &&& m = k) (hk : k &&& (c ||| w) = 0#32) (old v : Word) :
    storedWord m c w old v &&& k = v &&& k := by
  ext i hi
  cases hki : k[i] with
  | false => simp [hki]
  | true =>
    have hmi : m[i] = true := by simpa [hki] using congrArg (·[i]) hm
    simp [storedWord_getElem hk old v hi hki, hmi]

theorem storedWord_and_kept {m c w k : Word} (hm : k &&& m = 0#32) (hk : k &&& (c ||| w) = 0#32) (old v : Word) :
    storedWord m c w old v &&& k = old &&& k := by
  ext i hi
  cases hki : k[i] with
  | false => simp [hki]
  | true =>
    have hmi : m[i] = false := by simpa [hki] using congrArg (·[i]) hm
    simp [storedWord_getElem hk old v hi hki, hmi]

/-- The bits of a row that take a written value: RW, and LCK under an open lock (R9). -/
def RegRow.writable (r : RegRow) (opened : Bool) : Word := if opened then r.rw ||| r.lck else r.rw

/-- The word a store leaves of a register with row `r`. -/
def RegRow.stored (r : RegRow) (opened : Bool) (old v : Word) : Word := storedWord (r.writable opened) r.w1c r.w1s old v

section
variable {r : RegRow} (h : r.disjoint = true)
include h

theorem RegRow.stored_rw (opened : Bool) (old v : Word) : r.stored opened old v &&& r.rw = v &&& r.rw := by
  obtain ⟨hl, hw, -⟩ := of_decide_eq_true h
  refine storedWord_and_taken ?_ hw old v
  cases opened <;> simp [RegRow.writable, BitVec.and_or_distrib_left, hl]

theorem RegRow.stored_lck_open (old v : Word) : r.stored true old v &&& r.lck = v &&& r.lck := by
  obtain ⟨hl, -, hw⟩ := of_decide_eq_true h
  refine storedWord_and_taken ?_ hw old v
  simp [RegRow.writable, BitVec.and_or_distrib_left, BitVec.and_comm r.lck r.rw, hl]

theorem RegRow.stored_lck_closed (old v : Word) : r.stored false old v &&& r.lck = old &&& r.lck := by
  obtain ⟨hl, -, hw⟩ := of_decide_eq_true h
  exact storedWord_and_kept ((BitVec.and_comm ..).trans hl) hw old v

end

/-! A denied access (R550). -/

/-- A denied access counts one event in HST_DENIED and none in another counter. -/
theorem State.ctr_deny (s : State) (ag : Agent) (r : Deny) (addr win c : Nat) :
    (s.deny ag r addr win).ctr c = if c = Cnt.HST_DENIED then (s.ctr Cnt.HST_DENIED).add 1 else s.ctr c := by
  rw [← State.ctr_inc]
  refine State.ctr_congr ?_ c
  rw [State.deny, State.denyAs, State.raiseLimited_ctrs, apply_ite State.ctrs]
  simp only [State.putWord_ctrs, State.priv_parts, ite_self]

/-- What a denied access writes while HST_DENIED_LAST holds no record. -/
def State.recordDenied (s : State) (ag : Agent) (r : Deny) (addr win : Nat) : State :=
  ((s.putWord Reg.HST_DENIED_LAST_W0.addr (BitVec.ofNat 32 (2 ^ 31 + r.code * 2 ^ 28 + ag.code * 2 ^ 22))).putWord
    Reg.HST_DENIED_LAST_W1.addr (BitVec.ofNat 32 addr)).putWord Reg.HST_DENIED_LAST_W2.addr (BitVec.ofNat 32 (win % 2 ^ 24))

/-- The first denied access since HST_DENIED_LAST was cleared is recorded there; the words stay at every later one. -/
theorem State.words_deny (s : State) (ag : Agent) (r : Deny) (addr win : Nat) : (s.deny ag r addr win).words =
    if s.bit Reg.HST_DENIED_LAST_W0.VALID then s.words else (s.recordDenied ag r addr win).words := by
  have hw (x : PrivAcc) : ((s.inc Cnt.HST_DENIED).priv 0x202 ag.code 1 x).words = s.words :=
    (State.priv_parts ..).2.1.trans (State.inc_words ..)
  rw [State.deny, State.denyAs, State.raiseLimited_words, apply_ite State.words, State.bit_congr (hw _), hw]
  simp only [State.recordDenied, State.putWord, hw]

/-- A denied access writes no word but those of HST_DENIED_LAST. -/
theorem State.word_deny_of_ne (s : State) (ag : Agent) (r : Deny) (addr win : Nat) {b : Nat} (h0 : b ≠ Reg.HST_DENIED_LAST_W0.addr)
    (h1 : b ≠ Reg.HST_DENIED_LAST_W1.addr) (h2 : b ≠ Reg.HST_DENIED_LAST_W2.addr) : (s.deny ag r addr win).word b = s.word b := by
  have hrec : (s.recordDenied ag r addr win).word b = s.word b := by
    rw [State.recordDenied, State.word_putWord, if_neg h2, State.word_putWord, if_neg h1, State.word_putWord, if_neg h0]
  have hw := State.words_deny s ag r addr win
  split at hw
  · exact State.word_congr hw b
  · exact (State.word_congr hw b).trans hrec

theorem Deny.code_lt (r : Deny) : r.code < 8 := by cases r <;> decide

theorem agentCode_lt (ag : Agent) : ag.code < 64 := by
  cases ag with
  | vf n => exact Nat.lt_of_le_of_lt n.isLt (by decide)
  | pf | steward | image => decide

/-- A denied access leaves its reason in HST_DENIED_LAST where that held no record. -/
theorem State.rd_deny_reason (s : State) (ag : Agent) (r : Deny) (addr win : Nat) (h : s.bit Reg.HST_DENIED_LAST_W0.VALID = false) :
    (s.deny ag r addr win).rd Reg.HST_DENIED_LAST_W0.REASON = r.code := by
  have hw := State.words_deny s ag r addr win
  rw [h, if_neg Bool.false_ne_true] at hw
  rw [State.rd_congr hw, State.recordDenied, State.rd_putWord, if_neg (by decide), State.rd_putWord, if_neg (by decide), State.rd_putWord,
    if_pos rfl, BitVec.toNat_ofNat]
  have hr := r.code_lt
  have ha := agentCode_lt ag
  change (2 ^ 31 + r.code * 2 ^ 28 + ag.code * 2 ^ 22) % 2 ^ 32 / 2 ^ 28 % 2 ^ 3 = r.code
  omega

/-! The store. -/

/-- Only a field that has bits can be changed. -/
theorem ne_zero_of_and_ne_and {x y k : Word} (h : x &&& k ≠ y &&& k) : k ≠ 0#32 := fun h0 => h (by simp [h0])

section
variable {s : State} {a n : Nat} {r : RegRow} {v : Word} (hr : regAt a = some (r, n)) (ag : Agent)
include hr

/-- A store stores the word by access type, and is denied with LOCKED where it would change an LCK field under a closed lock (R9). -/
theorem State.storeWord_of_regAt : s.storeWord ag a v =
    if s.lockOpen a = false ∧ v &&& r.lck ≠ s.word a &&& r.lck then (s.putWord a (r.stored (s.lockOpen a) (s.word a) v)).deny ag .locked a noWin
    else s.putWord a (r.stored (s.lockOpen a) (s.word a) v) := by
  simp only [State.storeWord, hr]
  rfl

theorem State.word_storeWord_same : (s.storeWord ag a v).word a = r.stored (s.lockOpen a) (s.word a) v := by
  rw [State.storeWord_of_regAt hr]
  split
  · next hc =>
    obtain ⟨h0, h1, h2⟩ := regAt_ne_deniedLast hr (ne_zero_of_and_ne_and hc.2)
    rw [State.word_deny_of_ne _ _ _ _ _ h0 h1 h2, State.word_putWord_same]
  · exact State.word_putWord_same ..

theorem State.word_storeWord_of_ne {b : Nat} (hb : b ≠ a) (h0 : b ≠ Reg.HST_DENIED_LAST_W0.addr) (h1 : b ≠ Reg.HST_DENIED_LAST_W1.addr)
    (h2 : b ≠ Reg.HST_DENIED_LAST_W2.addr) : (s.storeWord ag a v).word b = s.word b := by
  rw [State.storeWord_of_regAt hr]
  split
  · rw [State.word_deny_of_ne _ _ _ _ _ h0 h1 h2, State.word_putWord, if_neg hb]
  · rw [State.word_putWord, if_neg hb]

theorem State.ctr_denied_storeWord : (s.storeWord ag a v).ctr Cnt.HST_DENIED =
    if s.lockOpen a = false ∧ v &&& r.lck ≠ s.word a &&& r.lck then (s.ctr Cnt.HST_DENIED).add 1 else s.ctr Cnt.HST_DENIED := by
  rw [State.storeWord_of_regAt hr]
  split
  · rw [State.ctr_deny, if_pos rfl]
    rfl
  · rfl

/-- A refused change of an LCK field leaves the reason LOCKED in HST_DENIED_LAST where that held none. -/
theorem State.reason_storeWord (hc : s.lockOpen a = false ∧ v &&& r.lck ≠ s.word a &&& r.lck)
    (hv : s.bit Reg.HST_DENIED_LAST_W0.VALID = false) : (s.storeWord ag a v).rd Reg.HST_DENIED_LAST_W0.REASON = 1 := by
  have ha : Reg.HST_DENIED_LAST_W0.addr ≠ a := (regAt_ne_deniedLast hr (ne_zero_of_and_ne_and hc.2)).1.symm
  rw [State.storeWord_of_regAt hr, if_pos hc]
  refine State.rd_deny_reason _ ag .locked a noWin ?_
  rw [State.bit, ← State.rd, State.rd_putWord, if_neg ha]
  exact hv

/-- The store of a word does to every register what its row says (R9). -/
theorem State.storeWord_storedAs : StoredAs s (s.storeWord ag a v) a v r := by
  have hd := regAt_disjoint hr
  have hw := State.word_storeWord_same (s := s) (v := v) hr ag
  refine ⟨?_, fun ho => ?_, fun hc => ?_, State.ctr_denied_storeWord hr ag, fun hc hne hv => State.reason_storeWord hr ag ⟨hc, hne⟩ hv,
    fun b hb h0 h1 h2 => State.word_storeWord_of_ne hr ag hb h0 h1 h2⟩
  · rw [hw, RegRow.stored_rw hd]
  · rw [hw, ho, RegRow.stored_lck_open hd]
  · rw [hw, hc, RegRow.stored_lck_closed hd]

end

/-- What a store leaves is told from the words and counters it starts from alone. -/
theorem storedAs_of_congr {s s' t : State} {a : Nat} {v : Word} {r : RegRow} (hw : s'.words = s.words) (hc : s'.ctrs = s.ctrs)
    (h : StoredAs s' t a v r) : StoredAs s t a v r := by
  have hword : s'.word = s.word := funext (State.word_congr hw)
  have hlock : s'.lockOpen a = s.lockOpen a := State.bit_congr hw _
  have hvalid : s'.bit Reg.HST_DENIED_LAST_W0.VALID = s.bit Reg.HST_DENIED_LAST_W0.VALID := State.bit_congr hw _
  have hctr : s'.ctr = s.ctr := funext (State.ctr_congr hc)
  unfold StoredAs at h ⊢
  rwa [hword, hlock, hvalid, hctr] at h

/-! A register written by its address. -/

/-- Addresses of the blocks whose registers do no more than their access types say: the sorter's and Wharfinger's. -/
def inPlainBlock (a : Nat) : Prop := (0xB0000 ≤ a ∧ a < 0xC0000) ∨ (0x300000 ≤ a ∧ a < 0x310000)

theorem place_of_inPlainBlock {a : Nat} (h : inPlainBlock a) :
    ∃ p, place a = some p ∧ (p.blk = .SRT ∨ p.blk = .WHF) := by
  unfold place
  rcases h with ⟨h1, h2⟩ | ⟨h1, h2⟩
  · have hlt : a < 0x100000 := by omega
    have hq : a / 0x10000 = 11 := by omega
    simp [hlt, hq]
  · have hge : ¬ a < 0x300000 := by omega
    have hge' : ¬ a < 0x100000 := by omega
    simp [hge, hge', h2]

/-- A write of BAR0 to a register of such a block that is no lock and no counter is the plain one. -/
theorem State.pfWrite_of_inPlainBlock {a n : Nat} {r : RegRow} (h : inPlainBlock a) (hr : regAt a = some (r, n)) (hl : isLock a = false)
    (hc : ctrAt a = none) (s : State) (ag : Agent) (v : Word) : s.pfWrite ag a v = s.plainWrite ag a v := by
  obtain ⟨p, hp, hb⟩ := place_of_inPlainBlock h
  have hlt : a < 0x800000 := by
    unfold inPlainBlock at h
    omega
  have hwin : inHostWin a = false := by
    have hlow : ¬ 0x1000000 ≤ a := by omega
    simp [inHostWin, hlow]
  have hport : portAt a = none := if_neg (fun hb => by omega)
  simp only [State.pfWrite, hwin, hport, hc, hr, hp]
  rcases hb with hb | hb <;> simp [State.blockWrite, hl, hb]

theorem exec_registerWrite (ag : Agent) (bar : Bar) (off : BitVec 26) (v : Word) (s : State) :
    exec (.registerWrite ag bar off v) s = .next (s.regWrite ag bar off.toNat v) := rfl

/-- A REGISTER_WRITE that reaches such a register stores its word, after the access's TLP. -/
theorem exec_registerWrite_of_inPlainBlock {s : State} {ag : Agent} {a : BitVec 26} {n : Nat} {r : RegRow} (h : inPlainBlock a.toNat)
    (hr : regAt a.toNat = some (r, n)) (hl : isLock a.toNat = false) (hc : ctrAt a.toNat = none) (hs : s.reaches ag a.toNat = true) (v : Word) :
    exec (.registerWrite ag .regs a v) s = .next ((s.hostTlp false ag a.toNat).storeWord ag a.toNat v) := by
  have hreg : s.regWrite ag .regs a.toNat v = s.pfWrite ag a.toNat v := by
    cases ag with
    | vf f => cases hs
    | pf | steward | image => rfl
  rw [exec_registerWrite, hreg, State.pfWrite_of_inPlainBlock h hr hl hc, State.plainWrite, State.gate_reaches hs]

/-- Settles O58: the store of every register is what its row says, and a plain register's write is that store. -/
theorem registerAccessTypes : Obligations.RegisterAccessTypes := by
  refine ⟨fun ag a v r n s hr _ => State.storeWord_storedAs hr ag, fun ag a v r n s ha hr hl hc hs => ?_⟩
  obtain ⟨-, hwords, -, hctrs, -⟩ := State.hostTlp_parts s false ag a.toNat
  exact ⟨_, exec_registerWrite_of_inPlainBlock ha hr hl hc hs v, storedAs_of_congr hwords hctrs (State.storeWord_storedAs hr ag)⟩

/-- Settles O56: every table of the reset state is empty, so each reads the value of an unlisted key. -/
theorem resetSound : Obligations.ResetSound := by
  have hsound : State.reset.Sound := ⟨Tab.wf_nil _, Tab.wf_nil _, Tab.wf_nil _, nofun, by decide, Tab.wf_nil _⟩
  exact ⟨hsound, fun a => Tab.get_nil wordReset a, fun b => Tab.get_nil _ b, rfl, rfl⟩

end Sys2Proof.Machine

/-! SUPPORT. The map pipeline (04_bandwidth_assignment.md R113, R124, R135; 01_device_architecture.md R25, R27): what a build keeps of the
state and of itself, where the Assayer's times are stored, and where a released map goes. -/

namespace Sys2Proof.Machine

set_option autoImplicit false

/-- What every step of a fold leaves as it was, the fold leaves so. -/
theorem foldl_reading {α β γ : Type} (φ : β → γ) (f : β → α → β) (l : List α) (b : β) (hf : ∀ t, ∀ x ∈ l, φ (f t x) = φ t) :
    φ (l.foldl f b) = φ b :=
  List.foldlRecOn (motive := fun t => φ t = φ b) l f rfl (fun t ht x hx => (hf t x hx).trans ht)

/-! The builds under way: the operations of a build keep those of the state. -/

theorem State.setAlloc_builds (s : State) (p : Fin 32) (i : Nat) (x : AllocRt) : (s.setAlloc p i x).whf.builds = s.whf.builds := rfl

theorem State.setSlot_builds (s : State) (p : Fin 32) (i : Nat) (x : Slot) : (s.setSlot p i x).whf.builds = s.whf.builds := by
  simp only [State.setSlot_parts]

theorem State.refill_builds (s : State) (p : Fin 32) (sd : Nat) : (s.refill p sd).whf.builds = s.whf.builds := by
  unfold State.refill
  exact foldl_reading (·.whf.builds) _ _ s (fun _ _ _ => State.setAlloc_builds ..)

theorem State.debit_builds (s : State) (p : Fin 32) (sd : Nat) (snap : Tab AllocRt) (m : BwMap) :
    (s.debit p sd snap m).whf.builds = s.whf.builds := by
  unfold State.debit
  extract_lets s1 s2
  have h1 : s1.whf.builds = s.whf.builds := foldl_reading (·.whf.builds) _ _ s (by intros; exact State.setAlloc_builds ..)
  have h2 : s2.whf.builds = s1.whf.builds := foldl_reading (·.whf.builds) _ _ s1 (by intros; exact State.setAlloc_builds ..)
  refine (foldl_reading (·.whf.builds) _ _ s2 (fun t b _ => ?_)).trans (h2.trans h1)
  dsimp only
  split
  · exact State.setSlot_builds ..
  · exact State.setSlot_builds ..
  · rfl

theorem State.buildOne_builds (s : State) (b : Build) (p : Fin 32) (sd n : Nat) (r : Bool) :
    (s.buildOne b p sd n r).1.whf.builds = s.whf.builds := by
  unfold State.buildOne
  extract_lets _ _ _ s1 _ _ _ _ _ s2 s3
  have h1 : s1.whf.builds = s.whf.builds := by
    dsimp only [s1]
    split
    · rfl
    · exact State.refill_builds ..
  split
  · exact (State.debit_builds ..).trans h1
  · have h2 : s2.whf.builds = s.whf.builds := (State.debit_builds ..).trans h1
    simp only [State.count_whf, s3, h2]

/-- A side's build sets that side's map in the build and nothing else. -/
theorem State.buildOne_setMap (s : State) (b : Build) (p : Fin 32) (sd n : Nat) (r : Bool) :
    ∃ m, (s.buildOne b p sd n r).2 = b.setMap (p.val * 2 + sd) m := by
  unfold State.buildOne
  extract_lets
  split <;> exact ⟨_, rfl⟩

theorem State.buildOne_words (s : State) (b : Build) (p : Fin 32) (sd n : Nat) (r : Bool) : (s.buildOne b p sd n r).1.words = s.words :=
  (State.buildOne_within (K := (· ≠ .words)) (within_refl s) b p sd n r nofun nofun nofun nofun nofun nofun nofun).words.resolve_left (· rfl)

theorem State.swapAtBuild_builds (s : State) (p : Fin 32) : (s.swapAtBuild p).whf.builds = s.whf.builds := by
  unfold State.swapAtBuild
  split
  · split <;> rfl
  · rfl

theorem State.swapAtBuild_words (s : State) (p : Fin 32) : (s.swapAtBuild p).words = s.words :=
  (State.swapAtBuild_within (K := (· ≠ .words)) (within_refl s) p nofun).words.resolve_left (· rfl)

theorem State.closeWindows_parts (s : State) (x : Fin 32 × Nat) :
    (s.closeWindows x).words = s.words ∧ (s.closeWindows x).whf = s.whf :=
  have h := State.closeWindows_within (K := (· = .act)) (within_refl s) x rfl
  ⟨h.words.resolve_left nofun, h.whf.resolve_left nofun⟩

/-! MAP_BUILD_START (R113, R124). -/

/-- What building a side's map leaves as it was: the words, the builds under way, and of the new build CAP and its lists of maps
checked and released. -/
def buildKeeps (a : State × Build) : Words × List Build × Nat × List Nat × List Nat :=
  (a.1.words, a.1.whf.builds, a.2.cap, a.2.done, a.2.released)

theorem buildKeeps_buildOne (a : State × Build) (p : Fin 32) (sd n : Nat) (r : Bool) :
    buildKeeps (a.1.buildOne a.2 p sd n r) = buildKeeps a := by
  obtain ⟨m, hm⟩ := State.buildOne_setMap a.1 a.2 p sd n r
  simp only [buildKeeps, State.buildOne_words, State.buildOne_builds, hm, Build.setMap]

/-- Taking accepted swaps and closing windows writes no word and leaves the builds under way. -/
theorem foldl_beforeBuild {ps : List (Fin 32)} {l : List (Fin 32 × Nat)} {s t : State}
    (ht : t = l.foldl State.closeWindows (ps.foldl (fun s p => s.swapAtBuild p) s)) :
    t.words = s.words ∧ t.whf.builds = s.whf.builds := by
  subst ht
  constructor
  · rw [foldl_reading (·.words) State.closeWindows l _ (fun t x _ => (t.closeWindows_parts x).1)]
    exact foldl_reading (·.words) _ ps s (fun t p _ => t.swapAtBuild_words p)
  · rw [foldl_reading (·.whf.builds) State.closeWindows l _ (fun t x _ => congrArg Whf.builds (t.closeWindows_parts x).2)]
    exact foldl_reading (·.whf.builds) _ ps s (fun t p _ => t.swapAtBuild_builds p)

/-- Mirroring a message of each tree changes twin state alone. -/
theorem foldl_mirror (ps : List (Fin 32)) (k : Nat) (n : Fin 32 → Nat) (s : State) :
    (ps.foldl (fun s p => s.mirror k p 0xFF (n p)) s).words = s.words ∧ (ps.foldl (fun s p => s.mirror k p 0xFF (n p)) s).whf = s.whf :=
  have h : (ps.foldl (fun s p => s.mirror k p 0xFF (n p)) s).Within (· = .twn) s :=
    foldl_within ps _ (within_refl s) (fun _ p ht => State.mirror_within ht k p 0xFF (n p) rfl)
  ⟨h.words.resolve_left nofun, h.whf.resolve_left nofun⟩

theorem execMapBuildStart_of_safe {s : State} (h : s.flt.safe = true) : execMapBuildStart s = .next s := if_pos h

/-- A build stores CAP and stands last among the builds, with CAP, no map checked and none released. -/
theorem execMapBuildStart_effect {s : State} (h : s.flt.safe = false) {cap : Nat} (hcap : cap = s.capOf (s.rd Reg.WHF_CORE_RATE.SUSTAIN)) :
    Completes (execMapBuildStart s) (fun t => t.words = (s.wr Reg.WHF_CAP_STATUS.CAP cap).words ∧
      ∃ b, t.whf.builds = s.whf.builds.drop (s.whf.builds.length - 4) ++ [b] ∧ b.done = [] ∧ b.released = [] ∧ b.cap = cap) := by
  subst hcap
  rw [execMapBuildStart, if_neg (by simp [h])]
  extract_lets cap s1 image r built old _ _ s2
  have hs1 : s1.words = (s.wr Reg.WHF_CAP_STATUS.CAP cap).words ∧ s1.whf.builds = (s.wr Reg.WHF_CAP_STATUS.CAP cap).whf.builds :=
    foldl_beforeBuild (ht := rfl)
  obtain ⟨hw, hb⟩ := hs1
  have hr : buildKeeps r = buildKeeps (s1, s1.newBuild cap image) := foldl_reading buildKeeps _ _ _ (fun _ _ _ => buildKeeps_buildOne ..)
  simp only [buildKeeps, Prod.mk.injEq] at hr
  obtain ⟨hrw, hrb, hrcap, hrdone, hrrel⟩ := hr
  clear_value r s1
  obtain ⟨hmw, hmb⟩ := foldl_mirror ports 3 s1.buildFrame s2
  refine ⟨_, rfl, hmw.trans (hrw.trans hw), r.2, ?_, hrdone, hrrel, hrcap⟩
  calc _ = s2.whf.builds := congrArg Whf.builds hmb
    _ = r.1.whf.builds.drop (r.1.whf.builds.length - 4) ++ [r.2] := rfl
    _ = _ := by rw [hrb, hb]; rfl

/-! ASSAYER_CHECK (R135). -/

theorem execAssayerCheck_of_all_checked {s : State} (h : s.whf.builds.all (fun b => b.checked) = true) (x y : BitVec 16)
    (l : List (Fin 32 × Side)) : execAssayerCheck x y l s = .next s := by
  have hnone : s.whf.builds.find? (fun b => !b.checked) = none := by simpa using h
  rw [execAssayerCheck, hnone]

/-- The Assayer's two times are stored last among the words. -/
theorem execAssayerCheck_times {s : State} (h : s.whf.builds.any (fun b => !b.checked) = true) (x y : BitVec 16) (l : List (Fin 32 × Side)) :
    Completes (execAssayerCheck x y l s) (fun t => ∃ u : State,
      t.words = ((u.wr Reg.WHF_STATUS.LAST_BUILD x.toNat).wr Reg.WHF_STATUS.LAST_ASSAY y.toNat).words) := by
  obtain ⟨b, hb⟩ := Option.isSome_iff_exists.1 ((List.find?_isSome (p := fun b : Build => !b.checked)).2 (List.any_eq_true.1 h))
  rw [execAssayerCheck, hb]
  exact ⟨_, rfl, _, rfl⟩

theorem State.rd_assayTimes (u : State) (x y : BitVec 16) :
    ((u.wr Reg.WHF_STATUS.LAST_BUILD x.toNat).wr Reg.WHF_STATUS.LAST_ASSAY y.toNat).rd Reg.WHF_STATUS.LAST_BUILD = x.toNat ∧
    ((u.wr Reg.WHF_STATUS.LAST_BUILD x.toNat).wr Reg.WHF_STATUS.LAST_ASSAY y.toNat).rd Reg.WHF_STATUS.LAST_ASSAY = y.toNat := by
  constructor
  · rw [State.rd_wr_bits _ _ _ _ (by decide) (by decide) (by decide), State.rd_wr _ _ _ (by decide)]
    exact Nat.mod_eq_of_lt x.isLt
  · rw [State.rd_wr _ _ _ (by decide)]
    exact Nat.mod_eq_of_lt y.isLt

/-! MAP_RELEASE (R25, R27, R139). -/

theorem State.carry_pon (s : State) (p : Fin 32) (sd : Nat) (m : BwMap) : (s.carry p sd m).pon = s.pon :=
  (State.carry_within (K := (· ≠ .pon)) (within_refl s) p sd m nofun nofun nofun nofun nofun nofun).pon.resolve_left (· rfl)

theorem State.mirror_pon (s : State) (k : Nat) (p : Fin 32) (side x : Nat) : (s.mirror k p side x).pon = s.pon := by
  simp only [State.mirror_parts]

theorem State.inflight_pon (s : State) (p : Fin 32) (m : BwMap) : (s.inflight p m).pon = s.pon := by
  simp only [State.inflight_parts]

/-- The oldest build's map of a side, checked and not yet released, enters the side's buffer, or is discarded where the lock of its
frame has passed. -/
theorem execMapRelease_oldest {s : State} {p : Fin 32} {sd : Side} {b : Build} {r : List Build} (hbs : s.whf.builds = b :: r)
    (hdone : b.done.contains (p.val * 2 + sd.n) = true) (hhas : b.has (p.val * 2 + sd.n) = true) (hrel : b.released = []) :
    Completes (execMapRelease p sd s) (fun t =>
      if (∃ f, (s.side p sd.n).lastLock = some f ∧ (b.map (p.val * 2 + sd.n)).sfc ≤ f) then t.pon = s.pon
      else (t.side p sd.n).buf = (s.side p sd.n).buf ++ [b.map (p.val * 2 + sd.n)]) := by
  unfold execMapRelease
  extract_lets k ready _ s1
  have hfind : s.whf.builds.find? ready = some b := by
    rw [hbs]
    refine List.find?_cons_of_pos ?_
    change (b.done.contains k && b.has k && !b.released.contains k) = true
    rw [hdone, hhas, hrel]
    rfl
  split
  · next h => cases hfind.symm.trans h
  next b' h =>
  obtain rfl : b = b' := Option.some.inj (hfind.symm.trans h)
  extract_lets m s2 x s3 s4
  have hpon : s2.pon = s.pon := by simp only [s2, State.count_pon, State.inc_pon, s1]
  have hx : x = s.side p sd.n := State.side_congr hpon p sd.n
  have hs3 : (if b.carried.contains k then s3 else s3.carry p sd.n m).pon = s.pon := by
    have h3 : s3.pon = s.pon := (State.inc_pon ..).trans hpon
    split
    · exact h3
    · exact (State.carry_pon ..).trans h3
  have hs4 : (((if s.owned p.val then s4.inflight p m else s4).mirror 2 p sd.n m.sfc).side p sd.n).buf = x.buf ++ [m] := by
    have h4 : (s4.side p sd.n).buf = x.buf ++ [m] := congrArg PonSide.buf (State.side_setSide_same ..)
    rw [State.side_congr (State.mirror_pon ..)]
    split
    · exact (congrArg PonSide.buf (State.side_congr (State.inflight_pon ..) ..)).trans h4
    · exact h4
  rw [hx] at hs4 ⊢
  cases hl : (s.side p sd.n).lastLock with
  | none => exact ⟨_, rfl, (if_neg (by simp)).mpr hs4⟩
  | some f =>
    by_cases hf : m.sfc ≤ f
    · exact ⟨_, if_pos (decide_eq_true hf), (if_pos ⟨f, rfl, hf⟩).mpr hs3⟩
    · exact ⟨_, if_neg (by simpa using hf), (if_neg (by simpa using hf)).mpr hs4⟩

/-- Settles O10, command by command: what a build leaves in the words and among the builds, where the Assayer's times stand, and what a
released map does to its side's buffer. -/
theorem mapPipeline : Obligations.MapPipeline := by
  refine ⟨fun s h => execMapBuildStart_of_safe h, fun s h => ?_, fun x y l s h => execAssayerCheck_of_all_checked h x y l,
    fun x y l s h => ?_, fun p sd b r s hbs hdone hhas hrel => execMapRelease_oldest hbs hdone hhas hrel⟩
  · obtain ⟨t, ht, hw, hb⟩ := execMapBuildStart_effect h rfl
    exact ⟨t, ht, (State.rd_congr hw _).trans (State.rd_wr _ _ _ (by decide)), hb⟩
  · obtain ⟨t, ht, u, hw⟩ := execAssayerCheck_times h x y l
    obtain ⟨hbuild, hassay⟩ := u.rd_assayTimes x y
    exact ⟨t, ht, (State.rd_congr hw _).trans hbuild, (State.rd_congr hw _).trans hassay⟩

end Sys2Proof.Machine

/-! SUPPORT. Frames on the uplinks, the pace window and the loss of an upstream side (01_device_architecture.md R14, R15, R18, R21;
02_pon_line_framing.md R61): what each operation on a frame's way in and out leaves as it was, and what the rest of a window's end keeps
of SUSTAIN. -/

namespace Sys2Proof.Machine

set_option autoImplicit false

/-! UPLINK_FRAME_RX (R15, R148, R377). -/

theorem State.ptpStamp_of_not_event {fr : List Byte} (h : ptpEvent fr = false) (s : State) (tx : Bool) (n : Nat) (one : Bool) :
    s.ptpStamp tx n fr one = s := by
  rw [State.ptpStamp, h]
  rfl

/-- A frame above the largest size is counted and goes no further (R150). -/
theorem State.intake_oversize {fr : List Byte} (h : 16383 < fr.length) (s : State) (n : Nat) (isl : Source) (full : Bool) (x : Parsed) :
    s.intake n isl fr full x = (s.inc (Cnt.XPR_PKTS_IN n)).inc (Cnt.XPR_OVERSIZE n) := if_pos h

theorem State.ulkFec_parts (s : State) (n : Nat) (f : Nat × Nat × Nat) : (s.ulkFec n f).fwd = s.fwd ∧ (s.ulkFec n f).cpg = s.cpg := by
  simp only [State.ulkFec, State.count_fwd, State.count_cpg, and_self]

/-- The codeword counts are those of the uplink blocks: a counter below them stands. -/
theorem State.ctr_ulkFec_of_lt {a : Nat} (ha : a < 0x320000) (s : State) (n : Nat) (f : Nat × Nat × Nat) : (s.ulkFec n f).ctr a = s.ctr a := by
  have h1 : a ≠ Cnt.ULK_FEC_CW n := by unfold Cnt.ULK_FEC_CW; omega
  have h2 : a ≠ Cnt.ULK_FEC_CORR n := by unfold Cnt.ULK_FEC_CORR; omega
  have h3 : a ≠ Cnt.ULK_FEC_UNCORR n := by unfold Cnt.ULK_FEC_UNCORR; omega
  rw [State.ulkFec, State.ctr_count, if_neg h3, State.ctr_count, if_neg h2, State.ctr_count, if_neg h1]

theorem execUplinkFrameRx_closed {n : Fin 24} {s : State} (h : s.bit (Reg.ULK_STATUS.LINK_UP n.val) = false ∨ s.flt.safe = true)
    (fr : List Byte) (full : Bool) (f : Nat × Nat × Nat) : execUplinkFrameRx n fr full f s = .next (s.ulkFec n.val f) := by
  rw [execUplinkFrameRx, if_pos]
  rcases h with h | h <;> simp [h]

theorem execUplinkFrameRx_open {n : Fin 24} {s : State} (hup : s.bit (Reg.ULK_STATUS.LINK_UP n.val) = true) (hsafe : s.flt.safe = false)
    (fr : List Byte) (full : Bool) (f : Nat × Nat × Nat) : execUplinkFrameRx n fr full f s =
      .next (((s.ulkFec n.val f).ptpStamp false n.val fr false).intake n.val (srcUlk n.val) fr full (s.parse n.val fr none)) := by
  rw [execUplinkFrameRx, if_neg (by simp [hup, hsafe])]

/-- An oversize frame that is no PTP event message: two counts, and nothing enters. -/
theorem execUplinkFrameRx_oversize {n : Fin 24} {s : State} (hup : s.bit (Reg.ULK_STATUS.LINK_UP n.val) = true) (hsafe : s.flt.safe = false)
    {fr : List Byte} (hlen : 16383 < fr.length) (hptp : ptpEvent fr = false) (full : Bool) (f : Nat × Nat × Nat) :
    execUplinkFrameRx n fr full f s = .next (((s.ulkFec n.val f).inc (Cnt.XPR_PKTS_IN n.val)).inc (Cnt.XPR_OVERSIZE n.val)) := by
  rw [execUplinkFrameRx_open hup hsafe, State.ptpStamp_of_not_event hptp, State.intake_oversize hlen]

/-- The two counts of an oversize frame, over any codeword counts. -/
theorem State.ctr_oversize (s : State) (n : Fin 24) (f : Nat × Nat × Nat) :
    let t := ((s.ulkFec n.val f).inc (Cnt.XPR_PKTS_IN n.val)).inc (Cnt.XPR_OVERSIZE n.val)
    t.ctr (Cnt.XPR_PKTS_IN n.val) = (s.ctr (Cnt.XPR_PKTS_IN n.val)).add 1 ∧ t.ctr (Cnt.XPR_OVERSIZE n.val) = (s.ctr (Cnt.XPR_OVERSIZE n.val)).add 1 := by
  have hin : Cnt.XPR_PKTS_IN n.val < 0x320000 := by unfold Cnt.XPR_PKTS_IN; omega
  have hover : Cnt.XPR_OVERSIZE n.val < 0x320000 := by unfold Cnt.XPR_OVERSIZE; omega
  have hne : Cnt.XPR_PKTS_IN n.val ≠ Cnt.XPR_OVERSIZE n.val := by unfold Cnt.XPR_PKTS_IN Cnt.XPR_OVERSIZE; omega
  constructor
  · rw [State.ctr_inc, if_neg hne, State.ctr_inc, if_pos rfl, State.ctr_ulkFec_of_lt hin]
  · rw [State.ctr_inc, if_pos rfl, State.ctr_inc, if_neg hne.symm, State.ctr_ulkFec_of_lt hover]

/-! UPLINK_FRAME_TX (R14, R328). -/

theorem State.unref_egressOf (s : State) (h k : Nat) : (s.unref h).egressOf k = s.egressOf k := by
  unfold State.unref
  extract_lets b
  split
  · rfl
  · split
    · simp only [State.egressOf, State.raise_cpg, State.inc_cpg]
    · split <;> rfl

theorem State.unref_shl (s : State) (h : Nat) : (s.unref h).shl = s.shl := by
  simp only [State.unref_parts]

theorem State.unref_fwd (s : State) (h : Nat) : (s.unref h).fwd = s.fwd := by
  simp only [State.unref_parts]

theorem State.ptpStamp_parts (s : State) (tx : Bool) (n : Nat) (fr : List Byte) (one : Bool) :
    (s.ptpStamp tx n fr one).shl = s.shl ∧ (s.ptpStamp tx n fr one).fwd = s.fwd ∧ (s.ptpStamp tx n fr one).cpg = s.cpg :=
  have hw := State.ptpStamp_within (K := (· ∈ [Part.ctrs, .flt, .hrl, .tly])) (within_refl s) tx n fr one (by simp) (by simp) (by simp) (by simp)
  ⟨hw.shl.resolve_left (by simp), hw.fwd.resolve_left (by simp), hw.cpg.resolve_left (by simp)⟩

/-- The state with the frames `r` left in an egress stage. -/
def State.egressTaken (s : State) (k : Nat) (r : List Out) : State :=
  { s with cpg := { s.cpg with egress := Tab.set (fun _ => []) s.cpg.egress k r } }

/-- The state as a frame of bytes `fr` leaves whole from an uplink's egress stage: taken from it and stamped (R377). -/
def State.frameTaken (s : State) (n : Nat) (r : List Out) (fr : List Byte) : State :=
  (s.egressTaken (64 + n) r).ptpStamp true n fr false

theorem State.frameTaken_parts (s : State) (n : Nat) (r : List Out) (fr : List Byte) : (s.frameTaken n r fr).egressOf (64 + n) = r ∧
    (s.frameTaken n r fr).shl = s.shl ∧ (s.frameTaken n r fr).fwd = s.fwd := by
  obtain ⟨hshl, hfwd, hcpg⟩ := (s.egressTaken (64 + n) r).ptpStamp_parts true n fr false
  exact ⟨(congrArg (fun c : Cpg => Tab.get (fun _ => []) c.egress (64 + n)) hcpg).trans (Tab.get_set_same ..), hshl, hfwd⟩

/-- What an uplink has sent last is the frame with its check sequence. -/
theorem State.ulkSent_ulkOut (s : State) (n : Nat) (fr : List Byte) (good : Bool) :
    Tab.get (fun _ => []) (s.ulkOut n fr good).shl.ulkSent n = fr ++ frameCheck fr good := Tab.get_set_same ..

theorem State.cutOf_congr {t s : State} (h : t.shl = s.shl) (k : Nat) : t.cutOf k = s.cutOf k := by
  simp only [State.cutOf, h]

theorem State.cutOf_setCut_same (s : State) (k : Nat) (y : Option (Nat × List Byte)) : (s.setCut k y).cutOf k = y := Tab.get_set_same ..

theorem State.setCut_ulkSent (s : State) (k : Nat) (y : Option (Nat × List Byte)) : (s.setCut k y).shl.ulkSent = s.shl.ulkSent := rfl

theorem execUplinkFrameTx_empty {n : Fin 24} {s : State} (h : s.egressOf (64 + n.val) = []) (u : Option (BitVec 14))
    (c : Option (Fin 16 × BitVec 14)) (o : Bool) : execUplinkFrameTx n u c o s = .next s := by
  rw [execUplinkFrameTx, h]

section
variable {n : Fin 24} {s : State} {x : Out} {r : List Out} (heg : s.egressOf (64 + n.val) = x :: r)
  (hup : s.bit (Reg.ULK_STATUS.LINK_UP n.val) = true) (hsafe : s.flt.safe = false)
include heg hup hsafe

/-- A frame the boundary FIFO runs empty in is cut, and ends with an inverted check sequence. -/
theorem execUplinkFrameTx_cut {b : BitVec 14} (hlo : 512 ≤ b.toNat) (hhi : b.toNat < x.bytes.length) (o : Bool) :
    execUplinkFrameTx n (some b) none o s = .next (((({ s.egressTaken (64 + n.val) r with
      fwd := { s.fwd with underruns := Tab.mod (fun _ => 0) s.fwd.underruns n.val (fun c => (c + 1) % 2 ^ 48) } } : State).ulkOut
        n.val (x.bytes.take b.toNat) false).raise .BOUNDARY_UNDERRUN (srcUlk n.val) 0).unref x.d.handle) := by
  simp only [execUplinkFrameTx, heg, hup, hsafe, if_pos (And.intro hlo hhi)]
  rfl

/-- A frame that is not cut leaves whole, with its check sequence. -/
theorem execUplinkFrameTx_whole {u : Option (BitVec 14)} (hu : ∀ b, u = some b → b.toNat < 512 ∨ x.bytes.length ≤ b.toNat) :
    execUplinkFrameTx n u none false s =
      .next (((s.frameTaken n.val r x.bytes).ulkOut n.val x.bytes true).unref x.d.handle) := by
  cases u with
  | none => simp only [execUplinkFrameTx, heg, hup, hsafe]; rfl
  | some b =>
    have hb : ¬ (512 ≤ b.toNat ∧ b.toNat < x.bytes.length) := by
      have := hu b rfl
      omega
    simp only [execUplinkFrameTx, heg, hup, hsafe, if_neg hb]
    rfl

/-- A frame that arrives sealed begins only where cut-through may, and its check sequence waits (R328). -/
theorem execUplinkFrameTx_sealed (c : Fin 16) (g : BitVec 14) : execUplinkFrameTx n none (some (c, g)) false s =
    .next (if s.mayCut c.val x.bytes.length g.toNat = true then
      ((s.frameTaken n.val r x.bytes).setCut c.val (some (n.val, x.bytes))).unref x.d.handle
    else s) := by
  cases hc : s.mayCut c.val x.bytes.length g.toNat <;> simp only [execUplinkFrameTx, heg, hup, hsafe, hc] <;> rfl

end

/-- When the MAC may begin a sealed frame, in the words of R328. -/
theorem State.mayCut_iff (s : State) (k len received : Nat) : s.mayCut k len received = true ↔
    (s.word Reg.KEY_CTRL.addr).getLsbD k = true ∧ s.cutOf k = none ∧ min len ((len * 297 + 424) / 425 + 512) ≤ received := by
  simp only [State.mayCut, cutStart, Bool.and_eq_true, Option.isNone_iff_eq_none, decide_eq_true_eq, and_assoc]
  rfl

/-! PACE_WINDOW_END (R18, R21). -/

/-- Water-filling gives shares to the sources it was asked for. -/
theorem waterFill_mem {fuel : Nat} {l : List Taker} {left : Nat} {x : Nat × Nat} (h : x ∈ waterFill fuel l left) : ∃ t ∈ l, t.n = x.1 := by
  induction fuel generalizing l left with
  | zero => cases h
  | succ fuel ih =>
    unfold waterFill at h
    extract_lets w leave at h
    split at h
    · obtain ⟨t, ht, rfl⟩ := List.mem_map.1 h
      exact ⟨t, ht, rfl⟩
    · rcases List.mem_append.1 h with h | h
      · obtain ⟨t, ht, rfl⟩ := List.mem_map.1 h
        exact ⟨t, List.mem_of_mem_filter ht, rfl⟩
      · obtain ⟨t, ht, e⟩ := ih h
        exact ⟨t, List.mem_of_mem_filter ht, e⟩

/-- What the rest of a window's end leaves as it was: SUSTAIN and Wharfinger's filtered reading. -/
def paceKept (s : State) : Nat × Option Nat := (s.rd Reg.WHF_CORE_RATE.SUSTAIN, s.fwd.whfPace)

theorem paceKept_congr {t s : State} (hw : t.words = s.words) (hf : t.fwd = s.fwd) : paceKept t = paceKept s :=
  Prod.ext (State.rd_congr hw _) (congrArg Fwd.whfPace hf)

/-- SUSTAIN stored, within its 16 bits. -/
theorem paceKept_wr_sustain (s : State) (v : Nat) :
    paceKept (s.wr Reg.WHF_CORE_RATE.SUSTAIN (min 65535 v)) = (min 65535 v, s.fwd.whfPace) :=
  have hv : min 65535 v < 2 ^ 16 := Nat.lt_of_le_of_lt (Nat.min_le_left ..) (by decide)
  Prod.ext ((State.rd_wr _ _ _ (by decide)).trans (Nat.mod_eq_of_lt hv)) rfl

theorem State.setAdm_paceKept (s : State) (n : Nat) (x : AdmSrc) : paceKept (s.setAdm n x) = paceKept s := rfl

theorem State.admitNext_paceKept (s : State) {n : Nat} (hn : n < 25) (b : Nat) : paceKept (s.admitNext n b) = paceKept s := by
  have ha (v : Nat) (t : State) (lo w : Nat) : (t.wr ⟨0xC0200 + n * 4, lo, w⟩ v).rd Reg.WHF_CORE_RATE.SUSTAIN = t.rd Reg.WHF_CORE_RATE.SUSTAIN :=
    State.rd_wr_addr t _ _ v (by change 0x300108 ≠ 0xC0200 + n * 4; omega)
  unfold State.admitNext
  extract_lets y q meter was s1 s2
  have h1 : paceKept s1 = paceKept s := by simp only [paceKept, s1, ha, State.wr_fwd]
  have h2 : paceKept s2 = paceKept s1 := by
    dsimp only [s2]
    split
    · exact paceKept_congr (State.raise_words ..) (State.raise_fwd ..)
    · rfl
  exact (State.setAdm_paceKept ..).trans (h2.trans h1)

theorem State.admission_paceKept (s : State) : paceKept s.admission = paceKept s := by
  unfold State.admission
  refine foldl_reading paceKept _ _ s (fun t x hx => State.admitNext_paceKept t ?_ x.2)
  obtain ⟨y, hy, hn⟩ := waterFill_mem hx
  obtain ⟨i, hi, rfl⟩ := List.mem_map.1 hy
  exact hn ▸ List.mem_range.1 hi

theorem State.startTest_sustain (s : State) (id : Nat) {p : Golden} (hp : p.d.epoch < 16) (k : Nat) :
    (s.startTest id p k).rd Reg.WHF_CORE_RATE.SUSTAIN = s.rd Reg.WHF_CORE_RATE.SUSTAIN := by
  unfold State.startTest
  extract_lets g
  split
  · rfl
  · exact State.rd_wr_addr _ _ _ _ (by change 0x300108 ≠ 0xD0280 + p.d.epoch * 4; omega)

theorem State.published_lt (s : State) : s.published < 16 := Nat.mod_lt _ (by decide)

theorem State.beginTest_sustain (s : State) (p : Golden) (ix under : Nat) (refs : List Nat) :
    (s.beginTest p ix under refs).rd Reg.WHF_CORE_RATE.SUSTAIN = s.rd Reg.WHF_CORE_RATE.SUSTAIN := by
  unfold State.beginTest
  extract_lets _ q id _ s1
  exact foldl_reading (·.rd Reg.WHF_CORE_RATE.SUSTAIN) _ (under :: refs) s1 (fun t k _ => State.startTest_sustain t id (p := q) s.published_lt k)

theorem State.idleDispatch_sustain (s : State) (room : Nat → Nat) :
    (s.idleDispatch room).rd Reg.WHF_CORE_RATE.SUSTAIN = s.rd Reg.WHF_CORE_RATE.SUSTAIN := by
  unfold State.idleDispatch
  split
  · rfl
  · refine foldl_reading (fun a : State × List Nat => a.1.rd Reg.WHF_CORE_RATE.SUSTAIN) _ (List.range 64) (s, []) (fun a g _ => ?_)
    extract_lets left es gs
    split
    · exact State.beginTest_sustain ..
    · rfl

theorem State.idleDispatch_fwd (s : State) (room : Nat → Nat) : (s.idleDispatch room).fwd = s.fwd :=
  (State.idleDispatch_within (K := (· ≠ .fwd)) (within_refl s) room nofun nofun nofun).fwd.resolve_left (· rfl)

theorem State.idleDispatch_paceKept (s : State) (room : Nat → Nat) : paceKept (s.idleDispatch room) = paceKept s :=
  Prod.ext (s.idleDispatch_sustain room) (congrArg Fwd.whfPace (s.idleDispatch_fwd room))

/-- A window's end stores SUSTAIN from the readings taken in, and keeps it and Wharfinger's reading through admission and dispatch. -/
theorem execPaceWindowEnd_effect (d : List (Fin 64 × Nat)) (w : Nat) (s : State) {s1 : State}
    (hs1 : s1 = s.pace ((List.range 64).map (fun g => ((d.find? (fun x => x.1.val == g)).map (·.2)).getD 0)) w) :
    Completes (execPaceWindowEnd d w s) (fun t => paceKept t = (min 65535 s1.sustain, s1.fwd.whfPace)) := by
  subst hs1
  unfold execPaceWindowEnd
  extract_lets reads s1 s2 credit room rooms s3
  have h3 : paceKept s3 = paceKept s2 := by
    refine foldl_reading paceKept _ (List.range 64) s2 (fun t g _ => ?_)
    split <;> rfl
  exact ⟨_, rfl, (State.idleDispatch_paceKept ..).trans (h3.trans ((State.admission_paceKept _).trans (paceKept_wr_sustain ..)))⟩

/-! US_LOSS_ONSET (R61). -/

/-- The onset of an upstream loss: STATUS is set, and with TRG_USLOSS 0 no release is triggered. -/
theorem execUsLossOnset_g50 {p : Fin 32} {s : State} (hrun : 3 ≤ (s.side p 0).lossRun) (hbit : s.bit (Reg.PT_US_STATUS.US_LOSS50 p.val) = false)
    (htrg : s.bit Reg.TWN_CFG.TRG_USLOSS = false) :
    Completes (execUsLossOnset p .g50 s) (fun t => t.words = (s.wr (Reg.PT_US_STATUS.US_LOSS50 p.val) 1).words ∧ t.twn = s.twn) := by
  unfold execUsLossOnset
  extract_lets x f s1 seen
  have hne : ¬ (x.lossRun < 3 ∨ s.bit f = true) := by
    rintro (h | h)
    · exact absurd h (Nat.not_lt.2 hrun)
    · exact Bool.false_ne_true (hbit.symm.trans h)
  have hw : s1.words = (s.wr (Reg.PT_US_STATUS.US_LOSS50 p.val) 1).words := rfl
  have htrg1 : s1.bit Reg.TWN_CFG.TRG_USLOSS = false := by
    rw [State.bit_congr hw]
    exact (congrArg (· != 0) (State.rd_wr_addr s _ _ 1 (by change 0x50000 ≠ 0x100088 + p.val * 0x10000; omega))).trans htrg
  rw [if_neg hne, htrg1]
  exact ⟨_, rfl, hw, rfl⟩

/-- Settles O26, command by command: what the frame's way in and out, the window's end and the loss's onset leave (the lemmas above),
read at the counters, the egress stage and the fields the statement names. -/
theorem uplinkFramesPaceAndLoss : Obligations.UplinkFramesPaceAndLoss := by
  refine ⟨fun n fr full f s h => execUplinkFrameRx_closed h fr full f, fun n fr full f s hup hsafe hlen hptp => ?_,
    fun n fr full f s hup hsafe => execUplinkFrameRx_open hup hsafe fr full f, fun n u c o s h => execUplinkFrameTx_empty h u c o,
    fun n b o x r s heg hup hsafe hlo hhi => ?_, fun n u x r s heg hup hsafe hu => ?_, fun n c g x r s heg hup hsafe => ?_,
    fun d w s => ?_, fun p s hrun hbit htrg => ?_, fun p s h => if_pos h⟩
  · obtain ⟨hin, hover⟩ := s.ctr_oversize n f
    obtain ⟨hfwd, hcpg⟩ := s.ulkFec_parts n.val f
    exact ⟨_, execUplinkFrameRx_oversize hup hsafe hlen hptp full f, hin, hover,
      by rw [State.inc_fwd, State.inc_fwd, hfwd], by rw [State.inc_cpg, State.inc_cpg, hcpg]⟩
  · refine ⟨_, execUplinkFrameTx_cut heg hup hsafe hlo hhi o, ?_, ?_, ?_⟩
    · exact (State.unref_egressOf ..).trans (Tab.get_set_same ..)
    · rw [State.unref_shl, State.raise_shl, State.ulkSent_ulkOut]
      rfl
    · rw [State.unref_fwd, State.raise_fwd]
      exact Tab.get_set_same ..
  · obtain ⟨hegress, -, hfwd⟩ := s.frameTaken_parts n.val r x.bytes
    refine ⟨_, execUplinkFrameTx_whole heg hup hsafe hu, (State.unref_egressOf ..).trans hegress,
      congrArg Fwd.underruns ((State.unref_fwd ..).trans hfwd), ?_⟩
    rw [State.unref_shl, State.ulkSent_ulkOut]
    rfl
  · obtain ⟨hegress, hshl, -⟩ := s.frameTaken_parts n.val r x.bytes
    refine ⟨_, execUplinkFrameTx_sealed heg hup hsafe c g, ?_⟩
    simp only [← State.mayCut_iff]
    split
    · refine ⟨(State.unref_egressOf ..).trans hegress, ?_, ?_⟩
      · rw [State.cutOf_congr (State.unref_shl ..), State.cutOf_setCut_same]
      · rw [State.unref_shl, State.setCut_ulkSent, hshl]
    · rfl
  · obtain ⟨t, ht, hk⟩ := execPaceWindowEnd_effect d w s rfl
    exact ⟨_, rfl, t, ht, congrArg Prod.fst hk, congrArg Prod.snd hk⟩
  · obtain ⟨t, ht, hw, htwn⟩ := execUsLossOnset_g50 hrun hbit htrg
    exact ⟨t, ht, (State.bit_congr hw _).trans (State.bit_wr _ _ _ (by decide : 29 + 1 ≤ 32)), htwn⟩

end Sys2Proof.Machine

/-! SUPPORT. The frame tick in safe state (02_pon_line_framing.md R32, R40): a frame locked before is lost. -/

namespace Sys2Proof.Machine

set_option autoImplicit false

/-! FRAME_TICK in safe state (R32, R40, Table 14-9). -/

/-- A lost frame is locked no more (R40). -/
theorem State.locked_loseFrame (s : State) (p : Fin 32) (sd : Nat) (l : Locked) : ((s.loseFrame p sd l).side p sd).locked = none := by
  unfold State.loseFrame
  extract_lets x s1 d s2
  have h1 : (s1.side p sd).locked = none := by
    rw [State.side_congr (State.carry_pon ..), State.side_setSide_same]
  have hfold : (l.ploam.foldl (fun s m => if l.acked.contains m then s else s.awaitAck p sd l.sfc m) s2).pon = s2.pon := by
    refine foldl_reading State.pon _ _ _ (fun t m _ => ?_)
    split
    · rfl
    · exact (State.awaitAck_within (K := (· ≠ .pon)) (within_refl t) p sd l.sfc m nofun nofun).pon.resolve_left (· rfl)
  exact (congrArg PonSide.locked (State.side_congr hfold ..)).trans h1

theorem State.locked_loseLocked (s : State) (p : Fin 32) (sd : Nat) : ((s.loseLocked p sd).side p sd).locked = none := by
  unfold State.loseLocked
  split
  · exact State.locked_loseFrame ..
  · next h => exact h

theorem execFrameTick_of_safe {s : State} (hstage : s.stage ≠ 0) (hsafe : s.flt.safe = true) (p : Fin 32) (a b : Nat) :
    execFrameTick p a b s = .next ((s.loseLocked p 0).loseLocked p 1) := by
  rw [execFrameTick, if_neg hstage, if_pos hsafe]

/-- In safe state with a frame locked on the 10G side of port 0 before. -/
def safeWithFrame : State :=
  { (State.reset.wr Reg.BOOT_STATUS.STAGE 3).setSide 0 1 { PonSide.reset with locked := some ⟨0, ⟨0, [], []⟩, false, [], [], []⟩ } with
    flt := { Flt.reset with safe := true } }

/-- Refutes O1: a frame tick in safe state is no step without effect. A frame locked before safe state is lost at the tick (R40), as
`safeWithFrame` shows. -/
theorem not_frameTickAndMapLock : ¬ Obligations.FrameTickAndMapLock := by
  rintro ⟨⟨hstands, -⟩, -⟩
  have hkept : exec (.frameTick 0 0 0) safeWithFrame = .next safeWithFrame := hstands 0 0 0 safeWithFrame (.inr rfl)
  have hlost : exec (.frameTick 0 0 0) safeWithFrame = .next ((safeWithFrame.loseLocked 0 0).loseLocked 0 1) :=
    execFrameTick_of_safe (by decide) rfl 0 0 0
  have heq : (safeWithFrame.loseLocked 0 0).loseLocked 0 1 = safeWithFrame := Host.Outcome.next.inj (hlost.symm.trans hkept)
  have hnone : (safeWithFrame.side 0 1).locked = none := heq ▸ State.locked_loseLocked (safeWithFrame.loseLocked 0 0) 0 1
  exact absurd hnone (by decide)

end Sys2Proof.Machine

/-! SUPPORT. The registers of the PON line (02_pon_line_framing.md R33, R40, R62): what a written phase offset, downstream enable or body
leaves of the port and its sides. -/

namespace Sys2Proof.Machine

set_option autoImplicit false

/-! Readings of a side and of a laser. -/

theorem State.side_setSide_of_ne (s : State) (p : Fin 32) {sd sd' : Nat} (h : sd' ≠ sd) (x : PonSide) :
    (s.setSide p sd x).side p sd' = s.side p sd' := Tab.get_set_ne _ _ _ _ _ (by omega)

theorem State.sideEn_congr {t s : State} (h : t.words = s.words) (p : Fin 32) (sd : Nat) : t.sideEn p sd = s.sideEn p sd := by
  simp only [State.sideEn, State.bit, h]

theorem State.txOn_of_not_sideEn {s : State} {p : Fin 32} {sd : Nat} (h : s.sideEn p sd = false) : s.txOn p sd = false := by
  simp [State.txOn, State.txAllowed, h]

/-- The TLP of a host's access lights no laser and puts none out. -/
theorem State.txOn_hostTlp (s : State) (rd : Bool) (ag : Agent) (a : Nat) (p : Fin 32) (sd : Nat) :
    (s.hostTlp rd ag a).txOn p sd = s.txOn p sd :=
  State.txOn_congr (by simp) (by simp) (by simp) (by simp) (by simp) p sd

theorem State.hostTlp_pon (s : State) (rd : Bool) (ag : Agent) (a : Nat) : (s.hostTlp rd ag a).pon = s.pon := by simp

theorem State.hostTlp_words (s : State) (rd : Bool) (ag : Agent) (a : Nat) : (s.hostTlp rd ag a).words = s.words := by simp

theorem State.storeWord_pon (s : State) (ag : Agent) (a : Nat) (v : Word) : (s.storeWord ag a v).pon = s.pon := by simp

theorem State.mirror_words (s : State) (k : Nat) (p : Fin 32) (side x : Nat) : (s.mirror k p side x).words = s.words := by simp

/-! PHASE_OFFSET_WRITE (R33). -/

section
variable {s : State} {ag : Agent} {p : Fin 32} (hr : s.reaches ag (Reg.PT_PHASE.addr p.val) = true) (v : Word)
include hr

theorem execPhaseOffsetWrite_lit (hon : s.txOn p 0 = true ∨ s.txOn p 1 = true) : execPhaseOffsetWrite ag p v s =
    .next ((s.hostTlp false ag (Reg.PT_PHASE.addr p.val)).wr (Reg.PT_US_STATUS.PHASE_REFUSED p.val) 1) := by
  rw [execPhaseOffsetWrite, State.gate_reaches hr, if_pos]
  simpa only [State.txOn_hostTlp, Bool.or_eq_true] using hon

/-- With both lasers off the offset is the port's, as the register now reads. -/
theorem execPhaseOffsetWrite_dark (hoff : ¬ (s.txOn p 0 = true ∨ s.txOn p 1 = true)) : Completes (execPhaseOffsetWrite ag p v s) (fun t =>
    (t.port p).phase = some (t.rd (Reg.PT_PHASE.OFFSET p.val)) ∧ (t.port p).sfc = (s.port p).sfc) := by
  rw [execPhaseOffsetWrite, State.gate_reaches hr, if_neg (by simpa only [State.txOn_hostTlp, Bool.or_eq_true] using hoff)]
  extract_lets s1
  have hsfc : (s1.port p).sfc = (s.port p).sfc :=
    congrArg PonPort.sfc (State.port_congr ((State.storeWord_pon ..).trans (State.hostTlp_pon ..)) p)
  have hnew (u : State) (q : PonPort) : (((u.setPort p q).reannounce [p]).mirror 6 p 0xFF 4).port p = q :=
    (State.port_congr (State.mirror_pon ..) p).trans (State.port_setPort_same ..)
  refine ⟨_, rfl, ?_, ?_⟩
  · rw [hnew, State.rd_congr (State.mirror_words ..)]
    rfl
  · rw [hnew]
    exact hsfc

end

/-! DS_ENABLE_WRITE (R40). -/

theorem State.flushGroups_parts (s : State) (p : Fin 32) (sd : Nat) : (s.flushGroups p sd).words = s.words ∧ (s.flushGroups p sd).pon = s.pon :=
  have h := State.flushGroups_within (K := (· ∈ [Part.ctrs, .flt, .cpg, .tly])) (within_refl s) p sd (by simp) (by simp) (by simp) (by simp)
  ⟨h.words.resolve_left (by simp), h.pon.resolve_left (by simp)⟩

/-- A side whose enable bit the write leaves 0 sends no more. -/
theorem execDsEnableWrite_dark {s : State} {ag : Agent} {p : Fin 32} (hr : s.reaches ag (Reg.PT_DS_CFG.addr p.val) = true) (v : Word) :
    Completes (execDsEnableWrite ag p v s) (fun t => ∀ sd, sd < 2 → t.sideEn p sd = false → (t.side p sd).sending = false) := by
  rw [execDsEnableWrite, State.gate_reaches hr]
  extract_lets s1 off group
  have hoff (t : State) (sd : Nat) : (off t sd).words = t.words ∧ (t.sideEn p sd = false → ((off t sd).side p sd).sending = false) ∧
      ∀ sd', sd' ≠ sd → (off t sd).side p sd' = t.side p sd' := by
    dsimp only [off]
    split
    · next hon => exact ⟨rfl, fun h => (Bool.false_ne_true ((State.txOn_of_not_sideEn h).symm.trans hon)).elim, fun _ _ => rfl⟩
    · exact ⟨rfl, fun _ => congrArg PonSide.sending (State.side_setSide_same ..), fun sd' h => State.side_setSide_of_ne _ _ h _⟩
  have hgroup (t : State) (sd : Nat) : (group t sd).words = t.words ∧ (group t sd).pon = t.pon := by
    dsimp only [group]
    split
    · exact State.flushGroups_parts ..
    · exact ⟨rfl, rfl⟩
  obtain ⟨hw0, hdark0, -⟩ := hoff s1 0
  obtain ⟨hw1, hdark1, hother⟩ := hoff (off s1 0) 1
  have hparts (u : State) : (((group (group u 0) 1).mirror 6 p 0xFF 0).rampCheck p).words = u.words ∧
      (((group (group u 0) 1).mirror 6 p 0xFF 0).rampCheck p).pon = u.pon := by
    simp only [State.rampCheck_parts, State.mirror_words, State.mirror_pon, hgroup, and_self]
  obtain ⟨hw, hp⟩ := hparts (off (off s1 0) 1)
  refine ⟨_, rfl, fun sd hsd hen => ?_⟩
  rw [State.side_congr hp]
  rw [State.sideEn_congr (hw.trans hw1)] at hen
  match sd, hsd with
  | 0, _ => exact hother 0 (by decide) ▸ hdark0 ((State.sideEn_congr hw0 p 0).symm.trans hen)
  | 1, _ => exact hdark1 hen

/-! OCB_COMMIT (R62). -/

/-- The body that the two words of a side's third structure hold. -/
def State.bodyHeld (s : State) (p : Fin 32) (sd : Nat) : Nat :=
  if sd = 0 then s.rd (Reg.PT_OCB_HI.OC p.val) * 2 ^ 32 + s.rd (Reg.PT_OCB_LO.OC p.val)
  else s.rd (Reg.PT_PID_HI.PID p.val) * 2 ^ 32 + s.rd (Reg.PT_PID_LO.PID p.val)

theorem State.bodyHeld_congr {t s : State} (h : t.words = s.words) (p : Fin 32) (sd : Nat) : t.bodyHeld p sd = s.bodyHeld p sd := by
  simp only [State.bodyHeld, State.rd_congr h]

theorem execOcbCommit_effect {s : State} {ag : Agent} {p : Fin 32} {sd : Side}
    (hr : s.reaches ag (if sd.n = 0 then Reg.PT_OCB_HI.addr p.val else Reg.PT_PID_HI.addr p.val) = true) (v : Word) :
    Completes (execOcbCommit ag p sd v s) (fun t => (t.side p sd.n).commit = t.bodyHeld p sd.n ∧
      (t.side p sd.n).body = (s.side p sd.n).body) := by
  rw [execOcbCommit, State.gate_reaches hr]
  extract_lets s1 body
  have hbody : (s1.side p sd.n).body = (s.side p sd.n).body :=
    congrArg PonSide.body (State.side_congr ((State.storeWord_pon ..).trans (State.hostTlp_pon ..)) p sd.n)
  refine ⟨_, rfl, ?_⟩
  dsimp only
  rw [State.bodyHeld_congr (State.mirror_words ..), State.side_congr (State.mirror_pon ..), State.side_setSide_same]
  exact ⟨rfl, hbody⟩

/-- Settles O2, register by register: the refused and the taken offset, the sides a written enable leaves dark, and the committed body. -/
theorem ponLineWrites : Obligations.PonLineWrites := by
  refine ⟨fun ag p v s hr => ?_, fun ag p v s hr => ?_, fun ag p sd v s hr => ?_⟩
  · by_cases hon : s.txOn p 0 = true ∨ s.txOn p 1 = true
    · refine ⟨_, execPhaseOffsetWrite_lit hr v hon, (if_pos hon).mpr ⟨State.bit_wr _ _ _ (by decide : 30 + 1 ≤ 32), ?_, ?_⟩⟩
      · exact State.port_congr (State.hostTlp_pon ..) p
      · rw [State.word_wr, if_neg (by change 0x100004 + p.val * 0x10000 ≠ 0x100088 + p.val * 0x10000; omega)]
        exact State.word_congr (State.hostTlp_words ..) _
    · obtain ⟨t, ht, htaken⟩ := execPhaseOffsetWrite_dark hr v hon
      exact ⟨t, ht, (if_neg hon).mpr htaken⟩
  · obtain ⟨t, ht, hdark⟩ := execDsEnableWrite_dark hr v
    exact ⟨t, ht, fun sd hsd hen => ⟨hdark sd hsd hen, State.txOn_of_not_sideEn hen⟩⟩
  · exact execOcbCommit_effect hr v

end Sys2Proof.Machine

/-! SUPPORT. Downstream alignment (02_pon_line_framing.md R41 to R43, Table 2-3): what a match, a tracker's check, an expected PSBd and a
written mode leave of the aligner. -/

namespace Sys2Proof.Machine

set_option autoImplicit false

/-! The aligner's fields: the modes in one word, the states and the loss marks in the next. -/

theorem alnState_addr (p : Fin 32) (sd : Nat) : (alnState p sd).addr = 0x100044 + p.val * 0x10000 := by
  unfold alnState
  split <;> rfl

theorem alnMode_addr (p : Fin 32) (sd : Nat) : (alnMode p sd).addr = 0x100040 + p.val * 0x10000 := by
  unfold alnMode
  split <;> rfl

theorem alnState_fits (p : Fin 32) (sd : Nat) : (alnState p sd).lo + (alnState p sd).w ≤ 32 := by
  unfold alnState
  split <;> simp

/-- A state written reads as written. -/
theorem State.rd_wr_alnState (s : State) (p : Fin 32) (sd : Nat) {v : Nat} (hv : v < 4) :
    (s.wr (alnState p sd) v).rd (alnState p sd) = v := by
  have hw : (alnState p sd).w = 2 := by unfold alnState; split <;> rfl
  rw [State.rd_wr _ _ _ (alnState_fits p sd), hw]
  exact Nat.mod_eq_of_lt hv

/-- The two sides' states are apart. -/
theorem State.rd_wr_alnState_other (s : State) (p : Fin 32) (v : Nat) : (s.wr (alnState p 1) v).rd (alnState p 0) = s.rd (alnState p 0) :=
  State.rd_wr_bits _ _ _ _ (alnState_fits p 1) (alnState_fits p 0) (.inl (by simp [alnState]))

theorem State.rd_alnMode_wr_alnState (s : State) (p : Fin 32) (sd sd' v : Nat) :
    (s.wr (alnState p sd) v).rd (alnMode p sd') = s.rd (alnMode p sd') :=
  State.rd_wr_addr _ _ _ _ (by rw [alnState_addr, alnMode_addr]; omega)

/-- A loss mark lies apart from the state it stands beside. -/
theorem State.rd_alnState_wr_alnLost (s : State) (p : Fin 32) (sd v : Nat) :
    (s.wr (alnLost p sd) v).rd (alnState p sd) = s.rd (alnState p sd) := by
  unfold alnLost alnState
  split <;> exact State.rd_wr_bits _ _ _ _ (by simp) (by simp) (.inl (by simp))

theorem State.bit_wr_alnLost (s : State) (p : Fin 32) (sd : Nat) : (s.wr (alnLost p sd) 1).bit (alnLost p sd) = true := by
  unfold alnLost
  split <;> exact State.bit_wr _ _ _ (by simp)

/-! PSYNC_MATCH (R41, R42). -/

section
variable {p : Fin 32} {sd : Side} {s : State} (hst : s.rd (alnState p sd.n) < 2) (pos : Nat)
include hst

theorem execPsyncMatch_full (hfull : 4 ≤ (s.side p sd.n).trackers.length) (x : Option (BitVec 51)) :
    execPsyncMatch p sd pos x s = .next (s.inc (Cnt.PT_PSYNC_OVERFLOW p.val sd.n)) := by
  unfold execPsyncMatch
  rw [if_neg (Nat.not_le.2 hst), if_pos hfull]

theorem execPsyncMatch_false (hroom : (s.side p sd.n).trackers.length < 4) :
    execPsyncMatch p sd pos none s = .next (s.inc (Cnt.PT_PSYNC_FALSE p.val sd.n)) := by
  unfold execPsyncMatch
  rw [if_neg (Nat.not_le.2 hst), if_neg (Nat.not_le.2 hroom)]

theorem execPsyncMatch_tracked (hroom : (s.side p sd.n).trackers.length < 4) (v : BitVec 51) :
    execPsyncMatch p sd pos (some v) s = .next ((s.setSide p sd.n { s.side p sd.n with
      trackers := (s.side p sd.n).trackers ++ [⟨pos, v.toNat⟩] }).wr (alnState p sd.n) 1) := by
  unfold execPsyncMatch
  rw [if_neg (Nat.not_le.2 hst), if_neg (Nat.not_le.2 hroom)]

end

/-! TRACKER_CHECK (R41). -/

section
variable {p : Fin 32} {sd : Side} {s : State} {pos k errs : Nat} {r : List Tracker} (hst : s.rd (alnState p sd.n) = 1)
  (htr : (s.side p sd.n).trackers = ⟨pos, k⟩ :: r)
include hst htr

/-- The next superframe of a tracker, with the next SFC, takes the side to SYNC. -/
theorem execTrackerCheck_sync (herr : errs ≤ s.syncTol p) {v : BitVec 51} (hv : v.toNat = (k + 1) % 2 ^ 51) :
    execTrackerCheck p sd pos errs (some v) s = .next ((s.setSide p sd.n { s.side p sd.n with
      trackers := [], expSfc := (k + 2) % 2 ^ 51, miss := 0 }).wr (alnState p sd.n) 2) := by
  have hfind : (s.side p sd.n).trackers.find? (fun t => t.pos = pos) = some ⟨pos, k⟩ := by
    rw [htr]
    exact List.find?_cons_of_pos (decide_eq_true rfl)
  simp [execTrackerCheck, hfind, hst, herr, hv]

/-- A tracker whose next superframe has too many PSync errors is discarded, and counted as false. -/
theorem execTrackerCheck_discard (herr : s.syncTol p < errs) (x : Option (BitVec 51)) :
    execTrackerCheck p sd pos errs x s = .next (((s.setSide p sd.n { s.side p sd.n with trackers := r }).wr (alnState p sd.n)
      (if r = [] then 0 else 1)).inc (Cnt.PT_PSYNC_FALSE p.val sd.n)) := by
  simp [execTrackerCheck, htr, hst, Nat.not_le.2 herr]

end

/-! SYNC_PSBD_CHECK (R41, R43). -/

/-- What an expected PSBd stores before it is judged: a header that does not decode is counted, and the phase is kept. -/
def State.psbdSeen (s : State) (p : Fin 32) (sd : Nat) (x : Option (BitVec 51)) (d : Int) : State :=
  let s1 := if x.isNone then s.inc (Cnt.PT_HDR_HEC_ERR p.val sd) else s
  s1.setPort p { s1.port p with align := if sd = 0 then (d, (s1.port p).align.2) else ((s1.port p).align.1, d) }

theorem State.psbdSeen_words (s : State) (p : Fin 32) (sd : Nat) (x : Option (BitVec 51)) (d : Int) : (s.psbdSeen p sd x d).words = s.words := by
  unfold State.psbdSeen
  cases x <;> simp

section
variable {p : Fin 32} {sd : Side} {s : State} {errs : Nat} (hst : s.rd (alnState p sd.n) = 2)
include hst

theorem execSyncPsbdCheck_good (herr : errs ≤ s.syncTol p) {v : BitVec 51} (hv : v.toNat = (s.side p sd.n).expSfc) (d : Int) :
    execSyncPsbdCheck p sd errs (some v) d s = .next ((s.psbdSeen p sd.n (some v) d).setSide p sd.n { s.side p sd.n with
      expSfc := ((s.side p sd.n).expSfc + 1) % 2 ^ 51, miss := 0 }) := by
  unfold execSyncPsbdCheck
  extract_lets y bad
  have hbad : bad = false := by simp [bad, y, Nat.not_lt.2 herr, hv]
  rw [if_neg (by simp [hst]), hbad]
  rfl

/-- A first bad PSBd in a row is borne. -/
theorem execSyncPsbdCheck_borne (herr : s.syncTol p < errs) (hmiss : (s.side p sd.n).miss = 0) (x : Option (BitVec 51)) (d : Int) :
    execSyncPsbdCheck p sd errs x d s = .next ((s.psbdSeen p sd.n x d).setSide p sd.n { s.side p sd.n with
      expSfc := ((s.side p sd.n).expSfc + 1) % 2 ^ 51, miss := 1 }) := by
  unfold execSyncPsbdCheck
  extract_lets y bad
  have hbad : bad = true := by simp [bad, herr]
  rw [if_neg (by simp [hst]), hbad, if_neg (by decide), if_pos hmiss]
  rfl

/-- A second bad PSBd in a row loses synchronization and reports it. -/
theorem execSyncPsbdCheck_lost (herr : s.syncTol p < errs) (hmiss : (s.side p sd.n).miss ≠ 0) (x : Option (BitVec 51)) (d : Int) :
    execSyncPsbdCheck p sd errs x d s = .next ((((((s.psbdSeen p sd.n x d).setSide p sd.n { s.side p sd.n with miss := 0, trackers := [] }).wr
      (alnState p sd.n) 0).wr (alnLost p sd.n) 1).inc (Cnt.PT_SYNC_LOST p.val sd.n)).raise .SYNC_LOST (srcPt p)
        (portAddr p sd.n (s.rd (alnMode p sd.n)))) := by
  unfold execSyncPsbdCheck
  extract_lets y bad
  have hbad : bad = true := by simp [bad, herr]
  rw [if_neg (by simp [hst]), hbad, if_neg (by decide), if_neg hmiss]
  rfl

end

/-! ALIGN_MODE_WRITE (R41, Table 2-3). -/

/-- A written mode brings a side in line: OFF with mode 0, HUNT from OFF with another. -/
def State.alnFollow (s : State) (p : Fin 32) (sd : Nat) : State :=
  let x := s.side p sd
  if s.rd (alnMode p sd) = 0 then (s.wr (alnState p sd) 3).setSide p sd { x with trackers := [], miss := 0, rx := .frozen }
  else if s.rd (alnState p sd) = 3 then (s.wr (alnState p sd) 0).setSide p sd { x with trackers := [], miss := 0, rx := .continuous }
  else s

/-- A side brought in line writes at most its own state. -/
theorem State.alnFollow_words (s : State) (p : Fin 32) (sd : Nat) :
    (s.alnFollow p sd).words = s.words ∨ ∃ v, (s.alnFollow p sd).words = (s.wr (alnState p sd) v).words := by
  unfold State.alnFollow
  extract_lets x
  split
  · exact .inr ⟨3, rfl⟩
  · split
    · exact .inr ⟨0, rfl⟩
    · exact .inl rfl

theorem State.alnFollow_off {s : State} {p : Fin 32} {sd : Nat} (h : s.rd (alnMode p sd) = 0) : (s.alnFollow p sd).rd (alnState p sd) = 3 := by
  rw [State.alnFollow, if_pos h]
  exact State.rd_wr_alnState s p sd (by decide)

theorem State.rd_alnMode_alnFollow (s : State) (p : Fin 32) (sd sd' : Nat) : (s.alnFollow p sd).rd (alnMode p sd') = s.rd (alnMode p sd') := by
  rcases s.alnFollow_words p sd with h | ⟨v, h⟩
  · exact State.rd_congr h _
  · exact (State.rd_congr h _).trans (State.rd_alnMode_wr_alnState ..)

theorem State.rd_alnState_alnFollow_other (s : State) (p : Fin 32) : (s.alnFollow p 1).rd (alnState p 0) = s.rd (alnState p 0) := by
  rcases s.alnFollow_words p 1 with h | ⟨v, h⟩
  · exact State.rd_congr h _
  · exact (State.rd_congr h _).trans (State.rd_wr_alnState_other ..)

theorem execAlignModeWrite_off {s : State} {ag : Agent} {p : Fin 32} (hr : s.reaches ag (Reg.PT_ALN_CFG.addr p.val) = true) (v : Word) :
    Completes (execAlignModeWrite ag p v s) (fun t => ∀ sd, sd < 2 → t.rd (alnMode p sd) = 0 → t.rd (alnState p sd) = 3) := by
  rw [execAlignModeWrite, State.gate_reaches hr]
  extract_lets s1 upd
  have hupd (t : State) (sd : Nat) : upd t sd = t.alnFollow p sd := rfl
  refine ⟨_, rfl, fun sd hsd hmode => ?_⟩
  rw [State.rd_congr (State.mirror_words ..), hupd, hupd] at hmode ⊢
  rw [State.rd_alnMode_alnFollow] at hmode
  match sd, hsd with
  | 0, _ => exact (State.rd_alnState_alnFollow_other ..).trans (State.alnFollow_off ((State.rd_alnMode_alnFollow ..).symm.trans hmode))
  | 1, _ => exact State.alnFollow_off hmode

/-- Settles O3, command by command: what each match, check and written mode does to the aligner, read at its state and trackers. -/
theorem alignmentStates : Obligations.AlignmentStates := by
  refine ⟨fun p sd pos v s hst hroom => ?_, fun p sd pos x s hst hfull => execPsyncMatch_full hst pos hfull x,
    fun p sd pos s hst hroom => execPsyncMatch_false hst pos hroom, fun p sd pos errs v r k s hst htr herr hv => ?_,
    fun p sd pos errs x k s hst htr herr => ?_, fun p sd errs v d s hst herr hv => ?_, fun p sd errs x d s hst herr => ?_,
    fun ag p v s hr => execAlignModeWrite_off hr v⟩
  · exact ⟨_, execPsyncMatch_tracked hst pos hroom v, State.rd_wr_alnState _ _ _ (by decide),
      congrArg PonSide.trackers (State.side_setSide_same ..)⟩
  · exact ⟨_, execTrackerCheck_sync hst htr herr hv, State.rd_wr_alnState _ _ _ (by decide),
      congrArg PonSide.trackers (State.side_setSide_same ..), congrArg PonSide.expSfc (State.side_setSide_same ..)⟩
  · refine ⟨_, execTrackerCheck_discard hst htr herr x, ?_, ?_⟩
    · rw [State.inc_rd]
      exact State.rd_wr_alnState _ _ _ (by decide)
    · rw [State.side_congr (State.inc_pon ..)]
      exact congrArg PonSide.trackers (State.side_setSide_same ..)
  · exact ⟨_, execSyncPsbdCheck_good hst herr hv d, s.psbdSeen_words p sd.n (some v) d, congrArg PonSide.miss (State.side_setSide_same ..),
      congrArg PonSide.expSfc (State.side_setSide_same ..)⟩
  · by_cases hmiss : (s.side p sd.n).miss = 0
    · exact ⟨_, execSyncPsbdCheck_borne hst herr hmiss x d, (if_pos hmiss).mpr ⟨s.psbdSeen_words p sd.n x d,
        congrArg PonSide.miss (State.side_setSide_same ..)⟩⟩
    · refine ⟨_, execSyncPsbdCheck_lost hst herr hmiss x d, (if_neg hmiss).mpr ⟨?_, ?_, ?_⟩⟩
      · rw [State.raise_rd, State.inc_rd, State.rd_alnState_wr_alnLost]
        exact State.rd_wr_alnState _ _ _ (by decide)
      · rw [State.bit_congr ((State.raise_words ..).trans (State.inc_words ..))]
        exact State.bit_wr_alnLost ..
      · rw [State.side_congr ((State.raise_pon ..).trans (State.inc_pon ..))]
        exact congrArg PonSide.miss (State.side_setSide_same ..)

end Sys2Proof.Machine

/-! SUPPORT. Burst reception and stray light (02_pon_line_framing.md R49 to R60): what settling, counting and tracking a burst leave of the
receiver, and which energy is stray. -/

namespace Sys2Proof.Machine

set_option autoImplicit false

/-! The receiver's burst under way: the operations of a burst's end that keep it. -/

/-- The burst under way of a side, the offset found of it, and the receiver's pulses. -/
def PonSide.receiving (x : PonSide) : Option Exp × Option Int × Nat := (x.cur, x.found, x.brst)

theorem State.receiving_congr {t s : State} (h : t.pon = s.pon) (p : Fin 32) (sd : Nat) :
    (t.side p sd).receiving = (s.side p sd).receiving := congrArg PonSide.receiving (State.side_congr h p sd)

/-- A side set to one that is receiving the same is receiving the same. -/
theorem State.receiving_setSide {s : State} {p : Fin 32} {sd : Nat} {x : PonSide} (h : x.receiving = (s.side p sd).receiving) :
    ((s.setSide p sd x).side p sd).receiving = (s.side p sd).receiving :=
  (congrArg PonSide.receiving (State.side_setSide_same ..)).trans h

/-- The parts that the operations of a burst's end may change beside the PON line's. -/
abbrev besidePon : List Part := [.words, .ctrs, .flt, .act, .whf, .pm, .twn, .hrl, .tly]

theorem pon_of_besidePon {t s : State} (h : t.Within (· ∈ besidePon) s) : t.pon = s.pon := h.pon.resolve_left (by simp)

theorem State.burstCounts_pon (s : State) (p : Fin 32) (sd i : Nat) (b : BurstRx) : (s.burstCounts p sd i b).pon = s.pon :=
  pon_of_besidePon (State.burstCounts_within (within_refl s) p sd i b (by simp) (by simp) (by simp))

theorem State.strayWindow_pon (s : State) (p : Fin 32) (sd : Nat) (onu : Option Nat) (off : Option Int) (r : Bool) :
    (s.strayWindow p sd onu off r).pon = s.pon :=
  pon_of_besidePon (State.strayWindow_within (within_refl s) p sd onu off r (by simp) (by simp) (by simp) (by simp))

theorem State.deltaSample_pon (s : State) (p : Fin 32) (v : Int) : (s.deltaSample p v).pon = s.pon :=
  pon_of_besidePon (State.deltaSample_within (within_refl s) p v (by simp) (by simp) (by simp) (by simp) (by simp))

theorem State.adjSample_pon (s : State) (p : Fin 32) (sd : Nat) (e : Exp) (d : Int) : (s.adjSample p sd e d).pon = s.pon :=
  pon_of_besidePon (State.adjSample_within (within_refl s) p sd e d (by simp) (by simp))

theorem State.offsetSeen_pon (s : State) (p : Fin 32) (sd : Nat) (e : Exp) (d : Int) (w : Bool) : (s.offsetSeen p sd e d w).pon = s.pon :=
  pon_of_besidePon (State.offsetSeen_within (within_refl s) p sd e d w (by simp) (by simp) (by simp) (by simp) (by simp) (by simp))

theorem State.storeReports_pon (s : State) (p : Fin 32) (sd n : Nat) (l : List (Nat × BitVec 24 × BitVec 8)) :
    (s.storeReports p sd n l).pon = s.pon := pon_of_besidePon (State.storeReports_within (within_refl s) p sd n l (by simp))

theorem State.pktUnder_pon (s : State) (p : Fin 32) (sd : Nat) (gs : List Grant) (l : List (Nat × Nat)) : (s.pktUnder p sd gs l).pon = s.pon :=
  pon_of_besidePon (State.pktUnder_within (within_refl s) p sd gs l (by simp) (by simp) (by simp))

theorem State.setSlot_pon (s : State) (p : Fin 32) (i : Nat) (x : Slot) : (s.setSlot p i x).pon = s.pon := by
  simp only [State.setSlot_parts]

theorem State.toLost_pon (s : State) (p : Fin 32) (i : Nat) : (s.toLost p i).pon = s.pon :=
  pon_of_besidePon (State.toLost_within (within_refl s) p i (by simp) (by simp) (by simp) (by simp) (by simp) (by simp))

theorem State.requestRerange_pon (s : State) (p : Fin 32) (i : Nat) (hold : Bool) : (s.requestRerange p i hold).pon = s.pon := by
  simp only [State.requestRerange_parts]

theorem State.setUsAdj_pon (s : State) (p : Fin 32) (sd : Nat) (v : Int) : (s.setUsAdj p sd v).pon = s.pon :=
  pon_of_besidePon (State.setUsAdj_within (within_refl s) p sd v (by simp))

theorem State.pmMod_pon (s : State) (k : Nat) (f : PmAcc → PmAcc) : (s.pmMod k f).pon = s.pon := rfl

/-- A preset is no side's. -/
theorem State.receiving_setPreset (s : State) (p q : Fin 32) (sd sd' i : Nat) (x : Preset) :
    ((s.setPreset q sd' i x).side p sd).receiving = (s.side p sd).receiving := rfl

section
variable (s : State) (p : Fin 32) (sd : Nat)

theorem State.receiving_wideDone (n : Nat) : ((s.wideDone p sd n).side p sd).receiving = (s.side p sd).receiving := by
  unfold State.wideDone
  extract_lets x k offs s1
  split
  · rfl
  · split
    · exact (State.receiving_congr (State.inc_pon ..) ..).trans (State.receiving_setSide rfl)
    · exact (State.receiving_congr (State.setUsAdj_pon ..) ..).trans (State.receiving_setSide rfl)

theorem State.receiving_heard : (((s.sideHeard p sd).markHeard p sd).side p sd).receiving = (s.side p sd).receiving := by
  have hheard : ((s.sideHeard p sd).side p sd).receiving = (s.side p sd).receiving :=
    (State.receiving_congr (t := s.sideHeard p sd) (s := s.setSide p sd { s.side p sd with lossRun := 0 }) rfl ..).trans
      (State.receiving_setSide rfl)
  refine Eq.trans ?_ hheard
  unfold State.markHeard
  extract_lets x
  split
  · rfl
  · exact State.receiving_setSide rfl

theorem State.receiving_settleBurst (n : Nat) (got : Bool) : ((s.settleBurst p sd n got).side p sd).receiving = (s.side p sd).receiving := by
  unfold State.settleBurst
  extract_lets s0 x fs done rest
  have h0 : (s0.side p sd).receiving = (s.side p sd).receiving := by
    dsimp only [s0]
    split
    · exact State.receiving_heard ..
    · rfl
  refine Eq.trans ?_ h0
  clear_value done
  cases done with
  | none => exact State.receiving_setSide rfl
  | some f => exact (State.receiving_wideDone ..).trans (State.receiving_setSide rfl)

theorem State.receiving_burstMissed (e : Exp) : ((s.burstMissed p sd e).side p sd).receiving = (s.side p sd).receiving := by
  unfold State.burstMissed
  extract_lets i x held counted s1 preset s2 s3 x' s4 s5
  have h1 : s1.pon = s.pon := by
    have hcounted : counted.pon = s.pon := (State.pmMod_pon ..).trans (State.inc_pon ..)
    dsimp only [s1]
    split
    · rfl
    · split
      · exact (State.pmMod_pon ..).trans hcounted
      · exact hcounted
  have h2 : (s2.side p sd).receiving = (s.side p sd).receiving := by
    refine Eq.trans ?_ (State.receiving_congr h1 p sd)
    dsimp only [s2]
    split
    · exact (State.receiving_congr (State.inc_pon ..) ..).trans (State.receiving_setPreset ..)
    · rfl
  have h3 : (s3.side p sd).receiving = (s.side p sd).receiving := (State.receiving_settleBurst ..).trans h2
  have h4 : s4.pon = s3.pon := State.setSlot_pon ..
  have h5 : s5.pon = s3.pon := by
    dsimp only [s5]
    split
    · exact (State.toLost_pon ..).trans h4
    · exact h4
  refine Eq.trans (State.receiving_congr ?_ p sd) h3
  split
  · rfl
  · split
    · split
      · exact (State.requestRerange_pon ..).trans h5
      · exact h5
    · exact h4

theorem State.receiving_burstTaken (e : Exp) (b : BurstRx) (learn : Bool) :
    ((s.burstTaken p sd e b learn).side p sd).receiving = (s.side p sd).receiving := by
  unfold State.burstTaken
  extract_lets i s1 s2 s3
  have h1 : (s1.side p sd).receiving = (s.side p sd).receiving :=
    (State.receiving_settleBurst ..).trans (State.receiving_congr (State.inc_pon ..) ..)
  have h2 : s2.pon = s1.pon := by
    dsimp only [s2]
    split
    · exact State.inc_pon ..
    · rfl
  have h3 : (s3.side p sd).receiving = (s2.side p sd).receiving := by
    dsimp only [s3]
    split
    · exact State.receiving_setPreset ..
    · rfl
  refine Eq.trans (State.receiving_congr ?_ p sd) (h3.trans ((State.receiving_congr h2 ..).trans h1))
  split
  · rfl
  · exact State.setSlot_pon ..

end

/-! BURST_START (R50). -/

theorem execBurstStart_safe {s : State} (h : s.flt.safe = true) (p : Fin 32) (sd : Side) : execBurstStart p sd s = .next s := if_pos h

theorem execBurstStart_next {p : Fin 32} {sd : Side} {s : State} {e : Exp} {r : List Exp} (hsafe : s.flt.safe = false)
    (hq : (s.side p sd.n).rxq = e :: r) : execBurstStart p sd s = .next (s.setSide p sd.n { s.side p sd.n with
      rxq := r, cur := if e.burst.ordinary then some e else none, found := none, missed := false
      rx := if (s.side p sd.n).rx = .quiet then .quiet
        else .burst (if (s.preset p sd.n e.burst.onu).known then some e.burst.onu else none) }) := by
  simp [execBurstStart, hsafe, hq, apply_ite RxLoop.burst]

/-! DELIM_WINDOW_CLOSE (R54 to R57). -/

section
variable {p : Fin 32} {sd : Side} {s : State} {e : Exp} (hcur : (s.side p sd.n).cur = some e) (hfound : (s.side p sd.n).found = none)
include hcur hfound

theorem execDelimWindowClose_found (hmissed : (s.side p sd.n).missed = false) {l : List (Int × Nat)} {d : Int}
    (hbest : bestDelim (if (s.side p sd.n).wideAt e.sfc then wideWidth e.burst.row else e.wide)
      (min 8 (s.rd (Reg.PT_US_CFG.DELIM_TOL p.val))) l = some d) :
    execDelimWindowClose p sd l s = .next (s.setSide p sd.n { s.side p sd.n with found := some d }) := by
  simp [execDelimWindowClose, hcur, hfound, hmissed, hbest]

/-- With no delimiter correlated the burst is missed. -/
theorem execDelimWindowClose_missed (hmissed : (s.side p sd.n).missed = false) :
    execDelimWindowClose p sd [] s = .next ((s.setSide p sd.n { s.side p sd.n with missed := true }).burstMissed p sd.n e) := by
  have hbest (w tol : Nat) : bestDelim w tol [] = none := rfl
  simp [execDelimWindowClose, hcur, hfound, hmissed, hbest]

/-! BURST_END (R50, R53). -/

/-- At a missed burst's end the receiver is pulsed, once. -/
theorem execBurstEnd_missed (hsafe : s.flt.safe = false) (hmissed : (s.side p sd.n).missed = true) {r : Option Nat}
    (hrx : (s.side p sd.n).rx = .burst r) (b : BurstRx) :
    execBurstEnd p sd b s = .next (s.setSide p sd.n { s.side p sd.n with rx := .frozen, brst := (s.side p sd.n).brst + 1 }) := by
  simp [execBurstEnd, hsafe, hcur, hfound, hmissed, hrx]

end

theorem execBurstEnd_idle {p : Fin 32} {sd : Side} {s : State} (h : s.flt.safe = true ∨ (s.side p sd.n).cur = none ∨
    ((s.side p sd.n).found = none ∧ (s.side p sd.n).missed = false)) (b : BurstRx) : execBurstEnd p sd b s = .next s := by
  rcases h with hsafe | hcur | ⟨hfound, hmissed⟩
  · exact if_pos hsafe
  · simp [execBurstEnd, hcur]
  · cases hcur : (s.side p sd.n).cur <;> simp [execBurstEnd, hcur, hfound, hmissed]

/-- At a found burst's end nothing is under way and the receiver has been pulsed once. -/
theorem execBurstEnd_receiving {p : Fin 32} {sd : Side} {s : State} {e : Exp} {d : Int} (hsafe : s.flt.safe = false)
    (hcur : (s.side p sd.n).cur = some e) (hfound : (s.side p sd.n).found = some d) (b : BurstRx) :
    Completes (execBurstEnd p sd b s) (fun t => (t.side p sd.n).receiving = (none, none, (s.side p sd.n).brst + 1)) := by
  unfold execBurstEnd
  extract_lets x
  rw [if_neg (by simp [hsafe])]
  split
  next e' d' _ _ =>
    extract_lets i foreign s0 s1 s2
    have h0 : (s0.side p sd.n).receiving = (none, none, (s.side p sd.n).brst + 1) := by
      rw [State.receiving_congr (State.burstCounts_pon ..), State.side_setSide_same]
      rfl
    have h1 : (s1.side p sd.n).receiving = (none, none, (s.side p sd.n).brst + 1) := (State.receiving_burstTaken ..).trans h0
    have h2 : (s2.side p sd.n).receiving = (none, none, (s.side p sd.n).brst + 1) :=
      (State.receiving_congr (State.offsetSeen_pon ..) ..).trans h1
    clear_value s0 s1 s2
    refine completes_ite ⟨_, rfl, ?_⟩ (completes_ite ⟨_, rfl, ?_⟩ (completes_ite ⟨_, rfl, h2⟩ ⟨_, rfl, ?_⟩))
    · exact (State.receiving_congr (State.strayWindow_pon ..) ..).trans ((State.receiving_burstMissed ..).trans h0)
    · exact (State.receiving_congr ((State.adjSample_pon ..).trans (State.deltaSample_pon ..)) ..).trans h1
    · exact (State.receiving_congr ((State.pktUnder_pon ..).trans (State.storeReports_pon ..)) ..).trans h2
  next hnone => cases hfound.symm.trans hnone
  next hnone => cases hcur.symm.trans hnone

/-- A burst's end changes nothing of the engines, the Ledger, forwarding and packets. -/
theorem execBurstEnd_frame (p : Fin 32) (sd : Side) (b : BurstRx) (s : State) : Completes (execBurstEnd p sd b s) (fun t =>
    t.eng = s.eng ∧ t.ldg = s.ldg ∧ t.fwd = s.fwd ∧ t.cpg = s.cpg) := by
  obtain ⟨t, ht, hw⟩ := execBurstEnd_within (K := (· ∉ [Part.eng, .ldg, .fwd, .cpg])) (within_refl s) p sd b (by simp) (by simp) (by simp)
    (by simp) (by simp) (by simp) (by simp) (by simp) (by simp) (by simp)
  exact ⟨t, ht, hw.eng.resolve_left (by simp), hw.ldg.resolve_left (by simp), hw.fwd.resolve_left (by simp), hw.cpg.resolve_left (by simp)⟩

/-! STRAY_ENERGY_EPISODE (R60, R96). -/

theorem execStrayEnergyEpisode_short {len : Nat} (h : len < 5) (p : Fin 32) (sd : Side) (pos : Nat) (s : State) :
    execStrayEnergyEpisode p sd pos len s = .next s := if_pos (.inl h)

/-- Energy that meets a granted span or an open quiet window is not stray. -/
theorem execStrayEnergyEpisode_meets {p : Fin 32} {sd : Side} {pos len : Nat} {s : State} {w : RxSpan} (hw : w ∈ (s.side p sd.n).spans)
    (ha : (w.wider (s.halfGuard p sd.n)).1 < s.sfc p * frameLen sd.n + pos + nsUnits sd.n false (10 * len))
    (hb : s.sfc p * frameLen sd.n + pos < (w.wider (s.halfGuard p sd.n)).2) : execStrayEnergyEpisode p sd pos len s = .next s :=
  if_pos (.inr (List.any_eq_true.2 ⟨w, hw, by simp [ha, hb]⟩))

theorem execStrayEnergyEpisode_stray {p : Fin 32} {sd : Side} {pos len : Nat} {s : State} (hlen : 5 ≤ len)
    (hspans : (s.side p sd.n).spans = []) : execStrayEnergyEpisode p sd pos len s =
      .next (((s.strayRecord p (some ⟨sd.n, false, (s.side p sd.n).endedBefore sd.n (s.sfc p * frameLen sd.n + pos)⟩)).inc
        (Cnt.PT_STRAY_UNSCHED p.val sd.n)).strayRaise p sd.n (2 ^ 33 + 0x3FF * 2 ^ 16 + min len 65535)) :=
  if_neg (by simp [hspans, hlen])

/-- Settles O4, command by command: the burst begun, the delimiter taken or missed, the burst's end by what was found, and the light that
is stray. -/
theorem burstReception : Obligations.BurstReception := by
  refine ⟨fun p sd s h => execBurstStart_safe h p sd, fun p sd e r s hsafe hq => ?_, fun p sd l e d s hcur hfound hmissed hbest => ?_,
    fun p sd e s hcur hfound hmissed => execDelimWindowClose_missed hcur hfound hmissed, fun p sd b s h => execBurstEnd_idle h b,
    fun p sd b e r s hsafe hcur hfound hmissed hrx => execBurstEnd_missed hcur hfound hsafe hmissed hrx b,
    fun p sd b e d s hsafe hcur hfound => ?_, fun p sd off sn s => rfl, fun p sd pos len s h => execStrayEnergyEpisode_short h p sd pos s,
    fun p sd pos len w s hw ha hb => execStrayEnergyEpisode_meets hw ha hb, fun p sd pos len s hlen hspans =>
    execStrayEnergyEpisode_stray hlen hspans⟩
  · refine ⟨_, execBurstStart_next hsafe hq, ?_⟩
    simp only [State.side_setSide_same, and_self]
  · exact ⟨_, execDelimWindowClose_found hcur hfound hmissed hbest, congrArg PonSide.found (State.side_setSide_same ..), rfl⟩
  · obtain ⟨t, ht, hrx⟩ := execBurstEnd_receiving hsafe hcur hfound b
    obtain ⟨t', ht', hframe⟩ := execBurstEnd_frame p sd b s
    obtain rfl : t = t' := Host.Outcome.next.inj (ht.symm.trans ht')
    obtain ⟨hc, hf, hb⟩ : (t.side p sd.n).cur = none ∧ (t.side p sd.n).found = none ∧ (t.side p sd.n).brst = (s.side p sd.n).brst + 1 := by
      simpa [PonSide.receiving] using hrx
    exact ⟨t, ht, hc, hf, hb, hframe⟩

end Sys2Proof.Machine

/-! SUPPORT. Ranging (03_activation_and_ranging.md R86, R87, R93, R349): which operations of activation keep the slots, and what a response
or its absence leaves of its slot. -/

namespace Sys2Proof.Machine

set_option autoImplicit false

/-! Slots. -/

theorem State.mirror_act (s : State) (k : Nat) (p : Fin 32) (side x : Nat) : (s.mirror k p side x).act = s.act := by simp

/-- A slot reads as it was set. -/
@[simp] theorem State.slot_setSlot_same (s : State) (p : Fin 32) (i : Nat) (x : Slot) : (s.setSlot p i x).slot p i = x := by
  unfold State.setSlot
  extract_lets a s1 s2
  split
  · next h => exact h
  · have hact : s2.act = s1.act := by
      dsimp only [s2]
      split
      · rfl
      · split <;> rfl
    rw [State.slot_congr (State.mirror_act ..), State.slot_congr hact]
    exact Tab.get_set_same ..

theorem State.slot_of_slots {t s : State} (h : t.act.slots = s.act.slots) (p : Fin 32) (i : Nat) : t.slot p i = s.slot p i := by
  simp only [State.slot, h]

theorem State.mirror_slots (s : State) (k : Nat) (p : Fin 32) (side x : Nat) : (s.mirror k p side x).act.slots = s.act.slots :=
  congrArg Act.slots (State.mirror_act ..)

theorem State.leaveRamp_slots (s : State) (p : Fin 32) : (s.leaveRamp p).act.slots = s.act.slots := State.mirror_slots ..

theorem State.rampCheck_slots (s : State) (p : Fin 32) : (s.rampCheck p).act.slots = s.act.slots := by
  unfold State.rampCheck
  split
  · exact State.leaveRamp_slots ..
  · rfl

theorem State.enterRamp_slots (s : State) (p : Fin 32) : (s.enterRamp p).act.slots = s.act.slots := by
  unfold State.enterRamp
  split
  · rfl
  · exact (State.rampCheck_slots ..).trans (State.mirror_slots ..)

/-- A slot that has left ACTIVE counts toward the ramp, and changes no slot. -/
theorem State.leftActive_slots (s : State) (p : Fin 32) : (s.leftActive p).act.slots = s.act.slots := by
  unfold State.leftActive
  extract_lets x s1 n
  split
  · exact State.enterRamp_slots ..
  · rfl

/-- A queued message changes no slot. -/
theorem State.queuePloam_slots (s : State) (p : Fin 32) (sd onu : Nat) (b : PloamBody) :
    (s.queuePloam p sd onu b).act.slots = s.act.slots := by
  unfold State.queuePloam State.setPlq
  extract_lets q
  split
  · rfl
  · exact State.mirror_slots ..

/-- A slot freed is FREE, whatever message follows. -/
theorem State.slot_freeSlot (s : State) (p : Fin 32) (i : Nat) (final : Option PloamBody) : (s.freeSlot p i final).slot p i = Slot.free := by
  unfold State.freeSlot
  extract_lets sd s1
  have h1 : s1.slot p i = Slot.free := State.slot_setSlot_same ..
  cases final with
  | none => exact h1
  | some b => exact (State.slot_of_slots (State.queuePloam_slots ..) ..).trans h1

theorem State.slot_toLost (s : State) (p : Fin 32) (i : Nat) : (s.toLost p i).slot p i = { s.slot p i with
    state := .lost, range := .none, hold := false, newEqd := none, offs := [], tries := 0, respAt := none } := by
  unfold State.toLost
  extract_lets x s1
  rw [State.slot_of_slots (State.leftActive_slots ..), State.slot_congr ((State.raise_act ..).trans (State.inc_act ..))]
  exact State.slot_setSlot_same ..

theorem State.slot_holdFor (s : State) (p : Fin 32) (i : Nat) (eqd : Int) : (s.holdFor p i eqd).slot p i = { s.slot p i with
    range := .none, tries := 0, hold := true, newEqd := some eqd, holdFrom := s.nextBuild p, respAt := none } :=
  State.slot_setSlot_same ..

/-- A ranging burst that is over changes the PON line alone. -/
theorem State.takeRng_parts (s : State) (p : Fin 32) (sd i : Nat) : (s.takeRng p sd i).act = s.act ∧ (s.takeRng p sd i).words = s.words :=
  have h := State.takeRng_within (K := (· = .pon)) (within_refl s) p sd i rfl
  ⟨h.act.resolve_left nofun, h.words.resolve_left nofun⟩

/-- The ranging burst over and an event counted, every slot stands. -/
theorem State.slot_inc_takeRng (s : State) (p : Fin 32) (sd i a : Nat) : ((s.takeRng p sd i).inc a).slot p i = s.slot p i :=
  State.slot_congr ((State.inc_act ..).trans (s.takeRng_parts p sd i).1) p i

/-! RANGING_RESPONSE (R56, R86, R93, R349). -/

section
variable {p : Fin 32} {k : Fin 256} {d : Int} {s : State}

theorem execRangingResponse_not_placed (h : (s.slot p k.val).range ≠ .placed) : execRangingResponse p k d s = .next s := by
  unfold execRangingResponse
  extract_lets i x
  split
  · rfl
  · exact if_pos (.inl h)

/-- A shadow takes no action on a response. -/
theorem execRangingResponse_shadow (h : s.owned p.val = false) :
    Completes (execRangingResponse p k d s) (fun t => t.act = s.act ∧ t.words = s.words) := by
  unfold execRangingResponse
  extract_lets i x
  split
  · exact ⟨_, rfl, rfl, rfl⟩
  · refine completes_ite ⟨_, rfl, rfl, rfl⟩ ?_
    rw [if_pos (by simp [h])]
    exact ⟨_, rfl, s.takeRng_parts ..⟩

section
variable {e : Exp} (he : s.rngOf p (s.slot p k.val).side k.val = some e)
include he

/-- An offset outside the window is no response. -/
theorem execRangingResponse_outside (h : (e.wide : Int) < d ∨ d < -(e.wide : Int)) : execRangingResponse p k d s = .next s := by
  have hwide : e.wide < d.natAbs := by omega
  simp [execRangingResponse, he, hwide]

variable (hlo : -(e.wide : Int) ≤ d) (hhi : d ≤ e.wide) (hplaced : (s.slot p k.val).range = .placed) (howned : s.owned p.val = true)
include hlo hhi hplaced howned

/-- The response of an ASSIGNED ONU gives RTD and EqD, and its slot is RANGED (R86). -/
theorem execRangingResponse_assigned (hst : (s.slot p k.val).state = .assigned) {eqd : Int}
    (heqd : eqd = s.teqdBits p (s.slot p k.val).side (s.onuRow p (s.slot p k.val).side k.val) - ((s.slot p k.val).rtdc + d)) :
    execRangingResponse p k d s = .next ((((s.takeRng p (s.slot p k.val).side k.val).setSlot p k.val { s.slot p k.val with
      state := .ranged, range := .none, tries := 1, eqd := eqd, rtdc := (s.slot p k.val).rtdc + d }).inc
        (Cnt.ACT_RANGE_OK p.val (s.slot p k.val).side)).sendRangingTime p (s.slot p k.val).side k.val eqd) := by
  have hwide : ¬ e.wide < d.natAbs := by omega
  simp [execRangingResponse, he, hplaced, hwide, howned, hst, heqd]

/-- The response of an ACTIVE ONU corrects EqD under the hold of R95 (R93). -/
theorem execRangingResponse_active (hst : (s.slot p k.val).state = .active) :
    execRangingResponse p k d s =
      let s2 := ((s.takeRng p (s.slot p k.val).side k.val).inc (Cnt.ACT_RANGE_OK p.val (s.slot p k.val).side)).holdFor p k.val
        ((s.slot p k.val).eqd - d)
      .next (s2.setSlot p k.val { s2.slot p k.val with respAt := some e.sfc }) := by
  have hwide : ¬ e.wide < d.natAbs := by omega
  simp [execRangingResponse, he, hplaced, hwide, howned, hst]

end

end

/-! RANGING_NO_RESPONSE (R87, R93, R349). -/

section
variable {p : Fin 32} {k : Fin 256} {s : State}

theorem execRangingNoResponse_not_placed (h : (s.slot p k.val).range ≠ .placed) : execRangingNoResponse p k s = .next s := if_pos h

/-- A shadow takes no action on a missing response. -/
theorem execRangingNoResponse_shadow (h : s.owned p.val = false) :
    Completes (execRangingNoResponse p k s) (fun t => t.act = s.act ∧ t.words = s.words) := by
  unfold execRangingNoResponse
  extract_lets i x s1
  refine completes_ite ⟨_, rfl, rfl, rfl⟩ ?_
  rw [if_pos (by simp [h])]
  exact ⟨_, rfl, s.takeRng_parts ..⟩

/-- What a missing response leaves at once: the ranging burst is over, and counted. -/
def State.rangeMissed (s : State) (p : Fin 32) (i : Nat) : State :=
  (s.takeRng p (s.slot p i).side i).inc (Cnt.ACT_RANGE_NO_RESP p.val (s.slot p i).side)

theorem State.slot_rangeMissed (s : State) (p : Fin 32) (i : Nat) : (s.rangeMissed p i).slot p i = s.slot p i :=
  State.slot_inc_takeRng ..

variable (hplaced : (s.slot p k.val).range = .placed) (howned : s.owned p.val = true)
include hplaced howned

/-- With tries left the grant is due again. -/
theorem execRangingNoResponse_again (htries : (s.slot p k.val).tries + 1 < s.rangeTries p) :
    execRangingNoResponse p k s = .next ((s.rangeMissed p k.val).setSlot p k.val { s.slot p k.val with
      range := .due, tries := (s.slot p k.val).tries + 1 }) := by
  simp [execRangingNoResponse, State.rangeMissed, hplaced, howned, htries]

variable (hspent : s.rangeTries p ≤ (s.slot p k.val).tries + 1)
include hspent

/-- With the tries spent an ACTIVE ONU is LOST (R93). -/
theorem execRangingNoResponse_active (hst : (s.slot p k.val).state = .active) :
    execRangingNoResponse p k s = .next ((s.rangeMissed p k.val).toLost p k.val) := by
  simp [execRangingNoResponse, State.rangeMissed, hplaced, howned, Nat.not_lt.2 hspent, hst]

/-- With the tries spent an ASSIGNED slot is freed (R87). -/
theorem execRangingNoResponse_assigned (hst : (s.slot p k.val).state = .assigned) :
    execRangingNoResponse p k s = .next (((s.rangeMissed p k.val).freeSlot p k.val (some .deactivate)).raise .ACT_RANGE_FAIL (srcPt p)
      (onuAddr p (s.slot p k.val).side k.val 0)) := by
  simp [execRangingNoResponse, State.rangeMissed, hplaced, howned, Nat.not_lt.2 hspent, hst]

end

/-- Settles O7, case by case of the response and of its absence, read at the slot. -/
theorem rangingOutcome : Obligations.RangingOutcome := by
  refine ⟨fun p k d s h => ⟨execRangingResponse_not_placed h, execRangingNoResponse_not_placed h⟩,
    fun p k d e s he h => execRangingResponse_outside he h,
    fun p k d e s he hlo hhi hplaced howned hst => execRangingResponse_assigned he hlo hhi hplaced howned hst rfl,
    fun p k d e s he hlo hhi hplaced howned hst => ?_,
    fun p k d s h => ⟨execRangingResponse_shadow h, execRangingNoResponse_shadow h⟩, fun p k s hplaced howned htries => ?_,
    fun p k s hplaced howned hspent hst => ?_, fun p k s hplaced howned hspent hst => ?_⟩
  · refine ⟨_, execRangingResponse_active he hlo hhi hplaced howned hst, ?_⟩
    simp [State.slot_holdFor, State.slot_inc_takeRng, hst]
  · refine ⟨_, execRangingNoResponse_again hplaced howned htries, ?_⟩
    simp
  · refine ⟨_, execRangingNoResponse_active hplaced howned hspent hst, ?_⟩
    simp [State.slot_toLost]
  · refine ⟨_, execRangingNoResponse_assigned hplaced howned hspent hst, ?_⟩
    exact (State.slot_congr (State.raise_act ..) ..).trans (State.slot_freeSlot ..)

end Sys2Proof.Machine

/-! SUPPORT. Registration and key exchange (03_activation_and_ranging.md R83, R88, R89; 09_encryption_and_keys.md R313, R316): what a queue, a slot
and a root slot read after the operations of activation, and what the Steward makes of a Registration, a key report and a wait that ends. -/

namespace Sys2Proof.Machine

set_option autoImplicit false

/-! PLOAM queues. -/

theorem State.plq_of_ploam {t s : State} (h : t.act.ploam = s.act.ploam) (p : Fin 32) (sd : Nat) : t.plq p sd = s.plq p sd := by
  simp only [State.plq, h]

/-- A queue reads as it was set. -/
@[simp] theorem State.plq_setPlq_same (s : State) (p : Fin 32) (sd : Nat) (q : PloamQ) : (s.setPlq p sd q).plq p sd = q := by
  unfold State.setPlq
  split
  · next h => exact h
  · exact (State.plq_of_ploam (congrArg Act.ploam (State.mirror_act ..)) ..).trans (Tab.get_set_same ..)

/-- A queued message stands last in its side's queue. -/
theorem State.plq_queuePloam_same (s : State) (p : Fin 32) (sd onu : Nat) (b : PloamBody) : (s.queuePloam p sd onu b).plq p sd = { s.plq p sd with
    queue := (s.plq p sd).queue ++ [⟨onu, b, (s.plq p sd).seq, 0⟩], seq := ((s.plq p sd).seq + 1) % 256 } := State.plq_setPlq_same ..

theorem State.setSlot_ploam (s : State) (p : Fin 32) (i : Nat) (x : Slot) : (s.setSlot p i x).act.ploam = s.act.ploam := by
  unfold State.setSlot
  extract_lets a s1 s2
  split
  · rfl
  · have hs2 : s2.act = s1.act := by
      dsimp only [s2]
      split
      · rfl
      · split <;> rfl
    exact (congrArg Act.ploam ((State.mirror_act ..).trans hs2)).trans rfl

/-! Root slots. -/

theorem State.root_of_roots {t s : State} (h : t.keys.roots = s.keys.roots) (k : Nat) : t.root k = s.root k := by
  simp only [State.root, h]

theorem State.root_setSlot (s : State) (p : Fin 32) (i : Nat) (x : Slot) (k : Nat) : (s.setSlot p i x).root k = s.root k :=
  State.root_of_roots (by simp) k

theorem State.mirrorKey_keys (s : State) (k : Nat) : (s.mirrorKey k).keys = s.keys :=
  (State.mirrorKey_within (K := (· = .twn)) (within_refl s) k rfl).keys.resolve_left nofun

/-- A root slot reads as it was stored. -/
theorem State.root_setRoot_same (s : State) (k : Nat) (r : Root) : (s.setRoot k r).root k = r :=
  (State.root_of_roots (congrArg Keys.roots (State.mirrorKey_keys ..)) k).trans (Tab.get_set_same ..)

/-! Entry to ACTIVE (Table 3-4). -/

theorem State.nextOmci_act (s : State) (p : Fin 32) (i : Nat) : (s.nextOmci p i).act = s.act :=
  (State.nextOmci_within (K := (· ∈ [Part.ctrs, .stw, .tly])) (within_refl s) p i (by simp) (by simp) (by simp)).act.resolve_left (by simp)

/-- The template's OMCI records start beside the slot, which is ACTIVE either way. -/
theorem State.slot_toActive (s : State) (p : Fin 32) (i : Nat) : (s.toActive p i).slot p i = { s.slot p i with
    state := .active, offs := [], missed := 0, tries := 0, range := .none, hold := false } := by
  unfold State.toActive
  extract_lets x s1
  have h1 : s1.slot p i = { x with state := .active, offs := [], missed := 0, tries := 0, range := .none, hold := false } :=
    State.slot_setSlot_same ..
  split
  · exact h1
  · split
    · exact h1
    · exact (State.slot_congr (State.nextOmci_act ..) p i).trans h1

theorem State.slot_tryActive {s : State} {p : Fin 32} {i : Nat} (hst : (s.slot p i).state = .ranged) (hreg : (s.slot p i).regOk = true)
    (hkey : (s.slot p i).keyOk = true) : ((s.tryActive p i).slot p i).state = .active := by
  rw [State.tryActive, if_pos ⟨hst, hreg, hkey⟩, State.slot_toActive]

/-! Who acts: a shadow does nothing (R349), a paused Steward has what reaches it wait (R531). -/

theorem State.stewards_iff {s : State} {p : Fin 32} : s.stewards p = true ↔ s.owned p.val = true ∧ s.stw.paused = false := by
  simp [State.stewards]

section
variable {p : Fin 32} {k : Fin 256} {s : State}

theorem execKeyExchangeTimeout_no_steward (h : s.stewards p = false) : execKeyExchangeTimeout p k s = .next s := by
  unfold execKeyExchangeTimeout
  split
  · rfl
  · simp [h]

theorem execRegistrationTimeout_no_steward (h : s.stewards p = false) : execRegistrationTimeout p k s = .next s := if_pos (.inr (.inr h))

theorem execLostWaitExpiry_no_steward (h : s.stewards p = false) : execLostWaitExpiry p k s = .next s := by
  simp [execLostWaitExpiry, h]

theorem execRegistrationRx_shadow (h : s.owned p.val = false) (n : Nat) : execRegistrationRx p k n s = .next s := by
  simp [execRegistrationRx, h]

theorem execRegistrationRx_paused (howned : s.owned p.val = true) (hpaused : s.stw.paused = true) (n : Nat) :
    execRegistrationRx p k n s = .next (s.forSteward (.registration p.val k.val n)) := by
  simp [execRegistrationRx, howned, hpaused]

theorem execRegistrationRx_stewards (h : s.stewards p = true) (n : Nat) : execRegistrationRx p k n s = .next (s.takeRegistration p k.val n) := by
  obtain ⟨howned, hruns⟩ := State.stewards_iff.1 h
  simp [execRegistrationRx, howned, hruns]

theorem execKeyReportRx_shadow (h : s.owned p.val = false) (d x : BitVec 128) : execKeyReportRx p k d x s = .next s := by
  simp [execKeyReportRx, h]

theorem execKeyReportRx_paused (howned : s.owned p.val = true) (hpaused : s.stw.paused = true) (d x : BitVec 128) :
    execKeyReportRx p k d x s = .next (s.forSteward (.keyReport p.val k.val d.toNat x.toNat)) := by
  simp [execKeyReportRx, howned, hpaused]

theorem execKeyReportRx_stewards (h : s.stewards p = true) (d x : BitVec 128) :
    execKeyReportRx p k d x s = .next (s.takeKeyReport p k.val d.toNat x.toNat) := by
  obtain ⟨howned, hruns⟩ := State.stewards_iff.1 h
  simp [execKeyReportRx, howned, hruns]

end

/-! A Registration taken by the Steward (R83, R88). -/

section
variable {s : State} {p : Fin 32} {i : Nat}

theorem State.takeRegistration_unasked (h : (s.slot p i).state ≠ .ranged ∨ (s.slot p i).regOk = true) (n : Nat) :
    s.takeRegistration p i n = s := if_pos h

variable (hst : (s.slot p i).state = .ranged) (hreg : (s.slot p i).regOk = false)
include hst hreg

theorem State.takeRegistration_mismatch {a : Auth} {m n : Nat} (ha : s.act.auth[(s.slot p i).authIdx]? = some a) (hm : a.regId = some m)
    (hne : m ≠ n) : s.takeRegistration p i n = (s.disableSlot p i).raise .UNAUTH_ONU (srcPt p) (onuAddr p (s.slot p i).side i 1) := by
  simp [State.takeRegistration, hst, hreg, ha, hm, hne]

/-- With no REG_ID held every Registration matches. -/
theorem State.takeRegistration_unheld (ha : s.act.auth[(s.slot p i).authIdx]? = none) (n : Nat) : s.takeRegistration p i n =
    let s1 := s.setSlot p i { s.slot p i with regOk := true }
    if (s.slot p i).keyOk then s1.tryActive p i else s1.queuePloam p (s.slot p i).side i (.keyControl 1 false) := by
  simp [State.takeRegistration, hst, hreg, ha]

variable (ha : s.act.auth[(s.slot p i).authIdx]? = none) (n : Nat)
include ha

theorem State.slot_takeRegistration_active (hkey : (s.slot p i).keyOk = true) : ((s.takeRegistration p i n).slot p i).state = .active := by
  rw [State.takeRegistration_unheld hst hreg ha, if_pos hkey]
  exact State.slot_tryActive (by simp [hst]) (by simp) (by simp [hkey])

section
variable (hkey : (s.slot p i).keyOk = false)
include hkey

theorem State.takeRegistration_keyControl : s.takeRegistration p i n =
    (s.setSlot p i { s.slot p i with regOk := true }).queuePloam p (s.slot p i).side i (.keyControl 1 false) := by
  rw [State.takeRegistration_unheld hst hreg ha]
  exact if_neg (by simp [hkey])

theorem State.slot_takeRegistration_keyControl : (s.takeRegistration p i n).slot p i = { s.slot p i with regOk := true } := by
  rw [State.takeRegistration_keyControl hst hreg ha n hkey]
  exact (State.slot_of_slots (State.queuePloam_slots ..) ..).trans (State.slot_setSlot_same ..)

theorem State.plq_takeRegistration_keyControl : ((s.takeRegistration p i n).plq p (s.slot p i).side).queue =
    (s.plq p (s.slot p i).side).queue ++ [⟨i, .keyControl 1 false, (s.plq p (s.slot p i).side).seq, 0⟩] := by
  rw [State.takeRegistration_keyControl hst hreg ha n hkey, State.plq_queuePloam_same, State.plq_of_ploam (State.setSlot_ploam ..)]

end

end

/-! A key report taken by the Steward (R316, R317). -/

section
variable {s : State} {p : Fin 32} {i : Nat}

/-- While an activation of the pair is pending no report is taken. -/
theorem State.takeKeyReport_busy {f : Nat} (h : (s.root (rootOf (slotKey p i) 0)).pend = some f ∨ (s.root (rootOf (slotKey p i) 1)).pend = some f)
    (dk sk : Nat) : s.takeKeyReport p i dk sk = s := by
  refine if_pos (.inr (.inr ?_))
  rcases h with h | h <;> simp only [h, Option.isSome_some, Bool.true_or, Bool.or_true]

/-- What a taken report leaves: the pair's first slot loaded with its keys and due at the next activation, and no wait for the report. -/
def State.keyReported (s : State) (p : Fin 32) (i dk sk : Nat) : State :=
  let s1 := (s.micKey p i 2).setRoot (rootOf (slotKey p i) 0)
    { Root.empty with state := .loaded, dk := dk, sk := sk, pend := some (s.nextActivation p) }
  s1.setSlot p i { s1.slot p i with keyWait := none }

theorem State.takeKeyReport_first (herased : s.bit Reg.KEY_STATUS.ERASED = false) (hst : (s.slot p i).state = .ranged)
    (hempty : (s.root (rootOf (slotKey p i) 0)).state = .empty) (h0 : (s.root (rootOf (slotKey p i) 0)).pend = none)
    (h1 : (s.root (rootOf (slotKey p i) 1)).pend = none) (dk sk : Nat) : s.takeKeyReport p i dk sk = s.keyReported p i dk sk := by
  have hfree : [rootOf (slotKey p i) 0, rootOf (slotKey p i) 1].find? (fun k => (s.root k).state = .empty) = some (rootOf (slotKey p i) 0) :=
    List.find?_cons_of_pos (decide_eq_true hempty)
  unfold State.takeKeyReport
  extract_lets node st free busy
  have hbusy : busy = false := by simp only [busy, node, h0, h1, Option.isSome_none, Bool.or_false]
  rw [if_neg (by simp [herased, st, hst, hbusy])]
  simp only [free, node, hfree]
  rfl

theorem State.root_keyReported (dk sk : Nat) : (s.keyReported p i dk sk).root (rootOf (slotKey p i) 0) =
    { Root.empty with state := .loaded, dk := dk, sk := sk, pend := some (s.nextActivation p) } :=
  (State.root_setSlot ..).trans (State.root_setRoot_same ..)

theorem State.keyWait_keyReported (dk sk : Nat) : ((s.keyReported p i dk sk).slot p i).keyWait = none :=
  congrArg Slot.keyWait (State.slot_setSlot_same ..)

end

/-! KEY_EXCHANGE_TIMEOUT, REGISTRATION_TIMEOUT and LOST_WAIT_EXPIRY (R88, Table 3-4). -/

section
variable {p : Fin 32} {k : Fin 256} {s : State}

theorem execKeyExchangeTimeout_no_wait (h : (s.slot p k.val).keyWait = none) : execKeyExchangeTimeout p k s = .next s := by
  simp [execKeyExchangeTimeout, h]

theorem execKeyExchangeTimeout_wait (hs : s.stewards p = true) {f : Nat} (h : (s.slot p k.val).keyWait = some f) : execKeyExchangeTimeout p k s =
    .next (if f + s.ackWait p * (s.ackTries p + 1) ≤ s.sfc p then s.dropRanged p k.val else s) := by
  simp [execKeyExchangeTimeout, h, hs]

/-- A RANGED slot with no Registration is asked again while tries are left, and given up after. -/
theorem execRegistrationTimeout_ranged (hs : s.stewards p = true) (hst : (s.slot p k.val).state = .ranged) (hreg : (s.slot p k.val).regOk = false) :
    execRegistrationTimeout p k s = .next (if (s.slot p k.val).tries < s.ackTries p then
      (s.setSlot p k.val { s.slot p k.val with tries := (s.slot p k.val).tries + 1 }).queuePloam p (s.slot p k.val).side k.val .requestRegistration
      else s.dropRanged p k.val) := by
  simp only [execRegistrationTimeout, hs, hst, hreg]
  exact (apply_ite ok ..).symm

theorem execLostWaitExpiry_lost (hs : s.stewards p = true) (hst : (s.slot p k.val).state = .lost) :
    execLostWaitExpiry p k s = .next (s.freeSlot p k.val (some .deactivate)) := by
  simp [execLostWaitExpiry, hs, hst]

theorem execLostWaitExpiry_not_lost (h : (s.slot p k.val).state ≠ .lost) : execLostWaitExpiry p k s = .next s := by
  simp [execLostWaitExpiry, h]

end

/-- Settles O8, by who acts and then command by command: what a Registration, a key report and the end of each wait leave of the slot, its
queue and its pair of keys. -/
theorem registrationAndKeys : Obligations.RegistrationAndKeys := by
  refine ⟨fun p k n d x s h => ?_, fun p k n d x s howned hpaused => ?_, fun p k n s hs h => ?_, fun p k n s hs hst hreg hkey ha => ?_,
    fun p k n s hs hst hreg hkey ha => ?_, fun p k n m a s hs hst hreg ha hm hne => ?_, fun p k d x s hs herased hst hempty h0 h1 => ?_,
    fun p k d x f s hs h => ?_, fun p k s h => execKeyExchangeTimeout_no_wait h, fun p k f s hs h => execKeyExchangeTimeout_wait hs h,
    fun p k s hs hst hreg => execRegistrationTimeout_ranged hs hst hreg, fun p k s hs hst => ?_,
    fun p k s h => execLostWaitExpiry_not_lost h⟩
  · have hs : s.stewards p = false := by simp [State.stewards, h]
    exact ⟨execRegistrationRx_shadow h n, execKeyReportRx_shadow h d x, execKeyExchangeTimeout_no_steward hs,
      execRegistrationTimeout_no_steward hs, execLostWaitExpiry_no_steward hs⟩
  · have hs : s.stewards p = false := by simp [State.stewards, hpaused]
    exact ⟨execRegistrationRx_paused howned hpaused n, execKeyReportRx_paused howned hpaused d x, execKeyExchangeTimeout_no_steward hs,
      execRegistrationTimeout_no_steward hs, execLostWaitExpiry_no_steward hs⟩
  · exact (execRegistrationRx_stewards hs n).trans (congrArg ok (State.takeRegistration_unasked h n))
  · exact ⟨_, execRegistrationRx_stewards hs n, State.slot_takeRegistration_active hst hreg ha n hkey⟩
  · have hslot := State.slot_takeRegistration_keyControl hst hreg ha n hkey
    exact ⟨_, execRegistrationRx_stewards hs n, congrArg Slot.regOk hslot, (congrArg Slot.state hslot).trans hst, _,
      State.plq_takeRegistration_keyControl hst hreg ha n hkey, rfl, rfl⟩
  · exact (execRegistrationRx_stewards hs n).trans (congrArg ok (State.takeRegistration_mismatch hst hreg ha hm hne))
  · refine ⟨_, (execKeyReportRx_stewards hs d x).trans (congrArg ok (State.takeKeyReport_first herased hst hempty h0 h1 ..)), ?_⟩
    dsimp only
    rw [State.root_keyReported]
    exact ⟨rfl, rfl, rfl, rfl, State.keyWait_keyReported ..⟩
  · exact (execKeyReportRx_stewards hs d x).trans (congrArg ok (State.takeKeyReport_busy h ..))
  · exact ⟨_, execLostWaitExpiry_lost hs hst, State.slot_freeSlot ..⟩

end Sys2Proof.Machine

/-! SUPPORT. Activation commands and timers (03_activation_and_ranging.md R66, R70, R71, R96, R97, R99, R102): what a tree reads after the
operations of the ramp and the hunt, and what a written TEQD or reach is held to. -/

namespace Sys2Proof.Machine

set_option autoImplicit false

/-! Trees and slots beside a host's access and the ramp. -/

theorem State.hostTlp_act (s : State) (rd : Bool) (ag : Agent) (a : Nat) : (s.hostTlp rd ag a).act = s.act := by simp

theorem State.hostTlp_stw (s : State) (rd : Bool) (ag : Agent) (a : Nat) : (s.hostTlp rd ag a).stw = s.stw := by simp

theorem State.owned_congr {t s : State} (h : t.words = s.words) (n : Nat) : t.owned n = s.owned n := by
  simp only [State.owned, State.bit_congr h, State.word_congr h]

/-- A tree reads as it was set, whatever is raised. -/
theorem State.tree_raise_setTreeSt (s : State) (p : Fin 32) (x : Tree) (k : Kind) (src : Source) (a : Nat) :
    ((s.setTreeSt p x).raise k src a).tree p = x :=
  (State.tree_congr (State.raise_act ..) p).trans (State.tree_setTreeSt_same ..)

theorem State.tree_leaveRamp (s : State) (p : Fin 32) : (s.leaveRamp p).tree p = { s.tree p with ramp := false } :=
  (State.tree_congr (State.mirror_act ..) p).trans (State.tree_setTreeSt_same ..)

theorem State.rampCheck_words (s : State) (p : Fin 32) : (s.rampCheck p).words = s.words := by simp

/-! The effect of a command of PTn_ACT_CMD (R102). -/

section
variable {s : State} {p : Fin 32} (howned : s.owned p.val = true) (i : Nat)
include howned

theorem State.actCmd_rampStart : s.actCmd p 1 i = s.enterRamp p := by
  simp [State.actCmd, howned]

theorem State.actCmd_rampStop : s.actCmd p 2 i = if (s.tree p).ramp then s.leaveRamp p else s := by
  simp [State.actCmd, howned]

theorem State.actCmd_deactivate : s.actCmd p 3 i = if (s.slot p i).state.inService then s.freeSlot p i (some .deactivate) else s := by
  simp [State.actCmd, howned]

theorem State.ramp_actCmd_rampStop : ((s.actCmd p 2 i).tree p).ramp = false := by
  rw [State.actCmd_rampStop howned]
  split
  · rw [State.tree_leaveRamp]
  · next h => exact Bool.not_eq_true _ ▸ h

theorem State.inService_actCmd_deactivate : ((s.actCmd p 3 i).slot p i).state.inService = false := by
  rw [State.actCmd_deactivate howned]
  split
  · rw [State.slot_freeSlot]
    rfl
  · next h => exact Bool.not_eq_true _ ▸ h

/-- An enabled slot is no longer DISABLED, whether or not its serial number is sent the enable option. -/
theorem State.slot_actCmd_enable : ((s.actCmd p 4 i).slot p i).state ≠ .disabled := by
  unfold State.actCmd
  extract_lets x s1
  have h1 : (s1.slot p i).state ≠ .disabled := by
    rw [State.slot_setSlot_same]
    decide
  simp only [howned, Bool.not_true, Bool.false_eq_true, if_false]
  split
  · split
    · rwa [State.slot_of_slots (State.queuePloam_slots ..)]
    · exact h1
  · next h => exact h

end

/-! A write of PTn_ACT_CMD (R102). -/

section
variable {s : State} {ag : Agent} {p : Fin 32} (hr : s.reaches ag (Reg.PT_ACT_CMD.addr p.val) = true) (hcmd : (s.tree p).cmd = none) (op i : Nat)
include hr hcmd

/-- A command is taken at once while the Steward runs. -/
theorem State.actWrite_taken (hruns : s.stw.paused = false) :
    s.actWrite ag p op i = (s.hostTlp false ag (Reg.PT_ACT_CMD.addr p.val)).actCmd p op i := by
  simp [State.actWrite, State.gate_reaches hr, State.tree_congr (State.hostTlp_act ..), hcmd, hruns]

/-- A command is kept while the Steward is paused. -/
theorem State.actWrite_kept (hpaused : s.stw.paused = true) : s.actWrite ag p op i =
    (s.hostTlp false ag (Reg.PT_ACT_CMD.addr p.val)).setTreeSt p { s.tree p with cmd := some (op, i) } := by
  simp [State.actWrite, State.gate_reaches hr, State.tree_congr (State.hostTlp_act ..), hcmd, hpaused]

end

/-! RAMP_TIMEOUT (R99). -/

section
variable {p : Fin 32} {s : State}

theorem execRampTimeout_ramp (hramp : (s.tree p).ramp = true) (howned : s.owned p.val = true) :
    Completes (execRampTimeout p s) (fun t => (t.tree p).ramp = false) :=
  ⟨_, congrArg ok (if_pos (by simp [hramp, howned])),
    congrArg Tree.ramp ((State.tree_congr (State.raise_act ..) p).trans (State.tree_leaveRamp ..))⟩

theorem execRampTimeout_idle (h : (s.tree p).ramp = false ∨ s.owned p.val = false) : execRampTimeout p s = .next s :=
  congrArg ok (if_neg (by rcases h with h | h <;> simp [h]))

end

/-! ROGUE_HUNT_START and ROGUE_WATCH_END (R96 to R98). -/

theorem execRogueHuntStart_barred {p : Fin 32} {sd : Side} {s : State} (h : s.bit (Reg.PT_TRACK_CFG.ROGUE_EN p.val) = false ∨
    s.stw.paused = true ∨ (s.tree p).severe ≠ some sd.n) : execRogueHuntStart p sd s = .next s := by
  refine if_pos ?_
  rcases h with h | h | h <;> simp [h]

/-- With no stray event kept the hunt has no candidate. -/
theorem execRogueHuntStart_no_strays {p : Fin 32} {sd : Side} {s : State} (hen : s.bit (Reg.PT_TRACK_CFG.ROGUE_EN p.val) = true)
    (hstray : s.straySevere p = true) (hsevere : (s.tree p).severe = some sd.n) (hhunt : (s.tree p).hunt = none)
    (hdone : (s.tree p).huntDone = []) (hruns : s.stw.paused = false) (howned : s.owned p.val = true) (hnone : (s.tree p).strays = []) :
    execRogueHuntStart p sd s = .next (s.huntNext p ⟨sd.n, false, false, [], none, none, false, 0⟩) := by
  have hnames : byFrequency [] = [] := rfl
  simp [execRogueHuntStart, hen, hstray, hsevere, hhunt, hdone, hruns, howned, hnone, hnames]

theorem execRogueWatchEnd_no_hunt {p : Fin 32} {s : State} (h : (s.tree p).hunt = none) : execRogueWatchEnd p s = .next s := by
  simp [execRogueWatchEnd, h]

/-- A watch that ends without stray light confirms its candidate, here one whose slot is DISABLED already, and ends the hunt. -/
theorem execRogueWatchEnd_confirmed {p : Fin 32} {h : Hunt} {c sn k : Nat} {s : State} (hhunt : (s.tree p).hunt = some h)
    (htest : h.test = some (c, sn)) (hsent : h.sentAt = some k) (hend : k + 17 ≤ s.sfc p) (hstray : h.stray = false)
    (hslot : (s.slot p c).state = .disabled) : execRogueWatchEnd p s =
      .next ((s.setTreeSt p { s.tree p with hunt := none, huntDone := h.side :: (s.tree p).huntDone }).raise .ROGUE_ONU (srcPt p)
        (onuAddr p h.side c 0)) := by
  simp [execRogueWatchEnd, hhunt, htest, hsent, Nat.not_lt.2 hend, hstray, hslot]

/-! PLOAM_ACK_TIMEOUT (R66). -/

section
variable {p : Fin 32} {sd : Side} {s : State}

theorem execPloamAckTimeout_idle (h : (s.plq p sd.n).waits = [] ∨ s.owned p.val = false) : execPloamAckTimeout p sd s = .next s := by
  rcases h with h | h <;> simp [execPloamAckTimeout, h]

/-- With retransmissions left the message whose wait has ended stands last in the queue again. -/
theorem execPloamAckTimeout_again (howned : s.owned p.val = true) {w : AckWait} {r : List AckWait} (hw : (s.plq p sd.n).waits = w :: r)
    (hend : w.frame + s.ackWait p ≤ s.sfc p) (htries : w.msg.retry < s.ackTries p) : execPloamAckTimeout p sd s =
      .next ((s.setPlq p sd.n { s.plq p sd.n with waits := r }).setPlq p sd.n { s.plq p sd.n with
        waits := r, queue := (s.plq p sd.n).queue ++ [{ w.msg with retry := w.msg.retry + 1 }] }) := by
  simp [execPloamAckTimeout, howned, hw, hend, htries]

end

/-! TEQD_WRITE (R70). -/

section
variable {s : State} {ag : Agent} {p : Fin 32} (hr : s.reaches ag (Reg.PT_TEQD.addr p.val) = true) (v : Word)
include hr

theorem execTeqdWrite_in_service (hany : (List.range 256).any (fun i => (s.slot p i).state.inService) = true) :
    execTeqdWrite ag p v s = .next ((s.hostTlp false ag (Reg.PT_TEQD.addr p.val)).wr (Reg.PT_ACT_STATUS.TEQD_REFUSED p.val) 1) := by
  rw [execTeqdWrite, State.gate_reaches hr, if_pos]
  simpa only [State.slot_congr (State.hostTlp_act ..)] using hany

theorem execTeqdWrite_unused (hany : ¬ (List.range 256).any (fun i => (s.slot p i).state.inService) = true) : execTeqdWrite ag p v s =
    .next ((((s.hostTlp false ag (Reg.PT_TEQD.addr p.val)).storeWord ag (Reg.PT_TEQD.addr p.val) v).mirror 6 p 0xFF 0x200).rampCheck p) := by
  rw [execTeqdWrite, State.gate_reaches hr, if_neg]
  simpa only [State.slot_congr (State.hostTlp_act ..)] using hany

end

/-! REACH_WRITE (R71). -/

/-- A register whose every bit is RW holds what was stored. -/
theorem State.word_storeWord_all_rw {s : State} {a n : Nat} {r : RegRow} (hr : regAt a = some (r, n)) (hrw : r.rw = BitVec.allOnes 32) (ag : Agent)
    (v : Word) : (s.storeWord ag a v).word a = v := by
  obtain ⟨hword, -⟩ := State.storeWord_storedAs (s := s) (v := v) hr ag
  rwa [hrw, BitVec.and_allOnes, BitVec.and_allOnes] at hword

theorem regAt_reach (p : Fin 32) : ∃ r n, regAt (Reg.PT_REACH.addr p.val) = some (r, n) ∧ r.rw = BitVec.allOnes 32 := by
  have hrow : (regAt (Reg.PT_REACH.addr p.val)).any (fun x => x.1.rw == BitVec.allOnes 32) = true := by
    revert p
    decide
  obtain ⟨⟨r, n⟩, hr, hrw⟩ := (Option.any_eq_true ..).1 hrow
  exact ⟨r, n, hr, eq_of_beq hrw⟩

/-- A stored reach reads in each of its fields as written. -/
theorem State.rd_storeWord_reach (s : State) (ag : Agent) (p : Fin 32) (v : Word) {f : Fld} (hf : f.addr = Reg.PT_REACH.addr p.val) :
    (s.storeWord ag (Reg.PT_REACH.addr p.val) v).rd f = fldOf v f := by
  obtain ⟨r, n, hr, hrw⟩ := regAt_reach p
  have hword : (s.storeWord ag (Reg.PT_REACH.addr p.val) v).word f.addr = v := by
    rw [hf]
    exact State.word_storeWord_all_rw hr hrw ag v
  exact congrArg (fun x : Word => x.toNat / 2 ^ f.lo % 2 ^ f.w) hword

/-- The reach breaks a limit: it passes 60 km, or spans more than 40 km. -/
def State.reachBroken (s : State) (p : Fin 32) : Bool :=
  decide (60 < s.rd (Reg.PT_REACH.MAX_KM p.val)) || decide (s.rd (Reg.PT_REACH.MIN_KM p.val) + 40 < s.rd (Reg.PT_REACH.MAX_KM p.val))

/-- A reach held to its limits, with the mark of whether it had to be. -/
def State.reachHeld (s : State) (p : Fin 32) : State :=
  (if s.reachBroken p then s.wr (Reg.PT_REACH.MAX_KM p.val) (min 60 (s.rd (Reg.PT_REACH.MIN_KM p.val) + 40)) else s).wr
    (Reg.PT_ACT_STATUS.REACH_CLAMPED p.val) (if s.reachBroken p then 1 else 0)

theorem execReachWrite_held {s : State} {ag : Agent} {p : Fin 32} (hr : s.reaches ag (Reg.PT_REACH.addr p.val) = true) (v : Word) :
    execReachWrite ag p v s =
      .next (((((s.hostTlp false ag (Reg.PT_REACH.addr p.val)).storeWord ag (Reg.PT_REACH.addr p.val) v).reachHeld p).mirror 6 p 0xFF 0x204).rampCheck
        p) := by
  rw [execReachWrite, State.gate_reaches hr]
  rfl

section
variable (s : State) (p : Fin 32)

/-- The mark lies in another word than the reach. -/
theorem State.rd_reach_wr_clamped {f : Fld} (hf : f.addr = Reg.PT_REACH.addr p.val) (v : Nat) :
    (s.wr (Reg.PT_ACT_STATUS.REACH_CLAMPED p.val) v).rd f = s.rd f := State.rd_wr_addr _ _ _ _ (by simp [hf])

theorem State.rd_minKm_reachHeld : (s.reachHeld p).rd (Reg.PT_REACH.MIN_KM p.val) = s.rd (Reg.PT_REACH.MIN_KM p.val) := by
  rw [State.reachHeld, State.rd_reach_wr_clamped _ _ rfl]
  split
  · exact State.rd_wr_bits _ _ _ _ (by simp) (by simp) (.inl (by simp))
  · rfl

theorem State.rd_maxKm_reachHeld : (s.reachHeld p).rd (Reg.PT_REACH.MAX_KM p.val) =
    if s.reachBroken p then min 60 (s.rd (Reg.PT_REACH.MIN_KM p.val) + 40) else s.rd (Reg.PT_REACH.MAX_KM p.val) := by
  rw [State.reachHeld, State.rd_reach_wr_clamped _ _ rfl]
  split
  · exact (State.rd_wr _ _ _ (by simp)).trans (Nat.mod_eq_of_lt (Nat.lt_of_le_of_lt (Nat.min_le_left ..) (by simp)))
  · rfl

theorem State.bit_clamped_reachHeld : (s.reachHeld p).bit (Reg.PT_ACT_STATUS.REACH_CLAMPED p.val) = s.reachBroken p := by
  rw [State.reachHeld, State.bit_wr _ _ _ (by simp)]
  cases s.reachBroken p <;> rfl

end

/-- A written reach: the near end as written, the far end held to its limits, and the mark of whether it had to be. -/
theorem execReachWrite_effect {s : State} {ag : Agent} {p : Fin 32} (hr : s.reaches ag (Reg.PT_REACH.addr p.val) = true) (v : Word) {lo hi : Nat}
    (hlo : lo = fldOf v (Reg.PT_REACH.MIN_KM p.val)) (hhi : hi = fldOf v (Reg.PT_REACH.MAX_KM p.val)) :
    Completes (execReachWrite ag p v s) (fun t => t.rd (Reg.PT_REACH.MIN_KM p.val) = lo ∧
      t.rd (Reg.PT_REACH.MAX_KM p.val) = (if 60 < hi ∨ lo + 40 < hi then min 60 (lo + 40) else hi) ∧
      t.bit (Reg.PT_ACT_STATUS.REACH_CLAMPED p.val) = decide (60 < hi ∨ lo + 40 < hi)) := by
  refine ⟨_, execReachWrite_held hr v, ?_⟩
  generalize s.hostTlp false ag (Reg.PT_REACH.addr p.val) = s0
  have hmin := State.rd_storeWord_reach s0 ag p v (f := Reg.PT_REACH.MIN_KM p.val) rfl
  have hmax := State.rd_storeWord_reach s0 ag p v (f := Reg.PT_REACH.MAX_KM p.val) rfl
  rw [← hlo] at hmin
  rw [← hhi] at hmax
  have hbroken : (s0.storeWord ag (Reg.PT_REACH.addr p.val) v).reachBroken p = decide (60 < hi ∨ lo + 40 < hi) := by
    rw [State.reachBroken, hmin, hmax, Bool.decide_or]
  have hwords (u : State) : ((u.mirror 6 p 0xFF 0x204).rampCheck p).words = u.words := (State.rampCheck_words ..).trans (State.mirror_words ..)
  rw [State.rd_congr (hwords _), State.rd_congr (hwords _), State.bit_congr (hwords _), State.rd_minKm_reachHeld, State.rd_maxKm_reachHeld,
    State.bit_clamped_reachHeld, hbroken, hmin, hmax]
  exact ⟨rfl, by simp only [decide_eq_true_eq], rfl⟩

/-- Settles O9, command by command: what each order of the host, each timer's end and each written register leaves of the tree, its slots, its
queues and its words. -/
theorem activationCommands : Obligations.ActivationCommands := by
  refine ⟨fun ag p k s hr hcmd hruns howned => ?_, fun ag p k s hr hcmd hpaused => ?_, fun p s hramp howned => execRampTimeout_ramp hramp howned,
    fun p s h => execRampTimeout_idle h, fun p sd s h => execRogueHuntStart_barred h,
    fun p sd s hen hstray hsevere hhunt hdone hruns howned hnone =>
      execRogueHuntStart_no_strays hen hstray hsevere hhunt hdone hruns howned hnone,
    fun p s h => execRogueWatchEnd_no_hunt h, fun p h c sn k s hhunt htest hsent hend hstray hslot => ?_,
    fun p sd w r s howned hw hend htries => ?_, fun p sd s h => execPloamAckTimeout_idle h, fun ag p v s hr => ?_, fun ag p v s hr => ?_⟩
  · have htaken (op i : Nat) := congrArg ok (State.actWrite_taken hr hcmd op i hruns)
    have howned' : (s.hostTlp false ag (Reg.PT_ACT_CMD.addr p.val)).owned p.val = true :=
      (State.owned_congr (State.hostTlp_words ..) _).trans howned
    exact ⟨(htaken 1 0).trans (congrArg ok (State.actCmd_rampStart howned' 0)), ⟨_, htaken 2 0, State.ramp_actCmd_rampStop howned' 0⟩,
      ⟨_, htaken 3 k.val, State.inService_actCmd_deactivate howned' k.val⟩, ⟨_, htaken 4 k.val, State.slot_actCmd_enable howned' k.val⟩,
      htaken 5 k.val⟩
  · exact ⟨_, congrArg ok (State.actWrite_kept hr hcmd 3 k.val hpaused), congrArg Tree.cmd (State.tree_setTreeSt_same ..),
      State.slot_of_slots (congrArg Act.slots (State.hostTlp_act ..)) p k.val⟩
  · exact ⟨_, execRogueWatchEnd_confirmed hhunt htest hsent hend hstray hslot, congrArg Tree.hunt (State.tree_raise_setTreeSt ..),
      congrArg Tree.huntDone (State.tree_raise_setTreeSt ..)⟩
  · exact ⟨_, execPloamAckTimeout_again howned hw hend htries, congrArg PloamQ.waits (State.plq_setPlq_same ..),
      congrArg PloamQ.queue (State.plq_setPlq_same ..)⟩
  · by_cases hany : (List.range 256).any (fun i => (s.slot p i).state.inService) = true
    · refine ⟨_, execTeqdWrite_in_service hr v hany, (if_pos hany).mpr ⟨State.bit_wr _ _ _ (by simp), ?_⟩⟩
      rw [State.word_wr, if_neg (by simp)]
      exact State.word_congr (State.hostTlp_words ..) _
    · exact ⟨_, execTeqdWrite_unused hr v hany, (if_neg hany).mpr rfl⟩
  · obtain ⟨t, ht, hmin, hmax, hmark⟩ := execReachWrite_effect hr v rfl rfl
    refine ⟨t, ht, hmin, ?_⟩
    split
    · next hb => exact ⟨hmax.trans (if_pos hb), hmark.trans (decide_eq_true hb)⟩
    · next hb => exact ⟨hmax.trans (if_neg hb), hmark.trans (decide_eq_false hb)⟩

end Sys2Proof.Machine

/-! SUPPORT. Wharfinger's tables (04_bandwidth_assignment.md R110, R111, R131): what the words of a stored entry read. -/

namespace Sys2Proof.Machine

set_option autoImplicit false

/-! Words of a window's entry. -/

theorem winKey_ne {w idx j k : Nat} (h : j ≠ k) : winKey w idx j ≠ winKey w idx k := fun hk => h (Nat.add_left_cancel hk)

section
variable (s : State) (w idx first : Nat)

theorem State.putEntry_cons (v : Word) (vs : List Word) :
    s.putEntry w idx first (v :: vs) = (s.putWord (winKey w idx first) v).putEntry w idx (first + 1) vs := rfl

theorem State.word_putEntry_of_lt {j : Nat} (hj : j < first) (vs : List Word) :
    (s.putEntry w idx first vs).word (winKey w idx j) = s.word (winKey w idx j) := by
  induction vs generalizing s first with
  | nil => rfl
  | cons v vs ih => rw [State.putEntry_cons, ih _ _ (by omega), State.word_putWord, if_neg (winKey_ne (by omega))]

/-- The words of a stored entry: the new ones from `first` on, the old ones past the last that is given. -/
theorem State.word_putEntry (vs : List Word) (j : Nat) :
    (s.putEntry w idx first vs).word (winKey w idx (first + j)) = vs[j]?.getD (s.word (winKey w idx (first + j))) := by
  induction vs generalizing s first j with
  | nil => rfl
  | cons v vs ih =>
    rw [State.putEntry_cons]
    cases j with
    | zero => exact (State.word_putEntry_of_lt _ _ _ _ (Nat.lt_succ_self first) vs).trans (State.word_putWord_same ..)
    | succ j =>
      rw [← Nat.succ_add_eq_add_succ first j, ih, State.word_putWord, if_neg (winKey_ne (by omega))]
      rfl

end

/-! ALLOC_WRITE (R110, R111). -/

section
variable (s : State) (p : Fin 32) (i : Nat)

/-- A stored entry keeps the writable bits of each word; only word 4, which holds PKT_EST, is touched again. -/
theorem State.word_allocStore (ws : List Word) {j : Nat} (hj : j < 4) : (s.allocStore p i ws).word (winKey wWhf (allocIx p i) j) =
    (ws[j]?.map (· &&& allocMask j)).getD (s.word (winKey wWhf (allocIx p i) j)) := by
  have hentry := State.word_putEntry s wWhf (allocIx p i) 0 ((ws.take 5).mapIdx (fun j w => w &&& allocMask j)) j
  rw [List.getElem?_mapIdx, List.getElem?_take_of_lt (by omega), Nat.zero_add] at hentry
  rw [State.allocStore, State.word_wr, if_neg (winKey_ne (by omega)), hentry]

/-- PKT_EST is stored as 72 at least, which its 16 bits hold. -/
theorem State.le_pktEst_allocStore (ws : List Word) : 72 ≤ (s.allocStore p i ws).rd (Win.ALLOC_PKT_EST (allocIx p i)) := by
  rw [State.allocStore, State.rd_wr _ _ _ (by simp), Nat.mod_eq_of_lt]
  · exact Nat.le_max_left ..
  · exact Nat.max_lt.2 ⟨by simp, Nat.mod_lt _ (by simp)⟩

end

section
variable {ag : Agent} {p : Fin 32} {i : Fin 1024} {w0 w1 w2 w3 w4 : Word} {s : State} (hr : s.reachesWin ag wWhf = true)
include hr

theorem execAllocWrite_refused (h : s.allocRefused p i.val [w0, w1, w2, w3, w4] = true) :
    execAllocWrite ag p i w0 w1 w2 w3 w4 s = .next (s.deny ag .refused (allocIx p i.val) wWhf) := by
  rw [execAllocWrite, State.winGate_reaches hr, if_pos h]

theorem execAllocWrite_stored (h : ¬ s.allocRefused p i.val [w0, w1, w2, w3, w4] = true) :
    execAllocWrite ag p i w0 w1 w2 w3 w4 s = .next (s.allocWrite p i.val [w0, w1, w2, w3, w4]) := by
  rw [execAllocWrite, State.winGate_reaches hr, if_neg h]

end

/-! FSI_PAGE_WRITE (R131). -/

section
variable {ag : Agent} {ix : BitVec 18} {v : Word} {s : State} (hr : s.reachesWin ag wFsi = true)
include hr

theorem execFsiPageWrite_refused (h : s.fsiRefused ix.toNat = true) :
    execFsiPageWrite ag ix v s = .next (s.deny ag .refused ix.toNat wFsi) := by
  rw [execFsiPageWrite, State.winGate_reaches hr, if_pos h]

theorem execFsiPageWrite_stored (h : ¬ s.fsiRefused ix.toNat = true) : execFsiPageWrite ag ix v s = .next (s.fsiStore ix.toNat v) := by
  rw [execFsiPageWrite, State.winGate_reaches hr, if_neg h]

end

theorem State.mirror_whf (s : State) (k : Nat) (p : Fin 32) (side x : Nat) : (s.mirror k p side x).whf = s.whf := by simp

theorem State.word_fsiStore (s : State) (idx : Nat) (v : Word) : (s.fsiStore idx v).word (winKey wFsi idx 0) = v &&& 0xFFF8FFFF#32 :=
  (State.word_congr (State.mirror_words ..) _).trans (State.word_putWord_same ..)

theorem State.fsiStore_whf (s : State) (idx : Nat) (v : Word) : (s.fsiStore idx v).whf = s.whf := State.mirror_whf ..

/-- Settles O11: the two tables by whether the write is refused; the unlock and the algorithm switch are stores of their registers. -/
theorem wharfTableWrites : Obligations.WharfTableWrites := by
  refine ⟨fun ag p i w0 w1 w2 w3 w4 s hr => ?_, fun ag ix v s hr => ?_, fun ag v s hr => congrArg ok (State.gate_reaches hr _),
    fun ag v s hr => congrArg ok (State.gate_reaches hr _)⟩
  · by_cases h : s.allocRefused p i.val [w0, w1, w2, w3, w4] = true
    · exact ⟨_, execAllocWrite_refused hr h, (if_pos h).mpr rfl⟩
    · have hwords : (s.allocWrite p i.val [w0, w1, w2, w3, w4]).words = (s.allocStore p i.val [w0, w1, w2, w3, w4]).words :=
        State.mirror_words ..
      refine ⟨_, execAllocWrite_stored hr h, (if_neg h).mpr ?_⟩
      rw [State.rd_congr hwords, State.word_congr hwords, State.word_congr hwords]
      exact ⟨State.le_pktEst_allocStore .., State.word_allocStore _ _ _ _ (by decide), State.word_allocStore _ _ _ _ (by decide)⟩
  · by_cases h : s.fsiRefused ix.toNat = true
    · exact ⟨_, execFsiPageWrite_refused hr h, (if_pos h).mpr rfl⟩
    · exact ⟨_, execFsiPageWrite_stored hr h, (if_neg h).mpr ⟨State.word_fsiStore .., State.fsiStore_whf ..⟩⟩

end Sys2Proof.Machine

/-! SUPPORT. Page swaps and CTI records (04_bandwidth_assignment.md R121, R123, R132): which swap states a request and a validation leave, and
what of a record enters the queue. -/

namespace Sys2Proof.Machine

set_option autoImplicit false

/-! Swap states of the trees. -/

theorem State.swapOf_congr {t s : State} (h : t.whf = s.whf) (p : Fin 32) : t.swapOf p = s.swapOf p := by
  simp only [State.swapOf, h]

theorem State.swapOf_setSwap (s : State) (p q : Fin 32) (x : Swap) : (s.setSwap p x).swapOf q = if q = p then x else s.swapOf q :=
  (Tab.get_set ..).trans (if_congr Fin.val_inj rfl rfl)

theorem State.swapOf_setSwap_same (s : State) (p : Fin 32) (x : Swap) : (s.setSwap p x).swapOf p = x := Tab.get_set_same ..

/-! SWAP_REQUEST (R132). -/

theorem State.hostTlp_whf (s : State) (rd : Bool) (ag : Agent) (a : Nat) : (s.hostTlp rd ag a).whf = s.whf := by simp

theorem State.swapPending_iff {s : State} {p : Fin 32} : s.swapPending p = true ↔ s.swapOf p ≠ .none := bne_iff_ne

/-- A request starts the validation of its tree's swap where none is pending. -/
theorem State.swapOf_requestSwap (s : State) (p q : Fin 32) : (s.requestSwap p).swapOf q =
    if q = p ∧ s.swapOf q = .none then .validating else s.swapOf q := by
  rw [State.requestSwap]
  split
  · next hpending => rw [if_neg (by rintro ⟨rfl, hnone⟩; exact State.swapPending_iff.1 hpending hnone)]
  · next hfree =>
    have hnone : s.swapOf p = .none := not_not.1 (mt State.swapPending_iff.2 hfree)
    rw [State.swapOf_congr (State.mirror_whf ..), State.swapOf_congr (State.wr_whf ..), State.swapOf_congr (State.putWord_whf ..),
      State.swapOf_setSwap]
    exact if_congr (iff_self_and.2 (by rintro rfl; exact hnone)) rfl rfl

/-- The requests of a list of trees, one for each whose bit of `v` is 1, leave the swap of every other tree as it is. -/
theorem State.swapOf_requestSwaps (l : List (Fin 32)) (v : Word) (q : Fin 32) (s : State) :
    (l.foldl (fun s p => if v.getLsbD p.val then s.requestSwap p else s) s).swapOf q =
      if q ∈ l ∧ v.getLsbD q.val = true ∧ s.swapOf q = .none then .validating else s.swapOf q := by
  induction l generalizing s with
  | nil => simp
  | cons p l ih =>
    have hhead : (if v.getLsbD p.val then s.requestSwap p else s).swapOf q =
        if q = p ∧ v.getLsbD q.val = true ∧ s.swapOf q = .none then .validating else s.swapOf q := by
      split
      · next hbit => rw [State.swapOf_requestSwap]; exact if_congr (and_congr_right (by rintro rfl; simp [hbit])) rfl rfl
      · next hbit => rw [if_neg (by rintro ⟨rfl, hb, -⟩; exact hbit hb)]
    rw [List.foldl_cons, ih, hhead]
    by_cases hqp : q = p ∧ v.getLsbD q.val = true ∧ s.swapOf q = .none
    · rw [if_pos hqp, if_neg (fun h => nomatch h.2.2), if_pos ⟨hqp.1 ▸ List.mem_cons_self, hqp.2⟩]
    · rw [if_neg hqp]
      exact if_congr (by rw [List.mem_cons, or_and_right, or_iff_right hqp]) rfl rfl

theorem execSwapRequest_swapOf {s : State} {ag : Agent} (hr : s.reaches ag Reg.FSI_SWAP_REQ.addr = true) (v : Word) :
    Completes (execSwapRequest ag v s) (fun t => ∀ p : Fin 32, t.swapOf p =
      if v.getLsbD p.val = true ∧ s.swapOf p = .none then .validating else s.swapOf p) := by
  refine ⟨_, congrArg ok (State.gate_reaches hr _), fun p => ?_⟩
  rw [State.swapOf_requestSwaps, State.swapOf_congr (State.hostTlp_whf ..)]
  exact if_congr (and_iff_right (List.mem_finRange p)) rfl rfl

/-! SWAP_VALIDATION_DONE (R132). -/

section
variable {s : State} {p : Fin 32}

theorem execSwapValidationDone_idle (h : s.swapOf p ≠ .validating) : execSwapValidationDone p s = .next s := by
  unfold execSwapValidationDone
  split
  · next hv => exact absurd hv h
  · rfl

section
variable (h : s.swapOf p = .validating)
include h

theorem execSwapValidationDone_accepted (hok : s.swapReason p (1 - s.activePage p) = 0) :
    execSwapValidationDone p s = .next (s.setSwap p .accepted) := by
  simp [execSwapValidationDone, h, hok]

theorem execSwapValidationDone_refused (hbad : s.swapReason p (1 - s.activePage p) ≠ 0) : Completes (execSwapValidationDone p s) (fun t =>
    t.swapOf p = .none ∧ t.rd (Reg.FSI_SWAP_STATUS.RESULT p.val) = 3) := by
  simp only [execSwapValidationDone, h, if_neg hbad]
  refine ⟨_, rfl, ?_, ?_⟩
  · exact State.swapOf_setSwap_same ..
  · rw [State.raise_rd, State.rd_wr_bits _ _ _ _ (by simp) (by simp) (.inl (by simp))]
    exact State.rd_wr _ _ _ (by simp)

end

end

/-! CTI_RECORD_TAKE (R121, R123). -/

theorem execCtiRecordTake_none {s : State} (h : s.whf.handoffs = []) : execCtiRecordTake s = .next s := by
  simp [execCtiRecordTake, h]

/-- The queue takes a record that finds CTI enabled, room, and an entry of TYPE CTI. -/
def State.ctiTakes (s : State) (tr ix : Nat) : Prop :=
  s.bit Reg.WHF_CTI_CFG.EN = true ∧ s.whf.cti.length < 4096 ∧ s.rd (Win.ALLOC_TYPE (allocIx (Fin.ofNat 32 tr) ix)) = 2

/-- What the queue holds of a record of `n` bytes with WSTART `st`: its frame and position there, or for a late one the start of the next build. -/
def State.ctiRecord (s : State) (tr ix st n : Nat) : CtiRec :=
  if (ctiSpan s tr ix st).1 < s.nextBuild (Fin.ofNat 32 tr) then ⟨tr, ix, n, s.nextBuild (Fin.ofNat 32 tr), 0, 0, false⟩
  else ⟨tr, ix, n, (ctiSpan s tr ix st).1.toNat, (ctiSpan s tr ix st).2, 0, false⟩

theorem State.not_ctiTakes_iff {s : State} {tr ix : Nat} : ¬ s.ctiTakes tr ix ↔ (!s.bit Reg.WHF_CTI_CFG.EN ||
    decide (4096 ≤ s.whf.cti.length) || s.rd (Win.ALLOC_TYPE (allocIx (Fin.ofNat 32 tr) ix)) != 2) = true := by
  simp [State.ctiTakes, or_iff_not_imp_left]

section
variable {tr ix st n : Nat} {r : List (Nat × Nat × Nat × Nat)} {s : State} (hs : s.whf.handoffs = (tr, ix, st, n) :: r)
include hs

theorem execCtiRecordTake_dropped (h : ¬ s.ctiTakes tr ix) : execCtiRecordTake s =
    .next (({ s with whf := { s.whf with handoffs := r } } : State).inc
      (Cnt.WHF_CTI_DROPPED (Fin.ofNat 32 tr).val (s.rd (Win.ALLOC_SIDE (allocIx (Fin.ofNat 32 tr) ix))))) := by
  simp only [execCtiRecordTake, hs, if_pos (State.not_ctiTakes_iff.1 h)]

theorem execCtiRecordTake_queued (h : s.ctiTakes tr ix) : Completes (execCtiRecordTake s) (fun t =>
    t.whf = { s.whf with handoffs := r, cti := s.whf.cti ++ [s.ctiRecord tr ix st n] }) := by
  simp only [execCtiRecordTake, hs, if_neg (mt State.not_ctiTakes_iff.2 (not_not.2 h)), decide_eq_true_eq]
  refine ⟨_, rfl, (apply_ite State.whf ..).trans ?_⟩
  rw [State.inc_whf, ite_self]
  rfl

end

/-- Settles O12, command by command: the swaps a request starts, the two ends of a validation, and the record queued or dropped. -/
theorem swapAndCti : Obligations.SwapAndCti := by
  refine ⟨fun ag v s hr => execSwapRequest_swapOf hr v, fun p s h => ?_, fun p s h => execSwapValidationDone_idle h,
    fun s h => execCtiRecordTake_none h, fun tr ix st n r s hs => ?_⟩
  · by_cases hok : s.swapReason p (1 - s.activePage p) = 0
    · exact ⟨_, execSwapValidationDone_accepted h hok, (if_pos hok).mpr ⟨State.swapOf_setSwap_same .., rfl⟩⟩
    · obtain ⟨t, ht, hrefused⟩ := execSwapValidationDone_refused h hok
      exact ⟨t, ht, (if_neg hok).mpr hrefused⟩
  · by_cases htakes : s.ctiTakes tr ix
    · obtain ⟨t, ht, hwhf⟩ := execCtiRecordTake_queued hs htakes
      exact ⟨t, ht, congrArg Whf.handoffs hwhf, (if_pos htakes).mpr (congrArg Whf.cti hwhf)⟩
    · exact ⟨_, execCtiRecordTake_dropped hs htakes, by rw [State.inc_whf], (if_neg htakes).mpr ⟨by rw [State.inc_whf], rfl⟩⟩

end Sys2Proof.Machine

/-! SUPPORT. An engine's issue of an instruction (06_journeyman_engines.md R182, R184, R187, R211, Table 6-4): what a spent slot leaves, what
a context about to issue does in the row of its instruction, and the context an instruction leaves. -/

namespace Sys2Proof.Machine

set_option autoImplicit false

/-! A spent slot. -/

theorem State.ctxOf_setCtx (s : State) (k j : Nat) (x : Option Ctx) : (s.setCtx k x).ctxOf j = if j = k then x else s.ctxOf j :=
  Tab.get_set ..

@[simp] theorem State.ctxOf_setCtx_same (s : State) (k : Nat) (x : Option Ctx) : (s.setCtx k x).ctxOf k = x := Tab.get_set_same ..

theorem State.ctxOf_spend (s : State) (k j : Nat) : (s.spend k).ctxOf j = s.ctxOf j := by
  simp only [State.ctxOf, State.spend, State.inc_eng, State.setGuild]

/-- A slot is counted in GLDg_SLOTS of its own guild alone (R211). -/
theorem State.ctr_spend (s : State) (k a : Nat) : (s.spend k).ctr a =
    if a = Cnt.GLD_SLOTS (keyGuild k) then (s.ctr (Cnt.GLD_SLOTS (keyGuild k))).add 1 else s.ctr a := by
  have hturn (t : State) (e : Eng) : ({ t with eng := e } : State).ctr a = t.ctr a := rfl
  simp only [State.spend, hturn, State.ctr_inc]
  rfl

/-! The instruction at a context's PC. -/

theorem State.retire_eq_jump (s : State) (k : Nat) (x : Ctx) : s.retire k x = s.jump k x (x.pc + 1) := rfl

/-- Where every instruction's row ends that goes on at a target: the context stands there with one slot more, and only its guild paid. -/
theorem runs_of_jump {c : Instr} {s : State} {k pc : Nat} {x : Ctx} (h : exec c s = .next (s.jump k x pc)) : Runs c s k (x.after pc) := by
  refine ⟨_, h, State.ctxOf_setCtx_same .., fun j hj => ?_, ?_, State.jump_within (within_refl s) k x pc (by simp) (by simp) (by simp)⟩
  · rw [State.jump, State.ctxOf_setCtx, if_neg hj, State.ctxOf_spend]
  · rw [State.jump, State.ctr_congr (State.setCtx_ctrs ..), State.ctr_spend, if_pos rfl]

/-- In the row of the instruction it is about to issue, and with its word fetched whole, a context has that instruction's effect. -/
theorem State.Issues.issue {s : State} {k cls op : Nat} {x : Ctx} {i : Insn} (h : s.Issues k x i cls op) (f : State → Ctx → Insn → State) :
    s.issue k none cls op f = f s x i := by
  obtain ⟨hrun, hslots, hfetch, hdef, hcls, hop⟩ := h
  simp [State.issue, hrun, Nat.not_le.2 hslots, hfetch, hdef, hcls, hop]

/-! The ALU classes. -/

section
variable {s : State} {k : Nat} {x : Ctx} {i : Insn} {op : AluOp} {imm : Bool}

/-- One row of the table stands for an operation's two forms: register (class 0) and immediate (class 1), MOVI having the second alone. -/
theorem State.Issues.aluRow (h : s.Issues k x i (if imm then 1 else 0) op.n) (hmovi : imm = true ∨ op ≠ .movi) :
    s.aluRow k none op = s.alu k x i op imm := by
  have ⟨hrun, _, hfetch, _, hcls, _⟩ := h
  cases imm with
  | false =>
    have hreg : i.cls = 0 ∧ op ≠ .movi := ⟨hcls, hmovi.resolve_left Bool.false_ne_true⟩
    simp only [State.aluRow, hrun, hfetch, if_pos hreg]
    exact h.issue _
  | true =>
    have himm : ¬ (i.cls = 0 ∧ op ≠ .movi) := fun hreg => absurd (hcls.symm.trans hreg.1) (by decide)
    simp only [State.aluRow, hrun, hfetch, if_neg himm]
    exact h.issue _

theorem Ctx.setReg_pc (x : Ctx) (r : Nat) (v : Word) : (x.setReg r v).pc = x.pc := by
  unfold Ctx.setReg
  split <;> rfl

section
variable {c : Instr} {a b : Word} (hexec : exec c s = .next (s.aluRow k none op)) (h : s.Issues k x i (if imm then 1 else 0) op.n)
  (ha : a = x.reg i.a) (hb : b = x.op2 i imm)
include hexec h ha hb

/-- Every operation but CMP writes its result to D and its flags to FLAGS. -/
theorem runs_alu (hop : op ≠ .cmp) (hmovi : imm = true ∨ op ≠ .movi) {v : Word} (hv : aluVal op a b (x.reg i.b) i.imm = v) :
    Runs c s k (x.wrote i (aluFlags op a b v) v) := by
  subst ha hb hv
  have hrun := runs_of_jump (hexec.trans (congrArg _ ((h.aluRow hmovi).trans (State.retire_eq_jump ..))))
  rw [if_neg hop, Ctx.setReg_pc] at hrun
  exact hrun

/-- CMP writes FLAGS and no register. -/
theorem runs_cmp (hop : op = .cmp) : Runs c s k (({ x with flags := aluFlags op a b (a - b) } : Ctx).after (x.pc + 1)) := by
  subst ha hb hop
  exact runs_of_jump (hexec.trans (congrArg _ ((h.aluRow (.inr nofun)).trans (State.retire_eq_jump ..))))

end

end

/-- Settles O13, operation by operation: the row gives the operation's result and flags (`aluVal`, `aluFlags`) to the context. -/
theorem aluInstructions : Obligations.AluInstructions := by
  refine ⟨?add, ?sub, ?and, ?or, ?xor, ?min, ?max, ?cmp, ?popc, ?movi⟩
  case add => exact fun g e c x i s imm h a b ha hb => runs_alu (op := .add) rfl h ha hb nofun (.inr nofun) rfl
  case sub => exact fun g e c x i s imm h a b ha hb => runs_alu (op := .sub) rfl h ha hb nofun (.inr nofun) rfl
  case and => exact fun g e c x i s imm h a b ha hb => runs_alu (op := .and) rfl h ha hb nofun (.inr nofun) rfl
  case or => exact fun g e c x i s imm h a b ha hb => runs_alu (op := .or) rfl h ha hb nofun (.inr nofun) rfl
  case xor => exact fun g e c x i s imm h a b ha hb => runs_alu (op := .xor) rfl h ha hb nofun (.inr nofun) rfl
  case min => exact fun g e c x i s imm h a b ha hb => runs_alu (op := .min) rfl h ha hb nofun (.inr nofun) rfl
  case max => exact fun g e c x i s imm h a b ha hb => runs_alu (op := .max) rfl h ha hb nofun (.inr nofun) rfl
  case cmp => exact fun g e c x i s imm h a b ha hb => runs_cmp (op := .cmp) rfl h ha hb rfl
  case popc => exact fun g e c x i s imm h a b ha hb => runs_alu (op := .popc) rfl h ha hb nofun (.inr nofun) rfl
  case movi => exact fun g e c x i s h a b ha hb => runs_alu (op := .movi) (imm := true) rfl h ha hb nofun (.inl rfl) rfl

/-- Settles O14: a shift below 32 and a field that lies in the word have a defined result, which the row gives to the context. -/
theorem shiftsAndBitFields : Obligations.ShiftsAndBitFields := by
  refine ⟨?shl, ?shr, ?sar, ?bfx, ?bfi⟩
  case shl => exact fun g e c x i s imm h a b ha hb hlt => runs_alu (op := .shl) rfl h ha hb nofun (.inr nofun) (if_pos hlt)
  case shr => exact fun g e c x i s imm h a b ha hb hlt => runs_alu (op := .shr) rfl h ha hb nofun (.inr nofun) (if_pos hlt)
  case sar => exact fun g e c x i s imm h a b ha hb hlt => runs_alu (op := .sar) rfl h ha hb nofun (.inr nofun) (if_pos hlt)
  case bfx => exact fun g e c x i s imm h a b ha hb hin => runs_alu (op := .bfx) rfl h ha hb nofun (.inr nofun) (if_neg (by simp [hin]))
  case bfi => exact fun g e c x i s imm h a b ha hb hin => runs_alu (op := .bfi) rfl h ha hb nofun (.inr nofun) (if_neg (by simp [hin]))

end Sys2Proof.Machine

/-! SUPPORT. The slot of an instruction that traps (06_journeyman_engines.md R182, R187, R196, R197, R211): it is counted for the guild the pass
runs in. The statements count it elsewhere: they apply `State.spend`, which takes a context's key, to the number of the guild. -/

namespace Sys2Proof.Machine

set_option autoImplicit false

/-- A word that names no instruction traps in every row (R187). -/
theorem State.issue_undefined {s : State} {k : Nat} {x : Ctx} (hrun : s.runnable k = some x) (hslots : x.slots < s.insnMax (keyGuild k))
    (hdef : (s.fetch (keyGuild k) x.pc).defined = false) (cls op : Nat) (f : State → Ctx → Insn → State) :
    s.issue k none cls op f = (s.spend k).trap k x .illegal 0 := by
  simp [State.issue, hrun, Nat.not_le.2 hslots, hdef]

/-- The trap of a test pass is its result and no event (R472). -/
theorem State.ctr_trap_of_test {x : Ctx} (hx : x.test = true) (s : State) (k : Nat) (code : TrapCode) (user a : Nat) :
    (s.trap k x code user).ctr a = s.ctr a := by
  rw [State.trap, if_pos hx]
  rfl

theorem Ctr.add_one_ne (c : Ctr) : c.add 1 ≠ c := by
  intro h
  have hcount : (c.count + 1) % 2 ^ 48 = c.count := congrArg Ctr.count h
  omega

/-- A trapped test pass whose slot was another guild's is another state. -/
theorem State.trap_spend_ne {x : Ctx} (hx : x.test = true) {k j : Nat} (hg : keyGuild j ≠ keyGuild k) (s : State) (code : TrapCode) (user : Nat) :
    (s.spend k).trap k x code user ≠ (s.spend j).trap k x code user := by
  intro h
  have hctr := congrArg (State.ctr · (Cnt.GLD_SLOTS (keyGuild k))) h
  have hother : Cnt.GLD_SLOTS (keyGuild k) ≠ Cnt.GLD_SLOTS (keyGuild j) := by
    unfold Cnt.GLD_SLOTS
    omega
  simp only [State.ctr_trap_of_test hx, State.ctr_spend, if_true, if_neg hother] at hctr
  exact Ctr.add_one_ne _ hctr

/-- A test pass at its start, the window loaded. -/
def testPass : Ctx := { Ctx.start 0 true Desc.zero 0 with loading := false }

/-- Guild 1 in RUN with engine 0 in service, the test pass in its context 0, and at PC 0 an instruction word of this high half. -/
def guild1Runs (hi : Word) : State :=
  (((State.reset.wr (Reg.GLD_STATE.STATE 1) 0).putWord (Reg.GLD_CTRL.addr 1) 1#32).setGuild 1 { Guild.reset with bankA := [(17, hi)] }).setCtx
    (ctxKey 1 0 0) (some testPass)

/-- Refutes O15: the slot of a TRAP that ends the test pass of guild 1 is counted in GLD1_SLOTS, where the statement counts it in GLD0_SLOTS
(its `s.spend g.val` names context 1 of guild 0's engine 0). -/
theorem not_branchesAndCalls : ¬ Obligations.BranchesAndCalls := by
  rintro ⟨-, -, -, -, -, -, -, -, -, -, -, htrap⟩
  have hissues : (guild1Runs 0xB0800000#32).Issues (ctxKey 1 0 0) testPass ⟨11, 2, 0, 0, 0, 0, 0⟩ 11 2 := by
    unfold State.Issues
    decide
  have hstated := htrap 1 0 0 testPass _ _ hissues
  have hmodel : exec (.trap 1 0 0 none) (guild1Runs 0xB0800000#32) =
      .next (((guild1Runs 0xB0800000#32).spend (ctxKey 1 0 0)).trap (ctxKey 1 0 0) testPass .user 0) := congrArg _ (hissues.issue _)
  exact State.trap_spend_ne rfl (by decide) _ _ _ (Host.Outcome.next.inj (hmodel.symm.trans hstated))

/-- Refutes O60: a word of class 0xC traps in guild 1 and its slot is counted in GLD1_SLOTS, where the statement (`Traps`) counts it in
GLD0_SLOTS (its `s.spend (keyGuild k)` names context 1 of guild 0's engine 0). -/
theorem not_instructionIssue : ¬ Obligations.InstructionIssue := by
  intro h
  obtain ⟨-, -, hillegal⟩ := h 1 0 0 (guild1Runs 0xC0000000#32) (.nop 1 0 0 none) (by simp)
  have hrun : (guild1Runs 0xC0000000#32).runnable (ctxKey 1 0 0) = some testPass := by decide
  have hslots : testPass.slots < (guild1Runs 0xC0000000#32).insnMax (keyGuild (ctxKey 1 0 0)) := by decide
  have hdef : ((guild1Runs 0xC0000000#32).fetch (keyGuild (ctxKey 1 0 0)) testPass.pc).defined = false := by decide
  have hstated := hillegal testPass hrun hslots hdef
  have hmodel : exec (.nop 1 0 0 none) (guild1Runs 0xC0000000#32) =
      .next (((guild1Runs 0xC0000000#32).spend (ctxKey 1 0 0)).trap (ctxKey 1 0 0) testPass .illegal 0) :=
    congrArg _ (State.issue_undefined hrun hslots hdef ..)
  exact State.trap_spend_ne rfl (by decide) _ _ _ (Host.Outcome.next.inj (hmodel.symm.trans hstated))

end Sys2Proof.Machine

/-! SUPPORT. What reaches an engine's context from outside (06_journeyman_engines.md R185, R189, R190; 07_ledger_and_exact_match.md R222): the
loaded window, a search's result in its slot, a delivered result, and the express path's lookup. -/

namespace Sys2Proof.Machine

set_option autoImplicit false

@[simp] theorem Ctx.slot_setSlot_same (x : Ctx) (m : Nat) (v : LSlot) : (x.setSlot m v).slot m = v := Tab.get_set_same ..

section
variable {g : Fin 64} {e : Fin 16} {c : Fin 4} {s : State}

section
variable (h : s.ctxOf (ctxKey g.val e.val c.val) = none)
include h

theorem execWindowLoadDone_free : execWindowLoadDone g e c s = .next s := by simp only [execWindowLoadDone, h]

theorem execLookupResult_free (m : Fin 4) : execLookupResult g e c m s = .next s := by simp only [execLookupResult, h]

theorem execLedgerSearch_free (m : Fin 4) (u : Option (Fin 65536)) : execLedgerSearch g e c m u s = .next s := by
  simp only [execLedgerSearch, h]

theorem execExmSearch_free (m : Fin 4) (l : List (Fin 532480 × Bool)) : execExmSearch g e c m l s = .next s := by
  simp only [execExmSearch, h]

end

section
variable {x : Ctx} (h : s.ctxOf (ctxKey g.val e.val c.val) = some x)
include h

/-- The window takes the first bytes of the frame, 256 at most (R185). -/
theorem execWindowLoadDone_loading (hload : x.loading = true) (htest : x.test = false) : execWindowLoadDone g e c s =
    .next (s.setCtx (ctxKey g.val e.val c.val) (some { x with
      loading := false
      win := (s.buf x.d.handle).bytes.take (min x.d.length 256)
      loaded := ((s.buf x.d.handle).bytes.take (min x.d.length 256)).length })) := by
  simp only [execWindowLoadDone, h, hload, htest, Bool.not_true, Bool.false_eq_true, if_false]

/-- A result other than a miss is held in its slot, and a context that waits for it waits no more (R190). -/
theorem execLookupResult_delivered {m : Fin 4} {exm soft : Bool} {r : LRes} (hslot : x.slot m.val = .found exm soft r) (hhit : r.status ≠ 1) :
    execLookupResult g e c m s = .next (s.setCtx (ctxKey g.val e.val c.val) (some { x.setSlot m.val (.held r) with
      wait := if x.wait = some m.val then none else x.wait })) := by
  simp only [execLookupResult, h, hslot, hhit, false_and, if_false]

theorem execLedgerSearch_outstanding {m : Fin 4} {soft : Bool} {p : Nat} {key : List Byte} (hslot : x.slot m.val = .out false soft p key)
    (u : Option (Fin 65536)) : execLedgerSearch g e c m u s =
      .next (s.slotFound (ctxKey g.val e.val c.val) m.val x false soft (s.ldgLookup p key x.d.epoch (u.map (·.val)))) := by
  simp only [execLedgerSearch, h, hslot]

theorem execExmSearch_outstanding {m : Fin 4} {soft : Bool} {p : Nat} {key : List Byte} (hslot : x.slot m.val = .out true soft p key)
    (l : List (Fin 532480 × Bool)) : execExmSearch g e c m l s = .next (s.slotFound (ctxKey g.val e.val c.val) m.val x true soft
      (s.exmLookup p key x.d.epoch (l.map (fun y => (y.1.val, y.2))))) := by
  simp only [execExmSearch, h, hslot]

end

end

/-- A search's result stands in its slot, not yet delivered. -/
theorem State.slotFound_effect (s : State) (k m : Nat) (x : Ctx) (exm soft : Bool) (r : State × LRes) :
    ∃ y, (s.slotFound k m x exm soft r).ctxOf k = some y ∧ y.slot m = .found exm soft r.2 :=
  ⟨_, State.ctxOf_setCtx_same .., Ctx.slot_setSlot_same ..⟩

theorem execExpressLookup_empty {s : State} (h : s.fwd.express = []) (u : Option (Fin 65536)) (l : List (Fin 532480 × Bool)) :
    execExpressLookup u l s = .next s := by
  simp only [execExpressLookup, h]

/-- The oldest packet of the express path leaves by the verdict of its Ledger lookup. -/
theorem execExpressLookup_ledger {s : State} {x : ExpIn} {r : List ExpIn} (h : s.fwd.express = x :: r) (hexm : x.exm = false)
    (u : Option (Fin 65536)) (l : List (Fin 532480 × Bool)) {q : State × LRes}
    (hq : q = ({ s with fwd := { s.fwd with express := r } } : State).ldgLookup x.prof x.key x.d.epoch (u.map (·.val))) :
    execExpressLookup u l s = .next (q.1.releaseDesc (expressDesc x q.2)) := by
  subst hq
  simp only [execExpressLookup, h, hexm, Bool.false_eq_true, if_false]

/-- Settles O20, command by command: each has one effect on the context it names, and none where that is free. -/
theorem contextResults : Obligations.ContextResults := by
  refine ⟨?free, ?load, ?result, ?ledger, ?exm, ?express, ?expressLookup⟩
  case free =>
    exact fun g e c s h => ⟨execWindowLoadDone_free h, execLookupResult_free h, execLedgerSearch_free h, execExmSearch_free h⟩
  case load =>
    intro g e c x s h hload htest
    exact ⟨_, execWindowLoadDone_loading h hload htest, State.ctxOf_setCtx_same .., State.setCtx_within (within_refl s) _ _ (by simp)⟩
  case result =>
    intro g e c m x exm soft r s h hslot hhit
    exact ⟨_, execLookupResult_delivered h hslot hhit, _, State.ctxOf_setCtx_same .., Ctx.slot_setSlot_same x m.val (.held r),
      fun hwait => if_pos hwait, rfl, rfl⟩
  case ledger =>
    exact fun g e c m u x soft p key s h hslot => ⟨_, execLedgerSearch_outstanding h hslot u, State.slotFound_effect ..⟩
  case exm =>
    exact fun g e c m l x soft p key s h hslot => ⟨_, execExmSearch_outstanding h hslot l, State.slotFound_effect ..⟩
  case express => exact fun u l s h => execExpressLookup_empty h u l
  case expressLookup => exact fun u l x r s h hexm q hq => execExpressLookup_ledger h hexm u l hq

end Sys2Proof.Machine

/-! SUPPORT. The standby bank's validation and the alarms of an engine (06_journeyman_engines.md R183, R198, R206, R207): what GLDg_BANK and
GLDg_COST read after them. -/

namespace Sys2Proof.Machine

set_option autoImplicit false

/-! GLDg_BANK (R206, R207). -/

/-- RESULT is a field of two bits. -/
theorem State.rd_wr_bankResult (s : State) (g : Nat) {v : Nat} (hv : v < 4) : (s.wr (Reg.GLD_BANK.RESULT g) v).rd (Reg.GLD_BANK.RESULT g) = v :=
  (State.rd_wr _ _ _ (by simp)).trans (Nat.mod_eq_of_lt hv)

theorem execValidateBank_reaches {s : State} {ag : Agent} {g : Fin 64} (h : s.reaches ag (Reg.GLD_BANK.addr g.val) = true) :
    execValidateBank ag g s = .next ((s.hostTlp false ag (Reg.GLD_BANK.addr g.val)).wr (Reg.GLD_BANK.RESULT g.val) 1) :=
  congrArg _ (State.gate_reaches h _)

theorem execValidateDone_idle {g : Fin 64} {s : State} (h : s.rd (Reg.GLD_BANK.RESULT g.val) ≠ 1) : execValidateDone g s = .next s := if_pos h

section
variable {g : Fin 64} {s : State} (h : s.rd (Reg.GLD_BANK.RESULT g.val) = 1)
include h

theorem execValidateDone_valid (hok : s.segmentReason g.val = none) : execValidateDone g s = .next (s.wr (Reg.GLD_BANK.RESULT g.val) 2) := by
  simp only [execValidateDone, h, ne_eq, not_true_eq_false, if_false, hok]

theorem execValidateDone_rejected {r : Nat} (hbad : s.segmentReason g.val = some r) : execValidateDone g s =
    .next (((s.wr (Reg.GLD_BANK.RESULT g.val) 3).wr (Reg.GLD_BANK.REASON g.val) r).raise .CODE_REJECTED (srcGld g.val) r) := by
  simp only [execValidateDone, h, ne_eq, not_true_eq_false, if_false, hbad]

end

theorem State.rd_bank_rejected (s : State) (g r : Nat) :
    ((s.wr (Reg.GLD_BANK.RESULT g) 3).wr (Reg.GLD_BANK.REASON g) r).rd (Reg.GLD_BANK.RESULT g) = 3 ∧
    ((s.wr (Reg.GLD_BANK.RESULT g) 3).wr (Reg.GLD_BANK.REASON g) r).rd (Reg.GLD_BANK.REASON g) = r % 2 ^ (Reg.GLD_BANK.REASON g).w :=
  ⟨(State.rd_wr_bits _ _ _ _ (by simp) (by simp) (.inl (by simp))).trans (State.rd_wr_bankResult _ _ (by decide)), State.rd_wr _ _ _ (by simp)⟩

theorem execStandbyBankWrite_reaches {s : State} {ag : Agent} {g : Fin 64} (h : s.reachesWin ag (32 + g.val) = true) (i : Fin 4097) (f : Fin 16)
    (l : List Word) : execStandbyBankWrite ag g i f l s = .next (if s.gldRefused g.val then s.deny ag .refused i.val (32 + g.val)
      else s.gldStore g.val i.val f.val (l.take (16 - f.val))) :=
  congrArg _ (State.winGate_reaches h _ _)

/-! COST_WINDOW_END (R183). -/

theorem State.guild_congr {t s : State} (h : t.eng = s.eng) (g : Nat) : t.guild g = s.guild g := by
  simp only [State.guild, h]

/-- The mean GLDg_COST shows of a guild's last window: 12 bits, saturating. -/
def State.costMean (s : State) (g : Nat) : Nat := min 4095 ((s.guild g).slotSum / (s.guild g).packets)

theorem State.costMean_lt (s : State) (g : Nat) : s.costMean g < 2 ^ 12 := Nat.lt_succ_of_le (Nat.min_le_left ..)

/-- The window closed: the mean stored, the sums cleared. -/
def State.costClosed (s : State) (g : Nat) : State :=
  (s.setGuild g { s.guild g with slotSum := 0, packets := 0 }).wr (Reg.GLD_COST.MEAN g) (s.costMean g)

theorem State.rd_mean_costClosed (s : State) (g : Nat) : (s.costClosed g).rd (Reg.GLD_COST.MEAN g) = s.costMean g :=
  (State.rd_wr _ _ _ (by simp)).trans (Nat.mod_eq_of_lt (s.costMean_lt g))

theorem State.guild_costClosed (s : State) (g : Nat) : (s.costClosed g).guild g = { s.guild g with slotSum := 0, packets := 0 } :=
  (State.guild_congr (State.wr_eng ..) g).trans (State.guild_setGuild_same ..)

/-- A mean above LIMIT sets OVER and raises COST_OVER. -/
def State.costOver (s : State) (g mean : Nat) : State := (s.wr (Reg.GLD_COST.OVER g) 1).raise .COST_OVER (srcGld g) mean

section
variable (s : State) (g mean : Nat)

theorem State.rd_mean_costOver : (s.costOver g mean).rd (Reg.GLD_COST.MEAN g) = s.rd (Reg.GLD_COST.MEAN g) :=
  (State.raise_rd ..).trans (State.rd_wr_bits _ _ _ _ (by simp) (by simp) (.inr (by simp)))

theorem State.guild_costOver : (s.costOver g mean).guild g = s.guild g :=
  State.guild_congr ((State.raise_eng ..).trans (State.wr_eng ..)) g

theorem State.bit_over_costOver : (s.costOver g mean).bit (Reg.GLD_COST.OVER g) = true := by
  rw [State.costOver, State.bit_congr (State.raise_words ..), State.bit_wr _ _ _ (by simp)]
  rfl

end

theorem execCostWindowEnd_over {g : Fin 64} {s : State} (h : s.rd (Reg.GLD_COST.LIMIT g.val) < s.costMean g.val) :
    execCostWindowEnd g s = .next ((s.costClosed g.val).costOver g.val (s.costMean g.val)) := congrArg _ (if_pos h)

theorem execCostWindowEnd_within_limit {g : Fin 64} {s : State} (h : ¬ s.rd (Reg.GLD_COST.LIMIT g.val) < s.costMean g.val) :
    execCostWindowEnd g s = .next (s.costClosed g.val) := congrArg _ (if_neg h)

theorem execCostWindowEnd_effect (g : Fin 64) (s : State) : Completes (execCostWindowEnd g s) (fun t =>
    t.rd (Reg.GLD_COST.MEAN g.val) = s.costMean g.val ∧ (t.guild g.val).slotSum = 0 ∧ (t.guild g.val).packets = 0 ∧
    (s.rd (Reg.GLD_COST.LIMIT g.val) < s.costMean g.val → t.bit (Reg.GLD_COST.OVER g.val) = true)) := by
  have hmean := s.rd_mean_costClosed g.val
  have hguild := s.guild_costClosed g.val
  by_cases h : s.rd (Reg.GLD_COST.LIMIT g.val) < s.costMean g.val
  · have hover := (State.guild_costOver (s.costClosed g.val) g.val (s.costMean g.val)).trans hguild
    exact ⟨_, execCostWindowEnd_over h, (State.rd_mean_costOver ..).trans hmean, congrArg Guild.slotSum hover, congrArg Guild.packets hover,
      fun _ => State.bit_over_costOver ..⟩
  · exact ⟨_, execCostWindowEnd_within_limit h, hmean, congrArg Guild.slotSum hguild, congrArg Guild.packets hguild, fun hover => absurd hover h⟩

/-- Settles O22, command by command: what a validation and a cost window leave in GLDg_BANK and GLDg_COST; the other commands are the
operation the statement names. -/
theorem bankValidationAndAlarms : Obligations.BankValidationAndAlarms := by
  refine ⟨?validate, fun g s h => execValidateDone_idle h, ?done, fun ag g i f l s h => execStandbyBankWrite_reaches h i f l, ?wdog,
    fun g e q s => rfl, execCostWindowEnd_effect, fun ag g v s => ⟨rfl, rfl, rfl, rfl⟩⟩
  case validate => exact fun ag g s h => ⟨_, execValidateBank_reaches h, State.rd_wr_bankResult _ _ (by decide)⟩
  case done =>
    intro g s h
    cases hreason : s.segmentReason g.val with
    | none => exact ⟨_, execValidateDone_valid h hreason, State.rd_wr_bankResult _ _ (by decide), State.wr_flt ..⟩
    | some r =>
      obtain ⟨hresult, hcode⟩ := s.rd_bank_rejected g.val r
      exact ⟨_, execValidateDone_rejected h hreason, (State.raise_rd ..).trans hresult, (State.raise_rd ..).trans hcode⟩
  case wdog => exact fun g e s => congrArg _ (if_congr Bool.and_eq_true_iff rfl rfl)

end Sys2Proof.Machine

/-! SUPPORT. Epochs and update ports of Ledger (07_ledger_and_exact_match.md R242, R243, R247 to R249, R251): what the word LDG_EPOCH
reads after a command, what a free port does with one, and the start of a retirement sweep. -/

namespace Sys2Proof.Machine

set_option autoImplicit false

theorem State.bit_eq_rd (s : State) (f : Fld) : s.bit f = (s.rd f != 0) := rfl

theorem State.rd_congr_word {s t : State} {f : Fld} (h : t.word f.addr = s.word f.addr) : t.rd f = s.rd f :=
  congrArg (fun x : Word => x.toNat / 2 ^ f.lo % 2 ^ f.w) h

/-! LDG_EPOCH (R242): the epochs in use are read from this word alone. -/

section
variable {s t : State} (h : t.word Reg.LDG_EPOCH.addr = s.word Reg.LDG_EPOCH.addr)
include h

theorem State.published_congr : t.published = s.published := State.rd_congr_word h

theorem State.oldest_congr : t.oldest = s.oldest := State.rd_congr_word h

theorem State.staging_congr : t.staging = s.staging := by
  have hvalid : t.bit Reg.LDG_EPOCH.STAGING_V = s.bit Reg.LDG_EPOCH.STAGING_V := congrArg (· != 0) (State.rd_congr_word h)
  have hnumber : t.rd Reg.LDG_EPOCH.STAGING = s.rd Reg.LDG_EPOCH.STAGING := State.rd_congr_word h
  simp only [State.staging, hvalid, hnumber]

theorem State.liveCount_congr : t.liveCount = s.liveCount := by
  simp only [State.liveCount, State.age, State.lastLive, State.published_congr h, State.oldest_congr h, State.staging_congr h]

end

theorem State.staging_eq_none {s : State} : s.staging = none ↔ s.bit Reg.LDG_EPOCH.STAGING_V = false := by
  simp [State.staging]

/-- STAGING is a field of four bits. -/
theorem State.staging_lt {s : State} {e : Nat} (h : s.staging = some e) : e < 2 ^ 4 := by
  obtain ⟨-, he⟩ := Option.ite_none_right_eq_some.1 h
  exact Option.some.inj he ▸ Nat.mod_lt _ (by decide)

/-- LIVE lies below every other field of its word. -/
theorem State.rd_storeLive (s : State) {f : Fld} (hf : f.lo + f.w ≤ 32) (hlo : 5 ≤ f.lo) : s.storeLive.rd f = s.rd f :=
  State.rd_wr_bits _ _ _ _ (by decide) hf (.inl hlo)

/-- An epoch staged after the published one (R243). -/
def State.epochOpened (s : State) : State :=
  ((s.wr Reg.LDG_EPOCH.STAGING ((s.published + 1) % 16)).wr Reg.LDG_EPOCH.STAGING_V 1).storeLive

/-- Epoch `e` published and the one before it taken off those reported stuck (R247). -/
def State.epochPublished (s : State) (e : Nat) : State :=
  let s1 := ((s.wr Reg.LDG_EPOCH.PUBLISHED e).wr Reg.LDG_EPOCH.STAGING_V 0).storeLive
  { s1 with ldg := { s1.ldg with stuck := s1.ldg.stuck.filter (fun x => x ≠ s.published) } }

/-- The sweep that discards the staged epoch `e`, begun for port `k` (R249). -/
def State.epochDiscarded (s : State) (k e : Nat) : State :=
  let s1 := ((s.wr Reg.LDG_EPOCH.STAGING_V 0).wr Reg.LDG_EPOCH.SWEEP 1).storeLive
  { s1 with ldg := { s1.ldg with job := some (.discard k e) } }

section
variable (s : State)

theorem State.ldg_epochOpened : s.epochOpened.ldg = s.ldg := rfl

theorem State.rows_epochPublished (e : Nat) : (s.epochPublished e).ldg.rows = s.ldg.rows := rfl

theorem State.cells_epochPublished (e : Nat) : (s.epochPublished e).ldg.cells = s.ldg.cells := rfl

theorem State.published_epochOpened : s.epochOpened.published = s.published := by
  simp (disch := decide) only [State.published, State.epochOpened, State.rd_storeLive, State.rd_wr_bits]

theorem State.staging_epochOpened : s.epochOpened.staging = some ((s.published + 1) % 16) := by
  have hvalid : s.epochOpened.bit Reg.LDG_EPOCH.STAGING_V = true := by
    simp (disch := decide) only [State.bit_eq_rd, State.epochOpened, State.rd_storeLive, State.rd_wr]
    rfl
  have hnumber : s.epochOpened.rd Reg.LDG_EPOCH.STAGING = (s.published + 1) % 16 := by
    simp (disch := decide) only [State.epochOpened, State.rd_storeLive, State.rd_wr_bits, State.rd_wr]
    exact Nat.mod_mod _ 16
  rw [State.staging, if_pos hvalid, hnumber]

theorem State.published_epochPublished {e : Nat} (he : e < 2 ^ 4) : (s.epochPublished e).published = e := by
  change (((s.wr Reg.LDG_EPOCH.PUBLISHED e).wr Reg.LDG_EPOCH.STAGING_V 0).storeLive).rd Reg.LDG_EPOCH.PUBLISHED = e
  simp (disch := decide) only [State.rd_storeLive, State.rd_wr_bits, State.rd_wr]
  exact Nat.mod_eq_of_lt he

theorem State.staging_epochPublished (e : Nat) : (s.epochPublished e).staging = none := by
  refine State.staging_eq_none.2 ?_
  change (((s.wr Reg.LDG_EPOCH.PUBLISHED e).wr Reg.LDG_EPOCH.STAGING_V 0).storeLive).bit Reg.LDG_EPOCH.STAGING_V = false
  simp (disch := decide) only [State.bit_eq_rd, State.rd_storeLive, State.rd_wr]
  rfl

theorem State.oldest_epochPublished (e : Nat) : (s.epochPublished e).oldest = s.oldest := by
  change (((s.wr Reg.LDG_EPOCH.PUBLISHED e).wr Reg.LDG_EPOCH.STAGING_V 0).storeLive).rd Reg.LDG_EPOCH.OLDEST = _
  simp (disch := decide) only [State.rd_storeLive, State.rd_wr_bits]
  rfl

theorem State.staging_epochDiscarded (k e : Nat) : (s.epochDiscarded k e).staging = none := by
  refine State.staging_eq_none.2 ?_
  change (((s.wr Reg.LDG_EPOCH.STAGING_V 0).wr Reg.LDG_EPOCH.SWEEP 1).storeLive).bit Reg.LDG_EPOCH.STAGING_V = false
  simp (disch := decide) only [State.bit_eq_rd, State.rd_storeLive, State.rd_wr_bits, State.rd_wr]
  rfl

theorem State.bit_sweep_epochDiscarded (k e : Nat) : (s.epochDiscarded k e).bit Reg.LDG_EPOCH.SWEEP = true := by
  change (((s.wr Reg.LDG_EPOCH.STAGING_V 0).wr Reg.LDG_EPOCH.SWEEP 1).storeLive).bit Reg.LDG_EPOCH.SWEEP = true
  simp (disch := decide) only [State.bit_eq_rd, State.rd_storeLive, State.rd_wr]
  rfl

/-- The start of a discard sweep writes no other word than LDG_EPOCH. -/
theorem State.word_epochDiscarded_of_ne (k e : Nat) {a : Nat} (h : a ≠ Reg.LDG_EPOCH.addr) : (s.epochDiscarded k e).word a = s.word a := by
  change (((s.wr Reg.LDG_EPOCH.STAGING_V 0).wr Reg.LDG_EPOCH.SWEEP 1).wr Reg.LDG_EPOCH.LIVE _).word a = _
  rw [State.word_wr, if_neg h, State.word_wr, if_neg h, State.word_wr, if_neg h]

end

/-! The end of a command (R251). -/

theorem LCode.n_lt (c : LCode) : c.n < 2 ^ 4 := by cases c <;> decide

theorem ldgStatus_ne_epoch (k : Nat) : Reg.LDG_EPOCH.addr ≠ Reg.LDG_CMD_STATUS.addr k := by
  change 0xD0004 ≠ 0xD0014 + k * 0x8
  omega

/-- A command ends with CODE written, BUSY cleared and INDEX written; its message and its count write no word. -/
theorem State.words_ldgDone (s : State) (k : Nat) (c : LCode) (i : Option Nat) : ∃ n, (s.ldgDone k c i).words =
    (((s.wr (Reg.LDG_CMD_STATUS.CODE k) c.n).wr (Reg.LDG_CMD_STATUS.BUSY k) 0).wr (Reg.LDG_CMD_STATUS.INDEX k) n).words := by
  have hcount : (if c = .ok ∨ c = .miss then s else s.inc Cnt.LDG_CMD_REFUSED).words = s.words := by
    split
    · rfl
    · exact State.inc_words ..
  have hmsi (x : State) : (if k = 0 then x.msi 0 3 else x).words = x.words := by
    split
    · exact (State.msi_parts ..).2.1
    · rfl
  have hwrites (n : Nat) := congrArg (fun w : Words => ((w.wr (Reg.LDG_CMD_STATUS.CODE k) c.n).wr (Reg.LDG_CMD_STATUS.BUSY k) 0).wr
    (Reg.LDG_CMD_STATUS.INDEX k) n) ((hmsi _).trans hcount)
  cases i with
  | some i => exact ⟨i, hwrites i⟩
  | none => exact ⟨_, hwrites _⟩

theorem State.word_ldgDone_of_ne (s : State) {k a : Nat} (h : a ≠ Reg.LDG_CMD_STATUS.addr k) (c : LCode) (i : Option Nat) :
    (s.ldgDone k c i).word a = s.word a := by
  obtain ⟨n, hw⟩ := s.words_ldgDone k c i
  rw [State.word_congr hw, State.word_wr, if_neg h, State.word_wr, if_neg h, State.word_wr, if_neg h]

theorem State.ldgDone_ldg (s : State) (k : Nat) (c : LCode) (i : Option Nat) : (s.ldgDone k c i).ldg = s.ldg := by simp

theorem State.ldgDone_ldgDone (s : State) (k : Fin 2) (c : LCode) (i : Option Nat) : (s.ldgDone k.val c i).LdgDone k c := by
  obtain ⟨n, hw⟩ := s.words_ldgDone k.val c i
  constructor
  · rw [State.bit_congr hw, State.bit_eq_rd, State.rd_wr_bits _ _ _ _ (by simp) (by simp) (.inl (by simp)), State.rd_wr _ _ _ (by simp)]
    rfl
  · rw [State.rd_congr hw, State.rd_wr_bits _ _ _ _ (by simp) (by simp) (.inl (by simp)),
      State.rd_wr_bits _ _ _ _ (by simp) (by simp) (.inr (by simp)), State.rd_wr _ _ _ (by simp)]
    exact Nat.mod_eq_of_lt c.n_lt

/-! A command on a free port (R251). -/

/-- The word of a command row: the row's OP above the operands. -/
def ldgWord (op : Nat) (v : Word) : Word := BitVec.ofNat 32 (op * 2 ^ 28 + v.toNat % 2 ^ 28)

theorem ldgWord_op {op : Nat} (h : op < 16) (v : Word) : ((ldgWord op v).extractLsb' 28 4).toNat = op := by
  rw [ldgWord, BitVec.extractLsb'_toNat, BitVec.toNat_ofNat, Nat.shiftRight_eq_div_pow]
  omega

/-- A port that has taken a command: the access's TLP counted, BUSY set. -/
def State.ldgTaken (s : State) (ag : Agent) (k : Fin 2) : State :=
  (s.hostTlp false ag (Reg.LDG_CMD.addr k.val)).wr (Reg.LDG_CMD_STATUS.BUSY k.val) 1

section
variable (s : State) (ag : Agent) (k : Fin 2)

theorem State.ldgTaken_ldg : (s.ldgTaken ag k).ldg = s.ldg := by simp [State.ldgTaken]

theorem State.word_epoch_ldgTaken : (s.ldgTaken ag k).word Reg.LDG_EPOCH.addr = s.word Reg.LDG_EPOCH.addr := by
  obtain ⟨-, hwords, -⟩ := s.hostTlp_parts false ag (Reg.LDG_CMD.addr k.val)
  rw [State.ldgTaken, State.word_wr, if_neg (ldgStatus_ne_epoch k.val), State.word_congr hwords]

theorem State.bit_busy_ldgTaken : (s.ldgTaken ag k).bit (Reg.LDG_CMD_STATUS.BUSY k.val) = true := State.bit_wr _ _ _ (by simp)

end

section
variable {s : State} {ag : Agent} {k : Fin 2} (h : s.LdgReady ag k) (v : Word)
include h

theorem State.ldgCmd_ready {op : Nat} (hop : op < 16) (hrow : ldgOp op = true) (rd : Reads) :
    s.ldgCmd ag k.val op v rd = (s.ldgTaken ag k).ldgRun k.val (ldgWord op v) rd := by
  obtain ⟨hreach, hbusy, hjob⟩ := h
  obtain ⟨-, hwords, -⟩ := s.hostTlp_parts false ag (Reg.LDG_CMD.addr k.val)
  have hfree := (State.bit_congr hwords _).trans hbusy
  have hnext : (s.ldgTaken ag k).ldg.job = none := (congrArg Ldg.job (s.ldgTaken_ldg ag k)).trans hjob
  rw [State.ldgCmd, State.gate_reaches hreach]
  change State.ldgIssue _ ag k.val (ldgWord op v) rd = _
  rw [State.ldgTaken] at hnext ⊢
  simp only [State.ldgIssue, hfree, ldgWord_op hop, hrow, hnext, Bool.not_true, Bool.false_eq_true, if_false]

theorem execOpenEpoch_ready (hst : s.staging = none) (hlive : s.liveCount < 15) :
    execOpenEpoch ag k v s = .next ((s.ldgTaken ag k).epochOpened.ldgDone k.val .ok none) := by
  have hword := s.word_epoch_ldgTaken ag k
  have hfree := State.staging_eq_none.1 ((State.staging_congr hword).trans hst)
  rw [execOpenEpoch, State.ldgCmd_ready h v (by decide) rfl]
  simp only [State.ldgRun, ldgWord_op (by decide : 8 < 16), State.doOpen, hfree, State.liveCount_congr hword, Nat.not_le.2 hlive,
    Bool.false_eq_true, if_false]
  rfl

theorem execPublish_ready {e : Nat} (hst : s.staging = some e) :
    execPublish ag k v s = .next (((s.ldgTaken ag k).epochPublished e).ldgDone k.val .ok none) := by
  have hstaged := (State.staging_congr (s.word_epoch_ldgTaken ag k)).trans hst
  rw [execPublish, State.ldgCmd_ready h v (by decide) rfl]
  simp only [State.ldgRun, ldgWord_op (by decide : 9 < 16), State.doPublish, hstaged]
  rfl

theorem execDiscard_ready {e : Nat} (hst : s.staging = some e) :
    execDiscard ag k v s = .next ((s.ldgTaken ag k).epochDiscarded k.val e) := by
  have hstaged := (State.staging_congr (s.word_epoch_ldgTaken ag k)).trans hst
  rw [execDiscard, State.ldgCmd_ready h v (by decide) rfl]
  simp only [State.ldgRun, ldgWord_op (by decide : 10 < 16), State.doDiscard, hstaged]
  rfl

end

/-! The retirement sweep (R243, R248, R250). -/

section
variable {s : State}

theorem execEpochRetire_due (hdraining : s.draining s.oldest = true) (href : s.rd (Reg.LDG_EPOCH_REF.COUNT s.oldest) = 0)
    (hsweep : s.ldg.sweep = none) (hjob : s.ldg.job = none) : execEpochRetire s =
      .next { s.wr Reg.LDG_EPOCH.SWEEP 1 with ldg := { s.ldg with sweep := some s.oldest } } :=
  congrArg ok (if_pos (by simp [hdraining, href, hsweep, hjob]))

theorem execEpochRetire_not_due (h : s.draining s.oldest = false ∨ s.rd (Reg.LDG_EPOCH_REF.COUNT s.oldest) ≠ 0) :
    execEpochRetire s = .next s :=
  congrArg ok (if_neg (by rcases h with h | h <;> simp [h]))

theorem execSweepDone_retirement {e : Nat} (h : s.ldg.sweep = some e) : execSweepDone false [] s = .next (s.retireDone e) := by
  simp only [execSweepDone, Bool.false_eq_true, if_false, h]
  rfl

theorem execSweepDone_discard {k e : Nat} (h : s.ldg.job = some (.discard k e)) : execSweepDone true [] s = .next (s.discardDone k e) := by
  simp only [execSweepDone, if_true, h]
  rfl

variable {e : Fin 16}

theorem execEpochStuck_reported (hdraining : s.draining e.val = true) (hcfg : s.rd Reg.LDG_EPOCH_CFG.STUCK_MS ≠ 0)
    (hnew : s.ldg.stuck.contains e.val = false) : Completes (execEpochStuck e s) (fun t =>
      t.ldg.stuck = e.val :: s.ldg.stuck ∧ t.words = s.words) :=
  ⟨_, if_pos (by rw [hdraining, hnew]; simpa using hcfg), rfl, rfl⟩

theorem execEpochStuck_not_draining (h : s.draining e.val = false) : execEpochStuck e s = .next s := if_neg (by simp [h])

end

/-- Settles O24, command by command: OPEN, PUBLISH and DISCARD by what they write of LDG_EPOCH, the retirement by its start. -/
theorem epochCommands : Obligations.EpochCommands := by
  refine ⟨?openEpoch, ?publish, ?discard, ?retire, fun s h => execEpochRetire_not_due h, fun e s h => execSweepDone_retirement h,
    fun k e s h => execSweepDone_discard h, fun e s hdraining hcfg hnew => execEpochStuck_reported hdraining hcfg hnew,
    fun e s h => execEpochStuck_not_draining h⟩
  case openEpoch =>
    intro ag k v s h hst hlive
    have htaken := s.word_epoch_ldgTaken ag k
    have hdone := State.word_ldgDone_of_ne (s.ldgTaken ag k).epochOpened (ldgStatus_ne_epoch k.val) .ok none
    refine ⟨_, execOpenEpoch_ready h v hst hlive, ?_, ?_, State.ldgDone_ldgDone .., ?_⟩
    · rw [State.staging_congr hdone, State.staging_epochOpened, State.published_congr htaken]
    · rw [State.published_congr hdone, State.published_epochOpened, State.published_congr htaken]
    · rw [State.ldgDone_ldg, State.ldg_epochOpened, State.ldgTaken_ldg]
  case publish =>
    intro ag k v e s h hst
    have hdone := State.word_ldgDone_of_ne ((s.ldgTaken ag k).epochPublished e) (ldgStatus_ne_epoch k.val) .ok none
    refine ⟨_, execPublish_ready h v hst, ?_, ?_, State.ldgDone_ldgDone .., ?_, ?_, ?_⟩
    · rw [State.published_congr hdone, State.published_epochPublished _ (State.staging_lt hst)]
    · rw [State.staging_congr hdone, State.staging_epochPublished]
    · rw [State.ldgDone_ldg, State.rows_epochPublished, State.ldgTaken_ldg]
    · rw [State.ldgDone_ldg, State.cells_epochPublished, State.ldgTaken_ldg]
    · rw [State.oldest_congr hdone, State.oldest_epochPublished, State.oldest_congr (s.word_epoch_ldgTaken ag k)]
  case discard =>
    intro ag k v e s h hst
    have hbusy : ((s.ldgTaken ag k).epochDiscarded k.val e).rd (Reg.LDG_CMD_STATUS.BUSY k.val) =
        (s.ldgTaken ag k).rd (Reg.LDG_CMD_STATUS.BUSY k.val) :=
      State.rd_congr_word (State.word_epochDiscarded_of_ne _ _ _ (ldgStatus_ne_epoch k.val).symm)
    exact ⟨_, execDiscard_ready h v hst, State.staging_epochDiscarded .., rfl, State.bit_sweep_epochDiscarded ..,
      (congrArg (· != 0) hbusy).trans (State.bit_busy_ldgTaken ..)⟩
  case retire =>
    intro s hdraining href hsweep hjob
    exact ⟨_, execEpochRetire_due hdraining href hsweep hjob, rfl, State.bit_wr s Reg.LDG_EPOCH.SWEEP 1 (by decide), rfl⟩

end Sys2Proof.Machine

/-! SUPPORT. Moves and scrubbing of Ledger's entries (07_ledger_and_exact_match.md R226, R229, R232, R239): what an entry reads after a
move, and how each pass of the background ends. -/

namespace Sys2Proof.Machine

set_option autoImplicit false

/-! Entries. -/

theorem State.row_congr {s t : State} (h : t.ldg.rows = s.ldg.rows) (i : Nat) : t.row i = s.row i := by
  simp only [State.row, h]

theorem State.row_setRow_of_ne (s : State) {i j : Nat} (h : j ≠ i) (x : Option LEnt) : (s.setRow i x).row j = s.row j :=
  Tab.get_set_ne _ _ _ _ _ h

section
variable (s : State) {src dst : Nat}

theorem State.row_moveRow_dst (h : src ≠ dst) : (s.moveRow src dst).row dst = s.row src :=
  (State.row_setRow_of_ne _ h.symm _).trans (State.row_setRow_same ..)

theorem State.row_moveRow_src : (s.moveRow src dst).row src = none := State.row_setRow_same ..

end

/-! LEDGER_MOVE (R226). -/

/-- One move of an INSERT made and counted, with what is then under way. -/
def State.insMoved (s : State) (m : Nat × Nat) (j : Option LdgJob) : State :=
  let s1 := (s.moveRow m.1 m.2).inc Cnt.LDG_MOVES
  { s1 with ldg := { s1.ldg with job := j } }

section
variable (s : State) (m : Nat × Nat) (j : Option LdgJob)

theorem State.row_insMoved (i : Nat) : (s.insMoved m j).row i = (s.moveRow m.1 m.2).row i :=
  State.row_congr (congrArg Ldg.rows (State.inc_ldg ..)) i

theorem State.ctr_insMoved : (s.insMoved m j).ctr Cnt.LDG_MOVES = (s.ctr Cnt.LDG_MOVES).add 1 :=
  (State.ctr_inc (s.moveRow m.1 m.2) _ _).trans (if_pos rfl)

theorem State.held_insMoved : (s.insMoved m j).ldg.held = s.ldg.held := by
  change ((s.moveRow m.1 m.2).inc Cnt.LDG_MOVES).ldg.held = s.ldg.held
  rw [State.inc_ldg]
  rfl

end

/-- The start of a retirement sweep changes no entry, no command under way and none that waits. -/
theorem State.retireStart_ldg (s : State) :
    s.retireStart.ldg.rows = s.ldg.rows ∧ s.retireStart.ldg.job = s.ldg.job ∧ s.retireStart.ldg.held = s.ldg.held := by
  simp only [State.retireStart]
  split <;> exact ⟨rfl, rfl, rfl⟩

/-- With no command that waits, only a retirement sweep can follow one of several steps. -/
theorem State.ldgNext_none_held {s : State} (h : s.ldg.held = none) : s.ldgNext = s.retireStart := by
  obtain ⟨-, -, hheld⟩ := s.retireStart_ldg
  simp only [State.ldgNext, hheld, h]

theorem State.insFinish_ldg (s : State) (j : InsJob) : (s.insFinish j).ldg = (s.setRow j.index (some j.ent)).ldg :=
  (State.ldgDone_ldg ..).trans (State.inc_ldg ..)

section
variable {s : State} {j : InsJob} (hjob : s.ldg.job = some (.insert j))
include hjob

theorem execLedgerMove_more {m m2 : Nat × Nat} {l : List (Nat × Nat)} (hmoves : j.moves = m :: m2 :: l) :
    execLedgerMove s = .next (s.insMoved m (some (.insert { j with moves := m2 :: l }))) := by
  simp only [execLedgerMove, hjob, hmoves, reduceCtorEq, if_false]
  rfl

theorem execLedgerMove_last {m : Nat × Nat} (hmoves : j.moves = [m]) :
    execLedgerMove s = .next ((s.insMoved m none).insFinish j).ldgNext := by
  simp only [execLedgerMove, hjob, hmoves, if_true]
  rfl

end

theorem execLedgerMove_idle {s : State} (h : s.ldg.job = none) : execLedgerMove s = .next s := by
  simp only [execLedgerMove, h]

/-! RESPREAD_MOVE (R229). -/

section
variable {s : State} {r : Fin 16}

theorem execRespreadMove_barred (h : s.bit Reg.LDG_CFG.RESPREAD = false ∨ s.bit (Reg.LDG_REGION.VALID r.val) = false ∨ s.inserting = true) :
    execRespreadMove r s = .next s :=
  if_pos (by rcases h with h | h | h <;> simp [h])

theorem execRespreadMove_moves {m : Nat × Nat} (hon : s.bit Reg.LDG_CFG.RESPREAD = true) (hvalid : s.bit (Reg.LDG_REGION.VALID r.val) = true)
    (hidle : s.inserting = false) (hm : s.respread r.val = some m) : execRespreadMove r s =
      .next ((s.moveRow (s.regionIndex r.val m.1) (s.regionIndex r.val m.2)).inc Cnt.LDG_RESPREAD_MOVES) := by
  simp [execRespreadMove, hon, hvalid, hidle, hm]

end

/-! SCRUB_ROW (R232) and STASH_DRAIN_PASS (R239). -/

section
variable {s : State} (w : Fin 65536)

theorem execScrubRow_off (h : s.bit Reg.LDG_CFG.SCRUB_EN = false) (a b : Bool) : execScrubRow w a b s = .next s :=
  congrArg ok (if_neg (by simp [h]))

section
variable (h : s.bit Reg.LDG_CFG.SCRUB_EN = true)
include h

theorem execScrubRow_mismatch : execScrubRow w true false s = .next (s.fixRow w.val) :=
  congrArg ok (if_pos h)

theorem execScrubRow_uncorrectable (a : Bool) {i : Nat}
    (hi : i = w.val / widthRows (s.bankWidth (w.val / 1024)) * widthRows (s.bankWidth (w.val / 1024))) :
    execScrubRow w a true s = .next ((s.setRow i none).raise .LDG_UNCORR srcLdg i) :=
  hi ▸ congrArg ok (if_pos h)

end

theorem execStashDrainPass_off (h : s.bit Reg.EXM_CFG.STASH_DRAIN = false) : execStashDrainPass [] s = .next s.stashHigh :=
  congrArg (fun t : State => ok t.stashHigh) (if_neg (by simp [h]))

end

/-- Settles O25, command by command: a move by the two entries it writes, the last one by the INSERT's end that follows it. -/
theorem ledgerMovesAndScrub : Obligations.LedgerMovesAndScrub := by
  refine ⟨?more, ?last, fun s h => execLedgerMove_idle h, fun r s h => execRespreadMove_barred h,
    fun r m s hon hvalid hidle hm => execRespreadMove_moves hon hvalid hidle hm, fun w a b s h => execScrubRow_off w h a b, ?mismatch,
    ?uncorrectable, fun s h => execStashDrainPass_off h⟩
  case more =>
    intro j m m2 l s hjob hmoves hne
    exact ⟨_, execLedgerMove_more hjob hmoves, (State.row_insMoved ..).trans (s.row_moveRow_dst hne),
      (State.row_insMoved ..).trans s.row_moveRow_src, rfl, State.ctr_insMoved ..⟩
  case last =>
    intro j m s hjob hmoves hheld
    have hfinish := (s.insMoved m none).insFinish_ldg j
    have hnext := State.ldgNext_none_held ((congrArg Ldg.held hfinish).trans ((s.held_insMoved m none).trans hheld))
    obtain ⟨hrows, hjobs, -⟩ := ((s.insMoved m none).insFinish j).retireStart_ldg
    refine ⟨_, execLedgerMove_last hjob hmoves, ?_, ?_⟩
    · rw [hnext, State.row_congr hrows, State.row_congr (congrArg Ldg.rows hfinish), State.row_setRow_same]
    · rw [hnext, hjobs, hfinish]
      rfl
  case mismatch =>
    intro w s h
    exact ⟨_, execScrubRow_mismatch w h, State.inc_ldg .., (State.ctr_inc s _ _).trans (if_pos rfl)⟩
  case uncorrectable =>
    intro w a s h
    exact ⟨_, execScrubRow_uncorrectable w h a rfl, State.row_setRow_same .., rfl⟩

end Sys2Proof.Machine

/-! SUPPORT. Buffers and the checks of a copy (08_buffers_queues_shaping.md R260, R262 to R264, R271; 13_cascade_and_fabric.md R433): the
ends of a released reference, what all of them leave as it was, and where the copy at the front goes. -/

namespace Sys2Proof.Machine

set_option autoImplicit false

/-! Readings of buffers and queues. -/

theorem State.buf_congr {t s : State} (h : t.cpg = s.cpg) (g : Nat) : t.buf g = s.buf g := by
  simp only [State.buf, h]

theorem State.buf_setBuf_of_ne (s : State) {g h : Nat} (hne : g ≠ h) (x : Buf) : (s.setBuf h x).buf g = s.buf g :=
  Tab.get_set_ne _ _ _ _ _ hne

theorem State.handleOk_congr {t s : State} (h : t.words = s.words) (g : Nat) : t.handleOk g = s.handleOk g := by
  have hcount : t.poolCount = s.poolCount := funext fun _ => congrArg (· * 64) (State.rd_congr h _)
  simp only [State.handleOk, hcount]

theorem State.queue_congr {t s : State} (h : t.cpg.queues = s.cpg.queues) (q : Nat) : t.queue q = s.queue q := by
  simp only [State.queue, h]

/-! A reference released (R260, R262, R263): the four ends of `State.unref`, and what all of them keep. -/

theorem State.unref_invalid {s : State} {h : Nat} (hok : s.handleOk h = false) :
    s.unref h = s.raise .BAD_HANDLE srcCpg (h % 2 ^ 24) := if_pos (by simp [hok])

section
variable {s : State} {h : Nat} (hok : s.handleOk h = true)
include hok

theorem State.unref_free (hheld : (s.buf h).held = false) :
    s.unref h = (s.inc (Cnt.CPG_DOUBLE_FREE (handlePool h))).raise .DOUBLE_FREE srcCpg (h % 2 ^ 24) := by
  simp [State.unref, hok, hheld]

theorem State.unref_last (hheld : (s.buf h).held = true) (hlast : (s.buf h).ref ≤ 1) :
    s.unref h = s.setBuf h { s.buf h with held := false, ref := 0, bytes := [] } := by
  simp [State.unref, hok, hheld, hlast]

theorem State.held_unref_last (hheld : (s.buf h).held = true) (hlast : (s.buf h).ref ≤ 1) : ((s.unref h).buf h).held = false := by
  rw [State.unref_last hok hheld hlast, State.buf_setBuf_same]

theorem State.unref_shared (hheld : (s.buf h).held = true) (hshared : 1 < (s.buf h).ref) :
    s.unref h = s.setBuf h { s.buf h with ref := (s.buf h).ref - 1 } := by
  simp [State.unref, hok, hheld, Nat.not_le.2 hshared]

end

/-- A released reference leaves the queues alone and counts, if anything, a double free of the handle's pool. -/
theorem State.unref_queues_ctr (s : State) (h : Nat) : (s.unref h).cpg.queues = s.cpg.queues ∧
    ∀ a, a ≠ Cnt.CPG_DOUBLE_FREE (handlePool h) → (s.unref h).ctr a = s.ctr a := by
  cases hok : s.handleOk h with
  | false => rw [State.unref_invalid hok]; exact ⟨rfl, fun _ _ => rfl⟩
  | true =>
    cases hheld : (s.buf h).held with
    | false =>
      rw [State.unref_free hok hheld]
      exact ⟨congrArg Cpg.queues (State.inc_cpg ..), fun a ha => (State.ctr_inc s _ a).trans (if_neg ha)⟩
    | true =>
      rcases Nat.lt_or_ge 1 (s.buf h).ref with hshared | hlast
      · rw [State.unref_shared hok hheld hshared]; exact ⟨rfl, fun _ _ => rfl⟩
      · rw [State.unref_last hok hheld hlast]; exact ⟨rfl, fun _ _ => rfl⟩

theorem handlePool_lt (h : Nat) : handlePool h < 4 := Nat.mod_lt _ (by decide)

/-- The counters of double frees lie at the start of the block: one at a higher address stands. -/
theorem State.ctr_unref_of_le {a : Nat} (ha : 0x91100 ≤ a) (s : State) (h : Nat) : (s.unref h).ctr a = s.ctr a :=
  (s.unref_queues_ctr h).2 a (by have := handlePool_lt h; unfold Cnt.CPG_DOUBLE_FREE; omega)

theorem State.queue_unref (s : State) (h q : Nat) : (s.unref h).queue q = s.queue q := State.queue_congr (s.unref_queues_ctr h).1 q

theorem exec_bufferRelease {h : Fin 16777216} {s t : State} (ht : s.unref h.val = t) : exec (.bufferRelease h) s = .next t :=
  congrArg ok ht

/-! FREE_STW (R264). -/

theorem State.hostTlp_cpg (s : State) (rd : Bool) (ag : Agent) (a : Nat) : (s.hostTlp rd ag a).cpg = s.cpg := by simp

section
variable {s : State} {ag : Agent} {v : Word} {h : Nat} (hreach : s.reaches ag Reg.CPG_FREE_STW.addr = true)
  (hhandle : fldOf v Reg.CPG_FREE_STW.HANDLE = h) (hok : s.handleOk h = true)
include hreach hhandle hok

theorem execFreeStw_current (hheld : (s.buf h).held = true) (hgen : (s.buf h).gen = fldOf v Reg.CPG_FREE_STW.GEN) :
    execFreeStw ag v s = .next (((s.hostTlp false ag Reg.CPG_FREE_STW.addr).stwForget h).unref h) := by
  simp [execFreeStw, State.gate_reaches hreach, hhandle, State.handleOk_congr (State.hostTlp_words ..),
    State.buf_congr (State.hostTlp_cpg ..), hok, hheld, hgen]

theorem execFreeStw_stale (hgen : (s.buf h).gen ≠ fldOf v Reg.CPG_FREE_STW.GEN) : execFreeStw ag v s =
    .next (((s.hostTlp false ag Reg.CPG_FREE_STW.addr).inc (Cnt.CPG_DOUBLE_FREE (handlePool h))).raise .DOUBLE_FREE srcCpg
      (2 ^ 31 + 2 ^ 30 + h)) := by
  simp [execFreeStw, State.gate_reaches hreach, hhandle, State.handleOk_congr (State.hostTlp_words ..),
    State.buf_congr (State.hostTlp_cpg ..), hok, hgen]

end

/-! ENQUEUE (R271, R433). -/

theorem execEnqueue_idle {s : State} (h : s.flt.safe = true ∨ s.fwd.enq = []) : execEnqueue s = .next s := by
  rcases h with hsafe | hempty
  · exact if_pos hsafe
  · simp only [execEnqueue, hempty, ite_self]

/-- The state with the copies `r` left at the checks of Table 8-2. -/
def State.enqTaken (s : State) (r : List EnqIn) : State := { s with fwd := { s.fwd with enq := r } }

section
variable {s : State} {x : EnqIn} {r : List EnqIn} (hsafe : s.flt.safe = false) (henq : s.fwd.enq = x :: r) (hunref : x.unref = none)
include hsafe henq hunref

theorem execEnqueue_copy (hproxy : s.isProxy x.d = false) (hyellow : x.yellow = none) :
    execEnqueue s = .next ((s.enqTaken r).enqueue x.d) := by
  simp only [execEnqueue, hsafe, henq, hunref, hyellow]
  exact congrArg ok (if_neg (Bool.eq_false_iff.1 hproxy))

theorem execEnqueue_proxy (hproxy : s.isProxy x.d = true) : execEnqueue s = .next ((s.enqTaken r).proxyChecks x) := by
  simp only [execEnqueue, hsafe, henq, hunref]
  exact congrArg ok (if_pos hproxy)

end

/-- Check 1 of Table 8-2 on a downstream copy. -/
theorem State.enqueue_oversize {d : Desc} (hlen : 16383 < d.length) (hdir : d.dir = false) (s : State) :
    s.enqueue d = ((s.inc Cnt.SCH_ENQ_OVERSIZE).queueDrop d.queue).unref d.handle := by
  simp [State.enqueue, hlen, hdir]

theorem State.enqueue_oversize_effect {d : Desc} (hlen : 16383 < d.length) (hdir : d.dir = false) (s : State) :
    (s.enqueue d).ctr Cnt.SCH_ENQ_OVERSIZE = (s.ctr Cnt.SCH_ENQ_OVERSIZE).add 1 ∧
      ((s.enqueue d).queue d.queue).drops = ((s.queue d.queue).drops + 1) % 2 ^ 48 := by
  rw [State.enqueue_oversize hlen hdir, State.ctr_unref_of_le (by decide), State.queue_unref]
  constructor
  · exact (State.ctr_inc s _ _).trans (if_pos rfl)
  · rw [State.queueDrop, State.queue_setQueue_same, State.queue_congr (congrArg Cpg.queues (State.inc_cpg ..))]

/-- Settles O27, operation by operation: the four ends of a release, the Steward's release by its generation, and the copy at the front. -/
theorem buffersAndEnqueue : Obligations.BuffersAndEnqueue := by
  refine ⟨?shared, ?last, ?free, ?invalid, ?steward, fun s h => execEnqueue_idle h, ?copy, ?oversize, ?proxy⟩
  case shared =>
    intro h s hok hheld hshared
    exact ⟨_, exec_bufferRelease (State.unref_shared hok hheld hshared), State.buf_setBuf_same .., rfl,
      fun g hg => State.buf_setBuf_of_ne s hg _⟩
  case last =>
    intro h s hok hheld hlast
    have hsame := s.buf_setBuf_same h.val { s.buf h.val with held := false, ref := 0, bytes := [] }
    exact ⟨_, exec_bufferRelease (State.unref_last hok hheld hlast), congrArg Buf.held hsame, congrArg Buf.ref hsame,
      (congrArg Buf.gen hsame :), rfl, fun g hg => State.buf_setBuf_of_ne s hg _⟩
  case free =>
    intro h s hok hheld
    have hexec := exec_bufferRelease (State.unref_free hok hheld)
    exact ⟨hexec, _, hexec, (State.ctr_inc s _ _).trans (if_pos rfl), State.inc_cpg ..⟩
  case invalid => exact fun h s hok => exec_bufferRelease (State.unref_invalid hok)
  case steward =>
    intro ag v s hreach hok hheld hlast
    by_cases hgen : (s.buf (fldOf v Reg.CPG_FREE_STW.HANDLE)).gen = fldOf v Reg.CPG_FREE_STW.GEN
    · refine ⟨_, execFreeStw_current hreach rfl hok hheld hgen, (if_pos hgen).mpr ?_⟩
      have hbuf := State.buf_congr (s.hostTlp_cpg false ag Reg.CPG_FREE_STW.addr) (fldOf v Reg.CPG_FREE_STW.HANDLE)
      exact State.held_unref_last ((State.handleOk_congr (State.hostTlp_words ..) _).trans hok) ((congrArg Buf.held hbuf).trans hheld)
        (Nat.le_of_eq ((congrArg Buf.ref hbuf).trans hlast))
    · exact ⟨_, execFreeStw_stale hreach rfl hok hgen, (if_neg hgen).mpr ((State.inc_cpg ..).trans (State.hostTlp_cpg ..))⟩
  case copy => exact fun x r s hsafe henq hproxy hyellow hunref => execEnqueue_copy hsafe henq hunref hproxy hyellow
  case oversize =>
    intro x r s hsafe henq hproxy hyellow hunref hlen hdir
    refine ⟨_, execEnqueue_copy hsafe henq hunref hproxy hyellow, ?_, (s.enqTaken r).enqueue_oversize_effect hlen hdir⟩
    simp only [State.enqueue_parts]
    rfl
  case proxy => exact fun x r s hsafe henq hproxy hunref => execEnqueue_proxy hsafe henq hunref hproxy

end Sys2Proof.Machine

/-! SUPPORT. The Cellar and the schedulers (08_buffers_queues_shaping.md R278, R279, R283 to R287, R299; 14_faults_and_safe_state.md R449):
which operations leave a queue and the counters as they were, when CELLAR_EN is stored, and where a selection ends. -/

namespace Sys2Proof.Machine

set_option autoImplicit false

/-! Queues through the operations on their top nodes, which hold no packet. -/

theorem State.busyEnd_queues (s : State) (m : Nat) : (s.busyEnd m).cpg.queues = s.cpg.queues := by
  rw [State.busyEnd]
  split <;> rfl

theorem State.busyEnds_queues (s : State) : s.busyEnds.cpg.queues = s.cpg.queues :=
  foldl_reading (fun t : State => t.cpg.queues) _ _ s fun t m _ => t.busyEnd_queues m

theorem State.busyEnds_ctrs (s : State) : s.busyEnds.ctrs = s.ctrs := by simp only [State.busyEnds_parts]

/-- A Cellar access is events of the privileged catalogue (R483) and one free value. -/
theorem State.cellarAccess_parts (s : State) (q len access : Nat) : (s.cellarAccess q len access).words = s.words ∧
    (s.cellarAccess q len access).ctrs = s.ctrs ∧ (s.cellarAccess q len access).cpg = s.cpg :=
  have h := State.cellarAccess_within (K := (· ∈ [Part.free, .tly])) (within_refl s) q len access (by simp) (by simp)
  ⟨h.words.resolve_left (by simp), h.ctrs.resolve_left (by simp), h.cpg.resolve_left (by simp)⟩

/-- Leaving spill mode (R277) changes a queue's pages only. -/
theorem State.settle_packets (s : State) (q : Nat) : ((s.settle q).queue q).cellar = (s.queue q).cellar ∧
    ((s.settle q).queue q).onchip = (s.queue q).onchip ∧ (s.settle q).ctrs = s.ctrs := by
  rw [State.settle]
  split
  · rw [State.queue_setQueue_same]
    exact ⟨rfl, rfl, rfl⟩
  · exact ⟨rfl, rfl, rfl⟩

/-! CELLAR_WRITE_DONE (R278). -/

theorem execCellarWriteDone_empty {q : Fin 73728} {s : State} (h : (s.queue q.val).writes = []) : execCellarWriteDone q s = .next s := by
  rw [execCellarWriteDone, State.writeDone, h]

/-- The state as the packet `k`, the oldest of those that wait, stands in the Cellar: its top node's backlog is lower. -/
def State.spilled (s : State) (q : Nat) (k : QPkt) (r : List QPkt) : State :=
  let s1 := s.setQueue q { s.queue q with writes := r, cellar := (s.queue q).cellar ++ [(k, (s.buf k.d.handle).bytes)] }
  s1.setTop (s.topOf q) { s.top (s.topOf q) with backlog := (s.top (s.topOf q)).backlog - k.d.length }

theorem State.writeDone_oldest {s : State} {q : Nat} {k : QPkt} {r : List QPkt} (h : (s.queue q).writes = k :: r) : s.writeDone q =
    ((((s.spilled q k r).unref k.d.handle).inc Cnt.CPG_SPILL_PKTS).cellarAccess q k.d.length 2).busyEnds := by
  simp only [State.writeDone, h]
  rfl

theorem State.queue_writeDone {s : State} {q : Nat} {k : QPkt} {r : List QPkt} (h : (s.queue q).writes = k :: r) : (s.writeDone q).queue q =
    { s.queue q with writes := r, cellar := (s.queue q).cellar ++ [(k, (s.buf k.d.handle).bytes)] } := by
  obtain ⟨-, -, hcpg⟩ := (((s.spilled q k r).unref k.d.handle).inc Cnt.CPG_SPILL_PKTS).cellarAccess_parts q k.d.length 2
  rw [State.writeDone_oldest h, State.queue_congr (State.busyEnds_queues _), State.queue_congr (congrArg Cpg.queues hcpg),
    State.queue_congr (congrArg Cpg.queues (State.inc_cpg ..)), State.queue_unref]
  exact State.queue_setQueue_same ..

theorem State.ctr_writeDone {s : State} {q : Nat} {k : QPkt} {r : List QPkt} (h : (s.queue q).writes = k :: r) :
    (s.writeDone q).ctr Cnt.CPG_SPILL_PKTS = (s.ctr Cnt.CPG_SPILL_PKTS).add 1 := by
  obtain ⟨-, hctrs, -⟩ := (((s.spilled q k r).unref k.d.handle).inc Cnt.CPG_SPILL_PKTS).cellarAccess_parts q k.d.length 2
  rw [State.writeDone_oldest h, State.ctr_congr (State.busyEnds_ctrs _), State.ctr_congr hctrs, State.ctr_inc, if_pos rfl,
    State.ctr_unref_of_le (by decide)]
  rfl

/-! CELLAR_REFILL (R279, R283, R449). -/

theorem execCellarRefill_not_due {q : Fin 73728} {s : State} (h : s.refillDue q.val = false) (r : CellarRead) :
    execCellarRefill q r s = .next s := congrArg ok (if_pos (by simp [h]))

section
variable {q : Fin 73728} {s : State} (h : s.refillDue q.val = true)
include h

theorem execCellarRefill_clean : execCellarRefill q .clean s = .next ((s.refillRead q.val 1).refillQueue q.val false false) :=
  congrArg ok (if_neg (by simp [h]))

theorem execCellarRefill_linkBad (ch : Fin 16) : execCellarRefill q (.linkBad ch) s =
    .next (((s.memEcc .MEM_UNCORR ch).refillRead q.val 9).refillQueue q.val false true) := congrArg ok (if_neg (by simp [h]))

end

theorem State.refillDue_congr {t s : State} (hw : t.words = s.words) (hq : t.cpg.queues = s.cpg.queues) (q : Nat) :
    t.refillDue q = s.refillDue q := by
  simp only [State.refillDue, State.queue_congr hq, State.rd_congr hw]

/-- An error in a record loses the rest of the Cellar part (R283). -/
theorem State.refillQueue_linkBad {s : State} {q : Nat} (h : s.refillDue q = true) :
    s.refillQueue q false true = (s.loseRecords q).raise .CELLAR_UNCORR srcCpg (queueAddr q) := by
  simp only [State.refillDue, Bool.and_eq_true, decide_eq_true_eq] at h
  obtain ⟨hcellar, hocc⟩ := h
  cases hc : (s.queue q).cellar with
  | nil => simp [hc] at hcellar
  | cons x rest => simp [State.refillQueue, hc, Nat.not_lt.2 hocc]

theorem State.loseRecords_packets (s : State) (q : Nat) : ((s.loseRecords q).queue q).cellar = [] ∧
    ((s.loseRecords q).queue q).onchip = (s.queue q).onchip ∧
    (s.loseRecords q).ctr Cnt.CPG_CELLAR_ERR_DROP = (s.ctr Cnt.CPG_CELLAR_ERR_DROP).add (s.queue q).cellar.length := by
  let s1 := ((s.count Cnt.CPG_CELLAR_ERR_DROP (s.queue q).cellar.length).setQueue q (s.queue q).takeAll.1).dropPages q (s.queue q).takeAll.2
  have hq : s1.queue q = (s.queue q).takeAll.1 := State.queue_setQueue_same ..
  obtain ⟨hcellar, honchip, hctrs⟩ := s1.settle_packets q
  exact ⟨hcellar.trans (congrArg Queue.cellar hq), honchip.trans ((congrArg Queue.onchip hq :)),
    (State.ctr_congr hctrs _).trans ((State.ctr_count ..).trans (if_pos rfl))⟩

/-- What the read of a record that fails leaves: the fault and the access, no queue and no counter. -/
theorem State.badRead_parts (s : State) (ch : Fin 16) (q : Nat) : ((s.memEcc .MEM_UNCORR ch).refillRead q 9).words = s.words ∧
    ((s.memEcc .MEM_UNCORR ch).refillRead q 9).ctrs = s.ctrs ∧ ((s.memEcc .MEM_UNCORR ch).refillRead q 9).cpg = s.cpg :=
  State.cellarAccess_parts ..

/-! CELLAR_ENABLE (R299). -/

theorem State.bit_eq_getLsbD (s : State) {f : Fld} (hw : f.w = 1) : s.bit f = (s.word f.addr).getLsbD f.lo := by
  have hrd : s.rd f = (s.word f.addr).toNat / 2 ^ f.lo % 2 := congrArg (fun w => (s.word f.addr).toNat / 2 ^ f.lo % 2 ^ w) hw
  rw [State.bit_eq_rd, hrd, BitVec.getLsbD, Nat.testBit_eq_decide_div_mod_eq]
  rcases Nat.mod_two_eq_zero_or_one ((s.word f.addr).toNat / 2 ^ f.lo) with h | h <;> simp [h]

/-- A one-bit RW field reads as its bit was stored. -/
theorem State.bit_storeWord {f : Fld} (hw : f.w = 1) {r : RegRow} {n : Nat} (hr : regAt f.addr = some (r, n))
    (hrw : r.rw.getLsbD f.lo = true) (s : State) (ag : Agent) (v : Word) : (s.storeWord ag f.addr v).bit f = v.getLsbD f.lo := by
  obtain ⟨hword, -⟩ := State.storeWord_storedAs (s := s) (v := v) hr ag
  simpa [State.bit_eq_getLsbD _ hw, hrw] using congrArg (·.getLsbD f.lo) hword

theorem regAt_cpgCtrl : ∃ r n, regAt Reg.CPG_CTRL.addr = some (r, n) ∧ r.rw = 0xC0000000#32 := ⟨_, _, rfl, rfl⟩

section
variable {s : State} {ag : Agent} (hreach : s.reaches ag Reg.CPG_CTRL.addr = true)
include hreach

theorem execCellarEnable_outside {v : Word} (hset : v.getLsbD 30 = true) (hoff : s.bit Reg.CPG_CTRL.CELLAR_EN = false)
    (hout : Config.memUnits < s.rd Reg.CPG_CELLAR_REGION.BASE + min 256 (s.rd Reg.CPG_CELLAR_REGION.SIZE)) : execCellarEnable ag v s =
      .next (((s.hostTlp false ag Reg.CPG_CTRL.addr).storeWord ag Reg.CPG_CTRL.addr (v &&& 0xBFFFFFFF#32)).deny ag .refused
        Reg.CPG_CTRL.addr noWin) := by
  simp [execCellarEnable, State.gate_reaches hreach, State.bit_congr (s.hostTlp_words false ag _), hset, hoff, Nat.not_le.2 hout]

theorem execCellarEnable_inside (hiso : s.flt.isolated .memory 0 = false)
    (hin : s.rd Reg.CPG_CELLAR_REGION.BASE + min 256 (s.rd Reg.CPG_CELLAR_REGION.SIZE) ≤ Config.memUnits) (v : Word) :
    execCellarEnable ag v s = .next ((s.hostTlp false ag Reg.CPG_CTRL.addr).storeWord ag Reg.CPG_CTRL.addr v) := by
  simp [execCellarEnable, State.gate_reaches hreach, hiso, hin]

end

/-- CELLAR_EN written with its bit masked out reads 0, through the denied access too. -/
theorem State.bit_cellarEn_refused (s : State) (ag : Agent) (v : Word) :
    ((s.storeWord ag Reg.CPG_CTRL.addr (v &&& 0xBFFFFFFF#32)).deny ag .refused Reg.CPG_CTRL.addr noWin).bit Reg.CPG_CTRL.CELLAR_EN = false := by
  obtain ⟨r, n, hr, hrw⟩ := regAt_cpgCtrl
  have hbit := State.bit_storeWord (f := Reg.CPG_CTRL.CELLAR_EN) rfl hr (by rw [hrw]; decide) s ag (v &&& 0xBFFFFFFF#32)
  rw [State.bit_eq_rd, State.rd_congr_word (State.word_deny_of_ne _ _ _ _ _ (by decide) (by decide) (by decide)), ← State.bit_eq_rd, hbit]
  simp

/-! SCHED_SELECT (R284 to R287, R449). -/

theorem execSchedSelect_closed {m : Fin 104} {s : State} (h : s.flt.safe = true ∨ (88 ≤ m.val ∧ s.laneUp (m.val - 88) = false))
    (e : Option Bool) : execSchedSelect m e s = .next s := by
  refine if_pos ?_
  rcases h with hsafe | ⟨hm, hdown⟩
  · simp [hsafe]
  · simp [hm, State.fabLane, hdown]

theorem State.select_closed {s : State} {m : Nat} (h : (s.accessAll m).topOpen m = false) : s.select m = (s.accessAll m, none) :=
  if_pos (by simp [h])

section
variable {m : Fin 104} {s : State} (hsafe : s.flt.safe = false)
include hsafe

theorem execSchedSelect_none (hm : m.val < 88) (hsel : (s.select m.val).2 = none) (e : Option Bool) :
    execSchedSelect m e s = .next (s.select m.val).1 := by
  simp [execSchedSelect, hsafe, Nat.not_le.2 hm, hsel]

theorem execSchedSelect_toCipher {k : QPkt} (hm : m.val < 64) (hsel : (s.select m.val).2 = some k) :
    execSchedSelect m none s = .next ((s.select m.val).1.toCipher m.val k.d) := by
  simp [execSchedSelect, hsafe, show ¬ 88 ≤ m.val by omega, hsel, hm]

theorem execSchedSelect_uncorrectable {k : QPkt} (hm : m.val < 88) (hsel : (s.select m.val).2 = some k) :
    execSchedSelect m (some true) s =
      .next (((s.select m.val).1.raise .PKT_ECC_UNCORR srcCpg k.d.handle).unref k.d.handle) := by
  simp [execSchedSelect, hsafe, Nat.not_le.2 hm, hsel]

end

/-- Settles O28, command by command: the Cellar's oldest write and its refills, CELLAR_EN by its region, and the ends of a selection. -/
theorem cellarAndScheduling : Obligations.CellarAndScheduling := by
  refine ⟨fun q s h => execCellarWriteDone_empty h, ?writeDone, fun q r s h => execCellarRefill_not_due h r,
    fun q s h => execCellarRefill_clean h, ?linkBad, ?outside, fun ag v s hreach hiso hin => execCellarEnable_inside hreach hiso hin v,
    fun m e s h => execSchedSelect_closed h e, ?closed, fun m k s hsafe hm hsel => execSchedSelect_toCipher hsafe hm hsel,
    fun m k s hsafe hm hsel => execSchedSelect_uncorrectable hsafe hm hsel⟩
  case writeDone =>
    intro q k r s h
    have hq := State.queue_writeDone h
    exact ⟨_, rfl, congrArg Queue.writes hq, congrArg Queue.cellar hq, (congrArg Queue.onchip hq :), State.ctr_writeDone h⟩
  case linkBad =>
    intro q ch s h
    obtain ⟨hwords, hctrs, hcpg⟩ := s.badRead_parts ch q.val
    have hdue := (State.refillDue_congr hwords (congrArg Cpg.queues hcpg) q.val).trans h
    obtain ⟨hcellar, honchip, hctr⟩ := ((s.memEcc .MEM_UNCORR ch).refillRead q.val 9).loseRecords_packets q.val
    rw [State.queue_congr (congrArg Cpg.queues hcpg)] at honchip hctr
    rw [State.ctr_congr hctrs] at hctr
    exact ⟨_, (execCellarRefill_linkBad h ch).trans (congrArg Host.Outcome.next (State.refillQueue_linkBad hdue)), hcellar, honchip, hctr⟩
  case outside =>
    intro ag v s hreach hiso hset hoff hout
    exact ⟨_, execCellarEnable_outside hreach hset hoff hout, State.bit_cellarEn_refused .., rfl⟩
  case closed =>
    intro m e s hsafe hm hclosed
    have hsel := State.select_closed hclosed
    exact (execSchedSelect_none hsafe hm (congrArg Prod.snd hsel) e).trans (congrArg (fun x => ok x.1) hsel)

end Sys2Proof.Machine

/-! SUPPORT. Commands on root slots (09_encryption_and_keys.md R304, R314 to R318, R330 to R332): what a stored root slot and the code of a
command read, the ends of each command, and the state in which KEY_RESTORE has the keys again. -/

namespace Sys2Proof.Machine

set_option autoImplicit false

/-! The stored slot and its cache entries (R314). -/

theorem State.root_setRoot_of_ne (s : State) {j k : Nat} (h : j ≠ k) (r : Root) : (s.setRoot k r).root j = s.root j :=
  (State.root_of_roots (congrArg Keys.roots (State.mirrorKey_keys ..)) j).trans (Tab.get_set_ne _ _ _ _ _ h)

theorem State.uncached_setRoot (s : State) (k : Nat) (r : Root) : ∀ e ∈ (s.setRoot k r).keys.cache, e.1 ≠ k := by
  have hcache : (s.setRoot k r).keys.cache = s.keys.cache.filter (fun e => e.1 ≠ k) := congrArg Keys.cache (State.mirrorKey_keys ..)
  intro e he
  rw [hcache] at he
  exact of_decide_eq_true (List.mem_filter.1 he).2

theorem State.setRoot_words (s : State) (k : Nat) (r : Root) : (s.setRoot k r).words = s.words := by simp

theorem State.root_eraseRoot_same (s : State) (k : Nat) : (s.eraseRoot k).root k = Root.empty := by
  unfold State.eraseRoot
  split
  · next h => exact h
  · exact State.root_setRoot_same ..

theorem State.root_eraseRoot_of_ne (s : State) {j k : Nat} (h : j ≠ k) : (s.eraseRoot k).root j = s.root j := by
  unfold State.eraseRoot
  split
  · rfl
  · exact State.root_setRoot_of_ne s h _

theorem State.eraseRoot_words (s : State) (k : Nat) : (s.eraseRoot k).words = s.words := by simp

/-! The end of a command (R304, R330). -/

theorem State.keyGate_denied {ag : Agent} (hst : ag ≠ .steward) (him : ag ≠ .image) (s : State) (f : State → State) :
    s.keyGate ag f = s.deny ag .scope Reg.KEY_CMD.addr noWin := by
  cases ag with
  | steward => exact absurd rfl hst
  | image => exact absurd rfl him
  | pf => rfl
  | vf n => rfl

/-- A command's end writes CODE and asks for a message: no slot changes. -/
theorem State.keyCode_keys (s : State) (c : Nat) : (s.keyCode c).keys = s.keys := by simp

theorem State.keyCode_words (s : State) (c : Nat) : (s.keyCode c).words = (s.wr Reg.KEY_CMD_STATUS.CODE c).words := by
  simp [State.keyCode]

theorem State.root_keyCode (s : State) (c k : Nat) : (s.keyCode c).root k = s.root k :=
  State.root_of_roots (congrArg Keys.roots (s.keyCode_keys c)) k

theorem State.rd_code_keyCode (s : State) {c : Nat} (hc : c < 16) : (s.keyCode c).rd Reg.KEY_CMD_STATUS.CODE = c :=
  (State.rd_congr (s.keyCode_words c) _).trans ((State.rd_wr _ _ _ (by decide)).trans (Nat.mod_eq_of_lt hc))

/-- A refused command ends with its code and every slot as it was. -/
theorem State.refused_keyCode (s : State) {c : Nat} (hc : c < 16) :
    (s.keyCode c).keys = s.keys ∧ (s.keyCode c).rd Reg.KEY_CMD_STATUS.CODE = c :=
  ⟨s.keyCode_keys c, s.rd_code_keyCode hc⟩

/-! KEY_LOAD and KEY_ERASE (R315, R318). -/

section
variable {k : BitVec 15} {s : State}

section
variable (hdev : k.toNat ≠ 16384) (hlast : k.toNat < 16401)
include hdev hlast

theorem execKeyLoad_empty (herased : s.bit Reg.KEY_STATUS.ERASED = false) (hempty : (s.root k.toNat).state = .empty) :
    execKeyLoad .steward k s = .next ((s.setRoot k.toNat
      { Root.empty with state := .loaded, dk := s.keyData 0 4, sk := s.keyData 4 4 }).keyCode 0) := by
  simp [execKeyLoad, State.keyGate, hdev, Nat.not_le.2 hlast, herased, hempty]

theorem execKeyLoad_occupied (herased : s.bit Reg.KEY_STATUS.ERASED = false) (hfull : (s.root k.toNat).state ≠ .empty) :
    execKeyLoad .steward k s = .next (s.keyCode 2) := by
  simp [execKeyLoad, State.keyGate, hdev, Nat.not_le.2 hlast, herased, hfull]

theorem execKeyErase_slot : execKeyErase .steward k s = .next ((s.eraseRoot k.toNat).keyCode 0) := by
  simp [execKeyErase, State.keyGate, hdev, Nat.not_le.2 hlast]

end

/-! KEY_ACTIVATE (R316). -/

section
variable (herased : s.bit Reg.KEY_STATUS.ERASED = false)
include herased

theorem execKeyActivate_badSlot (hst : (s.root k.toNat).state ≠ .loaded) : execKeyActivate .steward k s = .next (s.keyCode 1) := by
  simp [execKeyActivate, State.keyGate, herased, hst]

variable (honu : k.toNat < 16384) (hst : (s.root k.toNat).state = .loaded) {a : Nat}
  (ha : a = (s.word (Reg.KEY_CMD_DATA.addr 0)).toNat + (s.word (Reg.KEY_CMD_DATA.addr 1)).toNat % 2 ^ 19 * 2 ^ 32)
include honu hst ha

theorem execKeyActivate_badFrame (hframe : ¬ (a % 8 = 0 ∧ s.sfc (Fin.ofNat 32 (k.toNat / 512)) + 16 ≤ a)) :
    execKeyActivate .steward k s = .next (s.keyCode 3) := by
  have hbad : a % 8 ≠ 0 ∨ a < s.sfc (Fin.ofNat 32 (k.toNat / 512)) + 16 := by omega
  have hslot : ¬ (16384 ≤ k.toNat ∨ (s.root k.toNat).state ≠ .loaded) := by simp [honu, hst]
  rw [execKeyActivate, State.keyGate, herased, ← ha]
  simp only [if_neg hslot, if_pos hbad, if_neg Bool.false_ne_true]

theorem execKeyActivate_scheduled (hframe : a % 8 = 0 ∧ s.sfc (Fin.ofNat 32 (k.toNat / 512)) + 16 ≤ a)
    (hpair : (s.root (k.toNat / 2 * 2 + (1 - k.toNat % 2))).pend = none) : execKeyActivate .steward k s =
      .next ((s.setRoot k.toNat { s.root k.toNat with pend := some a }).keyCode 0) := by
  have hgood : ¬ (a % 8 ≠ 0 ∨ a < s.sfc (Fin.ofNat 32 (k.toNat / 512)) + 16) := by omega
  have hslot : ¬ (16384 ≤ k.toNat ∨ (s.root k.toNat).state ≠ .loaded) := by simp [honu, hst]
  rw [execKeyActivate, State.keyGate, herased, ← ha]
  simp only [if_neg hslot, if_neg hgood, if_neg Bool.false_ne_true, hpair, Option.isSome_none]

end

end

/-! RETIRING_TIMEOUT (R315). -/

theorem State.retired_iff (s : State) (k : Nat) : s.retired k = true ↔
    (s.root k).state = .retiring ∧ (s.root k).quiet + 64 ≤ s.sfc (Fin.ofNat 32 (k / 512)) := by
  simp [State.retired]

/-! KEY_RESTORE (R331, R332). -/

theorem State.derive_roots (s : State) (k label ctx : Nat) : (s.derive k label ctx).keys.roots = s.keys.roots := by
  unfold State.derive
  extract_lets e
  split <;> exact (congrArg Keys.roots (State.inc_keys ..)).trans rfl

theorem State.sealChange_keys (s : State) (n : Nat) : (s.sealChange n).keys = s.keys := by simp

/-- A link root is stored beside the device root. -/
theorem State.root_loadLink_of_le {j : Nat} (hj : j ≤ 16384) (s : State) (n v : Nat) : (s.loadLink n v).root j = s.root j := by
  have hne : j ≠ 16385 + n := by omega
  unfold State.loadLink
  split
  · rfl
  · exact (State.root_of_roots (congrArg Keys.roots (State.sealChange_keys ..)) j).trans (State.root_setRoot_of_ne s hne _)

theorem State.root_device_loadLinks (s : State) : s.loadLinks.root 16384 = s.root 16384 := by
  unfold State.loadLinks
  extract_lets s1
  have hs1 : s1.root 16384 = s.root 16384 := by
    dsimp only [s1]
    split
    · rfl
    · exact State.root_of_roots (s.derive_roots ..) _
  refine Eq.trans (foldl_reading (fun t : State => t.root 16384) _ _ _ fun t x _ => ?_) hs1
  split
  · split
    · exact State.root_loadLink_of_le (Nat.le_refl _) t _ _
    · rfl
  · exact State.root_of_roots (congrArg Keys.roots (State.inc_keys ..)) _

theorem State.loadLinks_words (s : State) : s.loadLinks.words = s.words :=
  (State.loadLinks_within (K := (· ∈ [Part.ctrs, .free, .keys, .twn, .shl, .tly])) (within_refl s) (by simp) (by simp) (by simp) (by simp)
    (by simp) (by simp)).words.resolve_left (by simp)

/-- The state in which the device root is loaded again and KEY_ERASED has ended. -/
def State.deviceRootRestored (s : State) : State := ((s.wr Reg.KEY_STATUS.ERASED 0).loadOtp).endCause .KEY_ERASED srcKey 0

theorem State.deviceRootRestored_words (s : State) :
    s.deviceRootRestored.words = ((s.wr Reg.KEY_STATUS.ERASED 0).wr Reg.KEY_STATUS.OTP_LOADED 1).words :=
  congrArg (fun w : Words => w.wr Reg.KEY_STATUS.OTP_LOADED 1) ((s.wr Reg.KEY_STATUS.ERASED 0).setRoot_words 16384 _)

theorem State.root_device_deviceRootRestored (s : State) : (s.deviceRootRestored.root 16384).state = .loaded :=
  congrArg Root.state (State.root_setRoot_same (s.wr Reg.KEY_STATUS.ERASED 0) 16384 _)

/-- A lane whose link is sealed and may stay so is offered a new session. -/
def State.offerSealed (s : State) (n : Nat) : State :=
  if s.laneUp n && s.bit (Reg.SHL_LANE_STATUS.SEALED n) && (s.sealBits n).1 then s.offer n else s

theorem State.offerSealed_parts (s : State) (n : Nat) : (s.offerSealed n).words = s.words ∧ (s.offerSealed n).keys = s.keys := by
  unfold State.offerSealed
  split
  · simp
  · exact ⟨rfl, rfl⟩

/-- The state in which every root the device keeps is loaded again and the sealed lanes are offered new sessions. -/
def State.keysRestored (s : State) : State := (List.range 16).foldl State.offerSealed s.deviceRootRestored.loadLinks

theorem State.keysRestored_words (s : State) :
    s.keysRestored.words = ((s.wr Reg.KEY_STATUS.ERASED 0).wr Reg.KEY_STATUS.OTP_LOADED 1).words :=
  calc s.keysRestored.words
      = s.deviceRootRestored.loadLinks.words := foldl_reading State.words _ _ _ fun t n _ => (t.offerSealed_parts n).1
    _ = _ := (State.loadLinks_words _).trans s.deviceRootRestored_words

theorem State.root_device_keysRestored (s : State) : (s.keysRestored.root 16384).state = .loaded := by
  have hkeys : s.keysRestored.keys = s.deviceRootRestored.loadLinks.keys :=
    foldl_reading State.keys _ _ _ fun t n _ => (t.offerSealed_parts n).2
  rw [State.root_of_roots (congrArg Keys.roots hkeys), State.root_device_loadLinks]
  exact s.root_device_deviceRootRestored

theorem State.bit_erased_keysRestored (s : State) : s.keysRestored.bit Reg.KEY_STATUS.ERASED = false := by
  rw [State.bit_congr s.keysRestored_words, State.bit_eq_rd, State.rd_wr_bits _ _ _ _ (by decide) (by decide) (by decide),
    State.rd_wr _ _ _ (by decide)]
  rfl

theorem State.bit_reactivate_keysRestored (s : State) : s.keysRestored.bit Reg.KEY_CTRL.REACTIVATE = s.bit Reg.KEY_CTRL.REACTIVATE := by
  rw [State.bit_congr s.keysRestored_words, State.bit_eq_rd, State.rd_wr_addr _ _ _ _ (by decide), State.rd_wr_addr _ _ _ _ (by decide),
    ← State.bit_eq_rd]

section
variable {s : State} {cause : Bool} (hcause : (s.bit Reg.KEY_STATUS.TAMPER || s.bit Reg.KEY_STATUS.VGLITCH || s.bit Reg.KEY_STATUS.CGLITCH ||
  s.bit Reg.KEY_STATUS.TEMP) = cause)
include hcause

theorem execKeyRestore_cause (hc : cause = true) : execKeyRestore .steward s = .next (s.keyCode 6) :=
  congrArg ok (if_pos (hcause.trans hc))

theorem execKeyRestore_restored (hc : cause = false) (hreact : s.bit Reg.KEY_CTRL.REACTIVATE = false) :
    execKeyRestore .steward s = .next (s.keysRestored.keyCode 0) := by
  refine congrArg ok ((if_neg (Bool.eq_false_iff.1 (hcause.trans hc))).trans (congrArg (State.keyCode · 0) (if_neg ?_)))
  exact Bool.eq_false_iff.1 (s.bit_reactivate_keysRestored.trans hreact)

end

/-- Settles O30, command by command: who may command keys, and what each end of a command leaves of the slot it names, of the others and of
CODE. -/
theorem keyCommands : Obligations.KeyCommands := by
  refine ⟨?scope, ?load, fun k s hdev hlast herased hfull => ?occupied, ?activate, fun k s hst herased => ?badSlot, ?erase, ?retire,
    fun s hcause => ⟨_, execKeyRestore_cause hcause rfl, s.refused_keyCode (by decide)⟩, ?restore⟩
  case scope =>
    intro ag k s hst him
    have hload : exec (.keyLoad ag k) s = .next (s.deny ag .scope Reg.KEY_CMD.addr noWin) := congrArg ok (State.keyGate_denied hst him s _)
    rw [hload]
    exact ⟨rfl, congrArg ok (State.keyGate_denied hst him s _), congrArg ok (State.keyGate_denied hst him s _),
      congrArg ok (State.keyGate_denied hst him s _)⟩
  case load =>
    intro k s hdev hlast herased hempty
    have hroot := ((s.setRoot k.toNat { Root.empty with state := .loaded, dk := s.keyData 0 4, sk := s.keyData 4 4 }).root_keyCode 0
      k.toNat).trans (State.root_setRoot_same ..)
    refine ⟨_, execKeyLoad_empty hdev hlast herased hempty, congrArg Root.state hroot, congrArg Root.dk hroot, congrArg Root.sk hroot,
      State.rd_code_keyCode _ (by decide), ?_, fun j hj => (State.root_keyCode ..).trans (State.root_setRoot_of_ne s hj _)⟩
    rw [State.keyCode_keys]
    exact State.uncached_setRoot _ _ _
  case occupied => exact ⟨_, execKeyLoad_occupied hdev hlast herased hfull, s.refused_keyCode (by decide)⟩
  case activate =>
    intro k a s honu hst herased ha hpair
    by_cases hframe : a % 8 = 0 ∧ s.sfc (Fin.ofNat 32 (k.toNat / 512)) + 16 ≤ a
    · refine ⟨_, execKeyActivate_scheduled herased honu hst ha hframe hpair, (if_pos hframe).mpr ?_⟩
      exact ⟨(State.root_keyCode ..).trans (State.root_setRoot_same ..), State.rd_code_keyCode _ (by decide)⟩
    · exact ⟨_, execKeyActivate_badFrame herased honu hst ha hframe, (if_neg hframe).mpr (s.refused_keyCode (by decide))⟩
  case badSlot => exact ⟨_, execKeyActivate_badSlot herased hst, s.refused_keyCode (by decide)⟩
  case erase =>
    intro k s hdev hlast
    exact ⟨_, execKeyErase_slot hdev hlast, (State.root_keyCode ..).trans (State.root_eraseRoot_same ..), State.rd_code_keyCode _ (by decide),
      fun j hj => (State.root_keyCode ..).trans (State.root_eraseRoot_of_ne s hj)⟩
  case retire =>
    intro k s
    by_cases hretired : s.retired k.toNat = true
    · exact ⟨_, congrArg ok (if_pos hretired), (if_pos ((s.retired_iff _).1 hretired)).mpr
        ⟨State.root_eraseRoot_same .., State.eraseRoot_words ..⟩⟩
    · exact ⟨_, congrArg ok (if_neg hretired), (if_neg (mt (s.retired_iff _).2 hretired)).mpr rfl⟩
  case restore =>
    intro s hcause hreact
    refine ⟨_, execKeyRestore_restored hcause rfl hreact, ?_, State.rd_code_keyCode _ (by decide),
      (congrArg Root.state (State.root_keyCode ..)).trans s.root_device_keysRestored⟩
    rw [State.bit_congr (State.keyCode_words ..), State.bit_eq_rd, State.rd_wr_addr _ _ _ _ (by decide), ← State.bit_eq_rd]
    exact s.bit_erased_keysRestored

end Sys2Proof.Machine

/-! SUPPORT. The payload cipher (02_pon_line_framing.md R44; 09_encryption_and_keys.md R306 to R309, R319 to R321): where the packet at the
front of a side's cipher stage goes, what the use of a key counts, and the ends of an upstream frame. -/

namespace Sys2Proof.Machine

set_option autoImplicit false

/-! Readings of the stages of a side, and of the contexts that ask for encryption (R306). -/

/-- The state with the packets `r` left at the cipher stage `k` of a side. -/
def State.cipherTaken (s : State) (k : Nat) (r : List Desc) : State :=
  { s with cpg := { s.cpg with cipher := Tab.set (fun _ => []) s.cpg.cipher k r } }

theorem State.cipherOf_cipherTaken (s : State) (k : Nat) (r : List Desc) : (s.cipherTaken k r).cipherOf k = r := Tab.get_set_same ..

theorem State.egressOf_toEgress_same (s : State) (k : Nat) (o : Out) : (s.toEgress k o).egressOf k = s.egressOf k ++ [o] := Tab.get_set_same ..

/-- A released reference changes the buffers alone, and no stage of the packets' way. -/
theorem State.unref_cpg (s : State) (h : Nat) : ∃ bufs, (s.unref h).cpg = { s.cpg with bufs := bufs } := by
  unfold State.unref
  extract_lets b
  split
  · exact ⟨_, rfl⟩
  · split
    · exact ⟨_, State.inc_cpg ..⟩
    · split <;> exact ⟨_, rfl⟩

theorem State.encrypts_iff (s : State) (c : Nat) :
    s.encrypts c = true ↔ s.bit (Win.CTX_ENC c) = true ∧ s.bit (Win.ONU_KIND (s.rd (Win.CTX_NODE c))) = false := by
  simp [State.encrypts]

theorem State.encrypts_eq_false_iff (s : State) (c : Nat) :
    s.encrypts c = false ↔ s.bit (Win.CTX_ENC c) = false ∨ s.bit (Win.ONU_KIND (s.rd (Win.CTX_NODE c))) = true := by
  simp only [State.encrypts, Bool.and_eq_false_iff, Bool.not_eq_false']

/-! A packet at the cipher stage (R306, R320). -/

section
variable {s : State} {d : Desc} (hlen : (s.buf d.handle).bytes.length ≤ 16383)
include hlen

theorem State.cipherPkt_plain (henc : s.encrypts d.xctx = false) (p : Fin 32) (sd : Nat) (b : Option (Fin 16)) :
    s.cipherPkt p sd d b = (s, some ⟨d, (s.buf d.handle).bytes, 0, false⟩) := by
  simp [State.cipherPkt, Nat.not_lt.2 hlen, henc]

theorem State.cipherPkt_encrypted {k : Nat} (henc : s.encrypts d.xctx = true) (hk : s.activeRoot (s.rd (Win.CTX_NODE d.xctx)) = some k)
    (hheld : (s.root k).held = false) (p : Fin 32) (sd : Nat) :
    s.cipherPkt p sd d none = (s, some ⟨d, (s.buf d.handle).bytes, 0, true⟩) := by
  simp [State.cipherPkt, Nat.not_lt.2 hlen, henc, hk, hheld]

theorem State.cipherPkt_no_key (henc : s.encrypts d.xctx = true) (hk : s.activeRoot (s.rd (Win.CTX_NODE d.xctx)) = none) (p : Fin 32)
    (sd : Nat) (b : Option (Fin 16)) : s.cipherPkt p sd d b = ((s.inc Cnt.KEY_KEY_HOLD_DROP).unref d.handle, none) := by
  simp [State.cipherPkt, Nat.not_lt.2 hlen, henc, hk]

end

/-- A packet dropped for want of a key is counted, and no stage of the packets' way changes. -/
theorem State.holdDropped (s : State) (h k : Nat) :
    ((s.inc Cnt.KEY_KEY_HOLD_DROP).unref h).cipherOf k = s.cipherOf k ∧ ((s.inc Cnt.KEY_KEY_HOLD_DROP).unref h).egressOf k = s.egressOf k ∧
    ((s.inc Cnt.KEY_KEY_HOLD_DROP).unref h).ctr Cnt.KEY_KEY_HOLD_DROP = (s.ctr Cnt.KEY_KEY_HOLD_DROP).add 1 ∧
    ((s.inc Cnt.KEY_KEY_HOLD_DROP).unref h).keys = s.keys := by
  obtain ⟨bufs, hbufs⟩ := (s.inc Cnt.KEY_KEY_HOLD_DROP).unref_cpg h
  have hcpg : ((s.inc Cnt.KEY_KEY_HOLD_DROP).unref h).cpg = { s.cpg with bufs := bufs } := by rw [hbufs, State.inc_cpg]
  have hne : Cnt.KEY_KEY_HOLD_DROP ≠ Cnt.CPG_DOUBLE_FREE (handlePool h) := by
    have := handlePool_lt h
    unfold Cnt.KEY_KEY_HOLD_DROP Cnt.CPG_DOUBLE_FREE
    omega
  refine ⟨?_, ?_, ?_, by simp⟩
  · simp only [State.cipherOf, hcpg]
  · simp only [State.egressOf, hcpg]
  · exact ((State.unref_queues_ctr _ h).2 _ hne).trans ((State.ctr_inc s _ _).trans (if_pos rfl))

/-! CIPHER_DOWNSTREAM (R306, R320, R321). -/

theorem execCipherDownstream_empty {p : Fin 32} {sd : Side} {s : State} (h : s.cipherOf (psd p sd) = []) (b : Option (Fin 16)) :
    execCipherDownstream p sd b s = .next s := by
  rw [execCipherDownstream, h]

section
variable {p : Fin 32} {sd : Side} {b : Option (Fin 16)} {d : Desc} {r : List Desc} {s : State} (hq : s.cipherOf (psd p sd) = d :: r)
include hq

theorem execCipherDownstream_sent {o : Out}
    (hpkt : (s.cipherTaken (psd p sd) r).cipherPkt p sd.n d b = (s.cipherTaken (psd p sd) r, some o)) :
    Completes (execCipherDownstream p sd b s) (fun t => t.cipherOf (psd p sd) = r ∧ t.keys = s.keys ∧
      t.egressOf (psd p sd) = s.egressOf (psd p sd) ++ [o]) := by
  refine ⟨(s.cipherTaken (psd p sd) r).toEgress (psd p sd) o, ?_, s.cipherOf_cipherTaken .., rfl, State.egressOf_toEgress_same ..⟩
  simp only [execCipherDownstream, hq]
  exact congrArg (fun x : State × Option Out => ok (match x.2 with | none => x.1 | some o => x.1.toEgress (psd p sd) o)) hpkt

theorem execCipherDownstream_dropped {t : State} (hpkt : (s.cipherTaken (psd p sd) r).cipherPkt p sd.n d b = (t, none)) :
    execCipherDownstream p sd b s = .next t := by
  simp only [execCipherDownstream, hq]
  exact congrArg (fun x : State × Option Out => ok (match x.2 with | none => x.1 | some o => x.1.toEgress (psd p sd) o)) hpkt

end

/-! The use of a key (R319). -/

theorem State.root_setUsage_same (s : State) (k : Nat) (r : Root) : (s.setUsage k r).root k = r := Tab.get_set_same ..

/-- A reached limit marks the slot, and no slot below its limit comes to be HELD. -/
theorem State.root_limitKey (s : State) (k : Nat) : ∃ due held, (s.limitKey k).root k = { s.root k with due := due, held := held } ∧
    (held = true → (s.root k).held = true ∨ 2 ^ s.rd Reg.KEY_LIMIT.HARD_LOG2 ≤ (s.root k).usage) := by
  unfold State.limitKey
  extract_lets r s1 r1
  obtain ⟨due, hdue⟩ : ∃ due, s1.root k = { s.root k with due := due } := by
    dsimp only [s1]
    split
    · exact ⟨true, State.root_setUsage_same ..⟩
    · exact ⟨(s.root k).due, rfl⟩
  split
  · next h =>
    obtain ⟨-, -, hlimit⟩ := h
    dsimp only [r1] at hlimit ⊢
    rw [hdue] at hlimit ⊢
    exact ⟨due, true, State.root_setUsage_same .., fun _ => .inr hlimit⟩
  · exact ⟨due, (s.root k).held, hdue, .inl⟩

theorem State.root_useKey (s : State) (k n : Nat) : ∃ due held, (s.useKey k n).root k =
      { s.root k with usage := ((s.root k).usage + n) % 2 ^ 48, due := due, held := held } ∧
    (held = true → (s.root k).held = true ∨ 2 ^ s.rd Reg.KEY_LIMIT.HARD_LOG2 ≤ ((s.root k).usage + n) % 2 ^ 48) := by
  have h := (s.setUsage k { s.root k with usage := ((s.root k).usage + n) % 2 ^ 48 }).root_limitKey k
  rwa [State.root_setUsage_same] at h

theorem State.usage_useKey (s : State) (k n : Nat) : ((s.useKey k n).root k).usage = ((s.root k).usage + n) % 2 ^ 48 := by
  obtain ⟨due, held, hroot, -⟩ := s.root_useKey k n
  rw [hroot]

theorem State.held_useKey_of_lt {s : State} {k n : Nat} (hheld : (s.root k).held = false)
    (hlt : (s.root k).usage + n < 2 ^ s.rd Reg.KEY_LIMIT.HARD_LOG2) : ((s.useKey k n).root k).held = false := by
  obtain ⟨due, held, hroot, hlimit⟩ := s.root_useKey k n
  rw [hroot, Bool.eq_false_iff]
  intro h
  rcases hlimit h with hheld' | hreached
  · exact Bool.eq_false_iff.1 hheld hheld'
  · exact absurd (Nat.le_trans hreached (Nat.mod_le ..)) (Nat.not_le.2 hlt)

/-! A piece of a packet (R307, R308, R319 to R321). -/

/-- Below the limit a piece uses its own blocks and is encrypted, with the key and the frame given. -/
theorem State.cipherPiece_encrypted {s : State} {o : Out} {n k : Nat} (henc : o.enc = true)
    (hk : s.activeRoot (s.rd (Win.CTX_NODE o.d.xctx)) = some k) (hheld : (s.root k).held = false)
    (hlimit : (s.root k).usage + blocks n + blocks (o.bytes.length - o.sent - n) < 2 ^ s.rd Reg.KEY_LIMIT.HARD_LOG2) (sfc w : Nat) :
    s.cipherPiece sfc w o n = ((s.useKey k (blocks n)).count Cnt.KEY_DS_BLOCKS (blocks n),
      some (k % 2 + 1, ctrCrypt (s.root k).dk sfc false w ((o.bytes.drop o.sent).take n))) := by
  have hwhole : ¬ (o.sent = 0 ∧ 2 ^ s.rd Reg.KEY_LIMIT.HARD_LOG2 ≤
      (s.root k).usage + (blocks n + blocks (o.bytes.length - o.sent - n))) := by omega
  have hstill : (((s.useKey k (blocks n)).count Cnt.KEY_DS_BLOCKS (blocks n)).root k).held = false :=
    (congrArg Root.held (State.root_of_roots (congrArg Keys.roots (State.count_keys ..)) k)).trans
      (State.held_useKey_of_lt hheld (by omega))
  simp [State.cipherPiece, henc, hk, hheld, if_neg hwhole, hstill]

/-! UPSTREAM_XGEM_FRAME (R44, R309, R317, R319 to R321). -/

section
variable {p : Fin 32} {sd : Nat} {e : Exp} {c cl w : Nat} {fr : List Byte} {fu : Bool} {b : Option (Fin 16)} {s : State}

theorem State.xgemUp_plain : s.xgemUp p sd e c cl 0 w fr fu b =
    if s.encrypts c = true then s.inc Cnt.KEY_KEY_MISSING else s.intakeUp p sd e.burst.onu c cl fr fu := rfl

/-- The state in which the slot `k` has decrypted an upstream payload of `n` blocks. -/
def State.upDecrypted (s : State) (p : Fin 32) (k n : Nat) : State :=
  ((if (s.root k).state = .retiring then s.setUsage k { s.root k with quiet := s.sfc p } else s).useKey k n).count Cnt.KEY_US_BLOCKS n

theorem State.usage_upDecrypted (k n : Nat) : ((s.upDecrypted p k n).root k).usage = ((s.root k).usage + n) % 2 ^ 48 := by
  unfold State.upDecrypted
  rw [State.root_of_roots (congrArg Keys.roots (State.count_keys ..)), State.usage_useKey]
  split
  · rw [State.root_setUsage_same]
  · rfl

theorem State.intakeUp_keys (onu : Nat) : (s.intakeUp p sd onu c cl fr fu).keys = s.keys :=
  (State.intakeUp_within (K := (· ∈ [Part.words, .ctrs, .free, .flt, .cpg, .fwd, .tly])) (within_refl s) p sd onu c cl fr fu (by simp)
    (by simp) (by simp) (by simp) (by simp) (by simp) (by simp)).keys.resolve_left (by simp)

section
variable {key : Nat} (hkey : key = 1 ∨ key = 2)
include hkey

theorem State.xgemUp_no_key (hr : (s.root (rootOf (slotKey p e.burst.onu) (key - 1))).state = .empty ∨
    (s.root (rootOf (slotKey p e.burst.onu) (key - 1))).held = true) :
    s.xgemUp p sd e c cl key w fr fu b = s.inc Cnt.KEY_KEY_MISSING := by
  have h3 : key ≠ 3 := by omega
  have h0 : key ≠ 0 := by omega
  simp only [State.xgemUp, h3, h0, if_false, if_pos hr]

/-- A frame under a key held counts its blocks, whether it is then delivered or not. -/
theorem State.xgemUp_keys {r : Nat} (hr : r = rootOf (slotKey p e.burst.onu) (key - 1)) (hst : (s.root r).state ≠ .empty)
    (hheld : (s.root r).held = false) (hlen : fr.length ≤ 16383) :
    (s.xgemUp p sd e c cl key w fr fu b).keys = (s.upDecrypted p r (blocks fr.length)).keys := by
  subst hr
  unfold State.xgemUp
  extract_lets up k n r s0 s1
  rw [if_neg (by omega), if_neg (by omega), if_neg (by simp [k, hst, hheld]), if_neg (Nat.not_lt.2 hlen)]
  change _ = s1.keys
  split
  · exact State.inc_keys ..
  · split
    · rfl
    · exact State.intakeUp_keys _

end

end

theorem execUpstreamXgemFrame_none {p : Fin 32} {sd : Side} {un : Bool} {s : State}
    (h : s.flt.safe = true ∨ un = true ∨ (s.side p sd.n).content = none) (c : BitVec 16) (cl : Fin 8) (k : Fin 4) (w : BitVec 18)
    (fr : List Byte) (fu : Bool) (b : Option (Fin 16)) : execUpstreamXgemFrame p sd c cl k w fr un fu b s = .next s := by
  unfold execUpstreamXgemFrame
  split
  · next e he =>
    refine congrArg ok (if_pos ?_)
    simpa [he] using h
  · rfl

theorem execUpstreamXgemFrame_content {p : Fin 32} {sd : Side} {e : Exp} {s : State} (hsafe : s.flt.safe = false)
    (he : (s.side p sd.n).content = some e) (c : BitVec 16) (cl : Fin 8) (k : Fin 4) (w : BitVec 18) (fr : List Byte) (fu : Bool)
    (b : Option (Fin 16)) : execUpstreamXgemFrame p sd c cl k w fr false fu b s =
      .next (s.xgemUp p sd.n e c.toNat cl.val k.val w.toNat fr fu b) := by
  simp [execUpstreamXgemFrame, he, hsafe]

/-- Settles O31, command by command: where the packet at the front of the cipher stage goes, how a piece is encrypted and counted, and what
an upstream frame leaves by its key index. -/
theorem payloadCipher : Obligations.PayloadCipher := by
  refine ⟨fun p sd b s h => execCipherDownstream_empty h b, ?plain, ?encrypted, ?noKey, ?piece,
    fun p sd c cl k w fr un fu b s h => execUpstreamXgemFrame_none h c cl k w fr fu b,
    fun p sd e c cl w fr fu b s hsafe he => execUpstreamXgemFrame_content hsafe he c cl 0 w fr fu b, ?upNoKey, ?upUsage⟩
  case plain =>
    intro p sd b d r s hq henc hlen
    exact execCipherDownstream_sent hq
      (State.cipherPkt_plain (s := s.cipherTaken (psd p sd) r) hlen ((s.encrypts_eq_false_iff _).2 henc) p sd.n b)
  case encrypted =>
    intro p sd d r k s hq henc hkind hlen hk hheld
    obtain ⟨t, ht, hcipher, hkeys, hegress⟩ := execCipherDownstream_sent hq
      (State.cipherPkt_encrypted (s := s.cipherTaken (psd p sd) r) hlen ((s.encrypts_iff _).2 ⟨henc, hkind⟩) hk hheld p sd.n)
    exact ⟨t, ht, hkeys, hcipher, hegress⟩
  case noKey =>
    intro p sd b d r s hq henc hkind hlen hk
    obtain ⟨hcipher, hrest⟩ := (s.cipherTaken (psd p sd) r).holdDropped d.handle (psd p sd)
    exact ⟨_, execCipherDownstream_dropped hq
      (State.cipherPkt_no_key (s := s.cipherTaken (psd p sd) r) hlen ((s.encrypts_iff _).2 ⟨henc, hkind⟩) hk p sd.n b),
      hcipher.trans (s.cipherOf_cipherTaken ..), hrest⟩
  case piece =>
    intro o sfc w n k s henc _ hk hheld hlimit hwidth
    rw [State.cipherPiece_encrypted henc hk hheld hlimit]
    refine ⟨rfl, ?_⟩
    rw [State.root_of_roots (congrArg Keys.roots (State.count_keys ..)), State.usage_useKey, Nat.mod_eq_of_lt hwidth]
  case upNoKey =>
    intro p sd e c cl k w fr fu b s hsafe he hkey hr
    exact (execUpstreamXgemFrame_content hsafe he c cl k w fr fu b).trans (congrArg ok (State.xgemUp_no_key hkey hr))
  case upUsage =>
    intro p sd e c cl k w fr fu b r s hsafe he hkey hr hst hheld hlen
    have hroot := State.root_of_roots (congrArg Keys.roots (State.xgemUp_keys (sd := sd.n) (c := c.toNat) (cl := cl.val) (w := w.toNat)
      (fu := fu) (b := b) hkey hr hst hheld hlen)) r
    exact ⟨_, execUpstreamXgemFrame_content hsafe he c cl k w fr fu b, (congrArg Root.usage hroot).trans (State.usage_upDecrypted ..)⟩

end Sys2Proof.Machine

/-! SUPPORT. Messages of a Shasol lane (09_encryption_and_keys.md R325, R327, R328; 12_serial_lanes.md R402 to R404): the frame that
cut-through has begun, the ends of a received message and of its tag check, and the message that leaves a lane. -/

namespace Sys2Proof.Machine

set_option autoImplicit false

/-! Readings of a lane. -/

theorem State.lane_congr {t s : State} (h : t.shl = s.shl) (n : Nat) : t.lane n = s.lane n := by
  simp only [State.lane, h]

theorem State.addrByte_congr_word {t s : State} (h : t.word Reg.SHL_FAB_STATUS.addr = s.word Reg.SHL_FAB_STATUS.addr) :
    t.addrByte = s.addrByte := by
  have hvalid : t.bit Reg.SHL_FAB_STATUS.ADDR_VALID = s.bit Reg.SHL_FAB_STATUS.ADDR_VALID := congrArg (· != 0) (State.rd_congr_word h)
  have haddr : t.rd Reg.SHL_FAB_STATUS.ADDR = s.rd Reg.SHL_FAB_STATUS.ADDR := State.rd_congr_word h
  simp only [State.addrByte, State.ownAddr, hvalid, haddr]

/-! The frame begun under sealed cut-through from a lane (R328, R404). -/

theorem State.endCut_none {s : State} {k : Nat} (h : s.cutOf k = none) (good : Bool) : s.endCut k good = s := by
  simp only [State.endCut, h]

theorem State.endCut_some {s : State} {k : Nat} {x : Nat × List Byte} (h : s.cutOf k = some x) (good : Bool) :
    s.endCut k good = (s.setCut k none).ulkOut x.1 x.2 good := by
  simp only [State.endCut, h]

theorem State.cutOf_endCut (s : State) (k : Nat) (good : Bool) : (s.endCut k good).cutOf k = none := by
  cases h : s.cutOf k with
  | none => rwa [State.endCut_none h]
  | some x =>
    rw [State.endCut_some h]
    exact s.cutOf_setCut_same k none

theorem State.ulkSent_endCut {s : State} {k : Nat} {x : Nat × List Byte} (h : s.cutOf k = some x) (good : Bool) :
    Tab.get (fun _ => []) (s.endCut k good).shl.ulkSent x.1 = x.2 ++ frameCheck x.2 good := by
  rw [State.endCut_some h]
  exact State.ulkSent_ulkOut ..

theorem State.endCut_ctrs (s : State) (k : Nat) (good : Bool) : (s.endCut k good).ctrs = s.ctrs :=
  (State.endCut_within (K := (· = .shl)) (within_refl s) k good rfl).ctrs.resolve_left nofun

/-! SHASOL_MESSAGE_RX (R403, R404). -/

/-- The state in which a message ends on a lane. -/
def State.msgHeard (s : State) (n : Nat) : State := s.setLane n { s.lane n with heard := s.now }

section
variable {n : Fin 16} {r : LinkRx} {s : State}

theorem execShasolMessageRx_down (hup : s.laneUp n.val = false) (hst : s.laneState n.val ≠ lnExchange) :
    execShasolMessageRx n r s = .next (((s.msgHeard n.val).endCut n.val false).inc (Cnt.SHL_MSG_LOST n.val)) := by
  have hup' : (s.msgHeard n.val).laneUp n.val = false := hup
  have hdown : (s.msgHeard n.val).laneState n.val ≠ lnExchange ∧ (!(s.msgHeard n.val).laneUp n.val) = true := ⟨hst, by rw [hup']; rfl⟩
  exact congrArg ok (if_pos hdown)

section
variable (hup : s.laneUp n.val = true)
include hup

theorem execShasolMessageRx_corrupt (hbad : r.crcOk = false ∨ r.errored = true) : ∃ addr, execShasolMessageRx n r s =
    .next ((((s.msgHeard n.val).endCut n.val false).inc (Cnt.SHL_CRC_ERR n.val)).raiseLimited .LINK_CRC (srcLane n.val) addr n.val 1000000) := by
  have hup' : (s.msgHeard n.val).laneUp n.val = true := hup
  have hlane : ¬ ((s.msgHeard n.val).laneState n.val ≠ lnExchange ∧ (!(s.msgHeard n.val).laneUp n.val) = true) := by simp [hup']
  exact ⟨_, congrArg ok ((if_neg hlane).trans (if_pos (by simpa using hbad)))⟩

variable (hcrc : r.crcOk = true) (herr : r.errored = false) (habort : r.abort = false) (hcount : r.countOk = true) (hcut : r.cut = false)
include hcrc herr habort hcount hcut

theorem execShasolMessageRx_plain (hchan : r.chan = 0) (hplain : r.sealed_ = false) :
    execShasolMessageRx n r s = .next ((s.msgHeard n.val).inc (Cnt.SHL_MSGS_RX n.val)) := by
  have hup' : (s.msgHeard n.val).laneUp n.val = true := hup
  simp only [State.msgHeard] at hup' ⊢
  simp [execShasolMessageRx, hup', hcrc, herr, habort, hcount, hcut, hchan, hplain]

/-- A message sealed under the key in use waits for its tag check. -/
theorem execShasolMessageRx_sealed (hlo : 1 ≤ r.chan.toNat) (hhi : r.chan.toNat ≤ 3) (hseal : r.sealed_ = true) (hphase : r.phase = false)
    (hrx : (s.lane n.val).rx.isSome = true) (hrxPhase : s.bit (Reg.SHL_LANE_STATUS.RX_PHASE n.val) = false) :
    execShasolMessageRx n r s = .next ((s.msgHeard n.val).setLane n.val { s.lane n.val with
      heard := s.now
      hold := (s.lane n.val).hold ++ [(r.chan.toNat, false)] }) := by
  have hup' : (s.msgHeard n.val).laneUp n.val = true := hup
  have hbit : (s.msgHeard n.val).bit (Reg.SHL_LANE_STATUS.RX_PHASE n.val) = false := hrxPhase
  have hchan : r.chan ≠ 0#8 := by
    rintro h
    simp [h] at hlo
  simp only [State.msgHeard] at hup' hbit ⊢
  simp [execShasolMessageRx, hup', hbit, hcrc, herr, habort, hcount, hcut, hchan, Nat.not_lt.2 hhi, hseal, hphase, hrx]

end

end

/-! TAG_CHECK_DONE (R325, R327, R328). -/

/-- The state in which a verdict that came late is counted. -/
def State.lateCounted (s : State) (l : Bool) : State := if l then s.inc Cnt.KEY_TAG_LATE_CT else s

theorem State.lateCounted_shl (s : State) (l : Bool) : (s.lateCounted l).shl = s.shl := by
  cases l with
  | false => rfl
  | true => exact State.inc_shl s Cnt.KEY_TAG_LATE_CT

theorem State.ctr_lateCounted_of_ne (s : State) (l : Bool) {a : Nat} (ha : a ≠ Cnt.KEY_TAG_LATE_CT) : (s.lateCounted l).ctr a = s.ctr a := by
  cases l with
  | false => rfl
  | true => exact (State.ctr_inc _ _ _).trans (if_neg ha)

/-- The state in which the key awaited serves what is received, if the message was the first under it (R407). -/
def State.rxTaken (s : State) (n : Nat) (first : Bool) (key : Option Sess) : State :=
  if first ∧ key.isSome then
    (s.setLane n { s.lane n with rx := key, rxNew := none }).wr (Reg.SHL_LANE_STATUS.RX_PHASE n) (1 - s.rd (Reg.SHL_LANE_STATUS.RX_PHASE n))
  else s

theorem State.rxTaken_frames (s : State) (n : Nat) (first : Bool) (key : Option Sess) :
    (s.rxTaken n first key).shl.cut = s.shl.cut ∧ (s.rxTaken n first key).shl.ulkSent = s.shl.ulkSent := by
  unfold State.rxTaken
  split <;> exact ⟨rfl, rfl⟩

theorem execTagCheckDone_empty {n : Fin 16} {s : State} (h : (s.lane n.val).hold = []) (g l : Bool) : execTagCheckDone n g l s = .next s := by
  simp only [execTagCheckDone, h]

/-- The state in which the verdict on the sealed message received first is taken, with `r` left. -/
def State.verdictTaken (s : State) (n : Nat) (r : List (Nat × Bool)) : State := s.setLane n { s.lane n with hold := r }

section
variable {n : Fin 16} {x : Nat × Bool} {r : List (Nat × Bool)} {s : State}

section
variable (hcut : s.cutOf n.val = none)
include hcut

theorem execTagCheckDone_bad (hhold : (s.lane n.val).hold = x :: r) (l : Bool) : ∃ addr, execTagCheckDone n false l s =
    .next (((s.verdictTaken n.val r).inc Cnt.KEY_TAG_FAIL).raise .TAG_FAIL srcKey addr) := by
  have hend := State.endCut_none (s := s.verdictTaken n.val r) hcut false
  simp only [State.verdictTaken] at hend ⊢
  simp only [execTagCheckDone, hhold, hcut, Bool.false_and, hend]
  exact ⟨_, rfl⟩

theorem execTagCheckDone_good {c : Nat} (hhold : (s.lane n.val).hold = (c, false) :: r) (l : Bool) : execTagCheckDone n true l s =
    .next ((s.verdictTaken n.val r).inc (Cnt.SHL_MSGS_RX n.val)) := by
  have hend := State.endCut_none (s := s.verdictTaken n.val r) hcut (!l)
  simp only [State.verdictTaken] at hend ⊢
  simp [execTagCheckDone, hhold, hcut, hend]

end

section
variable {c : Nat × List Byte} (hhold : (s.lane n.val).hold = x :: r) (hcut : s.cutOf n.val = some c) (l : Bool)
include hhold hcut

theorem execTagCheckDone_cut_bad : ∃ addr, execTagCheckDone n false l s = .next
    (((((s.verdictTaken n.val r).endCut n.val false).lateCounted l).inc Cnt.KEY_TAG_FAIL_CT).raise .TAG_FAIL srcKey addr) := by
  simp only [execTagCheckDone, hhold, hcut]
  exact ⟨_, rfl⟩

theorem execTagCheckDone_cut_good : execTagCheckDone n true l s = .next
    (((((s.verdictTaken n.val r).endCut n.val (!l)).lateCounted l).rxTaken n.val x.2 (s.lane n.val).rxNew).inc (Cnt.SHL_MSGS_RX n.val)) := by
  simp only [execTagCheckDone, hhold, hcut]
  rfl

end

end

/-! SHASOL_MESSAGE_TX (R325, R402, R407). -/

section
variable {n : Fin 16} {c : Fin 4} {s : State}

theorem execShasolMessageTx_down (hup : s.laneUp n.val = false) (hst : s.laneState n.val ≠ lnExchange) :
    execShasolMessageTx n c s = .next s := by
  simp [execShasolMessageTx, hup, hst]

theorem execShasolMessageTx_spent (hseal : s.bit (Reg.SHL_LANE_STATUS.SEALED n.val) = true) (hc : c.val ≠ 0)
    (hspent : 2 ^ 48 ≤ (s.lane n.val).txCtr) : execShasolMessageTx n c s = .next s :=
  if_pos (by rw [hseal, decide_eq_true hc, decide_eq_true hspent]; exact Bool.or_true _)

end

/-- The counters below those of the cipher stand as a session's key is derived. -/
theorem State.ctr_derive_of_lt {a : Nat} (ha : a < 0x81000) (s : State) (k label x : Nat) : (s.derive k label x).ctr a = s.ctr a := by
  obtain ⟨hhit, hmiss⟩ : a ≠ Cnt.KEY_CACHE_HIT ∧ a ≠ Cnt.KEY_CACHE_MISS := by
    unfold Cnt.KEY_CACHE_HIT Cnt.KEY_CACHE_MISS
    omega
  unfold State.derive
  extract_lets e
  split
  · exact (State.ctr_inc _ _ _).trans (if_neg hhit)
  · exact (State.ctr_inc _ _ _).trans (if_neg hmiss)

theorem State.word_wr_of_ne (s : State) {f : Fld} {b : Nat} (h : b ≠ f.addr) (v : Nat) : (s.wr f v).word b = s.word b :=
  (State.word_wr ..).trans (if_neg h)

theorem State.twinSealed_shl (s : State) : s.twinSealed.shl = s.shl := rfl

theorem State.twinSealed_ctrs (s : State) : s.twinSealed.ctrs = s.ctrs := rfl

theorem State.word_twinSealed_of_ne (s : State) {a : Nat} (h : a ≠ Reg.TWN_STATUS.addr) : s.twinSealed.word a = s.word a :=
  State.word_wr_of_ne s (f := Reg.TWN_STATUS.SEALED) h _

/-- A new session's keys and phases, before its key is derived and the twin's seal follows. -/
def State.sessionKeyed (s : State) (n : Nat) (k : Sess) : State :=
  let s1 := s.setLane n { s.lane n with tx := some k, txCtr := 0, offer := none, rxNew := some k }
  let s2 := (s1.wr (Reg.SHL_LANE_STATUS.SEALED n) 1).inc Cnt.KEY_GCM_SESSIONS
  s2.wr (Reg.SHL_LANE_STATUS.TX_PHASE n) (1 - s2.rd (Reg.SHL_LANE_STATUS.TX_PHASE n))

section
variable (s : State) (n : Nat) (k : Sess)

theorem State.newSession_later : s.newSession n k false = ((s.sessionKeyed n k).derive (linkRoot n) 3 (beNat k.context)).twinSealed := rfl

theorem State.ctl_newSession : ((s.newSession n k false).lane n).ctl = (s.lane n).ctl := by
  have hderive : ((s.sessionKeyed n k).derive (linkRoot n) 3 (beNat k.context)).shl = (s.sessionKeyed n k).shl := by simp
  have hkeyed : (s.sessionKeyed n k).shl = (s.setLane n { s.lane n with tx := some k, txCtr := 0, offer := none, rxNew := some k }).shl :=
    (State.inc_shl ..).trans rfl
  rw [State.newSession_later, State.lane_congr ((State.twinSealed_shl _).trans (hderive.trans hkeyed)), State.lane_setLane_same]

theorem State.ctr_newSession_of_lt {a : Nat} (ha : a < 0x81000) : (s.newSession n k false).ctr a = s.ctr a := by
  have hne : a ≠ Cnt.KEY_GCM_SESSIONS := by
    unfold Cnt.KEY_GCM_SESSIONS
    omega
  rw [State.newSession_later, State.ctr_congr (State.twinSealed_ctrs _), State.ctr_derive_of_lt ha, State.sessionKeyed,
    State.ctr_congr (State.wr_ctrs ..), State.ctr_inc, if_neg hne]
  rfl

theorem State.word_newSession_of_ne {a : Nat} (htwin : a ≠ Reg.TWN_STATUS.addr) (hlane : a ≠ Reg.SHL_LANE_STATUS.addr n) :
    (s.newSession n k false).word a = s.word a := by
  have hderive : ((s.sessionKeyed n k).derive (linkRoot n) 3 (beNat k.context)).words = (s.sessionKeyed n k).words := by simp
  rw [State.newSession_later, State.word_twinSealed_of_ne _ htwin, State.word_congr hderive]
  rw [State.sessionKeyed, State.word_wr_of_ne _ hlane, State.inc_word, State.word_wr_of_ne _ hlane, State.setLane_word]

end

/-- What follows a channel 0 message: nothing, or after an answer the session it answers for. -/
theorem State.ctlSent_eq (s : State) (n : Nat) (m : LinkCtl) : s.ctlSent n m = s ∨ ∃ k, s.ctlSent n m = s.newSession n k false := by
  cases m with
  | cap ack nonce => exact .inl rfl
  | offer nonce => exact .inl rfl
  | answer mine theirs =>
    cases hpeer : (s.lane n).peer with
    | none => exact .inl (by simp only [State.ctlSent, hpeer])
    | some c => exact .inr ⟨s.session n c mine theirs, by simp only [State.ctlSent, hpeer]⟩

/-- The messages that wait on the lane, its own counters and the device's address stand. -/
theorem State.ctlSent_unchanged (s : State) {n : Nat} (hn : n < 16) (m : LinkCtl) : ((s.ctlSent n m).lane n).ctl = (s.lane n).ctl ∧
    (s.ctlSent n m).ctr (Cnt.SHL_MSGS_TX n) = s.ctr (Cnt.SHL_MSGS_TX n) ∧ (s.ctlSent n m).addrByte = s.addrByte := by
  rcases s.ctlSent_eq n m with h | ⟨k, h⟩
  · rw [h]
    exact ⟨rfl, rfl, rfl⟩
  · have hctr : Cnt.SHL_MSGS_TX n < 0x81000 := by
      unfold Cnt.SHL_MSGS_TX
      omega
    have hlane : Reg.SHL_FAB_STATUS.addr ≠ Reg.SHL_LANE_STATUS.addr n := by
      unfold Reg.SHL_FAB_STATUS.addr Reg.SHL_LANE_STATUS.addr
      omega
    rw [h]
    exact ⟨s.ctl_newSession n k, s.ctr_newSession_of_lt n k hctr,
      State.addrByte_congr_word (s.word_newSession_of_ne n k (by decide) hlane)⟩

theorem State.lane_putMsg (s : State) (n : Nat) (m : LinkMsg) (head : List Byte) (len : Nat) : (s.putMsg n m head len).lane n =
    { s.lane n with sent := some m, out := (s.lane n).out ++ msgBlocks head (m.bytes.take len) (m.bytes.drop len) } :=
  (State.lane_congr (State.inc_shl ..) n).trans (State.lane_setLane_same ..)

theorem State.ctr_putMsg (s : State) (n : Nat) (m : LinkMsg) (head : List Byte) (len : Nat) :
    (s.putMsg n m head len).ctr (Cnt.SHL_MSGS_TX n) = (s.ctr (Cnt.SHL_MSGS_TX n)).add 1 := (State.ctr_inc _ _ _).trans (if_pos rfl)

/-- Channel 0 sends plain, whether the lane is sealed or not. -/
theorem execShasolMessageTx_ctl {n : Fin 16} {m : LinkCtl} {r : List LinkCtl} {s : State} (hup : s.laneUp n.val = true)
    (hctl : (s.lane n.val).ctl = m :: r) : ∃ head, execShasolMessageTx n 0 s =
      .next (((s.setLane n.val { s.lane n.val with ctl := r }).ctlSent n.val m).putMsg n.val
        ⟨0, false, s.bit (Reg.SHL_LANE_STATUS.TX_PHASE n.val), 0xFF, s.addrByte, s.ctlBytes n.val m⟩ head (s.ctlBytes n.val m).length) := by
  obtain ⟨-, -, hbyte⟩ := (s.setLane n.val { s.lane n.val with ctl := r }).ctlSent_unchanged n.isLt m
  have haddr : ((s.setLane n.val { s.lane n.val with ctl := r }).ctlSent n.val m).addrByte = s.addrByte := hbyte.trans rfl
  have hnext : s.nextMsg n.val 0 =
      some ((s.setLane n.val { s.lane n.val with ctl := r }).ctlSent n.val m, 0xFF, s.ctlBytes n.val m, none) := by
    simp only [State.nextMsg, hctl]
  refine ⟨linkHead 0 false (s.bit (Reg.SHL_LANE_STATUS.TX_PHASE n.val)) (s.ctlBytes n.val m).length 0xFF s.addrByte, ?_⟩
  simp [execShasolMessageTx, hup, hnext, haddr, State.doneWith]

/-- Settles O32, command by command: the ends of a received message, of its tag check and of the frame begun from it, and what leaves a
lane. -/
theorem linkMessages : Obligations.LinkMessages := by
  refine ⟨?down, ?corrupt, fun n r s hup hcrc herr habort hcount hcut hchan hplain =>
      execShasolMessageRx_plain hup hcrc herr habort hcount hcut hchan hplain,
    fun n r s hup hcrc herr habort hcount hcut hlo hhi hseal hphase hrx hbit =>
      execShasolMessageRx_sealed hup hcrc herr habort hcount hcut hlo hhi hseal hphase hrx hbit,
    ?corruptCut, fun n g l s hhold => execTagCheckDone_empty hhold g l, ?bad,
    fun n l c r s hhold hcut => execTagCheckDone_good hcut hhold l, ?verdictCut,
    fun n c s hup hst => execShasolMessageTx_down hup hst, fun n c s hseal hc hspent => execShasolMessageTx_spent hseal hc hspent, ?ctl⟩
  case down =>
    intro n r s hup hst hcut
    have hend := State.endCut_none (s := s.msgHeard n.val) hcut false
    exact (execShasolMessageRx_down hup hst).trans (congrArg (fun t => ok (t.inc (Cnt.SHL_MSG_LOST n.val))) hend)
  case corrupt =>
    intro n r s hup hcut hbad
    obtain ⟨addr, hexec⟩ := execShasolMessageRx_corrupt hup hbad
    rw [State.endCut_none (s := s.msgHeard n.val) hcut] at hexec
    exact ⟨_, hexec, (State.ctr_congr (State.raiseLimited_ctrs ..) _).trans ((State.ctr_inc _ _ _).trans (if_pos rfl)),
      (State.raiseLimited_shl ..).trans (State.inc_shl ..)⟩
  case corruptCut =>
    intro n r s x hcut hup hbad
    obtain ⟨addr, hexec⟩ := execShasolMessageRx_corrupt hup hbad
    have hshl : ((((s.msgHeard n.val).endCut n.val false).inc (Cnt.SHL_CRC_ERR n.val)).raiseLimited .LINK_CRC (srcLane n.val) addr n.val
        1000000).shl = ((s.msgHeard n.val).endCut n.val false).shl := (State.raiseLimited_shl ..).trans (State.inc_shl ..)
    refine ⟨_, hexec, (State.cutOf_congr hshl _).trans (State.cutOf_endCut ..), ?_⟩
    rw [hshl]
    exact State.ulkSent_endCut (s := s.msgHeard n.val) hcut false
  case bad =>
    intro n l x r s hhold hcut
    obtain ⟨addr, hexec⟩ := execTagCheckDone_bad hcut hhold l
    exact ⟨_, hexec, congrArg Lane.hold ((State.lane_congr (State.inc_shl ..) _).trans (State.lane_setLane_same ..)),
      (State.ctr_inc _ _ _).trans (if_pos rfl), State.inc_words .., (congrArg Shl.ulkSent (State.inc_shl ..)).trans rfl⟩
  case verdictCut =>
    intro n g l x c r s hhold hcut
    have hend := ((s.verdictTaken n.val r).endCut n.val (g && !l)).lateCounted_shl l
    have hended := (s.verdictTaken n.val r).cutOf_endCut n.val (g && !l)
    have hsent := State.ulkSent_endCut (s := s.verdictTaken n.val r) hcut (g && !l)
    rw [← State.cutOf_congr hend] at hended
    rw [← hend] at hsent
    cases g with
    | false =>
      obtain ⟨addr, hexec⟩ := execTagCheckDone_cut_bad hhold hcut l
      refine ⟨_, hexec, (State.cutOf_congr (State.inc_shl ..) _).trans hended, ?_, fun _ => ?_⟩
      · exact (congrArg (fun y : Shl => Tab.get (fun _ => []) y.ulkSent c.1) (State.inc_shl ..)).trans hsent
      · refine ((State.ctr_inc _ _ _).trans (if_pos rfl)).trans (congrArg (Ctr.add · 1) ?_)
        rw [State.ctr_lateCounted_of_ne _ _ (by decide), State.ctr_congr (State.endCut_ctrs ..)]
        rfl
    | true =>
      obtain ⟨hcut', hsent'⟩ := (((s.verdictTaken n.val r).endCut n.val (!l)).lateCounted l).rxTaken_frames n.val x.2 (s.lane n.val).rxNew
      refine ⟨_, execTagCheckDone_cut_good hhold hcut l, ?_, ?_, nofun⟩
      · rw [State.cutOf_congr (State.inc_shl ..), State.cutOf, hcut']
        exact hended
      · rw [State.inc_shl, hsent']
        simpa [frameCheck] using hsent
  case ctl =>
    intro n m r s hup hctl
    obtain ⟨head, hexec⟩ := execShasolMessageTx_ctl hup hctl
    obtain ⟨hleft, hctr, -⟩ := (s.setLane n.val { s.lane n.val with ctl := r }).ctlSent_unchanged n.isLt m
    rw [State.lane_setLane_same] at hleft
    exact ⟨_, hexec, (congrArg Lane.ctl (State.lane_putMsg ..)).trans hleft, congrArg Lane.sent (State.lane_putMsg ..),
      (State.ctr_putMsg ..).trans (congrArg (Ctr.add · 1) (hctr.trans rfl))⟩

end Sys2Proof.Machine

/-! SUPPORT. What a takeover leaves alone (10_twin_protection.md R353 to R357): the slots freed, messages queued, keys used and queues flushed
with a tree touch of twin protection only what it sends and what it keeps of each tree; a takeover itself adds to the trees owned. -/

namespace Sys2Proof.Machine

set_option autoImplicit false

/-- Twin protection without the messages it sends and what it keeps of each tree. -/
def Twn.rest (w : Twn) : Twn := { w with txSeq := [], txq := [], trees := [] }

section
variable {v w : Twn} (h : v.rest = w.rest)
include h

theorem Twn.hb_of_rest : v.hb = w.hb := (congrArg Twn.hb h :)
theorem Twn.alive_of_rest : v.alive = w.alive := (congrArg Twn.alive h :)
theorem Twn.stuck20_of_rest : v.stuck20 = w.stuck20 := (congrArg Twn.stuck20 h :)
theorem Twn.tau_of_rest : v.tau = w.tau := (congrArg Twn.tau h :)
theorem Twn.trigs_of_rest : v.trigs = w.trigs := (congrArg Twn.trigs h :)
theorem Twn.rels_of_rest : v.rels = w.rels := (congrArg Twn.rels h :)
theorem Twn.asked_of_rest : v.asked = w.asked := (congrArg Twn.asked h :)
theorem Twn.answered_of_rest : v.answered = w.answered := (congrArg Twn.answered h :)

end

/-- What one state has of another's twin protection, of the registers and counters of its block and of the superframe counters. -/
structure State.Aside (t s : State) : Prop where
  rest : t.twn.rest = s.twn.rest
  word : ∀ a, a < 0x300000 → t.word a = s.word a
  ctr : ∀ a, a < 0x81000 → t.ctr a = s.ctr a
  ports : t.pon.ports = s.pon.ports

theorem State.Aside.refl (s : State) : s.Aside s := ⟨rfl, fun _ _ => rfl, fun _ _ => rfl, rfl⟩

theorem State.Aside.trans {r t s : State} (h : r.Aside t) (g : t.Aside s) : r.Aside s :=
  ⟨h.rest.trans g.rest, fun a ha => (h.word a ha).trans (g.word a ha), fun a ha => (h.ctr a ha).trans (g.ctr a ha), h.ports.trans g.ports⟩

theorem State.Aside.foldl {α : Type} {f : State → α → State} (hf : ∀ t x, (f t x).Aside t) (l : List α) (s : State) : (l.foldl f s).Aside s :=
  List.foldlRecOn (motive := fun t => t.Aside s) l f (.refl s) (fun t ht x _ => (hf t x).trans ht)

/-- Parts of the state with nothing of twin protection in them. -/
abbrev asideParts : List Part := [.flt, .act, .whf, .cpg, .keys, .pm, .stw, .hrl, .tly]

theorem State.Aside.of_within {t s : State} (h : t.Within (· ∈ asideParts) s) : t.Aside s :=
  ⟨congrArg Twn.rest (h.twn.resolve_left (by simp)), fun a _ => State.word_congr (h.words.resolve_left (by simp)) a,
    fun a _ => State.ctr_congr (h.ctrs.resolve_left (by simp)) a, congrArg Pon.ports (h.pon.resolve_left (by simp))⟩

/-! The operations that a takeover is made of. -/

theorem State.twinSend_aside (s : State) (k port side sfc arg : Nat) : (s.twinSend k port side sfc arg).Aside s := by
  unfold State.twinSend
  split
  · exact .refl s
  · exact ⟨rfl, fun _ _ => rfl, fun _ _ => rfl, rfl⟩

theorem State.mirror_aside (s : State) (k : Nat) (p : Fin 32) (side x : Nat) : (s.mirror k p side x).Aside s := by
  unfold State.mirror
  split
  · split <;> exact State.twinSend_aside ..
  · exact .refl s

theorem State.setTwinTree_aside (s : State) (p : Fin 32) (x : TwinTree) : (s.setTwinTree p x).Aside s :=
  ⟨rfl, fun _ _ => rfl, fun _ _ => rfl, rfl⟩

theorem State.setSide_aside (s : State) (p : Fin 32) (sd : Nat) (x : PonSide) : (s.setSide p sd x).Aside s :=
  ⟨rfl, fun _ _ => rfl, fun _ _ => rfl, rfl⟩

theorem State.raise_aside (s : State) (k : Kind) (src : Source) (a : Nat) : (s.raise k src a).Aside s :=
  .of_within (State.raise_within (within_refl s) k src a (by simp))

/-- A counter of the blocks that hold packets and keys. -/
theorem State.count_aside (s : State) {c : Nat} (hc : 0x81000 ≤ c) (n : Nat) : (s.count c n).Aside s :=
  ⟨congrArg Twn.rest (State.count_twn ..), fun _ _ => State.count_word ..,
    fun a ha => (State.ctr_count s c n a).trans (if_neg (Nat.ne_of_lt (Nat.lt_of_lt_of_le ha hc))), congrArg Pon.ports (State.count_pon ..)⟩

/-- A field of a register or of a table entry behind a window that is not of the device's own blocks. -/
theorem State.wr_aside (s : State) {f : Fld} (hf : 0x300000 ≤ f.addr) (v : Nat) : (s.wr f v).Aside s :=
  ⟨rfl, fun _ ha => State.word_wr_of_ne s (Nat.ne_of_lt (Nat.lt_of_lt_of_le ha hf)) v, fun _ _ => rfl, rfl⟩

theorem State.setPlq_aside (s : State) (p : Fin 32) (sd : Nat) (q : PloamQ) : (s.setPlq p sd q).Aside s := by
  unfold State.setPlq
  split
  · exact .refl s
  · exact (State.mirror_aside ..).trans ⟨rfl, fun _ _ => rfl, fun _ _ => rfl, rfl⟩

theorem State.queuePloam_aside (s : State) (p : Fin 32) (sd onu : Nat) (b : PloamBody) : (s.queuePloam p sd onu b).Aside s :=
  State.setPlq_aside ..

theorem State.setSlot_aside (s : State) (p : Fin 32) (i : Nat) (x : Slot) : (s.setSlot p i x).Aside s := by
  unfold State.setSlot
  split
  · exact .refl s
  · extract_lets slots s1 s2
    have h2 : s2.Aside s := by
      dsimp only [s2]
      split
      · exact ⟨rfl, fun _ _ => rfl, fun _ _ => rfl, rfl⟩
      · split <;> exact ⟨rfl, fun _ _ => rfl, fun _ _ => rfl, rfl⟩
    exact (State.mirror_aside ..).trans h2

theorem State.mirrorKey_aside (s : State) (k : Nat) : (s.mirrorKey k).Aside s := by
  unfold State.mirrorKey
  split
  · exact State.mirror_aside ..
  · exact .refl s

theorem State.setRoot_aside (s : State) (k : Nat) (r : Root) : (s.setRoot k r).Aside s :=
  (State.mirrorKey_aside ..).trans ⟨rfl, fun _ _ => rfl, fun _ _ => rfl, rfl⟩

theorem State.eraseRoot_aside (s : State) (k : Nat) : (s.eraseRoot k).Aside s := by
  unfold State.eraseRoot
  split
  · exact .refl s
  · exact State.setRoot_aside ..

theorem State.useKey_aside (s : State) (k n : Nat) : (s.useKey k n).Aside s :=
  .of_within (State.useKey_within (within_refl s) k n (by simp) (by simp))

/-- A reference released counts, if anything, a double free of the handle's pool. -/
theorem State.unref_aside (s : State) (h : Nat) : (s.unref h).Aside s := by
  have hw : (s.unref h).Within (· ∈ [.ctrs, .flt, .cpg, .tly]) s :=
    State.unref_within (within_refl s) h (by simp) (by simp) (by simp) (by simp)
  exact ⟨congrArg Twn.rest (hw.twn.resolve_left (by simp)), fun a _ => State.word_congr (hw.words.resolve_left (by simp)) a,
    fun a ha => (s.unref_queues_ctr h).2 a (by unfold Cnt.CPG_DOUBLE_FREE; omega), congrArg Pon.ports (hw.pon.resolve_left (by simp))⟩

theorem State.flushQueue_aside (s : State) (q : Nat) : (s.flushQueue q).Aside s := by
  unfold State.flushQueue
  extract_lets x m s1 s2
  split
  · exact .refl s
  · have htop : ∀ (t : State) (y : Top), (t.setTop m y).Aside t := fun _ _ => ⟨rfl, fun _ _ => rfl, fun _ _ => rfl, rfl⟩
    have h1 : s1.Aside s := .foldl (fun _ _ => (State.unref_aside ..).trans (htop ..)) ..
    have h2 : s2.Aside s1 := .foldl (fun _ _ => (State.unref_aside ..).trans (htop ..)) ..
    have hends : ∀ t : State, t.busyEnds.Aside t := fun t => .of_within (State.busyEnds_within (within_refl t) (by simp))
    have hdrop : ∀ (t : State) (n : Nat), (t.dropPages q n).Aside t := fun t n =>
      .of_within (State.dropPages_within (within_refl t) q n (by simp))
    have hset : ∀ (t : State) (y : Queue), (t.setQueue q y).Aside t := fun _ _ => ⟨rfl, fun _ _ => rfl, fun _ _ => rfl, rfl⟩
    exact (hends _).trans ((hset _ _).trans ((hdrop ..).trans (h2.trans h1)))

theorem State.flushNode_aside (s : State) (n : Nat) : (s.flushNode n).Aside s :=
  .foldl (fun _ _ => (State.flushQueue_aside ..).trans (State.count_aside _ (by decide) _)) ..

/-- What provisioning enabled and is switched off lies behind windows. -/
theorem provEnable_addr {w idx : Nat} {f : Fld} (h : provEnable w idx = some f) : 0x300000 ≤ f.addr := by
  unfold provEnable at h
  split at h
  · cases h; simp only [winKey]; omega
  · cases h; simp only [winKey]; omega
  · cases h

theorem State.setProv_aside (s : State) (p : Fin 32) (i : Nat) (x : Prov) : (s.setProv p i x).Aside s :=
  ⟨rfl, fun _ _ => rfl, fun _ _ => rfl, rfl⟩

theorem State.unprovision_aside (s : State) (p : Fin 32) (i : Nat) : (s.unprovision p i).Aside s := by
  unfold State.unprovision
  extract_lets x s1
  have h1 : s1.Aside s := .foldl (fun t e => by
    split
    · next f hf => exact State.wr_aside t (provEnable_addr hf) 0
    · exact .refl t) ..
  exact (State.setProv_aside ..).trans h1

/-! Ramp and service of a tree. -/

theorem State.setTreeSt_aside (s : State) (p : Fin 32) (x : Tree) : (s.setTreeSt p x).Aside s :=
  ⟨rfl, fun _ _ => rfl, fun _ _ => rfl, rfl⟩

theorem State.setDisc_aside (s : State) (p : Fin 32) (sd : Nat) (x : Disc) : (s.setDisc p sd x).Aside s :=
  ⟨rfl, fun _ _ => rfl, fun _ _ => rfl, rfl⟩

theorem State.rampCheck_aside (s : State) (p : Fin 32) : (s.rampCheck p).Aside s := by
  unfold State.rampCheck
  split
  · exact (State.mirror_aside ..).trans (State.setTreeSt_aside ..)
  · exact .refl s

theorem State.enterRamp_aside (s : State) (p : Fin 32) : (s.enterRamp p).Aside s := by
  unfold State.enterRamp
  split
  · exact .refl s
  · exact (State.rampCheck_aside ..).trans ((State.mirror_aside ..).trans
      ((State.setTreeSt_aside ..).trans ((State.setDisc_aside ..).trans (State.setDisc_aside ..))))

theorem State.leftActive_aside (s : State) (p : Fin 32) : (s.leftActive p).Aside s := by
  unfold State.leftActive
  extract_lets x s1 n
  split
  · exact (State.enterRamp_aside ..).trans (State.setTreeSt_aside ..)
  · exact State.setTreeSt_aside ..

theorem State.endService_aside (s : State) (p : Fin 32) (i : Nat) (erase : Bool) : (s.endService p i erase).Aside s := by
  unfold State.endService
  extract_lets x s1 s2 s3 s4
  have h2 : s2.Aside s := (State.flushNode_aside ..).trans (State.setPlq_aside ..)
  have h3 : s3.Aside s2 := by
    dsimp only [s3]
    split
    · exact (State.eraseRoot_aside ..).trans (State.eraseRoot_aside ..)
    · exact .refl s2
  have h4 : s4.Aside s := (State.unprovision_aside ..).trans (h3.trans h2)
  split
  · exact (State.leftActive_aside ..).trans h4
  · exact h4

theorem State.freeSlot_aside (s : State) (p : Fin 32) (i : Nat) (final : Option PloamBody) : (s.freeSlot p i final).Aside s := by
  unfold State.freeSlot
  extract_lets sd s1
  have h1 : s1.Aside s := (State.setSlot_aside ..).trans (State.endService_aside ..)
  cases final with
  | none => exact h1
  | some b => exact (State.queuePloam_aside ..).trans h1

theorem State.broadcastDeactivate_aside (s : State) (p : Fin 32) : (s.broadcastDeactivate p).Aside s :=
  .foldl (fun t sd => by
    split
    · exact State.queuePloam_aside ..
    · exact .refl t) ..

theorem State.deactivateAll_aside (s : State) (p : Fin 32) : (s.deactivateAll p).Aside s := by
  unfold State.deactivateAll
  extract_lets held
  split
  · exact (State.broadcastDeactivate_aside ..).trans (State.wr_aside s (by decide) 1)
  · exact State.broadcastDeactivate_aside ..

theorem State.reactivate_aside (s : State) (p : Fin 32) : (s.reactivate p).Aside s := by
  unfold State.reactivate
  extract_lets s1
  have h1 : s1.Aside s := .foldl (fun t i => by
    split
    · exact State.freeSlot_aside ..
    · exact .refl t) ..
  exact (State.enterRamp_aside ..).trans ((State.deactivateAll_aside ..).trans h1)

theorem State.takeSlots_aside (s : State) (p : Fin 32) : (s.takeSlots p).Aside s := by
  unfold State.takeSlots
  extract_lets s1
  have h1 : s1.Aside s := .foldl (fun _ _ => State.setPlq_aside ..) ..
  refine .trans (.foldl (fun t i => ?_) ..) h1
  split
  · exact State.freeSlot_aside ..
  · exact State.freeSlot_aside ..
  · split
    · exact State.setSlot_aside ..
    · exact .refl t
  · exact .refl t

theorem State.takeoverUsage_aside (s : State) : s.takeoverUsage.Aside s := .foldl (fun _ _ => State.useKey_aside ..) ..

/-! Trees as masks. -/

theorem testBit_maskOf (l : List (Fin 32)) (n : Nat) : (maskOf l).testBit n = true ↔ ∃ p ∈ l, p.val = n := by
  have hsum : maskOf l = ∑ i ∈ l.toFinset.map Fin.valEmbedding, 2 ^ i := by
    rw [Finset.sum_map]
    rfl
  rw [hsum, ← Nat.mem_bitIndices, ← List.mem_toFinset, Finset.toFinset_bitIndices_sum_two_pow]
  simp

theorem mem_treesOf {m : Nat} {p : Fin 32} : p ∈ treesOf m ↔ m.testBit p.val = true := by
  simp [treesOf, ports]

theorem State.mem_ownTrees_setOwn (s : State) (l : List (Fin 32)) (p : Fin 32) : p ∈ (s.setOwn l).ownTrees ↔ p ∈ l := by
  have hrd : (s.setOwn l).rd Reg.TWN_OWN.OWN = maskOf l % 2 ^ 32 := State.rd_wr s Reg.TWN_OWN.OWN (maskOf l) (by decide)
  rw [State.ownTrees, hrd, mem_treesOf, Nat.testBit_mod_two_pow, decide_eq_true p.isLt, Bool.true_and, testBit_maskOf]
  simp [Fin.val_inj]

theorem State.ownTrees_congr_word {t s : State} (h : t.word Reg.TWN_OWN.addr = s.word Reg.TWN_OWN.addr) : t.ownTrees = s.ownTrees :=
  congrArg treesOf (State.rd_congr_word h)

/-- Under twin operation a tree is owned that TWN_OWN shows (R337). -/
theorem State.mem_ownTrees_iff {s : State} (hen : s.bit Reg.TWN_CFG.EN = true) {p : Fin 32} : p ∈ s.ownTrees ↔ s.owned p.val = true := by
  have hrd : s.rd Reg.TWN_OWN.OWN = (s.word Reg.TWN_OWN.addr).toNat := by
    change (s.word Reg.TWN_OWN.addr).toNat / 2 ^ 0 % 2 ^ 32 = _
    rw [pow_zero, Nat.div_one, Nat.mod_eq_of_lt (BitVec.isLt _)]
  rw [State.ownTrees, mem_treesOf, hrd, State.owned, hen]
  simp [BitVec.getLsbD]

/-- A tree that is not owned is one of twin operation (R337). -/
theorem State.en_of_not_owned {s : State} {n : Nat} (h : s.owned n = false) : s.bit Reg.TWN_CFG.EN = true := by
  rw [State.owned, Bool.or_eq_false_iff] at h
  simpa using h.1

/-! Trees taken over. -/

/-- What one state has of another's twin protection after a takeover of trees. -/
structure State.Takes (t s : State) (l : List (Fin 32)) : Prop where
  rest : t.twn.rest = s.twn.rest
  word : ∀ a, a < 0x50030 → a ≠ Reg.TWN_OWN.addr → t.word a = s.word a
  own : ∀ p, p ∈ t.ownTrees ↔ p ∈ s.ownTrees ∨ p ∈ l
  ctr : ∀ a, a < Cnt.TWN_TAKEOVERS → t.ctr a = s.ctr a

theorem State.Aside.takes {t s : State} (h : t.Aside s) : t.Takes s [] :=
  ⟨h.rest, fun a ha _ => h.word a (by omega), fun _ => by rw [State.ownTrees_congr_word (h.word _ (by decide))]; simp,
    fun a ha => h.ctr a (by unfold Cnt.TWN_TAKEOVERS at ha; omega)⟩

theorem State.Takes.refl (s : State) : s.Takes s [] := (State.Aside.refl s).takes

theorem State.Takes.trans {r t s : State} {l m : List (Fin 32)} (h : r.Takes t m) (g : t.Takes s l) : r.Takes s (l ++ m) :=
  ⟨h.rest.trans g.rest, fun a ha hne => (h.word a ha hne).trans (g.word a ha hne),
    fun p => by rw [h.own, g.own, List.mem_append, or_assoc], fun a ha => (h.ctr a ha).trans (g.ctr a ha)⟩

/-- What follows a takeover and takes nothing. -/
theorem State.Takes.then_none {r t s : State} {l : List (Fin 32)} (h : r.Takes t []) (g : t.Takes s l) : r.Takes s l := by
  simpa using h.trans g

theorem State.Takes.foldl {f : State → Fin 32 → State} (hf : ∀ t p, (f t p).Takes t [p]) (l : List (Fin 32)) (s : State) :
    (l.foldl f s).Takes s l := by
  induction l generalizing s with
  | nil => exact .refl s
  | cons p l ih => exact (ih (f s p)).trans (hf s p)

theorem State.setOwn_takes (s : State) (l : List (Fin 32)) : (s.setOwn (s.ownTrees ++ l)).Takes s l :=
  ⟨rfl, fun _ _ hne => State.word_wr_of_ne s hne _, fun _ => (State.mem_ownTrees_setOwn ..).trans List.mem_append, fun _ _ => rfl⟩

theorem State.reannounce_aside (s : State) (ps : List (Fin 32)) : (s.reannounce ps).Aside s :=
  ⟨rfl, fun _ _ => rfl, fun _ _ => rfl, rfl⟩

theorem State.takeTree_aside (s : State) (p : Fin 32) (num : Nat) : (s.takeTree p num).Aside (s.setOwn (s.ownTrees ++ [p])) := by
  unfold State.takeTree
  extract_lets d delay t s1 s2
  have h2 : s2.Aside s1 := State.setTwinTree_aside ..
  have hside : ∀ (u : State) (sd : Nat), (if u.sideEn p sd then u.setSide p sd { u.side p sd with wide := 8, wideFrom := none } else u).Aside u := by
    intro u sd
    split
    · exact State.setSide_aside ..
    · exact .refl u
  exact (State.reannounce_aside ..).trans ((State.Aside.foldl hside _ s2).trans h2)

theorem State.takeTree_takes (s : State) (p : Fin 32) (num : Nat) : (s.takeTree p num).Takes s [p] :=
  (s.takeTree_aside p num).takes.then_none (s.setOwn_takes [p])

theorem State.takeCold1_takes (s : State) (p : Fin 32) (num : Nat) : (s.takeCold1 p num).Takes s [p] := by
  unfold State.takeCold1
  extract_lets valid port s1 s2 s3
  have h1 : s1.Takes s [] := by
    dsimp only [s1]
    split
    · exact .refl s
    · exact ⟨rfl, fun _ _ _ => rfl, fun q => by simp [State.ownTrees], fun _ _ => rfl⟩
  have h2 : s2.Takes s [p] := (State.takeTree_takes ..).trans h1
  have h3 : s3.Aside s2 := .foldl (fun t i => by
    split
    · exact .refl t
    · exact State.freeSlot_aside ..) ..
  exact ((State.enterRamp_aside ..).trans ((State.deactivateAll_aside ..).trans h3)).takes.then_none h2

/-- The registers TWN_LAST and the counter of takeovers tell of a takeover. -/
theorem State.noteTakeover_takes (s : State) (num : Nat) (cold : Bool) (trees : List (Fin 32)) : (s.noteTakeover num cold trees).Takes s [] := by
  unfold State.noteTakeover
  extract_lets c s1
  have hput : ∀ (t : State) (a : Nat) (v : Word), 0x50030 ≤ a → (t.putWord a v).Takes t [] := fun t a v ha =>
    ⟨rfl, fun b hb _ => (State.word_putWord t a b v).trans (if_neg (by omega)), fun p => by
      rw [State.ownTrees_congr_word ((State.word_putWord t a Reg.TWN_OWN.addr v).trans (if_neg (by unfold Reg.TWN_OWN.addr; omega)))]
      simp, fun _ _ => rfl⟩
  have h1 : s1.Takes s [] := (hput _ _ _ (by decide)).then_none ((hput _ _ _ (by decide)).then_none
    ((hput _ _ _ (by decide)).then_none (hput _ _ _ (by decide))))
  have hinc : ∀ (t : State) (a : Nat), Cnt.TWN_TAKEOVERS ≤ a → (t.inc a).Takes t [] := fun t a ha =>
    ⟨congrArg Twn.rest (State.inc_twn ..), fun _ _ _ => State.inc_word .., fun p => by simp [State.ownTrees],
      fun b hb => (State.ctr_inc t a b).trans (if_neg (by omega))⟩
  exact (State.raise_aside ..).takes.then_none ((hinc _ _ (by split <;> decide)).then_none h1)

/-- One tree of a warm takeover (R353, R355, R322). -/
def State.warmTree (s : State) (num : Nat) (p : Fin 32) : State :=
  let t := (s.takeTree p num).takeSlots p
  if t.keyless p then t.reactivate p else t

/-- The trees of a warm takeover before TWN_LAST tells of it. -/
def State.warmTrees (s : State) (num : Nat) (l : List (Fin 32)) : State := (l.foldl (fun s p => s.warmTree num p) s).takeoverUsage

theorem State.takeWarm_nil (s : State) (num : Nat) : s.takeWarm num [] = s := if_pos rfl

theorem State.takeCold_nil (s : State) (num : Nat) : s.takeCold num [] = s := if_pos rfl

theorem State.takeWarm_eq (s : State) (num : Nat) {l : List (Fin 32)} (h : l ≠ []) :
    s.takeWarm num l = (s.warmTrees num l).noteTakeover num false l := if_neg h

theorem State.warmTree_aside (s : State) (num : Nat) (p : Fin 32) : (s.warmTree num p).Aside (s.setOwn (s.ownTrees ++ [p])) := by
  unfold State.warmTree
  extract_lets t
  have h : t.Aside (s.setOwn (s.ownTrees ++ [p])) := (State.takeSlots_aside ..).trans (s.takeTree_aside p num)
  split
  · exact (State.reactivate_aside ..).trans h
  · exact h

theorem State.warmTrees_takes (s : State) (num : Nat) (l : List (Fin 32)) : (s.warmTrees num l).Takes s l :=
  (State.takeoverUsage_aside _).takes.then_none
    (.foldl (fun t p => (t.warmTree_aside num p).takes.then_none (t.setOwn_takes [p])) l s)

theorem State.takeWarm_takes (s : State) (num : Nat) (l : List (Fin 32)) : (s.takeWarm num l).Takes s l := by
  rcases eq_or_ne l [] with rfl | hl
  · exact .refl s
  · rw [s.takeWarm_eq num hl]
    exact (State.noteTakeover_takes ..).then_none (s.warmTrees_takes num l)

theorem State.takeCold_takes (s : State) (num : Nat) (l : List (Fin 32)) : (s.takeCold num l).Takes s l := by
  unfold State.takeCold
  split
  · next h => rw [h]; exact .refl s
  · exact (State.noteTakeover_takes ..).then_none
      ((State.takeoverUsage_aside _).takes.then_none (.foldl (fun t p => t.takeCold1_takes p num) l s))

/-- Trees taken warm and trees taken cold. -/
theorem State.takeBoth_takes (s : State) (num : Nat) (l m : List (Fin 32)) : ((s.takeWarm num l).takeCold num m).Takes s (l ++ m) :=
  (State.takeCold_takes ..).trans (s.takeWarm_takes num l)

theorem State.noteTakeover_pon (s : State) (num : Nat) (cold : Bool) (trees : List (Fin 32)) : (s.noteTakeover num cold trees).pon = s.pon :=
  (State.noteTakeover_within (K := (· ∈ [.words, .ctrs, .flt, .tly])) (within_refl s) num cold trees (by simp) (by simp) (by simp)
    (by simp)).pon.resolve_left (by simp)

theorem State.ctr_noteTakeover_warm (s : State) (num : Nat) (trees : List (Fin 32)) :
    (s.noteTakeover num false trees).ctr Cnt.TWN_TAKEOVERS = (s.ctr Cnt.TWN_TAKEOVERS).add 1 := by
  unfold State.noteTakeover
  extract_lets c s1
  have h1 : s1.ctr Cnt.TWN_TAKEOVERS = s.ctr Cnt.TWN_TAKEOVERS := State.ctr_congr (by
    rw [State.putWord_ctrs, State.putWord_ctrs, State.putWord_ctrs, State.putWord_ctrs]) _
  rw [State.ctr_congr (State.raise_ctrs ..), if_neg Bool.false_ne_true, State.ctr_inc, if_pos rfl, h1]

/-- A warm takeover starts no superframe anew (R353), and counts once. -/
theorem State.takeWarm_one (s : State) (num : Nat) (p : Fin 32) : (s.takeWarm num [p]).pon.ports = s.pon.ports ∧
    (s.takeWarm num [p]).ctr Cnt.TWN_TAKEOVERS = (s.ctr Cnt.TWN_TAKEOVERS).add 1 := by
  have h : (s.warmTree num p).takeoverUsage.Aside (s.setOwn (s.ownTrees ++ [p])) :=
    (State.takeoverUsage_aside _).trans (s.warmTree_aside num p)
  rw [s.takeWarm_eq num (List.cons_ne_nil p []), State.warmTrees, List.foldl_cons, List.foldl_nil]
  rw [State.noteTakeover_pon, State.ctr_noteTakeover_warm, h.ports, h.ctr Cnt.TWN_TAKEOVERS (by unfold Cnt.TWN_TAKEOVERS; omega)]
  exact ⟨rfl, rfl⟩

end Sys2Proof.Machine

/-! SUPPORT. The commands of takeover and release (10_twin_protection.md R350, R351, R353, R356, R357, R359; Table 10-13). -/

namespace Sys2Proof.Machine

set_option autoImplicit false

theorem State.bit_congr_word {t s : State} {f : Fld} (h : t.word f.addr = s.word f.addr) : t.bit f = s.bit f :=
  congrArg (· != 0) (State.rd_congr_word h)

theorem State.owned_congr_word {t s : State} (hcfg : t.word Reg.TWN_CFG.addr = s.word Reg.TWN_CFG.addr)
    (hown : t.word Reg.TWN_OWN.addr = s.word Reg.TWN_OWN.addr) (n : Nat) : t.owned n = s.owned n := by
  have hen : t.bit Reg.TWN_CFG.EN = s.bit Reg.TWN_CFG.EN := State.bit_congr_word hcfg
  rw [State.owned, State.owned, hen, hown]

/-! TAKEOVER_WARM (R350, R351, R353). -/

theorem State.ready_congr {t s : State} (hw : t.words = s.words) (ht : t.twn = s.twn) (hf : t.flt = s.flt) (hn : t.now = s.now)
    (p : Fin 32) : t.ready p = s.ready p := by
  simp only [State.ready, State.twinTree, State.deltaValid, State.deltaCount, State.twinLanes, State.rdInt, State.owned, State.sideEn,
    State.bit, State.rd, State.word, hw, ht, hf, hn]
  rfl

theorem execTakeoverWarm_barred {s : State} (h : s.interlock = false ∨ s.mayTakeOver = false) : execTakeoverWarm s = .next s :=
  congrArg ok (if_pos (by rcases h with h | h <;> simp [h]))

/-- The triggers are taken up. -/
def State.trigsTaken (s : State) : State := { s with twn := { s.twn with trigs := [] } }

/-- A READY tree whose trigger's interlock is met is taken warm (R353). -/
theorem execTakeoverWarm_ready {n : Nat} {p : Fin 32} {s : State} (hlock : s.interlock = true) (hmay : s.mayTakeOver = true)
    (htrigs : s.twn.trigs = [⟨n, [p]⟩]) (hown : s.owned p.val = false) (hready : s.ready p = true) :
    execTakeoverWarm s = .next (s.trigsTaken.takeWarm n [p]) := by
  have hfold : ∀ t : State, t.words = s.words → [Trig.mk n [p]].foldl (fun a t =>
      (a.takeWarm t.num ((a.stillTheirs t.trees).filter s.ready)).takeCold t.num ((a.stillTheirs t.trees).filter (fun p => !s.ready p))) t =
        t.takeWarm n [p] := fun t ht => by
    simp [State.stillTheirs, State.owned_congr ht, hown, hready, State.takeCold_nil]
  refine congrArg ok ((if_neg (by simp [hlock, hmay])).trans ?_)
  dsimp only
  rw [htrigs]
  exact hfold s.trigsTaken rfl

/-! The end of a command of TWN_CMD (Table 10-13). -/

theorem State.twnDone_twn (s : State) (code : Nat) : (s.twnDone code).twn = { s.twn with asked := [], force := false } := by
  simp [State.twnDone]

theorem State.twnDone_ctrs (s : State) (code : Nat) : (s.twnDone code).ctrs = s.ctrs := by simp [State.twnDone]

theorem State.twnDone_words (s : State) (code : Nat) :
    (s.twnDone code).words = ((s.wr Reg.TWN_CMD_STATUS.BUSY 0).wr Reg.TWN_CMD_STATUS.CODE code).words := by
  simp only [State.twnDone, State.msi_parts]
  rfl

theorem State.rd_code_twnDone (s : State) {code : Nat} (h : code < 8) : (s.twnDone code).rd Reg.TWN_CMD_STATUS.CODE = code :=
  (State.rd_congr (s.twnDone_words code) _).trans ((State.rd_wr _ _ _ (by decide)).trans (Nat.mod_eq_of_lt h))

theorem State.word_twnDone_of_ne (s : State) {a : Nat} (h : a ≠ Reg.TWN_CMD_STATUS.addr) (code : Nat) : (s.twnDone code).word a = s.word a :=
  (State.word_congr (s.twnDone_words code) a).trans ((State.word_wr_of_ne _ h _).trans (State.word_wr_of_ne s h _))

theorem State.ownTrees_twnDone (s : State) (code : Nat) : (s.twnDone code).ownTrees = s.ownTrees :=
  State.ownTrees_congr_word (s.word_twnDone_of_ne (by decide) code)

/-! TAKE and GIVE (R350, R356). -/

theorem State.hostTlp_twn (s : State) (rd : Bool) (ag : Agent) (a : Nat) : (s.hostTlp rd ag a).twn = s.twn := by simp

theorem State.hostTlp_flt (s : State) (rd : Bool) (ag : Agent) (a : Nat) : (s.hostTlp rd ag a).flt = s.flt := by simp

theorem State.hostTlp_ctrs (s : State) (rd : Bool) (ag : Agent) (a : Nat) : (s.hostTlp rd ag a).ctrs = s.ctrs := by simp

section
variable {s : State} {ag : Agent} (hr : s.reaches ag Reg.TWN_CMD.addr = true)
include hr

theorem State.twnCmd_busy (hbusy : s.bit Reg.TWN_CMD_STATUS.BUSY = true) (k : State → State) :
    s.twnCmd ag k = (s.hostTlp false ag Reg.TWN_CMD.addr).deny ag .refused Reg.TWN_CMD.addr noWin :=
  (State.gate_reaches hr _).trans (if_pos ((State.bit_congr (s.hostTlp_words ..) _).trans hbusy))

theorem State.twnCmd_taken (hbusy : s.bit Reg.TWN_CMD_STATUS.BUSY = false) (k : State → State) :
    s.twnCmd ag k = k (s.hostTlp false ag Reg.TWN_CMD.addr) :=
  (State.gate_reaches hr _).trans (if_neg (by rw [State.bit_congr (s.hostTlp_words ..), hbusy]; decide))

end

theorem State.takeCmd_held {s : State} (hen : s.bit Reg.TWN_CFG.EN = true) (hhold : s.bit Reg.TWN_CFG.HOLD = true) (force : Bool) :
    s.takeCmd force = (s.inc Cnt.TWN_HELD_TRIGGERS).twnDone 3 := by
  simp [State.takeCmd, hen, hhold]

/-- Trees are asked of the partner, and TWN_CMD waits for its answer (R356). -/
def State.asking (s : State) (l : List (Fin 32)) (force : Bool) : State :=
  (({ s with twn := { s.twn with asked := l, force := force } } : State).wr Reg.TWN_CMD_STATUS.BUSY 1).twinSend 11 0xFF 0xFF 0 (maskOf l)

theorem State.asking_effect (s : State) (l : List (Fin 32)) (force : Bool) : (s.asking l force).bit Reg.TWN_CMD_STATUS.BUSY = true ∧
    (s.asking l force).twn.asked = l ∧ (s.asking l force).ownTrees = s.ownTrees := by
  unfold State.asking
  generalize hu : ({ s with twn := { s.twn with asked := l, force := force } } : State) = u
  have hsend := (u.wr Reg.TWN_CMD_STATUS.BUSY 1).twinSend_aside 11 0xFF 0xFF 0 (maskOf l)
  have hown : u.ownTrees = s.ownTrees := by rw [← hu]; rfl
  refine ⟨?_, (Twn.asked_of_rest hsend.rest).trans (by rw [← hu]; rfl), ?_⟩
  · exact (State.bit_congr_word (hsend.word _ (by decide))).trans (State.bit_wr _ _ _ (by decide))
  · rw [State.ownTrees_congr_word (hsend.word _ (by decide)), State.ownTrees_congr_word (State.word_wr_of_ne u (by decide) 1), hown]

/-- A TAKE of trees that are READY here and owned by the partner asks for them (R356). -/
theorem State.takeCmd_asks {s : State} {p : Fin 32} (hen : s.bit Reg.TWN_CFG.EN = true) (hhold : s.bit Reg.TWN_CFG.HOLD = false)
    (hlanes : s.twinLanes ≠ 0) (halive : s.twn.alive = true) (hown : s.owned p.val = false) (hready : s.ready p = true)
    (htrees : treesOf (s.rd Reg.TWN_CMD_TREES.TREES) = [p]) (hpartner : s.partnerOwns = [p]) (force : Bool) :
    s.takeCmd force = s.asking [p] force := by
  simp [State.takeCmd, State.asking, State.stillTheirs, hen, hhold, hlanes, halive, hown, hready, htrees, hpartner, State.takeWarm_nil,
    State.takeCold_nil]

section
variable {s : State} {ag : Agent} {p : Fin 32} (hr : s.reaches ag Reg.TWN_CMD.addr = true)
  (hbusy : s.bit Reg.TWN_CMD_STATUS.BUSY = false) (hen : s.bit Reg.TWN_CFG.EN = true) (hhold : s.bit Reg.TWN_CFG.HOLD = false)
  (hlanes : s.twinLanes ≠ 0) (halive : s.twn.alive = true) (htrees : treesOf (s.rd Reg.TWN_CMD_TREES.TREES) = [p])
include hr hbusy hen hhold hlanes halive htrees

/-- TAKE as it is taken up. -/
theorem execTake_asks (hown : s.owned p.val = false) (hready : s.ready p = true) (hpartner : s.partnerOwns = [p]) (v : Word) :
    execTake ag v s = .next ((s.hostTlp false ag Reg.TWN_CMD.addr).asking [p] (fldOf v Reg.TWN_CMD.FORCE == 1)) := by
  have hw := s.hostTlp_words false ag Reg.TWN_CMD.addr
  have ht := s.hostTlp_twn false ag Reg.TWN_CMD.addr
  have hnow : (s.hostTlp false ag Reg.TWN_CMD.addr).now = s.now := by simp
  refine congrArg ok ((State.twnCmd_taken hr hbusy _).trans (State.takeCmd_asks ?_ ?_ ?_ ?_ ?_ ?_ ?_ ?_ _))
  · exact (State.bit_congr hw _).trans hen
  · exact (State.bit_congr hw _).trans hhold
  · rwa [State.twinLanes, State.rd_congr hw]
  · exact (congrArg Twn.alive ht).trans halive
  · exact (State.owned_congr hw _).trans hown
  · exact (State.ready_congr hw ht (s.hostTlp_flt ..) hnow p).trans hready
  · exact (congrArg treesOf (State.rd_congr hw _)).trans htrees
  · rwa [State.partnerOwns, ht]

/-- GIVE as it is taken up: the release of trees that the partner holds READY begins (R356). -/
theorem execGive_releases (hown : s.owned p.val = true) (hready : s.hbBit Hb.ready p = true) (v : Word) :
    execGive ag v s = .next (((s.hostTlp false ag Reg.TWN_CMD.addr).wr Reg.TWN_CMD_STATUS.BUSY 1).release 5 [p] true) := by
  have hw := s.hostTlp_words false ag Reg.TWN_CMD.addr
  have ht := s.hostTlp_twn false ag Reg.TWN_CMD.addr
  refine congrArg ok ((State.twnCmd_taken hr hbusy _).trans ?_)
  have hlanes' : (s.hostTlp false ag Reg.TWN_CMD.addr).twinLanes ≠ 0 := by rwa [State.twinLanes, State.rd_congr hw]
  have hready' : (s.hostTlp false ag Reg.TWN_CMD.addr).hbBit Hb.ready p = true := by rwa [State.hbBit, ht]
  simp [State.bit_congr hw, State.rd_congr hw, State.owned_congr hw, hen, hhold, hlanes', halive, hown, hready', htrees]

end

/-- A release of one owned tree that no release has (R356). -/
theorem State.release_one {s : State} {p : Fin 32} (hown : s.owned p.val = true) (hrels : s.twn.rels = []) (num : Nat) (cmd : Bool) :
    s.release num [p] cmd = { s with twn := { s.twn with dark := s.twn.dark ++ [p], rels := [⟨num, [p], false, cmd⟩] } } := by
  simp [State.release, hown, hrels]

/-! OFF_WAIT_EXPIRY, TAKEN and RELEASE_FAIL (R356). -/

theorem State.leaveTree_aside (s : State) (p : Fin 32) : (s.leaveTree p).Aside (s.setOwn (s.ownTrees.filter (fun q => q ≠ p))) := by
  unfold State.leaveTree
  extract_lets s1
  exact .foldl (fun t i => t.flushNode_aside (slotKey p i)) ..

/-- Trees that have left this device's hands are owned no more; twin protection stands, and so do its counters. -/
theorem State.leaveTrees (l : List (Fin 32)) (s : State) : (l.foldl (fun s p => s.leaveTree p) s).twn.rest = s.twn.rest ∧
    (∀ q, q ∈ (l.foldl (fun s p => s.leaveTree p) s).ownTrees ↔ q ∈ s.ownTrees ∧ q ∉ l) ∧
    ∀ a, a < 0x81000 → (l.foldl (fun s p => s.leaveTree p) s).ctr a = s.ctr a := by
  induction l generalizing s with
  | nil => simp
  | cons p l ih =>
    have h := s.leaveTree_aside p
    obtain ⟨hrest, hown, hctr⟩ := ih (s.leaveTree p)
    have hp : ∀ q, q ∈ (s.leaveTree p).ownTrees ↔ q ∈ s.ownTrees ∧ q ≠ p := fun q => by
      rw [State.ownTrees_congr_word (h.word _ (by decide)), State.mem_ownTrees_setOwn]
      simp
    simp only [List.foldl_cons]
    refine ⟨hrest.trans h.rest, fun q => (hown q).trans ?_, fun a ha => (hctr a ha).trans (h.ctr a ha)⟩
    rw [hp, List.mem_cons, not_or, and_assoc]

/-- Every release under way is sent. -/
def State.relsSent (s : State) : State := { s with twn := { s.twn with rels := s.twn.rels.map (fun r => { r with sent := true }) } }

/-- RELEASE leaves for the trees of a release, which the device then no longer owns (R356). -/
def State.releaseSent (s : State) (r : Rel) : State :=
  ((r.trees.foldl (fun s p => s.leaveTree p) s).inc Cnt.TWN_RELEASES).twinSend 9 0xFF 0xFF ((r.trees.map (fun p => s.sfc p)).foldl max 0)
    (maskOf r.trees)

theorem State.releaseSent_effect (s : State) (r : Rel) : (s.releaseSent r).twn.rels = s.twn.rels ∧
    (∀ p ∈ r.trees, p ∉ (s.releaseSent r).ownTrees) ∧ (s.releaseSent r).ctr Cnt.TWN_RELEASES = (s.ctr Cnt.TWN_RELEASES).add 1 := by
  obtain ⟨hrest, hown, hctr⟩ := State.leaveTrees r.trees s
  have hsend := State.twinSend_aside ((r.trees.foldl (fun s p => s.leaveTree p) s).inc Cnt.TWN_RELEASES) 9 0xFF 0xFF
    ((r.trees.map (fun p => s.sfc p)).foldl max 0) (maskOf r.trees)
  have hlow : Cnt.TWN_RELEASES < 0x81000 := by unfold Cnt.TWN_RELEASES; omega
  have hrels : ((r.trees.foldl (fun s p => s.leaveTree p) s).inc Cnt.TWN_RELEASES).twn.rels = s.twn.rels :=
    (congrArg Twn.rels (State.inc_twn ..)).trans (Twn.rels_of_rest hrest)
  refine ⟨(Twn.rels_of_rest hsend.rest).trans hrels, fun p hp hin => ?_, ?_⟩
  · rw [State.releaseSent, State.ownTrees_congr_word (hsend.word _ (by decide)), State.ownTrees_congr_word (State.inc_word ..)] at hin
    exact ((hown p).1 hin).2 hp
  · rw [State.releaseSent, hsend.ctr _ hlow, State.ctr_inc, if_pos rfl, hctr _ hlow]

theorem execOffWaitExpiry_one {r : Rel} {s : State} (hrels : s.twn.rels = [r]) (hsent : r.sent = false) :
    execOffWaitExpiry s = .next (s.relsSent.releaseSent r) := by
  have hall : execOffWaitExpiry s = .next ((s.twn.rels.filter (fun r => !r.sent)).foldl State.releaseSent s.relsSent) := rfl
  have hsel : s.twn.rels.filter (fun r => !r.sent) = [r] := by simp [hrels, hsent]
  rw [hall, hsel, List.foldl_cons, List.foldl_nil]

/-- A release is over (R356): it is under way no more, and its trees may be lit. -/
theorem State.endRelease_twn (s : State) (r : Rel) (code : Nat) : (s.endRelease r code).twn.rels = s.twn.rels.filter (fun x => x ≠ r) ∧
    (s.endRelease r code).twn.dark = s.twn.dark.filter (fun p => !r.trees.contains p) := by
  unfold State.endRelease
  extract_lets _ s1
  split
  · rw [State.twnDone_twn]
    exact ⟨rfl, rfl⟩
  · exact ⟨rfl, rfl⟩

theorem State.rd_code_endRelease (s : State) {r : Rel} (hcmd : r.cmd = true) {code : Nat} (h : code < 8) :
    (s.endRelease r code).rd Reg.TWN_CMD_STATUS.CODE = code := by
  unfold State.endRelease
  extract_lets _ s1
  rw [if_pos hcmd]
  exact s1.rd_code_twnDone h

theorem State.ownTrees_endRelease (s : State) (r : Rel) (code : Nat) : (s.endRelease r code).ownTrees = s.ownTrees := by
  unfold State.endRelease
  extract_lets _ s1
  split
  · exact s1.ownTrees_twnDone code
  · rfl

/-- The one release under way is over: none is under way, and its trees may be lit. -/
theorem State.endRelease_last {s : State} {r : Rel} (hrels : s.twn.rels = [r]) (code : Nat) : (s.endRelease r code).twn.rels = [] ∧
    ∀ p ∈ r.trees, p ∉ (s.endRelease r code).twn.dark := by
  obtain ⟨hr, hd⟩ := s.endRelease_twn r code
  rw [hr, hd, hrels]
  exact ⟨by simp, fun p hp hin => by simp [hp] at hin⟩

/-- TAKEN ends the release whose trees it names (R356). -/
theorem execTakenMsg_one {ts : BitVec 32} {r : Rel} {s : State} (hrels : s.twn.rels = [r]) (hsent : r.sent = true)
    (hall : ∀ p ∈ r.trees, p ∈ treesOf ts.toNat) : ∃ t : State, t.twn.rest = s.twn.rest ∧ execTakenMsg ts s = .next (t.endRelease r 0) := by
  have hsel : s.twn.rels.filter (fun r => r.sent && r.trees.all (fun p => (treesOf ts.toNat).contains p)) = [r] := by
    rw [hrels]
    simpa [hsent] using hall
  refine ⟨_, ?_, congrArg ok (by rw [hsel, List.foldl_cons, List.foldl_nil])⟩
  split
  · exact (State.Aside.foldl (fun t p => t.setTwinTree_aside p _) r.trees s).rest
  · rfl

/-- No TAKEN came: the trees of the release are taken back (R356). -/
theorem execReleaseFail_one {r : Rel} {s : State} (hrels : s.twn.rels = [r]) (hsent : r.sent = true) : execReleaseFail s =
    .next (((s.setOwn (s.ownTrees ++ r.trees)).endRelease r 5).raise .RELEASE_FAIL srcTwn (maskOf r.trees)) := by
  unfold execReleaseFail
  rw [hrels, List.filter_cons_of_pos hsent, List.filter_nil, List.foldl_cons, List.foldl_nil]

/-! RELEASE (R356, R357, R359). -/

theorem execReleaseMsg_ignored {q : BitVec 32} {s : State} (h : s.bit Reg.TWN_CFG.EN = false ∨ s.twn.answered = some q.toNat ∨ s.mayTakeOver = false)
    (ts : BitVec 32) (m : Fin 3) (f : Bool) : execReleaseMsg q ts m f s = .next s :=
  if_pos (by rcases h with h | h | h <;> simp [h])

/-- The trees of a RELEASE that are taken: the READY ones, and those forced. -/
def State.releasedWarm (s : State) (ts : BitVec 32) : List (Fin 32) := (s.stillTheirs (treesOf ts.toNat)).filter s.ready

def State.releasedCold (s : State) (ts : BitVec 32) (m : Fin 3) (f : Bool) : List (Fin 32) :=
  (s.stillTheirs (treesOf ts.toNat)).filter (fun p => !s.ready p && decide (m.val + 3 = 5) && (f || (s.twn.force && s.twn.asked.contains p)))

theorem State.mem_released {s : State} {ts : BitVec 32} {p : Fin 32} (hp : p ∈ treesOf ts.toNat) (hown : s.owned p.val = false)
    (hforce : s.twn.force = false) (m : Fin 3) (f : Bool) :
    p ∈ s.releasedWarm ts ++ s.releasedCold ts m f ↔ s.ready p = true ∨ (m = 2 ∧ f = true) := by
  have hm : m.val + 3 = 5 ↔ m = 2 := by omega
  cases hready : s.ready p <;> simp [State.releasedWarm, State.releasedCold, State.stillTheirs, hp, hown, hforce, hready, hm]

/-- A RELEASE taken up is answered, and adds the released trees to those owned. -/
theorem execReleaseMsg_taken {q : BitVec 32} {s : State} (hen : s.bit Reg.TWN_CFG.EN = true) (hnew : s.twn.answered ≠ some q.toNat)
    (hmay : s.mayTakeOver = true) (ts : BitVec 32) (m : Fin 3) (f : Bool) : Completes (execReleaseMsg q ts m f s) (fun t =>
      t.twn.answered = some q.toNat ∧ ∀ p, p ∈ t.ownTrees ↔ p ∈ s.ownTrees ∨ p ∈ s.releasedWarm ts ++ s.releasedCold ts m f) := by
  unfold execReleaseMsg
  rw [if_neg (by simp [hen, hnew, hmay])]
  extract_lets _ s0 l n warm cold s2 s3 left
  have h3 : s3.Takes s0 (warm ++ cold) := by
    dsimp only [s3]
    split
    · exact s0.takeBoth_takes n warm cold
    · exact (State.twinSend_aside ..).takes.then_none (s0.takeBoth_takes n warm cold)
  have hanswered : s3.twn.answered = some q.toNat := Twn.answered_of_rest h3.rest
  refine ⟨_, rfl, ?_⟩
  split
  · exact ⟨hanswered, h3.own⟩
  · split
    · rw [State.twnDone_twn, State.ownTrees_twnDone]
      exact ⟨hanswered, h3.own⟩
    · exact ⟨hanswered, h3.own⟩

/-- Settles O34: a takeover adds the trees taken to those owned and touches of twin protection nothing else, whatever becomes of the slots, queues
and keys of the trees; a command, a release and its answers are their equations. -/
theorem takeoverAndRelease : Obligations.TakeoverAndRelease := by
  unfold Obligations.TakeoverAndRelease
  refine ⟨fun s => execTakeoverWarm_barred, ?warm, ?busy, ?held, ?take, ?give, fun ts s => rfl, fun y p ts s => rfl, ?offWait,
    fun q ts m f s h => execReleaseMsg_ignored h ts m f, ?release, ?taken, ?fail⟩
  case warm =>
    intro n p s hlock hmay _ htrigs hown hready
    have htakes := s.trigsTaken.takeWarm_takes n [p]
    obtain ⟨hports, hcount⟩ := s.trigsTaken.takeWarm_one n p
    exact ⟨_, execTakeoverWarm_ready hlock hmay htrigs hown hready, (htakes.own p).2 (.inr List.mem_cons_self), Twn.trigs_of_rest htakes.rest,
      hcount, congrArg (fun t : Tab PonPort => (Tab.get (fun _ => PonPort.reset) t p.val).sfc) hports⟩
  case busy =>
    intro ag v s hr hbusy
    exact ⟨congrArg ok (State.twnCmd_busy hr hbusy _), congrArg ok ((State.twnCmd_busy hr hbusy _).trans (State.twnCmd_busy hr hbusy _).symm)⟩
  case held =>
    intro ag v s hr hbusy hen hhold
    have hw := s.hostTlp_words false ag Reg.TWN_CMD.addr
    refine ⟨_, congrArg ok ((State.twnCmd_taken hr hbusy _).trans (State.takeCmd_held ?_ ?_ _)), ?_, ?_, ?_⟩
    · exact (State.bit_congr hw _).trans hen
    · exact (State.bit_congr hw _).trans hhold
    · exact State.rd_code_twnDone _ (by decide)
    · rw [State.ctr_congr (State.twnDone_ctrs ..), State.ctr_inc, if_pos rfl, State.ctr_congr (State.hostTlp_ctrs ..)]
    · rw [State.ownTrees_twnDone, State.ownTrees_congr_word (State.inc_word ..), State.ownTrees_congr_word (State.word_congr hw _)]
  case take =>
    intro ag v p s hr hbusy hen hhold hlanes halive hown hready htrees hpartner
    obtain ⟨hwait, hasked, howned⟩ := (s.hostTlp false ag Reg.TWN_CMD.addr).asking_effect [p] (fldOf v Reg.TWN_CMD.FORCE == 1)
    exact ⟨_, execTake_asks hr hbusy hen hhold hlanes halive htrees hown hready hpartner v, hwait, hasked,
      howned.trans (State.ownTrees_congr_word (State.word_congr (s.hostTlp_words ..) _))⟩
  case give =>
    intro ag v p s hr hbusy hen hhold hlanes halive hown hready htrees hrels
    have hone := State.release_one (s := (s.hostTlp false ag Reg.TWN_CMD.addr).wr Reg.TWN_CMD_STATUS.BUSY 1) (p := p) ?own ?rels 5 true
    · exact ⟨_, (execGive_releases hr hbusy hen hhold hlanes halive htrees hown hready v).trans (congrArg ok hone),
        State.bit_wr _ _ _ (by decide), rfl, List.mem_append_right _ List.mem_cons_self⟩
    case own =>
      have hu := State.owned_congr_word (State.word_wr_of_ne (s.hostTlp false ag Reg.TWN_CMD.addr) (f := Reg.TWN_CMD_STATUS.BUSY) (by decide) 1)
        (State.word_wr_of_ne _ (by decide) 1) p.val
      exact hu.trans ((State.owned_congr (s.hostTlp_words ..) _).trans hown)
    case rels => exact (congrArg Twn.rels (s.hostTlp_twn ..)).trans hrels
  case offWait =>
    intro r s hrels hsent
    obtain ⟨hsent', hown, hcount⟩ := s.relsSent.releaseSent_effect r
    exact ⟨_, execOffWaitExpiry_one hrels hsent, hsent'.trans (congrArg (List.map _) hrels), hown, hcount⟩
  case release =>
    intro q ts m f s hen hnew hmay
    obtain ⟨t, hexec, hanswered, howned⟩ := execReleaseMsg_taken hen hnew hmay ts m f
    refine ⟨t, hexec, hanswered, fun p hp hown => ?_⟩
    cases hforce : s.twn.force with
    | true => exact .inr rfl
    | false =>
      have hnot : p ∉ s.ownTrees := by rw [State.mem_ownTrees_iff hen, hown]; decide
      rw [howned, State.mem_released hp hown hforce]
      exact .inl ⟨.inr, fun h => h.resolve_left hnot⟩
  case taken =>
    intro ts r s hrels hsent hall
    obtain ⟨t, hrest, hexec⟩ := execTakenMsg_one hrels hsent hall
    obtain ⟨hnone, hlit⟩ := State.endRelease_last ((Twn.rels_of_rest hrest).trans hrels) 0
    exact ⟨_, hexec, hnone, hlit, fun hcmd => t.rd_code_endRelease hcmd (by decide)⟩
  case fail =>
    intro r s hrels hsent
    obtain ⟨hnone, hlit⟩ := State.endRelease_last (s := s.setOwn (s.ownTrees ++ r.trees)) hrels 5
    refine ⟨_, execReleaseFail_one hrels hsent, hnone, fun p hp => ⟨?_, hlit p hp⟩, fun hcmd => State.rd_code_endRelease _ hcmd (by decide)⟩
    rw [State.ownTrees_congr_word (State.raise_word ..), State.ownTrees_endRelease, State.mem_ownTrees_setOwn]
    exact List.mem_append_right _ hp

end Sys2Proof.Machine

/-! SUPPORT. Mirror messages and heartbeats (09_encryption_and_keys.md R322; 10_twin_protection.md R341 to R344, R349 to R352, R355): what the
check of a sequence number leaves alone, and what the loss and the return of the partner do to its latest word. -/

namespace Sys2Proof.Machine

set_option autoImplicit false

/-! The check of a message's sequence number (R341). -/

theorem State.twinSend_ctrs (s : State) (k port side sfc arg : Nat) : (s.twinSend k port side sfc arg).ctrs = s.ctrs := by simp

section
variable (s : State) (k port side q sfc : Nat)

/-- The sequence check counts, raises and sends: it stores nothing of the tree. -/
theorem State.seqRx_kept : (s.seqRx k port side q sfc).words = s.words ∧ (s.seqRx k port side q sfc).act = s.act ∧
    (s.seqRx k port side q sfc).whf = s.whf ∧ (s.seqRx k port side q sfc).keys = s.keys := by
  have h := State.seqRx_within (K := (· ∈ [.ctrs, .flt, .twn, .tly])) (within_refl s) k port side q sfc (by simp) (by simp) (by simp) (by simp)
  exact ⟨h.words.resolve_left (by simp), h.act.resolve_left (by simp), h.whf.resolve_left (by simp), h.keys.resolve_left (by simp)⟩

theorem State.twinSend_kept (arg : Nat) : (s.twinSend k port side sfc arg).twn.trees = s.twn.trees ∧
    (s.twinSend k port side sfc arg).twn.maps = s.twn.maps := by
  unfold State.twinSend
  split <;> exact ⟨rfl, rfl⟩

/-- The sequence number of a message received is noted. -/
def State.seqNoted : State :=
  { s with twn := { s.twn with rxSeq := Tab.set (fun _ => 0) s.twn.rxSeq (k * 256 + port) (q % 2 ^ 32 + 1) } }

/-- A gap is counted and raised, holds the tree from READY, and a resend is asked for. -/
def State.gapSeen (p : Fin 32) (x : TwinTree) : State :=
  (((s.inc Cnt.TWN_MIRROR_GAPS).raise .MIRROR_GAP srcTwn (portAddr p (side % 2) (k * 2 ^ 26 + sfc % 2 ^ 24))).setTwinTree p x).twinSend 11 p.val side sfc
    (256 + k)

theorem State.seqRx_cases : s.seqRx k port side q sfc = s.seqNoted k port q ∨
    ∃ p, s.seqRx k port side q sfc = (s.seqNoted k port q).gapSeen k side sfc p { s.twinTree p with gap := 16 } := by
  unfold State.seqRx
  cases hport : portOf? port with
  | none => exact .inl rfl
  | some p =>
    dsimp only
    split
    · exact .inl rfl
    · rename_i h
      obtain rfl : p.val = port := by
        unfold portOf? at hport
        split at hport <;> cases hport
        rfl
      exact .inr ⟨p, rfl⟩

theorem State.gapSeen_effect (p : Fin 32) (x : TwinTree) : (s.gapSeen k side sfc p x).twn.maps = s.twn.maps ∧
    (s.gapSeen k side sfc p x).twinTree p = x ∧
    ∀ a, (s.gapSeen k side sfc p x).ctr a = if a = Cnt.TWN_MIRROR_GAPS then (s.ctr Cnt.TWN_MIRROR_GAPS).add 1 else s.ctr a := by
  unfold State.gapSeen
  generalize hu : (s.inc Cnt.TWN_MIRROR_GAPS).raise .MIRROR_GAP srcTwn (portAddr p (side % 2) (k * 2 ^ 26 + sfc % 2 ^ 24)) = u
  obtain ⟨htrees, hmaps⟩ := (u.setTwinTree p x).twinSend_kept 11 p.val side sfc (256 + k)
  have humaps : u.twn.maps = s.twn.maps := by rw [← hu, State.raise_twn, State.inc_twn]
  refine ⟨hmaps.trans humaps, ?_, fun a => ?_⟩
  · rw [State.twinTree, htrees]
    exact Tab.get_set_same ..
  · rw [State.ctr_congr (State.twinSend_ctrs ..)]
    change u.ctr a = _
    rw [← hu, State.ctr_congr (State.raise_ctrs ..), State.ctr_inc]

theorem State.seqRx_maps : (s.seqRx k port side q sfc).twn.maps = s.twn.maps := by
  rcases s.seqRx_cases k port side q sfc with h | ⟨p, h⟩
  · rw [h]; rfl
  · rw [h, (State.gapSeen_effect ..).1]; rfl

theorem State.ctr_seqRx_of_ne {a : Nat} (ha : a ≠ Cnt.TWN_MIRROR_GAPS) : (s.seqRx k port side q sfc).ctr a = s.ctr a := by
  rcases s.seqRx_cases k port side q sfc with h | ⟨p, h⟩
  · rw [h]; rfl
  · rw [h, (State.gapSeen_effect ..).2.2 a, if_neg ha]; rfl

end

/-- A gap in the sequence of a tree's messages holds it from READY for 16 frames, and counts (R341). -/
theorem State.seqRx_gap {s : State} {k q : Nat} {p : Fin 32} (hfirst : Tab.get (fun _ => 0) s.twn.rxSeq (k * 256 + p.val) ≠ 0)
    (hgap : q % 2 ^ 32 ≠ Tab.get (fun _ => 0) s.twn.rxSeq (k * 256 + p.val) % 2 ^ 32) (side sfc : Nat) :
    ((s.seqRx k p.val side q sfc).twinTree p).gap = 16 ∧
    (s.seqRx k p.val side q sfc).ctr Cnt.TWN_MIRROR_GAPS = (s.ctr Cnt.TWN_MIRROR_GAPS).add 1 := by
  have hport : portOf? p.val = some p := dif_pos p.isLt
  have heq : s.seqRx k p.val side q sfc = (s.seqNoted k p.val q).gapSeen k side sfc p { s.twinTree p with gap := 16 } := by
    unfold State.seqRx
    rw [hport]
    exact if_neg (not_or.2 ⟨hfirst, hgap⟩)
  obtain ⟨-, htree, hctr⟩ := (s.seqNoted k p.val q).gapSeen_effect k side sfc p { s.twinTree p with gap := 16 }
  rw [heq, htree, hctr, if_pos rfl]
  exact ⟨rfl, rfl⟩

/-! Mirror messages of an owned and of a shadow tree. -/

section
variable {s : State} {p : Fin 32} (k side q sfc : Nat) (f : State → State)

theorem State.mirrored_owned (h : s.owned p.val = true) : s.mirrored k p side q sfc f = s.seqRx k p.val side q sfc :=
  if_pos (by simp [h])

theorem State.mirrored_shadow (h : s.owned p.val = false) :
    s.mirrored k p side q sfc f = (f (s.seqRx k p.val side q sfc)).inc Cnt.TWN_MIRROR_MSGS :=
  if_neg (by simp [h, State.en_of_not_owned h])

/-- A message of a shadow tree that is stored is counted. -/
theorem State.ctr_mirrored_shadow (h : s.owned p.val = false) (hf : ∀ t : State, (f t).ctrs = t.ctrs) :
    (s.mirrored k p side q sfc f).ctr Cnt.TWN_MIRROR_MSGS = (s.ctr Cnt.TWN_MIRROR_MSGS).add 1 := by
  rw [State.mirrored_shadow k side q sfc f h, State.ctr_inc, if_pos rfl, State.ctr_congr (hf _),
    State.ctr_seqRx_of_ne s k p.val side q sfc (by decide)]

end

/-! What a mirror message of a shadow tree stores (R114, R322, R349, R355, R360). -/

theorem State.disc_congr {t s : State} (h : t.act = s.act) (p : Fin 32) (sd : Nat) : t.disc p sd = s.disc p sd := by
  simp only [State.disc, h]

theorem State.root_congr {t s : State} (h : t.keys = s.keys) (k : Nat) : t.root k = s.root k := by
  simp only [State.root, h]

theorem State.alloc_congr {t s : State} (h : t.whf = s.whf) (p : Fin 32) (i : Nat) : t.alloc p i = s.alloc p i := by
  simp only [State.alloc, h]

theorem State.setSlot_trees_disc (s : State) (p : Fin 32) (i : Nat) (x : Slot) : (s.setSlot p i x).act.trees = s.act.trees ∧
    (s.setSlot p i x).act.disc = s.act.disc := by
  unfold State.setSlot
  extract_lets a s1 s2
  split
  · exact ⟨rfl, rfl⟩
  · have hact : s2.act = s1.act := by
      dsimp only [s2]
      split
      · rfl
      · split <;> rfl
    rw [State.mirror_act, hact]
    exact ⟨rfl, rfl⟩

/-- The ramp state, admissions and discovery LFSRs of a tree as a message carries them. -/
def State.RampLoaded (t : State) (p : Fin 32) (ramp : Bool) (admitted a b : Nat) : Prop :=
  (t.tree p).ramp = ramp ∧ (t.tree p).admitted = admitted ∧ (t.disc p 0).lfsr = a ∧ (t.disc p 1).lfsr = b

theorem State.RampLoaded.congr {t s : State} {p : Fin 32} {ramp : Bool} {n a b : Nat} (hs : s.RampLoaded p ramp n a b)
    (htree : t.act.trees = s.act.trees) (hdisc : t.act.disc = s.act.disc) : t.RampLoaded p ramp n a b := by
  unfold State.RampLoaded State.tree State.disc at hs ⊢
  rwa [htree, hdisc]

theorem State.disc_setDisc_other (s : State) (p : Fin 32) (x : Disc) : (s.setDisc p 1 x).disc p 0 = s.disc p 0 :=
  Tab.get_set_ne _ _ _ _ _ (by omega)

/-- Both LFSRs loaded, after the tree's ramp state and admissions. -/
theorem State.rampLoaded_setDisc {s : State} {p : Fin 32} {ramp : Bool} {n : Nat} (hramp : (s.tree p).ramp = ramp) (hn : (s.tree p).admitted = n)
    (x y : Disc) : ((s.setDisc p 0 x).setDisc p 1 y).RampLoaded p ramp n x.lfsr y.lfsr :=
  ⟨hramp, hn, by rw [State.disc_setDisc_other, State.disc_setDisc_same], by rw [State.disc_setDisc_same]⟩

theorem State.rampLoaded_setTreeSt (s : State) (p : Fin 32) (x : Tree) :
    (s.setTreeSt p x).RampLoaded p x.ramp x.admitted (s.disc p 0).lfsr (s.disc p 1).lfsr :=
  ⟨congrArg Tree.ramp (State.tree_setTreeSt_same ..), congrArg Tree.admitted (State.tree_setTreeSt_same ..), rfl, rfl⟩

theorem State.setRoot_act (s : State) (k : Nat) (r : Root) : (s.setRoot k r).act = s.act :=
  (State.setRoot_within (K := (· ∈ [.keys, .twn])) (within_refl s) k r (by simp) (by simp)).act.resolve_left (by simp)

/-- A copy of a tree ends with its LFSRs, ramp state and roots, and with the note that the tree is in step (R360). -/
theorem State.loadSync_loads (s : State) (p : Fin 32) (c : SyncCopy) : ∃ (u : State) (x : TwinTree),
    s.loadSync p c = u.setTwinTree p { x with synced := true, gap := 0 } ∧ u.RampLoaded p c.ramp c.admitted c.lfsr50 c.lfsr10 := by
  unfold State.loadSync
  extract_lets s1 s2 s3 s4 d50 d10 s5 t5 s6 s7
  have h50 : (s5.disc p 0).lfsr = c.lfsr50 := congrArg Disc.lfsr ((State.disc_setDisc_other ..).trans (State.disc_setDisc_same ..))
  have h10 : (s5.disc p 1).lfsr = c.lfsr10 := congrArg Disc.lfsr (State.disc_setDisc_same ..)
  have h6 := s5.rampLoaded_setTreeSt p { t5 with ramp := c.ramp, admitted := c.admitted }
  rw [h50, h10] at h6
  have hroots : ∀ (l : List (Nat × Root)) (t : State), (l.foldl (fun s x => s.setRoot (p.val * 512 + x.1) x.2) t).act = t.act := by
    intro l t
    induction l generalizing t with
    | nil => rfl
    | cons x l ih => rw [List.foldl_cons, ih, State.setRoot_act]
  have h7 : s7.act = s6.act := by
    dsimp only [s7]
    split
    · exact hroots ..
    · rfl
  exact ⟨s7, _, rfl, h6.congr (congrArg Act.trees h7) (congrArg Act.disc h7)⟩

section
variable {s : State} {p : Fin 32} (hown : s.owned p.val = false) (q : BitVec 32)
include hown

/-- MAP (R349): the map takes the place of an earlier one of its frame. -/
theorem execMapMsg_shadow (sd : Side) (m : BwMap) : Completes (execMapMsg p sd q m s) (fun t =>
    Tab.get (fun _ => []) t.twn.maps (psd p sd) = (Tab.get (fun _ => []) s.twn.maps (psd p sd)).filter (fun x => x.sfc ≠ m.sfc) ++ [m] ∧
    t.ctr Cnt.TWN_MIRROR_MSGS = (s.ctr Cnt.TWN_MIRROR_MSGS).add 1) := by
  refine ⟨_, rfl, ?_, State.ctr_mirrored_shadow 2 sd.n q.toNat m.sfc _ hown fun t => by simp only [State.inflight_parts]⟩
  rw [State.mirrored_shadow 2 sd.n q.toNat m.sfc _ hown, State.inc_twn]
  simp only [State.inflight_parts, State.seqRx_maps]
  exact Tab.get_set_same ..

/-- DBA_STATE (R349). -/
theorem execDbaState_shadow (f : BitVec 51) (i : Fin 1024) (a : AllocRt) :
    Completes (execDbaState p q f [(i, a)] s) (fun t => (t.alloc p i.val).pCred = a.pCred ∧ (t.alloc p i.val).aCred = a.aCred ∧
      (t.alloc p i.val).report = a.report ∧ (t.alloc p i.val).poll = a.poll ∧ t.ctr Cnt.TWN_MIRROR_MSGS = (s.ctr Cnt.TWN_MIRROR_MSGS).add 1) := by
  have hctr := State.ctr_mirrored_shadow 3 0xFF q.toNat f.toNat (fun t => t.setAlloc p i.val { t.alloc p i.val with
    pCred := a.pCred, aCred := a.aCred, report := a.report, repFrame := a.repFrame, poll := a.poll }) hown fun t => rfl
  refine ⟨_, congrArg ok (State.mirrored_shadow 3 0xFF q.toNat f.toNat _ hown), ?_⟩
  rw [State.mirrored_shadow 3 0xFF q.toNat f.toNat _ hown] at hctr
  simp only [List.foldl_cons, List.foldl_nil, State.alloc_congr (State.inc_whf ..), State.alloc_setAlloc_same, hctr, and_self]

/-- PLOAM_Q (R349, R355). -/
theorem execPloamQ_shadow (sd : Side) (f : BitVec 51) (e l : List Ploam) (w : List AckWait) :
    Completes (execPloamQ p sd q f e l w s) (fun t => (t.plq p sd.n).queue = l.foldl (fun x m => x.erase m) ((s.plq p sd.n).queue ++ e) ∧
      (t.plq p sd.n).waits = w ∧ t.words = s.words) := by
  obtain ⟨hwords, hact, -, -⟩ := s.seqRx_kept 4 p.val sd.n q.toNat f.toNat
  refine ⟨_, congrArg ok (State.mirrored_shadow 4 sd.n q.toNat f.toNat _ hown), ?_⟩
  generalize s.seqRx 4 p.val sd.n q.toNat f.toNat = u at hwords hact ⊢
  have hplq : u.plq p sd.n = s.plq p sd.n := State.plq_of_ploam (congrArg Act.ploam hact) p sd.n
  generalize hs1 : u.setPlq p sd.n { u.plq p sd.n with queue := l.foldl (fun x m => x.erase m) ((u.plq p sd.n).queue ++ e), waits := w } = t1
  have h1 : t1.plq p sd.n = { s.plq p sd.n with queue := l.foldl (fun x m => x.erase m) ((s.plq p sd.n).queue ++ e), waits := w } := by
    rw [← hs1, State.plq_setPlq_same, hplq]
  have hw1 : t1.words = s.words := by rw [← hs1, (State.setPlq_parts ..).2.1, hwords]
  dsimp only
  rw [hs1, State.plq_of_ploam (congrArg Act.ploam (State.inc_act ..)), State.inc_words]
  split
  · rw [h1]
    exact ⟨rfl, rfl, hw1⟩
  · change (t1.plq p sd.n).queue = _ ∧ (t1.plq p sd.n).waits = _ ∧ t1.words = _
    rw [h1]
    exact ⟨rfl, rfl, hw1⟩

/-- KEY over a sealed link (R322). -/
theorem execKeyMsg_sealed (hseal : s.bit Reg.TWN_STATUS.SEALED = true) (k : Fin 512) (r : Root) :
    Completes (execKeyMsg p q k r s) (fun t => t.root (p.val * 512 + k.val) = r) := by
  obtain ⟨hwords, -, -, -⟩ := s.seqRx_kept 7 p.val 0xFF q.toNat 0
  refine ⟨_, congrArg ok (State.mirrored_shadow 7 0xFF q.toNat 0 _ hown), ?_⟩
  dsimp only
  rw [State.root_congr (State.inc_keys ..), if_neg (by rw [State.bit_congr hwords, hseal]; decide)]
  split
  · exact State.root_setUsage_same ..
  · exact State.root_setRoot_same ..

/-- SLOT of a slot that neither becomes nor ceases to be ACTIVE (Table 10-3). -/
theorem execSlotMsg_shadow {i : Fin 256} {x : Slot} (hsame : x.state = .active ↔ (s.slot p i.val).state = .active) (r : Bool) (a b : BitVec 16)
    (n : Nat) : Completes (execSlotMsg p q i x r a b n s) (fun t => t.slot p i.val = x ∧ t.RampLoaded p r n a.toNat b.toNat) := by
  obtain ⟨-, hact, -, -⟩ := s.seqRx_kept 5 p.val x.side q.toNat 0
  refine ⟨_, congrArg ok (State.mirrored_shadow 5 x.side q.toNat 0 _ hown), ?_⟩
  generalize s.seqRx 5 p.val x.side q.toNat 0 = u at hact ⊢
  have hslot : u.slot p i.val = s.slot p i.val := State.slot_congr hact p i.val
  dsimp only
  rw [hslot, if_neg (fun h => h.2 (hsame.1 h.1)), if_neg (fun h => h.1 (hsame.2 h.2))]
  have h0 := State.rampLoaded_setDisc (s := u.setTreeSt p { u.tree p with ramp := r, admitted := n }) (p := p)
    (congrArg Tree.ramp (State.tree_setTreeSt_same ..)) (congrArg Tree.admitted (State.tree_setTreeSt_same ..))
    { u.disc p 0 with lfsr := a.toNat } { u.disc p 1 with lfsr := b.toNat }
  generalize ((u.setTreeSt p { u.tree p with ramp := r, admitted := n }).setDisc p 0 { u.disc p 0 with lfsr := a.toNat }).setDisc p 1
    { u.disc p 1 with lfsr := b.toNat } = u0 at h0 ⊢
  obtain ⟨htrees, hdisc⟩ := u0.setSlot_trees_disc p i.val x
  exact ⟨(State.slot_congr (State.inc_act ..) ..).trans (State.slot_setSlot_same ..),
    (h0.congr htrees hdisc).congr (congrArg Act.trees (State.inc_act ..)) (congrArg Act.disc (State.inc_act ..))⟩

/-- SYNC (R360): the tree is in step with its partner. -/
theorem execSyncMsg_shadow (c : SyncCopy) : Completes (execSyncMsg p q c s) (fun t =>
    (t.twinTree p).synced = true ∧ (t.twinTree p).gap = 0 ∧ t.RampLoaded p c.ramp c.admitted c.lfsr50 c.lfsr10) := by
  refine ⟨_, congrArg ok (State.mirrored_shadow 12 0xFF q.toNat c.sfc _ hown), ?_⟩
  obtain ⟨u, x, hsync, hload⟩ := (s.seqRx 12 p.val 0xFF q.toNat c.sfc).loadSync_loads p c
  have htree : (((s.seqRx 12 p.val 0xFF q.toNat c.sfc).loadSync p c).inc Cnt.TWN_MIRROR_MSGS).twinTree p = { x with synced := true, gap := 0 } := by
    rw [State.twinTree, State.inc_twn, hsync]
    exact Tab.get_set_same ..
  rw [htree]
  refine ⟨rfl, rfl, State.RampLoaded.congr ?_ (congrArg Act.trees (State.inc_act ..)) (congrArg Act.disc (State.inc_act ..))⟩
  rw [hsync]
  exact hload

end

theorem execKeyMsg_unsealed {s : State} (hseal : s.bit Reg.TWN_STATUS.SEALED = false) (p : Fin 32) (q : BitVec 32) (k : Fin 512) (r : Root) :
    Completes (execKeyMsg p q k r s) (fun t => t.keys = s.keys) := by
  obtain ⟨hwords, -, -, hkeys⟩ := s.seqRx_kept 7 p.val 0xFF q.toNat 0
  refine ⟨_, rfl, ?_⟩
  cases hown : s.owned p.val with
  | true => rw [State.mirrored_owned 7 0xFF q.toNat 0 _ hown, hkeys]
  | false =>
    rw [State.mirrored_shadow 7 0xFF q.toNat 0 _ hown, State.inc_keys, if_pos (by rw [State.bit_congr hwords, hseal]; decide), hkeys]

/-! The partner's latest word: its heartbeat, its pin and its fault, and what stands of them after every decision taken on them. -/

/-- What is known of the partner stands from one state to another: a heartbeat, its times, the pin and its stuck time, a fault, and the counters
of heartbeats and mirror messages. -/
structure State.Watches (t s : State) : Prop where
  hb : t.twn.hb = s.twn.hb
  alive : t.twn.alive = s.twn.alive
  tau : t.twn.tau = s.twn.tau
  stuck : s.twn.stuck20 = false → t.twn.stuck20 = false
  dark : t.darkIn = s.darkIn
  fatal : t.bit Reg.TWN_STATUS.PARTNER_FATAL = s.bit Reg.TWN_STATUS.PARTNER_FATAL
  ctr : ∀ a, a < Cnt.TWN_TAKEOVERS → t.ctr a = s.ctr a

theorem State.Watches.refl (s : State) : s.Watches s := ⟨rfl, rfl, rfl, id, rfl, rfl, fun _ _ => rfl⟩

theorem State.Watches.trans {r t s : State} (h : r.Watches t) (g : t.Watches s) : r.Watches s :=
  ⟨h.hb.trans g.hb, h.alive.trans g.alive, h.tau.trans g.tau, h.stuck ∘ g.stuck, h.dark.trans g.dark, h.fatal.trans g.fatal,
    fun a ha => (h.ctr a ha).trans (g.ctr a ha)⟩

/-- Twin protection changed in what is no word of the partner's. -/
theorem State.Watches.of_word {t s : State} (hhb : t.twn.hb = s.twn.hb) (halive : t.twn.alive = s.twn.alive) (htau : t.twn.tau = s.twn.tau)
    (hstuck : s.twn.stuck20 = false → t.twn.stuck20 = false) (hword : t.word Reg.TWN_STATUS.addr = s.word Reg.TWN_STATUS.addr)
    (hctr : ∀ a, a < Cnt.TWN_TAKEOVERS → t.ctr a = s.ctr a) : t.Watches s :=
  ⟨hhb, halive, htau, hstuck, State.rd_congr_word hword, State.bit_congr_word hword, hctr⟩

theorem State.Takes.watches {t s : State} {l : List (Fin 32)} (h : t.Takes s l) : t.Watches s :=
  .of_word (Twn.hb_of_rest h.rest) (Twn.alive_of_rest h.rest) (Twn.tau_of_rest h.rest) (fun g => (Twn.stuck20_of_rest h.rest).trans g)
    (h.word _ (by decide) (by decide)) h.ctr

theorem State.Aside.watches {t s : State} (h : t.Aside s) : t.Watches s := h.takes.watches

theorem State.setTwn_watches {s : State} {w : Twn} (hhb : w.hb = s.twn.hb) (halive : w.alive = s.twn.alive) (htau : w.tau = s.twn.tau)
    (hstuck : s.twn.stuck20 = false → w.stuck20 = false) : ({ s with twn := w } : State).Watches s :=
  .of_word hhb halive htau hstuck rfl fun _ _ => rfl

theorem State.Watches.setTwn {t s : State} (h : t.Watches s) {w : Twn} (hhb : w.hb = t.twn.hb) (halive : w.alive = t.twn.alive)
    (htau : w.tau = t.twn.tau) (hstuck : t.twn.stuck20 = false → w.stuck20 = false) : ({ t with twn := w } : State).Watches s :=
  (State.setTwn_watches hhb halive htau hstuck).trans h

theorem State.wr_watches (s : State) {f : Fld} (hf : Reg.TWN_STATUS.addr ≠ f.addr) (v : Nat) : (s.wr f v).Watches s :=
  .of_word rfl rfl rfl id (State.word_wr_of_ne s hf v) fun _ _ => rfl

theorem State.inc_watches (s : State) {c : Nat} (hc : Cnt.TWN_TAKEOVERS ≤ c) : (s.inc c).Watches s :=
  .of_word (congrArg Twn.hb (State.inc_twn ..)) (congrArg Twn.alive (State.inc_twn ..)) (congrArg Twn.tau (State.inc_twn ..))
    (fun h => (congrArg Twn.stuck20 (State.inc_twn ..)).trans h) (State.inc_word ..)
    fun a ha => (State.ctr_inc s c a).trans (if_neg (by omega))

/-- The role taken is shown beside the partner's pin and fault. -/
theorem State.wr_primary_watches (s : State) (v : Nat) : (s.wr Reg.TWN_STATUS.PRIMARY v).Watches s :=
  ⟨rfl, rfl, rfl, id, State.rd_wr_bits s _ _ v (by decide) (by decide) (by decide),
    congrArg (· != 0) (State.rd_wr_bits s Reg.TWN_STATUS.PRIMARY Reg.TWN_STATUS.PARTNER_FATAL v (by decide) (by decide) (by decide)), fun _ _ => rfl⟩

theorem State.split_watches (s : State) (on : Bool) : (s.split on).Watches s := by
  cases on <;> exact .of_word rfl rfl rfl id rfl fun _ _ => rfl

theorem State.setOwn_watches (s : State) (l : List (Fin 32)) : (s.setOwn l).Watches s := s.wr_watches (by decide) _

theorem State.takeOwnership_watches (s : State) : s.takeOwnership.Watches s := by
  unfold State.takeOwnership
  extract_lets s1 twn put theirs
  have h1 : s1.Watches s := State.wr_primary_watches ..
  have hput : ∀ l, (put l).Watches s := fun l =>
    (State.split_watches ..).trans ((State.setOwn_watches ..).trans (h1.setTwn rfl rfl rfl id))
  split
  · exact .refl s
  · split
    · split <;> exact hput _
    · split
      · exact hput _
      · exact (State.split_watches ..).trans ((State.setOwn_watches ..).trans (h1.setTwn rfl rfl rfl id))

theorem State.redecide_watches (s : State) : s.redecide.Watches s := by
  unfold State.redecide
  split
  · exact s.takeOwnership_watches
  · exact .refl s

theorem State.twnDone_watches (s : State) (code : Nat) : (s.twnDone code).Watches s := by
  have h := s.twnDone_twn code
  exact .of_word (congrArg Twn.hb h :) (congrArg Twn.alive h :) (congrArg Twn.tau h :) (fun g => (congrArg Twn.stuck20 h :).trans g)
    (s.word_twnDone_of_ne (by decide) code) fun a _ => State.ctr_congr (s.twnDone_ctrs code) a

theorem State.unreachable_watches (s : State) : s.unreachable.Watches s := by
  unfold State.unreachable
  split
  · exact .refl s
  · exact s.twnDone_watches 2

/-- Cold takeovers beside an interlock leave twin protection with fewer triggers and nothing else of it (R351). -/
theorem State.coldPart_cases (s : State) : s.coldPart = s ∨
    ∃ (trigs : List Trig) (l : List (Fin 32)), s.coldPart.Takes { s with twn := { s.twn with trigs := trigs } } l := by
  unfold State.coldPart
  split
  · exact .inl rfl
  · extract_lets ts twn s1
    refine .inr ⟨s1.twn.trigs, ?_⟩
    change ∃ l, State.Takes _ s1 l
    generalize s1 = u
    induction ts generalizing u with
    | nil => exact ⟨[], .refl u⟩
    | cons x ts ih =>
      obtain ⟨l, hl⟩ := ih (u.takeCold x.num ((u.stillTheirs x.trees).filter (fun p => !s.ready p)))
      exact ⟨_, hl.trans (State.takeCold_takes ..)⟩

theorem State.coldPart_watches (s : State) : s.coldPart.Watches s := by
  rcases s.coldPart_cases with h | ⟨trigs, l, h⟩
  · rw [h]
    exact .refl s
  · exact h.watches.trans (State.setTwn_watches rfl rfl rfl id)

theorem State.coldPart_stuck20 (s : State) : s.coldPart.twn.stuck20 = s.twn.stuck20 := by
  rcases s.coldPart_cases with h | ⟨trigs, l, h⟩
  · rw [h]
  · exact (Twn.stuck20_of_rest h.rest :)

theorem State.trigger_watches (s : State) (num : Nat) : (s.trigger num).Watches s := by
  unfold State.trigger
  extract_lets l twn s1
  split
  · exact .refl s
  · have h1 : s1.Watches s := State.setTwn_watches rfl rfl rfl fun _ => rfl
    split
    · exact (State.split_watches ..).trans h1
    · exact s1.coldPart_watches.trans h1

theorem State.takeCmd_watches (s : State) (force : Bool) : (s.takeCmd force).Watches s := by
  unfold State.takeCmd
  extract_lets l theirs free s1 twn s2
  have h1 : s1.Watches s := by
    dsimp only [s1]
    split
    · exact (State.takeBoth_takes ..).watches
    · exact .refl s
  have h2 : s2.Watches s := h1.setTwn rfl rfl rfl id
  split
  · exact s.twnDone_watches 2
  · split
    · exact (State.twnDone_watches ..).trans (s.inc_watches (by decide))
    · split
      · exact s.twnDone_watches 2
      · split
        · exact s.twnDone_watches 1
        · split
          · exact (State.twnDone_watches ..).trans h1
          · exact (State.twinSend_aside ..).watches.trans ((State.wr_watches _ (by decide) _).trans h2)

theorem State.coverBack_watches (s : State) : s.coverBack.Watches s := by
  unfold State.coverBack
  extract_lets l twn s1
  split
  · exact .refl s
  · exact (State.takeCmd_watches ..).trans ((State.wr_watches _ (by decide) _).trans (State.setTwn_watches rfl rfl rfl id))

/-! HEARTBEAT (R343, R344). -/

/-- The partner's latest word is taken down. -/
def State.heard (s : State) (h : Hb) : State :=
  let s0 := s.inc Cnt.TWN_HB_RX
  ({ s0 with twn := { s0.twn with hb := some h, alive := true } } : State).wr Reg.TWN_STATUS.PARTNER_FATAL (h.health % 2)

/-- The times that came with it make a sample of the one-way time (R344). -/
def State.timed (s : State) : Option (Int × Int × Int × Int) → State
  | none => s
  | some x => s.tauSample x

theorem State.rdInt_congr {t s : State} {f : Fld} (h : t.rd f = s.rd f) : t.rdInt f = s.rdInt f :=
  congrArg (fun v : Nat => if v < 2 ^ (f.w - 1) then (v : Int) else (v : Int) - 2 ^ f.w) h

theorem State.heard_effect (s : State) (h : Hb) : (s.heard h).twn.hb = some h ∧ (s.heard h).twn.alive = true ∧
    (s.heard h).twn.tau = s.twn.tau ∧
    (s.heard h).bit Reg.TWN_STATUS.PARTNER_FATAL = (h.health % 2 != 0) ∧
    (s.heard h).ctr Cnt.TWN_HB_RX = (s.ctr Cnt.TWN_HB_RX).add 1 ∧
    (s.heard h).rdInt Reg.TWN_ASYM.ASYM = s.rdInt Reg.TWN_ASYM.ASYM := by
  unfold State.heard
  extract_lets s0 twn
  have hword : ∀ a, s0.word a = s.word a := State.inc_word s _
  have hctr : s0.ctr Cnt.TWN_HB_RX = (s.ctr Cnt.TWN_HB_RX).add 1 := (State.ctr_inc ..).trans (if_pos rfl)
  refine ⟨rfl, rfl, (congrArg Twn.tau (s.inc_twn Cnt.TWN_HB_RX) :), ?_, hctr, ?_⟩
  · exact (State.bit_wr _ _ _ (by decide)).trans (by rw [pow_one, Nat.mod_mod])
  · exact State.rdInt_congr ((State.rd_wr_addr _ _ _ _ (by decide)).trans (State.rd_congr_word (hword _)))

/-- What a heartbeat sets off beyond its word and its times leaves both alone. -/
theorem execHeartbeat_watches (h : Hb) (times : Option (Int × Int × Int × Int)) (later : Bool) (s : State) :
    Completes (execHeartbeat h times later s) (fun t => t.Watches ((s.heard h).timed times)) := by
  unfold execHeartbeat
  extract_lets s0 was twn0 s1 s2 s3 bad fresh twn3 s4 s5 s6 twn6 s7
  refine ⟨_, rfl, ?_⟩
  have h3 : s3 = (s.heard h).timed times := by cases times <;> rfl
  have h4 : s4.Watches s3 := State.setTwn_watches rfl rfl rfl id
  have h5 : s5.Watches s3 := by
    dsimp only [s5]
    split
    · exact (State.raise_aside ..).watches.trans h4
    · exact h4
  have h6 : s6.Watches s3 := by
    dsimp only [s6]
    split
    · exact (State.split_watches ..).trans h5
    · exact h5
  rw [← h3]
  split
  · exact s6.coverBack_watches.trans h6
  · exact (State.coverBack_watches _).trans ((State.redecide_watches _).trans (h6.setTwn rfl rfl rfl id))

theorem execHeartbeat_plain (h : Hb) (later : Bool) (s : State) : Completes (execHeartbeat h none later s) (fun t =>
    t.twn.hb = some h ∧ t.twn.alive = true ∧ t.bit Reg.TWN_STATUS.PARTNER_FATAL = (h.health % 2 != 0) ∧
    t.ctr Cnt.TWN_HB_RX = (s.ctr Cnt.TWN_HB_RX).add 1 ∧ t.twn.tau = s.twn.tau) := by
  obtain ⟨t, ht, hw⟩ := execHeartbeat_watches h none later s
  obtain ⟨hhb, halive, htau, hfatal, hctr, -⟩ := s.heard_effect h
  exact ⟨t, ht, hw.hb.trans hhb, hw.alive.trans halive, hw.fatal.trans hfatal, (hw.ctr _ (by decide)).trans hctr, hw.tau.trans htau⟩

theorem State.tauSample_twn (s : State) (a b c d : Int) : (s.tauSample (a, b, c, d)).twn.hb = s.twn.hb ∧ (s.tauSample (a, b, c, d)).twn.tau =
    (s.twn.tau ++ [frameMod (roundDiv ((d - c) - (b - a)) 2 + s.rdInt Reg.TWN_ASYM.ASYM)]).drop (s.twn.tau.length - 255) := by
  unfold State.tauSample
  extract_lets v l0 l twn s1
  rw [State.wr_twn]
  refine ⟨rfl, ?_⟩
  dsimp only [s1, l, l0]
  rw [List.length_append, List.length_singleton, Nat.add_sub_add_right _ 1 255]

/-- The sample made of a heartbeat's four times joins the last 256 (R344). -/
theorem execHeartbeat_times (h : Hb) (a b c d : Int) (later : Bool) (s : State) :
    Completes (execHeartbeat h (some (a, b, c, d)) later s) (fun t => t.twn.hb = some h ∧
      t.twn.tau = (s.twn.tau ++ [frameMod (roundDiv ((d - c) - (b - a)) 2 + s.rdInt Reg.TWN_ASYM.ASYM)]).drop (s.twn.tau.length - 255)) := by
  obtain ⟨t, ht, hw⟩ := execHeartbeat_watches h (some (a, b, c, d)) later s
  obtain ⟨hhb, -, htau, -, -, hasym⟩ := s.heard_effect h
  obtain ⟨hhb', htau'⟩ := (s.heard h).tauSample_twn a b c d
  exact ⟨t, ht, hw.hb.trans (hhb'.trans hhb), hw.tau.trans (by rw [State.timed, htau', htau, hasym])⟩

/-! HEARTBEAT_LOSS and LIVENESS_LOSS (R343, R350). -/

/-- The loss of the partner is a trigger, or a split where its pin is asserted. -/
theorem State.lossTrigger_effect (s : State) : s.lossTrigger.twn.hb = s.twn.hb ∧ s.lossTrigger.twn.alive = s.twn.alive ∧
    (s.twn.stuck20 = false → s.lossTrigger.twn.stuck20 = false) ∧ s.lossTrigger.darkIn = s.darkIn ∧
    (s.darkIn ≠ 1 → s.lossTrigger.ctr Cnt.TWN_HB_LOSS = (s.ctr Cnt.TWN_HB_LOSS).add 1) := by
  unfold State.lossTrigger
  split
  · next h =>
    have hw := s.split_watches true
    exact ⟨hw.hb, hw.alive, hw.stuck, hw.dark, fun hne => absurd h hne⟩
  · have hw := (s.inc Cnt.TWN_HB_LOSS).trigger_watches 1
    have htwn := s.inc_twn Cnt.TWN_HB_LOSS
    exact ⟨hw.hb.trans (congrArg Twn.hb htwn), hw.alive.trans (congrArg Twn.alive htwn), fun h => hw.stuck ((congrArg Twn.stuck20 htwn).trans h),
      hw.dark.trans (State.rd_congr_word (State.inc_word ..)), fun _ => (hw.ctr _ (by decide)).trans ((State.ctr_inc ..).trans (if_pos rfl))⟩

theorem execHeartbeatLoss_dead {s : State} (h : s.twn.alive = false) : execHeartbeatLoss s = .next s := if_pos (by simp [h])

theorem execHeartbeatLoss_alive {s : State} (h : s.twn.alive = true) : Completes (execHeartbeatLoss s) (fun t => t.twn.alive = false ∧
    t.twn.hb = s.twn.hb ∧ (s.darkIn ≠ 1 → t.ctr Cnt.TWN_HB_LOSS = (s.ctr Cnt.TWN_HB_LOSS).add 1)) := by
  refine ⟨_, if_neg (by simp [h]), ?_⟩
  generalize hs1 : ({ s with twn := { s.twn with alive := false } } : State) = s1
  have hhb1 : s1.twn.hb = s.twn.hb := by rw [← hs1]
  have halive1 : s1.twn.alive = false := by rw [← hs1]
  have hdark1 : s1.darkIn = s.darkIn := by rw [← hs1]; rfl
  have hctr1 : s1.ctr Cnt.TWN_HB_LOSS = s.ctr Cnt.TWN_HB_LOSS := by rw [← hs1]; rfl
  have hw : s1.unreachable.redecide.Watches s1 := (State.redecide_watches _).trans s1.unreachable_watches
  obtain ⟨hhb, halive, -, -, hctr⟩ := s1.unreachable.redecide.lossTrigger_effect
  refine ⟨halive.trans (hw.alive.trans halive1), hhb.trans (hw.hb.trans hhb1), fun hne => (hctr ?_).trans ?_⟩
  · rwa [hw.dark, hdark1]
  · rw [hw.ctr _ (by decide), hctr1]

theorem execLivenessLoss_eq (s : State) : execLivenessLoss s =
    .next (if s.bit Reg.TWN_CFG.EN = true ∧ s.rd Reg.TWN_OWN.OWN ≠ 0 then { s with twn := { s.twn with dead := true } } else s) :=
  congrArg ok (if_congr (by simp) rfl rfl)

/-! PARTNER_DARK_CHANGE, DARK_STUCK_TIMEOUT and the partner's fault (R350 to R352). -/

theorem execPartnerDarkChange_effect (d : Fin 3) (s : State) : Completes (execPartnerDarkChange d s) (fun t =>
    t.darkIn = d.val ∧ t.twn.stuck20 = false ∧ t.twn.alive = s.twn.alive) := by
  unfold execPartnerDarkChange
  extract_lets s1 twn s2 s3 lost s4
  refine ⟨_, rfl, ?_⟩
  have hdark2 : s2.darkIn = d.val := (State.rd_wr s Reg.TWN_STATUS.DARK_IN d.val (by decide)).trans (Nat.mod_eq_of_lt (by change d.val < 4; omega))
  have halive2 : s2.twn.alive = s.twn.alive := rfl
  have hstuck2 : s2.twn.stuck20 = false := rfl
  have h3 : s3.Watches s2 := s2.redecide_watches
  have h4 : s4.Watches s2 := by
    dsimp only [s4]
    split
    · exact h3
    · exact (State.split_watches ..).trans h3
  have hend : ∀ {t : State}, t.Watches s2 → t.darkIn = d.val ∧ t.twn.stuck20 = false ∧ t.twn.alive = s.twn.alive := fun h =>
    ⟨h.dark.trans hdark2, h.stuck hstuck2, h.alive.trans halive2⟩
  split
  · split
    · exact hend ((State.split_watches ..).trans h3)
    · exact hend h3
  · split
    · obtain ⟨-, halive, hstuck, hdark, -⟩ := s4.lossTrigger_effect
      obtain ⟨hdark4, hstuck4, halive4⟩ := hend h4
      exact ⟨hdark.trans hdark4, hstuck hstuck4, halive.trans halive4⟩
    · exact hend (s4.coldPart_watches.trans h4)

theorem execDarkStuckTimeout_idle {s : State} (h : s.darkIn ≠ 2 ∨ s.twn.trigs = [] ∨ s.twn.stuck20 = true) : execDarkStuckTimeout s = .next s :=
  congrArg ok (if_neg fun ⟨hdark, htrigs, hstuck⟩ => by
    rcases h with h | h | h
    · exact h hdark
    · exact htrigs h
    · exact absurd h (by simp [hstuck]))

theorem execDarkStuckTimeout_stuck {s : State} (hdark : s.darkIn = 2) (htrigs : s.twn.trigs ≠ []) (hstuck : s.twn.stuck20 = false) :
    Completes (execDarkStuckTimeout s) (fun t => t.twn.stuck20 = true ∧ t.darkIn = 2) := by
  refine ⟨_, congrArg ok (if_pos ⟨hdark, htrigs, hstuck⟩), ?_⟩
  generalize hs1 : ({ s with twn := { s.twn with stuck20 := true } } : State) = s1
  have hstuck1 : s1.twn.stuck20 = true := by rw [← hs1]
  have hdark1 : s1.darkIn = s.darkIn := by rw [← hs1]; rfl
  refine ⟨(State.coldPart_stuck20 _).trans ?_, (State.coldPart_watches _).dark.trans ?_⟩
  · rw [State.inc_twn, hstuck1]
  · exact (State.rd_congr_word (State.inc_word ..)).trans (hdark1.trans hdark)

theorem execFaultMsg_fatal (s : State) : Completes (execFaultMsg true s) (fun t => t.bit Reg.TWN_STATUS.PARTNER_FATAL = true) :=
  ⟨_, rfl, ((s.wr Reg.TWN_STATUS.PARTNER_FATAL 1).trigger_watches 2).fatal.trans (State.bit_wr s _ 1 (by decide))⟩

/-- Settles O33: a message of an owned tree ends with the check of its sequence number, one of a shadow tree stores what it carries after it, and
what follows a heartbeat, its loss or a change of the pin leaves the partner's latest word as it was taken down (`State.Watches`). -/
theorem twinMirrorAndHeartbeats : Obligations.TwinMirrorAndHeartbeats := by
  refine ⟨⟨?map, ?mapShadow, ?gap, ?dba, ?ploam, ?slot, ?table, ?tableShadow, ?key, ?keyUnsealed, ?sync, ?syncShadow⟩,
    ⟨?send, ?heartbeat, ?times, ?lossDead, ?loss, ?liveness, ?dark, ?stuckIdle, ?stuck, ?fault, ?faultFatal⟩⟩
  case map => exact fun p sd q m s hown => congrArg ok (State.mirrored_owned 2 sd.n q.toNat m.sfc _ hown)
  case mapShadow => exact fun p sd q m s hown => execMapMsg_shadow hown q sd m
  case gap =>
    intro p sd q m n s hn hne hgap hown
    refine ⟨_, congrArg ok (State.mirrored_owned 2 sd.n q.toNat m.sfc _ hown), State.seqRx_gap (hn ▸ hne) ?_ sd.n m.sfc⟩
    rwa [hn, Nat.mod_eq_of_lt q.isLt]
  case dba => exact fun p q f i a s hown => execDbaState_shadow hown q f i a
  case ploam => exact fun p sd q f e l w s hown => execPloamQ_shadow hown q sd f e l w
  case slot => exact fun p q i x r a b n s hown hsame => execSlotMsg_shadow hown q hsame r a b n
  case table => exact fun p q w s hown => congrArg ok (State.mirrored_owned 6 0xFF q.toNat 0 _ hown)
  case tableShadow => exact fun p q w s hown => congrArg ok (State.mirrored_shadow 6 0xFF q.toNat 0 _ hown)
  case key => exact fun p q k r s hown hseal => execKeyMsg_sealed hown q hseal k r
  case keyUnsealed => exact fun p q k r s hseal => execKeyMsg_unsealed hseal p q k r
  case sync => exact fun p q c s hown => congrArg ok (State.mirrored_owned 12 0xFF q.toNat c.sfc _ hown)
  case syncShadow => exact fun p q c s hown => execSyncMsg_shadow hown q c
  case send => exact fun s => rfl
  case heartbeat => exact fun h l s => execHeartbeat_plain h l s
  case times => exact fun h a b c d l s => execHeartbeat_times h a b c d l s
  case lossDead => exact fun s h => execHeartbeatLoss_dead h
  case loss => exact fun s h => execHeartbeatLoss_alive h
  case liveness => exact execLivenessLoss_eq
  case dark => exact execPartnerDarkChange_effect
  case stuckIdle => exact fun s h => execDarkStuckTimeout_idle h
  case stuck => exact fun s hdark htrigs hstuck => execDarkStuckTimeout_stuck hdark htrigs hstuck
  case fault => exact fun s => rfl
  case faultFatal => exact execFaultMsg_fatal

end Sys2Proof.Machine

/-! SUPPORT. One step (15_counters_and_observability.md R64, 11_time_and_synchronization.md R364): what a step on an empty queue changes,
and that every step keeps the canonical form of the tables, the counters below 2^48 and the free-running count below 2^64. -/

namespace Sys2Proof.Machine

set_option autoImplicit false

/-! A step by the queue. -/

theorem step_of_pending_nil {s : State} (h : s.pending = []) : step s = .next (idle s) := by
  rw [step, h]

theorem step_of_pending_cons {c : Instr} {q : List Instr} {s : State} (h : s.pending = c :: q) : step s = exec c { s with pending := q } := by
  rw [step, h]

/-! Soundness. -/

/-- Every command completes, leaves the queue alone and keeps a sound state sound: the law of its meaning, command by command. -/
theorem exec_keeps {P : Prop} {Q : List Instr} {s : State} (h : s.Keeps P Q) : (c : Instr) → Completes (exec c s) (State.Keeps P Q)
  | .frameTick .. => execFrameTick_keeps h ..
  | .paceWindowEnd .. => execPaceWindowEnd_keeps h ..
  | .mapBuildStart => execMapBuildStart_keeps h
  | .assayerCheck .. => execAssayerCheck_keeps h ..
  | .mapRelease .. => execMapRelease_keeps h ..
  | .mapLock .. => execMapLock_keeps h ..
  | .uplinkFrameRx .. => execUplinkFrameRx_keeps h ..
  | .uplinkFrameTx .. => execUplinkFrameTx_keeps h ..
  | .phaseOffsetWrite .. => execPhaseOffsetWrite_keeps h ..
  | .dsEnableWrite .. => execDsEnableWrite_keeps h ..
  | .ocbCommit .. => execOcbCommit_keeps h ..
  | .alignModeWrite .. => execAlignModeWrite_keeps h ..
  | .psyncMatch .. => execPsyncMatch_keeps h ..
  | .trackerCheck .. => execTrackerCheck_keeps h ..
  | .syncPsbdCheck .. => execSyncPsbdCheck_keeps h ..
  | .burstStart .. => execBurstStart_keeps h ..
  | .delimWindowClose .. => execDelimWindowClose_keeps h ..
  | .burstEnd .. => execBurstEnd_keeps h ..
  | .upstreamXgemFrame .. => execUpstreamXgemFrame_keeps h ..
  | .upstreamPloamRx .. => execUpstreamPloamRx_keeps h ..
  | .strayDelimiter .. => execStrayDelimiter_keeps h ..
  | .strayEnergyEpisode .. => execStrayEnergyEpisode_keeps h ..
  | .usLossOnset .. => execUsLossOnset_keeps h ..
  | .presetWindowWrite .. => execPresetWindowWrite_keeps h ..
  | .presetAgeExpiry .. => execPresetAgeExpiry_keeps h ..
  | .ploamAckTimeout .. => execPloamAckTimeout_keeps h ..
  | .teqdWrite .. => execTeqdWrite_keeps h ..
  | .reachWrite .. => execReachWrite_keeps h ..
  | .discPeriodStart .. => execDiscPeriodStart_keeps h ..
  | .quietSpanClose .. => execQuietSpanClose_keeps h ..
  | .snResponse .. => execSnResponse_keeps h ..
  | .rangingResponse .. => execRangingResponse_keeps h ..
  | .rangingNoResponse .. => execRangingNoResponse_keeps h ..
  | .registrationRx .. => execRegistrationRx_keeps h ..
  | .keyReportRx .. => execKeyReportRx_keeps h ..
  | .keyExchangeTimeout .. => execKeyExchangeTimeout_keeps h ..
  | .registrationTimeout .. => execRegistrationTimeout_keeps h ..
  | .lostWaitExpiry .. => execLostWaitExpiry_keeps h ..
  | .rampStart .. => execRampStart_keeps h ..
  | .rampStop .. => execRampStop_keeps h ..
  | .deactivate .. => execDeactivate_keeps h ..
  | .enable .. => execEnable_keeps h ..
  | .disable .. => execDisable_keeps h ..
  | .rampTimeout .. => execRampTimeout_keeps h ..
  | .rogueHuntStart .. => execRogueHuntStart_keeps h ..
  | .rogueWatchEnd .. => execRogueWatchEnd_keeps h ..
  | .allocWrite .. => execAllocWrite_keeps h ..
  | .ctiRecordTake => execCtiRecordTake_keeps h
  | .fsiPageWrite .. => execFsiPageWrite_keeps h ..
  | .swapRequest .. => execSwapRequest_keeps h ..
  | .swapValidationDone .. => execSwapValidationDone_keeps h ..
  | .bdeactUnlock .. => execBdeactUnlock_keeps h ..
  | .whfAlgWrite .. => execWhfAlgWrite_keeps h ..
  | .sorterDispatch => execSorterDispatch_keeps h
  | .expressLookup .. => execExpressLookup_keeps h ..
  | .windowLoadDone .. => execWindowLoadDone_keeps h ..
  | .sorterRelease .. => execSorterRelease_keeps h ..
  | .reorderTimeout .. => execReorderTimeout_keeps h ..
  | .add .. => execAdd_keeps h ..
  | .sub .. => execSub_keeps h ..
  | .and .. => execAnd_keeps h ..
  | .or .. => execOr_keeps h ..
  | .xor .. => execXor_keeps h ..
  | .shl .. => execShl_keeps h ..
  | .shr .. => execShr_keeps h ..
  | .sar .. => execSar_keeps h ..
  | .min .. => execMin_keeps h ..
  | .max .. => execMax_keeps h ..
  | .cmp .. => execCmp_keeps h ..
  | .popc .. => execPopc_keeps h ..
  | .bfx .. => execBfx_keeps h ..
  | .bfi .. => execBfi_keeps h ..
  | .movi .. => execMovi_keeps h ..
  | .beq .. => execBeq_keeps h ..
  | .bne .. => execBne_keeps h ..
  | .blt .. => execBlt_keeps h ..
  | .bge .. => execBge_keeps h ..
  | .bltu .. => execBltu_keeps h ..
  | .bgeu .. => execBgeu_keeps h ..
  | .jmp .. => execJmp_keeps h ..
  | .call .. => execCall_keeps h ..
  | .ret .. => execRet_keeps h ..
  | .ld .. => execLd_keeps h ..
  | .st .. => execSt_keeps h ..
  | .dadd .. => execDadd_keeps h ..
  | .dor .. => execDor_keeps h ..
  | .dinc .. => execDinc_keeps h ..
  | .fadd .. => execFadd_keeps h ..
  | .cas .. => execCas_keeps h ..
  | .parseNext .. => execParseNext_keeps h ..
  | .parseSkip .. => execParseSkip_keeps h ..
  | .parseSetht .. => execParseSetht_keeps h ..
  | .kclr .. => execKclr_keeps h ..
  | .kcat .. => execKcat_keeps h ..
  | .kreg .. => execKreg_keeps h ..
  | .lookupLdg .. => execLookupLdg_keeps h ..
  | .lookupExm .. => execLookupExm_keeps h ..
  | .lookupWait .. => execLookupWait_keeps h ..
  | .ins .. => execIns_keeps h ..
  | .del .. => execDel_keeps h ..
  | .csum .. => execCsum_keeps h ..
  | .setv .. => execSetv_keeps h ..
  | .setq .. => execSetq_keeps h ..
  | .setb .. => execSetb_keeps h ..
  | .setr .. => execSetr_keeps h ..
  | .setm .. => execSetm_keeps h ..
  | .setx .. => execSetx_keeps h ..
  | .setc .. => execSetc_keeps h ..
  | .endPass .. => execEndPass_keeps h ..
  | .nop .. => execNop_keeps h ..
  | .movs .. => execMovs_keeps h ..
  | .trap .. => execTrap_keeps h ..
  | .handoff .. => execHandoff_keeps h ..
  | .lookupResult .. => execLookupResult_keeps h ..
  | .engineWdog .. => execEngineWdog_keeps h ..
  | .engineParity .. => execEngineParity_keeps h ..
  | .costWindowEnd .. => execCostWindowEnd_keeps h ..
  | .engEnWrite .. => execEngEnWrite_keeps h ..
  | .standbyBankWrite .. => execStandbyBankWrite_keeps h ..
  | .validateBank .. => execValidateBank_keeps h ..
  | .validateDone .. => execValidateDone_keeps h ..
  | .drain .. => execDrain_keeps h ..
  | .abort .. => execAbort_keeps h ..
  | .guildLoad .. => execGuildLoad_keeps h ..
  | .drainComplete .. => execDrainComplete_keeps h ..
  | .drainStuck .. => execDrainStuck_keeps h ..
  | .switchDone .. => execSwitchDone_keeps h ..
  | .checkDone .. => execCheckDone_keeps h ..
  | .ledgerSearch .. => execLedgerSearch_keeps h ..
  | .exmSearch .. => execExmSearch_keeps h ..
  | .ldgWrite .. => execLdgWrite_keeps h ..
  | .ldgInsert .. => execLdgInsert_keeps h ..
  | .ledgerMove => execLedgerMove_keeps h
  | .delete .. => execDelete_keeps h ..
  | .modify .. => execModify_keeps h ..
  | .addKey .. => execAddKey_keeps h ..
  | .lookup .. => execLookup_keeps h ..
  | .openEpoch .. => execOpenEpoch_keeps h ..
  | .publish .. => execPublish_keeps h ..
  | .discard .. => execDiscard_keeps h ..
  | .respreadMove .. => execRespreadMove_keeps h ..
  | .scrubRow .. => execScrubRow_keeps h ..
  | .stashDrainPass .. => execStashDrainPass_keeps h ..
  | .epochRetire => execEpochRetire_keeps h
  | .sweepDone .. => execSweepDone_keeps h ..
  | .epochStuck .. => execEpochStuck_keeps h ..
  | .enqueue => execEnqueue_keeps h
  | .bufferRelease .. => execBufferRelease_keeps h ..
  | .freeStw .. => execFreeStw_keeps h ..
  | .cellarWriteDone .. => execCellarWriteDone_keeps h ..
  | .cellarRefill .. => execCellarRefill_keeps h ..
  | .schedSelect .. => execSchedSelect_keeps h ..
  | .cipherDownstream .. => execCipherDownstream_keeps h ..
  | .bucketSweep => execBucketSweep_keeps h
  | .bucketWord0Write .. => execBucketWord0Write_keeps h ..
  | .debtClear .. => execDebtClear_keeps h ..
  | .statsSample .. => execStatsSample_keeps h ..
  | .statsClear .. => execStatsClear_keeps h ..
  | .poolCfgWrite .. => execPoolCfgWrite_keeps h ..
  | .cellarEnable .. => execCellarEnable_keeps h ..
  | .keyLoad .. => execKeyLoad_keeps h ..
  | .keyActivate .. => execKeyActivate_keeps h ..
  | .keyErase .. => execKeyErase_keeps h ..
  | .keyRestore .. => execKeyRestore_keeps h ..
  | .retiringTimeout .. => execRetiringTimeout_keeps h ..
  | .shasolMessageRx .. => execShasolMessageRx_keeps h ..
  | .tagCheckDone .. => execTagCheckDone_keeps h ..
  | .shasolMessageTx .. => execShasolMessageTx_keeps h ..
  | .heartbeatSend => execHeartbeatSend_keeps h
  | .heartbeat .. => execHeartbeat_keeps h ..
  | .mapMsg .. => execMapMsg_keeps h ..
  | .dbaState .. => execDbaState_keeps h ..
  | .ploamQ .. => execPloamQ_keeps h ..
  | .slotMsg .. => execSlotMsg_keeps h ..
  | .tableMsg .. => execTableMsg_keeps h ..
  | .keyMsg .. => execKeyMsg_keeps h ..
  | .faultMsg .. => execFaultMsg_keeps h ..
  | .releaseMsg .. => execReleaseMsg_keeps h ..
  | .takenMsg .. => execTakenMsg_keeps h ..
  | .requestMsg .. => execRequestMsg_keeps h ..
  | .syncMsg .. => execSyncMsg_keeps h ..
  | .heartbeatLoss => execHeartbeatLoss_keeps h
  | .partnerDarkChange .. => execPartnerDarkChange_keeps h ..
  | .darkStuckTimeout => execDarkStuckTimeout_keeps h
  | .livenessLoss => execLivenessLoss_keeps h
  | .takeoverWarm => execTakeoverWarm_keeps h
  | .take .. => execTake_keeps h ..
  | .give .. => execGive_keeps h ..
  | .offWaitExpiry => execOffWaitExpiry_keeps h
  | .releaseFail => execReleaseFail_keeps h
  | .domainEnWrite .. => execDomainEnWrite_keeps h ..
  | .phaseSampleCommit .. => execPhaseSampleCommit_keeps h ..
  | .ppsInEdge .. => execPpsInEdge_keeps h ..
  | .todMessageRx .. => execTodMessageRx_keeps h ..
  | .sourceTimeout .. => execSourceTimeout_keeps h ..
  | .wtrExpiry => execWtrExpiry_keeps h
  | .switchOutput .. => execSwitchOutput_keeps h ..
  | .outStep .. => execOutStep_keeps h ..
  | .reacquire .. => execReacquire_keeps h ..
  | .ppsOutEdge => execPpsOutEdge_keeps h
  | .todOutSend => execTodOutSend_keeps h
  | .tsRecordRead .. => execTsRecordRead_keeps h ..
  | .todAnnounce .. => execTodAnnounce_keeps h ..
  | .ponFreqMeasure .. => execPonFreqMeasure_keeps h ..
  | .synceSquelch .. => execSynceSquelch_keeps h ..
  | .synceResume .. => execSynceResume_keeps h ..
  | .ulkCfgWrite .. => execUlkCfgWrite_keeps h ..
  | .ulkRetrain .. => execUlkRetrain_keeps h ..
  | .ulkLinkChange .. => execUlkLinkChange_keeps h ..
  | .tileStart .. => execTileStart_keeps h ..
  | .laneEnWrite .. => execLaneEnWrite_keeps h ..
  | .rxDetectPulse .. => execRxDetectPulse_keeps h ..
  | .rxEnergy .. => execRxEnergy_keeps h ..
  | .laneEnergyLoss .. => execLaneEnergyLoss_keeps h ..
  | .trainingFrameRx .. => execTrainingFrameRx_keeps h ..
  | .trainTimeout .. => execTrainTimeout_keeps h ..
  | .bitLock .. => execBitLock_keeps h ..
  | .bitLockLost .. => execBitLockLost_keeps h ..
  | .commaRx .. => execCommaRx_keeps h ..
  | .commaMissing .. => execCommaMissing_keeps h ..
  | .lockTimeout .. => execLockTimeout_keeps h ..
  | .capRx .. => execCapRx_keeps h ..
  | .mismatchHoldExpiry .. => execMismatchHoldExpiry_keeps h ..
  | .exchangeTimeout .. => execExchangeTimeout_keeps h ..
  | .shasolRetrain .. => execShasolRetrain_keeps h ..
  | .sessOffer .. => execSessOffer_keeps h ..
  | .sessAnswer .. => execSessAnswer_keeps h ..
  | .sessOfferTimeout .. => execSessOfferTimeout_keeps h ..
  | .marginSample .. => execMarginSample_keeps h ..
  | .strapLatch .. => execStrapLatch_keeps h ..
  | .genEnWrite .. => execGenEnWrite_keeps h ..
  | .injGo .. => execInjGo_keeps h ..
  | .checkerLock .. => execCheckerLock_keeps h ..
  | .checkerLockLost .. => execCheckerLockLost_keeps h ..
  | .helloSend => execHelloSend_keeps h
  | .hello .. => execHello_keeps h ..
  | .neighbourTimeout .. => execNeighbourTimeout_keeps h ..
  | .lsa .. => execLsa_keeps h ..
  | .lsaRefresh => execLsaRefresh_keeps h
  | .lsaExpiry .. => execLsaExpiry_keeps h ..
  | .addressSettle => execAddressSettle_keeps h
  | .routeRecompute => execRouteRecompute_keeps h
  | .packet .. => execPacket_keeps h ..
  | .masterLostTimeout => execMasterLostTimeout_keeps h
  | .fabCfgWrite .. => execFabCfgWrite_keeps h ..
  | .bindingWrite .. => execBindingWrite_keeps h ..
  | .filterWindowEnd .. => execFilterWindowEnd_keeps h ..
  | .faultMessageRx .. => execFaultMessageRx_keeps h ..
  | .fltMsgLost .. => execFltMsgLost_keeps h ..
  | .safeStateEntry => execSafeStateEntry_keeps h
  | .faultQueueRead .. => execFaultQueueRead_keeps h ..
  | .kindCfgWrite .. => execKindCfgWrite_keeps h ..
  | .kindStatusClear .. => execKindStatusClear_keeps h ..
  | .isoRestore .. => execIsoRestore_keeps h ..
  | .safeExit .. => execSafeExit_keeps h ..
  | .captureClr .. => execCaptureClr_keeps h ..
  | .autoRestart => execAutoRestart_keeps h
  | .handshakeStall .. => execHandshakeStall_keeps h ..
  | .analogCauseOnset .. => execAnalogCauseOnset_keeps h ..
  | .analogCauseEnd .. => execAnalogCauseEnd_keeps h ..
  | .tempSample .. => execTempSample_keeps h ..
  | .stewardWdog .. => execStewardWdog_keeps h ..
  | .goldenPassDone .. => execGoldenPassDone_keeps h ..
  | .sramSliceTest .. => execSramSliceTest_keeps h ..
  | .ledgerSliceTest .. => execLedgerSliceTest_keeps h ..
  | .bufferAudit .. => execBufferAudit_keeps h ..
  | .eyeScan .. => execEyeScan_keeps h ..
  | .wardenForceStart => execWardenForceStart_keeps h
  | .wdnLate => execWdnLate_keeps h
  | .tallyConfigWrite .. => execTallyConfigWrite_keeps h ..
  | .snap .. => execSnap_keeps h ..
  | .snapPeriodic => execSnapPeriodic_keeps h
  | .snapshotDone .. => execSnapshotDone_keeps h ..
  | .pmSecondEnd => execPmSecondEnd_keeps h
  | .dsReport .. => execDsReport_keeps h ..
  | .dsReportRequest => execDsReportRequest_keeps h
  | .dsReportMissing .. => execDsReportMissing_keeps h ..
  | .pmClear .. => execPmClear_keeps h ..
  | .pmClearAll .. => execPmClearAll_keeps h ..
  | .powerOnReset => execPowerOnReset_keeps h
  | .resetRelease => execResetRelease_keeps h
  | .warmReset .. => execWarmReset_keeps h ..
  | .txdisSample .. => execTxdisSample_keeps h ..
  | .enterS1 .. => execEnterS1_keeps h ..
  | .bankFetchDone .. => execBankFetchDone_keeps h ..
  | .enterS2 => execEnterS2_keeps h
  | .enterS3 => execEnterS3_keeps h
  | .stageLate => execStageLate_keeps h
  | .hostImage .. => execHostImage_keeps h ..
  | .svnCommit .. => execSvnCommit_keeps h ..
  | .flashErase .. => execFlashErase_keeps h ..
  | .flashProgram .. => execFlashProgram_keeps h ..
  | .mxpStatusUpdate => execMxpStatusUpdate_keeps h
  | .mxpFaultToggle => execMxpFaultToggle_keeps h
  | .omciResponseRx .. => execOmciResponseRx_keeps h ..
  | .stwFwValidate .. => execStwFwValidate_keeps h ..
  | .stwFwSwitch .. => execStwFwSwitch_keeps h ..
  | .stwFwReady => execStwFwReady_keeps h
  | .stwFwFallback => execStwFwFallback_keeps h
  | .pcieReset .. => execPcieReset_keeps h ..
  | .functionLevelReset .. => execFunctionLevelReset_keeps h ..
  | .pcieLinkDown => execPcieLinkDown_keeps h
  | .unassignedAccess .. => execUnassignedAccess_keeps h ..
  | .winRead .. => execWinRead_keeps h ..
  | .winWrite .. => execWinWrite_keeps h ..
  | .lockOpen .. => execLockOpen_keeps h ..
  | .lockClose .. => execLockClose_keeps h ..
  | .lockSeal .. => execLockSeal_keeps h ..
  | .ringEnWrite .. => execRingEnWrite_keeps h ..
  | .ringTailWrite .. => execRingTailWrite_keeps h ..
  | .rxRingDeliver .. => execRxRingDeliver_keeps h ..
  | .txEntry .. => execTxEntry_keeps h ..
  | .dmaError .. => execDmaError_keeps h ..
  | .coalTimerExpiry .. => execCoalTimerExpiry_keeps h ..
  | .rearm .. => execRearm_keeps h ..
  | .vfPortsWrite .. => execVfPortsWrite_keeps h ..
  | .registerWrite .. => execRegisterWrite_keeps h ..
  | .ppsMissed .. => execPpsMissed_keeps h ..
  | .pcieLinkUp .. => execPcieLinkUp_keeps h ..
  | .registerRead .. => execRegisterRead_keeps h ..
  | .restartAgeOut => execRestartAgeOut_keeps h

/-- Taking the front command off the queue changes no part that soundness reads. -/
theorem step_keeps_sound {s : State} (h : s.Sound) : Completes (step s) State.Sound := by
  cases hq : s.pending with
  | nil => exact ⟨idle s, step_of_pending_nil hq, (idle_keeps (P := True) ⟨rfl, fun _ => h⟩).sound trivial⟩
  | cons c q =>
    obtain ⟨t, ht, hkeeps⟩ := exec_keeps (P := True) (Q := q) (s := { s with pending := q }) ⟨rfl, fun _ => h⟩ c
    exact ⟨t, (step_of_pending_cons hq).trans ht, hkeeps.sound trivial⟩

/-- Settles O55: an idle step counts modulo 2^64, and every command keeps the form of what it writes. -/
theorem soundKept : Obligations.SoundKept := fun _ h => step_keeps_sound h

/-- Settles O53: a step on an empty queue is the idle step, which writes the free-running count alone. -/
theorem idleStep : Obligations.IdleStep := fun s h =>
  ⟨idle s, step_of_pending_nil h, rfl, idle_within (K := (· ∈ [.now])) (within_refl s) (by simp)⟩

end Sys2Proof.Machine

/-! SUPPORT. The time domains and the output time (11_time_and_synchronization.md R366 to R375): what a domain, its time and the output time
read after each operation of the Horologer. -/

namespace Sys2Proof.Machine

set_option autoImplicit false

/-! Domains after an update. -/

@[simp] theorem State.dom_setDom_same (s : State) (d : Nat) (x : Dom) : (s.setDom d x).dom d = x := by
  by_cases hd : d = 0 <;> simp [State.setDom, State.dom, hd]

theorem State.dom_congr {t s : State} (h : t.hrl = s.hrl) (d : Nat) : t.dom d = s.dom d := by
  simp only [State.dom, h]

/-- A domain's time depends on the domain and the free-running count alone. -/
theorem State.domTime_congr {t s : State} {d : Nat} (hd : t.dom d = s.dom d) (hn : t.now = s.now) : t.domTime d = s.domTime d := by
  simp only [State.domTime, hd, hn]

/-- A domain whose time is set at the present count reads that time. -/
theorem State.domTime_of_since {s : State} {d : Nat} (h : (s.dom d).since = s.now) : s.domTime d = (s.dom d).base := by
  simp [State.domTime, h]

theorem State.dom_setFreq_same (s : State) (d : Nat) (f : Int) : (s.setFreq d f).dom d = { s.dom d with
    base := s.domTime d, since := s.now, freq := f, hist := (s.now, f) :: (s.dom d).hist } := State.dom_setDom_same ..

theorem State.dom_setDomState_same (s : State) (d : Nat) (x : DomState) :
    (s.setDomState d x).dom d = { s.dom d with state := x, lockRun := 0, outRun := 0 } := by
  unfold State.setDomState
  split
  · exact State.dom_setDom_same ..
  · exact (State.dom_congr (State.endCause_hrl ..) d).trans (State.dom_setDom_same ..)

theorem State.outSel_congr {t s : State} (h : t.words = s.words) : t.outSel = s.outSel := State.rd_congr h _

/-- OFS set at the present count has not moved. -/
theorem State.ofsNow_of_ofsAt {s : State} (h : s.hrl.ofsAt = s.now) : s.ofsNow = s.hrl.ofs := by
  have hmoved : ((s.now : Int) - s.hrl.ofsAt) * s.slew * fracUnit / 1000000000 = 0 := by simp [h]
  simp only [State.ofsNow, hmoved]
  split <;> omega

/-! Jumps and switches of the output time leave both domains (R373, R374). -/

theorem State.reannounce_hrl (s : State) (ps : List (Fin 32)) :
    (s.reannounce ps).hrl = { s.hrl with ann := (s.reannounce ps).hrl.ann } := rfl

theorem State.outJump_hrl (s : State) (step : Int) : (s.outJump step).hrl = { s.hrl with ann := (s.outJump step).hrl.ann } := by
  unfold State.outJump
  dsimp only
  generalize hu : ports.foldl _ _ = u
  have hhrl : u.hrl = s.hrl := by
    rw [← hu]
    exact foldl_reading State.hrl _ _ _ fun t p _ => State.setPort_hrl ..
  rw [← hhrl]
  exact u.reannounce_hrl ports

/-- A step of a domain or of the output changes nothing of the Horologer but the announcements. -/
theorem State.timeStepped_hrl (s : State) (jump : Bool) (d : Nat) (step : Int) :
    (s.timeStepped jump d step).hrl = { s.hrl with ann := (s.timeStepped jump d step).hrl.ann } := by
  rw [State.timeStepped, State.raise_hrl]
  cases jump with
  | false => rfl
  | true => exact s.outJump_hrl step

theorem State.dom_timeStepped (s : State) (jump : Bool) (d : Nat) (step : Int) (k : Nat) : (s.timeStepped jump d step).dom k = s.dom k := by
  rw [State.dom, State.timeStepped_hrl, State.dom]

theorem State.timeStepped_parts (s : State) (jump : Bool) (d : Nat) (step : Int) : (s.timeStepped jump d step).words = s.words ∧
    (s.timeStepped jump d step).ctrs = s.ctrs ∧ (s.timeStepped jump d step).now = s.now := by
  have h := State.timeStepped_within (K := (· ∈ [.flt, .pon, .pm, .hrl])) (within_refl s) jump d step (by simp) (by simp) (by simp) (by simp)
  exact ⟨h.words.resolve_left (by simp), h.ctrs.resolve_left (by simp), h.now.resolve_left (by simp)⟩

theorem State.dom_switchOut (s : State) (d k : Nat) : (s.switchOut d).dom k = s.dom k :=
  (State.dom_congr ((State.raise_hrl ..).trans (State.inc_hrl ..)) k).trans rfl

theorem State.switchOut_ofs (s : State) (d : Nat) :
    (s.switchOut d).hrl.ofs = s.outTime - s.domTime d ∧ (s.switchOut d).hrl.ofsAt = s.now := by
  simp [State.switchOut, State.reannounce]

theorem State.switchOut_words (s : State) (d : Nat) : (s.switchOut d).words = (s.wr Reg.HRL_CTRL.OUT_SEL d).words := by
  simp [State.switchOut, State.wr]

theorem State.outSel_switchOut (s : State) {d : Nat} (hd : d < 2) : (s.switchOut d).outSel = d := by
  rw [State.outSel_congr (s.switchOut_words d), State.outSel, State.rd_wr _ _ _ (by decide)]
  exact Nat.mod_eq_of_lt hd

theorem State.domTime_switchOut (s : State) (d k : Nat) : (s.switchOut d).domTime k = s.domTime k :=
  State.domTime_congr (s.dom_switchOut d k) (by simp)

/-- The output time does not jump at a switch: OFS takes up what the domains differ by (R373). -/
theorem State.outTime_switchOut (s : State) {d : Nat} (hd : d < 2) : (s.switchOut d).outTime = s.outTime := by
  obtain ⟨hofs, hat⟩ := s.switchOut_ofs d
  have hnow : (s.switchOut d).now = s.now := by simp
  rw [State.outTime, s.outSel_switchOut hd, State.domTime_switchOut, State.ofsNow_of_ofsAt (hat.trans hnow.symm), hofs]
  omega

theorem State.ctr_switchOut (s : State) (d c : Nat) :
    (s.switchOut d).ctr c = if c = Cnt.HRL_SWITCHES then (s.ctr Cnt.HRL_SWITCHES).add 1 else s.ctr c := by
  rw [State.switchOut, State.ctr_congr (State.raise_ctrs ..), State.ctr_inc]
  simp only [State.ctr, State.reannounce_parts, State.wr_ctrs]

/-- AUTO_SWITCH switches or does nothing (R375). -/
theorem State.autoSwitch_cases (s : State) (d : Nat) : s.autoSwitch d = s.switchOut (1 - d) ∨ s.autoSwitch d = s := by
  unfold State.autoSwitch
  split
  · exact .inl rfl
  · exact .inr rfl

theorem State.dom_autoSwitch (s : State) (d k : Nat) : (s.autoSwitch d).dom k = s.dom k := by
  rcases s.autoSwitch_cases d with h | h <;> rw [h]
  exact s.dom_switchOut _ k

theorem State.domTime_autoSwitch (s : State) (d k : Nat) : (s.autoSwitch d).domTime k = s.domTime k := by
  rcases s.autoSwitch_cases d with h | h <;> rw [h]
  exact s.domTime_switchOut _ k

theorem State.ctr_autoSwitch (s : State) (d : Nat) {c : Nat} (hc : c ≠ Cnt.HRL_SWITCHES) : (s.autoSwitch d).ctr c = s.ctr c := by
  rcases s.autoSwitch_cases d with h | h <;> rw [h]
  rw [State.ctr_switchOut, if_neg hc]

/-! Samples (R370). -/

theorem State.acquire_of_not_freerun {s : State} {d : Nat} (h : (s.dom d).state ≠ .freerun) : s.acquire d = s := by
  simp [State.acquire, h]

/-- A sample within 10 ms of the one before is rejected. -/
theorem State.domSample_near {s : State} {d a : Nat} (hs : (s.dom d).sampled = some a) (hn : s.now < a + 10000000) (e : Int) (far : Bool) :
    s.domSample d e far = (s.setDom d { s.dom d with sampled := some s.now }).inc (Cnt.HRL_REJECTED d) := by
  simp [State.domSample, hs, hn]

/-- An acquiring domain accepts its first sample, however large. -/
theorem State.domSample_acquiring {s : State} {d : Nat} (hs : (s.dom d).sampled = none) (hst : (s.dom d).state = .acquiring) (e : Int)
    (far : Bool) : s.domSample d e far = (s.setDom d { s.dom d with sampled := some s.now }).acceptSample d e := by
  simp [State.domSample, hs, hst]

/-- The step of an acquiring domain (Table 11-1): its time is moved back by the sample, once. -/
def State.stepDom (s : State) (d : Nat) (e : Int) : State :=
  (((s.inc (Cnt.HRL_SAMPLES d)).wr (Reg.HRL_DOM_LAST_E.LAST_E d) (satBits 32 (roundDiv e fracUnit))).setDom d
    { s.dom d with accepted := some s.now, stepped := true, base := s.domTime d - e, since := s.now }).setDomState d .tracking

theorem State.acceptSample_acquiring {s : State} {d : Nat} (h : (s.dom d).state = .acquiring) (e : Int) :
    s.acceptSample d e = (s.stepDom d e).timeStepped (s.outSel == d) d (-e) := by
  simp only [State.acceptSample, State.stepDom, h]

theorem State.dom_stepDom (s : State) (d : Nat) (e : Int) : (s.stepDom d e).dom d = { s.dom d with
    accepted := some s.now, stepped := true, base := s.domTime d - e, since := s.now, state := .tracking, lockRun := 0, outRun := 0 } := by
  rw [State.stepDom, State.dom_setDomState_same, State.dom_setDom_same]

theorem State.ctr_stepDom (s : State) (d : Nat) (e : Int) : (s.stepDom d e).ctr (Cnt.HRL_SAMPLES d) = (s.ctr (Cnt.HRL_SAMPLES d)).add 1 := by
  have hctrs : (s.stepDom d e).ctrs = (s.inc (Cnt.HRL_SAMPLES d)).ctrs := by simp [State.stepDom]
  rw [State.ctr_congr hctrs, State.ctr_inc, if_pos rfl]

/-- An acquiring domain takes its first sample as its step and tracks. -/
theorem State.acceptSample_acquiring_effect {s : State} {d : Nat} (h : (s.dom d).state = .acquiring) (e : Int) :
    (s.acceptSample d e).ctr (Cnt.HRL_SAMPLES d) = (s.ctr (Cnt.HRL_SAMPLES d)).add 1 ∧ ((s.acceptSample d e).dom d).state = .tracking ∧
    ((s.acceptSample d e).dom d).stepped = true ∧ (s.acceptSample d e).domTime d = s.domTime d - e := by
  rw [State.acceptSample_acquiring h]
  obtain ⟨-, hctrs, hnow⟩ := (s.stepDom d e).timeStepped_parts (s.outSel == d) d (-e)
  have hdom := ((s.stepDom d e).dom_timeStepped (s.outSel == d) d (-e) d).trans (s.dom_stepDom d e)
  have hnow' : (s.stepDom d e).now = s.now := by simp [State.stepDom]
  refine ⟨(State.ctr_congr hctrs _).trans (s.ctr_stepDom d e), by rw [hdom], by rw [hdom], ?_⟩
  rw [State.domTime_of_since (by rw [hdom, hnow, hnow']), hdom]

/-! PHASE_SAMPLE_COMMIT (R369, R370). -/

theorem State.hostTlp_hrl (s : State) (rd : Bool) (ag : Agent) (a : Nat) : (s.hostTlp rd ag a).hrl = s.hrl := by simp

theorem State.storeWord_hrl (s : State) (ag : Agent) (a : Nat) (v : Word) : (s.storeWord ag a v).hrl = s.hrl := by simp

theorem State.hostTlp_now (s : State) (rd : Bool) (ag : Agent) (a : Nat) : (s.hostTlp rd ag a).now = s.now := by simp

/-- The sample that a write of `v` to S_SEC commits, in 2^−48 ns. -/
def State.phaseSample (s : State) (d : Nat) (v : Word) : Int :=
  (v.toInt * 1000000000 + fldInt (s.word (Reg.HRL_DOM_S_NS.addr d)) (Reg.HRL_DOM_S_NS.S_NS d)) * fracUnit
    + (s.rd (Reg.HRL_DOM_S_FRAC.S_FRAC d) : Int) * 2 ^ 32

section
variable {s r : State} {ag : Agent} {d : Fin 2} (hr : s.reaches ag (Reg.HRL_DOM_S_SEC.addr d.val) = true)
  (hreq : r = s.hostTlp false ag (Reg.HRL_DOM_S_SEC.addr d.val))
include hr hreq

/-- Outside FREERUN a commit brings the sample to the domain as it stands. -/
theorem execPhaseSampleCommit_of_not_freerun (hst : (s.dom d.val).state ≠ .freerun) (v : Word) :
    ∃ far, execPhaseSampleCommit ag d v s = .next (r.domSample d.val (s.phaseSample d.val v) far) := by
  have hwords : r.words = s.words := hreq ▸ State.hostTlp_words ..
  have hacq : r.acquire d.val = r :=
    State.acquire_of_not_freerun (by rwa [hreq, State.dom_congr (State.hostTlp_hrl ..)])
  have he : r.phaseSample d.val v = s.phaseSample d.val v := by
    rw [State.phaseSample, State.word_congr hwords, State.rd_congr hwords, State.phaseSample]
  refine ⟨decide (v ≠ 0#32) || decide (1000000000 ≤ (fldInt (r.word (Reg.HRL_DOM_S_NS.addr d.val)) (Reg.HRL_DOM_S_NS.S_NS d.val)).natAbs),
    (congrArg ok (State.gate_reaches hr _)).trans ?_⟩
  rw [← hreq, ← he]
  simp only [hacq, ite_self, State.phaseSample]

end

theorem execPhaseSampleCommit_near {s : State} {ag : Agent} {d : Fin 2} {a : Nat} (hr : s.reaches ag (Reg.HRL_DOM_S_SEC.addr d.val) = true)
    (hs : (s.dom d.val).sampled = some a) (hn : s.now < a + 10000000) (hst : (s.dom d.val).state ≠ .freerun) (v : Word) :
    Completes (execPhaseSampleCommit ag d v s) (fun t => t.ctr (Cnt.HRL_REJECTED d.val) = (s.ctr (Cnt.HRL_REJECTED d.val)).add 1 ∧
      t.dom d.val = { s.dom d.val with sampled := some s.now }) := by
  generalize hreq : s.hostTlp false ag (Reg.HRL_DOM_S_SEC.addr d.val) = r
  obtain ⟨far, hexec⟩ := execPhaseSampleCommit_of_not_freerun hr hreq.symm hst v
  have hdom : r.dom d.val = s.dom d.val := State.dom_congr (hreq ▸ State.hostTlp_hrl ..) _
  have hnow : r.now = s.now := hreq ▸ State.hostTlp_now ..
  have hctrs : r.ctrs = s.ctrs := hreq ▸ State.hostTlp_ctrs ..
  rw [State.domSample_near (hdom ▸ hs) (hnow ▸ hn)] at hexec
  refine ⟨_, hexec, ?_, ?_⟩
  · rw [State.ctr_inc, if_pos rfl, State.ctr_congr (State.setDom_ctrs ..), State.ctr_congr hctrs]
  · rw [State.dom_congr (State.inc_hrl ..), State.dom_setDom_same, hdom, hnow]

theorem execPhaseSampleCommit_acquiring {s : State} {ag : Agent} {d : Fin 2} (hr : s.reaches ag (Reg.HRL_DOM_S_SEC.addr d.val) = true)
    (hs : (s.dom d.val).sampled = none) (hst : (s.dom d.val).state = .acquiring) (v : Word) :
    Completes (execPhaseSampleCommit ag d v s) (fun t => t.ctr (Cnt.HRL_SAMPLES d.val) = (s.ctr (Cnt.HRL_SAMPLES d.val)).add 1 ∧
      (t.dom d.val).state = .tracking ∧ (t.dom d.val).stepped = true ∧ t.domTime d.val = s.domTime d.val - s.phaseSample d.val v) := by
  generalize hreq : s.hostTlp false ag (Reg.HRL_DOM_S_SEC.addr d.val) = r
  obtain ⟨far, hexec⟩ := execPhaseSampleCommit_of_not_freerun hr hreq.symm (by simp [hst]) v
  have hdom : r.dom d.val = s.dom d.val := State.dom_congr (hreq ▸ State.hostTlp_hrl ..) _
  have hnow : r.now = s.now := hreq ▸ State.hostTlp_now ..
  have hctrs : r.ctrs = s.ctrs := hreq ▸ State.hostTlp_ctrs ..
  rw [State.domSample_acquiring (hdom ▸ hs) (hdom ▸ hst)] at hexec
  generalize hu : r.setDom d.val { r.dom d.val with sampled := some r.now } = u at hexec
  have hudom : u.dom d.val = { s.dom d.val with sampled := some s.now } := by rw [← hu, State.dom_setDom_same, hdom, hnow]
  have hunow : u.now = s.now := by rw [← hu, State.setDom_now, hnow]
  have hutime : u.domTime d.val = s.domTime d.val := by rw [State.domTime, hudom, hunow, State.domTime]
  have huctrs : u.ctrs = s.ctrs := by rw [← hu, State.setDom_ctrs, hctrs]
  obtain ⟨hctr, hstate, hstepped, htime⟩ := State.acceptSample_acquiring_effect (s := u) (by rw [hudom]; exact hst) (s.phaseSample d.val v)
  exact ⟨_, hexec, hctr.trans (by rw [State.ctr_congr huctrs]), hstate, hstepped, htime.trans (by rw [hutime])⟩

/-! DOMAIN_EN_WRITE (R368). -/

section
variable {s r : State} {ag : Agent} {d : Fin 2} {v : Word} (hr : s.reaches ag (Reg.HRL_DOM_CFG.addr d.val) = true)
  (hreq : r = (s.hostTlp false ag (Reg.HRL_DOM_CFG.addr d.val)).storeWord ag (Reg.HRL_DOM_CFG.addr d.val) v)
include hr hreq

/-- A domain whose source is PTP waits for the Steward's first sample. -/
theorem execDomainEnWrite_ptp (hen : r.bit (Reg.HRL_DOM_CFG.EN d.val) = true) (hsrc : r.domSrc d.val = 0) :
    execDomainEnWrite ag d v s = .next r := by
  refine (congrArg ok (State.gate_reaches hr _)).trans ?_
  dsimp only
  rw [← hreq]
  simp [hen, hsrc]

theorem execDomainEnWrite_off (hen : r.bit (Reg.HRL_DOM_CFG.EN d.val) = false) : Completes (execDomainEnWrite ag d v s) (fun t =>
    (t.dom d.val).state = .freerun ∧ (t.dom d.val).freq = 0 ∧ (t.dom d.val).stepped = false) := by
  refine ⟨_, congrArg ok (State.gate_reaches hr _), ?_⟩
  dsimp only
  rw [← hreq]
  simp only [hen, Bool.false_eq_true, if_false]
  split <;> simp [State.dom_autoSwitch, State.dom_setFreq_same, State.dom_setDomState_same]

end

/-! SOURCE_TIMEOUT (R368, R375). -/

/-- A domain that has lost its source holds the mean frequency; the loss is counted and raised. -/
def State.heldOver (s : State) (d : Nat) : State :=
  let m := s.meanFreq d
  let s1 := s.setFreq d m
  let s2 := (s1.setDom d { s1.dom d with i := m }).setDomState d .holdover
  ((s2.raise .TIME_SRC_LOST srcHrl (d * 2 ^ 32 + s2.domSrc d)).inc (Cnt.HRL_HOLDOVERS d)).onset .TIME_HOLDOVER srcHrl d (d * 2 ^ 32)

theorem State.dom_heldOver (s : State) (d : Nat) : (s.heldOver d).dom d = { s.dom d with
    base := s.domTime d, since := s.now, freq := s.meanFreq d, hist := (s.now, s.meanFreq d) :: (s.dom d).hist, i := s.meanFreq d,
    state := .holdover, lockRun := 0, outRun := 0 } := by
  have hhrl (u : State) (a b : Nat) (k k' : Kind) : (((u.raise k srcHrl a).inc b).onset k' srcHrl d (d * 2 ^ 32)).hrl = u.hrl := by simp
  rw [State.heldOver, State.dom_congr (hhrl ..), State.dom_setDomState_same, State.dom_setDom_same, State.dom_setFreq_same]

theorem State.ctr_heldOver (s : State) (d : Nat) :
    (s.heldOver d).ctr (Cnt.HRL_HOLDOVERS d) = (s.ctr (Cnt.HRL_HOLDOVERS d)).add 1 := by
  rw [State.heldOver, State.ctr_congr (State.onset_ctrs ..), State.ctr_inc, if_pos rfl]
  exact congrArg (Ctr.add · 1) (State.ctr_congr (by simp) _)

theorem State.now_heldOver (s : State) (d : Nat) : (s.heldOver d).now = s.now := by simp [State.heldOver]

theorem execSourceTimeout_lost {d : Fin 2} {s : State} (h : (s.dom d.val).state = .tracking ∨ (s.dom d.val).state = .locked) :
    execSourceTimeout d s = .next ((s.heldOver d.val).autoSwitch d.val) := by
  rcases h with h | h <;> simp only [execSourceTimeout, h, State.heldOver]

theorem execSourceTimeout_lost_effect {d : Fin 2} {s : State} (h : (s.dom d.val).state = .tracking ∨ (s.dom d.val).state = .locked) :
    Completes (execSourceTimeout d s) (fun t => (t.dom d.val).state = .holdover ∧ (t.dom d.val).freq = s.meanFreq d.val ∧
      t.domTime d.val = s.domTime d.val ∧ t.ctr (Cnt.HRL_HOLDOVERS d.val) = (s.ctr (Cnt.HRL_HOLDOVERS d.val)).add 1) := by
  have hdom := (State.dom_autoSwitch (s.heldOver d.val) d.val d.val).trans (s.dom_heldOver d.val)
  have htime : (s.heldOver d.val).domTime d.val = s.domTime d.val := by
    rw [State.domTime_of_since (by rw [s.dom_heldOver, s.now_heldOver]), s.dom_heldOver]
  refine ⟨_, execSourceTimeout_lost h, by rw [hdom], by rw [hdom], (State.domTime_autoSwitch ..).trans htime, ?_⟩
  have hne : Cnt.HRL_HOLDOVERS d.val ≠ Cnt.HRL_SWITCHES := by
    unfold Cnt.HRL_HOLDOVERS Cnt.HRL_SWITCHES
    omega
  rw [State.ctr_autoSwitch _ _ hne, s.ctr_heldOver]

theorem execSourceTimeout_acquiring {d : Fin 2} {s : State} (h : (s.dom d.val).state = .acquiring) :
    Completes (execSourceTimeout d s) (fun t => (t.dom d.val).state = .freerun) := by
  have hexec : execSourceTimeout d s = .next (((s.setDomState d.val .freerun).raise .TIME_SRC_LOST srcHrl
      (d.val * 2 ^ 32 + (s.setDomState d.val .freerun).domSrc d.val)).autoSwitch d.val) := by simp only [execSourceTimeout, h]
  refine ⟨_, hexec, ?_⟩
  dsimp only
  rw [State.dom_autoSwitch, State.dom_congr (State.raise_hrl ..), State.dom_setDomState_same]

theorem execSourceTimeout_idle {d : Fin 2} {s : State} (h : (s.dom d.val).state = .holdover ∨ (s.dom d.val).state = .freerun) :
    execSourceTimeout d s = .next s := by
  rcases h with h | h <;> simp only [execSourceTimeout, h]

/-! Stores of HRL_CTRL and HRL_DOM_CMD: OUT_SEL is no field that a store writes (Table 11-6). -/

theorem regAt_hrlCtrl : ∃ r n, regAt Reg.HRL_CTRL.addr = some (r, n) ∧ ∀ opened, 0x08000000#32 &&& r.writable opened = 0#32 ∧
    0x08000000#32 &&& (r.w1c ||| r.w1s) = 0#32 := ⟨_, _, rfl, by decide⟩

theorem regAt_hrlDomCmd (d : Fin 2) : ∃ r n, regAt (Reg.HRL_DOM_CMD.addr d.val) = some (r, n) := by
  fin_cases d <;> exact ⟨_, _, rfl⟩

theorem State.outSel_eq (s : State) : s.outSel = ((s.word Reg.HRL_CTRL.addr).getLsbD 27).toNat := (Nat.toNat_testBit ..).symm

theorem State.outSel_storeWord_ctrl (s : State) (ag : Agent) (v : Word) : (s.storeWord ag Reg.HRL_CTRL.addr v).outSel = s.outSel := by
  obtain ⟨r, n, hrow, hkept⟩ := regAt_hrlCtrl
  obtain ⟨hm, hc⟩ := hkept (s.lockOpen Reg.HRL_CTRL.addr)
  have hbit := congrArg (·.getLsbD 27) (storedWord_and_kept hm hc (s.word Reg.HRL_CTRL.addr) v)
  rw [State.outSel_eq, State.outSel_eq, State.word_storeWord_same hrow]
  exact congrArg Bool.toNat (by simpa [RegRow.stored] using hbit)

theorem State.outSel_storeWord_domCmd (s : State) (ag : Agent) (d : Fin 2) (v : Word) :
    (s.storeWord ag (Reg.HRL_DOM_CMD.addr d.val) v).outSel = s.outSel := by
  obtain ⟨r, n, hrow⟩ := regAt_hrlDomCmd d
  have hne : Reg.HRL_CTRL.addr ≠ Reg.HRL_DOM_CMD.addr d.val := by
    unfold Reg.HRL_CTRL.addr Reg.HRL_DOM_CMD.addr
    omega
  exact State.rd_congr_word (State.word_storeWord_of_ne hrow ag hne (by decide) (by decide) (by decide))

/-! REACQUIRE (R368, R374). -/

section
variable {s : State} {ag : Agent} {d : Fin 2} (hr : s.reaches ag (Reg.HRL_DOM_CMD.addr d.val) = true)
include hr

theorem execReacquire_effect (v : Word) : Completes (execReacquire ag d v s) (fun t =>
    if s.outSel = d.val then t.rd (Reg.HRL_DOM_CMD.CODE d.val) = 1 ∧ t.dom d.val = s.dom d.val
    else t.rd (Reg.HRL_DOM_CMD.CODE d.val) = 0 ∧ (t.dom d.val).state = .freerun) := by
  generalize hreq : (s.hostTlp false ag (Reg.HRL_DOM_CMD.addr d.val)).storeWord ag (Reg.HRL_DOM_CMD.addr d.val) v = r
  have hsel : r.outSel = s.outSel := by
    rw [← hreq, State.outSel_storeWord_domCmd, State.outSel_congr (State.hostTlp_words ..)]
  have hcode (n : Nat) : (r.wr (Reg.HRL_DOM_CMD.CODE d.val) n).rd (Reg.HRL_DOM_CMD.CODE d.val) = n % 2 ^ 4 := State.rd_wr _ _ _ (by simp)
  refine ⟨_, congrArg ok (State.gate_reaches hr _), ?_⟩
  rw [hreq]
  simp only [hsel]
  split
  · refine ⟨hcode 1, ?_⟩
    rw [State.dom_congr (State.wr_hrl ..), ← hreq, State.dom_congr (State.storeWord_hrl ..), State.dom_congr (State.hostTlp_hrl ..)]
  · split
    · next hfree => exact ⟨hcode 0, hfree⟩
    · refine ⟨?_, by rw [State.dom_setDom_same, State.dom_setDomState_same]⟩
      exact (State.setDom_rd ..).trans ((State.setDomState_rd ..).trans (hcode 0))

end

/-! SWITCH, OUT_STEP and WTR_EXPIRY (R373 to R375). -/

section
variable {s r : State} {ag : Agent} {v : Word} (hr : s.reaches ag Reg.HRL_CTRL.addr = true)
  (hreq : r = (s.hostTlp false ag Reg.HRL_CTRL.addr).storeWord ag Reg.HRL_CTRL.addr v)
include hr hreq

theorem execSwitchOutput_eq : execSwitchOutput ag v s = .next (r.switchOut (1 - r.outSel)) := by
  refine (congrArg ok (State.gate_reaches hr _)).trans ?_
  rw [← hreq, ← State.outSel_storeWord_ctrl _ ag v, ← hreq]

theorem execSwitchOutput_effect : Completes (execSwitchOutput ag v s) (fun t => t.outSel = 1 - r.outSel ∧ t.outTime = r.outTime ∧
    t.ctr Cnt.HRL_SWITCHES = (r.ctr Cnt.HRL_SWITCHES).add 1) := by
  have hlt : 1 - r.outSel < 2 := by omega
  exact ⟨_, execSwitchOutput_eq hr hreq, r.outSel_switchOut hlt, r.outTime_switchOut hlt, (r.ctr_switchOut ..).trans (if_pos rfl)⟩

/-- OFS is set to 0 at the present count, and a jump moves neither. -/
theorem execOutStep_effect : Completes (execOutStep ag v s) (fun t =>
    t.ofsNow = 0 ∧ t.hrl.domA = s.hrl.domA ∧ t.hrl.domB = s.hrl.domB ∧ t.words = r.words) := by
  refine ⟨_, congrArg ok (State.gate_reaches hr _), ?_⟩
  dsimp only
  have hhrl : r.hrl = s.hrl := by rw [hreq, State.storeWord_hrl, State.hostTlp_hrl]
  rw [← hreq, hhrl]
  generalize hu : ({ r with hrl := { s.hrl with ofs := 0, ofsAt := r.now } } : State) = u
  obtain ⟨hzero, hat, hA, hB, hwords⟩ : u.hrl.ofs = 0 ∧ u.hrl.ofsAt = u.now ∧ u.hrl.domA = s.hrl.domA ∧ u.hrl.domB = s.hrl.domB ∧
      u.words = r.words := by
    rw [← hu]
    exact ⟨rfl, rfl, rfl, rfl, rfl⟩
  split
  · exact ⟨(State.ofsNow_of_ofsAt hat).trans hzero, hA, hB, hwords⟩
  · generalize hv : u.timeStepped true u.outSel (-(s.hostTlp false ag Reg.HRL_CTRL.addr).ofsNow) = w
    obtain ⟨hw, -, hn⟩ : w.words = u.words ∧ w.ctrs = u.ctrs ∧ w.now = u.now := hv ▸ u.timeStepped_parts ..
    have hwhrl : w.hrl = { u.hrl with ann := w.hrl.ann } := hv ▸ u.timeStepped_hrl ..
    refine ⟨?_, (congrArg Hrl.domA hwhrl).trans hA, (congrArg Hrl.domB hwhrl).trans hB, hw.trans hwords⟩
    have hwat : w.hrl.ofsAt = w.now := (congrArg Hrl.ofsAt hwhrl).trans (hat.trans hn.symm)
    exact (State.ofsNow_of_ofsAt hwat).trans ((congrArg Hrl.ofs hwhrl).trans hzero)

end

theorem execWtrExpiry_reverts {s : State} (hrev : s.bit Reg.HRL_CTRL.REVERT = true) (hsel : s.outSel ≠ s.rd Reg.HRL_CTRL.PREF)
    (hlock : (s.dom (s.rd Reg.HRL_CTRL.PREF)).state = .locked) :
    Completes (execWtrExpiry s) (fun t => t.outSel = s.rd Reg.HRL_CTRL.PREF ∧ t.outTime = s.outTime) := by
  have hlt : s.rd Reg.HRL_CTRL.PREF < 2 := Nat.mod_lt _ (by decide)
  exact ⟨_, congrArg ok (if_pos (by simp [hrev, hsel, hlock])), s.outSel_switchOut hlt, s.outTime_switchOut hlt⟩

theorem execWtrExpiry_idle {s : State} (h : s.bit Reg.HRL_CTRL.REVERT = false ∨ s.outSel = s.rd Reg.HRL_CTRL.PREF) :
    execWtrExpiry s = .next s :=
  congrArg ok (if_neg (by rcases h with h | h <;> simp [h]))

/-- Settles O35, command by command: the two ends of EN, a rejected and a stepping sample, the loss of a source by the domain's state, the
refused and the taken REACQUIRE, and the switches and the jump of the output time. -/
theorem timeDomains : Obligations.TimeDomains := by
  refine ⟨?enable, ?near, ?first, ?lost, ?unacquired, ?held, ?reacquire, ?output, ?revert, ?stays⟩
  case enable =>
    intro ag d v s hr r hreq
    by_cases hptp : r.bit (Reg.HRL_DOM_CFG.EN d.val) = true ∧ r.domSrc d.val = 0
    · obtain ⟨hen, hsrc⟩ := hptp
      exact ⟨r, execDomainEnWrite_ptp hr hreq hen hsrc, by simp [hen, hsrc]⟩
    · simp only [if_neg hptp]
      cases hen : r.bit (Reg.HRL_DOM_CFG.EN d.val) with
      | true => exact ⟨_, rfl, fun h => absurd h (by simp)⟩
      | false =>
        obtain ⟨t, ht, heffect⟩ := execDomainEnWrite_off hr hreq hen
        exact ⟨t, ht, fun _ => heffect⟩
  case near => exact fun ag d v a s hr hs hn hst => execPhaseSampleCommit_near hr hs hn (by simp [hst]) v
  case first => exact fun ag d v s hr hs hst => execPhaseSampleCommit_acquiring hr hs hst v
  case lost => exact fun d s h => execSourceTimeout_lost_effect h
  case unacquired => exact fun d s h => execSourceTimeout_acquiring h
  case held => exact fun d s h => execSourceTimeout_idle h
  case reacquire => exact fun ag d v s hr => execReacquire_effect hr v
  case output => exact fun ag v s hr r hreq => ⟨execSwitchOutput_effect hr hreq, execOutStep_effect hr hreq⟩
  case revert => exact fun s hrev hsel hlock => execWtrExpiry_reverts hrev hsel hlock
  case stays => exact fun s h => execWtrExpiry_idle h

end Sys2Proof.Machine

/-! SUPPORT. Pins, records and announcements of the Horologer (11_time_and_synchronization.md R378 to R387): what the inputs, the counters and
the records read after an edge, a message, a read, an announcement and a squelch. -/

namespace Sys2Proof.Machine

set_option autoImplicit false

/-! Inputs after an update. -/

@[simp] theorem State.ppsIn_setPpsIn_same (s : State) (i : Nat) (x : PpsIn) : (s.setPpsIn i x).ppsIn i = x := by
  by_cases hi : i = 0 <;> simp [State.setPpsIn, State.ppsIn, hi]

theorem State.ppsIn_congr {t s : State} (h : t.hrl = s.hrl) (i : Nat) : t.ppsIn i = s.ppsIn i := by
  simp only [State.ppsIn, h]

/-- An input is kept apart from the domains. -/
theorem State.setPpsIn_doms (s : State) (i : Nat) (x : PpsIn) :
    (s.setPpsIn i x).hrl.domA = s.hrl.domA ∧ (s.setPpsIn i x).hrl.domB = s.hrl.domB := by
  unfold State.setPpsIn
  split <;> exact ⟨rfl, rfl⟩

/-! A sample of a domain leaves the inputs and counts nothing but samples (R370, R371). -/

/-- The inputs and the counters. -/
def State.pinsAndCounts (s : State) : PpsIn × PpsIn × Tab Ctr := (s.hrl.in0, s.hrl.in1, s.ctrs)

theorem State.pinsAndCounts_congr {t s : State} (hh : t.hrl = s.hrl) (hc : t.ctrs = s.ctrs) : t.pinsAndCounts = s.pinsAndCounts := by
  simp only [State.pinsAndCounts, hh, hc]

theorem State.ppsIn_of_pins {t s : State} (h : t.pinsAndCounts = s.pinsAndCounts) (i : Nat) : t.ppsIn i = s.ppsIn i := by
  obtain ⟨h0, h1, -⟩ : t.hrl.in0 = s.hrl.in0 ∧ t.hrl.in1 = s.hrl.in1 ∧ t.ctrs = s.ctrs := by simpa [State.pinsAndCounts] using h
  simp only [State.ppsIn, h0, h1]

theorem State.ctrs_of_pins {t s : State} (h : t.pinsAndCounts = s.pinsAndCounts) : t.ctrs = s.ctrs := congrArg (·.2.2) h

@[simp] theorem State.setDom_pins (s : State) (d : Nat) (x : Dom) : (s.setDom d x).pinsAndCounts = s.pinsAndCounts := by
  unfold State.setDom
  split <;> rfl

@[simp] theorem State.setFreq_pins (s : State) (d : Nat) (f : Int) : (s.setFreq d f).pinsAndCounts = s.pinsAndCounts := State.setDom_pins ..

@[simp] theorem State.endCause_pins (s : State) (k : Kind) (src : Source) (sub : Nat) :
    (s.endCause k src sub).pinsAndCounts = s.pinsAndCounts := rfl

@[simp] theorem State.onset_pins (s : State) (k : Kind) (src : Source) (sub a : Nat) :
    (s.onset k src sub a).pinsAndCounts = s.pinsAndCounts := rfl

@[simp] theorem State.wr_pins (s : State) (f : Fld) (v : Nat) : (s.wr f v).pinsAndCounts = s.pinsAndCounts := rfl

@[simp] theorem State.setDomState_pins (s : State) (d : Nat) (x : DomState) : (s.setDomState d x).pinsAndCounts = s.pinsAndCounts := by
  unfold State.setDomState
  split <;> simp

@[simp] theorem State.acquire_pins (s : State) (d : Nat) : (s.acquire d).pinsAndCounts = s.pinsAndCounts := by
  unfold State.acquire
  split <;> simp

theorem State.timeStepped_pins (s : State) (jump : Bool) (d : Nat) (step : Int) :
    (s.timeStepped jump d step).pinsAndCounts = s.pinsAndCounts := by
  obtain ⟨-, hctrs, -⟩ := s.timeStepped_parts jump d step
  rw [State.pinsAndCounts, State.timeStepped_hrl, hctrs, State.pinsAndCounts]

/-- Whatever its state, a domain that accepts a sample counts it and touches no input. -/
theorem State.acceptSample_pins (s : State) (d : Nat) (e : Int) :
    (s.acceptSample d e).pinsAndCounts = (s.inc (Cnt.HRL_SAMPLES d)).pinsAndCounts := by
  cases h : (s.dom d).state with
  | freerun => simp [State.acceptSample, h]
  | acquiring => simp [State.acceptSample_acquiring h, State.timeStepped_pins, State.stepDom]
  | tracking | locked | holdover =>
    simp only [State.acceptSample, h]
    split_ifs <;> simp

/-- A sample is rejected or accepted (R370). -/
theorem State.domSample_cases (s : State) (d : Nat) (e : Int) (far : Bool) :
    s.domSample d e far = (s.setDom d { s.dom d with sampled := some s.now }).inc (Cnt.HRL_REJECTED d) ∨
    s.domSample d e far = (s.setDom d { s.dom d with sampled := some s.now }).acceptSample d e := ite_eq_or_eq ..

theorem State.domSample_aside (s : State) (d : Nat) (e : Int) (far : Bool) (i : Nat) {c : Nat} (hs : c ≠ Cnt.HRL_SAMPLES d)
    (hr : c ≠ Cnt.HRL_REJECTED d) : (s.domSample d e far).ppsIn i = s.ppsIn i ∧ (s.domSample d e far).ctr c = s.ctr c := by
  have hcases := s.domSample_cases d e far
  generalize hu : s.setDom d { s.dom d with sampled := some s.now } = u at hcases
  have hpins : u.pinsAndCounts = s.pinsAndCounts := hu ▸ State.setDom_pins ..
  have hinc {k : Nat} (hk : c ≠ k) : (u.inc k).ppsIn i = s.ppsIn i ∧ (u.inc k).ctr c = s.ctr c := by
    rw [State.ppsIn_congr (State.inc_hrl ..), State.ctr_inc, if_neg hk, State.ctr_congr (State.ctrs_of_pins hpins)]
    exact ⟨State.ppsIn_of_pins hpins i, rfl⟩
  rcases hcases with h | h
  · rw [h]
    exact hinc hr
  · have haccept := u.acceptSample_pins d e
    rw [h, State.ppsIn_of_pins haccept, State.ctr_congr (State.ctrs_of_pins haccept)]
    exact hinc hs

/-! PPS_IN_EDGE and PPS_MISSED (R380). -/

theorem execPpsInEdge_unnamed {i : Fin 2} {s : State} (h : (s.ppsIn i.val).tod = none) : Completes (execPpsInEdge i s) (fun t =>
    (t.ppsIn i.val).edge = some s.now ∧ (t.ppsIn i.val).run = 0 ∧ (t.ppsIn i.val).sec = none ∧
    t.ctr (Cnt.HRL_TOD_ERR i.val) = (s.ctr (Cnt.HRL_TOD_ERR i.val)).add 1 ∧ t.hrl.domA = s.hrl.domA ∧ t.hrl.domB = s.hrl.domB) := by
  generalize hu : (s.inc (Cnt.HRL_PPS_EDGES i.val)).setPpsIn i.val { s.ppsIn i.val with edge := some s.now, run := 0, sec := none } = u
  have hexec : execPpsInEdge i s = .next ((u.inc (Cnt.HRL_TOD_ERR i.val)).raise .TOD_MSG_ERR srcHrl (10 + i.val)) := by
    simp only [execPpsInEdge, h, ← hu]
  have hhrl : ((u.inc (Cnt.HRL_TOD_ERR i.val)).raise .TOD_MSG_ERR srcHrl (10 + i.val)).hrl = u.hrl := by simp
  have hin : u.ppsIn i.val = { s.ppsIn i.val with edge := some s.now, run := 0, sec := none } := hu ▸ State.ppsIn_setPpsIn_same ..
  have hctr : u.ctr (Cnt.HRL_TOD_ERR i.val) = s.ctr (Cnt.HRL_TOD_ERR i.val) := by
    have hne : Cnt.HRL_TOD_ERR i.val ≠ Cnt.HRL_PPS_EDGES i.val := by
      unfold Cnt.HRL_TOD_ERR Cnt.HRL_PPS_EDGES
      omega
    rw [← hu, State.ctr_congr (State.setPpsIn_ctrs ..), State.ctr_inc, if_neg hne]
  obtain ⟨hA, hB⟩ : u.hrl.domA = s.hrl.domA ∧ u.hrl.domB = s.hrl.domB := by
    rw [← hu, ← State.inc_hrl s (Cnt.HRL_PPS_EDGES i.val)]
    exact State.setPpsIn_doms ..
  refine ⟨_, hexec, ?_⟩
  dsimp only
  rw [State.ppsIn_congr hhrl, hhrl, hin, State.ctr_congr (State.raise_ctrs ..), State.ctr_inc, if_pos rfl, hctr]
  exact ⟨rfl, rfl, rfl, rfl, hA, hB⟩

/-- What an edge of input `i` brings to domain `d`: nothing where the domain has another source. -/
def State.edgeSample (s : State) (i sec run d : Nat) : State :=
  if s.domSrc d = i + 1 then
    let s2 := if 3 ≤ run then s.acquire d else s
    let e := s2.domTime d - ((s2.rd Reg.HRL_PPS_CFG.PPS_IN_DLY : Int) + (sec : Int) * 1000000000) * fracUnit
    s2.domSample d e (decide (1000000000 * fracUnit ≤ e.natAbs))
  else s

theorem State.edgeSample_aside (s : State) (i sec run j : Nat) {d c : Nat} (hs : c ≠ Cnt.HRL_SAMPLES d) (hr : c ≠ Cnt.HRL_REJECTED d) :
    (s.edgeSample i sec run d).ppsIn j = s.ppsIn j ∧ (s.edgeSample i sec run d).ctr c = s.ctr c := by
  have hpins : (if 3 ≤ run then s.acquire d else s).pinsAndCounts = s.pinsAndCounts := by split <;> simp
  unfold State.edgeSample
  split
  · dsimp only
    generalize (if 3 ≤ run then s.acquire d else s) = u at hpins
    obtain ⟨hin, hctr⟩ := u.domSample_aside d _ _ j hs hr
    exact ⟨hin.trans (State.ppsIn_of_pins hpins j), hctr.trans (State.ctr_congr (State.ctrs_of_pins hpins) c)⟩
  · exact ⟨rfl, rfl⟩

theorem execPpsInEdge_eq {i : Fin 2} {n : Nat} {s : State} (h : (s.ppsIn i.val).tod = some n) : ∃ run, execPpsInEdge i s =
    .next ([0, 1].foldl (fun u d => u.edgeSample i.val n run d)
      ((s.inc (Cnt.HRL_PPS_EDGES i.val)).setPpsIn i.val ⟨some s.now, none, some n, run⟩)) := by
  simp only [execPpsInEdge, h]
  exact ⟨_, rfl⟩

/-- An edge takes the second its message named; the samples it commits leave the input and its count. -/
theorem execPpsInEdge_named {i : Fin 2} {n : Nat} {s : State} (h : (s.ppsIn i.val).tod = some n) : Completes (execPpsInEdge i s) (fun t =>
    (t.ppsIn i.val).edge = some s.now ∧ (t.ppsIn i.val).tod = none ∧ (t.ppsIn i.val).sec = some n ∧
    t.ctr (Cnt.HRL_PPS_EDGES i.val) = (s.ctr (Cnt.HRL_PPS_EDGES i.val)).add 1) := by
  obtain ⟨run, hexec⟩ := execPpsInEdge_eq h
  generalize hu : (s.inc (Cnt.HRL_PPS_EDGES i.val)).setPpsIn i.val ⟨some s.now, none, some n, run⟩ = u at hexec
  have hin : u.ppsIn i.val = ⟨some s.now, none, some n, run⟩ := hu ▸ State.ppsIn_setPpsIn_same ..
  have hctr : u.ctr (Cnt.HRL_PPS_EDGES i.val) = (s.ctr (Cnt.HRL_PPS_EDGES i.val)).add 1 := by
    rw [← hu, State.ctr_congr (State.setPpsIn_ctrs ..), State.ctr_inc, if_pos rfl]
  have hfold := foldl_reading (fun v : State => (v.ppsIn i.val, v.ctr (Cnt.HRL_PPS_EDGES i.val)))
    (fun v d => v.edgeSample i.val n run d) [0, 1] u (fun v d hd => by
      have hmem : d = 0 ∨ d = 1 := by simpa using hd
      have hs : Cnt.HRL_PPS_EDGES i.val ≠ Cnt.HRL_SAMPLES d := by
        unfold Cnt.HRL_PPS_EDGES Cnt.HRL_SAMPLES
        omega
      have hr : Cnt.HRL_PPS_EDGES i.val ≠ Cnt.HRL_REJECTED d := by
        unfold Cnt.HRL_PPS_EDGES Cnt.HRL_REJECTED
        omega
      obtain ⟨hin, hctr⟩ := v.edgeSample_aside i.val n run i.val hs hr
      exact Prod.ext hin hctr)
  obtain ⟨hfin, hfctr⟩ := Prod.mk.inj hfold
  refine ⟨_, hexec, ?_⟩
  dsimp only
  rw [hfin, hfctr, hin]
  exact ⟨rfl, rfl, rfl, hctr⟩

theorem execPpsMissed_effect (i : Fin 2) (s : State) : Completes (execPpsMissed i s) (fun t => t.ppsIn i.val = { s.ppsIn i.val with run := 0 } ∧
    t.ctr (Cnt.HRL_PPS_MISSED i.val) = (s.ctr (Cnt.HRL_PPS_MISSED i.val)).add 1 ∧ t.words = s.words) := by
  refine ⟨_, rfl, ?_, ?_, by simp⟩
  · rw [State.ppsIn_congr (State.raise_hrl ..), State.ppsIn_congr (State.inc_hrl ..), State.ppsIn_setPpsIn_same]
  · rw [State.ctr_congr (State.raise_ctrs ..), State.ctr_inc, if_pos rfl, State.ctr_congr (State.setPpsIn_ctrs ..)]

/-! TOD_MESSAGE_RX and the outputs (R380, R381, Table 11-2). -/

theorem execTodMessageRx_bad {b : List Byte} (h : beNat (sliceZ b 0 2) ≠ 0x4E57 ∨ crc16 (sliceZ b 0 14) ≠ beNat (sliceZ b 14 2))
    (i : Fin 2) (s : State) : Completes (execTodMessageRx i b s) (fun t => t.ppsIn i.val = { s.ppsIn i.val with tod := none } ∧
      t.ctr (Cnt.HRL_TOD_ERR i.val) = (s.ctr (Cnt.HRL_TOD_ERR i.val)).add 1) := by
  generalize hu : (s.setPpsIn i.val { s.ppsIn i.val with tod := none }).inc (Cnt.HRL_TOD_ERR i.val) = u
  have hin : u.ppsIn i.val = { s.ppsIn i.val with tod := none } := by
    rw [← hu, State.ppsIn_congr (State.inc_hrl ..), State.ppsIn_setPpsIn_same]
  have hctr : u.ctr (Cnt.HRL_TOD_ERR i.val) = (s.ctr (Cnt.HRL_TOD_ERR i.val)).add 1 := by
    rw [← hu, State.ctr_inc, if_pos rfl, State.ctr_congr (State.setPpsIn_ctrs ..)]
  have herr (c : Nat) (hc : execTodMessageRx i b s = .next (u.raise .TOD_MSG_ERR srcHrl (c * 2 + i.val))) :
      Completes (execTodMessageRx i b s) (fun t => t.ppsIn i.val = { s.ppsIn i.val with tod := none } ∧
        t.ctr (Cnt.HRL_TOD_ERR i.val) = (s.ctr (Cnt.HRL_TOD_ERR i.val)).add 1) :=
    ⟨_, hc, (State.ppsIn_congr (State.raise_hrl ..) _).trans hin, (State.ctr_congr (State.raise_ctrs ..) _).trans hctr⟩
  by_cases hsync : beNat (sliceZ b 0 2) ≠ 0x4E57
  · exact herr 1 (hu ▸ congrArg ok (if_pos hsync))
  · exact herr 2 (hu ▸ congrArg ok ((if_neg hsync).trans (if_pos (h.resolve_left hsync))))

theorem execTodMessageRx_valid {b : List Byte} (hsync : beNat (sliceZ b 0 2) = 0x4E57) (hcrc : crc16 (sliceZ b 0 14) = beNat (sliceZ b 14 2))
    (hvalid : (b.getD 3 0).getLsbD 0 = true) {i : Fin 2} {e : Nat} {s : State} (he : (s.ppsIn i.val).edge = some e)
    (hlo : e + 10000000 ≤ s.now) (hhi : s.now ≤ e + 900000000) :
    execTodMessageRx i b s = .next (s.setPpsIn i.val { s.ppsIn i.val with tod := some (beNat (sliceZ b 4 6)) }) := by
  have hgap : ¬ (s.now - e < 10000000 ∨ 900000000 < s.now - e) := by omega
  refine congrArg ok ((if_neg (not_not.2 hsync)).trans ((if_neg (not_not.2 hcrc)).trans ((if_neg ?_).trans (if_neg ?_))))
  · rw [hvalid]
    exact Bool.false_ne_true
  · simpa only [he, Option.isNone_some, Bool.false_eq_true, false_or] using hgap

theorem leBytes_length (n v : Nat) : (leBytes n v).length = n := by
  induction n generalizing v with
  | zero => rfl
  | succ n ih => simp [leBytes, ih]

theorem beBytes_length (n v : Nat) : (beBytes n v).length = n := by
  rw [beBytes, List.length_reverse, leBytes_length]

/-- The first bytes of a string that begins with them. -/
theorem sliceZ_append {l m : List Byte} {n : Nat} (h : l.length = n) : sliceZ (l ++ m) 0 n = l := by
  simp [sliceZ, ← h]

/-- A message of the ToD output begins with the sync bytes. -/
theorem execTodOutSend_on {s : State} (h : s.bit Reg.HRL_PPS_CFG.OUT_EN = true) : ∃ m, m.length = 14 ∧
    execTodOutSend s = .next { s with hrl := { s.hrl with todOut := beBytes 2 0x4E57 ++ m } } := by
  simp only [execTodOutSend, h, if_true, List.append_assoc]
  exact ⟨_, by simp [beBytes_length], rfl⟩

theorem execTodOutSend_off {s : State} (h : s.bit Reg.HRL_PPS_CFG.OUT_EN = false) : execTodOutSend s = .next s :=
  congrArg ok (if_neg (by simp [h]))

/-! TS_RECORD_READ (R378). -/

theorem State.rdata_answer (s : State) (ag : Agent) (w : Word) : Tab.get (fun _ => 0#32) (s.answer ag w).rdata ag.code = w :=
  Tab.get_set_same ..

/-- The words latched behind word 0 of a record. -/
def State.latchWords (s : State) (a : Nat) (l : List Word) : State :=
  l.zipIdx.foldl (fun s x => s.setLatch (a + 4 + x.2 * 4) x.1) s

theorem State.latchWords_hrl (s : State) (a : Nat) (l : List Word) : (s.latchWords a l).hrl = s.hrl :=
  foldl_reading State.hrl _ _ _ fun _ _ _ => State.setLatch_hrl ..

theorem execTsRecordRead_oldest {s : State} {r : TsRec} {l : List TsRec} (h : s.hrl.tsRx = r :: l) :
    Completes (execTsRecordRead .steward false s) (fun t => t.hrl.tsRx = l ∧ t.hrl.tsTx = s.hrl.tsTx ∧
      Tab.get (fun _ => 0#32) t.rdata Agent.steward.code =
        BitVec.ofNat 32 (2 ^ 31 + r.lane * 2 ^ 21 + r.mtype * 2 ^ 17 + r.dom * 2 ^ 16 + r.seq)) := by
  generalize hu : ({ s with hrl := { s.hrl with tsRx := l } } : State) = u
  have hexec : execTsRecordRead .steward false s = .next ((u.latchWords Reg.HRL_TS_RX_W0.addr (timeWords r.time)).answer .steward
      (BitVec.ofNat 32 (2 ^ 31 + r.lane * 2 ^ 21 + r.mtype * 2 ^ 17 + r.dom * 2 ^ 16 + r.seq))) := by
    simp only [execTsRecordRead, Bool.false_eq_true, if_false, h, ← hu]
    rfl
  refine ⟨_, hexec, ?_⟩
  dsimp only
  rw [State.answer_hrl, State.latchWords_hrl, ← hu]
  exact ⟨rfl, rfl, State.rdata_answer ..⟩

theorem execTsRecordRead_empty {s : State} (h : s.hrl.tsTx = []) : Completes (execTsRecordRead .pf true s) (fun t =>
    t.hrl = s.hrl ∧ Tab.get (fun _ => 0#32) t.rdata Agent.pf.code = 0#32) := by
  have hexec : execTsRecordRead .pf true s =
      .next ((s.latchWords Reg.HRL_TS_TX_W0.addr [0#32, 0#32, 0#32, 0#32]).answer .pf 0#32) := by
    simp only [execTsRecordRead, if_true, h]
    rfl
  exact ⟨_, hexec, (State.answer_hrl ..).trans (State.latchWords_hrl ..), State.rdata_answer ..⟩

/-! TOD_ANNOUNCE (R383). -/

/-- The frame an announcement names: the first of a superframe ANN_LEAD or more ahead. -/
def State.annFrame (s : State) (p : Fin 32) : Nat := ((s.port p).sfc + max 16 (s.rd Reg.HRL_TOD_CFG.ANN_LEAD) + 7) / 8 * 8

theorem execTodAnnounce_due {p : Fin 32} {i : Fin 256} {s : State} (hen : s.bit Reg.HRL_TOD_CFG.EN = true)
    (hnode : s.todEn (slotKey p i.val) = true) (hst : (s.slot p i.val).state = .active) (hstw : s.stewards p = true)
    (hdue : s.annDue p (slotKey p i.val) = true) : Completes (execTodAnnounce p i s) (fun t =>
      t.ctr Cnt.HRL_ANNOUNCES = (s.ctr Cnt.HRL_ANNOUNCES).add 1 ∧
      ∃ f, Tab.get (fun _ => (0, 0, 0)) t.hrl.ann (slotKey p i.val) = ((s.port p).sfc, f, s.tSend p f) ∧ f % 8 = 0 ∧ (s.port p).sfc + 16 ≤ f) := by
  refine ⟨_, congrArg ok (if_pos (by simp [hen, hnode, hst, hstw, hdue])), (State.ctr_inc ..).trans (if_pos rfl), s.annFrame p, ?_,
    Nat.mul_mod_left .., ?_⟩
  · rw [State.inc_hrl]
    exact Tab.get_set_same ..
  · rw [State.annFrame]
    omega

theorem execTodAnnounce_idle {p : Fin 32} {i : Fin 256} {s : State} (h : s.bit Reg.HRL_TOD_CFG.EN = false ∨ (s.slot p i.val).state ≠ .active ∨
    s.annDue p (slotKey p i.val) = false) : execTodAnnounce p i s = .next s :=
  congrArg ok (if_neg (by rcases h with h | h | h <;> simp [h]))

/-! PON_FREQ_MEASURE, SYNCE_SQUELCH and SYNCE_RESUME (R382, R384, R387). -/

theorem execPonFreqMeasure_effect (y : BitVec 32) (s : State) :
    Completes (execPonFreqMeasure y s) (fun t => t.rd Reg.HRL_PON_FREQ.Y = y.toNat ∧ t.hrl = s.hrl) := by
  have hy : (s.wr Reg.HRL_PON_FREQ.Y y.toNat).rd Reg.HRL_PON_FREQ.Y = y.toNat :=
    (State.rd_wr _ _ _ (by decide)).trans (Nat.mod_eq_of_lt y.isLt)
  refine ⟨_, rfl, ?_⟩
  split
  · exact ⟨(State.onset_rd ..).trans hy, (State.onset_hrl ..).trans (State.wr_hrl ..)⟩
  · exact ⟨(State.endCause_rd ..).trans hy, (State.endCause_hrl ..).trans (State.wr_hrl ..)⟩

theorem execSynceSquelch_first {s : State} (hen : s.bit Reg.HRL_SYNCE_CFG.EN0 = true) (hopen : s.hrl.squelch0 = false) :
    Completes (execSynceSquelch 0 s) (fun t => t.hrl = { s.hrl with squelch0 := true } ∧
      t.ctr Cnt.HRL_SQUELCHES = (s.ctr Cnt.HRL_SQUELCHES).add 1) := by
  refine ⟨_, congrArg ok (if_neg (by simp [synceFld, hen, hopen])), (State.onset_hrl ..).trans (State.inc_hrl ..), ?_⟩
  rw [State.ctr_congr (State.onset_ctrs ..), State.ctr_inc, if_pos rfl]
  rfl

theorem execSynceSquelch_idle {s : State} (h : s.bit Reg.HRL_SYNCE_CFG.EN1 = false ∨ s.hrl.squelch1 = true) :
    execSynceSquelch 1 s = .next s :=
  congrArg ok (if_pos (by rcases h with h | h <;> simp [synceFld, h]))

theorem execSynceResume_effect (s : State) : Completes (execSynceResume 0 s) (fun t =>
    if s.bit Reg.HRL_SYNCE_CFG.SQ_FORCE0 = true then t = s else t.hrl = { s.hrl with squelch0 := false } ∧ t.ctrs = s.ctrs) := by
  by_cases h : s.bit Reg.HRL_SYNCE_CFG.SQ_FORCE0 = true
  · exact ⟨s, congrArg ok (if_pos h), (if_pos h).mpr rfl⟩
  · exact ⟨_, congrArg ok (if_neg h), (if_neg h).mpr ⟨rfl, rfl⟩⟩

/-- Settles O36, command by command: edges and messages of the pins, the outputs, reads of the records, announcements, and the frequency and
SyncE outputs. -/
theorem timePinsAndRecords : Obligations.TimePinsAndRecords := by
  refine ⟨?unnamed, ?named, ?missed, ?badTod, ?goodTod, ?ppsOut, ?todOn, ?todOff, ?vf, ?oldest, ?empty, ?due, ?notDue, ?freq, ?squelch, ?squelched,
    ?resume⟩
  case unnamed => exact fun i s h => execPpsInEdge_unnamed h
  case named => exact fun i n s h => execPpsInEdge_named h
  case missed => exact execPpsMissed_effect
  case badTod => exact fun i b s h => execTodMessageRx_bad h i s
  case goodTod => exact fun i b e s hsync hcrc hvalid he hlo hhi => execTodMessageRx_valid hsync hcrc hvalid he hlo hhi
  case ppsOut => exact fun s => rfl
  case todOn =>
    intro s h
    obtain ⟨m, hm, hexec⟩ := execTodOutSend_on h
    have hlen := beBytes_length 2 0x4E57
    exact ⟨_, hexec, by simp [hlen, hm], (congrArg beNat (sliceZ_append hlen)).trans (by decide), rfl, rfl⟩
  case todOff => exact fun s h => execTodOutSend_off h
  case vf =>
    rintro n x s a rfl
    rfl
  case oldest => exact fun r l s h => execTsRecordRead_oldest h
  case empty => exact fun s h => execTsRecordRead_empty h
  case due => exact fun p i s hen hnode hst hstw hdue => execTodAnnounce_due hen hnode hst hstw hdue
  case notDue => exact fun p i s h => execTodAnnounce_idle h
  case freq => exact execPonFreqMeasure_effect
  case squelch => exact fun s hen hopen => execSynceSquelch_first hen hopen
  case squelched => exact fun s h => execSynceSquelch_idle h
  case resume => exact execSynceResume_effect

end Sys2Proof.Machine

/-! SUPPORT. The frame of every command (95_what_each_step_holds.md): the laws of the meanings, put together command by command. -/

namespace Sys2Proof.Machine

set_option autoImplicit false

theorem mem_frameOf {c : Instr} {x : Part} (h : (frameOf c).elem x = true) : x ∈ frameOf c := List.mem_of_elem_eq_true h

theorem mem_partAll (x : Part) : x ∈ Part.all := by cases x <;> decide

/-- A command whose frame is the whole state leaves the queue alone, which is all that its frame asks. -/
theorem exec_changes_all (c : Instr) (s : State) : Changes (exec c s) s Part.all := by
  obtain ⟨t, ht, hkeeps⟩ := exec_keeps (P := False) (Q := s.pending) (s := s) ⟨rfl, False.elim⟩ c
  exact ⟨t, ht, hkeeps.queue, .inl (mem_partAll _), .inl (mem_partAll _), .inl (mem_partAll _), .inl (mem_partAll _), .inl (mem_partAll _),
    .inl (mem_partAll _), .inl (mem_partAll _), .inl (mem_partAll _), .inl (mem_partAll _), .inl (mem_partAll _), .inl (mem_partAll _),
    .inl (mem_partAll _), .inl (mem_partAll _), .inl (mem_partAll _), .inl (mem_partAll _), .inl (mem_partAll _), .inl (mem_partAll _),
    .inl (mem_partAll _), .inl (mem_partAll _), .inl (mem_partAll _), .inl (mem_partAll _), .inl (mem_partAll _), .inl (mem_partAll _),
    .inl (mem_partAll _)⟩

/-- Every command changes at most the parts of its frame: the law of its meaning, command by command. -/
theorem exec_changes_frame (s : State) : (c : Instr) → Changes (exec c s) s (frameOf c)
  | .frameTick .. => by apply @execFrameTick_within _ _ _ (within_refl s) <;> exact mem_frameOf rfl
  | .paceWindowEnd .. => by apply @execPaceWindowEnd_within _ _ _ (within_refl s) <;> exact mem_frameOf rfl
  | .mapBuildStart => by apply @execMapBuildStart_within _ _ _ (within_refl s) <;> exact mem_frameOf rfl
  | .assayerCheck .. => by apply @execAssayerCheck_within _ _ _ (within_refl s) <;> exact mem_frameOf rfl
  | .mapRelease .. => by apply @execMapRelease_within _ _ _ (within_refl s) <;> exact mem_frameOf rfl
  | .mapLock .. => by apply @execMapLock_within _ _ _ (within_refl s) <;> exact mem_frameOf rfl
  | .uplinkFrameRx .. => by apply @execUplinkFrameRx_within _ _ _ (within_refl s) <;> exact mem_frameOf rfl
  | .uplinkFrameTx .. => by apply @execUplinkFrameTx_within _ _ _ (within_refl s) <;> exact mem_frameOf rfl
  | .phaseOffsetWrite .. => by apply @execPhaseOffsetWrite_within _ _ _ (within_refl s) <;> exact mem_frameOf rfl
  | .dsEnableWrite .. => by apply @execDsEnableWrite_within _ _ _ (within_refl s) <;> exact mem_frameOf rfl
  | .ocbCommit .. => by apply @execOcbCommit_within _ _ _ (within_refl s) <;> exact mem_frameOf rfl
  | .alignModeWrite .. => by apply @execAlignModeWrite_within _ _ _ (within_refl s) <;> exact mem_frameOf rfl
  | .psyncMatch .. => by apply @execPsyncMatch_within _ _ _ (within_refl s) <;> exact mem_frameOf rfl
  | .trackerCheck .. => by apply @execTrackerCheck_within _ _ _ (within_refl s) <;> exact mem_frameOf rfl
  | .syncPsbdCheck .. => by apply @execSyncPsbdCheck_within _ _ _ (within_refl s) <;> exact mem_frameOf rfl
  | .burstStart .. => execBurstStart_within (within_refl s) _ _ (mem_frameOf rfl)
  | .delimWindowClose .. => by apply @execDelimWindowClose_within _ _ _ (within_refl s) <;> exact mem_frameOf rfl
  | .burstEnd .. => by apply @execBurstEnd_within _ _ _ (within_refl s) <;> exact mem_frameOf rfl
  | .upstreamXgemFrame .. => by apply @execUpstreamXgemFrame_within _ _ _ (within_refl s) <;> exact mem_frameOf rfl
  | .upstreamPloamRx .. => by apply @execUpstreamPloamRx_within _ _ _ (within_refl s) <;> exact mem_frameOf rfl
  | .strayDelimiter .. => by apply @execStrayDelimiter_within _ _ _ (within_refl s) <;> exact mem_frameOf rfl
  | .strayEnergyEpisode .. => by apply @execStrayEnergyEpisode_within _ _ _ (within_refl s) <;> exact mem_frameOf rfl
  | .usLossOnset .. => by apply @execUsLossOnset_within _ _ _ (within_refl s) <;> exact mem_frameOf rfl
  | .presetWindowWrite .. => by apply @execPresetWindowWrite_within _ _ _ (within_refl s) <;> exact mem_frameOf rfl
  | .presetAgeExpiry .. => execPresetAgeExpiry_within (within_refl s) _ _ _ (mem_frameOf rfl)
  | .ploamAckTimeout .. => by apply @execPloamAckTimeout_within _ _ _ (within_refl s) <;> exact mem_frameOf rfl
  | .teqdWrite .. => by apply @execTeqdWrite_within _ _ _ (within_refl s) <;> exact mem_frameOf rfl
  | .reachWrite .. => by apply @execReachWrite_within _ _ _ (within_refl s) <;> exact mem_frameOf rfl
  | .discPeriodStart .. => by apply @execDiscPeriodStart_within _ _ _ (within_refl s) <;> exact mem_frameOf rfl
  | .quietSpanClose .. => by apply @execQuietSpanClose_within _ _ _ (within_refl s) <;> exact mem_frameOf rfl
  | .snResponse .. => by apply @execSnResponse_within _ _ _ (within_refl s) <;> exact mem_frameOf rfl
  | .rangingResponse .. => by apply @execRangingResponse_within _ _ _ (within_refl s) <;> exact mem_frameOf rfl
  | .rangingNoResponse .. => by apply @execRangingNoResponse_within _ _ _ (within_refl s) <;> exact mem_frameOf rfl
  | .registrationRx .. => by apply @execRegistrationRx_within _ _ _ (within_refl s) <;> exact mem_frameOf rfl
  | .keyReportRx .. => by apply @execKeyReportRx_within _ _ _ (within_refl s) <;> exact mem_frameOf rfl
  | .keyExchangeTimeout .. => by apply @execKeyExchangeTimeout_within _ _ _ (within_refl s) <;> exact mem_frameOf rfl
  | .registrationTimeout .. => by apply @execRegistrationTimeout_within _ _ _ (within_refl s) <;> exact mem_frameOf rfl
  | .lostWaitExpiry .. => by apply @execLostWaitExpiry_within _ _ _ (within_refl s) <;> exact mem_frameOf rfl
  | .rampStart .. => by apply @execRampStart_within _ _ _ (within_refl s) <;> exact mem_frameOf rfl
  | .rampStop .. => by apply @execRampStop_within _ _ _ (within_refl s) <;> exact mem_frameOf rfl
  | .deactivate .. => by apply @execDeactivate_within _ _ _ (within_refl s) <;> exact mem_frameOf rfl
  | .enable .. => by apply @execEnable_within _ _ _ (within_refl s) <;> exact mem_frameOf rfl
  | .disable .. => by apply @execDisable_within _ _ _ (within_refl s) <;> exact mem_frameOf rfl
  | .rampTimeout .. => by apply @execRampTimeout_within _ _ _ (within_refl s) <;> exact mem_frameOf rfl
  | .rogueHuntStart .. => by apply @execRogueHuntStart_within _ _ _ (within_refl s) <;> exact mem_frameOf rfl
  | .rogueWatchEnd .. => by apply @execRogueWatchEnd_within _ _ _ (within_refl s) <;> exact mem_frameOf rfl
  | .allocWrite .. => by apply @execAllocWrite_within _ _ _ (within_refl s) <;> exact mem_frameOf rfl
  | .ctiRecordTake => by apply @execCtiRecordTake_within _ _ _ (within_refl s) <;> exact mem_frameOf rfl
  | .fsiPageWrite .. => by apply @execFsiPageWrite_within _ _ _ (within_refl s) <;> exact mem_frameOf rfl
  | .swapRequest .. => by apply @execSwapRequest_within _ _ _ (within_refl s) <;> exact mem_frameOf rfl
  | .swapValidationDone .. => by apply @execSwapValidationDone_within _ _ _ (within_refl s) <;> exact mem_frameOf rfl
  | .bdeactUnlock .. => by apply @execBdeactUnlock_within _ _ _ (within_refl s) <;> exact mem_frameOf rfl
  | .whfAlgWrite .. => by apply @execWhfAlgWrite_within _ _ _ (within_refl s) <;> exact mem_frameOf rfl
  | .sorterDispatch => by apply @execSorterDispatch_within _ _ _ (within_refl s) <;> exact mem_frameOf rfl
  | .expressLookup .. => by apply @execExpressLookup_within _ _ _ (within_refl s) <;> exact mem_frameOf rfl
  | .windowLoadDone .. => execWindowLoadDone_within (within_refl s) _ _ _ (mem_frameOf rfl)
  | .sorterRelease .. => by apply @execSorterRelease_within _ _ _ (within_refl s) <;> exact mem_frameOf rfl
  | .reorderTimeout .. => by apply @execReorderTimeout_within _ _ _ (within_refl s) <;> exact mem_frameOf rfl
  | .add .. => by apply @execAdd_within _ _ _ (within_refl s) <;> exact mem_frameOf rfl
  | .sub .. => by apply @execSub_within _ _ _ (within_refl s) <;> exact mem_frameOf rfl
  | .and .. => by apply @execAnd_within _ _ _ (within_refl s) <;> exact mem_frameOf rfl
  | .or .. => by apply @execOr_within _ _ _ (within_refl s) <;> exact mem_frameOf rfl
  | .xor .. => by apply @execXor_within _ _ _ (within_refl s) <;> exact mem_frameOf rfl
  | .shl .. => by apply @execShl_within _ _ _ (within_refl s) <;> exact mem_frameOf rfl
  | .shr .. => by apply @execShr_within _ _ _ (within_refl s) <;> exact mem_frameOf rfl
  | .sar .. => by apply @execSar_within _ _ _ (within_refl s) <;> exact mem_frameOf rfl
  | .min .. => by apply @execMin_within _ _ _ (within_refl s) <;> exact mem_frameOf rfl
  | .max .. => by apply @execMax_within _ _ _ (within_refl s) <;> exact mem_frameOf rfl
  | .cmp .. => by apply @execCmp_within _ _ _ (within_refl s) <;> exact mem_frameOf rfl
  | .popc .. => by apply @execPopc_within _ _ _ (within_refl s) <;> exact mem_frameOf rfl
  | .bfx .. => by apply @execBfx_within _ _ _ (within_refl s) <;> exact mem_frameOf rfl
  | .bfi .. => by apply @execBfi_within _ _ _ (within_refl s) <;> exact mem_frameOf rfl
  | .movi .. => by apply @execMovi_within _ _ _ (within_refl s) <;> exact mem_frameOf rfl
  | .beq .. => by apply @execBeq_within _ _ _ (within_refl s) <;> exact mem_frameOf rfl
  | .bne .. => by apply @execBne_within _ _ _ (within_refl s) <;> exact mem_frameOf rfl
  | .blt .. => by apply @execBlt_within _ _ _ (within_refl s) <;> exact mem_frameOf rfl
  | .bge .. => by apply @execBge_within _ _ _ (within_refl s) <;> exact mem_frameOf rfl
  | .bltu .. => by apply @execBltu_within _ _ _ (within_refl s) <;> exact mem_frameOf rfl
  | .bgeu .. => by apply @execBgeu_within _ _ _ (within_refl s) <;> exact mem_frameOf rfl
  | .jmp .. => by apply @execJmp_within _ _ _ (within_refl s) <;> exact mem_frameOf rfl
  | .call .. => by apply @execCall_within _ _ _ (within_refl s) <;> exact mem_frameOf rfl
  | .ret .. => by apply @execRet_within _ _ _ (within_refl s) <;> exact mem_frameOf rfl
  | .ld .. => by apply @execLd_within _ _ _ (within_refl s) <;> exact mem_frameOf rfl
  | .st .. => by apply @execSt_within _ _ _ (within_refl s) <;> exact mem_frameOf rfl
  | .dadd .. => by apply @execDadd_within _ _ _ (within_refl s) <;> exact mem_frameOf rfl
  | .dor .. => by apply @execDor_within _ _ _ (within_refl s) <;> exact mem_frameOf rfl
  | .dinc .. => by apply @execDinc_within _ _ _ (within_refl s) <;> exact mem_frameOf rfl
  | .fadd .. => by apply @execFadd_within _ _ _ (within_refl s) <;> exact mem_frameOf rfl
  | .cas .. => by apply @execCas_within _ _ _ (within_refl s) <;> exact mem_frameOf rfl
  | .parseNext .. => by apply @execParseNext_within _ _ _ (within_refl s) <;> exact mem_frameOf rfl
  | .parseSkip .. => by apply @execParseSkip_within _ _ _ (within_refl s) <;> exact mem_frameOf rfl
  | .parseSetht .. => by apply @execParseSetht_within _ _ _ (within_refl s) <;> exact mem_frameOf rfl
  | .kclr .. => by apply @execKclr_within _ _ _ (within_refl s) <;> exact mem_frameOf rfl
  | .kcat .. => by apply @execKcat_within _ _ _ (within_refl s) <;> exact mem_frameOf rfl
  | .kreg .. => by apply @execKreg_within _ _ _ (within_refl s) <;> exact mem_frameOf rfl
  | .lookupLdg .. => by apply @execLookupLdg_within _ _ _ (within_refl s) <;> exact mem_frameOf rfl
  | .lookupExm .. => by apply @execLookupExm_within _ _ _ (within_refl s) <;> exact mem_frameOf rfl
  | .lookupWait .. => by apply @execLookupWait_within _ _ _ (within_refl s) <;> exact mem_frameOf rfl
  | .ins .. => by apply @execIns_within _ _ _ (within_refl s) <;> exact mem_frameOf rfl
  | .del .. => by apply @execDel_within _ _ _ (within_refl s) <;> exact mem_frameOf rfl
  | .csum .. => by apply @execCsum_within _ _ _ (within_refl s) <;> exact mem_frameOf rfl
  | .setv .. => by apply @execSetv_within _ _ _ (within_refl s) <;> exact mem_frameOf rfl
  | .setq .. => by apply @execSetq_within _ _ _ (within_refl s) <;> exact mem_frameOf rfl
  | .setb .. => by apply @execSetb_within _ _ _ (within_refl s) <;> exact mem_frameOf rfl
  | .setr .. => by apply @execSetr_within _ _ _ (within_refl s) <;> exact mem_frameOf rfl
  | .setm .. => by apply @execSetm_within _ _ _ (within_refl s) <;> exact mem_frameOf rfl
  | .setx .. => by apply @execSetx_within _ _ _ (within_refl s) <;> exact mem_frameOf rfl
  | .setc .. => by apply @execSetc_within _ _ _ (within_refl s) <;> exact mem_frameOf rfl
  | .endPass .. => by apply @execEndPass_within _ _ _ (within_refl s) <;> exact mem_frameOf rfl
  | .nop .. => by apply @execNop_within _ _ _ (within_refl s) <;> exact mem_frameOf rfl
  | .movs .. => by apply @execMovs_within _ _ _ (within_refl s) <;> exact mem_frameOf rfl
  | .trap .. => by apply @execTrap_within _ _ _ (within_refl s) <;> exact mem_frameOf rfl
  | .handoff .. => by apply @execHandoff_within _ _ _ (within_refl s) <;> exact mem_frameOf rfl
  | .lookupResult .. => by apply @execLookupResult_within _ _ _ (within_refl s) <;> exact mem_frameOf rfl
  | .engineWdog .. => by apply @execEngineWdog_within _ _ _ (within_refl s) <;> exact mem_frameOf rfl
  | .engineParity .. => by apply @execEngineParity_within _ _ _ (within_refl s) <;> exact mem_frameOf rfl
  | .costWindowEnd .. => by apply @execCostWindowEnd_within _ _ _ (within_refl s) <;> exact mem_frameOf rfl
  | .engEnWrite .. => by apply @execEngEnWrite_within _ _ _ (within_refl s) <;> exact mem_frameOf rfl
  | .standbyBankWrite .. => by apply @execStandbyBankWrite_within _ _ _ (within_refl s) <;> exact mem_frameOf rfl
  | .validateBank .. => by apply @execValidateBank_within _ _ _ (within_refl s) <;> exact mem_frameOf rfl
  | .validateDone .. => by apply @execValidateDone_within _ _ _ (within_refl s) <;> exact mem_frameOf rfl
  | .drain .. => by apply @execDrain_within _ _ _ (within_refl s) <;> exact mem_frameOf rfl
  | .abort .. => by apply @execAbort_within _ _ _ (within_refl s) <;> exact mem_frameOf rfl
  | .guildLoad .. => by apply @execGuildLoad_within _ _ _ (within_refl s) <;> exact mem_frameOf rfl
  | .drainComplete .. => execDrainComplete_within (within_refl s) _ (mem_frameOf rfl)
  | .drainStuck .. => by apply @execDrainStuck_within _ _ _ (within_refl s) <;> exact mem_frameOf rfl
  | .switchDone .. => by apply @execSwitchDone_within _ _ _ (within_refl s) <;> exact mem_frameOf rfl
  | .checkDone .. => by apply @execCheckDone_within _ _ _ (within_refl s) <;> exact mem_frameOf rfl
  | .ledgerSearch .. => by apply @execLedgerSearch_within _ _ _ (within_refl s) <;> exact mem_frameOf rfl
  | .exmSearch .. => by apply @execExmSearch_within _ _ _ (within_refl s) <;> exact mem_frameOf rfl
  | .ldgWrite .. => by apply @execLdgWrite_within _ _ _ (within_refl s) <;> exact mem_frameOf rfl
  | .ldgInsert .. => by apply @execLdgInsert_within _ _ _ (within_refl s) <;> exact mem_frameOf rfl
  | .ledgerMove => by apply @execLedgerMove_within _ _ _ (within_refl s) <;> exact mem_frameOf rfl
  | .delete .. => by apply @execDelete_within _ _ _ (within_refl s) <;> exact mem_frameOf rfl
  | .modify .. => by apply @execModify_within _ _ _ (within_refl s) <;> exact mem_frameOf rfl
  | .addKey .. => by apply @execAddKey_within _ _ _ (within_refl s) <;> exact mem_frameOf rfl
  | .lookup .. => by apply @execLookup_within _ _ _ (within_refl s) <;> exact mem_frameOf rfl
  | .openEpoch .. => by apply @execOpenEpoch_within _ _ _ (within_refl s) <;> exact mem_frameOf rfl
  | .publish .. => by apply @execPublish_within _ _ _ (within_refl s) <;> exact mem_frameOf rfl
  | .discard .. => by apply @execDiscard_within _ _ _ (within_refl s) <;> exact mem_frameOf rfl
  | .respreadMove .. => by apply @execRespreadMove_within _ _ _ (within_refl s) <;> exact mem_frameOf rfl
  | .scrubRow .. => by apply @execScrubRow_within _ _ _ (within_refl s) <;> exact mem_frameOf rfl
  | .stashDrainPass .. => by apply @execStashDrainPass_within _ _ _ (within_refl s) <;> exact mem_frameOf rfl
  | .epochRetire => by apply @execEpochRetire_within _ _ _ (within_refl s) <;> exact mem_frameOf rfl
  | .sweepDone .. => by apply @execSweepDone_within _ _ _ (within_refl s) <;> exact mem_frameOf rfl
  | .epochStuck .. => by apply @execEpochStuck_within _ _ _ (within_refl s) <;> exact mem_frameOf rfl
  | .enqueue => by apply @execEnqueue_within _ _ _ (within_refl s) <;> exact mem_frameOf rfl
  | .bufferRelease .. => by apply @execBufferRelease_within _ _ _ (within_refl s) <;> exact mem_frameOf rfl
  | .freeStw .. => by apply @execFreeStw_within _ _ _ (within_refl s) <;> exact mem_frameOf rfl
  | .cellarWriteDone .. => by apply @execCellarWriteDone_within _ _ _ (within_refl s) <;> exact mem_frameOf rfl
  | .cellarRefill .. => by apply @execCellarRefill_within _ _ _ (within_refl s) <;> exact mem_frameOf rfl
  | .schedSelect .. => by apply @execSchedSelect_within _ _ _ (within_refl s) <;> exact mem_frameOf rfl
  | .cipherDownstream .. => by apply @execCipherDownstream_within _ _ _ (within_refl s) <;> exact mem_frameOf rfl
  | .bucketSweep => execBucketSweep_within (within_refl s) (mem_frameOf rfl)
  | .bucketWord0Write .. => by apply @execBucketWord0Write_within _ _ _ (within_refl s) <;> exact mem_frameOf rfl
  | .debtClear .. => by apply @execDebtClear_within _ _ _ (within_refl s) <;> exact mem_frameOf rfl
  | .statsSample .. => execStatsSample_within (within_refl s) _ (mem_frameOf rfl)
  | .statsClear .. => by apply @execStatsClear_within _ _ _ (within_refl s) <;> exact mem_frameOf rfl
  | .poolCfgWrite .. => by apply @execPoolCfgWrite_within _ _ _ (within_refl s) <;> exact mem_frameOf rfl
  | .cellarEnable .. => by apply @execCellarEnable_within _ _ _ (within_refl s) <;> exact mem_frameOf rfl
  | .keyLoad .. => by apply @execKeyLoad_within _ _ _ (within_refl s) <;> exact mem_frameOf rfl
  | .keyActivate .. => by apply @execKeyActivate_within _ _ _ (within_refl s) <;> exact mem_frameOf rfl
  | .keyErase .. => by apply @execKeyErase_within _ _ _ (within_refl s) <;> exact mem_frameOf rfl
  | .keyRestore .. => by apply @execKeyRestore_within _ _ _ (within_refl s) <;> exact mem_frameOf rfl
  | .retiringTimeout .. => by apply @execRetiringTimeout_within _ _ _ (within_refl s) <;> exact mem_frameOf rfl
  | .shasolMessageRx .. => by apply @execShasolMessageRx_within _ _ _ (within_refl s) <;> exact mem_frameOf rfl
  | .tagCheckDone .. => by apply @execTagCheckDone_within _ _ _ (within_refl s) <;> exact mem_frameOf rfl
  | .shasolMessageTx .. => by apply @execShasolMessageTx_within _ _ _ (within_refl s) <;> exact mem_frameOf rfl
  | .heartbeatSend => execHeartbeatSend_within (within_refl s) (mem_frameOf rfl)
  | .heartbeat .. => by apply @execHeartbeat_within _ _ _ (within_refl s) <;> exact mem_frameOf rfl
  | .mapMsg .. => by apply @execMapMsg_within _ _ _ (within_refl s) <;> exact mem_frameOf rfl
  | .dbaState .. => by apply @execDbaState_within _ _ _ (within_refl s) <;> exact mem_frameOf rfl
  | .ploamQ .. => by apply @execPloamQ_within _ _ _ (within_refl s) <;> exact mem_frameOf rfl
  | .slotMsg .. => by apply @execSlotMsg_within _ _ _ (within_refl s) <;> exact mem_frameOf rfl
  | .tableMsg .. => exec_changes_all ..
  | .keyMsg .. => by apply @execKeyMsg_within _ _ _ (within_refl s) <;> exact mem_frameOf rfl
  | .faultMsg .. => by apply @execFaultMsg_within _ _ _ (within_refl s) <;> exact mem_frameOf rfl
  | .releaseMsg .. => by apply @execReleaseMsg_within _ _ _ (within_refl s) <;> exact mem_frameOf rfl
  | .takenMsg .. => by apply @execTakenMsg_within _ _ _ (within_refl s) <;> exact mem_frameOf rfl
  | .requestMsg .. => execRequestMsg_within (within_refl s) _ _ (mem_frameOf rfl)
  | .syncMsg .. => exec_changes_all ..
  | .heartbeatLoss => by apply @execHeartbeatLoss_within _ _ _ (within_refl s) <;> exact mem_frameOf rfl
  | .partnerDarkChange .. => by apply @execPartnerDarkChange_within _ _ _ (within_refl s) <;> exact mem_frameOf rfl
  | .darkStuckTimeout => by apply @execDarkStuckTimeout_within _ _ _ (within_refl s) <;> exact mem_frameOf rfl
  | .livenessLoss => execLivenessLoss_within (within_refl s) (mem_frameOf rfl)
  | .takeoverWarm => by apply @execTakeoverWarm_within _ _ _ (within_refl s) <;> exact mem_frameOf rfl
  | .take .. => by apply @execTake_within _ _ _ (within_refl s) <;> exact mem_frameOf rfl
  | .give .. => by apply @execGive_within _ _ _ (within_refl s) <;> exact mem_frameOf rfl
  | .offWaitExpiry => by apply @execOffWaitExpiry_within _ _ _ (within_refl s) <;> exact mem_frameOf rfl
  | .releaseFail => by apply @execReleaseFail_within _ _ _ (within_refl s) <;> exact mem_frameOf rfl
  | .domainEnWrite .. => by apply @execDomainEnWrite_within _ _ _ (within_refl s) <;> exact mem_frameOf rfl
  | .phaseSampleCommit .. => by apply @execPhaseSampleCommit_within _ _ _ (within_refl s) <;> exact mem_frameOf rfl
  | .ppsInEdge .. => by apply @execPpsInEdge_within _ _ _ (within_refl s) <;> exact mem_frameOf rfl
  | .todMessageRx .. => by apply @execTodMessageRx_within _ _ _ (within_refl s) <;> exact mem_frameOf rfl
  | .sourceTimeout .. => by apply @execSourceTimeout_within _ _ _ (within_refl s) <;> exact mem_frameOf rfl
  | .wtrExpiry => by apply @execWtrExpiry_within _ _ _ (within_refl s) <;> exact mem_frameOf rfl
  | .switchOutput .. => by apply @execSwitchOutput_within _ _ _ (within_refl s) <;> exact mem_frameOf rfl
  | .outStep .. => by apply @execOutStep_within _ _ _ (within_refl s) <;> exact mem_frameOf rfl
  | .reacquire .. => by apply @execReacquire_within _ _ _ (within_refl s) <;> exact mem_frameOf rfl
  | .ppsOutEdge => execPpsOutEdge_within (within_refl s) (mem_frameOf rfl)
  | .todOutSend => execTodOutSend_within (within_refl s) (mem_frameOf rfl)
  | .tsRecordRead .. => by apply @execTsRecordRead_within _ _ _ (within_refl s) <;> exact mem_frameOf rfl
  | .todAnnounce .. => by apply @execTodAnnounce_within _ _ _ (within_refl s) <;> exact mem_frameOf rfl
  | .ponFreqMeasure .. => by apply @execPonFreqMeasure_within _ _ _ (within_refl s) <;> exact mem_frameOf rfl
  | .synceSquelch .. => by apply @execSynceSquelch_within _ _ _ (within_refl s) <;> exact mem_frameOf rfl
  | .synceResume .. => by apply @execSynceResume_within _ _ _ (within_refl s) <;> exact mem_frameOf rfl
  | .ulkCfgWrite .. => by apply @execUlkCfgWrite_within _ _ _ (within_refl s) <;> exact mem_frameOf rfl
  | .ulkRetrain .. => by apply @execUlkRetrain_within _ _ _ (within_refl s) <;> exact mem_frameOf rfl
  | .ulkLinkChange .. => by apply @execUlkLinkChange_within _ _ _ (within_refl s) <;> exact mem_frameOf rfl
  | .tileStart .. => by apply @execTileStart_within _ _ _ (within_refl s) <;> exact mem_frameOf rfl
  | .laneEnWrite .. => by apply @execLaneEnWrite_within _ _ _ (within_refl s) <;> exact mem_frameOf rfl
  | .rxDetectPulse .. => by apply @execRxDetectPulse_within _ _ _ (within_refl s) <;> exact mem_frameOf rfl
  | .rxEnergy .. => by apply @execRxEnergy_within _ _ _ (within_refl s) <;> exact mem_frameOf rfl
  | .laneEnergyLoss .. => by apply @execLaneEnergyLoss_within _ _ _ (within_refl s) <;> exact mem_frameOf rfl
  | .trainingFrameRx .. => by apply @execTrainingFrameRx_within _ _ _ (within_refl s) <;> exact mem_frameOf rfl
  | .trainTimeout .. => by apply @execTrainTimeout_within _ _ _ (within_refl s) <;> exact mem_frameOf rfl
  | .bitLock .. => execBitLock_within (within_refl s) _ (mem_frameOf rfl)
  | .bitLockLost .. => execBitLockLost_within (within_refl s) _ (mem_frameOf rfl)
  | .commaRx .. => by apply @execCommaRx_within _ _ _ (within_refl s) <;> exact mem_frameOf rfl
  | .commaMissing .. => by apply @execCommaMissing_within _ _ _ (within_refl s) <;> exact mem_frameOf rfl
  | .lockTimeout .. => by apply @execLockTimeout_within _ _ _ (within_refl s) <;> exact mem_frameOf rfl
  | .capRx .. => by apply @execCapRx_within _ _ _ (within_refl s) <;> exact mem_frameOf rfl
  | .mismatchHoldExpiry .. => by apply @execMismatchHoldExpiry_within _ _ _ (within_refl s) <;> exact mem_frameOf rfl
  | .exchangeTimeout .. => by apply @execExchangeTimeout_within _ _ _ (within_refl s) <;> exact mem_frameOf rfl
  | .shasolRetrain .. => by apply @execShasolRetrain_within _ _ _ (within_refl s) <;> exact mem_frameOf rfl
  | .sessOffer .. => by apply @execSessOffer_within _ _ _ (within_refl s) <;> exact mem_frameOf rfl
  | .sessAnswer .. => by apply @execSessAnswer_within _ _ _ (within_refl s) <;> exact mem_frameOf rfl
  | .sessOfferTimeout .. => by apply @execSessOfferTimeout_within _ _ _ (within_refl s) <;> exact mem_frameOf rfl
  | .marginSample .. => by apply @execMarginSample_within _ _ _ (within_refl s) <;> exact mem_frameOf rfl
  | .strapLatch .. => by apply @execStrapLatch_within _ _ _ (within_refl s) <;> exact mem_frameOf rfl
  | .genEnWrite .. => by apply @execGenEnWrite_within _ _ _ (within_refl s) <;> exact mem_frameOf rfl
  | .injGo .. => by apply @execInjGo_within _ _ _ (within_refl s) <;> exact mem_frameOf rfl
  | .checkerLock .. => by apply @execCheckerLock_within _ _ _ (within_refl s) <;> exact mem_frameOf rfl
  | .checkerLockLost .. => by apply @execCheckerLockLost_within _ _ _ (within_refl s) <;> exact mem_frameOf rfl
  | .helloSend => execHelloSend_within (within_refl s) (mem_frameOf rfl)
  | .hello .. => by apply @execHello_within _ _ _ (within_refl s) <;> exact mem_frameOf rfl
  | .neighbourTimeout .. => by apply @execNeighbourTimeout_within _ _ _ (within_refl s) <;> exact mem_frameOf rfl
  | .lsa .. => by apply @execLsa_within _ _ _ (within_refl s) <;> exact mem_frameOf rfl
  | .lsaRefresh => by apply @execLsaRefresh_within _ _ _ (within_refl s) <;> exact mem_frameOf rfl
  | .lsaExpiry .. => by apply @execLsaExpiry_within _ _ _ (within_refl s) <;> exact mem_frameOf rfl
  | .addressSettle => by apply @execAddressSettle_within _ _ _ (within_refl s) <;> exact mem_frameOf rfl
  | .routeRecompute => by apply @execRouteRecompute_within _ _ _ (within_refl s) <;> exact mem_frameOf rfl
  | .packet .. => by apply @execPacket_within _ _ _ (within_refl s) <;> exact mem_frameOf rfl
  | .masterLostTimeout => by apply @execMasterLostTimeout_within _ _ _ (within_refl s) <;> exact mem_frameOf rfl
  | .fabCfgWrite .. => by apply @execFabCfgWrite_within _ _ _ (within_refl s) <;> exact mem_frameOf rfl
  | .bindingWrite .. => by apply @execBindingWrite_within _ _ _ (within_refl s) <;> exact mem_frameOf rfl
  | .filterWindowEnd .. => by apply @execFilterWindowEnd_within _ _ _ (within_refl s) <;> exact mem_frameOf rfl
  | .faultMessageRx .. => by apply @execFaultMessageRx_within _ _ _ (within_refl s) <;> exact mem_frameOf rfl
  | .fltMsgLost .. => execFltMsgLost_within (within_refl s) _ (mem_frameOf rfl)
  | .safeStateEntry => by apply @execSafeStateEntry_within _ _ _ (within_refl s) <;> exact mem_frameOf rfl
  | .faultQueueRead .. => by apply @execFaultQueueRead_within _ _ _ (within_refl s) <;> exact mem_frameOf rfl
  | .kindCfgWrite .. => by apply @execKindCfgWrite_within _ _ _ (within_refl s) <;> exact mem_frameOf rfl
  | .kindStatusClear .. => by apply @execKindStatusClear_within _ _ _ (within_refl s) <;> exact mem_frameOf rfl
  | .isoRestore .. => by apply @execIsoRestore_within _ _ _ (within_refl s) <;> exact mem_frameOf rfl
  | .safeExit .. => exec_changes_all ..
  | .captureClr .. => exec_changes_all ..
  | .autoRestart => exec_changes_all ..
  | .handshakeStall .. => execHandshakeStall_within (within_refl s) _ _ (mem_frameOf rfl)
  | .analogCauseOnset .. => by apply @execAnalogCauseOnset_within _ _ _ (within_refl s) <;> exact mem_frameOf rfl
  | .analogCauseEnd .. => by apply @execAnalogCauseEnd_within _ _ _ (within_refl s) <;> exact mem_frameOf rfl
  | .tempSample .. => by apply @execTempSample_within _ _ _ (within_refl s) <;> exact mem_frameOf rfl
  | .stewardWdog .. => by apply @execStewardWdog_within _ _ _ (within_refl s) <;> exact mem_frameOf rfl
  | .goldenPassDone .. => by apply @execGoldenPassDone_within _ _ _ (within_refl s) <;> exact mem_frameOf rfl
  | .sramSliceTest .. => by apply @execSramSliceTest_within _ _ _ (within_refl s) <;> exact mem_frameOf rfl
  | .ledgerSliceTest .. => by apply @execLedgerSliceTest_within _ _ _ (within_refl s) <;> exact mem_frameOf rfl
  | .bufferAudit .. => by apply @execBufferAudit_within _ _ _ (within_refl s) <;> exact mem_frameOf rfl
  | .eyeScan .. => by apply @execEyeScan_within _ _ _ (within_refl s) <;> exact mem_frameOf rfl
  | .wardenForceStart => execWardenForceStart_within (within_refl s) (mem_frameOf rfl)
  | .wdnLate => by apply @execWdnLate_within _ _ _ (within_refl s) <;> exact mem_frameOf rfl
  | .tallyConfigWrite .. => by apply @execTallyConfigWrite_within _ _ _ (within_refl s) <;> exact mem_frameOf rfl
  | .snap .. => by apply @execSnap_within _ _ _ (within_refl s) <;> exact mem_frameOf rfl
  | .snapPeriodic => by apply @execSnapPeriodic_within _ _ _ (within_refl s) <;> exact mem_frameOf rfl
  | .snapshotDone .. => by apply @execSnapshotDone_within _ _ _ (within_refl s) <;> exact mem_frameOf rfl
  | .pmSecondEnd => by apply @execPmSecondEnd_within _ _ _ (within_refl s) <;> exact mem_frameOf rfl
  | .dsReport .. => by apply @execDsReport_within _ _ _ (within_refl s) <;> exact mem_frameOf rfl
  | .dsReportRequest => execDsReportRequest_within (within_refl s) (mem_frameOf rfl)
  | .dsReportMissing .. => by apply @execDsReportMissing_within _ _ _ (within_refl s) <;> exact mem_frameOf rfl
  | .pmClear .. => by apply @execPmClear_within _ _ _ (within_refl s) <;> exact mem_frameOf rfl
  | .pmClearAll .. => by apply @execPmClearAll_within _ _ _ (within_refl s) <;> exact mem_frameOf rfl
  | .powerOnReset => exec_changes_all ..
  | .resetRelease => by apply @execResetRelease_within _ _ _ (within_refl s) <;> exact mem_frameOf rfl
  | .warmReset .. => exec_changes_all ..
  | .txdisSample .. => by apply @execTxdisSample_within _ _ _ (within_refl s) <;> exact mem_frameOf rfl
  | .enterS1 .. => by apply @execEnterS1_within _ _ _ (within_refl s) <;> exact mem_frameOf rfl
  | .bankFetchDone .. => exec_changes_all ..
  | .enterS2 => by apply @execEnterS2_within _ _ _ (within_refl s) <;> exact mem_frameOf rfl
  | .enterS3 => by apply @execEnterS3_within _ _ _ (within_refl s) <;> exact mem_frameOf rfl
  | .stageLate => execStageLate_within (within_refl s) (mem_frameOf rfl)
  | .hostImage .. => by apply @execHostImage_within _ _ _ (within_refl s) <;> exact mem_frameOf rfl
  | .svnCommit .. => by apply @execSvnCommit_within _ _ _ (within_refl s) <;> exact mem_frameOf rfl
  | .flashErase .. => by apply @execFlashErase_within _ _ _ (within_refl s) <;> exact mem_frameOf rfl
  | .flashProgram .. => by apply @execFlashProgram_within _ _ _ (within_refl s) <;> exact mem_frameOf rfl
  | .mxpStatusUpdate => execMxpStatusUpdate_within (within_refl s) (mem_frameOf rfl)
  | .mxpFaultToggle => execMxpFaultToggle_within (within_refl s) (mem_frameOf rfl)
  | .omciResponseRx .. => by apply @execOmciResponseRx_within _ _ _ (within_refl s) <;> exact mem_frameOf rfl
  | .stwFwValidate .. => by apply @execStwFwValidate_within _ _ _ (within_refl s) <;> exact mem_frameOf rfl
  | .stwFwSwitch .. => by apply @execStwFwSwitch_within _ _ _ (within_refl s) <;> exact mem_frameOf rfl
  | .stwFwReady => by apply @execStwFwReady_within _ _ _ (within_refl s) <;> exact mem_frameOf rfl
  | .stwFwFallback => by apply @execStwFwFallback_within _ _ _ (within_refl s) <;> exact mem_frameOf rfl
  | .pcieReset .. => by apply @execPcieReset_within _ _ _ (within_refl s) <;> exact mem_frameOf rfl
  | .functionLevelReset .. => by apply @execFunctionLevelReset_within _ _ _ (within_refl s) <;> exact mem_frameOf rfl
  | .pcieLinkDown => by apply @execPcieLinkDown_within _ _ _ (within_refl s) <;> exact mem_frameOf rfl
  | .unassignedAccess .. => exec_changes_all ..
  | .winRead .. => by apply @execWinRead_within _ _ _ (within_refl s) <;> exact mem_frameOf rfl
  | .winWrite .. => by apply @execWinWrite_within _ _ _ (within_refl s) <;> exact mem_frameOf rfl
  | .lockOpen .. => by apply @execLockOpen_within _ _ _ (within_refl s) <;> exact mem_frameOf rfl
  | .lockClose .. => by apply @execLockClose_within _ _ _ (within_refl s) <;> exact mem_frameOf rfl
  | .lockSeal .. => by apply @execLockSeal_within _ _ _ (within_refl s) <;> exact mem_frameOf rfl
  | .ringEnWrite .. => by apply @execRingEnWrite_within _ _ _ (within_refl s) <;> exact mem_frameOf rfl
  | .ringTailWrite .. => by apply @execRingTailWrite_within _ _ _ (within_refl s) <;> exact mem_frameOf rfl
  | .rxRingDeliver .. => by apply @execRxRingDeliver_within _ _ _ (within_refl s) <;> exact mem_frameOf rfl
  | .txEntry .. => by apply @execTxEntry_within _ _ _ (within_refl s) <;> exact mem_frameOf rfl
  | .dmaError .. => by apply @execDmaError_within _ _ _ (within_refl s) <;> exact mem_frameOf rfl
  | .coalTimerExpiry .. => execCoalTimerExpiry_within (within_refl s) _ (mem_frameOf rfl)
  | .rearm .. => by apply @execRearm_within _ _ _ (within_refl s) <;> exact mem_frameOf rfl
  | .vfPortsWrite .. => by apply @execVfPortsWrite_within _ _ _ (within_refl s) <;> exact mem_frameOf rfl
  | .registerWrite .. => exec_changes_all ..
  | .ppsMissed .. => by apply @execPpsMissed_within _ _ _ (within_refl s) <;> exact mem_frameOf rfl
  | .pcieLinkUp .. => by apply @execPcieLinkUp_within _ _ _ (within_refl s) <;> exact mem_frameOf rfl
  | .registerRead .. => by apply @execRegisterRead_within _ _ _ (within_refl s) <;> exact mem_frameOf rfl
  | .restartAgeOut => execRestartAgeOut_within (within_refl s) (mem_frameOf rfl)

/-- Settles O54, by the law of each command's meaning. -/
theorem everyCommandFrame : Obligations.EveryCommandFrame := fun c s => exec_changes_frame s c

/-- Settles O52: the equation of a step on a queue that is not empty. -/
theorem stepRunsFront : Obligations.StepRunsFront := fun _ _ _ h => step_of_pending_cons h

end Sys2Proof.Machine

/-! SUPPORT. Reset values (the register tables of every chapter): the reset state lists no word, so each register reads its table's reset value. -/

namespace Sys2Proof.Machine

set_option autoImplicit false

/-- DEVICE is the lower half of a word whose upper half is the vendor's own. -/
theorem rd_reset_device : State.reset.rd Reg.GLB_ID.DEVICE = 0x5032 := by
  have hword : State.reset.word Reg.GLB_ID.addr = BitVec.ofNat 16 Config.vendorId ++ 0x5032#16 := rfl
  have hlow : (BitVec.ofNat 16 Config.vendorId ++ 0x5032#16 : Word).setWidth 16 = 0x5032#16 := BitVec.setWidth_append_eq_right
  have hrd : State.reset.rd Reg.GLB_ID.DEVICE = ((State.reset.word Reg.GLB_ID.addr).setWidth 16).toNat := by
    rw [BitVec.toNat_setWidth]
    exact congrArg (· % 2 ^ 16) (Nat.div_one _)
  rw [hrd, hword, hlow]
  rfl

/-- Settles O57: a register's reset value is read off its table, of an instanced register for each instance. -/
theorem resetValues : Obligations.ResetValues := by
  unfold Obligations.ResetValues
  refine ⟨?_, ?_, ?_, ?_, ?_, ?_, ?_, ?_, ?_, ?_, ?_, ?_, ?_, ?_, ?_, ?_, ?_, ?_, rd_reset_device, ?_, ?_⟩
  all_goals decide

end Sys2Proof.Machine

/-! SUPPORT. Denied writes (17_host_interface_and_register_map.md R541, R549, R550): every gated row is one pass of the gate of its register. -/

namespace Sys2Proof.Machine

set_option autoImplicit false

/-- A gated row does what its meaning says behind the gate of its register, and nothing before it. -/
theorem exec_gatedRows {ag : Agent} {p : Fin 32} {g : Fin 64} {d k : Fin 2} {sl : Fin 256} {v : Word} {x : Instr × Nat}
    (hx : x ∈ gatedRows ag p g d k sl v) (s : State) : ∃ f, exec x.1 s = .next (s.gate ag x.2 f) := by
  simp only [gatedRows, List.mem_cons, List.not_mem_nil, or_false] at hx
  rcases hx with rfl | rfl | rfl | rfl | rfl | rfl | rfl | rfl | rfl | rfl | rfl | rfl | rfl | rfl | rfl | rfl | rfl | rfl | rfl | rfl
  all_goals exact ⟨_, rfl⟩

/-- A denied access while a record is held is counted and leaves the words. -/
theorem State.deny_words_of_valid {s : State} (h : s.bit Reg.HST_DENIED_LAST_W0.VALID = true) (ag : Agent) (r : Deny) (a w : Nat) :
    (s.deny ag r a w).words = s.words := by
  rw [State.words_deny, if_pos h]

/-- Settles O59: each gated row is a pass of the gate, which denies a VF's write and the PF's to a protected block. -/
theorem deniedWrites : Obligations.DeniedWrites := by
  refine ⟨fun f p g d k sl v s x hx => ?vf, fun p g d k sl v s x hx hprot => ?pf, fun ag r a w s => ⟨?counted, ?frame, ?kept⟩⟩
  case vf =>
    obtain ⟨act, hexec⟩ := exec_gatedRows hx s
    exact hexec.trans (congrArg ok (s.gate_vf f x.2 act))
  case pf =>
    obtain ⟨act, hexec⟩ := exec_gatedRows hx s
    exact hexec.trans (congrArg ok (State.gate_protected hprot act))
  case counted => rw [State.ctr_deny, if_pos rfl]
  case frame => exact State.deny_within (within_refl s) ag r a w (by simp) (by simp) (by simp) (by simp)
  case kept => exact fun h => State.deny_words_of_valid h ag r a w

end Sys2Proof.Machine

/-! SUPPORT. O37, LaneBringUp (R410 to R413, R421, R513): the straps of a device whose twin lane is up already. -/

namespace Sys2Proof.Machine

set_option autoImplicit false

/-- A device out of reset with its straps not sampled yet, whose lane 4 is ACTIVE and whose twin, split from it, keeps serial number 0
with a priority of 128. -/
def activeBeforeStraps : State :=
  { State.reset.wr (Reg.SHL_LANE_STATUS.STATE 4) lnActive with
    boot := { Boot.reset with released := true }
    twn := { Twn.reset with hb := some ⟨0, 128, 0, 0, 0, 0, 0, 0, 0, 0⟩, split := true, serial := some 0 } }

/-- Straps that ask for PRIMARY (bit 5) with the twin enabled (bit 4). -/
def primaryStraps : BitVec 16 := 0x33#16

/-- Does the command end in a state whose PRIMARY is `b`? -/
def primaryAfter (b : Bool) (m : BitVec 16) (s : State) : Prop :=
  ∃ t, exec (.strapLatch m) s = .next t ∧ t.bit Reg.TWN_STATUS.PRIMARY = b

/-- The straps reach a lane 4 that is ACTIVE: losing its role it takes the twin link down, and the decision the split then makes anew
undoes the role the straps had just given. -/
theorem primaryAfter_activeBeforeStraps : primaryAfter false primaryStraps activeBeforeStraps :=
  ⟨_, rfl, by decide +kernel⟩

/-- Refutes O37: of straps that ask for PRIMARY, a device whose twin lane is ACTIVE already ends with PRIMARY 0. -/
theorem not_laneBringUp : ¬ Obligations.LaneBringUp := by
  unfold Obligations.LaneBringUp
  rintro ⟨-, hstraps, -⟩
  obtain ⟨t, ht, -, -, -, hprimary, -⟩ := hstraps primaryStraps activeBeforeStraps rfl rfl
  obtain ⟨u, hu, hnot⟩ := primaryAfter_activeBeforeStraps
  obtain rfl : t = u := by simpa using ht.symm.trans hu
  exact absurd (hprimary.symm.trans hnot) (by decide)

end Sys2Proof.Machine

/-! SUPPORT. What Bellman's side of a fault leaves alone when a message is raised (14_faults_and_safe_state.md R443 to R447). -/

namespace Sys2Proof.Machine

set_option autoImplicit false

/-- A message posted changes outboxes and their losses alone. -/
theorem Flt.post_eq (f : Flt) (m : Msg) : ∃ boxes lost, f.post m = { f with boxes := boxes, lost := lost } := by
  unfold Flt.post
  extract_lets b box l
  split
  · exact ⟨_, _, rfl⟩
  · split <;> exact ⟨_, _, rfl⟩

/-- A message raised changes outboxes, their losses, its filter and the fatal line alone. -/
theorem Flt.raise_eq (f : Flt) (cfg : Word) (now : Nat) (k : Kind) (src : Source) (addr : Nat) : ∃ boxes lost filters line,
    f.raise cfg now k src addr = { f with boxes := boxes, lost := lost, filters := filters, fatalLine := line } := by
  obtain ⟨filters, m, hraise⟩ : ∃ filters m, f.raise cfg now k src addr = ({ f with filters := filters } : Flt).post m ∨
      f.raise cfg now k src addr = { ({ f with filters := filters } : Flt).post m with fatalLine := true } :=
    ⟨_, _, (ite_eq_or_eq _ _ _).symm⟩
  obtain ⟨boxes, lost, hpost⟩ := ({ f with filters := filters } : Flt).post_eq m
  rcases hraise with h | h <;> exact ⟨boxes, lost, filters, _, by rw [h, hpost]⟩

@[simp] theorem Flt.raise_causes (f : Flt) (cfg : Word) (now : Nat) (k : Kind) (src : Source) (addr : Nat) :
    (f.raise cfg now k src addr).causes = f.causes := by
  obtain ⟨boxes, lost, filters, line, h⟩ := f.raise_eq cfg now k src addr
  rw [h]

end Sys2Proof.Machine

/-! SUPPORT. The Steward's watchdog and Warden's tests (14_faults_and_safe_state.md R453, R470 to R475). -/

namespace Sys2Proof.Machine

set_option autoImplicit false

/-! The end of a coverage cycle counts the cycle alone, and keeps the tests under way and the suspected buffers. -/

theorem State.ctr_cycleEnd {a : Nat} (ha : a ≠ Cnt.WDN_CYCLES) (s : State) : s.cycleEnd.ctr a = s.ctr a := by
  have hinc : (s.inc Cnt.WDN_CYCLES).ctr a = s.ctr a := (State.ctr_inc s _ a).trans (if_neg ha)
  unfold State.cycleEnd
  extract_lets t s1 s2
  split
  · rfl
  · refine Eq.trans (State.ctr_congr ?_ a) hinc
    simp only [s2]
    split <;> simp [s1]

theorem State.cycleEnd_tests_suspects (s : State) :
    s.cycleEnd.wdn.tests = s.wdn.tests ∧ s.cycleEnd.wdn.suspects = s.wdn.suspects := by
  unfold State.cycleEnd
  extract_lets t s1 s2
  have hs2 : s2.wdn = s.wdn := by
    simp only [s2]
    split <;> simp [s1]
  split
  · exact ⟨rfl, rfl⟩
  · exact ⟨(congrArg Wdn.tests hs2 :), (congrArg Wdn.suspects hs2 :)⟩

/-! The Steward's watchdog (R453). -/

theorem exec_stewardWdog_first {s : State} (c : Fin 4) (pc : BitVec 32) (hswitch : s.boot.fwSwitch = none) (hfirst : s.boot.wdogs = []) :
    exec (.stewardWdog c pc) s = .next
      (let s1 := ({ s with boot := { s.boot with wdogs := [s.now] } } : State).raise .STEWARD_WDOG ⟨.STW, c.val⟩ pc.toNat
       ({ s1 with stw := { s1.stw with paused := true } } : State).inc Cnt.BOOT_STW_RESTARTS) := by
  change execStewardWdog c pc s = _
  simp [execStewardWdog, hswitch, hfirst, ok]

/-! Golden packets (R473). -/

/-- The references a test held on its generation of entries, given back one by one. -/
theorem State.epochUnrefs_kept (l : List Nat) (e : Nat) (s : State) :
    (l.foldl (fun s _ => s.epochUnref e) s).ctrs = s.ctrs ∧ (l.foldl (fun s _ => s.epochUnref e) s).wdn = s.wdn :=
  ⟨foldl_reading State.ctrs _ l s fun t _ _ => by simp, foldl_reading State.wdn _ l s fun t _ _ => by simp⟩

/-- A golden test with its passes ended and no result of the engine under test, its tables already cleared in `s1`. -/
def State.testLost (s1 : State) (x : GoldenTest) : State :=
  (((x.under :: x.refs).foldl (fun s _ => s.epochUnref x.packet.d.epoch) (s1.count Cnt.WDN_GOLDEN_PASSES (x.refs.length + 1))).inc
    Cnt.WDN_GOLDEN_INCONCLUSIVE).cycleEnd

theorem State.testLost_facts (s1 : State) (x : GoldenTest) : (s1.testLost x).wdn.tests = s1.wdn.tests ∧
    (s1.testLost x).ctr Cnt.WDN_GOLDEN_PASSES = (s1.ctr Cnt.WDN_GOLDEN_PASSES).add (x.refs.length + 1) ∧
    (s1.testLost x).ctr Cnt.WDN_GOLDEN_INCONCLUSIVE = (s1.ctr Cnt.WDN_GOLDEN_INCONCLUSIVE).add 1 := by
  obtain ⟨hctrs, hwdn⟩ := State.epochUnrefs_kept (x.under :: x.refs) x.packet.d.epoch (s1.count Cnt.WDN_GOLDEN_PASSES (x.refs.length + 1))
  refine ⟨?_, ?_, ?_⟩
  · rw [State.testLost, (State.cycleEnd_tests_suspects _).1, State.inc_wdn, hwdn, State.count_wdn]
  · rw [State.testLost, State.ctr_cycleEnd (by decide), State.ctr_inc, if_neg (by decide), State.ctr_congr hctrs, State.ctr_count, if_pos rfl]
  · rw [State.testLost, State.ctr_cycleEnd (by decide), State.ctr_inc, if_pos rfl, State.ctr_congr hctrs, State.ctr_count, if_neg (by decide)]

theorem exec_goldenPassDone_lost {s : State} {id : Nat} {x : GoldenTest} (hx : s.wdn.tests.find? (fun t => t.id == id) = some x)
    (hruns : s.testRuns id = false) (hlost : s.resultOf id x.under = none) : ∃ r : State, exec (.goldenPassDone id) s = .next (r.testLost x) ∧
    r.wdn.tests = s.wdn.tests.filter (fun x => x.id ≠ id) ∧ r.ctrs = s.ctrs := by
  refine ⟨{ s with wdn := { s.wdn with tests := s.wdn.tests.filter (fun x => x.id ≠ id)
                                       passes := (x.under :: x.refs).foldl (fun p k => Tab.mod (fun _ => 0) p k (· + 1)) s.wdn.passes }
                   eng := { s.eng with tests := s.eng.tests.filter (fun x => x.flight ≠ id) } }, ?_, rfl, rfl⟩
  change execGoldenPassDone id s = _
  simp only [execGoldenPassDone, hx, hruns, Bool.false_eq_true, ↓reduceIte, List.map_cons, hlost, List.any_cons, Option.isNone_none,
    Bool.true_or]
  rfl

/-! Memories and rows (R470). -/

theorem exec_sramSliceTest_on {s : State} (hon : s.testOn Reg.WDN_CFG.SRAM_EN = true) (x : Source) (n : Nat) (b : Option SliceFault) (w : Bool) :
    Completes (exec (.sramSliceTest x n b w) s) (fun t =>
      t.ctr Cnt.WDN_SRAM_WORDS = (s.ctr Cnt.WDN_SRAM_WORDS).add n ∧ t.cpg = s.cpg ∧ t.ldg = s.ldg) := by
  refine ⟨_, congrArg ok (if_neg (by simp [hon])), ?_⟩
  extract_lets s1 at_ s2
  have hctr : s1.ctr Cnt.WDN_SRAM_WORDS = (s.ctr Cnt.WDN_SRAM_WORDS).add n := (State.ctr_count s _ n _).trans (if_pos rfl)
  have hs2 : s2.ctrs = s1.ctrs ∧ s2.cpg = s.cpg ∧ s2.ldg = s.ldg := by
    simp only [s2]
    split <;> simp [s1]
  obtain ⟨hctrs, hcpg, hldg⟩ := hs2
  simp only [State.cycleEnd_parts]
  refine ⟨?_, ?_, ?_⟩
  · rw [State.ctr_cycleEnd (by decide), ← hctr]
    split <;> exact State.ctr_congr hctrs _
  · split <;> exact hcpg
  · split <;> exact hldg

/-- The rows of restored banks count toward their return alone: no counter moves, and the Ledger stands. -/
theorem State.bankRows_kept (s : State) (first n : Nat) (bad : Option Nat) :
    (s.bankRows first n bad).ctrs = s.ctrs ∧ (s.bankRows first n bad).ldg = s.ldg := by
  have h := State.bankRows_within (K := (· ∈ ([.flt, .wdn] : List Part))) (within_refl s) first n bad (by simp) (by simp)
  exact ⟨h.ctrs.resolve_left (by simp), h.ldg.resolve_left (by simp)⟩

theorem exec_ledgerSliceTest_on {s : State} (hon : s.testOn Reg.WDN_CFG.TCAM_EN = true) (f : Fin 65536) (n : Nat) (b : Option (Fin 65536)) :
    Completes (exec (.ledgerSliceTest f n b) s) (fun t => t.ctr Cnt.WDN_TCAM_ROWS = (s.ctr Cnt.WDN_TCAM_ROWS).add n ∧ t.ldg = s.ldg) := by
  refine ⟨_, congrArg ok (if_neg (by simp [hon])), ?_⟩
  extract_lets s1 s2 s3
  have hctr : s1.ctr Cnt.WDN_TCAM_ROWS = (s.ctr Cnt.WDN_TCAM_ROWS).add n := (State.ctr_count s _ n _).trans (if_pos rfl)
  have hs2 : s2.ctrs = s1.ctrs ∧ s2.ldg = s.ldg := by
    simp only [s2]
    split <;> simp [s1]
  obtain ⟨hctrs, hldg⟩ := State.bankRows_kept s2 f.val n (b.map (·.val))
  simp only [State.cycleEnd_parts]
  refine ⟨?_, hldg.trans hs2.2⟩
  rw [State.ctr_cycleEnd (by decide), ← hctr]
  exact State.ctr_congr (hctrs.trans hs2.1) _

/-! Buffers (R470). -/

theorem State.freeLeak_facts {s : State} {h : Nat} (hok : s.handleOk h = true) (hheld : (s.buf h).held = true) :
    ((s.freeLeak h).buf h).held = false ∧ (s.freeLeak h).ctr Cnt.WDN_LEAKS = (s.ctr Cnt.WDN_LEAKS).add 1 := by
  have hcount : ((s.raise .BUF_LEAK srcCpg h).inc Cnt.WDN_LEAKS).ctr Cnt.WDN_LEAKS = (s.ctr Cnt.WDN_LEAKS).add 1 :=
    (State.ctr_inc ..).trans (if_pos rfl)
  refine ⟨State.held_unref_last ?_ ?_ ?_, (State.ctr_unref_of_le (by decide) _ h).trans hcount⟩
  · exact (State.handleOk_congr (by simp) h).trans hok
  · exact (congrArg Buf.held (State.buf_setBuf_same ..)).trans hheld
  · exact (congrArg Buf.ref (State.buf_setBuf_same ..)).le

/-- An audit of a pool, its free list compared already in `s1`: `named` the handles something names. -/
def State.audited (s1 : State) (p : Fin 4) : State :=
  let named := s1.namedHandles
  let lone := (s1.heldOf p.val).filter (fun h => !named.contains h)
  let leaked := lone.filter (fun h => s1.wdn.suspects.contains h)
  let s2 := leaked.foldl (fun s h => s.freeLeak h) s1
  let keep := s2.wdn.suspects.filter (fun h => handlePool h ≠ p.val) ++ lone.filter (fun h => !leaked.contains h)
  ({ s2 with wdn := { s2.wdn with suspects := keep, pools := p.val :: s2.wdn.pools.filter (fun q => q ≠ p.val) } } : State).cycleEnd

/-- What an audit finds is what there is: the comparison of the free list raises a message at most. -/
theorem exec_bufferAudit_on {s : State} (hon : s.testOn Reg.WDN_CFG.AUDIT_EN = true) (p : Fin 4) (d : BitVec 24) :
    ∃ s1 : State, exec (.bufferAudit p d) s = .next (s1.audited p) ∧
      s1.words = s.words ∧ s1.cpg = s.cpg ∧ s1.fwd = s.fwd ∧ s1.eng = s.eng ∧ s1.wdn = s.wdn ∧ s1.ctrs = s.ctrs := by
  refine ⟨if d.toNat = 0 then s else s.raise .BUF_AUDIT srcCpg (d.toNat * 4 + p.val), congrArg ok (if_neg (by simp [hon])), ?_⟩
  split <;> simp

theorem State.namedHandles_congr {t s : State} (hc : t.cpg = s.cpg) (hf : t.fwd = s.fwd) (he : t.eng = s.eng) :
    t.namedHandles = s.namedHandles := by simp only [State.namedHandles, hc, hf, he]

theorem State.heldOf_congr {t s : State} (hc : t.cpg = s.cpg) (p : Nat) : t.heldOf p = s.heldOf p := by simp only [State.heldOf, hc]

theorem State.audited_leak {s : State} {p : Fin 4} {h : Nat} (hone : s.heldOf p.val = [h]) (hlone : s.namedHandles.contains h = false)
    (hagain : s.wdn.suspects.contains h = true) (hok : s.handleOk h = true) (hheld : (s.buf h).held = true) :
    ((s.audited p).buf h).held = false ∧ (s.audited p).ctr Cnt.WDN_LEAKS = (s.ctr Cnt.WDN_LEAKS).add 1 := by
  obtain ⟨hfree, hcount⟩ := State.freeLeak_facts hok hheld
  have hbuf (t : State) : t.cycleEnd.buf h = t.buf h := State.buf_congr (by simp) h
  simp only [State.audited, hone, List.filter_cons, hlone, hagain, Bool.not_false, ↓reduceIte, List.filter_nil, List.foldl_cons,
    List.foldl_nil, hbuf]
  exact ⟨hfree, (State.ctr_cycleEnd (by decide) _).trans hcount⟩

theorem State.audited_none {s : State} {p : Fin 4} (hnone : s.heldOf p.val = []) :
    (s.audited p).cpg = s.cpg ∧ (s.audited p).wdn.suspects = s.wdn.suspects.filter (fun h => handlePool h ≠ p.val) := by
  simp [State.audited, hnone, State.cycleEnd_tests_suspects]

/-! Eyes (R470). -/

theorem exec_eyeScan_on {s : State} (b : LaneBlock) (m : BitVec 8) (hon : s.testOn Reg.WDN_CFG.EYE_EN = true) (hlane : s.laneOn b = true) :
    Completes (exec (.eyeScan b m) s) (fun t => t.ctr Cnt.WDN_EYE_SCANS = (s.ctr Cnt.WDN_EYE_SCANS).add 1 ∧ t.shl = s.shl) := by
  refine ⟨_, congrArg ok (if_neg (by simp [hon, hlane])), ?_⟩
  extract_lets s1 s2
  have hs2 : s2.ctrs = s1.ctrs ∧ s2.shl = s.shl := by
    simp only [s2]
    split <;> simp [s1]
  simp only [State.cycleEnd_parts]
  refine ⟨?_, hs2.2⟩
  rw [State.ctr_cycleEnd (by decide)]
  exact (State.ctr_congr hs2.1 _).trans ((State.ctr_inc s _ _).trans (if_pos rfl))

/-! The late cycle (R475). -/

theorem State.active_onset (s : State) (k : Kind) (src : Source) (sub a : Nat) : (s.onset k src sub a).flt.active k src sub = true := by
  change (s.flt.onset _ _ k src sub a).active k src sub = true
  unfold Flt.onset
  split
  · assumption
  · simp [Flt.active]

/-- Settles O45: a test that is off does nothing, and one that is on counts what it went over before its cycle may end. -/
theorem wardenTests : Obligations.WardenTests := by
  refine ⟨fun c pc s hswitch hfirst => ?wdog, fun id s hnone => ?noTest, fun id x s hx hruns => ?running, fun id x s hx hruns hlost => ?lost,
    fun x n b w s hoff => congrArg ok (if_pos (by simp [hoff])), fun x n b w s hon => exec_sramSliceTest_on hon x n b w,
    fun f n b s hoff => congrArg ok (if_pos (by simp [hoff])), fun f n b s hon => exec_ledgerSliceTest_on hon f n b,
    fun p d s hoff => congrArg ok (if_pos (by simp [hoff])), fun p d h s hon hone hlone hagain hok hheld => ?leak, fun p d s hon hnone => ?none,
    fun b m s hoff => congrArg ok (if_pos (by simpa using hoff)), fun b m s hon hlane => exec_eyeScan_on b m hon hlane, fun s => rfl,
    fun s => ⟨_, rfl, ?late⟩⟩
  case wdog =>
    refine ⟨_, exec_stewardWdog_first c pc hswitch hfirst, (State.ctr_inc ..).trans (if_pos rfl), ?_⟩
    simp
  case noTest =>
    change execGoldenPassDone id s = _
    simp [execGoldenPassDone, hnone, ok]
  case running =>
    change execGoldenPassDone id s = _
    simp [execGoldenPassDone, hx, hruns, ok]
  case lost =>
    obtain ⟨r, hexec, htests, hctrs⟩ := exec_goldenPassDone_lost hx hruns hlost
    obtain ⟨hkept, hpasses, hincon⟩ := r.testLost_facts x
    refine ⟨_, hexec, ?_, hpasses.trans (by rw [State.ctr_congr hctrs]), hincon.trans (by rw [State.ctr_congr hctrs])⟩
    simp [hkept, htests]
  case leak =>
    obtain ⟨s1, hexec, hw, hc, hf, he, hwdn, hctrs⟩ := exec_bufferAudit_on hon p d
    obtain ⟨hfree, hcount⟩ := State.audited_leak ((State.heldOf_congr hc _).trans hone)
      ((congrArg (List.contains · h) (State.namedHandles_congr hc hf he)).trans hlone) (hwdn ▸ hagain)
      ((State.handleOk_congr hw h).trans hok) ((congrArg Buf.held (State.buf_congr hc h)).trans hheld)
    exact ⟨_, hexec, hfree, hcount.trans (by rw [State.ctr_congr hctrs])⟩
  case none =>
    obtain ⟨s1, hexec, -, hc, -, -, hwdn, -⟩ := exec_bufferAudit_on hon p d
    obtain ⟨hcpg, hsuspects⟩ := State.audited_none ((State.heldOf_congr hc p.val).trans hnone)
    exact ⟨_, hexec, hcpg.trans hc, hsuspects.trans (by rw [hwdn])⟩
  case late =>
    dsimp only
    split
    · exact ⟨State.active_onset .., by simp; rfl⟩
    · rfl

end Sys2Proof.Machine

/-! SUPPORT. Rules of the fabric's operations (13_cascade_and_fabric.md R424 to R430): what a stored LSA, a flooded message, an own LSA and a
cleared lane change and leave. -/

namespace Sys2Proof.Machine

set_option autoImplicit false

/-! LSAs (R425). -/

theorem State.lsaOf_setLsa (s : State) (x y : Nat) (l : Option Lsa) : (s.setLsa x l).lsaOf y = if y = x then l else s.lsaOf y := by
  exact Tab.get_set (fun _ => none) s.shl.lsas x y l

/-- The count of devices lies in bits 17 to 23 of FAB_STATUS: every other field is as it was. -/
theorem State.rd_setLsa (s : State) (x : Nat) (l : Option Lsa) {f : Fld} (hf : f.lo + f.w ≤ 32) (hbits : 24 ≤ f.lo ∨ f.lo + f.w ≤ 17) :
    (s.setLsa x l).rd f = s.rd f := State.rd_wr_bits _ _ _ _ (by decide) hf hbits

theorem State.word_setLsa_of_ne (s : State) (x : Nat) (l : Option Lsa) {a : Nat} (h : a ≠ Reg.SHL_FAB_STATUS.addr) :
    (s.setLsa x l).word a = s.word a := State.word_wr_of_ne _ h _

theorem State.ownAddr_congr {t s : State} (hv : t.rd Reg.SHL_FAB_STATUS.ADDR_VALID = s.rd Reg.SHL_FAB_STATUS.ADDR_VALID)
    (ha : t.rd Reg.SHL_FAB_STATUS.ADDR = s.rd Reg.SHL_FAB_STATUS.ADDR) : t.ownAddr = s.ownAddr := by
  have hbit : t.bit Reg.SHL_FAB_STATUS.ADDR_VALID = s.bit Reg.SHL_FAB_STATUS.ADDR_VALID := congrArg (· != 0) hv
  simp only [State.ownAddr, hbit, ha]

theorem State.ownAddr_setLsa (s : State) (x : Nat) (l : Option Lsa) : (s.setLsa x l).ownAddr = s.ownAddr :=
  State.ownAddr_congr (s.rd_setLsa x l (by decide) (by decide)) (s.rd_setLsa x l (by decide) (by decide))

/-! Messages flooded (R425). -/

theorem State.flood_nbrs_lsas (s : State) (lanes : List Nat) (m : FabMsg) :
    (s.flood lanes m).shl.nbrs = s.shl.nbrs ∧ (s.flood lanes m).shl.lsas = s.shl.lsas :=
  ⟨foldl_reading (fun t : State => t.shl.nbrs) _ _ s fun _ _ _ => rfl, foldl_reading (fun t : State => t.shl.lsas) _ _ s fun _ _ _ => rfl⟩

theorem State.lane_setLane (s : State) (n m : Nat) (x : Lane) : (s.setLane n x).lane m = if m = n then x else s.lane m := Tab.get_set ..

/-- A lane that is not one of those flooded queues nothing. -/
theorem State.flood_lane_of_not_mem (s : State) {lanes : List Nat} {n : Nat} (h : n ∉ lanes) (m : FabMsg) : (s.flood lanes m).lane n = s.lane n :=
  foldl_reading (fun t : State => t.lane n) _ _ s fun t k hk => (State.lane_setLane t k n _).trans (if_neg fun he : n = k => h (he ▸ hk))

/-! An own LSA (R425). -/

/-- The sequence number an own LSA carries next. -/
def State.ownSeq (s : State) : Nat := match s.lsaOf Config.serial with | some l => (l.seq + 1) % 2 ^ 32 | none => 0

/-- An own LSA is stored, flooded and counted. -/
theorem State.originate_eq {s : State} (h : s.fabMode ≠ 0) : ∃ l : Lsa, l.seq = s.ownSeq ∧
    s.originate = ((s.setLsa Config.serial (some l)).flood s.fabLanes (.lsa l)).inc Cnt.FAB_LSA_SENT :=
  ⟨_, rfl, if_neg h⟩

theorem State.originate_off {s : State} (h : s.fabMode = 0) : s.originate = s := if_pos h

theorem State.originate_nbrs (s : State) : s.originate.shl.nbrs = s.shl.nbrs := by
  by_cases hmode : s.fabMode = 0
  · rw [State.originate_off hmode]
  · obtain ⟨l, -, h⟩ := State.originate_eq hmode
    rw [h, State.inc_shl, (State.flood_nbrs_lsas ..).1]
    rfl

theorem State.nbr_originate (s : State) (n : Nat) : s.originate.nbr n = s.nbr n := congrArg (Tab.get (fun _ => (none : Option Nbr)) · n) s.originate_nbrs

theorem State.rd_originate (s : State) {f : Fld} (hf : f.lo + f.w ≤ 32) (hbits : 24 ≤ f.lo ∨ f.lo + f.w ≤ 17) :
    s.originate.rd f = s.rd f := by
  by_cases hmode : s.fabMode = 0
  · rw [State.originate_off hmode]
  · obtain ⟨l, -, h⟩ := State.originate_eq hmode
    rw [h, State.inc_rd, State.flood_rd, State.rd_setLsa _ _ _ hf hbits]

theorem State.word_originate_of_ne (s : State) {a : Nat} (ha : a ≠ Reg.SHL_FAB_STATUS.addr) : s.originate.word a = s.word a := by
  by_cases hmode : s.fabMode = 0
  · rw [State.originate_off hmode]
  · obtain ⟨l, -, h⟩ := State.originate_eq hmode
    rw [h, State.inc_word, State.word_congr (State.flood_parts ..).2.1, State.word_setLsa_of_ne _ _ _ ha]

theorem State.ownAddr_originate (s : State) : s.originate.ownAddr = s.ownAddr :=
  State.ownAddr_congr (s.rd_originate (by decide) (by decide)) (s.rd_originate (by decide) (by decide))

/-- A device of a cascade or a fabric numbers its LSA anew and counts it. -/
theorem State.originate_seq {s : State} (h : s.fabMode ≠ 0) : (s.originate.lsaOf Config.serial).map Lsa.seq = some s.ownSeq ∧
    s.originate.ctr Cnt.FAB_LSA_SENT = (s.ctr Cnt.FAB_LSA_SENT).add 1 := by
  obtain ⟨l, hseq, heq⟩ := State.originate_eq h
  have hlsas (t : State) (m : FabMsg) : ((t.flood s.fabLanes m).inc Cnt.FAB_LSA_SENT).lsaOf Config.serial = t.lsaOf Config.serial :=
    congrArg (Tab.get (fun _ => (none : Option Lsa)) · Config.serial) ((congrArg Shl.lsas (State.inc_shl ..)).trans (State.flood_nbrs_lsas ..).2)
  have hflood (t : State) (m : FabMsg) : (t.flood s.fabLanes m).ctrs = t.ctrs := by simp
  rw [heq, hlsas, State.lsaOf_setLsa, if_pos rfl, State.ctr_inc, if_pos rfl, State.ctr_congr (hflood ..)]
  exact ⟨congrArg some hseq, congrArg (Ctr.add · 1) (State.ctr_congr rfl _)⟩

/-! Neighbours and routes (R424, R430). -/

/-- A bit of a word of 16 bits cleared under a mask. -/
theorem testBit_cleared (x : Nat) {n : Nat} (hn : n < 16) : (x &&& (0xFFFF ^^^ 2 ^ n)).testBit n = false := by
  have hmask : (0xFFFF : Nat).testBit n = true := by
    change (2 ^ 16 - 1).testBit n = true
    rw [Nat.testBit_two_pow_sub_one]
    exact decide_eq_true hn
  rw [Nat.testBit_and, Nat.testBit_xor, hmask, Nat.testBit_two_pow_self]
  exact Bool.and_false _

theorem State.markNbr_off (s : State) {n : Nat} (hn : n < 16) : ((s.markNbr n false).rd Reg.SHL_FAB_STATUS.NBR_LANES).testBit n = false := by
  rw [State.markNbr, State.rd_wr _ _ _ (by decide), Nat.testBit_mod_two_pow]
  exact (congrArg (_ && ·) (testBit_cleared _ hn)).trans (Bool.and_false _)

/-- A lane cleared from one routing entry. -/
def State.clearRoute (s : State) (n d : Nat) : State :=
  let old := s.rd (Reg.SHL_ROUTE.LANES d)
  let new := old &&& (0xFFFF ^^^ 2 ^ n)
  if old = new then s
  else
    let s1 := s.wr (Reg.SHL_ROUTE.LANES d) new
    if new = 0 then s1.wr (Reg.SHL_ROUTE.VALID d) 0 else s1

theorem State.word_clearRoute_of_ne (s : State) {n d a : Nat} (ha : a ≠ Reg.SHL_ROUTE.addr d) : (s.clearRoute n d).word a = s.word a := by
  have hlanes (v : Nat) : (s.wr (Reg.SHL_ROUTE.LANES d) v).word a = s.word a := State.word_wr_of_ne s ha v
  unfold State.clearRoute
  extract_lets old new s1
  split
  · rfl
  · split
    · exact (State.word_wr_of_ne _ ha _).trans (hlanes _)
    · exact hlanes _

theorem State.rd_clearRoute (s : State) (n d : Nat) :
    (s.clearRoute n d).rd (Reg.SHL_ROUTE.LANES d) = s.rd (Reg.SHL_ROUTE.LANES d) &&& (0xFFFF ^^^ 2 ^ n) := by
  have hfits : (s.rd (Reg.SHL_ROUTE.LANES d) &&& (0xFFFF ^^^ 2 ^ n)) % 2 ^ 16 = s.rd (Reg.SHL_ROUTE.LANES d) &&& (0xFFFF ^^^ 2 ^ n) :=
    Nat.mod_eq_of_lt (Nat.lt_of_le_of_lt Nat.and_le_left (Nat.mod_lt _ (Nat.two_pow_pos 16)))
  unfold State.clearRoute
  extract_lets old new s1
  have hs1 : s1.rd (Reg.SHL_ROUTE.LANES d) = new := (State.rd_wr _ _ _ (by simp)).trans hfits
  split
  · assumption
  · split
    · exact (State.rd_wr_bits _ _ _ _ (by simp) (by simp) (by simp)).trans hs1
    · exact hs1

/-- A cleared lane changes the words of the routes alone. -/
theorem State.word_clearLane_of_ne (s : State) {n a : Nat} (ha : ∀ d < 64, a ≠ Reg.SHL_ROUTE.addr d) : (s.clearLane n).word a = s.word a :=
  foldl_reading (fun t : State => t.word a) _ _ s fun t d hd => State.word_clearRoute_of_ne t (ha d (List.mem_range.1 hd))

/-- A cleared lane is a lane of no route. -/
theorem State.clearLane_off (s : State) {n d : Nat} (hn : n < 16) (hd : d < 64) :
    ((s.clearLane n).rd (Reg.SHL_ROUTE.LANES d)).testBit n = false := by
  have hstep (t : State) (e : Nat) : ((t.clearRoute n e).rd (Reg.SHL_ROUTE.LANES d)).testBit n =
      (if e = d then false else (t.rd (Reg.SHL_ROUTE.LANES d)).testBit n) := by
    split
    · next h =>
      rw [h, State.rd_clearRoute]
      exact testBit_cleared _ hn
    · next h =>
      exact congrArg (Nat.testBit · n) (State.rd_congr_word (State.word_clearRoute_of_ne t (by simp only [Reg.SHL_ROUTE.addr]; omega)))
  have hfold (l : List Nat) (t : State) (h : d ∈ l ∨ (t.rd (Reg.SHL_ROUTE.LANES d)).testBit n = false) :
      ((l.foldl (fun s d => s.clearRoute n d) t).rd (Reg.SHL_ROUTE.LANES d)).testBit n = false := by
    induction l generalizing t with
    | nil => simpa using h
    | cons e l ih =>
      refine ih _ ?_
      rw [hstep]
      grind
  exact hfold _ s (.inl (List.mem_range.2 hd))

/-- A neighbour that stops being live is no neighbour, and its lane no lane of a neighbour or a route. -/
theorem State.loseNbr_facts {s : State} {n : Nat} {b : Nbr} (hb : s.nbr n = some b) (hn : n < 16) : (s.loseNbr n).nbr n = none ∧
    ((s.loseNbr n).rd Reg.SHL_FAB_STATUS.NBR_LANES).testBit n = false ∧
    ∀ d < 64, ((s.loseNbr n).rd (Reg.SHL_ROUTE.LANES d)).testBit n = false := by
  simp only [State.loseNbr, hb]
  refine ⟨?_, ?_, fun d hd => ?_⟩
  · rw [State.nbr_originate]
    have hkept (t : State) : ((t.markNbr n false).clearLane n).nbr n = t.nbr n :=
      congrArg (Tab.get (fun _ => (none : Option Nbr)) · n) (foldl_reading (fun t : State => t.shl.nbrs) _ _ (t.markNbr n false) fun t d _ => by
        dsimp only
        split
        · rfl
        · split <;> rfl)
    rw [hkept]
    exact Tab.get_set_same (fun _ => none) s.shl.nbrs n none
  · rw [State.rd_originate _ (by decide) (by decide),
      State.rd_congr_word (State.word_clearLane_of_ne _ fun d _ => by simp only [Reg.SHL_ROUTE.addr]; omega)]
    exact State.markNbr_off _ hn
  · rw [State.rd_congr_word (State.word_originate_of_ne _ (by simp only [Reg.SHL_FAB_STATUS.addr]; omega))]
    exact State.clearLane_off _ hn hd

end Sys2Proof.Machine

/-! SUPPORT. The fabric: neighbours, link states, addresses, routes, packets and remote bindings (13_cascade_and_fabric.md R424 to R440). -/

namespace Sys2Proof.Machine

set_option autoImplicit false

/-! Neighbours (R424). -/

/-- A HELLO on a lane of the role makes its sender the neighbour there, and no other lane's. -/
theorem exec_hello_on {s : State} {n : Fin 16} (hlane : s.fabLane n.val = true) (a : BitVec 8) (l : Fin 16) (x : BitVec 64) :
    Completes (exec (.hello n a l x) s) (fun t =>
      t.nbr n.val = some ⟨x.toNat, l.val, a.toNat⟩ ∧ (∀ m, m ≠ n.val → t.nbr m = s.nbr m)) := by
  refine ⟨_, congrArg ok (if_neg (by simp [hlane])), ?_⟩
  split
  · next h => exact ⟨h, fun _ _ => rfl⟩
  · refine ⟨?_, fun m hm => ?_⟩
    · rw [State.nbr_originate]
      exact Tab.get_set_same (fun _ => none) s.shl.nbrs n.val (some ⟨x.toNat, l.val, a.toNat⟩)
    · rw [State.nbr_originate]
      exact Tab.get_set_ne (fun _ => none) s.shl.nbrs n.val m (some ⟨x.toNat, l.val, a.toNat⟩) hm

/-! LSAs (R425). -/

/-- An LSA that claims another address is no conflict (R427). -/
theorem State.conflict_of_ne {s : State} {l : Lsa} (h : s.ownAddr ≠ some l.addr) : s.conflict l = s := if_neg fun hc => h hc.1

/-- An LSA of a device not held yet, which claims no address of this device, is kept, counted and sent on to the other lanes. -/
theorem exec_lsa_new {s : State} {n : Fin 16} {l : Lsa} (hlane : s.fabLane n.val = true) (hnew : s.lsaOf l.serial = none)
    (haddr : s.ownAddr ≠ some l.addr) : exec (.lsa n l) s = .next
      (((s.setLsa l.serial (some l)).inc Cnt.FAB_LSA_KEPT).flood
        (s.fabLanes.filter (fun m => m ≠ n.val)) (.lsa l)) := by
  have hown (r : State) (ms : List Nat) (hr : r = (s.setLsa l.serial (some l)).inc Cnt.FAB_LSA_KEPT) : (r.flood ms (.lsa l)).ownAddr = s.ownAddr := by
    rw [hr]
    exact (State.ownAddr_congr (by rw [State.flood_rd, State.inc_rd]) (by rw [State.flood_rd, State.inc_rd])).trans (s.ownAddr_setLsa l.serial _)
  refine congrArg ok ((if_neg (by simp [hlane, hnew])).trans (State.conflict_of_ne ?_))
  rw [hown _ _ rfl]
  exact haddr

theorem exec_lsa_old {s : State} {n : Fin 16} {l o : Lsa} (hold : s.lsaOf l.serial = some o) (hseq : l.seq ≤ o.seq) :
    exec (.lsa n l) s = .next s := by
  change execLsa n l s = _
  simp [execLsa, hold, Nat.not_lt.2 hseq, ok]

/-! Addresses (R426, R428). -/

theorem State.ownAddr_setAddr (s : State) {x : Nat} (hx : x < 64) : (s.setAddr (some x)).ownAddr = some x := by
  have hne : Reg.SHL_FAB_STATUS.addr ≠ Reg.SHL_ROUTE.addr (x % 64) := by simp only [Reg.SHL_FAB_STATUS.addr, Reg.SHL_ROUTE.addr]; omega
  have hroute (t : State) {f : Fld} (hf : f.addr = Reg.SHL_FAB_STATUS.addr) :
      (((t.putWord (Reg.SHL_ROUTE.addr (x % 64)) 0).wr (Reg.SHL_ROUTE.LOCAL (x % 64)) 1).endCause .FABRIC_NO_ADDR srcFab 0).rd f = t.rd f := by
    rw [State.endCause_rd, State.rd_wr_addr _ _ _ _ (hf ▸ hne), State.rd_putWord, if_neg (hf ▸ hne)]
  have hvalid : (s.setAddr (some x)).bit Reg.SHL_FAB_STATUS.ADDR_VALID = true := by
    rw [State.bit_eq_rd, State.setAddr, hroute (f := Reg.SHL_FAB_STATUS.ADDR_VALID) _ rfl, State.rd_wr_bits _ _ _ _ (by decide) (by decide) (by decide), State.rd_wr _ _ _ (by decide)]
    rfl
  have haddr : (s.setAddr (some x)).rd Reg.SHL_FAB_STATUS.ADDR = x := by
    rw [State.setAddr, hroute (f := Reg.SHL_FAB_STATUS.ADDR) _ rfl, State.rd_wr _ _ _ (by decide)]
    exact Nat.mod_eq_of_lt hx
  rw [State.ownAddr, if_pos hvalid, haddr]

/-- The first of the devices without an address takes address 0 of an empty fabric. -/
theorem exec_addressSettle_first {s : State} (hmode : s.fabMode = 2) (hnone : s.ownAddr = none)
    (hfixed : s.bit Reg.SHL_FAB_CFG.ADDR_FIXED = false) (hheld : s.held = []) :
    exec .addressSettle s = .next (s.setAddr (some 0)).originate := by
  change execAddressSettle s = _
  simp [execAddressSettle, State.isMaster, State.addrLimit, hmode, hnone, hfixed, hheld, ok]

/-! Routes (R429). -/

theorem State.word_seeMaster_of_ne (s : State) {a : Nat} (ha : a ≠ Reg.SHL_FAB_STATUS.addr) : s.seeMaster.word a = s.word a := by
  unfold State.seeMaster
  split
  · exact (State.endCause_word ..).trans (State.word_wr_of_ne s ha _)
  · split
    · rfl
    · exact State.word_wr_of_ne s ha _

/-- The words of a table's entries written one after another: each is as the table gives it. -/
theorem State.word_putWords (f : Nat → Word) (l : List Nat) (s : State) {d : Nat} (hd : d ∈ l) :
    (l.foldl (fun s d => s.putWord (Reg.SHL_ROUTE.addr d) (f d)) s).word (Reg.SHL_ROUTE.addr d) = f d := by
  have hkeep (l : List Nat) (s : State) (h : s.word (Reg.SHL_ROUTE.addr d) = f d) :
      (l.foldl (fun s d => s.putWord (Reg.SHL_ROUTE.addr d) (f d)) s).word (Reg.SHL_ROUTE.addr d) = f d :=
    List.foldlRecOn (motive := fun t : State => t.word (Reg.SHL_ROUTE.addr d) = f d) l _ h fun t ht e _ => by
      rw [State.word_putWord]
      split
      · next he => rw [show e = d by simp only [Reg.SHL_ROUTE.addr] at he; omega]
      · exact ht
  induction l generalizing s with
  | nil => cases hd
  | cons e l ih =>
    rcases List.mem_cons.1 hd with rfl | hl
    · exact hkeep l _ (State.word_putWord_same ..)
    · exact ih _ hl

theorem State.word_recompute (s : State) {d : Nat} (hd : d < 64) :
    s.recompute.word (Reg.SHL_ROUTE.addr d) = if s.ownAddr = some d then 0x40000000#32 else routeWord (s.routeTo d) := by
  have hput := State.word_putWords (fun d => if s.ownAddr = some d then 0x40000000#32 else routeWord (s.routeTo d)) (List.range 64) s
    (List.mem_range.2 hd)
  unfold State.recompute
  extract_lets news s1
  rw [State.word_seeMaster_of_ne _ (by simp only [Reg.SHL_ROUTE.addr, Reg.SHL_FAB_STATUS.addr]; omega)]
  refine Eq.trans ?_ hput
  have hs1 : s1 = (List.range 64).foldl
      (fun s' d => s'.putWord (Reg.SHL_ROUTE.addr d) (if s.ownAddr = some d then 0x40000000#32 else routeWord (s.routeTo d))) s :=
    List.foldl_map
  split
  · exact (State.inc_word ..).trans (congrArg (State.word · _) hs1)
  · exact congrArg (State.word · _) hs1

/-! Packets (R434, R435). -/

/-- A buffer taken, or none, counts below the fabric's counters nothing and leaves words, queues and egress alone. -/
theorem State.allocate_kept (c len : Nat) (bytes : List Byte) (k : State → Nat → Bool) (fuel n : Nat) (s : State) :
    (s.allocate c len bytes k fuel n).1.words = s.words ∧ (s.allocate c len bytes k fuel n).1.cpg.queues = s.cpg.queues ∧
    (s.allocate c len bytes k fuel n).1.cpg.egress = s.cpg.egress ∧
    ∀ a < 0x91000, (s.allocate c len bytes k fuel n).1.ctr a = s.ctr a := by
  induction fuel generalizing s n with
  | zero => exact ⟨rfl, rfl, rfl, fun _ _ => rfl⟩
  | succ fuel ih =>
    unfold State.allocate
    split
    · exact ⟨rfl, rfl, rfl, fun _ _ => rfl⟩
    · split
      · exact ih ..
      · split
        · refine ⟨?_, ?_, ?_, fun a ha => (State.ctr_inc _ _ a).trans (if_neg (by simp only [Cnt.CPG_ALLOCS]; omega))⟩
          · exact (State.inc_words .. :)
          · exact (congrArg Cpg.queues (State.inc_cpg ..) :)
          · exact (congrArg Cpg.egress (State.inc_cpg ..) :)
        · split
          · exact ⟨rfl, rfl, rfl, fun _ _ => rfl⟩
          · obtain ⟨hwords, hqueues, hegress, hctr⟩ := ih (n + 1) (s.inc (Cnt.CPG_FALLBACK n))
            have hinc : (s.inc (Cnt.CPG_FALLBACK n)).cpg = s.cpg := State.inc_cpg ..
            refine ⟨hwords.trans (State.inc_words ..), hqueues.trans (congrArg Cpg.queues hinc), hegress.trans (congrArg Cpg.egress hinc),
              fun a ha => (hctr a ha).trans ((State.ctr_inc _ _ a).trans (if_neg (by simp only [Cnt.CPG_FALLBACK]; omega)))⟩

/-- A packet whose TTL is spent: its buffer taken in `r` and given back, it is counted. -/
def State.ttlSpent (r : State) (b : Nat) : State :=
  (((r.epochRef r.published).inc Cnt.FAB_TTL_DROP).unref b).epochUnref r.published

theorem State.ttlSpent_facts (r : State) (b : Nat) : (r.ttlSpent b).ctr Cnt.FAB_TTL_DROP = (r.ctr Cnt.FAB_TTL_DROP).add 1 ∧
    (r.ttlSpent b).cpg.queues = r.cpg.queues ∧ (r.ttlSpent b).cpg.egress = r.cpg.egress := by
  obtain ⟨bufs, hcpg⟩ := ((r.epochRef r.published).inc Cnt.FAB_TTL_DROP).unref_cpg b
  have href (t : State) (e : Nat) : (t.epochRef e).cpg = t.cpg := by simp
  have hunref (t : State) (e : Nat) : (t.epochUnref e).cpg = t.cpg := by simp
  have hrest : (r.ttlSpent b).cpg = { r.cpg with bufs := bufs } := by
    rw [State.ttlSpent, hunref, hcpg, State.inc_cpg, href]
  refine ⟨?_, (congrArg Cpg.queues hrest :), (congrArg Cpg.egress hrest :)⟩
  rw [State.ttlSpent, State.ctr_congr (State.epochUnref_parts ..).2.2.1, (State.unref_queues_ctr ..).2 _ (by simp only [Cnt.FAB_TTL_DROP, Cnt.CPG_DOUBLE_FREE]; omega),
    State.ctr_inc, if_pos rfl, State.ctr_congr (State.epochRef_parts ..).2.2.1]

section
variable {s : State} {n : Fin 16} (hlane : s.fabLane n.val = true) (hsafe : s.flt.safe = false)
include hlane hsafe

theorem exec_packet_early (hstage : s.stage < 3) (b : List Byte) (f : Bool) : exec (.packet n b f) s = .next (s.inc Cnt.BOOT_STAGE_DROP) := by
  change execPacket n b f s = _
  simp [execPacket, hlane, hsafe, hstage, ok]

variable (hstage : 3 ≤ s.stage) {b : List Byte}
include hstage

theorem exec_packet_bad (f : Bool) (hbad : (b.getD 0 0#8).toNat / 64 ≠ 1 ∨ b.length < 72 ∨ 16395 < b.length) :
    exec (.packet n b f) s = .next (s.inc Cnt.FAB_BAD_DEST_DROP) := by
  have hform : (b.getD 0 0#8).toNat / 64 ≠ 1 ∨ (b.drop 12).length < 60 ∨ 16383 < (b.drop 12).length := by
    rw [List.length_drop]
    omega
  change execPacket n b f s = _
  simp only [execPacket, hlane, hsafe, Nat.not_lt.2 hstage, if_pos hform, Bool.not_true, Bool.or_self, Bool.false_eq_true, ↓reduceIte, ok]

variable (hver : (b.getD 0 0#8).toNat / 64 = 1) (hmin : 72 ≤ b.length) (hmax : b.length ≤ 16395)
include hver hmin hmax

omit hlane hsafe hstage in
theorem packet_wellFormed : ¬((b.getD 0 0#8).toNat / 64 ≠ 1 ∨ (b.drop 12).length < 60 ∨ 16383 < (b.drop 12).length) := by
  rw [List.length_drop]
  omega

theorem exec_packet_full : exec (.packet n b true) s = .next (s.overrun (srcLane n.val) 0) := by
  change execPacket n b true s = _
  simp only [execPacket, hlane, hsafe, Nat.not_lt.2 hstage, if_neg (packet_wellFormed hver hmin hmax), Bool.not_true, Bool.or_self,
    Bool.false_eq_true, ↓reduceIte, ok]

/-- A packet for another device with its TTL spent gives back the buffer it took. -/
theorem exec_packet_ttl (haddr : s.ownAddr ≠ some ((b.getD 1 0#8).toNat % 64)) (httl : (b.getD 0 0#8).toNat % 64 ≤ 1) {h : Nat}
    (hbuf : (s.newBuf ((b.getD 3 0#8).toNat / 32) (b.length - 12) (b.drop 12)).2 = some h) :
    exec (.packet n b false) s = .next ((s.newBuf ((b.getD 3 0#8).toNat / 32) (b.length - 12) (b.drop 12)).1.ttlSpent h) := by
  have hepoch (r : State) {f : Fld} (hf : f.addr = Reg.SHL_FAB_STATUS.addr) : (r.epochRef r.published).rd f = r.rd f :=
    State.rd_wr_addr _ _ _ _ (by rw [hf]; simp only [Reg.SHL_FAB_STATUS.addr]; omega)
  have hother (r : State) (hr : r.words = s.words) : (r.epochRef r.published).ownAddr ≠ some ((b.getD 1 0#8).toNat % 64) := by
    rwa [State.ownAddr_congr (hepoch r rfl) (hepoch r rfl), State.ownAddr_congr (State.rd_congr hr _) (State.rd_congr hr _)]
  have hno := hother (s.newBuf ((b.getD 3 0#8).toNat / 32) (b.length - 12) (b.drop 12)).1 (State.allocate_kept ..).1
  change execPacket n b false s = _
  simp only [execPacket, hlane, hsafe, Nat.not_lt.2 hstage, if_neg (packet_wellFormed hver hmin hmax), Bool.not_true, Bool.or_self,
    Bool.false_eq_true, ↓reduceIte]
  simp only [List.length_drop, hbuf, if_neg hno, if_pos httl]
  rfl

end


/-- Settles O41: each command by its own branch, over the rules of the fabric's operations; a packet by the first check it fails. -/
theorem fabricControlAndPackets : Obligations.FabricControlAndPackets := by
  refine ⟨⟨fun s => rfl, fun n a l x s hoff => congrArg ok (if_pos (by simp [hoff])), fun n a l x s hlane => exec_hello_on hlane a l x,
    fun n s hnone => congrArg ok (if_neg (by simp [hnone])), fun n b s hb => ?timeout, fun n l s hlane hnew hother haddr => ?kept,
    fun n l o s hold hseq => exec_lsa_old hold hseq, fun s hmode => congrArg ok (State.originate_off hmode), fun o s hmode hown => ?refresh,
    fun x s => ⟨_, rfl, ?expiry⟩, fun s hno => congrArg ok (if_pos ?settled), fun s hmode hnone hfixed hheld => ?settle,
    fun s => ⟨_, rfl, fun d => State.word_recompute s d.isLt⟩, fun s hmode hmaster hroute => ?lost, fun s hno => congrArg ok (if_neg ?notLost)⟩,
    fun n b f s hoff => congrArg ok (if_pos (by simpa using hoff)), fun n b f s hlane hsafe hstage => ?early,
    fun n b f s hlane hsafe hstage hbad => ?bad, fun n b s hlane hsafe hstage hver hmin hmax => ?full,
    fun n b s hlane hsafe hstage hver hmin hmax haddr httl hbuf => ?ttl, fun ag q v s hreach => congrArg ok (State.winGate_reaches hreach _ _)⟩
  case timeout =>
    obtain ⟨hnone, hmark, hroutes⟩ := State.loseNbr_facts hb n.isLt
    exact ⟨_, congrArg ok (if_pos (by simp [hb])), hnone, hmark, fun d => hroutes d d.isLt⟩
  case kept =>
    refine ⟨_, exec_lsa_new hlane hnew haddr, ?_, ?_, congrArg Lane.fab ?_⟩
    · have hlsas (t : State) (ms : List Nat) : ((t.inc Cnt.FAB_LSA_KEPT).flood ms (.lsa l)).lsaOf l.serial = t.lsaOf l.serial :=
        congrArg (Tab.get (fun _ => (none : Option Lsa)) · l.serial)
          ((State.flood_nbrs_lsas ..).2.trans (congrArg Shl.lsas (State.inc_shl ..)))
      rw [hlsas, State.lsaOf_setLsa, if_pos rfl]
    · have hflood (t : State) (ms : List Nat) (m : FabMsg) : (t.flood ms m).ctrs = t.ctrs := by simp
      rw [State.ctr_congr (hflood ..), State.ctr_inc, if_pos rfl, State.ctr_congr (State.setLsa_parts ..).2.2.1]
    · rw [State.flood_lane_of_not_mem _ (by simp), State.lane_congr (State.inc_shl ..)]
      rfl
  case refresh =>
    obtain ⟨hseq, hctr⟩ := State.originate_seq hmode
    exact ⟨_, rfl, by rw [hseq, State.ownSeq, hown], hctr⟩
  case expiry =>
    refine ⟨by rw [State.lsaOf_setLsa, if_pos rfl], fun y hy => by rw [State.lsaOf_setLsa, if_neg hy], rfl⟩
  case settled => grind
  case settle =>
    exact ⟨_, exec_addressSettle_first hmode hnone hfixed hheld, (State.ownAddr_originate _).trans (s.ownAddr_setAddr (by decide))⟩
  case lost =>
    refine ⟨_, congrArg ok (if_pos (by simp [State.isMaster, hmode, hmaster, hroute])), ?_, rfl⟩
    rw [State.bit_eq_rd, State.onset_rd, State.rd_wr _ _ _ (by decide)]
    rfl
  case notLost => grind
  case early => exact exec_packet_early hlane hsafe hstage b f
  case bad => exact exec_packet_bad hlane hsafe hstage f hbad
  case full => exact exec_packet_full hlane hsafe hstage hver hmin hmax
  case ttl =>
    obtain ⟨h, hh⟩ := Option.isSome_iff_exists.1 hbuf
    obtain ⟨-, hqueues, hegress, hctr⟩ := State.allocate_kept ((b.getD 3 0#8).toNat / 32) (b.length - 12) (b.drop 12) (fun _ _ => true) 4 0 s
    obtain ⟨hdrop, hq, he⟩ := (s.newBuf ((b.getD 3 0#8).toNat / 32) (b.length - 12) (b.drop 12)).1.ttlSpent_facts h
    exact ⟨_, exec_packet_ttl hlane hsafe hstage hver hmin hmax haddr httl hh, hdrop.trans (congrArg (Ctr.add · 1) (hctr _ (by decide))),
      hq.trans hqueues, he.trans hegress⟩

end Sys2Proof.Machine

/-! SUPPORT. Rules of a lane that moves to another state (12_serial_lanes.md Table 12-10, R411): it takes the state it moves to, and of the
lane registers nothing else moves but its own seal and phases. -/

namespace Sys2Proof.Machine

set_option autoImplicit false

/-- The registers of the lanes stand from one state to another. -/
structure State.LaneRegs (t s : State) : Prop where
  word : ∀ a, 0x60100 ≤ a → a < 0x60300 → t.word a = s.word a

theorem State.LaneRegs.refl (s : State) : s.LaneRegs s := ⟨fun _ _ _ => rfl⟩

theorem State.LaneRegs.trans {r t s : State} (h : r.LaneRegs t) (g : t.LaneRegs s) : r.LaneRegs s :=
  ⟨fun a hlo hhi => (h.word a hlo hhi).trans (g.word a hlo hhi)⟩

theorem State.LaneRegs.of_words {t s : State} (h : t.words = s.words) : t.LaneRegs s := ⟨fun _ _ _ => State.word_congr h _⟩

theorem State.Aside.laneRegs {t s : State} (h : t.Aside s) : t.LaneRegs s := ⟨fun a _ hhi => h.word a (by omega)⟩

theorem State.LaneRegs.congr {r t s : State} (g : t.LaneRegs s) (h : r.words = t.words) : r.LaneRegs s := (State.LaneRegs.of_words h).trans g

/-- A field of a lane's STATUS reads the same where the lane registers stand. -/
theorem State.LaneRegs.rd_status {t s : State} (h : t.LaneRegs s) {n : Nat} (hn : n < 16) (lo w : Nat) :
    t.rd ⟨Reg.SHL_LANE_STATUS.addr n, lo, w⟩ = s.rd ⟨Reg.SHL_LANE_STATUS.addr n, lo, w⟩ :=
  State.rd_congr_word (h.word _ (by simp only [Reg.SHL_LANE_STATUS.addr]; omega) (by simp only [Reg.SHL_LANE_STATUS.addr]; omega))

theorem State.LaneRegs.laneState {t s : State} (h : t.LaneRegs s) {n : Nat} (hn : n < 16) : t.laneState n = s.laneState n := h.rd_status hn 29 3

theorem State.LaneRegs.sealed {t s : State} (h : t.LaneRegs s) {n : Nat} (hn : n < 16) :
    t.bit (Reg.SHL_LANE_STATUS.SEALED n) = s.bit (Reg.SHL_LANE_STATUS.SEALED n) := congrArg (· != 0) (h.rd_status hn 28 1)

theorem State.wr_laneRegs (s : State) {f : Fld} (hf : f.addr < 0x60100 ∨ 0x60300 ≤ f.addr) (v : Nat) : (s.wr f v).LaneRegs s :=
  ⟨fun a hlo hhi => State.word_wr_of_ne s (by omega) v⟩

/-! The twin link of a lane that joins or leaves it. -/

theorem State.split_words (s : State) (on : Bool) : (s.split on).words = s.words := by cases on <;> rfl

/-- Ownership settled, the trees stored and the split entered or left, writes no word but that of the trees. -/
theorem State.word_settled_of_ne (s : State) (w : Twn) (l : List (Fin 32)) (on : Bool) {a : Nat} (hown : a ≠ Reg.TWN_OWN.addr) :
    ((({ s with twn := w } : State).setOwn l).split on).word a = s.word a :=
  (State.word_congr (State.split_words ..) a).trans (State.word_wr_of_ne _ (f := Reg.TWN_OWN.OWN) hown _)

theorem State.word_takeOwnership_of_ne (s : State) {a : Nat} (hstatus : a ≠ Reg.TWN_STATUS.addr) (hown : a ≠ Reg.TWN_OWN.addr) :
    s.takeOwnership.word a = s.word a := by
  unfold State.takeOwnership
  extract_lets s1 twn put theirs
  have h1 : s1.word a = s.word a := State.word_wr_of_ne s (f := Reg.TWN_STATUS.PRIMARY) hstatus _
  have hput (l : List (Fin 32)) : (put l).word a = s.word a := (State.word_settled_of_ne _ _ _ _ hown).trans h1
  split
  · rfl
  · split
    · split <;> exact hput _
    · split
      · exact hput _
      · exact (State.word_settled_of_ne _ _ _ _ hown).trans h1

theorem State.takeOwnership_laneRegs (s : State) : s.takeOwnership.LaneRegs s :=
  ⟨fun a hlo _ => s.word_takeOwnership_of_ne (by simp only [Reg.TWN_STATUS.addr]; omega) (by simp only [Reg.TWN_OWN.addr]; omega)⟩

theorem State.redecide_laneRegs (s : State) : s.redecide.LaneRegs s := by
  unfold State.redecide
  split
  · exact s.takeOwnership_laneRegs
  · exact .refl s

theorem State.twinLane_laneRegs (s : State) (n : Nat) (up : Bool) : (s.twinLane n up).LaneRegs s := by
  have hseal (t : State) : t.twinSealed.LaneRegs t := State.wr_laneRegs t (f := Reg.TWN_STATUS.SEALED) (by decide) _
  have hwr (v : Nat) : (s.wr Reg.TWN_STATUS.LANES_UP v).LaneRegs s := State.wr_laneRegs _ (by decide) _
  unfold State.twinLane
  split
  · refine (hseal _).trans ?_
    split
    · exact (State.Aside.foldl (fun t p => (State.mirror_aside ..).trans (State.setTwinTree_aside ..)) _ _).laneRegs.trans
        ((hwr (s.rd Reg.TWN_STATUS.LANES_UP ||| 2 ^ n)).congr rfl)
    · exact hwr _
  · refine ((State.redecide_laneRegs _).trans (hseal _)).trans ?_
    split <;> exact (hwr (s.rd Reg.TWN_STATUS.LANES_UP &&& (0xF ^^^ 2 ^ n))).congr rfl

/-! The neighbours and the transit queues of a lane that goes. -/

theorem State.originate_laneRegs (s : State) : s.originate.LaneRegs s :=
  ⟨fun a hlo _ => s.word_originate_of_ne (by simp only [Reg.SHL_FAB_STATUS.addr]; omega)⟩

theorem State.clearLane_laneRegs (s : State) (n : Nat) : (s.clearLane n).LaneRegs s :=
  ⟨fun a _ hhi => s.word_clearLane_of_ne fun d _ => by simp only [Reg.SHL_ROUTE.addr]; omega⟩

theorem State.loseNbr_laneRegs (s : State) (n : Nat) : (s.loseNbr n).LaneRegs s := by
  unfold State.loseNbr
  split
  · exact s.clearLane_laneRegs n
  · exact (State.originate_laneRegs _).trans ((State.clearLane_laneRegs ..).trans
      ((State.wr_laneRegs s (f := Reg.SHL_FAB_STATUS.NBR_LANES) (by decide) _).congr rfl))

theorem State.flushTransit_laneRegs (s : State) (n : Nat) : (s.flushTransit n).LaneRegs s :=
  List.foldlRecOn (motive := fun t => State.LaneRegs t s) _ _ (.refl s) fun _ ht _ _ =>
    ((State.flushQueue_aside ..).laneRegs.trans (.of_words (State.count_words ..))).trans ht

/-! The move. -/

/-- A lane that leaves ACTIVE takes its next state and loses its seal. -/
theorem State.leaveActive_status (s : State) {n : Nat} (hn : n < 16) (cause : Option Nat) (dst : Nat) :
    (s.leaveActive n cause dst).laneState n = dst % 8 ∧ (s.leaveActive n cause dst).bit (Reg.SHL_LANE_STATUS.SEALED n) = false := by
  unfold State.leaveActive
  extract_lets role s1 s2 s3
  have hstate : s2.laneState n = dst % 8 := by
    refine (State.rd_wr_bits _ (Reg.SHL_LANE_STATUS.RX_PHASE n) (Reg.SHL_LANE_STATUS.STATE n) _ ?_ ?_ ?_).trans
      ((State.rd_wr_bits _ (Reg.SHL_LANE_STATUS.TX_PHASE n) (Reg.SHL_LANE_STATUS.STATE n) _ ?_ ?_ ?_).trans
        ((State.rd_wr_bits _ (Reg.SHL_LANE_STATUS.SEALED n) (Reg.SHL_LANE_STATUS.STATE n) _ ?_ ?_ ?_).trans (State.rd_wr _ _ _ ?_))) <;> simp
  have hseal : s2.bit (Reg.SHL_LANE_STATUS.SEALED n) = false := by
    refine congrArg (· != 0) ((State.rd_wr_bits _ (Reg.SHL_LANE_STATUS.RX_PHASE n) (Reg.SHL_LANE_STATUS.SEALED n) _ ?_ ?_ ?_).trans
      ((State.rd_wr_bits _ (Reg.SHL_LANE_STATUS.TX_PHASE n) (Reg.SHL_LANE_STATUS.SEALED n) _ ?_ ?_ ?_).trans (State.rd_wr _ _ 0 ?_))) <;> simp
  have h3 : s3.LaneRegs s2 := by
    simp only [s3]
    split
    · exact .of_words (State.raise_words ..)
    · exact .refl s2
  have hkept : (if role = 0 then s3.twinLane n false else (s3.loseNbr n).flushTransit n).LaneRegs s2 := by
    split
    · exact (State.twinLane_laneRegs ..).trans h3
    · exact ((State.flushTransit_laneRegs ..).trans (State.loseNbr_laneRegs ..)).trans h3
  exact ⟨(hkept.laneState hn).trans hstate, (hkept.sealed hn).trans hseal⟩

theorem State.moveLane_laneState (s : State) {n : Nat} (hn : n < 16) (cause : Option Nat) (dst : Nat) :
    (s.moveLane n cause dst).laneState n = dst % 8 := by
  have hgo : (if s.laneUp n = true then s.leaveActive n cause dst else s.goLane n dst).laneState n = dst % 8 := by
    split
    · exact (s.leaveActive_status hn cause dst).1
    · exact State.rd_wr _ _ _ (by simp)
  unfold State.moveLane
  dsimp only
  split
  · exact hgo
  · exact hgo

/-- A lane that was ACTIVE is sealed no longer. -/
theorem State.moveLane_sealed {s : State} {n : Nat} (hn : n < 16) (hup : s.laneUp n = true) (cause : Option Nat) (dst : Nat) :
    (s.moveLane n cause dst).bit (Reg.SHL_LANE_STATUS.SEALED n) = false := by
  have hleft := (s.leaveActive_status hn cause dst).2
  unfold State.moveLane
  dsimp only
  rw [if_pos hup]
  split
  · exact hleft
  · exact hleft

theorem State.toDetect_laneState (s : State) {n : Nat} (hn : n < 16) (cause : Option Nat) : (s.toDetect n cause).laneState n = lnDetect :=
  s.moveLane_laneState hn cause lnDetect

theorem State.toTrain_laneState (s : State) {n : Nat} (hn : n < 16) (cause : Option Nat) : (s.toTrain n cause).laneState n = lnTrain :=
  s.moveLane_laneState hn cause lnTrain

theorem State.toLock_laneState (s : State) {n : Nat} (hn : n < 16) (cause : Option Nat) : (s.toLock n cause).laneState n = lnLock :=
  s.moveLane_laneState hn cause lnLock

theorem State.toExchange_laneState (s : State) {n : Nat} (hn : n < 16) (cause : Option Nat) : (s.toExchange n cause).laneState n = lnExchange :=
  s.moveLane_laneState hn cause lnExchange

end Sys2Proof.Machine

/-! SUPPORT. Uplink port groups and lane test (12_serial_lanes.md R394, R395, R416 to R418). -/

namespace Sys2Proof.Machine

set_option autoImplicit false

/-! A stored word, whatever its register. -/

/-- The three words of the latest denied access. -/
def NotDenied (b : Nat) : Prop := b ≠ Reg.HST_DENIED_LAST_W0.addr ∧ b ≠ Reg.HST_DENIED_LAST_W1.addr ∧ b ≠ Reg.HST_DENIED_LAST_W2.addr

theorem State.word_deny_of_notDenied {b : Nat} (hb : NotDenied b) (s : State) (ag : Agent) (r : Deny) (addr win : Nat) :
    (s.deny ag r addr win).word b = s.word b := State.word_deny_of_ne _ _ _ _ _ hb.1 hb.2.1 hb.2.2

/-- A stored word changes, beside the record of a denied access, the word at its address alone. -/
theorem State.word_storeWord_other (s : State) (ag : Agent) (v : Word) {a b : Nat} (hne : b ≠ a) (hb : NotDenied b) :
    (s.storeWord ag a v).word b = s.word b := by
  unfold State.storeWord
  split
  · exact State.word_deny_of_notDenied hb ..
  · dsimp only
    split
    · rw [State.word_deny_of_notDenied hb, State.word_putWord, if_neg hne]
    · rw [State.word_putWord, if_neg hne]

/-- What a store leaves in a word follows from the words it found. -/
theorem State.word_storeWord_congr {t s : State} (h : t.words = s.words) (ag : Agent) (a : Nat) (v : Word) {b : Nat} (hb : NotDenied b) :
    (t.storeWord ag a v).word b = (s.storeWord ag a v).word b := by
  have hopen : t.lockOpen a = s.lockOpen a := State.bit_congr h _
  unfold State.storeWord
  split
  · rw [State.word_deny_of_notDenied hb, State.word_deny_of_notDenied hb, State.word_congr h]
  · dsimp only
    rw [hopen, State.word_congr h]
    split
    · rw [State.word_deny_of_notDenied hb, State.word_deny_of_notDenied hb, State.word_putWord, State.word_putWord, State.word_congr h]
    · rw [State.word_putWord, State.word_putWord, State.word_congr h]

/-! Ports (R394). -/

/-- The configuration of the uplink lanes stands from one state to another. -/
structure State.UlkCfg (t s : State) : Prop where
  word : ∀ n, t.word (Reg.ULK_CFG.addr n) = s.word (Reg.ULK_CFG.addr n)

theorem State.UlkCfg.refl (s : State) : s.UlkCfg s := ⟨fun _ => rfl⟩

theorem State.UlkCfg.trans {r t s : State} (h : r.UlkCfg t) (g : t.UlkCfg s) : r.UlkCfg s := ⟨fun n => (h.word n).trans (g.word n)⟩

theorem State.UlkCfg.port {t s : State} (h : t.UlkCfg s) (n : Nat) : t.ulkPort n = s.ulkPort n := by
  have hen : t.bit (Reg.ULK_CFG.EN n) = s.bit (Reg.ULK_CFG.EN n) := State.bit_congr_word (h.word n)
  have hwidth : t.rd (Reg.ULK_CFG.WIDTH n) = s.rd (Reg.ULK_CFG.WIDTH n) := State.rd_congr_word (h.word n)
  simp only [State.ulkPort, hen, hwidth]

theorem State.UlkCfg.leader {t s : State} (h : t.UlkCfg s) (n : Nat) : t.ulkLeader n = s.ulkLeader n := by
  simp only [State.ulkLeader, h.port]

theorem State.wr_ulkStatus (s : State) (n lo w v : Nat) : (s.wr ⟨Reg.ULK_STATUS.addr n, lo, w⟩ v).UlkCfg s :=
  ⟨fun m => State.word_wr_of_ne s (by simp only [Reg.ULK_CFG.addr, Reg.ULK_STATUS.addr]; omega) v⟩

theorem State.setLeaders_ulkCfg (s : State) : s.setLeaders.UlkCfg s :=
  List.foldlRecOn (motive := fun t => State.UlkCfg t s) _ _ (.refl s) fun _ ht _ _ => (State.wr_ulkStatus ..).trans ht

theorem State.ulkLeader_lt (s : State) {n : Nat} (hn : n < 24) : s.ulkLeader n < 24 := by
  unfold State.ulkLeader
  cases h : (List.range 24).find? (fun l => match s.ulkPort l with | some w => decide (l ≤ n ∧ n < l + w) | none => false) with
  | none => exact hn
  | some l => exact List.mem_range.1 (List.mem_of_find?_eq_some h)

/-- Every lane's leader is stored as the ports of the configuration give it. -/
theorem State.setLeaders_leader (s : State) {n : Nat} (hn : n < 24) : s.setLeaders.rd (Reg.ULK_STATUS.LEADER n) = s.ulkLeader n := by
  have hstep (t : State) (m : Nat) (ht : t.UlkCfg s) : (t.wr (Reg.ULK_STATUS.LEADER m) (t.ulkLeader m)).rd (Reg.ULK_STATUS.LEADER n) =
      if m = n then s.ulkLeader n else t.rd (Reg.ULK_STATUS.LEADER n) := by
    split
    · next h =>
      rw [h, State.rd_wr _ _ _ (by simp), ht.leader]
      exact Nat.mod_eq_of_lt (Nat.lt_trans (s.ulkLeader_lt hn) (by simp))
    · exact State.rd_wr_addr _ _ _ _ (by simp only; omega)
  have hfold (l : List Nat) (t : State) (ht : t.UlkCfg s) (h : n ∈ l ∨ t.rd (Reg.ULK_STATUS.LEADER n) = s.ulkLeader n) :
      (l.foldl (fun s n => s.wr (Reg.ULK_STATUS.LEADER n) (s.ulkLeader n)) t).rd (Reg.ULK_STATUS.LEADER n) = s.ulkLeader n := by
    induction l generalizing t with
    | nil => simpa using h
    | cons m l ih =>
      refine ih _ ((State.wr_ulkStatus ..).trans ht) ?_
      rw [hstep t m ht]
      grind
  exact hfold _ s (.refl s) (.inl (List.mem_range.2 hn))

/-! A link that falls and a port that trains afresh (R395). -/

/-- The configuration of the uplink lanes, and the leaders shown, stand from one state to another. -/
structure State.UlkPorts (t s : State) : Prop extends t.UlkCfg s where
  leaders : ∀ n, t.rd (Reg.ULK_STATUS.LEADER n) = s.rd (Reg.ULK_STATUS.LEADER n)

theorem State.UlkPorts.refl (s : State) : s.UlkPorts s := ⟨.refl s, fun _ => rfl⟩

theorem State.UlkPorts.trans {r t s : State} (h : r.UlkPorts t) (g : t.UlkPorts s) : r.UlkPorts s :=
  ⟨h.toUlkCfg.trans g.toUlkCfg, fun n => (h.leaders n).trans (g.leaders n)⟩

/-- The status bits lie above the leader. -/
theorem State.wr_ulkStatus_ports (s : State) (n v : Nat) {lo : Nat} (hlo : 5 ≤ lo) (hhi : lo < 32) :
    (s.wr ⟨Reg.ULK_STATUS.addr n, lo, 1⟩ v).UlkPorts s :=
  ⟨State.wr_ulkStatus .., fun _ => State.rd_wr_bits _ _ _ _ hhi (by simp) (.inr hlo)⟩

theorem State.ulkFall_eq_of_up {s : State} {n : Nat} (h : s.bit (Reg.ULK_STATUS.LINK_UP n) = true) (cause : Nat) : s.ulkFall n cause =
    ((s.wr (Reg.ULK_STATUS.LINK_UP n) 0).inc (Cnt.ULK_LINK_DOWNS n)).onset .ULK_LINK_DOWN (srcUlk n) 0 (cause * 2 ^ 8 + n) := if_pos h

theorem State.ulkFall_linkUp (s : State) (n cause : Nat) : (s.ulkFall n cause).bit (Reg.ULK_STATUS.LINK_UP n) = false := by
  cases h : s.bit (Reg.ULK_STATUS.LINK_UP n) with
  | true =>
    rw [State.ulkFall_eq_of_up h, State.bit_eq_rd, State.onset_rd, State.inc_rd, State.rd_wr _ _ _ (by simp)]
    rfl
  | false =>
    rw [State.ulkFall, if_neg (by simp [h])]
    exact h

theorem State.ulkFall_ports (s : State) (n cause : Nat) : (s.ulkFall n cause).UlkPorts s := by
  unfold State.ulkFall
  split
  · have h := s.wr_ulkStatus_ports n 0 (lo := 31) (by decide) (by decide)
    exact ⟨⟨fun m => by rw [State.onset_word, State.inc_word]; exact h.word m⟩, fun m => by rw [State.onset_rd, State.inc_rd]; exact h.leaders m⟩
  · exact .refl s

theorem State.ulkRestart_ports (s : State) (n : Nat) : (s.ulkRestart n).UlkPorts s := by
  unfold State.ulkRestart
  refine List.foldlRecOn (motive := fun t => State.UlkPorts t s) _ _ ?_ fun _ ht _ _ =>
    (State.wr_ulkStatus_ports _ _ _ (lo := 29) (by decide) (by decide)).trans ht
  exact (State.wr_ulkStatus_ports _ _ _ (lo := 30) (by decide) (by decide)).trans (State.ulkFall_ports ..)

theorem State.ulkPort_pos {s : State} {n w : Nat} (h : s.ulkPort n = some w) : 0 < w := by
  have hpos (k : Nat) : 0 < widthOf k := by
    unfold widthOf
    split <;> decide
  unfold State.ulkPort at h
  dsimp only at h
  split at h
  · cases h
    exact hpos _
  · cases h

/-- A port that trains afresh is down, and neither negotiated nor trained. -/
theorem State.ulkRestart_status (s : State) (n : Nat) : (s.ulkRestart n).bit (Reg.ULK_STATUS.LINK_UP n) = false ∧
    (s.ulkRestart n).bit (Reg.ULK_STATUS.AN_DONE n) = false ∧ (s.ulkRestart n).bit (Reg.ULK_STATUS.LT_DONE n) = false := by
  have hw : 0 ∈ List.range ((s.ulkPort n).getD 1) := by
    rw [List.mem_range]
    cases h : s.ulkPort n with
    | none => decide
    | some w => exact State.ulkPort_pos h
  have hother (t : State) (i lo : Nat) (hlo : 30 ≤ lo) (hhi : lo < 32) : (t.wr (Reg.ULK_STATUS.LT_DONE (n + i)) 0).rd ⟨Reg.ULK_STATUS.addr n, lo, 1⟩
      = t.rd ⟨Reg.ULK_STATUS.addr n, lo, 1⟩ := State.rd_wr_bits _ _ _ _ (by simp) (by simpa using hhi) (.inl hlo)
  have hkept (lo : Nat) (hlo : 30 ≤ lo) (hhi : lo < 32) : (s.ulkRestart n).rd ⟨Reg.ULK_STATUS.addr n, lo, 1⟩ =
      ((s.ulkFall n 1).wr (Reg.ULK_STATUS.AN_DONE n) 0).rd ⟨Reg.ULK_STATUS.addr n, lo, 1⟩ :=
    foldl_reading (fun t : State => t.rd ⟨Reg.ULK_STATUS.addr n, lo, 1⟩) _ _ _ fun t i _ => hother t i lo hlo hhi
  have hstep (t : State) (i : Nat) : (t.wr (Reg.ULK_STATUS.LT_DONE (n + i)) 0).rd (Reg.ULK_STATUS.LT_DONE n) =
      if i = 0 then 0 else t.rd (Reg.ULK_STATUS.LT_DONE n) := by
    split
    · next h =>
      subst h
      exact State.rd_wr _ _ _ (by simp)
    · exact State.rd_wr_addr _ _ _ _ (by simp only; omega)
  have hfold (l : List Nat) (t : State) (h : 0 ∈ l ∨ t.rd (Reg.ULK_STATUS.LT_DONE n) = 0) :
      (l.foldl (fun s i => s.wr (Reg.ULK_STATUS.LT_DONE (n + i)) 0) t).rd (Reg.ULK_STATUS.LT_DONE n) = 0 := by
    induction l generalizing t with
    | nil => simpa using h
    | cons i l ih =>
      refine ih _ ?_
      rw [hstep t i]
      grind
  refine ⟨?_, ?_, ?_⟩
  · rw [State.bit_eq_rd, hkept 31 (by decide) (by decide), State.rd_wr_bits _ _ _ _ (by simp) (by simp) (by simp)]
    exact State.ulkFall_linkUp ..
  · rw [State.bit_eq_rd, hkept 30 (by decide) (by decide), State.rd_wr _ _ _ (by simp)]
    rfl
  · exact congrArg (· != 0) (hfold _ _ (.inl hw))

/-- What follows a stored configuration of a port of an uplink lane, of which `was` is the port before. -/
def State.ulkSettled (s : State) (n : Nat) (was : Option Nat) : State :=
  let s1 := s.setLeaders
  if s1.ulkPort n = was then s1 else (if (s1.ulkPort n).isNone then s1.ulkFall n 0 else s1.ulkRestart n)

theorem State.ulkSettled_ports (s : State) (n : Nat) (was : Option Nat) : (s.ulkSettled n was).UlkPorts s.setLeaders := by
  unfold State.ulkSettled
  dsimp only
  split
  · exact .refl _
  · split
    · exact State.ulkFall_ports ..
    · exact State.ulkRestart_ports ..

/-- A write of a lane's configuration that reaches it (R394, R395). -/
theorem State.ulkWrite_eq {ag : Agent} {n : Nat} {v : Word} {r s : State} (hreach : s.reaches ag (Reg.ULK_CFG.addr n) = true)
    (hiso : s.flt.isolated .uplink n = false) (hr : r = (s.hostTlp false ag (Reg.ULK_CFG.addr n)).storeWord ag (Reg.ULK_CFG.addr n) v) :
    s.ulkWrite ag n v = if r.ulkOverlap n = true then (s.hostTlp false ag (Reg.ULK_CFG.addr n)).deny ag .refused (Reg.ULK_CFG.addr n) noWin
      else if v.getLsbD 23 ∧ ((r.ulkSettled n ((s.hostTlp false ag (Reg.ULK_CFG.addr n)).ulkPort n)).ulkPort n).isSome then
        (r.ulkSettled n ((s.hostTlp false ag (Reg.ULK_CFG.addr n)).ulkPort n)).ulkRestart n
      else r.ulkSettled n ((s.hostTlp false ag (Reg.ULK_CFG.addr n)).ulkPort n) := by
  have hkeep : (s.hostTlp false ag (Reg.ULK_CFG.addr n)).flt.isolated .uplink n = false := by rwa [State.hostTlp_flt]
  unfold State.ulkWrite
  dsimp only
  rw [State.gate_reaches hreach, hkeep, if_neg Bool.false_ne_true, ← hr]
  rfl

/-- A write stored leaves the port and the leaders as the stored configuration gives them. -/
theorem State.ulkWrite_ports {r : State} {n : Nat} (was : Option Nat) (again : Prop) [Decidable again] :
    (if again then (r.ulkSettled n was).ulkRestart n else r.ulkSettled n was).UlkPorts r.setLeaders := by
  split
  · exact (State.ulkRestart_ports ..).trans (State.ulkSettled_ports ..)
  · exact State.ulkSettled_ports ..

/-! A link that changes (R395). -/

/-- The status bits of an uplink lane as the link reports them. -/
def State.ulkReported (s : State) (n : Nat) (an lt lf rf : Bool) : State :=
  let b := fun (x : Bool) => if x then 1 else 0
  (((s.wr (Reg.ULK_STATUS.AN_DONE n) (b an)).wr (Reg.ULK_STATUS.LT_DONE n) (b lt)).wr (Reg.ULK_STATUS.LOCAL_FAULT n) (b lf)).wr
    (Reg.ULK_STATUS.REMOTE_FAULT n) (b rf)

section
variable (s : State) (n : Nat) (an lt lf rf : Bool)

theorem State.ulkReported_ports : (s.ulkReported n an lt lf rf).UlkPorts s :=
  (State.wr_ulkStatus_ports _ n _ (lo := 27) (by decide) (by decide)).trans
    ((State.wr_ulkStatus_ports _ n _ (lo := 28) (by decide) (by decide)).trans
      ((State.wr_ulkStatus_ports _ n _ (lo := 29) (by decide) (by decide)).trans
        (State.wr_ulkStatus_ports s n _ (lo := 30) (by decide) (by decide))))

theorem State.ulkReported_word_of_ne {a : Nat} (h : a ≠ Reg.ULK_STATUS.addr n) : (s.ulkReported n an lt lf rf).word a = s.word a :=
  (State.word_wr_of_ne _ h _).trans ((State.word_wr_of_ne _ h _).trans ((State.word_wr_of_ne _ h _).trans (State.word_wr_of_ne _ h _)))

theorem State.ulkReported_linkUp : (s.ulkReported n an lt lf rf).bit (Reg.ULK_STATUS.LINK_UP n) = s.bit (Reg.ULK_STATUS.LINK_UP n) := by
  simp only [State.bit_eq_rd, State.ulkReported]
  rw [State.rd_wr_bits _ _ _ _ (by simp) (by simp) (by simp), State.rd_wr_bits _ _ _ _ (by simp) (by simp) (by simp),
    State.rd_wr_bits _ _ _ _ (by simp) (by simp) (by simp), State.rd_wr_bits _ _ _ _ (by simp) (by simp) (by simp)]

theorem State.ulkReported_anDone : (s.ulkReported n an lt lf rf).bit (Reg.ULK_STATUS.AN_DONE n) = an := by
  simp only [State.bit_eq_rd, State.ulkReported]
  rw [State.rd_wr_bits _ _ _ _ (by simp) (by simp) (by simp), State.rd_wr_bits _ _ _ _ (by simp) (by simp) (by simp),
    State.rd_wr_bits _ _ _ _ (by simp) (by simp) (by simp), State.rd_wr _ _ _ (by simp)]
  cases an <;> rfl

theorem State.ulkReported_remoteFault : (s.ulkReported n an lt lf rf).bit (Reg.ULK_STATUS.REMOTE_FAULT n) = rf := by
  simp only [State.bit_eq_rd, State.ulkReported]
  rw [State.rd_wr _ _ _ (by simp)]
  cases rf <;> rfl

theorem State.ulkReported_testing : (s.ulkReported n an lt lf rf).ulkTesting n = s.ulkTesting n := by
  have hgen (m : Nat) : (s.ulkReported n an lt lf rf).bit (Reg.ULK_LT_CTRL.GEN_EN m) = s.bit (Reg.ULK_LT_CTRL.GEN_EN m) :=
    State.bit_congr_word (s.ulkReported_word_of_ne n an lt lf rf (by simp only [Reg.ULK_STATUS.addr]; omega))
  simp only [State.ulkTesting, (s.ulkReported_ports n an lt lf rf).leader, hgen]

end

theorem exec_ulkLinkChange_up {s : State} {n : Fin 24} (hport : (s.ulkPort n).isSome = true) (htest : s.ulkTesting n = false)
    (hiso : s.flt.isolated .uplink n = false) (c : Fin 4) (an lt lf rf : Bool) : exec (.ulkLinkChange n true c an lt lf rf) s =
    .next (((s.ulkReported n an lt lf rf).wr (Reg.ULK_STATUS.LINK_UP n) 1).endCause .ULK_LINK_DOWN (srcUlk n) 0) := by
  have hport' : ((s.ulkReported n an lt lf rf).ulkPort n).isSome = true := by rwa [(s.ulkReported_ports n an lt lf rf).port]
  have htest' : (s.ulkReported n an lt lf rf).ulkTesting n = false := by rwa [s.ulkReported_testing]
  have hiso' : (s.ulkReported n an lt lf rf).flt.isolated .uplink n = false := hiso
  have hgo : ((s.ulkReported n an lt lf rf).ulkPort n).isSome = true ∧ (!(s.ulkReported n an lt lf rf).ulkTesting n) = true ∧
      (!(s.ulkReported n an lt lf rf).flt.isolated .uplink n) = true := ⟨hport', by rw [htest']; rfl, by rw [hiso']; rfl⟩
  exact congrArg ok (if_pos hgo)

/-! A write of LT_CTRL (R416, R418). -/

theorem State.settleInj_words (s : State) (a : Nat) : (s.settleInj a).words = s.words := by
  unfold State.settleInj
  split
  · rfl
  · dsimp only
    split
    · rfl
    · exact State.count_words ..

/-- A stored LT_CTRL: what an injection has made so far counted first, the rate's start set after. -/
def State.ltStored (s : State) (ag : Agent) (b : LaneBlock) (v : Word) : State :=
  ((s.settleInj (laneBase b)).storeWord ag (laneBase b) (putField v 16 6 (max 4 (min 40 ((v.extractLsb' 16 6).toNat))))).rateFrom (laneBase b)

/-- A checker that is not enabled loses its lock and its register. -/
def State.chkCleared (s : State) (b : LaneBlock) : State :=
  if s.bit (laneFld b 0 30 1) then s else (s.wr (laneFld b 4 31 1) 0).setChk b Chk.zero

/-- Errors injected at once, unless an injection runs. -/
def State.injected (s : State) (b : LaneBlock) (go : Bool) : State :=
  if go ∧ !s.bit (laneFld b 4 29 1) then
    match s.rd (laneFld b 0 24 2) with
    | 1 => s.inc (laneBase b + 0x18)
    | 2 => s.count (laneBase b + 0x18) (max 1 (s.rd (laneFld b 0 8 8)))
    | _ => s
  else s

theorem State.ltWrite_eq {s : State} {ag : Agent} {b : LaneBlock} (hreach : s.reaches ag (laneBase b) = true) (v : Word) :
    s.ltWrite ag b v = (State.chkCleared (if s.bit (laneFld b 0 31 1) = ((s.hostTlp false ag (laneBase b)).ltStored ag b v).bit (laneFld b 0 31 1)
      then (s.hostTlp false ag (laneBase b)).ltStored ag b v
      else ((s.hostTlp false ag (laneBase b)).ltStored ag b v).genChange b
        (((s.hostTlp false ag (laneBase b)).ltStored ag b v).bit (laneFld b 0 31 1))) b).injected b (v.getLsbD 23) := by
  have hbit : (s.hostTlp false ag (laneBase b)).bit (laneFld b 0 31 1) = s.bit (laneFld b 0 31 1) := State.bit_congr (State.hostTlp_words ..) _
  rw [State.ltWrite, State.gate_reaches hreach, ← hbit]
  rfl

theorem State.chkCleared_word_of_ne (s : State) (b : LaneBlock) {a : Nat} (h : a ≠ laneBase b + 4) : (s.chkCleared b).word a = s.word a := by
  unfold State.chkCleared
  split
  · rfl
  · exact State.word_wr_of_ne s (f := laneFld b 4 31 1) h 0

theorem State.injected_words (s : State) (b : LaneBlock) (go : Bool) : (s.injected b go).words = s.words := by
  unfold State.injected
  split
  · split
    · exact State.inc_words ..
    · exact State.count_words ..
    · rfl
  · rfl

/-- No lane block lies on the record of a denied access. -/
theorem laneBase_notDenied (b : LaneBlock) : NotDenied (laneBase b) := by
  simp only [NotDenied, Reg.HST_DENIED_LAST_W0.addr, Reg.HST_DENIED_LAST_W1.addr, Reg.HST_DENIED_LAST_W2.addr]
  cases b with
  | pon p k => simp only [laneBase, Reg.PT_LT_CTRL.addr]; omega
  | ulk n => simp only [laneBase, Reg.ULK_LT_CTRL.addr]; omega
  | shl n => simp only [laneBase, Reg.SHL_LT_CTRL.addr]; omega
  | pcie n => simp only [laneBase, Reg.HST_LT_CTRL.addr]; omega

/-- A generator that starts on a lane in use takes the lane to TEST. -/
theorem exec_genEnWrite_shl {ag : Agent} {n : Fin 16} {v : Word} {r s : State} (hreach : s.reaches ag (laneBase (.shl n)) = true)
    (hr : r = (s.hostTlp false ag (laneBase (.shl n))).storeWord ag (laneBase (.shl n)) (putField v 16 6 (max 4 (min 40 ((v.extractLsb' 16 6).toNat)))))
    (hwas : s.bit (laneFld (.shl n) 0 31 1) = false) (hon : r.bit (laneFld (.shl n) 0 31 1) = true) (hlane : s.laneState n.val ≠ lnOff) :
    Completes (exec (.genEnWrite ag (.shl n) v) s) (fun t => t.laneState n.val = lnTest) := by
  set u := (s.hostTlp false ag (laneBase (.shl n))).ltStored ag (.shl n) v with hu
  have hon' : u.bit (laneFld (.shl n) 0 31 1) = true := by
    rw [← hon, hr]
    exact State.bit_congr_word (f := laneFld (.shl n) 0 31 1)
      (State.word_storeWord_congr (State.settleInj_words ..) _ _ _ (laneBase_notDenied (.shl n)))
  have hstatus : Reg.SHL_LANE_STATUS.addr n.val ≠ laneBase (.shl n) ∧ Reg.SHL_LANE_STATUS.addr n.val ≠ laneBase (.shl n) + 4 ∧
      NotDenied (Reg.SHL_LANE_STATUS.addr n.val) := by
    simp only [laneBase, NotDenied, Reg.SHL_LANE_STATUS.addr, Reg.SHL_LT_CTRL.addr, Reg.HST_DENIED_LAST_W0.addr, Reg.HST_DENIED_LAST_W1.addr,
      Reg.HST_DENIED_LAST_W2.addr]
    omega
  obtain ⟨hctrl, hstat, hden⟩ := hstatus
  have hlane' : u.laneState n.val = s.laneState n.val :=
    State.rd_congr_word (f := Reg.SHL_LANE_STATUS.STATE n.val) ((State.word_storeWord_other _ ag _ hctrl hden).trans
      (State.word_congr ((State.settleInj_words ..).trans (State.hostTlp_words ..)) _))
  refine ⟨_, congrArg ok (State.ltWrite_eq hreach v), ?_⟩
  rw [← hu, hwas, hon', if_neg Bool.false_ne_true, State.genChange, if_pos rfl, if_neg (by rw [hlane']; exact hlane)]
  have hmove : (u.moveLane n.val none lnTest).laneState n.val = lnTest := State.moveLane_laneState u n.isLt none lnTest
  exact (State.rd_congr (State.injected_words ..) _).trans ((State.rd_congr_word (State.chkCleared_word_of_ne _ _ hstat)).trans hmove)

/-- INJ_GO in a mode of single errors injects one. -/
theorem exec_injGo_single {ag : Agent} {b : LaneBlock} {v w : Word} {r s : State} (hreach : s.reaches ag (laneBase b) = true)
    (hw : w = v ||| 0x00800000#32)
    (hr : r = ((s.hostTlp false ag (laneBase b)).settleInj (laneBase b)).storeWord ag (laneBase b) (putField w 16 6 (max 4 (min 40 ((w.extractLsb' 16 6).toNat)))))
    (hgen : s.bit (laneFld b 0 31 1) = r.bit (laneFld b 0 31 1)) (hidle : r.bit (laneFld b 4 29 1) = false) (hmode : r.rd (laneFld b 0 24 2) = 1) :
    Completes (exec (.injGo ag b v) s) (fun t => t.ctr (laneBase b + 0x18) = (r.ctr (laneBase b + 0x18)).add 1) := by
  have hu : (s.hostTlp false ag (laneBase b)).ltStored ag b w = r.rateFrom (laneBase b) := by rw [hr]; rfl
  have hgo : w.getLsbD 23 = true := by simp [hw]
  have hctr : ((r.rateFrom (laneBase b)).chkCleared b).ctrs = r.ctrs := by
    unfold State.chkCleared
    split <;> rfl
  have hbusy : ((r.rateFrom (laneBase b)).chkCleared b).bit (laneFld b 4 29 1) = false := by
    rw [← hidle]
    unfold State.chkCleared
    split
    · rfl
    · exact congrArg (· != 0) (State.rd_wr_bits _ (laneFld b 4 31 1) (laneFld b 4 29 1) 0 (by simp) (by simp) (by simp))
  have hinj : ((r.rateFrom (laneBase b)).chkCleared b).rd (laneFld b 0 24 2) = 1 :=
    (State.rd_congr_word (State.chkCleared_word_of_ne _ _ (by simp))).trans hmode
  refine ⟨_, congrArg ok (State.ltWrite_eq hreach _), ?_⟩
  have hsame : s.bit (laneFld b 0 31 1) = (r.rateFrom (laneBase b)).bit (laneFld b 0 31 1) := hgen
  dsimp only
  rw [← hw, hu, if_pos hsame, State.injected, if_pos ⟨hgo, by rw [hbusy]; rfl⟩, hinj]
  exact (State.ctr_inc ..).trans ((if_pos rfl).trans (congrArg (Ctr.add · 1) (State.ctr_congr hctr _)))

/-! The checker (R417). -/

/-- The first `m` bits of two registers are the same. -/
def SameLow (m : Nat) (x y : BitVec 31) : Prop := ∀ i < m, x.getLsbD i = y.getLsbD i

theorem getLsbD_prbsShift (r : BitVec 31) (b : Bool) (i : Nat) :
    (prbsShift r b).getLsbD i = (decide (i < 31) && (if i = 0 then b else r.getLsbD (i - 1))) := by
  cases i with
  | zero => cases b <;> simp [prbsShift]
  | succ i => cases b <;> simp [prbsShift]

theorem SameLow.shift {m : Nat} {x y : BitVec 31} (h : SameLow m x y) (b : Bool) : SameLow (m + 1) (prbsShift x b) (prbsShift y b) := by
  intro i hi
  rw [getLsbD_prbsShift, getLsbD_prbsShift]
  cases i with
  | zero => rfl
  | succ i => rw [if_neg (by omega), if_neg (by omega), Nat.add_sub_cancel, h i (by omega)]

/-- Registers of which the taps are the same predict the same bit. -/
theorem SameLow.next {t : Nat × Nat} {x y : BitVec 31} (h : SameLow t.1 x y) (h1 : 0 < t.1) (h2 : 0 < t.2) (hle : t.2 ≤ t.1) :
    prbsNext t x = prbsNext t y := by
  rw [prbsNext, prbsNext, h _ (by omega), h _ (by omega)]

theorem SameLow.mono {m k : Nat} {x y : BitVec 31} (h : SameLow m x y) (hk : k ≤ m) : SameLow k x y := fun i hi => h i (by omega)

/-- An inverted pattern inverted again is the pattern. -/
theorem prbsBits_inverted (t : Nat × Nat) (inv : Bool) (n : Nat) (r : BitVec 31) :
    (prbsBits t inv n r).map (fun x => xor inv x) = prbsBits t false n r := by
  induction n generalizing r with
  | zero => rfl
  | succ n ih => simp [prbsBits, ih]

/-- The taps of every pattern lie in its order. -/
theorem prbsTaps_fit (p : Nat) : 0 < (prbsTaps p).2 ∧ (prbsTaps p).2 ≤ (prbsTaps p).1 := by
  unfold prbsTaps
  split <;> decide

section
variable {t : Nat × Nat} (h2 : 0 < t.2) (hle : t.2 ≤ t.1)

/-- Not locked, a checker loads the bits of a generator until its register holds those that its order asks for. -/
theorem Chk.bits_loads (n : Nat) (win : List Bool) : ∀ (j held : Nat) (x g : BitVec 31), held + j = t.1 → SameLow held x g →
    ∃ x' g', SameLow t.1 x' g' ∧
      Chk.bits t (prbsBits t false (j + n) g) ⟨x, held, 0, win⟩ false = Chk.bits t (prbsBits t false n g') ⟨x', t.1, 0, win⟩ false := by
  intro j
  induction j with
  | zero =>
    intro held x g hj hsame
    obtain rfl : held = t.1 := by omega
    exact ⟨x, g, hsame, by rw [Nat.zero_add]⟩
  | succ j ih =>
    intro held x g hj hsame
    obtain ⟨x', g', hsame', heq⟩ := ih (held + 1) (prbsShift x (prbsNext t g)) (prbsShift g (prbsNext t g)) (by omega) (hsame.shift _)
    refine ⟨x', g', hsame', ?_⟩
    rw [← heq, show j + 1 + n = (j + n) + 1 by omega]
    simp [prbsBits, Chk.bits, Chk.bit, show held < t.1 by omega]

include h2 hle

/-- Loaded, it locks after 64 bits in a row that it predicts. -/
theorem Chk.bits_locks (n : Nat) (win : List Bool) : ∀ (j run : Nat) (x g : BitVec 31), run + (j + 1) = 64 → SameLow t.1 x g →
    ∃ x' g', SameLow t.1 x' g' ∧
      Chk.bits t (prbsBits t false (j + 1 + n) g) ⟨x, t.1, run, win⟩ false = Chk.bits t (prbsBits t false n g') ⟨x', t.1, 0, []⟩ true := by
  intro j
  induction j with
  | zero =>
    intro run x g hj hsame
    have hnext := hsame.next (by omega) h2 hle
    refine ⟨prbsShift x (prbsNext t g), prbsShift g (prbsNext t g), (hsame.shift _).mono (by omega), ?_⟩
    rw [show 0 + 1 + n = n + 1 by omega]
    simp [prbsBits, Chk.bits, Chk.bit, hnext, show 64 ≤ run + 1 by omega]
  | succ j ih =>
    intro run x g hj hsame
    have hnext := hsame.next (by omega) h2 hle
    obtain ⟨x', g', hsame', heq⟩ := ih (run + 1) (prbsShift x (prbsNext t g)) (prbsShift g (prbsNext t g)) (by omega)
      ((hsame.shift _).mono (by omega))
    refine ⟨x', g', hsame', ?_⟩
    rw [← heq, show j + 1 + 1 + n = (j + 1 + n) + 1 by omega]
    simp [prbsBits, Chk.bits, Chk.bit, hnext, show ¬64 ≤ run + 1 by omega]

/-- Locked, it compares every bit and finds none in error. -/
theorem Chk.bits_compares (n held run : Nat) (x g : BitVec 31) (win : List Bool) (hsame : SameLow t.1 x g) (hwin : win.count true = 0) :
    (Chk.bits t (prbsBits t false n g) ⟨x, held, run, win⟩ true).2 = (true, n, 0, 0) := by
  induction n generalizing x g win with
  | zero => rfl
  | succ n ih =>
    have hnext := hsame.next (by omega) h2 hle
    have hclean : (win.take 127).count true = 0 := by
      rw [List.count_eq_zero] at hwin ⊢
      exact fun h => hwin (List.mem_of_mem_take h)
    have hrest := ih (prbsShift x (prbsNext t g)) (prbsShift g (prbsNext t g)) ((false :: win).take 128) ((hsame.shift _).mono (by omega))
      (by simpa using hclean)
    have hbit : Chk.bit t ⟨x, held, run, win⟩ true (prbsNext t g) =
        (⟨prbsShift x (prbsNext t g), held, run, (false :: win).take 128⟩, true, true, false) := by
      simp [Chk.bit, hnext, hclean]
    simp only [prbsBits, Bool.false_bne, Chk.bits, hbit, hrest]
    rfl

end

/-- A checker that starts from nothing on a generator's bits loads, locks and compares the rest. -/
theorem Chk.bits_pattern (p n : Nat) (g : BitVec 31) :
    (Chk.bits (prbsTaps p) (prbsBits (prbsTaps p) false ((prbsTaps p).1 + 64 + n) g) Chk.zero false).2 = (true, n, 0, 0) := by
  obtain ⟨h2, hle⟩ := prbsTaps_fit p
  obtain ⟨x1, g1, hsame1, h1⟩ := Chk.bits_loads (t := prbsTaps p) (64 + n) [] (prbsTaps p).1 0 0#31 g (by omega) (fun _ h => by omega)
  obtain ⟨x2, g2, hsame2, h2'⟩ := Chk.bits_locks h2 hle n [] 63 0 x1 g1 rfl hsame1
  rw [show (prbsTaps p).1 + 64 + n = (prbsTaps p).1 + (64 + n) by omega, Chk.zero, h1, h2']
  exact Chk.bits_compares h2 hle n _ _ x2 g2 [] hsame2 rfl

/-- A bit in error, the 33rd of the last 128, loses the lock. -/
theorem Chk.bits_loses (t : Nat × Nat) (inv : Bool) {x : Chk} (h : (x.win.take 127).count true = 32) :
    Chk.bits t ([xor inv (!prbsNext t x.reg)].map (fun y => xor inv y)) x true = (Chk.zero, false, 1, 1, 1) := by
  have hwrong : xor inv (xor inv (!prbsNext t x.reg)) = !prbsNext t x.reg := by simp
  simp only [List.map_cons, List.map_nil, hwrong]
  simp [Chk.bits, Chk.bit, h]

/-- What a run of a checker stores: its lock, the bits it compared and those in error. -/
theorem State.chkRun_facts {s : State} {b : LaneBlock} {l : List Bool} (hon : s.chkOn b = true) {x : Chk} {lock : Bool} {n e lost : Nat}
    (h : Chk.bits (prbsTaps (s.rd (laneFld b 0 27 3))) (l.map (fun y => xor (s.bit (laneFld b 0 26 1)) y)) (s.chk b) (s.bit (laneFld b 4 31 1)) =
      (x, lock, n, e, lost)) :
    (s.chkRun b l).bit (laneFld b 4 31 1) = lock ∧ (lost ≠ 0 → (s.chkRun b l).bit (laneFld b 4 30 1) = true) ∧
    (s.chkRun b l).ctr (laneBase b + 8) = (s.ctr (laneBase b + 8)).add n ∧
    (s.chkRun b l).ctr (laneBase b + 0x10) = (s.ctr (laneBase b + 0x10)).add e ∧ (s.chkRun b l).chk b = x := by
  set u := ((((s.setChk b x).wr (laneFld b 4 31 1) (if lock then 1 else 0)).count (laneBase b + 8) n).count (laneBase b + 0x10) e) with hu
  have hrun : s.chkRun b l = if lost = 0 then u else u.wr (laneFld b 4 30 1) 1 := by
    simp only [State.chkRun, hon, if_true, h]
    rfl
  have hlock : u.rd (laneFld b 4 31 1) = if lock then 1 else 0 := by
    rw [hu, State.count_rd, State.count_rd, State.rd_wr _ _ _ (by simp)]
    cases lock <;> rfl
  have hcmp : u.ctr (laneBase b + 8) = (s.ctr (laneBase b + 8)).add n := by
    rw [hu, State.ctr_count, if_neg (by omega), State.ctr_count, if_pos rfl]
    rfl
  have herr : u.ctr (laneBase b + 0x10) = (s.ctr (laneBase b + 0x10)).add e := by
    rw [hu, State.ctr_count, if_pos rfl, State.ctr_count, if_neg (by omega)]
    rfl
  have hchk : u.chk b = x := by
    have hshl : u.shl = (s.setChk b x).shl := (State.count_shl ..).trans ((State.count_shl ..).trans rfl)
    exact (congrArg (fun y : Shl => Tab.get (fun _ => Chk.zero) y.chk (laneBase b)) hshl).trans (Tab.get_set_same ..)
  rw [hrun]
  split
  · next h0 => exact ⟨(congrArg (· != 0) hlock).trans (by cases lock <;> rfl), fun h => absurd h0 h, hcmp, herr, hchk⟩
  · refine ⟨?_, fun _ => ?_, hcmp, herr, hchk⟩
    · rw [State.bit_eq_rd, State.rd_wr_bits _ _ _ _ (by simp) (by simp) (by simp), hlock]
      cases lock <;> rfl
    · rw [State.bit_eq_rd, State.rd_wr _ _ _ (by simp)]
      rfl

/-- Settles O39: the status bits lie apart from the configuration the ports follow from, and a checker's register follows its generator's. -/
theorem uplinkPortsAndLaneTest : Obligations.UplinkPortsAndLaneTest := by
  refine ⟨fun ag n v r s hreach hiso hr => ?cfg, fun ag n v r s hreach hiso hr hfit hport => ?retrain,
    fun n c a l x y s hport htest hiso => ?up, fun n c a l x y s hup => ?down,
    fun ag n v r s hreach hr hwas hon hlane => exec_genEnWrite_shl hreach hr hwas hon hlane,
    fun ag b v w r s hreach hw hr hgen hidle hmode => exec_injGo_single hreach hw hr hgen hidle hmode,
    fun b l s hoff => ⟨congrArg ok (if_neg (by simp [hoff])), congrArg ok (if_neg (by simp [hoff]))⟩,
    fun b k g s hon hzero hunlocked => ?locks, fun b s hon hlocked herrs => ?loses⟩
  case cfg =>
    have hwrite := State.ulkWrite_eq (v := v) hreach hiso hr
    by_cases hover : r.ulkOverlap n.val = true
    · rw [if_pos hover] at hwrite
      refine ⟨_, congrArg ok hwrite, ?_⟩
      dsimp only
      rw [if_pos hover]
    · rw [if_neg hover] at hwrite
      refine ⟨_, congrArg ok hwrite, ?_⟩
      dsimp only
      rw [if_neg hover]
      have hports := State.ulkWrite_ports (r := r) (n := n.val) ((s.hostTlp false ag (Reg.ULK_CFG.addr n)).ulkPort n)
        (v.getLsbD 23 ∧ ((r.ulkSettled n ((s.hostTlp false ag (Reg.ULK_CFG.addr n)).ulkPort n)).ulkPort n).isSome)
      exact ⟨(hports.port n).trans ((r.setLeaders_ulkCfg).port n), fun m => (hports.leaders m).trans (r.setLeaders_leader m.isLt)⟩
  case retrain =>
    have hwrite := State.ulkWrite_eq (v := v ||| 0x00800000#32) hreach hiso hr
    have hagain : (v ||| 0x00800000#32).getLsbD 23 = true := by simp
    have hsettled (was : Option Nat) : ((r.ulkSettled n was).ulkPort n).isSome = true := by
      rwa [(State.ulkSettled_ports ..).port, r.setLeaders_ulkCfg.port]
    rw [if_neg (by simp [hfit]), if_pos ⟨hagain, hsettled _⟩] at hwrite
    exact ⟨_, congrArg ok hwrite, State.ulkRestart_status ..⟩
  case up =>
    refine ⟨_, exec_ulkLinkChange_up hport htest hiso c a l x y, ?_, ?_, ?_, rfl⟩
    · rw [State.bit_eq_rd, State.endCause_rd, State.rd_wr _ _ _ (by simp)]
      rfl
    · rw [State.bit_eq_rd, State.endCause_rd, State.rd_wr_bits _ _ _ _ (by simp) (by simp) (by simp)]
      exact s.ulkReported_anDone n a l x y
    · rw [State.bit_eq_rd, State.endCause_rd, State.rd_wr_bits _ _ _ _ (by simp) (by simp) (by simp)]
      exact s.ulkReported_remoteFault n a l x y
  case down =>
    have hup' : (s.ulkReported n a l x y).bit (Reg.ULK_STATUS.LINK_UP n) = true := by rwa [s.ulkReported_linkUp]
    refine ⟨_, congrArg ok rfl, State.ulkFall_linkUp .., ?_⟩
    change ((s.ulkReported n a l x y).ulkFall n c).ctr _ = _
    rw [State.ulkFall_eq_of_up hup', State.ctr_congr (State.onset_ctrs ..), State.ctr_inc, if_pos rfl]
    rfl
  case locks =>
    have hbits := Chk.bits_pattern (s.rd (laneFld b 0 27 3)) k g
    obtain ⟨x, hrun⟩ : ∃ x, Chk.bits (prbsTaps (s.rd (laneFld b 0 27 3)))
        ((prbsBits (prbsTaps (s.rd (laneFld b 0 27 3))) (s.bit (laneFld b 0 26 1)) ((prbsTaps (s.rd (laneFld b 0 27 3))).1 + 64 + k) g).map
          (fun y => xor (s.bit (laneFld b 0 26 1)) y)) (s.chk b) (s.bit (laneFld b 4 31 1)) = (x, true, k, 0, 0) := by
      rw [prbsBits_inverted, hzero, hunlocked]
      exact ⟨_, Prod.ext rfl hbits⟩
    obtain ⟨hlock, -, hcmp, herr, -⟩ := State.chkRun_facts hon hrun
    exact ⟨_, rfl, hlock, hcmp, herr⟩
  case loses =>
    have hrun := Chk.bits_loses (prbsTaps (s.rd (laneFld b 0 27 3))) (s.bit (laneFld b 0 26 1)) herrs
    rw [← hlocked] at hrun
    obtain ⟨hlock, hlost, -, herr, hchk⟩ := State.chkRun_facts hon hrun
    exact ⟨_, rfl, hlock, hlost (by decide), herr, hchk⟩

end Sys2Proof.Machine

/-! SUPPORT. Capability exchange, sealed sessions and margin of a lane (12_serial_lanes.md R397, R406 to R408, R411, R414, R415). -/

namespace Sys2Proof.Machine

set_option autoImplicit false

/-! A new session (R406, R407). -/

/-- A new session's keys stored and its seal shown, before its phase, its key and the twin's seal follow. -/
def State.sessionBegun (s : State) (n : Nat) (k : Sess) (first : Bool) : State :=
  ((s.setLane n { s.lane n with tx := some k, txCtr := 0, offer := none, rx := if first then some k else (s.lane n).rx
                                rxNew := if first then none else some k }).wr (Reg.SHL_LANE_STATUS.SEALED n) 1).inc Cnt.KEY_GCM_SESSIONS

/-- A session that is not the lane's first turns the phase of what is sent. -/
def State.phaseTurned (s : State) (n : Nat) (first : Bool) : State :=
  if first then s else s.wr (Reg.SHL_LANE_STATUS.TX_PHASE n) (1 - s.rd (Reg.SHL_LANE_STATUS.TX_PHASE n))

theorem State.newSession_eq (s : State) (n : Nat) (k : Sess) (first : Bool) :
    s.newSession n k first = (((s.sessionBegun n k first).phaseTurned n first).derive (linkRoot n) 3 (beNat k.context)).twinSealed := rfl

/-- A derived key counts a hit or a miss of the cache alone. -/
theorem State.ctr_derive_of_ne {a : Nat} (hhit : a ≠ Cnt.KEY_CACHE_HIT) (hmiss : a ≠ Cnt.KEY_CACHE_MISS) (s : State) (k label x : Nat) :
    (s.derive k label x).ctr a = s.ctr a := by
  unfold State.derive
  extract_lets e
  split
  · exact (State.ctr_inc _ _ _).trans (if_neg hhit)
  · exact (State.ctr_inc _ _ _).trans (if_neg hmiss)

section
variable (s : State) {n : Nat} (hn : n < 16) (k : Sess) (first : Bool)

theorem State.phaseTurned_shl_ctrs : (s.phaseTurned n first).shl = s.shl ∧ (s.phaseTurned n first).ctrs = s.ctrs := by
  cases first <;> exact ⟨rfl, rfl⟩

theorem State.newSession_lane : (s.newSession n k first).lane n =
    { s.lane n with tx := some k, txCtr := 0, offer := none, rx := if first then some k else (s.lane n).rx
                    rxNew := if first then none else some k } := by
  have hderive (t : State) : (t.derive (linkRoot n) 3 (beNat k.context)).shl = t.shl := by simp
  have hbegun : (s.sessionBegun n k first).shl = (s.setLane n { s.lane n with
      tx := some k, txCtr := 0, offer := none, rx := if first then some k else (s.lane n).rx, rxNew := if first then none else some k }).shl :=
    (State.inc_shl ..).trans rfl
  rw [State.newSession_eq, State.lane_congr ((State.twinSealed_shl _).trans ((hderive _).trans
    ((State.phaseTurned_shl_ctrs (s.sessionBegun n k first) first).1.trans hbegun)))]
  exact State.lane_setLane_same ..

theorem State.newSession_counted : (s.newSession n k first).ctr Cnt.KEY_GCM_SESSIONS = (s.ctr Cnt.KEY_GCM_SESSIONS).add 1 := by
  have hbegun : (s.sessionBegun n k first).ctr Cnt.KEY_GCM_SESSIONS = (s.ctr Cnt.KEY_GCM_SESSIONS).add 1 := (State.ctr_inc ..).trans (if_pos rfl)
  rw [State.newSession_eq, State.ctr_congr (State.twinSealed_ctrs _), State.ctr_derive_of_ne (by decide) (by decide),
    State.ctr_congr (State.phaseTurned_shl_ctrs ..).2, hbegun]

include hn

/-- The lane's own words: what the derived key and the twin's seal leave of them. -/
theorem State.newSession_rd (lo w : Nat) : (s.newSession n k first).rd ⟨Reg.SHL_LANE_STATUS.addr n, lo, w⟩ =
    ((s.sessionBegun n k first).phaseTurned n first).rd ⟨Reg.SHL_LANE_STATUS.addr n, lo, w⟩ := by
  rw [State.newSession_eq]
  refine (State.rd_congr_word (State.word_twinSealed_of_ne _ ?_)).trans (State.derive_rd ..)
  simp only [Reg.SHL_LANE_STATUS.addr, Reg.TWN_STATUS.addr]
  omega

theorem State.newSession_status {lo w : Nat} (h : lo + w ≤ 27 ∨ 29 ≤ lo) (hw : lo + w ≤ 32) :
    (s.newSession n k first).rd ⟨Reg.SHL_LANE_STATUS.addr n, lo, w⟩ = s.rd ⟨Reg.SHL_LANE_STATUS.addr n, lo, w⟩ := by
  have hturn (t : State) : (t.phaseTurned n first).rd ⟨Reg.SHL_LANE_STATUS.addr n, lo, w⟩ = t.rd ⟨Reg.SHL_LANE_STATUS.addr n, lo, w⟩ := by
    unfold State.phaseTurned
    split
    · rfl
    · exact State.rd_wr_bits _ _ _ _ (by simp) hw (by simp only; omega)
  rw [s.newSession_rd hn k first lo w, hturn, State.sessionBegun, State.inc_rd, State.rd_wr_bits _ _ _ _ (by simp) hw (by simp only; omega)]
  rfl

theorem State.newSession_sealed : (s.newSession n k first).bit (Reg.SHL_LANE_STATUS.SEALED n) = true := by
  have hturn (t : State) : (t.phaseTurned n first).rd (Reg.SHL_LANE_STATUS.SEALED n) = t.rd (Reg.SHL_LANE_STATUS.SEALED n) := by
    unfold State.phaseTurned
    split
    · rfl
    · exact State.rd_wr_bits _ _ _ _ (by simp) (by simp) (by simp)
  rw [State.bit_eq_rd, s.newSession_rd hn k first 28 1, hturn, State.sessionBegun, State.inc_rd, State.rd_wr _ _ _ (by simp)]
  rfl

theorem State.newSession_phase : (s.newSession n k false).bit (Reg.SHL_LANE_STATUS.TX_PHASE n) = !s.bit (Reg.SHL_LANE_STATUS.TX_PHASE n) := by
  have hbegun : (s.sessionBegun n k false).rd (Reg.SHL_LANE_STATUS.TX_PHASE n) = s.rd (Reg.SHL_LANE_STATUS.TX_PHASE n) := by
    rw [State.sessionBegun, State.inc_rd, State.rd_wr_bits _ _ _ _ (by simp) (by simp) (by simp)]
    rfl
  have hlt : s.rd (Reg.SHL_LANE_STATUS.TX_PHASE n) < 2 := Nat.mod_lt _ (by simp)
  rw [State.bit_eq_rd, s.newSession_rd hn k false 27 1, State.phaseTurned, if_neg Bool.false_ne_true, State.rd_wr _ _ _ (by simp), hbegun,
    State.bit_eq_rd]
  generalize s.rd (Reg.SHL_LANE_STATUS.TX_PHASE n) = v at hlt ⊢
  interval_cases v <;> rfl

end

/-! Messages of channel 0 queued (R407, R408): what they leave alone. -/

/-- The words, and of a lane all but its channel 0 queue, its offer and its own seal, stand from one state to another. -/
structure State.Asks (n : Nat) (t s : State) : Prop where
  words : t.words = s.words
  peer : (t.lane n).peer = (s.lane n).peer
  out : (t.lane n).out = (s.lane n).out
  marks : (t.lane n).marks = (s.lane n).marks

section
variable (s : State) (n : Nat)

theorem State.Asks.refl : s.Asks n s := ⟨rfl, rfl, rfl, rfl⟩

theorem State.Asks.trans {r t s : State} {n : Nat} (h : r.Asks n t) (g : t.Asks n s) : r.Asks n s :=
  ⟨h.words.trans g.words, h.peer.trans g.peer, h.out.trans g.out, h.marks.trans g.marks⟩

/-- A lane stored with the same partner, blocks and marks. -/
theorem State.setLane_asks {x : Lane} (hpeer : x.peer = (s.lane n).peer := by rfl) (hout : x.out = (s.lane n).out := by rfl)
    (hmarks : x.marks = (s.lane n).marks := by rfl) :
    (s.setLane n x).Asks n s :=
  ⟨rfl, (congrArg Lane.peer (State.lane_setLane_same ..)).trans hpeer, (congrArg Lane.out (State.lane_setLane_same ..)).trans hout,
    (congrArg Lane.marks (State.lane_setLane_same ..)).trans hmarks⟩

theorem State.freshNonce_asks : s.freshNonce.2.Asks n s := ⟨rfl, rfl, rfl, rfl⟩

theorem State.linkCtl_asks (m : LinkCtl) : (s.linkCtl n m).Asks n s := s.setLane_asks n

theorem State.linkCtl_lane (m : LinkCtl) : (s.linkCtl n m).lane n = { s.lane n with ctl := (s.lane n).ctl ++ [m] } := State.lane_setLane_same ..

theorem State.linkCap_asks (ack : Bool) : (s.linkCap n ack).Asks n s := by
  unfold State.linkCap
  split
  · exact (State.linkCtl_asks ..).trans (s.freshNonce_asks n)
  · exact State.linkCtl_asks ..

theorem State.offer_asks : (s.offer n).Asks n s := by
  unfold State.offer
  split
  · exact .refl ..
  · exact (State.linkCtl_asks ..).trans ((State.setLane_asks _ _).trans (s.freshNonce_asks n))

theorem State.offerSeal_asks : (s.offerSeal n).Asks n s := by
  unfold State.offerSeal
  split
  · split
    · exact State.offer_asks ..
    · exact .refl ..
  · exact .refl ..

theorem State.sealChange_asks : (s.sealChange n).Asks n s := by
  unfold State.sealChange
  split
  · exact (State.offerSeal_asks ..).trans ((State.linkCap_asks ..).trans (State.setLane_asks _ _))
  · exact .refl ..

end

/-! Entry to ACTIVE (R406). -/

theorem State.twinLane_lane (s : State) (n m : Nat) (up : Bool) : (s.twinLane n up).lane m = s.lane m :=
  State.lane_congr ((State.twinLane_within (K := (· ∈ [.words, .flt, .twn])) (within_refl s) n up (by simp) (by simp) (by simp)).shl.resolve_left
    (by simp)) m

/-- A lane that enters ACTIVE keeps its partner and shows it. -/
theorem State.enterActive_facts (s : State) {n : Nat} (hn : n < 16) (c : Cap) : (s.enterActive n c).laneState n = lnActive ∧
    ((s.enterActive n c).lane n).peer = (s.lane n).peer ∧
    (s.enterActive n c).rd (Reg.SHL_LANE_STATUS.PARTNER_LANE n) = s.rd (Reg.SHL_LANE_STATUS.PARTNER_LANE n) := by
  unfold State.enterActive
  extract_lets x s1 s2 t w s3
  have hstate : s1.laneState n = lnActive := State.rd_wr _ _ _ (by simp)
  have hlane : s1.rd (Reg.SHL_LANE_STATUS.PARTNER_LANE n) = s.rd (Reg.SHL_LANE_STATUS.PARTNER_LANE n) :=
    State.rd_wr_bits _ _ _ _ (by simp) (by simp) (by simp)
  have hpeer : (s1.lane n).peer = (s.lane n).peer := (congrArg Lane.peer (State.lane_setLane_same ..) :)
  have h2 : s2.laneState n = lnActive ∧ (s2.lane n).peer = (s.lane n).peer ∧
      s2.rd (Reg.SHL_LANE_STATUS.PARTNER_LANE n) = s.rd (Reg.SHL_LANE_STATUS.PARTNER_LANE n) := by
    simp only [s2]
    split
    · exact ⟨(State.newSession_status _ hn _ _ (.inr (by decide)) (by decide)).trans hstate,
        (congrArg Lane.peer (State.newSession_lane ..)).trans hpeer,
        (State.newSession_status _ hn _ _ (.inl (by decide)) (by decide)).trans hlane⟩
    · exact ⟨hstate, hpeer, hlane⟩
  have h3 : s3.LaneRegs s2 ∧ s3.lane n = s2.lane n := by
    simp only [s3]
    split
    · exact ⟨(State.twinLane_laneRegs ..).congr rfl, State.twinLane_lane ..⟩
    · exact ⟨.refl _, rfl⟩
  obtain ⟨hstate2, hpeer2, hlane2⟩ := h2
  obtain ⟨hregs, hsame⟩ := h3
  have hseal := State.sealChange_asks s3 n
  exact ⟨(State.rd_congr hseal.words _).trans ((hregs.laneState hn).trans hstate2),
    hseal.peer.trans ((congrArg Lane.peer hsame).trans hpeer2),
    (State.rd_congr hseal.words _).trans ((hregs.rd_status hn 12 4).trans hlane2)⟩

/-! CAP (R408, R414). -/

/-- A partner's CAP kept with what it says of the partner. -/
def State.capHeard (s : State) (n : Nat) (c : Cap) : State :=
  ((s.setLane n { s.lane n with peer := some c }).wr (Reg.SHL_LANE_STATUS.PARTNER_ADDR n) c.addr).wr (Reg.SHL_LANE_STATUS.PARTNER_LANE n) c.lane

theorem State.capHeard_lane (s : State) (n : Nat) (c : Cap) : (s.capHeard n c).lane n = { s.lane n with peer := some c } :=
  State.lane_setLane_same ..

theorem State.capHeard_status (s : State) (n : Nat) (c : Cap) {lo w : Nat} (hlo : 24 ≤ lo) (hw : lo + w ≤ 32) :
    (s.capHeard n c).rd ⟨Reg.SHL_LANE_STATUS.addr n, lo, w⟩ = s.rd ⟨Reg.SHL_LANE_STATUS.addr n, lo, w⟩ :=
  (State.rd_wr_bits _ _ _ _ (by simp) hw (.inl (by simp only; omega))).trans (State.rd_wr_bits _ _ _ _ (by simp) hw (.inl hlo))

theorem State.capHeard_compatible (s : State) (n : Nat) (c : Cap) : (s.capHeard n c).compatible n c = s.compatible n c := by
  have hrole : (s.capHeard n c).laneRole n = s.laneRole n := s.capHeard_status n c (by decide) (by decide)
  simp only [State.compatible, State.capHeard_lane, hrole]

section
variable {s : State} {n : Fin 16} {c : Cap} (hst : s.laneState n.val = lnExchange) (hheld : (s.lane n.val).mismatch = false)
include hst hheld

theorem exec_capRx_compatible (hfit : s.compatible n.val c = true) : exec (.capRx n c) s = .next
    (if c.ack then ((s.capHeard n.val c).linkCap n.val true).enterActive n.val c else (s.capHeard n.val c).linkCap n.val true) := by
  have hgo : ¬(!(s.capHeard n.val c).compatible n.val c) = true := by rw [s.capHeard_compatible, hfit]; decide
  exact congrArg ok ((if_pos hst).trans ((if_neg (by simp [hheld])).trans (if_neg hgo)))

theorem exec_capRx_incompatible (hunfit : s.compatible n.val c = false) : ∃ a, exec (.capRx n c) s = .next
    (((s.capHeard n.val c).setLane n.val { (s.capHeard n.val c).lane n.val with mismatch := true, ctl := [], out := [] }).raise .LANE_MISMATCH
      (srcLane n.val) a) := by
  have hstop : (!(s.capHeard n.val c).compatible n.val c) = true := by rw [s.capHeard_compatible, hunfit]; rfl
  exact ⟨_, congrArg ok ((if_pos hst).trans ((if_neg (by simp [hheld])).trans (if_pos hstop)))⟩

end

theorem State.laneUp_iff {s : State} {n : Nat} : s.laneUp n = true ↔ s.laneState n = lnActive := by simp [State.laneUp]

/-- A partner's CAP in EXCHANGE that fits: the lane keeps it, and enters ACTIVE where it acknowledges. -/
theorem State.capFit_facts (s : State) {n : Nat} (hn : n < 16) (c : Cap) (hst : s.laneState n = lnExchange) {t : State}
    (ht : t = if c.ack then ((s.capHeard n c).linkCap n true).enterActive n c else (s.capHeard n c).linkCap n true) :
    t.laneState n = (if c.ack = true then lnActive else lnExchange) ∧ (t.lane n).peer = some c ∧
      t.rd (Reg.SHL_LANE_STATUS.PARTNER_LANE n) = c.lane % 16 := by
  have hasks := State.linkCap_asks (s.capHeard n c) n true
  have hpeer : (((s.capHeard n c).linkCap n true).lane n).peer = some c := hasks.peer.trans (congrArg Lane.peer (s.capHeard_lane n c))
  have hlane : ((s.capHeard n c).linkCap n true).rd (Reg.SHL_LANE_STATUS.PARTNER_LANE n) = c.lane % 16 :=
    (State.rd_congr hasks.words _).trans (State.rd_wr _ _ _ (by simp))
  have hstate : ((s.capHeard n c).linkCap n true).laneState n = lnExchange :=
    (State.rd_congr hasks.words _).trans ((s.capHeard_status n c (by decide) (by decide)).trans hst)
  obtain ⟨hactive, hkeep, hshow⟩ := ((s.capHeard n c).linkCap n true).enterActive_facts hn c
  subst ht
  split
  · exact ⟨hactive, hkeep.trans hpeer, hshow.trans hlane⟩
  · exact ⟨hstate, hpeer, hlane⟩

/-! Tiles (R397, R408). -/

theorem State.startTile_lane (s : State) (n : Nat) (code : BitVec 8) : (s.startTile n code).lane n =
    { s.lane n with tile := some (code, (fillTile (s.lane n).out).1), out := (fillTile (s.lane n).out).2 } := State.lane_setLane_same ..

section
variable {s : State} {n : Fin 16}

theorem exec_tileStart_lock (hst : s.laneState n.val = lnLock) : exec (.tileStart n) s = .next (s.startTile n.val 0xB2#8) :=
  congrArg ok (if_pos hst)

theorem exec_tileStart_exchange (hst : s.laneState n.val = lnExchange) (hheld : (s.lane n.val).mismatch = false) (hctl : (s.lane n.val).ctl = []) :
    exec (.tileStart n) s = .next ((s.linkCtl n.val (.cap (s.lane n.val).peer.isSome (s.lane n.val).nonce)).startTile n.val 0xB2#8) := by
  have hlock : s.laneState n.val ≠ lnLock := by rw [hst]; decide
  have hdown : s.laneUp n.val = false := by simp [State.laneUp, hst]
  change execTileStart n s = _
  simp [execTileStart, hst, hheld, hctl, State.linkCap, hdown, ok]

variable (hup : s.laneUp n.val = true)
include hup

/-- A tile led by MARK: what waits leaves under its code, and one MARK less is to follow. -/
theorem exec_tileStart_mark (hmarks : 2 ≤ (s.lane n.val).marks) : ∃ r : State, exec (.tileStart n) s = .next (r.startTile n.val 0xCD#8) ∧
    (r.lane n.val).out = (s.lane n.val).out ∧ (r.lane n.val).marks = (s.lane n.val).marks - 1 := by
  have hst := State.laneUp_iff.1 hup
  let u := s.setLane n.val { s.lane n.val with marks := (s.lane n.val).marks - 1 }
  have hout : (u.lane n.val).out = (s.lane n.val).out := (congrArg Lane.out (State.lane_setLane_same ..) :)
  have hleft : (u.lane n.val).marks = (s.lane n.val).marks - 1 := (congrArg Lane.marks (State.lane_setLane_same ..) :)
  have hasks : (if (s.lane n.val).capWait && !(s.lane n.val).ctl.any LinkCtl.asksAck then u.linkCap n.val false else u).Asks n.val u := by
    split
    · exact State.linkCap_asks ..
    · exact .refl ..
  have hlock : s.laneState n.val ≠ lnLock := by rw [hst]; decide
  have hexchange : s.laneState n.val ≠ lnExchange := by rw [hst]; decide
  refine ⟨_, congrArg ok ((if_neg hlock).trans ((if_neg hexchange).trans ((if_pos hup).trans ((if_neg (by omega)).trans ?_)))),
    hasks.out.trans hout, hasks.marks.trans hleft⟩
  exact congrArg (State.startTile _ _) (if_pos hmarks)

theorem exec_tileStart_retrain (hmarks : (s.lane n.val).marks = 1) : exec (.tileStart n) s = .next (s.toTrain n.val (some 3)) := by
  have hst := State.laneUp_iff.1 hup
  change execTileStart n s = _
  simp [execTileStart, hst, hup, hmarks, ok]

end

/-! Offers and answers (R407). -/

section
variable {s : State} {n : Fin 16} (hup : s.laneUp n.val = true)
include hup

theorem exec_sessOffer_taken {c : Cap} (hpeer : (s.lane n.val).peer = some c) (hseal : (s.sealBits n.val).1 = true)
    (hnone : (s.lane n.val).offer = none) (x : BitVec 64) : exec (.sessOffer n x) s = .next
    ((s.freshNonce.2.setLane n.val { s.freshNonce.2.lane n.val with offer := none }).linkCtl n.val (.answer s.freshNonce.1 x.toNat)) := by
  change execSessOffer n x s = _
  simp [execSessOffer, hpeer, hup, hseal, hnone, ok]

theorem exec_sessAnswer_taken {c : Cap} {o : Nat × Nat} (hpeer : (s.lane n.val).peer = some c) (hoffer : (s.lane n.val).offer = some o)
    (x : BitVec 64) : exec (.sessAnswer n x) s = .next (s.newSession n.val (s.session n.val c o.1 x.toNat) false) := by
  change execSessAnswer n x s = _
  simp [execSessAnswer, hpeer, hup, hoffer, ok]

theorem exec_sessOfferTimeout_up {o : Nat × Nat} (hoffer : (s.lane n.val).offer = some o) : exec (.sessOfferTimeout n) s = .next
    (if o.2 < 3 then (s.setLane n.val { s.lane n.val with offer := some (o.1, o.2 + 1) }).linkCtl n.val (.offer o.1)
      else s.toExchange n.val (some 5)) := by
  change execSessOfferTimeout n s = _
  simp [execSessOfferTimeout, hup, hoffer, ok]

end

theorem exec_sess_down {s : State} {n : Fin 16} (hdown : s.laneUp n.val = false) (x : BitVec 64) : exec (.sessOffer n x) s = .next s ∧
    exec (.sessAnswer n x) s = .next s ∧ exec (.sessOfferTimeout n) s = .next s := by
  refine ⟨congrArg ok ?_, congrArg ok ?_, congrArg ok ?_⟩
  · cases (s.lane n.val).peer <;> simp [hdown]
  · cases (s.lane n.val).peer <;> cases (s.lane n.val).offer <;> simp [hdown]
  · cases (s.lane n.val).offer <;> simp [hdown]

/-- The answer to an offer leaves, and the session it answers for begins: what follows goes out under the new key. -/
theorem exec_shasolMessageTx_answer {s : State} {n : Fin 16} {y x : Nat} {l : List LinkCtl} {c : Cap} (hup : s.laneUp n.val = true)
    (hpeer : (s.lane n.val).peer = some c) (hctl : (s.lane n.val).ctl = .answer y x :: l) : ∃ m head len,
    exec (.shasolMessageTx n 0) s = .next
      (((s.setLane n.val { s.lane n.val with ctl := l }).newSession n.val (s.session n.val c y x) false).putMsg n.val m head len) := by
  obtain ⟨head, hexec⟩ := execShasolMessageTx_ctl hup hctl
  have hsent : (s.setLane n.val { s.lane n.val with ctl := l }).ctlSent n.val (.answer y x) =
      (s.setLane n.val { s.lane n.val with ctl := l }).newSession n.val (s.session n.val c y x) false := by
    simp only [State.ctlSent, State.lane_setLane_same, hpeer]
    rfl
  exact ⟨_, head, _, hexec.trans (by rw [hsent])⟩

/-! Margins (R410, R411, R415). -/

/-- A margin shown. -/
def State.marginShown (s : State) (n : Nat) (m : BitVec 8) : State := s.wr (Reg.SHL_LANE_STATUS.MARGIN n) m.toNat

theorem State.marginShown_rd (s : State) (n : Nat) (m : BitVec 8) : (s.marginShown n m).rd (Reg.SHL_LANE_STATUS.MARGIN n) = m.toNat :=
  (State.rd_wr _ _ _ (by simp)).trans (Nat.mod_eq_of_lt m.isLt)

theorem State.marginShown_laneUp (s : State) (n : Nat) (m : BitVec 8) : (s.marginShown n m).laneUp n = s.laneUp n :=
  congrArg (· == lnActive) (State.rd_wr_bits _ _ _ _ (by simp) (by simp) (by simp))

theorem State.marginShown_cfg (s : State) (n : Nat) (m : BitVec 8) (lo w : Nat) :
    (s.marginShown n m).rd ⟨Reg.SHL_LANE_CFG.addr n, lo, w⟩ = s.rd ⟨Reg.SHL_LANE_CFG.addr n, lo, w⟩ :=
  State.rd_wr_addr _ _ _ _ (by simp only [Reg.SHL_LANE_CFG.addr]; omega)

/-- Outside ACTIVE a margin is shown, and the run of good ones goes on or ends. -/
theorem exec_marginSample_down {s : State} {n : Fin 16} (hdown : s.laneUp n.val = false) (m : BitVec 8) (i : Bool) :
    exec (.marginSample n m i) s = .next ((s.marginShown n.val m).setLane n.val { s.lane n.val with
      good := if s.rd (Reg.SHL_LANE_CFG.SNAP_MARGIN n.val) ≤ m.toNat then some ((s.lane n.val).good.getD s.now) else none }) := by
  have hdown' : (s.marginShown n.val m).laneUp n.val = false := (s.marginShown_laneUp n.val m).trans hdown
  have hsnap : (s.marginShown n.val m).rd (Reg.SHL_LANE_CFG.SNAP_MARGIN n.val) = s.rd (Reg.SHL_LANE_CFG.SNAP_MARGIN n.val) :=
    s.marginShown_cfg n.val m 8 8
  rw [← hsnap]
  refine congrArg ok ((if_pos (by simpa [State.marginShown] using hdown')).trans ?_)
  simp only [decide_eq_true_eq]
  rfl

/-- A lane in ACTIVE with a margin that is not low keeps ACTIVE. -/
theorem exec_marginSample_high {s : State} {n : Fin 16} (hup : s.laneUp n.val = true) {m : BitVec 8}
    (hhigh : s.rd (Reg.SHL_LANE_CFG.REVERT_MARGIN n.val) ≤ m.toNat) (i : Bool) : ∃ good snap,
    exec (.marginSample n m i) s = .next ((s.marginShown n.val m).setLane n.val { s.lane n.val with good := good, snap := snap, below := none }) := by
  have hup' : (s.marginShown n.val m).laneUp n.val = true := (s.marginShown_laneUp n.val m).trans hup
  have hrevert : ¬m.toNat < (s.marginShown n.val m).rd (Reg.SHL_LANE_CFG.REVERT_MARGIN n.val) := by
    rw [show (s.marginShown n.val m).rd (Reg.SHL_LANE_CFG.REVERT_MARGIN n.val) = _ from s.marginShown_cfg n.val m 0 8]
    exact Nat.not_lt.2 hhigh
  exact ⟨_, _, congrArg ok ((if_neg (by simpa [State.marginShown] using hup')).trans (if_pos (by simpa [State.marginShown] using hrevert)))⟩

/-- Settles O38, command by command: a lane takes the state it moves to, a queued message leaves words and partner, and a session's keys are
those of its nonces. -/
theorem laneSessions : Obligations.LaneSessions := by
  refine ⟨fun n c s hst hheld hfit => ⟨_, exec_capRx_compatible hst hheld hfit, s.capFit_facts n.isLt c hst rfl⟩,
    fun n c s hst hheld hunfit => ?held, fun n c s hst hdown => congrArg ok ((if_neg hst).trans (if_neg (by simp [hdown]))),
    fun n s => ⟨_, rfl, ?holdOver⟩, fun n s => ⟨_, rfl, ?timeout⟩, fun n s hst hheld hctl => exec_tileStart_exchange hst hheld hctl,
    fun n s hst => ⟨_, exec_tileStart_lock hst, congrArg Lane.tile (s.startTile_lane ..), congrArg Lane.out (s.startTile_lane ..)⟩,
    fun n s hup hmarks => ?mark, fun n s hup hmarks => ⟨_, exec_tileStart_retrain hup hmarks, s.toTrain_laneState n.isLt _⟩,
    fun n x c s hup hpeer hseal hnone => ?offered,
    fun n y x l c s hup hpeer hctl => ?answerSent, fun n x s hdown => exec_sess_down hdown x,
    fun n x c o s hup hpeer hoffer => ?answer, fun n o s hup hoffer => ⟨_, exec_sessOfferTimeout_up hup hoffer, ?again⟩,
    fun n m i s hdown => ?margin, fun n m i s hup hhigh => ?marginUp⟩
  case held =>
    obtain ⟨a, hexec⟩ := exec_capRx_incompatible hst hheld hunfit
    exact ⟨_, hexec, (s.capHeard_status n c (by decide) (by decide)).trans hst, (congrArg Lane.mismatch (State.lane_setLane_same ..) :), rfl⟩
  case holdOver =>
    dsimp only
    split
    · exact s.toDetect_laneState n.isLt none
    · rfl
  case timeout =>
    dsimp only
    by_cases h : s.laneState n.val = lnExchange ∧ (s.lane n.val).mismatch = false
    · rw [if_pos h, if_pos ⟨h.1, by rw [h.2]; rfl⟩]
      exact s.toLock_laneState n.isLt none
    · rw [if_neg h, if_neg (by simpa using h)]
  case mark =>
    obtain ⟨r, hexec, hout, hleft⟩ := exec_tileStart_mark hup hmarks
    refine ⟨_, hexec, (congrArg Lane.tile (r.startTile_lane ..)).trans ?_, (congrArg Lane.marks (r.startTile_lane ..)).trans hleft⟩
    rw [← hout]
  case offered =>
    refine ⟨_, exec_sessOffer_taken hup hpeer hseal hnone x, rfl, ?_, s.freshNonce.1, ?_⟩
    · rw [State.linkCtl_lane, State.lane_setLane_same]
      rfl
    · rw [State.linkCtl_lane, State.lane_setLane_same]
      rfl
  case answerSent =>
    obtain ⟨m, head, len, hexec⟩ := exec_shasolMessageTx_answer hup hpeer hctl
    set r := s.setLane n.val { s.lane n.val with ctl := l } with hr
    have hlane := (r.newSession n.val (s.session n.val c y x) false).lane_putMsg n.val m head len
    rw [State.newSession_lane, hr, State.lane_setLane_same] at hlane
    have hword : ((r.newSession n.val (s.session n.val c y x) false).putMsg n.val m head len).words =
        (r.newSession n.val (s.session n.val c y x) false).words := State.inc_words ..
    refine ⟨_, hexec, (State.bit_congr hword _).trans (r.newSession_sealed n.isLt _ _), ?_, ?_, ?_, ?_, ?_,
      (State.bit_congr hword _).trans (r.newSession_phase n.isLt _)⟩
    all_goals rw [hlane]
    all_goals rfl
  case answer =>
    have hlane := s.newSession_lane (n := n.val) (s.session n.val c o.1 x.toNat) false
    exact ⟨_, exec_sessAnswer_taken hup hpeer hoffer x, by rw [hlane], by rw [hlane], by rw [hlane], s.newSession_sealed n.isLt _ _,
      s.newSession_counted _ _⟩
  case again =>
    split
    · exact ⟨by rw [State.linkCtl_lane, State.lane_setLane_same], rfl⟩
    · exact ⟨s.toExchange_laneState n.isLt _, State.moveLane_sealed n.isLt hup _ _⟩
  case margin =>
    exact ⟨_, exec_marginSample_down hdown m i, s.marginShown_rd n m, rfl, by rw [State.lane_setLane_same]⟩
  case marginUp =>
    obtain ⟨good, snap, hexec⟩ := exec_marginSample_high hup hhigh i
    exact ⟨_, hexec, s.marginShown_rd n m, (s.marginShown_laneUp n m).trans hup, by rw [State.lane_setLane_same]⟩

end Sys2Proof.Machine

/-! SUPPORT. The line coding of a lane (12_serial_lanes.md R396 to R403): what a receiver makes of what was sent. -/

namespace Sys2Proof.Machine

set_option autoImplicit false

/-! Scrambling and stuffing (R398 to R400). -/

/-- The scrambler's register runs by itself: a second pass from the same value undoes the first. -/
theorem scramble_scramble (l : List Bool) (r : BitVec 31) : scramble (scramble l r) r = l := by
  induction l generalizing r with
  | nil => rfl
  | cons b t ih => simp [scramble, ih]

/-- The receiver's run follows the sender's, which never passes 8. -/
theorem destuff_stuff (l : List Bool) {n : Nat} (v : Bool) (hn : n ≤ 8) : destuff (stuff l n v) n v = (l, 0) := by
  induction l generalizing n v with
  | nil => simp [stuff, destuff, Nat.not_lt.2 hn]
  | cons b t ih =>
    by_cases h8 : n = 8
    · have hrun : (if b = !v then 2 else 1) ≤ 8 := by split <;> decide
      simp [stuff, destuff, h8, ih b hrun]
    · have hrun : (if n ≠ 0 ∧ b = v then n + 1 else 1) ≤ 8 := by split <;> omega
      have hlt : ¬8 ≤ n := by omega
      have hle : ¬8 < n := by omega
      have hrest := ih b hrun
      simp only [stuff, destuff, h8, hlt, hle, if_false, false_and, hrest]

/-- Line bits after a run of `n` bits of value `v` in which no run passes 8. -/
def RunsFit : List Bool → Nat → Bool → Prop
  | [], _, _ => True
  | b :: t, n, v => (b = v → n + 1 ≤ 8) ∧ RunsFit t (if b = v then n + 1 else 1) b

theorem runsFit_stuff (l : List Bool) {n : Nat} {v : Bool} (hn : n ≤ 8) : RunsFit (stuff l n v) n v := by
  induction l generalizing n v with
  | nil => trivial
  | cons b t ih =>
    by_cases h8 : n = 8
    · have hrun : (if b = !v then 2 else 1) ≤ 8 := by split <;> decide
      have hrest := ih (v := b) hrun
      cases b <;> cases v <;> simp_all [stuff, RunsFit]
    · have hrun : (if n ≠ 0 ∧ b = v then n + 1 else 1) ≤ 8 := by split <;> omega
      have hsame : (if n ≠ 0 ∧ b = v then n + 1 else 1) = if b = v then n + 1 else 1 := by
        rcases Nat.eq_zero_or_pos n with rfl | hpos
        · simp
        · simp [Nat.ne_of_gt hpos]
      rw [stuff, if_neg h8]
      exact ⟨fun _ => by omega, hsame ▸ ih hrun⟩

theorem RunsFit.of_append {a b : List Bool} {n : Nat} {v : Bool} (h : RunsFit (a ++ b) n v) : ∃ m w, RunsFit b m w := by
  induction a generalizing n v with
  | nil => exact ⟨n, v, h⟩
  | cons x a ih => exact ih h.2

theorem RunsFit.replicate {k n : Nat} {v : Bool} {b : List Bool} (h : RunsFit (List.replicate k v ++ b) n v) (hn : n ≤ 8) : n + k ≤ 8 := by
  induction k generalizing n with
  | zero => exact hn
  | succ k ih =>
    obtain ⟨hfit, hrest⟩ := h
    rw [if_pos rfl] at hrest
    have := ih hrest (hfit rfl)
    omega

/-- Nine equal bits in a row do not fit. -/
theorem not_runsFit_nine (n : Nat) (v w : Bool) (b : List Bool) : ¬RunsFit (List.replicate 9 w ++ b) n v := by
  intro h
  obtain ⟨hfit, hrest⟩ := (h : RunsFit (w :: (List.replicate 8 w ++ b)) n v)
  have hrun : 1 ≤ (if w = v then n + 1 else 1) ∧ (if w = v then n + 1 else 1) ≤ 8 := by
    split
    · next hw => exact ⟨by omega, hfit hw⟩
    · decide
  have hlong : (if w = v then n + 1 else 1) + 8 ≤ 8 := hrest.replicate hrun.2
  omega

theorem stuff_ne_nine (l a b : List Bool) (v : Bool) : stuff l 0 false ≠ a ++ List.replicate 9 v ++ b := by
  intro h
  have hfit : RunsFit (a ++ (List.replicate 9 v ++ b)) 0 false := by
    rw [← List.append_assoc, ← h]
    exact runsFit_stuff l (by decide)
  obtain ⟨m, w, hnine⟩ := hfit.of_append
  exact not_runsFit_nine m w v b hnine

/-! Tiles (R397). -/

theorem filter_fill_replicate (n : Nat) : (List.replicate n fillBlk).filter (fun b => b != fillBlk) = [] := by simp

theorem filter_fill_of_not_mem {l : List Block} (h : fillBlk ∉ l) : l.filter (fun b => b != fillBlk) = l :=
  List.filter_eq_self.2 fun b hb => by
    rw [bne_iff_ne]
    rintro rfl
    exact h hb

/-- A tile of at most 4,096 blocks, filled up, has 4,096. -/
theorem tileBlocks_facts {l : List Block} (h : l.length ≤ 4096) : (tileBlocks l).length = 4096 ∧
    (tileBlocks l).filter (fun b => b != fillBlk) = l.filter (fun b => b != fillBlk) := by
  refine ⟨?_, ?_⟩
  · rw [tileBlocks, List.length_append, List.length_replicate]
    omega
  · rw [tileBlocks, List.filter_append, filter_fill_replicate, List.append_nil]

/-- A tile takes, FILL apart, the first of the blocks that wait. -/
theorem fillTile_facts {l : List Block} (hno : fillBlk ∉ l) : (fillTile l).1.length ≤ 4096 ∧
    (fillTile l).1.filter (fun b => b != fillBlk) ++ (fillTile l).2 = l := by
  have hkeep (k : Nat) : (l.take k).filter (fun b => b != fillBlk) = l.take k := filter_fill_of_not_mem fun h => hno (List.mem_of_mem_take h)
  have hpair : [fillBlk, fillBlk].filter (fun b => b != fillBlk) = [] := filter_fill_replicate 2
  unfold fillTile
  split
  · next h => exact ⟨by simpa using Nat.le_trans h (by decide), by rw [List.append_nil]; exact filter_fill_of_not_mem hno⟩
  · next h =>
    extract_lets m n
    have hm : m.length = 4094 := by rw [List.length_take]; omega
    have hmfilter : m.filter (fun b => b != fillBlk) = m := hkeep 4094
    split
    · refine ⟨?_, ?_⟩
      · simp only [List.length_append, List.length_take, List.length_drop, List.length_cons, List.length_nil]
        omega
      · rw [List.filter_append, List.filter_append, hpair, List.append_nil, ← List.filter_append, List.take_append_drop, hmfilter]
        exact List.take_append_drop ..
    · have hwhole : (l.take 4096).length ≤ 4096 ∧ (l.take 4096).filter (fun b => b != fillBlk) ++ l.drop 4096 = l :=
        ⟨by rw [List.length_take]; omega, by rw [hkeep]; exact List.take_append_drop ..⟩
      split
      · split
        · refine ⟨?_, ?_⟩
          · rw [List.length_append, hm]; rfl
          · rw [List.filter_append, hpair, List.nil_append, hmfilter]
            exact List.take_append_drop ..
        · exact hwhole
      · exact hwhole

/-! Bytes and numbers. -/

theorem beNat_append (l m : List Byte) : beNat (l ++ m) = beNat l * 256 ^ m.length + beNat m := by
  have hfold (a : Nat) (m : List Byte) : m.foldl (fun a b => a * 256 + b.toNat) a = a * 256 ^ m.length + beNat m := by
    induction m generalizing a with
    | nil => simp [beNat]
    | cons b m ih =>
      have hcons : beNat (b :: m) = b.toNat * 256 ^ m.length + beNat m := by simpa [beNat] using ih (0 * 256 + b.toNat)
      rw [List.foldl_cons, ih, hcons, List.length_cons, Nat.pow_succ]
      ring
  rw [beNat, List.foldl_append]
  exact hfold _ m

theorem beNat_cons (b : Byte) (l : List Byte) : beNat (b :: l) = b.toNat * 256 ^ l.length + beNat l := by
  have h := beNat_append [b] l
  simpa [beNat] using h

theorem beNat_lt (l : List Byte) : beNat l < 256 ^ l.length := by
  induction l with
  | nil => decide
  | cons b l ih =>
    rw [beNat_cons, List.length_cons, Nat.pow_succ]
    have hb : b.toNat < 256 := b.isLt
    nlinarith

theorem leNat_cons (b : Byte) (l : List Byte) : leNat (b :: l) = leNat l * 256 + b.toNat := by
  rw [leNat, List.reverse_cons, beNat_append]
  simp [leNat, beNat]

theorem leBytes_leNat (l : List Byte) : leBytes l.length (leNat l) = l := by
  induction l with
  | nil => rfl
  | cons b l ih =>
    have hb : b.toNat < 256 := b.isLt
    have hdiv : (leNat l * 256 + b.toNat) / 256 = leNat l := by omega
    rw [List.length_cons, leNat_cons, leBytes, hdiv, ih]
    congr 1
    apply BitVec.eq_of_toNat_eq
    rw [BitVec.toNat_ofNat]
    omega

theorem leNat_leBytes (n v : Nat) : leNat (leBytes n v) = v % 256 ^ n := by
  induction n generalizing v with
  | zero => simp [leBytes, leNat, beNat, Nat.mod_one]
  | succ n ih =>
    have hsplit : v % (256 * 256 ^ n) = v % 256 + 256 * (v / 256 % 256 ^ n) := Nat.mod_mul
    have hbyte : (BitVec.ofNat 8 v).toNat = v % 256 := BitVec.toNat_ofNat ..
    rw [leBytes, leNat_cons, ih, hbyte, Nat.pow_succ, Nat.mul_comm (256 ^ n), hsplit]
    omega

theorem beBytes_beNat (l : List Byte) : beBytes l.length (beNat l) = l := by
  have h := leBytes_leNat l.reverse
  rw [List.length_reverse, leNat, List.reverse_reverse] at h
  rw [beBytes, h, List.reverse_reverse]

theorem beNat_beBytes (n v : Nat) : beNat (beBytes n v) = v % 256 ^ n := leNat_leBytes n v

theorem length_sliceZ (l : List Byte) (o n : Nat) : (sliceZ l o n).length = n := by
  simp only [sliceZ, List.length_append, List.length_replicate, List.length_take]
  omega

theorem sliceZ_eq_map (l : List Byte) (o n : Nat) : sliceZ l o n = (List.range n).map (fun i => l.getD (o + i) 0) := by
  refine List.ext_getElem (by rw [length_sliceZ, List.length_map, List.length_range]) fun i hi _ => ?_
  rw [length_sliceZ] at hi
  simp only [sliceZ, List.getElem_map, List.getElem_range, List.getD_eq_getElem?_getD]
  rw [List.getElem_append]
  split
  · next h =>
    rw [List.length_take, List.length_drop] at h
    rw [List.getElem_take, List.getElem_drop, List.getElem?_eq_getElem (by omega)]
    rfl
  · next h =>
    rw [List.length_take, List.length_drop] at h
    rw [List.getElem_replicate, List.getElem?_eq_none (by omega)]
    rfl

theorem sliceZ_append_sliceZ (l : List Byte) (o a b : Nat) : sliceZ l o a ++ sliceZ l (o + a) b = sliceZ l o (a + b) := by
  simp only [sliceZ_eq_map, List.range_add, List.map_append, List.map_map]
  congr 1
  exact List.map_congr_left fun i _ => by simp [Nat.add_assoc]

theorem sliceZ_whole (l : List Byte) : sliceZ l 0 l.length = l := by simp [sliceZ]

/-- A string cut off beyond its end begins with the string. -/
theorem take_sliceZ {l : List Byte} {n : Nat} (h : l.length ≤ n) : (sliceZ l 0 n).take l.length = l := by
  simp [sliceZ, List.take_of_length_le h]

/-! Blocks (R396, Table 12-5). -/

theorem toNat_dataBlk (l : List Byte) : (dataBlk l).toNat = 2 ^ 64 + beNat (sliceZ l 0 8) := by
  have h : beNat (sliceZ l 0 8) < 2 ^ 64 := by simpa [length_sliceZ] using beNat_lt (sliceZ l 0 8)
  rw [dataBlk, BitVec.toNat_ofNat]
  omega

theorem toNat_ctlBlk {t : Nat} (ht : t < 256) (l : List Byte) :
    (ctlBlk t l).toNat = 2 * 2 ^ 64 + beNat (BitVec.ofNat 8 t :: sliceZ l 0 7) ∧ beNat (BitVec.ofNat 8 t :: sliceZ l 0 7) < 2 ^ 64 := by
  have hlt : beNat (BitVec.ofNat 8 t :: sliceZ l 0 7) < 2 ^ 64 := by simpa [length_sliceZ] using beNat_lt (BitVec.ofNat 8 t :: sliceZ l 0 7)
  have hcons : beNat (BitVec.ofNat 8 t :: sliceZ l 0 7) = t * 2 ^ 56 + beNat (sliceZ l 0 7) := by
    rw [beNat_cons, length_sliceZ, BitVec.toNat_ofNat, Nat.mod_eq_of_lt ht]
    norm_num
  refine ⟨?_, hlt⟩
  rw [ctlBlk, BitVec.toNat_ofNat, Nat.mod_eq_of_lt (by omega)]
  omega

theorem blkBytes_dataBlk (l : List Byte) : blkBytes (dataBlk l) = sliceZ l 0 8 := by
  have h : beNat (sliceZ l 0 8) < 2 ^ 64 := by simpa [length_sliceZ] using beNat_lt (sliceZ l 0 8)
  have hb := beBytes_beNat (sliceZ l 0 8)
  rw [length_sliceZ] at hb
  rw [blkBytes, toNat_dataBlk, Nat.add_mod_left, Nat.mod_eq_of_lt h, hb]

theorem blkBytes_ctlBlk {t : Nat} (ht : t < 256) (l : List Byte) : blkBytes (ctlBlk t l) = BitVec.ofNat 8 t :: sliceZ l 0 7 := by
  obtain ⟨h, hlt⟩ := toNat_ctlBlk ht l
  have hb := beBytes_beNat (BitVec.ofNat 8 t :: sliceZ l 0 7)
  rw [List.length_cons, length_sliceZ] at hb
  rw [blkBytes, h, Nat.mul_comm, Nat.mul_add_mod, Nat.mod_eq_of_lt hlt, hb]

theorem isData_dataBlk (l : List Byte) : isData (dataBlk l) = true := by
  have h : beNat (sliceZ l 0 8) < 2 ^ 64 := by simpa [length_sliceZ] using beNat_lt (sliceZ l 0 8)
  rw [isData, blkHead, toNat_dataBlk, beq_iff_eq]
  omega

theorem isCtl_dataBlk (t : Nat) (l : List Byte) : isCtl t (dataBlk l) = false := by
  have h := isData_dataBlk l
  simp only [isData, beq_iff_eq] at h
  simp [isCtl, h]

theorem blkHead_ctlBlk {t : Nat} (ht : t < 256) (l : List Byte) : blkHead (ctlBlk t l) = 2 := by
  obtain ⟨h, hlt⟩ := toNat_ctlBlk ht l
  rw [blkHead, h]
  omega

theorem isData_ctlBlk {t : Nat} (ht : t < 256) (l : List Byte) : isData (ctlBlk t l) = false := by simp [isData, blkHead_ctlBlk ht]

theorem isCtl_ctlBlk {t : Nat} (ht : t < 256) (l : List Byte) (u : Nat) : isCtl u (ctlBlk t l) = (t == u) := by
  have hcons : beNat (BitVec.ofNat 8 t :: sliceZ l 0 7) = t * 2 ^ 56 + beNat (sliceZ l 0 7) := by
    rw [beNat_cons, length_sliceZ, BitVec.toNat_ofNat, Nat.mod_eq_of_lt ht]
    norm_num
  have hlt : beNat (sliceZ l 0 7) < 2 ^ 56 := by simpa [length_sliceZ] using beNat_lt (sliceZ l 0 7)
  have htype : blkType (ctlBlk t l) = t := by
    rw [blkType, (toNat_ctlBlk ht l).1, hcons]
    omega
  simp [isCtl, blkHead_ctlBlk ht, htype]

theorem length_dataBlks (l : List Byte) : (dataBlks l).length = (l.length + 7) / 8 := by simp [dataBlks]

theorem mem_dataBlks {l : List Byte} {b : Block} (h : b ∈ dataBlks l) : ∃ m, b = dataBlk m := by
  obtain ⟨i, -, rfl⟩ := List.mem_map.1 h
  exact ⟨_, rfl⟩

/-- The bytes of a string's data blocks are the string, padded to whole blocks. -/
theorem flatMap_dataBlks (l : List Byte) : (dataBlks l).flatMap blkBytes = sliceZ l 0 (8 * ((l.length + 7) / 8)) := by
  have hblk (i : Nat) : blkBytes (dataBlk (sliceZ l (8 * i) 8)) = sliceZ l (8 * i) 8 := by
    have h := sliceZ_whole (sliceZ l (8 * i) 8)
    rw [length_sliceZ] at h
    rw [blkBytes_dataBlk, h]
  have hcut (k : Nat) : ((List.range k).map (fun i => dataBlk (sliceZ l (8 * i) 8))).flatMap blkBytes = sliceZ l 0 (8 * k) := by
    induction k with
    | zero => rfl
    | succ k ih =>
      rw [List.range_succ, List.map_append, List.flatMap_append, ih, List.map_singleton, List.flatMap_singleton, hblk]
      have h := sliceZ_append_sliceZ l 0 (8 * k) 8
      rwa [Nat.zero_add] at h
  exact hcut _

/-- The bytes of an END without ABORT. -/
theorem blkBytes_endBlk (crc : Nat) : blkBytes (endBlk crc false) = 0xE1#8 :: (leBytes 4 crc ++ [0#8, 0#8, 0#8]) := by
  have h : blkBytes (endBlk crc false) = 0xE1#8 :: sliceZ (leBytes 4 crc ++ [0#8]) 0 7 := blkBytes_ctlBlk (by decide) _
  rw [h]
  simp [sliceZ, leBytes]

/-- The bit of ABORT lies in the sixth byte. -/
theorem endBlk_plain (crc : Nat) : (endBlk crc false).getLsbD 16 = false := by
  have hblk : (endBlk crc false).toNat = 2 * 2 ^ 64 + beNat (0xE1#8 :: sliceZ (leBytes 4 crc ++ [0#8]) 0 7) :=
    (toNat_ctlBlk (by decide) (leBytes 4 crc ++ [0#8])).1
  have hzeros : 0xE1#8 :: sliceZ (leBytes 4 crc ++ [0#8]) 0 7 = (0xE1#8 :: leBytes 4 crc) ++ [0#8, 0#8, 0#8] := by simp [sliceZ, leBytes]
  have hlow : beNat [0#8, 0#8, 0#8] = 0 := rfl
  rw [BitVec.getLsbD, hblk, hzeros, beNat_append, hlow, Nat.testBit_eq_decide_div_mod_eq, decide_eq_false_iff_not]
  simp only [List.length_cons, List.length_nil]
  omega

/-! A message sent is received (R402, R403). -/

theorem length_linkHead (chan : Nat) (e f : Bool) (len dest src : Nat) : (linkHead chan e f len dest src).length = 7 := by
  simp [linkHead, beBytes_length]

section
variable {head pay tag : List Byte} {r : LinkRx} (hr : r = ⟨msgBlocks head pay tag, false⟩)

/-- The data blocks of a message. -/
abbrev msgData (pay tag : List Byte) : List Block := dataBlks pay ++ dataBlks tag

/-- The END block of a message. -/
abbrev msgEnd (head pay tag : List Byte) : Block := endBlk (crc32 (head ++ (msgData pay tag).flatMap blkBytes)) false

theorem mem_msgData {b : Block} (h : b ∈ msgData pay tag) : ∃ m, b = dataBlk m := by
  rcases List.mem_append.1 h with h | h
  · exact mem_dataBlks h
  · exact mem_dataBlks h

theorem isCtl_msgEnd (u : Nat) : isCtl u (msgEnd head pay tag) = (0xE1 == u) := isCtl_ctlBlk (by decide) _ _

include hr

/-- A message has no FILL among its blocks: none is discarded. -/
theorem LinkRx.body_of_msg : r.body = startBlk head :: (msgData pay tag ++ [msgEnd head pay tag]) := by
  rw [hr]
  refine List.filter_eq_self.2 fun b hb => ?_
  rcases List.mem_cons.1 hb with rfl | hb
  · exact congrArg not (isCtl_ctlBlk (by decide) head 0)
  · rcases List.mem_append.1 hb with hb | hb
    · obtain ⟨m, rfl⟩ := mem_msgData hb
      exact congrArg not (isCtl_dataBlk 0 m)
    · rw [List.mem_singleton.1 hb]
      exact congrArg not (isCtl_msgEnd 0)

theorem LinkRx.head_of_msg (hhead : head.length = 7) : r.head = head := by
  have hstart : isCtl 0x1E (startBlk head) = true := isCtl_ctlBlk (by decide) head 0x1E
  have hbytes : blkBytes (startBlk head) = 0x1E#8 :: sliceZ head 0 7 := blkBytes_ctlBlk (by decide) head
  rw [LinkRx.head, LinkRx.body_of_msg hr]
  dsimp only
  rw [if_pos hstart, hbytes, List.drop_one, List.tail_cons, ← hhead, sliceZ_whole]

theorem LinkRx.tail_of_msg : r.tail = some (msgEnd head pay tag) := by
  have hend : isCtl 0xE1 (msgEnd head pay tag) = true := isCtl_msgEnd 0xE1
  rw [LinkRx.tail, LinkRx.body_of_msg hr, ← List.cons_append, List.getLast?_append]
  simp [hend]

theorem LinkRx.data_of_msg : r.body.filter isData = msgData pay tag := by
  have hstart : isData (startBlk head) = false := isData_ctlBlk (by decide) head
  have hend : isData (msgEnd head pay tag) = false := isData_ctlBlk (by decide) _
  have hdata : (msgData pay tag).filter isData = msgData pay tag := List.filter_eq_self.2 fun b hb => by
    obtain ⟨m, rfl⟩ := mem_msgData hb
    exact isData_dataBlk m
  rw [LinkRx.body_of_msg hr, List.filter_cons, if_neg (by simp [hstart]), List.filter_append, hdata]
  simp [hend]

theorem LinkRx.cut_of_msg (hhead : head.length = 7) : r.cut = false := by
  have hnone : (r.body.drop 1).any (isCtl 0x1E) = false := by
    rw [LinkRx.body_of_msg hr, List.drop_one, List.tail_cons, List.any_append, Bool.or_eq_false_iff]
    refine ⟨List.any_eq_false.2 fun b hb => ?_, ?_⟩
    · obtain ⟨m, rfl⟩ := mem_msgData hb
      simp [isCtl_dataBlk]
    · simp [isCtl_msgEnd]
  have hempty : head.isEmpty = false := by
    cases head with
    | nil => cases hhead
    | cons => rfl
  rw [LinkRx.cut, LinkRx.head_of_msg hr hhead, LinkRx.tail_of_msg hr, hnone, hempty]
  rfl

theorem LinkRx.bytes_of_msg : r.bytes = (msgData pay tag).flatMap blkBytes := by rw [LinkRx.bytes, LinkRx.data_of_msg hr]

theorem LinkRx.crcOk_of_msg (hhead : head.length = 7) : r.crcOk = true := by
  have hcrc (l : List Byte) : crc32 l % 256 ^ 4 = crc32 l := Nat.mod_eq_of_lt (BitVec.isLt _)
  rw [LinkRx.crcOk, LinkRx.tail_of_msg hr, LinkRx.head_of_msg hr hhead, LinkRx.bytes_of_msg hr, Bool.or_eq_true, beq_iff_eq]
  right
  rw [blkBytes_endBlk, List.drop_one, List.tail_cons, List.take_left' (leBytes_length 4 _), leNat_leBytes, hcrc]

theorem LinkRx.abort_of_msg : r.abort = false := by
  rw [LinkRx.abort, LinkRx.tail_of_msg hr]
  exact endBlk_plain _

theorem LinkRx.errored_of_msg : r.errored = false := by
  have herr : (msgBlocks head pay tag).any blkErrored = false := by
    refine List.any_eq_false.2 fun b hb => ?_
    rcases List.mem_cons.1 hb with rfl | hb
    · have h : isCtl 0x1E (startBlk head) = true := isCtl_ctlBlk (by decide) head 0x1E
      simp [blkErrored, h]
    · rcases List.mem_append.1 hb with hb | hb
      · obtain ⟨m, rfl⟩ := mem_msgData hb
        simp [blkErrored, isData_dataBlk]
      · have h : isCtl 0xE1 (msgEnd head pay tag) = true := isCtl_msgEnd 0xE1
        rw [List.mem_singleton.1 hb, Bool.not_eq_true, blkErrored, h]
        simp
  rw [LinkRx.errored, hr, herr]
  rfl

end

/-! The link header (Table 12-7). -/

section
variable (c d a : BitVec 8) (e f : Bool) {n : Nat}

theorem linkHead_chan : (linkHead c.toNat e f n d.toNat a.toNat).getD 0 0#8 = c := by simp [linkHead]

theorem linkHead_flags : ((linkHead c.toNat e f n d.toNat a.toNat).getD 1 0#8).getLsbD 7 = e ∧
    ((linkHead c.toNat e f n d.toNat a.toNat).getD 1 0#8).getLsbD 6 = f := by
  have hflags : (linkHead c.toNat e f n d.toNat a.toNat).getD 1 0#8 = BitVec.ofNat 8 ((if e then 128 else 0) + (if f then 64 else 0)) := rfl
  rw [hflags]
  cases e <;> cases f <;> decide

theorem linkHead_len (hpos : 1 ≤ n) (hmax : n ≤ 65536) : beNat (sliceZ (linkHead c.toNat e f n d.toNat a.toNat) 2 3) + 1 = n := by
  have hfield : sliceZ (linkHead c.toNat e f n d.toNat a.toNat) 2 3 = beBytes 3 (n - 1) := by simp [sliceZ, linkHead, beBytes_length]
  rw [hfield, beNat_beBytes]
  omega

end

/-- Settles O40: each receiving function follows the sending one along its recursion, and the blocks of a message are taken apart as they were
put together. -/
theorem lineCoding : Obligations.LineCoding := by
  refine ⟨fun l n v hn => destuff_stuff l v hn, fun l r => scramble_scramble l r, fun l a b v => stuff_ne_nine l a b v, fun l hno => ?tile,
    fun c d a e f pay tag r hpos hmax htag hr => ?message⟩
  case tile =>
    obtain ⟨hlen, hblocks⟩ := fillTile_facts hno
    obtain ⟨htile, hfilter⟩ := tileBlocks_facts hlen
    exact ⟨htile, (congrArg (· ++ (fillTile l).2) hfilter).trans hblocks⟩
  case message =>
    have hhead := length_linkHead c.toNat e f pay.length d.toNat a.toNat
    obtain ⟨hsealed, hphase⟩ := linkHead_flags c d a e f (n := pay.length)
    have hrhead := LinkRx.head_of_msg hr hhead
    have hlen : r.len = pay.length := by rw [LinkRx.len, hrhead, linkHead_len c d a e f hpos hmax]
    have hseal : r.sealed_ = e := by rw [LinkRx.sealed_, hrhead, hsealed]
    refine ⟨LinkRx.crcOk_of_msg hr hhead, ?_, LinkRx.errored_of_msg hr, LinkRx.cut_of_msg hr hhead, LinkRx.abort_of_msg hr,
      by rw [LinkRx.chan, hrhead, linkHead_chan], hseal, by rw [LinkRx.phase, hrhead, hphase], hlen, ?_⟩
    · have htags : (tag.length + 7) / 8 = if e = true then 2 else 0 := by rw [htag]; cases e <;> rfl
      rw [LinkRx.countOk, LinkRx.data_of_msg hr, hlen, hseal, List.length_append, length_dataBlks, length_dataBlks, htags, beq_self_eq_true]
    · rw [LinkRx.bytes_of_msg hr, List.flatMap_append, flatMap_dataBlks, List.take_append_of_le_length (by rw [length_sliceZ]; omega)]
      exact take_sliceZ (by omega)

end Sys2Proof.Machine

/-! SUPPORT. The status words of the kinds are Bellman's alone (14_faults_and_safe_state.md R461, R462): no message raised, no cause begun
or ended, and nothing that an isolated unit gives up changes one. -/

namespace Sys2Proof.Machine

set_option autoImplicit false

@[simp] theorem Flt.raise_kinds (f : Flt) (cfg : Word) (now : Nat) (k : Kind) (src : Source) (addr : Nat) :
    (f.raise cfg now k src addr).kinds = f.kinds := by
  obtain ⟨boxes, lost, filters, line, h⟩ := f.raise_eq cfg now k src addr
  rw [h]

@[simp] theorem State.raise_kinds (s : State) (k : Kind) (src : Source) (addr : Nat) : (s.raise k src addr).flt.kinds = s.flt.kinds :=
  Flt.raise_kinds ..

@[simp] theorem State.onset_kinds (s : State) (k : Kind) (src : Source) (sub addr : Nat) : (s.onset k src sub addr).flt.kinds = s.flt.kinds := by
  change (s.flt.onset _ _ _ _ _ _).kinds = _
  unfold Flt.onset
  split
  · rfl
  · exact Flt.raise_kinds ..

@[simp] theorem State.endCause_kinds (s : State) (k : Kind) (src : Source) (sub : Nat) : (s.endCause k src sub).flt.kinds = s.flt.kinds := rfl

theorem State.foldl_kinds {α : Type} {f : State → α → State} (hf : ∀ t x, (f t x).flt.kinds = t.flt.kinds) (l : List α) (s : State) :
    (l.foldl f s).flt.kinds = s.flt.kinds :=
  List.foldlRecOn (motive := fun t => t.flt.kinds = s.flt.kinds) l f rfl fun t ht x _ => (hf t x).trans ht

/-! Buffers, queues and the Cellar. -/

@[simp] theorem State.unref_kinds (s : State) (h : Nat) : (s.unref h).flt.kinds = s.flt.kinds := by
  unfold State.unref
  extract_lets b
  split
  · exact State.raise_kinds ..
  · split
    · simp
    · split <;> simp

@[simp] theorem State.flushQueue_kinds (s : State) (q : Nat) : (s.flushQueue q).flt.kinds = s.flt.kinds := by
  unfold State.flushQueue
  extract_lets x m s1 s2
  have h1 : s1.flt.kinds = s.flt.kinds := State.foldl_kinds (fun t k => by simp) _ _
  have h2 : s2.flt.kinds = s1.flt.kinds := State.foldl_kinds (fun t k => by simp) _ _
  split
  · rfl
  · simp [h2, h1]

@[simp] theorem State.flushNode_kinds (s : State) (n : Nat) : (s.flushNode n).flt.kinds = s.flt.kinds := by
  unfold State.flushNode
  exact State.foldl_kinds (fun t c => by simp) _ _

@[simp] theorem State.flushGroups_kinds (s : State) (p : Fin 32) (sd : Nat) : (s.flushGroups p sd).flt.kinds = s.flt.kinds :=
  State.foldl_kinds (fun t n => by split <;> simp) _ _

@[simp] theorem State.flushTransit_kinds (s : State) (n : Nat) : (s.flushTransit n).flt.kinds = s.flt.kinds := by
  unfold State.flushTransit
  exact State.foldl_kinds (fun t c => by simp) _ _

@[simp] theorem State.loseWrites_kinds (s : State) (q : Nat) : (s.loseWrites q).flt.kinds = s.flt.kinds := by
  unfold State.loseWrites
  extract_lets x
  have hfold := State.foldl_kinds (f := fun (s : State) (k : QPkt) =>
    ((s.setTop (s.topOf q) { s.top (s.topOf q) with backlog := (s.top (s.topOf q)).backlog - k.d.length }).unref k.d.handle).setQueue q
      { s.queue q with writes := (s.queue q).writes.tail, cellar := (s.queue q).cellar ++ [(k, [])] }) (fun t k => by simp) x.writes s
  simpa using hfold

@[simp] theorem State.loseCellar_kinds (s : State) : s.loseCellar.flt.kinds = s.flt.kinds := by
  unfold State.loseCellar
  extract_lets s1 s2
  have hrecords (t : State) (q : Nat) : (t.loseRecords q).flt = t.flt :=
    (State.loseRecords_within (K := (· ∈ [.ctrs, .cpg, .tly])) (within_refl t) q (by simp) (by simp) (by simp)).flt.resolve_left (by simp)
  have h2 : s2.flt.kinds = s1.flt.kinds := State.foldl_kinds (fun t x => by simp [hrecords]) _ _
  simp [h2, s1]

/-! Contexts, engines and guilds. -/

@[simp] theorem State.complete_kinds (s : State) (id : Nat) (d : Desc) (lost : Bool) : (s.complete id d lost).flt.kinds = s.flt.kinds := by
  unfold State.complete
  split
  · rfl
  · split <;> simp [State.dropDesc]

@[simp] theorem State.replayCtx_kinds (s : State) (k : Nat) : (s.replayCtx k).flt.kinds = s.flt.kinds := by
  unfold State.replayCtx
  split
  · rfl
  · extract_lets s1
    split
    · simp [s1]
    · split
      · simp [s1]
      · split <;> simp [s1]

@[simp] theorem State.emptyEngine_kinds (s : State) (g e : Nat) : (s.emptyEngine g e).flt.kinds = s.flt.kinds :=
  State.foldl_kinds (fun _ _ => State.replayCtx_kinds ..) _ _

@[simp] theorem State.retireGuild_kinds (s : State) (g : Nat) : (s.retireGuild g).flt.kinds = s.flt.kinds :=
  State.foldl_kinds (fun _ _ => State.emptyEngine_kinds ..) _ _

@[simp] theorem State.retireLoose_kinds (s : State) (g : Nat) (ks : List Kind) : (s.retireLoose g ks).flt.kinds = s.flt.kinds := by
  unfold State.retireLoose
  split <;> simp

/-! Lanes and the twin link. -/

@[simp] theorem State.split_kinds (s : State) (on : Bool) : (s.split on).flt.kinds = s.flt.kinds := by
  cases on
  · exact State.endCause_kinds ..
  · exact State.onset_kinds ..

@[simp] theorem State.takeOwnership_kinds (s : State) : s.takeOwnership.flt.kinds = s.flt.kinds := by
  unfold State.takeOwnership
  extract_lets s1 twn put theirs
  have hput (l : List (Fin 32)) : (put l).flt.kinds = s.flt.kinds := by simp [put, s1]
  split
  · rfl
  · split
    · split <;> exact hput _
    · split
      · exact hput _
      · simp [s1]

@[simp] theorem State.redecide_kinds (s : State) : s.redecide.flt.kinds = s.flt.kinds := by
  unfold State.redecide
  split
  · exact s.takeOwnership_kinds
  · rfl

@[simp] theorem State.twinLane_kinds (s : State) (n : Nat) (up : Bool) : (s.twinLane n up).flt.kinds = s.flt.kinds := by
  have hsync (t : State) : (ports.foldl (fun s p => (s.setTwinTree p { s.twinTree p with synced := false }).mirror 12 p 0xFF 0) t).flt.kinds =
      t.flt.kinds := State.foldl_kinds (fun t p => by simp) _ _
  have hseal (t : State) : t.twinSealed.flt = t.flt := rfl
  cases up with
  | true =>
    simp only [State.twinLane, if_true, hseal]
    split <;> simp [hsync]
  | false =>
    simp only [State.twinLane, Bool.false_eq_true, if_false, State.redecide_kinds, hseal]
    split <;> simp

@[simp] theorem State.moveLane_kinds (s : State) (n : Nat) (cause : Option Nat) (dst : Nat) : (s.moveLane n cause dst).flt.kinds = s.flt.kinds := by
  have hleave : (s.leaveActive n cause dst).flt.kinds = s.flt.kinds := by
    unfold State.leaveActive
    extract_lets role s1 s2 s3
    have h3 : s3.flt.kinds = s.flt.kinds := by
      simp only [s3]
      split <;> simp [s2, s1]
    have hnbr : (s3.loseNbr n).flt = s3.flt :=
      (State.loseNbr_within (K := (· ∈ [.words, .ctrs, .shl, .tly])) (within_refl s3) n (by simp) (by simp) (by simp) (by simp)).flt.resolve_left
        (by simp)
    split <;> simp [h3, hnbr]
  unfold State.moveLane
  split <;> split <;> simp [hleave]

@[simp] theorem State.ulkFall_kinds (s : State) (n cause : Nat) : (s.ulkFall n cause).flt.kinds = s.flt.kinds := by
  unfold State.ulkFall
  split <;> simp

/-! Isolation and safe state. -/

@[simp] theorem State.handOver_flt (s : State) (p : Fin 32) : (s.handOver p).flt = s.flt := by
  unfold State.handOver
  split <;> simp

@[simp] theorem State.setLeaders_flt (s : State) : s.setLeaders.flt = s.flt :=
  (State.setLeaders_within (K := (· ∈ [.words])) (within_refl s) (by simp)).flt.resolve_left (by simp)

@[simp] theorem State.stopUnit_kinds (s : State) (u : IsoUnit) (n : Nat) (ks : List Kind) : (s.stopUnit u n ks).flt.kinds = s.flt.kinds := by
  cases u with
  | engine => simp [State.stopUnit]
  | guild => simp [State.stopUnit]
  | port => simp [State.stopUnit]
  | bank => rfl
  | memory => simp [State.stopUnit]
  | lane => simp [State.stopUnit]
  | uplink => simp [State.stopUnit]

@[simp] theorem State.isolate_kinds (s : State) (u : IsoUnit) (n : Nat) (ks : List Kind) (q : Nat) :
    (s.isolate u n ks q).flt.kinds = s.flt.kinds := by
  unfold State.isolate
  split <;> simp

end Sys2Proof.Machine

/-! Fault messages and safe state (14_faults_and_safe_state.md R445 to R448, R456 to R467): what Bellman does with one message and what the
entry of safe state does. -/

namespace Sys2Proof.Machine

set_option autoImplicit false

/-! Safe state. -/

/-- Safe state stops one side of a port. -/
def State.stopSide (s : State) (p : Fin 32) (sd : Nat) : State :=
  s.setSide p sd { s.side p sd with sending := false, rxq := [], cur := none, found := none }

theorem State.side_setSide (s : State) (p q : Fin 32) (a b : Nat) (x : PonSide) :
    (s.setSide p a x).side q b = if q.val * 2 + b = p.val * 2 + a then x else s.side q b :=
  Tab.get_set _ _ _ _ _

theorem State.stopSide_sending_same (s : State) (p : Fin 32) (sd : Nat) : ((s.stopSide p sd).side p sd).sending = false := by
  unfold State.stopSide
  rw [State.side_setSide, if_pos rfl]

/-- A side that sends nothing sends nothing after another has stopped. -/
theorem State.stopSide_sending {s : State} {q : Fin 32} {b : Nat} (h : (s.side q b).sending = false) (p : Fin 32) (a : Nat) :
    ((s.stopSide p a).side q b).sending = false := by
  unfold State.stopSide
  rw [State.side_setSide]
  split
  · rfl
  · exact h

/-- Every port of a list with both sides stopped sends nothing. -/
theorem State.stopSides_sending (p : Fin 32) (l : List (Fin 32)) (s : State)
    (h : p ∈ l ∨ (s.side p 0).sending = false ∧ (s.side p 1).sending = false) :
    ((l.foldl (fun s p => (s.stopSide p 0).stopSide p 1) s).side p 0).sending = false ∧
      ((l.foldl (fun s p => (s.stopSide p 0).stopSide p 1) s).side p 1).sending = false := by
  induction l generalizing s with
  | nil => exact h.resolve_left (List.not_mem_nil)
  | cons q l ih =>
    refine ih _ ?_
    rcases h with hmem | ⟨h0, h1⟩
    · rcases List.mem_cons.mp hmem with rfl | hl
      · exact .inr ⟨State.stopSide_sending (State.stopSide_sending_same s p 0) p 1, State.stopSide_sending_same _ p 1⟩
      · exact .inl hl
    · exact .inr ⟨State.stopSide_sending (State.stopSide_sending h0 q 0) q 1, State.stopSide_sending (State.stopSide_sending h1 q 0) q 1⟩

/-- Ports stopped change nothing but their sides. -/
theorem State.stopSides_kept (l : List (Fin 32)) (s : State) : (l.foldl (fun s p => (s.stopSide p 0).stopSide p 1) s).words = s.words ∧
    (l.foldl (fun s p => (s.stopSide p 0).stopSide p 1) s).ctrs = s.ctrs ∧ (l.foldl (fun s p => (s.stopSide p 0).stopSide p 1) s).flt = s.flt :=
  List.foldlRecOn (motive := fun t : State => t.words = s.words ∧ t.ctrs = s.ctrs ∧ t.flt = s.flt) _ _ ⟨rfl, rfl, rfl⟩ fun _ ht _ _ => ht

/-- Safe state taken and counted, the partner told. -/
def State.safeTaken (s : State) : State :=
  (({ s with flt := { s.flt with safe := true, fatalLine := true, mxpInv := false } } : State).inc Cnt.FLT_SAFE_ENTRIES).twinSend 8 0xFF 0xFF 0 1

/-- An error reported to the host. -/
def State.aerSent (s : State) : State := { s with hst := { s.hst with aer := s.hst.aer + 1 } }

theorem State.safeTaken_facts (s : State) : s.safeTaken.flt = { s.flt with safe := true, fatalLine := true, mxpInv := false } ∧
    s.safeTaken.words = s.words ∧ s.safeTaken.ctr Cnt.FLT_SAFE_ENTRIES = (s.ctr Cnt.FLT_SAFE_ENTRIES).add 1 :=
  have hsent (t : State) : (t.twinSend 8 0xFF 0xFF 0 1).ctrs = t.ctrs := by simp
  ⟨by simp [State.safeTaken], by simp [State.safeTaken],
    (State.ctr_congr (hsent _) _).trans ((State.ctr_inc ..).trans (if_pos rfl))⟩

theorem mem_ports (p : Fin 32) : p ∈ ports := List.mem_finRange p

/-- Every side stopped, the rest of the state as it was. -/
theorem State.stopped_facts (s : State) : ∃ u : State, s.enterSafe = (if s.flt.safe then s else u.aerSent) ∧ u.flt = s.safeTaken.flt ∧
    u.words = s.safeTaken.words ∧ u.ctrs = s.safeTaken.ctrs ∧ ∀ p : Fin 32, (u.side p 0).sending = false ∧ (u.side p 1).sending = false := by
  obtain ⟨hwords, hctrs, hflt⟩ := State.stopSides_kept ports s.safeTaken
  exact ⟨_, rfl, hflt, hwords, hctrs, fun p => State.stopSides_sending p ports s.safeTaken (.inl (mem_ports p))⟩

/-- Safe state entered: the entry is counted, the fatal line driven and every side stopped. -/
theorem State.enterSafe_facts {s : State} (h : s.flt.safe = false) :
    s.enterSafe.flt = { s.flt with safe := true, fatalLine := true, mxpInv := false } ∧ s.enterSafe.words = s.words ∧
      s.enterSafe.ctr Cnt.FLT_SAFE_ENTRIES = (s.ctr Cnt.FLT_SAFE_ENTRIES).add 1 ∧
      ∀ p : Fin 32, (s.enterSafe.side p 0).sending = false ∧ (s.enterSafe.side p 1).sending = false := by
  obtain ⟨hflt, hwords, hctr⟩ := s.safeTaken_facts
  obtain ⟨u, hu, hflt', hwords', hctrs', hdark⟩ := s.stopped_facts
  rw [hu, if_neg (by simp [h])]
  exact ⟨hflt'.trans hflt, hwords'.trans hwords, (State.ctr_congr hctrs' _).trans hctr, hdark⟩

theorem State.enterSafe_of_safe {s : State} (h : s.flt.safe = true) : s.enterSafe = s := if_pos h

theorem State.enterSafe_safe (s : State) : s.enterSafe.flt.safe = true := by
  cases h : s.flt.safe with
  | true => rwa [State.enterSafe_of_safe h]
  | false => rw [(State.enterSafe_facts h).1]

theorem State.enterSafe_kinds (s : State) : s.enterSafe.flt.kinds = s.flt.kinds := by
  cases h : s.flt.safe with
  | true => rw [State.enterSafe_of_safe h]
  | false => rw [(State.enterSafe_facts h).1]

theorem State.enterSafe_queue (s : State) : s.enterSafe.flt.queue = s.flt.queue := by
  cases h : s.flt.safe with
  | true => rw [State.enterSafe_of_safe h]
  | false => rw [(State.enterSafe_facts h).1]

/-! One message. -/

theorem Flt.capture_kept (f : Flt) (m : Msg) : (f.capture m).kinds = f.kinds ∧ (f.capture m).queue = f.queue := by
  unfold Flt.capture
  split <;> exact ⟨rfl, rfl⟩

theorem Flt.enqueue_kinds (f : Flt) (m : Msg) : (f.enqueue m).kinds = f.kinds := by
  unfold Flt.enqueue
  extract_lets k x f1
  have h1 : f1.kinds = f.kinds := by simp only [f1]; split <;> rfl
  split <;> exact h1

/-- A queue with room takes the message. -/
theorem Flt.enqueue_queue {f : Flt} {m : Msg} (hroom : f.queue.length < fltDepth) : (f.enqueue m).queue = f.queue ++ [m] := by
  unfold Flt.enqueue
  extract_lets k x f1
  have h1 : f1.queue = f.queue := by simp only [f1]; split <;> rfl
  rw [h1, if_neg (by omega)]

/-- The state with a message counted and its kind's status updated, before Bellman reacts. -/
def State.recorded (s : State) (m : Msg) : State :=
  let q := m.kind.code + m.cls * 512
  let s1 := s.incQ Cnt.FLT_MESSAGES q
  let s2 := if m.kind = .FLT_MSG_LOST then s1.countQ Cnt.FLT_MSGS_LOST (m.addr % 65536) q else s1
  s2.setKindSt m.kind.code ((s2.kindSt m.kind.code).event m)

/-- A message as Bellman classes it. -/
def State.classed (s : State) (m : Msg) : Msg := { m with cls := (s.kindConf m.kind.code).classOf m.severe }

/-- A message recorded changes of Bellman the status of its kind alone. -/
theorem State.recorded_flt (s : State) (m : Msg) : (s.recorded m).flt.queue = s.flt.queue ∧
    (s.recorded m).flt.kinds = Tab.set (fun _ => KindSt.clear) s.flt.kinds m.kind.code ((s.kindSt m.kind.code).event m) := by
  unfold State.recorded
  extract_lets q s1 s2
  have h2 : s2.flt = s.flt := by
    simp only [s2]
    split <;> simp [s1]
  rw [State.kindSt, State.kindSt, h2]
  exact ⟨(congrArg Flt.queue h2 :), congrArg (fun f : Flt => Tab.set (fun _ => KindSt.clear) f.kinds m.kind.code
    ((Tab.get (fun _ => KindSt.clear) s.flt.kinds m.kind.code).event m)) h2⟩

/-- A message captured and queued. -/
def State.withMessage (s : State) (m : Msg) : State := { s with flt := (s.flt.capture m).enqueue m }

theorem State.withMessage_kinds (s : State) (m : Msg) : (s.withMessage m).flt.kinds = s.flt.kinds :=
  (Flt.enqueue_kinds ..).trans (Flt.capture_kept ..).1

/-- A queue with room takes the message at its end. -/
theorem State.withMessage_queue {s : State} (hroom : s.flt.queue.length < fltDepth) (m : Msg) : (s.withMessage m).flt.queue = s.flt.queue ++ [m] := by
  have hcap := (s.flt.capture_kept m).2
  exact (Flt.enqueue_queue (by rwa [hcap])).trans (by rw [hcap])

/-- Bellman's reaction to a message that is not a later SEVERE one: safe state, isolation or neither. -/
def State.reacted (s : State) (fatal iso : Bool) (m : Msg) : State :=
  if fatal then s.enterSafe
  else if iso && !s.flt.safe then
    (match s.unitOf m with | some u => s.isolate u.1 u.2 [m.kind] (m.kind.code + m.cls * 512) | none => s)
  else s

theorem State.bellman_eq (s : State) (m : Msg) : s.bellman m =
    if m.severe && (s.recorded (s.classed m)).flt.wasSevere m.kind m.src then (s.recorded (s.classed m)).level
    else (((s.recorded (s.classed m)).withMessage (s.classed m)).reacted
      (if m.severe then (s.kindConf m.kind.code).sevFatal else (s.kindConf m.kind.code).fatal)
      (if m.severe then (s.kindConf m.kind.code).sevIso else (s.kindConf m.kind.code).iso) (s.classed m)).level := rfl

@[simp] theorem State.level_kindSt (s : State) (k : Nat) : s.level.kindSt k = s.kindSt k := by simp only [State.kindSt, State.level_parts]

theorem State.reacted_kinds (s : State) (fatal iso : Bool) (m : Msg) : (s.reacted fatal iso m).flt.kinds = s.flt.kinds := by
  unfold State.reacted
  split
  · exact s.enterSafe_kinds
  · split
    · split
      · exact State.isolate_kinds ..
      · rfl
    · rfl

/-- A message leaves its kind with its status, whatever Bellman does about it. -/
theorem State.bellman_kindSt (s : State) (m : Msg) :
    (s.bellman m).kindSt m.kind.code = (s.kindSt m.kind.code).event (s.classed m) := by
  have hrec : (s.recorded (s.classed m)).kindSt m.kind.code = (s.kindSt m.kind.code).event (s.classed m) :=
    (congrArg (fun k => Tab.get (fun _ => KindSt.clear) k m.kind.code) (s.recorded_flt (s.classed m)).2).trans
      (Tab.get_set_same (fun _ => KindSt.clear) _ _ _)
  rw [State.bellman_eq]
  split
  · rw [State.level_kindSt, hrec]
  · rw [State.level_kindSt, State.kindSt, State.reacted_kinds, State.withMessage_kinds]
    exact hrec

/-- A first fatal message is queued and drives safe state. -/
theorem State.bellman_fatal {s : State} {m : Msg} (hsev : m.severe = false) (hfatal : (s.kindConf m.kind.code).fatal = true)
    (hroom : s.flt.queue.length < fltDepth) :
    (s.bellman m).flt.safe = true ∧ (s.bellman m).flt.queue.length = s.flt.queue.length + 1 := by
  have hq : (s.recorded (s.classed m)).flt.queue = s.flt.queue := (s.recorded_flt _).1
  have hlen : ((s.recorded (s.classed m)).withMessage (s.classed m)).flt.queue.length = s.flt.queue.length + 1 := by
    rw [State.withMessage_queue (by rwa [hq]), hq, List.length_append, List.length_singleton]
  rw [State.bellman_eq, if_neg (by simp [hsev]), State.reacted, if_pos (by simpa [State.classed, hsev] using hfatal)]
  simp [State.enterSafe_safe, State.enterSafe_queue, hlen]

/-! The commands. -/

/-- The oldest message of an outbox reaches Bellman. -/
theorem exec_faultMessageRx {s : State} {b : Nat} {m : Msg} {r : List Msg} (h : s.box b = m :: r) :
    exec (.faultMessageRx b none) s =
      .next (({ s with flt := { s.flt with boxes := Tab.set (fun _ => []) s.flt.boxes b r } } : State).bellman m) := by
  change execFaultMessageRx b none s = _
  unfold execFaultMessageRx
  rw [h]

/-- The same with copies that disagree. -/
theorem exec_faultMessageRx_differ {s : State} {b : Nat} {m : Msg} {r : List Msg} (h : s.box b = m :: r) (f : BitVec 8) (fatal : Bool) :
    exec (.faultMessageRx b (some (f, fatal))) s =
      .next (if fatal then ((({ s with flt := { s.flt with boxes := Tab.set (fun _ => []) s.flt.boxes b r } } : State).bellman m).raise
          .FLT_INTERNAL ⟨.FLT, 0⟩ f.toNat).enterSafe
        else (({ s with flt := { s.flt with boxes := Tab.set (fun _ => []) s.flt.boxes b r } } : State).bellman m).raise
          .FLT_INTERNAL ⟨.FLT, 0⟩ f.toNat) := by
  change execFaultMessageRx b (some (f, fatal)) s = _
  unfold execFaultMessageRx
  rw [h]

/-- An empty queue answers 0 and is left as it is. -/
theorem State.queueRead_nil {s : State} (h : s.flt.queue = []) (ag : Agent) :
    (s.queueRead ag).flt = s.flt ∧ Tab.get (fun _ => 0#32) (s.queueRead ag).rdata ag.code = 0#32 := by
  unfold State.queueRead
  rw [h]
  exact ⟨rfl, State.rdata_answer ..⟩

/-- A queue read gives its oldest message up, word 0 as the answer and word 1 latched. -/
theorem State.queueRead_cons {s : State} {m : Msg} {r : List Msg} (h : s.flt.queue = m :: r) (ag : Agent) :
    (s.queueRead ag).flt = { s.flt with queue := r } ∧ Tab.get (fun _ => 0#32) (s.queueRead ag).rdata ag.code = m.word 0 ∧
      (s.queueRead ag).latch.word Reg.FLT_QUEUE_W1.addr = m.word 1 := by
  unfold State.queueRead
  rw [h]
  refine ⟨rfl, State.rdata_answer .., ?_⟩
  exact (Tab.get_set_ne _ _ _ _ _ (by decide)).trans ((Tab.get_set_ne _ _ _ _ _ (by decide)).trans (Tab.get_set_same _ _ _ _))

/-- Settles O42: a message is Bellman's alone to record, and every way a copy can be fatal ends in safe state. -/
theorem faultMessages : Obligations.FaultMessages := by
  unfold Obligations.FaultMessages
  refine ⟨?_, ?_, ?_, ?_, ?_, ?_, ?_, ?_, ?_, ?_, ?_, ?_, ?_⟩
  · intro b d s h
    change execFaultMessageRx b d s = _
    unfold execFaultMessageRx
    rw [h]
  · intro b m r s h
    refine ⟨_, exec_faultMessageRx h, ?_⟩
    dsimp only
    rw [State.bellman_kindSt]
    exact ⟨rfl, rfl⟩
  · intro b m r s h hsev hfatal hroom
    exact ⟨_, exec_faultMessageRx h, State.bellman_fatal hsev hfatal hroom⟩
  · intro b f m r u s h hu
    rw [exec_faultMessageRx h] at hu
    cases hu
    exact exec_faultMessageRx_differ h f false
  · intro b f m r s h
    exact ⟨_, exec_faultMessageRx_differ h f true, State.enterSafe_safe _⟩
  · intro b s h
    change execFltMsgLost b s = _
    unfold execFltMsgLost
    split
    · rfl
    · dsimp only
      rw [if_pos h]
  · intro b n c x s hx hl hn hroom
    change execFltMsgLost b s = _
    unfold execFltMsgLost
    rw [hx, hl]
    dsimp only
    rw [if_neg (by omega)]
  · intro s
    refine ⟨_, rfl, ?_⟩
    cases hline : s.flt.fatalLine with
    | false => rfl
    | true =>
      refine ⟨State.enterSafe_safe s, fun h => ?_⟩
      obtain ⟨-, hwords, hctr, hdark⟩ := State.enterSafe_facts h
      exact ⟨hctr, hwords, hdark⟩
  · intro k x s
    refine ⟨_, rfl, ?_⟩
    dsimp only
    split
    · exact ⟨congrArg FilterSt.open_ (Tab.get_set_same (fun _ => FilterSt.idle) _ _ _), rfl, rfl⟩
    · exact ⟨congrArg FilterSt.open_ (Tab.get_set_same (fun _ => FilterSt.idle) _ _ _), rfl, rfl⟩
  · exact fun x g s => rfl
  · exact fun n s => rfl
  · exact fun m r s h => ⟨_, rfl, State.queueRead_cons h .pf⟩
  · exact fun s h => ⟨_, rfl, State.queueRead_nil h .steward⟩

end Sys2Proof.Machine

/-! SUPPORT. The registers of start-up (16_startup_and_live_update.md R506 to R533): what leaves them as they are, and what the bank
fetch writes of them. -/

namespace Sys2Proof.Machine

set_option autoImplicit false

/-- The registers of start-up stand from one state to another. -/
structure State.BootRegs (t s : State) : Prop where
  word : ∀ a, 0x40000 ≤ a → a < 0x40028 → t.word a = s.word a

theorem State.BootRegs.refl (s : State) : s.BootRegs s := ⟨fun _ _ _ => rfl⟩

theorem State.BootRegs.trans {r t s : State} (h : r.BootRegs t) (g : t.BootRegs s) : r.BootRegs s :=
  ⟨fun a hlo hhi => (h.word a hlo hhi).trans (g.word a hlo hhi)⟩

theorem State.BootRegs.of_words {t s : State} (h : t.words = s.words) : t.BootRegs s := ⟨fun _ _ _ => State.word_congr h _⟩

theorem State.Aside.bootRegs {t s : State} (h : t.Aside s) : t.BootRegs s := ⟨fun a _ hhi => h.word a (by omega)⟩

theorem State.BootRegs.congr {r t s : State} (g : t.BootRegs s) (h : r.words = t.words) : r.BootRegs s := (State.BootRegs.of_words h).trans g

theorem State.BootRegs.foldl {α : Type} {f : State → α → State} (l : List α) (hf : ∀ t, ∀ x ∈ l, (f t x).BootRegs t) (s : State) :
    (l.foldl f s).BootRegs s :=
  List.foldlRecOn (motive := fun t => t.BootRegs s) l f (.refl s) fun t ht x hx => (hf t x hx).trans ht

theorem State.BootRegs.rd {t s : State} (h : t.BootRegs s) {f : Fld} (hlo : 0x40000 ≤ f.addr) (hhi : f.addr < 0x40028) : t.rd f = s.rd f :=
  State.rd_congr_word (h.word _ hlo hhi)

theorem State.BootRegs.bit {t s : State} (h : t.BootRegs s) {f : Fld} (hlo : 0x40000 ≤ f.addr) (hhi : f.addr < 0x40028) : t.bit f = s.bit f :=
  congrArg (· != 0) (h.rd hlo hhi)

theorem State.BootRegs.stage {t s : State} (h : t.BootRegs s) : t.stage = s.stage := h.rd (f := Reg.BOOT_STATUS.STAGE) (by decide) (by decide)

theorem State.wr_bootRegs (s : State) {f : Fld} (hf : f.addr < 0x40000 ∨ 0x40028 ≤ f.addr) (v : Nat) : (s.wr f v).BootRegs s :=
  ⟨fun a hlo hhi => State.word_wr_of_ne s (by omega) v⟩

theorem State.putWord_bootRegs (s : State) {a : Nat} (ha : a < 0x40000 ∨ 0x40028 ≤ a) (v : Word) : (s.putWord a v).BootRegs s :=
  ⟨fun b hlo hhi => (State.word_putWord ..).trans (if_neg (by omega))⟩

theorem State.takeOwnership_bootRegs (s : State) : s.takeOwnership.BootRegs s :=
  ⟨fun a hlo hhi => s.word_takeOwnership_of_ne (by simp only [Reg.TWN_STATUS.addr]; omega) (by simp only [Reg.TWN_OWN.addr]; omega)⟩

/-! Codes, stages and messages. -/

theorem State.setStage_stage (s : State) {n : Nat} (hn : n < 4) : (s.setStage n).stage = n := by
  unfold State.setStage State.stage
  rw [State.msi_rd, State.rd_wr _ _ _ (by decide)]
  exact Nat.mod_eq_of_lt hn

/-- A field beside STAGE reads as before. -/
theorem State.setStage_rd (s : State) (n : Nat) {g : Fld} (hg : g.addr ≠ Reg.BOOT_STATUS.addr) : (s.setStage n).rd g = s.rd g :=
  (State.msi_rd ..).trans (State.rd_wr_addr _ _ _ _ hg)

theorem State.bootDone_code (s : State) {c : Nat} (hc : c < 16) : (s.bootDone c).rd Reg.BOOT_STATUS.CODE = c := by
  unfold State.bootDone
  rw [State.msi_rd, State.rd_wr _ _ _ (by decide)]
  exact Nat.mod_eq_of_lt hc

@[simp] theorem State.bootDone_boot (s : State) (c : Nat) : (s.bootDone c).boot = s.boot := by simp

/-- A field beside CODE reads as before. -/
theorem State.bootDone_rd (s : State) (c : Nat) {g : Fld} (hg : g.lo + g.w ≤ 32)
    (hbits : Reg.BOOT_STATUS.CODE.lo + Reg.BOOT_STATUS.CODE.w ≤ g.lo ∨ g.lo + g.w ≤ Reg.BOOT_STATUS.CODE.lo) : (s.bootDone c).rd g = s.rd g :=
  (State.msi_rd ..).trans (State.rd_wr_bits _ _ _ _ (by decide) hg hbits)

/-! The fetch of the banks. -/

/-- With no bank left the fetch ends. -/
theorem State.nextBank_nil {s : State} (h : s.boot.todo = []) : s.nextBank.boot.fetching = none ∧ s.nextBank.bit Reg.BOOT_STATUS.BUSY = false ∧
    s.nextBank.flt.active .IMAGE_NONE srcBoot 0 = true ∧ s.nextBank.boot.applied = s.boot.applied := by
  unfold State.nextBank
  rw [h]
  exact ⟨rfl, State.bit_wr _ Reg.BOOT_STATUS.BUSY 0 (by decide), State.active_onset .., rfl⟩

/-- The next bank is fetched. -/
theorem State.nextBank_cons {s : State} {b : Nat} {l : List Nat} (h : s.boot.todo = b :: l) : s.nextBank.boot.fetching = some b ∧
    s.nextBank.boot.todo = l ∧ s.nextBank.bit Reg.BOOT_STATUS.BUSY = true := by
  unfold State.nextBank
  rw [h]
  refine ⟨congrArg Boot.fetching (State.inc_boot ..), congrArg Boot.todo (State.inc_boot ..), ?_⟩
  rw [State.bit_congr (State.inc_words ..)]
  exact State.bit_wr _ Reg.BOOT_STATUS.BUSY 1 (by decide)

end Sys2Proof.Machine

/-! The stages of start-up and the bank fetch (16_startup_and_live_update.md R507 to R523). -/

namespace Sys2Proof.Machine

set_option autoImplicit false

/-! ENTER_S1. -/

theorem State.memEcc_facts (s : State) (k : Kind) (c : Fin 16) : (s.memEcc k c).words = s.words ∧ (s.memEcc k c).flt.iso = s.flt.iso := by
  obtain ⟨boxes, lost, filters, line, h⟩ :=
    s.takeFree.2.flt.raise_eq (s.takeFree.2.kindCfg k) s.takeFree.2.now k ⟨.MEM, c.val⟩ (Config.freeValue s.takeFree.1 % 2 ^ 35)
  exact ⟨rfl, (congrArg Flt.iso h :)⟩

/-- Memory channels reported lost as the stage is entered. -/
def State.channelsLost (s : State) (trained : BitVec 16) : State :=
  (List.finRange 16).foldl (fun s c => if trained.getLsbD c.val || s.flt.isolated .memory 0 then s else s.memEcc .MEM_UNCORR c) s

theorem State.channelsLost_facts (s : State) (trained : BitVec 16) :
    (s.channelsLost trained).words = s.words ∧ (s.channelsLost trained).flt.iso = s.flt.iso :=
  List.foldlRecOn (motive := fun t : State => t.words = s.words ∧ t.flt.iso = s.flt.iso) _ _ ⟨rfl, rfl⟩ fun t ht c _ => by
    split
    · exact ht
    · obtain ⟨hwords, hiso⟩ := t.memEcc_facts .MEM_UNCORR c
      exact ⟨hwords.trans ht.1, hiso.trans ht.2⟩

theorem State.presentAt_of_bootRegs {t s : State} (h : t.BootRegs s) (p : Fin 32) (sd : Nat) : t.presentAt p sd = s.presentAt p sd := by
  unfold State.presentAt
  rw [h.word Reg.BOOT_PRESENT_LO.addr (by decide) (by decide), h.word Reg.BOOT_PRESENT_HI.addr (by decide) (by decide)]

/-- The enables of a port are writes of its own register. -/
theorem State.enablePort_kept (s : State) (p : Fin 32) : (s.enablePort p).flt = s.flt ∧ (s.enablePort p).BootRegs s := by
  have hwr (t : State) (lo w v : Nat) : (t.wr ⟨Reg.PT_DS_CFG.addr p.val, lo, w⟩ v).BootRegs t :=
    t.wr_bootRegs (.inr (by simp only [Reg.PT_DS_CFG.addr]; omega)) v
  unfold State.enablePort
  extract_lets s1
  have h1 : s1.flt = s.flt ∧ s1.BootRegs s := by
    dsimp only [s1]
    split
    · exact ⟨rfl, hwr s 31 1 1⟩
    · exact ⟨rfl, .refl s⟩
  split
  · exact ⟨rfl, .refl s⟩
  · split
    · exact ⟨h1.1, (hwr s1 30 1 1).trans h1.2⟩
    · exact h1

/-- A port that is there and not isolated comes up. -/
theorem State.enablePort_en50 {s : State} {p : Fin 32} (hiso : s.flt.isolated .port p.val = false) (hp : s.presentAt p 0 = true) :
    (s.enablePort p).bit (Reg.PT_DS_CFG.EN50 p.val) = true := by
  have h50 : (s.wr (Reg.PT_DS_CFG.EN50 p.val) 1).bit (Reg.PT_DS_CFG.EN50 p.val) = true := State.bit_wr _ _ _ (by simp)
  unfold State.enablePort
  rw [if_neg (by simp [hiso]), if_pos hp]
  dsimp only
  split
  · rw [State.bit_eq_rd, State.rd_wr_bits _ _ _ _ (by simp) (by simp) (by simp)]
    exact h50
  · exact h50

/-- A port that is up stays up as another is enabled. -/
theorem State.enablePort_stays {s : State} {q : Fin 32} (h : s.bit (Reg.PT_DS_CFG.EN50 q.val) = true) (p : Fin 32) :
    (s.enablePort p).bit (Reg.PT_DS_CFG.EN50 q.val) = true := by
  have hwr50 (t : State) (ht : t.bit (Reg.PT_DS_CFG.EN50 q.val) = true) : (t.wr (Reg.PT_DS_CFG.EN50 p.val) 1).bit (Reg.PT_DS_CFG.EN50 q.val) = true := by
    by_cases hpq : p = q
    · subst hpq
      exact State.bit_wr _ _ _ (by simp)
    · rw [State.bit_eq_rd, State.rd_wr_addr _ _ _ _ (by have := Fin.val_ne_of_ne hpq; simp; omega)]
      exact ht
  have hwr10 (t : State) (ht : t.bit (Reg.PT_DS_CFG.EN50 q.val) = true) : (t.wr (Reg.PT_DS_CFG.EN10 p.val) 1).bit (Reg.PT_DS_CFG.EN50 q.val) = true := by
    rw [State.bit_eq_rd, State.rd_wr_bits _ _ _ _ (by simp) (by simp) (by simp)]
    exact ht
  unfold State.enablePort
  extract_lets s1
  have h1 : s1.bit (Reg.PT_DS_CFG.EN50 q.val) = true := by
    dsimp only [s1]
    split
    · exact hwr50 s h
    · exact h
  split
  · exact h
  · split
    · exact hwr10 s1 h1
    · exact h1

/-- Of the ports enabled one by one, each that is there and not isolated is up at the end, and the boot registers stand. -/
theorem State.enablePorts_facts (l : List (Fin 32)) (s : State) : (l.foldl (fun s p => s.enablePort p) s).BootRegs s ∧
    ∀ p : Fin 32, (p ∈ l ∧ s.flt.isolated .port p.val = false ∧ s.presentAt p 0 = true ∨ s.bit (Reg.PT_DS_CFG.EN50 p.val) = true) →
      (l.foldl (fun s p => s.enablePort p) s).bit (Reg.PT_DS_CFG.EN50 p.val) = true := by
  induction l generalizing s with
  | nil => exact ⟨.refl s, fun p h => h.resolve_left fun h => List.not_mem_nil h.1⟩
  | cons q l ih =>
    obtain ⟨hregs, hup⟩ := ih (s.enablePort q)
    obtain ⟨hflt, hq⟩ := s.enablePort_kept q
    refine ⟨hregs.trans hq, fun p h => hup p ?_⟩
    rcases h with ⟨hmem, hiso, hp⟩ | hbit
    · rcases List.mem_cons.mp hmem with rfl | hl
      · exact .inr (State.enablePort_en50 hiso hp)
      · exact .inl ⟨hl, by rw [hflt]; exact hiso, by rw [State.presentAt_of_bootRegs hq]; exact hp⟩
    · exact .inr (State.enablePort_stays hbit q)

theorem exec_enterS1 {s : State} (hrel : s.boot.released = true) (hlat : s.shl.latched = true) (hst : s.stage = 0) (hsafe : s.flt.safe = false)
    (c : BitVec 16) : exec (.enterS1 c) s = .next (ports.foldl (fun s p => s.enablePort p) ((s.setStage 1).channelsLost c)) := by
  change execEnterS1 c s = _
  unfold execEnterS1
  rw [if_neg (by simp [hrel, hlat, hst, hsafe])]
  rfl

/-- The stage entered, and the ports with a module on. -/
theorem State.enterS1_facts (s : State) (c : BitVec 16) :
    (ports.foldl (fun s p => s.enablePort p) ((s.setStage 1).channelsLost c)).stage = 1 ∧
      ∀ p : Fin 32, s.flt.isolated .port p.val = false → s.presentAt p 0 = true →
        (ports.foldl (fun s p => s.enablePort p) ((s.setStage 1).channelsLost c)).bit (Reg.PT_DS_CFG.EN50 p.val) = true := by
  obtain ⟨hwords, hiso⟩ := (s.setStage 1).channelsLost_facts c
  obtain ⟨hregs, hup⟩ := State.enablePorts_facts ports ((s.setStage 1).channelsLost c)
  refine ⟨hregs.stage.trans ((State.rd_congr hwords _).trans (s.setStage_stage (by decide))), fun p hp hthere => hup p (.inl ⟨mem_ports p, ?_, ?_⟩)⟩
  · have hflt : (s.setStage 1).flt = s.flt := by simp
    rwa [Flt.isolated, hiso, hflt]
  · have hword (a : Nat) (ha : a ≠ Reg.BOOT_STATUS.addr) : ((s.setStage 1).channelsLost c).word a = s.word a := by
      rw [State.word_congr hwords, State.setStage, State.word_congr (t := (s.wr Reg.BOOT_STATUS.STAGE 1).msi 0 2) (s := s.wr Reg.BOOT_STATUS.STAGE 1) (by simp)]
      exact State.word_wr_of_ne s (f := Reg.BOOT_STATUS.STAGE) ha 1
    unfold State.presentAt at hthere ⊢
    rwa [hword _ (by decide), hword _ (by decide)]

/-! BANK_FETCH_DONE. -/

theorem exec_bankFetchDone_refused {s : State} {v : Option BankVerdict} {i : ImageParts} {k reason sect : Nat}
    (hf : s.boot.fetching = some k) (hr : s.bankReason k v = some (reason, sect)) :
    exec (.bankFetchDone v i) s = .next (s.bankBad k sect reason) := by
  change execBankFetchDone v i s = _
  unfold execBankFetchDone
  rw [hf]
  dsimp only
  rw [hr]

theorem exec_bankFetchDone_applied {s a : State} {v : Option BankVerdict} {i : ImageParts} {k : Nat} (hf : s.boot.fetching = some k)
    (hr : s.bankReason k v = none) (ha : s.applyImage (s.imageOf k i) = some a) :
    exec (.bankFetchDone v i) s = .next (a.bankDone k (s.imageOf k i)) := by
  change execBankFetchDone v i s = _
  unfold execBankFetchDone
  rw [hf]
  dsimp only
  rw [hr]
  dsimp only
  rw [ha]

/-- A bank with something found wrong is refused. -/
theorem State.bankReason_some (s : State) (k : Nat) (v : BankVerdict) : ∃ r, s.bankReason k (some v) = some r := by
  unfold State.bankReason
  cases v with
  | flashRead => exact ⟨_, if_pos rfl⟩
  | keyHash =>
    simp only [Option.some.injEq, reduceCtorEq, if_false, if_true]
    split_ifs <;> exact ⟨_, rfl⟩
  | signature =>
    simp only [Option.some.injEq, reduceCtorEq, if_false, if_true]
    split_ifs <;> exact ⟨_, rfl⟩
  | bodyHash =>
    simp only [Option.some.injEq, reduceCtorEq, if_false, if_true]
    split_ifs <;> exact ⟨_, rfl⟩

/-- A bank that does not begin with the magic number. -/
theorem State.bankReason_magic {s : State} {k : Nat} {v : Option BankVerdict} (hv : v ≠ some .flashRead) (h : s.imgNat k 0 4 ≠ 0x464A4749) :
    s.bankReason k v = some (1, 0) := by
  have hbad : s.headerOk k = false := by simp [State.headerOk, h]
  unfold State.bankReason
  rw [if_neg hv, hbad]
  rfl

theorem State.bankReason_none {s : State} {k : Nat} (hok : s.headerOk k = true) (hmine : s.headerMine k = true) : s.bankReason k none =
    if s.imgNat k 0x00C 4 < s.rd Reg.BOOT_IMAGE.FLOOR then some (5, 0) else (badSection (s.bodyLen k) (s.sections k)).map (fun i => (7, i)) := by
  simp [State.bankReason, hok, hmine]

/-- A bank refused with no other left. -/
theorem State.bankBad_last {s : State} (h : s.boot.todo = []) (bank sect reason : Nat) : (s.bankBad bank sect reason).boot.fetching = none ∧
    (s.bankBad bank sect reason).bit Reg.BOOT_STATUS.BUSY = false ∧ (s.bankBad bank sect reason).flt.active .IMAGE_NONE srcBoot 0 = true ∧
    (s.bankBad bank sect reason).boot.applied = s.boot.applied :=
  State.nextBank_nil (s := s.raise ..) h

/-- The registers that name a bank, written as it has been applied. -/
def State.bankWritten (s : State) (bank : Nat) (img : Image) : State :=
  ((((((s.wr Reg.BOOT_IMAGE.BANK bank).wr Reg.BOOT_IMAGE.SVN img.svn).wr Reg.BOOT_IMAGE.GEN_LO img.gen).wr Reg.BOOT_LAST.BANK bank).wr
    Reg.BOOT_LAST.REACHED_S3 0).wr Reg.BOOT_STATUS.BUSY 0)

/-- The fetch over, and the cause of no image. -/
def State.fetchOver (s : State) : State :=
  ({ s with boot := { s.boot with fetching := none, todo := [], applied := true, once := true } } : State).endCause .IMAGE_NONE srcBoot 0

theorem State.bankDone_eq (s : State) (bank : Nat) (img : Image) : s.bankDone bank img =
    if bank = 2 then (s.bankWritten bank img).fetchOver.bootDone 0 else (s.bankWritten bank img).fetchOver := rfl

theorem State.bankWritten_rd (s : State) {k : Nat} (hk : k ≤ 2) (img : Image) : (s.bankWritten k img).rd Reg.BOOT_IMAGE.BANK = k ∧
    (s.bankWritten k img).rd Reg.BOOT_LAST.BANK = k ∧ (s.bankWritten k img).rd Reg.BOOT_LAST.REACHED_S3 = 0 ∧
    (s.bankWritten k img).rd Reg.BOOT_STATUS.BUSY = 0 := by
  have hmod : k % 2 ^ 2 = k := Nat.mod_eq_of_lt (by omega)
  unfold State.bankWritten
  refine ⟨?_, ?_, ?_, State.rd_wr _ _ _ (by decide)⟩
  · rw [State.rd_wr_addr _ _ _ _ (by decide), State.rd_wr_addr _ _ _ _ (by decide), State.rd_wr_addr _ _ _ _ (by decide),
      State.rd_wr_bits _ _ _ _ (by decide) (by decide) (by decide), State.rd_wr_bits _ _ _ _ (by decide) (by decide) (by decide),
      State.rd_wr _ _ _ (by decide), hmod]
  · rw [State.rd_wr_addr _ _ _ _ (by decide), State.rd_wr_bits _ _ _ _ (by decide) (by decide) (by decide), State.rd_wr _ _ _ (by decide), hmod]
  · rw [State.rd_wr_addr _ _ _ _ (by decide), State.rd_wr _ _ _ (by decide), Nat.zero_mod]

/-- A bank applied is recorded. -/
theorem State.bankDone_facts (s : State) {k : Nat} (hk : k ≤ 2) (img : Image) : (s.bankDone k img).boot.applied = true ∧
    (s.bankDone k img).boot.fetching = none ∧ (s.bankDone k img).rd Reg.BOOT_IMAGE.BANK = k ∧ (s.bankDone k img).rd Reg.BOOT_LAST.BANK = k ∧
    (s.bankDone k img).bit Reg.BOOT_LAST.REACHED_S3 = false ∧ (s.bankDone k img).bit Reg.BOOT_STATUS.BUSY = false := by
  obtain ⟨himage, hlast, hs3, hbusy⟩ := s.bankWritten_rd hk img
  rw [State.bankDone_eq]
  generalize s.bankWritten k img = u at *
  have hrd {f : Fld} (hf : f.lo + f.w ≤ 25 ∨ 29 ≤ f.lo ∧ f.lo + f.w ≤ 32) : (u.fetchOver.bootDone 0).rd f = u.rd f :=
    u.fetchOver.bootDone_rd 0 (by omega) (by simp; omega)
  split
  · refine ⟨congrArg Boot.applied (u.fetchOver.bootDone_boot 0), congrArg Boot.fetching (u.fetchOver.bootDone_boot 0), ?_, ?_, ?_, ?_⟩
    · exact (hrd (by decide)).trans himage
    · exact (hrd (by decide)).trans hlast
    · exact congrArg (· != 0) ((hrd (by decide)).trans hs3)
    · exact congrArg (· != 0) ((hrd (by decide)).trans hbusy)
  · exact ⟨rfl, rfl, himage, hlast, congrArg (· != 0) hs3, congrArg (· != 0) hbusy⟩

/-! ENTER_S2 and ENTER_S3. -/

/-- No lock stands among the boot registers. -/
theorem allLocks_apart : ∀ a ∈ allLocks, a < 0x40000 ∨ 0x40028 ≤ a := by decide +kernel

theorem State.setLocks_bootRegs (s : State) : s.setLocks.BootRegs s := by
  have hopen (t : State) {a : Nat} (ha : a ∈ allLocks) (v : Nat) : (t.wr (Reg.BLOCK_LOCK.OPEN a) v).BootRegs t :=
    t.wr_bootRegs (allLocks_apart a ha) v
  have hseal (t : State) {a : Nat} (ha : a ∈ allLocks) (v : Nat) : (t.wr (Reg.BLOCK_LOCK.SEALED a) v).BootRegs t :=
    t.wr_bootRegs (allLocks_apart a ha) v
  refine State.BootRegs.foldl _ (fun t a ha => ?_) s
  split
  · exact hopen t ha 1
  · exact (hseal _ ha 1).trans (hopen t ha 0)
  · exact hopen t ha 0

theorem State.requestSwap_bootRegs (s : State) (p : Fin 32) : (s.requestSwap p).BootRegs s := by
  unfold State.requestSwap
  split
  · exact .refl s
  · exact (State.mirror_aside ..).bootRegs.trans ((State.wr_bootRegs _ (.inr (by simp only; omega)) _).trans
      ((State.putWord_bootRegs _ (by decide) _).trans (.of_words rfl)))

theorem State.treeToS2_bootRegs (s : State) (p : Fin 32) : (s.treeToS2 p).BootRegs s := by
  unfold State.treeToS2
  split
  · exact ((State.enterRamp_aside ..).trans (State.broadcastDeactivate_aside ..)).bootRegs
  · exact (State.enterRamp_aside ..).bootRegs

/-- Start-up's second stage with its trees, before its time is noted. -/
def State.stageTwo (s : State) : State :=
  let s1 := ((s.wr Reg.STW_FW_STATUS.READY 1).setLocks.setStage 2).takeOwnership
  let s2 := s1.boot.pages.foldl (fun s t => s.requestSwap (Fin.ofNat 32 t)) s1
  ports.foldl (fun s p => s.treeToS2 p) s2

theorem exec_enterS2 {s : State} (happ : s.boot.applied = true) (hst : s.stage = 1) (hsafe : s.flt.safe = false) :
    exec .enterS2 s = .next { s.stageTwo with boot := { s.stageTwo.boot with s2At := s.stageTwo.now } } := by
  change execEnterS2 s = _
  unfold execEnterS2
  rw [if_neg (by simp [happ, hst, hsafe])]
  rfl

/-- Entering the stage takes no time: time is no part of the command's frame. -/
theorem State.stageTwo_now {s : State} (happ : s.boot.applied = true) (hst : s.stage = 1) (hsafe : s.flt.safe = false) : s.stageTwo.now = s.now := by
  obtain ⟨t, ht, hkept⟩ := exec_changes_frame s .enterS2
  rw [exec_enterS2 happ hst hsafe] at ht
  cases ht
  exact hkept.now.resolve_left (by decide)

theorem State.stageTwo_facts (s : State) : s.stageTwo.stage = 2 ∧ s.stageTwo.bit Reg.STW_FW_STATUS.READY = true := by
  unfold State.stageTwo
  extract_lets s1 s2
  have hlocks := (s.wr Reg.STW_FW_STATUS.READY 1).setLocks_bootRegs
  have hown : s1.BootRegs ((s.wr Reg.STW_FW_STATUS.READY 1).setLocks.setStage 2) := State.takeOwnership_bootRegs _
  have hkept : (ports.foldl (fun s p => s.treeToS2 p) s2).BootRegs s1 :=
    (State.BootRegs.foldl _ (fun t p _ => t.treeToS2_bootRegs p) s2).trans
      (State.BootRegs.foldl _ (fun t n _ => t.requestSwap_bootRegs (Fin.ofNat 32 n)) s1)
  refine ⟨(hkept.trans hown).stage.trans (State.setStage_stage _ (by decide)), ?_⟩
  rw [(hkept.trans hown).bit (by decide) (by decide), State.bit_eq_rd, State.setStage_rd _ _ (by decide), hlocks.rd (by decide) (by decide)]
  exact State.bit_wr s Reg.STW_FW_STATUS.READY 1 (by decide)

/-- Settles O48: each stage is entered from the one before it, and a bank is refused for the first reason or recorded. -/
theorem startupStages : Obligations.StartupStages := by
  unfold Obligations.StartupStages
  refine ⟨?_, ?_, ?_, ?_, ?_, ?_, ?_, ?_, ?_, ?_, ?_, ?_, ?_, ?_, ?_⟩
  · intro b s h
    change execTxdisSample b s = _
    exact congrArg Host.Outcome.next (if_pos (by simpa using h))
  · intro b s hrel hsam
    refine ⟨_, congrArg Host.Outcome.next (if_neg (by simp [hrel, hsam])), ?_, State.word_putWord_same .., rfl⟩
    exact (State.word_putWord ..).trans ((if_neg (by decide)).trans (State.word_putWord_same ..))
  · intro c s h
    exact congrArg Host.Outcome.next (if_pos (by simpa [or_assoc] using h))
  · intro c s hrel hlat hst hsafe
    exact ⟨_, exec_enterS1 hrel hlat hst hsafe c, s.enterS1_facts c⟩
  · intro v i s h
    change execBankFetchDone v i s = _
    unfold execBankFetchDone
    rw [h]
  · intro v i k s hf hv hmagic
    exact exec_bankFetchDone_refused hf (State.bankReason_magic hv hmagic)
  · intro i k s hf hok hmine hfloor
    exact exec_bankFetchDone_refused hf ((State.bankReason_none hok hmine).trans (if_pos hfloor))
  · intro v i k s hf htodo
    obtain ⟨⟨reason, sect⟩, hr⟩ := s.bankReason_some k v
    exact ⟨_, exec_bankFetchDone_refused hf hr, State.bankBad_last htodo ..⟩
  · intro i k a s hf hok hmine hfloor hsect ha hk
    have hr : s.bankReason k none = none := by rw [State.bankReason_none hok hmine, if_neg (by omega), hsect]; rfl
    exact ⟨_, exec_bankFetchDone_applied hf hr ha, a.bankDone_facts hk _⟩
  · intro s h
    exact congrArg Host.Outcome.next (if_pos (by simpa [or_assoc] using h))
  · intro s happ hst hsafe
    exact ⟨_, exec_enterS2 happ hst hsafe, s.stageTwo_facts.1, s.stageTwo_facts.2, State.stageTwo_now happ hst hsafe⟩
  · intro s
    refine ⟨_, rfl, ?_⟩
    dsimp only
    split
    · refine ⟨?_, State.bit_wr _ Reg.BOOT_LAST.REACHED_S3 1 (by decide)⟩
      exact (State.rd_wr_addr _ _ _ _ (by decide)).trans (s.setStage_stage (by decide))
    · rfl
  · intro s
    refine congrArg Host.Outcome.next ?_
    simp only [Bool.and_eq_true, decide_eq_true_eq, and_assoc]
  · intro s
    refine congrArg Host.Outcome.next ?_
    by_cases h : s.shl.latched = true ∧ s.flt.safe = false ∧ s.mxpStatus ≠ s.boot.mxp ∧ s.mxpRecent = false
    · rw [if_pos h]
      exact if_neg (by simpa [and_assoc] using h)
    · rw [if_neg h]
      exact if_pos (by simpa [or_assoc, imp_iff_not_or] using h)
  · exact fun s => rfl

end Sys2Proof.Machine

/-! SUPPORT. The Steward's work leaves its firmware running (16_startup_and_live_update.md R530 to R532): a message taken, a slot served, a
command or a takeover carried out neither pauses it nor writes a register of start-up. -/

namespace Sys2Proof.Machine

set_option autoImplicit false

/-- The firmware of the Steward and the registers of start-up stand from one state to another. -/
structure State.Steady (t s : State) : Prop where
  regs : t.BootRegs s
  paused : t.stw.paused = s.stw.paused

theorem State.Steady.refl (s : State) : s.Steady s := ⟨.refl s, rfl⟩

theorem State.Steady.trans {r t s : State} (h : r.Steady t) (g : t.Steady s) : r.Steady s := ⟨h.regs.trans g.regs, h.paused.trans g.paused⟩

theorem State.Steady.foldl {α : Type} {f : State → α → State} (hf : ∀ t x, (f t x).Steady t) (l : List α) (s : State) : (l.foldl f s).Steady s :=
  List.foldlRecOn (motive := fun t => t.Steady s) l f (.refl s) fun t ht x _ => (hf t x).trans ht

/-- Parts of the state apart from the registers and the Steward. -/
abbrev steadyParts : List Part := [.ctrs, .flt, .pon, .act, .cpg, .keys, .pm, .twn, .hrl, .tly, .hst]

/-- What changes neither a register nor the Steward. -/
theorem State.Steady.of_within {t s : State} (h : t.Within (· ∈ steadyParts) s) : t.Steady s :=
  ⟨.of_words (h.words.resolve_left (by simp)), congrArg Stw.paused (h.stw.resolve_left (by simp))⟩

/-- What changes registers, but not of start-up, and not the Steward. -/
theorem State.Steady.of_regs {t s : State} (h : t.BootRegs s) (hw : t.stw = s.stw) : t.Steady s := ⟨h, congrArg Stw.paused hw⟩

/-! Slots and messages. -/

theorem State.queuePloam_steady (s : State) (p : Fin 32) (sd onu : Nat) (b : PloamBody) : (s.queuePloam p sd onu b).Steady s :=
  .of_within (State.queuePloam_within (within_refl s) p sd onu b (by simp) (by simp))

theorem State.setSlot_steady (s : State) (p : Fin 32) (i : Nat) (x : Slot) : (s.setSlot p i x).Steady s :=
  .of_within (State.setSlot_within (within_refl s) p i x (by simp) (by simp) (by simp))

theorem State.enterRamp_steady (s : State) (p : Fin 32) : (s.enterRamp p).Steady s :=
  .of_within (State.enterRamp_within (within_refl s) p (by simp) (by simp))

theorem State.leaveRamp_steady (s : State) (p : Fin 32) : (s.leaveRamp p).Steady s :=
  .of_within (State.leaveRamp_within (within_refl s) p (by simp) (by simp))

theorem State.setProv_steady (s : State) (p : Fin 32) (i : Nat) (x : Prov) : (s.setProv p i x).Steady s := ⟨.of_words rfl, rfl⟩

theorem State.inc_steady (s : State) (a : Nat) : (s.inc a).Steady s := .of_within (State.inc_within (within_refl s) a (by simp) (by simp))

theorem State.raise_steady (s : State) (k : Kind) (src : Source) (a : Nat) : (s.raise k src a).Steady s :=
  .of_within (State.raise_within (within_refl s) k src a (by simp))

theorem State.unprovision_steady (s : State) (p : Fin 32) (i : Nat) : (s.unprovision p i).Steady s :=
  (State.setProv_steady ..).trans (.foldl (fun t e => by
    split
    · next f hf => exact .of_regs (t.wr_bootRegs (.inr (Nat.le_trans (by decide) (provEnable_addr hf))) 0) rfl
    · exact .refl t) ..)

theorem State.endService_steady (s : State) (p : Fin 32) (i : Nat) (erase : Bool) : (s.endService p i erase).Steady s := by
  unfold State.endService
  extract_lets x s1 s2 s3 s4
  have h1 : s1.Steady s := .of_within (State.withdraw_within (within_refl s) p x.side i (by simp) (by simp))
  have h2 : s2.Steady s1 := .of_within (State.flushNode_within (within_refl s1) _ (by simp) (by simp) (by simp) (by simp))
  have h3 : s3.Steady s2 := by
    dsimp only [s3]
    split
    · exact .of_within (State.eraseNode_within (within_refl s2) _ (by simp) (by simp))
    · exact .refl s2
  have h4 : s4.Steady s := (State.unprovision_steady ..).trans (h3.trans (h2.trans h1))
  split
  · exact State.Steady.trans (.of_within (State.leftActive_within (within_refl s4) p (by simp) (by simp))) h4
  · exact h4

theorem State.freeSlot_steady (s : State) (p : Fin 32) (i : Nat) (final : Option PloamBody) : (s.freeSlot p i final).Steady s := by
  unfold State.freeSlot
  extract_lets sd s1
  have h1 : s1.Steady s := (State.setSlot_steady ..).trans (State.endService_steady ..)
  cases final with
  | none => exact h1
  | some b => exact (State.queuePloam_steady ..).trans h1

theorem State.disableSlot_steady (s : State) (p : Fin 32) (i : Nat) : (s.disableSlot p i).Steady s := by
  unfold State.disableSlot
  extract_lets x free s1
  have h1 : s1.Steady s := by
    refine (State.setSlot_steady ..).trans ?_
    split
    · exact .refl s
    · exact State.endService_steady ..
  split
  · exact (State.queuePloam_steady ..).trans h1
  · exact h1

/-! Templates. -/

theorem State.templateFail_steady (s : State) (p : Fin 32) (i : Nat) : (s.templateFail p i).Steady s :=
  (State.raise_steady ..).trans ((State.inc_steady ..).trans (State.freeSlot_steady ..))

/-- Words behind a window are none of start-up. -/
theorem winKey_beyond_boot (w idx k : Nat) : 0x40028 ≤ winKey w idx k := by
  unfold winKey
  omega

theorem State.putEntry_steady (s : State) (w idx first : Nat) (vs : List Word) : (s.putEntry w idx first vs).Steady s := by
  unfold State.putEntry
  exact .foldl (fun t (x : Word × Nat) => .of_regs (t.putWord_bootRegs (.inr (winKey_beyond_boot ..)) x.1) (State.putWord_stw ..)) ..

theorem State.schStore_steady (s : State) (idx first : Nat) (ws : List Word) : (s.schStore idx first ws).Steady s := by
  have hput : (s.schPut idx first ws).Steady s := by
    unfold State.schPut
    extract_lets s1 s2
    have h2 : s2.Steady s := (State.Steady.foldl (fun t q => .of_within (State.rehome_within (within_refl t) q _ (by simp))) _ s1).trans
      (State.putEntry_steady ..)
    split
    · exact State.Steady.trans (.of_within (State.flushNode_within (within_refl s2) _ (by simp) (by simp) (by simp) (by simp))) h2
    · exact h2
  unfold State.schStore
  extract_lets s1
  split
  · split
    · exact hput
    · split
      · exact State.Steady.trans (.of_within (State.pendBucket_within (within_refl s1) _ _ (by simp))) hput
      · split
        · exact State.Steady.trans (.of_within (State.clearStat_within (within_refl s1) _ (by simp))) hput
        · exact hput
  · exact hput

theorem State.applyWin_steady (s : State) (win idx : Nat) (ws : List Word) : (s.applyWin win idx ws).1.Steady s := by
  unfold State.applyWin
  split
  · extract_lets q j full
    split
    · exact .refl s
    · exact State.Steady.trans (.of_regs (State.wr_bootRegs _ (.inr (winKey_beyond_boot ..)) _) (State.wr_stw ..)) (State.putEntry_steady ..)
  · split
    · exact .refl s
    · exact (State.schStore_steady s idx 0 ws :)
  · split
    · exact .refl s
    · exact (State.schStore_steady s (0x20000 + idx) 0 ws :)
  · split
    · exact .refl s
    · exact (State.schStore_steady s (0x40000 + idx * 8) 0 ws :)
  · split
    · exact .refl s
    · exact .of_regs (State.putWord_bootRegs _ (.inr (winKey_beyond_boot ..)) _) (State.putWord_stw ..)
  · exact .refl s

theorem State.applyRecs_steady (p : Fin 32) (i : Nat) (only : Nat → Bool) (l : List TRec) (s : State) : (s.applyRecs p i only l).1.Steady s := by
  induction l generalizing s with
  | nil => exact .refl s
  | cons r l ih =>
    cases r with
    | omci m => exact ih s
    | win w base pS sS ps ws =>
      unfold State.applyRecs
      extract_lets idx r x s1
      have hr : r.1.Steady s := State.applyWin_steady ..
      split
      · exact ih s
      · split
        · exact hr
        · refine (ih s1).trans (State.Steady.trans ?_ hr)
          dsimp only [s1]
          split
          · exact State.setProv_steady ..
          · exact .refl r.1

theorem State.answerRanging_steady (s : State) (p : Fin 32) (sd slot : Nat) (eqd : Int) : (s.answerRanging p sd slot eqd).Steady s := by
  have hprov (t : State) : (t.provisionRanged p slot).Steady t := by
    unfold State.provisionRanged
    split
    · exact .refl t
    · split
      · exact .refl t
      · dsimp only
        split
        · exact (State.templateFail_steady ..).trans (State.applyRecs_steady ..)
        · exact State.applyRecs_steady ..
  unfold State.answerRanging
  extract_lets s1
  have h1 : s1.Steady s := State.queuePloam_steady ..
  split
  · exact (hprov _).trans ((State.queuePloam_steady ..).trans h1)
  · exact h1

theorem State.sendRangingTime_steady (s : State) (p : Fin 32) (sd slot : Nat) (eqd : Int) : (s.sendRangingTime p sd slot eqd).Steady s := by
  unfold State.sendRangingTime
  split
  · exact ⟨.of_words rfl, rfl⟩
  · exact State.answerRanging_steady ..

/-! Messages that waited. -/

theorem State.nextOmci_steady (s : State) (p : Fin 32) (i : Nat) : (s.nextOmci p i).Steady s := by
  unfold State.nextOmci
  extract_lets x
  split
  · exact (State.inc_steady ..).trans (State.setProv_steady ..)
  · exact ⟨.of_words rfl, rfl⟩

theorem State.tryActive_steady (s : State) (p : Fin 32) (i : Nat) : (s.tryActive p i).Steady s := by
  have hactive : (s.toActive p i).Steady s := by
    unfold State.toActive
    extract_lets x s1
    have h1 : s1.Steady s := .of_within (State.dropAnn_within (State.setSlot_within (within_refl s) _ _ _ (by simp) (by simp) (by simp)) _ (by simp))
    split
    · exact h1
    · split
      · exact h1
      · exact (State.nextOmci_steady ..).trans ((State.setProv_steady ..).trans h1)
  unfold State.tryActive
  dsimp only
  split
  · exact hactive
  · exact .refl s

theorem State.takeRegistration_steady (s : State) (p : Fin 32) (i regId : Nat) : (s.takeRegistration p i regId).Steady s := by
  unfold State.takeRegistration
  extract_lets x want s1
  have h1 : s1.Steady s := State.setSlot_steady ..
  split
  · exact .refl s
  · split
    · exact (State.raise_steady ..).trans (State.disableSlot_steady ..)
    · split
      · exact (State.tryActive_steady ..).trans h1
      · exact (State.queuePloam_steady ..).trans h1

theorem State.takeOmci_steady (s : State) (p : Fin 32) (i : Nat) (good : Bool) : (s.takeOmci p i good).Steady s := by
  unfold State.takeOmci
  split
  · exact .refl s
  · split
    · exact State.nextOmci_steady ..
    · exact State.templateFail_steady ..

theorem State.takeMsg_steady (s : State) (m : StwMsg) : (s.takeMsg m).Steady s := by
  unfold State.takeMsg
  split
  · split
    · exact State.takeRegistration_steady ..
    · exact .refl s
  · split
    · exact .of_within (State.takeKeyReport_within (within_refl s) _ _ _ _ (by simp) (by simp) (by simp) (by simp) (by simp) (by simp))
    · exact .refl s
  · split
    · exact State.takeOmci_steady ..
    · exact .refl s

theorem State.actCmd_steady (s : State) (p : Fin 32) (op i : Nat) : (s.actCmd p op i).Steady s := by
  unfold State.actCmd
  dsimp only
  split
  · exact .refl s
  · split
    · exact State.enterRamp_steady ..
    · split
      · exact State.leaveRamp_steady ..
      · exact .refl s
    · split
      · exact State.freeSlot_steady ..
      · exact .refl s
    · split
      · split
        · exact (State.queuePloam_steady ..).trans (State.setSlot_steady ..)
        · exact State.setSlot_steady ..
      · exact .refl s
    · split
      · exact .refl s
      · exact State.disableSlot_steady ..
    · exact .refl s

/-! Trees taken back. -/

theorem State.takeTree_steady (s : State) (p : Fin 32) (num : Nat) : (s.takeTree p num).Steady s :=
  .of_regs ((s.takeTree_aside p num).bootRegs.trans (State.wr_bootRegs s (f := Reg.TWN_OWN.OWN) (by decide) _))
    ((State.takeTree_within (K := (· ∈ [.words, .pon, .twn, .hrl])) (within_refl s) p num (by simp) (by simp) (by simp) (by simp)).stw.resolve_left
      (by simp))

theorem State.deactivateAll_steady (s : State) (p : Fin 32) : (s.deactivateAll p).Steady s :=
  .of_regs (s.deactivateAll_aside p).bootRegs
    ((State.deactivateAll_within (K := (· ∈ [.words, .act, .twn])) (within_refl s) p (by simp) (by simp) (by simp)).stw.resolve_left (by simp))

theorem State.takeSlots_steady (s : State) (p : Fin 32) : (s.takeSlots p).Steady s := by
  unfold State.takeSlots
  extract_lets s1
  have h1 : s1.Steady s := .foldl (fun t sd => .of_within (State.setPlq_within (within_refl t) p sd _ (by simp) (by simp))) _ s
  refine State.Steady.trans (.foldl (fun t i => ?_) _ s1) h1
  split
  · exact State.freeSlot_steady ..
  · exact State.freeSlot_steady ..
  · split
    · exact State.setSlot_steady ..
    · exact .refl t
  · exact .refl t

theorem State.reactivate_steady (s : State) (p : Fin 32) : (s.reactivate p).Steady s := by
  unfold State.reactivate
  extract_lets s1
  have h1 : s1.Steady s := .foldl (fun t i => by
    split
    · exact State.freeSlot_steady ..
    · exact .refl t) _ s
  exact (State.enterRamp_steady ..).trans ((State.deactivateAll_steady ..).trans h1)

theorem State.takeoverUsage_steady (s : State) : s.takeoverUsage.Steady s :=
  .of_within (State.takeoverUsage_within (within_refl s) (by simp) (by simp))

theorem State.noteTakeover_steady (s : State) (num : Nat) (cold : Bool) (trees : List (Fin 32)) : (s.noteTakeover num cold trees).Steady s := by
  have hput (t : State) {a : Nat} (ha : a < 0x40000 ∨ 0x40028 ≤ a) (v : Word) : (t.putWord a v).Steady t := .of_regs (t.putWord_bootRegs ha v) rfl
  unfold State.noteTakeover
  extract_lets c s1
  have h1 : s1.Steady s := (hput _ (by decide) _).trans ((hput _ (by decide) _).trans ((hput _ (by decide) _).trans (hput s (by decide) _)))
  exact (State.raise_steady ..).trans ((State.inc_steady ..).trans h1)

theorem State.takeWarm_steady (s : State) (num : Nat) (trees : List (Fin 32)) : (s.takeWarm num trees).Steady s := by
  unfold State.takeWarm
  split
  · exact .refl s
  · refine (State.noteTakeover_steady ..).trans ((State.takeoverUsage_steady _).trans (.foldl (fun t p => ?_) _ s))
    have htaken := ((t.takeTree p num).takeSlots_steady p).trans (t.takeTree_steady p num)
    dsimp only
    split
    · exact (State.reactivate_steady ..).trans htaken
    · exact htaken

theorem State.takeCold1_steady (s : State) (p : Fin 32) (num : Nat) : (s.takeCold1 p num).Steady s := by
  unfold State.takeCold1
  extract_lets valid port s1 s2 s3
  have h1 : s1.Steady s := by
    dsimp only [s1]
    split
    · exact .refl s
    · exact ⟨.of_words rfl, rfl⟩
  have h3 : s3.Steady s2 := .foldl (fun t i => by
    split
    · exact .refl t
    · exact State.freeSlot_steady ..) _ s2
  exact (State.enterRamp_steady ..).trans ((State.deactivateAll_steady ..).trans (h3.trans ((State.takeTree_steady ..).trans h1)))

theorem State.takeCold_steady (s : State) (num : Nat) (trees : List (Fin 32)) : (s.takeCold num trees).Steady s := by
  unfold State.takeCold
  split
  · exact .refl s
  · exact (State.noteTakeover_steady ..).trans ((State.takeoverUsage_steady _).trans (.foldl (fun t p => t.takeCold1_steady p num) _ s))

theorem State.twnDone_steady (s : State) (code : Nat) : (s.twnDone code).Steady s := by
  have hwr (t : State) {f : Fld} (hf : f.addr < 0x40000 ∨ 0x40028 ≤ f.addr) (v : Nat) : (t.wr f v).Steady t := .of_regs (t.wr_bootRegs hf v) rfl
  unfold State.twnDone
  refine State.Steady.trans (.of_within (State.msi_within (within_refl _) 0 3 (by simp))) ?_
  exact (hwr _ (f := Reg.TWN_CMD_STATUS.CODE) (by decide) _).trans
    ((hwr _ (f := Reg.TWN_CMD_STATUS.BUSY) (by decide) _).trans ⟨.of_words rfl, rfl⟩)

theorem State.takeCmd_steady (s : State) (force : Bool) : (s.takeCmd force).Steady s := by
  unfold State.takeCmd
  extract_lets l theirs free s1 twn s2
  have h1 : s1.Steady s := by
    dsimp only [s1]
    split
    · exact (State.takeCold_steady ..).trans (State.takeWarm_steady ..)
    · exact .refl s
  split
  · exact s.twnDone_steady 2
  · split
    · exact (State.twnDone_steady ..).trans (State.inc_steady ..)
    · split
      · exact s.twnDone_steady 2
      · split
        · exact s.twnDone_steady 1
        · split
          · exact (State.twnDone_steady ..).trans h1
          · refine State.Steady.trans (.of_within (State.twinSend_within (within_refl _) 11 0xFF 0xFF 0 _ (by simp))) ?_
            exact State.Steady.trans (.of_regs (State.wr_bootRegs s2 (f := Reg.TWN_CMD_STATUS.BUSY) (by decide) 1) rfl)
              ⟨h1.regs.congr rfl, h1.paused⟩

theorem State.coverBack_steady (s : State) : s.coverBack.Steady s := by
  unfold State.coverBack
  extract_lets l twn s1
  have h1 : s1.Steady s := ⟨.of_words rfl, rfl⟩
  split
  · exact .refl s
  · exact (State.takeCmd_steady ..).trans ((State.Steady.of_regs (s1.wr_bootRegs (f := Reg.TWN_CMD_TREES.TREES) (by decide) _) rfl).trans h1)

end Sys2Proof.Machine

/-! Boot commands and the Steward's firmware (16_startup_and_live_update.md R525 to R533). -/

namespace Sys2Proof.Machine

set_option autoImplicit false

/-! The flash. -/

/-- Bytes set one after the other from a base on. -/
theorem get_putBytes (base n a : Nat) (f : Nat → Byte) (t : Tab Byte) :
    Tab.get flashErased ((List.range n).foldl (fun t i => Tab.set flashErased t (base + i) (f i)) t) a =
      if base ≤ a ∧ a < base + n then f (a - base) else Tab.get flashErased t a := by
  induction n with
  | zero => exact (if_neg (by omega)).symm
  | succ n ih =>
    rw [List.range_succ, List.foldl_append, List.foldl_cons, List.foldl_nil, Tab.get_set, ih]
    by_cases ha : a = base + n
    · rw [if_pos ha, if_pos (by omega), ha, Nat.add_sub_cancel_left]
    · rw [if_neg ha]
      by_cases hin : base ≤ a ∧ a < base + n
      · rw [if_pos hin, if_pos (by omega)]
      · rw [if_neg hin, if_neg (by omega)]

/-- A sector put holds its bytes, and every other keeps its own. -/
theorem State.flashByte_putSector (s : State) (n : Nat) (f : Nat → Byte) (a : Nat) : (s.putSector n f).flashByte a =
    if n * 4096 ≤ a ∧ a < n * 4096 + 4096 then f (a - n * 4096) else s.flashByte a := by
  unfold State.flashByte State.putSector
  dsimp only
  rw [get_putBytes]

theorem State.flashByte_congr {t s : State} (h : t.boot = s.boot) (a : Nat) : t.flashByte a = s.flashByte a := by
  unfold State.flashByte
  rw [h]

/-- A sector that is not in use is written, with or without an error, and no other is. -/
theorem State.flashCmd_free {s : State} {n : Nat} (hin : sectorIn n = true) (hfree : s.sectorUsed n = false) (err : Bool) (f : Nat → Byte) :
    (s.flashCmd n err f).rd Reg.BOOT_STATUS.CODE = 0 ∧
      (∀ a, a < n * 4096 ∨ (n + 1) * 4096 ≤ a → (s.flashCmd n err f).flashByte a = s.flashByte a) ∧
      (err = false → ∀ i, i < 4096 → (s.flashCmd n err f).flashByte (n * 4096 + i) = f i) := by
  unfold State.flashCmd
  rw [if_neg (by simp [hin]), if_neg (by simp [hfree])]
  cases err with
  | true =>
    refine ⟨State.bootDone_code _ (by decide), fun a ha => ?_, nofun⟩
    rw [if_pos rfl, State.flashByte_congr (State.bootDone_boot ..)]
    exact (State.flashByte_putSector ..).trans (if_neg (by omega))
  | false =>
    refine ⟨State.bootDone_code _ (by decide), fun a ha => ?_, fun _ i hi => ?_⟩
    · rw [if_neg Bool.false_ne_true, State.flashByte_congr (State.bootDone_boot ..), State.flashByte_putSector, if_neg (by omega)]
    · rw [if_neg Bool.false_ne_true, State.flashByte_congr (State.bootDone_boot ..), State.flashByte_putSector, if_pos (by omega),
        Nat.add_sub_cancel_left]

/-! Boot commands. -/

theorem fldOf_withCmd (v : Word) {c : Nat} (hc : c < 16) : fldOf (withCmd v c) Reg.BOOT_CMD.OP = c := by
  simp only [fldOf, withCmd, BitVec.toNat_ofNat]
  omega

section
variable {s : State} {ag : Agent} (hr : s.reaches ag Reg.BOOT_CMD.addr = true) (hf : s.boot.fetching = none)
include hr hf

theorem exec_hostImage (v : Word) : exec (.hostImage ag v) s = .next (if s.stage ≠ 1 then (s.hostTlp false ag Reg.BOOT_CMD.addr).bootDone 1
    else (({ s.hostTlp false ag Reg.BOOT_CMD.addr with boot := { s.boot with todo := [2] } } : State).wr Reg.BOOT_STATUS.CODE 0).nextBank) := by
  change Host.Outcome.next (s.bootCmd ag (withCmd v 1) false) = _
  have hboot : (s.hostTlp false ag Reg.BOOT_CMD.addr).boot = s.boot := by simp
  have hstage : (s.hostTlp false ag Reg.BOOT_CMD.addr).stage = s.stage := State.hostTlp_rd ..
  unfold State.bootCmd
  rw [State.gate_reaches hr]
  simp only [fldOf_withCmd v (c := 1) (by decide), hboot, hf, hstage]
  rfl

theorem exec_svnCommit (v : Word) (hst : s.stage = 3) : exec (.svnCommit ag v) s =
    .next (((s.hostTlp false ag Reg.BOOT_CMD.addr).wr Reg.BOOT_IMAGE.FLOOR (max (s.rd Reg.BOOT_IMAGE.FLOOR) (s.rd Reg.BOOT_IMAGE.SVN))).bootDone 0) := by
  change Host.Outcome.next (s.bootCmd ag (withCmd v 2) false) = _
  have hboot : (s.hostTlp false ag Reg.BOOT_CMD.addr).boot = s.boot := by simp
  have hstage : (s.hostTlp false ag Reg.BOOT_CMD.addr).stage = 3 := (State.hostTlp_rd ..).trans hst
  unfold State.bootCmd
  rw [State.gate_reaches hr]
  simp only [fldOf_withCmd v (c := 2) (by decide), hboot, hf, hstage, State.hostTlp_rd]
  rfl

theorem exec_flashErase (v : Word) (err : Bool) : exec (.flashErase ag v err) s =
    .next ((s.hostTlp false ag Reg.BOOT_CMD.addr).flashCmd (fldOf (withCmd v 3) Reg.BOOT_CMD.SECTOR) err (fun _ => 0xFF#8)) := by
  change Host.Outcome.next (s.bootCmd ag (withCmd v 3) err) = _
  have hboot : (s.hostTlp false ag Reg.BOOT_CMD.addr).boot = s.boot := by simp
  unfold State.bootCmd
  rw [State.gate_reaches hr]
  simp only [fldOf_withCmd v (c := 3) (by decide), hboot, hf]
  rfl

theorem exec_flashProgram (v : Word) (err : Bool) : exec (.flashProgram ag v err) s =
    .next ((s.hostTlp false ag Reg.BOOT_CMD.addr).flashCmd (fldOf (withCmd v 4) Reg.BOOT_CMD.SECTOR) err (fun i => s.programByte i)) := by
  change Host.Outcome.next (s.bootCmd ag (withCmd v 4) err) = _
  have hboot : (s.hostTlp false ag Reg.BOOT_CMD.addr).boot = s.boot := by simp
  have hbit : (s.hostTlp false ag Reg.BOOT_CMD.addr).bit Reg.CPG_CTRL.EN = s.bit Reg.CPG_CTRL.EN := State.bit_congr (State.hostTlp_words ..) _
  have hbyte (i : Nat) : (s.hostTlp false ag Reg.BOOT_CMD.addr).programByte i = s.programByte i := by simp only [State.programByte, hboot, hbit]
  unfold State.bootCmd
  rw [State.gate_reaches hr]
  simp only [fldOf_withCmd v (c := 4) (by decide), hboot, hf, hbyte]
  rfl

end

theorem State.sectorUsed_hostTlp (s : State) (ag : Agent) (a n : Nat) : (s.hostTlp false ag a).sectorUsed n = s.sectorUsed n := by
  have hboot : (s.hostTlp false ag a).boot = s.boot := by simp
  simp only [State.sectorUsed, State.hostTlp_rd, hboot]

/-- The floor committed. -/
theorem State.svnCommitted (s : State) : let t := (s.wr Reg.BOOT_IMAGE.FLOOR (max (s.rd Reg.BOOT_IMAGE.FLOOR) (s.rd Reg.BOOT_IMAGE.SVN))).bootDone 0
    t.rd Reg.BOOT_IMAGE.FLOOR = max (s.rd Reg.BOOT_IMAGE.FLOOR) (s.rd Reg.BOOT_IMAGE.SVN) ∧ t.rd Reg.BOOT_STATUS.CODE = 0 := by
  have hfloor : s.rd Reg.BOOT_IMAGE.FLOOR < 2 ^ 8 := Nat.mod_lt _ (by decide)
  have hsvn : s.rd Reg.BOOT_IMAGE.SVN < 2 ^ 8 := Nat.mod_lt _ (by decide)
  refine ⟨?_, State.bootDone_code _ (by decide)⟩
  rw [State.bootDone_rd _ _ (by decide) (by decide), State.rd_wr _ _ _ (by decide)]
  exact Nat.mod_eq_of_lt (max_lt hfloor hsvn)

/-! The Steward's firmware. -/

/-- The validation of a blob leaves its result, and the bank that runs. -/
theorem State.fwValidate_facts (s : State) (bad : Option Nat) : (s.fwValidate bad).rd Reg.STW_FW_STATUS.RESULT = (if bad.isSome = true then 3 else 2) ∧
    (s.fwValidate bad).rd Reg.STW_FW_STATUS.RUNNING = s.rd Reg.STW_FW_STATUS.RUNNING := by
  cases bad with
  | none => exact ⟨State.rd_wr _ _ _ (by decide), State.rd_wr_bits _ _ _ _ (by decide) (by decide) (by decide)⟩
  | some r => exact ⟨State.rd_wr s Reg.STW_FW_STATUS.RESULT 3 (by decide),
      State.rd_wr_bits s Reg.STW_FW_STATUS.RESULT Reg.STW_FW_STATUS.RUNNING 3 (by decide) (by decide) (by decide)⟩

/-- Hunts over, the registers and start-up as they were. -/
theorem State.huntsOver_kept (s : State) : ∃ act : Act,
    ports.foldl (fun s p => s.setTreeSt p { s.tree p with hunt := none }) s = { s with act := act } :=
  List.foldlRecOn (motive := fun t : State => ∃ act : Act, t = { s with act := act }) _ _ ⟨s.act, rfl⟩ fun t ht p _ => by
    obtain ⟨act, rfl⟩ := ht
    exact ⟨_, rfl⟩

/-- The cores stopped. -/
def State.coresStopped (s : State) : State :=
  { s with stw := { s.stw with paused := true }, boot := { s.boot with fwOther := s.bit Reg.STW_FW_STATUS.READY, wdogs := [] } }

/-- The other bank noted as the one that runs, neither ready nor validated. -/
def State.bankTurned (s : State) : State :=
  ((s.wr Reg.STW_FW_STATUS.RUNNING (1 - s.rd Reg.STW_FW_STATUS.RUNNING)).wr Reg.STW_FW_STATUS.READY 0).wr Reg.STW_FW_STATUS.RESULT 0

theorem State.fwStart_eq (s : State) : ∃ act : Act, s.fwStart = State.bankTurned { s.coresStopped with act := act } := by
  obtain ⟨act, hact⟩ := s.coresStopped.huntsOver_kept
  exact ⟨act, congrArg State.bankTurned hact⟩

theorem State.bankTurned_rd (s : State) : s.bankTurned.rd Reg.STW_FW_STATUS.RUNNING = 1 - s.rd Reg.STW_FW_STATUS.RUNNING ∧
    s.bankTurned.rd Reg.STW_FW_STATUS.READY = 0 ∧ s.bankTurned.rd Reg.STW_FW_STATUS.RESULT = 0 := by
  unfold State.bankTurned
  refine ⟨?_, ?_, State.rd_wr _ _ 0 (by decide)⟩
  · rw [State.rd_wr_bits _ _ _ _ (by decide) (by decide) (by decide), State.rd_wr_bits _ _ _ _ (by decide) (by decide) (by decide),
      State.rd_wr _ _ _ (by decide)]
    exact Nat.mod_eq_of_lt (Nat.lt_of_le_of_lt (Nat.sub_le ..) (by decide))
  · rw [State.rd_wr_bits _ _ _ _ (by decide) (by decide) (by decide), State.rd_wr _ _ _ (by decide), Nat.zero_mod]

/-- The other bank starts: it runs, it is not ready, nothing is validated, the Steward is paused. -/
theorem State.fwStart_facts (s : State) : s.fwStart.rd Reg.STW_FW_STATUS.RUNNING = 1 - s.rd Reg.STW_FW_STATUS.RUNNING ∧
    s.fwStart.stw.paused = true ∧ s.fwStart.bit Reg.STW_FW_STATUS.READY = false ∧ s.fwStart.rd Reg.STW_FW_STATUS.RESULT = 0 ∧
    s.fwStart.now = s.now ∧ s.fwStart.ctrs = s.ctrs := by
  obtain ⟨act, hact⟩ := s.fwStart_eq
  obtain ⟨hrun, hready, hresult⟩ := State.bankTurned_rd { s.coresStopped with act := act }
  rw [hact]
  exact ⟨hrun, rfl, congrArg (· != 0) hready, hresult, rfl, rfl⟩

/-- The trees given away as the bank is switched, with COVER. -/
def State.coverTrees (s : State) : List (Fin 32) :=
  if s.bit Reg.STW_FW_CTRL.COVER && s.bit Reg.TWN_CFG.EN then ports.filter (fun p => s.owned p.val && s.hbBit Hb.ready p) else []

/-- Those trees released, to be taken back. -/
def State.coverGiven (s : State) : State :=
  { s.release 5 s.coverTrees false with twn := { (s.release 5 s.coverTrees false).twn with cover := (s.release 5 s.coverTrees false).twn.cover ++ s.coverTrees } }

/-- The time of the switch noted. -/
def State.switchNoted (s : State) : State := { s with boot := { s.boot with fwSwitch := some s.now } }

theorem State.switchNoted_facts (s : State) :
    s.switchNoted.words = s.words ∧ s.switchNoted.stw = s.stw ∧ s.switchNoted.boot.fwSwitch = some s.now := ⟨rfl, rfl, rfl⟩

theorem State.fwSwitch_eq {s : State} (h : s.rd Reg.STW_FW_STATUS.RESULT = 2) : s.fwSwitch = s.coverGiven.fwStart.switchNoted :=
  if_neg (by simp [h])

theorem State.coverGiven_kept (s : State) : s.coverGiven.words = s.words ∧ s.coverGiven.now = s.now := by
  have h : (s.release 5 s.coverTrees false).words = s.words ∧ (s.release 5 s.coverTrees false).now = s.now := by simp
  exact h

/-- A switch to a blob found good. -/
theorem State.fwSwitch_facts {s : State} (h : s.rd Reg.STW_FW_STATUS.RESULT = 2) :
    s.fwSwitch.rd Reg.STW_FW_STATUS.RUNNING = 1 - s.rd Reg.STW_FW_STATUS.RUNNING ∧ s.fwSwitch.stw.paused = true ∧
    s.fwSwitch.bit Reg.STW_FW_STATUS.READY = false ∧ s.fwSwitch.rd Reg.STW_FW_STATUS.RESULT = 0 ∧ s.fwSwitch.boot.fwSwitch = some s.now := by
  obtain ⟨hwords, hnow⟩ := s.coverGiven_kept
  obtain ⟨hrun, hpaused, hready, hresult, hnow', -⟩ := s.coverGiven.fwStart_facts
  obtain ⟨hkept, hstw, hat⟩ := s.coverGiven.fwStart.switchNoted_facts
  rw [State.fwSwitch_eq h]
  exact ⟨(State.rd_congr hkept _).trans (hrun.trans (congrArg (1 - ·) (State.rd_congr hwords _))), (congrArg Stw.paused hstw).trans hpaused,
    (State.bit_congr hkept _).trans hready, (State.rd_congr hkept _).trans hresult, hat.trans (congrArg some (hnow'.trans hnow))⟩

/-- A field of one bit is that bit of the word. -/
theorem fldOf_bit (v : Word) (addr lo : Nat) : fldOf v ⟨addr, lo, 1⟩ = (v.getLsbD lo).toNat := (Nat.toNat_testBit v.toNat lo).symm

/-- A write of STW_FW_CTRL leaves STW_FW_STATUS as it was. -/
theorem State.rd_status_stored (s : State) (ag : Agent) (v : Word) {f : Fld} (hf : f.addr = Reg.STW_FW_STATUS.addr) :
    ((s.hostTlp false ag Reg.STW_FW_CTRL.addr).storeWord ag Reg.STW_FW_CTRL.addr v).rd f = s.rd f :=
  (State.rd_congr_word (State.word_storeWord_other _ ag v (hf ▸ by decide) (hf ▸ by unfold NotDenied; decide))).trans (State.hostTlp_rd ..)

section
variable {s : State} {ag : Agent} (hr : s.reaches ag Reg.STW_FW_CTRL.addr = true)
include hr

theorem exec_stwFwValidate (v : Word) (hsw : fldOf (v ||| 0x80000000#32) Reg.STW_FW_CTRL.SWITCH = 0) (b : Option (Fin 10)) :
    exec (.stwFwValidate ag v b) s = .next (((s.hostTlp false ag Reg.STW_FW_CTRL.addr).storeWord ag Reg.STW_FW_CTRL.addr (v ||| 0x80000000#32)).fwValidate
      (b.map (·.val))) := by
  have hval : fldOf (v ||| 0x80000000#32) Reg.STW_FW_CTRL.VALIDATE = 1 := by
    simp [fldOf_bit]
  change Host.Outcome.next (s.fwCtrl ag (v ||| 0x80000000#32) (b.map (·.val))) = _
  unfold State.fwCtrl
  rw [State.gate_reaches hr, hval, hsw]
  rfl

theorem exec_stwFwSwitch (v : Word) : exec (.stwFwSwitch ag v) s =
    .next (((s.hostTlp false ag Reg.STW_FW_CTRL.addr).storeWord ag Reg.STW_FW_CTRL.addr ((v ||| 0x40000000#32) &&& 0x7FFFFFFF#32)).fwSwitch) := by
  have hval : fldOf ((v ||| 0x40000000#32) &&& 0x7FFFFFFF#32) Reg.STW_FW_CTRL.VALIDATE = 0 := by
    simp [fldOf_bit]
  have hsw : fldOf ((v ||| 0x40000000#32) &&& 0x7FFFFFFF#32) Reg.STW_FW_CTRL.SWITCH = 1 := by
    simp [fldOf_bit]
  change Host.Outcome.next (s.fwCtrl ag ((v ||| 0x40000000#32) &&& 0x7FFFFFFF#32) none) = _
  unfold State.fwCtrl
  rw [State.gate_reaches hr, hval, hsw]
  rfl

end

/-- The Steward runs again. -/
def State.fwUp (s : State) : State :=
  ({ s with stw := { s.stw with paused := false, rtWait := [], inbox := [] } } : State).wr Reg.STW_FW_STATUS.READY 1

/-- What waited for the Steward served: ranging times, messages, and the command of each tree. -/
def State.waitServed (s : State) (wait : List Nat) (inbox : List StwMsg) : State :=
  ports.foldl (fun s p => match (s.tree p).cmd with
    | some c => (s.setTreeSt p { s.tree p with cmd := none }).actCmd p c.1 c.2
    | none => s) (inbox.foldl State.takeMsg (wait.foldl (fun s k =>
      let p : Fin 32 := Fin.ofNat 32 (k / 256)
      let x := s.slot p (k % 256)
      if x.state.inService && s.owned p.val then s.sendRangingTime p x.side (k % 256) (x.newEqd.getD x.eqd) else s) s))

theorem State.waitServed_steady (s : State) (wait : List Nat) (inbox : List StwMsg) : (s.waitServed wait inbox).Steady s := by
  refine State.Steady.trans (.foldl (fun t p => ?_) _ _) (State.Steady.trans (.foldl State.takeMsg_steady _ _) (.foldl (fun t k => ?_) _ _))
  · split
    · exact (State.actCmd_steady ..).trans ⟨.of_words rfl, rfl⟩
    · exact .refl t
  · dsimp only
    split
    · exact State.sendRangingTime_steady ..
    · exact .refl t

theorem exec_stwFwReady {s : State} (h : s.bit Reg.STW_FW_STATUS.READY = false ∨ s.stw.paused = true) :
    exec .stwFwReady s = .next (s.fwUp.waitServed s.stw.rtWait s.stw.inbox).coverBack :=
  congrArg Host.Outcome.next (if_neg (by rcases h with h | h <;> simp [h]))

/-- Serving what waited leaves the Steward running. -/
theorem State.fwReady_facts (s : State) (wait : List Nat) (inbox : List StwMsg) :
    (s.fwUp.waitServed wait inbox).coverBack.bit Reg.STW_FW_STATUS.READY = true ∧
      (s.fwUp.waitServed wait inbox).coverBack.stw.paused = false := by
  obtain ⟨hregs, hpaused⟩ := (State.coverBack_steady _).trans (s.fwUp.waitServed_steady wait inbox)
  exact ⟨(hregs.bit (by decide) (by decide)).trans (State.bit_wr _ Reg.STW_FW_STATUS.READY 1 (by decide)), hpaused⟩

/-- The switch given up and counted, as the firmware reports it. -/
def State.switchGivenUp (s : State) : State :=
  (({ s with boot := { s.boot with fwSwitch := none } } : State).inc Cnt.BOOT_STW_RESTARTS).raise .STW_FW_FALLBACK srcBoot
    (s.rd Reg.STW_FW_STATUS.RUNNING)

theorem State.switchGivenUp_facts (s : State) : s.switchGivenUp.words = s.words ∧ s.switchGivenUp.boot.fwSwitch = none ∧
    s.switchGivenUp.ctr Cnt.BOOT_STW_RESTARTS = (s.ctr Cnt.BOOT_STW_RESTARTS).add 1 :=
  ⟨(State.raise_words ..).trans (State.inc_words ..), congrArg Boot.fwSwitch ((State.raise_boot ..).trans (State.inc_boot ..)),
    (State.ctr_congr (State.raise_ctrs ..) _).trans ((State.ctr_inc ..).trans (if_pos rfl))⟩

theorem State.fwFallback_facts (s : State) : s.fwFallback.rd Reg.STW_FW_STATUS.RUNNING = 1 - s.rd Reg.STW_FW_STATUS.RUNNING ∧
    s.fwFallback.boot.fwSwitch = none ∧ s.fwFallback.ctr Cnt.BOOT_STW_RESTARTS = (s.ctr Cnt.BOOT_STW_RESTARTS).add 1 := by
  obtain ⟨hrun, -, -, -, -, hctrs⟩ := s.fwStart_facts
  obtain ⟨hwords, hsw, hctr⟩ := s.fwStart.switchGivenUp_facts
  have heq : s.fwFallback = s.fwStart.switchGivenUp := rfl
  rw [heq]
  exact ⟨(State.rd_congr hwords _).trans hrun, hsw, hctr.trans (congrArg (Ctr.add · 1) (State.ctr_congr hctrs _))⟩

/-- Settles O49: a boot command ends with its code, a sector in use stands, and the Steward runs again once its firmware is ready. -/
theorem bootAndFirmwareCommands : Obligations.BootAndFirmwareCommands := by
  unfold Obligations.BootAndFirmwareCommands
  refine ⟨?_, ?_, ?_, ?_, ?_, ?_, ?_, ?_, ?_, ?_, ?_, ?_, ?_, ?_, ?_⟩
  · intro ag v s hr hf hst
    exact ⟨_, exec_hostImage hr hf v, by rw [if_neg (by simp [hst])]; exact State.nextBank_cons rfl⟩
  · intro ag v s hr hf hst
    refine ⟨_, exec_hostImage hr hf v, ?_⟩
    rw [if_pos hst]
    exact ⟨State.bootDone_code _ (by decide), (State.bootDone_boot ..).trans (by simp)⟩
  · intro ag v s hr hf hst
    refine ⟨_, exec_svnCommit hr hf v hst, ?_⟩
    have h := (s.hostTlp false ag Reg.BOOT_CMD.addr).svnCommitted
    simpa only [State.hostTlp_rd] using h
  · intro ag v e n s hr hf hn hin hfree
    have hfree' : (s.hostTlp false ag Reg.BOOT_CMD.addr).sectorUsed n = false := (State.sectorUsed_hostTlp ..).trans hfree
    have hkeep (a : Nat) := State.flashByte_congr (t := s.hostTlp false ag Reg.BOOT_CMD.addr) (s := s) (by simp) a
    have hcode (err : Bool) := State.flashCmd_free hin hfree' err (fun _ => 0xFF#8)
    refine ⟨⟨_, exec_flashErase hr hf v false, ?_⟩, ⟨_, exec_flashErase hr hf v e, ?_⟩⟩
    · rw [← hn]
      obtain ⟨hdone, hother, hbytes⟩ := hcode false
      exact ⟨hbytes rfl, hdone, fun a ha => (hother a ha).trans (hkeep a)⟩
    · rw [← hn]
      obtain ⟨hdone, hother, -⟩ := hcode e
      exact ⟨hdone, fun a ha => (hother a ha).trans (hkeep a)⟩
  · intro ag v e n s hr hf hn hin hused
    refine ⟨_, exec_flashProgram hr hf v e, ?_⟩
    rw [← hn, State.flashCmd, if_neg (by simp [hin]), if_pos (by rw [State.sectorUsed_hostTlp, hused])]
    exact ⟨(State.bootDone_boot ..).trans (by simp), State.bootDone_code _ (by decide)⟩
  · intro ag v n s hr hf hn hin hfree
    refine ⟨_, exec_flashProgram hr hf v false, ?_⟩
    rw [← hn]
    exact (State.flashCmd_free hin ((State.sectorUsed_hostTlp ..).trans hfree) false _).2.2 rfl
  · intro p i g s h
    refine congrArg Host.Outcome.next ?_
    cases hown : s.owned p.val with
    | false => rfl
    | true =>
      obtain ⟨hwait, hpaused⟩ := h.resolve_left (by simp [hown])
      exact (if_neg (by simp)).trans ((if_neg (by simp [hpaused])).trans (if_pos (by simp [hwait])))
  · intro p i g s hown hpaused
    exact congrArg Host.Outcome.next ((if_neg (by simp [hown])).trans (if_pos hpaused))
  · intro p i s hwait hstw
    obtain ⟨hown, hpaused⟩ : s.owned p.val = true ∧ s.stw.paused = false := by simpa [State.stewards] using hstw
    have hexec (g : Bool) : exec (.omciResponseRx p i g) s = .next (if g then s.nextOmci p i.val else s.templateFail p i.val) :=
      congrArg Host.Outcome.next ((if_neg (by simp [hown])).trans ((if_neg (by simp [hpaused])).trans (if_neg (by simp [hwait]))))
    exact ⟨hexec true, hexec false⟩
  · intro ag v b s hr hsw
    refine ⟨_, exec_stwFwValidate hr v hsw b, ?_⟩
    obtain ⟨hresult, hrun⟩ := State.fwValidate_facts ((s.hostTlp false ag Reg.STW_FW_CTRL.addr).storeWord ag Reg.STW_FW_CTRL.addr (v ||| 0x80000000#32))
      (b.map (·.val))
    exact ⟨by simpa using hresult, hrun.trans (s.rd_status_stored ag _ rfl)⟩
  · intro ag v s hr hresult
    refine ⟨_, exec_stwFwSwitch hr v, ?_⟩
    obtain ⟨hrun, hpaused, hready, hres, hsw⟩ := State.fwSwitch_facts ((s.rd_status_stored ag ((v ||| 0x40000000#32) &&& 0x7FFFFFFF#32) rfl).trans hresult)
    exact ⟨hrun.trans (congrArg (1 - ·) (s.rd_status_stored ag _ rfl)), hpaused, hready, hres, hsw.trans (by simp)⟩
  · intro s hready hpaused
    exact congrArg Host.Outcome.next (if_pos (by simp [hready, hpaused]))
  · exact fun s h => ⟨_, exec_stwFwReady h, s.fwReady_facts _ _⟩
  · intro n s hsw hready
    exact ⟨_, congrArg Host.Outcome.next (if_pos (by simp [hsw, hready])), s.fwFallback_facts⟩
  · intro s h
    exact congrArg Host.Outcome.next (if_neg (by rcases h with h | h <;> simp [h]))

end Sys2Proof.Machine

/-! SUPPORT. O50, HostPortAndRings (R553, R173): an exception whose reason goes to the Steward where no ring takes it. -/

namespace Sys2Proof.Machine

set_option autoImplicit false

/-- An exception of reason 1 on its way to the host. -/
def fallingBack : ExcOut := ⟨{ Desc.zero with reason := 1 }, false, []⟩

/-- A device at reset, its rings all disabled, but that reason 1 has DEST 3 (the host, and the Steward where no ring is enabled) and one
exception of it waits. -/
def excWithNoRing : State :=
  { State.reset.wr (Reg.SRT_EXC_CFG.DEST 1) 3 with fwd := { State.reset.fwd with toHost := [fallingBack] } }

/-- What the command counts of exceptions with no host to go to. -/
def noHostAfter (n : Nat) (s : State) : Prop := ∃ t, exec (.rxRingDeliver false 64#16) s = .next t ∧ (t.ctr Cnt.SRT_EXC_NO_HOST).count = n

/-- The exception goes to the Steward and is not counted as one that no ring took. -/
theorem noHostAfter_excWithNoRing : noHostAfter 0 excWithNoRing := ⟨_, rfl, by decide +kernel⟩

/-- Refutes O50: with DEST 3 an exception that finds its ring disabled goes to the Steward, and is neither dropped nor counted. -/
theorem not_hostPortAndRings : ¬ Obligations.HostPortAndRings := by
  unfold Obligations.HostPortAndRings
  rintro ⟨-, -, -, -, -, -, -, -, -, -, -, hdeliver, -⟩
  have hdrop := (hdeliver 64#16 fallingBack [] excWithNoRing rfl).1 (by decide +kernel)
  obtain ⟨t, ht, hcount⟩ := noHostAfter_excWithNoRing
  obtain rfl : _ = t := by simpa using hdrop.symm.trans ht
  exact absurd hcount (by decide +kernel)

end Sys2Proof.Machine

/-! Accesses of the host: registers, windows, locks and the ports of the VFs (00_scope.md R6; 17_host_interface_and_register_map.md R541 to
R548). -/

namespace Sys2Proof.Machine

set_option autoImplicit false

/-! A denied access, a write or a read. -/

/-- A denied read counts and records what a denied write does. -/
theorem State.denyAs_eq_deny (s : State) (rd : Bool) (ag : Agent) (r : Deny) (addr win : Nat) :
    (s.denyAs rd ag r addr win).words = (s.deny ag r addr win).words ∧ (s.denyAs rd ag r addr win).ctrs = (s.deny ag r addr win).ctrs := by
  have hw (x y : PrivAcc) : ((s.inc Cnt.HST_DENIED).priv 0x202 ag.code 1 x).words = ((s.inc Cnt.HST_DENIED).priv 0x202 ag.code 1 y).words := by simp
  constructor
  · rw [State.deny, State.denyAs, State.denyAs, State.raiseLimited_words, State.raiseLimited_words, apply_ite State.words, apply_ite State.words]
    simp only [State.putWord, State.bit_congr (hw _ ⟨ag.code, ag.master, 0, 2, addr⟩), hw _ ⟨ag.code, ag.master, 0, 2, addr⟩]
  · rw [State.deny, State.denyAs, State.denyAs, State.raiseLimited_ctrs, State.raiseLimited_ctrs, apply_ite State.ctrs, apply_ite State.ctrs]
    simp only [State.putWord_ctrs, State.priv_parts, ite_self]

theorem State.ctr_denyAs (s : State) (rd : Bool) (ag : Agent) (r : Deny) (addr win : Nat) :
    (s.denyAs rd ag r addr win).ctr Cnt.HST_DENIED = (s.ctr Cnt.HST_DENIED).add 1 :=
  (State.ctr_congr (State.denyAs_eq_deny ..).2 _).trans ((State.ctr_deny ..).trans (if_pos rfl))

theorem State.word_denyAs (s : State) (rd : Bool) (ag : Agent) (r : Deny) (addr win : Nat) {b : Nat} (hb : NotDenied b) :
    (s.denyAs rd ag r addr win).word b = s.word b :=
  (State.word_congr (State.denyAs_eq_deny ..).1 b).trans (State.word_deny_of_notDenied hb ..)

/-! Registers of BAR0. -/

theorem exec_regWrite_pf {ag : Agent} (hag : ∀ n, ag ≠ .vf n) (s : State) (off : Nat) (v : Word) : s.regWrite ag .regs off v = s.pfWrite ag off v := by
  cases ag with
  | vf n => exact absurd rfl (hag n)
  | pf | steward | image => rfl

theorem exec_regRead_pf {ag : Agent} (hag : ∀ n, ag ≠ .vf n) (s : State) (off : Nat) : s.regRead ag .regs off = s.pfRead ag off := by
  cases ag with
  | vf n => exact absurd rfl (hag n)
  | pf | steward | image => rfl

section
variable {a : Nat} (hwin : inHostWin a = false) (hport : portAt a = none)
include hwin hport

/-- A write of an address that nothing occupies. -/
theorem State.pfWrite_unoccupied (hocc : occupied a = false) (s : State) (ag : Agent) (v : Word) :
    s.pfWrite ag a v = (s.hostTlp false ag a).deny ag .badAddr a noWin := by
  obtain ⟨hreg, hctr⟩ : regAt a = none ∧ ctrAt a = none := by simpa [occupied] using hocc
  unfold State.pfWrite
  rw [hwin, hport, hctr, hreg]
  rfl

/-- A read of an address beside those whose read takes something. -/
theorem State.pfRead_plain (hq : a ≠ Reg.FLT_QUEUE_W0.addr) (hrx : a ≠ Reg.HRL_TS_RX_W0.addr) (htx : a ≠ Reg.HRL_TS_TX_W0.addr) (s : State) (ag : Agent) :
    s.pfRead ag a = if occupied a then (s.hostTlp true ag a).readWord ag a
      else ((s.hostTlp true ag a).denyAs true ag .badAddr a noWin).answer ag 0#32 := by
  unfold State.pfRead
  rw [hwin, hport]
  dsimp only
  rw [if_neg Bool.false_ne_true, if_neg hq, if_neg hrx, if_neg htx]

end

/-- A VF's write beyond its rings and its port. -/
theorem State.vfWrite_beyond {off : Nat} (h : 0x2000 ≤ off) (s : State) (n : Fin 32) (v : Word) :
    s.vfWrite n off v = (s.hostTlp false (.vf n) off).deny (.vf n) (if off < 0x10000 then .badAddr else .scope) off noWin := by
  have hring : vfRing n off = false := by
    unfold vfRing
    rw [decide_eq_false (by omega), Bool.false_and]
  unfold State.vfWrite
  dsimp only
  rw [hring, if_neg Bool.false_ne_true, if_neg (by omega)]

theorem regAt_excStw : ∃ r n, regAt Reg.SRT_EXC_STW.addr = some (r, n) ∧ r.wo = 0#32 := ⟨_, _, rfl, rfl⟩

theorem State.view_excStw (s : State) : s.view Reg.SRT_EXC_STW.addr = s.word Reg.SRT_EXC_STW.addr := by
  obtain ⟨r, n, hreg, hwo⟩ := regAt_excStw
  obtain ⟨rows, hplace⟩ : ∃ rows, Sys2Proof.Machine.place Reg.SRT_EXC_STW.addr = some ⟨rows, .SRT, 0, 0x504⟩ := ⟨_, rfl⟩
  unfold State.view
  rw [hreg, hplace]
  dsimp only
  rw [hwo, BitVec.not_zero, BitVec.and_allOnes]
  rfl

/-- The Steward's total bucket for exceptions is a register that shows what it keeps. -/
theorem State.readWord_excStw (s : State) (ag : Agent) : s.readWord ag Reg.SRT_EXC_STW.addr = s.answer ag (s.word Reg.SRT_EXC_STW.addr) := by
  have hwide : wideAt Reg.SRT_EXC_STW.addr = none := by decide +kernel
  have hctr : ctrAt Reg.SRT_EXC_STW.addr = none := by decide +kernel
  have hinj : injBase Reg.SRT_EXC_STW.addr = none := by decide +kernel
  have hseen : (s.trapSeen Reg.SRT_EXC_STW.addr).injSeen Reg.SRT_EXC_STW.addr = s := by
    unfold State.injSeen State.trapSeen
    rw [hinj, if_neg (by decide)]
  unfold State.readWord
  rw [hseen, hwide]
  dsimp only
  rw [State.show, hctr, State.view_excStw]

/-! Window ports (R543 to R546). -/

/-- FIRST and COUNT of a command written with an OP. -/
theorem winFirst_withOp (v : Word) (op : Nat) : ((putField v 30 2 op).extractLsb' 8 5).toNat = winFirst v := by
  simp only [winFirst, BitVec.extractLsb'_toNat, Nat.shiftRight_eq_div_pow]
  exact field_putField_disjoint v 30 2 op 8 5 (by decide) (by decide) (by decide)

theorem winCount_withOp (v : Word) (op : Nat) : ((putField v 30 2 op).extractLsb' 0 6).toNat = winCount v := by
  simp only [winCount, BitVec.extractLsb'_toNat, Nat.shiftRight_eq_div_pow]
  exact field_putField_disjoint v 30 2 op 0 6 (by decide) (by decide) (by decide)

theorem extract_op (v : Word) {op : Nat} (h : op < 4) : ((putField v 30 2 op).extractLsb' 30 2).toNat = op := by
  simp only [BitVec.extractLsb'_toNat, Nat.shiftRight_eq_div_pow]
  exact (field_putField _ _ _ _ (by decide)).trans (Nat.mod_eq_of_lt h)

/-- Words put one after the other at keys that differ. -/
theorem State.word_putWordsAt {key : Nat → Nat} (hkey : ∀ i j, key i = key j → i = j) (xs : List Word) (k : Nat) (s : State) (j : Nat) :
    ((xs.zipIdx k).foldl (fun s (x : Word × Nat) => s.putWord (key x.2) x.1) s).word (key j) =
      if k ≤ j ∧ j < k + xs.length then xs.getD (j - k) 0#32 else s.word (key j) := by
  induction xs generalizing k s with
  | nil => exact (if_neg (by simp)).symm
  | cons x xs ih =>
    rw [List.zipIdx_cons, List.foldl_cons, ih]
    by_cases hin : k + 1 ≤ j ∧ j < k + 1 + xs.length
    · rw [if_pos hin, if_pos (by simp; omega), show j - k = j - (k + 1) + 1 by omega]
      rfl
    · rw [if_neg hin, State.word_putWord]
      by_cases hj : j = k
      · rw [hj, if_pos rfl, if_pos (by simp), Nat.sub_self]
        rfl
      · rw [if_neg (fun h => hj (hkey _ _ h)), if_neg (by simp; omega)]

/-- Words put leave the counters. -/
theorem State.putWordsAt_ctrs (key : Nat → Nat) (l : List (Word × Nat)) (s : State) :
    (l.foldl (fun s (x : Word × Nat) => s.putWord (key x.2) x.1) s).ctrs = s.ctrs :=
  foldl_reading State.ctrs _ _ _ fun _ _ _ => State.putWord_ctrs ..

/-- A port's own registers are none of the record of a denied access. -/
theorem portKey_notDenied (ag : Agent) (w off : Nat) : NotDenied (portKey ag w off) := by
  have hbase : 0x800000 ≤ portKey ag w off := by
    unfold portKey
    split <;> omega
  unfold NotDenied
  simp only [Reg.HST_DENIED_LAST_W0.addr, Reg.HST_DENIED_LAST_W1.addr, Reg.HST_DENIED_LAST_W2.addr]
  omega

theorem portKey_inj (ag : Agent) (w i j : Nat) (h : portKey ag w i = portKey ag w j) : i = j := by
  cases ag <;> simp only [portKey] at h <;> omega

/-- The end of an access writes its code, and beside it only the record of a denied access. -/
theorem State.word_winDone (s : State) (ag : Agent) (rd : Bool) (w idx : Nat) (c : WinCode) {b : Nat} (hb : NotDenied b) :
    (s.winDone ag rd w idx c).word b = if b = portKey ag w 8 then BitVec.ofNat 32 (c.num * 2 ^ 28) else s.word b := by
  unfold State.winDone
  extract_lets s1 s2
  have h1 : s1.word b = if b = portKey ag w 8 then BitVec.ofNat 32 (c.num * 2 ^ 28) else s.word b := State.word_putWord ..
  have h2 : s2.word b = s1.word b := by
    dsimp only [s2]
    split
    · rfl
    · exact State.word_denyAs _ _ _ _ _ _ hb
  have hend : (if ag = .pf then s2.msi 0 3 else s2).words = s2.words := by split <;> simp
  exact (State.word_congr hend b).trans (h2.trans h1)

/-- A code other than OK counts as a denied access. -/
theorem State.ctr_winDone (s : State) (ag : Agent) (rd : Bool) (w idx : Nat) (c : WinCode) : (s.winDone ag rd w idx c).ctr Cnt.HST_DENIED =
    if c = .ok then s.ctr Cnt.HST_DENIED else (s.ctr Cnt.HST_DENIED).add 1 := by
  unfold State.winDone
  extract_lets s1 s2
  have h1 : s1.ctr Cnt.HST_DENIED = s.ctr Cnt.HST_DENIED := State.ctr_congr (State.putWord_ctrs ..) _
  have hden (r : Deny) : (s1.denyAs rd ag r idx w).ctr Cnt.HST_DENIED = (s.ctr Cnt.HST_DENIED).add 1 := by rw [State.ctr_denyAs, h1]
  have hend : (if ag = .pf then s2.msi 0 3 else s2).ctrs = s2.ctrs := by split <;> simp
  rw [State.ctr_congr hend]
  cases c with
  | ok => exact h1
  | badIndex | refused | locked | readOnly | scope => exact hden _

section
variable {s : State} {ag : Agent} (hag : ∀ n, ag ≠ .vf n) {w idx : Nat}
include hag

/-- A read of an index outside the window's table. -/
theorem State.winCode_read_none (h : s.winShow w idx = none) (first count : Nat) : s.winCode ag w idx first count none = .badIndex := by
  unfold State.winCode
  rw [h]
  cases ag with
  | vf n => exact absurd rfl (hag n)
  | pf | steward | image => rfl

/-- A read of words that the entry has. -/
theorem State.winCode_read_some {l : List Word} (h : s.winShow w idx = some l) {first count : Nat} (hcount : count ≠ 0) (hfits : first + count ≤ l.length) :
    s.winCode ag w idx first count none = .ok := by
  unfold State.winCode
  rw [h]
  have hok : decide (count ≠ 0 ∧ first + count ≤ l.length) = true := decide_eq_true ⟨hcount, hfits⟩
  cases ag with
  | vf n => exact absurd rfl (hag n)
  | pf | steward | image => simp only [hok, if_true]

end

/-- A read that is refused leaves the port's data alone. -/
theorem State.winCmd_read_refused {s : State} {ag : Agent} {w : Nat} {v : Word} {c : WinCode} (hc : c ≠ .ok)
    (hcode : s.winCode ag w (s.word (portKey ag w 0)).toNat (winFirst v) (winCount v) none = c) :
    s.winCmd ag w (putField v 30 2 1) = s.winDone ag true w (s.word (portKey ag w 0)).toNat c := by
  unfold State.winCmd
  dsimp only
  rw [extract_op v (op := 1) (by decide), if_pos rfl, winFirst_withOp, winCount_withOp, hcode, if_neg hc]

/-- The entry's words in hand, put where the port shows its data. -/
def State.winTaken (s : State) (ag : Agent) (w idx first : Nat) (xs : List Word) : State :=
  (xs.zipIdx).foldl (fun s (x : Word × Nat) => s.putWord (portKey ag w (0x80 + 4 * (first + x.2))) x.1) (s.winSeen w idx)

theorem State.winCmd_read_ok {s : State} {ag : Agent} {w idx : Nat} {v : Word} {l : List Word} (hidx : idx = (s.word (portKey ag w 0)).toNat)
    (hl : s.winShow w idx = some l) (hcode : s.winCode ag w idx (winFirst v) (winCount v) none = .ok) :
    s.winCmd ag w (putField v 30 2 1) = (s.winTaken ag w idx (winFirst v) ((l.drop (winFirst v)).take (winCount v))).winDone ag true w idx .ok := by
  subst hidx
  unfold State.winCmd
  dsimp only
  rw [extract_op v (op := 1) (by decide), if_pos rfl, winFirst_withOp, winCount_withOp, hcode, if_pos rfl, hl]
  rfl

/-- The words a read has put. -/
theorem State.winTaken_facts (s : State) (ag : Agent) (w idx first : Nat) (xs : List Word) :
    (∀ j, j < xs.length → (s.winTaken ag w idx first xs).word (portKey ag w (0x80 + 4 * (first + j))) = xs.getD j 0#32) ∧
      (s.winTaken ag w idx first xs).ctrs = s.ctrs := by
  have hseen : (s.winSeen w idx).ctrs = s.ctrs := by
    unfold State.winSeen
    split <;> rfl
  have hkey (i j : Nat) (h : portKey ag w (0x80 + 4 * (first + i)) = portKey ag w (0x80 + 4 * (first + j))) : i = j := by
    have := portKey_inj ag w _ _ h
    omega
  refine ⟨fun j hj => ?_, ?_⟩
  · refine (State.word_putWordsAt (key := fun i => portKey ag w (0x80 + 4 * (first + i))) hkey xs 0 _ j).trans ?_
    rw [if_pos ⟨Nat.zero_le _, by omega⟩, Nat.sub_zero]
  · exact (State.putWordsAt_ctrs (fun i => portKey ag w (0x80 + 4 * (first + i))) _ _).trans hseen

theorem State.winCmd_write {s : State} {ag : Agent} {w idx : Nat} {v : Word} {ws : List Word} (hidx : idx = (s.word (portKey ag w 0)).toNat)
    (hws : ws = (List.range (winCount v)).map (fun j => s.word (portKey ag w (0x80 + 4 * (winFirst v + j))))) :
    s.winCmd ag w (putField v 30 2 2) = (if s.winCode ag w idx (winFirst v) (winCount v) (some ws) = .ok then s.winStore ag w idx (winFirst v) ws
      else s).winDone ag false w idx (s.winCode ag w idx (winFirst v) (winCount v) (some ws)) := by
  subst hidx hws
  unfold State.winCmd
  dsimp only
  rw [extract_op v (op := 2) (by decide), if_neg (by decide), if_pos rfl, winFirst_withOp, winCount_withOp]

/-- A write through a window by a VF is refused as one of a table that it may only read. -/
theorem State.winCmd_write_vf (s : State) (n : Fin 32) (w : Nat) (v : Word) :
    ∃ idx, s.winCmd (.vf n) w (putField v 30 2 2) = s.winDone (.vf n) false w idx .readOnly :=
  ⟨_, State.winCmd_write rfl rfl⟩

/-- The end of a VF's access raises no message to the host. -/
theorem State.winDone_vf_within (s : State) (n : Fin 32) (w idx : Nat) :
    (s.winDone (.vf n) false w idx .readOnly).Within (· ∈ [.words, .ctrs, .flt, .tly]) s := by
  have hend : s.winDone (.vf n) false w idx .readOnly =
      (s.putWord (portKey (.vf n) w 8) (BitVec.ofNat 32 (WinCode.readOnly.num * 2 ^ 28))).denyAs false (.vf n) .refused idx w  := by
    unfold State.winDone
    exact if_neg (by simp)
  rw [hend]
  exact State.denyAs_within (State.putWord_within (within_refl s) _ _ (by simp)) _ _ _ _ _ (by simp) (by simp) (by simp) (by simp)

/-! Locks and the VFs' ports. -/

theorem fldOf_withLockOp (v : Word) {op : Nat} (hop : op < 4) (a : Nat) : fldOf (withLockOp v op) (Reg.BLOCK_LOCK.OP a) = op :=
  (field_putField v 28 2 op (by decide)).trans (Nat.mod_eq_of_lt hop)

theorem fldOf_withLockOp_key (v : Word) (op a : Nat) : fldOf (withLockOp v op) (Reg.BLOCK_LOCK.KEY a) = fldOf v (Reg.BLOCK_LOCK.KEY a) :=
  field_putField_disjoint v 28 2 op 0 16 (by decide) (by decide) (by decide)

section
variable {s : State} {ag : Agent} {a : BitVec 26} (hlock : isLock a.toNat = true) (hag : ag ≠ .image) (hr : s.reaches ag a.toNat = true) (v : Word)
include hlock hag hr

theorem exec_lockOpen : exec (.lockOpen ag a v) s = .next (if s.bit (Reg.BLOCK_LOCK.SEALED a.toNat) = true ∨ fldOf v (Reg.BLOCK_LOCK.KEY a.toNat) ≠ 0x4F50
    then (s.hostTlp false ag a.toNat).deny ag .locked a.toNat noWin else (s.hostTlp false ag a.toNat).wr (Reg.BLOCK_LOCK.OPEN a.toNat) 1) := by
  change Host.Outcome.next (s.lockWrite ag a.toNat (withLockOp v 1)) = _
  unfold State.lockWrite
  rw [if_neg (by simp [hlock]), if_neg hag, State.gate_reaches hr, fldOf_withLockOp v (by decide), ← fldOf_withLockOp_key v 1 a.toNat,
    ← State.bit_congr (s.hostTlp_words false ag a.toNat)]
  rfl

theorem exec_lockClose : exec (.lockClose ag a v) s = .next ((s.hostTlp false ag a.toNat).wr (Reg.BLOCK_LOCK.OPEN a.toNat) 0) := by
  change Host.Outcome.next (s.lockWrite ag a.toNat (withLockOp v 2)) = _
  unfold State.lockWrite
  rw [if_neg (by simp [hlock]), if_neg hag, State.gate_reaches hr, fldOf_withLockOp v (by decide)]
  rfl

theorem exec_lockSeal : exec (.lockSeal ag a v) s =
    .next (((s.hostTlp false ag a.toNat).wr (Reg.BLOCK_LOCK.OPEN a.toNat) 0).wr (Reg.BLOCK_LOCK.SEALED a.toNat) 1) := by
  change Host.Outcome.next (s.lockWrite ag a.toNat (withLockOp v 3)) = _
  unfold State.lockWrite
  rw [if_neg (by simp [hlock]), if_neg hag, State.gate_reaches hr, fldOf_withLockOp v (by decide)]
  rfl

end

/-- The bit beside OPEN of a lock stands as OPEN is written. -/
theorem State.sealed_wr_open (s : State) (a v : Nat) : (s.wr (Reg.BLOCK_LOCK.OPEN a) v).bit (Reg.BLOCK_LOCK.SEALED a) = s.bit (Reg.BLOCK_LOCK.SEALED a) :=
  congrArg (· != 0) (State.rd_wr_bits _ _ _ _ (by simp) (by simp) (by simp))

theorem State.open_wr_sealed (s : State) (a v : Nat) : (s.wr (Reg.BLOCK_LOCK.SEALED a) v).bit (Reg.BLOCK_LOCK.OPEN a) = s.bit (Reg.BLOCK_LOCK.OPEN a) :=
  congrArg (· != 0) (State.rd_wr_bits _ _ _ _ (by simp) (by simp) (by simp))

theorem State.open_wr_open (s : State) (a v : Nat) : (s.wr (Reg.BLOCK_LOCK.OPEN a) v).bit (Reg.BLOCK_LOCK.OPEN a) = (v % 2 != 0) :=
  State.bit_wr _ _ _ (by simp)

/-- Ports of another VF are among those written. -/
def State.portsTaken (s : State) (k : Nat) (v : Word) : Bool :=
  (List.range 32).any (fun i => decide (i + 1 ≠ k) && (s.word (Reg.HST_VF_PORTS.addr (i + 1)) &&& v) != 0#32)

theorem State.portsTaken_iff (s : State) (k : Nat) (v : Word) :
    s.portsTaken k v = true ↔ ∃ i, 1 ≤ i ∧ i ≤ 32 ∧ i ≠ k ∧ s.word (Reg.HST_VF_PORTS.addr i) &&& v ≠ 0#32 := by
  simp only [State.portsTaken, List.any_eq_true, List.mem_range, Bool.and_eq_true, decide_eq_true_eq, bne_iff_ne]
  constructor
  · rintro ⟨i, hi, hne, hv⟩
    exact ⟨i + 1, by omega, by omega, hne, hv⟩
  · rintro ⟨i, hlo, hhi, hne, hv⟩
    exact ⟨i - 1, by omega, by rwa [Nat.sub_add_cancel hlo], by rwa [Nat.sub_add_cancel hlo]⟩

theorem exec_vfPortsWrite {s : State} {ag : Agent} {k : Fin 33} (hk : k.val ≠ 0) (hr : s.reaches ag (Reg.HST_VF_PORTS.addr k.val) = true) (v : Word) :
    exec (.vfPortsWrite ag k v) s = .next (if s.portsTaken k.val v = true
      then (s.hostTlp false ag (Reg.HST_VF_PORTS.addr k.val)).deny ag .refused (Reg.HST_VF_PORTS.addr k.val) noWin
      else (s.hostTlp false ag (Reg.HST_VF_PORTS.addr k.val)).putWord (Reg.HST_VF_PORTS.addr k.val) v) := by
  have htaken : (s.hostTlp false ag (Reg.HST_VF_PORTS.addr k.val)).portsTaken k.val v = s.portsTaken k.val v := by
    simp only [State.portsTaken, State.word_congr (State.hostTlp_words ..)]
  change Host.Outcome.next (s.vfPorts ag k.val v) = _
  unfold State.vfPorts
  rw [if_neg hk, State.gate_reaches hr, ← htaken]
  rfl

/-- Settles O51: an access goes to what lies at its address or is denied, and locks, windows and the VFs' ports take what their rules allow. -/
theorem hostAccess : Obligations.HostAccess := by
  unfold Obligations.HostAccess
  refine ⟨?_, ?_, ?_, ?_, ?_, ?_, ?_, ?_, ?_, ?_, ?_⟩
  · intro ag off v s hag hwin hport hocc
    have hne {a : Nat} (ha : occupied a = true) : off.toNat ≠ a := fun h => by simp [← h, hocc] at ha
    refine ⟨congrArg Host.Outcome.next ?_, congrArg Host.Outcome.next ?_⟩
    · exact (exec_regWrite_pf hag s _ v).trans (State.pfWrite_unoccupied hwin hport hocc s ag v)
    · refine (exec_regRead_pf hag s _).trans ((State.pfRead_plain hwin hport ?_ ?_ ?_ s ag).trans (if_neg (by simp [hocc])))
      · exact hne (by decide +kernel)
      · exact hne (by decide +kernel)
      · exact hne (by decide +kernel)
  · exact fun n off v s hoff => congrArg Host.Outcome.next (State.vfWrite_beyond hoff s n v)
  · exact fun ag off v s => rfl
  · intro ag v s hr
    obtain ⟨r, n, hreg⟩ : ∃ r n, regAt Reg.SRT_EXC_STW.addr = some (r, n) := ⟨_, _, rfl⟩
    exact exec_registerWrite_of_inPlainBlock (a := BitVec.ofNat 26 Reg.SRT_EXC_STW.addr) (.inl (by decide)) hreg (by decide +kernel) (by decide +kernel) hr v
  · intro ag s hag
    refine congrArg Host.Outcome.next ((exec_regRead_pf hag s _).trans ?_)
    rw [State.pfRead_plain (by decide) (by decide) (by decide) (by decide) (by decide), if_pos (by decide +kernel)]
    exact (State.readWord_excStw ..).trans (by rw [State.word_congr (State.hostTlp_words ..)]; rfl)
  · intro ag w v idx l s hag hidx hl hcount hfits
    refine ⟨_, congrArg Host.Outcome.next (State.winCmd_read_ok hidx hl (State.winCode_read_some hag hl hcount hfits)), ?_⟩
    obtain ⟨hdata, hctrs⟩ := s.winTaken_facts ag w.val idx (winFirst v) ((l.drop (winFirst v)).take (winCount v))
    have hlen : ((l.drop (winFirst v)).take (winCount v)).length = winCount v := by simp; omega
    refine ⟨fun j hj => ?_, ?_, ?_⟩
    · rw [State.word_winDone _ _ _ _ _ _ (portKey_notDenied ..), if_neg (fun h => by have := portKey_inj _ _ _ _ h; omega), hdata j (by omega)]
      simp [List.getD_eq_getElem?_getD, List.getElem?_drop, hj]
    · rw [State.word_winDone _ _ _ _ _ _ (portKey_notDenied ..), if_pos rfl]
      rfl
    · exact (State.ctr_winDone ..).trans (State.ctr_congr hctrs _)
  · intro ag w v s hag hnone
    refine ⟨_, congrArg Host.Outcome.next (State.winCmd_read_refused (by decide) (State.winCode_read_none hag hnone ..)), ?_, State.ctr_winDone ..⟩
    rw [State.word_winDone _ _ _ _ _ _ (portKey_notDenied ..), if_pos rfl]
    rfl
  · intro n w v s
    obtain ⟨idx, h⟩ := s.winCmd_write_vf n w.val v
    refine ⟨_, congrArg Host.Outcome.next h, ?_, State.ctr_winDone .., ?_⟩
    · rw [State.word_winDone _ _ _ _ _ _ (portKey_notDenied ..), if_pos rfl]
      rfl
    · exact State.winDone_vf_within s n w.val idx
  · exact fun ag w v idx ws s hidx hws => congrArg Host.Outcome.next (State.winCmd_write hidx hws)
  · intro ag a v s hlock hag hr
    have hsealed := State.bit_congr (s.hostTlp_words false ag a.toNat) (Reg.BLOCK_LOCK.SEALED a.toNat)
    refine ⟨fun hs hkey => ⟨_, exec_lockOpen hlock hag hr v, ?_⟩, fun h => (exec_lockOpen hlock hag hr v).trans (congrArg _ (if_pos h)),
      ⟨_, exec_lockClose hlock hag hr v, State.open_wr_open .., (State.sealed_wr_open ..).trans hsealed⟩,
      ⟨_, exec_lockSeal hlock hag hr v, (State.open_wr_sealed ..).trans (State.open_wr_open ..), State.bit_wr _ _ 1 (by simp)⟩⟩
    rw [if_neg (by simp [hs, hkey])]
    exact ⟨State.open_wr_open .., (State.sealed_wr_open ..).trans (hsealed.trans hs)⟩
  · intro ag k v s hk hr
    refine ⟨fun h => (exec_vfPortsWrite hk hr v).trans (congrArg _ (if_pos ((s.portsTaken_iff ..).mpr h))), fun h => ⟨_, exec_vfPortsWrite hk hr v, ?_⟩⟩
    rw [if_neg (fun ht => by obtain ⟨i, hlo, hhi, hne, hv⟩ := (s.portsTaken_iff ..).mp ht; exact hv (h i hlo hhi hne))]
    refine ⟨State.word_putWord_same .., fun i hlo hhi hne => ?_⟩
    exact (State.word_putWord ..).trans ((if_neg (by simp only [Reg.HST_VF_PORTS.addr]; omega)).trans (State.word_congr (State.hostTlp_words ..) _))

end Sys2Proof.Machine
